-- ==== Sys2Proof/Word.lean ====
section
/-! DEFINITION. The word types of the module: a register word (R490), a byte of tile memory or
flash (R30, R386), a lane's local register and its quality tag (R123). -/

-- One declaration is elaborated after another: elaboration in parallel takes a thread, with its stack, for every waiting proof.
set_option Elab.async false

namespace Sys2Proof

/-- A 32-bit register word (R490). -/
abbrev Word := BitVec 32
/-- A byte of tile memory, flash or a packet. -/
abbrev Byte := BitVec 8
/-- A lane's local register L0 to L15 (R123), or the VALUE of a point (R22). -/
abbrev Long := BitVec 64
/-- A quality word, bits as in R25. -/
abbrev Tag := BitVec 16

end Sys2Proof
end

