-- ==== Sys2Proof/Syntax.lean ====
section
/-! DEFINITION. The commands of the module, one constructor per row of spec/opcode_table.json, with the row's
operands. The operands of an event are what the outside world or the module's own sources supply with it. -/

namespace Sys2Proof

namespace Machine

/-- Conditions of form C (R128). -/
inductive Cond | eq | ne | lt | le | gt | ge
deriving DecidableEq, Repr

/-- Tile kinds (R30), in the order of their codes. -/
inductive TileKind | free | point | code | const | inst | history | mirror
deriving DecidableEq, Repr

/-- What a point stands for (R24 ORIGIN and the binding of the POINTS section, R53). -/
inductive Bind
  | free
  | di (n : Nat) | cnt (k : Nat) | ai (n : Nat) | si (k : Nat)
  | out (o : Nat)
  | doRb (n : Nat) | aoRb (n : Nat) | ltRb (n : Nat)
  | rin (port station : Nat) | rout (port station : Nat)
  | mirror (tile slot : Nat)
  | alarm (k : Nat)
  | meter (ch q : Nat)
  | loopTerm (l t : Nat)
deriving DecidableEq, Repr

/-- What a PTP message's header says (R152): domain, transport (0 UDP/IPv4, 1 UDP/IPv6, 2 layer 2), the sender's port identity. -/
structure PtpHead where
  domain : BitVec 8
  transport : Fin 3
  sender : BitVec 80
deriving DecidableEq, Repr

/-- An announce (R152, R153, R171): the grandmaster's data set, the steps to it, and what it says of UTC. -/
structure Announce where
  prio1 : BitVec 8
  cls : BitVec 8
  acc : BitVec 8
  var : BitVec 16
  prio2 : BitVec 8
  gm : BitVec 64
  steps : BitVec 16
  utc : BitVec 16
  utcValid : Bool
  leap61 : Bool
  leap59 : Bool
deriving DecidableEq, Repr

/-- A point of the POINTS section with its placement (R53, R22 to R29, R96); `origin` is the ORIGIN of a mirrored point at its owner, `affinity`
the hint of R53, `chan` the channel settings that its binding gives (R232). -/
structure PointDef where
  idx : Nat
  tile : Nat := 0
  slot : Nat := 0
  ty : Nat
  cls : Nat
  retain : Bool := false
  origin : Nat := 4
  affinity : Nat := 0
  chan : List Word := []
  init : Long := 0
  bind : Bind := .free
  policy : Nat := 0
  substAge : Nat := 1
  substVal : Long := 0
  safe : Option Long := none
  writer : Option Nat := none
deriving DecidableEq, Repr

/-- A tile of the plan: directory data and initial content (sections 0x01 and 0x03 of R73). -/
structure TileDef where
  tile : Nat
  kind : TileKind
  cls : Nat := 0
  writer : Nat := 0
  peer : Bool := false
  crc : Nat := 0
  data : List Byte := []
deriving DecidableEq, Repr

/-- A task (sections 0x04 of R73): its lane, class and priority hint, planned start and worst-case time in FCLK cycles, the tiles
it loads in order (the code tiles first), the tiles it writes back, the outputs it writes, the burst numbers it
runs in (none: every burst whose mask names its class, R59), and its marks (substitute logic R132; SAFETY copy R265; transfer
task of the planner R143). -/
structure TaskDef where
  idx : Nat
  lane : Nat
  cls : Nat
  hint : Nat := 0
  start : Nat := 0
  wcet : Nat := 0
  words : Nat := 0
  codeTiles : Nat := 1
  tiles : List Nat := []
  stores : List Nat := []
  outs : List Nat := []
  bursts : List Nat := []
  substLogic : Bool := false
  safetyCopy : Nat := 0
  transfer : Bool := false
deriving DecidableEq, Repr

/-- An entry of the instance map (section 0x0D): ID, block type, owner, place and member words (R135 to R140). -/
structure InstDef where
  num : Nat
  id : Nat
  btype : Nat
  owner : Nat
  tile : Nat
  off : Nat
  members : Nat := 0
  memberHash : List Nat := []
  memberType : List Nat := []
  memberRetain : List Bool := []
  noRetain : Bool := false
deriving DecidableEq, Repr

/-- A class of the CLASSES section (R54): period code, deadline per cent, launch offset in ns. -/
structure ClassDef where
  period : Nat
  deadline : Nat := 80
  launch : Nat
deriving DecidableEq, Repr

/-- A tenant scope of the SCOPES section (R53, R338): points it may read and write, meter channels, log areas. -/
structure ScopeDef where
  scope : Nat
  readPts : List Nat := []
  writePts : List Nat := []
  meters : List Nat := []
  logs : List Nat := []
  keyHash : Nat := 0
deriving DecidableEq, Repr

/-- A safe value of the SAFE section (R100). -/
inductive SafeVal | off | on | hold | hiz | alarm | value (w : Word)
deriving DecidableEq, Repr

/-- A CAN frame (R290): identifier, format, FD, data. -/
structure CanFrame where
  id : Nat
  xtd : Bool
  fdf : Bool
  data : List Byte
deriving DecidableEq, Repr

/-- Encoding of a remote point's field (R289). -/
inductive Enc | unsigned | signed | real32 | real64 | bcd
deriving DecidableEq, Repr

/-- Byte order of a remote point's field (R289). -/
inductive Order | little | big | bigSwapped
deriving DecidableEq, Repr

/-- A remote point's binding (R289, R293, R299, R301): its field in its request's data, or in a receive object of its port
(`obj`); for M-Bus the record's position, DIF and VIF. -/
structure RemBind where
  point : Nat
  port : Nat
  req : Nat
  byte : Nat := 0
  bit : Nat := 0
  len : Nat := 1
  enc : Enc := .unsigned
  order : Order := .little
  scale : Word := 0x3F800000
  off : Word := 0
  obj : Option Nat := none
  rxTimeout : Nat := 1
  mrec : Option (Nat × Nat × Nat) := none
deriving DecidableEq, Repr

/-- A request of a port's request list (R286, section 0x07): station, points carried, whether it writes, TO and slot
in ns, the length of its data; for CAN the frames of its transmit entry, whose data are the entry's data. `needsReply` is false
for a broadcast (R297). `attempt` is the attempt time Ta of R285 in ns, `fc` the function code of a Modbus request (R297). -/
structure PollReq where
  port : Nat
  idx : Nat
  station : Nat
  write : Bool
  points : List Nat
  timeout : Nat := 0
  attempt : Nat := 0
  slot : Nat := 0
  len : Nat := 0
  frames : List CanFrame := []
  needsReply : Bool := true
  fc : Nat := 3
deriving DecidableEq, Repr

/-- A channel of the METER section (R199): SCALE; for a current channel its voltage channel (0 to 5), scope and user mode
(ABS or NET); for a voltage channel its nominal frequency. -/
structure MeterDef where
  ch : Nat
  scale : Word := 0x3F800000
  vch : Nat := 0
  scope : Nat := 0
  abs : Bool := false
  f60 : Bool := false
deriving DecidableEq, Repr

/-- A loop of the LOOPS section (R173): number, declared mode, INIT_OUT, and the words that its registers take at a plan
load (CFG, POINTS, OUTPT, TIMING, KP, TI, TD, WEIGHT, OUT_LO, OUT_HI, RATE, MAN_OUT, R195). -/
structure LoopDef where
  num : Nat
  mode : Nat := 1
  initOut : Word := 0
  words : List Word := []
deriving DecidableEq, Repr

/-- An entry of the bank-slot table (R58, step 5): in a burst, the access of a master's task to a bank that it wants in one FCLK cycle after T0 and
gets in another, for as many cycles as it lasts. -/
structure BankSlot where
  burst : Nat
  master : Nat
  task : Nat
  bank : Nat
  want : Nat
  at_ : Nat
  len : Nat := 33
deriving DecidableEq, Repr

/-- A plan image with what of its package the module uses (R53, R72, R73). The register image holds the words
that the plan writes into registers at a load or swap (classes, regions, windows, loops, meters, ports, I/O:
step 9 of R58); `secBytes` is the body of each section as OP_PLAN_READ gives it (R349). `lists` are the mirror lists of R363; `filters` the
filter elements of CAN ports in order (R292), `rxObjs` their receive objects (port, index, identifier, extended: R293);
`cross` the cross-dependent outputs with the cross points that feed them (R366); `priv` the private records of copy B of the SAFETY tasks: the
point of copy A with the record's tile and slot (R265). `digest` and `pkgDigest` are IMAGE_DIGEST and PACKAGE_DIGEST as little-endian numbers,
`imgIds` the section IDs of the image's section table (R73), `sections` the sections the package has (R53), `bytes` and `pkgBytes` the lengths of
image and package (R74); `traffic` and `ceilings` are what the package declares for frame-pool channels (R63, R320), `cuts` the dependences that
R60 cuts: reader and writer. -/
structure Plan where
  id : Nat := 0
  slot : Nat := 0
  magic : Nat := 0x4D484349
  format : Nat := 2
  hwType : Nat := 0
  plannerVer : Nat := 0
  twoHand : Bool := false
  shadow : Bool := false
  offline : Bool := false
  safetyDiff : Bool := false
  tilesUsed : Nat := 0
  excluded : Nat := 0
  digest : Nat := 0
  pkgDigest : Nat := 0
  imgIds : List Nat := [1, 2, 3, 4, 5, 6, 7, 8, 9, 10, 11, 12, 13, 14, 15, 16]
  digestsOk : Bool := true
  sections : List Nat := []
  bytes : Nat := 0
  pkgBytes : Nat := 0
  secBytes : List (Nat × List Byte) := []
  classes : List ClassDef := []
  points : List PointDef := []
  tiles : List TileDef := []
  tasks : List TaskDef := []
  insts : List InstDef := []
  consts : List Nat := []
  drum : List (BitVec 64) := []
  bankSlots : List BankSlot := []
  reqs : List PollReq := []
  remotes : List RemBind := []
  filters : List (Nat × BitVec 64) := []
  rxObjs : List (Nat × Nat × Nat × Bool) := []
  cross : List (Nat × List Nat) := []
  priv : List (Nat × Nat × Nat) := []
  mirrorMax : Nat := 0
  quotas : List (Nat × Nat × Nat) := []
  traffic : List (Nat × Nat) := []
  ceilings : List (Nat × Nat) := []
  cuts : List (Nat × Nat) := []
  loops : List LoopDef := []
  meter : List MeterDef := []
  capWindow : Nat := 0
  jack : List (BitVec 64) := []
  scopes : List ScopeDef := []
  safe : List (Nat × SafeVal) := []
  retain : List (Nat × Nat) := []
  regImage : List (Nat × Word) := []
  lists : List (Nat × List Nat) := []
  warnings : Nat := 0
  deriving DecidableEq, Repr, Inhabited

/-- A point write, force or release that waits for its management window (R11, R345, R346). -/
inductive PtOp
  | write (p : Nat) (v : Long)
  | force (p : Nat) (v : Long)
  | release (p : Nat)
deriving DecidableEq, Repr

/-- The point of a held operation. -/
def PtOp.point : PtOp → Nat
  | .write p _ => p
  | .force p _ => p
  | .release p => p

/-- An upset of tile memory or its directory (R33, R35, R36): a byte that reads other than it was written, a single-bit and a double-bit error
of a directory entry, an entry that has lost its kind. -/
inductive Upset
  | byte (tile off : Nat) (b : Byte)
  | single (tile : Nat)
  | double (tile : Nat)
  | kind (tile : Nat)
deriving DecidableEq, Repr

/-- How a reply on a field port ends (R285, R297). -/
inductive ReplyKind | good | exception | badCheck
deriving DecidableEq, Repr

/-- What a frame on a field-Ethernet port is (R302). -/
inductive EthKind | arp | echo | lateReply | other
deriving DecidableEq, Repr

/-- The levels of RECOVERY_N (low) and TWIN_SIDE (side B) at J1 (R476, R477, R513). -/
structure Pins where
  recovery : Bool := false
  sideB : Bool := false
deriving DecidableEq, Repr

/-- The supplies as measured every 1 ms (R503): VIN, VAUX, VBAT, hold-up store and supercapacitor in mV, the input power averaged over a second and
its highest 1 ms average in mW, the rails in mV, the domains' currents in mA, and the temperatures of R501 in 0.01 °C. -/
structure Meas where
  vin : BitVec 16 := 0
  vaux : BitVec 16 := 0
  vbat : BitVec 16 := 0
  holdup : BitVec 16 := 0
  scap : BitVec 16 := 0
  mw : BitVec 16 := 0
  peak : BitVec 16 := 0
  rails : List (BitVec 16) := []
  currents : List (BitVec 16) := []
  temps : List (BitVec 16) := []
deriving DecidableEq, Repr

/-- What a frame on an uplink is under R317: a request that the module answers (ARP, ICMP echo, neighbour discovery), an Orpor packet, a PTP
message, or none of these. -/
inductive UplKind | answered | orpor (packet : List Byte) | ptp | other
deriving DecidableEq, Repr

/-- A frame as it arrives on an uplink (R309 to R317): its length, whether its FCS holds, the VID and PCP of its tag, whether its start-of-frame
delimiter marks it express, whether a fragment sequence of it broke off, whether it is addressed to the static IPv6 address, and what it is. -/
structure UplFrame where
  len : Nat
  fcs : Bool := true
  vid : Option Nat := none
  express : Bool := false
  broken : Bool := false
  static6 : Bool := false
  kind : UplKind
deriving DecidableEq, Repr

/-- What a STREAM frame carries (R356, R379): a tile with its directory CRC, or one loop's state as its retain record. -/
inductive StreamKind
  | tile (t : Nat) (bytes : List Byte) (crc : BitVec 32)
  | loop (n : Nat) (record : List Byte)
deriving DecidableEq, Repr

/-- What a CONTROL frame carries (R356, R358, R359, R370, R371): the pair's data, the start second proposed, a plan image, the second of an armed
swap, its confirmation, a state command, a verified update package and its activation, the standby's readiness, the second of a planned
handover. -/
inductive CtlKind
  | info (major : Nat) (fw : BitVec 32) (sideB : Bool)
  | start (sec : Nat)
  | plan (pl : Plan)
  | arm (sec : Nat)
  | confirm (sec : Nat)
  | command (op arg : Nat)
  | verified
  | activate
  | ready (on : Bool)
  | handover (sec : Nat)
deriving DecidableEq, Repr

/-- A program package (R53), as the items of a plan that stand in it; what only the planner gives a plan is left at its default (R56). -/
abbrev Package := Plan

/-- What the planner ends with (R41, R57, R75, R76, R77): a plan, or the first failed check and its detail. -/
inductive BuildResult
  | plan (pl : Plan)
  | failed (check detail : Nat)
deriving DecidableEq, Repr

end Machine

open Machine

/-- The commands of the module: one constructor per row of the table of operations and events. -/
inductive Instr where
  /-- R69: A Drum entry of kind NOP reaches its instant and does nothing. -/
  | drumNop (t : Nat)
  /-- R14: A WAKE_F entry fires and starts PLL-F ahead of a burst, launch or loop instant. -/
  | wakeF (t : Nat)
  /-- R18: A WAKE_M entry fires, starts PLL-M and wakes the management core. -/
  | wakeM (t : Nat)
  /-- R90: A FREEZE entry fires and the field complex latches the inputs of the masked classes into the input image. -/
  | freeze (t : Nat) (mask : BitVec 8)
  /-- R89: A BURST entry fires, the lanes start their task lists and the watchdog arms. -/
  | burst (t : Nat) (mask : BitVec 8) (seq : BitVec 16)
  /-- R89: The last lane completes its last write-back and the watchdog disarms. -/
  | burstEnd
  /-- R91: A LAUNCH entry fires and the class's staged outputs pass to the drivers in one step. -/
  | launch (t : Nat) (c : Fin 8)
  /-- R177: A LOOP_RUN entry fires; the loop engine samples PV, evaluates the control law and writes back OUT. -/
  | loopRun (t : Nat) (n : BitVec 8)
  /-- R176: A LOOP_LATCH entry fires and the loop's output is latched to its actuator. -/
  | loopLatch (t : Nat) (n : BitVec 8) (done : Bool)
  /-- R286: A POLL entry fires and the port starts the exchange of the named request with its station. -/
  | poll (t : Nat) (p : Fin 19) (i : BitVec 16)
  /-- R225: A METER_WIN entry fires and the metrology DSP writes its held results into meter-point tiles. -/
  | meterWin (t : Nat) (len : BitVec 16)
  /-- R363: A MIRROR entry fires and the String link sends or receives a mirrored POINT tile. -/
  | mirror (t : Nat) (dir : Fin 2) (list : BitVec 16)
  /-- R61: A MGMT_WIN entry opens a 20 µs management window for Orpor work, rebuilds and plan staging. -/
  | mgmtWin (t : Nat) (sramBad : List Nat) (flashBad : List Nat) (copyOk : Bool) (alive : Bool) (hits : List Upset)
  /-- R15: A STOP_F entry fires and PLL-F shuts down for 2 µs. -/
  | stopF (t : Nat)
  /-- R470: A DOMAIN entry fires and switches PD4 or PD5 on or off. -/
  | domain (t : Nat) (d : Fin 15) (on : Bool)
  /-- R16: PLL-F achieves lock; a burst waiting on a late lock starts. -/
  | pllFLock
  /-- R16: PLL-F has not locked by T0 + 50 µs; the cycle is an overrun and EV_PLL_LOCK_LATE is logged. -/
  | pllLockLate (t : Nat)
  /-- R97: The watchdog deadline passes with the burst unfinished; an overrun with cause DEADLINE. -/
  | watchdogDeadline (t : Nat)
  /-- R101: Once per hyperperiod the field complex checks its safe-table CRC and on mismatch asserts hard defaults. -/
  | safeTableCrcCheck (ok : Bool)
  /-- R97: Once per hyperperiod the RC oscillator is measured against the TCXO. -/
  | rcOscMeasure (freq : BitVec 21)
  /-- R271: Once per hyperperiod the field complex tests its comparison and pulse logic; a failure is a module safety fault. -/
  | safetySelftest (pass : Bool)
  /-- R103: A missed 50 ms heartbeat resets PD3 alone, closes sessions and logs EV_MGMT_SUPERVISOR. -/
  | mgmtSupervisor
  /-- R103: No heartbeat within 3 s of a PD3 reset causes a hard restart with cause SUPERVISOR. -/
  | supervisorRestart
  /-- R119: DELAY seconds after an overrun STOPPED, the module restarts with cause AUTO. -/
  | autoRestart
  /-- R111: At the whole second S the armed module enters RUN, hands outputs over and enables the Jack path. -/
  | enterRun (t : Nat)
  /-- R107: 900 s without a service command returns SERVICE to STOPPED and every test value to safe. -/
  | serviceTimeout
  /-- R117: In the swap window at the end of a retain period the retained tiles and loop state are written to the older retain slot. -/
  | retainSnapshot
  /-- R110: Lane 0 starts a bit-program cycle: reads DI and SI, runs the program, writes masked DO and SO. -/
  | bitCycle (steps : BitVec 13)
  /-- R110: A bit cycle unfinished at 80 % of its length is an overrun with cause BIT and leads to STOPPED. -/
  | bitOverrun
  /-- R76: The planner finishes a plan, verifies it and stores it as candidate or records the failed check. -/
  | planBuildComplete (r : BuildResult)
  /-- R84: At S − 250 µs the swap window opens and the armed swap migrates or is deferred. -/
  | swapWindowOpen
  /-- R81: At S the Drum bank, directory, maps, regions and quotas switch to the candidate in one step. -/
  | planSwap
  /-- R129: Bluot NOP does nothing for one cycle. -/
  | nop (ln : Fin 8)
  /-- R129: Bluot END ends the task. -/
  | endTask (ln : Fin 8)
  /-- R133: Branch forward unconditionally. -/
  | br (ln : Fin 8) (off : BitVec 20)
  /-- R133: Branch forward if bit 0 of Ld is 1. -/
  | bt (ln : Fin 8) (d : Fin 16) (off : BitVec 20)
  /-- R133: Branch forward if bit 0 of Ld is 0. -/
  | bf (ln : Fin 8) (d : Fin 16) (off : BitVec 20)
  /-- R133: Branch forward if VALID in Qd is 0. -/
  | bnv (ln : Fin 8) (d : Fin 16) (off : BitVec 20)
  /-- R134: Repeat the following body count times, writing the iteration number to Ld. -/
  | repeat (ln : Fin 8) (d : Fin 16) (count : BitVec 9) (body : BitVec 11)
  /-- R126: Load a point's VALUE and QUALITY into Ld and Qd. -/
  | ldp (ln : Fin 8) (d : Fin 16) (p : BitVec 13)
  /-- R127: Store Ld and Qd to a point, unless the point is forced. -/
  | stp (ln : Fin 8) (d : Fin 16) (p : BitVec 13)
  /-- R129: Load a point's AGE as INT32. -/
  | ldage (ln : Fin 8) (d : Fin 16) (p : BitVec 13)
  /-- R129: Load a point's CHANGES as INT32. -/
  | ldchg (ln : Fin 8) (d : Fin 16) (p : BitVec 13)
  /-- R129: Load a sign-extended immediate. -/
  | ldi (ln : Fin 8) (d : Fin 16) (imm : BitVec 20)
  /-- R129: Load a sign-extended 32-bit second word. -/
  | ldix (ln : Fin 8) (d : Fin 16) (w : BitVec 32)
  /-- R129: Load the second word as REAL32. -/
  | ldir (ln : Fin 8) (d : Fin 16) (w : BitVec 32)
  /-- R129: Load a constant word from the pool. -/
  | ldk (ln : Fin 8) (d : Fin 16) (k : BitVec 13)
  /-- R141: Load an indexed constant word, clamped with RANGE outside its range. -/
  | ldkx (ln : Fin 8) (d : Fin 16) (a : Fin 16) (k : BitVec 13) (cnt : BitVec 8)
  /-- R129: Copy Ls and Qs to Ld and Qd. -/
  | mov (ln : Fin 8) (d : Fin 16) (a : Fin 16)
  /-- R140: Load a member of a user-defined block instance with quality 0x0001. -/
  | ldm (ln : Fin 8) (d : Fin 16) (n : BitVec 14) (w : BitVec 5)
  /-- R140: Store Ld to a member of a user-defined block instance. -/
  | stm (ln : Fin 8) (d : Fin 16) (n : BitVec 14) (w : BitVec 5)
  /-- R141: Load an indexed member word, clamped with RANGE outside its range. -/
  | ldmx (ln : Fin 8) (d : Fin 16) (a : Fin 16) (n : BitVec 14) (w : BitVec 5) (cnt : BitVec 5)
  /-- R141: Store Ld to an indexed member word, or nothing outside its range. -/
  | stmx (ln : Fin 8) (d : Fin 16) (a : Fin 16) (n : BitVec 14) (w : BitVec 5) (cnt : BitVec 5)
  /-- R129: Load FREEZE_TIME as TIME. -/
  | ldt (ln : Fin 8) (d : Fin 16)
  /-- R130: INT32 addition with saturation. -/
  | addI (ln : Fin 8) (d : Fin 16) (a : Fin 16) (b : Fin 16)
  /-- R130: INT32 subtraction with saturation. -/
  | subI (ln : Fin 8) (d : Fin 16) (a : Fin 16) (b : Fin 16)
  /-- R130: INT32 multiplication with saturation. -/
  | mulI (ln : Fin 8) (d : Fin 16) (a : Fin 16) (b : Fin 16)
  /-- R130: INT32 division toward zero, with defined division by zero. -/
  | divI (ln : Fin 8) (d : Fin 16) (a : Fin 16) (b : Fin 16)
  /-- R130: INT32 remainder with the sign of Ls; 0 for division by zero. -/
  | modI (ln : Fin 8) (d : Fin 16) (a : Fin 16) (b : Fin 16)
  /-- R130: INT32 negation with saturation. -/
  | negI (ln : Fin 8) (d : Fin 16) (a : Fin 16)
  /-- R130: INT32 absolute value with saturation. -/
  | absI (ln : Fin 8) (d : Fin 16) (a : Fin 16)
  /-- R129: INT32 minimum. -/
  | minI (ln : Fin 8) (d : Fin 16) (a : Fin 16) (b : Fin 16)
  /-- R129: INT32 maximum. -/
  | maxI (ln : Fin 8) (d : Fin 16) (a : Fin 16) (b : Fin 16)
  /-- R129: INT32 limit of Ld between Ls and Lt. -/
  | limI (ln : Fin 8) (d : Fin 16) (a : Fin 16) (b : Fin 16)
  /-- R129: INT32 addition of an immediate. -/
  | addiI (ln : Fin 8) (d : Fin 16) (a : Fin 16) (imm : BitVec 16)
  /-- R130: INT64 addition with saturation. -/
  | addL (ln : Fin 8) (d : Fin 16) (a : Fin 16) (b : Fin 16)
  /-- R130: INT64 subtraction with saturation. -/
  | subL (ln : Fin 8) (d : Fin 16) (a : Fin 16) (b : Fin 16)
  /-- R130: INT64 multiplication with saturation. -/
  | mulL (ln : Fin 8) (d : Fin 16) (a : Fin 16) (b : Fin 16)
  /-- R130: INT64 division toward zero, with defined division by zero. -/
  | divL (ln : Fin 8) (d : Fin 16) (a : Fin 16) (b : Fin 16)
  /-- R130: INT64 negation with saturation. -/
  | negL (ln : Fin 8) (d : Fin 16) (a : Fin 16)
  /-- R130: INT64 absolute value with saturation. -/
  | absL (ln : Fin 8) (d : Fin 16) (a : Fin 16)
  /-- R129: INT64 minimum. -/
  | minL (ln : Fin 8) (d : Fin 16) (a : Fin 16) (b : Fin 16)
  /-- R129: INT64 maximum. -/
  | maxL (ln : Fin 8) (d : Fin 16) (a : Fin 16) (b : Fin 16)
  /-- R129: INT64 limit of Ld between Ls and Lt. -/
  | limL (ln : Fin 8) (d : Fin 16) (a : Fin 16) (b : Fin 16)
  /-- R130: REAL32 addition. -/
  | addF (ln : Fin 8) (d : Fin 16) (a : Fin 16) (b : Fin 16)
  /-- R130: REAL32 subtraction. -/
  | subF (ln : Fin 8) (d : Fin 16) (a : Fin 16) (b : Fin 16)
  /-- R130: REAL32 multiplication. -/
  | mulF (ln : Fin 8) (d : Fin 16) (a : Fin 16) (b : Fin 16)
  /-- R130: REAL32 division. -/
  | divF (ln : Fin 8) (d : Fin 16) (a : Fin 16) (b : Fin 16)
  /-- R130: REAL32 square root. -/
  | sqrtF (ln : Fin 8) (d : Fin 16) (a : Fin 16)
  /-- R129: REAL32 negation. -/
  | negF (ln : Fin 8) (d : Fin 16) (a : Fin 16)
  /-- R129: REAL32 absolute value. -/
  | absF (ln : Fin 8) (d : Fin 16) (a : Fin 16)
  /-- R130: REAL32 minimum with minNum NaN handling. -/
  | minF (ln : Fin 8) (d : Fin 16) (a : Fin 16) (b : Fin 16)
  /-- R130: REAL32 maximum with maxNum NaN handling. -/
  | maxF (ln : Fin 8) (d : Fin 16) (a : Fin 16) (b : Fin 16)
  /-- R130: REAL32 limit of Ld between Ls and Lt with NaN handling. -/
  | limF (ln : Fin 8) (d : Fin 16) (a : Fin 16) (b : Fin 16)
  /-- R129: REAL32 multiply-accumulate rounded after product and sum. -/
  | macF (ln : Fin 8) (d : Fin 16) (a : Fin 16) (b : Fin 16)
  /-- R129: Convert INT32 to INT64. -/
  | i2l (ln : Fin 8) (d : Fin 16) (a : Fin 16)
  /-- R130: Convert INT64 to INT32 with saturation. -/
  | l2i (ln : Fin 8) (d : Fin 16) (a : Fin 16)
  /-- R130: Convert INT32 to REAL32. -/
  | i2f (ln : Fin 8) (d : Fin 16) (a : Fin 16)
  /-- R130: Convert REAL32 to INT32 with saturation; NaN gives 0. -/
  | f2i (ln : Fin 8) (d : Fin 16) (a : Fin 16)
  /-- R130: Convert INT64 to REAL32. -/
  | l2f (ln : Fin 8) (d : Fin 16) (a : Fin 16)
  /-- R130: Convert REAL32 to INT64 with saturation; NaN gives 0. -/
  | f2l (ln : Fin 8) (d : Fin 16) (a : Fin 16)
  /-- R129: 64-bit bitwise AND. -/
  | and64 (ln : Fin 8) (d : Fin 16) (a : Fin 16) (b : Fin 16)
  /-- R129: 64-bit bitwise OR. -/
  | or64 (ln : Fin 8) (d : Fin 16) (a : Fin 16) (b : Fin 16)
  /-- R129: 64-bit bitwise XOR. -/
  | xor64 (ln : Fin 8) (d : Fin 16) (a : Fin 16) (b : Fin 16)
  /-- R129: BOOL negation of bit 0. -/
  | notB (ln : Fin 8) (d : Fin 16) (a : Fin 16)
  /-- R129: 64-bit bitwise complement. -/
  | inv64 (ln : Fin 8) (d : Fin 16) (a : Fin 16)
  /-- R129: Shift left by Lt[5:0]. -/
  | shl (ln : Fin 8) (d : Fin 16) (a : Fin 16) (b : Fin 16)
  /-- R129: Logical shift right by Lt[5:0]. -/
  | shr (ln : Fin 8) (d : Fin 16) (a : Fin 16) (b : Fin 16)
  /-- R129: Arithmetic shift right by Lt[5:0]. -/
  | sar (ln : Fin 8) (d : Fin 16) (a : Fin 16) (b : Fin 16)
  /-- R129: INT32 comparison giving BOOL. -/
  | cmpI (ln : Fin 8) (d : Fin 16) (a : Fin 16) (b : Fin 16) (c : Cond)
  /-- R129: INT64 or TIME comparison giving BOOL. -/
  | cmpL (ln : Fin 8) (d : Fin 16) (a : Fin 16) (b : Fin 16) (c : Cond)
  /-- R130: REAL32 comparison giving BOOL, with NaN rules. -/
  | cmpF (ln : Fin 8) (d : Fin 16) (a : Fin 16) (b : Fin 16) (c : Cond)
  /-- R131: Select Lt or Ls by bit 0 of Ld. -/
  | sel (ln : Fin 8) (d : Fin 16) (a : Fin 16) (b : Fin 16)
  /-- R129: Load Qs as INT32. -/
  | qld (ln : Fin 8) (d : Fin 16) (a : Fin 16)
  /-- R129: Test Qs against a mask giving BOOL. -/
  | qtst (ln : Fin 8) (d : Fin 16) (a : Fin 16) (mask : BitVec 16)
  /-- R132: OR SUBST or RANGE into Qd and recompute VALID. -/
  | qset (ln : Fin 8) (d : Fin 16) (mask : BitVec 16)
  /-- R132: Set Qd to VALID only, in substitute logic. -/
  | qval (ln : Fin 8) (d : Fin 16)
  /-- R132: Copy Qs into Qd, in substitute logic. -/
  | qcpy (ln : Fin 8) (d : Fin 16) (a : Fin 16)
  /-- R138: Execute an on-delay timer instance. -/
  | ton (ln : Fin 8) (d : Fin 16) (n : BitVec 14)
  /-- R138: Execute an off-delay timer instance. -/
  | tof (ln : Fin 8) (d : Fin 16) (n : BitVec 14)
  /-- R138: Execute a pulse timer instance. -/
  | tp (ln : Fin 8) (d : Fin 16) (n : BitVec 14)
  /-- R139: Execute an up counter instance. -/
  | ctu (ln : Fin 8) (d : Fin 16) (n : BitVec 14)
  /-- R139: Execute a down counter instance. -/
  | ctd (ln : Fin 8) (d : Fin 16) (n : BitVec 14)
  /-- R139: Execute a rising-edge detector instance. -/
  | rTrig (ln : Fin 8) (d : Fin 16) (n : BitVec 14)
  /-- R139: Execute a falling-edge detector instance. -/
  | fTrig (ln : Fin 8) (d : Fin 16) (n : BitVec 14)
  /-- R139: Execute a set-dominant bistable. -/
  | srBlk (ln : Fin 8) (d : Fin 16) (n : BitVec 14)
  /-- R139: Execute a reset-dominant bistable. -/
  | rsBlk (ln : Fin 8) (d : Fin 16) (n : BitVec 14)
  /-- R143: Transfer one input point from image, port buffer or mirror, applying substitute policy and AGE. -/
  | inx (ln : Fin 8) (p : BitVec 13)
  /-- R143: Copy one point's VALUE into its class's output staging. -/
  | outx (ln : Fin 8) (p : BitVec 13)
  /-- R145: Bit program no operation. -/
  | bitNop
  /-- R145: ACC takes an operand bit. -/
  | bitLd (area : BitVec 3) (n : BitVec 8)
  /-- R145: ACC takes the inverse of an operand bit. -/
  | bitLdn (area : BitVec 3) (n : BitVec 8)
  /-- R145: ACC AND operand. -/
  | bitAnd (area : BitVec 3) (n : BitVec 8)
  /-- R145: ACC AND NOT operand. -/
  | bitAndn (area : BitVec 3) (n : BitVec 8)
  /-- R145: ACC OR operand. -/
  | bitOr (area : BitVec 3) (n : BitVec 8)
  /-- R145: ACC OR NOT operand. -/
  | bitOrn (area : BitVec 3) (n : BitVec 8)
  /-- R145: ACC XOR operand. -/
  | bitXor (area : BitVec 3) (n : BitVec 8)
  /-- R145: Store ACC to an operand bit. -/
  | bitSt (area : BitVec 3) (n : BitVec 8)
  /-- R145: Store NOT ACC to an operand bit. -/
  | bitStn (area : BitVec 3) (n : BitVec 8)
  /-- R145: Set an operand bit if ACC. -/
  | bitSet (area : BitVec 3) (n : BitVec 8)
  /-- R145: Clear an operand bit if ACC. -/
  | bitRst (area : BitVec 3) (n : BitVec 8)
  /-- R145: Push ACC on the bit stack. -/
  | bitPush
  /-- R145: ACC takes popped bit AND ACC. -/
  | bitPopand
  /-- R145: ACC takes popped bit OR ACC. -/
  | bitPopor
  /-- R145: ACC takes the popped bit. -/
  | bitPop
  /-- R145: Invert ACC. -/
  | bitNota
  /-- R145: Jump forward if ACC. -/
  | bitJc (off : BitVec 11)
  /-- R145: Jump forward if not ACC. -/
  | bitJnc (off : BitVec 11)
  /-- R145: Jump forward unconditionally. -/
  | bitJmp (off : BitVec 11)
  /-- R145: End this bit cycle's program. -/
  | bitEnd
  /-- R152: A PTP Sync (or follow-up) message is received, timestamped and an offset measured and steered. -/
  | ptpSync (u : Fin 2) (h : PtpHead) (origin : Nat) (rx : Nat)
  /-- R153: A source's sixteenth consecutive good sync, or eighth good PPS edge, qualifies it. -/
  | sourceQualified (x : Fin 3)
  /-- R153: A PTP Announce message is received, updating grandmaster and UTC offset data. -/
  | ptpAnnounce (u : Fin 2) (h : PtpHead) (a : Announce)
  /-- R153: Three announce intervals without a valid announce lose the PTP source. -/
  | announceTimeout (u : Fin 2)
  /-- R153: Eight sync intervals without a sync lose the PTP source. -/
  | syncTimeout (u : Fin 2)
  /-- R154: A rising 1 PPS edge on TSYNC_IN is timestamped and measured. -/
  | tsyncInEdge (t : Nat)
  /-- R154: Two missing PPS edges lose the TSYNC_IN source. -/
  | ppsLoss
  /-- R155: TSYNC_OUT rises at a whole second of building time. -/
  | tsyncOutPulse
  /-- R155: TSYNC_OUT falls 10 ms after its rising edge. -/
  | tsyncOutFall
  /-- R156: At the end of the hyperperiod a pending step loads the corrected time and the Drum pauses to the next whole second. -/
  | timeStep
  /-- R158: The holdover error estimate exceeds HOLD_ERR and the state becomes FREE. -/
  | holdoverToFree (t : Nat)
  /-- R165: A fast input changes and Jack entries activate or withdraw on their outputs within 30 ns. -/
  | jackInputChange (i : Fin 24) (level : Bool)
  /-- R167: A latched entry whose condition stayed false for RELEASE_MS releases itself. -/
  | jackReleaseTimeout (i : Fin 64)
  /-- R167: A write of JACK_RESET.ENTRY releases one latched entry, with change records for safety outputs. -/
  | jackReset (h : BitVec 10) (i : Fin 64)
  /-- R172: A write of JACK_RESET.ALL releases every entry the session may release. -/
  | jackResetAll (h : BitVec 10)
  /-- R271: The two Jack logic copies differ for 50 ns; a module safety fault. -/
  | jackCompare
  /-- R182: A write of LOOP[n].MODE.REQ queues a mode request for the next LOOP_RUN. -/
  | loopModeRequest (h : BitVec 10) (n : BitVec 8) (req : BitVec 3)
  /-- R184: A write of a loop tuning register is taken or ignored with EV_LOOP_PARAM, to apply bumplessly at the next evaluation. -/
  | loopTuningWrite (h : BitVec 10) (n : BitVec 8) (reg : Fin 12) (w : BitVec 32)
  /-- R192: A write of LOOPTEST CTRL.START starts or refuses a test at the loop's next LOOP_RUN. -/
  | looptestStart (h : BitVec 10) (g : Fin 4)
  /-- R192: A write of LOOPTEST CTRL.ABORT aborts the running test. -/
  | looptestAbort (h : BitVec 10) (g : Fin 4)
  /-- R194: After a test's last evaluation the management core fits the model and sets EST_* and STATE. -/
  | looptestAnalysis (g : Fin 4)
  /-- R204: A current channel's selected range changes at a sample boundary. -/
  | gainSwitch (c : Fin 96)
  /-- R205: A sample beyond the linear limit is clipped and OVERLOAD is set. -/
  | sampleClip (c : Fin 102)
  /-- R206: At a 200 ms block end all channels publish quantities and energy registers and MET_BLOCK advances. -/
  | metBlockEnd (temp : BitVec 16)
  /-- R221: After BLOCKS blocks the raw means appear in MET_CAL_RAW and DONE is set. -/
  | metCalAccumDone
  /-- R215: At an interval boundary the DSP closes one record per current channel into the write-ahead buffer. -/
  | metIntervalBoundary
  /-- R222: Every 100 ms the DSP state is journalled to the older FeRAM slot, or the copy is skipped. -/
  | metJournal
  /-- R220: A write of MET_CAL_CTRL.COMMIT stores the staged set, logs EV_MET_CAL and schedules activation. -/
  | metCalCommit (h : BitVec 10)
  /-- R221: A write of MET_CAL_CTRL.ACCUM starts raw accumulation at the next block boundary. -/
  | metCalAccum (h : BitVec 10)
  /-- R220: A write of MET_CAL_CTRL.DISCARD drops the staging copy. -/
  | metCalDiscard (h : BitVec 10)
  /-- R227: A write of MET_CAP_CTRL.START, or a triggering overload, starts a waveform capture. -/
  | metCapStart (h : BitVec 10)
  /-- R227: The capture has filled its window once and sets DONE. -/
  | metCapDone
  /-- R212: A read of an energy _LO register latches its _HI register. -/
  | metEnergyLoRead (c : Fin 96) (e : Fin 8)
  /-- R233: An input's filtered state changes after FILT of consecutive samples at the new level. -/
  | diFilterChange (n : Fin 48) (level : Bool)
  /-- R234: A filtered state active longer than MAXON sets STUCK and logs EV_DI_STUCK. -/
  | diStuck (n : Fin 48)
  /-- R235: More than CHAT_N changes within CHAT_WIN set CHATTER, freeze the value and log EV_DI_CHATTER. -/
  | diChatter (n : Fin 48)
  /-- R235: No change for CHAT_HOLD clears CHATTER and releases the reported value. -/
  | chatterHoldExpiry (n : Fin 48)
  /-- R237: A filtered edge on DI01–DI08 increments its 64-bit counter. -/
  | countEdge (k : Fin 8) (rising : Bool)
  /-- R238: A 1 ms counting window ends and OVERSPEED is judged. -/
  | countWindowEnd
  /-- R239: Every 100 ms the counters are journalled to the older FeRAM slot. -/
  | countJournal
  /-- R258: A read of FIO_CNT[k].LO latches FIO_CNT[k].HI. -/
  | fioCntLoRead (k : Fin 8)
  /-- R240: 200 µs in current limit switches a DO off, sets SC and logs EV_DO_SHORT. -/
  | doShort (n : Fin 24)
  /-- R240: With RETRY 1 the output tries again 1 s after a short-circuit trip. -/
  | doShortRetry (n : Fin 24)
  /-- R240: Junction above 175 °C switches the DO off and sets THERMAL. -/
  | doThermalTrip (n : Fin 24)
  /-- R240: Below 160 °C the DO switches on again if its value in force is 1. -/
  | doThermalRecover (n : Fin 24)
  /-- R240: Group current above 3.4 A for 10 ms switches the group off and logs EV_DO_GROUP. -/
  | doGroupTrip (g : Fin 3) (ma : BitVec 16)
  /-- R240: A tripped group retries after 5 s, or latches after three retries in 60 s. -/
  | doGroupRetry (g : Fin 3)
  /-- R258: A write of 1 to FIO_DO_GRP[g].LATCHED clears it and retries at once. -/
  | doGroupLatchClear (h : BitVec 10) (g : Fin 3)
  /-- R258: A write of 1 to SC_LATCHED clears the short-circuit latch and retries. -/
  | doScLatchClear (h : BitVec 10) (n : Fin 24)
  /-- R240: VAUX below 16 V turns all DO off, sets VAUX_LOST and logs EV_VAUX_LOW. -/
  | vauxLost (mv : BitVec 16)
  /-- R240: VAUX above 17 V releases the DO outputs. -/
  | vauxRestored (mv : BitVec 16)
  /-- R241: An on output below 2 mA for 100 ms sets OPENLOAD; 100 ms at or above clears it. -/
  | doOpenload (n : Fin 24) (ma : BitVec 16)
  /-- R244: An AI conversion completes at a multiple of T and passes through the filter and scaling. -/
  | aiConversion (n : Fin 16) (x : BitVec 32)
  /-- R243: Current above 30 mA for 1 ms disconnects the burden and sets PROT. -/
  | aiProtTrip (n : Fin 16)
  /-- R243: The burden reconnects 1 s after a PROT trip. -/
  | aiProtReconnect (n : Fin 16)
  /-- R248: An AO reaching current limit or compliance sets OVLD or OPEN, clearing after 100 ms absent. -/
  | aoFault (n : Fin 8) (present : Bool)
  /-- R251: The field complex sends an island its regular 1 ms command frame. -/
  | ltCommandFrame (n : Fin 8)
  /-- R251: An island applies a new current exactly 20 µs after its launch, latch or frame instant. -/
  | ltCurrentApply (n : Fin 8)
  /-- R251: An island reports its measured loop current and terminal voltage. -/
  | ltReport (n : Fin 8) (ma : BitVec 32) (termV : BitVec 8)
  /-- R253: 20 ms without an island report sets OPEN and logs EV_LT_OPEN. -/
  | ltOpen (n : Fin 8)
  /-- R254: An island without a command frame for 10 ms starts holding its last current. -/
  | ltFrameLoss (n : Fin 8)
  /-- R254: After LT_HOLD without frames the island goes to its alarm level. -/
  | ltHoldExpiry (n : Fin 8)
  /-- R256: The FSK modem receives a character into the island's buffer or drops it with RX_OVF. -/
  | ltModemChar (n : Fin 8) (c : BitVec 8) (parityErr : Bool)
  /-- R261: A safety channel's filtered state changes, updating the pair value and the discrepancy clearing steps. -/
  | siFilterChange (k : Fin 8) (chB : Bool) (level : Bool)
  /-- R261: Channels disagreeing longer than DISC set a discrepancy fault and log EV_SI_DISCREPANCY. -/
  | siDiscrepancy (k : Fin 8)
  /-- R262: The two comparators of a channel differ for 50 µs; TEST_FAULT is set and EV_SI_TEST logged. -/
  | siTestFault (k : Fin 8) (chB : Bool)
  /-- R268: A 200 µs off-pulse starts on an SO channel at its slot in the second. -/
  | soOffPulse (k : Fin 4) (chB : Bool)
  /-- R268: 150 µs into the pulse, and 150 µs after it, readback and cross checks are judged. -/
  | soPulseCheck (k : Fin 4) (chB : Bool) (own : Bool) (other : Bool)
  /-- R268: A commanded-off channel reading on for 1 ms fails with NOT_OFF. -/
  | soDarkFail (k : Fin 4) (chB : Bool)
  /-- R268: A commanded-on channel reading off for 150 µs fails with NO_ON. -/
  | soOnFail (k : Fin 4) (chB : Bool)
  /-- R268: An SO driver in current limit for 200 µs fails with OVERLOAD. -/
  | soOverload (k : Fin 4) (chB : Bool)
  /-- R271: Both channels read on for 1 ms while commanded off; a module safety fault. -/
  | soBothOn (k : Fin 4)
  /-- R280: 300 s after the session's last safety command the unlock window closes. -/
  | unlockWindowExpiry (h : BitVec 10)
  /-- R280: A 900 s unlock block ends and the failure count returns to 0. -/
  | unlockBlockExpiry
  /-- R287: A reply completes its check and all its points enter the port buffer together. -/
  | exchangeReply (p : Fin 19) (kind : ReplyKind) (data : List Byte) (recs : List (Nat × Nat × List Byte))
  /-- R285: A reply does not arrive within TO; a further attempt follows or the exchange fails. -/
  | attemptTimeout (p : Fin 19)
  /-- R293: An error-free CAN frame passes the filter list and goes to its receive object or pass-through queue. -/
  | canFrameRx (p : Fin 19) (f : CanFrame)
  /-- R291: The head frame loses arbitration or meets a bus error and is retried or its entry aborted. -/
  | canTxError (p : Fin 19) (busError : Bool)
  /-- R294: The port goes bus-off, aborts queued frames and logs EV_CAN_BUSOFF. -/
  | canBusOff (p : Fin 19)
  /-- R294: After 128 occurrences of 11 recessive bits the port recovers. -/
  | canBusOffRecovery (p : Fin 19)
  /-- R298: The MS/TP port receives the token and sends a queued exchange or passes it on. -/
  | mstpToken (p : Fin 19)
  /-- R300: Bus voltage below 9.5 V for 500 ms sets NO_POWER. -/
  | daliNoPower (p : Fin 19) (mv : BitVec 16)
  /-- R300: Bus voltage above 11.5 V for 100 ms clears NO_POWER. -/
  | daliPowerRestored (p : Fin 19) (mv : BitVec 16)
  /-- R299: An edition 2 input device event message is stored against its binding. -/
  | daliEventMessage (p : Fin 19) (addr : Nat) (data : List Byte)
  /-- R301: Quiescent current above 150 mA for 50 ms switches the bus off and logs EV_MBUS_SHORT. -/
  | mbusShort
  /-- R301: The M-Bus supply retries 10 s after a short. -/
  | mbusRetry
  /-- R303: A T1L port above its LIMIT for 1 ms is switched off and logs EV_T1L_POWER. -/
  | t1lOvercurrent (k : Fin 8)
  /-- R303: Total T1L power above 32 W for 10 ms sheds ports from the highest number down. -/
  | t1lShed (power : List (BitVec 16))
  /-- R303: A switched-off or shed T1L port retries its power after 5 s. -/
  | t1lPowerRetry (k : Fin 8)
  /-- R302: A Modbus TCP connection to a station closes and is reopened in its next slot. -/
  | tcpConnectionClosed (p : Fin 19) (station : Nat)
  /-- R288: A queued pass-through exchange runs in the port's next pass-through window. -/
  | passExchange (code : BitVec 6) (ended : Bool) (reply : Option (List Byte))
  /-- R288: A pass-through window ends and an unfinished exchange is abandoned and counted. -/
  | passWindowEnd (p : Fin 19)
  /-- R309: A frame arrives on an uplink and is checked, classified and stored in the frame pool or dropped. -/
  | uplFrameRx (u : Fin 2) (f : UplFrame)
  /-- R315: A PAUSE or PFC frame is counted and dropped or honoured per IGNORE_PAUSE. -/
  | pauseFrame (u : Fin 2) (pfc : Option (BitVec 8)) (quanta : BitVec 16)
  /-- R307: An uplink comes up at the negotiated speed and starts preemption verification. -/
  | uplLinkUp (u : Fin 2) (offer : BitVec 5)
  /-- R311: The partner answers verification and preemption becomes active. -/
  | preemptVerified (u : Fin 2)
  /-- R323: An uplink goes down and its queued PTP and TX frames are discarded. -/
  | uplLinkDown (u : Fin 2)
  /-- R308: A transceiver is inserted and its identification read to choose the rate. -/
  | sfpInsert (declares : BitVec 5)
  /-- R308: A loss-of-signal indication takes the link down within 1 ms. -/
  | sfpLos (los : Bool)
  /-- R312: Each second the uplink load is measured and a downshift judged due or not. -/
  | loadMeasure (u : Fin 2) (tx : BitVec 40) (rx : BitVec 40)
  /-- R313: Transmit cells above UP_THR for 10 ms, or receive rate above UP_RX for 1 s, make an upshift due. -/
  | upshiftDue (u : Fin 2)
  /-- R314: HOLDOFF after link-up passes and a waiting shift is judged again. -/
  | holdoffExpiry (u : Fin 2)
  /-- R314: A link not up within 3 s of a shift readvertises the whole range and logs EV_UPL_SHIFT_FAIL. -/
  | shiftFail (u : Fin 2)
  /-- R323: A TX frame waiting 50 ms without starting is discarded. -/
  | txFrameTimeout (u : Fin 2) (express : Bool)
  /-- R319: Frame-pool clearing after PD14 power-on completes. -/
  | poolClearDone
  /-- R318: A write of CTRL.APPLY makes the staged uplink set live and pending. -/
  | uplApply (h : BitVec 10) (u : Fin 2)
  /-- R318: A write of CTRL.CONFIRM makes the pending set permanent. -/
  | uplConfirm (h : BitVec 10) (u : Fin 2)
  /-- R318: A write of CTRL.REVERT returns to the previous settings and logs EV_UPL_REVERTED. -/
  | uplRevert (h : BitVec 10) (u : Fin 2)
  /-- R318: No confirmation within 120 s returns to the previous settings. -/
  | uplConfirmTimeout (u : Fin 2)
  /-- R330: An Orpor packet arrives and is checked, authenticated and passed to acceptance. -/
  | orporPacket (ch : Fin 12)
  /-- R328: A WRITE transfer on the local host port delivers one packet or is discarded as busy or malformed. -/
  | spiWrite (len : BitVec 16) (bytes : List Byte)
  /-- R328: A READ transfer returns the oldest waiting reply. -/
  | spiRead
  /-- R328: A STATUS transfer returns the status byte alone. -/
  | spiStatus
  /-- R336: A session without an accepted command for IDLE seconds closes. -/
  | sessionIdleTimeout (h : BitVec 10)
  /-- R333: Return SYS_ID, SYS_REV and UNIT_ID in clear without a session. -/
  | opSessProbe
  /-- R334: Open an authenticated session and derive its keys. -/
  | opSessOpen
  /-- R336: Close the session. -/
  | opSessClose (h : BitVec 10) (seq : BitVec 32)
  /-- R349: Return the session's role, transport, scope and counters. -/
  | opSessInfo (h : BitVec 10) (seq : BitVec 32)
  /-- R349: List open sessions. -/
  | opSessList (h : BitVec 10) (seq : BitVec 32)
  /-- R336: Close another session. -/
  | opSessKill (h : BitVec 10) (seq : BitVec 32)
  /-- R349: Read listed point records. -/
  | opPtRead (h : BitVec 10) (seq : BitVec 32)
  /-- R349: Read a range of point records. -/
  | opPtReadRange (h : BitVec 10) (seq : BitVec 32)
  /-- R345: Write virtual points, applied in the next management window. -/
  | opPtWrite (h : BitVec 10) (seq : BitVec 32)
  /-- R346: Force a point's value with FORCED quality. -/
  | opPtForce (h : BitVec 10) (seq : BitVec 32)
  /-- R346: Release one or all forces. -/
  | opPtRelease (h : BitVec 10) (seq : BitVec 32)
  /-- R349: List forced points within the session's map. -/
  | opPtForces (h : BitVec 10) (seq : BitVec 32)
  /-- R347: Begin a package transfer. -/
  | opPkgBegin (h : BitVec 10) (seq : BitVec 32)
  /-- R347: Store one block of a package transfer. -/
  | opPkgBlock (h : BitVec 10) (seq : BitVec 32)
  /-- R347: End a package transfer, check it and start planning or verification. -/
  | opPkgEnd (h : BitVec 10) (seq : BitVec 32)
  /-- R78: Arm the candidate for an online swap or activate it by restart. -/
  | opPlanActivate (h : BitVec 10) (seq : BitVec 32)
  /-- R349: Cancel the armed swap. -/
  | opPlanCancel (h : BitVec 10) (seq : BitVec 32)
  /-- R349: Read bytes of a plan section. -/
  | opPlanRead (h : BitVec 10) (seq : BitVec 32)
  /-- R146: Load a block of a bit-program record and check the complete record. -/
  | opBitprogLoad (h : BitVec 10) (seq : BitVec 32)
  /-- R349: Read bytes of the BITPROG record. -/
  | opBitprogRead (h : BitVec 10) (seq : BitVec 32)
  /-- R490: Read consecutive registers as one uninterrupted operation. -/
  | opRegRead (h : BitVec 10) (seq : BitVec 32)
  /-- R491: Write registers in command order and return their values. -/
  | opRegWrite (h : BitVec 10) (seq : BitVec 32)
  /-- R492: Read-modify-write one register, leaving unnamed W1C bits alone. -/
  | opRegModify (h : BitVec 10) (seq : BitVec 32)
  /-- R349: Read a consistent set of metering registers of one block end. -/
  | opMetRead (h : BitVec 10) (seq : BitVec 32)
  /-- R349: Read stored interval records of a channel. -/
  | opMetIntervals (h : BitVec 10) (seq : BitVec 32)
  /-- R349: Read waveform capture records. -/
  | opMetCapture (h : BitVec 10) (seq : BitVec 32)
  /-- R349: Read a loop's registers. -/
  | opLoopRead (h : BitVec 10) (seq : BitVec 32)
  /-- R349: Request a loop mode. -/
  | opLoopMode (h : BitVec 10) (seq : BitVec 32)
  /-- R349: Write masked loop tuning registers. -/
  | opLoopTune (h : BitVec 10) (seq : BitVec 32)
  /-- R349: Configure and start a loop test generator. -/
  | opLoopTest (h : BitVec 10) (seq : BitVec 32)
  /-- R349: Read a test's status, estimates and records. -/
  | opLoopTestRead (h : BitVec 10) (seq : BitVec 32)
  /-- R417: List readable log areas with FIRST and LAST. -/
  | opLogAreas (h : BitVec 10) (seq : BitVec 32)
  /-- R417: Read records of an area from a sequence number. -/
  | opLogRead (h : BitVec 10) (seq : BitVec 32)
  /-- R349: Return building time and time status. -/
  | opTimeGet (h : BitVec 10) (seq : BitVec 32)
  /-- R156: Set the TAI second number for the next whole second as a step. -/
  | opTimeSet (h : BitVec 10) (seq : BitVec 32)
  /-- R432: Return the RTC group read as one instant. -/
  | opRtcGet (h : BitVec 10) (seq : BitVec 32)
  /-- R432: Stage and commit an RTC date and time. -/
  | opRtcSet (h : BitVec 10) (seq : BitVec 32)
  /-- R451: Begin a firmware package transfer into the other bank's package area. -/
  | opUpdBegin (h : BitVec 10) (seq : BitVec 32)
  /-- R347: Store one block of a firmware package. -/
  | opUpdBlock (h : BitVec 10) (seq : BitVec 32)
  /-- R452: End the firmware transfer and start checking and rebuilding. -/
  | opUpdEnd (h : BitVec 10) (seq : BitVec 32)
  /-- R452: Checking and rebuilding finish with STAGE VERIFIED or FAILED. -/
  | updVerifyComplete (pages header : Bool)
  /-- R453: Reply, then activate the verified image. -/
  | opUpdActivate (h : BitVec 10) (seq : BitVec 32)
  /-- R453: After the 100 ms wait the ACTIVATE page is programmed and a hard restart made. -/
  | updActivation
  /-- R462: Return the update stage, progress, bank and result. -/
  | opUpdStatus (h : BitVec 10) (seq : BitVec 32)
  /-- R442: Stage a key in a slot. -/
  | opKeyStage (h : BitVec 10) (seq : BitVec 32)
  /-- R443: Return an HMAC over a challenge with the staged key and set VERIFIED. -/
  | opKeyVerify (h : BitVec 10) (seq : BitVec 32)
  /-- R444: Commit the verified staged key. -/
  | opKeyCommit (h : BitVec 10) (seq : BitVec 32)
  /-- R445: Discard the staged key. -/
  | opKeyDiscard (h : BitVec 10) (seq : BitVec 32)
  /-- R462: List slot states, kinds and generations. -/
  | opKeyList (h : BitVec 10) (seq : BitVec 32)
  /-- R280: Open a safety unlock window with the password. -/
  | opSafeUnlock (h : BitVec 10) (seq : BitVec 32)
  /-- R280: Close the safety unlock window. -/
  | opSafeLock (h : BitVec 10) (seq : BitVec 32)
  /-- R279: Set or change the safety password. -/
  | opSafePwSet (h : BitVec 10) (seq : BitVec 32)
  /-- R279: Remove the safety password over the local host port. -/
  | opSafePwClear (h : BitVec 10) (seq : BitVec 32)
  /-- R272: Acknowledge and clear a safety output pair's fault latch. -/
  | opSafeAck (h : BitVec 10) (seq : BitVec 32) (on : Bool)
  /-- R281: Run an immediate test of an SI or SO pair in SERVICE. -/
  | opSafeTest (h : BitVec 10) (seq : BitVec 32) (badA badB : Bool)
  /-- R278: Confirm change-log records up to UPTO. -/
  | opSafeLogAck (h : BitVec 10) (seq : BitVec 32)
  /-- R108: Stop RUN and enter STOPPED. -/
  | opStateStop (h : BitVec 10) (seq : BitVec 32)
  /-- R113: Restart warm, cold or by policy. -/
  | opStateRestart (h : BitVec 10) (seq : BitVec 32)
  /-- R108: Enter BIT from STOPPED. -/
  | opStateBit (h : BitVec 10) (seq : BitVec 32)
  /-- R108: Enter SERVICE from STOPPED. -/
  | opStateService (h : BitVec 10) (seq : BitVec 32)
  /-- R107: Leave SERVICE for STOPPED. -/
  | opStateRelease (h : BitVec 10) (seq : BitVec 32)
  /-- R349: Return EXEC_STATE, TIME_STATUS and SAFE_STATUS. -/
  | opStateGet (h : BitVec 10) (seq : BitVec 32)
  /-- R502: Return the PWR status registers. -/
  | opPwrStatus (h : BitVec 10) (seq : BitVec 32)
  /-- R384: Return the TWIN registers. -/
  | opTwinStatus (h : BitVec 10) (seq : BitVec 32)
  /-- R383: Request a planned handover of the bar to the standby. -/
  | opTwinSwap (h : BitVec 10) (seq : BitVec 32)
  /-- R383: At the whole second at least 2 s after OP_TWIN_SWAP the bar passes to the standby. -/
  | twinHandover (t : Nat)
  /-- R348: Queue a pass-through exchange and return a handle. -/
  | opBusXfer (h : BitVec 10) (seq : BitVec 32)
  /-- R348: Return a pass-through exchange's result. -/
  | opBusResult (h : BitVec 10) (seq : BitVec 32)
  /-- R348: Read a modem or CAN pass-through receive stream by index. -/
  | opBusRecv (h : BitVec 10) (seq : BitVec 32)
  /-- R109: Drive a DO, AO or LT output to a test value in SERVICE. -/
  | opDiagOutput (h : BitVec 10) (seq : BitVec 32)
  /-- R109: Release one or all test values. -/
  | opDiagRelease (h : BitVec 10) (seq : BitVec 32)
  /-- R349: Start a test of a tile bank. -/
  | opDiagBanktest (h : BitVec 10) (seq : BitVec 32)
  /-- R349: A bank test finishes, updating TILE_BANK and logging EV_BANK_TEST. -/
  | bankTestComplete (b : Fin 8) (bad : BitVec 11)
  /-- R350: Read a block's counters without clearing RC fields. -/
  | opDiagCounters (h : BitVec 10) (seq : BitVec 32)
  /-- R349: Echo the data. -/
  | opDiagEcho (h : BitVec 10) (seq : BitVec 32)
  /-- R498: A write to a stored register field writes the block's set to the parameter store before replying. -/
  | storedSetWrite (h : BitVec 10) (seq : BitVec 32) (block : BitVec 12)
  /-- R42: A SERVICE write of 1 to TILE_BANK[b].SUSPECT clears the mark so later plans may use the bank. -/
  | suspectClear (h : BitVec 10) (b : Fin 8)
  /-- R380: A write of TWIN_CFG.RETURN_LIMIT clears the return count. -/
  | returnLimitWrite (h : BitVec 10) (v : BitVec 4)
  /-- R171: A read of TIME_NOW_LO latches TIME_NOW_HI. -/
  | timeNowLoRead
  /-- R420: A read of NVM_OPTIME_LO latches NVM_OPTIME_HI. -/
  | nvmOptimeLoRead
  /-- R355: A String-link lane carries valid TIME frames at 8 consecutive grid instants and comes up. -/
  | stringLaneUp (lane : Fin 2)
  /-- R355: A lane without a valid frame for 500 µs goes down and logs EV_TWIN_LANE. -/
  | stringLaneDown (lane : Fin 2)
  /-- R366: After the peer has run one whole hyperperiod with the same plan, split operation ends. -/
  | splitEnd
  /-- R360: A TIME frame leaves each side at every 125 µs grid instant. -/
  | twinTimeSend
  /-- R360: A TIME frame is received and used for round-trip delay, time steering and peer state. -/
  | twinTimeRx (seq : BitVec 32) (lanes : BitVec 2) (sent : Nat) (delay : Nat) (rx : Nat) (tstat : BitVec 32) (exec : BitVec 32) (plan : BitVec 32)
  /-- R375: A BAR release or claim frame is received. -/
  | barFrameRx (seq : BitVec 32) (lanes : BitVec 2) (claim : Bool) (at_ : Nat)
  /-- R363: A MIRROR frame is checked and held in the receive buffer. -/
  | mirrorFrameRx (seq : BitVec 32) (lanes : BitVec 2) (tile : Fin 8192) (bytes : List Byte) (crc : BitVec 32)
  /-- R372: A FORWARD frame delivers the holder's frozen inputs to the standby. -/
  | forwardFrameRx (seq : BitVec 32) (lanes : BitVec 2) (items : List (Nat × BitVec 64 × BitVec 16 × Bool))
  /-- R372: A WRITE frame delivers the holder's applied point writes and forces. -/
  | writeFrameRx (seq : BitVec 32) (lanes : BitVec 2) (ops : List PtOp)
  /-- R379: A STREAM frame delivers a tile or loop state for rebuild or rejoin. -/
  | streamFrameRx (seq : BitVec 32) (lanes : BitVec 2) (k : StreamKind)
  /-- R367: An ORPOR frame carries a forwarded packet or reply between the Two-hand sides. -/
  | orporFrameRx (seq : BitVec 32) (lanes : BitVec 2) (via : Fin 3) (packet : List Byte)
  /-- R359: A CONTROL frame carries pair formation, swap confirmation, state commands or plan transfers. -/
  | controlFrameRx (seq : BitVec 32) (lanes : BitVec 2) (k : CtlKind)
  /-- R373: A forwarded frame misses its instant and the standby leaves step and logs EV_TWIN_STEP_LOST. -/
  | stepLost
  /-- R521: BAR_IN settles for 200 ns in a new band and the peer line state changes. -/
  | barLineChange (line : Fin 3)
  /-- R375: At the next FREEZE boundary the in-step standby takes the bar, enters RUN and logs EV_TWIN_TAKEOVER. -/
  | takeover (t : Nat)
  /-- R379: All tiles have been streamed to the joiner and loop state follows in the swap window. -/
  | rejoinCopyComplete
  /-- R379: The joiner begins its own bursts at the next whole second. -/
  | rejoinInStep (t : Nat)
  /-- R379: After one clean hyperperiod in step SELFTEST becomes 1. -/
  | twinSelftestPass
  /-- R380: After HOLDOFF the primary takes the bar back at a whole second and logs EV_TWIN_RETURN. -/
  | twinReturn (t : Nat)
  /-- R480: Side A waits at most 2 s for side B after arming, then enters RUN alone. -/
  | sideBWaitTimeout
  /-- R389: A page program completes, reads back twice and advances the write position. -/
  | flashProgramDone
  /-- R387: A sector erase completes. -/
  | sectorEraseDone
  /-- R396: Operating time passing a multiple of 604,800 s starts a margin pass. -/
  | marginPassStart
  /-- R396: Every 4 s one sector is read at normal and margin level and refreshed if weak. -/
  | marginSectorRead (sector : BitVec 14) (differs last : Bool)
  /-- R403: Each 1 ms the operating-time counter increments in its cells. -/
  | optimeTick (x : Meas)
  /-- R413: 60 s after a held record its REPEAT hold ends and it is released to flash. -/
  | repeatHoldExpiry (a : Fin 16)
  /-- R412: A 60 s rate window closes and EV_LOG_SUPPRESSED is written if records were suppressed. -/
  | rateWindowClose (a : Fin 16) (num : BitVec 8)
  /-- R422: The prescaler wraps and the calendar advances by one second. -/
  | rtcSecondTick
  /-- R424: A write of RTC_CTRL.COMMIT checks the staged fields and loads them at the next crystal edge or sets BAD_DATE. -/
  | rtcCommit (h : BitVec 10)
  /-- R423: A read of the RTC group with no freeze in force copies it into shadows and sets FROZEN. -/
  | rtcShadowFreeze
  /-- R423: A shadow freeze ends 10 ms after it began. -/
  | rtcFreezeTimeout
  /-- R430: At the configured instant the module sets the RTC from building time. -/
  | rtcSync
  /-- R426: 4 ms without a crystal edge sets OSC_STOPPED and holds the counter. -/
  | rtcOscStop
  /-- R441: Once per RC second every key slot's shares are re-masked in turn. -/
  | keyRemaskPass
  /-- R445: A staged key is discarded 3,600 s after it was staged. -/
  | stagedKeyExpiry (i : Fin 8)
  /-- R455: Firmware on trial programs its CONFIRM page after 60 s of operation and logs EV_FW_CONFIRMED. -/
  | fwConfirm
  /-- R478: VIN rises above 17.5 V and the hold-up store charges. -/
  | vinValid (vin : BitVec 16) (pins : Pins)
  /-- R465: The hold-up store reaches 14 V and PD1 is switched on. -/
  | holdupReady
  /-- R478: The TCXO is stable, building time starts and PD3 follows. -/
  | tcxoStable
  /-- R478: Firmware runs, unwraps keys, restores journals and moves on to BIT. -/
  | firmwareVerified (scap : BitVec 16) (vbat : BitVec 16)
  /-- R479: The cached or newly built plan is verified and loaded and the module is armed for RUN. -/
  | planArmed
  /-- R483: VIN below 16.5 V for 20 µs starts the planned power-fail save. -/
  | powerFailWarning (vin : BitVec 16) (holdup : BitVec 16)
  /-- R483: The save completes its journals and counters, writes EV_SAVE_DONE and switches domains off. -/
  | saveDone (holdup : BitVec 16)
  /-- R484: VIN becomes valid while PD1 is still powered; a hard restart with cause BROWNOUT. -/
  | vinReturn (pins : Pins)
  /-- R484: The hold-up store falls below 9 V and PD1 and PD2 go off. -/
  | holdupExhausted (steps : BitVec 7)
  /-- R476: RESET_N low for at least 10 µs starts a hard restart with cause RESET_PIN. -/
  | resetPin
  /-- R476: RESET_N rises and BOOT begins. -/
  | resetRelease (pins : Pins)
  /-- R469: A domain's power-up completes and it becomes usable. -/
  | domainPowerGood (d : Fin 15)
  /-- R472: A function's shutdown completes after its full off time. -/
  | domainShutdownDone (f : Fin 31)
  /-- R472: A latched enable is carried out 50 µs after the shutdown completed. -/
  | pendingOnExecute (f : Fin 31)
  /-- R471: A domain without power-good within twice its on time is switched off and logs EV_DOMAIN_FAULT. -/
  | domainFault (d : Fin 15)
  /-- R474: No TCXO edge for 100 µs logs EV_TCXO_FAIL, overruns and stops building time. -/
  | tcxoFail
  /-- R475: The TCXO runs 1 s without a fault and restarts may begin. -/
  | tcxoRecovered
  /-- R475: No 1 s of good TCXO within 60 s makes a hard restart with cause SUPERVISOR. -/
  | tcxoRecoveryTimeout
  /-- R474: A PLL loses lock for 10 µs and logs EV_PLL_UNLOCK with its per-PLL reaction. -/
  | pllUnlock (p : Fin 5) (us : BitVec 16)
  /-- R209: At every 125 µs sample instant each channel converts and the DSP adds that sample's energy to the accumulators. -/
  | metSample (cur : List (Int × Int)) (vol : List Int)
  /-- R152: A Delay_Resp or peer-delay message is received and the path delay used by offset measurement is updated. -/
  | ptpDelayResponse (u : Fin 2) (h : PtpHead) (peer : Bool) (delay : Nat)
  /-- R253: A loop transmitter island gains loop power and regulates at 3.50 mA until its first command frame. -/
  | islandPowerUp (n : Fin 8)
  /-- R299: A collision is detected on a DALI bus, ending the attempt as failed and counting COLLISIONS. -/
  | daliCollision (p : Fin 19)
  /-- R291: A queued CAN head frame is sent successfully, and the exchange succeeds once its entry's last frame has gone. -/
  | canFrameTransmitted (p : Fin 19)
  /-- R294: A CAN frame is received with an error, raising the receive error counter and possibly the error state. -/
  | canRxError (p : Fin 19) (by8 : Bool)
  /-- R303: A T1L port detects or loses a powered device and grants power accordingly. -/
  | poweredDeviceDetected (k : Fin 8) (present : Bool) (cls : BitVec 7)
  /-- R302: A frame arrives on a field Ethernet port and is answered (ARP, ICMP echo), discarded as a late reply, or dropped. -/
  | fieldEthernetFrame (p : Fin 19) (kind : EthKind) (data : List Byte)
  /-- R308: The SFP+ transceiver is removed; the link goes down and TX_DISABLE is asserted. -/
  | sfpRemoval
  /-- R321: An uplink finishes transmitting a frame and its cells return to the free list. -/
  | frameSent (u : Fin 2) (express : Bool)
  /-- R268: A 200 µs SO off-pulse ends; the driver is on again and a launch deferred during the pulse takes effect. -/
  | offPulseEnd (k : Fin 4) (chB : Bool)
  /-- R400: A FeRAM slot write of a journal or retain snapshot completes, making that slot the newer one. -/
  | slotWriteComplete (which : Fin 3)
  /-- R426: Crystal edges return after a stop and the RTC counter resumes from the value it held. -/
  | crystalRestart
  /-- R464: With VIN absent, VBAT and the supercapacitor fall below what PD0 needs, and the backup domain loses power. -/
  | backupSupplyLost
  /-- R474: An unlocked PLL regains lock, so sampling, links or port exchanges resume. -/
  | pllRelock (p : Fin 5)
  /-- R471: In BOOT, once per second, the module retries switching on a domain that failed power-good. -/
  | bootDomainRetry
  /-- R436: Service equipment presenting a signed, unit-bound token moves the lifecycle fuses forward, for example from PRODUCTION to RETURNED. -/
  | lifecycleAdvance (signer sig unit : List (BitVec 8))
deriving DecidableEq, Repr

end Sys2Proof
end

