-- ==== Sys2Proof/Decode.lean ====
section
/-! DEFINITION. The commands that a word spells. The table of operations and events gives no row any bits: each command
comes from outside, or from the module's own sources, as itself (log entry 1). -/

namespace Sys2Proof

/-- No row of the table has bits, so no word spells a command. -/
def decodeTableWord (_nbits _w : Nat) : Option Instr := none

end Sys2Proof
end

