-- ==== Sys2Proof/Machine/Bits.lean ====
section
/-! DEFINITION. Bit fields, byte order and sparse maps: the plain data operations every chapter uses. Multi-byte
fields are little-endian (R5 of the notation, R22). -/

namespace Sys2Proof.Machine

/-- Bits [lo + width - 1 : lo] of a word. -/
def bits (v lo width : Nat) : Nat := (v >>> lo) % 2 ^ width

/-- `v` with bits [lo + width - 1 : lo] replaced by the low bits of `x`. -/
def putBits (v lo width x : Nat) : Nat :=
  v - (bits v lo width) * 2 ^ lo + (x % 2 ^ width) * 2 ^ lo

/-- Bit `i` of a word. -/
def bitAt (v i : Nat) : Bool := (v >>> i) % 2 == 1

def b2n (b : Bool) : Nat := if b then 1 else 0

/-- The `n`-bit two's complement code of an integer. -/
def ofInt (n : Nat) (i : Int) : Nat := (i % (2 ^ n : Nat)).toNat

/-- The integer that an `n`-bit two's complement code stands for. -/
def toInt (n : Nat) (v : Nat) : Int :=
  if v % 2 ^ n < 2 ^ (n - 1) then (v % 2 ^ n : Nat) else (v % 2 ^ n : Nat) - (2 ^ n : Nat)

/-- An integer held at the ends of the n-bit signed range. -/
def satInt (n : Nat) (i : Int) : Int :=
  if i < -(2 ^ (n - 1) : Nat) then -(2 ^ (n - 1) : Nat)
  else if i > (2 ^ (n - 1) : Nat) - 1 then (2 ^ (n - 1) : Nat) - 1 else i

/-- A count held at the top of an n-bit field (R496: a saturating field stays at all ones). -/
def satNat (n v : Nat) : Nat := if v < 2 ^ n then v else 2 ^ n - 1

/-- The `n` little-endian bytes of a number. -/
def leBytes : Nat → Nat → List Byte
  | 0, _ => []
  | n + 1, v => BitVec.ofNat 8 v :: leBytes n (v >>> 8)

/-- The number that little-endian bytes spell. -/
def ofLe : List Byte → Nat
  | [] => 0
  | b :: bs => b.toNat + (ofLe bs) <<< 8

/-! ### Sparse maps by key -/

/-- The value at a key of a list of pairs. -/
def mapGet {α : Type} (k : Nat) : List (Nat × α) → Option α
  | [] => none
  | (a, x) :: t => if a = k then some x else mapGet k t

/-- Sorted insertion: replaces the value at the key. -/
def mapPut {α : Type} (k : Nat) (x : α) : List (Nat × α) → List (Nat × α)
  | [] => [(k, x)]
  | (a, y) :: t =>
    if k < a then (k, x) :: (a, y) :: t
    else if k = a then (k, x) :: t
    else (a, y) :: mapPut k x t

/-- Removal of a key. -/
def mapDel {α : Type} (k : Nat) : List (Nat × α) → List (Nat × α)
  | [] => []
  | (a, y) :: t => if a = k then mapDel k t else (a, y) :: mapDel k t

def mapGetD {α : Type} (d : α) (k : Nat) (l : List (Nat × α)) : α := (mapGet k l).getD d

/-- Keys strictly rising, every one above `lo` (exclusive); `none` is no bound. -/
def mapSorted {α : Type} : Option Nat → List (Nat × α) → Bool
  | _, [] => true
  | lo, (a, _) :: t =>
    (match lo with | none => true | some b => decide (b < a)) && mapSorted (some a) t

end Sys2Proof.Machine
end

