-- ==== Sys2Proof/Machine/Crc.lean ====
section
/-! DEFINITION. The checks of the manual: CRC-32C (R33) and CRC-16 (R404). -/

namespace Sys2Proof.Machine

/-- One bit of the reflected CRC-32C register (polynomial 0x82F6_3B78, R33). -/
def crc32Bit (c : Nat) : Nat := if c % 2 = 1 then (c >>> 1) ^^^ 0x82F63B78 else c >>> 1

def crc32Byte (c : Nat) (b : Byte) : Nat :=
  let c := c ^^^ b.toNat
  crc32Bit (crc32Bit (crc32Bit (crc32Bit (crc32Bit (crc32Bit (crc32Bit (crc32Bit c)))))))

/-- A fold over bytes that evaluates its accumulator at every byte. -/
def crcFold (f : Nat → Byte → Nat) : Nat → List Byte → Nat
  | c, [] => c
  | c, b :: t => match f c b with
    | 0 => crcFold f 0 t
    | n + 1 => crcFold f (n + 1) t

/-- CRC-32C of bytes in address order (R33: initial value and final XOR 0xFFFF_FFFF). -/
def crc32c (bs : List Byte) : Nat := (crcFold crc32Byte 0xFFFFFFFF bs) ^^^ 0xFFFFFFFF

/-- The CRC of tile `t`: over its number as two little-endian bytes, then its 256 bytes (R33). -/
def tileCrc (t : Nat) (bs : List Byte) : Nat := crc32c (leBytes 2 t ++ bs)

/-- One bit of the CRC-16 register (polynomial 0x1021, not reflected, R404). -/
def crc16Bit (c : Nat) : Nat :=
  if c &&& 0x8000 = 0 then (c <<< 1) % 0x10000 else ((c <<< 1) % 0x10000) ^^^ 0x1021

def crc16Byte (c : Nat) (b : Byte) : Nat :=
  let c := c ^^^ (b.toNat <<< 8)
  crc16Bit (crc16Bit (crc16Bit (crc16Bit (crc16Bit (crc16Bit (crc16Bit (crc16Bit c)))))))

/-- CRC-16 of bytes (R404: initial value 0xFFFF, no final XOR). -/
def crc16 (bs : List Byte) : Nat := crcFold crc16Byte 0xFFFF bs

end Sys2Proof.Machine
end

