-- ==== Sys2Proof/Config.lean ====
section
/-! DEFINITION. What one module fixes and the manual does not give a number for: fuse and factory values
(R499), the free values of the manual's open points (log entry 2), and the functions the manual names without
this model computing them (cryptography: log entry 4). Every one is opaque: no proof can see its value. -/

namespace Sys2Proof.Config

/-- SYS_REV.FUSE_TYPE, ROM and MINOR (R501); R4: they change no behaviour. -/
opaque fuseType : BitVec 4
opaque romRev : BitVec 8
opaque minorRev : BitVec 8
/-- The unit number of KEY_UNIT_LO and KEY_UNIT_HI (R499, R432). -/
opaque unitId : BitVec 64
/-- The factory MAC address of uplink u (R499). -/
opaque mac : Nat → BitVec 48

/-- A fresh free word for each value of the counter `freeCtr` of the state (log entry 2). -/
opaque freeWord : Nat → BitVec 64

/-- Where within 0.001 °C of the polynomial's solution the temperature of a Pt1000 below 1,000 Ω lies (R245, log entry 6). -/
opaque rtdError : BitVec 32 → BitVec 32
/-- The temperature that an NTC channel gives where the formula of R245 has no value (log entry 2). -/
opaque ntcOpen : BitVec 32 → BitVec 32

/-- Coefficients of the metering filters, in units of 2^-30, which the manual does not give (log entry 135): the fundamental filter's middle tap and the
400 beside it, of 50 and 60 Hz (R208); the first 80 taps of the Hilbert transformer (R207); the fractional-delay filter of PHASE over the last
samples, newest first (R218). -/
opaque fundTap : Bool → Nat → Int
opaque hilbertTap : Nat → Int
opaque phaseDelay : Int → List Int → Int

/-- Sign and payload of a quiet NaN that an operation on two words gives: IEEE 754 and R130 leave them open (log
entry 5). -/
opaque nanBits : Nat → Nat → BitVec 64

/-- What R289 does not state of a value: the value a field of a remote point gives where it does not fit the point's TYPE, or is
no number of its encoding (TYPE, raw field); whether a fraction sent into an integer field is rounded up (REAL32); the field sent for
a NaN (log entry 14). -/
opaque misfitField : Nat → Nat → BitVec 64
opaque fieldUp : Nat → Bool

/-- What restart type the reserved code 3 of a cause's field of EXEC_POLICY gives, modulo 3 (R122, log entry 16). -/
opaque reservedPolicy : Nat → BitVec 8

/-- The fused root secret and the test root of the ROM (R435, R437). -/
opaque rootSecret : BitVec 256
opaque testRoot : BitVec 256
/-- Staveori's release signers, the fingerprints of slots 4 and 5 at generation 0 (R438). -/
opaque releaseSigner : Bool → BitVec 256
/-- The firmware image that the factory programmed into bank A (R450, log entry 20). -/
opaque factoryImage : List (BitVec 8)
/-- The package and the plan image that bytes spell: the manual gives the items of a package and the sections of an image, not how their bytes
are laid out (R53, R73; log entry 120). -/
opaque packageOf : List (BitVec 8) → Machine.Package
opaque imageOf : List (BitVec 8) → Machine.Plan
/-- What the planner makes of a package (R57) by its digest, the firmware version and the suspect banks: the digest of the plan image, and the failed
check with its detail where the package is rejected (log entry 121). -/
opaque planDigest : Nat → Nat → Nat → Nat
opaque planRefusal : Nat → Nat → Nat → Nat × Nat
/-- The 256-byte blocks that a Shadow plan (its ID) forwards at a freeze of a class (R372): the manual lays out no FORWARD frame (log entry 121). -/
opaque forwardBlocks : Nat → Nat → Nat
/-- SHA-256 (R72, R344, R448). -/
opaque sha256 : List (BitVec 8) → BitVec 256
/-- HMAC-SHA-256: key, message (R443, R447). -/
opaque hmac : List (BitVec 8) → List (BitVec 8) → BitVec 256
/-- HKDF-SHA-256 to 32 bytes: key material, salt, info (R446). -/
opaque hkdf : List (BitVec 8) → List (BitVec 8) → List (BitVec 8) → BitVec 256
/-- The tag of AES-128-GCM: key, nonce, associated data, plain text. -/
opaque gcmTag : List (BitVec 8) → List (BitVec 8) → List (BitVec 8) → List (BitVec 8) → BitVec 128
/-- The keystream of AES-128-GCM under a key and nonce, byte by byte. -/
opaque gcmStream : List (BitVec 8) → List (BitVec 8) → Nat → BitVec 8
/-- ECDSA P-256 verification: public key, digest, signature (R448). -/
opaque ecdsaOk : List (BitVec 8) → BitVec 256 → List (BitVec 8) → Bool

end Sys2Proof.Config
end

