-- ==== Sys2Proof/Machine/Float.lean ====
section
/-! DEFINITION. IEEE 754 arithmetic on bit patterns, computed exactly and rounded once: binary32 with subnormal
operands and results replaced by zero (REAL32, R130), and binary64 (the integrator of R179). Round to nearest, ties to even. -/

namespace Sys2Proof.Machine

/-- A binary format: precision, exponent bits, and whether subnormals are replaced by zero. -/
structure Fmt where
  p : Nat
  eb : Nat
  ftz : Bool
deriving DecidableEq, Repr

/-- REAL32 (R130). -/
abbrev b32 : Fmt := ⟨24, 8, true⟩
/-- IEEE binary64. -/
abbrev b64 : Fmt := ⟨53, 11, false⟩

def Fmt.bias (f : Fmt) : Nat := 2 ^ (f.eb - 1) - 1
def Fmt.emax (f : Fmt) : Nat := 2 ^ f.eb - 1
def Fmt.signBit (f : Fmt) : Nat := 2 ^ (f.p - 1 + f.eb)

def fSign (f : Fmt) (x : Nat) : Bool := bitAt x (f.p - 1 + f.eb)
def fExp (f : Fmt) (x : Nat) : Nat := bits x (f.p - 1) f.eb
def fFrac (f : Fmt) (x : Nat) : Nat := x % 2 ^ (f.p - 1)

def fIsNan (f : Fmt) (x : Nat) : Bool := fExp f x == f.emax && fFrac f x != 0
def fIsInf (f : Fmt) (x : Nat) : Bool := fExp f x == f.emax && fFrac f x == 0
/-- Zero, or a subnormal that counts as zero. -/
def fIsZero (f : Fmt) (x : Nat) : Bool := fExp f x == 0 && (f.ftz || fFrac f x == 0)
def fNeg (f : Fmt) (x : Nat) : Nat := x ^^^ f.signBit
def fAbs (f : Fmt) (x : Nat) : Nat := if fSign f x then x ^^^ f.signBit else x

def fZero (f : Fmt) (neg : Bool) : Nat := if neg then f.signBit else 0
def fInf (f : Fmt) (neg : Bool) : Nat := (if neg then f.signBit else 0) + f.emax * 2 ^ (f.p - 1)
/-- A quiet NaN of open sign and payload. -/
def fNan (f : Fmt) (a b : Nat) : Nat :=
  let r := (Config.nanBits a b).toNat
  (if r % 2 = 1 then f.signBit else 0) + f.emax * 2 ^ (f.p - 1) + 2 ^ (f.p - 2) + (r / 2) % 2 ^ (f.p - 2)

/-- The magnitude of a finite number as mantissa and exponent: mant × 2^exp. -/
def fMant (f : Fmt) (x : Nat) : Nat :=
  if fExp f x = 0 then (if f.ftz then 0 else fFrac f x) else fFrac f x + 2 ^ (f.p - 1)
def fPow (f : Fmt) (x : Nat) : Int := (max 1 (fExp f x) : Nat) - (f.bias + (f.p - 1) : Nat)

/-- m / 2^sh rounded to nearest even; `sticky` tells that m stands for a little more than m. -/
def roundNE (m sh : Nat) (sticky : Bool) : Nat :=
  if sh = 0 then m
  else
    let q := m >>> sh
    let r := m % 2 ^ sh
    let half := 2 ^ (sh - 1)
    if half < r ∨ (r = half ∧ (sticky || q % 2 == 1)) then q + 1 else q

/-- The format's number nearest to ± m × 2^e (a little more in magnitude where `sticky`). -/
def fMk (f : Fmt) (neg : Bool) (m : Nat) (e : Int) (sticky : Bool) : Nat :=
  if m = 0 then fZero f neg
  else
    let emin : Int := 1 - (f.bias + (f.p - 1) : Nat)
    let q : Int := max (e + (Nat.log2 m + 1 : Nat) - f.p) emin
    let mant := if q ≤ e then m * 2 ^ (e - q).toNat else roundNE m (q - e).toNat sticky
    let (mant, q) := if mant = 2 ^ f.p then (2 ^ (f.p - 1), q + 1) else (mant, q)
    let s := if neg then f.signBit else 0
    if mant < 2 ^ (f.p - 1) then (if f.ftz then s else s + mant)
    else
      let be := (q - emin + 1).toNat
      if f.emax ≤ be then fInf f neg else s + be * 2 ^ (f.p - 1) + (mant - 2 ^ (f.p - 1))

/-- ± m × 2^e as an integer scaled to the lower of two exponents. -/
def fScaled (f : Fmt) (x : Nat) (e : Int) : Int :=
  let v : Int := (fMant f x * 2 ^ (fPow f x - e).toNat : Nat)
  if fSign f x then -v else v

def fAdd (f : Fmt) (a b : Nat) : Nat :=
  if fIsNan f a || fIsNan f b then fNan f a b
  else if fIsInf f a then (if fIsInf f b && fSign f a != fSign f b then fNan f a b else fInf f (fSign f a))
  else if fIsInf f b then fInf f (fSign f b)
  else
    let e := min (fPow f a) (fPow f b)
    let v := fScaled f a e + fScaled f b e
    if v = 0 then fZero f (fIsZero f a && fIsZero f b && fSign f a && fSign f b)
    else fMk f (decide (v < 0)) v.natAbs e false

def fSub (f : Fmt) (a b : Nat) : Nat := if fIsNan f b then fNan f a b else fAdd f a (fNeg f b)

def fMul (f : Fmt) (a b : Nat) : Nat :=
  let s := fSign f a != fSign f b
  if fIsNan f a || fIsNan f b then fNan f a b
  else if (fIsInf f a && fIsZero f b) || (fIsZero f a && fIsInf f b) then fNan f a b
  else if fIsInf f a || fIsInf f b then fInf f s
  else fMk f s (fMant f a * fMant f b) (fPow f a + fPow f b) false

def fDiv (f : Fmt) (a b : Nat) : Nat :=
  let s := fSign f a != fSign f b
  if fIsNan f a || fIsNan f b then fNan f a b
  else if (fIsInf f a && fIsInf f b) || (fIsZero f a && fIsZero f b) then fNan f a b
  else if fIsInf f a || fIsZero f b then fInf f s
  else if fIsInf f b || fIsZero f a then fZero f s
  else
    let k := 2 * f.p + 2
    let n := fMant f a * 2 ^ k
    let d := fMant f b
    fMk f s (n / d) (fPow f a - fPow f b - k) (decide (n % d ≠ 0))

/-- The integer square root, bit by bit from bit `n - 1` of the root. -/
def isqrt (v : Nat) : Nat → Nat → Nat
  | 0, r => r
  | n + 1, r => isqrt v n (if (r + 2 ^ n) * (r + 2 ^ n) ≤ v then r + 2 ^ n else r)

def fSqrt (f : Fmt) (a : Nat) : Nat :=
  if fIsNan f a then fNan f a a
  else if fIsZero f a then fZero f (fSign f a)
  else if fSign f a then fNan f a a
  else if fIsInf f a then a
  else
    let e := fPow f a
    let odd := e % 2 = 1
    let m := (if odd then fMant f a * 2 else fMant f a) * 2 ^ (2 * f.p + 4)
    let e' := ((if odd then e - 1 else e) - (2 * f.p + 4 : Nat)) / 2
    let r := isqrt m (2 * f.p + 4) 0
    fMk f false r e' (decide (r * r ≠ m))

/-- Order key of a number that is no NaN: −0 and +0 have the same key. -/
def fKey (f : Fmt) (x : Nat) : Int :=
  let mag : Int := if fIsZero f x then 0 else (x % f.signBit : Nat)
  if fSign f x then -mag else mag

def fLt (f : Fmt) (a b : Nat) : Bool := !(fIsNan f a || fIsNan f b) && decide (fKey f a < fKey f b)
def fLe (f : Fmt) (a b : Nat) : Bool := !(fIsNan f a || fIsNan f b) && decide (fKey f a ≤ fKey f b)
def fEq (f : Fmt) (a b : Nat) : Bool := !(fIsNan f a || fIsNan f b) && decide (fKey f a = fKey f b)

/-- A subnormal taken as zero of its sign (R130). -/
def fFlush (f : Fmt) (a : Nat) : Nat := if fIsZero f a then fZero f (fSign f a) else a

/-- minNum (R130): a NaN gives way to the other operand; −0.0 counts as less than +0.0. -/
def fMin (f : Fmt) (a b : Nat) : Nat :=
  if fIsNan f a then (if fIsNan f b then fNan f a b else fFlush f b)
  else if fIsNan f b then fFlush f a
  else if fKey f a < fKey f b ∨ (fKey f a = fKey f b ∧ fSign f a) then fFlush f a else fFlush f b

/-- maxNum (R130). -/
def fMax (f : Fmt) (a b : Nat) : Nat :=
  if fIsNan f a then (if fIsNan f b then fNan f a b else fFlush f b)
  else if fIsNan f b then fFlush f a
  else if fKey f b < fKey f a ∨ (fKey f a = fKey f b ∧ !fSign f a) then fFlush f a else fFlush f b

/-- The integer nearest to a finite number, ties to even. -/
def fToInt (f : Fmt) (x : Nat) : Int :=
  let e := fPow f x
  let m := if 0 ≤ e then fMant f x * 2 ^ e.toNat else roundNE (fMant f x) (-e).toNat false
  if fSign f x then -(m : Int) else m

/-- The integer toward zero of a finite number. -/
def fTrunc (f : Fmt) (x : Nat) : Int :=
  let e := fPow f x
  let m := if 0 ≤ e then fMant f x * 2 ^ e.toNat else fMant f x / 2 ^ (-e).toNat
  if fSign f x then -(m : Int) else m

/-- The number nearest to an integer. -/
def fOfInt (f : Fmt) (i : Int) : Nat := fMk f (decide (i < 0)) i.natAbs 0 false

/-- The number nearest to a fraction of integers (the denominator is not 0). -/
def fOfRat (f : Fmt) (n : Int) (d : Nat) : Nat :=
  if n = 0 then fZero f false
  else
    let k := 2 * f.p + 2 + Nat.log2 d
    fMk f (decide (n < 0)) (n.natAbs * 2 ^ k / d) (-(k : Int)) (decide (n.natAbs * 2 ^ k % d ≠ 0))

/-- A number of one format in another (rounded once). -/
def fConv (f g : Fmt) (x : Nat) : Nat :=
  if fIsNan f x then fNan g x x
  else if fIsInf f x then fInf g (fSign f x)
  else fMk g (fSign f x) (fMant f x) (fPow f x) false

end Sys2Proof.Machine
end

