-- ==== Sys2Proof/Machine/Memory.lean ====
section
/-! DEFINITION. Byte memory in one canonical form: a list of (address, byte) cells, addresses strictly rising, and no
cell equal to what an unlisted address reads as. Tile memory and lane tile buffers read 0 there (R46: cleared by
hardware at power-on), flash reads 0xFF (R387: erased). -/

namespace Sys2Proof.Machine

/-- One byte of a memory whose unlisted addresses read `d`. -/
def memRead (d : Byte) (m : List Host.Cell) (a : Nat) : Byte := mapGetD d a m

/-- One byte written; writing `d` takes the cell out of the list. -/
def memWrite (d : Byte) (m : List Host.Cell) (a : Nat) (b : Byte) : List Host.Cell :=
  if b = d then mapDel a m else mapPut a b m

/-- `n` bytes from address `a` on. -/
def memReadN (d : Byte) (m : List Host.Cell) (a : Nat) : Nat → List Byte
  | 0 => []
  | n + 1 => memRead d m a :: memReadN d m (a + 1) n

/-- Bytes written from address `a` on. -/
def memWriteN (d : Byte) (m : List Host.Cell) (a : Nat) : List Byte → List Host.Cell
  | [] => m
  | b :: bs => memWriteN d (memWrite d m a b) (a + 1) bs

/-- The canonical form: addresses strictly rising, and no cell holds `d`. -/
def memWf (d : Byte) (m : List Host.Cell) : Bool :=
  mapSorted none m && m.all (fun c => decide (c.2 ≠ d))

end Sys2Proof.Machine
end

