-- ==== Sys2Proof/Machine/Registers.lean ====
section
/-! DEFINITION. The register map: the address of every register (R490 to R504 and the owning chapters' tables) and
the bits of every field, written from the field tables of the chapters; the reset words (R499); the access codes
(R5) of every register that is not read-only. `R.X` is an address, `F.X_FIELD` a field. -/

namespace Sys2Proof.Machine

/-- A register field: address of its register, lowest bit, width. -/
structure Fld where
  addr : Nat
  lo : Nat
  width : Nat
deriving DecidableEq, Repr

namespace R


/-! R48 -/
abbrev TILE_STATUS : Nat := 0x18000
abbrev TILE_FAULTS : Nat := 0x18004
abbrev TILE_LAST_FAULT : Nat := 0x18008
abbrev TILE_LAST_TIME : Nat := 0x1800C
abbrev TILE_DIR_ECC : Nat := 0x18010
abbrev TILE_DISCARDS : Nat := 0x18014

/-! R49 -/
abbrev TILE_BANK (i : Nat) : Nat := 0x18020 + 0x4 * i

/-! R50 -/
abbrev TILE_DIR_SEL : Nat := 0x18040
abbrev TILE_DIR_CRC : Nat := 0x18044
abbrev TILE_DIR_INFO : Nat := 0x18048
abbrev TILE_PMAP_SEL : Nat := 0x18050
abbrev TILE_PMAP_DATA : Nat := 0x18054

/-! R51 -/
abbrev REGION_BASE (i j : Nat) : Nat := 0x18800 + 0x100 * i + 0x10 * j
abbrev REGION_LIMIT (i j : Nat) : Nat := 0x18804 + 0x100 * i + 0x10 * j
abbrev REGION_ATTR (i j : Nat) : Nat := 0x18808 + 0x100 * i + 0x10 * j
abbrev TILE_RV_STATUS : Nat := 0x18060
abbrev TILE_RV_ADDR : Nat := 0x18064

/-! R52 -/
abbrev CBW_BASE (i : Nat) : Nat := 0x19800 + 0x20 * i
abbrev CBW_LENGTH (i : Nat) : Nat := 0x19804 + 0x20 * i
abbrev CBW_STRIDE (i : Nat) : Nat := 0x19808 + 0x20 * i
abbrev CBW_HEAD (i : Nat) : Nat := 0x1980C + 0x20 * i
abbrev CBW_STATUS (i : Nat) : Nat := 0x19810 + 0x20 * i

/-! R88 -/
abbrev PLAN_STATUS : Nat := 0x10000
abbrev PLAN_ACTIVE_ID : Nat := 0x10004
abbrev PLAN_CAND_ID : Nat := 0x10008
abbrev PLAN_SWAP_SEC : Nat := 0x1000C
abbrev PLAN_ERROR : Nat := 0x10010
abbrev PLAN_SWAPS : Nat := 0x10014
abbrev PLAN_FREE_TILES : Nat := 0x10018
abbrev PLAN_CLASS_CFG (i : Nat) : Nat := 0x10020 + 0x10 * i
abbrev PLAN_CLASS_LAUNCH (i : Nat) : Nat := 0x10024 + 0x10 * i
abbrev PLAN_CLASS_BURST (i : Nat) : Nat := 0x10028 + 0x10 * i
abbrev DRUM_STATUS : Nat := 0x10100
abbrev DRUM_SEL : Nat := 0x10104
abbrev DRUM_ENTRY_LO : Nat := 0x10108
abbrev DRUM_ENTRY_HI : Nat := 0x1010C

/-! R122 -/
abbrev EXEC_STATE : Nat := 0x14000
abbrev EXEC_POLICY : Nat := 0x14004
abbrev EXEC_AUTORST : Nat := 0x14008
abbrev EXEC_OVERRUN : Nat := 0x1400C
abbrev EXEC_OVR_TIME : Nat := 0x14010
abbrev EXEC_OVR_COUNT : Nat := 0x14014
abbrev EXEC_RETAIN : Nat := 0x14018
abbrev EXEC_RETAIN_CFG : Nat := 0x1401C
abbrev EXEC_BIT : Nat := 0x14020
abbrev EXEC_RESTARTS : Nat := 0x14024

/-! R171 -/
abbrev TIME_STATUS : Nat := 0x78000
abbrev TIME_CFG : Nat := 0x78004
abbrev TIME_PTP : Nat := 0x78008
abbrev TIME_PPS : Nat := 0x7800C
abbrev TIME_NOW_LO : Nat := 0x78010
abbrev TIME_NOW_HI : Nat := 0x78014
abbrev TIME_OFFSET : Nat := 0x78018
abbrev TIME_FREQ : Nat := 0x7801C
abbrev TIME_HOLD : Nat := 0x78020
abbrev TIME_UTC : Nat := 0x78024
abbrev TIME_EVENTS : Nat := 0x78028
abbrev TIME_GM_LO : Nat := 0x78030
abbrev TIME_GM_HI : Nat := 0x78034

/-! R172 -/
abbrev JACK_STATUS : Nat := 0x78400
abbrev JACK_ACT (i : Nat) : Nat := 0x78408 + 0x4 * i
abbrev JACK_HIT (i : Nat) : Nat := 0x78410 + 0x4 * i
abbrev JACK_RESET : Nat := 0x78418
abbrev JACK_SEL : Nat := 0x7841C
abbrev JACK_ENTRY_LO : Nat := 0x78420
abbrev JACK_ENTRY_HI : Nat := 0x78424

/-! R196 -/
abbrev LOOP_CFG (i : Nat) : Nat := 0x20000 + 0x40 * i
abbrev LOOP_POINTS (i : Nat) : Nat := 0x20004 + 0x40 * i
abbrev LOOP_OUTPT (i : Nat) : Nat := 0x20008 + 0x40 * i
abbrev LOOP_TIMING (i : Nat) : Nat := 0x2000C + 0x40 * i
abbrev LOOP_KP (i : Nat) : Nat := 0x20010 + 0x40 * i
abbrev LOOP_TI (i : Nat) : Nat := 0x20014 + 0x40 * i
abbrev LOOP_TD (i : Nat) : Nat := 0x20018 + 0x40 * i
abbrev LOOP_WEIGHT (i : Nat) : Nat := 0x2001C + 0x40 * i
abbrev LOOP_OUT_LO (i : Nat) : Nat := 0x20020 + 0x40 * i
abbrev LOOP_OUT_HI (i : Nat) : Nat := 0x20024 + 0x40 * i
abbrev LOOP_RATE (i : Nat) : Nat := 0x20028 + 0x40 * i
abbrev LOOP_MAN_OUT (i : Nat) : Nat := 0x2002C + 0x40 * i
abbrev LOOP_MODE (i : Nat) : Nat := 0x20030 + 0x40 * i
abbrev LOOP_I (i : Nat) : Nat := 0x20034 + 0x40 * i
abbrev LOOP_OUT (i : Nat) : Nat := 0x20038 + 0x40 * i
abbrev LOOP_PV (i : Nat) : Nat := 0x2003C + 0x40 * i

/-! R197 -/
abbrev LOOPTEST_CTRL (i : Nat) : Nat := 0x24000 + 0x40 * i
abbrev LOOPTEST_AMP (i : Nat) : Nat := 0x24004 + 0x40 * i
abbrev LOOPTEST_F0 (i : Nat) : Nat := 0x24008 + 0x40 * i
abbrev LOOPTEST_F1 (i : Nat) : Nat := 0x2400C + 0x40 * i
abbrev LOOPTEST_SHAPE (i : Nat) : Nat := 0x24010 + 0x40 * i
abbrev LOOPTEST_LENGTH (i : Nat) : Nat := 0x24014 + 0x40 * i
abbrev LOOPTEST_ABORT_DEV (i : Nat) : Nat := 0x24018 + 0x40 * i
abbrev LOOPTEST_STATUS (i : Nat) : Nat := 0x2401C + 0x40 * i
abbrev LOOPTEST_EST_K (i : Nat) : Nat := 0x24020 + 0x40 * i
abbrev LOOPTEST_EST_THETA (i : Nat) : Nat := 0x24024 + 0x40 * i
abbrev LOOPTEST_EST_TAU (i : Nat) : Nat := 0x24028 + 0x40 * i
abbrev LOOPTEST_EST_FIT (i : Nat) : Nat := 0x2402C + 0x40 * i

/-! R230 -/
abbrev MET_CFG_I (i : Nat) : Nat := 0x30000 + 0x80 * i
abbrev MET_CFG_V (i : Nat) : Nat := 0x33000 + 0x80 * i
abbrev MET_STATUS_I (i : Nat) : Nat := 0x30004 + 0x80 * i
abbrev MET_STATUS_V (i : Nat) : Nat := 0x33004 + 0x80 * i
abbrev MET_QTY (i j : Nat) : Nat := 0x30008 + 0x80 * i + 0x4 * j
abbrev MET_ENERGY_LO (i j : Nat) : Nat := 0x30030 + 0x80 * i + 0x8 * j
abbrev MET_ENERGY_HI (i j : Nat) : Nat := 0x30034 + 0x80 * i + 0x8 * j
abbrev MET_MIRROR (i j : Nat) : Nat := 0x30070 + 0x80 * i + 0x4 * j
abbrev MET_CAL (i : Nat) : Nat := 0x3007C + 0x80 * i

/-! R231 -/
abbrev MET_STATUS : Nat := 0x34000
abbrev MET_BLOCK : Nat := 0x34004
abbrev MET_INT_CFG : Nat := 0x34008
abbrev MET_INT_NUM : Nat := 0x3400C
abbrev MET_TEMP : Nat := 0x34010
abbrev MET_JOURNAL : Nat := 0x34014
abbrev MET_CAL_CTRL : Nat := 0x34020
abbrev MET_CAL_INDEX : Nat := 0x34024
abbrev MET_CAL_DATA : Nat := 0x34028
abbrev MET_CAL_RAW (i : Nat) : Nat := 0x34030 + 0x4 * i
abbrev MET_TCOMP (i : Nat) : Nat := 0x34060 + 0x4 * i
abbrev MET_CAP_CTRL : Nat := 0x340A0

/-! R258 -/
abbrev FIO_STATUS : Nat := 0x40000
abbrev FIO_DO_GRP (i : Nat) : Nat := 0x40004 + 0x4 * i
abbrev FIO_CNT_JOURNAL : Nat := 0x40010
abbrev FIO_DI_CFG (i : Nat) : Nat := 0x40100 + 0x10 * i
abbrev FIO_DI_CHAT (i : Nat) : Nat := 0x40104 + 0x10 * i
abbrev FIO_DI_STATUS (i : Nat) : Nat := 0x40108 + 0x10 * i
abbrev FIO_CNT_CFG (i : Nat) : Nat := 0x40400 + 0x10 * i
abbrev FIO_CNT_STATUS (i : Nat) : Nat := 0x40404 + 0x10 * i
abbrev FIO_CNT_LO (i : Nat) : Nat := 0x40408 + 0x10 * i
abbrev FIO_CNT_HI (i : Nat) : Nat := 0x4040C + 0x10 * i
abbrev FIO_DO_CFG (i : Nat) : Nat := 0x40500 + 0x8 * i
abbrev FIO_DO_STATUS (i : Nat) : Nat := 0x40504 + 0x8 * i
abbrev FIO_AI_CFG (i : Nat) : Nat := 0x40600 + 0x20 * i
abbrev FIO_AI_SC_LO (i : Nat) : Nat := 0x40604 + 0x20 * i
abbrev FIO_AI_SC_HI (i : Nat) : Nat := 0x40608 + 0x20 * i
abbrev FIO_AI_PARAM1 (i : Nat) : Nat := 0x4060C + 0x20 * i
abbrev FIO_AI_PARAM2 (i : Nat) : Nat := 0x40610 + 0x20 * i
abbrev FIO_AI_VALUE (i : Nat) : Nat := 0x40614 + 0x20 * i
abbrev FIO_AI_STATUS (i : Nat) : Nat := 0x40618 + 0x20 * i
abbrev FIO_AO_CFG (i : Nat) : Nat := 0x40800 + 0x10 * i
abbrev FIO_AO_SC_LO (i : Nat) : Nat := 0x40804 + 0x10 * i
abbrev FIO_AO_SC_HI (i : Nat) : Nat := 0x40808 + 0x10 * i
abbrev FIO_AO_STATUS (i : Nat) : Nat := 0x4080C + 0x10 * i

/-! R259 -/
abbrev LTX_CFG (i : Nat) : Nat := 0x50000 + 0x40 * i
abbrev LTX_CMD (i : Nat) : Nat := 0x50004 + 0x40 * i
abbrev LTX_READ (i : Nat) : Nat := 0x50008 + 0x40 * i
abbrev LTX_STATUS (i : Nat) : Nat := 0x5000C + 0x40 * i
abbrev LTX_MODEM (i : Nat) : Nat := 0x50010 + 0x40 * i

/-! R283 -/
abbrev SAFE_STATUS : Nat := 0x48000
abbrev SAFE_CRC : Nat := 0x48004
abbrev SAFE_REACT : Nat := 0x48008
abbrev SAFE_LOCK : Nat := 0x4800C
abbrev SAFE_MISMATCH : Nat := 0x48010
abbrev SAFE_LOG : Nat := 0x48014
abbrev SAFE_SI_CFG (i : Nat) : Nat := 0x48100 + 0x10 * i
abbrev SAFE_SI_STATUS (i : Nat) : Nat := 0x48104 + 0x10 * i
abbrev SAFE_SO_CFG (i : Nat) : Nat := 0x48200 + 0x10 * i
abbrev SAFE_SO_STATUS (i : Nat) : Nat := 0x48204 + 0x10 * i

/-! R305 -/
abbrev FBUS_CFG (i : Nat) : Nat := 0x60000 + 0x400 * i
abbrev FBUS_RATE (i : Nat) : Nat := 0x60004 + 0x400 * i
abbrev FBUS_STATUS (i : Nat) : Nat := 0x60008 + 0x400 * i
abbrev FBUS_EXCH (i : Nat) : Nat := 0x6000C + 0x400 * i
abbrev FBUS_FAILS (i : Nat) : Nat := 0x60010 + 0x400 * i
abbrev FBUS_RETRIES (i : Nat) : Nat := 0x60014 + 0x400 * i
abbrev FBUS_RXERR (i : Nat) : Nat := 0x60018 + 0x400 * i
abbrev FBUS_DROPS (i : Nat) : Nat := 0x6001C + 0x400 * i
abbrev FBUS_CAN_ERR (i : Nat) : Nat := 0x60040 + 0x400 * i
abbrev FBUS_CAN_DATA (i : Nat) : Nat := 0x60044 + 0x400 * i
abbrev FBUS_FILT_SEL (i : Nat) : Nat := 0x60048 + 0x400 * i
abbrev FBUS_FILT_LO (i : Nat) : Nat := 0x6004C + 0x400 * i
abbrev FBUS_FILT_HI (i : Nat) : Nat := 0x60050 + 0x400 * i
abbrev FBUS_RXO_SEL (i : Nat) : Nat := 0x60054 + 0x400 * i
abbrev FBUS_RXO_ID (i : Nat) : Nat := 0x60058 + 0x400 * i
abbrev FBUS_RXO_STAT (i : Nat) : Nat := 0x6005C + 0x400 * i
abbrev FBUS_PWR_CFG (i : Nat) : Nat := 0x60080 + 0x400 * i
abbrev FBUS_PWR_STATUS (i : Nat) : Nat := 0x60084 + 0x400 * i
abbrev FBUS_DALI_BUS (i : Nat) : Nat := 0x600C0 + 0x400 * i
abbrev FBUS_PWR_TOTAL : Nat := 0x67F00

/-! R325 -/
abbrev UPL_CFG (i : Nat) : Nat := 0x70000 + 0x200 * i
abbrev UPL_STATUS (i : Nat) : Nat := 0x70004 + 0x200 * i
abbrev UPL_SHIFT (i : Nat) : Nat := 0x70008 + 0x200 * i
abbrev UPL_SHIFT_TIME (i : Nat) : Nat := 0x7000C + 0x200 * i
abbrev UPL_VLAN (i : Nat) : Nat := 0x70010 + 0x200 * i
abbrev UPL_IP4_ADDR (i : Nat) : Nat := 0x70014 + 0x200 * i
abbrev UPL_IP4_GW (i : Nat) : Nat := 0x7001C + 0x200 * i
abbrev UPL_IP4_MASK (i : Nat) : Nat := 0x70018 + 0x200 * i
abbrev UPL_IP6 (i j : Nat) : Nat := 0x70020 + 0x200 * i + 0x4 * j
abbrev UPL_IP6_CFG (i : Nat) : Nat := 0x70030 + 0x200 * i
abbrev UPL_MAC_LO (i : Nat) : Nat := 0x70034 + 0x200 * i
abbrev UPL_MAC_HI (i : Nat) : Nat := 0x70038 + 0x200 * i
abbrev UPL_CTRL (i : Nat) : Nat := 0x7003C + 0x200 * i
abbrev UPL_RX_FRAMES (i : Nat) : Nat := 0x70040 + 0x200 * i
abbrev UPL_TX_FRAMES (i : Nat) : Nat := 0x70044 + 0x200 * i
abbrev UPL_RX_DROP (i : Nat) : Nat := 0x70048 + 0x200 * i
abbrev UPL_PAUSE_RX (i : Nat) : Nat := 0x7004C + 0x200 * i
abbrev UPL_FRAG_ERR (i : Nat) : Nat := 0x70050 + 0x200 * i
abbrev UPL_SHIFTS (i : Nat) : Nat := 0x70054 + 0x200 * i

/-! R326 -/
abbrev FPOOL_STATUS : Nat := 0x70400
abbrev FPOOL_SEL : Nat := 0x70404
abbrev FPOOL_QUOTA : Nat := 0x70408
abbrev FPOOL_USE : Nat := 0x7040C
abbrev FPOOL_DROP : Nat := 0x70410

/-! R353 -/
abbrev SESS_STATUS : Nat := 0x90000
abbrev SESS_CFG : Nat := 0x90004
abbrev SESS_AUTH_FAIL : Nat := 0x90008
abbrev SESS_BAD : Nat := 0x9000C
abbrev SESS_REFUSED : Nat := 0x90010
abbrev SESS_SEL : Nat := 0x90020
abbrev SESS_INFO : Nat := 0x90024
abbrev SESS_SEQ : Nat := 0x90028
abbrev SESS_IDLE : Nat := 0x9002C

/-! R385 -/
abbrev TWIN_STATUS : Nat := 0x80000
abbrev TWIN_CFG : Nat := 0x80004
abbrev TWIN_LINK : Nat := 0x80008
abbrev TWIN_BAR : Nat := 0x8000C
abbrev TWIN_TIME : Nat := 0x80010
abbrev TWIN_SWAP : Nat := 0x80014
abbrev TWIN_MIRROR : Nat := 0x80018
abbrev TWIN_COUNTS : Nat := 0x8001C

/-! R420 -/
abbrev NVM_STATUS : Nat := 0x05000
abbrev NVM_OPTIME_LO : Nat := 0x05004
abbrev NVM_OPTIME_HI : Nat := 0x05008
abbrev NVM_PWRCYC : Nat := 0x0500C
abbrev NVM_PARAM : Nat := 0x05010
abbrev NVM_MARGIN : Nat := 0x05014
abbrev NVM_EVENTS : Nat := 0x05018
abbrev LOG_STATUS : Nat := 0x06000
abbrev LOG_SEL : Nat := 0x06004
abbrev LOG_AREA_CFG : Nat := 0x06008
abbrev LOG_AREA_SIZE : Nat := 0x0600C
abbrev LOG_AREA_FIRST : Nat := 0x06010
abbrev LOG_AREA_LAST : Nat := 0x06014
abbrev LOG_AREA_COUNTS : Nat := 0x06018

/-! R434 -/
abbrev RTC_STATUS : Nat := 0x03000
abbrev RTC_TIME : Nat := 0x03004
abbrev RTC_DATE : Nat := 0x03008
abbrev RTC_SUBSEC : Nat := 0x0300C
abbrev RTC_CTRL : Nat := 0x03018
abbrev RTC_CFG : Nat := 0x0301C
abbrev RTC_SYNC : Nat := 0x03020
abbrev RTC_ALARM_MASK (i : Nat) : Nat := 0x03038 + 0x10 * i
abbrev RTC_BKP (i : Nat) : Nat := 0x03080 + 0x4 * i

/-! R462 -/
abbrev KEY_STATUS : Nat := 0x04000
abbrev KEY_LIFE : Nat := 0x04004
abbrev KEY_HWTYPE : Nat := 0x04008
abbrev KEY_UNIT_LO : Nat := 0x0400C
abbrev KEY_UNIT_HI : Nat := 0x04010
abbrev KEY_SEL : Nat := 0x04014
abbrev KEY_SLOT : Nat := 0x04018
abbrev KEY_REMASK : Nat := 0x0401C
abbrev KEY_FW_STATUS : Nat := 0x04020
abbrev KEY_FW_VER : Nat := 0x04024
abbrev KEY_FW_OTHER : Nat := 0x04028

/-! R487 -/
abbrev CLK_STATUS : Nat := 0x02000
abbrev CLK_RC : Nat := 0x02004
abbrev CLK_FAULTS : Nat := 0x02008

/-! R501 -/
abbrev SYS_ID : Nat := 0x00000
abbrev SYS_REV : Nat := 0x00004
abbrev SYS_TEMP (i : Nat) : Nat := 0x00010 + 0x4 * i
abbrev SYS_SCRATCH (i : Nat) : Nat := 0x00100 + 0x4 * i

/-! R503 -/
abbrev PWR_STATUS : Nat := 0x01000
abbrev PWR_VIN : Nat := 0x01004
abbrev PWR_VAUX : Nat := 0x01008
abbrev PWR_VBAT : Nat := 0x0100C
abbrev PWR_HOLDUP : Nat := 0x01010
abbrev PWR_SCAP : Nat := 0x01014
abbrev PWR_SAVE : Nat := 0x01018
abbrev PWR_POWER : Nat := 0x0101C
abbrev PWR_RAIL (i : Nat) : Nat := 0x01020 + 0x4 * i
abbrev PWR_DOMAIN_STATUS (i : Nat) : Nat := 0x01100 + 0x20 * i
abbrev PWR_DOMAIN_ONS (i : Nat) : Nat := 0x01104 + 0x20 * i
abbrev PWR_DOMAIN_FAULTS (i : Nat) : Nat := 0x01108 + 0x20 * i
abbrev PWR_DOMAIN_ON_MS (i : Nat) : Nat := 0x0110C + 0x20 * i
abbrev PWR_DOMAIN_CURRENT (i : Nat) : Nat := 0x01110 + 0x20 * i

/-! R434 -/
abbrev RTC_STG_TIME : Nat := 0x03010
abbrev RTC_STG_DATE : Nat := 0x03014
abbrev RTC_ALARM_TIME (i : Nat) : Nat := 0x03030 + 0x10 * i
abbrev RTC_ALARM_DATE (i : Nat) : Nat := 0x03034 + 0x10 * i

end R

namespace F


/-! R48 -/
abbrev TILE_STATUS_CLEARING : Fld := ⟨R.TILE_STATUS, 0, 1⟩
abbrev TILE_STATUS_SUSPECT : Fld := ⟨R.TILE_STATUS, 8, 8⟩
abbrev TILE_STATUS_FAULTED : Fld := ⟨R.TILE_STATUS, 16, 14⟩
abbrev TILE_FAULTS_COUNT : Fld := ⟨R.TILE_FAULTS, 0, 32⟩
abbrev TILE_LAST_FAULT_TILE : Fld := ⟨R.TILE_LAST_FAULT, 0, 13⟩
abbrev TILE_LAST_FAULT_CAUSE : Fld := ⟨R.TILE_LAST_FAULT, 13, 3⟩
abbrev TILE_LAST_FAULT_MASTER : Fld := ⟨R.TILE_LAST_FAULT, 16, 4⟩
abbrev TILE_LAST_FAULT_KIND : Fld := ⟨R.TILE_LAST_FAULT, 20, 4⟩
abbrev TILE_LAST_FAULT_REBUILT : Fld := ⟨R.TILE_LAST_FAULT, 24, 1⟩
abbrev TILE_LAST_TIME_OPTIME : Fld := ⟨R.TILE_LAST_TIME, 0, 32⟩
abbrev TILE_DIR_ECC_COUNT : Fld := ⟨R.TILE_DIR_ECC, 0, 32⟩
abbrev TILE_DISCARDS_COUNT : Fld := ⟨R.TILE_DISCARDS, 0, 32⟩

/-! R49 -/
abbrev TILE_BANK_RECENT (i : Nat) : Fld := ⟨R.TILE_BANK i, 0, 2⟩
abbrev TILE_BANK_SUSPECT (i : Nat) : Fld := ⟨R.TILE_BANK i, 8, 1⟩
abbrev TILE_BANK_EXCLUDED (i : Nat) : Fld := ⟨R.TILE_BANK i, 9, 1⟩
abbrev TILE_BANK_TOTAL (i : Nat) : Fld := ⟨R.TILE_BANK i, 16, 16⟩

/-! R50 -/
abbrev TILE_DIR_SEL_TILE : Fld := ⟨R.TILE_DIR_SEL, 0, 13⟩
abbrev TILE_DIR_CRC_CRC : Fld := ⟨R.TILE_DIR_CRC, 0, 32⟩
abbrev TILE_DIR_INFO_KIND : Fld := ⟨R.TILE_DIR_INFO, 0, 4⟩
abbrev TILE_DIR_INFO_CLASS : Fld := ⟨R.TILE_DIR_INFO, 4, 3⟩
abbrev TILE_DIR_INFO_PEER : Fld := ⟨R.TILE_DIR_INFO, 7, 1⟩
abbrev TILE_DIR_INFO_FAULTED : Fld := ⟨R.TILE_DIR_INFO, 8, 1⟩
abbrev TILE_DIR_INFO_WRITER : Fld := ⟨R.TILE_DIR_INFO, 9, 4⟩
abbrev TILE_PMAP_SEL_POINT : Fld := ⟨R.TILE_PMAP_SEL, 0, 13⟩
abbrev TILE_PMAP_DATA_TILE : Fld := ⟨R.TILE_PMAP_DATA, 0, 13⟩
abbrev TILE_PMAP_DATA_SLOT : Fld := ⟨R.TILE_PMAP_DATA, 16, 4⟩
abbrev TILE_PMAP_DATA_TYPE : Fld := ⟨R.TILE_PMAP_DATA, 20, 4⟩
abbrev TILE_PMAP_DATA_MAPPED : Fld := ⟨R.TILE_PMAP_DATA, 31, 1⟩

/-! R51 -/
abbrev REGION_BASE_BASE (i j : Nat) : Fld := ⟨R.REGION_BASE i j, 8, 24⟩
abbrev REGION_LIMIT_LIMIT (i j : Nat) : Fld := ⟨R.REGION_LIMIT i j, 8, 24⟩
abbrev REGION_ATTR_EN (i j : Nat) : Fld := ⟨R.REGION_ATTR i j, 0, 1⟩
abbrev REGION_ATTR_R (i j : Nat) : Fld := ⟨R.REGION_ATTR i j, 1, 1⟩
abbrev REGION_ATTR_W (i j : Nat) : Fld := ⟨R.REGION_ATTR i j, 2, 1⟩
abbrev REGION_ATTR_X (i j : Nat) : Fld := ⟨R.REGION_ATTR i j, 3, 1⟩
abbrev TILE_RV_STATUS_MASTER : Fld := ⟨R.TILE_RV_STATUS, 0, 4⟩
abbrev TILE_RV_STATUS_ACCESS : Fld := ⟨R.TILE_RV_STATUS, 4, 2⟩
abbrev TILE_RV_STATUS_COUNT : Fld := ⟨R.TILE_RV_STATUS, 16, 16⟩
abbrev TILE_RV_ADDR_ADDR : Fld := ⟨R.TILE_RV_ADDR, 0, 32⟩

/-! R52 -/
abbrev CBW_BASE_TILE (i : Nat) : Fld := ⟨R.CBW_BASE i, 0, 13⟩
abbrev CBW_LENGTH_LENGTH (i : Nat) : Fld := ⟨R.CBW_LENGTH i, 0, 16⟩
abbrev CBW_STRIDE_STRIDE (i : Nat) : Fld := ⟨R.CBW_STRIDE i, 0, 3⟩
abbrev CBW_HEAD_HEAD (i : Nat) : Fld := ⟨R.CBW_HEAD i, 0, 16⟩
abbrev CBW_HEAD_WRAPS (i : Nat) : Fld := ⟨R.CBW_HEAD i, 16, 16⟩
abbrev CBW_STATUS_EN (i : Nat) : Fld := ⟨R.CBW_STATUS i, 0, 1⟩
abbrev CBW_STATUS_BROKEN (i : Nat) : Fld := ⟨R.CBW_STATUS i, 1, 1⟩
abbrev CBW_STATUS_OWNER (i : Nat) : Fld := ⟨R.CBW_STATUS i, 4, 4⟩

/-! R88 -/
abbrev PLAN_STATUS_STATE : Fld := ⟨R.PLAN_STATUS, 0, 3⟩
abbrev PLAN_STATUS_ACTIVE_SLOT : Fld := ⟨R.PLAN_STATUS, 3, 1⟩
abbrev PLAN_STATUS_OFFLINE : Fld := ⟨R.PLAN_STATUS, 4, 1⟩
abbrev PLAN_STATUS_DEFERRED : Fld := ⟨R.PLAN_STATUS, 5, 1⟩
abbrev PLAN_STATUS_CANCELLED : Fld := ⟨R.PLAN_STATUS, 6, 1⟩
abbrev PLAN_STATUS_PROGRESS : Fld := ⟨R.PLAN_STATUS, 8, 7⟩
abbrev PLAN_ACTIVE_ID_ID : Fld := ⟨R.PLAN_ACTIVE_ID, 0, 32⟩
abbrev PLAN_CAND_ID_ID : Fld := ⟨R.PLAN_CAND_ID, 0, 32⟩
abbrev PLAN_SWAP_SEC_SEC : Fld := ⟨R.PLAN_SWAP_SEC, 0, 32⟩
abbrev PLAN_ERROR_CHECK : Fld := ⟨R.PLAN_ERROR, 0, 8⟩
abbrev PLAN_ERROR_DETAIL : Fld := ⟨R.PLAN_ERROR, 8, 24⟩
abbrev PLAN_SWAPS_SWAPS : Fld := ⟨R.PLAN_SWAPS, 0, 16⟩
abbrev PLAN_SWAPS_DEFERRALS : Fld := ⟨R.PLAN_SWAPS, 16, 16⟩
abbrev PLAN_FREE_TILES_FREE : Fld := ⟨R.PLAN_FREE_TILES, 0, 14⟩
abbrev PLAN_FREE_TILES_NEEDED : Fld := ⟨R.PLAN_FREE_TILES, 16, 14⟩
abbrev PLAN_CLASS_CFG_PERIOD (i : Nat) : Fld := ⟨R.PLAN_CLASS_CFG i, 0, 3⟩
abbrev PLAN_CLASS_CFG_EN (i : Nat) : Fld := ⟨R.PLAN_CLASS_CFG i, 3, 1⟩
abbrev PLAN_CLASS_CFG_DEADLINE (i : Nat) : Fld := ⟨R.PLAN_CLASS_CFG i, 8, 7⟩
abbrev PLAN_CLASS_LAUNCH_OFFSET (i : Nat) : Fld := ⟨R.PLAN_CLASS_LAUNCH i, 0, 30⟩
abbrev PLAN_CLASS_BURST_CYCLES (i : Nat) : Fld := ⟨R.PLAN_CLASS_BURST i, 0, 28⟩
abbrev DRUM_STATUS_ENTRIES : Fld := ⟨R.DRUM_STATUS, 0, 15⟩
abbrev DRUM_STATUS_BANK : Fld := ⟨R.DRUM_STATUS, 15, 1⟩
abbrev DRUM_STATUS_SLOT : Fld := ⟨R.DRUM_STATUS, 16, 13⟩
abbrev DRUM_SEL_INDEX : Fld := ⟨R.DRUM_SEL, 0, 14⟩
abbrev DRUM_SEL_CAND : Fld := ⟨R.DRUM_SEL, 14, 1⟩
abbrev DRUM_ENTRY_LO_LO : Fld := ⟨R.DRUM_ENTRY_LO, 0, 32⟩
abbrev DRUM_ENTRY_HI_HI : Fld := ⟨R.DRUM_ENTRY_HI, 0, 32⟩

/-! R122 -/
abbrev EXEC_STATE_STATE : Fld := ⟨R.EXEC_STATE, 0, 4⟩
abbrev EXEC_STATE_PREV : Fld := ⟨R.EXEC_STATE, 4, 4⟩
abbrev EXEC_STATE_RESTART : Fld := ⟨R.EXEC_STATE, 8, 2⟩
abbrev EXEC_STATE_CAUSE : Fld := ⟨R.EXEC_STATE, 12, 4⟩
abbrev EXEC_STATE_SAFE : Fld := ⟨R.EXEC_STATE, 16, 1⟩
abbrev EXEC_STATE_NOPLAN : Fld := ⟨R.EXEC_STATE, 17, 1⟩
abbrev EXEC_POLICY_CAUSE0 : Fld := ⟨R.EXEC_POLICY, 0, 2⟩
abbrev EXEC_POLICY_CAUSE1 : Fld := ⟨R.EXEC_POLICY, 2, 2⟩
abbrev EXEC_POLICY_CAUSE2 : Fld := ⟨R.EXEC_POLICY, 4, 2⟩
abbrev EXEC_POLICY_CAUSE4 : Fld := ⟨R.EXEC_POLICY, 8, 2⟩
abbrev EXEC_POLICY_CAUSE5 : Fld := ⟨R.EXEC_POLICY, 10, 2⟩
abbrev EXEC_POLICY_CAUSE6 : Fld := ⟨R.EXEC_POLICY, 12, 2⟩
abbrev EXEC_POLICY_CAUSE7 : Fld := ⟨R.EXEC_POLICY, 14, 2⟩
abbrev EXEC_POLICY_CAUSE8 : Fld := ⟨R.EXEC_POLICY, 16, 2⟩
abbrev EXEC_AUTORST_EN : Fld := ⟨R.EXEC_AUTORST, 0, 1⟩
abbrev EXEC_AUTORST_LIMIT : Fld := ⟨R.EXEC_AUTORST, 4, 4⟩
abbrev EXEC_AUTORST_WINDOW : Fld := ⟨R.EXEC_AUTORST, 8, 8⟩
abbrev EXEC_AUTORST_DELAY : Fld := ⟨R.EXEC_AUTORST, 16, 8⟩
abbrev EXEC_AUTORST_COUNT : Fld := ⟨R.EXEC_AUTORST, 24, 4⟩
abbrev EXEC_OVERRUN_CLASS : Fld := ⟨R.EXEC_OVERRUN, 0, 3⟩
abbrev EXEC_OVERRUN_CAUSE : Fld := ⟨R.EXEC_OVERRUN, 4, 3⟩
abbrev EXEC_OVERRUN_LANES : Fld := ⟨R.EXEC_OVERRUN, 8, 8⟩
abbrev EXEC_OVERRUN_BURST : Fld := ⟨R.EXEC_OVERRUN, 16, 16⟩
abbrev EXEC_OVR_TIME_OPTIME : Fld := ⟨R.EXEC_OVR_TIME, 0, 32⟩
abbrev EXEC_OVR_COUNT_COUNT : Fld := ⟨R.EXEC_OVR_COUNT, 0, 32⟩
abbrev EXEC_RETAIN_VALID_A : Fld := ⟨R.EXEC_RETAIN, 0, 1⟩
abbrev EXEC_RETAIN_VALID_B : Fld := ⟨R.EXEC_RETAIN, 1, 1⟩
abbrev EXEC_RETAIN_NEWER : Fld := ⟨R.EXEC_RETAIN, 2, 1⟩
abbrev EXEC_RETAIN_WRITING : Fld := ⟨R.EXEC_RETAIN, 3, 1⟩
abbrev EXEC_RETAIN_SKIPPED : Fld := ⟨R.EXEC_RETAIN, 4, 12⟩
abbrev EXEC_RETAIN_USED : Fld := ⟨R.EXEC_RETAIN, 16, 16⟩
abbrev EXEC_RETAIN_CFG_PERIOD : Fld := ⟨R.EXEC_RETAIN_CFG, 0, 3⟩
abbrev EXEC_BIT_CYCLE : Fld := ⟨R.EXEC_BIT, 0, 2⟩
abbrev EXEC_BIT_VALID : Fld := ⟨R.EXEC_BIT, 2, 1⟩
abbrev EXEC_BIT_RUNNING : Fld := ⟨R.EXEC_BIT, 3, 1⟩
abbrev EXEC_BIT_WORDS : Fld := ⟨R.EXEC_BIT, 16, 16⟩
abbrev EXEC_RESTARTS_WARM : Fld := ⟨R.EXEC_RESTARTS, 0, 16⟩
abbrev EXEC_RESTARTS_COLD : Fld := ⟨R.EXEC_RESTARTS, 16, 16⟩

/-! R171 -/
abbrev TIME_STATUS_STATE : Fld := ⟨R.TIME_STATUS, 0, 3⟩
abbrev TIME_STATUS_SOURCE : Fld := ⟨R.TIME_STATUS, 3, 2⟩
abbrev TIME_STATUS_STEP_PENDING : Fld := ⟨R.TIME_STATUS, 5, 1⟩
abbrev TIME_STATUS_SLEWING : Fld := ⟨R.TIME_STATUS, 6, 1⟩
abbrev TIME_STATUS_QUAL_A : Fld := ⟨R.TIME_STATUS, 7, 1⟩
abbrev TIME_STATUS_QUAL_B : Fld := ⟨R.TIME_STATUS, 8, 1⟩
abbrev TIME_STATUS_QUAL_PPS : Fld := ⟨R.TIME_STATUS, 9, 1⟩
abbrev TIME_CFG_ORDER : Fld := ⟨R.TIME_CFG, 0, 3⟩
abbrev TIME_CFG_STEP_EN : Fld := ⟨R.TIME_CFG, 3, 1⟩
abbrev TIME_CFG_HOLD_ERR : Fld := ⟨R.TIME_CFG, 16, 8⟩
abbrev TIME_PTP_DOMAIN : Fld := ⟨R.TIME_PTP, 0, 7⟩
abbrev TIME_PTP_TRANSPORT : Fld := ⟨R.TIME_PTP, 8, 2⟩
abbrev TIME_PTP_P2P : Fld := ⟨R.TIME_PTP, 10, 1⟩
abbrev TIME_PTP_UNICAST_DREQ : Fld := ⟨R.TIME_PTP, 11, 1⟩
abbrev TIME_PTP_EN_A : Fld := ⟨R.TIME_PTP, 12, 1⟩
abbrev TIME_PTP_EN_B : Fld := ⟨R.TIME_PTP, 13, 1⟩
abbrev TIME_PPS_IN_DELAY : Fld := ⟨R.TIME_PPS, 0, 16⟩
abbrev TIME_PPS_IN_EN : Fld := ⟨R.TIME_PPS, 16, 1⟩
abbrev TIME_PPS_OUT_EN : Fld := ⟨R.TIME_PPS, 17, 1⟩
abbrev TIME_PPS_OUT_FREE : Fld := ⟨R.TIME_PPS, 18, 1⟩
abbrev TIME_NOW_LO_NS_LO : Fld := ⟨R.TIME_NOW_LO, 0, 32⟩
abbrev TIME_NOW_HI_NS_HI : Fld := ⟨R.TIME_NOW_HI, 0, 32⟩
abbrev TIME_OFFSET_OFFSET : Fld := ⟨R.TIME_OFFSET, 0, 32⟩
abbrev TIME_FREQ_FREQ : Fld := ⟨R.TIME_FREQ, 0, 32⟩
abbrev TIME_HOLD_SECONDS : Fld := ⟨R.TIME_HOLD, 0, 16⟩
abbrev TIME_HOLD_EST_ERR : Fld := ⟨R.TIME_HOLD, 16, 16⟩
abbrev TIME_UTC_OFFSET : Fld := ⟨R.TIME_UTC, 0, 16⟩
abbrev TIME_UTC_VALID : Fld := ⟨R.TIME_UTC, 16, 1⟩
abbrev TIME_UTC_LEAP61 : Fld := ⟨R.TIME_UTC, 17, 1⟩
abbrev TIME_UTC_LEAP59 : Fld := ⟨R.TIME_UTC, 18, 1⟩
abbrev TIME_EVENTS_STEPS : Fld := ⟨R.TIME_EVENTS, 0, 16⟩
abbrev TIME_EVENTS_LOSSES : Fld := ⟨R.TIME_EVENTS, 16, 16⟩
abbrev TIME_GM_LO_ID_LO : Fld := ⟨R.TIME_GM_LO, 0, 32⟩
abbrev TIME_GM_HI_ID_HI : Fld := ⟨R.TIME_GM_HI, 0, 32⟩

/-! R172 -/
abbrev JACK_STATUS_ACTIVE : Fld := ⟨R.JACK_STATUS, 0, 7⟩
abbrev JACK_STATUS_EN : Fld := ⟨R.JACK_STATUS, 7, 1⟩
abbrev JACK_STATUS_ENTRIES : Fld := ⟨R.JACK_STATUS, 8, 7⟩
abbrev JACK_ACT_ACT (i : Nat) : Fld := ⟨R.JACK_ACT i, 0, 32⟩
abbrev JACK_HIT_HIT (i : Nat) : Fld := ⟨R.JACK_HIT i, 0, 32⟩
abbrev JACK_RESET_ENTRY : Fld := ⟨R.JACK_RESET, 0, 6⟩
abbrev JACK_RESET_ALL : Fld := ⟨R.JACK_RESET, 6, 1⟩
abbrev JACK_SEL_INDEX : Fld := ⟨R.JACK_SEL, 0, 6⟩
abbrev JACK_ENTRY_LO_LO : Fld := ⟨R.JACK_ENTRY_LO, 0, 32⟩
abbrev JACK_ENTRY_HI_HI : Fld := ⟨R.JACK_ENTRY_HI, 0, 32⟩

/-! R196 -/
abbrev LOOP_CFG_TYPE (i : Nat) : Fld := ⟨R.LOOP_CFG i, 0, 2⟩
abbrev LOOP_CFG_ACTION (i : Nat) : Fld := ⟨R.LOOP_CFG i, 2, 1⟩
abbrev LOOP_CFG_CLASS (i : Nat) : Fld := ⟨R.LOOP_CFG i, 3, 3⟩
abbrev LOOP_CFG_CASCADE (i : Nat) : Fld := ⟨R.LOOP_CFG i, 6, 1⟩
abbrev LOOP_CFG_OUTER (i : Nat) : Fld := ⟨R.LOOP_CFG i, 8, 8⟩
abbrev LOOP_CFG_BADPV (i : Nat) : Fld := ⟨R.LOOP_CFG i, 16, 1⟩
abbrev LOOP_CFG_BAD_LIMIT (i : Nat) : Fld := ⟨R.LOOP_CFG i, 18, 6⟩
abbrev LOOP_CFG_ACT (i : Nat) : Fld := ⟨R.LOOP_CFG i, 24, 5⟩
abbrev LOOP_POINTS_PV (i : Nat) : Fld := ⟨R.LOOP_POINTS i, 0, 13⟩
abbrev LOOP_POINTS_SP (i : Nat) : Fld := ⟨R.LOOP_POINTS i, 16, 13⟩
abbrev LOOP_OUTPT_OUT (i : Nat) : Fld := ⟨R.LOOP_OUTPT i, 0, 13⟩
abbrev LOOP_TIMING_PERIOD (i : Nat) : Fld := ⟨R.LOOP_TIMING i, 0, 16⟩
abbrev LOOP_TIMING_PHASE (i : Nat) : Fld := ⟨R.LOOP_TIMING i, 16, 8⟩
abbrev LOOP_KP_KP (i : Nat) : Fld := ⟨R.LOOP_KP i, 0, 32⟩
abbrev LOOP_TI_TI (i : Nat) : Fld := ⟨R.LOOP_TI i, 0, 32⟩
abbrev LOOP_TD_TD (i : Nat) : Fld := ⟨R.LOOP_TD i, 0, 32⟩
abbrev LOOP_WEIGHT_BETA (i : Nat) : Fld := ⟨R.LOOP_WEIGHT i, 0, 8⟩
abbrev LOOP_WEIGHT_GAMMA (i : Nat) : Fld := ⟨R.LOOP_WEIGHT i, 8, 8⟩
abbrev LOOP_WEIGHT_N (i : Nat) : Fld := ⟨R.LOOP_WEIGHT i, 16, 8⟩
abbrev LOOP_OUT_LO_LO (i : Nat) : Fld := ⟨R.LOOP_OUT_LO i, 0, 32⟩
abbrev LOOP_OUT_HI_HI (i : Nat) : Fld := ⟨R.LOOP_OUT_HI i, 0, 32⟩
abbrev LOOP_RATE_RATE (i : Nat) : Fld := ⟨R.LOOP_RATE i, 0, 32⟩
abbrev LOOP_MAN_OUT_MAN (i : Nat) : Fld := ⟨R.LOOP_MAN_OUT i, 0, 32⟩
abbrev LOOP_MODE_REQ (i : Nat) : Fld := ⟨R.LOOP_MODE i, 0, 3⟩
abbrev LOOP_MODE_ACT (i : Nat) : Fld := ⟨R.LOOP_MODE i, 4, 3⟩
abbrev LOOP_MODE_LIM_HI (i : Nat) : Fld := ⟨R.LOOP_MODE i, 8, 1⟩
abbrev LOOP_MODE_LIM_LO (i : Nat) : Fld := ⟨R.LOOP_MODE i, 9, 1⟩
abbrev LOOP_MODE_RATE_LIM (i : Nat) : Fld := ⟨R.LOOP_MODE i, 10, 1⟩
abbrev LOOP_MODE_INT_HOLD (i : Nat) : Fld := ⟨R.LOOP_MODE i, 11, 1⟩
abbrev LOOP_MODE_PV_BAD (i : Nat) : Fld := ⟨R.LOOP_MODE i, 12, 1⟩
abbrev LOOP_MODE_SP_BAD (i : Nat) : Fld := ⟨R.LOOP_MODE i, 13, 1⟩
abbrev LOOP_MODE_FAILED (i : Nat) : Fld := ⟨R.LOOP_MODE i, 14, 1⟩
abbrev LOOP_MODE_TEST (i : Nat) : Fld := ⟨R.LOOP_MODE i, 15, 1⟩
abbrev LOOP_MODE_BADCNT (i : Nat) : Fld := ⟨R.LOOP_MODE i, 16, 8⟩
abbrev LOOP_I_I (i : Nat) : Fld := ⟨R.LOOP_I i, 0, 32⟩
abbrev LOOP_OUT_OUT (i : Nat) : Fld := ⟨R.LOOP_OUT i, 0, 32⟩
abbrev LOOP_PV_PV (i : Nat) : Fld := ⟨R.LOOP_PV i, 0, 32⟩

/-! R197 -/
abbrev LOOPTEST_CTRL_LOOP (i : Nat) : Fld := ⟨R.LOOPTEST_CTRL i, 0, 8⟩
abbrev LOOPTEST_CTRL_KIND (i : Nat) : Fld := ⟨R.LOOPTEST_CTRL i, 8, 2⟩
abbrev LOOPTEST_CTRL_AT_SP (i : Nat) : Fld := ⟨R.LOOPTEST_CTRL i, 10, 1⟩
abbrev LOOPTEST_CTRL_START (i : Nat) : Fld := ⟨R.LOOPTEST_CTRL i, 11, 1⟩
abbrev LOOPTEST_CTRL_ABORT (i : Nat) : Fld := ⟨R.LOOPTEST_CTRL i, 12, 1⟩
abbrev LOOPTEST_CTRL_CBW (i : Nat) : Fld := ⟨R.LOOPTEST_CTRL i, 16, 4⟩
abbrev LOOPTEST_AMP_AMP (i : Nat) : Fld := ⟨R.LOOPTEST_AMP i, 0, 32⟩
abbrev LOOPTEST_F0_F0 (i : Nat) : Fld := ⟨R.LOOPTEST_F0 i, 0, 32⟩
abbrev LOOPTEST_F1_F1 (i : Nat) : Fld := ⟨R.LOOPTEST_F1 i, 0, 32⟩
abbrev LOOPTEST_SHAPE_ORDER (i : Nat) : Fld := ⟨R.LOOPTEST_SHAPE i, 0, 4⟩
abbrev LOOPTEST_SHAPE_CLK (i : Nat) : Fld := ⟨R.LOOPTEST_SHAPE i, 8, 8⟩
abbrev LOOPTEST_SHAPE_DELAY (i : Nat) : Fld := ⟨R.LOOPTEST_SHAPE i, 16, 16⟩
abbrev LOOPTEST_LENGTH_LENGTH (i : Nat) : Fld := ⟨R.LOOPTEST_LENGTH i, 0, 24⟩
abbrev LOOPTEST_ABORT_DEV_DEV (i : Nat) : Fld := ⟨R.LOOPTEST_ABORT_DEV i, 0, 32⟩
abbrev LOOPTEST_STATUS_STATE (i : Nat) : Fld := ⟨R.LOOPTEST_STATUS i, 0, 3⟩
abbrev LOOPTEST_STATUS_CAUSE (i : Nat) : Fld := ⟨R.LOOPTEST_STATUS i, 4, 4⟩
abbrev LOOPTEST_STATUS_K (i : Nat) : Fld := ⟨R.LOOPTEST_STATUS i, 8, 24⟩
abbrev LOOPTEST_EST_K_K (i : Nat) : Fld := ⟨R.LOOPTEST_EST_K i, 0, 32⟩
abbrev LOOPTEST_EST_THETA_THETA (i : Nat) : Fld := ⟨R.LOOPTEST_EST_THETA i, 0, 32⟩
abbrev LOOPTEST_EST_TAU_TAU (i : Nat) : Fld := ⟨R.LOOPTEST_EST_TAU i, 0, 32⟩
abbrev LOOPTEST_EST_FIT_FIT (i : Nat) : Fld := ⟨R.LOOPTEST_EST_FIT i, 0, 16⟩
abbrev LOOPTEST_EST_FIT_VALID (i : Nat) : Fld := ⟨R.LOOPTEST_EST_FIT i, 16, 1⟩

/-! R230 -/
abbrev MET_CFG_I_VCH (i : Nat) : Fld := ⟨R.MET_CFG_I i, 0, 3⟩
abbrev MET_CFG_I_USER_MODE (i : Nat) : Fld := ⟨R.MET_CFG_I i, 3, 1⟩
abbrev MET_CFG_I_SCOPE (i : Nat) : Fld := ⟨R.MET_CFG_I i, 8, 8⟩
abbrev MET_CFG_V_SYSTEM (i : Nat) : Fld := ⟨R.MET_CFG_V i, 0, 1⟩
abbrev MET_CFG_V_F60 (i : Nat) : Fld := ⟨R.MET_CFG_V i, 1, 1⟩
abbrev MET_STATUS_I_RANGE_SEL (i : Nat) : Fld := ⟨R.MET_STATUS_I i, 0, 2⟩
abbrev MET_STATUS_I_SETTLING (i : Nat) : Fld := ⟨R.MET_STATUS_I i, 2, 1⟩
abbrev MET_STATUS_I_OVERLOAD (i : Nat) : Fld := ⟨R.MET_STATUS_I i, 3, 1⟩
abbrev MET_STATUS_I_CREEP (i : Nat) : Fld := ⟨R.MET_STATUS_I i, 4, 1⟩
abbrev MET_STATUS_I_REVERSED (i : Nat) : Fld := ⟨R.MET_STATUS_I i, 5, 1⟩
abbrev MET_STATUS_I_CAL_SRC (i : Nat) : Fld := ⟨R.MET_STATUS_I i, 6, 2⟩
abbrev MET_STATUS_I_THD_NA (i : Nat) : Fld := ⟨R.MET_STATUS_I i, 8, 1⟩
abbrev MET_STATUS_I_SWITCHES (i : Nat) : Fld := ⟨R.MET_STATUS_I i, 16, 16⟩
abbrev MET_STATUS_V_OVERLOAD (i : Nat) : Fld := ⟨R.MET_STATUS_V i, 0, 1⟩
abbrev MET_STATUS_V_FREQ_BAD (i : Nat) : Fld := ⟨R.MET_STATUS_V i, 1, 1⟩
abbrev MET_STATUS_V_CAL_SRC (i : Nat) : Fld := ⟨R.MET_STATUS_V i, 2, 2⟩
abbrev MET_QTY_VALUE (i j : Nat) : Fld := ⟨R.MET_QTY i j, 0, 32⟩
abbrev MET_ENERGY_LO_LO (i j : Nat) : Fld := ⟨R.MET_ENERGY_LO i j, 0, 32⟩
abbrev MET_ENERGY_HI_HI (i j : Nat) : Fld := ⟨R.MET_ENERGY_HI i j, 0, 32⟩
abbrev MET_MIRROR_MWH (i j : Nat) : Fld := ⟨R.MET_MIRROR i j, 0, 32⟩
abbrev MET_CAL_CRC (i : Nat) : Fld := ⟨R.MET_CAL i, 0, 16⟩
abbrev MET_CAL_COMMITS (i : Nat) : Fld := ⟨R.MET_CAL i, 16, 8⟩

/-! R231 -/
abbrev MET_STATUS_RUN : Fld := ⟨R.MET_STATUS, 0, 1⟩
abbrev MET_STATUS_TOTALS_LOST : Fld := ⟨R.MET_STATUS, 1, 1⟩
abbrev MET_STATUS_TCOMP_BAD : Fld := ⟨R.MET_STATUS, 2, 1⟩
abbrev MET_STATUS_JOURNAL_ERR : Fld := ⟨R.MET_STATUS, 3, 1⟩
abbrev MET_STATUS_FALLBACK : Fld := ⟨R.MET_STATUS, 8, 7⟩
abbrev MET_BLOCK_BLOCK : Fld := ⟨R.MET_BLOCK, 0, 32⟩
abbrev MET_INT_CFG_LEN : Fld := ⟨R.MET_INT_CFG, 0, 3⟩
abbrev MET_INT_CFG_UTC_OFF : Fld := ⟨R.MET_INT_CFG, 8, 16⟩
abbrev MET_INT_NUM_NUM : Fld := ⟨R.MET_INT_NUM, 0, 32⟩
abbrev MET_TEMP_TEMP : Fld := ⟨R.MET_TEMP, 0, 16⟩
abbrev MET_JOURNAL_SKIPPED : Fld := ⟨R.MET_JOURNAL, 0, 16⟩
abbrev MET_JOURNAL_LOST : Fld := ⟨R.MET_JOURNAL, 16, 8⟩
abbrev MET_CAL_CTRL_CHANNEL : Fld := ⟨R.MET_CAL_CTRL, 0, 7⟩
abbrev MET_CAL_CTRL_ACCUM : Fld := ⟨R.MET_CAL_CTRL, 8, 1⟩
abbrev MET_CAL_CTRL_COMMIT : Fld := ⟨R.MET_CAL_CTRL, 9, 1⟩
abbrev MET_CAL_CTRL_DISCARD : Fld := ⟨R.MET_CAL_CTRL, 10, 1⟩
abbrev MET_CAL_CTRL_FORCE_RANGE : Fld := ⟨R.MET_CAL_CTRL, 11, 2⟩
abbrev MET_CAL_CTRL_BUSY : Fld := ⟨R.MET_CAL_CTRL, 13, 1⟩
abbrev MET_CAL_CTRL_DONE : Fld := ⟨R.MET_CAL_CTRL, 14, 1⟩
abbrev MET_CAL_CTRL_BLOCKS : Fld := ⟨R.MET_CAL_CTRL, 16, 8⟩
abbrev MET_CAL_INDEX_INDEX : Fld := ⟨R.MET_CAL_INDEX, 0, 4⟩
abbrev MET_CAL_INDEX_STAGED : Fld := ⟨R.MET_CAL_INDEX, 4, 1⟩
abbrev MET_CAL_DATA_VALUE : Fld := ⟨R.MET_CAL_DATA, 0, 32⟩
abbrev MET_CAL_RAW_RAW (i : Nat) : Fld := ⟨R.MET_CAL_RAW i, 0, 32⟩
abbrev MET_TCOMP_FACTOR (i : Nat) : Fld := ⟨R.MET_TCOMP i, 0, 32⟩
abbrev MET_CAP_CTRL_CHANNEL : Fld := ⟨R.MET_CAP_CTRL, 0, 7⟩
abbrev MET_CAP_CTRL_START : Fld := ⟨R.MET_CAP_CTRL, 8, 1⟩
abbrev MET_CAP_CTRL_TRIG_OVL : Fld := ⟨R.MET_CAP_CTRL, 9, 1⟩
abbrev MET_CAP_CTRL_DONE : Fld := ⟨R.MET_CAP_CTRL, 10, 1⟩
abbrev MET_CAP_CTRL_BUSY : Fld := ⟨R.MET_CAP_CTRL, 11, 1⟩
abbrev MET_CAP_CTRL_CBW : Fld := ⟨R.MET_CAP_CTRL, 12, 4⟩

/-! R258 -/
abbrev FIO_STATUS_VAUX_OK : Fld := ⟨R.FIO_STATUS, 0, 1⟩
abbrev FIO_STATUS_VAUX_LOST : Fld := ⟨R.FIO_STATUS, 1, 1⟩
abbrev FIO_STATUS_DO_FAULTS : Fld := ⟨R.FIO_STATUS, 8, 8⟩
abbrev FIO_DO_GRP_TRIP (i : Nat) : Fld := ⟨R.FIO_DO_GRP i, 0, 1⟩
abbrev FIO_DO_GRP_LATCHED (i : Nat) : Fld := ⟨R.FIO_DO_GRP i, 1, 1⟩
abbrev FIO_DO_GRP_RETRIES (i : Nat) : Fld := ⟨R.FIO_DO_GRP i, 4, 2⟩
abbrev FIO_DO_GRP_CURRENT (i : Nat) : Fld := ⟨R.FIO_DO_GRP i, 16, 16⟩
abbrev FIO_CNT_JOURNAL_SKIPPED : Fld := ⟨R.FIO_CNT_JOURNAL, 0, 16⟩
abbrev FIO_CNT_JOURNAL_LOST : Fld := ⟨R.FIO_CNT_JOURNAL, 16, 8⟩
abbrev FIO_CNT_JOURNAL_ERR : Fld := ⟨R.FIO_CNT_JOURNAL, 24, 1⟩
abbrev FIO_DI_CFG_FILT (i : Nat) : Fld := ⟨R.FIO_DI_CFG i, 0, 10⟩
abbrev FIO_DI_CFG_INV (i : Nat) : Fld := ⟨R.FIO_DI_CFG i, 10, 1⟩
abbrev FIO_DI_CFG_MAXON (i : Nat) : Fld := ⟨R.FIO_DI_CFG i, 16, 16⟩
abbrev FIO_DI_CHAT_N (i : Nat) : Fld := ⟨R.FIO_DI_CHAT i, 0, 8⟩
abbrev FIO_DI_CHAT_WIN (i : Nat) : Fld := ⟨R.FIO_DI_CHAT i, 8, 16⟩
abbrev FIO_DI_CHAT_HOLD (i : Nat) : Fld := ⟨R.FIO_DI_CHAT i, 24, 8⟩
abbrev FIO_DI_STATUS_RAW (i : Nat) : Fld := ⟨R.FIO_DI_STATUS i, 0, 1⟩
abbrev FIO_DI_STATUS_FILTERED (i : Nat) : Fld := ⟨R.FIO_DI_STATUS i, 1, 1⟩
abbrev FIO_DI_STATUS_VALUE (i : Nat) : Fld := ⟨R.FIO_DI_STATUS i, 2, 1⟩
abbrev FIO_DI_STATUS_STUCK (i : Nat) : Fld := ⟨R.FIO_DI_STATUS i, 3, 1⟩
abbrev FIO_DI_STATUS_CHATTER (i : Nat) : Fld := ⟨R.FIO_DI_STATUS i, 4, 1⟩
abbrev FIO_DI_STATUS_EPISODES (i : Nat) : Fld := ⟨R.FIO_DI_STATUS i, 16, 16⟩
abbrev FIO_CNT_CFG_EDGE (i : Nat) : Fld := ⟨R.FIO_CNT_CFG i, 0, 2⟩
abbrev FIO_CNT_CFG_EN (i : Nat) : Fld := ⟨R.FIO_CNT_CFG i, 2, 1⟩
abbrev FIO_CNT_STATUS_OVERSPEED (i : Nat) : Fld := ⟨R.FIO_CNT_STATUS i, 0, 1⟩
abbrev FIO_CNT_STATUS_OVS_SEEN (i : Nat) : Fld := ⟨R.FIO_CNT_STATUS i, 1, 1⟩
abbrev FIO_CNT_STATUS_RATE (i : Nat) : Fld := ⟨R.FIO_CNT_STATUS i, 16, 16⟩
abbrev FIO_CNT_LO_COUNT (i : Nat) : Fld := ⟨R.FIO_CNT_LO i, 0, 32⟩
abbrev FIO_CNT_HI_COUNT (i : Nat) : Fld := ⟨R.FIO_CNT_HI i, 0, 32⟩
abbrev FIO_DO_CFG_RETRY (i : Nat) : Fld := ⟨R.FIO_DO_CFG i, 0, 1⟩
abbrev FIO_DO_CFG_OPENLOAD_EN (i : Nat) : Fld := ⟨R.FIO_DO_CFG i, 1, 1⟩
abbrev FIO_DO_STATUS_CMD (i : Nat) : Fld := ⟨R.FIO_DO_STATUS i, 0, 1⟩
abbrev FIO_DO_STATUS_DRIVE (i : Nat) : Fld := ⟨R.FIO_DO_STATUS i, 1, 1⟩
abbrev FIO_DO_STATUS_SC (i : Nat) : Fld := ⟨R.FIO_DO_STATUS i, 2, 1⟩
abbrev FIO_DO_STATUS_THERMAL (i : Nat) : Fld := ⟨R.FIO_DO_STATUS i, 3, 1⟩
abbrev FIO_DO_STATUS_OPENLOAD (i : Nat) : Fld := ⟨R.FIO_DO_STATUS i, 4, 1⟩
abbrev FIO_DO_STATUS_GROUP (i : Nat) : Fld := ⟨R.FIO_DO_STATUS i, 5, 1⟩
abbrev FIO_DO_STATUS_SC_LATCHED (i : Nat) : Fld := ⟨R.FIO_DO_STATUS i, 6, 1⟩
abbrev FIO_DO_STATUS_CURRENT (i : Nat) : Fld := ⟨R.FIO_DO_STATUS i, 16, 16⟩
abbrev FIO_AI_CFG_MODE (i : Nat) : Fld := ⟨R.FIO_AI_CFG i, 0, 3⟩
abbrev FIO_AI_CFG_CONV (i : Nat) : Fld := ⟨R.FIO_AI_CFG i, 3, 2⟩
abbrev FIO_AI_CFG_TAU (i : Nat) : Fld := ⟨R.FIO_AI_CFG i, 16, 16⟩
abbrev FIO_AI_SC_LO_SC (i : Nat) : Fld := ⟨R.FIO_AI_SC_LO i, 0, 32⟩
abbrev FIO_AI_SC_HI_SC (i : Nat) : Fld := ⟨R.FIO_AI_SC_HI i, 0, 32⟩
abbrev FIO_AI_PARAM1_P1 (i : Nat) : Fld := ⟨R.FIO_AI_PARAM1 i, 0, 32⟩
abbrev FIO_AI_PARAM2_P2 (i : Nat) : Fld := ⟨R.FIO_AI_PARAM2 i, 0, 32⟩
abbrev FIO_AI_VALUE_VALUE (i : Nat) : Fld := ⟨R.FIO_AI_VALUE i, 0, 32⟩
abbrev FIO_AI_STATUS_RANGE (i : Nat) : Fld := ⟨R.FIO_AI_STATUS i, 0, 1⟩
abbrev FIO_AI_STATUS_PROT (i : Nat) : Fld := ⟨R.FIO_AI_STATUS i, 1, 1⟩
abbrev FIO_AI_STATUS_OPEN (i : Nat) : Fld := ⟨R.FIO_AI_STATUS i, 2, 1⟩
abbrev FIO_AI_STATUS_SHORT (i : Nat) : Fld := ⟨R.FIO_AI_STATUS i, 3, 1⟩
abbrev FIO_AI_STATUS_CONVS (i : Nat) : Fld := ⟨R.FIO_AI_STATUS i, 16, 16⟩
abbrev FIO_AO_CFG_MODE (i : Nat) : Fld := ⟨R.FIO_AO_CFG i, 0, 2⟩
abbrev FIO_AO_SC_LO_SC (i : Nat) : Fld := ⟨R.FIO_AO_SC_LO i, 0, 32⟩
abbrev FIO_AO_SC_HI_SC (i : Nat) : Fld := ⟨R.FIO_AO_SC_HI i, 0, 32⟩
abbrev FIO_AO_STATUS_HIZ (i : Nat) : Fld := ⟨R.FIO_AO_STATUS i, 0, 1⟩
abbrev FIO_AO_STATUS_OVLD (i : Nat) : Fld := ⟨R.FIO_AO_STATUS i, 1, 1⟩
abbrev FIO_AO_STATUS_OPEN (i : Nat) : Fld := ⟨R.FIO_AO_STATUS i, 2, 1⟩
abbrev FIO_AO_STATUS_DAC (i : Nat) : Fld := ⟨R.FIO_AO_STATUS i, 16, 16⟩

/-! R259 -/
abbrev LTX_CFG_EN (i : Nat) : Fld := ⟨R.LTX_CFG i, 0, 1⟩
abbrev LTX_CFG_ALARM (i : Nat) : Fld := ⟨R.LTX_CFG i, 1, 1⟩
abbrev LTX_CFG_MODEM_EN (i : Nat) : Fld := ⟨R.LTX_CFG i, 2, 1⟩
abbrev LTX_CFG_HOLD (i : Nat) : Fld := ⟨R.LTX_CFG i, 16, 16⟩
abbrev LTX_CMD_CMD (i : Nat) : Fld := ⟨R.LTX_CMD i, 0, 32⟩
abbrev LTX_READ_READ (i : Nat) : Fld := ⟨R.LTX_READ i, 0, 32⟩
abbrev LTX_STATUS_LINK (i : Nat) : Fld := ⟨R.LTX_STATUS i, 0, 1⟩
abbrev LTX_STATUS_COMPLIANCE (i : Nat) : Fld := ⟨R.LTX_STATUS i, 1, 1⟩
abbrev LTX_STATUS_OPEN (i : Nat) : Fld := ⟨R.LTX_STATUS i, 2, 1⟩
abbrev LTX_STATUS_AT_ALARM (i : Nat) : Fld := ⟨R.LTX_STATUS i, 3, 1⟩
abbrev LTX_STATUS_CD (i : Nat) : Fld := ⟨R.LTX_STATUS i, 4, 1⟩
abbrev LTX_STATUS_TERMV (i : Nat) : Fld := ⟨R.LTX_STATUS i, 8, 8⟩
abbrev LTX_STATUS_COMPL_EVENTS (i : Nat) : Fld := ⟨R.LTX_STATUS i, 16, 16⟩
abbrev LTX_MODEM_RX_LEVEL (i : Nat) : Fld := ⟨R.LTX_MODEM i, 0, 9⟩
abbrev LTX_MODEM_RX_OVF (i : Nat) : Fld := ⟨R.LTX_MODEM i, 16, 1⟩
abbrev LTX_MODEM_PARITY_ERR (i : Nat) : Fld := ⟨R.LTX_MODEM i, 17, 1⟩

/-! R283 -/
abbrev SAFE_STATUS_ACTIVE : Fld := ⟨R.SAFE_STATUS, 0, 1⟩
abbrev SAFE_STATUS_FAULT : Fld := ⟨R.SAFE_STATUS, 1, 1⟩
abbrev SAFE_STATUS_SO_FAULT : Fld := ⟨R.SAFE_STATUS, 2, 1⟩
abbrev SAFE_STATUS_SI_FAULT : Fld := ⟨R.SAFE_STATUS, 3, 1⟩
abbrev SAFE_STATUS_CAUSE : Fld := ⟨R.SAFE_STATUS, 8, 3⟩
abbrev SAFE_CRC_CRC : Fld := ⟨R.SAFE_CRC, 0, 32⟩
abbrev SAFE_REACT_TASK_US : Fld := ⟨R.SAFE_REACT, 0, 16⟩
abbrev SAFE_REACT_CLASS : Fld := ⟨R.SAFE_REACT, 16, 3⟩
abbrev SAFE_LOCK_PW_SET : Fld := ⟨R.SAFE_LOCK, 0, 1⟩
abbrev SAFE_LOCK_UNLOCKED : Fld := ⟨R.SAFE_LOCK, 1, 1⟩
abbrev SAFE_LOCK_FAILS : Fld := ⟨R.SAFE_LOCK, 2, 3⟩
abbrev SAFE_LOCK_BLOCKED : Fld := ⟨R.SAFE_LOCK, 5, 1⟩
abbrev SAFE_LOCK_BLOCK_S : Fld := ⟨R.SAFE_LOCK, 16, 16⟩
abbrev SAFE_MISMATCH_RECENT : Fld := ⟨R.SAFE_MISMATCH, 0, 2⟩
abbrev SAFE_MISMATCH_TOTAL : Fld := ⟨R.SAFE_MISMATCH, 16, 16⟩
abbrev SAFE_LOG_UNREAD : Fld := ⟨R.SAFE_LOG, 0, 12⟩
abbrev SAFE_LOG_NEAR_FULL : Fld := ⟨R.SAFE_LOG, 12, 1⟩
abbrev SAFE_LOG_FULL : Fld := ⟨R.SAFE_LOG, 13, 1⟩
abbrev SAFE_SI_CFG_MODE (i : Nat) : Fld := ⟨R.SAFE_SI_CFG i, 0, 2⟩
abbrev SAFE_SI_CFG_FILT (i : Nat) : Fld := ⟨R.SAFE_SI_CFG i, 8, 7⟩
abbrev SAFE_SI_CFG_DISC (i : Nat) : Fld := ⟨R.SAFE_SI_CFG i, 16, 8⟩
abbrev SAFE_SI_STATUS_RAW_A (i : Nat) : Fld := ⟨R.SAFE_SI_STATUS i, 0, 1⟩
abbrev SAFE_SI_STATUS_RAW_B (i : Nat) : Fld := ⟨R.SAFE_SI_STATUS i, 1, 1⟩
abbrev SAFE_SI_STATUS_VALUE (i : Nat) : Fld := ⟨R.SAFE_SI_STATUS i, 2, 1⟩
abbrev SAFE_SI_STATUS_DISC_FAULT (i : Nat) : Fld := ⟨R.SAFE_SI_STATUS i, 3, 1⟩
abbrev SAFE_SI_STATUS_TEST_FAULT (i : Nat) : Fld := ⟨R.SAFE_SI_STATUS i, 4, 1⟩
abbrev SAFE_SI_STATUS_AWAIT_DEMAND (i : Nat) : Fld := ⟨R.SAFE_SI_STATUS i, 5, 1⟩
abbrev SAFE_SO_CFG_EN (i : Nat) : Fld := ⟨R.SAFE_SO_CFG i, 0, 1⟩
abbrev SAFE_SO_STATUS_CMD_A (i : Nat) : Fld := ⟨R.SAFE_SO_STATUS i, 0, 1⟩
abbrev SAFE_SO_STATUS_CMD_B (i : Nat) : Fld := ⟨R.SAFE_SO_STATUS i, 1, 1⟩
abbrev SAFE_SO_STATUS_RB_A (i : Nat) : Fld := ⟨R.SAFE_SO_STATUS i, 2, 1⟩
abbrev SAFE_SO_STATUS_RB_B (i : Nat) : Fld := ⟨R.SAFE_SO_STATUS i, 3, 1⟩
abbrev SAFE_SO_STATUS_FAULT (i : Nat) : Fld := ⟨R.SAFE_SO_STATUS i, 4, 1⟩
abbrev SAFE_SO_STATUS_CAUSE (i : Nat) : Fld := ⟨R.SAFE_SO_STATUS i, 5, 3⟩
abbrev SAFE_SO_STATUS_CHANNEL (i : Nat) : Fld := ⟨R.SAFE_SO_STATUS i, 8, 1⟩
abbrev SAFE_SO_STATUS_PULSES (i : Nat) : Fld := ⟨R.SAFE_SO_STATUS i, 16, 16⟩

/-! R305 -/
abbrev FBUS_CFG_KIND (i : Nat) : Fld := ⟨R.FBUS_CFG i, 0, 4⟩
abbrev FBUS_CFG_PROTO (i : Nat) : Fld := ⟨R.FBUS_CFG i, 4, 4⟩
abbrev FBUS_CFG_EN (i : Nat) : Fld := ⟨R.FBUS_CFG i, 8, 1⟩
abbrev FBUS_CFG_TERM (i : Nat) : Fld := ⟨R.FBUS_CFG i, 9, 1⟩
abbrev FBUS_CFG_RETRY (i : Nat) : Fld := ⟨R.FBUS_CFG i, 16, 4⟩
abbrev FBUS_CFG_PASS (i : Nat) : Fld := ⟨R.FBUS_CFG i, 20, 8⟩
abbrev FBUS_RATE_BPS (i : Nat) : Fld := ⟨R.FBUS_RATE i, 0, 32⟩
abbrev FBUS_STATUS_UP (i : Nat) : Fld := ⟨R.FBUS_STATUS i, 0, 1⟩
abbrev FBUS_STATUS_BUS_OFF (i : Nat) : Fld := ⟨R.FBUS_STATUS i, 1, 1⟩
abbrev FBUS_STATUS_NO_POWER (i : Nat) : Fld := ⟨R.FBUS_STATUS i, 2, 1⟩
abbrev FBUS_STATUS_SHORT (i : Nat) : Fld := ⟨R.FBUS_STATUS i, 3, 1⟩
abbrev FBUS_STATUS_TOKEN (i : Nat) : Fld := ⟨R.FBUS_STATUS i, 4, 1⟩
abbrev FBUS_STATUS_FAILED (i : Nat) : Fld := ⟨R.FBUS_STATUS i, 8, 8⟩
abbrev FBUS_EXCH_COUNT (i : Nat) : Fld := ⟨R.FBUS_EXCH i, 0, 32⟩
abbrev FBUS_FAILS_COUNT (i : Nat) : Fld := ⟨R.FBUS_FAILS i, 0, 32⟩
abbrev FBUS_RETRIES_COUNT (i : Nat) : Fld := ⟨R.FBUS_RETRIES i, 0, 32⟩
abbrev FBUS_RXERR_COUNT (i : Nat) : Fld := ⟨R.FBUS_RXERR i, 0, 32⟩
abbrev FBUS_DROPS_COUNT (i : Nat) : Fld := ⟨R.FBUS_DROPS i, 0, 32⟩
abbrev FBUS_CAN_ERR_TEC (i : Nat) : Fld := ⟨R.FBUS_CAN_ERR i, 0, 8⟩
abbrev FBUS_CAN_ERR_REC (i : Nat) : Fld := ⟨R.FBUS_CAN_ERR i, 8, 8⟩
abbrev FBUS_CAN_ERR_STATE (i : Nat) : Fld := ⟨R.FBUS_CAN_ERR i, 16, 2⟩
abbrev FBUS_CAN_ERR_BUSOFFS (i : Nat) : Fld := ⟨R.FBUS_CAN_ERR i, 24, 8⟩
abbrev FBUS_CAN_DATA_BPS (i : Nat) : Fld := ⟨R.FBUS_CAN_DATA i, 0, 32⟩
abbrev FBUS_FILT_SEL_INDEX (i : Nat) : Fld := ⟨R.FBUS_FILT_SEL i, 0, 7⟩
abbrev FBUS_FILT_LO_ELEM (i : Nat) : Fld := ⟨R.FBUS_FILT_LO i, 0, 32⟩
abbrev FBUS_FILT_HI_ELEM (i : Nat) : Fld := ⟨R.FBUS_FILT_HI i, 0, 32⟩
abbrev FBUS_RXO_SEL_INDEX (i : Nat) : Fld := ⟨R.FBUS_RXO_SEL i, 0, 8⟩
abbrev FBUS_RXO_ID_ID (i : Nat) : Fld := ⟨R.FBUS_RXO_ID i, 0, 29⟩
abbrev FBUS_RXO_ID_XTD (i : Nat) : Fld := ⟨R.FBUS_RXO_ID i, 29, 1⟩
abbrev FBUS_RXO_ID_FDF (i : Nat) : Fld := ⟨R.FBUS_RXO_ID i, 30, 1⟩
abbrev FBUS_RXO_ID_EN (i : Nat) : Fld := ⟨R.FBUS_RXO_ID i, 31, 1⟩
abbrev FBUS_RXO_STAT_LEN (i : Nat) : Fld := ⟨R.FBUS_RXO_STAT i, 0, 7⟩
abbrev FBUS_RXO_STAT_NEW (i : Nat) : Fld := ⟨R.FBUS_RXO_STAT i, 8, 1⟩
abbrev FBUS_RXO_STAT_LOST (i : Nat) : Fld := ⟨R.FBUS_RXO_STAT i, 9, 1⟩
abbrev FBUS_RXO_STAT_LOSTCNT (i : Nat) : Fld := ⟨R.FBUS_RXO_STAT i, 16, 16⟩
abbrev FBUS_PWR_CFG_LIMIT (i : Nat) : Fld := ⟨R.FBUS_PWR_CFG i, 0, 7⟩
abbrev FBUS_PWR_CFG_PWR_EN (i : Nat) : Fld := ⟨R.FBUS_PWR_CFG i, 7, 1⟩
abbrev FBUS_PWR_STATUS_ON (i : Nat) : Fld := ⟨R.FBUS_PWR_STATUS i, 0, 1⟩
abbrev FBUS_PWR_STATUS_DETECTED (i : Nat) : Fld := ⟨R.FBUS_PWR_STATUS i, 1, 1⟩
abbrev FBUS_PWR_STATUS_OVERCURRENT (i : Nat) : Fld := ⟨R.FBUS_PWR_STATUS i, 2, 1⟩
abbrev FBUS_PWR_STATUS_SHED (i : Nat) : Fld := ⟨R.FBUS_PWR_STATUS i, 3, 1⟩
abbrev FBUS_PWR_STATUS_POWER (i : Nat) : Fld := ⟨R.FBUS_PWR_STATUS i, 16, 16⟩
abbrev FBUS_DALI_BUS_VOLT (i : Nat) : Fld := ⟨R.FBUS_DALI_BUS i, 0, 16⟩
abbrev FBUS_DALI_BUS_COLLISIONS (i : Nat) : Fld := ⟨R.FBUS_DALI_BUS i, 16, 16⟩
abbrev FBUS_PWR_TOTAL_POWER : Fld := ⟨R.FBUS_PWR_TOTAL, 0, 16⟩
abbrev FBUS_PWR_TOTAL_SHEDDING : Fld := ⟨R.FBUS_PWR_TOTAL, 16, 1⟩

/-! R325 -/
abbrev UPL_CFG_EN (i : Nat) : Fld := ⟨R.UPL_CFG i, 0, 1⟩
abbrev UPL_CFG_MIN_SPEED (i : Nat) : Fld := ⟨R.UPL_CFG i, 1, 3⟩
abbrev UPL_CFG_MAX_SPEED (i : Nat) : Fld := ⟨R.UPL_CFG i, 4, 3⟩
abbrev UPL_CFG_SHIFT_EN (i : Nat) : Fld := ⟨R.UPL_CFG i, 7, 1⟩
abbrev UPL_CFG_SHIFT_GUARD (i : Nat) : Fld := ⟨R.UPL_CFG i, 8, 1⟩
abbrev UPL_CFG_IGNORE_PAUSE (i : Nat) : Fld := ⟨R.UPL_CFG i, 9, 1⟩
abbrev UPL_CFG_PREEMPT_EN (i : Nat) : Fld := ⟨R.UPL_CFG i, 10, 1⟩
abbrev UPL_CFG_IP6_EN (i : Nat) : Fld := ⟨R.UPL_CFG i, 11, 1⟩
abbrev UPL_STATUS_LINK (i : Nat) : Fld := ⟨R.UPL_STATUS i, 0, 1⟩
abbrev UPL_STATUS_SPEED (i : Nat) : Fld := ⟨R.UPL_STATUS i, 1, 3⟩
abbrev UPL_STATUS_SHIFTING (i : Nat) : Fld := ⟨R.UPL_STATUS i, 4, 1⟩
abbrev UPL_STATUS_PREEMPT_ACTIVE (i : Nat) : Fld := ⟨R.UPL_STATUS i, 5, 1⟩
abbrev UPL_STATUS_SFP_PRESENT (i : Nat) : Fld := ⟨R.UPL_STATUS i, 6, 1⟩
abbrev UPL_STATUS_LOS (i : Nat) : Fld := ⟨R.UPL_STATUS i, 7, 1⟩
abbrev UPL_STATUS_PENDING (i : Nat) : Fld := ⟨R.UPL_STATUS i, 8, 1⟩
abbrev UPL_STATUS_UP_S (i : Nat) : Fld := ⟨R.UPL_STATUS i, 16, 16⟩
abbrev UPL_SHIFT_DOWN_THR (i : Nat) : Fld := ⟨R.UPL_SHIFT i, 0, 8⟩
abbrev UPL_SHIFT_UP_THR (i : Nat) : Fld := ⟨R.UPL_SHIFT i, 8, 8⟩
abbrev UPL_SHIFT_UP_RX (i : Nat) : Fld := ⟨R.UPL_SHIFT i, 16, 8⟩
abbrev UPL_SHIFT_TIME_DOWN_DWELL (i : Nat) : Fld := ⟨R.UPL_SHIFT_TIME i, 0, 16⟩
abbrev UPL_SHIFT_TIME_HOLDOFF (i : Nat) : Fld := ⟨R.UPL_SHIFT_TIME i, 16, 16⟩
abbrev UPL_VLAN_VID (i : Nat) : Fld := ⟨R.UPL_VLAN i, 0, 12⟩
abbrev UPL_VLAN_PCP_EXP (i : Nat) : Fld := ⟨R.UPL_VLAN i, 12, 3⟩
abbrev UPL_VLAN_PCP_PRE (i : Nat) : Fld := ⟨R.UPL_VLAN i, 16, 3⟩
abbrev UPL_IP4_ADDR_ADDR (i : Nat) : Fld := ⟨R.UPL_IP4_ADDR i, 0, 32⟩
abbrev UPL_IP4_GW_ADDR (i : Nat) : Fld := ⟨R.UPL_IP4_GW i, 0, 32⟩
abbrev UPL_IP4_MASK_PREFIX (i : Nat) : Fld := ⟨R.UPL_IP4_MASK i, 0, 6⟩
abbrev UPL_IP6_ADDR (i j : Nat) : Fld := ⟨R.UPL_IP6 i j, 0, 32⟩
abbrev UPL_IP6_CFG_PREFIX (i : Nat) : Fld := ⟨R.UPL_IP6_CFG i, 0, 8⟩
abbrev UPL_MAC_LO_MAC (i : Nat) : Fld := ⟨R.UPL_MAC_LO i, 0, 32⟩
abbrev UPL_MAC_HI_MAC (i : Nat) : Fld := ⟨R.UPL_MAC_HI i, 0, 16⟩
abbrev UPL_CTRL_APPLY (i : Nat) : Fld := ⟨R.UPL_CTRL i, 0, 1⟩
abbrev UPL_CTRL_CONFIRM (i : Nat) : Fld := ⟨R.UPL_CTRL i, 1, 1⟩
abbrev UPL_CTRL_REVERT (i : Nat) : Fld := ⟨R.UPL_CTRL i, 2, 1⟩
abbrev UPL_RX_FRAMES_COUNT (i : Nat) : Fld := ⟨R.UPL_RX_FRAMES i, 0, 32⟩
abbrev UPL_TX_FRAMES_COUNT (i : Nat) : Fld := ⟨R.UPL_TX_FRAMES i, 0, 32⟩
abbrev UPL_RX_DROP_COUNT (i : Nat) : Fld := ⟨R.UPL_RX_DROP i, 0, 32⟩
abbrev UPL_PAUSE_RX_COUNT (i : Nat) : Fld := ⟨R.UPL_PAUSE_RX i, 0, 32⟩
abbrev UPL_FRAG_ERR_COUNT (i : Nat) : Fld := ⟨R.UPL_FRAG_ERR i, 0, 32⟩
abbrev UPL_SHIFTS_COUNT (i : Nat) : Fld := ⟨R.UPL_SHIFTS i, 0, 32⟩

/-! R326 -/
abbrev FPOOL_STATUS_FREE : Fld := ⟨R.FPOOL_STATUS, 0, 14⟩
abbrev FPOOL_STATUS_CLEARING : Fld := ⟨R.FPOOL_STATUS, 16, 1⟩
abbrev FPOOL_SEL_CHANNEL : Fld := ⟨R.FPOOL_SEL, 0, 4⟩
abbrev FPOOL_QUOTA_MIN : Fld := ⟨R.FPOOL_QUOTA, 0, 14⟩
abbrev FPOOL_QUOTA_CEIL : Fld := ⟨R.FPOOL_QUOTA, 16, 14⟩
abbrev FPOOL_USE_USED : Fld := ⟨R.FPOOL_USE, 0, 14⟩
abbrev FPOOL_USE_PEAK : Fld := ⟨R.FPOOL_USE, 16, 14⟩
abbrev FPOOL_DROP_COUNT : Fld := ⟨R.FPOOL_DROP, 0, 32⟩

/-! R353 -/
abbrev SESS_STATUS_OPEN : Fld := ⟨R.SESS_STATUS, 0, 11⟩
abbrev SESS_STATUS_INFLIGHT : Fld := ⟨R.SESS_STATUS, 11, 8⟩
abbrev SESS_CFG_IDLE : Fld := ⟨R.SESS_CFG, 0, 16⟩
abbrev SESS_CFG_HOST_EN : Fld := ⟨R.SESS_CFG, 16, 1⟩
abbrev SESS_CFG_PROBE_EN : Fld := ⟨R.SESS_CFG, 17, 1⟩
abbrev SESS_AUTH_FAIL_COUNT : Fld := ⟨R.SESS_AUTH_FAIL, 0, 32⟩
abbrev SESS_BAD_COUNT : Fld := ⟨R.SESS_BAD, 0, 32⟩
abbrev SESS_REFUSED_COUNT : Fld := ⟨R.SESS_REFUSED, 0, 32⟩
abbrev SESS_SEL_SESSION : Fld := ⟨R.SESS_SEL, 0, 10⟩
abbrev SESS_INFO_OPEN : Fld := ⟨R.SESS_INFO, 0, 1⟩
abbrev SESS_INFO_TRANSPORT : Fld := ⟨R.SESS_INFO, 1, 2⟩
abbrev SESS_INFO_ROLE : Fld := ⟨R.SESS_INFO, 3, 3⟩
abbrev SESS_INFO_SCOPE : Fld := ⟨R.SESS_INFO, 8, 8⟩
abbrev SESS_INFO_INFLIGHT : Fld := ⟨R.SESS_INFO, 16, 5⟩
abbrev SESS_INFO_CACHE : Fld := ⟨R.SESS_INFO, 21, 4⟩
abbrev SESS_INFO_UNLOCKED : Fld := ⟨R.SESS_INFO, 25, 1⟩
abbrev SESS_INFO_VIA_B : Fld := ⟨R.SESS_INFO, 26, 1⟩
abbrev SESS_SEQ_H : Fld := ⟨R.SESS_SEQ, 0, 32⟩
abbrev SESS_IDLE_LEFT : Fld := ⟨R.SESS_IDLE, 0, 16⟩

/-! R385 -/
abbrev TWIN_STATUS_MODE : Fld := ⟨R.TWIN_STATUS, 0, 2⟩
abbrev TWIN_STATUS_SIDE : Fld := ⟨R.TWIN_STATUS, 2, 1⟩
abbrev TWIN_STATUS_CLASH : Fld := ⟨R.TWIN_STATUS, 3, 1⟩
abbrev TWIN_STATUS_MISMATCH : Fld := ⟨R.TWIN_STATUS, 4, 1⟩
abbrev TWIN_STATUS_LINK_UP : Fld := ⟨R.TWIN_STATUS, 5, 1⟩
abbrev TWIN_STATUS_SPLIT : Fld := ⟨R.TWIN_STATUS, 6, 1⟩
abbrev TWIN_STATUS_IN_STEP : Fld := ⟨R.TWIN_STATUS, 7, 1⟩
abbrev TWIN_STATUS_HOLDS_BAR : Fld := ⟨R.TWIN_STATUS, 8, 1⟩
abbrev TWIN_STATUS_SELFTEST : Fld := ⟨R.TWIN_STATUS, 9, 1⟩
abbrev TWIN_STATUS_JOIN : Fld := ⟨R.TWIN_STATUS, 10, 3⟩
abbrev TWIN_STATUS_PEER_STATE : Fld := ⟨R.TWIN_STATUS, 16, 4⟩
abbrev TWIN_CFG_HOLDOFF : Fld := ⟨R.TWIN_CFG, 0, 12⟩
abbrev TWIN_CFG_RETURN_LIMIT : Fld := ⟨R.TWIN_CFG, 12, 4⟩
abbrev TWIN_LINK_LANE0 : Fld := ⟨R.TWIN_LINK, 0, 1⟩
abbrev TWIN_LINK_LANE1 : Fld := ⟨R.TWIN_LINK, 1, 1⟩
abbrev TWIN_LINK_DOWNS : Fld := ⟨R.TWIN_LINK, 16, 16⟩
abbrev TWIN_BAR_PEER_LINE : Fld := ⟨R.TWIN_BAR, 0, 2⟩
abbrev TWIN_BAR_OWN_LINE : Fld := ⟨R.TWIN_BAR, 2, 1⟩
abbrev TWIN_BAR_RETURNS : Fld := ⟨R.TWIN_BAR, 4, 4⟩
abbrev TWIN_BAR_TAKEOVERS : Fld := ⟨R.TWIN_BAR, 16, 16⟩
abbrev TWIN_TIME_OFFSET : Fld := ⟨R.TWIN_TIME, 0, 16⟩
abbrev TWIN_TIME_MASTER : Fld := ⟨R.TWIN_TIME, 16, 1⟩
abbrev TWIN_SWAP_LAST : Fld := ⟨R.TWIN_SWAP, 0, 2⟩
abbrev TWIN_SWAP_COUNT : Fld := ⟨R.TWIN_SWAP, 16, 16⟩
abbrev TWIN_MIRROR_SEND : Fld := ⟨R.TWIN_MIRROR, 0, 10⟩
abbrev TWIN_MIRROR_RECV : Fld := ⟨R.TWIN_MIRROR, 16, 10⟩
abbrev TWIN_COUNTS_MISSED : Fld := ⟨R.TWIN_COUNTS, 0, 16⟩
abbrev TWIN_COUNTS_FRAME_ERR : Fld := ⟨R.TWIN_COUNTS, 16, 16⟩

/-! R420 -/
abbrev NVM_STATUS_FLASH_OK : Fld := ⟨R.NVM_STATUS, 0, 1⟩
abbrev NVM_STATUS_FERAM_OK : Fld := ⟨R.NVM_STATUS, 1, 1⟩
abbrev NVM_STATUS_MARGIN_RUN : Fld := ⟨R.NVM_STATUS, 2, 1⟩
abbrev NVM_STATUS_REFRESHING : Fld := ⟨R.NVM_STATUS, 3, 1⟩
abbrev NVM_STATUS_TORN : Fld := ⟨R.NVM_STATUS, 4, 1⟩
abbrev NVM_STATUS_COUNTER_LOST : Fld := ⟨R.NVM_STATUS, 5, 1⟩
abbrev NVM_STATUS_COUNTER_RESET : Fld := ⟨R.NVM_STATUS, 6, 1⟩
abbrev NVM_OPTIME_LO_MS_LO : Fld := ⟨R.NVM_OPTIME_LO, 0, 32⟩
abbrev NVM_OPTIME_HI_MS_HI : Fld := ⟨R.NVM_OPTIME_HI, 0, 16⟩
abbrev NVM_PWRCYC_COUNT : Fld := ⟨R.NVM_PWRCYC, 0, 16⟩
abbrev NVM_PARAM_FREE : Fld := ⟨R.NVM_PARAM, 0, 11⟩
abbrev NVM_PARAM_KEYS : Fld := ⟨R.NVM_PARAM, 16, 16⟩
abbrev NVM_MARGIN_WEAK : Fld := ⟨R.NVM_MARGIN, 0, 16⟩
abbrev NVM_MARGIN_PASSES : Fld := ⟨R.NVM_MARGIN, 16, 16⟩
abbrev NVM_EVENTS_LOSSES : Fld := ⟨R.NVM_EVENTS, 0, 16⟩
abbrev NVM_EVENTS_TORN : Fld := ⟨R.NVM_EVENTS, 16, 16⟩
abbrev LOG_STATUS_WAB_USED : Fld := ⟨R.LOG_STATUS, 0, 13⟩
abbrev LOG_STATUS_WAB_FULL : Fld := ⟨R.LOG_STATUS, 13, 1⟩
abbrev LOG_STATUS_FLUSHING : Fld := ⟨R.LOG_STATUS, 14, 1⟩
abbrev LOG_SEL_AREA : Fld := ⟨R.LOG_SEL, 0, 6⟩
abbrev LOG_AREA_CFG_KIND : Fld := ⟨R.LOG_AREA_CFG, 0, 2⟩
abbrev LOG_AREA_CFG_FLOOD : Fld := ⟨R.LOG_AREA_CFG, 2, 1⟩
abbrev LOG_AREA_CFG_RATE : Fld := ⟨R.LOG_AREA_CFG, 8, 8⟩
abbrev LOG_AREA_SIZE_KEEP : Fld := ⟨R.LOG_AREA_SIZE, 0, 12⟩
abbrev LOG_AREA_SIZE_CAP : Fld := ⟨R.LOG_AREA_SIZE, 12, 20⟩
abbrev LOG_AREA_FIRST_FIRST : Fld := ⟨R.LOG_AREA_FIRST, 0, 32⟩
abbrev LOG_AREA_LAST_LAST : Fld := ⟨R.LOG_AREA_LAST, 0, 32⟩
abbrev LOG_AREA_COUNTS_DROPPED : Fld := ⟨R.LOG_AREA_COUNTS, 0, 16⟩
abbrev LOG_AREA_COUNTS_SUPPRESSED : Fld := ⟨R.LOG_AREA_COUNTS, 16, 16⟩

/-! R434 -/
abbrev RTC_STATUS_OSC_STOPPED : Fld := ⟨R.RTC_STATUS, 0, 1⟩
abbrev RTC_STATUS_BAD_DATE : Fld := ⟨R.RTC_STATUS, 1, 1⟩
abbrev RTC_STATUS_FROZEN : Fld := ⟨R.RTC_STATUS, 2, 1⟩
abbrev RTC_STATUS_SHADOW_TO : Fld := ⟨R.RTC_STATUS, 3, 1⟩
abbrev RTC_STATUS_ALARM0 : Fld := ⟨R.RTC_STATUS, 4, 1⟩
abbrev RTC_STATUS_ALARM1 : Fld := ⟨R.RTC_STATUS, 5, 1⟩
abbrev RTC_STATUS_WRAPPED : Fld := ⟨R.RTC_STATUS, 6, 1⟩
abbrev RTC_TIME_SEC : Fld := ⟨R.RTC_TIME, 0, 6⟩
abbrev RTC_TIME_MIN : Fld := ⟨R.RTC_TIME, 8, 6⟩
abbrev RTC_TIME_HOUR : Fld := ⟨R.RTC_TIME, 16, 5⟩
abbrev RTC_TIME_WDAY : Fld := ⟨R.RTC_TIME, 24, 3⟩
abbrev RTC_DATE_DAY : Fld := ⟨R.RTC_DATE, 0, 5⟩
abbrev RTC_DATE_MONTH : Fld := ⟨R.RTC_DATE, 8, 4⟩
abbrev RTC_DATE_YEAR : Fld := ⟨R.RTC_DATE, 16, 12⟩
abbrev RTC_SUBSEC_SUB : Fld := ⟨R.RTC_SUBSEC, 0, 8⟩
abbrev RTC_CTRL_COMMIT : Fld := ⟨R.RTC_CTRL, 0, 1⟩
abbrev RTC_CFG_SYNC : Fld := ⟨R.RTC_CFG, 0, 2⟩
abbrev RTC_SYNC_DIFF : Fld := ⟨R.RTC_SYNC, 0, 16⟩
abbrev RTC_SYNC_COUNT : Fld := ⟨R.RTC_SYNC, 16, 16⟩
abbrev RTC_ALARM_MASK_M_SEC (i : Nat) : Fld := ⟨R.RTC_ALARM_MASK i, 0, 1⟩
abbrev RTC_ALARM_MASK_M_MIN (i : Nat) : Fld := ⟨R.RTC_ALARM_MASK i, 1, 1⟩
abbrev RTC_ALARM_MASK_M_HOUR (i : Nat) : Fld := ⟨R.RTC_ALARM_MASK i, 2, 1⟩
abbrev RTC_ALARM_MASK_M_WDAY (i : Nat) : Fld := ⟨R.RTC_ALARM_MASK i, 3, 1⟩
abbrev RTC_ALARM_MASK_M_DAY (i : Nat) : Fld := ⟨R.RTC_ALARM_MASK i, 4, 1⟩
abbrev RTC_ALARM_MASK_M_MONTH (i : Nat) : Fld := ⟨R.RTC_ALARM_MASK i, 5, 1⟩
abbrev RTC_ALARM_MASK_M_YEAR (i : Nat) : Fld := ⟨R.RTC_ALARM_MASK i, 6, 1⟩
abbrev RTC_ALARM_MASK_EN (i : Nat) : Fld := ⟨R.RTC_ALARM_MASK i, 8, 1⟩
abbrev RTC_ALARM_MASK_AUTOCLR (i : Nat) : Fld := ⟨R.RTC_ALARM_MASK i, 9, 1⟩
abbrev RTC_BKP_DATA (i : Nat) : Fld := ⟨R.RTC_BKP i, 0, 32⟩

/-! R462 -/
abbrev KEY_STATUS_STORE_OK : Fld := ⟨R.KEY_STATUS, 0, 1⟩
abbrev KEY_STATUS_TEST_ROOT : Fld := ⟨R.KEY_STATUS, 1, 1⟩
abbrev KEY_STATUS_FACTORY : Fld := ⟨R.KEY_STATUS, 2, 1⟩
abbrev KEY_STATUS_STORE_LOST : Fld := ⟨R.KEY_STATUS, 3, 1⟩
abbrev KEY_STATUS_STAGED : Fld := ⟨R.KEY_STATUS, 16, 6⟩
abbrev KEY_LIFE_STATE : Fld := ⟨R.KEY_LIFE, 0, 2⟩
abbrev KEY_LIFE_DEBUG : Fld := ⟨R.KEY_LIFE, 2, 1⟩
abbrev KEY_HWTYPE_TYPE : Fld := ⟨R.KEY_HWTYPE, 0, 32⟩
abbrev KEY_UNIT_LO_ID : Fld := ⟨R.KEY_UNIT_LO, 0, 32⟩
abbrev KEY_UNIT_HI_ID : Fld := ⟨R.KEY_UNIT_HI, 0, 32⟩
abbrev KEY_SEL_SLOT : Fld := ⟨R.KEY_SEL, 0, 5⟩
abbrev KEY_SLOT_KIND : Fld := ⟨R.KEY_SLOT, 0, 4⟩
abbrev KEY_SLOT_ACTIVE : Fld := ⟨R.KEY_SLOT, 4, 1⟩
abbrev KEY_SLOT_STAGED : Fld := ⟨R.KEY_SLOT, 5, 1⟩
abbrev KEY_SLOT_VERIFIED : Fld := ⟨R.KEY_SLOT, 6, 1⟩
abbrev KEY_SLOT_FIXED : Fld := ⟨R.KEY_SLOT, 7, 1⟩
abbrev KEY_SLOT_LEN : Fld := ⟨R.KEY_SLOT, 8, 8⟩
abbrev KEY_SLOT_GENERATION : Fld := ⟨R.KEY_SLOT, 16, 16⟩
abbrev KEY_REMASK_COUNT : Fld := ⟨R.KEY_REMASK, 0, 32⟩
abbrev KEY_FW_STATUS_BANK : Fld := ⟨R.KEY_FW_STATUS, 0, 1⟩
abbrev KEY_FW_STATUS_OTHER_VALID : Fld := ⟨R.KEY_FW_STATUS, 1, 1⟩
abbrev KEY_FW_STATUS_CONFIRMED : Fld := ⟨R.KEY_FW_STATUS, 2, 1⟩
abbrev KEY_FW_STATUS_ATTEMPTS : Fld := ⟨R.KEY_FW_STATUS, 3, 2⟩
abbrev KEY_FW_STATUS_STAGE : Fld := ⟨R.KEY_FW_STATUS, 5, 3⟩
abbrev KEY_FW_STATUS_PROGRESS : Fld := ⟨R.KEY_FW_STATUS, 8, 7⟩
abbrev KEY_FW_STATUS_RESULT : Fld := ⟨R.KEY_FW_STATUS, 16, 16⟩
abbrev KEY_FW_VER_VERSION : Fld := ⟨R.KEY_FW_VER, 0, 32⟩
abbrev KEY_FW_OTHER_VERSION : Fld := ⟨R.KEY_FW_OTHER, 0, 32⟩

/-! R487 -/
abbrev CLK_STATUS_XTAL_OK : Fld := ⟨R.CLK_STATUS, 0, 1⟩
abbrev CLK_STATUS_TCXO_OK : Fld := ⟨R.CLK_STATUS, 1, 1⟩
abbrev CLK_STATUS_LOCK_F : Fld := ⟨R.CLK_STATUS, 2, 1⟩
abbrev CLK_STATUS_LOCK_M : Fld := ⟨R.CLK_STATUS, 3, 1⟩
abbrev CLK_STATUS_LOCK_A : Fld := ⟨R.CLK_STATUS, 4, 1⟩
abbrev CLK_STATUS_LOCK_N : Fld := ⟨R.CLK_STATUS, 5, 1⟩
abbrev CLK_STATUS_LOCK_P : Fld := ⟨R.CLK_STATUS, 6, 1⟩
abbrev CLK_STATUS_PENDING_F : Fld := ⟨R.CLK_STATUS, 7, 1⟩
abbrev CLK_RC_FREQ : Fld := ⟨R.CLK_RC, 0, 21⟩
abbrev CLK_FAULTS_TCXO_STOPS : Fld := ⟨R.CLK_FAULTS, 0, 8⟩
abbrev CLK_FAULTS_UNLOCKS : Fld := ⟨R.CLK_FAULTS, 8, 8⟩
abbrev CLK_FAULTS_LATE_F : Fld := ⟨R.CLK_FAULTS, 16, 8⟩

/-! R501 -/
abbrev SYS_ID_ID : Fld := ⟨R.SYS_ID, 0, 32⟩
abbrev SYS_REV_FUSE_TYPE : Fld := ⟨R.SYS_REV, 0, 4⟩
abbrev SYS_REV_ROM : Fld := ⟨R.SYS_REV, 8, 8⟩
abbrev SYS_REV_MINOR : Fld := ⟨R.SYS_REV, 16, 8⟩
abbrev SYS_REV_MAJOR : Fld := ⟨R.SYS_REV, 24, 8⟩
abbrev SYS_TEMP_TEMP (i : Nat) : Fld := ⟨R.SYS_TEMP i, 0, 16⟩
abbrev SYS_TEMP_MAX (i : Nat) : Fld := ⟨R.SYS_TEMP i, 16, 16⟩
abbrev SYS_SCRATCH_DATA (i : Nat) : Fld := ⟨R.SYS_SCRATCH i, 0, 32⟩

/-! R503 -/
abbrev PWR_STATUS_VIN_OK : Fld := ⟨R.PWR_STATUS, 0, 1⟩
abbrev PWR_STATUS_VAUX_OK : Fld := ⟨R.PWR_STATUS, 1, 1⟩
abbrev PWR_STATUS_VBAT_FITTED : Fld := ⟨R.PWR_STATUS, 2, 1⟩
abbrev PWR_STATUS_HOLDUP_READY : Fld := ⟨R.PWR_STATUS, 3, 1⟩
abbrev PWR_STATUS_BACKUP_SRC : Fld := ⟨R.PWR_STATUS, 4, 2⟩
abbrev PWR_STATUS_BACKUP_LOW : Fld := ⟨R.PWR_STATUS, 6, 1⟩
abbrev PWR_STATUS_SAVE_SHORT : Fld := ⟨R.PWR_STATUS, 7, 1⟩
abbrev PWR_STATUS_WARNED : Fld := ⟨R.PWR_STATUS, 8, 1⟩
abbrev PWR_VIN_MV : Fld := ⟨R.PWR_VIN, 0, 16⟩
abbrev PWR_VIN_MIN_MV : Fld := ⟨R.PWR_VIN, 16, 16⟩
abbrev PWR_VAUX_MV : Fld := ⟨R.PWR_VAUX, 0, 16⟩
abbrev PWR_VAUX_MIN_MV : Fld := ⟨R.PWR_VAUX, 16, 16⟩
abbrev PWR_VBAT_MV : Fld := ⟨R.PWR_VBAT, 0, 16⟩
abbrev PWR_HOLDUP_MV : Fld := ⟨R.PWR_HOLDUP, 0, 16⟩
abbrev PWR_SCAP_MV : Fld := ⟨R.PWR_SCAP, 0, 16⟩
abbrev PWR_SAVE_DURATION : Fld := ⟨R.PWR_SAVE, 0, 16⟩
abbrev PWR_SAVE_STEPS : Fld := ⟨R.PWR_SAVE, 16, 8⟩
abbrev PWR_SAVE_COUNT : Fld := ⟨R.PWR_SAVE, 24, 8⟩
abbrev PWR_POWER_MW : Fld := ⟨R.PWR_POWER, 0, 16⟩
abbrev PWR_POWER_PEAK_MW : Fld := ⟨R.PWR_POWER, 16, 16⟩
abbrev PWR_RAIL_MV (i : Nat) : Fld := ⟨R.PWR_RAIL i, 0, 16⟩
abbrev PWR_RAIL_OK (i : Nat) : Fld := ⟨R.PWR_RAIL i, 16, 1⟩
abbrev PWR_DOMAIN_STATUS_ON (i : Nat) : Fld := ⟨R.PWR_DOMAIN_STATUS i, 0, 1⟩
abbrev PWR_DOMAIN_STATUS_GOOD (i : Nat) : Fld := ⟨R.PWR_DOMAIN_STATUS i, 1, 1⟩
abbrev PWR_DOMAIN_STATUS_PENDING_ON (i : Nat) : Fld := ⟨R.PWR_DOMAIN_STATUS i, 2, 1⟩
abbrev PWR_DOMAIN_STATUS_PENDING_OFF (i : Nat) : Fld := ⟨R.PWR_DOMAIN_STATUS i, 3, 1⟩
abbrev PWR_DOMAIN_STATUS_SHUTTING (i : Nat) : Fld := ⟨R.PWR_DOMAIN_STATUS i, 4, 1⟩
abbrev PWR_DOMAIN_STATUS_POWERING (i : Nat) : Fld := ⟨R.PWR_DOMAIN_STATUS i, 5, 1⟩
abbrev PWR_DOMAIN_STATUS_FAULT (i : Nat) : Fld := ⟨R.PWR_DOMAIN_STATUS i, 6, 1⟩
abbrev PWR_DOMAIN_ONS_COUNT (i : Nat) : Fld := ⟨R.PWR_DOMAIN_ONS i, 0, 32⟩
abbrev PWR_DOMAIN_FAULTS_COUNT (i : Nat) : Fld := ⟨R.PWR_DOMAIN_FAULTS i, 0, 16⟩
abbrev PWR_DOMAIN_ON_MS_MS (i : Nat) : Fld := ⟨R.PWR_DOMAIN_ON_MS i, 0, 32⟩
abbrev PWR_DOMAIN_CURRENT_MA (i : Nat) : Fld := ⟨R.PWR_DOMAIN_CURRENT i, 0, 16⟩

/-! R434 -/
abbrev RTC_STG_TIME_SEC : Fld := ⟨R.RTC_STG_TIME, 0, 6⟩
abbrev RTC_STG_TIME_MIN : Fld := ⟨R.RTC_STG_TIME, 8, 6⟩
abbrev RTC_STG_TIME_HOUR : Fld := ⟨R.RTC_STG_TIME, 16, 5⟩
abbrev RTC_STG_TIME_WDAY : Fld := ⟨R.RTC_STG_TIME, 24, 3⟩
abbrev RTC_STG_DATE_DAY : Fld := ⟨R.RTC_STG_DATE, 0, 5⟩
abbrev RTC_STG_DATE_MONTH : Fld := ⟨R.RTC_STG_DATE, 8, 4⟩
abbrev RTC_STG_DATE_YEAR : Fld := ⟨R.RTC_STG_DATE, 16, 12⟩
abbrev RTC_ALARM_TIME_SEC (i : Nat) : Fld := ⟨R.RTC_ALARM_TIME i, 0, 6⟩
abbrev RTC_ALARM_TIME_MIN (i : Nat) : Fld := ⟨R.RTC_ALARM_TIME i, 8, 6⟩
abbrev RTC_ALARM_TIME_HOUR (i : Nat) : Fld := ⟨R.RTC_ALARM_TIME i, 16, 5⟩
abbrev RTC_ALARM_TIME_WDAY (i : Nat) : Fld := ⟨R.RTC_ALARM_TIME i, 24, 3⟩
abbrev RTC_ALARM_DATE_DAY (i : Nat) : Fld := ⟨R.RTC_ALARM_DATE i, 0, 5⟩
abbrev RTC_ALARM_DATE_MONTH (i : Nat) : Fld := ⟨R.RTC_ALARM_DATE i, 8, 4⟩
abbrev RTC_ALARM_DATE_YEAR (i : Nat) : Fld := ⟨R.RTC_ALARM_DATE i, 16, 12⟩

end F

/-- An array of registers: base address, two strides and counts (a single stride is given as the first, with 1, 1
as the second), and the words the table gives for it. -/
structure RegRow where
  base : Nat
  s1 : Nat
  c1 : Nat
  s2 : Nat
  c2 : Nat
deriving DecidableEq, Repr

/-- The address is that of a register of the row. -/
def RegRow.has (r : RegRow) (a : Nat) : Bool :=
  decide (r.base ≤ a) && decide ((a - r.base) / r.s1 < r.c1)
    && decide ((a - r.base) % r.s1 / r.s2 < r.c2) && decide ((a - r.base) % r.s1 % r.s2 = 0)

/-- The reset words that are not zero (R499). -/
def resetTable : List (RegRow × Nat) := [
  (⟨0x18000, 0x4, 1, 0x4, 1⟩, 0x00000001),
  (⟨0x14000, 0x4, 1, 0x4, 1⟩, 0x00020001),
  (⟨0x14008, 0x4, 1, 0x4, 1⟩, 0x00051830),
  (⟨0x78004, 0x4, 1, 0x4, 1⟩, 0x000A0008),
  (⟨0x78008, 0x4, 1, 0x4, 1⟩, 0x00003000),
  (⟨0x7800C, 0x4, 1, 0x4, 1⟩, 0x00020000),
  (⟨0x34008, 0x4, 1, 0x4, 1⟩, 0x00002503),
  (⟨0x34020, 0x4, 1, 0x4, 1⟩, 0x00320000),
  (⟨0x40100, 0x10, 48, 0x10, 1⟩, 0x0000001E),
  (⟨0x40600, 0x20, 16, 0x20, 1⟩, 0x00000008),
  (⟨0x4080C, 0x10, 8, 0x10, 1⟩, 0x00000001),
  (⟨0x50000, 0x40, 8, 0x40, 1⟩, 0x00140000),
  (⟨0x48100, 0x10, 8, 0x10, 1⟩, 0x000A0500),
  (⟨0x60000, 0x400, 19, 0x400, 1⟩, 0x00080000),
  (⟨0x70000, 0x200, 2, 0x200, 1⟩, 0x00000741),
  (⟨0x70008, 0x200, 2, 0x200, 1⟩, 0x00504014),
  (⟨0x7000C, 0x200, 2, 0x200, 1⟩, 0x012C0258),
  (⟨0x70010, 0x200, 2, 0x200, 1⟩, 0x00006000),
  (⟨0x70018, 0x200, 2, 0x200, 1⟩, 0x00000018),
  (⟨0x70030, 0x200, 2, 0x200, 1⟩, 0x00000040),
  (⟨0x70400, 0x4, 1, 0x4, 1⟩, 0x00012000),
  (⟨0x90004, 0x4, 1, 0x4, 1⟩, 0x00030258),
  (⟨0x80004, 0x4, 1, 0x4, 1⟩, 0x0000303C),
  (⟨0x06008, 0x4, 1, 0x4, 1⟩, 0x00001400),
  (⟨0x03000, 0x4, 1, 0x4, 1⟩, 0x00000001),
  (⟨0x03004, 0x4, 1, 0x4, 1⟩, 0x06000000),
  (⟨0x03008, 0x4, 1, 0x4, 1⟩, 0x07D00101),
  (⟨0x01004, 0x4, 1, 0x4, 1⟩, 0xFFFF0000),
  (⟨0x01008, 0x4, 1, 0x4, 1⟩, 0xFFFF0000)]

/-- The access codes of a register's bits (R5): masks of the RW, W1C, RC and WO fields; every other bit is RO or
reserved. -/
structure Access where
  rw : Nat
  w1c : Nat
  rc : Nat
  wo : Nat
deriving DecidableEq, Repr

def accessTable1 : List (RegRow × Access) := [
  /- TILE_DIR_ECC -/ (⟨0x18010, 0x4, 1, 0x4, 1⟩, ⟨0x0, 0x0, 0xFFFFFFFF, 0x0⟩),
  /- TILE_DISCARDS -/ (⟨0x18014, 0x4, 1, 0x4, 1⟩, ⟨0x0, 0x0, 0xFFFFFFFF, 0x0⟩),
  /- TILE_BANK -/ (⟨0x18020, 0x4, 8, 0x4, 1⟩, ⟨0x0, 0x100, 0x0, 0x0⟩),
  /- TILE_DIR_SEL -/ (⟨0x18040, 0x4, 1, 0x4, 1⟩, ⟨0x1FFF, 0x0, 0x0, 0x0⟩),
  /- TILE_PMAP_SEL -/ (⟨0x18050, 0x4, 1, 0x4, 1⟩, ⟨0x1FFF, 0x0, 0x0, 0x0⟩),
  /- TILE_RV_STATUS -/ (⟨0x18060, 0x4, 1, 0x4, 1⟩, ⟨0x0, 0x0, 0xFFFF0000, 0x0⟩),
  /- CBW_STATUS -/ (⟨0x19810, 0x20, 16, 0x20, 1⟩, ⟨0x0, 0x2, 0x0, 0x0⟩),
  /- PLAN_STATUS -/ (⟨0x10000, 0x4, 1, 0x4, 1⟩, ⟨0x0, 0x60, 0x0, 0x0⟩),
  /- DRUM_SEL -/ (⟨0x10104, 0x4, 1, 0x4, 1⟩, ⟨0x7FFF, 0x0, 0x0, 0x0⟩),
  /- EXEC_POLICY -/ (⟨0x14004, 0x4, 1, 0x4, 1⟩, ⟨0x3FF3F, 0x0, 0x0, 0x0⟩),
  /- EXEC_AUTORST -/ (⟨0x14008, 0x4, 1, 0x4, 1⟩, ⟨0xFFFFF1, 0x0, 0x0, 0x0⟩),
  /- EXEC_OVR_COUNT -/ (⟨0x14014, 0x4, 1, 0x4, 1⟩, ⟨0x0, 0x0, 0xFFFFFFFF, 0x0⟩),
  /- EXEC_RETAIN -/ (⟨0x14018, 0x4, 1, 0x4, 1⟩, ⟨0x0, 0x0, 0xFFF0, 0x0⟩),
  /- EXEC_RETAIN_CFG -/ (⟨0x1401C, 0x4, 1, 0x4, 1⟩, ⟨0x7, 0x0, 0x0, 0x0⟩),
  /- TIME_CFG -/ (⟨0x78004, 0x4, 1, 0x4, 1⟩, ⟨0xFF000F, 0x0, 0x0, 0x0⟩),
  /- TIME_PTP -/ (⟨0x78008, 0x4, 1, 0x4, 1⟩, ⟨0x3F7F, 0x0, 0x0, 0x0⟩),
  /- TIME_PPS -/ (⟨0x7800C, 0x4, 1, 0x4, 1⟩, ⟨0x7FFFF, 0x0, 0x0, 0x0⟩),
  /- JACK_HIT -/ (⟨0x78410, 0x4, 2, 0x4, 1⟩, ⟨0x0, 0xFFFFFFFF, 0x0, 0x0⟩),
  /- JACK_RESET -/ (⟨0x78418, 0x4, 1, 0x4, 1⟩, ⟨0x0, 0x0, 0x0, 0x7F⟩),
  /- JACK_SEL -/ (⟨0x7841C, 0x4, 1, 0x4, 1⟩, ⟨0x3F, 0x0, 0x0, 0x0⟩)]

def accessTable2 : List (RegRow × Access) := [
  /- LOOP_CFG -/ (⟨0x20000, 0x40, 256, 0x40, 1⟩, ⟨0xFD0000, 0x0, 0x0, 0x0⟩),
  /- LOOP_KP -/ (⟨0x20010, 0x40, 256, 0x40, 1⟩, ⟨0xFFFFFFFF, 0x0, 0x0, 0x0⟩),
  /- LOOP_TI -/ (⟨0x20014, 0x40, 256, 0x40, 1⟩, ⟨0xFFFFFFFF, 0x0, 0x0, 0x0⟩),
  /- LOOP_TD -/ (⟨0x20018, 0x40, 256, 0x40, 1⟩, ⟨0xFFFFFFFF, 0x0, 0x0, 0x0⟩),
  /- LOOP_WEIGHT -/ (⟨0x2001C, 0x40, 256, 0x40, 1⟩, ⟨0xFFFFFF, 0x0, 0x0, 0x0⟩),
  /- LOOP_OUT_LO -/ (⟨0x20020, 0x40, 256, 0x40, 1⟩, ⟨0xFFFFFFFF, 0x0, 0x0, 0x0⟩),
  /- LOOP_OUT_HI -/ (⟨0x20024, 0x40, 256, 0x40, 1⟩, ⟨0xFFFFFFFF, 0x0, 0x0, 0x0⟩),
  /- LOOP_RATE -/ (⟨0x20028, 0x40, 256, 0x40, 1⟩, ⟨0xFFFFFFFF, 0x0, 0x0, 0x0⟩),
  /- LOOP_MAN_OUT -/ (⟨0x2002C, 0x40, 256, 0x40, 1⟩, ⟨0xFFFFFFFF, 0x0, 0x0, 0x0⟩),
  /- LOOP_MODE -/ (⟨0x20030, 0x40, 256, 0x40, 1⟩, ⟨0x7, 0x4000, 0x0, 0x0⟩),
  /- LOOPTEST_CTRL -/ (⟨0x24000, 0x40, 4, 0x40, 1⟩, ⟨0x7FF, 0x0, 0x0, 0x1800⟩),
  /- LOOPTEST_AMP -/ (⟨0x24004, 0x40, 4, 0x40, 1⟩, ⟨0xFFFFFFFF, 0x0, 0x0, 0x0⟩),
  /- LOOPTEST_F0 -/ (⟨0x24008, 0x40, 4, 0x40, 1⟩, ⟨0xFFFFFFFF, 0x0, 0x0, 0x0⟩),
  /- LOOPTEST_F1 -/ (⟨0x2400C, 0x40, 4, 0x40, 1⟩, ⟨0xFFFFFFFF, 0x0, 0x0, 0x0⟩),
  /- LOOPTEST_SHAPE -/ (⟨0x24010, 0x40, 4, 0x40, 1⟩, ⟨0xFFFFFF0F, 0x0, 0x0, 0x0⟩),
  /- LOOPTEST_LENGTH -/ (⟨0x24014, 0x40, 4, 0x40, 1⟩, ⟨0xFFFFFF, 0x0, 0x0, 0x0⟩),
  /- LOOPTEST_ABORT_DEV -/ (⟨0x24018, 0x40, 4, 0x40, 1⟩, ⟨0xFFFFFFFF, 0x0, 0x0, 0x0⟩),
  /- MET_STATUS_I -/ (⟨0x30004, 0x80, 96, 0x80, 1⟩, ⟨0x0, 0x8, 0x0, 0x0⟩),
  /- MET_STATUS_V -/ (⟨0x33004, 0x80, 6, 0x80, 1⟩, ⟨0x0, 0x1, 0x0, 0x0⟩),
  /- MET_STATUS -/ (⟨0x34000, 0x4, 1, 0x4, 1⟩, ⟨0x0, 0xA, 0x0, 0x0⟩)]

def accessTable3 : List (RegRow × Access) := [
  /- MET_INT_CFG -/ (⟨0x34008, 0x4, 1, 0x4, 1⟩, ⟨0xFFFF07, 0x0, 0x0, 0x0⟩),
  /- MET_JOURNAL -/ (⟨0x34014, 0x4, 1, 0x4, 1⟩, ⟨0x0, 0x0, 0xFFFF, 0x0⟩),
  /- MET_CAL_CTRL -/ (⟨0x34020, 0x4, 1, 0x4, 1⟩, ⟨0xFF187F, 0x4000, 0x0, 0x700⟩),
  /- MET_CAL_INDEX -/ (⟨0x34024, 0x4, 1, 0x4, 1⟩, ⟨0x1F, 0x0, 0x0, 0x0⟩),
  /- MET_CAL_DATA -/ (⟨0x34028, 0x4, 1, 0x4, 1⟩, ⟨0xFFFFFFFF, 0x0, 0x0, 0x0⟩),
  /- MET_CAP_CTRL -/ (⟨0x340A0, 0x4, 1, 0x4, 1⟩, ⟨0x27F, 0x400, 0x0, 0x100⟩),
  /- FIO_STATUS -/ (⟨0x40000, 0x4, 1, 0x4, 1⟩, ⟨0x0, 0x2, 0x0, 0x0⟩),
  /- FIO_DO_GRP -/ (⟨0x40004, 0x4, 3, 0x4, 1⟩, ⟨0x0, 0x2, 0x0, 0x0⟩),
  /- FIO_CNT_JOURNAL -/ (⟨0x40010, 0x4, 1, 0x4, 1⟩, ⟨0x0, 0x1000000, 0xFFFF, 0x0⟩),
  /- FIO_CNT_STATUS -/ (⟨0x40404, 0x10, 8, 0x10, 1⟩, ⟨0x0, 0x2, 0x0, 0x0⟩),
  /- FIO_DO_STATUS -/ (⟨0x40504, 0x8, 24, 0x8, 1⟩, ⟨0x0, 0x40, 0x0, 0x0⟩),
  /- LTX_CFG -/ (⟨0x50000, 0x40, 8, 0x40, 1⟩, ⟨0x4, 0x0, 0x0, 0x0⟩),
  /- LTX_MODEM -/ (⟨0x50010, 0x40, 8, 0x40, 1⟩, ⟨0x0, 0x30000, 0x0, 0x0⟩),
  /- FBUS_STATUS -/ (⟨0x60008, 0x400, 19, 0x400, 1⟩, ⟨0x0, 0x8, 0x0, 0x0⟩),
  /- FBUS_FAILS -/ (⟨0x60010, 0x400, 19, 0x400, 1⟩, ⟨0x0, 0x0, 0xFFFFFFFF, 0x0⟩),
  /- FBUS_RETRIES -/ (⟨0x60014, 0x400, 19, 0x400, 1⟩, ⟨0x0, 0x0, 0xFFFFFFFF, 0x0⟩),
  /- FBUS_RXERR -/ (⟨0x60018, 0x400, 19, 0x400, 1⟩, ⟨0x0, 0x0, 0xFFFFFFFF, 0x0⟩),
  /- FBUS_DROPS -/ (⟨0x6001C, 0x400, 19, 0x400, 1⟩, ⟨0x0, 0x0, 0xFFFFFFFF, 0x0⟩),
  /- FBUS_FILT_SEL: CAN ports (R304) -/ (⟨0x60048, 0x400, 2, 0x400, 1⟩, ⟨0x7F, 0x0, 0x0, 0x0⟩),
  /- FBUS_RXO_SEL: CAN ports (R304) -/ (⟨0x60054, 0x400, 2, 0x400, 1⟩, ⟨0xFF, 0x0, 0x0, 0x0⟩)]

def accessTable4 : List (RegRow × Access) := [
  /- FBUS_RXO_STAT -/ (⟨0x6005C, 0x400, 19, 0x400, 1⟩, ⟨0x0, 0x200, 0x0, 0x0⟩),
  /- FBUS_PWR_STATUS -/ (⟨0x60084, 0x400, 19, 0x400, 1⟩, ⟨0x0, 0xC, 0x0, 0x0⟩),
  /- UPL_CFG -/ (⟨0x70000, 0x200, 2, 0x200, 1⟩, ⟨0xFFF, 0x0, 0x0, 0x0⟩),
  /- UPL_SHIFT -/ (⟨0x70008, 0x200, 2, 0x200, 1⟩, ⟨0xFFFFFF, 0x0, 0x0, 0x0⟩),
  /- UPL_SHIFT_TIME -/ (⟨0x7000C, 0x200, 2, 0x200, 1⟩, ⟨0xFFFFFFFF, 0x0, 0x0, 0x0⟩),
  /- UPL_VLAN -/ (⟨0x70010, 0x200, 2, 0x200, 1⟩, ⟨0x77FFF, 0x0, 0x0, 0x0⟩),
  /- UPL_IP4_ADDR -/ (⟨0x70014, 0x200, 2, 0x200, 1⟩, ⟨0xFFFFFFFF, 0x0, 0x0, 0x0⟩),
  /- UPL_IP4_GW -/ (⟨0x7001C, 0x200, 2, 0x200, 1⟩, ⟨0xFFFFFFFF, 0x0, 0x0, 0x0⟩),
  /- UPL_IP4_MASK -/ (⟨0x70018, 0x200, 2, 0x200, 1⟩, ⟨0x3F, 0x0, 0x0, 0x0⟩),
  /- UPL_IP6 -/ (⟨0x70020, 0x200, 2, 0x4, 4⟩, ⟨0xFFFFFFFF, 0x0, 0x0, 0x0⟩),
  /- UPL_IP6_CFG -/ (⟨0x70030, 0x200, 2, 0x200, 1⟩, ⟨0xFF, 0x0, 0x0, 0x0⟩),
  /- UPL_CTRL -/ (⟨0x7003C, 0x200, 2, 0x200, 1⟩, ⟨0x0, 0x0, 0x0, 0x7⟩),
  /- UPL_RX_DROP -/ (⟨0x70048, 0x200, 2, 0x200, 1⟩, ⟨0x0, 0x0, 0xFFFFFFFF, 0x0⟩),
  /- UPL_PAUSE_RX -/ (⟨0x7004C, 0x200, 2, 0x200, 1⟩, ⟨0x0, 0x0, 0xFFFFFFFF, 0x0⟩),
  /- UPL_FRAG_ERR -/ (⟨0x70050, 0x200, 2, 0x200, 1⟩, ⟨0x0, 0x0, 0xFFFFFFFF, 0x0⟩),
  /- FPOOL_SEL -/ (⟨0x70404, 0x4, 1, 0x4, 1⟩, ⟨0xF, 0x0, 0x0, 0x0⟩),
  /- FPOOL_USE -/ (⟨0x7040C, 0x4, 1, 0x4, 1⟩, ⟨0x0, 0x0, 0x3FFF0000, 0x0⟩),
  /- FPOOL_DROP -/ (⟨0x70410, 0x4, 1, 0x4, 1⟩, ⟨0x0, 0x0, 0xFFFFFFFF, 0x0⟩),
  /- SESS_CFG -/ (⟨0x90004, 0x4, 1, 0x4, 1⟩, ⟨0x3FFFF, 0x0, 0x0, 0x0⟩),
  /- SESS_AUTH_FAIL -/ (⟨0x90008, 0x4, 1, 0x4, 1⟩, ⟨0x0, 0x0, 0xFFFFFFFF, 0x0⟩)]

def accessTable5 : List (RegRow × Access) := [
  /- SESS_BAD -/ (⟨0x9000C, 0x4, 1, 0x4, 1⟩, ⟨0x0, 0x0, 0xFFFFFFFF, 0x0⟩),
  /- SESS_REFUSED -/ (⟨0x90010, 0x4, 1, 0x4, 1⟩, ⟨0x0, 0x0, 0xFFFFFFFF, 0x0⟩),
  /- SESS_SEL -/ (⟨0x90020, 0x4, 1, 0x4, 1⟩, ⟨0x3FF, 0x0, 0x0, 0x0⟩),
  /- TWIN_CFG -/ (⟨0x80004, 0x4, 1, 0x4, 1⟩, ⟨0xFFFF, 0x0, 0x0, 0x0⟩),
  /- TWIN_COUNTS -/ (⟨0x8001C, 0x4, 1, 0x4, 1⟩, ⟨0x0, 0x0, 0xFFFFFFFF, 0x0⟩),
  /- NVM_STATUS -/ (⟨0x05000, 0x4, 1, 0x4, 1⟩, ⟨0x0, 0x70, 0x0, 0x0⟩),
  /- LOG_STATUS -/ (⟨0x06000, 0x4, 1, 0x4, 1⟩, ⟨0x0, 0x2000, 0x0, 0x0⟩),
  /- LOG_SEL -/ (⟨0x06004, 0x4, 1, 0x4, 1⟩, ⟨0x3F, 0x0, 0x0, 0x0⟩),
  /- LOG_AREA_CFG -/ (⟨0x06008, 0x4, 1, 0x4, 1⟩, ⟨0xFF04, 0x0, 0x0, 0x0⟩),
  /- LOG_AREA_COUNTS -/ (⟨0x06018, 0x4, 1, 0x4, 1⟩, ⟨0x0, 0x0, 0xFFFFFFFF, 0x0⟩),
  /- RTC_STATUS -/ (⟨0x03000, 0x4, 1, 0x4, 1⟩, ⟨0x0, 0x7B, 0x0, 0x0⟩),
  /- RTC_CTRL -/ (⟨0x03018, 0x4, 1, 0x4, 1⟩, ⟨0x0, 0x0, 0x0, 0x1⟩),
  /- RTC_CFG -/ (⟨0x0301C, 0x4, 1, 0x4, 1⟩, ⟨0x3, 0x0, 0x0, 0x0⟩),
  /- RTC_ALARM_MASK -/ (⟨0x03038, 0x10, 2, 0x10, 1⟩, ⟨0x37F, 0x0, 0x0, 0x0⟩),
  /- RTC_BKP -/ (⟨0x03080, 0x4, 16, 0x4, 1⟩, ⟨0xFFFFFFFF, 0x0, 0x0, 0x0⟩),
  /- KEY_STATUS -/ (⟨0x04000, 0x4, 1, 0x4, 1⟩, ⟨0x0, 0x8, 0x0, 0x0⟩),
  /- KEY_SEL -/ (⟨0x04014, 0x4, 1, 0x4, 1⟩, ⟨0x1F, 0x0, 0x0, 0x0⟩),
  /- CLK_FAULTS -/ (⟨0x02008, 0x4, 1, 0x4, 1⟩, ⟨0x0, 0x0, 0xFFFFFF, 0x0⟩),
  /- SYS_TEMP -/ (⟨0x00010, 0x4, 4, 0x4, 1⟩, ⟨0x0, 0x0, 0xFFFF0000, 0x0⟩),
  /- SYS_SCRATCH -/ (⟨0x00100, 0x4, 64, 0x4, 1⟩, ⟨0xFFFFFFFF, 0x0, 0x0, 0x0⟩)]

def accessTable6 : List (RegRow × Access) := [
  /- PWR_STATUS -/ (⟨0x01000, 0x4, 1, 0x4, 1⟩, ⟨0x0, 0x1C0, 0x0, 0x0⟩),
  /- PWR_VIN -/ (⟨0x01004, 0x4, 1, 0x4, 1⟩, ⟨0x0, 0x0, 0xFFFF0000, 0x0⟩),
  /- PWR_VAUX -/ (⟨0x01008, 0x4, 1, 0x4, 1⟩, ⟨0x0, 0x0, 0xFFFF0000, 0x0⟩),
  /- PWR_POWER -/ (⟨0x0101C, 0x4, 1, 0x4, 1⟩, ⟨0x0, 0x0, 0xFFFF0000, 0x0⟩),
  /- PWR_DOMAIN_STATUS -/ (⟨0x01100, 0x20, 15, 0x20, 1⟩, ⟨0x0, 0x40, 0x0, 0x0⟩),
  /- PWR_DOMAIN_FAULTS -/ (⟨0x01108, 0x20, 15, 0x20, 1⟩, ⟨0x0, 0x0, 0xFFFF, 0x0⟩),
  /- RTC_STG_TIME -/ (⟨0x03010, 0x4, 1, 0x4, 1⟩, ⟨0x71F3F3F, 0x0, 0x0, 0x0⟩),
  /- RTC_STG_DATE -/ (⟨0x03014, 0x4, 1, 0x4, 1⟩, ⟨0xFFF0F1F, 0x0, 0x0, 0x0⟩),
  /- RTC_ALARM_TIME -/ (⟨0x03030, 0x10, 2, 0x10, 1⟩, ⟨0x71F3F3F, 0x0, 0x0, 0x0⟩),
  /- RTC_ALARM_DATE -/ (⟨0x03034, 0x10, 2, 0x10, 1⟩, ⟨0xFFF0F1F, 0x0, 0x0, 0x0⟩)]

/-- Every register with a field that is not RO. -/
def accessTable : List (RegRow × Access) :=
  accessTable1 ++ accessTable2 ++ accessTable3 ++ accessTable4 ++ accessTable5 ++ accessTable6

/-- The access codes at an address; none of them where every bit is RO. -/
def accessAt (a : Nat) : Access :=
  ((accessTable.find? (fun p => p.1.has a)).map (·.2)).getD ⟨0, 0, 0, 0⟩

/-- The word a register holds after the power-on of its domain (R7, R499). Fuse and factory values come from
Config (log entry 3). -/
def resetWord (a : Nat) : Word :=
  if a = R.SYS_ID ∨ a = R.KEY_HWTYPE then 0x5A0F4096#32
  else if a = R.SYS_REV then
    2#8 ++ Config.minorRev ++ Config.romRev ++ 0#4 ++ Config.fuseType
  else if a = R.KEY_UNIT_LO then Config.unitId.extractLsb' 0 32
  else if a = R.KEY_UNIT_HI then Config.unitId.extractLsb' 32 32
  else if a = R.UPL_MAC_LO 0 then (Config.mac 0).extractLsb' 0 32
  else if a = R.UPL_MAC_HI 0 then 0#16 ++ (Config.mac 0).extractLsb' 32 16
  else if a = R.UPL_MAC_LO 1 then (Config.mac 1).extractLsb' 0 32
  else if a = R.UPL_MAC_HI 1 then 0#16 ++ (Config.mac 1).extractLsb' 32 16
  else BitVec.ofNat 32 (((resetTable.find? (fun p => p.1.has a)).map (·.2)).getD 0)

end Sys2Proof.Machine
end

