-- ==== Sys2Proof/Machine/RegFile.lean ====
section
/-! DEFINITION. The register file: the words that differ from their reset words, addresses strictly rising; an
unlisted address reads its reset word (R7, R499; an address no chapter defines reads 0, R6). -/

namespace Sys2Proof.Machine

/-- The word a register holds. -/
def regRead (rs : List (Nat × Word)) (a : Nat) : Word := (mapGet a rs).getD (resetWord a)

/-- A whole word put into a register. -/
def regWrite (rs : List (Nat × Word)) (a : Nat) (w : Word) : List (Nat × Word) :=
  if w = resetWord a then mapDel a rs else mapPut a w rs

/-- A field's value. -/
def fldGet (rs : List (Nat × Word)) (f : Fld) : Nat := bits (regRead rs f.addr).toNat f.lo f.width

/-- A field replaced; every other bit of its register stays. -/
def fldSet (rs : List (Nat × Word)) (f : Fld) (v : Nat) : List (Nat × Word) :=
  regWrite rs f.addr (BitVec.ofNat 32 (putBits (regRead rs f.addr).toNat f.lo f.width v))

/-- The canonical form of a register file. -/
def regsWf (rs : List (Nat × Word)) : Bool :=
  mapSorted none rs && rs.all (fun p => decide (p.2 ≠ resetWord p.1))

/-- Registers at addresses lo to hi (exclusive) return to their reset words (R497). -/
def regsClear (rs : List (Nat × Word)) (lo hi : Nat) : List (Nat × Word) :=
  rs.filter (fun p => decide (p.1 < lo) || decide (hi ≤ p.1))

end Sys2Proof.Machine
end

