-- ==== Sys2Proof/Machine/State.lean ====
section
/-! DEFINITION. The state of the module as plain data: the register words, and, grouped by chapter, every piece
of state the manual gives beside them; the queue of waiting commands; the reasons a step can stop. -/

namespace Sys2Proof.Machine

/-! ### Event recorder (R404 to R418) -/

/-- An event record (R404). Its CRC is a function of the other fields and is computed when it is read. -/
structure Rec where
  seq : Nat
  optime : Nat
  pcc : Nat
  area : Nat
  num : Nat
  source : Nat
  sev : Nat
  rep : Nat
  data : List Byte
deriving DecidableEq, Repr

/-- A window of 60 s in which records of one code are counted (R412). -/
structure RateWin where
  code : Nat
  start : Nat
  count : Nat
  suppressed : Nat
  firstOp : Nat
  sev : Nat
deriving DecidableEq, Repr

/-- One event area (R405 to R413). `keep` is the keep part, `held` the circulating part or the FeRAM slots
(oldest first), `hold` the SEQ of the newest record while REPEAT mode holds it and the time it entered. -/
structure Area where
  next : Nat := 1
  keep : List Rec := []
  held : List Rec := []
  wins : List RateWin := []
  hold : Option (Nat × Nat) := none
  accepted : List Nat := []
  dropped : Nat := 0
  suppressed : Nat := 0
  flood : Bool := false
  rate : Nat := 20
deriving DecidableEq, Repr

/-- An interval record (R215). Its CRC is a function of the other fields. -/
structure IntRec where
  num : Nat
  stop : Nat
  channel : Nat
  scope : Nat
  flags : Nat
  samples : Nat
  eImp : Nat
  eExp : Nat
  eRq : Nat
  demImp : Word
  demExp : Word
  imax : Word
deriving DecidableEq, Repr

/-- The recorder: sixteen areas, the event records in the write-ahead buffer (oldest first), the interval
records in it (each takes two slots, R414), the interval area in flash (R216), the change records waiting for their mirror
copy and those in the mirror (R408), and the highest change record confirmed as read (R278). -/
structure LogSt where
  areas : Vector Area 16 := Vector.replicate 16 {}
  wab : List Rec := []
  wabIntervals : List IntRec := []
  intervals : List IntRec := []
  mirror : List Rec := []
  mirrored : List Rec := []
  acked : Nat := 0
deriving DecidableEq, Repr

/-! ### Time (R148 to R159) -/

/-- Sync sources: uplink A, uplink B, the PPS input (R150). -/
inductive Source | uplA | uplB | pps
deriving DecidableEq, Repr

/-- What the time unit holds of one source (R151 to R154): qualified, the run of good intervals or edges, the
last measured offset in units of 1/32 ns, the announces of the masters heard by their port identity (R152), the last edge in the same units. -/
structure SrcSt where
  qual : Bool := false
  good : Nat := 0
  offset : Int := 0
  masters : List (Nat × Announce) := []
  lastEdge : Option Nat := none
deriving DecidableEq, Repr

/-- The time unit (R148 to R159). `mono` counts TCXO cycles since the TCXO became stable; `ns`, `frac` are
building time and its 32-bit fraction, `res` the remainder of the frequency correction below the fraction
(in units of 2^-32 ns / 10^11); `nowHi` the latch of R171; `selected` the source last selected, `stepPending` an offset in units of 1/32 ns,
`pathDelay` in units of 156.25 ps, `freqs` values that TIME_FREQ had and until when (R149). -/
structure Clk where
  run : Bool := false
  mono : Nat := 0
  ns : Nat := 0
  frac : Nat := 0
  res : Nat := 0
  nowHi : Option Nat := none
  src : Vector SrcSt 3 := Vector.replicate 3 {}
  selected : Option Source := none
  prevState : Nat := 0
  beyond : Nat := 0
  holdEntry : Nat := 0
  stepPending : Option Int := none
  pausedUntil : Option Nat := none
  tsyncOut : Bool := false
  pathDelay : Vector Nat 2 := Vector.replicate 2 0
  everQual : Bool := false
  freqs : List (Nat × Int) := []
deriving DecidableEq, Repr

/-! ### Points, tiles and the plan (R22 to R88) -/

/-- A directory entry (R35, R50) as the module sees it after its check bits: `dbl` marks a double-bit error. -/
structure DirEnt where
  kind : TileKind := .free
  cls : Nat := 0
  peer : Bool := false
  faulted : Bool := false
  writer : Nat := 0
  crc : Nat := 0
  dbl : Bool := false
  single : Bool := false
deriving DecidableEq, Repr

/-- Where a point lives (R50, TILE_PMAP_DATA). -/
structure PMapEnt where
  tile : Nat
  slot : Nat
  ty : Nat
deriving DecidableEq, Repr

/-- The plan store's two slots (R74), the plan that is loaded, the Drum banks (R70), the armed swap (R81), whether the swap's
record is still to be written (R81, R86), consecutive deferrals (R84), whether the candidate's new tiles are written and whether migration has taken
place, the instant of the last swap in ns (R190), whether a plan without a suspect bank was asked for (R41), and, for an armed swap that changes safety
content, the session with the CRCs before and after (R80, R277). `pkgs` are the packages in the slots, `sent` and `image` a package and an offline image
that are being planned and verified (R74 to R77). -/
structure PlanSt where
  active : Option Plan := none
  slots : Vector (Option Plan) 2 := Vector.replicate 2 none
  pkgs : Vector (Option Package) 2 := Vector.replicate 2 none
  sent : Option Package := none
  image : Option Plan := none
  drumA : List (BitVec 64) := []
  drumB : List (BitVec 64) := []
  armed : Option Nat := none
  armRecord : Bool := false
  deferred : Nat := 0
  newDone : Bool := false
  migrated : Bool := false
  swapped : Option Nat := none
  replan : Bool := false
  armSafe : Option (Nat × Nat × Nat) := none
deriving DecidableEq, Repr

/-! ### Lanes and execution (R89 to R147) -/

/-- Phases of a lane (R124), idle after a task was abandoned (R36), or halted by an overrun (R99). -/
inductive Phase | idle | exec | abandoned | done | halted
deriving DecidableEq, Repr

/-- An active REPEAT body (R134): the register it counts in, first word and end, iteration and count. -/
structure Rep where
  d : Fin 16
  first : Nat
  stop : Nat
  iter : Nat
  count : Nat
deriving DecidableEq, Repr

/-- A lane (R123): registers, tags, PC, repeat stack, tile buffer (a byte list by buffer address, an unlisted byte
reads 0; `tiles` names the tile in each entry), FREEZE_TIME, the running task and the tasks still to run in this
burst, the points stored and the outputs staged by the running task. -/
structure Lane where
  l : Vector Long 16 := Vector.replicate 16 0
  q : Vector Tag 16 := Vector.replicate 16 0
  pc : Nat := 0
  rep : List Rep := []
  buf : List Host.Cell := []
  tiles : List Nat := []
  freeze : Nat := 0
  task : Option Nat := none
  todo : List Nat := []
  phase : Phase := .idle
deriving DecidableEq, Repr

/-- One frozen input of the input image (R90): value, quality bits reported with it, and whether it is fresh. -/
structure ImgEnt where
  val : Long := 0
  qual : Tag := 0
  fresh : Bool := false
  held : Bool := false
deriving DecidableEq, Repr

/-- A port buffer's content for one remote point (R93, R94), or a mirror as last received (R90). -/
structure BufEnt where
  val : Long := 0
  range : Bool := false
  have_ : Bool := false
  fresh : Bool := false
  commFail : Bool := false
  qual : Tag := 0
deriving DecidableEq, Repr

/-- The burst in progress (R89, R97). -/
structure BurstSt where
  mask : Nat
  seq : Nat
  t0 : Nat
deriving DecidableEq, Repr

/-- What an output pin shows: off or on (DO, SO), high-impedance (AO), the alarm level (LT), a value in the
channel's units as a REAL32 (AO, LT), a value in V or mA at the terminal (AO: a bit program's default, R110), or the
reset behaviour of a loop transmitter (R105, R254). -/
inductive OutVal | off | on | hiz | alarm | ltReset | value (w : Word) | raw (w : Word)
deriving DecidableEq, Repr

/-- A physical output with its sources (R10). Outputs are numbered DO01 to DO24 = 0 to 23, AO01 to AO08 = 24 to
31, SO1A, SO1B to SO4B = 32 to 39, LT1 to LT8 = 40 to 47. `req` is a mask of the causes of safe-state requests:
bit 0 the operating state (overrun, STOPPED), bit 1 a tile fault or an abandoned task (R36), bit 2 split
operation (R366), bit 3 an output the plan does not drive (R83, R111), bit 4 the fault latch of its pair (R269), bit 5 a module safety
fault (R271).
`held` is what the pin showed when the first request was asserted (HOLD), `abandon` the task whose abandonment
asserted bit 1, `launched` the value last launched (none: reset state), `bit` what the bit program drives,
`jack` the level of the active Jack entries (R166), `test` a SERVICE test value (R109). -/
structure OutSt where
  launched : Option OutVal := none
  staged : Option Word := none
  req : Nat := 0
  held : Option OutVal := none
  abandon : Option Nat := none
  jack : Option Bool := none
  bit : Option OutVal := none
  test : Option OutVal := none
deriving DecidableEq, Repr

/-- Execution state outside the registers (R89 to R120). `autoAt` is the operating time at which a pending
auto-restart begins; `autoTimes` the operating times of past ones; `safeCopy` the field complex's copy of the
safe-state table and whether its CRC held; `hardReq` the hard-default request of R101; `late` a burst that waits for PLL-F's lock (R16); `waitRestart` a soft restart (cause, type) that waits for the
TCXO (R475); `startType` the restart type with which the plan in the active slot is to be loaded (R75, R113);
`waitPeer` side A armed and waiting for side B, since the TCXO count `waitAt` (R480). -/
structure ExecSt where
  burst : Option BurstSt := none
  wdArmed : Bool := false
  wdDeadline : Nat := 0
  autoAt : Option Nat := none
  autoTimes : List Nat := []
  safeCopy : Option (List (Nat × SafeVal)) := none
  hardReq : Bool := false
  clsFreeze : Vector Nat 8 := Vector.replicate 8 0
  image : List (Nat × ImgEnt) := []
  freshPts : List Nat := []
  restartDue : Option Nat := none
  serviceSession : Option Nat := none
  heartbeat : Bool := true
  windowEnd : Nat := 0
  windowAt : Nat := 0
  rstaged : List (Nat × Long) := []
  rlaunched : List (Nat × Long) := []
  late : Bool := false
  waitRestart : Option (Nat × Nat) := none
  startType : Option Nat := none
  waitPeer : Bool := false
  waitAt : Nat := 0
deriving DecidableEq, Repr

/-- The two retain slots (R115, R116): sequence, plan, second, operating time, records (kind, key, data bytes),
and whether the CRC holds. -/
structure RetainSlot where
  seq : Nat := 0
  plan : Nat := 0
  sec : Nat := 0
  optime : Nat := 0
  recs : List (Nat × Nat × List Byte) := []
  ok : Bool := false
  writing : Bool := false
deriving DecidableEq, Repr

/-- The bit machine (R110, R144): the running program's words and masks, accumulator,
stack, frozen inputs, output areas, flags, and the word index. -/
structure BitSt where
  prog : List (BitVec 16) := []
  doMask : Nat := 0
  soMask : Nat := 0
  aoMask : Nat := 0
  ltMask : Nat := 0
  aoDef : List Nat := []
  ltDef : List Nat := []
  pc : Nat := 0
  inCycle : Bool := false
  acc : Bool := false
  stack : List Bool := []
  di : BitVec 48 := 0
  si : BitVec 16 := 0
  doA : BitVec 24 := 0
  soA : BitVec 8 := 0
  flags : BitVec 256 := 0
deriving DecidableEq, Repr

/-- Tile memory (R30), its directory (R35) and point map, and what the tile checker keeps: the operating times of
each bank's last three faults (R41), the force list (R39), the Orpor point writes held for a window (R11, R38), the records that logic still
sees in place of points written since the last freeze of their class (R11), the banks under test (R349). -/
structure MemSt where
  cells : List Host.Cell := []
  dir : List (Nat × DirEnt) := []
  pmap : List (Nat × PMapEnt) := []
  bankTimes : Vector (List Nat) 8 := Vector.replicate 8 []
  forces : List (Nat × Long) := []
  writes : List PtOp := []
  before : List (Nat × List Byte) := []
  testing : List Nat := []
deriving DecidableEq, Repr

/-- Phases of a switchable function (R472). -/
inductive SwPhase | off | powering | on | shutting
deriving DecidableEq, Repr

/-- A switchable function (R472): its phase, the latches PENDING_ON and PENDING_OFF, and the TCXO count at which
its last shutdown completed and that at which the power-up or shutdown in progress began. -/
structure Sw where
  ph : SwPhase := .off
  pendOn : Bool := false
  pendOff : Bool := false
  offAt : Option Nat := none
  since : Nat := 0
deriving DecidableEq, Repr

/-! ### Storage (R386 to R403) -/

/-- A cell of a persistent counter (R401): its VALUE and whether its CRC holds. -/
structure CtrCell where
  value : Nat := 0
  ok : Bool := true
deriving DecidableEq, Repr

/-! ### Field I/O (R232 to R259) -/

/-- A digital input outside its registers: the TCXO counts of its last 255 changes of the filtered state, newest
first (R235). -/
structure DiSt where
  changes : List Nat := []
deriving DecidableEq, Repr

/-- A counting input (R237 to R239): its 64-bit count, the edges in the running window, the mask of classes for
which a window since their last freeze exceeded the limit, the latch of its high word (R258). -/
structure CntSt where
  count : Nat := 0
  window : Nat := 0
  ovr : Nat := 0
  hi : Option Nat := none
deriving DecidableEq, Repr

/-- An analog input (R244): the filter's y as REAL32, and whether a conversion has completed. -/
structure AiSt where
  y : Word := 0
  first : Bool := false
deriving DecidableEq, Repr

/-- A loop-transmitter island (R250 to R256): the current it drives (mA, REAL32), a current carried by a frame and
not yet applied, its own non-volatile configuration, whether it has loop power, holds
after a loss of frames, drives its alarm level; the runs of short and close measurements; the modem buffer. -/
structure LtSt where
  cur : Word := 0
  pend : Option Word := none
  alarmHigh : Bool := false
  holdTenths : Nat := 20
  modemEn : Bool := false
  powered : Bool := false
  holding : Bool := false
  atAlarm : Bool := false
  short : Nat := 0
  close : Nat := 0
  rx : List Byte := []
deriving DecidableEq, Repr

/-- A journal slot of counts or energies in FeRAM (R222, R239, R400); `writing` while its write runs. -/
structure JSlot where
  seq : Nat := 0
  vals : List Nat := []
  ok : Bool := false
  writing : Bool := false
deriving DecidableEq, Repr

/-- The field complex outside its registers; `grpRetry` holds the TCXO counts of each DO group's retries,
`waitLaunch` the outputs whose AO or LT change of R249 waits for a launch, `since` the TCXO counts from which trips and reports count (`tmShort`
and the numbers after it). -/
structure FioSt where
  di : Vector DiSt 48 := Vector.replicate 48 {}
  cnt : Vector CntSt 8 := Vector.replicate 8 {}
  ai : Vector AiSt 16 := Vector.replicate 16 {}
  lt : Vector LtSt 8 := Vector.replicate 8 {}
  grpRetry : Vector (List Nat) 3 := Vector.replicate 3 []
  cntJ : Vector JSlot 2 := Vector.replicate 2 {}
  waitLaunch : List Nat := []
  since : List (Nat × Nat) := []
deriving DecidableEq, Repr

/-! ### Sessions (R327 to R345, R494) -/

/-- Roles (R332), in the order of their codes 1 to 4. -/
inductive Role | operator | tenant | service | safety
deriving DecidableEq, Repr

/-! ### Safety channels (R260 to R283) and the Jack path (R163 to R169) -/

/-- Safety state outside the registers. `filtA`, `filtB` are the channels' filtered states (R260); `latch` the pair
fault latches with CAUSE and CHANNEL held in PD1 (R269); `pulse` the channels whose off-pulse runs, `after` those
whose check after the pulse is due (R268); `rbDev` the readback of a channel where a test found it other than the pin drives;
`mismatch` the building times of the last mismatches (R266); `fails` and `blocked` the unlock block of R280; `differ` the TCXO counts since
which the channels of an input pair disagree (R261);
`fault` a module safety fault outside RUN and STANDBY holds every SO off until the next restart (R271). -/
structure SafeSt where
  filtA : BitVec 8 := 0
  filtB : BitVec 8 := 0
  latch : Vector (Option (Nat × Bool)) 4 := Vector.replicate 4 none
  pulse : List Nat := []
  after : List Nat := []
  rbDev : Vector (Option Bool) 8 := Vector.replicate 8 none
  mismatch : List Nat := []
  fails : Nat := 0
  blocked : Bool := false
  blockUntil : Nat := 0
  differ : List (Nat × Nat) := []
deriving DecidableEq, Repr

/-- The Jack path: the levels of its 24 inputs at the comparators (input codes of R164), whether it is enabled, the
entries active and the latched ones (R165 to R168). -/
structure JackSt where
  inputs : BitVec 24 := 0
  enabled : Bool := false
  active : List Nat := []
  latched : List Nat := []
deriving DecidableEq, Repr
/-! ### The loop engine (R173 to R197) -/

/-- A loop outside its registers (R179 to R189): the mode requested last, the integrator (binary64), u_prev, d_prev,
ed_prev, the error of the last evaluation, the last VALID setpoint, what the actuator showed while overridden, the
tuning used at the last evaluation, and the marks of a first evaluation (cold: R183 applies; warm: ed_prev is that
evaluation's ed), of MAN entered through FAILED, and of an override at the last evaluation. -/
structure LoopSt where
  base : Nat := 1
  i : BitVec 64 := 0
  uPrev : Word := 0
  dPrev : Word := 0
  edPrev : Word := 0
  err : Word := 0
  lastSp : Option Word := none
  shown : Option Word := none
  kp : Word := 0
  td : Word := 0
  weight : Word := 0
  cold : Bool := false
  warm : Bool := false
  failed : Bool := false
  overridden : Bool := false
deriving DecidableEq, Repr

/-- A test generator outside its registers (R191, R192): a START that waits for the loop's next evaluation, the PV at
k = 0, the value MAN_OUT had. -/
structure LoopTestSt where
  start : Bool := false
  pv0 : Word := 0
deriving DecidableEq, Repr

/-! ### Storage (R386 to R403) -/

/-- A parameter record in the store's ring (R390 to R392): its first page (counted over the store's life), key, SEQ, and
payload; a tombstone deletes its key. -/
structure ParamRec where
  page : Nat
  key : Nat
  seq : Nat
  tomb : Bool
  payload : List Byte
deriving DecidableEq, Repr

/-- A flash operation that waits or runs (R387, R389): a parameter record with the session and SEQ of the command whose
reply waits for it (R394), a record copied forward (R393), bytes of a transfer with the command that waits for them, records moved from the write-ahead buffer, change records mirrored, a sector erased (its
number in the device). -/
inductive FlashJob
  | param (key : Nat) (tomb : Bool) (payload : List Byte) (tag : Option (Nat × Nat))
  | copy (key : Nat) (tomb : Bool) (payload : List Byte)
  | data (tag : Nat × Nat)
  | flush (area : Nat) (recs : List Rec)
  | interval (recs : List IntRec)
  | mirror (recs : List Rec)
  | erase (sector : Nat)
deriving DecidableEq, Repr

/-- Storage outside its registers: the counters in cells (R401), the records of the parameter store with its SEQ and the
first page of the oldest sector not erased (R391, R393), the flash operations in order, the first of them where a power
failure cut it (R388), the margin pass, the operating time of its last sector read and the multiple of 604,800 s at which it began (R396), the refresh journal and the next staging sector (R397), the high word of
operating time that a read of its low word latched (R420), the records each ordinary area has written to flash (R389). -/
structure NvmSt where
  counters : Vector (CtrCell × CtrCell) 24 := Vector.replicate 24 ({}, {})
  params : List ParamRec := []
  seq : Nat := 0
  tail : Nat := 0
  jobs : List FlashJob := []
  cut : Option FlashJob := none
  margin : Option Nat := none
  marginRead : Option Nat := none
  marginAt : Nat := 0
  weak : Nat := 0
  refresh : Option Nat := none
  staging : Nat := 0
  optHi : Option Nat := none
  flushed : Vector Nat 16 := Vector.replicate 16 0
deriving DecidableEq, Repr
/-! ### Energy metering (R198 to R231) -/

/-- Sums over the samples of a block (R207): their number, i², v², v·i and vh·i, of converter codes or of the fundamental filter's outputs. Of a
voltage channel's fundamental, i is the first voltage channel of its system. -/
structure MetSums where
  n : Nat := 0
  ii : Int := 0
  vv : Int := 0
  vi : Int := 0
  qi : Int := 0
deriving DecidableEq, Repr

/-- The rising zero crossings of a fundamental voltage in a block (R207): their number, and the first and the last in 2^-32 of a sample. -/
structure MetCross where
  n : Nat := 0
  first : Nat := 0
  last : Nat := 0
deriving DecidableEq, Repr

/-- A metering channel outside its registers: METER settings in force and those that wait for a block boundary (R200),
the calibration set in force (none: fallback) and the one that waits (R219, R220), the range logic's counts (R204), the last
800 samples' products (v·i, vh·i, v², i², R209), the filters' memories, newest first: 32 samples before the phase correction (R218), 801 after it
(R208), 161 outputs of the fundamental filter (R207); the totals of the block in progress and of the one before, its fundamentals and those of the
one before with their zero crossings (R206), the accumulators in units of 2^-32 µWh, µvarh, µVAh (R210), the latches of the registers' high words
(R212), and the interval in progress: registers at its first sample, whether import and export accumulated, samples, flags, largest Irms (R215); an
overload in the block in progress, in the one published, and in the one before that (R205). -/
structure MetCh where
  scale : Word := 0x3F800000
  pendScale : Option MeterDef := none
  set : Option (List Word) := none
  pendSet : Option (List Word) := none
  in4 : Nat := 0
  in16 : Nat := 0
  fine : Nat := 0
  settle : Option Nat := none
  settleOver : Bool := false
  clipped : Bool := false
  win : List (Int × Int × Int × Int) := []
  raw : List Int := []
  hist : List Int := []
  out : List Int := []
  blk : MetSums := {}
  prev : MetSums := {}
  fcur : MetSums := {}
  fund : MetSums := {}
  ccur : MetCross := {}
  cross : MetCross := {}
  creep : Bool := false
  acc : Vector Nat 7 := Vector.replicate 7 0
  hi : List (Nat × Nat) := []
  base : Vector Nat 6 := Vector.replicate 6 0
  dirs : Bool × Bool := (false, false)
  samples : Nat := 0
  flags : Nat := 0
  imax : Word := 0
  demImp : Word := 0
  demExp : Word := 0
  badBlock : Bool := false
  pubBad : Bool := false
  fundBad : Bool := false
deriving DecidableEq, Repr

/-- Metering outside its registers: channels by index (0 to 95 current, 96 to 101 voltage), the interval number in
progress with the UTC offset and length code it was opened with (R214), the energy journal (R222), staging of a
calibration (R220), an accumulation that waits for a block boundary or runs, with blocks done and sums in units of 2^-149
(R221), a capture in progress: records taken, and those that wait for METER_WIN, oldest first (R227, R9), whether results wait for METER_WIN (R225),
what the DSP holds of its meter points: value and CHANGES last written (R31), and the cycle count at which BOOT loaded the DSP, while its sampling has
not started (R202). -/
structure MetSt where
  ch : List (Nat × MetCh) := []
  interval : Nat := 0
  jrn : Vector JSlot 2 := Vector.replicate 2 {}
  staging : Option (List Word) := none
  accumWait : Bool := false
  accum : Option (Nat × List Int) := none
  utc : Int := 0
  len : Nat := 3
  capture : Option Nat := none
  waiting : List (List Byte) := []
  fresh : Bool := false
  own : List (Nat × Long × Nat) := []
  stepped : Bool := false
  loaded : Option Nat := none
  tcompOk : Bool := true
deriving DecidableEq, Repr

/-! ### Field ports (R284 to R305) -/

/-- A receive object (R293): identifier and format it is bound to, whether its last frame was FD, data, NEW, LOST, LOSTCNT. -/
structure RxObj where
  id : Nat
  xtd : Bool
  fdf : Bool := false
  data : List Byte := []
  new : Bool := false
  lost : Bool := false
  lostCnt : Nat := 0
deriving DecidableEq, Repr

/-- A frame in a CAN transmit queue (R291): the entry (request) it belongs to, none for a pass-through frame with its handle;
further attempts made. -/
structure TxFrame where
  frame : CanFrame
  entry : Option Nat
  handle : Nat := 0
  tries : Nat := 0
deriving DecidableEq, Repr

/-- An exchange in progress (R285): its request, further attempts made, the data sent (one value in every attempt, R94), the
whether it still waits for the token (R298), the transaction identifier
(R302). -/
structure Exch where
  req : Nat
  attempt : Nat := 0
  sent : List Byte := []
  waiting : Bool := false
  tid : Nat := 0
deriving DecidableEq, Repr

/-- A pass-through exchange (R288, R348): its handle, session, port code, station and data; the result while it is held
(none: not ended; inner none: it failed or was abandoned) and the operating time of its end. -/
structure PassX where
  handle : Nat
  session : Nat
  port : Nat
  station : Nat
  data : List Byte
  result : Option (Option (List Byte)) := none
  doneAt : Nat := 0
deriving DecidableEq, Repr

/-- A field port outside its registers: the exchange in progress, the CAN queue, filters and receive objects, the stations
whose last exchange failed, M-Bus stations initialised and their FCB (R301), open TCP connections (R302), the pass-through
window, its running exchange and what a CAN port received in it, the class power of a powered device in 0.1 W (R303), its power switched
off, and by shedding, the frame last sent in answer (R302). -/
structure PortSt where
  exch : Option Exch := none
  queue : List TxFrame := []
  objs : List (Nat × RxObj) := []
  failed : List Nat := []
  inited : List Nat := []
  fcb : List Nat := []
  tcp : List Nat := []
  tid : Nat := 0
  passOpen : Bool := false
  passRun : Option Nat := none
  passRx : List (List Byte) := []
  pdClass : Nat := 0
  shed : Bool := false
  off : Bool := false
  answer : Option (List Byte) := none
deriving DecidableEq, Repr

/-- All ports, the port buffers by point (R90, R287), the pass-through exchanges oldest first, the next handle, and
the TCXO counts at which the M-Bus (key 8) or a T1L port's power (its port number) was switched off (R301, R303). -/
structure PortsSt where
  port : Vector PortSt 19 := Vector.replicate 19 {}
  buf : List (Nat × BufEnt) := []
  pass : List PassX := []
  handle : Nat := 1
  offAt : List (Nat × Nat) := []
deriving DecidableEq, Repr

/-! ### Two-hand and Shadow modes (R354 to R385) -/

/-- A lane of the String link (R355): the TCXO count of its last valid frame, the grid instant of its last TIME frame, and how many consecutive ones
it has carried. -/
structure LaneSt where
  lastAt : Option Nat := none
  grid : Nat := 0
  run : Nat := 0
deriving DecidableEq, Repr

/-- The pair outside its registers (R355 to R383): SEQ sent and last taken, whether the pair has formed, whether this side follows the
other's time, the building time from which the peer has been in RUN with the same plan (R366), mirrored tiles as received with their instant
(R363), the peer's tiles that wait for their slot (R9, R39, R379), the swap second the peer confirmed (R84), the second of a planned handover (R383), the instant of a claim by the peer, a
release that waits for its boundary (R375), the building time at which the joiner began its bursts (R379), the operating times at which the
hold-off began and at which the bar was last returned (R380); what of the holder's tiles, and of its loops (8,192 and the loop), this join has copied
(R379); the two lanes (R355); the standby has told the holder that it is in step and has passed its self-test
(R383). -/
structure TwinSt where
  lanes : Vector LaneSt 2 := Vector.replicate 2 {}
  copied : List (Nat × Unit) := []
  seqTx : Nat := 0
  seqRx : Option Nat := none
  paired : Bool := false
  follower : Bool := false
  peerSince : Option Nat := none
  mir : List (Nat × Nat × List Byte) := []
  stream : List (Nat × List Byte) := []
  confirmed : Option Nat := none
  swapAt : Option Nat := none
  claimAt : Option Nat := none
  takePending : Bool := false
  joinSince : Option Nat := none
  holdFrom : Option Nat := none
  returned : Option Nat := none
  peerReady : Bool := false
deriving DecidableEq, Repr

/-! ### The Orpor command protocol (R327 to R353) -/

/-- A command that a session has in flight (R339): SEQ, TAG, opcode, URGENT, parameters; status and reply data where it has been
executed and its reply waits for flash work (R394). -/
structure Cmd where
  seq : Nat
  tag : Nat
  op : Nat
  urgent : Bool
  params : List Byte
  done : Option (Nat × List Byte) := none
deriving DecidableEq, Repr

/-- A reply (R330, R331): the transport it leaves by (0 uplink A, 1 uplink B, 2 local host port), whether through the peer (R367), the
header's fields, the data, and what its tag is formed with: key and nonce (none: the zero tag), and whether the data are encrypted. -/
structure Reply where
  dest : Nat
  viaB : Bool := false
  session : Nat
  flags : Nat
  op : Nat
  tag : Nat
  seq : Nat
  rseq : Nat
  status : Nat
  data : List Byte
  auth : Option (List Byte × List Byte) := none
  sealed : Bool := false
deriving DecidableEq, Repr

/-- An entry of a session's reply cache (R341). -/
structure CacheEnt where
  seq : Nat
  op : Nat
  status : Nat
  data : List Byte
deriving DecidableEq, Repr

/-- A session (R331 to R345, R494): role, scope, transport, keys, the highest SEQ accepted and the accepted ones of its window, the
commands in flight in order of acceptance, its reply cache (oldest first), its reply counter, the operating time of the last
accepted command, its credential and opening nonce with the time of opening, whether it closes with its last reply, its unlock window with the operating
time of its last safety command (R280), and its copies of the select registers. -/
structure Sess where
  role : Role
  scope : Nat := 0
  unlocked : Bool := false
  transport : Nat := 0
  viaB : Bool := false
  kc : List Byte := []
  kr : List Byte := []
  top : Nat := 0
  seen : List Nat := []
  flight : List Cmd := []
  cache : List CacheEnt := []
  rseq : Nat := 0
  lastAt : Nat := 0
  safeAt : Nat := 0
  closing : Bool := false
  sel : List (Nat × Word) := []
deriving DecidableEq, Repr

/-- An OPEN that was answered (R335): credential, HOST_NONCE, operating time, reply. -/
structure Opened where
  cred : List Byte
  nonce : List Byte
  at_ : Nat
  reply : Reply
deriving DecidableEq, Repr

/-- A transfer in blocks (R347): LENGTH, digest, IMG_LEN, the bytes received by offset. -/
structure Xfer where
  len : Nat
  imgLen : Nat := 0
  digest : List Byte := []
  got : List (Nat × Byte) := []
deriving DecidableEq, Repr

/-- The Orpor side: open sessions (1,024 to 1,026: what RECOVERY answers without a session, by transport, R457), the accepted
commands of all sessions in order, the opens of R335, the marks of the last transfer on the local host port and the bytes it shifted out (R328), a WRITE to PROBE or OPEN that
waits (transport, through the peer, packet), and the transfers of R347. -/
structure OrporSt where
  sessions : List (Nat × Sess) := []
  order : List (Nat × Nat) := []
  opens : List Opened := []
  spiBusy : Bool := false
  spiErr : Bool := false
  spiOut : List Byte := []
  greet : List (Nat × Bool × List Byte) := []
  pkg : Option Xfer := none
  upd : Option Xfer := none
  bitp : Option Xfer := none
deriving DecidableEq, Repr

/-! ### Uplinks and the frame pool (R306 to R326) -/

/-- A frame in the pool: its channel, its cells, for an Orpor frame its packet (received) or its reply (to be sent), whether it is PTP, for a packet
that side B forwards the transport it came by (R367), a reply of side A that side B returns in its bytes (`raw`), the TCXO count at which it was
stored. -/
structure PoolFrame where
  ch : Nat
  cells : Nat
  packet : Option (List Byte) := none
  reply : Option Reply := none
  raw : Option (List Byte) := none
  ptp : Bool := false
  via : Nat := 0
  at_ : Nat := 0
deriving DecidableEq, Repr

/-- The frame pool (R319 to R323): frames held, oldest first; peaks and lost frames by channel. -/
structure PoolSt where
  frames : List PoolFrame := []
  peak : Vector Nat 12 := Vector.replicate 12 0
  drop : Vector Nat 12 := Vector.replicate 12 0
deriving DecidableEq, Repr

/-- An uplink outside its registers: the settings in force (the registers of R318 in address order), those before a pending set; the operating
time of link-up; a shift's target while it renegotiates (R314); the loads measured since link-up in bit/s, newest last (R312); whether a due shift
waits for HOLDOFF; from and to which TCXO count a PAUSE frame stops transmission, and a PFC frame each priority (R315); the speed codes that the
inserted transceiver declares (none: no transceiver); the received bits of the last second measured; the TCXO counts since which the transmit
channels hold more than UP_THR cells (R313), and at which the last frame left, the last shift began (R314) and the pending set was applied
(R318). -/
structure UplSt where
  live : List Word := []
  prev : Option (List Word) := none
  upAt : Nat := 0
  shift : Option Nat := none
  loads : List Nat := []
  waiting : Bool := false
  stop : Nat × Nat := (0, 0)
  pfc : Vector (Nat × Nat) 8 := Vector.replicate 8 (0, 0)
  sfp : Option (BitVec 5) := none
  rx : Nat := 0
  fullAt : Option Nat := none
  sentAt : Nat := 0
  shiftAt : Nat := 0
  appliedAt : Nat := 0
deriving DecidableEq, Repr

/-! ### The real-time clock (R421 to R432) -/

/-- A calendar date and time (R421). -/
structure Cal where
  year : Nat := 2000
  month : Nat := 1
  day : Nat := 1
  hour : Nat := 0
  min : Nat := 0
  sec : Nat := 0
deriving DecidableEq, Repr

/-- A shadow of the group (R423): its calendar, WDAY and SUB, the registers read (mask), and the TCXO count at which it began. -/
structure Shadow where
  cal : Cal
  wday : Nat
  sub : Nat
  read : Nat := 0
  at_ : Nat := 0
deriving DecidableEq, Repr

/-- The RTC outside its registers: the live fields (`sub` as the prescaler was read last), whether the crystal runs, the shadows, whether the last freeze
ended by timeout (R423), a commit that waits for a stopped crystal's next edge (R424). -/
structure RtcSt where
  cal : Cal := {}
  wday : Nat := 6
  sub : Nat := 0
  run : Bool := true
  shadow : Option Shadow := none
  timedOut : Bool := false
  waits : Option Cal := none
deriving DecidableEq, Repr

/-! ### Keys and firmware (R435 to R462) -/

/-- A staged key (R442, R443): its shares, whether verified, the operating time. -/
structure Staged where
  a : List Byte
  b : List Byte
  verified : Bool := false
  at_ : Nat := 0
deriving DecidableEq, Repr

/-- A key slot (R438 to R441): the two shares whose XOR is the key (none: empty), GENERATION, the staging half. -/
structure KeySlot where
  key : Option (List Byte × List Byte) := none
  gen : Nat := 0
  staged : Option Staged := none
deriving DecidableEq, Repr

/-- A firmware bank (R448, R450, R454): the header of its first 320 bytes where it is written, the image, the ACT_SEQ of a good
ACTIVATE page, attempt pages used, CONFIRM. -/
structure Bank where
  valid : Bool := false
  header : List Byte := []
  image : List Byte := []
  act : Option Nat := none
  attempts : Nat := 0
  confirmed : Bool := false
deriving DecidableEq, Repr

/-- Keys and firmware outside the registers: the fused lifecycle (R436), the slots, the commits whose record is being written (slot,
session, staged key: R444), the banks, an attempt consumed since the last EV_FW_ATTEMPT_FAILED (R455), the operating time at which the running firmware
started, whether it has run a bit-program cycle or loaded a plan, an activation that waits and the TCXO count of its start (R343, R453), the bank an update writes in RECOVERY (R458), a verified package that the peer has. -/
structure KeySt where
  life : Nat := 2
  slots : Vector KeySlot 8 := Vector.replicate 8 {}
  commits : List (Nat × Nat × Staged) := []
  banks : Vector Bank 2 := Vector.replicate 2 {}
  tried : Bool := false
  bootAt : Nat := 0
  proven : Bool := false
  activating : Bool := false
  actAt : Nat := 0
  target : Fin 2 := 0
  peerVerified : Bool := false
deriving DecidableEq, Repr

/-! ### Power, clocks and reset (R463 to R485) -/

/-- Power outside its registers: the domains wanted on (mask, R469), the domains that came up since the firmware last started, the causes of a
restart that is to begin (mask, R477) and those merged into the last one, RESET_N low, the levels of the pins sampled when BOOT
begins and as sampled last, the operating time at which the outage began and its length (ms), a save in progress, the TCXO count of its warning, one
without EV_SAVE_DONE and its steps (R483, R484), a VIN that returned during it, the TCXO stopped and not yet back for 1 s (R475), the
domains BOOT waits for (R471), the PLLs that lost lock (mask), the peer's bar line as decoded in PD1 (0 ABSENT, 1 FREE, 2 HELD: R521). -/
structure PwrSt where
  want : Nat := 0
  fresh : Nat := 0
  causes : Nat := 0
  merged : Nat := 0
  resetLow : Bool := false
  pins : Pins := {}
  sampled : Pins := {}
  outageFrom : Option Nat := none
  outage : Nat := 0
  saving : Bool := false
  warnAt : Nat := 0
  saveOpen : Bool := false
  saveSteps : Nat := 0
  vinBack : Bool := false
  tcxoBad : Bool := false
  bootWait : List Nat := []
  unlocked : Nat := 0
  bar : Nat := 0
deriving DecidableEq, Repr


/-- The module. `fx` is the order code of R1: true for ZF-4096-FX, false for ZF-4096-CX (log entry 3); `fired` is the place in the Drum's order of
the entry that fired last (R67). -/
structure Mod where
  fx : Bool := true
  regs : List (Nat × Word) := []
  freeCtr : Nat := 0
  clk : Clk := {}
  fired : Nat × Nat := (0, 0)
  mem : MemSt := {}
  plan : PlanSt := {}
  lanes : Vector Lane 8 := Vector.replicate 8 {}
  exec : ExecSt := {}
  outs : Vector OutSt 48 := Vector.replicate 48 {}
  bit : BitSt := {}
  retain : Vector RetainSlot 2 := Vector.replicate 2 {}
  logs : LogSt := {}
  sw : Vector Sw 31 := Vector.replicate 31 {}
  nvm : NvmSt := {}
  jack : JackSt := {}
  fio : FioSt := {}
  safe : SafeSt := {}
  loops : List (Nat × LoopSt) := []
  tests : Vector LoopTestSt 4 := Vector.replicate 4 {}
  met : MetSt := {}
  ports : PortsSt := {}
  twin : TwinSt := {}
  orpor : OrporSt := {}
  upl : Vector UplSt 2 := Vector.replicate 2 {}
  pool : PoolSt := {}
  rtc : RtcSt := {}
  key : KeySt := {}
  pwr : PwrSt := {}
deriving DecidableEq, Repr

/-- The state of the block: the module and the commands that wait, first in, first out. -/
structure State where
  m : Mod
  pending : List Instr
deriving DecidableEq, Repr

/-- Reasons for a fault. -/
inductive Fault
  /-- Raised by no meaning: the module's own faults (overruns, tile faults, pair faults) are effects on its state. Safe. -/
  | never
deriving DecidableEq, Repr

/-- Reasons for a refusal. -/
inductive Refusal
  /-- A row of the table without a meaning yet: raised by its arm of `exec`. Safe. -/
  | notModelled (mnemonic : String)
deriving DecidableEq, Repr

/-! ### Reset -/

/-- Firmware bank A as the factory leaves it: its image is the running one, confirmed, ACT_SEQ 1 (R450, log entry 20). -/
def factoryBank : Bank := { valid := true, image := Config.factoryImage, act := some 1, confirmed := true }

/-- The module before supply: every register at its reset word, every domain and function off but PD0, which is on while
its supply is (R464), memories and counters blank, firmware in bank A (log entries 20 and 21). -/
def Mod.reset : Mod :=
  { sw := (Vector.replicate 31 {}).set 0 { ph := .on }
    key := { banks := (Vector.replicate 2 {}).set 0 factoryBank } }

/-- The block right after reset: no command waits. -/
def State.reset : State := { m := Mod.reset, pending := [] }

end Sys2Proof.Machine
end

