-- ==== Sys2Proof/Machine/Ops.lean ====
section
/-! DEFINITION. The named operations over the module's state that the commands share: register fields, free values,
the event recorder, outputs and their sources, tile loads and write-backs, operating-state transitions,
switchable functions. -/

namespace Sys2Proof.Machine

/-- The outcome of a command. -/
abbrev Out := Host.Outcome State Fault Refusal

/-- A command whose effect is a change of the module: the queue stays. -/
def onMod (s : State) (f : Mod → Mod) : Out := .next { s with m := f s.m }

/-- A change made only where a condition holds. -/
def Mod.when (m : Mod) (c : Bool) (f : Mod → Mod) : Mod := if c then f m else m

/-! ### Register fields -/

/-- The value of a field. -/
def Mod.get (m : Mod) (f : Fld) : Nat := fldGet m.regs f
/-- A one-bit field as a Boolean. -/
def Mod.flag (m : Mod) (f : Fld) : Bool := m.get f != 0
/-- A field replaced. -/
def Mod.set (m : Mod) (f : Fld) (v : Nat) : Mod := { m with regs := fldSet m.regs f v }
/-- A one-bit field replaced. -/
def Mod.setB (m : Mod) (f : Fld) (b : Bool) : Mod := m.set f (b2n b)
/-- A saturating counter field raised by `k` (R496). -/
def Mod.addSat (m : Mod) (f : Fld) (k : Nat) : Mod := m.set f (satNat f.width (m.get f + k))
/-- A wrapping counter field raised by `k`. -/
def Mod.addWrap (m : Mod) (f : Fld) (k : Nat) : Mod := m.set f (m.get f + k)
/-- A whole register. -/
def Mod.word (m : Mod) (a : Nat) : Word := regRead m.regs a
def Mod.setWord (m : Mod) (a : Nat) (w : Word) : Mod := { m with regs := regWrite m.regs a w }

/-- A fresh free value: an opaque constant applied to the state's counter, which advances (log entry 2). -/
def Mod.free (m : Mod) : BitVec 64 := Config.freeWord m.freeCtr
def Mod.drawn (m : Mod) : Mod := { m with freeCtr := m.freeCtr + 1 }

/-! ### Persistent counters (R401 to R403) -/

/-- A counter's value: the larger VALUE of the cells that pass their checks (R401); 0 where none does (R402). -/
def ctrValue (c : CtrCell × CtrCell) : Nat :=
  max (if c.1.ok then c.1.value else 0) (if c.2.ok then c.2.value else 0)

/-- An increment to v + k, written into the cell whose VALUE is smaller, or into A where both are equal (R401). -/
def ctrAdd (c : CtrCell × CtrCell) (k : Nat) : CtrCell × CtrCell :=
  if c.2.value < c.1.value then (c.1, ⟨ctrValue c + k, true⟩) else (⟨ctrValue c + k, true⟩, c.2)

/-- An increment that a power failure interrupted between two words (R399, R401): the cell written fails its check. -/
def ctrTorn (c : CtrCell × CtrCell) : CtrCell × CtrCell :=
  if c.2.value < c.1.value then (c.1, { c.2 with ok := false }) else ({ c.1 with ok := false }, c.2)

def Mod.ctr (m : Mod) (i : Fin 24) : Nat := ctrValue m.nvm.counters[i]
def Mod.ctrAdd (m : Mod) (i : Fin 24) (k : Nat) : Mod :=
  { m with nvm := { m.nvm with counters := m.nvm.counters.set i (Machine.ctrAdd m.nvm.counters[i] k) } }

/-- Operating time in ms (counter 0, R403). -/
def Mod.optime (m : Mod) : Nat := m.ctr 0
/-- Power-cycle count, shown as 16 bits (counter 1, R403). -/
def Mod.pcc (m : Mod) : Nat := m.ctr 1 % 65536

/-! ### Event recorder (R404 to R416) -/

/-- Severities (R404). -/
def sevInfo : Nat := 1
def sevNotice : Nat := 2
def sevWarning : Nat := 3
def sevError : Nat := 4
def sevCritical : Nat := 5

/-- The area of an event and its number with its severity (R405, R459, R485). -/
inductive Ev
  | pllLockLate | mgmtSupervisor | orporInternal | nvmWeak | nvmRefresh | paramTorn
  | nvmCounterLost | safeFault | soFault | siDiscrepancy | siTest | safeMismatch
  | safeLogNear | safeTableCrc | safePwFail | regionViolation | keyCommit | keyStage
  | keystoreLost | testRoot | updVerified | updRejected | updActivated | fwConfirmed
  | fwAttemptFailed | fwFallback | recovery | recoveryImage | powerWarn | saveDone
  | saveShort | restart | domainFault | tcxoFail | pllUnlock | backupLow
  | planRejected | planRebuilt | planSwapped | swapDeferred | swapCancelled | planCorrupt
  | replanNoFit | overrun | bitAbsent | forcesCleared | retainLost | autorestartLimit
  | syncState | timeStep | tileFault | bankSuspect | bankTest | diStuck
  | diChatter | cntLost | doShort | doGroup | vauxLow | ltCompliance
  | ltOpen | canBusoff | mbusShort | t1lPower | metTotalsLost | metCal
  | loopParam | loopPvFail | uplNoSpeed | uplShift | uplShiftFail | uplReverted
  | twinSideClash | twinMismatch | twinLane | twinSplit | twinStepLost | twinTakeover
  | twinReturn | twinReturnLimit | jack
  | change (kind : Nat)
deriving DecidableEq, Repr

/-- Area, number and severity of an event (the tables of R405, R457 to R459 and R485). -/
def Ev.code : Ev → Nat × Nat × Nat
  | .pllLockLate => (0, 0x01, 4)
  | .mgmtSupervisor => (0, 0x02, 4)
  | .orporInternal => (0, 0x03, 4)
  | .nvmWeak => (0, 0x04, 3)
  | .nvmRefresh => (0, 0x05, 2)
  | .paramTorn => (0, 0x06, 3)
  | .nvmCounterLost => (0, 0x07, 3)
  | .safeFault => (1, 0x01, 5)
  | .soFault => (1, 0x02, 4)
  | .siDiscrepancy => (1, 0x03, 3)
  | .siTest => (1, 0x04, 4)
  | .safeMismatch => (1, 0x05, 3)
  | .safeLogNear => (1, 0x06, 3)
  | .safeTableCrc => (1, 0x07, 4)
  | .safePwFail => (2, 0x01, 3)
  | .regionViolation => (2, 0x02, 5)
  | .keyCommit => (2, 0x40, 2)
  | .keyStage => (2, 0x41, 1)
  | .keystoreLost => (2, 0x42, 4)
  | .testRoot => (2, 0x43, 3)
  | .updVerified => (2, 0x44, 2)
  | .updRejected => (2, 0x45, 3)
  | .updActivated => (2, 0x46, 2)
  | .fwConfirmed => (2, 0x47, 2)
  | .fwAttemptFailed => (2, 0x48, 3)
  | .fwFallback => (2, 0x49, 4)
  | .recovery => (2, 0x4A, 5)
  | .recoveryImage => (2, 0x4B, 2)
  | .powerWarn => (3, 0x01, 5)
  | .saveDone => (3, 0x02, 2)
  | .saveShort => (3, 0x03, 4)
  | .restart => (3, 0x04, 2)
  | .domainFault => (3, 0x05, 4)
  | .tcxoFail => (3, 0x06, 5)
  | .pllUnlock => (3, 0x07, 4)
  | .backupLow => (3, 0x08, 3)
  | .planRejected => (5, 0x01, 3)
  | .planRebuilt => (5, 0x02, 2)
  | .planSwapped => (5, 0x03, 2)
  | .swapDeferred => (5, 0x04, 3)
  | .swapCancelled => (5, 0x05, 4)
  | .planCorrupt => (5, 0x06, 5)
  | .replanNoFit => (5, 0x07, 4)
  | .overrun => (6, 0x01, 5)
  | .bitAbsent => (6, 0x02, 3)
  | .forcesCleared => (6, 0x03, 2)
  | .retainLost => (6, 0x04, 4)
  | .autorestartLimit => (6, 0x05, 4)
  | .syncState => (7, 0x01, 2)
  | .timeStep => (7, 0x02, 3)
  | .tileFault => (8, 0x01, 4)
  | .bankSuspect => (8, 0x02, 4)
  | .bankTest => (8, 0x03, 2)
  | .diStuck => (9, 0x01, 3)
  | .diChatter => (9, 0x02, 3)
  | .cntLost => (9, 0x03, 4)
  | .doShort => (9, 0x04, 3)
  | .doGroup => (9, 0x05, 4)
  | .vauxLow => (9, 0x06, 4)
  | .ltCompliance => (9, 0x07, 3)
  | .ltOpen => (9, 0x08, 3)
  | .canBusoff => (10, 0x01, 3)
  | .mbusShort => (10, 0x02, 4)
  | .t1lPower => (10, 0x03, 3)
  | .metTotalsLost => (11, 0x01, 5)
  | .metCal => (11, 0x02, 2)
  | .loopParam => (12, 0x01, 3)
  | .loopPvFail => (12, 0x02, 4)
  | .uplNoSpeed => (13, 0x01, 3)
  | .uplShift => (13, 0x02, 1)
  | .uplShiftFail => (13, 0x03, 3)
  | .uplReverted => (13, 0x04, 3)
  | .twinSideClash => (14, 0x01, 4)
  | .twinMismatch => (14, 0x02, 4)
  | .twinLane => (14, 0x03, 3)
  | .twinSplit => (14, 0x04, 4)
  | .twinStepLost => (14, 0x05, 3)
  | .twinTakeover => (14, 0x06, 5)
  | .twinReturn => (14, 0x07, 2)
  | .twinReturnLimit => (14, 0x08, 4)
  | .jack => (15, 0x01, 1)
  | .change k => (4, k, 2)

/-- Kind of an area (R405): 0 ordinary, 1 privileged, 2 acknowledged. -/
def areaKind (a : Nat) : Nat := if a = 1 ∨ a = 2 ∨ a = 3 then 1 else if a = 4 then 2 else 0

/-- Record slots of the privileged areas and of the CHANGE area (R405). -/
def areaSlots (a : Nat) : Nat := if a = 3 then 512 else if a = 4 then 2048 else 1024

/-- Circulating sectors of an ordinary area (R410). -/
def areaSectors (a : Nat) : Nat :=
  match a with
  | 0 => 128 | 5 => 64 | 6 => 256 | 7 => 128 | 8 => 256 | 9 => 960 | 10 => 448 | 11 => 128 | 12 => 256
  | 13 => 128 | 14 => 128 | 15 => 128 | _ => 0

/-- The number of newest records an area always holds (R405, LOG_AREA_SIZE.CAP). -/
def areaCap (a : Nat) : Nat := if areaKind a = 0 then (areaSectors a - 1) * 128 else areaSlots a

/-- The oldest record of severity at most v taken out (R407); none where there is no such record. -/
def dropOldest (v : Nat) : List Rec → Option (List Rec)
  | [] => none
  | r :: t => if r.sev ≤ v then some t else (dropOldest v t).map (r :: ·)

/-- The rate window of a code that runs at operating time `t` (R412): windows of 60 s follow one another from a first record until one is quiet. -/
def winAt (wins : List RateWin) (code t : Nat) : Option RateWin :=
  (wins.find? (fun w => w.code == code && decide (t < w.start + 120000))).map (fun w =>
    if t < w.start + 60000 then w else { w with start := w.start + 60000, count := 0, suppressed := 0, firstOp := 0 })

def putWin (wins : List RateWin) (w : RateWin) : List RateWin :=
  w :: wins.filter (fun x => x.code != w.code)

/-- A record merged into the newest record of its area (R413): REPEAT + 1. -/
def mergeRec (seq : Nat) (l : List Rec) : List Rec :=
  l.map (fun r => if r.seq = seq then { r with rep := r.rep + 1 } else r)

/-- The record with a SEQ of an area, wherever it is held. -/
def findRec (lg : LogSt) (a : Fin 16) (seq : Nat) : Option Rec :=
  (lg.wab.find? (fun r => r.area == a.val && r.seq == seq)).or
    (lg.areas[a].held.find? (fun r => r.seq == seq))

/-- What R411 to R413 do with a record of an area before it is stored: accepted, merged or suppressed. -/
inductive Flood | accept (a : Area) | merge (seq : Nat) | suppress (a : Area)

def floodStep (lg : LogSt) (a : Fin 16) (r : Rec) : Flood :=
  let ar := lg.areas[a]
  let code := a.val * 256 + r.num
  if a.val = 4 ∨ r.num = 255 then .accept ar
  else if ar.flood then
    match ar.hold with
    | some (seq, t0) =>
      match findRec lg a seq with
      | some n =>
        if n.num = r.num ∧ n.source = r.source ∧ r.optime < t0 + 60000 ∧ n.rep < 65535 then .merge seq
        else .accept ar
      | none => .accept ar
    | none => .accept ar
  else
    match winAt ar.wins code r.optime with
    | some w =>
      if w.count < max ar.rate 1 then
        .accept { ar with wins := putWin ar.wins { w with count := w.count + 1 } }
      else
        .suppress { ar with
          suppressed := satNat 16 (ar.suppressed + 1)
          wins := putWin ar.wins { w with
            suppressed := w.suppressed + 1
            firstOp := if w.suppressed = 0 then r.optime else w.firstOp } }
    | none =>
      .accept { ar with wins := putWin ar.wins ⟨code, r.optime, 1, 0, 0, r.sev⟩ }

/-- The operating times of the records accepted in the last 60 s (R409). -/
def recentAccepted (l : List Nat) (t : Nat) : List Nat := l.filter (fun x => decide (t < x + 60000))

/-- The CHANGE area's records with room for one more (R278): a free slot, else the oldest record where it has been
confirmed as read, else, for kinds 5 and 6, the oldest record of kind 5 (or of kind 5 or 6). -/
def changeRoom (acked num : Nat) (held : List Rec) : Option (List Rec) :=
  if held.length < 2048 then some held
  else
    match held with
    | [] => some []
    | r :: t =>
      if r.seq ≤ acked then some t
      else
        match held.find? (fun x => x.num == 5 || (num == 6 && x.num == 6)) with
        | some x => if num = 5 ∨ num = 6 then some (held.filter (fun y => y.seq != x.seq)) else none
        | none => none

/-- A record stored under R407, R408, R409 and R414, with the area's next SEQ (R404); a record that finds no place
is counted in DROPPED. The Boolean tells that the write-ahead buffer was full. -/
def storeRec (lg : LogSt) (a : Fin 16) (ar : Area) (r : Rec) : LogSt × Bool :=
  let r := { r with seq := ar.next }
  let acc := recentAccepted ar.accepted r.optime
  let drop := { lg with areas := lg.areas.set a { ar with dropped := satNat 16 (ar.dropped + 1) } }
  if a.val ≠ 4 ∧ r.sev ≠ 5 ∧ 120 ≤ acc.length then (drop, false)
  else
    let ar := { ar with
      next := ar.next + 1
      accepted := acc ++ [r.optime]
      hold := if ar.flood && a.val != 4 then some (r.seq, r.optime) else none }
    if areaKind a.val = 0 then
      if lg.wab.length < 3072 then
        ({ lg with areas := lg.areas.set a ar, wab := lg.wab ++ [r] }, false)
      else (drop, true)
    else if a.val = 4 then
      match changeRoom lg.acked r.num ar.held with
      | some rest =>
        ({ lg with areas := lg.areas.set a { ar with held := rest ++ [r] }, mirror := lg.mirror ++ [r] }, false)
      | none => (drop, false)
    else if ar.held.length < areaSlots a.val then
      ({ lg with areas := lg.areas.set a { ar with held := ar.held ++ [r] } }, false)
    else
      match dropOldest r.sev ar.held with
      | some rest => ({ lg with areas := lg.areas.set a { ar with held := rest ++ [r] } }, false)
      | none => (drop, false)

/-- Flood handling of a record, then its storage. -/
def presentRec (lg : LogSt) (a : Fin 16) (r : Rec) : LogSt × Bool :=
  match floodStep lg a r with
  | .accept ar => storeRec lg a ar r
  | .merge seq =>
    let ar := lg.areas[a]
    ({ lg with wab := lg.wab.map (fun x => if x.area = a.val ∧ x.seq = seq then { x with rep := x.rep + 1 } else x),
               areas := lg.areas.set a { ar with held := mergeRec seq ar.held } }, false)
  | .suppress ar => ({ lg with areas := lg.areas.set a ar }, false)

/-- A window of a code that is over by operating time `t` has closed (R412): where records were suppressed in it, the area writes one
EV_LOG_SUPPRESSED of the instant at which it closed. -/
def closeWin (lg : LogSt) (a : Fin 16) (code t pcc : Nat) : LogSt × Bool :=
  let ar := lg.areas[a]
  match ar.wins.find? (fun w => w.code == code && decide (w.start + 60000 ≤ t) && decide (0 < w.suppressed)) with
  | none => (lg, false)
  | some w =>
    storeRec lg a { ar with wins := putWin ar.wins { w with suppressed := 0 } }
      { seq := 0, optime := w.start + 60000, pcc := pcc, area := a.val, num := 255, source := 0, sev := w.sev, rep := 0
        data := leBytes 2 w.code ++ leBytes 4 w.suppressed ++ leBytes 6 w.firstOp }

/-- A record presented to its area: what its code's window leaves, flood handling, then storage. -/
def logRec (lg : LogSt) (a : Fin 16) (r : Rec) : LogSt × Bool :=
  let c := closeWin lg a (a.val * 256 + r.num) r.optime r.pcc
  let o := presentRec c.1 a r
  (o.1, c.2 || o.2)

/-- An event is logged (R404): its code and severity by its name, SOURCE and DATA as its rule gives them. -/
def Mod.log (m : Mod) (e : Ev) (source : Nat) (data : List Byte) : Mod :=
  let c := e.code
  let a : Fin 16 := Fin.ofNat 16 c.1
  let r : Rec := { seq := 0, optime := m.optime, pcc := m.pcc, area := c.1, num := c.2.1, source := source,
                   sev := c.2.2, rep := 0, data := data }
  let o := logRec m.logs a r
  { m with logs := o.1, regs := if o.2 then fldSet m.regs F.LOG_STATUS_WAB_FULL 1 else m.regs }

/-- A record's bytes (R404), CRC included. -/
def Rec.bytes (r : Rec) : List Byte :=
  let body := leBytes 4 r.seq ++ leBytes 6 r.optime ++ leBytes 2 r.pcc ++ leBytes 2 (r.area * 256 + r.num)
    ++ leBytes 1 r.source ++ leBytes 1 r.sev ++ leBytes 2 r.rep
    ++ (r.data ++ List.replicate (12 - r.data.length) 0).take 12
  body ++ leBytes 2 (crc16 body)

/-! ### Journals of two slots in FeRAM (R400) -/

/-- The newer slot that passes its check. -/
def journalNewest (v : Vector JSlot 2) : Option JSlot :=
  let a := v[0]
  let b := v[1]
  if a.ok && (!b.ok || decide (b.seq ≤ a.seq)) then some a else if b.ok then some b else none

/-- A write to the older slot starts, with the next sequence number; until it completes the slot does not pass its
check. -/
def journalPut (v : Vector JSlot 2) (vals : List Nat) : Vector JSlot 2 :=
  let a := v[0]
  let b := v[1]
  let sa := if a.ok then a.seq else 0
  let sb := if b.ok then b.seq else 0
  let new : JSlot := { seq := max sa sb + 1, vals := vals, writing := true }
  if sa ≤ sb then v.set 0 new else v.set 1 new

/-- A running write completes. -/
def journalDone (v : Vector JSlot 2) : Vector JSlot 2 :=
  v.map (fun j => if j.writing then { j with ok := true, writing := false } else j)

/-- A running write is cut: its slot fails its check. -/
def journalCut (v : Vector JSlot 2) : Vector JSlot 2 :=
  v.map (fun j => if j.writing then { j with ok := false, writing := false } else j)

def journalWriting (v : Vector JSlot 2) : Bool := v[0].writing || v[1].writing

/-! ### The parameter store (R390 to R394) -/

/-- Records of a key, the newest last. -/
def newestRec (l : List ParamRec) (key : Nat) : Option ParamRec :=
  l.foldl (fun o r => if r.key = key then (match o with | some x => if x.seq < r.seq then some r else o | none => some r) else o) none

/-- The payload in force for a key (R392): that of its newest record, none where that is a tombstone. -/
def Mod.paramGet (m : Mod) (key : Nat) : Option (List Byte) :=
  match newestRec m.nvm.params key with
  | some r => if r.tomb then none else some r.payload
  | none => none

/-- A parameter record is queued for programming; `tag` is the session and SEQ whose reply waits for it (R394). -/
def Mod.paramPut (m : Mod) (key : Nat) (payload : List Byte) (tag : Option (Nat × Nat) := none) : Mod :=
  { m with nvm := { m.nvm with jobs := m.nvm.jobs ++ [.param key false payload tag] } }

/-- A tombstone is queued. -/
def Mod.paramDel (m : Mod) (key : Nat) (tag : Option (Nat × Nat) := none) : Mod :=
  { m with nvm := { m.nvm with jobs := m.nvm.jobs ++ [.param key true [] tag] } }

/-- Keys of R395. -/
def keyStored (base : Nat) : Nat := 0x00010000 + base / 0x1000
def keyActive : Nat := 0x00020000
def keyBitprog : Nat := 0x00020001
def keySuspect (b : Nat) : Nat := 0x00020010 + b
def keyCal (c : Nat) : Nat := 0x00030000 + c
def keyUplink (u : Nat) : Nat := 0x00040000 + u
def keySafePw : Nat := 0x00050000

/-! ### Change records (R277, R278) -/

/-- The number of unconfirmed change records (R278). -/
def LogSt.unread (lg : LogSt) : Nat := (lg.areas[4].held.filter (fun r => decide (lg.acked < r.seq))).length

/-- No record of the CHANGE area may be replaced (R278). -/
def LogSt.changeFull (lg : LogSt) : Bool :=
  decide (2048 ≤ lg.areas[4].held.length)
    && (match lg.areas[4].held with | r :: _ => decide (lg.acked < r.seq) | [] => false)

/-- A change record (R277): KIND, zero, SESSION, OLD_CRC, NEW_CRC; at 1,536 unconfirmed records EV_SAFE_LOG_NEAR. -/
def Mod.change (m : Mod) (kind session old new : Nat) : Mod :=
  let before := m.logs.unread
  let m := m.log (.change kind) 0 (leBytes 1 kind ++ leBytes 1 0 ++ leBytes 2 (session % 1024) ++ leBytes 4 old ++ leBytes 4 new)
  m.when (decide (before < 1536) && decide (1536 ≤ m.logs.unread)) (fun m => m.log .safeLogNear 0 [])

/-- A change record of `kind`, then a record of kind 6 where the act does not take effect. -/
def Mod.changeAct (m : Mod) (kind session old new : Nat) (took : Bool) : Mod :=
  let m := m.change kind session old new
  m.when (!took) (fun m => m.change 6 session old new)

/-! ### Operating states (R104) -/

abbrev xBoot : Nat := 1
abbrev xRecovery : Nat := 2
abbrev xBit : Nat := 3
abbrev xPlanning : Nat := 4
abbrev xRun : Nat := 5
abbrev xStopped : Nat := 6
abbrev xStandby : Nat := 7
abbrev xService : Nat := 8

/-- The operating state (EXEC_STATE.STATE, R104). -/
def Mod.st (m : Mod) : Nat := m.get F.EXEC_STATE_STATE

/-- The plan runs: RUN or STANDBY (R104). -/
def Mod.running (m : Mod) : Bool := m.st == xRun || m.st == xStandby

/-- The bit program's states (R104). -/
def Mod.inBit (m : Mod) : Bool := m.st == xBit || m.st == xPlanning

/-- A plan is loaded (EXEC_STATE.NOPLAN, R122). -/
def Mod.planLoaded (m : Mod) : Bool := !m.flag F.EXEC_STATE_NOPLAN

/-- A transition (R107): PREV keeps the state left. -/
def Mod.goto (m : Mod) (x : Nat) : Mod :=
  (m.set F.EXEC_STATE_PREV m.st).set F.EXEC_STATE_STATE x

/-! ### Switchable functions (R472) -/

abbrev swPd (d : Fin 15) : Fin 31 := ⟨d.val, by omega⟩
abbrev swPllF : Fin 31 := 15
abbrev swPllM : Fin 31 := 16
abbrev swPllA : Fin 31 := 17
abbrev swPllN : Fin 31 := 18
abbrev swPllP : Fin 31 := 19
abbrev swTcxo : Fin 31 := 20
abbrev swT1l (k : Fin 8) : Fin 31 := ⟨21 + k.val, by omega⟩
abbrev swMbus : Fin 31 := 29
abbrev swLaser : Fin 31 := 30

/-- An enable request (R472): latched while the shutdown runs or within 50 µs (1,250 TCXO cycles) of its end;
without effect on a function that is on or powering up. -/
def Sw.reqOn (w : Sw) (now : Nat) : Sw :=
  match w.ph with
  | .off =>
    match w.offAt with
    | some t => if now < t + 1250 then { w with pendOn := true } else { w with ph := .powering, since := now }
    | none => { w with ph := .powering, since := now }
  | .shutting => { w with pendOn := true }
  | .powering => w
  | .on => w

/-- A disable request (R472): it cancels a latched enable; during a power-up it is latched. -/
def Sw.reqOff (w : Sw) (now : Nat) : Sw :=
  match w.ph with
  | .off => { w with pendOn := false }
  | .shutting => { w with pendOn := false }
  | .powering => { w with pendOff := true }
  | .on => { w with ph := .shutting, since := now }

/-- A power-up completes (lock, power-good); a latched disable starts its shutdown (R472, rule 5). -/
def Sw.upDone (w : Sw) (now : Nat) : Sw :=
  match w.ph with
  | .powering => if w.pendOff then { w with ph := .shutting, pendOff := false, since := now } else { w with ph := .on }
  | _ => w

/-- A shutdown completes (R472, rule 1). -/
def Sw.downDone (w : Sw) (now : Nat) : Sw :=
  match w.ph with
  | .shutting => { w with ph := .off, offAt := some now }
  | _ => w

/-- A latched enable is carried out (R472, rule 2). -/
def Sw.pendDone (w : Sw) (now : Nat) : Sw :=
  if w.ph = .off ∧ w.pendOn then { w with ph := .powering, pendOn := false, since := now } else w

def Mod.swMap (m : Mod) (i : Fin 31) (f : Sw → Sw) : Mod := { m with sw := m.sw.set i (f m.sw[i]) }
def Mod.swOn (m : Mod) (i : Fin 31) : Mod := m.swMap i (·.reqOn m.clk.mono)
def Mod.swOff (m : Mod) (i : Fin 31) : Mod := m.swMap i (·.reqOff m.clk.mono)
/-- An enable of a function without an on time of its own (port power, laser): it is usable at once. -/
def Mod.swOnNow (m : Mod) (i : Fin 31) : Mod := m.swMap i (fun w => (w.reqOn m.clk.mono).upDone m.clk.mono)
/-- The power-up or the shutdown in progress has lasted so many TCXO cycles; without a running TCXO nothing measures it. -/
def Mod.swPast (m : Mod) (i : Fin 31) (cycles : Nat) : Bool := !m.clk.run || decide ((m.sw[i]).since + cycles ≤ m.clk.mono)
/-- A function is usable. -/
def Mod.isOn (m : Mod) (i : Fin 31) : Bool := m.sw[i].ph == .on

/-- Building time reaches an instant; the TCXO count follows at 40 ns a cycle. -/
def Mod.reach (m : Mod) (t : Nat) : Mod :=
  { m with clk := { m.clk with ns := t, mono := m.clk.mono + (t - m.clk.ns) / 40, pausedUntil :=
    match m.clk.pausedUntil with
    | some x => if x * 1000000000 ≤ t then none else some x
    | none => none } }

/-! ### Outputs and their sources (R10, R100, R105) -/

/-- The kind of an output by its number. -/
inductive OutKind | do_ | ao | so | lt
deriving DecidableEq, Repr

def outKind (o : Nat) : OutKind :=
  if o < 24 then .do_ else if o < 32 then .ao else if o < 40 then .so else .lt

/-- The hard default of R100. -/
def hardDefault (o : Nat) : OutVal :=
  match outKind o with | .do_ => .off | .ao => .hiz | .so => .off | .lt => .alarm

/-- The reset state of R105. -/
def resetVal (o : Nat) : OutVal :=
  match outKind o with | .do_ => .off | .ao => .hiz | .so => .off | .lt => .ltReset

/-- What an output shows in STANDBY and under R376: DO and SO off, AO high-impedance. -/
def standbyVal (o : Nat) : OutVal := hardDefault o

/-- The value of a safe-state request at an output (R100, R101): the hard default while the copy of the safe-state
table is missing or bad, or where the table does not list the output. -/
def Mod.safeVal (m : Mod) (o : Fin 48) : OutVal :=
  if m.exec.hardReq then hardDefault o.val
  else match m.exec.safeCopy with
    | none => hardDefault o.val
    | some t =>
      match mapGet o.val t with
      | none => hardDefault o.val
      | some .off => .off
      | some .on => .on
      | some .hiz => .hiz
      | some .alarm => .alarm
      | some (.value w) => .value w
      | some .hold => (m.outs[o].held).getD (hardDefault o.val)

/-- The Shadow peer holds the bar (R376, R521): its line, decoded in PD1, reads HELD. -/
def Mod.peerHolds (m : Mod) : Bool := m.pwr.bar == 2

/-- The causes of safe-state requests that stand above the bit program and the test values (R10, R105, R109): in SERVICE split operation alone, in BIT and
PLANNING all but the state's own and that of an output the plan does not drive, else all but the state's own. -/
def reqRank (x : Nat) : Nat := if x = xService then 4 else if x = xBit ∨ x = xPlanning then 2 ^ 16 - 10 else 2 ^ 16 - 2

/-- The value an output takes from its sources in the order of R10, by operating state (R105, R109, R376): requests
that stand above the state first; then the bit program or the test value, which take the place of the safe value
the state itself gives; then the state's safe value; then the Jack path; then the value last launched. -/
def Mod.source (m : Mod) (o : Fin 48) : OutVal :=
  let u := m.outs[o]
  let x := m.st
  if x ≤ xRecovery then resetVal o.val
  else if x = xStandby && outKind o.val != .lt then standbyVal o.val
  else if m.peerHolds && (x == xBit || x == xPlanning || x == xStopped || x == xService) && outKind o.val != .lt then
    standbyVal o.val
  else if m.exec.hardReq || u.req &&& reqRank x != 0 then m.safeVal o
  else
    match u.test with
    | some v => v
    | none =>
      if u.req != 0 && u.bit.isNone then m.safeVal o
      else
        match u.jack with
        | some l => if l then .on else .off
        | none =>
          match u.bit with
          | some v => v
          | none => u.launched.getD (resetVal o.val)

/-- A change of one output's record. -/
def Mod.outMap (m : Mod) (o : Fin 48) (f : OutSt → OutSt) : Mod := { m with outs := m.outs.set o (f m.outs[o]) }

/-- A safe-state request of cause `bit` asserted on one output; the first request captures what the output shows
(R100: HOLD). -/
def Mod.reqSafe (m : Mod) (o : Fin 48) (bit : Nat) : Mod :=
  m.outMap o (fun u => { u with
    req := u.req ||| 2 ^ bit
    held := if u.req = 0 then some (m.source o) else u.held })

/-- A request withdrawn. -/
def Mod.dropSafe (m : Mod) (o : Fin 48) (bit : Nat) : Mod :=
  m.outMap o (fun u => { u with req := u.req &&& (2 ^ 16 - 1 - 2 ^ bit) })

/-- An output with a cause of safe-state requests asserted; the first keeps what the pin showed (HOLD). -/
def Mod.reqOut (m : Mod) (bit : Nat) (o : Fin 48) : OutSt :=
  { m.outs[o] with
    req := m.outs[o].req ||| 2 ^ bit
    held := if m.outs[o].req = 0 then some (m.source o) else m.outs[o].held }

/-- A safe-state request on every output at once (R99, R101). -/
def Mod.reqSafeAll (m : Mod) (bit : Nat) : Mod := { m with outs := Vector.ofFn (m.reqOut bit) }

/-- Staging discarded (R99). -/
def Mod.dropStaging (m : Mod) : Mod := { m with outs := m.outs.map (fun u => { u with staged := none }) }

/-- The Jack path is disabled: every entry is withdrawn at once and no latch stays (R168). -/
def Mod.jackOff (m : Mod) : Mod :=
  { m with
    regs := fldSet (fldSet (fldSet (fldSet m.regs F.JACK_STATUS_EN 0) F.JACK_STATUS_ACTIVE 0) (F.JACK_ACT_ACT 0) 0) (F.JACK_ACT_ACT 1) 0
    jack := { m.jack with enabled := false, active := [], latched := [] }
    outs := m.outs.map (fun u => { u with jack := none }) }

/-! ### Points and tiles (R22 to R45) -/

/-- A point record (R22). -/
structure PRec where
  val : Long
  qual : Tag
  age : Nat
  tf : Nat
  chg : Nat
deriving DecidableEq, Repr

/-- The record in 16 bytes (R22). -/
def decodeRec (bs : List Byte) : PRec :=
  { val := BitVec.ofNat 64 (ofLe (bs.take 8))
    qual := BitVec.ofNat 16 (ofLe ((bs.drop 8).take 2))
    age := ofLe ((bs.drop 10).take 2)
    tf := ofLe ((bs.drop 12).take 2)
    chg := ofLe ((bs.drop 14).take 2) }

/-- The 16 bytes of a record (R22). -/
def PRec.bytes (r : PRec) : List Byte :=
  leBytes 8 r.val.toNat ++ leBytes 2 r.qual.toNat ++ leBytes 2 r.age ++ leBytes 2 r.tf ++ leBytes 2 r.chg

/-- Bytes `bs` put at offset `off` of a byte list. -/
def putBytes (l : List Byte) (off : Nat) (bs : List Byte) : List Byte :=
  l.take off ++ bs ++ l.drop (off + bs.length)

/-- STALE, SUBST, RANGE, COMMFAIL, TILEFAULT, OVERSPEED: the bits that take VALID away (R26). -/
def badMask : Tag := 0x0336#16

/-- A quality word with VALID set by the rule of R26. -/
def withValid (q : Tag) : Tag :=
  if q &&& badMask = 0 then q ||| 1#16 else q &&& 0xFFFE#16

/-- VALUE encoded for a TYPE from the bits the encoding uses (R23, R127): BOOL its bit 0, INT32 its low word sign
extended, REAL32 its low word, INT64 and TIME all of it. -/
def encodeVal (ty : Nat) (v : Long) : Long :=
  match ty with
  | 1 => v &&& 1#64
  | 2 => (v.extractLsb' 0 32).signExtend 64
  | 4 => (v.extractLsb' 0 32).zeroExtend 64
  | _ => v

/-- FORCED, bit 3 of a quality word (R25). -/
def isForced (q : Tag) : Bool := q &&& 0x0008#16 != 0

/-- AGE one higher, up to 0xFFFF (R27). -/
def PRec.aged (r : PRec) : PRec := { r with age := if r.age < 0xFFFF then r.age + 1 else 0xFFFF }

/-- A record after a fresh write by its writer (R26 to R28): AGE 0, CHANGES one higher where a VALUE byte differs. -/
def PRec.fresh (r : PRec) (v : Long) (q : Tag) : PRec :=
  { r with val := v, qual := q, age := 0, chg := if v = r.val then r.chg else (r.chg + 1) % 65536 }

/-- The output number of an actuator code (R196): AO01 to AO08, LT1 to LT8. -/
def actOutput (act : Nat) : Option (Fin 48) :=
  if 1 ≤ act ∧ act ≤ 8 then some (Fin.ofNat 48 (23 + act)) else if 9 ≤ act ∧ act ≤ 16 then some (Fin.ofNat 48 (31 + act)) else none

/-- ORIGIN (R24) by what a point is bound to; that of a mirrored point is the one it has at its owner. -/
def PointDef.originOf (p : PointDef) : Nat :=
  match p.bind with
  | .free => 4
  | .out _ => 1
  | .rin _ _ => 2
  | .rout _ _ => 3
  | .meter _ _ => 5
  | .loopTerm _ _ => 6
  | .mirror _ _ => p.origin
  | _ => 0

/-- A field of a register word that a loop's definition carries (R195): word `k` of its registers. -/
def LoopDef.fld (d : LoopDef) (k : Nat) (f : Fld) : Nat := bits (d.words.getD k 0).toNat f.lo f.width

/-- A task runs in a burst (R59): the plan names the burst, or names none and the burst's mask has the task's class. -/
def TaskDef.runsIn (t : TaskDef) (mask seq : Nat) : Bool := if t.bursts.isEmpty then bitAt mask t.cls else t.bursts.contains seq

/-- DRIVES (R24): a physical output takes its value from the point, as its own output or as the OUT of a loop with an actuator. -/
def Plan.drives (pl : Plan) (p : PointDef) : Bool :=
  (match p.bind with | .out _ => true | _ => false)
    || pl.loops.any (fun d => d.fld 2 (F.LOOP_OUTPT_OUT 0) == p.idx && (actOutput (d.fld 0 (F.LOOP_CFG_ACT 0))).isSome)

/-- The TYPEFLAGS word that the planner writes (R24). -/
def Plan.typeFlags (pl : Plan) (p : PointDef) : Nat :=
  p.ty % 16 + 2 ^ 4 * (p.cls % 8) + 2 ^ 7 * b2n p.retain + 2 ^ 8 * p.originOf
    + 2 ^ 11 * b2n (match p.bind with | .mirror _ _ => true | _ => false) + 2 ^ 12 * b2n (pl.drives p)

/-- A directory entry; an unlisted tile is FREE (R46). -/
def Mod.dirEnt (m : Mod) (t : Nat) : DirEnt := mapGetD {} t m.mem.dir
def Mod.setDir (m : Mod) (t : Nat) (e : DirEnt) : Mod := { m with mem := { m.mem with dir := mapPut t e m.mem.dir } }

/-- The 256 bytes of a tile as they stand. -/
def Mod.tileBytes (m : Mod) (t : Nat) : List Byte := memReadN 0 m.mem.cells (t * 256) 256

/-- A tile written whole; the directory takes the new CRC (R31, R34). -/
def Mod.putTile (m : Mod) (t : Nat) (bs : List Byte) : Mod :=
  { m with mem := { m.mem with
      cells := memWriteN 0 m.mem.cells (t * 256) bs
      dir := mapPut t { m.dirEnt t with crc := tileCrc t bs } m.mem.dir } }

/-- The active plan's points. -/
def Mod.points (m : Mod) : List PointDef := (m.plan.active.map (·.points)).getD []
def Mod.tasks (m : Mod) : List TaskDef := (m.plan.active.map (·.tasks)).getD []
def Mod.pointDef (m : Mod) (i : Nat) : Option PointDef := m.points.find? (fun p => p.idx == i)
def Mod.taskDef (m : Mod) (i : Nat) : Option TaskDef := m.tasks.find? (fun t => t.idx == i)
/-- A tile's definition in the active plan. -/
def Mod.tileDef (m : Mod) (t : Nat) : Option TileDef := ((m.plan.active.map (·.tiles)).getD []).find? (fun d => d.tile == t)
/-- A tile's kind in the active plan's copy of the directory (R36). -/
def Mod.planKind (m : Mod) (t : Nat) : TileKind := ((m.tileDef t).map (·.kind)).getD .free

/-- The loops of the active plan by number. -/
def Mod.loopNums (m : Mod) : List Nat := ((m.plan.active.map (·.loops)).getD []).map (·.num)

/-- The private record that copy B of the SAFETY tasks keeps in place of a point's record (R265). -/
def Mod.privAt (m : Mod) (p : Nat) : Option (Nat × Nat) := mapGet p ((m.plan.active.map (·.priv)).getD [])

/-- The point bound to an output. -/
def Mod.outPoint (m : Mod) (o : Nat) : Option PointDef := m.points.find? (fun p => p.bind == .out o)

/-- A point's record as it stands in tile memory (R22, R30). -/
def Mod.prec (m : Mod) (p : PMapEnt) : PRec := decodeRec (memReadN 0 m.mem.cells (p.tile * 256 + p.slot * 16) 16)

def tileKindCode : TileKind → Nat
  | .free => 0 | .point => 1 | .code => 2 | .const => 3 | .inst => 4 | .history => 5 | .mirror => 6

/-- Number of tiles now FAULTED (TILE_STATUS.FAULTED). -/
def faultedCount (dir : List (Nat × DirEnt)) : Nat := (dir.filter (fun e => e.2.faulted)).length

/-- The TYPE of the record in a slot of a tile by the point map, where the slot is used: a private record of copy B has the TYPE of
copy A's point (R265). -/
def Mod.slotType (m : Mod) (t s : Nat) : Option Nat :=
  match m.mem.pmap.find? (fun p => p.2.tile == t && p.2.slot == s) with
  | some p => some p.2.ty
  | none =>
    match ((m.plan.active.map (·.priv)).getD []).find? (fun x => x.2 == (t, s)) with
    | some x => (mapGet x.1 m.mem.pmap).map (·.ty)
    | none => none

/-- The placeholder tile of R37: each used slot holds TILEFAULT only, AGE 0xFFFF and its TYPE. -/
def Mod.placeholder (m : Mod) (t : Nat) : List Byte :=
  (List.range 16).flatMap (fun s =>
    match m.slotType t s with
    | some ty => (PRec.mk 0 0x0100#16 0xFFFF ty 0).bytes
    | none => List.replicate 16 0)

/-- A bank's fault counted (R41): the last three fault times; the third within 3,600 s of the first marks the bank
SUSPECT (stored under R42), logs EV_BANK_SUSPECT and asks for a replan. DESIGN CHOICE (log entry 108): a bank that is SUSPECT already
neither logs nor asks again. -/
def Mod.bankFault (m : Mod) (b : Fin 8) : Mod :=
  let ts := (m.mem.bankTimes[b] ++ [m.optime])
  let ts := ts.drop (ts.length - 3)
  let suspect := ts.length == 3 && decide (m.optime < ts.headD 0 + 3600000)
  let m := { m with mem := { m.mem with bankTimes := m.mem.bankTimes.set b ts } }
  let m := (m.addSat (F.TILE_BANK_TOTAL b.val) 1).set (F.TILE_BANK_RECENT b.val)
    (min 3 (ts.filter (fun t => decide (m.optime < t + 3600000))).length)
  m.when (suspect && !m.flag (F.TILE_BANK_SUSPECT b.val)) (fun m =>
    let m := (m.set (F.TILE_BANK_SUSPECT b.val) 1).set F.TILE_STATUS_SUSPECT (m.get F.TILE_STATUS_SUSPECT ||| 2 ^ b.val)
    let m := { m with plan := { m.plan with replan := true } }
    let m := m.paramPut (keySuspect b.val) [1]
    m.log .bankSuspect b.val [BitVec.ofNat 8 b.val])

/-- Safe-state requests on a list of outputs. -/
def Mod.reqSafeList (m : Mod) (os : List Nat) (bit : Nat) : Mod :=
  os.foldl (fun m o => if h : o < 48 then m.reqSafe ⟨o, h⟩ bit else m) m

/-- The outputs that take their value from a point: its own, and the actuators of the loops whose OUT point it is. -/
def Mod.pointOuts (m : Mod) (p : PointDef) : List Nat :=
  (match p.bind with | .out o => [o] | _ => [])
    ++ (m.loopNums.filter (fun n => m.get (F.LOOP_OUTPT_OUT n) == p.idx)).filterMap (fun n =>
      (actOutput (m.get (F.LOOP_CFG_ACT n))).map (·.val))

/-- The channel SOkB that takes its value from the private record of a point (R265, R40). -/
def Mod.privOuts (m : Mod) (p : Nat) : List Nat :=
  match (m.pointDef p).map PointDef.bind with
  | some (.out o) => if 32 ≤ o ∧ o < 40 then [o + 1] else []
  | _ => []

/-- The outputs that take their value from a record in a tile (R36, step 5; R40). -/
def Mod.tileOuts (m : Mod) (t : Nat) : List Nat :=
  (m.points.filter (fun p => p.tile == t)).flatMap m.pointOuts
    ++ (((m.plan.active.map (·.priv)).getD []).filter (fun x => x.2.1 == t)).flatMap (fun x => m.privOuts x.1)

/-- The standby starts its rejoin again at step 1 (R379). -/
def Mod.rejoin (m : Mod) : Mod :=
  if m.st == xStandby then
    let m := ((m.set F.TWIN_STATUS_IN_STEP 0).set F.TWIN_STATUS_SELFTEST 0).set F.TWIN_STATUS_JOIN 1
    { m with twin := { m.twin with joinSince := none, holdFrom := none, copied := [] } }
  else m

/-- A tile fault (R36, steps 2, 3, 5 and 6) of tile `t` for a master with a cause (1 CRC, 2 DIR_ECC, 3 FREE). -/
def Mod.tileFault (m : Mod) (t cause master : Nat) : Mod :=
  let k := tileKindCode (m.planKind t)
  let e := m.dirEnt t
  let m := m.setDir t { e with faulted := true, dbl := false }
  let m := m.set F.TILE_STATUS_FAULTED (faultedCount m.mem.dir)
  let m := m.addSat F.TILE_FAULTS_COUNT 1
  let m := m.set F.TILE_LAST_FAULT_TILE t
  let m := m.set F.TILE_LAST_FAULT_CAUSE cause
  let m := m.set F.TILE_LAST_FAULT_MASTER master
  let m := m.set F.TILE_LAST_FAULT_KIND k
  let m := m.set F.TILE_LAST_FAULT_REBUILT 0
  let m := m.set F.TILE_LAST_TIME_OPTIME m.optime
  let m := m.log .tileFault master (leBytes 2 t ++ leBytes 1 k ++ leBytes 1 cause ++ leBytes 1 master)
  let m := m.reqSafeList (m.tileOuts t) 1
  let j := m.get F.TWIN_STATUS_JOIN
  let m := m.when (decide (1 ≤ j) && decide (j ≤ 3)) Mod.rejoin
  m.bankFault (Fin.ofNat 8 (t / 1024))

/-- What a checked load gives its master: the tile, the placeholder of R37, or nothing (R36, step 4). -/
inductive Load | data (bs : List Byte) | placeholder (bs : List Byte) | none
deriving DecidableEq, Repr

/-- What a load of a tile that is FAULTED gives (R37). -/
def Mod.faultedLoad (m : Mod) (t : Nat) : Load :=
  match m.planKind t with
  | .point => .placeholder (m.placeholder t)
  | .mirror => .placeholder (m.placeholder t)
  | _ => .none

/-- A checked load (R31, R34 to R37): the fault's cause where there is one. -/
def Mod.loadCause (m : Mod) (t : Nat) : Option Nat :=
  let e := m.dirEnt t
  if e.faulted then none
  else if e.dbl then some 2
  else if e.kind = .free then some 3
  else if tileCrc t (m.tileBytes t) ≠ e.crc then some 1
  else none

/-- A single-bit error of a directory entry is corrected and counted (R35). -/
def Mod.dirFix (m : Mod) (t : Nat) : Mod :=
  m.when ((m.dirEnt t).single) (fun m =>
    (m.addSat F.TILE_DIR_ECC_COUNT 1).setDir t { m.dirEnt t with single := false })

/-- A directory entry used without a load (R35): a single-bit error is corrected, a double-bit error is a tile fault of cause DIR_ECC. -/
def Mod.dirUse (m : Mod) (t master : Nat) : Mod :=
  let m := m.dirFix t
  m.when ((m.dirEnt t).dbl && !(m.dirEnt t).faulted) (fun m => m.tileFault t 2 master)

/-- The state after a checked load: a corrected directory error, and a fault's effects. -/
def Mod.loadEffect (m : Mod) (t master : Nat) : Mod :=
  let m := m.dirFix t
  match m.loadCause t with
  | some c => m.tileFault t c master
  | none => m

/-- What the load gives, read on the state before it. -/
def Mod.loadData (m : Mod) (t : Nat) : Load :=
  if (m.dirEnt t).faulted || (m.loadCause t).isSome then m.faultedLoad t else .data (m.tileBytes t)

/-- A write-back of a whole tile by a master: to a FAULTED tile it is discarded and counted (R38). -/
def Mod.writeBack (m : Mod) (t master : Nat) (bs : List Byte) : Mod :=
  let m := m.dirUse t master
  if (m.dirEnt t).faulted then m.addSat F.TILE_DISCARDS_COUNT 1 else m.putTile t bs

/-- A region violation recorded (R44): master, access (1 read, 2 write, 3 fetch), bus address. -/
def Mod.regionViolation (m : Mod) (master access addr : Nat) : Mod :=
  let m := m.set F.TILE_RV_STATUS_MASTER master
  let m := m.set F.TILE_RV_STATUS_ACCESS access
  let m := m.addSat F.TILE_RV_STATUS_COUNT 1
  let m := m.set F.TILE_RV_ADDR_ADDR addr
  m.log .regionViolation master (leBytes 1 master ++ leBytes 1 access ++ leBytes 4 addr)

/-- An access is inside an enabled region of its master that permits it (R43): bus address, 1 read, 2 write,
3 fetch. -/
def Mod.regionOk (m : Mod) (master access addr : Nat) : Bool :=
  (List.range 16).any (fun k =>
    m.flag (F.REGION_ATTR_EN master k)
    && (match access with
        | 1 => m.flag (F.REGION_ATTR_R master k)
        | 2 => m.flag (F.REGION_ATTR_W master k)
        | _ => m.flag (F.REGION_ATTR_X master k))
    && decide (m.get (F.REGION_BASE_BASE master k) ≤ addr / 256)
    && decide (addr / 256 ≤ m.get (F.REGION_LIMIT_LIMIT master k)))

/-- A checked load of a tile inside a master's regions (R34, R43): the state after it, and what the load gives; none where no region permits
it (R44). -/
def Mod.masterLoad (m : Mod) (master t : Nat) : Mod × Option Load :=
  if m.regionOk master 1 (t * 256) then (m.loadEffect t master, some (m.loadData t))
  else (m.regionViolation master 1 (t * 256), none)

/-- A write-back inside a master's regions (R38, R43): the state after it, and whether a region permitted it (R44). -/
def Mod.masterStore (m : Mod) (master t : Nat) (bs : List Byte) : Mod × Bool :=
  if m.regionOk master 2 (t * 256) then (m.writeBack t master bs, true)
  else (m.regionViolation master 2 (t * 256), false)

/-- The checked loads of several tiles in order, each once; it stops at the first that no region permits. -/
def Mod.masterLoads (m : Mod) (master : Nat) : List Nat → Mod × Option (List (Nat × Load))
  | [] => (m, some [])
  | t :: ts =>
    match m.masterLoad master t with
    | (m, some d) => let r := m.masterLoads master ts; (r.1, r.2.map ((t, d) :: ·))
    | (m, none) => (m, none)

/-- The bytes a load gives: the tile's, or its placeholder's. -/
def Load.bytes? : Load → Option (List Byte)
  | .data bs => some bs
  | .placeholder bs => some bs
  | .none => Option.none

/-- The record of a slot among loaded tiles. -/
def recIn (ls : List (Nat × Load)) (e : PMapEnt) : Option PRec :=
  (mapGet e.tile ls).bind (fun d => d.bytes?.map (fun bs => decodeRec ((bs.drop (e.slot * 16)).take 16)))

/-- A record changed in its tile by the tile's writing master with a checked load, merge and write-back (R31, R34), and only where the load
gives the tile. -/
def Mod.changeRec (m : Mod) (e : PMapEnt) (f : PRec → PRec) : Mod :=
  let w := (m.dirEnt e.tile).writer
  match m.loadData e.tile with
  | .data bs => (m.loadEffect e.tile w).writeBack e.tile w (putBytes bs (e.slot * 16) (f (decodeRec ((bs.drop (e.slot * 16)).take 16))).bytes)
  | _ => m.loadEffect e.tile w

/-- A point marked as freshly written since the last freeze of its class (R27). -/
def Mod.markFresh (m : Mod) (p : Nat) : Mod := { m with exec := { m.exec with freshPts := p :: m.exec.freshPts } }

/-! ### Circular-buffer windows (R45) -/

/-- HEAD moved past an appended record (R45). -/
def Mod.cbwStep (m : Mod) (w : Nat) : Mod :=
  let h := (m.get (F.CBW_HEAD_HEAD w) + 1) % m.get (F.CBW_LENGTH_LENGTH w)
  (m.set (F.CBW_HEAD_HEAD w) h).when (h == 0) (fun m => m.addWrap (F.CBW_HEAD_WRAPS w) 1)

/-- A record appended to a window by its owner (R45): a record of a whole tile is written back, a smaller one merged after a checked load; then
HEAD moves on, also where the tile is FAULTED and nothing is written (R38). A window that is disabled or of LENGTH 0, or that another master
owns, takes nothing (R52). The Boolean tells that a region forbade the access. -/
def Mod.cbwAppend (m : Mod) (master w : Nat) (bs : List Byte) : Mod × Bool :=
  let size := 2 ^ (m.get (F.CBW_STRIDE_STRIDE w) + 3)
  let head := m.get (F.CBW_HEAD_HEAD w)
  let per := 256 / size
  let t := m.get (F.CBW_BASE_TILE w) + head / per
  if !m.flag (F.CBW_STATUS_EN w) || m.get (F.CBW_LENGTH_LENGTH w) = 0 || per = 0 || m.get (F.CBW_STATUS_OWNER w) != master then (m, false)
  else if size = 256 then
    match m.masterStore master t (putBytes (List.replicate 256 0) 0 (bs.take 256)) with
    | (m, true) => (m.cbwStep w, false)
    | (m, false) => (m, true)
  else
    match m.masterLoad master t with
    | (m, some d) =>
      (match m.masterStore master t (putBytes (d.bytes?.getD (List.replicate 256 0)) ((head % per) * size) (bs.take size)) with
       | (m, true) => (m.cbwStep w, false)
       | (m, false) => (m, true))
    | (m, none) => (m, true)

/-! ### Overruns and STOPPED (R97 to R101) -/

/-- TWIN_CFG.RETURN_LIMIT; 0 is taken as 1 (R385). -/
def Mod.returnLimit (m : Mod) : Nat := max 1 (m.get F.TWIN_CFG_RETURN_LIMIT)

/-- The primary gives up the bar within 24 hours of operating time of a return: that counts against RETURN_LIMIT (R380). -/
def Mod.returnCount (m : Mod) : Mod :=
  match m.twin.returned with
  | none => m
  | some t =>
    let m' := { m with twin := { m.twin with returned := none } }
    if m.optime < t + 86400000 then
      let m' := m'.addSat F.TWIN_BAR_RETURNS 1
      m'.when (decide (m.returnLimit ≤ m'.get F.TWIN_BAR_RETURNS)) (fun m => m.log .twinReturnLimit 0 [])
    else m'

/-- The bar is released where it is held: the own line reads FREE (R357, R374). -/
def Mod.barRelease (m : Mod) : Mod :=
  if m.flag F.TWIN_STATUS_HOLDS_BAR then ((m.set F.TWIN_BAR_OWN_LINE 0).set F.TWIN_STATUS_HOLDS_BAR 0).returnCount
  else m.set F.TWIN_BAR_OWN_LINE 0

/-- STANDBY is left: the module is no longer in step (R373, R379). -/
def Mod.standbyEnd (m : Mod) : Mod :=
  if m.st == xStandby then
    let m := ((m.set F.TWIN_STATUS_IN_STEP 0).set F.TWIN_STATUS_SELFTEST 0).set F.TWIN_STATUS_JOIN 0
    { m with twin := { m.twin with joinSince := none, holdFrom := none, takePending := false } }
  else m

/-- The mask of lanes that have not finished their lists. -/
def Mod.unfinished (m : Mod) : Nat :=
  (List.finRange 8).foldl (fun a i =>
    if m.lanes[i].phase = .exec || m.lanes[i].phase = .abandoned || !m.lanes[i].todo.isEmpty
    then a ||| 2 ^ i.val else a) 0

/-- Lanes and loop engine halted (R99, step 1). -/
def Mod.haltLanes (m : Mod) : Mod :=
  { m with
    lanes := m.lanes.map (fun l => { l with phase := .halted, todo := [] })
    exec := { m.exec with burst := none, wdArmed := false } }

/-- The bit program stops driving outputs (R104, R111). -/
def Mod.bitOff (m : Mod) : Mod :=
  { m with
    regs := fldSet m.regs F.EXEC_BIT_RUNNING 0
    outs := m.outs.map (fun u => { u with bit := none })
    bit := { m.bit with inCycle := false } }

/-- An armed swap is cancelled, its candidate kept (R85); where it changes safety content, the change log says that the act did not
take effect (R277). -/
def Mod.cancelSwap (m : Mod) : Mod :=
  if m.plan.armed.isSome then
    let m := match m.plan.armSafe with
      | some (h, a, b) => m.change 6 h a b
      | none => m
    let m := { m with plan := { m.plan with armed := none, armSafe := none, deferred := 0, newDone := false, migrated := false } }
    (m.set F.PLAN_STATUS_STATE 3).set F.PLAN_STATUS_CANCELLED 1
  else m

/-- STOPPED entered (R85, R105, R107): outputs safe, Jack path disabled, no lanes, no bit program and no loop engine. -/
def Mod.enterStopped (m : Mod) : Mod :=
  (((m.reqSafeAll 0).haltLanes).dropStaging.jackOff.bitOff.cancelSwap.standbyEnd).goto xStopped

/-- The auto-restarts within the last WINDOW hours (R119; 0 is taken as 1). -/
def Mod.autoRecent (m : Mod) : List Nat :=
  m.exec.autoTimes.filter (fun t => decide (m.optime < t + max 1 (m.get F.EXEC_AUTORST_WINDOW) * 3600000))

/-- What R119 does when STOPPED was entered by an overrun: schedule a restart, or log that the limit is reached. -/
def Mod.autoArm (m : Mod) : Mod :=
  if m.flag F.EXEC_AUTORST_EN then
    if m.autoRecent.length < m.get F.EXEC_AUTORST_LIMIT then
      { m with exec := { m.exec with autoAt := some (m.optime + max 1 (m.get F.EXEC_AUTORST_DELAY) * 1000) } }
    else m.log .autorestartLimit 0 []
  else m

/-- An overrun (R98, R99) with its cause, class, burst number and mask of unfinished lanes. A Shadow holder gives
up the bar (R374). -/
def Mod.overrun (m : Mod) (cause cls seq lanes : Nat) : Mod :=
  let m := m.set F.EXEC_OVERRUN_CLASS cls
  let m := m.set F.EXEC_OVERRUN_CAUSE cause
  let m := m.set F.EXEC_OVERRUN_LANES lanes
  let m := m.set F.EXEC_OVERRUN_BURST seq
  let m := m.set F.EXEC_OVR_TIME_OPTIME m.optime
  let m := m.addSat F.EXEC_OVR_COUNT_COUNT 1
  let m := m.log .overrun 0 (leBytes 1 cause ++ leBytes 1 cls ++ leBytes 2 seq ++ leBytes 1 lanes)
  let m := m.when (m.flag F.TWIN_STATUS_HOLDS_BAR) Mod.barRelease
  m.enterStopped.autoArm

/-- The classes of a mask in the order of their periods; the first is the shortest (R97). -/
def Mod.shortest (m : Mod) (mask : Nat) : Nat :=
  ((List.range 8).filter (fun c => bitAt mask c)).foldl
    (fun best c => if best = 8 ∨ m.get (F.PLAN_CLASS_CFG_PERIOD c) < m.get (F.PLAN_CLASS_CFG_PERIOD best) then c else best) 8
  % 8

/-- A period code in ms (R54, PLAN_CLASS.CFG). -/
def periodMs (code : Nat) : Nat :=
  match code with | 0 => 1 | 1 => 2 | 2 => 5 | 3 => 10 | 4 => 20 | 5 => 50 | 6 => 100 | _ => 1000

/-- A class's period in ns. -/
def Mod.periodNs (m : Mod) (c : Nat) : Nat := periodMs (m.get (F.PLAN_CLASS_CFG_PERIOD c)) * 1000000

/-! ### Sessions and roles (R332, R337) -/

def Mod.sess (m : Mod) (h : Nat) : Option Sess := mapGet h m.orpor.sessions

/-- The session is an OPERATOR of scope 0 or a SERVICE session (O0 and V of R495). -/
def Mod.isO0V (m : Mod) (h : Nat) : Bool :=
  match m.sess h with
  | some x => (x.role == .operator && x.scope == 0) || x.role == .service
  | none => false

def Mod.isRole (m : Mod) (h : Nat) (r : Role) : Bool :=
  match m.sess h with
  | some x => x.role == r
  | none => false

/-! ### What output pins show (R240, R247, R250) -/

/-- A value given in REAL32 limited to a range: NaN is taken as the first argument's replacement. -/
def limF (lo hi v : Nat) : Nat := if fLt b32 v lo then lo else if fLt b32 hi v then hi else v

/-- LO of an AO mode (R247): 0 V, 0 mA, 4 mA. -/
def aoLo (mode : Nat) : Nat := if mode = 3 then 0x40800000 else 0
/-- HI of an AO mode: 10 V or 20 mA. -/
def aoHi (mode : Nat) : Nat := if mode = 1 then 0x41200000 else 0x41A00000

/-- The output of an AO in V or mA for a value in engineering units (R247): NaN is taken as SC_LO; the result is
limited to LO to HI. REAL32 arithmetic in the order of the formula (log entry 6). -/
def aoOutput (mode scLo scHi v : Nat) : Nat :=
  let lo := aoLo mode
  let hi := aoHi mode
  if fIsNan b32 v then lo
  else limF lo hi (fAdd b32 lo (fDiv b32 (fMul b32 (fSub b32 v scLo) (fSub b32 hi lo)) (fSub b32 scHi scLo)))

/-- The DAC code of an AO (R247): the nearest of 65,536 codes over LO to HI, a tie rounded up; exact on the REAL32
value of the output. -/
def aoCode (mode out : Nat) : Nat :=
  let lo := aoLo mode
  let hi := aoHi mode
  -- (out − lo) × 65,535 / (hi − lo), rounded half up, with every value scaled to 2^-60
  let n := (fScaled b32 out (-60) - fScaled b32 lo (-60)) * 65535
  let d := fScaled b32 hi (-60) - fScaled b32 lo (-60)
  min 65535 ((2 * n + d) / (2 * d)).toNat

/-- The instants from which the field complex counts (R240, R243, R253), as keys of `FioSt.since`: the short circuit of a DO, the trip of a group,
the disconnection of a burden, an island's last report. -/
def tmShort (n : Nat) : Nat := n
def tmGroup (g : Nat) : Nat := 32 + g
def tmProt (n : Nat) : Nat := 64 + n
def tmReport (n : Nat) : Nat := 96 + n

/-- An instant to count from is now. -/
def Mod.fioMark (m : Mod) (k : Nat) : Mod := { m with fio := { m.fio with since := mapPut k m.clk.mono m.fio.since } }

/-- `cycles` of the TCXO have passed since an instant; true where none stands. -/
def Mod.fioPast (m : Mod) (k cycles : Nat) : Bool :=
  match mapGet k m.fio.since with
  | some t => decide (t + cycles ≤ m.clk.mono)
  | none => true

/-- A protection holds the DO off whatever its source (R240). -/
def Mod.doHeld (m : Mod) (n : Nat) : Bool :=
  m.flag (F.FIO_DO_STATUS_SC n) || m.flag (F.FIO_DO_STATUS_THERMAL n) || m.flag (F.FIO_DO_GRP_TRIP (n / 8))
    || !m.flag F.FIO_STATUS_VAUX_OK

/-- LOW 3.50 mA or HIGH 21.50 mA (R250). -/
def alarmMa (high : Bool) : Word := if high then 0x41AC0000#32 else 0x40600000#32

/-- A commanded loop current limited to 3.8 to 20.5 mA; NaN is taken as the alarm level (R250). -/
def ltMa (high : Bool) (w : Word) : Word :=
  if fIsNan b32 w.toNat then alarmMa high
  else BitVec.ofNat 32 (limF 0x40733333 0x41A40000 w.toNat)

/-- What a pin shows: its source under R10 after the protections below it (R240), the conversion of an AO (R247) and
the limits of an LT (R250). An SO channel is off during its off-pulse (R268). -/
def Mod.pin (m : Mod) (o : Fin 48) : OutVal :=
  match outKind o.val with
  | .do_ => if m.doHeld o.val then .off else m.source o
  | .so => if m.safe.pulse.contains (o.val - 32) then .off else m.source o
  | .ao =>
    let n := o.val - 24
    let mode := m.get (F.FIO_AO_CFG_MODE n)
    if mode = 0 || m.fio.waitLaunch.contains o.val then .hiz
    else match m.source o with
      | .value w => .value (BitVec.ofNat 32 (aoOutput mode (m.get (F.FIO_AO_SC_LO_SC n)) (m.get (F.FIO_AO_SC_HI_SC n)) w.toNat))
      | .raw w => .value (BitVec.ofNat 32 (limF (aoLo mode) (aoHi mode) w.toNat))
      | _ => .hiz
  | .lt =>
    let n := o.val - 40
    let high := m.flag (F.LTX_CFG_ALARM n)
    if m.fio.waitLaunch.contains o.val then .value (alarmMa high)
    else match m.source o with
      | .value w => .value (ltMa high w)
      | .alarm => .value (alarmMa high)
      | _ => .ltReset

def Mod.pinOn (m : Mod) (o : Fin 48) : Bool := m.pin o == .on

/-- OPENLOAD of an output, which ends when the output switches off (R241). -/
def Mod.openLoad (m : Mod) (n : Fin 24) : Bool := m.flag (F.FIO_DO_STATUS_OPENLOAD n.val) && m.pinOn ⟨n.val, by omega⟩

/-- OPENLOAD of every output that is off has ended (R241). -/
def Mod.openSettle (m : Mod) : Mod :=
  (List.finRange 24).foldl (fun m n => m.when (!m.pinOn ⟨n.val, by omega⟩) (fun m => m.set (F.FIO_DO_STATUS_OPENLOAD n.val) 0)) m

/-! ### Acts and safety faults (R269, R271, R280) -/

/-- A session may act under R280: a SAFETY session with an unlock window. -/
def Mod.isUnlocked (m : Mod) (h : Nat) : Bool :=
  match m.sess h with
  | some x => x.role == .safety && x.unlocked
  | none => false

/-- A pair fault (R269): both channels requested off, FAULT, CAUSE and CHANNEL set, EV_SO_FAULT logged; the latch is
held in PD1. A latched pair stays as it is. -/
def Mod.pairFault (m : Mod) (k : Fin 4) (cause : Nat) (chB : Bool) : Mod :=
  if m.safe.latch[k].isSome then m
  else
    let m := (m.reqSafe ⟨32 + 2 * k.val, by omega⟩ 4).reqSafe ⟨33 + 2 * k.val, by omega⟩ 4
    let m := { m with safe := { m.safe with latch := m.safe.latch.set k (some (cause, chB)) } }
    let m := m.set (F.SAFE_SO_STATUS_FAULT k.val) 1
    let m := m.set (F.SAFE_SO_STATUS_CAUSE k.val) cause
    let m := m.setB (F.SAFE_SO_STATUS_CHANNEL k.val) chB
    let m := m.set F.SAFE_STATUS_SO_FAULT 1
    m.log .soFault k.val (leBytes 1 k.val ++ leBytes 1 cause ++ leBytes 1 (b2n chB))

/-- A module safety fault (R271): RUN and STANDBY go to STOPPED with every output safe and no auto-restart; in any
other state every SO channel is requested off until the next restart. A Shadow holder gives up the bar (R374). -/
def Mod.safetyFault (m : Mod) (cause : Nat) : Mod :=
  let m := (m.set F.SAFE_STATUS_FAULT 1).set F.SAFE_STATUS_CAUSE cause
  let m := m.log .safeFault cause []
  if m.running then
    (m.when (m.flag F.TWIN_STATUS_HOLDS_BAR) Mod.barRelease).enterStopped
  else m.reqSafeList [32, 33, 34, 35, 36, 37, 38, 39] 5

/-! ### The UTC offset record (R429) -/

/-- The record in backup words 14 and 15 is valid (R429). -/
def Mod.utcValid (m : Mod) : Bool :=
  (m.word (R.RTC_BKP 14)).extractLsb' 16 16 == 0x5543#16 && m.word (R.RTC_BKP 15) == ~~~(m.word (R.RTC_BKP 14))

/-- The module writes the record whenever TIME_UTC.VALID is 1 and the offset differs from the record (R429). -/
def Mod.utcRecord (m : Mod) : Mod :=
  let w : Word := 0x5543#16 ++ BitVec.ofNat 16 (m.get F.TIME_UTC_OFFSET)
  if m.flag F.TIME_UTC_VALID && !(m.utcValid && m.word (R.RTC_BKP 14) == w) then
    (m.setWord (R.RTC_BKP 14) w).setWord (R.RTC_BKP 15) (~~~w)
  else m

/-! ### Power domains (R469, R497) -/

/-- The domains a domain needs (R469). -/
def pdNeeds (d : Nat) : List Nat :=
  match d with
  | 2 => [1] | 3 => [2] | 4 => [6] | 5 => [6] | 6 => [2] | 7 => [6] | 8 => [2] | 9 => [2] | 10 => [2] | 11 => [14] | 12 => [14]
  | 13 => [6, 14] | 14 => [2] | _ => []

/-- The domains that need a domain. -/
def pdNeeded (d : Nat) : List Nat := (List.range 15).filter (fun e => (pdNeeds e).contains d)

/-- A domain's phase. -/
def Mod.pdPh (m : Mod) (d : Nat) : SwPhase := if h : d < 15 then (m.sw[swPd ⟨d, h⟩]).ph else .off

/-- A domain is to be on: wanted, and not one that waits for its retry (R471). -/
def Mod.pdWant (m : Mod) (d : Nat) : Bool := bitAt m.pwr.want d && !m.pwr.bootWait.contains d

/-- The set of wanted domains changed. -/
def Mod.pdSet (m : Mod) (ds : List Nat) (on : Bool) : Mod :=
  { m with pwr := { m.pwr with want := ds.foldl (fun w d => putBits w d 1 (b2n on)) m.pwr.want } }

/-- One domain follows what is wanted of it (R469): off only after every domain that needs it is off, on only once every
domain it needs is usable. -/
def Mod.pdFollow (m : Mod) (d : Fin 15) : Mod :=
  if d.val = 0 then m
  else if m.pdWant d.val then
    (if (pdNeeds d.val).all (fun e => m.pdPh e == .on) && m.pdPh d.val != .on && m.pdPh d.val != .powering then m.swOn (swPd d) else m)
  else if (pdNeeded d.val).all (fun e => m.pdPh e == .off) then m.swOff (swPd d) else m

/-- Every domain follows. -/
def Mod.follow (m : Mod) : Mod := (List.finRange 15).foldl Mod.pdFollow m

/-- Domains wanted or no longer wanted, at once. -/
def Mod.pdOn (m : Mod) (ds : List Nat) : Mod := (m.pdSet ds true).follow
def Mod.pdOff (m : Mod) (ds : List Nat) : Mod := (m.pdSet ds false).follow

/-- Register addresses by domain (R495): first and last + 1. -/
def pdRange (d : Nat) : List (Nat × Nat) :=
  match d with
  | 0 => [(0x03000, 0x04000)]
  | 1 => [(0x00000, 0x03000), (0x04000, 0x07000), (0x14000, 0x18000)]
  | 2 => [(0x78000, 0x80000)]
  | 3 => [(0x10000, 0x14000), (0x90000, 0xA0000)]
  | 6 => [(0x18000, 0x20000)]
  | 7 => [(0x20000, 0x30000)]
  | 8 => [(0x30000, 0x40000)]
  | 9 => [(0x40000, 0x60000)]
  | 10 => [(0x60000, 0x70000)]
  | 11 => [(0x70000, 0x70200)]
  | 12 => [(0x70200, 0x70400)]
  | 13 => [(0x80000, 0x90000)]
  | 14 => [(0x70400, 0x71000)]
  | _ => []

/-- The domain that holds a register (R495); none outside the blocks. -/
def pdOf (a : Nat) : Option Nat := (List.range 15).find? (fun d => (pdRange d).any (fun r => decide (r.1 ≤ a) && decide (a < r.2)))

/-- What stands behind a domain's registers is lost with it (R46, R70, R202, R319). The islands of the loop transmitters have their
own supply, and the always-on domain keeps its latches. -/
def Mod.pdLose (m : Mod) (d : Nat) : Mod :=
  match d with
  | 2 => { m with plan := { m.plan with drumA := [], drumB := [] }, clk := { m.clk with
      src := Vector.replicate 3 {}, selected := none, stepPending := none, pausedUntil := none, tsyncOut := false, everQual := false } }
  | 3 =>
    let m := { m with plan := { m.plan with active := none, armed := none, armSafe := none, armRecord := false, migrated := false, deferred := 0 }
                      mem := { m.mem with writes := [], before := [] }, orpor := {} }
    let x := m.get F.KEY_FW_STATUS_STAGE
    if 1 ≤ x ∧ x ≤ 3 then m.set F.KEY_FW_STATUS_STAGE 0 else m
  | 6 => { m with mem := { m.mem with cells := [], dir := [], pmap := [] } }
  | 7 => { m with loops := [], tests := Vector.replicate 4 {} }
  | 8 => { m with met := { jrn := m.met.jrn, tcompOk := m.met.tcompOk } }
  | 9 => { m with fio := { m.fio with
                    di := Vector.replicate 48 {}, cnt := Vector.replicate 8 {}, ai := Vector.replicate 16 {}, grpRetry := Vector.replicate 3 []
                    waitLaunch := [] }
                  safe := { latch := m.safe.latch, fails := m.safe.fails, blocked := m.safe.blocked, blockUntil := m.safe.blockUntil }
                  jack := { inputs := m.jack.inputs }
                  exec := { m.exec with safeCopy := none } }
  | 10 => { m with ports := {} }
  | 13 => { m with twin := {} }
  | 14 => { m with pool := {} }
  | _ => m

/-- A domain's registers at their reset values (R497). -/
def Mod.pdRegs (m : Mod) (d : Nat) : Mod := { m with regs := (pdRange d).foldl (fun rs r => regsClear rs r.1 r.2) m.regs }

/-- The domains a loaded plan needs (R469): PD7 with loops, PD10 where a port has a protocol. -/
def Mod.planDomains (m : Mod) : Mod :=
  match m.plan.active with
  | some pl =>
    let net := (List.range 19).any (fun p => pl.regImage.any (fun x => x.1 == R.FBUS_CFG p && bits x.2.toNat (F.FBUS_CFG_PROTO p).lo 4 != 0))
    ((m.pdSet [7] (!pl.loops.isEmpty)).pdSet [10] net).follow
  | none => (m.pdSet [7, 10] false).follow

/-! ### Uplinks and the pool: what other chapters ask of them (R321, R322) -/

/-- The staged registers of an uplink (R318), in address order. -/
def uplRegs (u : Nat) : List Nat :=
  [R.UPL_CFG u, R.UPL_SHIFT u, R.UPL_SHIFT_TIME u, R.UPL_VLAN u, R.UPL_IP4_ADDR u, R.UPL_IP4_MASK u, R.UPL_IP4_GW u,
   R.UPL_IP6 u 0, R.UPL_IP6 u 1, R.UPL_IP6 u 2, R.UPL_IP6 u 3, R.UPL_IP6_CFG u]

/-- A field of an uplink's settings in force (R318). -/
def Mod.uplSet (m : Mod) (u : Fin 2) (f : Nat → Fld) : Nat :=
  bits (m.upl[u].live.getD ((uplRegs u.val).idxOf (f u.val).addr) 0).toNat (f u.val).lo (f u.val).width

/-- The VID in force; 4,095 is taken as 0 (R325). -/
def Mod.uplVid (m : Mod) (u : Fin 2) : Nat := let v := m.uplSet u F.UPL_VLAN_VID; if v = 4095 then 0 else v

/-- The fixed floors of R320. -/
def poolFloor (c : Nat) : Nat := [32, 256, 32, 256, 32, 256, 32, 256, 64, 64, 160, 128].getD c 0

/-- Cells a channel holds, and free cells. -/
def Mod.poolUsed (m : Mod) (c : Nat) : Nat := (m.pool.frames.filter (fun f => f.ch == c)).foldl (fun a f => a + f.cells) 0
def Mod.poolFree (m : Mod) : Nat := 8192 - m.pool.frames.foldl (fun a f => a + f.cells) 0

/-- A channel's minimum and ceiling (R63, R320, R326). -/
def Mod.poolQuota (m : Mod) (c : Nat) : Nat × Nat :=
  match m.plan.active.bind (fun pl => pl.quotas.find? (fun q => q.1 == c)) with
  | some q => q.2
  | none => (poolFloor c, 8192 - (1568 - poolFloor c))

/-- Cells still owed to channels below their minimums. -/
def Mod.poolOwed (m : Mod) (c : Nat) : Nat :=
  (List.range 12).foldl (fun a d => if d = c then a else a + ((m.poolQuota d).1 - m.poolUsed d)) 0

/-- How many of `n` cells, claimed one at a time, a channel gets that holds `used` cells and finds `free` (R321). -/
def claimed (min ceil owed : Nat) : Nat → Nat → Nat → Nat
  | 0, _, _ => 0
  | n + 1, used, free =>
    if 0 < free ∧ (used < min ∨ (used < ceil ∧ owed < free)) then 1 + claimed min ceil owed n (used + 1) (free - 1) else 0

/-- Cells of a frame (R321). -/
def cellsOf (len : Nat) : Nat := min 6 (max 1 ((len + 255) / 256))

/-- A frame dropped and counted for its channel (R326). -/
def Mod.poolDrop (m : Mod) (c : Fin 12) : Mod := { m with pool := { m.pool with drop := m.pool.drop.set c (satNat 32 (m.pool.drop[c] + 1)) } }

/-- Since when an uplink's two transmit channels hold more than UP_THR cells, after the pool or the threshold changed (R313). -/
def Mod.poolMark (m : Mod) (u : Fin 2) : Mod :=
  let full := decide (max 1 (m.uplSet u F.UPL_SHIFT_UP_THR) < m.poolUsed (4 * u.val + 2) + m.poolUsed (4 * u.val + 3))
  { m with upl := m.upl.set u { m.upl[u] with fullAt := if full then some (m.upl[u].fullAt.getD m.clk.mono) else none } }

/-- A frame takes its cells, or is lost and counted (R321, R322): the cells of a partly written frame were held, and are released. The Boolean
tells whether it was stored. -/
def Mod.poolPut (m : Mod) (f : PoolFrame) : Mod × Bool :=
  let q := m.poolQuota f.ch
  let u := m.poolUsed f.ch
  let c : Fin 12 := Fin.ofNat 12 f.ch
  if m.isOn (swPd 14) && !m.flag F.FPOOL_STATUS_CLEARING then
    let n := claimed q.1 q.2 (m.poolOwed f.ch) f.cells u m.poolFree
    let m := { m with pool := { m.pool with peak := m.pool.peak.set c (max m.pool.peak[c] (u + n)) } }
    if n = f.cells then
      let m := { m with pool := { m.pool with frames := m.pool.frames ++ [{ f with at_ := m.clk.mono }] } }
      ((m.poolMark 0).poolMark 1, true)
    else (m.poolDrop c, false)
  else (m.poolDrop c, false)

/-- A frame lost after it was stored (R323). -/
def Mod.poolLose (m : Mod) (p : PoolFrame → Bool) : Mod :=
  let lost := m.pool.frames.filter p
  let m := { m with pool := { m.pool with
      frames := m.pool.frames.filter (fun f => !p f)
      drop := lost.foldl (fun v (f : PoolFrame) => v.set (Fin.ofNat 12 f.ch) (satNat 32 (v[Fin.ofNat 12 f.ch] + 1))) m.pool.drop } }
  (m.poolMark 0).poolMark 1

/-- EXEC_RETAIN shows which slots pass their check, and the newer of them (R122). -/
def Mod.retainShow (m : Mod) : Mod :=
  let a := m.retain[0]
  let b := m.retain[1]
  ((m.setB F.EXEC_RETAIN_VALID_A a.ok).setB F.EXEC_RETAIN_VALID_B b.ok).setB F.EXEC_RETAIN_NEWER (b.ok && (!a.ok || decide (a.seq < b.seq)))

/-! ### Backup domain and sessions closed -/

/-- Every session is closed; what they had in flight ends without a reply (R103, R336). -/
def Mod.closeAll (m : Mod) : Mod :=
  { m with orpor := { m.orpor with sessions := [], order := [], greet := [] }
           exec := { m.exec with serviceSession := none } }

end Sys2Proof.Machine
end

