-- ==== Sys2Proof/Machine/RealFns.lean ====
section
/-! DEFINITION. Sine, exponential, natural logarithm and inverse tangent in fixed point, in units of 2^-128 (R191,
R194, R207, R245). DESIGN CHOICE (log entry 6): the manual names these functions of real numbers and no precision; each is a series carried far beyond the precision of REAL32, and what a rule computes with it
is rounded once. -/

namespace Sys2Proof.Machine

/-- A REAL32 as an integer in units of 2^-149; NaN and infinities count as 0. -/
def fix (x : Nat) : Int := if fIsNan b32 x || fIsInf b32 x then 0 else fScaled b32 x (-149)
/-- A REAL32 as a fraction; NaN and infinities count as 0. -/
def fRat (x : Nat) : Rat := mkRat (fix x) (2 ^ 149)
/-- A fraction rounded to REAL32. -/
def ratF (q : Rat) : Nat := fOfRat b32 q.num q.den

/-- 1, 2π and ln 2 in units of 2^-128. -/
def fxOne : Int := 2 ^ 128
def fxTwoPi : Int := 2138057168129933495719360746323741566601
def fxLn2 : Int := 235865763225513294137944142764154484399

/-- The product of two fixed-point numbers. -/
def fxMul (a b : Int) : Int := (a * b) / fxOne

/-- `n` terms of the sine series from term `t` of order 2k + 1; `q` is the square of the angle. -/
def sinSeries (q : Int) : Nat → Nat → Int → Int
  | 0, _, _ => 0
  | n + 1, k, t => t + sinSeries q n (k + 1) (-(fxMul t q) / ((2 * k + 2) * (2 * k + 3) : Nat))

/-- The sine of n/d of a whole turn. -/
def sinTurn (n : Int) (d : Nat) : Int :=
  let f := n % d * fxOne / d
  let g := if 4 * f < fxOne then f else if 4 * f < 3 * fxOne then fxOne / 2 - f else f - fxOne
  let a := fxMul fxTwoPi g
  sinSeries (fxMul a a) 24 0 a

/-- `n` terms of the exponential series from term `t` of order k. -/
def expSeries (x : Int) : Nat → Nat → Int → Int
  | 0, _, _ => 0
  | n + 1, k, t => t + expSeries x n (k + 1) (fxMul t x / (k + 1 : Nat))

/-- e to the power −x for x ≥ 0. -/
def expNeg (x : Int) : Int :=
  let k := (x / fxLn2).toNat
  if 200 < k then 0 else expSeries (-(x % fxLn2)) 40 0 fxOne / 2 ^ k

/-- `n` terms of the series of the inverse hyperbolic tangent from z to the power 2k + 1; `q` is the square of z. -/
def atanhSeries (q : Int) : Nat → Nat → Int → Int
  | 0, _, _ => 0
  | n + 1, k, z => z / (2 * k + 1 : Nat) + atanhSeries q n (k + 1) (fxMul z q)

/-- The natural logarithm of n/d, both above 0. -/
def lnRat (n d : Nat) : Int :=
  let e : Int := (Nat.log2 n : Int) - Nat.log2 d
  let x : Int := if 0 ≤ e then (n * 2 ^ 128 : Nat) / ((d : Int) * 2 ^ e.toNat) else ((n * 2 ^ 128 : Nat) : Int) * 2 ^ (-e).toNat / d
  let z := (x - fxOne) * fxOne / (x + fxOne)
  2 * atanhSeries (fxMul z z) 60 0 z + e * fxLn2

/-- `n` terms of Euler's series of the inverse tangent from term `t` of order k; `q` is z² / (1 + z²). -/
def atanSeries (q : Int) : Nat → Nat → Int → Int
  | 0, _, _ => 0
  | n + 1, k, t => t + atanSeries q n (k + 1) (fxMul t q * (2 * k + 2 : Nat) / (2 * k + 3 : Nat))

/-- The inverse tangent of y/x for 0 ≤ y ≤ x, x above 0. -/
def atanRat (y x : Nat) : Int :=
  let s : Int := x * x + y * y
  atanSeries ((y * y : Nat) * fxOne / s) 120 0 ((x * y : Nat) * fxOne / s)

/-- The angle of the point (x, y) in radians, −π to π; 0 at the origin. -/
def angleOf (y x : Int) : Int :=
  let a := y.natAbs
  let b := x.natAbs
  let t := if a = 0 ∧ b = 0 then 0 else if a ≤ b then atanRat a b else fxTwoPi / 4 - atanRat b a
  let t := if x < 0 then fxTwoPi / 2 - t else t
  if y < 0 then -t else t

end Sys2Proof.Machine
end

