-- ==== Sys2Proof/Machine/FieldIo.lean ====
section
/-! DEFINITION. Field inputs and outputs and the loop transmitters (R232 to R259). -/

namespace Sys2Proof.Machine

/-! ### Digital inputs (R233 to R236) -/

def Mod.diMap (m : Mod) (n : Fin 48) (f : DiSt → DiSt) : Mod :=
  { m with fio := { m.fio with di := m.fio.di.set n (f m.fio.di[n]) } }

/-- CHAT_WIN of an input in TCXO cycles (R258: in 10 ms, 0 taken as 1). -/
def chatWin (m : Mod) (n : Nat) : Nat := max 1 (m.get (F.FIO_DI_CHAT_WIN n)) * 250000
/-- CHAT_N of an input (R258: 1 taken as 2). -/
def chatN (m : Mod) (n : Nat) : Nat := let v := m.get (F.FIO_DI_CHAT_N n); if v = 1 then 2 else v

/-- `cycles` of the TCXO have passed since the last change of an input's filtered state. -/
def Mod.diPast (m : Mod) (n : Fin 48) (cycles : Nat) : Bool :=
  match m.fio.di[n].changes with
  | t :: _ => decide (t + cycles ≤ m.clk.mono)
  | [] => true

/-- The changes of an input's filtered state within CHAT_WIN of now (R235): the instants of the last 255 are kept beside that of the change itself. -/
def chatCount (m : Mod) (n : Fin 48) : Nat :=
  (m.fio.di[n].changes.filter (fun t => decide (m.clk.mono < t + chatWin m n.val))).length

/-- DI_FILTER_CHANGE (R233): the filtered state, after INV, takes the level the samples have shown; the reported value follows unless CHATTER holds it; STUCK clears at a change to 0. -/
def execDiFilterChange (n : Fin 48) (level : Bool) (s : State) : Out :=
  onMod s fun m =>
    let new := level != m.flag (F.FIO_DI_CFG_INV n.val)
    let m := m.setB (F.FIO_DI_STATUS_RAW n.val) level
    if new = m.flag (F.FIO_DI_STATUS_FILTERED n.val) then m
    else
      let m := m.setB (F.FIO_DI_STATUS_FILTERED n.val) new
      let m := m.when (!m.flag (F.FIO_DI_STATUS_CHATTER n.val)) (fun m => m.setB (F.FIO_DI_STATUS_VALUE n.val) new)
      let m := m.when (!new) (fun m => m.set (F.FIO_DI_STATUS_STUCK n.val) 0)
      m.diMap n (fun d => { d with changes := (m.clk.mono :: d.changes).take 256 })

/-- DI_STUCK (R234): an input active for longer than MAXON takes STUCK; MAXON 0 disables the check. -/
def execDiStuck (n : Fin 48) (s : State) : Out :=
  onMod s fun m =>
    if m.get (F.FIO_DI_CFG_MAXON n.val) ≠ 0 ∧ m.flag (F.FIO_DI_STATUS_FILTERED n.val) ∧ !m.flag (F.FIO_DI_STATUS_STUCK n.val)
        ∧ m.diPast n (m.get (F.FIO_DI_CFG_MAXON n.val) * 25000000 + 1) then
      (m.set (F.FIO_DI_STATUS_STUCK n.val) 1).log .diStuck n.val []
    else m

/-- DI_CHATTER (R235): more than CHAT_N changes within CHAT_WIN: the reported value freezes at the state before the burst of toggling. -/
def execDiChatter (n : Fin 48) (s : State) : Out :=
  onMod s fun m =>
    if chatN m n.val ≠ 0 ∧ chatN m n.val < chatCount m n ∧ !m.flag (F.FIO_DI_STATUS_CHATTER n.val) then
      let before := m.flag (F.FIO_DI_STATUS_FILTERED n.val) != decide (chatCount m n % 2 = 1)
      let m := m.set (F.FIO_DI_STATUS_CHATTER n.val) 1
      let m := m.setB (F.FIO_DI_STATUS_VALUE n.val) before
      let m := m.addSat (F.FIO_DI_STATUS_EPISODES n.val) 1
      m.log .diChatter n.val []
    else m

/-- CHATTER_HOLD_EXPIRY (R235): after CHAT_HOLD without a change CHATTER clears and the reported value takes the filtered state. -/
def execChatterHoldExpiry (n : Fin 48) (s : State) : Out :=
  onMod s fun m =>
    if m.flag (F.FIO_DI_STATUS_CHATTER n.val) && m.diPast n (max 1 (m.get (F.FIO_DI_CHAT_HOLD n.val)) * 25000000) then
      (m.set (F.FIO_DI_STATUS_CHATTER n.val) 0).setB (F.FIO_DI_STATUS_VALUE n.val) (m.flag (F.FIO_DI_STATUS_FILTERED n.val))
    else m

/-! ### Counting inputs (R237 to R239) -/

def Mod.cntMap (m : Mod) (k : Fin 8) (f : CntSt → CntSt) : Mod :=
  { m with fio := { m.fio with cnt := m.fio.cnt.set k (f m.fio.cnt[k]) } }

/-- EDGE of a counter takes this edge (R258: 0 rising, 1 falling, 2 both, 3 taken as 0). -/
def edgeCounts (edge : Nat) (rising : Bool) : Bool :=
  match edge with | 1 => !rising | 2 => true | _ => rising

/-- COUNT_EDGE (R237): the 64-bit count rises by one for each edge that EDGE names, while counting is enabled. -/
def execCountEdge (k : Fin 8) (rising : Bool) (s : State) : Out :=
  onMod s fun m =>
    if m.flag (F.FIO_CNT_CFG_EN k.val) && edgeCounts (m.get (F.FIO_CNT_CFG_EDGE k.val)) rising then
      m.cntMap k (fun c => { c with count := (c.count + 1) % 2 ^ 64, window := c.window + 1 })
    else m

/-- A window of one counter ends (R238). -/
def windowEnd (m : Mod) (k : Fin 8) : Mod :=
  let e := m.fio.cnt[k].window
  let m := m.set (F.FIO_CNT_STATUS_RATE k.val) (satNat 16 e)
  let m := m.setB (F.FIO_CNT_STATUS_OVERSPEED k.val) (decide (100 < e))
  let m := m.when (decide (100 < e)) (fun m => m.set (F.FIO_CNT_STATUS_OVS_SEEN k.val) 1)
  m.cntMap k (fun c => { c with window := 0, ovr := if 100 < e then 255 else c.ovr })

/-- COUNT_WINDOW_END (R238): a 1 ms window ends for every counter; more than 100 edges set OVERSPEED. -/
def execCountWindowEnd (s : State) : Out :=
  onMod s fun m => (List.finRange 8).foldl windowEnd m

/-- COUNT_JOURNAL (R239): the counts go into the older slot with the next sequence number; the slot counts once its write has completed; while a write runs the copy is skipped and counted. -/
def execCountJournal (s : State) : Out :=
  onMod s fun m =>
    if journalWriting m.fio.cntJ then m.addSat F.FIO_CNT_JOURNAL_SKIPPED 1
    else { m with fio := { m.fio with cntJ := journalPut m.fio.cntJ (m.fio.cnt.toList.map (·.count)) } }

/-- A read of LO latches HI (R258). -/
def Mod.cntLatch (m : Mod) (k : Fin 8) : Mod := m.cntMap k (fun c => { c with hi := some (c.count / 2 ^ 32) })

/-- FIO_CNT_LO_READ (R258): a read of LO latches HI until HI is read. -/
def execFioCntLoRead (k : Fin 8) (s : State) : Out :=
  onMod s fun m => m.cntLatch k

/-! ### Digital outputs (R240 to R242) -/

/-- DO_SHORT (R240): SC is set and the channel is off; with RETRY 0 the latch is set. -/
def execDoShort (n : Fin 24) (s : State) : Out :=
  onMod s fun m =>
    if m.pinOn ⟨n.val, by omega⟩ then
      let m := m.set (F.FIO_DO_STATUS_SC n.val) 1
      let m := m.when (!m.flag (F.FIO_DO_CFG_RETRY n.val)) (fun m => m.set (F.FIO_DO_STATUS_SC_LATCHED n.val) 1)
      ((m.set (F.FIO_DO_STATUS_OPENLOAD n.val) 0).fioMark (tmShort n.val)).log .doShort n.val []
    else m

/-- DO_SHORT_RETRY (R240): with RETRY 1 the trip ends 1 s later while the value in force is 1. -/
def execDoShortRetry (n : Fin 24) (s : State) : Out :=
  onMod s fun m =>
    if m.flag (F.FIO_DO_CFG_RETRY n.val) && m.flag (F.FIO_DO_STATUS_SC n.val) && m.fioPast (tmShort n.val) 25000000 && m.source ⟨n.val, by omega⟩ == .on then
      m.set (F.FIO_DO_STATUS_SC n.val) 0
    else m

/-- DO_THERMAL_TRIP (R240): the channel is off and THERMAL is set. -/
def execDoThermalTrip (n : Fin 24) (s : State) : Out :=
  onMod s fun m => (m.set (F.FIO_DO_STATUS_THERMAL n.val) 1).set (F.FIO_DO_STATUS_OPENLOAD n.val) 0

/-- DO_THERMAL_RECOVER (R240): THERMAL clears; the channel is on again if the value in force is 1. -/
def execDoThermalRecover (n : Fin 24) (s : State) : Out :=
  onMod s fun m => m.set (F.FIO_DO_STATUS_THERMAL n.val) 0

/-- DO_GROUP_TRIP (R240): above 3.4 A all eight outputs of the group are off; the current measured is shown. -/
def execDoGroupTrip (g : Fin 3) (ma : BitVec 16) (s : State) : Out :=
  onMod s fun m =>
    if m.flag (F.FIO_DO_GRP_TRIP g.val) || decide (ma.toNat ≤ 3400) then m
    else
      let m := m.set (F.FIO_DO_GRP_TRIP g.val) 1
      let m := m.set (F.FIO_DO_GRP_CURRENT g.val) ma.toNat
      (m.openSettle.fioMark (tmGroup g.val)).log .doGroup g.val []

/-- The retries of a group within the last 60 s (R240: 1,500,000,000 TCXO cycles). -/
def recentRetries (m : Mod) (g : Fin 3) : List Nat :=
  m.fio.grpRetry[g].filter (fun t => decide (m.clk.mono < t + 1500000000))

/-- DO_GROUP_RETRY (R240): after 5 s the group tries again, at most 3 times in any 60 s; after that it is latched. -/
def execDoGroupRetry (g : Fin 3) (s : State) : Out :=
  onMod s fun m =>
    if m.flag (F.FIO_DO_GRP_TRIP g.val) ∧ !m.flag (F.FIO_DO_GRP_LATCHED g.val) ∧ m.fioPast (tmGroup g.val) 125000000 then
      let r := recentRetries m g
      if r.length < 3 then
        let m := { m with fio := { m.fio with grpRetry := m.fio.grpRetry.set g (m.clk.mono :: r) } }
        (m.set (F.FIO_DO_GRP_TRIP g.val) 0).set (F.FIO_DO_GRP_RETRIES g.val) (r.length + 1)
      else m.set (F.FIO_DO_GRP_LATCHED g.val) 1
    else m

/-- A group's latch is cleared and it retries at once (R240, R258). -/
def Mod.grpClear (m : Mod) (g : Nat) : Mod :=
  if m.flag (F.FIO_DO_GRP_LATCHED g) then (m.set (F.FIO_DO_GRP_LATCHED g) 0).set (F.FIO_DO_GRP_TRIP g) 0 else m

/-- An output's short-circuit latch is cleared and it retries. -/
def Mod.scClear (m : Mod) (n : Nat) : Mod :=
  if m.flag (F.FIO_DO_STATUS_SC_LATCHED n) then (m.set (F.FIO_DO_STATUS_SC_LATCHED n) 0).set (F.FIO_DO_STATUS_SC n) 0 else m

/-- DO_GROUP_LATCH_CLEAR (R258): a write of 1 from an OPERATOR session of scope 0 or a SERVICE session. -/
def execDoGroupLatchClear (h : BitVec 10) (g : Fin 3) (s : State) : Out :=
  onMod s fun m => m.when (m.isO0V h.toNat) (fun m => m.grpClear g.val)

/-- DO_SC_LATCH_CLEAR (R258): a write of 1 from an OPERATOR session of scope 0 or a SERVICE session. -/
def execDoScLatchClear (h : BitVec 10) (n : Fin 24) (s : State) : Out :=
  onMod s fun m => m.when (m.isO0V h.toNat) (fun m => m.scClear n.val)

/-- VAUX_LOST (R240): below 16 V: every DO is off, VAUX_LOST is set and EV_VAUX_LOW logged. -/
def execVauxLost (mv : BitVec 16) (s : State) : Out :=
  onMod s fun m =>
    if 16000 ≤ mv.toNat then m
    else
      let m := (m.set F.FIO_STATUS_VAUX_OK 0).set F.FIO_STATUS_VAUX_LOST 1
      let m := m.set F.PWR_STATUS_VAUX_OK 0
      let m := m.set F.PWR_VAUX_MV mv.toNat
      let m := m.set F.PWR_VAUX_MIN_MV (min mv.toNat (m.get F.PWR_VAUX_MIN_MV))
      m.openSettle.log .vauxLow 0 []

/-- VAUX_RESTORED (R240): above 17 V: the DO outputs are released. -/
def execVauxRestored (mv : BitVec 16) (s : State) : Out :=
  onMod s fun m =>
    if mv.toNat ≤ 17000 then m
    else
      let m := (m.set F.FIO_STATUS_VAUX_OK 1).set F.PWR_STATUS_VAUX_OK 1
      m.set F.PWR_VAUX_MV mv.toNat

/-- DO_OPENLOAD (R241): 100 ms below 2 mA on an output that is on set OPENLOAD where it is enabled; 100 ms at or above clear it. -/
def execDoOpenload (n : Fin 24) (ma : BitVec 16) (s : State) : Out :=
  onMod s fun m =>
    let m := m.set (F.FIO_DO_STATUS_CURRENT n.val) ma.toNat
    if ma.toNat < 2 then
      m.when (m.flag (F.FIO_DO_CFG_OPENLOAD_EN n.val) && m.pinOn ⟨n.val, by omega⟩) (fun m => m.set (F.FIO_DO_STATUS_OPENLOAD n.val) 1)
    else m.set (F.FIO_DO_STATUS_OPENLOAD n.val) 0

/-! ### Analog inputs (R243 to R245) -/

def Mod.aiMap (m : Mod) (n : Fin 16) (f : AiSt → AiSt) : Mod :=
  { m with fio := { m.fio with ai := m.fio.ai.set n (f m.fio.ai[n]) } }

/-- Ends of the measurement span and of the range without RANGE, of modes 1 to 5 (R243), as REAL32. -/
structure AiMode where
  spanLo : Nat
  spanHi : Nat
  okLo : Option Nat
  okHi : Nat

def aiMode (mode : Nat) : AiMode :=
  match mode with
  | 1 => ⟨0xBF000000, 0x41300000, some 0xBE4CCCCD, 0x41280000⟩
  | 2 => ⟨0, 0x41C00000, none, 0x41A80000⟩
  | 3 => ⟨0, 0x41C00000, some 0x40666666, 0x41A80000⟩
  | 4 => ⟨0xC2C80000, 0x43C80000, some 0xC2480000, 0x43480000⟩
  | _ => ⟨0xC2480000, 0x43160000, some 0xC2200000, 0x42FA0000⟩

/-- The polynomial of R245 below 1,000 Ω, in Ω at a temperature of t µ°C. -/
def rtdPoly (t : Int) : Rat :=
  let x : Rat := mkRat t 1000000
  1000 * (1 + mkRat 39083 10000000 * x - mkRat 5775 10000000000 * x * x - mkRat 4183 1000000000000000 * (x - 100) * x * x * x)

/-- The highest temperature in µ°C at which the polynomial does not exceed `r`, by halving from `t` upwards; the polynomial rises from −250 °C on. -/
def rtdSolve (r : Rat) : Nat → Int → Int
  | 0, t => t
  | n + 1, t => rtdSolve r n (if rtdPoly (t + 2 ^ n) ≤ r then t + 2 ^ n else t)

/-- The temperature of a Pt1000 (R245): the closed form from 1,000 Ω on; below it the solution of the polynomial to within 0.001 °C, where in that
range it lies being free (log entry 6). -/
def pt1000 (r : Nat) : Nat :=
  if fIsNan b32 r || fIsInf b32 r then r
  else if fRat r < 1000 then
    let e : Int := (Config.rtdError (BitVec.ofNat 32 r)).toNat % 1999
    ratF (mkRat (rtdSolve (fRat r) 28 (-250000000) + e - 999) 1000000)
  else
    let a : Rat := mkRat 39083 10000000
    let b : Rat := mkRat (-5775) 10000000000
    let d := a * a - 4 * b * (1 - fRat r / 1000)
    let root : Rat := mkRat (isqrt (d.num.toNat * 2 ^ 400 / d.den) 280 0) (2 ^ 200)
    ratF ((root - a) / (2 * b))

/-- The temperature of an NTC (R245): the formula's value rounded once (log entry 6); where the formula has none, of a resistance not above 0 or
parameters without a quotient, a free value (log entry 2). -/
def ntc (r rnom beta : Nat) : Nat :=
  let x := fRat r
  let y := fRat rnom
  let q : Rat := if x.num ≤ 0 ∨ y.num ≤ 0 ∨ (fRat beta).num = 0 then 0
    else mkRat 100 29815 + mkRat (lnRat (x.num.toNat * y.den) (x.den * y.num.toNat)) fxOne.toNat / fRat beta
  if fIsNan b32 r || fIsInf b32 r || q = 0 then (Config.ntcOpen (BitVec.ofNat 32 r)).toNat
  else ratF (1 / q - mkRat 27315 100)

/-- The conversion period in ms (R244), as REAL32; modes 4 and 5 take CONV 0 as CONV 1. -/
def aiPeriod (mode conv : Nat) : Nat :=
  match (if conv = 0 && (mode == 4 || mode == 5) then 1 else conv) with
  | 0 => 0x3F800000
  | 1 => 0x41A00000
  | 2 => fOfRat b32 1000 60
  | _ => 0x42C80000

/-- The unscaled measurement in V, mA or °C of what stands at the terminals (R243, R245); PROT gives the upper end. -/
def aiMeasure (m : Mod) (n : Nat) (mode : Nat) (x : Nat) : Nat :=
  if m.flag (F.FIO_AI_STATUS_PROT n) then 0x41C00000
  else match mode with
    | 4 => pt1000 (fSub b32 x (m.get (F.FIO_AI_PARAM1_P1 n)))
    | 5 => ntc x (m.get (F.FIO_AI_PARAM1_P1 n)) (m.get (F.FIO_AI_PARAM2_P2 n))
    | _ => x

/-- A measurement limited to the span and scaled in modes 1 to 3 (R243, R245). -/
def aiScale (m : Mod) (n mode x : Nat) : Nat :=
  let a := aiMode mode
  let v := limF a.spanLo a.spanHi x
  if mode ≤ 3 then
    let lo := aoLo mode
    let hi := aoHi mode
    let sl := m.get (F.FIO_AI_SC_LO_SC n)
    let sh := m.get (F.FIO_AI_SC_HI_SC n)
    fAdd b32 sl (fDiv b32 (fMul b32 (fSub b32 v lo) (fSub b32 sh sl)) (fSub b32 hi lo))
  else v

/-- AI_CONVERSION (R244): a conversion of `x` (V, mA or Ω) completes: RANGE, OPEN and SHORT are judged on the unscaled measurement, the value passes through the scaling and the filter. -/
def execAiConversion (n : Fin 16) (x : BitVec 32) (s : State) : Out :=
  onMod s fun m =>
    let mode := let v := m.get (F.FIO_AI_CFG_MODE n.val); if 5 < v then 0 else v
    let m := m.addWrap (F.FIO_AI_STATUS_CONVS n.val) 1
    if mode = 0 then
      ((m.set (F.FIO_AI_STATUS_RANGE n.val) 1).set (F.FIO_AI_VALUE_VALUE n.val) 0).aiMap n (fun a => { a with first := true, y := 0 })
    else
      let a := aiMode mode
      let u := aiMeasure m n.val mode x.toNat
      let isOpen := 4 ≤ mode && (if mode = 4 then fLt b32 a.spanHi u else fLt b32 u a.spanLo)
      let isShort := 4 ≤ mode && (if mode = 4 then fLt b32 u a.spanLo else fLt b32 a.spanHi u)
      let range := isOpen || isShort || m.flag (F.FIO_AI_STATUS_PROT n.val) || fLt b32 a.okHi u
        || (match a.okLo with | some l => fLt b32 u l | none => false)
      let v := aiScale m n.val mode u
      let tau := m.get (F.FIO_AI_CFG_TAU n.val)
      let t := aiPeriod mode (m.get (F.FIO_AI_CFG_CONV n.val))
      let y := if !m.fio.ai[n].first || tau = 0 then v
        else
          let y0 := (m.fio.ai[n].y).toNat
          fAdd b32 y0 (fDiv b32 (fMul b32 (fSub b32 v y0) t) (fAdd b32 (fOfInt b32 tau) t))
      let m := m.setB (F.FIO_AI_STATUS_RANGE n.val) range
      let m := m.setB (F.FIO_AI_STATUS_OPEN n.val) isOpen
      let m := m.setB (F.FIO_AI_STATUS_SHORT n.val) isShort
      (m.set (F.FIO_AI_VALUE_VALUE n.val) y).aiMap n (fun a => { a with first := true, y := BitVec.ofNat 32 y })

/-- AI_PROT_TRIP (R243): in modes 2 and 3 the burden is disconnected and PROT set. -/
def execAiProtTrip (n : Fin 16) (s : State) : Out :=
  onMod s fun m =>
    let mode := m.get (F.FIO_AI_CFG_MODE n.val)
    if mode = 2 ∨ mode = 3 then ((m.set (F.FIO_AI_STATUS_PROT n.val) 1).set (F.FIO_AI_STATUS_RANGE n.val) 1).fioMark (tmProt n.val) else m

/-- AI_PROT_RECONNECT (R243): the burden reconnects after 1 s. -/
def execAiProtReconnect (n : Fin 16) (s : State) : Out :=
  onMod s fun m => m.when (m.fioPast (tmProt n.val) 25000000) (fun m => m.set (F.FIO_AI_STATUS_PROT n.val) 0)

/-! ### Analog outputs (R248) -/

/-- AO_FAULT (R248): mode 1: OVLD; modes 2 and 3: OPEN; set where the condition is present, cleared once it has been absent for 100 ms. -/
def execAoFault (n : Fin 8) (present : Bool) (s : State) : Out :=
  onMod s fun m =>
    match m.get (F.FIO_AO_CFG_MODE n.val) with
    | 0 => m
    | 1 => m.setB (F.FIO_AO_STATUS_OVLD n.val) present
    | _ => m.setB (F.FIO_AO_STATUS_OPEN n.val) present

/-! ### Loop transmitters (R250 to R256) -/

def Mod.ltMap (m : Mod) (n : Fin 8) (f : LtSt → LtSt) : Mod :=
  { m with fio := { m.fio with lt := m.fio.lt.set n (f m.fio.lt[n]) } }

/-- The current a command frame carries now: none while no current is commanded (R254). -/
def ltCommand (m : Mod) (n : Fin 8) : Option Word :=
  match m.pin ⟨40 + n.val, by omega⟩ with
  | .value w => some w
  | _ => none

/-- A frame reaches its island: the first after a loss applies its current at once (R254); another waits for its
20 µs (R251). -/
def ltFrame (m : Mod) (n : Fin 8) : Mod :=
  match ltCommand m n with
  | none => m
  | some w =>
    m.ltMap n (fun i =>
      if !i.powered then i
      else if i.holding || i.atAlarm then
        { i with cur := w, pend := none, holding := false, atAlarm := false }
      else { i with pend := some w })

/-- LT_COMMAND_FRAME (R251): the regular frame carries the command in force; LTX.CMD shows it. -/
def execLtCommandFrame (n : Fin 8) (s : State) : Out :=
  onMod s fun m =>
    let m := match ltCommand m n with
      | some w => m.set (F.LTX_CMD_CMD n.val) w.toNat
      | none => m
    let m := ltFrame m n
    m.setB (F.LTX_STATUS_AT_ALARM n.val) (m.fio.lt[n].atAlarm)

/-- LT_CURRENT_APPLY (R251): the island applies the current its frame carried. -/
def execLtCurrentApply (n : Fin 8) (s : State) : Out :=
  onMod s fun m =>
    m.ltMap n (fun i => match i.pend with | some w => { i with cur := w, pend := none } | none => i)

/-- 0.1 mA and 0.05 mA (R252) as REAL32. -/
def ltShortMa : Nat := 0x3DCCCCCD
def ltCloseMa : Nat := 0x3D4CCCCD

/-- LT_REPORT (R251): the measured current and terminal voltage; four short measurements set COMPLIANCE, four close ones clear it; OPEN clears. -/
def execLtReport (n : Fin 8) (ma : BitVec 32) (termV : BitVec 8) (s : State) : Out :=
  onMod s fun m =>
    let cmd := m.get (F.LTX_CMD_CMD n.val)
    let diff := fSub b32 cmd ma.toNat
    let short := if fLt b32 ltShortMa diff then m.fio.lt[n].short + 1 else 0
    let close := if fLe b32 (fAbs b32 diff) ltCloseMa then m.fio.lt[n].close + 1 else 0
    let m := m.set (F.LTX_READ_READ n.val) ma.toNat
    let m := m.set (F.LTX_STATUS_TERMV n.val) termV.toNat
    let m := (m.set (F.LTX_STATUS_LINK n.val) 1).set (F.LTX_STATUS_OPEN n.val) 0
    let m := (m.ltMap n (fun i => { i with short := min short 4, close := min close 4 })).fioMark (tmReport n.val)
    let m := m.when (decide (4 ≤ short) && !m.flag (F.LTX_STATUS_COMPLIANCE n.val)) (fun m =>
      ((m.set (F.LTX_STATUS_COMPLIANCE n.val) 1).addSat (F.LTX_STATUS_COMPL_EVENTS n.val) 1).log .ltCompliance n.val [])
    m.when (decide (4 ≤ close)) (fun m => m.set (F.LTX_STATUS_COMPLIANCE n.val) 0)

/-- LT_OPEN (R253): no report for 20 ms: OPEN is set and EV_LT_OPEN logged. -/
def execLtOpen (n : Fin 8) (s : State) : Out :=
  onMod s fun m =>
    if m.flag (F.LTX_STATUS_OPEN n.val) || !m.fioPast (tmReport n.val) 500000 then m
    else ((m.set (F.LTX_STATUS_OPEN n.val) 1).set (F.LTX_STATUS_LINK n.val) 0).log .ltOpen n.val []

/-- LT_FRAME_LOSS (R254): no command frame for 10 ms by the island's own clock: the island holds its last current. -/
def execLtFrameLoss (n : Fin 8) (s : State) : Out :=
  onMod s fun m => m.ltMap n (fun i => if i.powered then { i with holding := true, pend := none } else i)

/-- LT_HOLD_EXPIRY (R254): LT_HOLD has passed without frames: the island goes to its alarm level. -/
def execLtHoldExpiry (n : Fin 8) (s : State) : Out :=
  onMod s fun m =>
    if m.fio.lt[n].holding then
      let m := m.ltMap n (fun i => { i with cur := alarmMa i.alarmHigh, atAlarm := true })
      m.set (F.LTX_STATUS_AT_ALARM n.val) 1
    else m

/-- LT_MODEM_CHAR (R256): the character enters the island's 256-byte buffer, or is dropped and sets RX_OVF. -/
def execLtModemChar (n : Fin 8) (c : BitVec 8) (parityErr : Bool) (s : State) : Out :=
  onMod s fun m =>
    let m := m.when parityErr (fun m => m.set (F.LTX_MODEM_PARITY_ERR n.val) 1)
    if !m.fio.lt[n].modemEn then m
    else if m.fio.lt[n].rx.length < 256 then
      let m := m.ltMap n (fun i => { i with rx := i.rx ++ [c] })
      m.set (F.LTX_MODEM_RX_LEVEL n.val) (m.fio.lt[n].rx.length)
    else m.set (F.LTX_MODEM_RX_OVF n.val) 1

/-- ISLAND_POWER_UP (R253): the island regulates at 3.50 mA until its first frame; the module writes its configuration (R253, R255). -/
def execIslandPowerUp (n : Fin 8) (s : State) : Out :=
  onMod s fun m =>
    m.ltMap n (fun i => { i with
      powered := true, cur := alarmMa false, pend := none, holding := false, atAlarm := false
      alarmHigh := if m.flag (F.LTX_CFG_EN n.val) then m.flag (F.LTX_CFG_ALARM n.val) else i.alarmHigh
      holdTenths := if m.flag (F.LTX_CFG_EN n.val) then min 600 (m.get (F.LTX_CFG_HOLD n.val)) else i.holdTenths
      modemEn := if m.flag (F.LTX_CFG_EN n.val) then m.flag (F.LTX_CFG_MODEM_EN n.val) else i.modemEn })

end Sys2Proof.Machine
end

