-- ==== Sys2Proof/Machine/Jack.lean ====
section
/-! DEFINITION. The Jack path (R163 to R169). -/

namespace Sys2Proof.Machine

/-- Fields of a Jack entry (R163). -/
def jIn (e : BitVec 64) (k : Nat) : Nat := bits e.toNat (5 * k) 5
def jLut (e : BitVec 64) : Nat := bits e.toNat 20 16
def jOut (e : BitVec 64) : Nat := bits e.toNat 36 5
def jLevel (e : BitVec 64) : Bool := bitAt e.toNat 41
def jLatch (e : BitVec 64) : Bool := bitAt e.toNat 42
def jEn (e : BitVec 64) : Bool := bitAt e.toNat 43
def jRelease (e : BitVec 64) : Nat := bits e.toNat 48 16

/-- The level of an input code (R164): code 31 reads 0. -/
def jInput (inp : BitVec 24) (code : Nat) : Nat := if code < 24 then b2n (inp.getLsbD code) else 0

/-- An entry's condition (R163): the bit of its truth table that its inputs name. -/
def jCond (inp : BitVec 24) (e : BitVec 64) : Bool :=
  bitAt (jLut e) (jInput inp (jIn e 3) * 8 + jInput inp (jIn e 2) * 4 + jInput inp (jIn e 1) * 2 + jInput inp (jIn e 0))

/-- An output code (R164) as an output number: DO 0 to 23, SO channels 24 to 31. -/
def jTarget (e : BitVec 64) : Nat := if jOut e < 24 then jOut e else jOut e + 8

/-- An entry names a safety output (R164). -/
def jSafety (e : BitVec 64) : Bool := decide (24 ≤ jOut e)

def Mod.jackTable (m : Mod) : List (BitVec 64) := (m.plan.active.map (·.jack)).getD []

/-- An entry is active (R165): EN and its condition, or its latch. -/
def jActive (inp : BitVec 24) (latched : List Nat) (i : Nat) (e : BitVec 64) : Bool :=
  jEn e && (jCond inp e || (jLatch e && latched.contains i))

/-- What the active entries drive at an output (R166): LEVEL 0 if any of them has LEVEL 0. -/
def jLevelAt (tbl : List (BitVec 64)) (active : List Nat) (o : Nat) : Option Bool :=
  let l := active.filterMap (fun i => match tbl[i]? with | some e => if jTarget e = o then some (jLevel e) else none | none => none)
  if l.isEmpty then none else some (l.all id)

/-- The Jack path evaluated anew (R165, R166, R169): a newly active entry sets its JACK_HIT bit and logs EV_JACK with
the building time captured to 40 ns. -/
def Mod.jackEval (m : Mod) : Mod :=
  if !m.jack.enabled then m
  else
    let tbl := m.jackTable
    let act := (List.range tbl.length).filter (fun i => match tbl[i]? with | some e => jActive m.jack.inputs m.jack.latched i e | none => false)
    let new := act.filter (fun i => !m.jack.active.contains i)
    let lat := act.filter (fun i => match tbl[i]? with | some e => jLatch e | none => false)
    let m := { m with jack := { m.jack with active := act, latched := lat } }
    let m := { m with outs := Vector.ofFn (fun o : Fin 48 => { m.outs[o] with jack := jLevelAt tbl act o.val }) }
    let m := m.openSettle.set F.JACK_STATUS_ACTIVE act.length
    let m := m.set (F.JACK_ACT_ACT 0) ((act.filter (· < 32)).foldl (fun a i => a + 2 ^ i) 0)
    let m := m.set (F.JACK_ACT_ACT 1) ((act.filter (32 ≤ ·)).foldl (fun a i => a + 2 ^ (i - 32)) 0)
    new.foldl (fun m i =>
      let m := m.set (F.JACK_HIT_HIT (i / 32)) (m.get (F.JACK_HIT_HIT (i / 32)) ||| 2 ^ (i % 32))
      m.log .jack i (leBytes 1 i ++ leBytes 8 (m.clk.ns / 40 * 40))) m

/-- The Jack path is enabled (R111, R168): every latch starts released, and entries whose condition is 1 act at once. -/
def Mod.jackEnable (m : Mod) : Mod :=
  (({ m with jack := { m.jack with enabled := true, active := [], latched := [] } }).set F.JACK_STATUS_EN 1).jackEval

/-- A latch is released where the condition is no longer 1 (R167). -/
def Mod.jackRelease (m : Mod) (i : Nat) : Mod :=
  match m.jackTable[i]? with
  | some e =>
    if m.jack.latched.contains i && !jCond m.jack.inputs e then
      ({ m with jack := { m.jack with latched := m.jack.latched.filter (· != i) } }).jackEval
    else m
  | none => m

/-- An entry holds a latch that a release would end (R167). -/
def jReleasable (m : Mod) (i : Nat) : Bool :=
  match m.jackTable[i]? with
  | some e => m.jack.latched.contains i && !jCond m.jack.inputs e
  | none => false

/-- JACK_INPUT_CHANGE (R165): an input's comparator takes a level; entries activate or withdraw. -/
def execJackInputChange (i : Fin 24) (level : Bool) (s : State) : Out :=
  onMod s fun m =>
    ({ m with jack := { m.jack with inputs := BitVec.ofNat 24 (putBits m.jack.inputs.toNat i.val 1 (b2n level)) } }).jackEval

/-- JACK_RELEASE_TIMEOUT (R167): the entry releases itself where RELEASE_MS is not 0 and its condition is false. -/
def execJackReleaseTimeout (i : Fin 64) (s : State) : Out :=
  onMod s fun m =>
    match m.jackTable[i.val]? with
    | some e => if jRelease e = 0 then m else m.jackRelease i.val
    | none => m

/-- JACK_RESET.ENTRY by a session (R167). -/
def Mod.jackReset (m : Mod) (h i : Nat) : Mod :=
  match m.jackTable[i]? with
  | none => m
  | some e =>
    if jSafety e then
      if m.isUnlocked h && !m.logs.changeFull then (m.changeAct 3 h i i (jReleasable m i)).jackRelease i else m
    else if m.isO0V h then m.jackRelease i
    else m

/-- JACK_RESET.ALL by a session: safety entries without a latch give no record. -/
def Mod.jackResetAll (m : Mod) (h : Nat) : Mod :=
  (List.range m.jackTable.length).foldl (fun m i =>
    match m.jackTable[i]? with
    | none => m
    | some e => if jSafety e && !m.jack.latched.contains i then m else m.jackReset h i) m

/-- JACK_RESET (R167): a safety entry needs a SAFETY session with an unlock window and room in the change log: kind 3, and kind 6 where nothing is released; another entry needs O0 or V. -/
def execJackReset (h : BitVec 10) (i : Fin 64) (s : State) : Out :=
  onMod s fun m => m.jackReset h.toNat i.val

/-- JACK_RESET_ALL (R172): every entry the session may release; each safety entry that holds a latch gives its own change records. -/
def execJackResetAll (h : BitVec 10) (s : State) : Out :=
  onMod s fun m => m.jackResetAll h.toNat

/-- JACK_COMPARE (R271): the two copies of the Jack logic differ: a module safety fault with cause 2 where PD9 is powered. -/
def execJackCompare (s : State) : Out :=
  onMod s fun m => if m.isOn (swPd 9) then m.safetyFault 2 else m

end Sys2Proof.Machine
end

