-- ==== Sys2Proof/Machine/Operands.lean ====
section
/-! DEFINITION. The operand forms of Bluot instructions (R126, R128): how an instruction is spelled in its 32-bit words,
and how a lane reaches registers, points, constants and block members in its tile buffer (R123, R124, R137, R140, R141). -/

namespace Sys2Proof.Machine

/-! ### Instruction words (R128, R129) -/

/-- Opcode and destination register. -/
def encOp (op d : Nat) : Nat := op * 2 ^ 24 + d * 2 ^ 20

/-- Form N. -/
def encN (op : Nat) (d : Fin 16) : Nat := encOp op d.val
/-- Form P: a point index. -/
def encP (op : Nat) (d : Fin 16) (p : BitVec 13) : Nat := encOp op d.val + p.toNat
/-- Form I and form B: an immediate or offset of 20 bits. -/
def encI (op : Nat) (d : Fin 16) (i : BitVec 20) : Nat := encOp op d.val + i.toNat
/-- Form K: a constant index. -/
def encK (op : Nat) (d : Fin 16) (k : BitVec 13) : Nat := encOp op d.val + k.toNat
/-- Form KX, first word. -/
def encKX (op : Nat) (d s : Fin 16) (k : BitVec 13) : Nat := encOp op d.val + s.val * 2 ^ 16 + k.toNat
/-- Form R. -/
def encR (op : Nat) (d s t : Fin 16) : Nat := encOp op d.val + s.val * 2 ^ 16 + t.val * 2 ^ 12
/-- Form RI. -/
def encRI (op : Nat) (d s : Fin 16) (i : BitVec 16) : Nat := encOp op d.val + s.val * 2 ^ 16 + i.toNat
/-- Form C: the condition in [3:0]. -/
def encC (op : Nat) (d s t : Fin 16) (c : Nat) : Nat := encR op d s t + c
/-- Form M: instance number and member word. -/
def encM (op : Nat) (d : Fin 16) (n : BitVec 14) (w : BitVec 5) : Nat := encOp op d.val + w.toNat * 2 ^ 14 + n.toNat
/-- Form MX, second word. -/
def encMX2 (s : Fin 16) (cnt : BitVec 5) : Nat := s.val + cnt.toNat * 2 ^ 8
/-- Form RPT: count − 1 and body length. -/
def encRPT (op : Nat) (d : Fin 16) (c : BitVec 9) (b : BitVec 11) : Nat := encOp op d.val + c.toNat * 2 ^ 11 + b.toNat
/-- Form F: an instance number. -/
def encF (op : Nat) (d : Fin 16) (n : BitVec 14) : Nat := encOp op d.val + n.toNat

/-! ### Condition codes of form C (R128) -/

def condCode : Cond → Nat
  | .eq => 0 | .ne => 1 | .lt => 2 | .le => 3 | .gt => 4 | .ge => 5

/-- A condition on two integers. -/
def condInt (c : Cond) (a b : Int) : Bool :=
  match c with
  | .eq => decide (a = b) | .ne => decide (a ≠ b) | .lt => decide (a < b)
  | .le => decide (a ≤ b) | .gt => decide (b < a) | .ge => decide (b ≤ a)

/-! ### Registers by type (R126) -/

def asI32 (v : Long) : Int := toInt 32 v.toNat
def asI64 (v : Long) : Int := v.toInt
def asF32 (v : Long) : Nat := v.toNat % 2 ^ 32
def asBool (v : Long) : Bool := v.getLsbD 0
/-- An INT32 result: its sign extension. -/
def ofI32 (i : Int) : Long := BitVec.ofInt 64 i
def ofI64 (i : Int) : Long := BitVec.ofInt 64 i
def ofF32 (x : Nat) : Long := BitVec.ofNat 64 (x % 2 ^ 32)
def ofBoolL (b : Bool) : Long := if b then 1 else 0

/-! ### The lane's reach (R123, R124) -/

/-- A register written with its quality tag; bits [15:11] of a tag are always 0 (R131). -/
def Lane.wr (ln : Lane) (d : Fin 16) (v : Long) (q : Tag) : Lane :=
  { ln with l := ln.l.set d v, q := ln.q.set d (q &&& 0x07FF#16) }

/-- Only the tag written. -/
def Lane.wrQ (ln : Lane) (d : Fin 16) (q : Tag) : Lane := { ln with q := ln.q.set d (q &&& 0x07FF#16) }

/-- The tile-buffer entry that holds a tile; past the last entry where it is not loaded (check 6 of R76 shuts this
out: log entry 8). -/
def Lane.entry (ln : Lane) (t : Nat) : Nat := ln.tiles.idxOf t

/-- The 32-bit word at a word index of the task's code: its code tiles stand first in the buffer (R124). -/
def Lane.word (ln : Lane) (i : Nat) : Nat := ofLe (memReadN 0 ln.buf (4 * i) 4)

/-- The lane runs copy B of a SAFETY task (R265). -/
def Lane.copyB (m : Mod) (ln : Lane) : Bool := ((ln.task.bind m.taskDef).map (·.safetyCopy)).getD 0 == 2

/-- Tile and slot of a point's record for the running task: by the point map (R126), in copy B its private record (R265). -/
def recPlace (m : Mod) (ln : Lane) (p : Nat) : Nat × Nat :=
  let e := mapGetD ⟨0, 0, 0⟩ p m.mem.pmap
  if ln.copyB m then (m.privAt p).getD (e.tile, e.slot) else (e.tile, e.slot)

/-- Buffer address of a point's record. -/
def pointAddr (m : Mod) (ln : Lane) (p : Nat) : Nat :=
  ln.entry (recPlace m ln p).1 * 256 + (recPlace m ln p).2 * 16

/-- A point's record in the tile buffer. -/
def Lane.prec (m : Mod) (ln : Lane) (p : Nat) : PRec := decodeRec (memReadN 0 ln.buf (pointAddr m ln p) 16)

def Lane.putRec (m : Mod) (ln : Lane) (p : Nat) (r : PRec) : Lane :=
  { ln with buf := memWriteN 0 ln.buf (pointAddr m ln p) r.bytes }

/-- The TYPE of a point in the point map. -/
def pointTy (m : Mod) (p : Nat) : Nat := (mapGetD ⟨0, 0, 0⟩ p m.mem.pmap).ty

/-- Constant word k of the pool: 32 words of 64 bits a tile (R128, R124). -/
def Lane.const (m : Mod) (ln : Lane) (k : Nat) : Long :=
  let t := ((m.plan.active.map (·.consts)).getD []).getD (k / 32) 0
  BitVec.ofNat 64 (ofLe (memReadN 0 ln.buf (ln.entry t * 256 + (k % 32) * 8) 8))

/-- An entry of the instance map (R128). -/
def instDef (m : Mod) (n : Nat) : Option InstDef :=
  ((m.plan.active.map (·.insts)).getD []).find? (fun i => i.num == n)

/-- Buffer address of byte `off` of a block. -/
def instAddr (m : Mod) (ln : Lane) (n off : Nat) : Nat :=
  match instDef m n with
  | some d => ln.entry d.tile * 256 + d.off + off
  | none => 8192

def Lane.rdN (ln : Lane) (a n : Nat) : Nat := ofLe (memReadN 0 ln.buf a n)
def Lane.wrN (ln : Lane) (a n v : Nat) : Lane := { ln with buf := memWriteN 0 ln.buf a (leBytes n v) }

end Sys2Proof.Machine
end

