-- ==== Sys2Proof/Machine/Flags.lean ====
section
/-! DEFINITION. The quality of a lane's results (R25, R26, R130 to R132): the tag an opcode writes beside its value, and the arithmetic of
INT32, INT64 and REAL32 with the cases that set RANGE. -/

namespace Sys2Proof.Machine

/-- RANGE, bit 4 of a quality word (R25). -/
def qRange : Tag := 0x0010#16
/-- VALID, bit 0. -/
def qValid : Tag := 0x0001#16
/-- Bits [10:1] of a tag. -/
def tagMask : Tag := 0x07FE#16

/-- R131, step 4: the OR of bits [10:1] of the qualities read, plus RANGE; VALID where every one read had VALID and
none of the bits of R26 is set in the result. -/
def combine (qs : List Tag) (range : Bool) : Tag :=
  let acc := qs.foldl (fun a q => a ||| (q &&& tagMask)) (if range then qRange else 0)
  if qs.all (fun q => q &&& qValid ≠ 0) && decide (acc &&& badMask = 0) then acc ||| qValid else acc

/-- A value held in the range of an n-bit integer type, and whether it was outside (R130). -/
def saturate (n : Nat) (v : Int) : Int × Bool := (satInt n v, decide (satInt n v ≠ v))

/-- Integer division rounded toward zero; by zero MAX, MIN or 0 by the sign of the dividend (R130). -/
def divInt (n : Nat) (a b : Int) : Int × Bool :=
  if b = 0 then
    (if 0 < a then (2 ^ (n - 1) : Nat) - 1 else if a < 0 then -(2 ^ (n - 1) : Nat) else 0, true)
  else saturate n (Int.tdiv a b)

/-- The remainder with the sign of the dividend; 0 by zero (R129, R130). -/
def modInt (a b : Int) : Int × Bool := if b = 0 then (0, true) else (Int.tmod a b, false)

/-- RANGE of a REAL32 result: NaN or infinity (R130). -/
def f32Range (x : Nat) : Bool := fIsNan b32 x || fIsInf b32 x

/-- F2I and F2L: to nearest, ties to even; saturated beyond the range; 0 of NaN (R130). -/
def f2int (n : Nat) (x : Nat) : Int × Bool :=
  if fIsNan b32 x then (0, true)
  else if fIsInf b32 x then
    (if fSign b32 x then -(2 ^ (n - 1) : Nat) else (2 ^ (n - 1) : Nat) - 1, true)
  else saturate n (fToInt b32 x)

/-- CMP.F: a NaN operand gives FALSE, but TRUE for NE (R130). -/
def condF32 (c : Cond) (a b : Nat) : Bool :=
  match c with
  | .eq => fEq b32 a b
  | .ne => !fEq b32 a b
  | .lt => fLt b32 a b
  | .le => fLe b32 a b
  | .gt => fLt b32 b a
  | .ge => fLe b32 b a

end Sys2Proof.Machine
end

