-- ==== Sys2Proof/Machine/Lanes.lean ====
section
/-! DEFINITION. How a lane runs (R17, R123 to R134): starting a task and loading its tiles, stepping past an
instruction, REPEAT bodies, ending a task and writing its tiles back. -/

namespace Sys2Proof.Machine

/-- A lane cleared for a task (R17, R123). -/
def Lane.cleared (ln : Lane) : Lane :=
  { ln with l := Vector.replicate 16 0, q := Vector.replicate 16 0, pc := 0, rep := [], buf := [], tiles := [] }

/-- A tile as a task sees it that does not write it back: a point that Orpor wrote since the last freeze of its class still shows the record
before that write (R11). -/
def Mod.asSeen (m : Mod) (t : Nat) (bs : List Byte) : List Byte :=
  m.mem.before.foldl (fun bs x =>
    match mapGet x.1 m.mem.pmap with
    | some e => if e.tile = t then putBytes bs (e.slot * 16) x.2 else bs
    | none => bs) bs

/-- One tile of a task loaded into the lane's buffer (R31, R36, R37); `own` where the task writes it back. The first answer is false where
the task must be abandoned, the second where the lane left its regions (R44). -/
def loadTile (m : Mod) (i : Fin 8) (code own : Bool) (t : Nat) : Mod × Bool × Bool :=
  let acc := if code then 3 else 1
  if !m.regionOk i.val acc (t * 256) then (m.regionViolation i.val acc (t * 256), false, false)
  else
    let d := m.loadData t
    let m := m.loadEffect t i.val
    let ln := m.lanes[i]
    let put (bs : List Byte) : Mod :=
      { m with lanes := m.lanes.set i { ln with
          buf := memWriteN 0 ln.buf (ln.tiles.length * 256) bs, tiles := ln.tiles ++ [t] } }
    match d with
    | .data bs => (put (if own then bs else m.asSeen t bs), true, true)
    | .placeholder bs => (put bs, true, true)
    | .none => (m, false, true)

/-- The load phase (R124): every tile in order, the first `code` of them code, those of `own` to be written back; it stops at the first that
fails. -/
def loadTiles (m : Mod) (i : Fin 8) (own : List Nat) (code : Nat) : List Nat → Mod × Bool × Bool
  | [] => (m, true, true)
  | t :: ts =>
    match loadTile m i (decide (0 < code)) (own.contains t) t with
    | (m, true, true) => loadTiles m i own (code - 1) ts
    | r => r

/-- A task abandoned (R36, steps 4 and 5): its outputs are requested safe. -/
def abandonTask (m : Mod) (t : TaskDef) : Mod :=
  t.outs.foldl (fun m o =>
    if h : o < 48 then (m.reqSafe ⟨o, h⟩ 1).outMap ⟨o, h⟩ (fun u => { u with abandon := some t.idx }) else m) m

/-- A lane left its regions: an overrun with cause REGION_LANE (R44, R98). -/
def laneRegion (m : Mod) (cls : Nat) : Mod := m.overrun 4 cls ((m.exec.burst.map (·.seq)).getD 0) m.unfinished

/-- The class of the task that a lane runs. -/
def Lane.cls (m : Mod) (ln : Lane) : Nat := ((ln.task.bind m.taskDef).map (·.cls)).getD 0

/-- The lane's next tasks in order: the first whose tiles load starts; a task that cannot load is abandoned; a region
violation is an overrun with cause REGION_LANE (R44, R98). With none left the lane has finished. -/
def startTasks (m : Mod) (i : Fin 8) : List Nat → Mod
  | [] => { m with lanes := m.lanes.set i { m.lanes[i] with task := none, todo := [], phase := .done } }
  | t :: ts =>
    match m.taskDef t with
    | none => startTasks m i ts
    | some td =>
      let ln := { (m.lanes[i]).cleared with
        task := some t, todo := ts, phase := .exec, freeze := m.exec.clsFreeze[Fin.ofNat 8 td.cls] }
      match loadTiles { m with lanes := m.lanes.set i ln } i td.stores td.codeTiles td.tiles with
      | (m, _, false) => laneRegion m td.cls
      | (m, true, true) => m
      | (m, false, true) => startTasks (abandonTask m td) i ts

/-- The write-back phase (R124): every tile of the write-back set, from the buffer. The answer is false where the lane left its regions. -/
def writeBacks (m : Mod) (i : Fin 8) (ln : Lane) : List Nat → Mod × Bool
  | [] => (m, true)
  | t :: ts =>
    match m.masterStore i.val t (memReadN 0 ln.buf (ln.entry t * 256) 256) with
    | (m, true) => writeBacks m i ln ts
    | r => r

/-- A task ends (R124): its tiles are written back, the outputs it had abandoned may return at their next launch
(R40), and the lane goes on with its list. -/
def endTask (m : Mod) (i : Fin 8) : Mod :=
  let ln := m.lanes[i]
  match ln.task.bind m.taskDef with
  | none => startTasks m i ln.todo
  | some td =>
    match writeBacks m i ln td.stores with
    | (m, false) => laneRegion m td.cls
    | (m, true) =>
      startTasks { m with outs := m.outs.map (fun u => if u.abandon = some td.idx then { u with abandon := none } else u) } i ln.todo

/-- The length in words of the task a lane runs. -/
def laneWords (m : Mod) (i : Fin 8) : Nat := (((m.lanes[i]).task.bind m.taskDef).map (·.words)).getD 0

/-- The next instruction's words at the lane's PC are `w` (and `w2` for an extended form): the lane executes it. -/
def fetched (m : Mod) (i : Fin 8) (w : Nat) (w2 : Option Nat) : Bool :=
  let ln := m.lanes[i]
  ln.phase == .exec && decide (ln.pc < laneWords m i) && ln.word ln.pc == w
    && (match w2 with | none => true | some x => ln.word (ln.pc + 1) == x)

/-- The innermost REPEAT bodies that end where PC stands (R134): the next iteration starts, or the body is left. -/
def settle (ln : Lane) : List Rep → Lane
  | [] => { ln with rep := [] }
  | r :: rs =>
    if ln.pc = r.stop then
      if r.iter + 1 < r.count then
        ({ ln with pc := r.first, rep := { r with iter := r.iter + 1 } :: rs }).wr r.d (ofI32 (r.iter + 1 : Nat)) qValid
      else settle ln rs
    else { ln with rep := r :: rs }

/-- Past an instruction of `n` words. -/
def Lane.past (ln : Lane) (n : Nat) : Lane := settle { ln with pc := ln.pc + n } ln.rep

/-- A taken branch (R133, R134): a target past a body's last word ends that REPEAT. -/
def Lane.jump (ln : Lane) (off : Nat) : Lane :=
  let t := ln.pc + 1 + off
  { ln with pc := t, rep := ln.rep.dropWhile (fun r => decide (r.stop ≤ t)) }

/-- A lane put back; a PC at the task's end ends the task (R124, R133). -/
def putLane (m : Mod) (i : Fin 8) (ln : Lane) : Mod :=
  let m' := { m with lanes := m.lanes.set i ln }
  if laneWords m i ≤ ln.pc then endTask m' i else m'

/-- An instruction of `n` words whose effect is on the lane alone. -/
def laneOp (s : State) (i : Fin 8) (w : Nat) (w2 : Option Nat) (f : Mod → Lane → Lane) : Out :=
  onMod s fun m =>
    if fetched m i w w2 then putLane m i ((f m m.lanes[i]).past (if w2.isSome then 2 else 1)) else m

/-- A branch: taken where `c` holds. -/
def branchOp (s : State) (i : Fin 8) (w : Nat) (off : BitVec 20) (c : Lane → Bool) : Out :=
  onMod s fun m =>
    let ln := m.lanes[i]
    if fetched m i w none then putLane m i (if c ln then ln.jump off.toNat else ln.past 1) else m

/-- A register operation: the value and RANGE from the registers read, the tag by R131, step 4. -/
def regOp (s : State) (i : Fin 8) (w : Nat) (d : Fin 16) (reads : List (Fin 16)) (f : Lane → Long × Bool) : Out :=
  laneOp s i w none fun _ ln =>
    ln.wr d (f ln).1 (combine (reads.map (fun r => ln.q[r])) (f ln).2)

/-- INT32 operation on Ls and Lt. -/
def i32Op (s : State) (i : Fin 8) (op : Nat) (d a b : Fin 16) (f : Int → Int → Int × Bool) : Out :=
  regOp s i (encR op d a b) d [a, b] fun ln =>
    let r := f (asI32 ln.l[a]) (asI32 ln.l[b]); (ofI32 r.1, r.2)

/-- INT64 operation on Ls and Lt. -/
def i64Op (s : State) (i : Fin 8) (op : Nat) (d a b : Fin 16) (f : Int → Int → Int × Bool) : Out :=
  regOp s i (encR op d a b) d [a, b] fun ln =>
    let r := f (asI64 ln.l[a]) (asI64 ln.l[b]); (ofI64 r.1, r.2)

/-- REAL32 operation on Ls and Lt. -/
def f32Op (s : State) (i : Fin 8) (op : Nat) (d a b : Fin 16) (f : Nat → Nat → Nat) : Out :=
  regOp s i (encR op d a b) d [a, b] fun ln =>
    let r := f (asF32 ln.l[a]) (asF32 ln.l[b]); (ofF32 r, f32Range r)

/-- MIN.F and MAX.F: a NaN operand sets RANGE even where the result is a number (R130). -/
def f32NumOp (s : State) (i : Fin 8) (op : Nat) (d a b : Fin 16) (f : Nat → Nat → Nat) : Out :=
  regOp s i (encR op d a b) d [a, b] fun ln =>
    let x := asF32 ln.l[a]
    let y := asF32 ln.l[b]
    (ofF32 (f x y), f32Range (f x y) || fIsNan b32 x || fIsNan b32 y)

/-- A bit operation on all 64 bits. -/
def bitOp (s : State) (i : Fin 8) (op : Nat) (d a b : Fin 16) (f : Long → Long → Long) : Out :=
  regOp s i (encR op d a b) d [a, b] fun ln => (f ln.l[a] ln.l[b], false)

/-- A conversion of Ls. -/
def convOp (s : State) (i : Fin 8) (op : Nat) (d a : Fin 16) (f : Long → Long × Bool) : Out :=
  regOp s i (encR op d a 0) d [a] fun ln => f ln.l[a]

/-! ### Function blocks (R136 to R139) -/

/-- The STATE word after an execution: TYPE kept, INIT set (R136). -/
def blkState (old : Nat) (q run mm lastv : Bool) : Nat :=
  bits old 8 8 * 256 + 1 + b2n q * 2 + b2n run * 4 + b2n mm * 8 + b2n lastv * 16

/-- The increment of a timer in step 2 of R138. -/
def timerDelta (st last freeze period : Nat) : Nat :=
  if bitAt st 2 && bitAt st 4 then
    (if freeze < last ∨ last + 2000000000 < freeze then period else freeze - last)
  else 0

/-- What a timer's rule gives (R138, step 3): Q, RUN, ET. -/
structure TimerOut where
  q : Bool
  run : Bool
  et : Nat
deriving DecidableEq, Repr

/-- TON (R138). DESIGN CHOICE (log entry 9): with a PT of 0 the start leaves RUN and Q 1, which two rows then match; the row of Q goes first. -/
def tonRule (inp q run : Bool) (et dlt pt : Nat) : TimerOut :=
  if !inp then ⟨false, false, 0⟩
  else if q then ⟨true, run, pt⟩
  else if run then
    let e := min (et + dlt) pt
    ⟨decide (pt ≤ e), !decide (pt ≤ e), e⟩
  else ⟨decide (pt = 0), true, 0⟩

/-- TOF (R138). -/
def tofRule (inp q run : Bool) (et dlt pt : Nat) : TimerOut :=
  if inp then ⟨true, false, 0⟩
  else if run then
    let e := min (et + dlt) pt
    if pt ≤ e then ⟨false, false, e⟩ else ⟨q, true, e⟩
  else if q then (if pt = 0 then ⟨false, false, 0⟩ else ⟨true, true, 0⟩)
  else ⟨false, false, min et pt⟩

/-- TP (R138): `mm` is the stored input. -/
def tpRule (inp mm q run : Bool) (et dlt pt : Nat) : TimerOut :=
  if run then
    let e := min (et + dlt) pt
    if pt ≤ e then ⟨false, false, e⟩ else ⟨q, true, e⟩
  else if inp && !mm && !q then (if pt = 0 then ⟨false, false, 0⟩ else ⟨true, true, 0⟩)
  else if !inp then ⟨q, false, 0⟩
  else ⟨q, run, min et pt⟩

/-- A timer call (R137, R138): PT rounded up to whole ms and held at 0xFFFF_FFFF; a negative PT counts as 0 and sets RANGE. -/
def timerOp (s : State) (i : Fin 8) (op : Nat) (d : Fin 16) (n : BitVec 14)
    (rule : Bool → Bool → Bool → Bool → Bool → Nat → Nat → Nat → TimerOut) : Out :=
  laneOp s i (encF op d n) none fun m ln =>
    let d1 : Fin 16 := d + 1
    let a := instAddr m ln n.toNat 0
    let st := ln.rdN a 4
    let inp := asBool ln.l[d]
    let ptIn := asI64 ln.l[d1]
    let pt := if ptIn < 0 then 0 else min ((ptIn.toNat + 999999) / 1000000) 0xFFFFFFFF
    let cls := ((ln.task.bind m.taskDef).map (·.cls)).getD 0
    let dlt := timerDelta st (ln.rdN (a + 16) 8) ln.freeze (m.periodNs cls)
    let o := rule (bitAt st 0) inp (bitAt st 3) (bitAt st 1) (bitAt st 2) (ln.rdN (a + 8) 8) dlt (pt * 1000000)
    let q := combine [ln.q[d], ln.q[d1]] (decide (ptIn < 0))
    let ln := ln.wrN a 4 (blkState st o.q o.run inp true)
    let ln := ln.wrN (a + 4) 4 pt
    let ln := ln.wrN (a + 8) 8 o.et
    let ln := ln.wrN (a + 16) 8 ln.freeze
    (ln.wr d (ofBoolL o.q) q).wr d1 (BitVec.ofNat 64 o.et) q

/-- A counter call (R139): `rule` gives CV from reset or load, count edge, CV and PV; `out` gives Q. -/
def counterOp (s : State) (i : Fin 8) (op : Nat) (d : Fin 16) (n : BitVec 14)
    (rule : Bool → Bool → Int → Int → Int) (out : Int → Int → Bool) : Out :=
  laneOp s i (encF op d n) none fun m ln =>
    let d1 : Fin 16 := d + 1
    let d2 : Fin 16 := d + 2
    let a := instAddr m ln n.toNat 0
    let st := ln.rdN a 4
    let x := asBool ln.l[d]
    let mm := if bitAt st 0 then bitAt st 3 else x
    let pv := asI32 ln.l[d2]
    let cv := rule (asBool ln.l[d1]) (x && !mm) (toInt 32 (ln.rdN (a + 4) 4)) pv
    let q := combine [ln.q[d], ln.q[d1], ln.q[d2]] false
    let ln := ln.wrN a 4 (blkState st (out cv pv) false x false)
    let ln := ln.wrN (a + 4) 4 (ofInt 32 cv)
    (ln.wr d (ofBoolL (out cv pv)) q).wr d1 (ofI32 cv) q

/-- An edge detector call (R139): `rule` gives Q from CLK and the memory. -/
def edgeOp (s : State) (i : Fin 8) (op : Nat) (d : Fin 16) (n : BitVec 14) (rule : Bool → Bool → Bool) : Out :=
  laneOp s i (encF op d n) none fun m ln =>
    let a := instAddr m ln n.toNat 0
    let st := ln.rdN a 4
    let x := asBool ln.l[d]
    let mm := if bitAt st 0 then bitAt st 3 else x
    let q := combine [ln.q[d]] false
    ((ln.wrN a 4 (blkState st (rule x mm) false x false)).wrN (a + 4) 4 0).wr d (ofBoolL (rule x mm)) q

/-- A bistable call (R139): `rule` gives Q1 from both inputs and Q1. DESIGN CHOICE (log entry 127): M, which the rule takes from CU, CD or CLK and for which
a bistable has no such input, stays 0. -/
def bistableOp (s : State) (i : Fin 8) (op : Nat) (d : Fin 16) (n : BitVec 14) (rule : Bool → Bool → Bool → Bool) : Out :=
  laneOp s i (encF op d n) none fun m ln =>
    let d1 : Fin 16 := d + 1
    let a := instAddr m ln n.toNat 0
    let st := ln.rdN a 4
    let r := rule (asBool ln.l[d]) (asBool ln.l[d1]) (bitAt st 1)
    let q := combine [ln.q[d], ln.q[d1]] false
    ((ln.wrN a 4 (blkState st r false false false)).wrN (a + 4) 4 0).wr d (ofBoolL r) q

/-! ### Transfer steps (R93, R96, R143) -/

/-- What INX stores of an input that arrived or was frozen: its value, and VALID by R26. -/
def inxFresh (r : PRec) (e : ImgEnt) : PRec := r.fresh e.val (withValid (e.qual &&& 0xFFFE#16))

/-- What INX stores of a remote input or mirror that is missing at its freeze (R93, R96): AGE counts, VALID is 0; the
policy chooses the value. -/
def inxMissing (p : PointDef) (r : PRec) (e : ImgEnt) : PRec :=
  let age := r.aged.age
  let stale := (r.qual ||| e.qual ||| 0x0002#16) &&& 0xFFFA#16
  let subst (v : Long) : PRec :=
    { r with val := v, qual := stale ||| 0x0004#16, age := age, chg := if v = r.val then r.chg else (r.chg + 1) % 65536 }
  match p.policy with
  | 1 => if age < p.substAge then { r with qual := stale, age := age } else subst p.substVal
  | 2 => subst p.substVal
  | 3 => subst p.init
  | _ => { r with qual := stale, age := age }

/-- INX of a point: the image entry of its class's last freeze; a forced record stays and ages (R27, R127). -/
def inxRec (p : PointDef) (r : PRec) (e : ImgEnt) : PRec :=
  if isForced r.qual then r.aged
  else if e.fresh then inxFresh r e
  else if e.held then r.aged
  else inxMissing p r e

/-- Bus addresses of a point's entry in the input image and in the output staging (R43): 8 bytes a point. DESIGN CHOICE (log entry 109). -/
def imageAddr (p : Nat) : Nat := 0x400000 + 8 * p
def stagingAddr (p : Nat) : Nat := 0x410000 + 8 * p

end Sys2Proof.Machine
end

