-- ==== Sys2Proof/Machine/LoopEngine.lean ====
section
/-! DEFINITION. The loop engine (R173 to R194): the control law, modes, an evaluation, test signals and capture. -/

namespace Sys2Proof.Machine

/-! ### Points as a bus master other than a lane reads and writes them (R31, R36, R37, R43, R44) -/

/-- A point's record loaded by a master: the state after the load, whether a region permitted it, and the record
(none where the tile is not given). -/
def Mod.pointLoad (m : Mod) (master p : Nat) : Mod × Bool × Option PRec :=
  match mapGet p m.mem.pmap with
  | none => (m, true, none)
  | some e =>
    match m.masterLoad master e.tile with
    | (m, some d) => (m, true, recIn [(e.tile, d)] e)
    | (m, none) => (m, false, none)

/-- A point's fresh record written back by a master (R27): discarded where its tile is FAULTED (R38). The answer is false where no
region permits it (R44). -/
def Mod.pointStore (m : Mod) (master p : Nat) (r : PRec) : Mod × Bool :=
  match mapGet p m.mem.pmap with
  | none => (m, true)
  | some e => (m.markFresh p).masterStore master e.tile (putBytes (m.tileBytes e.tile) (e.slot * 16) r.bytes)

/-! ### Registers of a loop (R195, R196) -/

def Mod.loopSt (m : Mod) (n : Nat) : LoopSt := mapGetD {} n m.loops
def Mod.setLoop (m : Mod) (n : Nat) (l : LoopSt) : Mod := { m with loops := mapPut n l m.loops }

abbrev lmMan : Nat := 1
abbrev lmAuto : Nat := 2
abbrev lmCas : Nat := 3
abbrev lmTrack : Nat := 4
abbrev lmHold : Nat := 5

/-- LOOP_PHASE (R176): 0 means 256. -/
def phaseOf (v : Nat) : Nat := if v = 0 then 256 else v

/-- BETA or GAMMA: n/128, above 128 taken as 128 (R196). -/
def weightOf (v : Nat) : Nat := fOfRat b32 (min v 128 : Nat) 128
/-- N: 0 taken as 10, else the nearest of 2 to 32 (R196). -/
def derivN (v : Nat) : Nat := if v = 0 then 10 else max 2 (min 32 v)

/-! ### The control law (R179, R180, R183, R184) -/

/-- The tuning of a loop: REAL32 values, t the nominal period in seconds. -/
structure Tuning where
  pid : Bool
  pOnly : Bool
  direct : Bool
  kp : Nat
  ti : Nat
  td : Nat
  beta : Nat
  gamma : Nat
  n : Nat
  lo : Nat
  hi : Nat
  rate : Nat
  t : Nat

/-- The tuning in a loop's registers. A TI smaller than t is used as t (R184). -/
def Mod.tuning (m : Mod) (n : Nat) : Tuning :=
  let ty := m.get (F.LOOP_CFG_TYPE n)
  let t := fOfRat b32 (m.get (F.LOOP_TIMING_PERIOD n)) 1000
  let ti := m.get (F.LOOP_TI_TI n)
  { pid := ty == 3, pOnly := ty == 1, direct := m.flag (F.LOOP_CFG_ACTION n)
    kp := m.get (F.LOOP_KP_KP n), ti := if fLt b32 ti t then t else ti, td := m.get (F.LOOP_TD_TD n)
    beta := weightOf (m.get (F.LOOP_WEIGHT_BETA n)), gamma := weightOf (m.get (F.LOOP_WEIGHT_GAMMA n))
    n := fOfInt b32 (derivN (m.get (F.LOOP_WEIGHT_N n))), lo := m.get (F.LOOP_OUT_LO_LO n)
    hi := m.get (F.LOOP_OUT_HI_HI n), rate := m.get (F.LOOP_RATE_RATE n), t := t }

/-- s × (w × sp − pv): the weighted error. -/
def wErr (c : Tuning) (w sp pv : Nat) : Nat :=
  let x := fSub b32 (fMul b32 w sp) pv
  if c.direct then fNeg b32 x else x

/-- s × (sp − pv). -/
def lErr (c : Tuning) (sp pv : Nat) : Nat :=
  let x := fSub b32 sp pv
  if c.direct then fNeg b32 x else x

/-- min(max(u, OUT_LO), OUT_HI). -/
def clampOut (c : Tuning) (u : Nat) : Nat := fMin b32 (fMax b32 u c.lo) c.hi

/-- A REAL32 as binary64, and the integrator rounded to REAL32. -/
def to64 (x : Nat) : Nat := fConv b32 b64 x
def to32 (x : Nat) : Nat := fConv b64 b32 x

/-- Results of an evaluation in AUTO or CAS. -/
structure LawOut where
  out : Nat
  i : Nat
  d : Nat
  ed : Nat
  e : Nat
  limHi : Bool := false
  limLo : Bool := false
  rateLim : Bool := false
  held : Bool := false

/-- The bumpless evaluation of R183. -/
def bumpless (c : Tuning) (uPrev sp pv : Nat) : LawOut :=
  let u := clampOut c uPrev
  { out := u, i := fSub b64 (to64 u) (to64 (fMul b32 c.kp (wErr c c.beta sp pv))), d := 0
    ed := wErr c c.gamma sp pv, e := lErr c sp pv }

/-- The control law of R179 with R180; `hold` is the cascade or override condition. -/
def law (c : Tuning) (i uPrev dPrev edPrev sp pv : Nat) (hold : Bool) : LawOut :=
  let e := lErr c sp pv
  let ed := wErr c c.gamma sp pv
  let p := fMul b32 c.kp (wErr c c.beta sp pv)
  let d := if c.pid then
      let tf := fDiv b32 c.td c.n
      let den := fAdd b32 tf c.t
      fAdd b32 (fDiv b32 (fMul b32 dPrev tf) den)
        (fDiv b32 (fMul b32 (fMul b32 c.kp c.td) (fSub b32 ed edPrev)) den)
    else 0
  let ic := if c.pOnly then i
    else fAdd b64 i (to64 (fMul b32 (fDiv b32 (fMul b32 c.kp c.t) c.ti) e))
  let u := fAdd b32 (fAdd b32 p (to32 ic)) d
  let ul := clampOut c u
  let ur := if fLt b32 0 c.rate then
      let step := fMul b32 c.rate c.t
      fMin b32 (fMax b32 ul (fSub b32 uPrev step)) (fAdd b32 uPrev step)
    else ul
  let held := (fLt b32 ur u && fLt b32 0 e) || (fLt b32 u ur && fLt b32 e 0) || hold
  { out := ur, i := if held then i else ic, d := d, ed := ed, e := e
    limHi := fLt b32 c.hi u, limLo := fLt b32 u c.lo, rateLim := !fEq b32 ur ul, held := held }

/-- R184: what a change of tuning since the last evaluation adds to the integrator, and d_prev and ed_prev after it. -/
def retune (l : LoopSt) (c : Tuning) (kpNow tdNow weightNow sp pv : Nat) : Nat × Nat × Nat :=
  let betaOld := weightOf (bits l.weight.toNat 0 8)
  let i := l.i.toNat
  let i := if l.kp.toNat = kpNow ∧ bits l.weight.toNat 0 8 = bits weightNow 0 8 then i
    else fAdd b64 i (to64 (fSub b32 (fMul b32 l.kp.toNat (wErr c betaOld sp pv)) (fMul b32 kpNow (wErr c c.beta sp pv))))
  if l.td.toNat = tdNow ∧ bits l.weight.toNat 8 16 = bits weightNow 8 16 then (i, l.dPrev.toNat, l.edPrev.toNat)
  else (fAdd b64 i (to64 l.dPrev.toNat), 0, wErr c c.gamma sp pv)

/-! ### Test signals (R191 to R193) -/

/-- Taps of the polynomial of an order. -/
def prbsTaps (n : Nat) : List Nat :=
  match n with
  | 5 => [5, 3] | 6 => [6, 5] | 7 => [7, 6] | 8 => [8, 6, 5, 4] | 9 => [9, 5] | _ => [10, 7]

/-- One step: the bit of the last stage is shifted out, the feedback shifted in. -/
def prbsStep (n v : Nat) : Nat :=
  let fb := (prbsTaps n).foldl (fun a t => (a + bits v (t - 1) 1) % 2) 0
  (v * 2 + fb) % 2 ^ n

def prbsAt (n : Nat) : Nat → Nat
  | 0 => 2 ^ n - 1
  | k + 1 => prbsStep n (prbsAt n k)

/-- The PRBS bit after `k` steps: the bit to be shifted out. -/
def prbsBit (n k : Nat) : Bool := bitAt (prbsAt n k) (n - 1)

/-- A × sin of n/d of a whole turn, exact up to the sine and rounded once; an amplitude that is no finite number multiplies as REAL32 does. -/
def ampSin (amp : Nat) (n : Int) (d : Nat) : Nat :=
  if fIsNan b32 amp || fIsInf b32 amp then fMul b32 amp (fOfRat b32 (sinTurn n d) (2 ^ 128))
  else fOfRat b32 (fix amp * sinTurn n d) (2 ^ 277)

/-- s(k) of R191 for k' = k − DELAY, with the nominal period `p` in ms: τk = k' × p / 1,000 (log entry 6). -/
def testSignal (kind amp f0 f1 order clk len p k' : Nat) : Nat :=
  match kind with
  | 0 => amp
  | 1 => if prbsBit order (k' / clk) then amp else fNeg b32 amp
  | 2 => ampSin amp (fix f0 * (2 * k' * p * len : Nat) + (fix f1 - fix f0) * (k' * k' * p : Nat)) (2 ^ 149 * 2000 * len)
  | _ => ampSin amp (fix f0 * (k' * p : Nat)) (2 ^ 149 * 1000)

def testDelay (m : Mod) (g : Nat) : Nat := m.get (F.LOOPTEST_SHAPE_DELAY g)
def testLen (m : Mod) (g : Nat) : Nat := m.get (F.LOOPTEST_LENGTH_LENGTH g)
def testAtSp (m : Mod) (g : Nat) : Bool := m.flag (F.LOOPTEST_CTRL_AT_SP g)

/-- The signal of a running test at its evaluation k; 0 before k' = 0. -/
def Mod.testNow (m : Mod) (g : Nat) : Nat :=
  let k := m.get (F.LOOPTEST_STATUS_K g)
  if k < testDelay m g then 0
  else testSignal (m.get (F.LOOPTEST_CTRL_KIND g)) (m.get (F.LOOPTEST_AMP_AMP g)) (m.get (F.LOOPTEST_F0_F0 g))
    (m.get (F.LOOPTEST_F1_F1 g)) (m.get (F.LOOPTEST_SHAPE_ORDER g)) (m.get (F.LOOPTEST_SHAPE_CLK g)) (testLen m g)
    (m.get (F.LOOP_TIMING_PERIOD (m.get (F.LOOPTEST_CTRL_LOOP g)))) (k - testDelay m g)

/-- The generator that tests a loop. -/
def Mod.testOf (m : Mod) (n : Nat) : Option (Fin 4) :=
  (List.finRange 4).find? (fun g => m.get (F.LOOPTEST_STATUS_STATE g.val) == 1 && m.get (F.LOOPTEST_CTRL_LOOP g.val) == n)

/-- A test stops, or a START that waits is withdrawn, with STATE 3 and its cause (R192); the loop of a test that ran is no longer under
test. -/
def Mod.testAbort (m : Mod) (g : Fin 4) (cause : Nat) : Mod :=
  let ran := m.get (F.LOOPTEST_STATUS_STATE g.val) == 1
  let m := { m with tests := m.tests.set g { m.tests[g] with start := false } }
  ((m.set (F.LOOPTEST_STATUS_STATE g.val) 3).set (F.LOOPTEST_STATUS_CAUSE g.val) cause).when ran
    (fun m => m.set (F.LOOP_MODE_TEST (m.get (F.LOOPTEST_CTRL_LOOP g.val))) 0)

/-- Every running or waiting test is aborted: a swap or a restart (R189, R192). -/
def Mod.abortTests (m : Mod) : Mod :=
  (List.finRange 4).foldl (fun m (g : Fin 4) =>
    if m.get (F.LOOPTEST_STATUS_STATE g.val) = 1 ∨ m.tests[g].start then m.testAbort g 6 else m) m

/-- What refuses a START (R192) with the loop in `mode`: 1 BUSY, 2 MODE, 3 PARAM; F0, F1, ORDER and CLK count for the
kinds that use them (log entry 12). -/
def testRefusal (m : Mod) (g n mode : Nat) : Option Nat :=
  let kind := m.get (F.LOOPTEST_CTRL_KIND g)
  let q := fDiv b32 0x3E800000 (m.tuning n).t
  let w := m.get (F.LOOPTEST_CTRL_CBW g)
  if m.flag (F.LOOP_MODE_TEST n) then some 1
  else if (if testAtSp m g then mode ≠ lmAuto ∧ mode ≠ lmCas else mode ≠ lmMan) then some 2
  else if m.get (F.CBW_LENGTH_LENGTH w) < testDelay m g + testLen m g
      ∨ (kind = 0 ∧ testDelay m g < 10)
      ∨ (kind ≥ 2 ∧ fLt b32 q (m.get (F.LOOPTEST_F0_F0 g)))
      ∨ (kind = 2 ∧ fLt b32 q (m.get (F.LOOPTEST_F1_F1 g)))
      ∨ (kind = 1 ∧ (m.get (F.LOOPTEST_SHAPE_ORDER g) < 5 ∨ 10 < m.get (F.LOOPTEST_SHAPE_ORDER g)
          ∨ m.get (F.LOOPTEST_SHAPE_CLK g) = 0)) then some 3
  else none

/-- A START taken at its loop's evaluation (R192). DESIGN CHOICE (log entry 113): on a generator whose own test runs it is refused without a mark, and the
test goes on. -/
def Mod.testTake (m : Mod) (g : Fin 4) (n mode pv : Nat) : Mod :=
  if m.get (F.LOOPTEST_STATUS_STATE g.val) = 1 then { m with tests := m.tests.set g { m.tests[g] with start := false } }
  else
    let m := { m with tests := m.tests.set g { start := false, pv0 := BitVec.ofNat 32 pv } }
    match testRefusal m g.val n mode with
    | some c => (m.set (F.LOOPTEST_STATUS_STATE g.val) 3).set (F.LOOPTEST_STATUS_CAUSE g.val) c
    | none =>
      let m := (m.set (F.LOOPTEST_STATUS_STATE g.val) 1).set (F.LOOPTEST_STATUS_CAUSE g.val) 0
      (m.set (F.LOOPTEST_STATUS_K g.val) 0).set (F.LOOP_MODE_TEST n) 1

/-- The STARTs that wait for a loop are taken at its evaluation (R192). -/
def Mod.testStarts (m : Mod) (n mode pv : Nat) : Mod :=
  (List.finRange 4).foldl (fun m (g : Fin 4) =>
    if m.tests[g].start && m.get (F.LOOPTEST_CTRL_LOOP g.val) == n then m.testTake g n mode pv else m) m

/-- An abort that an evaluation finds (R192): a mode change, or the PV too far from its value at k = 0. -/
def Mod.testChecks (m : Mod) (n old mode pv : Nat) : Mod :=
  match m.testOf n with
  | none => m
  | some g =>
    let dev := m.get (F.LOOPTEST_ABORT_DEV_DEV g.val)
    if old ≠ mode then m.testAbort g 2
    else if fLt b32 0 dev && fLt b32 dev (fAbs b32 (fSub b32 pv (m.tests[g].pv0).toNat)) then m.testAbort g 4
    else m

/-- The capture record of R193. -/
def captureRec (k sp pv out sig : Nat) (q : Tag) (lim hold : Bool) (ns : Nat) : List Byte :=
  leBytes 4 k ++ leBytes 4 sp ++ leBytes 4 pv ++ leBytes 4 out ++ leBytes 4 sig ++ leBytes 2 q.toNat
    ++ leBytes 2 (b2n lim + 2 * b2n hold) ++ leBytes 8 ns

/-- The sample instant of an evaluation (R174, R175): the start of the loop's period, for a period above 1 s the start of the second. -/
def Mod.sampleAt (m : Mod) (n : Nat) : Nat :=
  let p := max 1 (m.get (F.LOOP_TIMING_PERIOD n)) * 1000000
  let sec := m.clk.ns / 1000000000 * 1000000000
  if 1000000000 < p then sec else sec + (m.clk.ns - sec) / p * p

/-- The end of an evaluation under test: the record is appended, K counts, and after DELAY + LENGTH evaluations the
test ends; a STEP at OUT leaves MAN_OUT where it put it (R191, R193, R194). The answer is false where no region permits the append (R44). -/
def Mod.testRecord (m : Mod) (n sp pv out sig : Nat) (q : Tag) : Mod × Bool :=
  match m.testOf n with
  | none => (m, true)
  | some g =>
    let k := m.get (F.LOOPTEST_STATUS_K g.val)
    let lim := m.flag (F.LOOP_MODE_LIM_HI n) || m.flag (F.LOOP_MODE_LIM_LO n)
    match m.cbwAppend 8 (m.get (F.LOOPTEST_CTRL_CBW g.val))
      (captureRec k sp pv out sig q lim (m.flag (F.LOOP_MODE_INT_HOLD n)) (m.sampleAt n)) with
    | (m, true) => (m, false)
    | (m, false) =>
      let m := m.set (F.LOOPTEST_STATUS_K g.val) (k + 1)
      if k + 1 < testDelay m g.val + testLen m g.val then (m, true)
      else
        let m := (m.set (F.LOOPTEST_STATUS_STATE g.val) 2).set (F.LOOP_MODE_TEST n) 0
        (m.when (m.get (F.LOOPTEST_CTRL_KIND g.val) == 0 && !testAtSp m g.val) (fun m =>
          m.set (F.LOOP_MAN_OUT_MAN n) (fAdd b32 (m.get (F.LOOP_MAN_OUT_MAN n)) (m.get (F.LOOPTEST_AMP_AMP g.val)))), true)

/-! ### An evaluation (R177, R181 to R187) -/

/-- The inner loop of the plan that names a loop as its outer loop: the first in the plan's order (log entry 12). -/
def Mod.innerOf (m : Mod) (n : Nat) : Option Nat :=
  m.loopNums.find? (fun k => m.get (F.LOOP_CFG_TYPE k) != 0 && m.flag (F.LOOP_CFG_CASCADE k) && m.get (F.LOOP_CFG_OUTER k) == n)

/-- A safe-state request stands on the loop's actuator, or OUT is FORCED (R180, R186). -/
def Mod.loopOver (m : Mod) (n : Nat) (outRec : PRec) : Bool :=
  isForced outRec.qual ||
    (match actOutput (m.get (F.LOOP_CFG_ACT n)) with
     | some o => m.exec.hardReq || m.outs[o].req != 0
     | none => false)

/-- What the actuator shows in the loop's units; none where it is high-impedance or there is none. -/
def Mod.actShown (m : Mod) (n : Nat) (outRec : PRec) : Option Word :=
  match actOutput (m.get (F.LOOP_CFG_ACT n)) with
  | some o =>
    (match m.source o with
     | .value w => some w
     | .alarm => some (alarmMa (m.flag (F.LTX_CFG_ALARM (o.val - 40))))
     | _ => none)
  | none => if isForced outRec.qual then some (BitVec.ofNat 32 outRec.val.toNat) else none

/-- REQ applied (R182): CAS only where there is an outer loop; a change to MAN takes over the last output (R183). -/
def Mod.loopRequest (m : Mod) (n : Nat) : Mod :=
  let l := m.loopSt n
  let r := m.get (F.LOOP_MODE_REQ n)
  let m := m.set (F.LOOP_MODE_REQ n) 0
  if r = 0 ∨ 3 < r ∨ (r = 3 ∧ !m.flag (F.LOOP_CFG_CASCADE n)) then m
  else
    let m := m.when (r == 1 && (l.base == 2 || l.base == 3)) (fun m => m.set (F.LOOP_MAN_OUT_MAN n) (m.get (F.LOOP_OUT_OUT n)))
    m.setLoop n { l with base := r, failed := false }

/-- A bad PV counted, and MAN entered at BAD_LIMIT where BADPV is 1 (R185). -/
def Mod.loopPv (m : Mod) (n : Nat) (good : Bool) : Mod :=
  let m := m.setB (F.LOOP_MODE_PV_BAD n) (!good)
  if good then m.set (F.LOOP_MODE_BADCNT n) 0
  else
    let m := m.addSat (F.LOOP_MODE_BADCNT n) 1
    if m.flag (F.LOOP_CFG_BADPV n) && decide (max 1 (m.get (F.LOOP_CFG_BAD_LIMIT n)) ≤ m.get (F.LOOP_MODE_BADCNT n))
        && !(m.loopSt n).failed then
      let m := (m.set (F.LOOP_MODE_FAILED n) 1).set (F.LOOP_MAN_OUT_MAN n) (m.get (F.LOOP_OUT_OUT n))
      (m.setLoop n { m.loopSt n with base := lmMan, failed := true }).log .loopPvFail n []
    else m

/-- The mode in force at an evaluation (R181, R185, R187). -/
def Mod.loopMode (m : Mod) (n : Nat) (good : Bool) : Nat :=
  let l := m.loopSt n
  if l.failed then lmMan
  else if !good then lmHold
  else match m.innerOf n with
    | some k => if m.get (F.LOOP_MODE_ACT k) = lmCas then l.base else lmTrack
    | none => l.base

/-- The cascade condition of R187: the inner held its integrator and raising this output drives it further. -/
def Mod.cascadeHold (m : Mod) (n e : Nat) : Bool :=
  match m.innerOf n with
  | none => false
  | some k =>
    let ei := (m.loopSt k).err.toNat
    let ei := if m.flag (F.LOOP_CFG_ACTION k) then fNeg b32 ei else ei
    m.flag (F.LOOP_MODE_INT_HOLD k)
      && ((fLt b32 0 e && fLt b32 0 ei) || (fLt b32 e 0 && fLt b32 ei 0))

/-- The tile that an outer loop's evaluation loads beside its own: that of the inner loop's SP point, while the inner is in AUTO (R187). -/
def Mod.trackPoint (m : Mod) (n : Nat) : Option Nat :=
  match m.innerOf n with
  | some k => if m.get (F.LOOP_MODE_ACT k) = lmAuto then some (m.get (F.LOOP_POINTS_SP k)) else none
  | none => none

/-- What an outer loop follows in TRACK (R187): the inner's SP point as loaded while the inner is in AUTO, else its PV. DESIGN CHOICE (log entry
114): an inner loop that is itself in TRACK gives its PV as well. -/
def Mod.tracked (m : Mod) (n : Nat) (innerSp : Option PRec) : Nat :=
  match m.innerOf n with
  | none => m.get (F.LOOP_OUT_OUT n)
  | some k => if m.get (F.LOOP_MODE_ACT k) = lmAuto then (innerSp.map (fun r => r.val.toNat % 2 ^ 32)).getD 0 else m.get (F.LOOP_PV_PV k)

/-- What an evaluation computes in a mode: output, integrator, d_prev, ed_prev, error and the flags of the limits; none in
HOLD, where nothing moves. -/
def Mod.loopCompute (m : Mod) (n old mode sp pv inj uPrev trk : Nat) (ovr : Bool) : Option LawOut :=
  let c := m.tuning n
  let l := m.loopSt n
  if mode = lmMan then
    let u := fAdd b32 (m.get (F.LOOP_MAN_OUT_MAN n)) inj
    some { out := clampOut c u, i := l.i.toNat, d := l.dPrev.toNat, ed := l.edPrev.toNat, e := lErr c sp pv
           limHi := fLt b32 c.hi u, limLo := fLt b32 u c.lo }
  else if mode = lmTrack then some (bumpless c trk sp pv)
  else if mode = lmHold then none
  else if old = lmMan ∨ old = lmTrack ∨ old = lmHold ∨ l.cold then some (bumpless c uPrev sp pv)
  else
    let r := retune l c (m.get (F.LOOP_KP_KP n)) (m.get (F.LOOP_TD_TD n)) (m.word (R.LOOP_WEIGHT n)).toNat sp pv
    let ed := if l.warm then wErr c c.gamma sp pv else r.2.2
    some (law c r.1 uPrev r.2.1 ed sp pv (ovr || m.cascadeHold n (lErr c sp pv)))

/-- OUT written (R185): value, quality from PV and setpoint, SUBST in HOLD and in MAN entered through FAILED; a forced
OUT stays (R186). The answer is false where no region permits the write (R44). -/
def Mod.loopWriteOut (m : Mod) (n : Nat) (r : PRec) (out : Nat) (q : Tag) (subst : Bool) : Mod × Bool :=
  if isForced r.qual then (m, true)
  else m.pointStore 8 (m.get (F.LOOP_OUTPT_OUT n))
    (r.fresh (ofF32 out) (withValid ((q &&& 0x07F7#16) ||| (if subst then 0x0004#16 else 0))))

/-- The write-back of an evaluation and, under test, its capture record. -/
def Mod.loopDone (m : Mod) (n : Nat) (outR : PRec) (out : Nat) (q : Tag) (subst : Bool) (sp pv inj : Nat) (pvq : Tag) : Mod × Bool :=
  match m.loopWriteOut n outR out q subst with
  | (m, true) => m.testRecord n sp pv out inj pvq
  | r => r

/-- The evaluation after its loads: `pvR`, `spR`, `outR` and, for an outer loop, `inR` are the records read. The answer is false where a write-back
left the engine's regions. -/
def Mod.loopEval (m : Mod) (n : Nat) (pvR spR outR : PRec) (inR : Option PRec) : Mod × Bool :=
  let old := m.get (F.LOOP_MODE_ACT n)
  let good := pvR.qual &&& 1#16 != 0
  let pv := pvR.val.toNat % 2 ^ 32
  let m := (m.loopRequest n).loopPv n good
  let mode := m.loopMode n good
  let m := m.set (F.LOOP_MODE_ACT n) mode
  let m := m.set (F.LOOP_PV_PV n) pv
  let m := (m.testChecks n old mode pv).testStarts n mode pv
  let spGood := spR.qual &&& 1#16 != 0
  let m := m.setB (F.LOOP_MODE_SP_BAD n) (!spGood)
  -- the last VALID setpoint; where there never was one, a free value (log entry 2)
  let last := (m.loopSt n).lastSp
  let sp := if spGood then spR.val.toNat % 2 ^ 32 else match last with | some w => w.toNat | none => m.free.toNat % 2 ^ 32
  let m := m.when (!spGood && last.isNone) Mod.drawn
  let m := m.setLoop n { m.loopSt n with lastSp := if spGood then some (BitVec.ofNat 32 sp) else last }
  let inj := match m.testOf n with | some g => m.testNow g.val | none => 0
  let atSp := match m.testOf n with | some g => testAtSp m g.val | none => false
  let sp := if atSp then fAdd b32 sp inj else sp
  let ovr := m.loopOver n outR
  let l := m.loopSt n
  let uPrev := if l.overridden && !ovr then (l.shown.getD l.uPrev).toNat else l.uPrev.toNat
  let q := combine [pvR.qual, spR.qual] false
  match m.loopCompute n old mode sp pv (if atSp then 0 else inj) uPrev (m.tracked n inR) ovr with
  | none =>
    let out := m.get (F.LOOP_OUT_OUT n)
    let m := m.setLoop n { l with uPrev := BitVec.ofNat 32 uPrev, overridden := ovr, shown := if ovr then m.actShown n outR else l.shown }
    (m.setB (F.LOOP_MODE_INT_HOLD n) ovr).loopDone n outR out q true sp pv inj pvR.qual
  | some r =>
    let m := m.setLoop n { l with
      i := BitVec.ofNat 64 r.i, uPrev := BitVec.ofNat 32 r.out, dPrev := BitVec.ofNat 32 r.d
      edPrev := BitVec.ofNat 32 r.ed, err := BitVec.ofNat 32 r.e, overridden := ovr
      shown := if ovr then m.actShown n outR else l.shown
      cold := if mode = lmAuto ∨ mode = lmCas then false else l.cold
      warm := if mode = lmAuto ∨ mode = lmCas then false else l.warm
      kp := m.word (R.LOOP_KP n), td := m.word (R.LOOP_TD n), weight := m.word (R.LOOP_WEIGHT n) }
    let m := (m.set (F.LOOP_I_I n) (to32 r.i)).set (F.LOOP_OUT_OUT n) r.out
    let m := (m.setB (F.LOOP_MODE_LIM_HI n) r.limHi).setB (F.LOOP_MODE_LIM_LO n) r.limLo
    let m := (m.setB (F.LOOP_MODE_RATE_LIM n) r.rateLim).setB (F.LOOP_MODE_INT_HOLD n) (r.held || ovr)
    m.loopDone n outR r.out q (mode == lmMan && l.failed) sp pv inj pvR.qual

/-- The setpoint source (R181): the outer loop's OUT in CAS, else SP. -/
def Mod.spSource (m : Mod) (n : Nat) : Nat :=
  let cas := match m.get (F.LOOP_MODE_REQ n) with
    | 3 => m.flag (F.LOOP_CFG_CASCADE n)
    | 1 => false
    | 2 => false
    | _ => (m.loopSt n).base == lmCas
  if cas then m.get (F.LOOP_OUTPT_OUT (m.get (F.LOOP_CFG_OUTER n))) else m.get (F.LOOP_POINTS_SP n)

def noRec : PRec := ⟨0, 0x0100#16, 0xFFFF, 0, 0⟩

/-- The loop engine left its regions: an overrun with cause REGION_LOOP (R44, R98). -/
def Mod.loopRegion (m : Mod) (n : Nat) : Mod :=
  m.overrun 5 (m.get (F.LOOP_CFG_CLASS n)) ((m.exec.burst.map (·.seq)).getD 0) m.unfinished

/-- A loop's evaluation (R177): checked loads of the tiles of PV, setpoint source and OUT, each once, as bus master 8; the computation; the
write-back. -/
def Mod.loopRun (m : Mod) (n : Nat) : Mod :=
  if m.get (F.LOOP_CFG_TYPE n) = 0 then m
  else
    let at_ (p : Nat) : Option PMapEnt := mapGet p m.mem.pmap
    let pv := at_ (m.get (F.LOOP_POINTS_PV n))
    let sp := at_ (m.spSource n)
    let out := at_ (m.get (F.LOOP_OUTPT_OUT n))
    let inn := (m.trackPoint n).bind at_
    let ts := ([pv, sp, out, inn].filterMap (fun e => e.map (·.tile))).eraseDups
    match m.masterLoads 8 ts with
    | (m, none) => m.loopRegion n
    | (m, some ls) =>
      let r (e : Option PMapEnt) : Option PRec := e.bind (recIn ls)
      (match m.loopEval n ((r pv).getD noRec) ((r sp).getD noRec) ((r out).getD noRec) (r inn) with
       | (m, true) => m
       | (m, false) => m.loopRegion n)

/-- The second in which a loop of period `p` ms starts a period (R174), `late` seconds ago. -/
def loopSecond (m : Mod) (p late : Nat) : Bool :=
  if p ≤ 1000 then true
  else decide (late ≤ m.clk.ns / 1000000000) && (m.clk.ns / 1000000000 - late) % (p / 1000) == 0

/-- A loop's latch instant after its period start, in whole seconds (R176, R178). -/
def latchSeconds (p phase : Nat) : Nat := p * phaseOf phase / 256 / 1000

/-! ### Restart and load (R188, R189) -/

/-- A loop's registers and state as a plan load sets them: a cold start (R188). -/
def Mod.loopLoad (m : Mod) (d : LoopDef) : Mod :=
  let m := (List.range 12).foldl (fun m k => m.setWord (R.LOOP_CFG d.num + 4 * k) (d.words.getD k 0)) m
  let m := (m.setWord (R.LOOP_MODE d.num) 0).set (F.LOOP_MODE_ACT d.num) d.mode
  let m := ((m.set (F.LOOP_I_I d.num) d.initOut.toNat).set (F.LOOP_OUT_OUT d.num) d.initOut.toNat).set (F.LOOP_PV_PV d.num) 0
  m.setLoop d.num { base := d.mode, uPrev := d.initOut, i := BitVec.ofNat 64 (to64 d.initOut.toNat), cold := true
                    kp := m.word (R.LOOP_KP d.num), td := m.word (R.LOOP_TD d.num), weight := m.word (R.LOOP_WEIGHT d.num) }

/-- The retain record of a loop (R188): 24 bytes. -/
def Mod.loopRecord (m : Mod) (n : Nat) : List Byte :=
  let l := m.loopSt n
  leBytes 4 (m.get (F.LOOP_MODE_ACT n) + 8 * b2n (m.flag (F.LOOP_MODE_FAILED n))) ++ leBytes 8 l.i.toNat
    ++ leBytes 4 l.uPrev.toNat ++ leBytes 4 (m.get (F.LOOP_MAN_OUT_MAN n)) ++ leBytes 4 0

/-- A warm restart of a loop from its record (R188): TRACK and HOLD resolve at the first evaluation. DESIGN CHOICE (log entry 138): for them the mode to return
to, which the record does not hold, is the declared one. -/
def Mod.loopWarm (m : Mod) (d : LoopDef) (bs : List Byte) : Mod :=
  let st := recField' bs 0 4
  let mode := bits st 0 3
  let failed := bitAt st 3
  let u := recField' bs 12 4
  let m := ((m.set (F.LOOP_MODE_ACT d.num) mode).setB (F.LOOP_MODE_FAILED d.num) failed).set (F.LOOP_MAN_OUT_MAN d.num) (recField' bs 16 4)
  let m := (m.set (F.LOOP_I_I d.num) (to32 (recField' bs 4 8))).set (F.LOOP_OUT_OUT d.num) u
  m.setLoop d.num { m.loopSt d.num with
    base := if 1 ≤ mode ∧ mode ≤ 3 then mode else d.mode, failed := failed && mode == lmMan
    i := BitVec.ofNat 64 (recField' bs 4 8), uPrev := BitVec.ofNat 32 u, dPrev := 0, cold := false, warm := true }
where
  recField' (bs : List Byte) (off n : Nat) : Nat := ofLe ((bs.drop off).take n)

/-! ### Register writes (R182, R184, R192, R195) -/

/-- A REAL32 is below 0. -/
def fNegative (x : Nat) : Bool := fLt b32 x 0

/-- A write of a tuning register at offset `off` of a loop (R184, R195). Writes that R184 forbids are ignored with
EV_LOOP_PARAM. -/
def Mod.loopTune (m : Mod) (n off : Nat) (w : Word) : Mod :=
  let v := w.toNat
  let bad := match off with
    | 0x10 => fNegative v || fIsNan b32 v
    | 0x14 => fNegative v || fIsZero b32 v
    | 0x18 => fNegative v || fIsNan b32 v
    | 0x20 => fLt b32 (m.get (F.LOOP_OUT_HI_HI n)) v
    | 0x24 => fLt b32 v (m.get (F.LOOP_OUT_LO_LO n))
    | 0x28 => fNegative v || fIsNan b32 v
    | _ => false
  if bad then m.log .loopParam n []
  else match off with
    | 0x00 => (m.set (F.LOOP_CFG_BADPV n) (bits v 16 1)).set (F.LOOP_CFG_BAD_LIMIT n) (bits v 18 6)
    | 0x1C => m.setWord (R.LOOP_WEIGHT n) (w &&& 0x00FFFFFF#32)
    | _ => if 0x10 ≤ off ∧ off ≤ 0x2C then m.setWord (R.LOOP_CFG n + off) w else m

/-- START written: the test starts or is refused at the loop's next evaluation (R192). -/
def Mod.testStart (m : Mod) (g : Fin 4) : Mod := { m with tests := m.tests.set g { m.tests[g] with start := true } }

/-- ABORT written (R192). -/
def Mod.testStop (m : Mod) (g : Fin 4) : Mod :=
  if m.get (F.LOOPTEST_STATUS_STATE g.val) = 1 ∨ m.tests[g].start then m.testAbort g 5 else m

/-! ### The analysis (R194) -/

/-- A capture record as the management core reads it (R193): PV and s(k). -/
structure CapRec where
  pv : Int
  sig : Int
deriving DecidableEq, Repr

/-- The last `n` records of a window, oldest first: tile and byte offset. -/
def Mod.capPlaces (m : Mod) (w n : Nat) : List (Nat × Nat) :=
  let len := max 1 (m.get (F.CBW_LENGTH_LENGTH w))
  (List.range n).map (fun k =>
    let i := (m.get (F.CBW_HEAD_HEAD w) + (len - n) + k) % len
    (m.get (F.CBW_BASE_TILE w) + i / 8, i % 8 * 32))

/-- The capture read with checked loads as bus master 9 (R34); none where a region or a FAULTED tile keeps it from being read. -/
def Mod.captured (m : Mod) (w n : Nat) : Mod × Option (List CapRec) :=
  let ps := m.capPlaces w n
  match m.masterLoads 9 (ps.map (·.1)).eraseDups with
  | (m, none) => (m, none)
  | (m, some ls) =>
    (m, ps.foldr (fun x acc =>
      match (mapGet x.1 ls).bind Load.bytes?, acc with
      | some bs, some l => some ({ pv := fix (ofLe ((bs.drop (x.2 + 8)).take 4)), sig := fix (ofLe ((bs.drop (x.2 + 16)).take 4)) } :: l)
      | _, _ => none) (some []))

def sumInt (l : List Int) : Int := l.foldl (· + ·) 0

/-- The time (in samples, as a fraction num/den) at which a series first crosses a target, interpolated linearly. -/
def crossing (ys : List Int) (target : Int) (up : Bool) : Nat → Option (Int × Int)
  | k =>
    match ys with
    | a :: b :: rest =>
      let ovr (y : Int) : Bool := if up then decide (target ≤ y) else decide (y ≤ target)
      if ovr a then some (k, 1)
      else if ovr b then (if b = a then some (k + 1, 1) else
        (let num := (target - a) + (k : Int) * (b - a)
         let den := b - a
         if den < 0 then some (-num, -den) else some (num, den)))
      else crossing (b :: rest) target up (k + 1)
    | [a] => if (if up then decide (target ≤ a) else decide (a ≤ target)) then some (k, 1) else none
    | [] => none

/-- A model of R194: K, θ and τ as REAL32, and its response in the units of the captured PVs times 2^64. -/
structure Model where
  k : Nat
  theta : Nat
  tau : Nat
  resp : List Int
deriving DecidableEq, Repr

/-- K, θ and τ of a STEP from its captured PVs, exact and rounded once (R194). Its response is the baseline up to θ after the step, then
the exponential towards the final value (log entry 6). -/
def stepModel (pvs : List Int) (delay len amp tMs : Nat) : Option Model :=
  let tail := max 1 (len / 10)
  let b := sumInt (pvs.take delay)
  let f := sumInt (pvs.drop (delay + len - tail))
  let a := fix amp
  -- everything below is scaled by delay × tail
  let den : Int := (delay * tail : Nat)
  let diff := f * delay - b * tail
  if a = 0 ∨ delay = 0 ∨ diff = 0 then none
  else
    let ys := (pvs.drop delay).map (fun y => y * den * 1000)
    let up := decide (0 < diff)
    match crossing ys (b * tail * 1000 + diff * 283) up 0, crossing ys (b * tail * 1000 + diff * 632) up 0 with
    | some (n28, d28), some (n63, d63) =>
      -- τ = 1.5 (t63 − t28), θ = max(0, t63 − τ), in samples over 2 d28 d63
      let dd := (2 * (d28 * d63)).natAbs
      let tau := 3 * (n63 * d28 - n28 * d63)
      let theta := max 0 (2 * n63 * d28 - tau)
      let resp (k : Nat) : Int :=
        let x : Int := ((k : Int) - delay) * dd - theta
        let rise := if x ≤ 0 then 0 else if tau ≤ 0 then fxOne else fxOne - expNeg (x * fxOne / tau)
        (b * tail * 2 ^ 64 + diff * (rise / 2 ^ 64)) / den
      some { k := fOfRat b32 (if a * den < 0 then -diff else diff) (a * den).natAbs
             theta := fOfRat b32 (theta * tMs) (dd * 1000), tau := fOfRat b32 (tau * tMs) (dd * 1000)
             resp := (List.range (delay + len)).map resp }
    | _, _ => none

/-- The sums of a least-squares fit of y(k) by y(k − 1), s(k − 1 − d) and 1. -/
structure FitSums where
  n : Int := 0
  pp : Int := 0
  ps : Int := 0
  p : Int := 0
  ss : Int := 0
  s : Int := 0
  yp : Int := 0
  ys : Int := 0
  y : Int := 0
  yy : Int := 0
deriving DecidableEq, Repr

def FitSums.add (a : FitSums) (p s y : Int) : FitSums :=
  { n := a.n + 1, pp := a.pp + p * p, ps := a.ps + p * s, p := a.p + p, ss := a.ss + s * s, s := a.s + s
    yp := a.yp + y * p, ys := a.ys + y * s, y := a.y + y, yy := a.yy + y * y }

/-- The sums for dead time `d`, over the evaluations that have the values they need. -/
def fitSums (rs : List CapRec) (d : Nat) : FitSums :=
  (((rs.drop d).zip (rs.drop (d + 1))).zip rs).foldl (fun a x => a.add x.1.1.pv x.2.sig x.1.2.pv) {}

/-- A 3 × 3 determinant. -/
def det3 (a b c d e f g h i : Int) : Int := a * (e * i - f * h) - b * (d * i - f * g) + c * (d * h - e * g)

/-- A fit by Cramer's rule: a, b, c over `den`, with the sum of squared residuals over `den`; none where the equations are singular. -/
structure Fit where
  d : Nat
  a : Int
  b : Int
  c : Int
  den : Int
  rss : Int
deriving DecidableEq, Repr

def fitOf (rs : List CapRec) (d : Nat) : Option Fit :=
  let s := fitSums rs d
  let den := det3 s.pp s.ps s.p s.ps s.ss s.s s.p s.s s.n
  if den ≤ 0 then none
  else
    let a := det3 s.yp s.ps s.p s.ys s.ss s.s s.y s.s s.n
    let b := det3 s.pp s.yp s.p s.ps s.ys s.s s.p s.y s.n
    let c := det3 s.pp s.ps s.yp s.ps s.ss s.ys s.p s.s s.y
    some { d := d, a := a, b := b, c := c, den := den, rss := s.yy * den - a * s.yp - b * s.ys - c * s.y }

/-- The fit of smallest residual; of equal ones that of the smallest dead time. -/
def bestFit (rs : List CapRec) (len : Nat) : Option Fit :=
  ((List.range (min 63 (len / 4) + 1)).filterMap (fitOf rs)).foldl (fun o f =>
    match o with
    | none => some f
    | some g => if f.rss * g.den < g.rss * f.den then some f else some g) none

/-- The response of a fitted model from the PV at the start (log entry 6): `y` the last value, `sig` the signals delayed by d + 1. -/
def fitResp (f : Fit) (y : Int) : List Int → List Int
  | [] => []
  | s :: ss =>
    let y' := (f.a * y + f.b * s * 2 ^ 64 + f.c * 2 ^ 64) / f.den
    y' :: fitResp f y' ss

/-- K, θ and τ of a PRBS, CHIRP or SINE by least squares (R194). -/
def fitModel (rs : List CapRec) (len tMs : Nat) : Option Model :=
  match bestFit rs len with
  | none => none
  | some f =>
    if f.a ≤ 0 ∨ f.den ≤ f.a then none
    else
      let head := (rs.take (f.d + 1)).map (fun r => r.pv * 2 ^ 64)
      let ln := lnRat f.a.toNat f.den.toNat
      some { k := fOfRat b32 f.b (f.den - f.a).toNat, theta := fOfRat b32 (f.d * tMs : Nat) 1000
             tau := if ln = 0 then fInf b32 false else fOfRat b32 ((tMs : Int) * fxOne) (1000 * ln.natAbs)
             resp := head ++ fitResp f (head.getLastD 0) ((rs.take (rs.length - (f.d + 1))).map (·.sig)) }

/-- FIT in 0.01 % (R194), to the nearest step and not below 0; a PV that never moved gives 0 (log entry 6). -/
def fitOfModel (rs : List CapRec) (md : Model) : Nat :=
  let n : Int := rs.length
  let sum := sumInt (rs.map (·.pv))
  let res := sumInt ((rs.zip md.resp).map (fun x => (x.1.pv * 2 ^ 64 - x.2) * (x.1.pv * 2 ^ 64 - x.2)))
  let var := sumInt (rs.map (fun r => (r.pv * n - sum) * (r.pv * n - sum)))
  -- 1 − res n² / (var 2^128)
  let d := var * 2 ^ 128
  if d = 0 then 0 else ((2 * (10000 * (d - res * n * n)) + d) / (2 * d)).toNat

end Sys2Proof.Machine
end

