-- ==== Sys2Proof/Machine/Loops.lean ====
section
/-! DEFINITION. The loop engine's commands that are no Drum entries (R182, R184, R192, R194). Writes count only from an
OPERATOR session of scope 0 or a SERVICE session (R195). -/

namespace Sys2Proof.Machine

/-- LOOP_MODE_REQUEST (R182): REQ waits for the loop's next LOOP_RUN; a later write replaces an earlier one. -/
def execLoopModeRequest (h : BitVec 10) (n : BitVec 8) (req : BitVec 3) (s : State) : Out :=
  onMod s fun m => if m.isO0V h.toNat then m.set (F.LOOP_MODE_REQ n.toNat) req.toNat else m

/-- LOOP_TUNING_WRITE (R184): register `reg` of the loop (offset 4 × reg) is written, or ignored with EV_LOOP_PARAM. -/
def execLoopTuningWrite (h : BitVec 10) (n : BitVec 8) (reg : Fin 12) (w : BitVec 32) (s : State) : Out :=
  onMod s fun m => if m.isO0V h.toNat then m.loopTune n.toNat (4 * reg.val) w else m

/-- LOOPTEST_START (R192): the test starts or is refused at its loop's next LOOP_RUN. -/
def execLooptestStart (h : BitVec 10) (g : Fin 4) (s : State) : Out :=
  onMod s fun m => if m.isO0V h.toNat then m.testStart g else m

/-- LOOPTEST_ABORT (R192): the running test stops with cause 5. -/
def execLooptestAbort (h : BitVec 10) (g : Fin 4) (s : State) : Out :=
  onMod s fun m => if m.isO0V h.toNat then m.testStop g else m

/-- LOOPTEST_ANALYSIS (R194): the model of the captured response and its FIT; the estimates are 0 where there is none. -/
def execLooptestAnalysis (g : Fin 4) (s : State) : Out :=
  onMod s fun m =>
    if m.get (F.LOOPTEST_STATUS_STATE g.val) = 2 then
      let len := testLen m g.val
      let p := m.get (F.LOOP_TIMING_PERIOD (m.get (F.LOOPTEST_CTRL_LOOP g.val)))
      let c := m.captured (m.get (F.LOOPTEST_CTRL_CBW g.val)) (testDelay m g.val + len)
      let m := c.1
      let rs := c.2.getD []
      let md := if m.get (F.LOOPTEST_CTRL_KIND g.val) = 0
        then stepModel (rs.map (·.pv)) (testDelay m g.val) len (m.get (F.LOOPTEST_AMP_AMP g.val)) p else fitModel rs len p
      let fit := (md.map (fitOfModel rs)).getD 0
      let valid := md.isSome && decide (5000 ≤ fit)
      let m := m.set (F.LOOPTEST_EST_K_K g.val) ((md.map (·.k)).getD 0)
      let m := (m.set (F.LOOPTEST_EST_THETA_THETA g.val) ((md.map (·.theta)).getD 0)).set (F.LOOPTEST_EST_TAU_TAU g.val) ((md.map (·.tau)).getD 0)
      let m := (m.set (F.LOOPTEST_EST_FIT_FIT g.val) fit).setB (F.LOOPTEST_EST_FIT_VALID g.val) valid
      m.set (F.LOOPTEST_STATUS_STATE g.val) (if valid then 5 else 4)
    else m

end Sys2Proof.Machine
end

