-- ==== Sys2Proof/Machine/Metrology.lean ====
section
/-! DEFINITION. The metrology DSP (R198 to R227): samples, energy, blocks, intervals, calibration, meter points. Samples
are converter codes in units of 2^-31 of a channel's linear limit (the unit of R227); sums are exact, a published REAL32 is
the formula's value rounded once (log entry 13). -/

namespace Sys2Proof.Machine

def Mod.metCh (m : Mod) (c : Nat) : MetCh := mapGetD {} c m.met.ch
def Mod.setMet (m : Mod) (c : Nat) (x : MetCh) : Mod := { m with met := { m.met with ch := mapPut c x m.met.ch } }

/-- The square root of a fraction rounded to REAL32; 0 of a negative one. -/
def sqrtF (q : Rat) : Nat :=
  if q.num ≤ 0 then 0
  else
    let n := q.num.toNat * 2 ^ 400
    let v := n / q.den
    let r := isqrt v 280 0
    fMk b32 false r (-200) (decide (r * r ≠ v ∨ n % q.den ≠ 0))

/-! ### Calibration (R217 to R219) -/

/-- The temperature factor of R219: linear between the table's points, its ends held; 1.0 where the table failed. -/
def tempFactor (m : Mod) : Rat :=
  if m.flag F.MET_STATUS_TCOMP_BAD then 1
  else
    let t := toInt 16 (m.get F.MET_TEMP_TEMP) + 4000
    if t ≤ 0 then fRat (m.get (F.MET_TCOMP_FACTOR 0))
    else if 12000 ≤ t then fRat (m.get (F.MET_TCOMP_FACTOR 15))
    else
      let j := t.toNat / 800
      let a := fRat (m.get (F.MET_TCOMP_FACTOR j))
      let b := fRat (m.get (F.MET_TCOMP_FACTOR (j + 1)))
      a + (b - a) * mkRat (t.toNat % 800 : Nat) 800

/-- Word `k` of the calibration in force: the set's, or the fallback's. -/
def calWord (m : Mod) (c k : Nat) : Rat :=
  match (m.metCh c).set with
  | some ws => fRat (ws.getD k 0).toNat
  | none => if k = 13 ∨ k = 14 then 1 else if k % 2 = 0 ∧ k ≤ 10 then tempFactor m else 0

/-- The neutral set of R217. -/
def neutralSet : List Word :=
  [0x3F800000, 0, 0x3F800000, 0, 0x3F800000, 0, 0x3F800000, 0, 0x3F800000, 0, 0x3F800000, 0, 0, 0x3F800000, 0x3F800000]

def wordsBytes (ws : List Word) : List Byte := ws.flatMap (fun w => leBytes 4 w.toNat)

/-- `n` words of a byte list. -/
def bytesWords : Nat → List Byte → List Word
  | 0, _ => []
  | n + 1, bs => BitVec.ofNat 32 (ofLe (bs.take 4)) :: bytesWords n (bs.drop 4)

/-- A set's CRC (MET[c].CAL, EV_MET_CAL); 0 in fallback. -/
def setCrc (s : Option (List Word)) : Nat := match s with | some ws => crc32c (wordsBytes ws) | none => 0

/-- CAL_SRC, CAL.CRC and FALLBACK as they follow from the sets in force (R219, R230, R231). -/
def Mod.calShow (m : Mod) (c : Nat) : Mod :=
  let s := (m.metCh c).set
  let src := if s.isSome then 0 else if m.flag F.MET_STATUS_TCOMP_BAD then 2 else 1
  let m := m.set (F.MET_CAL_CRC c) (setCrc s)
  let m := if c < 96 then m.set (F.MET_STATUS_I_CAL_SRC c) src else m.set (F.MET_STATUS_V_CAL_SRC (c - 96)) src
  m.set F.MET_STATUS_FALLBACK (((List.range 102).filter (fun k => (m.metCh k).set.isNone)).length)

/-! ### Units (R199, R207) -/

/-- Amperes of one code of a current sample, which carries 24 more fraction bits (see `codeI`). -/
def unitI (m : Mod) (c : Nat) : Rat := fRat (m.metCh c).scale.toNat * mkRat 3 (4 * 2 ^ 55)
/-- Volts of one code of a voltage sample. -/
def unitV (m : Mod) (c : Nat) : Rat := fRat (m.metCh c).scale.toNat * mkRat 5 (4 * 2 ^ 31)
/-- IR of a current channel, squared: (SCALE × 0.5)² / 2. -/
def irSq (m : Mod) (c : Nat) : Rat := let s := fRat (m.metCh c).scale.toNat; s * s / 8
/-- UR of a voltage channel, squared: SCALE² / 2. -/
def urSq (m : Mod) (c : Nat) : Rat := let s := fRat (m.metCh c).scale.toNat; s * s / 2

/-- The voltage channel of a current channel as an index 96 to 101. -/
def vchOf (m : Mod) (c : Nat) : Nat := 96 + min 5 (m.get (F.MET_CFG_I_VCH c))

/-- raw² → G² × max(0, raw² − O²): the square of a calibrated rms (R218). -/
def calSq (m : Mod) (c k : Nat) (rawSq : Rat) : Rat :=
  let g := calWord m c k
  let o := calWord m c (k + 1)
  g * g * max 0 (rawSq - o * o)

/-! ### A sample (R201 to R205, R209, R210, R227) -/

/-- A code clipped to the linear limit (R205). -/
def clipCode (x : Int) : Int := if x < -2147483648 then -2147483648 else if 2147483648 < x then 2147483648 else x

/-- A fine-path sample exceeds 90 % of its range's linear limit: the selection goes to ×1 at that sample (R204). -/
def fineOver (sel : Nat) (fine : Int) : Bool :=
  (sel == 1 && decide (9 * 2147483648 < (fine.natAbs : Int) * 40)) || (sel == 2 && decide (9 * 2147483648 < (fine.natAbs : Int) * 160))

/-- The current sample that enters the sums: the coarse code, or the fine code times RG4 or RG16 (R204, R218), with 24
more fraction bits. -/
def codeI (m : Mod) (c : Nat) (coarse fine : Int) : Int :=
  match (if fineOver (m.get (F.MET_STATUS_I_RANGE_SEL c)) fine then 0 else m.get (F.MET_STATUS_I_RANGE_SEL c)) with
  | 0 => clipCode coarse * 2 ^ 24
  | 1 => ((clipCode fine : Rat) * calWord m c 13 * 2 ^ 24).floor
  | _ => ((clipCode fine : Rat) * calWord m c 14 * 2 ^ 24).floor

/-- A waveform capture starts (R227). -/
def Mod.capStart (m : Mod) : Mod :=
  if m.flag F.MET_CAP_CTRL_BUSY then m
  else ({ m with met := { m.met with capture := some 0, waiting := [] } }).set F.MET_CAP_CTRL_BUSY 1

/-- A channel's sample beyond its limit: OVERLOAD, RANGE for the block and the flag of the interval (R205), of a voltage channel in the interval
records of the current channels that it serves, which alone have records (DEDUCED, log entry 134); a capture that waits for it starts (R227), once
while DONE stands (DESIGN CHOICE, log entry 134). -/
def Mod.clip (m : Mod) (c : Nat) : Mod :=
  let m := m.setMet c { m.metCh c with badBlock := true, flags := (m.metCh c).flags ||| 32 }
  let m := if c < 96 then m.set (F.MET_STATUS_I_OVERLOAD c) 1
    else ((List.range 96).filter (fun k => vchOf m k == c)).foldl (fun m k => m.setMet k { m.metCh k with flags := (m.metCh k).flags ||| 32 })
      (m.set (F.MET_STATUS_V_OVERLOAD (c - 96)) 1)
  m.when (m.flag F.MET_CAP_CTRL_TRIG_OVL && m.get F.MET_CAP_CTRL_CHANNEL == c && !m.flag F.MET_CAP_CTRL_DONE) Mod.capStart

/-- The counts of the range logic after a sample (R204): consecutive coarse samples within ±0.135 V and ±0.033750 V, the
fine path's samples at ×4, its settling at ×16, and a fine sample beyond 90 % of its range's limit. -/
def rangeCounts (x : MetCh) (sel : Nat) (coarse fine : Int) : MetCh :=
  let a : Int := coarse.natAbs
  let small := decide (a * 1000 ≤ 45 * 2147483648)
  { x with
    in4 := if a * 100 ≤ 18 * 2147483648 then min 1280 (x.in4 + 1) else 0
    in16 := if small then min 1280 (x.in16 + 1) else 0
    fine := min 32 (x.fine + 1)
    settle := x.settle.map (fun k => min 32 (k + 1))
    settleOver := x.settleOver || (x.settle.isSome && !small)
    clipped := fineOver sel fine }

/-! ### Filters (R207, R208, R218) -/

/-- A tap of 1.0. -/
def tapOne : Int := 2 ^ 30

/-- The cosine of n/d of a whole turn, in units of 2^-128. -/
def cosTurn (n : Int) (d : Nat) : Int := sinTurn (4 * n + d) (4 * d)

/-- 801 taps of a linear-phase filter from its middle tap and the 400 on either side of it. -/
def mirrorTaps (half : List Int) : List Int := half.reverse ++ half.drop 1

/-- The gain at `f` Hz of the filter with the middle tap and the 400 beside it, in units of 2^-158 (R208). -/
def filterGain (half : List Int) (f : Nat) : Int :=
  half.zipIdx.foldl (fun a t => a + (if t.2 = 0 then 1 else 2) * t.1 * cosTurn (f * t.2 : Nat) 8000) 0

/-- The bounds of R208 at every whole number of Hz up to half the sample rate: 1.0000 ± 0.0005 within ±2 Hz of nominal, at most a thousandth (60 dB)
at DC and from 2 × nominal − 5 Hz upwards. -/
def fundBounds (half : List Int) (nominal : Nat) : Bool :=
  (List.range 5).all (fun k => decide ((filterGain half (nominal - 2 + k) - 2 ^ 158).natAbs * 2000 ≤ 2 ^ 158))
    && decide ((filterGain half 0).natAbs * 1000 ≤ 2 ^ 158)
    && (List.range (4001 - (2 * nominal - 5))).all (fun k => decide ((filterGain half (2 * nominal - 5 + k)).natAbs * 1000 ≤ 2 ^ 158))

/-- A filter that keeps to R208: a flat-topped window of 801 points on a cosine at nominal frequency. -/
def fundWindow (nominal : Nat) : List Int :=
  (List.range 401).map (fun (k : Nat) =>
    let w := 100000 * fxOne + 190796 * cosTurn k 800 + 107349 * cosTurn (2 * k : Nat) 800 + 18199 * cosTurn (3 * k : Nat) 800
    w * cosTurn (nominal * k : Nat) 8000 / fxOne * 2 ^ 30 / (fxOne * 40010000))

/-- The fundamental filter of a nominal frequency (R208), 801 taps. The manual gives its bounds and not its coefficients: they are free within the
bounds (log entry 135). -/
def fundTaps (f60 : Bool) : List Int :=
  let nominal := if f60 then 60 else 50
  let half := (List.range 401).map (Config.fundTap f60)
  mirrorTaps (if fundBounds half nominal then half else fundWindow nominal)

/-- A filter's output over its memory, newest sample first; with 2^30 for a tap of 1.0. Samples before the first count as 0 (R202). -/
def firOut (taps hist : List Int) : Int := (taps.zip hist).foldl (fun a x => a + x.1 * x.2) 0

/-- The Hilbert transformer of 161 taps (R207): antisymmetric about its middle, so that it shifts by −90° and delays by 80 samples. -/
def hilbertTaps : List Int :=
  let half := (List.range 80).map Config.hilbertTap
  half ++ [0] ++ half.reverse.map (fun x => -x)

/-- A current sample delayed by PHASE (R218): unchanged where PHASE is 0; the coefficients of the fractional-delay filter are free. -/
def phaseOut (phase : Int) (raw : List Int) : Int := if phase = 0 then raw.headD 0 else Config.phaseDelay phase raw

/-- PHASE of the calibration in force (R217, R219). -/
def phaseOf12 (x : MetCh) : Int := (x.set.map (fun ws => (ws.getD 12 0).toInt)).getD 0

/-- What a voltage channel gives at a sample: v, vh, v1 and v1h. -/
structure VSample where
  v : Int
  vh : Int
  v1 : Int
  v1h : Int
deriving DecidableEq, Repr

/-- A channel's filters take a sample: its memories, with the fundamental filter's output first in `out`. -/
def filterIn (taps : List Int) (x : MetCh) (v : Int) : MetCh :=
  let hist := (v :: x.hist).take 801
  { x with hist := hist, out := (firOut taps hist :: x.out).take 161 }

/-- What the filters of a voltage channel show after a sample. -/
def vSample (x : MetCh) : VSample :=
  { v := x.hist.headD 0, vh := firOut hilbertTaps x.hist, v1 := x.out.headD 0, v1h := firOut hilbertTaps x.out }

/-- A sum of energy in units of 2^-32 µWh: value in W times 125 µs; a part below the unit is rounded up or down, which
the manual leaves open (log entry 2). -/
def unitsOf (q : Rat) (up : Bool) : Nat :=
  let x := q * mkRat (125 * 2 ^ 32) 3600
  x.floor.toNat + (if x.den = 1 then 0 else b2n up)

/-- The square root of a fraction, in whole units, rounded down. -/
def isqrtRat (q : Rat) : Nat := isqrt q.floor.toNat 120 0

def sum4 (l : List (Int × Int × Int × Int)) : Int × Int × Int × Int :=
  l.foldl (fun a x => (a.1 + x.1, a.2.1 + x.2.1, a.2.2.1 + x.2.2.1, a.2.2.2 + x.2.2.2)) (0, 0, 0, 0)

/-- The energy of a sample (R209, R210) added to the accumulators of a current channel. -/
def addEnergy (m : Mod) (c : Nat) (x : MetCh) (r : BitVec 64) : MetCh :=
  let v := vchOf m c
  let t := sum4 x.win
  let kp := unitI m c * unitV m v
  let p := calWord m c 2 * ((t.1 : Rat) * kp / 800) + calWord m c 3
  let q := calWord m c 4 * ((t.2.1 : Rat) * kp / (800 * tapOne)) + calWord m c 5
  let i2 := calSq m c 0 ((t.2.2.2 : Rat) * unitI m c * unitI m c / 800)
  let u2 := calSq m v 0 ((t.2.2.1 : Rat) * unitV m v * unitV m v / 800)
  if i2 < irSq m c / 1000000 then { x with creep := true }
  else
    let e := unitsOf (if 0 ≤ p then p else -p) (r.getLsbD 0)
    let f := unitsOf (if 0 ≤ q then q else -q) (r.getLsbD 1)
    let k := mkRat (125 * 2 ^ 32) 3600
    let g := isqrtRat (u2 * i2 * k * k) + b2n (r.getLsbD 2)
    let add (a : Vector Nat 7) (j : Fin 7) (n : Nat) : Vector Nat 7 := a.set j (a[j] + n)
    let a := if 0 ≤ p then add x.acc 0 e else add x.acc 1 e
    let a := if 0 ≤ q then (if 0 ≤ p then add a 2 f else add a 3 f) else (if 0 ≤ p then add a 5 f else add a 4 f)
    { x with acc := add a 6 g, dirs := (x.dirs.1 || decide (0 < p), x.dirs.2 || decide (p < 0)) }

/-- Total sums after a sample (R207): i delayed to match vh in `d`. -/
def addTotals (b : MetSums) (i d v vh : Int) : MetSums :=
  { n := b.n + 1, ii := b.ii + i * i, vv := b.vv + v * v, vi := b.vi + v * i, qi := b.qi + vh * d }

/-- Fundamental sums after a sample, without the reactive one. -/
def addFund (b : MetSums) (i v : Int) : MetSums := { b with n := b.n + 1, ii := b.ii + i * i, vv := b.vv + v * v, vi := b.vi + v * i }

/-- A zero crossing of v1 from `a` to `b` (R207), between the samples n − 1 and n of its block. -/
def addCross (x : MetCross) (n : Nat) (a b : Int) : MetCross :=
  if a < 0 ∧ 0 ≤ b then
    let t := (((n : Int) * 2 ^ 32) - b * 2 ^ 32 / (b - a)).toNat
    { n := x.n + 1, first := if x.n = 0 then t else x.first, last := t }
  else x

/-- The sums of a channel after a sample (R206, R207): `i` and `i1` of the channel itself, or of the first voltage channel of the system in `i1` for a
voltage channel, with the same 80 samples before in `id` and `i1d`. The fundamental filter gives the output of 400 samples before, and 480 after the Hilbert
transformer: the first of a block belong to the block before. -/
def addSums (x : MetCh) (i id i1 i1d : Int) (u : VSample) : MetCh :=
  let k := x.blk.n
  let x := { x with blk := addTotals x.blk i id u.v u.vh }
  let x := if k < 400 then { x with fund := addFund x.fund i1 u.v1 } else { x with fcur := addFund x.fcur i1 u.v1 }
  if k < 480 then { x with fund := { x.fund with qi := x.fund.qi + u.v1h * i1d } } else { x with fcur := { x.fcur with qi := x.fcur.qi + u.v1h * i1d } }

/-- The flags that a sample sets in its interval (R160, R215). -/
def sampleFlags (m : Mod) (x : MetCh) : Nat :=
  let st := m.get F.TIME_STATUS_STATE
  x.flags ||| (if st = 2 ∨ st = 4 then 0 else 2) ||| (if m.met.stepped then 4 else 0) ||| (if x.set.isNone then 64 else 0)

/-- A current channel's sample: coarse and fine codes, with the taps of its fundamental filter and what its voltage channel gives. -/
def Mod.sampleI (m : Mod) (taps : Bool → List Int) (c : Nat) (s : Int × Int) : Mod :=
  let sel := m.get (F.MET_STATUS_I_RANGE_SEL c)
  let m := m.when (decide (2147483648 ≤ s.1.natAbs)) (fun m => m.clip c)
  let u := vSample (m.metCh (vchOf m c))
  let x := rangeCounts (m.metCh c) sel s.1 s.2
  let raw := (codeI m c s.1 s.2 :: x.raw).take 32
  let i := phaseOut (phaseOf12 x) raw
  let x := filterIn (taps (m.flag (F.MET_CFG_V_F60 (vchOf m c - 96)))) { x with raw := raw } i
  let d := x.hist.getD 80 0
  let x := addSums { x with
    win := (x.win ++ [(u.v * i, u.vh * d, u.v * u.v, i * i)]).drop (x.win.length + 1 - 800)
    samples := x.samples + 1, flags := sampleFlags m x } i d (x.out.headD 0) (x.out.getD 80 0) u
  let x := addEnergy m c x (Config.freeWord (m.freeCtr + c))
  (m.setMet c x).setB (F.MET_STATUS_I_REVERSED c) (x.dirs.1 && x.dirs.2)

/-- A voltage channel's sample enters its filters; the first channel of a system before the others. -/
def Mod.sampleV (m : Mod) (taps : Bool → List Int) (k : Nat) (v : Int) : Mod :=
  let c := 96 + k
  let m := m.when (decide (2147483648 ≤ v.natAbs)) (fun m => m.clip c)
  let x := m.metCh c
  let a := x.out.headD 0
  let n := x.blk.n
  let x := filterIn (taps (m.flag (F.MET_CFG_V_F60 k))) x (clipCode v)
  let b := x.out.headD 0
  let x := if n < 400 then { x with cross := addCross x.cross x.fund.n a b } else { x with ccur := addCross x.ccur x.fcur.n a b }
  let r := if k % 3 = 0 then x else m.metCh (c - k % 3)
  m.setMet c (addSums x 0 0 (r.out.headD 0) (r.out.getD 80 0) (vSample x))

/-- A running capture's record (R227): the current sample, then the voltage sample, as signed 32-bit codes. It waits for the DSP's next window
(R9). -/
def Mod.captureStep (m : Mod) (cur : List (Int × Int)) (vol : List Int) : Mod :=
  match m.met.capture with
  | none => m
  | some n =>
    let w := m.get F.MET_CAP_CTRL_CBW
    let c := m.get F.MET_CAP_CTRL_CHANNEL
    if n < m.get (F.CBW_LENGTH_LENGTH w) then
      let i := satInt 32 ((codeI m c (cur.getD c (0, 0)).1 (cur.getD c (0, 0)).2) / 2 ^ 24)
      let v := satInt 32 (vol.getD (vchOf m c - 96) 0)
      { m with met := { m.met with capture := some (n + 1), waiting := m.met.waiting ++ [leBytes 4 (ofInt 32 i) ++ leBytes 4 (ofInt 32 v)] } }
    else m

/-- One sample instant of all channels (R201). -/
def Mod.sampleAll (m : Mod) (cur : List (Int × Int)) (vol : List Int) : Mod :=
  let h50 := fundTaps false
  let h60 := fundTaps true
  let taps := fun (f60 : Bool) => if f60 then h60 else h50
  let m := (List.range 6).foldl (fun m k => m.sampleV taps k (vol.getD k 0)) m
  let m := (List.range 96).foldl (fun m c => m.sampleI taps c (cur.getD c (0, 0))) m
  ({ m with freeCtr := m.freeCtr + 96 }).captureStep cur vol

/-- Sampling starts at the first sample instant at least 1 ms after BOOT loaded the DSP (R202). -/
def Mod.sampleStart (m : Mod) : Mod :=
  match m.met.loaded with
  | some t => if t + 25000 ≤ m.clk.mono then ({ m with met := { m.met with loaded := none } }).set F.MET_STATUS_RUN 1 else m
  | none => m

/-! ### Range changes (R204, R221) -/

/-- The range a current channel must take now, and whether ×16 settling starts. -/
def rangeNext (m : Mod) (c : Nat) : Option (Nat × Bool) :=
  let x := m.metCh c
  let sel := m.get (F.MET_STATUS_I_RANGE_SEL c)
  let force := if m.flag F.MET_CAL_CTRL_BUSY && m.get F.MET_CAL_CTRL_CHANNEL == c then m.get F.MET_CAL_CTRL_FORCE_RANGE else 0
  if x.clipped then some (0, false)
  else if force ≠ 0 then (if sel = force - 1 then none else some (force - 1, false))
  else match x.settle with
    | some k => if k < 32 then none else some (if x.settleOver then 1 else 2, false)
    | none =>
      if sel = 0 ∧ 32 ≤ x.fine ∧ 1280 ≤ x.in4 then some (1, false)
      else if sel = 1 ∧ 1280 ≤ x.in16 then some (0, true)
      else none

def Mod.rangeSwitch (m : Mod) (c : Nat) : Mod :=
  match rangeNext m c with
  | none => m
  | some (r, settling) =>
    let m := m.setMet c { m.metCh c with
      clipped := false, fine := if r = 0 then 0 else (m.metCh c).fine
      settle := if settling then some 0 else none, settleOver := false }
    let m := (m.set (F.MET_STATUS_I_RANGE_SEL c) r).setB (F.MET_STATUS_I_SETTLING c) settling
    m.addSat (F.MET_STATUS_I_SWITCHES c) 1

/-! ### A block's end (R206 to R208, R212, R213, R219, R220) -/

/-- The quantities of a current channel (R207): totals of block `b`, fundamentals of the block before. -/
def Mod.publishI (m : Mod) (c : Nat) : Mod :=
  let x := m.metCh c
  let v := vchOf m c
  let y := m.metCh v
  let n : Rat := max 1 x.blk.n
  let n1 : Rat := max 1 x.fund.n
  let ki := unitI m c
  let kv := unitV m v
  let irms := sqrtF (calSq m c 0 (x.blk.ii * ki * ki / n))
  let urms := sqrtF (calSq m v 0 (y.blk.vv * kv * kv / n))
  let p := ratF (calWord m c 2 * (x.blk.vi * ki * kv / n) + calWord m c 3)
  let q := ratF (calWord m c 4 * (x.blk.qi * ki * kv / (n * tapOne)) + calWord m c 5)
  let s := fMul b32 urms irms
  let pf := if fIsZero b32 s then 0x3F800000 else fDiv b32 p s
  let i1 := sqrtF (calSq m c 6 (x.fund.ii * ki * ki / (n1 * tapOne * tapOne)))
  let it := sqrtF (calSq m c 0 (x.prev.ii * ki * ki / max 1 x.prev.n))
  let p1 := ratF (calWord m c 8 * (x.fund.vi * ki * kv / (n1 * tapOne * tapOne)) + calWord m c 9)
  let q1 := ratF (calWord m c 10 * (x.fund.qi * ki * kv / (n1 * tapOne * tapOne * tapOne)) + calWord m c 11)
  let na := decide (fRat i1 * fRat i1 < irSq m c / 10000)
  let thd := if na then 0
    else fDiv b32 (fMul b32 0x42C80000 (sqrtF (max 0 (fRat it * fRat it - fRat i1 * fRat i1)))) i1
  let m := [irms, p, q, s, pf, thd, p1, q1, i1].zipIdx.foldl (fun m e => m.set (F.MET_QTY_VALUE c e.2) e.1) m
  let m := (m.setB (F.MET_STATUS_I_THD_NA c) na).setB (F.MET_STATUS_I_CREEP c) x.creep
  m.setMet c { x with imax := BitVec.ofNat 32 (fMax b32 x.imax.toNat irms) }

/-- The frequency of a block in Hz from the rising zero crossings of v1 (R207): whole cycles over the time they take; 0 with fewer than two crossings
(DESIGN CHOICE, log entry 135: the manual names the crossings and no formula). -/
def freqOf (x : MetCross) : Rat := if x.first < x.last then mkRat (8000 * 2 ^ 32 * (x.n - 1 : Nat)) (x.last - x.first) else 0

/-- ANGLE in degrees (R207): the fundamental against that of the first channel of its system, from the block's products; 0 of the first channel
itself. -/
def angleDeg (c : Nat) (x : MetSums) : Rat :=
  if (c - 96) % 3 = 0 then 0 else mkRat (360 * angleOf x.qi (x.vi * tapOne)) fxTwoPi.toNat

/-- The quantities of a voltage channel. -/
def Mod.publishV (m : Mod) (c : Nat) : Mod :=
  let x := m.metCh c
  let f := ratF (freqOf x.cross)
  let angle := ratF (angleDeg c x.fund)
  let n : Rat := max 1 x.blk.n
  let n1 : Rat := max 1 x.fund.n
  let k := unitV m c
  let urms := sqrtF (calSq m c 0 (x.blk.vv * k * k / n))
  let u1 := sqrtF (calSq m c 6 (x.fund.vv * k * k / (n1 * tapOne * tapOne)))
  let ut := sqrtF (calSq m c 0 (x.prev.vv * k * k / max 1 x.prev.n))
  let bad := !(fLe b32 0x42340000 f && fLe b32 f 0x42820000)
  let na := decide (fRat u1 * fRat u1 < urSq m c / 10000)
  let thd := if na then 0
    else fDiv b32 (fMul b32 0x42C80000 (sqrtF (max 0 (fRat ut * fRat ut - fRat u1 * fRat u1)))) u1
  let m := [urms, u1, if bad then 0 else f, thd, angle].zipIdx.foldl (fun m e => m.set (F.MET_QTY_VALUE c e.2) e.1) m
  m.setB (F.MET_STATUS_V_FREQ_BAD (c - 96)) bad

/-- USER (R210) as 64 bits. -/
def userOf (abs : Bool) (imp exp : Nat) : Nat := if abs then (imp + exp) % 2 ^ 64 else ofInt 64 ((imp : Int) - exp)

/-- A mirror in mWh (R213): the floor, as 32 bits. -/
def mirrorOf (v : Int) : Nat := ofInt 32 (Int.fdiv v 1000)

/-- The energy registers of a channel published (R210, R212, R213); latches of high words end. -/
def Mod.publishE (m : Mod) (c : Nat) : Mod :=
  let x := m.metCh c
  let pub := x.acc.map (fun a => a / 2 ^ 32)
  let abs := m.flag (F.MET_CFG_I_USER_MODE c)
  let user := userOf abs pub[0] pub[1]
  let m := (pub.toList ++ [user]).zipIdx.foldl (fun m e =>
    (m.set (F.MET_ENERGY_LO_LO c e.2) e.1).set (F.MET_ENERGY_HI_HI c e.2) (e.1 / 2 ^ 32)) m
  let m := (m.set (F.MET_MIRROR_MWH c 0) (mirrorOf pub[0])).set (F.MET_MIRROR_MWH c 1) (mirrorOf pub[1])
  let m := m.set (F.MET_MIRROR_MWH c 2) (mirrorOf (if abs then (pub[0] + pub[1] : Nat) else (pub[0] : Int) - pub[1]))
  m.setMet c { x with hi := [] }

/-- METER settings of a channel take effect (R199, R200). -/
def Mod.meterApply (m : Mod) (d : MeterDef) : Mod :=
  let m := m.setMet d.ch { m.metCh d.ch with scale := d.scale, pendScale := none }
  if d.ch < 96 then
    ((m.set (F.MET_CFG_I_VCH d.ch) d.vch).set (F.MET_CFG_I_SCOPE d.ch) d.scope).setB (F.MET_CFG_I_USER_MODE d.ch) d.abs
  else
    (m.set (F.MET_CFG_V_SYSTEM (d.ch - 96)) ((d.ch - 96) / 3)).setB (F.MET_CFG_V_F60 (d.ch - 96)) d.f60

/-- A channel opens its next block: sums turn over, waiting calibration and settings take effect (R200, R206, R220). -/
def Mod.blockTurn (m : Mod) (c : Nat) : Mod :=
  let x := m.metCh c
  let m := m.setMet c { x with
    prev := x.blk, blk := {}, fund := x.fcur, fcur := {}, cross := x.ccur, ccur := {}
    creep := false, fundBad := x.pubBad, pubBad := x.badBlock, badBlock := false
    set := x.pendSet.or x.set, pendSet := none }
  let m := m.when x.pendSet.isSome (fun m => m.calShow c)
  match x.pendScale with
  | some d =>
    let m := m.meterApply d
    m.setMet c { m.metCh c with flags := (m.metCh c).flags ||| 256 }
  | none => m

/-- The raw quantities of a channel at a block's end (R221), as it publishes them (R206): no G or O, the temperature factor where the channel is in
fallback. -/
def rawQty (m : Mod) (c : Nat) : List Nat :=
  let x := m.metCh c
  let n : Rat := max 1 x.blk.n
  let n1 : Rat := max 1 x.fund.n
  let t := if x.set.isNone then tempFactor m else 1
  if c < 96 then
    let y := m.metCh (vchOf m c)
    let ty := if y.set.isNone then tempFactor m else 1
    let ki := unitI m c
    let kv := unitV m (vchOf m c)
    [sqrtF (x.blk.ii * ki * ki / n * t * t), ratF (x.blk.vi * ki * kv / n * t), ratF (x.blk.qi * ki * kv / (n * tapOne) * t),
     sqrtF (y.blk.vv * kv * kv / n * ty * ty), sqrtF (x.fund.ii * ki * ki / (n1 * tapOne * tapOne) * t * t),
     ratF (x.fund.vi * ki * kv / (n1 * tapOne * tapOne) * t), ratF (x.fund.qi * ki * kv / (n1 * tapOne * tapOne * tapOne) * t),
     sqrtF (y.fund.vv * kv * kv / (n1 * tapOne * tapOne) * ty * ty)]
  else
    let k := unitV m c
    [0, 0, 0, sqrtF (x.blk.vv * k * k / n * t * t), 0, 0, 0, sqrtF (x.fund.vv * k * k / (n1 * tapOne * tapOne) * t * t)]

/-- A block of the accumulation of R221. -/
def Mod.accumBlock (m : Mod) : Mod :=
  if m.met.accumWait then { m with met := { m.met with accumWait := false, accum := some (0, []) } }
  else match m.met.accum with
    | some (n, sums) =>
      if n < max 1 (m.get F.MET_CAL_CTRL_BLOCKS) then
        let q := (rawQty m (m.get F.MET_CAL_CTRL_CHANNEL)).map fix
        { m with met := { m.met with accum := some (n + 1, (List.range 8).map (fun k => sums.getD k 0 + q.getD k 0)) } }
      else m
    | none => m

/-! ### Intervals (R214 to R216) -/

/-- Minutes of a length code (R231: 6 and 7 taken as 3). -/
def intMinutes (code : Nat) : Nat :=
  match code with | 0 => 1 | 1 => 5 | 2 => 10 | 4 => 30 | 5 => 60 | _ => 15

/-- The UTC offset u in force (R214). -/
def utcNow (m : Mod) : Int :=
  if m.flag F.TIME_UTC_VALID then toInt 16 (m.get F.TIME_UTC_OFFSET) else toInt 16 (m.get F.MET_INT_CFG_UTC_OFF)

/-- The interval number at the present building second. -/
def intNumber (m : Mod) (len : Nat) (u : Int) : Int := Int.fdiv ((m.clk.ns / 1000000000 : Nat) - u) (60 * intMinutes len : Nat)

/-- The record that closes a channel's interval (R215); none without samples. -/
def closeRec (m : Mod) (stop c : Nat) : Option IntRec :=
  let x := m.metCh c
  let cur := x.acc.map (fun a => a / 2 ^ 32)
  let d (j : Fin 6) : Nat := cur[j.val] - x.base[j]
  let dem (e : Nat) : Word := BitVec.ofNat 32 (ratF (mkRat (e * 3600) (125 * x.samples)))
  if x.samples = 0 then none
  else some {
    num := m.met.interval, stop := stop, channel := c, scope := m.get (F.MET_CFG_I_SCOPE c)
    flags := x.flags ||| (if m.met.stepped then 4 else 0) ||| (if 0 < d 0 ∧ 0 < d 1 then 1 else 0) ||| (if m.met.utc ≠ utcNow m then 8 else 0)
    samples := x.samples, eImp := d 0, eExp := d 1
    eRq := ofInt 64 ((d 2 + d 3 : Nat) - (d 4 + d 5 : Nat)), demImp := dem (d 0), demExp := dem (d 1), imax := x.imax }

/-- A record's 64 bytes (R215). -/
def IntRec.bytes (r : IntRec) : List Byte :=
  let b := leBytes 8 r.num ++ leBytes 8 r.stop ++ leBytes 1 r.channel ++ leBytes 1 r.scope ++ leBytes 2 r.flags
    ++ leBytes 4 r.samples ++ leBytes 8 r.eImp ++ leBytes 8 r.eExp ++ leBytes 8 r.eRq ++ leBytes 4 r.demImp.toNat
    ++ leBytes 4 r.demExp.toNat ++ leBytes 4 r.imax.toNat
  b ++ leBytes 4 (crc32c b)

/-- A channel opens its next interval with the flags given. -/
def openInt (x : MetCh) (r : Option IntRec) (flags : Nat) : MetCh :=
  { x with
    base := Vector.ofFn (fun j : Fin 6 => x.acc[j.val] / 2 ^ 32)
    dirs := (false, false), samples := 0, flags := flags, imax := 0
    demImp := (r.map (·.demImp)).getD x.demImp, demExp := (r.map (·.demExp)).getD x.demExp }

/-- The interval in progress is closed for every current channel and the next opened (R214, R215): records enter the
write-ahead buffer while it has slots for them (R414: 512 records). -/
def Mod.intBoundary (m : Mod) (stop extra : Nat) : Mod :=
  let u := utcNow m
  let len := m.get F.MET_INT_CFG_LEN
  let recs := (List.range 96).map (fun c => closeRec m stop c)
  let short := decide (Int.emod ((m.clk.ns / 1000000000 : Nat) - u) (60 * intMinutes len : Nat) ≠ 0)
  let flags := extra ||| (if len ≠ m.met.len && short then 256 else 0)
  let chs := (List.range 96).foldl (fun l c => mapPut c (openInt (m.metCh c) (recs.getD c none) flags) l) m.met.ch
  let n := ofInt 64 (intNumber m len u)
  let m := { m with
    met := { m.met with ch := chs, interval := n, utc := u, len := len, stepped := false }
    logs := { m.logs with wabIntervals := (m.logs.wabIntervals ++ recs.filterMap id).take 512 } }
  m.set F.MET_INT_NUM_NUM n

/-! ### Journal (R222, R224) -/

/-- The DSP's state as the journal holds it. -/
def Mod.metJournal (m : Mod) : List Nat :=
  m.met.interval :: (List.range 96).flatMap (fun c =>
    let x := m.metCh c
    x.acc.toList ++ x.base.toList ++ [x.samples, x.flags, x.imax.toNat])

/-- The DSP's state restored (R224). -/
def Mod.metRestore (m : Mod) (vals : List Nat) : Mod :=
  let chs := (List.range 96).foldl (fun l c =>
    let v := (vals.drop 1).drop (16 * c)
    mapPut c { m.metCh c with
      acc := Vector.ofFn (fun j : Fin 7 => v.getD j.val 0)
      base := Vector.ofFn (fun j : Fin 6 => v.getD (7 + j.val) 0)
      samples := v.getD 13 0, flags := v.getD 14 0 ||| 16, imax := BitVec.ofNat 32 (v.getD 15 0) } l) m.met.ch
  { m with met := { m.met with ch := chs, interval := vals.headD 0 } }

/-! ### Meter points (R225) -/

/-- The value of a quantity code for a channel: REAL32 or a 64-bit energy. -/
def meterValue (m : Mod) (c q : Nat) : Long :=
  let f (j : Nat) : Long := BitVec.ofNat 64 (m.get (F.MET_QTY_VALUE c j))
  let e (j : Nat) : Long := BitVec.ofNat 64 (m.get (F.MET_ENERGY_LO_LO c j) + m.get (F.MET_ENERGY_HI_HI c j) * 2 ^ 32)
  match q with
  | 0x01 => f 0 | 0x02 => f 1 | 0x03 => f 2 | 0x04 => f 3 | 0x05 => f 4 | 0x06 => f 5 | 0x07 => f 6 | 0x08 => f 7
  | 0x09 => f 8
  | 0x0A => BitVec.ofNat 64 (m.metCh c).demImp.toNat
  | 0x0B => BitVec.ofNat 64 (m.metCh c).demExp.toNat
  | 0x10 => e 0 | 0x11 => e 1 | 0x12 => e 2 | 0x13 => e 3 | 0x14 => e 4 | 0x15 => e 5 | 0x16 => e 6 | 0x17 => e 7
  | 0x20 => f 0 | 0x21 => f 1 | 0x22 => f 2 | 0x23 => f 3 | 0x24 => f 4
  | _ => 0

/-- Capture records appended to their window, oldest first; those that a region forbids wait for the next METER_WIN (R44). -/
def Mod.captureOut (m : Mod) (w : Nat) : List (List Byte) → Mod
  | [] => { m with met := { m.met with waiting := [] } }
  | r :: rs =>
    match m.cbwAppend 12 w r with
    | (m, false) => m.captureOut w rs
    | (m, true) => { m with met := { m.met with waiting := r :: rs } }

/-- The meter points of a tile. -/
def Mod.meterPts (m : Mod) (t : Nat) : List (PointDef × Nat × Nat) :=
  (m.points.filter (fun p => p.tile == t)).filterMap (fun p => match p.bind with | .meter c q => some (p, c, q) | _ => none)

/-- A quantity's block had an overload (R205, R225): of the channel, or of its voltage channel where the voltage enters the quantity; a fundamental
quantity is of the block before (R206), and THD and DEM_IMP, DEM_EXP (of intervals) as their inputs say. -/
def meterBad (m : Mod) (c q : Nat) : Bool :=
  let x := m.metCh c
  let y := m.metCh (vchOf m c)
  match q with
  | 0x01 | 0x20 => x.pubBad
  | 0x02 | 0x03 | 0x04 | 0x05 => x.pubBad || y.pubBad
  | 0x06 | 0x09 | 0x21 | 0x22 | 0x23 => x.fundBad
  | 0x24 => x.fundBad || (m.metCh (c - (c - 96) % 3)).fundBad
  | 0x07 | 0x08 => x.fundBad || y.fundBad
  | _ => false

/-- A meter point's record from the DSP's results (R25, R27, R28, R225): CHANGES counts from what the DSP wrote last. -/
def meterRec (m : Mod) (p : PointDef) (c q : Nat) : PRec :=
  let old := mapGetD (encodeVal p.ty p.init, 0) p.idx m.met.own
  let v := meterValue m c q
  let bad := meterBad m c q
  { val := v, qual := withValid (if bad then 0x0010#16 else 0), age := 0, tf := ((m.plan.active.map (fun pl => pl.typeFlags p)).getD 0)
    chg := if v = old.1 then old.2 else (old.2 + 1) % 65536 }

/-- One meter tile written whole from the DSP's results, never loaded (R31). The answer is false where the write was dropped and the results are
held for the next window: no region permits it (R44), or the tile waits for its rebuild (R12, R38). -/
def Mod.meterTile (m : Mod) (t : Nat) : Mod × Bool :=
  let ps := m.meterPts t
  let bs := ps.foldl (fun bs x => putBytes bs (16 * x.1.slot) (meterRec m x.1 x.2.1 x.2.2).bytes) (List.replicate 256 0)
  match m.masterStore 12 t bs with
  | (a, false) => (a, false)
  | (a, true) =>
    if (a.dirEnt t).faulted then (a, false)
    else
      let own := ps.foldl (fun l x => mapPut x.1.idx ((meterRec m x.1 x.2.1 x.2.2).val, (meterRec m x.1 x.2.1 x.2.2).chg) l) a.met.own
      (ps.foldl (fun m x => m.markFresh x.1.idx) { a with met := { a.met with own := own } }, true)

/-- A METER_WIN window (R9, R12, R225): capture records that wait are appended; after a block was published, or while results are held, every meter
tile is written by bus master 12. -/
def Mod.meterWindow (m : Mod) : Mod :=
  let m := m.captureOut (m.get F.MET_CAP_CTRL_CBW) m.met.waiting
  if !m.met.fresh then m
  else
    let ts := (m.points.filterMap (fun p => match p.bind with | .meter _ _ => some p.tile | _ => none)).eraseDups
    let r := ts.foldl (fun (a : Mod × Bool) t => let b := a.1.meterTile t; (b.1, a.2 && b.2)) (m, true)
    { r.1 with met := { r.1.met with fresh := !r.2 } }

end Sys2Proof.Machine
end

