-- ==== Sys2Proof/Machine/Meter.lean ====
section
/-! DEFINITION. The metering commands (R201 to R227). -/

namespace Sys2Proof.Machine

/-- MET_SAMPLE (R209): one sample instant: for each current channel the codes of the coarse and the fine path (in ×1 units), for each voltage channel its code. While the DSP runs, every filter, sum and accumulator takes the sample, and a capture its record. -/
def execMetSample (cur : List (Int × Int)) (vol : List Int) (s : State) : Out :=
  onMod s fun m =>
    let m := m.sampleStart
    if m.flag F.MET_STATUS_RUN then m.sampleAll cur vol else m

/-- GAIN_SWITCH (R204): the channel takes the range that R204 fixes now, if it must change. -/
def execGainSwitch (c : Fin 96) (s : State) : Out :=
  onMod s fun m => m.rangeSwitch c.val

/-- SAMPLE_CLIP (R205): OVERLOAD; the block's quantities take RANGE and the interval record OVERLOAD. -/
def execSampleClip (c : Fin 102) (s : State) : Out :=
  onMod s fun m => if m.flag F.MET_STATUS_RUN then m.clip c.val else m

/-- MET_BLOCK_END (R206): all channels publish; `temp` is the front-end temperature; then calibrations and settings that waited take effect. -/
def execMetBlockEnd (temp : BitVec 16) (s : State) : Out :=
  onMod s fun m =>
    if m.flag F.MET_STATUS_RUN then
      let m := m.set F.MET_TEMP_TEMP temp.toNat
      let m := m.accumBlock
      let m := (List.range 96).foldl (fun m c => ((m.publishI c).publishE c).set (F.MET_QTY_VALUE c 9) (m.metCh c).demImp.toNat) m
      let m := (List.range 6).foldl (fun m k => m.publishV (96 + k)) m
      let m := m.set F.MET_BLOCK_BLOCK (m.clk.ns / 200000000)
      let m := (List.range 102).foldl Mod.blockTurn m
      { m with met := { m.met with fresh := true } }
    else m

/-- MET_INTERVAL_BOUNDARY (R215): one record per current channel is closed into the write-ahead buffer and the next interval opens. -/
def execMetIntervalBoundary (s : State) : Out :=
  onMod s fun m => if m.flag F.MET_STATUS_RUN then m.intBoundary m.clk.ns 0 else m

/-- MET_JOURNAL (R222): the DSP's state goes into the older slot, or the copy is skipped while a write runs. -/
def execMetJournal (s : State) : Out :=
  onMod s fun m =>
    if !m.flag F.MET_STATUS_RUN then m
    else if journalWriting m.met.jrn then m.addSat F.MET_JOURNAL_SKIPPED 1
    else { m with met := { m.met with jrn := journalPut m.met.jrn m.metJournal } }

/-- ACCUM, COMMIT and DISCARD of MET_CAL_CTRL (R220, R221). -/
def Mod.calAccum (m : Mod) : Mod := ({ m with met := { m.met with accumWait := true, accum := none } }).set F.MET_CAL_CTRL_BUSY 1
def Mod.calCommit (m : Mod) (tag : Option (Nat × Nat)) : Mod :=
  match m.met.staging with
  | some ws => m.paramPut (keyCal (m.get F.MET_CAL_CTRL_CHANNEL)) (wordsBytes ws) tag
  | none => m
def Mod.calDiscard (m : Mod) : Mod := { m with met := { m.met with staging := none } }

/-- A read of an energy register's low word latches its high word (R212). -/
def Mod.energyLatch (m : Mod) (c e : Nat) : Mod :=
  let x := m.metCh c
  m.setMet c { x with hi := mapPut e (m.get (F.MET_ENERGY_HI_HI c e)) x.hi }

/-- MET_CAL_ACCUM (R221): raw accumulation starts at the next block boundary; only a SERVICE session's write counts. -/
def execMetCalAccum (h : BitVec 10) (s : State) : Out :=
  onMod s fun m => m.when (m.isRole h.toNat .service) Mod.calAccum

/-- MET_CAL_ACCUM_DONE (R221): after BLOCKS blocks the raw means appear and DONE is set. -/
def execMetCalAccumDone (s : State) : Out :=
  onMod s fun m =>
    match m.met.accum with
    | some (n, sums) =>
      if max 1 (m.get F.MET_CAL_CTRL_BLOCKS) ≤ n then
        let m := (List.range 8).foldl (fun m k => m.set (F.MET_CAL_RAW_RAW k) (ratF (mkRat (sums.getD k 0) (n * 2 ^ 149)))) m
        let m := (m.set F.MET_CAL_CTRL_DONE 1).set F.MET_CAL_CTRL_BUSY 0
        { m with met := { m.met with accum := none } }
      else m
    | none => m

/-- MET_CAL_COMMIT (R220): the staged set goes to the parameter store; once its record is complete it waits for the next block boundary and EV_MET_CAL is logged. -/
def execMetCalCommit (h : BitVec 10) (s : State) : Out :=
  onMod s fun m => m.when (m.isRole h.toNat .service) (fun m => m.calCommit none)

/-- MET_CAL_DISCARD (R220): the staging copy is dropped. -/
def execMetCalDiscard (h : BitVec 10) (s : State) : Out :=
  onMod s fun m => m.when (m.isRole h.toNat .service) Mod.calDiscard

/-- MET_CAP_START (R227): a waveform capture starts; the write counts from an OPERATOR session of scope 0 or a SERVICE session. -/
def execMetCapStart (h : BitVec 10) (s : State) : Out :=
  onMod s fun m => m.when (m.isO0V h.toNat) Mod.capStart

/-- MET_CAP_DONE (R227): the window has been filled once: DONE. -/
def execMetCapDone (s : State) : Out :=
  onMod s fun m =>
    match m.met.capture with
    | some n =>
      if m.get (F.CBW_LENGTH_LENGTH (m.get F.MET_CAP_CTRL_CBW)) ≤ n ∧ m.met.waiting = [] then
        (({ m with met := { m.met with capture := none } }).set F.MET_CAP_CTRL_DONE 1).set F.MET_CAP_CTRL_BUSY 0
      else m
    | none => m

/-- MET_ENERGY_LO_READ (R212): the high word is latched until it is read or the next block is published. -/
def execMetEnergyLoRead (c : Fin 96) (e : Fin 8) (s : State) : Out :=
  onMod s fun m => m.energyLatch c.val e.val

end Sys2Proof.Machine
end

