-- ==== Sys2Proof/Machine/Calendar.lean ====
section
/-! DEFINITION. The calendar (R421, R422), the RTC's shadows (R423), commits (R424) and alarms (R427), and the RTC's relation to
building time (R430, R431). -/

namespace Sys2Proof.Machine

/-- A leap year (R422). -/
def isLeap (y : Nat) : Bool := decide (y % 4 = 0 ∧ y % 100 ≠ 0) || decide (y % 400 = 0)

/-- The length of a month (R422). -/
def monthLen (y mo : Nat) : Nat :=
  if mo = 2 then (if isLeap y then 29 else 28) else if mo = 4 ∨ mo = 6 ∨ mo = 9 ∨ mo = 11 then 30 else 31

/-- The first impossible field of a date and time, by its offset in the parameters of OP_RTC_SET (R424, R432). -/
def Cal.bad (c : Cal) : Option Nat :=
  if c.year < 2000 ∨ 2199 < c.year then some 0
  else if c.month < 1 ∨ 12 < c.month then some 2
  else if c.day < 1 ∨ monthLen c.year c.month < c.day then some 3
  else if 23 < c.hour then some 4
  else if 59 < c.min then some 5
  else if 59 < c.sec then some 6
  else none

/-- A possible date and time (R421, R422). -/
def Cal.ok (c : Cal) : Bool := c.bad.isNone

/-- Midnight passes (R422): DAY, MONTH and YEAR as the calendar requires; after 2199 the clock runs on at 2000. -/
def Cal.nextDay (c : Cal) : Cal :=
  if c.day < monthLen c.year c.month then { c with day := c.day + 1 }
  else if c.month < 12 then { c with day := 1, month := c.month + 1 }
  else if c.year < 2199 then { c with day := 1, month := 1, year := c.year + 1 }
  else { c with day := 1, month := 1, year := 2000 }

/-- One second later. -/
def Cal.next (c : Cal) : Cal :=
  if c.sec < 59 then { c with sec := c.sec + 1 }
  else if c.min < 59 then { c with sec := 0, min := c.min + 1 }
  else if c.hour < 23 then { c with sec := 0, min := 0, hour := c.hour + 1 }
  else { c.nextDay with sec := 0, min := 0, hour := 0 }

/-- The last second of the calendar. -/
def Cal.last (c : Cal) : Bool := c == ⟨2199, 12, 31, 23, 59, 59⟩

/-- The next second begins a new day. -/
def Cal.midnight (c : Cal) : Bool := c.hour == 23 && c.min == 59 && c.sec == 59

/-- Days of a year, and days from 1970-01-01 to a date. -/
def yearLen (y : Nat) : Nat := if isLeap y then 366 else 365
def dayNumber (c : Cal) : Nat :=
  ((List.range (c.year - 1970)).foldl (fun a k => a + yearLen (1970 + k)) 0)
    + ((List.range (c.month - 1)).foldl (fun a k => a + monthLen c.year (k + 1)) 0) + (c.day - 1)

/-- The ISO weekday of a date (R421): 1970-01-01 was a Thursday. -/
def weekday (c : Cal) : Nat := (dayNumber c + 3) % 7 + 1

/-- UTC seconds since 1970-01-01 (R431). -/
def Cal.seconds (c : Cal) : Nat := dayNumber c * 86400 + c.hour * 3600 + c.min * 60 + c.sec

/-- The year and the day within it, from days counted from the start of a year. -/
def yearOf : Nat → Nat → Nat → Nat × Nat
  | 0, y, d => (y, d)
  | n + 1, y, d => if d < yearLen y then (y, d) else yearOf n (y + 1) (d - yearLen y)
def monthOf : Nat → Nat → Nat → Nat → Nat × Nat
  | 0, _, mo, d => (mo, d)
  | n + 1, y, mo, d => if d < monthLen y mo then (mo, d) else monthOf n y (mo + 1) (d - monthLen y mo)

/-- The calendar time of UTC seconds since 1970-01-01 (R430). -/
def calOf (t : Nat) : Cal :=
  let y := yearOf 400 1970 (t / 86400)
  let mo := monthOf 12 y.1 1 y.2
  ⟨y.1, mo.1, mo.2 + 1, t % 86400 / 3600, t % 3600 / 60, t % 60⟩

/-! ### Alarms, ticks, commits -/

/-- Alarm `a` matches a time (R427). -/
def Mod.alarmHit (m : Mod) (a : Nat) (c : Cal) (wday : Nat) : Bool :=
  m.flag (F.RTC_ALARM_MASK_EN a)
    && (m.flag (F.RTC_ALARM_MASK_M_SEC a) || m.get (F.RTC_ALARM_TIME_SEC a) == c.sec)
    && (m.flag (F.RTC_ALARM_MASK_M_MIN a) || m.get (F.RTC_ALARM_TIME_MIN a) == c.min)
    && (m.flag (F.RTC_ALARM_MASK_M_HOUR a) || m.get (F.RTC_ALARM_TIME_HOUR a) == c.hour)
    && (m.flag (F.RTC_ALARM_MASK_M_WDAY a) || m.get (F.RTC_ALARM_TIME_WDAY a) == wday)
    && (m.flag (F.RTC_ALARM_MASK_M_DAY a) || m.get (F.RTC_ALARM_DATE_DAY a) == c.day)
    && (m.flag (F.RTC_ALARM_MASK_M_MONTH a) || m.get (F.RTC_ALARM_DATE_MONTH a) == c.month)
    && (m.flag (F.RTC_ALARM_MASK_M_YEAR a) || m.get (F.RTC_ALARM_DATE_YEAR a) == c.year)

def alarmFld (a : Nat) : Fld := if a = 0 then F.RTC_STATUS_ALARM0 else F.RTC_STATUS_ALARM1

/-- Both alarms at a second tick. -/
def Mod.alarms (m : Mod) (c : Cal) (wday : Nat) : Mod :=
  [0, 1].foldl (fun m a =>
    if m.alarmHit a c wday then m.set (alarmFld a) 1
    else if m.flag (F.RTC_ALARM_MASK_AUTOCLR a) then m.set (alarmFld a) 0
    else m) m

/-- A second tick (R422, R427). -/
def Mod.rtcTick (m : Mod) : Mod :=
  let c := m.rtc.cal
  let w := if c.last then 6 else if c.midnight then (if m.rtc.wday < 7 then m.rtc.wday + 1 else 1) else m.rtc.wday
  let n := c.next
  let m := m.when c.last (fun m => (m.set F.RTC_STATUS_WRAPPED 1).set F.RTC_STATUS_OSC_STOPPED 1)
  ({ m with rtc := { m.rtc with cal := n, wday := w, sub := 0 } }).alarms n w

/-- The staged date and time. -/
def Mod.staged (m : Mod) : Cal :=
  ⟨m.get F.RTC_STG_DATE_YEAR, m.get F.RTC_STG_DATE_MONTH, m.get F.RTC_STG_DATE_DAY,
   m.get F.RTC_STG_TIME_HOUR, m.get F.RTC_STG_TIME_MIN, m.get F.RTC_STG_TIME_SEC⟩

/-- A valid commit at a crystal edge (R424). -/
def Mod.rtcLoad (m : Mod) (c : Cal) : Mod :=
  let m := { m with rtc := { m.rtc with cal := c, wday := weekday c, sub := 0, waits := none } }
  (m.set F.RTC_STATUS_OSC_STOPPED 0).set F.RTC_STATUS_BAD_DATE 0

/-- A commit (R424): the staged fields become the live ones at the next crystal edge, or BAD_DATE is set. -/
def Mod.rtcCommit (m : Mod) : Mod :=
  let c := m.staged
  if !c.ok then m.set F.RTC_STATUS_BAD_DATE 1
  else if m.rtc.run then m.rtcLoad c
  else { m with rtc := { m.rtc with waits := some c } }

/-- The prescaler has counted on since it was read last, within its second; how far, the RTC's own crystal says (log entry 2). -/
def Mod.rtcCount (m : Mod) : Mod :=
  if m.rtc.run then { m.drawn with rtc := { m.rtc with sub := m.rtc.sub + m.free.toNat % (256 - m.rtc.sub) } } else m

/-- Staging written (R424, R432). -/
def Mod.stage (m : Mod) (c : Cal) : Mod :=
  let m := ((m.set F.RTC_STG_DATE_YEAR c.year).set F.RTC_STG_DATE_MONTH c.month).set F.RTC_STG_DATE_DAY c.day
  ((m.set F.RTC_STG_TIME_HOUR c.hour).set F.RTC_STG_TIME_MIN c.min).set F.RTC_STG_TIME_SEC c.sec

/-! ### The shadow group (R423) -/

/-- A freeze has lasted 10 ms (250,000 TCXO cycles). -/
def Mod.freezeOver (m : Mod) : Bool := m.rtc.shadow.any (fun s => decide (s.at_ + 250000 ≤ m.clk.mono))

/-- A freeze begins where none is in force. -/
def Mod.rtcFreeze (m : Mod) : Mod :=
  if m.rtc.shadow.isSome && !m.freezeOver then m
  else
    let m := m.when (m.rtc.timedOut || m.freezeOver) (fun m => m.set F.RTC_STATUS_SHADOW_TO 1)
    let m := m.rtcCount
    ({ m with rtc := { m.rtc with
        shadow := some { cal := m.rtc.cal, wday := m.rtc.wday, sub := m.rtc.sub, at_ := m.clk.mono }, timedOut := false } }).set
      F.RTC_STATUS_FROZEN 1

/-- The word of one register of the group from its shadow. -/
def Shadow.word (s : Shadow) (a : Nat) : Nat :=
  if a = R.RTC_TIME then s.cal.sec + s.cal.min * 2 ^ 8 + s.cal.hour * 2 ^ 16 + s.wday * 2 ^ 24
  else if a = R.RTC_DATE then s.cal.day + s.cal.month * 2 ^ 8 + s.cal.year * 2 ^ 16
  else s.sub

/-- A read of one register of the group: the freeze ends when each has been read. -/
def Mod.rtcRead (m : Mod) (a : Nat) : Mod × Word :=
  let m := m.rtcFreeze
  match m.rtc.shadow with
  | none => (m, 0)
  | some s =>
    let bit := if a = R.RTC_TIME then 1 else if a = R.RTC_DATE then 2 else 4
    let r := s.read ||| bit
    let m := { m with rtc := { m.rtc with shadow := if r = 7 then none else some { s with read := r } } }
    (if r = 7 then m.set F.RTC_STATUS_FROZEN 0 else m, BitVec.ofNat 32 (s.word a))

/-! ### Relation to building time (R430, R431) -/

/-- UTC in whole seconds of building time. -/
def Mod.utcSeconds (m : Mod) : Int := (m.clk.ns / 1000000000 : Nat) - toInt 16 (m.get F.TIME_UTC_OFFSET)

/-- A sync is due at this whole second (R430). -/
def Mod.syncDue (m : Mod) : Bool :=
  let x := m.get F.RTC_CFG_SYNC
  let u := m.utcSeconds
  let st := m.get F.TIME_STATUS_STATE
  (st == 2 || st == 4) && m.flag F.TIME_UTC_VALID && m.clk.run && m.clk.ns % 1000000000 == 0
    && decide (946684800 ≤ u) && decide (u < 7258118400)
    && ((x == 1 && u % 3600 == 1800) || (x == 2 && u % 86400 == 9000) || ((x == 1 || x == 2) && m.flag F.RTC_STATUS_OSC_STOPPED))

/-- A sync (R430): the deviation is stored, then the UTC time of this second is staged and committed. -/
def Mod.rtcSync (m : Mod) : Mod :=
  let u := m.utcSeconds
  let m := m.rtcCount
  let diff := ((m.rtc.cal.seconds : Int) - u) * 256 + m.rtc.sub
  let m := (m.set F.RTC_SYNC_DIFF (ofInt 16 (satInt 16 diff))).addSat F.RTC_SYNC_COUNT 1
  (m.stage (calOf u.toNat)).rtcCommit

/-- Where building time starts at power-on of PD2 (R150, R431): from the RTC, or 0. -/
def Mod.rtcStart (m : Mod) : Nat :=
  if m.flag F.RTC_STATUS_OSC_STOPPED || !m.utcValid then 0
  else (((m.rtc.cal.seconds : Int) + toInt 16 ((m.word (R.RTC_BKP 14)).toNat % 65536)) * 1000000000 + m.rtc.sub * 3906250).toNat

/-- PD0 loses its supply (R426, R464). -/
def Mod.rtcLost (m : Mod) : Mod := { m.pdRegs 0 with rtc := { run := m.rtc.run } }

end Sys2Proof.Machine
end

