-- ==== Sys2Proof/Machine/Keys.lean ====
section
/-! DEFINITION. The key engine (R435 to R447): root, derivations, slots, and the wrapping of stored keys. -/

namespace Sys2Proof.Machine

/-- The ASCII codes of a string. -/
def ascii (s : String) : List Byte := s.toList.map (fun c => BitVec.ofNat 8 c.toNat)

/-- The bytes of a 256-bit value of the key engine. -/
def bytes32 (v : BitVec 256) : List Byte := leBytes 32 v.toNat

/-- UNIT_ID (R435). -/
def unitBytes : List Byte := leBytes 8 Config.unitId.toNat

/-- Debug access (R436): every state but PRODUCTION. -/
def Mod.debugOn (m : Mod) : Bool := m.key.life != 2

/-- The root in use (R437). -/
def Mod.root (m : Mod) : List Byte := bytes32 (if m.debugOn then Config.testRoot else Config.rootSecret)

/-- Derivations of R446 from the root. -/
def Mod.roleRoot (m : Mod) (role : Nat) : List Byte := bytes32 (Config.hkdf m.root [] (ascii "ZF-ROLE" ++ leBytes 1 role ++ unitBytes))
def Mod.kStore (m : Mod) : List Byte := (bytes32 (Config.hkdf m.root [] (ascii "ZF-STORE" ++ unitBytes))).take 16
def Mod.kPw (m : Mod) : List Byte := bytes32 (Config.hkdf m.root [] (ascii "ZF-SAFEPW" ++ unitBytes))

/-- The password verifier (R447). -/
def Mod.pwVerifier (m : Mod) (pw : List Byte) : List Byte := bytes32 (Config.hmac m.kPw pw)

/-- XOR of two byte lists. -/
def xorBytes (a b : List Byte) : List Byte := a.zipWith (· ^^^ ·) b

/-- `n` fresh bytes of the random-number generator (log entry 2). -/
def Mod.random (m : Mod) (n : Nat) : List Byte := (List.range n).map (fun i => (Config.freeWord (m.freeCtr + i)).extractLsb' 0 8)
def Mod.drawnN (m : Mod) (n : Nat) : Mod := { m with freeCtr := m.freeCtr + n }

/-- The key a slot holds: the XOR of its shares (R441). -/
def KeySlot.value (k : KeySlot) : Option (List Byte) := k.key.map (fun s => xorBytes s.1 s.2)
def Staged.value (k : Staged) : List Byte := xorBytes k.a k.b

/-- A key put into a slot under a fresh mask. -/
def Mod.putKey (m : Mod) (i : Fin 8) (k : Option (List Byte)) (gen : Nat) : Mod :=
  match k with
  | some v =>
    let r := m.random v.length
    ({ m with key := { m.key with slots := m.key.slots.set i { m.key.slots[i] with key := some (xorBytes v r, r), gen := gen } } }).drawnN v.length
  | none => { m with key := { m.key with slots := m.key.slots.set i { m.key.slots[i] with key := none, gen := gen } } }

def Mod.keyOf (m : Mod) (i : Fin 8) : Option (List Byte) := m.key.slots[i].value

/-- AES-128-GCM with empty associated data: the cipher text and its tag. -/
def gcmSeal (key nonce aad plain : List Byte) : List Byte :=
  (plain.zip (List.range plain.length)).map (fun x => x.1 ^^^ Config.gcmStream key nonce x.2) ++ leBytes 16 (Config.gcmTag key nonce aad plain).toNat

/-- The plain text where the tag holds. -/
def gcmOpen (key nonce aad bs : List Byte) : Option (List Byte) :=
  let n := bs.length - 16
  let plain := ((bs.take n).zip (List.range n)).map (fun x => x.1 ^^^ Config.gcmStream key nonce x.2)
  if 16 ≤ bs.length ∧ bs.drop n = leBytes 16 (Config.gcmTag key nonce aad plain).toNat then some plain else none

/-- The nonce of a stored key record (R440). -/
def storeNonce (seq : Nat) : List Byte := leBytes 4 seq ++ List.replicate 8 0

/-- Keys of the store whose payload is wrapped under K_store (R440, R447). -/
def keySet : Nat := keyStored 0x4000
def wrapped (key : Nat) : Bool := key == keySet || key == keySafePw

/-- The payload as it is written under a SEQ, and as it is read back. -/
def Mod.wrap (m : Mod) (key seq : Nat) (plain : List Byte) : List Byte :=
  if wrapped key && !plain.isEmpty then gcmSeal m.kStore (storeNonce seq) [] plain else plain
def Mod.unwrap (m : Mod) (r : ParamRec) : Option (List Byte) :=
  if wrapped r.key then gcmOpen m.kStore (storeNonce r.seq) [] r.payload else some r.payload

/-- The key set's record (R440): for slots 0 to 5 LEN, GENERATION and the key in 32 bytes (log entry 17). -/
def keyRecord (ks : List (List Byte × Nat)) : List Byte :=
  ks.flatMap (fun k => leBytes 1 k.1.length ++ leBytes 2 k.2 ++ (k.1 ++ List.replicate 32 0).take 32)

/-- The slots with their pending commits carried out. -/
def Mod.keyRecordOf (m : Mod) : List Byte :=
  keyRecord (((List.finRange 8).take 6).map (fun (i : Fin 8) =>
    let k := m.key.slots[i]
    let cs := m.key.commits.filter (fun c => c.1 == i.val)
    ((match cs.getLast? with | some c => c.2.2.value | none => (k.value).getD []), k.gen + cs.length)))

/-- A slot's generation-0 value (R438). -/
def Mod.gen0 (m : Mod) (i : Nat) : List Byte :=
  if i < 4 then m.roleRoot (i + 1) else bytes32 (Config.releaseSigner (i == 5))

/-- The derived keys under the root now in use: the role roots at generation 0 and K_store; the password verifier under the old root is gone. -/
def Mod.testKeys (m : Mod) : Mod :=
  let m := ((List.finRange 8).take 4).foldl (fun (m : Mod) (i : Fin 8) => m.putKey i (some (m.gen0 i.val)) 0) m
  (m.putKey 6 none 0).putKey 7 (some m.kStore) 0

/-- The registers' view of the slots (R462). -/
def Mod.keyShow (m : Mod) : Mod :=
  let m := m.setB F.KEY_STATUS_FACTORY (((List.finRange 8).take 4).any (fun (i : Fin 8) => m.key.slots[i].gen == 0))
  m.set F.KEY_STATUS_STAGED (((List.finRange 8).take 6).foldl (fun a (i : Fin 8) => a + b2n (m.key.slots[i].staged.isSome) * 2 ^ i.val) 0)

/-- The newest record of a key that is no tombstone. -/
def Mod.recOf (m : Mod) (key : Nat) : Option ParamRec :=
  match newestRec m.nvm.params key with
  | some r => if r.tomb then none else some r
  | none => none

/-- BOOT (R437, R440, R447): root, key set, verifier. -/
def Mod.keyBoot (m : Mod) : Mod :=
  let m := (m.set F.KEY_LIFE_STATE m.key.life).setB F.KEY_LIFE_DEBUG m.debugOn
  let m := m.setB F.KEY_STATUS_TEST_ROOT m.debugOn
  let m := m.when m.debugOn (fun m => m.log .testRoot 0 (leBytes 1 m.key.life))
  let m := { m with key := { m.key with slots := m.key.slots.map (fun (k : KeySlot) => { k with staged := none }), commits := [] } }
  let m := m.putKey 7 (some m.kStore) 0
  let m := match (m.recOf keySet).bind (fun r => m.unwrap r) with
    | some bs =>
      let m := m.set F.KEY_STATUS_STORE_OK 1
      ((List.finRange 8).take 6).foldl (fun (m : Mod) (i : Fin 8) =>
        let b := bs.drop (35 * i.val)
        m.putKey i (some ((b.drop 3).take (ofLe (b.take 1)))) (ofLe ((b.drop 1).take 2))) m
    | none =>
      let m := ((List.finRange 8).take 6).foldl (fun (m : Mod) (i : Fin 8) => m.putKey i (some (m.gen0 i.val)) 0) m
      ((m.set F.KEY_STATUS_STORE_OK 0).set F.KEY_STATUS_STORE_LOST 1).log .keystoreLost 0 (leBytes 4 keySet)
  let m := match m.recOf keySafePw, (m.recOf keySafePw).bind (fun r => m.unwrap r) with
    | some _, none => ((m.putKey 6 none 0).set F.KEY_STATUS_STORE_LOST 1).log .keystoreLost 6 (leBytes 4 keySafePw)
    | _, v => m.putKey 6 v 0
  m.keyShow

/-- A key commit whose record is complete (R444): the staged key is in force and the staging half empties. -/
def Mod.commitDone (m : Mod) : Mod :=
  match m.key.commits with
  | (i, h, g) :: rest =>
    let i : Fin 8 := Fin.ofNat 8 i
    let gen := m.key.slots[i].gen + 1
    let m := { m with key := { m.key with commits := rest, slots := m.key.slots.set i { key := some (g.a, g.b), gen := gen } } }
    (m.log .keyCommit i.val (leBytes 2 gen ++ leBytes 2 h)).keyShow
  | [] => m

/-- The credential of a role and scope (R332). -/
def Mod.credential (m : Mod) (role scope : Nat) : List Byte :=
  (bytes32 (Config.hkdf ((m.keyOf (Fin.ofNat 8 (role - 1))).getD []) [] (ascii "ORPOR-CRED" ++ leBytes 1 role ++ leBytes 2 scope ++ unitBytes))).take 16

end Sys2Proof.Machine
end

