-- ==== Sys2Proof/Machine/OrporOps.lean ====
section
/-! DEFINITION. The Orpor protocol's machinery (R327 to R353): replies and their protection, sessions, the opcode table, the order in
which accepted commands execute, and how each ends. -/

namespace Sys2Proof.Machine

/-! ### Packets (R330, R331) -/

/-- A header's 32 bytes (R330). -/
def hdrBytes (flags op session tag seq rseq plen status : Nat) : List Byte :=
  leBytes 4 0x5250524F ++ leBytes 1 1 ++ leBytes 1 flags ++ leBytes 2 op ++ leBytes 4 (session % 1024 + tag * 1024) ++ leBytes 4 seq
    ++ leBytes 4 rseq ++ leBytes 2 plen ++ leBytes 2 status ++ leBytes 8 0

/-- The nonce of R331. -/
def sessNonce (session seq rseq : Nat) (reply : Bool) : List Byte :=
  leBytes 2 session ++ leBytes 1 (b2n reply) ++ leBytes 1 0 ++ leBytes 4 seq ++ leBytes 4 rseq

/-- A reply as it stands on the wire (R330, R331, R333, R334). -/
def Reply.packet (r : Reply) : List Byte :=
  let hdr := hdrBytes r.flags r.op r.session r.tag r.seq r.rseq r.data.length r.status
  match r.auth with
  | none => hdr ++ r.data ++ List.replicate 16 0
  | some (key, nonce) =>
    if r.sealed then hdr ++ gcmSeal key nonce hdr r.data
    else hdr ++ r.data ++ leBytes 16 (Config.gcmTag key nonce (hdr ++ r.data) []).toNat

/-- Bytes around a packet on an uplink: Ethernet, IPv4 and UDP headers, the FCS, and the tag of R316 (log entry 19). -/
def Mod.overhead (m : Mod) (u : Nat) : Nat := 46 + (if m.uplVid (Fin.ofNat 2 u) = 0 then 0 else 4)

/-- An Orpor packet leaves at once by the String link, through the cells of channel 11 (R367). -/
def Mod.twinOut (m : Mod) (len : Nat) : Mod :=
  let r := m.poolPut { ch := 11, cells := cellsOf len }
  if r.2 then { r.1 with
    pool := { r.1.pool with frames := r.1.pool.frames.dropLast }
    twin := { r.1.twin with seqTx := r.1.twin.seqTx + 1 } }
  else r.1

/-- A reply leaves by its transport (R317, R322, R323, R328, R367): it is stored in its channel, or lost and counted. -/
def Mod.deliver (m : Mod) (r : Reply) : Mod :=
  let len := 48 + r.data.length
  if r.viaB then m.twinOut len
  else if r.dest = 2 then (m.poolPut { ch := 8, cells := cellsOf len, reply := some r }).1
  else
    let ch := 4 * r.dest + (if bitAt r.flags 1 then 2 else 3)
    let o := m.poolPut { ch := ch, cells := cellsOf (len + m.overhead r.dest), reply := some r }
    if m.flag (F.UPL_STATUS_LINK r.dest) then o.1
    else if o.2 then o.1.poolLose (fun f => f.ch == ch) else o.1

/-! ### Sessions (R336) -/

def Mod.setSess (m : Mod) (h : Nat) (x : Sess) : Mod :=
  { m with orpor := { m.orpor with sessions := mapPut h x m.orpor.sessions } }

/-- SERVICE is left for STOPPED (R107): every test value returns to its safe value at once. -/
def Mod.leaveService (m : Mod) : Mod :=
  if m.st == xService then
    ({ m with outs := m.outs.map (fun (u : OutSt) => { u with test := none })
              exec := { m.exec with serviceSession := none } }).goto xStopped
  else m

/-- A session closes: its window, cache and commands in flight are discarded (R336); the service session takes SERVICE with it. -/
def Mod.closeSess (m : Mod) (h : Nat) : Mod :=
  let m := { m with orpor := { m.orpor with
    sessions := mapDel h m.orpor.sessions
    order := m.orpor.order.filter (fun o => o.1 != h) }
                    ports := { m.ports with pass := m.ports.pass.map (fun (x : PassX) => if x.session = h then { x with session := 1024 } else x) } }
  m.when (m.exec.serviceSession == some h) Mod.leaveService

/-! ### Opcodes (R337, R344, R349) -/

/-- An opcode: kind N, the roles that may issue it (bits T, O of a scope other than 0, O0, V, S), whether it executes inside a
management window (R342), and whether it needs a loaded plan (R344). -/
structure OpInfo where
  kindN : Bool
  roles : Nat
  window : Bool := false
  plan : Bool := false

abbrev rAll : Nat := 31
abbrev rOV : Nat := 12
abbrev rOVS : Nat := 28

/-- The table of R349. -/
def opInfo (op : Nat) : Option OpInfo :=
  match op with
  | 0x0000 => some ⟨false, 0, false, false⟩ | 0x0001 => some ⟨false, 0, false, false⟩
  | 0x0002 => some ⟨true, rAll, false, false⟩ | 0x0003 => some ⟨false, rAll, false, false⟩ | 0x0004 => some ⟨false, rOV, false, false⟩
  | 0x0005 => some ⟨true, rOV, false, false⟩
  | 0x0100 => some ⟨false, rAll, true, true⟩ | 0x0101 => some ⟨false, rAll, true, true⟩ | 0x0102 => some ⟨true, 15, true, true⟩
  | 0x0103 => some ⟨true, 14, true, true⟩ | 0x0104 => some ⟨true, 14, true, true⟩ | 0x0105 => some ⟨false, 14, true, true⟩
  | 0x0200 => some ⟨true, rOV, false, false⟩ | 0x0201 => some ⟨true, rOV, false, false⟩ | 0x0202 => some ⟨true, rOV, false, false⟩
  | 0x0203 => some ⟨true, rOVS, false, false⟩ | 0x0204 => some ⟨true, rOV, false, false⟩ | 0x0205 => some ⟨false, rOV, false, false⟩
  | 0x0206 => some ⟨true, rOVS, false, false⟩ | 0x0207 => some ⟨false, rOVS, false, false⟩
  | 0x0300 => some ⟨false, rAll, false, false⟩ | 0x0301 => some ⟨true, rOVS, false, false⟩ | 0x0302 => some ⟨true, rOVS, false, false⟩
  | 0x0400 => some ⟨false, rAll, true, true⟩ | 0x0401 => some ⟨false, rAll, true, true⟩ | 0x0402 => some ⟨false, rOV, true, true⟩
  | 0x0500 => some ⟨false, rOV, false, false⟩ | 0x0501 => some ⟨true, rOV, false, false⟩ | 0x0502 => some ⟨true, rOV, false, false⟩
  | 0x0503 => some ⟨true, rOV, false, false⟩ | 0x0504 => some ⟨false, rOV, true, false⟩
  | 0x0600 => some ⟨false, rAll, false, true⟩ | 0x0601 => some ⟨false, rAll, false, true⟩
  | 0x0700 => some ⟨false, rAll, false, false⟩ | 0x0701 => some ⟨true, rOV, false, false⟩ | 0x0702 => some ⟨false, rAll, false, false⟩
  | 0x0703 => some ⟨true, rOV, false, false⟩
  | 0x0800 => some ⟨true, rOV, false, false⟩ | 0x0801 => some ⟨true, rOV, false, false⟩ | 0x0802 => some ⟨true, rOV, false, false⟩
  | 0x0803 => some ⟨true, rOV, false, false⟩ | 0x0804 => some ⟨false, rOV, false, false⟩
  | 0x0900 => some ⟨true, rOV, false, false⟩ | 0x0901 => some ⟨true, rOV, false, false⟩ | 0x0902 => some ⟨true, rOV, false, false⟩
  | 0x0903 => some ⟨true, rOV, false, false⟩ | 0x0904 => some ⟨false, rOV, false, false⟩
  | 0x0A00 => some ⟨true, 16, false, false⟩ | 0x0A01 => some ⟨true, 16, false, false⟩ | 0x0A02 => some ⟨true, 16, false, false⟩
  | 0x0A03 => some ⟨true, 8, false, false⟩ | 0x0A04 => some ⟨true, 16, true, false⟩ | 0x0A05 => some ⟨true, 16, false, false⟩
  | 0x0A06 => some ⟨true, 24, false, false⟩
  | 0x0B00 => some ⟨true, rOV, true, false⟩ | 0x0B01 => some ⟨true, rOV, true, false⟩ | 0x0B02 => some ⟨true, rOV, true, false⟩
  | 0x0B03 => some ⟨true, 8, true, false⟩ | 0x0B04 => some ⟨true, 8, true, false⟩ | 0x0B05 => some ⟨false, rAll, false, false⟩
  | 0x0B06 => some ⟨false, rOV, false, false⟩
  | 0x0C00 => some ⟨false, rOV, false, false⟩ | 0x0C01 => some ⟨true, rOV, false, false⟩
  | 0x0D00 => some ⟨true, rOV, false, false⟩ | 0x0D01 => some ⟨false, rOV, false, false⟩ | 0x0D02 => some ⟨false, rOV, false, false⟩
  | 0x0E00 => some ⟨true, 8, false, false⟩ | 0x0E01 => some ⟨true, 8, false, false⟩ | 0x0E02 => some ⟨true, 8, false, false⟩
  | 0x0E03 => some ⟨false, rOVS, false, false⟩ | 0x0E04 => some ⟨false, rAll, false, false⟩
  | _ => none

/-- Kind R (R349): OP_SESS_OPEN and what the table does not define are of no kind. -/
def kindR (op : Nat) : Bool := op != 1 && ((opInfo op).map (fun i => !i.kindN)).getD false

/-- A number in a command's parameters. -/
def par (ps : List Byte) (off n : Nat) : Nat := ofLe ((ps.drop off).take n)

/-- A length within bounds, or the nearest bound. -/
def lenIn (lo hi n : Nat) : Nat := if n < lo then lo else if hi < n then hi else n

/-- The PLEN that a command's layout requires, given its parameters (R344, R349). -/
def expLen (op : Nat) (ps : List Byte) : Nat :=
  match op with
  | 0x0004 => 4 | 0x0005 => 2
  | 0x0100 => 2 + 2 * par ps 0 2 | 0x0101 => 4 | 0x0102 => 4 + 12 * par ps 0 1 | 0x0103 => 12 | 0x0104 => 2 | 0x0105 => 2
  | 0x0200 => 40 | 0x0201 => lenIn 4 1028 ps.length | 0x0203 => 12 | 0x0205 => 10 | 0x0206 => lenIn 8 1032 ps.length | 0x0207 => 6
  | 0x0300 => 6 | 0x0301 => 4 + 8 * par ps 0 2 | 0x0302 => 12
  | 0x0400 => 4 | 0x0401 => 12 | 0x0402 => 6
  | 0x0500 => 1 | 0x0501 => 2 | 0x0502 => 36 | 0x0503 => 32 | 0x0504 => 10
  | 0x0601 => 8 | 0x0701 => 8 | 0x0703 => 7
  | 0x0800 => 36 | 0x0801 => lenIn 4 1028 ps.length
  | 0x0900 => 4 + par ps 1 1 | 0x0901 => 20 | 0x0902 => 1 | 0x0903 => 1
  | 0x0A00 => 1 + par ps 0 1 | 0x0A02 => 2 + par ps 0 1 + par ps (1 + par ps 0 1) 1 | 0x0A04 => 1 | 0x0A05 => 1 | 0x0A06 => 4
  | 0x0B01 => 1 | 0x0D00 => 10 + par ps 8 2 | 0x0D01 => 2 | 0x0D02 => 8
  | 0x0E00 => 8 | 0x0E01 => 1 | 0x0E02 => 1 | 0x0E03 => 1 | 0x0E04 => lenIn 0 1400 ps.length
  | _ => 0

/-- The bit of a session in `OpInfo.roles`. -/
def Sess.roleBit (x : Sess) : Nat :=
  match x.role with
  | .tenant => 0
  | .operator => if x.scope = 0 then 2 else 1
  | .service => 3
  | .safety => 4

/-- A session is an OPERATOR of scope 0 or a SERVICE session. -/
def Sess.o0v (x : Sess) : Bool := x.roleBit == 2 || x.roleBit == 3

/-! ### How a command ends (R340, R341, R351) -/

/-- What a command's execution answers: ST_OK with reply data, a status with DETAIL, or ST_OK once the flash work it has queued has
passed its read-back (R394). -/
inductive Res
  | ok (data : List Byte)
  | fail (code detail : Nat)
  | hold (data : List Byte)
deriving DecidableEq, Repr

/-- A reply to a command of a session (R331, R342): the next RSEQ, sealed under KR; RECOVERY answers without a session (R457).
A session whose RSEQ reached its end, or that accepted SEQ 0xFFFF_FFFF or is to close, closes with it (R336). -/
def Mod.sendTo (m : Mod) (h : Nat) (c : Cmd) (status : Nat) (data : List Byte) (dup : Bool) : Mod :=
  match m.sess h with
  | none => m
  | some x =>
    let flags := 1 + (if c.urgent then 2 else 0) + (if dup then 4 else 0)
    if 1024 ≤ h then
      (m.deliver { dest := x.transport, session := 0, flags := flags, op := c.op, tag := c.tag, seq := c.seq, rseq := 0, status := status, data := data })
    else
      let r := x.rseq + 1
      let m := m.setSess h { x with rseq := r }
      let m := m.deliver { dest := x.transport, viaB := x.viaB, session := h, flags := flags, op := c.op, tag := c.tag, seq := c.seq, rseq := r
                           status := status, data := data, auth := some (x.kr, sessNonce h c.seq r true), sealed := true }
      m.when (x.closing || decide (0xFFFFFFFF ≤ r)
        || (x.top == 0xFFFFFFFF && (x.flight.filter (fun d => d.seq != c.seq)).isEmpty)) (fun m => m.closeSess h)

/-- A command ends with its reply: it is no longer in flight, and a reply of kind N enters the cache (R341). -/
def Mod.endCmd (m : Mod) (h : Nat) (c : Cmd) (status : Nat) (data : List Byte) : Mod :=
  match m.sess h with
  | none => m
  | some x =>
    let keep := ((opInfo c.op).map (·.kindN)).getD false
    let cache := if keep then (x.cache ++ [⟨c.seq, c.op, status, data.take 64⟩]) else x.cache
    let m := m.setSess h { x with
      flight := x.flight.filter (fun d => d.seq != c.seq)
      cache := cache.drop (cache.length - 8) }
    m.sendTo h c status data false

/-- Whether flash work still carries a command's mark. -/
def FlashJob.marked (tag : Nat × Nat) : FlashJob → Bool
  | .param _ _ _ (some t) => t == tag
  | .data t => t == tag
  | _ => false

/-- Replies whose flash work is complete are sent (R394). -/
def Mod.releaseHeld (m : Mod) : Mod :=
  (m.orpor.sessions.flatMap (fun s => s.2.flight.map (fun c => (s.1, c)))).foldl (fun m x =>
    match x.2.done with
    | some (st, data) => if m.nvm.jobs.any (FlashJob.marked (x.1, x.2.seq)) then m else m.endCmd x.1 x.2 st data
    | none => m) m

/-- A command's execution has answered. -/
def Mod.finish (m : Mod) (h : Nat) (c : Cmd) (r : Res) : Mod :=
  match r with
  | .ok data => m.endCmd h c 0 data
  | .fail code detail => m.endCmd h c code (leBytes 4 detail)
  | .hold data =>
    match m.sess h with
    | none => m
    | some x =>
      (m.setSess h { x with flight := x.flight.map (fun d => if d.seq = c.seq then { d with done := some (0, data) } else d) }).releaseHeld

/-! ### The order of execution (R85, R342) -/

/-- The waiting commands in the order in which they were accepted. -/
def Mod.waiting (m : Mod) : List (Nat × Cmd) :=
  m.orpor.order.filterMap (fun o => (m.sess o.1).bind (fun x => (x.flight.find? (fun c => c.seq == o.2 && c.done.isNone)).map (fun c => (o.1, c))))

def isWindow (op : Nat) : Bool := ((opInfo op).map (·.window)).getD false

/-- A waiting command stands before another: of its session, or of its kind (inside a window or not); URGENT ones come first. -/
def precedes (a b : Nat × Cmd) (aFirst : Bool) : Bool :=
  (a.1 == b.1 || isWindow a.2.op == isWindow b.2.op) && (if a.2.urgent = b.2.urgent then aFirst else a.2.urgent)

/-- It is the turn of the command with this session and SEQ. -/
def Mod.turn (m : Mod) (h seq : Nat) : Bool :=
  let w := m.waiting
  let i := w.findIdx (fun x => x.1 == h && x.2.seq == seq)
  match w[i]? with
  | none => false
  | some b => (w.zip (List.range w.length)).all (fun x => x.2 == i || !precedes x.1 b (decide (x.2 < i)))

/-- The session that a command row names: in RECOVERY, the transport's (R457). -/
def Mod.sessKey (m : Mod) (h : Nat) : Nat := if m.st = xRecovery then 1024 + h % 4 else h

/-- The swap window is open: commands wait for the first management window after S (R85). -/
def Mod.swapOpen (m : Mod) : Bool := m.plan.migrated || m.plan.armRecord

/-- The command is in flight with this opcode, it is its turn, and where it needs a management window one is open (R342; without a plan no
Drum opens windows, and the command needs none). -/
def Mod.ready (m : Mod) (h seq op : Nat) : Option (Sess × Cmd) :=
  match m.sess h with
  | none => none
  | some x =>
    match x.flight.find? (fun c => c.seq == seq && c.op == op && c.done.isNone) with
    | none => none
    | some c =>
      if m.turn h seq && !m.swapOpen && (!isWindow op || !m.planLoaded || decide (m.clk.ns < m.exec.windowEnd)) then some (x, c) else none

/-- DETAIL of ST_BAD_STATE (R351). -/
def Mod.stateDetail (m : Mod) : Nat := m.st + m.get F.TIME_STATUS_STATE * 256
def Mod.badState (m : Mod) : Mod × Res := (m, .fail 0x0004 m.stateDetail)

/-- A command's row: where the command is ready it executes, unless its role or the missing plan forbids it, and it ends with its reply. -/
def opRow (s : State) (h : BitVec 10) (seq : BitVec 32) (op : Nat) (f : Mod → Nat → Sess → List Byte → Mod × Res) : Out :=
  onMod s fun m =>
    let k := m.sessKey h.toNat
    match m.ready k seq.toNat op with
    | none => m
    | some (x, c) =>
      let m := { m with orpor := { m.orpor with order := m.orpor.order.filter (fun o => !(o.1 == k && o.2 == seq.toNat)) } }
      let r : Mod × Res :=
        match opInfo op with
        | none => (m, .fail 0x0001 op)
        | some i =>
          if !bitAt i.roles x.roleBit then (m, .fail 0x0005 op)
          else if i.plan && !m.planLoaded then m.badState
          else f m k x c.params
      r.1.finish k c r.2

end Sys2Proof.Machine
end

