-- ==== Sys2Proof/Machine/BitMachine.lean ====
section
/-! DEFINITION. The bit machine of lane 0 (R110, R144 to R147, R526): its words, its state, the check of a record, the
entry to BIT. -/

namespace Sys2Proof.Machine

/-! ### Words (R145) -/

/-- A word with an operand: opcode, area, bit number. -/
def encBit (op : Nat) (area : BitVec 3) (n : BitVec 8) : Nat := op * 2 ^ 11 + area.toNat * 2 ^ 8 + n.toNat
/-- A jump: a forward offset. -/
def encBitJ (op : Nat) (off : BitVec 11) : Nat := op * 2 ^ 11 + off.toNat
/-- A word without an operand. -/
def encBitN (op : Nat) : Nat := op * 2 ^ 11

def bwOp (w : Nat) : Nat := bits w 11 5
def bwArea (w : Nat) : Nat := bits w 8 3
def bwNum (w : Nat) : Nat := bits w 0 8
def bwOff (w : Nat) : Nat := bits w 0 11

/-- Bits of an area (R145); 0 for a reserved one. -/
def areaBits (a : Nat) : Nat :=
  match a with | 0 => 48 | 1 => 24 | 2 => 16 | 3 => 8 | 4 => 256 | 5 => 2 | _ => 0

/-! ### Execution (R144, R145) -/

/-- A bit of an area (R144). -/
def BitSt.read (b : BitSt) (area n : Nat) : Bool :=
  match area with
  | 0 => b.di.getLsbD n
  | 1 => b.doA.getLsbD n
  | 2 => b.si.getLsbD n
  | 3 => b.soA.getLsbD n
  | 4 => b.flags.getLsbD n
  | 5 => n == 1
  | _ => false

/-- A bit of a vector replaced. -/
def bvSet {w : Nat} (v : BitVec w) (n : Nat) (x : Bool) : BitVec w :=
  if x then v ||| BitVec.ofNat w (2 ^ n) else v &&& ~~~(BitVec.ofNat w (2 ^ n))

/-- A bit of the DO area, the SO area or the flags written. -/
def BitSt.write (b : BitSt) (area n : Nat) (x : Bool) : BitSt :=
  match area with
  | 1 => { b with doA := bvSet b.doA n x }
  | 3 => { b with soA := bvSet b.soA n x }
  | 4 => { b with flags := bvSet b.flags n x }
  | _ => b

/-- On to the next word, plus an offset. -/
def BitSt.next (b : BitSt) (off : Nat := 0) : BitSt := { b with pc := b.pc + 1 + off }

/-- An instruction that gives ACC from ACC and an operand. -/
def BitSt.accOp (f : Bool → Bool → Bool) (area n : Nat) (b : BitSt) : BitSt :=
  ({ b with acc := f b.acc (b.read area n) }).next
/-- ST and STN. -/
def BitSt.stOp (inv : Bool) (area n : Nat) (b : BitSt) : BitSt := (b.write area n (b.acc != inv)).next
/-- SET and RST. -/
def BitSt.latchOp (x : Bool) (area n : Nat) (b : BitSt) : BitSt := (if b.acc then b.write area n x else b).next
/-- PUSH. -/
def BitSt.pushOp (b : BitSt) : BitSt := ({ b with stack := b.acc :: b.stack }).next
/-- POPAND, POPOR, POP. -/
def BitSt.popOp (f : Bool → Bool → Bool) (b : BitSt) : BitSt :=
  match b.stack with
  | x :: t => ({ b with acc := f x b.acc, stack := t }).next
  | [] => b.next
/-- NOTA. -/
def BitSt.notOp (b : BitSt) : BitSt := ({ b with acc := !b.acc }).next
/-- JC, JNC, JMP. -/
def BitSt.jumpOp (c : Bool → Bool) (off : Nat) (b : BitSt) : BitSt := if c b.acc then b.next off else b.next
/-- END: past the last word. -/
def BitSt.endOp (b : BitSt) : BitSt := { b with pc := b.prog.length }

/-- One word (R145). -/
def BitSt.exec (b : BitSt) (w : Nat) : BitSt :=
  let a := bwArea w
  let n := bwNum w
  match bwOp w with
  | 0x01 => b.accOp (fun _ x => x) a n
  | 0x02 => b.accOp (fun _ x => !x) a n
  | 0x03 => b.accOp (fun c x => c && x) a n
  | 0x04 => b.accOp (fun c x => c && !x) a n
  | 0x05 => b.accOp (fun c x => c || x) a n
  | 0x06 => b.accOp (fun c x => c || !x) a n
  | 0x07 => b.accOp (fun c x => c != x) a n
  | 0x08 => b.stOp false a n
  | 0x09 => b.stOp true a n
  | 0x0A => b.latchOp true a n
  | 0x0B => b.latchOp false a n
  | 0x0C => b.pushOp
  | 0x0D => b.popOp (fun x c => x && c)
  | 0x0E => b.popOp (fun x c => x || c)
  | 0x0F => b.popOp (fun x _ => x)
  | 0x10 => b.notOp
  | 0x11 => b.jumpOp (fun c => c) (bwOff w)
  | 0x12 => b.jumpOp (fun c => !c) (bwOff w)
  | 0x13 => b.jumpOp (fun _ => true) (bwOff w)
  | 0x1F => b.endOp
  | _ => b.next

/-- The word at PC. -/
def BitSt.cur (b : BitSt) : Option Nat := (b.prog[b.pc]?).map (·.toNat)

/-- Up to `n` words of the program. -/
def BitSt.run : Nat → BitSt → BitSt
  | 0, b => b
  | n + 1, b =>
    match b.cur with
    | some w => BitSt.run n (b.exec w)
    | none => b

/-- The end of a cycle (R110, R147): the masked outputs take the DO and SO areas and the AO and LT defaults. -/
def Mod.bitFinish (m : Mod) : Mod :=
  let b := m.bit
  { m with
    bit := { b with inCycle := false }
    key := { m.key with proven := true }
    outs := Vector.ofFn (fun o : Fin 48 =>
      let n := o.val
      let v : Option OutVal :=
        match outKind n with
        | .do_ => if bitAt b.doMask n then some (if b.doA.getLsbD n then .on else .off) else none
        | .so => if bitAt b.soMask ((n - 32) / 2) then some (if b.soA.getLsbD (n - 32) then .on else .off) else none
        | .ao => if bitAt b.aoMask (n - 24) then some (.raw (BitVec.ofNat 32 (fOfRat b32 (b.aoDef.getD (n - 24) 0) 1000))) else none
        | .lt => if bitAt b.ltMask (n - 40) then some (.value (BitVec.ofNat 32 (fOfRat b32 (b.ltDef.getD (n - 40) 0) 1000))) else none
      { m.outs[o] with bit := v }) }

/-- A cycle that has passed its last word ends. -/
def Mod.bitSettle (m : Mod) : Mod := if m.bit.inCycle && m.bit.cur.isNone then m.bitFinish else m

/-- A cycle starts (R144): DI and SI frozen, ACC 0, the stack empty. -/
def Mod.bitStart (m : Mod) : Mod :=
  let di := (List.range 48).foldl (fun a i => a + b2n (m.flag (F.FIO_DI_STATUS_VALUE i)) * 2 ^ i) 0
  let si := (List.range 8).foldl (fun a i =>
    a + (b2n (m.safe.filtA.getLsbD i) + 2 * b2n (m.safe.filtB.getLsbD i)) * 4 ^ i) 0
  { m with bit := { m.bit with
      di := BitVec.ofNat 48 di, si := BitVec.ofNat 16 si, acc := false, stack := [], pc := 0, inCycle := true } }

/-! ### The check of a record (R146, R526) -/

/-- The opcode takes an operand bit. -/
def bwHasOperand (op : Nat) : Bool := decide (1 ≤ op ∧ op ≤ 0x0B)
def bwIsJump (op : Nat) : Bool := decide (0x11 ≤ op ∧ op ≤ 0x13)
def bwStores (op : Nat) : Bool := decide (8 ≤ op ∧ op ≤ 0x0B)

/-- An output bit lies inside the masks (R146). -/
def bwMasked (doM soM a n : Nat) : Bool :=
  match a with | 1 => bitAt doM n | 3 => bitAt soM (n / 2) | _ => true

/-- The checks of one word that need no path: opcode, area, bit number, zero bits, targets, jump target (R146). -/
def bwOk (len doM soM i w : Nat) : Bool :=
  let op := bwOp w
  if 0x14 ≤ op ∧ op ≤ 0x1E then false
  else if bwIsJump op then decide (i + 1 + bwOff w ≤ len)
  else if bwHasOperand op then
    decide (bwNum w < areaBits (bwArea w)) && bwMasked doM soM (bwArea w) (bwNum w)
      && (!bwStores op || bwArea w == 1 || bwArea w == 3 || bwArea w == 4)
  else w % 2048 == 0

/-- Stack depth after a word; none outside 0 to 16. -/
def bwDepth (op d : Nat) : Option Nat :=
  if op = 0x0C then (if d < 16 then some (d + 1) else none)
  else if 0x0D ≤ op ∧ op ≤ 0x0F then (if 0 < d then some (d - 1) else none)
  else some d

/-- The first failing word of a program (R146): `fall` is the depth with which the word before falls through,
`pend` the depths with which jumps reach later words. -/
def bwScan (len doM soM : Nat) : List Nat → Nat → Option Nat → List (Nat × Nat) → Option Nat
  | [], _, _, _ => none
  | w :: ws, i, fall, pend =>
    let ds := (pend.filter (fun p => p.1 == i)).map (·.2) ++ fall.toList
    let op := bwOp w
    if !bwOk len doM soM i w || !ds.all (fun d => d == ds.headD 0) then some i
    else
      match ds with
      | [] => bwScan len doM soM ws (i + 1) none pend
      | d :: _ =>
        match bwDepth op d with
        | none => some i
        | some d' =>
          let pend := if bwIsJump op then (i + 1 + bwOff w, d') :: pend else pend
          bwScan len doM soM ws (i + 1) (if op = 0x13 ∨ op = 0x1F then none else some d') pend

/-- The fields of a record (R110). -/
structure BitRec where
  cycle : Nat
  doM : Nat
  soM : Nat
  aoM : Nat
  ltM : Nat
  aoDef : List Nat
  ltDef : List Nat
  prog : List Nat

/-- `n` little-endian 16-bit words of a byte list. -/
def words16 : Nat → List Byte → List Nat
  | 0, _ => []
  | n + 1, bs => ofLe (bs.take 2) :: words16 n (bs.drop 2)

def recField (bs : List Byte) (off n : Nat) : Nat := ofLe ((bs.drop off).take n)

/-- The record-level checks of R526: MAGIC, zero bytes, WORDS, length, CYCLE, masks, LT_DEF and CRC. -/
def bitRecParse (bs : List Byte) : Option BitRec :=
  let n := recField bs 4 2
  let r : BitRec := ⟨recField bs 6 1, recField bs 8 4, recField bs 12 1, recField bs 13 1, recField bs 14 1,
    words16 8 (bs.drop 16), words16 8 (bs.drop 32), words16 n (bs.drop 48)⟩
  if recField bs 0 4 = 0x54424C42 ∧ recField bs 7 1 = 0 ∧ recField bs 15 1 = 0
      ∧ 1 ≤ n ∧ n ≤ 4096 ∧ bs.length = 52 + 2 * n ∧ r.cycle ≤ 3 ∧ r.doM < 2 ^ 24 ∧ r.soM < 16
      ∧ (List.range 8).all (fun k => !bitAt r.ltM k || decide (3800 ≤ r.ltDef.getD k 0 ∧ r.ltDef.getD k 0 ≤ 20500))
      ∧ recField bs (48 + 2 * n) 4 = crc32c (bs.take (48 + 2 * n)) then some r else none

/-- The check of a record (R526): none where it passes, else the DETAIL of ST_BITPROG_INVALID (R146); the record's other
parts are checked before its words (log entry 11). -/
def bitRecCheck (bs : List Byte) : Option Nat :=
  match bitRecParse bs with
  | none => some 0xFFFFFFFF
  | some r => bwScan r.prog.length r.doM r.soM r.prog 0 (some 0) []

/-! ### Entry to BIT (R105, R110, R144, R526) -/

/-- BIT entered: the stored record is checked; where it passes, lane 0 takes it with flags, accumulator and stack
cleared and the output areas as the outputs stand; else EV_BIT_ABSENT. DESIGN CHOICE (log entry 128): the value an output had on entry to BIT is what its
pin shows, after every protection. -/
def Mod.enterBit (m : Mod) : Mod :=
  let doA := (List.finRange 24).foldl (fun a i => a + b2n (m.pinOn ⟨i.val, by omega⟩) * 2 ^ i.val) 0
  let soA := (List.finRange 8).foldl (fun a i => a + b2n (m.pinOn ⟨32 + i.val, by omega⟩) * 2 ^ i.val) 0
  let m := ((m.bitOff.goto xBit).pdOn [6, 4, 5]).swOn swPllF
  let rec_ := (m.paramGet keyBitprog).getD []
  match bitRecParse rec_, bitRecCheck rec_ with
  | some r, none =>
    let m := { m with bit := { m.bit with
      prog := r.prog.map (BitVec.ofNat 16), doMask := r.doM, soMask := r.soM, aoMask := r.aoM, ltMask := r.ltM
      aoDef := r.aoDef, ltDef := r.ltDef, pc := 0, inCycle := false, acc := false, stack := []
      doA := BitVec.ofNat 24 doA, soA := BitVec.ofNat 8 soA, flags := 0 } }
    let m := (m.set F.EXEC_BIT_CYCLE r.cycle).set F.EXEC_BIT_VALID 1
    (m.set F.EXEC_BIT_RUNNING 1).set F.EXEC_BIT_WORDS r.prog.length
  | _, _ =>
    let m := { m with bit := { m.bit with
      prog := [], doMask := 0, soMask := 0, aoMask := 0, ltMask := 0, pc := 0, inCycle := false, acc := false
      stack := [], flags := 0 } }
    let m := ((m.set F.EXEC_BIT_VALID 0).set F.EXEC_BIT_RUNNING 0).set F.EXEC_BIT_WORDS 0
    m.log .bitAbsent 0 []

end Sys2Proof.Machine
end

