-- ==== Sys2Proof/Machine/PortOps.lean ====
section
/-! DEFINITION. The field ports (R284 to R303): how values stand in a request's data, exchanges and their attempts, CAN
queues, filters and receive objects. -/

namespace Sys2Proof.Machine

/-! ### Drum entries (R67, R68) -/

/-- The instant of an entry after the start of its hyperperiod (R67, R161), in units of 31.25 ps: 32 to a ns and 5 to a step of VERNIER. -/
def drumFine (e : BitVec 64) : Nat := (bits e.toNat 0 13 * 125000 + bits e.toNat 13 17) * 32 + 5 * bits e.toNat 30 4
/-- The whole ns of an entry's instant. -/
def drumNs (e : BitVec 64) : Nat := drumFine e / 32
def drumKind (e : BitVec 64) : Nat := bits e.toNat 34 4
def drumTarget (e : BitVec 64) : Nat := bits e.toNat 38 10
def drumArg (e : BitVec 64) : Nat := bits e.toNat 48 16

abbrev dkNop : Nat := 0
abbrev dkWakeF : Nat := 1
abbrev dkWakeM : Nat := 2
abbrev dkFreeze : Nat := 3
abbrev dkBurst : Nat := 4
abbrev dkLaunch : Nat := 5
abbrev dkLoopRun : Nat := 6
abbrev dkLoopLatch : Nat := 7
abbrev dkPoll : Nat := 8
abbrev dkMeterWin : Nat := 9
abbrev dkMirror : Nat := 10
abbrev dkMgmtWin : Nat := 11
abbrev dkStopF : Nat := 12
abbrev dkDomain : Nat := 13

/-- The active Drum bank (R70). -/
def Mod.drum (m : Mod) : List (BitVec 64) := if m.flag F.DRUM_STATUS_BANK then m.plan.drumB else m.plan.drumA

def Mod.portMap (m : Mod) (p : Fin 19) (f : PortSt → PortSt) : Mod :=
  { m with ports := { m.ports with port := m.ports.port.set p (f m.ports.port[p]) } }

/-- A port's supply is switched off now (R301, R303). -/
def Mod.supplyOff (m : Mod) (p : Nat) : Mod := { m with ports := { m.ports with offAt := mapPut p m.clk.mono m.ports.offAt } }

/-- `cycles` of the TCXO have passed since a port's supply was switched off; true where it was not. -/
def Mod.supplyPast (m : Mod) (p cycles : Nat) : Bool :=
  match mapGet p m.ports.offAt with
  | some t => decide (t + cycles ≤ m.clk.mono)
  | none => true

abbrev prCan : Nat := 1
abbrev prRtu : Nat := 2
abbrev prMstp : Nat := 3
abbrev prDali : Nat := 5
abbrev prMbus : Nat := 6
abbrev prTcp : Nat := 7

def Mod.proto (m : Mod) (p : Fin 19) : Nat := m.get (F.FBUS_CFG_PROTO p.val)
def Mod.portEn (m : Mod) (p : Fin 19) : Bool := m.flag (F.FBUS_CFG_EN p.val) && m.isOn (swPd 10)

/-! ### Values in a request's data (R289) -/

/-- The bytes that hold a field, in order of rising weight. -/
def fieldBytes (o : Order) (bs : List Byte) : List Byte :=
  match o with
  | .little => bs
  | .big => bs.reverse
  | .bigSwapped => (List.range ((bs.length + 1) / 2)).flatMap (fun i => ((bs.drop (2 * i)).take 2).reverse)

/-- The number of bytes that a field touches. -/
def RemBind.span (b : RemBind) : Nat := (b.bit + b.len + 7) / 8

/-- A field's raw bits; none where the data end before it. -/
def RemBind.raw (b : RemBind) (data : List Byte) : Option Nat :=
  let bs := (data.drop b.byte).take b.span
  if bs.length = b.span then some (bits (ofLe (fieldBytes b.order bs)) b.bit b.len) else none

/-- A BCD number; none where a digit is above 9. -/
def bcdDec : Nat → Nat → Option Nat
  | 0, _ => some 0
  | n + 1, v =>
    if v % 16 ≤ 9 then (bcdDec n (v / 16)).map (fun x => 10 * x + v % 16) else none

def bcdEnc : Nat → Nat → Nat
  | 0, _ => 0
  | n + 1, v => v % 10 + 16 * bcdEnc n (v / 10)

/-- What a raw field stands for: an integer, a REAL32, or no number of its encoding. -/
inductive Num | int (i : Int) | real (x : Nat) | bad
deriving DecidableEq, Repr

def RemBind.num (b : RemBind) (raw : Nat) : Num :=
  match b.enc with
  | .unsigned => .int raw
  | .signed => .int (toInt b.len raw)
  | .real32 => if b.len = 32 then .real raw else .bad
  | .real64 => if b.len = 64 then .real (fConv b64 b32 raw) else .bad
  | .bcd => if b.len % 4 = 0 then (match bcdDec (b.len / 4) raw with | some n => .int n | none => .bad) else .bad

/-- The point's VALUE for a number (R289): REAL32 takes value × SCALE + OFFSET. A number that the TYPE cannot hold is
unstated: a free value (log entry 14). -/
def RemBind.value (b : RemBind) (ty raw : Nat) : Long :=
  let scaled (x : Nat) : Long := ofF32 (fAdd b32 (fMul b32 x b.scale.toNat) b.off.toNat)
  match ty, b.num raw with
  | 1, .int i => if i = 0 then 0 else if i = 1 then 1 else Config.misfitField ty raw &&& 1#64
  | 2, .int i => if satInt 32 i = i then ofI32 i else encodeVal 2 (Config.misfitField ty raw)
  | 3, .int i => if satInt 64 i = i then ofI64 i else Config.misfitField ty raw
  | 5, .int i => if satInt 64 i = i then ofI64 i else Config.misfitField ty raw
  | 4, .int i => scaled (fOfRat b32 i 1)
  | 4, .real x => scaled x
  | _, _ => encodeVal ty (Config.misfitField ty raw)

/-- An integer saturated to what a field can hold, and whether it fitted. -/
def RemBind.satField (b : RemBind) (i : Int) : Int × Bool :=
  let lo : Int := match b.enc with | .signed => -(2 ^ (b.len - 1) : Nat) | _ => 0
  let hi : Int := match b.enc with
    | .signed => (2 ^ (b.len - 1) : Nat) - 1
    | .bcd => (10 ^ (b.len / 4) : Nat) - 1
    | _ => (2 ^ b.len : Nat) - 1
  if i < lo then (lo, false) else if hi < i then (hi, false) else (i, true)

/-- The integer a REAL32 is sent as: itself where it is whole; which neighbour otherwise the manual does not state. -/
def wholeOf (x : Nat) : Int :=
  let n := fScaled b32 x (-149)
  let fl := Int.fdiv n (2 ^ 149)
  if n = fl * 2 ^ 149 then fl else if Config.fieldUp x then fl + 1 else fl

/-- The raw field an output point's VALUE is sent as, and whether the field could hold it (R289). -/
def RemBind.encode (b : RemBind) (ty : Nat) (v : Long) : Nat × Bool :=
  let ofInteger (i : Int) : Nat × Bool :=
    let s := b.satField i
    match b.enc with
    | .bcd => (bcdEnc (b.len / 4) s.1.toNat, s.2)
    | .real32 => (fOfRat b32 i 1, true)
    | .real64 => (fOfRat b64 i 1, true)
    | _ => (ofInt b.len s.1, s.2)
  match ty with
  | 4 =>
    let x := fDiv b32 (fSub b32 (asF32 v) b.off.toNat) b.scale.toNat
    match b.enc with
    | .real32 => (x, true)
    | .real64 => (fConv b32 b64 x, true)
    | _ =>
      if fIsNan b32 x then ((Config.misfitField ty v.toNat).toNat % 2 ^ b.len, false)
      else if fIsInf b32 x then ofInteger (if bitAt x 31 then -(2 ^ 200 : Nat) else (2 ^ 200 : Nat))
      else ofInteger (wholeOf x)
  | 1 => ofInteger (b2n (asBool v))
  | 2 => ofInteger (asI32 v)
  | _ => ofInteger (asI64 v)

/-- A raw field put into the data. -/
def RemBind.put (b : RemBind) (data : List Byte) (raw : Nat) : List Byte :=
  let bs := (data.drop b.byte).take b.span
  let v := putBits (ofLe (fieldBytes b.order bs)) b.bit b.len raw
  putBytes data b.byte (fieldBytes b.order (leBytes bs.length v))

/-! ### Requests and their points -/

def Mod.reqDef (m : Mod) (p : Fin 19) (i : Nat) : Option PollReq :=
  ((m.plan.active.map (·.reqs)).getD []).find? (fun r => r.port == p.val && r.idx == i)

def Mod.remotes (m : Mod) : List RemBind := (m.plan.active.map (·.remotes)).getD []
def Mod.reqBinds (m : Mod) (r : PollReq) : List RemBind :=
  m.remotes.filter (fun b => b.port == r.port && b.req == r.idx && b.obj.isNone)

def Mod.bufEnt (m : Mod) (pt : Nat) : BufEnt := mapGetD {} pt m.ports.buf
def Mod.bufSet (m : Mod) (pt : Nat) (f : BufEnt → BufEnt) : Mod :=
  { m with ports := { m.ports with buf := mapPut pt (f (m.bufEnt pt)) m.ports.buf } }

/-- FAILED: stations whose last exchange failed (R305). -/
def Mod.stationDone (m : Mod) (p : Fin 19) (st : Nat) (ok : Bool) : Mod :=
  let l := m.ports.port[p].failed.filter (· != st)
  let l := if ok then l else st :: l
  (m.portMap p (fun x => { x with failed := l })).set (F.FBUS_STATUS_FAILED p.val) (satNat 8 l.length)

/-- An exchange succeeds (R94): COMMFAIL of its points ends, EXCH counts. -/
def Mod.exchOk (m : Mod) (p : Fin 19) (r : PollReq) : Mod :=
  let m := (m.addWrap (F.FBUS_EXCH_COUNT p.val) 1).stationDone p r.station true
  let m := m.portMap p (fun x => { x with
    exch := none, fcb := if x.fcb.contains r.station then x.fcb.filter (· != r.station) else r.station :: x.fcb })
  let m := m.set (F.FBUS_STATUS_TOKEN p.val) 0
  r.points.foldl (fun m pt => m.bufSet pt (fun b => { b with commFail := false })) m

/-- An exchange fails (R94): its points take COMMFAIL at the next transfer. -/
def Mod.exchFail (m : Mod) (p : Fin 19) (r : PollReq) : Mod :=
  let m := (m.addSat (F.FBUS_FAILS_COUNT p.val) 1).stationDone p r.station false
  let m := (m.portMap p (fun x => { x with exch := none })).set (F.FBUS_STATUS_TOKEN p.val) 0
  r.points.foldl (fun m pt => m.bufSet pt (fun b => { b with commFail := true })) m

/-- From now to the next planned slot of a station, in ns (R94). -/
def Mod.nextSlot (m : Mod) (p : Fin 19) (station : Nat) : Option Nat :=
  (m.drum.filterMap (fun e =>
    if drumKind e = dkPoll ∧ drumTarget e = p.val ∧ (m.reqDef p (drumArg e)).any (fun r => r.station == station) then
      some ((drumNs e + 999999999 - m.clk.ns % 1000000000) % 1000000000 + 1)
    else none)).min?

/-- A further attempt would reach the station's next planned slot (R94). -/
def Mod.reachesSlot (m : Mod) (p : Fin 19) (r : PollReq) : Bool := (m.nextSlot p r.station).any (fun d => decide (d < r.attempt))

/-- A failed attempt (R94, R285): a further one within RETRY that does not reach the station's next slot, with the same value and a new transaction identifier, or the
exchange has failed. -/
def Mod.attemptFail (m : Mod) (p : Fin 19) : Mod :=
  match m.ports.port[p].exch with
  | none => m
  | some e =>
    match m.reqDef p e.req with
    | none => m.portMap p (fun x => { x with exch := none })
    | some r =>
      if e.attempt < m.get (F.FBUS_CFG_RETRY p.val) && !m.reachesSlot p r then
        (m.addSat (F.FBUS_RETRIES_COUNT p.val) 1).portMap p (fun x => { x with
          exch := some { e with attempt := e.attempt + 1, waiting := m.proto p == prMstp, tid := x.tid }
          tid := (x.tid + 1) % 65536 })
      else m.exchFail p r

/-- The value a remote output's exchange carries (R91, R102): in RUN the value last launched, where R102 applies the
declared safe value; none where there is none, so that the output is not sent. DESIGN CHOICE (log entry 126): before the first LAUNCH of its class in RUN
there is no value, and none is sent. -/
def Mod.remoteValue (m : Mod) (pt : Nat) : Option Long :=
  if m.st = xRun then mapGet pt m.exec.rlaunched
  else (m.pointDef pt).bind (·.safe)

/-- The data of an output request, and the points whose values did not fit. -/
def Mod.outData (m : Mod) (r : PollReq) : List Byte × List Nat :=
  (m.reqBinds r).foldl (fun (a : List Byte × List Nat) b =>
    match m.remoteValue b.point with
    | some v =>
      let x := b.encode (pointTy m b.point) v
      (b.put a.1 x.1, if x.2 then a.2 else b.point :: a.2)
    | none => a)
    ((if r.frames.isEmpty then List.replicate r.len 0 else r.frames.flatMap (·.data)), [])

/-- A CAN entry's frames with the data laid into them in order. -/
def fillFrames : List CanFrame → List Byte → List CanFrame
  | [], _ => []
  | f :: fs, d => { f with data := d.take f.data.length } :: fillFrames fs (d.drop f.data.length)

/-- Frames of an entry still queued are discarded as a failed exchange (R291). -/
def Mod.canAbort (m : Mod) (p : Fin 19) (entry : Nat) : Mod :=
  if m.ports.port[p].queue.any (fun f => f.entry == some entry) then
    let m := m.portMap p (fun x => { x with queue := x.queue.filter (fun f => f.entry != some entry) })
    match m.reqDef p entry with
    | some r => m.exchFail p r
    | none => m
  else m

/-- A CAN entry's frames are queued; where the queue of 32 has no room for all of them they are dropped and the exchange
has failed. -/
def Mod.canQueue (m : Mod) (p : Fin 19) (r : PollReq) (fs : List CanFrame) : Mod :=
  if 32 < m.ports.port[p].queue.length + fs.length then
    (m.addSat (F.FBUS_DROPS_COUNT p.val) fs.length).exchFail p r
  else m.portMap p (fun x => { x with queue := x.queue ++ fs.map (fun f => { frame := f, entry := some r.idx }) })

/-- A POLL starts an exchange (R62, R94, R102, R286, R291, R298, R301, R302). In STANDBY a port transmits nothing
(R377); a port without bus power or off the bus makes no exchange (R294, R300). DESIGN CHOICE (log entry 125): an output request of several points of
which one has no value to send is not sent. -/
def Mod.pollStart (m : Mod) (p : Fin 19) (i : Nat) : Mod :=
  match m.reqDef p i with
  | none => m
  | some r =>
    if !m.portEn p || m.st == xStandby || m.flag (F.FBUS_STATUS_NO_POWER p.val) || m.flag (F.FBUS_STATUS_BUS_OFF p.val)
      || m.proto p == prMbus && !m.isOn swMbus then m
    else
      let d := m.outData r
      let ready := !r.write || (m.reqBinds r).all (fun b => (m.remoteValue b.point).isSome)
      let m := if m.proto p = prCan then m.canAbort p i else
        match m.ports.port[p].exch with
        | some e => (match m.reqDef p e.req with | some r' => m.exchFail p r' | none => m)
        | none => m
      if !ready then m
      else
        let m := d.2.foldl (fun m pt => m.bufSet pt (fun b => { b with range := true, fresh := true })) m
        let m := if r.write then (r.points.filter (fun pt => !d.2.contains pt)).foldl
          (fun m pt => m.bufSet pt (fun b => { b with range := false })) m else m
        if m.proto p = prCan then m.canQueue p r (fillFrames r.frames d.1)
        else if !r.needsReply then m.exchOk p r
        else
          let x := m.ports.port[p]
          let e : Exch := { req := i, sent := if r.write then d.1 else [],
                            waiting := m.proto p == prMstp, tid := x.tid }
          let closed := m.proto p == prTcp && !x.tcp.contains r.station
          let m := m.portMap p (fun x => { x with
            exch := some e, tid := (x.tid + 1) % 65536
            inited := if x.inited.contains r.station then x.inited else r.station :: x.inited
            tcp := if closed then r.station :: x.tcp else x.tcp })
          if closed then m.attemptFail p else m

/-- What a checked reply stores for a point (R287, R289, R301): RANGE where the field is not as bound; the value a field
past the reply's end would have is unstated. -/
def replyEnt (b : RemBind) (ty : Nat) (data : List Byte) (recs : List (Nat × Nat × List Byte)) (old : BufEnt) : BufEnt :=
  let src : Option (List Byte × Bool) := match b.mrec with
    | none => some (data, false)
    | some (pos, dif, vif) => (recs[pos]?).map (fun r => (r.2.2, decide (r.1 ≠ dif ∨ r.2.1 ≠ vif)))
  match src with
  | none => { old with range := true, have_ := true, fresh := true, commFail := false }
  | some (d, bad) =>
    match b.raw d with
    | some raw => { val := b.value ty raw, range := bad, have_ := true, fresh := true, commFail := false }
    | none => { val := encodeVal ty (Config.misfitField ty (2 ^ 64)), range := true, have_ := true, fresh := true, commFail := false }

/-- A checked reply's points enter the port buffer together (R287). -/
def Mod.takeReply (m : Mod) (r : PollReq) (data : List Byte) (recs : List (Nat × Nat × List Byte)) : Mod :=
  if r.write then m
  else (m.reqBinds r).foldl (fun m b => m.bufSet b.point (replyEnt b (pointTy m b.point) data recs)) m

/-! ### CAN reception (R292, R293) and error counters (R294) -/

/-- An element of the filter list matches (R292). -/
def filtMatch (e : BitVec 64) (f : CanFrame) : Bool :=
  let id1 := bits e.toNat 0 29
  let id2 := bits e.toNat 32 29
  (bitAt e.toNat 29 == f.xtd) &&
  (match bits e.toNat 30 2 with
   | 1 => decide (id1 ≤ f.id) && decide (f.id ≤ id2)
   | 2 => decide (f.id = id1) || decide (f.id = id2)
   | 3 => decide (f.id &&& id2 = id1 &&& id2)
   | _ => false)

/-- The first element that matches decides (R292). -/
def filtAccept (es : List (BitVec 64)) (f : CanFrame) : Bool :=
  match es.find? (fun e => filtMatch e f) with
  | some e => !bitAt e.toNat 61
  | none => false

def Mod.filters (m : Mod) (p : Fin 19) : List (BitVec 64) :=
  (((m.plan.active.map (·.filters)).getD []).filter (fun e => e.1 == p.val)).map (·.2)

/-- A frame overwrites its object and sets NEW (R293). -/
def RxObj.take (o : RxObj) (f : CanFrame) : RxObj :=
  { o with fdf := f.fdf, data := f.data.take 64, new := true
           lost := o.lost || o.new, lostCnt := if o.new then satNat 16 (o.lostCnt + 1) else o.lostCnt }

/-- A frame to the receive object with its identifier; the Boolean tells whether there is one. -/
def rxPut (objs : List (Nat × RxObj)) (f : CanFrame) : List (Nat × RxObj) × Bool :=
  (objs.map (fun o => if o.2.id = f.id ∧ o.2.xtd = f.xtd then (o.1, o.2.take f) else o),
   objs.any (fun o => o.2.id == f.id && o.2.xtd == f.xtd))

/-- The error state by the counters (ISO 11898-1: passive from 128 on). -/
def Mod.canState (m : Mod) (p : Fin 19) : Mod :=
  if m.flag (F.FBUS_STATUS_BUS_OFF p.val) then m.set (F.FBUS_CAN_ERR_STATE p.val) 2
  else m.setB (F.FBUS_CAN_ERR_STATE p.val)
    (decide (128 ≤ m.get (F.FBUS_CAN_ERR_TEC p.val)) || decide (128 ≤ m.get (F.FBUS_CAN_ERR_REC p.val)))

/-- A frame received without error lowers REC (ISO 11898-1): from above 127 to a value of 119 to 127 that the standard leaves
open. -/
def Mod.canRxGood (m : Mod) (p : Fin 19) : Mod :=
  let r := m.get (F.FBUS_CAN_ERR_REC p.val)
  if 127 < r then (m.drawn.set (F.FBUS_CAN_ERR_REC p.val) (119 + m.free.toNat % 9)).canState p
  else (m.set (F.FBUS_CAN_ERR_REC p.val) (r - 1)).canState p

def Mod.canPort (m : Mod) (p : Fin 19) : Bool :=
  m.portEn p && m.proto p == prCan && !m.flag (F.FBUS_STATUS_BUS_OFF p.val)

/-! ### Pass-through (R288, R348) -/

def Mod.passMap (m : Mod) (h : Nat) (f : PassX → PassX) : Mod :=
  { m with ports := { m.ports with pass := m.ports.pass.map (fun x => if x.handle = h then f x else x) } }

/-- A pass-through exchange ends with a reply, or without one. -/
def Mod.passEnd (m : Mod) (h : Nat) (reply : Option (List Byte)) : Mod :=
  m.passMap h (fun x => { x with result := some reply, doneAt := m.optime })

/-- The oldest exchange of a port that has not ended. -/
def Mod.passNext (m : Mod) (code : Nat) : Option PassX :=
  m.ports.pass.find? (fun x => x.port == code && x.result.isNone)

/-- The CAN frame that pass-through data spell (R348). -/
def passFrame (d : List Byte) : CanFrame :=
  let h := ofLe (d.take 4)
  { id := bits h 0 29, xtd := bitAt h 31, fdf := bitAt h 30, data := d.drop 4 }

/-! ### What a freeze takes from ports (R90, R93, R293, R294, R300) -/

/-- Every point of the port takes COMMFAIL at each freeze. -/
def Mod.portDead (m : Mod) (p : Nat) : Bool := m.flag (F.FBUS_STATUS_BUS_OFF p) || m.flag (F.FBUS_STATUS_NO_POWER p)

/-- The image entry of a remote input (R90): the port buffer's content; a reply is fresh once. A point bound to a receive
object is held until its AGE reaches RX_TIMEOUT. -/
def Mod.remoteImage (m : Mod) (pt : Nat) (r : PRec) (port : Nat) : ImgEnt :=
  let b := m.bufEnt pt
  let cf : Tag := if b.commFail || m.portDead port then 0x0020 else 0
  match m.remotes.find? (fun x => x.point == pt) with
  | some x =>
    match x.obj with
    | none => { val := b.val, qual := (if b.range then 0x0010 else 0) ||| cf, fresh := b.fresh && cf == 0 }
    | some o =>
      let obj := if h : port < 19 then mapGet o (m.ports.port[port]).objs else none
      match obj with
      | some ob =>
        match x.raw ob.data with
        | some raw => { val := x.value (pointTy m pt) raw, qual := cf, fresh := ob.new && cf == 0
                        held := cf == 0 && decide (r.age + 1 < x.rxTimeout) }
        | none => { val := encodeVal (pointTy m pt) (Config.misfitField (pointTy m pt) (2 ^ 64)), qual := 0x0010 ||| cf, fresh := ob.new && cf == 0
                    held := cf == 0 && decide (r.age + 1 < x.rxTimeout) }
      | none => { qual := cf }
  | none => { qual := cf }

/-- A remote output's port is off the bus or without bus power at a freeze: its exchange counts as failed until one succeeds (R25, R294,
R300). -/
def Mod.routDead (m : Mod) (pt port : Nat) : Mod :=
  m.when (m.portDead port) (fun m => m.bufSet pt (fun b => { b with commFail := true }))

/-- NEW and the freshness of a remote input end with the freeze that takes it. -/
def Mod.remoteTaken (m : Mod) (pt port : Nat) : Mod :=
  let m := m.bufSet pt (fun b => { b with fresh := false })
  match (m.remotes.find? (fun x => x.point == pt)).bind (·.obj) with
  | some o =>
    if h : port < 19 then
      m.portMap ⟨port, h⟩ (fun x => { x with objs := x.objs.map (fun e => if e.1 = o then (e.1, { e.2 with new := false }) else e) })
    else m
  | none => m

end Sys2Proof.Machine
end

