-- ==== Sys2Proof/Machine/SafetyIo.lean ====
section
/-! DEFINITION. The safety channels (R260 to R283): input pairs, output tests and their faults. -/

namespace Sys2Proof.Machine

/-! ### Safety inputs (R260 to R262) -/

/-- MODE of a pair (R283: 3 is taken as 0). -/
def siMode (m : Mod) (k : Nat) : Nat := let v := m.get (F.SAFE_SI_CFG_MODE k); if v = 3 then 0 else v

/-- Channel A shows the healthy state (R260: energised in modes 1 and 2). -/
def siHealthyA (m : Mod) (k : Fin 8) : Bool := m.safe.filtA.getLsbD k.val
/-- Channel B shows the healthy state (R260: energised in mode 1, de-energised in mode 2). -/
def siHealthyB (m : Mod) (k : Fin 8) : Bool := m.safe.filtB.getLsbD k.val != (siMode m k.val == 2)

/-- An input fault stands (R261, R262). -/
def siFault (m : Mod) (k : Nat) : Bool := m.flag (F.SAFE_SI_STATUS_DISC_FAULT k) || m.flag (F.SAFE_SI_STATUS_TEST_FAULT k)

/-- The pair's value (R260, R261, R262). -/
def siValue (m : Mod) (k : Fin 8) : Bool :=
  siMode m k.val != 0 && siHealthyA m k && siHealthyB m k && !siFault m k.val

/-- VALUE and SI_FAULT as they follow from the filtered states and faults. -/
def Mod.siShow (m : Mod) (k : Fin 8) : Mod :=
  let m := m.setB (F.SAFE_SI_STATUS_VALUE k.val) (siValue m k)
  m.setB F.SAFE_STATUS_SI_FAULT ((List.range 8).any (siFault m))

/-- The two steps in which a fault clears (R261): both channels show the demand state, then both the healthy state. -/
def Mod.siClear (m : Mod) (k : Fin 8) : Mod :=
  if !siFault m k.val then m
  else if m.flag (F.SAFE_SI_STATUS_AWAIT_DEMAND k.val) then
    m.when (!siHealthyA m k && !siHealthyB m k) (fun m => m.set (F.SAFE_SI_STATUS_AWAIT_DEMAND k.val) 0)
  else
    m.when (siHealthyA m k && siHealthyB m k) (fun m =>
      (m.set (F.SAFE_SI_STATUS_DISC_FAULT k.val) 0).set (F.SAFE_SI_STATUS_TEST_FAULT k.val) 0)

/-- The instant from which a pair's channels disagree, where they did not before (R261). -/
def Mod.siDiffer (m : Mod) (k : Fin 8) (before : Bool) : Mod :=
  if !before && siHealthyA m k != siHealthyB m k then { m with safe := { m.safe with differ := mapPut k.val m.clk.mono m.safe.differ } } else m

/-- The pairs as a plan's settings leave them (R260): values and disagreements follow MODE. -/
def Mod.siRefresh (m old : Mod) : Mod :=
  (List.finRange 8).foldl (fun m k =>
    (m.siDiffer k (siMode old k.val != 0 && siHealthyA old k != siHealthyB old k)).siShow k) m

/-- The channels have disagreed for longer than DISC (R261, R283: in 10 ms, 0 taken as 1). -/
def Mod.siPast (m : Mod) (k : Fin 8) : Bool :=
  match mapGet k.val m.safe.differ with
  | some t => decide (t + max 1 (m.get (F.SAFE_SI_CFG_DISC k.val)) * 250000 < m.clk.mono)
  | none => true

/-- SI_FILTER_CHANGE (R261): the channel's filtered state takes the level; a standing fault takes its clearing steps; the pair's value follows. -/
def execSiFilterChange (k : Fin 8) (chB : Bool) (level : Bool) (s : State) : Out :=
  onMod s fun m =>
    let before := siHealthyA m k != siHealthyB m k
    let f := fun (v : BitVec 8) => BitVec.ofNat 8 (putBits v.toNat k.val 1 (b2n level))
    let m := if chB then ({ m with safe := { m.safe with filtB := f m.safe.filtB } }).setB (F.SAFE_SI_STATUS_RAW_B k.val) level
      else ({ m with safe := { m.safe with filtA := f m.safe.filtA } }).setB (F.SAFE_SI_STATUS_RAW_A k.val) level
    ((m.siDiffer k before).siClear k).siShow k

/-- SI_DISCREPANCY (R261): the channels have disagreed about the healthy state for longer than DISC: a discrepancy fault, or, after the first clearing step, the demand state is awaited again. -/
def execSiDiscrepancy (k : Fin 8) (s : State) : Out :=
  onMod s fun m =>
    if siMode m k.val = 0 ∨ siHealthyA m k = siHealthyB m k ∨ !m.siPast k then m
    else if siFault m k.val then m.set (F.SAFE_SI_STATUS_AWAIT_DEMAND k.val) 1
    else
      let m := (m.set (F.SAFE_SI_STATUS_DISC_FAULT k.val) 1).set (F.SAFE_SI_STATUS_AWAIT_DEMAND k.val) 1
      (m.siShow k).log .siDiscrepancy k.val []

/-- SI_TEST_FAULT (R262): TEST_FAULT; the pair's value is 0; the fault clears by the steps of a discrepancy fault. -/
def execSiTestFault (k : Fin 8) (chB : Bool) (s : State) : Out :=
  onMod s fun m =>
    let m := (m.set (F.SAFE_SI_STATUS_AWAIT_DEMAND k.val) 1).set (F.SAFE_SI_STATUS_TEST_FAULT k.val) 1
    ((m.siClear k).siShow k).log .siTest k.val (leBytes 1 (b2n chB))

/-! ### Tests of the safety outputs (R268 to R271) -/

/-- The output number of a channel: SO1A is 32, SO1B 33 and so on. -/
def soOut (k : Fin 4) (chB : Bool) : Fin 48 := ⟨32 + 2 * k.val + b2n chB, by have := k.isLt; unfold b2n; split <;> omega⟩
/-- A channel's place among the eight. -/
def soCh (k : Fin 4) (chB : Bool) : Fin 8 := ⟨2 * k.val + b2n chB, by have := k.isLt; unfold b2n; split <;> omega⟩

/-- A channel's readback: what its pin drives, unless a test found it otherwise. -/
def Mod.readback (m : Mod) (k : Fin 4) (chB : Bool) : Bool :=
  (m.safe.rbDev[soCh k chB]).getD (m.pinOn (soOut k chB))

/-- A test shows a channel's readback. -/
def Mod.seen (m : Mod) (k : Fin 4) (chB level : Bool) : Mod :=
  { m with safe := { m.safe with
      rbDev := m.safe.rbDev.set (soCh k chB) (if level = m.pinOn (soOut k chB) then none else some level) } }

/-- PD9 is powered, so the tests run (R268). -/
def soPowered (m : Mod) : Bool := m.isOn (swPd 9)

/-- The value in force on a channel under R10 is on. -/
def soCmd (m : Mod) (k : Fin 4) (chB : Bool) : Bool := m.source (soOut k chB) == .on

/-- The off-pulse of a channel: 200 µs of the building second from 250 or 750 ms + 10 ms × (k − 1) (R268). -/
def pulseTime (k : Fin 4) (chB : Bool) (ns : Nat) : Bool :=
  let t := (if chB then 750 else 250) * 1000000 + 10000000 * k.val
  decide (t ≤ ns % 1000000000) && decide (ns % 1000000000 < t + 200000)

/-- SO_OFF_PULSE (R268): at the channel's place in the building second the driver is off for the pulse; a channel that is off skips it. -/
def execSoOffPulse (k : Fin 4) (chB : Bool) (s : State) : Out :=
  onMod s fun m =>
    if soPowered m && pulseTime k chB m.clk.ns && m.pinOn (soOut k chB) && !m.safe.pulse.contains (soCh k chB).val then
      { m with safe := { m.safe with pulse := m.safe.pulse ++ [(soCh k chB).val] } }
    else m

/-- SO_PULSE_CHECK (R268): in the pulse: the channel must read off and the other channel unchanged (CROSS); 150 µs after it: on again where it is commanded on; a pass counts in PULSES. -/
def execSoPulseCheck (k : Fin 4) (chB : Bool) (own : Bool) (other : Bool) (s : State) : Out :=
  onMod s fun m =>
    let c := (soCh k chB).val
    if m.safe.pulse.contains c then
      let before := m.readback k (!chB)
      let m := (m.seen k chB own).seen k (!chB) other
      if own then m.pairFault k 1 chB
      else if other ≠ before then m.pairFault k 3 chB
      else m
    else if m.safe.after.contains c then
      let m := { m with safe := { m.safe with after := m.safe.after.filter (· != c) } }
      if !soCmd m k chB then m
      else if own then (m.seen k chB own).addWrap (F.SAFE_SO_STATUS_PULSES k.val) 1
      else (m.seen k chB own).pairFault k 2 chB
    else m

/-- OFF_PULSE_END (R268): the driver is on again where the channel is commanded on, and the check 150 µs later is due. -/
def execOffPulseEnd (k : Fin 4) (chB : Bool) (s : State) : Out :=
  onMod s fun m =>
    let c := (soCh k chB).val
    if m.safe.pulse.contains c then
      { m with safe := { m.safe with pulse := m.safe.pulse.filter (· != c), after := m.safe.after ++ [c] } }
    else m

/-- SO_DARK_FAIL (R268): a channel commanded off has read on for 1 ms: NOT_OFF. -/
def execSoDarkFail (k : Fin 4) (chB : Bool) (s : State) : Out :=
  onMod s fun m =>
    if soPowered m && !soCmd m k chB then (m.seen k chB true).pairFault k 1 chB else m

/-- SO_ON_FAIL (R268): a channel commanded on, outside pulses, has read off for 150 µs: NO_ON. -/
def execSoOnFail (k : Fin 4) (chB : Bool) (s : State) : Out :=
  onMod s fun m =>
    if soPowered m && soCmd m k chB && !m.safe.pulse.contains (soCh k chB).val then
      (m.seen k chB false).pairFault k 2 chB
    else m

/-- SO_OVERLOAD (R268): the driver has been in current limit for 200 µs: OVERLOAD. -/
def execSoOverload (k : Fin 4) (chB : Bool) (s : State) : Out :=
  onMod s fun m => if soPowered m then m.pairFault k 4 chB else m

/-- SO_BOTH_ON (R271): both channels have read on for 1 ms while the value in force on each is off: a module safety fault with cause 3. -/
def execSoBothOn (k : Fin 4) (s : State) : Out :=
  onMod s fun m =>
    if soPowered m && !soCmd m k false && !soCmd m k true then
      ((m.seen k false true).seen k true true).safetyFault 3
    else m

/-- SAFETY_SELFTEST (R271): a failed self-test is a module safety fault with cause 4. -/
def execSafetySelftest (pass : Bool) (s : State) : Out :=
  onMod s fun m => if soPowered m && !pass then m.safetyFault 4 else m

/-! ### The unlock window (R280) -/

/-- UNLOCK_WINDOW_EXPIRY (R280): 300 s after the session's last safety command its unlock window closes. -/
def execUnlockWindowExpiry (h : BitVec 10) (s : State) : Out :=
  onMod s fun m =>
    match m.sess h.toNat with
    | some x =>
      if x.safeAt + 300000 ≤ m.optime then
        { m with orpor := { m.orpor with sessions := mapPut h.toNat { x with unlocked := false } m.orpor.sessions } }
      else m
    | none => m

/-- UNLOCK_BLOCK_EXPIRY (R280): the block ends and the count of wrong passwords returns to 0. -/
def execUnlockBlockExpiry (s : State) : Out :=
  onMod s fun m =>
    if m.safe.blocked && decide (m.safe.blockUntil ≤ m.optime) then { m with safe := { m.safe with blocked := false, fails := 0 } } else m

end Sys2Proof.Machine
end

