-- ==== Sys2Proof/Machine/Cycle.lean ====
section
/-! DEFINITION. The control cycle: the Drum's entries (R67 to R71, R106), the freeze (R90), bursts (R89, R97), launches and
latches (R91, R92, R111, R266), and the work of a management window (R11, R39, R101). -/

namespace Sys2Proof.Machine

/-! ### Drum entries that fire (R67, R106) -/

/-- The kinds that fire in each state (R106). -/
def stateFires (m : Mod) (kind : Nat) : Bool :=
  m.running ||
  ((m.st == xStopped || m.st == xService || ((m.st == xBit || m.st == xPlanning) && m.planLoaded))
    && [dkWakeM, dkMgmtWin, dkMeterWin, dkPoll, dkDomain].contains kind)

/-- The place of an entry in the order in which entries fire (R67), in the hyperperiod of building time `t`: its instant, then KIND, then TARGET. -/
def drumKey (t : Nat) (e : BitVec 64) : Nat × Nat := (t / 1000000000 * 32000000000 + drumFine e, drumKind e * 1024 + drumTarget e)

/-- An entry comes after the one that fired last: within one ns of building time the order of R67 holds. -/
def keyAfter (last k : Nat × Nat) : Bool :=
  last.1 / 32 != k.1 / 32 || decide (last.1 < k.1) || (last.1 == k.1 && decide (last.2 < k.2))

/-- The place of the entry that fires at building time `t` (ns): the state lets its kind fire, building time runs and has not
passed `t`, the Drum does not pause (R156), a plan swap whose migration is done has not come to its S (R62, R81), and the bank holds the entry.
A LOOP_LATCH of the new Drum whose instant is S does not fire at that S (R190). -/
def drumPlace (m : Mod) (kind target arg t : Nat) : Option (Nat × Nat) :=
  if m.clk.run && stateFires m kind && decide (m.clk.ns ≤ t)
    && (match m.clk.pausedUntil with | some x => decide (x * 1000000000 ≤ t) | none => true)
    && (match m.plan.armed with | some sec => !m.plan.migrated || decide (t < sec * 1000000000) | none => true)
    && !(kind == dkLoopLatch && m.plan.swapped == some t) then
    ((m.drum.filter (fun e => drumKind e == kind && drumTarget e == target && drumArg e == arg
        && drumNs e == t % 1000000000)).map (drumKey t)).find? (keyAfter m.fired)
  else none

/-- An entry of the active Drum fires at building time `t`. -/
def drumFires (m : Mod) (kind target arg t : Nat) : Bool := (drumPlace m kind target arg t).isSome

/-- What an entry does when it fires. -/
def onDrum (s : State) (kind target arg t : Nat) (f : Mod → Mod) : Out :=
  onMod s fun m =>
    match drumPlace m kind target arg t with
    | some k => f { m.reach t with fired := k }
    | none => m

/-! ### The freeze (R90) -/

/-- A quality bit where a condition holds. -/
def qIf (c : Bool) (q : Tag) : Tag := if c then q else 0

/-- The frozen value of a physical input or readback (R90, R236, R238, R242, R244, R248, R252, R253, R260, R428). -/
def Mod.frozen (m : Mod) (b : Bind) (cls : Nat) : Option ImgEnt :=
  match b with
  | .di n => some { val := BitVec.ofNat 64 (m.get (F.FIO_DI_STATUS_VALUE n)), fresh := true
                    qual := qIf (m.flag (F.FIO_DI_STATUS_STUCK n)) 0x0080 ||| qIf (m.flag (F.FIO_DI_STATUS_CHATTER n)) 0x0040 }
  | .cnt k =>
    if h : k < 8 then some { val := BitVec.ofNat 64 m.fio.cnt[k].count, fresh := true, qual := qIf (bitAt m.fio.cnt[k].ovr cls) 0x0200 }
    else none
  | .ai n =>
    if h : n < 16 then
      let a := m.fio.ai[n]
      some { val := if a.first then ofF32 (m.get (F.FIO_AI_VALUE_VALUE n)) else 0, fresh := true
             qual := qIf (!a.first || m.flag (F.FIO_AI_STATUS_RANGE n)) 0x0010 }
    else none
  | .si k => some { val := BitVec.ofNat 64 (m.get (F.SAFE_SI_STATUS_VALUE k)), fresh := true
                    qual := qIf (m.get (F.SAFE_SI_CFG_MODE k) == 0 || m.get (F.SAFE_SI_CFG_MODE k) == 3
                      || m.flag (F.SAFE_SI_STATUS_DISC_FAULT k) || m.flag (F.SAFE_SI_STATUS_TEST_FAULT k)) 0x0010 }
  | .alarm k => some { val := BitVec.ofNat 64 (bits (m.word R.RTC_STATUS).toNat (4 + k) 1), fresh := true }
  | .doRb n =>
    if h : n < 24 then
      let o : Fin 48 := ⟨n, by omega⟩
      let held := m.doHeld n && m.source o == .on
      some { val := ofBoolL (m.pinOn o), fresh := true, qual := qIf (held || m.openLoad ⟨n, h⟩) 0x0010 }
    else none
  | .aoRb n =>
    if h : n < 8 then
      let mode := m.get (F.FIO_AO_CFG_MODE n)
      let bad := m.flag (F.FIO_AO_STATUS_OVLD n) || m.flag (F.FIO_AO_STATUS_OPEN n)
      let out := match m.pin ⟨24 + n, by omega⟩ with | .value w => w.toNat | _ => 0
      let sl := m.get (F.FIO_AO_SC_LO_SC n)
      let sh := m.get (F.FIO_AO_SC_HI_SC n)
      let v := fAdd b32 sl (fDiv b32 (fMul b32 (fSub b32 out (aoLo mode)) (fSub b32 sh sl)) (fSub b32 (aoHi mode) (aoLo mode)))
      some { val := if bad then Config.freeWord (m.freeCtr + n) &&& 0xFFFFFFFF#64 else ofF32 v, fresh := true, qual := qIf bad 0x0010 }
    else none
  | .ltRb n =>
    let opn := m.flag (F.LTX_STATUS_OPEN n)
    some { val := if opn then 0 else ofF32 (m.get (F.LTX_READ_READ n)), fresh := true
           qual := qIf opn 0x0010 ||| qIf (m.flag (F.LTX_STATUS_COMPLIANCE n)) 0x0400 }
  | _ => none

/-- A mirrored point at a freeze (R363, R364): missing where no valid copy has arrived since the class's previous freeze, where the
copy carries STALE or COMMFAIL, or in split operation (R366). The owner's quality is carried on. -/
def Mod.mirrorImage (m : Mod) (tile slot prev : Nat) : ImgEnt :=
  match mapGet tile m.twin.mir with
  | none => {}
  | some (at_, bs) =>
    let r := decodeRec ((bs.drop (slot * 16)).take 16)
    let missing := decide (at_ < prev) || r.qual &&& 0x0022#16 != 0 || m.flag F.TWIN_STATUS_SPLIT
    { val := r.val, qual := r.qual, fresh := !missing }

/-- The image entry of one point at its freeze; none where the point has no frozen value. -/
def Mod.imageOf (m : Mod) (p : PointDef) (prev : Nat) : Option ImgEnt :=
  match p.bind with
  | .rin port _ =>
    let r := match mapGet p.idx m.mem.pmap with | some e => m.prec e | none => decodeRec []
    some (m.remoteImage p.idx r port)
  | .mirror t sl => some (m.mirrorImage t sl prev)
  | b => m.frozen b p.cls

/-- A record's quality and AGE changed at a freeze (R27, R94, R289). DESIGN CHOICE (log entry 111): a checked load, merge and write-back of
its tile for its writing master, outside the region registers. -/
def Mod.touch (m : Mod) (p : Nat) (f : PRec → PRec) : Mod :=
  match mapGet p m.mem.pmap with
  | none => m
  | some e => m.changeRec e f

/-- The quality of a remote output at a freeze (R25, R94, R289): COMMFAIL as its last exchange left it, RANGE where the exchange since the last
freeze could not carry its value. -/
def remoteOutQual (b : BufEnt) (q : Tag) : Tag :=
  withValid ((q &&& 0xFFDF#16) ||| qIf b.commFail 0x0020 ||| qIf (b.range && b.fresh) 0x0010)

/-- AGE of a point whose writer stored nothing since the last freeze (R27); the marks that a remote output takes from its exchanges. -/
def Mod.ageAt (m : Mod) (p : PointDef) : Mod :=
  let old := !m.exec.freshPts.contains p.idx
  m.touch p.idx (fun r =>
    let r := if old then r.aged else r
    match p.bind with
    | .rout _ _ => if isForced r.qual then r else { r with qual := remoteOutQual (m.bufEnt p.idx) r.qual }
    | _ => r)

/-- FREEZE of the classes in `mask` at T0 (R16, R27, R90, R93): the input image takes every input of those classes. In STANDBY
the holder's forwarded inputs take their place (R372). -/
def Mod.freezeClasses (m : Mod) (mask t0 : Nat) : Mod :=
  let pts := m.points.filter (fun p => bitAt mask p.cls)
  let taken := m.st == xStandby
  let img := pts.foldl (fun img p =>
    match m.imageOf p (m.exec.clsFreeze[Fin.ofNat 8 p.cls]) with
    | some e => if taken then img else mapPut p.idx e img
    | none => img) m.exec.image
  let isInput (p : PointDef) := (m.imageOf p 0).isSome
  let m := pts.foldl (fun m p => match p.bind with | .rout port _ => m.routDead p.idx port | _ => m) m
  let m' := (pts.filter (fun p => !isInput p)).foldl (fun m p => m.ageAt p) m
  let m' := pts.foldl (fun m p => match p.bind with
    | .rin port _ => m.remoteTaken p.idx port
    | .rout port _ => m.remoteTaken p.idx port
    | _ => m) m'
  { m' with
    freeCtr := m'.freeCtr + 8
    exec := { m'.exec with
      image := img
      clsFreeze := Vector.ofFn (fun c : Fin 8 => if bitAt mask c.val then t0 else m'.exec.clsFreeze[c])
      freshPts := m'.exec.freshPts.filter (fun i => !pts.any (fun p => p.idx == i)) }
    mem := { m'.mem with before := m'.mem.before.filter (fun x => !pts.any (fun p => p.idx == x.1)) }
    fio := { m'.fio with cnt := m'.fio.cnt.map (fun c => { c with ovr := c.ovr &&& (255 - mask % 256) }) } }

/-! ### Bursts (R59, R89, R97, R99) -/

/-- The tasks a lane runs in a burst, those of shorter-period classes first (R59). -/
def Mod.burstTasks (m : Mod) (lane mask seq : Nat) : List Nat :=
  let ts := m.tasks.filter (fun t => t.lane == lane && t.runsIn mask seq)
  ((List.range 8).flatMap (fun period =>
    ts.filter (fun t => m.get (F.PLAN_CLASS_CFG_PERIOD t.cls) == period))).map (·.idx)

/-- A lane's domain is powered (R2: lanes 0 to 3 in PD4, 4 to 7 in PD5). -/
def Mod.lanePowered (m : Mod) (i : Fin 8) : Bool := m.isOn (if i.val < 4 then swPd 4 else swPd 5)

/-- The lanes start on their lists; the lanes of a domain that is off keep theirs. -/
def Mod.startLanes (m : Mod) : Mod :=
  (List.finRange 8).foldl (fun m (i : Fin 8) =>
    if m.lanePowered i && m.exec.burst.isSome && (m.lanes[i]).phase == .idle && !(m.lanes[i]).todo.isEmpty
    then startTasks m i (m.lanes[i]).todo else m) m

/-- FCLK runs: PLL-F is on and locked (R8, R13, R16). -/
def Mod.fclk (m : Mod) : Bool := m.isOn swPllF && !bitAt m.pwr.unlocked 0

/-- BURST (R89, R97): the lists are given to the lanes and the watchdog is armed; the lanes start at once, or at PLL-F's lock (R16). A
standby that is not in step runs no burst (R373). -/
def Mod.burstStart (m : Mod) (mask seq t0 : Nat) : Mod :=
  if m.st == xStandby && !m.flag F.TWIN_STATUS_IN_STEP then m
  else
    let c := m.shortest mask
    let m := { m with
      lanes := Vector.ofFn (fun i : Fin 8 => { m.lanes[i] with task := none, phase := .idle, todo := m.burstTasks i.val mask seq })
      exec := { m.exec with
        burst := some ⟨mask, seq, t0⟩
        wdArmed := true
        wdDeadline := t0 + m.periodNs c * m.get (F.PLAN_CLASS_CFG_DEADLINE c) / 100 } }
    if m.fclk then m.startLanes else { m with exec := { m.exec with late := true } }

/-- A burst that waits for FCLK starts once it runs (R16). -/
def Mod.lateStart (m : Mod) : Mod := if m.exec.late && m.fclk then ({ m with exec := { m.exec with late := false } }).startLanes else m

/-- An overrun of the burst in progress. -/
def Mod.burstOverrun (m : Mod) (cause : Nat) (b : BurstSt) : Mod :=
  m.overrun cause (m.shortest b.mask) b.seq m.unfinished

/-! ### Launches and latches (R91, R92, R111, R161, R266) -/

/-- A staged word as an output shows it. -/
def stagedVal (o : Nat) (w : Word) : OutVal :=
  match outKind o with
  | .do_ => if w.getLsbD 0 then .on else .off
  | .so => if w.getLsbD 0 then .on else .off
  | _ => .value w

/-- The record at a place has TILEFAULT clear in a tile that is whole. -/
def Mod.recClear (m : Mod) (tile slot : Nat) : Bool :=
  !(m.dirEnt tile).faulted && (m.prec ⟨tile, slot, 0⟩).qual &&& 0x0100#16 == 0

/-- Every record an output takes its value from has TILEFAULT clear (R40): its points, and for a channel SOkB the private records of copy B. -/
def Mod.feedOk (m : Mod) (o : Nat) : Bool :=
  m.points.all (fun p => !(m.pointOuts p).contains o || (match mapGet p.idx m.mem.pmap with
    | some e => m.recClear e.tile e.slot
    | none => true))
  && ((m.plan.active.map (·.priv)).getD []).all (fun x => !(m.privOuts x.1).contains o || m.recClear x.2.1 x.2.2)

/-- Every cross point that feeds an output is VALID, outside split operation (R366). -/
def Mod.crossOk (m : Mod) (o : Nat) : Bool :=
  !m.flag F.TWIN_STATUS_SPLIT &&
  (match ((m.plan.active.map (·.cross)).getD []).find? (fun x => x.1 == o) with
   | some x => x.2.all (fun i => match mapGet i m.mem.pmap with
      | some e => !(m.dirEnt e.tile).faulted && (m.prec e).qual &&& 1#16 == 1
      | none => false)
   | none => true)

/-- Requests withdrawn at a launch or latch of an output in RUN (R40, R83, R111, R366), with the bit program's drive and the
wait of R249. -/
def Mod.handOver (m : Mod) (o : Fin 48) : Mod :=
  let feed := m.feedOk o.val && (m.outs[o]).abandon.isNone
  let cross := m.crossOk o.val
  let m := m.outMap o (fun u => { u with
    bit := none
    req := u.req &&& (2 ^ 16 - 1 - (9 + (if feed then 2 else 0) + (if cross then 4 else 0))) })
  { m with fio := { m.fio with waitLaunch := m.fio.waitLaunch.filter (· != o.val) } }

/-- An output takes its staged value (R91); without one it keeps its previous value. -/
def Mod.launchOut (m : Mod) (o : Fin 48) (v : Option Word) : Mod :=
  let off := !m.pinOn o
  let m := m.outMap o (fun u => { u with
    launched := (match v with
      | some w => some (stagedVal o.val w)
      | none => if u.bit.isSome then u.bit else if u.req &&& 9 != 0 then some (m.safeVal o) else u.launched)
    staged := none })
  let m := m.handOver o
  if o.val < 24 then
    let m := m.when (m.source o == .off) (fun m =>
      (m.set (F.FIO_DO_STATUS_SC_LATCHED o.val) 0).when (m.flag (F.FIO_DO_STATUS_SC_LATCHED o.val)) (fun m => m.set (F.FIO_DO_STATUS_SC o.val) 0))
    m.when (off || !m.pinOn o) (fun m => m.set (F.FIO_DO_STATUS_OPENLOAD o.val) 0)
  else if h : 40 ≤ o.val then ltFrame m ⟨o.val - 40, by omega⟩
  else m

/-- The staging a channel would launch: what this cycle staged, else what was launched last. -/
def Mod.soStaged (m : Mod) (o : Fin 48) : Bool :=
  match (m.outs[o]).staged with
  | some w => w.getLsbD 0
  | none => (m.outs[o]).launched == some .on

/-- The comparison of a safety pair at its launch (R266): agreement launches, a mismatch puts both channels off for the cycle; the
third within 60 s is a module safety fault (R271). -/
def Mod.launchPair (m : Mod) (k : Fin 4) : Mod :=
  let a := soOut k false
  let b := soOut k true
  if m.soStaged a = m.soStaged b then (m.launchOut a (m.outs[a]).staged).launchOut b (m.outs[b]).staged
  else
    let m := (m.launchOut a (some 0)).launchOut b (some 0)
    let ts := (m.safe.mismatch ++ [m.clk.ns]).filter (fun t => decide (m.clk.ns < t + 60000000000))
    let m := { m with safe := { m.safe with mismatch := ts } }
    let m := (m.addSat F.SAFE_MISMATCH_TOTAL 1).set F.SAFE_MISMATCH_RECENT (min 3 ts.length)
    let m := m.log .safeMismatch k.val []
    m.when (decide (3 ≤ ts.length)) (fun m => m.safetyFault 1)

/-- The outputs of a class (the points of the class bound to them). -/
def Mod.classOuts (m : Mod) (c : Nat) : List Nat :=
  m.points.filterMap (fun p => if p.cls = c then (match p.bind with | .out o => some o | _ => none) else none)

/-- A burst that writes the class's staging has not ended (R92). -/
def Mod.stagingOpen (m : Mod) (c : Nat) : Bool :=
  match m.exec.burst with
  | some b => bitAt b.mask c || m.tasks.any (fun t => t.cls == c && t.bursts.contains b.seq)
  | none => false

/-- LAUNCH of a class (R91, R92). -/
def Mod.launch (m : Mod) (c : Nat) : Mod :=
  if m.stagingOpen c then
    m.overrun 2 c ((m.exec.burst.map (·.seq)).getD 0) m.unfinished
  else
    let os := m.classOuts c
    let m := os.foldl (fun m o => if h : o < 48 then
      (if 32 ≤ o ∧ o < 40 then m else m.launchOut ⟨o, h⟩ (m.outs[o]).staged) else m) m
    let m := (List.finRange 4).foldl (fun m (k : Fin 4) =>
      if os.contains (soOut k false).val || os.contains (soOut k true).val then m.launchPair k else m) m
    let ro := m.points.filterMap (fun p => if p.cls = c then (match p.bind with | .rout _ _ => some p.idx | _ => none) else none)
    let la := ro.foldl (fun l p => match mapGet p m.exec.rstaged with | some v => mapPut p v l | none => l) m.exec.rlaunched
    { m with exec := { m.exec with rlaunched := la } }

/-- LOOP_LATCH of a loop whose evaluation is complete (R176): its output reaches the actuator, for a FORCED OUT the forced value (R186). The
outer loop of a cascade drives no actuator (R187). -/
def Mod.loopLatch (m : Mod) (n : Nat) : Mod :=
  match actOutput (m.get (F.LOOP_CFG_ACT n)) with
  | some o =>
    if (m.innerOf n).isSome then m
    else match mapGet (m.get (F.LOOP_OUTPT_OUT n)) m.mem.forces with
    | some v =>
      let m := m.launchOut o (some (v.extractLsb' 0 32))
      m.setLoop n { m.loopSt n with shown := some (v.extractLsb' 0 32) }
    | none => m.launchOut o (some (m.word (R.LOOP_OUT n)))
  | none => m

/-- The loop is latched in this second (R174, R178). -/
def Mod.latchNow (m : Mod) (n : Nat) : Bool :=
  let p := m.get (F.LOOP_TIMING_PERIOD n)
  m.get (F.LOOP_CFG_TYPE n) != 0 && loopSecond m p (if p ≤ 1000 then 0 else latchSeconds p (m.get (F.LOOP_TIMING_PHASE n)))

/-! ### The management window (R11, R38, R39, R101) -/

/-- Records of the newer retain slot that passes its check (R114). -/
def Mod.retained (m : Mod) : Option (List (Nat × Nat × List Byte)) :=
  let a := m.retain[0]
  let b := m.retain[1]
  if a.ok && (!b.ok || decide (b.seq ≤ a.seq)) then some a.recs else if b.ok then some b.recs else none

/-- A retained record by kind and key (R116). -/
def retFind (rs : List (Nat × Nat × List Byte)) (kind key : Nat) : Option (List Byte) :=
  (rs.find? (fun r => r.1 == kind && r.2.1 == key)).map (·.2.2)

/-- A retained point value whose TYPE matches (R112, R116). -/
def retPoint (rs : List (Nat × Nat × List Byte)) (p : PointDef) : Option Long :=
  match retFind rs 1 p.idx with
  | some bs => if bs.length = 9 ∧ ofLe (bs.drop 8) = p.ty then some (BitVec.ofNat 64 (ofLe (bs.take 8))) else none
  | none => none

/-- The retain kind of a block type (R116). -/
def retKind (btype : Nat) : Nat := if btype ≤ 3 then 2 else if btype = 0x10 then 4 else 3

/-- A user block's members with hash, type and byte offset. -/
def InstDef.mems (d : InstDef) : List (Nat × Nat × Nat) :=
  (List.range d.members).map (fun i => (d.memberHash.getD i 0, d.memberType.getD i 0, 8 * i))

/-- A block's bytes with its retained state laid over them (R112, R116, R136); edge detectors, NORETAIN instances and instances of
SAFETY tasks (R267) start as under cold. INIT and LASTV become 0. -/
def retInst (rs : List (Nat × Nat × List Byte)) (d : InstDef) (safety : Bool) (bs : List Byte) : List Byte :=
  if d.noRetain || safety then bs
  else if d.btype = 6 ∨ d.btype = 7 then bs
  else if d.btype = 0x10 then
    (d.mems.zip (List.range d.members)).foldl (fun bs x =>
      if d.memberRetain.getD x.2 false then
        match rs.find? (fun r => r.1 == 4 && r.2.1 == d.id && ofLe (r.2.2.take 4) == x.1.1 && r.2.2.length == 16) with
        | some r => if ofLe ((r.2.2.drop 4).take 1) = x.1.2.1 then putBytes bs x.1.2.2 (r.2.2.drop 8) else bs
        | none => bs
      else bs) bs
  else
    match retFind rs (retKind d.btype) d.id with
    | some r =>
      let st := ofLe (r.take 4)
      let st' := putBits (putBits st 0 1 0) 4 1 0
      if bits st 8 8 ≠ d.btype then bs
      else if d.btype ≤ 3 then
        if r.length = 16 then putBytes bs 0 (leBytes 4 st' ++ (r.drop 4).take 12 ++ leBytes 8 0) else bs
      else if r.length = 8 then putBytes bs 0 (leBytes 4 st' ++ (r.drop 4).take 4) else bs
    | none => bs

def instSize (d : InstDef) : Nat := if d.btype = 0x10 then 8 * d.members else if d.btype ≤ 3 then 24 else 8

/-- A task is a SAFETY task (R265). -/
def Plan.safetyTask (pl : Plan) (t : Nat) : Bool := pl.tasks.any (fun d => d.idx == t && d.safetyCopy != 0)

/-- A record rebuilt from its declared initial value (R39). -/
def PRec.lost (r : PRec) : PRec := { r with qual := 0x0100, age := 0xFFFF, chg := 0 }

/-- A rebuilt point's record (R39): TILEFAULT, AGE 0xFFFF, CHANGES 0, VALID clear; a force is applied again. -/
def Mod.rebuiltRec (m : Mod) (p : PointDef) (init : PRec) : PRec :=
  match mapGet p.idx m.mem.forces with
  | some v => { init with val := v, qual := 0x0009, age := 0, chg := 0 }
  | none =>
    let v : Long := match p.bind with
      | .rin _ _ => if (m.bufEnt p.idx).have_ then (m.bufEnt p.idx).val else init.val
      | .rout _ _ => if (m.bufEnt p.idx).have_ then (m.bufEnt p.idx).val else init.val
      | .free => if p.retain then ((m.retained.bind (fun rs => retPoint rs p))).getD init.val else init.val
      | .loopTerm _ _ => if p.retain then ((m.retained.bind (fun rs => retPoint rs p))).getD init.val else init.val
      | _ => init.val
    { init.lost with val := v }

/-- The initial record of a point (R24, R53, R112): its declared initial value, QUALITY 0, the AGE of the image's content. -/
def Plan.initRec (pl : Plan) (d : TileDef) (p : PointDef) : PRec :=
  { val := encodeVal p.ty p.init, qual := 0, age := ofLe ((d.data.drop (16 * p.slot + 10)).take 2), tf := pl.typeFlags p, chg := 0 }

/-- The private records of copy B in a tile (R265): slot and the point of copy A. -/
def Plan.privIn (pl : Plan) (t : Nat) : List (Nat × PointDef) :=
  (pl.priv.filter (fun x => x.2.1 == t)).filterMap (fun x => (pl.points.find? (fun p => p.idx == x.1)).map (fun p => (x.2.2, p)))

/-- A tile of point records: those of its points and private records by `f`, unused slots all zero (R24). -/
def Plan.recTile (pl : Plan) (d : TileDef) (f : PointDef → PRec) (g : PointDef → PRec) : List Byte :=
  (pl.privIn d.tile).foldl (fun bs x => putBytes bs (16 * x.1) (g x.2).bytes)
    ((pl.points.filter (fun p => p.tile == d.tile)).foldl (fun bs p => putBytes bs (16 * p.slot) (f p).bytes) (List.replicate 256 0))

/-- The content a FAULTED tile is rebuilt with (R39). -/
def Mod.rebuiltBytes (m : Mod) (pl : Plan) (d : TileDef) : List Byte :=
  match d.kind with
  | .point => pl.recTile d (fun p => m.rebuiltRec p (pl.initRec d p)) (fun p => (pl.initRec d p).lost)
  | .mirror => pl.recTile d (fun p =>
      match p.bind with
      | .mirror t sl =>
        -- the owner's tile as the mirror slot brought it
        let r := decodeRec ((((mapGet t m.twin.mir).map (·.2)).getD []).drop (16 * sl) |>.take 16)
        { (pl.initRec d p).lost with val := r.val }
      | _ => (pl.initRec d p).lost) (fun p => (pl.initRec d p).lost)
  | .inst => (pl.insts.filter (fun i => i.tile == d.tile)).foldl (fun bs i =>
      match m.retained with
      | some rs => putBytes bs i.off (retInst rs i (pl.safetyTask i.owner) ((bs.drop i.off).take (instSize i)))
      | none => bs) d.data
  | .history => List.replicate 256 0
  | _ => d.data

/-- The directory entry of a tile of the plan with a content. -/
def TileDef.entry (d : TileDef) (bs : List Byte) : DirEnt :=
  { kind := d.kind, cls := d.cls, peer := d.peer, writer := d.writer, crc := tileCrc d.tile bs }

/-- Tile `d` holds `bs` and its directory entry is whole again. -/
def Mod.placeTile (m : Mod) (d : TileDef) (bs : List Byte) : Mod :=
  { m with mem := { m.mem with cells := memWriteN 0 m.mem.cells (d.tile * 256) bs, dir := mapPut d.tile (d.entry bs) m.mem.dir } }

/-- After a rebuild was written back (R39, R48, R52). -/
def Mod.rebuildDone (m : Mod) (d : TileDef) : Mod :=
  let m := m.set F.TILE_STATUS_FAULTED (faultedCount m.mem.dir)
  let m := m.when (m.get F.TILE_LAST_FAULT_TILE == d.tile) (fun m => m.set F.TILE_LAST_FAULT_REBUILT 1)
  if d.kind = .history then
    (List.range 16).foldl (fun m w =>
      let base := m.get (F.CBW_BASE_TILE w)
      let size := 2 ^ (m.get (F.CBW_STRIDE_STRIDE w) + 3)
      let n := (m.get (F.CBW_LENGTH_LENGTH w) * size + 255) / 256
      m.when (decide (base ≤ d.tile) && decide (d.tile < base + n)) (fun m => m.set (F.CBW_STATUS_BROKEN w) 1)) m
  else m

/-- A MIRROR tile waits for the owner's tile in the next mirror slot (R39). -/
def Mod.mirrorCame (m : Mod) (pl : Plan) (t : Nat) : Bool :=
  pl.points.all (fun p => p.tile != t || (match p.bind with
    | .mirror x _ => (match mapGet x m.twin.mir with
      | some c => decide (m.exec.clsFreeze[Fin.ofNat 8 p.cls] ≤ c.1)
      | none => false)
    | _ => true))

/-- A tile that no copy can restore (R39): EV_PLAN_CORRUPT, and from RUN, STANDBY or a restart (R107, R120) outputs safe and STOPPED. A Shadow holder gives
up the bar. -/
def Mod.planCorrupt (m : Mod) (t : Nat) : Mod :=
  let m := m.log .planCorrupt 0 (leBytes 2 t)
  if m.running || (m.inBit && m.exec.restartDue.isSome) then
    let m := { m with exec := { m.exec with restartDue := none, waitPeer := false } }
    (m.when (m.flag F.TWIN_STATUS_HOLDS_BAR) Mod.barRelease).enterStopped
  else m

/-- A restart finds the plan copies of a tile bad in SRAM and in flash (R120, step 2). -/
def Mod.restartCopies (m : Mod) (sramBad flashBad : List Nat) : Mod :=
  match m.plan.active with
  | some pl =>
    if m.inBit && m.exec.restartDue.isSome then
      match (pl.tiles.filter (fun d => d.kind != .free)).find? (fun d => sramBad.contains d.tile && flashBad.contains d.tile) with
      | some d => m.planCorrupt d.tile
      | none => m
    else m
  | none => m

/-- A tile needs the plan's copy for its rebuild. -/
def fromCopy (k : TileKind) : Bool := k == .code || k == .const

/-- The peer's copy of a tile as it waits for its slot (R39, R373). -/
def Mod.streamed (m : Mod) (t : Nat) : Option (List Byte) := mapGet t m.twin.stream

/-- A rebuilt tile is written back by the management core (R31, R39, R43). -/
def Mod.rebuildTile (m : Mod) (d : TileDef) (bs : List Byte) : Mod :=
  if m.regionOk 9 2 (d.tile * 256) then
    let m := (m.placeTile d bs).rebuildDone d
    let own := (m.points.filter (fun p => p.tile == d.tile)).map (·.idx)
    { m with met := { m.met with fresh := true, own := m.met.own.filter (fun x => !own.contains x.1) } }
  else m.regionViolation 9 2 (d.tile * 256)

/-- The rebuild of one FAULTED tile; `sramBad` and `flashBad` name the tiles whose plan copies fail their CRC. In Shadow mode with
the link up a POINT or INSTANCE tile is rebuilt from the peer's copy once that has come (R373), a MIRROR tile once the owner's has. -/
def Mod.rebuild (m : Mod) (sramBad flashBad : List Nat) (t : Nat) : Mod :=
  match m.plan.active, m.tileDef t with
  | some pl, some d =>
    if m.st == xStopped && fromCopy d.kind && sramBad.contains t && flashBad.contains t then m
    else if fromCopy d.kind && sramBad.contains t && flashBad.contains t then m.planCorrupt t
    else if m.get F.TWIN_STATUS_MODE = 2 ∧ m.flag F.TWIN_STATUS_LINK_UP ∧ (d.kind = .point ∨ d.kind = .inst) then
      (match m.streamed t with
       | some bs =>
         let m := m.rebuildTile d bs
         { m with twin := { m.twin with stream := mapDel t m.twin.stream } }
       | none => m)
    else if d.kind = .mirror ∧ !m.mirrorCame pl t then m
    else m.rebuildTile d (m.rebuiltBytes pl d)
  | _, _ => m

/-- Every FAULTED tile, in order. -/
def Mod.rebuildAll (m : Mod) (sramBad flashBad : List Nat) : Mod :=
  ((m.mem.dir.filter (fun e => e.2.faulted)).map (·.1)).foldl (fun m t => m.rebuild sramBad flashBad t) m

/-- Logic sees the record before an Orpor write until the next freeze of the point's class (R11). -/
def Mod.keepSeen (m : Mod) (p : Nat) (r : PRec) : Mod :=
  if (mapGet p m.mem.before).isSome then m else { m with mem := { m.mem with before := mapPut p r.bytes m.mem.before } }

/-- A held operation waits for the next rebuild (R38). -/
def Mod.holdPt (m : Mod) (op : PtOp) : Mod := { m with mem := { m.mem with writes := m.mem.writes ++ [op] } }

/-- One point write, force or release (R11, R345, R346), by the management core as bus master 9. Where the tile is FAULTED, or found so by the
load, the operation waits for the rebuild (R38). -/
def Mod.applyPt (m : Mod) (op : PtOp) : Mod :=
  let p := op.point
  let m := match op with
    | .write _ _ => m
    | .force p v => { m with mem := { m.mem with forces := mapPut p v m.mem.forces } }
    | .release p => { m with mem := { m.mem with forces := mapDel p m.mem.forces } }
  let a := m.pointLoad 9 p
  match mapGet p m.mem.pmap, a.2.2 with
  | some e, some r =>
    if (a.1.dirEnt e.tile).faulted then a.1.holdPt op
    else match op with
      | .write _ v => if isForced r.qual then a.1 else ((a.1.keepSeen p r).pointStore 9 p (r.fresh v 0x0001)).1
      | .force _ v => (a.1.pointStore 9 p (r.fresh v 0x0009)).1
      | .release _ =>
        (a.1.masterStore 9 e.tile (putBytes (a.1.tileBytes e.tile) (e.slot * 16) ({ r with qual := r.qual &&& 0xFFF7#16 } : PRec).bytes)).1
  | _, _ => a.1

/-- All that wait, in order of arrival. -/
def Mod.applyPts (m : Mod) : Mod :=
  let ws := m.mem.writes
  ws.foldl Mod.applyPt { m with mem := { m.mem with writes := [] } }

/-- An upset of tile memory or its directory, found by the next use. -/
def Mod.upset (m : Mod) (u : Upset) : Mod :=
  match u with
  | .byte t off b => { m with mem := { m.mem with cells := memWriteN 0 m.mem.cells (t % 8192 * 256 + off % 256) [b] } }
  | .single t => m.setDir t { m.dirEnt t with single := true }
  | .double t => m.setDir t { m.dirEnt t with dbl := true }
  | .kind t => m.setDir t { m.dirEnt t with kind := .free }

/-- A fresh copy of the safe-state table (R101): where it passes, the hard-default request ends on every output at once. -/
def Mod.safeRefresh (m : Mod) (copyOk : Bool) : Mod :=
  if m.exec.hardReq && copyOk then
    { m with exec := { m.exec with hardReq := false, safeCopy := m.plan.active.map (·.safe) } }
  else m

/-- The management core runs: PD3 is powered and no missed heartbeat waits (R103). -/
def Mod.mgmtUp (m : Mod) : Bool := m.isOn (swPd 3) && m.exec.heartbeat && !bitAt m.pwr.unlocked 1

/-- The management core wakes: on a Drum entry, a doorbell, a chip select of the local host port (R18). It starts within 24 µs, the 20 µs of PLL-M's lock
included, so that the lock has no event of its own (log entry 35). -/
def Mod.coreWake (m : Mod) : Mod := m.when (m.isOn (swPd 3)) (fun m => m.swOnNow swPllM)

/-- Work waits for the management core: accepted commands and packets, point writes, flash jobs, a plan that is built or verified. -/
def Mod.coreBusy (m : Mod) : Bool :=
  !m.orpor.order.isEmpty || m.pool.frames.any (fun f => f.packet.isSome) || !m.mem.writes.isEmpty || !m.nvm.jobs.isEmpty
    || m.get F.PLAN_STATUS_STATE == 1 || m.get F.PLAN_STATUS_STATE == 2 || m.exec.startType.isSome || m.plan.replan

/-- At the end of its window the core sleeps with PLL-M stopped where no work waits (R18). -/
def Mod.coreSleep (m : Mod) : Mod := if m.coreBusy then m else m.swOff swPllM

end Sys2Proof.Machine
end

