-- ==== Sys2Proof/Machine/PlanView.lean ====
section
/-! DEFINITION. What follows from a plan image: the code of its tasks and its cost (R64, R125, R128, R129, R134), the tiles a task uses (R124), the
bursts and their planned ends (R59, R60, R65), the instants of its loops (R174 to R178), the reaction time of its safety tasks (R273). -/

namespace Sys2Proof.Machine

/-! ### The register image -/

/-- What a plan's register image holds at an address. -/
def imgWord (pl : Plan) (a : Nat) : Word := ((pl.regImage.find? (fun x => x.1 == a)).map (·.2)).getD (resetWord a)

/-- A field of a plan's register image. -/
def imgFld (pl : Plan) (f : Fld) : Nat := bits (imgWord pl f.addr).toNat f.lo f.width

/-! ### Code (R125, R128, R129) -/

/-- Operand forms (R128). -/
inductive Form | n | p | i | x | k | kx | r | ri | c | m | mx | b | rpt | f
deriving DecidableEq, Repr

/-- The forms and cycle counts of R129; none for an undefined opcode. -/
def opForm (op : Nat) : Option (Form × Nat) :=
  match op with
  | 0x00 => some (.n, 1) | 0x01 => some (.n, 1) | 0x02 => some (.b, 2) | 0x03 => some (.b, 2) | 0x04 => some (.b, 2)
  | 0x05 => some (.b, 2) | 0x06 => some (.rpt, 2)
  | 0x10 => some (.p, 3) | 0x11 => some (.p, 3) | 0x12 => some (.p, 3) | 0x13 => some (.p, 3) | 0x14 => some (.i, 1)
  | 0x15 => some (.x, 2) | 0x16 => some (.x, 2) | 0x17 => some (.k, 3) | 0x18 => some (.kx, 4) | 0x19 => some (.r, 1)
  | 0x1A => some (.m, 3) | 0x1B => some (.m, 3) | 0x1C => some (.mx, 4) | 0x1D => some (.mx, 4) | 0x1E => some (.n, 2)
  | 0x20 => some (.r, 1) | 0x21 => some (.r, 1) | 0x22 => some (.r, 3) | 0x23 => some (.r, 12) | 0x24 => some (.r, 12)
  | 0x25 => some (.r, 1) | 0x26 => some (.r, 1) | 0x27 => some (.r, 1) | 0x28 => some (.r, 1) | 0x29 => some (.r, 2)
  | 0x2A => some (.ri, 1)
  | 0x30 => some (.r, 1) | 0x31 => some (.r, 1) | 0x32 => some (.r, 4) | 0x33 => some (.r, 12) | 0x34 => some (.r, 1)
  | 0x35 => some (.r, 1) | 0x36 => some (.r, 1) | 0x37 => some (.r, 1) | 0x38 => some (.r, 2)
  | 0x40 => some (.r, 3) | 0x41 => some (.r, 3) | 0x42 => some (.r, 3) | 0x43 => some (.r, 10) | 0x44 => some (.r, 12)
  | 0x45 => some (.r, 1) | 0x46 => some (.r, 1) | 0x47 => some (.r, 2) | 0x48 => some (.r, 2) | 0x49 => some (.r, 2)
  | 0x4A => some (.r, 4)
  | 0x50 => some (.r, 1) | 0x51 => some (.r, 1) | 0x52 => some (.r, 3) | 0x53 => some (.r, 3) | 0x54 => some (.r, 4)
  | 0x55 => some (.r, 4)
  | 0x60 => some (.r, 1) | 0x61 => some (.r, 1) | 0x62 => some (.r, 1) | 0x63 => some (.r, 1) | 0x64 => some (.r, 1)
  | 0x65 => some (.r, 1) | 0x66 => some (.r, 1) | 0x67 => some (.r, 1)
  | 0x70 => some (.c, 1) | 0x71 => some (.c, 1) | 0x72 => some (.c, 2) | 0x78 => some (.r, 1)
  | 0x80 => some (.r, 1) | 0x81 => some (.ri, 1) | 0x82 => some (.ri, 1) | 0x83 => some (.n, 1) | 0x84 => some (.r, 1)
  | 0xA0 => some (.f, 6) | 0xA1 => some (.f, 6) | 0xA2 => some (.f, 6) | 0xA3 => some (.f, 5) | 0xA4 => some (.f, 5)
  | 0xA5 => some (.f, 3) | 0xA6 => some (.f, 3) | 0xA7 => some (.f, 2) | 0xA8 => some (.f, 2)
  | 0xF0 => some (.p, 2) | 0xF1 => some (.p, 2)
  | _ => none

def wOp (w : Nat) : Nat := bits w 24 8

/-- The form of a word's opcode. -/
def wForm (w : Nat) : Option Form := (opForm (wOp w)).map (·.1)

/-- Words of a form (R128): the extended forms X, KX and MX carry a second word. -/
def Form.words : Form → Nat
  | .x => 2 | .kx => 2 | .mx => 2 | _ => 1

/-- The words a task's code holds (R125). -/
def Plan.code (pl : Plan) (t : TaskDef) : List Nat :=
  let bs := (t.tiles.take t.codeTiles).flatMap (fun i => ((pl.tiles.find? (fun d => d.tile == i)).map (·.data)).getD [])
  (List.range t.words).map (fun i => ofLe ((bs.drop (4 * i)).take 4))

/-- The word indices at which instructions begin; the walk ends at an undefined opcode. -/
def instrStarts : Nat → Nat → List Nat → List Nat
  | 0, _, _ => []
  | n + 1, pc, ws =>
    match ws with
    | [] => []
    | w :: _ => match opForm (wOp w) with
      | some (fm, _) => pc :: instrStarts n (pc + fm.words) (ws.drop fm.words)
      | none => [pc]

/-- The instructions of a block of code: index, first word, second word. -/
def instrsOf (ws : List Nat) : List (Nat × Nat × Nat) :=
  (instrStarts (ws.length + 1) 0 ws).map (fun i => (i, ws.getD i 0, ws.getD (i + 1) 0))

/-! ### Cost (R64, R134) -/

/-- The longest costs from each word of a block of code to its end, `inner` giving those of a REPEAT's body; a branch past
the block's end leaves it (R133, R134). -/
def costs (inner : List Nat → Nat) : List Nat → List Nat
  | [] => [0]
  | w :: ws =>
    let cs := costs inner ws
    let next := cs.headD 0
    let far := cs.getD (bits w 0 20) 0
    let c := match opForm (wOp w) with
      | some (.b, n) => n + (if wOp w = 0x02 then far else max next far)
      | some (.rpt, _) =>
        let len := bits w 0 11
        let body := ws.take len
        let out := (instrsOf body).foldl (fun a x =>
          let tgt := x.1 + 1 + bits x.2.1 0 20
          if wForm x.2.1 = some .b ∧ len ≤ tgt then max a (cs.getD tgt 0) else a) (cs.getD len 0)
        2 + (bits w 11 9 + 1) * (inner body + 1) + out
      | some (.x, n) => n + cs.getD 1 0
      | some (.kx, n) => n + cs.getD 1 0
      | some (.mx, n) => n + cs.getD 1 0
      | some (_, n) => if wOp w = 0x01 then n else n + next
      | none => 0
    c :: cs

/-- The longest forward path of a block, with REPEATs to a depth of 4. -/
def longest : Nat → List Nat → Nat
  | 0 => fun _ => 0
  | d + 1 => fun ws => (costs (longest d) ws).headD 0

/-- A task's waits for bank slots (R58, R64): the largest sum over a burst. -/
def Plan.waits (pl : Plan) (t : TaskDef) : Nat :=
  let xs := pl.bankSlots.filter (fun b => b.task == t.idx && b.master == t.lane)
  (xs.map (fun x => (xs.filter (fun y => y.burst == x.burst)).foldl (fun a y => a + (y.at_ - y.want)) 0)).foldl max 0

/-- A task's worst-case time (R64). -/
def taskTime (pl : Plan) (t : TaskDef) : Nat :=
  longest 5 (pl.code t) + 35 * t.tiles.length + 33 * t.stores.length + pl.waits t

/-! ### The tiles of a task (R124) -/

def Plan.pointAt (pl : Plan) (i : Nat) : Option PointDef := pl.points.find? (fun p => p.idx == i)

/-- The tile that holds a point's record for a task: in copy B of a SAFETY task its private record (R265). -/
def Plan.recTileOf (pl : Plan) (t : TaskDef) (i : Nat) : List Nat :=
  match (if t.safetyCopy = 2 then mapGet i pl.priv else none) with
  | some x => [x.1]
  | none => ((pl.pointAt i).map (·.tile)).toList

def Plan.instAt (pl : Plan) (n : Nat) : Option InstDef := pl.insts.find? (fun d => d.num == n)

/-- The tiles, code aside, that an instruction touches, and those it stores to. -/
def Plan.touches (pl : Plan) (t : TaskDef) (w w2 : Nat) : List Nat × List Nat :=
  let op := wOp w
  match wForm w with
  | some .p =>
    let l := pl.recTileOf t (bits w 0 13)
    (l, if op = 0x11 ∨ op = 0xF0 then l else [])
  | some .k => ([pl.consts.getD (bits w 0 13 / 32) 0], [])
  | some .kx => ((List.range w2).map (fun i => pl.consts.getD ((bits w 0 13 + i) / 32) 0), [])
  | some .f => let l := ((pl.instAt (bits w 0 14)).map (·.tile)).toList; (l, l)
  | some .m => let l := ((pl.instAt (bits w 0 14)).map (·.tile)).toList; (l, if op = 0x1B then l else [])
  | some .mx => let l := ((pl.instAt (bits w 0 14)).map (·.tile)).toList; (l, if op = 0x1D then l else [])
  | _ => ([], [])

/-- The tiles beside its code tiles that a task's code names, and those its store instructions name. -/
def Plan.tileSet (pl : Plan) (t : TaskDef) : List Nat × List Nat :=
  let xs := (instrsOf (pl.code t)).map (fun x => pl.touches t x.2.1 x.2.2)
  ((xs.flatMap (·.1)).eraseDups, (xs.flatMap (·.2)).eraseDups)

/-- The points a task's code reads, and those it writes. -/
def Plan.readPts (pl : Plan) (t : TaskDef) : List Nat :=
  ((instrsOf (pl.code t)).filterMap (fun x => if wForm x.2.1 = some .p ∧ wOp x.2.1 ≠ 0x11 ∧ wOp x.2.1 ≠ 0xF0 then some (bits x.2.1 0 13) else none)).eraseDups
def Plan.writtenPts (pl : Plan) (t : TaskDef) : List Nat :=
  ((instrsOf (pl.code t)).filterMap (fun x => if wOp x.2.1 = 0x11 ∨ wOp x.2.1 = 0xF0 then some (bits x.2.1 0 13) else none)).eraseDups

/-! ### Windows and mirrors (R45, R363) -/

/-- The tiles of a circular-buffer window of the plan: the run that holds its LENGTH records (R45). -/
def Plan.cbwTiles (pl : Plan) (w : Nat) : List Nat :=
  let per := 256 / 2 ^ (imgFld pl (F.CBW_STRIDE_STRIDE w) + 3)
  if imgFld pl (F.CBW_STATUS_EN w) = 0 ∨ per = 0 then []
  else (List.range ((imgFld pl (F.CBW_LENGTH_LENGTH w) + per - 1) / per)).map (imgFld pl (F.CBW_BASE_TILE w) + ·)

/-- The tiles of the mirror lists that the Drum's MIRROR entries send (0) or receive (1) (R69, R363, TWIN_MIRROR). -/
def Plan.mirrored (pl : Plan) (dir : Nat) : List Nat :=
  ((pl.drum.filter (fun e => drumKind e == dkMirror && drumTarget e == dir)).flatMap (fun e => (mapGet (drumArg e) pl.lists).getD [])).eraseDups

/-- A point of the peer's half (R361). -/
def PointDef.isMirror (p : PointDef) : Bool := match p.bind with | .mirror _ _ => true | _ => false

/-- An SI or SO point (R266). -/
def PointDef.isSafety (p : PointDef) : Bool := match p.bind with | .si _ => true | .out o => decide (32 ≤ o ∧ o < 40) | _ => false

/-! ### Bursts (R59, R60, R64, R65) -/

/-- FCLK cycles in ns, rounded up (400 MHz). -/
def fclkNs (c : Nat) : Nat := (5 * c + 1) / 2

def Plan.ofKind (pl : Plan) (k : Nat) : List (BitVec 64) := pl.drum.filter (fun e => drumKind e == k)

/-- A class's period in ms and in ns. -/
def Plan.classMs (pl : Plan) (c : Nat) : Nat := ((pl.classes[c]?).map (fun d => periodMs d.period)).getD 1000
def Plan.classPeriod (pl : Plan) (c : Nat) : Nat := pl.classMs c * 1000000

/-- A lane's list in a burst, the tasks of shorter-period classes first (R59). -/
def Plan.laneTasks (pl : Plan) (lane mask seq : Nat) : List TaskDef :=
  let ts := pl.tasks.filter (fun t => t.lane == lane && t.runsIn mask seq)
  (List.range 8).flatMap (fun period => ts.filter (fun t => ((pl.classes[t.cls]?).map (·.period)).getD 0 == period))

/-- When the tasks of a lane's list end, in FCLK cycles after T0 (R60, R64): each starts when the one before it has ended, and not before its planned
start. -/
def listEnds : Nat → List TaskDef → List (TaskDef × Nat)
  | _, [] => []
  | now, t :: ts => let e := max now t.start + t.wcet; (t, e) :: listEnds e ts

/-- The tasks of a burst with their ends. -/
def Plan.taskEnds (pl : Plan) (mask seq : Nat) : List (TaskDef × Nat) :=
  (List.range 8).flatMap (fun lane => listEnds 0 (pl.laneTasks lane mask seq))

/-- A burst's planned end after its T0 in FCLK cycles: its lane with the latest finish time (R65). -/
def Plan.burstEnd (pl : Plan) (mask seq : Nat) : Nat := (pl.taskEnds mask seq).foldl (fun a x => max a x.2) 0

/-- The latest planned end of a class's cycles after their T0 in FCLK cycles (PLAN_CLASS.BURST); a task that R59 spreads ends later by its burst's
distance from the class's freeze. -/
def Plan.classEnd (pl : Plan) (c : Nat) : Nat :=
  (pl.ofKind dkBurst).foldl (fun a e =>
    let late := drumNs e % pl.classPeriod c * 2 / 5
    (pl.taskEnds (drumTarget e) (drumArg e)).foldl (fun a x => if x.1.cls = c then max a (late + x.2) else a) a) 0

/-! ### Loops (R173 to R178) -/

def LoopDef.type (d : LoopDef) : Nat := d.fld 0 (F.LOOP_CFG_TYPE 0)
def LoopDef.cls (d : LoopDef) : Nat := d.fld 0 (F.LOOP_CFG_CLASS 0)
def LoopDef.act (d : LoopDef) : Nat := d.fld 0 (F.LOOP_CFG_ACT 0)
def LoopDef.outer (d : LoopDef) : Option Nat :=
  if d.fld 0 (F.LOOP_CFG_CASCADE 0) = 1 then some (d.fld 0 (F.LOOP_CFG_OUTER 0)) else none
def LoopDef.pv (d : LoopDef) : Nat := d.fld 1 (F.LOOP_POINTS_PV 0)
def LoopDef.sp (d : LoopDef) : Nat := d.fld 1 (F.LOOP_POINTS_SP 0)
def LoopDef.out (d : LoopDef) : Nat := d.fld 2 (F.LOOP_OUTPT_OUT 0)
/-- The loop period in ms (R174). -/
def LoopDef.ms (d : LoopDef) : Nat := d.fld 3 (F.LOOP_TIMING_PERIOD 0)
/-- The delay from a period's start to its latch (R176), in units of 1/32 ns. -/
def LoopDef.delay (d : LoopDef) : Nat :=
  let v := d.fld 3 (F.LOOP_TIMING_PHASE 0)
  d.ms * 125000 * (if v = 0 then 256 else v)

/-- An evaluation's time in ns (R177): 254 cycles where the package declares a tuning window, else 186. -/
def Plan.evalNs (pl : Plan) : Nat := fclkNs (if pl.capWindow = 0 then 186 else 254)

/-! ### Safety (R264, R266, R273) -/

/-- The safety class: that of the SAFETY tasks (R266). -/
def Plan.safetyClass (pl : Plan) : Option Nat := (pl.tasks.find? (fun t => t.safetyCopy != 0)).map (·.cls)

/-- The safety inputs that SAFETY tasks read. -/
def Plan.safetyPairs (pl : Plan) : List Nat :=
  (((pl.tasks.filter (fun t => t.safetyCopy != 0)).flatMap pl.readPts).filterMap (fun i =>
    match (pl.pointAt i).map PointDef.bind with
    | some (.si k) => some k
    | _ => none)).eraseDups

/-- The constant words that a task's LDK operands name or its LDKX ranges cover. -/
def Plan.constWords (pl : Plan) (t : TaskDef) : List Nat :=
  (instrsOf (pl.code t)).flatMap (fun x => match wForm x.2.1 with
    | some .k => [bits x.2.1 0 13]
    | some .kx => (List.range x.2.2).map (bits x.2.1 0 13 + ·)
    | _ => [])

/-- A word of the constant pool (R47). -/
def Plan.constWord (pl : Plan) (i : Nat) : Nat :=
  let bs := ((pl.tiles.find? (fun d => d.tile == pl.consts.getD (i / 32) 0)).map (·.data)).getD []
  ofLe ((bs.drop (i % 32 * 8)).take 8)

/-- A Jack entry reads a safety input or names a safety output (R164, R276). -/
def jackSafety (e : BitVec 64) : Bool := jSafety e || (List.range 4).any (fun k => decide (8 ≤ jIn e k ∧ jIn e k < 24))

/-- The safety content of a package, serialised (R276). -/
def Plan.safetyBytes (pl : Plan) : List Byte :=
  let ts := ((pl.tasks.filter (fun t => t.safetyCopy == 1)).foldl (fun l t => mapPut t.idx t l) []).map (·.2)
  let ks := ((ts.flatMap pl.constWords).foldl (fun l k => mapPut k () l) []).map (·.1)
  ts.flatMap (fun t => leBytes 2 t.idx ++ leBytes 2 t.words ++ (pl.code t).flatMap (leBytes 4))
    ++ leBytes 2 ks.length ++ ks.flatMap (fun i => leBytes 2 i ++ leBytes 8 (pl.constWord i))
    ++ (List.range 8).flatMap (fun k => leBytes 1 (imgFld pl (F.SAFE_SI_CFG_MODE k)) ++ leBytes 1 (imgFld pl (F.SAFE_SI_CFG_FILT k))
        ++ leBytes 1 (imgFld pl (F.SAFE_SI_CFG_DISC k)))
    ++ (List.range 4).flatMap (fun k => leBytes 2 (((pl.points.find? (fun p =>
        match p.bind with | .out o => o == 32 + 2 * k || o == 33 + 2 * k | _ => false)).map (·.idx)).getD 0xFFFF))
    ++ (pl.jack.zipIdx.filter (fun e => jackSafety e.1)).flatMap (fun e => leBytes 1 e.2 ++ leBytes 8 e.1.toNat)

/-- SAFE_CRC of a plan (R276). -/
def Plan.safetyCrc (pl : Plan) : Nat := crc32c pl.safetyBytes

/-- FILT of a safety input pair in ns. -/
def Plan.siFilt (pl : Plan) (k : Nat) : Nat := max 1 (imgFld pl (F.SAFE_SI_CFG_FILT k)) * 100000

/-- t_R of a pair in ns (R273). -/
def Plan.reactNs (pl : Plan) (k : Nat) : Nat :=
  let c := pl.safetyClass.getD 0
  pl.siFilt k + 10000 + pl.classPeriod c + ((pl.classes[c]?).map (·.launch)).getD 0 + 30

/-- The largest t_R over the pairs that SAFETY tasks read, in µs rounded up (SAFE_REACT). -/
def Plan.reactUs (pl : Plan) : Nat := (pl.safetyPairs.foldl (fun a k => max a (pl.reactNs k)) 0 + 999) / 1000

end Sys2Proof.Machine
end

