-- ==== Sys2Proof/Machine/Restart.lean ====
section
/-! DEFINITION. Loading a plan, restarts (R111 to R120), the retain snapshot (R115 to R118) and the plan swap (R81 to R86, R168,
R189, R190, R249, R255). -/

namespace Sys2Proof.Machine

/-! ### Loading a plan (R46, R58, R75, R120) -/

/-- The action bits (W1C and RC) of a register keep what they hold when the plan writes its word. -/
def planWord (a : Nat) (old w : Word) : Word :=
  let mask : Word := BitVec.ofNat 32 ((accessAt a).w1c ||| (accessAt a).rc)
  (w &&& ~~~mask) ||| (old &&& mask)

/-- The registers of the image that a plan writes: those of a loop follow its definition (R188, R189). -/
def Plan.image (pl : Plan) : List (Nat × Word) := pl.regImage.filter (fun x => !(decide (R.LOOP_CFG 0 ≤ x.1) && decide (x.1 < R.LOOP_CFG 256)))

/-- The register image of a plan (R58, step 9): a register that only the plan before it wrote returns to its reset word. -/
def Mod.planRegs (m : Mod) (old : Option Plan) (pl : Plan) : Mod :=
  let m := ((old.map (·.image)).getD []).foldl (fun m x =>
    if pl.image.any (fun y => y.1 == x.1) then m else m.setWord x.1 (planWord x.1 (m.word x.1) (resetWord x.1))) m
  pl.image.foldl (fun m x => m.setWord x.1 (planWord x.1 (m.word x.1) x.2)) m

/-- Bytes of a retain record in the slot, its head and padding included (R116). -/
def retainLen (kind : Nat) : Nat := match kind with | 1 => 24 | 2 => 24 | 3 => 16 | 4 => 24 | _ => 32

/-- The records of a plan's retain layout: one for each member of a user block. -/
def Plan.retainKeys (pl : Plan) : List (Nat × Nat × Nat) :=
  pl.retain.flatMap (fun x =>
    if x.1 = 4 then
      match pl.insts.find? (fun i => i.id == x.2) with
      | some i => ((i.memberHash.zip i.memberRetain).filter (·.2)).map (fun h => (4, x.2, h.1))
      | none => []
    else [(x.1, x.2, 0)])

def Plan.retainBytes (pl : Plan) : Nat := pl.retainKeys.foldl (fun a x => a + retainLen x.1) 0

/-- FREE tiles outside excluded banks (PLAN_FREE_TILES.FREE). -/
def Plan.freeTiles (pl : Plan) : Nat :=
  let banks := ((List.range 8).filter (fun b => !bitAt pl.excluded b)).length
  banks * 1024 - (pl.tiles.filter (fun t => t.kind != .free && !bitAt pl.excluded (t.tile / 1024))).length

/-- PLAN_CLASS[c] (R54, R88): the class's period, deadline and launch offset, and the latest planned burst end of its cycles. -/
def Mod.showClass (m : Mod) (pl : Plan) (c : Nat) : Mod :=
  match pl.classes[c]? with
  | some d =>
    let m := ((m.set (F.PLAN_CLASS_CFG_PERIOD c) d.period).set (F.PLAN_CLASS_CFG_EN c) 1).set (F.PLAN_CLASS_CFG_DEADLINE c) d.deadline
    (m.set (F.PLAN_CLASS_LAUNCH_OFFSET c) d.launch).set (F.PLAN_CLASS_BURST_CYCLES c) (pl.classEnd c)
  | none => ((m.setWord (R.PLAN_CLASS_CFG c) 0).setWord (R.PLAN_CLASS_LAUNCH c) 0).setWord (R.PLAN_CLASS_BURST c) 0

/-- What the module shows of the plan that is loaded (R48, R49, R88, R273, R276, R305). -/
def Mod.planShow (m : Mod) (pl : Plan) : Mod :=
  let m := (List.range 8).foldl (fun m c => m.showClass pl c) m
  let m := (m.set F.SAFE_REACT_TASK_US pl.reactUs).set F.SAFE_REACT_CLASS (pl.safetyClass.getD 0)
  let m := (m.set F.PLAN_ACTIVE_ID_ID pl.id).setB F.PLAN_STATUS_OFFLINE pl.offline
  let m := m.set F.PLAN_FREE_TILES_FREE pl.freeTiles
  let m := (List.range 8).foldl (fun m b => m.setB (F.TILE_BANK_EXCLUDED b) (bitAt pl.excluded b)) m
  let m := (m.set F.DRUM_STATUS_ENTRIES pl.drum.length).set F.EXEC_STATE_NOPLAN 0
  let m := (m.set F.SAFE_CRC_CRC pl.safetyCrc).set F.EXEC_RETAIN_USED pl.retainBytes
  let m := (m.set F.TWIN_MIRROR_SEND (pl.mirrored 0).length).set F.TWIN_MIRROR_RECV (pl.mirrored 1).length
  let m := m.when (!pl.twoHand) (fun m => m.set F.TWIN_STATUS_SPLIT 0)
  m.set F.TWIN_STATUS_MODE (if pl.twoHand then 1 else if pl.shadow then 2 else 0)

/-- The Drum into a bank (R70). -/
def Mod.putDrum (m : Mod) (bankB : Bool) (d : List (BitVec 64)) : Mod :=
  { m with plan := if bankB then { m.plan with drumB := d } else { m.plan with drumA := d } }

/-- Receive objects as the plan binds them; one that stays bound keeps its content (R293). -/
def planObjs (old : List (Nat × RxObj)) (port : Nat) (l : List (Nat × Nat × Nat × Bool)) : List (Nat × RxObj) :=
  (l.filter (fun x => x.1 == port)).map (fun x =>
    let n : RxObj := { id := x.2.2.1, xtd := x.2.2.2 }
    match mapGet x.2.1 old with
    | some o => if o.id = n.id ∧ o.xtd = n.xtd then (x.2.1, o) else (x.2.1, n)
    | none => (x.2.1, n))

def Mod.planPorts (m : Mod) (pl : Plan) : Mod :=
  let m := { m with ports := { m.ports with
    port := Vector.ofFn (fun p : Fin 19 => { m.ports.port[p] with objs := planObjs m.ports.port[p].objs p.val pl.rxObjs })
    buf := m.ports.buf.filter (fun b => pl.remotes.any (fun r => r.point == b.1)) } }
  let m := (List.range 19).foldl (fun m p => m.setB (F.FBUS_STATUS_UP p)
    (m.flag (F.FBUS_CFG_EN p) && !m.flag (F.FBUS_STATUS_BUS_OFF p) && !m.flag (F.FBUS_STATUS_NO_POWER p))) m
  let mbus := m.flag (F.FBUS_CFG_EN 8) && m.get (F.FBUS_CFG_PROTO 8) == prMbus
  if mbus then m.swOnNow swMbus else m.swOff swMbus

/-- The islands take their configuration (R255). -/
def Mod.planLt (m : Mod) : Mod :=
  (List.finRange 8).foldl (fun m (n : Fin 8) =>
    if m.flag (F.LTX_CFG_EN n.val) then m.ltMap n (fun i => { i with
      alarmHigh := m.flag (F.LTX_CFG_ALARM n.val)
      holdTenths := min 600 (m.get (F.LTX_CFG_HOLD n.val))
      modemEn := m.flag (F.LTX_CFG_MODEM_EN n.val) })
    else m) m

/-- METER settings that wait for the next block boundary (R200). -/
def Mod.planMeter (m : Mod) (pl : Plan) : Mod :=
  pl.meter.foldl (fun m d =>
    let same := (m.metCh d.ch).scale == d.scale
      && (if d.ch < 96 then m.get (F.MET_CFG_I_VCH d.ch) == d.vch && m.flag (F.MET_CFG_I_USER_MODE d.ch) == d.abs
            && m.get (F.MET_CFG_I_SCOPE d.ch) == d.scope
          else m.flag (F.MET_CFG_V_F60 (d.ch - 96)) == d.f60)
    if same then m else m.setMet d.ch { m.metCh d.ch with pendScale := some d }) m

/-- A point's record at a restart (R112): the retained value where the restart is warm and one matches. -/
def warmRec (rs : Option (List (Nat × Nat × List Byte))) (p : PointDef) (init : PRec) : PRec :=
  if p.retain then
    match rs.bind (fun r => retPoint r p) with
    | some v => { init with val := v, qual := 0x0001, age := 0, chg := 0 }
    | none => { init with qual := 0, chg := 0 }
  else { init with qual := 0, chg := 0 }

/-- A tile's content at a restart: the plan's initial content with the retained items laid over it (`rs` none: cold). -/
def startBytes (pl : Plan) (rs : Option (List (Nat × Nat × List Byte))) (d : TileDef) : List Byte :=
  match d.kind with
  | .point => pl.recTile d (fun p => warmRec rs p (pl.initRec d p)) (pl.initRec d)
  | .mirror => pl.recTile d (pl.initRec d) (pl.initRec d)
  | .inst => (pl.insts.filter (fun i => i.tile == d.tile)).foldl (fun bs i =>
      match rs with
      | some r => putBytes bs i.off (retInst r i (pl.safetyTask i.owner) ((bs.drop i.off).take (instSize i)))
      | none => bs) d.data
  | .history => List.replicate 256 0
  | _ => d.data

/-- An item of the layout that the retained records do not restore (R118). -/
def retMissing (pl : Plan) (rs : List (Nat × Nat × List Byte)) (x : Nat × Nat × Nat) : Bool :=
  match x.1 with
  | 1 => (match pl.points.find? (fun p => p.idx == x.2.1) with | some p => (retPoint rs p).isNone | none => true)
  | 4 => (match (pl.insts.find? (fun i => i.id == x.2.1)).bind (fun i => i.mems.find? (fun y => y.1 == x.2.2)) with
    | some y => !rs.any (fun r => r.1 == 4 && r.2.1 == x.2.1 && ofLe (r.2.2.take 4) == x.2.2 && r.2.2.length == 16 && ofLe ((r.2.2.drop 4).take 1) == y.2.1)
    | none => true)
  | 5 => (match retFind rs 5 x.2.1 with | some b => b.length != 24 | none => true)
  | k => (match retFind rs k x.2.1, pl.insts.find? (fun i => i.id == x.2.1) with
    | some b, some i => b.length != (if k = 2 then 16 else 8) || bits (ofLe (b.take 4)) 8 8 != i.btype
    | _, _ => true)

/-- All tiles, directory and point map of a plan (R120, step 2). -/
def Mod.planTiles (m : Mod) (pl : Plan) (rs : Option (List (Nat × Nat × List Byte))) : Mod :=
  let m := { m with mem := { m.mem with cells := [], dir := [] } }
  let m := pl.tiles.foldl (fun m d => m.placeTile d (startBytes pl rs d)) m
  let m := { m with mem := { m.mem with
    pmap := pl.points.foldl (fun l (p : PointDef) => mapPut p.idx (PMapEnt.mk p.tile p.slot p.ty) l) [] } }
  { m.set F.TILE_STATUS_FAULTED 0 with met := { m.met with own := [], waiting := [] } }

/-- Forces released by a restart (R112). -/
def Mod.dropForces (m : Mod) : Mod :=
  if m.mem.forces.isEmpty then m
  else ({ m with mem := { m.mem with forces := [] } }).log .forcesCleared 0 []

/-- A module of a pair, armed, waits for its peer (R480), unless the cable is not fitted or a Shadow peer holds the bar. -/
def Mod.awaitsPeer (m : Mod) (pl : Plan) : Bool :=
  let sideB := m.flag F.TWIN_STATUS_SIDE
  m.pwr.bar != 0 && (pl.twoHand || (pl.shadow && !m.peerHolds)) && (sideB || (!m.twin.paired && !m.flag F.TWIN_STATUS_MISMATCH))

/-- The registers of the loops that only the plan before had return to their reset words. -/
def Mod.dropLoops (m : Mod) (old : Option Plan) (pl : Plan) : Mod :=
  (((old.map (·.loops)).getD []).filter (fun d => !pl.loops.any (fun e => e.num == d.num))).foldl (fun m d =>
    (List.range 16).foldl (fun m k => m.setWord (R.LOOP_CFG d.num + 4 * k) (resetWord (R.LOOP_CFG d.num + 4 * k))) m) m

/-- A plan loaded with a restart type (R112, R114, R120): `warm` and a retain slot that passes its check restore the retained
items; without one the restart is cold and EV_RETAIN_LOST is logged. -/
def Mod.loadPlan (m : Mod) (pl : Plan) (warm : Bool) : Mod :=
  let lost := warm && m.retained.isNone
  let rs := if warm then m.retained else none
  let m := m.when lost (fun m => m.log .retainLost 0 [])
  let old := m.plan.active
  let m := { m with plan := { m.plan with active := some pl, replan := false, newDone := false, migrated := false } }
  let m := (((m.planRegs old pl).siRefresh m).dropLoops old pl).planTiles pl rs
  let m := pl.loops.foldl (fun m d =>
    let m := m.loopLoad d
    match rs.bind (fun r => retFind r 5 d.num) with
    | some b => if b.length = 24 then m.loopWarm d b else m
    | none => m) { m with loops := [] }
  let m := match rs with
    | some r => m.set F.EXEC_RETAIN_SKIPPED (satNat 12 ((pl.retainKeys.filter (retMissing pl r)).length))
    | none => m
  let m := ((m.planPorts pl).planLt).planMeter pl
  let m := (m.putDrum (m.flag F.DRUM_STATUS_BANK) pl.drum).planShow pl
  let m := m.dropForces
  let m := { m with
    mem := { m.mem with writes := [], before := [] }
    lanes := m.lanes.map (fun (l : Lane) => { l with task := none, todo := [], phase := .idle })
    outs := m.outs.map (fun (u : OutSt) => { u with abandon := none, staged := none, req := u.req &&& (2 ^ 16 - 1 - (if pl.twoHand then 34 else 38)) })
    exec := { m.exec with
      safeCopy := some pl.safe, hardReq := false, image := [], freshPts := [], burst := none, wdArmed := false
      rstaged := [], rlaunched := [], waitPeer := m.awaitsPeer pl, waitAt := m.clk.mono
      restartDue := if m.awaitsPeer pl then none else some (m.clk.ns + 250000) } }
  let m := ((m.set F.SAFE_STATUS_FAULT 0).set F.SAFE_STATUS_CAUSE 0)
  let m := { m.planDomains with key := { m.key with proven := true } }
  let cold := !warm || lost
  let m := m.set F.EXEC_STATE_RESTART (if cold then 2 else 1)
  if cold then m.addSat F.EXEC_RESTARTS_COLD 1 else m.addSat F.EXEC_RESTARTS_WARM 1

/-! ### Restarts (R107, R113, R119, R120) -/

/-- EXEC_POLICY's field of a cause (R122). -/
def policyFld (c : Nat) : Fld := ⟨R.EXEC_POLICY, 2 * c, 2⟩

/-- The restart type of a cause by policy (R122): 0 WARM, 1 COLD, 2 HOLD_BIT; which of the three the reserved code 3 gives is open
(log entry 16). -/
def Mod.policy (m : Mod) (c : Nat) : Nat := let v := m.get (policyFld c); if v = 3 then (Config.reservedPolicy c).toNat % 3 else v

/-- RUN or STANDBY is left for BIT (R107): every output safe, staging discarded, the Jack path disabled, no lanes, no tests. -/
def Mod.leaveRun (m : Mod) : Mod :=
  if m.running then ((((m.abortTests).reqSafeAll 0).haltLanes).dropStaging.jackOff).standbyEnd else m

/-! ### Entering RUN or STANDBY (R111, R371, R375) -/

/-- The outputs a plan drives at launches and latches. -/
def Plan.launched (pl : Plan) : List Nat :=
  pl.points.filterMap (fun p => match p.bind with | .out o => some o | _ => none)
/-- The actuators of the plan's loops. -/
def Plan.loopOuts (pl : Plan) : List Nat := pl.loops.filterMap (fun d => (actOutput d.act).map (·.val))
/-- The outputs that only a Jack entry drives. -/
def Plan.jackOuts (pl : Plan) : List Nat := pl.jack.filterMap (fun e => if jEn e then some (jTarget e) else none)

/-- The outputs at S (R111): one that the plan drives keeps its value to its first launch or latch; one that only the Jack path
drives takes its safe value below the Jack action; every other takes its safe value. -/
def Mod.outsAtS (m : Mod) (pl : Plan) : Mod :=
  let dr := pl.launched ++ pl.loopOuts
  (List.finRange 48).foldl (fun m (o : Fin 48) =>
    if dr.contains o.val then m
    else if pl.jackOuts.contains o.val then
      m.outMap o (fun u => { u with launched := some (m.safeVal o), bit := none, req := u.req &&& (2 ^ 16 - 1 - 9) })
    else (m.reqSafe o 3).outMap o (fun u => { u with bit := none, req := u.req &&& (2 ^ 16 - 2) })) m

/-- The bit program has run its last cycle (R111): it stops and its flags are discarded; what it drives stands to the first
launch. -/
def Mod.bitEnd (m : Mod) : Mod :=
  { m with regs := fldSet m.regs F.EXEC_BIT_RUNNING 0, bit := { m.bit with inCycle := false, flags := 0 } }

/-- Split operation of a Two-hand module in RUN (R366, R368): every cross-dependent output takes a safe-state request, and side A closes the
sessions of side B's transports. -/
def Mod.splitEnter (m : Mod) : Mod :=
  if m.get F.TWIN_STATUS_MODE != 1 || m.st != xRun then m
  else
    let cross := ((m.plan.active.map (·.cross)).getD []).map (·.1)
    let m := m.when (!m.flag F.TWIN_STATUS_SPLIT) (fun m =>
      let m := (m.set F.TWIN_STATUS_SPLIT 1).log .twinSplit 0 []
      if m.flag F.TWIN_STATUS_SIDE then m
      else
        let m := { m with orpor := { m.orpor with greet := m.orpor.greet.filter (fun g => !g.2.1) } }
        (m.orpor.sessions.filter (fun (s : Nat × Sess) => s.2.viaB)).foldl (fun (m : Mod) (s : Nat × Sess) => m.closeSess s.1) m)
    m.reqSafeList cross 2

/-- RUN at S (R111). A Shadow module that finds its peer's line HELD, and side B of a pair that has formed, enter STANDBY and rejoin (R107,
R359, R371, R379); otherwise a Shadow module holds the bar. -/
def Mod.enterRun (m : Mod) (pl : Plan) : Mod :=
  let m := { m with exec := { m.exec with restartDue := none, waitPeer := false } }
  let m := m.bitEnd
  let m := m.outsAtS pl
  if pl.shadow && (m.peerHolds || (m.flag F.TWIN_STATUS_SIDE && m.twin.paired)) then
    let m := (m.goto xStandby).rejoin
    { m with outs := m.outs.map (fun (u : OutSt) => { u with bit := none }), twin := { m.twin with takePending := false } }
  else
    let m := m.goto xRun
    let m := m.when pl.shadow (fun m => (m.set F.TWIN_STATUS_HOLDS_BAR 1).set F.TWIN_BAR_OWN_LINE 1)
    let m := m.when (!m.flag F.TWIN_STATUS_LINK_UP || m.flag F.TWIN_STATUS_MISMATCH || m.flag F.TWIN_STATUS_SPLIT) Mod.splitEnter
    m.jackEnable

/-! ### The retain snapshot (R115 to R117) -/

/-- EXEC_RETAIN_CFG.PERIOD in seconds (R122). -/
def retainPeriod (v : Nat) : Nat := match v with | 1 => 2 | 2 => 5 | 3 => 10 | 4 => 60 | _ => 1

/-- The tiles that hold retained content (R117). -/
def Plan.retainTiles (pl : Plan) : List Nat :=
  (pl.retainKeys.filterMap (fun x =>
    if x.1 = 1 then (pl.pointAt x.2.1).map (·.tile)
    else if x.1 = 5 then none
    else (pl.insts.find? (fun i => i.id == x.2.1)).map (·.tile))).eraseDups

/-- The record of one item of the layout (R116), from what the loads gave: a FAULTED POINT tile gives its placeholder (R37), and an item whose tile
gives nothing is left out, which R118 counts when it is missed (log entry 46). -/
def Mod.retainRec (m : Mod) (ls : List (Nat × Load)) (pl : Plan) (x : Nat × Nat × Nat) : Option (Nat × Nat × List Byte) :=
  let body : Option (List Byte) := match x.1 with
    | 1 => (pl.pointAt x.2.1).bind (fun p => (recIn ls ⟨p.tile, p.slot, p.ty⟩).map (fun r => leBytes 8 r.val.toNat ++ leBytes 1 p.ty))
    | 5 => some (m.loopRecord x.2.1)
    | k => (pl.insts.find? (fun i => i.id == x.2.1)).bind (fun i =>
      ((mapGet i.tile ls).bind Load.bytes?).bind (fun bs =>
        let b := (bs.drop i.off).take (instSize i)
        if k = 4 then (i.mems.find? (fun y => y.1 == x.2.2)).map (fun y => leBytes 4 y.1 ++ leBytes 1 y.2.1 ++ leBytes 3 0 ++ (b.drop y.2.2).take 8)
        else some (if k = 2 then b.take 16 else b.take 8)))
  body.map (fun b => (x.1, x.2.1, b))

/-- Records into the older slot (R116, R117); their write runs until SLOT_WRITE_COMPLETE. -/
def Mod.putSnapshot (m : Mod) (pl : Plan) (recs : List (Nat × Nat × List Byte)) : Mod :=
  let a := m.retain[0]
  let b := m.retain[1]
  let sa := if a.ok then a.seq else 0
  let sb := if b.ok then b.seq else 0
  let s : RetainSlot := { seq := max sa sb + 1, plan := pl.id, sec := m.clk.ns / 1000000000, optime := m.optime
                          recs := recs, ok := false, writing := true }
  let toA := decide (sa ≤ sb)
  let m := { m with retain := if toA then m.retain.set 0 s else m.retain.set 1 s }
  m.retainShow.set F.EXEC_RETAIN_WRITING 1

/-- A snapshot (R117): the management core loads the tiles under R34; without a region for one there is no snapshot (R44). -/
def Mod.snapshot (m : Mod) (pl : Plan) : Mod :=
  match m.masterLoads 9 pl.retainTiles with
  | (m, some ls) => m.putSnapshot pl (pl.retainKeys.filterMap (m.retainRec ls pl))
  | (m, none) => m

/-! ### The plan swap (R78 to R86) -/

/-- The candidate, where one is stored or armed (R74, PLAN_STATUS.STATE). -/
def Mod.cand (m : Mod) : Option Plan :=
  if m.get F.PLAN_STATUS_STATE = 3 ∨ m.get F.PLAN_STATUS_STATE = 4 then
    (if m.flag F.PLAN_STATUS_ACTIVE_SLOT then m.plan.slots[0] else m.plan.slots[1])
  else none

/-- A point, or an instance, that the candidate carries over (R82): its index and TYPE, or its ID and block type, are in both plans. -/
def Plan.keptPoint (old : Plan) (p : PointDef) : Option PointDef := old.points.find? (fun q => q.idx == p.idx && q.ty == p.ty)
def Plan.keptInst (old : Plan) (i : InstDef) : Option InstDef := old.insts.find? (fun j => j.id == i.id && j.btype == i.btype)

/-- What stands where in a POINT or INSTANCE tile: points with their TYPEFLAGS, private records, instances with their members. -/
def Plan.layout (pl : Plan) (t : Nat) : List (Nat × Nat × Nat) × List (Nat × Nat) × List (Nat × Nat × Nat × List (Nat × Nat)) :=
  ((pl.points.filter (fun p => p.tile == t)).map (fun p => (p.idx, p.slot, pl.typeFlags p)),
   (pl.priv.filter (fun x => x.2.1 == t)).map (fun x => (x.1, x.2.2)),
   (pl.insts.filter (fun i => i.tile == t)).map (fun i => (i.id, i.off, i.btype, i.memberHash.zip i.memberType)))

/-- A tile of the old plan with a kind. -/
def Plan.hasTile (pl : Plan) (d : TileDef) : Bool := pl.tiles.any (fun u => u.tile == d.tile && u.kind == d.kind && u.kind != .free)

/-- The content of a POINT or INSTANCE tile moves or changes layout (R79): its layout differs from the old plan's, or it is new and takes items from
elsewhere. -/
def tileMoves (old new : Plan) (d : TileDef) : Bool :=
  (d.kind == .point || d.kind == .inst) &&
    (if old.hasTile d then new.layout d.tile != old.layout d.tile
     else new.points.any (fun p => p.tile == d.tile && (old.keptPoint p).isSome) || new.insts.any (fun i => i.tile == d.tile && (old.keptInst i).isSome))

/-- The migration time of R79 in units of 0.01 µs. -/
def migrationTime (old new : Plan) : Nat :=
  1000 + 25 * (new.tiles.filter (tileMoves old new)).length + 8 * (new.insts.filter (fun i => (old.keptInst i).isSome)).length
    + 2 * (new.points.filter (fun p => (old.keptPoint p).isNone)).length

/-- A candidate may replace the active plan online (R78). -/
def onlineOk (old new : Plan) : Bool :=
  old.twoHand == new.twoHand && old.shadow == new.shadow
    && new.tiles.all (fun t => t.kind == .free
        || (match old.tiles.find? (fun u => u.tile == t.tile) with
            | some u => u.kind == .free || (u.kind == t.kind && u.writer == t.writer)
            | none => true))
    && decide (migrationTime old new ≤ 22000)

/-- The record of a point of the candidate at migration (R82), from what the loads of the old tiles gave; a record of a tile that gave none is lost
(R37). -/
def migPoint (ls : List (Nat × Load)) (old : Plan) (p : PointDef) (init : PRec) : PRec :=
  match old.keptPoint p with
  | some q => { ((recIn ls ⟨q.tile, q.slot, q.ty⟩).getD init.lost) with tf := init.tf }
  | none => init

/-- A private record of copy B at migration. -/
def migPriv (ls : List (Nat × Load)) (old : Plan) (p : PointDef) (init : PRec) : PRec :=
  match old.keptPoint p, mapGet p.idx old.priv with
  | some q, some x => { ((recIn ls ⟨x.1, x.2, q.ty⟩).getD init.lost) with tf := init.tf }
  | _, _ => init

/-- An instance of the candidate at migration (R82). -/
def migInst (ls : List (Nat × Load)) (old : Plan) (i : InstDef) (init : List Byte) : List Byte :=
  match old.keptInst i with
  | some j =>
    match (mapGet j.tile ls).bind Load.bytes? with
    | some bs =>
      let b := (bs.drop j.off).take (instSize j)
      if i.btype = 0x10 then
        i.mems.foldl (fun bs x =>
          match j.mems.find? (fun y => y.1 == x.1 && y.2.1 == x.2.1) with
          | some y => putBytes bs x.2.2 ((b.drop y.2.2).take 8)
          | none => bs) init
      else b
    | none => init
  | none => init

/-- The old tiles from which a tile of the candidate takes items. -/
def migSources (old new : Plan) (d : TileDef) : List Nat :=
  ((new.points.filter (fun p => p.tile == d.tile)).filterMap (fun p => (old.keptPoint p).map (·.tile))
    ++ (new.privIn d.tile).filterMap (fun x => (mapGet x.2.idx old.priv).map (·.1))
    ++ (new.insts.filter (fun i => i.tile == d.tile)).filterMap (fun i => (old.keptInst i).map (·.tile))).eraseDups

/-- A POINT or INSTANCE tile's content for the candidate, from what the loads gave (R82). -/
def migBytes (ls : List (Nat × Load)) (old new : Plan) (d : TileDef) : List Byte :=
  match d.kind with
  | .point => new.recTile d (fun p => migPoint ls old p (new.initRec d p)) (fun p => migPriv ls old p (new.initRec d p))
  | .inst => (new.insts.filter (fun i => i.tile == d.tile)).foldl (fun bs i =>
      putBytes bs i.off (migInst ls old i ((bs.drop i.off).take (instSize i)))) d.data
  | _ => d.data

/-- The content of a new tile (R81, R82): the plan's, its points at their initial values. -/
def newBytes (new : Plan) (d : TileDef) : List Byte :=
  match d.kind with
  | .point => new.recTile d (new.initRec d) (new.initRec d)
  | .mirror => new.recTile d (new.initRec d) (new.initRec d)
  | .history => List.replicate 256 0
  | _ => d.data

/-- Before S − 250 µs, in a management window: the candidate's tiles that are FREE in the active plan are written with their CRCs (R81); the live
directory keeps them FREE until S. -/
def Mod.writeNew (m : Mod) (old new : Plan) : Mod :=
  let m := (new.tiles.filter (fun d => d.kind != .free && !old.hasTile d)).foldl (fun m d => m.putTile d.tile (newBytes new d)) m
  { m with plan := { m.plan with newDone := true } }

/-- The tiles that migration writes (R81): those whose content moves or changes layout, and code and constants that change in place. -/
def migTiles (old new : Plan) : List TileDef :=
  new.tiles.filter (fun d => tileMoves old new d || ((d.kind == .code || d.kind == .const) && old.tiles.any (fun u => u.tile == d.tile && u.kind == d.kind && u.data != d.data)))

/-- Migration (R81, R82): the old tiles are loaded under R34 by the management core, and every changed tile is written with its new CRC; the old
directory's kinds stand until S. A tile that takes items from a FAULTED tile is FAULTED itself, for its rebuild under R85. -/
def Mod.migrate (m : Mod) (old new : Plan) : Mod :=
  let ds := migTiles old new
  let r := m.masterLoads 9 (ds.flatMap (migSources old new)).eraseDups
  let m := r.1
  let ls := r.2.getD []
  let bs := ds.map (fun d => (d.tile, migBytes ls old new d,
    (migSources old new d).any (fun t => match mapGet t ls with | some (.data _) => false | _ => true)))
  let m := bs.foldl (fun m x => (m.putTile x.1 x.2.1).setDir x.1 { ((m.putTile x.1 x.2.1).dirEnt x.1) with faulted := x.2.2 }) m
  { m with plan := { m.plan with migrated := true } }

/-- A point that the old plan wrote only from tasks that the candidate does not have and that the candidate does not write (R83). -/
def orphan (old new : Plan) (p : PointDef) : Bool :=
  p.writer.isNone && p.originOf != 5 && p.originOf != 6
    && old.points.any (fun q => q.idx == p.idx && (match q.writer with | some w => !new.tasks.any (fun t => t.idx == w) | none => false))

/-- A tile of the candidate is present (R81, final check): its content has the CRC it was written with. -/
def Mod.present (m : Mod) (t : Nat) : Bool := tileCrc t (m.tileBytes t) == (m.dirEnt t).crc

/-- At S the directory is the candidate's (R81): kinds, writers, and the CRCs of what was written; tiles only the old plan
used become FREE. A tile that is FAULTED, or that the final check finds absent, is FAULTED (log entry 119). Forces stay where index and TYPE do (R82). -/
def Mod.swapDir (m : Mod) (old new : Plan) : Mod :=
  let dir := new.tiles.foldl (fun l d => if d.kind = .free then l else
    mapPut d.tile { d.entry [] with crc := (m.dirEnt d.tile).crc, faulted := (m.dirEnt d.tile).faulted || !m.present d.tile } l) []
  { m with mem := { m.mem with
    dir := dir
    pmap := new.points.foldl (fun l (p : PointDef) => mapPut p.idx (PMapEnt.mk p.tile p.slot p.ty) l) []
    before := m.mem.before.filter (fun f => new.points.any (fun p => p.idx == f.1 && (old.keptPoint p).isSome))
    forces := m.mem.forces.filter (fun f => new.points.any (fun p => p.idx == f.1 && (old.keptPoint p).isSome)) } }

/-- Outputs that a plan binds. -/
def Plan.boundOuts (pl : Plan) : List Nat := pl.launched ++ pl.loopOuts ++ pl.jackOuts

/-- R83 at S: points left without a writer and the outputs of R83. -/
def Mod.swapOrphans (m : Mod) (old new : Plan) : Mod :=
  let gone := old.boundOuts.filter (fun o => !new.boundOuts.contains o)
  new.points.foldl (fun m p =>
    if orphan old new p then
      let m := match mapGet p.idx m.mem.pmap with
        | some e => m.changeRec e (fun r => { r with val := encodeVal p.ty p.init, qual := 0, age := 0, chg := 0 })
        | none => m
      match p.bind with | .out o => m.reqSafeList [o] 3 | _ => m
    else m) (m.reqSafeList gone 3)

/-- A change of INV inverts the filtered state, and a value that CHATTER holds (R249). -/
def Mod.swapDi (m : Mod) (old new : Plan) : Mod :=
  (List.finRange 48).foldl (fun m (n : Fin 48) =>
    if (imgWord old (R.FIO_DI_CFG n.val)).getLsbD 10 != (imgWord new (R.FIO_DI_CFG n.val)).getLsbD 10 then
      let m := m.setB (F.FIO_DI_STATUS_FILTERED n.val) (!m.flag (F.FIO_DI_STATUS_FILTERED n.val))
      let m := m.setB (F.FIO_DI_STATUS_VALUE n.val) (!m.flag (F.FIO_DI_STATUS_VALUE n.val))
      let m := m.diMap n (fun d => { d with changes := (m.clk.mono :: d.changes).take 256 })
      m.when (!m.flag (F.FIO_DI_STATUS_FILTERED n.val)) (fun m => m.set (F.FIO_DI_STATUS_STUCK n.val) 0)
    else m) m

/-- A change of MODE or CONV restarts an AI's conversions (R249, R257: MODE and CONV in the low bits of CFG). -/
def Mod.swapAi (m : Mod) (old new : Plan) : Mod :=
  (List.finRange 16).foldl (fun m (n : Fin 16) =>
    let a := (imgWord old (R.FIO_AI_CFG n.val)).toNat
    let b := (imgWord new (R.FIO_AI_CFG n.val)).toNat
    let f := F.FIO_AI_CFG_MODE n.val
    let g := F.FIO_AI_CFG_CONV n.val
    if bits a f.lo f.width ≠ bits b f.lo f.width ∨ bits a g.lo g.width ≠ bits b g.lo g.width then
      (m.set (F.FIO_AI_VALUE_VALUE n.val) 0).aiMap n (fun x => { x with first := false })
    else m) m

/-- AO and LT channels whose mode, range or scaling changes wait for their class's launch (R249). -/
def Mod.swapAo (m : Mod) (old new : Plan) : Mod :=
  let ao := (List.range 8).filter (fun n =>
    [R.FIO_AO_CFG n, R.FIO_AO_SC_LO n, R.FIO_AO_SC_HI n].any (fun a => imgWord old a != imgWord new a))
  let lt := (List.range 8).filter (fun n => imgWord old (R.LTX_CFG n) != imgWord new (R.LTX_CFG n))
  { m with fio := { m.fio with waitLaunch := (m.fio.waitLaunch ++ ao.map (24 + ·) ++ lt.map (40 + ·)).eraseDups } }

/-- Loops at S (R189): a loop with the same number keeps its state, and its tuning where its definition is identical; a test is
aborted. -/
def Mod.swapLoops (m : Mod) (old new : Plan) : Mod :=
  let m := m.abortTests
  let m := { m with loops := m.loops.filter (fun l => new.loops.any (fun d => d.num == l.1)) }.dropLoops (some old) new
  new.loops.foldl (fun m d =>
    match old.loops.find? (fun x => x.num == d.num) with
    | none => m.loopLoad d
    | some o =>
      if o = d then m
      else (List.range 12).foldl (fun m k => m.setWord (R.LOOP_CFG d.num + 4 * k) (d.words.getD k 0)) m) m

/-- LOOP_LATCH entries of the old Drum whose instant is S fire first (R190). -/
def Mod.lastLatches (m : Mod) : Mod :=
  (m.drum.filter (fun e => drumKind e == dkLoopLatch && drumNs e == 0)).foldl (fun m e =>
    if m.latchNow (drumTarget e) then m.loopLatch (drumTarget e) else m) m

/-- The Jack path at S (R168, R169): a latch stays where the entry is identical; an entry that changed is a new one. -/
def Mod.swapJack (m : Mod) (old new : Plan) : Mod :=
  let same (i : Nat) : Bool := old.jack[i]? == new.jack[i]?
  ({ m with jack := { m.jack with latched := m.jack.latched.filter same, active := m.jack.active.filter same } }).jackEval

/-- The swap at S in one step (R81, R83, R101, R249, R255). -/
def Mod.swapPlan (m : Mod) (old new : Plan) : Mod :=
  let m := m.lastLatches
  let was := m
  let m := (((m.swapDi old new).swapAi old new).swapAo old new).planRegs (some old) new
  let m := m.siRefresh was
  let m := ((m.swapDir old new).swapLoops old new).swapOrphans old new
  let m := (({ m with plan := { m.plan with
      active := some new, armed := none, armSafe := none, armRecord := true, deferred := 0, newDone := false, migrated := false, replan := false
      swapped := some m.clk.ns } }).planPorts new).planLt.planMeter new
  let m := (m.setB F.DRUM_STATUS_BANK (!m.flag F.DRUM_STATUS_BANK)).putDrum (!m.flag F.DRUM_STATUS_BANK) new.drum
  let id := m.get F.PLAN_ACTIVE_ID_ID
  let m := (m.planShow new).set F.PLAN_ACTIVE_ID_ID id
  let m := m.set F.TILE_STATUS_FAULTED (faultedCount m.mem.dir)
  let m := { m with exec := { m.exec with
    safeCopy := if m.exec.hardReq then m.exec.safeCopy else some new.safe
    rstaged := m.exec.rstaged.filter (fun x => new.points.any (fun p => p.idx == x.1))
    rlaunched := m.exec.rlaunched.filter (fun x => new.points.any (fun p => p.idx == x.1)) } }
  m.swapJack old new

end Sys2Proof.Machine
end

