-- ==== Sys2Proof/Machine/Verify.lean ====
section
/-! DEFINITION. Verification of a plan image (R53, R54, R61 to R65, R71 to R76, R97, R115, R125, R132 to R137, R140 to R143, R173 to R178): the
checks of R76 as decidable functions of the plan, and the first that fails with its DETAIL. -/

namespace Sys2Proof.Machine

/-- The index of the first item that fails. -/
def firstBad {α : Type} (l : List α) (bad : α → Bool) (idx : α → Nat) : Option Nat := (l.find? bad).map idx

/-- The first answer there is. -/
def firstOf (l : List (Option Nat)) : Option Nat := (l.filterMap id).head?

/-- DETAIL of a section as a whole (R53): bit 23 and the section's number. -/
def sectionDetail (n : Nat) : Nat := 2 ^ 23 + n

/-- A condition on a section as a whole. -/
def sectionBad (n : Nat) (bad : Bool) : Option Nat := if bad then some (sectionDetail n) else none

/-- An item's value stands at an earlier place of a list too. -/
def repeats {α β : Type} [BEq β] (l : List α) (f : α → β) (idx : α → Nat) : Option Nat :=
  ((List.range l.length).find? (fun i => match l[i]? with
    | some x => (l.take i).any (fun y => f y == f x)
    | none => false)).bind (fun i => (l[i]?).map idx)

/-! ### Checks 1 to 5 -/

/-- Check 1 (R72, R73): header, digests and section CRCs, and a section table that has each section of R73 once. Log entry 115: the section
table and the size of R74 are examined here, with DETAIL 0. -/
def check1 (hw : Nat) (pl : Plan) : Option Nat :=
  if pl.magic = 0x4D484349 ∧ pl.format = 2 ∧ pl.hwType = hw ∧ pl.digestsOk ∧ pl.id = pl.digest % 2 ^ 32
    ∧ pl.imgIds.length = 16 ∧ (List.range 16).all (fun k => pl.imgIds.contains (k + 1)) ∧ pl.pkgBytes + pl.bytes ≤ 4194304 then none else some 0

/-- A point's type is the one its binding asks for (R232). -/
def bindTypeOk (p : PointDef) : Bool :=
  match p.bind with
  | .di _ => p.ty == 1
  | .si _ => p.ty == 1
  | .alarm _ => p.ty == 1
  | .doRb _ => p.ty == 1
  | .cnt _ => p.ty == 3
  | .ai _ => p.ty == 4
  | .aoRb _ => p.ty == 4
  | .ltRb _ => p.ty == 4
  | .out o => if o < 24 ∨ (32 ≤ o ∧ o < 40) then p.ty == 1 else p.ty == 4
  | _ => 1 ≤ p.ty && p.ty ≤ 5

/-- An AO's scaling may be used (R247). -/
def aoScaleOk (pl : Plan) (n : Nat) : Bool :=
  let lo := (imgWord pl (R.FIO_AO_SC_LO n)).toNat
  let hi := (imgWord pl (R.FIO_AO_SC_HI n)).toNat
  !(fIsNan b32 lo || fIsInf b32 lo || fIsNan b32 hi || fIsInf b32 hi || fEq b32 lo hi)

/-- The code of some task names an instance. -/
def Plan.usesInsts (pl : Plan) : Bool :=
  pl.tasks.any (fun t => (instrsOf (pl.code t)).any (fun x => wForm x.2.1 == some .f || wForm x.2.1 == some .m || wForm x.2.1 == some .mx))

/-- Every binding of one channel gives the same settings (R232). -/
def Plan.chanOk (pl : Plan) (p : PointDef) : Bool :=
  p.bind == .free || pl.points.all (fun q => q.bind != p.bind || q.chan == p.chan)

/-- A loop binding keeps the table of R173, R174 and R187: REAL32 points, an OUT of ORIGIN 6 that only the engine writes, a period that its classes
divide, an actuator of its own with limits in its range, an outer loop of a whole multiple of its period. -/
def Plan.loopOk (pl : Plan) (d : LoopDef) : Bool :=
  let real (i : Nat) : Bool := pl.points.any (fun p => p.idx == i && p.ty == 4)
  let lo := d.fld 8 (F.LOOP_OUT_LO_LO 0)
  let hi := d.fld 9 (F.LOOP_OUT_HI_HI 0)
  let within (a b x : Nat) : Bool := fLe b32 a x && fLe b32 x b
  let range : Option (Nat × Nat) := match actOutput d.act with
    | some o =>
      if o.val < 32 then
        let a := imgFld pl (F.FIO_AO_SC_LO_SC (o.val - 24))
        let b := imgFld pl (F.FIO_AO_SC_HI_SC (o.val - 24))
        some (fMin b32 a b, fMax b32 a b)
      else some (fOfRat b32 38 10, fOfRat b32 205 10)
    | none => none
  real d.pv && real d.sp && d.sp != d.out
    && pl.points.any (fun p => p.idx == d.out && p.ty == 4 && p.originOf == 6 && p.writer.isNone)
    && pl.tasks.all (fun t => !(pl.writtenPts t).contains d.out)
    && decide (0 < d.ms) && d.ms % ((pl.pointAt d.pv).map (fun p => pl.classMs p.cls)).getD 1 == 0
    && decide (d.cls < pl.classes.length) && d.ms % pl.classMs d.cls == 0
    && (1000 % d.ms == 0 || (d.ms % 1000 == 0 && decide (2 ≤ d.ms / 1000 ∧ d.ms / 1000 ≤ 60)))
    && fLe b32 lo hi && within lo hi d.initOut.toNat
    && (match range with | some r => within r.1 r.2 lo && within r.1 r.2 hi | none => true)
    && (match actOutput d.act with
        | some o => pl.loops.all (fun e => e.num == d.num || e.type == 0 || e.act != d.act) && !pl.points.any (fun p => p.bind == .out o.val)
        | none => true)
    && (match d.outer with
        | some n => n != d.num && pl.loops.any (fun e => e.num == n && e.type != 0 && decide (0 < e.ms) && e.ms % d.ms == 0)
        | none => true)

/-- The protocols a port carries (R284). -/
def protoOk (p proto : Nat) : Bool :=
  proto == 0 || (if p < 2 then proto == 1 else if p < 6 then decide (2 ≤ proto ∧ proto ≤ 4) else if p < 8 then proto == 5
    else if p = 8 then proto == 6 else proto == 7)

/-- A port keeps the limits of chapter 11 (R284, R288, R292, R293, R303). -/
def Plan.portOk (pl : Plan) (p : Nat) : Bool :=
  protoOk p (imgFld pl (F.FBUS_CFG_PROTO p)) && decide (imgFld pl (F.FBUS_CFG_PASS p) ≤ 200)
    && decide ((pl.filters.filter (fun x => x.1 == p)).length ≤ 128) && decide ((pl.rxObjs.filter (fun x => x.1 == p)).length ≤ 256)
    && (!(decide (9 ≤ p ∧ p ≤ 16) && imgFld pl (F.FBUS_PWR_CFG_PWR_EN p) == 1)
        || decide (5 ≤ imgFld pl (F.FBUS_PWR_CFG_LIMIT p) ∧ imgFld pl (F.FBUS_PWR_CFG_LIMIT p) ≤ 80))

/-- A remote point's binding keeps the limits of R286, R289 and R293. -/
def Plan.remOk (pl : Plan) (b : RemBind) : Bool :=
  decide (b.byte ≤ 255 ∧ b.bit ≤ 7 ∧ 1 ≤ b.len ∧ b.len ≤ 64 ∧ b.port < 19)
    && (b.obj.isNone || decide (1 ≤ b.rxTimeout ∧ b.rxTimeout ≤ 65534))
    && (b.obj.isSome || (pl.reqs.filter (fun r => r.port == b.port && r.points.contains b.point)).length == 1)

/-- A Modbus request has a function code of R297. -/
def Plan.reqFc (pl : Plan) (r : PollReq) : Bool :=
  let proto := imgFld pl (F.FBUS_CFG_PROTO r.port)
  (proto != prRtu && proto != prTcp) || (if r.write then [5, 6, 15, 16] else [1, 2, 3, 4]).contains r.fc

/-- The half of the indices in which a Two-hand plan homes its own points (R361): that of its first point that is no mirror. -/
def Plan.home (pl : Plan) : Nat := ((pl.points.find? (fun p => !p.isMirror)).map (fun p => p.idx / 4096)).getD 0

/-- Check 2 (R53, R54, R115, R173, R199, R232, R247, R266, R284 to R293, R297, R303, R361, R363). Log entry 116: a loop that breaks R173 and a SAFETY task or a
safety point outside the safety class are reported here. -/
def check2 (pl : Plan) : Option Nat :=
  let maxPt := if pl.twoHand then 8192 else 4096
  let safeCls := pl.safetyClass.getD 0
  firstOf
    [ firstBad [1, 2, 3, 4, 9, 10] (fun n => !pl.sections.contains n) sectionDetail
    , sectionBad 5 (!pl.sections.contains 5 && (!pl.insts.isEmpty || pl.usesInsts))
    , sectionBad 1 (pl.classes.isEmpty || decide (8 < pl.classes.length))
    , sectionBad 2 (decide (maxPt < pl.points.length))
    , sectionBad 3 (decide (2048 < (pl.tiles.filter (fun t => t.kind == .code || t.kind == .const)).length))
    , sectionBad 4 (decide (1024 < (pl.tasks.filter (fun t => !t.transfer && t.safetyCopy != 2)).length))
    , sectionBad 5 (decide (16384 < pl.insts.length))
    , sectionBad 6 (decide (256 < pl.loops.length))
    , sectionBad 7 (decide (96 < (pl.meter.filter (fun d => decide (d.ch < 96))).length))
    , sectionBad 7 (pl.meter.any (fun d => decide (102 ≤ d.ch) || (decide (d.ch < 96) && (decide (5 < d.vch) || !pl.scopes.any (fun x => x.scope == d.scope)))
        || (decide (96 ≤ d.ch) && pl.meter.any (fun e => decide (96 ≤ e.ch) && (e.ch - 96) / 3 == (d.ch - 96) / 3 && e.f60 != d.f60))))
    , sectionBad 9 (pl.scopes.isEmpty || decide (256 < pl.scopes.length) || !pl.scopes.any (fun x => x.scope == 0))
    , sectionBad 11 (decide (64 < pl.jack.length))
    , sectionBad 12 (pl.twoHand && pl.shadow)
    , firstBad (List.range pl.classes.length) (fun i =>
        match pl.classes[i]? with
        | some c => decide (7 < c.period) || decide (c.launch = 0) || decide (periodMs c.period * 1000000 ≤ c.launch)
            || decide (c.deadline < 10) || decide (95 < c.deadline)
            || (pl.classes.take i).any (fun d => d.period == c.period)
        | none => true) id
    , firstBad pl.points (fun p => decide (maxPt ≤ p.idx) || decide (pl.classes.length ≤ p.cls) || !bindTypeOk p || !pl.chanOk p) (·.idx)
    , firstBad pl.points (fun p => match p.bind with
        | .out o => decide (24 ≤ o ∧ o < 32) && !aoScaleOk pl (o - 24)
        | _ => false) (·.idx)
    , (if pl.twoHand then firstBad pl.points (fun p => (p.idx / 4096 == pl.home) == p.isMirror) (·.idx) else none)
    , firstBad pl.tasks (fun t => decide (7 < t.hint) || decide (pl.classes.length ≤ t.cls)
        || (t.safetyCopy != 0 && (t.cls != safeCls || decide (10 < pl.classMs safeCls)))) (·.idx)
    , firstBad pl.points (fun p => pl.safetyClass.isSome && p.isSafety && p.cls != safeCls) (·.idx)
    , firstBad pl.reqs (fun r =>
        let cs := r.points.filterMap (fun i => (pl.pointAt i).map (·.cls))
        cs.any (fun c => c != cs.headD 0) || decide (8 < r.frames.length) || (!r.needsReply && r.timeout != 0)) (·.idx)
    , firstBad pl.reqs (fun r => !pl.reqFc r) (·.idx)
    , firstBad pl.remotes (fun b => !pl.remOk b) (·.point)
    , firstBad (List.range 19) (fun p => !pl.portOk p) id
    , sectionBad 8 (decide (320 < (List.range 19).foldl (fun a p => a + imgFld pl (F.FBUS_PWR_CFG_LIMIT p)) 0))
    , (if 32704 < pl.retainBytes then some pl.retainBytes else none)
    , (let n := ((pl.retain.filterMap (fun x =>
          if x.1 = 1 then (pl.pointAt x.2).map (·.tile)
          else if x.1 = 5 then none
          else (pl.insts.find? (fun i => i.id == x.2)).map (·.tile))).eraseDups).length
       if 2285 < n then some n else none)
    , (repeats pl.loops (·.num) (·.num)).or (firstBad pl.loops (fun d => decide (256 ≤ d.num) || (d.type != 0 && !pl.loopOk d)) (·.num))
    , firstBad [0, 1] (fun dir => decide (512 < (pl.mirrored dir).length)) id ]

/-- Check 3. -/
def check3 (pl : Plan) : Option Nat :=
  firstOf
    [ firstBad (List.range pl.insts.length) (fun i => match pl.insts[i]? with
        | some d => (pl.insts.take i).any (fun e => e.id == d.id) | none => true) id
    , firstBad (List.range pl.points.length) (fun i => match pl.points[i]? with
        | some d => (pl.points.take i).any (fun e => e.idx == d.idx) | none => true) (fun i => ((pl.points[i]?).map (·.idx)).getD i) ]

/-- The masters that write a tile (R32, R58): the lanes whose tasks store to it, the loop engine for an OUT point, the metrology DSP for a meter point,
the owner of a circular-buffer window. -/
def Plan.tileWriters (pl : Plan) (t : Nat) : List Nat :=
  (((pl.tasks.filter (fun (d : TaskDef) => d.stores.contains t)).map TaskDef.lane)
    ++ (if pl.points.any (fun p => p.tile == t && p.originOf == 6) then [8] else [])
    ++ (if pl.points.any (fun p => p.tile == t && p.originOf == 5) then [12] else [])
    ++ ((List.range 16).filter (fun w => pl.cbwTiles w |>.contains t)).map (fun w => imgFld pl (F.CBW_STATUS_OWNER w))).eraseDups

/-- The task that a point names as its writer stores to the point's tile. -/
def Plan.writerOk (pl : Plan) (p : PointDef) : Bool :=
  match p.writer with
  | some w => pl.tasks.any (fun t => t.idx == w && t.stores.contains p.tile && (pl.writtenPts t).contains p.idx)
  | none => true

/-- A copy of a SAFETY task keeps to its half of lanes and banks and has its twin there (R265). -/
def Plan.safetyOk (pl : Plan) (d : TaskDef) : Bool :=
  let half := d.safetyCopy - 1
  let own (t : TaskDef) : List Nat := t.stores ++ t.tiles.filter (fun x => pl.tiles.any (fun k => k.tile == x && (k.kind == .code || k.kind == .const || k.kind == .inst)))
  d.lane / 4 == half && (own d).all (fun t => t / 4096 == half)
    && pl.tasks.any (fun e => e.safetyCopy + d.safetyCopy == 3 && e.cls == d.cls && e.lane / 4 != d.lane / 4 && !(own e).any (own d).contains)

/-- Check 4 (R32, R265, R362). A tile that no master of R58 writes has its one writer in its directory entry. -/
def check4 (pl : Plan) : Option Nat :=
  firstOf
    [ firstBad pl.tiles (fun d => d.kind != .free &&
        (bitAt pl.excluded (d.tile / 1024) || decide (12 < d.writer) || decide (1 < (pl.tileWriters d.tile).length)
          || (pl.tileWriters d.tile).any (fun l => l != d.writer))) (·.tile)
    , firstBad pl.points (fun p => !pl.writerOk p) (·.tile)
    , firstBad pl.tasks (fun d => d.safetyCopy != 0 && !pl.safetyOk d) (·.idx)
    , (if pl.twoHand then firstBad pl.tasks (fun d =>
        let w := pl.writtenPts d
        w.any (fun p => decide (p < 4096)) && w.any (fun p => decide (4096 ≤ p))) (·.idx) else none) ]

/-- Check 5 (R33). -/
def check5 (pl : Plan) : Option Nat :=
  firstBad pl.tiles (fun d => d.kind != .free && d.kind != .history && d.kind != .mirror && tileCrc d.tile d.data != d.crc) (·.tile)

/-! ### Check 6: the code -/

/-- Fields of a form that must be zero, and what its words themselves fix (R128, R132, R134). -/
def formOk (w w2 : Nat) : Bool :=
  let op := wOp w
  match opForm op with
  | none => false
  | some (.n, _) => bits w 0 20 == 0 && (op == 0x1E || op == 0x83 || bits w 20 4 == 0)
  | some (.p, _) => bits w 13 7 == 0
  | some (.i, _) => true
  | some (.x, _) => bits w 0 20 == 0
  | some (.k, _) => bits w 13 7 == 0
  | some (.kx, _) => bits w 13 3 == 0 && decide (1 ≤ w2 ∧ w2 ≤ 255)
  | some (.r, _) => bits w 0 12 == 0
  | some (.ri, _) => op != 0x82 || (bits w 16 4 == 0 && bits w 0 16 &&& 0xFFEB == 0)
  | some (.c, _) => bits w 4 8 == 0 && decide (bits w 0 4 ≤ 5)
  | some (.m, _) => bits w 19 1 == 0
  | some (.mx, _) => bits w 19 1 == 0 && bits w2 4 4 == 0 && bits w2 13 19 == 0
  | some (.b, _) => op != 0x02 || bits w 20 4 == 0
  | some (.rpt, _) => decide (bits w 11 9 ≤ 255) && decide (1 ≤ bits w 0 11)
  | some (.f, _) => bits w 14 6 == 0

/-- Registers a standard block's inputs take (R137). -/
def blockRegs (op : Nat) : Nat := match op with | 0xA3 => 3 | 0xA4 => 3 | 0xA5 => 1 | 0xA6 => 1 | _ => 2

/-- The instance an operand names, of a type and owned by the task (R137, R140). -/
def instOk (pl : Plan) (task btype num : Nat) : Option InstDef :=
  pl.insts.find? (fun d => d.num == num && d.btype == btype && d.owner == task)

/-- One instruction of a task's code against the plan (R76 check 6, R132, R133, R137, R140, R142, R143). -/
def instrOk (pl : Plan) (t : TaskDef) (ws starts : List Nat) (pc : Nat) : Bool :=
  let w := ws.getD pc 0
  let w2 := ws.getD (pc + 1) 0
  let op := wOp w
  formOk w w2 &&
  (match opForm op with
   | none => false
   | some (fm, _) =>
     decide (pc + fm.words ≤ ws.length) &&
     (match fm with
      | .p => pl.points.any (fun p => p.idx == bits w 0 13) && (t.transfer || (op != 0xF0 && op != 0xF1))
      | .k => decide (bits w 0 13 < 32 * pl.consts.length)
      | .kx => decide (bits w 0 13 + w2 ≤ 32 * pl.consts.length)
      | .m => (match instOk pl t.idx 0x10 (bits w 0 14) with | some d => decide (bits w 14 5 < d.members) | none => false)
      | .mx => (match instOk pl t.idx 0x10 (bits w 0 14) with
          | some d => decide (bits w 14 5 + bits w2 8 5 < d.members) | none => false)
      | .b => decide (pc + 1 + bits w 0 20 = ws.length) || starts.contains (pc + 1 + bits w 0 20)
      | .f => (instOk pl t.idx (op - 0xA0 + 1) (bits w 0 14)).isSome && decide (bits w 20 4 + blockRegs op ≤ 16)
      | _ => true) &&
     ((op != 0x83 && op != 0x84) || t.substLogic))

/-- REPEAT bodies nest at most 4 deep, each wholly inside the one that encloses it (R134). -/
def repeatsOk (ws starts : List Nat) : Bool :=
  let rs := starts.filterMap (fun pc =>
    let w := ws.getD pc 0
    if wOp w = 0x06 then some (pc, pc + 1 + bits w 0 11) else none)
  rs.all (fun r => decide (r.2 ≤ ws.length) && (r.2 == ws.length || starts.contains r.2)
    && rs.all (fun q => !(decide (q.1 < r.1) && decide (r.1 < q.2)) || decide (r.2 ≤ q.2))
    && decide ((rs.filter (fun q => decide (q.1 ≤ r.1) && decide (r.1 < q.2))).length ≤ 4))

/-- The tiles that a task loads are its code tiles and those its code touches, and it writes back those its store instructions name (R124); a task of
the planner also loads the CONST tile of its bindings (R143). -/
def Plan.setsOk (pl : Plan) (t : TaskDef) : Bool :=
  let own := t.tiles.drop t.codeTiles
  let set := pl.tileSet t
  let more := own.filter (fun x => !set.1.contains x)
  let kindIs (k : TileKind) (x : Nat) : Bool := pl.tiles.any (fun d => d.tile == x && d.kind == k)
  (t.tiles.take t.codeTiles).all (kindIs .code) && t.tiles.eraseDups.length == t.tiles.length && set.1.all own.contains
    && (if t.transfer then more.length == 1 && more.all (kindIs .const) else more.isEmpty)
    && set.2.all t.stores.contains && t.stores.all set.2.contains && t.stores.eraseDups.length == t.stores.length

/-- Check 6 of one task (R124, R125, R132 to R137, R140 to R143). -/
def taskOk (pl : Plan) (t : TaskDef) : Bool :=
  let ws := pl.code t
  let st := instrStarts (ws.length + 1) 0 ws
  decide (t.tiles.length ≤ 32) && decide (t.codeTiles ≤ 16) && decide (t.words ≤ 64 * t.codeTiles) && decide (1 ≤ t.words)
    && st.all (fun pc => instrOk pl t ws st pc) && repeatsOk ws st && pl.setsOk t

/-- An instance lies at an 8-byte-aligned offset within one INSTANCE tile, and the image's STATE word of a standard block has the block's TYPE (R136,
R140). -/
def Plan.instPlaced (pl : Plan) (i : InstDef) : Bool :=
  i.off % 8 == 0 && decide (i.off + instSize i ≤ 256) && decide (i.members ≤ 32)
    && pl.tiles.any (fun d => d.tile == i.tile && d.kind == .inst
        && (i.btype == 0x10 || bits (ofLe ((d.data.drop i.off).take 4)) 8 8 == i.btype))

def check6 (pl : Plan) : Option Nat :=
  firstOf [firstBad pl.tasks (fun t => !taskOk pl t) (·.idx), firstBad pl.insts (fun i => !pl.instPlaced i) (·.owner)]

/-! ### Checks 7 to 9: time -/

/-- Two accesses of a burst meet in a bank in one FCLK cycle. -/
def slotsMeet (a b : BankSlot) : Bool :=
  a.burst == b.burst && a.bank == b.bank && decide (a.at_ < b.at_ + b.len) && decide (b.at_ < a.at_ + a.len)

/-- Check 7 (R9): no bank receives two accesses in one FCLK cycle, and none its slot before it is wanted. -/
def check7 (pl : Plan) : Option Nat :=
  firstBad (List.range pl.bankSlots.length) (fun i => match pl.bankSlots[i]? with
    | some x => (pl.bankSlots.take i).any (slotsMeet x) || decide (x.at_ < x.want) | none => true) id

/-- Check 8 (R64). -/
def check8 (pl : Plan) : Option Nat := firstBad pl.tasks (fun t => taskTime pl t != t.wcet) (·.idx)

/-- The class of a mask with the shortest period (R97). -/
def Plan.shortest (pl : Plan) (mask : Nat) : Option Nat :=
  ((List.range pl.classes.length).filter (fun c => bitAt mask c)).foldl (fun a c =>
    match a with
    | some b => if pl.classMs c < pl.classMs b then some c else some b
    | none => some c) none

/-- A burst keeps R65 for each class that runs in it, and R97 for the shortest class of its mask; else the class that fails. -/
def burstBad (pl : Plan) (e : BitVec 64) : Option Nat :=
  let t := drumNs e
  let ends := pl.taskEnds (drumTarget e) (drumArg e)
  firstOf
    [ firstBad (List.range pl.classes.length) (fun c =>
        let p := pl.classPeriod c
        let own := ends.foldl (fun a x => if x.1.cls = c then max a (fclkNs x.2) else a) 0
        let done := t % p + own
        let off := ((pl.classes[c]?).map (·.launch)).getD 0
        ends.any (fun x => x.1.cls == c) && (decide (p * 60 < done * 100) || decide (off < done + 2000))) id
    , (match pl.shortest (drumTarget e) with
       | some c =>
         let dl := pl.classPeriod c * ((pl.classes[c]?).map (·.deadline)).getD 80 / 100
         if dl < fclkNs (pl.burstEnd (drumTarget e) (drumArg e)) + 5000 then some c else none
       | none => none) ]

def check9 (pl : Plan) : Option Nat := ((pl.ofKind dkBurst).filterMap (burstBad pl)).head?

/-! ### Checks 10 to 13: the Drum, the regions, the ports -/

/-- The order of entries (R67): by instant, then KIND, then TARGET. -/
def drumLe (a b : BitVec 64) : Bool :=
  let key (e : BitVec 64) : Nat := drumFine e * 2 ^ 14 + drumKind e * 2 ^ 10 + drumTarget e
  decide (key a ≤ key b)

/-- An entry's fields lie in their ranges (R68, R69, R161): VERNIER holds the part of an instant below 1 ns, which for a latch is a quarter of a ns to
the nearest step. -/
def entryOk (e : BitVec 64) : Bool :=
  let k := drumKind e
  let t := drumTarget e
  let a := drumArg e
  let v := bits e.toNat 30 4
  decide (bits e.toNat 0 13 < 8000) && decide (bits e.toNat 13 17 < 125000)
    && (v == 0 || (k == dkLoopLatch && [2, 3, 5].contains v))
    && (match k with
        | 0 => t == 0 && a == 0 | 1 => t == 0 && a == 0 | 2 => t == 0 && a == 0
        | 3 => decide (t < 256) && a == 0 | 4 => decide (t < 256)
        | 5 => decide (t < 8) && a == 0 | 6 => decide (t < 256) && a == 0 | 7 => decide (t < 256) && a == 0
        | 8 => decide (t < 19) | 9 => t == 0 | 10 => decide (t < 2) | 11 => t == 0 | 12 => t == 0 && a == 0
        | 13 => decide (t < 15) && decide (a < 2) | _ => false)

/-- Check 10 (R67, R68, R178). -/
def check10 (pl : Plan) : Option Nat :=
  firstOf
    [ firstBad (List.range pl.drum.length) (fun i => match pl.drum[i]?, pl.drum[i + 1]? with
        | some a, some b => !drumLe a b || !entryOk a
        | some a, none => !entryOk a
        | _, _ => true) id
    , (if 16384 < pl.drum.length then some 16384 else none) ]

/-- The uses of FCLK in a hyperperiod, from and to in ns (R8, R15, R31, R161): bursts, windows, loop evaluations, mirror slots, launches and
latches. -/
def Plan.fclkUses (pl : Plan) : List (Nat × Nat) :=
  pl.drum.filterMap (fun e =>
    let t := drumNs e
    let k := drumKind e
    if k = dkBurst then some (t, t + fclkNs (pl.burstEnd (drumTarget e) (drumArg e)))
    else if k = dkMgmtWin ∨ k = dkMeterWin then some (t, t + 1000 * drumArg e)
    else if k = dkLoopRun then some (t, t + pl.evalNs)
    else if k = dkMirror then some (t, t + 1000)
    else if k = dkLaunch ∨ k = dkLoopLatch then some (t, t + 30)
    else none)

/-- A time in the hyperperiod and its repetitions in the hyperperiods before and after it. -/
def cyclic (t : Nat) : List Nat := [t, t + 1000000000, t + 2000000000]

/-- FCLK runs just before an instant of the middle one of three hyperperiods and is ready at it: it was never stopped, or woken at least 16 µs before
(R14). -/
def Plan.fclkOk (pl : Plan) (t : Nat) : Bool :=
  let es := pl.drum.filter (fun e => drumKind e == dkWakeF || drumKind e == dkStopF)
  match (es.reverse.find? (fun e => decide (drumNs e < t))).or es.getLast? with
  | none => true
  | some e =>
    let at_ := if drumNs e < t then drumNs e else drumNs e - 1000000000
    drumKind e == dkWakeF && (decide (at_ + 16000 ≤ t)
      || (match (es.reverse.find? (fun x => decide (drumNs x < drumNs e))).or es.getLast? with
          | some x => drumKind x == dkWakeF
          | none => true))

/-- A WAKE_F stands exactly 16 µs before an instant. -/
def Plan.wakeAt (pl : Plan) (t : Nat) : Bool := (pl.ofKind dkWakeF).any (fun e => drumNs e == (t + 1000000000 - 16000) % 1000000000)

/-- A STOP_F keeps R15 and R71: no use is in progress, the gap from the end of the last use to the next use is at least 68 µs, and PLL-F runs through
the swap window. -/
def Plan.stopOk (pl : Plan) (e : BitVec 64) : Bool :=
  let s := drumNs e
  let us := pl.fclkUses
  let s1 := s + 1000000000
  let ends := us.flatMap (fun u => cyclic u.2) |>.filter (fun x => decide (x ≤ s1))
  let starts := us.flatMap (fun u => cyclic u.1) |>.filter (fun x => decide (s1 < x))
  decide (s < 7998 * 125000) && us.all (fun u => (cyclic u.1).all (fun x => !(decide (x ≤ s1) && decide (s1 < x + (u.2 - u.1)))))
    && (match ends.max?, starts.min? with | some a, some b => decide (a + 68000 ≤ b) && decide (s1 + 68000 ≤ b) | _, _ => true)
    && pl.fclkOk (7998 * 125000)

/-- Kinds that the swap window holds none of (R71). -/
def notInWindow (k : Nat) : Bool := [dkBurst, dkLoopRun, dkPoll, dkMeterWin, dkMirror].contains k

/-- The bursts of the plan: T0, planned end and mask. -/
def Plan.bursts (pl : Plan) : List (Nat × Nat × Nat) :=
  (pl.ofKind dkBurst).map (fun e => (drumNs e, drumNs e + fclkNs (pl.burstEnd (drumTarget e) (drumArg e)), drumTarget e))

/-- The management windows are placed as R61 says; else the Drum slot where one is missing or wrong. -/
def windowsBad (pl : Plan) : Option Nat :=
  let ws := (pl.ofKind dkMgmtWin).map drumNs
  let bs := pl.bursts
  let slot (t : Nat) : Nat := t / 125000 % 8000
  let overlaps (w : Nat) : Bool := bs.any (fun b => (cyclic b.1).any (fun x =>
    decide (w + 1000000000 < x + (b.2.1 - b.1)) && decide (x < w + 1000000000 + 20000)))
  firstOf
    [ firstBad (pl.ofKind dkMgmtWin) (fun e => drumArg e != 20 || overlaps (drumNs e)) (fun e => bits e.toNat 0 13)
    , firstBad (List.range ws.length) (fun i =>
        let a := ws.getD i 0
        let b := if i + 1 < ws.length then ws.getD (i + 1) 0 else ws.getD 0 0 + 1000000000
        decide (a + 10000000 < b)) (fun i => slot (ws.getD i 0 + 10000000))
    , (if ws.isEmpty then some 0 else none)
    , firstBad bs (fun b => (List.range 8).any (fun c => bitAt b.2.2 c && decide (pl.classPeriod c ≤ 10000000))
        && !ws.any (fun w => [w, w + 1000000000].any (fun x => decide (b.2.1 ≤ x) && decide (x ≤ b.2.1 + 1000000)))) (fun b => slot (b.2.1 + 1000000)) ]

/-- Check 11 (R14, R15, R61, R71). -/
def check11 (pl : Plan) : Option Nat :=
  firstOf
    [ firstBad (List.range pl.drum.length) (fun i => match pl.drum[i]? with
        | some e =>
          let k := drumKind e
          let t := drumNs e
          (notInWindow k && decide (7998 ≤ bits e.toNat 0 13))
            || (k == dkBurst && (!pl.wakeAt t || !pl.fclkOk t))
            || ((k == dkLaunch || k == dkLoopLatch) && !pl.wakeAt t && !pl.fclkOk t)
            || ((k == dkLoopRun || k == dkMgmtWin || k == dkMeterWin || k == dkMirror) && !pl.fclkOk t)
            || (k == dkStopF && !pl.stopOk e)
        | none => true) id
    , windowsBad pl ]

/-- A stretch of bus addresses in units of 256 bytes, with what a master needs of it: read, write, fetch. -/
structure Need where
  lo : Nat
  hi : Nat
  r : Bool := false
  w : Bool := false
  x : Bool := false
deriving DecidableEq, Repr

/-- A region of a plan: master, base and limit in tiles, R, W, X, where it is enabled. -/
def Plan.region (pl : Plan) (mst k : Nat) : Option Need :=
  if imgFld pl (F.REGION_ATTR_EN mst k) = 1 then
    some ⟨imgFld pl (F.REGION_BASE_BASE mst k), imgFld pl (F.REGION_LIMIT_LIMIT mst k), imgFld pl (F.REGION_ATTR_R mst k) == 1,
      imgFld pl (F.REGION_ATTR_W mst k) == 1, imgFld pl (F.REGION_ATTR_X mst k) == 1⟩
  else none

def Plan.regions (pl : Plan) (mst : Nat) : List Need := (List.range 16).filterMap (pl.region mst)

/-- What a lane needs (R43, R124): fetch of its tasks' code tiles, reads of the tiles they load, writes of those they write back, and for transfer steps
the entries of the input image and the output staging (log entry 109). -/
def Plan.laneNeeds (pl : Plan) (lane : Nat) : List Need :=
  (pl.tasks.filter (fun t => t.lane == lane)).flatMap (fun t =>
    (t.tiles.take t.codeTiles).map (fun x => { lo := x, hi := x, x := true })
      ++ (t.tiles.drop t.codeTiles).map (fun x => { lo := x, hi := x, r := true })
      ++ t.stores.map (fun x => { lo := x, hi := x, w := true })
      ++ (instrsOf (pl.code t)).filterMap (fun x =>
        let a := bits x.2.1 0 13 / 32
        if wOp x.2.1 = 0xF0 then some { lo := 0x4000 + a, hi := 0x4000 + a, r := true }
        else if wOp x.2.1 = 0xF1 then some { lo := 0x4100 + a, hi := 0x4100 + a, w := true } else none))

/-- What another master needs: the loop engine its loops' points and its windows, the management core every tile in use, the frame pool and its own
SRAM, the frame engine the pool, the String link the mirrored tiles or, in Shadow mode, every tile, and the pool, the metrology DSP its meter tiles and its
windows (R43, R45, R173, R319, R363, R373; log entry 117). -/
def Plan.otherNeeds (pl : Plan) (mst : Nat) : List Need :=
  let tile (r w : Bool) (x : Nat) : Need := { lo := x, hi := x, r := r, w := w }
  let wins := (List.range 16).flatMap (fun k => if imgFld pl (F.CBW_STATUS_OWNER k) = mst then (pl.cbwTiles k).map (tile true true) else [])
  let pool : Need := { lo := 0x2000, hi := 0x3FFF, r := true, w := true }
  let used := (pl.tiles.filter (fun d => d.kind != .free)).map (·.tile)
  let at_ (i : Nat) : List Nat := ((pl.pointAt i).map (·.tile)).toList
  match mst with
  | 8 => wins ++ pl.loops.flatMap (fun d => if d.type = 0 then [] else
      (at_ d.pv ++ at_ d.sp).map (tile true false) ++ (at_ d.out).map (tile true true)
        ++ ((d.outer.bind (fun n => pl.loops.find? (fun e => e.num == n))).map (fun e => (at_ e.out).map (tile true false))).getD [])
  | 9 => pool :: { lo := 0x5000, hi := 0x5FFF, r := true, w := true } :: used.map (tile true true)
  | 10 => [pool]
  | 11 => (if pl.twoHand || pl.shadow then [pool] else [])
      ++ (if pl.shadow then used.map (tile true true) else (pl.mirrored 0).map (tile true false))
      ++ (if pl.twoHand then (pl.tiles.filter (fun d => d.kind == .mirror)).map (fun d => tile false true d.tile) else [])
  | _ => wins ++ (pl.points.filter (fun p => p.originOf == 5)).map (fun p => tile false true p.tile)

/-- Stretches cover all of `lo` to `hi`. -/
def covers : Nat → List (Nat × Nat) → Nat → Nat → Bool
  | 0, _, lo, hi => decide (hi < lo)
  | n + 1, ls, lo, hi => decide (hi < lo) || (match ls.find? (fun l => decide (l.1 ≤ lo) && decide (lo ≤ l.2)) with
    | some l => covers n ls (l.2 + 1) hi
    | none => false)

/-- Each of some stretches with an attribute lies in others with it. -/
def allCovered (f : Need → Bool) (a b : List Need) : Bool :=
  let ls := (b.filter f).map (fun n => (n.lo, n.hi))
  (a.filter f).all (fun n => covers (ls.length + 1) ls n.lo n.hi)

/-- Check 12 (R43): every master's regions cover exactly what it uses, with the attributes that its use needs; only lanes have X. -/
def check12 (pl : Plan) : Option Nat :=
  firstBad (List.range 13) (fun mst =>
    let need := if mst < 8 then pl.laneNeeds mst else pl.otherNeeds mst
    let rs := pl.regions mst
    rs.any (fun n => decide (n.hi < n.lo) || !(n.r || n.w || n.x))
      || [Need.r, Need.w, Need.x].any (fun f => !allCovered f need rs || !allCovered f rs need)) id

/-- The exchanges of the Drum: instant and request. -/
def Plan.polls (pl : Plan) : List (Nat × PollReq) :=
  (pl.ofKind dkPoll).filterMap (fun e => (pl.reqs.find? (fun r => r.port == drumTarget e && r.idx == drumArg e)).map (fun r => (drumNs e, r)))

/-- The class of a request's points (R286). -/
def Plan.reqClass (pl : Plan) (r : PollReq) : Option Nat := ((r.points.head?).bind pl.pointAt).map (·.cls)

/-- An exchange keeps R62 and R286: an input slot ends no later than the next freeze of its class, an output slot lies between two launches of its
class. -/
def Plan.pollOk (pl : Plan) (t : Nat) (r : PollReq) : Bool :=
  match pl.reqClass r with
  | none => true
  | some c =>
    let p := pl.classPeriod c
    let off := ((pl.classes[c]?).map (·.launch)).getD 0
    if r.write then decide ((t + p - off % p) % p + r.slot < p) else decide (t + r.slot ≤ (t / p + 1) * p)

/-- A Modbus RTU request's time on the wire with the silence before it, in ns rounded up (R285, R297): characters of 11 bits, 8 of them or 9 with the
data of function codes 15 and 16. -/
def rtuRequest (rate : Nat) (r : PollReq) : Nat :=
  let chars := if r.fc = 15 ∨ r.fc = 16 then 9 + r.len else 8
  if rate ≤ 19200 then ((2 * chars + 7) * 5500000000 + rate - 1) / rate else 1750000 + (chars * 11000000000 + rate - 1) / rate

/-- The slot of a request (R285): (RETRY + 1) × Ta + G, with Ta of the port's kind; what of Ta the package does not give (bus access, token rotation, lengths of
other protocols' frames) the image gives, above TO. -/
def Plan.slotOk (pl : Plan) (r : PollReq) : Bool :=
  let proto := imgFld pl (F.FBUS_CFG_PROTO r.port)
  let guard := if proto = prCan ∨ proto = prTcp then 20000 else 500000
  r.slot == (imgFld pl (F.FBUS_CFG_RETRY r.port) + 1) * r.attempt + guard && decide (r.timeout ≤ r.attempt)
    && (proto != prRtu || r.attempt == rtuRequest (imgFld pl (F.FBUS_RATE_BPS r.port)) r + r.timeout)

/-- Check 13 (R62, R285, R286): the polling slots of a port do not overlap, and each keeps its class's freeze or launches; else the port. -/
def check13 (pl : Plan) : Option Nat :=
  let ps := pl.polls
  firstOf
    [ firstBad (pl.ofKind dkPoll) (fun e => !pl.reqs.any (fun r => r.port == drumTarget e && r.idx == drumArg e)) drumTarget
    , firstBad (List.range ps.length) (fun i => match ps[i]? with
        | some x => !pl.pollOk x.1 x.2 || !pl.slotOk x.2 || (ps.take i).any (fun y => y.2.port == x.2.port && (decide (x.1 < y.1 + y.2.slot) || y.1 == x.1))
            || ps.any (fun y => y.2.port == x.2.port && decide (y.1 + 1000000000 < x.1 + x.2.slot))
        | none => true) (fun i => ((ps[i]?).map (·.2.port)).getD 0) ]

/-! ### Checks 14 to 18 -/

/-- A channel's quota in the plan, minimum and ceiling; one that the plan does not list keeps its floor. -/
def Plan.quota (pl : Plan) (c : Nat) : Nat × Nat := (mapGet c pl.quotas).getD (poolFloor c, poolFloor c)

/-- Check 14 (R63). -/
def check14 (pl : Plan) : Option Nat :=
  firstOf
    [ firstBad (List.range 12) (fun c =>
        let q := pl.quota c
        decide (q.1 < poolFloor c) || decide (q.1 < (mapGet c pl.traffic).getD 0) || decide (q.2 < q.1) || decide (8192 < q.2)) id
    , (if 8192 < (List.range 12).foldl (fun a c => a + (pl.quota c).1) 0 then some 12 else none) ]

/-- The LOOP_RUN and LOOP_LATCH entries of a loop in order. -/
def Plan.loopEntries (pl : Plan) (k n : Nat) : List (BitVec 64) := (pl.ofKind k).filter (fun e => drumTarget e == n)

/-- A delay within a hyperperiod as an entry's instant, the part below 1 ns to the nearest step of VERNIER (R161). -/
def latchFine (t : Nat) : Nat :=
  let f := t % 32 / 8
  t / 32 * 32 % 32000000000 + 5 * (if f = 0 then 0 else if f = 1 then 2 else if f = 2 then 3 else 5)

/-- A LOOP_RUN at `r` of the period that starts at `b` samples after the write-back of the loop's PV and SP tiles in the burst at `b`, and before a later
write to them (R175). -/
def Plan.sampledOk (pl : Plan) (d : LoopDef) (b r : Nat) : Bool :=
  let ts := [d.pv, d.sp].flatMap (fun i => ((pl.pointAt i).map (·.tile)).toList)
  (pl.ofKind dkBurst).all (fun e =>
    let t := drumNs e
    (pl.taskEnds (drumTarget e) (drumArg e)).all (fun x => !ts.any x.1.stores.contains
      || (if t = b then decide (b + fclkNs x.2 ≤ r) else !(decide (b < t) && decide (t ≤ r)))))

/-- A loop has the entries of R178: a LOOP_RUN in each period, or one in the second for a period above 1 s, and its latch P × PHASE / 256 after the
period's start; the evaluation ends at least 1 µs before the latch (R176, R177). -/
def Plan.loopTimed (pl : Plan) (d : LoopDef) : Bool :=
  let runs := (pl.loopEntries dkLoopRun d.num).map drumNs
  let latches := (pl.loopEntries dkLoopLatch d.num).map drumFine
  if d.type = 0 then runs.isEmpty && latches.isEmpty
  else
    let n := if d.ms ≤ 1000 then 1000 / d.ms else 1
    let p := min d.ms 1000 * 1000000
    runs.length == n && latches.length == n
      && (List.range n).all (fun j =>
        let b := j * p
        let r := runs.getD j 0
        decide (b ≤ r) && decide (r < b + p) && pl.sampledOk d b r
          && decide ((r + pl.evalNs + 1000) * 32 ≤ b * 32 + d.delay) && latches.contains (latchFine (b * 32 + d.delay)))

/-- The engine evaluates one loop at a time (R177), and an outer loop before its inner where both start a period at one instant (R187). -/
def Plan.runsApart (pl : Plan) (d : LoopDef) : Bool :=
  let all := (pl.ofKind dkLoopRun).map (fun e => (drumNs e, drumTarget e))
  all.all (fun x => x.2 != d.num || all.all (fun y => (y.1 == x.1 && y.2 == d.num) || decide (y.1 < x.1) && decide (y.1 + pl.evalNs ≤ x.1) || decide (x.1 < y.1)))
    && (match d.outer.bind (fun n => pl.loops.find? (fun e => e.num == n)) with
        | some o =>
          let mine := (pl.loopEntries dkLoopRun d.num).map drumNs
          let its := (pl.loopEntries dkLoopRun o.num).map drumNs
          its.all (fun y => mine.all (fun x => x / (d.ms * 1000000) * d.ms != y / (o.ms * 1000000) * o.ms || decide (y < x)))
        | none => true)

/-- Check 15 (R174 to R178, R187). -/
def check15 (pl : Plan) : Option Nat :=
  firstOf
    [ firstBad pl.loops (fun d => !pl.loopTimed d || !pl.runsApart d) (·.num)
    , firstBad (pl.ofKind dkLoopRun ++ pl.ofKind dkLoopLatch) (fun e => !pl.loops.any (fun d => d.num == drumTarget e)) drumTarget ]

/-- Check 16 (R164). -/
def check16 (pl : Plan) : Option Nat :=
  firstOf
    [ (if 64 < pl.jack.length then some 64 else none)
    , firstBad (List.range pl.jack.length) (fun i => match pl.jack[i]? with
        | some e => (List.range 4).any (fun k => decide (24 ≤ jIn e k) && decide (jIn e k ≤ 30)) || (jSafety e && jLevel e)
        | none => true) id ]

/-- The origin of a point is virtual (R24: ORIGIN 4). -/
def PointDef.virtual (p : PointDef) : Bool := p.originOf == 4

/-- Check 17 (R337, R338). -/
def check17 (pl : Plan) : Option Nat :=
  let named (s : ScopeDef) : Bool :=
    s.readPts.all (fun i => pl.points.any (fun p => p.idx == i)) && s.meters.all (fun c => decide (c < 96)) && s.logs.all (fun a => decide (a < 64))
  firstOf
    [ firstBad pl.scopes (fun s =>
        if s.scope = 0 then !pl.points.all (fun p => s.readPts.contains p.idx) || !(List.range 96).all (fun c => s.meters.contains c)
            || !(List.range 16).all (fun a => s.logs.contains a)
        else !named s) (·.scope)
    , (pl.scopes.filterMap (fun s => firstBad s.writePts (fun i => !pl.points.any (fun p => p.idx == i && p.virtual)) id)).head? ]

/-- The outputs loops drive. -/
def Plan.loopDrives (pl : Plan) : List (Nat × Nat) := pl.loops.filterMap (fun d => (actOutput d.act).map (fun o => (o.val, d.num)))

/-- The safe values R100 permits for an output. -/
def Plan.safeOk (pl : Plan) (o : Nat) (v : SafeVal) : Bool :=
  match outKind o, v with
  | .do_, .off => true | .do_, .on => true | .do_, .hold => true
  | .ao, .hold => true | .ao, .hiz => true
  | .ao, .value w =>
    let a := imgFld pl (F.FIO_AO_SC_LO_SC (o - 24))
    let b := imgFld pl (F.FIO_AO_SC_HI_SC (o - 24))
    fLe b32 (fMin b32 a b) w.toNat && fLe b32 w.toNat (fMax b32 a b)
  | .so, .off => true
  | .lt, .alarm => true | .lt, .hold => true
  | .lt, .value w => fLe b32 (fOfRat b32 38 10) w.toNat && fLe b32 w.toNat (fOfRat b32 205 10)
  | _, _ => false

/-- Check 18 (R53, R100, R264). Log entry 118: a safe value that R100 does not permit fails here, with DETAIL the output. -/
def check18 (pl : Plan) : Option Nat :=
  let ld := pl.loopDrives
  let dr := pl.launched ++ ld.map (·.1)
  let listed (o : Nat) : Bool := pl.safe.any (fun x => x.1 == o)
  firstOf
    [ firstBad (pl.launched ++ pl.jackOuts) (fun o => !listed o) id
    , firstBad ld (fun x => !listed x.1 || decide (1 < dr.count x.1)) (·.2)
    , firstBad pl.launched (fun o => decide (1 < dr.count o)) id
    , firstBad pl.safe (fun x => !pl.safeOk x.1 x.2) (·.1)
    , (pl.points.filterMap (fun p => match p.bind with
        | .out o => if 32 ≤ o ∧ o < 40 then (pl.tasks.find? (fun t => (pl.writtenPts t).contains p.idx && t.safetyCopy == 0 && !t.transfer)).map (·.idx) else none
        | _ => none)).head?
    , (pl.points.filterMap (fun p => match p.bind, p.writer with
        | .out o, some w => if (32 ≤ o ∧ o < 40) && !pl.safetyTask w then some w else none
        | _, _ => none)).head? ]

/-- The first failed check of R76 with its DETAIL; none where the plan passes. -/
def Plan.verify (hw : Nat) (pl : Plan) : Option (Nat × Nat) :=
  ([ (1, check1 hw pl), (2, check2 pl), (3, check3 pl), (4, check4 pl), (5, check5 pl), (6, check6 pl), (7, check7 pl), (8, check8 pl)
   , (9, check9 pl), (10, check10 pl), (11, check11 pl), (12, check12 pl), (13, check13 pl), (14, check14 pl), (15, check15 pl)
   , (16, check16 pl), (17, check17 pl), (18, check18 pl) ].filterMap (fun x => x.2.map (fun d => (x.1, d)))).head?

end Sys2Proof.Machine
end

