-- ==== Sys2Proof/Machine/Flash.lean ====
section
/-! DEFINITION. Storage (R386 to R418, R498): stored register sets, the parameter store's records, the flash operations in order,
what an interrupted operation leaves, and the checks at BOOT. -/

namespace Sys2Proof.Machine

/-! ### Stored register sets (R498) -/

/-- The whole registers of a block's stored set (LOG, KEY and UPL hold theirs elsewhere). -/
def storedRegs (base : Nat) : List Nat :=
  match base / 4096 with
  | 0x03 => [R.RTC_CFG]
  | 0x14 => [R.EXEC_POLICY, R.EXEC_AUTORST, R.EXEC_RETAIN_CFG]
  | 0x78 => [R.TIME_CFG, R.TIME_PTP, R.TIME_PPS]
  | 0x80 => [R.TWIN_CFG]
  | 0x90 => [R.SESS_CFG]
  | _ => []

/-- A block's stored set as bytes: its fields in address order, LOG's FLOOD and RATE by area (the manual gives no layout:
log entry 17). -/
def Mod.storedBytes (m : Mod) (base : Nat) : List Byte :=
  if base / 4096 = 0x06 then
    (List.finRange 16).flatMap (fun (a : Fin 16) => leBytes 1 (b2n m.logs.areas[a].flood) ++ leBytes 1 m.logs.areas[a].rate)
  else (storedRegs base).flatMap (fun a => leBytes 4 ((m.word a).toNat &&& (accessAt a).rw))

/-- The block's set is written to the parameter store (R498). -/
def Mod.storeBlock (m : Mod) (base : Nat) (tag : Option (Nat × Nat)) : Mod :=
  m.paramPut (keyStored base) (m.storedBytes base) tag

/-- A stored set in force replaces the reset values of its fields (R498). -/
def Mod.restoreBlock (m : Mod) (base : Nat) : Mod :=
  match m.paramGet (keyStored base) with
  | none => m
  | some bs =>
    if base / 4096 = 0x06 then
      { m with logs := { m.logs with areas := Vector.ofFn (fun a : Fin 16 =>
          { m.logs.areas[a] with flood := ofLe ((bs.drop (2 * a.val)).take 1) = 1, rate := ofLe ((bs.drop (2 * a.val + 1)).take 1) }) } }
    else
      ((storedRegs base).zip (List.range 8)).foldl (fun m x =>
        let w : Word := BitVec.ofNat 32 (ofLe ((bs.drop (4 * x.2)).take 4))
        let mask : Word := BitVec.ofNat 32 (accessAt x.1).rw
        m.setWord x.1 ((m.word x.1 &&& ~~~mask) ||| (w &&& mask))) m

/-! ### The parameter store (R389 to R394) -/

/-- The write position in pages: counter 2 (R389, R403). -/
def Mod.paramPos (m : Mod) : Nat := m.ctr 2

/-- Pages of a record with a payload (R390). -/
def recPages (payload : List Byte) : Nat := (24 + payload.length + 255) / 256

/-- Erased sectors ahead of the write position (NVM_PARAM.FREE). -/
def Mod.paramFree (m : Mod) : Nat := 1024 - ((m.paramPos + 15) / 16 - m.nvm.tail / 16)

/-- Keys with a record in force (NVM_PARAM.KEYS). -/
def Mod.paramKeys (m : Mod) : Nat :=
  (((m.nvm.params.map (·.key)).eraseDups).filter (fun k => (m.paramGet k).isSome)).length

/-- A record is complete (R389, R391): the position advances past it. -/
def Mod.paramDone (m : Mod) (key : Nat) (tomb : Bool) (payload : List Byte) : Mod :=
  let r : ParamRec := { page := m.paramPos, key := key, seq := m.nvm.seq + 1, tomb := tomb, payload := m.wrap key (m.nvm.seq + 1) payload }
  let m := m.ctrAdd 2 (recPages r.payload)
  { m with nvm := { m.nvm with params := m.nvm.params ++ [r], seq := m.nvm.seq + 1 } }

/-- The records of a sector of the ring that are still needed: in force for their key, or a tombstone that hides an older record
(R393). -/
def Mod.needed (m : Mod) (first : Nat) : List ParamRec :=
  m.nvm.params.filter (fun r => decide (first ≤ r.page) && decide (r.page < first + 16)
    && (newestRec m.nvm.params r.key == some r)
    && (!r.tomb || m.nvm.params.any (fun x => x.key == r.key && decide (x.seq < r.seq))))

/-- The device sector of a page of the ring (R386, R391). -/
def paramSector (page : Nat) : Nat := 0x02800000 / 4096 + page / 16 % 1024

/-- Reclaiming below 8 erased sectors (R393): copies forward, then the erase. -/
def Mod.reclaim (m : Mod) : Mod :=
  let e := FlashJob.erase (paramSector m.nvm.tail)
  if 8 ≤ m.paramFree || m.nvm.jobs.contains e then m
  else
    let copies := (m.needed m.nvm.tail).map (fun r => FlashJob.copy r.key r.tomb ((m.unwrap r).getD r.payload))
    { m with nvm := { m.nvm with jobs := m.nvm.jobs ++ copies ++ [e] } }

/-! ### The recorder in flash (R406, R408, R415, R216) -/

/-- A record that REPEAT mode holds in the buffer (R413). -/
def Mod.heldBack (m : Mod) (r : Rec) : Bool :=
  match (m.logs.areas[Fin.ofNat 16 r.area]).hold with
  | some (seq, t0) => seq == r.seq && decide (m.optime < t0 + 60000) && decide (r.rep < 65535)
  | none => false

/-- The next records to move: those of the oldest record's area, at most a page of 8 (R415). -/
def Mod.nextFlush (m : Mod) : Option FlashJob :=
  match m.logs.wab.find? (fun r => !m.heldBack r) with
  | none => none
  | some r => some (.flush r.area ((m.logs.wab.filter (fun x => x.area == r.area && !m.heldBack x)).take 8))

def isFlush : FlashJob → Bool | .flush _ _ => true | _ => false
def isInterval : FlashJob → Bool | .interval _ => true | _ => false
def isMirror : FlashJob → Bool | .mirror _ => true | _ => false

/-- The recorder's flash work of a management window: one page of event records, of interval records and of the change-log
mirror each, where none of that kind waits (R408, R415). -/
def Mod.flashWork (m : Mod) : Mod :=
  let j := m.nvm.jobs
  let a := if j.any isFlush then [] else m.nextFlush.toList
  let b := if j.any isInterval || m.logs.wabIntervals.isEmpty then [] else [FlashJob.interval (m.logs.wabIntervals.take 4)]
  let c := if j.any isMirror || m.logs.mirror.isEmpty then [] else [FlashJob.mirror (m.logs.mirror.take 8)]
  { m with nvm := { m.nvm with jobs := j ++ a ++ b ++ c } }

/-- The write-position counter of an ordinary area: 3 to 14 for areas 0 and 5 to 15, 15 for the interval area, 16 for the
mirror (the manual names counters 2 to 17 together: log entry 18). -/
def areaCtr (a : Nat) : Fin 24 := if a = 0 then 3 else if 5 ≤ a ∧ a ≤ 15 then Fin.ofNat 24 (a - 1) else 17

/-- The first sector of an ordinary area's circulating part in the device (R410). -/
def areaBase (a : Nat) : Nat :=
  0x03010000 / 4096 + ((List.range a).filter (fun x => areaKind x == 0)).foldl (fun s x => s + 1 + areaSectors x) 0 + 1

/-- Event records moved to flash (R406, R415): the first 128 the area ever receives go to its keep part; when one fills its
sector, the next sector in ring order is erased and its records are no longer held. -/
def Mod.flushDone (m : Mod) (a : Nat) (recs : List Rec) : Mod :=
  let i : Fin 16 := Fin.ofNat 16 a
  let ar := m.logs.areas[i]
  let recs := recs.filterMap (fun r => m.logs.wab.find? (fun x => x.area == a && x.seq == r.seq))
  let n0 := m.nvm.flushed[i]
  let n1 := n0 + recs.length
  let toKeep := recs.take (128 - n0)
  let toCirc := recs.drop (128 - n0)
  let filled := decide (128 < n1) && decide (n0 / 128 < n1 / 128) && decide (256 ≤ n1)
  let keepMost := (areaSectors a - 1) * 128 + n1 % 128
  let all := ar.held ++ toCirc
  let held := if filled then all.drop (all.length - keepMost) else all
  let m := { m with
    logs := { m.logs with
      areas := m.logs.areas.set i { ar with keep := ar.keep ++ toKeep, held := held }
      wab := m.logs.wab.filter (fun x => !(x.area == a && recs.any (fun r => r.seq == x.seq))) }
    nvm := { m.nvm with
      flushed := m.nvm.flushed.set i n1
      jobs := if filled then m.nvm.jobs ++ [FlashJob.erase (areaBase a + (n1 / 128 - 1) % areaSectors a)] else m.nvm.jobs } }
  m.ctrAdd (areaCtr a) (n1 / 8 - n0 / 8)

/-- Interval records moved to flash (R216): the last 682 intervals of 96 channels are held. -/
def Mod.intervalDone (m : Mod) (recs : List IntRec) : Mod :=
  let all := m.logs.intervals ++ recs
  ({ m with logs := { m.logs with
      intervals := all.drop (all.length - 682 * 96)
      wabIntervals := m.logs.wabIntervals.filter (fun r => !recs.contains r) } }).ctrAdd 15 1

/-- Change records mirrored (R408). -/
def Mod.mirrorDone (m : Mod) (recs : List Rec) : Mod :=
  let all := m.logs.mirrored ++ recs
  ({ m with logs := { m.logs with
      mirrored := all.drop (all.length - 2048)
      mirror := m.logs.mirror.filter (fun r => !recs.any (fun x => x.seq == r.seq)) } }).ctrAdd 16 1

/-! ### Flash operations (R387, R389, R397) -/

/-- Flash programming and erasing need PD3 (R387), where the controller sits. -/
def Mod.flashUp (m : Mod) : Bool := m.isOn (swPd 3)

/-- A calibration record complete (R220): COMMITS counts, EV_MET_CAL is logged, and the set waits for the next block
boundary. -/
def Mod.calDone (m : Mod) (key : Nat) (payload : List Byte) : Mod :=
  if keyCal 0 ≤ key ∧ key < keyCal 102 then
    let c := key - keyCal 0
    let m := m.addWrap (F.MET_CAL_COMMITS c) 1
    let m := m.log .metCal c (leBytes 1 c ++ leBytes 4 (setCrc (m.metCh c).set) ++ leBytes 4 (crc32c payload))
    m.setMet c { m.metCh c with pendSet := some (bytesWords 15 payload), flags := (m.metCh c).flags ||| 128 }
  else m

/-- The key set's or the verifier's record complete (R444, R447). -/
def Mod.keyDone (m : Mod) (key : Nat) (tomb : Bool) (payload : List Byte) : Mod :=
  if key = keySet then m.commitDone
  else if key = keySafePw then m.putKey 6 (if tomb then none else some payload) 0
  else m

/-- The oldest flash operation completes, read back twice (R389). -/
def Mod.programDone (m : Mod) : Mod :=
  match m.nvm.jobs with
  | j :: js =>
    let m' := { m with nvm := { m.nvm with jobs := js } }
    (match j with
     | .param key tomb payload _ => ((((m'.paramDone key tomb payload).calDone key payload).keyDone key tomb payload).reclaim).releaseHeld
     | .copy key tomb payload => m'.paramDone key tomb payload
     | .data _ => m'.releaseHeld
     | .flush a recs => m'.flushDone a recs
     | .interval recs => m'.intervalDone recs
     | .mirror recs => m'.mirrorDone recs
     | .erase _ => m)
  | [] => m

/-- The refresh of a sector ends (R397): its journal is cleared. -/
def Mod.refreshEnd (m : Mod) (sector : Nat) : Mod :=
  let m := { m with nvm := { m.nvm with refresh := none } }
  (m.set F.NVM_STATUS_REFRESHING 0).log .nvmRefresh 0 (leBytes 4 (sector * 4096))

/-- A sector erase completes (R387, R393, R397). -/
def Mod.eraseDone (m : Mod) : Mod :=
  match m.nvm.jobs with
  | .erase sec :: js =>
    let m := { m with nvm := { m.nvm with jobs := js } }
    if m.nvm.refresh = some sec then m.refreshEnd sec
    else if sec = paramSector m.nvm.tail then
      { m with nvm := { m.nvm with
          params := m.nvm.params.filter (fun r => decide (m.nvm.tail + 16 ≤ r.page))
          tail := m.nvm.tail / 16 * 16 + 16 } }
    else m
  | _ => m

/-- Flash work abandoned (R388, R477): the operation in progress is cut, no other has started; what waits for a command of a
closed session is gone with it. -/
def Mod.flashCut (m : Mod) : Mod :=
  { m with nvm := { m.nvm with cut := m.nvm.jobs.head?, jobs := [], margin := none }
           regs := fldSet m.regs F.NVM_STATUS_MARGIN_RUN 0 }

/-! ### BOOT (R389, R398, R402, R408, R416) -/

/-- A counter after BOOT (R402): a failed cell takes the other's value; with both failed it restarts from 0. -/
def Mod.ctrBoot (m : Mod) (i : Fin 24) : Mod :=
  let c := m.nvm.counters[i]
  if c.1.ok && c.2.ok then m
  else
    let v := ctrValue c
    let both := !c.1.ok && !c.2.ok
    let m := { m with nvm := { m.nvm with counters := m.nvm.counters.set i (⟨v, true⟩, ⟨v, true⟩) } }
    let m := if both then m.set F.NVM_STATUS_COUNTER_RESET 1 else (m.set F.NVM_STATUS_COUNTER_LOST 1).ctrAdd 22 1
    m.log .nvmCounterLost 0 (leBytes 1 i.val)

/-- A torn page (R389): counted and logged with its flash address; its sector is reclaimed before the area takes its next write, what is needed copied
forward, then erased. -/
def Mod.tornPage (m : Mod) (addr : Nat) : Mod :=
  let m := ((m.set F.NVM_STATUS_TORN 1).ctrAdd 23 1).log .paramTorn 0 (leBytes 4 addr)
  { m with nvm := { m.nvm with jobs := m.nvm.jobs ++ [.erase (addr / 4096)] } }

/-- The sector of the parameter store's write position reclaimed after a torn page (R389). -/
def Mod.paramTorn (m : Mod) : Mod :=
  let p := m.paramPos
  let m := m.tornPage (0x02800000 + p % 16384 * 256)
  let first := p / 16 * 16
  let keep := m.needed first
  let m := { m with nvm := { m.nvm with params := m.nvm.params.filter (fun r => !(decide (first ≤ r.page) && decide (r.page < first + 16))) } }
  let m := m.ctrAdd 2 (first + 16 - p)
  keep.foldl (fun m r => m.paramDone r.key r.tomb ((m.unwrap r).getD r.payload)) m

/-- The address of the next page of an area. -/
def Mod.areaAddr (m : Mod) (a : Nat) : Nat :=
  let n := m.nvm.flushed[Fin.ofNat 16 a]
  if n < 128 then (areaBase a - 1) * 4096 + n / 8 * 256
  else areaBase a * 4096 + (n - 128) / 8 % (areaSectors a * 16) * 256

/-- What the operation cut by the last power failure left (R388, R389): a page reads blank, complete or torn, and a sector
anything; the manual leaves it open (log entry 2). A cut erase is begun again. -/
def Mod.cutBoot (m : Mod) : Mod :=
  match m.nvm.cut with
  | none => m
  | some j =>
    let r := m.free.toNat % 3
    let m := { m.drawn with nvm := { m.nvm with cut := none } }
    match j with
    | .param key tomb payload _ => if r = 0 then m else if r = 1 then m.paramDone key tomb payload else m.paramTorn
    | .copy key tomb payload => if r = 0 then m else if r = 1 then m.paramDone key tomb payload else m.paramTorn
    | .data _ => m
    | .flush a _ => m.when (r == 2) (fun m => m.tornPage (m.areaAddr a))
    | .interval _ => m.when (r == 2) (fun m => m.tornPage (0x02C00000 + m.ctr 15 % 16384 * 256))
    | .mirror _ => m.when (r == 2) (fun m => m.tornPage (0x03000000 + m.ctr 16 % 256 * 256))
    | .erase s => { m with nvm := { m.nvm with jobs := .erase s :: m.nvm.jobs } }

/-- Storage at BOOT: counters, the refresh journal, torn pages, stored sets of the blocks that BOOT restores. -/
def Mod.storageBoot (m : Mod) : Mod :=
  let m := (List.finRange 24).foldl Mod.ctrBoot m
  let m := (m.set F.NVM_STATUS_FLASH_OK 1).set F.NVM_STATUS_FERAM_OK 1
  let m := match m.nvm.refresh with | some s => m.refreshEnd s | none => m
  let m := m.cutBoot
  ([0x3000, 0x6000, 0x14000, 0x78000, 0x90000].foldl Mod.restoreBlock m).retainShow

end Sys2Proof.Machine
end

