-- ==== Sys2Proof/Machine/Firmware.lean ====
section
/-! DEFINITION. Firmware packages and banks (R448 to R456): the header's fields, its checks, and the choice that ROM makes at BOOT. -/

namespace Sys2Proof.Machine

/-- A number in a header (R448). -/
def hdrNum (h : List Byte) (off n : Nat) : Nat := ofLe ((h.drop off).take n)
def hdrVersion (h : List Byte) : Nat := hdrNum h 8 4
def hdrImgLen (h : List Byte) : Nat := hdrNum h 12 4
def hdrFormat (h : List Byte) : Nat := hdrNum h 4 1

/-- MAGIC, FORMAT and the zero fields (R448). -/
def hdrFormOk (h : List Byte) : Bool :=
  hdrNum h 0 4 == 0x5A465550 && (hdrFormat h == 1 || hdrFormat h == 2) && hdrNum h 5 3 == 0 && hdrNum h 140 52 == 0

/-- Step 2 of R452: a known signer, and its signature over bytes 0 to 255. -/
def Mod.hdrSigned (m : Mod) (h : List Byte) : Bool :=
  let signer := (h.drop 192).take 64
  let print := bytes32 (Config.sha256 signer)
  (m.keyOf 4 == some print || m.keyOf 5 == some print) && Config.ecdsaOk signer (Config.sha256 (h.take 256)) ((h.drop 256).take 64)

/-- SYS_ID and the hardware-type code (R435, R501). -/
def Mod.sysId (m : Mod) : Nat := if m.fx then 0x5A0F4096 else 0x5A0F4097

/-- Step 3 of R452: hardware type and unit. -/
def Mod.hdrBound (m : Mod) (h : List Byte) : Bool :=
  (List.range 4).any (fun i => hdrNum h (116 + 4 * i) 4 == m.sysId) && (hdrNum h 132 8 == 0 || hdrNum h 132 8 == Config.unitId.toNat)

/-- A bank is valid (R454, step 1). The factory's image is present without its header's bytes (log entry 20). -/
def Mod.bankOk (m : Mod) (i : Fin 2) : Bool :=
  let b := m.key.banks[i]
  b.valid && (b.header.isEmpty || (hdrFormOk b.header && m.hdrSigned b.header && m.hdrBound b.header))

def otherBank (i : Fin 2) : Fin 2 := if i = 0 then 1 else 0
def Mod.bankMap (m : Mod) (i : Fin 2) (f : Bank → Bank) : Mod := { m with key := { m.key with banks := m.key.banks.set i (f m.key.banks[i]) } }
def Mod.bankVersion (m : Mod) (i : Fin 2) : Nat := hdrVersion m.key.banks[i].header

/-- The running bank (KEY_FW_STATUS.BANK). -/
def Mod.runBank (m : Mod) : Fin 2 := if m.flag F.KEY_FW_STATUS_BANK then 1 else 0

/-- The candidate (R454, step 1): the valid bank with the higher ACT_SEQ; one without an ACTIVATE page only where the other is not valid. -/
def Mod.candidate (m : Mod) : Option (Fin 2) :=
  match m.bankOk 0, m.bankOk 1 with
  | false, false => none
  | true, false => some 0
  | false, true => some 1
  | true, true =>
    match m.key.banks[0].act, m.key.banks[1].act with
    | some a, some b => if a < b then some 1 else some 0
    | none, some _ => some 1
    | _, none => some 0

/-- The registers that show the banks (R462). -/
def Mod.bankShow (m : Mod) (i : Fin 2) : Mod :=
  let b := m.key.banks[i]
  let o := otherBank i
  let m := (m.setB F.KEY_FW_STATUS_BANK (i == 1)).setB F.KEY_FW_STATUS_OTHER_VALID (m.bankOk o && m.key.banks[o].confirmed)
  let m := (m.setB F.KEY_FW_STATUS_CONFIRMED b.confirmed).set F.KEY_FW_STATUS_ATTEMPTS b.attempts
  (m.set F.KEY_FW_VER_VERSION (m.bankVersion i)).set F.KEY_FW_OTHER_VERSION (if m.bankOk o then m.bankVersion o else 0)

/-- An image runs (R454, R462): on trial while it is not confirmed. -/
def Mod.bankRun (m : Mod) (i : Fin 2) : Mod :=
  (m.bankShow i).set F.KEY_FW_STATUS_STAGE (if m.key.banks[i].confirmed then 0 else 7)

/-! ### Update packages (R448 to R453, R458) -/

/-- The bank that an update writes (R451, R458). -/
def Mod.updBank (m : Mod) : Fin 2 := if m.st = xRecovery then m.key.target else otherBank m.runBank

/-- The bank RECOVERY writes (R458): one that is not valid, bank A first; else the one that is not the candidate. -/
def Mod.recoveryBank (m : Mod) : Fin 2 :=
  if !m.bankOk 0 then 0 else if !m.bankOk 1 then 1 else if m.candidate = some 0 then 1 else 0

/-- What the registers show of the bank that does not run. -/
def Mod.otherShow (m : Mod) : Mod :=
  let o := otherBank m.runBank
  if m.st = xRecovery then m
  else (m.setB F.KEY_FW_STATUS_OTHER_VALID (m.bankOk o && m.key.banks[o].confirmed)).set F.KEY_FW_OTHER_VERSION (if m.bankOk o then m.bankVersion o else 0)

/-- IMG_DIGEST of a bank's image. -/
def Bank.digest (b : Bank) : List Byte := if b.header.isEmpty then bytes32 (Config.sha256 b.image) else (b.header.drop 16).take 32

/-- A delta applied to an image (R449): the bytes appended so far, the operations still to read, at most one a step. -/
def deltaRun (base : List Byte) (imgLen : Nat) : Nat → List Byte → List Byte → Option (List Byte)
  | 0, _, _ => none
  | n + 1, out, ops =>
    match ops with
    | [] => none
    | c :: t =>
      if c = 1 then
        let src := ofLe (t.take 4)
        let len := ofLe ((t.drop 4).take 4)
        if t.length < 8 ∨ base.length < src + len ∨ imgLen < out.length + len then none
        else deltaRun base imgLen n (out ++ (base.drop src).take len) (t.drop 8)
      else if c = 2 then
        let len := ofLe (t.take 4)
        if t.length < 4 + len ∨ imgLen < out.length + len then none
        else deltaRun base imgLen n (out ++ (t.drop 4).take len) (t.drop (4 + len))
      else if c = 3 then (if out.length = imgLen then some out else none)
      else none

/-- The image a package gives (R452, step 6). -/
def rebuilt (base h body : List Byte) : Option (List Byte) :=
  if hdrImgLen h = 0 ∨ 12578816 < hdrImgLen h then none
  else if hdrFormat h = 1 then some body
  else deltaRun base (hdrImgLen h) (body.length + 1) [] body

/-- Checking and rebuilding (R452): the first step that fails with its RESULT, or the image. `pages` and `header` tell whether the pages and the
header sector read back as they were written. In RECOVERY the blocks stand in place: step 6 does not apply (R458). -/
def Mod.updCheck (m : Mod) (p : List Byte) (pages header : Bool) : (Nat × Nat) ⊕ List Byte :=
  let h := p.take 320
  let body := p.drop 4096
  let base := m.key.banks[m.runBank]
  let img := rebuilt base.image h body
  if !hdrFormOk h || hdrNum h 80 4 + 4096 != p.length || (hdrFormat h == 1 && hdrNum h 80 4 != hdrImgLen h) then .inl (1, 0x60)
  else if !m.hdrSigned h then .inl (2, 0x61)
  else if !m.hdrBound h then .inl (3, 0x60)
  else if (h.drop 84).take 32 ≠ bytes32 (Config.sha256 body) then .inl (4, 0x62)
  else if (h.drop 48).take 32 ≠ (if hdrFormat h = 2 then base.digest else List.replicate 32 0) then .inl (5, 0x62)
  else match img with
    | none => .inl (6, 0x62)
    | some i =>
      if !pages && m.st != xRecovery then .inl (6, 0x62)
      else if (h.drop 16).take 32 ≠ bytes32 (Config.sha256 i) then .inl (7, 0x62)
      else if !header then .inl (8, 0x62)
      else .inr i

/-- A verified package is to be activated (R453). -/
def Mod.actStart (m : Mod) : Mod := ({ m with key := { m.key with activating := true, actAt := m.clk.mono } }).set F.KEY_FW_STATUS_STAGE 5

/-- The wait before an activation is over: 100 ms (R343), and in a twin mode a whole second is reached, at which both sides activate (R453). Without a
running TCXO nothing measures it. -/
def Mod.actDue (m : Mod) : Bool :=
  !m.clk.run || (decide (m.key.actAt + 2500000 ≤ m.clk.mono) && (m.get F.TWIN_STATUS_MODE == 0 || m.clk.ns % 1000000000 == 0))

/-- What RECOVERY answers without a session (R457): uplink A and the local host port. -/
def recoverySess : List (Nat × Sess) := [(1024, { role := .service, transport := 0 }), (1026, { role := .service, transport := 2 })]

end Sys2Proof.Machine
end

