-- ==== Sys2Proof/Machine/Time.lean ====
section
/-! DEFINITION. Building time: sources, steering, steps and sync states (R148 to R162, R525). -/

namespace Sys2Proof.Machine

/-- Sync states (R157). -/
abbrev syFree : Nat := 0
abbrev syAcq : Nat := 1
abbrev syLocked : Nat := 2
abbrev syHold : Nat := 3
abbrev syExt : Nat := 4

def srcIdx : Source → Fin 3 | .uplA => 0 | .uplB => 1 | .pps => 2
/-- TIME_STATUS.SOURCE codes (R171). -/
def srcCode : Source → Nat | .uplA => 1 | .uplB => 2 | .pps => 3
def uplSrc (u : Fin 2) : Source := if u = 0 then .uplA else .uplB

/-- The order of TIME_CFG.ORDER (R171); 6 and 7 are taken as 0. -/
def srcOrder (o : Nat) : List Source :=
  match o with
  | 1 => [.uplB, .uplA, .pps]
  | 2 => [.pps, .uplA, .uplB]
  | 3 => [.uplA, .uplB]
  | 4 => [.uplB, .uplA]
  | 5 => [.pps]
  | _ => [.uplA, .uplB, .pps]

/-- A source is enabled (R171). -/
def srcEnabled (m : Mod) : Source → Bool
  | .uplA => m.flag F.TIME_PTP_EN_A
  | .uplB => m.flag F.TIME_PTP_EN_B
  | .pps => m.flag F.TIME_PPS_IN_EN

def Mod.src (m : Mod) (x : Source) : SrcSt := m.clk.src[srcIdx x]
def Mod.srcMap (m : Mod) (x : Source) (f : SrcSt → SrcSt) : Mod :=
  { m with clk := { m.clk with src := m.clk.src.set (srcIdx x) (f (m.src x)) } }

/-- The module's own qualified source of highest priority (R151). -/
def Mod.ownSrc (m : Mod) : Option Source :=
  (srcOrder (m.get F.TIME_CFG_ORDER)).find? (fun x => (m.src x).qual && srcEnabled m x)

/-- The source that steers; a follower of its peer uses none of its own (R360). -/
def Mod.bestSrc (m : Mod) : Option Source := if m.twin.follower then none else m.ownSrc

def qualFld : Source → Fld
  | .uplA => F.TIME_STATUS_QUAL_A
  | .uplB => F.TIME_STATUS_QUAL_B
  | .pps => F.TIME_STATUS_QUAL_PPS

/-! ### Offsets: in units of 1/32 ns (31.25 ps), five to the 156.25 ps of a timestamp -/

/-- An offset lies within ±100 ns. -/
def near100 (o : Int) : Bool := decide (o.natAbs ≤ 3200)

/-- An offset in the 32-bit signed field of whole ns, saturating (R171). -/
def offField (o : Int) : Nat := ofInt 32 (satInt 32 (o / 32))

/-- A change of sync state (R158), logged; SOURCE by state (R525). From FREE on, the next qualification is the first (R156). -/
def Mod.setSync (m : Mod) (new code : Nat) : Mod :=
  let old := m.get F.TIME_STATUS_STATE
  let m := (m.set F.TIME_STATUS_SOURCE (if new = syFree then 0 else code)).set F.TIME_STATUS_STATE new
  let m := m.when (decide (new = syFree)) (fun m => { m with clk := { m.clk with everQual := false, selected := none } })
  m.when (decide (old ≠ new)) (fun m =>
    let m := { m with clk := { m.clk with prevState := old, holdEntry := if new = syHold then m.clk.ns else m.clk.holdEntry, beyond := 0 } }
    m.log .syncState 0 (leBytes 1 old ++ leBytes 1 new))

/-- The state that steering by a source within ±100 ns shows (R157). -/
def lockState : Source → Nat | .pps => syExt | _ => syLocked

/-- SOURCE in ACQUIRING (R525): of the sources that have qualified or are qualifying the one of highest priority, sources that ORDER leaves out last. -/
def Mod.acqCode (m : Mod) : Nat :=
  let os := srcOrder (m.get F.TIME_CFG_ORDER)
  let all := os ++ ([Source.uplA, .uplB, .pps]).filter (fun x => !os.contains x)
  ((all.find? (fun x => srcEnabled m x && ((m.src x).qual || decide (0 < (m.src x).good)))).map srcCode).getD (m.get F.TIME_STATUS_SOURCE)

/-- In ACQUIRING, SOURCE follows what qualifies. -/
def Mod.acqShow (m : Mod) : Mod := m.when (m.get F.TIME_STATUS_STATE == syAcq) (fun m => m.set F.TIME_STATUS_SOURCE m.acqCode)

/-- SOURCE in HOLDOVER: the source last selected (R525). -/
def Mod.holdCode (m : Mod) : Nat := (m.clk.selected.map srcCode).getD (m.get F.TIME_STATUS_SOURCE)

/-! ### Steps (R156) -/

/-- A step takes place at once: BOOT, BIT and PLANNING without a plan loaded. -/
def Mod.stepAtOnce (m : Mod) : Bool :=
  m.st == xBoot || ((m.st == xBit || m.st == xPlanning) && !m.planLoaded)

/-- Building time takes a corrected value: STEPS counts it and EV_TIME_STEP carries the offset in ns. -/
def Mod.applyStep (m : Mod) (o : Int) : Mod :=
  let x : Int := ((m.clk.ns * 2 ^ 32 + m.clk.frac : Nat) : Int) + o * 2 ^ 27
  let m := { m with
    clk := { m.clk with ns := ofInt 64 (x / 2 ^ 32), frac := (x % 2 ^ 32).toNat, stepPending := none }
    met := { m.met with stepped := true } }
  let m := (m.set F.TIME_STATUS_STEP_PENDING 0).addSat F.TIME_EVENTS_STEPS 1
  m.log .timeStep 0 (leBytes 8 (ofInt 64 (o / 32)))

/-- What a step does now: at once, or it waits for the swap window; with STEP_EN 0 the offset is slewed. DESIGN CHOICE (log entry 131): in BIT and PLANNING
with a plan loaded, in STOPPED and in SERVICE, where the Drum runs some kinds, it waits as in RUN. -/
def Mod.wantStep (m : Mod) (o : Int) : Mod :=
  if m.stepAtOnce then m.applyStep o
  else if m.flag F.TIME_CFG_STEP_EN then
    ({ m with clk := { m.clk with stepPending := some o } }).set F.TIME_STATUS_STEP_PENDING 1
  else m.set F.TIME_STATUS_SLEWING 1

/-! ### Steering (R149) -/

/-- The values that TIME_FREQ had within the last second, before its present one; `freqs` says until when each stood. -/
def Clk.recent (c : Clk) : List (Nat × Int) := c.freqs.filter (fun x => decide (c.ns < x.1 + 1000000000))

/-- TIME_FREQ after a steering measurement (R149), in units of 0.01 ppb: it moves the way that drives the offset towards zero, within ±200 ppm and within
1 ppm of every value that it had in the last second. The manual states no more, so by how much it moves is a free value (log entry 10). -/
def Mod.steer (m : Mod) (off : Int) : Mod :=
  let cur := toInt 32 (m.get F.TIME_FREQ_FREQ)
  let past := cur :: m.clk.recent.map (·.2)
  let lo := past.foldl (fun a x => max a (x - 100000)) (-20000000)
  let hi := past.foldl (fun a x => min a (x + 100000)) 20000000
  let by_ : Int := ((m.free.toNat % 100001 : Nat) : Int)
  let f := max (-20000000) (min 20000000 (max lo (min hi (cur + off.sign * by_))))
  let m := { m with clk := { m.clk with freqs := (m.clk.ns, cur) :: m.clk.recent } }
  (m.drawn).set F.TIME_FREQ_FREQ (ofInt 32 f)

/-- The sync state after a measurement of the source that steers (R156 to R158): LOCKED or EXTERNAL within ±100 ns; ACQUIRING after eight in a
row beyond. -/
def Mod.steered (m : Mod) (x : Source) (off : Int) : Mod :=
  let st := m.get F.TIME_STATUS_STATE
  let m := m.when (decide (32000000 < off.natAbs)) (fun m => m.wantStep off)
  if st = syAcq then (if near100 off then m.setSync (lockState x) (srcCode x) else m.acqShow)
  else if st = syLocked ∨ st = syExt then
    if 8 ≤ m.clk.beyond then m.setSync syAcq (srcCode x) else m.setSync (lockState x) (srcCode x)
  else m

/-! ### Masters (R152) -/

/-- The data set of an announce as the default best master clock algorithm compares it, the lower the better (log entry 129). -/
def Announce.rank (a : Announce) (sender : Nat) : Nat :=
  ((((((a.prio1.toNat * 2 ^ 8 + a.cls.toNat) * 2 ^ 8 + a.acc.toNat) * 2 ^ 16 + a.var.toNat) * 2 ^ 8 + a.prio2.toNat) * 2 ^ 64 + a.gm.toNat) * 2 ^ 16
    + a.steps.toNat) * 2 ^ 80 + sender

/-- The master that an uplink has chosen: its port identity and its announce. -/
def SrcSt.master (s : SrcSt) : Option (Nat × Announce) :=
  s.masters.foldl (fun b x => match b with
    | none => some x
    | some y => if x.2.rank x.1 < y.2.rank y.1 then some x else some y) none

/-- A message is of the domain and the transport that TIME_PTP sets (R152, R171; 3 is taken as 0), on an uplink that PTP is enabled on. -/
def Mod.ptpTakes (m : Mod) (u : Fin 2) (h : PtpHead) : Bool :=
  let t := m.get F.TIME_PTP_TRANSPORT
  srcEnabled m (uplSrc u) && h.domain.toNat == m.get F.TIME_PTP_DOMAIN && h.transport.val == (if t = 3 then 0 else t)

/-- A message comes from the master that the uplink has chosen. -/
def Mod.fromMaster (m : Mod) (u : Fin 2) (h : PtpHead) : Bool := (m.src (uplSrc u)).master.any (fun x => x.1 == h.sender.toNat)

/-- TIME_GM and TIME_UTC show the announce of the source that is selected (R171). -/
def Mod.masterShow (m : Mod) (x : Source) : Mod :=
  match (m.src x).master with
  | some (_, a) =>
    let m := (m.set F.TIME_GM_HI_ID_HI (a.gm.toNat / 2 ^ 32)).set F.TIME_GM_LO_ID_LO a.gm.toNat
    let m := m.when a.utcValid (fun m => (m.set F.TIME_UTC_OFFSET a.utc.toNat).set F.TIME_UTC_VALID 1)
    (m.setB F.TIME_UTC_LEAP61 a.leap61).setB F.TIME_UTC_LEAP59 a.leap59
  | none => m

/-! ### Measurements and losses (R151, R153, R154, R158) -/

/-- The module steers from another source (R151): where the two offsets differ by more than 100 ns, it is a new acquisition. -/
def Mod.switchTo (m : Mod) (y : Source) : Mod :=
  if m.clk.selected = some y then m
  else
    let agree := match m.clk.selected with
      | some x => near100 ((m.src y).offset - (m.src x).offset)
      | none => true
    let st := m.get F.TIME_STATUS_STATE
    let m := ({ m with clk := { m.clk with selected := some y, beyond := 0 } }).masterShow y
    if st = syLocked ∨ st = syExt then m.setSync (if agree then lockState y else syAcq) (srcCode y) else m

/-- A measurement of an enabled source (R149, R151, R156, R158): its offset and run of good intervals; where it is
the one that steers, TIME_OFFSET, the frequency, a step beyond 1 ms, and the states. A source begins to qualify with its first good interval. DESIGN CHOICE
(log entry 132): a source that ORDER leaves out qualifies as any other, moves the state to ACQUIRING, and may make the first qualification after FREE. -/
def Mod.measured (m : Mod) (x : Source) (off : Int) (good : Bool) : Mod :=
  let m := m.srcMap x (fun s => { s with offset := off, good := if good then s.good + 1 else 0 })
  let st := m.get F.TIME_STATUS_STATE
  let m := m.when ((st == syFree || st == syHold) && good && !m.twin.follower) (fun m => m.setSync syAcq m.acqCode)
  match m.bestSrc with
  | none => if m.twin.follower then m else (m.set F.TIME_OFFSET_OFFSET (offField off)).acqShow
  | some y =>
    if y = x then
      let m := ((m.switchTo x).set F.TIME_OFFSET_OFFSET (offField off)).steer off
      let m := m.setB F.TIME_STATUS_SLEWING (!near100 off)
      let m := { m with clk := { m.clk with beyond := if near100 off then 0 else m.clk.beyond + 1 } }
      m.steered x off
    else m.acqShow

/-- A source is lost (R151, R153, R154, R158). Another that is qualified takes over at its next measurement. DESIGN CHOICE (log entry 133): a qualified source
lost in ACQUIRING leads back as one that had not qualified does, to HOLDOVER where the state before was LOCKED or EXTERNAL. -/
def Mod.loseSrc (m : Mod) (x : Source) : Mod :=
  let sel := m.clk.selected == some x && (m.src x).qual
  let m := (m.srcMap x (fun s => { s with qual := false, good := 0, lastEdge := none })).set (qualFld x) 0
  let m := m.when sel (fun m => m.addSat F.TIME_EVENTS_LOSSES 1)
  let st := m.get F.TIME_STATUS_STATE
  let others := ([Source.uplA, .uplB, .pps]).any (fun y => srcEnabled m y && decide (0 < (m.src y).good))
  if m.twin.follower then m
  else if m.bestSrc.isSome then m.acqShow
  else
    let m := m.set F.TIME_STATUS_SLEWING 0
    if st = syLocked ∨ st = syExt then m.setSync syHold m.holdCode
    else if st = syAcq ∧ !others then
      (if m.clk.prevState = syFree then m.setSync syFree 0 else m.setSync syHold m.holdCode)
    else m.acqShow

/-- PTP_SYNC (R152): the origin timestamp of a Sync, one-step or with its follow-up, and its receipt, both in units of 156.25 ps: the offset is origin + path delay − receipt. It is good within ±100 ns (log entry 130). -/
def execPtpSync (u : Fin 2) (h : PtpHead) (origin : Nat) (rx : Nat) (s : State) : Out :=
  onMod s fun m =>
    if m.ptpTakes u h && m.fromMaster u h && m.clk.run then
      let off : Int := 5 * ((origin : Int) + m.clk.pathDelay[u] - rx)
      m.measured (uplSrc u) off (near100 off)
    else m

/-- SOURCE_QUALIFIED (R153): sixteen good sync intervals, or eight good edges, qualify the source; the first qualification after FREE steps the counter. -/
def execSourceQualified (x : Fin 3) (s : State) : Out :=
  onMod s fun m =>
    let y : Source := match x with | 0 => .uplA | 1 => .uplB | 2 => .pps
    let need := if y = .pps then 8 else 16
    if srcEnabled m y ∧ !(m.src y).qual ∧ need ≤ (m.src y).good then
      let first := !m.clk.everQual && !m.twin.follower
      let m := (m.srcMap y (fun s => { s with qual := true })).set (qualFld y) 1
      let m := { m with clk := { m.clk with everQual := true } }
      let off := (m.src y).offset
      let m := m.when first (fun m => m.wantStep off)
      if m.bestSrc = some y then
        let m := m.switchTo y
        if m.get F.TIME_STATUS_STATE = syAcq ∧ (near100 off ∨ (first ∧ m.stepAtOnce)) then m.setSync (lockState y) (srcCode y) else m.acqShow
      else m.acqShow
    else m

/-- PTP_ANNOUNCE (R153): the best master is chosen anew; a changed grandmaster loses the source until it qualifies again; the UTC record follows (R429). A master 255 or more steps away is none. -/
def execPtpAnnounce (u : Fin 2) (h : PtpHead) (a : Announce) (s : State) : Out :=
  onMod s fun m =>
    let x := uplSrc u
    if m.ptpTakes u h && decide (a.steps.toNat < 255) then
      let old := (m.src x).master.map (fun b => b.2.gm)
      let m := m.srcMap x (fun s => { s with masters := mapPut h.sender.toNat a s.masters })
      let changed := old.isSome && old != (m.src x).master.map (fun b => b.2.gm)
      let m := m.when changed (fun m => m.loseSrc x)
      let m := m.when (m.clk.selected == some x || m.clk.selected.isNone) (fun m => m.masterShow x)
      m.utcRecord
    else m

/-- ANNOUNCE_TIMEOUT (R153): the master is gone and the PTP source lost. -/
def execAnnounceTimeout (u : Fin 2) (s : State) : Out :=
  onMod s fun m =>
    let x := uplSrc u
    (m.srcMap x (fun s => { s with masters := match s.master with | some b => mapDel b.1 s.masters | none => [] })).loseSrc x

/-- SYNC_TIMEOUT (R153): the PTP source is lost. -/
def execSyncTimeout (u : Fin 2) (s : State) : Out :=
  onMod s fun m => m.loseSrc (uplSrc u)

/-- TSYNC_IN_EDGE (R154): an edge at building time t, in units of 156.25 ps: less IN_DELAY it marks the nearest whole second; good where it lies 1 s ± 1 µs after the one before. -/
def execTsyncInEdge (t : Nat) (s : State) : Out :=
  onMod s fun m =>
    if srcEnabled m .pps && m.clk.run then
      let e := 5 * t - 32 * m.get F.TIME_PPS_IN_DELAY
      let near := (e + 16000000000) / 32000000000 * 32000000000
      let off : Int := (near : Int) - e
      let good := match (m.src .pps).lastEdge with
        | some l => decide ((e : Int) - l - 32000000000 ≤ 32000 ∧ -32000 ≤ (e : Int) - l - 32000000000)
        | none => false
      let m := m.srcMap .pps (fun s => { s with lastEdge := some e })
      m.measured .pps off good
    else m

/-- PPS_LOSS (R154): two missing edges lose the TSYNC_IN source. -/
def execPpsLoss (s : State) : Out :=
  onMod s fun m => m.loseSrc .pps

/-- TSYNC_OUT_PULSE (R155): the pin rises where OUT_EN is 1 and the state is LOCKED, EXTERNAL or HOLDOVER, or OUT_FREE is 1. -/
def execTsyncOutPulse (s : State) : Out :=
  onMod s fun m =>
    let st := m.get F.TIME_STATUS_STATE
    let drive := m.flag F.TIME_PPS_OUT_EN
      && (st == syLocked || st == syExt || st == syHold || m.flag F.TIME_PPS_OUT_FREE)
    { m with clk := { m.clk with tsyncOut := drive } }

/-- TSYNC_OUT_FALL (R155): the pin falls. -/
def execTsyncOutFall (s : State) : Out :=
  onMod s fun m => { m with clk := { m.clk with tsyncOut := false } }

/-- An armed swap whose second a step has passed, or that lies in the Drum's pause, waits for the next whole second (log entry 123). -/
def Mod.rearm (m : Mod) (sec : Nat) : Mod :=
  match m.plan.armed with
  | some s => if s ≤ sec then ({ m with plan := { m.plan with armed := some (sec + 1) } }).set F.PLAN_SWAP_SEC_SEC (sec + 1) else m
  | none => m

/-- TIME_STEP (R156): at the end of the hyperperiod the counter takes the corrected value, and the Drum pauses to the next whole second of corrected building time. A swap that uses the window goes first. -/
def execTimeStep (s : State) : Out :=
  onMod s fun m =>
    match m.clk.stepPending with
    | none => m
    | some o =>
      if !m.clk.run || m.plan.migrated then m
      else
        let m := (m.reach ((m.clk.ns + 999999999) / 1000000000 * 1000000000)).applyStep o
        let sec := (m.clk.ns + 999999999) / 1000000000
        ({ m with fired := (0, 0), clk := { m.clk with pausedUntil := some sec } }).rearm sec

/-- Nanoseconds in the current HOLDOVER (R159). -/
def Mod.heldNs (m : Mod) : Nat := if m.get F.TIME_STATUS_STATE = syHold then m.clk.ns - m.clk.holdEntry else 0

/-- The estimate of R159 exceeds TIME_CFG.HOLD_ERR (R171: 0 is taken as 1), both in units of 10^-9 ns. -/
def Mod.holdOver (m : Mod) : Bool := decide (max 1 (m.get F.TIME_CFG_HOLD_ERR) * 10 ^ 12 < 20 * 10 ^ 9 + 100 * m.heldNs)

/-- HOLDOVER_TO_FREE (R158): at building time t the estimate of R159 exceeds HOLD_ERR: the state becomes FREE. -/
def execHoldoverToFree (t : Nat) (s : State) : Out :=
  onMod s fun m =>
    if m.get F.TIME_STATUS_STATE = syHold ∧ !m.twin.follower ∧ m.clk.run ∧ m.clk.ns ≤ t ∧ (m.reach t).holdOver then (m.reach t).setSync syFree 0 else m

/-- PTP_DELAY_RESPONSE (R152): the mean path delay in units of 156.25 ps that later offsets use, by the mechanism that P2P sets: end to end from the master, or from the link's peer. How a delay request is addressed (UNICAST_DREQ) shows on the wire alone. -/
def execPtpDelayResponse (u : Fin 2) (h : PtpHead) (peer : Bool) (delay : Nat) (s : State) : Out :=
  onMod s fun m =>
    if m.ptpTakes u h && m.flag F.TIME_PTP_P2P == peer && (peer || m.fromMaster u h) then
      { m with clk := { m.clk with pathDelay := m.clk.pathDelay.set u delay } }
    else m

/-! ### The TCXO (R148) -/

/-- One TCXO cycle (R148, R171): while the time unit runs, the cycle count advances, and building time by 40 ns corrected by
TIME_FREQ (in units of 10^-11), to 2^-32 ns; what lies below that is kept in `res`. -/
def Mod.tick (m : Mod) : Mod :=
  if m.clk.run then
    let rate := (100000000000 + toInt 32 (m.get F.TIME_FREQ_FREQ)).toNat
    let acc := m.clk.frac * 100000000000 + m.clk.res + 40 * 2 ^ 32 * rate
    let q := acc / 100000000000
    { m with clk := { m.clk with
        mono := m.clk.mono + 1
        ns := (m.clk.ns + q / 2 ^ 32) % 2 ^ 64
        frac := q % 2 ^ 32
        res := acc % 100000000000 } }
  else m

end Sys2Proof.Machine
end

