-- ==== Sys2Proof/Machine/UplOps.lean ====
section
/-! DEFINITION. What an uplink does as a link (R307 to R318, R323, R457): its range, link-up and link-down, speed shifts, settings applied and
returned. -/

namespace Sys2Proof.Machine

/-- Uplink A of a ZF-4096-FX is the SFP+ cage; every other uplink is copper (R306). -/
def Mod.isSfp (m : Mod) (u : Fin 2) : Bool := m.fx && u == 0

/-- The speed codes of a medium (R306, R325): the SFP+ cage has no 2.5 and 5 Gbit/s. -/
def Mod.uplCodes (m : Mod) (u : Fin 2) : List Nat := if m.isSfp u then [0, 1, 4] else [0, 1, 2, 3, 4]

/-- A setting's speed code; on the SFP+ cage 2 and 3 are taken as 1 (R325). -/
def Mod.uplCode (m : Mod) (u : Fin 2) (c : Nat) : Nat := if m.isSfp u && (c == 2 || c == 3) then 1 else c

/-- The speeds of the range MIN_SPEED to MAX_SPEED in force, rising. -/
def Mod.uplRange (m : Mod) (u : Fin 2) : List Nat :=
  (m.uplCodes u).filter (fun c =>
    decide (m.uplCode u (m.uplSet u F.UPL_CFG_MIN_SPEED) ≤ c) && decide (c ≤ m.uplCode u (m.uplSet u F.UPL_CFG_MAX_SPEED)))

/-- Bits per second of a speed code (R325). -/
def uplBps (c : Nat) : Nat := [100000000, 1000000000, 2500000000, 5000000000].getD c 10000000000

/-- The highest code of a list that a mask holds. -/
def highestIn (l : List Nat) (mask : Nat) : Option Nat := ((l.filter (fun c => bitAt mask c)).reverse).head?

/-- The uplink is enabled (CFG.EN of the settings in force). -/
def Mod.uplEn (m : Mod) (u : Fin 2) : Bool := m.uplSet u F.UPL_CFG_EN != 0

abbrev pdUpl (u : Fin 2) : Fin 15 := if u = 0 then 11 else 12

/-- The uplink's hardware runs: its domain and PLL-N, locked (R13, R474). -/
def Mod.uplRuns (m : Mod) (u : Fin 2) : Bool :=
  m.isOn (swPd (pdUpl u)) && m.isOn swPllN && !bitAt m.pwr.unlocked 3

def Mod.uplMap (m : Mod) (u : Fin 2) (f : UplSt → UplSt) : Mod := { m with upl := m.upl.set u (f m.upl[u]) }

/-- The link is down (R311, R323): preemption ends, the frames of its transmit channels are discarded and counted, and its PTP source is
lost (R314). -/
def Mod.uplDown (m : Mod) (u : Fin 2) : Mod :=
  let m := (m.set (F.UPL_STATUS_LINK u.val) 0).set (F.UPL_STATUS_PREEMPT_ACTIVE u.val) 0
  let m := m.poolLose (fun f => f.ch == 4 * u.val + 2 || f.ch == 4 * u.val + 3)
  if (m.src (uplSrc u)).qual then m.loseSrc (uplSrc u) else m

/-- The link is up at a speed (R311, R325). -/
def Mod.uplUp (m : Mod) (u : Fin 2) (c : Nat) : Mod :=
  let m := ((m.set (F.UPL_STATUS_LINK u.val) 1).set (F.UPL_STATUS_SPEED u.val) c).set (F.UPL_STATUS_SHIFTING u.val) 0
  let m := m.set (F.UPL_STATUS_PREEMPT_ACTIVE u.val) 0
  m.uplMap u (fun x => { x with upAt := m.optime, shift := none, loads := [], rx := 0, waiting := false, stop := (0, 0), pfc := Vector.replicate 8 (0, 0) })

/-! ### Speed shifts (R312 to R314) -/

/-- This uplink carries the only qualified PTP source (R153, R314). -/
def Mod.onlyPtp (m : Mod) (u : Fin 2) : Bool :=
  (m.src (uplSrc u)).qual && !(m.src (uplSrc (if u = 0 then 1 else 0))).qual

def Mod.holdoffOver (m : Mod) (u : Fin 2) : Bool :=
  decide (m.upl[u].upAt + max 10 (m.uplSet u F.UPL_SHIFT_TIME_HOLDOFF) * 1000 ≤ m.optime)

/-- A shift carried out: renegotiation with the target as the only speed advertised. -/
def Mod.doShift (m : Mod) (u : Fin 2) (target : Nat) : Mod :=
  let old := m.get (F.UPL_STATUS_SPEED u.val)
  let m := (m.uplDown u).set (F.UPL_STATUS_SHIFTING u.val) 1
  let m := (m.addSat (F.UPL_SHIFTS_COUNT u.val) 1).log .uplShift u.val (leBytes 1 old ++ leBytes 1 target)
  m.uplMap u (fun x => { x with shift := some target, shiftAt := m.clk.mono, waiting := false })

/-- A shift that is due (R314). -/
def Mod.shiftDue (m : Mod) (u : Fin 2) (target : Nat) (down : Bool) : Mod :=
  if !m.holdoffOver u then m.uplMap u (fun x => { x with waiting := true })
  else if down && m.uplSet u F.UPL_CFG_SHIFT_GUARD != 0 && m.onlyPtp u then m
  else m.doShift u target

/-- The target of a downshift that is due (R312): the load averaged over DOWN_DWELL seconds since link-up. -/
def Mod.downTarget (m : Mod) (u : Fin 2) : Option Nat :=
  let dwell := max 10 (m.uplSet u F.UPL_SHIFT_TIME_DOWN_DWELL)
  let l := m.upl[u].loads
  let thr := max 1 (m.uplSet u F.UPL_SHIFT_DOWN_THR)
  if l.length < dwell then none
  else (m.uplRange u).find? (fun c => decide (c < m.get (F.UPL_STATUS_SPEED u.val)) && decide (l.foldl (· + ·) 0 * 100 ≤ uplBps c * thr * dwell))

/-- The traffic makes an upshift due (R313): the transmit channels above UP_THR for 10 ms (250,000 TCXO cycles), or the bits received in the last
second measured above UP_RX per cent of the present speed. -/
def Mod.upDue (m : Mod) (u : Fin 2) : Bool :=
  (match m.upl[u].fullAt with | some t => decide (t + 250000 ≤ m.clk.mono) | none => false)
    || decide (uplBps (m.get (F.UPL_STATUS_SPEED u.val)) * max 1 (m.uplSet u F.UPL_SHIFT_UP_RX) < m.upl[u].rx * 100)

/-- The target of an upshift that is due: MAX_SPEED, where the link runs below it (R313). -/
def Mod.upTarget (m : Mod) (u : Fin 2) : Option Nat :=
  if m.upDue u then ((m.uplRange u).getLast?).filter (fun c => decide (m.get (F.UPL_STATUS_SPEED u.val) < c)) else none

/-- Shifts are made on a copper uplink with SHIFT_EN, with its link up. -/
def Mod.shifts (m : Mod) (u : Fin 2) : Bool :=
  !m.isSfp u && m.uplSet u F.UPL_CFG_SHIFT_EN != 0 && m.flag (F.UPL_STATUS_LINK u.val) && m.st != xRecovery

/-! ### Settings (R318) -/

/-- The settings in force change: the domain follows CFG.EN (R469), a link at a speed outside the new range goes down, preemption ends where it
is no longer enabled. -/
def Mod.uplUse (m : Mod) (u : Fin 2) (ws : List Word) : Mod :=
  let m := (m.uplMap u (fun x => { x with live := ws })).poolMark u
  let keep := m.uplEn u && (m.uplRange u).contains (m.get (F.UPL_STATUS_SPEED u.val))
  let m := if m.flag (F.UPL_STATUS_LINK u.val) && !keep then m.uplDown u else m
  let m := if m.uplSet u F.UPL_CFG_PREEMPT_EN = 0 then m.set (F.UPL_STATUS_PREEMPT_ACTIVE u.val) 0 else m
  if m.uplEn u then m.pdOn [(pdUpl u).val] else m.pdOff [(pdUpl u).val]

/-- An uplink's settings as bytes, and back. -/
def uplBytes (ws : List Word) : List Byte := ws.flatMap (fun w => leBytes 4 w.toNat)
def resetUpl (u : Nat) : List Word := (uplRegs u).map resetWord

/-- An uplink's permanent settings (R318): the confirmed set, or the reset values. -/
def Mod.uplStored (m : Mod) (u : Nat) : List Word :=
  match m.paramGet (keyStored 0x70000) with
  | some bs => bytesWords 12 (bs.drop (48 * u))
  | none => resetUpl u

/-- APPLY: the staged copy is live at once and stored as a pending set. -/
def Mod.uplApply (m : Mod) (u : Fin 2) (tag : Option (Nat × Nat)) : Mod :=
  let ws := (uplRegs u.val).map m.word
  let m := m.uplMap u (fun x => { x with prev := some (x.prev.getD x.live), appliedAt := m.clk.mono })
  ((m.set (F.UPL_STATUS_PENDING u.val) 1).uplUse u ws).paramPut (keyUplink u.val) (uplBytes ws) tag

/-- CONFIRM: the pending set is permanent. -/
def Mod.uplConfirm (m : Mod) (u : Fin 2) (tag : Option (Nat × Nat)) : Mod :=
  if m.upl[u].prev.isSome then
    let set (v : Fin 2) : List Word := if v = u then m.upl[u].live else m.uplStored v.val
    let bs := uplBytes (set 0) ++ uplBytes (set 1)
    let m := (m.uplMap u (fun x => { x with prev := none })).set (F.UPL_STATUS_PENDING u.val) 0
    (m.paramPut (keyStored 0x70000) bs tag).paramDel (keyUplink u.val)
  else m

/-- REVERT, or no confirmation: back to the previous settings. -/
def Mod.uplRevert (m : Mod) (u : Fin 2) : Mod :=
  match m.upl[u].prev with
  | some ws =>
    let m := ((m.uplMap u (fun x => { x with prev := none })).set (F.UPL_STATUS_PENDING u.val) 0).uplUse u ws
    (m.paramDel (keyUplink u.val)).log .uplReverted u.val []
  | none => m

/-- The settings of uplink A in RECOVERY (R457): fixed 1 Gbit/s; the stored IPv4 address and VLAN of a confirmed set, else an address from
UNIT_ID, untagged. -/
def Mod.uplRecovery (m : Mod) : List Word :=
  let ip : List Word :=
    match m.paramGet (keyStored 0x70000) with
    | some bs => ((bytesWords 12 bs).drop 3).take 4
    | none =>
      let id := Config.unitId.toNat
      [0, BitVec.ofNat 32 (169 * 2 ^ 24 + 254 * 2 ^ 16 + (1 + bits id 8 8 % 254) * 2 ^ 8 + bits id 0 8), 16, 0]
  [0x213, 0x504014, 0x12C0258] ++ ip ++ [0, 0, 0, 0, 64]

/-! ### The transceiver (R308) -/

/-- What the module knows of the transceiver at insertion or when PD11 comes up; TX_DISABLE is released with a transceiver, EN and PD11. -/
def Mod.sfpSeen (m : Mod) : Mod :=
  let here := m.fx && m.upl[(0 : Fin 2)].sfp.isSome
  let m := m.setB (F.UPL_STATUS_SFP_PRESENT 0) here
  if here && m.uplEn 0 && m.isOn (swPd 11) then m.swOnNow swLaser else m.swOff swLaser

end Sys2Proof.Machine
end

