-- ==== Sys2Proof/Machine/Reset.lean ====
section
/-! DEFINITION. Power and restarts (R440, R454, R464 to R484, R497): domains that come on and go off, the hard restart, what ROM and firmware do
at BOOT, and the planned save. -/

namespace Sys2Proof.Machine

/-! ### Measurements (R464, R501, R503) -/

/-- A field that keeps the lowest reading since it was last read. -/
def Mod.lowest (m : Mod) (f : Fld) (v : Nat) : Mod := m.set f (min (m.get f) v)
/-- A field that keeps the highest signed reading since it was last read. -/
def Mod.highestS (m : Mod) (f : Fld) (v : Nat) : Mod := if toInt 16 (m.get f) < toInt 16 v then m.set f v else m

/-- The nominal voltage of a rail in mV (R504). -/
def railNominal (r : Nat) : Nat := [800, 900, 1000, 1200, 1800, 3300, 5000, 12000].getD r 0

/-- The domains that a rail feeds, by its name in R504 (DEDUCED, log entry 136); none where the name tells no domain. -/
def railDomains (r : Nat) : List (Fin 15) := match r with
  | 0 => [3, 4, 5, 6, 7] | 1 => [3, 6, 14] | 2 => [11, 12, 13] | 3 => [2] | 6 => [9] | 7 => [9] | _ => []

/-- The 1 ms measurement (R503), the source of PD0 (R464), and the time each domain has been on. -/
def Mod.supplies (m : Mod) (x : Meas) : Mod :=
  let m := (m.set F.PWR_VIN_MV x.vin.toNat).lowest F.PWR_VIN_MIN_MV x.vin.toNat
  let m := (m.set F.PWR_VAUX_MV x.vaux.toNat).lowest F.PWR_VAUX_MIN_MV x.vaux.toNat
  let m := ((m.set F.PWR_VBAT_MV x.vbat.toNat).set F.PWR_HOLDUP_MV x.holdup.toNat).set F.PWR_SCAP_MV x.scap.toNat
  let m := (m.setB F.PWR_STATUS_VAUX_OK (decide (17000 < x.vaux.toNat))).setB F.PWR_STATUS_VBAT_FITTED (decide (1000 < x.vbat.toNat))
  let m := m.setB F.PWR_STATUS_HOLDUP_READY (decide (14000 ≤ x.holdup.toNat))
  let m := m.set F.PWR_STATUS_BACKUP_SRC (if m.flag F.PWR_STATUS_VIN_OK then 0 else if 2400 ≤ x.vbat.toNat then 1 else 2)
  let m := (m.set F.PWR_POWER_MW x.mw.toNat).set F.PWR_POWER_PEAK_MW (max (m.get F.PWR_POWER_PEAK_MW) x.peak.toNat)
  let m := (List.range 8).foldl (fun m r =>
    let off := !(railDomains r).isEmpty && (railDomains r).all (fun d => m.pdPh d.val == .off)
    let v := if off then 0 else (x.rails.getD r 0).toNat
    (m.set (F.PWR_RAIL_MV r) v).setB (F.PWR_RAIL_OK r) (decide (95 * railNominal r ≤ 100 * v) && decide (100 * v ≤ 105 * railNominal r))) m
  let m := (List.range 4).foldl (fun m k =>
    (m.set (F.SYS_TEMP_TEMP k) (x.temps.getD k 0).toNat).highestS (F.SYS_TEMP_MAX k) (x.temps.getD k 0).toNat) m
  (List.finRange 15).foldl (fun m (d : Fin 15) =>
    let m := m.when (d.val == 0 || m.pdPh d.val != .off) (fun m => m.addWrap (F.PWR_DOMAIN_ON_MS_MS d.val) 1)
    m.set (F.PWR_DOMAIN_CURRENT_MA d.val) (if d.val < 2 then 0 else (x.currents.getD d.val 0).toNat)) m

/-! ### Domains -/

/-- The PLL a domain runs on where the domain brings it up (R13, R469, R473). -/
def pdPll (d : Nat) : Option (Fin 31) :=
  match d with
  | 3 => some swPllM | 8 => some swPllA | 10 => some swPllP | 11 => some swPllN | 12 => some swPllN | 13 => some swPllN | 14 => some swPllN | _ => none

/-- A PLL, or the laser, stands on or off at once with the domain that carries it. -/
def Mod.swSet (m : Mod) (i : Fin 31) (on : Bool) : Mod :=
  m.swMap i (fun w => { w with ph := if on then .on else .off, pendOn := false, pendOff := false, offAt := if on then w.offAt else some m.clk.mono })

/-- The staged registers of an uplink hold its settings in force (R318, R324). -/
def Mod.uplLoad (m : Mod) (u : Fin 2) : Mod :=
  ((uplRegs u.val).zip m.upl[u].live).foldl (fun m x => m.setWord x.1 x.2) m

/-- What a domain finds when it has become usable (R21, R42, R269, R384, R469, R498, R521). -/
def Mod.pdFound (m : Mod) (d : Nat) : Mod :=
  match d with
  | 3 =>
    let m := (m.restoreBlock 0x90000).setB F.PLAN_STATUS_ACTIVE_SLOT (((m.paramGet keyActive).getD []).headD 0 == 1)
    { m with exec := { m.exec with heartbeat := true } }
  | 6 =>
    let m := (List.finRange 8).foldl (fun m (b : Fin 8) =>
      let m := m.setB (F.TILE_BANK_SUSPECT b.val) (m.paramGet (keySuspect b.val)).isSome
      m.set (F.TILE_BANK_RECENT b.val) (min 3 (m.mem.bankTimes[b].filter (fun t => decide (m.optime < t + 3600000))).length)) m
    (m.set F.TILE_STATUS_SUSPECT ((List.range 8).foldl (fun a b => a + m.get (F.TILE_BANK_SUSPECT b) * 2 ^ b) 0)).set F.TILE_STATUS_CLEARING 0
  | 9 =>
    let m := (List.finRange 4).foldl (fun m (k : Fin 4) =>
      match m.safe.latch[k] with
      | some (c, chB) =>
        let m := ((m.set (F.SAFE_SO_STATUS_FAULT k.val) 1).set (F.SAFE_SO_STATUS_CAUSE k.val) c).setB (F.SAFE_SO_STATUS_CHANNEL k.val) chB
        ((m.reqSafe (soOut k false) 4).reqSafe (soOut k true) 4).set F.SAFE_STATUS_SO_FAULT 1
      | none => m) m
    m.setB F.FIO_STATUS_VAUX_OK (m.flag F.PWR_STATUS_VAUX_OK)
  | 11 => ((m.uplLoad 0).setB (F.UPL_STATUS_PENDING 0) m.upl[(0 : Fin 2)].prev.isSome).sfpSeen
  | 12 => (m.uplLoad 1).setB (F.UPL_STATUS_PENDING 1) m.upl[(1 : Fin 2)].prev.isSome
  | 13 =>
    let m := (m.restoreBlock 0x80000).setB F.TWIN_STATUS_SIDE m.pwr.sampled.sideB
    m.set F.TWIN_BAR_PEER_LINE m.pwr.bar
  | 14 => m.set F.FPOOL_STATUS_CLEARING 0
  | _ => m

/-- ROM enters RECOVERY (R456): neither metrology nor field ports start, and only uplink A comes up. -/
def Mod.recoveryEnter (m : Mod) (reason : Nat) : Mod :=
  let m := (m.log .recovery 0 (leBytes 1 reason)).goto xRecovery
  let m := { m with orpor := { sessions := recoverySess } }
  let m := [8, 9].foldl (fun m d => if m.pdPh d = .off then m else ((m.swSet (swPd (Fin.ofNat 15 d)) false).pdLose d).pdRegs d) m
  let m := { m with upl := m.upl.set 0 { m.upl[(0 : Fin 2)] with live := m.uplRecovery, prev := none } }
  ((m.swSet swPllA false).pdSet [8, 9] false).pdSet [11] true

/-- ROM at BOOT (R454, R456): the recovery pin, the candidate, its trial, the fallback. -/
def Mod.romBoot (m : Mod) : Mod :=
  if m.pwr.sampled.recovery then m.recoveryEnter 1
  else match m.candidate with
    | none => m.recoveryEnter 2
    | some i =>
      let b := m.key.banks[i]
      if b.confirmed then m.bankRun i
      else
        let m := m.when m.key.tried (fun m => m.log .fwAttemptFailed i.val (leBytes 4 (m.bankVersion i) ++ leBytes 1 b.attempts))
        let m := { m with key := { m.key with tried := false } }
        if b.attempts < 3 then
          (({ m with key := { m.key with tried := true } }).bankMap i (fun b => { b with attempts := b.attempts + 1 })).bankRun i
        else
          let o := otherBank i
          if m.bankOk o && m.key.banks[o].confirmed then
            let m := { m with pwr := { m.pwr with merged := m.pwr.merged ||| 64 } }
            ((m.set F.EXEC_STATE_CAUSE 6).log .fwFallback o.val (leBytes 4 (m.bankVersion i) ++ leBytes 4 (m.bankVersion o))).bankRun o
          else m.recoveryEnter 3

/-- A domain has become usable (R469, R503): its memories are cleared, its registers at their reset values, its stored set in force. PD3 starts
ROM in BOOT. -/
def Mod.pdUp (m : Mod) (d : Fin 15) : Mod :=
  let m := m.swMap (swPd d) (fun w => { w with ph := .on, pendOn := false })
  let m := match pdPll d.val with | some p => m.swSet p true | none => m
  let m := { m with pwr := { m.pwr with fresh := putBits m.pwr.fresh d.val 1 1 } }
  let m := (m.addWrap (F.PWR_DOMAIN_ONS_COUNT d.val) 1).pdFound d.val
  m.when (d.val == 3 && m.st == xBoot) Mod.romBoot

/-- What follows from an event shows that a wanted domain is usable. -/
def Mod.pdSeen (m : Mod) (d : Fin 15) : Mod := if m.pdWant d.val && m.pdPh d.val != .on then m.pdUp d else m

/-- A domain is off: its memories and registers are lost (R46, R497); what runs only in it is off with it. -/
def Mod.pdDown (m : Mod) (d : Fin 15) : Mod :=
  let m := (m.pdLose d.val).pdRegs d.val
  match d.val with
  | 3 => m.swSet swPllM false
  | 6 => m.swSet swPllF false
  | 8 => m.swSet swPllA false
  | 10 => ((List.finRange 8).foldl (fun m (k : Fin 8) => m.swSet (swT1l k) false) ((m.swSet swPllP false).swSet swMbus false))
  | 11 => (m.uplDown 0).swSet swLaser false
  | 12 => m.uplDown 1
  | 14 => m.swSet swPllN false
  | 2 => m.swSet swTcxo false
  | _ => m

/-- A domain is switched off with all that needs it (R469, R477, R483); one that is off already stays so. -/
def Mod.pdKill (m : Mod) (d : Fin 15) : Mod :=
  let m := m.pdSet [d.val] false
  if m.pdPh d.val = .off then m else (m.swSet (swPd d) false).pdDown d

/-! ### The hard restart (R107, R113, R476, R477) -/

/-- Everything that runs stops, and every output takes its reset state (R105, R477, R483). Pair fault latches stay (R269). -/
def Mod.allStop (m : Mod) : Mod :=
  let m := (((m.barRelease.cancelSwap.abortTests).haltLanes).dropStaging.jackOff).bitOff
  let m := { m with
    outs := m.outs.map (fun (u : OutSt) => { req := u.req &&& 16 })
    plan := { m.plan with active := none, drumA := [], drumB := [], armed := none, armSafe := none, armRecord := false, migrated := false }
    lanes := Vector.replicate 8 {}
    exec := { autoTimes := m.exec.autoTimes }
    mem := { m.mem with writes := [], before := [] }
    retain := m.retain.map (fun (r : RetainSlot) => if r.writing then { r with ok := false, writing := false } else r) }
  let m := (m.set F.EXEC_STATE_NOPLAN 1).set F.EXEC_RETAIN_WRITING 0
  (m.set F.SAFE_STATUS_FAULT 0).set F.SAFE_STATUS_CAUSE 0

/-- Flash work at a hard restart (R477, step 3): a page program that runs completes, an erase is abandoned, nothing further starts. -/
def Mod.flashSettle (m : Mod) : Mod :=
  let m := match m.nvm.jobs with
    | .erase _ :: _ => m.flashCut
    | _ :: _ => m.programDone
    | [] => m
  { m with nvm := { m.nvm with jobs := [], margin := none }, regs := fldSet m.regs F.NVM_STATUS_MARGIN_RUN 0 }

/-- The lowest code of a mask of causes (R477). -/
def lowestCause (mask : Nat) : Nat := ((List.range 9).find? (fun c => bitAt mask c)).getD 0

/-- BOOT begins (R476, R477): the causes are merged, the straps sampled, and PD3, PD8, PD9 and PD14 come on (R469). The length of an
outage in which PD1 was off is in no record of the module (log entry 2). -/
def Mod.bootBegin (m : Mod) : Mod :=
  let c := lowestCause m.pwr.causes
  let out := match m.pwr.outageFrom with | some t => m.optime - t | none => if c = 0 then m.free.toNat % 2 ^ 32 else 0
  let m := m.when (c == 0) Mod.drawn
  let m := { m with pwr := { m.pwr with
    merged := m.pwr.causes, causes := 0, sampled := m.pwr.pins, outage := satNat 32 out, outageFrom := none, bootWait := [] } }
  let m := (m.set F.EXEC_STATE_CAUSE c).when (m.st != xBoot) (fun m => m.goto xBoot)
  m.pdOn [3, 8, 9, 14]

/-- BOOT begins where a cause waits, RESET_N is high, no save runs and PD2 is usable. -/
def Mod.bootTry (m : Mod) : Mod :=
  if m.pwr.causes != 0 && !m.pwr.resetLow && !m.pwr.saving && m.flag F.PWR_STATUS_VIN_OK && m.isOn (swPd 2) then m.bootBegin else m

/-- A hard restart of cause `c` (R113, R477). The save is never aborted (R483). -/
def Mod.hardRestart (m : Mod) (c : Nat) : Mod :=
  let m := { m with pwr := { m.pwr with causes := m.pwr.causes ||| 2 ^ c } }
  if m.pwr.saving then m
  else
    let m := m.allStop.closeAll.flashSettle
    let m := ([13, 12, 11, 10, 7, 5, 4, 6, 14, 3] : List (Fin 15)).foldl Mod.pdKill m
    let m := { m with key := { m.key with activating := false, slots := m.key.slots.map (fun (k : KeySlot) => { k with staged := none }) } }
    let m := (m.keyShow.set F.KEY_FW_STATUS_STAGE 0).goto xBoot
    m.bootTry

/-! ### BOOT (R202, R211, R224, R239, R318, R402, R416, R440, R464, R484) -/

/-- A journal slot whose write was cut. -/
def JSlot.torn (j : JSlot) : Bool := !j.ok && j.seq != 0

/-- The active slot of the plan store (R74). -/
def Mod.activeSlot (m : Mod) : Option Plan := if m.flag F.PLAN_STATUS_ACTIVE_SLOT then m.plan.slots[1] else m.plan.slots[0]

/-- The package in the active slot; where only its plan is known, the items of that plan. -/
def Mod.activePkg (m : Mod) : Option Package := (if m.flag F.PLAN_STATUS_ACTIVE_SLOT then m.plan.pkgs[1] else m.plan.pkgs[0]).or m.activeSlot

/-- METER settings of a module that has never stored a package (R200): In on V((n − 1) mod 3 + 1), and what a `MeterDef` says of itself. -/
def meterDefaults : List MeterDef := (List.range 102).map (fun c => { ch := c, vch := if c < 96 then c % 3 else 0 })

/-- The DSP's start after a PD8 power-on (R200, R202, R211, R219, R224): METER settings, calibration sets, the journal, the interval. A journalled
interval that is over ends at its own boundary. Sampling follows (`Mod.sampleStart`). -/
def Mod.metBoot (m : Mod) : Mod :=
  let m := ((m.activePkg.map (·.meter)).getD meterDefaults).foldl Mod.meterApply m
  let m := (List.range 102).foldl (fun m c =>
    (m.setMet c { m.metCh c with set := (m.paramGet (keyCal c)).map (bytesWords 15) }).calShow c) m
  let m := m.setB F.MET_STATUS_TCOMP_BAD (!m.met.tcompOk)
  let j := m.met.jrn
  let m := m.when (!(j[0].ok && j[1].ok)) (fun m => m.set F.MET_STATUS_JOURNAL_ERR 1)
  let m := m.when ((j[0].torn && j[1].ok) || (j[1].torn && j[0].ok)) (fun m => m.ctrAdd 18 1)
  let m := match journalNewest j with
    | some s => m.metRestore s.vals
    | none => (m.set F.MET_STATUS_TOTALS_LOST 1).log .metTotalsLost 0 []
  let len := m.get F.MET_INT_CFG_LEN
  let n := ofInt 64 (intNumber m len (utcNow m))
  let m := { m with met := { m.met with utc := utcNow m, len := len, loaded := some m.clk.mono } }
  if n = m.met.interval && (journalNewest j).isSome then m.set F.MET_INT_NUM_NUM n
  else
    let stop := ((toInt 64 m.met.interval + 1) * (60 * intMinutes len : Nat) + utcNow m) * 1000000000
    m.intBoundary stop.toNat (if (journalNewest j).isSome then 16 else 16 + 512)

/-- The counting inputs after a PD9 power-on (R239). -/
def Mod.cntBoot (m : Mod) : Mod :=
  let j := m.fio.cntJ
  let m := m.when ((j[0].torn && j[1].ok) || (j[1].torn && j[0].ok)) (fun m => m.ctrAdd 19 1)
  match journalNewest j with
  | some s => { m with fio := { m.fio with cnt := Vector.ofFn (fun k : Fin 8 => { m.fio.cnt[k] with count := s.vals.getD k.val 0 }) } }
  | none => (m.set F.FIO_CNT_JOURNAL_ERR 1).log .cntLost 0 []

/-- The uplinks at BOOT (R318): the permanent settings; a set that was pending when power failed is given up. -/
def Mod.uplBoot (m : Mod) : Mod :=
  (List.finRange 2).foldl (fun m (u : Fin 2) =>
    let m := { m with upl := m.upl.set u { m.upl[u] with live := m.uplStored u.val, prev := none } }
    m.when (m.paramGet (keyUplink u.val)).isSome (fun m => (m.paramDel (keyUplink u.val)).log .uplReverted u.val [])) m

/-- The domains of BIT (R469): tiles, lanes and PLL-F, the uplinks that are enabled, the String link where the bar line is not ABSENT. -/
def Mod.bitDomains (m : Mod) : Mod :=
  let m := m.pdSet ([6, 4, 5] ++ (if m.uplEn 0 then [11] else []) ++ (if m.uplEn 1 then [12] else []) ++ (if m.pwr.bar = 0 then [] else [13])) true
  m.follow.swOn swPllF

/-- Firmware starts (R202, R224, R239, R402, R403, R440, R464, R477, R484): `scap` and `vbat` are the backup supplies in mV. -/
def Mod.firmwareUp (m : Mod) (scap vbat : Nat) : Mod :=
  let m := m.storageBoot
  let m := m.when (m.get F.EXEC_STATE_CAUSE == 0) (fun m => m.ctrAdd 1 1)
  let m := m.log .restart 0 (leBytes 1 (m.get F.EXEC_STATE_CAUSE) ++ leBytes 2 m.pwr.merged ++ leBytes 4 m.pwr.outage)
  let m := m.when m.pwr.saveOpen (fun m => (m.log .saveShort 0 (leBytes 1 m.pwr.saveSteps)).set F.PWR_STATUS_SAVE_SHORT 1)
  let m := m.when (decide (scap < 2000) || (decide (1000 < vbat) && decide (vbat < 2500))) (fun m =>
    (m.log .backupLow 0 (leBytes 2 scap ++ leBytes 2 vbat)).set F.PWR_STATUS_BACKUP_LOW 1)
  let m := m.keyBoot
  let m := m.when (bitAt m.pwr.fresh 8) Mod.metBoot
  let m := m.when (bitAt m.pwr.fresh 9) Mod.cntBoot
  let m := m.uplBoot
  let m := { m with
    pwr := { m.pwr with fresh := 0, saveOpen := false, saveSteps := 0 }
    key := { m.key with bootAt := m.optime, proven := false }
    exec := { m.exec with heartbeat := true } }
  m.enterBit.bitDomains

end Sys2Proof.Machine
end

