-- ==== Sys2Proof/Machine/Orpor.lean ====
section
/-! DEFINITION. Packets in, sessions opened, the local host port (R327 to R341, R353, R367, R368, R457). -/

namespace Sys2Proof.Machine

/-! ### The header (R330) -/

/-- A header's fields. -/
structure Hdr where
  flags : Nat
  op : Nat
  session : Nat
  tag : Nat
  seq : Nat
  plen : Nat

def hdrOf (p : List Byte) : Hdr :=
  { flags := par p 5 1, op := par p 6 2, session := par p 8 4 % 1024, tag := par p 8 4 / 1024 % 128, seq := par p 12 4, plen := par p 20 2 }

/-- MAGIC, VERSION and the zero fields of a command are right and the length is 48 + PLEN (R330). -/
def packetOk (p : List Byte) : Bool :=
  par p 0 4 == 0x5250524F && par p 4 1 == 1 && decide (par p 5 1 < 16) && decide (par p 8 4 < 2 ^ 17) && par p 24 8 == 0
    && !bitAt (par p 5 1) 0 && !bitAt (par p 5 1) 2 && par p 16 4 == 0 && par p 22 2 == 0
    && decide (par p 20 2 ≤ 1400) && p.length == 48 + par p 20 2

/-- The parameters in clear, and the tag. -/
def packetParams (p : List Byte) : List Byte := (p.drop 32).take (p.length - 48)
def packetTag (p : List Byte) : List Byte := p.drop (p.length - 16)

/-! ### Acceptance (R339, R340) -/

/-- Commands in flight in the module. -/
def Mod.inFlight (m : Mod) : Nat := m.orpor.sessions.foldl (fun a s => a + s.2.flight.length) 0

/-- A refusal that leaves the SEQ unmarked. -/
def Mod.refuse (m : Mod) (h : Nat) (c : Cmd) (code detail : Nat) : Mod := m.sendTo h c code (leBytes 4 detail) false

/-- Step 5 of R339: the SEQ is marked, H rises, the command is in flight. -/
def Mod.take (m : Mod) (h : Nat) (x : Sess) (c : Cmd) : Mod :=
  let top := max x.top c.seq
  let m := m.setSess h { x with
    top := top
    seen := (c.seq :: x.seen.filter (· != c.seq)).filter (fun n => decide (top < n + 64))
    flight := x.flight ++ [c]
    lastAt := m.optime }
  { m with orpor := { m.orpor with order := m.orpor.order ++ [(h, c.seq)] } }

/-- Steps 3 to 5 of R339, then the checks of R344: an opcode that is not defined, a PLEN that is not the layout's. -/
def Mod.takeIf (m : Mod) (h : Nat) (x : Sess) (c : Cmd) : Mod :=
  match x.flight.find? (fun d => d.tag == c.tag) with
  | some d => m.refuse h c 0x0012 d.seq
  | none =>
    if 16 ≤ x.flight.length ∨ 128 ≤ m.inFlight then m.refuse h c 0x0013 (x.flight.length + m.inFlight * 65536)
    else
      let drop (m : Mod) : Mod := { m with orpor := { m.orpor with order := m.orpor.order.filter (fun o => !(o.1 == h && o.2 == c.seq)) } }
      let m := m.take h x c
      match opInfo c.op with
      | none => (drop m).endCmd h c 0x0001 (leBytes 4 c.op)
      | some i =>
        if !bitAt i.roles x.roleBit then (drop m).endCmd h c 0x0005 (leBytes 4 c.op)
        else if c.params.length ≠ expLen c.op c.params then (drop m).endCmd h c 0x0003 (leBytes 4 (expLen c.op c.params))
        else m

/-- A duplicate (R340). -/
def Mod.duplicate (m : Mod) (h : Nat) (x : Sess) (c : Cmd) : Mod :=
  if x.flight.any (fun d => d.seq == c.seq) then m
  else if kindR c.op then m.takeIf h x c
  else match x.cache.find? (fun e => e.seq == c.seq) with
    | some e => m.sendTo h { c with op := e.op } e.status e.data true
    | none => m.sendTo h c 0x0011 (leBytes 4 c.seq) false

/-- An authenticated command (R339). -/
def Mod.accept (m : Mod) (h : Nat) (x : Sess) (c : Cmd) : Mod :=
  if c.seq = 0 ∨ c.seq + 63 < x.top then m.refuse h c 0x0010 x.top
  else if x.seen.contains c.seq then m.duplicate h x c
  else m.takeIf h x c

/-! ### A packet in -/

def Mod.authFail (m : Mod) : Mod := m.addSat F.SESS_AUTH_FAIL_COUNT 1

/-- A packet in RECOVERY (R457): no session, no tag, no window. -/
def Mod.recPacket (m : Mod) (t : Nat) (d : Hdr) (p : List Byte) : Mod :=
  if d.flags != 0 || d.session != 0 then m
  else if d.op = 0 ∧ d.plen = 0 then { m with orpor := { m.orpor with greet := m.orpor.greet ++ [(t, false, p)] } }
  else if d.op < 0x0800 ∨ 0x0804 < d.op then m
  else
    let h := 1024 + t
    match m.sess h with
    | none => m
    | some x => if x.flight.any (fun c => c.seq == d.seq) then m
      else m.takeIf h x { seq := d.seq, tag := d.tag, op := d.op, urgent := false, params := packetParams p }

/-- A packet from a transport (R329 to R335). -/
def Mod.packetIn (m : Mod) (t : Nat) (viaB : Bool) (p : List Byte) : Mod :=
  if m.st = xBoot then m
  else if t = 2 ∧ ¬ viaB ∧ m.get F.SESS_CFG_HOST_EN = 0 ∧ m.st ≠ xRecovery then m
  else if !packetOk p then m.addSat F.SESS_BAD_COUNT 1
  else
    let d := hdrOf p
    if m.st = xRecovery then m.recPacket t d p
    else if d.op = 0 ∧ d.flags = 0 ∧ d.session = 0 ∧ d.plen = 0 then
      (if m.flag F.SESS_CFG_PROBE_EN then { m with orpor := { m.orpor with greet := m.orpor.greet ++ [(t, viaB, p)] } } else m)
    else if bitAt d.flags 3 then
      (if d.op = 1 ∧ d.session = 0 ∧ d.seq = 0 ∧ d.plen = 20 then { m with orpor := { m.orpor with greet := m.orpor.greet ++ [(t, viaB, p)] } }
       else m.authFail)
    else match m.sess d.session with
      | none => m.authFail
      | some x =>
        if x.transport != t || x.viaB != viaB then m.authFail
        else match gcmOpen x.kc (sessNonce d.session d.seq 0 false) (p.take 32) (p.drop 32) with
          | none => m.authFail
          | some params => m.accept d.session x { seq := d.seq, tag := d.tag, op := d.op, urgent := bitAt d.flags 1, params := params }

/-- Side B of a Two-hand pair forwards its packets to side A (R367), outside split operation (R368). -/
def Mod.forwards (m : Mod) : Bool :=
  m.get F.TWIN_STATUS_MODE == 1 && m.flag F.TWIN_STATUS_SIDE && m.flag F.TWIN_STATUS_LINK_UP && !m.flag F.TWIN_STATUS_SPLIT

/-- ORPOR_PACKET (R330): the oldest packet that waits in a channel is taken from its cells and checked; on side B of a Two-hand pair it goes to side A. -/
def execOrporPacket (ch : Fin 12) (s : State) : Out :=
  onMod s fun m =>
    if !m.mgmtUp then m
    else match m.pool.frames.findIdx? (fun f => f.ch == ch.val && f.packet.isSome) with
      | none => m
      | some i =>
        let f := m.pool.frames[i]?.getD { ch := 0, cells := 0 }
        let p := f.packet.getD []
        let t := if ch.val < 8 then ch.val / 4 else if ch.val = 8 then 2 else f.via
        let m := { m with pool := { m.pool with frames := m.pool.frames.eraseIdx i } }
        if m.forwards && ch.val != 11 then m.twinOut p.length
        else m.packetIn t (ch.val == 11) p

/-! ### The local host port (R328) -/

/-- A reply waits. -/
def Mod.hostReady (m : Mod) : Bool := m.pool.frames.any (fun f => f.ch == 8 && (f.reply.isSome || f.raw.isSome))

/-- The status byte. -/
def Mod.spiStatus (m : Mod) : Byte :=
  BitVec.ofNat 8 (128 + b2n m.hostReady + 2 * b2n m.orpor.spiBusy + 4 * b2n m.orpor.spiErr)

/-- A transfer: its chip select wakes the core (R18), it shows the status byte and what follows, and the marks clear. -/
def Mod.spiShow (m : Mod) (out : List Byte) : Mod :=
  { m.coreWake with orpor := { m.orpor with spiOut := m.spiStatus :: out, spiBusy := false, spiErr := false } }

/-- SPI_WRITE (R328): LENGTH and the bytes clocked in; a packet that finds its cells waits in HOST. -/
def execSpiWrite (len : BitVec 16) (bytes : List Byte) (s : State) : Out :=
  onMod s fun m =>
    if !m.isOn (swPd 3) then m
    else
      let m := m.spiShow []
      if len.toNat ≠ bytes.length then
        ({ m with orpor := { m.orpor with spiErr := true } }).addSat F.SESS_BAD_COUNT 1
      else
        let r := m.poolPut { ch := 8, cells := cellsOf bytes.length, packet := some bytes }
        if r.2 then r.1 else { r.1 with orpor := { r.1.orpor with spiBusy := true } }

/-- SPI_READ (R328): A READ transfer returns the oldest waiting reply. -/
def execSpiRead (s : State) : Out :=
  onMod s fun m =>
    if !m.isOn (swPd 3) then m
    else match m.pool.frames.findIdx? (fun f => f.ch == 8 && (f.reply.isSome || f.raw.isSome)) with
      | none => m.spiShow (leBytes 2 0)
      | some i =>
        let bs := ((m.pool.frames[i]?).bind (fun f => f.raw.or (f.reply.map Reply.packet))).getD []
        let m := m.spiShow (leBytes 2 bs.length ++ bs)
        { m with pool := { m.pool with frames := m.pool.frames.eraseIdx i } }

/-- SPI_STATUS (R328): A STATUS transfer returns the status byte alone. -/
def execSpiStatus (s : State) : Out :=
  onMod s fun m => if m.isOn (swPd 3) then m.spiShow [] else m

/-! ### Sessions -/

/-- The idle time in seconds (R353). -/
def Mod.idleS (m : Mod) : Nat := max 10 (m.get F.SESS_CFG_IDLE)

/-- SESSION_IDLE_TIMEOUT (R336): SESS_CFG.IDLE seconds without an accepted command. -/
def execSessionIdleTimeout (h : BitVec 10) (s : State) : Out :=
  onMod s fun m => m.when ((m.sess h.toNat).any (fun x => decide (x.lastAt + m.idleS * 1000 ≤ m.optime))) (fun m => m.closeSess h.toNat)

/-- The oldest waiting packet of an opcode outside sessions. -/
def Mod.greeting (m : Mod) (op : Nat) : Option (Nat × Bool × List Byte) := m.orpor.greet.find? (fun g => (hdrOf g.2.2).op == op)
def Mod.greeted (m : Mod) (op : Nat) : Mod :=
  match m.orpor.greet.findIdx? (fun g => (hdrOf g.2.2).op == op) with
  | some i => { m with orpor := { m.orpor with greet := m.orpor.greet.eraseIdx i } }
  | none => m

/-- Open sessions. -/
def Mod.openCount (m : Mod) : Nat := (m.orpor.sessions.filter (fun s => decide (s.1 < 1024))).length

/-- OP_SESS_PROBE (R333): Return SYS_ID, SYS_REV and UNIT_ID in clear without a session. -/
def execOpSessProbe (s : State) : Out :=
  onMod s fun m =>
    match m.greeting 0 with
    | none => m
    | some (t, viaB, p) =>
      let d := hdrOf p
      let data := leBytes 4 m.sysId ++ leBytes 4 (resetWord R.SYS_REV).toNat ++ unitBytes ++ leBytes 2 m.openCount ++ leBytes 2 1400
      (m.greeted 0).deliver { dest := t, viaB := viaB, session := 0, flags := 1, op := 0, tag := d.tag, seq := d.seq, rseq := 0, status := 0, data := data }

/-- A role may hold a scope (R332), and the plan defines it (R335); side B of a split pair takes OPERATOR of scope 0 and SERVICE only (R368). -/
def Mod.scopeOk (m : Mod) (role scope : Nat) : Bool :=
  let half := m.get F.TWIN_STATUS_MODE == 1 && m.flag F.TWIN_STATUS_SIDE
  (match role with | 1 => decide (scope ≤ 255) | 2 => decide (1 ≤ scope) && decide (scope ≤ 255) | _ => scope == 0)
    && (scope == 0 || ((m.plan.active.map (·.scopes)).getD []).any (fun x => x.scope == scope))
    && (!half || (role == 1 && scope == 0) || role == 3)

def roleOf (c : Nat) : Role := match c with | 1 => .operator | 2 => .tenant | 3 => .service | _ => .safety
def roleCode : Role → Nat | .operator => 1 | .tenant => 2 | .service => 3 | .safety => 4

/-- An OPEN refused (R335): authenticated as the open reply is. -/
def Mod.openRefuse (m : Mod) (t : Nat) (viaB : Bool) (tag : Nat) (cred : List Byte) (code detail : Nat) : Mod :=
  let n := m.random 16
  ((m.drawnN 16).addSat F.SESS_REFUSED_COUNT 1).deliver
    { dest := t, viaB := viaB, session := 0, flags := 9, op := 1, tag := tag, seq := 0, rseq := 0, status := code, data := leBytes 4 detail
      auth := some (cred, n.take 12) }

/-- Both keys of a session (R334). -/
def sessKeys (cred hostN modN : List Byte) (h role scope : Nat) : List Byte :=
  bytes32 (Config.hkdf cred (hostN ++ modN) (ascii "ORPOR-SESS" ++ unitBytes ++ leBytes 2 h ++ leBytes 1 role ++ leBytes 2 scope))

/-- OP_SESS_OPEN (R334): Open an authenticated session and derive its keys. -/
def execOpSessOpen (s : State) : Out :=
  onMod s fun m =>
    match m.greeting 1 with
    | none => m
    | some (t, viaB, p) =>
      let d := hdrOf p
      let ps := packetParams p
      let role := par ps 0 1
      let scope := par ps 2 2
      let hostN := (ps.drop 4).take 16
      let cred := m.credential role scope
      let m := m.greeted 1
      if role = 0 ∨ 4 < role ∨ packetTag p ≠ leBytes 16 (Config.gcmTag cred (hostN.take 12) (p.take 52) []).toNat then m.authFail
      else match m.orpor.opens.find? (fun o => o.cred == cred && o.nonce == hostN) with
        | some o => if m.optime < o.at_ + 10000 then m.deliver { o.reply with dest := t, viaB := viaB } else m.openRefuse t viaB d.tag cred 0x0015 0
        | none =>
          if !m.scopeOk role scope then m.openRefuse t viaB d.tag cred 0x0016 scope
          else match (List.range 1024).find? (fun n => (m.sess n).isNone) with
            | none => m.openRefuse t viaB d.tag cred 0x0014 0
            | some h =>
              let modN := m.random 16
              let m := m.drawnN 16
              let ks := sessKeys cred hostN modN h role scope
              let r : Reply := {
                dest := t, viaB := viaB, session := 0, flags := 9, op := 1, tag := d.tag, seq := 0, rseq := 0, status := 0
                data := leBytes 2 h ++ leBytes 2 0 ++ modN ++ leBytes 4 m.idleS
                auth := some (cred, modN.take 12) }
              let m := m.setSess h { role := roleOf role, scope := scope, transport := t, viaB := viaB, kc := ks.take 16, kr := ks.drop 16, lastAt := m.optime }
              let m := { m with orpor := { m.orpor with opens := m.orpor.opens ++ [Opened.mk cred hostN m.optime r] } }
              m.deliver r

end Sys2Proof.Machine
end

