-- ==== Sys2Proof/Machine/Storage.lean ====
section
/-! DEFINITION. Storage commands (R387 to R420, R498). -/

namespace Sys2Proof.Machine

/-- FLASH_PROGRAM_DONE (R389): the operation in front is complete: a parameter record comes into force, or records leave the write-ahead buffer; the write position advances. -/
def execFlashProgramDone (s : State) : Out :=
  onMod s fun m =>
    match m.nvm.jobs with
    | .erase _ :: _ => m
    | _ => if m.flashUp then m.programDone else m

/-- SECTOR_ERASE_DONE (R387): the erase in front is complete: a reclaimed sector is free, a refreshed one is reprogrammed from staging. -/
def execSectorEraseDone (s : State) : Out :=
  onMod s fun m => if m.flashUp then m.eraseDone else m

/-- MARGIN_PASS_START (R396): at a whole multiple of 604,800 s of operating time a pass begins. -/
def execMarginPassStart (s : State) : Out :=
  onMod s fun m =>
    let k := m.optime / 604800000
    if m.flashUp && m.nvm.margin.isNone && decide (m.nvm.marginAt < k) then
      ({ m with nvm := { m.nvm with margin := some 0, marginRead := none, marginAt := k, weak := 0 } }).set F.NVM_STATUS_MARGIN_RUN 1
    else m

/-- MARGIN_SECTOR_READ (R396): one sector every 4 s: the next that holds programmed data is read at both levels; a weak one is refreshed through the reserve; after the last the pass is complete. -/
def execMarginSectorRead (sector : BitVec 14) (differs last : Bool) (s : State) : Out :=
  onMod s fun m =>
    match m.nvm.margin with
    | some n =>
      if decide (sector.toNat < n) || !m.flashUp || m.nvm.marginRead.any (fun t => decide (m.optime < t + 4000)) then m
      else
        let m := { m with nvm := { m.nvm with margin := if last then none else some (sector.toNat + 1), marginRead := some m.optime, weak := m.nvm.weak + b2n differs } }
        let m := m.when differs (fun m =>
          let m := m.log .nvmWeak 0 (leBytes 4 (sector.toNat * 4096))
          ({ m with nvm := { m.nvm with
              refresh := some sector.toNat, staging := (m.nvm.staging + 1) % 1024, jobs := m.nvm.jobs ++ [FlashJob.erase sector.toNat] } }).set
            F.NVM_STATUS_REFRESHING 1)
        m.when last (fun m => ((m.set F.NVM_MARGIN_WEAK (satNat 16 m.nvm.weak)).addSat F.NVM_MARGIN_PASSES 1).set F.NVM_STATUS_MARGIN_RUN 0)
    | none => m

/-- OPTIME_TICK (R403): operating time counts 1 ms while PD1 is powered; the domains that are on count it too, and the supplies are measured (R503). -/
def execOptimeTick (x : Meas) (s : State) : Out :=
  onMod s fun m => if m.isOn (swPd 1) then (m.ctrAdd 0 1).supplies x else m

/-- REPEAT_HOLD_EXPIRY (R413): 60 s after it entered the area's newest record is released to flash. -/
def execRepeatHoldExpiry (a : Fin 16) (s : State) : Out :=
  onMod s fun m =>
    match m.logs.areas[a].hold with
    | some (_, t0) => if m.optime < t0 + 60000 then m else { m with logs := { m.logs with areas := m.logs.areas.set a { m.logs.areas[a] with hold := none } } }
    | none => m

/-- RATE_WINDOW_CLOSE (R412): a window of 60 s closes; where records were suppressed, EV_LOG_SUPPRESSED says how many and since when. -/
def execRateWindowClose (a : Fin 16) (num : BitVec 8) (s : State) : Out :=
  onMod s fun m =>
    let o := closeWin m.logs a (a.val * 256 + num.toNat) m.optime m.pcc
    { m with logs := o.1, regs := if o.2 then fldSet m.regs F.LOG_STATUS_WAB_FULL 1 else m.regs }

/-- SLOT_WRITE_COMPLETE (R400): the running write of the energy journal (0), the count journal (1) or the retain snapshot (2) completes. -/
def execSlotWriteComplete (which : Fin 3) (s : State) : Out :=
  onMod s fun m =>
    if which = 0 then { m with met := { m.met with jrn := journalDone m.met.jrn } }
    else if which = 1 then { m with fio := { m.fio with cntJ := journalDone m.fio.cntJ } }
    else
      let r := m.retain.map (fun (x : RetainSlot) => if x.writing then { x with ok := true, writing := false } else x)
      ({ m with retain := r }).retainShow.set F.EXEC_RETAIN_WRITING 0

/-- STORED_SET_WRITE (R498): the set of the block (base = block × 0x1000) goes to the parameter store; the command's reply waits for it. -/
def execStoredSetWrite (h : BitVec 10) (seq : BitVec 32) (block : BitVec 12) (s : State) : Out :=
  onMod s fun m => m.storeBlock (block.toNat * 4096) (some (h.toNat, seq.toNat))

/-- NVM_OPTIME_LO_READ (R420): the high word is latched. -/
def execNvmOptimeLoRead (s : State) : Out :=
  onMod s fun m => { m with nvm := { m.nvm with optHi := some (m.optime / 2 ^ 32) } }

/-- TIME_NOW_LO_READ (R171): the high word is latched. -/
def execTimeNowLoRead (s : State) : Out :=
  onMod s fun m => { m with clk := { m.clk with nowHi := some (m.clk.ns / 2 ^ 32) } }

/-- A bank's mark is cleared, in its register and in the parameter store (R42, R49). -/
def Mod.suspectClear (m : Mod) (b : Nat) (tag : Option (Nat × Nat)) : Mod :=
  ((m.set (F.TILE_BANK_SUSPECT b) 0).set F.TILE_STATUS_SUSPECT (m.get F.TILE_STATUS_SUSPECT &&& (255 - 2 ^ b))).paramDel (keySuspect b) tag

/-- SUSPECT_CLEAR (R42): a SERVICE session clears a bank's mark. -/
def execSuspectClear (h : BitVec 10) (b : Fin 8) (s : State) : Out :=
  onMod s fun m => m.when (m.isRole h.toNat .service) (fun m => m.suspectClear b.val none)

end Sys2Proof.Machine
end

