-- ==== Sys2Proof/Machine/Access.lean ====
section
/-! DEFINITION. Register access by a session (R5, R6, R337, R488 to R498): what a register shows, what a read and a write do. -/

namespace Sys2Proof.Machine

/-! ### What a register shows -/

/-- The instance of a replicated register at an address. -/
def inst (base stride count a : Nat) : Option Nat :=
  if base ≤ a ∧ (a - base) % stride = 0 ∧ (a - base) / stride < count then some ((a - base) / stride) else none

/-- A field of a word replaced. -/
def inWord (f : Fld) (v w : Nat) : Nat := putBits w f.lo f.width v
def inWordB (f : Fld) (b : Bool) (w : Nat) : Nat := inWord f (b2n b) w

/-- Records of an area outside its keep part, and all of its records (R417): an ordinary area's SEQ 1 to 128 belong to its keep part. -/
def LogSt.outside (lg : LogSt) (a : Fin 16) : List Rec :=
  lg.areas[a].held ++ lg.wab.filter (fun r => r.area == a.val && decide (128 < r.seq))
def LogSt.records (lg : LogSt) (a : Fin 16) : List Rec := lg.areas[a].keep ++ lg.areas[a].held ++ lg.wab.filter (fun r => r.area == a.val)

/-- LAST and FIRST (R417). -/
def LogSt.last (lg : LogSt) (a : Fin 16) : Nat := (lg.records a).foldl (fun x r => max x r.seq) 0
def LogSt.first (lg : LogSt) (a : Fin 16) : Nat := (lg.outside a).foldl (fun x r => min x r.seq) (lg.last a + 1)

/-- PWR_DOMAIN[d].STATUS (R503). -/
def Mod.domainWord (m : Mod) (d : Nat) (w : Nat) : Nat :=
  if h : d < 15 then
    let s := m.sw[swPd ⟨d, h⟩]
    let on := d == 0 || s.ph != .off
    let good := d == 0 || s.ph == .on
    inWordB (F.PWR_DOMAIN_STATUS_POWERING d) (s.ph == .powering) (inWordB (F.PWR_DOMAIN_STATUS_SHUTTING d) (s.ph == .shutting)
      (inWordB (F.PWR_DOMAIN_STATUS_PENDING_OFF d) s.pendOff (inWordB (F.PWR_DOMAIN_STATUS_PENDING_ON d) s.pendOn
        (inWordB (F.PWR_DOMAIN_STATUS_GOOD d) good (inWordB (F.PWR_DOMAIN_STATUS_ON d) on w)))))
  else w

/-- A PLL is locked (R473, R475): usable and not out of lock. -/
def Mod.pllLocked (m : Mod) (k : Fin 5) : Bool := m.isOn ⟨15 + k.val, by omega⟩ && !bitAt m.pwr.unlocked k.val && m.clk.run

/-- CLK_STATUS (R487). The core that reads it is awake, with PLL-M locked unless the lock is lost (R18). -/
def Mod.clkWord (m : Mod) : Nat :=
  b2n m.rtc.run + 2 * b2n m.clk.run + 4 * b2n (m.pllLocked 0) + 8 * b2n (m.isOn (swPd 3) && !bitAt m.pwr.unlocked 1 && m.clk.run) + 16 * b2n (m.pllLocked 2)
    + 32 * b2n (m.pllLocked 3) + 64 * b2n (m.pllLocked 4) + 128 * b2n m.sw[swPllF].pendOn

/-- Kind codes of the slots (R438). -/
def slotKind (n : Nat) : Nat := [1, 1, 1, 1, 2, 2, 3, 4].getD n 0

/-- KEY_SLOT of a slot (R462); slots 8 to 31 are always empty. -/
def Mod.slotWord (m : Mod) (n : Nat) : Nat :=
  if h : n < 8 then
    let k := m.key.slots[(⟨n, h⟩ : Fin 8)]
    slotKind n + 16 * b2n k.key.isSome + 32 * b2n k.staged.isSome + 64 * b2n ((k.staged.map (·.verified)).getD false) + 128 * b2n (6 ≤ n)
      + 2 ^ 8 * ((k.value.map (·.length)).getD 0) + 2 ^ 16 * k.gen
  else 128

/-- The word of the NVM block (R420). -/
def Mod.nvmWord (m : Mod) (a w : Nat) : Nat :=
  if a = R.NVM_OPTIME_LO then m.optime % 2 ^ 32
  else if a = R.NVM_OPTIME_HI then (m.nvm.optHi.getD (m.optime / 2 ^ 32)) % 2 ^ 16
  else if a = R.NVM_PWRCYC then m.pcc
  else if a = R.NVM_PARAM then m.paramFree + 2 ^ 16 * satNat 16 m.paramKeys
  else if a = R.NVM_EVENTS then satNat 16 (m.ctr 22) + 2 ^ 16 * satNat 16 (m.ctr 23)
  else w

/-- The word of the LOG block (R420) with area `sel` selected. -/
def Mod.logWord (m : Mod) (sel a w : Nat) : Nat :=
  if a = R.LOG_STATUS then
    inWordB F.LOG_STATUS_FLUSHING (!(m.logs.wab.isEmpty && m.logs.wabIntervals.isEmpty))
      (inWord F.LOG_STATUS_WAB_USED (m.logs.wab.length + 2 * m.logs.wabIntervals.length) w)
  else if h : sel < 16 then
    let i : Fin 16 := ⟨sel, h⟩
    let x := m.logs.areas[i]
    if a = R.LOG_AREA_CFG then areaKind sel + 4 * b2n x.flood + 2 ^ 8 * x.rate
    else if a = R.LOG_AREA_SIZE then (if areaKind sel = 0 then 128 else 0) + 2 ^ 12 * areaCap sel
    else if a = R.LOG_AREA_FIRST then m.logs.first i
    else if a = R.LOG_AREA_LAST then m.logs.last i
    else if a = R.LOG_AREA_COUNTS then x.dropped + 2 ^ 16 * x.suppressed
    else w
  else if a = R.LOG_AREA_CFG then 3
  else w

/-- The word of the PLAN/DRUM block (R88). -/
def Mod.drumWord (m : Mod) (sel a w : Nat) : Nat :=
  let bank := if bitAt sel 14 then (if m.flag F.DRUM_STATUS_BANK then m.plan.drumA else m.plan.drumB) else m.drum
  let e := (bank.getD (sel % 2 ^ 14) 0).toNat
  if a = R.DRUM_STATUS then inWord F.DRUM_STATUS_SLOT (if m.running then m.clk.ns % 1000000000 / 125000 else 0) w
  else if a = R.DRUM_ENTRY_LO then e % 2 ^ 32
  else if a = R.DRUM_ENTRY_HI then e / 2 ^ 32
  else w

/-- A safe-state request is asserted on an output (EXEC_STATE.SAFE, R122). -/
def Mod.anySafe (m : Mod) : Bool := m.exec.hardReq || m.outs.toList.any (fun u => u.req != 0)

/-- The word of the EXEC block (R122). -/
def Mod.execWord (m : Mod) (a w : Nat) : Nat :=
  if a = R.EXEC_STATE then inWordB F.EXEC_STATE_SAFE m.anySafe w
  else if a = R.EXEC_AUTORST then inWord F.EXEC_AUTORST_COUNT (min 15 m.autoRecent.length) w
  else w

/-- The word of the TILE block (R48 to R52); `dir` and `pm` are the selected tile and point. -/
def Mod.tileWord (m : Mod) (dir pm a w : Nat) : Nat :=
  if a = R.TILE_DIR_CRC then (m.dirEnt dir).crc
  else if a = R.TILE_DIR_INFO then
    let e := m.dirEnt dir
    tileKindCode e.kind + 2 ^ 4 * e.cls + 2 ^ 7 * b2n e.peer + 2 ^ 8 * b2n e.faulted + 2 ^ 9 * e.writer
  else if a = R.TILE_PMAP_DATA then
    match mapGet pm m.mem.pmap with
    | some p => p.tile + 2 ^ 16 * p.slot + 2 ^ 20 * p.ty + 2 ^ 31
    | none => 0
  else match inst (R.TILE_BANK 0) 4 8 a with
    | some b =>
      inWord (F.TILE_BANK_RECENT b) (min 3 (m.mem.bankTimes[(Fin.ofNat 8 b : Fin 8)].filter (fun t => decide (m.optime < t + 3600000))).length) w
    | none => w

/-- Word `k` of the calibration shown for a channel (R217, R231): the staging copy or the set in force, SCALE at 15. -/
def Mod.calShown (m : Mod) (c k : Nat) (staged : Bool) : Nat :=
  let x := m.metCh c
  let force : List Word := x.set.getD ((List.range 15).map (fun j => if j = 12 then 0 else BitVec.ofNat 32 (ratF (calWord m c j))))
  if k = 15 then x.scale.toNat
  else ((if staged then m.met.staging.getD force else force).getD k 0).toNat

/-- The word of the MET block (R230, R231). -/
def Mod.metWord (m : Mod) (a w : Nat) : Nat :=
  if a = R.MET_CAL_DATA then m.calShown (m.get F.MET_CAL_CTRL_CHANNEL) (m.get F.MET_CAL_INDEX_INDEX) (m.flag F.MET_CAL_INDEX_STAGED)
  else if a = R.MET_JOURNAL then inWord F.MET_JOURNAL_LOST (satNat 8 (m.ctr 18)) w
  else if a < 0x33000 ∧ a % 8 = 4 ∧ 0x34 ≤ a % 128 ∧ a % 128 < 0x74 then
    ((mapGet ((a % 128 - 0x34) / 8) (m.metCh ((a - 0x30000) / 128)).hi).getD w)
  else w

/-- DO outputs that a protection holds off (R240). -/
def Mod.doFaults (m : Mod) : Nat := ((List.range 24).filter (fun n => m.doHeld n)).length

/-- The word of the FIO block (R258). -/
def Mod.fioWord (m : Mod) (a w : Nat) : Nat :=
  if a = R.FIO_STATUS then inWord F.FIO_STATUS_DO_FAULTS m.doFaults w
  else if a = R.FIO_CNT_JOURNAL then inWord F.FIO_CNT_JOURNAL_LOST (satNat 8 (m.ctr 19)) w
  else match inst (F.FIO_DO_STATUS_CMD 0).addr 8 24 a with
    | some n =>
      let o : Fin 48 := Fin.ofNat 48 n
      inWordB (F.FIO_DO_STATUS_GROUP n) (m.flag (F.FIO_DO_GRP_TRIP (n / 8)) || !m.flag F.FIO_STATUS_VAUX_OK)
        (inWordB (F.FIO_DO_STATUS_OPENLOAD n) (m.openLoad (Fin.ofNat 24 n)) <| inWordB (F.FIO_DO_STATUS_DRIVE n) (m.pinOn o) (inWordB (F.FIO_DO_STATUS_CMD n) (m.source o == .on) w))
    | none => match inst (F.FIO_AO_STATUS_HIZ 0).addr 16 8 a with
      | some n =>
        let o : Fin 48 := Fin.ofNat 48 (24 + n)
        match m.pin o with
        | .value v => inWord (F.FIO_AO_STATUS_DAC n) (aoCode (m.get (F.FIO_AO_CFG_MODE n)) v.toNat) (inWordB (F.FIO_AO_STATUS_HIZ n) false w)
        | _ => inWord (F.FIO_AO_STATUS_DAC n) 0 (inWordB (F.FIO_AO_STATUS_HIZ n) true w)
      | none => match inst (F.FIO_CNT_LO_COUNT 0).addr 16 8 a with
        | some k => m.fio.cnt[(Fin.ofNat 8 k : Fin 8)].count % 2 ^ 32
        | none => match inst (F.FIO_CNT_HI_COUNT 0).addr 16 8 a with
          | some k => let c := m.fio.cnt[(Fin.ofNat 8 k : Fin 8)]; c.hi.getD (c.count / 2 ^ 32)
          | none => w

/-- The active plan has safety content (SAFE_STATUS.ACTIVE): SAFETY tasks, safety inputs or outputs in use, or Jack entries on safety outputs. -/
def Mod.safetyContent (m : Mod) : Bool :=
  m.planLoaded && (m.tasks.any (fun t => t.safetyCopy != 0) || (List.range 8).any (fun k => siMode m k != 0)
    || (List.range 4).any (fun k => m.flag (F.SAFE_SO_CFG_EN k)) || m.jackTable.any (fun e => jEn e && jSafety e))

/-- Seconds of the block of R280 that remain. -/
def Mod.blockLeft (m : Mod) : Nat := if m.safe.blocked then (m.safe.blockUntil - m.optime + 999) / 1000 else 0

/-- The word of the SAFE block (R283). -/
def Mod.safeWord (m : Mod) (a w : Nat) : Nat :=
  if a = R.SAFE_STATUS then inWordB F.SAFE_STATUS_ACTIVE m.safetyContent w
  else if a = R.SAFE_LOCK then
    b2n (m.keyOf 6).isSome + 2 * b2n (m.orpor.sessions.any (fun x => x.2.unlocked)) + 4 * m.safe.fails + 32 * b2n m.safe.blocked + 2 ^ 16 * m.blockLeft
  else if a = R.SAFE_LOG then m.logs.unread + 2 ^ 12 * b2n (1536 ≤ m.logs.unread) + 2 ^ 13 * b2n m.logs.changeFull
  else match inst (F.SAFE_SO_STATUS_CMD_A 0).addr 16 4 a with
    | some k =>
      let j : Fin 4 := Fin.ofNat 4 k
      inWordB (F.SAFE_SO_STATUS_RB_B k) (m.readback j true) (inWordB (F.SAFE_SO_STATUS_RB_A k) (m.readback j false)
        (inWordB (F.SAFE_SO_STATUS_CMD_B k) (soCmd m j true) (inWordB (F.SAFE_SO_STATUS_CMD_A k) (soCmd m j false) w)))
    | none => w

/-- The word of the FBUS block (R305); `sel` gives what a port's selects hold. -/
def Mod.portWord (m : Mod) (sel : Nat → Nat) (a w : Nat) : Nat :=
  let p := (a - 0x60000) / 0x400
  if h : p < 19 then
    let i : Fin 19 := ⟨p, h⟩
    let e := ((m.filters i).getD (sel (R.FBUS_FILT_SEL p)) 0).toNat
    let o := mapGet (sel (R.FBUS_RXO_SEL p)) m.ports.port[i].objs
    if a = R.FBUS_FILT_LO p then e % 2 ^ 32
    else if a = R.FBUS_FILT_HI p then e / 2 ^ 32
    else if a = R.FBUS_RXO_ID p then
      match o with | some x => x.id + 2 ^ 29 * b2n x.xtd + 2 ^ 30 * b2n x.fdf + 2 ^ 31 | none => 0
    else if a = R.FBUS_RXO_STAT p then
      match o with | some x => x.data.length + 2 ^ 8 * b2n x.new + 2 ^ 9 * b2n x.lost + 2 ^ 16 * x.lostCnt | none => 0
    else w
  else w

/-- The word of the UPL block (R325, R326); `ch` is the selected channel. -/
def Mod.uplWord (m : Mod) (ch a w : Nat) : Nat :=
  if a = R.UPL_STATUS 0 ∨ a = R.UPL_STATUS 1 then
    let u : Fin 2 := if a = R.UPL_STATUS 0 then 0 else 1
    inWord (F.UPL_STATUS_UP_S u.val) (if m.flag (F.UPL_STATUS_LINK u.val) then satNat 16 ((m.optime - m.upl[u].upAt) / 1000) else 0) w
  else if a = R.FPOOL_STATUS then inWord F.FPOOL_STATUS_FREE m.poolFree w
  else if h : ch < 12 then
    let c : Fin 12 := ⟨ch, h⟩
    if a = R.FPOOL_QUOTA then (m.poolQuota ch).1 + 2 ^ 16 * (m.poolQuota ch).2
    else if a = R.FPOOL_USE then m.poolUsed ch + 2 ^ 16 * m.pool.peak[c]
    else if a = R.FPOOL_DROP then m.pool.drop[c]
    else w
  else w

/-- The estimate of R159 in units of 10 ns. -/
def Mod.holdErr (m : Mod) : Nat := if m.get F.TIME_STATUS_STATE = syHold then (20 * 10 ^ 9 + 100 * m.heldNs) / 10 ^ 10 else 0

/-- TIME_HOLD (R171). -/
def Mod.holdWord (m : Mod) : Nat := satNat 16 (m.heldNs / 1000000000) + 2 ^ 16 * satNat 16 m.holdErr

/-- The word of the TIME block (R171, R172); `sel` is the selected Jack entry. -/
def Mod.timeWord (m : Mod) (sel a w : Nat) : Nat :=
  let e := (m.jackTable.getD sel 0).toNat
  if a = R.TIME_NOW_LO then m.clk.ns % 2 ^ 32
  else if a = R.TIME_NOW_HI then m.clk.nowHi.getD (m.clk.ns / 2 ^ 32)
  else if a = R.TIME_HOLD then m.holdWord
  else if a = R.JACK_STATUS then inWord F.JACK_STATUS_ENTRIES (m.jackTable.filter jEn).length w
  else if a = R.JACK_ENTRY_LO then e % 2 ^ 32
  else if a = R.JACK_ENTRY_HI then e / 2 ^ 32
  else w

/-- The word of the TWIN block (R385). -/
def Mod.twinWord (m : Mod) (a w : Nat) : Nat :=
  if a = R.TWIN_BAR then inWord F.TWIN_BAR_TAKEOVERS (satNat 16 (m.ctr 20)) w
  else if a = R.TWIN_SWAP then inWord F.TWIN_SWAP_COUNT (satNat 16 (m.ctr 21)) w
  else w

/-- Seconds until a session's idle timeout (R353). -/
def Mod.idleLeft (m : Mod) (x : Sess) : Nat := (x.lastAt + m.idleS * 1000 - m.optime) / 1000

/-- The word of the SESS block (R353); `sel` is the selected session. -/
def Mod.sessWord (m : Mod) (sel a w : Nat) : Nat :=
  if a = R.SESS_STATUS then m.openCount + 2 ^ 11 * m.inFlight
  else match m.sess sel with
    | none => w
    | some x =>
      if a = R.SESS_INFO then
        1 + 2 * x.transport + 2 ^ 3 * roleCode x.role + 2 ^ 8 * x.scope + 2 ^ 16 * x.flight.length + 2 ^ 21 * x.cache.length
          + 2 ^ 25 * b2n x.unlocked + 2 ^ 26 * b2n x.viaB
      else if a = R.SESS_SEQ then x.top
      else if a = R.SESS_IDLE then m.idleLeft x
      else w

/-- What the register file holds, with what other state shows in it; `sel` gives what the reader's select registers hold. -/
def Mod.shown (m : Mod) (sel : Nat → Nat) (a : Nat) : Nat :=
  let w := (m.word a).toNat
  match a / 0x1000 with
  | 0x00 => if a = R.SYS_ID then m.sysId else w
  | 0x01 => match inst (F.PWR_DOMAIN_STATUS_ON 0).addr 32 15 a with | some d => m.domainWord d w | none => w
  | 0x02 => if a = R.CLK_STATUS then m.clkWord else w
  | 0x03 =>
    if a = R.RTC_TIME ∨ a = R.RTC_DATE ∨ a = R.RTC_SUBSEC then
      (m.rtc.shadow.getD { cal := m.rtc.cal, wday := m.rtc.wday, sub := m.rtc.sub, at_ := 0 }).word a
    else w
  | 0x04 => if a = R.KEY_HWTYPE then m.sysId else if a = R.KEY_SLOT then m.slotWord (sel R.KEY_SEL) else w
  | 0x05 => m.nvmWord a w
  | 0x06 => m.logWord (sel R.LOG_SEL) a w
  | 0x10 => m.drumWord (sel R.DRUM_SEL) a w
  | 0x14 => m.execWord a w
  | 0x18 => m.tileWord (sel R.TILE_DIR_SEL) (sel R.TILE_PMAP_SEL) a w
  | 0x48 => m.safeWord a w
  | 0x40 => m.fioWord a w
  | 0x78 => m.timeWord (sel R.JACK_SEL) a w
  | 0x80 => m.twinWord a w
  | 0x90 => m.sessWord (sel R.SESS_SEL) a w
  | _ =>
    if 0x30000 ≤ a ∧ a < 0x40000 then m.metWord a w
    else if 0x60000 ≤ a ∧ a < 0x70000 then m.portWord sel a w
    else if 0x70000 ≤ a ∧ a < 0x78000 then m.uplWord (sel R.FPOOL_SEL) a w
    else w

/-- The select registers (R494). -/
def isSelect (a : Nat) : Bool :=
  a == R.TILE_DIR_SEL || a == R.TILE_PMAP_SEL || a == R.DRUM_SEL || a == R.JACK_SEL || a == R.FPOOL_SEL || a == R.SESS_SEL || a == R.LOG_SEL
    || a == R.KEY_SEL || (inst (R.FBUS_FILT_SEL 0) 0x400 2 a).isSome || (inst (R.FBUS_RXO_SEL 0) 0x400 2 a).isSome

/-- A session's copy of a select register. -/
def Sess.selOf (x : Sess) (a : Nat) : Nat := (mapGetD 0 a x.sel).toNat

/-- What a register shows a session, without the effect of a read: a domain that is off reads 0 (R493), one that is powering up its reset
words. -/
def Mod.peek (m : Mod) (x : Sess) (a : Nat) : Word :=
  match pdOf a with
  | none => 0
  | some d =>
    if d ≠ 0 ∧ m.pdPh d = .off then 0
    else if d ≠ 0 ∧ m.pdPh d = .powering then resetWord a
    else if isSelect a then mapGetD 0 a x.sel
    else BitVec.ofNat 32 (m.shown x.selOf a)

/-! ### The effect of a read -/

/-- The fields of a register that a read clears go to their reset values (R5, R350). -/
def Mod.rcClear (m : Mod) (x : Sess) (a : Nat) : Mod :=
  let mask : Word := BitVec.ofNat 32 (accessAt a).rc
  if a = R.LOG_AREA_COUNTS then
    (if h : x.selOf R.LOG_SEL < 16 then
      let i : Fin 16 := ⟨x.selOf R.LOG_SEL, h⟩
      { m with logs := { m.logs with areas := m.logs.areas.set i { m.logs.areas[i] with dropped := 0, suppressed := 0 } } }
     else m)
  else if a = R.FPOOL_USE then
    (if h : x.selOf R.FPOOL_SEL < 12 then
      let c : Fin 12 := ⟨x.selOf R.FPOOL_SEL, h⟩
      { m with pool := { m.pool with peak := m.pool.peak.set c 0 } }
     else m)
  else if a = R.FPOOL_DROP then
    (if h : x.selOf R.FPOOL_SEL < 12 then
      let c : Fin 12 := ⟨x.selOf R.FPOOL_SEL, h⟩
      { m with pool := { m.pool with drop := m.pool.drop.set c 0 } }
     else m)
  else if mask = 0 then m
  else m.setWord a ((m.word a &&& ~~~mask) ||| (resetWord a &&& mask))

/-- The latches of 64-bit pairs (R490): a _LO read latches the _HI word, a _HI read releases it. -/
def Mod.pairEffect (m : Mod) (a : Nat) : Mod :=
  if a = R.NVM_OPTIME_LO then { m with nvm := { m.nvm with optHi := some (m.optime / 2 ^ 32) } }
  else if a = R.NVM_OPTIME_HI then { m with nvm := { m.nvm with optHi := none } }
  else if a = R.TIME_NOW_LO then { m with clk := { m.clk with nowHi := some (m.clk.ns / 2 ^ 32) } }
  else if a = R.TIME_NOW_HI then { m with clk := { m.clk with nowHi := none } }
  else match inst (F.FIO_CNT_LO_COUNT 0).addr 16 8 a with
    | some k => m.cntLatch (Fin.ofNat 8 k)
    | none => match inst (F.FIO_CNT_HI_COUNT 0).addr 16 8 a with
      | some k => m.cntMap (Fin.ofNat 8 k) (fun c => { c with hi := none })
      | none =>
        if 0x30000 ≤ a ∧ a < 0x33000 ∧ 0x30 ≤ a % 128 ∧ a % 128 < 0x70 then
          let c := (a - 0x30000) / 128
          let e := (a % 128 - 0x30) / 8
          if a % 8 = 0 then m.energyLatch c e
          else m.setMet c { m.metCh c with hi := mapDel e (m.metCh c).hi }
        else m

/-- A register whose domain answers. -/
def Mod.regLive (m : Mod) (a : Nat) : Bool := match pdOf a with | some d => d == 0 || m.pdPh d == .on || m.pdPh d == .shutting | none => false

/-- A register read without the clearing effect of an RC read (R492). A read of the directory uses the entry (R35). -/
def Mod.readKeep (m : Mod) (x : Sess) (a : Nat) : Mod × Word :=
  if !m.regLive a then (m, m.peek x a)
  else if a = R.RTC_TIME ∨ a = R.RTC_DATE ∨ a = R.RTC_SUBSEC then m.rtcRead a
  else
    let m := m.when (decide (a = R.TILE_DIR_CRC ∨ a = R.TILE_DIR_INFO)) (fun m => m.dirUse (x.selOf R.TILE_DIR_SEL) 9)
    (m.pairEffect a, m.peek x a)

/-- A register read by a session. -/
def Mod.readReg (m : Mod) (x : Sess) (a : Nat) : Mod × Word :=
  let r := m.readKeep x a
  (if m.regLive a then r.1.rcClear x a else r.1, r.2)

/-- Words read in ascending order as one operation (R490). -/
def Mod.readRegs (m : Mod) (x : Sess) : List Nat → Mod × List Byte
  | [] => (m, [])
  | a :: t =>
    let r := m.readReg x a
    let q := r.1.readRegs x t
    (q.1, leBytes 4 r.2.toNat ++ q.2)

/-! ### Rights (R226, R337) -/

/-- A session's scope in the plan; scope 0 reaches every item. -/
def Mod.scopeDef (m : Mod) (x : Sess) : ScopeDef :=
  (((m.plan.active.map (·.scopes)).getD []).find? (fun s => s.scope == x.scope)).getD { scope := x.scope }
/-- A session reaches everything: scope 0 of an OPERATOR, SERVICE, SAFETY. -/
def Sess.wide (x : Sess) : Bool := decide (2 ≤ x.roleBit)

/-- A metering channel may be read: by the map, and a voltage channel with a current channel of it. -/
def Mod.meterOk (m : Mod) (x : Sess) (c : Nat) : Bool :=
  x.wide || (if c < 96 then (m.scopeDef x).meters.contains c
    else (m.scopeDef x).meters.any (fun i => m.get (F.MET_CFG_I_VCH i) == c - 96))

/-- A register may be read by a session. -/
def Mod.mayRead (m : Mod) (x : Sess) (a : Nat) : Bool :=
  x.wide || decide (a < 0x1000) || (decide (0x78000 ≤ a) && decide (a < 0x80000))
    || a == R.MET_STATUS || a == R.MET_BLOCK || a == R.MET_INT_CFG || a == R.MET_INT_NUM
    || (decide (0x30000 ≤ a) && decide (a < 0x33300) && m.meterOk x ((a - 0x30000) / 128))

/-- A block takes a session's writes (R226, R495). -/
def Mod.mayWrite (m : Mod) (h a : Nat) : Bool :=
  if a < 0x2000 then m.isO0V h
  else if a < 0x3000 then false
  else if a < 0x4000 then m.isO0V h
  else if a < 0x5000 then false
  else if 0x30000 ≤ a ∧ a < 0x40000 then
    if a = R.MET_INT_CFG ∨ a = R.MET_CAP_CTRL then m.isO0V h
    else (a == R.MET_CAL_CTRL || a == R.MET_CAL_INDEX || a == R.MET_CAL_DATA) && m.isRole h .service
  else if 0x48000 ≤ a ∧ a < 0x50000 then false
  else if (inst (R.TILE_BANK 0) 4 8 a).isSome then m.isRole h .service
  else m.isO0V h

/-! ### The effect of a write -/

/-- RW bits take the written value; a W1C bit is cleared by a written 1 (R5). -/
def Mod.rwWrite (m : Mod) (a : Nat) (v : Word) : Mod :=
  let x := accessAt a
  let rw : Word := BitVec.ofNat 32 x.rw
  let w1 : Word := BitVec.ofNat 32 x.w1c
  if x.rw = 0 ∧ x.w1c = 0 then m else m.setWord a (((m.word a &&& ~~~rw) ||| (v &&& rw)) &&& ~~~(v &&& w1))

/-- The block whose stored set holds a register (R498). -/
def storedOf (a : Nat) : Option Nat :=
  if (storedRegs (a / 0x1000 * 0x1000)).contains a then some (a / 0x1000 * 0x1000) else none

/-- A write of the MET block's calibration and capture registers (R220, R221, R227, R231). -/
def Mod.metWrite (m : Mod) (tag : Option (Nat × Nat)) (a : Nat) (v : Word) : Mod :=
  let n := v.toNat
  if a = R.MET_CAL_CTRL then
    let m := m.rwWrite a v
    let m := m.when (bitAt n 10) Mod.calDiscard
    let m := m.when (bitAt n 9) (fun m => m.calCommit tag)
    m.when (bitAt n 8) Mod.calAccum
  else if a = R.MET_CAL_DATA then
    let c := m.get F.MET_CAL_CTRL_CHANNEL
    let k := m.get F.MET_CAL_INDEX_INDEX
    if k = 15 then m
    else { m with met := { m.met with staging := some ((m.met.staging.getD ((List.range 15).map (fun j => BitVec.ofNat 32 (m.calShown c j false)))).set k v) } }
  else if a = R.MET_CAP_CTRL then (m.rwWrite a v).when (bitAt n 8) Mod.capStart
  else m.rwWrite a v

/-- A write of a register whose block takes it. -/
def Mod.putReg (m : Mod) (x : Sess) (tag : Option (Nat × Nat)) (a : Nat) (v : Word) : Mod :=
  let n := v.toNat
  if a = R.RTC_CTRL then m.when (bitAt n 0) Mod.rtcCommit
  else if a = R.LOG_AREA_CFG then
    (if h : x.selOf R.LOG_SEL < 16 then
      let i : Fin 16 := ⟨x.selOf R.LOG_SEL, h⟩
      let ar := { m.logs.areas[i] with flood := bitAt n 2, rate := bits n 8 8, hold := none }
      ({ m with logs := { m.logs with areas := m.logs.areas.set i ar } }).storeBlock 0x6000 tag
     else m)
  else if 0x20000 ≤ a ∧ a < 0x24000 then
    (if a % 64 = 0x30 then m.rwWrite a v else m.loopTune ((a - 0x20000) / 64) (a % 64) v)
  else match inst (R.LOOPTEST_CTRL 0) 64 4 a with
    | some g =>
      let m := (m.rwWrite a v).when (bitAt n 11) (fun m => m.testStart (Fin.ofNat 4 g))
      m.when (bitAt n 12) (fun m => m.testStop (Fin.ofNat 4 g))
    | none =>
      if 0x30000 ≤ a ∧ a < 0x40000 then m.metWrite tag a v
      else match inst (R.TILE_BANK 0) 4 8 a with
        | some b => m.when (bitAt n 8 && m.flag (F.TILE_BANK_SUSPECT b)) (fun m => m.suspectClear b tag)
        | none => match inst (F.FIO_DO_GRP_LATCHED 0).addr 4 3 a with
          | some g => m.when (bitAt n 1) (fun m => m.grpClear g)
          | none => match inst (F.FIO_DO_STATUS_SC_LATCHED 0).addr 8 24 a with
            | some o => m.when (bitAt n 6) (fun m => m.scClear o)
            | none => match inst (R.FBUS_RXO_STAT 0) 0x400 19 a with
              | some p =>
                let i : Fin 19 := Fin.ofNat 19 p
                let k := x.selOf (R.FBUS_RXO_SEL p)
                (match mapGet k m.ports.port[i].objs with
                 | some o => m.when (bitAt n 9) (fun m => m.portMap i (fun q => { q with objs := mapPut k { o with lost := false } q.objs }))
                 | none => m)
              | none => match inst (R.UPL_CTRL 0) 0x200 2 a with
                | some u =>
                  let i : Fin 2 := Fin.ofNat 2 u
                  let m := m.when (bitAt n 0) (fun m => m.uplApply i tag)
                  m.when (bitAt n 2) (fun m => m.uplRevert i)
                | none => match storedOf a with
                  | some b =>
                    let m := m.rwWrite a v
                    (m.when (a == R.TWIN_CFG) (fun m => m.set F.TWIN_BAR_RETURNS 0)).storeBlock b tag
                  | none => m.rwWrite a v

/-- A register written by a session (R5, R6, R491, R493, R494): a select register in its own copy; JACK_RESET and UPL[u].CTRL.CONFIRM by
their own rules; others where the block takes its writes. -/
def Mod.writeReg (m : Mod) (h : Nat) (tag : Option (Nat × Nat)) (a : Nat) (v : Word) : Mod :=
  match m.sess h, pdOf a with
  | some x, some d =>
    if d ≠ 0 ∧ m.pdPh d ≠ .on ∧ m.pdPh d ≠ .shutting then m
    else if isSelect a then m.setSess h { x with sel := mapPut a (v &&& BitVec.ofNat 32 (accessAt a).rw) x.sel }
    else if a = R.JACK_RESET then (if bitAt v.toNat 6 then m.jackResetAll h else m.jackReset h (v.toNat % 64))
    else
      let m := match inst (R.UPL_CTRL 0) 0x200 2 a with
        | some u => m.when (bitAt v.toNat 1 && x.transport == u && !x.viaB) (fun m => m.uplConfirm (Fin.ofNat 2 u) tag)
        | none => m
      if m.mayWrite h a then m.putReg x tag a v else m
  | _, _ => m

/-- What an OP_REG_MODIFY writes (R492): W1C bits outside MASK as 0. -/
def modifyWord (a : Nat) (old mask v : Word) : Word :=
  let w1 : Word := BitVec.ofNat 32 (accessAt a).w1c
  ((old &&& ~~~mask) ||| (v &&& mask)) &&& ~~~(w1 &&& ~~~mask)

/-- A write is a safety act that R280 or R278 refuses: a SAFETY session's JACK_RESET that names a safety entry (with ALL, one that holds a
latch) without an unlock window, or with the change log full. -/
def Mod.jackRefused (m : Mod) (h a : Nat) (v : Word) : Option (Nat × Nat) :=
  let hits := if bitAt v.toNat 6 then m.jack.latched else [v.toNat % 64]
  if a = R.JACK_RESET ∧ m.isRole h .safety ∧ hits.any (fun i => (m.jackTable[i]?.map jSafety).getD false) then
    if !m.isUnlocked h then some (0x0030, 0) else if m.logs.changeFull then some (0x0033, m.logs.unread) else none
  else none

end Sys2Proof.Machine
end

