-- ==== Sys2Proof/Machine/BitProg.lean ====
section
/-! DEFINITION. The bit program's commands (R110, R144 to R147): a cycle, and its instructions one by one. A row of an
instruction is lane 0 executing the word that stands at its place in the running cycle; where the word there is
another, nothing changes (log entry 7). -/

namespace Sys2Proof.Machine

/-- Lane 0 executes the word `w` that stands at its place. -/
def bitStepOp (s : State) (w : Nat) (f : BitSt → BitSt) : Out :=
  onMod s fun m =>
    if m.inBit && m.bit.inCycle && m.bit.cur == some w then ({ m with bit := f m.bit }).bitSettle else m

/-- BIT_CYCLE (R110): DI and SI are frozen and ACC and stack cleared; `steps` words run at once (4,096 run any program), the rest as rows of their own; past the last word the masked outputs are written. -/
def execBitCycle (steps : BitVec 13) (s : State) : Out :=
  onMod s fun m =>
    if m.inBit && m.flag F.EXEC_BIT_RUNNING && !m.bit.inCycle then
      let m := m.bitStart
      ({ m with bit := BitSt.run steps.toNat m.bit }).bitSettle
    else m

/-- BIT_OVERRUN (R110): a cycle unfinished at its deadline is an overrun with cause BIT. -/
def execBitOverrun (s : State) : Out :=
  onMod s fun m => if m.inBit && m.bit.inCycle then m.overrun 7 0 0 1 else m

/-- BIT_NOP (R145): Bit program no operation. -/
def execBitNop (s : State) : Out :=
  bitStepOp s (encBitN 0x00) (fun b => b.next)

/-- BIT_LD (R145): ACC takes an operand bit. -/
def execBitLd (area : BitVec 3) (n : BitVec 8) (s : State) : Out :=
  bitStepOp s (encBit 0x01 area n) (BitSt.accOp (fun _ x => x) area.toNat n.toNat)

/-- BIT_LDN (R145): ACC takes the inverse of an operand bit. -/
def execBitLdn (area : BitVec 3) (n : BitVec 8) (s : State) : Out :=
  bitStepOp s (encBit 0x02 area n) (BitSt.accOp (fun _ x => !x) area.toNat n.toNat)

/-- BIT_AND (R145): ACC AND operand. -/
def execBitAnd (area : BitVec 3) (n : BitVec 8) (s : State) : Out :=
  bitStepOp s (encBit 0x03 area n) (BitSt.accOp (fun c x => c && x) area.toNat n.toNat)

/-- BIT_ANDN (R145): ACC AND NOT operand. -/
def execBitAndn (area : BitVec 3) (n : BitVec 8) (s : State) : Out :=
  bitStepOp s (encBit 0x04 area n) (BitSt.accOp (fun c x => c && !x) area.toNat n.toNat)

/-- BIT_OR (R145): ACC OR operand. -/
def execBitOr (area : BitVec 3) (n : BitVec 8) (s : State) : Out :=
  bitStepOp s (encBit 0x05 area n) (BitSt.accOp (fun c x => c || x) area.toNat n.toNat)

/-- BIT_ORN (R145): ACC OR NOT operand. -/
def execBitOrn (area : BitVec 3) (n : BitVec 8) (s : State) : Out :=
  bitStepOp s (encBit 0x06 area n) (BitSt.accOp (fun c x => c || !x) area.toNat n.toNat)

/-- BIT_XOR (R145): ACC XOR operand. -/
def execBitXor (area : BitVec 3) (n : BitVec 8) (s : State) : Out :=
  bitStepOp s (encBit 0x07 area n) (BitSt.accOp (fun c x => c != x) area.toNat n.toNat)

/-- BIT_ST (R145): Store ACC to an operand bit. -/
def execBitSt (area : BitVec 3) (n : BitVec 8) (s : State) : Out :=
  bitStepOp s (encBit 0x08 area n) (BitSt.stOp false area.toNat n.toNat)

/-- BIT_STN (R145): Store NOT ACC to an operand bit. -/
def execBitStn (area : BitVec 3) (n : BitVec 8) (s : State) : Out :=
  bitStepOp s (encBit 0x09 area n) (BitSt.stOp true area.toNat n.toNat)

/-- BIT_SET (R145): Set an operand bit if ACC. -/
def execBitSet (area : BitVec 3) (n : BitVec 8) (s : State) : Out :=
  bitStepOp s (encBit 0x0A area n) (BitSt.latchOp true area.toNat n.toNat)

/-- BIT_RST (R145): Clear an operand bit if ACC. -/
def execBitRst (area : BitVec 3) (n : BitVec 8) (s : State) : Out :=
  bitStepOp s (encBit 0x0B area n) (BitSt.latchOp false area.toNat n.toNat)

/-- BIT_PUSH (R145): Push ACC on the bit stack. -/
def execBitPush (s : State) : Out :=
  bitStepOp s (encBitN 0x0C) BitSt.pushOp

/-- BIT_POPAND (R145): ACC takes popped bit AND ACC. -/
def execBitPopand (s : State) : Out :=
  bitStepOp s (encBitN 0x0D) (BitSt.popOp (fun x c => x && c))

/-- BIT_POPOR (R145): ACC takes popped bit OR ACC. -/
def execBitPopor (s : State) : Out :=
  bitStepOp s (encBitN 0x0E) (BitSt.popOp (fun x c => x || c))

/-- BIT_POP (R145): ACC takes the popped bit. -/
def execBitPop (s : State) : Out :=
  bitStepOp s (encBitN 0x0F) (BitSt.popOp (fun x _ => x))

/-- BIT_NOTA (R145): Invert ACC. -/
def execBitNota (s : State) : Out :=
  bitStepOp s (encBitN 0x10) BitSt.notOp

/-- BIT_JC (R145): Jump forward if ACC. -/
def execBitJc (off : BitVec 11) (s : State) : Out :=
  bitStepOp s (encBitJ 0x11 off) (BitSt.jumpOp (fun c => c) off.toNat)

/-- BIT_JNC (R145): Jump forward if not ACC. -/
def execBitJnc (off : BitVec 11) (s : State) : Out :=
  bitStepOp s (encBitJ 0x12 off) (BitSt.jumpOp (fun c => !c) off.toNat)

/-- BIT_JMP (R145): Jump forward unconditionally. -/
def execBitJmp (off : BitVec 11) (s : State) : Out :=
  bitStepOp s (encBitJ 0x13 off) (BitSt.jumpOp (fun _ => true) off.toNat)

/-- BIT_END (R145): the cycle's program ends and the masked outputs are written. -/
def execBitEnd (s : State) : Out :=
  bitStepOp s (encBitN 0x1F) BitSt.endOp

end Sys2Proof.Machine
end

