-- ==== Sys2Proof/Machine/Bluot.lean ====
section
/-! DEFINITION. The Bluot instructions (R128 to R143): each row is one lane executing the instruction that stands at
its PC; where the words there are others, the lane does not execute it and nothing changes (log entry 7). -/

namespace Sys2Proof.Machine

/-! ### Flow of control (R133, R134) -/

/-- NOP (R129): no effect; PC moves on. -/
def execNop (ln : Fin 8) (s : State) : Out :=
  laneOp s ln (encN 0x00 0) none fun _ l => l

/-- END (R129): the task ends: write-back, then the lane's next task (R124). -/
def execEndTask (ln : Fin 8) (s : State) : Out :=
  onMod s fun m => if fetched m ln (encN 0x01 0) none then endTask m ln else m

/-- BR (R133): branches to PC + 1 + offset. -/
def execBr (ln : Fin 8) (off : BitVec 20) (s : State) : Out :=
  branchOp s ln (encI 0x02 0 off) off fun _ => true

/-- BT (R133): branches if bit 0 of Ld is 1. -/
def execBt (ln : Fin 8) (d : Fin 16) (off : BitVec 20) (s : State) : Out :=
  branchOp s ln (encI 0x03 d off) off fun l => asBool l.l[d]

/-- BF (R133): branches if bit 0 of Ld is 0. -/
def execBf (ln : Fin 8) (d : Fin 16) (off : BitVec 20) (s : State) : Out :=
  branchOp s ln (encI 0x04 d off) off fun l => !asBool l.l[d]

/-- BNV (R133): branches if VALID in Qd is 0. -/
def execBnv (ln : Fin 8) (d : Fin 16) (off : BitVec 20) (s : State) : Out :=
  branchOp s ln (encI 0x05 d off) off fun l => l.q[d] &&& qValid == 0

/-- REPEAT (R134): the body of the following words runs count + 1 times; Ld takes the iteration number with quality 0x0001. -/
def execRepeat (ln : Fin 8) (d : Fin 16) (count : BitVec 9) (body : BitVec 11) (s : State) : Out :=
  onMod s fun m =>
    let l := m.lanes[ln]
    if fetched m ln (encRPT 0x06 d count body) none then
      putLane m ln (({ l with
        pc := l.pc + 1
        rep := ⟨d, l.pc + 1, l.pc + 1 + body.toNat, 0, count.toNat + 1⟩ :: l.rep }).wr d 0 qValid)
    else m

/-! ### Loads and stores (R126, R127, R131, R140, R141) -/

/-- LDP (R126): Ld and Qd take the point's VALUE and QUALITY. -/
def execLdp (ln : Fin 8) (d : Fin 16) (p : BitVec 13) (s : State) : Out :=
  laneOp s ln (encP 0x10 d p) none fun m l =>
    let r := l.prec m p.toNat
    l.wr d r.val r.qual

/-- STP of a record (R26 to R28, R94, R127): the encoding of the TYPE, QUALITY from the tag with FORCED cleared and VALID set by
R26; COMMFAIL of a remote output stays; a forced record stays as it is. -/
def stpRec (ty : Nat) (keepFail : Bool) (r : PRec) (v : Long) (q : Tag) : PRec :=
  if isForced r.qual then r
  else r.fresh (encodeVal ty v)
    (withValid ((q &&& 0x07F7#16) ||| (if keepFail then r.qual &&& 0x0020#16 else 0)))

/-- A remote output point keeps COMMFAIL through task writes (R94). -/
def isRemoteOut (m : Mod) (p : Nat) : Bool :=
  match (m.pointDef p).map PointDef.bind with
  | some (.rout _ _) => true
  | _ => false

/-- STP (R127): the point takes Ld and Qd under R127; AGE and CHANGES under R27 and R28. DEDUCED (log entry 110): a store that FORCED sets aside is no store for AGE. -/
def execStp (ln : Fin 8) (d : Fin 16) (p : BitVec 13) (s : State) : Out :=
  onMod s fun m =>
    let l := m.lanes[ln]
    if fetched m ln (encP 0x11 d p) none then
      let r := l.prec m p.toNat
      putLane (m.when (!isForced r.qual) (fun m => m.markFresh p.toNat)) ln
        ((l.putRec m p.toNat (stpRec (pointTy m p.toNat) (isRemoteOut m p.toNat) r l.l[d] l.q[d])).past 1)
    else m

/-- LDAGE (R129): Ld takes the point's AGE as INT32, quality 0x0001. -/
def execLdage (ln : Fin 8) (d : Fin 16) (p : BitVec 13) (s : State) : Out :=
  laneOp s ln (encP 0x12 d p) none fun m l => l.wr d (ofI32 (l.prec m p.toNat).age) qValid

/-- LDCHG (R129): Ld takes the point's CHANGES as INT32, quality 0x0001. -/
def execLdchg (ln : Fin 8) (d : Fin 16) (p : BitVec 13) (s : State) : Out :=
  laneOp s ln (encP 0x13 d p) none fun m l => l.wr d (ofI32 (l.prec m p.toNat).chg) qValid

/-- LDI (R129): Ld takes the immediate, sign-extended to 64 bits. -/
def execLdi (ln : Fin 8) (d : Fin 16) (imm : BitVec 20) (s : State) : Out :=
  laneOp s ln (encI 0x14 d imm) none fun _ l => l.wr d (imm.signExtend 64) qValid

/-- LDIX (R129): Ld takes the second word, sign-extended to 64 bits. -/
def execLdix (ln : Fin 8) (d : Fin 16) (w : BitVec 32) (s : State) : Out :=
  laneOp s ln (encN 0x15 d) (some w.toNat) fun _ l => l.wr d (w.signExtend 64) qValid

/-- LDIR (R129): Ld takes the second word as REAL32. -/
def execLdir (ln : Fin 8) (d : Fin 16) (w : BitVec 32) (s : State) : Out :=
  laneOp s ln (encN 0x16 d) (some w.toNat) fun _ l => l.wr d (w.zeroExtend 64) qValid

/-- LDK (R129): Ld takes a constant word. -/
def execLdk (ln : Fin 8) (d : Fin 16) (k : BitVec 13) (s : State) : Out :=
  laneOp s ln (encK 0x17 d k) none fun m l => l.wr d (l.const m k.toNat) qValid

/-- The element of an index held in a range, and whether it was outside (R141). -/
def indexIn (base cnt : Nat) (ix : Int) : Nat × Bool :=
  let i := (base : Int) + ix
  if i < base then (base, true)
  else if (base + cnt : Nat) ≤ i then (base + cnt - 1, true)
  else (i.toNat, false)

/-- The tag of an indexed load: 0x0001 or 0x0010, combined with the index register's (R141, R142). -/
def indexTag (out : Bool) (q : Tag) : Tag :=
  combine [if out then qRange else qValid, q] false

/-- LDKX (R141): Ld takes constant word base + Ls; beyond the range the nearest end with RANGE. -/
def execLdkx (ln : Fin 8) (d : Fin 16) (a : Fin 16) (k : BitVec 13) (cnt : BitVec 8) (s : State) : Out :=
  laneOp s ln (encKX 0x18 d a k) (some cnt.toNat) fun m l =>
    let e := indexIn k.toNat cnt.toNat (asI32 l.l[a])
    l.wr d (l.const m e.1) (indexTag e.2 l.q[a])

/-- MOV (R129): Ld and Qd take Ls and Qs. -/
def execMov (ln : Fin 8) (d : Fin 16) (a : Fin 16) (s : State) : Out :=
  laneOp s ln (encR 0x19 d a 0) none fun _ l => l.wr d l.l[a] l.q[a]

/-- LDM (R140): Ld takes a member of a user-defined block, quality 0x0001. -/
def execLdm (ln : Fin 8) (d : Fin 16) (n : BitVec 14) (w : BitVec 5) (s : State) : Out :=
  laneOp s ln (encM 0x1A d n w) none fun m l =>
    l.wr d (BitVec.ofNat 64 (l.rdN (instAddr m l n.toNat (8 * w.toNat)) 8)) qValid

/-- STM (R140): the member takes Ld; the tag is not kept. -/
def execStm (ln : Fin 8) (d : Fin 16) (n : BitVec 14) (w : BitVec 5) (s : State) : Out :=
  laneOp s ln (encM 0x1B d n w) none fun m l => l.wrN (instAddr m l n.toNat (8 * w.toNat)) 8 (l.l[d]).toNat

/-- LDMX (R141): Ld takes member word w + Ls; beyond the range the nearest end with RANGE. -/
def execLdmx (ln : Fin 8) (d : Fin 16) (a : Fin 16) (n : BitVec 14) (w : BitVec 5) (cnt : BitVec 5) (s : State) : Out :=
  laneOp s ln (encM 0x1C d n w) (some (encMX2 a cnt)) fun m l =>
    let e := indexIn w.toNat (cnt.toNat + 1) (asI32 l.l[a])
    l.wr d (BitVec.ofNat 64 (l.rdN (instAddr m l n.toNat (8 * e.1)) 8)) (indexTag e.2 l.q[a])

/-- STMX (R141): member word w + Ls takes Ld; beyond the range nothing changes. -/
def execStmx (ln : Fin 8) (d : Fin 16) (a : Fin 16) (n : BitVec 14) (w : BitVec 5) (cnt : BitVec 5) (s : State) : Out :=
  laneOp s ln (encM 0x1D d n w) (some (encMX2 a cnt)) fun m l =>
    let e := indexIn w.toNat (cnt.toNat + 1) (asI32 l.l[a])
    if e.2 then l else l.wrN (instAddr m l n.toNat (8 * e.1)) 8 (l.l[d]).toNat

/-- LDT (R129): Ld takes FREEZE_TIME. -/
def execLdt (ln : Fin 8) (d : Fin 16) (s : State) : Out :=
  laneOp s ln (encN 0x1E d) none fun _ l => l.wr d (BitVec.ofNat 64 l.freeze) qValid

/-! ### INT32 (R129, R130) -/

/-- ADD_I (R130): Ls + Lt, saturated. -/
def execAddI (ln : Fin 8) (d : Fin 16) (a : Fin 16) (b : Fin 16) (s : State) : Out :=
  i32Op s ln 0x20 d a b fun x y => saturate 32 (x + y)

/-- SUB_I (R130): Ls − Lt, saturated. -/
def execSubI (ln : Fin 8) (d : Fin 16) (a : Fin 16) (b : Fin 16) (s : State) : Out :=
  i32Op s ln 0x21 d a b fun x y => saturate 32 (x - y)

/-- MUL_I (R130): Ls × Lt, saturated. -/
def execMulI (ln : Fin 8) (d : Fin 16) (a : Fin 16) (b : Fin 16) (s : State) : Out :=
  i32Op s ln 0x22 d a b fun x y => saturate 32 (x * y)

/-- DIV_I (R130): Ls / Lt rounded toward zero. -/
def execDivI (ln : Fin 8) (d : Fin 16) (a : Fin 16) (b : Fin 16) (s : State) : Out :=
  i32Op s ln 0x23 d a b (divInt 32)

/-- MOD_I (R130): the remainder with the sign of Ls. -/
def execModI (ln : Fin 8) (d : Fin 16) (a : Fin 16) (b : Fin 16) (s : State) : Out :=
  i32Op s ln 0x24 d a b modInt

/-- NEG_I (R130): −Ls, saturated. -/
def execNegI (ln : Fin 8) (d : Fin 16) (a : Fin 16) (s : State) : Out :=
  convOp s ln 0x25 d a fun v => let r := saturate 32 (-asI32 v); (ofI32 r.1, r.2)

/-- ABS_I (R130): abs(Ls), saturated. -/
def execAbsI (ln : Fin 8) (d : Fin 16) (a : Fin 16) (s : State) : Out :=
  convOp s ln 0x26 d a fun v => let r := saturate 32 ((asI32 v).natAbs); (ofI32 r.1, r.2)

/-- MIN_I (R129): the lesser. -/
def execMinI (ln : Fin 8) (d : Fin 16) (a : Fin 16) (b : Fin 16) (s : State) : Out :=
  i32Op s ln 0x27 d a b fun x y => (min x y, false)

/-- MAX_I (R129): the greater. -/
def execMaxI (ln : Fin 8) (d : Fin 16) (a : Fin 16) (b : Fin 16) (s : State) : Out :=
  i32Op s ln 0x28 d a b fun x y => (max x y, false)

/-- LIM_I (R129): Ld becomes min(max(Ld, Ls), Lt). -/
def execLimI (ln : Fin 8) (d : Fin 16) (a : Fin 16) (b : Fin 16) (s : State) : Out :=
  regOp s ln (encR 0x29 d a b) d [d, a, b] fun l =>
    (ofI32 (min (max (asI32 l.l[d]) (asI32 l.l[a])) (asI32 l.l[b])), false)

/-- ADDI_I (R129): Ls + immediate, saturated. -/
def execAddiI (ln : Fin 8) (d : Fin 16) (a : Fin 16) (imm : BitVec 16) (s : State) : Out :=
  regOp s ln (encRI 0x2A d a imm) d [a] fun l =>
    let r := saturate 32 (asI32 l.l[a] + imm.toInt); (ofI32 r.1, r.2)

/-! ### INT64 (R129, R130) -/

/-- ADD_L (R130): Ls + Lt, saturated. -/
def execAddL (ln : Fin 8) (d : Fin 16) (a : Fin 16) (b : Fin 16) (s : State) : Out :=
  i64Op s ln 0x30 d a b fun x y => saturate 64 (x + y)

/-- SUB_L (R130): Ls − Lt, saturated. -/
def execSubL (ln : Fin 8) (d : Fin 16) (a : Fin 16) (b : Fin 16) (s : State) : Out :=
  i64Op s ln 0x31 d a b fun x y => saturate 64 (x - y)

/-- MUL_L (R130): Ls × Lt, saturated. -/
def execMulL (ln : Fin 8) (d : Fin 16) (a : Fin 16) (b : Fin 16) (s : State) : Out :=
  i64Op s ln 0x32 d a b fun x y => saturate 64 (x * y)

/-- DIV_L (R130): Ls / Lt rounded toward zero. -/
def execDivL (ln : Fin 8) (d : Fin 16) (a : Fin 16) (b : Fin 16) (s : State) : Out :=
  i64Op s ln 0x33 d a b (divInt 64)

/-- NEG_L (R130): −Ls, saturated. -/
def execNegL (ln : Fin 8) (d : Fin 16) (a : Fin 16) (s : State) : Out :=
  convOp s ln 0x34 d a fun v => let r := saturate 64 (-asI64 v); (ofI64 r.1, r.2)

/-- ABS_L (R130): abs(Ls), saturated. -/
def execAbsL (ln : Fin 8) (d : Fin 16) (a : Fin 16) (s : State) : Out :=
  convOp s ln 0x35 d a fun v => let r := saturate 64 ((asI64 v).natAbs); (ofI64 r.1, r.2)

/-- MIN_L (R129): the lesser. -/
def execMinL (ln : Fin 8) (d : Fin 16) (a : Fin 16) (b : Fin 16) (s : State) : Out :=
  i64Op s ln 0x36 d a b fun x y => (min x y, false)

/-- MAX_L (R129): the greater. -/
def execMaxL (ln : Fin 8) (d : Fin 16) (a : Fin 16) (b : Fin 16) (s : State) : Out :=
  i64Op s ln 0x37 d a b fun x y => (max x y, false)

/-- LIM_L (R129): Ld becomes min(max(Ld, Ls), Lt). -/
def execLimL (ln : Fin 8) (d : Fin 16) (a : Fin 16) (b : Fin 16) (s : State) : Out :=
  regOp s ln (encR 0x38 d a b) d [d, a, b] fun l =>
    (ofI64 (min (max (asI64 l.l[d]) (asI64 l.l[a])) (asI64 l.l[b])), false)

/-! ### REAL32 (R129, R130) -/

/-- ADD_F (R130): Ls + Lt. -/
def execAddF (ln : Fin 8) (d : Fin 16) (a : Fin 16) (b : Fin 16) (s : State) : Out :=
  f32Op s ln 0x40 d a b (fAdd b32)

/-- SUB_F (R130): Ls − Lt. -/
def execSubF (ln : Fin 8) (d : Fin 16) (a : Fin 16) (b : Fin 16) (s : State) : Out :=
  f32Op s ln 0x41 d a b (fSub b32)

/-- MUL_F (R130): Ls × Lt. -/
def execMulF (ln : Fin 8) (d : Fin 16) (a : Fin 16) (b : Fin 16) (s : State) : Out :=
  f32Op s ln 0x42 d a b (fMul b32)

/-- DIV_F (R130): Ls / Lt. -/
def execDivF (ln : Fin 8) (d : Fin 16) (a : Fin 16) (b : Fin 16) (s : State) : Out :=
  f32Op s ln 0x43 d a b (fDiv b32)

/-- SQRT_F (R130): the square root of Ls. -/
def execSqrtF (ln : Fin 8) (d : Fin 16) (a : Fin 16) (s : State) : Out :=
  convOp s ln 0x44 d a fun v => let r := fSqrt b32 (asF32 v); (ofF32 r, f32Range r)

/-- NEG_F (R129): −Ls; a subnormal counts as zero. -/
def execNegF (ln : Fin 8) (d : Fin 16) (a : Fin 16) (s : State) : Out :=
  convOp s ln 0x45 d a fun v => let r := fNeg b32 (fFlush b32 (asF32 v)); (ofF32 r, f32Range r)

/-- ABS_F (R129): abs(Ls); a subnormal counts as zero. -/
def execAbsF (ln : Fin 8) (d : Fin 16) (a : Fin 16) (s : State) : Out :=
  convOp s ln 0x46 d a fun v => let r := fAbs b32 (fFlush b32 (asF32 v)); (ofF32 r, f32Range r)

/-- MIN_F (R130): minNum. -/
def execMinF (ln : Fin 8) (d : Fin 16) (a : Fin 16) (b : Fin 16) (s : State) : Out :=
  f32NumOp s ln 0x47 d a b (fMin b32)

/-- MAX_F (R130): maxNum. -/
def execMaxF (ln : Fin 8) (d : Fin 16) (a : Fin 16) (b : Fin 16) (s : State) : Out :=
  f32NumOp s ln 0x48 d a b (fMax b32)

/-- LIM_F (R130): MIN.F of (MAX.F of Ld and Ls) and Lt. -/
def execLimF (ln : Fin 8) (d : Fin 16) (a : Fin 16) (b : Fin 16) (s : State) : Out :=
  regOp s ln (encR 0x49 d a b) d [d, a, b] fun l =>
    let r := fMin b32 (fMax b32 (asF32 l.l[d]) (asF32 l.l[a])) (asF32 l.l[b])
    (ofF32 r, f32Range r || [d, a, b].any (fun x => fIsNan b32 (asF32 l.l[x])))

/-- MAC_F (R129): Ld + Ls × Lt, rounded after the product and after the sum. -/
def execMacF (ln : Fin 8) (d : Fin 16) (a : Fin 16) (b : Fin 16) (s : State) : Out :=
  regOp s ln (encR 0x4A d a b) d [d, a, b] fun l =>
    let r := fAdd b32 (asF32 l.l[d]) (fMul b32 (asF32 l.l[a]) (asF32 l.l[b])); (ofF32 r, f32Range r)

/-! ### Conversions (R129, R130) -/

/-- I2L (R129): INT32 as INT64. -/
def execI2l (ln : Fin 8) (d : Fin 16) (a : Fin 16) (s : State) : Out :=
  convOp s ln 0x50 d a fun v => (ofI64 (asI32 v), false)

/-- L2I (R130): INT64 as INT32, saturated. -/
def execL2i (ln : Fin 8) (d : Fin 16) (a : Fin 16) (s : State) : Out :=
  convOp s ln 0x51 d a fun v => let r := saturate 32 (asI64 v); (ofI32 r.1, r.2)

/-- I2F (R130): INT32 as REAL32, rounded without a flag. -/
def execI2f (ln : Fin 8) (d : Fin 16) (a : Fin 16) (s : State) : Out :=
  convOp s ln 0x52 d a fun v => (ofF32 (fOfInt b32 (asI32 v)), false)

/-- F2I (R130): REAL32 as INT32. -/
def execF2i (ln : Fin 8) (d : Fin 16) (a : Fin 16) (s : State) : Out :=
  convOp s ln 0x53 d a fun v => let r := f2int 32 (asF32 v); (ofI32 r.1, r.2)

/-- L2F (R130): INT64 as REAL32, rounded without a flag. -/
def execL2f (ln : Fin 8) (d : Fin 16) (a : Fin 16) (s : State) : Out :=
  convOp s ln 0x54 d a fun v => (ofF32 (fOfInt b32 (asI64 v)), false)

/-- F2L (R130): REAL32 as INT64. -/
def execF2l (ln : Fin 8) (d : Fin 16) (a : Fin 16) (s : State) : Out :=
  convOp s ln 0x55 d a fun v => let r := f2int 64 (asF32 v); (ofI64 r.1, r.2)

/-! ### Bits (R129) -/

/-- AND (R129): Ls AND Lt. -/
def execAnd64 (ln : Fin 8) (d : Fin 16) (a : Fin 16) (b : Fin 16) (s : State) : Out :=
  bitOp s ln 0x60 d a b (· &&& ·)

/-- OR (R129): Ls OR Lt. -/
def execOr64 (ln : Fin 8) (d : Fin 16) (a : Fin 16) (b : Fin 16) (s : State) : Out :=
  bitOp s ln 0x61 d a b (· ||| ·)

/-- XOR (R129): Ls XOR Lt. -/
def execXor64 (ln : Fin 8) (d : Fin 16) (a : Fin 16) (b : Fin 16) (s : State) : Out :=
  bitOp s ln 0x62 d a b (· ^^^ ·)

/-- NOT (R129): 1 if bit 0 of Ls is 0, else 0. -/
def execNotB (ln : Fin 8) (d : Fin 16) (a : Fin 16) (s : State) : Out :=
  convOp s ln 0x63 d a fun v => (ofBoolL (!asBool v), false)

/-- INV (R129): the bitwise complement. -/
def execInv64 (ln : Fin 8) (d : Fin 16) (a : Fin 16) (s : State) : Out :=
  convOp s ln 0x64 d a fun v => (~~~v, false)

/-- SHL (R129): left by Lt[5:0]. -/
def execShl (ln : Fin 8) (d : Fin 16) (a : Fin 16) (b : Fin 16) (s : State) : Out :=
  bitOp s ln 0x65 d a b fun x y => x <<< (y.toNat % 64)

/-- SHR (R129): right, logically, by Lt[5:0]. -/
def execShr (ln : Fin 8) (d : Fin 16) (a : Fin 16) (b : Fin 16) (s : State) : Out :=
  bitOp s ln 0x66 d a b fun x y => x >>> (y.toNat % 64)

/-- SAR (R129): right, arithmetically, by Lt[5:0]. -/
def execSar (ln : Fin 8) (d : Fin 16) (a : Fin 16) (b : Fin 16) (s : State) : Out :=
  bitOp s ln 0x67 d a b fun x y => x.sshiftRight (y.toNat % 64)

/-! ### Comparison and selection (R129 to R131) -/

/-- CMP_I (R129): BOOL of a condition on INT32. -/
def execCmpI (ln : Fin 8) (d : Fin 16) (a : Fin 16) (b : Fin 16) (c : Cond) (s : State) : Out :=
  regOp s ln (encC 0x70 d a b (condCode c)) d [a, b] fun l => (ofBoolL (condInt c (asI32 l.l[a]) (asI32 l.l[b])), false)

/-- CMP_L (R129): BOOL of a condition on INT64 or TIME. -/
def execCmpL (ln : Fin 8) (d : Fin 16) (a : Fin 16) (b : Fin 16) (c : Cond) (s : State) : Out :=
  regOp s ln (encC 0x71 d a b (condCode c)) d [a, b] fun l => (ofBoolL (condInt c (asI64 l.l[a]) (asI64 l.l[b])), false)

/-- CMP_F (R130): BOOL of a condition on REAL32; a NaN operand sets RANGE. -/
def execCmpF (ln : Fin 8) (d : Fin 16) (a : Fin 16) (b : Fin 16) (c : Cond) (s : State) : Out :=
  regOp s ln (encC 0x72 d a b (condCode c)) d [a, b] fun l =>
    (ofBoolL (condF32 c (asF32 l.l[a]) (asF32 l.l[b])), fIsNan b32 (asF32 l.l[a]) || fIsNan b32 (asF32 l.l[b]))

/-- SEL (R131): Lt if bit 0 of Ld is 1, else Ls; the tag by R131, step 3. -/
def execSel (ln : Fin 8) (d : Fin 16) (a : Fin 16) (b : Fin 16) (s : State) : Out :=
  laneOp s ln (encR 0x78 d a b) none fun _ l =>
    let c := if asBool l.l[d] then b else a
    l.wr d l.l[c] (combine [l.q[d], l.q[c]] false)

/-! ### Quality (R131, R132) -/

/-- QLD (R129): Qs as INT32. -/
def execQld (ln : Fin 8) (d : Fin 16) (a : Fin 16) (s : State) : Out :=
  laneOp s ln (encR 0x80 d a 0) none fun _ l => l.wr d (ofI32 (l.q[a]).toNat) qValid

/-- QTST (R129): BOOL ((Qs AND mask) ≠ 0). -/
def execQtst (ln : Fin 8) (d : Fin 16) (a : Fin 16) (mask : BitVec 16) (s : State) : Out :=
  laneOp s ln (encRI 0x81 d a mask) none fun _ l => l.wr d (ofBoolL (l.q[a] &&& mask != 0)) qValid

/-- QSET (R132): Qd OR mask, VALID set again by R131, step 4; Ld stays. -/
def execQset (ln : Fin 8) (d : Fin 16) (mask : BitVec 16) (s : State) : Out :=
  laneOp s ln (encRI 0x82 d 0 mask) none fun _ l => l.wrQ d (combine [l.q[d] ||| mask] false)

/-- QVAL (R132): Qd becomes 0x0001. -/
def execQval (ln : Fin 8) (d : Fin 16) (s : State) : Out :=
  laneOp s ln (encN 0x83 d) none fun _ l => l.wrQ d qValid

/-- QCPY (R132): Qd takes Qs; Ld stays. -/
def execQcpy (ln : Fin 8) (d : Fin 16) (a : Fin 16) (s : State) : Out :=
  laneOp s ln (encR 0x84 d a 0) none fun _ l => l.wrQ d l.q[a]

/-! ### Function blocks (R136 to R139) -/

/-- TON (R138): on-delay timer. -/
def execTon (ln : Fin 8) (d : Fin 16) (n : BitVec 14) (s : State) : Out :=
  timerOp s ln 0xA0 d n fun _ inp _ q run et dlt pt => tonRule inp q run et dlt pt

/-- TOF (R138): off-delay timer. -/
def execTof (ln : Fin 8) (d : Fin 16) (n : BitVec 14) (s : State) : Out :=
  timerOp s ln 0xA1 d n fun _ inp _ q run et dlt pt => tofRule inp q run et dlt pt

/-- TP (R138): pulse timer; at the first execution M takes IN first. -/
def execTp (ln : Fin 8) (d : Fin 16) (n : BitVec 14) (s : State) : Out :=
  timerOp s ln 0xA2 d n fun init inp mm q run et dlt pt => tpRule inp (if init then mm else inp) q run et dlt pt

/-- CTU (R139): up counter. -/
def execCtu (ln : Fin 8) (d : Fin 16) (n : BitVec 14) (s : State) : Out :=
  counterOp s ln 0xA3 d n
    (fun r edge cv _ => if r then 0 else if edge then min (cv + 1) 2147483647 else cv) (fun cv pv => decide (pv ≤ cv))

/-- CTD (R139): down counter. -/
def execCtd (ln : Fin 8) (d : Fin 16) (n : BitVec 14) (s : State) : Out :=
  counterOp s ln 0xA4 d n
    (fun ld edge cv pv => if ld then pv else if edge then max (cv - 1) (-2147483648) else cv) (fun cv _ => decide (cv ≤ 0))

/-- R_TRIG (R139): rising edge. -/
def execRTrig (ln : Fin 8) (d : Fin 16) (n : BitVec 14) (s : State) : Out :=
  edgeOp s ln 0xA5 d n fun x mm => x && !mm

/-- F_TRIG (R139): falling edge. -/
def execFTrig (ln : Fin 8) (d : Fin 16) (n : BitVec 14) (s : State) : Out :=
  edgeOp s ln 0xA6 d n fun x mm => mm && !x

/-- SR (R139): set-dominant bistable. -/
def execSrBlk (ln : Fin 8) (d : Fin 16) (n : BitVec 14) (s : State) : Out :=
  bistableOp s ln 0xA7 d n fun s1 r q => s1 || (q && !r)

/-- RS (R139): reset-dominant bistable. -/
def execRsBlk (ln : Fin 8) (d : Fin 16) (n : BitVec 14) (s : State) : Out :=
  bistableOp s ln 0xA8 d n fun st r1 q => !r1 && (st || q)

/-! ### Transfer steps (R143) -/

/-- INX (R143): one point from the input image, a port buffer or a mirror as frozen, under R93 and R96. -/
def execInx (ln : Fin 8) (p : BitVec 13) (s : State) : Out :=
  onMod s fun m =>
    let l := m.lanes[ln]
    if fetched m ln (encP 0xF0 0 p) none then
      if !m.regionOk ln.val 1 (imageAddr p.toNat) then laneRegion (m.regionViolation ln.val 1 (imageAddr p.toNat)) (l.cls m)
      else match m.pointDef p.toNat with
      | none => putLane m ln (l.past 1)
      | some pd =>
        let e := mapGetD {} p.toNat m.exec.image
        let r := l.prec m p.toNat
        putLane (m.when (e.fresh && !isForced r.qual) (fun m => m.markFresh p.toNat)) ln
          ((l.putRec m p.toNat (inxRec pd r e)).past 1)
    else m

/-- The staging of an output point (R91): a physical output's staged word, for copy B of a SAFETY task the staging of the pair's
channel B (R265), or the value a remote output's next exchange will carry. -/
def stagePoint (m : Mod) (copyB : Bool) (p : Nat) (v : Long) : Mod :=
  match (m.pointDef p).map PointDef.bind with
  | some (.out o) =>
    let o := if copyB then o + 1 else o
    if h : o < 48 then m.outMap ⟨o, h⟩ (fun u => { u with staged := some (v.extractLsb' 0 32) }) else m
  | some (.rout _ _) => { m with exec := { m.exec with rstaged := mapPut p v m.exec.rstaged } }
  | _ => m

/-- OUTX (R143): the point's VALUE goes into its class's output staging. -/
def execOutx (ln : Fin 8) (p : BitVec 13) (s : State) : Out :=
  onMod s fun m =>
    let l := m.lanes[ln]
    if fetched m ln (encP 0xF1 0 p) none then
      if !m.regionOk ln.val 2 (stagingAddr p.toNat) then laneRegion (m.regionViolation ln.val 2 (stagingAddr p.toNat)) (l.cls m)
      else putLane (stagePoint m (l.copyB m) p.toNat (l.prec m p.toNat).val) ln (l.past 1)
    else m

end Sys2Proof.Machine
end

