-- ==== Sys2Proof/Machine/OpSession.lean ====
section
/-! DEFINITION. Session commands (R336, R349, R351). -/

namespace Sys2Proof.Machine

/-- The TRANSPORT byte of a session (R353, R367). -/
def Sess.transportByte (x : Sess) : Nat := x.transport + 128 * b2n x.viaB

/-- OP_SESS_CLOSE (R336): the session closes with its last reply. -/
def execOpSessClose (h : BitVec 10) (seq : BitVec 32) (s : State) : Out :=
  opRow s h seq 0x0002 fun m k x _ => (m.setSess k { x with closing := true }, .ok [])

/-- OP_SESS_INFO (R349): Return the session's role, transport, scope and counters. -/
def execOpSessInfo (h : BitVec 10) (seq : BitVec 32) (s : State) : Out :=
  opRow s h seq 0x0003 fun m _ x _ =>
    (m, .ok (leBytes 1 (roleCode x.role) ++ leBytes 1 x.transportByte ++ leBytes 2 x.scope ++ leBytes 4 x.top ++ leBytes 1 x.flight.length
      ++ leBytes 1 x.cache.length ++ leBytes 2 (m.idleLeft x)))

/-- OP_SESS_LIST (R349): List open sessions. -/
def execOpSessList (h : BitVec 10) (seq : BitVec 32) (s : State) : Out :=
  opRow s h seq 0x0004 fun m _ _ ps =>
    let count := par ps 2 2
    if count = 0 ∨ 160 < count then (m, .fail 0x0002 2)
    else
      let l := (m.orpor.sessions.filter (fun e => decide (par ps 0 2 ≤ e.1) && decide (e.1 < 1024))).take count
      (m, .ok (l.flatMap (fun e => leBytes 2 e.1 ++ leBytes 1 (roleCode e.2.role) ++ leBytes 1 e.2.transportByte ++ leBytes 2 e.2.scope
        ++ leBytes 2 (m.idleLeft e.2))))

/-- OP_SESS_KILL (R336): a number that names no other open session is a parameter out of range. -/
def execOpSessKill (h : BitVec 10) (seq : BitVec 32) (s : State) : Out :=
  opRow s h seq 0x0005 fun m k _ ps =>
    let v := par ps 0 2
    if v = k ∨ (m.sess v).isNone then (m, .fail 0x0002 0) else (m.closeSess v, .ok [])

end Sys2Proof.Machine
end

