-- ==== Sys2Proof/Machine/OpPoint.lean ====
section
/-! DEFINITION. Point commands (R11, R29, R338, R344 to R346, R349, R367, R368). -/

namespace Sys2Proof.Machine

/-! ### Where a point stands, and who may reach it -/

/-- The Two-hand peer answers (R367): the link is up, outside split operation. -/
def Mod.peerUp (m : Mod) : Bool := m.flag F.TWIN_STATUS_LINK_UP && !m.flag F.TWIN_STATUS_SPLIT

/-- A point is homed on this module (R361). -/
def Mod.homed (m : Mod) (i : Nat) : Bool := m.get F.TWIN_STATUS_MODE != 1 || decide (i < 4096) == !m.flag F.TWIN_STATUS_SIDE

/-- The gate of R338: the position of the first item outside the session's map; a side that answers for its own half has no other
(R368); the peer's half needs the peer. -/
def Mod.ptGate (m : Mod) (may : Nat → Bool) (is : List Nat) : Option Res :=
  match is.findIdx? (fun i => !may i || (!m.homed i && m.flag F.TWIN_STATUS_SIDE)) with
  | some j => some (.fail 0x0006 j)
  | none => if is.all (fun i => m.homed i || m.peerUp) then none else some (.fail 0x0004 m.stateDetail)

/-- Points that a session may read. -/
def Mod.mayReadPt (m : Mod) (x : Sess) (i : Nat) : Bool := x.wide || (m.scopeDef x).readPts.contains i

/-- Points that it may write: of ORIGIN 4 (R345). -/
def Mod.mayWritePt (m : Mod) (x : Sess) (i : Nat) : Bool :=
  (x.wide || (m.scopeDef x).writePts.contains i)
    && (!m.homed i || (match m.pointDef i with | some p => p.bind == .free | none => false))

/-- Points that it may force or release: none of ORIGIN 5 (R346). -/
def Mod.mayForcePt (m : Mod) (x : Sess) (i : Nat) : Bool :=
  (x.wide || (m.scopeDef x).writePts.contains i)
    && (!m.homed i || (match m.pointDef i with | some p => (match p.bind with | .meter _ _ => false | _ => true) | none => false))

/-- A safety point, which no session forces (R264). -/
def Mod.isSafetyPt (m : Mod) (i : Nat) : Bool :=
  match m.pointDef i with
  | some p => (match p.bind with | .si _ => true | .out o => decide (32 ≤ o) && decide (o < 40) | _ => false)
  | none => false

/-- VALUE's 8 bytes have the form of the point's TYPE (R345). -/
def valueOk (ty : Nat) (v : Long) : Bool := encodeVal ty v == v

def Mod.formOkPt (m : Mod) (i : Nat) (v : Long) : Bool :=
  match m.pointDef i with
  | some p => !m.homed i || valueOk p.ty v
  | none => true

/-! ### What a command of the management core meets in memory -/

/-- No region permits an access (R44): the command ends with ST_INTERNAL, whose code the manual leaves open (log entry 2). -/
def Mod.ptBlocked (m : Mod) (access tile : Nat) : Mod × Res :=
  let n := m.free.toNat % 2 ^ 32
  (((m.drawn.regionViolation 9 access (tile * 256)).log .orporInternal 0 (leBytes 4 n)), .fail 0x00F0 n)

/-- The first of the points whose tile master 9 may not read, or where it writes not write. -/
def Mod.ptStopped (m : Mod) (writes : Bool) (is : List Nat) : Option (Nat × Nat) :=
  is.findSome? (fun i =>
    match mapGet i m.mem.pmap with
    | none => none
    | some e =>
      if !m.homed i then none
      else if !m.regionOk 9 1 (e.tile * 256) then some (1, e.tile)
      else if writes && !m.regionOk 9 2 (e.tile * 256) then some (2, e.tile)
      else none)

/-- Records read in order. What the manual does not state is free: the record of an index without a point, and the peer's record
(log entry 2). -/
def Mod.readPts (m : Mod) : List Nat → Mod × List Byte
  | [] => (m, [])
  | i :: t =>
    let r : Mod × List Byte :=
      if m.homed i then
        match m.pointLoad 9 i with
        | (m', _, some r) => (m', r.bytes)
        | (m', _, none) => (m'.drawnN 16, m'.random 16)
      else (m.drawnN 16, m.random 16)
    let q := r.1.readPts t
    (q.1, r.2 ++ q.2)

/-- A read of points that the gate passes. -/
def Mod.ptRead (m : Mod) (x : Sess) (is : List Nat) : Mod × Res :=
  match m.ptGate (m.mayReadPt x) is with
  | some r => (m, r)
  | none =>
    match m.ptStopped false is with
    | some (a, t) => m.ptBlocked a t
    | none => let q := m.readPts is; (q.1, .ok q.2)

/-- The peer's answer to what is asked of its points (R367), which nothing here determines: its status, DETAIL and data are free. -/
def Mod.peerAnswer (m : Mod) (is : List Nat) (n : Nat) (f : Mod → Mod × Res) : Mod × Res :=
  if is.all m.homed then f m
  else
    let st := m.free.toNat % 65536
    let m := m.drawn
    if st = 0 then ((f m).1.drawnN n, .ok ((f m).1.random n)) else (m.drawn, .fail st (m.free.toNat % 2 ^ 32))

/-- OP_PT_READ (R349): Read listed point records. -/
def execOpPtRead (h : BitVec 10) (seq : BitVec 32) (s : State) : Out :=
  opRow s h seq 0x0100 fun m _ x ps =>
    let n := par ps 0 2
    let is := (List.range n).map (fun j => par ps (2 + 2 * j) 2)
    if n = 0 ∨ 80 < n then (m, .fail 0x0002 0)
    else match is.findIdx? (fun i => decide (8192 ≤ i)) with
      | some j => (m, .fail 0x0002 (2 + 2 * j))
      | none => m.ptRead x is

/-- OP_PT_READ_RANGE (R349): Read a range of point records. -/
def execOpPtReadRange (h : BitVec 10) (seq : BitVec 32) (s : State) : Out :=
  opRow s h seq 0x0101 fun m _ x ps =>
    let first := par ps 0 2
    let n := par ps 2 2
    if 8192 ≤ first then (m, .fail 0x0002 0)
    else if n = 0 ∨ 80 < n ∨ 8192 < first + n then (m, .fail 0x0002 2)
    else m.ptRead x ((List.range n).map (first + ·))

/-- OP_PT_WRITE (R345): the points of one command take effect together, in the window it executes in. -/
def execOpPtWrite (h : BitVec 10) (seq : BitVec 32) (s : State) : Out :=
  opRow s h seq 0x0102 fun m _ x ps =>
    let n := par ps 0 1
    let items : List (Nat × Long) := (List.range n).map (fun j => (par ps (4 + 12 * j) 2, BitVec.ofNat 64 (par ps (8 + 12 * j) 8)))
    let is := items.map (·.1)
    if m.st = xStandby then m.badState
    else if n = 0 ∨ 64 < n then (m, .fail 0x0002 0)
    else match is.findIdx? (fun i => decide (8192 ≤ i)) with
      | some j => (m, .fail 0x0002 (4 + 12 * j))
      | none => match m.ptGate (m.mayWritePt x) is with
        | some r => (m, r)
        | none => match items.findIdx? (fun e => !m.formOkPt e.1 e.2) with
          | some j => (m, .fail 0x0002 (8 + 12 * j))
          | none => match is.find? (fun i => m.homed i && (mapGet i m.mem.forces).isSome) with
            | some i => (m, .fail 0x0008 i)
            | none => match m.ptStopped true is with
              | some (a, t) => m.ptBlocked a t
              | none => m.peerAnswer is 8 (fun m =>
                  ((items.filter (fun e => m.homed e.1)).foldl (fun m e => m.applyPt (.write e.1 e.2)) m, .ok (leBytes 8 m.exec.windowAt)))

/-- OP_PT_FORCE (R346): Force a point's value with FORCED quality. -/
def execOpPtForce (h : BitVec 10) (seq : BitVec 32) (s : State) : Out :=
  opRow s h seq 0x0103 fun m _ x ps =>
    let i := par ps 0 2
    let v : Long := BitVec.ofNat 64 (par ps 4 8)
    if m.st = xStandby then m.badState
    else if 8192 ≤ i then (m, .fail 0x0002 0)
    else if m.isSafetyPt i then (m, .fail 0x0005 0x0103)
    else match m.ptGate (m.mayForcePt x) [i] with
      | some r => (m, r)
      | none =>
        if !m.formOkPt i v then (m, .fail 0x0002 4)
        else match m.ptStopped true [i] with
          | some (a, t) => m.ptBlocked a t
          | none => m.peerAnswer [i] 8 (fun m => (m.applyPt (.force i v), .ok (leBytes 8 m.exec.windowAt)))

/-- The module's own forces that a session may release. -/
def Mod.mayRelease (m : Mod) (x : Sess) : List Nat :=
  (m.mem.forces.map (·.1)).filter (fun i => m.homed i && m.mayForcePt x i)

/-- A number of the peer's to go with the module's own (log entry 2). -/
def Mod.peerCount (m : Mod) (n : Nat) : Nat := if m.get F.TWIN_STATUS_MODE = 1 ∧ !m.flag F.TWIN_STATUS_SIDE ∧ m.peerUp then m.free.toNat % (n + 1) else 0

/-- OP_PT_RELEASE (R346): Release one or all forces. -/
def execOpPtRelease (h : BitVec 10) (seq : BitVec 32) (s : State) : Out :=
  opRow s h seq 0x0104 fun m _ x ps =>
    let i := par ps 0 2
    if m.st = xStandby then m.badState
    else if i = 0xFFFF then
      let l := m.mayRelease x
      let k := m.peerCount 4096
      match m.ptStopped true l with
      | some (a, t) => m.ptBlocked a t
      | none => (l.foldl (fun m i => m.applyPt (.release i)) m.drawn, .ok (leBytes 2 (l.length + k)))
    else if 8192 ≤ i then (m, .fail 0x0002 0)
    else if m.isSafetyPt i then (m, .fail 0x0005 0x0104)
    else match m.ptGate (m.mayForcePt x) [i] with
      | some r => (m, r)
      | none =>
        match m.ptStopped true [i] with
        | some (a, t) => m.ptBlocked a t
        | none => m.peerAnswer [i] 2 (fun m =>
            if (mapGet i m.mem.forces).isSome then (m.applyPt (.release i), .ok (leBytes 2 1)) else (m, .ok (leBytes 2 0)))

/-- OP_PT_FORCES (R349): List forced points within the session's map. -/
def execOpPtForces (h : BitVec 10) (seq : BitVec 32) (s : State) : Out :=
  opRow s h seq 0x0105 fun m _ x ps =>
    let own := ((m.mem.forces.map (·.1)).filter (fun i => decide (par ps 0 2 ≤ i) && m.homed i && m.mayReadPt x i)).take 600
    let k := m.peerCount (600 - own.length)
    let m := m.drawn
    (m.drawnN (2 * k), .ok (own.flatMap (leBytes 2) ++ m.random (2 * k)))

end Sys2Proof.Machine
end

