-- ==== Sys2Proof/Machine/Planner.lean ====
section
/-! DEFINITION. Packages, plan images and the planner (R53, R56 to R63, R72 to R77): what of a plan its package gives, the header and section table
of an image, and what a plan that the planner built keeps to. -/

namespace Sys2Proof.Machine

/-! ### The image as bytes (R72, R73) -/

/-- A little-endian number at an offset. -/
def leAt (bs : List Byte) (off n : Nat) : Nat := ofLe ((bs.drop off).take n)

/-- The entries of the section table: ID, bytes of the section, and whether the entry is whole and its CRC matches (R72). -/
def imageSections (bs : List Byte) : List (Nat × List Byte × Bool) :=
  (List.range (leAt bs 6 2)).map (fun i =>
    let e := 96 + 16 * i
    let off := leAt bs (e + 4) 4
    let len := leAt bs (e + 8) 4
    let sec := (bs.drop off).take len
    (leAt bs e 2, sec, leAt bs (e + 2) 2 == 0 && sec.length == len && crc32c sec == leAt bs (e + 12) 4))

/-- A plan image that arrives with its package (R72, R73, R77): the header and section table as its bytes spell them, the digests and CRCs
recomputed, and what its sections hold. -/
def planImage (pkg img : List Byte) : Plan :=
  let flags := leAt img 20 4
  let secs := imageSections img
  { Config.imageOf img with
    magic := leAt img 0 4, format := leAt img 4 2, id := leAt img 8 4, hwType := leAt img 12 4, plannerVer := leAt img 16 4
    twoHand := bitAt flags 0, shadow := bitAt flags 1, offline := bitAt flags 2, safetyDiff := bitAt flags 3
    tilesUsed := leAt img 24 2, excluded := leAt img 26 1, pkgDigest := leAt img 32 32, digest := leAt img 64 32
    imgIds := secs.map (·.1), secBytes := secs.map (fun s => (s.1, s.2.1)), bytes := img.length, pkgBytes := pkg.length
    digestsOk := leAt img 32 32 == ofLe (bytes32 (Config.sha256 pkg)) && leAt img 64 32 == ofLe (bytes32 (Config.sha256 (img.drop 96)))
      && flags < 16 && leAt img 27 5 == 0 && secs.all (·.2.2) }

/-- A package that arrives (R53), with its digest and length. -/
def packageFrom (bs : List Byte) : Package :=
  { Config.packageOf bs with pkgDigest := ofLe (bytes32 (Config.sha256 bs)), pkgBytes := bs.length }

/-! ### What a package gives (R56) -/

/-- A point without what the planner gives it. -/
def PointDef.item (p : PointDef) : PointDef := { p with tile := 0, slot := 0, writer := none }
/-- An instance without its place. -/
def InstDef.item (i : InstDef) : InstDef := { i with tile := 0, off := 0 }

/-- The tasks of the package: without the transfer tasks and copies B that the planner generates (R143, R265). -/
def Plan.userTasks (pl : Plan) : List TaskDef := pl.tasks.filter (fun t => !t.transfer && t.safetyCopy != 2)

/-- What the TASKS and CODE sections say of a task: its class, priority hint, marks and code. -/
def Plan.taskItem (pl : Plan) (t : TaskDef) : Nat × Nat × Nat × Bool × Nat × List Nat := (t.idx, t.cls, t.hint, t.substLogic, t.safetyCopy, pl.code t)

/-- The words of the constant pool. -/
def Plan.pool (pl : Plan) : List Byte := pl.consts.flatMap (fun c => ((pl.tiles.find? (fun d => d.tile == c)).map (·.data)).getD [])

/-- A register of the image that the planner fills: regions, windows, classes, the map of tiles (R58, step 9). -/
def placedReg (a : Nat) : Bool := decide (0x10000 ≤ a) && decide (a < 0x20000)

/-- A plan has the items of a package, each as the package gives it; a package field that would place or time an item counts for nothing
(R56). -/
def sameItems (pkg : Package) (pl : Plan) : Bool :=
  pkg.pkgDigest == pl.pkgDigest && pkg.pkgBytes == pl.pkgBytes && pkg.twoHand == pl.twoHand && pkg.shadow == pl.shadow && pkg.sections == pl.sections
    && pkg.classes == pl.classes && pkg.points.map (·.item) == pl.points.map (·.item)
    && pkg.userTasks.map pkg.taskItem == pl.userTasks.map pl.taskItem && pkg.insts.map (·.item) == pl.insts.map (·.item)
    && pkg.pool == pl.pool && pkg.loops == pl.loops && pkg.meter == pl.meter && pkg.capWindow == pl.capWindow
    && pkg.remotes == pl.remotes && pkg.filters == pl.filters && pkg.rxObjs == pl.rxObjs
    && pkg.reqs.map (fun r => { r with slot := 0 }) == pl.reqs.map (fun r => { r with slot := 0 })
    && pkg.scopes == pl.scopes && pkg.safe == pl.safe && pkg.jack == pl.jack && pkg.traffic == pl.traffic && pkg.ceilings == pl.ceilings
    && pkg.regImage.filter (fun x => !placedReg x.1) == pl.regImage.filter (fun x => !placedReg x.1)

/-! ### Steps 2 and 8: freezes, bursts and launches (R58, R67, R89) -/

/-- The classes that freeze at a millisecond of the second, as a mask. -/
def Plan.maskAt (pl : Plan) (ms : Nat) : Nat :=
  (List.range pl.classes.length).foldl (fun a c => if ms % pl.classMs c = 0 then a + 2 ^ c else a) 0

/-- The freeze instants of all classes (R58, step 2): milliseconds of the second, and masks. -/
def Plan.freezes (pl : Plan) : List (Nat × Nat) :=
  ((List.range 1000).map (fun ms => (ms * 1000000, pl.maskAt ms))).filter (fun x => x.2 != 0)

/-- One FREEZE and one BURST at each freeze instant, with the mask of the classes that freeze there and the bursts numbered in order (R69, R89); one
LAUNCH in each cycle of each class at its offset. -/
def Plan.cyclesOk (pl : Plan) : Bool :=
  (pl.ofKind dkFreeze).map (fun e => (drumNs e, drumTarget e)) == pl.freezes
    && (pl.ofKind dkBurst).map (fun e => (drumNs e, drumTarget e)) == pl.freezes
    && (pl.ofKind dkBurst).map drumArg == List.range pl.freezes.length
    && (List.range pl.classes.length).all (fun c =>
      ((pl.ofKind dkLaunch).filter (fun e => drumTarget e == c)).map drumNs
        == (List.range (1000 / pl.classMs c)).map (fun j => j * pl.classPeriod c + ((pl.classes[c]?).map (·.launch)).getD 0))

/-- An item placed in an ordered list, behind its equals. -/
def insertBy {α : Type} (le : α → α → Bool) (x : α) : List α → List α
  | [] => [x]
  | y :: ys => if le y x then y :: insertBy le x ys else x :: y :: ys

/-- A list in order, equals as they stood. -/
def sortBy {α : Type} (le : α → α → Bool) (l : List α) : List α := l.foldl (fun a x => insertBy le x a) []

/-! ### Step 3: points into tiles -/

/-- The writer that groups a point: its task, the loop engine, the metrology DSP, none. -/
def PointDef.writerKey (p : PointDef) : Nat :=
  match p.writer with
  | some w => w
  | none => if p.originOf = 6 then 1000000 else if p.originOf = 5 then 1000001 else 1000002

/-- The order within a group: affinity hint, then index. -/
def pointLe (p q : PointDef) : Bool := decide (p.affinity < q.affinity) || (p.affinity == q.affinity && decide (p.idx ≤ q.idx))

/-- The points of a class and writer in order. -/
def Plan.group (pl : Plan) (cls w : Nat) : List PointDef :=
  sortBy pointLe (pl.points.filter (fun p => p.cls == cls && p.writerKey == w))

/-- Points fill tiles of 16 slots in the order of their groups, each group from a tile of its own (R58, step 3). -/
def Plan.groupsOk (pl : Plan) : Bool :=
  let keys := (pl.points.map (fun p => (p.cls, p.writerKey))).eraseDups
  let runs := keys.map (fun k => pl.group k.1 k.2)
  runs.all (fun g => (List.range g.length).all (fun i => match g[i]?, g[i - i % 16]? with
    | some p, some q => p.slot == i % 16 && p.tile == q.tile
    | _, _ => true))
    && (let heads := runs.flatMap (fun g => (List.range ((g.length + 15) / 16)).filterMap (fun k => (g[16 * k]?).map (·.tile)))
        heads.eraseDups.length == heads.length)

/-! ### Step 4: tasks to lanes (R58, R60) -/

/-- The dependences within a class: reader and writer (R60). -/
def Plan.deps (pl : Plan) : List (Nat × Nat) :=
  pl.tasks.flatMap (fun r => (pl.tasks.filter (fun w => w.cls == r.cls && w.idx != r.idx
    && ((w.safetyCopy == 2) == (r.safetyCopy == 2)) && (pl.writtenPts w).any (pl.readPts r).contains)).map (fun w => (r.idx, w.idx)))

/-- The tasks on which a task depends, directly or not, through some dependences. -/
def reach : Nat → List (Nat × Nat) → List Nat → List Nat
  | 0, _, ts => ts
  | n + 1, ds, ts => reach n ds ((ts ++ (ds.filter (fun d => ts.contains d.1)).map (·.2)).eraseDups)

/-- What a task depends on. -/
def needs (ds : List (Nat × Nat)) (t : Nat) : List Nat := reach ds.length ds ((ds.filter (fun d => d.1 == t)).map (·.2))

/-- The task of a list with the lowest priority: the highest hint, then the highest index (R60). -/
def Plan.lowest (pl : Plan) (ts : List Nat) : Option Nat :=
  let key (t : Nat) : Nat := (((pl.tasks.find? (fun d => d.idx == t)).map (·.hint)).getD 0) * 1048576 + t
  ts.foldl (fun a t => match a with | some b => if key b ≤ key t then some t else some b | none => some t) none

/-- Cycles of dependences are cut at the edges into the task with the lowest priority, until none is left (R60): what is left, and the cuts. -/
def Plan.cutCycles (pl : Plan) : Nat → List (Nat × Nat) → List (Nat × Nat) × List (Nat × Nat)
  | 0, ds => (ds, [])
  | n + 1, ds =>
    match pl.lowest (((ds.map (·.1)).eraseDups).filter (fun t => (needs ds t).contains t)) with
    | none => (ds, [])
    | some t =>
      let bad (d : Nat × Nat) : Bool := d.1 == t && (needs ds d.2).contains t
      let r := pl.cutCycles n (ds.filter (fun d => !bad d))
      (r.1, ds.filter bad ++ r.2)

/-- The dependences that stand and those that are cut. -/
def Plan.ordered (pl : Plan) : List (Nat × Nat) × List (Nat × Nat) := pl.cutCycles pl.deps.length pl.deps

/-- The points that a task reads, by its index. -/
def Plan.reads (pl : Plan) (t : Nat) : List Nat := ((pl.tasks.find? (fun d => d.idx == t)).map pl.readPts).getD []

/-- The cuts are those of R60 (a cross read is listed as a cut too, R365), and a reader's planned start follows the end of its writer, whose write-back is its last phase. -/
def Plan.depsOk (pl : Plan) : Bool :=
  let o := pl.ordered
  o.2.all pl.cuts.contains && pl.cuts.all (fun c => o.2.contains c || (pl.reads c.1).any (fun i => match (pl.pointAt i).map PointDef.bind with
      | some (.mirror _ _) => true
      | _ => false))
    && o.1.all (fun d => pl.tasks.all (fun r => r.idx != d.1 || pl.tasks.all (fun w => w.idx != d.2 || decide (w.start + w.wcet ≤ r.start))))

/-- A task whose writers of the same class have all been assigned. -/
def readyIn (ds : List (Nat × Nat)) (done : List (Nat × Nat × Nat)) (t : TaskDef) : Bool :=
  ds.all (fun d => d.1 != t.idx || done.any (fun x => x.1 == d.2))

/-- The order of choice among ready tasks: the largest worst-case time, then the priority hint, then the index. -/
def pickLe (a b : TaskDef) : Bool :=
  decide (b.wcet < a.wcet) || (a.wcet == b.wcet && (decide (a.hint < b.hint) || (a.hint == b.hint && decide (a.idx ≤ b.idx))))

/-- The lanes a task may run on (R265). -/
def TaskDef.lanes (t : TaskDef) : List Nat := if t.safetyCopy = 1 then [0, 1, 2, 3] else if t.safetyCopy = 2 then [4, 5, 6, 7] else List.range 8

/-- The lane with the lowest running finish time. -/
def bestLane (fins : List Nat) (ls : List Nat) : Nat :=
  ls.foldl (fun a l => if fins.getD l 0 < fins.getD a 0 then l else a) (ls.headD 0)

/-- The forward time of a Shadow plan, in FCLK cycles (R372): input transfer starts 1.0 µs and 0.44 µs per 256 forwarded bytes after T0. How many
bytes a value takes in a FORWARD frame is not stated; the number of blocks of a class is a free value. -/
def Plan.forwardTime (pl : Plan) (t : TaskDef) : Nat :=
  if pl.shadow && t.transfer && (instrsOf (pl.code t)).any (fun x => wOp x.2.1 == 0xF0) then 400 + 176 * Config.forwardBlocks pl.id t.cls else 0

/-- Tasks of a class assigned one at a time (R58, step 4): task, lane and planned start, with the lanes' finish times. -/
def assignTasks (fwd : TaskDef → Nat) (ds : List (Nat × Nat)) : Nat → List TaskDef → List Nat → List (Nat × Nat × Nat) → List (Nat × Nat × Nat) × List Nat
  | 0, _, fins, done => (done, fins)
  | n + 1, ts, fins, done =>
    match (sortBy pickLe (ts.filter (readyIn ds done))).head? with
    | none => (done, fins)
    | some t =>
      let l := bestLane fins t.lanes
      let after := (done.filter (fun x => ds.contains (t.idx, x.1))).foldl (fun a x => max a x.2.2) 0
      let start := max (fwd t) (max (fins.getD l 0) after)
      assignTasks fwd ds n (ts.filter (fun x => x.idx != t.idx)) (fins.set l (start + t.wcet)) (done ++ [(t.idx, l, start + t.wcet)])

/-- The classes in the order in which a burst runs them (R59). -/
def Plan.classOrder (pl : Plan) : List Nat :=
  sortBy (fun a b => decide (pl.classMs a ≤ pl.classMs b)) (List.range pl.classes.length)

/-- Every task that is not spread over bursts of a shorter class (R59) has the lane and start that step 4 gives it. -/
def Plan.lanesOk (pl : Plan) : Bool :=
  let ds := pl.ordered.1
  let out := pl.classOrder.foldl (fun (a : List (Nat × Nat × Nat) × List Nat) c =>
    let ts := pl.tasks.filter (fun t => t.cls == c && t.bursts.isEmpty)
    assignTasks pl.forwardTime ds ts.length ts a.2 a.1) ([], List.replicate 8 0)
  pl.tasks.all (fun t => !t.bursts.isEmpty || out.1.contains (t.idx, t.lane, t.start + t.wcet))

/-! ### Steps 5 to 8 -/

/-- Step 5: every tile that a task loads or writes back has its slot in each of its bursts, in the tile's bank. -/
def Plan.slotsOk (pl : Plan) : Bool :=
  (pl.ofKind dkBurst).all (fun e => pl.tasks.all (fun t => !t.runsIn (drumTarget e) (drumArg e)
    || (pl.bankSlots.filter (fun b => b.burst == drumArg e && b.task == t.idx && b.master == t.lane)).map (·.bank) == (t.tiles ++ t.stores).map (· / 1024)))

/-- Step 6: one exchange of every request in each cycle of its points' class, in a slot of (RETRY + 1) × Ta + G (R285, R286), and a WAKE_M 24 µs
before each management window (R18). -/
def Plan.pollsOk (pl : Plan) : Bool :=
  pl.reqs.all (fun r =>
    let n := match pl.reqClass r with | some c => 1000 / pl.classMs c | none => 0
    let guard := if r.port < 2 ∨ 9 ≤ r.port then 20000 else 500000
    (n == 0 || (pl.polls.filter (fun x => x.2.port == r.port && x.2.idx == r.idx)).length == n)
      && r.slot == (imgFld pl (F.FBUS_CFG_RETRY r.port) + 1) * r.attempt + guard)
    && (pl.ofKind dkMgmtWin).all (fun e => (pl.ofKind dkWakeM).any (fun x => drumNs x == (drumNs e + 1000000000 - 24000) % 1000000000))

/-- Step 7 (R63, R320): each minimum is the greater of floor and declared traffic, each ceiling the minimum and all cells that no minimum reserves, or
a lower ceiling that is declared. -/
def Plan.quotasOk (pl : Plan) : Bool :=
  let mins := (List.range 12).map (fun c => max (poolFloor c) ((mapGet c pl.traffic).getD 0))
  let free := 8192 - mins.foldl (· + ·) 0
  (List.range 12).all (fun c =>
    let lo := mins.getD c 0
    pl.quota c == (lo, max lo (min (lo + free) ((mapGet c pl.ceilings).getD 8192))))

/-- The DOMAIN entries (R470): PD4 and PD5 only; an off entry once PLL-F has stopped, an on entry at the instant of a WAKE_F, at least off time, 50 µs
and on time (59 µs) after the off entry before it. -/
def Plan.domainsOk (pl : Plan) : Bool :=
  let ds := pl.ofKind dkDomain
  let before (es : List (BitVec 64)) (s : Nat) : Option Nat := (es.flatMap (fun x => cyclic (drumNs x)) |>.filter (fun x => decide (x ≤ s + 1000000000))).max?
  ds.all (fun e =>
    let s := drumNs e
    (drumTarget e == 4 || drumTarget e == 5)
      && (if drumArg e = 0 then
            (match before (pl.ofKind dkStopF) s, before (pl.ofKind dkWakeF) s with
             | some a, some b => decide (b < a)
             | some _, none => true
             | none, _ => false)
          else
            (pl.ofKind dkWakeF).any (fun x => drumNs x == s)
              && (match before (ds.filter (fun x => drumTarget x == drumTarget e && drumArg x == 0)) s with
                  | some a => decide (a + 59000 ≤ s + 1000000000)
                  | none => true)))

/-- A plan that the planner built from a package with a firmware version and suspect banks (R56 to R63, R72): its items are the package's, its header
says what it was built from, each step of R58 and R470 has been kept, and the image is the one that R57 fixes for these three. FLAGS bit 3 tells whether the
safety content differs from that of the plan it replaces. -/
def planned (pkg : Package) (ver suspects : Nat) (old : Option Plan) (pl : Plan) : Bool :=
  sameItems pkg pl && pl.plannerVer == ver && pl.excluded == suspects && !pl.offline && pl.digestsOk
    && pl.digest == Config.planDigest pkg.pkgDigest ver suspects
    && (match old with | some o => pl.safetyDiff == (o.safetyCrc != pl.safetyCrc) | none => true)
    && pl.tilesUsed == (pl.tiles.filter (fun d => d.kind != .free)).length
    && pl.cyclesOk && pl.groupsOk && pl.depsOk && pl.lanesOk && pl.slotsOk && pl.pollsOk && pl.domainsOk && pl.quotasOk

end Sys2Proof.Machine
end

