-- ==== Sys2Proof/Machine/Start.lean ====
section
/-! DEFINITION. How a plan comes to run: the plan in the active slot at start (R75, R107), and soft restarts (R113, R120). -/

namespace Sys2Proof.Machine

/-- The slot that holds the candidate. -/
def Mod.candSlot (m : Mod) : Option Plan := if m.flag F.PLAN_STATUS_ACTIVE_SLOT then m.plan.slots[0] else m.plan.slots[1]

/-- A plan stored in the active slot, or in the other one. -/
def Mod.putSlot (m : Mod) (active : Bool) (pl : Option Plan) : Mod :=
  { m with plan := { m.plan with slots :=
      (if m.flag F.PLAN_STATUS_ACTIVE_SLOT == active then m.plan.slots.set 1 pl else m.plan.slots.set 0 pl) } }

/-- The package of the plan store beside a slot's plan (R74). -/
def Mod.putPkg (m : Mod) (active : Bool) (p : Option Package) : Mod :=
  { m with plan := { m.plan with pkgs :=
      (if m.flag F.PLAN_STATUS_ACTIVE_SLOT == active then m.plan.pkgs.set 1 p else m.plan.pkgs.set 0 p) } }

/-- Suspect banks as a mask. -/
def Mod.suspects (m : Mod) : Nat := m.get F.TILE_STATUS_SUSPECT

/-- A stored plan may be used without planning (R75). -/
def Mod.planUsable (m : Mod) (pl : Plan) : Bool :=
  decide (pl.plannerVer = m.get F.KEY_FW_VER_VERSION) && decide (pl.excluded = m.suspects) && (pl.verify m.sysId).isNone

/-- A module of a pair that does not match its peer stays in BIT without a plan (R21, R358). -/
def Mod.noPair (m : Mod) : Bool :=
  m.flag F.TWIN_STATUS_CLASH || (m.flag F.TWIN_STATUS_MISMATCH && m.flag F.TWIN_STATUS_SIDE)

/-- In BIT without a plan, the plan in the active slot is to be loaded with a restart type, after planning where R75 asks for it
(R107); without a stored package the module stays in BIT. -/
def Mod.startBegin (m : Mod) (type : Nat) : Mod :=
  if m.noPair then m
  else match m.activeSlot with
    | none => m
    | some pl =>
      let m := { m with exec := { m.exec with startType := some type } }
      if m.planUsable pl then m else (m.goto xPlanning).set F.PLAN_STATUS_PROGRESS 0

/-! ### Plans stored and rejected (R74, R76) -/

/-- A plan that fails a check of R76: PLAN_ERROR and EV_PLAN_REJECTED. -/
def Mod.planReject (m : Mod) (check detail : Nat) : Mod :=
  ((m.set F.PLAN_ERROR_CHECK check).set F.PLAN_ERROR_DETAIL detail).log .planRejected 0 []

/-- The tiles a candidate needs FREE under R78: those it uses that the active plan does not hold with the same kind and writer. -/
def Mod.tilesNeeded (m : Mod) (pl : Plan) : Nat :=
  match m.plan.active with
  | none => pl.tilesUsed
  | some old => (pl.tiles.filter (fun t => t.kind != .free && !old.tiles.any (fun u => u.tile == t.tile && u.kind == t.kind && u.writer == t.writer))).length

/-- A verified plan stored with its package as the candidate (R74, R76). -/
def Mod.storeCand (m : Mod) (pkg : Package) (pl : Plan) : Mod :=
  let m := ((m.putSlot false (some pl)).putPkg false (some pkg)).set F.PLAN_STATUS_STATE 3
  ((m.set F.PLAN_STATUS_PROGRESS 100).set F.PLAN_CAND_ID_ID pl.id).set F.PLAN_FREE_TILES_NEEDED (m.tilesNeeded pl)

/-- What a soft restart of cause `c` has in common: RUN or another state left for BIT, what waited cancelled. -/
def Mod.restartBit (m : Mod) (c : Nat) : Mod :=
  let m := (m.cancelSwap.leaveRun).enterBit
  let m := m.set F.EXEC_STATE_CAUSE c
  { m with exec := { m.exec with autoAt := none, restartDue := none, serviceSession := none, startType := none, waitRestart := none, waitPeer := false }
           outs := m.outs.map (fun (u : OutSt) => { u with test := none }) }

/-- A soft restart (R113, R120) of cause `c` and type 0 WARM, 1 COLD, 2 HOLD_BIT, with the plan that is loaded; where none is, with the
plan in the active slot (R75). -/
def Mod.softRestart (m : Mod) (c type : Nat) : Mod :=
  let m := m.restartBit c
  if type = 2 then m.set F.EXEC_STATE_RESTART 3
  else match m.plan.active with
    | some pl => m.loadPlan pl (type == 0)
    | none => m.startBegin type

/-- The plan that is loaded is given up (R113: HOLD_BIT with another plan in the active slot). -/
def Mod.unload (m : Mod) : Mod :=
  { m with plan := { m.plan with active := none, drumA := [], drumB := [] }, exec := { m.exec with safeCopy := none }
           regs := fldSet m.regs F.EXEC_STATE_NOPLAN 1 }

/-- A candidate activated by restart (R78, R113): its slot becomes the active one, and its record is written (R86). A module whose pair cannot form stays
in BIT without a plan (R21). -/
def Mod.planRestart (m : Mod) (pl : Plan) (type : Nat) : Mod :=
  let m := m.restartBit 7
  let slot := !m.flag F.PLAN_STATUS_ACTIVE_SLOT
  let m := (((m.setB F.PLAN_STATUS_ACTIVE_SLOT slot).set F.PLAN_STATUS_STATE 0).set F.PLAN_CAND_ID_ID 0).paramPut keyActive (leBytes 1 (b2n slot))
  if type = 2 then m.unload.set F.EXEC_STATE_RESTART 3
  else if m.noPair then m.unload
  else m.loadPlan pl (type == 0)

/-- A soft restart begins, or waits for the TCXO (R475); cause 7 takes the candidate. -/
def Mod.beginRestart (m : Mod) (c type : Nat) : Mod :=
  if m.pwr.tcxoBad then { m with exec := { m.exec with waitRestart := some (c, type) } }
  else if c = 7 then (match m.candSlot with | some pl => m.planRestart pl type | none => m)
  else m.softRestart c type

end Sys2Proof.Machine
end

