-- ==== Sys2Proof/Machine/OpPlan.lean ====
section
/-! DEFINITION. Package, plan and bit-program commands (R72 to R85, R110, R146, R343, R347, R349, R371). -/

namespace Sys2Proof.Machine

/-! ### Transfers in blocks (R347) -/

/-- Bytes stored at an offset; what they cover is overwritten. -/
def Xfer.put (x : Xfer) (off : Nat) (bs : List Byte) : Xfer :=
  { x with got := ((List.range bs.length).zip bs).foldl (fun l e => mapPut (off + e.1) e.2 l) x.got }

/-- The first offset from `k` on that a list of bytes in order of offset does not hold. -/
def gapFrom : Nat → List (Nat × Byte) → Nat
  | k, [] => k
  | k, (a, _) :: t => if a = k then gapFrom (k + 1) t else k

/-- The first missing offset. -/
def Xfer.gap (x : Xfer) : Option Nat := if gapFrom 0 x.got < x.len then some (gapFrom 0 x.got) else none
def Xfer.bytes (x : Xfer) : List Byte := x.got.map (·.2)

/-- A block of a transfer: stored, or refused with its offset. -/
def xferBlock (x : Option Xfer) (off : Nat) (bs : List Byte) : Option Xfer :=
  x.bind (fun x => if off + bs.length ≤ x.len then some (x.put off bs) else none)

/-! ### Packages -/

/-- In Shadow mode only the holder takes packages, activations, OP_STATE_STOP and OP_STATE_RESTART (R371). -/
def Mod.notHolder (m : Mod) : Bool := m.get F.TWIN_STATUS_MODE == 2 && !m.flag F.TWIN_STATUS_HOLDS_BAR

/-- A build, a verification or an armed swap is in progress (R351). -/
def Mod.planBusy (m : Mod) : Bool := let x := m.get F.PLAN_STATUS_STATE; x == 1 || x == 2 || x == 4

def Mod.setPkg (m : Mod) (x : Option Xfer) : Mod := { m with orpor := { m.orpor with pkg := x } }

/-- OP_PKG_BEGIN (R347): Begin a package transfer. -/
def execOpPkgBegin (h : BitVec 10) (seq : BitVec 32) (s : State) : Out :=
  opRow s h seq 0x0200 fun m _ _ ps =>
    if m.notHolder then m.badState
    else if m.planBusy then (m, .fail 0x0024 (m.word R.PLAN_STATUS).toNat)
    else (m.setPkg (some { len := par ps 0 4 + par ps 4 4, imgLen := par ps 4 4, digest := ps.drop 8 }), .ok [])

/-- OP_PKG_BLOCK (R347): Store one block of a package transfer. -/
def execOpPkgBlock (h : BitVec 10) (seq : BitVec 32) (s : State) : Out :=
  opRow s h seq 0x0201 fun m _ _ ps =>
    if m.notHolder then m.badState
    else match xferBlock m.orpor.pkg (par ps 0 4) (ps.drop 4) with
      | some x => (m.setPkg (some x), .ok [])
      | none => (m, .fail 0x0020 (par ps 0 4))

/-- OP_PKG_END (R347): planning of the package starts, or the verification of an offline image; a package replaces a stored candidate. -/
def execOpPkgEnd (h : BitVec 10) (seq : BitVec 32) (s : State) : Out :=
  opRow s h seq 0x0202 fun m _ _ _ =>
    if m.notHolder then m.badState
    else match m.orpor.pkg with
      | none => (m, .fail 0x0020 0)
      | some x => match x.gap with
        | some g => (m, .fail 0x0020 g)
        | none =>
          if bytes32 (Config.sha256 x.bytes) ≠ x.digest then (m, .fail 0x0021 0)
          else
            let bs := x.bytes
            let pkg := bs.take (x.len - x.imgLen)
            let m := ((m.setPkg none).putSlot false none).putPkg false none
            let m := { m with plan := { m.plan with
              sent := some (packageFrom pkg), image := if x.imgLen = 0 then none else some (planImage pkg (bs.drop (x.len - x.imgLen))) } }
            let m := (m.set F.PLAN_STATUS_STATE (if x.imgLen = 0 then 1 else 2)).set F.PLAN_STATUS_PROGRESS 0
            (m.set F.PLAN_CAND_ID_ID 0, .ok [])

/-! ### Plans -/

/-- The status that refuses an act of kinds 1 to 4 of a session (R278, R280). -/
def Mod.actRefused (m : Mod) (k : Nat) : Option Res :=
  if !m.isUnlocked k then some (.fail 0x0030 0)
  else if m.logs.changeFull then some (.fail 0x0033 m.logs.unread)
  else none

/-- A safety command extends the session's window (R280). -/
def Mod.safeTouch (m : Mod) (k : Nat) : Mod :=
  match m.sess k with
  | some x => m.setSess k { x with safeAt := m.optime }
  | none => m

/-- The second of a swap (R81): the one named, or the first whole second at least 2 s from now. -/
def Mod.swapSecond (m : Mod) (named : Nat) : Nat :=
  if named = 0 then (m.clk.ns + 2999999999) / 1000000000 else named

/-- An activation's change record (R80, R277). -/
def Mod.planAct (m : Mod) (k : Nat) (pl : Plan) : Mod :=
  m.when pl.safetyDiff (fun m => (m.change 1 k (m.get F.SAFE_CRC_CRC) pl.safetyCrc).safeTouch k)

/-- A swap armed (R81): the candidate's Drum stands in the inactive bank. -/
def Mod.armSwap (m : Mod) (k : Nat) (pl : Plan) (sec : Nat) : Mod :=
  let old := m.get F.SAFE_CRC_CRC
  let m := (m.planAct k pl).putDrum (!m.flag F.DRUM_STATUS_BANK) pl.drum
  let m := { m with plan := { m.plan with
    armed := some sec, deferred := 0, newDone := false, migrated := false, armSafe := if pl.safetyDiff then some (k, old, pl.safetyCrc) else none }
                    twin := { m.twin with confirmed := none } }
  (m.set F.PLAN_STATUS_STATE 4).set F.PLAN_SWAP_SEC_SEC sec

/-- Why an activation with rights and a candidate is refused in MODE 0 (R78, R81). DESIGN CHOICE (log entry 122): beside CHECK 0x80 PLAN_ERROR.DETAIL, for
which R78 names no item, reads 0. -/
def Mod.armRefused (m : Mod) (pl : Plan) (named : Nat) : Option (Mod × Res) :=
  match m.plan.active with
  | none => some m.badState
  | some old =>
    if m.st ≠ xRun then some m.badState
    else if !onlineOk old pl then
      some ((m.set F.PLAN_ERROR_CHECK 0x80).set F.PLAN_ERROR_DETAIL 0, .fail 0x0022 (m.word R.PLAN_FREE_TILES).toNat)
    else if named ≠ 0 ∧ named * 1000000000 < m.clk.ns + 1000000000 then some (m, .fail 0x0002 4)
    else none

/-- OP_PLAN_ACTIVATE (R78): Arm the candidate for an online swap or activate it by restart. -/
def execOpPlanActivate (h : BitVec 10) (seq : BitVec 32) (s : State) : Out :=
  opRow s h seq 0x0203 fun m k x ps =>
    if m.notHolder then m.badState
    else if m.planBusy then (m, .fail 0x0024 (m.word R.PLAN_STATUS).toNat)
    else match m.cand with
      | none => (m, .fail 0x0023 0)
      | some pl =>
        let mode := par ps 0 1
        if 1 < mode then (m, .fail 0x0002 0)
        else if pl.safetyDiff != (x.role == .safety) then (m, .fail 0x0005 0x0203)
        else match (if pl.safetyDiff then m.actRefused k else none) with
          | some r => (m, r)
          | none =>
            if mode = 0 then
              match m.armRefused pl (par ps 4 8) with
              | some r => r
              | none =>
                let sec := m.swapSecond (par ps 4 8)
                (m.armSwap k pl sec, .ok (leBytes 8 sec))
            else if m.st = xRun ∨ m.st = xStopped ∨ m.inBit then
              ((m.planAct k pl).beginRestart 7 (m.policy 7), .ok (leBytes 8 0))
            else m.badState

/-- OP_PLAN_CANCEL (R349): the candidate stays stored; PLAN_STATUS.CANCELLED is for R84 and R85. -/
def execOpPlanCancel (h : BitVec 10) (seq : BitVec 32) (s : State) : Out :=
  opRow s h seq 0x0204 fun m _ _ _ =>
    if m.plan.armed.isSome then (m.cancelSwap.setB F.PLAN_STATUS_CANCELLED (m.flag F.PLAN_STATUS_CANCELLED), .ok [])
    else if m.cand.isSome then (m, .ok [])
    else (m, .fail 0x0023 0)

/-- OP_PLAN_READ (R349): Read bytes of a plan section. -/
def execOpPlanRead (h : BitVec 10) (seq : BitVec 32) (s : State) : Out :=
  opRow s h seq 0x0205 fun m _ _ ps =>
    let sec := par ps 2 2
    if 1 < par ps 0 1 then (m, .fail 0x0002 0)
    else if sec = 0 ∨ 16 < sec then (m, .fail 0x0002 2)
    else if 1024 < par ps 8 2 then (m, .fail 0x0002 8)
    else match (if par ps 0 1 = 1 then m.cand else m.plan.active.or m.activeSlot) with
      | none => if par ps 0 1 = 1 then (m, .fail 0x0023 0) else m.badState
      | some pl => (m, .ok ((((mapGet sec pl.secBytes).getD []).drop (par ps 4 4)).take (par ps 8 2)))

/-! ### The bit program -/

/-- The stored record. -/
def Mod.bitprog (m : Mod) : List Byte := (m.paramGet keyBitprog).getD []

/-- A complete record (R110, R146, R526): checked, and stored where the session may store it. -/
def Mod.bitprogStore (m : Mod) (k seq : Nat) (x : Sess) (bs : List Byte) : Mod × Res :=
  let so := recField bs 12 1 != 0
  if x.role = .safety ∧ !so then (m, .fail 0x0005 0x0206)
  else match bitRecCheck bs with
    | some w => (m, .fail 0x0025 w)
    | none =>
      if !so then (m.paramPut keyBitprog bs (some (k, seq)), .hold [])
      else if x.role ≠ .safety then (m, .fail 0x0005 0x0206)
      else match m.actRefused k with
        | some r => (m, r)
        | none =>
          let crc (l : List Byte) : Nat := ofLe (l.drop (l.length - 4))
          let m := (m.change 2 k (crc m.bitprog) (crc bs)).safeTouch k
          (m.paramPut keyBitprog bs (some (k, seq)), .hold [])

/-- OP_BITPROG_LOAD (R146): a block of another TOTAL begins a new transfer; the block with the last byte ends it. -/
def execOpBitprogLoad (h : BitVec 10) (seq : BitVec 32) (s : State) : Out :=
  opRow s h seq 0x0206 fun m k x ps =>
    let total := par ps 0 4
    let off := par ps 4 4
    let bs := ps.drop 8
    let t : Xfer := match m.orpor.bitp with
      | some t => if t.len = total then t else { len := total }
      | none => { len := total }
    if total = 0 ∨ 8244 < total then (m, .fail 0x0002 0)
    else match xferBlock (some t) off bs with
      | none => ({ m with orpor := { m.orpor with bitp := some t } }, .fail 0x0020 off)
      | some t =>
        let m := { m with orpor := { m.orpor with bitp := some t } }
        match t.gap with
        | none => ({ m with orpor := { m.orpor with bitp := none } }).bitprogStore k seq.toNat x t.bytes
        | some g => if off + bs.length = total then (m, .fail 0x0020 g) else (m, .ok [])

/-- OP_BITPROG_READ (R349): Read bytes of the BITPROG record. -/
def execOpBitprogRead (h : BitVec 10) (seq : BitVec 32) (s : State) : Out :=
  opRow s h seq 0x0207 fun m _ _ ps =>
    if 1024 < par ps 4 2 then (m, .fail 0x0002 4)
    else (m, .ok ((m.bitprog.drop (par ps 0 4)).take (par ps 4 2)))

end Sys2Proof.Machine
end

