-- ==== Sys2Proof/Machine/OpUpdate.lean ====
section
/-! DEFINITION. Firmware updates and keys (R436 to R458, R462). -/

namespace Sys2Proof.Machine

/-! ### Firmware packages (R448 to R458) -/

def Mod.setUpd (m : Mod) (x : Option Xfer) : Mod := { m with orpor := { m.orpor with upd := x } }

/-- The first sector of a bank in the device (R386). -/
def bankSector (i : Fin 2) : Nat := if i = 0 then 0 else 0x01000000 / 4096

/-- The sectors that OP_UPD_BEGIN erases: the header's and the package area's, or in RECOVERY the whole bank (R451, R458). -/
def Mod.updErase (m : Mod) (i : Fin 2) : List FlashJob :=
  (if m.st = xRecovery then List.range 4096 else 0 :: (List.range 1024).map (3072 + ·)).map (fun k => .erase (bankSector i + k))

/-- OP_UPD_BEGIN (R451): the target bank's header is erased with all that stands in its sector; RECOVERY takes the length of a bank. -/
def execOpUpdBegin (h : BitVec 10) (seq : BitVec 32) (s : State) : Out :=
  opRow s h seq 0x0800 fun m _ _ ps =>
    let len := par ps 0 4
    if (if m.st = xRecovery then 12582912 else 4194304) < len then (m, .fail 0x0002 0)
    else
      let m := { m with key := { m.key with target := m.recoveryBank, activating := false } }
      let i := m.updBank
      let m := (m.bankMap i (fun _ => {})).setUpd (some { len := len, digest := ps.drop 4 })
      let m := { m with nvm := { m.nvm with jobs := m.nvm.jobs ++ m.updErase i } }
      (((m.set F.KEY_FW_STATUS_STAGE 1).set F.KEY_FW_STATUS_PROGRESS 0).otherShow, .ok [])

/-- OP_UPD_BLOCK (R347): each page of the block is programmed, and the reply follows the read-back. -/
def execOpUpdBlock (h : BitVec 10) (seq : BitVec 32) (s : State) : Out :=
  opRow s h seq 0x0801 fun m k _ ps =>
    let off := par ps 0 4
    let bs := ps.drop 4
    match (if m.get F.KEY_FW_STATUS_STAGE = 1 then xferBlock m.orpor.upd off bs else none) with
    | none => (m, .fail 0x0020 off)
    | some x =>
      let pages := if bs.isEmpty then 0 else (off + bs.length - 1) / 256 - off / 256 + 1
      let m := { m with nvm := { m.nvm with jobs := m.nvm.jobs ++ List.replicate pages (FlashJob.data (k, seq.toNat)) } }
      ((m.setUpd (some x)).set F.KEY_FW_STATUS_PROGRESS (x.got.length * 100 / max 1 x.len), .hold [])

/-- OP_UPD_END (R452): End the firmware transfer and start checking and rebuilding. -/
def execOpUpdEnd (h : BitVec 10) (seq : BitVec 32) (s : State) : Out :=
  opRow s h seq 0x0802 fun m _ _ _ =>
    match (if m.get F.KEY_FW_STATUS_STAGE = 1 then m.orpor.upd else none) with
    | none => (m, .fail 0x0020 0)
    | some x => match x.gap with
      | some g => (m, .fail 0x0020 g)
      | none =>
        if bytes32 (Config.sha256 x.bytes) ≠ x.digest then (m, .fail 0x0021 0)
        else if m.st = xRecovery ∧ hdrFormat x.bytes = 2 then (m, .fail 0x0002 0)
        else ((m.set F.KEY_FW_STATUS_STAGE 2).set F.KEY_FW_STATUS_PROGRESS 0, .ok [])

/-- UPD_VERIFY_COMPLETE (R452): the steps in order; the image, verified, stands in its bank without an ACTIVATE page. -/
def execUpdVerifyComplete (pages header : Bool) (s : State) : Out :=
  onMod s fun m =>
    match (if m.get F.KEY_FW_STATUS_STAGE = 2 then m.orpor.upd else none) with
    | none => m
    | some x =>
      let i := m.updBank
      let p := x.bytes
      let m := m.setUpd none
      match m.updCheck p pages header with
      | .inl (step, res) =>
        ((m.set F.KEY_FW_STATUS_STAGE 6).set F.KEY_FW_STATUS_RESULT res).log .updRejected i.val (leBytes 1 step ++ leBytes 2 res)
      | .inr img =>
        let m := m.bankMap i (fun _ => { valid := true, header := p.take 320, image := img })
        let m := ((m.set F.KEY_FW_STATUS_STAGE 4).set F.KEY_FW_STATUS_PROGRESS 100).otherShow
        m.log .updVerified i.val (leBytes 4 (hdrVersion p))

/-- OP_UPD_ACTIVATE (R453): with a twin mode in force both sides must hold the verified package. -/
def execOpUpdActivate (h : BitVec 10) (seq : BitVec 32) (s : State) : Out :=
  opRow s h seq 0x0803 fun m _ _ _ =>
    if m.get F.KEY_FW_STATUS_STAGE ≠ 4 ∨ (m.get F.TWIN_STATUS_MODE ≠ 0 ∧ !m.key.peerVerified) then (m, .fail 0x0063 0)
    else (m.actStart, .ok [])

/-- UPD_ACTIVATION (R453): after the wait: the ACTIVATE page is programmed with the next ACT_SEQ, and a hard restart with cause FW_ACTIVATE follows. -/
def execUpdActivation (s : State) : Out :=
  onMod s fun m =>
    if !m.key.activating || !m.actDue then m
    else
      let i := m.updBank
      let act := (m.key.banks[otherBank i].act).getD 0 + 1
      let v := m.bankVersion i
      let m := m.bankMap i (fun b => { b with act := some act })
      let m := m.log .updActivated i.val (leBytes 4 v ++ leBytes 4 act)
      let m := m.when (m.st == xRecovery) (fun m => m.log .recoveryImage i.val (leBytes 4 v ++ leBytes 1 i.val))
      m.hardRestart 5

/-- OP_UPD_STATUS (R462): Return the update stage, progress, bank and result. -/
def execOpUpdStatus (h : BitVec 10) (seq : BitVec 32) (s : State) : Out :=
  opRow s h seq 0x0804 fun m _ _ _ =>
    (m, .ok (leBytes 1 (m.get F.KEY_FW_STATUS_STAGE) ++ leBytes 1 (m.get F.KEY_FW_STATUS_PROGRESS) ++ leBytes 1 m.updBank.val ++ leBytes 1 0
      ++ leBytes 2 (m.get F.KEY_FW_STATUS_RESULT) ++ leBytes 2 0))

/-- FW_CONFIRM (R455): after 60 s of operation without a hard restart, with a bit cycle run or a plan loaded, the CONFIRM page of an image on trial is programmed. -/
def execFwConfirm (s : State) : Out :=
  onMod s fun m =>
    let i := m.runBank
    let b := m.key.banks[i]
    if decide (xBit ≤ m.st) && !b.confirmed && m.key.proven && decide (m.key.bootAt + 60000 ≤ m.optime) then
      let m := ({ m with key := { m.key with tried := false } }).bankMap i (fun b => { b with confirmed := true })
      let m := (m.set F.KEY_FW_STATUS_CONFIRMED 1).when (m.get F.KEY_FW_STATUS_STAGE == 7) (fun m => m.set F.KEY_FW_STATUS_STAGE 0)
      m.log .fwConfirmed i.val (leBytes 4 (m.bankVersion i) ++ leBytes 1 b.attempts)
    else m

/-! ### Keys (R436 to R445, R462) -/

/-- A session may replace the key of a slot (R438). -/
def mayReplace (x : Sess) (i : Nat) : Bool :=
  decide (i < 6) && (x.role == .service || decide (i < 2)) && (i != 3 || (x.transport == 2 && !x.viaB))

/-- The lengths that a slot allows (R438). -/
def keyLenOk (i len : Nat) : Bool := len == 32 || (decide (i < 4) && len == 16)

/-- The key staged in a slot. -/
def Mod.stagedOf (m : Mod) (i : Nat) : Option Staged := if h : i < 8 then m.key.slots[(⟨i, h⟩ : Fin 8)].staged else none

/-- A slot's staging half. -/
def Mod.setStaged (m : Mod) (i : Nat) (g : Option Staged) : Mod :=
  let k : Fin 8 := Fin.ofNat 8 i
  ({ m with key := { m.key with slots := m.key.slots.set k { m.key.slots[k] with staged := g } } }).keyShow

/-- OP_KEY_STAGE (R442): Stage a key in a slot. -/
def execOpKeyStage (h : BitVec 10) (seq : BitVec 32) (s : State) : Out :=
  opRow s h seq 0x0900 fun m k x ps =>
    let i := par ps 0 1
    let len := par ps 1 1
    if !mayReplace x i ∨ m.key.slots[(Fin.ofNat 8 i : Fin 8)].gen = 0xFFFF then (m, .fail 0x0052 i)
    else if !keyLenOk i len then (m, .fail 0x0002 1)
    else
      let r := m.random len
      let m := (m.drawnN len).setStaged i (some { a := xorBytes (ps.drop 4) r, b := r, at_ := m.optime })
      (m.log .keyStage i (leBytes 2 k), .ok [])

/-- OP_KEY_VERIFY (R443): Return an HMAC over a challenge with the staged key and set VERIFIED. -/
def execOpKeyVerify (h : BitVec 10) (seq : BitVec 32) (s : State) : Out :=
  opRow s h seq 0x0901 fun m _ _ ps =>
    let i := par ps 0 1
    match m.stagedOf i with
    | none => (m, .fail 0x0050 i)
    | some g => (m.setStaged i (some { g with verified := true }), .ok ((bytes32 (Config.hmac g.value (ps.drop 4))).take 16))

/-- OP_KEY_COMMIT (R444): the old key stays in force until the record has passed its read-back. -/
def execOpKeyCommit (h : BitVec 10) (seq : BitVec 32) (s : State) : Out :=
  opRow s h seq 0x0902 fun m k x ps =>
    let i := par ps 0 1
    match m.stagedOf i with
    | none => (m, .fail 0x0050 i)
    | some g =>
      if !mayReplace x i then (m, .fail 0x0052 i)
      else if !g.verified then (m, .fail 0x0051 i)
      else
        let m := { m with key := { m.key with commits := m.key.commits ++ [(i, k, g)] } }
        (m.paramPut keySet m.keyRecordOf (some (k, seq.toNat)), .hold [])

/-- OP_KEY_DISCARD (R445): Discard the staged key. -/
def execOpKeyDiscard (h : BitVec 10) (seq : BitVec 32) (s : State) : Out :=
  opRow s h seq 0x0903 fun m _ _ ps =>
    let i := par ps 0 1
    if (m.stagedOf i).isNone then (m, .fail 0x0050 i) else (m.setStaged i none, .ok [])

/-- STATE of a slot in OP_KEY_LIST (R462). -/
def Mod.slotState (m : Mod) (i : Nat) : Nat :=
  if h : i < 6 then
    let k := m.key.slots[(⟨i, by omega⟩ : Fin 8)]
    match k.staged with
    | some g => if g.verified then 3 else 2
    | none => if k.key.isSome then 1 else 0
  else 4

/-- OP_KEY_LIST (R462): List slot states, kinds and generations. -/
def execOpKeyList (h : BitVec 10) (seq : BitVec 32) (s : State) : Out :=
  opRow s h seq 0x0904 fun m _ _ _ =>
    (m, .ok ((List.range 32).flatMap (fun i =>
      leBytes 1 (m.slotState i) ++ leBytes 1 (slotKind i) ++ leBytes 2 (if h : i < 8 then m.key.slots[(⟨i, h⟩ : Fin 8)].gen else 0))))

/-- Both shares of a key under a fresh mask. -/
def remask (r : List Byte) (s : List Byte × List Byte) : List Byte × List Byte := (xorBytes s.1 r, xorBytes s.2 r)

/-- KEY_REMASK_PASS (R441): every slot in turn, and every staged key, takes a fresh random value into both shares; the keys stay as they are. -/
def execKeyRemaskPass (s : State) : Out :=
  onMod s fun m =>
    if !m.isOn (swPd 1) then m
    else
      let m := (List.finRange 8).foldl (fun (m : Mod) (i : Fin 8) =>
        let k := m.key.slots[i]
        let r := m.random 32
        let q := (m.drawnN 32).random 32
        let k' := { k with
          key := k.key.map (remask r)
          staged := k.staged.map (fun g => { g with a := xorBytes g.a q, b := xorBytes g.b q }) }
        ({ m with key := { m.key with slots := m.key.slots.set i k' } }).drawnN 64) m
      m.addWrap F.KEY_REMASK_COUNT 1

/-- STAGED_KEY_EXPIRY (R445): 3,600 s of operating time after it was staged. -/
def execStagedKeyExpiry (i : Fin 8) (s : State) : Out :=
  onMod s fun m =>
    match m.stagedOf i.val with
    | some g => if g.at_ + 3600000 ≤ m.optime then m.setStaged i.val none else m
    | none => m

/-- LIFECYCLE_ADVANCE (R436): one state forward; from PRODUCTION with a token signed by a key of slot 4 or 5 and bound to this unit, and then no production key is used again: the role roots and K_store are those of the test root (R436, R437, R438). -/
def execLifecycleAdvance (signer sig unit : List (BitVec 8)) (s : State) : Out :=
  onMod s fun m =>
    let print := bytes32 (Config.sha256 signer)
    let token := (m.keyOf 4 == some print || m.keyOf 5 == some print) && unit == unitBytes && Config.ecdsaOk signer (Config.sha256 unit) sig
    if m.key.life = 0 ∨ m.key.life = 1 then { m with key := { m.key with life := m.key.life + 1 } }
    else if m.key.life = 2 ∧ token then ({ m with key := { m.key with life := 3 } }).testKeys.keyShow
    else m

end Sys2Proof.Machine
end

