-- ==== Sys2Proof/Machine/OpSafety.lean ====
section
/-! DEFINITION. Safety commands and state commands (R107, R108, R113, R272, R277 to R281, R447, R502). -/

namespace Sys2Proof.Machine

/-! ### The safety password (R279, R280, R447) -/

/-- Bytes are UTF-8: `need` bytes of a character still follow, the next in the range `lo` to `hi`. -/
def utf8From : List Byte → Nat → Nat → Nat → Bool
  | [], need, _, _ => need == 0
  | b :: t, 0, _, _ =>
    let v := b.toNat
    if v < 0x80 then utf8From t 0 0 0
    else if v < 0xC2 then false
    else if v < 0xE0 then utf8From t 1 0x80 0xBF
    else if v < 0xF0 then utf8From t 2 (if v = 0xE0 then 0xA0 else 0x80) (if v = 0xED then 0x9F else 0xBF)
    else if v < 0xF5 then utf8From t 3 (if v = 0xF0 then 0x90 else 0x80) (if v = 0xF4 then 0x8F else 0xBF)
    else false
  | b :: t, n + 1, lo, hi => decide (lo ≤ b.toNat) && decide (b.toNat ≤ hi) && utf8From t n 0x80 0xBF

/-- A password may be set (R279). -/
def pwOk (pw : List Byte) : Bool := decide (8 ≤ pw.length) && decide (pw.length ≤ 64) && utf8From pw 0 0 0

/-- A wrong password (R280): counted across sessions; the fifth in a row blocks unlocking for 900 s. -/
def Mod.pwWrong (m : Mod) : Mod :=
  let n := m.safe.fails + 1
  let m := ({ m with safe := { m.safe with fails := min 5 n } }).log .safePwFail 0 []
  m.when (decide (5 ≤ n) && !m.safe.blocked) (fun m => { m with safe := { m.safe with blocked := true, blockUntil := m.optime + 900000 } })

/-- The password is the one in slot 6; with none set every offer is wrong. -/
def Mod.pwRight (m : Mod) (pw : List Byte) : Bool := m.keyOf 6 == some (m.pwVerifier pw)

/-- OP_SAFE_UNLOCK (R280): Open a safety unlock window with the password. -/
def execOpSafeUnlock (h : BitVec 10) (seq : BitVec 32) (s : State) : Out :=
  opRow s h seq 0x0A00 fun m k x ps =>
    let len := par ps 0 1
    if len < 8 ∨ 64 < len then (m, .fail 0x0002 0)
    else if m.safe.blocked then (m, .fail 0x0032 m.blockLeft)
    else if m.pwRight (ps.drop 1) then
      let m := { m with safe := { m.safe with fails := 0 } }
      (m.setSess k { x with unlocked := true, safeAt := m.optime }, .ok (leBytes 2 300))
    else (m.pwWrong, .fail 0x0031 m.pwWrong.safe.fails)

/-- OP_SAFE_LOCK (R280): Close the safety unlock window. -/
def execOpSafeLock (h : BitVec 10) (seq : BitVec 32) (s : State) : Out :=
  opRow s h seq 0x0A01 fun m k x _ => (m.setSess k { x with unlocked := false }, .ok [])

/-- OP_SAFE_PW_SET (R279): the first password needs no window and no old one; the reply follows the record's read-back. -/
def execOpSafePwSet (h : BitVec 10) (seq : BitVec 32) (s : State) : Out :=
  opRow s h seq 0x0A02 fun m k _ ps =>
    let o := par ps 0 1
    let new := ps.drop (2 + o)
    let old := (ps.drop 1).take o
    let set := (m.keyOf 6).isSome
    if !pwOk new then (m, .fail 0x0002 (1 + o))
    else match (if set then m.actRefused k else if m.logs.changeFull then some (.fail 0x0033 m.logs.unread) else none) with
      | some r => (m, r)
      | none =>
        let right := !set || m.pwRight old
        let m := (m.changeAct 4 k 0 0 right).safeTouch k
        if right then (m.paramPut keySafePw (m.pwVerifier new) (some (k, seq.toNat)), .hold [])
        else (m.pwWrong, .fail 0x0031 m.pwWrong.safe.fails)

/-- OP_SAFE_PW_CLEAR (R279): Remove the safety password over the local host port. -/
def execOpSafePwClear (h : BitVec 10) (seq : BitVec 32) (s : State) : Out :=
  opRow s h seq 0x0A03 fun m k x _ =>
    if x.transport ≠ 2 ∨ x.viaB then (m, .fail 0x0007 2)
    else if m.st ≠ xStopped then m.badState
    else ((m.change 4 k 0 0).paramDel keySafePw (some (k, seq.toNat)), .hold [])

/-! ### Acknowledgement, test and change log (R272, R278, R281) -/

/-- The latch of a pair cleared (R272): the request is withdrawn, and the channels stay off to the next launch. -/
def Mod.ackPair (m : Mod) (p : Fin 4) : Mod :=
  let off (m : Mod) (chB : Bool) : Mod :=
    (m.dropSafe (soOut p chB) 4).outMap (soOut p chB) (fun u => { u with launched := some .off })
  let m := off (off m false) true
  let m := { m with safe := { m.safe with
    latch := m.safe.latch.set p none
    rbDev := (m.safe.rbDev.set (soCh p false) none).set (soCh p true) none } }
  let m := ((m.set (F.SAFE_SO_STATUS_FAULT p.val) 0).set (F.SAFE_SO_STATUS_CAUSE p.val) 0).set (F.SAFE_SO_STATUS_CHANNEL p.val) 0
  m.setB F.SAFE_STATUS_SO_FAULT (m.safe.latch.toList.any (·.isSome))

/-- OP_SAFE_ACK (R272): `on`: a channel of the pair has read on within the last second. -/
def execOpSafeAck (h : BitVec 10) (seq : BitVec 32) (on : Bool) (s : State) : Out :=
  opRow s h seq 0x0A04 fun m k _ ps =>
    if hp : par ps 0 1 < 4 then
      let p : Fin 4 := ⟨par ps 0 1, hp⟩
      let held := m.safe.latch[p].isSome
      let m := (m.changeAct 5 k p.val p.val (held && !on)).safeTouch k
      if !held then (m, .ok [])
      else if on then (m, .fail 0x0034 p.val)
      else (m.ackPair p, .ok [])
    else (m, .fail 0x0002 0)

/-- OP_SAFE_TEST (R281): the channels that failed: an SO channel that reads on with its driver held off, an SI channel whose comparators fail their check. -/
def execOpSafeTest (h : BitVec 10) (seq : BitVec 32) (badA badB : Bool) (s : State) : Out :=
  opRow s h seq 0x0A05 fun m k _ ps =>
    let t := par ps 0 1
    let m := m.safeTouch k
    if 11 < t then (m, .fail 0x0002 0)
    else if m.st ≠ xService then m.badState
    else
      let cause : Nat := if t < 8 then 0 else 1
      let res (b : Bool) : List Byte := leBytes 1 (b2n b) ++ leBytes 1 (if b then cause else 0)
      let fault (m : Mod) (chB : Bool) : Mod :=
        if t < 8 then
          let i : Fin 8 := Fin.ofNat 8 t
          let m := m.set (F.SAFE_SI_STATUS_AWAIT_DEMAND t) 1
          (((m.set (F.SAFE_SI_STATUS_TEST_FAULT t) 1).siClear i).siShow i).log .siTest t (leBytes 1 (b2n chB))
        else (m.seen (Fin.ofNat 4 (t - 8)) chB true).pairFault (Fin.ofNat 4 (t - 8)) 1 chB
      ((m.when badA (fun m => fault m false)).when badB (fun m => fault m true), .ok (res badA ++ res badB))

/-- OP_SAFE_LOG_ACK (R278): Confirm change-log records up to UPTO. -/
def execOpSafeLogAck (h : BitVec 10) (seq : BitVec 32) (s : State) : Out :=
  opRow s h seq 0x0A06 fun m k _ ps =>
    let top := m.logs.last 4
    let m := ({ m with logs := { m.logs with acked := max m.logs.acked (min (par ps 0 4) top) } }).safeTouch k
    (m, .ok (leBytes 2 m.logs.unread))

/-! ### State commands (R107, R108, R113) -/

/-- What ends a pending auto-restart (R119). -/
def Mod.noAuto (m : Mod) : Mod := { m with exec := { m.exec with autoAt := none } }

/-- OP_STATE_STOP (R108): Stop RUN and enter STOPPED. -/
def execOpStateStop (h : BitVec 10) (seq : BitVec 32) (s : State) : Out :=
  opRow s h seq 0x0B00 fun m _ _ _ =>
    if m.st ≠ xRun ∨ m.notHolder then m.badState else (m.abortTests.enterStopped, .ok [])

/-- OP_STATE_RESTART (R113): POLICY takes the field of cause AUTO. -/
def execOpStateRestart (h : BitVec 10) (seq : BitVec 32) (s : State) : Out :=
  opRow s h seq 0x0B01 fun m _ _ ps =>
    let t := par ps 0 1
    if !(m.st == xRun || m.st == xStopped || m.st == xBit) ∨ m.notHolder then m.badState
    else if 2 < t then (m, .fail 0x0002 0)
    else (m.noAuto.beginRestart 3 (if t = 2 then m.policy 4 else t), .ok [])

/-- OP_STATE_BIT (R108): Enter BIT from STOPPED. -/
def execOpStateBit (h : BitVec 10) (seq : BitVec 32) (s : State) : Out :=
  opRow s h seq 0x0B02 fun m _ _ _ =>
    if m.st ≠ xStopped then m.badState else (m.noAuto.enterBit, .ok [])

/-- OP_STATE_SERVICE (R108): Enter SERVICE from STOPPED. -/
def execOpStateService (h : BitVec 10) (seq : BitVec 32) (s : State) : Out :=
  opRow s h seq 0x0B03 fun m k _ _ =>
    if m.st ≠ xStopped then m.badState
    else
      let m := m.noAuto
      (({ m with exec := { m.exec with serviceSession := some k } }).goto xService, .ok [])

/-- OP_STATE_RELEASE (R107): Leave SERVICE for STOPPED. -/
def execOpStateRelease (h : BitVec 10) (seq : BitVec 32) (s : State) : Out :=
  opRow s h seq 0x0B04 fun m _ _ _ => if m.st ≠ xService then m.badState else (m.leaveService, .ok [])

/-- Registers shown to a session, in order, without the effect of a read. -/
def Mod.showRegs (m : Mod) (x : Sess) (l : List Nat) : List Byte := l.flatMap (fun a => leBytes 4 (m.peek x a).toNat)

/-- OP_STATE_GET (R349): Return EXEC_STATE, TIME_STATUS and SAFE_STATUS. -/
def execOpStateGet (h : BitVec 10) (seq : BitVec 32) (s : State) : Out :=
  opRow s h seq 0x0B05 fun m _ x _ => (m, .ok (m.showRegs x [R.EXEC_STATE, R.TIME_STATUS, R.SAFE_STATUS]))

/-- OP_PWR_STATUS (R502): the words from 0x000 to 0x03C, then five words of each domain. -/
def execOpPwrStatus (h : BitVec 10) (seq : BitVec 32) (s : State) : Out :=
  opRow s h seq 0x0B06 fun m _ x _ =>
    (m, .ok (m.showRegs x ((List.range 16).map (fun i => 0x1000 + 4 * i)
      ++ (List.range 15).flatMap (fun d => (List.range 5).map (fun i => 0x1100 + 0x20 * d + 4 * i)))))

end Sys2Proof.Machine
end

