-- ==== Sys2Proof/Machine/OpUnit.lean ====
section
/-! DEFINITION. Twin, bus and diagnostic commands (R109, R348 to R350, R376, R383, R384). -/

namespace Sys2Proof.Machine

/-! ### The pair (R383, R384) -/

/-- OP_TWIN_STATUS (R384): every TWIN register but TWIN_CFG, in offset order. -/
def execOpTwinStatus (h : BitVec 10) (seq : BitVec 32) (s : State) : Out :=
  opRow s h seq 0x0C00 fun m _ x _ =>
    (m, .ok (m.showRegs x [R.TWIN_STATUS, R.TWIN_LINK, R.TWIN_BAR, R.TWIN_TIME, R.TWIN_SWAP, R.TWIN_MIRROR, R.TWIN_COUNTS]))

/-- The first whole second at least 2 s from now (R81, R383). -/
def Mod.twoSecondsOn (m : Mod) : Nat := (m.clk.ns + 2999999999) / 1000000000

/-- OP_TWIN_SWAP (R383): Request a planned handover of the bar to the standby. -/
def execOpTwinSwap (h : BitVec 10) (seq : BitVec 32) (s : State) : Out :=
  opRow s h seq 0x0C01 fun m _ _ _ =>
    if m.get F.TWIN_STATUS_MODE ≠ 2 then (m.set F.TWIN_SWAP_LAST 2, .fail 0x0080 0)
    else if !m.flag F.TWIN_STATUS_HOLDS_BAR || !m.twin.peerReady then (m.set F.TWIN_SWAP_LAST 2).badState
    else ({ m with twin := { m.twin with swapAt := some m.twoSecondsOn } }, .ok [])

/-! ### Pass-through (R288, R348) -/

def Mod.setPass (m : Mod) (l : List PassX) : Mod := { m with ports := { m.ports with pass := l } }

/-- An exchange's result is no longer held: 60 s after its end, or after 16 newer handles of its session. -/
def passExpired (now : Nat) (l : List PassX) (x : PassX) : Bool :=
  (x.result.isSome && decide (x.doneAt + 60000 ≤ now)) || decide (16 ≤ (l.filter (fun y => y.session == x.session && decide (x.handle < y.handle))).length)

/-- OP_BUS_XFER (R348): port codes 0 to 18, and 32 to 39 for the modems, which reserve no window. -/
def execOpBusXfer (h : BitVec 10) (seq : BitVec 32) (s : State) : Out :=
  opRow s h seq 0x0D00 fun m k _ ps =>
    let p := par ps 0 1
    if !(decide (p < 19) || (decide (32 ≤ p) && decide (p < 40))) then (m, .fail 0x0002 0)
    else if 1024 < par ps 8 2 then (m, .fail 0x0002 8)
    else if p < 19 ∧ m.get (F.FBUS_CFG_PASS p) = 0 then (m, .fail 0x0040 p)
    else
      let n := m.ports.handle
      let x : PassX := { handle := n, session := k, port := p, station := par ps 2 2, data := ps.drop 10 }
      let m := { m with ports := { m.ports with handle := n + 1 } }
      let l := m.ports.pass ++ [x]
      (m.setPass (l.filter (fun y => y.result.isNone || !passExpired m.optime l y)), .ok (leBytes 2 n))

/-- OP_BUS_RESULT (R348): Return a pass-through exchange's result. -/
def execOpBusResult (h : BitVec 10) (seq : BitVec 32) (s : State) : Out :=
  opRow s h seq 0x0D01 fun m k _ ps =>
    let n := par ps 0 2
    match (m.ports.pass.filter (fun x => x.handle % 65536 == n && x.session == k)).getLast? with
    | none => (m, .fail 0x0042 n)
    | some x =>
      if passExpired m.optime m.ports.pass x then (m, .fail 0x0042 n)
      else match x.result with
        | none => (m, .fail 0x0041 n)
        | some none => (m, .ok (leBytes 2 0x0043 ++ leBytes 2 0))
        | some (some d) => (m, .ok (leBytes 2 0 ++ leBytes 2 d.length ++ d))

/-- The items of a receive stream: characters of a modem, or frames of a CAN port with their length in a byte before them. -/
def Mod.stream (m : Mod) (p : Nat) : Option (List (List Byte)) :=
  if h : p < 19 then
    if m.get (F.FBUS_CFG_PROTO p) = prCan then some ((m.ports.port[(⟨p, h⟩ : Fin 19)].passRx).map (fun f => leBytes 1 f.length ++ f)) else none
  else if h : 32 ≤ p ∧ p < 40 then some ((m.fio.lt[(⟨p - 32, by omega⟩ : Fin 8)].rx).map (fun c => [c]))
  else none

/-- As many whole items as fit into a number of bytes. -/
def fitItems : Nat → List (List Byte) → List (List Byte)
  | _, [] => []
  | n, i :: t => if i.length ≤ n then i :: fitItems (n - i.length) t else []

/-- OP_BUS_RECV (R348): by absolute index; a stream keeps what it holds. -/
def execOpBusRecv (h : BitVec 10) (seq : BitVec 32) (s : State) : Out :=
  opRow s h seq 0x0D02 fun m _ _ ps =>
    let count := par ps 2 2
    let from_ := par ps 4 4
    match m.stream (par ps 0 1) with
    | none => (m, .fail 0x0002 0)
    | some l =>
      if 1024 < count then (m, .fail 0x0002 2)
      else
        let items := fitItems count (l.drop from_)
        (m, .ok (leBytes 4 (min from_ l.length + items.length) ++ leBytes 4 0 ++ items.flatten))

/-! ### Diagnostics (R109, R349, R350) -/

/-- The output of a code of OP_DIAG_OUTPUT: DO, AO or LT. -/
def diagOut (c : Nat) : Option (Fin 48) :=
  if h : c < 24 then some ⟨c, by omega⟩
  else if h : 32 ≤ c ∧ c < 40 then some ⟨c - 8, by omega⟩
  else if h : 48 ≤ c ∧ c < 56 then some ⟨c - 8, by omega⟩
  else none

/-- Test values are set in SERVICE, by the session that entered it. -/
def Mod.serves (m : Mod) (k : Nat) : Bool := m.st == xService && m.exec.serviceSession == some k

/-- OP_DIAG_OUTPUT (R109): Drive a DO, AO or LT output to a test value in SERVICE. -/
def execOpDiagOutput (h : BitVec 10) (seq : BitVec 32) (s : State) : Out :=
  opRow s h seq 0x0E00 fun m k _ ps =>
    match diagOut (par ps 0 1) with
    | none => (m, .fail 0x0002 0)
    | some o =>
      let v := par ps 4 4
      let kind := outKind o.val
      if !m.serves k || (m.peerHolds && kind != .lt) then m.badState
      else if kind = .do_ ∧ 1 < v then (m, .fail 0x0002 4)
      else if kind = .ao ∧ m.get (F.FIO_AO_CFG_MODE (o.val - 24)) = 0 then (m, .fail 0x0002 0)
      else
        let t : OutVal := if kind = .do_ then (if v = 1 then .on else .off) else .value (BitVec.ofNat 32 v)
        (m.outMap o (fun u => { u with test := some t }), .ok [])

/-- OP_DIAG_RELEASE (R109): Release one or all test values. -/
def execOpDiagRelease (h : BitVec 10) (seq : BitVec 32) (s : State) : Out :=
  opRow s h seq 0x0E01 fun m k _ ps =>
    let c := par ps 0 1
    if c ≠ 0xFF ∧ (diagOut c).isNone then (m, .fail 0x0002 0)
    else if !m.serves k then m.badState
    else match diagOut c with
      | some o => (m.outMap o (fun u => { u with test := none }), .ok [])
      | none => ({ m with outs := m.outs.map (fun (u : OutSt) => { u with test := none }) }, .ok [])

/-- OP_DIAG_BANKTEST (R349): Start a test of a tile bank. -/
def execOpDiagBanktest (h : BitVec 10) (seq : BitVec 32) (s : State) : Out :=
  opRow s h seq 0x0E02 fun m _ _ ps =>
    let b := par ps 0 1
    if 7 < b then (m, .fail 0x0002 0)
    else if m.st ≠ xStopped ∧ m.st ≠ xService then m.badState
    else ({ m with mem := { m.mem with testing := b :: m.mem.testing.filter (· != b) } }, .ok [])

/-- BANK_TEST_COMPLETE (R349): each tile that failed counts as a fault of the bank. -/
def execBankTestComplete (b : Fin 8) (bad : BitVec 11) (s : State) : Out :=
  onMod s fun m =>
    if m.mem.testing.contains b.val then
      let m := { m with mem := { m.mem with testing := m.mem.testing.filter (· != b.val) } }
      ((List.range bad.toNat).foldl (fun m _ => m.bankFault b) m).log .bankTest b.val []
    else m

/-- The registers with counters of a block, blocks in the order of R495. -/
def counterRegs (b : Nat) : Option (List Nat) :=
  match b with
  | 0 => some []
  | 1 => some (R.PWR_SAVE :: (List.range 15).flatMap (fun d => [R.PWR_DOMAIN_ONS d, R.PWR_DOMAIN_FAULTS d, R.PWR_DOMAIN_ON_MS d]))
  | 2 => some [R.CLK_FAULTS]
  | 3 => some [R.RTC_SYNC]
  | 4 => some [R.KEY_REMASK]
  | 5 => some [R.NVM_PWRCYC, R.NVM_MARGIN, R.NVM_EVENTS]
  | 6 => some [R.LOG_AREA_COUNTS]
  | 7 => some [R.PLAN_SWAPS]
  | 8 => some [R.EXEC_OVR_COUNT, R.EXEC_RESTARTS]
  | 9 => some ([R.TILE_FAULTS, R.TILE_DIR_ECC, R.TILE_DISCARDS] ++ (List.range 8).map R.TILE_BANK ++ [R.TILE_RV_STATUS])
  | 10 => some []
  | 11 => some ((List.range 96).map R.MET_STATUS_I ++ (List.range 102).map R.MET_CAL ++ [R.MET_JOURNAL])
  | 12 => some ((List.range 48).map R.FIO_DI_STATUS ++ (List.range 16).map R.FIO_AI_STATUS ++ [R.FIO_CNT_JOURNAL])
  | 13 => some (R.SAFE_MISMATCH :: (List.range 4).map R.SAFE_SO_STATUS)
  | 14 => some ((List.range 8).map R.LTX_STATUS)
  | 15 => some ((List.range 19).flatMap (fun p => [R.FBUS_EXCH p, R.FBUS_FAILS p, R.FBUS_RETRIES p, R.FBUS_RXERR p, R.FBUS_DROPS p]))
  | 16 => some ((List.range 2).flatMap (fun u =>
      [R.UPL_RX_FRAMES u, R.UPL_TX_FRAMES u, R.UPL_RX_DROP u, R.UPL_PAUSE_RX u, R.UPL_FRAG_ERR u, R.UPL_SHIFTS u]) ++ [R.FPOOL_DROP])
  | 17 => some [R.TIME_EVENTS]
  | 18 => some [R.TWIN_LINK, R.TWIN_BAR, R.TWIN_SWAP, R.TWIN_COUNTS]
  | 19 => some [R.SESS_AUTH_FAIL, R.SESS_BAD, R.SESS_REFUSED]
  | _ => none

/-- OP_DIAG_COUNTERS (R350): Read a block's counters without clearing RC fields. -/
def execOpDiagCounters (h : BitVec 10) (seq : BitVec 32) (s : State) : Out :=
  opRow s h seq 0x0E03 fun m _ x ps =>
    match counterRegs (par ps 0 1) with
    | none => (m, .fail 0x0002 0)
    | some l => (m, .ok (m.showRegs x l))

/-- OP_DIAG_ECHO (R349): Echo the data. -/
def execOpDiagEcho (h : BitVec 10) (seq : BitVec 32) (s : State) : Out :=
  opRow s h seq 0x0E04 fun m _ _ ps => (m, .ok ps)

end Sys2Proof.Machine
end

