-- ==== Sys2Proof/Machine/Twin.lean ====
section
/-! DEFINITION. The String link and the twin modes (R354 to R385, R480, R521). -/

namespace Sys2Proof.Machine

/-! ### Frames (R355, R356) -/

/-- The link can carry frames: PD13 is powered and PLL-N has lock (R354, R474). -/
def Mod.linkReady (m : Mod) : Bool := m.isOn (swPd 13) && m.isOn swPllN && !bitAt m.pwr.unlocked 3

/-- A SEQ is newer than the last one taken. -/
def Mod.newSeq (m : Mod) (q : Nat) : Bool :=
  match m.twin.seqRx with
  | none => true
  | some r => let d := (q + 2 ^ 32 - r) % 2 ^ 32; d != 0 && decide (d < 2 ^ 31)

/-- A valid frame on a lane; with `grid` it is the TIME frame of that 125 µs instant (R355). -/
def LaneSt.seen (l : LaneSt) (now : Nat) (grid : Option Nat) : LaneSt :=
  match grid with
  | none => { l with lastAt := some now }
  | some g => { lastAt := some now, grid := g, run := if g = l.grid + 1 then l.run + 1 else if g = l.grid then max 1 l.run else 1 }

/-- The lanes on which a frame passed its check. -/
def Mod.lanesSeen (m : Mod) (lanes : BitVec 2) (grid : Option Nat) : Mod :=
  { m with twin := { m.twin with lanes := Vector.ofFn (fun k : Fin 2 =>
      if lanes.getLsbD k.val then m.twin.lanes[k].seen m.clk.mono grid else m.twin.lanes[k]) } }

/-- A frame from the peer, with the lanes whose copy passes the check: one that fails on both is counted, a second copy discarded (R355, R356). -/
def onFrame (s : State) (seq : BitVec 32) (lanes : BitVec 2) (grid : Option Nat) (f : Mod → Mod) : Out :=
  onMod s fun m =>
    if !m.linkReady then m
    else if lanes = 0 then m.addSat F.TWIN_COUNTS_FRAME_ERR 1
    else
      let m := m.lanesSeen lanes grid
      if !m.newSeq seq.toNat then m else f { m with twin := { m.twin with seqRx := some seq.toNat } }

/-- A frame sent takes the next SEQ. -/
def Mod.frameOut (m : Mod) : Mod := { m with twin := { m.twin with seqTx := m.twin.seqTx + 1 } }

/-- 500 µs (12,500 TCXO cycles) without a valid frame on a lane (R355). -/
def Mod.laneSilent (m : Mod) (k : Fin 2) : Bool :=
  match m.twin.lanes[k].lastAt with
  | some t => decide (t + 12500 ≤ m.clk.mono)
  | none => true

def Mod.sideB (m : Mod) : Bool := m.flag F.TWIN_STATUS_SIDE

/-- Side A, armed, goes on to RUN (R480). -/
def Mod.waitEnd (m : Mod) : Mod :=
  m.when (m.exec.waitPeer && !m.sideB) (fun m => { m with exec := { m.exec with waitPeer := false, restartDue := some (m.clk.ns + 250000) } })

/-- A follower that has lost its master enters HOLDOVER (R360). -/
def Mod.unfollow (m : Mod) : Mod :=
  m.when m.twin.follower (fun m => ({ m with twin := { m.twin with follower := false } }).setSync syHold (m.get F.TIME_STATUS_SOURCE))

/-- Out of step: the standby stops its bursts and rejoins (R373). -/
def Mod.stepLost (m : Mod) : Mod :=
  m.when (m.st == xStandby && m.flag F.TWIN_STATUS_IN_STEP) (fun m => (m.log .twinStepLost 0 []).rejoin.haltLanes)

/-- STRING_LANE_UP (R355): after TIME frames at 8 consecutive grid instants; the first lane brings the link up, and the sides exchange their data anew (R358). -/
def execStringLaneUp (lane : Fin 2) (s : State) : Out :=
  onMod s fun m =>
    if !m.linkReady || decide (m.twin.lanes[lane].run < 8) || m.laneSilent lane then m
    else
      let m := if lane = 0 then m.set F.TWIN_LINK_LANE0 1 else m.set F.TWIN_LINK_LANE1 1
      if m.flag F.TWIN_STATUS_LINK_UP then m
      else (({ m with twin := { m.twin with seqRx := none, paired := false } }).set F.TWIN_STATUS_LINK_UP 1).frameOut

/-- The link goes down (R355, R360, R366, R373, R381). -/
def Mod.linkDown (m : Mod) : Mod :=
  let m := (m.set F.TWIN_STATUS_LINK_UP 0).addSat F.TWIN_LINK_DOWNS 1
  let m := { m with twin := { m.twin with paired := false, peerSince := none, peerReady := false } }
  m.splitEnter.stepLost.unfollow

/-- STRING_LANE_DOWN (R355): 500 µs without a valid frame; with both lanes down the link is down. -/
def execStringLaneDown (lane : Fin 2) (s : State) : Out :=
  onMod s fun m =>
    if !m.flag (if lane = 0 then F.TWIN_LINK_LANE0 else F.TWIN_LINK_LANE1) || !m.laneSilent lane then m
    else
      let m := (m.set (if lane = 0 then F.TWIN_LINK_LANE0 else F.TWIN_LINK_LANE1) 0).log .twinLane lane.val []
      if m.flag F.TWIN_LINK_LANE0 || m.flag F.TWIN_LINK_LANE1 then m else m.linkDown

/-- SPLIT_END (R366): the link is up and the peer has been in RUN with the same plan through one whole hyperperiod; side B closes its sessions (R368). -/
def execSplitEnd (s : State) : Out :=
  onMod s fun m =>
    let whole := match m.twin.peerSince with
      | some t => decide ((t + 999999999) / 1000000000 * 1000000000 + 1000000000 ≤ m.clk.ns)
      | none => false
    if m.flag F.TWIN_STATUS_SPLIT && m.flag F.TWIN_STATUS_LINK_UP && !m.flag F.TWIN_STATUS_MISMATCH && whole then
      let m := m.set F.TWIN_STATUS_SPLIT 0
      if m.sideB then m.closeAll else m
    else m

/-! ### Time across the link (R360) -/

/-- TWIN_TIME_SEND (R360): A TIME frame leaves each side at every 125 µs grid instant. -/
def execTwinTimeSend (s : State) : Out :=
  onMod s fun m => if m.linkReady && m.clk.run then m.frameOut else m

/-- A TIME_STATUS word shows LOCKED or EXTERNAL on sources of its own: a follower's by its qualified sources. -/
def ownLock (w : Nat) (follower : Bool) : Bool :=
  if follower then bits w F.TIME_STATUS_QUAL_A.lo 1 + bits w F.TIME_STATUS_QUAL_B.lo 1 + bits w F.TIME_STATUS_QUAL_PPS.lo 1 != 0
  else let x := bits w F.TIME_STATUS_STATE.lo F.TIME_STATUS_STATE.width; x == syLocked || x == syExt

/-- The former follower, now master, goes back to its own sources. -/
def Mod.ownTime (m : Mod) : Mod :=
  if !m.twin.follower then m
  else
    let m := { m with twin := { m.twin with follower := false } }
    match m.ownSrc with
    | some y =>
      let m := ({ m with clk := { m.clk with selected := some y } }).masterShow y
      if near100 (m.src y).offset then m.setSync (lockState y) (srcCode y) else m.setSync syAcq (srcCode y)
    | none => if ownLock (m.word R.TIME_STATUS).toNat false then m.setSync syHold (m.get F.TIME_STATUS_SOURCE) else m

/-- The follower steers to the master's time and reports its state and source. -/
def Mod.followPeer (m : Mod) (off : Int) (w : Nat) : Mod :=
  let m := { m with twin := { m.twin with follower := true }, clk := { m.clk with selected := none } }
  let m := (m.set F.TIME_OFFSET_OFFSET (offField off)).steer off
  let m := m.setB F.TIME_STATUS_SLEWING (!near100 off)
  let m := m.when (decide (32000000 < off.natAbs)) (fun m => m.wantStep off)
  m.setSync (bits w F.TIME_STATUS_STATE.lo F.TIME_STATUS_STATE.width) (bits w F.TIME_STATUS_SOURCE.lo F.TIME_STATUS_SOURCE.width)

/-- TWIN_TIME_RX (R360): send instant, one-way delay and receipt in ns, and the peer's three registers. -/
def execTwinTimeRx (seq : BitVec 32) (lanes : BitVec 2) (sent : Nat) (delay : Nat) (rx : Nat) (tstat : BitVec 32) (exec : BitVec 32) (plan : BitVec 32) (s : State) : Out :=
  onFrame s seq lanes (some (sent / 125000)) fun m =>
    let off : Int := (sent : Int) + delay - rx
    let peer := bits exec.toNat F.EXEC_STATE_STATE.lo F.EXEC_STATE_STATE.width
    let m := (m.set F.TWIN_TIME_OFFSET (ofInt 16 (satInt 16 off))).set F.TWIN_STATUS_PEER_STATE peer
    let same := peer == xRun && plan.toNat == m.get F.PLAN_ACTIVE_ID_ID
    let m := { m with twin := { m.twin with peerSince := if same then m.twin.peerSince.or (some m.clk.ns) else none } }
    let m := m.when (peer != xRun) Mod.splitEnter
    if !m.flag F.TWIN_STATUS_LINK_UP then m
    else
      let own := ownLock (m.word R.TIME_STATUS).toNat m.twin.follower
      let other := ownLock tstat.toNat (m.flag F.TWIN_TIME_MASTER)
      let masterA := (if m.sideB then other else own) || !(if m.sideB then own else other)
      let mine := masterA != m.sideB
      let m := m.setB F.TWIN_TIME_MASTER mine
      if mine then m.ownTime else m.followPeer (32 * off) tstat.toNat

/-! ### Pair formation and what the sides agree (R21, R358, R359, R370, R371, R480) -/

/-- A module of a pair that cannot form stays in BIT without a plan. -/
def Mod.noPlan (m : Mod) : Mod :=
  if m.inBit then
    let m := if m.st == xPlanning then m.enterBit else m
    ({ m with exec := { m.exec with restartDue := none, waitPeer := false, startType := none } }).unload
  else m

/-- The active package has a TWIN section. -/
def Mod.twinPackage (m : Mod) : Bool :=
  match m.plan.active.or m.activeSlot with
  | some pl => pl.twoHand || pl.shadow
  | none => false

/-- The peer's data (R358). -/
def Mod.pairInfo (m : Mod) (major : Nat) (fw : BitVec 32) (peerB : Bool) : Mod :=
  if peerB == m.sideB then
    (if m.twinPackage && !m.flag F.TWIN_STATUS_CLASH then ((m.set F.TWIN_STATUS_CLASH 1).log .twinSideClash 0 []).noPlan else m)
  else if major ≠ 2 ∨ fw.toNat ≠ m.get F.KEY_FW_VER_VERSION then
    let m := m.when (!m.flag F.TWIN_STATUS_MISMATCH) (fun m => (m.set F.TWIN_STATUS_MISMATCH 1).log .twinMismatch 0 [])
    if m.sideB then m.noPlan else m.splitEnter.waitEnd
  else (({ m with twin := { m.twin with paired := true } }).set F.TWIN_STATUS_MISMATCH 0).waitEnd

/-- A plan image from the peer, verified and stored (R359): the candidate where a plan is loaded, else the plan to start with. -/
def Mod.planFromPeer (m : Mod) (pl : Plan) : Mod :=
  if m.flag F.TWIN_STATUS_HOLDS_BAR || (!m.sideB && m.get F.TWIN_STATUS_MODE != 2) then m
  else match pl.verify m.sysId with
    | some (c, d) => m.planReject c d
    | none => if m.planLoaded then m.storeCand pl pl else ((m.putSlot true (some pl)).putPkg true (some pl)).startBegin (m.policy (m.get F.EXEC_STATE_CAUSE))

/-- A state command that the other side carries out on both (R370, R371). -/
def Mod.peerCommand (m : Mod) (op arg : Nat) : Mod :=
  let two := m.get F.TWIN_STATUS_MODE == 1
  match op with
  | 0x0B00 => if m.running then m.abortTests.enterStopped else m
  | 0x0B01 => if m.running || m.st == xStopped || m.st == xBit then m.noAuto.beginRestart 3 (if arg = 2 then m.policy 4 else arg) else m
  | 0x0B02 => if two && m.st == xStopped then m.noAuto.enterBit else m
  | 0x0B03 => if two && m.st == xStopped then m.noAuto.goto xService else m
  | 0x0B04 => if two then m.leaveService else m
  | _ => m

/-- The peer has armed a swap: this side arms its candidate for the same second and confirms it (R84, R370, R371). -/
def Mod.peerArm (m : Mod) (sec : Nat) : Mod :=
  match m.cand with
  | some pl =>
    if m.running && m.plan.active.isSome && m.plan.armed.isNone then
      let m := m.armSwap 0 pl sec
      ({ m with twin := { m.twin with confirmed := some sec } }).frameOut
    else m
  | none => m

/-- CONTROL_FRAME_RX (R359): A CONTROL frame carries pair formation, swap confirmation, state commands or plan transfers. -/
def execControlFrameRx (seq : BitVec 32) (lanes : BitVec 2) (k : CtlKind) (s : State) : Out :=
  onFrame s seq lanes none fun m =>
    let m := m.coreWake
    match k with
    | .info major fw sideB => m.pairInfo major fw sideB
    | .start sec =>
      if m.sideB && m.exec.waitPeer then { m with exec := { m.exec with waitPeer := false, restartDue := some (sec * 1000000000) } } else m
    | .plan pl => m.planFromPeer pl
    | .arm sec => m.peerArm sec
    | .confirm sec => { m with twin := { m.twin with confirmed := some sec } }
    | .command op arg => m.peerCommand op arg
    | .verified => { m with key := { m.key with peerVerified := true } }
    | .activate =>
      if m.get F.KEY_FW_STATUS_STAGE = 4 then m.actStart else m
    | .ready on => { m with twin := { m.twin with peerReady := on } }
    | .handover sec => if m.st == xStandby then { m with twin := { m.twin with swapAt := some sec } } else m

/-- SIDE_B_WAIT_TIMEOUT (R480): 2 s (50,000,000 TCXO cycles) after arming: side A enters RUN alone. -/
def execSideBWaitTimeout (s : State) : Out :=
  onMod s fun m => m.when (decide (m.exec.waitAt + 50000000 ≤ m.clk.mono)) Mod.waitEnd

/-! ### Two-hand mode (R363, R367) -/

/-- The own tiles that hold mirrored points of an owner's tile. -/
def Mod.mirrorHomes (m : Mod) (t : Nat) : List Nat :=
  (m.points.filterMap (fun p => match p.bind with | .mirror x _ => if x = t then some p.tile else none | _ => none)).eraseDups

/-- A mirrored tile received. DESIGN CHOICE (log entry 112): the String link must be allowed to write the MIRROR tiles that it is for; else the
write is dropped and its points are missing at the next freeze (R44). -/
def Mod.mirrorWrite (m : Mod) (t : Nat) (bytes : List Byte) : Mod :=
  match (m.mirrorHomes t).find? (fun h => !m.regionOk 11 2 (h * 256)) with
  | some h => let m := m.regionViolation 11 2 (h * 256); { m with twin := { m.twin with mir := mapDel t m.twin.mir } }
  | none => { m with twin := { m.twin with mir := mapPut t (m.clk.ns, bytes) m.twin.mir } }

/-- MIRROR_FRAME_RX (R363): a newer copy replaces an older one; the receive buffer holds 512 tiles. -/
def execMirrorFrameRx (seq : BitVec 32) (lanes : BitVec 2) (tile : Fin 8192) (bytes : List Byte) (crc : BitVec 32) (s : State) : Out :=
  onFrame s seq lanes none fun m =>
    if tileCrc tile.val bytes ≠ crc.toNat ∨ bytes.length ≠ 256 then m.addSat F.TWIN_COUNTS_FRAME_ERR 1
    else if m.get F.TWIN_STATUS_MODE ≠ 1 then m
    else if (mapGet tile.val m.twin.mir).isNone ∧ 512 ≤ m.twin.mir.length then m
    else m.mirrorWrite tile.val bytes

/-- ORPOR_FRAME_RX (R367): on side A a packet that waits in TWIN, on side B a reply that leaves by the transport of its request. -/
def execOrporFrameRx (seq : BitVec 32) (lanes : BitVec 2) (via : Fin 3) (packet : List Byte) (s : State) : Out :=
  onFrame s seq lanes none fun m =>
    if m.get F.TWIN_STATUS_MODE ≠ 1 ∨ m.flag F.TWIN_STATUS_SPLIT then m
    else if !m.sideB then (m.poolPut { ch := 11, cells := cellsOf packet.length, packet := some packet, via := via.val }).1.coreWake
    else if via = 2 then (m.poolPut { ch := 8, cells := cellsOf packet.length, raw := some packet }).1
    else
      let ch := 4 * via.val + (if bitAt ((packet.getD 5 0).toNat) 1 then 2 else 3)
      let o := m.poolPut { ch := ch, cells := cellsOf (packet.length + m.overhead via.val), raw := some packet }
      if m.flag (F.UPL_STATUS_LINK via.val) || !o.2 then o.1 else o.1.poolLose (fun f => f.ch == ch)

/-! ### Shadow mode (R371 to R373, R379) -/

/-- FORWARD_FRAME_RX (R372): the frozen values of one freeze: point, value, quality, and whether it is fresh. -/
def execForwardFrameRx (seq : BitVec 32) (lanes : BitVec 2) (items : List (Nat × BitVec 64 × BitVec 16 × Bool)) (s : State) : Out :=
  onFrame s seq lanes none fun m =>
    if m.st == xStandby && m.flag F.TWIN_STATUS_IN_STEP then
      let img := items.foldl (fun img x => mapPut x.1 ({ val := x.2.1, qual := x.2.2.1, fresh := x.2.2.2 } : ImgEnt) img) m.exec.image
      { m with exec := { m.exec with image := img } }
    else m

/-- WRITE_FRAME_RX (R372): applied in the standby's own window. -/
def execWriteFrameRx (seq : BitVec 32) (lanes : BitVec 2) (ops : List PtOp) (s : State) : Out :=
  onFrame s seq lanes none fun m =>
    if m.st == xStandby && m.flag F.TWIN_STATUS_IN_STEP then { m with mem := { m.mem with writes := m.mem.writes ++ ops } } else m

/-- A tile from the peer waits for the String link's next slot (R9). -/
def Mod.streamTile (m : Mod) (t : Nat) (bytes : List Byte) : Mod :=
  if m.get F.TWIN_STATUS_MODE = 2 ∧ (m.tileDef t).isSome ∧ (m.st = xStandby ∨ (m.dirEnt t).faulted) then
    { m with twin := { m.twin with
      stream := mapPut t bytes m.twin.stream
      copied := if m.get F.TWIN_STATUS_JOIN = 1 then mapPut t () m.twin.copied else m.twin.copied } }
  else m

/-- STREAM_FRAME_RX (R379): a tile whose CRC differs from the one it carries is discarded and counted; a loop's state reaches a joiner before its own bursts. -/
def execStreamFrameRx (seq : BitVec 32) (lanes : BitVec 2) (k : StreamKind) (s : State) : Out :=
  onFrame s seq lanes none fun m =>
    match k with
    | .tile t bytes crc =>
      if tileCrc t bytes ≠ crc.toNat ∨ bytes.length ≠ 256 then m.addSat F.TWIN_COUNTS_FRAME_ERR 1 else m.streamTile t bytes
    | .loop n rec_ =>
      (match ((m.plan.active.map (·.loops)).getD []).find? (fun d => d.num == n) with
       | some d => if m.st == xStandby && !m.flag F.TWIN_STATUS_IN_STEP && rec_.length == 24 then
           { m.loopWarm d rec_ with twin := { m.twin with copied := mapPut (8192 + n) () m.twin.copied } } else m
       | none => m)

/-- STEP_LOST (R373): A forwarded frame misses its instant and the standby leaves step and logs EV_TWIN_STEP_LOST. -/
def execStepLost (s : State) : Out :=
  onMod s fun m => m.when (m.st == xStandby && m.flag F.TWIN_STATUS_IN_STEP) (fun m => (m.addSat F.TWIN_COUNTS_MISSED 1).stepLost)

/-- Every POINT and INSTANCE tile of the plan has come from the holder in this join; so has every loop's state. -/
def Mod.tilesCopied (m : Mod) : Bool :=
  ((m.plan.active.map (·.tiles)).getD []).all (fun d => (d.kind != .point && d.kind != .inst) || (mapGet d.tile m.twin.copied).isSome)
def Mod.loopsCopied (m : Mod) : Bool := ((m.plan.active.map (·.loops)).getD []).all (fun d => (mapGet (8192 + d.num) m.twin.copied).isSome)

/-- REJOIN_COPY_COMPLETE (R379): All tiles have been streamed to the joiner and loop state follows in the swap window. -/
def execRejoinCopyComplete (s : State) : Out :=
  onMod s fun m =>
    if m.st == xStandby && m.flag F.TWIN_STATUS_LINK_UP && m.get F.TWIN_STATUS_JOIN == 1 && m.tilesCopied then m.set F.TWIN_STATUS_JOIN 2 else m

/-- REJOIN_IN_STEP (R379): t is the next whole second. -/
def execRejoinInStep (t : Nat) (s : State) : Out :=
  onMod s fun m =>
    if m.st == xStandby && m.get F.TWIN_STATUS_JOIN == 2 && m.loopsCopied && t % 1000000000 == 0 && decide (m.clk.ns ≤ t) && decide (t < m.clk.ns + 1000000000)
        && m.clk.run then
      let m := ((m.reach t).set F.TWIN_STATUS_JOIN 3).set F.TWIN_STATUS_IN_STEP 1
      { m with twin := { m.twin with joinSince := some t } }
    else m

/-- TWIN_SELFTEST_PASS (R379): a whole hyperperiod in step; the holder is told. -/
def execTwinSelftestPass (s : State) : Out :=
  onMod s fun m =>
    let whole := match m.twin.joinSince with | some t => decide (t + 1000000000 ≤ m.clk.ns) | none => false
    if m.st == xStandby && m.flag F.TWIN_STATUS_IN_STEP && m.get F.TWIN_STATUS_JOIN == 3 && whole then
      let m := (m.set F.TWIN_STATUS_SELFTEST 1).set F.TWIN_STATUS_JOIN 4
      ({ m with twin := { m.twin with holdFrom := some m.optime } }).frameOut
    else m

/-! ### The bar (R357, R374 to R376, R380, R383, R521) -/

/-- BAR_LINE_CHANGE (R521): in BIT the String link is powered where the cable is fitted (R469). -/
def execBarLineChange (line : Fin 3) (s : State) : Out :=
  onMod s fun m =>
    let m := { m with pwr := { m.pwr with bar := line.val } }
    let m := m.when (m.isOn (swPd 13)) (fun m => m.set F.TWIN_BAR_PEER_LINE line.val)
    m.when m.inBit (fun m => (m.pdSet [13] (line != 0)).follow)

/-- BAR_FRAME_RX (R375): a release makes an in-step standby take the bar at its next boundary; a claim names the second at which the peer takes it. -/
def execBarFrameRx (seq : BitVec 32) (lanes : BitVec 2) (claim : Bool) (at_ : Nat) (s : State) : Out :=
  onFrame s seq lanes none fun m =>
    if claim then { m with twin := { m.twin with claimAt := some at_ } }
    else if m.st == xStandby && m.flag F.TWIN_STATUS_IN_STEP && m.pwr.bar != 0 then { m with twin := { m.twin with takePending := true } }
    else m

/-- The standby drives the floor: RUN, the own line HELD, the Jack path enabled (R375). -/
def Mod.takeBar (m : Mod) : Mod :=
  let m := ((m.goto xRun).set F.TWIN_STATUS_HOLDS_BAR 1).set F.TWIN_BAR_OWN_LINE 1
  let m := (m.set F.TWIN_STATUS_IN_STEP 0).set F.TWIN_STATUS_JOIN 0
  let m := { m with twin := { m.twin with takePending := false, joinSince := none, holdFrom := none, swapAt := none, peerReady := false } }
  m.jackEnable

/-- The holder returns to STANDBY, in step (R374, R380, R383). -/
def Mod.giveBar (m : Mod) : Mod :=
  let m := ((m.cancelSwap.goto xStandby).jackOff.barRelease).set F.TWIN_STATUS_IN_STEP 1
  let m := { m with twin := { m.twin with swapAt := none, claimAt := none, peerReady := false } }
  if m.flag F.TWIN_STATUS_SELFTEST then ({ m with twin := { m.twin with holdFrom := some m.optime } }).set F.TWIN_STATUS_JOIN 4
  else ({ m with twin := { m.twin with joinSince := some m.clk.ns } }).set F.TWIN_STATUS_JOIN 3

/-- The next FREEZE instant of the Drum, now included. -/
def Mod.nextFreeze (m : Mod) : Option Nat :=
  (((m.drum.filter (fun e => drumKind e == dkFreeze)).map (fun e => (drumNs e + 1000000000 - m.clk.ns % 1000000000) % 1000000000)).min?).map (m.clk.ns + ·)

/-- TAKEOVER (R375): t is the next FREEZE instant; the standby is in step, the line does not read ABSENT, and it reads FREE or a release has come. -/
def execTakeover (t : Nat) (s : State) : Out :=
  onMod s fun m =>
    if m.st == xStandby && m.flag F.TWIN_STATUS_IN_STEP && m.pwr.bar != 0 && (m.pwr.bar == 1 || m.twin.takePending)
        && m.clk.run && m.nextFreeze == some t then
      ((m.reach t).takeBar.ctrAdd 20 1).log .twinTakeover 0 []
    else m

/-- TWIN_RETURN (R380): t is a whole second: the primary, in step since its self-test for HOLDOFF seconds, takes the bar that side B gives back to its claim. -/
def execTwinReturn (t : Nat) (s : State) : Out :=
  onMod s fun m =>
    let sec := t % 1000000000 == 0 && decide (m.clk.ns ≤ t) && m.clk.run
    let hold := max 10 (min 3600 (m.get F.TWIN_CFG_HOLDOFF)) * 1000
    let held := match m.twin.holdFrom with | some x => decide (x + hold ≤ m.optime) | none => false
    if sec && !m.sideB && m.st == xStandby && m.get F.TWIN_STATUS_JOIN == 4 && m.flag F.TWIN_STATUS_IN_STEP && held
        && m.plan.armed.isNone && decide (m.get F.TWIN_BAR_RETURNS < m.returnLimit) && m.pwr.bar != 0 then
      let m := (m.reach t).takeBar
      let m := { m with twin := { m.twin with returned := some m.optime } }
      let m := m.when (m.get F.TWIN_SWAP_LAST == 3) (fun m => m.set F.TWIN_SWAP_LAST 1)
      m.log .twinReturn 0 []
    else if sec && m.sideB && m.flag F.TWIN_STATUS_HOLDS_BAR && m.twin.claimAt == some t && m.st == xRun then
      ((m.reach t).giveBar).log .twinReturn 0 []
    else m

/-- TWIN_HANDOVER (R383): t is the second of OP_TWIN_SWAP: the holder disables its drivers, the standby enables its own. -/
def execTwinHandover (t : Nat) (s : State) : Out :=
  onMod s fun m =>
    if m.twin.swapAt != some (t / 1000000000) || t % 1000000000 != 0 || decide (t < m.clk.ns) || !m.clk.run then m
    else if m.flag F.TWIN_STATUS_HOLDS_BAR && m.st == xRun then
      (((m.reach t).giveBar).set F.TWIN_SWAP_LAST 3).ctrAdd 21 1
    else if m.st == xStandby && m.flag F.TWIN_STATUS_IN_STEP && m.pwr.bar != 0 then (m.reach t).takeBar
    else { m with twin := { m.twin with swapAt := none } }

/-- RETURN_LIMIT_WRITE (R380): a write of the field by a session that may write TWIN_CFG. -/
def execReturnLimitWrite (h : BitVec 10) (v : BitVec 4) (s : State) : Out :=
  onMod s fun m =>
    if m.isO0V h.toNat && m.isOn (swPd 13) then ((m.set F.TWIN_CFG_RETURN_LIMIT v.toNat).set F.TWIN_BAR_RETURNS 0).storeBlock 0x80000 none else m

end Sys2Proof.Machine
end

