-- ==== Sys2Proof/Machine/Drum.lean ====
section
/-! DEFINITION. The Drum's entries and the control cycle (R14 to R18, R61, R67 to R71, R89 to R107, R117, R177, R225, R286, R363, R470). `t` is
the instant of an entry in ns of building time. -/

namespace Sys2Proof.Machine

/-- DRUM_NOP (R69): A Drum entry of kind NOP reaches its instant and does nothing. -/
def execDrumNop (t : Nat) (s : State) : Out :=
  onDrum s dkNop 0 0 t id

/-- WAKE_F (R14): PLL-F starts, or its start is latched (R15, R472). -/
def execWakeF (t : Nat) (s : State) : Out :=
  onDrum s dkWakeF 0 0 t fun m => m.swOn swPllF

/-- WAKE_M (R18): the core wakes from its sleep (R18). -/
def execWakeM (t : Nat) (s : State) : Out :=
  onDrum s dkWakeM 0 0 t Mod.coreWake

/-- STOP_F (R15): A STOP_F entry fires and PLL-F shuts down for 2 µs. -/
def execStopF (t : Nat) (s : State) : Out :=
  onDrum s dkStopF 0 0 t fun m => m.swOff swPllF

/-- DOMAIN (R470): the planner uses PD4 and PD5 (R470). -/
def execDomain (t : Nat) (d : Fin 15) (on : Bool) (s : State) : Out :=
  onDrum s dkDomain d.val (b2n on) t fun m => if on then m.pdOn [d.val] else m.pdOff [d.val]

/-- FREEZE (R90): A FREEZE entry fires and the field complex latches the inputs of the masked classes into the input image. -/
def execFreeze (t : Nat) (mask : BitVec 8) (s : State) : Out :=
  onDrum s dkFreeze mask.toNat 0 t fun m => m.freezeClasses mask.toNat t

/-- BURST (R89): A BURST entry fires, the lanes start their task lists and the watchdog arms. -/
def execBurst (t : Nat) (mask : BitVec 8) (seq : BitVec 16) (s : State) : Out :=
  onDrum s dkBurst mask.toNat seq.toNat t fun m => m.burstStart mask.toNat seq.toNat t

/-- BURST_END (R89): the last lane has finished its list: the watchdog disarms. -/
def execBurstEnd (s : State) : Out :=
  onMod s fun m =>
    if m.exec.burst.isSome && m.unfinished == 0 && !m.exec.late then
      { m with
        exec := { m.exec with burst := none, wdArmed := false }
        lanes := m.lanes.map (fun (l : Lane) => if l.phase = .done then { l with phase := .idle } else l) }
    else m

/-- LAUNCH (R91): A LAUNCH entry fires and the class's staged outputs pass to the drivers in one step. -/
def execLaunch (t : Nat) (c : Fin 8) (s : State) : Out :=
  onDrum s dkLaunch c.val 0 t fun m => m.launch c.val

/-- The plan's loops run: in RUN, and in STANDBY in step (R373). -/
def Mod.inStep (m : Mod) : Bool := m.st == xRun || m.flag F.TWIN_STATUS_IN_STEP

/-- LOOP_RUN (R177): a loop of a period above 1 s runs in the seconds of R174; the engine runs on FCLK (R8). -/
def execLoopRun (t : Nat) (n : BitVec 8) (s : State) : Out :=
  onDrum s dkLoopRun n.toNat 0 t fun m =>
    if m.inStep && m.fclk && loopSecond m (m.get (F.LOOP_TIMING_PERIOD n.toNat)) 0 then m.loopRun n.toNat else m

/-- LOOP_LATCH (R176): `done`: the evaluation has completed. -/
def execLoopLatch (t : Nat) (n : BitVec 8) (done : Bool) (s : State) : Out :=
  onDrum s dkLoopLatch n.toNat 0 t fun m =>
    if !m.inStep || !m.latchNow n.toNat then m
    else if done then m.loopLatch n.toNat
    else m.overrun 6 (m.get (F.LOOP_CFG_CLASS n.toNat)) ((m.exec.burst.map (·.seq)).getD 0) m.unfinished

/-- POLL (R286): A POLL entry fires and the port starts the exchange of the named request with its station. -/
def execPoll (t : Nat) (p : Fin 19) (i : BitVec 16) (s : State) : Out :=
  onDrum s dkPoll p.val i.toNat t fun m => m.pollStart p i.toNat

/-- METER_WIN (R225): the standby's metrology writes no tiles (R372); tile memory runs on FCLK (R8), and without it the results wait (R12). -/
def execMeterWin (t : Nat) (len : BitVec 16) (s : State) : Out :=
  onDrum s dkMeterWin 0 len.toNat t fun m => if m.st == xStandby || !m.fclk then m else m.meterWindow

/-- The String link sends the tiles of a mirror list (R363): each is loaded under R34 by bus master 11. -/
def Mod.mirrorSend (m : Mod) (ts : List Nat) : Mod :=
  ts.foldl (fun m t =>
    match m.masterLoad 11 t with
    | (m, some _) => m.when (m.flag F.TWIN_STATUS_LINK_UP) Mod.frameOut
    | (m, none) => m) m

/-- The peer's tiles that wait are written in a receive slot (R9, R39, R373, R379) by bus master 11. In STANDBY they take the place of the
standby's; elsewhere they rebuild a FAULTED tile. A write that no region permits is dropped (R44). -/
def Mod.streamIn (m : Mod) : Mod :=
  m.twin.stream.foldl (fun m x =>
    match m.tileDef x.1 with
    | some d =>
      if !m.regionOk 11 2 (x.1 * 256) then m.regionViolation 11 2 (x.1 * 256)
      else if m.st == xStandby || (m.dirEnt x.1).faulted then (m.placeTile d x.2).rebuildDone d
      else m
    | none => m) { m with twin := { m.twin with stream := [] } }

/-- A copy of a mirrored tile has not arrived since the previous freeze of a class that reads it (R364). -/
def Mod.mirrorLate (m : Mod) (t : Nat) : Bool :=
  m.points.any (fun p => match p.bind with
    | .mirror x _ => x == t && (match mapGet t m.twin.mir with
        | some c => decide (c.1 < m.exec.clsFreeze[Fin.ofNat 8 p.cls])
        | none => true)
    | _ => false)

/-- MIRROR (R363): 0 send, 1 receive: copies that have not arrived are counted. -/
def execMirror (t : Nat) (dir : Fin 2) (list : BitVec 16) (s : State) : Out :=
  onDrum s dkMirror dir.val list.toNat t fun m =>
    let ts := (m.plan.active.bind (fun pl => mapGet list.toNat pl.lists)).getD []
    if !m.fclk then m
    else if dir = 0 then m.mirrorSend ts else m.streamIn.addSat F.TWIN_COUNTS_MISSED (ts.filter m.mirrorLate).length

/-- After a swap (R81): the active-plan record, EV_PLAN_SWAPPED, PLAN_ACTIVE_ID and PLAN_SWAPS. -/
def Mod.swapRecord (m : Mod) : Mod :=
  match m.plan.armRecord, m.plan.active with
  | true, some pl =>
    let slot := !m.flag F.PLAN_STATUS_ACTIVE_SLOT
    let m := ((m.setB F.PLAN_STATUS_ACTIVE_SLOT slot).set F.PLAN_STATUS_STATE 0).set F.PLAN_CAND_ID_ID 0
    let m := ((m.set F.PLAN_FREE_TILES_NEEDED 0).set F.PLAN_ACTIVE_ID_ID pl.id).addSat F.PLAN_SWAPS_SWAPS 1
    let m := { m with plan := { m.plan with armRecord := false } }
    (m.paramPut keyActive (leBytes 1 (b2n slot))).log .planSwapped 0 []
  | _, _ => m

/-- The new tiles of an armed candidate are written in the management windows before its swap window (R81). -/
def Mod.stageNew (m : Mod) : Mod :=
  match m.plan.armed, m.cand, m.plan.active with
  | some _, some new, some old => if m.plan.newDone then m else m.writeNew old new
  | _, _, _ => m

/-- The work of a management window (R11, R39, R81, R101, R389); its work in tile memory needs FCLK (R8). -/
def Mod.mgmtWindow (m : Mod) (t : Nat) (sramBad flashBad : List Nat) (copyOk alive : Bool) : Mod :=
  let m := m.when (alive && m.isOn (swPd 3) && !bitAt m.pwr.unlocked 1) (fun m => { m with exec := { m.exec with heartbeat := true } })
  if !alive || !m.mgmtUp || m.plan.migrated then m
  else
    let m := { m with exec := { m.exec with windowAt := t, windowEnd := t + 20000 } }
    ((m.swapRecord.when m.fclk (fun m => (((m.restartCopies sramBad flashBad).rebuildAll sramBad flashBad).applyPts).stageNew)).safeRefresh copyOk).flashWork

/-- Upsets of a tile memory that is powered. -/
def Mod.upsets (m : Mod) (hits : List Upset) : Mod := if m.isOn (swPd 6) then hits.foldl Mod.upset m else m

/-- MGMT_WIN (R61): tiles whose plan copies fail in SRAM and in flash, a safe-state table copy that passes, a management core that answers (R103); the upsets that tile memory suffers after the window. -/
def execMgmtWin (t : Nat) (sramBad : List Nat) (flashBad : List Nat) (copyOk : Bool) (alive : Bool) (hits : List Upset) (s : State) : Out :=
  onDrum s dkMgmtWin 0 20 t fun m => ((m.coreWake.mgmtWindow t sramBad flashBad copyOk alive).upsets hits).coreSleep

/-- PLL_F_LOCK (R16): a burst that waits for the lock starts (R16). -/
def execPllFLock (s : State) : Out :=
  onMod s fun m =>
    if m.sw[swPllF].ph = .powering then
      (m.swMap swPllF (·.upDone m.clk.mono)).lateStart
    else m

/-- PLL_LOCK_LATE (R16): building time reaches T0 + 50 µs without lock. -/
def execPllLockLate (t : Nat) (s : State) : Out :=
  onMod s fun m =>
    match m.exec.burst with
    | some b =>
      if m.exec.late && m.clk.run && decide (m.clk.ns ≤ t) && decide (b.t0 + 50000 ≤ t) then
        let m := ((m.reach t).addSat F.CLK_FAULTS_LATE_F 1).log .pllLockLate 0 []
        ({ m with exec := { m.exec with late := false } }).burstOverrun 3 b
      else m
    | none => m

/-- WATCHDOG_DEADLINE (R97): building time reaches the deadline with the burst unfinished. -/
def execWatchdogDeadline (t : Nat) (s : State) : Out :=
  onMod s fun m =>
    match m.exec.burst with
    | some b =>
      if m.exec.wdArmed && m.clk.run && decide (m.clk.ns ≤ t) && decide (m.exec.wdDeadline ≤ t) then
        ({ (m.reach t) with exec := { m.exec with late := false } }).burstOverrun 1 b
      else m
    | none => m

/-- SAFE_TABLE_CRC_CHECK (R101): Once per hyperperiod the field complex checks its safe-table CRC and on mismatch asserts hard defaults. -/
def execSafeTableCrcCheck (ok : Bool) (s : State) : Out :=
  onMod s fun m =>
    if ok || m.exec.safeCopy.isNone then m
    else ({ m with exec := { m.exec with hardReq := true } }).log .safeTableCrc 0 []

/-- RC_OSC_MEASURE (R97): Once per hyperperiod the RC oscillator is measured against the TCXO. -/
def execRcOscMeasure (freq : BitVec 21) (s : State) : Out :=
  onMod s fun m => if m.clk.run then m.set F.CLK_RC_FREQ freq.toNat else m

/-! ### The management core and restarts (R103, R107, R113, R119, R120) -/

/-- The registers of PD3 show the plan that runs on. -/
def Mod.planAgain (m : Mod) (pl : Plan) : Mod :=
  (pl.regImage.foldl (fun m x => if pdOf x.1 = some 3 then m.setWord x.1 x.2 else m) m).planShow pl

/-- MGMT_SUPERVISOR (R103): PD3 alone is reset: sessions close, commands in flight end without a reply, the state, SERVICE too, and the data path go on. -/
def execMgmtSupervisor (s : State) : Out :=
  onMod s fun m =>
    if m.isOn (swPd 3) && decide (xBit ≤ m.st) then
      let m := m.cancelSwap
      let plan := m.plan
      let bank := m.get F.DRUM_STATUS_BANK
      let m := (m.closeAll.pdLose 3).pdRegs 3
      let m := { m with plan := plan, pwr := { m.pwr with unlocked := putBits m.pwr.unlocked 1 1 0 } }
      let m := (m.pdFound 3).set F.DRUM_STATUS_BANK bank
      let m := match m.plan.active with | some pl => m.planAgain pl | none => m
      ({ m with exec := { m.exec with heartbeat := false } }).log .mgmtSupervisor 0 []
    else m

/-- SUPERVISOR_RESTART (R103): no heartbeat since the reset of PD3. -/
def execSupervisorRestart (s : State) : Out :=
  onMod s fun m => if !m.exec.heartbeat && decide (xBit ≤ m.st) then m.hardRestart 8 else m

/-- AUTO_RESTART (R119): DELAY seconds of operating time after STOPPED was entered. -/
def execAutoRestart (s : State) : Out :=
  onMod s fun m =>
    match m.exec.autoAt with
    | some t =>
      if m.st == xStopped && decide (t ≤ m.optime) && !m.pwr.tcxoBad then
        let m := { m with exec := { m.exec with autoTimes := m.autoRecent ++ [m.optime] } }
        m.softRestart 4 (m.policy 4)
      else m
    | none => m

/-- ENTER_RUN (R111): t is the first whole second not before the instant of restartDue. -/
def execEnterRun (t : Nat) (s : State) : Out :=
  onMod s fun m =>
    match m.exec.restartDue, m.plan.active with
    | some d, some pl =>
      if m.inBit && m.clk.run && t % 1000000000 == 0 && decide (max d m.clk.ns ≤ t) && decide (t < max d m.clk.ns + 1000000000)
        then (m.reach t).enterRun pl else m
    | _, _ => m

/-- SERVICE_TIMEOUT (R107): 900 s of operating time since the service session's last command. -/
def execServiceTimeout (s : State) : Out :=
  onMod s fun m =>
    match m.exec.serviceSession.bind m.sess with
    | some x => if x.lastAt + 900000 ≤ m.optime then m.leaveService else m
    | none => m.leaveService

/-- RETAIN_SNAPSHOT (R117): in the swap window of the last second of a retain period (R71, R117), unless a swap or a time step uses it (R156). DESIGN CHOICE (log entry 124): a period of several seconds is counted from building time 0. -/
def execRetainSnapshot (s : State) : Out :=
  onMod s fun m =>
    match m.plan.active with
    | some pl =>
      let inWindow := decide (999750000 ≤ m.clk.ns % 1000000000)
      let last := (m.clk.ns / 1000000000 + 1) % retainPeriod (m.get F.EXEC_RETAIN_CFG_PERIOD) == 0
      if m.st == xRun && inWindow && last && m.plan.armed != some (m.clk.ns / 1000000000 + 1) && m.clk.stepPending.isNone && m.mgmtUp && !m.flag F.EXEC_RETAIN_WRITING then m.snapshot pl else m
    | none => m

end Sys2Proof.Machine
end

