-- ==== Sys2Proof/Machine/Rtc.lean ====
section
/-! DEFINITION. The real-time clock's commands (R421 to R432). -/

namespace Sys2Proof.Machine

/-- RTC_SECOND_TICK (R422): the calendar and WDAY advance, SUB becomes 0, the alarms are compared; a stopped crystal holds the counter. -/
def execRtcSecondTick (s : State) : Out :=
  onMod s fun m => if m.rtc.run then m.rtcTick else m

/-- RTC_COMMIT (R424): a write of 1 to RTC_CTRL.COMMIT; it counts from an OPERATOR session of scope 0 or a SERVICE session. -/
def execRtcCommit (h : BitVec 10) (s : State) : Out :=
  onMod s fun m => if m.isO0V h.toNat then m.rtcCommit else m

/-- RTC_SHADOW_FREEZE (R423): a read of the group with no freeze in force copies it; FROZEN is set. -/
def execRtcShadowFreeze (s : State) : Out :=
  onMod s fun m => m.rtcFreeze

/-- RTC_FREEZE_TIMEOUT (R423): a freeze ends 10 ms after it began. -/
def execRtcFreezeTimeout (s : State) : Out :=
  onMod s fun m =>
    if m.freezeOver then ({ m with rtc := { m.rtc with shadow := none, timedOut := true } }).set F.RTC_STATUS_FROZEN 0 else m

/-- RTC_SYNC (R430): at the configured instant the RTC takes the UTC of building time. -/
def execRtcSync (s : State) : Out :=
  onMod s fun m => if m.syncDue then m.rtcSync else m

/-- RTC_OSC_STOP (R426): OSC_STOPPED is set and the counter holds. -/
def execRtcOscStop (s : State) : Out :=
  onMod s fun m => ({ m with rtc := { m.rtc with run := false } }).set F.RTC_STATUS_OSC_STOPPED 1

/-- CRYSTAL_RESTART (R426): the counter goes on from the value it held; OSC_STOPPED stays, but for a commit that waited for this edge. -/
def execCrystalRestart (s : State) : Out :=
  onMod s fun m =>
    let m := { m with rtc := { m.rtc with run := true } }
    match m.rtc.waits with
    | some c => m.rtcLoad c
    | none => m

/-- BACKUP_SUPPLY_LOST (R464): with VIN absent the backup domain loses power: every RTC register and the backup memory at reset. -/
def execBackupSupplyLost (s : State) : Out :=
  onMod s fun m => m.when (!m.flag F.PWR_STATUS_VIN_OK) Mod.rtcLost

end Sys2Proof.Machine
end

