-- ==== Sys2Proof/Machine/OpRegister.lean ====
section
/-! DEFINITION. Register, metering, loop, log and time commands (R156, R193, R215, R227, R337, R349, R417, R432, R488 to R494). -/

namespace Sys2Proof.Machine

/-! ### Registers -/

/-- How the words of a command stand to the peer window (R489). -/
inductive Window | own | peer | mixed | split
deriving DecidableEq, Repr

def Mod.window (m : Mod) (as : List Nat) : Window :=
  let hi := as.any (fun a => decide (0x800000 ≤ a))
  if !hi || m.get F.TWIN_STATUS_MODE != 1 then .own
  else if as.any (fun a => decide (a < 0x800000)) then .mixed
  else if m.peerUp && !m.flag F.TWIN_STATUS_SIDE then .peer
  else .split

def addrBad (a : Nat) : Bool := decide (a % 4 ≠ 0) || decide (0xFFFFFC < a)

/-- OP_REG_READ (R490): the peer's registers are no state of this module: its words are free (log entry 2). -/
def execOpRegRead (h : BitVec 10) (seq : BitVec 32) (s : State) : Out :=
  opRow s h seq 0x0300 fun m _ x ps =>
    let a := par ps 0 4
    let n := par ps 4 2
    let as := (List.range n).map (fun i => a + 4 * i)
    if n = 0 ∨ 256 < n then (m, .fail 0x0002 4)
    else if addrBad a ∨ 0xFFFFFC < a + 4 * (n - 1) then (m, .fail 0x0002 0)
    else match as.find? (fun a => !m.mayRead x a) with
      | some a => (m, .fail 0x0006 a)
      | none => match m.window as with
        | .mixed => (m, .fail 0x0002 0)
        | .split => m.badState
        | .peer => (m.drawnN (4 * n), .ok (m.random (4 * n)))
        | .own => let r := m.readRegs x as; (r.1, .ok r.2)

/-- Words written in order, each shown as it reads after its write. -/
def Mod.writeRegs (m : Mod) (k : Nat) (tag : Nat × Nat) : List (Nat × Word) → Mod × List Byte
  | [] => (m, [])
  | (a, v) :: t =>
    let m := m.writeReg k (some tag) a v
    let shown := match m.sess k with | some x => m.readKeep x a | none => (m, 0)
    let r := shown.1.writeRegs k tag t
    (r.1, leBytes 4 shown.2.toNat ++ r.2)

/-- OP_REG_WRITE (R491): Write registers in command order and return their values. -/
def execOpRegWrite (h : BitVec 10) (seq : BitVec 32) (s : State) : Out :=
  opRow s h seq 0x0301 fun m k _ ps =>
    let n := par ps 0 2
    let ws : List (Nat × Word) := (List.range n).map (fun i => (par ps (4 + 8 * i) 4, BitVec.ofNat 32 (par ps (8 + 8 * i) 4)))
    if n = 0 ∨ 16 < n then (m, .fail 0x0002 0)
    else match ws.findIdx? (fun w => addrBad w.1) with
      | some i => (m, .fail 0x0002 (4 + 8 * i))
      | none => match m.window (ws.map (·.1)) with
        | .mixed => (m, .fail 0x0002 4)
        | .split => m.badState
        | .peer => (m.drawnN (4 * n), .ok (m.random (4 * n)))
        | .own => match ws.findSome? (fun w => m.jackRefused k w.1 w.2) with
          | some (c, d) => (m, .fail c d)
          | none => let r := m.writeRegs k (k, seq.toNat) ws; (r.1, .hold r.2)

/-- OP_REG_MODIFY (R492): Read-modify-write one register, leaving unnamed W1C bits alone. -/
def execOpRegModify (h : BitVec 10) (seq : BitVec 32) (s : State) : Out :=
  opRow s h seq 0x0302 fun m k x ps =>
    let a := par ps 0 4
    let old := (m.readKeep x a).2
    let new := modifyWord a old (BitVec.ofNat 32 (par ps 4 4)) (BitVec.ofNat 32 (par ps 8 4))
    if addrBad a then (m, .fail 0x0002 0)
    else match m.window [a] with
      | .mixed => m.badState
      | .split => m.badState
      | .peer => (m.drawnN 8, .ok (m.random 8))
      | .own => match m.jackRefused k a new with
        | some (c, d) => (m, .fail c d)
        | none => let r := (m.readKeep x a).1.writeRegs k (k, seq.toNat) [(a, new)]; (r.1, .hold (leBytes 4 old.toNat ++ r.2))

/-! ### Metering -/

/-- The words of a channel in a set of OP_MET_READ. -/
def metSet (set c : Nat) : List Nat :=
  let b := 0x30000 + 0x80 * c
  match set with
  | 0 => (List.range 19).map (fun i => b + 0x30 + 4 * i)
  | 1 => (List.range 11).map (fun i => b + 4 + 4 * i)
  | _ => (List.range 6).map (fun i => b + 4 + 4 * i)

/-- OP_MET_READ (R349): channels are those of MET[c]: current 0 to 95, voltage 96 to 101. -/
def execOpMetRead (h : BitVec 10) (seq : BitVec 32) (s : State) : Out :=
  opRow s h seq 0x0400 fun m _ x ps =>
    let first := par ps 0 1
    let n := par ps 1 1
    let set := par ps 2 1
    let top := if set = 2 then 102 else 96
    if 2 < set then (m, .fail 0x0002 2)
    else if top ≤ first ∨ (set = 2 ∧ first < 96) then (m, .fail 0x0002 0)
    else if n = 0 ∨ [18, 31, 6].getD set 0 < n ∨ top < first + n then (m, .fail 0x0002 1)
    else match (List.range n).findIdx? (fun i => !m.meterOk x (first + i)) with
      | some i => (m, .fail 0x0006 i)
      | none => (m, .ok (leBytes 4 (m.word R.MET_BLOCK).toNat
          ++ (List.range n).flatMap (fun i => (metSet set (first + i)).flatMap (fun a => leBytes 4 (m.word a).toNat))))

/-- Interval records in order of NUM. -/
def intInsert (r : IntRec) : List IntRec → List IntRec
  | [] => [r]
  | x :: t => if r.num < x.num then r :: x :: t else x :: intInsert r t

/-- OP_MET_INTERVALS (R349): Read stored interval records of a channel. -/
def execOpMetIntervals (h : BitVec 10) (seq : BitVec 32) (s : State) : Out :=
  opRow s h seq 0x0401 fun m _ x ps =>
    let c := par ps 0 1
    let n := par ps 2 2
    if 96 ≤ c then (m, .fail 0x0002 0)
    else if n = 0 ∨ 21 < n then (m, .fail 0x0002 2)
    else if !m.meterOk x c then (m, .fail 0x0006 0)
    else
      let rs := (m.logs.intervals ++ m.logs.wabIntervals).filter (fun r => r.channel == c && decide (par ps 4 8 ≤ r.num))
      (m, .ok (((rs.foldl (fun l r => intInsert r l) []).take n).flatMap IntRec.bytes))

/-- A record of a window as master 9 reads it; where the tile gives nothing the bytes are free (log entry 2). -/
def Mod.cbwRead (m : Mod) (w i : Nat) : Mod × List Byte :=
  let size := 2 ^ (m.get (F.CBW_STRIDE_STRIDE w) + 3)
  let per := 256 / size
  let t := m.get (F.CBW_BASE_TILE w) + i / per
  match m.loadData t with
  | .data bs => (m.loadEffect t 9, (bs.drop (i % per * size)).take size)
  | _ => ((m.loadEffect t 9).drawnN size, (m.loadEffect t 9).random size)

def Mod.cbwReads (m : Mod) (w : Nat) : List Nat → Mod × List Byte
  | [] => (m, [])
  | i :: t =>
    let r := m.cbwRead w i
    let q := r.1.cbwReads w t
    (q.1, r.2 ++ q.2)

/-- Records `off` to `off + n - 1` of the last `have_` appended to a window, those there are. -/
def Mod.cbwTail (m : Mod) (w have_ off n : Nat) : Mod × Res :=
  let len := m.get (F.CBW_LENGTH_LENGTH w)
  let have_ := min have_ len
  let ix := ((List.range n).filter (fun i => decide (off + i < have_))).map (fun i => (m.get (F.CBW_HEAD_HEAD w) + len - have_ + off + i) % len)
  match ix.find? (fun i => !m.regionOk 9 1 ((m.get (F.CBW_BASE_TILE w) + i / (256 / 2 ^ (m.get (F.CBW_STRIDE_STRIDE w) + 3))) * 256)) with
  | some i => m.ptBlocked 1 (m.get (F.CBW_BASE_TILE w) + i / (256 / 2 ^ (m.get (F.CBW_STRIDE_STRIDE w) + 3)))
  | none => let r := m.cbwReads w ix; (r.1, .ok r.2)

/-- Reply data put before a result's own. -/
def Res.after (r : Res) (bs : List Byte) : Res := match r with | .ok d => .ok (bs ++ d) | r => r

/-- OP_MET_CAPTURE (R349): STATUS is MET_CAP_CTRL; records count from the start sample. -/
def execOpMetCapture (h : BitVec 10) (seq : BitVec 32) (s : State) : Out :=
  opRow s h seq 0x0402 fun m _ _ ps =>
    let w := m.get F.MET_CAP_CTRL_CBW
    let n := par ps 4 2
    if n = 0 ∨ 170 < n then (m, .fail 0x0002 4)
    else
      let r := m.cbwTail w (m.met.capture.getD (m.get (F.CBW_LENGTH_LENGTH w))) (par ps 0 4) n
      (r.1, r.2.after (leBytes 4 (m.word R.MET_CAP_CTRL).toNat))

/-! ### Loops -/

/-- OP_LOOP_READ (R349): Read a loop's registers. -/
def execOpLoopRead (h : BitVec 10) (seq : BitVec 32) (s : State) : Out :=
  opRow s h seq 0x0500 fun m _ x ps =>
    (m, .ok ((List.range 16).flatMap (fun i => leBytes 4 (m.peek x (R.LOOP_CFG (par ps 0 1) + 4 * i)).toNat)))

/-- OP_LOOP_MODE (R349): Request a loop mode. -/
def execOpLoopMode (h : BitVec 10) (seq : BitVec 32) (s : State) : Out :=
  opRow s h seq 0x0501 fun m k _ ps =>
    if 3 < par ps 1 1 then (m, .fail 0x0002 1)
    else (m.writeReg k none (R.LOOP_MODE (par ps 0 1)) (BitVec.ofNat 32 (par ps 1 1)), .ok [])

/-- OP_LOOP_TUNE (R349): Write masked loop tuning registers. -/
def execOpLoopTune (h : BitVec 10) (seq : BitVec 32) (s : State) : Out :=
  opRow s h seq 0x0502 fun m k _ ps =>
    ((List.range 8).foldl (fun m i =>
        if bitAt (par ps 2 2) i then m.writeReg k none (R.LOOP_KP (par ps 0 1) + 4 * i) (BitVec.ofNat 32 (par ps (4 + 4 * i) 4)) else m) m, .ok [])

/-- OP_LOOP_TEST (R349): Configure and start a loop test generator. -/
def execOpLoopTest (h : BitVec 10) (seq : BitVec 32) (s : State) : Out :=
  opRow s h seq 0x0503 fun m k x ps =>
    let g := par ps 0 1
    let ctrl : Word := BitVec.ofNat 32 (putBits (par ps 4 4) 11 1 0)
    if 3 < g then (m, .fail 0x0002 0)
    else
      let m := m.writeReg k none (R.LOOPTEST_CTRL g) ctrl
      let m := (List.range 6).foldl (fun m i =>
        m.writeReg k none (R.LOOPTEST_AMP g + 4 * i) (BitVec.ofNat 32 (par ps (8 + 4 * i) 4))) m
      let m := m.writeReg k none (R.LOOPTEST_CTRL g) (BitVec.ofNat 32 (putBits (putBits (par ps 4 4) 12 1 0) 11 1 1))
      (m, .ok (leBytes 4 (m.peek x (R.LOOPTEST_STATUS g)).toNat))

/-- OP_LOOP_TEST_READ (R349): records count from the test's first evaluation. -/
def execOpLoopTestRead (h : BitVec 10) (seq : BitVec 32) (s : State) : Out :=
  opRow s h seq 0x0504 fun m _ x ps =>
    let g := par ps 0 1
    let n := par ps 8 2
    if 3 < g then (m, .fail 0x0002 0)
    else if 40 < n then (m, .fail 0x0002 8)
    else
      let r := m.cbwTail (m.get (F.LOOPTEST_CTRL_CBW g)) (m.get (F.LOOPTEST_STATUS_K g)) (par ps 4 4) n
      (r.1, r.2.after ((List.range 5).flatMap (fun i => leBytes 4 (m.peek x (R.LOOPTEST_STATUS g + 4 * i)).toNat)))

/-! ### Logs -/

/-- Log areas that a session may read. -/
def Mod.mayReadLog (m : Mod) (x : Sess) (a : Nat) : Bool := x.wide || (m.scopeDef x).logs.contains a

/-- OP_LOG_AREAS (R417): List readable log areas with FIRST and LAST. -/
def execOpLogAreas (h : BitVec 10) (seq : BitVec 32) (s : State) : Out :=
  opRow s h seq 0x0600 fun m _ x _ =>
    (m, .ok (((List.finRange 16).filter (fun a => m.mayReadLog x a.val)).flatMap (fun (a : Fin 16) =>
      leBytes 1 a.val ++ leBytes 1 (areaKind a.val + 4 * b2n m.logs.areas[a].flood) ++ leBytes 4 (m.logs.first a) ++ leBytes 4 (m.logs.last a))))

/-- OP_LOG_READ (R417): Read records of an area from a sequence number. -/
def execOpLogRead (h : BitVec 10) (seq : BitVec 32) (s : State) : Out :=
  opRow s h seq 0x0601 fun m _ x ps =>
    let n := par ps 2 2
    if ha : par ps 0 1 < 16 then
      let a : Fin 16 := ⟨par ps 0 1, ha⟩
      if n = 0 ∨ 42 < n then (m, .fail 0x0002 2)
      else if !m.mayReadLog x a.val then (m, .fail 0x0006 0)
      else (m, .ok (leBytes 4 (m.logs.first a) ++ leBytes 4 (m.logs.last a)
        ++ (((m.logs.records a).filter (fun r => decide (par ps 4 4 ≤ r.seq))).take n).flatMap Rec.bytes))
    else (m, .fail 0x0002 0)

/-! ### Time and calendar -/

/-- OP_TIME_GET (R349): Return building time and time status. -/
def execOpTimeGet (h : BitVec 10) (seq : BitVec 32) (s : State) : Out :=
  opRow s h seq 0x0700 fun m _ _ _ =>
    (m, .ok (leBytes 8 m.clk.ns ++ leBytes 4 (m.word R.TIME_STATUS).toNat ++ leBytes 4 (m.word R.TIME_UTC).toNat ++ leBytes 4 m.holdWord))

/-- OP_TIME_SET (R156): the next whole second takes the number given; a number that building time cannot hold is out of range. -/
def execOpTimeSet (h : BitVec 10) (seq : BitVec 32) (s : State) : Out :=
  opRow s h seq 0x0701 fun m _ _ ps =>
    let sec := par ps 0 8
    let st := m.get F.TIME_STATUS_STATE
    if st ≠ syExt ∧ st ≠ syFree then m.badState
    else if 2 ^ 64 ≤ sec * 1000000000 then (m, .fail 0x0002 0)
    else (m.wantStep (((sec : Int) - ((m.clk.ns / 1000000000 + 1 : Nat) : Int)) * 32000000000), .ok [])

/-- OP_RTC_GET (R432): Return the RTC group read as one instant. -/
def execOpRtcGet (h : BitVec 10) (seq : BitVec 32) (s : State) : Out :=
  opRow s h seq 0x0702 fun m _ _ _ =>
    let m := m.rtcFreeze
    let sh := m.rtc.shadow.getD { cal := m.rtc.cal, wday := m.rtc.wday, sub := m.rtc.sub, at_ := 0 }
    let c := sh.cal
    let m := ({ m with rtc := { m.rtc with shadow := none } }).set F.RTC_STATUS_FROZEN 0
    (m, .ok (leBytes 2 c.year ++ leBytes 1 c.month ++ leBytes 1 c.day ++ leBytes 1 c.hour ++ leBytes 1 c.min ++ leBytes 1 c.sec ++ leBytes 1 sh.wday
      ++ leBytes 1 sh.sub ++ leBytes 4 (m.word R.RTC_STATUS).toNat))

/-- OP_RTC_SET (R432): Stage and commit an RTC date and time. -/
def execOpRtcSet (h : BitVec 10) (seq : BitVec 32) (s : State) : Out :=
  opRow s h seq 0x0703 fun m _ _ ps =>
    let c : Cal := ⟨par ps 0 2, par ps 2 1, par ps 3 1, par ps 4 1, par ps 5 1, par ps 6 1⟩
    match c.bad with
    | some f => ((m.stage c).set F.RTC_STATUS_BAD_DATE 1, .fail 0x0070 f)
    | none => ((m.stage c).rtcCommit, .ok [])

end Sys2Proof.Machine
end

