-- ==== Sys2Proof/Machine/PlanSwap.lean ====
section
/-! DEFINITION. The planner's result and the plan swap (R41, R74 to R86, R107, R336). -/

namespace Sys2Proof.Machine

/-- What the planner ends with for a package, the firmware that runs and the suspect banks (R57): a plan it may build, or the refusal that these three
fix; whether it succeeds is the operand's (log entry 121). -/
def Mod.planResult (m : Mod) (pkg : Package) (r : BuildResult) : Bool :=
  let ver := m.get F.KEY_FW_VER_VERSION
  match r with
  | .plan pl => planned pkg ver m.suspects m.plan.active pl
  | .failed c d => Config.planRefusal pkg.pkgDigest ver m.suspects == (c, d)

/-- A built plan is verified as any other (R76): the plan, or the first check that fails and its DETAIL. -/
def Mod.verified (m : Mod) (pl : Plan) : BuildResult :=
  match pl.verify m.sysId with
  | some (c, d) => .failed c d
  | none => .plan pl

/-- The planner's plan for the package in the active slot, which R75 asks for at start (R107): stored in the same slot, or rejected, which leads back
to BIT (R144). -/
def Mod.buildStart (m : Mod) (r : BuildResult) : Mod :=
  match r with
  | .plan pl => (m.putSlot true (some pl)).set F.PLAN_STATUS_PROGRESS 100
  | .failed c d => ({ m with exec := { m.exec with startType := none } }.planReject c d).enterBit

/-- What was planned or verified for a package that was sent (R76, R77): the candidate, or a refusal. -/
def Mod.buildCand (m : Mod) (pkg : Package) (rebuilt : Bool) (r : BuildResult) : Mod :=
  let m := { m with plan := { m.plan with sent := none, image := none } }
  match r with
  | .plan pl => (m.storeCand pkg pl).when rebuilt (fun m => m.log .planRebuilt 0 [])
  | .failed c d => (m.planReject c d).set F.PLAN_STATUS_STATE 5

/-- The plan without the suspect banks (R41): stored, and armed as an online change unless it changes safety content (R80); where the package does not
fit, the current plan stays. -/
def Mod.buildReplan (m : Mod) (pkg : Package) (old : Plan) (r : BuildResult) : Mod :=
  let m := { m with plan := { m.plan with replan := false } }
  match r with
  | .plan pl =>
    if onlineOk old pl then (m.storeCand pkg pl).when (!pl.safetyDiff) (fun m => m.armSwap 0 pl (m.swapSecond 0))
    else m.log .replanNoFit 0 []
  | .failed _ _ => m.log .replanNoFit 0 []

/-- The planner's result, verified; a plan that the planner refuses stays refused. -/
def Mod.checked (m : Mod) : BuildResult → BuildResult
  | .plan pl => m.verified pl
  | .failed c d => .failed c d

/-- PLAN_BUILD_COMPLETE (R76): the planner works for the start in PLANNING, for a package that was sent, or to leave a suspect bank; an offline image of this firmware is only verified. -/
def execPlanBuildComplete (r : BuildResult) (s : State) : Out :=
  onMod s fun m =>
    let x := m.get F.PLAN_STATUS_STATE
    if !m.mgmtUp then m
    else if m.st = xPlanning ∧ m.exec.startType.isSome then
      match m.activePkg with
      | some pkg => if m.planResult pkg r then m.buildStart (m.checked r) else m
      | none => m
    else if x = 1 ∨ x = 2 then
      match m.plan.sent, m.plan.image with
      | some pkg, some img =>
        if img.plannerVer = m.get F.KEY_FW_VER_VERSION then m.buildCand pkg false (m.verified img)
        else if m.planResult pkg r then m.buildCand pkg true (m.checked r) else m
      | some pkg, none => if m.planResult pkg r then m.buildCand pkg false (m.checked r) else m
      | none, _ => m
    else if m.plan.replan ∧ m.st = xRun ∧ (x = 0 ∨ x = 5) then
      match m.activePkg, m.plan.active with
      | some pkg, some old => if m.planResult pkg r then m.buildReplan pkg old (m.checked r) else m
      | _, _ => m
    else m

/-- A swap deferred to the next second, or after the tenth deferral in a row cancelled (R84). -/
def Mod.swapDefer (m : Mod) (sec : Nat) : Mod :=
  let n := m.plan.deferred + 1
  let m := (m.addSat F.PLAN_SWAPS_DEFERRALS 1).set F.PLAN_STATUS_DEFERRED 1
  let m := m.log .swapDeferred 0 []
  if 10 ≤ n then m.cancelSwap.log .swapCancelled 0 []
  else ({ m with plan := { m.plan with armed := some (sec + 1), deferred := n } }).set F.PLAN_SWAP_SEC_SEC (sec + 1)

/-- SWAP_WINDOW_OPEN (R84): 250 µs before S; a String-link peer, where J4 does not read ABSENT, must have confirmed the same S. A time step that waits has the window for itself (R156). -/
def execSwapWindowOpen (s : State) : Out :=
  onMod s fun m =>
    match m.plan.armed, m.cand, m.plan.active with
    | some sec, some new, some old =>
      let t := sec * 1000000000 - 250000
      if !m.running || !m.clk.run || m.plan.migrated || decide (t < m.clk.ns) then m
      else
        let m := m.reach t
        let peer := m.get F.TWIN_STATUS_MODE != 0 && m.pwr.bar != 0 && m.twin.confirmed != some sec
        if faultedCount m.mem.dir ≠ 0 || peer || m.clk.stepPending.isSome then m.swapDefer sec else m.migrate old new
    | _, _, _ => m

/-- PLAN_SWAP (R81): at S; sessions whose scope the plan no longer defines close. -/
def execPlanSwap (s : State) : Out :=
  onMod s fun m =>
    match m.plan.armed, m.cand, m.plan.active with
    | some sec, some new, some old =>
      if !m.running || !m.clk.run || !m.plan.migrated || decide (sec * 1000000000 < m.clk.ns) then m
      else
        let m := (m.reach (sec * 1000000000)).swapPlan old new
        let gone := m.orpor.sessions.filter (fun (x : Nat × Sess) => x.2.scope != 0 && !new.scopes.any (fun d => d.scope == x.2.scope))
        gone.foldl (fun m x => m.closeSess x.1) m
    | _, _, _ => m

end Sys2Proof.Machine
end

