-- ==== Sys2Proof/Machine/Ports.lean ====
section
/-! DEFINITION. The events of the field ports (R285 to R303). -/

namespace Sys2Proof.Machine

/-- EXCHANGE_REPLY (R287): the reply to the attempt in progress ends: checked, its data (for M-Bus its records as DIF, VIF and data) enter the port buffer; an exception ends the exchange as failed; a reply that fails its check is a failed attempt counted in RXERR. -/
def execExchangeReply (p : Fin 19) (kind : ReplyKind) (data : List Byte) (recs : List (Nat × Nat × List Byte)) (s : State) : Out :=
  onMod s fun m =>
    match m.ports.port[p].exch with
    | none => m
    | some e =>
      match m.reqDef p e.req with
      | none => m
      | some r =>
        if e.waiting then m
        else match kind with
          | .good => (m.takeReply r data recs).exchOk p r
          | .exception => m.exchFail p r
          | .badCheck => (m.addSat (F.FBUS_RXERR_COUNT p.val) 1).attemptFail p

/-- ATTEMPT_TIMEOUT (R285): TO has run without a reply, or the slot without a token: a failed attempt. -/
def execAttemptTimeout (p : Fin 19) (s : State) : Out :=
  onMod s fun m => m.attemptFail p

/-- CAN_FRAME_RX (R293): the filter list decides; an accepted frame goes to its receive object, to an open pass-through window, or is dropped. -/
def execCanFrameRx (p : Fin 19) (f : CanFrame) (s : State) : Out :=
  onMod s fun m =>
    if m.canPort p then
      let m := m.canRxGood p
      if filtAccept (m.filters p) f then
        let o := rxPut m.ports.port[p].objs f
        if o.2 then m.portMap p (fun x => { x with objs := o.1 })
        else if m.ports.port[p].passOpen then
          m.portMap p (fun x => { x with passRx := x.passRx ++ [leBytes 4 (f.id + 2 ^ 30 * b2n f.fdf + 2 ^ 31 * b2n f.xtd) ++ f.data] })
        else m.addSat (F.FBUS_DROPS_COUNT p.val) 1
      else m
    else m

/-- CAN_TX_ERROR (R291): a bus error raises TEC by 8; the frame is retried within RETRY, or it and the rest of its entry are aborted. -/
def execCanTxError (p : Fin 19) (busError : Bool) (s : State) : Out :=
  onMod s fun m =>
    if m.canPort p then
      match m.ports.port[p].queue with
      | [] => m
      | f :: rest =>
        let m := m.when busError (fun m => (m.addSat (F.FBUS_CAN_ERR_TEC p.val) 8).canState p)
        if f.tries < m.get (F.FBUS_CFG_RETRY p.val) then
          (m.addSat (F.FBUS_RETRIES_COUNT p.val) 1).portMap p (fun x => { x with queue := { f with tries := f.tries + 1 } :: rest })
        else match f.entry with
          | some e => m.canAbort p e
          | none => (m.portMap p (fun x => { x with queue := rest })).passEnd f.handle none
    else m

/-- CAN_BUS_OFF (R294): every queued frame is aborted; COMMFAIL at each freeze follows. -/
def execCanBusOff (p : Fin 19) (s : State) : Out :=
  onMod s fun m =>
    if m.canPort p then
      let q := m.ports.port[p].queue
      let m := (q.filterMap (·.entry)).eraseDups.foldl (fun m e => m.canAbort p e) m
      let m := (q.filter (fun f => f.entry.isNone)).foldl (fun m f => m.passEnd f.handle none) m
      let m := m.portMap p (fun x => { x with queue := [] })
      let m := ((m.set (F.FBUS_STATUS_BUS_OFF p.val) 1).set (F.FBUS_STATUS_UP p.val) 0).addSat (F.FBUS_CAN_ERR_BUSOFFS p.val) 1
      (m.canState p).log .canBusoff p.val []
    else m

/-- CAN_BUS_OFF_RECOVERY (R294): the port is error-active again with both counters 0. -/
def execCanBusOffRecovery (p : Fin 19) (s : State) : Out :=
  onMod s fun m =>
    if m.flag (F.FBUS_STATUS_BUS_OFF p.val) then
      let m := ((m.set (F.FBUS_STATUS_BUS_OFF p.val) 0).set (F.FBUS_STATUS_UP p.val) 1).set (F.FBUS_CAN_ERR_TEC p.val) 0
      (m.set (F.FBUS_CAN_ERR_REC p.val) 0).canState p
    else m

/-- CAN_FRAME_TRANSMITTED (R291): the head frame has gone; with the last frame of its entry the exchange succeeds. -/
def execCanFrameTransmitted (p : Fin 19) (s : State) : Out :=
  onMod s fun m =>
    if m.canPort p then
      match m.ports.port[p].queue with
      | [] => m
      | f :: rest =>
        let m := m.portMap p (fun x => { x with queue := rest })
        let m := (m.set (F.FBUS_CAN_ERR_TEC p.val) (m.get (F.FBUS_CAN_ERR_TEC p.val) - 1)).canState p
        match f.entry with
        | none => m.passEnd f.handle (some [])
        | some e =>
          if rest.any (fun g => g.entry == some e) then m
          else match m.reqDef p e with
            | some r => m.exchOk p r
            | none => m
    else m

/-- CAN_RX_ERROR (R294): REC rises by 1, or by 8 where the standard says so; RXERR counts the frame. -/
def execCanRxError (p : Fin 19) (by8 : Bool) (s : State) : Out :=
  onMod s fun m =>
    if m.canPort p then
      ((m.addSat (F.FBUS_CAN_ERR_REC p.val) (if by8 then 8 else 1)).addSat (F.FBUS_RXERR_COUNT p.val) 1).canState p
    else m

/-- MSTP_TOKEN (R298): a queued exchange is sent; a token outside a slot is passed on at once unless a pass-through window is open. -/
def execMstpToken (p : Fin 19) (s : State) : Out :=
  onMod s fun m =>
    if m.portEn p && m.proto p == prMstp then
      match m.ports.port[p].exch with
      | some e => (m.portMap p (fun x => { x with exch := some { e with waiting := false } })).set (F.FBUS_STATUS_TOKEN p.val) 1
      | none => m.setB (F.FBUS_STATUS_TOKEN p.val) m.ports.port[p].passOpen
    else m

/-- DALI_NO_POWER (R300): below 9.5 V: NO_POWER is set, no exchange is attempted and the port's points take COMMFAIL at each freeze. -/
def execDaliNoPower (p : Fin 19) (mv : BitVec 16) (s : State) : Out :=
  onMod s fun m =>
    if m.portEn p && m.proto p == prDali && decide (mv.toNat < 9500) then
      let m := (m.set (F.FBUS_DALI_BUS_VOLT p.val) mv.toNat).set (F.FBUS_STATUS_NO_POWER p.val) 1
      let m := m.set (F.FBUS_STATUS_UP p.val) 0
      match m.ports.port[p].exch.bind (fun e => m.reqDef p e.req) with
      | some r => m.exchFail p r
      | none => m
    else m

/-- DALI_POWER_RESTORED (R300): above 11.5 V: NO_POWER is cleared. -/
def execDaliPowerRestored (p : Fin 19) (mv : BitVec 16) (s : State) : Out :=
  onMod s fun m =>
    if m.flag (F.FBUS_STATUS_NO_POWER p.val) && decide (11500 < mv.toNat) then
      ((m.set (F.FBUS_DALI_BUS_VOLT p.val) mv.toNat).set (F.FBUS_STATUS_NO_POWER p.val) 0).set (F.FBUS_STATUS_UP p.val) 1
    else m

/-- DALI_EVENT_MESSAGE (R299): outside the module's own exchanges it is stored against the binding whose instance address matches, by the receive rule of R293. -/
def execDaliEventMessage (p : Fin 19) (addr : Nat) (data : List Byte) (s : State) : Out :=
  onMod s fun m =>
    if m.portEn p && m.proto p == prDali && m.ports.port[p].exch.isNone then
      m.portMap p (fun x => { x with objs := (rxPut x.objs ⟨addr, false, false, data⟩).1 })
    else m

/-- DALI_COLLISION (R299): a failed attempt, counted in COLLISIONS. -/
def execDaliCollision (p : Fin 19) (s : State) : Out :=
  onMod s fun m =>
    if m.portEn p && m.proto p == prDali then (m.addSat (F.FBUS_DALI_BUS_COLLISIONS p.val) 1).attemptFail p else m

/-- MBUS_SHORT (R301): the master switches the bus off, sets SHORT and logs EV_MBUS_SHORT. -/
def execMbusShort (s : State) : Out :=
  onMod s fun m =>
    if m.isOn swMbus then
      let m := (((m.swOff swMbus).supplyOff 8).set (F.FBUS_STATUS_SHORT 8) 1).set (F.FBUS_STATUS_UP 8) 0
      m.log .mbusShort 8 []
    else m

/-- MBUS_RETRY (R301): after 10 s the master switches the bus on again. -/
def execMbusRetry (s : State) : Out :=
  onMod s fun m =>
    if m.portEn ⟨8, by decide⟩ && m.get (F.FBUS_CFG_PROTO 8) == prMbus && m.supplyPast 8 250000000 then (m.swOnNow swMbus).set (F.FBUS_STATUS_UP 8) 1 else m

/-- A T1L port's registers and power (R303). -/
def t1lPort (k : Fin 8) : Fin 19 := ⟨9 + k.val, by omega⟩

/-- Power off a T1L port. -/
def Mod.t1lOff (m : Mod) (k : Fin 8) (shed : Bool) : Mod :=
  let m := ((m.swOff (swT1l k)).supplyOff (9 + k.val)).portMap (t1lPort k) (fun x => { x with off := true, shed := shed })
  (m.set (F.FBUS_PWR_STATUS_ON (9 + k.val)) 0).set (F.FBUS_PWR_STATUS_POWER (9 + k.val)) 0

/-- Power on a T1L port. -/
def Mod.t1lOn (m : Mod) (k : Fin 8) : Mod :=
  let m := m.swOnNow (swT1l k)
  m.setB (F.FBUS_PWR_STATUS_ON (9 + k.val)) (m.isOn (swT1l k))

/-- The power drawn by all T1L ports, in mW. -/
def Mod.t1lTotal (m : Mod) : Nat :=
  (List.range 8).foldl (fun a k => a + m.get (F.FBUS_PWR_STATUS_POWER (9 + k))) 0

def Mod.t1lShow (m : Mod) : Mod :=
  (m.set F.FBUS_PWR_TOTAL_POWER (satNat 16 m.t1lTotal)).setB F.FBUS_PWR_TOTAL_SHEDDING
    ((List.finRange 8).any (fun (k : Fin 8) => m.ports.port[t1lPort k].shed))

/-- T1L_OVERCURRENT (R303): the port's power is switched off, OVERCURRENT set and EV_T1L_POWER logged. -/
def execT1lOvercurrent (k : Fin 8) (s : State) : Out :=
  onMod s fun m =>
    if m.isOn (swT1l k) then
      let m := ((m.t1lOff k false).set (F.FBUS_PWR_STATUS_OVERCURRENT (9 + k.val)) 1).t1lShow
      m.log .t1lPower (9 + k.val) []
    else m

/-- T1L_SHED (R303): the measured powers in mW of T1L-1 to T1L-8; above 32 W ports are switched off from the highest number down until the rest is within the limit. -/
def execT1lShed (power : List (BitVec 16)) (s : State) : Out :=
  onMod s fun m =>
    let m := (List.range 8).foldl (fun m k => m.set (F.FBUS_PWR_STATUS_POWER (9 + k)) (power.getD k 0).toNat) m
    let m := (List.finRange 8).reverse.foldl (fun m (k : Fin 8) =>
      if 32000 < m.t1lTotal && m.isOn (swT1l k) then
        (m.t1lOff k true).set (F.FBUS_PWR_STATUS_SHED (9 + k.val)) 1
      else m) m
    m.t1lShow

/-- T1L_POWER_RETRY (R303): a port that was switched off tries again after 5 s; one that was shed only where its LIMIT fits under the total the others draw. -/
def execT1lPowerRetry (k : Fin 8) (s : State) : Out :=
  onMod s fun m =>
    let x := m.ports.port[t1lPort k]
    if !x.off || !m.isOn (swPd 10) || !m.supplyPast (9 + k.val) 125000000 then m
    else if x.shed && decide (32000 < m.t1lTotal + 100 * m.get (F.FBUS_PWR_CFG_LIMIT (9 + k.val))) then m
    else ((m.t1lOn k).portMap (t1lPort k) (fun x => { x with off := false, shed := false })).t1lShow

/-- POWERED_DEVICE_DETECTED (R303): the port grants the lesser of the device's class (0.1 W) and LIMIT, or removes power with the device. -/
def execPoweredDeviceDetected (k : Fin 8) (present : Bool) (cls : BitVec 7) (s : State) : Out :=
  onMod s fun m =>
    if m.isOn (swPd 10) then
      let m := m.setB (F.FBUS_PWR_STATUS_DETECTED (9 + k.val)) present
      let m := m.portMap (t1lPort k) (fun x => { x with pdClass := if present then min cls.toNat (m.get (F.FBUS_PWR_CFG_LIMIT (9 + k.val))) else 0 })
      if present && m.flag (F.FBUS_PWR_CFG_PWR_EN (9 + k.val)) then
        if m.ports.port[t1lPort k].off then m else m.t1lOn k
      else
        ((m.swOff (swT1l k)).set (F.FBUS_PWR_STATUS_ON (9 + k.val)) 0).set (F.FBUS_PWR_STATUS_POWER (9 + k.val)) 0
    else m

/-- TCP_CONNECTION_CLOSED (R302): the connection is reopened in the station's next slot, whose attempt counts as failed; an attempt in progress has failed. -/
def execTcpConnectionClosed (p : Fin 19) (station : Nat) (s : State) : Out :=
  onMod s fun m =>
    if m.portEn p && m.proto p == prTcp then
      let busy := (m.ports.port[p].exch.bind (fun e => m.reqDef p e.req)).any (fun r => r.station == station)
      let m := m.portMap p (fun x => { x with tcp := x.tcp.filter (· != station) })
      m.when busy (fun m => m.attemptFail p)
    else m

/-- PASS_EXCHANGE (R288): in the port's window its oldest waiting exchange is sent; where it has ended, its reply or the lack of one is held; a modem sends without a reply, a CAN frame joins the queue. -/
def execPassExchange (code : BitVec 6) (ended : Bool) (reply : Option (List Byte)) (s : State) : Out :=
  onMod s fun m =>
    let c := code.toNat
    match m.passNext c with
    | none => m
    | some x =>
      if h : c < 19 then
        let p : Fin 19 := ⟨c, h⟩
        if m.portEn p && decide (0 < m.get (F.FBUS_CFG_PASS c)) && m.ports.port[p].exch.isNone then
          let m := m.portMap p (fun y => { y with passOpen := true })
          if m.proto p = prCan then
            if m.ports.port[p].queue.any (fun f => f.handle == x.handle && f.entry.isNone) then m
            else if 32 ≤ m.ports.port[p].queue.length then (m.addSat (F.FBUS_DROPS_COUNT c) 1).passEnd x.handle none
            else m.portMap p (fun y => { y with queue := y.queue ++ [{ frame := passFrame x.data, entry := none, handle := x.handle }] })
          else if ended then (m.portMap p (fun y => { y with passRun := none })).passEnd x.handle reply
          else m.portMap p (fun y => { y with passRun := some x.handle })
        else m
      else m.passEnd x.handle (some [])

/-- PASS_WINDOW_END (R288): an exchange that has not ended is abandoned and counted in DROPS. -/
def execPassWindowEnd (p : Fin 19) (s : State) : Out :=
  onMod s fun m =>
    let x := m.ports.port[p]
    let m := match x.passRun with
      | some h => (m.addSat (F.FBUS_DROPS_COUNT p.val) 1).passEnd h none
      | none => m
    let left := x.queue.filter (fun f => f.entry.isNone)
    let m := left.foldl (fun m f => (m.addSat (F.FBUS_DROPS_COUNT p.val) 1).passEnd f.handle none) m
    (m.portMap p (fun y => { y with passOpen := false, passRun := none, queue := y.queue.filter (fun f => f.entry.isSome) }))

/-- FIELD_ETHERNET_FRAME (R302): ARP for the port's address and ICMP echo are answered; a late reply is discarded; anything else is dropped and counted. -/
def execFieldEthernetFrame (p : Fin 19) (kind : EthKind) (data : List Byte) (s : State) : Out :=
  onMod s fun m =>
    if m.portEn p && m.proto p == prTcp then
      match kind with
      | .arp => m.portMap p (fun x => { x with answer := some data })
      | .echo => m.portMap p (fun x => { x with answer := some data })
      | .lateReply => m
      | .other => m.addSat (F.FBUS_DROPS_COUNT p.val) 1
    else m

end Sys2Proof.Machine
end

