-- ==== Sys2Proof/Machine/Power.lean ====
section
/-! DEFINITION. Supplies, start-up, the planned power-fail save, reset, switching and clock faults (R463 to R485). -/

namespace Sys2Proof.Machine

/-! ### Supplies and start-up (R463, R465, R469, R471, R478, R479) -/

/-- VIN_VALID (R478): VIN in mV, above 17.5 V with PD1 not powered, and the levels at J1. -/
def execVinValid (vin : BitVec 16) (pins : Pins) (s : State) : Out :=
  onMod s fun m =>
    if 17500 < vin.toNat ∧ m.pdPh 1 = .off then
      let m := { m with pwr := { m.pwr with pins := pins } }
      ((m.set F.PWR_STATUS_VIN_OK 1).set F.PWR_VIN_MV vin.toNat).set F.PWR_STATUS_BACKUP_SRC 0
    else m

/-- HOLDUP_READY (R465): the store has reached 14 V: PD1, then PD2. -/
def execHoldupReady (s : State) : Out :=
  onMod s fun m =>
    if m.flag F.PWR_STATUS_VIN_OK ∧ m.pdPh 1 = .off then
      let m := { m with pwr := { m.pwr with causes := m.pwr.causes ||| 1 } }
      (m.set F.PWR_STATUS_HOLDUP_READY 1).pdOn [1, 2]
    else m

/-- The off time of a domain in TCXO cycles, and twice its on time (R469, R471); PLL-F stops in 2 µs (R15). -/
def offTime (f : Nat) : Nat := [0, 0, 250, 75000, 25, 25, 25, 25, 250, 250, 250, 500, 500, 500, 250, 50].getD f 0
def faultTime (d : Nat) : Nat := 2 * [0, 50000, 125000, 750, 200, 200, 2500, 250, 300, 1250, 1000, 25000, 25000, 25000, 10500].getD d 0

/-- After a function became usable or went off, what waited for it goes on. -/
def Mod.domainStep (m : Mod) : Mod := m.follow.bootTry

/-- DOMAIN_POWER_GOOD (R469): a disable latched during the power-up starts the shutdown (R472). -/
def execDomainPowerGood (d : Fin 15) (s : State) : Out :=
  onMod s fun m =>
    if m.pdPh d.val = .powering then
      let off := (m.sw[swPd d]).pendOff
      let m := m.pdUp d
      let m := m.when off (fun m => m.swMap (swPd d) (fun w => { w with ph := .shutting, pendOff := false, since := m.clk.mono }))
      let m := m.domainStep
      m.when ((d.val == 4 || d.val == 5) && m.fclk) Mod.startLanes
    else m

/-- TCXO_STABLE (R478): PD2 is usable: building time starts (R150). -/
def execTcxoStable (s : State) : Out :=
  onMod s fun m =>
    if !m.clk.run && !m.pwr.tcxoBad && m.pdWant 2 && m.isOn (swPd 1) then
      let m := ((m.pdSeen 2).swSet swTcxo true).rtcCount
      ({ m with clk := { m.clk with run := true, ns := m.rtcStart, frac := 0, res := 0 } }).domainStep
    else m

/-- FIRMWARE_VERIFIED (R478): the supercapacitor and VBAT in mV; the domains of BOOT are usable. The plan in the active slot is to be loaded with the cause's policy (R113). After a reset of PD3 alone it is the core that answers again (R103). -/
def execFirmwareVerified (scap : BitVec 16) (vbat : BitVec 16) (s : State) : Out :=
  onMod s fun m =>
    if m.st = xBoot ∧ m.pwr.bootWait = [] ∧ !m.pwr.resetLow ∧ m.pdWant 3 then
      let m := m.pdSeen 3
      if m.st ≠ xBoot then m
      else
        let m := ((m.pdSeen 8).pdSeen 9).pdSeen 14
        let m := m.firmwareUp scap.toNat vbat.toNat
        let t := m.policy (m.get F.EXEC_STATE_CAUSE)
        if t = 2 then m.set F.EXEC_STATE_RESTART 3 else m.startBegin t
    else if xBit ≤ m.st ∧ m.isOn (swPd 3) ∧ !bitAt m.pwr.unlocked 1 then { m with exec := { m.exec with heartbeat := true } }
    else m

/-- PLAN_ARMED (R479): the plan in the active slot is used and passes verification: it is loaded with its restart type. -/
def execPlanArmed (s : State) : Out :=
  onMod s fun m =>
    match m.exec.startType, m.activeSlot with
    | some t, some pl =>
      if m.inBit && m.mgmtUp && m.planUsable pl then
        let m := (({ m with exec := { m.exec with startType := none } }).pdSeen 6)
        m.loadPlan pl (t == 0)
      else m
    | _, _ => m

/-- DOMAIN_FAULT (R471): no power-good within twice the on time: the domain is switched off again; one needed in BOOT waits for its retry, lanes needed for a burst make the cycle an overrun. -/
def execDomainFault (d : Fin 15) (s : State) : Out :=
  onMod s fun m =>
    if m.pdPh d.val = .powering ∧ m.swPast (swPd d) (faultTime d.val) then
      let m := m.swMap (swPd d) (fun w => { w with ph := .off, pendOn := false, pendOff := false, offAt := some m.clk.mono })
      let m := (m.set (F.PWR_DOMAIN_STATUS_FAULT d.val) 1).addSat (F.PWR_DOMAIN_FAULTS_COUNT d.val) 1
      let m := m.log .domainFault d.val (leBytes 1 0)
      let lanes := (d.val == 4 || d.val == 5 || d.val == 6) && m.exec.burst.isSome && m.unfinished != 0
      if m.st = xBoot then { m with pwr := { m.pwr with bootWait := d.val :: m.pwr.bootWait.filter (· != d.val) } }
      else
        let m := m.pdSet [d.val] false
        match m.exec.burst with
        | some b => if lanes then m.burstOverrun 3 b else m
        | none => m
    else m

/-- BOOT_DOMAIN_RETRY (R471): once per second. -/
def execBootDomainRetry (s : State) : Out :=
  onMod s fun m =>
    let late (d : Nat) : Bool := m.clk.run && ((m.sw[swPd (Fin.ofNat 15 d)]).offAt).any (fun t => decide (m.clk.mono < t + 25000000))
    if m.st = xBoot then ({ m with pwr := { m.pwr with bootWait := m.pwr.bootWait.filter late } }).follow else m

/-! ### Switching (R472) -/

/-- DOMAIN_SHUTDOWN_DONE (R472): f: 0 to 14 the domains, 15 to 19 PLL-F, PLL-M, PLL-A, PLL-N, PLL-P, 20 the TCXO, 21 to 28 the T1L power switches, 29 the M-Bus supply, 30 the laser. -/
def execDomainShutdownDone (f : Fin 31) (s : State) : Out :=
  onMod s fun m =>
    if (m.sw[f]).ph = .shutting ∧ m.swPast f (offTime f.val) then
      let m := m.swMap f (fun w => w.downDone m.clk.mono)
      (if h : f.val < 15 then m.pdDown ⟨f.val, h⟩ else m).domainStep
    else m

/-- PENDING_ON_EXECUTE (R472): port power and the laser have no on time of their own; PLL-M locks within the core's start (R18). -/
def execPendingOnExecute (f : Fin 31) (s : State) : Out :=
  onMod s fun m =>
    let w := m.sw[f]
    let due := match w.offAt with | some t => decide (t + 1250 ≤ m.clk.mono) | none => true
    if w.ph == .off && w.pendOn && (due || !m.clk.run) then
      m.swMap f (fun w => if 21 ≤ f.val ∨ f = swPllM then (w.pendDone m.clk.mono).upDone m.clk.mono else w.pendDone m.clk.mono)
    else m

/-! ### The planned save (R483, R484) -/

/-- POWER_FAIL_WARNING (R483): both in mV. What stands at the end of the warning's first 125 µs; the journals follow at SAVE_DONE. -/
def execPowerFailWarning (vin : BitVec 16) (holdup : BitVec 16) (s : State) : Out :=
  onMod s fun m =>
    if !m.isOn (swPd 1) || !m.flag F.PWR_STATUS_VIN_OK || m.pwr.saving then m
    else
      let m := m.barRelease.log .powerWarn 0 (leBytes 2 vin.toNat ++ leBytes 2 holdup.toNat ++ leBytes 1 m.st)
      let m := (m.flashCut.allStop).closeAll
      let m := m.goto 0
      let m := ([4, 5, 7, 10, 11, 12, 13] : List (Fin 15)).foldl Mod.pdKill m
      let m := (m.set F.MET_STATUS_RUN 0).set F.KEY_FW_STATUS_STAGE 0
      let m := { m with
        met := { m.met with jrn := journalCut m.met.jrn }
        fio := { m.fio with cntJ := journalCut m.fio.cntJ }
        key := { m.key with activating := false, slots := m.key.slots.map (fun (k : KeySlot) => { k with staged := none }) }
        pwr := { m.pwr with saving := true, saveOpen := true, saveSteps := 3, vinBack := false, outageFrom := some m.optime, warnAt := m.clk.mono } }
      let m := ((m.set F.PWR_STATUS_VIN_OK 0).set F.PWR_STATUS_WARNED 1).set F.PWR_VIN_MV vin.toNat
      (m.set F.PWR_SAVE_STEPS 3).keyShow

/-- The final journals (R223, R239), where their domains are powered. -/
def Mod.finalJournals (m : Mod) (energy counts : Bool) : Mod :=
  let m := m.when (energy && m.isOn (swPd 8)) (fun m => { m with met := { m.met with jrn := journalDone (journalPut m.met.jrn m.metJournal) } })
  m.when (counts && m.isOn (swPd 9)) (fun m =>
    { m with fio := { m.fio with cntJ := journalDone (journalPut m.fio.cntJ (m.fio.cnt.toList.map (·.count))) } })

/-- SAVE_DONE (R483): hold-up at the end in mV; the duration counts from the warning. A VIN that has returned makes its hard restart now. -/
def execSaveDone (holdup : BitVec 16) (s : State) : Out :=
  onMod s fun m =>
    if !m.pwr.saving then m
    else
      let us := satNat 16 ((m.clk.mono - m.pwr.warnAt) / 25)
      let m := (m.finalJournals true true).log .saveDone 0 (leBytes 2 us ++ leBytes 2 holdup.toNat)
      let m := ((m.set F.PWR_SAVE_DURATION us).set F.PWR_SAVE_STEPS 0x7F).addSat F.PWR_SAVE_COUNT 1
      let back := m.pwr.vinBack
      let m := { m with pwr := { m.pwr with saving := false, saveOpen := false, saveSteps := 0, vinBack := false } }
      let m := ([3, 6, 8, 9, 14] : List (Fin 15)).foldl Mod.pdKill m
      if back then (m.set F.PWR_STATUS_VIN_OK 1).hardRestart 1
      else if m.pwr.causes != 0 && m.flag F.PWR_STATUS_VIN_OK then m.bootTry else m

/-- VIN_RETURN (R484): VIN is valid again with PD1 still powered. -/
def execVinReturn (pins : Pins) (s : State) : Out :=
  onMod s fun m =>
    if !m.isOn (swPd 1) || m.flag F.PWR_STATUS_VIN_OK then m
    else
      let m := { m with pwr := { m.pwr with pins := pins } }
      if m.pwr.saving then { m with pwr := { m.pwr with vinBack := true } }
      else ((m.set F.PWR_STATUS_VIN_OK 1).set F.PWR_STATUS_BACKUP_SRC 0).hardRestart 1

/-- PD1 loses its supply: what it held is lost, and LOG_AREA_CFG and LOG_AREA_COUNTS stand at their reset values (R7, R41, R121, R269, R419, R440, R497). -/
def Mod.aonLost (m : Mod) : Mod :=
  { m with
    clk := {}
    exec := {}
    mem := {}
    safe := {}
    orpor := {}
    plan := { slots := m.plan.slots, pkgs := m.plan.pkgs }
    logs := { m.logs with areas := m.logs.areas.map (fun (a : Area) => { a with flood := false, rate := 20, dropped := 0, suppressed := 0 }) }
    key := { m.key with slots := Vector.replicate 8 {}, commits := [], activating := false, peerVerified := false }
    nvm := { m.nvm with jobs := [], margin := none, optHi := none }
    pwr := { pins := m.pwr.pins, resetLow := m.pwr.resetLow, bar := m.pwr.bar, saveOpen := m.pwr.saveOpen, saveSteps := m.pwr.saveSteps }
    outs := Vector.replicate 48 {}
    sw := m.sw.map (fun (w : Sw) => { w with offAt := none, pendOn := false, pendOff := false }) }

/-- HOLDUP_EXHAUSTED (R484): `steps`: where a save had not ended, the steps it had completed (R484). Whether the supply failed within an increment of operating time is left open (log entry 2). -/
def execHoldupExhausted (steps : BitVec 7) (s : State) : Out :=
  onMod s fun m =>
    if m.pdPh 1 = .off || m.flag F.PWR_STATUS_VIN_OK then m
    else
      let m := m.when m.pwr.saving (fun m =>
        let m := m.finalJournals (bitAt steps.toNat 3) (bitAt steps.toNat 4)
        { m with pwr := { m.pwr with saveSteps := steps.toNat } })
      let m := ([13, 12, 11, 10, 7, 5, 4, 6, 14, 9, 8, 3, 2, 1] : List (Fin 15)).foldl Mod.pdKill m
      let torn := m.free.toNat % 2 = 1
      let m := m.drawn
      let m := if torn then { m with nvm := { m.nvm with counters := m.nvm.counters.set 0 (ctrTorn m.nvm.counters[(0 : Fin 24)]) } } else m
      m.aonLost

/-! ### Reset (R476) -/

/-- RESET_PIN (R476): with VIN gone the cause waits for BOOT. -/
def execResetPin (s : State) : Out :=
  onMod s fun m =>
    if !m.isOn (swPd 1) then m
    else
      let m := { m with pwr := { m.pwr with resetLow := true } }
      if m.flag F.PWR_STATUS_VIN_OK then m.hardRestart 2 else { m with pwr := { m.pwr with causes := m.pwr.causes ||| 4 } }

/-- RESET_RELEASE (R476): RESET_N rises and BOOT begins. -/
def execResetRelease (pins : Pins) (s : State) : Out :=
  onMod s fun m => ({ m with pwr := { m.pwr with resetLow := false, pins := pins } }).domainStep

/-! ### Clock faults (R474, R475) -/

/-- TCXO_FAIL (R474): No TCXO edge for 100 µs logs EV_TCXO_FAIL, overruns and stops building time. -/
def execTcxoFail (s : State) : Out :=
  onMod s fun m =>
    if !m.clk.run then m
    else
      let m := (m.log .tcxoFail 0 []).addSat F.CLK_FAULTS_TCXO_STOPS 1
      let m := { m with clk := { m.clk with run := false }, pwr := { m.pwr with tcxoBad := true } }
      let m := (m.swSet swTcxo false).setSync syFree 0
      match m.exec.burst with
      | some b => if m.running then m.burstOverrun 3 b else m
      | none => if m.running then m.overrun 3 0 0 0 else m

/-- TCXO_RECOVERED (R475): 1 s without a fault: the delay of R119 counts from now, and a restart that waits begins. -/
def execTcxoRecovered (s : State) : Out :=
  onMod s fun m =>
    if !m.pwr.tcxoBad then m
    else
      let m := { m with clk := { m.clk with run := true }, pwr := { m.pwr with tcxoBad := false } }
      let m := m.swSet swTcxo true
      let auto := m.exec.autoAt.map (fun _ => m.optime + max 1 (m.get F.EXEC_AUTORST_DELAY) * 1000)
      let wait := m.exec.waitRestart
      let m := { m with exec := { m.exec with autoAt := auto, waitRestart := none } }
      match wait with
      | some (c, t) => m.beginRestart c t
      | none => m.domainStep

/-- TCXO_RECOVERY_TIMEOUT (R475): No 1 s of good TCXO within 60 s makes a hard restart with cause SUPERVISOR. -/
def execTcxoRecoveryTimeout (s : State) : Out :=
  onMod s fun m => if m.pwr.tcxoBad then m.hardRestart 8 else m

/-- The switchable function of a PLL by R485's number. -/
def pllOf (p : Fin 5) : Fin 31 := ⟨15 + p.val, by omega⟩

/-- Exchanges in progress fail (R94, R474). -/
def Mod.exchangesFail (m : Mod) : Mod :=
  (List.finRange 19).foldl (fun m (p : Fin 19) =>
    let m := match m.ports.port[p].exch.bind (fun e => m.reqDef p e.req) with
      | some r => m.exchFail p r
      | none => m
    (m.ports.port[p].queue.filterMap (·.entry)).foldl (fun m i => m.canAbort p i) m) m

/-- PLL_UNLOCK (R474): 0 PLL-F, 1 PLL-M (the core stalls), 2 PLL-A (no samples), 3 PLL-N (uplinks and String link down), 4 PLL-P (exchanges fail); the duration in µs. -/
def execPllUnlock (p : Fin 5) (us : BitVec 16) (s : State) : Out :=
  onMod s fun m =>
    if !m.isOn (pllOf p) || bitAt m.pwr.unlocked p.val then m
    else
      let m := { m with pwr := { m.pwr with unlocked := m.pwr.unlocked ||| 2 ^ p.val } }
      let m := (m.addSat F.CLK_FAULTS_UNLOCKS 1).log .pllUnlock p.val (leBytes 2 us.toNat)
      match p.val with
      | 2 => m.set F.MET_STATUS_RUN 0
      | 3 =>
        let m := (m.when (m.flag (F.UPL_STATUS_LINK 0)) (fun m => m.uplDown 0)).when (m.flag (F.UPL_STATUS_LINK 1)) (fun m => m.uplDown 1)
        let m := m.when (m.flag F.TWIN_LINK_LANE0) (fun m => (m.set F.TWIN_LINK_LANE0 0).log .twinLane 0 [])
        let m := m.when (m.flag F.TWIN_LINK_LANE1) (fun m => (m.set F.TWIN_LINK_LANE1 0).log .twinLane 1 [])
        m.when (m.flag F.TWIN_STATUS_LINK_UP) Mod.linkDown
      | 4 => m.exchangesFail
      | _ => m

/-- PLL_RELOCK (R474): a burst that waits for FCLK starts (R16), the DSP samples again; links come up under their own rules. -/
def execPllRelock (p : Fin 5) (s : State) : Out :=
  onMod s fun m =>
    if !bitAt m.pwr.unlocked p.val then m
    else
      let m := { m with pwr := { m.pwr with unlocked := putBits m.pwr.unlocked p.val 1 0 } }
      let m := m.when (p.val == 0) Mod.lateStart
      m.when (p.val == 2 && m.isOn (swPd 8) && decide (xBit ≤ m.st)) (fun m => m.set F.MET_STATUS_RUN 1)

end Sys2Proof.Machine
end

