-- ==== Sys2Proof/Machine/Uplinks.lean ====
section
/-! DEFINITION. Uplinks and the frame pool (R306 to R326): frames received, sent and discarded, links, speed shifts, transceivers, and the settings'
APPLY, CONFIRM and REVERT. -/

namespace Sys2Proof.Machine

/-- A packet's header marks it urgent (R330). -/
def urgentPacket (p : List Byte) : Bool := bitAt (p.getD 5 0).toNat 1

/-- The class of a received frame (R310, R311). -/
def Mod.rxExpress (m : Mod) (u : Fin 2) (f : UplFrame) : Bool :=
  if m.flag (F.UPL_STATUS_PREEMPT_ACTIVE u.val) then f.express
  else match f.kind with
    | .ptp => true
    | .orpor p => urgentPacket p
    | _ => false

/-- The uplink's VLAN takes the frame (R316). -/
def Mod.vlanOk (m : Mod) (u : Fin 2) (f : UplFrame) : Bool :=
  match m.uplVid u, f.vid with
  | 0, none => true
  | 0, some v => v == 0
  | w, some v => v == w
  | _, none => false

/-- The frame is one the uplink answers or takes (R309, R316, R317). -/
def Mod.rxOk (m : Mod) (u : Fin 2) (f : UplFrame) : Bool :=
  decide (64 ≤ f.len) && decide (f.len ≤ 1522) && f.fcs && m.vlanOk u f && f.kind != .other
    && (!f.static6 || m.uplSet u F.UPL_CFG_IP6_EN != 0)

/-- UPL_FRAME_RX (R309): the frame is checked, enters its receive channel by class, and what the module answers itself goes out preemptable; an Orpor packet stays in its cells and rings the core's doorbell (R18). The frame engine's regions come with a plan (R43); without one for the pool it drops the frame (R44). -/
def execUplFrameRx (u : Fin 2) (f : UplFrame) (s : State) : Out :=
  onMod s fun m =>
    if !m.flag (F.UPL_STATUS_LINK u.val) then m
    else if f.broken then m.addSat (F.UPL_FRAG_ERR_COUNT u.val) 1
    else if !m.rxOk u f then m.addSat (F.UPL_RX_DROP_COUNT u.val) 1
    else
      let m := m.addWrap (F.UPL_RX_FRAMES_COUNT u.val) 1
      let ch := 4 * u.val + (if m.rxExpress u f then 0 else 1)
      if m.planLoaded && !m.regionOk 10 2 0x200000 then (m.poolDrop (Fin.ofNat 12 ch)).regionViolation 10 2 0x200000
      else match f.kind with
      | .orpor p => (m.poolPut { ch := ch, cells := cellsOf f.len, packet := some p }).1.coreWake
      | .answered =>
        let r := m.poolPut { ch := ch, cells := cellsOf f.len }
        if r.2 then ({ r.1 with pool := { r.1.pool with frames := r.1.pool.frames.dropLast } }.poolPut { ch := 4 * u.val + 3, cells := cellsOf f.len }).1
        else r.1
      | _ =>
        let r := m.poolPut { ch := ch, cells := cellsOf f.len, ptp := true }
        if r.2 then { r.1 with pool := { r.1.pool with frames := r.1.pool.frames.dropLast } } else r.1

/-- PAUSE_FRAME (R315): counted; with IGNORE_PAUSE clear it stops all transmission, or that of the priorities named, for its quanta of 512 bit times. -/
def execPauseFrame (u : Fin 2) (pfc : Option (BitVec 8)) (quanta : BitVec 16) (s : State) : Out :=
  onMod s fun m =>
    if !m.flag (F.UPL_STATUS_LINK u.val) then m
    else
      let m := m.addSat (F.UPL_PAUSE_RX_COUNT u.val) 1
      if m.uplSet u F.UPL_CFG_IGNORE_PAUSE != 0 then m
      else
        let now := m.clk.mono
        let till := now + (512 * quanta.toNat * 25000000 + uplBps (m.get (F.UPL_STATUS_SPEED u.val)) - 1) / uplBps (m.get (F.UPL_STATUS_SPEED u.val))
        match pfc with
        | none => m.uplMap u (fun x => { x with stop := (now, till) })
        | some k => m.uplMap u (fun x => { x with pfc := Vector.ofFn (fun p : Fin 8 => if k.getLsbD p.val then (now, till) else x.pfc[p]) })

/-- UPL_LINK_UP (R307): `offer` holds the speed codes that a copper partner offers; the SFP+ cage takes its rate from the transceiver. -/
def execUplLinkUp (u : Fin 2) (offer : BitVec 5) (s : State) : Out :=
  onMod s fun m =>
    if m.flag (F.UPL_STATUS_LINK u.val) || !m.uplRuns u || !m.uplEn u then m
    else if m.isSfp u then
      if m.flag (F.UPL_STATUS_LOS u.val) then m
      else if m.st == xRecovery then (if m.upl[u].sfp.isSome then m.uplUp u 1 else m)
      else match (m.upl[u].sfp).bind (fun k => highestIn (m.uplRange u) k.toNat) with
        | some c => m.uplUp u c
        | none => m
    else match m.upl[u].shift with
      | some t =>
        (match (if offer.getLsbD t then some t else highestIn (m.uplCodes u) offer.toNat) with
         | some c =>
           let old := m.get (F.UPL_STATUS_SPEED u.val)
           let m := m.uplUp u c
           m.when (c != t) (fun m => m.log .uplShift u.val (leBytes 1 old ++ leBytes 1 c))
         | none => m)
      | none =>
        (match highestIn (m.uplRange u) offer.toNat with
         | some c => m.uplUp u c
         | none => m.log .uplNoSpeed u.val [])

/-- PREEMPT_VERIFIED (R311): the partner has answered verification: preemption is active. -/
def execPreemptVerified (u : Fin 2) (s : State) : Out :=
  onMod s fun m => m.when (m.flag (F.UPL_STATUS_LINK u.val) && m.uplSet u F.UPL_CFG_PREEMPT_EN != 0) (fun m => m.set (F.UPL_STATUS_PREEMPT_ACTIVE u.val) 1)

/-- UPL_LINK_DOWN (R323): An uplink goes down and its queued PTP and TX frames are discarded. -/
def execUplLinkDown (u : Fin 2) (s : State) : Out :=
  onMod s fun m => m.when (m.flag (F.UPL_STATUS_LINK u.val)) (fun m => m.uplDown u)

/-- SFP_INSERT (R308): `declares` holds the speed codes that the transceiver declares under SFF-8472. -/
def execSfpInsert (declares : BitVec 5) (s : State) : Out :=
  onMod s fun m =>
    if m.fx then
      let m := m.uplMap 0 (fun x => { x with sfp := some declares })
      m.when (m.isOn (swPd 11)) Mod.sfpSeen
    else m

/-- SFP_LOS (R308): the transceiver's loss-of-signal indication as it changes. -/
def execSfpLos (los : Bool) (s : State) : Out :=
  onMod s fun m =>
    if m.fx && m.isOn (swPd 11) && m.flag (F.UPL_STATUS_SFP_PRESENT 0) then
      let m := m.setB (F.UPL_STATUS_LOS 0) los
      m.when (los && m.flag (F.UPL_STATUS_LINK 0)) (fun m => m.uplDown 0)
    else m

/-- SFP_REMOVAL (R308): The SFP+ transceiver is removed; the link goes down and TX_DISABLE is asserted. -/
def execSfpRemoval (s : State) : Out :=
  onMod s fun m =>
    if m.fx then
      let m := m.uplMap 0 (fun x => { x with sfp := none })
      let m := m.when (m.isOn (swPd 11)) (fun m => m.sfpSeen.set (F.UPL_STATUS_LOS 0) 0)
      m.when (m.flag (F.UPL_STATUS_LINK 0)) (fun m => m.uplDown 0)
    else m

/-- LOAD_MEASURE (R312): the transmitted and received bits of the last second; a downshift due is carried out under R314. -/
def execLoadMeasure (u : Fin 2) (tx : BitVec 40) (rx : BitVec 40) (s : State) : Out :=
  onMod s fun m =>
    if m.shifts u then
      let dwell := max 10 (m.uplSet u F.UPL_SHIFT_TIME_DOWN_DWELL)
      let m := m.uplMap u (fun x =>
        let l := x.loads ++ [max tx.toNat rx.toNat]
        { x with loads := l.drop (l.length - dwell), rx := rx.toNat })
      match m.downTarget u with
      | some c => m.shiftDue u c true
      | none => m
    else m

/-- UPSHIFT_DUE (R313): Transmit cells above UP_THR for 10 ms, or receive rate above UP_RX for 1 s, make an upshift due. -/
def execUpshiftDue (u : Fin 2) (s : State) : Out :=
  onMod s fun m =>
    if m.shifts u then
      match m.upTarget u with
      | some c => m.shiftDue u c false
      | none => m
    else m

/-- HOLDOFF_EXPIRY (R314): a shift that waited is judged again. -/
def execHoldoffExpiry (u : Fin 2) (s : State) : Out :=
  onMod s fun m =>
    if m.shifts u && m.upl[u].waiting && m.holdoffOver u then
      let m := m.uplMap u (fun x => { x with waiting := false })
      match m.upTarget u, m.downTarget u with
      | some c, _ => m.doShift u c
      | none, some c => if m.uplSet u F.UPL_CFG_SHIFT_GUARD != 0 && m.onlyPtp u then m else m.doShift u c
      | none, none => m
    else m

/-- SHIFT_FAIL (R314): 3 s (75,000,000 TCXO cycles) without a link: the whole range is advertised again. -/
def execShiftFail (u : Fin 2) (s : State) : Out :=
  onMod s fun m =>
    if m.upl[u].shift.isSome && !m.flag (F.UPL_STATUS_LINK u.val) && decide (m.upl[u].shiftAt + 75000000 ≤ m.clk.mono) then
      ((m.uplMap u (fun x => { x with shift := none })).set (F.UPL_STATUS_SHIFTING u.val) 0).log .uplShiftFail u.val []
    else m

/-- The oldest frame of a transmit channel leaves the pool. -/
def Mod.poolTake (m : Mod) (u : Fin 2) (ch : Nat) : Mod :=
  match m.pool.frames.findIdx? (fun f => f.ch == ch) with
  | some i => ({ m with pool := { m.pool with frames := m.pool.frames.eraseIdx i } }).poolMark u
  | none => m

/-- An uplink's transmit channel. -/
def txCh (u : Fin 2) (express : Bool) : Nat := 4 * u.val + (if express then 2 else 3)

/-- TX_FRAME_TIMEOUT (R323): the oldest frame of the channel has waited 50 ms (1,250,000 TCXO cycles) without starting to be sent. -/
def execTxFrameTimeout (u : Fin 2) (express : Bool) (s : State) : Out :=
  onMod s fun m =>
    if ((m.pool.frames.find? (fun f => f.ch == txCh u express)).any (fun f => decide (f.at_ + 1250000 ≤ m.clk.mono))) then
      (m.poolTake u (txCh u express)).poolDrop (Fin.ofNat 12 (txCh u express))
    else m

/-- The earliest instant at which a frame can have started to be sent: stored, and the frame before it gone. -/
def Mod.txFrom (m : Mod) (u : Fin 2) (f : PoolFrame) : Nat := max f.at_ m.upl[u].sentAt

/-- A PAUSE or PFC frame stops a frame that had not started to be sent when it came (R315). -/
def Mod.txStopped (m : Mod) (u : Fin 2) (express : Bool) (f : PoolFrame) : Bool :=
  let x := m.upl[u]
  let held (w : Nat × Nat) : Bool := decide (w.1 ≤ m.txFrom u f) && decide (m.clk.mono < w.2)
  let pcp : Fin 8 := Fin.ofNat 8 (if express then m.uplSet u F.UPL_VLAN_PCP_EXP else m.uplSet u F.UPL_VLAN_PCP_PRE)
  held x.stop || (m.uplVid u != 0 && held x.pfc[pcp])

/-- An express frame waits that a preemptable frame cannot have been sent ahead of (R310). -/
def Mod.txBehind (m : Mod) (u : Fin 2) (f : PoolFrame) : Bool :=
  (m.pool.frames.find? (fun e => e.ch == txCh u true)).any (fun e => decide (e.at_ ≤ m.txFrom u f) && !m.txStopped u true e)

/-- FRAME_SENT (R321): frames of a class leave in the order in which they were stored. -/
def execFrameSent (u : Fin 2) (express : Bool) (s : State) : Out :=
  onMod s fun m =>
    match m.pool.frames.find? (fun f => f.ch == txCh u express) with
    | some f =>
      if m.flag (F.UPL_STATUS_LINK u.val) && !m.txStopped u express f && (express || !m.txBehind u f) then
        let m := (m.poolTake u (txCh u express)).addWrap (F.UPL_TX_FRAMES_COUNT u.val) 1
        m.uplMap u (fun x => { x with sentAt := m.clk.mono })
      else m
    | none => m

/-- POOL_CLEAR_DONE (R319): with its pool cleared, 420 µs (10,500 TCXO cycles) after its switch-on, PD14 is usable. -/
def execPoolClearDone (s : State) : Out :=
  onMod s fun m => m.when ((m.sw[swPd 14]).ph == .powering && m.swPast (swPd 14) 10500) (fun m => m.pdSeen 14)

/-- A session may write an uplink's staged copy, APPLY and REVERT (R318). -/
def Mod.uplMay (m : Mod) (h : Nat) (u : Fin 2) : Bool := m.isO0V h && m.isOn (swPd (pdUpl u))

/-- UPL_APPLY (R318): A write of CTRL.APPLY makes the staged uplink set live and pending. -/
def execUplApply (h : BitVec 10) (u : Fin 2) (s : State) : Out :=
  onMod s fun m => m.when (m.uplMay h.toNat u) (fun m => m.uplApply u none)

/-- UPL_CONFIRM (R318): any session on the same uplink confirms. -/
def execUplConfirm (h : BitVec 10) (u : Fin 2) (s : State) : Out :=
  onMod s fun m => m.when (((m.sess h.toNat).map (·.transport)) == some u.val && m.isOn (swPd (pdUpl u))) (fun m => m.uplConfirm u none)

/-- UPL_REVERT (R318): A write of CTRL.REVERT returns to the previous settings and logs EV_UPL_REVERTED. -/
def execUplRevert (h : BitVec 10) (u : Fin 2) (s : State) : Out :=
  onMod s fun m => m.when (m.uplMay h.toNat u) (fun m => m.uplRevert u)

/-- UPL_CONFIRM_TIMEOUT (R318): 120 s (3,000,000,000 TCXO cycles) without a confirmation. -/
def execUplConfirmTimeout (u : Fin 2) (s : State) : Out :=
  onMod s fun m => m.when (decide (m.upl[u].appliedAt + 3000000000 ≤ m.clk.mono)) (fun m => m.uplRevert u)

end Sys2Proof.Machine
end

