-- ==== Sys2Proof/Machine/Dispatch.lean ====
section
/-! DEFINITION. The meaning of every command: one arm per constructor of Instr. -/

namespace Sys2Proof.Machine

def exec (i : Instr) (s : State) : Host.Outcome State Fault Refusal :=
  match i with
  | .drumNop t => Sys2Proof.Machine.execDrumNop t s
  | .wakeF t => Sys2Proof.Machine.execWakeF t s
  | .wakeM t => Sys2Proof.Machine.execWakeM t s
  | .freeze t mask => Sys2Proof.Machine.execFreeze t mask s
  | .burst t mask seq => Sys2Proof.Machine.execBurst t mask seq s
  | .burstEnd => Sys2Proof.Machine.execBurstEnd s
  | .launch t c => Sys2Proof.Machine.execLaunch t c s
  | .loopRun t n => Sys2Proof.Machine.execLoopRun t n s
  | .loopLatch t n done => Sys2Proof.Machine.execLoopLatch t n done s
  | .poll t p ix => Sys2Proof.Machine.execPoll t p ix s
  | .meterWin t len => Sys2Proof.Machine.execMeterWin t len s
  | .mirror t dir list => Sys2Proof.Machine.execMirror t dir list s
  | .mgmtWin t sramBad flashBad copyOk alive hits => Sys2Proof.Machine.execMgmtWin t sramBad flashBad copyOk alive hits s
  | .stopF t => Sys2Proof.Machine.execStopF t s
  | .domain t d on => Sys2Proof.Machine.execDomain t d on s
  | .pllFLock => Sys2Proof.Machine.execPllFLock s
  | .pllLockLate t => Sys2Proof.Machine.execPllLockLate t s
  | .watchdogDeadline t => Sys2Proof.Machine.execWatchdogDeadline t s
  | .safeTableCrcCheck ok => Sys2Proof.Machine.execSafeTableCrcCheck ok s
  | .rcOscMeasure freq => Sys2Proof.Machine.execRcOscMeasure freq s
  | .safetySelftest pass => Sys2Proof.Machine.execSafetySelftest pass s
  | .mgmtSupervisor => Sys2Proof.Machine.execMgmtSupervisor s
  | .supervisorRestart => Sys2Proof.Machine.execSupervisorRestart s
  | .autoRestart => Sys2Proof.Machine.execAutoRestart s
  | .enterRun t => Sys2Proof.Machine.execEnterRun t s
  | .serviceTimeout => Sys2Proof.Machine.execServiceTimeout s
  | .retainSnapshot => Sys2Proof.Machine.execRetainSnapshot s
  | .bitCycle steps => Sys2Proof.Machine.execBitCycle steps s
  | .bitOverrun => Sys2Proof.Machine.execBitOverrun s
  | .planBuildComplete r => Sys2Proof.Machine.execPlanBuildComplete r s
  | .swapWindowOpen => Sys2Proof.Machine.execSwapWindowOpen s
  | .planSwap => Sys2Proof.Machine.execPlanSwap s
  | .nop ln => Sys2Proof.Machine.execNop ln s
  | .endTask ln => Sys2Proof.Machine.execEndTask ln s
  | .br ln off => Sys2Proof.Machine.execBr ln off s
  | .bt ln d off => Sys2Proof.Machine.execBt ln d off s
  | .bf ln d off => Sys2Proof.Machine.execBf ln d off s
  | .bnv ln d off => Sys2Proof.Machine.execBnv ln d off s
  | .repeat ln d count body => Sys2Proof.Machine.execRepeat ln d count body s
  | .ldp ln d p => Sys2Proof.Machine.execLdp ln d p s
  | .stp ln d p => Sys2Proof.Machine.execStp ln d p s
  | .ldage ln d p => Sys2Proof.Machine.execLdage ln d p s
  | .ldchg ln d p => Sys2Proof.Machine.execLdchg ln d p s
  | .ldi ln d imm => Sys2Proof.Machine.execLdi ln d imm s
  | .ldix ln d w => Sys2Proof.Machine.execLdix ln d w s
  | .ldir ln d w => Sys2Proof.Machine.execLdir ln d w s
  | .ldk ln d k => Sys2Proof.Machine.execLdk ln d k s
  | .ldkx ln d a k cnt => Sys2Proof.Machine.execLdkx ln d a k cnt s
  | .mov ln d a => Sys2Proof.Machine.execMov ln d a s
  | .ldm ln d n w => Sys2Proof.Machine.execLdm ln d n w s
  | .stm ln d n w => Sys2Proof.Machine.execStm ln d n w s
  | .ldmx ln d a n w cnt => Sys2Proof.Machine.execLdmx ln d a n w cnt s
  | .stmx ln d a n w cnt => Sys2Proof.Machine.execStmx ln d a n w cnt s
  | .ldt ln d => Sys2Proof.Machine.execLdt ln d s
  | .addI ln d a b => Sys2Proof.Machine.execAddI ln d a b s
  | .subI ln d a b => Sys2Proof.Machine.execSubI ln d a b s
  | .mulI ln d a b => Sys2Proof.Machine.execMulI ln d a b s
  | .divI ln d a b => Sys2Proof.Machine.execDivI ln d a b s
  | .modI ln d a b => Sys2Proof.Machine.execModI ln d a b s
  | .negI ln d a => Sys2Proof.Machine.execNegI ln d a s
  | .absI ln d a => Sys2Proof.Machine.execAbsI ln d a s
  | .minI ln d a b => Sys2Proof.Machine.execMinI ln d a b s
  | .maxI ln d a b => Sys2Proof.Machine.execMaxI ln d a b s
  | .limI ln d a b => Sys2Proof.Machine.execLimI ln d a b s
  | .addiI ln d a imm => Sys2Proof.Machine.execAddiI ln d a imm s
  | .addL ln d a b => Sys2Proof.Machine.execAddL ln d a b s
  | .subL ln d a b => Sys2Proof.Machine.execSubL ln d a b s
  | .mulL ln d a b => Sys2Proof.Machine.execMulL ln d a b s
  | .divL ln d a b => Sys2Proof.Machine.execDivL ln d a b s
  | .negL ln d a => Sys2Proof.Machine.execNegL ln d a s
  | .absL ln d a => Sys2Proof.Machine.execAbsL ln d a s
  | .minL ln d a b => Sys2Proof.Machine.execMinL ln d a b s
  | .maxL ln d a b => Sys2Proof.Machine.execMaxL ln d a b s
  | .limL ln d a b => Sys2Proof.Machine.execLimL ln d a b s
  | .addF ln d a b => Sys2Proof.Machine.execAddF ln d a b s
  | .subF ln d a b => Sys2Proof.Machine.execSubF ln d a b s
  | .mulF ln d a b => Sys2Proof.Machine.execMulF ln d a b s
  | .divF ln d a b => Sys2Proof.Machine.execDivF ln d a b s
  | .sqrtF ln d a => Sys2Proof.Machine.execSqrtF ln d a s
  | .negF ln d a => Sys2Proof.Machine.execNegF ln d a s
  | .absF ln d a => Sys2Proof.Machine.execAbsF ln d a s
  | .minF ln d a b => Sys2Proof.Machine.execMinF ln d a b s
  | .maxF ln d a b => Sys2Proof.Machine.execMaxF ln d a b s
  | .limF ln d a b => Sys2Proof.Machine.execLimF ln d a b s
  | .macF ln d a b => Sys2Proof.Machine.execMacF ln d a b s
  | .i2l ln d a => Sys2Proof.Machine.execI2l ln d a s
  | .l2i ln d a => Sys2Proof.Machine.execL2i ln d a s
  | .i2f ln d a => Sys2Proof.Machine.execI2f ln d a s
  | .f2i ln d a => Sys2Proof.Machine.execF2i ln d a s
  | .l2f ln d a => Sys2Proof.Machine.execL2f ln d a s
  | .f2l ln d a => Sys2Proof.Machine.execF2l ln d a s
  | .and64 ln d a b => Sys2Proof.Machine.execAnd64 ln d a b s
  | .or64 ln d a b => Sys2Proof.Machine.execOr64 ln d a b s
  | .xor64 ln d a b => Sys2Proof.Machine.execXor64 ln d a b s
  | .notB ln d a => Sys2Proof.Machine.execNotB ln d a s
  | .inv64 ln d a => Sys2Proof.Machine.execInv64 ln d a s
  | .shl ln d a b => Sys2Proof.Machine.execShl ln d a b s
  | .shr ln d a b => Sys2Proof.Machine.execShr ln d a b s
  | .sar ln d a b => Sys2Proof.Machine.execSar ln d a b s
  | .cmpI ln d a b c => Sys2Proof.Machine.execCmpI ln d a b c s
  | .cmpL ln d a b c => Sys2Proof.Machine.execCmpL ln d a b c s
  | .cmpF ln d a b c => Sys2Proof.Machine.execCmpF ln d a b c s
  | .sel ln d a b => Sys2Proof.Machine.execSel ln d a b s
  | .qld ln d a => Sys2Proof.Machine.execQld ln d a s
  | .qtst ln d a mask => Sys2Proof.Machine.execQtst ln d a mask s
  | .qset ln d mask => Sys2Proof.Machine.execQset ln d mask s
  | .qval ln d => Sys2Proof.Machine.execQval ln d s
  | .qcpy ln d a => Sys2Proof.Machine.execQcpy ln d a s
  | .ton ln d n => Sys2Proof.Machine.execTon ln d n s
  | .tof ln d n => Sys2Proof.Machine.execTof ln d n s
  | .tp ln d n => Sys2Proof.Machine.execTp ln d n s
  | .ctu ln d n => Sys2Proof.Machine.execCtu ln d n s
  | .ctd ln d n => Sys2Proof.Machine.execCtd ln d n s
  | .rTrig ln d n => Sys2Proof.Machine.execRTrig ln d n s
  | .fTrig ln d n => Sys2Proof.Machine.execFTrig ln d n s
  | .srBlk ln d n => Sys2Proof.Machine.execSrBlk ln d n s
  | .rsBlk ln d n => Sys2Proof.Machine.execRsBlk ln d n s
  | .inx ln p => Sys2Proof.Machine.execInx ln p s
  | .outx ln p => Sys2Proof.Machine.execOutx ln p s
  | .bitNop => Sys2Proof.Machine.execBitNop s
  | .bitLd area n => Sys2Proof.Machine.execBitLd area n s
  | .bitLdn area n => Sys2Proof.Machine.execBitLdn area n s
  | .bitAnd area n => Sys2Proof.Machine.execBitAnd area n s
  | .bitAndn area n => Sys2Proof.Machine.execBitAndn area n s
  | .bitOr area n => Sys2Proof.Machine.execBitOr area n s
  | .bitOrn area n => Sys2Proof.Machine.execBitOrn area n s
  | .bitXor area n => Sys2Proof.Machine.execBitXor area n s
  | .bitSt area n => Sys2Proof.Machine.execBitSt area n s
  | .bitStn area n => Sys2Proof.Machine.execBitStn area n s
  | .bitSet area n => Sys2Proof.Machine.execBitSet area n s
  | .bitRst area n => Sys2Proof.Machine.execBitRst area n s
  | .bitPush => Sys2Proof.Machine.execBitPush s
  | .bitPopand => Sys2Proof.Machine.execBitPopand s
  | .bitPopor => Sys2Proof.Machine.execBitPopor s
  | .bitPop => Sys2Proof.Machine.execBitPop s
  | .bitNota => Sys2Proof.Machine.execBitNota s
  | .bitJc off => Sys2Proof.Machine.execBitJc off s
  | .bitJnc off => Sys2Proof.Machine.execBitJnc off s
  | .bitJmp off => Sys2Proof.Machine.execBitJmp off s
  | .bitEnd => Sys2Proof.Machine.execBitEnd s
  | .ptpSync u h origin rx => Sys2Proof.Machine.execPtpSync u h origin rx s
  | .sourceQualified x => Sys2Proof.Machine.execSourceQualified x s
  | .ptpAnnounce u h a => Sys2Proof.Machine.execPtpAnnounce u h a s
  | .announceTimeout u => Sys2Proof.Machine.execAnnounceTimeout u s
  | .syncTimeout u => Sys2Proof.Machine.execSyncTimeout u s
  | .tsyncInEdge t => Sys2Proof.Machine.execTsyncInEdge t s
  | .ppsLoss => Sys2Proof.Machine.execPpsLoss s
  | .tsyncOutPulse => Sys2Proof.Machine.execTsyncOutPulse s
  | .tsyncOutFall => Sys2Proof.Machine.execTsyncOutFall s
  | .timeStep => Sys2Proof.Machine.execTimeStep s
  | .holdoverToFree t => Sys2Proof.Machine.execHoldoverToFree t s
  | .jackInputChange ix level => Sys2Proof.Machine.execJackInputChange ix level s
  | .jackReleaseTimeout ix => Sys2Proof.Machine.execJackReleaseTimeout ix s
  | .jackReset h ix => Sys2Proof.Machine.execJackReset h ix s
  | .jackResetAll h => Sys2Proof.Machine.execJackResetAll h s
  | .jackCompare => Sys2Proof.Machine.execJackCompare s
  | .loopModeRequest h n req => Sys2Proof.Machine.execLoopModeRequest h n req s
  | .loopTuningWrite h n reg w => Sys2Proof.Machine.execLoopTuningWrite h n reg w s
  | .looptestStart h g => Sys2Proof.Machine.execLooptestStart h g s
  | .looptestAbort h g => Sys2Proof.Machine.execLooptestAbort h g s
  | .looptestAnalysis g => Sys2Proof.Machine.execLooptestAnalysis g s
  | .gainSwitch c => Sys2Proof.Machine.execGainSwitch c s
  | .sampleClip c => Sys2Proof.Machine.execSampleClip c s
  | .metBlockEnd temp => Sys2Proof.Machine.execMetBlockEnd temp s
  | .metCalAccumDone => Sys2Proof.Machine.execMetCalAccumDone s
  | .metIntervalBoundary => Sys2Proof.Machine.execMetIntervalBoundary s
  | .metJournal => Sys2Proof.Machine.execMetJournal s
  | .metCalCommit h => Sys2Proof.Machine.execMetCalCommit h s
  | .metCalAccum h => Sys2Proof.Machine.execMetCalAccum h s
  | .metCalDiscard h => Sys2Proof.Machine.execMetCalDiscard h s
  | .metCapStart h => Sys2Proof.Machine.execMetCapStart h s
  | .metCapDone => Sys2Proof.Machine.execMetCapDone s
  | .metEnergyLoRead c e => Sys2Proof.Machine.execMetEnergyLoRead c e s
  | .diFilterChange n level => Sys2Proof.Machine.execDiFilterChange n level s
  | .diStuck n => Sys2Proof.Machine.execDiStuck n s
  | .diChatter n => Sys2Proof.Machine.execDiChatter n s
  | .chatterHoldExpiry n => Sys2Proof.Machine.execChatterHoldExpiry n s
  | .countEdge k rising => Sys2Proof.Machine.execCountEdge k rising s
  | .countWindowEnd => Sys2Proof.Machine.execCountWindowEnd s
  | .countJournal => Sys2Proof.Machine.execCountJournal s
  | .fioCntLoRead k => Sys2Proof.Machine.execFioCntLoRead k s
  | .doShort n => Sys2Proof.Machine.execDoShort n s
  | .doShortRetry n => Sys2Proof.Machine.execDoShortRetry n s
  | .doThermalTrip n => Sys2Proof.Machine.execDoThermalTrip n s
  | .doThermalRecover n => Sys2Proof.Machine.execDoThermalRecover n s
  | .doGroupTrip g ma => Sys2Proof.Machine.execDoGroupTrip g ma s
  | .doGroupRetry g => Sys2Proof.Machine.execDoGroupRetry g s
  | .doGroupLatchClear h g => Sys2Proof.Machine.execDoGroupLatchClear h g s
  | .doScLatchClear h n => Sys2Proof.Machine.execDoScLatchClear h n s
  | .vauxLost mv => Sys2Proof.Machine.execVauxLost mv s
  | .vauxRestored mv => Sys2Proof.Machine.execVauxRestored mv s
  | .doOpenload n ma => Sys2Proof.Machine.execDoOpenload n ma s
  | .aiConversion n x => Sys2Proof.Machine.execAiConversion n x s
  | .aiProtTrip n => Sys2Proof.Machine.execAiProtTrip n s
  | .aiProtReconnect n => Sys2Proof.Machine.execAiProtReconnect n s
  | .aoFault n present => Sys2Proof.Machine.execAoFault n present s
  | .ltCommandFrame n => Sys2Proof.Machine.execLtCommandFrame n s
  | .ltCurrentApply n => Sys2Proof.Machine.execLtCurrentApply n s
  | .ltReport n ma termV => Sys2Proof.Machine.execLtReport n ma termV s
  | .ltOpen n => Sys2Proof.Machine.execLtOpen n s
  | .ltFrameLoss n => Sys2Proof.Machine.execLtFrameLoss n s
  | .ltHoldExpiry n => Sys2Proof.Machine.execLtHoldExpiry n s
  | .ltModemChar n c parityErr => Sys2Proof.Machine.execLtModemChar n c parityErr s
  | .siFilterChange k chB level => Sys2Proof.Machine.execSiFilterChange k chB level s
  | .siDiscrepancy k => Sys2Proof.Machine.execSiDiscrepancy k s
  | .siTestFault k chB => Sys2Proof.Machine.execSiTestFault k chB s
  | .soOffPulse k chB => Sys2Proof.Machine.execSoOffPulse k chB s
  | .soPulseCheck k chB own other => Sys2Proof.Machine.execSoPulseCheck k chB own other s
  | .soDarkFail k chB => Sys2Proof.Machine.execSoDarkFail k chB s
  | .soOnFail k chB => Sys2Proof.Machine.execSoOnFail k chB s
  | .soOverload k chB => Sys2Proof.Machine.execSoOverload k chB s
  | .soBothOn k => Sys2Proof.Machine.execSoBothOn k s
  | .unlockWindowExpiry h => Sys2Proof.Machine.execUnlockWindowExpiry h s
  | .unlockBlockExpiry => Sys2Proof.Machine.execUnlockBlockExpiry s
  | .exchangeReply p kind data recs => Sys2Proof.Machine.execExchangeReply p kind data recs s
  | .attemptTimeout p => Sys2Proof.Machine.execAttemptTimeout p s
  | .canFrameRx p f => Sys2Proof.Machine.execCanFrameRx p f s
  | .canTxError p busError => Sys2Proof.Machine.execCanTxError p busError s
  | .canBusOff p => Sys2Proof.Machine.execCanBusOff p s
  | .canBusOffRecovery p => Sys2Proof.Machine.execCanBusOffRecovery p s
  | .mstpToken p => Sys2Proof.Machine.execMstpToken p s
  | .daliNoPower p mv => Sys2Proof.Machine.execDaliNoPower p mv s
  | .daliPowerRestored p mv => Sys2Proof.Machine.execDaliPowerRestored p mv s
  | .daliEventMessage p addr data => Sys2Proof.Machine.execDaliEventMessage p addr data s
  | .mbusShort => Sys2Proof.Machine.execMbusShort s
  | .mbusRetry => Sys2Proof.Machine.execMbusRetry s
  | .t1lOvercurrent k => Sys2Proof.Machine.execT1lOvercurrent k s
  | .t1lShed power => Sys2Proof.Machine.execT1lShed power s
  | .t1lPowerRetry k => Sys2Proof.Machine.execT1lPowerRetry k s
  | .tcpConnectionClosed p station => Sys2Proof.Machine.execTcpConnectionClosed p station s
  | .passExchange code ended reply => Sys2Proof.Machine.execPassExchange code ended reply s
  | .passWindowEnd p => Sys2Proof.Machine.execPassWindowEnd p s
  | .uplFrameRx u f => Sys2Proof.Machine.execUplFrameRx u f s
  | .pauseFrame u pfc quanta => Sys2Proof.Machine.execPauseFrame u pfc quanta s
  | .uplLinkUp u offer => Sys2Proof.Machine.execUplLinkUp u offer s
  | .preemptVerified u => Sys2Proof.Machine.execPreemptVerified u s
  | .uplLinkDown u => Sys2Proof.Machine.execUplLinkDown u s
  | .sfpInsert declares => Sys2Proof.Machine.execSfpInsert declares s
  | .sfpLos los => Sys2Proof.Machine.execSfpLos los s
  | .loadMeasure u tx rx => Sys2Proof.Machine.execLoadMeasure u tx rx s
  | .upshiftDue u => Sys2Proof.Machine.execUpshiftDue u s
  | .holdoffExpiry u => Sys2Proof.Machine.execHoldoffExpiry u s
  | .shiftFail u => Sys2Proof.Machine.execShiftFail u s
  | .txFrameTimeout u express => Sys2Proof.Machine.execTxFrameTimeout u express s
  | .poolClearDone => Sys2Proof.Machine.execPoolClearDone s
  | .uplApply h u => Sys2Proof.Machine.execUplApply h u s
  | .uplConfirm h u => Sys2Proof.Machine.execUplConfirm h u s
  | .uplRevert h u => Sys2Proof.Machine.execUplRevert h u s
  | .uplConfirmTimeout u => Sys2Proof.Machine.execUplConfirmTimeout u s
  | .orporPacket ch => Sys2Proof.Machine.execOrporPacket ch s
  | .spiWrite len bytes => Sys2Proof.Machine.execSpiWrite len bytes s
  | .spiRead => Sys2Proof.Machine.execSpiRead s
  | .spiStatus => Sys2Proof.Machine.execSpiStatus s
  | .sessionIdleTimeout h => Sys2Proof.Machine.execSessionIdleTimeout h s
  | .opSessProbe => Sys2Proof.Machine.execOpSessProbe s
  | .opSessOpen => Sys2Proof.Machine.execOpSessOpen s
  | .opSessClose h seq => Sys2Proof.Machine.execOpSessClose h seq s
  | .opSessInfo h seq => Sys2Proof.Machine.execOpSessInfo h seq s
  | .opSessList h seq => Sys2Proof.Machine.execOpSessList h seq s
  | .opSessKill h seq => Sys2Proof.Machine.execOpSessKill h seq s
  | .opPtRead h seq => Sys2Proof.Machine.execOpPtRead h seq s
  | .opPtReadRange h seq => Sys2Proof.Machine.execOpPtReadRange h seq s
  | .opPtWrite h seq => Sys2Proof.Machine.execOpPtWrite h seq s
  | .opPtForce h seq => Sys2Proof.Machine.execOpPtForce h seq s
  | .opPtRelease h seq => Sys2Proof.Machine.execOpPtRelease h seq s
  | .opPtForces h seq => Sys2Proof.Machine.execOpPtForces h seq s
  | .opPkgBegin h seq => Sys2Proof.Machine.execOpPkgBegin h seq s
  | .opPkgBlock h seq => Sys2Proof.Machine.execOpPkgBlock h seq s
  | .opPkgEnd h seq => Sys2Proof.Machine.execOpPkgEnd h seq s
  | .opPlanActivate h seq => Sys2Proof.Machine.execOpPlanActivate h seq s
  | .opPlanCancel h seq => Sys2Proof.Machine.execOpPlanCancel h seq s
  | .opPlanRead h seq => Sys2Proof.Machine.execOpPlanRead h seq s
  | .opBitprogLoad h seq => Sys2Proof.Machine.execOpBitprogLoad h seq s
  | .opBitprogRead h seq => Sys2Proof.Machine.execOpBitprogRead h seq s
  | .opRegRead h seq => Sys2Proof.Machine.execOpRegRead h seq s
  | .opRegWrite h seq => Sys2Proof.Machine.execOpRegWrite h seq s
  | .opRegModify h seq => Sys2Proof.Machine.execOpRegModify h seq s
  | .opMetRead h seq => Sys2Proof.Machine.execOpMetRead h seq s
  | .opMetIntervals h seq => Sys2Proof.Machine.execOpMetIntervals h seq s
  | .opMetCapture h seq => Sys2Proof.Machine.execOpMetCapture h seq s
  | .opLoopRead h seq => Sys2Proof.Machine.execOpLoopRead h seq s
  | .opLoopMode h seq => Sys2Proof.Machine.execOpLoopMode h seq s
  | .opLoopTune h seq => Sys2Proof.Machine.execOpLoopTune h seq s
  | .opLoopTest h seq => Sys2Proof.Machine.execOpLoopTest h seq s
  | .opLoopTestRead h seq => Sys2Proof.Machine.execOpLoopTestRead h seq s
  | .opLogAreas h seq => Sys2Proof.Machine.execOpLogAreas h seq s
  | .opLogRead h seq => Sys2Proof.Machine.execOpLogRead h seq s
  | .opTimeGet h seq => Sys2Proof.Machine.execOpTimeGet h seq s
  | .opTimeSet h seq => Sys2Proof.Machine.execOpTimeSet h seq s
  | .opRtcGet h seq => Sys2Proof.Machine.execOpRtcGet h seq s
  | .opRtcSet h seq => Sys2Proof.Machine.execOpRtcSet h seq s
  | .opUpdBegin h seq => Sys2Proof.Machine.execOpUpdBegin h seq s
  | .opUpdBlock h seq => Sys2Proof.Machine.execOpUpdBlock h seq s
  | .opUpdEnd h seq => Sys2Proof.Machine.execOpUpdEnd h seq s
  | .updVerifyComplete pages header => Sys2Proof.Machine.execUpdVerifyComplete pages header s
  | .opUpdActivate h seq => Sys2Proof.Machine.execOpUpdActivate h seq s
  | .updActivation => Sys2Proof.Machine.execUpdActivation s
  | .opUpdStatus h seq => Sys2Proof.Machine.execOpUpdStatus h seq s
  | .opKeyStage h seq => Sys2Proof.Machine.execOpKeyStage h seq s
  | .opKeyVerify h seq => Sys2Proof.Machine.execOpKeyVerify h seq s
  | .opKeyCommit h seq => Sys2Proof.Machine.execOpKeyCommit h seq s
  | .opKeyDiscard h seq => Sys2Proof.Machine.execOpKeyDiscard h seq s
  | .opKeyList h seq => Sys2Proof.Machine.execOpKeyList h seq s
  | .opSafeUnlock h seq => Sys2Proof.Machine.execOpSafeUnlock h seq s
  | .opSafeLock h seq => Sys2Proof.Machine.execOpSafeLock h seq s
  | .opSafePwSet h seq => Sys2Proof.Machine.execOpSafePwSet h seq s
  | .opSafePwClear h seq => Sys2Proof.Machine.execOpSafePwClear h seq s
  | .opSafeAck h seq on => Sys2Proof.Machine.execOpSafeAck h seq on s
  | .opSafeTest h seq badA badB => Sys2Proof.Machine.execOpSafeTest h seq badA badB s
  | .opSafeLogAck h seq => Sys2Proof.Machine.execOpSafeLogAck h seq s
  | .opStateStop h seq => Sys2Proof.Machine.execOpStateStop h seq s
  | .opStateRestart h seq => Sys2Proof.Machine.execOpStateRestart h seq s
  | .opStateBit h seq => Sys2Proof.Machine.execOpStateBit h seq s
  | .opStateService h seq => Sys2Proof.Machine.execOpStateService h seq s
  | .opStateRelease h seq => Sys2Proof.Machine.execOpStateRelease h seq s
  | .opStateGet h seq => Sys2Proof.Machine.execOpStateGet h seq s
  | .opPwrStatus h seq => Sys2Proof.Machine.execOpPwrStatus h seq s
  | .opTwinStatus h seq => Sys2Proof.Machine.execOpTwinStatus h seq s
  | .opTwinSwap h seq => Sys2Proof.Machine.execOpTwinSwap h seq s
  | .twinHandover t => Sys2Proof.Machine.execTwinHandover t s
  | .opBusXfer h seq => Sys2Proof.Machine.execOpBusXfer h seq s
  | .opBusResult h seq => Sys2Proof.Machine.execOpBusResult h seq s
  | .opBusRecv h seq => Sys2Proof.Machine.execOpBusRecv h seq s
  | .opDiagOutput h seq => Sys2Proof.Machine.execOpDiagOutput h seq s
  | .opDiagRelease h seq => Sys2Proof.Machine.execOpDiagRelease h seq s
  | .opDiagBanktest h seq => Sys2Proof.Machine.execOpDiagBanktest h seq s
  | .bankTestComplete b bad => Sys2Proof.Machine.execBankTestComplete b bad s
  | .opDiagCounters h seq => Sys2Proof.Machine.execOpDiagCounters h seq s
  | .opDiagEcho h seq => Sys2Proof.Machine.execOpDiagEcho h seq s
  | .storedSetWrite h seq block => Sys2Proof.Machine.execStoredSetWrite h seq block s
  | .suspectClear h b => Sys2Proof.Machine.execSuspectClear h b s
  | .returnLimitWrite h v => Sys2Proof.Machine.execReturnLimitWrite h v s
  | .timeNowLoRead => Sys2Proof.Machine.execTimeNowLoRead s
  | .nvmOptimeLoRead => Sys2Proof.Machine.execNvmOptimeLoRead s
  | .stringLaneUp lane => Sys2Proof.Machine.execStringLaneUp lane s
  | .stringLaneDown lane => Sys2Proof.Machine.execStringLaneDown lane s
  | .splitEnd => Sys2Proof.Machine.execSplitEnd s
  | .twinTimeSend => Sys2Proof.Machine.execTwinTimeSend s
  | .twinTimeRx seq lanes sent delay rx tstat exec plan => Sys2Proof.Machine.execTwinTimeRx seq lanes sent delay rx tstat exec plan s
  | .barFrameRx seq lanes claim at_ => Sys2Proof.Machine.execBarFrameRx seq lanes claim at_ s
  | .mirrorFrameRx seq lanes tile bytes crc => Sys2Proof.Machine.execMirrorFrameRx seq lanes tile bytes crc s
  | .forwardFrameRx seq lanes items => Sys2Proof.Machine.execForwardFrameRx seq lanes items s
  | .writeFrameRx seq lanes ops => Sys2Proof.Machine.execWriteFrameRx seq lanes ops s
  | .streamFrameRx seq lanes k => Sys2Proof.Machine.execStreamFrameRx seq lanes k s
  | .orporFrameRx seq lanes via packet => Sys2Proof.Machine.execOrporFrameRx seq lanes via packet s
  | .controlFrameRx seq lanes k => Sys2Proof.Machine.execControlFrameRx seq lanes k s
  | .stepLost => Sys2Proof.Machine.execStepLost s
  | .barLineChange line => Sys2Proof.Machine.execBarLineChange line s
  | .takeover t => Sys2Proof.Machine.execTakeover t s
  | .rejoinCopyComplete => Sys2Proof.Machine.execRejoinCopyComplete s
  | .rejoinInStep t => Sys2Proof.Machine.execRejoinInStep t s
  | .twinSelftestPass => Sys2Proof.Machine.execTwinSelftestPass s
  | .twinReturn t => Sys2Proof.Machine.execTwinReturn t s
  | .sideBWaitTimeout => Sys2Proof.Machine.execSideBWaitTimeout s
  | .flashProgramDone => Sys2Proof.Machine.execFlashProgramDone s
  | .sectorEraseDone => Sys2Proof.Machine.execSectorEraseDone s
  | .marginPassStart => Sys2Proof.Machine.execMarginPassStart s
  | .marginSectorRead sector differs last => Sys2Proof.Machine.execMarginSectorRead sector differs last s
  | .optimeTick x => Sys2Proof.Machine.execOptimeTick x s
  | .repeatHoldExpiry a => Sys2Proof.Machine.execRepeatHoldExpiry a s
  | .rateWindowClose a num => Sys2Proof.Machine.execRateWindowClose a num s
  | .rtcSecondTick => Sys2Proof.Machine.execRtcSecondTick s
  | .rtcCommit h => Sys2Proof.Machine.execRtcCommit h s
  | .rtcShadowFreeze => Sys2Proof.Machine.execRtcShadowFreeze s
  | .rtcFreezeTimeout => Sys2Proof.Machine.execRtcFreezeTimeout s
  | .rtcSync => Sys2Proof.Machine.execRtcSync s
  | .rtcOscStop => Sys2Proof.Machine.execRtcOscStop s
  | .keyRemaskPass => Sys2Proof.Machine.execKeyRemaskPass s
  | .stagedKeyExpiry ix => Sys2Proof.Machine.execStagedKeyExpiry ix s
  | .fwConfirm => Sys2Proof.Machine.execFwConfirm s
  | .vinValid vin pins => Sys2Proof.Machine.execVinValid vin pins s
  | .holdupReady => Sys2Proof.Machine.execHoldupReady s
  | .tcxoStable => Sys2Proof.Machine.execTcxoStable s
  | .firmwareVerified scap vbat => Sys2Proof.Machine.execFirmwareVerified scap vbat s
  | .planArmed => Sys2Proof.Machine.execPlanArmed s
  | .powerFailWarning vin holdup => Sys2Proof.Machine.execPowerFailWarning vin holdup s
  | .saveDone holdup => Sys2Proof.Machine.execSaveDone holdup s
  | .vinReturn pins => Sys2Proof.Machine.execVinReturn pins s
  | .holdupExhausted steps => Sys2Proof.Machine.execHoldupExhausted steps s
  | .resetPin => Sys2Proof.Machine.execResetPin s
  | .resetRelease pins => Sys2Proof.Machine.execResetRelease pins s
  | .domainPowerGood d => Sys2Proof.Machine.execDomainPowerGood d s
  | .domainShutdownDone f => Sys2Proof.Machine.execDomainShutdownDone f s
  | .pendingOnExecute f => Sys2Proof.Machine.execPendingOnExecute f s
  | .domainFault d => Sys2Proof.Machine.execDomainFault d s
  | .tcxoFail => Sys2Proof.Machine.execTcxoFail s
  | .tcxoRecovered => Sys2Proof.Machine.execTcxoRecovered s
  | .tcxoRecoveryTimeout => Sys2Proof.Machine.execTcxoRecoveryTimeout s
  | .pllUnlock p us => Sys2Proof.Machine.execPllUnlock p us s
  | .metSample cur vol => Sys2Proof.Machine.execMetSample cur vol s
  | .ptpDelayResponse u h peer delay => Sys2Proof.Machine.execPtpDelayResponse u h peer delay s
  | .islandPowerUp n => Sys2Proof.Machine.execIslandPowerUp n s
  | .daliCollision p => Sys2Proof.Machine.execDaliCollision p s
  | .canFrameTransmitted p => Sys2Proof.Machine.execCanFrameTransmitted p s
  | .canRxError p by8 => Sys2Proof.Machine.execCanRxError p by8 s
  | .poweredDeviceDetected k present cls => Sys2Proof.Machine.execPoweredDeviceDetected k present cls s
  | .fieldEthernetFrame p kind data => Sys2Proof.Machine.execFieldEthernetFrame p kind data s
  | .sfpRemoval => Sys2Proof.Machine.execSfpRemoval s
  | .frameSent u express => Sys2Proof.Machine.execFrameSent u express s
  | .offPulseEnd k chB => Sys2Proof.Machine.execOffPulseEnd k chB s
  | .slotWriteComplete which => Sys2Proof.Machine.execSlotWriteComplete which s
  | .crystalRestart => Sys2Proof.Machine.execCrystalRestart s
  | .backupSupplyLost => Sys2Proof.Machine.execBackupSupplyLost s
  | .pllRelock p => Sys2Proof.Machine.execPllRelock p s
  | .bootDomainRetry => Sys2Proof.Machine.execBootDomainRetry s
  | .lifecycleAdvance signer sig unit => Sys2Proof.Machine.execLifecycleAdvance signer sig unit s

end Sys2Proof.Machine
end

