-- ==== Sys2Proof/WellFormed.lean ====
section
/-! DEFINITION. Well-formed commands: operands within what the manual lets them carry. A command outside them has a meaning all the
same (every meaning is total); the statements that need the bounds name them. -/

namespace Sys2Proof

open Machine

/-- A building time or TCXO span: 64 bits of nanoseconds (R148). -/
def isInstant (t : Nat) : Bool := decide (t < 2 ^ 64)
/-- A tile number: 8,192 tiles (R30). -/
def isTile (t : Nat) : Bool := decide (t < 8192)
/-- A bit of an area that a bit instruction reads (R145). -/
def bitOperand (area : BitVec 3) (n : BitVec 8) : Bool :=
  match area.toNat with
  | 0 => decide (n.toNat < 48) | 1 => decide (n.toNat < 24) | 2 => decide (n.toNat < 16) | 3 => decide (n.toNat < 8)
  | 4 => true | 5 => decide (n.toNat < 2) | _ => false
/-- A bit of an area that a bit instruction writes (R146): DO, SO or a flag. -/
def bitTarget (area : BitVec 3) (n : BitVec 8) : Bool :=
  bitOperand area n && (decide (area = 1) || decide (area = 3) || decide (area = 4))

namespace Machine

/-- A CAN frame (R290): an identifier of 11 or 29 bits, data of 0 to 8 bytes, or of an FD length up to 64. -/
def CanFrame.wf (f : CanFrame) : Bool :=
  decide (f.id < (if f.xtd then 2 ^ 29 else 2 ^ 11)) &&
    (decide (f.data.length ≤ 8) || (f.fdf && [12, 16, 20, 24, 32, 48, 64].contains f.data.length))
/-- A frame on an uplink (R309, R311): its length, a VID of 12 bits, an Orpor packet of at most 1,448 bytes (R329). -/
def UplFrame.wf (f : UplFrame) : Bool :=
  decide (f.len ≤ 2000) && f.vid.all (fun v => decide (v < 4096)) &&
    (match f.kind with | .orpor p => decide (p.length ≤ 1448) | .answered => true | .ptp => true | .other => true)
/-- A tile of 256 bytes, or a loop's retain record (R356). -/
def StreamKind.wf : StreamKind → Bool
  | .tile t bytes _ => isTile t && decide (bytes.length = 256)
  | .loop n _ => decide (n < 256)
/-- What a CONTROL frame carries: seconds of 34 bits and codes of a word. -/
def CtlKind.wf : CtlKind → Bool
  | .info major _ _ => decide (major < 256)
  | .start s => decide (s < 2 ^ 34) | .arm s => decide (s < 2 ^ 34) | .confirm s => decide (s < 2 ^ 34)
  | .handover s => decide (s < 2 ^ 34)
  | .plan _ => true
  | .command op arg => decide (op < 65536) && decide (arg < 2 ^ 32)
  | .verified => true | .activate => true | .ready _ => true
/-- A point write, force or release that names one of the 8,192 points (R22). -/
def PtOp.wf : PtOp → Bool
  | .write p _ => decide (p < 8192) | .force p _ => decide (p < 8192) | .release p => decide (p < 8192)
/-- The measurements of R501 and R503: at most as many rails, currents and temperatures as registers hold them. -/
def Meas.wf (x : Meas) : Bool := decide (x.rails.length ≤ 8) && decide (x.currents.length ≤ 15) && decide (x.temps.length ≤ 4)
/-- A disturbed tile byte or directory entry (R35, R46): a tile, a byte of it, a bit pattern that is not 0. -/
def Upset.wf : Upset → Bool
  | .byte t off b => isTile t && decide (off < 256) && decide (b ≠ 0)
  | .single t => isTile t | .double t => isTile t | .kind t => isTile t
/-- A check number of R76 with a detail word. -/
def BuildResult.wf : BuildResult → Bool
  | .plan _ => true
  | .failed check detail => decide (check < 256) && decide (detail < 2 ^ 32)

end Machine

/-- The command's operands are within their ranges. -/
def Instr.wf : Instr → Bool
  | .drumNop t => isInstant t
  | .wakeF t => isInstant t
  | .wakeM t => isInstant t
  | .freeze t _ => isInstant t
  | .burst t _ _ => isInstant t
  | .burstEnd => true
  | .launch t _ => isInstant t
  | .loopRun t _ => isInstant t
  | .loopLatch t _ _ => isInstant t
  | .poll t _ _ => isInstant t
  | .meterWin t _ => isInstant t
  | .mirror t _ _ => isInstant t
  | .mgmtWin t sramBad flashBad _ _ hits => isInstant t && (sramBad ++ flashBad).all isTile && hits.all Upset.wf
  | .stopF t => isInstant t
  | .domain t _ _ => isInstant t
  | .pllFLock => true
  | .pllLockLate t => isInstant t
  | .watchdogDeadline t => isInstant t
  | .safeTableCrcCheck _ => true
  | .rcOscMeasure _ => true
  | .safetySelftest _ => true
  | .mgmtSupervisor => true
  | .supervisorRestart => true
  | .autoRestart => true
  | .enterRun t => isInstant t
  | .serviceTimeout => true
  | .retainSnapshot => true
  | .bitCycle _ => true
  | .bitOverrun => true
  | .planBuildComplete r => r.wf
  | .swapWindowOpen => true
  | .planSwap => true
  | .nop _ => true
  | .endTask _ => true
  | .br _ _ => true
  | .bt _ _ _ => true
  | .bf _ _ _ => true
  | .bnv _ _ _ => true
  | .repeat _ _ count body => decide (count.toNat < 256) && decide (0 < body.toNat)
  | .ldp _ _ _ => true
  | .stp _ _ _ => true
  | .ldage _ _ _ => true
  | .ldchg _ _ _ => true
  | .ldi _ _ _ => true
  | .ldix _ _ _ => true
  | .ldir _ _ _ => true
  | .ldk _ _ _ => true
  | .ldkx _ _ _ _ _ => true
  | .mov _ _ _ => true
  | .ldm _ _ _ _ => true
  | .stm _ _ _ _ => true
  | .ldmx _ _ _ _ _ _ => true
  | .stmx _ _ _ _ _ _ => true
  | .ldt _ _ => true
  | .addI _ _ _ _ => true
  | .subI _ _ _ _ => true
  | .mulI _ _ _ _ => true
  | .divI _ _ _ _ => true
  | .modI _ _ _ _ => true
  | .negI _ _ _ => true
  | .absI _ _ _ => true
  | .minI _ _ _ _ => true
  | .maxI _ _ _ _ => true
  | .limI _ _ _ _ => true
  | .addiI _ _ _ _ => true
  | .addL _ _ _ _ => true
  | .subL _ _ _ _ => true
  | .mulL _ _ _ _ => true
  | .divL _ _ _ _ => true
  | .negL _ _ _ => true
  | .absL _ _ _ => true
  | .minL _ _ _ _ => true
  | .maxL _ _ _ _ => true
  | .limL _ _ _ _ => true
  | .addF _ _ _ _ => true
  | .subF _ _ _ _ => true
  | .mulF _ _ _ _ => true
  | .divF _ _ _ _ => true
  | .sqrtF _ _ _ => true
  | .negF _ _ _ => true
  | .absF _ _ _ => true
  | .minF _ _ _ _ => true
  | .maxF _ _ _ _ => true
  | .limF _ _ _ _ => true
  | .macF _ _ _ _ => true
  | .i2l _ _ _ => true
  | .l2i _ _ _ => true
  | .i2f _ _ _ => true
  | .f2i _ _ _ => true
  | .l2f _ _ _ => true
  | .f2l _ _ _ => true
  | .and64 _ _ _ _ => true
  | .or64 _ _ _ _ => true
  | .xor64 _ _ _ _ => true
  | .notB _ _ _ => true
  | .inv64 _ _ _ => true
  | .shl _ _ _ _ => true
  | .shr _ _ _ _ => true
  | .sar _ _ _ _ => true
  | .cmpI _ _ _ _ _ => true
  | .cmpL _ _ _ _ _ => true
  | .cmpF _ _ _ _ _ => true
  | .sel _ _ _ _ => true
  | .qld _ _ _ => true
  | .qtst _ _ _ _ => true
  | .qset _ _ _ => true
  | .qval _ _ => true
  | .qcpy _ _ _ => true
  | .ton _ _ _ => true
  | .tof _ _ _ => true
  | .tp _ _ _ => true
  | .ctu _ _ _ => true
  | .ctd _ _ _ => true
  | .rTrig _ _ _ => true
  | .fTrig _ _ _ => true
  | .srBlk _ _ _ => true
  | .rsBlk _ _ _ => true
  | .inx _ _ => true
  | .outx _ _ => true
  | .bitNop => true
  | .bitLd area n => bitOperand area n
  | .bitLdn area n => bitOperand area n
  | .bitAnd area n => bitOperand area n
  | .bitAndn area n => bitOperand area n
  | .bitOr area n => bitOperand area n
  | .bitOrn area n => bitOperand area n
  | .bitXor area n => bitOperand area n
  | .bitSt area n => bitTarget area n
  | .bitStn area n => bitTarget area n
  | .bitSet area n => bitTarget area n
  | .bitRst area n => bitTarget area n
  | .bitPush => true
  | .bitPopand => true
  | .bitPopor => true
  | .bitPop => true
  | .bitNota => true
  | .bitJc _ => true
  | .bitJnc _ => true
  | .bitJmp _ => true
  | .bitEnd => true
  | .ptpSync _ _ origin rx => isInstant origin && isInstant rx
  | .sourceQualified _ => true
  | .ptpAnnounce _ _ _ => true
  | .announceTimeout _ => true
  | .syncTimeout _ => true
  | .tsyncInEdge t => isInstant t
  | .ppsLoss => true
  | .tsyncOutPulse => true
  | .tsyncOutFall => true
  | .timeStep => true
  | .holdoverToFree t => isInstant t
  | .jackInputChange _ _ => true
  | .jackReleaseTimeout _ => true
  | .jackReset _ _ => true
  | .jackResetAll _ => true
  | .jackCompare => true
  | .loopModeRequest _ _ _ => true
  | .loopTuningWrite _ _ _ _ => true
  | .looptestStart _ _ => true
  | .looptestAbort _ _ => true
  | .looptestAnalysis _ => true
  | .gainSwitch _ => true
  | .sampleClip _ => true
  | .metBlockEnd _ => true
  | .metCalAccumDone => true
  | .metIntervalBoundary => true
  | .metJournal => true
  | .metCalCommit _ => true
  | .metCalAccum _ => true
  | .metCalDiscard _ => true
  | .metCapStart _ => true
  | .metCapDone => true
  | .metEnergyLoRead _ _ => true
  | .diFilterChange _ _ => true
  | .diStuck _ => true
  | .diChatter _ => true
  | .chatterHoldExpiry _ => true
  | .countEdge _ _ => true
  | .countWindowEnd => true
  | .countJournal => true
  | .fioCntLoRead _ => true
  | .doShort _ => true
  | .doShortRetry _ => true
  | .doThermalTrip _ => true
  | .doThermalRecover _ => true
  | .doGroupTrip _ _ => true
  | .doGroupRetry _ => true
  | .doGroupLatchClear _ _ => true
  | .doScLatchClear _ _ => true
  | .vauxLost _ => true
  | .vauxRestored _ => true
  | .doOpenload _ _ => true
  | .aiConversion _ _ => true
  | .aiProtTrip _ => true
  | .aiProtReconnect _ => true
  | .aoFault _ _ => true
  | .ltCommandFrame _ => true
  | .ltCurrentApply _ => true
  | .ltReport _ _ _ => true
  | .ltOpen _ => true
  | .ltFrameLoss _ => true
  | .ltHoldExpiry _ => true
  | .ltModemChar _ _ _ => true
  | .siFilterChange _ _ _ => true
  | .siDiscrepancy _ => true
  | .siTestFault _ _ => true
  | .soOffPulse _ _ => true
  | .soPulseCheck _ _ _ _ => true
  | .soDarkFail _ _ => true
  | .soOnFail _ _ => true
  | .soOverload _ _ => true
  | .soBothOn _ => true
  | .unlockWindowExpiry _ => true
  | .unlockBlockExpiry => true
  | .exchangeReply _ _ data _ => decide (data.length ≤ 1500)
  | .attemptTimeout _ => true
  | .canFrameRx _ f => f.wf
  | .canTxError _ _ => true
  | .canBusOff _ => true
  | .canBusOffRecovery _ => true
  | .mstpToken _ => true
  | .daliNoPower _ _ => true
  | .daliPowerRestored _ _ => true
  | .daliEventMessage _ addr data => decide (addr < 64) && decide (data.length ≤ 3)
  | .mbusShort => true
  | .mbusRetry => true
  | .t1lOvercurrent _ => true
  | .t1lShed power => decide (power.length = 8)
  | .t1lPowerRetry _ => true
  | .tcpConnectionClosed _ station => decide (station < 2 ^ 32)
  | .passExchange _ _ reply => reply.all (fun d => decide (d.length ≤ 1500))
  | .passWindowEnd _ => true
  | .uplFrameRx _ f => f.wf
  | .pauseFrame _ _ _ => true
  | .uplLinkUp _ _ => true
  | .preemptVerified _ => true
  | .uplLinkDown _ => true
  | .sfpInsert _ => true
  | .sfpLos _ => true
  | .loadMeasure _ _ _ => true
  | .upshiftDue _ => true
  | .holdoffExpiry _ => true
  | .shiftFail _ => true
  | .txFrameTimeout _ _ => true
  | .poolClearDone => true
  | .uplApply _ _ => true
  | .uplConfirm _ _ => true
  | .uplRevert _ _ => true
  | .uplConfirmTimeout _ => true
  | .orporPacket _ => true
  | .spiWrite len bytes => decide (bytes.length = len.toNat)
  | .spiRead => true
  | .spiStatus => true
  | .sessionIdleTimeout _ => true
  | .opSessProbe => true
  | .opSessOpen => true
  | .opSessClose _ _ => true
  | .opSessInfo _ _ => true
  | .opSessList _ _ => true
  | .opSessKill _ _ => true
  | .opPtRead _ _ => true
  | .opPtReadRange _ _ => true
  | .opPtWrite _ _ => true
  | .opPtForce _ _ => true
  | .opPtRelease _ _ => true
  | .opPtForces _ _ => true
  | .opPkgBegin _ _ => true
  | .opPkgBlock _ _ => true
  | .opPkgEnd _ _ => true
  | .opPlanActivate _ _ => true
  | .opPlanCancel _ _ => true
  | .opPlanRead _ _ => true
  | .opBitprogLoad _ _ => true
  | .opBitprogRead _ _ => true
  | .opRegRead _ _ => true
  | .opRegWrite _ _ => true
  | .opRegModify _ _ => true
  | .opMetRead _ _ => true
  | .opMetIntervals _ _ => true
  | .opMetCapture _ _ => true
  | .opLoopRead _ _ => true
  | .opLoopMode _ _ => true
  | .opLoopTune _ _ => true
  | .opLoopTest _ _ => true
  | .opLoopTestRead _ _ => true
  | .opLogAreas _ _ => true
  | .opLogRead _ _ => true
  | .opTimeGet _ _ => true
  | .opTimeSet _ _ => true
  | .opRtcGet _ _ => true
  | .opRtcSet _ _ => true
  | .opUpdBegin _ _ => true
  | .opUpdBlock _ _ => true
  | .opUpdEnd _ _ => true
  | .updVerifyComplete _ _ => true
  | .opUpdActivate _ _ => true
  | .updActivation => true
  | .opUpdStatus _ _ => true
  | .opKeyStage _ _ => true
  | .opKeyVerify _ _ => true
  | .opKeyCommit _ _ => true
  | .opKeyDiscard _ _ => true
  | .opKeyList _ _ => true
  | .opSafeUnlock _ _ => true
  | .opSafeLock _ _ => true
  | .opSafePwSet _ _ => true
  | .opSafePwClear _ _ => true
  | .opSafeAck _ _ _ => true
  | .opSafeTest _ _ _ _ => true
  | .opSafeLogAck _ _ => true
  | .opStateStop _ _ => true
  | .opStateRestart _ _ => true
  | .opStateBit _ _ => true
  | .opStateService _ _ => true
  | .opStateRelease _ _ => true
  | .opStateGet _ _ => true
  | .opPwrStatus _ _ => true
  | .opTwinStatus _ _ => true
  | .opTwinSwap _ _ => true
  | .twinHandover t => isInstant t
  | .opBusXfer _ _ => true
  | .opBusResult _ _ => true
  | .opBusRecv _ _ => true
  | .opDiagOutput _ _ => true
  | .opDiagRelease _ _ => true
  | .opDiagBanktest _ _ => true
  | .bankTestComplete _ _ => true
  | .opDiagCounters _ _ => true
  | .opDiagEcho _ _ => true
  | .storedSetWrite _ _ _ => true
  | .suspectClear _ _ => true
  | .returnLimitWrite _ _ => true
  | .timeNowLoRead => true
  | .nvmOptimeLoRead => true
  | .stringLaneUp _ => true
  | .stringLaneDown _ => true
  | .splitEnd => true
  | .twinTimeSend => true
  | .twinTimeRx _ _ sent delay rx _ _ _ => isInstant sent && isInstant delay && isInstant rx
  | .barFrameRx _ _ _ at_ => isInstant at_
  | .mirrorFrameRx _ _ _ bytes _ => decide (bytes.length = 256)
  | .forwardFrameRx _ _ items => items.all (fun i => decide (i.1 < 8192))
  | .writeFrameRx _ _ ops => ops.all PtOp.wf
  | .streamFrameRx _ _ k => k.wf
  | .orporFrameRx _ _ _ packet => decide (packet.length ≤ 1448)
  | .controlFrameRx _ _ k => k.wf
  | .stepLost => true
  | .barLineChange _ => true
  | .takeover t => isInstant t
  | .rejoinCopyComplete => true
  | .rejoinInStep t => isInstant t
  | .twinSelftestPass => true
  | .twinReturn t => isInstant t
  | .sideBWaitTimeout => true
  | .flashProgramDone => true
  | .sectorEraseDone => true
  | .marginPassStart => true
  | .marginSectorRead _ _ _ => true
  | .optimeTick x => x.wf
  | .repeatHoldExpiry _ => true
  | .rateWindowClose _ _ => true
  | .rtcSecondTick => true
  | .rtcCommit _ => true
  | .rtcShadowFreeze => true
  | .rtcFreezeTimeout => true
  | .rtcSync => true
  | .rtcOscStop => true
  | .keyRemaskPass => true
  | .stagedKeyExpiry _ => true
  | .fwConfirm => true
  | .vinValid _ _ => true
  | .holdupReady => true
  | .tcxoStable => true
  | .firmwareVerified _ _ => true
  | .planArmed => true
  | .powerFailWarning _ _ => true
  | .saveDone _ => true
  | .vinReturn _ => true
  | .holdupExhausted _ => true
  | .resetPin => true
  | .resetRelease _ => true
  | .domainPowerGood _ => true
  | .domainShutdownDone _ => true
  | .pendingOnExecute _ => true
  | .domainFault _ => true
  | .tcxoFail => true
  | .tcxoRecovered => true
  | .tcxoRecoveryTimeout => true
  | .pllUnlock _ _ => true
  | .metSample cur vol => decide (cur.length = 96) && decide (vol.length = 6)
  | .ptpDelayResponse _ _ _ delay => isInstant delay
  | .islandPowerUp _ => true
  | .daliCollision _ => true
  | .canFrameTransmitted _ => true
  | .canRxError _ _ => true
  | .poweredDeviceDetected _ _ _ => true
  | .fieldEthernetFrame _ _ data => decide (data.length ≤ 1500)
  | .sfpRemoval => true
  | .frameSent _ _ => true
  | .offPulseEnd _ _ => true
  | .slotWriteComplete _ => true
  | .crystalRestart => true
  | .backupSupplyLost => true
  | .pllRelock _ => true
  | .bootDomainRetry => true
  | .lifecycleAdvance signer sig unit => decide (signer.length = 64) && decide (sig.length = 64) && decide (unit.length = 8)

end Sys2Proof
end

