-- ==== Sys2Proof/Safety.lean ====
section
/-! DEFINITION. The terms in which statements about the module are made: what every step keeps, what a command does and what it leaves,
what a lane or the bit machine stands at. -/

namespace Sys2Proof.Machine

/-! ### What every step keeps -/

/-- The register file lists no register at its reset word, tile memory and the lanes' tile buffers list no zero byte, each with its
addresses rising (one list for one content); the RTC shows a possible date and time (R421, R422), and its WDAY is the date's ISO weekday;
a commit that waits for the crystal has a possible date too (R424). -/
structure Kept (rs : List (Nat × Word)) (tiles : List Host.Cell) (lanes : Vector Lane 8) (cal : Cal) (wday : Nat) (waits : Option Cal) :
    Prop where
  regs : regsWf rs = true
  cells : memWf 0 tiles = true
  bufs : ∀ i : Fin 8, memWf 0 lanes[i].buf = true
  date : cal.ok = true
  day : wday = weekday cal
  wait : waits.all Cal.ok = true

/-- `Kept` of the module's own data. -/
def Mod.Inv (m : Mod) : Prop := Kept m.regs m.mem.cells m.lanes m.rtc.cal m.rtc.wday m.rtc.waits

/-! ### What a command does and leaves -/

/-- The command ends in a next state with the same commands waiting, and its module meets `P`. -/
def Does (c : Instr) (s : State) (P : Mod → Prop) : Prop := ∃ t, exec c s = .next t ∧ t.pending = s.pending ∧ P t.m

/-- The parts of the module, beside the registers. -/
inductive Part
  | fx | freeCtr | clk | mem | plan | lanes | exec | outs | bit | retain | logs | sw | nvm | jack | fio | safe | loops | tests | met
  | ports | twin | orpor | upl | pool | rtc | key | pwr | fired
deriving DecidableEq, Repr

/-- The part is the same in both. -/
def Part.same (m m' : Mod) : Part → Prop
  | .fx => m'.fx = m.fx | .freeCtr => m'.freeCtr = m.freeCtr | .clk => m'.clk = m.clk | .mem => m'.mem = m.mem
  | .plan => m'.plan = m.plan | .lanes => m'.lanes = m.lanes | .exec => m'.exec = m.exec | .outs => m'.outs = m.outs
  | .bit => m'.bit = m.bit | .retain => m'.retain = m.retain | .logs => m'.logs = m.logs | .sw => m'.sw = m.sw | .nvm => m'.nvm = m.nvm
  | .jack => m'.jack = m.jack | .fio => m'.fio = m.fio | .safe => m'.safe = m.safe | .loops => m'.loops = m.loops
  | .tests => m'.tests = m.tests | .met => m'.met = m.met | .ports => m'.ports = m.ports | .twin => m'.twin = m.twin
  | .orpor => m'.orpor = m.orpor | .upl => m'.upl = m.upl | .pool => m'.pool = m.pool | .rtc => m'.rtc = m.rtc | .key => m'.key = m.key
  | .pwr => m'.pwr = m.pwr | .fired => m'.fired = m.fired

/-- All 32 bits of a register as one field. -/
abbrev whole (a : Nat) : Fld := ⟨a, 0, 32⟩

/-- The frame: from `m` to `m'` nothing but the listed parts and register fields has changed: every other part, and every bit of every
register that lies in none of the fields, is as before. -/
def Only (ps : List Part) (fs : List Fld) (m m' : Mod) : Prop :=
  (∀ p : Part, p ∉ ps → p.same m m') ∧
  ∀ a j, (∀ f ∈ fs, f.addr = a → j < f.lo ∨ f.lo + f.width ≤ j) → (m'.word a).getLsbD j = (m.word a).getLsbD j

/-! ### Lanes (R123 to R131) -/

/-- Lane `i` stands inside its task at the word `w` (and `w2` after it, for an instruction of two words). -/
def Runs (s : State) (i : Fin 8) (w : Nat) (w2 : Option Nat := none) : Prop :=
  let l := s.m.lanes[i]
  l.phase = .exec ∧ l.pc < laneWords s.m i ∧ l.word l.pc = w ∧ w2.all (fun x => l.word (l.pc + 1) == x) = true

/-- The next state in which lane `i` holds `l` and has gone on past `n` words; nothing else is different, but that a task whose last word
was passed ends. -/
def advance (s : State) (i : Fin 8) (n : Nat) (l : Lane) : Out := .next { s with m := putLane s.m i (l.past n) }

/-- The tag of R131, step 4, for a result of the registers `rs`. -/
def tagOf (l : Lane) (rs : List (Fin 16)) (range : Bool) : Tag := combine (rs.map (fun r => l.q[r])) range

/-- Ld takes the exact integer `v` held at the ends of the n-bit range; RANGE where it lay outside (R130, R131). -/
def intResult (n : Nat) (s : State) (i : Fin 8) (l : Lane) (d : Fin 16) (rs : List (Fin 16)) (v : Int) : Out :=
  advance s i 1 (l.wr d (BitVec.ofInt 64 (satInt n v)) (tagOf l rs (decide (v < -(2 : Int) ^ (n - 1) ∨ (2 : Int) ^ (n - 1) ≤ v))))

/-- Ld takes a REAL32; RANGE where it is a NaN or an infinity, or `more` (R130, R131). -/
def realResult (s : State) (i : Fin 8) (l : Lane) (d : Fin 16) (rs : List (Fin 16)) (x : Nat) (more : Bool := false) : Out :=
  advance s i 1 (l.wr d (BitVec.ofNat 64 (x % 2 ^ 32)) (tagOf l rs (fIsNan b32 x || fIsInf b32 x || more)))

/-- Ld takes a value that cannot leave its range (R129, R131). -/
def plainResult (s : State) (i : Fin 8) (l : Lane) (d : Fin 16) (rs : List (Fin 16)) (v : Long) : Out :=
  advance s i 1 (l.wr d v (tagOf l rs false))

/-- Every register and tag but those of `ds`, and every byte of the tile buffer but the `n` from `a` on, are as before, and so are the
place and the REPEAT bodies. -/
def LaneFrame (l l' : Lane) (ds : List (Fin 16)) (a n : Nat) : Prop :=
  (∀ r : Fin 16, r ∉ ds → l'.l[r] = l.l[r] ∧ l'.q[r] = l.q[r]) ∧
  (∀ j, j < a ∨ a + n ≤ j → memRead 0 l'.buf j = memRead 0 l.buf j) ∧ l'.pc = l.pc ∧ l'.rep = l.rep ∧ l'.tiles = l.tiles ∧ l'.task = l.task

/-- The preset of a timer call in whole milliseconds (R138, step 1). -/
def presetMs (v : Long) : Nat := if v.toInt < 0 then 0 else min ((v.toInt.toNat + 999999) / 1000000) 0xFFFFFFFF

/-- What a timer call leaves, Q, RUN and ET being given (R136 to R138): the outputs with the inputs' tag, the instance's 24 bytes, and
nothing else. -/
def TimerLeaves (l l' : Lane) (d : Fin 16) (a : Nat) (q run : Bool) (et : Nat) : Prop :=
  let d1 : Fin 16 := d + 1
  let tag := tagOf l [d, d1] (decide ((l.l[d1]).toInt < 0)) &&& 0x07FF#16
  l'.l[d] = (if q then 1 else 0) ∧ l'.l[d1] = BitVec.ofNat 64 et ∧ l'.q[d] = tag ∧ l'.q[d1] = tag ∧
  l'.rdN a 4 = bits (l.rdN a 4) 8 8 * 256 + 1 + 2 * b2n q + 4 * b2n run + 8 * b2n (asBool l.l[d]) + 16 ∧
  l'.rdN (a + 4) 4 = presetMs l.l[d1] ∧ l'.rdN (a + 8) 8 = et ∧ l'.rdN (a + 16) 8 = l.freeze ∧ LaneFrame l l' [d, d1] a 24

/-- What a call of a counter, an edge detector or a bistable leaves (R136, R139): Q in Ld and, for a counter, CV in the next register, with
the tag of the inputs `rs`; STATE with the stored input `mem`, and the second word `w`; nothing else. -/
def BlockLeaves (l l' : Lane) (d : Fin 16) (rs : List (Fin 16)) (a : Nat) (q mem : Bool) (w : Nat) (cv : Option Int) : Prop :=
  let tag := tagOf l rs false &&& 0x07FF#16
  let d1 : Fin 16 := d + 1
  l'.l[d] = (if q then 1 else 0) ∧ l'.q[d] = tag ∧ (∀ v, cv = some v → l'.l[d1] = BitVec.ofInt 64 v ∧ l'.q[d1] = tag) ∧
  l'.rdN a 4 = bits (l.rdN a 4) 8 8 * 256 + 1 + 2 * b2n q + 8 * b2n mem ∧ l'.rdN (a + 4) 4 = w ∧
  LaneFrame l l' (if cv.isSome then [d, d1] else [d]) a 8

/-! ### The bit machine (R144 to R147) -/

/-- Lane 0 stands in a running bit cycle at the word `w`. -/
abbrev BitRuns (s : State) (w : Nat) : Prop :=
  s.m.inBit = true ∧ s.m.bit.inCycle = true ∧ (s.m.bit.prog[s.m.bit.pc]?).map (fun x => x.toNat) = some w

/-- The next state in which the bit machine holds `b`; where no word is left the cycle ends. -/
def bitNext (s : State) (b : BitSt) : Out := .next { s with m := ({ s.m with bit := b }).bitSettle }

/-- What ST, SET and the like leave where they write `x` (R144, R145): the bit of the DO area, the SO area or the flags holds `x`, every
other bit is as before, and so is the rest of the bit machine, which stands at the next word. -/
def BitStored (b b' : BitSt) (area n : Nat) (x : Bool) : Prop :=
  b' = { b with pc := b.pc + 1, doA := b'.doA, soA := b'.soA, flags := b'.flags } ∧
  ∀ a k, k < areaBits a → b'.read a k = if a = area ∧ k = n ∧ (a = 1 ∨ a = 3 ∨ a = 4) then x else b.read a k

/-- What the end of a bit cycle leaves (R110, R147): each DO and SO channel in the masks takes its bit of the areas, and an output outside the
masks keeps its record; AO and LT take their defaults. -/
def BitCycleEnds (m m' : Mod) (b : BitSt) : Prop :=
  m'.bit = { b with inCycle := false } ∧
  (∀ o : Fin 48, o.val < 24 → (m'.outs[o]).bit = if bitAt b.doMask o.val then some (if b.doA.getLsbD o.val then .on else .off) else none) ∧
  (∀ o : Fin 48, 32 ≤ o.val → o.val < 40 →
    (m'.outs[o]).bit = if bitAt b.soMask ((o.val - 32) / 2) then some (if b.soA.getLsbD (o.val - 32) then .on else .off) else none) ∧
  (∀ o : Fin 48, m'.outs[o] = { m.outs[o] with bit := (m'.outs[o]).bit }) ∧ Only [.bit, .key, .outs] [] m m'

/-! ### Events and states -/

/-- From `m` to `m'` the recorder has taken one event as R404 to R416 have it. -/
abbrev Logs (m m' : Mod) (e : Ev) (source : Nat) (data : List Byte) : Prop := m'.logs = (m.log e source data).logs

/-- STOPPED was entered from the state of `m` (R99, R105, R107, R168): every lane halted, no burst and no watchdog, a safe-state request of
the state on every output, staging, Jack path and bit program off, no swap armed. -/
abbrev Stops (m m' : Mod) : Prop :=
  m'.st = xStopped ∧ m'.get F.EXEC_STATE_PREV = m.st ∧
  (∀ i : Fin 8, (m'.lanes[i]).phase = .halted ∧ (m'.lanes[i]).todo = []) ∧ m'.exec.burst = none ∧ m'.exec.wdArmed = false ∧
  (∀ o : Fin 48, bitAt (m'.outs[o]).req 0 = true ∧ (m'.outs[o]).staged = none ∧ (m'.outs[o]).jack = none ∧ (m'.outs[o]).bit = none) ∧
  m'.jack.enabled = false ∧ m'.jack.active = [] ∧ m'.bit.inCycle = false ∧ m'.flag F.EXEC_BIT_RUNNING = false ∧ m'.plan.armed = none

/-- What entering STOPPED may change. -/
def stopParts : List Part := [.exec, .logs, .twin, .plan, .jack, .outs, .lanes, .bit]
def stopRegs : List Fld :=
  [F.EXEC_STATE_STATE, F.EXEC_STATE_PREV, F.JACK_STATUS_EN, F.JACK_STATUS_ACTIVE, F.JACK_ACT_ACT 0, F.JACK_ACT_ACT 1, F.EXEC_BIT_RUNNING,
   F.TWIN_STATUS_IN_STEP, F.TWIN_STATUS_SELFTEST, F.TWIN_STATUS_JOIN, F.PLAN_STATUS_STATE, F.PLAN_STATUS_CANCELLED, F.LOG_STATUS_WAB_FULL]
/-- What giving up the bar may change. -/
def barRegs : List Fld := [F.TWIN_STATUS_HOLDS_BAR, F.TWIN_BAR_OWN_LINE, F.TWIN_BAR_RETURNS]
/-- What an overrun may change. -/
def overrunRegs : List Fld :=
  [F.EXEC_OVERRUN_CAUSE, F.EXEC_OVERRUN_CLASS, F.EXEC_OVERRUN_LANES, F.EXEC_OVERRUN_BURST, F.EXEC_OVR_TIME_OPTIME, F.EXEC_OVR_COUNT_COUNT]
    ++ barRegs ++ stopRegs

/-- The registers of an overrun (R98, R99). -/
abbrev OverrunShown (m m' : Mod) (cause cls seq lanes : Nat) : Prop :=
  m'.get F.EXEC_OVERRUN_CAUSE = cause ∧ m'.get F.EXEC_OVERRUN_CLASS = cls ∧ m'.get F.EXEC_OVERRUN_BURST = seq ∧
  m'.get F.EXEC_OVERRUN_LANES = lanes ∧ m'.get F.EXEC_OVR_COUNT_COUNT = satNat 32 (m.get F.EXEC_OVR_COUNT_COUNT + 1)

/-! ### Time (R149 to R158) -/

/-- The fields that steering by a source may change. -/
def timeRegs : List Fld :=
  [F.TIME_STATUS_STATE, F.TIME_STATUS_SOURCE, F.TIME_STATUS_SLEWING, F.TIME_STATUS_STEP_PENDING, F.TIME_OFFSET_OFFSET, F.TIME_FREQ_FREQ,
   F.TIME_EVENTS_STEPS, F.TIME_GM_HI_ID_HI, F.TIME_GM_LO_ID_LO, F.TIME_UTC_OFFSET, F.TIME_UTC_VALID, F.TIME_UTC_LEAP61, F.TIME_UTC_LEAP59,
   F.LOG_STATUS_WAB_FULL]

/-- Source `x` took a measurement of `off` (in units of 1/32 ns), good or not; the other sources are as before, and where `x` steers, TIME_OFFSET
shows it held in 32 bits and TIME_FREQ (in units of 0.01 ppb) stays within 200 ppm; where the last second saw no other value of it, it moves by at
most 1 ppm, and not away from what drives the offset towards zero. -/
abbrev Measured (m m' : Mod) (x : Source) (off : Int) (good : Bool) : Prop :=
  (m'.src x).offset = off ∧ (m'.src x).good = (if good then (m.src x).good + 1 else 0) ∧
  (m'.src x).qual = (m.src x).qual ∧ (∀ i : Fin 3, i ≠ srcIdx x → m'.clk.src[i] = m.clk.src[i]) ∧
  (m.bestSrc = some x → m'.clk.selected = some x ∧ m'.get F.TIME_OFFSET_OFFSET = offField off ∧
    -20000000 ≤ toInt 32 (m'.get F.TIME_FREQ_FREQ) ∧ toInt 32 (m'.get F.TIME_FREQ_FREQ) ≤ 20000000 ∧
    (m.clk.recent = [] → -20000000 ≤ toInt 32 (m.get F.TIME_FREQ_FREQ) → toInt 32 (m.get F.TIME_FREQ_FREQ) ≤ 20000000 →
      0 ≤ off.sign * (toInt 32 (m'.get F.TIME_FREQ_FREQ) - toInt 32 (m.get F.TIME_FREQ_FREQ)) ∧
      (toInt 32 (m'.get F.TIME_FREQ_FREQ) - toInt 32 (m.get F.TIME_FREQ_FREQ)).natAbs ≤ 100000))

/-- Source `x` is lost: it is qualified no more and its run of good measurements is empty; a loss of the one that steered is counted, and
LOCKED or EXTERNAL with no other qualified source become HOLDOVER, where the module does not follow its peer. -/
abbrev SourceLost (m m' : Mod) (x : Source) : Prop :=
  (m'.src x).qual = false ∧ (m'.src x).good = 0 ∧ m'.flag (qualFld x) = false ∧ (∀ i : Fin 3, i ≠ srcIdx x → m'.clk.src[i] = m.clk.src[i]) ∧
  m'.get F.TIME_EVENTS_LOSSES = (if m.clk.selected = some x ∧ (m.src x).qual = true then satNat F.TIME_EVENTS_LOSSES.width (m.get F.TIME_EVENTS_LOSSES + 1)
    else m.get F.TIME_EVENTS_LOSSES) ∧
  (m.twin.follower = false → m'.bestSrc = none → m.get F.TIME_STATUS_STATE = syLocked ∨ m.get F.TIME_STATUS_STATE = syExt →
    m'.get F.TIME_STATUS_STATE = syHold ∧ m'.clk.holdEntry = m.clk.ns)

/-- What a lost source may change. -/
def lossRegs (x : Source) : List Fld :=
  [qualFld x, F.TIME_EVENTS_LOSSES, F.TIME_STATUS_STATE, F.TIME_STATUS_SOURCE, F.TIME_STATUS_SLEWING, F.LOG_STATUS_WAB_FULL]

/-- TIME_GM and TIME_UTC show the announce of the master that source `x` has chosen (R152, R171). -/
abbrev MasterShown (m m' : Mod) (x : Source) : Prop :=
  ∀ b, (m'.src x).master = some b →
    m'.get F.TIME_GM_HI_ID_HI = b.2.gm.toNat / 2 ^ 32 ∧ m'.get F.TIME_GM_LO_ID_LO = b.2.gm.toNat % 2 ^ 32 ∧
    m'.get F.TIME_UTC_OFFSET = (if b.2.utcValid then b.2.utc.toNat else m.get F.TIME_UTC_OFFSET) ∧
    m'.flag F.TIME_UTC_VALID = (b.2.utcValid || m.flag F.TIME_UTC_VALID) ∧ m'.flag F.TIME_UTC_LEAP61 = b.2.leap61 ∧
    m'.flag F.TIME_UTC_LEAP59 = b.2.leap59

/-- What an announce may change of them. -/
def masterRegs : List Fld :=
  [F.TIME_GM_HI_ID_HI, F.TIME_GM_LO_ID_LO, F.TIME_UTC_OFFSET, F.TIME_UTC_VALID, F.TIME_UTC_LEAP61, F.TIME_UTC_LEAP59, whole (R.RTC_BKP 14),
   whole (R.RTC_BKP 15)]

/-! ### Field outputs (R241) -/

/-- OPENLOAD of every DO. -/
def openRegs : List Fld := (List.range 24).map F.FIO_DO_STATUS_OPENLOAD

/-- OPENLOAD has ended at every DO whose pin is not on, and stands at the others as before. -/
abbrev OpenEnds (m m' : Mod) : Prop :=
  ∀ k : Fin 24, m'.flag (F.FIO_DO_STATUS_OPENLOAD k.val) = (m.flag (F.FIO_DO_STATUS_OPENLOAD k.val) && m'.pinOn ⟨k.val, by omega⟩)

/-! ### The Jack path (R165 to R168) -/

/-- Entry, output and register view of the Jack path agree with its inputs and latches (R163, R165, R166): the active entries are those with
EN and a true condition or a latch, each output takes the level its active entries drive, JACK_ACT shows them, OPENLOAD ends where an output is off; `m` had the latches
`lat` and the inputs `inp`. -/
abbrev JackFollows (m m' : Mod) (inp : BitVec 24) (lat : List Nat) : Prop :=
  m'.jack.inputs = inp ∧ m'.jack.enabled = true ∧
  (∀ i : Fin 64, m'.jack.active.contains i.val = (m.jackTable[i.val]?).any (jActive inp lat i.val)) ∧
  (∀ i : Fin 64, m'.jack.latched.contains i.val = (m'.jack.active.contains i.val && (m.jackTable[i.val]?).any jLatch)) ∧
  (∀ o : Fin 48, m'.outs[o] = { m.outs[o] with jack := jLevelAt m.jackTable m'.jack.active o.val }) ∧
  (∀ i : Fin 64, bitAt (m'.get (F.JACK_ACT_ACT (i.val / 32))) (i.val % 32) = m'.jack.active.contains i.val) ∧
  (∀ i : Fin 64, bitAt (m'.get (F.JACK_HIT_HIT (i.val / 32))) (i.val % 32) =
    (bitAt (m.get (F.JACK_HIT_HIT (i.val / 32))) (i.val % 32) || (m'.jack.active.contains i.val && !m.jack.active.contains i.val))) ∧
  OpenEnds m m'

/-- What the Jack path may change. -/
def jackRegs : List Fld :=
  [F.JACK_STATUS_ACTIVE, F.JACK_ACT_ACT 0, F.JACK_ACT_ACT 1, F.JACK_HIT_HIT 0, F.JACK_HIT_HIT 1, F.LOG_STATUS_WAB_FULL] ++ openRegs

/-! ### Safety faults (R269, R271) -/

/-- A pair fault takes effect on a pair that held no latch. -/
abbrev PairFaulted (m m' : Mod) (k : Fin 4) (cause : Nat) (chB : Bool) : Prop :=
  m'.safe.latch = m.safe.latch.set k (some (cause, chB)) ∧ m'.flag (F.SAFE_SO_STATUS_FAULT k.val) = true ∧
  m'.get (F.SAFE_SO_STATUS_CAUSE k.val) = cause ∧ m'.flag (F.SAFE_SO_STATUS_CHANNEL k.val) = chB ∧ m'.flag F.SAFE_STATUS_SO_FAULT = true ∧
  bitAt (m'.outs[soOut k false]).req 4 = true ∧ bitAt (m'.outs[soOut k true]).req 4 = true ∧
  Logs m m' .soFault k.val (leBytes 1 k.val ++ leBytes 1 cause ++ leBytes 1 (b2n chB))

/-- What a pair fault may change. -/
def pairParts : List Part := [.outs, .safe, .logs]
def pairRegs (k : Fin 4) : List Fld :=
  [F.SAFE_SO_STATUS_FAULT k.val, F.SAFE_SO_STATUS_CAUSE k.val, F.SAFE_SO_STATUS_CHANNEL k.val, F.SAFE_STATUS_SO_FAULT, F.LOG_STATUS_WAB_FULL]

/-- A module safety fault takes effect: shown with its cause; RUN and STANDBY go to STOPPED; in every other state a request holds every
safety channel. -/
abbrev SafetyFaulted (m m' : Mod) (cause : Nat) : Prop :=
  m'.flag F.SAFE_STATUS_FAULT = true ∧ m'.get F.SAFE_STATUS_CAUSE = cause ∧ (m.running = true → Stops m m') ∧
  (m.running = false → m'.st = m.st ∧ Logs m m' .safeFault cause [] ∧ (∀ o : Fin 48, 32 ≤ o.val → o.val < 40 → bitAt (m'.outs[o]).req 5 = true))

/-- What a module safety fault may change. -/
def faultRegs : List Fld := [F.SAFE_STATUS_FAULT, F.SAFE_STATUS_CAUSE] ++ barRegs ++ stopRegs

/-! ### Field ports (R94, R285, R305) -/

/-- The exchange of request `r` on port `p` has ended, well or not: no exchange runs, the station joins or leaves the failed ones, the
result is counted, and every point of the request has COMMFAIL exactly where it failed. -/
abbrev ExchEnds (m m' : Mod) (p : Fin 19) (r : PollReq) (ok : Bool) : Prop :=
  (m'.ports.port[p]).exch = none ∧
  (m'.ports.port[p]).failed = (if ok then [] else [r.station]) ++ (m.ports.port[p]).failed.filter (fun x => x != r.station) ∧
  m'.get (F.FBUS_STATUS_FAILED p.val) = satNat 8 (m'.ports.port[p]).failed.length ∧ m'.flag (F.FBUS_STATUS_TOKEN p.val) = false ∧
  (if ok then m'.get (F.FBUS_EXCH_COUNT p.val) = (m.get (F.FBUS_EXCH_COUNT p.val) + 1) % 2 ^ (F.FBUS_EXCH_COUNT p.val).width
    else m'.get (F.FBUS_FAILS_COUNT p.val) = satNat (F.FBUS_FAILS_COUNT p.val).width (m.get (F.FBUS_FAILS_COUNT p.val) + 1)) ∧
  (∀ pt ∈ r.points, (m'.bufEnt pt).commFail = !ok) ∧ (∀ q : Fin 19, q ≠ p → m'.ports.port[q] = m.ports.port[q])

/-- What the end of an exchange or of an attempt may change. -/
def exchRegs (p : Fin 19) : List Fld :=
  [F.FBUS_EXCH_COUNT p.val, F.FBUS_FAILS_COUNT p.val, F.FBUS_RETRIES_COUNT p.val, F.FBUS_STATUS_FAILED p.val, F.FBUS_STATUS_TOKEN p.val]

/-- A failed attempt is followed by another, with the same data and a new transaction identifier, and counted in RETRIES. -/
abbrev TriesAgain (m m' : Mod) (p : Fin 19) (e : Exch) : Prop :=
  let x := m.ports.port[p]
  m'.ports = { m.ports with port := m.ports.port.set p { x with
    exch := some { e with attempt := e.attempt + 1, waiting := m.proto p == prMstp, tid := x.tid }, tid := (x.tid + 1) % 65536 } } ∧
  m'.get (F.FBUS_RETRIES_COUNT p.val) = satNat (F.FBUS_RETRIES_COUNT p.val).width (m.get (F.FBUS_RETRIES_COUNT p.val) + 1)

/-- What a CAN port's error counters and state may change. -/
def canRegs (p : Fin 19) : List Fld := [F.FBUS_CAN_ERR_TEC p.val, F.FBUS_CAN_ERR_REC p.val, F.FBUS_CAN_ERR_STATE p.val]

/-- The function is off, and its last shutdown ended at least 50 µs (1,250 TCXO cycles) ago (R472): an enable takes effect at once. -/
abbrev SwReady (m : Mod) (i : Fin 31) : Prop :=
  (m.sw[i]).ph = .off ∧ (m.sw[i]).pendOff = false ∧ (m.sw[i]).offAt.all (fun t => decide (t + 1250 ≤ m.clk.mono)) = true

/-- Only port `p` of the ports differs, and it is `x`. -/
abbrev PortIs (m m' : Mod) (p : Fin 19) (x : PortSt) : Prop := m'.ports = { m.ports with port := m.ports.port.set p x }

/-! ### Uplinks and the frame pool (R311 to R323) -/

/-- The uplinks are as before, but for the instant from which a transmit channel is full (R313). -/
abbrev UplMarked (m m' : Mod) : Prop := ∀ v : Fin 2, m'.upl[v] = { m.upl[v] with fullAt := (m'.upl[v]).fullAt }

/-- Uplink `u` is `x` and the other is as before, but for those instants. -/
abbrev UplIs (m m' : Mod) (u : Fin 2) (x : UplSt) : Prop :=
  m'.upl[u] = { x with fullAt := (m'.upl[u]).fullAt } ∧ ∀ v : Fin 2, v ≠ u → m'.upl[v] = { m.upl[v] with fullAt := (m'.upl[v]).fullAt }

/-- The management core wakes (R18): with PD3 on, PLL-M is on where it can start; no other function changes. -/
abbrev CoreWakes (m m' : Mod) : Prop :=
  (∀ i : Fin 31, i ≠ swPllM → m'.sw[i] = m.sw[i]) ∧ (m.isOn (swPd 3) = true → SwReady m swPllM → m'.isOn swPllM = true)

/-- A region violation is recorded (R44): master, access (1 read, 2 write, 3 fetch), address and count, and logged. -/
abbrev Violated (m m' : Mod) (master access addr : Nat) : Prop :=
  m'.get F.TILE_RV_STATUS_MASTER = master ∧ m'.get F.TILE_RV_STATUS_ACCESS = access ∧ m'.get F.TILE_RV_ADDR_ADDR = addr ∧
  m'.get F.TILE_RV_STATUS_COUNT = satNat F.TILE_RV_STATUS_COUNT.width (m.get F.TILE_RV_STATUS_COUNT + 1) ∧
  Logs m m' .regionViolation master (leBytes 1 master ++ leBytes 1 access ++ leBytes 4 addr)
def violationRegs : List Fld :=
  [F.TILE_RV_STATUS_MASTER, F.TILE_RV_STATUS_ACCESS, F.TILE_RV_ADDR_ADDR, F.TILE_RV_STATUS_COUNT, F.LOG_STATUS_WAB_FULL]

/-- All cells that frames hold. -/
def cellsHeld (m : Mod) : Nat := m.pool.frames.foldl (fun a f => a + f.cells) 0

/-- A frame has taken its cells: it is the newest of the pool, stamped with the TCXO count, and its channel's peak follows. -/
abbrev Stored (m m' : Mod) (f : PoolFrame) : Prop :=
  m'.pool.frames = m.pool.frames ++ [{ f with at_ := m.clk.mono }] ∧ m'.pool.drop = m.pool.drop ∧
  (∀ c : Fin 12, m'.pool.peak[c] = if c.val = f.ch % 12 then max m.pool.peak[c] (m.poolUsed f.ch + f.cells) else m.pool.peak[c])

/-- A frame was lost for want of cells: its channel counts it; the peak shows the cells it held. -/
abbrev Lost (m m' : Mod) (ch : Fin 12) : Prop :=
  m'.pool = { m.pool with drop := m.pool.drop.set ch (satNat 32 (m.pool.drop[ch] + 1)), peak := m'.pool.peak } ∧
  (∀ c : Fin 12, c ≠ ch → m'.pool.peak[c] = m.pool.peak[c]) ∧ m.pool.peak[ch] ≤ m'.pool.peak[ch]

/-- What the loss of a link may change. -/
def linkParts : List Part := [.pool, .clk, .logs, .upl]
def linkRegs (u : Fin 2) : List Fld := [F.UPL_STATUS_LINK u.val, F.UPL_STATUS_PREEMPT_ACTIVE u.val] ++ lossRegs (uplSrc u)

/-- The link is down: it shows no link and no preemption, its transmit channels hold no frame, and its PTP source is not qualified. -/
abbrev LinkLost (m m' : Mod) (u : Fin 2) : Prop :=
  m'.flag (F.UPL_STATUS_LINK u.val) = false ∧ m'.flag (F.UPL_STATUS_PREEMPT_ACTIVE u.val) = false ∧
  (∀ f ∈ m'.pool.frames, f.ch ≠ 4 * u.val + 2 ∧ f.ch ≠ 4 * u.val + 3) ∧
  m'.pool.frames = m.pool.frames.filter (fun f => f.ch != 4 * u.val + 2 && f.ch != 4 * u.val + 3) ∧ (m'.src (uplSrc u)).qual = false

/-- The link is up at a speed: SHIFTING and preemption are 0, loads and pauses start anew. -/
abbrev LinkUpAt (m m' : Mod) (u : Fin 2) (c : Nat) : Prop :=
  m'.flag (F.UPL_STATUS_LINK u.val) = true ∧ m'.get (F.UPL_STATUS_SPEED u.val) = c ∧ m'.flag (F.UPL_STATUS_SHIFTING u.val) = false ∧
  m'.flag (F.UPL_STATUS_PREEMPT_ACTIVE u.val) = false ∧
  m'.upl = m.upl.set u { m.upl[u] with
    upAt := m.optime, shift := none, loads := [], rx := 0, waiting := false, stop := (0, 0), pfc := Vector.replicate 8 (0, 0) }

/-- What link-up may change. -/
def upRegs (u : Fin 2) : List Fld :=
  [F.UPL_STATUS_LINK u.val, F.UPL_STATUS_SPEED u.val, F.UPL_STATUS_SHIFTING u.val, F.UPL_STATUS_PREEMPT_ACTIVE u.val]

/-- A shift to speed `c` has begun on an uplink of state `x`: the link is down and renegotiates with `c` alone; SHIFTS counts it. -/
abbrev ShiftBegun (m m' : Mod) (u : Fin 2) (c : Nat) (x : UplSt) : Prop :=
  LinkLost m m' u ∧ m'.flag (F.UPL_STATUS_SHIFTING u.val) = true ∧
  m'.get (F.UPL_SHIFTS_COUNT u.val) = satNat (F.UPL_SHIFTS_COUNT u.val).width (m.get (F.UPL_SHIFTS_COUNT u.val) + 1) ∧
  UplIs m m' u { x with shift := some c, shiftAt := m.clk.mono, waiting := false } ∧
  ((m.src (uplSrc u)).qual = false → Logs m m' .uplShift u.val (leBytes 1 (m.get (F.UPL_STATUS_SPEED u.val)) ++ leBytes 1 c))

/-! ### Loops (R184, R192, R194) -/

/-- The writes to a loop's register `reg` that R184 forbids. -/
abbrev TuneBad (m : Mod) (n reg : Nat) (w : Word) : Prop :=
  ((reg = 4 ∨ reg = 6 ∨ reg = 10) ∧ (fNegative w.toNat || fIsNan b32 w.toNat) = true) ∨
  (reg = 5 ∧ (fNegative w.toNat || fIsZero b32 w.toNat) = true) ∨
  (reg = 8 ∧ fLt b32 (m.get (F.LOOP_OUT_HI_HI n)) w.toNat = true) ∨ (reg = 9 ∧ fLt b32 w.toNat (m.get (F.LOOP_OUT_LO_LO n)) = true)

/-- The capture of a generator's test can be read, undisturbed, and holds `rs`, the oldest first (R193, R34). -/
abbrev testSees (m : Mod) (g : Nat) (rs : List CapRec) : Prop :=
  let ps := m.capPlaces (m.get (F.LOOPTEST_CTRL_CBW g)) (testDelay m g + testLen m g)
  ps.all (fun x => m.regionOk 9 1 (x.1 * 256) && !(m.dirEnt x.1).faulted && (m.loadCause x.1).isNone && !(m.dirEnt x.1).single) = true ∧
  rs = ps.map (fun x => ⟨fix (ofLe (((m.tileBytes x.1).drop (x.2 + 8)).take 4)), fix (ofLe (((m.tileBytes x.1).drop (x.2 + 16)).take 4))⟩)

/-- The analysis of a test shows the model `r` with its FIT over the capture `rs`: VALID with STATE 5 where there is one and FIT is at least
50 %, else STATE 4; zeros where there is none. -/
abbrev Analysed (m' : Mod) (g : Nat) (rs : List CapRec) (r : Option Model) : Prop :=
  let fit := (r.map (fitOfModel rs)).getD 0
  m'.get (F.LOOPTEST_EST_K_K g) = (r.map (·.k)).getD 0 % 2 ^ 32 ∧ m'.get (F.LOOPTEST_EST_THETA_THETA g) = (r.map (·.theta)).getD 0 % 2 ^ 32 ∧
  m'.get (F.LOOPTEST_EST_TAU_TAU g) = (r.map (·.tau)).getD 0 % 2 ^ 32 ∧ m'.get (F.LOOPTEST_EST_FIT_FIT g) = fit % 2 ^ 16 ∧
  m'.flag (F.LOOPTEST_EST_FIT_VALID g) = (r.isSome && decide (5000 ≤ fit)) ∧
  m'.get (F.LOOPTEST_STATUS_STATE g) = if r.isSome ∧ 5000 ≤ fit then 5 else 4

/-- What the analysis may change. -/
def analysisRegs (g : Nat) : List Fld :=
  [F.LOOPTEST_EST_K_K g, F.LOOPTEST_EST_THETA_THETA g, F.LOOPTEST_EST_TAU_TAU g, F.LOOPTEST_EST_FIT_FIT g, F.LOOPTEST_EST_FIT_VALID g,
   F.LOOPTEST_STATUS_STATE g]

/-! ### Metering (R199 to R222) -/

/-- The square of the calibrated rms current over the last 800 samples, their power and reactive power (R209). -/
def irmsSq (m : Mod) (c : Nat) : Rat := calSq m c 0 ((sum4 (m.metCh c).win).2.2.2 * unitI m c * unitI m c / 800)
def pbar (m : Mod) (c : Nat) : Rat := calWord m c 2 * ((sum4 (m.metCh c).win).1 * (unitI m c * unitV m (vchOf m c)) / 800) + calWord m c 3
def qbar (m : Mod) (c : Nat) : Rat := calWord m c 4 * ((sum4 (m.metCh c).win).2.1 * (unitI m c * unitV m (vchOf m c)) / (800 * tapOne)) + calWord m c 5

/-- The energy of a sample that the register `j` accumulates (R210: IMP, EXP, RQ1 to RQ4), in units of 2^-32 µWh; none below the starting
current. -/
def energyTo (m : Mod) (c : Nat) (j : Fin 6) : Rat :=
  let p := pbar m c
  let q := qbar m c
  let x : Rat :=
    if irmsSq m c < irSq m c / 1000000 then 0
    else match j with
      | 0 => if 0 ≤ p then p else 0
      | 1 => if 0 ≤ p then 0 else -p
      | 2 => if 0 ≤ p ∧ 0 ≤ q then q else 0
      | 3 => if ¬ 0 ≤ p ∧ 0 ≤ q then q else 0
      | 4 => if ¬ 0 ≤ p ∧ ¬ 0 ≤ q then -q else 0
      | _ => if 0 ≤ p ∧ ¬ 0 ≤ q then -q else 0
  x * mkRat (125 * 2 ^ 32) 3600

/-- A current channel took a sample: it counts, the window of 800 moves on, and each accumulator grows by its energy, a part below its unit
up or down (log entry 2). -/
abbrev SampleTaken (m m' : Mod) (c : Nat) : Prop :=
  (m'.metCh c).samples = (m.metCh c).samples + 1 ∧ (m'.metCh c).win.length ≤ 800 ∧
  (∀ j : Fin 6, (m.metCh c).acc[j.val] + (energyTo m' c j).floor.toNat ≤ (m'.metCh c).acc[j.val] ∧
    (m'.metCh c).acc[j.val] ≤ (m.metCh c).acc[j.val] + (energyTo m' c j).floor.toNat + (if (energyTo m' c j).den = 1 then 0 else 1)) ∧
  (m.metCh c).acc[6] ≤ (m'.metCh c).acc[6] ∧ (irmsSq m' c < irSq m' c / 1000000 → (m'.metCh c).acc = (m.metCh c).acc ∧ (m'.metCh c).creep = true)

def overloadRegs : List Fld := (List.range 96).map F.MET_STATUS_I_OVERLOAD ++ (List.range 96).map F.MET_STATUS_I_REVERSED ++ (List.range 6).map F.MET_STATUS_V_OVERLOAD

/-- The channel has gone to range `r` (R204). -/
abbrev RangeTo (m m' : Mod) (c : Fin 96) (r : Nat) (settling : Bool) : Prop :=
  m'.get (F.MET_STATUS_I_RANGE_SEL c.val) = r ∧ m'.flag (F.MET_STATUS_I_SETTLING c.val) = settling ∧
  m'.get (F.MET_STATUS_I_SWITCHES c.val) = satNat (F.MET_STATUS_I_SWITCHES c.val).width (m.get (F.MET_STATUS_I_SWITCHES c.val) + 1) ∧
  (m'.metCh c.val).settle = (if settling then some 0 else none) ∧ (m'.metCh c.val).clipped = false ∧ (m'.metCh c.val).acc = (m.metCh c.val).acc

def rangeRegs (c : Fin 96) : List Fld := [F.MET_STATUS_I_RANGE_SEL c.val, F.MET_STATUS_I_SETTLING c.val, F.MET_STATUS_I_SWITCHES c.val]

/-- The range that a calibration holds the channel at: 0 none (R221). -/
def forcedRange (m : Mod) (c : Fin 96) : Nat :=
  if m.flag F.MET_CAL_CTRL_BUSY && m.get F.MET_CAL_CTRL_CHANNEL == c.val then m.get F.MET_CAL_CTRL_FORCE_RANGE else 0

/-- What a block's end may change of the registers. -/
def meterBlockRegs : List Fld :=
  [F.MET_TEMP_TEMP, F.MET_BLOCK_BLOCK, F.MET_STATUS_FALLBACK] ++
  (List.range 102).flatMap (fun c => F.MET_CAL_CRC c :: (List.range 10).map (F.MET_QTY_VALUE c)) ++
  (List.range 96).flatMap (fun c =>
    [F.MET_STATUS_I_THD_NA c, F.MET_STATUS_I_CREEP c, F.MET_STATUS_I_CAL_SRC c, F.MET_CFG_I_SCOPE c,
     F.MET_CFG_I_USER_MODE c, F.MET_CFG_I_VCH c] ++
    (List.range 8).flatMap (fun e => [F.MET_ENERGY_HI_HI c e, F.MET_ENERGY_LO_LO c e]) ++ (List.range 3).map (F.MET_MIRROR_MWH c)) ++
  (List.range 6).flatMap (fun k => [F.MET_STATUS_V_FREQ_BAD k, F.MET_STATUS_V_CAL_SRC k, F.MET_CFG_V_SYSTEM k, F.MET_CFG_V_F60 k])

/-- The integer part of an accumulator as 64 bits (R210). -/
def energyReg (m : Mod) (c : Fin 96) (j : Fin 7) : Nat := (m.metCh c.val).acc[j] / 2 ^ 32 % 2 ^ 64

/-- The 64-bit register of a channel that its two words show. -/
def energyShown (m : Mod) (c : Fin 96) (e : Nat) : Nat := m.get (F.MET_ENERGY_LO_LO c.val e) + 2 ^ 32 * m.get (F.MET_ENERGY_HI_HI c.val e)

/-! ### Storage (R386 to R403) -/

/-- No command waits for flash work (R394). -/
abbrev NoneHeld (m : Mod) : Prop := m.orpor.sessions.all (fun x => x.2.flight.all (fun c => c.done.isNone)) = true

/-- A record has been written at the store's position (R389 to R391): the newest, with the next SEQ; the position is past it. -/
abbrev RecordWritten (m m' : Mod) (key : Nat) (tomb : Bool) (payload : List Byte) : Prop :=
  m'.nvm.params = m.nvm.params ++ [{ page := m.paramPos, key := key, seq := m.nvm.seq + 1, tomb := tomb, payload := m.wrap key (m.nvm.seq + 1) payload }] ∧
  m'.nvm.seq = m.nvm.seq + 1 ∧ m'.paramPos = m.paramPos + recPages (m.wrap key (m.nvm.seq + 1) payload) ∧ m'.nvm.tail = m.nvm.tail

/-- What the 1 ms measurement of the supplies may change (R503). -/
def supplyRegs : List Fld :=
  [F.PWR_VIN_MV, F.PWR_VIN_MIN_MV, F.PWR_VAUX_MV, F.PWR_VAUX_MIN_MV, F.PWR_VBAT_MV, F.PWR_HOLDUP_MV, F.PWR_SCAP_MV, F.PWR_STATUS_VAUX_OK,
   F.PWR_STATUS_VBAT_FITTED, F.PWR_STATUS_HOLDUP_READY, F.PWR_STATUS_BACKUP_SRC, F.PWR_POWER_MW, F.PWR_POWER_PEAK_MW] ++
  (List.range 8).flatMap (fun r => [F.PWR_RAIL_MV r, F.PWR_RAIL_OK r]) ++ (List.range 4).flatMap (fun k => [F.SYS_TEMP_TEMP k, F.SYS_TEMP_MAX k]) ++
  (List.range 15).flatMap (fun d => [F.PWR_DOMAIN_ON_MS_MS d, F.PWR_DOMAIN_CURRENT_MA d])

/-- Every address of the blocks of domain `d`, each as one field. -/
def domainRegs (d : Nat) : List Fld := (pdRange d).flatMap (fun r => (List.range (r.2 - r.1)).map (fun k => whole (r.1 + k)))

/-- The fields of the shadow registers' staging, and what a commit shows (R424). -/
def stagingRegs : List Fld :=
  [F.RTC_STG_DATE_YEAR, F.RTC_STG_DATE_MONTH, F.RTC_STG_DATE_DAY, F.RTC_STG_TIME_HOUR, F.RTC_STG_TIME_MIN, F.RTC_STG_TIME_SEC]

/-- The pass-through transfers of session `h` are no session's (R336); the ports are otherwise as before. -/
abbrev PassFreed (m m' : Mod) (h : Nat) : Prop :=
  m'.ports = { m.ports with pass := m.ports.pass.map (fun x => if x.session = h then { x with session := 1024 } else x) }

/-! ### The Orpor commands (R338 to R353) -/

/-- The command of session `h` with this SEQ and opcode is in flight and may execute now (R85, R342): it is the session's `c`. -/
abbrev Ready (s : State) (h : BitVec 10) (seq : BitVec 32) (op : Nat) (x : Sess) (c : Cmd) : Prop :=
  s.m.ready (s.m.sessKey h.toNat) seq.toNat op = some (x, c)

/-- The module as the executing command finds it: the command waits no longer. -/
def begun (s : State) (h : BitVec 10) (seq : BitVec 32) : Mod :=
  { s.m with orpor := { s.m.orpor with order := s.m.orpor.order.filter (fun o => !(o.1 == s.m.sessKey h.toNat && o.2 == seq.toNat)) } }

/-- The command executes: its own effect leaves a module that meets `P`, and from there it ends with the answer `r` (what that leaves says
EveryReplyEndsItsCommand); the commands of the queue wait as before. -/
def Executes (i : Instr) (s : State) (h : BitVec 10) (c : Cmd) (r : Res) (P : Mod → Prop) : Prop :=
  ∃ m, exec i s = .next { s with m := m.finish (s.m.sessKey h.toNat) c r } ∧ P m

/-- The command rows of the opcode table of R349, by their opcodes. -/
inductive OpRow (h : BitVec 10) (seq : BitVec 32) : Nat → Instr → Prop
  | opSessClose : OpRow h seq 0x0002 (.opSessClose h seq)
  | opSessInfo : OpRow h seq 0x0003 (.opSessInfo h seq)
  | opSessList : OpRow h seq 0x0004 (.opSessList h seq)
  | opSessKill : OpRow h seq 0x0005 (.opSessKill h seq)
  | opPtRead : OpRow h seq 0x0100 (.opPtRead h seq)
  | opPtReadRange : OpRow h seq 0x0101 (.opPtReadRange h seq)
  | opPtWrite : OpRow h seq 0x0102 (.opPtWrite h seq)
  | opPtForce : OpRow h seq 0x0103 (.opPtForce h seq)
  | opPtRelease : OpRow h seq 0x0104 (.opPtRelease h seq)
  | opPtForces : OpRow h seq 0x0105 (.opPtForces h seq)
  | opPkgBegin : OpRow h seq 0x0200 (.opPkgBegin h seq)
  | opPkgBlock : OpRow h seq 0x0201 (.opPkgBlock h seq)
  | opPkgEnd : OpRow h seq 0x0202 (.opPkgEnd h seq)
  | opPlanActivate : OpRow h seq 0x0203 (.opPlanActivate h seq)
  | opPlanCancel : OpRow h seq 0x0204 (.opPlanCancel h seq)
  | opPlanRead : OpRow h seq 0x0205 (.opPlanRead h seq)
  | opBitprogLoad : OpRow h seq 0x0206 (.opBitprogLoad h seq)
  | opBitprogRead : OpRow h seq 0x0207 (.opBitprogRead h seq)
  | opRegRead : OpRow h seq 0x0300 (.opRegRead h seq)
  | opRegWrite : OpRow h seq 0x0301 (.opRegWrite h seq)
  | opRegModify : OpRow h seq 0x0302 (.opRegModify h seq)
  | opMetRead : OpRow h seq 0x0400 (.opMetRead h seq)
  | opMetIntervals : OpRow h seq 0x0401 (.opMetIntervals h seq)
  | opMetCapture : OpRow h seq 0x0402 (.opMetCapture h seq)
  | opLoopRead : OpRow h seq 0x0500 (.opLoopRead h seq)
  | opLoopMode : OpRow h seq 0x0501 (.opLoopMode h seq)
  | opLoopTune : OpRow h seq 0x0502 (.opLoopTune h seq)
  | opLoopTest : OpRow h seq 0x0503 (.opLoopTest h seq)
  | opLoopTestRead : OpRow h seq 0x0504 (.opLoopTestRead h seq)
  | opLogAreas : OpRow h seq 0x0600 (.opLogAreas h seq)
  | opLogRead : OpRow h seq 0x0601 (.opLogRead h seq)
  | opTimeGet : OpRow h seq 0x0700 (.opTimeGet h seq)
  | opTimeSet : OpRow h seq 0x0701 (.opTimeSet h seq)
  | opRtcGet : OpRow h seq 0x0702 (.opRtcGet h seq)
  | opRtcSet : OpRow h seq 0x0703 (.opRtcSet h seq)
  | opUpdBegin : OpRow h seq 0x0800 (.opUpdBegin h seq)
  | opUpdBlock : OpRow h seq 0x0801 (.opUpdBlock h seq)
  | opUpdEnd : OpRow h seq 0x0802 (.opUpdEnd h seq)
  | opUpdActivate : OpRow h seq 0x0803 (.opUpdActivate h seq)
  | opUpdStatus : OpRow h seq 0x0804 (.opUpdStatus h seq)
  | opKeyStage : OpRow h seq 0x0900 (.opKeyStage h seq)
  | opKeyVerify : OpRow h seq 0x0901 (.opKeyVerify h seq)
  | opKeyCommit : OpRow h seq 0x0902 (.opKeyCommit h seq)
  | opKeyDiscard : OpRow h seq 0x0903 (.opKeyDiscard h seq)
  | opKeyList : OpRow h seq 0x0904 (.opKeyList h seq)
  | opSafeUnlock : OpRow h seq 0x0A00 (.opSafeUnlock h seq)
  | opSafeLock : OpRow h seq 0x0A01 (.opSafeLock h seq)
  | opSafePwSet : OpRow h seq 0x0A02 (.opSafePwSet h seq)
  | opSafePwClear : OpRow h seq 0x0A03 (.opSafePwClear h seq)
  | opSafeAck (on : Bool) : OpRow h seq 0x0A04 (.opSafeAck h seq on)
  | opSafeTest (badA badB : Bool) : OpRow h seq 0x0A05 (.opSafeTest h seq badA badB)
  | opSafeLogAck : OpRow h seq 0x0A06 (.opSafeLogAck h seq)
  | opStateStop : OpRow h seq 0x0B00 (.opStateStop h seq)
  | opStateRestart : OpRow h seq 0x0B01 (.opStateRestart h seq)
  | opStateBit : OpRow h seq 0x0B02 (.opStateBit h seq)
  | opStateService : OpRow h seq 0x0B03 (.opStateService h seq)
  | opStateRelease : OpRow h seq 0x0B04 (.opStateRelease h seq)
  | opStateGet : OpRow h seq 0x0B05 (.opStateGet h seq)
  | opPwrStatus : OpRow h seq 0x0B06 (.opPwrStatus h seq)
  | opTwinStatus : OpRow h seq 0x0C00 (.opTwinStatus h seq)
  | opTwinSwap : OpRow h seq 0x0C01 (.opTwinSwap h seq)
  | opBusXfer : OpRow h seq 0x0D00 (.opBusXfer h seq)
  | opBusResult : OpRow h seq 0x0D01 (.opBusResult h seq)
  | opBusRecv : OpRow h seq 0x0D02 (.opBusRecv h seq)
  | opDiagOutput : OpRow h seq 0x0E00 (.opDiagOutput h seq)
  | opDiagRelease : OpRow h seq 0x0E01 (.opDiagRelease h seq)
  | opDiagBanktest : OpRow h seq 0x0E02 (.opDiagBanktest h seq)
  | opDiagCounters : OpRow h seq 0x0E03 (.opDiagCounters h seq)
  | opDiagEcho : OpRow h seq 0x0E04 (.opDiagEcho h seq)

/-- The reply that an open session's command gets (R330, R331, R340). -/
def replyOf (h : Nat) (x : Sess) (c : Cmd) (status : Nat) (data : List Byte) : Reply :=
  { dest := x.transport, viaB := x.viaB, session := h, flags := 1 + (if c.urgent then 2 else 0), op := c.op, tag := c.tag, seq := c.seq,
    rseq := x.rseq + 1, status := status, data := data, auth := some (x.kr, sessNonce h c.seq (x.rseq + 1) true), sealed := true }

/-- Command `c` of session `h` has ended with this status and data: it is not in flight, a reply of kind N stands in the cache of the 8
newest, RSEQ is one higher, every other session is as before; nothing but sessions, pool, the String link's sequence number and the marks of full channels changed,
and on an uplink with its link up the reply stands in its channel where it finds cells. -/
abbrev Ended (m m' : Mod) (h : Nat) (x : Sess) (c : Cmd) (kindN : Bool) (status : Nat) (data : List Byte) : Prop :=
  let cache := if kindN then x.cache ++ [⟨c.seq, c.op, status, data.take 64⟩] else x.cache
  let f : PoolFrame :=
    { ch := 4 * x.transport + (if c.urgent then 2 else 3)
      cells := cellsOf (48 + data.length + m.overhead x.transport), reply := some (replyOf h x c status data) }
  m'.sess h = some { x with
    flight := x.flight.filter (fun d => d.seq != c.seq), cache := cache.drop (cache.length - 8), rseq := x.rseq + 1 } ∧
  (∀ k : Fin 1026, k.val ≠ h → m'.sess k.val = m.sess k.val) ∧ m'.orpor = { m.orpor with sessions := m'.orpor.sessions } ∧
  UplMarked m m' ∧ Only [.orpor, .pool, .twin, .upl] [] m m' ∧
  (x.viaB = false → x.transport < 2 → m.flag (F.UPL_STATUS_LINK x.transport) = true → m'.pool = (m.poolPut f).1.pool)

/-! ### Points (R22 to R31, R345, R346) -/

/-- The point stands in a tile that master 9 may read (and write), that is not faulted and passes its check, and no force marks its record. -/
def soundPt (m : Mod) (writes : Bool) (i : Nat) : Bool :=
  m.homed i && (mapGet i m.mem.pmap).any (fun e =>
    m.regionOk 9 1 (e.tile * 256) && (!writes || m.regionOk 9 2 (e.tile * 256)) && !(m.dirEnt e.tile).faulted && (m.loadCause e.tile).isNone
      && !(m.dirEnt e.tile).single && decide (e.slot < 16) && (!writes || !isForced (m.prec e).qual))

/-- The first address of a point's record, and its 16 bytes as they stand. -/
def ptAddr (m : Mod) (i : Nat) : Nat := ((mapGet i m.mem.pmap).map (fun e => e.tile * 256 + e.slot * 16)).getD 0
def ptBytes (m : Mod) (i : Nat) : List Byte := memReadN 0 m.mem.cells (ptAddr m i) 16
def ptRec (m : Mod) (i : Nat) : PRec := decodeRec (ptBytes m i)

/-- Nothing of tile memory but the records of the points changed. -/
abbrev OnlyRecords (m m' : Mod) (is : List Nat) : Prop :=
  (∀ a : Nat, (∀ i ∈ is, a < ptAddr m i ∨ ptAddr m i + 16 ≤ a) → memRead 0 m'.mem.cells a = memRead 0 m.mem.cells a) ∧
  m'.mem.pmap = m.mem.pmap ∧ m'.mem.writes = m.mem.writes ∧ m'.mem.bankTimes = m.mem.bankTimes

/-- The items of a point write: index and value. -/
def ptItems (ps : List Byte) : List (Nat × Long) :=
  (List.range (par ps 0 1)).map (fun j => (par ps (4 + 12 * j) 2, BitVec.ofNat 64 (par ps (8 + 12 * j) 8)))

/-- The indices a point read names. -/
def ptNamed (ps : List Byte) : List Nat := (List.range (par ps 0 2)).map (fun j => par ps (2 + 2 * j) 2)

/-! ### Plans (R74 to R86, R113) -/

/-- The coarse frame: nothing but the listed parts and registers inside the address ranges has changed. -/
def Within (ps : List Part) (rs : List (Nat × Nat)) (m m' : Mod) : Prop :=
  (∀ p : Part, p ∉ ps → p.same m m') ∧ ∀ a, (∀ r ∈ rs, a < r.1 ∨ r.2 ≤ a) → m'.word a = m.word a

/-- What a soft restart may change beside the registers of the plans' images: the recorder's, the PLAN, DRUM and TWIN status, EXEC, TILE,
LOOP, SAFE, FBUS and JACK blocks. -/
def restartRanges (pls : List Plan) : List (Nat × Nat) :=
  [(0x06000, 0x07000), (0x10000, 0x11000), (0x14000, 0x15000), (0x18000, 0x19000), (0x20000, 0x25000), (0x48000, 0x49000),
   (0x60000, 0x61000), (0x78000, 0x79000), (0x80000, 0x81000)] ++ pls.flatMap (fun pl => pl.regImage.map (fun x => (x.1, x.1 + 1)))
def restartParts : List Part :=
  [.bit, .exec, .fio, .jack, .key, .lanes, .logs, .loops, .mem, .met, .nvm, .outs, .plan, .ports, .pwr, .safe, .sw, .tests, .twin]

/-- The planner's or the host's plan is stored as the candidate (R74). -/
abbrev CandStored (m m' : Mod) (pl : Plan) : Prop :=
  m'.get F.PLAN_STATUS_STATE = 3 ∧ m'.cand = some pl ∧ m'.activeSlot = m.activeSlot ∧ m'.get F.PLAN_CAND_ID_ID = pl.id % 2 ^ 32 ∧
  m'.get F.PLAN_STATUS_PROGRESS = 100 ∧ m'.plan.active = m.plan.active
def candRegs : List Fld := [F.PLAN_STATUS_STATE, F.PLAN_STATUS_PROGRESS, F.PLAN_CAND_ID_ID, F.PLAN_FREE_TILES_NEEDED]

/-- A swap is armed for a second (R81). -/
abbrev SwapArmed (m m' : Mod) (pl : Plan) (sec : Nat) : Prop :=
  m'.plan.armed = some sec ∧ m'.get F.PLAN_STATUS_STATE = 4 ∧ m'.get F.PLAN_SWAP_SEC_SEC = sec % 2 ^ 32 ∧ m'.plan.deferred = 0 ∧
  (if m.flag F.DRUM_STATUS_BANK then m'.plan.drumA else m'.plan.drumB) = pl.drum ∧
  (if m.flag F.DRUM_STATUS_BANK then m'.plan.drumB else m'.plan.drumA) = (if m.flag F.DRUM_STATUS_BANK then m.plan.drumB else m.plan.drumA) ∧
  m'.plan.active = m.plan.active ∧ m'.plan.slots = m.plan.slots ∧ m'.twin = { m.twin with confirmed := none }

/-- The plan's register image leaves the state, plan, bit and safety status registers alone (R58: it holds settings). -/
def imageOk (pl : Plan) : Bool :=
  pl.regImage.all (fun x => !([R.EXEC_STATE, R.EXEC_BIT, R.EXEC_RETAIN, R.PLAN_STATUS, R.SAFE_STATUS, R.TWIN_STATUS, R.DRUM_STATUS].contains x.1))
    && pl.loops.all (fun d => decide (d.num < 256))

/-! ### Registers (R5, R488 to R494) -/

/-- Showing the register has no effect but clearing RC fields: it is not of the RTC's shadow group, no word of a 64-bit pair, no view of the
directory. -/
def quietRead (a : Nat) : Bool :=
  !([R.RTC_TIME, R.RTC_DATE, R.RTC_SUBSEC, R.NVM_OPTIME_LO, R.NVM_OPTIME_HI, R.TIME_NOW_LO, R.TIME_NOW_HI, R.TILE_DIR_CRC, R.TILE_DIR_INFO].contains a)
  && (inst (R.FIO_CNT_LO 0) 16 8 a).isNone && (inst (R.FIO_CNT_HI 0) 16 8 a).isNone
  && !(decide (0x30000 ≤ a) && decide (a < 0x33000) && decide (0x30 ≤ a % 128) && decide (a % 128 < 0x70))

/-- A read of the register has no effect. -/
def plainRead (a : Nat) : Bool :=
  (accessAt a).rc == 0 && quietRead a && !([R.LOG_AREA_COUNTS, R.FPOOL_USE, R.FPOOL_DROP].contains a)

/-- A read of the register clears its RC fields and does nothing else. -/
def rcPlain (a : Nat) : Bool :=
  (accessAt a).rc != 0 && quietRead a && !([R.LOG_AREA_COUNTS, R.FPOOL_USE, R.FPOOL_DROP].contains a)

/-- A write of the register does what its access codes say and nothing else: no select register, no stored set, no command bit. -/
def plainWrite (a : Nat) : Bool :=
  (storedOf a).isNone && !isSelect a && !([R.JACK_RESET, R.RTC_CTRL, R.LOG_AREA_CFG, R.MET_CAL_CTRL, R.MET_CAL_DATA, R.MET_CAP_CTRL].contains a)
  && !(decide (0x20000 ≤ a) && decide (a < 0x24000) && a % 64 != 0x30) && (inst (R.LOOPTEST_CTRL 0) 64 4 a).isNone
  && (inst (R.TILE_BANK 0) 4 8 a).isNone && (inst (R.FIO_DO_GRP 0) 4 3 a).isNone && (inst (R.FIO_DO_STATUS 0) 8 24 a).isNone
  && (inst (R.FBUS_RXO_STAT 0) 0x400 19 a).isNone && (inst (R.UPL_CTRL 0) 0x200 2 a).isNone

/-- The word of a register after `v` is written to it (R5): RW bits take `v`, a W1C bit written as 1 is cleared, the rest stand. -/
def regAfter (m : Mod) (a : Nat) (v : Word) : Word :=
  ((m.word a &&& ~~~(BitVec.ofNat 32 (accessAt a).rw)) ||| (v &&& BitVec.ofNat 32 (accessAt a).rw)) &&& ~~~(v &&& BitVec.ofNat 32 (accessAt a).w1c)

/-- The address and value pairs of OP_REG_WRITE (R349). -/
def regItems (ps : List Byte) : List (Nat × Word) :=
  (List.range (par ps 0 2)).map (fun i => (par ps (4 + 8 * i) 4, BitVec.ofNat 32 (par ps (8 + 8 * i) 4)))

/-- The places in a window of records `off` to `off + n - 1` of the last `have_` appended (R193, R227), oldest first. -/
def winIdx (m : Mod) (w have_ off n : Nat) : List Nat :=
  let len := m.get (F.CBW_LENGTH_LENGTH w)
  ((List.range n).filter (fun i => decide (off + i < min have_ len))).map (fun i => (m.get (F.CBW_HEAD_HEAD w) + len - min have_ len + off + i) % len)

/-- The size of a window's records, the tile of one, and its bytes as they stand. -/
def winSize (m : Mod) (w : Nat) : Nat := 2 ^ (m.get (F.CBW_STRIDE_STRIDE w) + 3)
def winTile (m : Mod) (w i : Nat) : Nat := m.get (F.CBW_BASE_TILE w) + i / (256 / winSize m w)
def winBytes (m : Mod) (w i : Nat) : List Byte :=
  ((m.tileBytes (winTile m w i)).drop (i % (256 / winSize m w) * winSize m w)).take (winSize m w)

/-- Each of those tiles may be read by the Orpor engine, is not faulted and passes its check. -/
def winSound (m : Mod) (w : Nat) (ix : List Nat) : Bool :=
  ix.all (fun i => m.regionOk 9 1 (winTile m w i * 256) && !(m.dirEnt (winTile m w i)).faulted && (m.loadCause (winTile m w i)).isNone
    && !(m.dirEnt (winTile m w i)).single)

/-- A date and time stand in the staging registers, each field as far as it fits (R424). -/
abbrev StagedDate (m : Mod) (c : Cal) : Prop :=
  ([(F.RTC_STG_DATE_YEAR, c.year), (F.RTC_STG_DATE_MONTH, c.month), (F.RTC_STG_DATE_DAY, c.day), (F.RTC_STG_TIME_HOUR, c.hour),
    (F.RTC_STG_TIME_MIN, c.min), (F.RTC_STG_TIME_SEC, c.sec)] : List (Fld × Nat)).all (fun p => m.get p.1 == p.2 % 2 ^ p.1.width) = true

/-! ### Hard restarts (R113, R469, R477) -/

/-- A hard restart has begun from a module that no save holds: BOOT without a plan and without sessions, no flash work and no activation waits, no key is
staged, every output has its reset state (a pair's latch stays), the domains that go off are off, building time and the calendar run on. -/
abbrev HardStops (m m' : Mod) : Prop :=
  m'.st = xBoot ∧ m'.plan.active = none ∧ m'.flag F.EXEC_STATE_NOPLAN = true ∧ m'.orpor.sessions = [] ∧ m'.nvm.jobs = [] ∧
  (∀ i : Fin 48, m'.outs[i] = { req := m.outs[i].req &&& 16 }) ∧
  (∀ d : Fin 15, [4, 5, 6, 7, 10, 11, 12, 13].contains d.val = true → m'.pdPh d.val = .off) ∧
  m'.clk.ns = m.clk.ns ∧ m'.clk.mono = m.clk.mono ∧ m'.key.activating = false ∧ (∀ i : Fin 8, (m'.key.slots[i]).staged = none) ∧
  UplMarked m m'

/-- BOOT begins with these causes: they are merged and the lowest is shown. -/
abbrev BootBegun (m' : Mod) (causes : Nat) : Prop :=
  m'.pwr.merged = causes ∧ m'.get F.EXEC_STATE_CAUSE = lowestCause causes ∧ m'.pwr.causes = 0

/-- A hard restart of cause `c` has begun; with VIN, PD2 and RESET_N high BOOT begins. -/
abbrev HardRestarts (m m' : Mod) (c : Nat) : Prop :=
  HardStops m m' ∧
  (m.pwr.resetLow = false → m.flag F.PWR_STATUS_VIN_OK = true → m.isOn (swPd 2) = true → BootBegun m' (m.pwr.causes ||| 2 ^ c))

/-- What a hard restart may change: the registers of the domains that go off, and the KEY, NVM, LOG, EXEC, SAFE, MET, TIME blocks. -/
def hardRanges : List (Nat × Nat) :=
  ([3, 4, 5, 6, 7, 10, 11, 12, 13, 14] : List Nat).flatMap pdRange ++
    [(0x04000, 0x07000), (0x14000, 0x15000), (0x30000, 0x34000), (0x48000, 0x49000), (0x78000, 0x79000)]
def hardParts : List Part :=
  [.bit, .clk, .exec, .fio, .freeCtr, .jack, .key, .lanes, .logs, .loops, .mem, .met, .nvm, .orpor, .outs, .plan, .pool, .ports, .pwr, .retain,
   .safe, .sw, .tests, .twin, .upl]

/-! ### Firmware and keys (R436 to R458) -/

/-- The bank that an update now begins to write (R451, R458). -/
def updTarget (m : Mod) : Fin 2 := if m.st = xRecovery then m.recoveryBank else otherBank m.runBank

/-- The flags of the bank that does not run, and of the update, in the KEY block (R462). -/
def fwRegs : List Fld :=
  [F.KEY_FW_STATUS_STAGE, F.KEY_FW_STATUS_PROGRESS, F.KEY_FW_STATUS_RESULT, F.KEY_FW_STATUS_OTHER_VALID, F.KEY_FW_OTHER_VERSION]

/-- The key staged in a slot is `v`; its session staged it at operating time `t`. -/
abbrev StagedIs (m : Mod) (i : Nat) (v : List Byte) (t : Nat) (verified : Bool) : Prop :=
  (m.stagedOf i).map (fun g => (g.value, g.at_, g.verified)) = some (v, t, verified)

/-- No share of a key is longer than 32 bytes (R438). -/
def sharesShort (m : Mod) : Bool :=
  m.key.slots.toList.all (fun k => k.key.all (fun s => decide (s.1.length ≤ 32) && decide (s.2.length ≤ 32))
    && k.staged.all (fun g => decide (g.a.length ≤ 32) && decide (g.b.length ≤ 32)))

/-! ### The pair (R354 to R385, R521) -/

/-- A frame from the peer is taken: the link can carry it, it passes its check on a lane, and its SEQ is newer than the last one. -/
abbrev FrameTaken (m : Mod) (seq : BitVec 32) (lanes : BitVec 2) : Prop := m.linkReady = true ∧ lanes ≠ 0 ∧ m.newSeq seq.toNat = true

/-- The rows that are frames from the peer. -/
inductive FrameRow (seq : BitVec 32) (lanes : BitVec 2) : Instr → Prop
  | time (sent delay rx : Nat) (tstat exec plan : BitVec 32) : FrameRow seq lanes (.twinTimeRx seq lanes sent delay rx tstat exec plan)
  | control (k : CtlKind) : FrameRow seq lanes (.controlFrameRx seq lanes k)
  | mirror (tile : Fin 8192) (bytes : List Byte) (crc : BitVec 32) : FrameRow seq lanes (.mirrorFrameRx seq lanes tile bytes crc)
  | orpor (via : Fin 3) (packet : List Byte) : FrameRow seq lanes (.orporFrameRx seq lanes via packet)
  | forward (items : List (Nat × BitVec 64 × BitVec 16 × Bool)) : FrameRow seq lanes (.forwardFrameRx seq lanes items)
  | write (ops : List PtOp) : FrameRow seq lanes (.writeFrameRx seq lanes ops)
  | stream (k : StreamKind) : FrameRow seq lanes (.streamFrameRx seq lanes k)
  | bar (claim : Bool) (at_ : Nat) : FrameRow seq lanes (.barFrameRx seq lanes claim at_)

/-- The standby drives the floor from building time `t` on (R375): RUN, the bar held, the own line HELD, the Jack path enabled. -/
abbrev TakesBar (m m' : Mod) (t : Nat) : Prop :=
  m'.st = xRun ∧ m'.get F.EXEC_STATE_PREV = m.st ∧ m'.flag F.TWIN_STATUS_HOLDS_BAR = true ∧ m'.flag F.TWIN_BAR_OWN_LINE = true ∧
  m'.flag F.TWIN_STATUS_IN_STEP = false ∧ m'.get F.TWIN_STATUS_JOIN = 0 ∧ m'.jack.enabled = true ∧ m'.flag F.JACK_STATUS_EN = true ∧
  m'.clk.ns = t ∧ m'.clk = { m.clk with ns := t, mono := m'.clk.mono, pausedUntil := m'.clk.pausedUntil } ∧ m'.twin.takePending = false ∧
  m'.twin.swapAt = none

/-- The holder goes back to STANDBY in step at building time `t` (R374, R380, R383): the own line FREE, the Jack path disabled. -/
abbrev GivesBar (m m' : Mod) (t : Nat) : Prop :=
  m'.st = xStandby ∧ m'.get F.EXEC_STATE_PREV = m.st ∧ m'.flag F.TWIN_STATUS_HOLDS_BAR = false ∧ m'.flag F.TWIN_BAR_OWN_LINE = false ∧
  m'.flag F.TWIN_STATUS_IN_STEP = true ∧ m'.get F.TWIN_STATUS_JOIN = (if m.flag F.TWIN_STATUS_SELFTEST then 4 else 3) ∧
  m'.jack.enabled = false ∧ m'.jack.active = [] ∧ m'.flag F.JACK_STATUS_EN = false ∧ m'.clk.ns = t ∧ m'.twin.swapAt = none ∧
  m'.twin.claimAt = none

/-- What a change of the bar may change beside the parts. -/
def barChange : List Fld :=
  [F.EXEC_STATE_STATE, F.EXEC_STATE_PREV, F.JACK_STATUS_EN, F.JACK_STATUS_ACTIVE, F.JACK_ACT_ACT 0, F.JACK_ACT_ACT 1, F.JACK_HIT_HIT 0,
   F.JACK_HIT_HIT 1, F.TWIN_STATUS_HOLDS_BAR, F.TWIN_BAR_OWN_LINE, F.TWIN_BAR_RETURNS, F.TWIN_STATUS_IN_STEP, F.TWIN_STATUS_JOIN,
   F.TWIN_SWAP_LAST, F.LOG_STATUS_WAB_FULL] ++ openRegs

/-- The standby is out of step (R373): no burst, every lane halted, the rejoin from its first step. -/
abbrev OutOfStep (m' : Mod) : Prop :=
  m'.st = xStandby ∧ m'.flag F.TWIN_STATUS_IN_STEP = false ∧ m'.flag F.TWIN_STATUS_SELFTEST = false ∧ m'.get F.TWIN_STATUS_JOIN = 1 ∧
  m'.exec.burst = none ∧ (∀ i : Fin 8, (m'.lanes[i]).phase = .halted ∧ (m'.lanes[i]).todo = [])
def stepRegs : List Fld := [F.TWIN_STATUS_IN_STEP, F.TWIN_STATUS_SELFTEST, F.TWIN_STATUS_JOIN, F.LOG_STATUS_WAB_FULL]

/-- BROKEN of every window (R48). -/
def brokenRegs : List Fld := (List.range 16).map F.CBW_STATUS_BROKEN

/-! ### The Drum and the control cycle (R67 to R107) -/

/-- The rows of the opcode table that are Drum entries, each with its kind, target and argument (R68). -/
inductive DrumRow (t : Nat) : Nat → Nat → Nat → Instr → Prop
  | drumNop : DrumRow t dkNop 0 0 (.drumNop t)
  | wakeF : DrumRow t dkWakeF 0 0 (.wakeF t)
  | wakeM : DrumRow t dkWakeM 0 0 (.wakeM t)
  | stopF : DrumRow t dkStopF 0 0 (.stopF t)
  | domain (d : Fin 15) (on : Bool) : DrumRow t dkDomain d.val (b2n on) (.domain t d on)
  | freeze (mask : BitVec 8) : DrumRow t dkFreeze mask.toNat 0 (.freeze t mask)
  | burst (mask : BitVec 8) (seq : BitVec 16) : DrumRow t dkBurst mask.toNat seq.toNat (.burst t mask seq)
  | launch (c : Fin 8) : DrumRow t dkLaunch c.val 0 (.launch t c)
  | loopRun (n : BitVec 8) : DrumRow t dkLoopRun n.toNat 0 (.loopRun t n)
  | loopLatch (n : BitVec 8) (done : Bool) : DrumRow t dkLoopLatch n.toNat 0 (.loopLatch t n done)
  | poll (p : Fin 19) (i : BitVec 16) : DrumRow t dkPoll p.val i.toNat (.poll t p i)
  | meterWin (len : BitVec 16) : DrumRow t dkMeterWin 0 len.toNat (.meterWin t len)
  | mgmtWin (a b : List Nat) (copyOk alive : Bool) (hits : List Upset) : DrumRow t dkMgmtWin 0 20 (.mgmtWin t a b copyOk alive hits)
  | mirror (dir : Fin 2) (list : BitVec 16) : DrumRow t dkMirror dir.val list.toNat (.mirror t dir list)

/-- An output as a launch or a loop's latch leaves it (R40, R83, R91, R111): it shows the value `v`, or without one the bit program's drive,
its safe value where it was held there, or what it showed; staging and drive are gone; the requests of the state and of a stop are
withdrawn, those of its tiles and of split operation where their cause is gone; test value, Jack value and hold stay. -/
abbrev LaunchedAs (m m' : Mod) (o : Fin 48) (v : Option Word) : Prop :=
  (m'.outs[o]).launched = (match v with
    | some w => some (stagedVal o.val w)
    | none => if (m.outs[o]).bit.isSome then (m.outs[o]).bit else if (m.outs[o]).req &&& 9 ≠ 0 then some (m.safeVal o) else (m.outs[o]).launched) ∧
  m'.outs[o] = { m.outs[o] with launched := (m'.outs[o]).launched, staged := none, bit := none, req := (m'.outs[o]).req } ∧
  bitAt (m'.outs[o]).req 0 = false ∧ bitAt (m'.outs[o]).req 3 = false ∧
  bitAt (m'.outs[o]).req 1 = (bitAt (m.outs[o]).req 1 && !(m.feedOk o.val && (m.outs[o]).abandon.isNone)) ∧
  bitAt (m'.outs[o]).req 2 = (bitAt (m.outs[o]).req 2 && !m.crossOk o.val) ∧
  bitAt (m'.outs[o]).req 4 = bitAt (m.outs[o]).req 4 ∧ bitAt (m'.outs[o]).req 5 = bitAt (m.outs[o]).req 5

/-- What a launch may clear of the DO channels: a short circuit's latch, and the open load of a channel that is off (R240, R241). -/
def scRegs : List Fld := (List.range 24).flatMap (fun o => [F.FIO_DO_STATUS_SC_LATCHED o, F.FIO_DO_STATUS_SC o, F.FIO_DO_STATUS_OPENLOAD o])

/-- The loop engine reads the record `r` of point `i` from a tile that it may read, that is whole and passes its check (R34, R177). -/
def loopSees (m : Mod) (i : Nat) (r : PRec) : Bool :=
  (mapGet i m.mem.pmap).any (fun e => m.regionOk 8 1 (e.tile * 256) && !(m.dirEnt e.tile).faulted && (m.loadCause e.tile).isNone
    && !(m.dirEnt e.tile).single && decide (e.slot < 16) && m.prec e == r)

/-- Bus master `k` may read each of those tiles, none is faulted and each passes its check (R34, R43). -/
def tilesSound (m : Mod) (k : Nat) (ts : List Nat) : Bool :=
  ts.all (fun t => m.regionOk k 1 (t * 256) && !(m.dirEnt t).faulted && (m.loadCause t).isNone && !(m.dirEnt t).single)

/-- The loop engine may write the tile of point `i` (R43). -/
def loopMayWrite (m : Mod) (i : Nat) : Bool := (mapGet i m.mem.pmap).any (fun e => m.regionOk 8 2 (e.tile * 256))

/-- Nothing outside a lone loop acts on its evaluation: no request, test, cascade, forced or safe-held output (R180 to R192). -/
def loopAlone (m : Mod) (n : Nat) (out : PRec) : Bool :=
  m.get (F.LOOP_MODE_REQ n) == 0 && (m.testOf n).isNone && m.tests.toList.all (fun g => !g.start) && (m.innerOf n).isNone
    && !(m.loopSt n).failed && !m.loopOver n out && !(m.loopSt n).overridden

/-- What an evaluation of loop `n` may change: its registers, the tile registers, the recorder's. -/
def loopRanges (n : Nat) : List (Nat × Nat) :=
  [(R.LOOP_CFG n, R.LOOP_CFG n + 0x40), (0x06000, 0x07000), (0x18000, 0x1A000)]

/-- What a management window may change beside the tile registers: plan, recorder, state, Jack and twin status. -/
def windowRanges : List (Nat × Nat) :=
  [(0x06000, 0x07000), (0x10000, 0x11000), (0x14000, 0x15000), (0x18000, 0x1A000), (0x78000, 0x79000), (0x80000, 0x81000)]

/-! ### Management restarts, supplies (R103, R463 to R485) -/

/-- What a reset of PD3 may change: its registers, and what shows the running plan. -/
def mgmtRanges : List (Nat × Nat) :=
  pdRange 3 ++ [(0x04000, 0x05000), (0x06000, 0x07000), (0x14000, 0x15000), (0x18000, 0x19000), (0x48000, 0x49000), (0x80000, 0x81000)]
def mgmtParts : List Part := [.exec, .logs, .mem, .orpor, .plan, .pwr]

/-- What a plan swap may change beside the registers of the two plans' images. -/
def swapRanges (pls : List Plan) : List (Nat × Nat) := restartRanges pls ++ [(0x40000, 0x41000)]
def swapParts : List Part :=
  [.clk, .exec, .fio, .jack, .logs, .loops, .mem, .met, .nvm, .orpor, .outs, .plan, .ports, .safe, .sw, .tests, .twin]

/-- What a domain's loss may change beside its own registers: the stage of an update, the recorder, the uplinks' state, a source of time. -/
def lossRanges (ds : List Nat) : List (Nat × Nat) :=
  ds.flatMap pdRange ++ [(0x04000, 0x05000), (0x06000, 0x07000), (0x78000, 0x79000)]
def lossParts : List Part := [.clk, .exec, .fio, .jack, .logs, .loops, .mem, .met, .orpor, .plan, .pool, .ports, .safe, .sw, .tests, .twin]

/-- What the end of BOOT may change: PWR, RTC, KEY, NVM, LOG, PLAN, EXEC, MET, FIO, SAFE, UPL, TIME and SESS. -/
def bootRanges : List (Nat × Nat) :=
  [(0x01000, 0x02000), (0x03000, 0x07000), (0x10000, 0x11000), (0x14000, 0x15000), (0x30000, 0x49000), (0x70000, 0x71000), (0x78000, 0x79000),
   (0x90000, 0x91000)]
def bootParts : List Part := [.bit, .exec, .fio, .freeCtr, .key, .logs, .met, .nvm, .outs, .pwr, .sw, .upl]

/-- What the power-fail warning may change at once. -/
def warnRanges : List (Nat × Nat) :=
  ([4, 5, 7, 10, 11, 12, 13] : List Nat).flatMap pdRange ++
    [(0x01000, 0x02000), (0x04000, 0x07000), (0x10000, 0x11000), (0x14000, 0x15000), (0x34000, 0x35000), (0x48000, 0x49000), (0x78000, 0x79000)]
def warnParts : List Part :=
  [.bit, .clk, .exec, .fio, .jack, .key, .lanes, .logs, .loops, .mem, .met, .nvm, .orpor, .outs, .plan, .pool, .ports, .pwr, .retain, .safe, .sw,
   .tests, .twin]

/-- PD1 has lost its supply (R469): every domain but PD0 is off, and what stood in the always-on domain and in the rows of memory is lost. -/
abbrev OnLost (m m' : Mod) : Prop :=
  (∀ d : Fin 15, d.val ≠ 0 → m'.pdPh d.val = .off) ∧ m'.exec = {} ∧ m'.mem = {} ∧ m'.clk = {} ∧ m'.safe = {} ∧ m'.orpor = {} ∧
  m'.plan = { slots := m.plan.slots, pkgs := m.plan.pkgs } ∧ (∀ i : Fin 48, m'.outs[i] = {}) ∧ UplMarked m m' ∧
  m'.key = { m.key with slots := Vector.replicate 8 {}, commits := [], activating := false, peerVerified := false } ∧
  m'.nvm = { m.nvm with jobs := [], margin := none, optHi := none, counters := m'.nvm.counters } ∧
  (∀ i : Fin 24, i ≠ 0 → m'.nvm.counters[i] = m.nvm.counters[i]) ∧
  (m'.nvm.counters[(0 : Fin 24)] = m.nvm.counters[(0 : Fin 24)] ∨ m'.nvm.counters[(0 : Fin 24)] = ctrTorn m.nvm.counters[(0 : Fin 24)]) ∧
  (∀ a : Fin 16, (m'.logs.areas[a]).flood = false ∧ (m'.logs.areas[a]).rate = 20 ∧ (m'.logs.areas[a]).dropped = 0 ∧
    (m'.logs.areas[a]).suppressed = 0) ∧
  (∀ f : Fin 31, (m'.sw[f]).offAt = none ∧ (m'.sw[f]).pendOn = false ∧ (m'.sw[f]).pendOff = false) ∧
  m'.regs.all (fun r => (pdOf r.1).all (fun d => d == 0 || m.pdPh d == .off)) = true

end Sys2Proof.Machine
end

