-- ==== Sys2Proof/Certificates/Slice0/Obligations.lean ====
section
/-! DEFINITION. The statements for the provers. -/

open Sys2Proof Sys2Proof.Machine

/-- O1. For every command c and state s with the commands c, rest waiting, step of s is exec of c on s with rest waiting. On an empty queue the step is one cycle of the TCXO and nothing else (the model's choice, log entry 1): it answers a next state whose module is the TCXO's cycle of s's module and whose queue is empty. (R148) -/
def Obligations.StepRunsFrontCommand : Prop :=
  (∀ (c : Instr) (s : State) (rest : List Instr), s.pending = c :: rest → step s = exec c { s with pending := rest }) ∧
  (∀ s : State, s.pending = [] → step s = .next { s with m := s.m.tick })

/-- O2. For every state s, step of s answers a next state (never a fault, never a refusal) whose queue is s's queue without its front command. For every command c, exec of c answers a next state with the same queue. That no command stops the module is the model's choice (log entry 1): the manual's own faults are effects on the module. (01_module_architecture.md, 04_control_cycle_and_restart.md) -/
def Obligations.EveryStepAnswersANextState : Prop :=
  (∀ s : State, ∃ t, step s = .next t ∧ t.pending = s.pending.tail) ∧
  (∀ (c : Instr) (s : State), ∃ t, exec c s = .next t ∧ t.pending = s.pending)

/-- O3. The module after reset meets Inv: the register file, tile memory and tile buffers are in canonical form, the RTC shows a possible date and time, and WDAY is that date's weekday. No command waits. (R7, R421, R422, R499) -/
def Obligations.ResetMeetsInvariant : Prop :=
  State.reset.m.Inv ∧ State.reset.pending = []

/-- O4. For every state s whose module meets Inv, if step of s answers a next state t, then t's module meets Inv: no register is listed at its reset word, no zero byte is listed in tile memory or in a lane's tile buffer, addresses rise, the RTC shows a possible date and time (leap years included, 2199-12-31 wraps to 2000-01-01), and WDAY is the ISO weekday of that date. This holds for every command, the privileged and the failing ones too. (R7, R46, R124, R421, R422, R424, R430) -/
def Obligations.EveryStepKeepsInvariant : Prop :=
  ∀ s t : State, s.m.Inv → step s = .next t → t.m.Inv

/-- O5. For every state in which the crystal runs and the RTC shows a possible date and time with its weekday, RTC_SECOND_TICK answers a next state in which SUB is 0, the date and time are those of one second later (UTC seconds grow by 1, but for the last second of 2199), they are possible, and WDAY is the new date's weekday; after 2199-12-31 23:59:59 the clock shows 2000-01-01 00:00:00, a Saturday, and WRAPPED and OSC_STOPPED are set. A stopped crystal changes nothing. (R422) -/
def Obligations.SecondTickMovesTheCalendar : Prop :=
  ∀ s : State, regsWf s.m.regs = true →
    (s.m.rtc.run = true → s.m.rtc.cal.ok = true → s.m.rtc.wday = weekday s.m.rtc.cal →
      Does .rtcSecondTick s fun m =>
        m.rtc.sub = 0 ∧ m.rtc.cal.ok = true ∧ m.rtc.wday = weekday m.rtc.cal ∧
        (s.m.rtc.cal ≠ ⟨2199, 12, 31, 23, 59, 59⟩ → m.rtc.cal.seconds = s.m.rtc.cal.seconds + 1) ∧
        (s.m.rtc.cal = ⟨2199, 12, 31, 23, 59, 59⟩ → m.rtc.cal = ⟨2000, 1, 1, 0, 0, 0⟩ ∧ m.rtc.wday = 6 ∧
          m.flag F.RTC_STATUS_WRAPPED = true ∧ m.flag F.RTC_STATUS_OSC_STOPPED = true) ∧
        Only [.rtc] [F.RTC_STATUS_WRAPPED, F.RTC_STATUS_OSC_STOPPED] s.m m) ∧
    (s.m.rtc.run = false → exec .rtcSecondTick s = .next s)

/-- O6. exec answers a next state: a lane that stands at ADD, SUB, MUL, DIV, NEG, ABS, MIN, MAX, LIM (.I and .L), MOD.I or ADDI.I goes on past the word with Ld holding the exact integer result of the operands held at the ends of the type's range, and Qd the tag of the registers read, with RANGE exactly where the exact result lay outside. Division rounds toward zero; division by zero gives the largest, the smallest or 0 by the dividend's sign with RANGE, and MOD by zero gives 0 with RANGE. Nothing else changes. (R129, R130, R131) -/
def Obligations.BluotIntegersAreExactThenHeld : Prop :=
  ∀ (s : State) (i : Fin 8) (d a b : Fin 16) (imm : BitVec 16),
    let l := s.m.lanes[i]
    let x := asI32 l.l[a]; let y := asI32 l.l[b]; let z := asI32 l.l[d]
    let X := asI64 l.l[a]; let Y := asI64 l.l[b]; let Z := asI64 l.l[d]
    (Runs s i (encR 0x20 d a b) → exec (.addI i d a b) s = intResult 32 s i l d [a, b] (x + y)) ∧
    (Runs s i (encR 0x21 d a b) → exec (.subI i d a b) s = intResult 32 s i l d [a, b] (x - y)) ∧
    (Runs s i (encR 0x22 d a b) → exec (.mulI i d a b) s = intResult 32 s i l d [a, b] (x * y)) ∧
    (Runs s i (encR 0x23 d a b) → exec (.divI i d a b) s = if y = 0 then advance s i 1 (l.wr d (BitVec.ofInt 64 (if 0 < x then (2 : Int) ^ 31 - 1 else if x < 0 then -(2 : Int) ^ 31 else 0)) (tagOf l [a, b] true))
        else intResult 32 s i l d [a, b] (Int.tdiv x y)) ∧
    (Runs s i (encR 0x24 d a b) → exec (.modI i d a b) s = if y = 0 then advance s i 1 (l.wr d 0 (tagOf l [a, b] true)) else intResult 32 s i l d [a, b] (Int.tmod x y)) ∧
    (Runs s i (encR 0x25 d a 0) → exec (.negI i d a) s = intResult 32 s i l d [a] (-x)) ∧
    (Runs s i (encR 0x26 d a 0) → exec (.absI i d a) s = intResult 32 s i l d [a] ((x.natAbs : Int))) ∧
    (Runs s i (encR 0x27 d a b) → exec (.minI i d a b) s = intResult 32 s i l d [a, b] (min x y)) ∧
    (Runs s i (encR 0x28 d a b) → exec (.maxI i d a b) s = intResult 32 s i l d [a, b] (max x y)) ∧
    (Runs s i (encR 0x29 d a b) → exec (.limI i d a b) s = intResult 32 s i l d [d, a, b] (min (max z x) y)) ∧
    (Runs s i (encRI 0x2A d a imm) → exec (.addiI i d a imm) s = intResult 32 s i l d [a] (x + imm.toInt)) ∧
    (Runs s i (encR 0x30 d a b) → exec (.addL i d a b) s = intResult 64 s i l d [a, b] (X + Y)) ∧
    (Runs s i (encR 0x31 d a b) → exec (.subL i d a b) s = intResult 64 s i l d [a, b] (X - Y)) ∧
    (Runs s i (encR 0x32 d a b) → exec (.mulL i d a b) s = intResult 64 s i l d [a, b] (X * Y)) ∧
    (Runs s i (encR 0x33 d a b) → exec (.divL i d a b) s = if Y = 0 then advance s i 1 (l.wr d (BitVec.ofInt 64 (if 0 < X then (2 : Int) ^ 63 - 1 else if X < 0 then -(2 : Int) ^ 63 else 0)) (tagOf l [a, b] true))
        else intResult 64 s i l d [a, b] (Int.tdiv X Y)) ∧
    (Runs s i (encR 0x34 d a 0) → exec (.negL i d a) s = intResult 64 s i l d [a] (-X)) ∧
    (Runs s i (encR 0x35 d a 0) → exec (.absL i d a) s = intResult 64 s i l d [a] ((X.natAbs : Int))) ∧
    (Runs s i (encR 0x36 d a b) → exec (.minL i d a b) s = intResult 64 s i l d [a, b] (min X Y)) ∧
    (Runs s i (encR 0x37 d a b) → exec (.maxL i d a b) s = intResult 64 s i l d [a, b] (max X Y)) ∧
    (Runs s i (encR 0x38 d a b) → exec (.limL i d a b) s = intResult 64 s i l d [d, a, b] (min (max Z X) Y))

/-- O7. exec answers a next state: a lane that stands at ADD.F, SUB.F, MUL.F, DIV.F, SQRT.F, NEG.F, ABS.F, MIN.F, MAX.F, LIM.F or MAC.F goes on past the word with Ld holding the REAL32 result of the model's binary32 operation on the registers (MAC.F rounds after the product and after the sum, and a subnormal operand counts as zero), and Qd the tag of the registers read, with RANGE where the result is a NaN or an infinity, and for MIN.F, MAX.F and LIM.F also where an operand is a NaN. Nothing else changes. (R129, R130, R131) -/
def Obligations.BluotRealsSetRangeOnNanAndInfinity : Prop :=
  ∀ (s : State) (i : Fin 8) (d a b : Fin 16),
    let l := s.m.lanes[i]
    let x := asF32 l.l[a]; let y := asF32 l.l[b]; let z := asF32 l.l[d]
    (Runs s i (encR 0x40 d a b) → exec (.addF i d a b) s = realResult s i l d [a, b] (fAdd b32 x y)) ∧
    (Runs s i (encR 0x41 d a b) → exec (.subF i d a b) s = realResult s i l d [a, b] (fSub b32 x y)) ∧
    (Runs s i (encR 0x42 d a b) → exec (.mulF i d a b) s = realResult s i l d [a, b] (fMul b32 x y)) ∧
    (Runs s i (encR 0x43 d a b) → exec (.divF i d a b) s = realResult s i l d [a, b] (fDiv b32 x y)) ∧
    (Runs s i (encR 0x44 d a 0) → exec (.sqrtF i d a) s = realResult s i l d [a] (fSqrt b32 x)) ∧
    (Runs s i (encR 0x45 d a 0) → exec (.negF i d a) s = realResult s i l d [a] (fNeg b32 (fFlush b32 x))) ∧
    (Runs s i (encR 0x46 d a 0) → exec (.absF i d a) s = realResult s i l d [a] (fAbs b32 (fFlush b32 x))) ∧
    (Runs s i (encR 0x47 d a b) → exec (.minF i d a b) s = realResult s i l d [a, b] (fMin b32 x y) (fIsNan b32 x || fIsNan b32 y)) ∧
    (Runs s i (encR 0x48 d a b) → exec (.maxF i d a b) s = realResult s i l d [a, b] (fMax b32 x y) (fIsNan b32 x || fIsNan b32 y)) ∧
    (Runs s i (encR 0x49 d a b) → exec (.limF i d a b) s = realResult s i l d [d, a, b] (fMin b32 (fMax b32 z x) y) (fIsNan b32 z || fIsNan b32 x || fIsNan b32 y)) ∧
    (Runs s i (encR 0x4A d a b) → exec (.macF i d a b) s = realResult s i l d [d, a, b] (fAdd b32 z (fMul b32 x y)))

/-- O8. exec answers a next state: a lane that stands at I2L, L2I, I2F, F2I, L2F, F2L, AND, OR, XOR, NOT, INV, SHL, SHR or SAR goes on past the word with Ld holding: the INT32 sign-extended; the INT64 held at the INT32 range with RANGE; the integer rounded to REAL32 without a flag; the REAL32 rounded to an integer held at the range, 0 of a NaN and the end of the range of an infinity, with RANGE; the bitwise AND, OR, XOR, complement of 64 bits; 1 exactly where bit 0 is 0; the shift by the low six bits of Lt, SAR dividing by the power of two towards minus infinity. The tag is that of the registers read. Nothing else changes. (R129, R130, R131) -/
def Obligations.BluotConversionsAndBits : Prop :=
  ∀ (s : State) (i : Fin 8) (d a b : Fin 16),
    let l := s.m.lanes[i]
    let v := l.l[a]; let u := l.l[b]
    (Runs s i (encR 0x50 d a 0) → exec (.i2l i d a) s = plainResult s i l d [a] (BitVec.ofInt 64 (asI32 v))) ∧
    (Runs s i (encR 0x51 d a 0) → exec (.l2i i d a) s = intResult 32 s i l d [a] (asI64 v)) ∧
    (Runs s i (encR 0x52 d a 0) → exec (.i2f i d a) s = plainResult s i l d [a] (BitVec.ofNat 64 (fOfInt b32 (asI32 v) % 2 ^ 32))) ∧
    (Runs s i (encR 0x54 d a 0) → exec (.l2f i d a) s = plainResult s i l d [a] (BitVec.ofNat 64 (fOfInt b32 (asI64 v) % 2 ^ 32))) ∧
    (Runs s i (encR 0x53 d a 0) → exec (.f2i i d a) s = if fIsNan b32 (asF32 v) then advance s i 1 (l.wr d 0 (tagOf l [a] true))
        else if fIsInf b32 (asF32 v) then advance s i 1 (l.wr d (BitVec.ofInt 64 (if fSign b32 (asF32 v) then -(2 : Int) ^ 31 else (2 : Int) ^ 31 - 1)) (tagOf l [a] true))
        else intResult 32 s i l d [a] (fToInt b32 (asF32 v))) ∧
    (Runs s i (encR 0x55 d a 0) → exec (.f2l i d a) s = if fIsNan b32 (asF32 v) then advance s i 1 (l.wr d 0 (tagOf l [a] true))
        else if fIsInf b32 (asF32 v) then advance s i 1 (l.wr d (BitVec.ofInt 64 (if fSign b32 (asF32 v) then -(2 : Int) ^ 63 else (2 : Int) ^ 63 - 1)) (tagOf l [a] true))
        else intResult 64 s i l d [a] (fToInt b32 (asF32 v))) ∧
    (Runs s i (encR 0x60 d a b) → exec (.and64 i d a b) s = plainResult s i l d [a, b] (v &&& u)) ∧
    (Runs s i (encR 0x61 d a b) → exec (.or64 i d a b) s = plainResult s i l d [a, b] (v ||| u)) ∧
    (Runs s i (encR 0x62 d a b) → exec (.xor64 i d a b) s = plainResult s i l d [a, b] (v ^^^ u)) ∧
    (Runs s i (encR 0x63 d a 0) → exec (.notB i d a) s = plainResult s i l d [a] (if v.getLsbD 0 then 0 else 1)) ∧
    (Runs s i (encR 0x64 d a 0) → exec (.inv64 i d a) s = plainResult s i l d [a] (~~~v)) ∧
    (Runs s i (encR 0x65 d a b) → exec (.shl i d a b) s = plainResult s i l d [a, b] (v <<< (u.toNat % 64))) ∧
    (Runs s i (encR 0x66 d a b) → exec (.shr i d a b) s = plainResult s i l d [a, b] (v >>> (u.toNat % 64))) ∧
    (Runs s i (encR 0x67 d a b) → exec (.sar i d a b) s = plainResult s i l d [a, b] (BitVec.ofInt 64 (v.toInt / 2 ^ (u.toNat % 64))))

/-- O9. exec answers a next state: a lane that stands at CMP.I or CMP.L goes on with Ld 1 exactly where the condition holds of the two integers (EQ, NE, LT, LE, GT, GE), else 0; at CMP.F with the condition on REAL32, RANGE and FALSE (NE: TRUE) where an operand is a NaN; at SEL with Lt where bit 0 of Ld is 1, else Ls, and the tag of Ld and of the register chosen alone; at QLD with Qs as a number and at QTST with 1 where Qs has a bit of the mask, both with tag 0x0001; at QSET, QVAL, QCPY with only Qd changed: the mask added and VALID set again by R131, 0x0001, or Qs. Nothing else changes. (R128, R129, R130, R131, R132) -/
def Obligations.BluotComparisonSelectionQuality : Prop :=
  ∀ (s : State) (i : Fin 8) (d a b : Fin 16) (c : Cond) (mask : BitVec 16),
    let l := s.m.lanes[i]
    let holds (c : Cond) (lt eq : Prop) : Prop := match c with
      | .eq => eq | .ne => ¬eq | .lt => lt | .le => lt ∨ eq | .gt => ¬(lt ∨ eq) | .ge => ¬lt
    (Runs s i (encR 0x70 d a b + condCode c) → ∃ v : Bool, (v = true ↔ holds c (asI32 l.l[a] < asI32 l.l[b]) (asI32 l.l[a] = asI32 l.l[b])) ∧
      exec (.cmpI i d a b c) s = plainResult s i l d [a, b] (if v then 1 else 0)) ∧
    (Runs s i (encR 0x71 d a b + condCode c) → ∃ v : Bool, (v = true ↔ holds c (asI64 l.l[a] < asI64 l.l[b]) (asI64 l.l[a] = asI64 l.l[b])) ∧
      exec (.cmpL i d a b c) s = plainResult s i l d [a, b] (if v then 1 else 0)) ∧
    (Runs s i (encR 0x72 d a b + condCode c) →
      let nan := fIsNan b32 (asF32 l.l[a]) || fIsNan b32 (asF32 l.l[b])
      exec (.cmpF i d a b c) s = advance s i 1 (l.wr d (if condF32 c (asF32 l.l[a]) (asF32 l.l[b]) then 1 else 0) (tagOf l [a, b] nan)) ∧
      (nan = true → condF32 c (asF32 l.l[a]) (asF32 l.l[b]) = decide (c = .ne))) ∧
    (Runs s i (encR 0x78 d a b) → exec (.sel i d a b) s = plainResult s i l d [d, if l.l[d].getLsbD 0 then b else a] (if l.l[d].getLsbD 0 then l.l[b] else l.l[a])) ∧
    (Runs s i (encR 0x80 d a 0) → exec (.qld i d a) s = advance s i 1 (l.wr d (l.q[a].zeroExtend 64) 1)) ∧
    (Runs s i (encRI 0x81 d a mask) → exec (.qtst i d a mask) s = advance s i 1 (l.wr d (if l.q[a] &&& mask = 0 then 0 else 1) 1)) ∧
    (Runs s i (encRI 0x82 d 0 mask) → exec (.qset i d mask) s = advance s i 1 (l.wrQ d (combine [l.q[d] ||| mask] false))) ∧
    (Runs s i (encN 0x83 d) → exec (.qval i d) s = advance s i 1 (l.wrQ d 1)) ∧
    (Runs s i (encR 0x84 d a 0) → exec (.qcpy i d a) s = advance s i 1 (l.wrQ d l.q[a]))

/-- O10. exec answers a next state: a lane that stands at LDP, LDAGE, LDCHG, LDI, LDIX, LDIR, LDK, MOV, LDM or LDT goes on with Ld and Qd holding the point's VALUE and QUALITY, its AGE, its CHANGES, the immediate sign-extended, the second word sign-extended or as REAL32, the constant word, Ls and Qs, the member, or FREEZE_TIME (tag 0x0001 where no quality is read). STP writes the point's record in the tile buffer: nothing where it is FORCED, else the encoded Ld with QUALITY from Qd (FORCED cleared, a remote output's COMMFAIL kept) and marks the point fresh (a store that FORCED sets aside is no store for AGE: log entry 110). LDKX and LDMX take the element at Ls, or the nearest end with RANGE where Ls is outside; STM and STMX write the member's 8 bytes, STMX nothing outside the range. No other register, tag, tile or byte of the buffer changes. (R126, R127, R129, R131, R140, R141) -/
def Obligations.BluotLoadsStoresAndIndexing : Prop :=
  ∀ (s : State) (i : Fin 8) (d a : Fin 16) (p : BitVec 13) (imm : BitVec 20) (w : BitVec 32) (cnt : BitVec 8) (n : BitVec 14) (m k : BitVec 5),
    let l := s.m.lanes[i]
    let rd (off : Nat) : Long := BitVec.ofNat 64 (l.rdN (instAddr s.m l n.toNat off) 8)
    let ix := asI32 l.l[a]
    (Runs s i (encP 0x10 d p) → exec (.ldp i d p) s = advance s i 1 (l.wr d (l.prec s.m p.toNat).val (l.prec s.m p.toNat).qual)) ∧
    (Runs s i (encP 0x11 d p) → exec (.stp i d p) s = 
        let r := l.prec s.m p.toNat
        let q := withValid ((l.q[d] &&& 0x07F7#16) ||| (if isRemoteOut s.m p.toNat then r.qual &&& 0x0020#16 else 0))
        let r' := if r.qual &&& 0x0008#16 ≠ 0 then r else r.fresh (encodeVal (pointTy s.m p.toNat) l.l[d]) q
        .next { s with m := putLane (if isForced r.qual then s.m else s.m.markFresh p.toNat) i ((l.putRec s.m p.toNat r').past 1) }) ∧
    (Runs s i (encP 0x12 d p) → exec (.ldage i d p) s = advance s i 1 (l.wr d (BitVec.ofNat 64 (l.prec s.m p.toNat).age) 1)) ∧
    (Runs s i (encP 0x13 d p) → exec (.ldchg i d p) s = advance s i 1 (l.wr d (BitVec.ofNat 64 (l.prec s.m p.toNat).chg) 1)) ∧
    (Runs s i (encI 0x14 d imm) → exec (.ldi i d imm) s = advance s i 1 (l.wr d (imm.signExtend 64) 1)) ∧
    (Runs s i (encN 0x15 d) (some w.toNat) → exec (.ldix i d w) s = advance s i 2 (l.wr d (w.signExtend 64) 1)) ∧
    (Runs s i (encN 0x16 d) (some w.toNat) → exec (.ldir i d w) s = advance s i 2 (l.wr d (w.zeroExtend 64) 1)) ∧
    (Runs s i (encP 0x17 d p) → exec (.ldk i d p) s = advance s i 1 (l.wr d (l.const s.m p.toNat) 1)) ∧
    (Runs s i (encKX 0x18 d a p) (some cnt.toNat) → exec (.ldkx i d a p cnt) s = 
        (if ix < 0 then advance s i 2 (l.wr d (l.const s.m p.toNat) (combine [qRange, l.q[a]] false))
        else if (cnt.toNat : Int) ≤ ix then advance s i 2 (l.wr d (l.const s.m (p.toNat + cnt.toNat - 1)) (combine [qRange, l.q[a]] false))
        else advance s i 2 (l.wr d (l.const s.m (p.toNat + ix.toNat)) (combine [1, l.q[a]] false)))) ∧
    (Runs s i (encR 0x19 d a 0) → exec (.mov i d a) s = advance s i 1 (l.wr d l.l[a] l.q[a])) ∧
    (Runs s i (encM 0x1A d n m) → exec (.ldm i d n m) s = advance s i 1 (l.wr d (rd (8 * m.toNat)) 1)) ∧
    (Runs s i (encM 0x1B d n m) → exec (.stm i d n m) s = advance s i 1 (l.wrN (instAddr s.m l n.toNat (8 * m.toNat)) 8 (l.l[d]).toNat)) ∧
    (Runs s i (encM 0x1C d n m) (some (encMX2 a k)) → exec (.ldmx i d a n m k) s = 
        (if ix < 0 then advance s i 2 (l.wr d (rd (8 * m.toNat)) (combine [qRange, l.q[a]] false))
        else if (k.toNat : Int) + 1 ≤ ix then advance s i 2 (l.wr d (rd (8 * (m.toNat + k.toNat))) (combine [qRange, l.q[a]] false))
        else advance s i 2 (l.wr d (rd (8 * (m.toNat + ix.toNat))) (combine [1, l.q[a]] false)))) ∧
    (Runs s i (encM 0x1D d n m) (some (encMX2 a k)) → exec (.stmx i d a n m k) s = 
        (if ix < 0 ∨ (k.toNat : Int) + 1 ≤ ix then advance s i 2 l
        else advance s i 2 (l.wrN (instAddr s.m l n.toNat (8 * (m.toNat + ix.toNat))) 8 (l.l[d]).toNat))) ∧
    (Runs s i (encN 0x1E d) → exec (.ldt i d) s = advance s i 1 (l.wr d (BitVec.ofNat 64 l.freeze) 1))

/-- O11. For a lane that stands at TON, TOF or TP on registers d and d+1 (d at most 14) with a buffer in canonical form and FREEZE_TIME in 64 bits, let PT be the preset held in whole milliseconds (0 of a negative one, with RANGE), ET, Q, RUN, M, INIT and LAST those of the instance, and the increment FREEZE_TIME minus LAST, the class period where that is negative or above 2 s, and 0 where RUN or LASTV was 0. exec answers the next state in which the lane goes on past the word with Q, RUN and ET as the table of R138 gives them for IN, and the instance holds PT, ET, FREEZE_TIME in LAST, IN in M, INIT and LASTV 1. Only Ld, L(d+1), their tags and the instance's 24 bytes change. Where a zero preset leaves Q and RUN both 1, the next execution with IN TRUE keeps both (log entry 9: two rows of the table match). (R136, R137, R138) -/
def Obligations.BluotTimersFollowTheirTable : Prop :=
  ∀ (s : State) (i : Fin 8) (d : Fin 16) (n : BitVec 14),
    let l := s.m.lanes[i]
    let a := instAddr s.m l n.toNat 0
    let st := l.rdN a 4
    let inp := asBool l.l[d]
    let P := presetMs l.l[d + 1] * 1000000
    let et := l.rdN (a + 8) 8
    let last := l.rdN (a + 16) 8
    let period := s.m.periodNs (((l.task.bind s.m.taskDef).map (fun t => t.cls)).getD 0)
    let delta := if bitAt st 2 && bitAt st 4 then (if l.freeze < last ∨ last + 2000000000 < l.freeze then period else l.freeze - last) else 0
    let sum := min (et + delta) P
    let init := bitAt st 0; let q := bitAt st 1; let run := bitAt st 2
    let mm := if init then bitAt st 3 else inp
    d.val ≤ 14 → memWf 0 l.buf = true → l.freeze < 2 ^ 64 →
    (Runs s i (encF 0xA0 d n) → ∃ l', exec (.ton i d n) s = advance s i 1 l' ∧
      (inp = false → TimerLeaves l l' d a false false 0) ∧
      (inp = true → q = false → run = false → TimerLeaves l l' d a (decide (P = 0)) true 0) ∧
      (inp = true → q = false → run = true → TimerLeaves l l' d a (decide (P ≤ sum)) (decide (sum < P)) sum) ∧
      (inp = true → q = true → TimerLeaves l l' d a true run P)) ∧
    (Runs s i (encF 0xA1 d n) → ∃ l', exec (.tof i d n) s = advance s i 1 l' ∧
      (inp = true → TimerLeaves l l' d a true false 0) ∧
      (inp = false → run = true → TimerLeaves l l' d a (if P ≤ sum then false else q) (decide (sum < P)) sum) ∧
      (inp = false → run = false → q = true → TimerLeaves l l' d a (decide (P ≠ 0)) (decide (P ≠ 0)) 0) ∧
      (inp = false → run = false → q = false → TimerLeaves l l' d a false false (min et P))) ∧
    (Runs s i (encF 0xA2 d n) → ∃ l', exec (.tp i d n) s = advance s i 1 l' ∧
      (run = true → TimerLeaves l l' d a (if P ≤ sum then false else q) (decide (sum < P)) sum) ∧
      (run = false → inp = true → mm = false → q = false → TimerLeaves l l' d a (decide (P ≠ 0)) (decide (P ≠ 0)) 0) ∧
      (run = false → inp = false → TimerLeaves l l' d a q false 0) ∧
      (run = false → inp = true → (mm = true ∨ q = true) → TimerLeaves l l' d a q false (min et P)))

/-- O12. For a lane that stands at CTU, CTD (d at most 13), R_TRIG, F_TRIG, SR or RS (d at most 14) with a buffer in canonical form, exec answers the next state in which the lane goes on past the word with CV, Q and M as R139 fixes them: the stored input M is the present input where INIT was 0; CTU counts up held at 2,147,483,647, CTD down held at -2,147,483,648, R and LD come first; Q compares the new CV. The instance's STATE keeps TYPE, has INIT 1 and M the present input (0 for a bistable: log entry 127). Only the outputs, their tags and the instance's 8 bytes change. (R136, R137, R139) -/
def Obligations.BluotCountersEdgesBistables : Prop :=
  ∀ (s : State) (i : Fin 8) (d : Fin 16) (n : BitVec 14),
    let l := s.m.lanes[i]
    let a := instAddr s.m l n.toNat 0
    let st := l.rdN a 4
    let x := asBool l.l[d]; let y := asBool l.l[d + 1]
    let edge := x && !(if bitAt st 0 then bitAt st 3 else x)
    let cv := toInt 32 (l.rdN (a + 4) 4)
    let pv := asI32 l.l[d + 2]
    memWf 0 l.buf = true →
    (d.val ≤ 13 → Runs s i (encF 0xA3 d n) → ∃ l', exec (.ctu i d n) s = advance s i 1 l' ∧
      let c : Int := if y then 0 else if edge then min (cv + 1) 2147483647 else cv
      BlockLeaves l l' d [d, d + 1, d + 2] a (decide (pv ≤ c)) x (ofInt 32 c) (some c)) ∧
    (d.val ≤ 13 → Runs s i (encF 0xA4 d n) → ∃ l', exec (.ctd i d n) s = advance s i 1 l' ∧
      let c : Int := if y then pv else if edge then max (cv - 1) (-2147483648) else cv
      BlockLeaves l l' d [d, d + 1, d + 2] a (decide (c ≤ 0)) x (ofInt 32 c) (some c)) ∧
    (Runs s i (encF 0xA5 d n) → ∃ l', exec (.rTrig i d n) s = advance s i 1 l' ∧ BlockLeaves l l' d [d] a edge x 0 none) ∧
    (Runs s i (encF 0xA6 d n) → ∃ l', exec (.fTrig i d n) s = advance s i 1 l' ∧
      BlockLeaves l l' d [d] a ((if bitAt st 0 then bitAt st 3 else x) && !x) x 0 none) ∧
    (d.val ≤ 14 → Runs s i (encF 0xA7 d n) → ∃ l', exec (.srBlk i d n) s = advance s i 1 l' ∧
      BlockLeaves l l' d [d, d + 1] a (x || (bitAt st 1 && !y)) false 0 none) ∧
    (d.val ≤ 14 → Runs s i (encF 0xA8 d n) → ∃ l', exec (.rsBlk i d n) s = advance s i 1 l' ∧
      BlockLeaves l l' d [d, d + 1] a (!y && (x || bitAt st 1)) false 0 none)

/-- O13. exec answers a next state for each of these commands: a lane that stands at NOP goes on unchanged. At BR, at BT where bit 0 of Ld is 1, at BF where it is 0, and at BNV where Qd has no VALID, it branches to PC + 1 + offset, leaving every REPEAT body whose end the target passes; else BT, BF and BNV go on. REPEAT starts a body of the following words with count iterations, Ld 0 and Qd 0x0001. INX stores the point's image entry in the record: a value that arrived (VALID by R26, CHANGES by R28) marks the point fresh, a held one ages, a missing one takes the policy's value (R93, R96); a FORCED record keeps its value and ages. OUTX puts the point's VALUE into the output staging of the physical output, or of the remote point, it stands for. Both need the lane's region to allow the image or staging address, and go on. Nothing else changes. (R129, R133, R134, R143) -/
def Obligations.BluotBranchesRepeatAndTransfer : Prop :=
  ∀ (s : State) (i : Fin 8) (d : Fin 16) (off : BitVec 20) (count : BitVec 9) (body : BitVec 11) (p : BitVec 13),
    let l := s.m.lanes[i]
    let gone := { l with pc := l.pc + 1 + off.toNat, rep := l.rep.dropWhile (fun r => decide (r.stop ≤ l.pc + 1 + off.toNat)) }
    (Runs s i (encN 0x00 0) → exec (.nop i) s = .next { s with m := putLane s.m i (l.past 1) }) ∧
    (Runs s i (encI 0x02 0 off) → exec (.br i off) s = .next { s with m := putLane s.m i gone }) ∧
    (Runs s i (encI 0x03 d off) → exec (.bt i d off) s = .next { s with m := putLane s.m i (if (l.l[d]).getLsbD 0 then gone else l.past 1) }) ∧
    (Runs s i (encI 0x04 d off) → exec (.bf i d off) s = .next { s with m := putLane s.m i (if (l.l[d]).getLsbD 0 then l.past 1 else gone) }) ∧
    (Runs s i (encI 0x05 d off) → exec (.bnv i d off) s = .next { s with m := putLane s.m i (if (l.q[d]).getLsbD 0 then l.past 1 else gone) }) ∧
    (Runs s i (encRPT 0x06 d count body) → 
      let l' := { l with pc := l.pc + 1, rep := ⟨d, l.pc + 1, l.pc + 1 + body.toNat, 0, count.toNat + 1⟩ :: l.rep }.wr d 0 1
      exec (.repeat i d count body) s = .next { s with m := putLane s.m i l' }) ∧
    (Runs s i (encP 0xF0 0 p) → s.m.regionOk i.val 1 (0x400000 + 8 * p.toNat) = true → ∀ pd, s.m.pointDef p.toNat = some pd →
      let e := mapGetD {} p.toNat s.m.exec.image
      let r := l.prec s.m p.toNat
      let r' : PRec := if isForced r.qual then r.aged else if e.fresh then r.fresh e.val (withValid (e.qual &&& 0xFFFE#16))
        else if e.held then r.aged else inxMissing pd r e
      let m' := if e.fresh && !isForced r.qual then s.m.markFresh p.toNat else s.m
      exec (.inx i p) s = .next { s with m := putLane m' i ((l.putRec s.m p.toNat r').past 1) }) ∧
    (Runs s i (encP 0xF1 0 p) → s.m.regionOk i.val 2 (0x410000 + 8 * p.toNat) = true →
      let v := (l.prec s.m p.toNat).val
      (∀ (pd : PointDef) (o o' : Fin 48), s.m.pointDef p.toNat = some pd → pd.bind = .out o → o'.val = (if l.copyB s.m then o.val + 1 else o.val) →
        exec (.outx i p) s = .next { s with m := putLane (s.m.outMap o' (fun u => { u with staged := some (v.extractLsb' 0 32) })) i (l.past 1) }) ∧
      (∀ (pd : PointDef) (q k : Nat), s.m.pointDef p.toNat = some pd → pd.bind = .rout q k →
        exec (.outx i p) s = .next { s with m := putLane { s.m with exec := { s.m.exec with rstaged := mapPut p.toNat v s.m.exec.rstaged } } i (l.past 1) }))

/-- O14. Past n words a lane stands n words on; where the innermost REPEAT body ends there with an iteration left, it stands at the body's first word with Ld the next iteration number, tag 0x0001; where none is left the body is left and the enclosing body decides. A lane put back before the end of its task changes nothing but itself. END of a task with a single tile to write back, which is not FAULTED, has no directory error and lies in a region the lane may write, and no further task answers a next state in which the lane's list has ended: the tile's 256 bytes are the buffer's, every other byte of tile memory reads as before, the directory takes the tile's new CRC, and the lane is done; with no tile to write back the lane is done and tile memory is as before. Past the task's last word the same happens. (R124, R133, R134) -/
def Obligations.LaneGoesOnRepeatsAndEndsTasks : Prop :=
  (∀ (l : Lane) (n : Nat), (∀ r rs, l.rep = r :: rs → r.stop ≠ l.pc + n) → l.past n = { l with pc := l.pc + n }) ∧
  (∀ (l : Lane) (n : Nat) (r : Rep) (rs : List Rep), l.rep = r :: rs → r.stop = l.pc + n → r.iter + 1 < r.count →
    l.past n = { l with pc := r.first, rep := { r with iter := r.iter + 1 } :: rs }.wr r.d (BitVec.ofNat 64 (r.iter + 1)) 1) ∧
  (∀ (l : Lane) (n : Nat) (r : Rep) (rs : List Rep), l.rep = r :: rs → r.stop = l.pc + n → r.count ≤ r.iter + 1 →
    l.past n = { l with rep := rs }.past n) ∧
  (∀ (m : Mod) (i : Fin 8) (l : Lane), l.pc < laneWords m i → putLane m i l = { m with lanes := m.lanes.set i l }) ∧
  (∀ (s : State) (i : Fin 8) (td : TaskDef) (t : Nat), memWf 0 s.m.mem.cells = true → memWf 0 s.m.lanes[i].buf = true →
    Runs s i (encN 0x01 0) → s.m.lanes[i].task.bind s.m.taskDef = some td → td.stores = [t] → s.m.lanes[i].todo = [] →
    (s.m.dirEnt t).faulted = false → (s.m.dirEnt t).single = false → (s.m.dirEnt t).dbl = false → s.m.regionOk i.val 2 (t * 256) = true →
    Does (.endTask i) s fun m =>
      (∀ j, j < 256 → memRead 0 m.mem.cells (t * 256 + j) = memRead 0 s.m.lanes[i].buf (s.m.lanes[i].entry t * 256 + j)) ∧
      (∀ a, a < t * 256 ∨ t * 256 + 256 ≤ a → memRead 0 m.mem.cells a = memRead 0 s.m.mem.cells a) ∧
      (m.dirEnt t).crc = tileCrc t (m.tileBytes t) ∧ m.lanes[i].phase = .done ∧ m.lanes[i].task = none ∧
      (∀ k : Fin 8, k ≠ i → m.lanes[k] = s.m.lanes[k]) ∧ Only [.lanes, .mem, .outs] [] s.m m) ∧
  (∀ (s : State) (i : Fin 8) (td : TaskDef), Runs s i (encN 0x01 0) → s.m.lanes[i].task.bind s.m.taskDef = some td → td.stores = [] →
    s.m.lanes[i].todo = [] →
    Does (.endTask i) s fun m => m.lanes[i].phase = .done ∧ m.lanes[i].task = none ∧ (∀ k : Fin 8, k ≠ i → m.lanes[k] = s.m.lanes[k]) ∧
      Only [.lanes, .outs] [] s.m m) ∧
  (∀ (m : Mod) (i : Fin 8) (l : Lane), laneWords m i ≤ l.pc → putLane m i l = endTask { m with lanes := m.lanes.set i l } i)

/-- O15. exec answers a next state: in BIT or PLANNING with a running cycle at the word of NOP, LD, LDN, AND, ANDN, OR, ORN, XOR, PUSH, POPAND, POPOR, POP, NOTA, JC, JNC, JMP or END, the bit machine takes ACC and stack as the table of R145 has them (b the operand bit, as the areas hold it; a popped bit is the stack's top) and stands at the next word, a taken jump at the next word plus its offset, END past the last word. Nothing else changes, but that a cycle that stands past its last word ends. A POP on an empty stack cannot occur in a checked program (R146): the clause names a stack with an entry. (R144, R145, R146) -/
def Obligations.BitLogicFollowsItsTable : Prop :=
  ∀ (s : State) (area : BitVec 3) (n : BitVec 8) (off : BitVec 11) (x : Bool) (st : List Bool),
    let b := s.m.bit
    let v := s.m.bit.read area.toNat n.toNat
    (BitRuns s (encBitN 0x00) → exec .bitNop s = bitNext s { b with pc := b.pc + 1 }) ∧
    (BitRuns s (encBit 0x01 area n) → exec (.bitLd area n) s = bitNext s { b with pc := b.pc + 1, acc := v }) ∧
    (BitRuns s (encBit 0x02 area n) → exec (.bitLdn area n) s = bitNext s { b with pc := b.pc + 1, acc := !v }) ∧
    (BitRuns s (encBit 0x03 area n) → exec (.bitAnd area n) s = bitNext s { b with pc := b.pc + 1, acc := b.acc && v }) ∧
    (BitRuns s (encBit 0x04 area n) → exec (.bitAndn area n) s = bitNext s { b with pc := b.pc + 1, acc := b.acc && !v }) ∧
    (BitRuns s (encBit 0x05 area n) → exec (.bitOr area n) s = bitNext s { b with pc := b.pc + 1, acc := b.acc || v }) ∧
    (BitRuns s (encBit 0x06 area n) → exec (.bitOrn area n) s = bitNext s { b with pc := b.pc + 1, acc := b.acc || !v }) ∧
    (BitRuns s (encBit 0x07 area n) → exec (.bitXor area n) s = bitNext s { b with pc := b.pc + 1, acc := Bool.xor b.acc v }) ∧
    (BitRuns s (encBitN 0x0C) → exec .bitPush s = bitNext s { b with pc := b.pc + 1, stack := b.acc :: b.stack }) ∧
    (BitRuns s (encBitN 0x0D) → s.m.bit.stack = x :: st → exec .bitPopand s = bitNext s { b with pc := b.pc + 1, stack := st, acc := x && b.acc }) ∧
    (BitRuns s (encBitN 0x0E) → s.m.bit.stack = x :: st → exec .bitPopor s = bitNext s { b with pc := b.pc + 1, stack := st, acc := x || b.acc }) ∧
    (BitRuns s (encBitN 0x0F) → s.m.bit.stack = x :: st → exec .bitPop s = bitNext s { b with pc := b.pc + 1, stack := st, acc := x }) ∧
    (BitRuns s (encBitN 0x10) → exec .bitNota s = bitNext s { b with pc := b.pc + 1, acc := !b.acc }) ∧
    (BitRuns s (encBitJ 0x11 off) → exec (.bitJc off) s = bitNext s { b with pc := b.pc + 1 + (if b.acc then off.toNat else 0) }) ∧
    (BitRuns s (encBitJ 0x12 off) → exec (.bitJnc off) s = bitNext s { b with pc := b.pc + 1 + (if b.acc then 0 else off.toNat) }) ∧
    (BitRuns s (encBitJ 0x13 off) → exec (.bitJmp off) s = bitNext s { b with pc := b.pc + 1 + off.toNat })

/-- O16. In BIT or PLANNING with a running cycle at the word of ST, STN, SET or RST, exec answers a next state in which the named bit of the DO area, the SO area or the flags holds ACC (ST), its complement (STN), 1 where ACC is 1 (SET) or 0 where ACC is 1 (RST); every other bit of every area reads as before, SET and RST with ACC 0 write nothing, and only the place moves on besides. A cycle that stands past its last word then ends. (R144, R145) -/
def Obligations.BitStoresWriteTheirBit : Prop :=
  ∀ (s : State) (area : BitVec 3) (n : BitVec 8),
    let b := s.m.bit
    (BitRuns s (encBit 0x08 area n) → ∃ b', exec (.bitSt area n) s = .next { s with m := ({ s.m with bit := b' }).bitSettle } ∧ BitStored b b' area.toNat n.toNat b.acc) ∧
    (BitRuns s (encBit 0x09 area n) → ∃ b', exec (.bitStn area n) s = .next { s with m := ({ s.m with bit := b' }).bitSettle } ∧ BitStored b b' area.toNat n.toNat (!b.acc)) ∧
    (BitRuns s (encBit 0x0A area n) → ∃ b', exec (.bitSet area n) s = .next { s with m := ({ s.m with bit := b' }).bitSettle } ∧
      (if b.acc then BitStored b b' area.toNat n.toNat true else b' = { b with pc := b.pc + 1 })) ∧
    (BitRuns s (encBit 0x0B area n) → ∃ b', exec (.bitRst area n) s = .next { s with m := ({ s.m with bit := b' }).bitSettle } ∧
      (if b.acc then BitStored b b' area.toNat n.toNat false else b' = { b with pc := b.pc + 1 }))

/-- O17. BIT_CYCLE, END and BIT_OVERRUN answer a next state. In BIT or PLANNING with a bit program running and no cycle open: BIT_CYCLE with no word run leaves a cycle open at word 0 whose DI bits are the reported values, whose SI bits are the filtered levels of channels A and B, with ACC 0 and the stack empty, and nothing else changed (a program has at least one word); with at least as many steps as the program has words it ends the cycle: masked DO and SO channels take their bits, other outputs keep their records. END ends an open cycle in the same way. BIT_OVERRUN with a cycle open is an overrun with cause BIT (7): class, burst number 0, lane mask 1, counted, and STOPPED is entered from the state left. The split of a cycle into one command with a number of words is the model's (log entry 1). (R98, R99, R110, R144, R145, R147) -/
def Obligations.BitCycleFreezesRunsAndEnds : Prop :=
  ∀ (s : State) (steps : BitVec 13), regsWf s.m.regs = true → s.m.inBit = true →
    (s.m.flag F.EXEC_BIT_RUNNING = true → s.m.bit.inCycle = false → s.m.bit.prog ≠ [] →
      Does (.bitCycle 0) s fun m =>
        m.bit = { s.m.bit with di := m.bit.di, si := m.bit.si, acc := false, stack := [], pc := 0, inCycle := true } ∧
        (∀ i : Fin 48, m.bit.di.getLsbD i.val = s.m.flag (F.FIO_DI_STATUS_VALUE i.val)) ∧
        (∀ k : Fin 8, m.bit.si.getLsbD (2 * k.val) = s.m.safe.filtA.getLsbD k.val ∧ m.bit.si.getLsbD (2 * k.val + 1) = s.m.safe.filtB.getLsbD k.val) ∧
        Only [.bit] [] s.m m) ∧
    (s.m.flag F.EXEC_BIT_RUNNING = true → s.m.bit.inCycle = false → s.m.bit.prog.length ≤ steps.toNat →
      Does (.bitCycle steps) s fun m => ∃ b, b.prog = s.m.bit.prog ∧ b.doMask = s.m.bit.doMask ∧ b.soMask = s.m.bit.soMask ∧ BitCycleEnds s.m m b) ∧
    (BitRuns s (encBitN 0x1F) → Does .bitEnd s fun m => BitCycleEnds s.m m { s.m.bit with pc := s.m.bit.prog.length }) ∧
    (s.m.bit.inCycle = true → Does .bitOverrun s fun m => OverrunShown s.m m 7 0 0 1 ∧ Stops s.m m ∧ Only stopParts overrunRegs s.m m)

/-- O18. For every state with a canonical register file: DI_FILTER_CHANGE puts the level into RAW; where the level after INV differs from the filtered state, that takes it, the reported value takes it unless CHATTER holds it, a change to 0 clears STUCK, and the instant joins the history (the last 256). DI_STUCK on an input active for longer than MAXON seconds (not 0) with STUCK 0 sets STUCK and logs EV_DI_STUCK; before that time it changes nothing. DI_CHATTER with more than CHAT_N changes in CHAT_WIN (1 taken as 2) sets CHATTER, freezes the value at the state before these changes (the filtered state turned over once for each of them), counts the episode and logs EV_DI_CHATTER. CHATTER_HOLD_EXPIRY clears CHATTER once CHAT_HOLD (0 taken as 1 s) has passed without a change, and the value takes the filtered state; before that time it changes nothing. That these rows carry the judgement of time is log entry 1. (R233, R234, R235, R258) -/
def Obligations.DigitalInputsFilterStickAndChatter : Prop :=
  ∀ (s : State) (n : Fin 48) (level : Bool),
    let new := level != s.m.flag (F.FIO_DI_CFG_INV n.val)
    regsWf s.m.regs = true →
    (new = s.m.flag (F.FIO_DI_STATUS_FILTERED n.val) → Does (.diFilterChange n level) s fun m => m.flag (F.FIO_DI_STATUS_RAW n.val) = level ∧ Only [] [F.FIO_DI_STATUS_RAW n.val] s.m m) ∧
    (new ≠ s.m.flag (F.FIO_DI_STATUS_FILTERED n.val) → Does (.diFilterChange n level) s fun m => m.flag (F.FIO_DI_STATUS_RAW n.val) = level ∧ m.flag (F.FIO_DI_STATUS_FILTERED n.val) = new ∧ m.flag (F.FIO_DI_STATUS_VALUE n.val) = (if s.m.flag (F.FIO_DI_STATUS_CHATTER n.val) then s.m.flag (F.FIO_DI_STATUS_VALUE n.val) else new) ∧ m.flag (F.FIO_DI_STATUS_STUCK n.val) = (new && s.m.flag (F.FIO_DI_STATUS_STUCK n.val)) ∧ m.fio = { s.m.fio with di := s.m.fio.di.set n ⟨(s.m.clk.mono :: (s.m.fio.di[n]).changes).take 256⟩ } ∧ Only [.fio] [F.FIO_DI_STATUS_RAW n.val, F.FIO_DI_STATUS_FILTERED n.val, F.FIO_DI_STATUS_VALUE n.val, F.FIO_DI_STATUS_STUCK n.val] s.m m) ∧
    (s.m.get (F.FIO_DI_CFG_MAXON n.val) ≠ 0 → s.m.diPast n (s.m.get (F.FIO_DI_CFG_MAXON n.val) * 25000000 + 1) = true → s.m.flag (F.FIO_DI_STATUS_FILTERED n.val) = true → s.m.flag (F.FIO_DI_STATUS_STUCK n.val) = false → Does (.diStuck n) s fun m => m.flag (F.FIO_DI_STATUS_STUCK n.val) = true ∧ Logs s.m m .diStuck n.val [] ∧ Only [.logs] [F.FIO_DI_STATUS_STUCK n.val, F.LOG_STATUS_WAB_FULL] s.m m) ∧
    (s.m.diPast n (s.m.get (F.FIO_DI_CFG_MAXON n.val) * 25000000 + 1) = false → exec (.diStuck n) s = .next s) ∧
    (chatN s.m n.val ≠ 0 → chatN s.m n.val < chatCount s.m n → s.m.flag (F.FIO_DI_STATUS_CHATTER n.val) = false → Does (.diChatter n) s fun m => m.flag (F.FIO_DI_STATUS_CHATTER n.val) = true ∧ m.flag (F.FIO_DI_STATUS_VALUE n.val) = Bool.xor (s.m.flag (F.FIO_DI_STATUS_FILTERED n.val)) (decide (chatCount s.m n % 2 = 1)) ∧ m.get (F.FIO_DI_STATUS_EPISODES n.val) = satNat 16 (s.m.get (F.FIO_DI_STATUS_EPISODES n.val) + 1) ∧ Logs s.m m .diChatter n.val [] ∧ Only [.logs] [F.FIO_DI_STATUS_CHATTER n.val, F.FIO_DI_STATUS_VALUE n.val, F.FIO_DI_STATUS_EPISODES n.val, F.LOG_STATUS_WAB_FULL] s.m m) ∧
    (s.m.flag (F.FIO_DI_STATUS_CHATTER n.val) = true → s.m.diPast n (max 1 (s.m.get (F.FIO_DI_CHAT_HOLD n.val)) * 25000000) = true → Does (.chatterHoldExpiry n) s fun m => m.flag (F.FIO_DI_STATUS_CHATTER n.val) = false ∧ m.flag (F.FIO_DI_STATUS_VALUE n.val) = s.m.flag (F.FIO_DI_STATUS_FILTERED n.val) ∧ Only [] [F.FIO_DI_STATUS_CHATTER n.val, F.FIO_DI_STATUS_VALUE n.val] s.m m) ∧
    (s.m.diPast n (max 1 (s.m.get (F.FIO_DI_CHAT_HOLD n.val)) * 25000000) = false → exec (.chatterHoldExpiry n) s = .next s)

/-- O19. For every state with a canonical register file: COUNT_EDGE of an edge that EDGE names (0 rising, 1 falling, 2 both, 3 as 0) with counting enabled raises the count by 1 modulo 2^64 and the window's count by 1. COUNT_WINDOW_END shows each counter's edges in RATE (held at 65,535), sets OVERSPEED exactly where they were more than 100 (then OVS_SEEN too, and every class is marked), and opens an empty window; counts stay. COUNT_JOURNAL with no write running puts all counts into the slot of the older sequence with a sequence number one above the newer's, the other slot as it was; while a write runs it only counts SKIPPED. FIO_CNT_LO_READ latches the high word. Counts are journalled and restored by slots that pass their check (the layout is log entry 17). (R237, R238, R239, R258, R400) -/
def Obligations.CountersCountWindowAndJournal : Prop :=
  ∀ (s : State) (k : Fin 8) (rising : Bool),
    let c := s.m.fio.cnt[k]
    let e := s.m.get (F.FIO_CNT_CFG_EDGE k.val)
    let j := s.m.fio.cntJ
    regsWf s.m.regs = true →
    (s.m.flag (F.FIO_CNT_CFG_EN k.val) = true → ((if e = 1 then rising = false else e = 2 ∨ rising = true)) → Does (.countEdge k rising) s fun m => m.fio = { s.m.fio with cnt := s.m.fio.cnt.set k { c with count := (c.count + 1) % 2 ^ 64, window := c.window + 1 } } ∧ Only [.fio] [] s.m m) ∧
    (Does .countWindowEnd s fun m => (∀ i : Fin 8, m.get (F.FIO_CNT_STATUS_RATE i.val) = min (s.m.fio.cnt[i]).window 65535 ∧ m.flag (F.FIO_CNT_STATUS_OVERSPEED i.val) = decide (100 < (s.m.fio.cnt[i]).window) ∧ m.flag (F.FIO_CNT_STATUS_OVS_SEEN i.val) = (decide (100 < (s.m.fio.cnt[i]).window) || s.m.flag (F.FIO_CNT_STATUS_OVS_SEEN i.val)) ∧ m.fio.cnt[i] = { s.m.fio.cnt[i] with window := 0, ovr := if 100 < (s.m.fio.cnt[i]).window then 255 else (s.m.fio.cnt[i]).ovr }) ∧ m.fio = { s.m.fio with cnt := m.fio.cnt } ∧ Only [.fio] [F.FIO_CNT_STATUS_RATE 0, F.FIO_CNT_STATUS_RATE 1, F.FIO_CNT_STATUS_RATE 2, F.FIO_CNT_STATUS_RATE 3, F.FIO_CNT_STATUS_RATE 4, F.FIO_CNT_STATUS_RATE 5, F.FIO_CNT_STATUS_RATE 6, F.FIO_CNT_STATUS_RATE 7, F.FIO_CNT_STATUS_OVERSPEED 0, F.FIO_CNT_STATUS_OVERSPEED 1, F.FIO_CNT_STATUS_OVERSPEED 2, F.FIO_CNT_STATUS_OVERSPEED 3, F.FIO_CNT_STATUS_OVERSPEED 4, F.FIO_CNT_STATUS_OVERSPEED 5, F.FIO_CNT_STATUS_OVERSPEED 6, F.FIO_CNT_STATUS_OVERSPEED 7, F.FIO_CNT_STATUS_OVS_SEEN 0, F.FIO_CNT_STATUS_OVS_SEEN 1, F.FIO_CNT_STATUS_OVS_SEEN 2, F.FIO_CNT_STATUS_OVS_SEEN 3, F.FIO_CNT_STATUS_OVS_SEEN 4, F.FIO_CNT_STATUS_OVS_SEEN 5, F.FIO_CNT_STATUS_OVS_SEEN 6, F.FIO_CNT_STATUS_OVS_SEEN 7] s.m m) ∧
    (journalWriting s.m.fio.cntJ = false → (s.m.fio.cntJ[0]).ok = true → (s.m.fio.cntJ[1]).ok = true → (s.m.fio.cntJ[0]).seq ≤ (s.m.fio.cntJ[1]).seq → Does .countJournal s fun m => m.fio = { s.m.fio with cntJ := j.set 0 { seq := (j[1]).seq + 1, vals := s.m.fio.cnt.toList.map (fun x => x.count), writing := true } } ∧ Only [.fio] [] s.m m) ∧
    (journalWriting s.m.fio.cntJ = false → (s.m.fio.cntJ[0]).ok = true → (s.m.fio.cntJ[1]).ok = true → (s.m.fio.cntJ[1]).seq < (s.m.fio.cntJ[0]).seq → Does .countJournal s fun m => m.fio = { s.m.fio with cntJ := j.set 1 { seq := (j[0]).seq + 1, vals := s.m.fio.cnt.toList.map (fun x => x.count), writing := true } } ∧ Only [.fio] [] s.m m) ∧
    (journalWriting s.m.fio.cntJ = true → Does .countJournal s fun m => m.get F.FIO_CNT_JOURNAL_SKIPPED = satNat F.FIO_CNT_JOURNAL_SKIPPED.width (s.m.get F.FIO_CNT_JOURNAL_SKIPPED + 1) ∧ Only [] [F.FIO_CNT_JOURNAL_SKIPPED] s.m m) ∧
    (Does (.fioCntLoRead k) s fun m => m.fio = { s.m.fio with cnt := s.m.fio.cnt.set k { c with hi := some (c.count / 2 ^ 32) } } ∧ Only [.fio] [] s.m m)

/-- O20. For every state with a canonical register file: DO_SHORT of an output whose pin is on sets SC, sets SC_LATCHED where RETRY is 0, clears OPENLOAD and logs EV_DO_SHORT; DO_SHORT_RETRY 1 s later, with RETRY 1, SC set and the value in force on, clears SC. THERMAL is set and cleared by its rows. DO_GROUP_TRIP above 3.4 A sets TRIP, shows the current, ends OPENLOAD of the outputs now off and logs EV_DO_GROUP; DO_GROUP_RETRY of a group tripped 5 s ago and not latched clears TRIP while fewer than 3 retries lie within 60 s, and latches at the fourth. A write of 1 to LATCHED or SC_LATCHED by an OPERATOR session of scope 0 or a SERVICE session clears latch and trip, and changes nothing from another session. VAUX_LOST below 16 V and VAUX_RESTORED above 17 V clear and set VAUX_OK; the loss sets VAUX_LOST, ends OPENLOAD of the outputs now off and logs EV_VAUX_LOW. DO_OPENLOAD shows the current, sets OPENLOAD below 2 mA where it is enabled and the pin is on, and clears it otherwise. (R240, R241, R258, R495) -/
def Obligations.DigitalOutputProtectionsHoldAndRelease : Prop :=
  ∀ (s : State) (n : Fin 24) (g : Fin 3) (h : BitVec 10) (ma : BitVec 16) (mv : BitVec 16),
    regsWf s.m.regs = true →
    (s.m.pinOn ⟨n.val, by omega⟩ = true → Does (.doShort n) s fun m => m.flag (F.FIO_DO_STATUS_SC n.val) = true ∧ m.flag (F.FIO_DO_STATUS_SC_LATCHED n.val) = (!s.m.flag (F.FIO_DO_CFG_RETRY n.val) || s.m.flag (F.FIO_DO_STATUS_SC_LATCHED n.val)) ∧ m.flag (F.FIO_DO_STATUS_OPENLOAD n.val) = false ∧ m.fio = { s.m.fio with since := mapPut (tmShort n.val) s.m.clk.mono s.m.fio.since } ∧ Logs s.m m .doShort n.val [] ∧ Only [.logs, .fio] [F.FIO_DO_STATUS_SC n.val, F.FIO_DO_STATUS_SC_LATCHED n.val, F.FIO_DO_STATUS_OPENLOAD n.val, F.LOG_STATUS_WAB_FULL] s.m m) ∧
    (s.m.flag (F.FIO_DO_CFG_RETRY n.val) = true → s.m.flag (F.FIO_DO_STATUS_SC n.val) = true → s.m.fioPast (tmShort n.val) 25000000 = true → s.m.source ⟨n.val, by omega⟩ = .on → Does (.doShortRetry n) s fun m => m.flag (F.FIO_DO_STATUS_SC n.val) = false ∧ Only [] [F.FIO_DO_STATUS_SC n.val] s.m m) ∧
    (s.m.fioPast (tmShort n.val) 25000000 = false → exec (.doShortRetry n) s = .next s) ∧
    (Does (.doThermalTrip n) s fun m => m.flag (F.FIO_DO_STATUS_THERMAL n.val) = true ∧ m.flag (F.FIO_DO_STATUS_OPENLOAD n.val) = false ∧ Only [] [F.FIO_DO_STATUS_THERMAL n.val, F.FIO_DO_STATUS_OPENLOAD n.val] s.m m) ∧
    (Does (.doThermalRecover n) s fun m => m.flag (F.FIO_DO_STATUS_THERMAL n.val) = false ∧ Only [] [F.FIO_DO_STATUS_THERMAL n.val] s.m m) ∧
    (s.m.flag (F.FIO_DO_GRP_TRIP g.val) = false → 3400 < ma.toNat → Does (.doGroupTrip g ma) s fun m => m.flag (F.FIO_DO_GRP_TRIP g.val) = true ∧ m.get (F.FIO_DO_GRP_CURRENT g.val) = ma.toNat ∧ OpenEnds s.m m ∧ m.fio = { s.m.fio with since := mapPut (tmGroup g.val) s.m.clk.mono s.m.fio.since } ∧ Logs s.m m .doGroup g.val [] ∧ Only [.logs, .fio] ([F.FIO_DO_GRP_TRIP g.val, F.FIO_DO_GRP_CURRENT g.val, F.LOG_STATUS_WAB_FULL] ++ openRegs) s.m m) ∧
    (s.m.flag (F.FIO_DO_GRP_TRIP g.val) = true → s.m.flag (F.FIO_DO_GRP_LATCHED g.val) = false → s.m.fioPast (tmGroup g.val) 125000000 = true → ((s.m.fio.grpRetry[g]).filter (fun t => decide (s.m.clk.mono < t + 1500000000))).length < 3 → Does (.doGroupRetry g) s fun m => m.flag (F.FIO_DO_GRP_TRIP g.val) = false ∧ m.fio.grpRetry[g] = s.m.clk.mono :: (s.m.fio.grpRetry[g]).filter (fun t => decide (s.m.clk.mono < t + 1500000000)) ∧ m.fio = { s.m.fio with grpRetry := s.m.fio.grpRetry.set g (m.fio.grpRetry[g]) } ∧ m.get (F.FIO_DO_GRP_RETRIES g.val) = (m.fio.grpRetry[g]).length ∧ Only [.fio] [F.FIO_DO_GRP_TRIP g.val, F.FIO_DO_GRP_RETRIES g.val] s.m m) ∧
    (s.m.flag (F.FIO_DO_GRP_TRIP g.val) = true → s.m.flag (F.FIO_DO_GRP_LATCHED g.val) = false → s.m.fioPast (tmGroup g.val) 125000000 = true → 3 ≤ ((s.m.fio.grpRetry[g]).filter (fun t => decide (s.m.clk.mono < t + 1500000000))).length → Does (.doGroupRetry g) s fun m => m.flag (F.FIO_DO_GRP_LATCHED g.val) = true ∧ Only [] [F.FIO_DO_GRP_LATCHED g.val] s.m m) ∧
    (s.m.fioPast (tmGroup g.val) 125000000 = false → exec (.doGroupRetry g) s = .next s) ∧
    (s.m.isO0V h.toNat = true → s.m.flag (F.FIO_DO_GRP_LATCHED g.val) = true → Does (.doGroupLatchClear h g) s fun m => m.flag (F.FIO_DO_GRP_LATCHED g.val) = false ∧ m.flag (F.FIO_DO_GRP_TRIP g.val) = false ∧ Only [] [F.FIO_DO_GRP_LATCHED g.val, F.FIO_DO_GRP_TRIP g.val] s.m m) ∧
    (s.m.isO0V h.toNat = false → exec (.doGroupLatchClear h g) s = .next s) ∧
    (s.m.isO0V h.toNat = true → s.m.flag (F.FIO_DO_STATUS_SC_LATCHED n.val) = true → Does (.doScLatchClear h n) s fun m => m.flag (F.FIO_DO_STATUS_SC_LATCHED n.val) = false ∧ m.flag (F.FIO_DO_STATUS_SC n.val) = false ∧ Only [] [F.FIO_DO_STATUS_SC_LATCHED n.val, F.FIO_DO_STATUS_SC n.val] s.m m) ∧
    (s.m.isO0V h.toNat = false → exec (.doScLatchClear h n) s = .next s) ∧
    (mv.toNat < 16000 → Does (.vauxLost mv) s fun m => m.flag F.FIO_STATUS_VAUX_OK = false ∧ m.flag F.FIO_STATUS_VAUX_LOST = true ∧ m.flag F.PWR_STATUS_VAUX_OK = false ∧ m.get F.PWR_VAUX_MV = mv.toNat ∧ m.get F.PWR_VAUX_MIN_MV = min mv.toNat (s.m.get F.PWR_VAUX_MIN_MV) ∧ OpenEnds s.m m ∧ Logs s.m m .vauxLow 0 [] ∧ Only [.logs] ([F.FIO_STATUS_VAUX_OK, F.FIO_STATUS_VAUX_LOST, F.PWR_STATUS_VAUX_OK, F.PWR_VAUX_MV, F.PWR_VAUX_MIN_MV, F.LOG_STATUS_WAB_FULL] ++ openRegs) s.m m) ∧
    (16000 ≤ mv.toNat → exec (.vauxLost mv) s = .next s) ∧
    (17000 < mv.toNat → Does (.vauxRestored mv) s fun m => m.flag F.FIO_STATUS_VAUX_OK = true ∧ m.flag F.PWR_STATUS_VAUX_OK = true ∧ m.get F.PWR_VAUX_MV = mv.toNat ∧ Only [] [F.FIO_STATUS_VAUX_OK, F.PWR_STATUS_VAUX_OK, F.PWR_VAUX_MV] s.m m) ∧
    (mv.toNat ≤ 17000 → exec (.vauxRestored mv) s = .next s) ∧
    (Does (.doOpenload n ma) s fun m => m.get (F.FIO_DO_STATUS_CURRENT n.val) = ma.toNat % 2 ^ (F.FIO_DO_STATUS_CURRENT n.val).width ∧ m.flag (F.FIO_DO_STATUS_OPENLOAD n.val) = (decide (ma.toNat < 2) && ((s.m.flag (F.FIO_DO_CFG_OPENLOAD_EN n.val) && s.m.pinOn ⟨n.val, by omega⟩) || s.m.flag (F.FIO_DO_STATUS_OPENLOAD n.val))) ∧ Only [] [F.FIO_DO_STATUS_CURRENT n.val, F.FIO_DO_STATUS_OPENLOAD n.val] s.m m)

/-- O21. For every state with a canonical register file: AI_CONVERSION counts in CONVS; MODE 0, 6 or 7 gives VALUE 0.0 with RANGE; in modes 1 to 5 RANGE is set exactly where the unscaled measurement lies outside the mode's limits, PROT holds, or OPEN or SHORT is set, VALUE is the measurement limited to the span, scaled and passed through the filter, which the first conversion and TAU 0 set to its input. AI_PROT_TRIP in modes 2 and 3 sets PROT and RANGE, AI_PROT_RECONNECT clears PROT 1 s later and changes nothing before. AO_FAULT sets or clears OVLD in mode 1 and OPEN in modes 2 and 3. Only the named fields and the filter change. REAL32 rounding is that of log entry 6. (R243, R244, R245, R247, R248, R258) -/
def Obligations.AnalogInputsAndOutputsJudgeTheirSignals : Prop :=
  ∀ (s : State) (n : Fin 16) (x : BitVec 32) (o : Fin 8) (present : Bool),
    let mode := s.m.get (F.FIO_AI_CFG_MODE n.val)
    let u := aiMeasure s.m n.val (s.m.get (F.FIO_AI_CFG_MODE n.val)) x.toNat
    let a := aiMode (s.m.get (F.FIO_AI_CFG_MODE n.val))
    let ovr := fLt b32 (aiMode (s.m.get (F.FIO_AI_CFG_MODE n.val))).spanHi (aiMeasure s.m n.val (s.m.get (F.FIO_AI_CFG_MODE n.val)) x.toNat)
    let under := fLt b32 (aiMeasure s.m n.val (s.m.get (F.FIO_AI_CFG_MODE n.val)) x.toNat) (aiMode (s.m.get (F.FIO_AI_CFG_MODE n.val))).spanLo
    let isOpen := if mode = 4 then ovr else mode = 5 && under
    let isShort := if mode = 4 then under else mode = 5 && ovr
    let v := aiScale s.m n.val mode u
    let tau := s.m.get (F.FIO_AI_CFG_TAU n.val)
    let period := aiPeriod mode (s.m.get (F.FIO_AI_CFG_CONV n.val))
    let y0 := (s.m.fio.ai[n]).y.toNat
    let y := if (s.m.fio.ai[n]).first && tau ≠ 0 then fAdd b32 y0 (fDiv b32 (fMul b32 (fSub b32 v y0) period) (fAdd b32 (fOfInt b32 tau) period)) else v
    regsWf s.m.regs = true →
    ((s.m.get (F.FIO_AI_CFG_MODE n.val) = 0 ∨ 5 < s.m.get (F.FIO_AI_CFG_MODE n.val)) → Does (.aiConversion n x) s fun m => m.get (F.FIO_AI_VALUE_VALUE n.val) = 0 ∧ m.flag (F.FIO_AI_STATUS_RANGE n.val) = true ∧ m.get (F.FIO_AI_STATUS_CONVS n.val) = (s.m.get (F.FIO_AI_STATUS_CONVS n.val) + 1) % 65536 ∧ m.fio = { s.m.fio with ai := s.m.fio.ai.set n { y := 0, first := true } } ∧ Only [.fio] [F.FIO_AI_VALUE_VALUE n.val, F.FIO_AI_STATUS_RANGE n.val, F.FIO_AI_STATUS_CONVS n.val] s.m m) ∧
    (1 ≤ s.m.get (F.FIO_AI_CFG_MODE n.val) ∧ s.m.get (F.FIO_AI_CFG_MODE n.val) ≤ 5 → Does (.aiConversion n x) s fun m => m.get (F.FIO_AI_VALUE_VALUE n.val) = y % 2 ^ 32 ∧ m.flag (F.FIO_AI_STATUS_OPEN n.val) = isOpen ∧ m.flag (F.FIO_AI_STATUS_SHORT n.val) = isShort ∧ m.flag (F.FIO_AI_STATUS_RANGE n.val) = (isOpen || isShort || s.m.flag (F.FIO_AI_STATUS_PROT n.val) || fLt b32 a.okHi u || a.okLo.any (fun l => fLt b32 u l)) ∧ m.get (F.FIO_AI_STATUS_CONVS n.val) = (s.m.get (F.FIO_AI_STATUS_CONVS n.val) + 1) % 65536 ∧ m.fio = { s.m.fio with ai := s.m.fio.ai.set n { y := BitVec.ofNat 32 y, first := true } } ∧ Only [.fio] [F.FIO_AI_VALUE_VALUE n.val, F.FIO_AI_STATUS_RANGE n.val, F.FIO_AI_STATUS_OPEN n.val, F.FIO_AI_STATUS_SHORT n.val, F.FIO_AI_STATUS_CONVS n.val] s.m m) ∧
    ((s.m.get (F.FIO_AI_CFG_MODE n.val) = 2 ∨ s.m.get (F.FIO_AI_CFG_MODE n.val) = 3) → Does (.aiProtTrip n) s fun m => m.flag (F.FIO_AI_STATUS_PROT n.val) = true ∧ m.flag (F.FIO_AI_STATUS_RANGE n.val) = true ∧ m.fio = { s.m.fio with since := mapPut (tmProt n.val) s.m.clk.mono s.m.fio.since } ∧ Only [.fio] [F.FIO_AI_STATUS_PROT n.val, F.FIO_AI_STATUS_RANGE n.val] s.m m) ∧
    (s.m.fioPast (tmProt n.val) 25000000 = true → Does (.aiProtReconnect n) s fun m => m.flag (F.FIO_AI_STATUS_PROT n.val) = false ∧ Only [] [F.FIO_AI_STATUS_PROT n.val] s.m m) ∧
    (s.m.fioPast (tmProt n.val) 25000000 = false → exec (.aiProtReconnect n) s = .next s) ∧
    (s.m.get (F.FIO_AO_CFG_MODE o.val) = 1 → Does (.aoFault o present) s fun m => m.flag (F.FIO_AO_STATUS_OVLD o.val) = present ∧ Only [] [F.FIO_AO_STATUS_OVLD o.val] s.m m) ∧
    (2 ≤ s.m.get (F.FIO_AO_CFG_MODE o.val) → Does (.aoFault o present) s fun m => m.flag (F.FIO_AO_STATUS_OPEN o.val) = present ∧ Only [] [F.FIO_AO_STATUS_OPEN o.val] s.m m)

/-- O22. For every state with a canonical register file and an island n: a command frame while a current w is commanded shows w in CMD; a powered island keeps w until LT_CURRENT_APPLY, which applies it, but takes it at once where it held or stood at its alarm; with no current commanded nothing reaches it. A report shows current and voltage, sets LINK and clears OPEN; the fourth measurement in a row more than 0.1 mA below the command sets COMPLIANCE, counts it and logs EV_LT_COMPLIANCE, the fourth in a row within 0.05 mA clears it. LT_OPEN, 20 ms after the last report, sets OPEN, clears LINK and logs EV_LT_OPEN. Loss of frames makes a powered island hold; LT_HOLD's end drives its alarm level. A character enters the 256-byte buffer while the modem is enabled, or sets RX_OVF; a parity error is shown. Power-up regulates at 3.50 mA and takes alarm level, hold and modem from LTX.CFG where the plan uses it. Times are log entry 1. (R250, R251, R252, R253, R254, R255, R256, R259) -/
def Obligations.LoopTransmittersFollowFramesAndReports : Prop :=
  ∀ (s : State) (n : Fin 8) (w : BitVec 32) (ma : BitVec 32) (tv : BitVec 8) (c : BitVec 8) (pe : Bool),
    let i := s.m.fio.lt[n]
    let diff := fSub b32 (s.m.get (F.LTX_CMD_CMD n.val)) ma.toNat
    let short := if fLt b32 0x3DCCCCCD diff then (s.m.fio.lt[n]).short + 1 else 0
    let close := if fLe b32 (fAbs b32 diff) 0x3D4CCCCD then (s.m.fio.lt[n]).close + 1 else 0
    regsWf s.m.regs = true →
    (s.m.pin ⟨40 + n.val, by omega⟩ = .value w → (s.m.fio.lt[n]).powered = true → ((s.m.fio.lt[n]).holding || (s.m.fio.lt[n]).atAlarm) = true → Does (.ltCommandFrame n) s fun m => m.get (F.LTX_CMD_CMD n.val) = w.toNat ∧ m.flag (F.LTX_STATUS_AT_ALARM n.val) = false ∧ m.fio = { s.m.fio with lt := s.m.fio.lt.set n { i with cur := w, pend := none, holding := false, atAlarm := false } } ∧ Only [.fio] [F.LTX_CMD_CMD n.val, F.LTX_STATUS_AT_ALARM n.val] s.m m) ∧
    (s.m.pin ⟨40 + n.val, by omega⟩ = .value w → (s.m.fio.lt[n]).powered = true → ((s.m.fio.lt[n]).holding || (s.m.fio.lt[n]).atAlarm) = false → Does (.ltCommandFrame n) s fun m => m.get (F.LTX_CMD_CMD n.val) = w.toNat ∧ m.flag (F.LTX_STATUS_AT_ALARM n.val) = false ∧ m.fio = { s.m.fio with lt := s.m.fio.lt.set n { i with pend := some w } } ∧ Only [.fio] [F.LTX_CMD_CMD n.val, F.LTX_STATUS_AT_ALARM n.val] s.m m) ∧
    (s.m.pin ⟨40 + n.val, by omega⟩ = .ltReset → Does (.ltCommandFrame n) s fun m => m.flag (F.LTX_STATUS_AT_ALARM n.val) = (s.m.fio.lt[n]).atAlarm ∧ Only [] [F.LTX_STATUS_AT_ALARM n.val] s.m m) ∧
    ((s.m.fio.lt[n]).pend = some w → Does (.ltCurrentApply n) s fun m => m.fio = { s.m.fio with lt := s.m.fio.lt.set n { i with cur := w, pend := none } } ∧ Only [.fio] [] s.m m) ∧
    (Does (.ltReport n ma tv) s fun m => m.get (F.LTX_READ_READ n.val) = ma.toNat ∧ m.get (F.LTX_STATUS_TERMV n.val) = tv.toNat ∧ m.flag (F.LTX_STATUS_LINK n.val) = true ∧ m.flag (F.LTX_STATUS_OPEN n.val) = false ∧ m.fio = { s.m.fio with lt := s.m.fio.lt.set n { i with short := min short 4, close := min close 4 }, since := mapPut (tmReport n.val) s.m.clk.mono s.m.fio.since } ∧ m.flag (F.LTX_STATUS_COMPLIANCE n.val) = (decide (close < 4) && (decide (4 ≤ short) || s.m.flag (F.LTX_STATUS_COMPLIANCE n.val))) ∧ (if 4 ≤ short ∧ s.m.flag (F.LTX_STATUS_COMPLIANCE n.val) = false then Logs s.m m .ltCompliance n.val [] ∧ m.get (F.LTX_STATUS_COMPL_EVENTS n.val) = satNat 16 (s.m.get (F.LTX_STATUS_COMPL_EVENTS n.val) + 1) else m.logs = s.m.logs ∧ m.get (F.LTX_STATUS_COMPL_EVENTS n.val) = s.m.get (F.LTX_STATUS_COMPL_EVENTS n.val)) ∧ Only [.fio, .logs] [F.LTX_READ_READ n.val, F.LTX_STATUS_TERMV n.val, F.LTX_STATUS_LINK n.val, F.LTX_STATUS_OPEN n.val, F.LTX_STATUS_COMPLIANCE n.val, F.LTX_STATUS_COMPL_EVENTS n.val, F.LOG_STATUS_WAB_FULL] s.m m) ∧
    (s.m.flag (F.LTX_STATUS_OPEN n.val) = false → s.m.fioPast (tmReport n.val) 500000 = true → Does (.ltOpen n) s fun m => m.flag (F.LTX_STATUS_OPEN n.val) = true ∧ m.flag (F.LTX_STATUS_LINK n.val) = false ∧ Logs s.m m .ltOpen n.val [] ∧ Only [.logs] [F.LTX_STATUS_OPEN n.val, F.LTX_STATUS_LINK n.val, F.LOG_STATUS_WAB_FULL] s.m m) ∧
    ((s.m.fio.lt[n]).powered = true → Does (.ltFrameLoss n) s fun m => m.fio = { s.m.fio with lt := s.m.fio.lt.set n { i with holding := true, pend := none } } ∧ Only [.fio] [] s.m m) ∧
    ((s.m.fio.lt[n]).holding = true → Does (.ltHoldExpiry n) s fun m => m.fio = { s.m.fio with lt := s.m.fio.lt.set n { i with cur := if i.alarmHigh then 0x41AC0000 else 0x40600000, atAlarm := true } } ∧ m.flag (F.LTX_STATUS_AT_ALARM n.val) = true ∧ Only [.fio] [F.LTX_STATUS_AT_ALARM n.val] s.m m) ∧
    ((s.m.fio.lt[n]).modemEn = true → (s.m.fio.lt[n]).rx.length < 256 → Does (.ltModemChar n c pe) s fun m => m.fio = { s.m.fio with lt := s.m.fio.lt.set n { i with rx := i.rx ++ [c] } } ∧ m.get (F.LTX_MODEM_RX_LEVEL n.val) = i.rx.length + 1 ∧ m.flag (F.LTX_MODEM_PARITY_ERR n.val) = (pe || s.m.flag (F.LTX_MODEM_PARITY_ERR n.val)) ∧ Only [.fio] [F.LTX_MODEM_RX_LEVEL n.val, F.LTX_MODEM_PARITY_ERR n.val] s.m m) ∧
    ((s.m.fio.lt[n]).modemEn = true → 256 ≤ (s.m.fio.lt[n]).rx.length → Does (.ltModemChar n c pe) s fun m => m.flag (F.LTX_MODEM_RX_OVF n.val) = true ∧ m.flag (F.LTX_MODEM_PARITY_ERR n.val) = (pe || s.m.flag (F.LTX_MODEM_PARITY_ERR n.val)) ∧ Only [] [F.LTX_MODEM_RX_OVF n.val, F.LTX_MODEM_PARITY_ERR n.val] s.m m) ∧
    (Does (.islandPowerUp n) s fun m => m.fio = { s.m.fio with lt := s.m.fio.lt.set n { i with powered := true, cur := 0x40600000, pend := none, holding := false, atAlarm := false, alarmHigh := if s.m.flag (F.LTX_CFG_EN n.val) then s.m.flag (F.LTX_CFG_ALARM n.val) else i.alarmHigh, holdTenths := if s.m.flag (F.LTX_CFG_EN n.val) then min 600 (s.m.get (F.LTX_CFG_HOLD n.val)) else i.holdTenths, modemEn := if s.m.flag (F.LTX_CFG_EN n.val) then s.m.flag (F.LTX_CFG_MODEM_EN n.val) else i.modemEn } } ∧ Only [.fio] [] s.m m)

/-- O23. For every state with a canonical register file: a Sync of TIME_PTP's domain and transport from the chosen master, with the time unit running, measures origin + path delay - receipt, good within +-100 ns (log entry 130); an edge of an enabled PPS input, less IN_DELAY, measures its distance from the nearest whole second, good 1 s +-1 us after the edge before. A measurement changes that source alone; where the source steers, TIME_OFFSET shows it and TIME_FREQ stays within +-200 ppm and moves by at most 1 ppm in a second, not away from zero offset (by how much is a free value, log entry 10). A source with 16 good intervals (PPS: 8 edges) qualifies; the first after FREE steps building time where the state lets it step at once. An announce of fewer than 255 steps is kept by its sender; the best of the masters is shown with UTC offset and leap flags from the source in use, and a changed grandmaster loses the source. A timeout or two missing edges lose the source: a loss of the one in use is counted, and LOCKED or EXTERNAL without another become HOLDOVER. The order of masters is log entry 129. A delay answer by the mechanism that P2P sets gives the path delay. (R149, R151, R152, R153, R154, R156, R157, R158, R171, R429, R525) -/
def Obligations.TimeSourcesMeasureQualifyAndAreLost : Prop :=
  ∀ (s : State) (u : Fin 2) (k : Fin 3) (h : PtpHead) (a : Announce) (origin : Nat) (rx : Nat) (t : Nat) (delay : Nat) (peer : Bool),
    let x := uplSrc u
    let y := if k = 0 then Source.uplA else if k = 1 then Source.uplB else Source.pps
    let off := 5 * ((origin : Int) + s.m.clk.pathDelay[u] - rx)
    let e := 5 * t - 32 * s.m.get F.TIME_PPS_IN_DELAY
    let near := (5 * t - 32 * s.m.get F.TIME_PPS_IN_DELAY + 16000000000) / 32000000000 * 32000000000
    let ms := mapPut h.sender.toNat a (s.m.src (uplSrc u)).masters
    let old := (s.m.src (uplSrc u)).master.map (fun b => b.2.gm)
    let new := (SrcSt.master { masters := mapPut h.sender.toNat a (s.m.src (uplSrc u)).masters }).map (fun b => b.2.gm)
    regsWf s.m.regs = true →
    (s.m.ptpTakes u h = true → s.m.fromMaster u h = true → s.m.clk.run = true → Does (.ptpSync u h origin rx) s fun m => Measured s.m m x off (decide (off.natAbs ≤ 3200)) ∧ Only [.clk, .logs, .met, .freeCtr] timeRegs s.m m) ∧
    (s.m.flag F.TIME_PPS_IN_EN = true → s.m.clk.run = true → Does (.tsyncInEdge t) s fun m => Measured s.m m .pps ((near : Int) - e) ((s.m.src .pps).lastEdge.any (fun l => decide ((e : Int) - l - 32000000000 ≤ 32000 ∧ -32000 ≤ (e : Int) - l - 32000000000))) ∧ (m.src .pps).lastEdge = some e ∧ Only [.clk, .logs, .met, .freeCtr] timeRegs s.m m) ∧
    (srcEnabled s.m (if k = 0 then Source.uplA else if k = 1 then Source.uplB else Source.pps) = true → (s.m.src (if k = 0 then Source.uplA else if k = 1 then Source.uplB else Source.pps)).qual = false → (if k = 2 then 8 else 16) ≤ (s.m.src (if k = 0 then Source.uplA else if k = 1 then Source.uplB else Source.pps)).good → Does (.sourceQualified k) s fun m => m.src y = { s.m.src y with qual := true } ∧ m.flag (qualFld y) = true ∧ m.clk.everQual = true ∧ (∀ i : Fin 3, i ≠ k → m.clk.src[i] = s.m.clk.src[i]) ∧ (s.m.clk.everQual = false → s.m.twin.follower = false → s.m.stepAtOnce = true → m.clk.ns = ofInt 64 ((((s.m.clk.ns * 2 ^ 32 + s.m.clk.frac : Nat) : Int) + (s.m.src y).offset * 2 ^ 27) / 2 ^ 32)) ∧ Only [.clk, .logs, .met] ([qualFld y] ++ timeRegs) s.m m) ∧
    (s.m.ptpTakes u h = true → a.steps.toNat < 255 → (((s.m.src (uplSrc u)).master.map (fun b => b.2.gm) = none ∨ (s.m.src (uplSrc u)).master.map (fun b => b.2.gm) = (SrcSt.master { masters := mapPut h.sender.toNat a (s.m.src (uplSrc u)).masters }).map (fun b => b.2.gm))) → (s.m.clk.selected = some (uplSrc u) ∨ s.m.clk.selected = none) → Does (.ptpAnnounce u h a) s fun m => m.src x = { s.m.src x with masters := ms } ∧ MasterShown s.m m x ∧ Only [.clk] masterRegs s.m m) ∧
    (s.m.ptpTakes u h = true → a.steps.toNat < 255 → (s.m.src (uplSrc u)).master.map (fun b => b.2.gm) ≠ none → (s.m.src (uplSrc u)).master.map (fun b => b.2.gm) ≠ (SrcSt.master { masters := mapPut h.sender.toNat a (s.m.src (uplSrc u)).masters }).map (fun b => b.2.gm) → Does (.ptpAnnounce u h a) s fun m => (m.src x).masters = ms ∧ SourceLost s.m m x ∧ Only [.clk, .logs] (masterRegs ++ (lossRegs x)) s.m m) ∧
    (255 ≤ a.steps.toNat → exec (.ptpAnnounce u h a) s = .next s) ∧
    (Does (.announceTimeout u) s fun m => SourceLost s.m m x ∧ (m.src x).masters = ((s.m.src x).master.map (fun b => mapDel b.1 (s.m.src x).masters)).getD [] ∧ Only [.clk, .logs] (lossRegs x) s.m m) ∧
    (Does (.syncTimeout u) s fun m => SourceLost s.m m x ∧ (m.src x).masters = (s.m.src x).masters ∧ Only [.clk, .logs] (lossRegs x) s.m m) ∧
    (Does .ppsLoss s fun m => SourceLost s.m m .pps ∧ (m.src .pps).lastEdge = none ∧ Only [.clk, .logs] (lossRegs .pps) s.m m) ∧
    (s.m.ptpTakes u h = true → s.m.flag F.TIME_PTP_P2P = peer → ((peer = true ∨ s.m.fromMaster u h = true)) → exec (.ptpDelayResponse u h peer delay) s = .next { s with m := { s.m with clk := { s.m.clk with pathDelay := s.m.clk.pathDelay.set u delay } } })

/-- O24. For every state with a canonical register file: TIME_STEP with a pending offset (in units of 1/32 ns), with no swap using the window, adds it to building time at the end of its second, clears STEP_PENDING, counts in STEPS, logs EV_TIME_STEP with the offset in ns, and pauses the Drum to the next whole second of the corrected time; a swap armed for a second up to that one is armed for the one after it (log entry 123). TSYNC_OUT_PULSE raises the pin exactly where OUT_EN is 1 and the state is LOCKED, EXTERNAL or HOLDOVER or OUT_FREE is 1; TSYNC_OUT_FALL lowers it. HOLDOVER_TO_FREE at a time at which 20 ns + 100 ns for each second of HOLDOVER exceeds HOLD_ERR (0 taken as 1 us), in HOLDOVER of a module that does not follow its peer, shows FREE with source 0 and logs EV_SYNC_STATE 3 to 0, so that the next qualification is the first; at a time within HOLD_ERR it changes nothing. (R156, R157, R158, R159, R160, R171, R360, R525) -/
def Obligations.TimeStepsPulsesAndFreeRun : Prop :=
  ∀ (s : State) (o : Int) (t : Nat),
    let st := s.m.get F.TIME_STATUS_STATE
    let now := (((((s.m.clk.ns + 999999999) / 1000000000 * 1000000000) * 2 ^ 32 + s.m.clk.frac : Nat) : Int) + o * 2 ^ 27) / 2 ^ 32
    regsWf s.m.regs = true →
    (s.m.clk.stepPending = some o → s.m.clk.run = true → s.m.plan.migrated = false → Does .timeStep s fun m => m.clk.ns = ofInt 64 now ∧ m.clk.stepPending = none ∧ m.clk.pausedUntil = some ((m.clk.ns + 999999999) / 1000000000) ∧ m.clk = { s.m.clk with ns := m.clk.ns, frac := m.clk.frac, mono := m.clk.mono, stepPending := none, pausedUntil := m.clk.pausedUntil } ∧ m.flag F.TIME_STATUS_STEP_PENDING = false ∧ m.get F.TIME_EVENTS_STEPS = satNat F.TIME_EVENTS_STEPS.width (s.m.get F.TIME_EVENTS_STEPS + 1) ∧ Logs s.m m .timeStep 0 (leBytes 8 (ofInt 64 (o / 32))) ∧ m.met = { s.m.met with stepped := true } ∧ m.plan = { s.m.plan with armed := s.m.plan.armed.map (fun a => if a ≤ (m.clk.ns + 999999999) / 1000000000 then (m.clk.ns + 999999999) / 1000000000 + 1 else a) } ∧ Only [.clk, .met, .logs, .plan, .fired] [F.TIME_STATUS_STEP_PENDING, F.TIME_EVENTS_STEPS, F.PLAN_SWAP_SEC_SEC, F.LOG_STATUS_WAB_FULL] s.m m) ∧
    (exec .tsyncOutPulse s = .next { s with m := { s.m with clk := { s.m.clk with tsyncOut := s.m.flag F.TIME_PPS_OUT_EN && (decide (2 ≤ st ∧ st ≤ 4) || s.m.flag F.TIME_PPS_OUT_FREE) } } }) ∧
    (exec .tsyncOutFall s = .next { s with m := { s.m with clk := { s.m.clk with tsyncOut := false } } }) ∧
    (s.m.get F.TIME_STATUS_STATE = 3 → s.m.twin.follower = false → s.m.clk.run = true → s.m.clk.ns ≤ t → max 1 (s.m.get F.TIME_CFG_HOLD_ERR) * 10 ^ 12 < 20 * 10 ^ 9 + 100 * (t - s.m.clk.holdEntry) → Does (.holdoverToFree t) s fun m => m.get F.TIME_STATUS_STATE = 0 ∧ m.get F.TIME_STATUS_SOURCE = 0 ∧ Logs s.m m .syncState 0 [3, 0] ∧ m.clk = { (s.m.reach t).clk with prevState := 3, beyond := 0, everQual := false, selected := none } ∧ Only [.clk, .logs] [F.TIME_STATUS_STATE, F.TIME_STATUS_SOURCE, F.LOG_STATUS_WAB_FULL] s.m m) ∧
    (s.m.get F.TIME_STATUS_STATE = 3 → 20 * 10 ^ 9 + 100 * (t - s.m.clk.holdEntry) ≤ max 1 (s.m.get F.TIME_CFG_HOLD_ERR) * 10 ^ 12 → exec (.holdoverToFree t) s = .next s)

/-- O25. For every state with a canonical register file, the Jack path enabled and at most 64 entries: JACK_INPUT_CHANGE gives the input its level; the active entries are those with EN whose condition holds or whose latch is held, latches are held by active entries with LATCH, every output takes the level its active entries drive (0 where any drives 0), JACK_ACT shows the active entries, JACK_HIT keeps every entry that became active, and OPENLOAD ends at an output that is off. JACK_RELEASE_TIMEOUT with RELEASE_MS not 0, JACK_RESET by a session that may (a SAFETY session with an unlock window and room in the change log for a safety entry, OPERATOR scope 0 or SERVICE for another) and JACK_RESET_ALL end a latch whose condition is 0. A reset of a safety entry gives a change record of kind 3, and one of kind 6 after it where nothing is released. JACK_COMPARE with PD9 on is a module safety fault with cause 2. (R163, R164, R165, R166, R167, R169, R271, R277) -/
def Obligations.JackPathFollowsInputsAndLatches : Prop :=
  ∀ (s : State) (i : Fin 24) (k : Fin 64) (level : Bool) (h : BitVec 10) (e : BitVec 64),
    let inp := BitVec.ofNat 24 (putBits s.m.jack.inputs.toNat i.val 1 (b2n level))
    regsWf s.m.regs = true → s.m.jackTable.length ≤ 64 →
    (s.m.jack.enabled = true → Does (.jackInputChange i level) s fun m => JackFollows s.m m inp s.m.jack.latched ∧ Only [.jack, .outs, .logs] jackRegs s.m m) ∧
    (s.m.jack.enabled = true → s.m.jackTable[k.val]? = some e → jRelease e ≠ 0 → s.m.jack.latched.contains k.val = true → jCond s.m.jack.inputs e = false → Does (.jackReleaseTimeout k) s fun m => JackFollows s.m m s.m.jack.inputs (s.m.jack.latched.filter (fun j => j != k.val)) ∧ m.jack.latched.contains k.val = false ∧ m.jack.active.contains k.val = false ∧ Only [.jack, .outs, .logs] jackRegs s.m m) ∧
    (s.m.jack.enabled = true → s.m.jackTable[k.val]? = some e → jSafety e = false → s.m.isO0V h.toNat = true → s.m.jack.latched.contains k.val = true → jCond s.m.jack.inputs e = false → Does (.jackReset h k) s fun m => JackFollows s.m m s.m.jack.inputs (s.m.jack.latched.filter (fun j => j != k.val)) ∧ m.jack.latched.contains k.val = false ∧ Only [.jack, .outs, .logs] jackRegs s.m m) ∧
    (s.m.jack.enabled = true → s.m.jackTable[k.val]? = some e → jSafety e = true → s.m.isUnlocked h.toNat = true → s.m.logs.changeFull = false → s.m.jack.latched.contains k.val = true → jCond s.m.jack.inputs e = false → Does (.jackReset h k) s fun m => JackFollows s.m m s.m.jack.inputs (s.m.jack.latched.filter (fun j => j != k.val)) ∧ m.jack.latched.contains k.val = false ∧ Only [.jack, .outs, .logs] jackRegs s.m m) ∧
    (s.m.jackTable[k.val]? = some e → jSafety e = true → s.m.isUnlocked h.toNat = true → s.m.logs.changeFull = false → s.m.jack.latched.contains k.val = false → Does (.jackReset h k) s fun m => m.logs = ((s.m.change 3 h.toNat k.val k.val).change 6 h.toNat k.val k.val).logs ∧ Only [.logs] [F.LOG_STATUS_WAB_FULL] s.m m) ∧
    (s.m.jackTable[k.val]? = some e → jSafety e = true → s.m.isUnlocked h.toNat = false → exec (.jackReset h k) s = .next s) ∧
    (s.m.jack.enabled = true → s.m.isO0V h.toNat = true → Does (.jackResetAll h) s fun m => m.jack.inputs = s.m.jack.inputs ∧ (∀ j : Fin 64, (s.m.jackTable[j.val]?).any (fun e => !jSafety e && !jCond s.m.jack.inputs e) = true → m.jack.latched.contains j.val = false) ∧ Only [.jack, .outs, .logs] jackRegs s.m m) ∧
    (s.m.isOn (swPd 9) = true → Does .jackCompare s fun m => SafetyFaulted s.m m 2 ∧ Only stopParts faultRegs s.m m)

/-- O26. For every state with a canonical register file and a pair k: SI_FILTER_CHANGE gives the one channel its level, shown raw; with a fault standing, both channels in the demand state clear AWAIT_DEMAND, and after that both in the healthy state clear both faults; the value is 1 exactly where the mode is not off, both channels are healthy and no fault stands; SI_FAULT tells whether any pair has a fault. SI_DISCREPANCY with the channels in disagreement for longer than DISC (before that it changes nothing) sets DISC_FAULT and AWAIT_DEMAND, gives value 0 and logs EV_SI_DISCREPANCY, or, with a fault standing, sets AWAIT_DEMAND again. SI_TEST_FAULT sets TEST_FAULT, gives value 0 unless its first clearing steps already hold, and logs EV_SI_TEST. That the rows carry FILT and the 50 us is log entry 1. (R260, R261, R262, R270, R283) -/
def Obligations.SafetyInputPairsFaultAndClear : Prop :=
  ∀ (s : State) (k : Fin 8) (chB : Bool) (level : Bool),
    regsWf s.m.regs = true →
    (Does (.siFilterChange k chB level) s fun m => (∀ j : Fin 8, m.safe.filtA.getLsbD j.val = (if !chB && j == k then level else s.m.safe.filtA.getLsbD j.val)) ∧ (∀ j : Fin 8, m.safe.filtB.getLsbD j.val = (if chB && j == k then level else s.m.safe.filtB.getLsbD j.val)) ∧ m.safe = { s.m.safe with filtA := m.safe.filtA, filtB := m.safe.filtB, differ := if siHealthyA s.m k = siHealthyB s.m k ∧ siHealthyA m k ≠ siHealthyB m k then mapPut k.val s.m.clk.mono s.m.safe.differ else s.m.safe.differ } ∧ m.flag (if chB then F.SAFE_SI_STATUS_RAW_B k.val else F.SAFE_SI_STATUS_RAW_A k.val) = level ∧ m.flag (F.SAFE_SI_STATUS_AWAIT_DEMAND k.val) = (s.m.flag (F.SAFE_SI_STATUS_AWAIT_DEMAND k.val) && !(siFault s.m k.val && !siHealthyA m k && !siHealthyB m k)) ∧ m.flag (F.SAFE_SI_STATUS_DISC_FAULT k.val) = (s.m.flag (F.SAFE_SI_STATUS_DISC_FAULT k.val) && !(!s.m.flag (F.SAFE_SI_STATUS_AWAIT_DEMAND k.val) && siHealthyA m k && siHealthyB m k)) ∧ m.flag (F.SAFE_SI_STATUS_TEST_FAULT k.val) = (s.m.flag (F.SAFE_SI_STATUS_TEST_FAULT k.val) && !(!s.m.flag (F.SAFE_SI_STATUS_AWAIT_DEMAND k.val) && siHealthyA m k && siHealthyB m k)) ∧ m.flag (F.SAFE_SI_STATUS_VALUE k.val) = (siMode s.m k.val != 0 && siHealthyA m k && siHealthyB m k && !siFault m k.val) ∧ m.flag F.SAFE_STATUS_SI_FAULT = (List.range 8).any (fun j => siFault m j) ∧ Only [.safe] [F.SAFE_SI_STATUS_RAW_A k.val, F.SAFE_SI_STATUS_RAW_B k.val, F.SAFE_SI_STATUS_VALUE k.val, F.SAFE_SI_STATUS_AWAIT_DEMAND k.val, F.SAFE_SI_STATUS_DISC_FAULT k.val, F.SAFE_SI_STATUS_TEST_FAULT k.val, F.SAFE_STATUS_SI_FAULT] s.m m) ∧
    (siMode s.m k.val ≠ 0 → siHealthyA s.m k ≠ siHealthyB s.m k → s.m.siPast k = true → siFault s.m k.val = false → Does (.siDiscrepancy k) s fun m => m.flag (F.SAFE_SI_STATUS_DISC_FAULT k.val) = true ∧ m.flag (F.SAFE_SI_STATUS_AWAIT_DEMAND k.val) = true ∧ m.flag (F.SAFE_SI_STATUS_VALUE k.val) = false ∧ m.flag F.SAFE_STATUS_SI_FAULT = true ∧ Logs s.m m .siDiscrepancy k.val [] ∧ Only [.logs] [F.SAFE_SI_STATUS_VALUE k.val, F.SAFE_SI_STATUS_AWAIT_DEMAND k.val, F.SAFE_SI_STATUS_DISC_FAULT k.val, F.SAFE_STATUS_SI_FAULT, F.LOG_STATUS_WAB_FULL] s.m m) ∧
    (siMode s.m k.val ≠ 0 → siHealthyA s.m k ≠ siHealthyB s.m k → s.m.siPast k = true → siFault s.m k.val = true → Does (.siDiscrepancy k) s fun m => m.flag (F.SAFE_SI_STATUS_AWAIT_DEMAND k.val) = true ∧ Only [] [F.SAFE_SI_STATUS_AWAIT_DEMAND k.val] s.m m) ∧
    (s.m.siPast k = false → exec (.siDiscrepancy k) s = .next s) ∧
    (siHealthyA s.m k ≠ siHealthyB s.m k → Does (.siTestFault k chB) s fun m => m.flag (F.SAFE_SI_STATUS_TEST_FAULT k.val) = true ∧ m.flag (F.SAFE_SI_STATUS_VALUE k.val) = false ∧ m.flag F.SAFE_STATUS_SI_FAULT = true ∧ m.flag (F.SAFE_SI_STATUS_AWAIT_DEMAND k.val) = true ∧ Logs s.m m .siTest k.val (leBytes 1 (b2n chB)) ∧ Only [.logs] [F.SAFE_SI_STATUS_VALUE k.val, F.SAFE_SI_STATUS_AWAIT_DEMAND k.val, F.SAFE_SI_STATUS_TEST_FAULT k.val, F.SAFE_STATUS_SI_FAULT, F.LOG_STATUS_WAB_FULL] s.m m)

/-- O27. For every state with a canonical register file and PD9 on: a channel k that is on takes its off-pulse at 250 ms (channel B: 750 ms) + 10 ms x (k - 1) of the building second (its pin then drives off), and one that is off skips it; the end of the pulse makes the check after it due. In the pulse a channel that reads on is a pair fault NOT_OFF (1), a changed reading of the other channel CROSS (3); after it a channel commanded on that reads off is NO_ON (2), one that reads on counts in PULSES. SO_DARK_FAIL of a channel commanded off is NOT_OFF, SO_ON_FAIL of one commanded on outside its pulse NO_ON, SO_OVERLOAD cause 4. A pair fault of a pair without a latch sets the latch with cause and channel, shows them, requests both channels safe and logs EV_SO_FAULT. SO_BOTH_ON with both commanded off and a failed SAFETY_SELFTEST are module safety faults with causes 3 and 4. The unlock window closes 300 s after the session's last safety command, the unlock block at its time. (R268, R269, R271, R280) -/
def Obligations.SafetyOutputTestsLatchPairFaults : Prop :=
  ∀ (s : State) (k : Fin 4) (chB : Bool) (own : Bool) (other : Bool) (pass : Bool) (h : BitVec 10) (x : Sess),
    regsWf s.m.regs = true →
    (s.m.isOn (swPd 9) = true → s.m.pinOn (soOut k chB) = true → (if chB then 750 else 250) * 1000000 + 10000000 * k.val ≤ s.m.clk.ns % 1000000000 → s.m.clk.ns % 1000000000 < (if chB then 750 else 250) * 1000000 + 10000000 * k.val + 200000 → s.m.safe.pulse.contains (soCh k chB).val = false → Does (.soOffPulse k chB) s fun m => m.safe = { s.m.safe with pulse := s.m.safe.pulse ++ [(soCh k chB).val] } ∧ m.pin (soOut k chB) = .off ∧ Only [.safe] [] s.m m) ∧
    ((s.m.clk.ns % 1000000000 < (if chB then 750 else 250) * 1000000 + 10000000 * k.val ∨ (if chB then 750 else 250) * 1000000 + 10000000 * k.val + 200000 ≤ s.m.clk.ns % 1000000000) → exec (.soOffPulse k chB) s = .next s) ∧
    (s.m.pinOn (soOut k chB) = false → exec (.soOffPulse k chB) s = .next s) ∧
    (s.m.safe.pulse.contains (soCh k chB).val = true → Does (.offPulseEnd k chB) s fun m => m.safe = { s.m.safe with pulse := s.m.safe.pulse.filter (fun d => d != (soCh k chB).val), after := s.m.safe.after ++ [(soCh k chB).val] } ∧ Only [.safe] [] s.m m) ∧
    (s.m.safe.pulse.contains (soCh k chB).val = true → own = true → s.m.safe.latch[k] = none → Does (.soPulseCheck k chB own other) s fun m => PairFaulted s.m m k 1 chB ∧ Only pairParts (pairRegs k) s.m m) ∧
    (s.m.safe.pulse.contains (soCh k chB).val = true → own = false → other ≠ s.m.readback k (!chB) → s.m.safe.latch[k] = none → Does (.soPulseCheck k chB own other) s fun m => PairFaulted s.m m k 3 chB ∧ Only pairParts (pairRegs k) s.m m) ∧
    (s.m.safe.pulse.contains (soCh k chB).val = false → s.m.safe.after.contains (soCh k chB).val = true → soCmd s.m k chB = true → own = false → s.m.safe.latch[k] = none → Does (.soPulseCheck k chB own other) s fun m => PairFaulted s.m m k 2 chB ∧ Only pairParts (pairRegs k) s.m m) ∧
    (s.m.safe.pulse.contains (soCh k chB).val = false → s.m.safe.after.contains (soCh k chB).val = true → soCmd s.m k chB = true → own = true → Does (.soPulseCheck k chB own other) s fun m => m.get (F.SAFE_SO_STATUS_PULSES k.val) = (s.m.get (F.SAFE_SO_STATUS_PULSES k.val) + 1) % 2 ^ (F.SAFE_SO_STATUS_PULSES k.val).width ∧ m.safe.after = s.m.safe.after.filter (fun d => d != (soCh k chB).val) ∧ Only [.safe] [F.SAFE_SO_STATUS_PULSES k.val] s.m m) ∧
    (s.m.isOn (swPd 9) = true → soCmd s.m k chB = false → s.m.safe.latch[k] = none → Does (.soDarkFail k chB) s fun m => PairFaulted s.m m k 1 chB ∧ Only pairParts (pairRegs k) s.m m) ∧
    (s.m.isOn (swPd 9) = true → soCmd s.m k chB = true → s.m.safe.pulse.contains (soCh k chB).val = false → s.m.safe.latch[k] = none → Does (.soOnFail k chB) s fun m => PairFaulted s.m m k 2 chB ∧ Only pairParts (pairRegs k) s.m m) ∧
    (s.m.isOn (swPd 9) = true → s.m.safe.latch[k] = none → Does (.soOverload k chB) s fun m => PairFaulted s.m m k 4 chB ∧ Only pairParts (pairRegs k) s.m m) ∧
    (s.m.isOn (swPd 9) = true → soCmd s.m k false = false → soCmd s.m k true = false → Does (.soBothOn k) s fun m => SafetyFaulted s.m m 3 ∧ Only ([.safe] ++ stopParts) faultRegs s.m m) ∧
    (s.m.isOn (swPd 9) = true → pass = false → Does (.safetySelftest pass) s fun m => SafetyFaulted s.m m 4 ∧ Only stopParts faultRegs s.m m) ∧
    (s.m.sess h.toNat = some x → x.safeAt + 300000 ≤ s.m.optime → Does (.unlockWindowExpiry h) s fun m => m.sess h.toNat = some { x with unlocked := false } ∧ m.isUnlocked h.toNat = false ∧ (∀ j : Fin 1024, j.val ≠ h.toNat → m.sess j.val = s.m.sess j.val) ∧ m.orpor = { s.m.orpor with sessions := m.orpor.sessions } ∧ Only [.orpor] [] s.m m) ∧
    (s.m.safe.blocked = true → s.m.safe.blockUntil ≤ s.m.optime → Does .unlockBlockExpiry s fun m => m.safe = { s.m.safe with blocked := false, fails := 0 } ∧ Only [.safe] [] s.m m)

/-- O28. For every state with a canonical register file and a port with an exchange e of request r in progress: a good reply ends it well (station not failed, EXCH counted, COMMFAIL of its points 0) and puts the value its one bound point's field stands for into the port buffer; an exception ends it as failed; a reply that fails its check counts in RXERR and is a failed attempt; a timeout is a failed attempt; with fewer attempts than RETRY, and none that would reach the station's next planned slot, the attempt is repeated (counted in RETRIES), else the exchange fails (FAILS counted, COMMFAIL set). A DALI collision, and the close of the TCP connection of the station in use, are failed attempts. The MS/TP token lets a waiting exchange go; with none it stays only for a pass-through window. DALI bus power below 9.5 V ends the exchange as failed and shows NO_POWER; above 11.5 V that clears. A DALI event goes to its receive object; field Ethernet answers ARP and echo and counts other frames in DROPS. (R94, R285, R287, R289, R298, R299, R300, R302, R305) -/
def Obligations.FieldExchangesEndOrTryAgain : Prop :=
  ∀ (s : State) (p : Fin 19) (e : Exch) (r : PollReq) (b : RemBind) (data : List Byte) (recs : List (Nat × Nat × List Byte)) (mv : BitVec 16) (st : Nat) (addr : Nat),
    let x := s.m.ports.port[p]
    regsWf s.m.regs = true →
    ((s.m.ports.port[p]).exch = some e → e.waiting = false → s.m.reqDef p e.req = some r → r.write = false → s.m.reqBinds r = [b] → Does (.exchangeReply p .good data recs) s fun m => ExchEnds s.m m p r true ∧ m.bufEnt b.point = { replyEnt b (pointTy s.m b.point) data recs (s.m.bufEnt b.point) with commFail := false } ∧ Only [.ports] (exchRegs p) s.m m) ∧
    ((s.m.ports.port[p]).exch = some e → e.waiting = false → s.m.reqDef p e.req = some r → Does (.exchangeReply p .good data recs) s fun m => ExchEnds s.m m p r true ∧ Only [.ports] (exchRegs p) s.m m) ∧
    ((s.m.ports.port[p]).exch = some e → e.waiting = false → s.m.reqDef p e.req = some r → Does (.exchangeReply p .exception data recs) s fun m => ExchEnds s.m m p r false ∧ Only [.ports] (exchRegs p) s.m m) ∧
    ((s.m.ports.port[p]).exch = some e → e.waiting = false → s.m.reqDef p e.req = some r → e.attempt < s.m.get (F.FBUS_CFG_RETRY p.val) → s.m.reachesSlot p r = false → Does (.exchangeReply p .badCheck data recs) s fun m => TriesAgain s.m m p e ∧ m.get (F.FBUS_RXERR_COUNT p.val) = satNat (F.FBUS_RXERR_COUNT p.val).width (s.m.get (F.FBUS_RXERR_COUNT p.val) + 1) ∧ Only [.ports] ([F.FBUS_RXERR_COUNT p.val] ++ (exchRegs p)) s.m m) ∧
    ((s.m.ports.port[p]).exch = some e → s.m.reqDef p e.req = some r → e.attempt < s.m.get (F.FBUS_CFG_RETRY p.val) → s.m.reachesSlot p r = false → Does (.attemptTimeout p) s fun m => TriesAgain s.m m p e ∧ Only [.ports] (exchRegs p) s.m m) ∧
    ((s.m.ports.port[p]).exch = some e → s.m.reqDef p e.req = some r → (s.m.get (F.FBUS_CFG_RETRY p.val) ≤ e.attempt ∨ s.m.reachesSlot p r = true) → Does (.attemptTimeout p) s fun m => ExchEnds s.m m p r false ∧ Only [.ports] (exchRegs p) s.m m) ∧
    (s.m.portEn p = true → s.m.proto p = 5 → (s.m.ports.port[p]).exch = some e → s.m.reqDef p e.req = some r → e.attempt < s.m.get (F.FBUS_CFG_RETRY p.val) → s.m.reachesSlot p r = false → Does (.daliCollision p) s fun m => TriesAgain s.m m p e ∧ m.get (F.FBUS_DALI_BUS_COLLISIONS p.val) = satNat (F.FBUS_DALI_BUS_COLLISIONS p.val).width (s.m.get (F.FBUS_DALI_BUS_COLLISIONS p.val) + 1) ∧ Only [.ports] ([F.FBUS_DALI_BUS_COLLISIONS p.val] ++ (exchRegs p)) s.m m) ∧
    (s.m.portEn p = true → s.m.proto p = 7 → (s.m.ports.port[p]).exch = some e → s.m.reqDef p e.req = some r → r.station = st → (s.m.get (F.FBUS_CFG_RETRY p.val) ≤ e.attempt ∨ s.m.reachesSlot p r = true) → Does (.tcpConnectionClosed p st) s fun m => ExchEnds s.m m p r false ∧ (m.ports.port[p]).tcp = x.tcp.filter (fun y => y != st) ∧ Only [.ports] (exchRegs p) s.m m) ∧
    (s.m.portEn p = true → s.m.proto p = 7 → (s.m.ports.port[p]).exch = none → Does (.tcpConnectionClosed p st) s fun m => PortIs s.m m p { x with tcp := x.tcp.filter (fun y => y != st) } ∧ Only [.ports] [] s.m m) ∧
    (s.m.portEn p = true → s.m.proto p = 3 → (s.m.ports.port[p]).exch = some e → Does (.mstpToken p) s fun m => PortIs s.m m p { x with exch := some { e with waiting := false } } ∧ m.flag (F.FBUS_STATUS_TOKEN p.val) = true ∧ Only [.ports] [F.FBUS_STATUS_TOKEN p.val] s.m m) ∧
    (s.m.portEn p = true → s.m.proto p = 3 → (s.m.ports.port[p]).exch = none → Does (.mstpToken p) s fun m => m.flag (F.FBUS_STATUS_TOKEN p.val) = x.passOpen ∧ Only [] [F.FBUS_STATUS_TOKEN p.val] s.m m) ∧
    (mv.toNat < 9500 → s.m.portEn p = true → s.m.proto p = 5 → (s.m.ports.port[p]).exch = some e → s.m.reqDef p e.req = some r → Does (.daliNoPower p mv) s fun m => ExchEnds s.m m p r false ∧ m.flag (F.FBUS_STATUS_NO_POWER p.val) = true ∧ m.flag (F.FBUS_STATUS_UP p.val) = false ∧ m.get (F.FBUS_DALI_BUS_VOLT p.val) = mv.toNat % 2 ^ (F.FBUS_DALI_BUS_VOLT p.val).width ∧ Only [.ports] ([F.FBUS_STATUS_NO_POWER p.val, F.FBUS_STATUS_UP p.val, F.FBUS_DALI_BUS_VOLT p.val] ++ (exchRegs p)) s.m m) ∧
    (9500 ≤ mv.toNat → exec (.daliNoPower p mv) s = .next s) ∧
    (11500 < mv.toNat → s.m.flag (F.FBUS_STATUS_NO_POWER p.val) = true → Does (.daliPowerRestored p mv) s fun m => m.flag (F.FBUS_STATUS_NO_POWER p.val) = false ∧ m.flag (F.FBUS_STATUS_UP p.val) = true ∧ m.get (F.FBUS_DALI_BUS_VOLT p.val) = mv.toNat % 2 ^ (F.FBUS_DALI_BUS_VOLT p.val).width ∧ Only [] [F.FBUS_STATUS_NO_POWER p.val, F.FBUS_STATUS_UP p.val, F.FBUS_DALI_BUS_VOLT p.val] s.m m) ∧
    (mv.toNat ≤ 11500 → exec (.daliPowerRestored p mv) s = .next s) ∧
    (s.m.portEn p = true → s.m.proto p = 5 → (s.m.ports.port[p]).exch = none → Does (.daliEventMessage p addr data) s fun m => PortIs s.m m p { x with objs := x.objs.map (fun o => if o.2.id = addr ∧ o.2.xtd = false then (o.1, o.2.take ⟨addr, false, false, data⟩) else o) } ∧ Only [.ports] [] s.m m) ∧
    (s.m.portEn p = true → s.m.proto p = 7 → Does (.fieldEthernetFrame p .arp data) s fun m => PortIs s.m m p { x with answer := some data } ∧ Only [.ports] [] s.m m) ∧
    (s.m.portEn p = true → s.m.proto p = 7 → Does (.fieldEthernetFrame p .echo data) s fun m => PortIs s.m m p { x with answer := some data } ∧ Only [.ports] [] s.m m) ∧
    (s.m.portEn p = true → s.m.proto p = 7 → exec (.fieldEthernetFrame p .lateReply data) s = .next s) ∧
    (s.m.portEn p = true → s.m.proto p = 7 → Does (.fieldEthernetFrame p .other data) s fun m => m.get (F.FBUS_DROPS_COUNT p.val) = satNat (F.FBUS_DROPS_COUNT p.val).width (s.m.get (F.FBUS_DROPS_COUNT p.val) + 1) ∧ Only [] [F.FBUS_DROPS_COUNT p.val] s.m m)

/-- O29. For every state with a canonical register file and a CAN port that is enabled and on the bus: a received frame lowers REC by 1 (from above 127 to 119 to 127, which the standard leaves open: log entry 2); accepted by the first matching filter element it overwrites the receive object of its identifier (NEW set, LOST and LOSTCNT where it was still set), goes to an open pass-through window, or counts in DROPS; a refused one leaves nothing. A receive error raises REC by 1 or 8 and counts in RXERR. A transmit error raises TEC by 8 (a bus error) and is retried within RETRY; past RETRY a pass-through frame ends without reply. A transmitted frame leaves the queue, lowers TEC, and ends its exchange well with the last of its entry. Bus-off empties the queue, shows BUS_OFF, counts it and logs EV_CAN_BUSOFF; recovery clears it and both counters. (R291, R292, R293, R294, R305) -/
def Obligations.CanPortsFilterQueueAndGoBusOff : Prop :=
  ∀ (s : State) (p : Fin 19) (f : CanFrame) (g : TxFrame) (rest : List TxFrame) (r : PollReq) (n : Nat) (by8 : Bool) (bus : Bool),
    let x := s.m.ports.port[p]
    let rx := s.m.get (F.FBUS_CAN_ERR_REC p.val)
    let tec := s.m.get (F.FBUS_CAN_ERR_TEC p.val)
    regsWf s.m.regs = true →
    (s.m.canPort p = true → filtAccept (s.m.filters p) f = true → (s.m.ports.port[p]).objs.any (fun o => o.2.id == f.id && o.2.xtd == f.xtd) = true → Does (.canFrameRx p f) s fun m => PortIs s.m m p { x with objs := x.objs.map (fun o => if o.2.id = f.id ∧ o.2.xtd = f.xtd then (o.1, o.2.take f) else o) } ∧ (if rx ≤ 127 then m.get (F.FBUS_CAN_ERR_REC p.val) = rx - 1 else 119 ≤ m.get (F.FBUS_CAN_ERR_REC p.val) ∧ m.get (F.FBUS_CAN_ERR_REC p.val) ≤ 127) ∧ Only [.ports, .freeCtr] (canRegs p) s.m m) ∧
    (s.m.canPort p = true → filtAccept (s.m.filters p) f = true → (s.m.ports.port[p]).objs.any (fun o => o.2.id == f.id && o.2.xtd == f.xtd) = false → (s.m.ports.port[p]).passOpen = true → Does (.canFrameRx p f) s fun m => PortIs s.m m p { x with passRx := x.passRx ++ [leBytes 4 (f.id + 2 ^ 30 * b2n f.fdf + 2 ^ 31 * b2n f.xtd) ++ f.data] } ∧ Only [.ports, .freeCtr] (canRegs p) s.m m) ∧
    (s.m.canPort p = true → filtAccept (s.m.filters p) f = true → (s.m.ports.port[p]).objs.any (fun o => o.2.id == f.id && o.2.xtd == f.xtd) = false → (s.m.ports.port[p]).passOpen = false → Does (.canFrameRx p f) s fun m => m.get (F.FBUS_DROPS_COUNT p.val) = satNat (F.FBUS_DROPS_COUNT p.val).width (s.m.get (F.FBUS_DROPS_COUNT p.val) + 1) ∧ Only [.freeCtr] ([F.FBUS_DROPS_COUNT p.val] ++ (canRegs p)) s.m m) ∧
    (s.m.canPort p = true → filtAccept (s.m.filters p) f = false → Does (.canFrameRx p f) s fun m => Only [.freeCtr] (canRegs p) s.m m) ∧
    (s.m.canPort p = true → Does (.canRxError p by8) s fun m => m.get (F.FBUS_CAN_ERR_REC p.val) = satNat 8 (rx + (if by8 then 8 else 1)) ∧ m.get (F.FBUS_RXERR_COUNT p.val) = satNat (F.FBUS_RXERR_COUNT p.val).width (s.m.get (F.FBUS_RXERR_COUNT p.val) + 1) ∧ m.get (F.FBUS_CAN_ERR_STATE p.val) = (if 128 ≤ tec ∨ 128 ≤ m.get (F.FBUS_CAN_ERR_REC p.val) then 1 else 0) ∧ Only [] ([F.FBUS_RXERR_COUNT p.val] ++ (canRegs p)) s.m m) ∧
    (s.m.canPort p = true → (s.m.ports.port[p]).queue = g :: rest → g.tries < s.m.get (F.FBUS_CFG_RETRY p.val) → Does (.canTxError p bus) s fun m => PortIs s.m m p { x with queue := { g with tries := g.tries + 1 } :: rest } ∧ m.get (F.FBUS_CAN_ERR_TEC p.val) = (if bus then satNat 8 (tec + 8) else tec) ∧ m.get (F.FBUS_RETRIES_COUNT p.val) = satNat (F.FBUS_RETRIES_COUNT p.val).width (s.m.get (F.FBUS_RETRIES_COUNT p.val) + 1) ∧ Only [.ports] ([F.FBUS_RETRIES_COUNT p.val] ++ (canRegs p)) s.m m) ∧
    (s.m.canPort p = true → (s.m.ports.port[p]).queue = g :: rest → s.m.get (F.FBUS_CFG_RETRY p.val) ≤ g.tries → g.entry = none → Does (.canTxError p bus) s fun m => (m.ports.port[p]).queue = rest ∧ (∀ y ∈ m.ports.pass, y.handle = g.handle → y.result = some none) ∧ Only [.ports] (canRegs p) s.m m) ∧
    (s.m.canPort p = true → (s.m.ports.port[p]).queue = g :: rest → g.entry = some n → rest.any (fun y => y.entry == some n) = false → s.m.reqDef p n = some r → Does (.canFrameTransmitted p) s fun m => ExchEnds s.m m p r true ∧ (m.ports.port[p]).queue = rest ∧ m.get (F.FBUS_CAN_ERR_TEC p.val) = tec - 1 ∧ Only [.ports] ((canRegs p) ++ (exchRegs p)) s.m m) ∧
    (s.m.canPort p = true → (s.m.ports.port[p]).queue = g :: rest → g.entry = some n → rest.any (fun y => y.entry == some n) = true → Does (.canFrameTransmitted p) s fun m => PortIs s.m m p { x with queue := rest } ∧ m.get (F.FBUS_CAN_ERR_TEC p.val) = tec - 1 ∧ Only [.ports] (canRegs p) s.m m) ∧
    (s.m.canPort p = true → Does (.canBusOff p) s fun m => (m.ports.port[p]).queue = [] ∧ m.flag (F.FBUS_STATUS_BUS_OFF p.val) = true ∧ m.flag (F.FBUS_STATUS_UP p.val) = false ∧ m.get (F.FBUS_CAN_ERR_BUSOFFS p.val) = satNat 8 (s.m.get (F.FBUS_CAN_ERR_BUSOFFS p.val) + 1) ∧ m.get (F.FBUS_CAN_ERR_STATE p.val) = 2 ∧ Logs s.m m .canBusoff p.val [] ∧ Only [.ports, .logs] ([F.FBUS_STATUS_BUS_OFF p.val, F.FBUS_STATUS_UP p.val, F.FBUS_CAN_ERR_BUSOFFS p.val, F.LOG_STATUS_WAB_FULL] ++ (canRegs p) ++ (exchRegs p)) s.m m) ∧
    (s.m.flag (F.FBUS_STATUS_BUS_OFF p.val) = true → Does (.canBusOffRecovery p) s fun m => m.flag (F.FBUS_STATUS_BUS_OFF p.val) = false ∧ m.flag (F.FBUS_STATUS_UP p.val) = true ∧ m.get (F.FBUS_CAN_ERR_TEC p.val) = 0 ∧ m.get (F.FBUS_CAN_ERR_REC p.val) = 0 ∧ m.get (F.FBUS_CAN_ERR_STATE p.val) = 0 ∧ Only [] ([F.FBUS_STATUS_BUS_OFF p.val, F.FBUS_STATUS_UP p.val] ++ (canRegs p)) s.m m)

/-- O30. For every state with a canonical register file: MBUS_SHORT with the bus on starts its switching off, shows SHORT and logs EV_MBUS_SHORT; MBUS_RETRY, 10 s later, switches it on. T1L_OVERCURRENT of a powered port switches it off, shows OVERCURRENT and logs EV_T1L_POWER. T1L_SHED shows the measured powers; afterwards either the powers shown add up to at most 32 W or no port's function is on. T1L_POWER_RETRY, 5 s after the switching off, of a port switched off by overcurrent, or shed where its LIMIT fits under 32 W, with PD10 on, clears its mark and powers it. POWERED_DEVICE_DETECTED shows the device and grants the lesser of class and LIMIT; without it the power goes. PASS_EXCHANGE sends the port's oldest waiting exchange in its window and holds the reply when it has ended; PASS_WINDOW_END closes the window and abandons what runs, counted in DROPS. (R285, R288, R301, R303, R305, R348) -/
def Obligations.PortPowerAndPassThrough : Prop :=
  ∀ (s : State) (k : Fin 8) (present : Bool) (cls : BitVec 7) (power : List (BitVec 16)) (code : BitVec 6) (p : Fin 19) (y : PassX) (reply : Option (List Byte)),
    let x := s.m.ports.port[p]
    let q := t1lPort k
    regsWf s.m.regs = true →
    (s.m.isOn swMbus = true → Does .mbusShort s fun m => m.sw = s.m.sw.set swMbus { s.m.sw[swMbus] with ph := .shutting, since := s.m.clk.mono } ∧ m.ports = { s.m.ports with offAt := mapPut 8 s.m.clk.mono s.m.ports.offAt } ∧ m.flag (F.FBUS_STATUS_SHORT 8) = true ∧ m.flag (F.FBUS_STATUS_UP 8) = false ∧ Logs s.m m .mbusShort 8 [] ∧ Only [.sw, .logs, .ports] [F.FBUS_STATUS_SHORT 8, F.FBUS_STATUS_UP 8, F.LOG_STATUS_WAB_FULL] s.m m) ∧
    (s.m.isOn (swPd 10) = true → s.m.flag (F.FBUS_CFG_EN 8) = true → s.m.get (F.FBUS_CFG_PROTO 8) = 6 → s.m.supplyPast 8 250000000 = true → SwReady s.m swMbus → Does .mbusRetry s fun m => m.sw = s.m.sw.set swMbus { s.m.sw[swMbus] with ph := .on, since := s.m.clk.mono } ∧ m.flag (F.FBUS_STATUS_UP 8) = true ∧ Only [.sw] [F.FBUS_STATUS_UP 8] s.m m) ∧
    (s.m.supplyPast 8 250000000 = false → exec .mbusRetry s = .next s) ∧
    (s.m.isOn (swT1l k) = true → Does (.t1lOvercurrent k) s fun m => m.sw = s.m.sw.set (swT1l k) { s.m.sw[swT1l k] with ph := .shutting, since := s.m.clk.mono } ∧ m.ports = { s.m.ports with port := s.m.ports.port.set q { s.m.ports.port[q] with off := true, shed := false }, offAt := mapPut (9 + k.val) s.m.clk.mono s.m.ports.offAt } ∧ m.flag (F.FBUS_PWR_STATUS_OVERCURRENT (9 + k.val)) = true ∧ m.flag (F.FBUS_PWR_STATUS_ON (9 + k.val)) = false ∧ m.get (F.FBUS_PWR_STATUS_POWER (9 + k.val)) = 0 ∧ Logs s.m m .t1lPower (9 + k.val) [] ∧ Only [.sw, .ports, .logs] [F.FBUS_PWR_STATUS_OVERCURRENT (9 + k.val), F.FBUS_PWR_STATUS_ON (9 + k.val), F.FBUS_PWR_STATUS_POWER (9 + k.val), F.FBUS_PWR_TOTAL_POWER, F.FBUS_PWR_TOTAL_SHEDDING, F.LOG_STATUS_WAB_FULL] s.m m) ∧
    (Does (.t1lShed power) s fun m => (m.t1lTotal ≤ 32000 ∨ ∀ j : Fin 8, m.isOn (swT1l j) = false) ∧ m.get F.FBUS_PWR_TOTAL_POWER = satNat 16 m.t1lTotal ∧ (∀ j : Fin 8, (m.ports.port[t1lPort j]).shed = false → (m.sw[swT1l j]) = s.m.sw[swT1l j]) ∧ Only [.sw, .ports] [F.FBUS_PWR_STATUS_ON 9, F.FBUS_PWR_STATUS_ON 10, F.FBUS_PWR_STATUS_ON 11, F.FBUS_PWR_STATUS_ON 12, F.FBUS_PWR_STATUS_ON 13, F.FBUS_PWR_STATUS_ON 14, F.FBUS_PWR_STATUS_ON 15, F.FBUS_PWR_STATUS_ON 16, F.FBUS_PWR_STATUS_POWER 9, F.FBUS_PWR_STATUS_POWER 10, F.FBUS_PWR_STATUS_POWER 11, F.FBUS_PWR_STATUS_POWER 12, F.FBUS_PWR_STATUS_POWER 13, F.FBUS_PWR_STATUS_POWER 14, F.FBUS_PWR_STATUS_POWER 15, F.FBUS_PWR_STATUS_POWER 16, F.FBUS_PWR_STATUS_SHED 9, F.FBUS_PWR_STATUS_SHED 10, F.FBUS_PWR_STATUS_SHED 11, F.FBUS_PWR_STATUS_SHED 12, F.FBUS_PWR_STATUS_SHED 13, F.FBUS_PWR_STATUS_SHED 14, F.FBUS_PWR_STATUS_SHED 15, F.FBUS_PWR_STATUS_SHED 16, F.FBUS_PWR_TOTAL_POWER, F.FBUS_PWR_TOTAL_SHEDDING] s.m m) ∧
    (s.m.isOn (swPd 10) = true → (s.m.ports.port[t1lPort k]).off = true → s.m.supplyPast (9 + k.val) 125000000 = true → (((s.m.ports.port[t1lPort k]).shed = false ∨ s.m.t1lTotal + 100 * s.m.get (F.FBUS_PWR_CFG_LIMIT (9 + k.val)) ≤ 32000)) → SwReady s.m (swT1l k) → Does (.t1lPowerRetry k) s fun m => m.isOn (swT1l k) = true ∧ m.flag (F.FBUS_PWR_STATUS_ON (9 + k.val)) = true ∧ PortIs s.m m q { s.m.ports.port[q] with off := false, shed := false } ∧ Only [.sw, .ports] [F.FBUS_PWR_STATUS_ON (9 + k.val), F.FBUS_PWR_TOTAL_POWER, F.FBUS_PWR_TOTAL_SHEDDING] s.m m) ∧
    (s.m.supplyPast (9 + k.val) 125000000 = false → exec (.t1lPowerRetry k) s = .next s) ∧
    (s.m.isOn (swPd 10) = true → present = true → s.m.flag (F.FBUS_PWR_CFG_PWR_EN (9 + k.val)) = true → (s.m.ports.port[t1lPort k]).off = false → SwReady s.m (swT1l k) → Does (.poweredDeviceDetected k present cls) s fun m => m.flag (F.FBUS_PWR_STATUS_DETECTED (9 + k.val)) = true ∧ m.flag (F.FBUS_PWR_STATUS_ON (9 + k.val)) = true ∧ m.isOn (swT1l k) = true ∧ PortIs s.m m q { s.m.ports.port[q] with pdClass := min cls.toNat (s.m.get (F.FBUS_PWR_CFG_LIMIT (9 + k.val))) } ∧ Only [.sw, .ports] [F.FBUS_PWR_STATUS_DETECTED (9 + k.val), F.FBUS_PWR_STATUS_ON (9 + k.val)] s.m m) ∧
    (s.m.isOn (swPd 10) = true → present = false → s.m.isOn (swT1l k) = true → Does (.poweredDeviceDetected k present cls) s fun m => m.flag (F.FBUS_PWR_STATUS_DETECTED (9 + k.val)) = false ∧ m.flag (F.FBUS_PWR_STATUS_ON (9 + k.val)) = false ∧ m.get (F.FBUS_PWR_STATUS_POWER (9 + k.val)) = 0 ∧ (m.sw[swT1l k]).ph = .shutting ∧ PortIs s.m m q { s.m.ports.port[q] with pdClass := 0 } ∧ Only [.sw, .ports] [F.FBUS_PWR_STATUS_DETECTED (9 + k.val), F.FBUS_PWR_STATUS_ON (9 + k.val), F.FBUS_PWR_STATUS_POWER (9 + k.val)] s.m m) ∧
    (s.m.passNext code.toNat = some y → code.toNat = p.val → s.m.portEn p = true → 0 < s.m.get (F.FBUS_CFG_PASS p.val) → (s.m.ports.port[p]).exch = none → s.m.proto p ≠ 1 → Does (.passExchange code false reply) s fun m => PortIs s.m m p { x with passOpen := true, passRun := some y.handle } ∧ Only [.ports] [] s.m m) ∧
    (s.m.passNext code.toNat = some y → code.toNat = p.val → s.m.portEn p = true → 0 < s.m.get (F.FBUS_CFG_PASS p.val) → (s.m.ports.port[p]).exch = none → s.m.proto p ≠ 1 → Does (.passExchange code true reply) s fun m => m.ports.port = s.m.ports.port.set p { x with passOpen := true, passRun := none } ∧ m.ports.pass = s.m.ports.pass.map (fun z => if z.handle = y.handle then { z with result := some reply, doneAt := s.m.optime } else z) ∧ Only [.ports] [] s.m m) ∧
    (s.m.ports.port[p] = { x with passRun := some y.handle, queue := [] } → Does (.passWindowEnd p) s fun m => m.ports.port = s.m.ports.port.set p { x with passOpen := false, passRun := none } ∧ m.ports.pass = s.m.ports.pass.map (fun z => if z.handle = y.handle then { z with result := some none, doneAt := s.m.optime } else z) ∧ m.get (F.FBUS_DROPS_COUNT p.val) = satNat (F.FBUS_DROPS_COUNT p.val).width (s.m.get (F.FBUS_DROPS_COUNT p.val) + 1) ∧ Only [.ports] [F.FBUS_DROPS_COUNT p.val] s.m m)

/-- O31. For every state with a canonical register file and an uplink with its link up: a broken preemptable frame counts in FRAG_ERR, a frame that is not the uplink's in RX_DROP; an Orpor frame counts in RX_FRAMES and takes its cells in the express or preemptable receive channel where the claim is allowed (stamped, peak kept), else it is lost and counted; from at most 8,192 cells held the pool stays within 8,192; a PTP frame leaves no cell held and an answered one at most its answer's. With a plan loaded and no region that lets the frame engine write the pool, the frame is dropped, counted, and the violation recorded. A PAUSE frame is counted, and stops transmission for its quanta of 512 bit times only with IGNORE_PAUSE clear. FRAME_SENT takes the oldest frame of its channel, unless a pause holds it or an express frame goes first, and counts it; TX_FRAME_TIMEOUT takes the oldest after 50 ms and counts it as lost. (R309, R310, R311, R315, R316, R319, R320, R321, R322, R323) -/
def Obligations.UplinkFramesUseThePool : Prop :=
  ∀ (s : State) (u : Fin 2) (f : UplFrame) (p : List Byte) (q : BitVec 16) (x : Bool) (g : PoolFrame),
    let rxCh := 4 * u.val + (if s.m.rxExpress u f then 0 else 1)
    let new := ({ ch := 4 * u.val + (if s.m.rxExpress u f then 0 else 1), cells := cellsOf f.len, packet := some p } : PoolFrame)
    let rxOne := (s.m.get (F.UPL_RX_FRAMES_COUNT u.val) + 1) % 2 ^ (F.UPL_RX_FRAMES_COUNT u.val).width
    let out := 4 * u.val + (if x then 2 else 3)
    let bps := uplBps (s.m.get (F.UPL_STATUS_SPEED u.val))
    let till := s.m.clk.mono + (512 * q.toNat * 25000000 + uplBps (s.m.get (F.UPL_STATUS_SPEED u.val)) - 1) / uplBps (s.m.get (F.UPL_STATUS_SPEED u.val))
    regsWf s.m.regs = true → s.m.flag (F.UPL_STATUS_LINK u.val) = true →
    (f.broken = true → Does (.uplFrameRx u f) s fun m => m.get (F.UPL_FRAG_ERR_COUNT u.val) = satNat (F.UPL_FRAG_ERR_COUNT u.val).width (s.m.get (F.UPL_FRAG_ERR_COUNT u.val) + 1) ∧ Only [] [F.UPL_FRAG_ERR_COUNT u.val] s.m m) ∧
    (f.broken = false → s.m.rxOk u f = false → Does (.uplFrameRx u f) s fun m => m.get (F.UPL_RX_DROP_COUNT u.val) = satNat (F.UPL_RX_DROP_COUNT u.val).width (s.m.get (F.UPL_RX_DROP_COUNT u.val) + 1) ∧ Only [] [F.UPL_RX_DROP_COUNT u.val] s.m m) ∧
    (f.broken = false → s.m.rxOk u f = true → ((s.m.planLoaded = false ∨ s.m.regionOk 10 2 0x200000 = true)) → f.kind = .orpor p → (s.m.poolPut { ch := 4 * u.val + (if s.m.rxExpress u f then 0 else 1), cells := cellsOf f.len, packet := some p }).2 = true → Does (.uplFrameRx u f) s fun m => Stored s.m m new ∧ m.get (F.UPL_RX_FRAMES_COUNT u.val) = rxOne ∧ (cellsHeld s.m ≤ 8192 → cellsHeld m ≤ 8192) ∧ UplMarked s.m m ∧ CoreWakes s.m m ∧ Only [.pool, .upl, .sw] [F.UPL_RX_FRAMES_COUNT u.val] s.m m) ∧
    (f.broken = false → s.m.rxOk u f = true → ((s.m.planLoaded = false ∨ s.m.regionOk 10 2 0x200000 = true)) → f.kind = .orpor p → (s.m.poolPut { ch := 4 * u.val + (if s.m.rxExpress u f then 0 else 1), cells := cellsOf f.len, packet := some p }).2 = false → Does (.uplFrameRx u f) s fun m => Lost s.m m (Fin.ofNat 12 rxCh) ∧ m.get (F.UPL_RX_FRAMES_COUNT u.val) = rxOne ∧ CoreWakes s.m m ∧ Only [.pool, .sw] [F.UPL_RX_FRAMES_COUNT u.val] s.m m) ∧
    (f.broken = false → s.m.rxOk u f = true → ((s.m.planLoaded = false ∨ s.m.regionOk 10 2 0x200000 = true)) → f.kind = .ptp → Does (.uplFrameRx u f) s fun m => m.pool.frames = s.m.pool.frames ∧ m.get (F.UPL_RX_FRAMES_COUNT u.val) = rxOne ∧ UplMarked s.m m ∧ Only [.pool, .upl] [F.UPL_RX_FRAMES_COUNT u.val] s.m m) ∧
    (f.broken = false → s.m.rxOk u f = true → ((s.m.planLoaded = false ∨ s.m.regionOk 10 2 0x200000 = true)) → f.kind = .answered → Does (.uplFrameRx u f) s fun m => m.get (F.UPL_RX_FRAMES_COUNT u.val) = rxOne ∧ (cellsHeld s.m ≤ 8192 → cellsHeld m ≤ 8192) ∧ (m.pool.frames = s.m.pool.frames ∨ m.pool.frames = s.m.pool.frames ++ [{ ch := 4 * u.val + 3, cells := cellsOf f.len, at_ := s.m.clk.mono }]) ∧ UplMarked s.m m ∧ Only [.pool, .upl] [F.UPL_RX_FRAMES_COUNT u.val] s.m m) ∧
    (f.broken = false → s.m.rxOk u f = true → s.m.planLoaded = true → s.m.regionOk 10 2 0x200000 = false → Does (.uplFrameRx u f) s fun m => m.get (F.UPL_RX_FRAMES_COUNT u.val) = rxOne ∧ m.pool = { s.m.pool with drop := s.m.pool.drop.set (Fin.ofNat 12 rxCh) (satNat 32 (s.m.pool.drop[Fin.ofNat 12 rxCh] + 1)) } ∧ Violated s.m m 10 2 0x200000 ∧ Only [.pool, .logs] ([F.UPL_RX_FRAMES_COUNT u.val] ++ violationRegs) s.m m) ∧
    (s.m.uplSet u F.UPL_CFG_IGNORE_PAUSE ≠ 0 → Does (.pauseFrame u none q) s fun m => m.get (F.UPL_PAUSE_RX_COUNT u.val) = satNat (F.UPL_PAUSE_RX_COUNT u.val).width (s.m.get (F.UPL_PAUSE_RX_COUNT u.val) + 1) ∧ Only [] [F.UPL_PAUSE_RX_COUNT u.val] s.m m) ∧
    (s.m.uplSet u F.UPL_CFG_IGNORE_PAUSE = 0 → Does (.pauseFrame u none q) s fun m => m.get (F.UPL_PAUSE_RX_COUNT u.val) = satNat (F.UPL_PAUSE_RX_COUNT u.val).width (s.m.get (F.UPL_PAUSE_RX_COUNT u.val) + 1) ∧ m.upl = s.m.upl.set u { s.m.upl[u] with stop := (s.m.clk.mono, till) } ∧ Only [.upl] [F.UPL_PAUSE_RX_COUNT u.val] s.m m) ∧
    (s.m.pool.frames.find? (fun y => y.ch == 4 * u.val + (if x then 2 else 3)) = some g → s.m.txStopped u x g = false → ((x = true ∨ s.m.txBehind u g = false)) → Does (.frameSent u x) s fun m => m.get (F.UPL_TX_FRAMES_COUNT u.val) = (s.m.get (F.UPL_TX_FRAMES_COUNT u.val) + 1) % 2 ^ (F.UPL_TX_FRAMES_COUNT u.val).width ∧ g ∈ s.m.pool.frames ∧ m.pool = { s.m.pool with frames := s.m.pool.frames.eraseP (fun y => y.ch == out) } ∧ UplIs s.m m u { s.m.upl[u] with sentAt := s.m.clk.mono } ∧ Only [.pool, .upl] [F.UPL_TX_FRAMES_COUNT u.val] s.m m) ∧
    (s.m.pool.frames.find? (fun y => y.ch == 4 * u.val + (if x then 2 else 3)) = some g → s.m.txStopped u x g = true → exec (.frameSent u x) s = .next s) ∧
    (x = false → s.m.pool.frames.find? (fun y => y.ch == 4 * u.val + (if x then 2 else 3)) = some g → s.m.txBehind u g = true → exec (.frameSent u x) s = .next s) ∧
    (s.m.pool.frames.find? (fun y => y.ch == 4 * u.val + (if x then 2 else 3)) = some g → g.at_ + 1250000 ≤ s.m.clk.mono → Does (.txFrameTimeout u x) s fun m => m.pool = { s.m.pool with frames := s.m.pool.frames.eraseP (fun y => y.ch == out), drop := s.m.pool.drop.set (Fin.ofNat 12 out) (satNat 32 (s.m.pool.drop[Fin.ofNat 12 out] + 1)) } ∧ UplMarked s.m m ∧ Only [.pool, .upl] [] s.m m) ∧
    (s.m.pool.frames.find? (fun y => y.ch == 4 * u.val + (if x then 2 else 3)) = some g → s.m.clk.mono < g.at_ + 1250000 → exec (.txFrameTimeout u x) s = .next s)

/-- O32. For every state with a canonical register file: UPL_LINK_UP of an enabled running copper uplink without link and shift comes up at the highest speed of its range that the partner offers, or logs EV_UPL_NO_SPEED; the SFP+ cage with a signal at the highest the transceiver declares; a renegotiation whose target is offered at the target, else at the highest speed offered, which is logged. UPL_LINK_DOWN shows no link and no preemption, discards the frames of the transmit channels and loses the PTP source. PREEMPT_VERIFIED activates preemption where enabled. SFP rows keep the transceiver and show presence and LOS; LOS or removal takes the link. LOAD_MEASURE keeps the loads of DOWN_DWELL seconds; a downshift due by their average, with HOLDOFF over and no guard, begins; UPSHIFT_DUE, where the transmit channels were full for 10 ms or the last second's received load is above UP_RX, begins a shift to MAX_SPEED after HOLDOFF, or waits; HOLDOFF_EXPIRY carries out one that waited; SHIFT_FAIL ends a renegotiation after 3 s and logs it. (R306, R307, R308, R311, R312, R313, R314, R325) -/
def Obligations.UplinksNegotiateShiftAndGoDown : Prop :=
  ∀ (s : State) (u : Fin 2) (offer : BitVec 5) (k : BitVec 5) (c : Nat) (n : Nat) (los : Bool) (tx : BitVec 40) (rx : BitVec 40),
    let x := s.m.upl[u]
    let load := max tx.toNat rx.toNat
    regsWf s.m.regs = true →
    (s.m.flag (F.UPL_STATUS_LINK u.val) = false → s.m.uplRuns u = true → s.m.uplEn u = true → s.m.isSfp u = false → (s.m.upl[u]).shift = none → highestIn (s.m.uplRange u) offer.toNat = some c → Does (.uplLinkUp u offer) s fun m => LinkUpAt s.m m u c ∧ Only [.upl] (upRegs u) s.m m) ∧
    (s.m.flag (F.UPL_STATUS_LINK u.val) = false → s.m.uplRuns u = true → s.m.uplEn u = true → s.m.isSfp u = false → (s.m.upl[u]).shift = none → highestIn (s.m.uplRange u) offer.toNat = none → Does (.uplLinkUp u offer) s fun m => Logs s.m m .uplNoSpeed u.val [] ∧ Only [.logs] [F.LOG_STATUS_WAB_FULL] s.m m) ∧
    (s.m.flag (F.UPL_STATUS_LINK u.val) = false → s.m.uplRuns u = true → s.m.uplEn u = true → s.m.isSfp u = false → (s.m.upl[u]).shift = some c → offer.getLsbD c = true → Does (.uplLinkUp u offer) s fun m => LinkUpAt s.m m u c ∧ Only [.upl] (upRegs u) s.m m) ∧
    (s.m.flag (F.UPL_STATUS_LINK u.val) = false → s.m.uplRuns u = true → s.m.uplEn u = true → s.m.isSfp u = false → (s.m.upl[u]).shift = some n → offer.getLsbD n = false → highestIn (s.m.uplCodes u) offer.toNat = some c → Does (.uplLinkUp u offer) s fun m => LinkUpAt s.m m u c ∧ Logs s.m m .uplShift u.val (leBytes 1 (s.m.get (F.UPL_STATUS_SPEED u.val)) ++ leBytes 1 c) ∧ Only [.upl, .logs] ([F.LOG_STATUS_WAB_FULL] ++ (upRegs u)) s.m m) ∧
    (s.m.flag (F.UPL_STATUS_LINK u.val) = false → s.m.uplRuns u = true → s.m.uplEn u = true → s.m.isSfp u = true → s.m.flag (F.UPL_STATUS_LOS u.val) = false → s.m.st ≠ 2 → (s.m.upl[u]).sfp = some k → highestIn (s.m.uplRange u) k.toNat = some c → Does (.uplLinkUp u offer) s fun m => LinkUpAt s.m m u c ∧ Only [.upl] (upRegs u) s.m m) ∧
    (s.m.flag (F.UPL_STATUS_LINK u.val) = true → Does (.uplLinkDown u) s fun m => LinkLost s.m m u ∧ Only linkParts (linkRegs u) s.m m) ∧
    (s.m.flag (F.UPL_STATUS_LINK u.val) = true → s.m.uplSet u F.UPL_CFG_PREEMPT_EN ≠ 0 → Does (.preemptVerified u) s fun m => m.flag (F.UPL_STATUS_PREEMPT_ACTIVE u.val) = true ∧ Only [] [F.UPL_STATUS_PREEMPT_ACTIVE u.val] s.m m) ∧
    (s.m.fx = true → s.m.isOn (swPd 11) = true → Does (.sfpInsert k) s fun m => (m.upl[(0 : Fin 2)]).sfp = some k ∧ m.upl = s.m.upl.set 0 { s.m.upl[(0 : Fin 2)] with sfp := some k } ∧ m.flag (F.UPL_STATUS_SFP_PRESENT 0) = true ∧ Only [.upl, .sw] [F.UPL_STATUS_SFP_PRESENT 0] s.m m) ∧
    (s.m.fx = true → s.m.isOn (swPd 11) = false → exec (.sfpInsert k) s = .next { s with m := { s.m with upl := s.m.upl.set 0 { s.m.upl[(0 : Fin 2)] with sfp := some k } } }) ∧
    (s.m.fx = false → exec (.sfpInsert k) s = .next s) ∧
    (s.m.fx = true → s.m.isOn (swPd 11) = true → s.m.flag (F.UPL_STATUS_SFP_PRESENT 0) = true → los = true → s.m.flag (F.UPL_STATUS_LINK 0) = true → Does (.sfpLos los) s fun m => LinkLost s.m m 0 ∧ m.flag (F.UPL_STATUS_LOS 0) = true ∧ Only linkParts ([F.UPL_STATUS_LOS 0] ++ (linkRegs 0)) s.m m) ∧
    (s.m.fx = true → s.m.isOn (swPd 11) = true → s.m.flag (F.UPL_STATUS_SFP_PRESENT 0) = true → los = false → Does (.sfpLos los) s fun m => m.flag (F.UPL_STATUS_LOS 0) = false ∧ Only [] [F.UPL_STATUS_LOS 0] s.m m) ∧
    (s.m.fx = true → s.m.isOn (swPd 11) = true → Does .sfpRemoval s fun m => (m.upl[(0 : Fin 2)]).sfp = none ∧ m.flag (F.UPL_STATUS_SFP_PRESENT 0) = false ∧ m.flag (F.UPL_STATUS_LOS 0) = false ∧ m.flag (F.UPL_STATUS_LINK 0) = false ∧ Only ([.upl, .sw] ++ linkParts) ([F.UPL_STATUS_SFP_PRESENT 0, F.UPL_STATUS_LOS 0] ++ (linkRegs 0)) s.m m) ∧
    (s.m.shifts u = true → (s.m.upl[u]).loads.length + 1 < max 10 (s.m.uplSet u F.UPL_SHIFT_TIME_DOWN_DWELL) → Does (.loadMeasure u tx rx) s fun m => m.upl = s.m.upl.set u { x with loads := x.loads ++ [load], rx := rx.toNat } ∧ Only [.upl] [] s.m m) ∧
    (s.m.shifts u = true → (s.m.upl[u]).loads.length + 1 = max 10 (s.m.uplSet u F.UPL_SHIFT_TIME_DOWN_DWELL) → (s.m.uplRange u).find? (fun d => decide (d < s.m.get (F.UPL_STATUS_SPEED u.val)) && decide ((((s.m.upl[u]).loads ++ [max tx.toNat rx.toNat]).foldl (· + ·) 0) * 100 ≤ uplBps d * max 1 (s.m.uplSet u F.UPL_SHIFT_DOWN_THR) * max 10 (s.m.uplSet u F.UPL_SHIFT_TIME_DOWN_DWELL))) = some c → s.m.holdoffOver u = true → s.m.uplSet u F.UPL_CFG_SHIFT_GUARD = 0 → Does (.loadMeasure u tx rx) s fun m => ShiftBegun s.m m u c { x with loads := x.loads ++ [load], rx := rx.toNat } ∧ Only ([.upl] ++ linkParts) ([F.UPL_STATUS_SHIFTING u.val, F.UPL_SHIFTS_COUNT u.val] ++ (linkRegs u)) s.m m) ∧
    (s.m.shifts u = true → s.m.upTarget u = some c → s.m.holdoffOver u = true → Does (.upshiftDue u) s fun m => ShiftBegun s.m m u c x ∧ Only ([.upl] ++ linkParts) ([F.UPL_STATUS_SHIFTING u.val, F.UPL_SHIFTS_COUNT u.val] ++ (linkRegs u)) s.m m) ∧
    (s.m.shifts u = true → s.m.upTarget u = some c → s.m.holdoffOver u = false → Does (.upshiftDue u) s fun m => m.upl = s.m.upl.set u { x with waiting := true } ∧ Only [.upl] [] s.m m) ∧
    (s.m.upDue u = false → exec (.upshiftDue u) s = .next s) ∧
    (s.m.shifts u = true → (s.m.upl[u]).waiting = true → s.m.holdoffOver u = true → s.m.upTarget u = some c → Does (.holdoffExpiry u) s fun m => ShiftBegun s.m m u c x ∧ Only ([.upl] ++ linkParts) ([F.UPL_STATUS_SHIFTING u.val, F.UPL_SHIFTS_COUNT u.val] ++ (linkRegs u)) s.m m) ∧
    (s.m.holdoffOver u = false → exec (.holdoffExpiry u) s = .next s) ∧
    ((s.m.upl[u]).shift = some c → (s.m.upl[u]).shiftAt + 75000000 ≤ s.m.clk.mono → s.m.flag (F.UPL_STATUS_LINK u.val) = false → Does (.shiftFail u) s fun m => m.upl = s.m.upl.set u { x with shift := none } ∧ m.flag (F.UPL_STATUS_SHIFTING u.val) = false ∧ Logs s.m m .uplShiftFail u.val [] ∧ Only [.upl, .logs] [F.UPL_STATUS_SHIFTING u.val, F.LOG_STATUS_WAB_FULL] s.m m) ∧
    (s.m.clk.mono < (s.m.upl[u]).shiftAt + 75000000 → exec (.shiftFail u) s = .next s)

/-- O33. For every state with a canonical register file: UPL_APPLY by a session that may, with the uplink's domain on, makes the staged registers the settings in force, keeps the previous ones, shows PENDING and queues the pending set for the parameter store. UPL_CONFIRM by a session on the same uplink while a set is pending makes it permanent: PENDING 0, the stored block and the removal of the pending record queued. UPL_REVERT and, 120 s after APPLY, UPL_CONFIRM_TIMEOUT put the previous settings in force again, PENDING 0, and log EV_UPL_REVERTED (a link that the change takes down is lost as R323 says). From another session APPLY, CONFIRM and REVERT change nothing. (R318, R325, R395) -/
def Obligations.UplinkSettingsArePendingUntilConfirmed : Prop :=
  ∀ (s : State) (u : Fin 2) (h : BitVec 10) (ws : List Word),
    let x := s.m.upl[u]
    let staged := (uplRegs u.val).map s.m.word
    regsWf s.m.regs = true →
    (s.m.uplMay h.toNat u = true → Does (.uplApply h u) s fun m => UplIs s.m m u { x with live := staged, prev := some (x.prev.getD x.live), appliedAt := s.m.clk.mono } ∧ m.flag (F.UPL_STATUS_PENDING u.val) = true ∧ m.nvm = { s.m.nvm with jobs := s.m.nvm.jobs ++ [.param (keyUplink u.val) false (uplBytes staged) none] } ∧ Only ([.nvm, .sw, .pwr] ++ linkParts) ([F.UPL_STATUS_PENDING u.val] ++ (linkRegs u)) s.m m) ∧
    (s.m.uplMay h.toNat u = false → exec (.uplApply h u) s = .next s) ∧
    ((s.m.sess h.toNat).map (fun y => y.transport) = some u.val → s.m.isOn (swPd (pdUpl u)) = true → (s.m.upl[u]).prev = some ws → Does (.uplConfirm h u) s fun m => m.upl = s.m.upl.set u { x with prev := none } ∧ m.flag (F.UPL_STATUS_PENDING u.val) = false ∧ m.nvm = { s.m.nvm with jobs := s.m.nvm.jobs ++ [.param (keyStored 0x70000) false (uplBytes (if u = 0 then x.live else s.m.uplStored 0) ++ uplBytes (if u = 1 then x.live else s.m.uplStored 1)) none, .param (keyUplink u.val) true [] none] } ∧ Only [.upl, .nvm] [F.UPL_STATUS_PENDING u.val] s.m m) ∧
    (s.m.uplMay h.toNat u = true → (s.m.upl[u]).prev = some ws → Does (.uplRevert h u) s fun m => UplIs s.m m u { x with live := ws, prev := none } ∧ m.flag (F.UPL_STATUS_PENDING u.val) = false ∧ m.nvm = { s.m.nvm with jobs := s.m.nvm.jobs ++ [.param (keyUplink u.val) true [] none] } ∧ Only ([.nvm, .sw, .pwr] ++ linkParts) ([F.UPL_STATUS_PENDING u.val] ++ (linkRegs u)) s.m m) ∧
    ((s.m.upl[u]).prev = some ws → (s.m.upl[u]).appliedAt + 3000000000 ≤ s.m.clk.mono → Does (.uplConfirmTimeout u) s fun m => UplIs s.m m u { x with live := ws, prev := none } ∧ m.flag (F.UPL_STATUS_PENDING u.val) = false ∧ m.nvm = { s.m.nvm with jobs := s.m.nvm.jobs ++ [.param (keyUplink u.val) true [] none] } ∧ Only ([.nvm, .sw, .pwr] ++ linkParts) ([F.UPL_STATUS_PENDING u.val] ++ (linkRegs u)) s.m m) ∧
    (s.m.clk.mono < (s.m.upl[u]).appliedAt + 3000000000 → exec (.uplConfirmTimeout u) s = .next s)

/-- O34. For every state with a canonical register file and the management core up, for the oldest packet in an uplink's receive channel outside forwarding: a malformed packet is taken from its cells and counted in SESS_BAD (also a command whose header fields are wrong: the model's reading); one for a session that is not open, or not on this transport, in SESS_AUTH_FAIL; an authenticated command of the session's role, with a defined opcode and the PLEN its layout requires, whose SEQ is not 0, inside the window and not seen, whose TAG is free and for which there is room (16 of the session, 128 in all), joins the session's commands in flight and the order of acceptance, the highest SEQ rises to it, and the idle time starts anew. PROBE with PROBE_EN and OPEN wait for their own commands. Nothing but the pool, the sessions and the two counters changes. (R329, R330, R331, R333, R334, R339, R344) -/
def Obligations.OrporPacketsAreCheckedAndAccepted : Prop :=
  ∀ (s : State) (ch : Fin 8) (f : PoolFrame) (p params : List Byte) (x : Sess) (info : OpInfo),
    let d := hdrOf p
    let c : Cmd := { seq := d.seq, tag := d.tag, op := d.op, urgent := bitAt d.flags 1, params := params }
    let rest := s.m.pool.frames.eraseP (fun y => y.ch == ch.val && y.packet.isSome)
    regsWf s.m.regs = true → s.m.mgmtUp = true → s.m.forwards = false → s.m.st ≠ 1 → s.m.st ≠ 2 →
    s.m.pool.frames.find? (fun y => y.ch == ch.val && y.packet.isSome) = some f → f.packet = some p →
    (packetOk p = false →
      Does (.orporPacket ⟨ch.val, by omega⟩) s fun m => m.pool = { s.m.pool with frames := rest } ∧
        m.get F.SESS_BAD_COUNT = satNat F.SESS_BAD_COUNT.width (s.m.get F.SESS_BAD_COUNT + 1) ∧ Only [.pool] [F.SESS_BAD_COUNT] s.m m) ∧
    (packetOk p = true → bitAt d.flags 3 = false → d.op ≠ 0 → (s.m.sess d.session).all (fun y => y.transport != ch.val / 4 || y.viaB) = true →
      Does (.orporPacket ⟨ch.val, by omega⟩) s fun m => m.pool = { s.m.pool with frames := rest } ∧
        m.get F.SESS_AUTH_FAIL_COUNT = satNat F.SESS_AUTH_FAIL_COUNT.width (s.m.get F.SESS_AUTH_FAIL_COUNT + 1) ∧
        Only [.pool] [F.SESS_AUTH_FAIL_COUNT] s.m m) ∧
    (packetOk p = true → bitAt d.flags 3 = false → d.op ≠ 0 → s.m.sess d.session = some x → x.transport = ch.val / 4 → x.viaB = false →
      gcmOpen x.kc (sessNonce d.session d.seq 0 false) (p.take 32) (p.drop 32) = some params → d.seq ≠ 0 → x.top < d.seq + 64 →
      x.seen.contains d.seq = false → x.flight.any (fun y => y.tag == d.tag) = false → x.flight.length < 16 → s.m.inFlight < 128 →
      opInfo d.op = some info → bitAt info.roles x.roleBit = true → params.length = expLen d.op params →
      Does (.orporPacket ⟨ch.val, by omega⟩) s fun m => m.pool = { s.m.pool with frames := rest } ∧
        m.orpor.order = s.m.orpor.order ++ [(d.session, d.seq)] ∧
        m.sess d.session = some { x with
          top := max x.top d.seq, seen := (d.seq :: x.seen.filter (fun n => n != d.seq)).filter (fun n => decide (max x.top d.seq < n + 64))
          flight := x.flight ++ [c], lastAt := s.m.optime } ∧
        (∀ h : Fin 1024, h.val ≠ d.session → m.sess h.val = s.m.sess h.val) ∧ Only [.pool, .orpor] [] s.m m) ∧
    (packetOk p = true → d.op = 0 → d.flags = 0 → d.session = 0 → d.plen = 0 → s.m.flag F.SESS_CFG_PROBE_EN = true →
      Does (.orporPacket ⟨ch.val, by omega⟩) s fun m => m.pool = { s.m.pool with frames := rest } ∧
        m.orpor = { s.m.orpor with greet := s.m.orpor.greet ++ [(ch.val / 4, false, p)] } ∧ Only [.pool, .orpor] [] s.m m) ∧
    (packetOk p = true → bitAt d.flags 3 = true → d.op = 1 → d.session = 0 → d.seq = 0 → d.plen = 20 →
      Does (.orporPacket ⟨ch.val, by omega⟩) s fun m => m.pool = { s.m.pool with frames := rest } ∧
        m.orpor = { s.m.orpor with greet := s.m.orpor.greet ++ [(ch.val / 4, false, p)] } ∧ Only [.pool, .orpor] [] s.m m)

/-- O35. For every state with a canonical register file and PD3 on: SPI_WRITE of LENGTH bytes that finds its cells puts the packet into HOST; without cells BUSY, with a wrong LENGTH ERR and SESS_BAD; SPI_READ gives the status byte, the length and the bytes of the oldest waiting reply and frees it, else length 0; SPI_STATUS the status byte; each transfer clears BUSY and ERR first. OP_SESS_PROBE answers the oldest probe with identity, revision, unit, open sessions and 1,400. OP_SESS_OPEN of a role 1 to 4 with a right tag, a new nonce, a scope the role may hold and a free handle opens a session with that role and scope and keys from the credential and both nonces (the module's own is a free value, log entry 2). SESSION_IDLE_TIMEOUT closes a session whose idle time has passed with what it had in flight (before, it does nothing), and its transfers are no session's; a transfer on the host port wakes the core; its SERVICE ends in STOPPED. (R107, R328, R332, R334, R335, R336, R353) -/
def Obligations.HostPortAndSessionsOpenAndClose : Prop :=
  ∀ (s : State) (len : BitVec 16) (bytes : List Byte) (p : List Byte) (g : PoolFrame) (h : BitVec 10) (x : Sess) (t : Nat) (n : Nat) (viaB : Bool),
    let bs := (g.raw.or (g.reply.map Reply.packet)).getD []
    let shown := ({ s.m.orpor with spiOut := [s.m.spiStatus], spiBusy := false, spiErr := false } : OrporSt)
    let role := par (packetParams p) 0 1
    let scope := par (packetParams p) 2 2
    let cred := s.m.credential (par (packetParams p) 0 1) (par (packetParams p) 2 2)
    let hostN := ((packetParams p).drop 4).take 16
    let keys := sessKeys (s.m.credential (par (packetParams p) 0 1) (par (packetParams p) 2 2)) (((packetParams p).drop 4).take 16) (s.m.random 16) n (par (packetParams p) 0 1) (par (packetParams p) 2 2)
    regsWf s.m.regs = true →
    (s.m.isOn (swPd 3) = true → len.toNat = bytes.length → (s.m.poolPut { ch := 8, cells := cellsOf bytes.length, packet := some bytes }).2 = true → Does (.spiWrite len bytes) s fun m => Stored s.m m { ch := 8, cells := cellsOf bytes.length, packet := some bytes } ∧ m.orpor = shown ∧ CoreWakes s.m m ∧ UplMarked s.m m ∧ Only [.pool, .orpor, .sw, .upl] [] s.m m) ∧
    (s.m.isOn (swPd 3) = true → len.toNat = bytes.length → (s.m.poolPut { ch := 8, cells := cellsOf bytes.length, packet := some bytes }).2 = false → Does (.spiWrite len bytes) s fun m => Lost s.m m 8 ∧ m.orpor = { shown with spiBusy := true } ∧ CoreWakes s.m m ∧ Only [.pool, .orpor, .sw] [] s.m m) ∧
    (s.m.isOn (swPd 3) = true → len.toNat ≠ bytes.length → Does (.spiWrite len bytes) s fun m => m.get F.SESS_BAD_COUNT = satNat F.SESS_BAD_COUNT.width (s.m.get F.SESS_BAD_COUNT + 1) ∧ m.orpor = { shown with spiErr := true } ∧ CoreWakes s.m m ∧ Only [.orpor, .sw] [F.SESS_BAD_COUNT] s.m m) ∧
    (s.m.isOn (swPd 3) = true → s.m.pool.frames.find? (fun y => y.ch == 8 && (y.reply.isSome || y.raw.isSome)) = some g → Does .spiRead s fun m => m.orpor = { shown with spiOut := s.m.spiStatus :: (leBytes 2 bs.length ++ bs) } ∧ m.pool = { s.m.pool with frames := s.m.pool.frames.eraseP (fun y => y.ch == 8 && (y.reply.isSome || y.raw.isSome)) } ∧ CoreWakes s.m m ∧ Only [.pool, .orpor, .sw] [] s.m m) ∧
    (s.m.isOn (swPd 3) = true → s.m.pool.frames.any (fun y => y.ch == 8 && (y.reply.isSome || y.raw.isSome)) = false → Does .spiRead s fun m => m.orpor = { shown with spiOut := [s.m.spiStatus, 0, 0] } ∧ CoreWakes s.m m ∧ Only [.orpor, .sw] [] s.m m) ∧
    (s.m.isOn (swPd 3) = true → Does .spiStatus s fun m => m.orpor = shown ∧ CoreWakes s.m m ∧ Only [.orpor, .sw] [] s.m m) ∧
    (s.m.sess h.toNat = some x → s.m.optime < x.lastAt + max 10 (s.m.get F.SESS_CFG_IDLE) * 1000 → exec (.sessionIdleTimeout h) s = .next s) ∧
    (s.m.sess h.toNat = some x → x.lastAt + max 10 (s.m.get F.SESS_CFG_IDLE) * 1000 ≤ s.m.optime → s.m.exec.serviceSession = none → Does (.sessionIdleTimeout h) s fun m => m.orpor = { s.m.orpor with sessions := mapDel h.toNat s.m.orpor.sessions, order := s.m.orpor.order.filter (fun o => o.1 != h.toNat) } ∧ PassFreed s.m m h.toNat ∧ Only [.orpor, .ports] [] s.m m) ∧
    (s.m.sess h.toNat = some x → x.lastAt + max 10 (s.m.get F.SESS_CFG_IDLE) * 1000 ≤ s.m.optime → s.m.exec.serviceSession = some h.toNat → s.m.st = 8 → Does (.sessionIdleTimeout h) s fun m => m.orpor = { s.m.orpor with sessions := mapDel h.toNat s.m.orpor.sessions, order := s.m.orpor.order.filter (fun o => o.1 != h.toNat) } ∧ m.st = xStopped ∧ m.get F.EXEC_STATE_PREV = 8 ∧ (∀ o : Fin 48, m.outs[o] = { s.m.outs[o] with test := none }) ∧ m.exec = { s.m.exec with serviceSession := none } ∧ PassFreed s.m m h.toNat ∧ Only [.orpor, .ports, .outs, .exec] [F.EXEC_STATE_STATE, F.EXEC_STATE_PREV] s.m m) ∧
    (s.m.greeting 0 = some (t, viaB, p) → exec .opSessProbe s = .next { s with m := (s.m.greeted 0).deliver { dest := t, viaB := viaB, session := 0, flags := 1, op := 0, tag := (hdrOf p).tag, seq := (hdrOf p).seq, rseq := 0, status := 0, data := leBytes 4 s.m.sysId ++ leBytes 4 (resetWord R.SYS_REV).toNat ++ unitBytes ++ leBytes 2 s.m.openCount ++ leBytes 2 1400 } }) ∧
    (s.m.greeting 1 = some (t, viaB, p) → (1 ≤ par (packetParams p) 0 1 ∧ par (packetParams p) 0 1 ≤ 4) → packetTag p = leBytes 16 (Config.gcmTag (s.m.credential (par (packetParams p) 0 1) (par (packetParams p) 2 2)) ((((packetParams p).drop 4).take 16).take 12) (p.take 52) []).toNat → s.m.orpor.opens = [] → s.m.scopeOk (par (packetParams p) 0 1) (par (packetParams p) 2 2) = true → (List.range 1024).find? (fun k => (s.m.sess k).isNone) = some n → Does .opSessOpen s fun m => m.sess n = some { role := roleOf role, scope := scope, transport := t, viaB := viaB, kc := keys.take 16, kr := keys.drop 16, lastAt := s.m.optime } ∧ (∀ k : Fin 1024, k.val ≠ n → m.sess k.val = s.m.sess k.val) ∧ m.orpor.opens.map (fun o => (o.cred, o.nonce)) = [(cred, hostN)] ∧ Only [.orpor, .pool, .freeCtr, .twin, .upl] [] s.m m)

/-- O36. For every state with a canonical register file and a session that may write (OPERATOR of scope 0 or SERVICE): LOOP_MODE_REQUEST leaves the request in the loop's REQ and nothing else; LOOP_TUNING_WRITE of a value that R184 forbids changes nothing but logs EV_LOOP_PARAM, any other enters its register (WEIGHT its three fields, CFG only BADPV and BAD_LIMIT), the plan's bindings stay; START waits for the loop's next evaluation; ABORT of a running or waiting test gives STATE 3, CAUSE 5; a running one takes TEST from its loop. A write of any other session does nothing. LOOPTEST_ANALYSIS of a complete test shows K, dead time and time constant (those that R194 defines on the captured records, the same function for every state: for a STEP from its PVs, for the other signals the least-squares fit; log entries 6, 12) with FIT, VALID and STATE 5 or 4. (R182, R184, R192, R194, R195) -/
def Obligations.LoopRegistersTakeRequestsTuningAndTests : Prop :=
  ∀ (s : State) (h : BitVec 10) (n : BitVec 8) (req : BitVec 3) (reg : Fin 12) (w : BitVec 32) (g : Fin 4) (rs : List CapRec),
    let lp := s.m.get (F.LOOPTEST_CTRL_LOOP g.val)
    let p := s.m.get (F.LOOP_TIMING_PERIOD (s.m.get (F.LOOPTEST_CTRL_LOOP g.val)))
    regsWf s.m.regs = true →
    (s.m.isO0V h.toNat = true → Does (.loopModeRequest h n req) s fun m => m.get (F.LOOP_MODE_REQ n.toNat) = req.toNat ∧ Only [] [F.LOOP_MODE_REQ n.toNat] s.m m) ∧
    (s.m.isO0V h.toNat = false → exec (.loopModeRequest h n req) s = .next s) ∧
    (s.m.isO0V h.toNat = true → TuneBad s.m n.toNat reg.val w → Does (.loopTuningWrite h n reg w) s fun m => Logs s.m m .loopParam n.toNat [] ∧ Only [.logs] [F.LOG_STATUS_WAB_FULL] s.m m) ∧
    (s.m.isO0V h.toNat = true → ¬ TuneBad s.m n.toNat reg.val w → 4 ≤ reg.val → reg.val ≠ 7 → Does (.loopTuningWrite h n reg w) s fun m => m.word (R.LOOP_CFG n.toNat + 4 * reg.val) = w ∧ Only [] [whole (R.LOOP_CFG n.toNat + 4 * reg.val)] s.m m) ∧
    (s.m.isO0V h.toNat = true → Does (.loopTuningWrite h n 7 w) s fun m => m.word (R.LOOP_WEIGHT n.toNat) = w &&& 0x00FFFFFF#32 ∧ Only [] [whole (R.LOOP_WEIGHT n.toNat)] s.m m) ∧
    (s.m.isO0V h.toNat = true → Does (.loopTuningWrite h n 0 w) s fun m => m.get (F.LOOP_CFG_BADPV n.toNat) = bits w.toNat 16 1 ∧ m.get (F.LOOP_CFG_BAD_LIMIT n.toNat) = bits w.toNat 18 6 ∧ Only [] [F.LOOP_CFG_BADPV n.toNat, F.LOOP_CFG_BAD_LIMIT n.toNat] s.m m) ∧
    (1 ≤ reg.val → reg.val ≤ 3 → exec (.loopTuningWrite h n reg w) s = .next s) ∧
    (s.m.isO0V h.toNat = false → exec (.loopTuningWrite h n reg w) s = .next s) ∧
    (s.m.isO0V h.toNat = true → Does (.looptestStart h g) s fun m => m.tests = s.m.tests.set g { s.m.tests[g] with start := true } ∧ Only [.tests] [] s.m m) ∧
    (s.m.isO0V h.toNat = false → exec (.looptestStart h g) s = .next s) ∧
    (s.m.isO0V h.toNat = true → ((s.m.get (F.LOOPTEST_STATUS_STATE g.val) = 1 ∨ s.m.tests[g].start = true)) → Does (.looptestAbort h g) s fun m => m.get (F.LOOPTEST_STATUS_STATE g.val) = 3 ∧ m.get (F.LOOPTEST_STATUS_CAUSE g.val) = 5 ∧ m.flag (F.LOOP_MODE_TEST lp) = (s.m.get (F.LOOPTEST_STATUS_STATE g.val) != 1 && s.m.flag (F.LOOP_MODE_TEST lp)) ∧ m.tests = s.m.tests.set g { s.m.tests[g] with start := false } ∧ Only [.tests] [F.LOOPTEST_STATUS_STATE g.val, F.LOOPTEST_STATUS_CAUSE g.val, F.LOOP_MODE_TEST lp] s.m m) ∧
    (s.m.isO0V h.toNat = true → s.m.get (F.LOOPTEST_STATUS_STATE g.val) ≠ 1 → s.m.tests[g].start = false → exec (.looptestAbort h g) s = .next s) ∧
    (s.m.isO0V h.toNat = false → exec (.looptestAbort h g) s = .next s) ∧
    (s.m.get (F.LOOPTEST_STATUS_STATE g.val) = 2 → testSees s.m g.val rs → s.m.get (F.LOOPTEST_CTRL_KIND g.val) = 0 → Does (.looptestAnalysis g) s fun m => Analysed m g.val rs (stepModel (rs.map (·.pv)) (testDelay s.m g.val) (testLen s.m g.val) (s.m.get (F.LOOPTEST_AMP_AMP g.val)) p) ∧ Only [] (analysisRegs g.val) s.m m) ∧
    (s.m.get (F.LOOPTEST_STATUS_STATE g.val) = 2 → testSees s.m g.val rs → s.m.get (F.LOOPTEST_CTRL_KIND g.val) ≠ 0 → Does (.looptestAnalysis g) s fun m => Analysed m g.val rs (fitModel rs (testLen s.m g.val) p) ∧ Only [] (analysisRegs g.val) s.m m) ∧
    (s.m.get (F.LOOPTEST_STATUS_STATE g.val) ≠ 2 → exec (.looptestAnalysis g) s = .next s)

/-- O37. For every state with a canonical register file: while the DSP runs METER_SAMPLE counts in every current channel and adds to each of IMP, EXP and RQ1 to RQ4 the energy of R209 and R210 by the signs of the power and reactive power of the last 800 samples, exactly but for the part below the accumulator's unit (log entry 2), and nothing where the rms current is below 0.1 % of IR (CREEP); no accumulator ever falls; without a capture's trigger only the DSP's data, the free values' counter, OVERLOAD and REVERSED may change; a running capture takes one record of current and voltage code, which waits for the next METER_WIN. Sampling starts at the first sample at least 1 ms after the DSP was loaded. SAMPLE_CLIP shows OVERLOAD and marks the block and the interval (of a voltage channel in the records of the current channels it serves, log entry 134), and changes nothing else where no capture waits for it. GAIN_SWITCH goes to x1 after a clipped fine sample, to the range a calibration forces, to x4, through x1 with SETTLING towards x16, and at the settling's end to x16 or back to x4, each counted in SWITCHES; with the DSP stopped samples and clips do nothing. (R204, R205, R209, R210, R211, R221, R227) -/
def Obligations.MeterSamplesAccumulateEnergyBySign : Prop :=
  ∀ (s : State) (cur : List (Int × Int)) (vol : List Int) (t : Nat) (c : Fin 96) (d : Fin 6) (n : Nat),
    let w := s.m.get F.MET_CAP_CTRL_CBW
    let ch := s.m.get F.MET_CAP_CTRL_CHANNEL
    let ai := satInt 32 ((codeI s.m ch (cur.getD ch (0, 0)).1 (cur.getD ch (0, 0)).2) / 2 ^ 24)
    let av := satInt 32 (vol.getD (vchOf s.m ch - 96) 0)
    let one := (s.m.metCh c.val)
    regsWf s.m.regs = true →
    (s.m.flag F.MET_STATUS_RUN = true → Does (.metSample cur vol) s fun m => (∀ k : Fin 96, SampleTaken s.m m k.val) ∧ Only [.met, .freeCtr] ([F.MET_CAP_CTRL_BUSY] ++ overloadRegs) s.m m) ∧
    (s.m.flag F.MET_STATUS_RUN = true → s.m.met.capture = none → s.m.flag F.MET_CAP_CTRL_TRIG_OVL = false → Does (.metSample cur vol) s fun m => (∀ k : Fin 96, SampleTaken s.m m k.val) ∧ m.met.capture = none ∧ m.met.waiting = s.m.met.waiting ∧ Only [.met, .freeCtr] overloadRegs s.m m) ∧
    (s.m.flag F.MET_STATUS_RUN = true → s.m.met.capture = some n → n < s.m.get (F.CBW_LENGTH_LENGTH (s.m.get F.MET_CAP_CTRL_CBW)) → s.m.flag F.MET_CAP_CTRL_BUSY = true → Does (.metSample cur vol) s fun m => m.met.capture = some (n + 1) ∧ m.met.waiting = s.m.met.waiting ++ [leBytes 4 (ofInt 32 ai) ++ leBytes 4 (ofInt 32 av)] ∧ Only [.met, .freeCtr] overloadRegs s.m m) ∧
    (s.m.flag F.MET_STATUS_RUN = false → s.m.met.loaded = some t → t + 25000 ≤ s.m.clk.mono → Does (.metSample cur vol) s fun m => m.flag F.MET_STATUS_RUN = true ∧ m.met.loaded = none ∧ (∀ k : Fin 96, SampleTaken s.m m k.val) ∧ Only [.met, .freeCtr] ([F.MET_STATUS_RUN, F.MET_CAP_CTRL_BUSY] ++ overloadRegs) s.m m) ∧
    (s.m.flag F.MET_STATUS_RUN = false → s.m.met.loaded.all (fun t => decide (s.m.clk.mono < t + 25000)) = true → exec (.metSample cur vol) s = .next s) ∧
    (s.m.flag F.MET_STATUS_RUN = true → s.m.flag F.MET_CAP_CTRL_TRIG_OVL = false → Does (.sampleClip ⟨c.val, by omega⟩) s fun m => m.flag (F.MET_STATUS_I_OVERLOAD c.val) = true ∧ m.met = { s.m.met with ch := mapPut c.val { one with badBlock := true, flags := one.flags ||| 32 } s.m.met.ch } ∧ Only [.met] [F.MET_STATUS_I_OVERLOAD c.val] s.m m) ∧
    (s.m.flag F.MET_STATUS_RUN = true → s.m.flag F.MET_CAP_CTRL_TRIG_OVL = false → Does (.sampleClip ⟨96 + d.val, by omega⟩) s fun m => m.flag (F.MET_STATUS_V_OVERLOAD d.val) = true ∧ (m.metCh (96 + d.val)).badBlock = true ∧ (∀ k : Fin 96, vchOf s.m k.val = 96 + d.val → (m.metCh k.val).flags = (s.m.metCh k.val).flags ||| 32) ∧ Only [.met] [F.MET_STATUS_V_OVERLOAD d.val] s.m m) ∧
    (s.m.flag F.MET_STATUS_RUN = true → s.m.flag F.MET_CAP_CTRL_TRIG_OVL = true → s.m.get F.MET_CAP_CTRL_CHANNEL = c.val → s.m.flag F.MET_CAP_CTRL_BUSY = false → s.m.flag F.MET_CAP_CTRL_DONE = false → Does (.sampleClip ⟨c.val, by omega⟩) s fun m => m.flag (F.MET_STATUS_I_OVERLOAD c.val) = true ∧ m.met.capture = some 0 ∧ m.met.waiting = [] ∧ m.flag F.MET_CAP_CTRL_BUSY = true ∧ Only [.met] [F.MET_STATUS_I_OVERLOAD c.val, F.MET_CAP_CTRL_BUSY] s.m m) ∧
    (s.m.flag F.MET_STATUS_RUN = false → exec (.sampleClip ⟨c.val, by omega⟩) s = .next s) ∧
    ((s.m.metCh c.val).clipped = true → Does (.gainSwitch c) s fun m => RangeTo s.m m c 0 false ∧ Only [.met] (rangeRegs c) s.m m) ∧
    ((s.m.metCh c.val).clipped = false → forcedRange s.m c ≠ 0 → s.m.get (F.MET_STATUS_I_RANGE_SEL c.val) ≠ forcedRange s.m c - 1 → Does (.gainSwitch c) s fun m => RangeTo s.m m c (forcedRange s.m c - 1) false ∧ Only [.met] (rangeRegs c) s.m m) ∧
    ((s.m.metCh c.val).clipped = false → forcedRange s.m c = 0 → (s.m.metCh c.val).settle = none → s.m.get (F.MET_STATUS_I_RANGE_SEL c.val) = 0 → 32 ≤ (s.m.metCh c.val).fine → 1280 ≤ (s.m.metCh c.val).in4 → Does (.gainSwitch c) s fun m => RangeTo s.m m c 1 false ∧ Only [.met] (rangeRegs c) s.m m) ∧
    ((s.m.metCh c.val).clipped = false → forcedRange s.m c = 0 → (s.m.metCh c.val).settle = none → s.m.get (F.MET_STATUS_I_RANGE_SEL c.val) = 1 → 1280 ≤ (s.m.metCh c.val).in16 → Does (.gainSwitch c) s fun m => RangeTo s.m m c 0 true ∧ Only [.met] (rangeRegs c) s.m m) ∧
    ((s.m.metCh c.val).clipped = false → forcedRange s.m c = 0 → (s.m.metCh c.val).settle = some n → 32 ≤ n → Does (.gainSwitch c) s fun m => RangeTo s.m m c (if one.settleOver then 1 else 2) false ∧ Only [.met] (rangeRegs c) s.m m)

/-- O38. For every state with a canonical register file: while the DSP runs METER_BLOCK_END sets MET_BLOCK to the block's number modulo 2^32, shows in every current channel IMP to APP as the integer parts of the accumulators, USER as IMP + EXP or IMP - EXP by the channel's mode and the mirrors floor(register / 1,000) modulo 2^32, leaves every accumulator as it is, opens the next block with the sums turned over and a calibration that waited in force, gives each voltage channel the frequency of its block's rising zero crossings (log entry 135), or 0 with FREQ_BAD outside 45 to 65 Hz, and lets the meter points be written. METER_ENERGY_LO_READ latches the high word that stands and changes nothing else. (R206, R207, R210, R212, R213, R219, R220) -/
def Obligations.MeterBlocksPublishAndReadsLatchHighWords : Prop :=
  ∀ (s : State) (temp : BitVec 16) (c : Fin 96) (e : Fin 8),
    let x := (s.m.metCh c.val)
    regsWf s.m.regs = true →
    (s.m.flag F.MET_STATUS_RUN = true → Does (.metBlockEnd temp) s fun m => m.get F.MET_BLOCK_BLOCK = s.m.clk.ns / 200000000 % 2 ^ 32 ∧ m.get F.MET_TEMP_TEMP = temp.toNat ∧ m.met.fresh = true ∧ (∀ k : Fin 96, ∀ j : Fin 7, energyShown m k j.val = energyReg s.m k j ∧ (m.metCh k.val).acc[j] = (s.m.metCh k.val).acc[j]) ∧ (∀ k : Fin 96, energyShown m k 7 = if s.m.flag (F.MET_CFG_I_USER_MODE k.val) then (energyReg s.m k 0 + energyReg s.m k 1) % 2 ^ 64 else ofInt 64 ((energyReg s.m k 0 : Int) - energyReg s.m k 1)) ∧ (∀ k : Fin 96, m.get (F.MET_MIRROR_MWH k.val 0) = (s.m.metCh k.val).acc[0] / 2 ^ 32 / 1000 % 2 ^ 32 ∧ m.get (F.MET_MIRROR_MWH k.val 1) = (s.m.metCh k.val).acc[1] / 2 ^ 32 / 1000 % 2 ^ 32 ∧ m.get (F.MET_MIRROR_MWH k.val 2) = if s.m.flag (F.MET_CFG_I_USER_MODE k.val) then ((s.m.metCh k.val).acc[0] / 2 ^ 32 + (s.m.metCh k.val).acc[1] / 2 ^ 32) / 1000 % 2 ^ 32 else ofInt 32 (Int.fdiv (((s.m.metCh k.val).acc[0] / 2 ^ 32 : Nat) - ((s.m.metCh k.val).acc[1] / 2 ^ 32 : Nat) : Int) 1000)) ∧ (∀ k : Fin 102, (m.metCh k.val).prev = (s.m.metCh k.val).blk ∧ (m.metCh k.val).blk = {} ∧ (m.metCh k.val).fund = (s.m.metCh k.val).fcur ∧ (m.metCh k.val).fcur = {} ∧ (m.metCh k.val).cross = (s.m.metCh k.val).ccur ∧ (m.metCh k.val).set = (s.m.metCh k.val).pendSet.or (s.m.metCh k.val).set ∧ (m.metCh k.val).pendSet = none) ∧ (∀ k : Fin 96, (m.metCh k.val).hi = []) ∧ (∀ k : Fin 6, let f := ratF (freqOf (s.m.metCh (96 + k.val)).cross); let bad := !(fLe b32 0x42340000 f && fLe b32 f 0x42820000); m.flag (F.MET_STATUS_V_FREQ_BAD k.val) = bad ∧ m.get (F.MET_QTY_VALUE (96 + k.val) 2) = if bad then 0 else f % 2 ^ 32) ∧ Only [.met] meterBlockRegs s.m m) ∧
    (s.m.flag F.MET_STATUS_RUN = false → exec (.metBlockEnd temp) s = .next s) ∧
    (Does (.metEnergyLoRead c e) s fun m => (m.metCh c.val) = { x with hi := (m.metCh c.val).hi } ∧ mapGet e.val (m.metCh c.val).hi = some (s.m.get (F.MET_ENERGY_HI_HI c.val e.val)) ∧ (∀ k : Fin 96, k ≠ c → m.metCh k.val = s.m.metCh k.val) ∧ Only [.met] [] s.m m)

/-- O39. For every state with a canonical register file: while the DSP runs METER_INTERVAL_BOUNDARY closes a record per current channel that had samples (number, instant, channel, scope, samples and the increases of IMP and EXP since the interval's start) where the buffer has room, opens the next interval at the registers as they stand, sets MET_INT_NUM and leaves the accumulators; METER_JOURNAL writes the DSP's state into one slot with a higher number and leaves the other, or counts SKIPPED while a write runs. From a SERVICE session ACCUM waits for the block boundary with BUSY, COMMIT sends the staged set to the parameter store, DISCARD drops it; METER_CAL_ACCUM_DONE gives the means of the blocks with DONE; from any other session the three do nothing. A capture starts from a session that may write when none runs, and ends with DONE when its window is full and no record waits for METER_WIN. (R211, R214, R215, R216, R220, R221, R222, R226, R227) -/
def Obligations.MeterIntervalsJournalCalibrationAndCapture : Prop :=
  ∀ (s : State) (h : BitVec 10) (n : Nat) (sums : List Int) (ws : List Word),
    let recs := (List.range 96).filterMap (closeRec s.m s.m.clk.ns)
    regsWf s.m.regs = true →
    (s.m.flag F.MET_STATUS_RUN = true → s.m.logs.wabIntervals.length ≤ 416 → Does .metIntervalBoundary s fun m => (∀ k : Fin 96, 0 < (s.m.metCh k.val).samples → (m.logs.wabIntervals.drop s.m.logs.wabIntervals.length).any (fun r => r.channel == k.val && r.num == s.m.met.interval && r.stop == s.m.clk.ns && r.samples == (s.m.metCh k.val).samples && r.scope == s.m.get (F.MET_CFG_I_SCOPE k.val) && r.eImp == (s.m.metCh k.val).acc[0] / 2 ^ 32 - (s.m.metCh k.val).base[0] && r.eExp == (s.m.metCh k.val).acc[1] / 2 ^ 32 - (s.m.metCh k.val).base[1]) = true) ∧ m.logs.wabIntervals = s.m.logs.wabIntervals ++ recs ∧ m.logs = { s.m.logs with wabIntervals := m.logs.wabIntervals } ∧ (∀ k : Fin 96, (m.metCh k.val).acc = (s.m.metCh k.val).acc ∧ (m.metCh k.val).samples = 0 ∧ (∀ j : Fin 6, (m.metCh k.val).base[j] = (s.m.metCh k.val).acc[j.val] / 2 ^ 32)) ∧ m.get F.MET_INT_NUM_NUM = m.met.interval % 2 ^ 32 ∧ Only [.met, .logs] [F.MET_INT_NUM_NUM] s.m m) ∧
    (s.m.flag F.MET_STATUS_RUN = false → exec .metIntervalBoundary s = .next s) ∧
    (s.m.flag F.MET_STATUS_RUN = true → journalWriting s.m.met.jrn = false → Does .metJournal s fun m => m.met = { s.m.met with jrn := m.met.jrn } ∧ (∃ k : Fin 2, (m.met.jrn[k]).vals = s.m.metJournal ∧ (m.met.jrn[k]).writing = true ∧ (∀ j : Fin 2, (j ≠ k → m.met.jrn[j] = s.m.met.jrn[j]) ∧ ((s.m.met.jrn[j]).ok = true → (s.m.met.jrn[j]).seq < (m.met.jrn[k]).seq))) ∧ Only [.met] [] s.m m) ∧
    (s.m.flag F.MET_STATUS_RUN = true → journalWriting s.m.met.jrn = true → Does .metJournal s fun m => m.get F.MET_JOURNAL_SKIPPED = satNat F.MET_JOURNAL_SKIPPED.width (s.m.get F.MET_JOURNAL_SKIPPED + 1) ∧ Only [] [F.MET_JOURNAL_SKIPPED] s.m m) ∧
    (s.m.flag F.MET_STATUS_RUN = false → exec .metJournal s = .next s) ∧
    (s.m.isRole h.toNat .service = true → Does (.metCalAccum h) s fun m => m.met = { s.m.met with accumWait := true, accum := none } ∧ m.flag F.MET_CAL_CTRL_BUSY = true ∧ Only [.met] [F.MET_CAL_CTRL_BUSY] s.m m) ∧
    (s.m.isRole h.toNat .service = false → exec (.metCalAccum h) s = .next s) ∧
    (s.m.met.accum = some (n, sums) → max 1 (s.m.get F.MET_CAL_CTRL_BLOCKS) ≤ n → Does .metCalAccumDone s fun m => (∀ k : Fin 8, m.get (F.MET_CAL_RAW_RAW k.val) = ratF (mkRat (sums.getD k.val 0) (n * 2 ^ 149))) ∧ m.flag F.MET_CAL_CTRL_DONE = true ∧ m.flag F.MET_CAL_CTRL_BUSY = false ∧ m.met = { s.m.met with accum := none } ∧ Only [.met] ([F.MET_CAL_CTRL_DONE, F.MET_CAL_CTRL_BUSY] ++ ((List.range 8).map F.MET_CAL_RAW_RAW)) s.m m) ∧
    (s.m.met.accum.all (fun a => decide (a.1 < max 1 (s.m.get F.MET_CAL_CTRL_BLOCKS))) = true → exec .metCalAccumDone s = .next s) ∧
    (s.m.isRole h.toNat .service = true → s.m.met.staging = some ws → Does (.metCalCommit h) s fun m => m.nvm = { s.m.nvm with jobs := s.m.nvm.jobs ++ [.param (keyCal (s.m.get F.MET_CAL_CTRL_CHANNEL)) false (wordsBytes ws) none] } ∧ Only [.nvm] [] s.m m) ∧
    (s.m.isRole h.toNat .service = false → exec (.metCalCommit h) s = .next s) ∧
    (s.m.isRole h.toNat .service = true → Does (.metCalDiscard h) s fun m => m.met = { s.m.met with staging := none } ∧ Only [.met] [] s.m m) ∧
    (s.m.isRole h.toNat .service = false → exec (.metCalDiscard h) s = .next s) ∧
    (s.m.isO0V h.toNat = true → s.m.flag F.MET_CAP_CTRL_BUSY = false → Does (.metCapStart h) s fun m => m.met = { s.m.met with capture := some 0, waiting := [] } ∧ m.flag F.MET_CAP_CTRL_BUSY = true ∧ Only [.met] [F.MET_CAP_CTRL_BUSY] s.m m) ∧
    (((s.m.isO0V h.toNat = false ∨ s.m.flag F.MET_CAP_CTRL_BUSY = true)) → exec (.metCapStart h) s = .next s) ∧
    (s.m.met.capture = some n → s.m.get (F.CBW_LENGTH_LENGTH (s.m.get F.MET_CAP_CTRL_CBW)) ≤ n → s.m.met.waiting = [] → Does .metCapDone s fun m => m.met = { s.m.met with capture := none } ∧ m.flag F.MET_CAP_CTRL_DONE = true ∧ m.flag F.MET_CAP_CTRL_BUSY = false ∧ Only [.met] [F.MET_CAP_CTRL_DONE, F.MET_CAP_CTRL_BUSY] s.m m) ∧
    (s.m.met.capture.all (fun n => decide (n < s.m.get (F.CBW_LENGTH_LENGTH (s.m.get F.MET_CAP_CTRL_CBW))) || s.m.met.waiting != []) = true → exec .metCapDone s = .next s)

/-- O40. For every state with a canonical register file and the flash controller's domain on: FLASH_PROGRAM_DONE of a parameter record or of a copy adds it with the next SEQ at the write position, which moves past it; a calibration record counts in COMMITS, waits for its channel's next block and logs EV_MET_CAL with both CRCs; event records leave the write-ahead buffer and stand in their area's keep part, interval records and change records in their flash areas. SECTOR_ERASE_DONE of the oldest sector drops its records and frees it, of a refreshed sector ends the refresh with EV_NVM_REFRESH. MARGIN_PASS_START begins a pass once in every 604,800 s of operating time; a sector is read no sooner than 4 s after the last; a weak sector is counted, logged and refreshed through the next reserve sector, the last one ends the pass in WEAK and PASSES. With the domain off, or nothing in front, nothing changes. A record that a command waits for releases its reply (R394). (R216, R220, R387, R389, R391, R393, R394, R396, R397, R406, R408, R415) -/
def Obligations.FlashWorkMovesRecordsAndReclaims : Prop :=
  ∀ (s : State) (key : Nat) (tomb : Bool) (payload : List Byte) (js : List FlashJob) (tag : Option (Nat × Nat)) (mark : Nat × Nat) (a : Fin 16) (recs : List Rec) (ivs : List IntRec) (sec : Nat) (sector : BitVec 14) (c : Nat) (n : Nat) (b1 : Bool) (b2 : Bool),
    let rest := { s.m with nvm := { s.m.nvm with jobs := js } }
    let left := s.m.logs.wab.filter (fun x => !(x.area == a.val && recs.any (fun r => r.seq == x.seq)))
    let ar := s.m.logs.areas[a]
    let mch := s.m.metCh c
    regsWf s.m.regs = true →
    (s.m.flashUp = true → s.m.nvm.jobs = .copy key tomb payload :: js → Does .flashProgramDone s fun m => RecordWritten s.m m key tomb payload ∧ m.nvm.jobs = js ∧ Only [.nvm] [] s.m m) ∧
    (s.m.flashUp = true → s.m.nvm.jobs = .param key tomb payload tag :: js → ((key < keyCal 0 ∨ keyCal 102 ≤ key)) → key ≠ keySet → key ≠ keySafePw → NoneHeld s.m → Does .flashProgramDone s fun m => RecordWritten s.m m key tomb payload ∧ (8 ≤ m.paramFree → m.nvm.jobs = js) ∧ (m.paramFree < 8 → (.erase (paramSector s.m.nvm.tail)) ∈ m.nvm.jobs) ∧ Only [.nvm] [] s.m m) ∧
    (s.m.flashUp = true → c < 102 → s.m.nvm.jobs = .param (keyCal c) tomb payload tag :: js → NoneHeld s.m → Does .flashProgramDone s fun m => RecordWritten s.m m (keyCal c) tomb payload ∧ (m.metCh c) = { mch with pendSet := some (bytesWords 15 payload), flags := mch.flags ||| 128 } ∧ m.get (F.MET_CAL_COMMITS c) = (s.m.get (F.MET_CAL_COMMITS c) + 1) % 2 ^ (F.MET_CAL_COMMITS c).width ∧ Logs s.m m .metCal c (leBytes 1 c ++ leBytes 4 (setCrc mch.set) ++ leBytes 4 (crc32c payload)) ∧ Only [.nvm, .met, .logs] [F.MET_CAL_COMMITS c, F.LOG_STATUS_WAB_FULL] s.m m) ∧
    (s.m.flashUp = true → s.m.nvm.jobs = .flush a.val recs :: js → (s.m.nvm.flushed[a]) + recs.length ≤ 128 → recs.all (fun r => s.m.logs.wab.find? (fun x => x.area == a.val && x.seq == r.seq) == some r) = true → Does .flashProgramDone s fun m => (m.logs.areas[a]).keep = ar.keep ++ recs ∧ m.logs = { s.m.logs with wab := left, areas := s.m.logs.areas.set a { ar with keep := ar.keep ++ recs } } ∧ m.nvm.flushed[a] = s.m.nvm.flushed[a] + recs.length ∧ m.nvm.jobs = js ∧ m.nvm.params = s.m.nvm.params ∧ Only [.nvm, .logs] [] s.m m) ∧
    (s.m.flashUp = true → s.m.nvm.jobs = .interval ivs :: js → s.m.logs.intervals.length + ivs.length ≤ 65472 → Does .flashProgramDone s fun m => m.logs = { s.m.logs with intervals := s.m.logs.intervals ++ ivs, wabIntervals := s.m.logs.wabIntervals.filter (fun r => !ivs.contains r) } ∧ m.nvm.jobs = js ∧ m.ctr 15 = s.m.ctr 15 + 1 ∧ Only [.nvm, .logs] [] s.m m) ∧
    (s.m.flashUp = true → s.m.nvm.jobs = .mirror recs :: js → s.m.logs.mirrored.length + recs.length ≤ 2048 → Does .flashProgramDone s fun m => m.logs = { s.m.logs with mirrored := s.m.logs.mirrored ++ recs, mirror := s.m.logs.mirror.filter (fun r => !recs.any (fun x => x.seq == r.seq)) } ∧ m.nvm.jobs = js ∧ m.ctr 16 = s.m.ctr 16 + 1 ∧ Only [.nvm, .logs] [] s.m m) ∧
    (s.m.flashUp = true → s.m.nvm.jobs = .data mark :: js → exec .flashProgramDone s = .next { s with m := rest.releaseHeld }) ∧
    (((s.m.flashUp = false ∨ s.m.nvm.jobs = [])) → exec .flashProgramDone s = .next s) ∧
    (s.m.flashUp = true → s.m.nvm.jobs = .erase sec :: js → s.m.nvm.refresh = some sec → Does .sectorEraseDone s fun m => m.nvm = { s.m.nvm with jobs := js, refresh := none } ∧ m.flag F.NVM_STATUS_REFRESHING = false ∧ Logs s.m m .nvmRefresh 0 (leBytes 4 (sec * 4096)) ∧ Only [.nvm, .logs] [F.NVM_STATUS_REFRESHING, F.LOG_STATUS_WAB_FULL] s.m m) ∧
    (s.m.flashUp = true → s.m.nvm.jobs = .erase sec :: js → s.m.nvm.refresh ≠ some sec → sec = paramSector s.m.nvm.tail → Does .sectorEraseDone s fun m => m.nvm = { s.m.nvm with jobs := js, params := s.m.nvm.params.filter (fun r => decide (s.m.nvm.tail + 16 ≤ r.page)), tail := s.m.nvm.tail / 16 * 16 + 16 } ∧ Only [.nvm] [] s.m m) ∧
    (s.m.flashUp = true → s.m.nvm.jobs = .erase sec :: js → s.m.nvm.refresh ≠ some sec → sec ≠ paramSector s.m.nvm.tail → Does .sectorEraseDone s fun m => m.nvm = { s.m.nvm with jobs := js } ∧ Only [.nvm] [] s.m m) ∧
    (((s.m.flashUp = false ∨ s.m.nvm.jobs = [])) → exec .sectorEraseDone s = .next s) ∧
    (s.m.flashUp = true → s.m.nvm.margin = none → s.m.nvm.marginAt < s.m.optime / 604800000 → Does .marginPassStart s fun m => m.nvm = { s.m.nvm with margin := some 0, marginRead := none, marginAt := s.m.optime / 604800000, weak := 0 } ∧ m.flag F.NVM_STATUS_MARGIN_RUN = true ∧ Only [.nvm] [F.NVM_STATUS_MARGIN_RUN] s.m m) ∧
    (((s.m.flashUp = false ∨ s.m.nvm.margin.isSome = true ∨ s.m.optime / 604800000 ≤ s.m.nvm.marginAt)) → exec .marginPassStart s = .next s) ∧
    (s.m.flashUp = true → s.m.nvm.margin = some n → n ≤ sector.toNat → s.m.nvm.marginRead.all (fun t => decide (t + 4000 ≤ s.m.optime)) = true → Does (.marginSectorRead sector false false) s fun m => m.nvm = { s.m.nvm with margin := some (sector.toNat + 1), marginRead := some s.m.optime } ∧ Only [.nvm] [] s.m m) ∧
    (s.m.flashUp = true → s.m.nvm.margin = some n → n ≤ sector.toNat → s.m.nvm.marginRead.all (fun t => decide (t + 4000 ≤ s.m.optime)) = true → Does (.marginSectorRead sector true false) s fun m => m.nvm = { s.m.nvm with margin := some (sector.toNat + 1), marginRead := some s.m.optime, weak := s.m.nvm.weak + 1, refresh := some sector.toNat, staging := (s.m.nvm.staging + 1) % 1024, jobs := s.m.nvm.jobs ++ [.erase sector.toNat] } ∧ m.flag F.NVM_STATUS_REFRESHING = true ∧ Logs s.m m .nvmWeak 0 (leBytes 4 (sector.toNat * 4096)) ∧ Only [.nvm, .logs] [F.NVM_STATUS_REFRESHING, F.LOG_STATUS_WAB_FULL] s.m m) ∧
    (s.m.flashUp = true → s.m.nvm.margin = some n → n ≤ sector.toNat → s.m.nvm.marginRead.all (fun t => decide (t + 4000 ≤ s.m.optime)) = true → Does (.marginSectorRead sector false true) s fun m => m.nvm = { s.m.nvm with margin := none, marginRead := some s.m.optime } ∧ m.get F.NVM_MARGIN_WEAK = satNat 16 s.m.nvm.weak ∧ m.get F.NVM_MARGIN_PASSES = satNat F.NVM_MARGIN_PASSES.width (s.m.get F.NVM_MARGIN_PASSES + 1) ∧ m.flag F.NVM_STATUS_MARGIN_RUN = false ∧ Only [.nvm] [F.NVM_MARGIN_WEAK, F.NVM_MARGIN_PASSES, F.NVM_STATUS_MARGIN_RUN] s.m m) ∧
    (((s.m.flashUp = false ∨ s.m.nvm.margin.all (fun k => decide (sector.toNat < k)) = true ∨ s.m.nvm.marginRead.any (fun t => decide (s.m.optime < t + 4000)) = true)) → exec (.marginSectorRead sector b1 b2) s = .next s)

/-- O41. For every state with a canonical register file: OPTIME_TICK with the management domain's supply on adds 1 ms to operating time and takes the measurements of the supplies (lowest input voltage kept), and does nothing without it. REPEAT_HOLD_EXPIRY releases an area's newest record 60 s after it entered, and no sooner; RATE_WINDOW_CLOSE of a window that is over and suppressed records stores one EV_LOG_SUPPRESSED with their code, number and first instant in the area, and does nothing else. SLOT_WRITE_COMPLETE makes a journal's or a retain slot's running write the valid one and shows it. STORED_SET_WRITE sends the block's set to the parameter store with the command whose reply waits. A read of a low word latches the high word and changes nothing else. SUSPECT_CLEAR from a SERVICE session clears that bank's mark in both registers and in the store, from any other it does nothing. (R42, R49, R158, R222, R394, R400, R403, R411, R413, R498, R503) -/
def Obligations.TimersSlotsAndReadsOfStorage : Prop :=
  ∀ (s : State) (x : Meas) (a : Fin 16) (num : BitVec 8) (win : RateWin) (t : Nat × Nat) (h : BitVec 10) (seq : BitVec 32) (block : BitVec 12) (b : Fin 8),
    let ar := s.m.logs.areas[a]
    regsWf s.m.regs = true →
    (s.m.isOn (swPd 1) = true → Does (.optimeTick x) s fun m => m.optime = s.m.optime + 1 ∧ m.get F.PWR_VIN_MV = x.vin.toNat ∧ m.get F.PWR_VIN_MIN_MV = min (s.m.get F.PWR_VIN_MIN_MV) x.vin.toNat ∧ m.get F.PWR_POWER_PEAK_MW = max (s.m.get F.PWR_POWER_PEAK_MW) x.peak.toNat ∧ m.flag F.PWR_STATUS_HOLDUP_READY = decide (14000 ≤ x.holdup.toNat) ∧ (∀ i : Fin 24, i ≠ 0 → m.ctr i = s.m.ctr i) ∧ m.nvm = { s.m.nvm with counters := m.nvm.counters } ∧ Only [.nvm] supplyRegs s.m m) ∧
    (s.m.isOn (swPd 1) = false → exec (.optimeTick x) s = .next s) ∧
    ((s.m.logs.areas[a]).hold = some t → t.2 + 60000 ≤ s.m.optime → Does (.repeatHoldExpiry a) s fun m => m.logs = { s.m.logs with areas := s.m.logs.areas.set a { ar with hold := none } } ∧ Only [.logs] [] s.m m) ∧
    ((s.m.logs.areas[a]).hold.all (fun t => decide (s.m.optime < t.2 + 60000)) = true → exec (.repeatHoldExpiry a) s = .next s) ∧
    ((s.m.logs.areas[a]).wins.find? (fun w => w.code == a.val * 256 + num.toNat && decide (w.start + 60000 ≤ s.m.optime) && decide (0 < w.suppressed)) = some win → Does (.rateWindowClose a num) s fun m => m.logs = (storeRec s.m.logs a { ar with wins := putWin ar.wins { win with suppressed := 0 } } { seq := 0, optime := win.start + 60000, pcc := s.m.pcc, area := a.val, num := 255, source := 0, sev := win.sev, rep := 0, data := leBytes 2 win.code ++ leBytes 4 win.suppressed ++ leBytes 6 win.firstOp }).1 ∧ (∀ i : Fin 16, i ≠ a → m.logs.areas[i] = s.m.logs.areas[i]) ∧ Only [.logs] [F.LOG_STATUS_WAB_FULL] s.m m) ∧
    ((s.m.logs.areas[a]).wins.find? (fun w => w.code == a.val * 256 + num.toNat && decide (w.start + 60000 ≤ s.m.optime) && decide (0 < w.suppressed)) = none → exec (.rateWindowClose a num) s = .next s) ∧
    (Does (.slotWriteComplete 0) s fun m => m.met = { s.m.met with jrn := m.met.jrn } ∧ (∀ k : Fin 2, m.met.jrn[k] = if (s.m.met.jrn[k]).writing then { s.m.met.jrn[k] with ok := true, writing := false } else s.m.met.jrn[k]) ∧ Only [.met] [] s.m m) ∧
    (Does (.slotWriteComplete 1) s fun m => m.fio = { s.m.fio with cntJ := m.fio.cntJ } ∧ (∀ k : Fin 2, m.fio.cntJ[k] = if (s.m.fio.cntJ[k]).writing then { s.m.fio.cntJ[k] with ok := true, writing := false } else s.m.fio.cntJ[k]) ∧ Only [.fio] [] s.m m) ∧
    (Does (.slotWriteComplete 2) s fun m => (∀ k : Fin 2, m.retain[k] = if (s.m.retain[k]).writing then { s.m.retain[k] with ok := true, writing := false } else s.m.retain[k]) ∧ m.flag F.EXEC_RETAIN_VALID_A = (m.retain[(0 : Fin 2)]).ok ∧ m.flag F.EXEC_RETAIN_VALID_B = (m.retain[(1 : Fin 2)]).ok ∧ m.flag F.EXEC_RETAIN_WRITING = false ∧ m.flag F.EXEC_RETAIN_NEWER = ((m.retain[(1 : Fin 2)]).ok && (!(m.retain[(0 : Fin 2)]).ok || decide ((m.retain[(0 : Fin 2)]).seq < (m.retain[(1 : Fin 2)]).seq))) ∧ Only [.retain] [F.EXEC_RETAIN_VALID_A, F.EXEC_RETAIN_VALID_B, F.EXEC_RETAIN_WRITING, F.EXEC_RETAIN_NEWER] s.m m) ∧
    (Does (.storedSetWrite h seq block) s fun m => m.nvm = { s.m.nvm with jobs := s.m.nvm.jobs ++ [.param (keyStored (block.toNat * 4096)) false (s.m.storedBytes (block.toNat * 4096)) (some (h.toNat, seq.toNat))] } ∧ Only [.nvm] [] s.m m) ∧
    (Does .nvmOptimeLoRead s fun m => m.nvm = { s.m.nvm with optHi := some (s.m.optime / 2 ^ 32) } ∧ Only [.nvm] [] s.m m) ∧
    (Does .timeNowLoRead s fun m => m.clk = { s.m.clk with nowHi := some (s.m.clk.ns / 2 ^ 32) } ∧ Only [.clk] [] s.m m) ∧
    (s.m.isRole h.toNat .service = true → Does (.suspectClear h b) s fun m => m.flag (F.TILE_BANK_SUSPECT b.val) = false ∧ (∀ k : Fin 8, bitAt (m.get F.TILE_STATUS_SUSPECT) k.val = (bitAt (s.m.get F.TILE_STATUS_SUSPECT) k.val && decide (k ≠ b))) ∧ m.nvm = { s.m.nvm with jobs := s.m.nvm.jobs ++ [.param (keySuspect b.val) true [] none] } ∧ Only [.nvm] [F.TILE_BANK_SUSPECT b.val, F.TILE_STATUS_SUSPECT] s.m m) ∧
    (s.m.isRole h.toNat .service = false → exec (.suspectClear h b) s = .next s)

/-- O42. For every state with a canonical register file: RTC_SHADOW_FREEZE with no freeze in force copies calendar, weekday and sub-second (which has counted on by a free number within its second while the crystal runs, log entry 2) and sets FROZEN (SHADOW_TO where the last freeze timed out), and with one in force changes nothing; RTC_FREEZE_TIMEOUT ends one 10 ms old, and no younger. RTC_COMMIT from a session that may write makes a possible staged date and time the live one, with its ISO weekday and SUB 0, clears OSC_STOPPED and BAD_DATE, where the crystal runs, else it waits for the next edge; an impossible one sets BAD_DATE and changes nothing else. A due RTC_SYNC stores the deviation, counts, and sets the calendar to the UTC of this second. RTC_OSC_STOP holds the counter with OSC_STOPPED; CRYSTAL_RESTART lets it go on from where it stood, or from the commit that waited. With VIN absent BACKUP_SUPPLY_LOST puts every register of the backup domain at its reset word and no other. (R421, R422, R423, R424, R426, R430, R431, R464) -/
def Obligations.RtcFreezesCommitsAndSyncs : Prop :=
  ∀ (s : State) (h : BitVec 10) (c : Cal),
    let now := s.m.rtcCount.rtc.sub
    let utc := calOf (s.m.utcSeconds.toNat)
    regsWf s.m.regs = true →
    (s.m.rtc.sub ≤ now ∧ (s.m.rtc.sub < 256 → now < 256) ∧ (s.m.rtc.run = false → now = s.m.rtc.sub)) ∧
    ((s.m.rtc.shadow = none ∨ s.m.freezeOver = true) → Does .rtcShadowFreeze s fun m => m.rtc = { s.m.rtc with sub := now, shadow := some { cal := s.m.rtc.cal, wday := s.m.rtc.wday, sub := now, at_ := s.m.clk.mono }, timedOut := false } ∧ m.flag F.RTC_STATUS_FROZEN = true ∧ m.flag F.RTC_STATUS_SHADOW_TO = (s.m.rtc.timedOut || s.m.freezeOver || s.m.flag F.RTC_STATUS_SHADOW_TO) ∧ Only [.rtc, .freeCtr] [F.RTC_STATUS_FROZEN, F.RTC_STATUS_SHADOW_TO] s.m m) ∧
    (s.m.rtc.shadow.isSome = true → s.m.freezeOver = false → exec .rtcShadowFreeze s = .next s) ∧
    (s.m.rtc.shadow.any (fun f => decide (f.at_ + 250000 ≤ s.m.clk.mono)) = true → Does .rtcFreezeTimeout s fun m => m.rtc = { s.m.rtc with shadow := none, timedOut := true } ∧ m.flag F.RTC_STATUS_FROZEN = false ∧ Only [.rtc] [F.RTC_STATUS_FROZEN] s.m m) ∧
    (s.m.rtc.shadow.all (fun f => decide (s.m.clk.mono < f.at_ + 250000)) = true → exec .rtcFreezeTimeout s = .next s) ∧
    (s.m.isO0V h.toNat = true → s.m.staged.ok = true → s.m.rtc.run = true → Does (.rtcCommit h) s fun m => m.rtc = { s.m.rtc with cal := s.m.staged, wday := weekday s.m.staged, sub := 0, waits := none } ∧ m.flag F.RTC_STATUS_OSC_STOPPED = false ∧ m.flag F.RTC_STATUS_BAD_DATE = false ∧ Only [.rtc] [F.RTC_STATUS_OSC_STOPPED, F.RTC_STATUS_BAD_DATE] s.m m) ∧
    (s.m.isO0V h.toNat = true → s.m.staged.ok = true → s.m.rtc.run = false → Does (.rtcCommit h) s fun m => m.rtc = { s.m.rtc with waits := some s.m.staged } ∧ Only [.rtc] [] s.m m) ∧
    (s.m.isO0V h.toNat = true → s.m.staged.ok = false → Does (.rtcCommit h) s fun m => m.flag F.RTC_STATUS_BAD_DATE = true ∧ Only [] [F.RTC_STATUS_BAD_DATE] s.m m) ∧
    (s.m.isO0V h.toNat = false → exec (.rtcCommit h) s = .next s) ∧
    (s.m.syncDue = true → s.m.rtc.run = true → Does .rtcSync s fun m => m.rtc = { s.m.rtc with cal := utc, wday := weekday utc, sub := 0, waits := none } ∧ m.get F.RTC_SYNC_COUNT = satNat F.RTC_SYNC_COUNT.width (s.m.get F.RTC_SYNC_COUNT + 1) ∧ m.get F.RTC_SYNC_DIFF = ofInt 16 (satInt 16 (((s.m.rtc.cal.seconds : Int) - s.m.utcSeconds) * 256 + now)) ∧ m.flag F.RTC_STATUS_OSC_STOPPED = false ∧ m.flag F.RTC_STATUS_BAD_DATE = false ∧ m.staged = utc ∧ Only [.rtc, .freeCtr] ([F.RTC_SYNC_COUNT, F.RTC_SYNC_DIFF, F.RTC_STATUS_OSC_STOPPED, F.RTC_STATUS_BAD_DATE] ++ stagingRegs) s.m m) ∧
    (s.m.syncDue = true → s.m.rtc.run = false → Does .rtcSync s fun m => m.rtc = { s.m.rtc with waits := some utc } ∧ m.get F.RTC_SYNC_COUNT = satNat F.RTC_SYNC_COUNT.width (s.m.get F.RTC_SYNC_COUNT + 1) ∧ m.get F.RTC_SYNC_DIFF = ofInt 16 (satInt 16 (((s.m.rtc.cal.seconds : Int) - s.m.utcSeconds) * 256 + now)) ∧ m.staged = utc ∧ Only [.rtc] ([F.RTC_SYNC_COUNT, F.RTC_SYNC_DIFF] ++ stagingRegs) s.m m) ∧
    (s.m.syncDue = false → exec .rtcSync s = .next s) ∧
    (Does .rtcOscStop s fun m => m.rtc = { s.m.rtc with run := false } ∧ m.flag F.RTC_STATUS_OSC_STOPPED = true ∧ Only [.rtc] [F.RTC_STATUS_OSC_STOPPED] s.m m) ∧
    (s.m.rtc.waits = none → Does .crystalRestart s fun m => m.rtc = { s.m.rtc with run := true } ∧ Only [.rtc] [] s.m m) ∧
    (s.m.rtc.waits = some c → Does .crystalRestart s fun m => m.rtc = { s.m.rtc with run := true, cal := c, wday := weekday c, sub := 0, waits := none } ∧ m.flag F.RTC_STATUS_OSC_STOPPED = false ∧ m.flag F.RTC_STATUS_BAD_DATE = false ∧ Only [.rtc] [F.RTC_STATUS_OSC_STOPPED, F.RTC_STATUS_BAD_DATE] s.m m) ∧
    (s.m.flag F.PWR_STATUS_VIN_OK = false → Does .backupSupplyLost s fun m => m.rtc = { run := s.m.rtc.run } ∧ (∀ k : Fin 4096, m.word (0x3000 + k.val) = resetWord (0x3000 + k.val)) ∧ Only [.rtc] (domainRegs 0) s.m m) ∧
    (s.m.flag F.PWR_STATUS_VIN_OK = true → exec .backupSupplyLost s = .next s)

/-- O43. For every row OP_... of the opcode table of R349 and every state: while the named command is not in flight, its turn has not come, or the management window it needs is not open, the row changes nothing. When it may execute, a role that R349 does not list for the opcode ends it with ST_ROLE_DENIED (0x0005) and the opcode as DETAIL, and an opcode that needs a loaded plan ends without one with ST_BAD_STATE (0x0004) and the two states as DETAIL; beside the reply the command only leaves the order of waiting. (R85, R337, R338, R342, R344, R349, R351) -/
def Obligations.CommandRowsWaitForTurnRoleAndPlan : Prop :=
  ∀ (s : State) (h : BitVec 10) (seq : BitVec 32) (op : Nat) (i : Instr) (x : Sess) (c : Cmd) (info : OpInfo),
    OpRow h seq op i → opInfo op = some info →
    (s.m.ready (s.m.sessKey h.toNat) seq.toNat op = none → exec i s = .next s) ∧
    (Ready s h seq op x c → bitAt info.roles x.roleBit = false →
      exec i s = .next { s with m := (begun s h seq).finish (s.m.sessKey h.toNat) c (.fail 0x0005 op) }) ∧
    (Ready s h seq op x c → bitAt info.roles x.roleBit = true → info.plan = true → s.m.planLoaded = false →
      exec i s = .next { s with m := (begun s h seq).finish (s.m.sessKey h.toNat) c (.fail 0x0004 s.m.stateDetail) })

/-- O44. For every module, open session (handle below 1,024, not closing, RSEQ and SEQ short of their ends) and command of a defined opcode: ending it with ST_OK and data, or with a status and DETAIL of 4 bytes, takes it out of the commands in flight, puts a reply of kind N into the cache of the 8 newest with at most 64 data bytes, raises RSEQ by one, leaves every other session as it is, and stores the sealed reply (its SEQ, TAG, opcode, RSEQ and status) in the transmit channel of its uplink by its URGENT flag; no register changes. A session that is to close is gone after its reply. An answer that waits for flash work stays with its command while the work does. (R331, R336, R339, R340, R341, R342, R351, R394) -/
def Obligations.EveryReplyEndsItsCommand : Prop :=
  ∀ (m : Mod) (h : Nat) (x : Sess) (c : Cmd) (info : OpInfo) (data : List Byte) (code detail : Nat),
    h < 1024 → m.sess h = some x → opInfo c.op = some info →
    (x.closing = false → x.rseq + 1 < 0xFFFFFFFF → x.top ≠ 0xFFFFFFFF →
      Ended m (m.finish h c (.ok data)) h x c info.kindN 0 data ∧
      Ended m (m.finish h c (.fail code detail)) h x c info.kindN code (leBytes 4 detail)) ∧
    (x.closing = true → m.exec.serviceSession ≠ some h →
      (m.finish h c (.ok data)).sess h = none ∧ (∀ k : Fin 1026, k.val ≠ h → (m.finish h c (.ok data)).sess k.val = m.sess k.val) ∧
      Only [.orpor, .pool, .twin, .ports, .upl] [] m (m.finish h c (.ok data))) ∧
    (m.orpor.sessions = [(h, x)] → x.flight = [c] → c.done = none → m.nvm.jobs.any (FlashJob.marked (h, c.seq)) = true →
      (m.finish h c (.hold data)).sess h = some { x with flight := [{ c with done := some (0, data) }] } ∧
      Only [.orpor] [] m (m.finish h c (.hold data)))

/-- O45. For every state with a canonical register file in which the command is in flight, its turn has come and its role may issue it: OP_SESS_CLOSE marks its session to close with its last reply; OP_SESS_INFO answers role, transport, scope, highest SEQ, commands in flight, cached replies and idle seconds left and changes nothing; OP_SESS_LIST of 1 to 160 sessions answers those from FIRST on, of another COUNT ST_BAD_PARAM with its offset; OP_SESS_KILL of another open session closes it, of its own or of none is ST_BAD_PARAM. (R336, R344, R349, R351, R353) -/
def Obligations.SessionCommandsListKillAndClose : Prop :=
  ∀ (s : State) (h : BitVec 10) (seq : BitVec 32) (x : Sess) (c : Cmd),
    let v := par c.params 0 2
    let few := (s.m.orpor.sessions.filter (fun e => decide (par c.params 0 2 ≤ e.1) && decide (e.1 < 1024))).take (par c.params 2 2)
    regsWf s.m.regs = true →
    (Ready s h seq 0x0002 x c → Executes (.opSessClose h seq) s h c (.ok []) fun m => (m.sess (s.m.sessKey h.toNat)) = some { x with closing := true } ∧ (∀ k : Fin 1024, k.val ≠ s.m.sessKey h.toNat → m.sess k.val = s.m.sess k.val) ∧ Only [.orpor] [] (begun s h seq) m) ∧
    (Ready s h seq 0x0003 x c → Executes (.opSessInfo h seq) s h c (.ok (leBytes 1 (roleCode x.role) ++ leBytes 1 (x.transport + 128 * b2n x.viaB) ++ leBytes 2 x.scope ++ leBytes 4 x.top ++ leBytes 1 x.flight.length ++ leBytes 1 x.cache.length ++ leBytes 2 (s.m.idleLeft x))) fun m => Only [] [] (begun s h seq) m) ∧
    (Ready s h seq 0x0004 x c → bitAt 12 x.roleBit = true → 1 ≤ par c.params 2 2 → par c.params 2 2 ≤ 160 → Executes (.opSessList h seq) s h c (.ok (few.flatMap (fun e => leBytes 2 e.1 ++ leBytes 1 (roleCode e.2.role) ++ leBytes 1 (e.2.transport + 128 * b2n e.2.viaB) ++ leBytes 2 e.2.scope ++ leBytes 2 (s.m.idleLeft e.2)))) fun m => Only [] [] (begun s h seq) m) ∧
    (Ready s h seq 0x0004 x c → bitAt 12 x.roleBit = true → ((par c.params 2 2 = 0 ∨ 160 < par c.params 2 2)) → Executes (.opSessList h seq) s h c (.fail 2 2) fun m => Only [] [] (begun s h seq) m) ∧
    (Ready s h seq 0x0005 x c → bitAt 12 x.roleBit = true → par c.params 0 2 ≠ s.m.sessKey h.toNat → (s.m.sess (par c.params 0 2)).isSome = true → s.m.exec.serviceSession ≠ some (par c.params 0 2) → Executes (.opSessKill h seq) s h c (.ok []) fun m => m.sess v = none ∧ m.orpor.order.all (fun o => o.1 != v) = true ∧ (∀ k : Fin 1024, k.val ≠ v → m.sess k.val = s.m.sess k.val) ∧ m.ports.port = s.m.ports.port ∧ m.ports.pass.all (fun y => y.session != v) = true ∧ Only [.orpor, .ports] [] (begun s h seq) m) ∧
    (Ready s h seq 0x0005 x c → bitAt 12 x.roleBit = true → ((par c.params 0 2 = s.m.sessKey h.toNat ∨ s.m.sess (par c.params 0 2) = none)) → Executes (.opSessKill h seq) s h c (.fail 2 0) fun m => Only [] [] (begun s h seq) m)

/-- O46. For every state with a canonical register file in which the command may execute: OP_PT_READ of 1 to 80 points, and OP_PT_READ_RANGE, that the session's map allows and that stand in sound tiles answer the records' 16 bytes in order and change nothing; a wrong count, index or a denied item is refused with its offset or position. Outside STANDBY, OP_PT_WRITE of 1 to 64 allowed points of ORIGIN 4, none forced, with values of their forms, gives each record its value with QUALITY 0x0001, AGE 0 and CHANGES by R28, answers the window's instant, and changes no other byte of memory; one bad form or one force refuses all. OP_PT_FORCE writes QUALITY 0x0009 and lists the force; OP_PT_RELEASE clears FORCED and unlists it, of 0xFFFF every force the session may release; OP_PT_FORCES lists the forces that it may read. (In Two-hand the counts of the peer are free, log entry 2.) (R11, R22, R28, R29, R264, R337, R338, R344, R345, R346, R349, R351) -/
def Obligations.PointCommandsReadWriteForceAndRelease : Prop :=
  ∀ (s : State) (h : BitVec 10) (seq : BitVec 32) (x : Sess) (c : Cmd) (j : Nat) (i : Nat) (v : Long),
    let is := ptNamed c.params
    let items := ptItems c.params
    let rng := (List.range (par c.params 2 2)).map (par c.params 0 2 + ·)
    let q := { ptRec s.m i with qual := (ptRec s.m i).qual &&& 0xFFF7#16 }
    let rel := s.m.mayRelease x
    regsWf s.m.regs = true →
    (Ready s h seq 0x0100 x c → s.m.planLoaded = true → 1 ≤ par c.params 0 2 → par c.params 0 2 ≤ 80 → (ptNamed c.params).all (fun i => decide (i < 8192) && s.m.mayReadPt x i && soundPt s.m false i) = true → Executes (.opPtRead h seq) s h c (.ok (is.flatMap (ptBytes s.m))) fun m => Only [] [] (begun s h seq) m) ∧
    (Ready s h seq 0x0100 x c → s.m.planLoaded = true → ((par c.params 0 2 = 0 ∨ 80 < par c.params 0 2)) → Executes (.opPtRead h seq) s h c (.fail 2 0) fun m => Only [] [] (begun s h seq) m) ∧
    (Ready s h seq 0x0100 x c → s.m.planLoaded = true → 1 ≤ par c.params 0 2 → par c.params 0 2 ≤ 80 → (ptNamed c.params).findIdx? (fun i => decide (8192 ≤ i)) = some j → Executes (.opPtRead h seq) s h c (.fail 2 (2 + 2 * j)) fun m => Only [] [] (begun s h seq) m) ∧
    (Ready s h seq 0x0100 x c → s.m.planLoaded = true → 1 ≤ par c.params 0 2 → par c.params 0 2 ≤ 80 → (ptNamed c.params).all (fun i => decide (i < 8192) && s.m.homed i) = true → (ptNamed c.params).findIdx? (fun i => !s.m.mayReadPt x i) = some j → Executes (.opPtRead h seq) s h c (.fail 6 j) fun m => Only [] [] (begun s h seq) m) ∧
    (Ready s h seq 0x0101 x c → s.m.planLoaded = true → par c.params 0 2 < 8192 → 1 ≤ par c.params 2 2 → par c.params 2 2 ≤ 80 → par c.params 0 2 + par c.params 2 2 ≤ 8192 → ((List.range (par c.params 2 2)).map (par c.params 0 2 + ·)).all (fun i => s.m.mayReadPt x i && soundPt s.m false i) = true → Executes (.opPtReadRange h seq) s h c (.ok (rng.flatMap (ptBytes s.m))) fun m => Only [] [] (begun s h seq) m) ∧
    (Ready s h seq 0x0101 x c → s.m.planLoaded = true → 8192 ≤ par c.params 0 2 → Executes (.opPtReadRange h seq) s h c (.fail 2 0) fun m => Only [] [] (begun s h seq) m) ∧
    (Ready s h seq 0x0101 x c → s.m.planLoaded = true → par c.params 0 2 < 8192 → ((par c.params 2 2 = 0 ∨ 80 < par c.params 2 2 ∨ 8192 < par c.params 0 2 + par c.params 2 2)) → Executes (.opPtReadRange h seq) s h c (.fail 2 2) fun m => Only [] [] (begun s h seq) m) ∧
    (Ready s h seq 0x0102 x c → bitAt 15 x.roleBit = true → s.m.planLoaded = true → s.m.st ≠ xStandby → 1 ≤ par c.params 0 1 → par c.params 0 1 ≤ 64 → (ptItems c.params).all (fun e => decide (e.1 < 8192) && s.m.mayWritePt x e.1 && s.m.formOkPt e.1 e.2 && (mapGet e.1 s.m.mem.forces).isNone && soundPt s.m true e.1) = true → ((ptItems c.params).map (fun e => ptAddr s.m e.1)).Nodup → Executes (.opPtWrite h seq) s h c (.ok (leBytes 8 s.m.exec.windowAt)) fun m => (∀ e ∈ items, ptRec m e.1 = (ptRec s.m e.1).fresh e.2 0x0001#16) ∧ OnlyRecords s.m m (items.map (·.1)) ∧ m.mem.forces = s.m.mem.forces ∧ m.exec = { s.m.exec with freshPts := m.exec.freshPts } ∧ Only [.mem, .exec] [] (begun s h seq) m) ∧
    (Ready s h seq 0x0102 x c → bitAt 15 x.roleBit = true → s.m.planLoaded = true → s.m.st = xStandby → Executes (.opPtWrite h seq) s h c (.fail 4 s.m.stateDetail) fun m => Only [] [] (begun s h seq) m) ∧
    (Ready s h seq 0x0102 x c → bitAt 15 x.roleBit = true → s.m.planLoaded = true → s.m.st ≠ xStandby → 1 ≤ par c.params 0 1 → par c.params 0 1 ≤ 64 → (ptItems c.params).all (fun e => decide (e.1 < 8192) && s.m.mayWritePt x e.1 && s.m.homed e.1) = true → (ptItems c.params).findIdx? (fun e => !s.m.formOkPt e.1 e.2) = some j → Executes (.opPtWrite h seq) s h c (.fail 2 (8 + 12 * j)) fun m => Only [] [] (begun s h seq) m) ∧
    (Ready s h seq 0x0102 x c → bitAt 15 x.roleBit = true → s.m.planLoaded = true → s.m.st ≠ xStandby → 1 ≤ par c.params 0 1 → par c.params 0 1 ≤ 64 → (ptItems c.params).all (fun e => decide (e.1 < 8192) && s.m.mayWritePt x e.1 && s.m.homed e.1 && s.m.formOkPt e.1 e.2) = true → ((ptItems c.params).map (·.1)).find? (fun i => (mapGet i s.m.mem.forces).isSome) = some i → Executes (.opPtWrite h seq) s h c (.fail 8 i) fun m => Only [] [] (begun s h seq) m) ∧
    (Ready s h seq 0x0103 x c → bitAt 14 x.roleBit = true → s.m.planLoaded = true → s.m.st ≠ xStandby → i = par c.params 0 2 → v = BitVec.ofNat 64 (par c.params 4 8) → i < 8192 → s.m.isSafetyPt i = false → s.m.mayForcePt x i = true → s.m.formOkPt i v = true → soundPt s.m false i = true → s.m.regionOk 9 2 (ptAddr s.m i / 256 * 256) = true → Executes (.opPtForce h seq) s h c (.ok (leBytes 8 s.m.exec.windowAt)) fun m => ptRec m i = (ptRec s.m i).fresh v 0x0009#16 ∧ mapGet i m.mem.forces = some v ∧ (∀ k : Fin 8192, k.val ≠ i → mapGet k.val m.mem.forces = mapGet k.val s.m.mem.forces) ∧ OnlyRecords s.m m [i] ∧ m.exec = { s.m.exec with freshPts := m.exec.freshPts } ∧ Only [.mem, .exec] [] (begun s h seq) m) ∧
    (Ready s h seq 0x0103 x c → bitAt 14 x.roleBit = true → s.m.planLoaded = true → s.m.st ≠ xStandby → par c.params 0 2 < 8192 → s.m.isSafetyPt (par c.params 0 2) = true → Executes (.opPtForce h seq) s h c (.fail 5 0x0103) fun m => Only [] [] (begun s h seq) m) ∧
    (Ready s h seq 0x0104 x c → bitAt 14 x.roleBit = true → s.m.planLoaded = true → s.m.st ≠ xStandby → i = par c.params 0 2 → i < 8192 → s.m.isSafetyPt i = false → s.m.mayForcePt x i = true → (mapGet i s.m.mem.forces).isSome = true → soundPt s.m false i = true → s.m.regionOk 9 2 (ptAddr s.m i / 256 * 256) = true → Executes (.opPtRelease h seq) s h c (.ok (leBytes 2 1)) fun m => ptRec m i = q ∧ mapGet i m.mem.forces = none ∧ (∀ k : Fin 8192, k.val ≠ i → mapGet k.val m.mem.forces = mapGet k.val s.m.mem.forces) ∧ OnlyRecords s.m m [i] ∧ Only [.mem] [] (begun s h seq) m) ∧
    (Ready s h seq 0x0104 x c → bitAt 14 x.roleBit = true → s.m.planLoaded = true → s.m.st ≠ xStandby → i = par c.params 0 2 → i < 8192 → s.m.isSafetyPt i = false → s.m.mayForcePt x i = true → mapGet i s.m.mem.forces = none → soundPt s.m true i = true → Executes (.opPtRelease h seq) s h c (.ok (leBytes 2 0)) fun m => Only [] [] (begun s h seq) m) ∧
    (Ready s h seq 0x0104 x c → bitAt 14 x.roleBit = true → s.m.planLoaded = true → s.m.st ≠ xStandby → par c.params 0 2 = 0xFFFF → s.m.get F.TWIN_STATUS_MODE ≠ 1 → (s.m.mayRelease x).all (fun i => soundPt s.m false i && s.m.regionOk 9 2 (ptAddr s.m i / 256 * 256)) = true → Executes (.opPtRelease h seq) s h c (.ok (leBytes 2 rel.length)) fun m => (∀ k : Fin 8192, mapGet k.val m.mem.forces = if rel.contains k.val then none else mapGet k.val s.m.mem.forces) ∧ OnlyRecords s.m m rel ∧ Only [.mem, .freeCtr] [] (begun s h seq) m) ∧
    (Ready s h seq 0x0105 x c → bitAt 14 x.roleBit = true → s.m.planLoaded = true → s.m.get F.TWIN_STATUS_MODE ≠ 1 → Executes (.opPtForces h seq) s h c (.ok ((((s.m.mem.forces.map (·.1)).filter (fun i => decide (par c.params 0 2 ≤ i) && s.m.homed i && s.m.mayReadPt x i)).take 600).flatMap (leBytes 2))) fun m => Only [.freeCtr] [] (begun s h seq) m)

/-- O47. For every state with a canonical register file in which the command may execute on the module that takes packages: OP_PKG_BEGIN outside building, verifying and armed swaps opens a transfer of the declared lengths; a block inside it is stored, one outside is ST_XFER with its offset; OP_PKG_END with a gap is ST_XFER with the first missing offset, with another digest ST_DIGEST, else planning (or verification of an offline image) begins and the candidate's slot is cleared. OP_PLAN_ACTIVATE of a candidate without safety differences in RUN arms the swap for the named second, or the first whole second at least 2 s on, with its Drum in the inactive bank; in MODE 1 it restarts into BIT with cause 7 and the candidate's slot active, with the plan loaded unless the policy is HOLD_BIT or the pair cannot form (R21). A plan with safety differences is a SAFETY session's alone, one without is not: else ST_ROLE_DENIED. Without a candidate it is ST_NO_PLAN. OP_PLAN_CANCEL unarms and keeps the candidate; OP_PLAN_READ gives at most 1,024 bytes of a section. The same from a module that is not the holder is ST_BAD_STATE. (R74, R77, R78, R80, R81, R85, R86, R113, R347, R349, R351, R371) -/
def Obligations.PackageAndPlanCommands : Prop :=
  ∀ (s : State) (h : BitVec 10) (seq : BitVec 32) (x : Sess) (c : Cmd) (t : Xfer) (y : Xfer) (g : Nat) (pl : Plan) (old : Plan),
    let sec := s.m.swapSecond (par c.params 4 8)
    let len := par c.params 0 4 + par c.params 4 4
    regsWf s.m.regs = true →
    (Ready s h seq 0x0200 x c → bitAt 12 x.roleBit = true → s.m.notHolder = false → s.m.planBusy = false → Executes (.opPkgBegin h seq) s h c (.ok []) fun m => m.orpor.pkg = some { len := len, imgLen := par c.params 4 4, digest := c.params.drop 8 } ∧ m.orpor.sessions = s.m.orpor.sessions ∧ m.orpor.upd = s.m.orpor.upd ∧ Only [.orpor] [] (begun s h seq) m) ∧
    (Ready s h seq 0x0200 x c → bitAt 12 x.roleBit = true → s.m.notHolder = true → Executes (.opPkgBegin h seq) s h c (.fail 4 s.m.stateDetail) fun m => Only [] [] (begun s h seq) m) ∧
    (Ready s h seq 0x0200 x c → bitAt 12 x.roleBit = true → s.m.notHolder = false → s.m.planBusy = true → Executes (.opPkgBegin h seq) s h c (.fail 0x24 (s.m.word R.PLAN_STATUS).toNat) fun m => Only [] [] (begun s h seq) m) ∧
    (Ready s h seq 0x0201 x c → bitAt 12 x.roleBit = true → s.m.notHolder = false → s.m.orpor.pkg = some t → par c.params 0 4 + (c.params.drop 4).length ≤ t.len → Executes (.opPkgBlock h seq) s h c (.ok []) fun m => (m.orpor.pkg = some (t.put (par c.params 0 4) (c.params.drop 4))) ∧ m.orpor.sessions = s.m.orpor.sessions ∧ Only [.orpor] [] (begun s h seq) m) ∧
    (Ready s h seq 0x0201 x c → bitAt 12 x.roleBit = true → s.m.notHolder = false → s.m.orpor.pkg = some t → t.len < par c.params 0 4 + (c.params.drop 4).length → Executes (.opPkgBlock h seq) s h c (.fail 0x20 (par c.params 0 4)) fun m => Only [] [] (begun s h seq) m) ∧
    (Ready s h seq 0x0202 x c → bitAt 12 x.roleBit = true → s.m.notHolder = false → s.m.orpor.pkg = some y → y.gap = some g → Executes (.opPkgEnd h seq) s h c (.fail 0x20 g) fun m => Only [] [] (begun s h seq) m) ∧
    (Ready s h seq 0x0202 x c → bitAt 12 x.roleBit = true → s.m.notHolder = false → s.m.orpor.pkg = some y → y.gap = none → bytes32 (Config.sha256 y.bytes) ≠ y.digest → Executes (.opPkgEnd h seq) s h c (.fail 0x21 0) fun m => Only [] [] (begun s h seq) m) ∧
    (Ready s h seq 0x0202 x c → bitAt 12 x.roleBit = true → s.m.notHolder = false → s.m.orpor.pkg = some y → y.gap = none → bytes32 (Config.sha256 y.bytes) = y.digest → Executes (.opPkgEnd h seq) s h c (.ok []) fun m => m.orpor = { (begun s h seq).orpor with pkg := none } ∧ m.candSlot = none ∧ m.activeSlot = s.m.activeSlot ∧ m.get F.PLAN_STATUS_STATE = (if y.imgLen = 0 then 1 else 2) ∧ m.get F.PLAN_STATUS_PROGRESS = 0 ∧ m.get F.PLAN_CAND_ID_ID = 0 ∧ m.plan.sent = some (packageFrom (y.bytes.take (y.len - y.imgLen))) ∧ m.plan.image = (if y.imgLen = 0 then none else some (planImage (y.bytes.take (y.len - y.imgLen)) (y.bytes.drop (y.len - y.imgLen)))) ∧ m.plan.active = s.m.plan.active ∧ Only [.plan, .orpor] [F.PLAN_STATUS_STATE, F.PLAN_STATUS_PROGRESS, F.PLAN_CAND_ID_ID] (begun s h seq) m) ∧
    (Ready s h seq 0x0203 x c → bitAt 28 x.roleBit = true → s.m.notHolder = false → s.m.planBusy = false → s.m.cand = some pl → pl.safetyDiff = false → x.role ≠ .safety → par c.params 0 1 = 0 → s.m.st = xRun → s.m.plan.active = some old → onlineOk old pl = true → ((par c.params 4 8 = 0 ∨ s.m.clk.ns + 1000000000 ≤ par c.params 4 8 * 1000000000)) → Executes (.opPlanActivate h seq) s h c (.ok (leBytes 8 sec)) fun m => SwapArmed s.m m pl sec ∧ Only [.plan, .twin] [F.PLAN_STATUS_STATE, F.PLAN_SWAP_SEC_SEC] (begun s h seq) m) ∧
    (Ready s h seq 0x0203 x c → bitAt 28 x.roleBit = true → s.m.notHolder = false → s.m.planBusy = false → s.m.cand = some pl → pl.safetyDiff = false → x.role ≠ .safety → par c.params 0 1 = 1 → ((s.m.st = xRun ∨ s.m.st = xStopped ∨ s.m.inBit = true)) → s.m.pwr.tcxoBad = false → s.m.policy 7 ≠ 2 → s.m.noPair = false → (pl :: s.m.plan.active.toList).all imageOk = true → Executes (.opPlanActivate h seq) s h c (.ok (leBytes 8 0)) fun m => m.st = xBit ∧ m.get F.EXEC_STATE_CAUSE = 7 ∧ m.plan.active = some pl ∧ m.plan.armed = none ∧ m.flag F.PLAN_STATUS_ACTIVE_SLOT = !s.m.flag F.PLAN_STATUS_ACTIVE_SLOT ∧ m.flag F.EXEC_STATE_NOPLAN = false ∧ (∀ l : Fin 8, (m.lanes[l]).phase = .idle) ∧ Within restartParts (restartRanges (pl :: s.m.plan.active.toList)) (begun s h seq) m) ∧
    (Ready s h seq 0x0203 x c → bitAt 28 x.roleBit = true → s.m.notHolder = false → s.m.planBusy = false → s.m.cand = some pl → pl.safetyDiff = false → x.role ≠ .safety → par c.params 0 1 = 1 → ((s.m.st = xRun ∨ s.m.st = xStopped ∨ s.m.inBit = true)) → s.m.pwr.tcxoBad = false → ((s.m.policy 7 = 2 ∨ s.m.noPair = true)) → Executes (.opPlanActivate h seq) s h c (.ok (leBytes 8 0)) fun m => m.st = xBit ∧ m.get F.EXEC_STATE_CAUSE = 7 ∧ m.plan.active = none ∧ m.plan.armed = none ∧ m.flag F.PLAN_STATUS_ACTIVE_SLOT = !s.m.flag F.PLAN_STATUS_ACTIVE_SLOT ∧ m.flag F.EXEC_STATE_NOPLAN = true ∧ Within restartParts (restartRanges []) (begun s h seq) m) ∧
    (Ready s h seq 0x0203 x c → bitAt 28 x.roleBit = true → s.m.notHolder = false → s.m.planBusy = false → s.m.cand = some pl → par c.params 0 1 ≤ 1 → (pl.safetyDiff = true ↔ x.role ≠ .safety) → Executes (.opPlanActivate h seq) s h c (.fail 5 0x0203) fun m => Only [] [] (begun s h seq) m) ∧
    (Ready s h seq 0x0203 x c → bitAt 28 x.roleBit = true → s.m.notHolder = false → s.m.planBusy = false → s.m.cand = none → Executes (.opPlanActivate h seq) s h c (.fail 0x23 0) fun m => Only [] [] (begun s h seq) m) ∧
    (Ready s h seq 0x0204 x c → bitAt 12 x.roleBit = true → s.m.plan.armed.isSome = true → s.m.plan.armSafe = none → Executes (.opPlanCancel h seq) s h c (.ok []) fun m => m.plan = { s.m.plan with armed := none, armSafe := none, deferred := 0, newDone := false, migrated := false } ∧ m.get F.PLAN_STATUS_STATE = 3 ∧ Only [.plan] [F.PLAN_STATUS_STATE] (begun s h seq) m) ∧
    (Ready s h seq 0x0204 x c → bitAt 12 x.roleBit = true → s.m.plan.armed = none → s.m.cand = none → Executes (.opPlanCancel h seq) s h c (.fail 0x23 0) fun m => Only [] [] (begun s h seq) m) ∧
    (Ready s h seq 0x0205 x c → bitAt 12 x.roleBit = true → par c.params 0 1 = 1 → 1 ≤ par c.params 2 2 → par c.params 2 2 ≤ 16 → par c.params 8 2 ≤ 1024 → s.m.cand = some pl → Executes (.opPlanRead h seq) s h c (.ok ((((mapGet (par c.params 2 2) pl.secBytes).getD []).drop (par c.params 4 4)).take (par c.params 8 2))) fun m => Only [] [] (begun s h seq) m) ∧
    (Ready s h seq 0x0205 x c → bitAt 12 x.roleBit = true → par c.params 0 1 = 0 → 1 ≤ par c.params 2 2 → par c.params 2 2 ≤ 16 → par c.params 8 2 ≤ 1024 → s.m.plan.active = some old → Executes (.opPlanRead h seq) s h c (.ok ((((mapGet (par c.params 2 2) old.secBytes).getD []).drop (par c.params 4 4)).take (par c.params 8 2))) fun m => Only [] [] (begun s h seq) m)

/-- O48. For every state with a canonical register file in which the command may execute: OP_BITPROG_LOAD of a TOTAL of 1 to 8,244 bytes stores a block inside it, refuses one outside with ST_XFER and its offset, and answers ST_OK while bytes are missing; the block that completes a record which fails its checks is ST_BITPROG with the failing word; one without safety outputs that passes goes to the parameter store and its reply waits for it (a record with safety outputs needs an unlocked SAFETY session and a change record; another role is ST_ROLE_DENIED). OP_BITPROG_READ of at most 1,024 bytes gives those of the stored record. Nothing else changes. (R110, R146, R277, R280, R347, R349, R351, R394, R526) -/
def Obligations.BitProgramsAreStoredAndRead : Prop :=
  ∀ (s : State) (h : BitVec 10) (seq : BitVec 32) (x : Sess) (c : Cmd) (w : Nat),
    let total := par c.params 0 4
    let cur := (match s.m.orpor.bitp with | some t => if t.len = par c.params 0 4 then t else { len := par c.params 0 4 } | none => { len := par c.params 0 4 } : Xfer)
    let t := cur.put (par c.params 4 4) (c.params.drop 8)
    let so := recField t.bytes 12 1 ≠ 0
    let kk := s.m.sessKey h.toNat
    let was := s.m.bitprog
    regsWf s.m.regs = true →
    (Ready s h seq 0x0206 x c → bitAt 28 x.roleBit = true → ((par c.params 0 4 = 0 ∨ 8244 < par c.params 0 4)) → Executes (.opBitprogLoad h seq) s h c (.fail 2 0) fun m => Only [] [] (begun s h seq) m) ∧
    (Ready s h seq 0x0206 x c → bitAt 28 x.roleBit = true → 1 ≤ total → total ≤ 8244 → total < par c.params 4 4 + (c.params.drop 8).length → Executes (.opBitprogLoad h seq) s h c (.fail 0x20 (par c.params 4 4)) fun m => m.orpor = { (begun s h seq).orpor with bitp := some cur } ∧ Only [.orpor] [] (begun s h seq) m) ∧
    (Ready s h seq 0x0206 x c → bitAt 28 x.roleBit = true → 1 ≤ total → total ≤ 8244 → par c.params 4 4 + (c.params.drop 8).length < total → t.gap.isSome = true → Executes (.opBitprogLoad h seq) s h c (.ok []) fun m => m.orpor = { (begun s h seq).orpor with bitp := some t } ∧ Only [.orpor] [] (begun s h seq) m) ∧
    (Ready s h seq 0x0206 x c → bitAt 28 x.roleBit = true → 1 ≤ total → total ≤ 8244 → par c.params 4 4 + (c.params.drop 8).length ≤ total → t.gap = none → ((x.role = .safety → so)) → bitRecCheck t.bytes = some w → Executes (.opBitprogLoad h seq) s h c (.fail 0x25 w) fun m => m.orpor = { (begun s h seq).orpor with bitp := none } ∧ Only [.orpor] [] (begun s h seq) m) ∧
    (Ready s h seq 0x0206 x c → bitAt 28 x.roleBit = true → 1 ≤ total → total ≤ 8244 → par c.params 4 4 + (c.params.drop 8).length ≤ total → t.gap = none → x.role ≠ .safety → ¬ so → bitRecCheck t.bytes = none → Executes (.opBitprogLoad h seq) s h c (.hold []) fun m => m.orpor = { (begun s h seq).orpor with bitp := none } ∧ m.nvm = { s.m.nvm with jobs := s.m.nvm.jobs ++ [.param keyBitprog false t.bytes (some (kk, seq.toNat))] } ∧ Only [.orpor, .nvm] [] (begun s h seq) m) ∧
    (Ready s h seq 0x0206 x c → bitAt 28 x.roleBit = true → 1 ≤ total → total ≤ 8244 → par c.params 4 4 + (c.params.drop 8).length ≤ total → t.gap = none → x.role ≠ .safety → so → bitRecCheck t.bytes = none → Executes (.opBitprogLoad h seq) s h c (.fail 5 0x0206) fun m => m.orpor = { (begun s h seq).orpor with bitp := none } ∧ Only [.orpor] [] (begun s h seq) m) ∧
    (Ready s h seq 0x0207 x c → bitAt 28 x.roleBit = true → par c.params 4 2 ≤ 1024 → Executes (.opBitprogRead h seq) s h c (.ok ((was.drop (par c.params 0 4)).take (par c.params 4 2))) fun m => Only [] [] (begun s h seq) m) ∧
    (Ready s h seq 0x0207 x c → bitAt 28 x.roleBit = true → 1024 < par c.params 4 2 → Executes (.opBitprogRead h seq) s h c (.fail 2 4) fun m => Only [] [] (begun s h seq) m)

/-- O49. For every state with a canonical register file in which the command is in flight, its turn has come and its role may issue it: OP_REG_READ of 1 to 256 words answers what each register shows and changes nothing for registers without an effect of reading; one RC register ends with its RC fields at their reset values; a count or an address out of range, a register outside the map, and words on both sides of the peer window are refused. OP_REG_WRITE of 1 to 16 words writes them in order and answers each register's value: one plain register gets its RW bits, loses the W1C bits written as 1, keeps the rest; a select register changes in the session's own copy only; a register that is off, or whose block refuses the session, is left. OP_REG_MODIFY writes (old AND NOT MASK) OR (VALUE AND MASK), W1C bits outside MASK as 0. Through the peer window to a peer that answers the data are free values. (R5, R6, R349, R350, R489, R490, R491, R492, R493, R494, R495) -/
def Obligations.RegisterCommandsReadWriteAndModify : Prop :=
  ∀ (s : State) (h : BitVec 10) (seq : BitVec 32) (x : Sess) (c : Cmd),
    let ads := ((List.range (par c.params 4 2)).map (fun i => par c.params 0 4 + 4 * i))
    let cnt := (1 ≤ par c.params 4 2 ∧ par c.params 4 2 ≤ 256 ∧ addrBad (par c.params 0 4) = false ∧ par c.params 0 4 + 4 * (par c.params 4 2 - 1) ≤ 0xFFFFFC)
    let wrs := (regItems c.params)
    let adr := (par c.params 4 4)
    let val := (BitVec.ofNat 32 (par c.params 8 4))
    let one := (par c.params 0 2 = 1 ∧ addrBad (par c.params 4 4) = false ∧ (par c.params 4 4 < 0x800000 ∨ s.m.get F.TWIN_STATUS_MODE ≠ 1))
    let alive := (pdOf (par c.params 4 4)).any (fun d => d == 0 || s.m.pdPh d == .on || s.m.pdPh d == .shutting)
    let nw := (regAfter s.m (par c.params 4 4) (BitVec.ofNat 32 (par c.params 8 4)))
    let self := (s.m.sess (s.m.sessKey h.toNat) = some x)
    let md := (par c.params 0 4)
    let old := (s.m.peek x (par c.params 0 4))
    let mnew := (regAfter s.m (par c.params 0 4) (modifyWord (par c.params 0 4) (s.m.peek x (par c.params 0 4)) (BitVec.ofNat 32 (par c.params 4 4)) (BitVec.ofNat 32 (par c.params 8 4))))
    regsWf s.m.regs = true →
    (Ready s h seq 0x0300 x c → cnt → s.m.window ads = .own → ads.all (fun a => s.m.mayRead x a) = true → ads.all plainRead = true → Executes (.opRegRead h seq) s h c (.ok (ads.flatMap (fun a => leBytes 4 (s.m.peek x a).toNat))) fun m => Only [] [] (begun s h seq) m) ∧
    (Ready s h seq 0x0300 x c → par c.params 4 2 = 1 → addrBad (par c.params 0 4) = false → s.m.window [md] = .own → s.m.mayRead x md = true → s.m.pdPh ((pdOf md).getD 0) = .on → pdOf md ≠ none → rcPlain md = true → Executes (.opRegRead h seq) s h c (.ok (leBytes 4 (s.m.peek x md).toNat)) fun m => m.word md = (s.m.word md &&& ~~~(BitVec.ofNat 32 (accessAt md).rc)) ||| (resetWord md &&& BitVec.ofNat 32 (accessAt md).rc) ∧ Only [] [whole md] (begun s h seq) m) ∧
    (Ready s h seq 0x0300 x c → cnt → (ads.all (fun a => decide (0x800000 ≤ a)) = true) → s.m.get F.TWIN_STATUS_MODE = 1 → s.m.peerUp = true → s.m.flag F.TWIN_STATUS_SIDE = false → ads.all (fun a => s.m.mayRead x a) = true → Executes (.opRegRead h seq) s h c (.ok (s.m.random (4 * par c.params 4 2))) fun m => m.freeCtr = s.m.freeCtr + 4 * par c.params 4 2 ∧ Only [.freeCtr] [] (begun s h seq) m) ∧
    (Ready s h seq 0x0300 x c → ((par c.params 4 2 = 0 ∨ 256 < par c.params 4 2)) → Executes (.opRegRead h seq) s h c (.fail 2 4) fun m => Only [] [] (begun s h seq) m) ∧
    (Ready s h seq 0x0300 x c → 1 ≤ par c.params 4 2 → par c.params 4 2 ≤ 256 → ((addrBad (par c.params 0 4) = true ∨ 0xFFFFFC < par c.params 0 4 + 4 * (par c.params 4 2 - 1))) → Executes (.opRegRead h seq) s h c (.fail 2 0) fun m => Only [] [] (begun s h seq) m) ∧
    (Ready s h seq 0x0300 x c → cnt → s.m.mayRead x md = false → Executes (.opRegRead h seq) s h c (.fail 6 md) fun m => Only [] [] (begun s h seq) m) ∧
    (Ready s h seq 0x0301 x c → bitAt 28 x.roleBit = true → 1 ≤ par c.params 0 2 → par c.params 0 2 ≤ 16 → wrs.all (fun w => !addrBad w.1) = true → s.m.window (wrs.map (·.1)) = .own → wrs.all (fun w => (s.m.jackRefused (s.m.sessKey h.toNat) w.1 w.2).isNone) = true → Executes (.opRegWrite h seq) s h c (.hold ((begun s h seq).writeRegs (s.m.sessKey h.toNat) (s.m.sessKey h.toNat, seq.toNat) wrs).2) fun m => m = ((begun s h seq).writeRegs (s.m.sessKey h.toNat) (s.m.sessKey h.toNat, seq.toNat) wrs).1) ∧
    (Ready s h seq 0x0301 x c → bitAt 28 x.roleBit = true → one → s.m.mayWrite (s.m.sessKey h.toNat) adr = true → alive = true → plainWrite adr = true → quietRead adr = true → adr % 4 = 0 → Executes (.opRegWrite h seq) s h c (.hold (leBytes 4 (((begun s h seq).setWord adr nw).peek x adr).toNat)) fun m => m.word adr = nw ∧ Only [] [whole adr] (begun s h seq) m) ∧
    (Ready s h seq 0x0301 x c → bitAt 28 x.roleBit = true → one → self → alive = true → isSelect adr = true → Executes (.opRegWrite h seq) s h c (.hold (leBytes 4 (val &&& BitVec.ofNat 32 (accessAt adr).rw).toNat)) fun m => (m.sess (s.m.sessKey h.toNat)) = some { x with sel := mapPut adr (val &&& BitVec.ofNat 32 (accessAt adr).rw) x.sel } ∧ (∀ k : Fin 1024, k.val ≠ s.m.sessKey h.toNat → m.sess k.val = s.m.sess k.val) ∧ Only [.orpor] [] (begun s h seq) m) ∧
    (Ready s h seq 0x0301 x c → bitAt 28 x.roleBit = true → one → isSelect adr = false → adr ≠ R.JACK_RESET → (inst (R.UPL_CTRL 0) 0x200 2 adr) = none → quietRead adr = true → ((alive = false ∨ s.m.mayWrite (s.m.sessKey h.toNat) adr = false)) → Executes (.opRegWrite h seq) s h c (.hold (leBytes 4 (s.m.peek x adr).toNat)) fun m => Only [] [] (begun s h seq) m) ∧
    (Ready s h seq 0x0301 x c → bitAt 28 x.roleBit = true → ((par c.params 0 2 = 0 ∨ 16 < par c.params 0 2)) → Executes (.opRegWrite h seq) s h c (.fail 2 0) fun m => Only [] [] (begun s h seq) m) ∧
    (Ready s h seq 0x0302 x c → bitAt 28 x.roleBit = true → addrBad md = false → s.m.window [md] = .own → isSelect md = false → s.m.mayWrite (s.m.sessKey h.toNat) md = true → (pdOf md).any (fun d => d == 0 || s.m.pdPh d == .on || s.m.pdPh d == .shutting) = true → plainWrite md = true → quietRead md = true → Executes (.opRegModify h seq) s h c (.hold (leBytes 4 old.toNat ++ leBytes 4 (((begun s h seq).setWord md mnew).peek x md).toNat)) fun m => m.word md = mnew ∧ Only [] [whole md] (begun s h seq) m) ∧
    (Ready s h seq 0x0302 x c → bitAt 28 x.roleBit = true → addrBad md = false → s.m.window [md] = .own → isSelect md = false → md ≠ R.JACK_RESET → (inst (R.UPL_CTRL 0) 0x200 2 md) = none → quietRead md = true → (((pdOf md).any (fun d => d == 0 || s.m.pdPh d == .on || s.m.pdPh d == .shutting) = false ∨ s.m.mayWrite (s.m.sessKey h.toNat) md = false)) → Executes (.opRegModify h seq) s h c (.hold (leBytes 4 old.toNat ++ leBytes 4 old.toNat)) fun m => Only [] [] (begun s h seq) m) ∧
    (Ready s h seq 0x0301 x c → bitAt 28 x.roleBit = true → 1 ≤ par c.params 0 2 → par c.params 0 2 ≤ 16 → wrs.all (fun w => !addrBad w.1) = true → s.m.window (wrs.map (·.1)) = .peer → Executes (.opRegWrite h seq) s h c (.ok (s.m.random (4 * par c.params 0 2))) fun m => m.freeCtr = s.m.freeCtr + 4 * par c.params 0 2 ∧ Only [.freeCtr] [] (begun s h seq) m)

/-- O50. For every state with a canonical register file in which the command is in flight, its turn has come and its role may issue it: OP_MET_READ of channels inside a set and the session's map answers MET_BLOCK and the words of the set and changes nothing; OP_MET_INTERVALS of 1 to 21 records answers records of that channel from FROM on; their wrong channels and counts are ST_BAD_PARAM with the offset, a channel outside the map ST_ACCESS_DENIED. OP_LOOP_READ answers the loop's 16 registers. OP_LOOP_MODE sets REQ, above 3 ST_BAD_PARAM. OP_LOOP_TUNE writes one named register or, where R182's check fails, leaves all and records EV_LOOP_PARAM. OP_LOOP_TEST sets a generator up and requests its start. OP_MET_CAPTURE and OP_LOOP_TEST_READ answer their registers and the records there are of their window, where its tiles are sound. (R182, R193, R195, R196, R215, R226, R227, R230, R349) -/
def Obligations.MeteringAndLoopCommandsReadAndSet : Prop :=
  ∀ (s : State) (h : BitVec 10) (seq : BitVec 32) (x : Sess) (c : Cmd) (i : Fin 8),
    let fst := par c.params 0 1
    let num := par c.params 1 1
    let chosen := par c.params 2 1
    let top := if par c.params 2 1 = 2 then 102 else 96
    let lp := par c.params 0 1
    let mayTune := (s.m.pdPh 7 = .on ∧ (x.role = .service ∨ x.role = .operator) ∧ s.m.sess (s.m.sessKey h.toNat) = some x)
    let word := BitVec.ofNat 32 (par c.params (4 + 4 * i.val) 4)
    let reg := 0x10 + 4 * i.val
    let cw := (s.m.get F.MET_CAP_CTRL_CBW)
    let cix := (winIdx s.m (s.m.get F.MET_CAP_CTRL_CBW) (s.m.met.capture.getD (s.m.get (F.CBW_LENGTH_LENGTH (s.m.get F.MET_CAP_CTRL_CBW)))) (par c.params 0 4) (par c.params 4 2))
    let tw := (s.m.get (F.LOOPTEST_CTRL_CBW (par c.params 0 1)))
    let tix := (winIdx s.m (s.m.get (F.LOOPTEST_CTRL_CBW (par c.params 0 1))) (s.m.get (F.LOOPTEST_STATUS_K (par c.params 0 1))) (par c.params 4 4) (par c.params 8 2))
    regsWf s.m.regs = true →
    (Ready s h seq 0x0400 x c → s.m.planLoaded = true → chosen ≤ 2 → ((chosen = 2 → 96 ≤ fst)) → 1 ≤ num → num ≤ [18, 31, 6].getD chosen 0 → fst + num ≤ top → (List.range num).all (fun j => s.m.meterOk x (fst + j)) = true → Executes (.opMetRead h seq) s h c (.ok (leBytes 4 (s.m.word R.MET_BLOCK).toNat ++ (List.range num).flatMap (fun j => (metSet chosen (fst + j)).flatMap (fun a => leBytes 4 (s.m.word a).toNat)))) fun m => Only [] [] (begun s h seq) m) ∧
    (Ready s h seq 0x0400 x c → s.m.planLoaded = true → 2 < chosen → Executes (.opMetRead h seq) s h c (.fail 2 2) fun m => Only [] [] (begun s h seq) m) ∧
    (Ready s h seq 0x0400 x c → s.m.planLoaded = true → chosen ≤ 2 → ((top ≤ fst ∨ (chosen = 2 ∧ fst < 96))) → Executes (.opMetRead h seq) s h c (.fail 2 0) fun m => Only [] [] (begun s h seq) m) ∧
    (Ready s h seq 0x0400 x c → s.m.planLoaded = true → chosen ≤ 2 → fst < top → ((chosen = 2 → 96 ≤ fst)) → ((num = 0 ∨ [18, 31, 6].getD chosen 0 < num ∨ top < fst + num)) → Executes (.opMetRead h seq) s h c (.fail 2 1) fun m => Only [] [] (begun s h seq) m) ∧
    (Ready s h seq 0x0400 x c → s.m.planLoaded = true → chosen ≤ 2 → ((chosen = 2 → 96 ≤ fst)) → 1 ≤ num → num ≤ [18, 31, 6].getD chosen 0 → fst + num ≤ top → s.m.meterOk x fst = false → Executes (.opMetRead h seq) s h c (.fail 6 0) fun m => Only [] [] (begun s h seq) m) ∧
    (Ready s h seq 0x0401 x c → s.m.planLoaded = true → fst < 96 → 1 ≤ par c.params 2 2 → par c.params 2 2 ≤ 21 → s.m.meterOk x fst = true → Executes (.opMetIntervals h seq) s h c (.ok ((((s.m.logs.intervals ++ s.m.logs.wabIntervals).filter (fun r => r.channel == fst && decide (par c.params 4 8 ≤ r.num))).foldl (fun l r => intInsert r l) []).take (par c.params 2 2) |>.flatMap IntRec.bytes)) fun m => Only [] [] (begun s h seq) m) ∧
    (Ready s h seq 0x0401 x c → s.m.planLoaded = true → 96 ≤ fst → Executes (.opMetIntervals h seq) s h c (.fail 2 0) fun m => Only [] [] (begun s h seq) m) ∧
    (Ready s h seq 0x0401 x c → s.m.planLoaded = true → fst < 96 → ((par c.params 2 2 = 0 ∨ 21 < par c.params 2 2)) → Executes (.opMetIntervals h seq) s h c (.fail 2 2) fun m => Only [] [] (begun s h seq) m) ∧
    (Ready s h seq 0x0401 x c → s.m.planLoaded = true → fst < 96 → 1 ≤ par c.params 2 2 → par c.params 2 2 ≤ 21 → s.m.meterOk x fst = false → Executes (.opMetIntervals h seq) s h c (.fail 6 0) fun m => Only [] [] (begun s h seq) m) ∧
    (Ready s h seq 0x0402 x c → bitAt 12 x.roleBit = true → s.m.planLoaded = true → ((par c.params 4 2 = 0 ∨ 170 < par c.params 4 2)) → Executes (.opMetCapture h seq) s h c (.fail 2 4) fun m => Only [] [] (begun s h seq) m) ∧
    (Ready s h seq 0x0402 x c → bitAt 12 x.roleBit = true → s.m.planLoaded = true → 1 ≤ par c.params 4 2 → par c.params 4 2 ≤ 170 → winSound s.m cw cix = true → Executes (.opMetCapture h seq) s h c (.ok (leBytes 4 (s.m.word R.MET_CAP_CTRL).toNat ++ cix.flatMap (winBytes s.m cw))) fun m => Only [] [] (begun s h seq) m) ∧
    (Ready s h seq 0x0500 x c → bitAt 12 x.roleBit = true → Executes (.opLoopRead h seq) s h c (.ok ((List.range 16).flatMap (fun j => leBytes 4 (s.m.peek x (R.LOOP_CFG lp + 4 * j)).toNat))) fun m => Only [] [] (begun s h seq) m) ∧
    (Ready s h seq 0x0501 x c → bitAt 12 x.roleBit = true → par c.params 1 1 ≤ 3 → mayTune → s.m.mayWrite (s.m.sessKey h.toNat) (R.LOOP_MODE lp) = true → Executes (.opLoopMode h seq) s h c (.ok []) fun m => m.get (F.LOOP_MODE_REQ lp) = par c.params 1 1 ∧ Only [] [F.LOOP_MODE_REQ lp] (begun s h seq) m) ∧
    (Ready s h seq 0x0501 x c → bitAt 12 x.roleBit = true → 3 < par c.params 1 1 → Executes (.opLoopMode h seq) s h c (.fail 2 1) fun m => Only [] [] (begun s h seq) m) ∧
    (Ready s h seq 0x0502 x c → bitAt 12 x.roleBit = true → par c.params 2 2 = 2 ^ i.val → mayTune → s.m.mayWrite (s.m.sessKey h.toNat) (R.LOOP_MODE lp) = true → ¬ TuneBad s.m lp (4 + i.val) word → Executes (.opLoopTune h seq) s h c (.ok []) fun m => m.word (R.LOOP_CFG lp + reg) = (if i = 3 then word &&& 0x00FFFFFF else word) ∧ Only [] [whole (R.LOOP_CFG lp + reg)] (begun s h seq) m) ∧
    (Ready s h seq 0x0502 x c → bitAt 12 x.roleBit = true → par c.params 2 2 = 2 ^ i.val → mayTune → s.m.mayWrite (s.m.sessKey h.toNat) (R.LOOP_MODE lp) = true → TuneBad s.m lp (4 + i.val) word → Executes (.opLoopTune h seq) s h c (.ok []) fun m => Logs (begun s h seq) m .loopParam lp [] ∧ Only [.logs] [F.LOG_STATUS_WAB_FULL] (begun s h seq) m) ∧
    (Ready s h seq 0x0503 x c → bitAt 12 x.roleBit = true → 3 < par c.params 0 1 → Executes (.opLoopTest h seq) s h c (.fail 2 0) fun m => Only [] [] (begun s h seq) m) ∧
    (Ready s h seq 0x0504 x c → bitAt 12 x.roleBit = true → 3 < par c.params 0 1 → Executes (.opLoopTestRead h seq) s h c (.fail 2 0) fun m => Only [] [] (begun s h seq) m) ∧
    (Ready s h seq 0x0504 x c → bitAt 12 x.roleBit = true → par c.params 0 1 ≤ 3 → 40 < par c.params 8 2 → Executes (.opLoopTestRead h seq) s h c (.fail 2 8) fun m => Only [] [] (begun s h seq) m) ∧
    (Ready s h seq 0x0504 x c → bitAt 12 x.roleBit = true → par c.params 0 1 ≤ 3 → par c.params 8 2 ≤ 40 → winSound s.m tw tix = true → Executes (.opLoopTestRead h seq) s h c (.ok ((List.range 5).flatMap (fun j => leBytes 4 (s.m.peek x (R.LOOPTEST_STATUS lp + 4 * j)).toNat) ++ tix.flatMap (winBytes s.m tw))) fun m => Only [] [] (begun s h seq) m) ∧
    (Ready s h seq 0x0503 x c → bitAt 12 x.roleBit = true → par c.params 0 1 ≤ 3 → bitAt (par c.params 4 4) 12 = false → mayTune → s.m.mayWrite (s.m.sessKey h.toNat) (R.LOOP_MODE lp) = true → Executes (.opLoopTest h seq) s h c (.ok (leBytes 4 (s.m.peek x (R.LOOPTEST_STATUS lp)).toNat)) fun m => m.word (R.LOOPTEST_CTRL lp) = ((s.m.word (R.LOOPTEST_CTRL lp) &&& ~~~0x7FF) ||| (BitVec.ofNat 32 (par c.params 4 4) &&& 0x7FF)) ∧ (∀ j : Fin 6, m.word (R.LOOPTEST_AMP lp + 4 * j.val) = regAfter s.m (R.LOOPTEST_AMP lp + 4 * j.val) (BitVec.ofNat 32 (par c.params (8 + 4 * j.val) 4))) ∧ m.tests = s.m.tests.set (Fin.ofNat 4 lp) { s.m.tests[Fin.ofNat 4 lp] with start := true } ∧ Only [.tests] [whole (R.LOOPTEST_CTRL lp), whole (R.LOOPTEST_AMP lp), whole (R.LOOPTEST_AMP lp + 4), whole (R.LOOPTEST_AMP lp + 8), whole (R.LOOPTEST_AMP lp + 12), whole (R.LOOPTEST_AMP lp + 16), whole (R.LOOPTEST_AMP lp + 20)] (begun s h seq) m) ∧
    (Ready s h seq 0x0502 x c → bitAt 12 x.roleBit = true → Executes (.opLoopTune h seq) s h c (.ok []) fun m => (∀ j : Fin 8, bitAt (par c.params 2 2) j.val = false → m.word (R.LOOP_KP lp + 4 * j.val) = s.m.word (R.LOOP_KP lp + 4 * j.val)) ∧ Only [.logs] [F.LOG_STATUS_WAB_FULL, whole (R.LOOP_KP lp), whole (R.LOOP_KP lp + 4), whole (R.LOOP_KP lp + 8), whole (R.LOOP_KP lp + 12), whole (R.LOOP_KP lp + 16), whole (R.LOOP_KP lp + 20), whole (R.LOOP_KP lp + 24), whole (R.LOOP_KP lp + 28)] (begun s h seq) m)

/-- O51. For every state with a canonical register file in which the command is in flight, its turn has come and its role may issue it: OP_LOG_AREAS answers each area the session may read with its flags, FIRST and LAST; OP_LOG_READ of 1 to 42 records of such an area answers those from FROM on, another area or count is ST_BAD_PARAM, an area outside the map ST_ACCESS_DENIED; neither changes anything. OP_TIME_GET answers building time, TIME_STATUS, TIME_UTC and TIME_HOLD. OP_TIME_SET in FREE or EXTERNAL makes the step at once in BOOT, or in BIT or PLANNING with no plan loaded, else leaves it pending for the swap window, or slews with STEP_EN 0; in another sync state it is ST_BAD_STATE, beyond what building time holds ST_BAD_PARAM. OP_RTC_GET answers the group as one instant (its sub-second has counted on by a free number within the second, log entry 2) and ends the freeze. OP_RTC_SET takes a possible date over where the crystal runs, else at its next edge, refuses another with its field and BAD_DATE set, and stages both. (R156, R171, R337, R349, R417, R421, R423, R424, R432) -/
def Obligations.LogTimeAndCalendarCommandsReadAndSet : Prop :=
  ∀ (s : State) (h : BitVec 10) (seq : BitVec 32) (x : Sess) (c : Cmd) (a : Fin 16) (sh : Shadow) (fld : Nat),
    let cal := (⟨par c.params 0 2, par c.params 2 1, par c.params 3 1, par c.params 4 1, par c.params 5 1, par c.params 6 1⟩ : Cal)
    let now := s.m.rtcCount.rtc.sub
    let sec := (par c.params 0 8)
    let step := (((par c.params 0 8 : Int) - ((s.m.clk.ns / 1000000000 + 1 : Nat) : Int)) * 1000000000)
    let free := (s.m.get F.TIME_STATUS_STATE = syExt ∨ s.m.get F.TIME_STATUS_STATE = syFree)
    regsWf s.m.regs = true →
    (Ready s h seq 0x0600 x c → s.m.planLoaded = true → Executes (.opLogAreas h seq) s h c (.ok (((List.finRange 16).filter (fun a => s.m.mayReadLog x a.val)).flatMap (fun (a : Fin 16) => leBytes 1 a.val ++ leBytes 1 (areaKind a.val + 4 * b2n s.m.logs.areas[a].flood) ++ leBytes 4 (s.m.logs.first a) ++ leBytes 4 (s.m.logs.last a)))) fun m => Only [] [] (begun s h seq) m) ∧
    (Ready s h seq 0x0601 x c → s.m.planLoaded = true → par c.params 0 1 = a.val → 1 ≤ par c.params 2 2 → par c.params 2 2 ≤ 42 → s.m.mayReadLog x a.val = true → Executes (.opLogRead h seq) s h c (.ok (leBytes 4 (s.m.logs.first a) ++ leBytes 4 (s.m.logs.last a) ++ (((s.m.logs.records a).filter (fun r => decide (par c.params 4 4 ≤ r.seq))).take (par c.params 2 2)).flatMap Rec.bytes)) fun m => Only [] [] (begun s h seq) m) ∧
    (Ready s h seq 0x0601 x c → s.m.planLoaded = true → 16 ≤ par c.params 0 1 → Executes (.opLogRead h seq) s h c (.fail 2 0) fun m => Only [] [] (begun s h seq) m) ∧
    (Ready s h seq 0x0601 x c → s.m.planLoaded = true → par c.params 0 1 < 16 → ((par c.params 2 2 = 0 ∨ 42 < par c.params 2 2)) → Executes (.opLogRead h seq) s h c (.fail 2 2) fun m => Only [] [] (begun s h seq) m) ∧
    (Ready s h seq 0x0601 x c → s.m.planLoaded = true → par c.params 0 1 < 16 → 1 ≤ par c.params 2 2 → par c.params 2 2 ≤ 42 → s.m.mayReadLog x (par c.params 0 1) = false → Executes (.opLogRead h seq) s h c (.fail 6 0) fun m => Only [] [] (begun s h seq) m) ∧
    (Ready s h seq 0x0700 x c → Executes (.opTimeGet h seq) s h c (.ok (leBytes 8 s.m.clk.ns ++ leBytes 4 (s.m.word R.TIME_STATUS).toNat ++ leBytes 4 (s.m.word R.TIME_UTC).toNat ++ leBytes 4 s.m.holdWord)) fun m => Only [] [] (begun s h seq) m) ∧
    (Ready s h seq 0x0701 x c → bitAt 12 x.roleBit = true → free → sec * 1000000000 < 2 ^ 64 → s.m.stepAtOnce = true → Executes (.opTimeSet h seq) s h c (.ok []) fun m => m.clk.ns = ofInt 64 (s.m.clk.ns + (s.m.clk.frac / 2 ^ 32 : Nat) + step) ∧ m.clk = { s.m.clk with ns := m.clk.ns, frac := s.m.clk.frac % 2 ^ 32, stepPending := none } ∧ m.get F.TIME_EVENTS_STEPS = min (s.m.get F.TIME_EVENTS_STEPS + 1) 0xFFFF ∧ m.flag F.TIME_STATUS_STEP_PENDING = false ∧ m.met = { s.m.met with stepped := true } ∧ Logs s.m m .timeStep 0 (leBytes 8 (ofInt 64 step)) ∧ Only [.clk, .met, .logs] [F.TIME_EVENTS_STEPS, F.TIME_STATUS_STEP_PENDING, F.LOG_STATUS_WAB_FULL] (begun s h seq) m) ∧
    (Ready s h seq 0x0701 x c → bitAt 12 x.roleBit = true → free → sec * 1000000000 < 2 ^ 64 → s.m.stepAtOnce = false → s.m.flag F.TIME_CFG_STEP_EN = true → Executes (.opTimeSet h seq) s h c (.ok []) fun m => m.clk = { s.m.clk with stepPending := some (32 * step) } ∧ m.flag F.TIME_STATUS_STEP_PENDING = true ∧ Only [.clk] [F.TIME_STATUS_STEP_PENDING] (begun s h seq) m) ∧
    (Ready s h seq 0x0701 x c → bitAt 12 x.roleBit = true → free → sec * 1000000000 < 2 ^ 64 → s.m.stepAtOnce = false → s.m.flag F.TIME_CFG_STEP_EN = false → Executes (.opTimeSet h seq) s h c (.ok []) fun m => m.flag F.TIME_STATUS_SLEWING = true ∧ Only [] [F.TIME_STATUS_SLEWING] (begun s h seq) m) ∧
    (Ready s h seq 0x0701 x c → bitAt 12 x.roleBit = true → free → 2 ^ 64 ≤ sec * 1000000000 → Executes (.opTimeSet h seq) s h c (.fail 2 0) fun m => Only [] [] (begun s h seq) m) ∧
    (Ready s h seq 0x0701 x c → bitAt 12 x.roleBit = true → s.m.get F.TIME_STATUS_STATE ≠ syExt → s.m.get F.TIME_STATUS_STATE ≠ syFree → Executes (.opTimeSet h seq) s h c (s.m.badState.2) fun m => Only [] [] (begun s h seq) m) ∧
    (Ready s h seq 0x0702 x c → (s.m.rtc.shadow = none ∨ s.m.freezeOver = true) → Executes (.opRtcGet h seq) s h c (.ok (leBytes 2 s.m.rtc.cal.year ++ leBytes 1 s.m.rtc.cal.month ++ leBytes 1 s.m.rtc.cal.day ++ leBytes 1 s.m.rtc.cal.hour ++ leBytes 1 s.m.rtc.cal.min ++ leBytes 1 s.m.rtc.cal.sec ++ leBytes 1 s.m.rtc.wday ++ leBytes 1 now ++ leBytes 4 (((if s.m.rtc.timedOut || s.m.freezeOver then s.m.set F.RTC_STATUS_SHADOW_TO 1 else s.m).set F.RTC_STATUS_FROZEN 0).word R.RTC_STATUS).toNat)) fun m => m.flag F.RTC_STATUS_FROZEN = false ∧ m.flag F.RTC_STATUS_SHADOW_TO = (s.m.rtc.timedOut || s.m.freezeOver || s.m.flag F.RTC_STATUS_SHADOW_TO) ∧ m.rtc = { s.m.rtc with sub := now, shadow := none, timedOut := false } ∧ Only [.rtc, .freeCtr] [F.RTC_STATUS_FROZEN, F.RTC_STATUS_SHADOW_TO] (begun s h seq) m) ∧
    (Ready s h seq 0x0702 x c → s.m.rtc.shadow = some sh → s.m.freezeOver = false → Executes (.opRtcGet h seq) s h c (.ok (leBytes 2 sh.cal.year ++ leBytes 1 sh.cal.month ++ leBytes 1 sh.cal.day ++ leBytes 1 sh.cal.hour ++ leBytes 1 sh.cal.min ++ leBytes 1 sh.cal.sec ++ leBytes 1 sh.wday ++ leBytes 1 sh.sub ++ leBytes 4 ((s.m.set F.RTC_STATUS_FROZEN 0).word R.RTC_STATUS).toNat)) fun m => m.flag F.RTC_STATUS_FROZEN = false ∧ m.rtc = { s.m.rtc with shadow := none } ∧ Only [.rtc] [F.RTC_STATUS_FROZEN] (begun s h seq) m) ∧
    (Ready s h seq 0x0703 x c → bitAt 12 x.roleBit = true → cal.bad = none → s.m.rtc.run = true → Executes (.opRtcSet h seq) s h c (.ok []) fun m => StagedDate m cal ∧ m.rtc = { s.m.rtc with cal := cal, wday := weekday cal, sub := 0, waits := none } ∧ m.flag F.RTC_STATUS_OSC_STOPPED = false ∧ m.flag F.RTC_STATUS_BAD_DATE = false ∧ Only [.rtc] ([F.RTC_STATUS_OSC_STOPPED, F.RTC_STATUS_BAD_DATE] ++ stagingRegs) (begun s h seq) m) ∧
    (Ready s h seq 0x0703 x c → bitAt 12 x.roleBit = true → cal.bad = none → s.m.rtc.run = false → Executes (.opRtcSet h seq) s h c (.ok []) fun m => StagedDate m cal ∧ m.rtc = { s.m.rtc with waits := some cal } ∧ Only [.rtc] stagingRegs (begun s h seq) m) ∧
    (Ready s h seq 0x0703 x c → bitAt 12 x.roleBit = true → cal.bad = some fld → Executes (.opRtcSet h seq) s h c (.fail 0x70 fld) fun m => StagedDate m cal ∧ m.flag F.RTC_STATUS_BAD_DATE = true ∧ Only [] ([F.RTC_STATUS_BAD_DATE] ++ stagingRegs) (begun s h seq) m)

/-- O52. For every state with a canonical register file: OP_UPD_BEGIN of a length that fits empties the bank the module does not run (in RECOVERY the one R458 names), queues the erasing and enters STAGE 1; a block that fits is stored and held until read back, another is ST_XFER with its offset; OP_UPD_END of a complete transfer with its digest enters STAGE 2, with a gap ST_XFER, with another digest ST_CRC. UPD_VERIFY_COMPLETE enters STAGE 6 with the failed step's RESULT and EV_UPD_REJECTED, a wrong form as step 1, an unknown signer as step 2, or stores the image as valid in the bank and enters STAGE 4 with EV_UPD_VERIFIED. OP_UPD_ACTIVATE enters STAGE 5 from STAGE 4 only, with a twin mode only when the peer verified too; UPD_ACTIVATION, 100 ms later and in a twin mode at a whole second, gives the bank the next ACT_SEQ and a hard restart, before that nothing. OP_UPD_STATUS answers the stage. FW_CONFIRM confirms an image on trial after 60 s of proven operation, and nothing else. (R113, R347, R448, R451, R452, R453, R455, R458, R462) -/
def Obligations.FirmwareTransfersVerifyActivateAndConfirm : Prop :=
  ∀ (s : State) (h : BitVec 10) (seq : BitVec 32) (x : Sess) (c : Cmd) (y : Xfer) (g : Nat) (n : Nat) (pages : Bool) (header : Bool),
    let tgt := updTarget s.m
    let off := par c.params 0 4
    let room := (if s.m.st = xRecovery then 12582912 else 4194304)
    let whole_ := (s.m.get F.KEY_FW_STATUS_STAGE = 1 ∧ s.m.orpor.upd = some y ∧ y.gap = none)
    let run := s.m.runBank
    let bank := s.m.key.banks[s.m.runBank]
    regsWf s.m.regs = true →
    (Ready s h seq 0x0800 x c → bitAt 12 x.roleBit = true → off ≤ room → Executes (.opUpdBegin h seq) s h c (.ok []) fun m => m.get F.KEY_FW_STATUS_STAGE = 1 ∧ m.get F.KEY_FW_STATUS_PROGRESS = 0 ∧ m.orpor.upd = some { len := off, digest := c.params.drop 4 } ∧ m.key.banks[tgt] = {} ∧ m.key = { s.m.key with banks := m.key.banks, target := m.key.target, activating := false } ∧ m.key.banks[otherBank tgt] = s.m.key.banks[otherBank tgt] ∧ m.nvm = { s.m.nvm with jobs := m.nvm.jobs } ∧ (∀ k : Fin 4096, (k.val = 0 ∨ 3072 ≤ k.val) → FlashJob.erase (bankSector tgt + k.val) ∈ m.nvm.jobs) ∧ Only [.key, .nvm, .orpor] fwRegs (begun s h seq) m) ∧
    (Ready s h seq 0x0800 x c → bitAt 12 x.roleBit = true → room < off → Executes (.opUpdBegin h seq) s h c (.fail 2 0) fun m => Only [] [] (begun s h seq) m) ∧
    (Ready s h seq 0x0801 x c → bitAt 12 x.roleBit = true → s.m.get F.KEY_FW_STATUS_STAGE = 1 → xferBlock s.m.orpor.upd off (c.params.drop 4) = some y → Executes (.opUpdBlock h seq) s h c (.hold []) fun m => m.orpor.upd = some y ∧ m.get F.KEY_FW_STATUS_PROGRESS = y.got.length * 100 / max 1 y.len % 2 ^ F.KEY_FW_STATUS_PROGRESS.width ∧ m.nvm = { s.m.nvm with jobs := m.nvm.jobs } ∧ Only [.nvm, .orpor] [F.KEY_FW_STATUS_PROGRESS] (begun s h seq) m) ∧
    (Ready s h seq 0x0801 x c → bitAt 12 x.roleBit = true → ((s.m.get F.KEY_FW_STATUS_STAGE ≠ 1 ∨ xferBlock s.m.orpor.upd off (c.params.drop 4) = none)) → Executes (.opUpdBlock h seq) s h c (.fail 0x20 off) fun m => Only [] [] (begun s h seq) m) ∧
    (Ready s h seq 0x0802 x c → bitAt 12 x.roleBit = true → whole_ → Executes (.opUpdEnd h seq) s h c (if bytes32 (Config.sha256 y.bytes) ≠ y.digest then .fail 0x21 0 else if s.m.st = xRecovery ∧ hdrFormat y.bytes = 2 then .fail 2 0 else .ok []) fun m => (bytes32 (Config.sha256 y.bytes) = y.digest → ¬ (s.m.st = xRecovery ∧ hdrFormat y.bytes = 2) → m.get F.KEY_FW_STATUS_STAGE = 2 ∧ m.get F.KEY_FW_STATUS_PROGRESS = 0) ∧ (bytes32 (Config.sha256 y.bytes) ≠ y.digest → m.get F.KEY_FW_STATUS_STAGE = 1) ∧ Only [] [F.KEY_FW_STATUS_STAGE, F.KEY_FW_STATUS_PROGRESS] (begun s h seq) m) ∧
    (Ready s h seq 0x0802 x c → bitAt 12 x.roleBit = true → s.m.get F.KEY_FW_STATUS_STAGE = 1 → s.m.orpor.upd = some y → y.gap = some g → Executes (.opUpdEnd h seq) s h c (.fail 0x20 g) fun m => Only [] [] (begun s h seq) m) ∧
    (Ready s h seq 0x0802 x c → bitAt 12 x.roleBit = true → ((s.m.get F.KEY_FW_STATUS_STAGE ≠ 1 ∨ s.m.orpor.upd = none)) → Executes (.opUpdEnd h seq) s h c (.fail 0x20 0) fun m => Only [] [] (begun s h seq) m) ∧
    (s.m.get F.KEY_FW_STATUS_STAGE = 2 → s.m.orpor.upd = some y → Does (.updVerifyComplete pages header) s fun m => m.orpor = { s.m.orpor with upd := none } ∧ (hdrFormOk (y.bytes.take 320) = false → m.get F.KEY_FW_STATUS_STAGE = 6 ∧ m.get F.KEY_FW_STATUS_RESULT = 0x60 ∧ Logs s.m m .updRejected s.m.updBank.val (leBytes 1 1 ++ leBytes 2 0x60)) ∧ (hdrFormOk (y.bytes.take 320) = true → hdrNum (y.bytes.take 320) 80 4 + 4096 = y.bytes.length → hdrFormat (y.bytes.take 320) = 2 → s.m.hdrSigned (y.bytes.take 320) = false → m.get F.KEY_FW_STATUS_STAGE = 6 ∧ m.get F.KEY_FW_STATUS_RESULT = 0x61) ∧ ((s.m.updCheck y.bytes pages header).getLeft?.all (fun e => decide (m.get F.KEY_FW_STATUS_STAGE = 6 ∧ m.get F.KEY_FW_STATUS_RESULT = e.2 % 65536 ∧ m.key = s.m.key ∧ Logs s.m m .updRejected s.m.updBank.val (leBytes 1 e.1 ++ leBytes 2 e.2))) = true) ∧ ((s.m.updCheck y.bytes pages header).getRight?.all (fun img => decide (m.get F.KEY_FW_STATUS_STAGE = 4 ∧ m.get F.KEY_FW_STATUS_PROGRESS = 100 ∧ m.key = { s.m.key with banks := s.m.key.banks.set s.m.updBank { valid := true, header := y.bytes.take 320, image := img } } ∧ Logs s.m m .updVerified s.m.updBank.val (leBytes 4 (hdrVersion y.bytes)))) = true) ∧ Only [.key, .orpor, .logs] ([F.LOG_STATUS_WAB_FULL] ++ fwRegs) s.m m) ∧
    (((s.m.get F.KEY_FW_STATUS_STAGE ≠ 2 ∨ s.m.orpor.upd = none)) → exec (.updVerifyComplete pages header) s = .next s) ∧
    (Ready s h seq 0x0803 x c → bitAt 12 x.roleBit = true → s.m.get F.KEY_FW_STATUS_STAGE = 4 → ((s.m.get F.TWIN_STATUS_MODE = 0 ∨ s.m.key.peerVerified = true)) → Executes (.opUpdActivate h seq) s h c (.ok []) fun m => m.key = { s.m.key with activating := true, actAt := s.m.clk.mono } ∧ m.get F.KEY_FW_STATUS_STAGE = 5 ∧ Only [.key] [F.KEY_FW_STATUS_STAGE] (begun s h seq) m) ∧
    (Ready s h seq 0x0803 x c → bitAt 12 x.roleBit = true → ((s.m.get F.KEY_FW_STATUS_STAGE ≠ 4 ∨ (s.m.get F.TWIN_STATUS_MODE ≠ 0 ∧ s.m.key.peerVerified = false))) → Executes (.opUpdActivate h seq) s h c (.fail 0x63 0) fun m => Only [] [] (begun s h seq) m) ∧
    (s.m.key.activating = true → s.m.actDue = true → s.m.pwr.saving = false → Does .updActivation s fun m => m.key.banks = s.m.key.banks.set s.m.updBank { s.m.key.banks[s.m.updBank] with act := some ((s.m.key.banks[otherBank s.m.updBank].act).getD 0 + 1) } ∧ HardRestarts s.m m 5 ∧ Within hardParts (hardRanges) s.m m) ∧
    (s.m.key.activating = false → exec .updActivation s = .next s) ∧
    (s.m.key.activating = true → s.m.clk.run = true → s.m.clk.mono < s.m.key.actAt + 2500000 → exec .updActivation s = .next s) ∧
    (s.m.key.activating = true → s.m.clk.run = true → s.m.get F.TWIN_STATUS_MODE ≠ 0 → s.m.clk.ns % 1000000000 ≠ 0 → exec .updActivation s = .next s) ∧
    (Ready s h seq 0x0804 x c → bitAt 12 x.roleBit = true → Executes (.opUpdStatus h seq) s h c (.ok (leBytes 1 (s.m.get F.KEY_FW_STATUS_STAGE) ++ leBytes 1 (s.m.get F.KEY_FW_STATUS_PROGRESS) ++ leBytes 1 s.m.updBank.val ++ leBytes 1 0 ++ leBytes 2 (s.m.get F.KEY_FW_STATUS_RESULT) ++ leBytes 2 0)) fun m => Only [] [] (begun s h seq) m) ∧
    (xBit ≤ s.m.st → bank.confirmed = false → s.m.key.proven = true → s.m.key.bootAt + 60000 ≤ s.m.optime → Does .fwConfirm s fun m => m.key = { s.m.key with tried := false, banks := s.m.key.banks.set run { bank with confirmed := true } } ∧ m.flag F.KEY_FW_STATUS_CONFIRMED = true ∧ m.get F.KEY_FW_STATUS_STAGE = (if s.m.get F.KEY_FW_STATUS_STAGE = 7 then 0 else s.m.get F.KEY_FW_STATUS_STAGE) ∧ Logs s.m m .fwConfirmed run.val (leBytes 4 (s.m.bankVersion run) ++ leBytes 1 bank.attempts) ∧ Only [.key, .logs] [F.KEY_FW_STATUS_CONFIRMED, F.KEY_FW_STATUS_STAGE, F.LOG_STATUS_WAB_FULL] s.m m) ∧
    (((s.m.st < xBit ∨ bank.confirmed = true ∨ s.m.key.proven = false ∨ s.m.optime < s.m.key.bootAt + 60000)) → exec .fwConfirm s = .next s)

/-- O53. For every state with a canonical register file: OP_KEY_STAGE of a slot the session may replace, with a length the slot allows, stages the key from that operating time with EV_KEY_STAGE, of another slot ST_KEY_SLOT, of another length ST_BAD_PARAM; OP_KEY_VERIFY answers 16 bytes of the HMAC of the challenge under the staged key and marks it verified; OP_KEY_COMMIT of a verified key keeps the slot as it is, hands the key set to the parameter store and holds its reply, of an unverified one ST_NOT_VERIFIED, of none ST_NO_STAGED; OP_KEY_DISCARD and STAGED_KEY_EXPIRY after 3,600 s empty the staging half; OP_KEY_LIST answers all 32 slots. KEY_REMASK_PASS leaves every key and staged key at its value while no share is longer than 32 bytes, and counts. LIFECYCLE_ADVANCE goes one state forward before PRODUCTION, from there with a valid token only, and never back. (R389, R436, R438, R441, R442, R443, R444, R445, R462) -/
def Obligations.KeysAreStagedProvenCommittedAndKept : Prop :=
  ∀ (s : State) (h : BitVec 10) (seq : BitVec 32) (x : Sess) (c : Cmd) (g : Staged) (slot : Fin 8) (signer : List (BitVec 8)) (sig : List (BitVec 8)) (unit : List (BitVec 8)),
    let i := par c.params 0 1
    let len := par c.params 1 1
    let gone := (s.m.setStaged slot.val none)
    let token := ((s.m.keyOf 4 == some (bytes32 (Config.sha256 signer)) || s.m.keyOf 5 == some (bytes32 (Config.sha256 signer))) && unit == unitBytes && Config.ecdsaOk signer (Config.sha256 unit) sig)
    regsWf s.m.regs = true →
    (Ready s h seq 0x0900 x c → bitAt 12 x.roleBit = true → mayReplace x i = true → (s.m.key.slots[(Fin.ofNat 8 i : Fin 8)]).gen ≠ 0xFFFF → keyLenOk i len = true → Executes (.opKeyStage h seq) s h c (.ok []) fun m => StagedIs m i ((c.params.drop 4).take len) s.m.optime false ∧ (∀ j : Fin 8, m.keyOf j = s.m.keyOf j ∧ (j.val ≠ i → m.key.slots[j] = s.m.key.slots[j])) ∧ m.key = { s.m.key with slots := m.key.slots } ∧ m.freeCtr = s.m.freeCtr + len ∧ Logs (begun s h seq) m .keyStage i (leBytes 2 (s.m.sessKey h.toNat)) ∧ Only [.key, .freeCtr, .logs] [F.KEY_STATUS_FACTORY, F.KEY_STATUS_STAGED, F.LOG_STATUS_WAB_FULL] (begun s h seq) m) ∧
    (Ready s h seq 0x0900 x c → bitAt 12 x.roleBit = true → ((mayReplace x i = false ∨ (s.m.key.slots[(Fin.ofNat 8 i : Fin 8)]).gen = 0xFFFF)) → Executes (.opKeyStage h seq) s h c (.fail 0x52 i) fun m => Only [] [] (begun s h seq) m) ∧
    (Ready s h seq 0x0900 x c → bitAt 12 x.roleBit = true → mayReplace x i = true → (s.m.key.slots[(Fin.ofNat 8 i : Fin 8)]).gen ≠ 0xFFFF → keyLenOk i len = false → Executes (.opKeyStage h seq) s h c (.fail 2 1) fun m => Only [] [] (begun s h seq) m) ∧
    (Ready s h seq 0x0901 x c → bitAt 12 x.roleBit = true → s.m.stagedOf i = some g → Executes (.opKeyVerify h seq) s h c (.ok ((bytes32 (Config.hmac g.value (c.params.drop 4))).take 16)) fun m => StagedIs m i g.value g.at_ true ∧ (∀ j : Fin 8, m.keyOf j = s.m.keyOf j ∧ (j.val ≠ i → m.key.slots[j] = s.m.key.slots[j])) ∧ m.key = { s.m.key with slots := m.key.slots } ∧ Only [.key] [F.KEY_STATUS_FACTORY, F.KEY_STATUS_STAGED] (begun s h seq) m) ∧
    (Ready s h seq 0x0901 x c → bitAt 12 x.roleBit = true → s.m.stagedOf i = none → Executes (.opKeyVerify h seq) s h c (.fail 0x50 i) fun m => Only [] [] (begun s h seq) m) ∧
    (Ready s h seq 0x0902 x c → bitAt 12 x.roleBit = true → s.m.stagedOf i = some g → mayReplace x i = true → g.verified = true → Executes (.opKeyCommit h seq) s h c (.hold []) fun m => m.key = { s.m.key with commits := s.m.key.commits ++ [(i, s.m.sessKey h.toNat, g)] } ∧ m.nvm = { s.m.nvm with jobs := m.nvm.jobs } ∧ Only [.key, .nvm] [] (begun s h seq) m) ∧
    (Ready s h seq 0x0902 x c → bitAt 12 x.roleBit = true → s.m.stagedOf i = some g → mayReplace x i = true → g.verified = false → Executes (.opKeyCommit h seq) s h c (.fail 0x51 i) fun m => Only [] [] (begun s h seq) m) ∧
    (Ready s h seq 0x0902 x c → bitAt 12 x.roleBit = true → s.m.stagedOf i = some g → mayReplace x i = false → Executes (.opKeyCommit h seq) s h c (.fail 0x52 i) fun m => Only [] [] (begun s h seq) m) ∧
    (Ready s h seq 0x0902 x c → bitAt 12 x.roleBit = true → s.m.stagedOf i = none → Executes (.opKeyCommit h seq) s h c (.fail 0x50 i) fun m => Only [] [] (begun s h seq) m) ∧
    (Ready s h seq 0x0903 x c → bitAt 12 x.roleBit = true → s.m.stagedOf i = some g → Executes (.opKeyDiscard h seq) s h c (.ok []) fun m => m.stagedOf i = none ∧ (∀ j : Fin 8, m.keyOf j = s.m.keyOf j ∧ (j.val ≠ i → m.key.slots[j] = s.m.key.slots[j])) ∧ m.key = { s.m.key with slots := m.key.slots } ∧ Only [.key] [F.KEY_STATUS_FACTORY, F.KEY_STATUS_STAGED] (begun s h seq) m) ∧
    (Ready s h seq 0x0903 x c → bitAt 12 x.roleBit = true → s.m.stagedOf i = none → Executes (.opKeyDiscard h seq) s h c (.fail 0x50 i) fun m => Only [] [] (begun s h seq) m) ∧
    (Ready s h seq 0x0904 x c → bitAt 12 x.roleBit = true → Executes (.opKeyList h seq) s h c (.ok ((List.range 32).flatMap (fun j => leBytes 1 (s.m.slotState j) ++ leBytes 1 (slotKind j) ++ leBytes 2 (if hj : j < 8 then (s.m.key.slots[(⟨j, hj⟩ : Fin 8)]).gen else 0)))) fun m => Only [] [] (begun s h seq) m) ∧
    (s.m.isOn (swPd 1) = true → sharesShort s.m = true → Does .keyRemaskPass s fun m => (∀ j : Fin 8, m.keyOf j = s.m.keyOf j ∧ (m.stagedOf j.val).map (fun d => (d.value, d.at_, d.verified)) = (s.m.stagedOf j.val).map (fun d => (d.value, d.at_, d.verified)) ∧ (m.key.slots[j]).gen = (s.m.key.slots[j]).gen) ∧ m.key = { s.m.key with slots := m.key.slots } ∧ m.get F.KEY_REMASK_COUNT = (s.m.get F.KEY_REMASK_COUNT + 1) % 2 ^ F.KEY_REMASK_COUNT.width ∧ Only [.key, .freeCtr] [F.KEY_REMASK_COUNT] s.m m) ∧
    (s.m.isOn (swPd 1) = false → exec .keyRemaskPass s = .next s) ∧
    (s.m.stagedOf slot.val = some g → g.at_ + 3600000 ≤ s.m.optime → exec (.stagedKeyExpiry slot) s = .next { s with m := gone }) ∧
    (s.m.stagedOf slot.val = some g → s.m.optime < g.at_ + 3600000 → exec (.stagedKeyExpiry slot) s = .next s) ∧
    (s.m.stagedOf slot.val = none → exec (.stagedKeyExpiry slot) s = .next s) ∧
    (s.m.key.life < 2 → Does (.lifecycleAdvance signer sig unit) s fun m => m.key = { s.m.key with life := s.m.key.life + 1 } ∧ Only [.key] [] s.m m) ∧
    (s.m.key.life = 2 → Does (.lifecycleAdvance signer sig unit) s fun m => (token = false → m = s.m) ∧ (token = true → m.key.life = 3 ∧ (∀ r : Fin 4, m.keyOf ⟨r.val, by omega⟩ = some (m.roleRoot (r.val + 1))) ∧ m.keyOf 4 = s.m.keyOf 4 ∧ m.keyOf 5 = s.m.keyOf 5 ∧ m.keyOf 6 = none ∧ m.keyOf 7 = some m.kStore ∧ m.key = { s.m.key with life := 3, slots := m.key.slots }) ∧ Only [.freeCtr, .key] [F.KEY_STATUS_FACTORY, F.KEY_STATUS_STAGED] s.m m) ∧
    (3 ≤ s.m.key.life → exec (.lifecycleAdvance signer sig unit) s = .next s)

/-- O54. For every state with a canonical register file in which the command is in flight, its turn has come and its role may issue it: OP_SAFE_UNLOCK with the password opens a window of 300 s and clears the failures, another counts one failure and records it, while blocked it is ST_BLOCKED with the seconds left; OP_SAFE_LOCK closes the window; OP_SAFE_PW_SET needs a window and the old password once one is set and hands the verifier over; OP_SAFE_PW_CLEAR runs at the local host port in STOPPED only. OP_SAFE_ACK records itself, withdraws a pair's latch while neither channel reads on, else ST_ACTIVE. OP_SAFE_TEST runs in SERVICE; a failed SO channel faults its pair; with no failure nothing but the session changes. OP_SAFE_LOG_ACK confirms up to UPTO. STOP from RUN enters STOPPED; RESTART answers only in RUN, STOPPED and BIT; BIT and SERVICE are entered from STOPPED; RELEASE goes back. STATE_GET and PWR_STATUS answer registers. (R107, R108, R113, R269, R272, R277, R278, R279, R280, R281, R447, R502) -/
def Obligations.SafetyAndStateCommandsActAsTheirModeAllows : Prop :=
  ∀ (s : State) (h : BitVec 10) (seq : BitVec 32) (x : Sess) (c : Cmd) (on : Bool) (badA : Bool) (badB : Bool) (p : Fin 4) (pl : Plan),
    let k := s.m.sessKey h.toNat
    let len := par c.params 0 1
    let right := (s.m.pwRight (c.params.drop 1))
    let bad := s.m.badState.2
    let o := (begun s h seq)
    let rty := (if len = 2 then s.m.policy 4 else len)
    let new := (c.params.drop (2 + par c.params 0 1))
    let acked := (([F.SAFE_SO_STATUS_FAULT p.val, F.SAFE_SO_STATUS_CAUSE p.val, F.SAFE_SO_STATUS_CHANNEL p.val, F.SAFE_STATUS_SO_FAULT] : List Fld))
    let tst := (([F.LOOPTEST_STATUS_STATE 0, F.LOOPTEST_STATUS_STATE 1, F.LOOPTEST_STATUS_STATE 2, F.LOOPTEST_STATUS_STATE 3, F.LOOPTEST_STATUS_CAUSE 0, F.LOOPTEST_STATUS_CAUSE 1, F.LOOPTEST_STATUS_CAUSE 2, F.LOOPTEST_STATUS_CAUSE 3] ++ (List.range 256).map F.LOOP_MODE_TEST : List Fld))
    regsWf s.m.regs = true →
    (Ready s h seq 0x0A00 x c → bitAt 16 x.roleBit = true → 8 ≤ len → len ≤ 64 → s.m.safe.blocked = false → Executes (.opSafeUnlock h seq) s h c (if right then .ok (leBytes 2 300) else .fail 0x31 (min 5 (s.m.safe.fails + 1))) fun m => (right = true → m.safe = { s.m.safe with fails := 0 } ∧ m.sess k = some { x with unlocked := true, safeAt := s.m.optime } ∧ m.logs = s.m.logs) ∧ (right = false → m.safe.fails = min 5 (s.m.safe.fails + 1) ∧ m.safe.blocked = decide (5 ≤ s.m.safe.fails + 1) ∧ (5 ≤ s.m.safe.fails + 1 → m.safe.blockUntil = s.m.optime + 900000) ∧ Logs o m .safePwFail 0 [] ∧ m.orpor = o.orpor) ∧ Only [.safe, .orpor, .logs] [F.LOG_STATUS_WAB_FULL] (begun s h seq) m) ∧
    (Ready s h seq 0x0A00 x c → bitAt 16 x.roleBit = true → ((len < 8 ∨ 64 < len)) → Executes (.opSafeUnlock h seq) s h c (.fail 2 0) fun m => Only [] [] (begun s h seq) m) ∧
    (Ready s h seq 0x0A00 x c → bitAt 16 x.roleBit = true → 8 ≤ len → len ≤ 64 → s.m.safe.blocked = true → Executes (.opSafeUnlock h seq) s h c (.fail 0x32 s.m.blockLeft) fun m => Only [] [] (begun s h seq) m) ∧
    (Ready s h seq 0x0A01 x c → bitAt 16 x.roleBit = true → Executes (.opSafeLock h seq) s h c (.ok []) fun m => m.sess k = some { x with unlocked := false } ∧ (∀ j : Fin 1024, j.val ≠ s.m.sessKey h.toNat → m.sess j.val = s.m.sess j.val) ∧ Only [.orpor] [] (begun s h seq) m) ∧
    (Ready s h seq 0x0A02 x c → bitAt 16 x.roleBit = true → pwOk new = false → Executes (.opSafePwSet h seq) s h c (.fail 2 (1 + len)) fun m => Only [] [] (begun s h seq) m) ∧
    (Ready s h seq 0x0A02 x c → bitAt 16 x.roleBit = true → pwOk new = true → (s.m.keyOf 6).isSome = true → s.m.isUnlocked k = false → Executes (.opSafePwSet h seq) s h c (.fail 0x30 0) fun m => Only [] [] (begun s h seq) m) ∧
    (Ready s h seq 0x0A02 x c → bitAt 16 x.roleBit = true → pwOk new = true → s.m.keyOf 6 = none → s.m.logs.changeFull = false → Executes (.opSafePwSet h seq) s h c (.hold []) fun m => m.key = s.m.key ∧ m.nvm = ((o).paramPut keySafePw (s.m.pwVerifier new) (some (k, seq.toNat))).nvm ∧ m.logs = ((o).change 4 k 0 0).logs ∧ Only [.nvm, .orpor, .logs] [F.LOG_STATUS_WAB_FULL] (begun s h seq) m) ∧
    (Ready s h seq 0x0A02 x c → bitAt 16 x.roleBit = true → pwOk new = true → (s.m.keyOf 6).isSome = true → s.m.isUnlocked k = true → s.m.logs.changeFull = true → Executes (.opSafePwSet h seq) s h c (.fail 0x33 s.m.logs.unread) fun m => Only [] [] (begun s h seq) m) ∧
    (Ready s h seq 0x0A02 x c → bitAt 16 x.roleBit = true → pwOk new = true → (s.m.keyOf 6).isSome = true → s.m.isUnlocked k = true → s.m.logs.changeFull = false → Executes (.opSafePwSet h seq) s h c (if s.m.pwRight ((c.params.drop 1).take len) then .hold [] else .fail 0x31 (min 5 (s.m.safe.fails + 1))) fun m => m.key = s.m.key ∧ (s.m.pwRight ((c.params.drop 1).take len) = true → m.nvm = ((o).paramPut keySafePw (s.m.pwVerifier new) (some (k, seq.toNat))).nvm ∧ m.logs = ((o).change 4 k 0 0).logs ∧ m.safe = s.m.safe) ∧ (s.m.pwRight ((c.params.drop 1).take len) = false → m.nvm = s.m.nvm ∧ m.safe.fails = min 5 (s.m.safe.fails + 1)) ∧ Only [.nvm, .orpor, .logs, .safe] [F.LOG_STATUS_WAB_FULL] (begun s h seq) m) ∧
    (Ready s h seq 0x0A03 x c → bitAt 8 x.roleBit = true → ((x.transport ≠ 2 ∨ x.viaB = true)) → Executes (.opSafePwClear h seq) s h c (.fail 7 2) fun m => Only [] [] (begun s h seq) m) ∧
    (Ready s h seq 0x0A03 x c → bitAt 8 x.roleBit = true → x.transport = 2 → x.viaB = false → s.m.st ≠ xStopped → Executes (.opSafePwClear h seq) s h c (bad) fun m => Only [] [] (begun s h seq) m) ∧
    (Ready s h seq 0x0A03 x c → bitAt 8 x.roleBit = true → x.transport = 2 → x.viaB = false → s.m.st = xStopped → Executes (.opSafePwClear h seq) s h c (.hold []) fun m => m.key = s.m.key ∧ m.nvm = ((o).paramDel keySafePw (some (k, seq.toNat))).nvm ∧ m.logs = ((o).change 4 k 0 0).logs ∧ Only [.nvm, .logs] [F.LOG_STATUS_WAB_FULL] (begun s h seq) m) ∧
    (Ready s h seq 0x0A04 x c → bitAt 16 x.roleBit = true → len = p.val → (s.m.safe.latch[p]).isSome = true → on = false → Executes (.opSafeAck h seq on) s h c (.ok []) fun m => m.safe.latch = s.m.safe.latch.set p none ∧ (∀ f ∈ acked, f ≠ F.SAFE_STATUS_SO_FAULT → m.get f = 0) ∧ (m.outs[soOut p false]).launched = some .off ∧ (m.outs[soOut p true]).launched = some .off ∧ bitAt (m.outs[soOut p false]).req 4 = false ∧ bitAt (m.outs[soOut p true]).req 4 = false ∧ (∀ i : Fin 48, i ≠ soOut p false → i ≠ soOut p true → m.outs[i] = s.m.outs[i]) ∧ m.flag F.SAFE_STATUS_SO_FAULT = (m.safe.latch.toList.any (·.isSome)) ∧ m.logs = ((o).change 5 k p.val p.val).logs ∧ Only [.outs, .safe, .orpor, .logs] ([F.LOG_STATUS_WAB_FULL] ++ acked) (begun s h seq) m) ∧
    (Ready s h seq 0x0A04 x c → bitAt 16 x.roleBit = true → len = p.val → (s.m.safe.latch[p]).isSome = true → on = true → Executes (.opSafeAck h seq on) s h c (.fail 0x34 p.val) fun m => m.logs = ((o).changeAct 5 k p.val p.val false).logs ∧ Only [.orpor, .logs] [F.LOG_STATUS_WAB_FULL] (begun s h seq) m) ∧
    (Ready s h seq 0x0A04 x c → bitAt 16 x.roleBit = true → len = p.val → s.m.safe.latch[p] = none → Executes (.opSafeAck h seq on) s h c (.ok []) fun m => m.logs = ((o).changeAct 5 k p.val p.val false).logs ∧ Only [.orpor, .logs] [F.LOG_STATUS_WAB_FULL] (begun s h seq) m) ∧
    (Ready s h seq 0x0A04 x c → bitAt 16 x.roleBit = true → 4 ≤ len → Executes (.opSafeAck h seq on) s h c (.fail 2 0) fun m => Only [] [] (begun s h seq) m) ∧
    (Ready s h seq 0x0A05 x c → bitAt 16 x.roleBit = true → len ≤ 11 → s.m.st = xService → badA = false → badB = false → Executes (.opSafeTest h seq badA badB) s h c (.ok [0, 0, 0, 0]) fun m => Only [.orpor] [] (begun s h seq) m) ∧
    (Ready s h seq 0x0A05 x c → bitAt 16 x.roleBit = true → len = 8 + p.val → s.m.st = xService → (badA || badB) = true → s.m.safe.latch[p] = none → Executes (.opSafeTest h seq badA badB) s h c (.ok (leBytes 1 (b2n badA) ++ leBytes 1 (b2n badA) ++ leBytes 1 (b2n badB) ++ leBytes 1 (b2n badB))) fun m => m.safe.latch = s.m.safe.latch.set p (some (1, !badA)) ∧ m.flag (F.SAFE_SO_STATUS_FAULT p.val) = true ∧ bitAt (m.outs[soOut p false]).req 4 = true ∧ bitAt (m.outs[soOut p true]).req 4 = true ∧ Only [.outs, .safe, .logs, .orpor] ([F.LOG_STATUS_WAB_FULL] ++ (pairRegs p)) (begun s h seq) m) ∧
    (Ready s h seq 0x0A05 x c → bitAt 16 x.roleBit = true → len = 8 + p.val → s.m.st = xService → (s.m.safe.latch[p]).isSome = true → Executes (.opSafeTest h seq badA badB) s h c (.ok (leBytes 1 (b2n badA) ++ leBytes 1 (b2n badA) ++ leBytes 1 (b2n badB) ++ leBytes 1 (b2n badB))) fun m => m.safe = { s.m.safe with rbDev := m.safe.rbDev } ∧ Only [.safe, .orpor] [] (begun s h seq) m) ∧
    (Ready s h seq 0x0A05 x c → bitAt 16 x.roleBit = true → len ≤ 7 → s.m.st = xService → (badA || badB) = true → Executes (.opSafeTest h seq badA badB) s h c (.ok (leBytes 1 (b2n badA) ++ [0] ++ leBytes 1 (b2n badB) ++ [0])) fun m => m.flag (F.SAFE_SI_STATUS_TEST_FAULT len) = true ∧ Within [.safe, .logs, .orpor] ([(0x06000, 0x07000), (0x48000, 0x49000)]) (begun s h seq) m) ∧
    (Ready s h seq 0x0A05 x c → bitAt 16 x.roleBit = true → len ≤ 11 → s.m.st ≠ xService → Executes (.opSafeTest h seq badA badB) s h c (bad) fun m => Only [.orpor] [] (begun s h seq) m) ∧
    (Ready s h seq 0x0A05 x c → bitAt 16 x.roleBit = true → 11 < len → Executes (.opSafeTest h seq badA badB) s h c (.fail 2 0) fun m => Only [.orpor] [] (begun s h seq) m) ∧
    (Ready s h seq 0x0A06 x c → bitAt 24 x.roleBit = true → Executes (.opSafeLogAck h seq) s h c (.ok (leBytes 2 ({ s.m.logs with acked := max s.m.logs.acked (min (par c.params 0 4) (s.m.logs.last 4)) } : LogSt).unread)) fun m => m.logs = { s.m.logs with acked := max s.m.logs.acked (min (par c.params 0 4) (s.m.logs.last 4)) } ∧ Only [.orpor, .logs] [] (begun s h seq) m) ∧
    (Ready s h seq 0x0B00 x c → bitAt 12 x.roleBit = true → s.m.st = xRun → s.m.notHolder = false → Executes (.opStateStop h seq) s h c (.ok []) fun m => Stops s.m m ∧ (∀ j : Fin 4, (m.tests[j]).start = false) ∧ Only ([.tests] ++ stopParts) (stopRegs ++ tst) (begun s h seq) m) ∧
    (Ready s h seq 0x0B00 x c → bitAt 12 x.roleBit = true → ((s.m.st ≠ xRun ∨ s.m.notHolder = true)) → Executes (.opStateStop h seq) s h c (bad) fun m => Only [] [] (begun s h seq) m) ∧
    (Ready s h seq 0x0B01 x c → bitAt 12 x.roleBit = true → ((s.m.st = xRun ∨ s.m.st = xStopped ∨ s.m.st = xBit)) → s.m.notHolder = false → len ≤ 2 → s.m.pwr.tcxoBad = true → Executes (.opStateRestart h seq) s h c (.ok []) fun m => m.exec = { s.m.exec with autoAt := none, waitRestart := some (3, rty) } ∧ Only [.exec] [] (begun s h seq) m) ∧
    (Ready s h seq 0x0B01 x c → bitAt 12 x.roleBit = true → ((s.m.st = xRun ∨ s.m.st = xStopped ∨ s.m.st = xBit)) → s.m.notHolder = false → s.m.pwr.tcxoBad = false → len ≤ 2 → rty < 2 → s.m.plan.active = some pl → imageOk pl = true → Executes (.opStateRestart h seq) s h c (.ok []) fun m => m.st = xBit ∧ m.get F.EXEC_STATE_CAUSE = 3 ∧ m.plan.active = some pl ∧ m.plan.armed = none ∧ (rty = 1 → m.get F.EXEC_STATE_RESTART = 2) ∧ (∀ l : Fin 8, (m.lanes[l]).phase = .idle) ∧ Within restartParts (restartRanges [pl]) (begun s h seq) m) ∧
    (Ready s h seq 0x0B01 x c → bitAt 12 x.roleBit = true → ((s.m.st = xRun ∨ s.m.st = xStopped ∨ s.m.st = xBit)) → s.m.notHolder = false → s.m.pwr.tcxoBad = false → len ≤ 2 → rty < 2 → s.m.plan.active = none → Executes (.opStateRestart h seq) s h c (.ok []) fun m => (m.st = if s.m.noPair || s.m.activeSlot.all (fun q => s.m.planUsable q) then xBit else xPlanning) ∧ m.get F.EXEC_STATE_CAUSE = 3 ∧ m.exec.startType = (if s.m.noPair || s.m.activeSlot.isNone then none else some rty) ∧ m.plan.active = none ∧ m.plan.armed = none ∧ Within restartParts (restartRanges []) (begun s h seq) m) ∧
    (Ready s h seq 0x0B01 x c → bitAt 12 x.roleBit = true → ((s.m.st = xRun ∨ s.m.st = xStopped ∨ s.m.st = xBit)) → s.m.notHolder = false → s.m.pwr.tcxoBad = false → len ≤ 2 → rty = 2 → Executes (.opStateRestart h seq) s h c (.ok []) fun m => m.st = xBit ∧ m.get F.EXEC_STATE_CAUSE = 3 ∧ m.get F.EXEC_STATE_RESTART = 3 ∧ m.plan.active = s.m.plan.active ∧ m.plan.armed = none ∧ Within restartParts (restartRanges []) (begun s h seq) m) ∧
    (Ready s h seq 0x0B01 x c → bitAt 12 x.roleBit = true → ((s.m.st = xRun ∨ s.m.st = xStopped ∨ s.m.st = xBit)) → s.m.notHolder = false → 2 < len → Executes (.opStateRestart h seq) s h c (.fail 2 0) fun m => Only [] [] (begun s h seq) m) ∧
    (Ready s h seq 0x0B01 x c → bitAt 12 x.roleBit = true → (((s.m.st ≠ xRun ∧ s.m.st ≠ xStopped ∧ s.m.st ≠ xBit) ∨ s.m.notHolder = true)) → Executes (.opStateRestart h seq) s h c (bad) fun m => Only [] [] (begun s h seq) m) ∧
    (Ready s h seq 0x0B02 x c → bitAt 12 x.roleBit = true → s.m.st = xStopped → Executes (.opStateBit h seq) s h c (.ok []) fun m => m.st = xBit ∧ m.get F.EXEC_STATE_PREV = xStopped ∧ m.exec = { s.m.exec with autoAt := none } ∧ m.bit.inCycle = false ∧ m.bit.pc = 0 ∧ Only [.exec, .outs, .bit, .sw, .pwr, .logs] [F.EXEC_STATE_STATE, F.EXEC_STATE_PREV, F.EXEC_BIT_RUNNING, F.EXEC_BIT_VALID, F.EXEC_BIT_CYCLE, F.EXEC_BIT_WORDS, F.LOG_STATUS_WAB_FULL] (begun s h seq) m) ∧
    (Ready s h seq 0x0B02 x c → bitAt 12 x.roleBit = true → s.m.st ≠ xStopped → Executes (.opStateBit h seq) s h c (bad) fun m => Only [] [] (begun s h seq) m) ∧
    (Ready s h seq 0x0B03 x c → bitAt 8 x.roleBit = true → s.m.st = xStopped → Executes (.opStateService h seq) s h c (.ok []) fun m => m.st = xService ∧ m.get F.EXEC_STATE_PREV = xStopped ∧ m.exec = { s.m.exec with autoAt := none, serviceSession := some k } ∧ Only [.exec] [F.EXEC_STATE_STATE, F.EXEC_STATE_PREV] (begun s h seq) m) ∧
    (Ready s h seq 0x0B03 x c → bitAt 8 x.roleBit = true → s.m.st ≠ xStopped → Executes (.opStateService h seq) s h c (bad) fun m => Only [] [] (begun s h seq) m) ∧
    (Ready s h seq 0x0B04 x c → bitAt 8 x.roleBit = true → s.m.st = xService → Executes (.opStateRelease h seq) s h c (.ok []) fun m => m.st = xStopped ∧ m.get F.EXEC_STATE_PREV = xService ∧ m.exec = { s.m.exec with serviceSession := none } ∧ (∀ i : Fin 48, m.outs[i] = { s.m.outs[i] with test := none }) ∧ Only [.exec, .outs] [F.EXEC_STATE_STATE, F.EXEC_STATE_PREV] (begun s h seq) m) ∧
    (Ready s h seq 0x0B04 x c → bitAt 8 x.roleBit = true → s.m.st ≠ xService → Executes (.opStateRelease h seq) s h c (bad) fun m => Only [] [] (begun s h seq) m) ∧
    (Ready s h seq 0x0B05 x c → Executes (.opStateGet h seq) s h c (.ok (s.m.showRegs x [R.EXEC_STATE, R.TIME_STATUS, R.SAFE_STATUS])) fun m => Only [] [] (begun s h seq) m) ∧
    (Ready s h seq 0x0B06 x c → bitAt 12 x.roleBit = true → Executes (.opPwrStatus h seq) s h c (.ok (s.m.showRegs x ((List.range 16).map (fun i => 0x1000 + 4 * i) ++ (List.range 15).flatMap (fun d => (List.range 5).map (fun i => 0x1100 + 0x20 * d + 4 * i))))) fun m => Only [] [] (begun s h seq) m)

/-- O55. For every state with a canonical register file in which the command is in flight, its turn has come and its role may issue it: OP_TWIN_STATUS answers the pair's registers; OP_TWIN_SWAP by the holder with a ready peer arms the first whole second at least 2 s on, without one sets LAST 2 and is ST_BAD_STATE, outside Shadow LAST 2 and ST_NO_TWIN. OP_BUS_XFER to a port with a reserved window or a modem queues the exchange under the next handle and answers it; OP_BUS_RESULT of the session's own handle answers its state or data, of no such handle ST_BUS_HANDLE; OP_BUS_RECV answers whole items from an absolute index and keeps them. OP_DIAG_OUTPUT from the session that entered SERVICE sets one output's test value and RELEASE takes one or all back, elsewhere ST_BAD_STATE; OP_DIAG_BANKTEST runs in STOPPED and SERVICE, BANK_TEST_COMPLETE ends it, each bad tile a bank fault. OP_DIAG_COUNTERS reads without clearing; OP_DIAG_ECHO gives the data back. (R49, R109, R288, R348, R349, R350, R376, R383, R384) -/
def Obligations.PairBusAndDiagnosticCommandsAnswerAndAct : Prop :=
  ∀ (s : State) (h : BitVec 10) (seq : BitVec 32) (x : Sess) (c : Cmd) (o : Fin 48) (l : List (List Byte)) (regs : List Nat) (b : Fin 8) (d : List Byte) (y : PassX) (bad : BitVec 11),
    let k := s.m.sessKey h.toNat
    let p := par c.params 0 1
    let n := par c.params 0 2
    let v := par c.params 4 4
    let items := (fitItems (par c.params 2 2) (l.drop (par c.params 4 4)))
    let busOk := ((par c.params 0 1 < 19 ∧ s.m.get (F.FBUS_CFG_PASS (par c.params 0 1)) ≠ 0) ∨ (32 ≤ par c.params 0 1 ∧ par c.params 0 1 < 40))
    let mine := ((s.m.ports.pass.filter (fun e => e.handle % 65536 == par c.params 0 2 && e.session == s.m.sessKey h.toNat)).getLast?)
    let testv := (if o.val < 24 then (if par c.params 4 4 = 1 then OutVal.on else .off) else .value (BitVec.ofNat 32 (par c.params 4 4)))
    regsWf s.m.regs = true →
    (Ready s h seq 0x0C00 x c → bitAt 12 x.roleBit = true → Executes (.opTwinStatus h seq) s h c (.ok (s.m.showRegs x [R.TWIN_STATUS, R.TWIN_LINK, R.TWIN_BAR, R.TWIN_TIME, R.TWIN_SWAP, R.TWIN_MIRROR, R.TWIN_COUNTS])) fun m => Only [] [] (begun s h seq) m) ∧
    (Ready s h seq 0x0C01 x c → bitAt 12 x.roleBit = true → s.m.get F.TWIN_STATUS_MODE = 2 → s.m.flag F.TWIN_STATUS_HOLDS_BAR = true → s.m.twin.peerReady = true → Executes (.opTwinSwap h seq) s h c (.ok []) fun m => m.twin = { s.m.twin with swapAt := some ((s.m.clk.ns + 2999999999) / 1000000000) } ∧ Only [.twin] [] (begun s h seq) m) ∧
    (Ready s h seq 0x0C01 x c → bitAt 12 x.roleBit = true → s.m.get F.TWIN_STATUS_MODE = 2 → ((s.m.flag F.TWIN_STATUS_HOLDS_BAR = false ∨ s.m.twin.peerReady = false)) → Executes (.opTwinSwap h seq) s h c (s.m.badState.2) fun m => m.get F.TWIN_SWAP_LAST = 2 ∧ Only [] [F.TWIN_SWAP_LAST] (begun s h seq) m) ∧
    (Ready s h seq 0x0C01 x c → bitAt 12 x.roleBit = true → s.m.get F.TWIN_STATUS_MODE ≠ 2 → Executes (.opTwinSwap h seq) s h c (.fail 0x80 0) fun m => m.get F.TWIN_SWAP_LAST = 2 ∧ Only [] [F.TWIN_SWAP_LAST] (begun s h seq) m) ∧
    (Ready s h seq 0x0D00 x c → bitAt 12 x.roleBit = true → busOk → par c.params 8 2 ≤ 1024 → Executes (.opBusXfer h seq) s h c (.ok (leBytes 2 s.m.ports.handle)) fun m => m.ports.handle = s.m.ports.handle + 1 ∧ ({ handle := s.m.ports.handle, session := k, port := p, station := par c.params 2 2, data := c.params.drop 10 } : PassX) ∈ m.ports.pass ∧ m.ports.port = s.m.ports.port ∧ (∀ e ∈ s.m.ports.pass, e.result = none → e ∈ m.ports.pass) ∧ Only [.ports] [] (begun s h seq) m) ∧
    (Ready s h seq 0x0D00 x c → bitAt 12 x.roleBit = true → p < 19 → s.m.get (F.FBUS_CFG_PASS p) = 0 → par c.params 8 2 ≤ 1024 → Executes (.opBusXfer h seq) s h c (.fail 0x40 p) fun m => Only [] [] (begun s h seq) m) ∧
    (Ready s h seq 0x0D00 x c → bitAt 12 x.roleBit = true → (((19 ≤ p ∧ p < 32) ∨ 40 ≤ p)) → Executes (.opBusXfer h seq) s h c (.fail 2 0) fun m => Only [] [] (begun s h seq) m) ∧
    (Ready s h seq 0x0D00 x c → bitAt 12 x.roleBit = true → ((p < 19 ∨ (32 ≤ p ∧ p < 40))) → 1024 < par c.params 8 2 → Executes (.opBusXfer h seq) s h c (.fail 2 8) fun m => Only [] [] (begun s h seq) m) ∧
    (Ready s h seq 0x0D01 x c → bitAt 12 x.roleBit = true → mine = none → Executes (.opBusResult h seq) s h c (.fail 0x42 n) fun m => Only [] [] (begun s h seq) m) ∧
    (Ready s h seq 0x0D01 x c → bitAt 12 x.roleBit = true → mine = some y → passExpired s.m.optime s.m.ports.pass y = false → y.result = some (some d) → Executes (.opBusResult h seq) s h c (.ok (leBytes 2 0 ++ leBytes 2 d.length ++ d)) fun m => Only [] [] (begun s h seq) m) ∧
    (Ready s h seq 0x0D01 x c → bitAt 12 x.roleBit = true → mine = some y → passExpired s.m.optime s.m.ports.pass y = false → y.result = some none → Executes (.opBusResult h seq) s h c (.ok (leBytes 2 0x43 ++ leBytes 2 0)) fun m => Only [] [] (begun s h seq) m) ∧
    (Ready s h seq 0x0D01 x c → bitAt 12 x.roleBit = true → mine = some y → passExpired s.m.optime s.m.ports.pass y = false → y.result = none → Executes (.opBusResult h seq) s h c (.fail 0x41 n) fun m => Only [] [] (begun s h seq) m) ∧
    (Ready s h seq 0x0D01 x c → bitAt 12 x.roleBit = true → mine = some y → passExpired s.m.optime s.m.ports.pass y = true → Executes (.opBusResult h seq) s h c (.fail 0x42 n) fun m => Only [] [] (begun s h seq) m) ∧
    (Ready s h seq 0x0D02 x c → bitAt 12 x.roleBit = true → s.m.stream p = some l → par c.params 2 2 ≤ 1024 → Executes (.opBusRecv h seq) s h c (.ok (leBytes 4 (min v l.length + items.length) ++ leBytes 4 0 ++ items.flatten)) fun m => Only [] [] (begun s h seq) m) ∧
    (Ready s h seq 0x0D02 x c → bitAt 12 x.roleBit = true → s.m.stream p = some l → 1024 < par c.params 2 2 → Executes (.opBusRecv h seq) s h c (.fail 2 2) fun m => Only [] [] (begun s h seq) m) ∧
    (Ready s h seq 0x0D02 x c → bitAt 12 x.roleBit = true → s.m.stream p = none → Executes (.opBusRecv h seq) s h c (.fail 2 0) fun m => Only [] [] (begun s h seq) m) ∧
    (Ready s h seq 0x0E00 x c → bitAt 8 x.roleBit = true → diagOut p = some o → s.m.serves k = true → ((s.m.peerHolds = false ∨ 40 ≤ o.val)) → ((o.val < 24 → v ≤ 1)) → ((24 ≤ o.val → o.val < 32 → s.m.get (F.FIO_AO_CFG_MODE (o.val - 24)) ≠ 0)) → Executes (.opDiagOutput h seq) s h c (.ok []) fun m => (m.outs[o]) = { s.m.outs[o] with test := some testv } ∧ (∀ i : Fin 48, i ≠ o → m.outs[i] = s.m.outs[i]) ∧ Only [.outs] [] (begun s h seq) m) ∧
    (Ready s h seq 0x0E00 x c → bitAt 8 x.roleBit = true → diagOut p = none → Executes (.opDiagOutput h seq) s h c (.fail 2 0) fun m => Only [] [] (begun s h seq) m) ∧
    (Ready s h seq 0x0E00 x c → bitAt 8 x.roleBit = true → diagOut p = some o → ((s.m.serves k = false ∨ (s.m.peerHolds = true ∧ o.val < 32))) → Executes (.opDiagOutput h seq) s h c (s.m.badState.2) fun m => Only [] [] (begun s h seq) m) ∧
    (Ready s h seq 0x0E00 x c → bitAt 8 x.roleBit = true → diagOut p = some o → s.m.serves k = true → s.m.peerHolds = false → o.val < 24 → 1 < v → Executes (.opDiagOutput h seq) s h c (.fail 2 4) fun m => Only [] [] (begun s h seq) m) ∧
    (Ready s h seq 0x0E00 x c → bitAt 8 x.roleBit = true → diagOut p = some o → s.m.serves k = true → s.m.peerHolds = false → 24 ≤ o.val → o.val < 32 → s.m.get (F.FIO_AO_CFG_MODE (o.val - 24)) = 0 → Executes (.opDiagOutput h seq) s h c (.fail 2 0) fun m => Only [] [] (begun s h seq) m) ∧
    (Ready s h seq 0x0E01 x c → bitAt 8 x.roleBit = true → diagOut p = some o → s.m.serves k = true → Executes (.opDiagRelease h seq) s h c (.ok []) fun m => (m.outs[o]) = { s.m.outs[o] with test := none } ∧ (∀ i : Fin 48, i ≠ o → m.outs[i] = s.m.outs[i]) ∧ Only [.outs] [] (begun s h seq) m) ∧
    (Ready s h seq 0x0E01 x c → bitAt 8 x.roleBit = true → p = 0xFF → s.m.serves k = true → Executes (.opDiagRelease h seq) s h c (.ok []) fun m => (∀ i : Fin 48, m.outs[i] = { s.m.outs[i] with test := none }) ∧ Only [.outs] [] (begun s h seq) m) ∧
    (Ready s h seq 0x0E01 x c → bitAt 8 x.roleBit = true → p ≠ 0xFF → diagOut p = none → Executes (.opDiagRelease h seq) s h c (.fail 2 0) fun m => Only [] [] (begun s h seq) m) ∧
    (Ready s h seq 0x0E01 x c → bitAt 8 x.roleBit = true → ((p = 0xFF ∨ (diagOut p).isSome = true)) → s.m.serves k = false → Executes (.opDiagRelease h seq) s h c (s.m.badState.2) fun m => Only [] [] (begun s h seq) m) ∧
    (Ready s h seq 0x0E02 x c → bitAt 8 x.roleBit = true → p ≤ 7 → ((s.m.st = xStopped ∨ s.m.st = xService)) → Executes (.opDiagBanktest h seq) s h c (.ok []) fun m => m.mem = { s.m.mem with testing := m.mem.testing } ∧ p ∈ m.mem.testing ∧ (∀ q : Fin 8, q.val ≠ p → (q.val ∈ m.mem.testing ↔ q.val ∈ s.m.mem.testing)) ∧ Only [.mem] [] (begun s h seq) m) ∧
    (Ready s h seq 0x0E02 x c → bitAt 8 x.roleBit = true → 7 < p → Executes (.opDiagBanktest h seq) s h c (.fail 2 0) fun m => Only [] [] (begun s h seq) m) ∧
    (Ready s h seq 0x0E02 x c → bitAt 8 x.roleBit = true → p ≤ 7 → s.m.st ≠ xStopped → s.m.st ≠ xService → Executes (.opDiagBanktest h seq) s h c (s.m.badState.2) fun m => Only [] [] (begun s h seq) m) ∧
    (s.m.mem.testing.contains b.val = true → bad = 0 → Does (.bankTestComplete b bad) s fun m => m.mem = { s.m.mem with testing := s.m.mem.testing.filter (· != b.val) } ∧ Logs s.m m .bankTest b.val [] ∧ Only [.mem, .logs] [F.LOG_STATUS_WAB_FULL] s.m m) ∧
    (s.m.mem.testing.contains b.val = true → Does (.bankTestComplete b bad) s fun m => m.mem.testing = s.m.mem.testing.filter (· != b.val) ∧ m.mem.cells = s.m.mem.cells ∧ m.get (F.TILE_BANK_TOTAL b.val) = satNat (F.TILE_BANK_TOTAL b.val).width (s.m.get (F.TILE_BANK_TOTAL b.val) + bad.toNat) ∧ Only [.mem, .logs, .plan, .nvm] [F.LOG_STATUS_WAB_FULL, F.TILE_STATUS_SUSPECT, F.TILE_BANK_SUSPECT b.val, F.TILE_BANK_TOTAL b.val, F.TILE_BANK_RECENT b.val] s.m m) ∧
    (s.m.mem.testing.contains b.val = false → exec (.bankTestComplete b bad) s = .next s) ∧
    (Ready s h seq 0x0E03 x c → bitAt 28 x.roleBit = true → counterRegs p = some regs → Executes (.opDiagCounters h seq) s h c (.ok (s.m.showRegs x regs)) fun m => Only [] [] (begun s h seq) m) ∧
    (Ready s h seq 0x0E03 x c → bitAt 28 x.roleBit = true → 19 < p → Executes (.opDiagCounters h seq) s h c (.fail 2 0) fun m => Only [] [] (begun s h seq) m) ∧
    (Ready s h seq 0x0E04 x c → Executes (.opDiagEcho h seq) s h c (.ok c.params) fun m => Only [] [] (begun s h seq) m)

/-- O56. For every state with a canonical register file: a frame that fails on both lanes counts in FRAME_ERR, a second copy is discarded. A lane with eight TIME frames in a row comes up, one silent for 500 µs goes down; the first lane up brings the link up, the last lane down takes it down; a standby in step loses step, Two-hand splits. SPLIT ends after a whole hyperperiod with the peer in RUN on the same plan. TIME frames show offset and the peer's state; CONTROL frames wake the core and do their part: the pair's data, plan and arming, state commands. Side A goes on alone when its wait ends. In Two-hand a MIRROR tile with its CRC that the String link may write is buffered, a packet waits in TWIN on side A and a reply leaves on side B. A standby in step takes forwarded values and writes; a streamed tile with its CRC waits for the link's next slot, a streamed loop state is taken by a joiner; a missed frame counts and loses step; the rejoin passes JOIN 1 to 4. A change of the peer's line is shown. A standby in step takes the bar at the next FREEZE instant when the line is FREE or released, and drives the floor; the primary takes it back at a whole second after HOLDOFF, side B gives it to its claim, and OP_TWIN_SWAP's second hands it over. (R355, R356, R358, R360, R363, R366, R372, R373, R375, R379, R380, R383) -/
def Obligations.TheTwinModesKeepBothSidesTogether : Prop :=
  ∀ (s : State) (lane : Fin 2) (seq : BitVec 32) (lanes : BitVec 2) (on : Bool) (sec : Nat) (t : Nat) (n : Nat) (tile : Fin 8192) (bytes : List Byte) (packet : List Byte) (crc : BitVec 32) (tst : BitVec 32) (ex : BitVec 32) (pl : BitVec 32) (items : List (Nat × BitVec 64 × BitVec 16 × Bool)) (ops : List PtOp) (d : TileDef) (line : Fin 3) (h : BitVec 10) (v : BitVec 4) (via : Fin 3) (sent : Nat) (delay : Nat) (rx : Nat) (p : Plan) (ld : LoopDef),
    let my := (if lane = 0 then F.TWIN_LINK_LANE0 else F.TWIN_LINK_LANE1)
    let other := (if lane = 0 then F.TWIN_LINK_LANE1 else F.TWIN_LINK_LANE0)
    let taken := FrameTaken s.m seq lanes
    let step := (s.m.st = xStandby ∧ s.m.flag F.TWIN_STATUS_IN_STEP = true)
    let tw := s.m.twin
    let tl := (s.m.lanesSeen lanes none).twin
    let tt := (s.m.lanesSeen lanes (some (sent / 125000))).twin
    let tn := (s.m.mirrorHomes tile.val)
    let out := (s.m.clk.run = true ∧ s.m.clk.ns ≤ t)
    regsWf s.m.regs = true →
    (s.m.linkReady = true → lanes ≠ 0 → s.m.newSeq seq.toNat = false → ∀ i, FrameRow seq lanes i → Does i s fun m => m.twin = { tw with lanes := m.twin.lanes } ∧ (∀ k : Fin 2, if lanes.getLsbD k.val then (m.twin.lanes[k]).lastAt = some s.m.clk.mono else m.twin.lanes[k] = s.m.twin.lanes[k]) ∧ Only [.twin] [] s.m m) ∧
    (s.m.linkReady = true → ∀ i, FrameRow seq 0 i → Does i s fun m => m.get F.TWIN_COUNTS_FRAME_ERR = satNat F.TWIN_COUNTS_FRAME_ERR.width (s.m.get F.TWIN_COUNTS_FRAME_ERR + 1) ∧ Only [] [F.TWIN_COUNTS_FRAME_ERR] s.m m) ∧
    (s.m.linkReady = false → ∀ i, FrameRow seq lanes i → exec i s = .next s) ∧
    (s.m.linkReady = true → 8 ≤ (tw.lanes[lane]).run → s.m.laneSilent lane = false → s.m.flag F.TWIN_STATUS_LINK_UP = false → Does (.stringLaneUp lane) s fun m => m.flag my = true ∧ m.flag F.TWIN_STATUS_LINK_UP = true ∧ m.twin = { tw with seqRx := none, paired := false, seqTx := tw.seqTx + 1 } ∧ Only [.twin] [my, F.TWIN_STATUS_LINK_UP] s.m m) ∧
    (s.m.linkReady = true → 8 ≤ (tw.lanes[lane]).run → s.m.laneSilent lane = false → s.m.flag F.TWIN_STATUS_LINK_UP = true → Does (.stringLaneUp lane) s fun m => m.flag my = true ∧ Only [] [my] s.m m) ∧
    (((s.m.linkReady = false ∨ (tw.lanes[lane]).run < 8 ∨ s.m.laneSilent lane = true)) → exec (.stringLaneUp lane) s = .next s) ∧
    (s.m.flag my = true → s.m.laneSilent lane = true → s.m.flag other = true → Does (.stringLaneDown lane) s fun m => m.flag my = false ∧ Logs s.m m .twinLane lane.val [] ∧ Only [.logs] [my, F.LOG_STATUS_WAB_FULL] s.m m) ∧
    (s.m.flag my = true → s.m.laneSilent lane = true → s.m.flag other = false → step → tw.follower = false → Does (.stringLaneDown lane) s fun m => m.flag my = false ∧ m.flag F.TWIN_STATUS_LINK_UP = false ∧ OutOfStep m ∧ m.twin.peerReady = false ∧ m.get F.TWIN_LINK_DOWNS = satNat F.TWIN_LINK_DOWNS.width (s.m.get F.TWIN_LINK_DOWNS + 1) ∧ Only [.twin, .logs, .lanes, .exec] ([my, F.TWIN_STATUS_LINK_UP, F.TWIN_LINK_DOWNS] ++ stepRegs) s.m m) ∧
    (s.m.flag my = true → s.m.laneSilent lane = true → s.m.flag other = false → s.m.st = xRun → s.m.get F.TWIN_STATUS_MODE = 1 → s.m.flag F.TWIN_STATUS_SPLIT = false → s.m.flag F.TWIN_STATUS_SIDE = true → s.m.plan.active = some p → tw.follower = false → Does (.stringLaneDown lane) s fun m => m.flag F.TWIN_STATUS_LINK_UP = false ∧ m.flag F.TWIN_STATUS_SPLIT = true ∧ (∀ o : Fin 48, bitAt (m.outs[o]).req 2 = (bitAt (s.m.outs[o]).req 2 || (p.cross.map (·.1)).contains o.val)) ∧ m.twin = { tw with paired := false, peerSince := none, peerReady := false } ∧ m.get F.TWIN_LINK_DOWNS = satNat F.TWIN_LINK_DOWNS.width (s.m.get F.TWIN_LINK_DOWNS + 1) ∧ Only [.twin, .logs, .outs] [my, F.TWIN_STATUS_LINK_UP, F.TWIN_LINK_DOWNS, F.TWIN_STATUS_SPLIT, F.LOG_STATUS_WAB_FULL] s.m m) ∧
    (((s.m.flag my = false ∨ s.m.laneSilent lane = false)) → exec (.stringLaneDown lane) s = .next s) ∧
    (s.m.flag F.TWIN_STATUS_SPLIT = true → s.m.flag F.TWIN_STATUS_LINK_UP = true → s.m.flag F.TWIN_STATUS_MISMATCH = false → tw.peerSince = some sec → (sec + 999999999) / 1000000000 * 1000000000 + 1000000000 ≤ s.m.clk.ns → s.m.flag F.TWIN_STATUS_SIDE = false → Does .splitEnd s fun m => m.flag F.TWIN_STATUS_SPLIT = false ∧ Only [] [F.TWIN_STATUS_SPLIT] s.m m) ∧
    (s.m.flag F.TWIN_STATUS_SPLIT = true → s.m.flag F.TWIN_STATUS_LINK_UP = true → s.m.flag F.TWIN_STATUS_MISMATCH = false → tw.peerSince = some sec → (sec + 999999999) / 1000000000 * 1000000000 + 1000000000 ≤ s.m.clk.ns → s.m.flag F.TWIN_STATUS_SIDE = true → Does .splitEnd s fun m => m.flag F.TWIN_STATUS_SPLIT = false ∧ m.orpor.sessions = [] ∧ Only [.orpor, .exec] [F.TWIN_STATUS_SPLIT] s.m m) ∧
    (((s.m.flag F.TWIN_STATUS_SPLIT = false ∨ s.m.flag F.TWIN_STATUS_LINK_UP = false ∨ tw.peerSince = none)) → exec .splitEnd s = .next s) ∧
    (tw.peerSince = some sec → s.m.clk.ns < (sec + 999999999) / 1000000000 * 1000000000 + 1000000000 → exec .splitEnd s = .next s) ∧
    (s.m.linkReady = true → s.m.clk.run = true → Does .twinTimeSend s fun m => m.twin = { tw with seqTx := tw.seqTx + 1 } ∧ Only [.twin] [] s.m m) ∧
    (s.m.linkReady = false → exec .twinTimeSend s = .next s) ∧
    (taken → s.m.flag F.TWIN_STATUS_LINK_UP = true → bits ex.toNat F.EXEC_STATE_STATE.lo F.EXEC_STATE_STATE.width = xRun → tw.follower = false → (ownLock (s.m.word R.TIME_STATUS).toNat false = true ∧ ownLock tst.toNat (s.m.flag F.TWIN_TIME_MASTER) = false) → Does (.twinTimeRx seq lanes sent delay rx tst ex pl) s fun m => m.get F.TWIN_TIME_OFFSET = ofInt 16 (satInt 16 ((sent : Int) + delay - rx)) ∧ m.get F.TWIN_STATUS_PEER_STATE = xRun ∧ m.flag F.TWIN_TIME_MASTER = true ∧ m.twin = { tt with seqRx := some seq.toNat, peerSince := (if pl.toNat = s.m.get F.PLAN_ACTIVE_ID_ID then tw.peerSince.or (some s.m.clk.ns) else none) } ∧ (∀ k : Fin 2, lanes.getLsbD k.val = true → sent / 125000 = (tw.lanes[k]).grid + 1 → (m.twin.lanes[k]).run = (tw.lanes[k]).run + 1) ∧ Only [.twin] [F.TWIN_TIME_OFFSET, F.TWIN_STATUS_PEER_STATE, F.TWIN_TIME_MASTER] s.m m) ∧
    (taken → s.m.flag F.TWIN_STATUS_LINK_UP = true → bits ex.toNat F.EXEC_STATE_STATE.lo F.EXEC_STATE_STATE.width = xRun → (ownLock (s.m.word R.TIME_STATUS).toNat tw.follower = false ∧ ownLock tst.toNat (s.m.flag F.TWIN_TIME_MASTER) = true) → Does (.twinTimeRx seq lanes sent delay rx tst ex pl) s fun m => m.flag F.TWIN_TIME_MASTER = false ∧ m.twin.follower = true ∧ m.get F.TIME_STATUS_STATE = bits tst.toNat F.TIME_STATUS_STATE.lo F.TIME_STATUS_STATE.width ∧ m.clk.selected = none ∧ Within [.twin, .clk, .freeCtr, .logs, .met] ([(0x06000, 0x07000), (0x78000, 0x79000), (0x80000, 0x81000)]) s.m m) ∧
    (taken → Does (.controlFrameRx seq lanes (.ready on)) s fun m => m.twin = { tl with seqRx := some seq.toNat, peerReady := on } ∧ CoreWakes s.m m ∧ Only [.twin, .sw] [] s.m m) ∧
    (taken → Does (.controlFrameRx seq lanes (.confirm sec)) s fun m => m.twin = { tl with seqRx := some seq.toNat, confirmed := some sec } ∧ Only [.twin, .sw] [] s.m m) ∧
    (taken → Does (.controlFrameRx seq lanes .verified) s fun m => m.twin = { tl with seqRx := some seq.toNat } ∧ m.key = { s.m.key with peerVerified := true } ∧ Only [.twin, .key, .sw] [] s.m m) ∧
    (taken → s.m.get F.KEY_FW_STATUS_STAGE = 4 → Does (.controlFrameRx seq lanes .activate) s fun m => m.key = { s.m.key with activating := true, actAt := s.m.clk.mono } ∧ m.get F.KEY_FW_STATUS_STAGE = 5 ∧ Only [.twin, .key, .sw] [F.KEY_FW_STATUS_STAGE] s.m m) ∧
    (taken → s.m.st = xStandby → Does (.controlFrameRx seq lanes (.handover sec)) s fun m => m.twin = { tl with seqRx := some seq.toNat, swapAt := some sec } ∧ Only [.twin, .sw] [] s.m m) ∧
    (taken → s.m.flag F.TWIN_STATUS_SIDE = true → s.m.exec.waitPeer = true → Does (.controlFrameRx seq lanes (.start sec)) s fun m => m.exec = { s.m.exec with waitPeer := false, restartDue := some (sec * 1000000000) } ∧ Only [.twin, .exec, .sw] [] s.m m) ∧
    (taken → on = !s.m.flag F.TWIN_STATUS_SIDE → pl.toNat = s.m.get F.KEY_FW_VER_VERSION → s.m.exec.waitPeer = false → Does (.controlFrameRx seq lanes (.info 2 pl on)) s fun m => m.twin = { tl with seqRx := some seq.toNat, paired := true } ∧ m.flag F.TWIN_STATUS_MISMATCH = false ∧ Only [.twin, .sw] [F.TWIN_STATUS_MISMATCH] s.m m) ∧
    (taken → on = s.m.flag F.TWIN_STATUS_SIDE → s.m.twinPackage = true → s.m.flag F.TWIN_STATUS_CLASH = false → s.m.st = xRun → Does (.controlFrameRx seq lanes (.info 2 pl on)) s fun m => m.flag F.TWIN_STATUS_CLASH = true ∧ Logs s.m m .twinSideClash 0 [] ∧ Only [.twin, .logs, .sw] [F.TWIN_STATUS_CLASH, F.LOG_STATUS_WAB_FULL] s.m m) ∧
    (taken → on = !s.m.flag F.TWIN_STATUS_SIDE → ((n ≠ 2 ∨ pl.toNat ≠ s.m.get F.KEY_FW_VER_VERSION)) → s.m.flag F.TWIN_STATUS_MISMATCH = false → s.m.st = xRun → s.m.get F.TWIN_STATUS_MODE ≠ 1 → s.m.exec.waitPeer = false → Does (.controlFrameRx seq lanes (.info n pl on)) s fun m => m.twin = { tl with seqRx := some seq.toNat } ∧ m.flag F.TWIN_STATUS_MISMATCH = true ∧ Logs s.m m .twinMismatch 0 [] ∧ Only [.twin, .logs, .sw] [F.TWIN_STATUS_MISMATCH, F.LOG_STATUS_WAB_FULL] s.m m) ∧
    (taken → s.m.flag F.TWIN_STATUS_HOLDS_BAR = false → ((s.m.flag F.TWIN_STATUS_SIDE = true ∨ s.m.get F.TWIN_STATUS_MODE = 2)) → (p.verify s.m.sysId).isSome = true → Does (.controlFrameRx seq lanes (.plan p)) s fun m => m.twin = { tl with seqRx := some seq.toNat } ∧ some (m.get F.PLAN_ERROR_CHECK, m.get F.PLAN_ERROR_DETAIL) = (p.verify s.m.sysId).map (fun e => (e.1 % 2 ^ F.PLAN_ERROR_CHECK.width, e.2 % 2 ^ F.PLAN_ERROR_DETAIL.width)) ∧ m.plan = s.m.plan ∧ Logs s.m m .planRejected 0 [] ∧ Only [.twin, .logs, .sw] [F.PLAN_ERROR_CHECK, F.PLAN_ERROR_DETAIL, F.LOG_STATUS_WAB_FULL] s.m m) ∧
    (taken → s.m.flag F.TWIN_STATUS_HOLDS_BAR = false → ((s.m.flag F.TWIN_STATUS_SIDE = true ∨ s.m.get F.TWIN_STATUS_MODE = 2)) → p.verify s.m.sysId = none → s.m.planLoaded = true → Does (.controlFrameRx seq lanes (.plan p)) s fun m => m.cand = some p ∧ m.get F.PLAN_STATUS_STATE = 3 ∧ m.get F.PLAN_CAND_ID_ID = p.id % 2 ^ F.PLAN_CAND_ID_ID.width ∧ m.plan.active = s.m.plan.active ∧ Only [.twin, .plan, .sw] [F.PLAN_STATUS_STATE, F.PLAN_STATUS_PROGRESS, F.PLAN_CAND_ID_ID, F.PLAN_FREE_TILES_NEEDED] s.m m) ∧
    (taken → s.m.cand = some p → s.m.running = true → s.m.plan.active.isSome = true → s.m.plan.armed = none → p.safetyDiff = false → Does (.controlFrameRx seq lanes (.arm sec)) s fun m => m.twin = { tl with seqRx := some seq.toNat, confirmed := some sec, seqTx := tw.seqTx + 1 } ∧ m.plan.armed = some sec ∧ m.get F.PLAN_STATUS_STATE = 4 ∧ m.get F.PLAN_SWAP_SEC_SEC = sec % 2 ^ F.PLAN_SWAP_SEC_SEC.width ∧ Only [.twin, .plan, .sw] [F.PLAN_STATUS_STATE, F.PLAN_SWAP_SEC_SEC] s.m m) ∧
    (taken → s.m.running = true → Does (.controlFrameRx seq lanes (.command 0x0B00 0)) s fun m => Stops s.m m ∧ Within ([.tests, .twin, .sw] ++ stopParts) ([(0x06000, 0x07000), (0x10000, 0x11000), (0x14000, 0x15000), (0x20000, 0x25000), (0x78000, 0x79000), (0x80000, 0x81000)]) s.m m) ∧
    (s.m.exec.waitPeer = true → s.m.flag F.TWIN_STATUS_SIDE = false → s.m.exec.waitAt + 50000000 ≤ s.m.clk.mono → Does .sideBWaitTimeout s fun m => m.exec = { s.m.exec with waitPeer := false, restartDue := some (s.m.clk.ns + 250000) } ∧ Only [.exec] [] s.m m) ∧
    (((s.m.exec.waitPeer = false ∨ s.m.flag F.TWIN_STATUS_SIDE = true ∨ s.m.clk.mono < s.m.exec.waitAt + 50000000)) → exec .sideBWaitTimeout s = .next s) ∧
    (taken → tileCrc tile.val bytes = crc.toNat → bytes.length = 256 → s.m.get F.TWIN_STATUS_MODE = 1 → ((tw.mir.length < 512 ∨ (mapGet tile.val tw.mir).isSome = true)) → tn.all (fun h => s.m.regionOk 11 2 (h * 256)) = true → Does (.mirrorFrameRx seq lanes tile bytes crc) s fun m => m.twin = { tl with seqRx := some seq.toNat, mir := mapPut tile.val (s.m.clk.ns, bytes) tw.mir } ∧ Only [.twin] [] s.m m) ∧
    (taken → tileCrc tile.val bytes = crc.toNat → bytes.length = 256 → s.m.get F.TWIN_STATUS_MODE = 1 → tw.mir.length < 512 → tn.find? (fun h => !s.m.regionOk 11 2 (h * 256)) = some n → Does (.mirrorFrameRx seq lanes tile bytes crc) s fun m => m.twin = { tl with seqRx := some seq.toNat, mir := mapDel tile.val tw.mir } ∧ Violated s.m m 11 2 (n * 256) ∧ Only [.twin, .logs] violationRegs s.m m) ∧
    (taken → tileCrc tile.val bytes = crc.toNat → bytes.length = 256 → ((s.m.get F.TWIN_STATUS_MODE ≠ 1 ∨ (mapGet tile.val tw.mir = none ∧ 512 ≤ tw.mir.length))) → Does (.mirrorFrameRx seq lanes tile bytes crc) s fun m => m.twin = { tl with seqRx := some seq.toNat } ∧ Only [.twin] [] s.m m) ∧
    (taken → ((tileCrc tile.val bytes ≠ crc.toNat ∨ bytes.length ≠ 256)) → Does (.mirrorFrameRx seq lanes tile bytes crc) s fun m => m.get F.TWIN_COUNTS_FRAME_ERR = satNat F.TWIN_COUNTS_FRAME_ERR.width (s.m.get F.TWIN_COUNTS_FRAME_ERR + 1) ∧ m.twin.mir = tw.mir ∧ Only [.twin] [F.TWIN_COUNTS_FRAME_ERR] s.m m) ∧
    (taken → s.m.get F.TWIN_STATUS_MODE = 1 → s.m.flag F.TWIN_STATUS_SPLIT = false → s.m.flag F.TWIN_STATUS_SIDE = false → Does (.orporFrameRx seq lanes via packet) s fun m => m.pool = (s.m.poolPut { ch := 11, cells := cellsOf packet.length, packet := some packet, via := via.val }).1.pool ∧ m.twin = { tl with seqRx := some seq.toNat } ∧ CoreWakes s.m m ∧ UplMarked s.m m ∧ Only [.twin, .pool, .sw, .upl] [] s.m m) ∧
    (taken → s.m.get F.TWIN_STATUS_MODE = 1 → s.m.flag F.TWIN_STATUS_SPLIT = false → s.m.flag F.TWIN_STATUS_SIDE = true → via = 2 → Does (.orporFrameRx seq lanes via packet) s fun m => m.pool = (s.m.poolPut { ch := 8, cells := cellsOf packet.length, raw := some packet }).1.pool ∧ m.twin = { tl with seqRx := some seq.toNat } ∧ UplMarked s.m m ∧ Only [.twin, .pool, .upl] [] s.m m) ∧
    (taken → s.m.get F.TWIN_STATUS_MODE = 1 → s.m.flag F.TWIN_STATUS_SPLIT = false → s.m.flag F.TWIN_STATUS_SIDE = true → via.val < 2 → s.m.flag (F.UPL_STATUS_LINK via.val) = true → Does (.orporFrameRx seq lanes via packet) s fun m => m.pool = (s.m.poolPut { ch := 4 * via.val + (if bitAt (packet.getD 5 0).toNat 1 then 2 else 3), cells := cellsOf (packet.length + s.m.overhead via.val), raw := some packet }).1.pool ∧ m.twin = { tl with seqRx := some seq.toNat } ∧ UplMarked s.m m ∧ Only [.twin, .pool, .upl] [] s.m m) ∧
    (taken → ((s.m.get F.TWIN_STATUS_MODE ≠ 1 ∨ s.m.flag F.TWIN_STATUS_SPLIT = true)) → Does (.orporFrameRx seq lanes via packet) s fun m => m.twin = { tl with seqRx := some seq.toNat } ∧ Only [.twin] [] s.m m) ∧
    (taken → step → Does (.forwardFrameRx seq lanes items) s fun m => m.exec = { s.m.exec with image := m.exec.image } ∧ (∀ x ∈ items, (mapGet x.1 m.exec.image).isSome = true) ∧ (∀ k : Fin 8192, (∀ x ∈ items, x.1 ≠ k.val) → mapGet k.val m.exec.image = mapGet k.val s.m.exec.image) ∧ Only [.twin, .exec] [] s.m m) ∧
    (taken → s.m.flag F.TWIN_STATUS_IN_STEP = false → Does (.forwardFrameRx seq lanes items) s fun m => m.exec = s.m.exec ∧ Only [.twin] [] s.m m) ∧
    (taken → step → Does (.writeFrameRx seq lanes ops) s fun m => m.mem = { s.m.mem with writes := s.m.mem.writes ++ ops } ∧ Only [.twin, .mem] [] s.m m) ∧
    (taken → tileCrc tile.val bytes = crc.toNat → bytes.length = 256 → s.m.get F.TWIN_STATUS_MODE = 2 → s.m.tileDef tile.val = some d → ((s.m.st = xStandby ∨ (s.m.dirEnt tile.val).faulted = true)) → Does (.streamFrameRx seq lanes (.tile tile.val bytes crc)) s fun m => m.twin = { tl with seqRx := some seq.toNat, stream := mapPut tile.val bytes tw.stream, copied := if s.m.get F.TWIN_STATUS_JOIN = 1 then mapPut tile.val () tw.copied else tw.copied } ∧ Only [.twin] [] s.m m) ∧
    (taken → tileCrc tile.val bytes = crc.toNat → bytes.length = 256 → ((s.m.get F.TWIN_STATUS_MODE ≠ 2 ∨ s.m.tileDef tile.val = none ∨ (s.m.st ≠ xStandby ∧ (s.m.dirEnt tile.val).faulted = false))) → Does (.streamFrameRx seq lanes (.tile tile.val bytes crc)) s fun m => m.twin = { tl with seqRx := some seq.toNat } ∧ Only [.twin] [] s.m m) ∧
    (taken → ((tileCrc tile.val bytes ≠ crc.toNat ∨ bytes.length ≠ 256)) → Does (.streamFrameRx seq lanes (.tile tile.val bytes crc)) s fun m => m.get F.TWIN_COUNTS_FRAME_ERR = satNat F.TWIN_COUNTS_FRAME_ERR.width (s.m.get F.TWIN_COUNTS_FRAME_ERR + 1) ∧ m.twin = { tl with seqRx := some seq.toNat } ∧ Only [.twin] [F.TWIN_COUNTS_FRAME_ERR] s.m m) ∧
    (taken → n < 256 → ((s.m.plan.active.map (·.loops)).getD []).find? (fun e => e.num == n) = some ld → s.m.st = xStandby → s.m.flag F.TWIN_STATUS_IN_STEP = false → bytes.length = 24 → Does (.streamFrameRx seq lanes (.loop n bytes)) s fun m => m.get (F.LOOP_MODE_ACT n) = bits (ofLe (bytes.take 4)) 0 3 ∧ m.get (F.LOOP_OUT_OUT n) = ofLe ((bytes.drop 12).take 4) ∧ m.get (F.LOOP_MAN_OUT_MAN n) = ofLe ((bytes.drop 16).take 4) ∧ (m.loopSt n).i = BitVec.ofNat 64 (ofLe ((bytes.drop 4).take 8)) ∧ (m.loopSt n).warm = true ∧ m.twin = { tl with seqRx := some seq.toNat, copied := mapPut (8192 + n) () tw.copied } ∧ (∀ k : Fin 256, k.val ≠ n → m.loopSt k.val = s.m.loopSt k.val) ∧ Within [.twin, .loops] ([(R.LOOP_CFG n, R.LOOP_CFG n + 0x40)]) s.m m) ∧
    (step → Does .stepLost s fun m => OutOfStep m ∧ m.get F.TWIN_COUNTS_MISSED = satNat F.TWIN_COUNTS_MISSED.width (s.m.get F.TWIN_COUNTS_MISSED + 1) ∧ m.twin.copied = [] ∧ Logs s.m m .twinStepLost 0 [] ∧ Only [.twin, .logs, .lanes, .exec] ([F.TWIN_COUNTS_MISSED] ++ stepRegs) s.m m) ∧
    (s.m.flag F.TWIN_STATUS_IN_STEP = false → exec .stepLost s = .next s) ∧
    (s.m.st = xStandby → s.m.flag F.TWIN_STATUS_LINK_UP = true → s.m.get F.TWIN_STATUS_JOIN = 1 → s.m.tilesCopied = true → Does .rejoinCopyComplete s fun m => m.get F.TWIN_STATUS_JOIN = 2 ∧ Only [] [F.TWIN_STATUS_JOIN] s.m m) ∧
    (((s.m.st ≠ xStandby ∨ s.m.flag F.TWIN_STATUS_LINK_UP = false ∨ s.m.get F.TWIN_STATUS_JOIN ≠ 1 ∨ s.m.tilesCopied = false)) → exec .rejoinCopyComplete s = .next s) ∧
    (s.m.st = xStandby → s.m.get F.TWIN_STATUS_JOIN = 2 → s.m.loopsCopied = true → t % 1000000000 = 0 → out → t < s.m.clk.ns + 1000000000 → Does (.rejoinInStep t) s fun m => m.get F.TWIN_STATUS_JOIN = 3 ∧ m.flag F.TWIN_STATUS_IN_STEP = true ∧ m.twin = { tw with joinSince := some t } ∧ m.clk.ns = t ∧ Only [.twin, .clk] [F.TWIN_STATUS_JOIN, F.TWIN_STATUS_IN_STEP] s.m m) ∧
    (((s.m.st ≠ xStandby ∨ s.m.get F.TWIN_STATUS_JOIN ≠ 2 ∨ s.m.loopsCopied = false ∨ t % 1000000000 ≠ 0)) → exec (.rejoinInStep t) s = .next s) ∧
    (step → s.m.get F.TWIN_STATUS_JOIN = 3 → tw.joinSince = some sec → sec + 1000000000 ≤ s.m.clk.ns → Does .twinSelftestPass s fun m => m.get F.TWIN_STATUS_JOIN = 4 ∧ m.flag F.TWIN_STATUS_SELFTEST = true ∧ m.twin = { tw with holdFrom := some s.m.optime, seqTx := tw.seqTx + 1 } ∧ Only [.twin] [F.TWIN_STATUS_JOIN, F.TWIN_STATUS_SELFTEST] s.m m) ∧
    (tw.joinSince = some sec → s.m.clk.ns < sec + 1000000000 → exec .twinSelftestPass s = .next s) ∧
    (s.m.inBit = false → s.m.isOn (swPd 13) = true → Does (.barLineChange line) s fun m => m.pwr = { s.m.pwr with bar := line.val } ∧ m.get F.TWIN_BAR_PEER_LINE = line.val ∧ Only [.pwr] [F.TWIN_BAR_PEER_LINE] s.m m) ∧
    (s.m.inBit = true → Does (.barLineChange line) s fun m => m.pwr.bar = line.val ∧ bitAt m.pwr.want 13 = decide (line ≠ 0) ∧ Only [.pwr, .sw] [F.TWIN_BAR_PEER_LINE] s.m m) ∧
    (taken → Does (.barFrameRx seq lanes true sec) s fun m => m.twin = { tl with seqRx := some seq.toNat, claimAt := some sec } ∧ Only [.twin] [] s.m m) ∧
    (taken → step → s.m.pwr.bar ≠ 0 → Does (.barFrameRx seq lanes false sec) s fun m => m.twin = { tl with seqRx := some seq.toNat, takePending := true } ∧ Only [.twin] [] s.m m) ∧
    (step → ((s.m.pwr.bar = 1 ∨ (s.m.pwr.bar ≠ 0 ∧ tw.takePending = true))) → s.m.clk.run = true → s.m.nextFreeze = some t → Does (.takeover t) s fun m => TakesBar s.m m t ∧ m.ctr 20 = s.m.ctr 20 + 1 ∧ Only [.clk, .jack, .logs, .nvm, .outs, .twin] barChange s.m m) ∧
    (((s.m.st ≠ xStandby ∨ s.m.flag F.TWIN_STATUS_IN_STEP = false ∨ s.m.pwr.bar = 0 ∨ s.m.nextFreeze ≠ some t)) → exec (.takeover t) s = .next s) ∧
    (step → s.m.flag F.TWIN_STATUS_SIDE = false → s.m.get F.TWIN_STATUS_JOIN = 4 → t % 1000000000 = 0 → out → tw.holdFrom = some sec → sec + max 10 (min 3600 (s.m.get F.TWIN_CFG_HOLDOFF)) * 1000 ≤ s.m.optime → s.m.plan.armed = none → s.m.get F.TWIN_BAR_RETURNS < s.m.returnLimit → s.m.pwr.bar ≠ 0 → Does (.twinReturn t) s fun m => TakesBar s.m m t ∧ m.twin.returned = some s.m.optime ∧ (s.m.get F.TWIN_SWAP_LAST = 3 → m.get F.TWIN_SWAP_LAST = 1) ∧ Only [.clk, .jack, .logs, .outs, .twin] barChange s.m m) ∧
    (s.m.flag F.TWIN_STATUS_SIDE = true → s.m.flag F.TWIN_STATUS_HOLDS_BAR = true → tw.claimAt = some t → s.m.st = xRun → t % 1000000000 = 0 → out → Does (.twinReturn t) s fun m => GivesBar s.m m t ∧ Only [.clk, .jack, .logs, .outs, .plan, .twin] ([F.PLAN_STATUS_STATE, F.PLAN_STATUS_CANCELLED] ++ barChange) s.m m) ∧
    (tw.swapAt = some (t / 1000000000) → t % 1000000000 = 0 → out → s.m.flag F.TWIN_STATUS_HOLDS_BAR = true → s.m.st = xRun → Does (.twinHandover t) s fun m => GivesBar s.m m t ∧ m.get F.TWIN_SWAP_LAST = 3 ∧ m.ctr 21 = s.m.ctr 21 + 1 ∧ Only [.clk, .jack, .logs, .nvm, .outs, .plan, .twin] ([F.PLAN_STATUS_STATE, F.PLAN_STATUS_CANCELLED] ++ barChange) s.m m) ∧
    (tw.swapAt = some (t / 1000000000) → t % 1000000000 = 0 → out → step → s.m.flag F.TWIN_STATUS_HOLDS_BAR = false → s.m.pwr.bar ≠ 0 → Does (.twinHandover t) s fun m => TakesBar s.m m t ∧ Only [.clk, .jack, .outs, .twin] barChange s.m m) ∧
    (((t % 1000000000 ≠ 0 ∨ t < s.m.clk.ns ∨ (s.m.st ≠ xStandby ∧ s.m.st ≠ xRun))) → exec (.twinReturn t) s = .next s) ∧
    (tw.swapAt = some (t / 1000000000) → t % 1000000000 = 0 → out → s.m.flag F.TWIN_STATUS_HOLDS_BAR = false → ((s.m.st ≠ xStandby ∨ s.m.flag F.TWIN_STATUS_IN_STEP = false ∨ s.m.pwr.bar = 0)) → Does (.twinHandover t) s fun m => m.twin = { tw with swapAt := none } ∧ Only [.twin] [] s.m m) ∧
    (tw.swapAt ≠ some (t / 1000000000) → exec (.twinHandover t) s = .next s) ∧
    (s.m.isO0V h.toNat = true → s.m.isOn (swPd 13) = true → Does (.returnLimitWrite h v) s fun m => m.get F.TWIN_CFG_RETURN_LIMIT = v.toNat ∧ m.get F.TWIN_BAR_RETURNS = 0 ∧ m.nvm = { s.m.nvm with jobs := m.nvm.jobs } ∧ Only [.nvm] [F.TWIN_CFG_RETURN_LIMIT, F.TWIN_BAR_RETURNS] s.m m) ∧
    (((s.m.isO0V h.toNat = false ∨ s.m.isOn (swPd 13) = false)) → exec (.returnLimitWrite h v) s = .next s)

/-- LOOP_RUN, LOOP_LATCH and POLL entries (R94, R176 to R180, R186, R187). -/
def Sys2Proof.Machine.DrumLoopsAct : Prop :=
  ∀ (s : State) (t : Nat) (k : Nat) (w : Long) (done : Bool) (n : BitVec 8) (p : Fin 19) (i : BitVec 16) (pvR : PRec) (spR : PRec) (outR : PRec) (r : PollReq) (o : Fin 48),
    let at1 := (s.m.reach t)
    let pid := ((s.m.reach t).tuning n.toNat)
    let pv := pvR.val.toNat % 2 ^ 32
    let sp := spR.val.toNat % 2 ^ 32
    let lp := ((s.m.reach t).loopSt n.toNat)
    let pts := (loopSees s.m (s.m.get (F.LOOP_POINTS_PV n.toNat)) pvR = true ∧ loopSees s.m (s.m.get (F.LOOP_POINTS_SP n.toNat)) spR = true ∧ loopSees s.m (s.m.get (F.LOOP_OUTPT_OUT n.toNat)) outR = true ∧ loopMayWrite s.m (s.m.get (F.LOOP_OUTPT_OUT n.toNat)) = true ∧ pvR.qual &&& 1#16 = 1#16 ∧ spR.qual &&& 1#16 = 1#16)
    let runs := (s.m.inStep = true ∧ s.m.fclk = true ∧ s.m.get (F.LOOP_CFG_TYPE n.toNat) ≠ 0 ∧ loopSecond (s.m.reach t) (s.m.get (F.LOOP_TIMING_PERIOD n.toNat)) 0 = true ∧ loopAlone (s.m.reach t) n.toNat outR = true)
    let req := (s.m.reqDef p i.toNat = some r ∧ s.m.portEn p = true ∧ s.m.flag (F.FBUS_STATUS_NO_POWER p.val) = false ∧ s.m.flag (F.FBUS_STATUS_BUS_OFF p.val) = false ∧ (s.m.proto p ≠ prMbus ∨ s.m.isOn swMbus = true))
    regsWf s.m.regs = true →
    (drumFires s.m dkLoopRun n.toNat 0 t = true → ((s.m.inStep = false ∨ s.m.fclk = false ∨ s.m.get (F.LOOP_CFG_TYPE n.toNat) = 0)) → Does (.loopRun t n) s fun m => m.clk = (s.m.reach t).clk ∧ Only [.clk, .fired] [] s.m m) ∧
    (drumFires s.m dkLoopRun n.toNat 0 t = true → runs → pts → lp.base = lmMan → Does (.loopRun t n) s fun m => m.get (F.LOOP_MODE_ACT n.toNat) = lmMan ∧ m.get (F.LOOP_PV_PV n.toNat) = pv ∧ m.get (F.LOOP_OUT_OUT n.toNat) = clampOut pid (fAdd b32 (s.m.get (F.LOOP_MAN_OUT_MAN n.toNat)) 0) % 2 ^ 32 ∧ Within [.clk, .fired, .exec, .loops, .mem, .tests] (loopRanges n.toNat) s.m m) ∧
    (drumFires s.m dkLoopRun n.toNat 0 t = true → runs → pts → lp.base = lmAuto → s.m.get (F.LOOP_MODE_ACT n.toNat) = lmAuto → lp.cold = false → lp.warm = false → (lp.kp = s.m.word (R.LOOP_KP n.toNat) ∧ lp.td = s.m.word (R.LOOP_TD n.toNat) ∧ lp.weight = s.m.word (R.LOOP_WEIGHT n.toNat)) → Does (.loopRun t n) s fun m => m.get (F.LOOP_MODE_ACT n.toNat) = lmAuto ∧ m.get (F.LOOP_OUT_OUT n.toNat) = (law pid lp.i.toNat lp.uPrev.toNat lp.dPrev.toNat lp.edPrev.toNat sp pv false).out % 2 ^ 32 ∧ (m.loopSt n.toNat).i.toNat = (law pid lp.i.toNat lp.uPrev.toNat lp.dPrev.toNat lp.edPrev.toNat sp pv false).i % 2 ^ 64 ∧ Within [.clk, .fired, .exec, .loops, .mem, .tests] (loopRanges n.toNat) s.m m) ∧
    (drumFires s.m dkLoopLatch n.toNat 0 t = true → s.m.inStep = true → (s.m.reach t).latchNow n.toNat = true → done = true → actOutput (s.m.get (F.LOOP_CFG_ACT n.toNat)) = some o → s.m.innerOf n.toNat = none → mapGet (s.m.get (F.LOOP_OUTPT_OUT n.toNat)) s.m.mem.forces = none → Does (.loopLatch t n done) s fun m => m.clk = (s.m.reach t).clk ∧ LaunchedAs at1 m o (some (s.m.word (R.LOOP_OUT n.toNat))) ∧ (∀ k : Fin 48, k ≠ o → m.outs[k] = s.m.outs[k]) ∧ Only [.clk, .fired, .fio, .outs] scRegs s.m m) ∧
    (drumFires s.m dkLoopLatch n.toNat 0 t = true → s.m.inStep = true → (s.m.reach t).latchNow n.toNat = true → done = true → actOutput (s.m.get (F.LOOP_CFG_ACT n.toNat)) = some o → s.m.innerOf n.toNat = none → mapGet (s.m.get (F.LOOP_OUTPT_OUT n.toNat)) s.m.mem.forces = some w → Does (.loopLatch t n done) s fun m => m.clk = (s.m.reach t).clk ∧ LaunchedAs at1 m o (some (w.extractLsb' 0 32)) ∧ (m.loopSt n.toNat).shown = some (w.extractLsb' 0 32) ∧ (∀ k : Fin 48, k ≠ o → m.outs[k] = s.m.outs[k]) ∧ Only [.clk, .fired, .fio, .loops, .outs] scRegs s.m m) ∧
    (drumFires s.m dkLoopLatch n.toNat 0 t = true → s.m.inStep = true → (s.m.reach t).latchNow n.toNat = true → done = true → ((actOutput (s.m.get (F.LOOP_CFG_ACT n.toNat)) = none ∨ (s.m.innerOf n.toNat).isSome = true)) → Does (.loopLatch t n done) s fun m => m.clk = (s.m.reach t).clk ∧ Only [.clk, .fired] [] s.m m) ∧
    (drumFires s.m dkLoopLatch n.toNat 0 t = true → s.m.inStep = true → (s.m.reach t).latchNow n.toNat = true → done = false → s.m.exec.burst = none → Does (.loopLatch t n done) s fun m => OverrunShown s.m m 6 (s.m.get (F.LOOP_CFG_CLASS n.toNat)) 0 (s.m.unfinished % 256) ∧ Stops s.m m ∧ Only ([.clk, .fired] ++ stopParts) overrunRegs s.m m) ∧
    (drumFires s.m dkLoopLatch n.toNat 0 t = true → ((s.m.inStep = false ∨ (s.m.reach t).latchNow n.toNat = false)) → Does (.loopLatch t n done) s fun m => m.clk = (s.m.reach t).clk ∧ Only [.clk, .fired] [] s.m m) ∧
    (drumFires s.m dkPoll p.val i.toNat t = true → ((s.m.reqDef p i.toNat = none ∨ s.m.portEn p = false ∨ s.m.st = xStandby)) → Does (.poll t p i) s fun m => m.clk = (s.m.reach t).clk ∧ Only [.clk, .fired] [] s.m m) ∧
    (drumFires s.m dkPoll p.val i.toNat t = true → req → s.m.st ≠ xStandby → s.m.proto p ≠ prCan → s.m.proto p ≠ prTcp → r.write = false → r.needsReply = true → (s.m.ports.port[p]).exch = none → Does (.poll t p i) s fun m => m.clk = (s.m.reach t).clk ∧ (m.ports.port[p]).exch = some { req := i.toNat, sent := [], waiting := (s.m.proto p == prMstp), tid := (s.m.ports.port[p]).tid } ∧ (∀ k : Fin 19, k ≠ p → m.ports.port[k] = s.m.ports.port[k]) ∧ Only [.clk, .fired, .ports] [] s.m m)

/-- METER_WIN, MGMT_WIN and MIRROR entries (R9, R11, R18, R61, R81, R225, R363). -/
def Sys2Proof.Machine.DrumWindowsAct : Prop :=
  ∀ (s : State) (t : Nat) (k : Nat) (q : Nat) (pt : PointDef) (dir : Fin 2) (list : BitVec 16) (tdf : TileDef) (bytes : List Byte) (hits : List Upset) (v : BitVec 8) (copyOk : Bool) (alive : Bool) (i : BitVec 16) (len : BitVec 16) (bad : List Nat) (bad2 : List Nat) (pl : Plan),
    regsWf s.m.regs = true →
    (drumFires s.m dkMirror dir.val list.toNat t = true → s.m.fclk = false → Does (.mirror t dir list) s fun m => m.clk = (s.m.reach t).clk ∧ Only [.clk, .fired] [] s.m m) ∧
    (drumFires s.m dkMirror dir.val list.toNat t = true → s.m.fclk = true → dir = 0 → s.m.plan.active.bind (fun x => mapGet list.toNat x.lists) = some [k] → s.m.regionOk 11 1 (k * 256) = true → s.m.loadCause k = none → (s.m.dirEnt k).single = false → Does (.mirror t dir list) s fun m => m.clk = (s.m.reach t).clk ∧ m.twin = { s.m.twin with seqTx := s.m.twin.seqTx + (if s.m.flag F.TWIN_STATUS_LINK_UP = true then 1 else 0) } ∧ Only [.clk, .fired, .twin] [] s.m m) ∧
    (drumFires s.m dkMirror dir.val list.toNat t = true → s.m.fclk = true → dir = 0 → s.m.plan.active.bind (fun x => mapGet list.toNat x.lists) = none → Does (.mirror t dir list) s fun m => m.clk = (s.m.reach t).clk ∧ Only [.clk, .fired] [] s.m m) ∧
    (drumFires s.m dkMirror dir.val list.toNat t = true → s.m.fclk = true → dir = 1 → s.m.twin.stream = [] → Does (.mirror t dir list) s fun m => m.clk = (s.m.reach t).clk ∧ m.get F.TWIN_COUNTS_MISSED = satNat F.TWIN_COUNTS_MISSED.width (s.m.get F.TWIN_COUNTS_MISSED + (((s.m.plan.active.bind (fun x => mapGet list.toNat x.lists)).getD []).filter s.m.mirrorLate).length) ∧ Only [.clk, .fired, .twin] [F.TWIN_COUNTS_MISSED] s.m m) ∧
    (drumFires s.m dkMirror dir.val list.toNat t = true → s.m.fclk = true → dir = 1 → s.m.twin.stream = [(k, bytes)] → bytes.length = 256 → s.m.tileDef k = some tdf → s.m.regionOk 11 2 (k * 256) = true → ((s.m.st = xStandby ∨ (s.m.dirEnt k).faulted = true)) → Does (.mirror t dir list) s fun m => m.tileBytes k = bytes ∧ (m.dirEnt k).faulted = false ∧ (m.dirEnt k).crc = tileCrc k bytes ∧ m.twin = { s.m.twin with stream := [] } ∧ (∀ a, a < k * 256 ∨ k * 256 + 256 ≤ a → memRead 0 m.mem.cells a = memRead 0 s.m.mem.cells a) ∧ Only [.clk, .fired, .mem, .twin] ([F.TILE_STATUS_FAULTED, F.TILE_LAST_FAULT_REBUILT, F.TWIN_COUNTS_MISSED] ++ brokenRegs) s.m m) ∧
    (drumFires s.m dkMirror dir.val list.toNat t = true → s.m.fclk = true → dir = 1 → s.m.twin.stream = [(k, bytes)] → s.m.tileDef k = some tdf → s.m.regionOk 11 2 (k * 256) = false → Does (.mirror t dir list) s fun m => m.mem = s.m.mem ∧ m.twin = { s.m.twin with stream := [] } ∧ Violated s.m m 11 2 (k * 256) ∧ Only [.clk, .fired, .logs, .twin] ([F.TWIN_COUNTS_MISSED] ++ violationRegs) s.m m) ∧
    (drumFires s.m dkMeterWin 0 len.toNat t = true → ((s.m.st = xStandby ∨ s.m.fclk = false ∨ (s.m.met.waiting = [] ∧ s.m.met.fresh = false))) → Does (.meterWin t len) s fun m => m.clk = (s.m.reach t).clk ∧ (s.m.met.waiting = [] ∨ s.m.st = xStandby ∨ s.m.fclk = false → m.met = s.m.met) ∧ Only [.clk, .fired, .met] [] s.m m) ∧
    (drumFires s.m dkMeterWin 0 len.toNat t = true → s.m.st ≠ xStandby → s.m.fclk = true → s.m.met.fresh = true → s.m.met.waiting = [] → s.m.points = [] → Does (.meterWin t len) s fun m => m.clk = (s.m.reach t).clk ∧ m.met = { s.m.met with fresh := false } ∧ Only [.clk, .fired, .met] [] s.m m) ∧
    (drumFires s.m dkMeterWin 0 len.toNat t = true → s.m.st ≠ xStandby → s.m.fclk = true → s.m.met.fresh = true → s.m.met.waiting = [] → s.m.points = [pt] → pt.bind = .meter k q → pt.slot < 16 → s.m.regionOk 12 2 (pt.tile * 256) = true → (s.m.dirEnt pt.tile).faulted = false → (s.m.dirEnt pt.tile).dbl = false → (s.m.dirEnt pt.tile).single = false → Does (.meterWin t len) s fun m => m.clk = (s.m.reach t).clk ∧ m.met.fresh = false ∧ ((m.tileBytes pt.tile).drop (16 * pt.slot)).take 16 = (meterRec (s.m.reach t) pt k q).bytes ∧ (m.dirEnt pt.tile).crc = tileCrc pt.tile (m.tileBytes pt.tile) ∧ m.exec.freshPts.contains pt.idx = true ∧ (∀ a, a < pt.tile * 256 ∨ pt.tile * 256 + 256 ≤ a → memRead 0 m.mem.cells a = memRead 0 s.m.mem.cells a) ∧ Only [.clk, .fired, .exec, .mem, .met] [] s.m m) ∧
    (drumFires s.m dkMgmtWin 0 20 t = true → alive = false → Does (.mgmtWin t bad bad2 copyOk alive hits) s fun m => m.clk = (s.m.reach t).clk ∧ m.mem = (s.m.upsets hits).mem ∧ (∀ i : Fin 31, i ≠ swPllM → m.sw[i] = s.m.sw[i]) ∧ Only [.clk, .fired, .mem, .sw] [] s.m m) ∧
    (drumFires s.m dkMgmtWin 0 20 t = true → alive = false → s.m.isOn (swPd 6) = true → hits = [.byte k q v] → Does (.mgmtWin t bad bad2 copyOk alive hits) s fun m => memRead 0 m.mem.cells (k % 8192 * 256 + q % 256) = v ∧ (∀ a, a ≠ k % 8192 * 256 + q % 256 → memRead 0 m.mem.cells a = memRead 0 s.m.mem.cells a) ∧ m.mem.dir = s.m.mem.dir ∧ Only [.clk, .fired, .mem, .sw] [] s.m m) ∧
    (drumFires s.m dkMgmtWin 0 20 t = true → alive = true → s.m.isOn (swPd 3) = true → bitAt s.m.pwr.unlocked 1 = false → s.m.plan.migrated = false → hits = [] → Does (.mgmtWin t bad bad2 copyOk alive hits) s fun m => m.clk = (s.m.reach t).clk ∧ m.exec.heartbeat = true ∧ m.exec.windowAt = t ∧ m.exec.windowEnd = t + 20000 ∧ (s.m.fclk = true → ∀ x ∈ m.mem.writes, x ∈ s.m.mem.writes) ∧ (s.m.fclk = false → m.mem = s.m.mem) ∧ Within [.clk, .fired, .exec, .mem, .plan, .logs, .nvm, .outs, .lanes, .jack, .bit, .sw, .twin, .met] (windowRanges) s.m m) ∧
    (drumFires s.m dkMgmtWin 0 20 t = true → alive = true → s.m.isOn (swPd 3) = true → bitAt s.m.pwr.unlocked 1 = false → s.m.plan.migrated = false → s.m.plan.armRecord = true → s.m.plan.active = some pl → Does (.mgmtWin t bad bad2 copyOk alive hits) s fun m => m.flag F.PLAN_STATUS_ACTIVE_SLOT = !s.m.flag F.PLAN_STATUS_ACTIVE_SLOT ∧ m.get F.PLAN_ACTIVE_ID_ID = pl.id % 2 ^ 32 ∧ m.get F.PLAN_SWAPS_SWAPS = satNat F.PLAN_SWAPS_SWAPS.width (s.m.get F.PLAN_SWAPS_SWAPS + 1) ∧ m.plan.armRecord = false ∧ Within [.clk, .fired, .exec, .mem, .plan, .logs, .nvm, .outs, .lanes, .jack, .bit, .sw, .twin, .met] (windowRanges) s.m m) ∧
    (drumFires s.m dkMgmtWin 0 20 t = true → alive = true → s.m.plan.migrated = true → s.m.isOn (swPd 3) = true → bitAt s.m.pwr.unlocked 1 = false → hits = [] → Does (.mgmtWin t bad bad2 copyOk alive hits) s fun m => m.clk = (s.m.reach t).clk ∧ m.exec = { s.m.exec with heartbeat := true } ∧ (∀ i : Fin 31, i ≠ swPllM → m.sw[i] = s.m.sw[i]) ∧ Only [.clk, .fired, .exec, .sw] [] s.m m) ∧
    (drumFires s.m dkMgmtWin 0 20 t = true → alive = true → s.m.mgmtUp = true → s.m.fclk = false → s.m.coreBusy = false → s.m.plan.armRecord = false → s.m.plan.migrated = false → s.m.logs.wab = [] → s.m.logs.wabIntervals = [] → s.m.logs.mirror = [] → (s.m.sw[swPllM]).ph = .on → hits = [] → Does (.mgmtWin t bad bad2 copyOk alive hits) s fun m => m.sw = s.m.sw.set swPllM ((s.m.sw[swPllM]).reqOff m.clk.mono) ∧ Only [.clk, .fired, .exec, .sw] [] s.m m)

/-- O57. For every state with a canonical register file: an entry's row does nothing unless the active Drum holds that entry, the state lets its kind fire and its instant is not past; where it fires, building time is its instant. NOP does no more; WAKE_F, STOP_F and DOMAIN request their function on or off; BURST gives each lane its list, arms the watchdog to the shortest class's deadline and waits for PLL-F where it has no lock; its end disarms it. LAUNCH shows each output's staged value with the requests that R111 withdraws, a burst still open is overrun 2. LOOP_RUN in MAN gives the limited manual output, in AUTO the law of R179; LOOP_LATCH shows the loop's output, unfinished it is overrun 6. POLL starts the exchange; METER_WIN does nothing in STANDBY. MGMT_WIN opens the window of 20 µs, shows a swap, and only notes that the core answers. The lock starts a waiting burst, its lateness is overrun 3, the deadline overrun 1. A failed safe table asserts the hard defaults. (R14, R16, R67, R89, R91, R97, R98, R101, R106, R176, R179, R470) -/
def Obligations.DrumEntriesActAtTheirInstants : Prop :=
  (∀ (s : State) (t : Nat) (kind : Nat) (target : Nat) (arg : Nat) (k : Nat) (d : Fin 15) (lk : Fin 8) (ts : List Nat) (td : TaskDef) (pt : PointDef) (e : PMapEnt) (on : Bool) (ok : Bool) (mask : BitVec 8) (seq : BitVec 16) (c : Fin 8) (p : Fin 19) (i : BitVec 16) (freq : BitVec 21) (b : BurstSt) (r : PollReq) (o : Fin 48),
    let at1 := (s.m.reach t)
    regsWf s.m.regs = true →
    (drumFires s.m kind target arg t = false → ∀ e, DrumRow t kind target arg e → exec e s = .next s) ∧
    (drumFires s.m dkNop 0 0 t = true → Does (.drumNop t) s fun m => m.clk = (s.m.reach t).clk ∧ m.clk.ns = t ∧ Only [.clk, .fired] [] s.m m) ∧
    (drumFires s.m dkWakeF 0 0 t = true → Does (.wakeF t) s fun m => m.clk = (s.m.reach t).clk ∧ m.sw = s.m.sw.set swPllF ((s.m.sw[swPllF]).reqOn m.clk.mono) ∧ Only [.clk, .fired, .sw] [] s.m m) ∧
    (drumFires s.m dkWakeM 0 0 t = true → s.m.isOn (swPd 3) = true → Does (.wakeM t) s fun m => m.clk = (s.m.reach t).clk ∧ m.sw = s.m.sw.set swPllM (((s.m.sw[swPllM]).reqOn m.clk.mono).upDone m.clk.mono) ∧ CoreWakes s.m m ∧ Only [.clk, .fired, .sw] [] s.m m) ∧
    (drumFires s.m dkWakeM 0 0 t = true → s.m.isOn (swPd 3) = false → Does (.wakeM t) s fun m => m.clk = (s.m.reach t).clk ∧ Only [.clk, .fired] [] s.m m) ∧
    (drumFires s.m dkStopF 0 0 t = true → Does (.stopF t) s fun m => m.clk = (s.m.reach t).clk ∧ m.sw = s.m.sw.set swPllF ((s.m.sw[swPllF]).reqOff m.clk.mono) ∧ Only [.clk, .fired, .sw] [] s.m m) ∧
    (drumFires s.m dkDomain d.val (b2n on) t = true → Does (.domain t d on) s fun m => m.clk = (s.m.reach t).clk ∧ bitAt m.pwr.want d.val = on ∧ (∀ e : Fin 15, e ≠ d → bitAt m.pwr.want e.val = bitAt s.m.pwr.want e.val) ∧ m.pwr = { s.m.pwr with want := m.pwr.want } ∧ Only [.clk, .fired, .sw, .pwr] [] s.m m) ∧
    (drumFires s.m dkFreeze mask.toNat 0 t = true → (s.m.points.map (·.idx)).Nodup → s.m.points.all (fun p => !bitAt mask.toNat p.cls || (s.m.imageOf p 0).isSome) = true → Does (.freeze t mask) s fun m => m.clk = (s.m.reach t).clk ∧ m.freeCtr = s.m.freeCtr + 8 ∧ (∀ c : Fin 8, m.exec.clsFreeze[c] = if bitAt mask.toNat c.val then t else s.m.exec.clsFreeze[c]) ∧ (∀ p ∈ s.m.points, mapGet p.idx m.exec.image = if s.m.st ≠ xStandby ∧ bitAt mask.toNat p.cls = true then (s.m.reach t).imageOf p (s.m.exec.clsFreeze[Fin.ofNat 8 p.cls]) else mapGet p.idx s.m.exec.image) ∧ (∀ i : Fin 8, m.fio.cnt[i] = { s.m.fio.cnt[i] with ovr := s.m.fio.cnt[i].ovr &&& (255 - mask.toNat) }) ∧ m.mem.cells = s.m.mem.cells ∧ Only [.clk, .fired, .freeCtr, .exec, .mem, .fio, .ports] [] s.m m) ∧
    (drumFires s.m dkFreeze mask.toNat 0 t = true → s.m.points = [pt] → bitAt mask.toNat pt.cls = true → ((pt.bind = .free ∨ pt.bind = .out o.val)) → mapGet pt.idx s.m.mem.pmap = some e → e.slot < 16 → s.m.loadCause e.tile = none → (s.m.dirEnt e.tile).faulted = false → (s.m.dirEnt e.tile).single = false → Does (.freeze t mask) s fun m => m.prec e = (if s.m.exec.freshPts.contains pt.idx then s.m.prec e else (s.m.prec e).aged) ∧ pt.idx ∉ m.exec.freshPts ∧ (∀ a, a < e.tile * 256 + e.slot * 16 ∨ e.tile * 256 + e.slot * 16 + 16 ≤ a → memRead 0 m.mem.cells a = memRead 0 s.m.mem.cells a) ∧ m.exec.clsFreeze[Fin.ofNat 8 pt.cls] = (if pt.cls < 8 then t else s.m.exec.clsFreeze[Fin.ofNat 8 pt.cls]) ∧ Only [.clk, .fired, .freeCtr, .exec, .mem, .fio] [] s.m m) ∧
    (drumFires s.m dkBurst mask.toNat seq.toNat t = true → ((s.m.st ≠ xStandby ∨ s.m.flag F.TWIN_STATUS_IN_STEP = true)) → s.m.fclk = false → Does (.burst t mask seq) s fun m => m.clk = (s.m.reach t).clk ∧ m.exec = { s.m.exec with burst := some ⟨mask.toNat, seq.toNat, t⟩, wdArmed := true, wdDeadline := t + s.m.periodNs (s.m.shortest mask.toNat) * s.m.get (F.PLAN_CLASS_CFG_DEADLINE (s.m.shortest mask.toNat)) / 100, late := true } ∧ (∀ l : Fin 8, m.lanes[l] = { s.m.lanes[l] with task := none, phase := .idle, todo := s.m.burstTasks l.val mask.toNat seq.toNat }) ∧ Only [.clk, .fired, .exec, .lanes] [] s.m m) ∧
    (drumFires s.m dkBurst mask.toNat seq.toNat t = true → ((s.m.st ≠ xStandby ∨ s.m.flag F.TWIN_STATUS_IN_STEP = true)) → s.m.fclk = true → (List.range 8).all (fun l => (s.m.burstTasks l mask.toNat seq.toNat).isEmpty) = true → Does (.burst t mask seq) s fun m => m.clk = (s.m.reach t).clk ∧ m.exec.burst = some ⟨mask.toNat, seq.toNat, t⟩ ∧ m.exec.wdArmed = true ∧ (∀ l : Fin 8, (m.lanes[l]).phase = .idle ∧ (m.lanes[l]).todo = []) ∧ Only [.clk, .fired, .exec, .lanes] [] s.m m) ∧
    (drumFires s.m dkBurst mask.toNat seq.toNat t = true → ((s.m.st ≠ xStandby ∨ s.m.flag F.TWIN_STATUS_IN_STEP = true)) → s.m.fclk = true → s.m.lanePowered lk = true → s.m.burstTasks lk.val mask.toNat seq.toNat = k :: ts → s.m.taskDef k = some td → td.tiles = [] → (List.range 8).all (fun l => l == lk.val || (s.m.burstTasks l mask.toNat seq.toNat).isEmpty) = true → Does (.burst t mask seq) s fun m => m.clk = (s.m.reach t).clk ∧ m.exec.burst = some ⟨mask.toNat, seq.toNat, t⟩ ∧ m.exec.wdArmed = true ∧ (m.lanes[lk]).task = some k ∧ (m.lanes[lk]).todo = ts ∧ (m.lanes[lk]).phase = .exec ∧ (m.lanes[lk]).pc = 0 ∧ (m.lanes[lk]).freeze = s.m.exec.clsFreeze[Fin.ofNat 8 td.cls] ∧ (∀ r : Fin 16, (m.lanes[lk]).l[r] = 0 ∧ (m.lanes[lk]).q[r] = 0) ∧ (∀ l : Fin 8, l ≠ lk → (m.lanes[l]).phase = .idle ∧ (m.lanes[l]).todo = []) ∧ Only [.clk, .fired, .exec, .lanes] [] s.m m) ∧
    (drumFires s.m dkBurst mask.toNat seq.toNat t = true → s.m.st = xStandby → s.m.flag F.TWIN_STATUS_IN_STEP = false → Does (.burst t mask seq) s fun m => m.clk = (s.m.reach t).clk ∧ Only [.clk, .fired] [] s.m m) ∧
    (s.m.exec.burst.isSome = true → s.m.unfinished = 0 → s.m.exec.late = false → Does .burstEnd s fun m => m.exec = { s.m.exec with burst := none, wdArmed := false } ∧ (∀ l : Fin 8, m.lanes[l] = if (s.m.lanes[l]).phase = .done then { s.m.lanes[l] with phase := .idle } else s.m.lanes[l]) ∧ Only [.exec, .lanes] [] s.m m) ∧
    (((s.m.exec.burst = none ∨ s.m.unfinished ≠ 0 ∨ s.m.exec.late = true)) → exec .burstEnd s = .next s) ∧
    (drumFires s.m dkLaunch c.val 0 t = true → (s.m.reach t).stagingOpen c.val = false → (s.m.reach t).classOuts c.val = [o.val] → ((o.val < 32 ∨ 40 ≤ o.val)) → Does (.launch t c) s fun m => m.clk = (s.m.reach t).clk ∧ LaunchedAs at1 m o (s.m.outs[o]).staged ∧ (∀ k : Fin 48, k ≠ o → m.outs[k] = s.m.outs[k]) ∧ Only [.clk, .fired, .exec, .fio, .outs] scRegs s.m m) ∧
    (drumFires s.m dkLaunch c.val 0 t = true → (s.m.reach t).stagingOpen c.val = false → (s.m.reach t).classOuts c.val = [o.val] → 32 ≤ o.val → o.val < 40 → (s.m.reach t).soStaged (soOut (Fin.ofNat 4 ((o.val - 32) / 2)) false) = (s.m.reach t).soStaged (soOut (Fin.ofNat 4 ((o.val - 32) / 2)) true) → Does (.launch t c) s fun m => LaunchedAs at1 m (soOut (Fin.ofNat 4 ((o.val - 32) / 2)) false) (s.m.outs[soOut (Fin.ofNat 4 ((o.val - 32) / 2)) false]).staged ∧ LaunchedAs at1 m (soOut (Fin.ofNat 4 ((o.val - 32) / 2)) true) (s.m.outs[soOut (Fin.ofNat 4 ((o.val - 32) / 2)) true]).staged ∧ (∀ k : Fin 48, (k.val - 32) / 2 ≠ (o.val - 32) / 2 ∨ k.val < 32 → m.outs[k] = s.m.outs[k]) ∧ Only [.clk, .fired, .exec, .fio, .outs] [] s.m m) ∧
    (drumFires s.m dkLaunch c.val 0 t = true → (s.m.reach t).stagingOpen c.val = false → (s.m.reach t).classOuts c.val = [o.val] → 32 ≤ o.val → o.val < 40 → (s.m.reach t).soStaged (soOut (Fin.ofNat 4 ((o.val - 32) / 2)) false) ≠ (s.m.reach t).soStaged (soOut (Fin.ofNat 4 ((o.val - 32) / 2)) true) → s.m.safe.mismatch = [] → Does (.launch t c) s fun m => (m.outs[soOut (Fin.ofNat 4 ((o.val - 32) / 2)) false]).launched = some .off ∧ (m.outs[soOut (Fin.ofNat 4 ((o.val - 32) / 2)) true]).launched = some .off ∧ m.safe.mismatch = [t] ∧ m.get F.SAFE_MISMATCH_RECENT = 1 ∧ m.get F.SAFE_MISMATCH_TOTAL = satNat F.SAFE_MISMATCH_TOTAL.width (s.m.get F.SAFE_MISMATCH_TOTAL + 1) ∧ Only [.clk, .fired, .exec, .fio, .outs, .safe, .logs] [F.SAFE_MISMATCH_RECENT, F.SAFE_MISMATCH_TOTAL, F.LOG_STATUS_WAB_FULL] s.m m) ∧
    (drumFires s.m dkLaunch c.val 0 t = true → (s.m.reach t).stagingOpen c.val = true → s.m.exec.burst = some b → Does (.launch t c) s fun m => OverrunShown s.m m 2 c.val (b.seq % 65536) (s.m.unfinished % 256) ∧ Stops s.m m ∧ Only ([.clk, .fired] ++ stopParts) overrunRegs s.m m) ∧
    ((s.m.sw[swPllF]).ph = .powering → (s.m.sw[swPllF]).pendOff = false → s.m.exec.late = false → Does .pllFLock s fun m => m.isOn swPllF = true ∧ m.sw = s.m.sw.set swPllF ((s.m.sw[swPllF]).upDone s.m.clk.mono) ∧ Only [.sw] [] s.m m) ∧
    ((s.m.sw[swPllF]).ph = .powering → (s.m.sw[swPllF]).pendOff = false → s.m.exec.late = true → bitAt s.m.pwr.unlocked 0 = false → (List.finRange 8).all (fun l => (s.m.lanes[l]).todo.isEmpty) = true → Does .pllFLock s fun m => m.isOn swPllF = true ∧ m.exec = { s.m.exec with late := false } ∧ Only [.sw, .exec] [] s.m m) ∧
    ((s.m.sw[swPllF]).ph ≠ .powering → exec .pllFLock s = .next s) ∧
    (s.m.exec.burst = some b → s.m.exec.late = true → s.m.clk.run = true → s.m.clk.ns ≤ t → b.t0 + 50000 ≤ t → Does (.pllLockLate t) s fun m => OverrunShown s.m m 3 (s.m.shortest b.mask) (b.seq % 65536) (s.m.unfinished % 256) ∧ Stops s.m m ∧ m.get F.CLK_FAULTS_LATE_F = satNat F.CLK_FAULTS_LATE_F.width (s.m.get F.CLK_FAULTS_LATE_F + 1) ∧ m.clk.ns = t ∧ Only ([.clk] ++ stopParts) ([F.CLK_FAULTS_LATE_F] ++ overrunRegs) s.m m) ∧
    (((s.m.exec.burst = none ∨ (s.m.exec.burst = some b ∧ (s.m.exec.late = false ∨ t < b.t0 + 50000)))) → exec (.pllLockLate t) s = .next s) ∧
    (s.m.exec.burst = some b → s.m.exec.wdArmed = true → s.m.clk.run = true → s.m.clk.ns ≤ t → s.m.exec.wdDeadline ≤ t → Does (.watchdogDeadline t) s fun m => OverrunShown s.m m 1 (s.m.shortest b.mask) (b.seq % 65536) (s.m.unfinished % 256) ∧ Stops s.m m ∧ m.clk.ns = t ∧ Only ([.clk] ++ stopParts) overrunRegs s.m m) ∧
    (((s.m.exec.burst = none ∨ (s.m.exec.burst = some b ∧ (s.m.exec.wdArmed = false ∨ t < s.m.exec.wdDeadline)))) → exec (.watchdogDeadline t) s = .next s) ∧
    (ok = false → s.m.exec.safeCopy.isSome = true → Does (.safeTableCrcCheck ok) s fun m => m.exec = { s.m.exec with hardReq := true } ∧ Logs s.m m .safeTableCrc 0 [] ∧ Only [.exec, .logs] [F.LOG_STATUS_WAB_FULL] s.m m) ∧
    (((ok = true ∨ s.m.exec.safeCopy = none)) → exec (.safeTableCrcCheck ok) s = .next s) ∧
    (s.m.clk.run = true → Does (.rcOscMeasure freq) s fun m => m.get F.CLK_RC_FREQ = freq.toNat ∧ Only [] [F.CLK_RC_FREQ] s.m m) ∧
    (s.m.clk.run = false → exec (.rcOscMeasure freq) s = .next s)) ∧
  DrumLoopsAct ∧ DrumWindowsAct

/-- The planner's result is stored for the start, as the candidate or in place of a suspect bank, or it is rejected (R41, R75 to R80, R107, R144). -/
def Sys2Proof.Machine.PlanBuildsEnd : Prop :=
  ∀ (s : State) (r : BuildResult) (pl : Plan) (old : Plan) (new : Plan) (pkg : Package) (chk : Nat) (det : Nat),
    let starting := (s.m.mgmtUp = true ∧ s.m.st = xPlanning ∧ s.m.exec.startType.isSome = true ∧ s.m.activePkg = some pkg)
    let asked := (s.m.mgmtUp = true ∧ s.m.exec.startType = none ∧ (s.m.get F.PLAN_STATUS_STATE = 1 ∨ s.m.get F.PLAN_STATUS_STATE = 2) ∧ s.m.plan.sent = some pkg)
    let moving := (s.m.mgmtUp = true ∧ s.m.plan.replan = true ∧ s.m.st = xRun ∧ (s.m.get F.PLAN_STATUS_STATE = 0 ∨ s.m.get F.PLAN_STATUS_STATE = 5) ∧ s.m.activePkg = some pkg ∧ s.m.plan.active = some old)
    regsWf s.m.regs = true →
    (starting → s.m.planResult pkg r = true → s.m.checked r = .plan pl → Does (.planBuildComplete r) s fun m => m.activeSlot = some pl ∧ m.candSlot = s.m.candSlot ∧ m.get F.PLAN_STATUS_PROGRESS = 100 ∧ m.plan = { s.m.plan with slots := m.plan.slots } ∧ Only [.plan] [F.PLAN_STATUS_PROGRESS] s.m m) ∧
    (starting → s.m.planResult pkg r = true → s.m.checked r = .failed chk det → Does (.planBuildComplete r) s fun m => m.st = xBit ∧ m.get F.EXEC_STATE_PREV = xPlanning ∧ m.get F.PLAN_ERROR_CHECK = chk % 2 ^ F.PLAN_ERROR_CHECK.width ∧ m.get F.PLAN_ERROR_DETAIL = det % 2 ^ F.PLAN_ERROR_DETAIL.width ∧ m.exec = { s.m.exec with startType := none } ∧ m.bit.pc = 0 ∧ m.bit.inCycle = false ∧ m.bit.flags = 0 ∧ Only [.bit, .exec, .logs, .outs, .pwr, .sw] [F.PLAN_ERROR_CHECK, F.PLAN_ERROR_DETAIL, F.EXEC_STATE_STATE, F.EXEC_STATE_PREV, F.EXEC_BIT_RUNNING, F.EXEC_BIT_VALID, F.EXEC_BIT_CYCLE, F.EXEC_BIT_WORDS, F.LOG_STATUS_WAB_FULL] s.m m) ∧
    (asked → s.m.plan.image = some pl → pl.plannerVer = s.m.get F.KEY_FW_VER_VERSION → pl.verify s.m.sysId = none → Does (.planBuildComplete r) s fun m => CandStored s.m m pl ∧ m.plan.sent = none ∧ m.plan.image = none ∧ (if s.m.flag F.PLAN_STATUS_ACTIVE_SLOT then m.plan.pkgs[0] else m.plan.pkgs[1]) = some pkg ∧ Only [.plan] candRegs s.m m) ∧
    (asked → s.m.plan.image = some pl → pl.plannerVer = s.m.get F.KEY_FW_VER_VERSION → pl.verify s.m.sysId = some (chk, det) → Does (.planBuildComplete r) s fun m => m.get F.PLAN_STATUS_STATE = 5 ∧ m.get F.PLAN_ERROR_CHECK = chk % 2 ^ F.PLAN_ERROR_CHECK.width ∧ m.get F.PLAN_ERROR_DETAIL = det % 2 ^ F.PLAN_ERROR_DETAIL.width ∧ m.plan = { s.m.plan with sent := none, image := none } ∧ Logs s.m m .planRejected 0 [] ∧ Only [.logs, .plan] [F.PLAN_STATUS_STATE, F.PLAN_ERROR_CHECK, F.PLAN_ERROR_DETAIL, F.LOG_STATUS_WAB_FULL] s.m m) ∧
    (asked → ((s.m.plan.image = none ∨ (s.m.plan.image = some new ∧ new.plannerVer ≠ s.m.get F.KEY_FW_VER_VERSION))) → s.m.planResult pkg r = true → s.m.checked r = .plan pl → Does (.planBuildComplete r) s fun m => CandStored s.m m pl ∧ (if s.m.flag F.PLAN_STATUS_ACTIVE_SLOT then m.plan.pkgs[0] else m.plan.pkgs[1]) = some pkg ∧ (if s.m.plan.image.isSome then Logs s.m m .planRebuilt 0 [] else m.logs = s.m.logs) ∧ Only [.logs, .plan] ([F.LOG_STATUS_WAB_FULL] ++ candRegs) s.m m) ∧
    (asked → ((s.m.plan.image = none ∨ (s.m.plan.image = some new ∧ new.plannerVer ≠ s.m.get F.KEY_FW_VER_VERSION))) → s.m.planResult pkg r = true → s.m.checked r = .failed chk det → Does (.planBuildComplete r) s fun m => m.get F.PLAN_STATUS_STATE = 5 ∧ m.get F.PLAN_ERROR_CHECK = chk % 2 ^ F.PLAN_ERROR_CHECK.width ∧ m.get F.PLAN_ERROR_DETAIL = det % 2 ^ F.PLAN_ERROR_DETAIL.width ∧ m.plan = { s.m.plan with sent := none, image := none } ∧ Logs s.m m .planRejected 0 [] ∧ Only [.logs, .plan] [F.PLAN_STATUS_STATE, F.PLAN_ERROR_CHECK, F.PLAN_ERROR_DETAIL, F.LOG_STATUS_WAB_FULL] s.m m) ∧
    (moving → s.m.planResult pkg r = true → s.m.checked r = .plan pl → onlineOk old pl = true → pl.safetyDiff = false → Does (.planBuildComplete r) s fun m => m.get F.PLAN_STATUS_STATE = 4 ∧ m.cand = some pl ∧ m.plan.armed = some ((s.m.clk.ns + 2999999999) / 1000000000) ∧ (if s.m.flag F.DRUM_STATUS_BANK then m.plan.drumA else m.plan.drumB) = pl.drum ∧ m.plan.active = some old ∧ m.plan.replan = false ∧ Only [.plan, .twin] ([F.PLAN_SWAP_SEC_SEC] ++ candRegs) s.m m) ∧
    (moving → s.m.planResult pkg r = true → s.m.checked r = .plan pl → onlineOk old pl = true → pl.safetyDiff = true → Does (.planBuildComplete r) s fun m => CandStored s.m m pl ∧ m.plan.armed = s.m.plan.armed ∧ m.plan.replan = false ∧ Only [.plan] candRegs s.m m) ∧
    (moving → s.m.planResult pkg r = true → ((s.m.checked r = .failed chk det ∨ (s.m.checked r = .plan pl ∧ onlineOk old pl = false))) → Does (.planBuildComplete r) s fun m => Logs s.m m .replanNoFit 0 [] ∧ m.plan = { s.m.plan with replan := false } ∧ Only [.plan, .logs] [F.LOG_STATUS_WAB_FULL] s.m m) ∧
    (((s.m.mgmtUp = false ∨ (s.m.st = xRun ∧ s.m.plan.replan = false ∧ s.m.get F.PLAN_STATUS_STATE ≠ 1 ∧ s.m.get F.PLAN_STATUS_STATE ≠ 2))) → exec (.planBuildComplete r) s = .next s) ∧
    (starting → s.m.planResult pkg r = false → exec (.planBuildComplete r) s = .next s)

/-- The swap window migrates, defers or cancels, and the swap makes the candidate the active plan (R81 to R86). -/
def Sys2Proof.Machine.SwapsHappen : Prop :=
  ∀ (s : State) (sec : Nat) (old : Plan) (new : Plan),
    let swapAt := (sec * 1000000000 - 250000)
    let waits := (faultedCount s.m.mem.dir ≠ 0 ∨ (s.m.get F.TWIN_STATUS_MODE ≠ 0 ∧ s.m.pwr.bar ≠ 0 ∧ s.m.twin.confirmed ≠ some sec) ∨ s.m.clk.stepPending.isSome = true)
    let sources := ((migTiles old new).flatMap (migSources old new)).eraseDups
    let armedNow := (s.m.plan.armed = some sec ∧ s.m.cand = some new ∧ s.m.plan.active = some old ∧ s.m.running = true ∧ s.m.clk.run = true)
    regsWf s.m.regs = true →
    (armedNow → s.m.plan.migrated = false → s.m.clk.ns ≤ swapAt → ¬ waits → tilesSound s.m 9 sources = true → Does .swapWindowOpen s fun m => m.plan = { s.m.plan with migrated := true } ∧ m.clk = (s.m.reach swapAt).clk ∧ (∀ u : Fin 8192, ((migTiles old new).map (·.tile)).contains u.val = false → m.tileBytes u.val = s.m.tileBytes u.val) ∧ Only [.clk, .mem, .plan] [] s.m m) ∧
    (armedNow → s.m.plan.migrated = false → s.m.clk.ns ≤ swapAt → waits → s.m.plan.deferred < 9 → Does .swapWindowOpen s fun m => m.plan = { s.m.plan with armed := some (sec + 1), deferred := s.m.plan.deferred + 1 } ∧ m.flag F.PLAN_STATUS_DEFERRED = true ∧ m.get F.PLAN_SWAP_SEC_SEC = (sec + 1) % 2 ^ 32 ∧ m.get F.PLAN_SWAPS_DEFERRALS = satNat F.PLAN_SWAPS_DEFERRALS.width (s.m.get F.PLAN_SWAPS_DEFERRALS + 1) ∧ m.clk = (s.m.reach swapAt).clk ∧ Logs s.m m .swapDeferred 0 [] ∧ Only [.clk, .plan, .logs] [F.PLAN_STATUS_DEFERRED, F.PLAN_SWAP_SEC_SEC, F.PLAN_SWAPS_DEFERRALS, F.LOG_STATUS_WAB_FULL] s.m m) ∧
    (armedNow → s.m.plan.migrated = false → s.m.clk.ns ≤ swapAt → waits → 9 ≤ s.m.plan.deferred → Does .swapWindowOpen s fun m => m.plan = { s.m.plan with armed := none, armSafe := none, deferred := 0, newDone := false } ∧ m.get F.PLAN_STATUS_STATE = 3 ∧ m.flag F.PLAN_STATUS_CANCELLED = true ∧ m.clk = (s.m.reach swapAt).clk ∧ Only [.clk, .plan, .logs] [F.PLAN_STATUS_DEFERRED, F.PLAN_STATUS_STATE, F.PLAN_STATUS_CANCELLED, F.PLAN_SWAPS_DEFERRALS, F.LOG_STATUS_WAB_FULL] s.m m) ∧
    (((s.m.plan.armed = none ∨ s.m.running = false ∨ s.m.plan.migrated = true ∨ (s.m.plan.armed = some sec ∧ swapAt < s.m.clk.ns))) → exec .swapWindowOpen s = .next s) ∧
    (armedNow → s.m.plan.migrated = true → s.m.clk.ns ≤ sec * 1000000000 → imageOk old = true → imageOk new = true → Does .planSwap s fun m => m.plan.active = some new ∧ m.plan.armed = none ∧ m.plan.armRecord = true ∧ m.plan.migrated = false ∧ m.plan.newDone = false ∧ m.plan.replan = false ∧ m.plan.swapped = some (sec * 1000000000) ∧ m.st = s.m.st ∧ m.clk.ns = sec * 1000000000 ∧ m.flag F.DRUM_STATUS_BANK = !s.m.flag F.DRUM_STATUS_BANK ∧ m.drum = new.drum ∧ m.orpor.sessions.all (fun q => q.2.scope == 0 || new.scopes.any (fun d => d.scope == q.2.scope)) = true ∧ Within swapParts (swapRanges [old, new]) s.m m) ∧
    (((s.m.plan.armed = none ∨ s.m.running = false ∨ s.m.plan.migrated = false ∨ (s.m.plan.armed = some sec ∧ sec * 1000000000 < s.m.clk.ns))) → exec .planSwap s = .next s)

/-- O58. For every state with a canonical register file: the supervisor resets PD3 alone, the plan and the data path go on; without a heartbeat the module restarts hard with cause 8. After DELAY in STOPPED the auto-restart makes cause 4 by its policy. At S the module enters RUN, or STANDBY where the peer holds the bar; outputs nobody drives become safe. A service session's timeout leaves SERVICE. A snapshot starts in the older slot. The planner's plan is stored for the start, as candidate, or armed in place of a suspect bank; a failed one is rejected with check and detail. The swap window migrates, or defers to the next second, the tenth time cancels; at S the new plan is active, its Drum bank runs and sessions of scopes that are gone close. Where an event's condition does not hold nothing changes. (R41, R74, R75, R76, R81, R84, R100, R103, R107, R113, R117, R119) -/
def Obligations.ManagementRestartsSnapshotsAndSwaps : Prop :=
  (∀ (s : State) (t : Nat) (due : Nat) (sec : Nat) (pl : Plan) (x : Sess),
    let sa := (if s.m.retain[0].ok then s.m.retain[0].seq else 0)
    let sb := (if s.m.retain[1].ok then s.m.retain[1].seq else 0)
    let win := (s.m.st = xRun ∧ 999750000 ≤ s.m.clk.ns % 1000000000 ∧ (s.m.clk.ns / 1000000000 + 1) % retainPeriod (s.m.get F.EXEC_RETAIN_CFG_PERIOD) = 0 ∧ s.m.plan.armed ≠ some (s.m.clk.ns / 1000000000 + 1) ∧ s.m.clk.stepPending = none ∧ s.m.mgmtUp = true ∧ s.m.flag F.EXEC_RETAIN_WRITING = false)
    let begins := (s.m.inBit = true ∧ s.m.clk.run = true ∧ t % 1000000000 = 0 ∧ max due s.m.clk.ns ≤ t ∧ t < max due s.m.clk.ns + 1000000000)
    regsWf s.m.regs = true →
    (s.m.isOn (swPd 3) = true → xBit ≤ s.m.st → s.m.plan.active.toList.all imageOk = true → Does .mgmtSupervisor s fun m => m.st = s.m.st ∧ m.exec = { s.m.exec with serviceSession := none, heartbeat := false } ∧ m.orpor = {} ∧ m.mem = { s.m.mem with writes := [], before := [] } ∧ m.plan.active = s.m.plan.active ∧ m.plan.armed = none ∧ m.plan.drumA = s.m.plan.drumA ∧ m.plan.drumB = s.m.plan.drumB ∧ m.get F.PLAN_STATUS_STATE = 0 ∧ m.get F.DRUM_STATUS_BANK = s.m.get F.DRUM_STATUS_BANK ∧ (s.m.plan.armed = none → Logs s.m m .mgmtSupervisor 0 []) ∧ Within mgmtParts (mgmtRanges) s.m m) ∧
    (((s.m.isOn (swPd 3) = false ∨ s.m.st < xBit)) → exec .mgmtSupervisor s = .next s) ∧
    (s.m.exec.heartbeat = false → xBit ≤ s.m.st → s.m.pwr.saving = false → Does .supervisorRestart s fun m => HardRestarts s.m m 8 ∧ Within hardParts (hardRanges) s.m m) ∧
    (((s.m.exec.heartbeat = true ∨ s.m.st < xBit)) → exec .supervisorRestart s = .next s) ∧
    (s.m.exec.autoAt = some due → s.m.st = xStopped → due ≤ s.m.optime → s.m.pwr.tcxoBad = false → s.m.policy 4 ≠ 2 → s.m.plan.active = some pl → imageOk pl = true → Does .autoRestart s fun m => m.st = xBit ∧ m.get F.EXEC_STATE_CAUSE = 4 ∧ m.plan.active = some pl ∧ m.plan.armed = none ∧ m.exec.autoTimes = s.m.autoRecent ++ [s.m.optime] ∧ (s.m.policy 4 = 1 → m.get F.EXEC_STATE_RESTART = 2) ∧ (∀ l : Fin 8, (m.lanes[l]).phase = .idle) ∧ Within restartParts (restartRanges [pl]) s.m m) ∧
    (s.m.exec.autoAt = some due → s.m.st = xStopped → due ≤ s.m.optime → s.m.pwr.tcxoBad = false → s.m.policy 4 = 2 → Does .autoRestart s fun m => m.st = xBit ∧ m.get F.EXEC_STATE_CAUSE = 4 ∧ m.get F.EXEC_STATE_RESTART = 3 ∧ m.plan.active = s.m.plan.active ∧ m.plan.armed = none ∧ Within restartParts (restartRanges []) s.m m) ∧
    (((s.m.exec.autoAt = none ∨ s.m.st ≠ xStopped ∨ s.m.pwr.tcxoBad = true ∨ (s.m.exec.autoAt = some due ∧ s.m.optime < due))) → exec .autoRestart s = .next s) ∧
    (s.m.exec.restartDue = some due → s.m.plan.active = some pl → begins → ((pl.shadow = false ∨ (s.m.pwr.bar ≠ 2 ∧ (s.m.flag F.TWIN_STATUS_SIDE = false ∨ s.m.twin.paired = false)))) → Does (.enterRun t) s fun m => m.st = xRun ∧ m.get F.EXEC_STATE_PREV = s.m.st ∧ m.clk.ns = t ∧ m.exec = { s.m.exec with restartDue := none, waitPeer := false } ∧ m.flag F.EXEC_BIT_RUNNING = false ∧ m.jack.enabled = true ∧ m.flag F.JACK_STATUS_EN = true ∧ (pl.shadow = true → m.flag F.TWIN_STATUS_HOLDS_BAR = true ∧ m.flag F.TWIN_BAR_OWN_LINE = true) ∧ (∀ o : Fin 48, (pl.launched ++ pl.loopOuts).contains o.val = false → bitAt (m.outs[o]).req 3 = !pl.jackOuts.contains o.val ∧ bitAt (m.outs[o]).req 0 = false) ∧ Only [.bit, .clk, .exec, .fio, .jack, .logs, .orpor, .outs, .ports] ([F.EXEC_BIT_RUNNING, F.TWIN_STATUS_SPLIT, F.TWIN_STATUS_SELFTEST] ++ barChange) s.m m) ∧
    (s.m.exec.restartDue = some due → s.m.plan.active = some pl → begins → pl.shadow = true → ((s.m.pwr.bar = 2 ∨ (s.m.flag F.TWIN_STATUS_SIDE = true ∧ s.m.twin.paired = true))) → Does (.enterRun t) s fun m => m.st = xStandby ∧ m.get F.EXEC_STATE_PREV = s.m.st ∧ m.clk.ns = t ∧ m.exec = { s.m.exec with restartDue := none, waitPeer := false } ∧ m.flag F.TWIN_STATUS_IN_STEP = false ∧ m.get F.TWIN_STATUS_JOIN = 1 ∧ m.twin.takePending = false ∧ (∀ o : Fin 48, (m.outs[o]).bit = none) ∧ Only [.bit, .clk, .exec, .outs, .twin] [F.EXEC_STATE_STATE, F.EXEC_STATE_PREV, F.EXEC_BIT_RUNNING, F.TWIN_STATUS_IN_STEP, F.TWIN_STATUS_SELFTEST, F.TWIN_STATUS_JOIN] s.m m) ∧
    (((s.m.exec.restartDue = none ∨ s.m.plan.active = none ∨ s.m.inBit = false ∨ t % 1000000000 ≠ 0)) → exec (.enterRun t) s = .next s) ∧
    (s.m.st = xService → ((s.m.exec.serviceSession.bind s.m.sess = none ∨ (s.m.exec.serviceSession.bind s.m.sess = some x ∧ x.lastAt + 900000 ≤ s.m.optime))) → Does .serviceTimeout s fun m => m.st = xStopped ∧ m.get F.EXEC_STATE_PREV = xService ∧ m.exec = { s.m.exec with serviceSession := none } ∧ (∀ o : Fin 48, m.outs[o] = { s.m.outs[o] with test := none }) ∧ Only [.exec, .outs] [F.EXEC_STATE_STATE, F.EXEC_STATE_PREV] s.m m) ∧
    (((s.m.st ≠ xService ∨ (s.m.exec.serviceSession.bind s.m.sess = some x ∧ s.m.optime < x.lastAt + 900000))) → exec .serviceTimeout s = .next s) ∧
    (win → s.m.plan.active = some pl → tilesSound s.m 9 pl.retainTiles = true → sa ≤ sb → Does .retainSnapshot s fun m => m.retain[0] = { seq := sb + 1, plan := pl.id, sec := s.m.clk.ns / 1000000000, optime := s.m.optime, recs := pl.retainKeys.filterMap (s.m.retainRec ((s.m.masterLoads 9 pl.retainTiles).2.getD []) pl), ok := false, writing := true } ∧ m.retain[1] = s.m.retain[1] ∧ m.flag F.EXEC_RETAIN_WRITING = true ∧ Only [.retain] [F.EXEC_RETAIN_NEWER, F.EXEC_RETAIN_VALID_A, F.EXEC_RETAIN_VALID_B, F.EXEC_RETAIN_WRITING] s.m m) ∧
    (win → s.m.plan.active = some pl → tilesSound s.m 9 pl.retainTiles = true → sb < sa → Does .retainSnapshot s fun m => m.retain[1] = { seq := sa + 1, plan := pl.id, sec := s.m.clk.ns / 1000000000, optime := s.m.optime, recs := pl.retainKeys.filterMap (s.m.retainRec ((s.m.masterLoads 9 pl.retainTiles).2.getD []) pl), ok := false, writing := true } ∧ m.retain[0] = s.m.retain[0] ∧ m.flag F.EXEC_RETAIN_WRITING = true ∧ Only [.retain] [F.EXEC_RETAIN_NEWER, F.EXEC_RETAIN_VALID_A, F.EXEC_RETAIN_VALID_B, F.EXEC_RETAIN_WRITING] s.m m) ∧
    (((s.m.st ≠ xRun ∨ s.m.plan.active = none ∨ s.m.mgmtUp = false ∨ s.m.clk.ns % 1000000000 < 999750000 ∨ s.m.clk.stepPending.isSome = true ∨ s.m.flag F.EXEC_RETAIN_WRITING = true ∨ s.m.plan.armed = some (s.m.clk.ns / 1000000000 + 1))) → exec .retainSnapshot s = .next s)) ∧
  PlanBuildsEnd ∧ SwapsHappen

/-- O59. For every state with a canonical register file: VIN above 17.5 V with PD1 off is shown with the pins; the ready hold-up store asks for PD1 and PD2 with the cause POWER_ON. A domain whose power is good becomes usable with its PLL and counts one switch-on; a disable latched meanwhile starts its shutdown. The stable TCXO makes PD2 usable and building time starts from the RTC; with causes waiting BOOT begins, which merges them and shows the lowest. Verified firmware leaves BOOT for BIT or PLANNING; the armed plan of the active slot is loaded. A domain without power-good is off, counted and logged, in BOOT it waits for the retry, and lanes needed for a burst make overrun 3. A shutdown ends in off with the domain's registers at reset. A pending request executes 50 µs after off. The pool's clearing makes PD14 usable. RESET_N low restarts hard, its release begins BOOT. (R46, R113, R150, R319, R463, R465, R469, R471, R472, R476, R477, R478) -/
def Obligations.SuppliesAndDomainsStartTheModule : Prop :=
  ∀ (s : State) (vin : BitVec 16) (scap : BitVec 16) (vbat : BitVec 16) (pins : Pins) (d : Fin 15) (f : Fin 31) (ty : Nat) (pl : Plan) (b : BurstSt),
    let w := (s.m.sw[f])
    let ready := (s.m.pwr.causes ≠ 0 ∧ s.m.pwr.saving = false ∧ s.m.flag F.PWR_STATUS_VIN_OK = true)
    let due := (w.ph = .off ∧ w.pendOn = true ∧ (w.offAt = none ∨ s.m.clk.run = false ∨ w.offAt = some ty ∧ ty + 1250 ≤ s.m.clk.mono))
    let noBurst := (s.m.exec.burst = none ∨ s.m.unfinished = 0 ∨ (d.val ≠ 4 ∧ d.val ≠ 5 ∧ d.val ≠ 6))
    regsWf s.m.regs = true →
    (17500 < vin.toNat → s.m.pdPh 1 = .off → Does (.vinValid vin pins) s fun m => m.pwr = { s.m.pwr with pins := pins } ∧ m.flag F.PWR_STATUS_VIN_OK = true ∧ m.get F.PWR_VIN_MV = vin.toNat ∧ m.get F.PWR_STATUS_BACKUP_SRC = 0 ∧ Only [.pwr] [F.PWR_STATUS_VIN_OK, F.PWR_VIN_MV, F.PWR_STATUS_BACKUP_SRC] s.m m) ∧
    (((vin.toNat ≤ 17500 ∨ s.m.pdPh 1 ≠ .off)) → exec (.vinValid vin pins) s = .next s) ∧
    (s.m.flag F.PWR_STATUS_VIN_OK = true → s.m.pdPh 1 = .off → Does .holdupReady s fun m => m.flag F.PWR_STATUS_HOLDUP_READY = true ∧ m.pwr = { s.m.pwr with causes := s.m.pwr.causes ||| 1, want := putBits (putBits s.m.pwr.want 1 1 1) 2 1 1 } ∧ Only [.pwr, .sw] [F.PWR_STATUS_HOLDUP_READY] s.m m) ∧
    (((s.m.flag F.PWR_STATUS_VIN_OK = false ∨ s.m.pdPh 1 ≠ .off)) → exec .holdupReady s = .next s) ∧
    (s.m.pdPh d.val = .powering → (s.m.sw[swPd d]).pendOff = false → s.m.pdWant d.val = true → s.m.pwr.causes = 0 → s.m.exec.burst = none → ((d.val ≠ 3 ∨ s.m.st ≠ xBoot)) → Does (.domainPowerGood d) s fun m => m.isOn (swPd d) = true ∧ (∀ p, pdPll d.val = some p → m.isOn p = true) ∧ m.get (F.PWR_DOMAIN_ONS_COUNT d.val) = (s.m.get (F.PWR_DOMAIN_ONS_COUNT d.val) + 1) % 2 ^ 32 ∧ bitAt m.pwr.fresh d.val = true ∧ Within [.exec, .outs, .pwr, .sw] (pdRange d.val ++ [(0x01000, 0x02000)]) s.m m) ∧
    (s.m.pdPh d.val = .powering → (s.m.sw[swPd d]).pendOff = true → s.m.pdWant d.val = false → s.m.pwr.causes = 0 → s.m.exec.burst = none → ((d.val ≠ 3 ∨ s.m.st ≠ xBoot)) → Does (.domainPowerGood d) s fun m => m.pdPh d.val = .shutting ∧ m.get (F.PWR_DOMAIN_ONS_COUNT d.val) = (s.m.get (F.PWR_DOMAIN_ONS_COUNT d.val) + 1) % 2 ^ 32 ∧ Within [.exec, .outs, .pwr, .sw] (pdRange d.val ++ [(0x01000, 0x02000)]) s.m m) ∧
    (d.val = 3 → s.m.pdPh 3 = .powering → s.m.st = xBoot → s.m.pdWant 3 = true → (s.m.sw[swPd 3]).pendOff = false → s.m.pwr.causes = 0 → s.m.exec.burst = none → s.m.pwr.sampled.recovery = true → Does (.domainPowerGood d) s fun m => m.st = xRecovery ∧ m.isOn (swPd 3) = true ∧ m.orpor.sessions = recoverySess ∧ m.pdWant 8 = false ∧ m.pdWant 9 = false ∧ bitAt m.pwr.want 11 = true ∧ Within [.clk, .exec, .fio, .jack, .key, .logs, .loops, .mem, .met, .orpor, .outs, .plan, .pool, .ports, .pwr, .safe, .sw, .tests, .twin, .upl] ([3, 8, 9].flatMap pdRange ++ [(0x01000, 0x02000), (0x04000, 0x07000), (0x14000, 0x15000)]) s.m m) ∧
    (s.m.pdPh d.val ≠ .powering → exec (.domainPowerGood d) s = .next s) ∧
    (s.m.clk.run = false → s.m.pwr.tcxoBad = false → s.m.pdWant 2 = true → s.m.isOn (swPd 1) = true → Does .tcxoStable s fun m => m.clk = { s.m.clk with run := true, ns := m.rtcStart, frac := 0, res := 0 } ∧ m.rtc = { s.m.rtc with sub := m.rtc.sub } ∧ s.m.rtc.sub ≤ m.rtc.sub ∧ (s.m.rtc.run = false → m.rtc = s.m.rtc) ∧ m.isOn (swPd 2) = true ∧ m.isOn swTcxo = true ∧ (ready → s.m.pwr.resetLow = false → m.st = xBoot ∧ BootBegun m s.m.pwr.causes ∧ m.pwr.sampled = s.m.pwr.pins) ∧ Within [.clk, .freeCtr, .pwr, .rtc, .sw] ([(0x01000, 0x02000), (0x14000, 0x15000)]) s.m m) ∧
    (((s.m.clk.run = true ∨ s.m.pwr.tcxoBad = true ∨ s.m.pdWant 2 = false ∨ s.m.isOn (swPd 1) = false)) → exec .tcxoStable s = .next s) ∧
    (s.m.st = xBoot → s.m.pwr.bootWait = [] → s.m.pwr.resetLow = false → s.m.pdWant 3 = true → s.m.pdPh 3 = .on → Does (.firmwareVerified scap vbat) s fun m => (m.st = xBit ∨ m.st = xPlanning) ∧ (m.st = xPlanning → m.exec.startType.isSome = true) ∧ m.exec.heartbeat = true ∧ m.pwr.fresh = 0 ∧ m.pwr.saveOpen = false ∧ m.flag F.NVM_STATUS_FLASH_OK = true ∧ m.flag F.NVM_STATUS_FERAM_OK = true ∧ (s.m.pwr.saveOpen = true → m.flag F.PWR_STATUS_SAVE_SHORT = true) ∧ (scap.toNat < 2000 ∨ 1000 < vbat.toNat ∧ vbat.toNat < 2500 → m.flag F.PWR_STATUS_BACKUP_LOW = true) ∧ Within bootParts (bootRanges) s.m m) ∧
    (xBit ≤ s.m.st → s.m.isOn (swPd 3) = true → bitAt s.m.pwr.unlocked 1 = false → Does (.firmwareVerified scap vbat) s fun m => m.exec = { s.m.exec with heartbeat := true } ∧ Only [.exec] [] s.m m) ∧
    (s.m.st = xBoot → ((s.m.pwr.bootWait ≠ [] ∨ s.m.pwr.resetLow = true ∨ s.m.pdWant 3 = false)) → exec (.firmwareVerified scap vbat) s = .next s) ∧
    (s.m.st ≠ xBoot → ((s.m.st < xBit ∨ s.m.isOn (swPd 3) = false ∨ bitAt s.m.pwr.unlocked 1 = true)) → exec (.firmwareVerified scap vbat) s = .next s) ∧
    (s.m.exec.startType = some ty → s.m.activeSlot = some pl → s.m.inBit = true → s.m.mgmtUp = true → s.m.planUsable pl = true → imageOk pl = true → Does .planArmed s fun m => m.plan.active = some pl ∧ m.exec.startType = none ∧ m.st = s.m.st ∧ m.flag F.EXEC_STATE_NOPLAN = false ∧ m.key.proven = true ∧ (ty ≠ 0 → m.get F.EXEC_STATE_RESTART = 2) ∧ (∀ l : Fin 8, (m.lanes[l]).phase = .idle ∧ (m.lanes[l]).todo = []) ∧ Within restartParts (restartRanges [pl] ++ [(0x01000, 0x02000)]) s.m m) ∧
    (((s.m.exec.startType = none ∨ s.m.activeSlot = none ∨ s.m.inBit = false ∨ s.m.mgmtUp = false)) → exec .planArmed s = .next s) ∧
    (s.m.pdPh d.val = .powering → s.m.swPast (swPd d) (faultTime d.val) = true → s.m.st = xBoot → Does (.domainFault d) s fun m => m.pdPh d.val = .off ∧ m.flag (F.PWR_DOMAIN_STATUS_FAULT d.val) = true ∧ m.get (F.PWR_DOMAIN_FAULTS_COUNT d.val) = satNat 16 (s.m.get (F.PWR_DOMAIN_FAULTS_COUNT d.val) + 1) ∧ m.pdWant d.val = false ∧ m.pwr.bootWait.contains d.val = true ∧ m.pwr.want = s.m.pwr.want ∧ Logs s.m m .domainFault d.val (leBytes 1 0) ∧ Only [.logs, .pwr, .sw] [F.PWR_DOMAIN_STATUS_FAULT d.val, F.PWR_DOMAIN_FAULTS_COUNT d.val, F.LOG_STATUS_WAB_FULL] s.m m) ∧
    (s.m.pdPh d.val = .powering → s.m.swPast (swPd d) (faultTime d.val) = true → s.m.st ≠ xBoot → noBurst → Does (.domainFault d) s fun m => m.pdPh d.val = .off ∧ m.flag (F.PWR_DOMAIN_STATUS_FAULT d.val) = true ∧ m.get (F.PWR_DOMAIN_FAULTS_COUNT d.val) = satNat 16 (s.m.get (F.PWR_DOMAIN_FAULTS_COUNT d.val) + 1) ∧ m.pwr = { s.m.pwr with want := putBits s.m.pwr.want d.val 1 0 } ∧ Logs s.m m .domainFault d.val (leBytes 1 0) ∧ Only [.logs, .pwr, .sw] [F.PWR_DOMAIN_STATUS_FAULT d.val, F.PWR_DOMAIN_FAULTS_COUNT d.val, F.LOG_STATUS_WAB_FULL] s.m m) ∧
    (s.m.pdPh d.val = .powering → s.m.swPast (swPd d) (faultTime d.val) = true → ((s.m.st = xRun ∨ s.m.st = xStandby)) → s.m.exec.burst = some b → s.m.unfinished ≠ 0 → ((d.val = 4 ∨ d.val = 5 ∨ d.val = 6)) → Does (.domainFault d) s fun m => m.pdPh d.val = .off ∧ OverrunShown s.m m 3 (s.m.shortest b.mask) (b.seq % 65536) (s.m.unfinished % 256) ∧ Stops s.m m ∧ Only ([.pwr, .sw] ++ stopParts) ([F.PWR_DOMAIN_STATUS_FAULT d.val, F.PWR_DOMAIN_FAULTS_COUNT d.val] ++ overrunRegs) s.m m) ∧
    (((s.m.pdPh d.val ≠ .powering ∨ s.m.swPast (swPd d) (faultTime d.val) = false)) → exec (.domainFault d) s = .next s) ∧
    (s.m.st = xBoot → Does .bootDomainRetry s fun m => m.pwr = { s.m.pwr with bootWait := m.pwr.bootWait } ∧ (∀ e : Nat, e < 15 → m.pwr.bootWait.contains e = (s.m.pwr.bootWait.contains e && s.m.clk.run && ((s.m.sw[swPd (Fin.ofNat 15 e)]).offAt).any (fun t => decide (s.m.clk.mono < t + 25000000)))) ∧ (∀ e : Fin 15, (s.m.sw[swPd e]).ph = .off → (s.m.sw[swPd e]).offAt = none → e.val ≠ 0 → bitAt s.m.pwr.want e.val = true → (pdNeeds e.val).all (fun n => s.m.pdPh n == .on && bitAt s.m.pwr.want n) = true → m.pdPh e.val = .powering) ∧ Only [.pwr, .sw] [] s.m m) ∧
    (s.m.st ≠ xBoot → exec .bootDomainRetry s = .next s) ∧
    (w.ph = .shutting → s.m.swPast f (offTime f.val) = true → 15 ≤ f.val → s.m.pwr.causes = 0 → Does (.domainShutdownDone f) s fun m => m.sw[f] = { w with ph := .off, offAt := some s.m.clk.mono } ∧ (∀ g : Fin 31, 15 ≤ g.val → g ≠ f → m.sw[g] = s.m.sw[g]) ∧ Only [.sw] [] s.m m) ∧
    (w.ph = .shutting → s.m.swPast f (offTime f.val) = true → f.val = d.val → s.m.pwr.causes = 0 → s.m.pdWant d.val = false → d.val ≠ 11 → d.val ≠ 12 → Does (.domainShutdownDone f) s fun m => m.pdPh d.val = .off ∧ (m.sw[f]).offAt = some s.m.clk.mono ∧ m.regs.all (fun r => pdOf r.1 != some d.val) = true ∧ Within lossParts (lossRanges [d.val]) s.m m) ∧
    (w.ph = .shutting → s.m.swPast f (offTime f.val) = true → f.val = d.val → s.m.pwr.causes = 0 → s.m.pdWant d.val = false → ((d.val = 11 ∨ d.val = 12)) → Does (.domainShutdownDone f) s fun m => m.pdPh d.val = .off ∧ (m.sw[f]).offAt = some s.m.clk.mono ∧ m.flag (F.UPL_STATUS_LINK (d.val - 11)) = false ∧ (m.src (uplSrc (Fin.ofNat 2 (d.val - 11)))).qual = false ∧ UplMarked s.m m ∧ Within ([.upl] ++ lossParts) (lossRanges [d.val] ++ pdRange 14) s.m m) ∧
    (((w.ph ≠ .shutting ∨ s.m.swPast f (offTime f.val) = false)) → exec (.domainShutdownDone f) s = .next s) ∧
    (due → Does (.pendingOnExecute f) s fun m => m.sw = s.m.sw.set f (if 21 ≤ f.val ∨ f = swPllM then { w with ph := if w.pendOff then .shutting else .on, pendOn := false, pendOff := false, since := s.m.clk.mono } else { w with ph := .powering, pendOn := false, since := s.m.clk.mono }) ∧ Only [.sw] [] s.m m) ∧
    (((w.ph ≠ .off ∨ w.pendOn = false ∨ (w.offAt = some ty ∧ s.m.clk.run = true ∧ s.m.clk.mono < ty + 1250))) → exec (.pendingOnExecute f) s = .next s) ∧
    (s.m.pdWant 14 = true → s.m.pdPh 14 = .powering → s.m.swPast (swPd 14) 10500 = true → Does .poolClearDone s fun m => m.isOn (swPd 14) = true ∧ m.get (F.PWR_DOMAIN_ONS_COUNT 14) = (s.m.get (F.PWR_DOMAIN_ONS_COUNT 14) + 1) % 2 ^ 32 ∧ bitAt m.pwr.fresh 14 = true ∧ Within [.pwr, .sw] (pdRange 14 ++ [(0x01000, 0x02000)]) s.m m) ∧
    (((s.m.pdWant 14 = false ∨ s.m.pdPh 14 ≠ .powering ∨ s.m.swPast (swPd 14) 10500 = false)) → exec .poolClearDone s = .next s) ∧
    (s.m.isOn (swPd 1) = true → s.m.flag F.PWR_STATUS_VIN_OK = false → Does .resetPin s fun m => m.pwr = { s.m.pwr with resetLow := true, causes := s.m.pwr.causes ||| 4 } ∧ Only [.pwr] [] s.m m) ∧
    (s.m.isOn (swPd 1) = true → s.m.flag F.PWR_STATUS_VIN_OK = true → s.m.pwr.saving = false → Does .resetPin s fun m => HardStops s.m m ∧ m.pwr.resetLow = true ∧ m.pwr.causes = s.m.pwr.causes ||| 4 ∧ Within hardParts (hardRanges) s.m m) ∧
    (s.m.isOn (swPd 1) = false → exec .resetPin s = .next s) ∧
    (s.m.pwr.causes = 0 → Does (.resetRelease pins) s fun m => m.pwr = { s.m.pwr with resetLow := false, pins := pins } ∧ Only [.pwr, .sw] [] s.m m) ∧
    (ready → s.m.pdWant 2 = true → s.m.isOn (swPd 2) = true → Does (.resetRelease pins) s fun m => m.st = xBoot ∧ BootBegun m s.m.pwr.causes ∧ m.pwr.resetLow = false ∧ m.pwr.sampled = pins ∧ Within [.freeCtr, .pwr, .sw] ([(0x14000, 0x15000)]) s.m m)

/-- O60. For every state with a canonical register file: the warning stops every output and lane, closes the sessions, switches the data path's domains off and opens the save, journals follow at its end, which notes duration, steps 0x7F and count and switches the storage domains off. VIN back during a save restarts hard with BROWNOUT at its end, after it at once. With the hold-up store exhausted every domain but PD0 is off, its registers are at reset, and what PD1 held is lost; an open save keeps the steps it had completed. A TCXO stop counts, is logged, leaves sync and in RUN or STANDBY is overrun 3; 1 s of good clock lets the waiting restart begin and counts the auto-restart's delay anew, 60 s without it restart hard with cause 8. A PLL's unlock counts, is logged once, and stops the samples, the links or the exchanges of its domain; relock ends it. (R99, R121, R223, R239, R463, R469, R474, R475, R483, R484, R485) -/
def Obligations.PowerFailSaveAndClockFaults : Prop :=
  ∀ (s : State) (vin : BitVec 16) (holdup : BitVec 16) (us : BitVec 16) (pins : Pins) (steps : BitVec 7) (p : Fin 5) (c : Nat) (ty : Nat) (pl : Plan) (b : BurstSt),
    let took := (satNat 16 ((s.m.clk.mono - s.m.pwr.warnAt) / 25))
    regsWf s.m.regs = true →
    (s.m.isOn (swPd 1) = true → s.m.flag F.PWR_STATUS_VIN_OK = true → s.m.pwr.saving = false → Does (.powerFailWarning vin holdup) s fun m => m.st = 0 ∧ m.get F.EXEC_STATE_PREV = s.m.st ∧ m.pwr.saving = true ∧ m.pwr.saveOpen = true ∧ m.pwr.saveSteps = 3 ∧ m.pwr.outageFrom = some s.m.optime ∧ m.pwr.warnAt = s.m.clk.mono ∧ m.key.activating = false ∧ (∀ i : Fin 8, (m.key.slots[i]).staged = none) ∧ UplMarked s.m m ∧ m.flag F.PWR_STATUS_VIN_OK = false ∧ m.flag F.PWR_STATUS_WARNED = true ∧ m.get F.PWR_VIN_MV = vin.toNat ∧ m.get F.PWR_SAVE_STEPS = 3 ∧ m.orpor.sessions = [] ∧ m.plan.active = none ∧ m.nvm.cut = s.m.nvm.jobs.head? ∧ m.nvm.jobs = [] ∧ m.flag F.MET_STATUS_RUN = false ∧ m.flag F.TWIN_BAR_OWN_LINE = false ∧ (∀ i : Fin 48, m.outs[i] = { req := s.m.outs[i].req &&& 16 }) ∧ (∀ d : Fin 15, [4, 5, 7, 10, 11, 12, 13].contains d.val = true → m.pdPh d.val = .off) ∧ Within ([.upl] ++ warnParts) (warnRanges) s.m m) ∧
    (((s.m.isOn (swPd 1) = false ∨ s.m.flag F.PWR_STATUS_VIN_OK = false ∨ s.m.pwr.saving = true)) → exec (.powerFailWarning vin holdup) s = .next s) ∧
    (s.m.pwr.saving = true → s.m.pwr.vinBack = false → ((s.m.pwr.causes = 0 ∨ s.m.flag F.PWR_STATUS_VIN_OK = false)) → Does (.saveDone holdup) s fun m => m.pwr.saving = false ∧ m.pwr.saveOpen = false ∧ m.pwr.saveSteps = 0 ∧ m.get F.PWR_SAVE_DURATION = took ∧ m.get F.PWR_SAVE_STEPS = 0x7F ∧ m.get F.PWR_SAVE_COUNT = satNat 8 (s.m.get F.PWR_SAVE_COUNT + 1) ∧ Logs s.m m .saveDone 0 (leBytes 2 took ++ leBytes 2 holdup.toNat) ∧ (∀ d : Fin 15, [3, 6, 8, 9, 14].contains d.val = true → m.pdPh d.val = .off) ∧ (s.m.isOn (swPd 8) = true → m.met.jrn = journalDone (journalPut s.m.met.jrn s.m.metJournal)) ∧ (s.m.isOn (swPd 9) = true → m.fio.cntJ = journalDone (journalPut s.m.fio.cntJ (s.m.fio.cnt.toList.map (·.count)))) ∧ Within ([.pwr] ++ lossParts) (lossRanges [3, 6, 8, 9, 14] ++ [(0x01000, 0x02000)]) s.m m) ∧
    (s.m.pwr.saving = true → s.m.pwr.vinBack = true → Does (.saveDone holdup) s fun m => HardStops s.m m ∧ (s.m.pwr.resetLow = false → s.m.isOn (swPd 2) = true → BootBegun m (s.m.pwr.causes ||| 2)) ∧ m.flag F.PWR_STATUS_VIN_OK = true ∧ m.pwr.saving = false ∧ m.get F.PWR_SAVE_STEPS = 0x7F ∧ m.get F.PWR_SAVE_DURATION = took ∧ Within hardParts (hardRanges ++ lossRanges [8, 9] ++ [(0x01000, 0x02000)]) s.m m) ∧
    (s.m.pwr.saving = false → exec (.saveDone holdup) s = .next s) ∧
    (s.m.isOn (swPd 1) = true → s.m.flag F.PWR_STATUS_VIN_OK = false → s.m.pwr.saving = true → Does (.vinReturn pins) s fun m => m.pwr = { s.m.pwr with pins := pins, vinBack := true } ∧ Only [.pwr] [] s.m m) ∧
    (s.m.isOn (swPd 1) = true → s.m.flag F.PWR_STATUS_VIN_OK = false → s.m.pwr.saving = false → Does (.vinReturn pins) s fun m => HardStops s.m m ∧ (s.m.pwr.resetLow = false → s.m.isOn (swPd 2) = true → BootBegun m (s.m.pwr.causes ||| 2) ∧ m.pwr.sampled = pins) ∧ m.flag F.PWR_STATUS_VIN_OK = true ∧ m.get F.PWR_STATUS_BACKUP_SRC = 0 ∧ Within hardParts (hardRanges ++ [(0x01000, 0x02000)]) s.m m) ∧
    (((s.m.isOn (swPd 1) = false ∨ s.m.flag F.PWR_STATUS_VIN_OK = true)) → exec (.vinReturn pins) s = .next s) ∧
    (s.m.pdPh 1 ≠ .off → s.m.flag F.PWR_STATUS_VIN_OK = false → s.m.pwr.saving = false → Does (.holdupExhausted steps) s fun m => OnLost s.m m ∧ m.pwr = { pins := s.m.pwr.pins, resetLow := s.m.pwr.resetLow, bar := s.m.pwr.bar, saveOpen := s.m.pwr.saveOpen, saveSteps := s.m.pwr.saveSteps } ∧ Within ([.freeCtr, .key, .nvm, .outs, .pwr, .upl] ++ lossParts) ((List.range 14).flatMap (fun d => pdRange (d + 1))) s.m m) ∧
    (s.m.pdPh 1 ≠ .off → s.m.flag F.PWR_STATUS_VIN_OK = false → s.m.pwr.saving = true → Does (.holdupExhausted steps) s fun m => OnLost s.m m ∧ m.pwr = { pins := s.m.pwr.pins, resetLow := s.m.pwr.resetLow, bar := s.m.pwr.bar, saveOpen := s.m.pwr.saveOpen, saveSteps := steps.toNat } ∧ Within ([.freeCtr, .key, .nvm, .outs, .pwr, .upl] ++ lossParts) ((List.range 14).flatMap (fun d => pdRange (d + 1))) s.m m) ∧
    (((s.m.pdPh 1 = .off ∨ s.m.flag F.PWR_STATUS_VIN_OK = true)) → exec (.holdupExhausted steps) s = .next s) ∧
    (s.m.clk.run = true → s.m.running = false → Does .tcxoFail s fun m => m.clk.run = false ∧ m.clk.ns = s.m.clk.ns ∧ m.pwr = { s.m.pwr with tcxoBad := true } ∧ m.isOn swTcxo = false ∧ m.get F.TIME_STATUS_STATE = syFree ∧ m.get F.CLK_FAULTS_TCXO_STOPS = satNat F.CLK_FAULTS_TCXO_STOPS.width (s.m.get F.CLK_FAULTS_TCXO_STOPS + 1) ∧ Only [.clk, .pwr, .sw, .logs] [F.CLK_FAULTS_TCXO_STOPS, F.TIME_STATUS_STATE, F.TIME_STATUS_SOURCE, F.LOG_STATUS_WAB_FULL] s.m m) ∧
    (s.m.clk.run = true → s.m.running = true → s.m.exec.burst = some b → Does .tcxoFail s fun m => OverrunShown s.m m 3 (s.m.shortest b.mask) (b.seq % 65536) (s.m.unfinished % 256) ∧ Stops s.m m ∧ m.clk.run = false ∧ m.pwr.tcxoBad = true ∧ Only ([.clk, .pwr, .sw] ++ stopParts) ([F.CLK_FAULTS_TCXO_STOPS, F.TIME_STATUS_STATE, F.TIME_STATUS_SOURCE] ++ overrunRegs) s.m m) ∧
    (s.m.clk.run = true → s.m.running = true → s.m.exec.burst = none → Does .tcxoFail s fun m => OverrunShown s.m m 3 0 0 0 ∧ Stops s.m m ∧ m.clk.run = false ∧ m.pwr.tcxoBad = true ∧ Only ([.clk, .pwr, .sw] ++ stopParts) ([F.CLK_FAULTS_TCXO_STOPS, F.TIME_STATUS_STATE, F.TIME_STATUS_SOURCE] ++ overrunRegs) s.m m) ∧
    (s.m.clk.run = false → exec .tcxoFail s = .next s) ∧
    (s.m.pwr.tcxoBad = true → s.m.exec.waitRestart = none → s.m.pwr.causes = 0 → Does .tcxoRecovered s fun m => m.clk = { s.m.clk with run := true } ∧ m.pwr = { s.m.pwr with tcxoBad := false } ∧ m.isOn swTcxo = true ∧ m.exec = { s.m.exec with autoAt := s.m.exec.autoAt.map (fun _ => s.m.optime + max 1 (s.m.get F.EXEC_AUTORST_DELAY) * 1000) } ∧ Only [.clk, .pwr, .exec, .sw] [] s.m m) ∧
    (s.m.pwr.tcxoBad = true → s.m.exec.waitRestart = some (c, ty) → c < 9 → c ≠ 7 → ty < 2 → s.m.plan.active = some pl → imageOk pl = true → Does .tcxoRecovered s fun m => m.st = xBit ∧ m.get F.EXEC_STATE_CAUSE = c ∧ m.plan.active = some pl ∧ m.exec.waitRestart = none ∧ m.clk.run = true ∧ m.pwr.tcxoBad = false ∧ (∀ l : Fin 8, (m.lanes[l]).phase = .idle) ∧ Within ([.clk] ++ restartParts) (restartRanges [pl]) s.m m) ∧
    (s.m.pwr.tcxoBad = true → s.m.exec.waitRestart = some (7, ty) → ty < 2 → s.m.candSlot = some pl → s.m.noPair = false → imageOk pl = true → s.m.plan.active.toList.all imageOk = true → Does .tcxoRecovered s fun m => m.st = xBit ∧ m.get F.EXEC_STATE_CAUSE = 7 ∧ m.plan.active = some pl ∧ m.exec.waitRestart = none ∧ m.clk.run = true ∧ m.pwr.tcxoBad = false ∧ m.flag F.PLAN_STATUS_ACTIVE_SLOT = !s.m.flag F.PLAN_STATUS_ACTIVE_SLOT ∧ (∀ l : Fin 8, (m.lanes[l]).phase = .idle) ∧ Within ([.clk] ++ restartParts) (restartRanges (pl :: s.m.plan.active.toList)) s.m m) ∧
    (s.m.pwr.tcxoBad = false → exec .tcxoRecovered s = .next s) ∧
    (s.m.pwr.tcxoBad = true → s.m.pwr.saving = false → Does .tcxoRecoveryTimeout s fun m => HardRestarts s.m m 8 ∧ Within hardParts (hardRanges) s.m m) ∧
    (s.m.pwr.tcxoBad = false → exec .tcxoRecoveryTimeout s = .next s) ∧
    (s.m.isOn (pllOf p) = true → bitAt s.m.pwr.unlocked p.val = false → p.val < 2 → Does (.pllUnlock p us) s fun m => m.pwr = { s.m.pwr with unlocked := s.m.pwr.unlocked ||| 2 ^ p.val } ∧ m.get F.CLK_FAULTS_UNLOCKS = satNat F.CLK_FAULTS_UNLOCKS.width (s.m.get F.CLK_FAULTS_UNLOCKS + 1) ∧ Logs s.m m .pllUnlock p.val (leBytes 2 us.toNat) ∧ Only [.pwr, .logs] [F.CLK_FAULTS_UNLOCKS, F.LOG_STATUS_WAB_FULL] s.m m) ∧
    (s.m.isOn (pllOf p) = true → bitAt s.m.pwr.unlocked p.val = false → p.val = 2 → Does (.pllUnlock p us) s fun m => m.flag F.MET_STATUS_RUN = false ∧ m.pwr = { s.m.pwr with unlocked := s.m.pwr.unlocked ||| 4 } ∧ Logs s.m m .pllUnlock 2 (leBytes 2 us.toNat) ∧ Only [.pwr, .logs] [F.CLK_FAULTS_UNLOCKS, F.MET_STATUS_RUN, F.LOG_STATUS_WAB_FULL] s.m m) ∧
    (s.m.isOn (pllOf p) = true → bitAt s.m.pwr.unlocked p.val = false → p.val = 3 → Does (.pllUnlock p us) s fun m => m.flag (F.UPL_STATUS_LINK 0) = false ∧ m.flag (F.UPL_STATUS_LINK 1) = false ∧ m.flag F.TWIN_LINK_LANE0 = false ∧ m.flag F.TWIN_LINK_LANE1 = false ∧ m.flag F.TWIN_STATUS_LINK_UP = false ∧ m.pwr = { s.m.pwr with unlocked := s.m.pwr.unlocked ||| 8 } ∧ UplMarked s.m m ∧ Within [.clk, .exec, .lanes, .logs, .orpor, .outs, .pool, .ports, .pwr, .twin, .upl] ([(0x02000, 0x03000), (0x06000, 0x07000), (0x14000, 0x15000), (0x70000, 0x71000), (0x78000, 0x79000), (0x80000, 0x81000)]) s.m m) ∧
    (s.m.isOn (pllOf p) = true → bitAt s.m.pwr.unlocked p.val = false → p.val = 4 → Does (.pllUnlock p us) s fun m => (∀ q : Fin 19, ((s.m.ports.port[q]).exch.bind (fun e => s.m.reqDef q e.req)).isSome = true → (m.ports.port[q]).exch = none) ∧ (∀ q : Fin 19, (m.ports.port[q]).queue = (s.m.ports.port[q]).queue.filter (fun f => f.entry.isNone)) ∧ m.pwr = { s.m.pwr with unlocked := s.m.pwr.unlocked ||| 16 } ∧ Logs s.m m .pllUnlock 4 (leBytes 2 us.toNat) ∧ Within [.logs, .ports, .pwr] ([(0x02000, 0x03000), (0x06000, 0x07000), (0x60000, 0x70000)]) s.m m) ∧
    (((s.m.isOn (pllOf p) = false ∨ bitAt s.m.pwr.unlocked p.val = true)) → exec (.pllUnlock p us) s = .next s) ∧
    (bitAt s.m.pwr.unlocked p.val = true → ((p.val ≠ 0 ∨ s.m.exec.late = false ∨ s.m.isOn swPllF = false)) → Does (.pllRelock p) s fun m => m.pwr = { s.m.pwr with unlocked := putBits s.m.pwr.unlocked p.val 1 0 } ∧ (p.val = 2 → s.m.isOn (swPd 8) = true → xBit ≤ s.m.st → m.flag F.MET_STATUS_RUN = true) ∧ (p.val ≠ 2 → m.regs = s.m.regs) ∧ Only [.pwr] [F.MET_STATUS_RUN] s.m m) ∧
    (p.val = 0 → bitAt s.m.pwr.unlocked 0 = true → s.m.exec.late = true → s.m.isOn swPllF = true → (List.finRange 8).all (fun l => (s.m.lanes[l]).todo.isEmpty) = true → Does (.pllRelock p) s fun m => m.pwr = { s.m.pwr with unlocked := putBits s.m.pwr.unlocked 0 1 0 } ∧ m.exec = { s.m.exec with late := false } ∧ Only [.exec, .pwr] [] s.m m) ∧
    (bitAt s.m.pwr.unlocked p.val = false → exec (.pllRelock p) s = .next s)
end

