-- ==== Sys2Proof/Laws/Calendar.lean ====
section
/-! SUPPORT. Laws of the calendar: a second later is a possible date and time, and its weekday follows. -/

namespace Sys2Proof.Machine

/-- What `Cal.ok` says, field by field. -/
theorem Cal.ok_iff (c : Cal) : c.ok = true ↔ 2000 ≤ c.year ∧ c.year ≤ 2199 ∧ 1 ≤ c.month ∧ c.month ≤ 12 ∧ 1 ≤ c.day ∧
    c.day ≤ monthLen c.year c.month ∧ c.hour ≤ 23 ∧ c.min ≤ 59 ∧ c.sec ≤ 59 := by
  unfold Cal.ok Cal.bad
  repeat' split
  all_goals simp only [Option.isNone_some, Option.isNone_none, Bool.false_eq_true, false_iff, true_iff, not_and, not_le]
  all_goals omega

theorem monthLen_pos (y mo : Nat) : 1 ≤ monthLen y mo := by
  unfold monthLen
  repeat' split
  all_goals omega

theorem Cal.next_ok {c : Cal} (h : c.ok = true) : c.next.ok = true := by
  rw [Cal.ok_iff] at h ⊢
  obtain ⟨h1, h2, h3, h4, h5, h6, h7, h8, h9⟩ := h
  have hp := monthLen_pos c.year (c.month + 1)
  have hq := monthLen_pos (c.year + 1) 1
  have hr := monthLen_pos 2000 1
  unfold Cal.next
  split
  · exact ⟨h1, h2, h3, h4, h5, h6, h7, h8, by dsimp only; omega⟩
  · split
    · exact ⟨h1, h2, h3, h4, h5, h6, h7, by dsimp only; omega, Nat.zero_le _⟩
    · split
      · exact ⟨h1, h2, h3, h4, h5, h6, by dsimp only; omega, Nat.zero_le _, Nat.zero_le _⟩
      · unfold Cal.nextDay
        split
        · refine ⟨h1, h2, h3, h4, ?_, ?_, Nat.zero_le _, Nat.zero_le _, Nat.zero_le _⟩ <;> dsimp only <;> omega
        · split
          · refine ⟨h1, h2, ?_, ?_, ?_, ?_, Nat.zero_le _, Nat.zero_le _, Nat.zero_le _⟩ <;> dsimp only <;> omega
          · split
            · refine ⟨?_, ?_, ?_, ?_, ?_, ?_, Nat.zero_le _, Nat.zero_le _, Nat.zero_le _⟩ <;> dsimp only <;> omega
            · refine ⟨?_, ?_, ?_, ?_, ?_, ?_, Nat.zero_le _, Nat.zero_le _, Nat.zero_le _⟩ <;> dsimp only <;> omega

theorem yearLen_months (y : Nat) : (List.range 11).foldl (fun a k => a + monthLen y (k + 1)) 0 + monthLen y 12 = yearLen y := by
  simp only [List.range, List.range.loop, List.foldl, monthLen, yearLen]
  cases isLeap y <;> decide

/-- The next day has the next number. -/
theorem dayNumber_next {c : Cal} (h : c.ok = true) (hl : ¬(c.year = 2199 ∧ c.month = 12 ∧ c.day = 31)) :
    dayNumber c.nextDay = dayNumber c + 1 := by
  rw [Cal.ok_iff] at h
  obtain ⟨h1, h2, h3, h4, h5, h6, -⟩ := h
  unfold Cal.nextDay
  split
  · simp only [dayNumber]; omega
  · rename_i hd
    have hday : c.day = monthLen c.year c.month := by omega
    split
    · rename_i hm
      simp only [dayNumber]
      obtain ⟨k, hk⟩ : ∃ k, c.month = k + 1 := ⟨c.month - 1, by omega⟩
      rw [hk] at hday ⊢
      simp only [Nat.add_sub_cancel, List.range_succ, List.foldl_append, List.foldl_cons, List.foldl_nil]
      have := monthLen_pos c.year (k + 1)
      omega
    · have hm : c.month = 12 := by omega
      have hday31 : c.day = 31 := by rw [hday, hm]; rfl
      split
      · rename_i hy
        simp only [dayNumber]
        have e : c.year + 1 - 1970 = (c.year - 1970) + 1 := by omega
        have e2 : 1970 + (c.year - 1970) = c.year := by omega
        rw [e, List.range_succ, List.foldl_append, hm]
        simp only [List.foldl_cons, List.foldl_nil, e2]
        have := yearLen_months c.year
        have h31 : monthLen c.year 12 = 31 := rfl
        have hz : (List.range (1 - 1)).foldl (fun a k => a + monthLen (c.year + 1) (k + 1)) 0 = 0 := rfl
        rw [hz, show (12 - 1) = 11 from rfl]
        omega
      · exact absurd ⟨by omega, hm, hday31⟩ hl

theorem dayNumber_time (c : Cal) (h m s : Nat) : dayNumber { c with hour := h, min := m, sec := s } = dayNumber c := rfl

/-- The weekday a second later: the next one at midnight, Saturday after the calendar's last second, else the same (R422). -/
theorem weekday_next {c : Cal} (h : c.ok = true) :
    weekday c.next = if c.last then 6 else if c.midnight then (if weekday c < 7 then weekday c + 1 else 1) else weekday c := by
  have hok := (Cal.ok_iff c).1 h
  obtain ⟨h1, h2, h3, h4, h5, h6, h7, h8, h9⟩ := hok
  by_cases hm : c.hour = 23 ∧ c.min = 59 ∧ c.sec = 59
  · have hmid : c.midnight = true := by simp [Cal.midnight, hm]
    have hn : c.next = { c.nextDay with sec := 0, min := 0, hour := 0 } := by
      unfold Cal.next; rw [if_neg (by omega), if_neg (by omega), if_neg (by omega)]
    rw [hn]
    by_cases hl : c.year = 2199 ∧ c.month = 12 ∧ c.day = 31
    · have hc : c = ⟨2199, 12, 31, 23, 59, 59⟩ := by
        obtain ⟨y, mo, d, hh, mi, se⟩ := c
        simp only [Cal.mk.injEq] at *
        omega
      subst hc
      decide +kernel
    · have hlast : c.last = false := by
        unfold Cal.last
        rw [beq_eq_false_iff_ne]
        intro e; subst e
        exact hl ⟨rfl, rfl, rfl⟩
      rw [hlast, hmid]
      simp only [Bool.false_eq_true, if_false, if_true]
      have hd := dayNumber_next h hl
      have : weekday { c.nextDay with sec := 0, min := 0, hour := 0 } = (dayNumber c + 1 + 3) % 7 + 1 := by
        unfold weekday; rw [show dayNumber { c.nextDay with sec := 0, min := 0, hour := 0 } = dayNumber c.nextDay from rfl, hd]
      rw [this]
      unfold weekday
      split <;> omega
  · have hmid : c.midnight = false := by
      simp only [Cal.midnight, Bool.and_eq_false_iff, beq_eq_false_iff_ne]
      omega
    have hlast : c.last = false := by
      unfold Cal.last
      rw [beq_eq_false_iff_ne]
      intro e; subst e
      exact hm ⟨rfl, rfl, rfl⟩
    rw [hlast, hmid]
    simp only [Bool.false_eq_true, if_false]
    have : dayNumber c.next = dayNumber c := by
      unfold Cal.next
      split
      · rfl
      · split
        · rfl
        · split
          · rfl
          · omega
    unfold weekday
    rw [this]

end Sys2Proof.Machine
end

