-- ==== Sys2Proof/Laws/Crc.lean ====
section
/-! SUPPORT. The CRCs as folds. -/

namespace Sys2Proof.Machine

theorem crcFold_eq (f : Nat → Byte → Nat) (c : Nat) (bs : List Byte) : crcFold f c bs = bs.foldl f c := by
  induction bs generalizing c with
  | nil => rfl
  | cons b t ih =>
    simp only [crcFold, List.foldl_cons]
    split
    · rename_i h; rw [ih, h]
    · rename_i n h; rw [ih, h]

end Sys2Proof.Machine
end

