-- ==== Sys2Proof/Laws/Exec.lean ====
section
/-! SUPPORT. What each arm of `exec` is. -/

namespace Sys2Proof.Machine

@[simp] theorem exec_drumNop (t : Nat) (s : State) : Sys2Proof.Machine.exec (.drumNop t) s = execDrumNop t s := rfl
@[simp] theorem exec_wakeF (t : Nat) (s : State) : Sys2Proof.Machine.exec (.wakeF t) s = execWakeF t s := rfl
@[simp] theorem exec_wakeM (t : Nat) (s : State) : Sys2Proof.Machine.exec (.wakeM t) s = execWakeM t s := rfl
@[simp] theorem exec_freeze (t : Nat) (mask : BitVec 8) (s : State) : Sys2Proof.Machine.exec (.freeze t mask) s = execFreeze t mask s := rfl
@[simp] theorem exec_burst (t : Nat) (mask : BitVec 8) (seq : BitVec 16) (s : State) : Sys2Proof.Machine.exec (.burst t mask seq) s = execBurst t mask seq s := rfl
@[simp] theorem exec_burstEnd (s : State) : Sys2Proof.Machine.exec (.burstEnd) s = execBurstEnd s := rfl
@[simp] theorem exec_launch (t : Nat) (c : Fin 8) (s : State) : Sys2Proof.Machine.exec (.launch t c) s = execLaunch t c s := rfl
@[simp] theorem exec_loopRun (t : Nat) (n : BitVec 8) (s : State) : Sys2Proof.Machine.exec (.loopRun t n) s = execLoopRun t n s := rfl
@[simp] theorem exec_loopLatch (t : Nat) (n : BitVec 8) (done : Bool) (s : State) : Sys2Proof.Machine.exec (.loopLatch t n done) s = execLoopLatch t n done s := rfl
@[simp] theorem exec_poll (t : Nat) (p : Fin 19) (i : BitVec 16) (s : State) : Sys2Proof.Machine.exec (.poll t p i) s = execPoll t p i s := rfl
@[simp] theorem exec_meterWin (t : Nat) (len : BitVec 16) (s : State) : Sys2Proof.Machine.exec (.meterWin t len) s = execMeterWin t len s := rfl
@[simp] theorem exec_mirror (t : Nat) (dir : Fin 2) (list : BitVec 16) (s : State) : Sys2Proof.Machine.exec (.mirror t dir list) s = execMirror t dir list s := rfl
@[simp] theorem exec_mgmtWin (t : Nat) (sramBad : List Nat) (flashBad : List Nat) (copyOk : Bool) (alive : Bool) (hits : List Upset) (s : State) : Sys2Proof.Machine.exec (.mgmtWin t sramBad flashBad copyOk alive hits) s = execMgmtWin t sramBad flashBad copyOk alive hits s := rfl
@[simp] theorem exec_stopF (t : Nat) (s : State) : Sys2Proof.Machine.exec (.stopF t) s = execStopF t s := rfl
@[simp] theorem exec_domain (t : Nat) (d : Fin 15) (on : Bool) (s : State) : Sys2Proof.Machine.exec (.domain t d on) s = execDomain t d on s := rfl
@[simp] theorem exec_pllFLock (s : State) : Sys2Proof.Machine.exec (.pllFLock) s = execPllFLock s := rfl
@[simp] theorem exec_pllLockLate (t : Nat) (s : State) : Sys2Proof.Machine.exec (.pllLockLate t) s = execPllLockLate t s := rfl
@[simp] theorem exec_watchdogDeadline (t : Nat) (s : State) : Sys2Proof.Machine.exec (.watchdogDeadline t) s = execWatchdogDeadline t s := rfl
@[simp] theorem exec_safeTableCrcCheck (ok : Bool) (s : State) : Sys2Proof.Machine.exec (.safeTableCrcCheck ok) s = execSafeTableCrcCheck ok s := rfl
@[simp] theorem exec_rcOscMeasure (freq : BitVec 21) (s : State) : Sys2Proof.Machine.exec (.rcOscMeasure freq) s = execRcOscMeasure freq s := rfl
@[simp] theorem exec_safetySelftest (pass : Bool) (s : State) : Sys2Proof.Machine.exec (.safetySelftest pass) s = execSafetySelftest pass s := rfl
@[simp] theorem exec_mgmtSupervisor (s : State) : Sys2Proof.Machine.exec (.mgmtSupervisor) s = execMgmtSupervisor s := rfl
@[simp] theorem exec_supervisorRestart (s : State) : Sys2Proof.Machine.exec (.supervisorRestart) s = execSupervisorRestart s := rfl
@[simp] theorem exec_autoRestart (s : State) : Sys2Proof.Machine.exec (.autoRestart) s = execAutoRestart s := rfl
@[simp] theorem exec_enterRun (t : Nat) (s : State) : Sys2Proof.Machine.exec (.enterRun t) s = execEnterRun t s := rfl
@[simp] theorem exec_serviceTimeout (s : State) : Sys2Proof.Machine.exec (.serviceTimeout) s = execServiceTimeout s := rfl
@[simp] theorem exec_retainSnapshot (s : State) : Sys2Proof.Machine.exec (.retainSnapshot) s = execRetainSnapshot s := rfl
@[simp] theorem exec_bitCycle (steps : BitVec 13) (s : State) : Sys2Proof.Machine.exec (.bitCycle steps) s = execBitCycle steps s := rfl
@[simp] theorem exec_bitOverrun (s : State) : Sys2Proof.Machine.exec (.bitOverrun) s = execBitOverrun s := rfl
@[simp] theorem exec_planBuildComplete (r : BuildResult) (s : State) : Sys2Proof.Machine.exec (.planBuildComplete r) s = execPlanBuildComplete r s := rfl
@[simp] theorem exec_swapWindowOpen (s : State) : Sys2Proof.Machine.exec (.swapWindowOpen) s = execSwapWindowOpen s := rfl
@[simp] theorem exec_planSwap (s : State) : Sys2Proof.Machine.exec (.planSwap) s = execPlanSwap s := rfl
@[simp] theorem exec_nop (ln : Fin 8) (s : State) : Sys2Proof.Machine.exec (.nop ln) s = execNop ln s := rfl
@[simp] theorem exec_endTask (ln : Fin 8) (s : State) : Sys2Proof.Machine.exec (.endTask ln) s = execEndTask ln s := rfl
@[simp] theorem exec_br (ln : Fin 8) (off : BitVec 20) (s : State) : Sys2Proof.Machine.exec (.br ln off) s = execBr ln off s := rfl
@[simp] theorem exec_bt (ln : Fin 8) (d : Fin 16) (off : BitVec 20) (s : State) : Sys2Proof.Machine.exec (.bt ln d off) s = execBt ln d off s := rfl
@[simp] theorem exec_bf (ln : Fin 8) (d : Fin 16) (off : BitVec 20) (s : State) : Sys2Proof.Machine.exec (.bf ln d off) s = execBf ln d off s := rfl
@[simp] theorem exec_bnv (ln : Fin 8) (d : Fin 16) (off : BitVec 20) (s : State) : Sys2Proof.Machine.exec (.bnv ln d off) s = execBnv ln d off s := rfl
@[simp] theorem exec_repeat (ln : Fin 8) (d : Fin 16) (count : BitVec 9) (body : BitVec 11) (s : State) : Sys2Proof.Machine.exec (.repeat ln d count body) s = execRepeat ln d count body s := rfl
@[simp] theorem exec_ldp (ln : Fin 8) (d : Fin 16) (p : BitVec 13) (s : State) : Sys2Proof.Machine.exec (.ldp ln d p) s = execLdp ln d p s := rfl
@[simp] theorem exec_stp (ln : Fin 8) (d : Fin 16) (p : BitVec 13) (s : State) : Sys2Proof.Machine.exec (.stp ln d p) s = execStp ln d p s := rfl
@[simp] theorem exec_ldage (ln : Fin 8) (d : Fin 16) (p : BitVec 13) (s : State) : Sys2Proof.Machine.exec (.ldage ln d p) s = execLdage ln d p s := rfl
@[simp] theorem exec_ldchg (ln : Fin 8) (d : Fin 16) (p : BitVec 13) (s : State) : Sys2Proof.Machine.exec (.ldchg ln d p) s = execLdchg ln d p s := rfl
@[simp] theorem exec_ldi (ln : Fin 8) (d : Fin 16) (imm : BitVec 20) (s : State) : Sys2Proof.Machine.exec (.ldi ln d imm) s = execLdi ln d imm s := rfl
@[simp] theorem exec_ldix (ln : Fin 8) (d : Fin 16) (w : BitVec 32) (s : State) : Sys2Proof.Machine.exec (.ldix ln d w) s = execLdix ln d w s := rfl
@[simp] theorem exec_ldir (ln : Fin 8) (d : Fin 16) (w : BitVec 32) (s : State) : Sys2Proof.Machine.exec (.ldir ln d w) s = execLdir ln d w s := rfl
@[simp] theorem exec_ldk (ln : Fin 8) (d : Fin 16) (k : BitVec 13) (s : State) : Sys2Proof.Machine.exec (.ldk ln d k) s = execLdk ln d k s := rfl
@[simp] theorem exec_ldkx (ln : Fin 8) (d : Fin 16) (a : Fin 16) (k : BitVec 13) (cnt : BitVec 8) (s : State) : Sys2Proof.Machine.exec (.ldkx ln d a k cnt) s = execLdkx ln d a k cnt s := rfl
@[simp] theorem exec_mov (ln : Fin 8) (d : Fin 16) (a : Fin 16) (s : State) : Sys2Proof.Machine.exec (.mov ln d a) s = execMov ln d a s := rfl
@[simp] theorem exec_ldm (ln : Fin 8) (d : Fin 16) (n : BitVec 14) (w : BitVec 5) (s : State) : Sys2Proof.Machine.exec (.ldm ln d n w) s = execLdm ln d n w s := rfl
@[simp] theorem exec_stm (ln : Fin 8) (d : Fin 16) (n : BitVec 14) (w : BitVec 5) (s : State) : Sys2Proof.Machine.exec (.stm ln d n w) s = execStm ln d n w s := rfl
@[simp] theorem exec_ldmx (ln : Fin 8) (d : Fin 16) (a : Fin 16) (n : BitVec 14) (w : BitVec 5) (cnt : BitVec 5) (s : State) : Sys2Proof.Machine.exec (.ldmx ln d a n w cnt) s = execLdmx ln d a n w cnt s := rfl
@[simp] theorem exec_stmx (ln : Fin 8) (d : Fin 16) (a : Fin 16) (n : BitVec 14) (w : BitVec 5) (cnt : BitVec 5) (s : State) : Sys2Proof.Machine.exec (.stmx ln d a n w cnt) s = execStmx ln d a n w cnt s := rfl
@[simp] theorem exec_ldt (ln : Fin 8) (d : Fin 16) (s : State) : Sys2Proof.Machine.exec (.ldt ln d) s = execLdt ln d s := rfl
@[simp] theorem exec_addI (ln : Fin 8) (d : Fin 16) (a : Fin 16) (b : Fin 16) (s : State) : Sys2Proof.Machine.exec (.addI ln d a b) s = execAddI ln d a b s := rfl
@[simp] theorem exec_subI (ln : Fin 8) (d : Fin 16) (a : Fin 16) (b : Fin 16) (s : State) : Sys2Proof.Machine.exec (.subI ln d a b) s = execSubI ln d a b s := rfl
@[simp] theorem exec_mulI (ln : Fin 8) (d : Fin 16) (a : Fin 16) (b : Fin 16) (s : State) : Sys2Proof.Machine.exec (.mulI ln d a b) s = execMulI ln d a b s := rfl
@[simp] theorem exec_divI (ln : Fin 8) (d : Fin 16) (a : Fin 16) (b : Fin 16) (s : State) : Sys2Proof.Machine.exec (.divI ln d a b) s = execDivI ln d a b s := rfl
@[simp] theorem exec_modI (ln : Fin 8) (d : Fin 16) (a : Fin 16) (b : Fin 16) (s : State) : Sys2Proof.Machine.exec (.modI ln d a b) s = execModI ln d a b s := rfl
@[simp] theorem exec_negI (ln : Fin 8) (d : Fin 16) (a : Fin 16) (s : State) : Sys2Proof.Machine.exec (.negI ln d a) s = execNegI ln d a s := rfl
@[simp] theorem exec_absI (ln : Fin 8) (d : Fin 16) (a : Fin 16) (s : State) : Sys2Proof.Machine.exec (.absI ln d a) s = execAbsI ln d a s := rfl
@[simp] theorem exec_minI (ln : Fin 8) (d : Fin 16) (a : Fin 16) (b : Fin 16) (s : State) : Sys2Proof.Machine.exec (.minI ln d a b) s = execMinI ln d a b s := rfl
@[simp] theorem exec_maxI (ln : Fin 8) (d : Fin 16) (a : Fin 16) (b : Fin 16) (s : State) : Sys2Proof.Machine.exec (.maxI ln d a b) s = execMaxI ln d a b s := rfl
@[simp] theorem exec_limI (ln : Fin 8) (d : Fin 16) (a : Fin 16) (b : Fin 16) (s : State) : Sys2Proof.Machine.exec (.limI ln d a b) s = execLimI ln d a b s := rfl
@[simp] theorem exec_addiI (ln : Fin 8) (d : Fin 16) (a : Fin 16) (imm : BitVec 16) (s : State) : Sys2Proof.Machine.exec (.addiI ln d a imm) s = execAddiI ln d a imm s := rfl
@[simp] theorem exec_addL (ln : Fin 8) (d : Fin 16) (a : Fin 16) (b : Fin 16) (s : State) : Sys2Proof.Machine.exec (.addL ln d a b) s = execAddL ln d a b s := rfl
@[simp] theorem exec_subL (ln : Fin 8) (d : Fin 16) (a : Fin 16) (b : Fin 16) (s : State) : Sys2Proof.Machine.exec (.subL ln d a b) s = execSubL ln d a b s := rfl
@[simp] theorem exec_mulL (ln : Fin 8) (d : Fin 16) (a : Fin 16) (b : Fin 16) (s : State) : Sys2Proof.Machine.exec (.mulL ln d a b) s = execMulL ln d a b s := rfl
@[simp] theorem exec_divL (ln : Fin 8) (d : Fin 16) (a : Fin 16) (b : Fin 16) (s : State) : Sys2Proof.Machine.exec (.divL ln d a b) s = execDivL ln d a b s := rfl
@[simp] theorem exec_negL (ln : Fin 8) (d : Fin 16) (a : Fin 16) (s : State) : Sys2Proof.Machine.exec (.negL ln d a) s = execNegL ln d a s := rfl
@[simp] theorem exec_absL (ln : Fin 8) (d : Fin 16) (a : Fin 16) (s : State) : Sys2Proof.Machine.exec (.absL ln d a) s = execAbsL ln d a s := rfl
@[simp] theorem exec_minL (ln : Fin 8) (d : Fin 16) (a : Fin 16) (b : Fin 16) (s : State) : Sys2Proof.Machine.exec (.minL ln d a b) s = execMinL ln d a b s := rfl
@[simp] theorem exec_maxL (ln : Fin 8) (d : Fin 16) (a : Fin 16) (b : Fin 16) (s : State) : Sys2Proof.Machine.exec (.maxL ln d a b) s = execMaxL ln d a b s := rfl
@[simp] theorem exec_limL (ln : Fin 8) (d : Fin 16) (a : Fin 16) (b : Fin 16) (s : State) : Sys2Proof.Machine.exec (.limL ln d a b) s = execLimL ln d a b s := rfl
@[simp] theorem exec_addF (ln : Fin 8) (d : Fin 16) (a : Fin 16) (b : Fin 16) (s : State) : Sys2Proof.Machine.exec (.addF ln d a b) s = execAddF ln d a b s := rfl
@[simp] theorem exec_subF (ln : Fin 8) (d : Fin 16) (a : Fin 16) (b : Fin 16) (s : State) : Sys2Proof.Machine.exec (.subF ln d a b) s = execSubF ln d a b s := rfl
@[simp] theorem exec_mulF (ln : Fin 8) (d : Fin 16) (a : Fin 16) (b : Fin 16) (s : State) : Sys2Proof.Machine.exec (.mulF ln d a b) s = execMulF ln d a b s := rfl
@[simp] theorem exec_divF (ln : Fin 8) (d : Fin 16) (a : Fin 16) (b : Fin 16) (s : State) : Sys2Proof.Machine.exec (.divF ln d a b) s = execDivF ln d a b s := rfl
@[simp] theorem exec_sqrtF (ln : Fin 8) (d : Fin 16) (a : Fin 16) (s : State) : Sys2Proof.Machine.exec (.sqrtF ln d a) s = execSqrtF ln d a s := rfl
@[simp] theorem exec_negF (ln : Fin 8) (d : Fin 16) (a : Fin 16) (s : State) : Sys2Proof.Machine.exec (.negF ln d a) s = execNegF ln d a s := rfl
@[simp] theorem exec_absF (ln : Fin 8) (d : Fin 16) (a : Fin 16) (s : State) : Sys2Proof.Machine.exec (.absF ln d a) s = execAbsF ln d a s := rfl
@[simp] theorem exec_minF (ln : Fin 8) (d : Fin 16) (a : Fin 16) (b : Fin 16) (s : State) : Sys2Proof.Machine.exec (.minF ln d a b) s = execMinF ln d a b s := rfl
@[simp] theorem exec_maxF (ln : Fin 8) (d : Fin 16) (a : Fin 16) (b : Fin 16) (s : State) : Sys2Proof.Machine.exec (.maxF ln d a b) s = execMaxF ln d a b s := rfl
@[simp] theorem exec_limF (ln : Fin 8) (d : Fin 16) (a : Fin 16) (b : Fin 16) (s : State) : Sys2Proof.Machine.exec (.limF ln d a b) s = execLimF ln d a b s := rfl
@[simp] theorem exec_macF (ln : Fin 8) (d : Fin 16) (a : Fin 16) (b : Fin 16) (s : State) : Sys2Proof.Machine.exec (.macF ln d a b) s = execMacF ln d a b s := rfl
@[simp] theorem exec_i2l (ln : Fin 8) (d : Fin 16) (a : Fin 16) (s : State) : Sys2Proof.Machine.exec (.i2l ln d a) s = execI2l ln d a s := rfl
@[simp] theorem exec_l2i (ln : Fin 8) (d : Fin 16) (a : Fin 16) (s : State) : Sys2Proof.Machine.exec (.l2i ln d a) s = execL2i ln d a s := rfl
@[simp] theorem exec_i2f (ln : Fin 8) (d : Fin 16) (a : Fin 16) (s : State) : Sys2Proof.Machine.exec (.i2f ln d a) s = execI2f ln d a s := rfl
@[simp] theorem exec_f2i (ln : Fin 8) (d : Fin 16) (a : Fin 16) (s : State) : Sys2Proof.Machine.exec (.f2i ln d a) s = execF2i ln d a s := rfl
@[simp] theorem exec_l2f (ln : Fin 8) (d : Fin 16) (a : Fin 16) (s : State) : Sys2Proof.Machine.exec (.l2f ln d a) s = execL2f ln d a s := rfl
@[simp] theorem exec_f2l (ln : Fin 8) (d : Fin 16) (a : Fin 16) (s : State) : Sys2Proof.Machine.exec (.f2l ln d a) s = execF2l ln d a s := rfl
@[simp] theorem exec_and64 (ln : Fin 8) (d : Fin 16) (a : Fin 16) (b : Fin 16) (s : State) : Sys2Proof.Machine.exec (.and64 ln d a b) s = execAnd64 ln d a b s := rfl
@[simp] theorem exec_or64 (ln : Fin 8) (d : Fin 16) (a : Fin 16) (b : Fin 16) (s : State) : Sys2Proof.Machine.exec (.or64 ln d a b) s = execOr64 ln d a b s := rfl
@[simp] theorem exec_xor64 (ln : Fin 8) (d : Fin 16) (a : Fin 16) (b : Fin 16) (s : State) : Sys2Proof.Machine.exec (.xor64 ln d a b) s = execXor64 ln d a b s := rfl
@[simp] theorem exec_notB (ln : Fin 8) (d : Fin 16) (a : Fin 16) (s : State) : Sys2Proof.Machine.exec (.notB ln d a) s = execNotB ln d a s := rfl
@[simp] theorem exec_inv64 (ln : Fin 8) (d : Fin 16) (a : Fin 16) (s : State) : Sys2Proof.Machine.exec (.inv64 ln d a) s = execInv64 ln d a s := rfl
@[simp] theorem exec_shl (ln : Fin 8) (d : Fin 16) (a : Fin 16) (b : Fin 16) (s : State) : Sys2Proof.Machine.exec (.shl ln d a b) s = execShl ln d a b s := rfl
@[simp] theorem exec_shr (ln : Fin 8) (d : Fin 16) (a : Fin 16) (b : Fin 16) (s : State) : Sys2Proof.Machine.exec (.shr ln d a b) s = execShr ln d a b s := rfl
@[simp] theorem exec_sar (ln : Fin 8) (d : Fin 16) (a : Fin 16) (b : Fin 16) (s : State) : Sys2Proof.Machine.exec (.sar ln d a b) s = execSar ln d a b s := rfl
@[simp] theorem exec_cmpI (ln : Fin 8) (d : Fin 16) (a : Fin 16) (b : Fin 16) (c : Cond) (s : State) : Sys2Proof.Machine.exec (.cmpI ln d a b c) s = execCmpI ln d a b c s := rfl
@[simp] theorem exec_cmpL (ln : Fin 8) (d : Fin 16) (a : Fin 16) (b : Fin 16) (c : Cond) (s : State) : Sys2Proof.Machine.exec (.cmpL ln d a b c) s = execCmpL ln d a b c s := rfl
@[simp] theorem exec_cmpF (ln : Fin 8) (d : Fin 16) (a : Fin 16) (b : Fin 16) (c : Cond) (s : State) : Sys2Proof.Machine.exec (.cmpF ln d a b c) s = execCmpF ln d a b c s := rfl
@[simp] theorem exec_sel (ln : Fin 8) (d : Fin 16) (a : Fin 16) (b : Fin 16) (s : State) : Sys2Proof.Machine.exec (.sel ln d a b) s = execSel ln d a b s := rfl
@[simp] theorem exec_qld (ln : Fin 8) (d : Fin 16) (a : Fin 16) (s : State) : Sys2Proof.Machine.exec (.qld ln d a) s = execQld ln d a s := rfl
@[simp] theorem exec_qtst (ln : Fin 8) (d : Fin 16) (a : Fin 16) (mask : BitVec 16) (s : State) : Sys2Proof.Machine.exec (.qtst ln d a mask) s = execQtst ln d a mask s := rfl
@[simp] theorem exec_qset (ln : Fin 8) (d : Fin 16) (mask : BitVec 16) (s : State) : Sys2Proof.Machine.exec (.qset ln d mask) s = execQset ln d mask s := rfl
@[simp] theorem exec_qval (ln : Fin 8) (d : Fin 16) (s : State) : Sys2Proof.Machine.exec (.qval ln d) s = execQval ln d s := rfl
@[simp] theorem exec_qcpy (ln : Fin 8) (d : Fin 16) (a : Fin 16) (s : State) : Sys2Proof.Machine.exec (.qcpy ln d a) s = execQcpy ln d a s := rfl
@[simp] theorem exec_ton (ln : Fin 8) (d : Fin 16) (n : BitVec 14) (s : State) : Sys2Proof.Machine.exec (.ton ln d n) s = execTon ln d n s := rfl
@[simp] theorem exec_tof (ln : Fin 8) (d : Fin 16) (n : BitVec 14) (s : State) : Sys2Proof.Machine.exec (.tof ln d n) s = execTof ln d n s := rfl
@[simp] theorem exec_tp (ln : Fin 8) (d : Fin 16) (n : BitVec 14) (s : State) : Sys2Proof.Machine.exec (.tp ln d n) s = execTp ln d n s := rfl
@[simp] theorem exec_ctu (ln : Fin 8) (d : Fin 16) (n : BitVec 14) (s : State) : Sys2Proof.Machine.exec (.ctu ln d n) s = execCtu ln d n s := rfl
@[simp] theorem exec_ctd (ln : Fin 8) (d : Fin 16) (n : BitVec 14) (s : State) : Sys2Proof.Machine.exec (.ctd ln d n) s = execCtd ln d n s := rfl
@[simp] theorem exec_rTrig (ln : Fin 8) (d : Fin 16) (n : BitVec 14) (s : State) : Sys2Proof.Machine.exec (.rTrig ln d n) s = execRTrig ln d n s := rfl
@[simp] theorem exec_fTrig (ln : Fin 8) (d : Fin 16) (n : BitVec 14) (s : State) : Sys2Proof.Machine.exec (.fTrig ln d n) s = execFTrig ln d n s := rfl
@[simp] theorem exec_srBlk (ln : Fin 8) (d : Fin 16) (n : BitVec 14) (s : State) : Sys2Proof.Machine.exec (.srBlk ln d n) s = execSrBlk ln d n s := rfl
@[simp] theorem exec_rsBlk (ln : Fin 8) (d : Fin 16) (n : BitVec 14) (s : State) : Sys2Proof.Machine.exec (.rsBlk ln d n) s = execRsBlk ln d n s := rfl
@[simp] theorem exec_inx (ln : Fin 8) (p : BitVec 13) (s : State) : Sys2Proof.Machine.exec (.inx ln p) s = execInx ln p s := rfl
@[simp] theorem exec_outx (ln : Fin 8) (p : BitVec 13) (s : State) : Sys2Proof.Machine.exec (.outx ln p) s = execOutx ln p s := rfl
@[simp] theorem exec_bitNop (s : State) : Sys2Proof.Machine.exec (.bitNop) s = execBitNop s := rfl
@[simp] theorem exec_bitLd (area : BitVec 3) (n : BitVec 8) (s : State) : Sys2Proof.Machine.exec (.bitLd area n) s = execBitLd area n s := rfl
@[simp] theorem exec_bitLdn (area : BitVec 3) (n : BitVec 8) (s : State) : Sys2Proof.Machine.exec (.bitLdn area n) s = execBitLdn area n s := rfl
@[simp] theorem exec_bitAnd (area : BitVec 3) (n : BitVec 8) (s : State) : Sys2Proof.Machine.exec (.bitAnd area n) s = execBitAnd area n s := rfl
@[simp] theorem exec_bitAndn (area : BitVec 3) (n : BitVec 8) (s : State) : Sys2Proof.Machine.exec (.bitAndn area n) s = execBitAndn area n s := rfl
@[simp] theorem exec_bitOr (area : BitVec 3) (n : BitVec 8) (s : State) : Sys2Proof.Machine.exec (.bitOr area n) s = execBitOr area n s := rfl
@[simp] theorem exec_bitOrn (area : BitVec 3) (n : BitVec 8) (s : State) : Sys2Proof.Machine.exec (.bitOrn area n) s = execBitOrn area n s := rfl
@[simp] theorem exec_bitXor (area : BitVec 3) (n : BitVec 8) (s : State) : Sys2Proof.Machine.exec (.bitXor area n) s = execBitXor area n s := rfl
@[simp] theorem exec_bitSt (area : BitVec 3) (n : BitVec 8) (s : State) : Sys2Proof.Machine.exec (.bitSt area n) s = execBitSt area n s := rfl
@[simp] theorem exec_bitStn (area : BitVec 3) (n : BitVec 8) (s : State) : Sys2Proof.Machine.exec (.bitStn area n) s = execBitStn area n s := rfl
@[simp] theorem exec_bitSet (area : BitVec 3) (n : BitVec 8) (s : State) : Sys2Proof.Machine.exec (.bitSet area n) s = execBitSet area n s := rfl
@[simp] theorem exec_bitRst (area : BitVec 3) (n : BitVec 8) (s : State) : Sys2Proof.Machine.exec (.bitRst area n) s = execBitRst area n s := rfl
@[simp] theorem exec_bitPush (s : State) : Sys2Proof.Machine.exec (.bitPush) s = execBitPush s := rfl
@[simp] theorem exec_bitPopand (s : State) : Sys2Proof.Machine.exec (.bitPopand) s = execBitPopand s := rfl
@[simp] theorem exec_bitPopor (s : State) : Sys2Proof.Machine.exec (.bitPopor) s = execBitPopor s := rfl
@[simp] theorem exec_bitPop (s : State) : Sys2Proof.Machine.exec (.bitPop) s = execBitPop s := rfl
@[simp] theorem exec_bitNota (s : State) : Sys2Proof.Machine.exec (.bitNota) s = execBitNota s := rfl
@[simp] theorem exec_bitJc (off : BitVec 11) (s : State) : Sys2Proof.Machine.exec (.bitJc off) s = execBitJc off s := rfl
@[simp] theorem exec_bitJnc (off : BitVec 11) (s : State) : Sys2Proof.Machine.exec (.bitJnc off) s = execBitJnc off s := rfl
@[simp] theorem exec_bitJmp (off : BitVec 11) (s : State) : Sys2Proof.Machine.exec (.bitJmp off) s = execBitJmp off s := rfl
@[simp] theorem exec_bitEnd (s : State) : Sys2Proof.Machine.exec (.bitEnd) s = execBitEnd s := rfl
@[simp] theorem exec_ptpSync (u : Fin 2) (h : PtpHead) (origin : Nat) (rx : Nat) (s : State) : Sys2Proof.Machine.exec (.ptpSync u h origin rx) s = execPtpSync u h origin rx s := rfl
@[simp] theorem exec_sourceQualified (x : Fin 3) (s : State) : Sys2Proof.Machine.exec (.sourceQualified x) s = execSourceQualified x s := rfl
@[simp] theorem exec_ptpAnnounce (u : Fin 2) (h : PtpHead) (a : Announce) (s : State) : Sys2Proof.Machine.exec (.ptpAnnounce u h a) s = execPtpAnnounce u h a s := rfl
@[simp] theorem exec_announceTimeout (u : Fin 2) (s : State) : Sys2Proof.Machine.exec (.announceTimeout u) s = execAnnounceTimeout u s := rfl
@[simp] theorem exec_syncTimeout (u : Fin 2) (s : State) : Sys2Proof.Machine.exec (.syncTimeout u) s = execSyncTimeout u s := rfl
@[simp] theorem exec_tsyncInEdge (t : Nat) (s : State) : Sys2Proof.Machine.exec (.tsyncInEdge t) s = execTsyncInEdge t s := rfl
@[simp] theorem exec_ppsLoss (s : State) : Sys2Proof.Machine.exec (.ppsLoss) s = execPpsLoss s := rfl
@[simp] theorem exec_tsyncOutPulse (s : State) : Sys2Proof.Machine.exec (.tsyncOutPulse) s = execTsyncOutPulse s := rfl
@[simp] theorem exec_tsyncOutFall (s : State) : Sys2Proof.Machine.exec (.tsyncOutFall) s = execTsyncOutFall s := rfl
@[simp] theorem exec_timeStep (s : State) : Sys2Proof.Machine.exec (.timeStep) s = execTimeStep s := rfl
@[simp] theorem exec_holdoverToFree (t : Nat) (s : State) : Sys2Proof.Machine.exec (.holdoverToFree t) s = execHoldoverToFree t s := rfl
@[simp] theorem exec_jackInputChange (i : Fin 24) (level : Bool) (s : State) : Sys2Proof.Machine.exec (.jackInputChange i level) s = execJackInputChange i level s := rfl
@[simp] theorem exec_jackReleaseTimeout (i : Fin 64) (s : State) : Sys2Proof.Machine.exec (.jackReleaseTimeout i) s = execJackReleaseTimeout i s := rfl
@[simp] theorem exec_jackReset (h : BitVec 10) (i : Fin 64) (s : State) : Sys2Proof.Machine.exec (.jackReset h i) s = execJackReset h i s := rfl
@[simp] theorem exec_jackResetAll (h : BitVec 10) (s : State) : Sys2Proof.Machine.exec (.jackResetAll h) s = execJackResetAll h s := rfl
@[simp] theorem exec_jackCompare (s : State) : Sys2Proof.Machine.exec (.jackCompare) s = execJackCompare s := rfl
@[simp] theorem exec_loopModeRequest (h : BitVec 10) (n : BitVec 8) (req : BitVec 3) (s : State) : Sys2Proof.Machine.exec (.loopModeRequest h n req) s = execLoopModeRequest h n req s := rfl
@[simp] theorem exec_loopTuningWrite (h : BitVec 10) (n : BitVec 8) (reg : Fin 12) (w : BitVec 32) (s : State) : Sys2Proof.Machine.exec (.loopTuningWrite h n reg w) s = execLoopTuningWrite h n reg w s := rfl
@[simp] theorem exec_looptestStart (h : BitVec 10) (g : Fin 4) (s : State) : Sys2Proof.Machine.exec (.looptestStart h g) s = execLooptestStart h g s := rfl
@[simp] theorem exec_looptestAbort (h : BitVec 10) (g : Fin 4) (s : State) : Sys2Proof.Machine.exec (.looptestAbort h g) s = execLooptestAbort h g s := rfl
@[simp] theorem exec_looptestAnalysis (g : Fin 4) (s : State) : Sys2Proof.Machine.exec (.looptestAnalysis g) s = execLooptestAnalysis g s := rfl
@[simp] theorem exec_gainSwitch (c : Fin 96) (s : State) : Sys2Proof.Machine.exec (.gainSwitch c) s = execGainSwitch c s := rfl
@[simp] theorem exec_sampleClip (c : Fin 102) (s : State) : Sys2Proof.Machine.exec (.sampleClip c) s = execSampleClip c s := rfl
@[simp] theorem exec_metBlockEnd (temp : BitVec 16) (s : State) : Sys2Proof.Machine.exec (.metBlockEnd temp) s = execMetBlockEnd temp s := rfl
@[simp] theorem exec_metCalAccumDone (s : State) : Sys2Proof.Machine.exec (.metCalAccumDone) s = execMetCalAccumDone s := rfl
@[simp] theorem exec_metIntervalBoundary (s : State) : Sys2Proof.Machine.exec (.metIntervalBoundary) s = execMetIntervalBoundary s := rfl
@[simp] theorem exec_metJournal (s : State) : Sys2Proof.Machine.exec (.metJournal) s = execMetJournal s := rfl
@[simp] theorem exec_metCalCommit (h : BitVec 10) (s : State) : Sys2Proof.Machine.exec (.metCalCommit h) s = execMetCalCommit h s := rfl
@[simp] theorem exec_metCalAccum (h : BitVec 10) (s : State) : Sys2Proof.Machine.exec (.metCalAccum h) s = execMetCalAccum h s := rfl
@[simp] theorem exec_metCalDiscard (h : BitVec 10) (s : State) : Sys2Proof.Machine.exec (.metCalDiscard h) s = execMetCalDiscard h s := rfl
@[simp] theorem exec_metCapStart (h : BitVec 10) (s : State) : Sys2Proof.Machine.exec (.metCapStart h) s = execMetCapStart h s := rfl
@[simp] theorem exec_metCapDone (s : State) : Sys2Proof.Machine.exec (.metCapDone) s = execMetCapDone s := rfl
@[simp] theorem exec_metEnergyLoRead (c : Fin 96) (e : Fin 8) (s : State) : Sys2Proof.Machine.exec (.metEnergyLoRead c e) s = execMetEnergyLoRead c e s := rfl
@[simp] theorem exec_diFilterChange (n : Fin 48) (level : Bool) (s : State) : Sys2Proof.Machine.exec (.diFilterChange n level) s = execDiFilterChange n level s := rfl
@[simp] theorem exec_diStuck (n : Fin 48) (s : State) : Sys2Proof.Machine.exec (.diStuck n) s = execDiStuck n s := rfl
@[simp] theorem exec_diChatter (n : Fin 48) (s : State) : Sys2Proof.Machine.exec (.diChatter n) s = execDiChatter n s := rfl
@[simp] theorem exec_chatterHoldExpiry (n : Fin 48) (s : State) : Sys2Proof.Machine.exec (.chatterHoldExpiry n) s = execChatterHoldExpiry n s := rfl
@[simp] theorem exec_countEdge (k : Fin 8) (rising : Bool) (s : State) : Sys2Proof.Machine.exec (.countEdge k rising) s = execCountEdge k rising s := rfl
@[simp] theorem exec_countWindowEnd (s : State) : Sys2Proof.Machine.exec (.countWindowEnd) s = execCountWindowEnd s := rfl
@[simp] theorem exec_countJournal (s : State) : Sys2Proof.Machine.exec (.countJournal) s = execCountJournal s := rfl
@[simp] theorem exec_fioCntLoRead (k : Fin 8) (s : State) : Sys2Proof.Machine.exec (.fioCntLoRead k) s = execFioCntLoRead k s := rfl
@[simp] theorem exec_doShort (n : Fin 24) (s : State) : Sys2Proof.Machine.exec (.doShort n) s = execDoShort n s := rfl
@[simp] theorem exec_doShortRetry (n : Fin 24) (s : State) : Sys2Proof.Machine.exec (.doShortRetry n) s = execDoShortRetry n s := rfl
@[simp] theorem exec_doThermalTrip (n : Fin 24) (s : State) : Sys2Proof.Machine.exec (.doThermalTrip n) s = execDoThermalTrip n s := rfl
@[simp] theorem exec_doThermalRecover (n : Fin 24) (s : State) : Sys2Proof.Machine.exec (.doThermalRecover n) s = execDoThermalRecover n s := rfl
@[simp] theorem exec_doGroupTrip (g : Fin 3) (ma : BitVec 16) (s : State) : Sys2Proof.Machine.exec (.doGroupTrip g ma) s = execDoGroupTrip g ma s := rfl
@[simp] theorem exec_doGroupRetry (g : Fin 3) (s : State) : Sys2Proof.Machine.exec (.doGroupRetry g) s = execDoGroupRetry g s := rfl
@[simp] theorem exec_doGroupLatchClear (h : BitVec 10) (g : Fin 3) (s : State) : Sys2Proof.Machine.exec (.doGroupLatchClear h g) s = execDoGroupLatchClear h g s := rfl
@[simp] theorem exec_doScLatchClear (h : BitVec 10) (n : Fin 24) (s : State) : Sys2Proof.Machine.exec (.doScLatchClear h n) s = execDoScLatchClear h n s := rfl
@[simp] theorem exec_vauxLost (mv : BitVec 16) (s : State) : Sys2Proof.Machine.exec (.vauxLost mv) s = execVauxLost mv s := rfl
@[simp] theorem exec_vauxRestored (mv : BitVec 16) (s : State) : Sys2Proof.Machine.exec (.vauxRestored mv) s = execVauxRestored mv s := rfl
@[simp] theorem exec_doOpenload (n : Fin 24) (ma : BitVec 16) (s : State) : Sys2Proof.Machine.exec (.doOpenload n ma) s = execDoOpenload n ma s := rfl
@[simp] theorem exec_aiConversion (n : Fin 16) (x : BitVec 32) (s : State) : Sys2Proof.Machine.exec (.aiConversion n x) s = execAiConversion n x s := rfl
@[simp] theorem exec_aiProtTrip (n : Fin 16) (s : State) : Sys2Proof.Machine.exec (.aiProtTrip n) s = execAiProtTrip n s := rfl
@[simp] theorem exec_aiProtReconnect (n : Fin 16) (s : State) : Sys2Proof.Machine.exec (.aiProtReconnect n) s = execAiProtReconnect n s := rfl
@[simp] theorem exec_aoFault (n : Fin 8) (present : Bool) (s : State) : Sys2Proof.Machine.exec (.aoFault n present) s = execAoFault n present s := rfl
@[simp] theorem exec_ltCommandFrame (n : Fin 8) (s : State) : Sys2Proof.Machine.exec (.ltCommandFrame n) s = execLtCommandFrame n s := rfl
@[simp] theorem exec_ltCurrentApply (n : Fin 8) (s : State) : Sys2Proof.Machine.exec (.ltCurrentApply n) s = execLtCurrentApply n s := rfl
@[simp] theorem exec_ltReport (n : Fin 8) (ma : BitVec 32) (termV : BitVec 8) (s : State) : Sys2Proof.Machine.exec (.ltReport n ma termV) s = execLtReport n ma termV s := rfl
@[simp] theorem exec_ltOpen (n : Fin 8) (s : State) : Sys2Proof.Machine.exec (.ltOpen n) s = execLtOpen n s := rfl
@[simp] theorem exec_ltFrameLoss (n : Fin 8) (s : State) : Sys2Proof.Machine.exec (.ltFrameLoss n) s = execLtFrameLoss n s := rfl
@[simp] theorem exec_ltHoldExpiry (n : Fin 8) (s : State) : Sys2Proof.Machine.exec (.ltHoldExpiry n) s = execLtHoldExpiry n s := rfl
@[simp] theorem exec_ltModemChar (n : Fin 8) (c : BitVec 8) (parityErr : Bool) (s : State) : Sys2Proof.Machine.exec (.ltModemChar n c parityErr) s = execLtModemChar n c parityErr s := rfl
@[simp] theorem exec_siFilterChange (k : Fin 8) (chB : Bool) (level : Bool) (s : State) : Sys2Proof.Machine.exec (.siFilterChange k chB level) s = execSiFilterChange k chB level s := rfl
@[simp] theorem exec_siDiscrepancy (k : Fin 8) (s : State) : Sys2Proof.Machine.exec (.siDiscrepancy k) s = execSiDiscrepancy k s := rfl
@[simp] theorem exec_siTestFault (k : Fin 8) (chB : Bool) (s : State) : Sys2Proof.Machine.exec (.siTestFault k chB) s = execSiTestFault k chB s := rfl
@[simp] theorem exec_soOffPulse (k : Fin 4) (chB : Bool) (s : State) : Sys2Proof.Machine.exec (.soOffPulse k chB) s = execSoOffPulse k chB s := rfl
@[simp] theorem exec_soPulseCheck (k : Fin 4) (chB : Bool) (own : Bool) (other : Bool) (s : State) : Sys2Proof.Machine.exec (.soPulseCheck k chB own other) s = execSoPulseCheck k chB own other s := rfl
@[simp] theorem exec_soDarkFail (k : Fin 4) (chB : Bool) (s : State) : Sys2Proof.Machine.exec (.soDarkFail k chB) s = execSoDarkFail k chB s := rfl
@[simp] theorem exec_soOnFail (k : Fin 4) (chB : Bool) (s : State) : Sys2Proof.Machine.exec (.soOnFail k chB) s = execSoOnFail k chB s := rfl
@[simp] theorem exec_soOverload (k : Fin 4) (chB : Bool) (s : State) : Sys2Proof.Machine.exec (.soOverload k chB) s = execSoOverload k chB s := rfl
@[simp] theorem exec_soBothOn (k : Fin 4) (s : State) : Sys2Proof.Machine.exec (.soBothOn k) s = execSoBothOn k s := rfl
@[simp] theorem exec_unlockWindowExpiry (h : BitVec 10) (s : State) : Sys2Proof.Machine.exec (.unlockWindowExpiry h) s = execUnlockWindowExpiry h s := rfl
@[simp] theorem exec_unlockBlockExpiry (s : State) : Sys2Proof.Machine.exec (.unlockBlockExpiry) s = execUnlockBlockExpiry s := rfl
@[simp] theorem exec_exchangeReply (p : Fin 19) (kind : ReplyKind) (data : List Byte) (recs : List (Nat × Nat × List Byte)) (s : State) : Sys2Proof.Machine.exec (.exchangeReply p kind data recs) s = execExchangeReply p kind data recs s := rfl
@[simp] theorem exec_attemptTimeout (p : Fin 19) (s : State) : Sys2Proof.Machine.exec (.attemptTimeout p) s = execAttemptTimeout p s := rfl
@[simp] theorem exec_canFrameRx (p : Fin 19) (f : CanFrame) (s : State) : Sys2Proof.Machine.exec (.canFrameRx p f) s = execCanFrameRx p f s := rfl
@[simp] theorem exec_canTxError (p : Fin 19) (busError : Bool) (s : State) : Sys2Proof.Machine.exec (.canTxError p busError) s = execCanTxError p busError s := rfl
@[simp] theorem exec_canBusOff (p : Fin 19) (s : State) : Sys2Proof.Machine.exec (.canBusOff p) s = execCanBusOff p s := rfl
@[simp] theorem exec_canBusOffRecovery (p : Fin 19) (s : State) : Sys2Proof.Machine.exec (.canBusOffRecovery p) s = execCanBusOffRecovery p s := rfl
@[simp] theorem exec_mstpToken (p : Fin 19) (s : State) : Sys2Proof.Machine.exec (.mstpToken p) s = execMstpToken p s := rfl
@[simp] theorem exec_daliNoPower (p : Fin 19) (mv : BitVec 16) (s : State) : Sys2Proof.Machine.exec (.daliNoPower p mv) s = execDaliNoPower p mv s := rfl
@[simp] theorem exec_daliPowerRestored (p : Fin 19) (mv : BitVec 16) (s : State) : Sys2Proof.Machine.exec (.daliPowerRestored p mv) s = execDaliPowerRestored p mv s := rfl
@[simp] theorem exec_daliEventMessage (p : Fin 19) (addr : Nat) (data : List Byte) (s : State) : Sys2Proof.Machine.exec (.daliEventMessage p addr data) s = execDaliEventMessage p addr data s := rfl
@[simp] theorem exec_mbusShort (s : State) : Sys2Proof.Machine.exec (.mbusShort) s = execMbusShort s := rfl
@[simp] theorem exec_mbusRetry (s : State) : Sys2Proof.Machine.exec (.mbusRetry) s = execMbusRetry s := rfl
@[simp] theorem exec_t1lOvercurrent (k : Fin 8) (s : State) : Sys2Proof.Machine.exec (.t1lOvercurrent k) s = execT1lOvercurrent k s := rfl
@[simp] theorem exec_t1lShed (power : List (BitVec 16)) (s : State) : Sys2Proof.Machine.exec (.t1lShed power) s = execT1lShed power s := rfl
@[simp] theorem exec_t1lPowerRetry (k : Fin 8) (s : State) : Sys2Proof.Machine.exec (.t1lPowerRetry k) s = execT1lPowerRetry k s := rfl
@[simp] theorem exec_tcpConnectionClosed (p : Fin 19) (station : Nat) (s : State) : Sys2Proof.Machine.exec (.tcpConnectionClosed p station) s = execTcpConnectionClosed p station s := rfl
@[simp] theorem exec_passExchange (code : BitVec 6) (ended : Bool) (reply : Option (List Byte)) (s : State) : Sys2Proof.Machine.exec (.passExchange code ended reply) s = execPassExchange code ended reply s := rfl
@[simp] theorem exec_passWindowEnd (p : Fin 19) (s : State) : Sys2Proof.Machine.exec (.passWindowEnd p) s = execPassWindowEnd p s := rfl
@[simp] theorem exec_uplFrameRx (u : Fin 2) (f : UplFrame) (s : State) : Sys2Proof.Machine.exec (.uplFrameRx u f) s = execUplFrameRx u f s := rfl
@[simp] theorem exec_pauseFrame (u : Fin 2) (pfc : Option (BitVec 8)) (quanta : BitVec 16) (s : State) : Sys2Proof.Machine.exec (.pauseFrame u pfc quanta) s = execPauseFrame u pfc quanta s := rfl
@[simp] theorem exec_uplLinkUp (u : Fin 2) (offer : BitVec 5) (s : State) : Sys2Proof.Machine.exec (.uplLinkUp u offer) s = execUplLinkUp u offer s := rfl
@[simp] theorem exec_preemptVerified (u : Fin 2) (s : State) : Sys2Proof.Machine.exec (.preemptVerified u) s = execPreemptVerified u s := rfl
@[simp] theorem exec_uplLinkDown (u : Fin 2) (s : State) : Sys2Proof.Machine.exec (.uplLinkDown u) s = execUplLinkDown u s := rfl
@[simp] theorem exec_sfpInsert (declares : BitVec 5) (s : State) : Sys2Proof.Machine.exec (.sfpInsert declares) s = execSfpInsert declares s := rfl
@[simp] theorem exec_sfpLos (los : Bool) (s : State) : Sys2Proof.Machine.exec (.sfpLos los) s = execSfpLos los s := rfl
@[simp] theorem exec_loadMeasure (u : Fin 2) (tx : BitVec 40) (rx : BitVec 40) (s : State) : Sys2Proof.Machine.exec (.loadMeasure u tx rx) s = execLoadMeasure u tx rx s := rfl
@[simp] theorem exec_upshiftDue (u : Fin 2) (s : State) : Sys2Proof.Machine.exec (.upshiftDue u) s = execUpshiftDue u s := rfl
@[simp] theorem exec_holdoffExpiry (u : Fin 2) (s : State) : Sys2Proof.Machine.exec (.holdoffExpiry u) s = execHoldoffExpiry u s := rfl
@[simp] theorem exec_shiftFail (u : Fin 2) (s : State) : Sys2Proof.Machine.exec (.shiftFail u) s = execShiftFail u s := rfl
@[simp] theorem exec_txFrameTimeout (u : Fin 2) (express : Bool) (s : State) : Sys2Proof.Machine.exec (.txFrameTimeout u express) s = execTxFrameTimeout u express s := rfl
@[simp] theorem exec_poolClearDone (s : State) : Sys2Proof.Machine.exec (.poolClearDone) s = execPoolClearDone s := rfl
@[simp] theorem exec_uplApply (h : BitVec 10) (u : Fin 2) (s : State) : Sys2Proof.Machine.exec (.uplApply h u) s = execUplApply h u s := rfl
@[simp] theorem exec_uplConfirm (h : BitVec 10) (u : Fin 2) (s : State) : Sys2Proof.Machine.exec (.uplConfirm h u) s = execUplConfirm h u s := rfl
@[simp] theorem exec_uplRevert (h : BitVec 10) (u : Fin 2) (s : State) : Sys2Proof.Machine.exec (.uplRevert h u) s = execUplRevert h u s := rfl
@[simp] theorem exec_uplConfirmTimeout (u : Fin 2) (s : State) : Sys2Proof.Machine.exec (.uplConfirmTimeout u) s = execUplConfirmTimeout u s := rfl
@[simp] theorem exec_orporPacket (ch : Fin 12) (s : State) : Sys2Proof.Machine.exec (.orporPacket ch) s = execOrporPacket ch s := rfl
@[simp] theorem exec_spiWrite (len : BitVec 16) (bytes : List Byte) (s : State) : Sys2Proof.Machine.exec (.spiWrite len bytes) s = execSpiWrite len bytes s := rfl
@[simp] theorem exec_spiRead (s : State) : Sys2Proof.Machine.exec (.spiRead) s = execSpiRead s := rfl
@[simp] theorem exec_spiStatus (s : State) : Sys2Proof.Machine.exec (.spiStatus) s = execSpiStatus s := rfl
@[simp] theorem exec_sessionIdleTimeout (h : BitVec 10) (s : State) : Sys2Proof.Machine.exec (.sessionIdleTimeout h) s = execSessionIdleTimeout h s := rfl
@[simp] theorem exec_opSessProbe (s : State) : Sys2Proof.Machine.exec (.opSessProbe) s = execOpSessProbe s := rfl
@[simp] theorem exec_opSessOpen (s : State) : Sys2Proof.Machine.exec (.opSessOpen) s = execOpSessOpen s := rfl
@[simp] theorem exec_opSessClose (h : BitVec 10) (seq : BitVec 32) (s : State) : Sys2Proof.Machine.exec (.opSessClose h seq) s = execOpSessClose h seq s := rfl
@[simp] theorem exec_opSessInfo (h : BitVec 10) (seq : BitVec 32) (s : State) : Sys2Proof.Machine.exec (.opSessInfo h seq) s = execOpSessInfo h seq s := rfl
@[simp] theorem exec_opSessList (h : BitVec 10) (seq : BitVec 32) (s : State) : Sys2Proof.Machine.exec (.opSessList h seq) s = execOpSessList h seq s := rfl
@[simp] theorem exec_opSessKill (h : BitVec 10) (seq : BitVec 32) (s : State) : Sys2Proof.Machine.exec (.opSessKill h seq) s = execOpSessKill h seq s := rfl
@[simp] theorem exec_opPtRead (h : BitVec 10) (seq : BitVec 32) (s : State) : Sys2Proof.Machine.exec (.opPtRead h seq) s = execOpPtRead h seq s := rfl
@[simp] theorem exec_opPtReadRange (h : BitVec 10) (seq : BitVec 32) (s : State) : Sys2Proof.Machine.exec (.opPtReadRange h seq) s = execOpPtReadRange h seq s := rfl
@[simp] theorem exec_opPtWrite (h : BitVec 10) (seq : BitVec 32) (s : State) : Sys2Proof.Machine.exec (.opPtWrite h seq) s = execOpPtWrite h seq s := rfl
@[simp] theorem exec_opPtForce (h : BitVec 10) (seq : BitVec 32) (s : State) : Sys2Proof.Machine.exec (.opPtForce h seq) s = execOpPtForce h seq s := rfl
@[simp] theorem exec_opPtRelease (h : BitVec 10) (seq : BitVec 32) (s : State) : Sys2Proof.Machine.exec (.opPtRelease h seq) s = execOpPtRelease h seq s := rfl
@[simp] theorem exec_opPtForces (h : BitVec 10) (seq : BitVec 32) (s : State) : Sys2Proof.Machine.exec (.opPtForces h seq) s = execOpPtForces h seq s := rfl
@[simp] theorem exec_opPkgBegin (h : BitVec 10) (seq : BitVec 32) (s : State) : Sys2Proof.Machine.exec (.opPkgBegin h seq) s = execOpPkgBegin h seq s := rfl
@[simp] theorem exec_opPkgBlock (h : BitVec 10) (seq : BitVec 32) (s : State) : Sys2Proof.Machine.exec (.opPkgBlock h seq) s = execOpPkgBlock h seq s := rfl
@[simp] theorem exec_opPkgEnd (h : BitVec 10) (seq : BitVec 32) (s : State) : Sys2Proof.Machine.exec (.opPkgEnd h seq) s = execOpPkgEnd h seq s := rfl
@[simp] theorem exec_opPlanActivate (h : BitVec 10) (seq : BitVec 32) (s : State) : Sys2Proof.Machine.exec (.opPlanActivate h seq) s = execOpPlanActivate h seq s := rfl
@[simp] theorem exec_opPlanCancel (h : BitVec 10) (seq : BitVec 32) (s : State) : Sys2Proof.Machine.exec (.opPlanCancel h seq) s = execOpPlanCancel h seq s := rfl
@[simp] theorem exec_opPlanRead (h : BitVec 10) (seq : BitVec 32) (s : State) : Sys2Proof.Machine.exec (.opPlanRead h seq) s = execOpPlanRead h seq s := rfl
@[simp] theorem exec_opBitprogLoad (h : BitVec 10) (seq : BitVec 32) (s : State) : Sys2Proof.Machine.exec (.opBitprogLoad h seq) s = execOpBitprogLoad h seq s := rfl
@[simp] theorem exec_opBitprogRead (h : BitVec 10) (seq : BitVec 32) (s : State) : Sys2Proof.Machine.exec (.opBitprogRead h seq) s = execOpBitprogRead h seq s := rfl
@[simp] theorem exec_opRegRead (h : BitVec 10) (seq : BitVec 32) (s : State) : Sys2Proof.Machine.exec (.opRegRead h seq) s = execOpRegRead h seq s := rfl
@[simp] theorem exec_opRegWrite (h : BitVec 10) (seq : BitVec 32) (s : State) : Sys2Proof.Machine.exec (.opRegWrite h seq) s = execOpRegWrite h seq s := rfl
@[simp] theorem exec_opRegModify (h : BitVec 10) (seq : BitVec 32) (s : State) : Sys2Proof.Machine.exec (.opRegModify h seq) s = execOpRegModify h seq s := rfl
@[simp] theorem exec_opMetRead (h : BitVec 10) (seq : BitVec 32) (s : State) : Sys2Proof.Machine.exec (.opMetRead h seq) s = execOpMetRead h seq s := rfl
@[simp] theorem exec_opMetIntervals (h : BitVec 10) (seq : BitVec 32) (s : State) : Sys2Proof.Machine.exec (.opMetIntervals h seq) s = execOpMetIntervals h seq s := rfl
@[simp] theorem exec_opMetCapture (h : BitVec 10) (seq : BitVec 32) (s : State) : Sys2Proof.Machine.exec (.opMetCapture h seq) s = execOpMetCapture h seq s := rfl
@[simp] theorem exec_opLoopRead (h : BitVec 10) (seq : BitVec 32) (s : State) : Sys2Proof.Machine.exec (.opLoopRead h seq) s = execOpLoopRead h seq s := rfl
@[simp] theorem exec_opLoopMode (h : BitVec 10) (seq : BitVec 32) (s : State) : Sys2Proof.Machine.exec (.opLoopMode h seq) s = execOpLoopMode h seq s := rfl
@[simp] theorem exec_opLoopTune (h : BitVec 10) (seq : BitVec 32) (s : State) : Sys2Proof.Machine.exec (.opLoopTune h seq) s = execOpLoopTune h seq s := rfl
@[simp] theorem exec_opLoopTest (h : BitVec 10) (seq : BitVec 32) (s : State) : Sys2Proof.Machine.exec (.opLoopTest h seq) s = execOpLoopTest h seq s := rfl
@[simp] theorem exec_opLoopTestRead (h : BitVec 10) (seq : BitVec 32) (s : State) : Sys2Proof.Machine.exec (.opLoopTestRead h seq) s = execOpLoopTestRead h seq s := rfl
@[simp] theorem exec_opLogAreas (h : BitVec 10) (seq : BitVec 32) (s : State) : Sys2Proof.Machine.exec (.opLogAreas h seq) s = execOpLogAreas h seq s := rfl
@[simp] theorem exec_opLogRead (h : BitVec 10) (seq : BitVec 32) (s : State) : Sys2Proof.Machine.exec (.opLogRead h seq) s = execOpLogRead h seq s := rfl
@[simp] theorem exec_opTimeGet (h : BitVec 10) (seq : BitVec 32) (s : State) : Sys2Proof.Machine.exec (.opTimeGet h seq) s = execOpTimeGet h seq s := rfl
@[simp] theorem exec_opTimeSet (h : BitVec 10) (seq : BitVec 32) (s : State) : Sys2Proof.Machine.exec (.opTimeSet h seq) s = execOpTimeSet h seq s := rfl
@[simp] theorem exec_opRtcGet (h : BitVec 10) (seq : BitVec 32) (s : State) : Sys2Proof.Machine.exec (.opRtcGet h seq) s = execOpRtcGet h seq s := rfl
@[simp] theorem exec_opRtcSet (h : BitVec 10) (seq : BitVec 32) (s : State) : Sys2Proof.Machine.exec (.opRtcSet h seq) s = execOpRtcSet h seq s := rfl
@[simp] theorem exec_opUpdBegin (h : BitVec 10) (seq : BitVec 32) (s : State) : Sys2Proof.Machine.exec (.opUpdBegin h seq) s = execOpUpdBegin h seq s := rfl
@[simp] theorem exec_opUpdBlock (h : BitVec 10) (seq : BitVec 32) (s : State) : Sys2Proof.Machine.exec (.opUpdBlock h seq) s = execOpUpdBlock h seq s := rfl
@[simp] theorem exec_opUpdEnd (h : BitVec 10) (seq : BitVec 32) (s : State) : Sys2Proof.Machine.exec (.opUpdEnd h seq) s = execOpUpdEnd h seq s := rfl
@[simp] theorem exec_updVerifyComplete (pages header : Bool) (s : State) : Sys2Proof.Machine.exec (.updVerifyComplete pages header) s = execUpdVerifyComplete pages header s := rfl
@[simp] theorem exec_opUpdActivate (h : BitVec 10) (seq : BitVec 32) (s : State) : Sys2Proof.Machine.exec (.opUpdActivate h seq) s = execOpUpdActivate h seq s := rfl
@[simp] theorem exec_updActivation (s : State) : Sys2Proof.Machine.exec (.updActivation) s = execUpdActivation s := rfl
@[simp] theorem exec_opUpdStatus (h : BitVec 10) (seq : BitVec 32) (s : State) : Sys2Proof.Machine.exec (.opUpdStatus h seq) s = execOpUpdStatus h seq s := rfl
@[simp] theorem exec_opKeyStage (h : BitVec 10) (seq : BitVec 32) (s : State) : Sys2Proof.Machine.exec (.opKeyStage h seq) s = execOpKeyStage h seq s := rfl
@[simp] theorem exec_opKeyVerify (h : BitVec 10) (seq : BitVec 32) (s : State) : Sys2Proof.Machine.exec (.opKeyVerify h seq) s = execOpKeyVerify h seq s := rfl
@[simp] theorem exec_opKeyCommit (h : BitVec 10) (seq : BitVec 32) (s : State) : Sys2Proof.Machine.exec (.opKeyCommit h seq) s = execOpKeyCommit h seq s := rfl
@[simp] theorem exec_opKeyDiscard (h : BitVec 10) (seq : BitVec 32) (s : State) : Sys2Proof.Machine.exec (.opKeyDiscard h seq) s = execOpKeyDiscard h seq s := rfl
@[simp] theorem exec_opKeyList (h : BitVec 10) (seq : BitVec 32) (s : State) : Sys2Proof.Machine.exec (.opKeyList h seq) s = execOpKeyList h seq s := rfl
@[simp] theorem exec_opSafeUnlock (h : BitVec 10) (seq : BitVec 32) (s : State) : Sys2Proof.Machine.exec (.opSafeUnlock h seq) s = execOpSafeUnlock h seq s := rfl
@[simp] theorem exec_opSafeLock (h : BitVec 10) (seq : BitVec 32) (s : State) : Sys2Proof.Machine.exec (.opSafeLock h seq) s = execOpSafeLock h seq s := rfl
@[simp] theorem exec_opSafePwSet (h : BitVec 10) (seq : BitVec 32) (s : State) : Sys2Proof.Machine.exec (.opSafePwSet h seq) s = execOpSafePwSet h seq s := rfl
@[simp] theorem exec_opSafePwClear (h : BitVec 10) (seq : BitVec 32) (s : State) : Sys2Proof.Machine.exec (.opSafePwClear h seq) s = execOpSafePwClear h seq s := rfl
@[simp] theorem exec_opSafeAck (h : BitVec 10) (seq : BitVec 32) (on : Bool) (s : State) : Sys2Proof.Machine.exec (.opSafeAck h seq on) s = execOpSafeAck h seq on s := rfl
@[simp] theorem exec_opSafeTest (h : BitVec 10) (seq : BitVec 32) (badA badB : Bool) (s : State) : Sys2Proof.Machine.exec (.opSafeTest h seq badA badB) s = execOpSafeTest h seq badA badB s := rfl
@[simp] theorem exec_opSafeLogAck (h : BitVec 10) (seq : BitVec 32) (s : State) : Sys2Proof.Machine.exec (.opSafeLogAck h seq) s = execOpSafeLogAck h seq s := rfl
@[simp] theorem exec_opStateStop (h : BitVec 10) (seq : BitVec 32) (s : State) : Sys2Proof.Machine.exec (.opStateStop h seq) s = execOpStateStop h seq s := rfl
@[simp] theorem exec_opStateRestart (h : BitVec 10) (seq : BitVec 32) (s : State) : Sys2Proof.Machine.exec (.opStateRestart h seq) s = execOpStateRestart h seq s := rfl
@[simp] theorem exec_opStateBit (h : BitVec 10) (seq : BitVec 32) (s : State) : Sys2Proof.Machine.exec (.opStateBit h seq) s = execOpStateBit h seq s := rfl
@[simp] theorem exec_opStateService (h : BitVec 10) (seq : BitVec 32) (s : State) : Sys2Proof.Machine.exec (.opStateService h seq) s = execOpStateService h seq s := rfl
@[simp] theorem exec_opStateRelease (h : BitVec 10) (seq : BitVec 32) (s : State) : Sys2Proof.Machine.exec (.opStateRelease h seq) s = execOpStateRelease h seq s := rfl
@[simp] theorem exec_opStateGet (h : BitVec 10) (seq : BitVec 32) (s : State) : Sys2Proof.Machine.exec (.opStateGet h seq) s = execOpStateGet h seq s := rfl
@[simp] theorem exec_opPwrStatus (h : BitVec 10) (seq : BitVec 32) (s : State) : Sys2Proof.Machine.exec (.opPwrStatus h seq) s = execOpPwrStatus h seq s := rfl
@[simp] theorem exec_opTwinStatus (h : BitVec 10) (seq : BitVec 32) (s : State) : Sys2Proof.Machine.exec (.opTwinStatus h seq) s = execOpTwinStatus h seq s := rfl
@[simp] theorem exec_opTwinSwap (h : BitVec 10) (seq : BitVec 32) (s : State) : Sys2Proof.Machine.exec (.opTwinSwap h seq) s = execOpTwinSwap h seq s := rfl
@[simp] theorem exec_twinHandover (t : Nat) (s : State) : Sys2Proof.Machine.exec (.twinHandover t) s = execTwinHandover t s := rfl
@[simp] theorem exec_opBusXfer (h : BitVec 10) (seq : BitVec 32) (s : State) : Sys2Proof.Machine.exec (.opBusXfer h seq) s = execOpBusXfer h seq s := rfl
@[simp] theorem exec_opBusResult (h : BitVec 10) (seq : BitVec 32) (s : State) : Sys2Proof.Machine.exec (.opBusResult h seq) s = execOpBusResult h seq s := rfl
@[simp] theorem exec_opBusRecv (h : BitVec 10) (seq : BitVec 32) (s : State) : Sys2Proof.Machine.exec (.opBusRecv h seq) s = execOpBusRecv h seq s := rfl
@[simp] theorem exec_opDiagOutput (h : BitVec 10) (seq : BitVec 32) (s : State) : Sys2Proof.Machine.exec (.opDiagOutput h seq) s = execOpDiagOutput h seq s := rfl
@[simp] theorem exec_opDiagRelease (h : BitVec 10) (seq : BitVec 32) (s : State) : Sys2Proof.Machine.exec (.opDiagRelease h seq) s = execOpDiagRelease h seq s := rfl
@[simp] theorem exec_opDiagBanktest (h : BitVec 10) (seq : BitVec 32) (s : State) : Sys2Proof.Machine.exec (.opDiagBanktest h seq) s = execOpDiagBanktest h seq s := rfl
@[simp] theorem exec_bankTestComplete (b : Fin 8) (bad : BitVec 11) (s : State) : Sys2Proof.Machine.exec (.bankTestComplete b bad) s = execBankTestComplete b bad s := rfl
@[simp] theorem exec_opDiagCounters (h : BitVec 10) (seq : BitVec 32) (s : State) : Sys2Proof.Machine.exec (.opDiagCounters h seq) s = execOpDiagCounters h seq s := rfl
@[simp] theorem exec_opDiagEcho (h : BitVec 10) (seq : BitVec 32) (s : State) : Sys2Proof.Machine.exec (.opDiagEcho h seq) s = execOpDiagEcho h seq s := rfl
@[simp] theorem exec_storedSetWrite (h : BitVec 10) (seq : BitVec 32) (block : BitVec 12) (s : State) : Sys2Proof.Machine.exec (.storedSetWrite h seq block) s = execStoredSetWrite h seq block s := rfl
@[simp] theorem exec_suspectClear (h : BitVec 10) (b : Fin 8) (s : State) : Sys2Proof.Machine.exec (.suspectClear h b) s = execSuspectClear h b s := rfl
@[simp] theorem exec_returnLimitWrite (h : BitVec 10) (v : BitVec 4) (s : State) : Sys2Proof.Machine.exec (.returnLimitWrite h v) s = execReturnLimitWrite h v s := rfl
@[simp] theorem exec_timeNowLoRead (s : State) : Sys2Proof.Machine.exec (.timeNowLoRead) s = execTimeNowLoRead s := rfl
@[simp] theorem exec_nvmOptimeLoRead (s : State) : Sys2Proof.Machine.exec (.nvmOptimeLoRead) s = execNvmOptimeLoRead s := rfl
@[simp] theorem exec_stringLaneUp (lane : Fin 2) (s : State) : Sys2Proof.Machine.exec (.stringLaneUp lane) s = execStringLaneUp lane s := rfl
@[simp] theorem exec_stringLaneDown (lane : Fin 2) (s : State) : Sys2Proof.Machine.exec (.stringLaneDown lane) s = execStringLaneDown lane s := rfl
@[simp] theorem exec_splitEnd (s : State) : Sys2Proof.Machine.exec (.splitEnd) s = execSplitEnd s := rfl
@[simp] theorem exec_twinTimeSend (s : State) : Sys2Proof.Machine.exec (.twinTimeSend) s = execTwinTimeSend s := rfl
@[simp] theorem exec_twinTimeRx (seq : BitVec 32) (lanes : BitVec 2) (sent : Nat) (delay : Nat) (rx : Nat) (tstat : BitVec 32) (exec : BitVec 32) (plan : BitVec 32) (s : State) : Sys2Proof.Machine.exec (.twinTimeRx seq lanes sent delay rx tstat exec plan) s = execTwinTimeRx seq lanes sent delay rx tstat exec plan s := rfl
@[simp] theorem exec_barFrameRx (seq : BitVec 32) (lanes : BitVec 2) (claim : Bool) (at_ : Nat) (s : State) : Sys2Proof.Machine.exec (.barFrameRx seq lanes claim at_) s = execBarFrameRx seq lanes claim at_ s := rfl
@[simp] theorem exec_mirrorFrameRx (seq : BitVec 32) (lanes : BitVec 2) (tile : Fin 8192) (bytes : List Byte) (crc : BitVec 32) (s : State) : Sys2Proof.Machine.exec (.mirrorFrameRx seq lanes tile bytes crc) s = execMirrorFrameRx seq lanes tile bytes crc s := rfl
@[simp] theorem exec_forwardFrameRx (seq : BitVec 32) (lanes : BitVec 2) (items : List (Nat × BitVec 64 × BitVec 16 × Bool)) (s : State) : Sys2Proof.Machine.exec (.forwardFrameRx seq lanes items) s = execForwardFrameRx seq lanes items s := rfl
@[simp] theorem exec_writeFrameRx (seq : BitVec 32) (lanes : BitVec 2) (ops : List PtOp) (s : State) : Sys2Proof.Machine.exec (.writeFrameRx seq lanes ops) s = execWriteFrameRx seq lanes ops s := rfl
@[simp] theorem exec_streamFrameRx (seq : BitVec 32) (lanes : BitVec 2) (k : StreamKind) (s : State) : Sys2Proof.Machine.exec (.streamFrameRx seq lanes k) s = execStreamFrameRx seq lanes k s := rfl
@[simp] theorem exec_orporFrameRx (seq : BitVec 32) (lanes : BitVec 2) (via : Fin 3) (packet : List Byte) (s : State) : Sys2Proof.Machine.exec (.orporFrameRx seq lanes via packet) s = execOrporFrameRx seq lanes via packet s := rfl
@[simp] theorem exec_controlFrameRx (seq : BitVec 32) (lanes : BitVec 2) (k : CtlKind) (s : State) : Sys2Proof.Machine.exec (.controlFrameRx seq lanes k) s = execControlFrameRx seq lanes k s := rfl
@[simp] theorem exec_stepLost (s : State) : Sys2Proof.Machine.exec (.stepLost) s = execStepLost s := rfl
@[simp] theorem exec_barLineChange (line : Fin 3) (s : State) : Sys2Proof.Machine.exec (.barLineChange line) s = execBarLineChange line s := rfl
@[simp] theorem exec_takeover (t : Nat) (s : State) : Sys2Proof.Machine.exec (.takeover t) s = execTakeover t s := rfl
@[simp] theorem exec_rejoinCopyComplete (s : State) : Sys2Proof.Machine.exec (.rejoinCopyComplete) s = execRejoinCopyComplete s := rfl
@[simp] theorem exec_rejoinInStep (t : Nat) (s : State) : Sys2Proof.Machine.exec (.rejoinInStep t) s = execRejoinInStep t s := rfl
@[simp] theorem exec_twinSelftestPass (s : State) : Sys2Proof.Machine.exec (.twinSelftestPass) s = execTwinSelftestPass s := rfl
@[simp] theorem exec_twinReturn (t : Nat) (s : State) : Sys2Proof.Machine.exec (.twinReturn t) s = execTwinReturn t s := rfl
@[simp] theorem exec_sideBWaitTimeout (s : State) : Sys2Proof.Machine.exec (.sideBWaitTimeout) s = execSideBWaitTimeout s := rfl
@[simp] theorem exec_flashProgramDone (s : State) : Sys2Proof.Machine.exec (.flashProgramDone) s = execFlashProgramDone s := rfl
@[simp] theorem exec_sectorEraseDone (s : State) : Sys2Proof.Machine.exec (.sectorEraseDone) s = execSectorEraseDone s := rfl
@[simp] theorem exec_marginPassStart (s : State) : Sys2Proof.Machine.exec (.marginPassStart) s = execMarginPassStart s := rfl
@[simp] theorem exec_marginSectorRead (sector : BitVec 14) (differs last : Bool) (s : State) : Sys2Proof.Machine.exec (.marginSectorRead sector differs last) s = execMarginSectorRead sector differs last s := rfl
@[simp] theorem exec_optimeTick (x : Meas) (s : State) : Sys2Proof.Machine.exec (.optimeTick x) s = execOptimeTick x s := rfl
@[simp] theorem exec_repeatHoldExpiry (a : Fin 16) (s : State) : Sys2Proof.Machine.exec (.repeatHoldExpiry a) s = execRepeatHoldExpiry a s := rfl
@[simp] theorem exec_rateWindowClose (a : Fin 16) (num : BitVec 8) (s : State) : Sys2Proof.Machine.exec (.rateWindowClose a num) s = execRateWindowClose a num s := rfl
@[simp] theorem exec_rtcSecondTick (s : State) : Sys2Proof.Machine.exec (.rtcSecondTick) s = execRtcSecondTick s := rfl
@[simp] theorem exec_rtcCommit (h : BitVec 10) (s : State) : Sys2Proof.Machine.exec (.rtcCommit h) s = execRtcCommit h s := rfl
@[simp] theorem exec_rtcShadowFreeze (s : State) : Sys2Proof.Machine.exec (.rtcShadowFreeze) s = execRtcShadowFreeze s := rfl
@[simp] theorem exec_rtcFreezeTimeout (s : State) : Sys2Proof.Machine.exec (.rtcFreezeTimeout) s = execRtcFreezeTimeout s := rfl
@[simp] theorem exec_rtcSync (s : State) : Sys2Proof.Machine.exec (.rtcSync) s = execRtcSync s := rfl
@[simp] theorem exec_rtcOscStop (s : State) : Sys2Proof.Machine.exec (.rtcOscStop) s = execRtcOscStop s := rfl
@[simp] theorem exec_keyRemaskPass (s : State) : Sys2Proof.Machine.exec (.keyRemaskPass) s = execKeyRemaskPass s := rfl
@[simp] theorem exec_stagedKeyExpiry (i : Fin 8) (s : State) : Sys2Proof.Machine.exec (.stagedKeyExpiry i) s = execStagedKeyExpiry i s := rfl
@[simp] theorem exec_fwConfirm (s : State) : Sys2Proof.Machine.exec (.fwConfirm) s = execFwConfirm s := rfl
@[simp] theorem exec_vinValid (vin : BitVec 16) (pins : Pins) (s : State) : Sys2Proof.Machine.exec (.vinValid vin pins) s = execVinValid vin pins s := rfl
@[simp] theorem exec_holdupReady (s : State) : Sys2Proof.Machine.exec (.holdupReady) s = execHoldupReady s := rfl
@[simp] theorem exec_tcxoStable (s : State) : Sys2Proof.Machine.exec (.tcxoStable) s = execTcxoStable s := rfl
@[simp] theorem exec_firmwareVerified (scap : BitVec 16) (vbat : BitVec 16) (s : State) : Sys2Proof.Machine.exec (.firmwareVerified scap vbat) s = execFirmwareVerified scap vbat s := rfl
@[simp] theorem exec_planArmed (s : State) : Sys2Proof.Machine.exec (.planArmed) s = execPlanArmed s := rfl
@[simp] theorem exec_powerFailWarning (vin : BitVec 16) (holdup : BitVec 16) (s : State) : Sys2Proof.Machine.exec (.powerFailWarning vin holdup) s = execPowerFailWarning vin holdup s := rfl
@[simp] theorem exec_saveDone (holdup : BitVec 16) (s : State) : Sys2Proof.Machine.exec (.saveDone holdup) s = execSaveDone holdup s := rfl
@[simp] theorem exec_vinReturn (pins : Pins) (s : State) : Sys2Proof.Machine.exec (.vinReturn pins) s = execVinReturn pins s := rfl
@[simp] theorem exec_holdupExhausted (steps : BitVec 7) (s : State) : Sys2Proof.Machine.exec (.holdupExhausted steps) s = execHoldupExhausted steps s := rfl
@[simp] theorem exec_resetPin (s : State) : Sys2Proof.Machine.exec (.resetPin) s = execResetPin s := rfl
@[simp] theorem exec_resetRelease (pins : Pins) (s : State) : Sys2Proof.Machine.exec (.resetRelease pins) s = execResetRelease pins s := rfl
@[simp] theorem exec_domainPowerGood (d : Fin 15) (s : State) : Sys2Proof.Machine.exec (.domainPowerGood d) s = execDomainPowerGood d s := rfl
@[simp] theorem exec_domainShutdownDone (f : Fin 31) (s : State) : Sys2Proof.Machine.exec (.domainShutdownDone f) s = execDomainShutdownDone f s := rfl
@[simp] theorem exec_pendingOnExecute (f : Fin 31) (s : State) : Sys2Proof.Machine.exec (.pendingOnExecute f) s = execPendingOnExecute f s := rfl
@[simp] theorem exec_domainFault (d : Fin 15) (s : State) : Sys2Proof.Machine.exec (.domainFault d) s = execDomainFault d s := rfl
@[simp] theorem exec_tcxoFail (s : State) : Sys2Proof.Machine.exec (.tcxoFail) s = execTcxoFail s := rfl
@[simp] theorem exec_tcxoRecovered (s : State) : Sys2Proof.Machine.exec (.tcxoRecovered) s = execTcxoRecovered s := rfl
@[simp] theorem exec_tcxoRecoveryTimeout (s : State) : Sys2Proof.Machine.exec (.tcxoRecoveryTimeout) s = execTcxoRecoveryTimeout s := rfl
@[simp] theorem exec_pllUnlock (p : Fin 5) (us : BitVec 16) (s : State) : Sys2Proof.Machine.exec (.pllUnlock p us) s = execPllUnlock p us s := rfl
@[simp] theorem exec_metSample (cur : List (Int × Int)) (vol : List Int) (s : State) : Sys2Proof.Machine.exec (.metSample cur vol) s = execMetSample cur vol s := rfl
@[simp] theorem exec_ptpDelayResponse (u : Fin 2) (h : PtpHead) (peer : Bool) (delay : Nat) (s : State) : Sys2Proof.Machine.exec (.ptpDelayResponse u h peer delay) s = execPtpDelayResponse u h peer delay s := rfl
@[simp] theorem exec_islandPowerUp (n : Fin 8) (s : State) : Sys2Proof.Machine.exec (.islandPowerUp n) s = execIslandPowerUp n s := rfl
@[simp] theorem exec_daliCollision (p : Fin 19) (s : State) : Sys2Proof.Machine.exec (.daliCollision p) s = execDaliCollision p s := rfl
@[simp] theorem exec_canFrameTransmitted (p : Fin 19) (s : State) : Sys2Proof.Machine.exec (.canFrameTransmitted p) s = execCanFrameTransmitted p s := rfl
@[simp] theorem exec_canRxError (p : Fin 19) (by8 : Bool) (s : State) : Sys2Proof.Machine.exec (.canRxError p by8) s = execCanRxError p by8 s := rfl
@[simp] theorem exec_poweredDeviceDetected (k : Fin 8) (present : Bool) (cls : BitVec 7) (s : State) : Sys2Proof.Machine.exec (.poweredDeviceDetected k present cls) s = execPoweredDeviceDetected k present cls s := rfl
@[simp] theorem exec_fieldEthernetFrame (p : Fin 19) (kind : EthKind) (data : List Byte) (s : State) : Sys2Proof.Machine.exec (.fieldEthernetFrame p kind data) s = execFieldEthernetFrame p kind data s := rfl
@[simp] theorem exec_sfpRemoval (s : State) : Sys2Proof.Machine.exec (.sfpRemoval) s = execSfpRemoval s := rfl
@[simp] theorem exec_frameSent (u : Fin 2) (express : Bool) (s : State) : Sys2Proof.Machine.exec (.frameSent u express) s = execFrameSent u express s := rfl
@[simp] theorem exec_offPulseEnd (k : Fin 4) (chB : Bool) (s : State) : Sys2Proof.Machine.exec (.offPulseEnd k chB) s = execOffPulseEnd k chB s := rfl
@[simp] theorem exec_slotWriteComplete (which : Fin 3) (s : State) : Sys2Proof.Machine.exec (.slotWriteComplete which) s = execSlotWriteComplete which s := rfl
@[simp] theorem exec_crystalRestart (s : State) : Sys2Proof.Machine.exec (.crystalRestart) s = execCrystalRestart s := rfl
@[simp] theorem exec_backupSupplyLost (s : State) : Sys2Proof.Machine.exec (.backupSupplyLost) s = execBackupSupplyLost s := rfl
@[simp] theorem exec_pllRelock (p : Fin 5) (s : State) : Sys2Proof.Machine.exec (.pllRelock p) s = execPllRelock p s := rfl
@[simp] theorem exec_bootDomainRetry (s : State) : Sys2Proof.Machine.exec (.bootDomainRetry) s = execBootDomainRetry s := rfl
@[simp] theorem exec_lifecycleAdvance (signer sig unit : List (BitVec 8)) (s : State) : Sys2Proof.Machine.exec (.lifecycleAdvance signer sig unit) s = execLifecycleAdvance signer sig unit s := rfl

end Sys2Proof.Machine
end

