-- ==== Sys2Proof/Laws/Maps.lean ====
section
/-! SUPPORT. Laws of the sparse maps: a read after a write, and the canonical form kept. -/

namespace Sys2Proof.Machine

variable {α : Type}

theorem mapGet_mapPut_same (k : Nat) (x : α) (l : List (Nat × α)) : mapGet k (mapPut k x l) = some x := by
  induction l with
  | nil => simp [mapPut, mapGet]
  | cons p t ih =>
    obtain ⟨a, y⟩ := p
    unfold mapPut
    split
    · simp [mapGet]
    · split
      · simp [mapGet]
      · rename_i h1 h2
        simp [mapGet, Ne.symm h2, ih]

theorem mapGet_mapPut_ne {k j : Nat} (h : j ≠ k) (x : α) (l : List (Nat × α)) : mapGet j (mapPut k x l) = mapGet j l := by
  induction l with
  | nil => simp [mapPut, mapGet, Ne.symm h]
  | cons p t ih =>
    obtain ⟨a, y⟩ := p
    unfold mapPut
    split
    · simp [mapGet, Ne.symm h]
    · split
      · subst a; simp [mapGet, Ne.symm h]
      · simp only [mapGet, ih]

theorem mapGet_mapDel_ne {k j : Nat} (h : j ≠ k) (l : List (Nat × α)) : mapGet j (mapDel k l) = mapGet j l := by
  induction l with
  | nil => rfl
  | cons p t ih =>
    obtain ⟨a, y⟩ := p
    unfold mapDel
    split
    · subst a; simp [mapGet, Ne.symm h, ih]
    · simp only [mapGet, ih]

theorem mapSorted_weaken {lo lo' : Option Nat} {l : List (Nat × α)} (h : mapSorted lo l = true)
    (hb : ∀ b', lo' = some b' → ∃ b, lo = some b ∧ b' ≤ b) : mapSorted lo' l = true := by
  cases l with
  | nil => rfl
  | cons p t =>
    obtain ⟨a, y⟩ := p
    simp only [mapSorted, Bool.and_eq_true] at h ⊢
    refine ⟨?_, h.2⟩
    cases lo' with
    | none => rfl
    | some b' =>
      obtain ⟨b, rfl, hle⟩ := hb b' rfl
      have := h.1
      simp only [decide_eq_true_eq] at this ⊢
      omega

/-- No key at or below the bound is listed. -/
theorem mapGet_below {b k : Nat} {l : List (Nat × α)} (h : mapSorted (some b) l = true) (hk : k ≤ b) : mapGet k l = none := by
  induction l generalizing b with
  | nil => rfl
  | cons p t ih =>
    obtain ⟨a, y⟩ := p
    simp only [mapSorted, Bool.and_eq_true, decide_eq_true_eq] at h
    simp only [mapGet, show a ≠ k by omega, if_false]
    exact ih h.2 (by omega)

theorem mapGet_mapDel_same (k : Nat) (l : List (Nat × α)) : mapGet k (mapDel k l) = none := by
  induction l with
  | nil => rfl
  | cons p t ih =>
    obtain ⟨a, y⟩ := p
    unfold mapDel
    split
    · exact ih
    · rename_i hne
      simp only [mapGet, hne, if_false]
      exact ih

theorem mapPut_sorted {lo : Option Nat} {k : Nat} (x : α) {l : List (Nat × α)} (h : mapSorted lo l = true)
    (hk : ∀ b, lo = some b → b < k) : mapSorted lo (mapPut k x l) = true := by
  induction l generalizing lo with
  | nil =>
    simp only [mapPut, mapSorted, Bool.and_true]
    cases lo with
    | none => rfl
    | some b => simpa using hk b rfl
  | cons p t ih =>
    obtain ⟨a, y⟩ := p
    have h' := h
    simp only [mapSorted, Bool.and_eq_true] at h
    unfold mapPut
    split
    · rename_i hlt
      simp only [mapSorted, Bool.and_eq_true, decide_eq_true_eq]
      refine ⟨?_, hlt, h.2⟩
      cases lo with
      | none => rfl
      | some b => simpa using hk b rfl
    · split
      · subst a
        simp only [mapSorted, Bool.and_eq_true]
        exact ⟨h.1, h.2⟩
      · simp only [mapSorted, Bool.and_eq_true]
        refine ⟨h.1, ih h.2 ?_⟩
        intro b hb
        cases hb
        omega

theorem mapDel_sorted {lo : Option Nat} (k : Nat) {l : List (Nat × α)} (h : mapSorted lo l = true) :
    mapSorted lo (mapDel k l) = true := by
  induction l generalizing lo with
  | nil => rfl
  | cons p t ih =>
    obtain ⟨a, y⟩ := p
    have h' := h
    simp only [mapSorted, Bool.and_eq_true] at h
    unfold mapDel
    split
    · refine mapSorted_weaken (ih h.2) ?_
      intro b' hb'
      refine ⟨a, rfl, ?_⟩
      subst hb'
      have := h.1
      simp only [decide_eq_true_eq] at this
      omega
    · simp only [mapSorted, Bool.and_eq_true]
      exact ⟨h.1, ih h.2⟩

theorem mapPut_all {k : Nat} {x : α} {p : Nat × α → Bool} {l : List (Nat × α)} (h : l.all p = true) (hx : p (k, x) = true) :
    (mapPut k x l).all p = true := by
  induction l with
  | nil => simp [mapPut, hx]
  | cons q t ih =>
    obtain ⟨a, y⟩ := q
    simp only [List.all_cons, Bool.and_eq_true] at h
    unfold mapPut
    split
    · simp [hx, h.1, h.2]
    · split
      · simp [hx, h.2]
      · simp only [List.all_cons, Bool.and_eq_true]
        exact ⟨h.1, ih h.2⟩

theorem mapDel_all {k : Nat} {p : Nat × α → Bool} {l : List (Nat × α)} (h : l.all p = true) : (mapDel k l).all p = true := by
  induction l with
  | nil => rfl
  | cons q t ih =>
    obtain ⟨a, y⟩ := q
    simp only [List.all_cons, Bool.and_eq_true] at h
    unfold mapDel
    split
    · exact ih h.2
    · simp only [List.all_cons, Bool.and_eq_true]
      exact ⟨h.1, ih h.2⟩

theorem mapSorted_filter {lo : Option Nat} (p : Nat × α → Bool) {l : List (Nat × α)} (h : mapSorted lo l = true) :
    mapSorted lo (l.filter p) = true := by
  induction l generalizing lo with
  | nil => rfl
  | cons q t ih =>
    obtain ⟨a, y⟩ := q
    simp only [mapSorted, Bool.and_eq_true] at h
    rw [List.filter_cons]
    split
    · simp only [mapSorted, Bool.and_eq_true]
      exact ⟨h.1, ih h.2⟩
    · refine mapSorted_weaken (ih h.2) ?_
      intro b' hb'
      refine ⟨a, rfl, ?_⟩
      subst hb'
      have := h.1
      simp only [decide_eq_true_eq] at this
      omega

end Sys2Proof.Machine
end

