-- ==== Sys2Proof/Laws/Registers.lean ====
section
/-! SUPPORT. Laws of the register file and of bit fields. -/

namespace Sys2Proof.Machine

theorem regRead_regWrite_ne (rs : List (Nat × Word)) {a j : Nat} (w : Word) (h : j ≠ a) : regRead (regWrite rs a w) j = regRead rs j := by
  unfold regRead regWrite
  split
  · rw [mapGet_mapDel_ne h]
  · rw [mapGet_mapPut_ne h]

theorem regRead_regWrite_same {rs : List (Nat × Word)} (a : Nat) (w : Word) (h : regsWf rs = true) : regRead (regWrite rs a w) a = w := by
  simp only [regsWf, Bool.and_eq_true] at h
  unfold regRead regWrite
  split
  · rename_i hw
    rw [mapGet_mapDel_same a]
    exact hw.symm
  · rw [mapGet_mapPut_same]; rfl

theorem regWrite_wf {rs : List (Nat × Word)} (a : Nat) (w : Word) (h : regsWf rs = true) : regsWf (regWrite rs a w) = true := by
  simp only [regsWf, Bool.and_eq_true] at h ⊢
  unfold regWrite
  split
  · exact ⟨mapDel_sorted a h.1, mapDel_all h.2⟩
  · rename_i hw
    exact ⟨mapPut_sorted w h.1 (by intro _ hx; cases hx), mapPut_all h.2 (by simpa using hw)⟩

theorem fldSet_wf {rs : List (Nat × Word)} (f : Fld) (v : Nat) (h : regsWf rs = true) : regsWf (fldSet rs f v) = true := regWrite_wf _ _ h

theorem regsClear_wf {rs : List (Nat × Word)} (lo hi : Nat) (h : regsWf rs = true) : regsWf (regsClear rs lo hi) = true := by
  simp only [regsWf, Bool.and_eq_true] at h ⊢
  refine ⟨mapSorted_filter _ h.1, ?_⟩
  simp only [regsClear, List.all_eq_true, List.mem_filter] at h ⊢
  exact fun x hx => h.2 x hx.1

/-- Another register keeps its fields. -/
theorem fldGet_fldSet_addr (rs : List (Nat × Word)) {f g : Fld} (v : Nat) (h : g.addr ≠ f.addr) : fldGet (fldSet rs f v) g = fldGet rs g := by
  unfold fldGet fldSet
  rw [regRead_regWrite_ne _ _ h]

theorem bits_eq (v lo w : Nat) : bits v lo w = v / 2 ^ lo % 2 ^ w := by
  unfold bits; rw [Nat.shiftRight_eq_div_pow]

/-- A word as what lies below a field, the field, and what lies above. -/
theorem split_word (v lo w : Nat) : v = v / 2 ^ lo / 2 ^ w * 2 ^ w * 2 ^ lo + bits v lo w * 2 ^ lo + v % 2 ^ lo := by
  rw [bits_eq]
  have h1 := Nat.div_add_mod v (2 ^ lo)
  have h2 := Nat.div_add_mod (v / 2 ^ lo) (2 ^ w)
  calc v = 2 ^ lo * (v / 2 ^ lo) + v % 2 ^ lo := h1.symm
    _ = 2 ^ lo * (2 ^ w * (v / 2 ^ lo / 2 ^ w) + v / 2 ^ lo % 2 ^ w) + v % 2 ^ lo := by rw [h2]
    _ = _ := by ring

theorem putBits_eq (v lo w x : Nat) : putBits v lo w x = v / 2 ^ lo / 2 ^ w * 2 ^ w * 2 ^ lo + x % 2 ^ w * 2 ^ lo + v % 2 ^ lo := by
  unfold putBits
  have h := split_word v lo w
  have : v - bits v lo w * 2 ^ lo = v / 2 ^ lo / 2 ^ w * 2 ^ w * 2 ^ lo + v % 2 ^ lo := by omega
  rw [this]; omega

theorem putBits_lt {v lo w x n : Nat} (hv : v < 2 ^ n) (h : lo + w ≤ n) : putBits v lo w x < 2 ^ n := by
  rw [putBits_eq]
  have hq : v / 2 ^ lo / 2 ^ w < 2 ^ (n - (lo + w)) := by
    rw [Nat.div_div_eq_div_mul, ← Nat.pow_add]
    apply Nat.div_lt_of_lt_mul
    rw [← Nat.pow_add]
    simpa [Nat.add_sub_cancel' h] using hv
  have hx : x % 2 ^ w < 2 ^ w := Nat.mod_lt _ (Nat.two_pow_pos w)
  have hm : v % 2 ^ lo < 2 ^ lo := Nat.mod_lt _ (Nat.two_pow_pos lo)
  have hn : 2 ^ n = 2 ^ (n - (lo + w)) * 2 ^ w * 2 ^ lo := by
    rw [← Nat.pow_add, ← Nat.pow_add]; congr 1; omega
  rw [hn]
  generalize v / 2 ^ lo / 2 ^ w = q at *
  generalize 2 ^ (n - (lo + w)) = Q at *
  generalize x % 2 ^ w = y at *
  generalize 2 ^ w = W at *
  generalize v % 2 ^ lo = z at *
  generalize 2 ^ lo = L at *
  have h1 : (q * W + y + 1) ≤ Q * W := by
    calc q * W + y + 1 ≤ q * W + W := by omega
      _ = (q + 1) * W := by ring
      _ ≤ Q * W := Nat.mul_le_mul_right _ hq
  calc q * W * L + y * L + z < q * W * L + y * L + L := by omega
    _ = (q * W + y + 1) * L := by ring
    _ ≤ Q * W * L := Nat.mul_le_mul_right _ h1

theorem bits_putBits_same (v lo w x : Nat) : bits (putBits v lo w x) lo w = x % 2 ^ w := by
  rw [bits_eq, putBits_eq]
  have hm : v % 2 ^ lo < 2 ^ lo := Nat.mod_lt _ (Nat.two_pow_pos lo)
  have : (v / 2 ^ lo / 2 ^ w * 2 ^ w * 2 ^ lo + x % 2 ^ w * 2 ^ lo + v % 2 ^ lo) / 2 ^ lo = v / 2 ^ lo / 2 ^ w * 2 ^ w + x % 2 ^ w := by
    rw [← Nat.add_mul, Nat.add_comm, Nat.add_mul_div_right _ _ (Nat.two_pow_pos lo), Nat.div_eq_of_lt hm, Nat.zero_add]
  rw [this, Nat.add_comm, Nat.add_mul_mod_self_right, Nat.mod_mod]

/-- A field that lies above or below the one written keeps its bits. -/
theorem bits_putBits_ne {v lo w x lo' w' : Nat} (h : lo' + w' ≤ lo ∨ lo + w ≤ lo') : bits (putBits v lo w x) lo' w' = bits v lo' w' := by
  rcases h with h | h
  · obtain ⟨k, rfl⟩ := Nat.exists_eq_add_of_le h
    have key : ∀ u, bits u lo' w' = u % 2 ^ (lo' + w' + k) / 2 ^ lo' % 2 ^ w' := by
      intro u
      rw [bits_eq]
      have e : 2 ^ (lo' + w' + k) = 2 ^ lo' * 2 ^ (w' + k) := by rw [← Nat.pow_add]; congr 1; omega
      rw [e, Nat.mod_mul_right_div_self, Nat.pow_add, Nat.mod_mul_right_mod]
    rw [key, key v]
    congr 2
    rw [putBits_eq, ← Nat.add_mul, Nat.add_comm, Nat.add_mul_mod_self_right, Nat.mod_mod]
  · obtain ⟨k, rfl⟩ := Nat.exists_eq_add_of_le h
    have key : ∀ u, bits u (lo + w + k) w' = u / 2 ^ lo / 2 ^ w / 2 ^ k % 2 ^ w' := by
      intro u
      rw [bits_eq, Nat.pow_add, Nat.pow_add, Nat.div_div_eq_div_mul, Nat.div_div_eq_div_mul, Nat.mul_assoc]
    rw [key, key v]
    congr 2
    rw [putBits_eq]
    have hm : v % 2 ^ lo < 2 ^ lo := Nat.mod_lt _ (Nat.two_pow_pos lo)
    have hx : x % 2 ^ w < 2 ^ w := Nat.mod_lt _ (Nat.two_pow_pos w)
    rw [← Nat.add_mul, Nat.add_comm, Nat.add_mul_div_right _ _ (Nat.two_pow_pos lo), Nat.div_eq_of_lt hm, Nat.zero_add,
      Nat.add_comm, Nat.add_mul_div_right _ _ (Nat.two_pow_pos w), Nat.div_eq_of_lt hx, Nat.zero_add]

/-- A field that has just been set reads the low bits of the value (its register has 32 bits). -/
theorem fldGet_fldSet_same {rs : List (Nat × Word)} (f : Fld) (v : Nat) (h : regsWf rs = true) (hf : f.lo + f.width ≤ 32) :
    fldGet (fldSet rs f v) f = v % 2 ^ f.width := by
  unfold fldGet fldSet
  rw [regRead_regWrite_same _ _ h, BitVec.toNat_ofNat,
    Nat.mod_eq_of_lt (putBits_lt (regRead rs f.addr).isLt hf), bits_putBits_same]

/-- The other fields of a register keep their values. -/
theorem fldGet_fldSet_field {rs : List (Nat × Word)} {f g : Fld} (v : Nat) (h : regsWf rs = true) (hf : f.lo + f.width ≤ 32)
    (ha : g.addr = f.addr) (hd : g.lo + g.width ≤ f.lo ∨ f.lo + f.width ≤ g.lo) : fldGet (fldSet rs f v) g = fldGet rs g := by
  unfold fldGet fldSet
  rw [ha, regRead_regWrite_same _ _ h, BitVec.toNat_ofNat,
    Nat.mod_eq_of_lt (putBits_lt (regRead rs f.addr).isLt hf), bits_putBits_ne hd]

end Sys2Proof.Machine
end

