-- ==== Sys2Proof/Laws/Get.lean ====
section
/-! SUPPORT. What a register field of the module reads after an update. -/

namespace Sys2Proof.Machine

theorem Mod.get_set_addr (m : Mod) {f g : Fld} (v : Nat) (h : g.addr ≠ f.addr) : (m.set f v).get g = m.get g :=
  fldGet_fldSet_addr m.regs v h

theorem Mod.get_set_same {m : Mod} (f : Fld) (v : Nat) (h : regsWf m.regs = true) (hf : f.lo + f.width ≤ 32) :
    (m.set f v).get f = v % 2 ^ f.width := fldGet_fldSet_same f v h hf

theorem Mod.get_set_field {m : Mod} {f g : Fld} (v : Nat) (h : regsWf m.regs = true) (hf : f.lo + f.width ≤ 32) (ha : g.addr = f.addr)
    (hd : g.lo + g.width ≤ f.lo ∨ f.lo + f.width ≤ g.lo) : (m.set f v).get g = m.get g := fldGet_fldSet_field v h hf ha hd

theorem Mod.word_set_addr (m : Mod) {f : Fld} {a : Nat} (v : Nat) (h : a ≠ f.addr) : (m.set f v).word a = m.word a :=
  regRead_regWrite_ne m.regs _ h

theorem Mod.word_setWord_same {m : Mod} (a : Nat) (w : Word) (h : regsWf m.regs = true) : (m.setWord a w).word a = w :=
  regRead_regWrite_same a w h

theorem Mod.word_setWord_ne (m : Mod) {a b : Nat} (w : Word) (h : b ≠ a) : (m.setWord a w).word b = m.word b :=
  regRead_regWrite_ne m.regs w h

/-- A record in the recorder changes LOG_STATUS alone among the registers. -/
theorem Mod.get_log (m : Mod) (e : Ev) (src : Nat) (data : List Byte) {g : Fld} (h : g.addr ≠ F.LOG_STATUS_WAB_FULL.addr) :
    (m.log e src data).get g = m.get g := by
  delta Mod.log
  dsimp only [Mod.get]
  split
  · exact fldGet_fldSet_addr m.regs 1 h
  · rfl

end Sys2Proof.Machine
end

