-- ==== Sys2Proof/Laws/Memory.lean ====
section
/-! SUPPORT. Laws of byte memory: what a read gives after a write, and the canonical form kept by every write. -/

namespace Sys2Proof.Machine

theorem memRead_memWrite_same (d : Byte) {m : List Host.Cell} (a : Nat) (b : Byte) (h : memWf d m = true) :
    memRead d (memWrite d m a b) a = b := by
  simp only [memWf, Bool.and_eq_true] at h
  unfold memRead memWrite mapGetD
  split
  · rename_i hb
    rw [mapGet_mapDel_same a]
    exact hb.symm
  · rw [mapGet_mapPut_same]; rfl

theorem memRead_memWrite_ne (d : Byte) (m : List Host.Cell) {a j : Nat} (b : Byte) (h : j ≠ a) :
    memRead d (memWrite d m a b) j = memRead d m j := by
  unfold memRead memWrite mapGetD
  split
  · rw [mapGet_mapDel_ne h]
  · rw [mapGet_mapPut_ne h]

theorem memWrite_wf (d : Byte) {m : List Host.Cell} (a : Nat) (b : Byte) (h : memWf d m = true) : memWf d (memWrite d m a b) = true := by
  simp only [memWf, Bool.and_eq_true] at h ⊢
  unfold memWrite
  split
  · exact ⟨mapDel_sorted a h.1, mapDel_all h.2⟩
  · rename_i hb
    exact ⟨mapPut_sorted b h.1 (by intro _ hx; cases hx), mapPut_all h.2 (by simpa using hb)⟩

theorem memWriteN_wf (d : Byte) (bs : List Byte) {m : List Host.Cell} (a : Nat) (h : memWf d m = true) :
    memWf d (memWriteN d m a bs) = true := by
  induction bs generalizing m a with
  | nil => exact h
  | cons b bs ih => exact ih (a + 1) (memWrite_wf d a b h)

/-- Outside the bytes written, every address reads as before. -/
theorem memRead_memWriteN_out (d : Byte) (bs : List Byte) (m : List Host.Cell) {a j : Nat} (h : j < a ∨ a + bs.length ≤ j) :
    memRead d (memWriteN d m a bs) j = memRead d m j := by
  induction bs generalizing m a with
  | nil => rfl
  | cons b bs ih =>
    simp only [List.length_cons] at h
    rw [memWriteN, ih _ (by omega), memRead_memWrite_ne d m b (by omega)]

/-- The bytes written read back. -/
theorem memRead_memWriteN_in (d : Byte) (bs : List Byte) {m : List Host.Cell} (a i : Nat) (hi : i < bs.length) (h : memWf d m = true) :
    memRead d (memWriteN d m a bs) (a + i) = bs[i] := by
  induction bs generalizing m a i with
  | nil => simp at hi
  | cons b bs ih =>
    cases i with
    | zero => rw [memWriteN, memRead_memWriteN_out d bs _ (by omega)]; simpa using memRead_memWrite_same d a b h
    | succ i =>
      have := ih (m := memWrite d m a b) (a + 1) i (by simpa using hi) (memWrite_wf d a b h)
      simpa [memWriteN, Nat.add_assoc, Nat.add_comm 1 i] using this

theorem memReadN_length (d : Byte) (m : List Host.Cell) (a n : Nat) : (memReadN d m a n).length = n := by
  induction n generalizing a with
  | zero => rfl
  | succ n ih => simp [memReadN, ih]

end Sys2Proof.Machine
end

