-- ==== Sys2Proof/Laws/Inv.lean ====
section
/-! SUPPORT. The invariant of Safety.lean under the shapes in which the model changes the module. -/

namespace Sys2Proof.Machine

/-- A module written out: what the invariant reads of it. -/
theorem Mod.inv_mk {fx : Bool} {regs : List (Nat × Word)} {freeCtr : Nat} {clk : Clk} {fired : Nat × Nat} {mem : MemSt} {plan : PlanSt} {lanes : Vector Lane 8} {exec : ExecSt} {outs : Vector OutSt 48} {bit : BitSt} {retain : Vector RetainSlot 2} {logs : LogSt} {sw : Vector Sw 31} {nvm : NvmSt} {jack : JackSt} {fio : FioSt} {safe : SafeSt} {loops : List (Nat × LoopSt)} {tests : Vector LoopTestSt 4} {met : MetSt} {ports : PortsSt} {twin : TwinSt} {orpor : OrporSt} {upl : Vector UplSt 2} {pool : PoolSt} {rtc : RtcSt} {key : KeySt} {pwr : PwrSt}
    : Mod.Inv ⟨fx, regs, freeCtr, clk, fired, mem, plan, lanes, exec, outs, bit, retain, logs, sw, nvm, jack, fio, safe, loops, tests, met, ports, twin, orpor, upl, pool, rtc, key, pwr⟩ ↔ Kept regs mem.cells lanes rtc.cal rtc.wday rtc.waits := Iff.rfl

variable {rs rs' : List (Nat × Word)} {tiles : List Host.Cell} {lanes : Vector Lane 8} {cal : Cal} {wday : Nat} {waits : Option Cal}

theorem Kept.set (h : Kept rs tiles lanes cal wday waits) (f : Fld) (v : Nat) : Kept (fldSet rs f v) tiles lanes cal wday waits :=
  ⟨fldSet_wf f v h.regs, h.cells, h.bufs, h.date, h.day, h.wait⟩

theorem Kept.write (h : Kept rs tiles lanes cal wday waits) (a : Nat) (w : Word) : Kept (regWrite rs a w) tiles lanes cal wday waits :=
  ⟨regWrite_wf a w h.regs, h.cells, h.bufs, h.date, h.day, h.wait⟩

theorem Kept.clear (h : Kept rs tiles lanes cal wday waits) (lo hi : Nat) : Kept (regsClear rs lo hi) tiles lanes cal wday waits :=
  ⟨regsClear_wf lo hi h.regs, h.cells, h.bufs, h.date, h.day, h.wait⟩

theorem Kept.ite (c : Prop) [Decidable c] (h : Kept rs tiles lanes cal wday waits) (h' : Kept rs' tiles lanes cal wday waits) :
    Kept (if c then rs else rs') tiles lanes cal wday waits := by
  split
  · exact h
  · exact h'

theorem Kept.store (h : Kept rs tiles lanes cal wday waits) (a : Nat) (bs : List Byte) : Kept rs (memWriteN 0 tiles a bs) lanes cal wday waits :=
  ⟨h.regs, memWriteN_wf 0 bs a h.cells, h.bufs, h.date, h.day, h.wait⟩

theorem Kept.blank (h : Kept rs tiles lanes cal wday waits) : Kept rs [] lanes cal wday waits :=
  ⟨h.regs, rfl, h.bufs, h.date, h.day, h.wait⟩

theorem Kept.lane (h : Kept rs tiles lanes cal wday waits) (i : Nat) (hi : i < 8) {ln : Lane} (hl : memWf 0 ln.buf = true) :
    Kept rs tiles (lanes.set i ln hi) cal wday waits := by
  refine ⟨h.regs, h.cells, fun j => ?_, h.date, h.day, h.wait⟩
  by_cases hij : i = j.val
  · subst hij; simpa using hl
  · simpa [Vector.getElem_set, hij] using h.bufs j

theorem Kept.laneMap (h : Kept rs tiles lanes cal wday waits) (f : Lane → Lane) (hf : ∀ l, memWf 0 l.buf = true → memWf 0 (f l).buf = true) :
    Kept rs tiles (lanes.map f) cal wday waits :=
  ⟨h.regs, h.cells, fun j => by simpa using hf _ (h.bufs j), h.date, h.day, h.wait⟩

theorem Mod.Inv.kept {m : Mod} (h : m.Inv) : Kept m.regs m.mem.cells m.lanes m.rtc.cal m.rtc.wday m.rtc.waits := h

theorem Mod.Inv.buf {m : Mod} (h : m.Inv) (i : Fin 8) : memWf 0 m.lanes[i].buf = true := Kept.bufs h i

theorem foldl_inv {α : Type} {f : Mod → α → Mod} {l : List α} {m : Mod} (h : m.Inv) (hf : ∀ m, m.Inv → ∀ a, (f m a).Inv) :
    (l.foldl f m).Inv := by
  induction l generalizing m with
  | nil => exact h
  | cons a l ih => exact ih (hf m h a)

theorem foldl_fst_inv {α β : Type} {f : Mod × β → α → Mod × β} {l : List α} {p : Mod × β} (h : p.1.Inv)
    (hf : ∀ p, p.1.Inv → ∀ a, (f p a).1.Inv) : (l.foldl f p).1.Inv := by
  induction l generalizing p with
  | nil => exact h
  | cons a l ih => exact ih (hf p h a)

theorem Mod.Inv.of_eq {α : Type} {p : Mod × α} {m : Mod} {a : α} (e : p = (m, a)) (h : p.1.Inv) : m.Inv := by
  subst e; exact h

theorem Kept.laneFn (h : Kept rs tiles lanes cal wday waits) (f : Fin 8 → Lane) (hf : ∀ i, memWf 0 (f i).buf = true) :
    Kept rs tiles (Vector.ofFn f) cal wday waits :=
  ⟨h.regs, h.cells, fun j => by simpa using hf j, h.date, h.day, h.wait⟩

theorem Kept.laneReset (h : Kept rs tiles lanes cal wday waits) : Kept rs tiles (Vector.replicate 8 {}) cal wday waits :=
  ⟨h.regs, h.cells, fun j => by simp only [Fin.getElem_fin, Vector.getElem_replicate]; rfl, h.date, h.day, h.wait⟩

theorem ite_inv {c : Prop} [Decidable c] {a b : Mod} (ha : a.Inv) (hb : b.Inv) : (if c then a else b).Inv := by
  split
  · exact ha
  · exact hb

theorem ite_fst_inv {α : Type} {c : Prop} [Decidable c] {a b : Mod × α} (ha : a.1.Inv) (hb : b.1.Inv) :
    (if c then a else b).1.Inv := by
  split
  · exact ha
  · exact hb

theorem Mod.set_inv {m : Mod} (f : Fld) (v : Nat) (h : m.Inv) : (m.set f v).Inv := Kept.set h f v

theorem Mod.setWord_inv {m : Mod} (a : Nat) (w : Word) (h : m.Inv) : (m.setWord a w).Inv := Kept.write h a w

theorem Mod.when_inv {m : Mod} {c : Bool} {f : Mod → Mod} (h : m.Inv) (hf : ∀ m, m.Inv → (f m).Inv) : (m.when c f).Inv := by
  unfold Mod.when
  split
  · exact hf m h
  · exact h

/-- An outcome whose next state, where there is one, keeps the invariant. -/
structure Keeps (o : Out) : Prop where
  inv : ∀ t, o = .next t → t.m.Inv

theorem onMod_inv {s : State} {f : Mod → Mod} (hs : s.m.Inv) (hf : ∀ m, m.Inv → (f m).Inv) : Keeps (onMod s f) := by
  refine ⟨fun t ht => ?_⟩
  cases ht
  exact hf _ hs

end Sys2Proof.Machine
end

