-- ==== Sys2Proof/Laws/KeepsOps.lean ====
section
/-! SUPPORT. What the operations of Machine/Ops.lean keep: the module's canonical forms and its calendar (Safety.lean). -/

set_option linter.unusedTactic false
set_option linter.unreachableTactic false
set_option linter.tactic.unusedName false
set_option linter.unusedSimpArgs false
set_option linter.unusedVariables false

namespace Sys2Proof.Machine

theorem Mod.setB_inv (m : Mod) (f : Fld) (b : Bool) (hm : m.Inv) :
    (@Mod.setB m f b).Inv := by
  delta Mod.setB
  repeat' first
    | with_reducible assumption
    | (with_reducible refine Mod.Inv.of_eq (by with_reducible assumption) ?_)
    | intro _
    | with_reducible apply Mod.Inv.kept
    | (simp -zeta only [Mod.inv_mk]; try dsimp only)
    | (extract_lets +onlyGivenNames mm; refine (fun hmm : Mod.Inv mm => ?_) ?_; clear_value mm; revert mm; intro _ _; rotate_left; dsimp -zeta +instances only [mm]; clear mm)
    | (extract_lets +onlyGivenNames mm; refine (fun hmm : Mod.Inv mm.1 => ?_) ?_; clear_value mm; revert mm; intro _ _; rotate_left; dsimp -zeta +instances only [mm]; clear mm)
    | (extract_lets +onlyGivenNames mm; dsimp -zeta +instances only [mm]; clear mm)
    | (extract_lets +onlyGivenNames mm; clear mm)
    | with_reducible apply Mod.set_inv
    | with_reducible apply foldl_inv
    | with_reducible apply foldl_fst_inv
    | with_reducible apply ite_inv
    | with_reducible apply ite_fst_inv
    | split

theorem Mod.addSat_inv (m : Mod) (f : Fld) (k : Nat) (hm : m.Inv) :
    (@Mod.addSat m f k).Inv := by
  delta Mod.addSat
  repeat' first
    | with_reducible assumption
    | (with_reducible refine Mod.Inv.of_eq (by with_reducible assumption) ?_)
    | intro _
    | with_reducible apply Mod.Inv.kept
    | (simp -zeta only [Mod.inv_mk]; try dsimp only)
    | (extract_lets +onlyGivenNames mm; refine (fun hmm : Mod.Inv mm => ?_) ?_; clear_value mm; revert mm; intro _ _; rotate_left; dsimp -zeta +instances only [mm]; clear mm)
    | (extract_lets +onlyGivenNames mm; refine (fun hmm : Mod.Inv mm.1 => ?_) ?_; clear_value mm; revert mm; intro _ _; rotate_left; dsimp -zeta +instances only [mm]; clear mm)
    | (extract_lets +onlyGivenNames mm; dsimp -zeta +instances only [mm]; clear mm)
    | (extract_lets +onlyGivenNames mm; clear mm)
    | with_reducible apply Mod.set_inv
    | with_reducible apply foldl_inv
    | with_reducible apply foldl_fst_inv
    | with_reducible apply ite_inv
    | with_reducible apply ite_fst_inv
    | split

theorem Mod.addWrap_inv (m : Mod) (f : Fld) (k : Nat) (hm : m.Inv) :
    (@Mod.addWrap m f k).Inv := by
  delta Mod.addWrap
  repeat' first
    | with_reducible assumption
    | (with_reducible refine Mod.Inv.of_eq (by with_reducible assumption) ?_)
    | intro _
    | with_reducible apply Mod.Inv.kept
    | (simp -zeta only [Mod.inv_mk]; try dsimp only)
    | (extract_lets +onlyGivenNames mm; refine (fun hmm : Mod.Inv mm => ?_) ?_; clear_value mm; revert mm; intro _ _; rotate_left; dsimp -zeta +instances only [mm]; clear mm)
    | (extract_lets +onlyGivenNames mm; refine (fun hmm : Mod.Inv mm.1 => ?_) ?_; clear_value mm; revert mm; intro _ _; rotate_left; dsimp -zeta +instances only [mm]; clear mm)
    | (extract_lets +onlyGivenNames mm; dsimp -zeta +instances only [mm]; clear mm)
    | (extract_lets +onlyGivenNames mm; clear mm)
    | with_reducible apply Mod.set_inv
    | with_reducible apply foldl_inv
    | with_reducible apply foldl_fst_inv
    | with_reducible apply ite_inv
    | with_reducible apply ite_fst_inv
    | split

theorem Mod.drawn_inv (m : Mod) (hm : m.Inv) :
    (@Mod.drawn m).Inv := by
  delta Mod.drawn
  repeat' first
    | with_reducible assumption
    | (with_reducible refine Mod.Inv.of_eq (by with_reducible assumption) ?_)
    | intro _
    | with_reducible apply Mod.Inv.kept
    | (simp -zeta only [Mod.inv_mk]; try dsimp only)
    | (extract_lets +onlyGivenNames mm; refine (fun hmm : Mod.Inv mm => ?_) ?_; clear_value mm; revert mm; intro _ _; rotate_left; dsimp -zeta +instances only [mm]; clear mm)
    | (extract_lets +onlyGivenNames mm; refine (fun hmm : Mod.Inv mm.1 => ?_) ?_; clear_value mm; revert mm; intro _ _; rotate_left; dsimp -zeta +instances only [mm]; clear mm)
    | (extract_lets +onlyGivenNames mm; dsimp -zeta +instances only [mm]; clear mm)
    | (extract_lets +onlyGivenNames mm; clear mm)
    | with_reducible apply foldl_inv
    | with_reducible apply foldl_fst_inv
    | with_reducible apply ite_inv
    | with_reducible apply ite_fst_inv
    | split

theorem Mod.ctrAdd_inv (m : Mod) (i : Fin 24) (k : Nat) (hm : m.Inv) :
    (@Mod.ctrAdd m i k).Inv := by
  delta Mod.ctrAdd
  repeat' first
    | with_reducible assumption
    | (with_reducible refine Mod.Inv.of_eq (by with_reducible assumption) ?_)
    | intro _
    | with_reducible apply Mod.Inv.kept
    | (simp -zeta only [Mod.inv_mk]; try dsimp only)
    | (extract_lets +onlyGivenNames mm; refine (fun hmm : Mod.Inv mm => ?_) ?_; clear_value mm; revert mm; intro _ _; rotate_left; dsimp -zeta +instances only [mm]; clear mm)
    | (extract_lets +onlyGivenNames mm; refine (fun hmm : Mod.Inv mm.1 => ?_) ?_; clear_value mm; revert mm; intro _ _; rotate_left; dsimp -zeta +instances only [mm]; clear mm)
    | (extract_lets +onlyGivenNames mm; dsimp -zeta +instances only [mm]; clear mm)
    | (extract_lets +onlyGivenNames mm; clear mm)
    | with_reducible apply Mod.set_inv
    | with_reducible apply foldl_inv
    | with_reducible apply foldl_fst_inv
    | with_reducible apply ite_inv
    | with_reducible apply ite_fst_inv
    | split

theorem Mod.log_inv (m : Mod) (e : Ev) (source : Nat) (data : List Byte) (hm : m.Inv) :
    (@Mod.log m e source data).Inv := by
  delta Mod.log
  repeat' first
    | with_reducible assumption
    | (with_reducible refine Mod.Inv.of_eq (by with_reducible assumption) ?_)
    | intro _
    | with_reducible apply Mod.Inv.kept
    | (simp -zeta only [Mod.inv_mk]; try dsimp only)
    | (extract_lets +onlyGivenNames mm; refine (fun hmm : Mod.Inv mm => ?_) ?_; clear_value mm; revert mm; intro _ _; rotate_left; dsimp -zeta +instances only [mm]; clear mm)
    | (extract_lets +onlyGivenNames mm; refine (fun hmm : Mod.Inv mm.1 => ?_) ?_; clear_value mm; revert mm; intro _ _; rotate_left; dsimp -zeta +instances only [mm]; clear mm)
    | (extract_lets +onlyGivenNames mm; dsimp -zeta +instances only [mm]; clear mm)
    | (extract_lets +onlyGivenNames mm; clear mm)
    | with_reducible apply foldl_inv
    | with_reducible apply foldl_fst_inv
    | with_reducible apply Kept.set
    | with_reducible apply Kept.ite
    | with_reducible apply ite_inv
    | with_reducible apply ite_fst_inv
    | split

theorem Mod.paramPut_inv (m : Mod) (key : Nat) (payload : List Byte) (tag : Option (Nat × Nat)) (hm : m.Inv) :
    (@Mod.paramPut m key payload tag).Inv := by
  delta Mod.paramPut
  repeat' first
    | with_reducible assumption
    | (with_reducible refine Mod.Inv.of_eq (by with_reducible assumption) ?_)
    | intro _
    | with_reducible apply Mod.Inv.kept
    | (simp -zeta only [Mod.inv_mk]; try dsimp only)
    | (extract_lets +onlyGivenNames mm; refine (fun hmm : Mod.Inv mm => ?_) ?_; clear_value mm; revert mm; intro _ _; rotate_left; dsimp -zeta +instances only [mm]; clear mm)
    | (extract_lets +onlyGivenNames mm; refine (fun hmm : Mod.Inv mm.1 => ?_) ?_; clear_value mm; revert mm; intro _ _; rotate_left; dsimp -zeta +instances only [mm]; clear mm)
    | (extract_lets +onlyGivenNames mm; dsimp -zeta +instances only [mm]; clear mm)
    | (extract_lets +onlyGivenNames mm; clear mm)
    | with_reducible apply foldl_inv
    | with_reducible apply foldl_fst_inv
    | with_reducible apply ite_inv
    | with_reducible apply ite_fst_inv
    | split

theorem Mod.paramDel_inv (m : Mod) (key : Nat) (tag : Option (Nat × Nat)) (hm : m.Inv) :
    (@Mod.paramDel m key tag).Inv := by
  delta Mod.paramDel
  repeat' first
    | with_reducible assumption
    | (with_reducible refine Mod.Inv.of_eq (by with_reducible assumption) ?_)
    | intro _
    | with_reducible apply Mod.Inv.kept
    | (simp -zeta only [Mod.inv_mk]; try dsimp only)
    | (extract_lets +onlyGivenNames mm; refine (fun hmm : Mod.Inv mm => ?_) ?_; clear_value mm; revert mm; intro _ _; rotate_left; dsimp -zeta +instances only [mm]; clear mm)
    | (extract_lets +onlyGivenNames mm; refine (fun hmm : Mod.Inv mm.1 => ?_) ?_; clear_value mm; revert mm; intro _ _; rotate_left; dsimp -zeta +instances only [mm]; clear mm)
    | (extract_lets +onlyGivenNames mm; dsimp -zeta +instances only [mm]; clear mm)
    | (extract_lets +onlyGivenNames mm; clear mm)
    | with_reducible apply foldl_inv
    | with_reducible apply foldl_fst_inv
    | with_reducible apply ite_inv
    | with_reducible apply ite_fst_inv
    | split

theorem Mod.change_inv (m : Mod) (kind session old new : Nat) (hm : m.Inv) :
    (@Mod.change m kind session old new).Inv := by
  delta Mod.change
  repeat' first
    | with_reducible assumption
    | (with_reducible refine Mod.Inv.of_eq (by with_reducible assumption) ?_)
    | intro _
    | with_reducible apply Mod.Inv.kept
    | (simp -zeta only [Mod.inv_mk]; try dsimp only)
    | (extract_lets +onlyGivenNames mm; refine (fun hmm : Mod.Inv mm => ?_) ?_; clear_value mm; revert mm; intro _ _; rotate_left; dsimp -zeta +instances only [mm]; clear mm)
    | (extract_lets +onlyGivenNames mm; refine (fun hmm : Mod.Inv mm.1 => ?_) ?_; clear_value mm; revert mm; intro _ _; rotate_left; dsimp -zeta +instances only [mm]; clear mm)
    | (extract_lets +onlyGivenNames mm; dsimp -zeta +instances only [mm]; clear mm)
    | (extract_lets +onlyGivenNames mm; clear mm)
    | with_reducible apply Mod.log_inv
    | with_reducible apply Mod.when_inv
    | with_reducible apply foldl_inv
    | with_reducible apply foldl_fst_inv
    | with_reducible apply ite_inv
    | with_reducible apply ite_fst_inv
    | split

theorem Mod.changeAct_inv (m : Mod) (kind session old new : Nat) (took : Bool) (hm : m.Inv) :
    (@Mod.changeAct m kind session old new took).Inv := by
  delta Mod.changeAct
  repeat' first
    | with_reducible assumption
    | (with_reducible refine Mod.Inv.of_eq (by with_reducible assumption) ?_)
    | intro _
    | with_reducible apply Mod.Inv.kept
    | (simp -zeta only [Mod.inv_mk]; try dsimp only)
    | (extract_lets +onlyGivenNames mm; refine (fun hmm : Mod.Inv mm => ?_) ?_; clear_value mm; revert mm; intro _ _; rotate_left; dsimp -zeta +instances only [mm]; clear mm)
    | (extract_lets +onlyGivenNames mm; refine (fun hmm : Mod.Inv mm.1 => ?_) ?_; clear_value mm; revert mm; intro _ _; rotate_left; dsimp -zeta +instances only [mm]; clear mm)
    | (extract_lets +onlyGivenNames mm; dsimp -zeta +instances only [mm]; clear mm)
    | (extract_lets +onlyGivenNames mm; clear mm)
    | with_reducible apply Mod.change_inv
    | with_reducible apply Mod.when_inv
    | with_reducible apply foldl_inv
    | with_reducible apply foldl_fst_inv
    | with_reducible apply ite_inv
    | with_reducible apply ite_fst_inv
    | split

theorem Mod.goto_inv (m : Mod) (x : Nat) (hm : m.Inv) :
    (@Mod.goto m x).Inv := by
  delta Mod.goto
  repeat' first
    | with_reducible assumption
    | (with_reducible refine Mod.Inv.of_eq (by with_reducible assumption) ?_)
    | intro _
    | with_reducible apply Mod.Inv.kept
    | (simp -zeta only [Mod.inv_mk]; try dsimp only)
    | (extract_lets +onlyGivenNames mm; refine (fun hmm : Mod.Inv mm => ?_) ?_; clear_value mm; revert mm; intro _ _; rotate_left; dsimp -zeta +instances only [mm]; clear mm)
    | (extract_lets +onlyGivenNames mm; refine (fun hmm : Mod.Inv mm.1 => ?_) ?_; clear_value mm; revert mm; intro _ _; rotate_left; dsimp -zeta +instances only [mm]; clear mm)
    | (extract_lets +onlyGivenNames mm; dsimp -zeta +instances only [mm]; clear mm)
    | (extract_lets +onlyGivenNames mm; clear mm)
    | with_reducible apply Mod.set_inv
    | with_reducible apply foldl_inv
    | with_reducible apply foldl_fst_inv
    | with_reducible apply ite_inv
    | with_reducible apply ite_fst_inv
    | split

theorem Mod.swMap_inv (m : Mod) (i : Fin 31) (f : Sw → Sw) (hm : m.Inv) :
    (@Mod.swMap m i f).Inv := by
  delta Mod.swMap
  repeat' first
    | with_reducible assumption
    | (with_reducible refine Mod.Inv.of_eq (by with_reducible assumption) ?_)
    | intro _
    | with_reducible apply Mod.Inv.kept
    | (simp -zeta only [Mod.inv_mk]; try dsimp only)
    | (extract_lets +onlyGivenNames mm; refine (fun hmm : Mod.Inv mm => ?_) ?_; clear_value mm; revert mm; intro _ _; rotate_left; dsimp -zeta +instances only [mm]; clear mm)
    | (extract_lets +onlyGivenNames mm; refine (fun hmm : Mod.Inv mm.1 => ?_) ?_; clear_value mm; revert mm; intro _ _; rotate_left; dsimp -zeta +instances only [mm]; clear mm)
    | (extract_lets +onlyGivenNames mm; dsimp -zeta +instances only [mm]; clear mm)
    | (extract_lets +onlyGivenNames mm; clear mm)
    | with_reducible apply Mod.set_inv
    | with_reducible apply foldl_inv
    | with_reducible apply foldl_fst_inv
    | with_reducible apply ite_inv
    | with_reducible apply ite_fst_inv
    | split

theorem Mod.swOn_inv (m : Mod) (i : Fin 31) (hm : m.Inv) :
    (@Mod.swOn m i).Inv := by
  delta Mod.swOn
  repeat' first
    | with_reducible assumption
    | (with_reducible refine Mod.Inv.of_eq (by with_reducible assumption) ?_)
    | intro _
    | with_reducible apply Mod.Inv.kept
    | (simp -zeta only [Mod.inv_mk]; try dsimp only)
    | (extract_lets +onlyGivenNames mm; refine (fun hmm : Mod.Inv mm => ?_) ?_; clear_value mm; revert mm; intro _ _; rotate_left; dsimp -zeta +instances only [mm]; clear mm)
    | (extract_lets +onlyGivenNames mm; refine (fun hmm : Mod.Inv mm.1 => ?_) ?_; clear_value mm; revert mm; intro _ _; rotate_left; dsimp -zeta +instances only [mm]; clear mm)
    | (extract_lets +onlyGivenNames mm; dsimp -zeta +instances only [mm]; clear mm)
    | (extract_lets +onlyGivenNames mm; clear mm)
    | with_reducible apply Mod.swMap_inv
    | with_reducible apply foldl_inv
    | with_reducible apply foldl_fst_inv
    | with_reducible apply ite_inv
    | with_reducible apply ite_fst_inv
    | split

theorem Mod.swOff_inv (m : Mod) (i : Fin 31) (hm : m.Inv) :
    (@Mod.swOff m i).Inv := by
  delta Mod.swOff
  repeat' first
    | with_reducible assumption
    | (with_reducible refine Mod.Inv.of_eq (by with_reducible assumption) ?_)
    | intro _
    | with_reducible apply Mod.Inv.kept
    | (simp -zeta only [Mod.inv_mk]; try dsimp only)
    | (extract_lets +onlyGivenNames mm; refine (fun hmm : Mod.Inv mm => ?_) ?_; clear_value mm; revert mm; intro _ _; rotate_left; dsimp -zeta +instances only [mm]; clear mm)
    | (extract_lets +onlyGivenNames mm; refine (fun hmm : Mod.Inv mm.1 => ?_) ?_; clear_value mm; revert mm; intro _ _; rotate_left; dsimp -zeta +instances only [mm]; clear mm)
    | (extract_lets +onlyGivenNames mm; dsimp -zeta +instances only [mm]; clear mm)
    | (extract_lets +onlyGivenNames mm; clear mm)
    | with_reducible apply Mod.swMap_inv
    | with_reducible apply foldl_inv
    | with_reducible apply foldl_fst_inv
    | with_reducible apply ite_inv
    | with_reducible apply ite_fst_inv
    | split

theorem Mod.swOnNow_inv (m : Mod) (i : Fin 31) (hm : m.Inv) :
    (@Mod.swOnNow m i).Inv := by
  delta Mod.swOnNow
  repeat' first
    | with_reducible assumption
    | (with_reducible refine Mod.Inv.of_eq (by with_reducible assumption) ?_)
    | intro _
    | with_reducible apply Mod.Inv.kept
    | (simp -zeta only [Mod.inv_mk]; try dsimp only)
    | (extract_lets +onlyGivenNames mm; refine (fun hmm : Mod.Inv mm => ?_) ?_; clear_value mm; revert mm; intro _ _; rotate_left; dsimp -zeta +instances only [mm]; clear mm)
    | (extract_lets +onlyGivenNames mm; refine (fun hmm : Mod.Inv mm.1 => ?_) ?_; clear_value mm; revert mm; intro _ _; rotate_left; dsimp -zeta +instances only [mm]; clear mm)
    | (extract_lets +onlyGivenNames mm; dsimp -zeta +instances only [mm]; clear mm)
    | (extract_lets +onlyGivenNames mm; clear mm)
    | with_reducible apply Mod.swMap_inv
    | with_reducible apply foldl_inv
    | with_reducible apply foldl_fst_inv
    | with_reducible apply ite_inv
    | with_reducible apply ite_fst_inv
    | split

theorem Mod.reach_inv (m : Mod) (t : Nat) (hm : m.Inv) :
    (@Mod.reach m t).Inv := by
  delta Mod.reach
  repeat' first
    | with_reducible assumption
    | (with_reducible refine Mod.Inv.of_eq (by with_reducible assumption) ?_)
    | intro _
    | with_reducible apply Mod.Inv.kept
    | (simp -zeta only [Mod.inv_mk]; try dsimp only)
    | (extract_lets +onlyGivenNames mm; refine (fun hmm : Mod.Inv mm => ?_) ?_; clear_value mm; revert mm; intro _ _; rotate_left; dsimp -zeta +instances only [mm]; clear mm)
    | (extract_lets +onlyGivenNames mm; refine (fun hmm : Mod.Inv mm.1 => ?_) ?_; clear_value mm; revert mm; intro _ _; rotate_left; dsimp -zeta +instances only [mm]; clear mm)
    | (extract_lets +onlyGivenNames mm; dsimp -zeta +instances only [mm]; clear mm)
    | (extract_lets +onlyGivenNames mm; clear mm)
    | with_reducible apply foldl_inv
    | with_reducible apply foldl_fst_inv
    | with_reducible apply ite_inv
    | with_reducible apply ite_fst_inv
    | split

theorem Mod.outMap_inv (m : Mod) (o : Fin 48) (f : OutSt → OutSt) (hm : m.Inv) :
    (@Mod.outMap m o f).Inv := by
  delta Mod.outMap
  repeat' first
    | with_reducible assumption
    | (with_reducible refine Mod.Inv.of_eq (by with_reducible assumption) ?_)
    | intro _
    | with_reducible apply Mod.Inv.kept
    | (simp -zeta only [Mod.inv_mk]; try dsimp only)
    | (extract_lets +onlyGivenNames mm; refine (fun hmm : Mod.Inv mm => ?_) ?_; clear_value mm; revert mm; intro _ _; rotate_left; dsimp -zeta +instances only [mm]; clear mm)
    | (extract_lets +onlyGivenNames mm; refine (fun hmm : Mod.Inv mm.1 => ?_) ?_; clear_value mm; revert mm; intro _ _; rotate_left; dsimp -zeta +instances only [mm]; clear mm)
    | (extract_lets +onlyGivenNames mm; dsimp -zeta +instances only [mm]; clear mm)
    | (extract_lets +onlyGivenNames mm; clear mm)
    | with_reducible apply Mod.set_inv
    | with_reducible apply foldl_inv
    | with_reducible apply foldl_fst_inv
    | with_reducible apply ite_inv
    | with_reducible apply ite_fst_inv
    | split

theorem Mod.reqSafe_inv (m : Mod) (o : Fin 48) (bit : Nat) (hm : m.Inv) :
    (@Mod.reqSafe m o bit).Inv := by
  delta Mod.reqSafe
  repeat' first
    | with_reducible assumption
    | (with_reducible refine Mod.Inv.of_eq (by with_reducible assumption) ?_)
    | intro _
    | with_reducible apply Mod.Inv.kept
    | (simp -zeta only [Mod.inv_mk]; try dsimp only)
    | (extract_lets +onlyGivenNames mm; refine (fun hmm : Mod.Inv mm => ?_) ?_; clear_value mm; revert mm; intro _ _; rotate_left; dsimp -zeta +instances only [mm]; clear mm)
    | (extract_lets +onlyGivenNames mm; refine (fun hmm : Mod.Inv mm.1 => ?_) ?_; clear_value mm; revert mm; intro _ _; rotate_left; dsimp -zeta +instances only [mm]; clear mm)
    | (extract_lets +onlyGivenNames mm; dsimp -zeta +instances only [mm]; clear mm)
    | (extract_lets +onlyGivenNames mm; clear mm)
    | with_reducible apply Mod.outMap_inv
    | with_reducible apply foldl_inv
    | with_reducible apply foldl_fst_inv
    | with_reducible apply ite_inv
    | with_reducible apply ite_fst_inv
    | split

theorem Mod.dropSafe_inv (m : Mod) (o : Fin 48) (bit : Nat) (hm : m.Inv) :
    (@Mod.dropSafe m o bit).Inv := by
  delta Mod.dropSafe
  repeat' first
    | with_reducible assumption
    | (with_reducible refine Mod.Inv.of_eq (by with_reducible assumption) ?_)
    | intro _
    | with_reducible apply Mod.Inv.kept
    | (simp -zeta only [Mod.inv_mk]; try dsimp only)
    | (extract_lets +onlyGivenNames mm; refine (fun hmm : Mod.Inv mm => ?_) ?_; clear_value mm; revert mm; intro _ _; rotate_left; dsimp -zeta +instances only [mm]; clear mm)
    | (extract_lets +onlyGivenNames mm; refine (fun hmm : Mod.Inv mm.1 => ?_) ?_; clear_value mm; revert mm; intro _ _; rotate_left; dsimp -zeta +instances only [mm]; clear mm)
    | (extract_lets +onlyGivenNames mm; dsimp -zeta +instances only [mm]; clear mm)
    | (extract_lets +onlyGivenNames mm; clear mm)
    | with_reducible apply Mod.outMap_inv
    | with_reducible apply foldl_inv
    | with_reducible apply foldl_fst_inv
    | with_reducible apply ite_inv
    | with_reducible apply ite_fst_inv
    | split

theorem Mod.reqSafeAll_inv (m : Mod) (bit : Nat) (hm : m.Inv) :
    (@Mod.reqSafeAll m bit).Inv := by
  delta Mod.reqSafeAll
  repeat' first
    | with_reducible assumption
    | (with_reducible refine Mod.Inv.of_eq (by with_reducible assumption) ?_)
    | intro _
    | with_reducible apply Mod.Inv.kept
    | (simp -zeta only [Mod.inv_mk]; try dsimp only)
    | (extract_lets +onlyGivenNames mm; refine (fun hmm : Mod.Inv mm => ?_) ?_; clear_value mm; revert mm; intro _ _; rotate_left; dsimp -zeta +instances only [mm]; clear mm)
    | (extract_lets +onlyGivenNames mm; refine (fun hmm : Mod.Inv mm.1 => ?_) ?_; clear_value mm; revert mm; intro _ _; rotate_left; dsimp -zeta +instances only [mm]; clear mm)
    | (extract_lets +onlyGivenNames mm; dsimp -zeta +instances only [mm]; clear mm)
    | (extract_lets +onlyGivenNames mm; clear mm)
    | with_reducible apply foldl_inv
    | with_reducible apply foldl_fst_inv
    | with_reducible apply ite_inv
    | with_reducible apply ite_fst_inv
    | split

theorem Mod.dropStaging_inv (m : Mod) (hm : m.Inv) :
    (@Mod.dropStaging m).Inv := by
  delta Mod.dropStaging
  repeat' first
    | with_reducible assumption
    | (with_reducible refine Mod.Inv.of_eq (by with_reducible assumption) ?_)
    | intro _
    | with_reducible apply Mod.Inv.kept
    | (simp -zeta only [Mod.inv_mk]; try dsimp only)
    | (extract_lets +onlyGivenNames mm; refine (fun hmm : Mod.Inv mm => ?_) ?_; clear_value mm; revert mm; intro _ _; rotate_left; dsimp -zeta +instances only [mm]; clear mm)
    | (extract_lets +onlyGivenNames mm; refine (fun hmm : Mod.Inv mm.1 => ?_) ?_; clear_value mm; revert mm; intro _ _; rotate_left; dsimp -zeta +instances only [mm]; clear mm)
    | (extract_lets +onlyGivenNames mm; dsimp -zeta +instances only [mm]; clear mm)
    | (extract_lets +onlyGivenNames mm; clear mm)
    | with_reducible apply foldl_inv
    | with_reducible apply foldl_fst_inv
    | with_reducible apply ite_inv
    | with_reducible apply ite_fst_inv
    | split

theorem Mod.jackOff_inv (m : Mod) (hm : m.Inv) :
    (@Mod.jackOff m).Inv := by
  delta Mod.jackOff
  repeat' first
    | with_reducible assumption
    | (with_reducible refine Mod.Inv.of_eq (by with_reducible assumption) ?_)
    | intro _
    | with_reducible apply Mod.Inv.kept
    | (simp -zeta only [Mod.inv_mk]; try dsimp only)
    | (extract_lets +onlyGivenNames mm; refine (fun hmm : Mod.Inv mm => ?_) ?_; clear_value mm; revert mm; intro _ _; rotate_left; dsimp -zeta +instances only [mm]; clear mm)
    | (extract_lets +onlyGivenNames mm; refine (fun hmm : Mod.Inv mm.1 => ?_) ?_; clear_value mm; revert mm; intro _ _; rotate_left; dsimp -zeta +instances only [mm]; clear mm)
    | (extract_lets +onlyGivenNames mm; dsimp -zeta +instances only [mm]; clear mm)
    | (extract_lets +onlyGivenNames mm; clear mm)
    | with_reducible apply foldl_inv
    | with_reducible apply foldl_fst_inv
    | with_reducible apply Kept.set
    | with_reducible apply Kept.ite
    | with_reducible apply ite_inv
    | with_reducible apply ite_fst_inv
    | split

theorem Mod.setDir_inv (m : Mod) (t : Nat) (e : DirEnt) (hm : m.Inv) :
    (@Mod.setDir m t e).Inv := by
  delta Mod.setDir
  repeat' first
    | with_reducible assumption
    | (with_reducible refine Mod.Inv.of_eq (by with_reducible assumption) ?_)
    | intro _
    | with_reducible apply Mod.Inv.kept
    | (simp -zeta only [Mod.inv_mk]; try dsimp only)
    | (extract_lets +onlyGivenNames mm; refine (fun hmm : Mod.Inv mm => ?_) ?_; clear_value mm; revert mm; intro _ _; rotate_left; dsimp -zeta +instances only [mm]; clear mm)
    | (extract_lets +onlyGivenNames mm; refine (fun hmm : Mod.Inv mm.1 => ?_) ?_; clear_value mm; revert mm; intro _ _; rotate_left; dsimp -zeta +instances only [mm]; clear mm)
    | (extract_lets +onlyGivenNames mm; dsimp -zeta +instances only [mm]; clear mm)
    | (extract_lets +onlyGivenNames mm; clear mm)
    | with_reducible apply foldl_inv
    | with_reducible apply foldl_fst_inv
    | with_reducible apply ite_inv
    | with_reducible apply ite_fst_inv
    | split

theorem Mod.putTile_inv (m : Mod) (t : Nat) (bs : List Byte) (hm : m.Inv) :
    (@Mod.putTile m t bs).Inv := by
  delta Mod.putTile
  repeat' first
    | with_reducible assumption
    | (with_reducible refine Mod.Inv.of_eq (by with_reducible assumption) ?_)
    | intro _
    | with_reducible apply Mod.Inv.kept
    | (simp -zeta only [Mod.inv_mk]; try dsimp only)
    | (extract_lets +onlyGivenNames mm; refine (fun hmm : Mod.Inv mm => ?_) ?_; clear_value mm; revert mm; intro _ _; rotate_left; dsimp -zeta +instances only [mm]; clear mm)
    | (extract_lets +onlyGivenNames mm; refine (fun hmm : Mod.Inv mm.1 => ?_) ?_; clear_value mm; revert mm; intro _ _; rotate_left; dsimp -zeta +instances only [mm]; clear mm)
    | (extract_lets +onlyGivenNames mm; dsimp -zeta +instances only [mm]; clear mm)
    | (extract_lets +onlyGivenNames mm; clear mm)
    | with_reducible apply foldl_inv
    | with_reducible apply foldl_fst_inv
    | with_reducible apply Kept.store
    | with_reducible apply memWriteN_wf
    | with_reducible apply ite_inv
    | with_reducible apply ite_fst_inv
    | split

theorem Mod.bankFault_inv (m : Mod) (b : Fin 8) (hm : m.Inv) :
    (@Mod.bankFault m b).Inv := by
  delta Mod.bankFault
  repeat' first
    | with_reducible assumption
    | (with_reducible refine Mod.Inv.of_eq (by with_reducible assumption) ?_)
    | intro _
    | with_reducible apply Mod.Inv.kept
    | (simp -zeta only [Mod.inv_mk]; try dsimp only)
    | (extract_lets +onlyGivenNames mm; refine (fun hmm : Mod.Inv mm => ?_) ?_; clear_value mm; revert mm; intro _ _; rotate_left; dsimp -zeta +instances only [mm]; clear mm)
    | (extract_lets +onlyGivenNames mm; refine (fun hmm : Mod.Inv mm.1 => ?_) ?_; clear_value mm; revert mm; intro _ _; rotate_left; dsimp -zeta +instances only [mm]; clear mm)
    | (extract_lets +onlyGivenNames mm; dsimp -zeta +instances only [mm]; clear mm)
    | (extract_lets +onlyGivenNames mm; clear mm)
    | with_reducible apply Mod.paramPut_inv
    | with_reducible apply Mod.log_inv
    | with_reducible apply Mod.addSat_inv
    | with_reducible apply Mod.when_inv
    | with_reducible apply Mod.set_inv
    | with_reducible apply foldl_inv
    | with_reducible apply foldl_fst_inv
    | with_reducible apply ite_inv
    | with_reducible apply ite_fst_inv
    | split

theorem Mod.reqSafeList_inv (m : Mod) (os : List Nat) (bit : Nat) (hm : m.Inv) :
    (@Mod.reqSafeList m os bit).Inv := by
  delta Mod.reqSafeList
  repeat' first
    | with_reducible assumption
    | (with_reducible refine Mod.Inv.of_eq (by with_reducible assumption) ?_)
    | intro _
    | with_reducible apply Mod.Inv.kept
    | (simp -zeta only [Mod.inv_mk]; try dsimp only)
    | (extract_lets +onlyGivenNames mm; refine (fun hmm : Mod.Inv mm => ?_) ?_; clear_value mm; revert mm; intro _ _; rotate_left; dsimp -zeta +instances only [mm]; clear mm)
    | (extract_lets +onlyGivenNames mm; refine (fun hmm : Mod.Inv mm.1 => ?_) ?_; clear_value mm; revert mm; intro _ _; rotate_left; dsimp -zeta +instances only [mm]; clear mm)
    | (extract_lets +onlyGivenNames mm; dsimp -zeta +instances only [mm]; clear mm)
    | (extract_lets +onlyGivenNames mm; clear mm)
    | with_reducible apply Mod.reqSafe_inv
    | with_reducible apply foldl_inv
    | with_reducible apply foldl_fst_inv
    | with_reducible apply ite_inv
    | with_reducible apply ite_fst_inv
    | split

theorem Mod.rejoin_inv (m : Mod) (hm : m.Inv) :
    (@Mod.rejoin m).Inv := by
  delta Mod.rejoin
  repeat' first
    | with_reducible assumption
    | (with_reducible refine Mod.Inv.of_eq (by with_reducible assumption) ?_)
    | intro _
    | with_reducible apply Mod.Inv.kept
    | (simp -zeta only [Mod.inv_mk]; try dsimp only)
    | (extract_lets +onlyGivenNames mm; refine (fun hmm : Mod.Inv mm => ?_) ?_; clear_value mm; revert mm; intro _ _; rotate_left; dsimp -zeta +instances only [mm]; clear mm)
    | (extract_lets +onlyGivenNames mm; refine (fun hmm : Mod.Inv mm.1 => ?_) ?_; clear_value mm; revert mm; intro _ _; rotate_left; dsimp -zeta +instances only [mm]; clear mm)
    | (extract_lets +onlyGivenNames mm; dsimp -zeta +instances only [mm]; clear mm)
    | (extract_lets +onlyGivenNames mm; clear mm)
    | with_reducible apply Mod.set_inv
    | with_reducible apply foldl_inv
    | with_reducible apply foldl_fst_inv
    | with_reducible apply ite_inv
    | with_reducible apply ite_fst_inv
    | split

theorem Mod.tileFault_inv (m : Mod) (t cause master : Nat) (hm : m.Inv) :
    (@Mod.tileFault m t cause master).Inv := by
  delta Mod.tileFault
  repeat' first
    | with_reducible assumption
    | (with_reducible refine Mod.Inv.of_eq (by with_reducible assumption) ?_)
    | intro _
    | with_reducible apply Mod.Inv.kept
    | (simp -zeta only [Mod.inv_mk]; try dsimp only)
    | (extract_lets +onlyGivenNames mm; refine (fun hmm : Mod.Inv mm => ?_) ?_; clear_value mm; revert mm; intro _ _; rotate_left; dsimp -zeta +instances only [mm]; clear mm)
    | (extract_lets +onlyGivenNames mm; refine (fun hmm : Mod.Inv mm.1 => ?_) ?_; clear_value mm; revert mm; intro _ _; rotate_left; dsimp -zeta +instances only [mm]; clear mm)
    | (extract_lets +onlyGivenNames mm; dsimp -zeta +instances only [mm]; clear mm)
    | (extract_lets +onlyGivenNames mm; clear mm)
    | with_reducible apply Mod.rejoin_inv
    | with_reducible apply Mod.reqSafeList_inv
    | with_reducible apply Mod.bankFault_inv
    | with_reducible apply Mod.setDir_inv
    | with_reducible apply Mod.log_inv
    | with_reducible apply Mod.addSat_inv
    | with_reducible apply Mod.when_inv
    | with_reducible apply Mod.set_inv
    | with_reducible apply foldl_inv
    | with_reducible apply foldl_fst_inv
    | with_reducible apply ite_inv
    | with_reducible apply ite_fst_inv
    | split

theorem Mod.dirFix_inv (m : Mod) (t : Nat) (hm : m.Inv) :
    (@Mod.dirFix m t).Inv := by
  delta Mod.dirFix
  repeat' first
    | with_reducible assumption
    | (with_reducible refine Mod.Inv.of_eq (by with_reducible assumption) ?_)
    | intro _
    | with_reducible apply Mod.Inv.kept
    | (simp -zeta only [Mod.inv_mk]; try dsimp only)
    | (extract_lets +onlyGivenNames mm; refine (fun hmm : Mod.Inv mm => ?_) ?_; clear_value mm; revert mm; intro _ _; rotate_left; dsimp -zeta +instances only [mm]; clear mm)
    | (extract_lets +onlyGivenNames mm; refine (fun hmm : Mod.Inv mm.1 => ?_) ?_; clear_value mm; revert mm; intro _ _; rotate_left; dsimp -zeta +instances only [mm]; clear mm)
    | (extract_lets +onlyGivenNames mm; dsimp -zeta +instances only [mm]; clear mm)
    | (extract_lets +onlyGivenNames mm; clear mm)
    | with_reducible apply Mod.setDir_inv
    | with_reducible apply Mod.addSat_inv
    | with_reducible apply Mod.when_inv
    | with_reducible apply foldl_inv
    | with_reducible apply foldl_fst_inv
    | with_reducible apply ite_inv
    | with_reducible apply ite_fst_inv
    | split

theorem Mod.dirUse_inv (m : Mod) (t master : Nat) (hm : m.Inv) :
    (@Mod.dirUse m t master).Inv := by
  delta Mod.dirUse
  repeat' first
    | with_reducible assumption
    | (with_reducible refine Mod.Inv.of_eq (by with_reducible assumption) ?_)
    | intro _
    | with_reducible apply Mod.Inv.kept
    | (simp -zeta only [Mod.inv_mk]; try dsimp only)
    | (extract_lets +onlyGivenNames mm; refine (fun hmm : Mod.Inv mm => ?_) ?_; clear_value mm; revert mm; intro _ _; rotate_left; dsimp -zeta +instances only [mm]; clear mm)
    | (extract_lets +onlyGivenNames mm; refine (fun hmm : Mod.Inv mm.1 => ?_) ?_; clear_value mm; revert mm; intro _ _; rotate_left; dsimp -zeta +instances only [mm]; clear mm)
    | (extract_lets +onlyGivenNames mm; dsimp -zeta +instances only [mm]; clear mm)
    | (extract_lets +onlyGivenNames mm; clear mm)
    | with_reducible apply Mod.dirFix_inv
    | with_reducible apply Mod.tileFault_inv
    | with_reducible apply Mod.when_inv
    | with_reducible apply foldl_inv
    | with_reducible apply foldl_fst_inv
    | with_reducible apply ite_inv
    | with_reducible apply ite_fst_inv
    | split

theorem Mod.loadEffect_inv (m : Mod) (t master : Nat) (hm : m.Inv) :
    (@Mod.loadEffect m t master).Inv := by
  delta Mod.loadEffect
  repeat' first
    | with_reducible assumption
    | (with_reducible refine Mod.Inv.of_eq (by with_reducible assumption) ?_)
    | intro _
    | with_reducible apply Mod.Inv.kept
    | (simp -zeta only [Mod.inv_mk]; try dsimp only)
    | (extract_lets +onlyGivenNames mm; refine (fun hmm : Mod.Inv mm => ?_) ?_; clear_value mm; revert mm; intro _ _; rotate_left; dsimp -zeta +instances only [mm]; clear mm)
    | (extract_lets +onlyGivenNames mm; refine (fun hmm : Mod.Inv mm.1 => ?_) ?_; clear_value mm; revert mm; intro _ _; rotate_left; dsimp -zeta +instances only [mm]; clear mm)
    | (extract_lets +onlyGivenNames mm; dsimp -zeta +instances only [mm]; clear mm)
    | (extract_lets +onlyGivenNames mm; clear mm)
    | with_reducible apply Mod.dirFix_inv
    | with_reducible apply Mod.tileFault_inv
    | with_reducible apply foldl_inv
    | with_reducible apply foldl_fst_inv
    | with_reducible apply ite_inv
    | with_reducible apply ite_fst_inv
    | split

theorem Mod.writeBack_inv (m : Mod) (t master : Nat) (bs : List Byte) (hm : m.Inv) :
    (@Mod.writeBack m t master bs).Inv := by
  delta Mod.writeBack
  repeat' first
    | with_reducible assumption
    | (with_reducible refine Mod.Inv.of_eq (by with_reducible assumption) ?_)
    | intro _
    | with_reducible apply Mod.Inv.kept
    | (simp -zeta only [Mod.inv_mk]; try dsimp only)
    | (extract_lets +onlyGivenNames mm; refine (fun hmm : Mod.Inv mm => ?_) ?_; clear_value mm; revert mm; intro _ _; rotate_left; dsimp -zeta +instances only [mm]; clear mm)
    | (extract_lets +onlyGivenNames mm; refine (fun hmm : Mod.Inv mm.1 => ?_) ?_; clear_value mm; revert mm; intro _ _; rotate_left; dsimp -zeta +instances only [mm]; clear mm)
    | (extract_lets +onlyGivenNames mm; dsimp -zeta +instances only [mm]; clear mm)
    | (extract_lets +onlyGivenNames mm; clear mm)
    | with_reducible apply Mod.dirUse_inv
    | with_reducible apply Mod.putTile_inv
    | with_reducible apply Mod.addSat_inv
    | with_reducible apply foldl_inv
    | with_reducible apply foldl_fst_inv
    | with_reducible apply ite_inv
    | with_reducible apply ite_fst_inv
    | split

theorem Mod.regionViolation_inv (m : Mod) (master access addr : Nat) (hm : m.Inv) :
    (@Mod.regionViolation m master access addr).Inv := by
  delta Mod.regionViolation
  repeat' first
    | with_reducible assumption
    | (with_reducible refine Mod.Inv.of_eq (by with_reducible assumption) ?_)
    | intro _
    | with_reducible apply Mod.Inv.kept
    | (simp -zeta only [Mod.inv_mk]; try dsimp only)
    | (extract_lets +onlyGivenNames mm; refine (fun hmm : Mod.Inv mm => ?_) ?_; clear_value mm; revert mm; intro _ _; rotate_left; dsimp -zeta +instances only [mm]; clear mm)
    | (extract_lets +onlyGivenNames mm; refine (fun hmm : Mod.Inv mm.1 => ?_) ?_; clear_value mm; revert mm; intro _ _; rotate_left; dsimp -zeta +instances only [mm]; clear mm)
    | (extract_lets +onlyGivenNames mm; dsimp -zeta +instances only [mm]; clear mm)
    | (extract_lets +onlyGivenNames mm; clear mm)
    | with_reducible apply Mod.log_inv
    | with_reducible apply Mod.addSat_inv
    | with_reducible apply Mod.set_inv
    | with_reducible apply foldl_inv
    | with_reducible apply foldl_fst_inv
    | with_reducible apply ite_inv
    | with_reducible apply ite_fst_inv
    | split

theorem Mod.masterLoad_inv (m : Mod) (master t : Nat) (hm : m.Inv) :
    (@Mod.masterLoad m master t).1.Inv := by
  delta Mod.masterLoad
  repeat' first
    | with_reducible assumption
    | (with_reducible refine Mod.Inv.of_eq (by with_reducible assumption) ?_)
    | intro _
    | with_reducible apply Mod.Inv.kept
    | (simp -zeta only [Mod.inv_mk]; try dsimp only)
    | (extract_lets +onlyGivenNames mm; refine (fun hmm : Mod.Inv mm => ?_) ?_; clear_value mm; revert mm; intro _ _; rotate_left; dsimp -zeta +instances only [mm]; clear mm)
    | (extract_lets +onlyGivenNames mm; refine (fun hmm : Mod.Inv mm.1 => ?_) ?_; clear_value mm; revert mm; intro _ _; rotate_left; dsimp -zeta +instances only [mm]; clear mm)
    | (extract_lets +onlyGivenNames mm; dsimp -zeta +instances only [mm]; clear mm)
    | (extract_lets +onlyGivenNames mm; clear mm)
    | with_reducible apply Mod.regionViolation_inv
    | with_reducible apply Mod.loadEffect_inv
    | with_reducible apply foldl_inv
    | with_reducible apply foldl_fst_inv
    | with_reducible apply ite_inv
    | with_reducible apply ite_fst_inv
    | split

theorem Mod.masterStore_inv (m : Mod) (master t : Nat) (bs : List Byte) (hm : m.Inv) :
    (@Mod.masterStore m master t bs).1.Inv := by
  delta Mod.masterStore
  repeat' first
    | with_reducible assumption
    | (with_reducible refine Mod.Inv.of_eq (by with_reducible assumption) ?_)
    | intro _
    | with_reducible apply Mod.Inv.kept
    | (simp -zeta only [Mod.inv_mk]; try dsimp only)
    | (extract_lets +onlyGivenNames mm; refine (fun hmm : Mod.Inv mm => ?_) ?_; clear_value mm; revert mm; intro _ _; rotate_left; dsimp -zeta +instances only [mm]; clear mm)
    | (extract_lets +onlyGivenNames mm; refine (fun hmm : Mod.Inv mm.1 => ?_) ?_; clear_value mm; revert mm; intro _ _; rotate_left; dsimp -zeta +instances only [mm]; clear mm)
    | (extract_lets +onlyGivenNames mm; dsimp -zeta +instances only [mm]; clear mm)
    | (extract_lets +onlyGivenNames mm; clear mm)
    | with_reducible apply Mod.regionViolation_inv
    | with_reducible apply Mod.writeBack_inv
    | with_reducible apply foldl_inv
    | with_reducible apply foldl_fst_inv
    | with_reducible apply ite_inv
    | with_reducible apply ite_fst_inv
    | split

theorem Mod.masterLoads_inv (m : Mod) (master : Nat) (ts : List Nat) (hm : m.Inv) : (@Mod.masterLoads m master ts).1.Inv := by
  induction ts generalizing m with
  | nil => exact hm
  | cons t ts ih =>
    unfold Mod.masterLoads
    have h := Mod.masterLoad_inv m master t hm
    split
    · rename_i m' d heq
      rw [heq] at h
      exact ih m' h
    · rename_i m' heq
      rw [heq] at h
      exact h
theorem Mod.changeRec_inv (m : Mod) (e : PMapEnt) (f : PRec → PRec) (hm : m.Inv) :
    (@Mod.changeRec m e f).Inv := by
  delta Mod.changeRec
  repeat' first
    | with_reducible assumption
    | (with_reducible refine Mod.Inv.of_eq (by with_reducible assumption) ?_)
    | intro _
    | with_reducible apply Mod.Inv.kept
    | (simp -zeta only [Mod.inv_mk]; try dsimp only)
    | (extract_lets +onlyGivenNames mm; refine (fun hmm : Mod.Inv mm => ?_) ?_; clear_value mm; revert mm; intro _ _; rotate_left; dsimp -zeta +instances only [mm]; clear mm)
    | (extract_lets +onlyGivenNames mm; refine (fun hmm : Mod.Inv mm.1 => ?_) ?_; clear_value mm; revert mm; intro _ _; rotate_left; dsimp -zeta +instances only [mm]; clear mm)
    | (extract_lets +onlyGivenNames mm; dsimp -zeta +instances only [mm]; clear mm)
    | (extract_lets +onlyGivenNames mm; clear mm)
    | with_reducible apply Mod.writeBack_inv
    | with_reducible apply Mod.loadEffect_inv
    | with_reducible apply foldl_inv
    | with_reducible apply foldl_fst_inv
    | with_reducible apply ite_inv
    | with_reducible apply ite_fst_inv
    | split

theorem Mod.markFresh_inv (m : Mod) (p : Nat) (hm : m.Inv) :
    (@Mod.markFresh m p).Inv := by
  delta Mod.markFresh
  repeat' first
    | with_reducible assumption
    | (with_reducible refine Mod.Inv.of_eq (by with_reducible assumption) ?_)
    | intro _
    | with_reducible apply Mod.Inv.kept
    | (simp -zeta only [Mod.inv_mk]; try dsimp only)
    | (extract_lets +onlyGivenNames mm; refine (fun hmm : Mod.Inv mm => ?_) ?_; clear_value mm; revert mm; intro _ _; rotate_left; dsimp -zeta +instances only [mm]; clear mm)
    | (extract_lets +onlyGivenNames mm; refine (fun hmm : Mod.Inv mm.1 => ?_) ?_; clear_value mm; revert mm; intro _ _; rotate_left; dsimp -zeta +instances only [mm]; clear mm)
    | (extract_lets +onlyGivenNames mm; dsimp -zeta +instances only [mm]; clear mm)
    | (extract_lets +onlyGivenNames mm; clear mm)
    | with_reducible apply foldl_inv
    | with_reducible apply foldl_fst_inv
    | with_reducible apply ite_inv
    | with_reducible apply ite_fst_inv
    | split

theorem Mod.cbwStep_inv (m : Mod) (w : Nat) (hm : m.Inv) :
    (@Mod.cbwStep m w).Inv := by
  delta Mod.cbwStep
  repeat' first
    | with_reducible assumption
    | (with_reducible refine Mod.Inv.of_eq (by with_reducible assumption) ?_)
    | intro _
    | with_reducible apply Mod.Inv.kept
    | (simp -zeta only [Mod.inv_mk]; try dsimp only)
    | (extract_lets +onlyGivenNames mm; refine (fun hmm : Mod.Inv mm => ?_) ?_; clear_value mm; revert mm; intro _ _; rotate_left; dsimp -zeta +instances only [mm]; clear mm)
    | (extract_lets +onlyGivenNames mm; refine (fun hmm : Mod.Inv mm.1 => ?_) ?_; clear_value mm; revert mm; intro _ _; rotate_left; dsimp -zeta +instances only [mm]; clear mm)
    | (extract_lets +onlyGivenNames mm; dsimp -zeta +instances only [mm]; clear mm)
    | (extract_lets +onlyGivenNames mm; clear mm)
    | with_reducible apply Mod.addWrap_inv
    | with_reducible apply Mod.when_inv
    | with_reducible apply Mod.set_inv
    | with_reducible apply foldl_inv
    | with_reducible apply foldl_fst_inv
    | with_reducible apply ite_inv
    | with_reducible apply ite_fst_inv
    | split

theorem Mod.cbwAppend_inv (m : Mod) (master w : Nat) (bs : List Byte) (hm : m.Inv) :
    (@Mod.cbwAppend m master w bs).1.Inv := by
  delta Mod.cbwAppend
  repeat' first
    | with_reducible assumption
    | (with_reducible refine Mod.Inv.of_eq (by with_reducible assumption) ?_)
    | intro _
    | with_reducible apply Mod.Inv.kept
    | (simp -zeta only [Mod.inv_mk]; try dsimp only)
    | (extract_lets +onlyGivenNames mm; refine (fun hmm : Mod.Inv mm => ?_) ?_; clear_value mm; revert mm; intro _ _; rotate_left; dsimp -zeta +instances only [mm]; clear mm)
    | (extract_lets +onlyGivenNames mm; refine (fun hmm : Mod.Inv mm.1 => ?_) ?_; clear_value mm; revert mm; intro _ _; rotate_left; dsimp -zeta +instances only [mm]; clear mm)
    | (extract_lets +onlyGivenNames mm; dsimp -zeta +instances only [mm]; clear mm)
    | (extract_lets +onlyGivenNames mm; clear mm)
    | with_reducible apply Mod.cbwStep_inv
    | with_reducible apply Mod.masterStore_inv
    | with_reducible apply Mod.masterLoad_inv
    | with_reducible apply foldl_inv
    | with_reducible apply foldl_fst_inv
    | with_reducible apply ite_inv
    | with_reducible apply ite_fst_inv
    | split

theorem Mod.returnCount_inv (m : Mod) (hm : m.Inv) :
    (@Mod.returnCount m).Inv := by
  delta Mod.returnCount
  repeat' first
    | with_reducible assumption
    | (with_reducible refine Mod.Inv.of_eq (by with_reducible assumption) ?_)
    | intro _
    | with_reducible apply Mod.Inv.kept
    | (simp -zeta only [Mod.inv_mk]; try dsimp only)
    | (extract_lets +onlyGivenNames mm; refine (fun hmm : Mod.Inv mm => ?_) ?_; clear_value mm; revert mm; intro _ _; rotate_left; dsimp -zeta +instances only [mm]; clear mm)
    | (extract_lets +onlyGivenNames mm; refine (fun hmm : Mod.Inv mm.1 => ?_) ?_; clear_value mm; revert mm; intro _ _; rotate_left; dsimp -zeta +instances only [mm]; clear mm)
    | (extract_lets +onlyGivenNames mm; dsimp -zeta +instances only [mm]; clear mm)
    | (extract_lets +onlyGivenNames mm; clear mm)
    | with_reducible apply Mod.log_inv
    | with_reducible apply Mod.addSat_inv
    | with_reducible apply Mod.when_inv
    | with_reducible apply foldl_inv
    | with_reducible apply foldl_fst_inv
    | with_reducible apply ite_inv
    | with_reducible apply ite_fst_inv
    | split

theorem Mod.barRelease_inv (m : Mod) (hm : m.Inv) :
    (@Mod.barRelease m).Inv := by
  delta Mod.barRelease
  repeat' first
    | with_reducible assumption
    | (with_reducible refine Mod.Inv.of_eq (by with_reducible assumption) ?_)
    | intro _
    | with_reducible apply Mod.Inv.kept
    | (simp -zeta only [Mod.inv_mk]; try dsimp only)
    | (extract_lets +onlyGivenNames mm; refine (fun hmm : Mod.Inv mm => ?_) ?_; clear_value mm; revert mm; intro _ _; rotate_left; dsimp -zeta +instances only [mm]; clear mm)
    | (extract_lets +onlyGivenNames mm; refine (fun hmm : Mod.Inv mm.1 => ?_) ?_; clear_value mm; revert mm; intro _ _; rotate_left; dsimp -zeta +instances only [mm]; clear mm)
    | (extract_lets +onlyGivenNames mm; dsimp -zeta +instances only [mm]; clear mm)
    | (extract_lets +onlyGivenNames mm; clear mm)
    | with_reducible apply Mod.returnCount_inv
    | with_reducible apply Mod.set_inv
    | with_reducible apply foldl_inv
    | with_reducible apply foldl_fst_inv
    | with_reducible apply ite_inv
    | with_reducible apply ite_fst_inv
    | split

theorem Mod.standbyEnd_inv (m : Mod) (hm : m.Inv) :
    (@Mod.standbyEnd m).Inv := by
  delta Mod.standbyEnd
  repeat' first
    | with_reducible assumption
    | (with_reducible refine Mod.Inv.of_eq (by with_reducible assumption) ?_)
    | intro _
    | with_reducible apply Mod.Inv.kept
    | (simp -zeta only [Mod.inv_mk]; try dsimp only)
    | (extract_lets +onlyGivenNames mm; refine (fun hmm : Mod.Inv mm => ?_) ?_; clear_value mm; revert mm; intro _ _; rotate_left; dsimp -zeta +instances only [mm]; clear mm)
    | (extract_lets +onlyGivenNames mm; refine (fun hmm : Mod.Inv mm.1 => ?_) ?_; clear_value mm; revert mm; intro _ _; rotate_left; dsimp -zeta +instances only [mm]; clear mm)
    | (extract_lets +onlyGivenNames mm; dsimp -zeta +instances only [mm]; clear mm)
    | (extract_lets +onlyGivenNames mm; clear mm)
    | with_reducible apply Mod.set_inv
    | with_reducible apply foldl_inv
    | with_reducible apply foldl_fst_inv
    | with_reducible apply ite_inv
    | with_reducible apply ite_fst_inv
    | split

theorem Mod.haltLanes_inv (m : Mod) (hm : m.Inv) :
    (@Mod.haltLanes m).Inv := by
  delta Mod.haltLanes
  repeat' first
    | with_reducible assumption
    | (with_reducible refine Mod.Inv.of_eq (by with_reducible assumption) ?_)
    | intro _
    | with_reducible apply Mod.Inv.kept
    | (simp -zeta only [Mod.inv_mk]; try dsimp only)
    | (extract_lets +onlyGivenNames mm; refine (fun hmm : Mod.Inv mm => ?_) ?_; clear_value mm; revert mm; intro _ _; rotate_left; dsimp -zeta +instances only [mm]; clear mm)
    | (extract_lets +onlyGivenNames mm; refine (fun hmm : Mod.Inv mm.1 => ?_) ?_; clear_value mm; revert mm; intro _ _; rotate_left; dsimp -zeta +instances only [mm]; clear mm)
    | (extract_lets +onlyGivenNames mm; dsimp -zeta +instances only [mm]; clear mm)
    | (extract_lets +onlyGivenNames mm; clear mm)
    | with_reducible apply foldl_inv
    | with_reducible apply foldl_fst_inv
    | with_reducible apply Mod.Inv.buf
    | (dsimp only; with_reducible assumption)
    | with_reducible apply Kept.lane
    | with_reducible apply Kept.laneMap
    | with_reducible apply Kept.laneFn
    | with_reducible apply Kept.laneReset
    | with_reducible apply ite_inv
    | with_reducible apply ite_fst_inv
    | split

theorem Mod.bitOff_inv (m : Mod) (hm : m.Inv) :
    (@Mod.bitOff m).Inv := by
  delta Mod.bitOff
  repeat' first
    | with_reducible assumption
    | (with_reducible refine Mod.Inv.of_eq (by with_reducible assumption) ?_)
    | intro _
    | with_reducible apply Mod.Inv.kept
    | (simp -zeta only [Mod.inv_mk]; try dsimp only)
    | (extract_lets +onlyGivenNames mm; refine (fun hmm : Mod.Inv mm => ?_) ?_; clear_value mm; revert mm; intro _ _; rotate_left; dsimp -zeta +instances only [mm]; clear mm)
    | (extract_lets +onlyGivenNames mm; refine (fun hmm : Mod.Inv mm.1 => ?_) ?_; clear_value mm; revert mm; intro _ _; rotate_left; dsimp -zeta +instances only [mm]; clear mm)
    | (extract_lets +onlyGivenNames mm; dsimp -zeta +instances only [mm]; clear mm)
    | (extract_lets +onlyGivenNames mm; clear mm)
    | with_reducible apply foldl_inv
    | with_reducible apply foldl_fst_inv
    | with_reducible apply Kept.set
    | with_reducible apply Kept.ite
    | with_reducible apply ite_inv
    | with_reducible apply ite_fst_inv
    | split

theorem Mod.cancelSwap_inv (m : Mod) (hm : m.Inv) :
    (@Mod.cancelSwap m).Inv := by
  delta Mod.cancelSwap
  repeat' first
    | with_reducible assumption
    | (with_reducible refine Mod.Inv.of_eq (by with_reducible assumption) ?_)
    | intro _
    | with_reducible apply Mod.Inv.kept
    | (simp -zeta only [Mod.inv_mk]; try dsimp only)
    | (extract_lets +onlyGivenNames mm; refine (fun hmm : Mod.Inv mm => ?_) ?_; clear_value mm; revert mm; intro _ _; rotate_left; dsimp -zeta +instances only [mm]; clear mm)
    | (extract_lets +onlyGivenNames mm; refine (fun hmm : Mod.Inv mm.1 => ?_) ?_; clear_value mm; revert mm; intro _ _; rotate_left; dsimp -zeta +instances only [mm]; clear mm)
    | (extract_lets +onlyGivenNames mm; dsimp -zeta +instances only [mm]; clear mm)
    | (extract_lets +onlyGivenNames mm; clear mm)
    | with_reducible apply Mod.change_inv
    | with_reducible apply Mod.set_inv
    | with_reducible apply foldl_inv
    | with_reducible apply foldl_fst_inv
    | with_reducible apply ite_inv
    | with_reducible apply ite_fst_inv
    | split

theorem Mod.enterStopped_inv (m : Mod) (hm : m.Inv) :
    (@Mod.enterStopped m).Inv := by
  delta Mod.enterStopped
  repeat' first
    | with_reducible assumption
    | (with_reducible refine Mod.Inv.of_eq (by with_reducible assumption) ?_)
    | intro _
    | with_reducible apply Mod.Inv.kept
    | (simp -zeta only [Mod.inv_mk]; try dsimp only)
    | (extract_lets +onlyGivenNames mm; refine (fun hmm : Mod.Inv mm => ?_) ?_; clear_value mm; revert mm; intro _ _; rotate_left; dsimp -zeta +instances only [mm]; clear mm)
    | (extract_lets +onlyGivenNames mm; refine (fun hmm : Mod.Inv mm.1 => ?_) ?_; clear_value mm; revert mm; intro _ _; rotate_left; dsimp -zeta +instances only [mm]; clear mm)
    | (extract_lets +onlyGivenNames mm; dsimp -zeta +instances only [mm]; clear mm)
    | (extract_lets +onlyGivenNames mm; clear mm)
    | with_reducible apply Mod.cancelSwap_inv
    | with_reducible apply Mod.bitOff_inv
    | with_reducible apply Mod.haltLanes_inv
    | with_reducible apply Mod.standbyEnd_inv
    | with_reducible apply Mod.jackOff_inv
    | with_reducible apply Mod.dropStaging_inv
    | with_reducible apply Mod.reqSafeAll_inv
    | with_reducible apply Mod.goto_inv
    | with_reducible apply foldl_inv
    | with_reducible apply foldl_fst_inv
    | with_reducible apply ite_inv
    | with_reducible apply ite_fst_inv
    | split

theorem Mod.autoArm_inv (m : Mod) (hm : m.Inv) :
    (@Mod.autoArm m).Inv := by
  delta Mod.autoArm
  repeat' first
    | with_reducible assumption
    | (with_reducible refine Mod.Inv.of_eq (by with_reducible assumption) ?_)
    | intro _
    | with_reducible apply Mod.Inv.kept
    | (simp -zeta only [Mod.inv_mk]; try dsimp only)
    | (extract_lets +onlyGivenNames mm; refine (fun hmm : Mod.Inv mm => ?_) ?_; clear_value mm; revert mm; intro _ _; rotate_left; dsimp -zeta +instances only [mm]; clear mm)
    | (extract_lets +onlyGivenNames mm; refine (fun hmm : Mod.Inv mm.1 => ?_) ?_; clear_value mm; revert mm; intro _ _; rotate_left; dsimp -zeta +instances only [mm]; clear mm)
    | (extract_lets +onlyGivenNames mm; dsimp -zeta +instances only [mm]; clear mm)
    | (extract_lets +onlyGivenNames mm; clear mm)
    | with_reducible apply Mod.log_inv
    | with_reducible apply foldl_inv
    | with_reducible apply foldl_fst_inv
    | with_reducible apply ite_inv
    | with_reducible apply ite_fst_inv
    | split

theorem Mod.overrun_inv (m : Mod) (cause cls seq lanes : Nat) (hm : m.Inv) :
    (@Mod.overrun m cause cls seq lanes).Inv := by
  delta Mod.overrun
  repeat' first
    | with_reducible assumption
    | (with_reducible refine Mod.Inv.of_eq (by with_reducible assumption) ?_)
    | intro _
    | with_reducible apply Mod.Inv.kept
    | (simp -zeta only [Mod.inv_mk]; try dsimp only)
    | (extract_lets +onlyGivenNames mm; refine (fun hmm : Mod.Inv mm => ?_) ?_; clear_value mm; revert mm; intro _ _; rotate_left; dsimp -zeta +instances only [mm]; clear mm)
    | (extract_lets +onlyGivenNames mm; refine (fun hmm : Mod.Inv mm.1 => ?_) ?_; clear_value mm; revert mm; intro _ _; rotate_left; dsimp -zeta +instances only [mm]; clear mm)
    | (extract_lets +onlyGivenNames mm; dsimp -zeta +instances only [mm]; clear mm)
    | (extract_lets +onlyGivenNames mm; clear mm)
    | with_reducible apply Mod.autoArm_inv
    | with_reducible apply Mod.enterStopped_inv
    | with_reducible apply Mod.barRelease_inv
    | with_reducible apply Mod.log_inv
    | with_reducible apply Mod.addSat_inv
    | with_reducible apply Mod.when_inv
    | with_reducible apply Mod.set_inv
    | with_reducible apply foldl_inv
    | with_reducible apply foldl_fst_inv
    | with_reducible apply Mod.Inv.buf
    | (dsimp only; with_reducible assumption)
    | with_reducible apply ite_inv
    | with_reducible apply ite_fst_inv
    | split

theorem Mod.fioMark_inv (m : Mod) (k : Nat) (hm : m.Inv) :
    (@Mod.fioMark m k).Inv := by
  delta Mod.fioMark
  repeat' first
    | with_reducible assumption
    | (with_reducible refine Mod.Inv.of_eq (by with_reducible assumption) ?_)
    | intro _
    | with_reducible apply Mod.Inv.kept
    | (simp -zeta only [Mod.inv_mk]; try dsimp only)
    | (extract_lets +onlyGivenNames mm; refine (fun hmm : Mod.Inv mm => ?_) ?_; clear_value mm; revert mm; intro _ _; rotate_left; dsimp -zeta +instances only [mm]; clear mm)
    | (extract_lets +onlyGivenNames mm; refine (fun hmm : Mod.Inv mm.1 => ?_) ?_; clear_value mm; revert mm; intro _ _; rotate_left; dsimp -zeta +instances only [mm]; clear mm)
    | (extract_lets +onlyGivenNames mm; dsimp -zeta +instances only [mm]; clear mm)
    | (extract_lets +onlyGivenNames mm; clear mm)
    | with_reducible apply foldl_inv
    | with_reducible apply foldl_fst_inv
    | with_reducible apply ite_inv
    | with_reducible apply ite_fst_inv
    | split

theorem Mod.openSettle_inv (m : Mod) (hm : m.Inv) :
    (@Mod.openSettle m).Inv := by
  delta Mod.openSettle
  repeat' first
    | with_reducible assumption
    | (with_reducible refine Mod.Inv.of_eq (by with_reducible assumption) ?_)
    | intro _
    | with_reducible apply Mod.Inv.kept
    | (simp -zeta only [Mod.inv_mk]; try dsimp only)
    | (extract_lets +onlyGivenNames mm; refine (fun hmm : Mod.Inv mm => ?_) ?_; clear_value mm; revert mm; intro _ _; rotate_left; dsimp -zeta +instances only [mm]; clear mm)
    | (extract_lets +onlyGivenNames mm; refine (fun hmm : Mod.Inv mm.1 => ?_) ?_; clear_value mm; revert mm; intro _ _; rotate_left; dsimp -zeta +instances only [mm]; clear mm)
    | (extract_lets +onlyGivenNames mm; dsimp -zeta +instances only [mm]; clear mm)
    | (extract_lets +onlyGivenNames mm; clear mm)
    | with_reducible apply Mod.when_inv
    | with_reducible apply Mod.set_inv
    | with_reducible apply foldl_inv
    | with_reducible apply foldl_fst_inv
    | with_reducible apply ite_inv
    | with_reducible apply ite_fst_inv
    | split

theorem Mod.pairFault_inv (m : Mod) (k : Fin 4) (cause : Nat) (chB : Bool) (hm : m.Inv) :
    (@Mod.pairFault m k cause chB).Inv := by
  delta Mod.pairFault
  repeat' first
    | with_reducible assumption
    | (with_reducible refine Mod.Inv.of_eq (by with_reducible assumption) ?_)
    | intro _
    | with_reducible apply Mod.Inv.kept
    | (simp -zeta only [Mod.inv_mk]; try dsimp only)
    | (extract_lets +onlyGivenNames mm; refine (fun hmm : Mod.Inv mm => ?_) ?_; clear_value mm; revert mm; intro _ _; rotate_left; dsimp -zeta +instances only [mm]; clear mm)
    | (extract_lets +onlyGivenNames mm; refine (fun hmm : Mod.Inv mm.1 => ?_) ?_; clear_value mm; revert mm; intro _ _; rotate_left; dsimp -zeta +instances only [mm]; clear mm)
    | (extract_lets +onlyGivenNames mm; dsimp -zeta +instances only [mm]; clear mm)
    | (extract_lets +onlyGivenNames mm; clear mm)
    | with_reducible apply Mod.reqSafe_inv
    | with_reducible apply Mod.log_inv
    | with_reducible apply Mod.setB_inv
    | with_reducible apply Mod.set_inv
    | with_reducible apply foldl_inv
    | with_reducible apply foldl_fst_inv
    | with_reducible apply ite_inv
    | with_reducible apply ite_fst_inv
    | split

theorem Mod.safetyFault_inv (m : Mod) (cause : Nat) (hm : m.Inv) :
    (@Mod.safetyFault m cause).Inv := by
  delta Mod.safetyFault
  repeat' first
    | with_reducible assumption
    | (with_reducible refine Mod.Inv.of_eq (by with_reducible assumption) ?_)
    | intro _
    | with_reducible apply Mod.Inv.kept
    | (simp -zeta only [Mod.inv_mk]; try dsimp only)
    | (extract_lets +onlyGivenNames mm; refine (fun hmm : Mod.Inv mm => ?_) ?_; clear_value mm; revert mm; intro _ _; rotate_left; dsimp -zeta +instances only [mm]; clear mm)
    | (extract_lets +onlyGivenNames mm; refine (fun hmm : Mod.Inv mm.1 => ?_) ?_; clear_value mm; revert mm; intro _ _; rotate_left; dsimp -zeta +instances only [mm]; clear mm)
    | (extract_lets +onlyGivenNames mm; dsimp -zeta +instances only [mm]; clear mm)
    | (extract_lets +onlyGivenNames mm; clear mm)
    | with_reducible apply Mod.enterStopped_inv
    | with_reducible apply Mod.barRelease_inv
    | with_reducible apply Mod.reqSafeList_inv
    | with_reducible apply Mod.log_inv
    | with_reducible apply Mod.when_inv
    | with_reducible apply Mod.set_inv
    | with_reducible apply foldl_inv
    | with_reducible apply foldl_fst_inv
    | with_reducible apply ite_inv
    | with_reducible apply ite_fst_inv
    | split

theorem Mod.utcRecord_inv (m : Mod) (hm : m.Inv) :
    (@Mod.utcRecord m).Inv := by
  delta Mod.utcRecord
  repeat' first
    | with_reducible assumption
    | (with_reducible refine Mod.Inv.of_eq (by with_reducible assumption) ?_)
    | intro _
    | with_reducible apply Mod.Inv.kept
    | (simp -zeta only [Mod.inv_mk]; try dsimp only)
    | (extract_lets +onlyGivenNames mm; refine (fun hmm : Mod.Inv mm => ?_) ?_; clear_value mm; revert mm; intro _ _; rotate_left; dsimp -zeta +instances only [mm]; clear mm)
    | (extract_lets +onlyGivenNames mm; refine (fun hmm : Mod.Inv mm.1 => ?_) ?_; clear_value mm; revert mm; intro _ _; rotate_left; dsimp -zeta +instances only [mm]; clear mm)
    | (extract_lets +onlyGivenNames mm; dsimp -zeta +instances only [mm]; clear mm)
    | (extract_lets +onlyGivenNames mm; clear mm)
    | with_reducible apply Mod.setWord_inv
    | with_reducible apply foldl_inv
    | with_reducible apply foldl_fst_inv
    | with_reducible apply ite_inv
    | with_reducible apply ite_fst_inv
    | split

theorem Mod.pdSet_inv (m : Mod) (ds : List Nat) (on : Bool) (hm : m.Inv) :
    (@Mod.pdSet m ds on).Inv := by
  delta Mod.pdSet
  repeat' first
    | with_reducible assumption
    | (with_reducible refine Mod.Inv.of_eq (by with_reducible assumption) ?_)
    | intro _
    | with_reducible apply Mod.Inv.kept
    | (simp -zeta only [Mod.inv_mk]; try dsimp only)
    | (extract_lets +onlyGivenNames mm; refine (fun hmm : Mod.Inv mm => ?_) ?_; clear_value mm; revert mm; intro _ _; rotate_left; dsimp -zeta +instances only [mm]; clear mm)
    | (extract_lets +onlyGivenNames mm; refine (fun hmm : Mod.Inv mm.1 => ?_) ?_; clear_value mm; revert mm; intro _ _; rotate_left; dsimp -zeta +instances only [mm]; clear mm)
    | (extract_lets +onlyGivenNames mm; dsimp -zeta +instances only [mm]; clear mm)
    | (extract_lets +onlyGivenNames mm; clear mm)
    | with_reducible apply foldl_inv
    | with_reducible apply foldl_fst_inv
    | with_reducible apply ite_inv
    | with_reducible apply ite_fst_inv
    | split

theorem Mod.pdFollow_inv (m : Mod) (d : Fin 15) (hm : m.Inv) :
    (@Mod.pdFollow m d).Inv := by
  delta Mod.pdFollow
  repeat' first
    | with_reducible assumption
    | (with_reducible refine Mod.Inv.of_eq (by with_reducible assumption) ?_)
    | intro _
    | with_reducible apply Mod.Inv.kept
    | (simp -zeta only [Mod.inv_mk]; try dsimp only)
    | (extract_lets +onlyGivenNames mm; refine (fun hmm : Mod.Inv mm => ?_) ?_; clear_value mm; revert mm; intro _ _; rotate_left; dsimp -zeta +instances only [mm]; clear mm)
    | (extract_lets +onlyGivenNames mm; refine (fun hmm : Mod.Inv mm.1 => ?_) ?_; clear_value mm; revert mm; intro _ _; rotate_left; dsimp -zeta +instances only [mm]; clear mm)
    | (extract_lets +onlyGivenNames mm; dsimp -zeta +instances only [mm]; clear mm)
    | (extract_lets +onlyGivenNames mm; clear mm)
    | with_reducible apply Mod.swOff_inv
    | with_reducible apply Mod.swOn_inv
    | with_reducible apply foldl_inv
    | with_reducible apply foldl_fst_inv
    | with_reducible apply ite_inv
    | with_reducible apply ite_fst_inv
    | split

theorem Mod.follow_inv (m : Mod) (hm : m.Inv) :
    (@Mod.follow m).Inv := by
  delta Mod.follow
  repeat' first
    | with_reducible assumption
    | (with_reducible refine Mod.Inv.of_eq (by with_reducible assumption) ?_)
    | intro _
    | with_reducible apply Mod.Inv.kept
    | (simp -zeta only [Mod.inv_mk]; try dsimp only)
    | (extract_lets +onlyGivenNames mm; refine (fun hmm : Mod.Inv mm => ?_) ?_; clear_value mm; revert mm; intro _ _; rotate_left; dsimp -zeta +instances only [mm]; clear mm)
    | (extract_lets +onlyGivenNames mm; refine (fun hmm : Mod.Inv mm.1 => ?_) ?_; clear_value mm; revert mm; intro _ _; rotate_left; dsimp -zeta +instances only [mm]; clear mm)
    | (extract_lets +onlyGivenNames mm; dsimp -zeta +instances only [mm]; clear mm)
    | (extract_lets +onlyGivenNames mm; clear mm)
    | with_reducible apply Mod.pdFollow_inv
    | with_reducible apply foldl_inv
    | with_reducible apply foldl_fst_inv
    | with_reducible apply ite_inv
    | with_reducible apply ite_fst_inv
    | split

theorem Mod.pdOn_inv (m : Mod) (ds : List Nat) (hm : m.Inv) :
    (@Mod.pdOn m ds).Inv := by
  delta Mod.pdOn
  repeat' first
    | with_reducible assumption
    | (with_reducible refine Mod.Inv.of_eq (by with_reducible assumption) ?_)
    | intro _
    | with_reducible apply Mod.Inv.kept
    | (simp -zeta only [Mod.inv_mk]; try dsimp only)
    | (extract_lets +onlyGivenNames mm; refine (fun hmm : Mod.Inv mm => ?_) ?_; clear_value mm; revert mm; intro _ _; rotate_left; dsimp -zeta +instances only [mm]; clear mm)
    | (extract_lets +onlyGivenNames mm; refine (fun hmm : Mod.Inv mm.1 => ?_) ?_; clear_value mm; revert mm; intro _ _; rotate_left; dsimp -zeta +instances only [mm]; clear mm)
    | (extract_lets +onlyGivenNames mm; dsimp -zeta +instances only [mm]; clear mm)
    | (extract_lets +onlyGivenNames mm; clear mm)
    | with_reducible apply Mod.follow_inv
    | with_reducible apply Mod.pdSet_inv
    | with_reducible apply foldl_inv
    | with_reducible apply foldl_fst_inv
    | with_reducible apply ite_inv
    | with_reducible apply ite_fst_inv
    | split

theorem Mod.pdOff_inv (m : Mod) (ds : List Nat) (hm : m.Inv) :
    (@Mod.pdOff m ds).Inv := by
  delta Mod.pdOff
  repeat' first
    | with_reducible assumption
    | (with_reducible refine Mod.Inv.of_eq (by with_reducible assumption) ?_)
    | intro _
    | with_reducible apply Mod.Inv.kept
    | (simp -zeta only [Mod.inv_mk]; try dsimp only)
    | (extract_lets +onlyGivenNames mm; refine (fun hmm : Mod.Inv mm => ?_) ?_; clear_value mm; revert mm; intro _ _; rotate_left; dsimp -zeta +instances only [mm]; clear mm)
    | (extract_lets +onlyGivenNames mm; refine (fun hmm : Mod.Inv mm.1 => ?_) ?_; clear_value mm; revert mm; intro _ _; rotate_left; dsimp -zeta +instances only [mm]; clear mm)
    | (extract_lets +onlyGivenNames mm; dsimp -zeta +instances only [mm]; clear mm)
    | (extract_lets +onlyGivenNames mm; clear mm)
    | with_reducible apply Mod.follow_inv
    | with_reducible apply Mod.pdSet_inv
    | with_reducible apply foldl_inv
    | with_reducible apply foldl_fst_inv
    | with_reducible apply ite_inv
    | with_reducible apply ite_fst_inv
    | split

theorem Mod.pdLose_inv (m : Mod) (d : Nat) (hm : m.Inv) :
    (@Mod.pdLose m d).Inv := by
  delta Mod.pdLose
  repeat' first
    | with_reducible assumption
    | (with_reducible refine Mod.Inv.of_eq (by with_reducible assumption) ?_)
    | intro _
    | with_reducible apply Mod.Inv.kept
    | (simp -zeta only [Mod.inv_mk]; try dsimp only)
    | (extract_lets +onlyGivenNames mm; refine (fun hmm : Mod.Inv mm => ?_) ?_; clear_value mm; revert mm; intro _ _; rotate_left; dsimp -zeta +instances only [mm]; clear mm)
    | (extract_lets +onlyGivenNames mm; refine (fun hmm : Mod.Inv mm.1 => ?_) ?_; clear_value mm; revert mm; intro _ _; rotate_left; dsimp -zeta +instances only [mm]; clear mm)
    | (extract_lets +onlyGivenNames mm; dsimp -zeta +instances only [mm]; clear mm)
    | (extract_lets +onlyGivenNames mm; clear mm)
    | with_reducible apply Mod.set_inv
    | with_reducible apply foldl_inv
    | with_reducible apply foldl_fst_inv
    | with_reducible apply Kept.blank
    | with_reducible apply ite_inv
    | with_reducible apply ite_fst_inv
    | split

theorem Mod.pdRegs_inv (m : Mod) (d : Nat) (hm : m.Inv) : (@Mod.pdRegs m d).Inv := by
  unfold Mod.pdRegs
  have key : ∀ (l : List (Nat × Nat)) (rs : List (Nat × Word)), regsWf rs = true →
      regsWf (l.foldl (fun rs r => regsClear rs r.1 r.2) rs) = true := by
    intro l
    induction l with
    | nil => exact fun _ h => h
    | cons r l ih => exact fun _ h => ih _ (regsClear_wf _ _ h)
  exact ⟨key _ _ hm.regs, hm.cells, hm.bufs, hm.date, hm.day, hm.wait⟩
theorem Mod.planDomains_inv (m : Mod) (hm : m.Inv) :
    (@Mod.planDomains m).Inv := by
  delta Mod.planDomains
  repeat' first
    | with_reducible assumption
    | (with_reducible refine Mod.Inv.of_eq (by with_reducible assumption) ?_)
    | intro _
    | with_reducible apply Mod.Inv.kept
    | (simp -zeta only [Mod.inv_mk]; try dsimp only)
    | (extract_lets +onlyGivenNames mm; refine (fun hmm : Mod.Inv mm => ?_) ?_; clear_value mm; revert mm; intro _ _; rotate_left; dsimp -zeta +instances only [mm]; clear mm)
    | (extract_lets +onlyGivenNames mm; refine (fun hmm : Mod.Inv mm.1 => ?_) ?_; clear_value mm; revert mm; intro _ _; rotate_left; dsimp -zeta +instances only [mm]; clear mm)
    | (extract_lets +onlyGivenNames mm; dsimp -zeta +instances only [mm]; clear mm)
    | (extract_lets +onlyGivenNames mm; clear mm)
    | with_reducible apply Mod.follow_inv
    | with_reducible apply Mod.pdSet_inv
    | with_reducible apply foldl_inv
    | with_reducible apply foldl_fst_inv
    | with_reducible apply ite_inv
    | with_reducible apply ite_fst_inv
    | split

theorem Mod.poolDrop_inv (m : Mod) (c : Fin 12) (hm : m.Inv) :
    (@Mod.poolDrop m c).Inv := by
  delta Mod.poolDrop
  repeat' first
    | with_reducible assumption
    | (with_reducible refine Mod.Inv.of_eq (by with_reducible assumption) ?_)
    | intro _
    | with_reducible apply Mod.Inv.kept
    | (simp -zeta only [Mod.inv_mk]; try dsimp only)
    | (extract_lets +onlyGivenNames mm; refine (fun hmm : Mod.Inv mm => ?_) ?_; clear_value mm; revert mm; intro _ _; rotate_left; dsimp -zeta +instances only [mm]; clear mm)
    | (extract_lets +onlyGivenNames mm; refine (fun hmm : Mod.Inv mm.1 => ?_) ?_; clear_value mm; revert mm; intro _ _; rotate_left; dsimp -zeta +instances only [mm]; clear mm)
    | (extract_lets +onlyGivenNames mm; dsimp -zeta +instances only [mm]; clear mm)
    | (extract_lets +onlyGivenNames mm; clear mm)
    | with_reducible apply Mod.set_inv
    | with_reducible apply foldl_inv
    | with_reducible apply foldl_fst_inv
    | with_reducible apply ite_inv
    | with_reducible apply ite_fst_inv
    | split

theorem Mod.poolMark_inv (m : Mod) (u : Fin 2) (hm : m.Inv) :
    (@Mod.poolMark m u).Inv := by
  delta Mod.poolMark
  repeat' first
    | with_reducible assumption
    | (with_reducible refine Mod.Inv.of_eq (by with_reducible assumption) ?_)
    | intro _
    | with_reducible apply Mod.Inv.kept
    | (simp -zeta only [Mod.inv_mk]; try dsimp only)
    | (extract_lets +onlyGivenNames mm; refine (fun hmm : Mod.Inv mm => ?_) ?_; clear_value mm; revert mm; intro _ _; rotate_left; dsimp -zeta +instances only [mm]; clear mm)
    | (extract_lets +onlyGivenNames mm; refine (fun hmm : Mod.Inv mm.1 => ?_) ?_; clear_value mm; revert mm; intro _ _; rotate_left; dsimp -zeta +instances only [mm]; clear mm)
    | (extract_lets +onlyGivenNames mm; dsimp -zeta +instances only [mm]; clear mm)
    | (extract_lets +onlyGivenNames mm; clear mm)
    | with_reducible apply Mod.set_inv
    | with_reducible apply foldl_inv
    | with_reducible apply foldl_fst_inv
    | with_reducible apply ite_inv
    | with_reducible apply ite_fst_inv
    | split

theorem Mod.poolPut_inv (m : Mod) (f : PoolFrame) (hm : m.Inv) :
    (@Mod.poolPut m f).1.Inv := by
  delta Mod.poolPut
  repeat' first
    | with_reducible assumption
    | (with_reducible refine Mod.Inv.of_eq (by with_reducible assumption) ?_)
    | intro _
    | with_reducible apply Mod.Inv.kept
    | (simp -zeta only [Mod.inv_mk]; try dsimp only)
    | (extract_lets +onlyGivenNames mm; refine (fun hmm : Mod.Inv mm => ?_) ?_; clear_value mm; revert mm; intro _ _; rotate_left; dsimp -zeta +instances only [mm]; clear mm)
    | (extract_lets +onlyGivenNames mm; refine (fun hmm : Mod.Inv mm.1 => ?_) ?_; clear_value mm; revert mm; intro _ _; rotate_left; dsimp -zeta +instances only [mm]; clear mm)
    | (extract_lets +onlyGivenNames mm; dsimp -zeta +instances only [mm]; clear mm)
    | (extract_lets +onlyGivenNames mm; clear mm)
    | with_reducible apply Mod.poolMark_inv
    | with_reducible apply Mod.poolDrop_inv
    | with_reducible apply Mod.set_inv
    | with_reducible apply foldl_inv
    | with_reducible apply foldl_fst_inv
    | with_reducible apply ite_inv
    | with_reducible apply ite_fst_inv
    | split

theorem Mod.poolLose_inv (m : Mod) (p : PoolFrame → Bool) (hm : m.Inv) :
    (@Mod.poolLose m p).Inv := by
  delta Mod.poolLose
  repeat' first
    | with_reducible assumption
    | (with_reducible refine Mod.Inv.of_eq (by with_reducible assumption) ?_)
    | intro _
    | with_reducible apply Mod.Inv.kept
    | (simp -zeta only [Mod.inv_mk]; try dsimp only)
    | (extract_lets +onlyGivenNames mm; refine (fun hmm : Mod.Inv mm => ?_) ?_; clear_value mm; revert mm; intro _ _; rotate_left; dsimp -zeta +instances only [mm]; clear mm)
    | (extract_lets +onlyGivenNames mm; refine (fun hmm : Mod.Inv mm.1 => ?_) ?_; clear_value mm; revert mm; intro _ _; rotate_left; dsimp -zeta +instances only [mm]; clear mm)
    | (extract_lets +onlyGivenNames mm; dsimp -zeta +instances only [mm]; clear mm)
    | (extract_lets +onlyGivenNames mm; clear mm)
    | with_reducible apply Mod.poolMark_inv
    | with_reducible apply Mod.set_inv
    | with_reducible apply foldl_inv
    | with_reducible apply foldl_fst_inv
    | with_reducible apply ite_inv
    | with_reducible apply ite_fst_inv
    | split

theorem Mod.retainShow_inv (m : Mod) (hm : m.Inv) :
    (@Mod.retainShow m).Inv := by
  delta Mod.retainShow
  repeat' first
    | with_reducible assumption
    | (with_reducible refine Mod.Inv.of_eq (by with_reducible assumption) ?_)
    | intro _
    | with_reducible apply Mod.Inv.kept
    | (simp -zeta only [Mod.inv_mk]; try dsimp only)
    | (extract_lets +onlyGivenNames mm; refine (fun hmm : Mod.Inv mm => ?_) ?_; clear_value mm; revert mm; intro _ _; rotate_left; dsimp -zeta +instances only [mm]; clear mm)
    | (extract_lets +onlyGivenNames mm; refine (fun hmm : Mod.Inv mm.1 => ?_) ?_; clear_value mm; revert mm; intro _ _; rotate_left; dsimp -zeta +instances only [mm]; clear mm)
    | (extract_lets +onlyGivenNames mm; dsimp -zeta +instances only [mm]; clear mm)
    | (extract_lets +onlyGivenNames mm; clear mm)
    | with_reducible apply Mod.setB_inv
    | with_reducible apply foldl_inv
    | with_reducible apply foldl_fst_inv
    | with_reducible apply ite_inv
    | with_reducible apply ite_fst_inv
    | split

theorem Mod.closeAll_inv (m : Mod) (hm : m.Inv) :
    (@Mod.closeAll m).Inv := by
  delta Mod.closeAll
  repeat' first
    | with_reducible assumption
    | (with_reducible refine Mod.Inv.of_eq (by with_reducible assumption) ?_)
    | intro _
    | with_reducible apply Mod.Inv.kept
    | (simp -zeta only [Mod.inv_mk]; try dsimp only)
    | (extract_lets +onlyGivenNames mm; refine (fun hmm : Mod.Inv mm => ?_) ?_; clear_value mm; revert mm; intro _ _; rotate_left; dsimp -zeta +instances only [mm]; clear mm)
    | (extract_lets +onlyGivenNames mm; refine (fun hmm : Mod.Inv mm.1 => ?_) ?_; clear_value mm; revert mm; intro _ _; rotate_left; dsimp -zeta +instances only [mm]; clear mm)
    | (extract_lets +onlyGivenNames mm; dsimp -zeta +instances only [mm]; clear mm)
    | (extract_lets +onlyGivenNames mm; clear mm)
    | with_reducible apply foldl_inv
    | with_reducible apply foldl_fst_inv
    | with_reducible apply ite_inv
    | with_reducible apply ite_fst_inv
    | split


end Sys2Proof.Machine
end

