-- ==== Sys2Proof/Laws/KeepsOperands.lean ====
section
/-! SUPPORT. What the operations of Machine/Operands.lean keep: the module's canonical forms and its calendar (Safety.lean). -/

set_option linter.unusedTactic false
set_option linter.unreachableTactic false
set_option linter.tactic.unusedName false
set_option linter.unusedSimpArgs false
set_option linter.unusedVariables false

namespace Sys2Proof.Machine

theorem Lane_wr_inv (ln : Lane) (d : Fin 16) (v : Long) (q : Tag) (hln : memWf 0 ln.buf = true) :
    memWf 0 (@Lane.wr ln d v q).buf = true := by
  delta Lane.wr
  repeat' first
    | with_reducible assumption
    | (with_reducible refine Mod.Inv.of_eq (by with_reducible assumption) ?_)
    | intro _
    | with_reducible apply Mod.Inv.kept
    | (simp -zeta only [Mod.inv_mk]; try dsimp only)
    | (extract_lets +onlyGivenNames mm; refine (fun hmm : Mod.Inv mm => ?_) ?_; clear_value mm; revert mm; intro _ _; rotate_left; dsimp -zeta +instances only [mm]; clear mm)
    | (extract_lets +onlyGivenNames mm; refine (fun hmm : Mod.Inv mm.1 => ?_) ?_; clear_value mm; revert mm; intro _ _; rotate_left; dsimp -zeta +instances only [mm]; clear mm)
    | (extract_lets +onlyGivenNames mm; dsimp -zeta +instances only [mm]; clear mm)
    | (extract_lets +onlyGivenNames mm; clear mm)
    | with_reducible apply Mod.set_inv
    | with_reducible apply foldl_inv
    | with_reducible apply foldl_fst_inv
    | with_reducible apply Mod.Inv.buf
    | (dsimp only; with_reducible assumption)
    | with_reducible apply ite_inv
    | with_reducible apply ite_fst_inv
    | split

theorem Lane_wrQ_inv (ln : Lane) (d : Fin 16) (q : Tag) (hln : memWf 0 ln.buf = true) :
    memWf 0 (@Lane.wrQ ln d q).buf = true := by
  delta Lane.wrQ
  repeat' first
    | with_reducible assumption
    | (with_reducible refine Mod.Inv.of_eq (by with_reducible assumption) ?_)
    | intro _
    | with_reducible apply Mod.Inv.kept
    | (simp -zeta only [Mod.inv_mk]; try dsimp only)
    | (extract_lets +onlyGivenNames mm; refine (fun hmm : Mod.Inv mm => ?_) ?_; clear_value mm; revert mm; intro _ _; rotate_left; dsimp -zeta +instances only [mm]; clear mm)
    | (extract_lets +onlyGivenNames mm; refine (fun hmm : Mod.Inv mm.1 => ?_) ?_; clear_value mm; revert mm; intro _ _; rotate_left; dsimp -zeta +instances only [mm]; clear mm)
    | (extract_lets +onlyGivenNames mm; dsimp -zeta +instances only [mm]; clear mm)
    | (extract_lets +onlyGivenNames mm; clear mm)
    | with_reducible apply Mod.set_inv
    | with_reducible apply foldl_inv
    | with_reducible apply foldl_fst_inv
    | with_reducible apply Mod.Inv.buf
    | (dsimp only; with_reducible assumption)
    | with_reducible apply ite_inv
    | with_reducible apply ite_fst_inv
    | split

theorem Lane_putRec_inv (m : Mod) (ln : Lane) (p : Nat) (r : PRec) (hm : m.Inv) (hln : memWf 0 ln.buf = true) :
    memWf 0 (@Lane.putRec m ln p r).buf = true := by
  delta Lane.putRec
  repeat' first
    | with_reducible assumption
    | (with_reducible refine Mod.Inv.of_eq (by with_reducible assumption) ?_)
    | intro _
    | with_reducible apply Mod.Inv.kept
    | (simp -zeta only [Mod.inv_mk]; try dsimp only)
    | (extract_lets +onlyGivenNames mm; refine (fun hmm : Mod.Inv mm => ?_) ?_; clear_value mm; revert mm; intro _ _; rotate_left; dsimp -zeta +instances only [mm]; clear mm)
    | (extract_lets +onlyGivenNames mm; refine (fun hmm : Mod.Inv mm.1 => ?_) ?_; clear_value mm; revert mm; intro _ _; rotate_left; dsimp -zeta +instances only [mm]; clear mm)
    | (extract_lets +onlyGivenNames mm; dsimp -zeta +instances only [mm]; clear mm)
    | (extract_lets +onlyGivenNames mm; clear mm)
    | with_reducible apply foldl_inv
    | with_reducible apply foldl_fst_inv
    | with_reducible apply Kept.store
    | with_reducible apply memWriteN_wf
    | with_reducible apply Mod.Inv.buf
    | (dsimp only; with_reducible assumption)
    | with_reducible apply ite_inv
    | with_reducible apply ite_fst_inv
    | split

theorem Lane_wrN_inv (ln : Lane) (a n v : Nat) (hln : memWf 0 ln.buf = true) :
    memWf 0 (@Lane.wrN ln a n v).buf = true := by
  delta Lane.wrN
  repeat' first
    | with_reducible assumption
    | (with_reducible refine Mod.Inv.of_eq (by with_reducible assumption) ?_)
    | intro _
    | with_reducible apply Mod.Inv.kept
    | (simp -zeta only [Mod.inv_mk]; try dsimp only)
    | (extract_lets +onlyGivenNames mm; refine (fun hmm : Mod.Inv mm => ?_) ?_; clear_value mm; revert mm; intro _ _; rotate_left; dsimp -zeta +instances only [mm]; clear mm)
    | (extract_lets +onlyGivenNames mm; refine (fun hmm : Mod.Inv mm.1 => ?_) ?_; clear_value mm; revert mm; intro _ _; rotate_left; dsimp -zeta +instances only [mm]; clear mm)
    | (extract_lets +onlyGivenNames mm; dsimp -zeta +instances only [mm]; clear mm)
    | (extract_lets +onlyGivenNames mm; clear mm)
    | with_reducible apply foldl_inv
    | with_reducible apply foldl_fst_inv
    | with_reducible apply Kept.store
    | with_reducible apply memWriteN_wf
    | with_reducible apply Mod.Inv.buf
    | (dsimp only; with_reducible assumption)
    | with_reducible apply ite_inv
    | with_reducible apply ite_fst_inv
    | split


end Sys2Proof.Machine
end

