-- ==== Sys2Proof/Laws/KeepsLanes.lean ====
section
/-! SUPPORT. What the operations of Machine/Lanes.lean keep: the module's canonical forms and its calendar (Safety.lean). -/

set_option linter.unusedTactic false
set_option linter.unreachableTactic false
set_option linter.tactic.unusedName false
set_option linter.unusedSimpArgs false
set_option linter.unusedVariables false

namespace Sys2Proof.Machine

theorem Lane_cleared_inv (ln : Lane) (hln : memWf 0 ln.buf = true) :
    memWf 0 (@Lane.cleared ln).buf = true := by
  delta Lane.cleared
  repeat' first
    | with_reducible assumption
    | (with_reducible refine Mod.Inv.of_eq (by with_reducible assumption) ?_)
    | intro _
    | with_reducible apply Mod.Inv.kept
    | (simp -zeta only [Mod.inv_mk]; try dsimp only)
    | (extract_lets +onlyGivenNames mm; refine (fun hmm : Mod.Inv mm => ?_) ?_; clear_value mm; revert mm; intro _ _; rotate_left; dsimp -zeta +instances only [mm]; clear mm)
    | (extract_lets +onlyGivenNames mm; refine (fun hmm : Mod.Inv mm.1 => ?_) ?_; clear_value mm; revert mm; intro _ _; rotate_left; dsimp -zeta +instances only [mm]; clear mm)
    | (extract_lets +onlyGivenNames mm; dsimp -zeta +instances only [mm]; clear mm)
    | (extract_lets +onlyGivenNames mm; clear mm)
    | with_reducible apply foldl_inv
    | with_reducible apply foldl_fst_inv
    | with_reducible apply Mod.Inv.buf
    | (dsimp only; with_reducible assumption)
    | exact rfl
    | with_reducible apply ite_inv
    | with_reducible apply ite_fst_inv
    | split

theorem loadTile_inv (m : Mod) (i : Fin 8) (code own : Bool) (t : Nat) (hm : m.Inv) : (@loadTile m i code own t).1.Inv := by
  unfold loadTile
  extract_lets +onlyGivenNames acc
  split
  · exact Mod.regionViolation_inv m _ _ _ hm
  · have h := Mod.loadEffect_inv m t i.val hm
    revert h
    generalize m.loadEffect t i.val = m'
    intro h
    dsimp only
    cases m.loadData t with
    | data bs => exact Kept.lane h i.val i.isLt (by exact memWriteN_wf 0 _ _ (h.buf i))
    | placeholder bs => exact Kept.lane h i.val i.isLt (by exact memWriteN_wf 0 _ _ (h.buf i))
    | none => exact h
theorem loadTiles_inv (m : Mod) (i : Fin 8) (own : List Nat) (code : Nat) (ts : List Nat) (hm : m.Inv) :
    (@loadTiles m i own code ts).1.Inv := by
  induction ts generalizing m code with
  | nil => exact hm
  | cons t ts ih =>
    unfold loadTiles
    have h := loadTile_inv m i (decide (0 < code)) (own.contains t) t hm
    split
    · rename_i m' heq
      rw [heq] at h
      exact ih m' _ h
    · exact h
theorem abandonTask_inv (m : Mod) (t : TaskDef) (hm : m.Inv) :
    (@abandonTask m t).Inv := by
  delta abandonTask
  repeat' first
    | with_reducible assumption
    | (with_reducible refine Mod.Inv.of_eq (by with_reducible assumption) ?_)
    | intro _
    | with_reducible apply Mod.Inv.kept
    | (simp -zeta only [Mod.inv_mk]; try dsimp only)
    | (extract_lets +onlyGivenNames mm; refine (fun hmm : Mod.Inv mm => ?_) ?_; clear_value mm; revert mm; intro _ _; rotate_left; dsimp -zeta +instances only [mm]; clear mm)
    | (extract_lets +onlyGivenNames mm; refine (fun hmm : Mod.Inv mm.1 => ?_) ?_; clear_value mm; revert mm; intro _ _; rotate_left; dsimp -zeta +instances only [mm]; clear mm)
    | (extract_lets +onlyGivenNames mm; dsimp -zeta +instances only [mm]; clear mm)
    | (extract_lets +onlyGivenNames mm; clear mm)
    | with_reducible apply Mod.reqSafe_inv
    | with_reducible apply Mod.outMap_inv
    | with_reducible apply foldl_inv
    | with_reducible apply foldl_fst_inv
    | with_reducible apply ite_inv
    | with_reducible apply ite_fst_inv
    | split

theorem laneRegion_inv (m : Mod) (cls : Nat) (hm : m.Inv) :
    (@laneRegion m cls).Inv := by
  delta laneRegion
  repeat' first
    | with_reducible assumption
    | (with_reducible refine Mod.Inv.of_eq (by with_reducible assumption) ?_)
    | intro _
    | with_reducible apply Mod.Inv.kept
    | (simp -zeta only [Mod.inv_mk]; try dsimp only)
    | (extract_lets +onlyGivenNames mm; refine (fun hmm : Mod.Inv mm => ?_) ?_; clear_value mm; revert mm; intro _ _; rotate_left; dsimp -zeta +instances only [mm]; clear mm)
    | (extract_lets +onlyGivenNames mm; refine (fun hmm : Mod.Inv mm.1 => ?_) ?_; clear_value mm; revert mm; intro _ _; rotate_left; dsimp -zeta +instances only [mm]; clear mm)
    | (extract_lets +onlyGivenNames mm; dsimp -zeta +instances only [mm]; clear mm)
    | (extract_lets +onlyGivenNames mm; clear mm)
    | with_reducible apply Mod.overrun_inv
    | with_reducible apply foldl_inv
    | with_reducible apply foldl_fst_inv
    | with_reducible apply ite_inv
    | with_reducible apply ite_fst_inv
    | split

theorem startTasks_inv (m : Mod) (i : Fin 8) (ts : List Nat) (hm : m.Inv) : (@startTasks m i ts).Inv := by
  induction ts generalizing m with
  | nil => exact Kept.lane hm i.val i.isLt (hm.buf i)
  | cons t ts ih =>
    unfold startTasks
    split
    · exact ih m hm
    · rename_i td _
      have hl : ∀ ln : Lane, memWf 0 ln.buf = true → (Mod.Inv { m with lanes := m.lanes.set i ln }) :=
        fun ln h => Kept.lane hm i.val i.isLt h
      have h := loadTiles_inv _ i td.stores td.codeTiles td.tiles (hl { (m.lanes[i]).cleared with
        task := some t, todo := ts, phase := .exec, freeze := m.exec.clsFreeze[Fin.ofNat 8 td.cls] } rfl)
      dsimp only
      split
      · rename_i heq; rw [heq] at h; exact laneRegion_inv _ _ h
      · rename_i heq; rw [heq] at h; exact h
      · rename_i heq; rw [heq] at h; exact ih _ (abandonTask_inv _ td h)
theorem writeBacks_inv (m : Mod) (i : Fin 8) (ln : Lane) (ts : List Nat) (hm : m.Inv) : (@writeBacks m i ln ts).1.Inv := by
  induction ts generalizing m with
  | nil => exact hm
  | cons t ts ih =>
    unfold writeBacks
    have h := Mod.masterStore_inv m i.val t (memReadN 0 ln.buf (ln.entry t * 256) 256) hm
    split
    · rename_i m' heq
      rw [heq] at h
      exact ih m' h
    · exact h
theorem endTask_inv (m : Mod) (i : Fin 8) (hm : m.Inv) : (@endTask m i).Inv := by
  unfold endTask
  dsimp only
  split
  · exact startTasks_inv _ _ _ hm
  · rename_i td _
    have h := writeBacks_inv m i m.lanes[i] td.stores hm
    split
    · rename_i heq; rw [heq] at h; exact laneRegion_inv _ _ h
    · rename_i heq; rw [heq] at h; exact startTasks_inv _ _ _ h
theorem settle_inv (ln : Lane) (rs : List Rep) (hln : memWf 0 ln.buf = true) : memWf 0 (@settle ln rs).buf = true := by
  induction rs with
  | nil => exact hln
  | cons r rs ih =>
    unfold settle
    split
    · split
      · exact hln
      · exact ih
    · exact hln
theorem Lane_past_inv (ln : Lane) (n : Nat) (hln : memWf 0 ln.buf = true) :
    memWf 0 (@Lane.past ln n).buf = true := by
  delta Lane.past
  repeat' first
    | with_reducible assumption
    | (with_reducible refine Mod.Inv.of_eq (by with_reducible assumption) ?_)
    | intro _
    | with_reducible apply Mod.Inv.kept
    | (simp -zeta only [Mod.inv_mk]; try dsimp only)
    | (extract_lets +onlyGivenNames mm; refine (fun hmm : Mod.Inv mm => ?_) ?_; clear_value mm; revert mm; intro _ _; rotate_left; dsimp -zeta +instances only [mm]; clear mm)
    | (extract_lets +onlyGivenNames mm; refine (fun hmm : Mod.Inv mm.1 => ?_) ?_; clear_value mm; revert mm; intro _ _; rotate_left; dsimp -zeta +instances only [mm]; clear mm)
    | (extract_lets +onlyGivenNames mm; dsimp -zeta +instances only [mm]; clear mm)
    | (extract_lets +onlyGivenNames mm; clear mm)
    | with_reducible apply settle_inv
    | with_reducible apply foldl_inv
    | with_reducible apply foldl_fst_inv
    | with_reducible apply Mod.Inv.buf
    | (dsimp only; with_reducible assumption)
    | with_reducible apply ite_inv
    | with_reducible apply ite_fst_inv
    | split

theorem Lane_jump_inv (ln : Lane) (off : Nat) (hln : memWf 0 ln.buf = true) :
    memWf 0 (@Lane.jump ln off).buf = true := by
  delta Lane.jump
  repeat' first
    | with_reducible assumption
    | (with_reducible refine Mod.Inv.of_eq (by with_reducible assumption) ?_)
    | intro _
    | with_reducible apply Mod.Inv.kept
    | (simp -zeta only [Mod.inv_mk]; try dsimp only)
    | (extract_lets +onlyGivenNames mm; refine (fun hmm : Mod.Inv mm => ?_) ?_; clear_value mm; revert mm; intro _ _; rotate_left; dsimp -zeta +instances only [mm]; clear mm)
    | (extract_lets +onlyGivenNames mm; refine (fun hmm : Mod.Inv mm.1 => ?_) ?_; clear_value mm; revert mm; intro _ _; rotate_left; dsimp -zeta +instances only [mm]; clear mm)
    | (extract_lets +onlyGivenNames mm; dsimp -zeta +instances only [mm]; clear mm)
    | (extract_lets +onlyGivenNames mm; clear mm)
    | with_reducible apply foldl_inv
    | with_reducible apply foldl_fst_inv
    | with_reducible apply Mod.Inv.buf
    | (dsimp only; with_reducible assumption)
    | with_reducible apply ite_inv
    | with_reducible apply ite_fst_inv
    | split

theorem putLane_inv (m : Mod) (i : Fin 8) (ln : Lane) (hm : m.Inv) (hln : memWf 0 ln.buf = true) :
    (@putLane m i ln).Inv := by
  delta putLane
  repeat' first
    | with_reducible assumption
    | (with_reducible refine Mod.Inv.of_eq (by with_reducible assumption) ?_)
    | intro _
    | with_reducible apply Mod.Inv.kept
    | (simp -zeta only [Mod.inv_mk]; try dsimp only)
    | (extract_lets +onlyGivenNames mm; refine (fun hmm : Mod.Inv mm => ?_) ?_; clear_value mm; revert mm; intro _ _; rotate_left; dsimp -zeta +instances only [mm]; clear mm)
    | (extract_lets +onlyGivenNames mm; refine (fun hmm : Mod.Inv mm.1 => ?_) ?_; clear_value mm; revert mm; intro _ _; rotate_left; dsimp -zeta +instances only [mm]; clear mm)
    | (extract_lets +onlyGivenNames mm; dsimp -zeta +instances only [mm]; clear mm)
    | (extract_lets +onlyGivenNames mm; clear mm)
    | with_reducible apply endTask_inv
    | with_reducible apply Mod.set_inv
    | with_reducible apply foldl_inv
    | with_reducible apply foldl_fst_inv
    | with_reducible apply Mod.Inv.buf
    | (dsimp only; with_reducible assumption)
    | with_reducible apply Kept.lane
    | with_reducible apply Kept.laneMap
    | with_reducible apply Kept.laneFn
    | with_reducible apply Kept.laneReset
    | with_reducible apply ite_inv
    | with_reducible apply ite_fst_inv
    | split

theorem laneOp_inv (s : State) (i : Fin 8) (w : Nat) (w2 : Option Nat) (f : Mod → Lane → Lane) (hs : s.m.Inv) (hf : ∀ a0, ∀ a1, memWf 0 a1.buf = true → memWf 0 (f a0 a1).buf = true) :
    Keeps (@laneOp s i w w2 f) := by
  delta laneOp
  repeat' first
    | with_reducible assumption
    | (with_reducible refine Mod.Inv.of_eq (by with_reducible assumption) ?_)
    | intro _
    | with_reducible apply Mod.Inv.kept
    | (simp -zeta only [Mod.inv_mk]; try dsimp only)
    | (extract_lets +onlyGivenNames mm; refine (fun hmm : Mod.Inv mm => ?_) ?_; clear_value mm; revert mm; intro _ _; rotate_left; dsimp -zeta +instances only [mm]; clear mm)
    | (extract_lets +onlyGivenNames mm; refine (fun hmm : Mod.Inv mm.1 => ?_) ?_; clear_value mm; revert mm; intro _ _; rotate_left; dsimp -zeta +instances only [mm]; clear mm)
    | (extract_lets +onlyGivenNames mm; dsimp -zeta +instances only [mm]; clear mm)
    | (extract_lets +onlyGivenNames mm; clear mm)
    | with_reducible apply putLane_inv
    | with_reducible apply Lane_past_inv
    | with_reducible apply onMod_inv
    | with_reducible apply foldl_inv
    | with_reducible apply foldl_fst_inv
    | with_reducible apply Mod.Inv.buf
    | (dsimp only; with_reducible assumption)
    | with_reducible apply hf
    | with_reducible apply ite_inv
    | with_reducible apply ite_fst_inv
    | split

theorem branchOp_inv (s : State) (i : Fin 8) (w : Nat) (off : BitVec 20) (c : Lane → Bool) (hs : s.m.Inv) :
    Keeps (@branchOp s i w off c) := by
  delta branchOp
  repeat' first
    | with_reducible assumption
    | (with_reducible refine Mod.Inv.of_eq (by with_reducible assumption) ?_)
    | intro _
    | with_reducible apply Mod.Inv.kept
    | (simp -zeta only [Mod.inv_mk]; try dsimp only)
    | (extract_lets +onlyGivenNames mm; refine (fun hmm : Mod.Inv mm => ?_) ?_; clear_value mm; revert mm; intro _ _; rotate_left; dsimp -zeta +instances only [mm]; clear mm)
    | (extract_lets +onlyGivenNames mm; refine (fun hmm : Mod.Inv mm.1 => ?_) ?_; clear_value mm; revert mm; intro _ _; rotate_left; dsimp -zeta +instances only [mm]; clear mm)
    | (extract_lets +onlyGivenNames mm; dsimp -zeta +instances only [mm]; clear mm)
    | (extract_lets +onlyGivenNames mm; clear mm)
    | with_reducible apply putLane_inv
    | with_reducible apply Lane_jump_inv
    | with_reducible apply Lane_past_inv
    | with_reducible apply onMod_inv
    | with_reducible apply foldl_inv
    | with_reducible apply foldl_fst_inv
    | with_reducible apply Mod.Inv.buf
    | (dsimp only; with_reducible assumption)
    | with_reducible apply hc
    | with_reducible apply ite_inv
    | with_reducible apply ite_fst_inv
    | split

theorem regOp_inv (s : State) (i : Fin 8) (w : Nat) (d : Fin 16) (reads : List (Fin 16)) (f : Lane → Long × Bool) (hs : s.m.Inv) :
    Keeps (@regOp s i w d reads f) := by
  delta regOp
  repeat' first
    | with_reducible assumption
    | (with_reducible refine Mod.Inv.of_eq (by with_reducible assumption) ?_)
    | intro _
    | with_reducible apply Mod.Inv.kept
    | (simp -zeta only [Mod.inv_mk]; try dsimp only)
    | (extract_lets +onlyGivenNames mm; refine (fun hmm : Mod.Inv mm => ?_) ?_; clear_value mm; revert mm; intro _ _; rotate_left; dsimp -zeta +instances only [mm]; clear mm)
    | (extract_lets +onlyGivenNames mm; refine (fun hmm : Mod.Inv mm.1 => ?_) ?_; clear_value mm; revert mm; intro _ _; rotate_left; dsimp -zeta +instances only [mm]; clear mm)
    | (extract_lets +onlyGivenNames mm; dsimp -zeta +instances only [mm]; clear mm)
    | (extract_lets +onlyGivenNames mm; clear mm)
    | with_reducible apply laneOp_inv
    | with_reducible apply Lane_wr_inv
    | with_reducible apply foldl_inv
    | with_reducible apply foldl_fst_inv
    | with_reducible apply hf
    | with_reducible apply ite_inv
    | with_reducible apply ite_fst_inv
    | split

theorem i32Op_inv (s : State) (i : Fin 8) (op : Nat) (d a b : Fin 16) (f : Int → Int → Int × Bool) (hs : s.m.Inv) :
    Keeps (@i32Op s i op d a b f) := by
  delta i32Op
  repeat' first
    | with_reducible assumption
    | (with_reducible refine Mod.Inv.of_eq (by with_reducible assumption) ?_)
    | intro _
    | with_reducible apply Mod.Inv.kept
    | (simp -zeta only [Mod.inv_mk]; try dsimp only)
    | (extract_lets +onlyGivenNames mm; refine (fun hmm : Mod.Inv mm => ?_) ?_; clear_value mm; revert mm; intro _ _; rotate_left; dsimp -zeta +instances only [mm]; clear mm)
    | (extract_lets +onlyGivenNames mm; refine (fun hmm : Mod.Inv mm.1 => ?_) ?_; clear_value mm; revert mm; intro _ _; rotate_left; dsimp -zeta +instances only [mm]; clear mm)
    | (extract_lets +onlyGivenNames mm; dsimp -zeta +instances only [mm]; clear mm)
    | (extract_lets +onlyGivenNames mm; clear mm)
    | with_reducible apply regOp_inv
    | with_reducible apply foldl_inv
    | with_reducible apply foldl_fst_inv
    | with_reducible apply ite_inv
    | with_reducible apply ite_fst_inv
    | split

theorem i64Op_inv (s : State) (i : Fin 8) (op : Nat) (d a b : Fin 16) (f : Int → Int → Int × Bool) (hs : s.m.Inv) :
    Keeps (@i64Op s i op d a b f) := by
  delta i64Op
  repeat' first
    | with_reducible assumption
    | (with_reducible refine Mod.Inv.of_eq (by with_reducible assumption) ?_)
    | intro _
    | with_reducible apply Mod.Inv.kept
    | (simp -zeta only [Mod.inv_mk]; try dsimp only)
    | (extract_lets +onlyGivenNames mm; refine (fun hmm : Mod.Inv mm => ?_) ?_; clear_value mm; revert mm; intro _ _; rotate_left; dsimp -zeta +instances only [mm]; clear mm)
    | (extract_lets +onlyGivenNames mm; refine (fun hmm : Mod.Inv mm.1 => ?_) ?_; clear_value mm; revert mm; intro _ _; rotate_left; dsimp -zeta +instances only [mm]; clear mm)
    | (extract_lets +onlyGivenNames mm; dsimp -zeta +instances only [mm]; clear mm)
    | (extract_lets +onlyGivenNames mm; clear mm)
    | with_reducible apply regOp_inv
    | with_reducible apply foldl_inv
    | with_reducible apply foldl_fst_inv
    | with_reducible apply ite_inv
    | with_reducible apply ite_fst_inv
    | split

theorem f32Op_inv (s : State) (i : Fin 8) (op : Nat) (d a b : Fin 16) (f : Nat → Nat → Nat) (hs : s.m.Inv) :
    Keeps (@f32Op s i op d a b f) := by
  delta f32Op
  repeat' first
    | with_reducible assumption
    | (with_reducible refine Mod.Inv.of_eq (by with_reducible assumption) ?_)
    | intro _
    | with_reducible apply Mod.Inv.kept
    | (simp -zeta only [Mod.inv_mk]; try dsimp only)
    | (extract_lets +onlyGivenNames mm; refine (fun hmm : Mod.Inv mm => ?_) ?_; clear_value mm; revert mm; intro _ _; rotate_left; dsimp -zeta +instances only [mm]; clear mm)
    | (extract_lets +onlyGivenNames mm; refine (fun hmm : Mod.Inv mm.1 => ?_) ?_; clear_value mm; revert mm; intro _ _; rotate_left; dsimp -zeta +instances only [mm]; clear mm)
    | (extract_lets +onlyGivenNames mm; dsimp -zeta +instances only [mm]; clear mm)
    | (extract_lets +onlyGivenNames mm; clear mm)
    | with_reducible apply regOp_inv
    | with_reducible apply foldl_inv
    | with_reducible apply foldl_fst_inv
    | with_reducible apply ite_inv
    | with_reducible apply ite_fst_inv
    | split

theorem f32NumOp_inv (s : State) (i : Fin 8) (op : Nat) (d a b : Fin 16) (f : Nat → Nat → Nat) (hs : s.m.Inv) :
    Keeps (@f32NumOp s i op d a b f) := by
  delta f32NumOp
  repeat' first
    | with_reducible assumption
    | (with_reducible refine Mod.Inv.of_eq (by with_reducible assumption) ?_)
    | intro _
    | with_reducible apply Mod.Inv.kept
    | (simp -zeta only [Mod.inv_mk]; try dsimp only)
    | (extract_lets +onlyGivenNames mm; refine (fun hmm : Mod.Inv mm => ?_) ?_; clear_value mm; revert mm; intro _ _; rotate_left; dsimp -zeta +instances only [mm]; clear mm)
    | (extract_lets +onlyGivenNames mm; refine (fun hmm : Mod.Inv mm.1 => ?_) ?_; clear_value mm; revert mm; intro _ _; rotate_left; dsimp -zeta +instances only [mm]; clear mm)
    | (extract_lets +onlyGivenNames mm; dsimp -zeta +instances only [mm]; clear mm)
    | (extract_lets +onlyGivenNames mm; clear mm)
    | with_reducible apply regOp_inv
    | with_reducible apply foldl_inv
    | with_reducible apply foldl_fst_inv
    | with_reducible apply ite_inv
    | with_reducible apply ite_fst_inv
    | split

theorem bitOp_inv (s : State) (i : Fin 8) (op : Nat) (d a b : Fin 16) (f : Long → Long → Long) (hs : s.m.Inv) :
    Keeps (@bitOp s i op d a b f) := by
  delta bitOp
  repeat' first
    | with_reducible assumption
    | (with_reducible refine Mod.Inv.of_eq (by with_reducible assumption) ?_)
    | intro _
    | with_reducible apply Mod.Inv.kept
    | (simp -zeta only [Mod.inv_mk]; try dsimp only)
    | (extract_lets +onlyGivenNames mm; refine (fun hmm : Mod.Inv mm => ?_) ?_; clear_value mm; revert mm; intro _ _; rotate_left; dsimp -zeta +instances only [mm]; clear mm)
    | (extract_lets +onlyGivenNames mm; refine (fun hmm : Mod.Inv mm.1 => ?_) ?_; clear_value mm; revert mm; intro _ _; rotate_left; dsimp -zeta +instances only [mm]; clear mm)
    | (extract_lets +onlyGivenNames mm; dsimp -zeta +instances only [mm]; clear mm)
    | (extract_lets +onlyGivenNames mm; clear mm)
    | with_reducible apply regOp_inv
    | with_reducible apply foldl_inv
    | with_reducible apply foldl_fst_inv
    | with_reducible apply ite_inv
    | with_reducible apply ite_fst_inv
    | split

theorem convOp_inv (s : State) (i : Fin 8) (op : Nat) (d a : Fin 16) (f : Long → Long × Bool) (hs : s.m.Inv) :
    Keeps (@convOp s i op d a f) := by
  delta convOp
  repeat' first
    | with_reducible assumption
    | (with_reducible refine Mod.Inv.of_eq (by with_reducible assumption) ?_)
    | intro _
    | with_reducible apply Mod.Inv.kept
    | (simp -zeta only [Mod.inv_mk]; try dsimp only)
    | (extract_lets +onlyGivenNames mm; refine (fun hmm : Mod.Inv mm => ?_) ?_; clear_value mm; revert mm; intro _ _; rotate_left; dsimp -zeta +instances only [mm]; clear mm)
    | (extract_lets +onlyGivenNames mm; refine (fun hmm : Mod.Inv mm.1 => ?_) ?_; clear_value mm; revert mm; intro _ _; rotate_left; dsimp -zeta +instances only [mm]; clear mm)
    | (extract_lets +onlyGivenNames mm; dsimp -zeta +instances only [mm]; clear mm)
    | (extract_lets +onlyGivenNames mm; clear mm)
    | with_reducible apply regOp_inv
    | with_reducible apply foldl_inv
    | with_reducible apply foldl_fst_inv
    | with_reducible apply ite_inv
    | with_reducible apply ite_fst_inv
    | split

theorem timerOp_inv (s : State) (i : Fin 8) (op : Nat) (d : Fin 16) (n : BitVec 14) (rule : Bool → Bool → Bool → Bool → Bool → Nat → Nat → Nat → TimerOut) (hs : s.m.Inv) :
    Keeps (@timerOp s i op d n rule) := by
  delta timerOp
  repeat' first
    | with_reducible assumption
    | (with_reducible refine Mod.Inv.of_eq (by with_reducible assumption) ?_)
    | intro _
    | with_reducible apply Mod.Inv.kept
    | (simp -zeta only [Mod.inv_mk]; try dsimp only)
    | (extract_lets +onlyGivenNames mm; refine (fun hmm : Mod.Inv mm => ?_) ?_; clear_value mm; revert mm; intro _ _; rotate_left; dsimp -zeta +instances only [mm]; clear mm)
    | (extract_lets +onlyGivenNames mm; refine (fun hmm : Mod.Inv mm.1 => ?_) ?_; clear_value mm; revert mm; intro _ _; rotate_left; dsimp -zeta +instances only [mm]; clear mm)
    | (extract_lets +onlyGivenNames mm; dsimp -zeta +instances only [mm]; clear mm)
    | (extract_lets +onlyGivenNames mm; clear mm)
    | with_reducible apply laneOp_inv
    | with_reducible apply Lane_wrN_inv
    | with_reducible apply Lane_wr_inv
    | with_reducible apply foldl_inv
    | with_reducible apply foldl_fst_inv
    | with_reducible apply ite_inv
    | with_reducible apply ite_fst_inv
    | split

theorem counterOp_inv (s : State) (i : Fin 8) (op : Nat) (d : Fin 16) (n : BitVec 14) (rule : Bool → Bool → Int → Int → Int) (out : Int → Int → Bool) (hs : s.m.Inv) :
    Keeps (@counterOp s i op d n rule out) := by
  delta counterOp
  repeat' first
    | with_reducible assumption
    | (with_reducible refine Mod.Inv.of_eq (by with_reducible assumption) ?_)
    | intro _
    | with_reducible apply Mod.Inv.kept
    | (simp -zeta only [Mod.inv_mk]; try dsimp only)
    | (extract_lets +onlyGivenNames mm; refine (fun hmm : Mod.Inv mm => ?_) ?_; clear_value mm; revert mm; intro _ _; rotate_left; dsimp -zeta +instances only [mm]; clear mm)
    | (extract_lets +onlyGivenNames mm; refine (fun hmm : Mod.Inv mm.1 => ?_) ?_; clear_value mm; revert mm; intro _ _; rotate_left; dsimp -zeta +instances only [mm]; clear mm)
    | (extract_lets +onlyGivenNames mm; dsimp -zeta +instances only [mm]; clear mm)
    | (extract_lets +onlyGivenNames mm; clear mm)
    | with_reducible apply laneOp_inv
    | with_reducible apply Lane_wrN_inv
    | with_reducible apply Lane_wr_inv
    | with_reducible apply foldl_inv
    | with_reducible apply foldl_fst_inv
    | with_reducible apply ite_inv
    | with_reducible apply ite_fst_inv
    | split

theorem edgeOp_inv (s : State) (i : Fin 8) (op : Nat) (d : Fin 16) (n : BitVec 14) (rule : Bool → Bool → Bool) (hs : s.m.Inv) :
    Keeps (@edgeOp s i op d n rule) := by
  delta edgeOp
  repeat' first
    | with_reducible assumption
    | (with_reducible refine Mod.Inv.of_eq (by with_reducible assumption) ?_)
    | intro _
    | with_reducible apply Mod.Inv.kept
    | (simp -zeta only [Mod.inv_mk]; try dsimp only)
    | (extract_lets +onlyGivenNames mm; refine (fun hmm : Mod.Inv mm => ?_) ?_; clear_value mm; revert mm; intro _ _; rotate_left; dsimp -zeta +instances only [mm]; clear mm)
    | (extract_lets +onlyGivenNames mm; refine (fun hmm : Mod.Inv mm.1 => ?_) ?_; clear_value mm; revert mm; intro _ _; rotate_left; dsimp -zeta +instances only [mm]; clear mm)
    | (extract_lets +onlyGivenNames mm; dsimp -zeta +instances only [mm]; clear mm)
    | (extract_lets +onlyGivenNames mm; clear mm)
    | with_reducible apply laneOp_inv
    | with_reducible apply Lane_wrN_inv
    | with_reducible apply Lane_wr_inv
    | with_reducible apply foldl_inv
    | with_reducible apply foldl_fst_inv
    | with_reducible apply ite_inv
    | with_reducible apply ite_fst_inv
    | split

theorem bistableOp_inv (s : State) (i : Fin 8) (op : Nat) (d : Fin 16) (n : BitVec 14) (rule : Bool → Bool → Bool → Bool) (hs : s.m.Inv) :
    Keeps (@bistableOp s i op d n rule) := by
  delta bistableOp
  repeat' first
    | with_reducible assumption
    | (with_reducible refine Mod.Inv.of_eq (by with_reducible assumption) ?_)
    | intro _
    | with_reducible apply Mod.Inv.kept
    | (simp -zeta only [Mod.inv_mk]; try dsimp only)
    | (extract_lets +onlyGivenNames mm; refine (fun hmm : Mod.Inv mm => ?_) ?_; clear_value mm; revert mm; intro _ _; rotate_left; dsimp -zeta +instances only [mm]; clear mm)
    | (extract_lets +onlyGivenNames mm; refine (fun hmm : Mod.Inv mm.1 => ?_) ?_; clear_value mm; revert mm; intro _ _; rotate_left; dsimp -zeta +instances only [mm]; clear mm)
    | (extract_lets +onlyGivenNames mm; dsimp -zeta +instances only [mm]; clear mm)
    | (extract_lets +onlyGivenNames mm; clear mm)
    | with_reducible apply laneOp_inv
    | with_reducible apply Lane_wrN_inv
    | with_reducible apply Lane_wr_inv
    | with_reducible apply foldl_inv
    | with_reducible apply foldl_fst_inv
    | with_reducible apply ite_inv
    | with_reducible apply ite_fst_inv
    | split


end Sys2Proof.Machine
end

