-- ==== Sys2Proof/Laws/KeepsBluot.lean ====
section
/-! SUPPORT. What the operations of Machine/Bluot.lean keep: the module's canonical forms and its calendar (Safety.lean). -/

set_option linter.unusedTactic false
set_option linter.unreachableTactic false
set_option linter.tactic.unusedName false
set_option linter.unusedSimpArgs false
set_option linter.unusedVariables false

namespace Sys2Proof.Machine

theorem stagePoint_inv (m : Mod) (copyB : Bool) (p : Nat) (v : Long) (hm : m.Inv) :
    (@stagePoint m copyB p v).Inv := by
  delta stagePoint
  repeat' first
    | with_reducible assumption
    | (with_reducible refine Mod.Inv.of_eq (by with_reducible assumption) ?_)
    | intro _
    | with_reducible apply Mod.Inv.kept
    | (simp -zeta only [Mod.inv_mk]; try dsimp only)
    | (extract_lets +onlyGivenNames mm; refine (fun hmm : Mod.Inv mm => ?_) ?_; clear_value mm; revert mm; intro _ _; rotate_left; dsimp -zeta +instances only [mm]; clear mm)
    | (extract_lets +onlyGivenNames mm; refine (fun hmm : Mod.Inv mm.1 => ?_) ?_; clear_value mm; revert mm; intro _ _; rotate_left; dsimp -zeta +instances only [mm]; clear mm)
    | (extract_lets +onlyGivenNames mm; dsimp -zeta +instances only [mm]; clear mm)
    | (extract_lets +onlyGivenNames mm; clear mm)
    | with_reducible apply Mod.outMap_inv
    | with_reducible apply foldl_inv
    | with_reducible apply foldl_fst_inv
    | with_reducible apply ite_inv
    | with_reducible apply ite_fst_inv
    | split


end Sys2Proof.Machine
end

