-- ==== Sys2Proof/Laws/KeepsFieldIo.lean ====
section
/-! SUPPORT. What the operations of Machine/FieldIo.lean keep: the module's canonical forms and its calendar (Safety.lean). -/

set_option linter.unusedTactic false
set_option linter.unreachableTactic false
set_option linter.tactic.unusedName false
set_option linter.unusedSimpArgs false
set_option linter.unusedVariables false

namespace Sys2Proof.Machine

theorem Mod.diMap_inv (m : Mod) (n : Fin 48) (f : DiSt → DiSt) (hm : m.Inv) :
    (@Mod.diMap m n f).Inv := by
  delta Mod.diMap
  repeat' first
    | with_reducible assumption
    | (with_reducible refine Mod.Inv.of_eq (by with_reducible assumption) ?_)
    | intro _
    | with_reducible apply Mod.Inv.kept
    | (simp -zeta only [Mod.inv_mk]; try dsimp only)
    | (extract_lets +onlyGivenNames mm; refine (fun hmm : Mod.Inv mm => ?_) ?_; clear_value mm; revert mm; intro _ _; rotate_left; dsimp -zeta +instances only [mm]; clear mm)
    | (extract_lets +onlyGivenNames mm; refine (fun hmm : Mod.Inv mm.1 => ?_) ?_; clear_value mm; revert mm; intro _ _; rotate_left; dsimp -zeta +instances only [mm]; clear mm)
    | (extract_lets +onlyGivenNames mm; dsimp -zeta +instances only [mm]; clear mm)
    | (extract_lets +onlyGivenNames mm; clear mm)
    | with_reducible apply Mod.set_inv
    | with_reducible apply foldl_inv
    | with_reducible apply foldl_fst_inv
    | with_reducible apply ite_inv
    | with_reducible apply ite_fst_inv
    | split

theorem Mod.cntMap_inv (m : Mod) (k : Fin 8) (f : CntSt → CntSt) (hm : m.Inv) :
    (@Mod.cntMap m k f).Inv := by
  delta Mod.cntMap
  repeat' first
    | with_reducible assumption
    | (with_reducible refine Mod.Inv.of_eq (by with_reducible assumption) ?_)
    | intro _
    | with_reducible apply Mod.Inv.kept
    | (simp -zeta only [Mod.inv_mk]; try dsimp only)
    | (extract_lets +onlyGivenNames mm; refine (fun hmm : Mod.Inv mm => ?_) ?_; clear_value mm; revert mm; intro _ _; rotate_left; dsimp -zeta +instances only [mm]; clear mm)
    | (extract_lets +onlyGivenNames mm; refine (fun hmm : Mod.Inv mm.1 => ?_) ?_; clear_value mm; revert mm; intro _ _; rotate_left; dsimp -zeta +instances only [mm]; clear mm)
    | (extract_lets +onlyGivenNames mm; dsimp -zeta +instances only [mm]; clear mm)
    | (extract_lets +onlyGivenNames mm; clear mm)
    | with_reducible apply Mod.set_inv
    | with_reducible apply foldl_inv
    | with_reducible apply foldl_fst_inv
    | with_reducible apply ite_inv
    | with_reducible apply ite_fst_inv
    | split

theorem windowEnd_inv (m : Mod) (k : Fin 8) (hm : m.Inv) :
    (@windowEnd m k).Inv := by
  delta windowEnd
  repeat' first
    | with_reducible assumption
    | (with_reducible refine Mod.Inv.of_eq (by with_reducible assumption) ?_)
    | intro _
    | with_reducible apply Mod.Inv.kept
    | (simp -zeta only [Mod.inv_mk]; try dsimp only)
    | (extract_lets +onlyGivenNames mm; refine (fun hmm : Mod.Inv mm => ?_) ?_; clear_value mm; revert mm; intro _ _; rotate_left; dsimp -zeta +instances only [mm]; clear mm)
    | (extract_lets +onlyGivenNames mm; refine (fun hmm : Mod.Inv mm.1 => ?_) ?_; clear_value mm; revert mm; intro _ _; rotate_left; dsimp -zeta +instances only [mm]; clear mm)
    | (extract_lets +onlyGivenNames mm; dsimp -zeta +instances only [mm]; clear mm)
    | (extract_lets +onlyGivenNames mm; clear mm)
    | with_reducible apply Mod.cntMap_inv
    | with_reducible apply Mod.setB_inv
    | with_reducible apply Mod.when_inv
    | with_reducible apply Mod.set_inv
    | with_reducible apply foldl_inv
    | with_reducible apply foldl_fst_inv
    | with_reducible apply ite_inv
    | with_reducible apply ite_fst_inv
    | split

theorem Mod.cntLatch_inv (m : Mod) (k : Fin 8) (hm : m.Inv) :
    (@Mod.cntLatch m k).Inv := by
  delta Mod.cntLatch
  repeat' first
    | with_reducible assumption
    | (with_reducible refine Mod.Inv.of_eq (by with_reducible assumption) ?_)
    | intro _
    | with_reducible apply Mod.Inv.kept
    | (simp -zeta only [Mod.inv_mk]; try dsimp only)
    | (extract_lets +onlyGivenNames mm; refine (fun hmm : Mod.Inv mm => ?_) ?_; clear_value mm; revert mm; intro _ _; rotate_left; dsimp -zeta +instances only [mm]; clear mm)
    | (extract_lets +onlyGivenNames mm; refine (fun hmm : Mod.Inv mm.1 => ?_) ?_; clear_value mm; revert mm; intro _ _; rotate_left; dsimp -zeta +instances only [mm]; clear mm)
    | (extract_lets +onlyGivenNames mm; dsimp -zeta +instances only [mm]; clear mm)
    | (extract_lets +onlyGivenNames mm; clear mm)
    | with_reducible apply Mod.cntMap_inv
    | with_reducible apply foldl_inv
    | with_reducible apply foldl_fst_inv
    | with_reducible apply ite_inv
    | with_reducible apply ite_fst_inv
    | split

theorem Mod.grpClear_inv (m : Mod) (g : Nat) (hm : m.Inv) :
    (@Mod.grpClear m g).Inv := by
  delta Mod.grpClear
  repeat' first
    | with_reducible assumption
    | (with_reducible refine Mod.Inv.of_eq (by with_reducible assumption) ?_)
    | intro _
    | with_reducible apply Mod.Inv.kept
    | (simp -zeta only [Mod.inv_mk]; try dsimp only)
    | (extract_lets +onlyGivenNames mm; refine (fun hmm : Mod.Inv mm => ?_) ?_; clear_value mm; revert mm; intro _ _; rotate_left; dsimp -zeta +instances only [mm]; clear mm)
    | (extract_lets +onlyGivenNames mm; refine (fun hmm : Mod.Inv mm.1 => ?_) ?_; clear_value mm; revert mm; intro _ _; rotate_left; dsimp -zeta +instances only [mm]; clear mm)
    | (extract_lets +onlyGivenNames mm; dsimp -zeta +instances only [mm]; clear mm)
    | (extract_lets +onlyGivenNames mm; clear mm)
    | with_reducible apply Mod.set_inv
    | with_reducible apply foldl_inv
    | with_reducible apply foldl_fst_inv
    | with_reducible apply ite_inv
    | with_reducible apply ite_fst_inv
    | split

theorem Mod.scClear_inv (m : Mod) (n : Nat) (hm : m.Inv) :
    (@Mod.scClear m n).Inv := by
  delta Mod.scClear
  repeat' first
    | with_reducible assumption
    | (with_reducible refine Mod.Inv.of_eq (by with_reducible assumption) ?_)
    | intro _
    | with_reducible apply Mod.Inv.kept
    | (simp -zeta only [Mod.inv_mk]; try dsimp only)
    | (extract_lets +onlyGivenNames mm; refine (fun hmm : Mod.Inv mm => ?_) ?_; clear_value mm; revert mm; intro _ _; rotate_left; dsimp -zeta +instances only [mm]; clear mm)
    | (extract_lets +onlyGivenNames mm; refine (fun hmm : Mod.Inv mm.1 => ?_) ?_; clear_value mm; revert mm; intro _ _; rotate_left; dsimp -zeta +instances only [mm]; clear mm)
    | (extract_lets +onlyGivenNames mm; dsimp -zeta +instances only [mm]; clear mm)
    | (extract_lets +onlyGivenNames mm; clear mm)
    | with_reducible apply Mod.set_inv
    | with_reducible apply foldl_inv
    | with_reducible apply foldl_fst_inv
    | with_reducible apply ite_inv
    | with_reducible apply ite_fst_inv
    | split

theorem Mod.aiMap_inv (m : Mod) (n : Fin 16) (f : AiSt → AiSt) (hm : m.Inv) :
    (@Mod.aiMap m n f).Inv := by
  delta Mod.aiMap
  repeat' first
    | with_reducible assumption
    | (with_reducible refine Mod.Inv.of_eq (by with_reducible assumption) ?_)
    | intro _
    | with_reducible apply Mod.Inv.kept
    | (simp -zeta only [Mod.inv_mk]; try dsimp only)
    | (extract_lets +onlyGivenNames mm; refine (fun hmm : Mod.Inv mm => ?_) ?_; clear_value mm; revert mm; intro _ _; rotate_left; dsimp -zeta +instances only [mm]; clear mm)
    | (extract_lets +onlyGivenNames mm; refine (fun hmm : Mod.Inv mm.1 => ?_) ?_; clear_value mm; revert mm; intro _ _; rotate_left; dsimp -zeta +instances only [mm]; clear mm)
    | (extract_lets +onlyGivenNames mm; dsimp -zeta +instances only [mm]; clear mm)
    | (extract_lets +onlyGivenNames mm; clear mm)
    | with_reducible apply Mod.set_inv
    | with_reducible apply foldl_inv
    | with_reducible apply foldl_fst_inv
    | with_reducible apply ite_inv
    | with_reducible apply ite_fst_inv
    | split

theorem Mod.ltMap_inv (m : Mod) (n : Fin 8) (f : LtSt → LtSt) (hm : m.Inv) :
    (@Mod.ltMap m n f).Inv := by
  delta Mod.ltMap
  repeat' first
    | with_reducible assumption
    | (with_reducible refine Mod.Inv.of_eq (by with_reducible assumption) ?_)
    | intro _
    | with_reducible apply Mod.Inv.kept
    | (simp -zeta only [Mod.inv_mk]; try dsimp only)
    | (extract_lets +onlyGivenNames mm; refine (fun hmm : Mod.Inv mm => ?_) ?_; clear_value mm; revert mm; intro _ _; rotate_left; dsimp -zeta +instances only [mm]; clear mm)
    | (extract_lets +onlyGivenNames mm; refine (fun hmm : Mod.Inv mm.1 => ?_) ?_; clear_value mm; revert mm; intro _ _; rotate_left; dsimp -zeta +instances only [mm]; clear mm)
    | (extract_lets +onlyGivenNames mm; dsimp -zeta +instances only [mm]; clear mm)
    | (extract_lets +onlyGivenNames mm; clear mm)
    | with_reducible apply Mod.set_inv
    | with_reducible apply foldl_inv
    | with_reducible apply foldl_fst_inv
    | with_reducible apply ite_inv
    | with_reducible apply ite_fst_inv
    | split

theorem ltFrame_inv (m : Mod) (n : Fin 8) (hm : m.Inv) :
    (@ltFrame m n).Inv := by
  delta ltFrame
  repeat' first
    | with_reducible assumption
    | (with_reducible refine Mod.Inv.of_eq (by with_reducible assumption) ?_)
    | intro _
    | with_reducible apply Mod.Inv.kept
    | (simp -zeta only [Mod.inv_mk]; try dsimp only)
    | (extract_lets +onlyGivenNames mm; refine (fun hmm : Mod.Inv mm => ?_) ?_; clear_value mm; revert mm; intro _ _; rotate_left; dsimp -zeta +instances only [mm]; clear mm)
    | (extract_lets +onlyGivenNames mm; refine (fun hmm : Mod.Inv mm.1 => ?_) ?_; clear_value mm; revert mm; intro _ _; rotate_left; dsimp -zeta +instances only [mm]; clear mm)
    | (extract_lets +onlyGivenNames mm; dsimp -zeta +instances only [mm]; clear mm)
    | (extract_lets +onlyGivenNames mm; clear mm)
    | with_reducible apply Mod.ltMap_inv
    | with_reducible apply foldl_inv
    | with_reducible apply foldl_fst_inv
    | with_reducible apply ite_inv
    | with_reducible apply ite_fst_inv
    | split


end Sys2Proof.Machine
end

