-- ==== Sys2Proof/Laws/KeepsCalendar.lean ====
section
/-! SUPPORT. What the operations of Machine/Calendar.lean keep: the module's canonical forms and its calendar (Safety.lean). -/

set_option linter.unusedTactic false
set_option linter.unreachableTactic false
set_option linter.tactic.unusedName false
set_option linter.unusedSimpArgs false
set_option linter.unusedVariables false

namespace Sys2Proof.Machine

theorem Mod.alarms_inv (m : Mod) (c : Cal) (wday : Nat) (hm : m.Inv) :
    (@Mod.alarms m c wday).Inv := by
  delta Mod.alarms
  repeat' first
    | with_reducible assumption
    | (with_reducible refine Mod.Inv.of_eq (by with_reducible assumption) ?_)
    | intro _
    | with_reducible apply Mod.Inv.kept
    | (simp -zeta only [Mod.inv_mk]; try dsimp only)
    | (extract_lets +onlyGivenNames mm; refine (fun hmm : Mod.Inv mm => ?_) ?_; clear_value mm; revert mm; intro _ _; rotate_left; dsimp -zeta +instances only [mm]; clear mm)
    | (extract_lets +onlyGivenNames mm; refine (fun hmm : Mod.Inv mm.1 => ?_) ?_; clear_value mm; revert mm; intro _ _; rotate_left; dsimp -zeta +instances only [mm]; clear mm)
    | (extract_lets +onlyGivenNames mm; dsimp -zeta +instances only [mm]; clear mm)
    | (extract_lets +onlyGivenNames mm; clear mm)
    | with_reducible apply Mod.set_inv
    | with_reducible apply foldl_inv
    | with_reducible apply foldl_fst_inv
    | with_reducible apply ite_inv
    | with_reducible apply ite_fst_inv
    | split

theorem Mod.rtcTick_inv (m : Mod) (hm : m.Inv) : (@Mod.rtcTick m).Inv := by
  delta Mod.rtcTick
  extract_lets c w n m'
  have h' : m'.Inv := Mod.when_inv hm (fun m h => Mod.set_inv _ _ (Mod.set_inv _ _ h))
  have hw : w = weekday n := by
    show (if m.rtc.cal.last = true then 6 else if m.rtc.cal.midnight = true then (if m.rtc.wday < 7 then m.rtc.wday + 1 else 1) else m.rtc.wday)
      = weekday m.rtc.cal.next
    rw [weekday_next hm.date, hm.day]
  exact Mod.alarms_inv _ _ _ ⟨h'.regs, h'.cells, h'.bufs, Cal.next_ok hm.date, hw, h'.wait⟩
theorem Mod.rtcLoad_inv (m : Mod) (c : Cal) (hm : m.Inv) (hc : c.ok = true) : (@Mod.rtcLoad m c).Inv :=
  Mod.set_inv _ _ (Mod.set_inv _ _ ⟨hm.regs, hm.cells, hm.bufs, hc, rfl, rfl⟩)
theorem Mod.rtcCommit_inv (m : Mod) (hm : m.Inv) : (@Mod.rtcCommit m).Inv := by
  delta Mod.rtcCommit
  dsimp only
  split
  · exact Mod.set_inv _ _ hm
  · rename_i hc
    have hc' : m.staged.ok = true := by simpa using hc
    split
    · exact Mod.rtcLoad_inv _ _ hm hc'
    · exact ⟨hm.regs, hm.cells, hm.bufs, hm.date, hm.day, by simpa using hc'⟩
theorem Mod.rtcCount_inv (m : Mod) (hm : m.Inv) : (@Mod.rtcCount m).Inv := by
  unfold Mod.rtcCount
  split
  · exact hm
  · exact hm
theorem Mod.stage_inv (m : Mod) (c : Cal) (hm : m.Inv) :
    (@Mod.stage m c).Inv := by
  delta Mod.stage
  repeat' first
    | with_reducible assumption
    | (with_reducible refine Mod.Inv.of_eq (by with_reducible assumption) ?_)
    | intro _
    | with_reducible apply Mod.Inv.kept
    | (simp -zeta only [Mod.inv_mk]; try dsimp only)
    | (extract_lets +onlyGivenNames mm; refine (fun hmm : Mod.Inv mm => ?_) ?_; clear_value mm; revert mm; intro _ _; rotate_left; dsimp -zeta +instances only [mm]; clear mm)
    | (extract_lets +onlyGivenNames mm; refine (fun hmm : Mod.Inv mm.1 => ?_) ?_; clear_value mm; revert mm; intro _ _; rotate_left; dsimp -zeta +instances only [mm]; clear mm)
    | (extract_lets +onlyGivenNames mm; dsimp -zeta +instances only [mm]; clear mm)
    | (extract_lets +onlyGivenNames mm; clear mm)
    | with_reducible apply Mod.set_inv
    | with_reducible apply foldl_inv
    | with_reducible apply foldl_fst_inv
    | with_reducible apply ite_inv
    | with_reducible apply ite_fst_inv
    | split

theorem Mod.rtcFreeze_inv (m : Mod) (hm : m.Inv) :
    (@Mod.rtcFreeze m).Inv := by
  delta Mod.rtcFreeze
  repeat' first
    | with_reducible assumption
    | (with_reducible refine Mod.Inv.of_eq (by with_reducible assumption) ?_)
    | intro _
    | with_reducible apply Mod.Inv.kept
    | (simp -zeta only [Mod.inv_mk]; try dsimp only)
    | (extract_lets +onlyGivenNames mm; refine (fun hmm : Mod.Inv mm => ?_) ?_; clear_value mm; revert mm; intro _ _; rotate_left; dsimp -zeta +instances only [mm]; clear mm)
    | (extract_lets +onlyGivenNames mm; refine (fun hmm : Mod.Inv mm.1 => ?_) ?_; clear_value mm; revert mm; intro _ _; rotate_left; dsimp -zeta +instances only [mm]; clear mm)
    | (extract_lets +onlyGivenNames mm; dsimp -zeta +instances only [mm]; clear mm)
    | (extract_lets +onlyGivenNames mm; clear mm)
    | with_reducible apply Mod.rtcCount_inv
    | with_reducible apply Mod.when_inv
    | with_reducible apply Mod.set_inv
    | with_reducible apply foldl_inv
    | with_reducible apply foldl_fst_inv
    | with_reducible apply ite_inv
    | with_reducible apply ite_fst_inv
    | split

theorem Mod.rtcRead_inv (m : Mod) (a : Nat) (hm : m.Inv) :
    (@Mod.rtcRead m a).1.Inv := by
  delta Mod.rtcRead
  repeat' first
    | with_reducible assumption
    | (with_reducible refine Mod.Inv.of_eq (by with_reducible assumption) ?_)
    | intro _
    | with_reducible apply Mod.Inv.kept
    | (simp -zeta only [Mod.inv_mk]; try dsimp only)
    | (extract_lets +onlyGivenNames mm; refine (fun hmm : Mod.Inv mm => ?_) ?_; clear_value mm; revert mm; intro _ _; rotate_left; dsimp -zeta +instances only [mm]; clear mm)
    | (extract_lets +onlyGivenNames mm; refine (fun hmm : Mod.Inv mm.1 => ?_) ?_; clear_value mm; revert mm; intro _ _; rotate_left; dsimp -zeta +instances only [mm]; clear mm)
    | (extract_lets +onlyGivenNames mm; dsimp -zeta +instances only [mm]; clear mm)
    | (extract_lets +onlyGivenNames mm; clear mm)
    | with_reducible apply Mod.rtcFreeze_inv
    | with_reducible apply Mod.set_inv
    | with_reducible apply foldl_inv
    | with_reducible apply foldl_fst_inv
    | with_reducible apply ite_inv
    | with_reducible apply ite_fst_inv
    | split

theorem Mod.rtcSync_inv (m : Mod) (hm : m.Inv) :
    (@Mod.rtcSync m).Inv := by
  delta Mod.rtcSync
  repeat' first
    | with_reducible assumption
    | (with_reducible refine Mod.Inv.of_eq (by with_reducible assumption) ?_)
    | intro _
    | with_reducible apply Mod.Inv.kept
    | (simp -zeta only [Mod.inv_mk]; try dsimp only)
    | (extract_lets +onlyGivenNames mm; refine (fun hmm : Mod.Inv mm => ?_) ?_; clear_value mm; revert mm; intro _ _; rotate_left; dsimp -zeta +instances only [mm]; clear mm)
    | (extract_lets +onlyGivenNames mm; refine (fun hmm : Mod.Inv mm.1 => ?_) ?_; clear_value mm; revert mm; intro _ _; rotate_left; dsimp -zeta +instances only [mm]; clear mm)
    | (extract_lets +onlyGivenNames mm; dsimp -zeta +instances only [mm]; clear mm)
    | (extract_lets +onlyGivenNames mm; clear mm)
    | with_reducible apply Mod.stage_inv
    | with_reducible apply Mod.rtcCount_inv
    | with_reducible apply Mod.rtcCommit_inv
    | with_reducible apply Mod.addSat_inv
    | with_reducible apply Mod.set_inv
    | with_reducible apply foldl_inv
    | with_reducible apply foldl_fst_inv
    | with_reducible apply ite_inv
    | with_reducible apply ite_fst_inv
    | split

theorem Mod.rtcLost_inv (m : Mod) (hm : m.Inv) : (@Mod.rtcLost m).Inv := by
  have h := Mod.pdRegs_inv m 0 hm
  exact ⟨h.regs, h.cells, h.bufs, rfl, show 6 = weekday {} by decide +kernel, rfl⟩

end Sys2Proof.Machine
end

