-- ==== Sys2Proof/Laws/KeepsOpRegister.lean ====
section
/-! SUPPORT. What the operations of Machine/OpRegister.lean keep: the module's canonical forms and its calendar (Safety.lean). -/

set_option linter.unusedTactic false
set_option linter.unreachableTactic false
set_option linter.tactic.unusedName false
set_option linter.unusedSimpArgs false
set_option linter.unusedVariables false

namespace Sys2Proof.Machine

theorem Mod.writeRegs_inv (m : Mod) (k : Nat) (tag : Nat × Nat) (ws : List (Nat × Word)) (hm : m.Inv) :
    (@Mod.writeRegs m k tag ws).1.Inv := by
  induction ws generalizing m with
  | nil => exact hm
  | cons w t ih =>
    obtain ⟨a, v⟩ := w
    refine ih _ ?_
    have h := Mod.writeReg_inv m k (some tag) a v hm
    split
    · exact Mod.readKeep_inv _ _ _ h
    · exact h
theorem Mod.cbwRead_inv (m : Mod) (w i : Nat) (hm : m.Inv) :
    (@Mod.cbwRead m w i).1.Inv := by
  delta Mod.cbwRead
  repeat' first
    | with_reducible assumption
    | (with_reducible refine Mod.Inv.of_eq (by with_reducible assumption) ?_)
    | intro _
    | with_reducible apply Mod.Inv.kept
    | (simp -zeta only [Mod.inv_mk]; try dsimp only)
    | (extract_lets +onlyGivenNames mm; refine (fun hmm : Mod.Inv mm => ?_) ?_; clear_value mm; revert mm; intro _ _; rotate_left; dsimp -zeta +instances only [mm]; clear mm)
    | (extract_lets +onlyGivenNames mm; refine (fun hmm : Mod.Inv mm.1 => ?_) ?_; clear_value mm; revert mm; intro _ _; rotate_left; dsimp -zeta +instances only [mm]; clear mm)
    | (extract_lets +onlyGivenNames mm; dsimp -zeta +instances only [mm]; clear mm)
    | (extract_lets +onlyGivenNames mm; clear mm)
    | with_reducible apply Mod.take_inv
    | with_reducible apply Mod.drawnN_inv
    | with_reducible apply Mod.loadEffect_inv
    | with_reducible apply foldl_inv
    | with_reducible apply foldl_fst_inv
    | with_reducible apply ite_inv
    | with_reducible apply ite_fst_inv
    | split

theorem Mod.cbwReads_inv (m : Mod) (w : Nat) (is : List Nat) (hm : m.Inv) : (@Mod.cbwReads m w is).1.Inv := by
  induction is generalizing m with
  | nil => exact hm
  | cons i t ih => exact ih _ (Mod.cbwRead_inv m w i hm)
theorem Mod.cbwTail_inv (m : Mod) (w have_ off n : Nat) (hm : m.Inv) :
    (@Mod.cbwTail m w have_ off n).1.Inv := by
  delta Mod.cbwTail
  repeat' first
    | with_reducible assumption
    | (with_reducible refine Mod.Inv.of_eq (by with_reducible assumption) ?_)
    | intro _
    | with_reducible apply Mod.Inv.kept
    | (simp -zeta only [Mod.inv_mk]; try dsimp only)
    | (extract_lets +onlyGivenNames mm; refine (fun hmm : Mod.Inv mm => ?_) ?_; clear_value mm; revert mm; intro _ _; rotate_left; dsimp -zeta +instances only [mm]; clear mm)
    | (extract_lets +onlyGivenNames mm; refine (fun hmm : Mod.Inv mm.1 => ?_) ?_; clear_value mm; revert mm; intro _ _; rotate_left; dsimp -zeta +instances only [mm]; clear mm)
    | (extract_lets +onlyGivenNames mm; dsimp -zeta +instances only [mm]; clear mm)
    | (extract_lets +onlyGivenNames mm; clear mm)
    | with_reducible apply Mod.cbwReads_inv
    | with_reducible apply Mod.ptBlocked_inv
    | with_reducible apply foldl_inv
    | with_reducible apply foldl_fst_inv
    | with_reducible apply ite_inv
    | with_reducible apply ite_fst_inv
    | split


end Sys2Proof.Machine
end

