-- ==== Sys2Proof/Laws/State.lean ====
section
/-! SUPPORT. What each elementary update of the module leaves: one lemma per field, true by definition. -/

set_option linter.unusedVariables false

namespace Sys2Proof.Machine

@[simp] theorem Mod.set_fx (m : Mod) (f : Fld) (v : Nat) : (m.set f v).fx = m.fx := rfl
@[simp] theorem Mod.set_freeCtr (m : Mod) (f : Fld) (v : Nat) : (m.set f v).freeCtr = m.freeCtr := rfl
@[simp] theorem Mod.set_clk (m : Mod) (f : Fld) (v : Nat) : (m.set f v).clk = m.clk := rfl
@[simp] theorem Mod.set_fired (m : Mod) (f : Fld) (v : Nat) : (m.set f v).fired = m.fired := rfl
@[simp] theorem Mod.set_mem (m : Mod) (f : Fld) (v : Nat) : (m.set f v).mem = m.mem := rfl
@[simp] theorem Mod.set_plan (m : Mod) (f : Fld) (v : Nat) : (m.set f v).plan = m.plan := rfl
@[simp] theorem Mod.set_lanes (m : Mod) (f : Fld) (v : Nat) : (m.set f v).lanes = m.lanes := rfl
@[simp] theorem Mod.set_exec (m : Mod) (f : Fld) (v : Nat) : (m.set f v).exec = m.exec := rfl
@[simp] theorem Mod.set_outs (m : Mod) (f : Fld) (v : Nat) : (m.set f v).outs = m.outs := rfl
@[simp] theorem Mod.set_bit (m : Mod) (f : Fld) (v : Nat) : (m.set f v).bit = m.bit := rfl
@[simp] theorem Mod.set_retain (m : Mod) (f : Fld) (v : Nat) : (m.set f v).retain = m.retain := rfl
@[simp] theorem Mod.set_logs (m : Mod) (f : Fld) (v : Nat) : (m.set f v).logs = m.logs := rfl
@[simp] theorem Mod.set_sw (m : Mod) (f : Fld) (v : Nat) : (m.set f v).sw = m.sw := rfl
@[simp] theorem Mod.set_nvm (m : Mod) (f : Fld) (v : Nat) : (m.set f v).nvm = m.nvm := rfl
@[simp] theorem Mod.set_jack (m : Mod) (f : Fld) (v : Nat) : (m.set f v).jack = m.jack := rfl
@[simp] theorem Mod.set_fio (m : Mod) (f : Fld) (v : Nat) : (m.set f v).fio = m.fio := rfl
@[simp] theorem Mod.set_safe (m : Mod) (f : Fld) (v : Nat) : (m.set f v).safe = m.safe := rfl
@[simp] theorem Mod.set_loops (m : Mod) (f : Fld) (v : Nat) : (m.set f v).loops = m.loops := rfl
@[simp] theorem Mod.set_tests (m : Mod) (f : Fld) (v : Nat) : (m.set f v).tests = m.tests := rfl
@[simp] theorem Mod.set_met (m : Mod) (f : Fld) (v : Nat) : (m.set f v).met = m.met := rfl
@[simp] theorem Mod.set_ports (m : Mod) (f : Fld) (v : Nat) : (m.set f v).ports = m.ports := rfl
@[simp] theorem Mod.set_twin (m : Mod) (f : Fld) (v : Nat) : (m.set f v).twin = m.twin := rfl
@[simp] theorem Mod.set_orpor (m : Mod) (f : Fld) (v : Nat) : (m.set f v).orpor = m.orpor := rfl
@[simp] theorem Mod.set_upl (m : Mod) (f : Fld) (v : Nat) : (m.set f v).upl = m.upl := rfl
@[simp] theorem Mod.set_pool (m : Mod) (f : Fld) (v : Nat) : (m.set f v).pool = m.pool := rfl
@[simp] theorem Mod.set_rtc (m : Mod) (f : Fld) (v : Nat) : (m.set f v).rtc = m.rtc := rfl
@[simp] theorem Mod.set_key (m : Mod) (f : Fld) (v : Nat) : (m.set f v).key = m.key := rfl
@[simp] theorem Mod.set_pwr (m : Mod) (f : Fld) (v : Nat) : (m.set f v).pwr = m.pwr := rfl
@[simp] theorem Mod.setB_fx (m : Mod) (f : Fld) (b : Bool) : (m.setB f b).fx = m.fx := rfl
@[simp] theorem Mod.setB_freeCtr (m : Mod) (f : Fld) (b : Bool) : (m.setB f b).freeCtr = m.freeCtr := rfl
@[simp] theorem Mod.setB_clk (m : Mod) (f : Fld) (b : Bool) : (m.setB f b).clk = m.clk := rfl
@[simp] theorem Mod.setB_fired (m : Mod) (f : Fld) (b : Bool) : (m.setB f b).fired = m.fired := rfl
@[simp] theorem Mod.setB_mem (m : Mod) (f : Fld) (b : Bool) : (m.setB f b).mem = m.mem := rfl
@[simp] theorem Mod.setB_plan (m : Mod) (f : Fld) (b : Bool) : (m.setB f b).plan = m.plan := rfl
@[simp] theorem Mod.setB_lanes (m : Mod) (f : Fld) (b : Bool) : (m.setB f b).lanes = m.lanes := rfl
@[simp] theorem Mod.setB_exec (m : Mod) (f : Fld) (b : Bool) : (m.setB f b).exec = m.exec := rfl
@[simp] theorem Mod.setB_outs (m : Mod) (f : Fld) (b : Bool) : (m.setB f b).outs = m.outs := rfl
@[simp] theorem Mod.setB_bit (m : Mod) (f : Fld) (b : Bool) : (m.setB f b).bit = m.bit := rfl
@[simp] theorem Mod.setB_retain (m : Mod) (f : Fld) (b : Bool) : (m.setB f b).retain = m.retain := rfl
@[simp] theorem Mod.setB_logs (m : Mod) (f : Fld) (b : Bool) : (m.setB f b).logs = m.logs := rfl
@[simp] theorem Mod.setB_sw (m : Mod) (f : Fld) (b : Bool) : (m.setB f b).sw = m.sw := rfl
@[simp] theorem Mod.setB_nvm (m : Mod) (f : Fld) (b : Bool) : (m.setB f b).nvm = m.nvm := rfl
@[simp] theorem Mod.setB_jack (m : Mod) (f : Fld) (b : Bool) : (m.setB f b).jack = m.jack := rfl
@[simp] theorem Mod.setB_fio (m : Mod) (f : Fld) (b : Bool) : (m.setB f b).fio = m.fio := rfl
@[simp] theorem Mod.setB_safe (m : Mod) (f : Fld) (b : Bool) : (m.setB f b).safe = m.safe := rfl
@[simp] theorem Mod.setB_loops (m : Mod) (f : Fld) (b : Bool) : (m.setB f b).loops = m.loops := rfl
@[simp] theorem Mod.setB_tests (m : Mod) (f : Fld) (b : Bool) : (m.setB f b).tests = m.tests := rfl
@[simp] theorem Mod.setB_met (m : Mod) (f : Fld) (b : Bool) : (m.setB f b).met = m.met := rfl
@[simp] theorem Mod.setB_ports (m : Mod) (f : Fld) (b : Bool) : (m.setB f b).ports = m.ports := rfl
@[simp] theorem Mod.setB_twin (m : Mod) (f : Fld) (b : Bool) : (m.setB f b).twin = m.twin := rfl
@[simp] theorem Mod.setB_orpor (m : Mod) (f : Fld) (b : Bool) : (m.setB f b).orpor = m.orpor := rfl
@[simp] theorem Mod.setB_upl (m : Mod) (f : Fld) (b : Bool) : (m.setB f b).upl = m.upl := rfl
@[simp] theorem Mod.setB_pool (m : Mod) (f : Fld) (b : Bool) : (m.setB f b).pool = m.pool := rfl
@[simp] theorem Mod.setB_rtc (m : Mod) (f : Fld) (b : Bool) : (m.setB f b).rtc = m.rtc := rfl
@[simp] theorem Mod.setB_key (m : Mod) (f : Fld) (b : Bool) : (m.setB f b).key = m.key := rfl
@[simp] theorem Mod.setB_pwr (m : Mod) (f : Fld) (b : Bool) : (m.setB f b).pwr = m.pwr := rfl
@[simp] theorem Mod.addSat_fx (m : Mod) (f : Fld) (k : Nat) : (m.addSat f k).fx = m.fx := rfl
@[simp] theorem Mod.addSat_freeCtr (m : Mod) (f : Fld) (k : Nat) : (m.addSat f k).freeCtr = m.freeCtr := rfl
@[simp] theorem Mod.addSat_clk (m : Mod) (f : Fld) (k : Nat) : (m.addSat f k).clk = m.clk := rfl
@[simp] theorem Mod.addSat_fired (m : Mod) (f : Fld) (k : Nat) : (m.addSat f k).fired = m.fired := rfl
@[simp] theorem Mod.addSat_mem (m : Mod) (f : Fld) (k : Nat) : (m.addSat f k).mem = m.mem := rfl
@[simp] theorem Mod.addSat_plan (m : Mod) (f : Fld) (k : Nat) : (m.addSat f k).plan = m.plan := rfl
@[simp] theorem Mod.addSat_lanes (m : Mod) (f : Fld) (k : Nat) : (m.addSat f k).lanes = m.lanes := rfl
@[simp] theorem Mod.addSat_exec (m : Mod) (f : Fld) (k : Nat) : (m.addSat f k).exec = m.exec := rfl
@[simp] theorem Mod.addSat_outs (m : Mod) (f : Fld) (k : Nat) : (m.addSat f k).outs = m.outs := rfl
@[simp] theorem Mod.addSat_bit (m : Mod) (f : Fld) (k : Nat) : (m.addSat f k).bit = m.bit := rfl
@[simp] theorem Mod.addSat_retain (m : Mod) (f : Fld) (k : Nat) : (m.addSat f k).retain = m.retain := rfl
@[simp] theorem Mod.addSat_logs (m : Mod) (f : Fld) (k : Nat) : (m.addSat f k).logs = m.logs := rfl
@[simp] theorem Mod.addSat_sw (m : Mod) (f : Fld) (k : Nat) : (m.addSat f k).sw = m.sw := rfl
@[simp] theorem Mod.addSat_nvm (m : Mod) (f : Fld) (k : Nat) : (m.addSat f k).nvm = m.nvm := rfl
@[simp] theorem Mod.addSat_jack (m : Mod) (f : Fld) (k : Nat) : (m.addSat f k).jack = m.jack := rfl
@[simp] theorem Mod.addSat_fio (m : Mod) (f : Fld) (k : Nat) : (m.addSat f k).fio = m.fio := rfl
@[simp] theorem Mod.addSat_safe (m : Mod) (f : Fld) (k : Nat) : (m.addSat f k).safe = m.safe := rfl
@[simp] theorem Mod.addSat_loops (m : Mod) (f : Fld) (k : Nat) : (m.addSat f k).loops = m.loops := rfl
@[simp] theorem Mod.addSat_tests (m : Mod) (f : Fld) (k : Nat) : (m.addSat f k).tests = m.tests := rfl
@[simp] theorem Mod.addSat_met (m : Mod) (f : Fld) (k : Nat) : (m.addSat f k).met = m.met := rfl
@[simp] theorem Mod.addSat_ports (m : Mod) (f : Fld) (k : Nat) : (m.addSat f k).ports = m.ports := rfl
@[simp] theorem Mod.addSat_twin (m : Mod) (f : Fld) (k : Nat) : (m.addSat f k).twin = m.twin := rfl
@[simp] theorem Mod.addSat_orpor (m : Mod) (f : Fld) (k : Nat) : (m.addSat f k).orpor = m.orpor := rfl
@[simp] theorem Mod.addSat_upl (m : Mod) (f : Fld) (k : Nat) : (m.addSat f k).upl = m.upl := rfl
@[simp] theorem Mod.addSat_pool (m : Mod) (f : Fld) (k : Nat) : (m.addSat f k).pool = m.pool := rfl
@[simp] theorem Mod.addSat_rtc (m : Mod) (f : Fld) (k : Nat) : (m.addSat f k).rtc = m.rtc := rfl
@[simp] theorem Mod.addSat_key (m : Mod) (f : Fld) (k : Nat) : (m.addSat f k).key = m.key := rfl
@[simp] theorem Mod.addSat_pwr (m : Mod) (f : Fld) (k : Nat) : (m.addSat f k).pwr = m.pwr := rfl
@[simp] theorem Mod.addWrap_fx (m : Mod) (f : Fld) (k : Nat) : (m.addWrap f k).fx = m.fx := rfl
@[simp] theorem Mod.addWrap_freeCtr (m : Mod) (f : Fld) (k : Nat) : (m.addWrap f k).freeCtr = m.freeCtr := rfl
@[simp] theorem Mod.addWrap_clk (m : Mod) (f : Fld) (k : Nat) : (m.addWrap f k).clk = m.clk := rfl
@[simp] theorem Mod.addWrap_fired (m : Mod) (f : Fld) (k : Nat) : (m.addWrap f k).fired = m.fired := rfl
@[simp] theorem Mod.addWrap_mem (m : Mod) (f : Fld) (k : Nat) : (m.addWrap f k).mem = m.mem := rfl
@[simp] theorem Mod.addWrap_plan (m : Mod) (f : Fld) (k : Nat) : (m.addWrap f k).plan = m.plan := rfl
@[simp] theorem Mod.addWrap_lanes (m : Mod) (f : Fld) (k : Nat) : (m.addWrap f k).lanes = m.lanes := rfl
@[simp] theorem Mod.addWrap_exec (m : Mod) (f : Fld) (k : Nat) : (m.addWrap f k).exec = m.exec := rfl
@[simp] theorem Mod.addWrap_outs (m : Mod) (f : Fld) (k : Nat) : (m.addWrap f k).outs = m.outs := rfl
@[simp] theorem Mod.addWrap_bit (m : Mod) (f : Fld) (k : Nat) : (m.addWrap f k).bit = m.bit := rfl
@[simp] theorem Mod.addWrap_retain (m : Mod) (f : Fld) (k : Nat) : (m.addWrap f k).retain = m.retain := rfl
@[simp] theorem Mod.addWrap_logs (m : Mod) (f : Fld) (k : Nat) : (m.addWrap f k).logs = m.logs := rfl
@[simp] theorem Mod.addWrap_sw (m : Mod) (f : Fld) (k : Nat) : (m.addWrap f k).sw = m.sw := rfl
@[simp] theorem Mod.addWrap_nvm (m : Mod) (f : Fld) (k : Nat) : (m.addWrap f k).nvm = m.nvm := rfl
@[simp] theorem Mod.addWrap_jack (m : Mod) (f : Fld) (k : Nat) : (m.addWrap f k).jack = m.jack := rfl
@[simp] theorem Mod.addWrap_fio (m : Mod) (f : Fld) (k : Nat) : (m.addWrap f k).fio = m.fio := rfl
@[simp] theorem Mod.addWrap_safe (m : Mod) (f : Fld) (k : Nat) : (m.addWrap f k).safe = m.safe := rfl
@[simp] theorem Mod.addWrap_loops (m : Mod) (f : Fld) (k : Nat) : (m.addWrap f k).loops = m.loops := rfl
@[simp] theorem Mod.addWrap_tests (m : Mod) (f : Fld) (k : Nat) : (m.addWrap f k).tests = m.tests := rfl
@[simp] theorem Mod.addWrap_met (m : Mod) (f : Fld) (k : Nat) : (m.addWrap f k).met = m.met := rfl
@[simp] theorem Mod.addWrap_ports (m : Mod) (f : Fld) (k : Nat) : (m.addWrap f k).ports = m.ports := rfl
@[simp] theorem Mod.addWrap_twin (m : Mod) (f : Fld) (k : Nat) : (m.addWrap f k).twin = m.twin := rfl
@[simp] theorem Mod.addWrap_orpor (m : Mod) (f : Fld) (k : Nat) : (m.addWrap f k).orpor = m.orpor := rfl
@[simp] theorem Mod.addWrap_upl (m : Mod) (f : Fld) (k : Nat) : (m.addWrap f k).upl = m.upl := rfl
@[simp] theorem Mod.addWrap_pool (m : Mod) (f : Fld) (k : Nat) : (m.addWrap f k).pool = m.pool := rfl
@[simp] theorem Mod.addWrap_rtc (m : Mod) (f : Fld) (k : Nat) : (m.addWrap f k).rtc = m.rtc := rfl
@[simp] theorem Mod.addWrap_key (m : Mod) (f : Fld) (k : Nat) : (m.addWrap f k).key = m.key := rfl
@[simp] theorem Mod.addWrap_pwr (m : Mod) (f : Fld) (k : Nat) : (m.addWrap f k).pwr = m.pwr := rfl
@[simp] theorem Mod.setWord_fx (m : Mod) (a : Nat) (w : Word) : (m.setWord a w).fx = m.fx := rfl
@[simp] theorem Mod.setWord_freeCtr (m : Mod) (a : Nat) (w : Word) : (m.setWord a w).freeCtr = m.freeCtr := rfl
@[simp] theorem Mod.setWord_clk (m : Mod) (a : Nat) (w : Word) : (m.setWord a w).clk = m.clk := rfl
@[simp] theorem Mod.setWord_fired (m : Mod) (a : Nat) (w : Word) : (m.setWord a w).fired = m.fired := rfl
@[simp] theorem Mod.setWord_mem (m : Mod) (a : Nat) (w : Word) : (m.setWord a w).mem = m.mem := rfl
@[simp] theorem Mod.setWord_plan (m : Mod) (a : Nat) (w : Word) : (m.setWord a w).plan = m.plan := rfl
@[simp] theorem Mod.setWord_lanes (m : Mod) (a : Nat) (w : Word) : (m.setWord a w).lanes = m.lanes := rfl
@[simp] theorem Mod.setWord_exec (m : Mod) (a : Nat) (w : Word) : (m.setWord a w).exec = m.exec := rfl
@[simp] theorem Mod.setWord_outs (m : Mod) (a : Nat) (w : Word) : (m.setWord a w).outs = m.outs := rfl
@[simp] theorem Mod.setWord_bit (m : Mod) (a : Nat) (w : Word) : (m.setWord a w).bit = m.bit := rfl
@[simp] theorem Mod.setWord_retain (m : Mod) (a : Nat) (w : Word) : (m.setWord a w).retain = m.retain := rfl
@[simp] theorem Mod.setWord_logs (m : Mod) (a : Nat) (w : Word) : (m.setWord a w).logs = m.logs := rfl
@[simp] theorem Mod.setWord_sw (m : Mod) (a : Nat) (w : Word) : (m.setWord a w).sw = m.sw := rfl
@[simp] theorem Mod.setWord_nvm (m : Mod) (a : Nat) (w : Word) : (m.setWord a w).nvm = m.nvm := rfl
@[simp] theorem Mod.setWord_jack (m : Mod) (a : Nat) (w : Word) : (m.setWord a w).jack = m.jack := rfl
@[simp] theorem Mod.setWord_fio (m : Mod) (a : Nat) (w : Word) : (m.setWord a w).fio = m.fio := rfl
@[simp] theorem Mod.setWord_safe (m : Mod) (a : Nat) (w : Word) : (m.setWord a w).safe = m.safe := rfl
@[simp] theorem Mod.setWord_loops (m : Mod) (a : Nat) (w : Word) : (m.setWord a w).loops = m.loops := rfl
@[simp] theorem Mod.setWord_tests (m : Mod) (a : Nat) (w : Word) : (m.setWord a w).tests = m.tests := rfl
@[simp] theorem Mod.setWord_met (m : Mod) (a : Nat) (w : Word) : (m.setWord a w).met = m.met := rfl
@[simp] theorem Mod.setWord_ports (m : Mod) (a : Nat) (w : Word) : (m.setWord a w).ports = m.ports := rfl
@[simp] theorem Mod.setWord_twin (m : Mod) (a : Nat) (w : Word) : (m.setWord a w).twin = m.twin := rfl
@[simp] theorem Mod.setWord_orpor (m : Mod) (a : Nat) (w : Word) : (m.setWord a w).orpor = m.orpor := rfl
@[simp] theorem Mod.setWord_upl (m : Mod) (a : Nat) (w : Word) : (m.setWord a w).upl = m.upl := rfl
@[simp] theorem Mod.setWord_pool (m : Mod) (a : Nat) (w : Word) : (m.setWord a w).pool = m.pool := rfl
@[simp] theorem Mod.setWord_rtc (m : Mod) (a : Nat) (w : Word) : (m.setWord a w).rtc = m.rtc := rfl
@[simp] theorem Mod.setWord_key (m : Mod) (a : Nat) (w : Word) : (m.setWord a w).key = m.key := rfl
@[simp] theorem Mod.setWord_pwr (m : Mod) (a : Nat) (w : Word) : (m.setWord a w).pwr = m.pwr := rfl
@[simp] theorem Mod.drawn_fx (m : Mod) : (m.drawn).fx = m.fx := rfl
@[simp] theorem Mod.drawn_regs (m : Mod) : (m.drawn).regs = m.regs := rfl
@[simp] theorem Mod.drawn_clk (m : Mod) : (m.drawn).clk = m.clk := rfl
@[simp] theorem Mod.drawn_fired (m : Mod) : (m.drawn).fired = m.fired := rfl
@[simp] theorem Mod.drawn_mem (m : Mod) : (m.drawn).mem = m.mem := rfl
@[simp] theorem Mod.drawn_plan (m : Mod) : (m.drawn).plan = m.plan := rfl
@[simp] theorem Mod.drawn_lanes (m : Mod) : (m.drawn).lanes = m.lanes := rfl
@[simp] theorem Mod.drawn_exec (m : Mod) : (m.drawn).exec = m.exec := rfl
@[simp] theorem Mod.drawn_outs (m : Mod) : (m.drawn).outs = m.outs := rfl
@[simp] theorem Mod.drawn_bit (m : Mod) : (m.drawn).bit = m.bit := rfl
@[simp] theorem Mod.drawn_retain (m : Mod) : (m.drawn).retain = m.retain := rfl
@[simp] theorem Mod.drawn_logs (m : Mod) : (m.drawn).logs = m.logs := rfl
@[simp] theorem Mod.drawn_sw (m : Mod) : (m.drawn).sw = m.sw := rfl
@[simp] theorem Mod.drawn_nvm (m : Mod) : (m.drawn).nvm = m.nvm := rfl
@[simp] theorem Mod.drawn_jack (m : Mod) : (m.drawn).jack = m.jack := rfl
@[simp] theorem Mod.drawn_fio (m : Mod) : (m.drawn).fio = m.fio := rfl
@[simp] theorem Mod.drawn_safe (m : Mod) : (m.drawn).safe = m.safe := rfl
@[simp] theorem Mod.drawn_loops (m : Mod) : (m.drawn).loops = m.loops := rfl
@[simp] theorem Mod.drawn_tests (m : Mod) : (m.drawn).tests = m.tests := rfl
@[simp] theorem Mod.drawn_met (m : Mod) : (m.drawn).met = m.met := rfl
@[simp] theorem Mod.drawn_ports (m : Mod) : (m.drawn).ports = m.ports := rfl
@[simp] theorem Mod.drawn_twin (m : Mod) : (m.drawn).twin = m.twin := rfl
@[simp] theorem Mod.drawn_orpor (m : Mod) : (m.drawn).orpor = m.orpor := rfl
@[simp] theorem Mod.drawn_upl (m : Mod) : (m.drawn).upl = m.upl := rfl
@[simp] theorem Mod.drawn_pool (m : Mod) : (m.drawn).pool = m.pool := rfl
@[simp] theorem Mod.drawn_rtc (m : Mod) : (m.drawn).rtc = m.rtc := rfl
@[simp] theorem Mod.drawn_key (m : Mod) : (m.drawn).key = m.key := rfl
@[simp] theorem Mod.drawn_pwr (m : Mod) : (m.drawn).pwr = m.pwr := rfl
@[simp] theorem Mod.ctrAdd_fx (m : Mod) (i : Fin 24) (k : Nat) : (m.ctrAdd i k).fx = m.fx := rfl
@[simp] theorem Mod.ctrAdd_regs (m : Mod) (i : Fin 24) (k : Nat) : (m.ctrAdd i k).regs = m.regs := rfl
@[simp] theorem Mod.ctrAdd_freeCtr (m : Mod) (i : Fin 24) (k : Nat) : (m.ctrAdd i k).freeCtr = m.freeCtr := rfl
@[simp] theorem Mod.ctrAdd_clk (m : Mod) (i : Fin 24) (k : Nat) : (m.ctrAdd i k).clk = m.clk := rfl
@[simp] theorem Mod.ctrAdd_fired (m : Mod) (i : Fin 24) (k : Nat) : (m.ctrAdd i k).fired = m.fired := rfl
@[simp] theorem Mod.ctrAdd_mem (m : Mod) (i : Fin 24) (k : Nat) : (m.ctrAdd i k).mem = m.mem := rfl
@[simp] theorem Mod.ctrAdd_plan (m : Mod) (i : Fin 24) (k : Nat) : (m.ctrAdd i k).plan = m.plan := rfl
@[simp] theorem Mod.ctrAdd_lanes (m : Mod) (i : Fin 24) (k : Nat) : (m.ctrAdd i k).lanes = m.lanes := rfl
@[simp] theorem Mod.ctrAdd_exec (m : Mod) (i : Fin 24) (k : Nat) : (m.ctrAdd i k).exec = m.exec := rfl
@[simp] theorem Mod.ctrAdd_outs (m : Mod) (i : Fin 24) (k : Nat) : (m.ctrAdd i k).outs = m.outs := rfl
@[simp] theorem Mod.ctrAdd_bit (m : Mod) (i : Fin 24) (k : Nat) : (m.ctrAdd i k).bit = m.bit := rfl
@[simp] theorem Mod.ctrAdd_retain (m : Mod) (i : Fin 24) (k : Nat) : (m.ctrAdd i k).retain = m.retain := rfl
@[simp] theorem Mod.ctrAdd_logs (m : Mod) (i : Fin 24) (k : Nat) : (m.ctrAdd i k).logs = m.logs := rfl
@[simp] theorem Mod.ctrAdd_sw (m : Mod) (i : Fin 24) (k : Nat) : (m.ctrAdd i k).sw = m.sw := rfl
@[simp] theorem Mod.ctrAdd_jack (m : Mod) (i : Fin 24) (k : Nat) : (m.ctrAdd i k).jack = m.jack := rfl
@[simp] theorem Mod.ctrAdd_fio (m : Mod) (i : Fin 24) (k : Nat) : (m.ctrAdd i k).fio = m.fio := rfl
@[simp] theorem Mod.ctrAdd_safe (m : Mod) (i : Fin 24) (k : Nat) : (m.ctrAdd i k).safe = m.safe := rfl
@[simp] theorem Mod.ctrAdd_loops (m : Mod) (i : Fin 24) (k : Nat) : (m.ctrAdd i k).loops = m.loops := rfl
@[simp] theorem Mod.ctrAdd_tests (m : Mod) (i : Fin 24) (k : Nat) : (m.ctrAdd i k).tests = m.tests := rfl
@[simp] theorem Mod.ctrAdd_met (m : Mod) (i : Fin 24) (k : Nat) : (m.ctrAdd i k).met = m.met := rfl
@[simp] theorem Mod.ctrAdd_ports (m : Mod) (i : Fin 24) (k : Nat) : (m.ctrAdd i k).ports = m.ports := rfl
@[simp] theorem Mod.ctrAdd_twin (m : Mod) (i : Fin 24) (k : Nat) : (m.ctrAdd i k).twin = m.twin := rfl
@[simp] theorem Mod.ctrAdd_orpor (m : Mod) (i : Fin 24) (k : Nat) : (m.ctrAdd i k).orpor = m.orpor := rfl
@[simp] theorem Mod.ctrAdd_upl (m : Mod) (i : Fin 24) (k : Nat) : (m.ctrAdd i k).upl = m.upl := rfl
@[simp] theorem Mod.ctrAdd_pool (m : Mod) (i : Fin 24) (k : Nat) : (m.ctrAdd i k).pool = m.pool := rfl
@[simp] theorem Mod.ctrAdd_rtc (m : Mod) (i : Fin 24) (k : Nat) : (m.ctrAdd i k).rtc = m.rtc := rfl
@[simp] theorem Mod.ctrAdd_key (m : Mod) (i : Fin 24) (k : Nat) : (m.ctrAdd i k).key = m.key := rfl
@[simp] theorem Mod.ctrAdd_pwr (m : Mod) (i : Fin 24) (k : Nat) : (m.ctrAdd i k).pwr = m.pwr := rfl
@[simp] theorem Mod.paramPut_fx (m : Mod) (key : Nat) (payload : List Byte) (tag : Option (Nat × Nat)) : (m.paramPut key payload tag).fx = m.fx := rfl
@[simp] theorem Mod.paramPut_regs (m : Mod) (key : Nat) (payload : List Byte) (tag : Option (Nat × Nat)) : (m.paramPut key payload tag).regs = m.regs := rfl
@[simp] theorem Mod.paramPut_freeCtr (m : Mod) (key : Nat) (payload : List Byte) (tag : Option (Nat × Nat)) : (m.paramPut key payload tag).freeCtr = m.freeCtr := rfl
@[simp] theorem Mod.paramPut_clk (m : Mod) (key : Nat) (payload : List Byte) (tag : Option (Nat × Nat)) : (m.paramPut key payload tag).clk = m.clk := rfl
@[simp] theorem Mod.paramPut_fired (m : Mod) (key : Nat) (payload : List Byte) (tag : Option (Nat × Nat)) : (m.paramPut key payload tag).fired = m.fired := rfl
@[simp] theorem Mod.paramPut_mem (m : Mod) (key : Nat) (payload : List Byte) (tag : Option (Nat × Nat)) : (m.paramPut key payload tag).mem = m.mem := rfl
@[simp] theorem Mod.paramPut_plan (m : Mod) (key : Nat) (payload : List Byte) (tag : Option (Nat × Nat)) : (m.paramPut key payload tag).plan = m.plan := rfl
@[simp] theorem Mod.paramPut_lanes (m : Mod) (key : Nat) (payload : List Byte) (tag : Option (Nat × Nat)) : (m.paramPut key payload tag).lanes = m.lanes := rfl
@[simp] theorem Mod.paramPut_exec (m : Mod) (key : Nat) (payload : List Byte) (tag : Option (Nat × Nat)) : (m.paramPut key payload tag).exec = m.exec := rfl
@[simp] theorem Mod.paramPut_outs (m : Mod) (key : Nat) (payload : List Byte) (tag : Option (Nat × Nat)) : (m.paramPut key payload tag).outs = m.outs := rfl
@[simp] theorem Mod.paramPut_bit (m : Mod) (key : Nat) (payload : List Byte) (tag : Option (Nat × Nat)) : (m.paramPut key payload tag).bit = m.bit := rfl
@[simp] theorem Mod.paramPut_retain (m : Mod) (key : Nat) (payload : List Byte) (tag : Option (Nat × Nat)) : (m.paramPut key payload tag).retain = m.retain := rfl
@[simp] theorem Mod.paramPut_logs (m : Mod) (key : Nat) (payload : List Byte) (tag : Option (Nat × Nat)) : (m.paramPut key payload tag).logs = m.logs := rfl
@[simp] theorem Mod.paramPut_sw (m : Mod) (key : Nat) (payload : List Byte) (tag : Option (Nat × Nat)) : (m.paramPut key payload tag).sw = m.sw := rfl
@[simp] theorem Mod.paramPut_jack (m : Mod) (key : Nat) (payload : List Byte) (tag : Option (Nat × Nat)) : (m.paramPut key payload tag).jack = m.jack := rfl
@[simp] theorem Mod.paramPut_fio (m : Mod) (key : Nat) (payload : List Byte) (tag : Option (Nat × Nat)) : (m.paramPut key payload tag).fio = m.fio := rfl
@[simp] theorem Mod.paramPut_safe (m : Mod) (key : Nat) (payload : List Byte) (tag : Option (Nat × Nat)) : (m.paramPut key payload tag).safe = m.safe := rfl
@[simp] theorem Mod.paramPut_loops (m : Mod) (key : Nat) (payload : List Byte) (tag : Option (Nat × Nat)) : (m.paramPut key payload tag).loops = m.loops := rfl
@[simp] theorem Mod.paramPut_tests (m : Mod) (key : Nat) (payload : List Byte) (tag : Option (Nat × Nat)) : (m.paramPut key payload tag).tests = m.tests := rfl
@[simp] theorem Mod.paramPut_met (m : Mod) (key : Nat) (payload : List Byte) (tag : Option (Nat × Nat)) : (m.paramPut key payload tag).met = m.met := rfl
@[simp] theorem Mod.paramPut_ports (m : Mod) (key : Nat) (payload : List Byte) (tag : Option (Nat × Nat)) : (m.paramPut key payload tag).ports = m.ports := rfl
@[simp] theorem Mod.paramPut_twin (m : Mod) (key : Nat) (payload : List Byte) (tag : Option (Nat × Nat)) : (m.paramPut key payload tag).twin = m.twin := rfl
@[simp] theorem Mod.paramPut_orpor (m : Mod) (key : Nat) (payload : List Byte) (tag : Option (Nat × Nat)) : (m.paramPut key payload tag).orpor = m.orpor := rfl
@[simp] theorem Mod.paramPut_upl (m : Mod) (key : Nat) (payload : List Byte) (tag : Option (Nat × Nat)) : (m.paramPut key payload tag).upl = m.upl := rfl
@[simp] theorem Mod.paramPut_pool (m : Mod) (key : Nat) (payload : List Byte) (tag : Option (Nat × Nat)) : (m.paramPut key payload tag).pool = m.pool := rfl
@[simp] theorem Mod.paramPut_rtc (m : Mod) (key : Nat) (payload : List Byte) (tag : Option (Nat × Nat)) : (m.paramPut key payload tag).rtc = m.rtc := rfl
@[simp] theorem Mod.paramPut_key (m : Mod) (key : Nat) (payload : List Byte) (tag : Option (Nat × Nat)) : (m.paramPut key payload tag).key = m.key := rfl
@[simp] theorem Mod.paramPut_pwr (m : Mod) (key : Nat) (payload : List Byte) (tag : Option (Nat × Nat)) : (m.paramPut key payload tag).pwr = m.pwr := rfl
@[simp] theorem Mod.paramDel_fx (m : Mod) (key : Nat) (tag : Option (Nat × Nat)) : (m.paramDel key tag).fx = m.fx := rfl
@[simp] theorem Mod.paramDel_regs (m : Mod) (key : Nat) (tag : Option (Nat × Nat)) : (m.paramDel key tag).regs = m.regs := rfl
@[simp] theorem Mod.paramDel_freeCtr (m : Mod) (key : Nat) (tag : Option (Nat × Nat)) : (m.paramDel key tag).freeCtr = m.freeCtr := rfl
@[simp] theorem Mod.paramDel_clk (m : Mod) (key : Nat) (tag : Option (Nat × Nat)) : (m.paramDel key tag).clk = m.clk := rfl
@[simp] theorem Mod.paramDel_fired (m : Mod) (key : Nat) (tag : Option (Nat × Nat)) : (m.paramDel key tag).fired = m.fired := rfl
@[simp] theorem Mod.paramDel_mem (m : Mod) (key : Nat) (tag : Option (Nat × Nat)) : (m.paramDel key tag).mem = m.mem := rfl
@[simp] theorem Mod.paramDel_plan (m : Mod) (key : Nat) (tag : Option (Nat × Nat)) : (m.paramDel key tag).plan = m.plan := rfl
@[simp] theorem Mod.paramDel_lanes (m : Mod) (key : Nat) (tag : Option (Nat × Nat)) : (m.paramDel key tag).lanes = m.lanes := rfl
@[simp] theorem Mod.paramDel_exec (m : Mod) (key : Nat) (tag : Option (Nat × Nat)) : (m.paramDel key tag).exec = m.exec := rfl
@[simp] theorem Mod.paramDel_outs (m : Mod) (key : Nat) (tag : Option (Nat × Nat)) : (m.paramDel key tag).outs = m.outs := rfl
@[simp] theorem Mod.paramDel_bit (m : Mod) (key : Nat) (tag : Option (Nat × Nat)) : (m.paramDel key tag).bit = m.bit := rfl
@[simp] theorem Mod.paramDel_retain (m : Mod) (key : Nat) (tag : Option (Nat × Nat)) : (m.paramDel key tag).retain = m.retain := rfl
@[simp] theorem Mod.paramDel_logs (m : Mod) (key : Nat) (tag : Option (Nat × Nat)) : (m.paramDel key tag).logs = m.logs := rfl
@[simp] theorem Mod.paramDel_sw (m : Mod) (key : Nat) (tag : Option (Nat × Nat)) : (m.paramDel key tag).sw = m.sw := rfl
@[simp] theorem Mod.paramDel_jack (m : Mod) (key : Nat) (tag : Option (Nat × Nat)) : (m.paramDel key tag).jack = m.jack := rfl
@[simp] theorem Mod.paramDel_fio (m : Mod) (key : Nat) (tag : Option (Nat × Nat)) : (m.paramDel key tag).fio = m.fio := rfl
@[simp] theorem Mod.paramDel_safe (m : Mod) (key : Nat) (tag : Option (Nat × Nat)) : (m.paramDel key tag).safe = m.safe := rfl
@[simp] theorem Mod.paramDel_loops (m : Mod) (key : Nat) (tag : Option (Nat × Nat)) : (m.paramDel key tag).loops = m.loops := rfl
@[simp] theorem Mod.paramDel_tests (m : Mod) (key : Nat) (tag : Option (Nat × Nat)) : (m.paramDel key tag).tests = m.tests := rfl
@[simp] theorem Mod.paramDel_met (m : Mod) (key : Nat) (tag : Option (Nat × Nat)) : (m.paramDel key tag).met = m.met := rfl
@[simp] theorem Mod.paramDel_ports (m : Mod) (key : Nat) (tag : Option (Nat × Nat)) : (m.paramDel key tag).ports = m.ports := rfl
@[simp] theorem Mod.paramDel_twin (m : Mod) (key : Nat) (tag : Option (Nat × Nat)) : (m.paramDel key tag).twin = m.twin := rfl
@[simp] theorem Mod.paramDel_orpor (m : Mod) (key : Nat) (tag : Option (Nat × Nat)) : (m.paramDel key tag).orpor = m.orpor := rfl
@[simp] theorem Mod.paramDel_upl (m : Mod) (key : Nat) (tag : Option (Nat × Nat)) : (m.paramDel key tag).upl = m.upl := rfl
@[simp] theorem Mod.paramDel_pool (m : Mod) (key : Nat) (tag : Option (Nat × Nat)) : (m.paramDel key tag).pool = m.pool := rfl
@[simp] theorem Mod.paramDel_rtc (m : Mod) (key : Nat) (tag : Option (Nat × Nat)) : (m.paramDel key tag).rtc = m.rtc := rfl
@[simp] theorem Mod.paramDel_key (m : Mod) (key : Nat) (tag : Option (Nat × Nat)) : (m.paramDel key tag).key = m.key := rfl
@[simp] theorem Mod.paramDel_pwr (m : Mod) (key : Nat) (tag : Option (Nat × Nat)) : (m.paramDel key tag).pwr = m.pwr := rfl
@[simp] theorem Mod.swMap_fx (m : Mod) (i : Fin 31) (f : Sw → Sw) : (m.swMap i f).fx = m.fx := rfl
@[simp] theorem Mod.swMap_regs (m : Mod) (i : Fin 31) (f : Sw → Sw) : (m.swMap i f).regs = m.regs := rfl
@[simp] theorem Mod.swMap_freeCtr (m : Mod) (i : Fin 31) (f : Sw → Sw) : (m.swMap i f).freeCtr = m.freeCtr := rfl
@[simp] theorem Mod.swMap_clk (m : Mod) (i : Fin 31) (f : Sw → Sw) : (m.swMap i f).clk = m.clk := rfl
@[simp] theorem Mod.swMap_fired (m : Mod) (i : Fin 31) (f : Sw → Sw) : (m.swMap i f).fired = m.fired := rfl
@[simp] theorem Mod.swMap_mem (m : Mod) (i : Fin 31) (f : Sw → Sw) : (m.swMap i f).mem = m.mem := rfl
@[simp] theorem Mod.swMap_plan (m : Mod) (i : Fin 31) (f : Sw → Sw) : (m.swMap i f).plan = m.plan := rfl
@[simp] theorem Mod.swMap_lanes (m : Mod) (i : Fin 31) (f : Sw → Sw) : (m.swMap i f).lanes = m.lanes := rfl
@[simp] theorem Mod.swMap_exec (m : Mod) (i : Fin 31) (f : Sw → Sw) : (m.swMap i f).exec = m.exec := rfl
@[simp] theorem Mod.swMap_outs (m : Mod) (i : Fin 31) (f : Sw → Sw) : (m.swMap i f).outs = m.outs := rfl
@[simp] theorem Mod.swMap_bit (m : Mod) (i : Fin 31) (f : Sw → Sw) : (m.swMap i f).bit = m.bit := rfl
@[simp] theorem Mod.swMap_retain (m : Mod) (i : Fin 31) (f : Sw → Sw) : (m.swMap i f).retain = m.retain := rfl
@[simp] theorem Mod.swMap_logs (m : Mod) (i : Fin 31) (f : Sw → Sw) : (m.swMap i f).logs = m.logs := rfl
@[simp] theorem Mod.swMap_nvm (m : Mod) (i : Fin 31) (f : Sw → Sw) : (m.swMap i f).nvm = m.nvm := rfl
@[simp] theorem Mod.swMap_jack (m : Mod) (i : Fin 31) (f : Sw → Sw) : (m.swMap i f).jack = m.jack := rfl
@[simp] theorem Mod.swMap_fio (m : Mod) (i : Fin 31) (f : Sw → Sw) : (m.swMap i f).fio = m.fio := rfl
@[simp] theorem Mod.swMap_safe (m : Mod) (i : Fin 31) (f : Sw → Sw) : (m.swMap i f).safe = m.safe := rfl
@[simp] theorem Mod.swMap_loops (m : Mod) (i : Fin 31) (f : Sw → Sw) : (m.swMap i f).loops = m.loops := rfl
@[simp] theorem Mod.swMap_tests (m : Mod) (i : Fin 31) (f : Sw → Sw) : (m.swMap i f).tests = m.tests := rfl
@[simp] theorem Mod.swMap_met (m : Mod) (i : Fin 31) (f : Sw → Sw) : (m.swMap i f).met = m.met := rfl
@[simp] theorem Mod.swMap_ports (m : Mod) (i : Fin 31) (f : Sw → Sw) : (m.swMap i f).ports = m.ports := rfl
@[simp] theorem Mod.swMap_twin (m : Mod) (i : Fin 31) (f : Sw → Sw) : (m.swMap i f).twin = m.twin := rfl
@[simp] theorem Mod.swMap_orpor (m : Mod) (i : Fin 31) (f : Sw → Sw) : (m.swMap i f).orpor = m.orpor := rfl
@[simp] theorem Mod.swMap_upl (m : Mod) (i : Fin 31) (f : Sw → Sw) : (m.swMap i f).upl = m.upl := rfl
@[simp] theorem Mod.swMap_pool (m : Mod) (i : Fin 31) (f : Sw → Sw) : (m.swMap i f).pool = m.pool := rfl
@[simp] theorem Mod.swMap_rtc (m : Mod) (i : Fin 31) (f : Sw → Sw) : (m.swMap i f).rtc = m.rtc := rfl
@[simp] theorem Mod.swMap_key (m : Mod) (i : Fin 31) (f : Sw → Sw) : (m.swMap i f).key = m.key := rfl
@[simp] theorem Mod.swMap_pwr (m : Mod) (i : Fin 31) (f : Sw → Sw) : (m.swMap i f).pwr = m.pwr := rfl
@[simp] theorem Mod.reach_fx (m : Mod) (t : Nat) : (m.reach t).fx = m.fx := rfl
@[simp] theorem Mod.reach_regs (m : Mod) (t : Nat) : (m.reach t).regs = m.regs := rfl
@[simp] theorem Mod.reach_freeCtr (m : Mod) (t : Nat) : (m.reach t).freeCtr = m.freeCtr := rfl
@[simp] theorem Mod.reach_fired (m : Mod) (t : Nat) : (m.reach t).fired = m.fired := rfl
@[simp] theorem Mod.reach_mem (m : Mod) (t : Nat) : (m.reach t).mem = m.mem := rfl
@[simp] theorem Mod.reach_plan (m : Mod) (t : Nat) : (m.reach t).plan = m.plan := rfl
@[simp] theorem Mod.reach_lanes (m : Mod) (t : Nat) : (m.reach t).lanes = m.lanes := rfl
@[simp] theorem Mod.reach_exec (m : Mod) (t : Nat) : (m.reach t).exec = m.exec := rfl
@[simp] theorem Mod.reach_outs (m : Mod) (t : Nat) : (m.reach t).outs = m.outs := rfl
@[simp] theorem Mod.reach_bit (m : Mod) (t : Nat) : (m.reach t).bit = m.bit := rfl
@[simp] theorem Mod.reach_retain (m : Mod) (t : Nat) : (m.reach t).retain = m.retain := rfl
@[simp] theorem Mod.reach_logs (m : Mod) (t : Nat) : (m.reach t).logs = m.logs := rfl
@[simp] theorem Mod.reach_sw (m : Mod) (t : Nat) : (m.reach t).sw = m.sw := rfl
@[simp] theorem Mod.reach_nvm (m : Mod) (t : Nat) : (m.reach t).nvm = m.nvm := rfl
@[simp] theorem Mod.reach_jack (m : Mod) (t : Nat) : (m.reach t).jack = m.jack := rfl
@[simp] theorem Mod.reach_fio (m : Mod) (t : Nat) : (m.reach t).fio = m.fio := rfl
@[simp] theorem Mod.reach_safe (m : Mod) (t : Nat) : (m.reach t).safe = m.safe := rfl
@[simp] theorem Mod.reach_loops (m : Mod) (t : Nat) : (m.reach t).loops = m.loops := rfl
@[simp] theorem Mod.reach_tests (m : Mod) (t : Nat) : (m.reach t).tests = m.tests := rfl
@[simp] theorem Mod.reach_met (m : Mod) (t : Nat) : (m.reach t).met = m.met := rfl
@[simp] theorem Mod.reach_ports (m : Mod) (t : Nat) : (m.reach t).ports = m.ports := rfl
@[simp] theorem Mod.reach_twin (m : Mod) (t : Nat) : (m.reach t).twin = m.twin := rfl
@[simp] theorem Mod.reach_orpor (m : Mod) (t : Nat) : (m.reach t).orpor = m.orpor := rfl
@[simp] theorem Mod.reach_upl (m : Mod) (t : Nat) : (m.reach t).upl = m.upl := rfl
@[simp] theorem Mod.reach_pool (m : Mod) (t : Nat) : (m.reach t).pool = m.pool := rfl
@[simp] theorem Mod.reach_rtc (m : Mod) (t : Nat) : (m.reach t).rtc = m.rtc := rfl
@[simp] theorem Mod.reach_key (m : Mod) (t : Nat) : (m.reach t).key = m.key := rfl
@[simp] theorem Mod.reach_pwr (m : Mod) (t : Nat) : (m.reach t).pwr = m.pwr := rfl
@[simp] theorem Mod.outMap_fx (m : Mod) (o : Fin 48) (f : OutSt → OutSt) : (m.outMap o f).fx = m.fx := rfl
@[simp] theorem Mod.outMap_regs (m : Mod) (o : Fin 48) (f : OutSt → OutSt) : (m.outMap o f).regs = m.regs := rfl
@[simp] theorem Mod.outMap_freeCtr (m : Mod) (o : Fin 48) (f : OutSt → OutSt) : (m.outMap o f).freeCtr = m.freeCtr := rfl
@[simp] theorem Mod.outMap_clk (m : Mod) (o : Fin 48) (f : OutSt → OutSt) : (m.outMap o f).clk = m.clk := rfl
@[simp] theorem Mod.outMap_fired (m : Mod) (o : Fin 48) (f : OutSt → OutSt) : (m.outMap o f).fired = m.fired := rfl
@[simp] theorem Mod.outMap_mem (m : Mod) (o : Fin 48) (f : OutSt → OutSt) : (m.outMap o f).mem = m.mem := rfl
@[simp] theorem Mod.outMap_plan (m : Mod) (o : Fin 48) (f : OutSt → OutSt) : (m.outMap o f).plan = m.plan := rfl
@[simp] theorem Mod.outMap_lanes (m : Mod) (o : Fin 48) (f : OutSt → OutSt) : (m.outMap o f).lanes = m.lanes := rfl
@[simp] theorem Mod.outMap_exec (m : Mod) (o : Fin 48) (f : OutSt → OutSt) : (m.outMap o f).exec = m.exec := rfl
@[simp] theorem Mod.outMap_bit (m : Mod) (o : Fin 48) (f : OutSt → OutSt) : (m.outMap o f).bit = m.bit := rfl
@[simp] theorem Mod.outMap_retain (m : Mod) (o : Fin 48) (f : OutSt → OutSt) : (m.outMap o f).retain = m.retain := rfl
@[simp] theorem Mod.outMap_logs (m : Mod) (o : Fin 48) (f : OutSt → OutSt) : (m.outMap o f).logs = m.logs := rfl
@[simp] theorem Mod.outMap_sw (m : Mod) (o : Fin 48) (f : OutSt → OutSt) : (m.outMap o f).sw = m.sw := rfl
@[simp] theorem Mod.outMap_nvm (m : Mod) (o : Fin 48) (f : OutSt → OutSt) : (m.outMap o f).nvm = m.nvm := rfl
@[simp] theorem Mod.outMap_jack (m : Mod) (o : Fin 48) (f : OutSt → OutSt) : (m.outMap o f).jack = m.jack := rfl
@[simp] theorem Mod.outMap_fio (m : Mod) (o : Fin 48) (f : OutSt → OutSt) : (m.outMap o f).fio = m.fio := rfl
@[simp] theorem Mod.outMap_safe (m : Mod) (o : Fin 48) (f : OutSt → OutSt) : (m.outMap o f).safe = m.safe := rfl
@[simp] theorem Mod.outMap_loops (m : Mod) (o : Fin 48) (f : OutSt → OutSt) : (m.outMap o f).loops = m.loops := rfl
@[simp] theorem Mod.outMap_tests (m : Mod) (o : Fin 48) (f : OutSt → OutSt) : (m.outMap o f).tests = m.tests := rfl
@[simp] theorem Mod.outMap_met (m : Mod) (o : Fin 48) (f : OutSt → OutSt) : (m.outMap o f).met = m.met := rfl
@[simp] theorem Mod.outMap_ports (m : Mod) (o : Fin 48) (f : OutSt → OutSt) : (m.outMap o f).ports = m.ports := rfl
@[simp] theorem Mod.outMap_twin (m : Mod) (o : Fin 48) (f : OutSt → OutSt) : (m.outMap o f).twin = m.twin := rfl
@[simp] theorem Mod.outMap_orpor (m : Mod) (o : Fin 48) (f : OutSt → OutSt) : (m.outMap o f).orpor = m.orpor := rfl
@[simp] theorem Mod.outMap_upl (m : Mod) (o : Fin 48) (f : OutSt → OutSt) : (m.outMap o f).upl = m.upl := rfl
@[simp] theorem Mod.outMap_pool (m : Mod) (o : Fin 48) (f : OutSt → OutSt) : (m.outMap o f).pool = m.pool := rfl
@[simp] theorem Mod.outMap_rtc (m : Mod) (o : Fin 48) (f : OutSt → OutSt) : (m.outMap o f).rtc = m.rtc := rfl
@[simp] theorem Mod.outMap_key (m : Mod) (o : Fin 48) (f : OutSt → OutSt) : (m.outMap o f).key = m.key := rfl
@[simp] theorem Mod.outMap_pwr (m : Mod) (o : Fin 48) (f : OutSt → OutSt) : (m.outMap o f).pwr = m.pwr := rfl
@[simp] theorem Mod.reqSafeAll_fx (m : Mod) (bit : Nat) : (m.reqSafeAll bit).fx = m.fx := by dsimp only [Mod.reqSafeAll]
@[simp] theorem Mod.reqSafeAll_regs (m : Mod) (bit : Nat) : (m.reqSafeAll bit).regs = m.regs := by dsimp only [Mod.reqSafeAll]
@[simp] theorem Mod.reqSafeAll_freeCtr (m : Mod) (bit : Nat) : (m.reqSafeAll bit).freeCtr = m.freeCtr := by dsimp only [Mod.reqSafeAll]
@[simp] theorem Mod.reqSafeAll_clk (m : Mod) (bit : Nat) : (m.reqSafeAll bit).clk = m.clk := by dsimp only [Mod.reqSafeAll]
@[simp] theorem Mod.reqSafeAll_fired (m : Mod) (bit : Nat) : (m.reqSafeAll bit).fired = m.fired := by dsimp only [Mod.reqSafeAll]
@[simp] theorem Mod.reqSafeAll_mem (m : Mod) (bit : Nat) : (m.reqSafeAll bit).mem = m.mem := by dsimp only [Mod.reqSafeAll]
@[simp] theorem Mod.reqSafeAll_plan (m : Mod) (bit : Nat) : (m.reqSafeAll bit).plan = m.plan := by dsimp only [Mod.reqSafeAll]
@[simp] theorem Mod.reqSafeAll_lanes (m : Mod) (bit : Nat) : (m.reqSafeAll bit).lanes = m.lanes := by dsimp only [Mod.reqSafeAll]
@[simp] theorem Mod.reqSafeAll_exec (m : Mod) (bit : Nat) : (m.reqSafeAll bit).exec = m.exec := by dsimp only [Mod.reqSafeAll]
@[simp] theorem Mod.reqSafeAll_bit (m : Mod) (bit : Nat) : (m.reqSafeAll bit).bit = m.bit := by dsimp only [Mod.reqSafeAll]
@[simp] theorem Mod.reqSafeAll_retain (m : Mod) (bit : Nat) : (m.reqSafeAll bit).retain = m.retain := by dsimp only [Mod.reqSafeAll]
@[simp] theorem Mod.reqSafeAll_logs (m : Mod) (bit : Nat) : (m.reqSafeAll bit).logs = m.logs := by dsimp only [Mod.reqSafeAll]
@[simp] theorem Mod.reqSafeAll_sw (m : Mod) (bit : Nat) : (m.reqSafeAll bit).sw = m.sw := by dsimp only [Mod.reqSafeAll]
@[simp] theorem Mod.reqSafeAll_nvm (m : Mod) (bit : Nat) : (m.reqSafeAll bit).nvm = m.nvm := by dsimp only [Mod.reqSafeAll]
@[simp] theorem Mod.reqSafeAll_jack (m : Mod) (bit : Nat) : (m.reqSafeAll bit).jack = m.jack := by dsimp only [Mod.reqSafeAll]
@[simp] theorem Mod.reqSafeAll_fio (m : Mod) (bit : Nat) : (m.reqSafeAll bit).fio = m.fio := by dsimp only [Mod.reqSafeAll]
@[simp] theorem Mod.reqSafeAll_safe (m : Mod) (bit : Nat) : (m.reqSafeAll bit).safe = m.safe := by dsimp only [Mod.reqSafeAll]
@[simp] theorem Mod.reqSafeAll_loops (m : Mod) (bit : Nat) : (m.reqSafeAll bit).loops = m.loops := by dsimp only [Mod.reqSafeAll]
@[simp] theorem Mod.reqSafeAll_tests (m : Mod) (bit : Nat) : (m.reqSafeAll bit).tests = m.tests := by dsimp only [Mod.reqSafeAll]
@[simp] theorem Mod.reqSafeAll_met (m : Mod) (bit : Nat) : (m.reqSafeAll bit).met = m.met := by dsimp only [Mod.reqSafeAll]
@[simp] theorem Mod.reqSafeAll_ports (m : Mod) (bit : Nat) : (m.reqSafeAll bit).ports = m.ports := by dsimp only [Mod.reqSafeAll]
@[simp] theorem Mod.reqSafeAll_twin (m : Mod) (bit : Nat) : (m.reqSafeAll bit).twin = m.twin := by dsimp only [Mod.reqSafeAll]
@[simp] theorem Mod.reqSafeAll_orpor (m : Mod) (bit : Nat) : (m.reqSafeAll bit).orpor = m.orpor := by dsimp only [Mod.reqSafeAll]
@[simp] theorem Mod.reqSafeAll_upl (m : Mod) (bit : Nat) : (m.reqSafeAll bit).upl = m.upl := by dsimp only [Mod.reqSafeAll]
@[simp] theorem Mod.reqSafeAll_pool (m : Mod) (bit : Nat) : (m.reqSafeAll bit).pool = m.pool := by dsimp only [Mod.reqSafeAll]
@[simp] theorem Mod.reqSafeAll_rtc (m : Mod) (bit : Nat) : (m.reqSafeAll bit).rtc = m.rtc := by dsimp only [Mod.reqSafeAll]
@[simp] theorem Mod.reqSafeAll_key (m : Mod) (bit : Nat) : (m.reqSafeAll bit).key = m.key := by dsimp only [Mod.reqSafeAll]
@[simp] theorem Mod.reqSafeAll_pwr (m : Mod) (bit : Nat) : (m.reqSafeAll bit).pwr = m.pwr := by dsimp only [Mod.reqSafeAll]
@[simp] theorem Mod.dropStaging_fx (m : Mod) : (m.dropStaging).fx = m.fx := by dsimp only [Mod.dropStaging]
@[simp] theorem Mod.dropStaging_regs (m : Mod) : (m.dropStaging).regs = m.regs := by dsimp only [Mod.dropStaging]
@[simp] theorem Mod.dropStaging_freeCtr (m : Mod) : (m.dropStaging).freeCtr = m.freeCtr := by dsimp only [Mod.dropStaging]
@[simp] theorem Mod.dropStaging_clk (m : Mod) : (m.dropStaging).clk = m.clk := by dsimp only [Mod.dropStaging]
@[simp] theorem Mod.dropStaging_fired (m : Mod) : (m.dropStaging).fired = m.fired := by dsimp only [Mod.dropStaging]
@[simp] theorem Mod.dropStaging_mem (m : Mod) : (m.dropStaging).mem = m.mem := by dsimp only [Mod.dropStaging]
@[simp] theorem Mod.dropStaging_plan (m : Mod) : (m.dropStaging).plan = m.plan := by dsimp only [Mod.dropStaging]
@[simp] theorem Mod.dropStaging_lanes (m : Mod) : (m.dropStaging).lanes = m.lanes := by dsimp only [Mod.dropStaging]
@[simp] theorem Mod.dropStaging_exec (m : Mod) : (m.dropStaging).exec = m.exec := by dsimp only [Mod.dropStaging]
@[simp] theorem Mod.dropStaging_bit (m : Mod) : (m.dropStaging).bit = m.bit := by dsimp only [Mod.dropStaging]
@[simp] theorem Mod.dropStaging_retain (m : Mod) : (m.dropStaging).retain = m.retain := by dsimp only [Mod.dropStaging]
@[simp] theorem Mod.dropStaging_logs (m : Mod) : (m.dropStaging).logs = m.logs := by dsimp only [Mod.dropStaging]
@[simp] theorem Mod.dropStaging_sw (m : Mod) : (m.dropStaging).sw = m.sw := by dsimp only [Mod.dropStaging]
@[simp] theorem Mod.dropStaging_nvm (m : Mod) : (m.dropStaging).nvm = m.nvm := by dsimp only [Mod.dropStaging]
@[simp] theorem Mod.dropStaging_jack (m : Mod) : (m.dropStaging).jack = m.jack := by dsimp only [Mod.dropStaging]
@[simp] theorem Mod.dropStaging_fio (m : Mod) : (m.dropStaging).fio = m.fio := by dsimp only [Mod.dropStaging]
@[simp] theorem Mod.dropStaging_safe (m : Mod) : (m.dropStaging).safe = m.safe := by dsimp only [Mod.dropStaging]
@[simp] theorem Mod.dropStaging_loops (m : Mod) : (m.dropStaging).loops = m.loops := by dsimp only [Mod.dropStaging]
@[simp] theorem Mod.dropStaging_tests (m : Mod) : (m.dropStaging).tests = m.tests := by dsimp only [Mod.dropStaging]
@[simp] theorem Mod.dropStaging_met (m : Mod) : (m.dropStaging).met = m.met := by dsimp only [Mod.dropStaging]
@[simp] theorem Mod.dropStaging_ports (m : Mod) : (m.dropStaging).ports = m.ports := by dsimp only [Mod.dropStaging]
@[simp] theorem Mod.dropStaging_twin (m : Mod) : (m.dropStaging).twin = m.twin := by dsimp only [Mod.dropStaging]
@[simp] theorem Mod.dropStaging_orpor (m : Mod) : (m.dropStaging).orpor = m.orpor := by dsimp only [Mod.dropStaging]
@[simp] theorem Mod.dropStaging_upl (m : Mod) : (m.dropStaging).upl = m.upl := by dsimp only [Mod.dropStaging]
@[simp] theorem Mod.dropStaging_pool (m : Mod) : (m.dropStaging).pool = m.pool := by dsimp only [Mod.dropStaging]
@[simp] theorem Mod.dropStaging_rtc (m : Mod) : (m.dropStaging).rtc = m.rtc := by dsimp only [Mod.dropStaging]
@[simp] theorem Mod.dropStaging_key (m : Mod) : (m.dropStaging).key = m.key := by dsimp only [Mod.dropStaging]
@[simp] theorem Mod.dropStaging_pwr (m : Mod) : (m.dropStaging).pwr = m.pwr := by dsimp only [Mod.dropStaging]
@[simp] theorem Mod.setDir_fx (m : Mod) (t : Nat) (e : DirEnt) : (m.setDir t e).fx = m.fx := rfl
@[simp] theorem Mod.setDir_regs (m : Mod) (t : Nat) (e : DirEnt) : (m.setDir t e).regs = m.regs := rfl
@[simp] theorem Mod.setDir_freeCtr (m : Mod) (t : Nat) (e : DirEnt) : (m.setDir t e).freeCtr = m.freeCtr := rfl
@[simp] theorem Mod.setDir_clk (m : Mod) (t : Nat) (e : DirEnt) : (m.setDir t e).clk = m.clk := rfl
@[simp] theorem Mod.setDir_fired (m : Mod) (t : Nat) (e : DirEnt) : (m.setDir t e).fired = m.fired := rfl
@[simp] theorem Mod.setDir_plan (m : Mod) (t : Nat) (e : DirEnt) : (m.setDir t e).plan = m.plan := rfl
@[simp] theorem Mod.setDir_lanes (m : Mod) (t : Nat) (e : DirEnt) : (m.setDir t e).lanes = m.lanes := rfl
@[simp] theorem Mod.setDir_exec (m : Mod) (t : Nat) (e : DirEnt) : (m.setDir t e).exec = m.exec := rfl
@[simp] theorem Mod.setDir_outs (m : Mod) (t : Nat) (e : DirEnt) : (m.setDir t e).outs = m.outs := rfl
@[simp] theorem Mod.setDir_bit (m : Mod) (t : Nat) (e : DirEnt) : (m.setDir t e).bit = m.bit := rfl
@[simp] theorem Mod.setDir_retain (m : Mod) (t : Nat) (e : DirEnt) : (m.setDir t e).retain = m.retain := rfl
@[simp] theorem Mod.setDir_logs (m : Mod) (t : Nat) (e : DirEnt) : (m.setDir t e).logs = m.logs := rfl
@[simp] theorem Mod.setDir_sw (m : Mod) (t : Nat) (e : DirEnt) : (m.setDir t e).sw = m.sw := rfl
@[simp] theorem Mod.setDir_nvm (m : Mod) (t : Nat) (e : DirEnt) : (m.setDir t e).nvm = m.nvm := rfl
@[simp] theorem Mod.setDir_jack (m : Mod) (t : Nat) (e : DirEnt) : (m.setDir t e).jack = m.jack := rfl
@[simp] theorem Mod.setDir_fio (m : Mod) (t : Nat) (e : DirEnt) : (m.setDir t e).fio = m.fio := rfl
@[simp] theorem Mod.setDir_safe (m : Mod) (t : Nat) (e : DirEnt) : (m.setDir t e).safe = m.safe := rfl
@[simp] theorem Mod.setDir_loops (m : Mod) (t : Nat) (e : DirEnt) : (m.setDir t e).loops = m.loops := rfl
@[simp] theorem Mod.setDir_tests (m : Mod) (t : Nat) (e : DirEnt) : (m.setDir t e).tests = m.tests := rfl
@[simp] theorem Mod.setDir_met (m : Mod) (t : Nat) (e : DirEnt) : (m.setDir t e).met = m.met := rfl
@[simp] theorem Mod.setDir_ports (m : Mod) (t : Nat) (e : DirEnt) : (m.setDir t e).ports = m.ports := rfl
@[simp] theorem Mod.setDir_twin (m : Mod) (t : Nat) (e : DirEnt) : (m.setDir t e).twin = m.twin := rfl
@[simp] theorem Mod.setDir_orpor (m : Mod) (t : Nat) (e : DirEnt) : (m.setDir t e).orpor = m.orpor := rfl
@[simp] theorem Mod.setDir_upl (m : Mod) (t : Nat) (e : DirEnt) : (m.setDir t e).upl = m.upl := rfl
@[simp] theorem Mod.setDir_pool (m : Mod) (t : Nat) (e : DirEnt) : (m.setDir t e).pool = m.pool := rfl
@[simp] theorem Mod.setDir_rtc (m : Mod) (t : Nat) (e : DirEnt) : (m.setDir t e).rtc = m.rtc := rfl
@[simp] theorem Mod.setDir_key (m : Mod) (t : Nat) (e : DirEnt) : (m.setDir t e).key = m.key := rfl
@[simp] theorem Mod.setDir_pwr (m : Mod) (t : Nat) (e : DirEnt) : (m.setDir t e).pwr = m.pwr := rfl
@[simp] theorem Mod.putTile_fx (m : Mod) (t : Nat) (bs : List Byte) : (m.putTile t bs).fx = m.fx := rfl
@[simp] theorem Mod.putTile_regs (m : Mod) (t : Nat) (bs : List Byte) : (m.putTile t bs).regs = m.regs := rfl
@[simp] theorem Mod.putTile_freeCtr (m : Mod) (t : Nat) (bs : List Byte) : (m.putTile t bs).freeCtr = m.freeCtr := rfl
@[simp] theorem Mod.putTile_clk (m : Mod) (t : Nat) (bs : List Byte) : (m.putTile t bs).clk = m.clk := rfl
@[simp] theorem Mod.putTile_fired (m : Mod) (t : Nat) (bs : List Byte) : (m.putTile t bs).fired = m.fired := rfl
@[simp] theorem Mod.putTile_plan (m : Mod) (t : Nat) (bs : List Byte) : (m.putTile t bs).plan = m.plan := rfl
@[simp] theorem Mod.putTile_lanes (m : Mod) (t : Nat) (bs : List Byte) : (m.putTile t bs).lanes = m.lanes := rfl
@[simp] theorem Mod.putTile_exec (m : Mod) (t : Nat) (bs : List Byte) : (m.putTile t bs).exec = m.exec := rfl
@[simp] theorem Mod.putTile_outs (m : Mod) (t : Nat) (bs : List Byte) : (m.putTile t bs).outs = m.outs := rfl
@[simp] theorem Mod.putTile_bit (m : Mod) (t : Nat) (bs : List Byte) : (m.putTile t bs).bit = m.bit := rfl
@[simp] theorem Mod.putTile_retain (m : Mod) (t : Nat) (bs : List Byte) : (m.putTile t bs).retain = m.retain := rfl
@[simp] theorem Mod.putTile_logs (m : Mod) (t : Nat) (bs : List Byte) : (m.putTile t bs).logs = m.logs := rfl
@[simp] theorem Mod.putTile_sw (m : Mod) (t : Nat) (bs : List Byte) : (m.putTile t bs).sw = m.sw := rfl
@[simp] theorem Mod.putTile_nvm (m : Mod) (t : Nat) (bs : List Byte) : (m.putTile t bs).nvm = m.nvm := rfl
@[simp] theorem Mod.putTile_jack (m : Mod) (t : Nat) (bs : List Byte) : (m.putTile t bs).jack = m.jack := rfl
@[simp] theorem Mod.putTile_fio (m : Mod) (t : Nat) (bs : List Byte) : (m.putTile t bs).fio = m.fio := rfl
@[simp] theorem Mod.putTile_safe (m : Mod) (t : Nat) (bs : List Byte) : (m.putTile t bs).safe = m.safe := rfl
@[simp] theorem Mod.putTile_loops (m : Mod) (t : Nat) (bs : List Byte) : (m.putTile t bs).loops = m.loops := rfl
@[simp] theorem Mod.putTile_tests (m : Mod) (t : Nat) (bs : List Byte) : (m.putTile t bs).tests = m.tests := rfl
@[simp] theorem Mod.putTile_met (m : Mod) (t : Nat) (bs : List Byte) : (m.putTile t bs).met = m.met := rfl
@[simp] theorem Mod.putTile_ports (m : Mod) (t : Nat) (bs : List Byte) : (m.putTile t bs).ports = m.ports := rfl
@[simp] theorem Mod.putTile_twin (m : Mod) (t : Nat) (bs : List Byte) : (m.putTile t bs).twin = m.twin := rfl
@[simp] theorem Mod.putTile_orpor (m : Mod) (t : Nat) (bs : List Byte) : (m.putTile t bs).orpor = m.orpor := rfl
@[simp] theorem Mod.putTile_upl (m : Mod) (t : Nat) (bs : List Byte) : (m.putTile t bs).upl = m.upl := rfl
@[simp] theorem Mod.putTile_pool (m : Mod) (t : Nat) (bs : List Byte) : (m.putTile t bs).pool = m.pool := rfl
@[simp] theorem Mod.putTile_rtc (m : Mod) (t : Nat) (bs : List Byte) : (m.putTile t bs).rtc = m.rtc := rfl
@[simp] theorem Mod.putTile_key (m : Mod) (t : Nat) (bs : List Byte) : (m.putTile t bs).key = m.key := rfl
@[simp] theorem Mod.putTile_pwr (m : Mod) (t : Nat) (bs : List Byte) : (m.putTile t bs).pwr = m.pwr := rfl
@[simp] theorem Mod.markFresh_fx (m : Mod) (p : Nat) : (m.markFresh p).fx = m.fx := rfl
@[simp] theorem Mod.markFresh_regs (m : Mod) (p : Nat) : (m.markFresh p).regs = m.regs := rfl
@[simp] theorem Mod.markFresh_freeCtr (m : Mod) (p : Nat) : (m.markFresh p).freeCtr = m.freeCtr := rfl
@[simp] theorem Mod.markFresh_clk (m : Mod) (p : Nat) : (m.markFresh p).clk = m.clk := rfl
@[simp] theorem Mod.markFresh_fired (m : Mod) (p : Nat) : (m.markFresh p).fired = m.fired := rfl
@[simp] theorem Mod.markFresh_mem (m : Mod) (p : Nat) : (m.markFresh p).mem = m.mem := rfl
@[simp] theorem Mod.markFresh_plan (m : Mod) (p : Nat) : (m.markFresh p).plan = m.plan := rfl
@[simp] theorem Mod.markFresh_lanes (m : Mod) (p : Nat) : (m.markFresh p).lanes = m.lanes := rfl
@[simp] theorem Mod.markFresh_outs (m : Mod) (p : Nat) : (m.markFresh p).outs = m.outs := rfl
@[simp] theorem Mod.markFresh_bit (m : Mod) (p : Nat) : (m.markFresh p).bit = m.bit := rfl
@[simp] theorem Mod.markFresh_retain (m : Mod) (p : Nat) : (m.markFresh p).retain = m.retain := rfl
@[simp] theorem Mod.markFresh_logs (m : Mod) (p : Nat) : (m.markFresh p).logs = m.logs := rfl
@[simp] theorem Mod.markFresh_sw (m : Mod) (p : Nat) : (m.markFresh p).sw = m.sw := rfl
@[simp] theorem Mod.markFresh_nvm (m : Mod) (p : Nat) : (m.markFresh p).nvm = m.nvm := rfl
@[simp] theorem Mod.markFresh_jack (m : Mod) (p : Nat) : (m.markFresh p).jack = m.jack := rfl
@[simp] theorem Mod.markFresh_fio (m : Mod) (p : Nat) : (m.markFresh p).fio = m.fio := rfl
@[simp] theorem Mod.markFresh_safe (m : Mod) (p : Nat) : (m.markFresh p).safe = m.safe := rfl
@[simp] theorem Mod.markFresh_loops (m : Mod) (p : Nat) : (m.markFresh p).loops = m.loops := rfl
@[simp] theorem Mod.markFresh_tests (m : Mod) (p : Nat) : (m.markFresh p).tests = m.tests := rfl
@[simp] theorem Mod.markFresh_met (m : Mod) (p : Nat) : (m.markFresh p).met = m.met := rfl
@[simp] theorem Mod.markFresh_ports (m : Mod) (p : Nat) : (m.markFresh p).ports = m.ports := rfl
@[simp] theorem Mod.markFresh_twin (m : Mod) (p : Nat) : (m.markFresh p).twin = m.twin := rfl
@[simp] theorem Mod.markFresh_orpor (m : Mod) (p : Nat) : (m.markFresh p).orpor = m.orpor := rfl
@[simp] theorem Mod.markFresh_upl (m : Mod) (p : Nat) : (m.markFresh p).upl = m.upl := rfl
@[simp] theorem Mod.markFresh_pool (m : Mod) (p : Nat) : (m.markFresh p).pool = m.pool := rfl
@[simp] theorem Mod.markFresh_rtc (m : Mod) (p : Nat) : (m.markFresh p).rtc = m.rtc := rfl
@[simp] theorem Mod.markFresh_key (m : Mod) (p : Nat) : (m.markFresh p).key = m.key := rfl
@[simp] theorem Mod.markFresh_pwr (m : Mod) (p : Nat) : (m.markFresh p).pwr = m.pwr := rfl
@[simp] theorem Mod.fioMark_fx (m : Mod) (k : Nat) : (m.fioMark k).fx = m.fx := rfl
@[simp] theorem Mod.fioMark_regs (m : Mod) (k : Nat) : (m.fioMark k).regs = m.regs := rfl
@[simp] theorem Mod.fioMark_freeCtr (m : Mod) (k : Nat) : (m.fioMark k).freeCtr = m.freeCtr := rfl
@[simp] theorem Mod.fioMark_clk (m : Mod) (k : Nat) : (m.fioMark k).clk = m.clk := rfl
@[simp] theorem Mod.fioMark_fired (m : Mod) (k : Nat) : (m.fioMark k).fired = m.fired := rfl
@[simp] theorem Mod.fioMark_mem (m : Mod) (k : Nat) : (m.fioMark k).mem = m.mem := rfl
@[simp] theorem Mod.fioMark_plan (m : Mod) (k : Nat) : (m.fioMark k).plan = m.plan := rfl
@[simp] theorem Mod.fioMark_lanes (m : Mod) (k : Nat) : (m.fioMark k).lanes = m.lanes := rfl
@[simp] theorem Mod.fioMark_exec (m : Mod) (k : Nat) : (m.fioMark k).exec = m.exec := rfl
@[simp] theorem Mod.fioMark_outs (m : Mod) (k : Nat) : (m.fioMark k).outs = m.outs := rfl
@[simp] theorem Mod.fioMark_bit (m : Mod) (k : Nat) : (m.fioMark k).bit = m.bit := rfl
@[simp] theorem Mod.fioMark_retain (m : Mod) (k : Nat) : (m.fioMark k).retain = m.retain := rfl
@[simp] theorem Mod.fioMark_logs (m : Mod) (k : Nat) : (m.fioMark k).logs = m.logs := rfl
@[simp] theorem Mod.fioMark_sw (m : Mod) (k : Nat) : (m.fioMark k).sw = m.sw := rfl
@[simp] theorem Mod.fioMark_nvm (m : Mod) (k : Nat) : (m.fioMark k).nvm = m.nvm := rfl
@[simp] theorem Mod.fioMark_jack (m : Mod) (k : Nat) : (m.fioMark k).jack = m.jack := rfl
@[simp] theorem Mod.fioMark_safe (m : Mod) (k : Nat) : (m.fioMark k).safe = m.safe := rfl
@[simp] theorem Mod.fioMark_loops (m : Mod) (k : Nat) : (m.fioMark k).loops = m.loops := rfl
@[simp] theorem Mod.fioMark_tests (m : Mod) (k : Nat) : (m.fioMark k).tests = m.tests := rfl
@[simp] theorem Mod.fioMark_met (m : Mod) (k : Nat) : (m.fioMark k).met = m.met := rfl
@[simp] theorem Mod.fioMark_ports (m : Mod) (k : Nat) : (m.fioMark k).ports = m.ports := rfl
@[simp] theorem Mod.fioMark_twin (m : Mod) (k : Nat) : (m.fioMark k).twin = m.twin := rfl
@[simp] theorem Mod.fioMark_orpor (m : Mod) (k : Nat) : (m.fioMark k).orpor = m.orpor := rfl
@[simp] theorem Mod.fioMark_upl (m : Mod) (k : Nat) : (m.fioMark k).upl = m.upl := rfl
@[simp] theorem Mod.fioMark_pool (m : Mod) (k : Nat) : (m.fioMark k).pool = m.pool := rfl
@[simp] theorem Mod.fioMark_rtc (m : Mod) (k : Nat) : (m.fioMark k).rtc = m.rtc := rfl
@[simp] theorem Mod.fioMark_key (m : Mod) (k : Nat) : (m.fioMark k).key = m.key := rfl
@[simp] theorem Mod.fioMark_pwr (m : Mod) (k : Nat) : (m.fioMark k).pwr = m.pwr := rfl
@[simp] theorem Mod.pdSet_fx (m : Mod) (ds : List Nat) (on : Bool) : (m.pdSet ds on).fx = m.fx := rfl
@[simp] theorem Mod.pdSet_regs (m : Mod) (ds : List Nat) (on : Bool) : (m.pdSet ds on).regs = m.regs := rfl
@[simp] theorem Mod.pdSet_freeCtr (m : Mod) (ds : List Nat) (on : Bool) : (m.pdSet ds on).freeCtr = m.freeCtr := rfl
@[simp] theorem Mod.pdSet_clk (m : Mod) (ds : List Nat) (on : Bool) : (m.pdSet ds on).clk = m.clk := rfl
@[simp] theorem Mod.pdSet_fired (m : Mod) (ds : List Nat) (on : Bool) : (m.pdSet ds on).fired = m.fired := rfl
@[simp] theorem Mod.pdSet_mem (m : Mod) (ds : List Nat) (on : Bool) : (m.pdSet ds on).mem = m.mem := rfl
@[simp] theorem Mod.pdSet_plan (m : Mod) (ds : List Nat) (on : Bool) : (m.pdSet ds on).plan = m.plan := rfl
@[simp] theorem Mod.pdSet_lanes (m : Mod) (ds : List Nat) (on : Bool) : (m.pdSet ds on).lanes = m.lanes := rfl
@[simp] theorem Mod.pdSet_exec (m : Mod) (ds : List Nat) (on : Bool) : (m.pdSet ds on).exec = m.exec := rfl
@[simp] theorem Mod.pdSet_outs (m : Mod) (ds : List Nat) (on : Bool) : (m.pdSet ds on).outs = m.outs := rfl
@[simp] theorem Mod.pdSet_bit (m : Mod) (ds : List Nat) (on : Bool) : (m.pdSet ds on).bit = m.bit := rfl
@[simp] theorem Mod.pdSet_retain (m : Mod) (ds : List Nat) (on : Bool) : (m.pdSet ds on).retain = m.retain := rfl
@[simp] theorem Mod.pdSet_logs (m : Mod) (ds : List Nat) (on : Bool) : (m.pdSet ds on).logs = m.logs := rfl
@[simp] theorem Mod.pdSet_sw (m : Mod) (ds : List Nat) (on : Bool) : (m.pdSet ds on).sw = m.sw := rfl
@[simp] theorem Mod.pdSet_nvm (m : Mod) (ds : List Nat) (on : Bool) : (m.pdSet ds on).nvm = m.nvm := rfl
@[simp] theorem Mod.pdSet_jack (m : Mod) (ds : List Nat) (on : Bool) : (m.pdSet ds on).jack = m.jack := rfl
@[simp] theorem Mod.pdSet_fio (m : Mod) (ds : List Nat) (on : Bool) : (m.pdSet ds on).fio = m.fio := rfl
@[simp] theorem Mod.pdSet_safe (m : Mod) (ds : List Nat) (on : Bool) : (m.pdSet ds on).safe = m.safe := rfl
@[simp] theorem Mod.pdSet_loops (m : Mod) (ds : List Nat) (on : Bool) : (m.pdSet ds on).loops = m.loops := rfl
@[simp] theorem Mod.pdSet_tests (m : Mod) (ds : List Nat) (on : Bool) : (m.pdSet ds on).tests = m.tests := rfl
@[simp] theorem Mod.pdSet_met (m : Mod) (ds : List Nat) (on : Bool) : (m.pdSet ds on).met = m.met := rfl
@[simp] theorem Mod.pdSet_ports (m : Mod) (ds : List Nat) (on : Bool) : (m.pdSet ds on).ports = m.ports := rfl
@[simp] theorem Mod.pdSet_twin (m : Mod) (ds : List Nat) (on : Bool) : (m.pdSet ds on).twin = m.twin := rfl
@[simp] theorem Mod.pdSet_orpor (m : Mod) (ds : List Nat) (on : Bool) : (m.pdSet ds on).orpor = m.orpor := rfl
@[simp] theorem Mod.pdSet_upl (m : Mod) (ds : List Nat) (on : Bool) : (m.pdSet ds on).upl = m.upl := rfl
@[simp] theorem Mod.pdSet_pool (m : Mod) (ds : List Nat) (on : Bool) : (m.pdSet ds on).pool = m.pool := rfl
@[simp] theorem Mod.pdSet_rtc (m : Mod) (ds : List Nat) (on : Bool) : (m.pdSet ds on).rtc = m.rtc := rfl
@[simp] theorem Mod.pdSet_key (m : Mod) (ds : List Nat) (on : Bool) : (m.pdSet ds on).key = m.key := rfl
@[simp] theorem Mod.pdRegs_fx (m : Mod) (d : Nat) : (m.pdRegs d).fx = m.fx := rfl
@[simp] theorem Mod.pdRegs_freeCtr (m : Mod) (d : Nat) : (m.pdRegs d).freeCtr = m.freeCtr := rfl
@[simp] theorem Mod.pdRegs_clk (m : Mod) (d : Nat) : (m.pdRegs d).clk = m.clk := rfl
@[simp] theorem Mod.pdRegs_fired (m : Mod) (d : Nat) : (m.pdRegs d).fired = m.fired := rfl
@[simp] theorem Mod.pdRegs_mem (m : Mod) (d : Nat) : (m.pdRegs d).mem = m.mem := rfl
@[simp] theorem Mod.pdRegs_plan (m : Mod) (d : Nat) : (m.pdRegs d).plan = m.plan := rfl
@[simp] theorem Mod.pdRegs_lanes (m : Mod) (d : Nat) : (m.pdRegs d).lanes = m.lanes := rfl
@[simp] theorem Mod.pdRegs_exec (m : Mod) (d : Nat) : (m.pdRegs d).exec = m.exec := rfl
@[simp] theorem Mod.pdRegs_outs (m : Mod) (d : Nat) : (m.pdRegs d).outs = m.outs := rfl
@[simp] theorem Mod.pdRegs_bit (m : Mod) (d : Nat) : (m.pdRegs d).bit = m.bit := rfl
@[simp] theorem Mod.pdRegs_retain (m : Mod) (d : Nat) : (m.pdRegs d).retain = m.retain := rfl
@[simp] theorem Mod.pdRegs_logs (m : Mod) (d : Nat) : (m.pdRegs d).logs = m.logs := rfl
@[simp] theorem Mod.pdRegs_sw (m : Mod) (d : Nat) : (m.pdRegs d).sw = m.sw := rfl
@[simp] theorem Mod.pdRegs_nvm (m : Mod) (d : Nat) : (m.pdRegs d).nvm = m.nvm := rfl
@[simp] theorem Mod.pdRegs_jack (m : Mod) (d : Nat) : (m.pdRegs d).jack = m.jack := rfl
@[simp] theorem Mod.pdRegs_fio (m : Mod) (d : Nat) : (m.pdRegs d).fio = m.fio := rfl
@[simp] theorem Mod.pdRegs_safe (m : Mod) (d : Nat) : (m.pdRegs d).safe = m.safe := rfl
@[simp] theorem Mod.pdRegs_loops (m : Mod) (d : Nat) : (m.pdRegs d).loops = m.loops := rfl
@[simp] theorem Mod.pdRegs_tests (m : Mod) (d : Nat) : (m.pdRegs d).tests = m.tests := rfl
@[simp] theorem Mod.pdRegs_met (m : Mod) (d : Nat) : (m.pdRegs d).met = m.met := rfl
@[simp] theorem Mod.pdRegs_ports (m : Mod) (d : Nat) : (m.pdRegs d).ports = m.ports := rfl
@[simp] theorem Mod.pdRegs_twin (m : Mod) (d : Nat) : (m.pdRegs d).twin = m.twin := rfl
@[simp] theorem Mod.pdRegs_orpor (m : Mod) (d : Nat) : (m.pdRegs d).orpor = m.orpor := rfl
@[simp] theorem Mod.pdRegs_upl (m : Mod) (d : Nat) : (m.pdRegs d).upl = m.upl := rfl
@[simp] theorem Mod.pdRegs_pool (m : Mod) (d : Nat) : (m.pdRegs d).pool = m.pool := rfl
@[simp] theorem Mod.pdRegs_rtc (m : Mod) (d : Nat) : (m.pdRegs d).rtc = m.rtc := rfl
@[simp] theorem Mod.pdRegs_key (m : Mod) (d : Nat) : (m.pdRegs d).key = m.key := rfl
@[simp] theorem Mod.pdRegs_pwr (m : Mod) (d : Nat) : (m.pdRegs d).pwr = m.pwr := rfl
@[simp] theorem Mod.poolDrop_fx (m : Mod) (c : Fin 12) : (m.poolDrop c).fx = m.fx := rfl
@[simp] theorem Mod.poolDrop_regs (m : Mod) (c : Fin 12) : (m.poolDrop c).regs = m.regs := rfl
@[simp] theorem Mod.poolDrop_freeCtr (m : Mod) (c : Fin 12) : (m.poolDrop c).freeCtr = m.freeCtr := rfl
@[simp] theorem Mod.poolDrop_clk (m : Mod) (c : Fin 12) : (m.poolDrop c).clk = m.clk := rfl
@[simp] theorem Mod.poolDrop_fired (m : Mod) (c : Fin 12) : (m.poolDrop c).fired = m.fired := rfl
@[simp] theorem Mod.poolDrop_mem (m : Mod) (c : Fin 12) : (m.poolDrop c).mem = m.mem := rfl
@[simp] theorem Mod.poolDrop_plan (m : Mod) (c : Fin 12) : (m.poolDrop c).plan = m.plan := rfl
@[simp] theorem Mod.poolDrop_lanes (m : Mod) (c : Fin 12) : (m.poolDrop c).lanes = m.lanes := rfl
@[simp] theorem Mod.poolDrop_exec (m : Mod) (c : Fin 12) : (m.poolDrop c).exec = m.exec := rfl
@[simp] theorem Mod.poolDrop_outs (m : Mod) (c : Fin 12) : (m.poolDrop c).outs = m.outs := rfl
@[simp] theorem Mod.poolDrop_bit (m : Mod) (c : Fin 12) : (m.poolDrop c).bit = m.bit := rfl
@[simp] theorem Mod.poolDrop_retain (m : Mod) (c : Fin 12) : (m.poolDrop c).retain = m.retain := rfl
@[simp] theorem Mod.poolDrop_logs (m : Mod) (c : Fin 12) : (m.poolDrop c).logs = m.logs := rfl
@[simp] theorem Mod.poolDrop_sw (m : Mod) (c : Fin 12) : (m.poolDrop c).sw = m.sw := rfl
@[simp] theorem Mod.poolDrop_nvm (m : Mod) (c : Fin 12) : (m.poolDrop c).nvm = m.nvm := rfl
@[simp] theorem Mod.poolDrop_jack (m : Mod) (c : Fin 12) : (m.poolDrop c).jack = m.jack := rfl
@[simp] theorem Mod.poolDrop_fio (m : Mod) (c : Fin 12) : (m.poolDrop c).fio = m.fio := rfl
@[simp] theorem Mod.poolDrop_safe (m : Mod) (c : Fin 12) : (m.poolDrop c).safe = m.safe := rfl
@[simp] theorem Mod.poolDrop_loops (m : Mod) (c : Fin 12) : (m.poolDrop c).loops = m.loops := rfl
@[simp] theorem Mod.poolDrop_tests (m : Mod) (c : Fin 12) : (m.poolDrop c).tests = m.tests := rfl
@[simp] theorem Mod.poolDrop_met (m : Mod) (c : Fin 12) : (m.poolDrop c).met = m.met := rfl
@[simp] theorem Mod.poolDrop_ports (m : Mod) (c : Fin 12) : (m.poolDrop c).ports = m.ports := rfl
@[simp] theorem Mod.poolDrop_twin (m : Mod) (c : Fin 12) : (m.poolDrop c).twin = m.twin := rfl
@[simp] theorem Mod.poolDrop_orpor (m : Mod) (c : Fin 12) : (m.poolDrop c).orpor = m.orpor := rfl
@[simp] theorem Mod.poolDrop_upl (m : Mod) (c : Fin 12) : (m.poolDrop c).upl = m.upl := rfl
@[simp] theorem Mod.poolDrop_rtc (m : Mod) (c : Fin 12) : (m.poolDrop c).rtc = m.rtc := rfl
@[simp] theorem Mod.poolDrop_key (m : Mod) (c : Fin 12) : (m.poolDrop c).key = m.key := rfl
@[simp] theorem Mod.poolDrop_pwr (m : Mod) (c : Fin 12) : (m.poolDrop c).pwr = m.pwr := rfl
@[simp] theorem Mod.closeAll_fx (m : Mod) : (m.closeAll).fx = m.fx := rfl
@[simp] theorem Mod.closeAll_regs (m : Mod) : (m.closeAll).regs = m.regs := rfl
@[simp] theorem Mod.closeAll_freeCtr (m : Mod) : (m.closeAll).freeCtr = m.freeCtr := rfl
@[simp] theorem Mod.closeAll_clk (m : Mod) : (m.closeAll).clk = m.clk := rfl
@[simp] theorem Mod.closeAll_fired (m : Mod) : (m.closeAll).fired = m.fired := rfl
@[simp] theorem Mod.closeAll_mem (m : Mod) : (m.closeAll).mem = m.mem := rfl
@[simp] theorem Mod.closeAll_plan (m : Mod) : (m.closeAll).plan = m.plan := rfl
@[simp] theorem Mod.closeAll_lanes (m : Mod) : (m.closeAll).lanes = m.lanes := rfl
@[simp] theorem Mod.closeAll_outs (m : Mod) : (m.closeAll).outs = m.outs := rfl
@[simp] theorem Mod.closeAll_bit (m : Mod) : (m.closeAll).bit = m.bit := rfl
@[simp] theorem Mod.closeAll_retain (m : Mod) : (m.closeAll).retain = m.retain := rfl
@[simp] theorem Mod.closeAll_logs (m : Mod) : (m.closeAll).logs = m.logs := rfl
@[simp] theorem Mod.closeAll_sw (m : Mod) : (m.closeAll).sw = m.sw := rfl
@[simp] theorem Mod.closeAll_nvm (m : Mod) : (m.closeAll).nvm = m.nvm := rfl
@[simp] theorem Mod.closeAll_jack (m : Mod) : (m.closeAll).jack = m.jack := rfl
@[simp] theorem Mod.closeAll_fio (m : Mod) : (m.closeAll).fio = m.fio := rfl
@[simp] theorem Mod.closeAll_safe (m : Mod) : (m.closeAll).safe = m.safe := rfl
@[simp] theorem Mod.closeAll_loops (m : Mod) : (m.closeAll).loops = m.loops := rfl
@[simp] theorem Mod.closeAll_tests (m : Mod) : (m.closeAll).tests = m.tests := rfl
@[simp] theorem Mod.closeAll_met (m : Mod) : (m.closeAll).met = m.met := rfl
@[simp] theorem Mod.closeAll_ports (m : Mod) : (m.closeAll).ports = m.ports := rfl
@[simp] theorem Mod.closeAll_twin (m : Mod) : (m.closeAll).twin = m.twin := rfl
@[simp] theorem Mod.closeAll_upl (m : Mod) : (m.closeAll).upl = m.upl := rfl
@[simp] theorem Mod.closeAll_pool (m : Mod) : (m.closeAll).pool = m.pool := rfl
@[simp] theorem Mod.closeAll_rtc (m : Mod) : (m.closeAll).rtc = m.rtc := rfl
@[simp] theorem Mod.closeAll_key (m : Mod) : (m.closeAll).key = m.key := rfl
@[simp] theorem Mod.closeAll_pwr (m : Mod) : (m.closeAll).pwr = m.pwr := rfl
@[simp] theorem Mod.srcMap_fx (m : Mod) (x : Source) (f : SrcSt → SrcSt) : (m.srcMap x f).fx = m.fx := rfl
@[simp] theorem Mod.srcMap_regs (m : Mod) (x : Source) (f : SrcSt → SrcSt) : (m.srcMap x f).regs = m.regs := rfl
@[simp] theorem Mod.srcMap_freeCtr (m : Mod) (x : Source) (f : SrcSt → SrcSt) : (m.srcMap x f).freeCtr = m.freeCtr := rfl
@[simp] theorem Mod.srcMap_fired (m : Mod) (x : Source) (f : SrcSt → SrcSt) : (m.srcMap x f).fired = m.fired := rfl
@[simp] theorem Mod.srcMap_mem (m : Mod) (x : Source) (f : SrcSt → SrcSt) : (m.srcMap x f).mem = m.mem := rfl
@[simp] theorem Mod.srcMap_plan (m : Mod) (x : Source) (f : SrcSt → SrcSt) : (m.srcMap x f).plan = m.plan := rfl
@[simp] theorem Mod.srcMap_lanes (m : Mod) (x : Source) (f : SrcSt → SrcSt) : (m.srcMap x f).lanes = m.lanes := rfl
@[simp] theorem Mod.srcMap_exec (m : Mod) (x : Source) (f : SrcSt → SrcSt) : (m.srcMap x f).exec = m.exec := rfl
@[simp] theorem Mod.srcMap_outs (m : Mod) (x : Source) (f : SrcSt → SrcSt) : (m.srcMap x f).outs = m.outs := rfl
@[simp] theorem Mod.srcMap_bit (m : Mod) (x : Source) (f : SrcSt → SrcSt) : (m.srcMap x f).bit = m.bit := rfl
@[simp] theorem Mod.srcMap_retain (m : Mod) (x : Source) (f : SrcSt → SrcSt) : (m.srcMap x f).retain = m.retain := rfl
@[simp] theorem Mod.srcMap_logs (m : Mod) (x : Source) (f : SrcSt → SrcSt) : (m.srcMap x f).logs = m.logs := rfl
@[simp] theorem Mod.srcMap_sw (m : Mod) (x : Source) (f : SrcSt → SrcSt) : (m.srcMap x f).sw = m.sw := rfl
@[simp] theorem Mod.srcMap_nvm (m : Mod) (x : Source) (f : SrcSt → SrcSt) : (m.srcMap x f).nvm = m.nvm := rfl
@[simp] theorem Mod.srcMap_jack (m : Mod) (x : Source) (f : SrcSt → SrcSt) : (m.srcMap x f).jack = m.jack := rfl
@[simp] theorem Mod.srcMap_fio (m : Mod) (x : Source) (f : SrcSt → SrcSt) : (m.srcMap x f).fio = m.fio := rfl
@[simp] theorem Mod.srcMap_safe (m : Mod) (x : Source) (f : SrcSt → SrcSt) : (m.srcMap x f).safe = m.safe := rfl
@[simp] theorem Mod.srcMap_loops (m : Mod) (x : Source) (f : SrcSt → SrcSt) : (m.srcMap x f).loops = m.loops := rfl
@[simp] theorem Mod.srcMap_tests (m : Mod) (x : Source) (f : SrcSt → SrcSt) : (m.srcMap x f).tests = m.tests := rfl
@[simp] theorem Mod.srcMap_met (m : Mod) (x : Source) (f : SrcSt → SrcSt) : (m.srcMap x f).met = m.met := rfl
@[simp] theorem Mod.srcMap_ports (m : Mod) (x : Source) (f : SrcSt → SrcSt) : (m.srcMap x f).ports = m.ports := rfl
@[simp] theorem Mod.srcMap_twin (m : Mod) (x : Source) (f : SrcSt → SrcSt) : (m.srcMap x f).twin = m.twin := rfl
@[simp] theorem Mod.srcMap_orpor (m : Mod) (x : Source) (f : SrcSt → SrcSt) : (m.srcMap x f).orpor = m.orpor := rfl
@[simp] theorem Mod.srcMap_upl (m : Mod) (x : Source) (f : SrcSt → SrcSt) : (m.srcMap x f).upl = m.upl := rfl
@[simp] theorem Mod.srcMap_pool (m : Mod) (x : Source) (f : SrcSt → SrcSt) : (m.srcMap x f).pool = m.pool := rfl
@[simp] theorem Mod.srcMap_rtc (m : Mod) (x : Source) (f : SrcSt → SrcSt) : (m.srcMap x f).rtc = m.rtc := rfl
@[simp] theorem Mod.srcMap_key (m : Mod) (x : Source) (f : SrcSt → SrcSt) : (m.srcMap x f).key = m.key := rfl
@[simp] theorem Mod.srcMap_pwr (m : Mod) (x : Source) (f : SrcSt → SrcSt) : (m.srcMap x f).pwr = m.pwr := rfl

end Sys2Proof.Machine
end

