-- ==== Sys2Proof/Tests/Slice0.lean ====
section
/-! SUPPORT. Tests: the smoke test of WellFormed, decoded words and worked examples of the manual, and for every statement a state and operands
that meet its hypotheses. -/

set_option linter.unusedVariables false
set_option Elab.async false

namespace Sys2Proof.Tests

open Sys2Proof Sys2Proof.Machine

/-- The module a meaning answers with. -/
def after (o : Out) : Mod := match o with | .next t => t.m | _ => Mod.reset

/-- A state with no command waiting. -/
def at_ (m : Mod) : State := ⟨m, []⟩

/-- A plan with one task of four words in lane 0. -/
def onePlan : Plan := { tasks := [{ idx := 0, lane := 0, cls := 0, words := 4 }] }

/-- Lane 0 stands at the first word of its task, which is `w`, with `w2` after it. -/
def laneAt (w : Nat) (w2 : Nat := 0) : State :=
  at_ { Mod.reset with
    plan := { active := some onePlan }
    lanes := Mod.reset.lanes.set 0 { task := some 0, phase := .exec, buf := memWriteN 0 [] 0 (leBytes 4 w ++ leBytes 4 w2) } }

/-- Lane 0 of `laneAt` stands at its word. -/
theorem laneAt_runs {w w2 : Nat} {o : Option Nat} (h : fetched (laneAt w w2).m 0 w o = true) : Runs (laneAt w w2) 0 w o := by
  unfold fetched at h
  simp only [Bool.and_eq_true, beq_iff_eq, decide_eq_true_eq] at h
  obtain ⟨⟨⟨h1, h2⟩, h3⟩, h4⟩ := h
  refine ⟨h1, h2, h3, ?_⟩
  cases o with
  | none => rfl
  | some x => simpa using h4


/-- Register fields set. -/
def rig (fs : List (Fld × Nat)) (m : Mod := Mod.reset) : Mod := fs.foldl (fun m x => m.set x.1 x.2) m

/-- Functions switched on. -/
def lit (l : List (Fin 31)) (m : Mod) : Mod := { m with sw := Vector.ofFn (fun i => if l.contains i then { ph := .on } else m.sw[i]) }

/-- BIT, with a running cycle whose words are `ws`; DO01 to DO04 are the program's. -/
def bitOn (ws : List Nat) : State :=
  at_ { rig [(F.EXEC_STATE_STATE, 3), (F.EXEC_BIT_RUNNING, 1)] with
    bit := { prog := ws.map (BitVec.ofNat 16), inCycle := true, doMask := 15, acc := true, stack := [true] } }

/-- Two Jack entries on input 0: entry 0 drives DO01 to 0 and latches with release time 5 ms, entry 1 drives SO1A to 0 and latches. -/
def jackPlan : Plan := { jack := [0x00050C00AAAFFFE0#64, 0x00000D80AAAFFFE0#64] }

/-- RUN with that plan, the Jack path enabled and both latches held with the input back at 0. -/
def jackHeld : State :=
  at_ { rig [(F.EXEC_STATE_STATE, 5), (F.JACK_STATUS_EN, 1), (F.JACK_STATUS_ACTIVE, 2), (F.JACK_ACT_ACT 0, 3)] with
    plan := { active := some jackPlan }, jack := { enabled := true, active := [0, 1], latched := [0, 1] }
    orpor := { sessions := [(1, { role := .service }), (2, { role := .safety, unlocked := true })] } }

/-- A plan with a request of station 5 for point 7 on every port, and the filter 0 to 0x7FF on CAN-1. -/
def netPlan : Plan :=
  { reqs := (List.range 19).map (fun p => { port := p, idx := 0, station := 5, write := false, points := [7] })
    remotes := (List.range 19).map (fun p => { point := 7, port := p, req := 0, len := 16 })
    filters := [(0, 0x000007FF40000000#64)] }

/-- Port `p` enabled with protocol `proto` and RETRY 1, an exchange of its request in progress after `att` further attempts. -/
def netAt (p : Fin 19) (proto att : Nat) (more : List (Fld × Nat) := []) (x : PortSt := {}) (run : Bool := true) : State :=
  at_ (lit [10, 29] { rig ([(F.EXEC_STATE_STATE, 5), (F.FBUS_CFG_EN p.val, 1), (F.FBUS_CFG_PROTO p.val, proto), (F.FBUS_CFG_RETRY p.val, 1)] ++ more) with
    plan := { active := some netPlan }
    ports := { port := (Vector.replicate 19 {}).set p { x with exch := if run then some { req := 0, attempt := att } else none } } })

/-- A module with uplink B and the pool on, the link of uplink B up at a speed, settings of its reset values. -/
def linkAt (speed : Nat) (more : List (Fld × Nat) := []) (x : UplSt := {}) (fs : List PoolFrame := []) : State :=
  at_ (lit [3, 11, 12, 14, 18] { rig ([(F.EXEC_STATE_STATE, 5), (F.FPOOL_STATUS_CLEARING, 0), (F.UPL_STATUS_LINK 1, 1), (F.UPL_STATUS_SPEED 1, speed)] ++ more) with
    upl := Vector.ofFn (fun u => { x with live := resetUpl u.val }), pool := { frames := fs }
    orpor := { sessions := [(1, { role := .service, transport := 1 })] } })

/-- An Orpor header: flags, opcode, session, tag, SEQ, PLEN. -/
def orporHdr (flags op session tag seq plen : Nat) : List Byte := hdrBytes flags op session tag seq 0 plen 0

/-- RUN with session 1 (SERVICE) on uplink A, a packet waiting in its preemptable receive channel. -/
def packetAt (p : List Byte) (fs : List (Fld × Nat) := []) (st : Nat := 5) : State :=
  at_ (lit [3, 14] { rig ([(F.EXEC_STATE_STATE, st), (F.FPOOL_STATUS_CLEARING, 0)] ++ fs) with
    pool := { frames := [{ ch := 1, cells := 1, packet := some p }] }, orpor := { sessions := [(1, { role := .service })] } })

/-- Test generator 3 has recorded PVs 0, 1, 1 in window 0 and is complete. -/
def testDone (fs : List (Fld × Nat)) : State :=
  let m : Mod := { rig ([(F.REGION_ATTR_EN 9 0, 1), (F.REGION_ATTR_R 9 0, 1), (F.REGION_LIMIT_LIMIT 9 0, 8191), (F.LOOPTEST_STATUS_STATE 3, 2), (F.LOOPTEST_SHAPE_DELAY 3, 1), (F.LOOPTEST_LENGTH_LENGTH 3, 2), (F.LOOPTEST_AMP_AMP 3, 0x40000000),
    (F.CBW_LENGTH_LENGTH 0, 8), (F.CBW_HEAD_HEAD 0, 3)] ++ fs) with mem := { cells := [(42, 0x80), (43, 0x3F), (74, 0x80), (75, 0x3F)] } }
  at_ { m with mem := { m.mem with dir := [(0, { kind := .point, crc := tileCrc 0 (m.tileBytes 0) })] } }

/-- The module much later: operating time 10,000 s. -/
def idleAt (m : Mod) : State := at_ { m with nvm := { counters := Vector.replicate 24 (⟨10000000, true⟩, ⟨0, true⟩) } }

/-- A packet of OP_SESS_INFO in session 1 with SEQ 5 and tag 3, sealed under the session's (empty) key. -/
def infoPacket : List Byte :=
  orporHdr 0 3 1 3 5 0 ++ gcmSeal [] (sessNonce 1 5 0 false) (orporHdr 0 3 1 3 5 0) []

/-- An OPEN of role 3 (SERVICE), authenticated by that role's credential in `m`. -/
def openPacket (m : Mod) : List Byte :=
  let body := orporHdr 8 1 0 3 0 20 ++ [3#8, 0#8, 0#8, 0#8] ++ List.replicate 16 7#8
  body ++ leBytes 16 (Config.gcmTag (m.credential 3 0) (List.replicate 12 7#8) body []).toNat

/-- RUN, with no plan loaded. -/
def opBase : Mod := rig [(F.EXEC_STATE_STATE, 5)]

/-- `m` with session 1 like `x`, which has one command in flight: opcode `op`, SEQ 5, these parameters. -/
def opAt (op : Nat) (ps : List Byte) (m : Mod) (x : Sess) : State :=
  at_ { m with orpor := { m.orpor with
    sessions := mapPut 1 { x with flight := [{ seq := 5, tag := 3, op := op, urgent := false, params := ps }] } m.orpor.sessions, order := [(1, 5)] } }

/-- Its session and its command. -/
def sessOf (s : State) : Sess := (s.m.sess 1).getD { role := .tenant }
def cmdOf (s : State) : Cmd := (sessOf s).flight.headD { seq := 0, tag := 0, op := 0, urgent := false, params := [] }

/-- RUN with point 3 (BOOL, free) in slot 2 of tile 0, and tiles 0 to 8191 open to the management core. -/
def ptMod : Mod :=
  { rig [(F.EXEC_STATE_STATE, 5), (F.EXEC_STATE_NOPLAN, 0), (F.REGION_ATTR_EN 9 0, 1), (F.REGION_ATTR_R 9 0, 1), (F.REGION_ATTR_W 9 0, 1), (F.REGION_LIMIT_LIMIT 9 0, 8191)] with
    plan := { active := some { points := [{ idx := 3, tile := 0, slot := 2, ty := 1, cls := 0 }] } }
    clk := { ns := 1000 }, exec := { windowEnd := 2000, windowAt := 900 }
    mem := { pmap := [(3, ⟨0, 2, 1⟩)], dir := [(0, { kind := .point, crc := tileCrc 0 (Mod.reset.tileBytes 0) })] } }

/-- That plan with window 0 in tile 0: 3 records of 32 bytes, the newest at place 0, two of them from a running capture and a test. -/
def winMod : Mod :=
  let m := rig [(F.CBW_STRIDE_STRIDE 0, 2), (F.CBW_LENGTH_LENGTH 0, 3), (F.CBW_HEAD_HEAD 0, 1), (F.LOOPTEST_STATUS_K 0, 2)] ptMod
  let m := { m with mem := { m.mem with cells := [(3, 7), (70, 9)] }, met := { capture := some 2 } }
  { m with mem := { m.mem with dir := [(0, { kind := .point, crc := tileCrc 0 (m.tileBytes 0) })] } }

/-- A whole transfer of two bytes; a key staged in slot 1, 00 11 under a mask of FF bytes. -/
def updTwo : Xfer := { len := 2, digest := [], got := [(0, 1), (1, 2)] }
def stagedOne : Staged := { a := [0xFF, 0xEE], b := [0xFF, 0xFF], at_ := 0 }
def stagedMod : Mod := { opBase with key := { opBase.key with slots := opBase.key.slots.set 1 { staged := some stagedOne } } }

/-- RUN with PD13 and PLL-N usable and the String link up. -/
def twinMod : Mod := rig [(F.TWIN_STATUS_LINK_UP, 1)] (lit [13, 18] opBase)

/-- One Drum entry at instant 0, and a state with that entry, a plan and building time that runs. -/
def drumWord (kind target arg : Nat) : BitVec 64 := BitVec.ofNat 64 (kind * 2 ^ 34 + target * 2 ^ 38 + arg * 2 ^ 48)
def drumAt (kind target arg : Nat) (st : Nat := 5) (on : List (Fin 31) := []) (pl : Plan := onePlan) (fs : List (Fld × Nat) := []) : State :=
  at_ { lit on (rig ([(F.EXEC_STATE_STATE, st), (F.EXEC_STATE_NOPLAN, 0)] ++ fs)) with
    plan := { active := some pl, drumA := [drumWord kind target arg] }, clk := { run := true } }

/-- A LOOP_RUN of loop 255 in a mode: PV 10, SP 20 and OUT are points 1 to 3 of tile 0, which the engine may read. -/
def loopAt (mode : Nat) : State :=
  let m := (drumAt 6 255 0 (on := [15]) (fs := [(F.LOOP_CFG_TYPE 255, 1), (F.LOOP_MODE_ACT 255, mode), (F.LOOP_POINTS_PV 255, 1), (F.LOOP_POINTS_SP 255, 2), (F.LOOP_OUTPT_OUT 255, 3),
    (F.LOOP_OUT_HI_HI 255, 0x42C80000), (F.LOOP_MAN_OUT_MAN 255, 0x41200000), (F.LOOP_KP_KP 255, 0x3F800000), (F.REGION_ATTR_EN 8 0, 1), (F.REGION_ATTR_R 8 0, 1), (F.REGION_ATTR_W 8 0, 1),
    (F.REGION_LIMIT_LIMIT 8 0, 8191)])).m
  let m := { m with mem := { m.mem with
    cells := [(18, 0x20), (19, 0x41), (24, 1), (34, 0xA0), (35, 0x41), (40, 1), (56, 1)], pmap := [(1, ⟨0, 1, 6⟩), (2, ⟨0, 2, 6⟩), (3, ⟨0, 3, 6⟩)] } }
  at_ { m with mem := { m.mem with dir := [(0, { kind := .point, crc := tileCrc 0 (m.tileBytes 0) })] }
               loops := [(255, { base := mode, cold := false, warm := false, kp := 0x3F800000 })] }

/-- A bit program of one word, END, with this SO_MASK, and the parameters that load it in one block. -/
def bitRecord (soMask : Nat) : List Byte :=
  let b := leBytes 4 0x54424C42 ++ leBytes 2 1 ++ leBytes 6 0 ++ leBytes 4 soMask ++ List.replicate 32 0 ++ leBytes 2 0xF800
  b ++ leBytes 4 (crc32c b)
def bitLoad : List Byte := leBytes 4 54 ++ leBytes 4 0 ++ bitRecord 0
def bitLoadSo : List Byte := leBytes 4 54 ++ leBytes 4 0 ++ bitRecord 1

/-- A region of a master in units of 256 bytes, for reads and writes. -/
def rwRegion (mst k lo hi : Nat) : List (Fld × Nat) :=
  [(F.REGION_BASE_BASE mst k, lo), (F.REGION_LIMIT_LIMIT mst k, hi), (F.REGION_ATTR_EN mst k, 1), (F.REGION_ATTR_R mst k, 1), (F.REGION_ATTR_W mst k, 1)]

/-- A plan that passes verification: one class of 20 ms, a management window every 8 ms, and the regions that core and frame engine need. -/
def goodPlan : Plan :=
  { id := 77, digest := 77, hwType := 0x5A0F4096, sections := [1, 2, 3, 4, 9, 10], classes := [{ period := 4, launch := 5000000 }]
    scopes := [{ scope := 0, meters := List.range 96, logs := List.range 16 }]
    regImage := (rwRegion 9 0 0x2000 0x3FFF ++ rwRegion 9 1 0x5000 0x5FFF ++ rwRegion 10 0 0x2000 0x3FFF).foldl (fun r x => fldSet r x.1 x.2) []
    drum := (List.range 125).map (fun i => BitVec.ofNat 64 (64 * i + 11 * 2 ^ 34 + 20 * 2 ^ 48)) }

/-- PD1 to PD3 usable, building time running, with a plan, in a state. -/
def upMod (st : Nat) (fs : List (Fld × Nat) := []) : Mod :=
  { lit [1, 2, 3, 16, 20] (rig ([(F.EXEC_STATE_STATE, st), (F.PWR_STATUS_VIN_OK, 1)] ++ fs)) with
    plan := { active := some onePlan }, clk := { run := true, ns := 1000 }, exec := { heartbeat := true }, pwr := { want := 14 } }

/-- A Drum entry at `t` ns of the second. -/
def entry (t kind target arg : Nat) : BitVec 64 :=
  BitVec.ofNat 64 (t / 125000 + t % 125000 * 2 ^ 13 + kind * 2 ^ 34 + target * 2 ^ 38 + arg * 2 ^ 48)

/-- A plan that the planner may build, the package being the plan itself: one class of 1 s, a woken management window every 8 ms, and the digest that the
planner fixes (R57). -/
def builtPlan : Plan :=
  { goodPlan with
    digest := Config.planDigest 0 0 0
    id := Config.planDigest 0 0 0 % 2 ^ 32
    classes := [{ period := 7, launch := 5000000 }]
    quotas := (List.range 12).map (fun c => (c, poolFloor c, poolFloor c + 6624))
    drum := [entry 0 dkFreeze 1 0, entry 0 dkBurst 1 0, entry 976000 dkWakeM 0 0, entry 1000000 dkMgmtWin 0 20, entry 5000000 dkLaunch 0 0]
      ++ (List.range 124).flatMap (fun i => [entry (8976000 + 8000000 * i) dkWakeM 0 0, entry (9000000 + 8000000 * i) dkMgmtWin 0 20])
      ++ [entry 999984000 dkWakeF 0 0] }

/-- The planner's refusal of a package of digest 0. -/
def refused : Nat × Nat := Config.planRefusal 0 0 0

/-- PLANNING for a start, a package that was sent, and a suspect bank in RUN, all with that plan as the package. -/
def startMod : Mod :=
  { upMod 4 with exec := { heartbeat := true, startType := some 1 }, plan := { slots := Mod.reset.plan.slots.set 0 (some builtPlan) } }
def sentMod (img : Option Plan) : Mod :=
  { upMod 5 [(F.PLAN_STATUS_STATE, 2)] with plan := { active := some onePlan, sent := some (if img.isSome then goodPlan else builtPlan), image := img } }
def replanMod : Mod :=
  { upMod 5 with plan := { active := some {}, replan := true, slots := Mod.reset.plan.slots.set 0 (some builtPlan) } }

theorem builtPlan_planned (old : Option Plan) (h : old = some onePlan ∨ old = some {} ∨ old = none) : planned builtPlan 0 0 old builtPlan = true := by
  have h1 : sameItems builtPlan builtPlan = true := by simp only [sameItems, beq_self_eq_true, Bool.and_self]
  have h2 : (sameItems builtPlan builtPlan && builtPlan.plannerVer == 0 && builtPlan.excluded == 0 && !builtPlan.offline && builtPlan.digestsOk) = true := by
    rw [h1]; rfl
  have h3 : (builtPlan.digest == Config.planDigest builtPlan.pkgDigest 0 0) = true := beq_self_eq_true _
  have h5 : (builtPlan.cyclesOk && builtPlan.groupsOk && builtPlan.depsOk && builtPlan.lanesOk && builtPlan.slotsOk && builtPlan.pollsOk
      && builtPlan.domainsOk && builtPlan.quotasOk) = true := by decide +kernel
  simp only [Bool.and_eq_true] at h2 h5
  rcases h with rfl | rfl | rfl <;>
    (simp only [planned, h2, h3, h5, Bool.and_self, Bool.and_true, Bool.true_and]; decide +kernel)

theorem builtPlan_verifies : builtPlan.verify 0x5A0F4096 = none := by
  have h1 : check1 0x5A0F4096 builtPlan = none :=
    if_pos ⟨by decide +kernel, by decide +kernel, by decide +kernel, by decide +kernel, rfl, by decide +kernel, by decide +kernel, by decide +kernel⟩
  have h2 : ([check2 builtPlan, check3 builtPlan, check4 builtPlan, check5 builtPlan, check6 builtPlan, check7 builtPlan, check8 builtPlan,
      check9 builtPlan, check10 builtPlan, check11 builtPlan, check12 builtPlan, check13 builtPlan, check14 builtPlan, check15 builtPlan,
      check16 builtPlan, check17 builtPlan, check18 builtPlan].all Option.isNone) = true := by decide +kernel
  simp only [List.all_cons, List.all_nil, Bool.and_true, Bool.and_eq_true, Option.isNone_iff_eq_none] at h2
  simp only [Plan.verify, h1, h2, Option.map_none, List.filterMap_cons, List.filterMap_nil, List.head?_nil]

theorem result_built (m : Mod) (hv : m.get F.KEY_FW_VER_VERSION = 0) (hs : m.suspects = 0)
    (ha : m.plan.active = some onePlan ∨ m.plan.active = some {} ∨ m.plan.active = none) : m.planResult builtPlan (.plan builtPlan) = true := by
  simp only [Mod.planResult, hv, hs]
  exact builtPlan_planned _ ha

theorem result_refused (m : Mod) (hv : m.get F.KEY_FW_VER_VERSION = 0) (hs : m.suspects = 0) :
    m.planResult builtPlan (.failed refused.1 refused.2) = true := by
  simp only [Mod.planResult, hv, hs]
  exact beq_self_eq_true _

theorem checked_built (m : Mod) (h : m.sysId = 0x5A0F4096) : m.checked (.plan builtPlan) = .plan builtPlan := by
  simp only [Mod.checked, Mod.verified, h, builtPlan_verifies]

/-- The change log is full: 2,048 records, none confirmed. -/
def fullLog (m : Mod) : Mod :=
  { m with logs := { m.logs with areas := m.logs.areas.set 4 { held := List.replicate 2048 ⟨1, 0, 0, 4, 1, 0, 0, 0, []⟩ } } }

/-! ### The smoke test of WellFormed: one ill-formed command for each check -/

theorem test_wf_instant : Instr.wf (.drumNop (2 ^ 64)) = false := by decide
theorem test_wf_instant_max : Instr.wf (.drumNop (2 ^ 64 - 1)) = true := by decide
theorem test_wf_tile : Instr.wf (.mgmtWin 0 [8192] [] true true []) = false := by decide
theorem test_wf_build_check : Instr.wf (.planBuildComplete (.failed 256 0)) = false := by decide
theorem test_wf_build_detail : Instr.wf (.planBuildComplete (.failed 1 (2 ^ 32))) = false := by decide
theorem test_wf_repeat_count : Instr.wf (.repeat 0 0 256 1) = false := by decide
theorem test_wf_repeat_body : Instr.wf (.repeat 0 0 1 0) = false := by decide
theorem test_wf_bit_operand : Instr.wf (.bitLd 0 48) = false := by decide
theorem test_wf_bit_area : Instr.wf (.bitLd 6 0) = false := by decide
theorem test_wf_bit_target : Instr.wf (.bitSt 0 0) = false := by decide
theorem test_wf_upset : Instr.wf (.mgmtWin 0 [] [] true true [.byte 0 256 1]) = false := by decide
theorem test_wf_reply : Instr.wf (.exchangeReply 0 .good (List.replicate 1501 0) []) = false := by decide +kernel
theorem test_wf_can_id : Instr.wf (.canFrameRx 0 ⟨2 ^ 11, false, false, []⟩) = false := by decide
theorem test_wf_can_ext : Instr.wf (.canFrameRx 0 ⟨2 ^ 29 - 1, true, false, []⟩) = true := by decide
theorem test_wf_can_data : Instr.wf (.canFrameRx 0 ⟨0, false, true, List.replicate 9 0⟩) = false := by decide
theorem test_wf_can_fd : Instr.wf (.canFrameRx 0 ⟨0, false, false, List.replicate 12 0⟩) = false := by decide
theorem test_wf_dali_addr : Instr.wf (.daliEventMessage 0 64 []) = false := by decide
theorem test_wf_dali_data : Instr.wf (.daliEventMessage 0 0 [0, 0, 0, 0]) = false := by decide
theorem test_wf_shed : Instr.wf (.t1lShed []) = false := by decide
theorem test_wf_tcp : Instr.wf (.tcpConnectionClosed 0 (2 ^ 32)) = false := by decide
theorem test_wf_pass : Instr.wf (.passExchange 0 true (some (List.replicate 1501 0))) = false := by decide +kernel
theorem test_wf_upl_len : Instr.wf (.uplFrameRx 0 { len := 2001, kind := .other }) = false := by decide
theorem test_wf_upl_vid : Instr.wf (.uplFrameRx 0 { len := 64, vid := some 4096, kind := .other }) = false := by decide
theorem test_wf_upl_packet : Instr.wf (.uplFrameRx 0 { len := 64, kind := .orpor (List.replicate 1449 0) }) = false := by decide +kernel
theorem test_wf_spi : Instr.wf (.spiWrite 1 []) = false := by decide
theorem test_wf_mirror : Instr.wf (.mirrorFrameRx 0 3 0 [] 0) = false := by decide
theorem test_wf_forward : Instr.wf (.forwardFrameRx 0 3 [(8192, 0, 0, true)]) = false := by decide
theorem test_wf_write : Instr.wf (.writeFrameRx 0 3 [.release 8192]) = false := by decide
theorem test_wf_stream : Instr.wf (.streamFrameRx 0 3 (.tile 8192 (List.replicate 256 0) 0)) = false := by decide +kernel
theorem test_wf_control : Instr.wf (.controlFrameRx 0 3 (.start (2 ^ 34))) = false := by decide
theorem test_wf_info : Instr.wf (.controlFrameRx 0 3 (.command 65536 0)) = false := by decide
theorem test_wf_orpor : Instr.wf (.orporFrameRx 0 3 0 (List.replicate 1449 0)) = false := by decide +kernel
theorem test_wf_meas : Instr.wf (.optimeTick { rails := List.replicate 9 0 }) = false := by decide
theorem test_wf_sample : Instr.wf (.metSample [] []) = false := by decide
theorem test_wf_ethernet : Instr.wf (.fieldEthernetFrame 0 .other (List.replicate 1501 0)) = false := by decide +kernel
theorem test_wf_lifecycle : Instr.wf (.lifecycleAdvance [] [] []) = false := by decide

/-! ### Worked examples of the manual -/

/-- "123456789" in ASCII. -/
def digits : List Byte := [0x31, 0x32, 0x33, 0x34, 0x35, 0x36, 0x37, 0x38, 0x39]

-- The check value of R404's table.
theorem test_crc16 : crc16 digits = 0x29B1 := by decide +kernel
-- The check value of R33's table.
theorem test_crc32c : crc32c digits = 0xE3069283 := by decide +kernel

-- Chapter 3, "Encoding example".
theorem test_drum_wake : drumKind 0x000000043539004F#64 = dkWakeF ∧ drumNs 0x000000043539004F#64 = 9984000 ∧ drumTarget 0x000000043539004F#64 = 0 := by decide
theorem test_drum_freeze : drumKind 0x0000004C00000050#64 = dkFreeze ∧ drumNs 0x0000004C00000050#64 = 10000000 ∧ drumTarget 0x0000004C00000050#64 = 1 := by decide

-- Chapter 6, "Worked example: a damper interlock": SI3A and SI3B are codes 12 and 13, OUT 26 is SO2A, output 34.
theorem test_jack_fields : (List.range 4).map (jIn 0x00000DA7777FFDAC#64) = [12, 13, 31, 31] ∧ jLut 0x00000DA7777FFDAC#64 = 0x7777 ∧
    jTarget 0x00000DA7777FFDAC#64 = 34 ∧ jLevel 0x00000DA7777FFDAC#64 = false ∧ jLatch 0x00000DA7777FFDAC#64 = true ∧
    jEn 0x00000DA7777FFDAC#64 = true ∧ jSafety 0x00000DA7777FFDAC#64 = true := by decide
theorem test_jack_condition : (List.range 4).map (fun v => jCond (BitVec.ofNat 24 (v * 2 ^ 12)) 0x00000DA7777FFDAC#64) = [true, true, true, false] := by decide

-- Chapter 5, "A Bluot task worked through".
theorem test_bluot_words : [encP 0x10 0 100, encP 0x17 1 0, encM 0xA1 0 7 0, encRI 0x81 2 0 1, 0x03200002, encI 0x14 0 1, encRI 0x82 0 0 4,
    encP 0x11 0 200, encN 0x01 0] = [0x10000064, 0x17100000, 0xA1000007, 0x81200001, 0x03200002, 0x14000001, 0x82000004, 0x110000C8, 0x01000000] := by decide
theorem test_bluot_longest : longest 5 [0x10000064, 0x17100000, 0xA1000007, 0x81200001, 0x03200002, 0x14000001, 0x82000004, 0x110000C8, 0x01000000] = 21 := by decide +kernel

-- Chapter 5, "A bit program worked through": DI02 pressed, DI10 1, DI11 0 leaves both lights off; DI11 closed lights them.
def stairs : List (BitVec 16) := [0x0800, 0x2801, 0x6000, 0x1009, 0x280A, 0x6800, 0x4100, 0x4101, 0xF800]
theorem test_bit_words : [encBit 1 0 0, encBit 5 0 1, encBitN 12, encBit 2 0 9, encBit 5 0 10, encBitN 13, encBit 8 1 0, encBit 8 1 1, encBitN 31]
    = stairs.map BitVec.toNat := by decide
theorem test_bit_stairs_off : (BitSt.run 4096 { prog := stairs, inCycle := true, di := 0x202, doA := 3 }).doA = 0 := by decide +kernel
theorem test_bit_stairs_on : (BitSt.run 4096 { prog := stairs, inCycle := true, di := 0x602 }).doA = 3 := by decide +kernel

-- Chapter 16, "Worked example: the end of February 2100".
theorem test_rtc_2100 : (after (execRtcSecondTick (at_ { Mod.reset with rtc := { cal := ⟨2100, 2, 28, 23, 59, 59⟩, wday := 7, sub := 255 } }))).rtc =
    { cal := ⟨2100, 3, 1, 0, 0, 0⟩, wday := 1, sub := 0 } := by decide +kernel
theorem test_rtc_bad_date : (Cal.mk 2100 2 29 12 0 0).bad = some 3 := by decide

-- Chapter 13, "Worked exchange": the header of the tenant's write.
theorem test_orpor_header : hdrBytes 0 0x0102 612 5 1 0 16 0 = [0x4F, 0x52, 0x50, 0x52, 0x01, 0x00, 0x02, 0x01, 0x64, 0x16, 0x00, 0x00, 0x01, 0x00, 0x00, 0x00,
    0, 0, 0, 0, 0x10, 0, 0, 0, 0, 0, 0, 0, 0, 0, 0, 0] := by decide
theorem test_orpor_nonce : sessNonce 612 1 0 false = [0x64, 0x02, 0x00, 0x00, 0x01, 0x00, 0x00, 0x00, 0x00, 0x00, 0x00, 0x00] := by decide

-- The last address of tile memory is read back; the byte before it stays as it was.
theorem test_memory_end : memRead 0 (memWrite 0 [] 2097151 0xA5) 2097151 = 0xA5 ∧ memRead 0 (memWrite 0 [] 2097151 0xA5) 2097150 = 0 := by decide
theorem witness_StepRunsFrontCommand :
    (State.pending ⟨Mod.reset, [.resetPin, .fwConfirm]⟩ = .resetPin :: [.fwConfirm]) ∧ State.reset.pending = [] := ⟨rfl, rfl⟩

theorem witness_EveryStepKeepsInvariant : ∃ t, step State.reset = .next t := ⟨_, rfl⟩

theorem witness_SecondTickMovesTheCalendar :
    (regsWf Mod.reset.regs = true ∧ Mod.reset.rtc.run = true ∧ Mod.reset.rtc.cal.ok = true ∧ Mod.reset.rtc.wday = weekday Mod.reset.rtc.cal) ∧
    Cal.ok ⟨2199, 12, 31, 23, 59, 59⟩ = true ∧ weekday ⟨2199, 12, 31, 23, 59, 59⟩ = 2 ∧
    ({ Mod.reset with rtc := { run := false } } : Mod).rtc.run = false := by
  refine ⟨⟨rfl, rfl, rfl, ?_⟩, rfl, ?_, rfl⟩ <;> decide +kernel

theorem witness_BluotIntegersAreExactThenHeld :
    Runs (laneAt (encR 0x20 1 2 3)) 0 (encR 0x20 1 2 3) ∧ Runs (laneAt (encR 0x21 1 2 3)) 0 (encR 0x21 1 2 3) ∧ Runs (laneAt (encR 0x22 1 2 3)) 0 (encR 0x22 1 2 3) ∧ Runs (laneAt (encR 0x23 1 2 3)) 0 (encR 0x23 1 2 3) ∧ Runs (laneAt (encR 0x24 1 2 3)) 0 (encR 0x24 1 2 3) ∧ Runs (laneAt (encR 0x25 1 2 0)) 0 (encR 0x25 1 2 0) ∧ Runs (laneAt (encR 0x26 1 2 0)) 0 (encR 0x26 1 2 0) ∧ Runs (laneAt (encR 0x27 1 2 3)) 0 (encR 0x27 1 2 3) ∧ Runs (laneAt (encR 0x28 1 2 3)) 0 (encR 0x28 1 2 3) ∧ Runs (laneAt (encR 0x29 1 2 3)) 0 (encR 0x29 1 2 3) ∧ Runs (laneAt (encRI 0x2A 1 2 0x8000)) 0 (encRI 0x2A 1 2 0x8000) ∧ Runs (laneAt (encR 0x30 1 2 3)) 0 (encR 0x30 1 2 3) ∧ Runs (laneAt (encR 0x31 1 2 3)) 0 (encR 0x31 1 2 3) ∧ Runs (laneAt (encR 0x32 1 2 3)) 0 (encR 0x32 1 2 3) ∧ Runs (laneAt (encR 0x33 1 2 3)) 0 (encR 0x33 1 2 3) ∧ Runs (laneAt (encR 0x34 1 2 0)) 0 (encR 0x34 1 2 0) ∧ Runs (laneAt (encR 0x35 1 2 0)) 0 (encR 0x35 1 2 0) ∧ Runs (laneAt (encR 0x36 1 2 3)) 0 (encR 0x36 1 2 3) ∧ Runs (laneAt (encR 0x37 1 2 3)) 0 (encR 0x37 1 2 3) ∧ Runs (laneAt (encR 0x38 1 2 3)) 0 (encR 0x38 1 2 3) :=
  ⟨laneAt_runs (by decide +kernel), laneAt_runs (by decide +kernel), laneAt_runs (by decide +kernel), laneAt_runs (by decide +kernel), laneAt_runs (by decide +kernel), laneAt_runs (by decide +kernel), laneAt_runs (by decide +kernel), laneAt_runs (by decide +kernel), laneAt_runs (by decide +kernel), laneAt_runs (by decide +kernel), laneAt_runs (by decide +kernel), laneAt_runs (by decide +kernel), laneAt_runs (by decide +kernel), laneAt_runs (by decide +kernel), laneAt_runs (by decide +kernel), laneAt_runs (by decide +kernel), laneAt_runs (by decide +kernel), laneAt_runs (by decide +kernel), laneAt_runs (by decide +kernel), laneAt_runs (by decide +kernel)⟩

theorem witness_BluotRealsSetRangeOnNanAndInfinity :
    Runs (laneAt (encR 0x40 1 2 3)) 0 (encR 0x40 1 2 3) ∧ Runs (laneAt (encR 0x41 1 2 3)) 0 (encR 0x41 1 2 3) ∧ Runs (laneAt (encR 0x42 1 2 3)) 0 (encR 0x42 1 2 3) ∧ Runs (laneAt (encR 0x43 1 2 3)) 0 (encR 0x43 1 2 3) ∧ Runs (laneAt (encR 0x44 1 2 0)) 0 (encR 0x44 1 2 0) ∧ Runs (laneAt (encR 0x45 1 2 0)) 0 (encR 0x45 1 2 0) ∧ Runs (laneAt (encR 0x46 1 2 0)) 0 (encR 0x46 1 2 0) ∧ Runs (laneAt (encR 0x47 1 2 3)) 0 (encR 0x47 1 2 3) ∧ Runs (laneAt (encR 0x48 1 2 3)) 0 (encR 0x48 1 2 3) ∧ Runs (laneAt (encR 0x49 1 2 3)) 0 (encR 0x49 1 2 3) ∧ Runs (laneAt (encR 0x4A 1 2 3)) 0 (encR 0x4A 1 2 3) :=
  ⟨laneAt_runs (by decide +kernel), laneAt_runs (by decide +kernel), laneAt_runs (by decide +kernel), laneAt_runs (by decide +kernel), laneAt_runs (by decide +kernel), laneAt_runs (by decide +kernel), laneAt_runs (by decide +kernel), laneAt_runs (by decide +kernel), laneAt_runs (by decide +kernel), laneAt_runs (by decide +kernel), laneAt_runs (by decide +kernel)⟩

theorem witness_BluotConversionsAndBits :
    Runs (laneAt (encR 0x50 1 2 0)) 0 (encR 0x50 1 2 0) ∧ Runs (laneAt (encR 0x51 1 2 0)) 0 (encR 0x51 1 2 0) ∧ Runs (laneAt (encR 0x52 1 2 0)) 0 (encR 0x52 1 2 0) ∧ Runs (laneAt (encR 0x54 1 2 0)) 0 (encR 0x54 1 2 0) ∧ Runs (laneAt (encR 0x53 1 2 0)) 0 (encR 0x53 1 2 0) ∧ Runs (laneAt (encR 0x55 1 2 0)) 0 (encR 0x55 1 2 0) ∧ Runs (laneAt (encR 0x60 1 2 3)) 0 (encR 0x60 1 2 3) ∧ Runs (laneAt (encR 0x61 1 2 3)) 0 (encR 0x61 1 2 3) ∧ Runs (laneAt (encR 0x62 1 2 3)) 0 (encR 0x62 1 2 3) ∧ Runs (laneAt (encR 0x63 1 2 0)) 0 (encR 0x63 1 2 0) ∧ Runs (laneAt (encR 0x64 1 2 0)) 0 (encR 0x64 1 2 0) ∧ Runs (laneAt (encR 0x65 1 2 3)) 0 (encR 0x65 1 2 3) ∧ Runs (laneAt (encR 0x66 1 2 3)) 0 (encR 0x66 1 2 3) ∧ Runs (laneAt (encR 0x67 1 2 3)) 0 (encR 0x67 1 2 3) :=
  ⟨laneAt_runs (by decide +kernel), laneAt_runs (by decide +kernel), laneAt_runs (by decide +kernel), laneAt_runs (by decide +kernel), laneAt_runs (by decide +kernel), laneAt_runs (by decide +kernel), laneAt_runs (by decide +kernel), laneAt_runs (by decide +kernel), laneAt_runs (by decide +kernel), laneAt_runs (by decide +kernel), laneAt_runs (by decide +kernel), laneAt_runs (by decide +kernel), laneAt_runs (by decide +kernel), laneAt_runs (by decide +kernel)⟩

theorem witness_BluotComparisonSelectionQuality :
    Runs (laneAt (encR 0x70 1 2 3 + 5)) 0 (encR 0x70 1 2 3 + 5) ∧ Runs (laneAt (encR 0x71 1 2 3 + 5)) 0 (encR 0x71 1 2 3 + 5) ∧ Runs (laneAt (encR 0x72 1 2 3 + 1)) 0 (encR 0x72 1 2 3 + 1) ∧ Runs (laneAt (encR 0x78 1 2 3)) 0 (encR 0x78 1 2 3) ∧ Runs (laneAt (encR 0x80 1 2 0)) 0 (encR 0x80 1 2 0) ∧ Runs (laneAt (encRI 0x81 1 2 0xFFFF)) 0 (encRI 0x81 1 2 0xFFFF) ∧ Runs (laneAt (encRI 0x82 1 0 0x20)) 0 (encRI 0x82 1 0 0x20) ∧ Runs (laneAt (encN 0x83 1)) 0 (encN 0x83 1) ∧ Runs (laneAt (encR 0x84 1 2 0)) 0 (encR 0x84 1 2 0) :=
  ⟨laneAt_runs (by decide +kernel), laneAt_runs (by decide +kernel), laneAt_runs (by decide +kernel), laneAt_runs (by decide +kernel), laneAt_runs (by decide +kernel), laneAt_runs (by decide +kernel), laneAt_runs (by decide +kernel), laneAt_runs (by decide +kernel), laneAt_runs (by decide +kernel)⟩

theorem witness_BluotLoadsStoresAndIndexing :
    Runs (laneAt (encP 0x10 1 8191)) 0 (encP 0x10 1 8191) ∧ Runs (laneAt (encP 0x11 1 0)) 0 (encP 0x11 1 0) ∧ Runs (laneAt (encP 0x12 1 7)) 0 (encP 0x12 1 7) ∧ Runs (laneAt (encP 0x13 1 7)) 0 (encP 0x13 1 7) ∧ Runs (laneAt (encI 0x14 1 0x80000)) 0 (encI 0x14 1 0x80000) ∧ Runs (laneAt (encN 0x15 1) (0x80000000)) 0 (encN 0x15 1) (some (0x80000000)) ∧ Runs (laneAt (encN 0x16 1) (0x3F800000)) 0 (encN 0x16 1) (some (0x3F800000)) ∧ Runs (laneAt (encP 0x17 1 5)) 0 (encP 0x17 1 5) ∧ Runs (laneAt (encKX 0x18 1 2 5) (4)) 0 (encKX 0x18 1 2 5) (some (4)) ∧ Runs (laneAt (encR 0x19 1 2 0)) 0 (encR 0x19 1 2 0) ∧ Runs (laneAt (encM 0x1A 1 9 31)) 0 (encM 0x1A 1 9 31) ∧ Runs (laneAt (encM 0x1B 1 9 0)) 0 (encM 0x1B 1 9 0) ∧ Runs (laneAt (encM 0x1C 1 9 3) (encMX2 2 4)) 0 (encM 0x1C 1 9 3) (some (encMX2 2 4)) ∧ Runs (laneAt (encM 0x1D 1 9 3) (encMX2 2 4)) 0 (encM 0x1D 1 9 3) (some (encMX2 2 4)) ∧ Runs (laneAt (encN 0x1E 1)) 0 (encN 0x1E 1) :=
  ⟨laneAt_runs (by decide +kernel), laneAt_runs (by decide +kernel), laneAt_runs (by decide +kernel), laneAt_runs (by decide +kernel), laneAt_runs (by decide +kernel), laneAt_runs (by decide +kernel), laneAt_runs (by decide +kernel), laneAt_runs (by decide +kernel), laneAt_runs (by decide +kernel), laneAt_runs (by decide +kernel), laneAt_runs (by decide +kernel), laneAt_runs (by decide +kernel), laneAt_runs (by decide +kernel), laneAt_runs (by decide +kernel), laneAt_runs (by decide +kernel)⟩

theorem witness_BluotTimersFollowTheirTable :
    (Runs (laneAt (encF 0xA0 14 3)) 0 (encF 0xA0 14 3) ∧ Runs (laneAt (encF 0xA1 14 3)) 0 (encF 0xA1 14 3) ∧
      Runs (laneAt (encF 0xA2 14 3)) 0 (encF 0xA2 14 3)) ∧
    (memWf 0 (laneAt (encF 0xA0 14 3)).m.lanes[0].buf = true ∧ (laneAt (encF 0xA0 14 3)).m.lanes[0].freeze < 2 ^ 64) :=
  ⟨⟨laneAt_runs (by decide +kernel), laneAt_runs (by decide +kernel), laneAt_runs (by decide +kernel)⟩, by decide +kernel⟩

theorem witness_BluotCountersEdgesBistables :
    (Runs (laneAt (encF 0xA3 13 3)) 0 (encF 0xA3 13 3) ∧ Runs (laneAt (encF 0xA4 13 3)) 0 (encF 0xA4 13 3) ∧
      Runs (laneAt (encF 0xA5 15 3)) 0 (encF 0xA5 15 3) ∧ Runs (laneAt (encF 0xA6 15 3)) 0 (encF 0xA6 15 3) ∧
      Runs (laneAt (encF 0xA7 14 3)) 0 (encF 0xA7 14 3) ∧ Runs (laneAt (encF 0xA8 14 3)) 0 (encF 0xA8 14 3)) ∧
    memWf 0 (laneAt (encF 0xA3 13 3)).m.lanes[0].buf = true :=
  ⟨⟨laneAt_runs (by decide +kernel), laneAt_runs (by decide +kernel), laneAt_runs (by decide +kernel), laneAt_runs (by decide +kernel),
    laneAt_runs (by decide +kernel), laneAt_runs (by decide +kernel)⟩, by decide +kernel⟩

/-- Point 7 stands for DO01, point 8 for a point of a station; lane 0 may read the image and write the staging. -/
def outPlan : Plan := { onePlan with points := [{ idx := 7, tile := 0, slot := 0, ty := 1, cls := 0, bind := .out 0 },
  { idx := 8, tile := 0, slot := 1, ty := 1, cls := 0, bind := .rout 3 1 }] }
def outAt (w : Nat) : State := at_ { rig [(F.REGION_ATTR_EN 0 0, 1), (F.REGION_ATTR_R 0 0, 1), (F.REGION_ATTR_W 0 0, 1), (F.REGION_BASE_BASE 0 0, 0x4000),
  (F.REGION_LIMIT_LIMIT 0 0, 0x41FF)] (laneAt w).m with plan := { active := some outPlan } }
theorem outAt_runs {w : Nat} (h : fetched (outAt w).m 0 w none = true) : Runs (outAt w) 0 w none := by
  unfold fetched at h
  simp only [Bool.and_eq_true, beq_iff_eq, decide_eq_true_eq] at h
  exact ⟨h.1.1.1, h.1.1.2, h.1.2, rfl⟩
theorem witness_BluotBranchesRepeatAndTransfer :
    (Runs (laneAt (encN 0x00 0)) 0 (encN 0x00 0) ∧ Runs (laneAt (encI 0x02 0 1)) 0 (encI 0x02 0 1) ∧
      Runs (laneAt (encI 0x03 1 1)) 0 (encI 0x03 1 1) ∧ Runs (laneAt (encI 0x04 1 1)) 0 (encI 0x04 1 1) ∧
      Runs (laneAt (encI 0x05 1 1)) 0 (encI 0x05 1 1) ∧ Runs (laneAt (encRPT 0x06 1 2 2)) 0 (encRPT 0x06 1 2 2)) ∧
    (Runs (outAt (encP 0xF0 0 7)) 0 (encP 0xF0 0 7) ∧ Runs (outAt (encP 0xF1 0 7)) 0 (encP 0xF1 0 7)) ∧
    ((outAt (encP 0xF1 0 7)).m.pointDef 7).map (fun p => p.bind) = some (.out 0) ∧ ((outAt (encP 0xF1 0 8)).m.pointDef 8).map (fun p => p.bind) = some (.rout 3 1) ∧
    Runs (outAt (encP 0xF1 0 8)) 0 (encP 0xF1 0 8) ∧
    (outAt 0).m.regionOk 0 1 (0x400000 + 8 * 7) = true ∧ (outAt 0).m.regionOk 0 2 (0x410000 + 8 * 7) = true ∧
    (outAt 0).m.regionOk 0 2 (0x410000 + 8 * 8) = true :=
  ⟨⟨laneAt_runs (by decide +kernel), laneAt_runs (by decide +kernel), laneAt_runs (by decide +kernel), laneAt_runs (by decide +kernel),
    laneAt_runs (by decide +kernel), laneAt_runs (by decide +kernel)⟩, ⟨outAt_runs (by decide +kernel), outAt_runs (by decide +kernel)⟩,
    by decide +kernel, by decide +kernel, outAt_runs (by decide +kernel), by decide +kernel, by decide +kernel, by decide +kernel⟩

/-- A task that writes tile 3 back. -/
def storePlan : Plan := { tasks := [{ idx := 0, lane := 0, cls := 0, words := 4, tiles := [0, 3], stores := [3] }] }
def storeAt (w : Nat) : State := at_ { rig [(F.REGION_ATTR_EN 0 0, 1), (F.REGION_ATTR_W 0 0, 1), (F.REGION_LIMIT_LIMIT 0 0, 31)] (laneAt w).m with
  plan := { active := some storePlan } }
theorem storeAt_runs {w : Nat} (h : fetched (storeAt w).m 0 w none = true) : Runs (storeAt w) 0 w none := by
  unfold fetched at h
  simp only [Bool.and_eq_true, beq_iff_eq, decide_eq_true_eq] at h
  exact ⟨h.1.1.1, h.1.1.2, h.1.2, rfl⟩
theorem witness_LaneGoesOnRepeatsAndEndsTasks :
    (memWf 0 (storeAt (encN 0x01 0)).m.mem.cells = true ∧ memWf 0 (storeAt (encN 0x01 0)).m.lanes[0].buf = true) ∧
    Runs (storeAt (encN 0x01 0)) 0 (encN 0x01 0) ∧
    ((storeAt (encN 0x01 0)).m.lanes[0].task.bind (storeAt (encN 0x01 0)).m.taskDef).map (fun t => t.stores) = some [3] ∧
    (storeAt (encN 0x01 0)).m.lanes[0].todo = [] ∧ ((storeAt (encN 0x01 0)).m.dirEnt 3).faulted = false ∧
    ((storeAt (encN 0x01 0)).m.dirEnt 3).single = false ∧ ((storeAt (encN 0x01 0)).m.dirEnt 3).dbl = false ∧
    (storeAt (encN 0x01 0)).m.regionOk 0 2 (3 * 256) = true ∧
    Runs (laneAt (encN 0x01 0)) 0 (encN 0x01 0) ∧
    ((laneAt (encN 0x01 0)).m.lanes[0].task.bind (laneAt (encN 0x01 0)).m.taskDef).map (fun t => t.stores) = some [] :=
  ⟨by decide +kernel, storeAt_runs (by decide +kernel), by decide +kernel, by decide +kernel, by decide +kernel, by decide +kernel,
    by decide +kernel, by decide +kernel, laneAt_runs (by decide +kernel), by decide +kernel⟩

theorem witness_BitLogicFollowsItsTable :
    (∃ (s : State), BitRuns s (encBitN 0x00)) ∧
    (∃ (s : State) (area : BitVec 3) (n : BitVec 8), BitRuns s (encBit 0x01 area n)) ∧
    (∃ (s : State) (area : BitVec 3) (n : BitVec 8), BitRuns s (encBit 0x02 area n)) ∧
    (∃ (s : State) (area : BitVec 3) (n : BitVec 8), BitRuns s (encBit 0x03 area n)) ∧
    (∃ (s : State) (area : BitVec 3) (n : BitVec 8), BitRuns s (encBit 0x04 area n)) ∧
    (∃ (s : State) (area : BitVec 3) (n : BitVec 8), BitRuns s (encBit 0x05 area n)) ∧
    (∃ (s : State) (area : BitVec 3) (n : BitVec 8), BitRuns s (encBit 0x06 area n)) ∧
    (∃ (s : State) (area : BitVec 3) (n : BitVec 8), BitRuns s (encBit 0x07 area n)) ∧
    (∃ (s : State), BitRuns s (encBitN 0x0C)) ∧
    (∃ (s : State) (x : Bool) (st : List Bool), BitRuns s (encBitN 0x0D) ∧ s.m.bit.stack = x :: st) ∧
    (∃ (s : State) (x : Bool) (st : List Bool), BitRuns s (encBitN 0x0E) ∧ s.m.bit.stack = x :: st) ∧
    (∃ (s : State) (x : Bool) (st : List Bool), BitRuns s (encBitN 0x0F) ∧ s.m.bit.stack = x :: st) ∧
    (∃ (s : State), BitRuns s (encBitN 0x10)) ∧
    (∃ (s : State) (off : BitVec 11), BitRuns s (encBitJ 0x11 off)) ∧
    (∃ (s : State) (off : BitVec 11), BitRuns s (encBitJ 0x12 off)) ∧
    (∃ (s : State) (off : BitVec 11), BitRuns s (encBitJ 0x13 off)) :=
  ⟨⟨bitOn [0], by decide +kernel⟩,
   ⟨bitOn [encBit 1 2 15], 2, 15, by decide +kernel⟩,
   ⟨bitOn [encBit 2 5 1], 5, 1, by decide +kernel⟩,
   ⟨bitOn [encBit 3 0 47], 0, 47, by decide +kernel⟩,
   ⟨bitOn [encBit 4 4 255], 4, 255, by decide +kernel⟩,
   ⟨bitOn [encBit 5 1 3], 1, 3, by decide +kernel⟩,
   ⟨bitOn [encBit 6 1 3], 1, 3, by decide +kernel⟩,
   ⟨bitOn [encBit 7 5 1], 5, 1, by decide +kernel⟩,
   ⟨bitOn [encBitN 0x0C], by decide +kernel⟩,
   ⟨bitOn [encBitN 0x0D], true, [], by decide +kernel⟩,
   ⟨bitOn [encBitN 0x0E], true, [], by decide +kernel⟩,
   ⟨bitOn [encBitN 0x0F], true, [], by decide +kernel⟩,
   ⟨bitOn [encBitN 0x10], by decide +kernel⟩,
   ⟨bitOn [encBitJ 0x11 2047], 2047, by decide +kernel⟩,
   ⟨bitOn [encBitJ 0x12 0], 0, by decide +kernel⟩,
   ⟨bitOn [encBitJ 0x13 1], 1, by decide +kernel⟩⟩

theorem witness_BitStoresWriteTheirBit :
    BitRuns (bitOn [encBit 8 1 3]) (encBit 8 1 3) ∧ BitRuns (bitOn [encBit 9 4 255]) (encBit 9 4 255) ∧
    BitRuns (bitOn [encBit 10 1 0]) (encBit 10 1 0) ∧ BitRuns (bitOn [encBit 11 3 7]) (encBit 11 3 7) := by decide +kernel

theorem witness_BitCycleFreezesRunsAndEnds :
    (∃ s : State, regsWf s.m.regs = true ∧ s.m.inBit = true ∧ s.m.flag F.EXEC_BIT_RUNNING = true ∧ s.m.bit.inCycle = false ∧ s.m.bit.prog ≠ [] ∧
      s.m.bit.prog.length ≤ (1 : BitVec 13).toNat) ∧
    (∃ s : State, regsWf s.m.regs = true ∧ s.m.inBit = true ∧ BitRuns s (encBitN 0x1F)) ∧
    (∃ s : State, regsWf s.m.regs = true ∧ s.m.inBit = true ∧ s.m.bit.inCycle = true) :=
  ⟨⟨at_ { (bitOn [0xF800]).m with bit := { prog := [0xF800#16] } }, by decide +kernel⟩,
   ⟨bitOn [0xF800], by decide +kernel⟩, ⟨bitOn [0], by decide +kernel⟩⟩

theorem witness_DigitalInputsFilterStickAndChatter :
    (∃ (s : State) (n : Fin 48) (level : Bool), regsWf s.m.regs = true ∧ (level != s.m.flag (F.FIO_DI_CFG_INV n.val)) = s.m.flag (F.FIO_DI_STATUS_FILTERED n.val)) ∧
    (∃ (s : State) (n : Fin 48) (level : Bool), regsWf s.m.regs = true ∧ (level != s.m.flag (F.FIO_DI_CFG_INV n.val)) ≠ s.m.flag (F.FIO_DI_STATUS_FILTERED n.val)) ∧
    (∃ (s : State) (n : Fin 48), regsWf s.m.regs = true ∧ s.m.get (F.FIO_DI_CFG_MAXON n.val) ≠ 0 ∧ s.m.diPast n (s.m.get (F.FIO_DI_CFG_MAXON n.val) * 25000000 + 1) = true ∧ s.m.flag (F.FIO_DI_STATUS_FILTERED n.val) = true ∧ s.m.flag (F.FIO_DI_STATUS_STUCK n.val) = false) ∧
    (∃ (s : State) (n : Fin 48), regsWf s.m.regs = true ∧ s.m.diPast n (s.m.get (F.FIO_DI_CFG_MAXON n.val) * 25000000 + 1) = false) ∧
    (∃ (s : State) (n : Fin 48), regsWf s.m.regs = true ∧ chatN s.m n.val ≠ 0 ∧ chatN s.m n.val < chatCount s.m n ∧ s.m.flag (F.FIO_DI_STATUS_CHATTER n.val) = false) ∧
    (∃ (s : State) (n : Fin 48), regsWf s.m.regs = true ∧ s.m.flag (F.FIO_DI_STATUS_CHATTER n.val) = true ∧ s.m.diPast n (max 1 (s.m.get (F.FIO_DI_CHAT_HOLD n.val)) * 25000000) = true) ∧
    (∃ (s : State) (n : Fin 48), regsWf s.m.regs = true ∧ s.m.diPast n (max 1 (s.m.get (F.FIO_DI_CHAT_HOLD n.val)) * 25000000) = false) :=
  ⟨⟨at_ (rig []), 47, false, by decide +kernel⟩,
   ⟨at_ (rig [(F.FIO_DI_STATUS_CHATTER 47, 1)]), 47, true, by decide +kernel⟩,
   ⟨at_ (rig [(F.FIO_DI_CFG_MAXON 3, 1), (F.FIO_DI_STATUS_FILTERED 3, 1)]), 3, by decide +kernel⟩,
   ⟨at_ { rig [(F.FIO_DI_CFG_MAXON 3, 1), (F.FIO_DI_STATUS_FILTERED 3, 1)] with clk := { mono := 25000000 }, fio := { di := (Vector.replicate 48 {}).set 3 ⟨[0]⟩ } }, 3, by decide +kernel⟩,
   ⟨at_ { rig [(F.FIO_DI_CHAT_N 0, 1)] with fio := { di := (Vector.replicate 48 {}).set 0 ⟨[2, 1, 0]⟩ } }, 0, by decide +kernel⟩,
   ⟨at_ (rig [(F.FIO_DI_STATUS_CHATTER 9, 1), (F.FIO_DI_STATUS_FILTERED 9, 1)]), 9, by decide +kernel⟩,
   ⟨at_ { rig [(F.FIO_DI_STATUS_CHATTER 9, 1)] with clk := { mono := 24999999 }, fio := { di := (Vector.replicate 48 {}).set 9 ⟨[0]⟩ } }, 9, by decide +kernel⟩⟩

theorem witness_CountersCountWindowAndJournal :
    (∃ (s : State) (k : Fin 8) (rising : Bool), regsWf s.m.regs = true ∧ s.m.flag (F.FIO_CNT_CFG_EN k.val) = true ∧ ((if (s.m.get (F.FIO_CNT_CFG_EDGE k.val)) = 1 then rising = false else (s.m.get (F.FIO_CNT_CFG_EDGE k.val)) = 2 ∨ rising = true))) ∧
    (∃ (s : State), regsWf s.m.regs = true) ∧
    (∃ (s : State), regsWf s.m.regs = true ∧ journalWriting s.m.fio.cntJ = false ∧ (s.m.fio.cntJ[0]).ok = true ∧ (s.m.fio.cntJ[1]).ok = true ∧ (s.m.fio.cntJ[0]).seq ≤ (s.m.fio.cntJ[1]).seq) ∧
    (∃ (s : State), regsWf s.m.regs = true ∧ journalWriting s.m.fio.cntJ = false ∧ (s.m.fio.cntJ[0]).ok = true ∧ (s.m.fio.cntJ[1]).ok = true ∧ (s.m.fio.cntJ[1]).seq < (s.m.fio.cntJ[0]).seq) ∧
    (∃ (s : State), regsWf s.m.regs = true ∧ journalWriting s.m.fio.cntJ = true) ∧
    (∃ (s : State), regsWf s.m.regs = true) :=
  ⟨⟨at_ (rig [(F.FIO_CNT_CFG_EN 7, 1), (F.FIO_CNT_CFG_EDGE 7, 1)]), 7, false, by decide +kernel⟩,
   ⟨at_ { rig [] with fio := { cnt := Vector.replicate 8 { window := 101 } } }, by decide +kernel⟩,
   ⟨at_ { rig [] with fio := { cntJ := Vector.replicate 2 { seq := 4, ok := true } } }, by decide +kernel⟩,
   ⟨at_ { rig [] with fio := { cntJ := (Vector.replicate 2 { seq := 4, ok := true }).set 0 { seq := 5, ok := true } } }, by decide +kernel⟩,
   ⟨at_ { rig [] with fio := { cntJ := Vector.replicate 2 { seq := 4, writing := true } } }, by decide +kernel⟩,
   ⟨at_ { rig [] with fio := { cnt := Vector.replicate 8 { count := 2 ^ 32 } } }, by decide +kernel⟩⟩

theorem witness_DigitalOutputProtectionsHoldAndRelease :
    (∃ (s : State) (n : Fin 24), regsWf s.m.regs = true ∧ s.m.pinOn ⟨n.val, by omega⟩ = true) ∧
    (∃ (s : State) (n : Fin 24), regsWf s.m.regs = true ∧ s.m.flag (F.FIO_DO_CFG_RETRY n.val) = true ∧ s.m.flag (F.FIO_DO_STATUS_SC n.val) = true ∧ s.m.fioPast (tmShort n.val) 25000000 = true ∧ s.m.source ⟨n.val, by omega⟩ = .on) ∧
    (∃ (s : State) (n : Fin 24), regsWf s.m.regs = true ∧ s.m.fioPast (tmShort n.val) 25000000 = false) ∧
    (∃ (s : State), regsWf s.m.regs = true) ∧
    (∃ (s : State), regsWf s.m.regs = true) ∧
    (∃ (s : State) (g : Fin 3) (ma : BitVec 16), regsWf s.m.regs = true ∧ s.m.flag (F.FIO_DO_GRP_TRIP g.val) = false ∧ 3400 < ma.toNat) ∧
    (∃ (s : State) (g : Fin 3), regsWf s.m.regs = true ∧ s.m.flag (F.FIO_DO_GRP_TRIP g.val) = true ∧ s.m.flag (F.FIO_DO_GRP_LATCHED g.val) = false ∧ s.m.fioPast (tmGroup g.val) 125000000 = true ∧ ((s.m.fio.grpRetry[g]).filter (fun t => decide (s.m.clk.mono < t + 1500000000))).length < 3) ∧
    (∃ (s : State) (g : Fin 3), regsWf s.m.regs = true ∧ s.m.flag (F.FIO_DO_GRP_TRIP g.val) = true ∧ s.m.flag (F.FIO_DO_GRP_LATCHED g.val) = false ∧ s.m.fioPast (tmGroup g.val) 125000000 = true ∧ 3 ≤ ((s.m.fio.grpRetry[g]).filter (fun t => decide (s.m.clk.mono < t + 1500000000))).length) ∧
    (∃ (s : State) (g : Fin 3), regsWf s.m.regs = true ∧ s.m.fioPast (tmGroup g.val) 125000000 = false) ∧
    (∃ (s : State) (g : Fin 3) (h : BitVec 10), regsWf s.m.regs = true ∧ s.m.isO0V h.toNat = true ∧ s.m.flag (F.FIO_DO_GRP_LATCHED g.val) = true) ∧
    (∃ (s : State) (h : BitVec 10), regsWf s.m.regs = true ∧ s.m.isO0V h.toNat = false) ∧
    (∃ (s : State) (n : Fin 24) (h : BitVec 10), regsWf s.m.regs = true ∧ s.m.isO0V h.toNat = true ∧ s.m.flag (F.FIO_DO_STATUS_SC_LATCHED n.val) = true) ∧
    (∃ (s : State) (h : BitVec 10), regsWf s.m.regs = true ∧ s.m.isO0V h.toNat = false) ∧
    (∃ (s : State) (mv : BitVec 16), regsWf s.m.regs = true ∧ mv.toNat < 16000) ∧
    (∃ (s : State) (mv : BitVec 16), regsWf s.m.regs = true ∧ 16000 ≤ mv.toNat) ∧
    (∃ (s : State) (mv : BitVec 16), regsWf s.m.regs = true ∧ 17000 < mv.toNat) ∧
    (∃ (s : State) (mv : BitVec 16), regsWf s.m.regs = true ∧ mv.toNat ≤ 17000) :=
  ⟨⟨at_ { rig [(F.EXEC_STATE_STATE, 5), (F.FIO_STATUS_VAUX_OK, 1)] with outs := Vector.replicate 48 { launched := some .on } }, 23, by decide +kernel⟩,
   ⟨at_ { rig [(F.EXEC_STATE_STATE, 5), (F.FIO_DO_CFG_RETRY 23, 1), (F.FIO_DO_STATUS_SC 23, 1)] with outs := Vector.replicate 48 { launched := some .on } }, 23, by decide +kernel⟩,
   ⟨at_ { rig [(F.FIO_DO_STATUS_SC 23, 1)] with fio := { since := [(23, 0)] } }, 23, by decide +kernel⟩,
   ⟨at_ (rig []), by decide +kernel⟩,
   ⟨at_ (rig [(F.FIO_DO_STATUS_THERMAL 23, 1)]), by decide +kernel⟩,
   ⟨at_ (rig []), 2, 3401, by decide +kernel⟩,
   ⟨at_ { rig [(F.FIO_DO_GRP_TRIP 2, 1)] with fio := { grpRetry := Vector.replicate 3 [0, 0] } }, 2, by decide +kernel⟩,
   ⟨at_ { rig [(F.FIO_DO_GRP_TRIP 2, 1)] with fio := { grpRetry := Vector.replicate 3 [0, 0, 0] } }, 2, by decide +kernel⟩,
   ⟨at_ { rig [(F.FIO_DO_GRP_TRIP 2, 1)] with fio := { since := [(34, 0)] } }, 2, by decide +kernel⟩,
   ⟨at_ { rig [(F.FIO_DO_GRP_TRIP 2, 1), (F.FIO_DO_GRP_LATCHED 2, 1)] with orpor := { sessions := [(0, { role := .service })] } }, 2, 0, by decide +kernel⟩,
   ⟨at_ { rig [(F.FIO_DO_GRP_TRIP 2, 1), (F.FIO_DO_GRP_LATCHED 2, 1)] with orpor := { sessions := [(0, { role := .operator, scope := 1 })] } }, 0, by decide +kernel⟩,
   ⟨at_ { rig [(F.FIO_DO_STATUS_SC 23, 1), (F.FIO_DO_STATUS_SC_LATCHED 23, 1)] with orpor := { sessions := [(0, { role := .operator })] } }, 23, 0, by decide +kernel⟩,
   ⟨at_ (rig [(F.FIO_DO_STATUS_SC_LATCHED 23, 1)]), 0, by decide +kernel⟩,
   ⟨at_ (rig []), 15999, by decide +kernel⟩,
   ⟨at_ (rig []), 16000, by decide +kernel⟩,
   ⟨at_ (rig []), 17001, by decide +kernel⟩,
   ⟨at_ (rig []), 17000, by decide +kernel⟩⟩

theorem witness_AnalogInputsAndOutputsJudgeTheirSignals :
    (∃ (s : State) (n : Fin 16), regsWf s.m.regs = true ∧ (s.m.get (F.FIO_AI_CFG_MODE n.val) = 0 ∨ 5 < s.m.get (F.FIO_AI_CFG_MODE n.val))) ∧
    (∃ (s : State) (n : Fin 16), regsWf s.m.regs = true ∧ 1 ≤ s.m.get (F.FIO_AI_CFG_MODE n.val) ∧ s.m.get (F.FIO_AI_CFG_MODE n.val) ≤ 5) ∧
    (∃ (s : State) (n : Fin 16), regsWf s.m.regs = true ∧ (s.m.get (F.FIO_AI_CFG_MODE n.val) = 2 ∨ s.m.get (F.FIO_AI_CFG_MODE n.val) = 3)) ∧
    (∃ (s : State) (n : Fin 16), regsWf s.m.regs = true ∧ s.m.fioPast (tmProt n.val) 25000000 = true) ∧
    (∃ (s : State) (n : Fin 16), regsWf s.m.regs = true ∧ s.m.fioPast (tmProt n.val) 25000000 = false) ∧
    (∃ (s : State) (o : Fin 8), regsWf s.m.regs = true ∧ s.m.get (F.FIO_AO_CFG_MODE o.val) = 1) ∧
    (∃ (s : State) (o : Fin 8), regsWf s.m.regs = true ∧ 2 ≤ s.m.get (F.FIO_AO_CFG_MODE o.val)) :=
  ⟨⟨at_ (rig []), 15, by decide +kernel⟩,
   ⟨at_ { rig [(F.FIO_AI_CFG_MODE 15, 2), (F.FIO_AI_CFG_TAU 15, 1000), (F.FIO_AI_SC_HI_SC 15, 0x42C80000)] with fio := { ai := Vector.replicate 16 { first := true, y := 0x41000000 } } }, 15, by decide +kernel⟩,
   ⟨at_ (rig [(F.FIO_AI_CFG_MODE 15, 3)]), 15, by decide +kernel⟩,
   ⟨at_ (rig [(F.FIO_AI_STATUS_PROT 15, 1)]), 15, by decide +kernel⟩,
   ⟨at_ { rig [(F.FIO_AI_STATUS_PROT 15, 1)] with fio := { since := [(79, 0)] } }, 15, by decide +kernel⟩,
   ⟨at_ (rig [(F.FIO_AO_CFG_MODE 7, 1)]), 7, by decide +kernel⟩,
   ⟨at_ (rig [(F.FIO_AO_CFG_MODE 7, 3)]), 7, by decide +kernel⟩⟩

theorem witness_LoopTransmittersFollowFramesAndReports :
    (∃ (s : State) (n : Fin 8) (w : BitVec 32), regsWf s.m.regs = true ∧ s.m.pin ⟨40 + n.val, by omega⟩ = .value w ∧ (s.m.fio.lt[n]).powered = true ∧ ((s.m.fio.lt[n]).holding || (s.m.fio.lt[n]).atAlarm) = true) ∧
    (∃ (s : State) (n : Fin 8) (w : BitVec 32), regsWf s.m.regs = true ∧ s.m.pin ⟨40 + n.val, by omega⟩ = .value w ∧ (s.m.fio.lt[n]).powered = true ∧ ((s.m.fio.lt[n]).holding || (s.m.fio.lt[n]).atAlarm) = false) ∧
    (∃ (s : State) (n : Fin 8), regsWf s.m.regs = true ∧ s.m.pin ⟨40 + n.val, by omega⟩ = .ltReset) ∧
    (∃ (s : State) (n : Fin 8) (w : BitVec 32), regsWf s.m.regs = true ∧ (s.m.fio.lt[n]).pend = some w) ∧
    (∃ (s : State), regsWf s.m.regs = true) ∧
    (∃ (s : State) (n : Fin 8), regsWf s.m.regs = true ∧ s.m.flag (F.LTX_STATUS_OPEN n.val) = false ∧ s.m.fioPast (tmReport n.val) 500000 = true) ∧
    (∃ (s : State) (n : Fin 8), regsWf s.m.regs = true ∧ (s.m.fio.lt[n]).powered = true) ∧
    (∃ (s : State) (n : Fin 8), regsWf s.m.regs = true ∧ (s.m.fio.lt[n]).holding = true) ∧
    (∃ (s : State) (n : Fin 8), regsWf s.m.regs = true ∧ (s.m.fio.lt[n]).modemEn = true ∧ (s.m.fio.lt[n]).rx.length < 256) ∧
    (∃ (s : State) (n : Fin 8), regsWf s.m.regs = true ∧ (s.m.fio.lt[n]).modemEn = true ∧ 256 ≤ (s.m.fio.lt[n]).rx.length) ∧
    (∃ (s : State), regsWf s.m.regs = true) :=
  ⟨⟨at_ { rig [(F.EXEC_STATE_STATE, 5)] with outs := Vector.replicate 48 { launched := some (.value 0x41200000) }, fio := { lt := Vector.replicate 8 { powered := true, holding := true, atAlarm := true } } }, 7, 0x41200000, by decide +kernel⟩,
   ⟨at_ { rig [(F.EXEC_STATE_STATE, 5)] with outs := Vector.replicate 48 { launched := some (.value 0x41200000) }, fio := { lt := Vector.replicate 8 { powered := true } } }, 7, 0x41200000, by decide +kernel⟩,
   ⟨at_ { rig [(F.EXEC_STATE_STATE, 3)] with fio := { lt := Vector.replicate 8 { powered := true, atAlarm := true } } }, 7, by decide +kernel⟩,
   ⟨at_ { rig [] with fio := { lt := Vector.replicate 8 { powered := true, pend := some 0x41200000 } } }, 7, 0x41200000, by decide +kernel⟩,
   ⟨at_ { rig [(F.LTX_CMD_CMD 7, 0x41200000)] with fio := { lt := Vector.replicate 8 { powered := true, short := 3 } } }, by decide +kernel⟩,
   ⟨at_ (rig [(F.LTX_STATUS_LINK 7, 1)]), 7, by decide +kernel⟩,
   ⟨at_ { rig [] with fio := { lt := Vector.replicate 8 { powered := true, pend := some 0 } } }, 7, by decide +kernel⟩,
   ⟨at_ { rig [] with fio := { lt := Vector.replicate 8 { powered := true, holding := true } } }, 7, by decide +kernel⟩,
   ⟨at_ { rig [] with fio := { lt := Vector.replicate 8 { modemEn := true, rx := List.replicate 255 0 } } }, 7, by decide +kernel⟩,
   ⟨at_ { rig [] with fio := { lt := Vector.replicate 8 { modemEn := true, rx := List.replicate 256 0 } } }, 7, by decide +kernel⟩,
   ⟨at_ (rig [(F.LTX_CFG_EN 7, 1), (F.LTX_CFG_HOLD 7, 601)]), by decide +kernel⟩⟩

theorem witness_TimeSourcesMeasureQualifyAndAreLost :
    (∃ (s : State) (u : Fin 2) (h : PtpHead), regsWf s.m.regs = true ∧ s.m.ptpTakes u h = true ∧ s.m.fromMaster u h = true ∧ s.m.clk.run = true) ∧
    (∃ (s : State), regsWf s.m.regs = true ∧ s.m.flag F.TIME_PPS_IN_EN = true ∧ s.m.clk.run = true) ∧
    (∃ (s : State) (k : Fin 3), regsWf s.m.regs = true ∧ srcEnabled s.m (if k = 0 then Source.uplA else if k = 1 then Source.uplB else Source.pps) = true ∧ (s.m.src (if k = 0 then Source.uplA else if k = 1 then Source.uplB else Source.pps)).qual = false ∧ (if k = 2 then 8 else 16) ≤ (s.m.src (if k = 0 then Source.uplA else if k = 1 then Source.uplB else Source.pps)).good) ∧
    (∃ (s : State) (u : Fin 2) (h : PtpHead) (a : Announce), regsWf s.m.regs = true ∧ s.m.ptpTakes u h = true ∧ a.steps.toNat < 255 ∧ (((s.m.src (uplSrc u)).master.map (fun b => b.2.gm) = none ∨ (s.m.src (uplSrc u)).master.map (fun b => b.2.gm) = (SrcSt.master { masters := mapPut h.sender.toNat a (s.m.src (uplSrc u)).masters }).map (fun b => b.2.gm))) ∧ (s.m.clk.selected = some (uplSrc u) ∨ s.m.clk.selected = none)) ∧
    (∃ (s : State) (u : Fin 2) (h : PtpHead) (a : Announce), regsWf s.m.regs = true ∧ s.m.ptpTakes u h = true ∧ a.steps.toNat < 255 ∧ (s.m.src (uplSrc u)).master.map (fun b => b.2.gm) ≠ none ∧ (s.m.src (uplSrc u)).master.map (fun b => b.2.gm) ≠ (SrcSt.master { masters := mapPut h.sender.toNat a (s.m.src (uplSrc u)).masters }).map (fun b => b.2.gm)) ∧
    (∃ (s : State) (a : Announce), regsWf s.m.regs = true ∧ 255 ≤ a.steps.toNat) ∧
    (∃ (s : State), regsWf s.m.regs = true) ∧
    (∃ (s : State), regsWf s.m.regs = true) ∧
    (∃ (s : State), regsWf s.m.regs = true) ∧
    (∃ (s : State) (u : Fin 2) (h : PtpHead) (peer : Bool), regsWf s.m.regs = true ∧ s.m.ptpTakes u h = true ∧ s.m.flag F.TIME_PTP_P2P = peer ∧ ((peer = true ∨ s.m.fromMaster u h = true))) :=
  ⟨⟨at_ { rig [(F.TIME_PTP_EN_B, 1), (F.EXEC_STATE_STATE, 5)] with clk := { run := true, src := Vector.replicate 3 { qual := true, masters := [(1, ⟨1, 2, 3, 4, 5, 6, 0, 37, true, false, false⟩)] } } }, 1, ⟨0, 0, 1⟩, by decide +kernel⟩,
   ⟨at_ { rig [(F.TIME_PPS_IN_EN, 1), (F.EXEC_STATE_STATE, 5)] with clk := { run := true, src := Vector.replicate 3 { qual := true, lastEdge := some 32000000000 } } }, by decide +kernel⟩,
   ⟨at_ { rig [(F.TIME_PTP_EN_B, 1), (F.EXEC_STATE_STATE, 1)] with clk := { run := true, src := Vector.replicate 3 { good := 16, offset := 77 } } }, 1, by decide +kernel⟩,
   ⟨at_ { rig [(F.TIME_PTP_EN_B, 1)] with clk := { run := true, selected := some .uplB } }, 1, ⟨0, 0, 1⟩, ⟨1, 2, 3, 4, 5, 0x123456789ABCDEF0, 254, 37, true, true, false⟩, by decide +kernel⟩,
   ⟨at_ { rig [(F.TIME_PTP_EN_B, 1), (F.TIME_PTP_EN_A, 0), (F.TIME_STATUS_STATE, 2)] with clk := { run := true, selected := some .uplB, src := Vector.replicate 3 { qual := true, masters := [(7, ⟨9, 2, 3, 4, 5, 6, 0, 37, true, false, false⟩)] } } }, 1, ⟨0, 0, 1⟩, ⟨1, 2, 3, 4, 5, 0x123456789ABCDEF0, 254, 37, true, true, false⟩, by decide +kernel⟩,
   ⟨at_ (rig [(F.TIME_PTP_EN_B, 1)]), ⟨1, 2, 3, 4, 5, 6, 255, 37, true, true, false⟩, by decide +kernel⟩,
   ⟨at_ { rig [(F.TIME_PTP_EN_B, 1), (F.TIME_PTP_EN_A, 0), (F.TIME_STATUS_STATE, 2)] with clk := { ns := 9, run := true, selected := some .uplB, src := Vector.replicate 3 { qual := true, masters := [(7, ⟨9, 2, 3, 4, 5, 6, 0, 37, true, false, false⟩)] } } }, by decide +kernel⟩,
   ⟨at_ { rig [(F.TIME_PTP_EN_B, 1), (F.TIME_PTP_EN_A, 1), (F.TIME_STATUS_STATE, 2)] with clk := { ns := 9, run := true, selected := some .uplB, src := Vector.replicate 3 { qual := true } } }, by decide +kernel⟩,
   ⟨at_ { rig [(F.TIME_PPS_IN_EN, 1), (F.TIME_STATUS_STATE, 4)] with clk := { ns := 9, run := true, selected := some .pps, src := Vector.replicate 3 { qual := true } } }, by decide +kernel⟩,
   ⟨at_ (rig [(F.TIME_PTP_EN_B, 1), (F.TIME_PTP_P2P, 1)]), 1, ⟨0, 0, 1⟩, true, by decide +kernel⟩⟩

theorem witness_TimeStepsPulsesAndFreeRun :
    (∃ (s : State) (o : Int), regsWf s.m.regs = true ∧ s.m.clk.stepPending = some o ∧ s.m.clk.run = true ∧ s.m.plan.migrated = false) ∧
    (∃ (s : State), regsWf s.m.regs = true) ∧
    (∃ (s : State), regsWf s.m.regs = true) ∧
    (∃ (s : State) (t : Nat), regsWf s.m.regs = true ∧ s.m.get F.TIME_STATUS_STATE = 3 ∧ s.m.twin.follower = false ∧ s.m.clk.run = true ∧ s.m.clk.ns ≤ t ∧ max 1 (s.m.get F.TIME_CFG_HOLD_ERR) * 10 ^ 12 < 20 * 10 ^ 9 + 100 * (t - s.m.clk.holdEntry)) ∧
    (∃ (s : State) (t : Nat), regsWf s.m.regs = true ∧ s.m.get F.TIME_STATUS_STATE = 3 ∧ 20 * 10 ^ 9 + 100 * (t - s.m.clk.holdEntry) ≤ max 1 (s.m.get F.TIME_CFG_HOLD_ERR) * 10 ^ 12) :=
  ⟨⟨at_ { rig [(F.TIME_STATUS_STEP_PENDING, 1)] with clk := { run := true, ns := 4999999999, stepPending := some (-64000000) }, plan := { armed := some 5 } }, -64000000, by decide +kernel⟩,
   ⟨at_ (rig [(F.TIME_PPS_OUT_EN, 1), (F.TIME_STATUS_STATE, 3)]), by decide +kernel⟩,
   ⟨at_ { rig [] with clk := { tsyncOut := true } }, by decide +kernel⟩,
   ⟨at_ { rig [(F.TIME_STATUS_STATE, 3), (F.TIME_STATUS_SOURCE, 2)] with clk := { run := true } }, 200000000000, by decide +kernel⟩,
   ⟨at_ { rig [(F.TIME_STATUS_STATE, 3), (F.TIME_STATUS_SOURCE, 2)] with clk := { run := true } }, 9000000000, by decide +kernel⟩⟩

theorem witness_JackPathFollowsInputsAndLatches :
    (∃ (s : State), regsWf s.m.regs = true ∧ s.m.jackTable.length ≤ 64 ∧ s.m.jack.enabled = true) ∧
    (∃ (s : State) (k : Fin 64) (e : BitVec 64), regsWf s.m.regs = true ∧ s.m.jackTable.length ≤ 64 ∧ s.m.jack.enabled = true ∧ s.m.jackTable[k.val]? = some e ∧ jRelease e ≠ 0 ∧ s.m.jack.latched.contains k.val = true ∧ jCond s.m.jack.inputs e = false) ∧
    (∃ (s : State) (k : Fin 64) (h : BitVec 10) (e : BitVec 64), regsWf s.m.regs = true ∧ s.m.jackTable.length ≤ 64 ∧ s.m.jack.enabled = true ∧ s.m.jackTable[k.val]? = some e ∧ jSafety e = false ∧ s.m.isO0V h.toNat = true ∧ s.m.jack.latched.contains k.val = true ∧ jCond s.m.jack.inputs e = false) ∧
    (∃ (s : State) (k : Fin 64) (h : BitVec 10) (e : BitVec 64), regsWf s.m.regs = true ∧ s.m.jackTable.length ≤ 64 ∧ s.m.jack.enabled = true ∧ s.m.jackTable[k.val]? = some e ∧ jSafety e = true ∧ s.m.isUnlocked h.toNat = true ∧ s.m.logs.changeFull = false ∧ s.m.jack.latched.contains k.val = true ∧ jCond s.m.jack.inputs e = false) ∧
    (∃ (s : State) (k : Fin 64) (h : BitVec 10) (e : BitVec 64), regsWf s.m.regs = true ∧ s.m.jackTable.length ≤ 64 ∧ s.m.jackTable[k.val]? = some e ∧ jSafety e = true ∧ s.m.isUnlocked h.toNat = true ∧ s.m.logs.changeFull = false ∧ s.m.jack.latched.contains k.val = false) ∧
    (∃ (s : State) (k : Fin 64) (h : BitVec 10) (e : BitVec 64), regsWf s.m.regs = true ∧ s.m.jackTable.length ≤ 64 ∧ s.m.jackTable[k.val]? = some e ∧ jSafety e = true ∧ s.m.isUnlocked h.toNat = false) ∧
    (∃ (s : State) (h : BitVec 10), regsWf s.m.regs = true ∧ s.m.jackTable.length ≤ 64 ∧ s.m.jack.enabled = true ∧ s.m.isO0V h.toNat = true) ∧
    (∃ (s : State), regsWf s.m.regs = true ∧ s.m.jackTable.length ≤ 64 ∧ s.m.isOn (swPd 9) = true) :=
  ⟨⟨jackHeld, by decide +kernel⟩,
   ⟨jackHeld, 0, 0x00050C00AAAFFFE0#64, by decide +kernel⟩,
   ⟨jackHeld, 0, 1, 0x00050C00AAAFFFE0#64, by decide +kernel⟩,
   ⟨jackHeld, 1, 2, 0x00000D80AAAFFFE0#64, by decide +kernel⟩,
   ⟨at_ { jackHeld.m with jack := {} }, 1, 2, 0x00000D80AAAFFFE0#64, by decide +kernel⟩,
   ⟨jackHeld, 1, 1, 0x00000D80AAAFFFE0#64, by decide +kernel⟩,
   ⟨jackHeld, 1, by decide +kernel⟩,
   ⟨at_ (lit [9] jackHeld.m), by decide +kernel⟩⟩

theorem witness_SafetyInputPairsFaultAndClear :
    (∃ (s : State), regsWf s.m.regs = true) ∧
    (∃ (s : State) (k : Fin 8), regsWf s.m.regs = true ∧ siMode s.m k.val ≠ 0 ∧ siHealthyA s.m k ≠ siHealthyB s.m k ∧ s.m.siPast k = true ∧ siFault s.m k.val = false) ∧
    (∃ (s : State) (k : Fin 8), regsWf s.m.regs = true ∧ siMode s.m k.val ≠ 0 ∧ siHealthyA s.m k ≠ siHealthyB s.m k ∧ s.m.siPast k = true ∧ siFault s.m k.val = true) ∧
    (∃ (s : State) (k : Fin 8), regsWf s.m.regs = true ∧ s.m.siPast k = false) ∧
    (∃ (s : State) (k : Fin 8), regsWf s.m.regs = true ∧ siHealthyA s.m k ≠ siHealthyB s.m k) :=
  ⟨⟨at_ { rig [(F.SAFE_SI_CFG_MODE 7, 1), (F.SAFE_SI_STATUS_DISC_FAULT 7, 1)] with safe := { filtA := 128 } }, by decide +kernel⟩,
   ⟨at_ { rig [(F.SAFE_SI_CFG_MODE 7, 2)] with safe := {} }, 7, by decide +kernel⟩,
   ⟨at_ { rig [(F.SAFE_SI_CFG_MODE 7, 1), (F.SAFE_SI_STATUS_TEST_FAULT 7, 1)] with safe := { filtB := 128 } }, 7, by decide +kernel⟩,
   ⟨at_ { rig [(F.SAFE_SI_CFG_MODE 7, 1)] with clk := { mono := 250000 }, safe := { filtB := 128, differ := [(7, 0)] } }, 7, by decide +kernel⟩,
   ⟨at_ { rig [(F.SAFE_SI_CFG_MODE 7, 1)] with safe := { filtB := 128 } }, 7, by decide +kernel⟩⟩

theorem witness_SafetyOutputTestsLatchPairFaults :
    (∃ (s : State) (k : Fin 4) (chB : Bool), regsWf s.m.regs = true ∧ s.m.isOn (swPd 9) = true ∧ s.m.pinOn (soOut k chB) = true ∧ (if chB then 750 else 250) * 1000000 + 10000000 * k.val ≤ s.m.clk.ns % 1000000000 ∧ s.m.clk.ns % 1000000000 < (if chB then 750 else 250) * 1000000 + 10000000 * k.val + 200000 ∧ s.m.safe.pulse.contains (soCh k chB).val = false) ∧
    (∃ (s : State) (k : Fin 4) (chB : Bool), regsWf s.m.regs = true ∧ (s.m.clk.ns % 1000000000 < (if chB then 750 else 250) * 1000000 + 10000000 * k.val ∨ (if chB then 750 else 250) * 1000000 + 10000000 * k.val + 200000 ≤ s.m.clk.ns % 1000000000)) ∧
    (∃ (s : State) (k : Fin 4) (chB : Bool), regsWf s.m.regs = true ∧ s.m.pinOn (soOut k chB) = false) ∧
    (∃ (s : State) (k : Fin 4) (chB : Bool), regsWf s.m.regs = true ∧ s.m.safe.pulse.contains (soCh k chB).val = true) ∧
    (∃ (s : State) (k : Fin 4) (chB : Bool) (own : Bool), regsWf s.m.regs = true ∧ s.m.safe.pulse.contains (soCh k chB).val = true ∧ own = true ∧ s.m.safe.latch[k] = none) ∧
    (∃ (s : State) (k : Fin 4) (chB : Bool) (own : Bool) (other : Bool), regsWf s.m.regs = true ∧ s.m.safe.pulse.contains (soCh k chB).val = true ∧ own = false ∧ other ≠ s.m.readback k (!chB) ∧ s.m.safe.latch[k] = none) ∧
    (∃ (s : State) (k : Fin 4) (chB : Bool) (own : Bool), regsWf s.m.regs = true ∧ s.m.safe.pulse.contains (soCh k chB).val = false ∧ s.m.safe.after.contains (soCh k chB).val = true ∧ soCmd s.m k chB = true ∧ own = false ∧ s.m.safe.latch[k] = none) ∧
    (∃ (s : State) (k : Fin 4) (chB : Bool) (own : Bool), regsWf s.m.regs = true ∧ s.m.safe.pulse.contains (soCh k chB).val = false ∧ s.m.safe.after.contains (soCh k chB).val = true ∧ soCmd s.m k chB = true ∧ own = true) ∧
    (∃ (s : State) (k : Fin 4) (chB : Bool), regsWf s.m.regs = true ∧ s.m.isOn (swPd 9) = true ∧ soCmd s.m k chB = false ∧ s.m.safe.latch[k] = none) ∧
    (∃ (s : State) (k : Fin 4) (chB : Bool), regsWf s.m.regs = true ∧ s.m.isOn (swPd 9) = true ∧ soCmd s.m k chB = true ∧ s.m.safe.pulse.contains (soCh k chB).val = false ∧ s.m.safe.latch[k] = none) ∧
    (∃ (s : State) (k : Fin 4), regsWf s.m.regs = true ∧ s.m.isOn (swPd 9) = true ∧ s.m.safe.latch[k] = none) ∧
    (∃ (s : State) (k : Fin 4), regsWf s.m.regs = true ∧ s.m.isOn (swPd 9) = true ∧ soCmd s.m k false = false ∧ soCmd s.m k true = false) ∧
    (∃ (s : State) (pass : Bool), regsWf s.m.regs = true ∧ s.m.isOn (swPd 9) = true ∧ pass = false) ∧
    (∃ (s : State) (h : BitVec 10) (x : Sess), regsWf s.m.regs = true ∧ s.m.sess h.toNat = some x ∧ x.safeAt + 300000 ≤ s.m.optime) ∧
    (∃ (s : State), regsWf s.m.regs = true ∧ s.m.safe.blocked = true ∧ s.m.safe.blockUntil ≤ s.m.optime) :=
  ⟨⟨at_ (lit [9] { rig [(F.EXEC_STATE_STATE, 5)] with clk := { ns := 3780000000 }, outs := Vector.replicate 48 { launched := some .on } }), 3, true, by decide +kernel⟩,
   ⟨at_ (lit [9] { rig [(F.EXEC_STATE_STATE, 5)] with outs := Vector.replicate 48 { launched := some .on } }), 3, true, by decide +kernel⟩,
   ⟨at_ (rig []), 3, true, by decide +kernel⟩,
   ⟨at_ { rig [] with safe := { pulse := [7] } }, 3, true, by decide +kernel⟩,
   ⟨at_ { rig [] with safe := { pulse := [7] } }, 3, true, true, by decide +kernel⟩,
   ⟨at_ { rig [] with safe := { pulse := [7] } }, 3, true, false, true, by decide +kernel⟩,
   ⟨at_ { rig [(F.EXEC_STATE_STATE, 5)] with outs := Vector.replicate 48 { launched := some .on }, safe := { after := [7] } }, 3, true, false, by decide +kernel⟩,
   ⟨at_ { rig [(F.EXEC_STATE_STATE, 5)] with outs := Vector.replicate 48 { launched := some .on }, safe := { after := [7] } }, 3, true, true, by decide +kernel⟩,
   ⟨at_ (lit [9] (rig [])), 3, true, by decide +kernel⟩,
   ⟨at_ (lit [9] { rig [(F.EXEC_STATE_STATE, 5)] with outs := Vector.replicate 48 { launched := some .on } }), 3, true, by decide +kernel⟩,
   ⟨at_ (lit [9] { rig [(F.EXEC_STATE_STATE, 5)] with outs := Vector.replicate 48 { launched := some .on } }), 3, by decide +kernel⟩,
   ⟨at_ (lit [9] (rig [(F.EXEC_STATE_STATE, 5)])), 3, by decide +kernel⟩,
   ⟨at_ (lit [9] { rig [(F.EXEC_STATE_STATE, 5)] with outs := Vector.replicate 48 { launched := some .on } }), false, by decide +kernel⟩,
   ⟨at_ { jackHeld.m with nvm := { counters := Vector.replicate 24 (⟨300000, true⟩, ⟨0, true⟩) } }, 2, { role := .safety, unlocked := true }, by decide +kernel⟩,
   ⟨at_ { rig [] with safe := { blocked := true, fails := 3 } }, by decide +kernel⟩⟩

theorem witness_FieldExchangesEndOrTryAgain :
    (∃ (s : State) (p : Fin 19) (e : Exch) (r : PollReq) (b : RemBind), regsWf s.m.regs = true ∧ (s.m.ports.port[p]).exch = some e ∧ e.waiting = false ∧ s.m.reqDef p e.req = some r ∧ r.write = false ∧ s.m.reqBinds r = [b]) ∧
    (∃ (s : State) (p : Fin 19) (e : Exch) (r : PollReq), regsWf s.m.regs = true ∧ (s.m.ports.port[p]).exch = some e ∧ e.waiting = false ∧ s.m.reqDef p e.req = some r) ∧
    (∃ (s : State) (p : Fin 19) (e : Exch) (r : PollReq), regsWf s.m.regs = true ∧ (s.m.ports.port[p]).exch = some e ∧ e.waiting = false ∧ s.m.reqDef p e.req = some r ∧ e.attempt < s.m.get (F.FBUS_CFG_RETRY p.val) ∧ s.m.reachesSlot p r = false) ∧
    (∃ (s : State) (p : Fin 19) (e : Exch) (r : PollReq), regsWf s.m.regs = true ∧ (s.m.ports.port[p]).exch = some e ∧ s.m.reqDef p e.req = some r ∧ e.attempt < s.m.get (F.FBUS_CFG_RETRY p.val) ∧ s.m.reachesSlot p r = false) ∧
    (∃ (s : State) (p : Fin 19) (e : Exch) (r : PollReq), regsWf s.m.regs = true ∧ (s.m.ports.port[p]).exch = some e ∧ s.m.reqDef p e.req = some r ∧ (s.m.get (F.FBUS_CFG_RETRY p.val) ≤ e.attempt ∨ s.m.reachesSlot p r = true)) ∧
    (∃ (s : State) (p : Fin 19) (e : Exch) (r : PollReq), regsWf s.m.regs = true ∧ s.m.portEn p = true ∧ s.m.proto p = 5 ∧ (s.m.ports.port[p]).exch = some e ∧ s.m.reqDef p e.req = some r ∧ e.attempt < s.m.get (F.FBUS_CFG_RETRY p.val) ∧ s.m.reachesSlot p r = false) ∧
    (∃ (s : State) (p : Fin 19) (e : Exch) (r : PollReq) (st : Nat), regsWf s.m.regs = true ∧ s.m.portEn p = true ∧ s.m.proto p = 7 ∧ (s.m.ports.port[p]).exch = some e ∧ s.m.reqDef p e.req = some r ∧ r.station = st ∧ (s.m.get (F.FBUS_CFG_RETRY p.val) ≤ e.attempt ∨ s.m.reachesSlot p r = true)) ∧
    (∃ (s : State) (p : Fin 19), regsWf s.m.regs = true ∧ s.m.portEn p = true ∧ s.m.proto p = 7 ∧ (s.m.ports.port[p]).exch = none) ∧
    (∃ (s : State) (p : Fin 19) (e : Exch), regsWf s.m.regs = true ∧ s.m.portEn p = true ∧ s.m.proto p = 3 ∧ (s.m.ports.port[p]).exch = some e) ∧
    (∃ (s : State) (p : Fin 19), regsWf s.m.regs = true ∧ s.m.portEn p = true ∧ s.m.proto p = 3 ∧ (s.m.ports.port[p]).exch = none) ∧
    (∃ (s : State) (p : Fin 19) (e : Exch) (r : PollReq) (mv : BitVec 16), regsWf s.m.regs = true ∧ mv.toNat < 9500 ∧ s.m.portEn p = true ∧ s.m.proto p = 5 ∧ (s.m.ports.port[p]).exch = some e ∧ s.m.reqDef p e.req = some r) ∧
    (∃ (s : State) (mv : BitVec 16), regsWf s.m.regs = true ∧ 9500 ≤ mv.toNat) ∧
    (∃ (s : State) (p : Fin 19) (mv : BitVec 16), regsWf s.m.regs = true ∧ 11500 < mv.toNat ∧ s.m.flag (F.FBUS_STATUS_NO_POWER p.val) = true) ∧
    (∃ (s : State) (mv : BitVec 16), regsWf s.m.regs = true ∧ mv.toNat ≤ 11500) ∧
    (∃ (s : State) (p : Fin 19), regsWf s.m.regs = true ∧ s.m.portEn p = true ∧ s.m.proto p = 5 ∧ (s.m.ports.port[p]).exch = none) ∧
    (∃ (s : State) (p : Fin 19), regsWf s.m.regs = true ∧ s.m.portEn p = true ∧ s.m.proto p = 7) :=
  ⟨⟨netAt 18 7 0, 18, { req := 0 }, { port := 18, idx := 0, station := 5, write := false, points := [7] }, { point := 7, port := 18, req := 0, len := 16 }, by decide +kernel⟩,
   ⟨netAt 18 7 0, 18, { req := 0 }, { port := 18, idx := 0, station := 5, write := false, points := [7] }, by decide +kernel⟩,
   ⟨netAt 18 7 0, 18, { req := 0 }, { port := 18, idx := 0, station := 5, write := false, points := [7] }, by decide +kernel⟩,
   ⟨netAt 18 7 0, 18, { req := 0 }, { port := 18, idx := 0, station := 5, write := false, points := [7] }, by decide +kernel⟩,
   ⟨netAt 18 7 1, 18, { req := 0, attempt := 1 }, { port := 18, idx := 0, station := 5, write := false, points := [7] }, by decide +kernel⟩,
   ⟨netAt 6 5 0, 6, { req := 0 }, { port := 6, idx := 0, station := 5, write := false, points := [7] }, by decide +kernel⟩,
   ⟨netAt 18 7 1 [] { tcp := [5] }, 18, { req := 0, attempt := 1 }, { port := 18, idx := 0, station := 5, write := false, points := [7] }, 5, by decide +kernel⟩,
   ⟨netAt 18 7 1 [] { tcp := [5] } false, 18, by decide +kernel⟩,
   ⟨netAt 4 3 0, 4, { req := 0 }, by decide +kernel⟩,
   ⟨netAt 4 3 0 [] { passOpen := true } false, 4, by decide +kernel⟩,
   ⟨netAt 6 5 0 [(F.FBUS_STATUS_UP 6, 1)], 6, { req := 0 }, { port := 6, idx := 0, station := 5, write := false, points := [7] }, 9499, by decide +kernel⟩,
   ⟨netAt 6 5 0, 9500, by decide +kernel⟩,
   ⟨netAt 6 5 0 [(F.FBUS_STATUS_NO_POWER 6, 1)], 6, 11501, by decide +kernel⟩,
   ⟨netAt 6 5 0 [(F.FBUS_STATUS_NO_POWER 6, 1)], 11500, by decide +kernel⟩,
   ⟨netAt 6 5 0 [] { objs := [(0, { id := 3, xtd := false, new := true })] } false, 6, by decide +kernel⟩,
   ⟨netAt 18 7 0, 18, by decide +kernel⟩⟩

theorem witness_CanPortsFilterQueueAndGoBusOff :
    (∃ (s : State) (p : Fin 19) (f : CanFrame), regsWf s.m.regs = true ∧ s.m.canPort p = true ∧ filtAccept (s.m.filters p) f = true ∧ (s.m.ports.port[p]).objs.any (fun o => o.2.id == f.id && o.2.xtd == f.xtd) = true) ∧
    (∃ (s : State) (p : Fin 19) (f : CanFrame), regsWf s.m.regs = true ∧ s.m.canPort p = true ∧ filtAccept (s.m.filters p) f = true ∧ (s.m.ports.port[p]).objs.any (fun o => o.2.id == f.id && o.2.xtd == f.xtd) = false ∧ (s.m.ports.port[p]).passOpen = true) ∧
    (∃ (s : State) (p : Fin 19) (f : CanFrame), regsWf s.m.regs = true ∧ s.m.canPort p = true ∧ filtAccept (s.m.filters p) f = true ∧ (s.m.ports.port[p]).objs.any (fun o => o.2.id == f.id && o.2.xtd == f.xtd) = false ∧ (s.m.ports.port[p]).passOpen = false) ∧
    (∃ (s : State) (p : Fin 19) (f : CanFrame), regsWf s.m.regs = true ∧ s.m.canPort p = true ∧ filtAccept (s.m.filters p) f = false) ∧
    (∃ (s : State) (p : Fin 19), regsWf s.m.regs = true ∧ s.m.canPort p = true) ∧
    (∃ (s : State) (p : Fin 19) (g : TxFrame) (rest : List TxFrame), regsWf s.m.regs = true ∧ s.m.canPort p = true ∧ (s.m.ports.port[p]).queue = g :: rest ∧ g.tries < s.m.get (F.FBUS_CFG_RETRY p.val)) ∧
    (∃ (s : State) (p : Fin 19) (g : TxFrame) (rest : List TxFrame), regsWf s.m.regs = true ∧ s.m.canPort p = true ∧ (s.m.ports.port[p]).queue = g :: rest ∧ s.m.get (F.FBUS_CFG_RETRY p.val) ≤ g.tries ∧ g.entry = none) ∧
    (∃ (s : State) (p : Fin 19) (g : TxFrame) (rest : List TxFrame) (r : PollReq) (n : Nat), regsWf s.m.regs = true ∧ s.m.canPort p = true ∧ (s.m.ports.port[p]).queue = g :: rest ∧ g.entry = some n ∧ rest.any (fun y => y.entry == some n) = false ∧ s.m.reqDef p n = some r) ∧
    (∃ (s : State) (p : Fin 19) (g : TxFrame) (rest : List TxFrame) (n : Nat), regsWf s.m.regs = true ∧ s.m.canPort p = true ∧ (s.m.ports.port[p]).queue = g :: rest ∧ g.entry = some n ∧ rest.any (fun y => y.entry == some n) = true) ∧
    (∃ (s : State) (p : Fin 19), regsWf s.m.regs = true ∧ s.m.canPort p = true) ∧
    (∃ (s : State) (p : Fin 19), regsWf s.m.regs = true ∧ s.m.flag (F.FBUS_STATUS_BUS_OFF p.val) = true) :=
  ⟨⟨netAt 0 1 0 [] { objs := [(0, { id := 0x7FF, xtd := false })] } false, 0, ⟨0x7FF, false, false, [9#8]⟩, by decide +kernel⟩,
   ⟨netAt 0 1 0 [] { passOpen := true } false, 0, ⟨0x7FF, false, false, [9#8]⟩, by decide +kernel⟩,
   ⟨netAt 0 1 0 [] {} false, 0, ⟨0x7FF, false, false, [9#8]⟩, by decide +kernel⟩,
   ⟨netAt 0 1 0 [] {} false, 0, ⟨0x7FF, true, false, []⟩, by decide +kernel⟩,
   ⟨netAt 0 1 0 [(F.FBUS_CAN_ERR_REC 0, 120)] {} false, 0, by decide +kernel⟩,
   ⟨netAt 0 1 0 [] { queue := [{ frame := ⟨1, false, false, []⟩, entry := some 0 }] } false, 0, { frame := ⟨1, false, false, []⟩, entry := some 0 }, [], by decide +kernel⟩,
   ⟨netAt 0 1 0 [] { queue := [{ frame := ⟨1, false, false, []⟩, entry := none, tries := 1 }] } false, 0, { frame := ⟨1, false, false, []⟩, entry := none, tries := 1 }, [], by decide +kernel⟩,
   ⟨netAt 0 1 0 [] { queue := [{ frame := ⟨1, false, false, []⟩, entry := some 0 }] } false, 0, { frame := ⟨1, false, false, []⟩, entry := some 0 }, [], { port := 0, idx := 0, station := 5, write := false, points := [7] }, 0, by decide +kernel⟩,
   ⟨netAt 0 1 0 [] { queue := List.replicate 2 { frame := ⟨1, false, false, []⟩, entry := some 0 } } false, 0, { frame := ⟨1, false, false, []⟩, entry := some 0 }, [{ frame := ⟨1, false, false, []⟩, entry := some 0 }], 0, by decide +kernel⟩,
   ⟨netAt 0 1 0 [] { queue := List.replicate 2 { frame := ⟨1, false, false, []⟩, entry := some 0 } } false, 0, by decide +kernel⟩,
   ⟨netAt 0 1 0 [(F.FBUS_STATUS_BUS_OFF 0, 1), (F.FBUS_CAN_ERR_TEC 0, 255), (F.FBUS_CAN_ERR_STATE 0, 2)] {} false, 0, by decide +kernel⟩⟩

theorem witness_PortPowerAndPassThrough :
    (∃ (s : State), regsWf s.m.regs = true ∧ s.m.isOn swMbus = true) ∧
    (∃ (s : State), regsWf s.m.regs = true ∧ s.m.isOn (swPd 10) = true ∧ s.m.flag (F.FBUS_CFG_EN 8) = true ∧ s.m.get (F.FBUS_CFG_PROTO 8) = 6 ∧ s.m.supplyPast 8 250000000 = true ∧ SwReady s.m swMbus) ∧
    (∃ (s : State), regsWf s.m.regs = true ∧ s.m.supplyPast 8 250000000 = false) ∧
    (∃ (s : State) (k : Fin 8), regsWf s.m.regs = true ∧ s.m.isOn (swT1l k) = true) ∧
    (∃ (s : State), regsWf s.m.regs = true) ∧
    (∃ (s : State) (k : Fin 8), regsWf s.m.regs = true ∧ s.m.isOn (swPd 10) = true ∧ (s.m.ports.port[t1lPort k]).off = true ∧ s.m.supplyPast (9 + k.val) 125000000 = true ∧ (((s.m.ports.port[t1lPort k]).shed = false ∨ s.m.t1lTotal + 100 * s.m.get (F.FBUS_PWR_CFG_LIMIT (9 + k.val)) ≤ 32000)) ∧ SwReady s.m (swT1l k)) ∧
    (∃ (s : State) (k : Fin 8), regsWf s.m.regs = true ∧ s.m.supplyPast (9 + k.val) 125000000 = false) ∧
    (∃ (s : State) (k : Fin 8) (present : Bool), regsWf s.m.regs = true ∧ s.m.isOn (swPd 10) = true ∧ present = true ∧ s.m.flag (F.FBUS_PWR_CFG_PWR_EN (9 + k.val)) = true ∧ (s.m.ports.port[t1lPort k]).off = false ∧ SwReady s.m (swT1l k)) ∧
    (∃ (s : State) (k : Fin 8) (present : Bool), regsWf s.m.regs = true ∧ s.m.isOn (swPd 10) = true ∧ present = false ∧ s.m.isOn (swT1l k) = true) ∧
    (∃ (s : State) (code : BitVec 6) (p : Fin 19) (y : PassX), regsWf s.m.regs = true ∧ s.m.passNext code.toNat = some y ∧ code.toNat = p.val ∧ s.m.portEn p = true ∧ 0 < s.m.get (F.FBUS_CFG_PASS p.val) ∧ (s.m.ports.port[p]).exch = none ∧ s.m.proto p ≠ 1) ∧
    (∃ (s : State) (p : Fin 19) (y : PassX), regsWf s.m.regs = true ∧ s.m.ports.port[p] = { (s.m.ports.port[p]) with passRun := some y.handle, queue := [] }) :=
  ⟨⟨netAt 8 6 0, by decide +kernel⟩,
   ⟨at_ (lit [10] (rig [(F.FBUS_CFG_PROTO 8, 6), (F.FBUS_CFG_EN 8, 1)])), by decide +kernel⟩,
   ⟨at_ { lit [10] (rig [(F.FBUS_CFG_PROTO 8, 6)]) with ports := { offAt := [(8, 0)] } }, by decide +kernel⟩,
   ⟨at_ (lit [28] (rig [(F.FBUS_PWR_STATUS_ON 16, 1), (F.FBUS_PWR_STATUS_POWER 16, 9000)])), 7, by decide +kernel⟩,
   ⟨at_ (lit [21, 22, 23, 24, 25, 26, 27, 28] (rig [])), by decide +kernel⟩,
   ⟨at_ { lit [10] (rig []) with ports := { port := (Vector.replicate 19 {}).set 16 { off := true } } }, 7, by decide +kernel⟩,
   ⟨at_ { lit [10] (rig []) with ports := { offAt := [(16, 0)], port := (Vector.replicate 19 {}).set 16 { off := true } } }, 7, by decide +kernel⟩,
   ⟨at_ (lit [10] (rig [(F.FBUS_PWR_CFG_PWR_EN 16, 1), (F.FBUS_PWR_CFG_LIMIT 16, 70)])), 7, true, by decide +kernel⟩,
   ⟨at_ (lit [10, 28] (rig [(F.FBUS_PWR_STATUS_ON 16, 1)])), 7, false, by decide +kernel⟩,
   ⟨at_ { (netAt 18 7 0 [(F.FBUS_CFG_PASS 18, 1)] {} false).m with ports := { pass := [{ handle := 1, session := 0, port := 18, station := 5, data := [] }] } }, 18, 18, { handle := 1, session := 0, port := 18, station := 5, data := [] }, by decide +kernel⟩,
   ⟨at_ { rig [] with ports := { pass := [{ handle := 1, session := 0, port := 18, station := 5, data := [] }], port := (Vector.replicate 19 {}).set 18 { passOpen := true, passRun := some 1 } } }, 18, { handle := 1, session := 0, port := 18, station := 5, data := [] }, by decide +kernel⟩⟩

theorem witness_UplinkFramesUseThePool :
    (∃ (s : State) (u : Fin 2) (f : UplFrame), regsWf s.m.regs = true ∧ s.m.flag (F.UPL_STATUS_LINK u.val) = true ∧ f.broken = true) ∧
    (∃ (s : State) (u : Fin 2) (f : UplFrame), regsWf s.m.regs = true ∧ s.m.flag (F.UPL_STATUS_LINK u.val) = true ∧ f.broken = false ∧ s.m.rxOk u f = false) ∧
    (∃ (s : State) (u : Fin 2) (f : UplFrame) (p : List Byte), regsWf s.m.regs = true ∧ s.m.flag (F.UPL_STATUS_LINK u.val) = true ∧ f.broken = false ∧ s.m.rxOk u f = true ∧ ((s.m.planLoaded = false ∨ s.m.regionOk 10 2 0x200000 = true)) ∧ f.kind = .orpor p ∧ (s.m.poolPut { ch := 4 * u.val + (if s.m.rxExpress u f then 0 else 1), cells := cellsOf f.len, packet := some p }).2 = true) ∧
    (∃ (s : State) (u : Fin 2) (f : UplFrame) (p : List Byte), regsWf s.m.regs = true ∧ s.m.flag (F.UPL_STATUS_LINK u.val) = true ∧ f.broken = false ∧ s.m.rxOk u f = true ∧ ((s.m.planLoaded = false ∨ s.m.regionOk 10 2 0x200000 = true)) ∧ f.kind = .orpor p ∧ (s.m.poolPut { ch := 4 * u.val + (if s.m.rxExpress u f then 0 else 1), cells := cellsOf f.len, packet := some p }).2 = false) ∧
    (∃ (s : State) (u : Fin 2) (f : UplFrame), regsWf s.m.regs = true ∧ s.m.flag (F.UPL_STATUS_LINK u.val) = true ∧ f.broken = false ∧ s.m.rxOk u f = true ∧ ((s.m.planLoaded = false ∨ s.m.regionOk 10 2 0x200000 = true)) ∧ f.kind = .ptp) ∧
    (∃ (s : State) (u : Fin 2) (f : UplFrame), regsWf s.m.regs = true ∧ s.m.flag (F.UPL_STATUS_LINK u.val) = true ∧ f.broken = false ∧ s.m.rxOk u f = true ∧ ((s.m.planLoaded = false ∨ s.m.regionOk 10 2 0x200000 = true)) ∧ f.kind = .answered) ∧
    (∃ (s : State) (u : Fin 2) (f : UplFrame), regsWf s.m.regs = true ∧ s.m.flag (F.UPL_STATUS_LINK u.val) = true ∧ f.broken = false ∧ s.m.rxOk u f = true ∧ s.m.planLoaded = true ∧ s.m.regionOk 10 2 0x200000 = false) ∧
    (∃ (s : State) (u : Fin 2), regsWf s.m.regs = true ∧ s.m.flag (F.UPL_STATUS_LINK u.val) = true ∧ s.m.uplSet u F.UPL_CFG_IGNORE_PAUSE ≠ 0) ∧
    (∃ (s : State) (u : Fin 2), regsWf s.m.regs = true ∧ s.m.flag (F.UPL_STATUS_LINK u.val) = true ∧ s.m.uplSet u F.UPL_CFG_IGNORE_PAUSE = 0) ∧
    (∃ (s : State) (u : Fin 2) (x : Bool) (g : PoolFrame), regsWf s.m.regs = true ∧ s.m.flag (F.UPL_STATUS_LINK u.val) = true ∧ s.m.pool.frames.find? (fun y => y.ch == 4 * u.val + (if x then 2 else 3)) = some g ∧ s.m.txStopped u x g = false ∧ ((x = true ∨ s.m.txBehind u g = false))) ∧
    (∃ (s : State) (u : Fin 2) (x : Bool) (g : PoolFrame), regsWf s.m.regs = true ∧ s.m.flag (F.UPL_STATUS_LINK u.val) = true ∧ s.m.pool.frames.find? (fun y => y.ch == 4 * u.val + (if x then 2 else 3)) = some g ∧ s.m.txStopped u x g = true) ∧
    (∃ (s : State) (u : Fin 2) (x : Bool) (g : PoolFrame), regsWf s.m.regs = true ∧ s.m.flag (F.UPL_STATUS_LINK u.val) = true ∧ x = false ∧ s.m.pool.frames.find? (fun y => y.ch == 4 * u.val + (if x then 2 else 3)) = some g ∧ s.m.txBehind u g = true) ∧
    (∃ (s : State) (u : Fin 2) (x : Bool) (g : PoolFrame), regsWf s.m.regs = true ∧ s.m.flag (F.UPL_STATUS_LINK u.val) = true ∧ s.m.pool.frames.find? (fun y => y.ch == 4 * u.val + (if x then 2 else 3)) = some g ∧ g.at_ + 1250000 ≤ s.m.clk.mono) ∧
    (∃ (s : State) (u : Fin 2) (x : Bool) (g : PoolFrame), regsWf s.m.regs = true ∧ s.m.flag (F.UPL_STATUS_LINK u.val) = true ∧ s.m.pool.frames.find? (fun y => y.ch == 4 * u.val + (if x then 2 else 3)) = some g ∧ s.m.clk.mono < g.at_ + 1250000) :=
  ⟨⟨linkAt 1, 1, { len := 64, broken := true, kind := .ptp }, by decide +kernel⟩,
   ⟨linkAt 1, 1, { len := 63, kind := .ptp }, by decide +kernel⟩,
   ⟨linkAt 1, 1, { len := 1522, kind := .orpor [1#8] }, [1#8], by decide +kernel⟩,
   ⟨linkAt 1 [] {} [{ ch := 5, cells := 8000 }], 1, { len := 1522, kind := .orpor [1#8] }, [1#8], by decide +kernel⟩,
   ⟨linkAt 1, 1, { len := 64, kind := .ptp }, by decide +kernel⟩,
   ⟨linkAt 1, 1, { len := 64, kind := .answered }, by decide +kernel⟩,
   ⟨at_ { (linkAt 1 [(F.EXEC_STATE_NOPLAN, 0)]).m with plan := { active := some onePlan } }, 1, { len := 64, kind := .ptp }, by decide +kernel⟩,
   ⟨linkAt 1, 1, by decide +kernel⟩,
   ⟨at_ { (linkAt 1).m with upl := Vector.replicate 2 {} }, 1, by decide +kernel⟩,
   ⟨linkAt 1 [] {} [{ ch := 7, cells := 2 }, { ch := 6, cells := 1 }, { ch := 6, cells := 1, ptp := true }], 1, true, { ch := 6, cells := 1 }, by decide +kernel⟩,
   ⟨linkAt 1 [] { stop := (0, 9) } [{ ch := 6, cells := 1, at_ := 1 }], 1, true, { ch := 6, cells := 1, at_ := 1 }, by decide +kernel⟩,
   ⟨linkAt 1 [] {} [{ ch := 7, cells := 1 }, { ch := 6, cells := 1 }], 1, false, { ch := 7, cells := 1 }, by decide +kernel⟩,
   ⟨at_ { (linkAt 1 [] {} [{ ch := 7, cells := 2 }, { ch := 6, cells := 1 }]).m with clk := { mono := 1250000 } }, 1, true, { ch := 6, cells := 1 }, by decide +kernel⟩,
   ⟨linkAt 1 [] {} [{ ch := 6, cells := 1 }], 1, true, { ch := 6, cells := 1 }, by decide +kernel⟩⟩

theorem witness_UplinksNegotiateShiftAndGoDown :
    (∃ (s : State) (u : Fin 2) (offer : BitVec 5) (c : Nat), regsWf s.m.regs = true ∧ s.m.flag (F.UPL_STATUS_LINK u.val) = false ∧ s.m.uplRuns u = true ∧ s.m.uplEn u = true ∧ s.m.isSfp u = false ∧ (s.m.upl[u]).shift = none ∧ highestIn (s.m.uplRange u) offer.toNat = some c) ∧
    (∃ (s : State) (u : Fin 2) (offer : BitVec 5), regsWf s.m.regs = true ∧ s.m.flag (F.UPL_STATUS_LINK u.val) = false ∧ s.m.uplRuns u = true ∧ s.m.uplEn u = true ∧ s.m.isSfp u = false ∧ (s.m.upl[u]).shift = none ∧ highestIn (s.m.uplRange u) offer.toNat = none) ∧
    (∃ (s : State) (u : Fin 2) (offer : BitVec 5) (c : Nat), regsWf s.m.regs = true ∧ s.m.flag (F.UPL_STATUS_LINK u.val) = false ∧ s.m.uplRuns u = true ∧ s.m.uplEn u = true ∧ s.m.isSfp u = false ∧ (s.m.upl[u]).shift = some c ∧ offer.getLsbD c = true) ∧
    (∃ (s : State) (u : Fin 2) (offer : BitVec 5) (c : Nat) (n : Nat), regsWf s.m.regs = true ∧ s.m.flag (F.UPL_STATUS_LINK u.val) = false ∧ s.m.uplRuns u = true ∧ s.m.uplEn u = true ∧ s.m.isSfp u = false ∧ (s.m.upl[u]).shift = some n ∧ offer.getLsbD n = false ∧ highestIn (s.m.uplCodes u) offer.toNat = some c) ∧
    (∃ (s : State) (u : Fin 2) (k : BitVec 5) (c : Nat), regsWf s.m.regs = true ∧ s.m.flag (F.UPL_STATUS_LINK u.val) = false ∧ s.m.uplRuns u = true ∧ s.m.uplEn u = true ∧ s.m.isSfp u = true ∧ s.m.flag (F.UPL_STATUS_LOS u.val) = false ∧ s.m.st ≠ 2 ∧ (s.m.upl[u]).sfp = some k ∧ highestIn (s.m.uplRange u) k.toNat = some c) ∧
    (∃ (s : State) (u : Fin 2), regsWf s.m.regs = true ∧ s.m.flag (F.UPL_STATUS_LINK u.val) = true) ∧
    (∃ (s : State) (u : Fin 2), regsWf s.m.regs = true ∧ s.m.flag (F.UPL_STATUS_LINK u.val) = true ∧ s.m.uplSet u F.UPL_CFG_PREEMPT_EN ≠ 0) ∧
    (∃ (s : State), regsWf s.m.regs = true ∧ s.m.fx = true ∧ s.m.isOn (swPd 11) = true) ∧
    (∃ (s : State), regsWf s.m.regs = true ∧ s.m.fx = true ∧ s.m.isOn (swPd 11) = false) ∧
    (∃ (s : State), regsWf s.m.regs = true ∧ s.m.fx = false) ∧
    (∃ (s : State) (los : Bool), regsWf s.m.regs = true ∧ s.m.fx = true ∧ s.m.isOn (swPd 11) = true ∧ s.m.flag (F.UPL_STATUS_SFP_PRESENT 0) = true ∧ los = true ∧ s.m.flag (F.UPL_STATUS_LINK 0) = true) ∧
    (∃ (s : State) (los : Bool), regsWf s.m.regs = true ∧ s.m.fx = true ∧ s.m.isOn (swPd 11) = true ∧ s.m.flag (F.UPL_STATUS_SFP_PRESENT 0) = true ∧ los = false) ∧
    (∃ (s : State), regsWf s.m.regs = true ∧ s.m.fx = true ∧ s.m.isOn (swPd 11) = true) ∧
    (∃ (s : State) (u : Fin 2), regsWf s.m.regs = true ∧ s.m.shifts u = true ∧ (s.m.upl[u]).loads.length + 1 < max 10 (s.m.uplSet u F.UPL_SHIFT_TIME_DOWN_DWELL)) ∧
    (∃ (s : State) (u : Fin 2) (c : Nat) (tx : BitVec 40) (rx : BitVec 40), regsWf s.m.regs = true ∧ s.m.shifts u = true ∧ (s.m.upl[u]).loads.length + 1 = max 10 (s.m.uplSet u F.UPL_SHIFT_TIME_DOWN_DWELL) ∧ (s.m.uplRange u).find? (fun d => decide (d < s.m.get (F.UPL_STATUS_SPEED u.val)) && decide ((((s.m.upl[u]).loads ++ [max tx.toNat rx.toNat]).foldl (· + ·) 0) * 100 ≤ uplBps d * max 1 (s.m.uplSet u F.UPL_SHIFT_DOWN_THR) * max 10 (s.m.uplSet u F.UPL_SHIFT_TIME_DOWN_DWELL))) = some c ∧ s.m.holdoffOver u = true ∧ s.m.uplSet u F.UPL_CFG_SHIFT_GUARD = 0) ∧
    (∃ (s : State) (u : Fin 2) (c : Nat), regsWf s.m.regs = true ∧ s.m.shifts u = true ∧ s.m.upTarget u = some c ∧ s.m.holdoffOver u = true) ∧
    (∃ (s : State) (u : Fin 2) (c : Nat), regsWf s.m.regs = true ∧ s.m.shifts u = true ∧ s.m.upTarget u = some c ∧ s.m.holdoffOver u = false) ∧
    (∃ (s : State) (u : Fin 2), regsWf s.m.regs = true ∧ s.m.upDue u = false) ∧
    (∃ (s : State) (u : Fin 2) (c : Nat), regsWf s.m.regs = true ∧ s.m.shifts u = true ∧ (s.m.upl[u]).waiting = true ∧ s.m.holdoffOver u = true ∧ s.m.upTarget u = some c) ∧
    (∃ (s : State) (u : Fin 2), regsWf s.m.regs = true ∧ s.m.holdoffOver u = false) ∧
    (∃ (s : State) (u : Fin 2) (c : Nat), regsWf s.m.regs = true ∧ (s.m.upl[u]).shift = some c ∧ (s.m.upl[u]).shiftAt + 75000000 ≤ s.m.clk.mono ∧ s.m.flag (F.UPL_STATUS_LINK u.val) = false) ∧
    (∃ (s : State) (u : Fin 2), regsWf s.m.regs = true ∧ s.m.clk.mono < (s.m.upl[u]).shiftAt + 75000000) :=
  ⟨⟨linkAt 0 [(F.UPL_STATUS_LINK 1, 0)], 1, 3, 1, by decide +kernel⟩,
   ⟨linkAt 0 [(F.UPL_STATUS_LINK 1, 0)], 1, 0, by decide +kernel⟩,
   ⟨linkAt 0 [(F.UPL_STATUS_LINK 1, 0)] { shift := some 1 }, 1, 3, 1, by decide +kernel⟩,
   ⟨linkAt 0 [(F.UPL_STATUS_LINK 1, 0)] { shift := some 4 }, 1, 3, 1, 4, by decide +kernel⟩,
   ⟨linkAt 0 [] { sfp := some 2 }, 0, 2, 1, by decide +kernel⟩,
   ⟨linkAt 1 [] {} [{ ch := 7, cells := 2 }, { ch := 5, cells := 1 }], 1, by decide +kernel⟩,
   ⟨linkAt 1 [(F.UPL_STATUS_PREEMPT_ACTIVE 1, 0)], 1, by decide +kernel⟩,
   ⟨linkAt 1, by decide +kernel⟩,
   ⟨at_ (rig []), by decide +kernel⟩,
   ⟨at_ { rig [] with fx := false }, by decide +kernel⟩,
   ⟨linkAt 1 [(F.UPL_STATUS_SFP_PRESENT 0, 1), (F.UPL_STATUS_LINK 0, 1)], true, by decide +kernel⟩,
   ⟨linkAt 1 [(F.UPL_STATUS_SFP_PRESENT 0, 1), (F.UPL_STATUS_LOS 0, 1)], false, by decide +kernel⟩,
   ⟨linkAt 1 [(F.UPL_STATUS_SFP_PRESENT 0, 1), (F.UPL_STATUS_LINK 0, 1)] { sfp := some 2 }, by decide +kernel⟩,
   ⟨at_ { (linkAt 1).m with upl := Vector.replicate 2 { live := [0x80, 0, 0] } }, 1, by decide +kernel⟩,
   ⟨at_ { (linkAt 4).m with upl := Vector.replicate 2 { live := [0x280, 0, 0], loads := List.replicate 9 0 }, nvm := { counters := Vector.replicate 24 (⟨10000, true⟩, ⟨0, true⟩) } }, 1, 0, 5000, 7000, by decide +kernel⟩,
   ⟨at_ { (linkAt 0).m with upl := Vector.replicate 2 { live := [0x290, 0, 0], fullAt := some 0 }, clk := { mono := 250000 }, nvm := { counters := Vector.replicate 24 (⟨10000, true⟩, ⟨0, true⟩) } }, 1, 1, by decide +kernel⟩,
   ⟨at_ { (linkAt 0).m with clk := { mono := 250000 }, upl := Vector.replicate 2 { live := [0x290, 0, 0], fullAt := some 0 } }, 1, 1, by decide +kernel⟩,
   ⟨at_ { (linkAt 0).m with clk := { mono := 249999 }, upl := Vector.replicate 2 { live := [0x290, 0, 0], fullAt := some 0 } }, 1, by decide +kernel⟩,
   ⟨at_ { (linkAt 0).m with upl := Vector.replicate 2 { live := [0x290, 0, 0], fullAt := some 0, waiting := true }, clk := { mono := 250000 }, nvm := { counters := Vector.replicate 24 (⟨10000, true⟩, ⟨0, true⟩) } }, 1, 1, by decide +kernel⟩,
   ⟨linkAt 0, 1, by decide +kernel⟩,
   ⟨at_ { (linkAt 0 [(F.UPL_STATUS_LINK 1, 0), (F.UPL_STATUS_SHIFTING 1, 1)] { shift := some 1 }).m with clk := { mono := 75000000 } }, 1, 1, by decide +kernel⟩,
   ⟨linkAt 0, 1, by decide +kernel⟩⟩

theorem witness_UplinkSettingsArePendingUntilConfirmed :
    (∃ (s : State) (u : Fin 2) (h : BitVec 10), regsWf s.m.regs = true ∧ s.m.uplMay h.toNat u = true) ∧
    (∃ (s : State) (u : Fin 2) (h : BitVec 10), regsWf s.m.regs = true ∧ s.m.uplMay h.toNat u = false) ∧
    (∃ (s : State) (u : Fin 2) (h : BitVec 10) (ws : List Word), regsWf s.m.regs = true ∧ (s.m.sess h.toNat).map (fun y => y.transport) = some u.val ∧ s.m.isOn (swPd (pdUpl u)) = true ∧ (s.m.upl[u]).prev = some ws) ∧
    (∃ (s : State) (u : Fin 2) (h : BitVec 10) (ws : List Word), regsWf s.m.regs = true ∧ s.m.uplMay h.toNat u = true ∧ (s.m.upl[u]).prev = some ws) ∧
    (∃ (s : State) (u : Fin 2) (ws : List Word), regsWf s.m.regs = true ∧ (s.m.upl[u]).prev = some ws ∧ (s.m.upl[u]).appliedAt + 3000000000 ≤ s.m.clk.mono) ∧
    (∃ (s : State) (u : Fin 2), regsWf s.m.regs = true ∧ s.m.clk.mono < (s.m.upl[u]).appliedAt + 3000000000) :=
  ⟨⟨linkAt 1, 1, 1, by decide +kernel⟩,
   ⟨linkAt 1, 1, 2, by decide +kernel⟩,
   ⟨linkAt 1 [(F.UPL_STATUS_PENDING 1, 1)] { prev := some (resetUpl 0) }, 1, 1, resetUpl 0, by decide +kernel⟩,
   ⟨linkAt 1 [(F.UPL_STATUS_PENDING 1, 1)] { prev := some (resetUpl 0) }, 1, 1, resetUpl 0, by decide +kernel⟩,
   ⟨at_ { (linkAt 1 [(F.UPL_STATUS_PENDING 1, 1)] { prev := some (resetUpl 0) }).m with clk := { mono := 3000000000 } }, 1, resetUpl 0, by decide +kernel⟩,
   ⟨linkAt 1, 1, by decide +kernel⟩⟩

theorem gcmOpen_tag (key nonce aad : List Byte) : gcmOpen key nonce aad (gcmSeal key nonce aad []) = some [] := by
  simp [gcmOpen, gcmSeal, leBytes]
theorem witness_OrporPacketsAreCheckedAndAccepted :
    (∀ p : List Byte, (packetAt p).m.pool.frames.find? (fun y => y.ch == 1 && y.packet.isSome) = some { ch := 1, cells := 1, packet := some p }) ∧
    (regsWf (packetAt []).m.regs = true ∧ (packetAt []).m.mgmtUp = true ∧ (packetAt []).m.forwards = false ∧ (packetAt []).m.st = 5) ∧
    packetOk [1#8] = false ∧
    (packetOk (orporHdr 0 3 2 3 5 0 ++ List.replicate 16 0#8) = true ∧ (packetAt []).m.sess 2 = none) ∧
    (packetOk (orporHdr 0 0 0 3 5 0 ++ List.replicate 16 0#8) = true ∧ (packetAt [] [(F.SESS_CFG_PROBE_EN, 1)]).m.flag F.SESS_CFG_PROBE_EN = true) ∧
    (packetOk (orporHdr 8 1 0 3 0 20 ++ List.replicate 36 0#8) = true ∧ bitAt (hdrOf (orporHdr 8 1 0 3 0 20)).flags 3 = true) := by
  refine ⟨fun p => rfl, ?_, ?_, ?_, ?_, ?_⟩ <;> decide +kernel
theorem witness_OrporCommandAccepted :
    (packetOk infoPacket = true ∧ bitAt (hdrOf infoPacket).flags 3 = false ∧ (hdrOf infoPacket).op = 3 ∧ (hdrOf infoPacket).session = 1 ∧
      (hdrOf infoPacket).seq = 5) ∧ ((packetAt []).m.sess 1 = some { role := .service } ∧ (packetAt []).m.inFlight < 128 ∧
      (opInfo 3).any (fun i => bitAt i.roles (Sess.roleBit { role := .service })) = true ∧ expLen 3 [] = 0) := by
  refine ⟨⟨?_, ?_, ?_, ?_, ?_⟩, ?_⟩ <;> decide +kernel
theorem witness_OrporCommandAccepted_tag :
    gcmOpen [] (sessNonce 1 5 0 false) (infoPacket.take 32) (infoPacket.drop 32) = some [] := by
  unfold infoPacket
  rw [List.take_left' (by decide +kernel), List.drop_left' (by decide +kernel)]
  exact gcmOpen_tag _ _ _

theorem witness_HostPortAndSessionsOpenAndClose :
    (∃ (s : State) (len : BitVec 16) (bytes : List Byte), regsWf s.m.regs = true ∧ s.m.isOn (swPd 3) = true ∧ len.toNat = bytes.length ∧ (s.m.poolPut { ch := 8, cells := cellsOf bytes.length, packet := some bytes }).2 = true) ∧
    (∃ (s : State) (len : BitVec 16) (bytes : List Byte), regsWf s.m.regs = true ∧ s.m.isOn (swPd 3) = true ∧ len.toNat = bytes.length ∧ (s.m.poolPut { ch := 8, cells := cellsOf bytes.length, packet := some bytes }).2 = false) ∧
    (∃ (s : State) (len : BitVec 16) (bytes : List Byte), regsWf s.m.regs = true ∧ s.m.isOn (swPd 3) = true ∧ len.toNat ≠ bytes.length) ∧
    (∃ (s : State) (g : PoolFrame), regsWf s.m.regs = true ∧ s.m.isOn (swPd 3) = true ∧ s.m.pool.frames.find? (fun y => y.ch == 8 && (y.reply.isSome || y.raw.isSome)) = some g) ∧
    (∃ (s : State), regsWf s.m.regs = true ∧ s.m.isOn (swPd 3) = true ∧ s.m.pool.frames.any (fun y => y.ch == 8 && (y.reply.isSome || y.raw.isSome)) = false) ∧
    (∃ (s : State), regsWf s.m.regs = true ∧ s.m.isOn (swPd 3) = true) ∧
    (∃ (s : State) (h : BitVec 10) (x : Sess), regsWf s.m.regs = true ∧ s.m.sess h.toNat = some x ∧ s.m.optime < x.lastAt + max 10 (s.m.get F.SESS_CFG_IDLE) * 1000) ∧
    (∃ (s : State) (h : BitVec 10) (x : Sess), regsWf s.m.regs = true ∧ s.m.sess h.toNat = some x ∧ x.lastAt + max 10 (s.m.get F.SESS_CFG_IDLE) * 1000 ≤ s.m.optime ∧ s.m.exec.serviceSession = none) ∧
    (∃ (s : State) (h : BitVec 10) (x : Sess), regsWf s.m.regs = true ∧ s.m.sess h.toNat = some x ∧ x.lastAt + max 10 (s.m.get F.SESS_CFG_IDLE) * 1000 ≤ s.m.optime ∧ s.m.exec.serviceSession = some h.toNat ∧ s.m.st = 8) ∧
    (∃ (s : State) (p : List Byte) (t : Nat) (viaB : Bool), regsWf s.m.regs = true ∧ s.m.greeting 0 = some (t, viaB, p)) :=
  ⟨⟨packetAt [], 3, [1#8, 2#8, 3#8], by decide +kernel⟩,
   ⟨at_ { (packetAt []).m with pool := { frames := [{ ch := 8, cells := 8192 }] } }, 3, [1#8, 2#8, 3#8], by decide +kernel⟩,
   ⟨packetAt [], 4, [1#8, 2#8, 3#8], by decide +kernel⟩,
   ⟨at_ { (packetAt []).m with pool := { frames := [{ ch := 8, cells := 1, packet := some [] }, { ch := 8, cells := 1, raw := some [9#8] }] } }, { ch := 8, cells := 1, raw := some [9#8] }, by decide +kernel⟩,
   ⟨packetAt [], by decide +kernel⟩,
   ⟨at_ { (packetAt []).m with orpor := { spiErr := true } }, by decide +kernel⟩,
   ⟨packetAt [], 1, { role := .service }, by decide +kernel⟩,
   ⟨idleAt (packetAt []).m, 1, { role := .service }, by decide +kernel⟩,
   ⟨idleAt { (packetAt [] [] 8).m with exec := { serviceSession := some 1 }, outs := Vector.replicate 48 { test := some .on } }, 1, { role := .service }, by decide +kernel⟩,
   ⟨at_ { (packetAt []).m with orpor := { greet := [(2, false, orporHdr 0 0 0 3 5 0)] } }, orporHdr 0 0 0 3 5 0, 2, false, by decide +kernel⟩⟩

theorem witness_OpSessOpen :
    regsWf Mod.reset.regs = true ∧ (par (packetParams (openPacket Mod.reset)) 0 1 = 3 ∧ par (packetParams (openPacket Mod.reset)) 2 2 = 0) ∧
    (hdrOf (openPacket Mod.reset)).op = 1 ∧ Mod.reset.scopeOk 3 0 = true ∧
    (List.range 1024).find? (fun k => (Mod.reset.sess k).isNone) = some 0 ∧ ((packetParams (openPacket Mod.reset)).drop 4).take 16 = List.replicate 16 7#8 ∧
    (openPacket Mod.reset).take 52 = orporHdr 8 1 0 3 0 20 ++ [3#8, 0#8, 0#8, 0#8] ++ List.replicate 16 7#8 := by
  refine ⟨?_, ?_, ?_, ?_, ?_, ?_, ?_⟩ <;> decide +kernel
theorem witness_OpSessOpen_tag : packetTag (openPacket Mod.reset) = leBytes 16 (Config.gcmTag (Mod.reset.credential 3 0) (List.replicate 12 7#8)
    (orporHdr 8 1 0 3 0 20 ++ [3#8, 0#8, 0#8, 0#8] ++ List.replicate 16 7#8) []).toNat := by
  unfold packetTag openPacket
  rw [show List.length (_ ++ leBytes 16 _) - 16 = 52 by rw [List.length_append]; rfl]
  exact List.drop_left' (by decide +kernel)

theorem witness_LoopRegistersTakeRequestsTuningAndTests :
    (∃ (s : State) (h : BitVec 10), regsWf s.m.regs = true ∧ s.m.isO0V h.toNat = true) ∧
    (∃ (s : State) (h : BitVec 10), regsWf s.m.regs = true ∧ s.m.isO0V h.toNat = false) ∧
    (∃ (s : State) (h : BitVec 10) (n : BitVec 8) (reg : Fin 12) (w : BitVec 32), regsWf s.m.regs = true ∧ s.m.isO0V h.toNat = true ∧ TuneBad s.m n.toNat reg.val w) ∧
    (∃ (s : State) (h : BitVec 10) (n : BitVec 8) (reg : Fin 12) (w : BitVec 32), regsWf s.m.regs = true ∧ s.m.isO0V h.toNat = true ∧ ¬ TuneBad s.m n.toNat reg.val w ∧ 4 ≤ reg.val ∧ reg.val ≠ 7) ∧
    (∃ (s : State) (reg : Fin 12), regsWf s.m.regs = true ∧ 1 ≤ reg.val ∧ reg.val ≤ 3) ∧
    (∃ (s : State) (h : BitVec 10) (g : Fin 4), regsWf s.m.regs = true ∧ s.m.isO0V h.toNat = true ∧ ((s.m.get (F.LOOPTEST_STATUS_STATE g.val) = 1 ∨ s.m.tests[g].start = true))) ∧
    (∃ (s : State) (h : BitVec 10) (g : Fin 4), regsWf s.m.regs = true ∧ s.m.isO0V h.toNat = true ∧ s.m.get (F.LOOPTEST_STATUS_STATE g.val) ≠ 1 ∧ s.m.tests[g].start = false) ∧
    (∃ (s : State) (g : Fin 4) (rs : List CapRec), regsWf s.m.regs = true ∧ s.m.get (F.LOOPTEST_STATUS_STATE g.val) = 2 ∧ testSees s.m g.val rs ∧ s.m.get (F.LOOPTEST_CTRL_KIND g.val) = 0) ∧
    (∃ (s : State) (g : Fin 4) (rs : List CapRec), regsWf s.m.regs = true ∧ s.m.get (F.LOOPTEST_STATUS_STATE g.val) = 2 ∧ testSees s.m g.val rs ∧ s.m.get (F.LOOPTEST_CTRL_KIND g.val) ≠ 0) ∧
    (∃ (s : State) (g : Fin 4), regsWf s.m.regs = true ∧ s.m.get (F.LOOPTEST_STATUS_STATE g.val) ≠ 2) :=
  ⟨⟨jackHeld, 1, by decide +kernel⟩,
   ⟨jackHeld, 2, by decide +kernel⟩,
   ⟨jackHeld, 1, 255, 4, 0xC0000000, by decide +kernel⟩,
   ⟨jackHeld, 1, 255, 4, 0x40000000, by decide +kernel⟩,
   ⟨jackHeld, 2, by decide +kernel⟩,
   ⟨at_ (rig [(F.LOOPTEST_STATUS_STATE 3, 1), (F.LOOPTEST_CTRL_LOOP 3, 9), (F.LOOP_MODE_TEST 9, 1)] jackHeld.m), 1, 3, by decide +kernel⟩,
   ⟨jackHeld, 1, 3, by decide +kernel⟩,
   ⟨testDone [], 3, [⟨fix 0, 0⟩, ⟨fix 0x3F800000, 0⟩, ⟨fix 0x3F800000, 0⟩], by decide +kernel⟩,
   ⟨testDone [(F.LOOPTEST_CTRL_KIND 3, 1)], 3, [⟨fix 0, 0⟩, ⟨fix 0x3F800000, 0⟩, ⟨fix 0x3F800000, 0⟩], by decide +kernel⟩,
   ⟨jackHeld, 3, by decide +kernel⟩⟩

theorem witness_MeterSamplesAccumulateEnergyBySign :
    (∃ (s : State), regsWf s.m.regs = true ∧ s.m.flag F.MET_STATUS_RUN = true) ∧
    (∃ (s : State), regsWf s.m.regs = true ∧ s.m.flag F.MET_STATUS_RUN = true ∧ s.m.met.capture = none ∧ s.m.flag F.MET_CAP_CTRL_TRIG_OVL = false) ∧
    (∃ (s : State) (n : Nat), regsWf s.m.regs = true ∧ s.m.flag F.MET_STATUS_RUN = true ∧ s.m.met.capture = some n ∧ n < s.m.get (F.CBW_LENGTH_LENGTH (s.m.get F.MET_CAP_CTRL_CBW)) ∧ s.m.flag F.MET_CAP_CTRL_BUSY = true) ∧
    (∃ (s : State) (t : Nat), regsWf s.m.regs = true ∧ s.m.flag F.MET_STATUS_RUN = false ∧ s.m.met.loaded = some t ∧ t + 25000 ≤ s.m.clk.mono) ∧
    (∃ (s : State) (t : Nat), regsWf s.m.regs = true ∧ s.m.flag F.MET_STATUS_RUN = false ∧ s.m.met.loaded.all (fun t => decide (s.m.clk.mono < t + 25000)) = true) ∧
    (∃ (s : State), regsWf s.m.regs = true ∧ s.m.flag F.MET_STATUS_RUN = true ∧ s.m.flag F.MET_CAP_CTRL_TRIG_OVL = false) ∧
    (∃ (s : State) (c : Fin 96), regsWf s.m.regs = true ∧ s.m.flag F.MET_STATUS_RUN = true ∧ s.m.flag F.MET_CAP_CTRL_TRIG_OVL = true ∧ s.m.get F.MET_CAP_CTRL_CHANNEL = c.val ∧ s.m.flag F.MET_CAP_CTRL_BUSY = false ∧ s.m.flag F.MET_CAP_CTRL_DONE = false) ∧
    (∃ (s : State), regsWf s.m.regs = true ∧ s.m.flag F.MET_STATUS_RUN = false) ∧
    (∃ (s : State) (c : Fin 96), regsWf s.m.regs = true ∧ (s.m.metCh c.val).clipped = true) ∧
    (∃ (s : State) (c : Fin 96), regsWf s.m.regs = true ∧ (s.m.metCh c.val).clipped = false ∧ forcedRange s.m c ≠ 0 ∧ s.m.get (F.MET_STATUS_I_RANGE_SEL c.val) ≠ forcedRange s.m c - 1) ∧
    (∃ (s : State) (c : Fin 96), regsWf s.m.regs = true ∧ (s.m.metCh c.val).clipped = false ∧ forcedRange s.m c = 0 ∧ (s.m.metCh c.val).settle = none ∧ s.m.get (F.MET_STATUS_I_RANGE_SEL c.val) = 0 ∧ 32 ≤ (s.m.metCh c.val).fine ∧ 1280 ≤ (s.m.metCh c.val).in4) ∧
    (∃ (s : State) (c : Fin 96), regsWf s.m.regs = true ∧ (s.m.metCh c.val).clipped = false ∧ forcedRange s.m c = 0 ∧ (s.m.metCh c.val).settle = none ∧ s.m.get (F.MET_STATUS_I_RANGE_SEL c.val) = 1 ∧ 1280 ≤ (s.m.metCh c.val).in16) ∧
    (∃ (s : State) (c : Fin 96) (n : Nat), regsWf s.m.regs = true ∧ (s.m.metCh c.val).clipped = false ∧ forcedRange s.m c = 0 ∧ (s.m.metCh c.val).settle = some n ∧ 32 ≤ n) :=
  ⟨⟨at_ (rig [(F.MET_STATUS_RUN, 1)]), by decide +kernel⟩,
   ⟨at_ (rig [(F.MET_STATUS_RUN, 1)]), by decide +kernel⟩,
   ⟨at_ { rig [(F.MET_STATUS_RUN, 1), (F.MET_CAP_CTRL_BUSY, 1), (F.MET_CAP_CTRL_CHANNEL, 2), (F.MET_CAP_CTRL_CBW, 5), (F.CBW_STATUS_EN 5, 1), (F.CBW_LENGTH_LENGTH 5, 40), (F.CBW_BASE_TILE 5, 100), (F.CBW_HEAD_HEAD 5, 39)] with met := { capture := some 3 } }, 3, by decide +kernel⟩,
   ⟨at_ { Mod.reset with met := { loaded := some 0 }, clk := { mono := 25000 } }, 0, by decide +kernel⟩,
   ⟨at_ Mod.reset, 0, by decide +kernel⟩,
   ⟨at_ (rig [(F.MET_STATUS_RUN, 1)]), by decide +kernel⟩,
   ⟨at_ (rig [(F.MET_STATUS_RUN, 1), (F.MET_CAP_CTRL_TRIG_OVL, 1), (F.MET_CAP_CTRL_CHANNEL, 95)]), 95, by decide +kernel⟩,
   ⟨at_ Mod.reset, by decide +kernel⟩,
   ⟨at_ { rig [(F.MET_STATUS_I_RANGE_SEL 95, 2)] with met := { ch := [(95, { clipped := true })] } }, 95, by decide +kernel⟩,
   ⟨at_ (rig [(F.MET_CAL_CTRL_BUSY, 1), (F.MET_CAL_CTRL_CHANNEL, 95), (F.MET_CAL_CTRL_FORCE_RANGE, 3)]), 95, by decide +kernel⟩,
   ⟨at_ { Mod.reset with met := { ch := [(95, { fine := 32, in4 := 1280 })] } }, 95, by decide +kernel⟩,
   ⟨at_ { rig [(F.MET_STATUS_I_RANGE_SEL 95, 1)] with met := { ch := [(95, { in16 := 1280 })] } }, 95, by decide +kernel⟩,
   ⟨at_ { rig [(F.MET_STATUS_I_SETTLING 95, 1)] with met := { ch := [(95, { settle := some 32 })] } }, 95, 32, by decide +kernel⟩⟩

theorem witness_MeterBlocksPublishAndReadsLatchHighWords :
    (∃ (s : State), regsWf s.m.regs = true ∧ s.m.flag F.MET_STATUS_RUN = true) ∧
    (∃ (s : State), regsWf s.m.regs = true ∧ s.m.flag F.MET_STATUS_RUN = false) ∧
    (∃ (s : State), regsWf s.m.regs = true) :=
  ⟨⟨at_ { rig [(F.MET_STATUS_RUN, 1), (F.MET_CFG_I_USER_MODE 95, 1)] with met := { ch := [(3, { acc := ⟨#[5 * 2 ^ 32 + 9, 7000 * 2 ^ 32, 1, 2, 3, 4, 2 ^ 70], rfl⟩, hi := [(1, 2)], pendSet := some neutralSet }), (95, { acc := ⟨#[5 * 2 ^ 32 + 9, 7000 * 2 ^ 32, 1, 2, 3, 4, 2 ^ 70], rfl⟩, blk := { n := 1600, ii := 40 } })] } }, by decide +kernel⟩,
   ⟨at_ Mod.reset, by decide +kernel⟩,
   ⟨at_ { rig [(F.MET_STATUS_RUN, 1), (F.MET_CFG_I_USER_MODE 95, 1)] with met := { ch := [(3, { acc := ⟨#[5 * 2 ^ 32 + 9, 7000 * 2 ^ 32, 1, 2, 3, 4, 2 ^ 70], rfl⟩, hi := [(1, 2)], pendSet := some neutralSet }), (95, { acc := ⟨#[5 * 2 ^ 32 + 9, 7000 * 2 ^ 32, 1, 2, 3, 4, 2 ^ 70], rfl⟩, blk := { n := 1600, ii := 40 } })] } }, by decide +kernel⟩⟩

theorem witness_MeterIntervalsJournalCalibrationAndCapture :
    (∃ (s : State), regsWf s.m.regs = true ∧ s.m.flag F.MET_STATUS_RUN = true ∧ s.m.logs.wabIntervals.length ≤ 416) ∧
    (∃ (s : State), regsWf s.m.regs = true ∧ s.m.flag F.MET_STATUS_RUN = false) ∧
    (∃ (s : State), regsWf s.m.regs = true ∧ s.m.flag F.MET_STATUS_RUN = true ∧ journalWriting s.m.met.jrn = false) ∧
    (∃ (s : State), regsWf s.m.regs = true ∧ s.m.flag F.MET_STATUS_RUN = true ∧ journalWriting s.m.met.jrn = true) ∧
    (∃ (s : State) (h : BitVec 10), regsWf s.m.regs = true ∧ s.m.isRole h.toNat .service = true) ∧
    (∃ (s : State) (h : BitVec 10), regsWf s.m.regs = true ∧ s.m.isRole h.toNat .service = false) ∧
    (∃ (s : State) (n : Nat) (sums : List Int), regsWf s.m.regs = true ∧ s.m.met.accum = some (n, sums) ∧ max 1 (s.m.get F.MET_CAL_CTRL_BLOCKS) ≤ n) ∧
    (∃ (s : State), regsWf s.m.regs = true ∧ s.m.met.accum.all (fun a => decide (a.1 < max 1 (s.m.get F.MET_CAL_CTRL_BLOCKS))) = true) ∧
    (∃ (s : State) (h : BitVec 10) (ws : List Word), regsWf s.m.regs = true ∧ s.m.isRole h.toNat .service = true ∧ s.m.met.staging = some ws) ∧
    (∃ (s : State) (h : BitVec 10), regsWf s.m.regs = true ∧ s.m.isO0V h.toNat = true ∧ s.m.flag F.MET_CAP_CTRL_BUSY = false) ∧
    (∃ (s : State) (h : BitVec 10), regsWf s.m.regs = true ∧ ((s.m.isO0V h.toNat = false ∨ s.m.flag F.MET_CAP_CTRL_BUSY = true))) ∧
    (∃ (s : State) (n : Nat), regsWf s.m.regs = true ∧ s.m.met.capture = some n ∧ s.m.get (F.CBW_LENGTH_LENGTH (s.m.get F.MET_CAP_CTRL_CBW)) ≤ n ∧ s.m.met.waiting = []) ∧
    (∃ (s : State) (n : Nat), regsWf s.m.regs = true ∧ s.m.met.capture.all (fun n => decide (n < s.m.get (F.CBW_LENGTH_LENGTH (s.m.get F.MET_CAP_CTRL_CBW))) || s.m.met.waiting != []) = true) :=
  ⟨⟨at_ { rig [(F.MET_STATUS_RUN, 1)] with met := { ch := [(3, { samples := 8000, acc := ⟨#[5 * 2 ^ 32 + 9, 7000 * 2 ^ 32, 1, 2, 3, 4, 2 ^ 70], rfl⟩, base := ⟨#[1, 7000, 0, 0, 0, 0], rfl⟩ })], interval := 12 } }, by decide +kernel⟩,
   ⟨jackHeld, by decide +kernel⟩,
   ⟨at_ (rig [(F.MET_STATUS_RUN, 1)]), by decide +kernel⟩,
   ⟨at_ { rig [(F.MET_STATUS_RUN, 1)] with met := { jrn := Vector.replicate 2 { writing := true } } }, by decide +kernel⟩,
   ⟨jackHeld, 1, by decide +kernel⟩,
   ⟨jackHeld, 2, by decide +kernel⟩,
   ⟨at_ { rig [(F.MET_CAL_CTRL_BLOCKS, 3)] with met := { accum := some (3, [5]) } }, 3, [5], by decide +kernel⟩,
   ⟨jackHeld, by decide +kernel⟩,
   ⟨at_ { jackHeld.m with met := { staging := some [0x3F800000, 0] } }, 1, [0x3F800000, 0], by decide +kernel⟩,
   ⟨jackHeld, 1, by decide +kernel⟩,
   ⟨jackHeld, 2, by decide +kernel⟩,
   ⟨at_ { rig [(F.MET_CAP_CTRL_BUSY, 1)] with met := { capture := some 3 } }, 3, by decide +kernel⟩,
   ⟨jackHeld, 3, by decide +kernel⟩⟩

theorem witness_FlashWorkMovesRecordsAndReclaims :
    (∃ (s : State) (key : Nat) (tomb : Bool) (payload : List Byte) (js : List FlashJob), regsWf s.m.regs = true ∧ s.m.flashUp = true ∧ s.m.nvm.jobs = .copy key tomb payload :: js) ∧
    (∃ (s : State) (key : Nat) (tomb : Bool) (payload : List Byte) (js : List FlashJob) (tag : Option (Nat × Nat)), regsWf s.m.regs = true ∧ s.m.flashUp = true ∧ s.m.nvm.jobs = .param key tomb payload tag :: js ∧ ((key < keyCal 0 ∨ keyCal 102 ≤ key)) ∧ key ≠ keySet ∧ key ≠ keySafePw ∧ NoneHeld s.m) ∧
    (∃ (s : State) (tomb : Bool) (payload : List Byte) (js : List FlashJob) (tag : Option (Nat × Nat)) (c : Nat), regsWf s.m.regs = true ∧ s.m.flashUp = true ∧ c < 102 ∧ s.m.nvm.jobs = .param (keyCal c) tomb payload tag :: js ∧ NoneHeld s.m) ∧
    (∃ (s : State) (js : List FlashJob) (a : Fin 16) (recs : List Rec), regsWf s.m.regs = true ∧ s.m.flashUp = true ∧ s.m.nvm.jobs = .flush a.val recs :: js ∧ (s.m.nvm.flushed[a]) + recs.length ≤ 128 ∧ recs.all (fun r => s.m.logs.wab.find? (fun x => x.area == a.val && x.seq == r.seq) == some r) = true) ∧
    (∃ (s : State) (js : List FlashJob) (ivs : List IntRec), regsWf s.m.regs = true ∧ s.m.flashUp = true ∧ s.m.nvm.jobs = .interval ivs :: js ∧ s.m.logs.intervals.length + ivs.length ≤ 65472) ∧
    (∃ (s : State) (js : List FlashJob) (recs : List Rec), regsWf s.m.regs = true ∧ s.m.flashUp = true ∧ s.m.nvm.jobs = .mirror recs :: js ∧ s.m.logs.mirrored.length + recs.length ≤ 2048) ∧
    (∃ (s : State) (js : List FlashJob) (mark : Nat × Nat), regsWf s.m.regs = true ∧ s.m.flashUp = true ∧ s.m.nvm.jobs = .data mark :: js) ∧
    (∃ (s : State), regsWf s.m.regs = true ∧ ((s.m.flashUp = false ∨ s.m.nvm.jobs = []))) ∧
    (∃ (s : State) (js : List FlashJob) (sec : Nat), regsWf s.m.regs = true ∧ s.m.flashUp = true ∧ s.m.nvm.jobs = .erase sec :: js ∧ s.m.nvm.refresh = some sec) ∧
    (∃ (s : State) (js : List FlashJob) (sec : Nat), regsWf s.m.regs = true ∧ s.m.flashUp = true ∧ s.m.nvm.jobs = .erase sec :: js ∧ s.m.nvm.refresh ≠ some sec ∧ sec = paramSector s.m.nvm.tail) ∧
    (∃ (s : State) (js : List FlashJob) (sec : Nat), regsWf s.m.regs = true ∧ s.m.flashUp = true ∧ s.m.nvm.jobs = .erase sec :: js ∧ s.m.nvm.refresh ≠ some sec ∧ sec ≠ paramSector s.m.nvm.tail) ∧
    (∃ (s : State), regsWf s.m.regs = true ∧ s.m.flashUp = true ∧ s.m.nvm.margin = none ∧ s.m.nvm.marginAt < s.m.optime / 604800000) ∧
    (∃ (s : State), regsWf s.m.regs = true ∧ ((s.m.flashUp = false ∨ s.m.nvm.margin.isSome = true ∨ s.m.optime / 604800000 ≤ s.m.nvm.marginAt))) ∧
    (∃ (s : State) (sector : BitVec 14) (n : Nat), regsWf s.m.regs = true ∧ s.m.flashUp = true ∧ s.m.nvm.margin = some n ∧ n ≤ sector.toNat ∧ s.m.nvm.marginRead.all (fun t => decide (t + 4000 ≤ s.m.optime)) = true) ∧
    (∃ (s : State) (sector : BitVec 14) (n : Nat), regsWf s.m.regs = true ∧ s.m.flashUp = true ∧ s.m.nvm.margin = some n ∧ n ≤ sector.toNat ∧ s.m.nvm.marginRead.all (fun t => decide (t + 4000 ≤ s.m.optime)) = true) ∧
    (∃ (s : State) (sector : BitVec 14), regsWf s.m.regs = true ∧ ((s.m.flashUp = false ∨ s.m.nvm.margin.all (fun k => decide (sector.toNat < k)) = true ∨ s.m.nvm.marginRead.any (fun t => decide (s.m.optime < t + 4000)) = true))) :=
  ⟨⟨at_ { lit [3] Mod.reset with nvm := { jobs := [.copy 0x00020001 false [1, 2], .erase 7] } }, 0x00020001, false, [1, 2], [.erase 7], by decide +kernel⟩,
   ⟨at_ { lit [3] Mod.reset with nvm := { jobs := [.param 0x00020001 false [1, 2] (some (1, 5)), .erase 7] } }, 0x00020001, false, [1, 2], [.erase 7], some (1, 5), by decide +kernel⟩,
   ⟨at_ { lit [3] Mod.reset with nvm := { jobs := [.param 0x00030009 false [1, 2] (some (1, 5)), .erase 7] } }, false, [1, 2], [.erase 7], some (1, 5), 9, by decide +kernel⟩,
   ⟨at_ { lit [3] Mod.reset with nvm := { jobs := [.flush 5 [{ seq := 3, optime := 0, pcc := 0, area := 5, num := 0, source := 0, sev := 0, rep := 0, data := [] }], .erase 7] }, logs := { wab := [{ seq := 3, optime := 0, pcc := 0, area := 5, num := 0, source := 0, sev := 0, rep := 0, data := [] }] } }, [.erase 7], 5, [{ seq := 3, optime := 0, pcc := 0, area := 5, num := 0, source := 0, sev := 0, rep := 0, data := [] }], by decide +kernel⟩,
   ⟨at_ { lit [3] Mod.reset with nvm := { jobs := [.interval [], .erase 7] } }, [.erase 7], [], by decide +kernel⟩,
   ⟨at_ { lit [3] Mod.reset with nvm := { jobs := [.mirror [{ seq := 3, optime := 0, pcc := 0, area := 5, num := 0, source := 0, sev := 0, rep := 0, data := [] }], .erase 7] } }, [.erase 7], [{ seq := 3, optime := 0, pcc := 0, area := 5, num := 0, source := 0, sev := 0, rep := 0, data := [] }], by decide +kernel⟩,
   ⟨at_ { lit [3] Mod.reset with nvm := { jobs := [.data (1, 5), .erase 7] } }, [.erase 7], (1, 5), by decide +kernel⟩,
   ⟨at_ Mod.reset, by decide +kernel⟩,
   ⟨at_ { lit [3] Mod.reset with nvm := { jobs := [.erase 7], refresh := some 7 } }, [], 7, by decide +kernel⟩,
   ⟨at_ { lit [3] Mod.reset with nvm := { jobs := [.erase 10240] } }, [], 10240, by decide +kernel⟩,
   ⟨at_ { lit [3] Mod.reset with nvm := { jobs := [.erase 7] } }, [], 7, by decide +kernel⟩,
   ⟨at_ { lit [3] Mod.reset with nvm := { counters := Vector.replicate 24 (⟨604800000, true⟩, ⟨0, true⟩) } }, by decide +kernel⟩,
   ⟨at_ Mod.reset, by decide +kernel⟩,
   ⟨at_ { lit [3] Mod.reset with nvm := { margin := some 3 } }, 7, 3, by decide +kernel⟩,
   ⟨at_ { lit [3] { rig [(F.NVM_STATUS_MARGIN_RUN, 1)] with nvm := { margin := some 3, weak := 2 } } with fx := true }, 7, 3, by decide +kernel⟩,
   ⟨at_ Mod.reset, 7, by decide +kernel⟩⟩

theorem witness_TimersSlotsAndReadsOfStorage :
    (∃ (s : State), regsWf s.m.regs = true ∧ s.m.isOn (swPd 1) = true) ∧
    (∃ (s : State), regsWf s.m.regs = true ∧ s.m.isOn (swPd 1) = false) ∧
    (∃ (s : State) (a : Fin 16) (t : Nat × Nat), regsWf s.m.regs = true ∧ (s.m.logs.areas[a]).hold = some t ∧ t.2 + 60000 ≤ s.m.optime) ∧
    (∃ (s : State) (a : Fin 16) (t : Nat × Nat), regsWf s.m.regs = true ∧ (s.m.logs.areas[a]).hold.all (fun t => decide (s.m.optime < t.2 + 60000)) = true) ∧
    (∃ (s : State) (a : Fin 16) (num : BitVec 8) (win : RateWin), regsWf s.m.regs = true ∧ (s.m.logs.areas[a]).wins.find? (fun w => w.code == a.val * 256 + num.toNat && decide (w.start + 60000 ≤ s.m.optime) && decide (0 < w.suppressed)) = some win) ∧
    (∃ (s : State) (a : Fin 16) (num : BitVec 8), regsWf s.m.regs = true ∧ (s.m.logs.areas[a]).wins.find? (fun w => w.code == a.val * 256 + num.toNat && decide (w.start + 60000 ≤ s.m.optime) && decide (0 < w.suppressed)) = none) ∧
    (∃ (s : State), regsWf s.m.regs = true) ∧
    (∃ (s : State), regsWf s.m.regs = true) ∧
    (∃ (s : State), regsWf s.m.regs = true) ∧
    (∃ (s : State), regsWf s.m.regs = true) ∧
    (∃ (s : State) (h : BitVec 10), regsWf s.m.regs = true ∧ s.m.isRole h.toNat .service = true) ∧
    (∃ (s : State) (h : BitVec 10), regsWf s.m.regs = true ∧ s.m.isRole h.toNat .service = false) :=
  ⟨⟨at_ (lit [1] Mod.reset), by decide +kernel⟩,
   ⟨jackHeld, by decide +kernel⟩,
   ⟨at_ { Mod.reset with logs := { areas := Vector.replicate 16 { hold := some (3, 9) } }, nvm := { counters := Vector.replicate 24 (⟨60009, true⟩, ⟨0, true⟩) } }, 5, (3, 9), by decide +kernel⟩,
   ⟨jackHeld, 5, (3, 9), by decide +kernel⟩,
   ⟨at_ { Mod.reset with logs := { areas := Vector.replicate 16 { wins := [⟨0x0502, 0, 1, 0, 0, 0⟩, ⟨0x0503, 0, 1, 4, 0, 0⟩] } }, nvm := { counters := Vector.replicate 24 (⟨60000, true⟩, ⟨0, true⟩) } }, 5, 3, ⟨0x0503, 0, 1, 4, 0, 0⟩, by decide +kernel⟩,
   ⟨jackHeld, 5, 3, by decide +kernel⟩,
   ⟨at_ { Mod.reset with met := { jrn := Vector.replicate 2 { writing := true } } }, by decide +kernel⟩,
   ⟨at_ { Mod.reset with fio := { cntJ := Vector.replicate 2 { writing := true } } }, by decide +kernel⟩,
   ⟨at_ { rig [(F.EXEC_RETAIN_WRITING, 1)] with retain := Vector.replicate 2 { writing := true } }, by decide +kernel⟩,
   ⟨jackHeld, by decide +kernel⟩,
   ⟨at_ (rig [(F.TILE_STATUS_SUSPECT, 0xFF), (F.TILE_BANK_SUSPECT 7, 1)] jackHeld.m), 1, by decide +kernel⟩,
   ⟨jackHeld, 2, by decide +kernel⟩⟩

theorem witness_RtcFreezesCommitsAndSyncs :
    (∃ (s : State), regsWf s.m.regs = true) ∧
    (∃ (s : State), regsWf s.m.regs = true ∧ (s.m.rtc.shadow = none ∨ s.m.freezeOver = true)) ∧
    (∃ (s : State), regsWf s.m.regs = true ∧ s.m.rtc.shadow.isSome = true ∧ s.m.freezeOver = false) ∧
    (∃ (s : State), regsWf s.m.regs = true ∧ s.m.rtc.shadow.any (fun f => decide (f.at_ + 250000 ≤ s.m.clk.mono)) = true) ∧
    (∃ (s : State), regsWf s.m.regs = true ∧ s.m.rtc.shadow.all (fun f => decide (s.m.clk.mono < f.at_ + 250000)) = true) ∧
    (∃ (s : State) (h : BitVec 10), regsWf s.m.regs = true ∧ s.m.isO0V h.toNat = true ∧ s.m.staged.ok = true ∧ s.m.rtc.run = true) ∧
    (∃ (s : State) (h : BitVec 10), regsWf s.m.regs = true ∧ s.m.isO0V h.toNat = true ∧ s.m.staged.ok = true ∧ s.m.rtc.run = false) ∧
    (∃ (s : State) (h : BitVec 10), regsWf s.m.regs = true ∧ s.m.isO0V h.toNat = true ∧ s.m.staged.ok = false) ∧
    (∃ (s : State) (h : BitVec 10), regsWf s.m.regs = true ∧ s.m.isO0V h.toNat = false) ∧
    (∃ (s : State), regsWf s.m.regs = true ∧ s.m.syncDue = true ∧ s.m.rtc.run = true) ∧
    (∃ (s : State), regsWf s.m.regs = true ∧ s.m.syncDue = true ∧ s.m.rtc.run = false) ∧
    (∃ (s : State), regsWf s.m.regs = true ∧ s.m.syncDue = false) ∧
    (∃ (s : State), regsWf s.m.regs = true ∧ s.m.rtc.waits = none) ∧
    (∃ (s : State) (c : Cal), regsWf s.m.regs = true ∧ s.m.rtc.waits = some c) ∧
    (∃ (s : State), regsWf s.m.regs = true ∧ s.m.flag F.PWR_STATUS_VIN_OK = false) ∧
    (∃ (s : State), regsWf s.m.regs = true ∧ s.m.flag F.PWR_STATUS_VIN_OK = true) :=
  ⟨⟨jackHeld, by decide +kernel⟩,
   ⟨at_ { Mod.reset with rtc := { timedOut := true } }, by decide +kernel⟩,
   ⟨at_ { Mod.reset with rtc := { shadow := some { cal := {}, wday := 6, sub := 9, at_ := 0 } } }, by decide +kernel⟩,
   ⟨at_ { rig [(F.RTC_STATUS_FROZEN, 1)] with rtc := { shadow := some { cal := {}, wday := 6, sub := 9, at_ := 0 } }, clk := { mono := 250000 } }, by decide +kernel⟩,
   ⟨at_ Mod.reset, by decide +kernel⟩,
   ⟨at_ (rig [(F.RTC_STG_DATE_YEAR, 2100), (F.RTC_STG_DATE_MONTH, 2), (F.RTC_STG_DATE_DAY, 28)] jackHeld.m), 1, by decide +kernel⟩,
   ⟨at_ { rig [(F.RTC_STG_DATE_YEAR, 2100), (F.RTC_STG_DATE_MONTH, 2), (F.RTC_STG_DATE_DAY, 28)] jackHeld.m with rtc := { run := false } }, 1, by decide +kernel⟩,
   ⟨at_ (rig [(F.RTC_STG_DATE_YEAR, 2100), (F.RTC_STG_DATE_MONTH, 2), (F.RTC_STG_DATE_DAY, 29)] jackHeld.m), 1, by decide +kernel⟩,
   ⟨jackHeld, 2, by decide +kernel⟩,
   ⟨at_ { rig [(F.RTC_CFG_SYNC, 1), (F.RTC_STATUS_OSC_STOPPED, 1), (F.TIME_STATUS_STATE, 2), (F.TIME_UTC_VALID, 1), (F.TIME_UTC_OFFSET, 37)] with clk := { run := true, ns := 4107542437000000000 } }, by decide +kernel⟩,
   ⟨at_ { rig [(F.RTC_CFG_SYNC, 1), (F.RTC_STATUS_OSC_STOPPED, 1), (F.TIME_STATUS_STATE, 2), (F.TIME_UTC_VALID, 1), (F.TIME_UTC_OFFSET, 37)] with clk := { run := true, ns := 4107542437000000000 }, rtc := { run := false } }, by decide +kernel⟩,
   ⟨jackHeld, by decide +kernel⟩,
   ⟨at_ { Mod.reset with rtc := { run := false } }, by decide +kernel⟩,
   ⟨at_ { rig [(F.RTC_STATUS_OSC_STOPPED, 1)] with rtc := { run := false, waits := some {} } }, {}, by decide +kernel⟩,
   ⟨at_ { rig [(F.RTC_STG_DATE_YEAR, 2100), (F.PWR_STATUS_VIN_OK, 0)] with rtc := { sub := 9 } }, by decide +kernel⟩,
   ⟨at_ (rig [(F.PWR_STATUS_VIN_OK, 1)]), by decide +kernel⟩⟩

theorem witness_CommandRowsWaitForTurnRoleAndPlan :
    (∃ (h : BitVec 10) (seq : BitVec 32) (op : Nat) (i : Instr), OpRow h seq op i ∧ (opInfo op).isSome = true ∧
      Mod.reset.ready (Mod.reset.sessKey h.toNat) seq.toNat op = none) ∧
    (∃ s x c, Ready s 1 5 0x0005 x c ∧ bitAt 12 x.roleBit = false) ∧
    (∃ s x c, Ready s 1 5 0x0100 x c ∧ bitAt 31 x.roleBit = true ∧ s.m.planLoaded = false) :=
  ⟨⟨1, 5, _, _, .opSessKill, by decide +kernel⟩,
   ⟨opAt 5 [] opBase { role := .tenant }, sessOf (opAt 5 [] opBase { role := .tenant }), cmdOf (opAt 5 [] opBase { role := .tenant }), by decide +kernel⟩,
   ⟨opAt 0x0100 [] opBase { role := .tenant }, sessOf (opAt 0x0100 [] opBase { role := .tenant }), cmdOf (opAt 0x0100 [] opBase { role := .tenant }),
     by decide +kernel⟩⟩

theorem witness_EveryReplyEndsItsCommand :
    (∃ m x, Mod.sess m 1 = some x ∧ x.closing = false ∧ x.rseq + 1 < 0xFFFFFFFF ∧ x.top ≠ 0xFFFFFFFF ∧
      m.flag (F.UPL_STATUS_LINK x.transport) = true ∧ x.transport < 2 ∧ x.viaB = false) ∧
    (∃ m x, Mod.sess m 1 = some x ∧ x.closing = true ∧ m.exec.serviceSession ≠ some 1) ∧
    (∃ m x c, Mod.sess m 1 = some x ∧ (opInfo c.op).isSome = true ∧ m.orpor.sessions = [(1, x)] ∧ x.flight = [c] ∧ c.done = none ∧
      m.nvm.jobs.any (FlashJob.marked (1, c.seq)) = true) :=
  ⟨⟨(linkAt 1).m, { role := .service, transport := 1 }, by decide +kernel⟩,
   ⟨{ opBase with orpor := { sessions := [(1, { role := .service, closing := true })] } }, { role := .service, closing := true }, by decide +kernel⟩,
   ⟨{ (opAt 0x0206 [] opBase { role := .service }).m with nvm := { jobs := [.data (1, 5)] } }, sessOf (opAt 0x0206 [] opBase { role := .service }),
    cmdOf (opAt 0x0206 [] opBase { role := .service }), by decide +kernel⟩⟩

theorem witness_SessionCommandsListKillAndClose :
    (∃ (s : State) (h : BitVec 10) (seq : BitVec 32) (x : Sess) (c : Cmd), regsWf s.m.regs = true ∧ Ready s h seq 0x0002 x c) ∧
    (∃ (s : State) (h : BitVec 10) (seq : BitVec 32) (x : Sess) (c : Cmd), regsWf s.m.regs = true ∧ Ready s h seq 0x0003 x c) ∧
    (∃ (s : State) (h : BitVec 10) (seq : BitVec 32) (x : Sess) (c : Cmd), regsWf s.m.regs = true ∧ Ready s h seq 0x0004 x c ∧ bitAt 12 x.roleBit = true ∧ 1 ≤ par c.params 2 2 ∧ par c.params 2 2 ≤ 160) ∧
    (∃ (s : State) (h : BitVec 10) (seq : BitVec 32) (x : Sess) (c : Cmd), regsWf s.m.regs = true ∧ Ready s h seq 0x0004 x c ∧ bitAt 12 x.roleBit = true ∧ ((par c.params 2 2 = 0 ∨ 160 < par c.params 2 2))) ∧
    (∃ (s : State) (h : BitVec 10) (seq : BitVec 32) (x : Sess) (c : Cmd), regsWf s.m.regs = true ∧ Ready s h seq 0x0005 x c ∧ bitAt 12 x.roleBit = true ∧ par c.params 0 2 ≠ s.m.sessKey h.toNat ∧ (s.m.sess (par c.params 0 2)).isSome = true ∧ s.m.exec.serviceSession ≠ some (par c.params 0 2)) ∧
    (∃ (s : State) (h : BitVec 10) (seq : BitVec 32) (x : Sess) (c : Cmd), regsWf s.m.regs = true ∧ Ready s h seq 0x0005 x c ∧ bitAt 12 x.roleBit = true ∧ ((par c.params 0 2 = s.m.sessKey h.toNat ∨ s.m.sess (par c.params 0 2) = none))) :=
  ⟨⟨opAt 0x0002 ([]) (opBase) ({ role := .service }), 1, 5, sessOf (opAt 0x0002 ([]) (opBase) ({ role := .service })), cmdOf (opAt 0x0002 ([]) (opBase) ({ role := .service })), by decide +kernel⟩,
   ⟨opAt 0x0003 ([]) (opBase) ({ role := .service }), 1, 5, sessOf (opAt 0x0003 ([]) (opBase) ({ role := .service })), cmdOf (opAt 0x0003 ([]) (opBase) ({ role := .service })), by decide +kernel⟩,
   ⟨opAt 0x0004 ([0, 0, 9, 0]) (opBase) ({ role := .service }), 1, 5, sessOf (opAt 0x0004 ([0, 0, 9, 0]) (opBase) ({ role := .service })), cmdOf (opAt 0x0004 ([0, 0, 9, 0]) (opBase) ({ role := .service })), by decide +kernel⟩,
   ⟨opAt 0x0004 ([0, 0, 161, 0]) (opBase) ({ role := .service }), 1, 5, sessOf (opAt 0x0004 ([0, 0, 161, 0]) (opBase) ({ role := .service })), cmdOf (opAt 0x0004 ([0, 0, 161, 0]) (opBase) ({ role := .service })), by decide +kernel⟩,
   ⟨opAt 0x0005 ([9, 0]) ({ opBase with orpor := { sessions := [(9, { role := .tenant })] }, ports := { pass := [{ handle := 1, session := 9, port := 0, station := 0, data := [] }] } }) ({ role := .service }), 1, 5, sessOf (opAt 0x0005 ([9, 0]) ({ opBase with orpor := { sessions := [(9, { role := .tenant })] }, ports := { pass := [{ handle := 1, session := 9, port := 0, station := 0, data := [] }] } }) ({ role := .service })), cmdOf (opAt 0x0005 ([9, 0]) ({ opBase with orpor := { sessions := [(9, { role := .tenant })] }, ports := { pass := [{ handle := 1, session := 9, port := 0, station := 0, data := [] }] } }) ({ role := .service })), by decide +kernel⟩,
   ⟨opAt 0x0005 ([1, 0]) (opBase) ({ role := .service }), 1, 5, sessOf (opAt 0x0005 ([1, 0]) (opBase) ({ role := .service })), cmdOf (opAt 0x0005 ([1, 0]) (opBase) ({ role := .service })), by decide +kernel⟩⟩

theorem witness_PointCommandsReadWriteForceAndRelease :
    (∃ (s : State) (h : BitVec 10) (seq : BitVec 32) (x : Sess) (c : Cmd) (i : Nat), regsWf s.m.regs = true ∧ Ready s h seq 0x0100 x c ∧ s.m.planLoaded = true ∧ 1 ≤ par c.params 0 2 ∧ par c.params 0 2 ≤ 80 ∧ (ptNamed c.params).all (fun i => decide (i < 8192) && s.m.mayReadPt x i && soundPt s.m false i) = true) ∧
    (∃ (s : State) (h : BitVec 10) (seq : BitVec 32) (x : Sess) (c : Cmd), regsWf s.m.regs = true ∧ Ready s h seq 0x0100 x c ∧ s.m.planLoaded = true ∧ ((par c.params 0 2 = 0 ∨ 80 < par c.params 0 2))) ∧
    (∃ (s : State) (h : BitVec 10) (seq : BitVec 32) (x : Sess) (c : Cmd) (j : Nat) (i : Nat), regsWf s.m.regs = true ∧ Ready s h seq 0x0100 x c ∧ s.m.planLoaded = true ∧ 1 ≤ par c.params 0 2 ∧ par c.params 0 2 ≤ 80 ∧ (ptNamed c.params).findIdx? (fun i => decide (8192 ≤ i)) = some j) ∧
    (∃ (s : State) (h : BitVec 10) (seq : BitVec 32) (x : Sess) (c : Cmd) (j : Nat) (i : Nat), regsWf s.m.regs = true ∧ Ready s h seq 0x0100 x c ∧ s.m.planLoaded = true ∧ 1 ≤ par c.params 0 2 ∧ par c.params 0 2 ≤ 80 ∧ (ptNamed c.params).all (fun i => decide (i < 8192) && s.m.homed i) = true ∧ (ptNamed c.params).findIdx? (fun i => !s.m.mayReadPt x i) = some j) ∧
    (∃ (s : State) (h : BitVec 10) (seq : BitVec 32) (x : Sess) (c : Cmd) (i : Nat), regsWf s.m.regs = true ∧ Ready s h seq 0x0101 x c ∧ s.m.planLoaded = true ∧ par c.params 0 2 < 8192 ∧ 1 ≤ par c.params 2 2 ∧ par c.params 2 2 ≤ 80 ∧ par c.params 0 2 + par c.params 2 2 ≤ 8192 ∧ ((List.range (par c.params 2 2)).map (par c.params 0 2 + ·)).all (fun i => s.m.mayReadPt x i && soundPt s.m false i) = true) ∧
    (∃ (s : State) (h : BitVec 10) (seq : BitVec 32) (x : Sess) (c : Cmd), regsWf s.m.regs = true ∧ Ready s h seq 0x0101 x c ∧ s.m.planLoaded = true ∧ 8192 ≤ par c.params 0 2) ∧
    (∃ (s : State) (h : BitVec 10) (seq : BitVec 32) (x : Sess) (c : Cmd), regsWf s.m.regs = true ∧ Ready s h seq 0x0101 x c ∧ s.m.planLoaded = true ∧ par c.params 0 2 < 8192 ∧ ((par c.params 2 2 = 0 ∨ 80 < par c.params 2 2 ∨ 8192 < par c.params 0 2 + par c.params 2 2))) ∧
    (∃ (s : State) (h : BitVec 10) (seq : BitVec 32) (x : Sess) (c : Cmd), regsWf s.m.regs = true ∧ Ready s h seq 0x0102 x c ∧ bitAt 15 x.roleBit = true ∧ s.m.planLoaded = true ∧ s.m.st ≠ xStandby ∧ 1 ≤ par c.params 0 1 ∧ par c.params 0 1 ≤ 64 ∧ (ptItems c.params).all (fun e => decide (e.1 < 8192) && s.m.mayWritePt x e.1 && s.m.formOkPt e.1 e.2 && (mapGet e.1 s.m.mem.forces).isNone && soundPt s.m true e.1) = true ∧ ((ptItems c.params).map (fun e => ptAddr s.m e.1)).Nodup) ∧
    (∃ (s : State) (h : BitVec 10) (seq : BitVec 32) (x : Sess) (c : Cmd), regsWf s.m.regs = true ∧ Ready s h seq 0x0102 x c ∧ bitAt 15 x.roleBit = true ∧ s.m.planLoaded = true ∧ s.m.st = xStandby) ∧
    (∃ (s : State) (h : BitVec 10) (seq : BitVec 32) (x : Sess) (c : Cmd) (j : Nat), regsWf s.m.regs = true ∧ Ready s h seq 0x0102 x c ∧ bitAt 15 x.roleBit = true ∧ s.m.planLoaded = true ∧ s.m.st ≠ xStandby ∧ 1 ≤ par c.params 0 1 ∧ par c.params 0 1 ≤ 64 ∧ (ptItems c.params).all (fun e => decide (e.1 < 8192) && s.m.mayWritePt x e.1 && s.m.homed e.1) = true ∧ (ptItems c.params).findIdx? (fun e => !s.m.formOkPt e.1 e.2) = some j) ∧
    (∃ (s : State) (h : BitVec 10) (seq : BitVec 32) (x : Sess) (c : Cmd) (i : Nat), regsWf s.m.regs = true ∧ Ready s h seq 0x0102 x c ∧ bitAt 15 x.roleBit = true ∧ s.m.planLoaded = true ∧ s.m.st ≠ xStandby ∧ 1 ≤ par c.params 0 1 ∧ par c.params 0 1 ≤ 64 ∧ (ptItems c.params).all (fun e => decide (e.1 < 8192) && s.m.mayWritePt x e.1 && s.m.homed e.1 && s.m.formOkPt e.1 e.2) = true ∧ ((ptItems c.params).map (·.1)).find? (fun i => (mapGet i s.m.mem.forces).isSome) = some i) ∧
    (∃ (s : State) (h : BitVec 10) (seq : BitVec 32) (x : Sess) (c : Cmd) (i : Nat) (v : Long), regsWf s.m.regs = true ∧ Ready s h seq 0x0103 x c ∧ bitAt 14 x.roleBit = true ∧ s.m.planLoaded = true ∧ s.m.st ≠ xStandby ∧ i = par c.params 0 2 ∧ v = BitVec.ofNat 64 (par c.params 4 8) ∧ i < 8192 ∧ s.m.isSafetyPt i = false ∧ s.m.mayForcePt x i = true ∧ s.m.formOkPt i v = true ∧ soundPt s.m false i = true ∧ s.m.regionOk 9 2 (ptAddr s.m i / 256 * 256) = true) ∧
    (∃ (s : State) (h : BitVec 10) (seq : BitVec 32) (x : Sess) (c : Cmd), regsWf s.m.regs = true ∧ Ready s h seq 0x0103 x c ∧ bitAt 14 x.roleBit = true ∧ s.m.planLoaded = true ∧ s.m.st ≠ xStandby ∧ par c.params 0 2 < 8192 ∧ s.m.isSafetyPt (par c.params 0 2) = true) ∧
    (∃ (s : State) (h : BitVec 10) (seq : BitVec 32) (x : Sess) (c : Cmd) (i : Nat), regsWf s.m.regs = true ∧ Ready s h seq 0x0104 x c ∧ bitAt 14 x.roleBit = true ∧ s.m.planLoaded = true ∧ s.m.st ≠ xStandby ∧ i = par c.params 0 2 ∧ i < 8192 ∧ s.m.isSafetyPt i = false ∧ s.m.mayForcePt x i = true ∧ (mapGet i s.m.mem.forces).isSome = true ∧ soundPt s.m false i = true ∧ s.m.regionOk 9 2 (ptAddr s.m i / 256 * 256) = true) ∧
    (∃ (s : State) (h : BitVec 10) (seq : BitVec 32) (x : Sess) (c : Cmd) (i : Nat), regsWf s.m.regs = true ∧ Ready s h seq 0x0104 x c ∧ bitAt 14 x.roleBit = true ∧ s.m.planLoaded = true ∧ s.m.st ≠ xStandby ∧ i = par c.params 0 2 ∧ i < 8192 ∧ s.m.isSafetyPt i = false ∧ s.m.mayForcePt x i = true ∧ mapGet i s.m.mem.forces = none ∧ soundPt s.m true i = true) ∧
    (∃ (s : State) (h : BitVec 10) (seq : BitVec 32) (x : Sess) (c : Cmd) (i : Nat), regsWf s.m.regs = true ∧ Ready s h seq 0x0104 x c ∧ bitAt 14 x.roleBit = true ∧ s.m.planLoaded = true ∧ s.m.st ≠ xStandby ∧ par c.params 0 2 = 0xFFFF ∧ s.m.get F.TWIN_STATUS_MODE ≠ 1 ∧ (s.m.mayRelease x).all (fun i => soundPt s.m false i && s.m.regionOk 9 2 (ptAddr s.m i / 256 * 256)) = true) ∧
    (∃ (s : State) (h : BitVec 10) (seq : BitVec 32) (x : Sess) (c : Cmd), regsWf s.m.regs = true ∧ Ready s h seq 0x0105 x c ∧ bitAt 14 x.roleBit = true ∧ s.m.planLoaded = true ∧ s.m.get F.TWIN_STATUS_MODE ≠ 1) :=
  ⟨⟨opAt 0x0100 ([2, 0, 3, 0, 3, 0]) (ptMod) ({ role := .service }), 1, 5, sessOf (opAt 0x0100 ([2, 0, 3, 0, 3, 0]) (ptMod) ({ role := .service })), cmdOf (opAt 0x0100 ([2, 0, 3, 0, 3, 0]) (ptMod) ({ role := .service })), 3, by decide +kernel⟩,
   ⟨opAt 0x0100 ([0, 0]) (ptMod) ({ role := .service }), 1, 5, sessOf (opAt 0x0100 ([0, 0]) (ptMod) ({ role := .service })), cmdOf (opAt 0x0100 ([0, 0]) (ptMod) ({ role := .service })), by decide +kernel⟩,
   ⟨opAt 0x0100 ([2, 0, 3, 0, 3, 32]) (ptMod) ({ role := .service }), 1, 5, sessOf (opAt 0x0100 ([2, 0, 3, 0, 3, 32]) (ptMod) ({ role := .service })), cmdOf (opAt 0x0100 ([2, 0, 3, 0, 3, 32]) (ptMod) ({ role := .service })), 1, 3, by decide +kernel⟩,
   ⟨opAt 0x0100 ([2, 0, 3, 0, 4, 0]) ({ ptMod with plan := { active := some { scopes := [{ scope := 9, readPts := [3] }] } } }) ({ role := .tenant, scope := 9 }), 1, 5, sessOf (opAt 0x0100 ([2, 0, 3, 0, 4, 0]) ({ ptMod with plan := { active := some { scopes := [{ scope := 9, readPts := [3] }] } } }) ({ role := .tenant, scope := 9 })), cmdOf (opAt 0x0100 ([2, 0, 3, 0, 4, 0]) ({ ptMod with plan := { active := some { scopes := [{ scope := 9, readPts := [3] }] } } }) ({ role := .tenant, scope := 9 })), 1, 3, by decide +kernel⟩,
   ⟨opAt 0x0101 ([3, 0, 1, 0]) (ptMod) ({ role := .service }), 1, 5, sessOf (opAt 0x0101 ([3, 0, 1, 0]) (ptMod) ({ role := .service })), cmdOf (opAt 0x0101 ([3, 0, 1, 0]) (ptMod) ({ role := .service })), 3, by decide +kernel⟩,
   ⟨opAt 0x0101 ([0, 32, 1, 0]) (ptMod) ({ role := .service }), 1, 5, sessOf (opAt 0x0101 ([0, 32, 1, 0]) (ptMod) ({ role := .service })), cmdOf (opAt 0x0101 ([0, 32, 1, 0]) (ptMod) ({ role := .service })), by decide +kernel⟩,
   ⟨opAt 0x0101 ([255, 31, 2, 0]) (ptMod) ({ role := .service }), 1, 5, sessOf (opAt 0x0101 ([255, 31, 2, 0]) (ptMod) ({ role := .service })), cmdOf (opAt 0x0101 ([255, 31, 2, 0]) (ptMod) ({ role := .service })), by decide +kernel⟩,
   ⟨opAt 0x0102 ([1, 0, 0, 0, 3, 0, 0, 0, 1]) (ptMod) ({ role := .service }), 1, 5, sessOf (opAt 0x0102 ([1, 0, 0, 0, 3, 0, 0, 0, 1]) (ptMod) ({ role := .service })), cmdOf (opAt 0x0102 ([1, 0, 0, 0, 3, 0, 0, 0, 1]) (ptMod) ({ role := .service })), by decide +kernel⟩,
   ⟨opAt 0x0102 ([]) (rig [(F.EXEC_STATE_STATE, 7)] ptMod) ({ role := .service }), 1, 5, sessOf (opAt 0x0102 ([]) (rig [(F.EXEC_STATE_STATE, 7)] ptMod) ({ role := .service })), cmdOf (opAt 0x0102 ([]) (rig [(F.EXEC_STATE_STATE, 7)] ptMod) ({ role := .service })), by decide +kernel⟩,
   ⟨opAt 0x0102 ([1, 0, 0, 0, 3, 0, 0, 0, 2]) (ptMod) ({ role := .service }), 1, 5, sessOf (opAt 0x0102 ([1, 0, 0, 0, 3, 0, 0, 0, 2]) (ptMod) ({ role := .service })), cmdOf (opAt 0x0102 ([1, 0, 0, 0, 3, 0, 0, 0, 2]) (ptMod) ({ role := .service })), 0, by decide +kernel⟩,
   ⟨opAt 0x0102 ([1, 0, 0, 0, 3, 0, 0, 0, 1]) ({ ptMod with mem := { ptMod.mem with forces := [(3, 0)] } }) ({ role := .service }), 1, 5, sessOf (opAt 0x0102 ([1, 0, 0, 0, 3, 0, 0, 0, 1]) ({ ptMod with mem := { ptMod.mem with forces := [(3, 0)] } }) ({ role := .service })), cmdOf (opAt 0x0102 ([1, 0, 0, 0, 3, 0, 0, 0, 1]) ({ ptMod with mem := { ptMod.mem with forces := [(3, 0)] } }) ({ role := .service })), 3, by decide +kernel⟩,
   ⟨opAt 0x0103 ([3, 0, 0, 0, 1]) (ptMod) ({ role := .service }), 1, 5, sessOf (opAt 0x0103 ([3, 0, 0, 0, 1]) (ptMod) ({ role := .service })), cmdOf (opAt 0x0103 ([3, 0, 0, 0, 1]) (ptMod) ({ role := .service })), 3, 1, by decide +kernel⟩,
   ⟨opAt 0x0103 ([4, 0]) ({ ptMod with plan := { active := some { points := [{ idx := 4, tile := 0, slot := 2, ty := 1, cls := 0, bind := .si 1 }] } } }) ({ role := .service }), 1, 5, sessOf (opAt 0x0103 ([4, 0]) ({ ptMod with plan := { active := some { points := [{ idx := 4, tile := 0, slot := 2, ty := 1, cls := 0, bind := .si 1 }] } } }) ({ role := .service })), cmdOf (opAt 0x0103 ([4, 0]) ({ ptMod with plan := { active := some { points := [{ idx := 4, tile := 0, slot := 2, ty := 1, cls := 0, bind := .si 1 }] } } }) ({ role := .service })), by decide +kernel⟩,
   ⟨opAt 0x0104 ([3, 0]) ({ ptMod with mem := { ptMod.mem with forces := [(3, 1)] } }) ({ role := .service }), 1, 5, sessOf (opAt 0x0104 ([3, 0]) ({ ptMod with mem := { ptMod.mem with forces := [(3, 1)] } }) ({ role := .service })), cmdOf (opAt 0x0104 ([3, 0]) ({ ptMod with mem := { ptMod.mem with forces := [(3, 1)] } }) ({ role := .service })), 3, by decide +kernel⟩,
   ⟨opAt 0x0104 ([3, 0]) (ptMod) ({ role := .service }), 1, 5, sessOf (opAt 0x0104 ([3, 0]) (ptMod) ({ role := .service })), cmdOf (opAt 0x0104 ([3, 0]) (ptMod) ({ role := .service })), 3, by decide +kernel⟩,
   ⟨opAt 0x0104 ([255, 255]) ({ ptMod with mem := { ptMod.mem with forces := [(3, 1)] } }) ({ role := .service }), 1, 5, sessOf (opAt 0x0104 ([255, 255]) ({ ptMod with mem := { ptMod.mem with forces := [(3, 1)] } }) ({ role := .service })), cmdOf (opAt 0x0104 ([255, 255]) ({ ptMod with mem := { ptMod.mem with forces := [(3, 1)] } }) ({ role := .service })), 3, by decide +kernel⟩,
   ⟨opAt 0x0105 ([0, 0]) ({ ptMod with mem := { ptMod.mem with forces := [(3, 1)] } }) ({ role := .service }), 1, 5, sessOf (opAt 0x0105 ([0, 0]) ({ ptMod with mem := { ptMod.mem with forces := [(3, 1)] } }) ({ role := .service })), cmdOf (opAt 0x0105 ([0, 0]) ({ ptMod with mem := { ptMod.mem with forces := [(3, 1)] } }) ({ role := .service })), by decide +kernel⟩⟩

theorem witness_PackageAndPlanCommands :
    (∃ (s : State) (h : BitVec 10) (seq : BitVec 32) (x : Sess) (c : Cmd), regsWf s.m.regs = true ∧ Ready s h seq 0x0200 x c ∧ bitAt 12 x.roleBit = true ∧ s.m.notHolder = false ∧ s.m.planBusy = false) ∧
    (∃ (s : State) (h : BitVec 10) (seq : BitVec 32) (x : Sess) (c : Cmd), regsWf s.m.regs = true ∧ Ready s h seq 0x0200 x c ∧ bitAt 12 x.roleBit = true ∧ s.m.notHolder = true) ∧
    (∃ (s : State) (h : BitVec 10) (seq : BitVec 32) (x : Sess) (c : Cmd), regsWf s.m.regs = true ∧ Ready s h seq 0x0200 x c ∧ bitAt 12 x.roleBit = true ∧ s.m.notHolder = false ∧ s.m.planBusy = true) ∧
    (∃ (s : State) (h : BitVec 10) (seq : BitVec 32) (x : Sess) (c : Cmd) (t : Xfer), regsWf s.m.regs = true ∧ Ready s h seq 0x0201 x c ∧ bitAt 12 x.roleBit = true ∧ s.m.notHolder = false ∧ s.m.orpor.pkg = some t ∧ par c.params 0 4 + (c.params.drop 4).length ≤ t.len) ∧
    (∃ (s : State) (h : BitVec 10) (seq : BitVec 32) (x : Sess) (c : Cmd) (t : Xfer), regsWf s.m.regs = true ∧ Ready s h seq 0x0201 x c ∧ bitAt 12 x.roleBit = true ∧ s.m.notHolder = false ∧ s.m.orpor.pkg = some t ∧ t.len < par c.params 0 4 + (c.params.drop 4).length) ∧
    (∃ (s : State) (h : BitVec 10) (seq : BitVec 32) (x : Sess) (c : Cmd) (y : Xfer) (g : Nat), regsWf s.m.regs = true ∧ Ready s h seq 0x0202 x c ∧ bitAt 12 x.roleBit = true ∧ s.m.notHolder = false ∧ s.m.orpor.pkg = some y ∧ y.gap = some g) ∧
    (∃ (s : State) (h : BitVec 10) (seq : BitVec 32) (x : Sess) (c : Cmd) (pl : Plan) (old : Plan), regsWf s.m.regs = true ∧ Ready s h seq 0x0203 x c ∧ bitAt 28 x.roleBit = true ∧ s.m.notHolder = false ∧ s.m.planBusy = false ∧ s.m.cand = some pl ∧ pl.safetyDiff = false ∧ x.role ≠ .safety ∧ par c.params 0 1 = 0 ∧ s.m.st = xRun ∧ s.m.plan.active = some old ∧ onlineOk old pl = true ∧ ((par c.params 4 8 = 0 ∨ s.m.clk.ns + 1000000000 ≤ par c.params 4 8 * 1000000000))) ∧
    (∃ (s : State) (h : BitVec 10) (seq : BitVec 32) (x : Sess) (c : Cmd) (pl : Plan), regsWf s.m.regs = true ∧ Ready s h seq 0x0203 x c ∧ bitAt 28 x.roleBit = true ∧ s.m.notHolder = false ∧ s.m.planBusy = false ∧ s.m.cand = some pl ∧ pl.safetyDiff = false ∧ x.role ≠ .safety ∧ par c.params 0 1 = 1 ∧ ((s.m.st = xRun ∨ s.m.st = xStopped ∨ s.m.inBit = true)) ∧ s.m.pwr.tcxoBad = false ∧ s.m.policy 7 ≠ 2 ∧ s.m.noPair = false ∧ (pl :: s.m.plan.active.toList).all imageOk = true) ∧
    (∃ (s : State) (h : BitVec 10) (seq : BitVec 32) (x : Sess) (c : Cmd) (pl : Plan), regsWf s.m.regs = true ∧ Ready s h seq 0x0203 x c ∧ bitAt 28 x.roleBit = true ∧ s.m.notHolder = false ∧ s.m.planBusy = false ∧ s.m.cand = some pl ∧ pl.safetyDiff = false ∧ x.role ≠ .safety ∧ par c.params 0 1 = 1 ∧ ((s.m.st = xRun ∨ s.m.st = xStopped ∨ s.m.inBit = true)) ∧ s.m.pwr.tcxoBad = false ∧ ((s.m.policy 7 = 2 ∨ s.m.noPair = true))) ∧
    (∃ (s : State) (h : BitVec 10) (seq : BitVec 32) (x : Sess) (c : Cmd) (pl : Plan), regsWf s.m.regs = true ∧ Ready s h seq 0x0203 x c ∧ bitAt 28 x.roleBit = true ∧ s.m.notHolder = false ∧ s.m.planBusy = false ∧ s.m.cand = some pl ∧ par c.params 0 1 ≤ 1 ∧ (pl.safetyDiff = true ↔ x.role ≠ .safety)) ∧
    (∃ (s : State) (h : BitVec 10) (seq : BitVec 32) (x : Sess) (c : Cmd), regsWf s.m.regs = true ∧ Ready s h seq 0x0203 x c ∧ bitAt 28 x.roleBit = true ∧ s.m.notHolder = false ∧ s.m.planBusy = false ∧ s.m.cand = none) ∧
    (∃ (s : State) (h : BitVec 10) (seq : BitVec 32) (x : Sess) (c : Cmd), regsWf s.m.regs = true ∧ Ready s h seq 0x0204 x c ∧ bitAt 12 x.roleBit = true ∧ s.m.plan.armed.isSome = true ∧ s.m.plan.armSafe = none) ∧
    (∃ (s : State) (h : BitVec 10) (seq : BitVec 32) (x : Sess) (c : Cmd), regsWf s.m.regs = true ∧ Ready s h seq 0x0204 x c ∧ bitAt 12 x.roleBit = true ∧ s.m.plan.armed = none ∧ s.m.cand = none) ∧
    (∃ (s : State) (h : BitVec 10) (seq : BitVec 32) (x : Sess) (c : Cmd) (pl : Plan), regsWf s.m.regs = true ∧ Ready s h seq 0x0205 x c ∧ bitAt 12 x.roleBit = true ∧ par c.params 0 1 = 1 ∧ 1 ≤ par c.params 2 2 ∧ par c.params 2 2 ≤ 16 ∧ par c.params 8 2 ≤ 1024 ∧ s.m.cand = some pl) ∧
    (∃ (s : State) (h : BitVec 10) (seq : BitVec 32) (x : Sess) (c : Cmd) (old : Plan), regsWf s.m.regs = true ∧ Ready s h seq 0x0205 x c ∧ bitAt 12 x.roleBit = true ∧ par c.params 0 1 = 0 ∧ 1 ≤ par c.params 2 2 ∧ par c.params 2 2 ≤ 16 ∧ par c.params 8 2 ≤ 1024 ∧ s.m.plan.active = some old) :=
  ⟨⟨opAt 0x0200 ([2, 0, 0, 0, 0, 0, 0, 0, 1]) (opBase) ({ role := .service }), 1, 5, sessOf (opAt 0x0200 ([2, 0, 0, 0, 0, 0, 0, 0, 1]) (opBase) ({ role := .service })), cmdOf (opAt 0x0200 ([2, 0, 0, 0, 0, 0, 0, 0, 1]) (opBase) ({ role := .service })), by decide +kernel⟩,
   ⟨opAt 0x0200 ([]) (rig [(F.TWIN_STATUS_MODE, 2)] opBase) ({ role := .service }), 1, 5, sessOf (opAt 0x0200 ([]) (rig [(F.TWIN_STATUS_MODE, 2)] opBase) ({ role := .service })), cmdOf (opAt 0x0200 ([]) (rig [(F.TWIN_STATUS_MODE, 2)] opBase) ({ role := .service })), by decide +kernel⟩,
   ⟨opAt 0x0200 ([]) (rig [(F.PLAN_STATUS_STATE, 4)] opBase) ({ role := .service }), 1, 5, sessOf (opAt 0x0200 ([]) (rig [(F.PLAN_STATUS_STATE, 4)] opBase) ({ role := .service })), cmdOf (opAt 0x0200 ([]) (rig [(F.PLAN_STATUS_STATE, 4)] opBase) ({ role := .service })), by decide +kernel⟩,
   ⟨opAt 0x0201 ([1, 0, 0, 0, 9]) ({ opBase with orpor := { pkg := some { len := 2 } } }) ({ role := .service }), 1, 5, sessOf (opAt 0x0201 ([1, 0, 0, 0, 9]) ({ opBase with orpor := { pkg := some { len := 2 } } }) ({ role := .service })), cmdOf (opAt 0x0201 ([1, 0, 0, 0, 9]) ({ opBase with orpor := { pkg := some { len := 2 } } }) ({ role := .service })), { len := 2 }, by decide +kernel⟩,
   ⟨opAt 0x0201 ([2, 0, 0, 0, 9]) ({ opBase with orpor := { pkg := some { len := 2 } } }) ({ role := .service }), 1, 5, sessOf (opAt 0x0201 ([2, 0, 0, 0, 9]) ({ opBase with orpor := { pkg := some { len := 2 } } }) ({ role := .service })), cmdOf (opAt 0x0201 ([2, 0, 0, 0, 9]) ({ opBase with orpor := { pkg := some { len := 2 } } }) ({ role := .service })), { len := 2 }, by decide +kernel⟩,
   ⟨opAt 0x0202 ([]) ({ opBase with orpor := { pkg := some { len := 2, got := [(1, 9)] } } }) ({ role := .service }), 1, 5, sessOf (opAt 0x0202 ([]) ({ opBase with orpor := { pkg := some { len := 2, got := [(1, 9)] } } }) ({ role := .service })), cmdOf (opAt 0x0202 ([]) ({ opBase with orpor := { pkg := some { len := 2, got := [(1, 9)] } } }) ({ role := .service })), { len := 2, got := [(1, 9)] }, 0, by decide +kernel⟩,
   ⟨opAt 0x0203 ([0]) ({ rig [(F.PLAN_STATUS_STATE, 3)] opBase with plan := { active := some { id := 6 }, slots := Vector.replicate 2 (some { id := 7, drum := [3] }) } }) ({ role := .service }), 1, 5, sessOf (opAt 0x0203 ([0]) ({ rig [(F.PLAN_STATUS_STATE, 3)] opBase with plan := { active := some { id := 6 }, slots := Vector.replicate 2 (some { id := 7, drum := [3] }) } }) ({ role := .service })), cmdOf (opAt 0x0203 ([0]) ({ rig [(F.PLAN_STATUS_STATE, 3)] opBase with plan := { active := some { id := 6 }, slots := Vector.replicate 2 (some { id := 7, drum := [3] }) } }) ({ role := .service })), { id := 7, drum := [3] }, { id := 6 }, by decide +kernel⟩,
   ⟨opAt 0x0203 ([1]) ({ rig [(F.PLAN_STATUS_STATE, 3)] opBase with plan := { active := some { id := 6 }, slots := Vector.replicate 2 (some { id := 7, drum := [3] }) } }) ({ role := .service }), 1, 5, sessOf (opAt 0x0203 ([1]) ({ rig [(F.PLAN_STATUS_STATE, 3)] opBase with plan := { active := some { id := 6 }, slots := Vector.replicate 2 (some { id := 7, drum := [3] }) } }) ({ role := .service })), cmdOf (opAt 0x0203 ([1]) ({ rig [(F.PLAN_STATUS_STATE, 3)] opBase with plan := { active := some { id := 6 }, slots := Vector.replicate 2 (some { id := 7, drum := [3] }) } }) ({ role := .service })), { id := 7, drum := [3] }, by decide +kernel⟩,
   ⟨opAt 0x0203 ([1]) ({ rig [(F.PLAN_STATUS_STATE, 3), (F.TWIN_STATUS_CLASH, 1)] opBase with plan := { active := some { id := 6 }, slots := Vector.replicate 2 (some { id := 7, drum := [3] }) } }) ({ role := .service }), 1, 5, sessOf (opAt 0x0203 ([1]) ({ rig [(F.PLAN_STATUS_STATE, 3), (F.TWIN_STATUS_CLASH, 1)] opBase with plan := { active := some { id := 6 }, slots := Vector.replicate 2 (some { id := 7, drum := [3] }) } }) ({ role := .service })), cmdOf (opAt 0x0203 ([1]) ({ rig [(F.PLAN_STATUS_STATE, 3), (F.TWIN_STATUS_CLASH, 1)] opBase with plan := { active := some { id := 6 }, slots := Vector.replicate 2 (some { id := 7, drum := [3] }) } }) ({ role := .service })), { id := 7, drum := [3] }, by decide +kernel⟩,
   ⟨opAt 0x0203 ([]) ({ rig [(F.PLAN_STATUS_STATE, 3)] opBase with plan := { active := some { id := 6 }, slots := Vector.replicate 2 (some { id := 7, safetyDiff := true }) } }) ({ role := .service }), 1, 5, sessOf (opAt 0x0203 ([]) ({ rig [(F.PLAN_STATUS_STATE, 3)] opBase with plan := { active := some { id := 6 }, slots := Vector.replicate 2 (some { id := 7, safetyDiff := true }) } }) ({ role := .service })), cmdOf (opAt 0x0203 ([]) ({ rig [(F.PLAN_STATUS_STATE, 3)] opBase with plan := { active := some { id := 6 }, slots := Vector.replicate 2 (some { id := 7, safetyDiff := true }) } }) ({ role := .service })), { id := 7, safetyDiff := true }, by decide +kernel⟩,
   ⟨opAt 0x0203 ([]) (opBase) ({ role := .service }), 1, 5, sessOf (opAt 0x0203 ([]) (opBase) ({ role := .service })), cmdOf (opAt 0x0203 ([]) (opBase) ({ role := .service })), by decide +kernel⟩,
   ⟨opAt 0x0204 ([]) ({ rig [(F.PLAN_STATUS_STATE, 4)] opBase with plan := { armed := some 9, slots := Vector.replicate 2 (some { id := 7 }) } }) ({ role := .service }), 1, 5, sessOf (opAt 0x0204 ([]) ({ rig [(F.PLAN_STATUS_STATE, 4)] opBase with plan := { armed := some 9, slots := Vector.replicate 2 (some { id := 7 }) } }) ({ role := .service })), cmdOf (opAt 0x0204 ([]) ({ rig [(F.PLAN_STATUS_STATE, 4)] opBase with plan := { armed := some 9, slots := Vector.replicate 2 (some { id := 7 }) } }) ({ role := .service })), by decide +kernel⟩,
   ⟨opAt 0x0204 ([]) (opBase) ({ role := .service }), 1, 5, sessOf (opAt 0x0204 ([]) (opBase) ({ role := .service })), cmdOf (opAt 0x0204 ([]) (opBase) ({ role := .service })), by decide +kernel⟩,
   ⟨opAt 0x0205 ([1, 0, 1, 0]) ({ rig [(F.PLAN_STATUS_STATE, 3)] opBase with plan := { slots := Vector.replicate 2 (some { id := 7, drum := [3] }) } }) ({ role := .service }), 1, 5, sessOf (opAt 0x0205 ([1, 0, 1, 0]) ({ rig [(F.PLAN_STATUS_STATE, 3)] opBase with plan := { slots := Vector.replicate 2 (some { id := 7, drum := [3] }) } }) ({ role := .service })), cmdOf (opAt 0x0205 ([1, 0, 1, 0]) ({ rig [(F.PLAN_STATUS_STATE, 3)] opBase with plan := { slots := Vector.replicate 2 (some { id := 7, drum := [3] }) } }) ({ role := .service })), { id := 7, drum := [3] }, by decide +kernel⟩,
   ⟨opAt 0x0205 ([0, 0, 1, 0]) ({ opBase with plan := { active := some { id := 6 } } }) ({ role := .service }), 1, 5, sessOf (opAt 0x0205 ([0, 0, 1, 0]) ({ opBase with plan := { active := some { id := 6 } } }) ({ role := .service })), cmdOf (opAt 0x0205 ([0, 0, 1, 0]) ({ opBase with plan := { active := some { id := 6 } } }) ({ role := .service })), { id := 6 }, by decide +kernel⟩⟩

theorem witness_PackageEnd :
    (∃ s y, (State.m s).notHolder = false ∧ s.m.orpor.pkg = some y ∧ y.gap = none ∧ bytes32 (Config.sha256 y.bytes) = y.digest) ∧
    ∃ s y, (State.m s).notHolder = false ∧ s.m.orpor.pkg = some y ∧ y.gap = none ∧ bytes32 (Config.sha256 y.bytes) ≠ y.digest :=
  ⟨⟨at_ { opBase with orpor := { pkg := some { len := 0, digest := bytes32 (Config.sha256 []) } } }, _, by decide +kernel, rfl, by decide +kernel, rfl⟩,
   at_ { opBase with orpor := { pkg := some { len := 0, digest := 0#8 :: bytes32 (Config.sha256 []) } } }, _, by decide +kernel, rfl, by decide +kernel,
   fun h => absurd (congrArg List.length h) (by simp [Xfer.bytes])⟩

theorem witness_BitProgramsAreStoredAndRead :
    (∃ (s : State) (h : BitVec 10) (seq : BitVec 32) (x : Sess) (c : Cmd), regsWf s.m.regs = true ∧ Ready s h seq 0x0206 x c ∧ bitAt 28 x.roleBit = true ∧ ((par c.params 0 4 = 0 ∨ 8244 < par c.params 0 4))) ∧
    (∃ (s : State) (h : BitVec 10) (seq : BitVec 32) (x : Sess) (c : Cmd), regsWf s.m.regs = true ∧ Ready s h seq 0x0206 x c ∧ bitAt 28 x.roleBit = true ∧ 1 ≤ (par c.params 0 4) ∧ (par c.params 0 4) ≤ 8244 ∧ (par c.params 0 4) < par c.params 4 4 + (c.params.drop 8).length) ∧
    (∃ (s : State) (h : BitVec 10) (seq : BitVec 32) (x : Sess) (c : Cmd), regsWf s.m.regs = true ∧ Ready s h seq 0x0206 x c ∧ bitAt 28 x.roleBit = true ∧ 1 ≤ (par c.params 0 4) ∧ (par c.params 0 4) ≤ 8244 ∧ par c.params 4 4 + (c.params.drop 8).length < (par c.params 0 4) ∧ (((match s.m.orpor.bitp with | some t => if t.len = par c.params 0 4 then t else { len := par c.params 0 4 } | none => { len := par c.params 0 4 } : Xfer)).put (par c.params 4 4) (c.params.drop 8)).gap.isSome = true) ∧
    (∃ (s : State) (h : BitVec 10) (seq : BitVec 32) (x : Sess) (c : Cmd) (w : Nat), regsWf s.m.regs = true ∧ Ready s h seq 0x0206 x c ∧ bitAt 28 x.roleBit = true ∧ 1 ≤ (par c.params 0 4) ∧ (par c.params 0 4) ≤ 8244 ∧ par c.params 4 4 + (c.params.drop 8).length ≤ (par c.params 0 4) ∧ (((match s.m.orpor.bitp with | some t => if t.len = par c.params 0 4 then t else { len := par c.params 0 4 } | none => { len := par c.params 0 4 } : Xfer)).put (par c.params 4 4) (c.params.drop 8)).gap = none ∧ ((x.role = .safety → (recField (((match s.m.orpor.bitp with | some t => if t.len = par c.params 0 4 then t else { len := par c.params 0 4 } | none => { len := par c.params 0 4 } : Xfer)).put (par c.params 4 4) (c.params.drop 8)).bytes 12 1 ≠ 0))) ∧ bitRecCheck (((match s.m.orpor.bitp with | some t => if t.len = par c.params 0 4 then t else { len := par c.params 0 4 } | none => { len := par c.params 0 4 } : Xfer)).put (par c.params 4 4) (c.params.drop 8)).bytes = some w) ∧
    (∃ (s : State) (h : BitVec 10) (seq : BitVec 32) (x : Sess) (c : Cmd), regsWf s.m.regs = true ∧ Ready s h seq 0x0206 x c ∧ bitAt 28 x.roleBit = true ∧ 1 ≤ (par c.params 0 4) ∧ (par c.params 0 4) ≤ 8244 ∧ par c.params 4 4 + (c.params.drop 8).length ≤ (par c.params 0 4) ∧ (((match s.m.orpor.bitp with | some t => if t.len = par c.params 0 4 then t else { len := par c.params 0 4 } | none => { len := par c.params 0 4 } : Xfer)).put (par c.params 4 4) (c.params.drop 8)).gap = none ∧ x.role ≠ .safety ∧ ¬ (recField (((match s.m.orpor.bitp with | some t => if t.len = par c.params 0 4 then t else { len := par c.params 0 4 } | none => { len := par c.params 0 4 } : Xfer)).put (par c.params 4 4) (c.params.drop 8)).bytes 12 1 ≠ 0) ∧ bitRecCheck (((match s.m.orpor.bitp with | some t => if t.len = par c.params 0 4 then t else { len := par c.params 0 4 } | none => { len := par c.params 0 4 } : Xfer)).put (par c.params 4 4) (c.params.drop 8)).bytes = none) ∧
    (∃ (s : State) (h : BitVec 10) (seq : BitVec 32) (x : Sess) (c : Cmd), regsWf s.m.regs = true ∧ Ready s h seq 0x0206 x c ∧ bitAt 28 x.roleBit = true ∧ 1 ≤ (par c.params 0 4) ∧ (par c.params 0 4) ≤ 8244 ∧ par c.params 4 4 + (c.params.drop 8).length ≤ (par c.params 0 4) ∧ (((match s.m.orpor.bitp with | some t => if t.len = par c.params 0 4 then t else { len := par c.params 0 4 } | none => { len := par c.params 0 4 } : Xfer)).put (par c.params 4 4) (c.params.drop 8)).gap = none ∧ x.role ≠ .safety ∧ (recField (((match s.m.orpor.bitp with | some t => if t.len = par c.params 0 4 then t else { len := par c.params 0 4 } | none => { len := par c.params 0 4 } : Xfer)).put (par c.params 4 4) (c.params.drop 8)).bytes 12 1 ≠ 0) ∧ bitRecCheck (((match s.m.orpor.bitp with | some t => if t.len = par c.params 0 4 then t else { len := par c.params 0 4 } | none => { len := par c.params 0 4 } : Xfer)).put (par c.params 4 4) (c.params.drop 8)).bytes = none) ∧
    (∃ (s : State) (h : BitVec 10) (seq : BitVec 32) (x : Sess) (c : Cmd), regsWf s.m.regs = true ∧ Ready s h seq 0x0207 x c ∧ bitAt 28 x.roleBit = true ∧ par c.params 4 2 ≤ 1024) ∧
    (∃ (s : State) (h : BitVec 10) (seq : BitVec 32) (x : Sess) (c : Cmd), regsWf s.m.regs = true ∧ Ready s h seq 0x0207 x c ∧ bitAt 28 x.roleBit = true ∧ 1024 < par c.params 4 2) :=
  ⟨⟨opAt 0x0206 ([0, 0, 0, 0]) (opBase) ({ role := .service }), 1, 5, sessOf (opAt 0x0206 ([0, 0, 0, 0]) (opBase) ({ role := .service })), cmdOf (opAt 0x0206 ([0, 0, 0, 0]) (opBase) ({ role := .service })), by decide +kernel⟩,
   ⟨opAt 0x0206 ([2, 0, 0, 0, 2, 0, 0, 0, 7]) (opBase) ({ role := .service }), 1, 5, sessOf (opAt 0x0206 ([2, 0, 0, 0, 2, 0, 0, 0, 7]) (opBase) ({ role := .service })), cmdOf (opAt 0x0206 ([2, 0, 0, 0, 2, 0, 0, 0, 7]) (opBase) ({ role := .service })), by decide +kernel⟩,
   ⟨opAt 0x0206 ([2, 0, 0, 0, 0, 0, 0, 0, 7]) (opBase) ({ role := .service }), 1, 5, sessOf (opAt 0x0206 ([2, 0, 0, 0, 0, 0, 0, 0, 7]) (opBase) ({ role := .service })), cmdOf (opAt 0x0206 ([2, 0, 0, 0, 0, 0, 0, 0, 7]) (opBase) ({ role := .service })), by decide +kernel⟩,
   ⟨opAt 0x0206 ([1, 0, 0, 0, 0, 0, 0, 0, 7]) (opBase) ({ role := .service }), 1, 5, sessOf (opAt 0x0206 ([1, 0, 0, 0, 0, 0, 0, 0, 7]) (opBase) ({ role := .service })), cmdOf (opAt 0x0206 ([1, 0, 0, 0, 0, 0, 0, 0, 7]) (opBase) ({ role := .service })), 0xFFFFFFFF, by decide +kernel⟩,
   ⟨opAt 0x0206 (bitLoad) (opBase) ({ role := .service }), 1, 5, sessOf (opAt 0x0206 (bitLoad) (opBase) ({ role := .service })), cmdOf (opAt 0x0206 (bitLoad) (opBase) ({ role := .service })), by decide +kernel⟩,
   ⟨opAt 0x0206 (bitLoadSo) (opBase) ({ role := .service }), 1, 5, sessOf (opAt 0x0206 (bitLoadSo) (opBase) ({ role := .service })), cmdOf (opAt 0x0206 (bitLoadSo) (opBase) ({ role := .service })), by decide +kernel⟩,
   ⟨opAt 0x0207 ([0, 0, 0, 0, 4, 0]) (opBase) ({ role := .service }), 1, 5, sessOf (opAt 0x0207 ([0, 0, 0, 0, 4, 0]) (opBase) ({ role := .service })), cmdOf (opAt 0x0207 ([0, 0, 0, 0, 4, 0]) (opBase) ({ role := .service })), by decide +kernel⟩,
   ⟨opAt 0x0207 ([0, 0, 0, 0, 1, 4]) (opBase) ({ role := .service }), 1, 5, sessOf (opAt 0x0207 ([0, 0, 0, 0, 1, 4]) (opBase) ({ role := .service })), cmdOf (opAt 0x0207 ([0, 0, 0, 0, 1, 4]) (opBase) ({ role := .service })), by decide +kernel⟩⟩

theorem witness_RegisterCommandsReadWriteAndModify :
    (∃ (s : State) (h : BitVec 10) (seq : BitVec 32) (x : Sess) (c : Cmd), regsWf s.m.regs = true ∧ Ready s h seq 0x0300 x c ∧ ((1 ≤ par c.params 4 2 ∧ par c.params 4 2 ≤ 256 ∧ addrBad (par c.params 0 4) = false ∧ par c.params 0 4 + 4 * (par c.params 4 2 - 1) ≤ 0xFFFFFC)) ∧ s.m.window (((List.range (par c.params 4 2)).map (fun i => par c.params 0 4 + 4 * i))) = .own ∧ (((List.range (par c.params 4 2)).map (fun i => par c.params 0 4 + 4 * i))).all (fun a => s.m.mayRead x a) = true ∧ (((List.range (par c.params 4 2)).map (fun i => par c.params 0 4 + 4 * i))).all plainRead = true) ∧
    (∃ (s : State) (h : BitVec 10) (seq : BitVec 32) (x : Sess) (c : Cmd), regsWf s.m.regs = true ∧ Ready s h seq 0x0300 x c ∧ par c.params 4 2 = 1 ∧ addrBad (par c.params 0 4) = false ∧ s.m.window [((par c.params 0 4))] = .own ∧ s.m.mayRead x ((par c.params 0 4)) = true ∧ s.m.pdPh ((pdOf ((par c.params 0 4))).getD 0) = .on ∧ pdOf ((par c.params 0 4)) ≠ none ∧ rcPlain ((par c.params 0 4)) = true) ∧
    (∃ (s : State) (h : BitVec 10) (seq : BitVec 32) (x : Sess) (c : Cmd), regsWf s.m.regs = true ∧ Ready s h seq 0x0300 x c ∧ ((1 ≤ par c.params 4 2 ∧ par c.params 4 2 ≤ 256 ∧ addrBad (par c.params 0 4) = false ∧ par c.params 0 4 + 4 * (par c.params 4 2 - 1) ≤ 0xFFFFFC)) ∧ ((((List.range (par c.params 4 2)).map (fun i => par c.params 0 4 + 4 * i))).all (fun a => decide (0x800000 ≤ a)) = true) ∧ s.m.get F.TWIN_STATUS_MODE = 1 ∧ s.m.peerUp = true ∧ s.m.flag F.TWIN_STATUS_SIDE = false ∧ (((List.range (par c.params 4 2)).map (fun i => par c.params 0 4 + 4 * i))).all (fun a => s.m.mayRead x a) = true) ∧
    (∃ (s : State) (h : BitVec 10) (seq : BitVec 32) (x : Sess) (c : Cmd), regsWf s.m.regs = true ∧ Ready s h seq 0x0300 x c ∧ ((par c.params 4 2 = 0 ∨ 256 < par c.params 4 2))) ∧
    (∃ (s : State) (h : BitVec 10) (seq : BitVec 32) (x : Sess) (c : Cmd), regsWf s.m.regs = true ∧ Ready s h seq 0x0300 x c ∧ 1 ≤ par c.params 4 2 ∧ par c.params 4 2 ≤ 256 ∧ ((addrBad (par c.params 0 4) = true ∨ 0xFFFFFC < par c.params 0 4 + 4 * (par c.params 4 2 - 1)))) ∧
    (∃ (s : State) (h : BitVec 10) (seq : BitVec 32) (x : Sess) (c : Cmd), regsWf s.m.regs = true ∧ Ready s h seq 0x0300 x c ∧ ((1 ≤ par c.params 4 2 ∧ par c.params 4 2 ≤ 256 ∧ addrBad (par c.params 0 4) = false ∧ par c.params 0 4 + 4 * (par c.params 4 2 - 1) ≤ 0xFFFFFC)) ∧ s.m.mayRead x ((par c.params 0 4)) = false) ∧
    (∃ (s : State) (h : BitVec 10) (seq : BitVec 32) (x : Sess) (c : Cmd), regsWf s.m.regs = true ∧ Ready s h seq 0x0301 x c ∧ bitAt 28 x.roleBit = true ∧ 1 ≤ par c.params 0 2 ∧ par c.params 0 2 ≤ 16 ∧ ((regItems c.params)).all (fun w => !addrBad w.1) = true ∧ s.m.window (((regItems c.params)).map (·.1)) = .own ∧ ((regItems c.params)).all (fun w => (s.m.jackRefused (s.m.sessKey h.toNat) w.1 w.2).isNone) = true) ∧
    (∃ (s : State) (h : BitVec 10) (seq : BitVec 32) (x : Sess) (c : Cmd), regsWf s.m.regs = true ∧ Ready s h seq 0x0301 x c ∧ bitAt 28 x.roleBit = true ∧ ((par c.params 0 2 = 1 ∧ addrBad (par c.params 4 4) = false ∧ (par c.params 4 4 < 0x800000 ∨ s.m.get F.TWIN_STATUS_MODE ≠ 1))) ∧ s.m.mayWrite (s.m.sessKey h.toNat) ((par c.params 4 4)) = true ∧ ((pdOf (par c.params 4 4)).any (fun d => d == 0 || s.m.pdPh d == .on || s.m.pdPh d == .shutting)) = true ∧ plainWrite ((par c.params 4 4)) = true ∧ quietRead ((par c.params 4 4)) = true ∧ ((par c.params 4 4)) % 4 = 0) ∧
    (∃ (s : State) (h : BitVec 10) (seq : BitVec 32) (x : Sess) (c : Cmd), regsWf s.m.regs = true ∧ Ready s h seq 0x0301 x c ∧ bitAt 28 x.roleBit = true ∧ ((par c.params 0 2 = 1 ∧ addrBad (par c.params 4 4) = false ∧ (par c.params 4 4 < 0x800000 ∨ s.m.get F.TWIN_STATUS_MODE ≠ 1))) ∧ ((s.m.sess (s.m.sessKey h.toNat) = some x)) ∧ ((pdOf (par c.params 4 4)).any (fun d => d == 0 || s.m.pdPh d == .on || s.m.pdPh d == .shutting)) = true ∧ isSelect ((par c.params 4 4)) = true) ∧
    (∃ (s : State) (h : BitVec 10) (seq : BitVec 32) (x : Sess) (c : Cmd), regsWf s.m.regs = true ∧ Ready s h seq 0x0301 x c ∧ bitAt 28 x.roleBit = true ∧ ((par c.params 0 2 = 1 ∧ addrBad (par c.params 4 4) = false ∧ (par c.params 4 4 < 0x800000 ∨ s.m.get F.TWIN_STATUS_MODE ≠ 1))) ∧ isSelect ((par c.params 4 4)) = false ∧ ((par c.params 4 4)) ≠ R.JACK_RESET ∧ (inst (R.UPL_CTRL 0) 0x200 2 ((par c.params 4 4))) = none ∧ quietRead ((par c.params 4 4)) = true ∧ ((((pdOf (par c.params 4 4)).any (fun d => d == 0 || s.m.pdPh d == .on || s.m.pdPh d == .shutting)) = false ∨ s.m.mayWrite (s.m.sessKey h.toNat) ((par c.params 4 4)) = false))) ∧
    (∃ (s : State) (h : BitVec 10) (seq : BitVec 32) (x : Sess) (c : Cmd), regsWf s.m.regs = true ∧ Ready s h seq 0x0301 x c ∧ bitAt 28 x.roleBit = true ∧ ((par c.params 0 2 = 0 ∨ 16 < par c.params 0 2))) ∧
    (∃ (s : State) (h : BitVec 10) (seq : BitVec 32) (x : Sess) (c : Cmd), regsWf s.m.regs = true ∧ Ready s h seq 0x0302 x c ∧ bitAt 28 x.roleBit = true ∧ addrBad ((par c.params 0 4)) = false ∧ s.m.window [((par c.params 0 4))] = .own ∧ isSelect ((par c.params 0 4)) = false ∧ s.m.mayWrite (s.m.sessKey h.toNat) ((par c.params 0 4)) = true ∧ (pdOf ((par c.params 0 4))).any (fun d => d == 0 || s.m.pdPh d == .on || s.m.pdPh d == .shutting) = true ∧ plainWrite ((par c.params 0 4)) = true ∧ quietRead ((par c.params 0 4)) = true) ∧
    (∃ (s : State) (h : BitVec 10) (seq : BitVec 32) (x : Sess) (c : Cmd), regsWf s.m.regs = true ∧ Ready s h seq 0x0302 x c ∧ bitAt 28 x.roleBit = true ∧ addrBad ((par c.params 0 4)) = false ∧ s.m.window [((par c.params 0 4))] = .own ∧ isSelect ((par c.params 0 4)) = false ∧ ((par c.params 0 4)) ≠ R.JACK_RESET ∧ (inst (R.UPL_CTRL 0) 0x200 2 ((par c.params 0 4))) = none ∧ quietRead ((par c.params 0 4)) = true ∧ (((pdOf ((par c.params 0 4))).any (fun d => d == 0 || s.m.pdPh d == .on || s.m.pdPh d == .shutting) = false ∨ s.m.mayWrite (s.m.sessKey h.toNat) ((par c.params 0 4)) = false))) ∧
    (∃ (s : State) (h : BitVec 10) (seq : BitVec 32) (x : Sess) (c : Cmd), regsWf s.m.regs = true ∧ Ready s h seq 0x0301 x c ∧ bitAt 28 x.roleBit = true ∧ 1 ≤ par c.params 0 2 ∧ par c.params 0 2 ≤ 16 ∧ ((regItems c.params)).all (fun w => !addrBad w.1) = true ∧ s.m.window (((regItems c.params)).map (·.1)) = .peer) :=
  ⟨⟨opAt 0x0300 ([0, 0, 0, 0, 3, 0]) (opBase) ({ role := .service }), 1, 5, sessOf (opAt 0x0300 ([0, 0, 0, 0, 3, 0]) (opBase) ({ role := .service })), cmdOf (opAt 0x0300 ([0, 0, 0, 0, 3, 0]) (opBase) ({ role := .service })), by decide +kernel⟩,
   ⟨opAt 0x0300 (leBytes 4 (R.TILE_DISCARDS) ++ [1, 0]) ({ lit [6] (rig [(F.TILE_DISCARDS_COUNT, 9)] opBase) with plan := {} }) ({ role := .service }), 1, 5, sessOf (opAt 0x0300 (leBytes 4 (R.TILE_DISCARDS) ++ [1, 0]) ({ lit [6] (rig [(F.TILE_DISCARDS_COUNT, 9)] opBase) with plan := {} }) ({ role := .service })), cmdOf (opAt 0x0300 (leBytes 4 (R.TILE_DISCARDS) ++ [1, 0]) ({ lit [6] (rig [(F.TILE_DISCARDS_COUNT, 9)] opBase) with plan := {} }) ({ role := .service })), by decide +kernel⟩,
   ⟨opAt 0x0300 ([0, 0, 0x80, 0, 2, 0]) (rig [(F.TWIN_STATUS_MODE, 1), (F.TWIN_STATUS_LINK_UP, 1)] opBase) ({ role := .service }), 1, 5, sessOf (opAt 0x0300 ([0, 0, 0x80, 0, 2, 0]) (rig [(F.TWIN_STATUS_MODE, 1), (F.TWIN_STATUS_LINK_UP, 1)] opBase) ({ role := .service })), cmdOf (opAt 0x0300 ([0, 0, 0x80, 0, 2, 0]) (rig [(F.TWIN_STATUS_MODE, 1), (F.TWIN_STATUS_LINK_UP, 1)] opBase) ({ role := .service })), by decide +kernel⟩,
   ⟨opAt 0x0300 ([0, 0, 0, 0, 1, 1]) (opBase) ({ role := .service }), 1, 5, sessOf (opAt 0x0300 ([0, 0, 0, 0, 1, 1]) (opBase) ({ role := .service })), cmdOf (opAt 0x0300 ([0, 0, 0, 0, 1, 1]) (opBase) ({ role := .service })), by decide +kernel⟩,
   ⟨opAt 0x0300 ([0xFC, 0xFF, 0xFF, 0, 2, 0]) (opBase) ({ role := .service }), 1, 5, sessOf (opAt 0x0300 ([0xFC, 0xFF, 0xFF, 0, 2, 0]) (opBase) ({ role := .service })), cmdOf (opAt 0x0300 ([0xFC, 0xFF, 0xFF, 0, 2, 0]) (opBase) ({ role := .service })), by decide +kernel⟩,
   ⟨opAt 0x0300 ([0, 0x10, 0, 0, 2, 0]) (opBase) ({ role := .tenant, scope := 3 }), 1, 5, sessOf (opAt 0x0300 ([0, 0x10, 0, 0, 2, 0]) (opBase) ({ role := .tenant, scope := 3 })), cmdOf (opAt 0x0300 ([0, 0x10, 0, 0, 2, 0]) (opBase) ({ role := .tenant, scope := 3 })), by decide +kernel⟩,
   ⟨opAt 0x0301 ([2, 0, 0, 0] ++ leBytes 4 R.RTC_STG_DATE ++ [3, 2, 0xD0, 7] ++ leBytes 4 (R.LOOP_MODE 255) ++ [2, 0, 0, 0]) (opBase) ({ role := .service }), 1, 5, sessOf (opAt 0x0301 ([2, 0, 0, 0] ++ leBytes 4 R.RTC_STG_DATE ++ [3, 2, 0xD0, 7] ++ leBytes 4 (R.LOOP_MODE 255) ++ [2, 0, 0, 0]) (opBase) ({ role := .service })), cmdOf (opAt 0x0301 ([2, 0, 0, 0] ++ leBytes 4 R.RTC_STG_DATE ++ [3, 2, 0xD0, 7] ++ leBytes 4 (R.LOOP_MODE 255) ++ [2, 0, 0, 0]) (opBase) ({ role := .service })), by decide +kernel⟩,
   ⟨opAt 0x0301 ([1, 0, 0, 0] ++ leBytes 4 R.RTC_STG_DATE ++ [3, 2, 0xD0, 0x07]) (lit [1, 2] opBase) ({ role := .service }), 1, 5, sessOf (opAt 0x0301 ([1, 0, 0, 0] ++ leBytes 4 R.RTC_STG_DATE ++ [3, 2, 0xD0, 0x07]) (lit [1, 2] opBase) ({ role := .service })), cmdOf (opAt 0x0301 ([1, 0, 0, 0] ++ leBytes 4 R.RTC_STG_DATE ++ [3, 2, 0xD0, 0x07]) (lit [1, 2] opBase) ({ role := .service })), by decide +kernel⟩,
   ⟨opAt 0x0301 ([1, 0, 0, 0] ++ leBytes 4 R.LOG_SEL ++ [5, 0, 0, 0]) (lit [1] opBase) ({ role := .service }), 1, 5, sessOf (opAt 0x0301 ([1, 0, 0, 0] ++ leBytes 4 R.LOG_SEL ++ [5, 0, 0, 0]) (lit [1] opBase) ({ role := .service })), cmdOf (opAt 0x0301 ([1, 0, 0, 0] ++ leBytes 4 R.LOG_SEL ++ [5, 0, 0, 0]) (lit [1] opBase) ({ role := .service })), by decide +kernel⟩,
   ⟨opAt 0x0301 ([1, 0, 0, 0] ++ leBytes 4 R.SAFE_STATUS ++ [255, 255, 255, 255]) (opBase) ({ role := .service }), 1, 5, sessOf (opAt 0x0301 ([1, 0, 0, 0] ++ leBytes 4 R.SAFE_STATUS ++ [255, 255, 255, 255]) (opBase) ({ role := .service })), cmdOf (opAt 0x0301 ([1, 0, 0, 0] ++ leBytes 4 R.SAFE_STATUS ++ [255, 255, 255, 255]) (opBase) ({ role := .service })), by decide +kernel⟩,
   ⟨opAt 0x0301 ([17, 0, 0, 0]) (opBase) ({ role := .service }), 1, 5, sessOf (opAt 0x0301 ([17, 0, 0, 0]) (opBase) ({ role := .service })), cmdOf (opAt 0x0301 ([17, 0, 0, 0]) (opBase) ({ role := .service })), by decide +kernel⟩,
   ⟨opAt 0x0302 (leBytes 4 R.RTC_STATUS ++ [255, 0, 0, 0, 255, 255, 255, 255]) (rig [(F.RTC_STATUS_OSC_STOPPED, 1), (F.RTC_STATUS_BAD_DATE, 1), (F.RTC_STATUS_SHADOW_TO, 1)] opBase) ({ role := .service }), 1, 5, sessOf (opAt 0x0302 (leBytes 4 R.RTC_STATUS ++ [255, 0, 0, 0, 255, 255, 255, 255]) (rig [(F.RTC_STATUS_OSC_STOPPED, 1), (F.RTC_STATUS_BAD_DATE, 1), (F.RTC_STATUS_SHADOW_TO, 1)] opBase) ({ role := .service })), cmdOf (opAt 0x0302 (leBytes 4 R.RTC_STATUS ++ [255, 0, 0, 0, 255, 255, 255, 255]) (rig [(F.RTC_STATUS_OSC_STOPPED, 1), (F.RTC_STATUS_BAD_DATE, 1), (F.RTC_STATUS_SHADOW_TO, 1)] opBase) ({ role := .service })), by decide +kernel⟩,
   ⟨opAt 0x0302 (leBytes 4 R.CLK_STATUS ++ [3, 0, 0, 0, 255, 255, 255, 255]) (opBase) ({ role := .service }), 1, 5, sessOf (opAt 0x0302 (leBytes 4 R.CLK_STATUS ++ [3, 0, 0, 0, 255, 255, 255, 255]) (opBase) ({ role := .service })), cmdOf (opAt 0x0302 (leBytes 4 R.CLK_STATUS ++ [3, 0, 0, 0, 255, 255, 255, 255]) (opBase) ({ role := .service })), by decide +kernel⟩,
   ⟨opAt 0x0301 ([1, 0, 0, 0, 0, 0, 0x80, 0, 3, 0, 0, 0]) (rig [(F.TWIN_STATUS_MODE, 1), (F.TWIN_STATUS_LINK_UP, 1)] opBase) ({ role := .service }), 1, 5, sessOf (opAt 0x0301 ([1, 0, 0, 0, 0, 0, 0x80, 0, 3, 0, 0, 0]) (rig [(F.TWIN_STATUS_MODE, 1), (F.TWIN_STATUS_LINK_UP, 1)] opBase) ({ role := .service })), cmdOf (opAt 0x0301 ([1, 0, 0, 0, 0, 0, 0x80, 0, 3, 0, 0, 0]) (rig [(F.TWIN_STATUS_MODE, 1), (F.TWIN_STATUS_LINK_UP, 1)] opBase) ({ role := .service })), by decide +kernel⟩⟩

theorem witness_MeteringAndLoopCommandsReadAndSet :
    (∃ (s : State) (h : BitVec 10) (seq : BitVec 32) (x : Sess) (c : Cmd), regsWf s.m.regs = true ∧ Ready s h seq 0x0400 x c ∧ s.m.planLoaded = true ∧ (par c.params 2 1) ≤ 2 ∧ (((par c.params 2 1) = 2 → 96 ≤ (par c.params 0 1))) ∧ 1 ≤ (par c.params 1 1) ∧ (par c.params 1 1) ≤ [18, 31, 6].getD (par c.params 2 1) 0 ∧ (par c.params 0 1) + (par c.params 1 1) ≤ (if par c.params 2 1 = 2 then 102 else 96) ∧ (List.range (par c.params 1 1)).all (fun j => s.m.meterOk x ((par c.params 0 1) + j)) = true) ∧
    (∃ (s : State) (h : BitVec 10) (seq : BitVec 32) (x : Sess) (c : Cmd), regsWf s.m.regs = true ∧ Ready s h seq 0x0400 x c ∧ s.m.planLoaded = true ∧ 2 < (par c.params 2 1)) ∧
    (∃ (s : State) (h : BitVec 10) (seq : BitVec 32) (x : Sess) (c : Cmd), regsWf s.m.regs = true ∧ Ready s h seq 0x0400 x c ∧ s.m.planLoaded = true ∧ (par c.params 2 1) ≤ 2 ∧ (((if par c.params 2 1 = 2 then 102 else 96) ≤ (par c.params 0 1) ∨ ((par c.params 2 1) = 2 ∧ (par c.params 0 1) < 96)))) ∧
    (∃ (s : State) (h : BitVec 10) (seq : BitVec 32) (x : Sess) (c : Cmd), regsWf s.m.regs = true ∧ Ready s h seq 0x0400 x c ∧ s.m.planLoaded = true ∧ (par c.params 2 1) ≤ 2 ∧ (par c.params 0 1) < (if par c.params 2 1 = 2 then 102 else 96) ∧ (((par c.params 2 1) = 2 → 96 ≤ (par c.params 0 1))) ∧ (((par c.params 1 1) = 0 ∨ [18, 31, 6].getD (par c.params 2 1) 0 < (par c.params 1 1) ∨ (if par c.params 2 1 = 2 then 102 else 96) < (par c.params 0 1) + (par c.params 1 1)))) ∧
    (∃ (s : State) (h : BitVec 10) (seq : BitVec 32) (x : Sess) (c : Cmd), regsWf s.m.regs = true ∧ Ready s h seq 0x0400 x c ∧ s.m.planLoaded = true ∧ (par c.params 2 1) ≤ 2 ∧ (((par c.params 2 1) = 2 → 96 ≤ (par c.params 0 1))) ∧ 1 ≤ (par c.params 1 1) ∧ (par c.params 1 1) ≤ [18, 31, 6].getD (par c.params 2 1) 0 ∧ (par c.params 0 1) + (par c.params 1 1) ≤ (if par c.params 2 1 = 2 then 102 else 96) ∧ s.m.meterOk x (par c.params 0 1) = false) ∧
    (∃ (s : State) (h : BitVec 10) (seq : BitVec 32) (x : Sess) (c : Cmd), regsWf s.m.regs = true ∧ Ready s h seq 0x0401 x c ∧ s.m.planLoaded = true ∧ (par c.params 0 1) < 96 ∧ 1 ≤ par c.params 2 2 ∧ par c.params 2 2 ≤ 21 ∧ s.m.meterOk x (par c.params 0 1) = true) ∧
    (∃ (s : State) (h : BitVec 10) (seq : BitVec 32) (x : Sess) (c : Cmd), regsWf s.m.regs = true ∧ Ready s h seq 0x0401 x c ∧ s.m.planLoaded = true ∧ 96 ≤ (par c.params 0 1)) ∧
    (∃ (s : State) (h : BitVec 10) (seq : BitVec 32) (x : Sess) (c : Cmd), regsWf s.m.regs = true ∧ Ready s h seq 0x0401 x c ∧ s.m.planLoaded = true ∧ (par c.params 0 1) < 96 ∧ ((par c.params 2 2 = 0 ∨ 21 < par c.params 2 2))) ∧
    (∃ (s : State) (h : BitVec 10) (seq : BitVec 32) (x : Sess) (c : Cmd), regsWf s.m.regs = true ∧ Ready s h seq 0x0401 x c ∧ s.m.planLoaded = true ∧ (par c.params 0 1) < 96 ∧ 1 ≤ par c.params 2 2 ∧ par c.params 2 2 ≤ 21 ∧ s.m.meterOk x (par c.params 0 1) = false) ∧
    (∃ (s : State) (h : BitVec 10) (seq : BitVec 32) (x : Sess) (c : Cmd), regsWf s.m.regs = true ∧ Ready s h seq 0x0402 x c ∧ bitAt 12 x.roleBit = true ∧ s.m.planLoaded = true ∧ ((par c.params 4 2 = 0 ∨ 170 < par c.params 4 2))) ∧
    (∃ (s : State) (h : BitVec 10) (seq : BitVec 32) (x : Sess) (c : Cmd), regsWf s.m.regs = true ∧ Ready s h seq 0x0402 x c ∧ bitAt 12 x.roleBit = true ∧ s.m.planLoaded = true ∧ 1 ≤ par c.params 4 2 ∧ par c.params 4 2 ≤ 170 ∧ winSound s.m ((s.m.get F.MET_CAP_CTRL_CBW)) ((winIdx s.m (s.m.get F.MET_CAP_CTRL_CBW) (s.m.met.capture.getD (s.m.get (F.CBW_LENGTH_LENGTH (s.m.get F.MET_CAP_CTRL_CBW)))) (par c.params 0 4) (par c.params 4 2))) = true) ∧
    (∃ (s : State) (h : BitVec 10) (seq : BitVec 32) (x : Sess) (c : Cmd), regsWf s.m.regs = true ∧ Ready s h seq 0x0500 x c ∧ bitAt 12 x.roleBit = true) ∧
    (∃ (s : State) (h : BitVec 10) (seq : BitVec 32) (x : Sess) (c : Cmd), regsWf s.m.regs = true ∧ Ready s h seq 0x0501 x c ∧ bitAt 12 x.roleBit = true ∧ par c.params 1 1 ≤ 3 ∧ ((s.m.pdPh 7 = .on ∧ (x.role = .service ∨ x.role = .operator) ∧ s.m.sess (s.m.sessKey h.toNat) = some x)) ∧ s.m.mayWrite (s.m.sessKey h.toNat) (R.LOOP_MODE (par c.params 0 1)) = true) ∧
    (∃ (s : State) (h : BitVec 10) (seq : BitVec 32) (x : Sess) (c : Cmd), regsWf s.m.regs = true ∧ Ready s h seq 0x0501 x c ∧ bitAt 12 x.roleBit = true ∧ 3 < par c.params 1 1) ∧
    (∃ (s : State) (h : BitVec 10) (seq : BitVec 32) (x : Sess) (c : Cmd) (i : Fin 8), regsWf s.m.regs = true ∧ Ready s h seq 0x0502 x c ∧ bitAt 12 x.roleBit = true ∧ par c.params 2 2 = 2 ^ i.val ∧ ((s.m.pdPh 7 = .on ∧ (x.role = .service ∨ x.role = .operator) ∧ s.m.sess (s.m.sessKey h.toNat) = some x)) ∧ s.m.mayWrite (s.m.sessKey h.toNat) (R.LOOP_MODE (par c.params 0 1)) = true ∧ ¬ TuneBad s.m (par c.params 0 1) (4 + i.val) (BitVec.ofNat 32 (par c.params (4 + 4 * i.val) 4))) ∧
    (∃ (s : State) (h : BitVec 10) (seq : BitVec 32) (x : Sess) (c : Cmd) (i : Fin 8), regsWf s.m.regs = true ∧ Ready s h seq 0x0502 x c ∧ bitAt 12 x.roleBit = true ∧ par c.params 2 2 = 2 ^ i.val ∧ ((s.m.pdPh 7 = .on ∧ (x.role = .service ∨ x.role = .operator) ∧ s.m.sess (s.m.sessKey h.toNat) = some x)) ∧ s.m.mayWrite (s.m.sessKey h.toNat) (R.LOOP_MODE (par c.params 0 1)) = true ∧ TuneBad s.m (par c.params 0 1) (4 + i.val) (BitVec.ofNat 32 (par c.params (4 + 4 * i.val) 4))) ∧
    (∃ (s : State) (h : BitVec 10) (seq : BitVec 32) (x : Sess) (c : Cmd), regsWf s.m.regs = true ∧ Ready s h seq 0x0503 x c ∧ bitAt 12 x.roleBit = true ∧ 3 < par c.params 0 1) ∧
    (∃ (s : State) (h : BitVec 10) (seq : BitVec 32) (x : Sess) (c : Cmd), regsWf s.m.regs = true ∧ Ready s h seq 0x0504 x c ∧ bitAt 12 x.roleBit = true ∧ 3 < par c.params 0 1) ∧
    (∃ (s : State) (h : BitVec 10) (seq : BitVec 32) (x : Sess) (c : Cmd), regsWf s.m.regs = true ∧ Ready s h seq 0x0504 x c ∧ bitAt 12 x.roleBit = true ∧ par c.params 0 1 ≤ 3 ∧ 40 < par c.params 8 2) ∧
    (∃ (s : State) (h : BitVec 10) (seq : BitVec 32) (x : Sess) (c : Cmd), regsWf s.m.regs = true ∧ Ready s h seq 0x0504 x c ∧ bitAt 12 x.roleBit = true ∧ par c.params 0 1 ≤ 3 ∧ par c.params 8 2 ≤ 40 ∧ winSound s.m ((s.m.get (F.LOOPTEST_CTRL_CBW (par c.params 0 1)))) ((winIdx s.m (s.m.get (F.LOOPTEST_CTRL_CBW (par c.params 0 1))) (s.m.get (F.LOOPTEST_STATUS_K (par c.params 0 1))) (par c.params 4 4) (par c.params 8 2))) = true) ∧
    (∃ (s : State) (h : BitVec 10) (seq : BitVec 32) (x : Sess) (c : Cmd), regsWf s.m.regs = true ∧ Ready s h seq 0x0503 x c ∧ bitAt 12 x.roleBit = true ∧ par c.params 0 1 ≤ 3 ∧ bitAt (par c.params 4 4) 12 = false ∧ ((s.m.pdPh 7 = .on ∧ (x.role = .service ∨ x.role = .operator) ∧ s.m.sess (s.m.sessKey h.toNat) = some x)) ∧ s.m.mayWrite (s.m.sessKey h.toNat) (R.LOOP_MODE (par c.params 0 1)) = true) ∧
    (∃ (s : State) (h : BitVec 10) (seq : BitVec 32) (x : Sess) (c : Cmd), regsWf s.m.regs = true ∧ Ready s h seq 0x0502 x c ∧ bitAt 12 x.roleBit = true) :=
  ⟨⟨opAt 0x0400 ([94, 2, 0, 0]) (ptMod) ({ role := .service }), 1, 5, sessOf (opAt 0x0400 ([94, 2, 0, 0]) (ptMod) ({ role := .service })), cmdOf (opAt 0x0400 ([94, 2, 0, 0]) (ptMod) ({ role := .service })), by decide +kernel⟩,
   ⟨opAt 0x0400 ([0, 1, 3, 0]) (ptMod) ({ role := .service }), 1, 5, sessOf (opAt 0x0400 ([0, 1, 3, 0]) (ptMod) ({ role := .service })), cmdOf (opAt 0x0400 ([0, 1, 3, 0]) (ptMod) ({ role := .service })), by decide +kernel⟩,
   ⟨opAt 0x0400 ([95, 1, 2, 0]) (ptMod) ({ role := .service }), 1, 5, sessOf (opAt 0x0400 ([95, 1, 2, 0]) (ptMod) ({ role := .service })), cmdOf (opAt 0x0400 ([95, 1, 2, 0]) (ptMod) ({ role := .service })), by decide +kernel⟩,
   ⟨opAt 0x0400 ([95, 2, 0, 0]) (ptMod) ({ role := .service }), 1, 5, sessOf (opAt 0x0400 ([95, 2, 0, 0]) (ptMod) ({ role := .service })), cmdOf (opAt 0x0400 ([95, 2, 0, 0]) (ptMod) ({ role := .service })), by decide +kernel⟩,
   ⟨opAt 0x0400 ([94, 2, 0, 0]) (ptMod) ({ role := .tenant, scope := 3 }), 1, 5, sessOf (opAt 0x0400 ([94, 2, 0, 0]) (ptMod) ({ role := .tenant, scope := 3 })), cmdOf (opAt 0x0400 ([94, 2, 0, 0]) (ptMod) ({ role := .tenant, scope := 3 })), by decide +kernel⟩,
   ⟨opAt 0x0401 ([95, 0, 21, 0]) (ptMod) ({ role := .service }), 1, 5, sessOf (opAt 0x0401 ([95, 0, 21, 0]) (ptMod) ({ role := .service })), cmdOf (opAt 0x0401 ([95, 0, 21, 0]) (ptMod) ({ role := .service })), by decide +kernel⟩,
   ⟨opAt 0x0401 ([96, 0, 21, 0]) (ptMod) ({ role := .service }), 1, 5, sessOf (opAt 0x0401 ([96, 0, 21, 0]) (ptMod) ({ role := .service })), cmdOf (opAt 0x0401 ([96, 0, 21, 0]) (ptMod) ({ role := .service })), by decide +kernel⟩,
   ⟨opAt 0x0401 ([95, 0, 22, 0]) (ptMod) ({ role := .service }), 1, 5, sessOf (opAt 0x0401 ([95, 0, 22, 0]) (ptMod) ({ role := .service })), cmdOf (opAt 0x0401 ([95, 0, 22, 0]) (ptMod) ({ role := .service })), by decide +kernel⟩,
   ⟨opAt 0x0401 ([95, 0, 21, 0]) (ptMod) ({ role := .tenant, scope := 3 }), 1, 5, sessOf (opAt 0x0401 ([95, 0, 21, 0]) (ptMod) ({ role := .tenant, scope := 3 })), cmdOf (opAt 0x0401 ([95, 0, 21, 0]) (ptMod) ({ role := .tenant, scope := 3 })), by decide +kernel⟩,
   ⟨opAt 0x0402 ([0, 0, 0, 0, 171, 0]) (ptMod) ({ role := .service }), 1, 5, sessOf (opAt 0x0402 ([0, 0, 0, 0, 171, 0]) (ptMod) ({ role := .service })), cmdOf (opAt 0x0402 ([0, 0, 0, 0, 171, 0]) (ptMod) ({ role := .service })), by decide +kernel⟩,
   ⟨opAt 0x0402 ([1, 0, 0, 0, 170, 0]) (winMod) ({ role := .service }), 1, 5, sessOf (opAt 0x0402 ([1, 0, 0, 0, 170, 0]) (winMod) ({ role := .service })), cmdOf (opAt 0x0402 ([1, 0, 0, 0, 170, 0]) (winMod) ({ role := .service })), by decide +kernel⟩,
   ⟨opAt 0x0500 ([255]) (opBase) ({ role := .service }), 1, 5, sessOf (opAt 0x0500 ([255]) (opBase) ({ role := .service })), cmdOf (opAt 0x0500 ([255]) (opBase) ({ role := .service })), by decide +kernel⟩,
   ⟨opAt 0x0501 ([255, 3]) (lit [7] ptMod) ({ role := .service }), 1, 5, sessOf (opAt 0x0501 ([255, 3]) (lit [7] ptMod) ({ role := .service })), cmdOf (opAt 0x0501 ([255, 3]) (lit [7] ptMod) ({ role := .service })), by decide +kernel⟩,
   ⟨opAt 0x0501 ([255, 4]) (opBase) ({ role := .service }), 1, 5, sessOf (opAt 0x0501 ([255, 4]) (opBase) ({ role := .service })), cmdOf (opAt 0x0501 ([255, 4]) (opBase) ({ role := .service })), by decide +kernel⟩,
   ⟨opAt 0x0502 ([255, 0, 2, 0, 0, 0, 0, 0, 0, 0, 128, 63]) (lit [7] ptMod) ({ role := .service }), 1, 5, sessOf (opAt 0x0502 ([255, 0, 2, 0, 0, 0, 0, 0, 0, 0, 128, 63]) (lit [7] ptMod) ({ role := .service })), cmdOf (opAt 0x0502 ([255, 0, 2, 0, 0, 0, 0, 0, 0, 0, 128, 63]) (lit [7] ptMod) ({ role := .service })), 1, by decide +kernel⟩,
   ⟨opAt 0x0502 ([255, 0, 2, 0, 0, 0, 0, 0, 0, 0, 128, 191]) (lit [7] ptMod) ({ role := .service }), 1, 5, sessOf (opAt 0x0502 ([255, 0, 2, 0, 0, 0, 0, 0, 0, 0, 128, 191]) (lit [7] ptMod) ({ role := .service })), cmdOf (opAt 0x0502 ([255, 0, 2, 0, 0, 0, 0, 0, 0, 0, 128, 191]) (lit [7] ptMod) ({ role := .service })), 1, by decide +kernel⟩,
   ⟨opAt 0x0503 ([4]) (opBase) ({ role := .service }), 1, 5, sessOf (opAt 0x0503 ([4]) (opBase) ({ role := .service })), cmdOf (opAt 0x0503 ([4]) (opBase) ({ role := .service })), by decide +kernel⟩,
   ⟨opAt 0x0504 ([4]) (opBase) ({ role := .service }), 1, 5, sessOf (opAt 0x0504 ([4]) (opBase) ({ role := .service })), cmdOf (opAt 0x0504 ([4]) (opBase) ({ role := .service })), by decide +kernel⟩,
   ⟨opAt 0x0504 ([3, 0, 0, 0, 0, 0, 0, 0, 41, 0]) (opBase) ({ role := .service }), 1, 5, sessOf (opAt 0x0504 ([3, 0, 0, 0, 0, 0, 0, 0, 41, 0]) (opBase) ({ role := .service })), cmdOf (opAt 0x0504 ([3, 0, 0, 0, 0, 0, 0, 0, 41, 0]) (opBase) ({ role := .service })), by decide +kernel⟩,
   ⟨opAt 0x0504 ([0, 0, 0, 0, 1, 0, 0, 0, 40, 0]) (winMod) ({ role := .service }), 1, 5, sessOf (opAt 0x0504 ([0, 0, 0, 0, 1, 0, 0, 0, 40, 0]) (winMod) ({ role := .service })), cmdOf (opAt 0x0504 ([0, 0, 0, 0, 1, 0, 0, 0, 40, 0]) (winMod) ({ role := .service })), by decide +kernel⟩,
   ⟨opAt 0x0503 ([3, 0, 0, 0, 1, 2, 3, 4, 0, 0, 0, 65, 0, 0, 0, 66, 1]) (lit [7] ptMod) ({ role := .service }), 1, 5, sessOf (opAt 0x0503 ([3, 0, 0, 0, 1, 2, 3, 4, 0, 0, 0, 65, 0, 0, 0, 66, 1]) (lit [7] ptMod) ({ role := .service })), cmdOf (opAt 0x0503 ([3, 0, 0, 0, 1, 2, 3, 4, 0, 0, 0, 65, 0, 0, 0, 66, 1]) (lit [7] ptMod) ({ role := .service })), by decide +kernel⟩,
   ⟨opAt 0x0502 ([255, 0, 254, 0] ++ (List.replicate 32 64)) (lit [7] ptMod) ({ role := .service }), 1, 5, sessOf (opAt 0x0502 ([255, 0, 254, 0] ++ (List.replicate 32 64)) (lit [7] ptMod) ({ role := .service })), cmdOf (opAt 0x0502 ([255, 0, 254, 0] ++ (List.replicate 32 64)) (lit [7] ptMod) ({ role := .service })), by decide +kernel⟩⟩

theorem witness_LogTimeAndCalendarCommandsReadAndSet :
    (∃ (s : State) (h : BitVec 10) (seq : BitVec 32) (x : Sess) (c : Cmd), regsWf s.m.regs = true ∧ Ready s h seq 0x0600 x c ∧ s.m.planLoaded = true) ∧
    (∃ (s : State) (h : BitVec 10) (seq : BitVec 32) (x : Sess) (c : Cmd) (a : Fin 16), regsWf s.m.regs = true ∧ Ready s h seq 0x0601 x c ∧ s.m.planLoaded = true ∧ par c.params 0 1 = a.val ∧ 1 ≤ par c.params 2 2 ∧ par c.params 2 2 ≤ 42 ∧ s.m.mayReadLog x a.val = true) ∧
    (∃ (s : State) (h : BitVec 10) (seq : BitVec 32) (x : Sess) (c : Cmd), regsWf s.m.regs = true ∧ Ready s h seq 0x0601 x c ∧ s.m.planLoaded = true ∧ 16 ≤ par c.params 0 1) ∧
    (∃ (s : State) (h : BitVec 10) (seq : BitVec 32) (x : Sess) (c : Cmd), regsWf s.m.regs = true ∧ Ready s h seq 0x0601 x c ∧ s.m.planLoaded = true ∧ par c.params 0 1 < 16 ∧ ((par c.params 2 2 = 0 ∨ 42 < par c.params 2 2))) ∧
    (∃ (s : State) (h : BitVec 10) (seq : BitVec 32) (x : Sess) (c : Cmd), regsWf s.m.regs = true ∧ Ready s h seq 0x0601 x c ∧ s.m.planLoaded = true ∧ par c.params 0 1 < 16 ∧ 1 ≤ par c.params 2 2 ∧ par c.params 2 2 ≤ 42 ∧ s.m.mayReadLog x (par c.params 0 1) = false) ∧
    (∃ (s : State) (h : BitVec 10) (seq : BitVec 32) (x : Sess) (c : Cmd), regsWf s.m.regs = true ∧ Ready s h seq 0x0700 x c) ∧
    (∃ (s : State) (h : BitVec 10) (seq : BitVec 32) (x : Sess) (c : Cmd), regsWf s.m.regs = true ∧ Ready s h seq 0x0701 x c ∧ bitAt 12 x.roleBit = true ∧ ((s.m.get F.TIME_STATUS_STATE = syExt ∨ s.m.get F.TIME_STATUS_STATE = syFree)) ∧ ((par c.params 0 8)) * 1000000000 < 2 ^ 64 ∧ s.m.stepAtOnce = true) ∧
    (∃ (s : State) (h : BitVec 10) (seq : BitVec 32) (x : Sess) (c : Cmd), regsWf s.m.regs = true ∧ Ready s h seq 0x0701 x c ∧ bitAt 12 x.roleBit = true ∧ ((s.m.get F.TIME_STATUS_STATE = syExt ∨ s.m.get F.TIME_STATUS_STATE = syFree)) ∧ ((par c.params 0 8)) * 1000000000 < 2 ^ 64 ∧ s.m.stepAtOnce = false ∧ s.m.flag F.TIME_CFG_STEP_EN = true) ∧
    (∃ (s : State) (h : BitVec 10) (seq : BitVec 32) (x : Sess) (c : Cmd), regsWf s.m.regs = true ∧ Ready s h seq 0x0701 x c ∧ bitAt 12 x.roleBit = true ∧ ((s.m.get F.TIME_STATUS_STATE = syExt ∨ s.m.get F.TIME_STATUS_STATE = syFree)) ∧ ((par c.params 0 8)) * 1000000000 < 2 ^ 64 ∧ s.m.stepAtOnce = false ∧ s.m.flag F.TIME_CFG_STEP_EN = false) ∧
    (∃ (s : State) (h : BitVec 10) (seq : BitVec 32) (x : Sess) (c : Cmd), regsWf s.m.regs = true ∧ Ready s h seq 0x0701 x c ∧ bitAt 12 x.roleBit = true ∧ ((s.m.get F.TIME_STATUS_STATE = syExt ∨ s.m.get F.TIME_STATUS_STATE = syFree)) ∧ 2 ^ 64 ≤ ((par c.params 0 8)) * 1000000000) ∧
    (∃ (s : State) (h : BitVec 10) (seq : BitVec 32) (x : Sess) (c : Cmd), regsWf s.m.regs = true ∧ Ready s h seq 0x0701 x c ∧ bitAt 12 x.roleBit = true ∧ s.m.get F.TIME_STATUS_STATE ≠ syExt ∧ s.m.get F.TIME_STATUS_STATE ≠ syFree) ∧
    (∃ (s : State) (h : BitVec 10) (seq : BitVec 32) (x : Sess) (c : Cmd), regsWf s.m.regs = true ∧ Ready s h seq 0x0702 x c ∧ (s.m.rtc.shadow = none ∨ s.m.freezeOver = true)) ∧
    (∃ (s : State) (h : BitVec 10) (seq : BitVec 32) (x : Sess) (c : Cmd) (sh : Shadow), regsWf s.m.regs = true ∧ Ready s h seq 0x0702 x c ∧ s.m.rtc.shadow = some sh ∧ s.m.freezeOver = false) ∧
    (∃ (s : State) (h : BitVec 10) (seq : BitVec 32) (x : Sess) (c : Cmd), regsWf s.m.regs = true ∧ Ready s h seq 0x0703 x c ∧ bitAt 12 x.roleBit = true ∧ ((⟨par c.params 0 2, par c.params 2 1, par c.params 3 1, par c.params 4 1, par c.params 5 1, par c.params 6 1⟩ : Cal)).bad = none ∧ s.m.rtc.run = true) ∧
    (∃ (s : State) (h : BitVec 10) (seq : BitVec 32) (x : Sess) (c : Cmd), regsWf s.m.regs = true ∧ Ready s h seq 0x0703 x c ∧ bitAt 12 x.roleBit = true ∧ ((⟨par c.params 0 2, par c.params 2 1, par c.params 3 1, par c.params 4 1, par c.params 5 1, par c.params 6 1⟩ : Cal)).bad = none ∧ s.m.rtc.run = false) ∧
    (∃ (s : State) (h : BitVec 10) (seq : BitVec 32) (x : Sess) (c : Cmd) (fld : Nat), regsWf s.m.regs = true ∧ Ready s h seq 0x0703 x c ∧ bitAt 12 x.roleBit = true ∧ ((⟨par c.params 0 2, par c.params 2 1, par c.params 3 1, par c.params 4 1, par c.params 5 1, par c.params 6 1⟩ : Cal)).bad = some fld) :=
  ⟨⟨opAt 0x0600 ([]) (ptMod) ({ role := .service }), 1, 5, sessOf (opAt 0x0600 ([]) (ptMod) ({ role := .service })), cmdOf (opAt 0x0600 ([]) (ptMod) ({ role := .service })), by decide +kernel⟩,
   ⟨opAt 0x0601 ([15, 0, 42, 0]) (ptMod) ({ role := .service }), 1, 5, sessOf (opAt 0x0601 ([15, 0, 42, 0]) (ptMod) ({ role := .service })), cmdOf (opAt 0x0601 ([15, 0, 42, 0]) (ptMod) ({ role := .service })), 15, by decide +kernel⟩,
   ⟨opAt 0x0601 ([16, 0, 42, 0]) (ptMod) ({ role := .service }), 1, 5, sessOf (opAt 0x0601 ([16, 0, 42, 0]) (ptMod) ({ role := .service })), cmdOf (opAt 0x0601 ([16, 0, 42, 0]) (ptMod) ({ role := .service })), by decide +kernel⟩,
   ⟨opAt 0x0601 ([15, 0, 43, 0]) (ptMod) ({ role := .service }), 1, 5, sessOf (opAt 0x0601 ([15, 0, 43, 0]) (ptMod) ({ role := .service })), cmdOf (opAt 0x0601 ([15, 0, 43, 0]) (ptMod) ({ role := .service })), by decide +kernel⟩,
   ⟨opAt 0x0601 ([15, 0, 42, 0]) (ptMod) ({ role := .tenant, scope := 3 }), 1, 5, sessOf (opAt 0x0601 ([15, 0, 42, 0]) (ptMod) ({ role := .tenant, scope := 3 })), cmdOf (opAt 0x0601 ([15, 0, 42, 0]) (ptMod) ({ role := .tenant, scope := 3 })), by decide +kernel⟩,
   ⟨opAt 0x0700 ([]) (opBase) ({ role := .service }), 1, 5, sessOf (opAt 0x0700 ([]) (opBase) ({ role := .service })), cmdOf (opAt 0x0700 ([]) (opBase) ({ role := .service })), by decide +kernel⟩,
   ⟨opAt 0x0701 ([9, 0, 0, 0, 1, 0, 0, 0]) (rig [(F.EXEC_STATE_STATE, 1), (F.TIME_STATUS_STATE, syFree)]) ({ role := .service }), 1, 5, sessOf (opAt 0x0701 ([9, 0, 0, 0, 1, 0, 0, 0]) (rig [(F.EXEC_STATE_STATE, 1), (F.TIME_STATUS_STATE, syFree)]) ({ role := .service })), cmdOf (opAt 0x0701 ([9, 0, 0, 0, 1, 0, 0, 0]) (rig [(F.EXEC_STATE_STATE, 1), (F.TIME_STATUS_STATE, syFree)]) ({ role := .service })), by decide +kernel⟩,
   ⟨opAt 0x0701 ([9, 0, 0, 0, 1, 0, 0, 0]) (rig [(F.EXEC_STATE_STATE, 5), (F.TIME_STATUS_STATE, syFree), (F.TIME_CFG_STEP_EN, 1)]) ({ role := .service }), 1, 5, sessOf (opAt 0x0701 ([9, 0, 0, 0, 1, 0, 0, 0]) (rig [(F.EXEC_STATE_STATE, 5), (F.TIME_STATUS_STATE, syFree), (F.TIME_CFG_STEP_EN, 1)]) ({ role := .service })), cmdOf (opAt 0x0701 ([9, 0, 0, 0, 1, 0, 0, 0]) (rig [(F.EXEC_STATE_STATE, 5), (F.TIME_STATUS_STATE, syFree), (F.TIME_CFG_STEP_EN, 1)]) ({ role := .service })), by decide +kernel⟩,
   ⟨opAt 0x0701 ([9, 0, 0, 0, 1, 0, 0, 0]) (rig [(F.EXEC_STATE_STATE, 5), (F.TIME_STATUS_STATE, syFree), (F.TIME_CFG_STEP_EN, 0)]) ({ role := .service }), 1, 5, sessOf (opAt 0x0701 ([9, 0, 0, 0, 1, 0, 0, 0]) (rig [(F.EXEC_STATE_STATE, 5), (F.TIME_STATUS_STATE, syFree), (F.TIME_CFG_STEP_EN, 0)]) ({ role := .service })), cmdOf (opAt 0x0701 ([9, 0, 0, 0, 1, 0, 0, 0]) (rig [(F.EXEC_STATE_STATE, 5), (F.TIME_STATUS_STATE, syFree), (F.TIME_CFG_STEP_EN, 0)]) ({ role := .service })), by decide +kernel⟩,
   ⟨opAt 0x0701 ([9, 0, 0, 0, 1, 0, 0, 1]) (rig [(F.TIME_STATUS_STATE, syFree)]) ({ role := .service }), 1, 5, sessOf (opAt 0x0701 ([9, 0, 0, 0, 1, 0, 0, 1]) (rig [(F.TIME_STATUS_STATE, syFree)]) ({ role := .service })), cmdOf (opAt 0x0701 ([9, 0, 0, 0, 1, 0, 0, 1]) (rig [(F.TIME_STATUS_STATE, syFree)]) ({ role := .service })), by decide +kernel⟩,
   ⟨opAt 0x0701 ([9, 0, 0, 0, 1, 0, 0, 0]) (rig [(F.TIME_STATUS_STATE, syLocked)]) ({ role := .service }), 1, 5, sessOf (opAt 0x0701 ([9, 0, 0, 0, 1, 0, 0, 0]) (rig [(F.TIME_STATUS_STATE, syLocked)]) ({ role := .service })), cmdOf (opAt 0x0701 ([9, 0, 0, 0, 1, 0, 0, 0]) (rig [(F.TIME_STATUS_STATE, syLocked)]) ({ role := .service })), by decide +kernel⟩,
   ⟨opAt 0x0702 ([]) ({ opBase with rtc := { timedOut := true } }) ({ role := .service }), 1, 5, sessOf (opAt 0x0702 ([]) ({ opBase with rtc := { timedOut := true } }) ({ role := .service })), cmdOf (opAt 0x0702 ([]) ({ opBase with rtc := { timedOut := true } }) ({ role := .service })), by decide +kernel⟩,
   ⟨opAt 0x0702 ([]) ({ rig [(F.RTC_STATUS_FROZEN, 1)] with rtc := { Mod.reset.rtc with shadow := some { cal := ⟨2100, 3, 1, 0, 0, 0⟩, wday := 1, sub := 9, at_ := 0, read := 2 } } }) ({ role := .service }), 1, 5, sessOf (opAt 0x0702 ([]) ({ rig [(F.RTC_STATUS_FROZEN, 1)] with rtc := { Mod.reset.rtc with shadow := some { cal := ⟨2100, 3, 1, 0, 0, 0⟩, wday := 1, sub := 9, at_ := 0, read := 2 } } }) ({ role := .service })), cmdOf (opAt 0x0702 ([]) ({ rig [(F.RTC_STATUS_FROZEN, 1)] with rtc := { Mod.reset.rtc with shadow := some { cal := ⟨2100, 3, 1, 0, 0, 0⟩, wday := 1, sub := 9, at_ := 0, read := 2 } } }) ({ role := .service })), { cal := ⟨2100, 3, 1, 0, 0, 0⟩, wday := 1, sub := 9, at_ := 0, read := 2 }, by decide +kernel⟩,
   ⟨opAt 0x0703 ([0x34, 0x08, 2, 28, 23, 59, 59]) (rig [(F.RTC_STATUS_OSC_STOPPED, 1)]) ({ role := .service }), 1, 5, sessOf (opAt 0x0703 ([0x34, 0x08, 2, 28, 23, 59, 59]) (rig [(F.RTC_STATUS_OSC_STOPPED, 1)]) ({ role := .service })), cmdOf (opAt 0x0703 ([0x34, 0x08, 2, 28, 23, 59, 59]) (rig [(F.RTC_STATUS_OSC_STOPPED, 1)]) ({ role := .service })), by decide +kernel⟩,
   ⟨opAt 0x0703 ([0x34, 0x08, 2, 28, 23, 59, 59]) ({ rig [(F.RTC_STATUS_OSC_STOPPED, 1)] with rtc := { run := false } }) ({ role := .service }), 1, 5, sessOf (opAt 0x0703 ([0x34, 0x08, 2, 28, 23, 59, 59]) ({ rig [(F.RTC_STATUS_OSC_STOPPED, 1)] with rtc := { run := false } }) ({ role := .service })), cmdOf (opAt 0x0703 ([0x34, 0x08, 2, 28, 23, 59, 59]) ({ rig [(F.RTC_STATUS_OSC_STOPPED, 1)] with rtc := { run := false } }) ({ role := .service })), by decide +kernel⟩,
   ⟨opAt 0x0703 ([0x34, 0x08, 2, 29, 0, 0, 0]) (opBase) ({ role := .service }), 1, 5, sessOf (opAt 0x0703 ([0x34, 0x08, 2, 29, 0, 0, 0]) (opBase) ({ role := .service })), cmdOf (opAt 0x0703 ([0x34, 0x08, 2, 29, 0, 0, 0]) (opBase) ({ role := .service })), 3, by decide +kernel⟩⟩

theorem witness_FirmwareTransfersVerifyActivateAndConfirm :
    (∃ (s : State) (h : BitVec 10) (seq : BitVec 32) (x : Sess) (c : Cmd), regsWf s.m.regs = true ∧ Ready s h seq 0x0800 x c ∧ bitAt 12 x.roleBit = true ∧ (par c.params 0 4) ≤ ((if s.m.st = xRecovery then 12582912 else 4194304))) ∧
    (∃ (s : State) (h : BitVec 10) (seq : BitVec 32) (x : Sess) (c : Cmd), regsWf s.m.regs = true ∧ Ready s h seq 0x0800 x c ∧ bitAt 12 x.roleBit = true ∧ ((if s.m.st = xRecovery then 12582912 else 4194304)) < (par c.params 0 4)) ∧
    (∃ (s : State) (h : BitVec 10) (seq : BitVec 32) (x : Sess) (c : Cmd) (y : Xfer), regsWf s.m.regs = true ∧ Ready s h seq 0x0801 x c ∧ bitAt 12 x.roleBit = true ∧ s.m.get F.KEY_FW_STATUS_STAGE = 1 ∧ xferBlock s.m.orpor.upd (par c.params 0 4) (c.params.drop 4) = some y) ∧
    (∃ (s : State) (h : BitVec 10) (seq : BitVec 32) (x : Sess) (c : Cmd), regsWf s.m.regs = true ∧ Ready s h seq 0x0801 x c ∧ bitAt 12 x.roleBit = true ∧ ((s.m.get F.KEY_FW_STATUS_STAGE ≠ 1 ∨ xferBlock s.m.orpor.upd (par c.params 0 4) (c.params.drop 4) = none))) ∧
    (∃ (s : State) (h : BitVec 10) (seq : BitVec 32) (x : Sess) (c : Cmd) (y : Xfer), regsWf s.m.regs = true ∧ Ready s h seq 0x0802 x c ∧ bitAt 12 x.roleBit = true ∧ ((s.m.get F.KEY_FW_STATUS_STAGE = 1 ∧ s.m.orpor.upd = some y ∧ y.gap = none))) ∧
    (∃ (s : State) (h : BitVec 10) (seq : BitVec 32) (x : Sess) (c : Cmd) (y : Xfer) (g : Nat), regsWf s.m.regs = true ∧ Ready s h seq 0x0802 x c ∧ bitAt 12 x.roleBit = true ∧ s.m.get F.KEY_FW_STATUS_STAGE = 1 ∧ s.m.orpor.upd = some y ∧ y.gap = some g) ∧
    (∃ (s : State) (h : BitVec 10) (seq : BitVec 32) (x : Sess) (c : Cmd), regsWf s.m.regs = true ∧ Ready s h seq 0x0802 x c ∧ bitAt 12 x.roleBit = true ∧ ((s.m.get F.KEY_FW_STATUS_STAGE ≠ 1 ∨ s.m.orpor.upd = none))) ∧
    (∃ (s : State) (y : Xfer), regsWf s.m.regs = true ∧ s.m.get F.KEY_FW_STATUS_STAGE = 2 ∧ s.m.orpor.upd = some y) ∧
    (∃ (s : State), regsWf s.m.regs = true ∧ ((s.m.get F.KEY_FW_STATUS_STAGE ≠ 2 ∨ s.m.orpor.upd = none))) ∧
    (∃ (s : State) (h : BitVec 10) (seq : BitVec 32) (x : Sess) (c : Cmd), regsWf s.m.regs = true ∧ Ready s h seq 0x0803 x c ∧ bitAt 12 x.roleBit = true ∧ s.m.get F.KEY_FW_STATUS_STAGE = 4 ∧ ((s.m.get F.TWIN_STATUS_MODE = 0 ∨ s.m.key.peerVerified = true))) ∧
    (∃ (s : State) (h : BitVec 10) (seq : BitVec 32) (x : Sess) (c : Cmd), regsWf s.m.regs = true ∧ Ready s h seq 0x0803 x c ∧ bitAt 12 x.roleBit = true ∧ ((s.m.get F.KEY_FW_STATUS_STAGE ≠ 4 ∨ (s.m.get F.TWIN_STATUS_MODE ≠ 0 ∧ s.m.key.peerVerified = false)))) ∧
    (∃ (s : State), regsWf s.m.regs = true ∧ s.m.key.activating = true ∧ s.m.actDue = true ∧ s.m.pwr.saving = false) ∧
    (∃ (s : State), regsWf s.m.regs = true ∧ s.m.key.activating = false) ∧
    (∃ (s : State), regsWf s.m.regs = true ∧ s.m.key.activating = true ∧ s.m.clk.run = true ∧ s.m.clk.mono < s.m.key.actAt + 2500000) ∧
    (∃ (s : State), regsWf s.m.regs = true ∧ s.m.key.activating = true ∧ s.m.clk.run = true ∧ s.m.get F.TWIN_STATUS_MODE ≠ 0 ∧ s.m.clk.ns % 1000000000 ≠ 0) ∧
    (∃ (s : State) (h : BitVec 10) (seq : BitVec 32) (x : Sess) (c : Cmd), regsWf s.m.regs = true ∧ Ready s h seq 0x0804 x c ∧ bitAt 12 x.roleBit = true) ∧
    (∃ (s : State), regsWf s.m.regs = true ∧ xBit ≤ s.m.st ∧ (s.m.key.banks[s.m.runBank]).confirmed = false ∧ s.m.key.proven = true ∧ s.m.key.bootAt + 60000 ≤ s.m.optime) ∧
    (∃ (s : State), regsWf s.m.regs = true ∧ ((s.m.st < xBit ∨ (s.m.key.banks[s.m.runBank]).confirmed = true ∨ s.m.key.proven = false ∨ s.m.optime < s.m.key.bootAt + 60000))) :=
  ⟨⟨opAt 0x0800 ([0, 0, 64, 0] ++ List.replicate 32 1) (opBase) ({ role := .service }), 1, 5, sessOf (opAt 0x0800 ([0, 0, 64, 0] ++ List.replicate 32 1) (opBase) ({ role := .service })), cmdOf (opAt 0x0800 ([0, 0, 64, 0] ++ List.replicate 32 1) (opBase) ({ role := .service })), by decide +kernel⟩,
   ⟨opAt 0x0800 ([1, 0, 64, 0] ++ List.replicate 32 1) (opBase) ({ role := .service }), 1, 5, sessOf (opAt 0x0800 ([1, 0, 64, 0] ++ List.replicate 32 1) (opBase) ({ role := .service })), cmdOf (opAt 0x0800 ([1, 0, 64, 0] ++ List.replicate 32 1) (opBase) ({ role := .service })), by decide +kernel⟩,
   ⟨opAt 0x0801 ([0, 0, 0, 0, 7, 8]) ({ rig [(F.KEY_FW_STATUS_STAGE, 1)] opBase with orpor := { upd := some { len := 2, digest := [] } } }) ({ role := .service }), 1, 5, sessOf (opAt 0x0801 ([0, 0, 0, 0, 7, 8]) ({ rig [(F.KEY_FW_STATUS_STAGE, 1)] opBase with orpor := { upd := some { len := 2, digest := [] } } }) ({ role := .service })), cmdOf (opAt 0x0801 ([0, 0, 0, 0, 7, 8]) ({ rig [(F.KEY_FW_STATUS_STAGE, 1)] opBase with orpor := { upd := some { len := 2, digest := [] } } }) ({ role := .service })), { len := 2, got := [(0, 7), (1, 8)] }, by decide +kernel⟩,
   ⟨opAt 0x0801 ([9, 0, 0, 0, 7]) (opBase) ({ role := .service }), 1, 5, sessOf (opAt 0x0801 ([9, 0, 0, 0, 7]) (opBase) ({ role := .service })), cmdOf (opAt 0x0801 ([9, 0, 0, 0, 7]) (opBase) ({ role := .service })), by decide +kernel⟩,
   ⟨opAt 0x0802 ([]) ({ rig [(F.KEY_FW_STATUS_STAGE, 1)] opBase with orpor := { upd := some updTwo } }) ({ role := .service }), 1, 5, sessOf (opAt 0x0802 ([]) ({ rig [(F.KEY_FW_STATUS_STAGE, 1)] opBase with orpor := { upd := some updTwo } }) ({ role := .service })), cmdOf (opAt 0x0802 ([]) ({ rig [(F.KEY_FW_STATUS_STAGE, 1)] opBase with orpor := { upd := some updTwo } }) ({ role := .service })), updTwo, by decide +kernel⟩,
   ⟨opAt 0x0802 ([]) ({ rig [(F.KEY_FW_STATUS_STAGE, 1)] opBase with orpor := { upd := some { len := 2, digest := [] } } }) ({ role := .service }), 1, 5, sessOf (opAt 0x0802 ([]) ({ rig [(F.KEY_FW_STATUS_STAGE, 1)] opBase with orpor := { upd := some { len := 2, digest := [] } } }) ({ role := .service })), cmdOf (opAt 0x0802 ([]) ({ rig [(F.KEY_FW_STATUS_STAGE, 1)] opBase with orpor := { upd := some { len := 2, digest := [] } } }) ({ role := .service })), { len := 2, digest := [] }, 0, by decide +kernel⟩,
   ⟨opAt 0x0802 ([]) (opBase) ({ role := .service }), 1, 5, sessOf (opAt 0x0802 ([]) (opBase) ({ role := .service })), cmdOf (opAt 0x0802 ([]) (opBase) ({ role := .service })), by decide +kernel⟩,
   ⟨at_ { rig [(F.KEY_FW_STATUS_STAGE, 2)] opBase with orpor := { upd := some updTwo } }, updTwo, by decide +kernel⟩,
   ⟨at_ Mod.reset, by decide +kernel⟩,
   ⟨opAt 0x0803 ([]) (rig [(F.KEY_FW_STATUS_STAGE, 4)] opBase) ({ role := .service }), 1, 5, sessOf (opAt 0x0803 ([]) (rig [(F.KEY_FW_STATUS_STAGE, 4)] opBase) ({ role := .service })), cmdOf (opAt 0x0803 ([]) (rig [(F.KEY_FW_STATUS_STAGE, 4)] opBase) ({ role := .service })), by decide +kernel⟩,
   ⟨opAt 0x0803 ([]) (rig [(F.KEY_FW_STATUS_STAGE, 4), (F.TWIN_STATUS_MODE, 2)] opBase) ({ role := .service }), 1, 5, sessOf (opAt 0x0803 ([]) (rig [(F.KEY_FW_STATUS_STAGE, 4), (F.TWIN_STATUS_MODE, 2)] opBase) ({ role := .service })), cmdOf (opAt 0x0803 ([]) (rig [(F.KEY_FW_STATUS_STAGE, 4), (F.TWIN_STATUS_MODE, 2)] opBase) ({ role := .service })), by decide +kernel⟩,
   ⟨at_ { lit [2] (rig [(F.PWR_STATUS_VIN_OK, 1)] opBase) with key := { opBase.key with activating := true } }, by decide +kernel⟩,
   ⟨at_ Mod.reset, by decide +kernel⟩,
   ⟨at_ { opBase with key := { opBase.key with activating := true }, clk := { run := true } }, by decide +kernel⟩,
   ⟨at_ { rig [(F.TWIN_STATUS_MODE, 2)] twinMod with key := { opBase.key with activating := true }, clk := { run := true, ns := 5, mono := 5000000 } }, by decide +kernel⟩,
   ⟨opAt 0x0804 ([]) (opBase) ({ role := .service }), 1, 5, sessOf (opAt 0x0804 ([]) (opBase) ({ role := .service })), cmdOf (opAt 0x0804 ([]) (opBase) ({ role := .service })), by decide +kernel⟩,
   ⟨at_ (Mod.ctrAdd { rig [(F.EXEC_STATE_STATE, 5), (F.KEY_FW_STATUS_STAGE, 7)] with key := { opBase.key with proven := true, banks := Vector.replicate 2 { valid := true, attempts := 2 } } } 0 60000), by decide +kernel⟩,
   ⟨at_ Mod.reset, by decide +kernel⟩⟩

theorem witness_KeysAreStagedProvenCommittedAndKept :
    (∃ (s : State) (h : BitVec 10) (seq : BitVec 32) (x : Sess) (c : Cmd), regsWf s.m.regs = true ∧ Ready s h seq 0x0900 x c ∧ bitAt 12 x.roleBit = true ∧ mayReplace x (par c.params 0 1) = true ∧ (s.m.key.slots[(Fin.ofNat 8 (par c.params 0 1) : Fin 8)]).gen ≠ 0xFFFF ∧ keyLenOk (par c.params 0 1) (par c.params 1 1) = true) ∧
    (∃ (s : State) (h : BitVec 10) (seq : BitVec 32) (x : Sess) (c : Cmd), regsWf s.m.regs = true ∧ Ready s h seq 0x0900 x c ∧ bitAt 12 x.roleBit = true ∧ ((mayReplace x (par c.params 0 1) = false ∨ (s.m.key.slots[(Fin.ofNat 8 (par c.params 0 1) : Fin 8)]).gen = 0xFFFF))) ∧
    (∃ (s : State) (h : BitVec 10) (seq : BitVec 32) (x : Sess) (c : Cmd), regsWf s.m.regs = true ∧ Ready s h seq 0x0900 x c ∧ bitAt 12 x.roleBit = true ∧ mayReplace x (par c.params 0 1) = true ∧ (s.m.key.slots[(Fin.ofNat 8 (par c.params 0 1) : Fin 8)]).gen ≠ 0xFFFF ∧ keyLenOk (par c.params 0 1) (par c.params 1 1) = false) ∧
    (∃ (s : State) (h : BitVec 10) (seq : BitVec 32) (x : Sess) (c : Cmd) (g : Staged), regsWf s.m.regs = true ∧ Ready s h seq 0x0901 x c ∧ bitAt 12 x.roleBit = true ∧ s.m.stagedOf (par c.params 0 1) = some g) ∧
    (∃ (s : State) (h : BitVec 10) (seq : BitVec 32) (x : Sess) (c : Cmd), regsWf s.m.regs = true ∧ Ready s h seq 0x0901 x c ∧ bitAt 12 x.roleBit = true ∧ s.m.stagedOf (par c.params 0 1) = none) ∧
    (∃ (s : State) (h : BitVec 10) (seq : BitVec 32) (x : Sess) (c : Cmd) (g : Staged), regsWf s.m.regs = true ∧ Ready s h seq 0x0902 x c ∧ bitAt 12 x.roleBit = true ∧ s.m.stagedOf (par c.params 0 1) = some g ∧ mayReplace x (par c.params 0 1) = true ∧ g.verified = true) ∧
    (∃ (s : State) (h : BitVec 10) (seq : BitVec 32) (x : Sess) (c : Cmd) (g : Staged), regsWf s.m.regs = true ∧ Ready s h seq 0x0902 x c ∧ bitAt 12 x.roleBit = true ∧ s.m.stagedOf (par c.params 0 1) = some g ∧ mayReplace x (par c.params 0 1) = true ∧ g.verified = false) ∧
    (∃ (s : State) (h : BitVec 10) (seq : BitVec 32) (x : Sess) (c : Cmd) (g : Staged), regsWf s.m.regs = true ∧ Ready s h seq 0x0902 x c ∧ bitAt 12 x.roleBit = true ∧ s.m.stagedOf (par c.params 0 1) = some g ∧ mayReplace x (par c.params 0 1) = false) ∧
    (∃ (s : State) (h : BitVec 10) (seq : BitVec 32) (x : Sess) (c : Cmd), regsWf s.m.regs = true ∧ Ready s h seq 0x0902 x c ∧ bitAt 12 x.roleBit = true ∧ s.m.stagedOf (par c.params 0 1) = none) ∧
    (∃ (s : State) (h : BitVec 10) (seq : BitVec 32) (x : Sess) (c : Cmd) (g : Staged), regsWf s.m.regs = true ∧ Ready s h seq 0x0903 x c ∧ bitAt 12 x.roleBit = true ∧ s.m.stagedOf (par c.params 0 1) = some g) ∧
    (∃ (s : State) (h : BitVec 10) (seq : BitVec 32) (x : Sess) (c : Cmd), regsWf s.m.regs = true ∧ Ready s h seq 0x0903 x c ∧ bitAt 12 x.roleBit = true ∧ s.m.stagedOf (par c.params 0 1) = none) ∧
    (∃ (s : State) (h : BitVec 10) (seq : BitVec 32) (x : Sess) (c : Cmd), regsWf s.m.regs = true ∧ Ready s h seq 0x0904 x c ∧ bitAt 12 x.roleBit = true) ∧
    (∃ (s : State), regsWf s.m.regs = true ∧ s.m.isOn (swPd 1) = true ∧ sharesShort s.m = true) ∧
    (∃ (s : State), regsWf s.m.regs = true ∧ s.m.isOn (swPd 1) = false) ∧
    (∃ (s : State) (g : Staged) (slot : Fin 8), regsWf s.m.regs = true ∧ s.m.stagedOf slot.val = some g ∧ g.at_ + 3600000 ≤ s.m.optime) ∧
    (∃ (s : State) (g : Staged) (slot : Fin 8), regsWf s.m.regs = true ∧ s.m.stagedOf slot.val = some g ∧ s.m.optime < g.at_ + 3600000) ∧
    (∃ (s : State) (slot : Fin 8), regsWf s.m.regs = true ∧ s.m.stagedOf slot.val = none) ∧
    (∃ (s : State), regsWf s.m.regs = true ∧ s.m.key.life < 2) ∧
    (∃ (s : State), regsWf s.m.regs = true ∧ s.m.key.life = 2) ∧
    (∃ (s : State), regsWf s.m.regs = true ∧ 3 ≤ s.m.key.life) :=
  ⟨⟨opAt 0x0900 ([1, 16, 0, 0] ++ List.replicate 16 9) (opBase) ({ role := .service }), 1, 5, sessOf (opAt 0x0900 ([1, 16, 0, 0] ++ List.replicate 16 9) (opBase) ({ role := .service })), cmdOf (opAt 0x0900 ([1, 16, 0, 0] ++ List.replicate 16 9) (opBase) ({ role := .service })), by decide +kernel⟩,
   ⟨opAt 0x0900 ([6, 16, 0, 0] ++ List.replicate 16 9) (opBase) ({ role := .service }), 1, 5, sessOf (opAt 0x0900 ([6, 16, 0, 0] ++ List.replicate 16 9) (opBase) ({ role := .service })), cmdOf (opAt 0x0900 ([6, 16, 0, 0] ++ List.replicate 16 9) (opBase) ({ role := .service })), by decide +kernel⟩,
   ⟨opAt 0x0900 ([5, 16, 0, 0] ++ List.replicate 16 9) (opBase) ({ role := .service }), 1, 5, sessOf (opAt 0x0900 ([5, 16, 0, 0] ++ List.replicate 16 9) (opBase) ({ role := .service })), cmdOf (opAt 0x0900 ([5, 16, 0, 0] ++ List.replicate 16 9) (opBase) ({ role := .service })), by decide +kernel⟩,
   ⟨opAt 0x0901 ([1, 0, 0, 0] ++ List.replicate 32 9) (stagedMod) ({ role := .service }), 1, 5, sessOf (opAt 0x0901 ([1, 0, 0, 0] ++ List.replicate 32 9) (stagedMod) ({ role := .service })), cmdOf (opAt 0x0901 ([1, 0, 0, 0] ++ List.replicate 32 9) (stagedMod) ({ role := .service })), stagedOne, by decide +kernel⟩,
   ⟨opAt 0x0901 ([31, 0, 0, 0] ++ List.replicate 32 9) (opBase) ({ role := .service }), 1, 5, sessOf (opAt 0x0901 ([31, 0, 0, 0] ++ List.replicate 32 9) (opBase) ({ role := .service })), cmdOf (opAt 0x0901 ([31, 0, 0, 0] ++ List.replicate 32 9) (opBase) ({ role := .service })), by decide +kernel⟩,
   ⟨opAt 0x0902 ([1]) ({ stagedMod with key := { stagedMod.key with slots := stagedMod.key.slots.set 1 { staged := some { stagedOne with verified := true } } } }) ({ role := .service }), 1, 5, sessOf (opAt 0x0902 ([1]) ({ stagedMod with key := { stagedMod.key with slots := stagedMod.key.slots.set 1 { staged := some { stagedOne with verified := true } } } }) ({ role := .service })), cmdOf (opAt 0x0902 ([1]) ({ stagedMod with key := { stagedMod.key with slots := stagedMod.key.slots.set 1 { staged := some { stagedOne with verified := true } } } }) ({ role := .service })), { stagedOne with verified := true }, by decide +kernel⟩,
   ⟨opAt 0x0902 ([1]) (stagedMod) ({ role := .service }), 1, 5, sessOf (opAt 0x0902 ([1]) (stagedMod) ({ role := .service })), cmdOf (opAt 0x0902 ([1]) (stagedMod) ({ role := .service })), stagedOne, by decide +kernel⟩,
   ⟨opAt 0x0902 ([7]) ({ stagedMod with key := { stagedMod.key with slots := stagedMod.key.slots.set 7 { staged := some stagedOne } } }) ({ role := .service }), 1, 5, sessOf (opAt 0x0902 ([7]) ({ stagedMod with key := { stagedMod.key with slots := stagedMod.key.slots.set 7 { staged := some stagedOne } } }) ({ role := .service })), cmdOf (opAt 0x0902 ([7]) ({ stagedMod with key := { stagedMod.key with slots := stagedMod.key.slots.set 7 { staged := some stagedOne } } }) ({ role := .service })), stagedOne, by decide +kernel⟩,
   ⟨opAt 0x0902 ([1]) (opBase) ({ role := .service }), 1, 5, sessOf (opAt 0x0902 ([1]) (opBase) ({ role := .service })), cmdOf (opAt 0x0902 ([1]) (opBase) ({ role := .service })), by decide +kernel⟩,
   ⟨opAt 0x0903 ([1]) (stagedMod) ({ role := .service }), 1, 5, sessOf (opAt 0x0903 ([1]) (stagedMod) ({ role := .service })), cmdOf (opAt 0x0903 ([1]) (stagedMod) ({ role := .service })), stagedOne, by decide +kernel⟩,
   ⟨opAt 0x0903 ([1]) (opBase) ({ role := .service }), 1, 5, sessOf (opAt 0x0903 ([1]) (opBase) ({ role := .service })), cmdOf (opAt 0x0903 ([1]) (opBase) ({ role := .service })), by decide +kernel⟩,
   ⟨opAt 0x0904 ([]) (opBase) ({ role := .service }), 1, 5, sessOf (opAt 0x0904 ([]) (opBase) ({ role := .service })), cmdOf (opAt 0x0904 ([]) (opBase) ({ role := .service })), by decide +kernel⟩,
   ⟨at_ (lit [1] stagedMod), by decide +kernel⟩,
   ⟨at_ { opBase with sw := Vector.replicate 31 {} }, by decide +kernel⟩,
   ⟨at_ (stagedMod.ctrAdd 0 3600000), stagedOne, 1, by decide +kernel⟩,
   ⟨at_ stagedMod, stagedOne, 1, by decide +kernel⟩,
   ⟨at_ opBase, 1, by decide +kernel⟩,
   ⟨at_ { opBase with key := { opBase.key with life := 1 } }, by decide +kernel⟩,
   ⟨at_ { opBase with key := { opBase.key with life := 2 } }, by decide +kernel⟩,
   ⟨at_ { opBase with key := { opBase.key with life := 3 } }, by decide +kernel⟩⟩

theorem witness_SafetyAndStateCommandsActAsTheirModeAllows :
    (∃ (s : State) (h : BitVec 10) (seq : BitVec 32) (x : Sess) (c : Cmd), regsWf s.m.regs = true ∧ Ready s h seq 0x0A00 x c ∧ bitAt 16 x.roleBit = true ∧ 8 ≤ (par c.params 0 1) ∧ (par c.params 0 1) ≤ 64 ∧ s.m.safe.blocked = false) ∧
    (∃ (s : State) (h : BitVec 10) (seq : BitVec 32) (x : Sess) (c : Cmd), regsWf s.m.regs = true ∧ Ready s h seq 0x0A00 x c ∧ bitAt 16 x.roleBit = true ∧ (((par c.params 0 1) < 8 ∨ 64 < (par c.params 0 1)))) ∧
    (∃ (s : State) (h : BitVec 10) (seq : BitVec 32) (x : Sess) (c : Cmd), regsWf s.m.regs = true ∧ Ready s h seq 0x0A00 x c ∧ bitAt 16 x.roleBit = true ∧ 8 ≤ (par c.params 0 1) ∧ (par c.params 0 1) ≤ 64 ∧ s.m.safe.blocked = true) ∧
    (∃ (s : State) (h : BitVec 10) (seq : BitVec 32) (x : Sess) (c : Cmd), regsWf s.m.regs = true ∧ Ready s h seq 0x0A01 x c ∧ bitAt 16 x.roleBit = true) ∧
    (∃ (s : State) (h : BitVec 10) (seq : BitVec 32) (x : Sess) (c : Cmd), regsWf s.m.regs = true ∧ Ready s h seq 0x0A02 x c ∧ bitAt 16 x.roleBit = true ∧ pwOk ((c.params.drop (2 + par c.params 0 1))) = false) ∧
    (∃ (s : State) (h : BitVec 10) (seq : BitVec 32) (x : Sess) (c : Cmd), regsWf s.m.regs = true ∧ Ready s h seq 0x0A02 x c ∧ bitAt 16 x.roleBit = true ∧ pwOk ((c.params.drop (2 + par c.params 0 1))) = true ∧ (s.m.keyOf 6).isSome = true ∧ s.m.isUnlocked (s.m.sessKey h.toNat) = false) ∧
    (∃ (s : State) (h : BitVec 10) (seq : BitVec 32) (x : Sess) (c : Cmd), regsWf s.m.regs = true ∧ Ready s h seq 0x0A02 x c ∧ bitAt 16 x.roleBit = true ∧ pwOk ((c.params.drop (2 + par c.params 0 1))) = true ∧ s.m.keyOf 6 = none ∧ s.m.logs.changeFull = false) ∧
    (∃ (s : State) (h : BitVec 10) (seq : BitVec 32) (x : Sess) (c : Cmd), regsWf s.m.regs = true ∧ Ready s h seq 0x0A02 x c ∧ bitAt 16 x.roleBit = true ∧ pwOk ((c.params.drop (2 + par c.params 0 1))) = true ∧ (s.m.keyOf 6).isSome = true ∧ s.m.isUnlocked (s.m.sessKey h.toNat) = true ∧ s.m.logs.changeFull = true) ∧
    (∃ (s : State) (h : BitVec 10) (seq : BitVec 32) (x : Sess) (c : Cmd), regsWf s.m.regs = true ∧ Ready s h seq 0x0A02 x c ∧ bitAt 16 x.roleBit = true ∧ pwOk ((c.params.drop (2 + par c.params 0 1))) = true ∧ (s.m.keyOf 6).isSome = true ∧ s.m.isUnlocked (s.m.sessKey h.toNat) = true ∧ s.m.logs.changeFull = false) ∧
    (∃ (s : State) (h : BitVec 10) (seq : BitVec 32) (x : Sess) (c : Cmd), regsWf s.m.regs = true ∧ Ready s h seq 0x0A03 x c ∧ bitAt 8 x.roleBit = true ∧ ((x.transport ≠ 2 ∨ x.viaB = true))) ∧
    (∃ (s : State) (h : BitVec 10) (seq : BitVec 32) (x : Sess) (c : Cmd), regsWf s.m.regs = true ∧ Ready s h seq 0x0A03 x c ∧ bitAt 8 x.roleBit = true ∧ x.transport = 2 ∧ x.viaB = false ∧ s.m.st ≠ xStopped) ∧
    (∃ (s : State) (h : BitVec 10) (seq : BitVec 32) (x : Sess) (c : Cmd), regsWf s.m.regs = true ∧ Ready s h seq 0x0A03 x c ∧ bitAt 8 x.roleBit = true ∧ x.transport = 2 ∧ x.viaB = false ∧ s.m.st = xStopped) ∧
    (∃ (s : State) (h : BitVec 10) (seq : BitVec 32) (x : Sess) (c : Cmd) (on : Bool) (p : Fin 4), regsWf s.m.regs = true ∧ Ready s h seq 0x0A04 x c ∧ bitAt 16 x.roleBit = true ∧ (par c.params 0 1) = p.val ∧ (s.m.safe.latch[p]).isSome = true ∧ on = false) ∧
    (∃ (s : State) (h : BitVec 10) (seq : BitVec 32) (x : Sess) (c : Cmd) (on : Bool) (p : Fin 4), regsWf s.m.regs = true ∧ Ready s h seq 0x0A04 x c ∧ bitAt 16 x.roleBit = true ∧ (par c.params 0 1) = p.val ∧ (s.m.safe.latch[p]).isSome = true ∧ on = true) ∧
    (∃ (s : State) (h : BitVec 10) (seq : BitVec 32) (x : Sess) (c : Cmd) (p : Fin 4), regsWf s.m.regs = true ∧ Ready s h seq 0x0A04 x c ∧ bitAt 16 x.roleBit = true ∧ (par c.params 0 1) = p.val ∧ s.m.safe.latch[p] = none) ∧
    (∃ (s : State) (h : BitVec 10) (seq : BitVec 32) (x : Sess) (c : Cmd), regsWf s.m.regs = true ∧ Ready s h seq 0x0A04 x c ∧ bitAt 16 x.roleBit = true ∧ 4 ≤ (par c.params 0 1)) ∧
    (∃ (s : State) (h : BitVec 10) (seq : BitVec 32) (x : Sess) (c : Cmd) (badA : Bool) (badB : Bool), regsWf s.m.regs = true ∧ Ready s h seq 0x0A05 x c ∧ bitAt 16 x.roleBit = true ∧ (par c.params 0 1) ≤ 11 ∧ s.m.st = xService ∧ badA = false ∧ badB = false) ∧
    (∃ (s : State) (h : BitVec 10) (seq : BitVec 32) (x : Sess) (c : Cmd) (badA : Bool) (badB : Bool) (p : Fin 4), regsWf s.m.regs = true ∧ Ready s h seq 0x0A05 x c ∧ bitAt 16 x.roleBit = true ∧ (par c.params 0 1) = 8 + p.val ∧ s.m.st = xService ∧ (badA || badB) = true ∧ s.m.safe.latch[p] = none) ∧
    (∃ (s : State) (h : BitVec 10) (seq : BitVec 32) (x : Sess) (c : Cmd) (p : Fin 4), regsWf s.m.regs = true ∧ Ready s h seq 0x0A05 x c ∧ bitAt 16 x.roleBit = true ∧ (par c.params 0 1) = 8 + p.val ∧ s.m.st = xService ∧ (s.m.safe.latch[p]).isSome = true) ∧
    (∃ (s : State) (h : BitVec 10) (seq : BitVec 32) (x : Sess) (c : Cmd) (badA : Bool) (badB : Bool), regsWf s.m.regs = true ∧ Ready s h seq 0x0A05 x c ∧ bitAt 16 x.roleBit = true ∧ (par c.params 0 1) ≤ 7 ∧ s.m.st = xService ∧ (badA || badB) = true) ∧
    (∃ (s : State) (h : BitVec 10) (seq : BitVec 32) (x : Sess) (c : Cmd), regsWf s.m.regs = true ∧ Ready s h seq 0x0A05 x c ∧ bitAt 16 x.roleBit = true ∧ (par c.params 0 1) ≤ 11 ∧ s.m.st ≠ xService) ∧
    (∃ (s : State) (h : BitVec 10) (seq : BitVec 32) (x : Sess) (c : Cmd), regsWf s.m.regs = true ∧ Ready s h seq 0x0A05 x c ∧ bitAt 16 x.roleBit = true ∧ 11 < (par c.params 0 1)) ∧
    (∃ (s : State) (h : BitVec 10) (seq : BitVec 32) (x : Sess) (c : Cmd), regsWf s.m.regs = true ∧ Ready s h seq 0x0A06 x c ∧ bitAt 24 x.roleBit = true) ∧
    (∃ (s : State) (h : BitVec 10) (seq : BitVec 32) (x : Sess) (c : Cmd), regsWf s.m.regs = true ∧ Ready s h seq 0x0B00 x c ∧ bitAt 12 x.roleBit = true ∧ s.m.st = xRun ∧ s.m.notHolder = false) ∧
    (∃ (s : State) (h : BitVec 10) (seq : BitVec 32) (x : Sess) (c : Cmd), regsWf s.m.regs = true ∧ Ready s h seq 0x0B00 x c ∧ bitAt 12 x.roleBit = true ∧ ((s.m.st ≠ xRun ∨ s.m.notHolder = true))) ∧
    (∃ (s : State) (h : BitVec 10) (seq : BitVec 32) (x : Sess) (c : Cmd), regsWf s.m.regs = true ∧ Ready s h seq 0x0B01 x c ∧ bitAt 12 x.roleBit = true ∧ ((s.m.st = xRun ∨ s.m.st = xStopped ∨ s.m.st = xBit)) ∧ s.m.notHolder = false ∧ (par c.params 0 1) ≤ 2 ∧ s.m.pwr.tcxoBad = true) ∧
    (∃ (s : State) (h : BitVec 10) (seq : BitVec 32) (x : Sess) (c : Cmd) (pl : Plan), regsWf s.m.regs = true ∧ Ready s h seq 0x0B01 x c ∧ bitAt 12 x.roleBit = true ∧ ((s.m.st = xRun ∨ s.m.st = xStopped ∨ s.m.st = xBit)) ∧ s.m.notHolder = false ∧ s.m.pwr.tcxoBad = false ∧ (par c.params 0 1) ≤ 2 ∧ ((if (par c.params 0 1) = 2 then s.m.policy 4 else (par c.params 0 1))) < 2 ∧ s.m.plan.active = some pl ∧ imageOk pl = true) ∧
    (∃ (s : State) (h : BitVec 10) (seq : BitVec 32) (x : Sess) (c : Cmd), regsWf s.m.regs = true ∧ Ready s h seq 0x0B01 x c ∧ bitAt 12 x.roleBit = true ∧ ((s.m.st = xRun ∨ s.m.st = xStopped ∨ s.m.st = xBit)) ∧ s.m.notHolder = false ∧ s.m.pwr.tcxoBad = false ∧ (par c.params 0 1) ≤ 2 ∧ ((if (par c.params 0 1) = 2 then s.m.policy 4 else (par c.params 0 1))) < 2 ∧ s.m.plan.active = none) ∧
    (∃ (s : State) (h : BitVec 10) (seq : BitVec 32) (x : Sess) (c : Cmd), regsWf s.m.regs = true ∧ Ready s h seq 0x0B01 x c ∧ bitAt 12 x.roleBit = true ∧ ((s.m.st = xRun ∨ s.m.st = xStopped ∨ s.m.st = xBit)) ∧ s.m.notHolder = false ∧ s.m.pwr.tcxoBad = false ∧ (par c.params 0 1) ≤ 2 ∧ ((if (par c.params 0 1) = 2 then s.m.policy 4 else (par c.params 0 1))) = 2) ∧
    (∃ (s : State) (h : BitVec 10) (seq : BitVec 32) (x : Sess) (c : Cmd), regsWf s.m.regs = true ∧ Ready s h seq 0x0B01 x c ∧ bitAt 12 x.roleBit = true ∧ ((s.m.st = xRun ∨ s.m.st = xStopped ∨ s.m.st = xBit)) ∧ s.m.notHolder = false ∧ 2 < (par c.params 0 1)) ∧
    (∃ (s : State) (h : BitVec 10) (seq : BitVec 32) (x : Sess) (c : Cmd), regsWf s.m.regs = true ∧ Ready s h seq 0x0B01 x c ∧ bitAt 12 x.roleBit = true ∧ (((s.m.st ≠ xRun ∧ s.m.st ≠ xStopped ∧ s.m.st ≠ xBit) ∨ s.m.notHolder = true))) ∧
    (∃ (s : State) (h : BitVec 10) (seq : BitVec 32) (x : Sess) (c : Cmd), regsWf s.m.regs = true ∧ Ready s h seq 0x0B02 x c ∧ bitAt 12 x.roleBit = true ∧ s.m.st = xStopped) ∧
    (∃ (s : State) (h : BitVec 10) (seq : BitVec 32) (x : Sess) (c : Cmd), regsWf s.m.regs = true ∧ Ready s h seq 0x0B02 x c ∧ bitAt 12 x.roleBit = true ∧ s.m.st ≠ xStopped) ∧
    (∃ (s : State) (h : BitVec 10) (seq : BitVec 32) (x : Sess) (c : Cmd), regsWf s.m.regs = true ∧ Ready s h seq 0x0B03 x c ∧ bitAt 8 x.roleBit = true ∧ s.m.st = xStopped) ∧
    (∃ (s : State) (h : BitVec 10) (seq : BitVec 32) (x : Sess) (c : Cmd), regsWf s.m.regs = true ∧ Ready s h seq 0x0B03 x c ∧ bitAt 8 x.roleBit = true ∧ s.m.st ≠ xStopped) ∧
    (∃ (s : State) (h : BitVec 10) (seq : BitVec 32) (x : Sess) (c : Cmd), regsWf s.m.regs = true ∧ Ready s h seq 0x0B04 x c ∧ bitAt 8 x.roleBit = true ∧ s.m.st = xService) ∧
    (∃ (s : State) (h : BitVec 10) (seq : BitVec 32) (x : Sess) (c : Cmd), regsWf s.m.regs = true ∧ Ready s h seq 0x0B04 x c ∧ bitAt 8 x.roleBit = true ∧ s.m.st ≠ xService) ∧
    (∃ (s : State) (h : BitVec 10) (seq : BitVec 32) (x : Sess) (c : Cmd), regsWf s.m.regs = true ∧ Ready s h seq 0x0B05 x c) ∧
    (∃ (s : State) (h : BitVec 10) (seq : BitVec 32) (x : Sess) (c : Cmd), regsWf s.m.regs = true ∧ Ready s h seq 0x0B06 x c ∧ bitAt 12 x.roleBit = true) :=
  ⟨⟨opAt 0x0A00 (8 :: List.replicate 8 0x61) ({ opBase with safe := { opBase.safe with fails := 4 } }) ({ role := .safety }), 1, 5, sessOf (opAt 0x0A00 (8 :: List.replicate 8 0x61) ({ opBase with safe := { opBase.safe with fails := 4 } }) ({ role := .safety })), cmdOf (opAt 0x0A00 (8 :: List.replicate 8 0x61) ({ opBase with safe := { opBase.safe with fails := 4 } }) ({ role := .safety })), by decide +kernel⟩,
   ⟨opAt 0x0A00 (7 :: List.replicate 7 0x61) (opBase) ({ role := .safety }), 1, 5, sessOf (opAt 0x0A00 (7 :: List.replicate 7 0x61) (opBase) ({ role := .safety })), cmdOf (opAt 0x0A00 (7 :: List.replicate 7 0x61) (opBase) ({ role := .safety })), by decide +kernel⟩,
   ⟨opAt 0x0A00 (8 :: List.replicate 8 0x61) ({ opBase with safe := { opBase.safe with blocked := true, blockUntil := 9000 } }) ({ role := .safety }), 1, 5, sessOf (opAt 0x0A00 (8 :: List.replicate 8 0x61) ({ opBase with safe := { opBase.safe with blocked := true, blockUntil := 9000 } }) ({ role := .safety })), cmdOf (opAt 0x0A00 (8 :: List.replicate 8 0x61) ({ opBase with safe := { opBase.safe with blocked := true, blockUntil := 9000 } }) ({ role := .safety })), by decide +kernel⟩,
   ⟨opAt 0x0A01 ([]) (opBase) ({ role := .safety, unlocked := true }), 1, 5, sessOf (opAt 0x0A01 ([]) (opBase) ({ role := .safety, unlocked := true })), cmdOf (opAt 0x0A01 ([]) (opBase) ({ role := .safety, unlocked := true })), by decide +kernel⟩,
   ⟨opAt 0x0A02 ([0, 3, 0x61, 0x62, 0x63]) (opBase) ({ role := .safety }), 1, 5, sessOf (opAt 0x0A02 ([0, 3, 0x61, 0x62, 0x63]) (opBase) ({ role := .safety })), cmdOf (opAt 0x0A02 ([0, 3, 0x61, 0x62, 0x63]) (opBase) ({ role := .safety })), by decide +kernel⟩,
   ⟨opAt 0x0A02 ([0, 8] ++ List.replicate 8 0x61) ({ opBase with key := { opBase.key with slots := opBase.key.slots.set 6 { key := some ([], []) } } }) ({ role := .safety }), 1, 5, sessOf (opAt 0x0A02 ([0, 8] ++ List.replicate 8 0x61) ({ opBase with key := { opBase.key with slots := opBase.key.slots.set 6 { key := some ([], []) } } }) ({ role := .safety })), cmdOf (opAt 0x0A02 ([0, 8] ++ List.replicate 8 0x61) ({ opBase with key := { opBase.key with slots := opBase.key.slots.set 6 { key := some ([], []) } } }) ({ role := .safety })), by decide +kernel⟩,
   ⟨opAt 0x0A02 ([0, 8] ++ List.replicate 8 0x61) (opBase) ({ role := .safety }), 1, 5, sessOf (opAt 0x0A02 ([0, 8] ++ List.replicate 8 0x61) (opBase) ({ role := .safety })), cmdOf (opAt 0x0A02 ([0, 8] ++ List.replicate 8 0x61) (opBase) ({ role := .safety })), by decide +kernel⟩,
   ⟨opAt 0x0A02 ([0, 8] ++ List.replicate 8 0x61) (fullLog { opBase with key := { opBase.key with slots := opBase.key.slots.set 6 { key := some ([], []) } } }) ({ role := .safety, unlocked := true }), 1, 5, sessOf (opAt 0x0A02 ([0, 8] ++ List.replicate 8 0x61) (fullLog { opBase with key := { opBase.key with slots := opBase.key.slots.set 6 { key := some ([], []) } } }) ({ role := .safety, unlocked := true })), cmdOf (opAt 0x0A02 ([0, 8] ++ List.replicate 8 0x61) (fullLog { opBase with key := { opBase.key with slots := opBase.key.slots.set 6 { key := some ([], []) } } }) ({ role := .safety, unlocked := true })), by decide +kernel⟩,
   ⟨opAt 0x0A02 ([0, 8] ++ List.replicate 8 0x61) ({ opBase with key := { opBase.key with slots := opBase.key.slots.set 6 { key := some ([], []) } } }) ({ role := .safety, unlocked := true }), 1, 5, sessOf (opAt 0x0A02 ([0, 8] ++ List.replicate 8 0x61) ({ opBase with key := { opBase.key with slots := opBase.key.slots.set 6 { key := some ([], []) } } }) ({ role := .safety, unlocked := true })), cmdOf (opAt 0x0A02 ([0, 8] ++ List.replicate 8 0x61) ({ opBase with key := { opBase.key with slots := opBase.key.slots.set 6 { key := some ([], []) } } }) ({ role := .safety, unlocked := true })), by decide +kernel⟩,
   ⟨opAt 0x0A03 ([]) (opBase) ({ role := .service, transport := 1 }), 1, 5, sessOf (opAt 0x0A03 ([]) (opBase) ({ role := .service, transport := 1 })), cmdOf (opAt 0x0A03 ([]) (opBase) ({ role := .service, transport := 1 })), by decide +kernel⟩,
   ⟨opAt 0x0A03 ([]) (opBase) ({ role := .service, transport := 2 }), 1, 5, sessOf (opAt 0x0A03 ([]) (opBase) ({ role := .service, transport := 2 })), cmdOf (opAt 0x0A03 ([]) (opBase) ({ role := .service, transport := 2 })), by decide +kernel⟩,
   ⟨opAt 0x0A03 ([]) (rig [(F.EXEC_STATE_STATE, 6)]) ({ role := .service, transport := 2 }), 1, 5, sessOf (opAt 0x0A03 ([]) (rig [(F.EXEC_STATE_STATE, 6)]) ({ role := .service, transport := 2 })), cmdOf (opAt 0x0A03 ([]) (rig [(F.EXEC_STATE_STATE, 6)]) ({ role := .service, transport := 2 })), by decide +kernel⟩,
   ⟨opAt 0x0A04 ([3]) ({ rig [(F.SAFE_SO_STATUS_FAULT 3, 1), (F.SAFE_STATUS_SO_FAULT, 1), (F.SAFE_SO_STATUS_CAUSE 3, 2)] opBase with safe := { opBase.safe with latch := opBase.safe.latch.set 3 (some (2, false)) }, outs := (opBase.outs.set 38 { req := 16, launched := some .on }).set 39 { req := 16 } }) ({ role := .safety }), 1, 5, sessOf (opAt 0x0A04 ([3]) ({ rig [(F.SAFE_SO_STATUS_FAULT 3, 1), (F.SAFE_STATUS_SO_FAULT, 1), (F.SAFE_SO_STATUS_CAUSE 3, 2)] opBase with safe := { opBase.safe with latch := opBase.safe.latch.set 3 (some (2, false)) }, outs := (opBase.outs.set 38 { req := 16, launched := some .on }).set 39 { req := 16 } }) ({ role := .safety })), cmdOf (opAt 0x0A04 ([3]) ({ rig [(F.SAFE_SO_STATUS_FAULT 3, 1), (F.SAFE_STATUS_SO_FAULT, 1), (F.SAFE_SO_STATUS_CAUSE 3, 2)] opBase with safe := { opBase.safe with latch := opBase.safe.latch.set 3 (some (2, false)) }, outs := (opBase.outs.set 38 { req := 16, launched := some .on }).set 39 { req := 16 } }) ({ role := .safety })), false, 3, by decide +kernel⟩,
   ⟨opAt 0x0A04 ([3]) ({ opBase with safe := { opBase.safe with latch := opBase.safe.latch.set 3 (some (2, false)) } }) ({ role := .safety }), 1, 5, sessOf (opAt 0x0A04 ([3]) ({ opBase with safe := { opBase.safe with latch := opBase.safe.latch.set 3 (some (2, false)) } }) ({ role := .safety })), cmdOf (opAt 0x0A04 ([3]) ({ opBase with safe := { opBase.safe with latch := opBase.safe.latch.set 3 (some (2, false)) } }) ({ role := .safety })), true, 3, by decide +kernel⟩,
   ⟨opAt 0x0A04 ([3]) (opBase) ({ role := .safety }), 1, 5, sessOf (opAt 0x0A04 ([3]) (opBase) ({ role := .safety })), cmdOf (opAt 0x0A04 ([3]) (opBase) ({ role := .safety })), 3, by decide +kernel⟩,
   ⟨opAt 0x0A04 ([4]) (opBase) ({ role := .safety }), 1, 5, sessOf (opAt 0x0A04 ([4]) (opBase) ({ role := .safety })), cmdOf (opAt 0x0A04 ([4]) (opBase) ({ role := .safety })), by decide +kernel⟩,
   ⟨opAt 0x0A05 ([11]) (rig [(F.EXEC_STATE_STATE, 8)]) ({ role := .safety }), 1, 5, sessOf (opAt 0x0A05 ([11]) (rig [(F.EXEC_STATE_STATE, 8)]) ({ role := .safety })), cmdOf (opAt 0x0A05 ([11]) (rig [(F.EXEC_STATE_STATE, 8)]) ({ role := .safety })), false, false, by decide +kernel⟩,
   ⟨opAt 0x0A05 ([11]) (rig [(F.EXEC_STATE_STATE, 8)]) ({ role := .safety }), 1, 5, sessOf (opAt 0x0A05 ([11]) (rig [(F.EXEC_STATE_STATE, 8)]) ({ role := .safety })), cmdOf (opAt 0x0A05 ([11]) (rig [(F.EXEC_STATE_STATE, 8)]) ({ role := .safety })), false, true, 3, by decide +kernel⟩,
   ⟨opAt 0x0A05 ([11]) ({ rig [(F.EXEC_STATE_STATE, 8)] with safe := { latch := Mod.reset.safe.latch.set 3 (some (2, false)) } }) ({ role := .safety }), 1, 5, sessOf (opAt 0x0A05 ([11]) ({ rig [(F.EXEC_STATE_STATE, 8)] with safe := { latch := Mod.reset.safe.latch.set 3 (some (2, false)) } }) ({ role := .safety })), cmdOf (opAt 0x0A05 ([11]) ({ rig [(F.EXEC_STATE_STATE, 8)] with safe := { latch := Mod.reset.safe.latch.set 3 (some (2, false)) } }) ({ role := .safety })), 3, by decide +kernel⟩,
   ⟨opAt 0x0A05 ([7]) (rig [(F.EXEC_STATE_STATE, 8)]) ({ role := .safety }), 1, 5, sessOf (opAt 0x0A05 ([7]) (rig [(F.EXEC_STATE_STATE, 8)]) ({ role := .safety })), cmdOf (opAt 0x0A05 ([7]) (rig [(F.EXEC_STATE_STATE, 8)]) ({ role := .safety })), false, true, by decide +kernel⟩,
   ⟨opAt 0x0A05 ([11]) (opBase) ({ role := .safety }), 1, 5, sessOf (opAt 0x0A05 ([11]) (opBase) ({ role := .safety })), cmdOf (opAt 0x0A05 ([11]) (opBase) ({ role := .safety })), by decide +kernel⟩,
   ⟨opAt 0x0A05 ([12]) (opBase) ({ role := .safety }), 1, 5, sessOf (opAt 0x0A05 ([12]) (opBase) ({ role := .safety })), cmdOf (opAt 0x0A05 ([12]) (opBase) ({ role := .safety })), by decide +kernel⟩,
   ⟨opAt 0x0A06 ([9, 0, 0, 0]) (opBase) ({ role := .safety }), 1, 5, sessOf (opAt 0x0A06 ([9, 0, 0, 0]) (opBase) ({ role := .safety })), cmdOf (opAt 0x0A06 ([9, 0, 0, 0]) (opBase) ({ role := .safety })), by decide +kernel⟩,
   ⟨opAt 0x0B00 ([]) ({ opBase with outs := opBase.outs.set 0 { launched := some .on } }) ({ role := .service }), 1, 5, sessOf (opAt 0x0B00 ([]) ({ opBase with outs := opBase.outs.set 0 { launched := some .on } }) ({ role := .service })), cmdOf (opAt 0x0B00 ([]) ({ opBase with outs := opBase.outs.set 0 { launched := some .on } }) ({ role := .service })), by decide +kernel⟩,
   ⟨opAt 0x0B00 ([]) (rig [(F.EXEC_STATE_STATE, 6)]) ({ role := .service }), 1, 5, sessOf (opAt 0x0B00 ([]) (rig [(F.EXEC_STATE_STATE, 6)]) ({ role := .service })), cmdOf (opAt 0x0B00 ([]) (rig [(F.EXEC_STATE_STATE, 6)]) ({ role := .service })), by decide +kernel⟩,
   ⟨opAt 0x0B01 ([2]) ({ opBase with pwr := { opBase.pwr with tcxoBad := true } }) ({ role := .service }), 1, 5, sessOf (opAt 0x0B01 ([2]) ({ opBase with pwr := { opBase.pwr with tcxoBad := true } }) ({ role := .service })), cmdOf (opAt 0x0B01 ([2]) ({ opBase with pwr := { opBase.pwr with tcxoBad := true } }) ({ role := .service })), by decide +kernel⟩,
   ⟨opAt 0x0B01 ([1]) ({ opBase with plan := { active := some onePlan } }) ({ role := .service }), 1, 5, sessOf (opAt 0x0B01 ([1]) ({ opBase with plan := { active := some onePlan } }) ({ role := .service })), cmdOf (opAt 0x0B01 ([1]) ({ opBase with plan := { active := some onePlan } }) ({ role := .service })), onePlan, by decide +kernel⟩,
   ⟨opAt 0x0B01 ([1]) (opBase) ({ role := .service }), 1, 5, sessOf (opAt 0x0B01 ([1]) (opBase) ({ role := .service })), cmdOf (opAt 0x0B01 ([1]) (opBase) ({ role := .service })), by decide +kernel⟩,
   ⟨opAt 0x0B01 ([2]) (rig [(⟨R.EXEC_POLICY, 8, 2⟩, 2)] opBase) ({ role := .service }), 1, 5, sessOf (opAt 0x0B01 ([2]) (rig [(⟨R.EXEC_POLICY, 8, 2⟩, 2)] opBase) ({ role := .service })), cmdOf (opAt 0x0B01 ([2]) (rig [(⟨R.EXEC_POLICY, 8, 2⟩, 2)] opBase) ({ role := .service })), by decide +kernel⟩,
   ⟨opAt 0x0B01 ([3]) (opBase) ({ role := .service }), 1, 5, sessOf (opAt 0x0B01 ([3]) (opBase) ({ role := .service })), cmdOf (opAt 0x0B01 ([3]) (opBase) ({ role := .service })), by decide +kernel⟩,
   ⟨opAt 0x0B01 ([1]) (rig [(F.EXEC_STATE_STATE, 8)]) ({ role := .service }), 1, 5, sessOf (opAt 0x0B01 ([1]) (rig [(F.EXEC_STATE_STATE, 8)]) ({ role := .service })), cmdOf (opAt 0x0B01 ([1]) (rig [(F.EXEC_STATE_STATE, 8)]) ({ role := .service })), by decide +kernel⟩,
   ⟨opAt 0x0B02 ([]) (rig [(F.EXEC_STATE_STATE, 6)]) ({ role := .service }), 1, 5, sessOf (opAt 0x0B02 ([]) (rig [(F.EXEC_STATE_STATE, 6)]) ({ role := .service })), cmdOf (opAt 0x0B02 ([]) (rig [(F.EXEC_STATE_STATE, 6)]) ({ role := .service })), by decide +kernel⟩,
   ⟨opAt 0x0B02 ([]) (opBase) ({ role := .service }), 1, 5, sessOf (opAt 0x0B02 ([]) (opBase) ({ role := .service })), cmdOf (opAt 0x0B02 ([]) (opBase) ({ role := .service })), by decide +kernel⟩,
   ⟨opAt 0x0B03 ([]) (rig [(F.EXEC_STATE_STATE, 6)]) ({ role := .service }), 1, 5, sessOf (opAt 0x0B03 ([]) (rig [(F.EXEC_STATE_STATE, 6)]) ({ role := .service })), cmdOf (opAt 0x0B03 ([]) (rig [(F.EXEC_STATE_STATE, 6)]) ({ role := .service })), by decide +kernel⟩,
   ⟨opAt 0x0B03 ([]) (opBase) ({ role := .service }), 1, 5, sessOf (opAt 0x0B03 ([]) (opBase) ({ role := .service })), cmdOf (opAt 0x0B03 ([]) (opBase) ({ role := .service })), by decide +kernel⟩,
   ⟨opAt 0x0B04 ([]) ({ rig [(F.EXEC_STATE_STATE, 8)] with outs := Mod.reset.outs.set 47 { test := some .on } }) ({ role := .service }), 1, 5, sessOf (opAt 0x0B04 ([]) ({ rig [(F.EXEC_STATE_STATE, 8)] with outs := Mod.reset.outs.set 47 { test := some .on } }) ({ role := .service })), cmdOf (opAt 0x0B04 ([]) ({ rig [(F.EXEC_STATE_STATE, 8)] with outs := Mod.reset.outs.set 47 { test := some .on } }) ({ role := .service })), by decide +kernel⟩,
   ⟨opAt 0x0B04 ([]) (opBase) ({ role := .service }), 1, 5, sessOf (opAt 0x0B04 ([]) (opBase) ({ role := .service })), cmdOf (opAt 0x0B04 ([]) (opBase) ({ role := .service })), by decide +kernel⟩,
   ⟨opAt 0x0B05 ([]) (opBase) ({ role := .safety }), 1, 5, sessOf (opAt 0x0B05 ([]) (opBase) ({ role := .safety })), cmdOf (opAt 0x0B05 ([]) (opBase) ({ role := .safety })), by decide +kernel⟩,
   ⟨opAt 0x0B06 ([]) (opBase) ({ role := .service }), 1, 5, sessOf (opAt 0x0B06 ([]) (opBase) ({ role := .service })), cmdOf (opAt 0x0B06 ([]) (opBase) ({ role := .service })), by decide +kernel⟩⟩

theorem witness_PairBusAndDiagnosticCommandsAnswerAndAct :
    (∃ (s : State) (h : BitVec 10) (seq : BitVec 32) (x : Sess) (c : Cmd), regsWf s.m.regs = true ∧ Ready s h seq 0x0C00 x c ∧ bitAt 12 x.roleBit = true) ∧
    (∃ (s : State) (h : BitVec 10) (seq : BitVec 32) (x : Sess) (c : Cmd), regsWf s.m.regs = true ∧ Ready s h seq 0x0C01 x c ∧ bitAt 12 x.roleBit = true ∧ s.m.get F.TWIN_STATUS_MODE = 2 ∧ s.m.flag F.TWIN_STATUS_HOLDS_BAR = true ∧ s.m.twin.peerReady = true) ∧
    (∃ (s : State) (h : BitVec 10) (seq : BitVec 32) (x : Sess) (c : Cmd), regsWf s.m.regs = true ∧ Ready s h seq 0x0C01 x c ∧ bitAt 12 x.roleBit = true ∧ s.m.get F.TWIN_STATUS_MODE = 2 ∧ ((s.m.flag F.TWIN_STATUS_HOLDS_BAR = false ∨ s.m.twin.peerReady = false))) ∧
    (∃ (s : State) (h : BitVec 10) (seq : BitVec 32) (x : Sess) (c : Cmd), regsWf s.m.regs = true ∧ Ready s h seq 0x0C01 x c ∧ bitAt 12 x.roleBit = true ∧ s.m.get F.TWIN_STATUS_MODE ≠ 2) ∧
    (∃ (s : State) (h : BitVec 10) (seq : BitVec 32) (x : Sess) (c : Cmd), regsWf s.m.regs = true ∧ Ready s h seq 0x0D00 x c ∧ bitAt 12 x.roleBit = true ∧ (((par c.params 0 1 < 19 ∧ s.m.get (F.FBUS_CFG_PASS (par c.params 0 1)) ≠ 0) ∨ (32 ≤ par c.params 0 1 ∧ par c.params 0 1 < 40))) ∧ par c.params 8 2 ≤ 1024) ∧
    (∃ (s : State) (h : BitVec 10) (seq : BitVec 32) (x : Sess) (c : Cmd), regsWf s.m.regs = true ∧ Ready s h seq 0x0D00 x c ∧ bitAt 12 x.roleBit = true ∧ (par c.params 0 1) < 19 ∧ s.m.get (F.FBUS_CFG_PASS (par c.params 0 1)) = 0 ∧ par c.params 8 2 ≤ 1024) ∧
    (∃ (s : State) (h : BitVec 10) (seq : BitVec 32) (x : Sess) (c : Cmd), regsWf s.m.regs = true ∧ Ready s h seq 0x0D00 x c ∧ bitAt 12 x.roleBit = true ∧ (((19 ≤ (par c.params 0 1) ∧ (par c.params 0 1) < 32) ∨ 40 ≤ (par c.params 0 1)))) ∧
    (∃ (s : State) (h : BitVec 10) (seq : BitVec 32) (x : Sess) (c : Cmd), regsWf s.m.regs = true ∧ Ready s h seq 0x0D00 x c ∧ bitAt 12 x.roleBit = true ∧ (((par c.params 0 1) < 19 ∨ (32 ≤ (par c.params 0 1) ∧ (par c.params 0 1) < 40))) ∧ 1024 < par c.params 8 2) ∧
    (∃ (s : State) (h : BitVec 10) (seq : BitVec 32) (x : Sess) (c : Cmd), regsWf s.m.regs = true ∧ Ready s h seq 0x0D01 x c ∧ bitAt 12 x.roleBit = true ∧ (((s.m.ports.pass.filter (fun e => e.handle % 65536 == par c.params 0 2 && e.session == s.m.sessKey h.toNat)).getLast?)) = none) ∧
    (∃ (s : State) (h : BitVec 10) (seq : BitVec 32) (x : Sess) (c : Cmd) (d : List Byte) (y : PassX), regsWf s.m.regs = true ∧ Ready s h seq 0x0D01 x c ∧ bitAt 12 x.roleBit = true ∧ (((s.m.ports.pass.filter (fun e => e.handle % 65536 == par c.params 0 2 && e.session == s.m.sessKey h.toNat)).getLast?)) = some y ∧ passExpired s.m.optime s.m.ports.pass y = false ∧ y.result = some (some d)) ∧
    (∃ (s : State) (h : BitVec 10) (seq : BitVec 32) (x : Sess) (c : Cmd) (y : PassX), regsWf s.m.regs = true ∧ Ready s h seq 0x0D01 x c ∧ bitAt 12 x.roleBit = true ∧ (((s.m.ports.pass.filter (fun e => e.handle % 65536 == par c.params 0 2 && e.session == s.m.sessKey h.toNat)).getLast?)) = some y ∧ passExpired s.m.optime s.m.ports.pass y = false ∧ y.result = some none) ∧
    (∃ (s : State) (h : BitVec 10) (seq : BitVec 32) (x : Sess) (c : Cmd) (y : PassX), regsWf s.m.regs = true ∧ Ready s h seq 0x0D01 x c ∧ bitAt 12 x.roleBit = true ∧ (((s.m.ports.pass.filter (fun e => e.handle % 65536 == par c.params 0 2 && e.session == s.m.sessKey h.toNat)).getLast?)) = some y ∧ passExpired s.m.optime s.m.ports.pass y = false ∧ y.result = none) ∧
    (∃ (s : State) (h : BitVec 10) (seq : BitVec 32) (x : Sess) (c : Cmd) (y : PassX), regsWf s.m.regs = true ∧ Ready s h seq 0x0D01 x c ∧ bitAt 12 x.roleBit = true ∧ (((s.m.ports.pass.filter (fun e => e.handle % 65536 == par c.params 0 2 && e.session == s.m.sessKey h.toNat)).getLast?)) = some y ∧ passExpired s.m.optime s.m.ports.pass y = true) ∧
    (∃ (s : State) (h : BitVec 10) (seq : BitVec 32) (x : Sess) (c : Cmd) (l : List (List Byte)), regsWf s.m.regs = true ∧ Ready s h seq 0x0D02 x c ∧ bitAt 12 x.roleBit = true ∧ s.m.stream (par c.params 0 1) = some l ∧ par c.params 2 2 ≤ 1024) ∧
    (∃ (s : State) (h : BitVec 10) (seq : BitVec 32) (x : Sess) (c : Cmd) (l : List (List Byte)), regsWf s.m.regs = true ∧ Ready s h seq 0x0D02 x c ∧ bitAt 12 x.roleBit = true ∧ s.m.stream (par c.params 0 1) = some l ∧ 1024 < par c.params 2 2) ∧
    (∃ (s : State) (h : BitVec 10) (seq : BitVec 32) (x : Sess) (c : Cmd), regsWf s.m.regs = true ∧ Ready s h seq 0x0D02 x c ∧ bitAt 12 x.roleBit = true ∧ s.m.stream (par c.params 0 1) = none) ∧
    (∃ (s : State) (h : BitVec 10) (seq : BitVec 32) (x : Sess) (c : Cmd) (o : Fin 48), regsWf s.m.regs = true ∧ Ready s h seq 0x0E00 x c ∧ bitAt 8 x.roleBit = true ∧ diagOut (par c.params 0 1) = some o ∧ s.m.serves (s.m.sessKey h.toNat) = true ∧ ((s.m.peerHolds = false ∨ 40 ≤ o.val)) ∧ ((o.val < 24 → (par c.params 4 4) ≤ 1)) ∧ ((24 ≤ o.val → o.val < 32 → s.m.get (F.FIO_AO_CFG_MODE (o.val - 24)) ≠ 0))) ∧
    (∃ (s : State) (h : BitVec 10) (seq : BitVec 32) (x : Sess) (c : Cmd), regsWf s.m.regs = true ∧ Ready s h seq 0x0E00 x c ∧ bitAt 8 x.roleBit = true ∧ diagOut (par c.params 0 1) = none) ∧
    (∃ (s : State) (h : BitVec 10) (seq : BitVec 32) (x : Sess) (c : Cmd) (o : Fin 48), regsWf s.m.regs = true ∧ Ready s h seq 0x0E00 x c ∧ bitAt 8 x.roleBit = true ∧ diagOut (par c.params 0 1) = some o ∧ ((s.m.serves (s.m.sessKey h.toNat) = false ∨ (s.m.peerHolds = true ∧ o.val < 32)))) ∧
    (∃ (s : State) (h : BitVec 10) (seq : BitVec 32) (x : Sess) (c : Cmd) (o : Fin 48), regsWf s.m.regs = true ∧ Ready s h seq 0x0E00 x c ∧ bitAt 8 x.roleBit = true ∧ diagOut (par c.params 0 1) = some o ∧ s.m.serves (s.m.sessKey h.toNat) = true ∧ s.m.peerHolds = false ∧ o.val < 24 ∧ 1 < (par c.params 4 4)) ∧
    (∃ (s : State) (h : BitVec 10) (seq : BitVec 32) (x : Sess) (c : Cmd) (o : Fin 48), regsWf s.m.regs = true ∧ Ready s h seq 0x0E00 x c ∧ bitAt 8 x.roleBit = true ∧ diagOut (par c.params 0 1) = some o ∧ s.m.serves (s.m.sessKey h.toNat) = true ∧ s.m.peerHolds = false ∧ 24 ≤ o.val ∧ o.val < 32 ∧ s.m.get (F.FIO_AO_CFG_MODE (o.val - 24)) = 0) ∧
    (∃ (s : State) (h : BitVec 10) (seq : BitVec 32) (x : Sess) (c : Cmd) (o : Fin 48), regsWf s.m.regs = true ∧ Ready s h seq 0x0E01 x c ∧ bitAt 8 x.roleBit = true ∧ diagOut (par c.params 0 1) = some o ∧ s.m.serves (s.m.sessKey h.toNat) = true) ∧
    (∃ (s : State) (h : BitVec 10) (seq : BitVec 32) (x : Sess) (c : Cmd), regsWf s.m.regs = true ∧ Ready s h seq 0x0E01 x c ∧ bitAt 8 x.roleBit = true ∧ (par c.params 0 1) = 0xFF ∧ s.m.serves (s.m.sessKey h.toNat) = true) ∧
    (∃ (s : State) (h : BitVec 10) (seq : BitVec 32) (x : Sess) (c : Cmd), regsWf s.m.regs = true ∧ Ready s h seq 0x0E01 x c ∧ bitAt 8 x.roleBit = true ∧ (par c.params 0 1) ≠ 0xFF ∧ diagOut (par c.params 0 1) = none) ∧
    (∃ (s : State) (h : BitVec 10) (seq : BitVec 32) (x : Sess) (c : Cmd), regsWf s.m.regs = true ∧ Ready s h seq 0x0E01 x c ∧ bitAt 8 x.roleBit = true ∧ (((par c.params 0 1) = 0xFF ∨ (diagOut (par c.params 0 1)).isSome = true)) ∧ s.m.serves (s.m.sessKey h.toNat) = false) ∧
    (∃ (s : State) (h : BitVec 10) (seq : BitVec 32) (x : Sess) (c : Cmd), regsWf s.m.regs = true ∧ Ready s h seq 0x0E02 x c ∧ bitAt 8 x.roleBit = true ∧ (par c.params 0 1) ≤ 7 ∧ ((s.m.st = xStopped ∨ s.m.st = xService))) ∧
    (∃ (s : State) (h : BitVec 10) (seq : BitVec 32) (x : Sess) (c : Cmd), regsWf s.m.regs = true ∧ Ready s h seq 0x0E02 x c ∧ bitAt 8 x.roleBit = true ∧ 7 < (par c.params 0 1)) ∧
    (∃ (s : State) (h : BitVec 10) (seq : BitVec 32) (x : Sess) (c : Cmd), regsWf s.m.regs = true ∧ Ready s h seq 0x0E02 x c ∧ bitAt 8 x.roleBit = true ∧ (par c.params 0 1) ≤ 7 ∧ s.m.st ≠ xStopped ∧ s.m.st ≠ xService) ∧
    (∃ (s : State) (b : Fin 8) (bad : BitVec 11), regsWf s.m.regs = true ∧ s.m.mem.testing.contains b.val = true ∧ bad = 0) ∧
    (∃ (s : State) (b : Fin 8), regsWf s.m.regs = true ∧ s.m.mem.testing.contains b.val = true) ∧
    (∃ (s : State) (b : Fin 8), regsWf s.m.regs = true ∧ s.m.mem.testing.contains b.val = false) ∧
    (∃ (s : State) (h : BitVec 10) (seq : BitVec 32) (x : Sess) (c : Cmd) (regs : List Nat), regsWf s.m.regs = true ∧ Ready s h seq 0x0E03 x c ∧ bitAt 28 x.roleBit = true ∧ counterRegs (par c.params 0 1) = some regs) ∧
    (∃ (s : State) (h : BitVec 10) (seq : BitVec 32) (x : Sess) (c : Cmd), regsWf s.m.regs = true ∧ Ready s h seq 0x0E03 x c ∧ bitAt 28 x.roleBit = true ∧ 19 < (par c.params 0 1)) ∧
    (∃ (s : State) (h : BitVec 10) (seq : BitVec 32) (x : Sess) (c : Cmd), regsWf s.m.regs = true ∧ Ready s h seq 0x0E04 x c) :=
  ⟨⟨opAt 0x0C00 ([]) (opBase) ({ role := .service }), 1, 5, sessOf (opAt 0x0C00 ([]) (opBase) ({ role := .service })), cmdOf (opAt 0x0C00 ([]) (opBase) ({ role := .service })), by decide +kernel⟩,
   ⟨opAt 0x0C01 ([]) ({ rig [(F.TWIN_STATUS_MODE, 2), (F.TWIN_STATUS_HOLDS_BAR, 1)] opBase with twin := { opBase.twin with peerReady := true } }) ({ role := .service }), 1, 5, sessOf (opAt 0x0C01 ([]) ({ rig [(F.TWIN_STATUS_MODE, 2), (F.TWIN_STATUS_HOLDS_BAR, 1)] opBase with twin := { opBase.twin with peerReady := true } }) ({ role := .service })), cmdOf (opAt 0x0C01 ([]) ({ rig [(F.TWIN_STATUS_MODE, 2), (F.TWIN_STATUS_HOLDS_BAR, 1)] opBase with twin := { opBase.twin with peerReady := true } }) ({ role := .service })), by decide +kernel⟩,
   ⟨opAt 0x0C01 ([]) (rig [(F.TWIN_STATUS_MODE, 2), (F.TWIN_STATUS_HOLDS_BAR, 1)] opBase) ({ role := .service }), 1, 5, sessOf (opAt 0x0C01 ([]) (rig [(F.TWIN_STATUS_MODE, 2), (F.TWIN_STATUS_HOLDS_BAR, 1)] opBase) ({ role := .service })), cmdOf (opAt 0x0C01 ([]) (rig [(F.TWIN_STATUS_MODE, 2), (F.TWIN_STATUS_HOLDS_BAR, 1)] opBase) ({ role := .service })), by decide +kernel⟩,
   ⟨opAt 0x0C01 ([]) (opBase) ({ role := .service }), 1, 5, sessOf (opAt 0x0C01 ([]) (opBase) ({ role := .service })), cmdOf (opAt 0x0C01 ([]) (opBase) ({ role := .service })), by decide +kernel⟩,
   ⟨opAt 0x0D00 ([39, 0, 5, 0, 0, 0, 0, 0, 1, 0, 9]) (opBase) ({ role := .service }), 1, 5, sessOf (opAt 0x0D00 ([39, 0, 5, 0, 0, 0, 0, 0, 1, 0, 9]) (opBase) ({ role := .service })), cmdOf (opAt 0x0D00 ([39, 0, 5, 0, 0, 0, 0, 0, 1, 0, 9]) (opBase) ({ role := .service })), by decide +kernel⟩,
   ⟨opAt 0x0D00 ([18, 0, 5, 0, 0, 0, 0, 0, 1, 0, 9]) (opBase) ({ role := .service }), 1, 5, sessOf (opAt 0x0D00 ([18, 0, 5, 0, 0, 0, 0, 0, 1, 0, 9]) (opBase) ({ role := .service })), cmdOf (opAt 0x0D00 ([18, 0, 5, 0, 0, 0, 0, 0, 1, 0, 9]) (opBase) ({ role := .service })), by decide +kernel⟩,
   ⟨opAt 0x0D00 ([40, 0, 5, 0, 0, 0, 0, 0, 1, 0, 9]) (opBase) ({ role := .service }), 1, 5, sessOf (opAt 0x0D00 ([40, 0, 5, 0, 0, 0, 0, 0, 1, 0, 9]) (opBase) ({ role := .service })), cmdOf (opAt 0x0D00 ([40, 0, 5, 0, 0, 0, 0, 0, 1, 0, 9]) (opBase) ({ role := .service })), by decide +kernel⟩,
   ⟨opAt 0x0D00 ([39, 0, 5, 0, 0, 0, 0, 0, 1, 4, 9]) (opBase) ({ role := .service }), 1, 5, sessOf (opAt 0x0D00 ([39, 0, 5, 0, 0, 0, 0, 0, 1, 4, 9]) (opBase) ({ role := .service })), cmdOf (opAt 0x0D00 ([39, 0, 5, 0, 0, 0, 0, 0, 1, 4, 9]) (opBase) ({ role := .service })), by decide +kernel⟩,
   ⟨opAt 0x0D01 ([9, 0]) (opBase) ({ role := .service }), 1, 5, sessOf (opAt 0x0D01 ([9, 0]) (opBase) ({ role := .service })), cmdOf (opAt 0x0D01 ([9, 0]) (opBase) ({ role := .service })), by decide +kernel⟩,
   ⟨opAt 0x0D01 ([9, 0]) ({ opBase with ports := { opBase.ports with pass := [{ handle := 9, session := 1, port := 0, station := 0, data := [], result := some (some [7]) }] } }) ({ role := .service }), 1, 5, sessOf (opAt 0x0D01 ([9, 0]) ({ opBase with ports := { opBase.ports with pass := [{ handle := 9, session := 1, port := 0, station := 0, data := [], result := some (some [7]) }] } }) ({ role := .service })), cmdOf (opAt 0x0D01 ([9, 0]) ({ opBase with ports := { opBase.ports with pass := [{ handle := 9, session := 1, port := 0, station := 0, data := [], result := some (some [7]) }] } }) ({ role := .service })), [7], { handle := 9, session := 1, port := 0, station := 0, data := [], result := some (some [7]) }, by decide +kernel⟩,
   ⟨opAt 0x0D01 ([9, 0]) ({ opBase with ports := { opBase.ports with pass := [{ handle := 9, session := 1, port := 0, station := 0, data := [], result := some none }] } }) ({ role := .service }), 1, 5, sessOf (opAt 0x0D01 ([9, 0]) ({ opBase with ports := { opBase.ports with pass := [{ handle := 9, session := 1, port := 0, station := 0, data := [], result := some none }] } }) ({ role := .service })), cmdOf (opAt 0x0D01 ([9, 0]) ({ opBase with ports := { opBase.ports with pass := [{ handle := 9, session := 1, port := 0, station := 0, data := [], result := some none }] } }) ({ role := .service })), { handle := 9, session := 1, port := 0, station := 0, data := [], result := some none }, by decide +kernel⟩,
   ⟨opAt 0x0D01 ([9, 0]) ({ opBase with ports := { opBase.ports with pass := [{ handle := 9, session := 1, port := 0, station := 0, data := [] }] } }) ({ role := .service }), 1, 5, sessOf (opAt 0x0D01 ([9, 0]) ({ opBase with ports := { opBase.ports with pass := [{ handle := 9, session := 1, port := 0, station := 0, data := [] }] } }) ({ role := .service })), cmdOf (opAt 0x0D01 ([9, 0]) ({ opBase with ports := { opBase.ports with pass := [{ handle := 9, session := 1, port := 0, station := 0, data := [] }] } }) ({ role := .service })), { handle := 9, session := 1, port := 0, station := 0, data := [] }, by decide +kernel⟩,
   ⟨opAt 0x0D01 ([9, 0]) (Mod.ctrAdd { opBase with ports := { opBase.ports with pass := [{ handle := 9, session := 1, port := 0, station := 0, data := [], result := some none }] } } 0 60000) ({ role := .service }), 1, 5, sessOf (opAt 0x0D01 ([9, 0]) (Mod.ctrAdd { opBase with ports := { opBase.ports with pass := [{ handle := 9, session := 1, port := 0, station := 0, data := [], result := some none }] } } 0 60000) ({ role := .service })), cmdOf (opAt 0x0D01 ([9, 0]) (Mod.ctrAdd { opBase with ports := { opBase.ports with pass := [{ handle := 9, session := 1, port := 0, station := 0, data := [], result := some none }] } } 0 60000) ({ role := .service })), { handle := 9, session := 1, port := 0, station := 0, data := [], result := some none }, by decide +kernel⟩,
   ⟨opAt 0x0D02 ([39, 0, 0, 4, 0, 0, 0, 0]) (opBase) ({ role := .service }), 1, 5, sessOf (opAt 0x0D02 ([39, 0, 0, 4, 0, 0, 0, 0]) (opBase) ({ role := .service })), cmdOf (opAt 0x0D02 ([39, 0, 0, 4, 0, 0, 0, 0]) (opBase) ({ role := .service })), [], by decide +kernel⟩,
   ⟨opAt 0x0D02 ([39, 0, 1, 4, 0, 0, 0, 0]) (opBase) ({ role := .service }), 1, 5, sessOf (opAt 0x0D02 ([39, 0, 1, 4, 0, 0, 0, 0]) (opBase) ({ role := .service })), cmdOf (opAt 0x0D02 ([39, 0, 1, 4, 0, 0, 0, 0]) (opBase) ({ role := .service })), [], by decide +kernel⟩,
   ⟨opAt 0x0D02 ([40, 0, 0, 4, 0, 0, 0, 0]) (opBase) ({ role := .service }), 1, 5, sessOf (opAt 0x0D02 ([40, 0, 0, 4, 0, 0, 0, 0]) (opBase) ({ role := .service })), cmdOf (opAt 0x0D02 ([40, 0, 0, 4, 0, 0, 0, 0]) (opBase) ({ role := .service })), by decide +kernel⟩,
   ⟨opAt 0x0E00 ([23, 0, 0, 0, 1, 0, 0, 0]) ({ rig [(F.EXEC_STATE_STATE, 8)] with exec := { serviceSession := some 1 } }) ({ role := .service }), 1, 5, sessOf (opAt 0x0E00 ([23, 0, 0, 0, 1, 0, 0, 0]) ({ rig [(F.EXEC_STATE_STATE, 8)] with exec := { serviceSession := some 1 } }) ({ role := .service })), cmdOf (opAt 0x0E00 ([23, 0, 0, 0, 1, 0, 0, 0]) ({ rig [(F.EXEC_STATE_STATE, 8)] with exec := { serviceSession := some 1 } }) ({ role := .service })), 23, by decide +kernel⟩,
   ⟨opAt 0x0E00 ([40, 0, 0, 0, 1, 0, 0, 0]) (opBase) ({ role := .service }), 1, 5, sessOf (opAt 0x0E00 ([40, 0, 0, 0, 1, 0, 0, 0]) (opBase) ({ role := .service })), cmdOf (opAt 0x0E00 ([40, 0, 0, 0, 1, 0, 0, 0]) (opBase) ({ role := .service })), by decide +kernel⟩,
   ⟨opAt 0x0E00 ([55, 0, 0, 0, 1, 0, 0, 0]) (opBase) ({ role := .service }), 1, 5, sessOf (opAt 0x0E00 ([55, 0, 0, 0, 1, 0, 0, 0]) (opBase) ({ role := .service })), cmdOf (opAt 0x0E00 ([55, 0, 0, 0, 1, 0, 0, 0]) (opBase) ({ role := .service })), 47, by decide +kernel⟩,
   ⟨opAt 0x0E00 ([23, 0, 0, 0, 2, 0, 0, 0]) ({ rig [(F.EXEC_STATE_STATE, 8)] with exec := { serviceSession := some 1 } }) ({ role := .service }), 1, 5, sessOf (opAt 0x0E00 ([23, 0, 0, 0, 2, 0, 0, 0]) ({ rig [(F.EXEC_STATE_STATE, 8)] with exec := { serviceSession := some 1 } }) ({ role := .service })), cmdOf (opAt 0x0E00 ([23, 0, 0, 0, 2, 0, 0, 0]) ({ rig [(F.EXEC_STATE_STATE, 8)] with exec := { serviceSession := some 1 } }) ({ role := .service })), 23, by decide +kernel⟩,
   ⟨opAt 0x0E00 ([39, 0, 0, 0, 2, 0, 0, 0]) ({ rig [(F.EXEC_STATE_STATE, 8)] with exec := { serviceSession := some 1 } }) ({ role := .service }), 1, 5, sessOf (opAt 0x0E00 ([39, 0, 0, 0, 2, 0, 0, 0]) ({ rig [(F.EXEC_STATE_STATE, 8)] with exec := { serviceSession := some 1 } }) ({ role := .service })), cmdOf (opAt 0x0E00 ([39, 0, 0, 0, 2, 0, 0, 0]) ({ rig [(F.EXEC_STATE_STATE, 8)] with exec := { serviceSession := some 1 } }) ({ role := .service })), 31, by decide +kernel⟩,
   ⟨opAt 0x0E01 ([55]) ({ rig [(F.EXEC_STATE_STATE, 8)] with exec := { serviceSession := some 1 }, outs := Mod.reset.outs.set 47 { test := some .on } }) ({ role := .service }), 1, 5, sessOf (opAt 0x0E01 ([55]) ({ rig [(F.EXEC_STATE_STATE, 8)] with exec := { serviceSession := some 1 }, outs := Mod.reset.outs.set 47 { test := some .on } }) ({ role := .service })), cmdOf (opAt 0x0E01 ([55]) ({ rig [(F.EXEC_STATE_STATE, 8)] with exec := { serviceSession := some 1 }, outs := Mod.reset.outs.set 47 { test := some .on } }) ({ role := .service })), 47, by decide +kernel⟩,
   ⟨opAt 0x0E01 ([255]) ({ rig [(F.EXEC_STATE_STATE, 8)] with exec := { serviceSession := some 1 }, outs := Mod.reset.outs.set 47 { test := some .on } }) ({ role := .service }), 1, 5, sessOf (opAt 0x0E01 ([255]) ({ rig [(F.EXEC_STATE_STATE, 8)] with exec := { serviceSession := some 1 }, outs := Mod.reset.outs.set 47 { test := some .on } }) ({ role := .service })), cmdOf (opAt 0x0E01 ([255]) ({ rig [(F.EXEC_STATE_STATE, 8)] with exec := { serviceSession := some 1 }, outs := Mod.reset.outs.set 47 { test := some .on } }) ({ role := .service })), by decide +kernel⟩,
   ⟨opAt 0x0E01 ([56]) (opBase) ({ role := .service }), 1, 5, sessOf (opAt 0x0E01 ([56]) (opBase) ({ role := .service })), cmdOf (opAt 0x0E01 ([56]) (opBase) ({ role := .service })), by decide +kernel⟩,
   ⟨opAt 0x0E01 ([255]) (opBase) ({ role := .service }), 1, 5, sessOf (opAt 0x0E01 ([255]) (opBase) ({ role := .service })), cmdOf (opAt 0x0E01 ([255]) (opBase) ({ role := .service })), by decide +kernel⟩,
   ⟨opAt 0x0E02 ([7]) (rig [(F.EXEC_STATE_STATE, 6)]) ({ role := .service }), 1, 5, sessOf (opAt 0x0E02 ([7]) (rig [(F.EXEC_STATE_STATE, 6)]) ({ role := .service })), cmdOf (opAt 0x0E02 ([7]) (rig [(F.EXEC_STATE_STATE, 6)]) ({ role := .service })), by decide +kernel⟩,
   ⟨opAt 0x0E02 ([8]) (opBase) ({ role := .service }), 1, 5, sessOf (opAt 0x0E02 ([8]) (opBase) ({ role := .service })), cmdOf (opAt 0x0E02 ([8]) (opBase) ({ role := .service })), by decide +kernel⟩,
   ⟨opAt 0x0E02 ([7]) (opBase) ({ role := .service }), 1, 5, sessOf (opAt 0x0E02 ([7]) (opBase) ({ role := .service })), cmdOf (opAt 0x0E02 ([7]) (opBase) ({ role := .service })), by decide +kernel⟩,
   ⟨at_ { Mod.reset with mem := { testing := [3, 7] } }, 7, 0, by decide +kernel⟩,
   ⟨at_ { Mod.reset with mem := { testing := [3, 7] } }, 7, by decide +kernel⟩,
   ⟨at_ Mod.reset, 7, by decide +kernel⟩,
   ⟨opAt 0x0E03 ([17]) (opBase) ({ role := .service }), 1, 5, sessOf (opAt 0x0E03 ([17]) (opBase) ({ role := .service })), cmdOf (opAt 0x0E03 ([17]) (opBase) ({ role := .service })), [R.TIME_EVENTS], by decide +kernel⟩,
   ⟨opAt 0x0E03 ([20]) (opBase) ({ role := .service }), 1, 5, sessOf (opAt 0x0E03 ([20]) (opBase) ({ role := .service })), cmdOf (opAt 0x0E03 ([20]) (opBase) ({ role := .service })), by decide +kernel⟩,
   ⟨opAt 0x0E04 ([1, 2, 3]) (opBase) ({ role := .service }), 1, 5, sessOf (opAt 0x0E04 ([1, 2, 3]) (opBase) ({ role := .service })), cmdOf (opAt 0x0E04 ([1, 2, 3]) (opBase) ({ role := .service })), by decide +kernel⟩⟩

theorem witness_TheTwinModesKeepBothSidesTogether :
    (∃ (s : State) (seq : BitVec 32) (lanes : BitVec 2), regsWf s.m.regs = true ∧ s.m.linkReady = true ∧ lanes ≠ 0 ∧ s.m.newSeq seq.toNat = false) ∧
    (∃ (s : State), regsWf s.m.regs = true ∧ s.m.linkReady = true) ∧
    (∃ (s : State), regsWf s.m.regs = true ∧ s.m.linkReady = false) ∧
    (∃ (s : State) (lane : Fin 2), regsWf s.m.regs = true ∧ s.m.linkReady = true ∧ 8 ≤ ((s.m.twin).lanes[lane]).run ∧ s.m.laneSilent lane = false ∧ s.m.flag F.TWIN_STATUS_LINK_UP = false) ∧
    (∃ (s : State) (lane : Fin 2), regsWf s.m.regs = true ∧ s.m.linkReady = true ∧ 8 ≤ ((s.m.twin).lanes[lane]).run ∧ s.m.laneSilent lane = false ∧ s.m.flag F.TWIN_STATUS_LINK_UP = true) ∧
    (∃ (s : State) (lane : Fin 2), regsWf s.m.regs = true ∧ ((s.m.linkReady = false ∨ ((s.m.twin).lanes[lane]).run < 8 ∨ s.m.laneSilent lane = true))) ∧
    (∃ (s : State) (lane : Fin 2), regsWf s.m.regs = true ∧ s.m.flag ((if lane = 0 then F.TWIN_LINK_LANE0 else F.TWIN_LINK_LANE1)) = true ∧ s.m.laneSilent lane = true ∧ s.m.flag ((if lane = 0 then F.TWIN_LINK_LANE1 else F.TWIN_LINK_LANE0)) = true) ∧
    (∃ (s : State) (lane : Fin 2), regsWf s.m.regs = true ∧ s.m.flag ((if lane = 0 then F.TWIN_LINK_LANE0 else F.TWIN_LINK_LANE1)) = true ∧ s.m.laneSilent lane = true ∧ s.m.flag ((if lane = 0 then F.TWIN_LINK_LANE1 else F.TWIN_LINK_LANE0)) = false ∧ ((s.m.st = xStandby ∧ s.m.flag F.TWIN_STATUS_IN_STEP = true)) ∧ (s.m.twin).follower = false) ∧
    (∃ (s : State) (lane : Fin 2) (p : Plan), regsWf s.m.regs = true ∧ s.m.flag ((if lane = 0 then F.TWIN_LINK_LANE0 else F.TWIN_LINK_LANE1)) = true ∧ s.m.laneSilent lane = true ∧ s.m.flag ((if lane = 0 then F.TWIN_LINK_LANE1 else F.TWIN_LINK_LANE0)) = false ∧ s.m.st = xRun ∧ s.m.get F.TWIN_STATUS_MODE = 1 ∧ s.m.flag F.TWIN_STATUS_SPLIT = false ∧ s.m.flag F.TWIN_STATUS_SIDE = true ∧ s.m.plan.active = some p ∧ (s.m.twin).follower = false) ∧
    (∃ (s : State) (lane : Fin 2), regsWf s.m.regs = true ∧ ((s.m.flag ((if lane = 0 then F.TWIN_LINK_LANE0 else F.TWIN_LINK_LANE1)) = false ∨ s.m.laneSilent lane = false))) ∧
    (∃ (s : State) (sec : Nat), regsWf s.m.regs = true ∧ s.m.flag F.TWIN_STATUS_SPLIT = true ∧ s.m.flag F.TWIN_STATUS_LINK_UP = true ∧ s.m.flag F.TWIN_STATUS_MISMATCH = false ∧ (s.m.twin).peerSince = some sec ∧ (sec + 999999999) / 1000000000 * 1000000000 + 1000000000 ≤ s.m.clk.ns ∧ s.m.flag F.TWIN_STATUS_SIDE = false) ∧
    (∃ (s : State) (sec : Nat), regsWf s.m.regs = true ∧ s.m.flag F.TWIN_STATUS_SPLIT = true ∧ s.m.flag F.TWIN_STATUS_LINK_UP = true ∧ s.m.flag F.TWIN_STATUS_MISMATCH = false ∧ (s.m.twin).peerSince = some sec ∧ (sec + 999999999) / 1000000000 * 1000000000 + 1000000000 ≤ s.m.clk.ns ∧ s.m.flag F.TWIN_STATUS_SIDE = true) ∧
    (∃ (s : State), regsWf s.m.regs = true ∧ ((s.m.flag F.TWIN_STATUS_SPLIT = false ∨ s.m.flag F.TWIN_STATUS_LINK_UP = false ∨ (s.m.twin).peerSince = none))) ∧
    (∃ (s : State) (sec : Nat), regsWf s.m.regs = true ∧ (s.m.twin).peerSince = some sec ∧ s.m.clk.ns < (sec + 999999999) / 1000000000 * 1000000000 + 1000000000) ∧
    (∃ (s : State), regsWf s.m.regs = true ∧ s.m.linkReady = true ∧ s.m.clk.run = true) ∧
    (∃ (s : State) (seq : BitVec 32) (lanes : BitVec 2) (tst : BitVec 32) (ex : BitVec 32), regsWf s.m.regs = true ∧ (FrameTaken s.m seq lanes) ∧ s.m.flag F.TWIN_STATUS_LINK_UP = true ∧ bits ex.toNat F.EXEC_STATE_STATE.lo F.EXEC_STATE_STATE.width = xRun ∧ (s.m.twin).follower = false ∧ (ownLock (s.m.word R.TIME_STATUS).toNat false = true ∧ ownLock tst.toNat (s.m.flag F.TWIN_TIME_MASTER) = false)) ∧
    (∃ (s : State) (seq : BitVec 32) (lanes : BitVec 2) (tst : BitVec 32) (ex : BitVec 32), regsWf s.m.regs = true ∧ (FrameTaken s.m seq lanes) ∧ s.m.flag F.TWIN_STATUS_LINK_UP = true ∧ bits ex.toNat F.EXEC_STATE_STATE.lo F.EXEC_STATE_STATE.width = xRun ∧ (ownLock (s.m.word R.TIME_STATUS).toNat (s.m.twin).follower = false ∧ ownLock tst.toNat (s.m.flag F.TWIN_TIME_MASTER) = true)) ∧
    (∃ (s : State) (seq : BitVec 32) (lanes : BitVec 2), regsWf s.m.regs = true ∧ (FrameTaken s.m seq lanes)) ∧
    (∃ (s : State) (seq : BitVec 32) (lanes : BitVec 2), regsWf s.m.regs = true ∧ (FrameTaken s.m seq lanes) ∧ s.m.get F.KEY_FW_STATUS_STAGE = 4) ∧
    (∃ (s : State) (seq : BitVec 32) (lanes : BitVec 2), regsWf s.m.regs = true ∧ (FrameTaken s.m seq lanes) ∧ s.m.st = xStandby) ∧
    (∃ (s : State) (seq : BitVec 32) (lanes : BitVec 2), regsWf s.m.regs = true ∧ (FrameTaken s.m seq lanes) ∧ s.m.flag F.TWIN_STATUS_SIDE = true ∧ s.m.exec.waitPeer = true) ∧
    (∃ (s : State) (seq : BitVec 32) (lanes : BitVec 2) (on : Bool) (pl : BitVec 32), regsWf s.m.regs = true ∧ (FrameTaken s.m seq lanes) ∧ on = !s.m.flag F.TWIN_STATUS_SIDE ∧ pl.toNat = s.m.get F.KEY_FW_VER_VERSION ∧ s.m.exec.waitPeer = false) ∧
    (∃ (s : State) (seq : BitVec 32) (lanes : BitVec 2) (on : Bool), regsWf s.m.regs = true ∧ (FrameTaken s.m seq lanes) ∧ on = s.m.flag F.TWIN_STATUS_SIDE ∧ s.m.twinPackage = true ∧ s.m.flag F.TWIN_STATUS_CLASH = false ∧ s.m.st = xRun) ∧
    (∃ (s : State) (seq : BitVec 32) (lanes : BitVec 2) (on : Bool) (n : Nat) (pl : BitVec 32), regsWf s.m.regs = true ∧ (FrameTaken s.m seq lanes) ∧ on = !s.m.flag F.TWIN_STATUS_SIDE ∧ ((n ≠ 2 ∨ pl.toNat ≠ s.m.get F.KEY_FW_VER_VERSION)) ∧ s.m.flag F.TWIN_STATUS_MISMATCH = false ∧ s.m.st = xRun ∧ s.m.get F.TWIN_STATUS_MODE ≠ 1 ∧ s.m.exec.waitPeer = false) ∧
    (∃ (s : State) (seq : BitVec 32) (lanes : BitVec 2) (p : Plan), regsWf s.m.regs = true ∧ (FrameTaken s.m seq lanes) ∧ s.m.flag F.TWIN_STATUS_HOLDS_BAR = false ∧ ((s.m.flag F.TWIN_STATUS_SIDE = true ∨ s.m.get F.TWIN_STATUS_MODE = 2)) ∧ (p.verify s.m.sysId).isSome = true) ∧
    (∃ (s : State) (seq : BitVec 32) (lanes : BitVec 2) (p : Plan), regsWf s.m.regs = true ∧ (FrameTaken s.m seq lanes) ∧ s.m.flag F.TWIN_STATUS_HOLDS_BAR = false ∧ ((s.m.flag F.TWIN_STATUS_SIDE = true ∨ s.m.get F.TWIN_STATUS_MODE = 2)) ∧ p.verify s.m.sysId = none ∧ s.m.planLoaded = true) ∧
    (∃ (s : State) (seq : BitVec 32) (lanes : BitVec 2) (p : Plan), regsWf s.m.regs = true ∧ (FrameTaken s.m seq lanes) ∧ s.m.cand = some p ∧ s.m.running = true ∧ s.m.plan.active.isSome = true ∧ s.m.plan.armed = none ∧ p.safetyDiff = false) ∧
    (∃ (s : State) (seq : BitVec 32) (lanes : BitVec 2), regsWf s.m.regs = true ∧ (FrameTaken s.m seq lanes) ∧ s.m.running = true) ∧
    (∃ (s : State), regsWf s.m.regs = true ∧ s.m.exec.waitPeer = true ∧ s.m.flag F.TWIN_STATUS_SIDE = false ∧ s.m.exec.waitAt + 50000000 ≤ s.m.clk.mono) ∧
    (∃ (s : State), regsWf s.m.regs = true ∧ ((s.m.exec.waitPeer = false ∨ s.m.flag F.TWIN_STATUS_SIDE = true ∨ s.m.clk.mono < s.m.exec.waitAt + 50000000))) ∧
    (∃ (s : State) (seq : BitVec 32) (lanes : BitVec 2) (tile : Fin 8192) (bytes : List Byte) (crc : BitVec 32) (h : BitVec 10), regsWf s.m.regs = true ∧ (FrameTaken s.m seq lanes) ∧ tileCrc tile.val bytes = crc.toNat ∧ bytes.length = 256 ∧ s.m.get F.TWIN_STATUS_MODE = 1 ∧ (((s.m.twin).mir.length < 512 ∨ (mapGet tile.val (s.m.twin).mir).isSome = true)) ∧ ((s.m.mirrorHomes tile.val)).all (fun h => s.m.regionOk 11 2 (h * 256)) = true) ∧
    (∃ (s : State) (seq : BitVec 32) (lanes : BitVec 2) (n : Nat) (tile : Fin 8192) (bytes : List Byte) (crc : BitVec 32) (h : BitVec 10), regsWf s.m.regs = true ∧ (FrameTaken s.m seq lanes) ∧ tileCrc tile.val bytes = crc.toNat ∧ bytes.length = 256 ∧ s.m.get F.TWIN_STATUS_MODE = 1 ∧ (s.m.twin).mir.length < 512 ∧ ((s.m.mirrorHomes tile.val)).find? (fun h => !s.m.regionOk 11 2 (h * 256)) = some n) ∧
    (∃ (s : State) (seq : BitVec 32) (lanes : BitVec 2) (tile : Fin 8192) (bytes : List Byte) (crc : BitVec 32), regsWf s.m.regs = true ∧ (FrameTaken s.m seq lanes) ∧ tileCrc tile.val bytes = crc.toNat ∧ bytes.length = 256 ∧ ((s.m.get F.TWIN_STATUS_MODE ≠ 1 ∨ (mapGet tile.val (s.m.twin).mir = none ∧ 512 ≤ (s.m.twin).mir.length)))) ∧
    (∃ (s : State) (seq : BitVec 32) (lanes : BitVec 2) (tile : Fin 8192) (bytes : List Byte) (crc : BitVec 32), regsWf s.m.regs = true ∧ (FrameTaken s.m seq lanes) ∧ ((tileCrc tile.val bytes ≠ crc.toNat ∨ bytes.length ≠ 256))) ∧
    (∃ (s : State) (seq : BitVec 32) (lanes : BitVec 2), regsWf s.m.regs = true ∧ (FrameTaken s.m seq lanes) ∧ s.m.get F.TWIN_STATUS_MODE = 1 ∧ s.m.flag F.TWIN_STATUS_SPLIT = false ∧ s.m.flag F.TWIN_STATUS_SIDE = false) ∧
    (∃ (s : State) (seq : BitVec 32) (lanes : BitVec 2) (via : Fin 3), regsWf s.m.regs = true ∧ (FrameTaken s.m seq lanes) ∧ s.m.get F.TWIN_STATUS_MODE = 1 ∧ s.m.flag F.TWIN_STATUS_SPLIT = false ∧ s.m.flag F.TWIN_STATUS_SIDE = true ∧ via = 2) ∧
    (∃ (s : State) (seq : BitVec 32) (lanes : BitVec 2) (via : Fin 3), regsWf s.m.regs = true ∧ (FrameTaken s.m seq lanes) ∧ s.m.get F.TWIN_STATUS_MODE = 1 ∧ s.m.flag F.TWIN_STATUS_SPLIT = false ∧ s.m.flag F.TWIN_STATUS_SIDE = true ∧ via.val < 2 ∧ s.m.flag (F.UPL_STATUS_LINK via.val) = true) ∧
    (∃ (s : State) (seq : BitVec 32) (lanes : BitVec 2), regsWf s.m.regs = true ∧ (FrameTaken s.m seq lanes) ∧ ((s.m.get F.TWIN_STATUS_MODE ≠ 1 ∨ s.m.flag F.TWIN_STATUS_SPLIT = true))) ∧
    (∃ (s : State) (seq : BitVec 32) (lanes : BitVec 2), regsWf s.m.regs = true ∧ (FrameTaken s.m seq lanes) ∧ ((s.m.st = xStandby ∧ s.m.flag F.TWIN_STATUS_IN_STEP = true))) ∧
    (∃ (s : State) (seq : BitVec 32) (lanes : BitVec 2), regsWf s.m.regs = true ∧ (FrameTaken s.m seq lanes) ∧ s.m.flag F.TWIN_STATUS_IN_STEP = false) ∧
    (∃ (s : State) (seq : BitVec 32) (lanes : BitVec 2) (tile : Fin 8192) (bytes : List Byte) (crc : BitVec 32) (d : TileDef), regsWf s.m.regs = true ∧ (FrameTaken s.m seq lanes) ∧ tileCrc tile.val bytes = crc.toNat ∧ bytes.length = 256 ∧ s.m.get F.TWIN_STATUS_MODE = 2 ∧ s.m.tileDef tile.val = some d ∧ ((s.m.st = xStandby ∨ (s.m.dirEnt tile.val).faulted = true))) ∧
    (∃ (s : State) (seq : BitVec 32) (lanes : BitVec 2) (tile : Fin 8192) (bytes : List Byte) (crc : BitVec 32), regsWf s.m.regs = true ∧ (FrameTaken s.m seq lanes) ∧ tileCrc tile.val bytes = crc.toNat ∧ bytes.length = 256 ∧ ((s.m.get F.TWIN_STATUS_MODE ≠ 2 ∨ s.m.tileDef tile.val = none ∨ (s.m.st ≠ xStandby ∧ (s.m.dirEnt tile.val).faulted = false)))) ∧
    (∃ (s : State) (seq : BitVec 32) (lanes : BitVec 2) (n : Nat) (bytes : List Byte) (ld : LoopDef), regsWf s.m.regs = true ∧ (FrameTaken s.m seq lanes) ∧ n < 256 ∧ ((s.m.plan.active.map (·.loops)).getD []).find? (fun e => e.num == n) = some ld ∧ s.m.st = xStandby ∧ s.m.flag F.TWIN_STATUS_IN_STEP = false ∧ bytes.length = 24) ∧
    (∃ (s : State), regsWf s.m.regs = true ∧ ((s.m.st = xStandby ∧ s.m.flag F.TWIN_STATUS_IN_STEP = true))) ∧
    (∃ (s : State), regsWf s.m.regs = true ∧ s.m.flag F.TWIN_STATUS_IN_STEP = false) ∧
    (∃ (s : State), regsWf s.m.regs = true ∧ s.m.st = xStandby ∧ s.m.flag F.TWIN_STATUS_LINK_UP = true ∧ s.m.get F.TWIN_STATUS_JOIN = 1 ∧ s.m.tilesCopied = true) ∧
    (∃ (s : State), regsWf s.m.regs = true ∧ ((s.m.st ≠ xStandby ∨ s.m.flag F.TWIN_STATUS_LINK_UP = false ∨ s.m.get F.TWIN_STATUS_JOIN ≠ 1 ∨ s.m.tilesCopied = false))) ∧
    (∃ (s : State) (t : Nat), regsWf s.m.regs = true ∧ s.m.st = xStandby ∧ s.m.get F.TWIN_STATUS_JOIN = 2 ∧ s.m.loopsCopied = true ∧ t % 1000000000 = 0 ∧ ((s.m.clk.run = true ∧ s.m.clk.ns ≤ t)) ∧ t < s.m.clk.ns + 1000000000) ∧
    (∃ (s : State) (t : Nat), regsWf s.m.regs = true ∧ ((s.m.st ≠ xStandby ∨ s.m.get F.TWIN_STATUS_JOIN ≠ 2 ∨ s.m.loopsCopied = false ∨ t % 1000000000 ≠ 0))) ∧
    (∃ (s : State) (sec : Nat), regsWf s.m.regs = true ∧ ((s.m.st = xStandby ∧ s.m.flag F.TWIN_STATUS_IN_STEP = true)) ∧ s.m.get F.TWIN_STATUS_JOIN = 3 ∧ (s.m.twin).joinSince = some sec ∧ sec + 1000000000 ≤ s.m.clk.ns) ∧
    (∃ (s : State) (sec : Nat), regsWf s.m.regs = true ∧ (s.m.twin).joinSince = some sec ∧ s.m.clk.ns < sec + 1000000000) ∧
    (∃ (s : State), regsWf s.m.regs = true ∧ s.m.inBit = false ∧ s.m.isOn (swPd 13) = true) ∧
    (∃ (s : State), regsWf s.m.regs = true ∧ s.m.inBit = true) ∧
    (∃ (s : State) (seq : BitVec 32) (lanes : BitVec 2), regsWf s.m.regs = true ∧ (FrameTaken s.m seq lanes) ∧ ((s.m.st = xStandby ∧ s.m.flag F.TWIN_STATUS_IN_STEP = true)) ∧ s.m.pwr.bar ≠ 0) ∧
    (∃ (s : State) (t : Nat), regsWf s.m.regs = true ∧ ((s.m.st = xStandby ∧ s.m.flag F.TWIN_STATUS_IN_STEP = true)) ∧ ((s.m.pwr.bar = 1 ∨ (s.m.pwr.bar ≠ 0 ∧ (s.m.twin).takePending = true))) ∧ s.m.clk.run = true ∧ s.m.nextFreeze = some t) ∧
    (∃ (s : State) (t : Nat), regsWf s.m.regs = true ∧ ((s.m.st ≠ xStandby ∨ s.m.flag F.TWIN_STATUS_IN_STEP = false ∨ s.m.pwr.bar = 0 ∨ s.m.nextFreeze ≠ some t))) ∧
    (∃ (s : State) (sec : Nat) (t : Nat), regsWf s.m.regs = true ∧ ((s.m.st = xStandby ∧ s.m.flag F.TWIN_STATUS_IN_STEP = true)) ∧ s.m.flag F.TWIN_STATUS_SIDE = false ∧ s.m.get F.TWIN_STATUS_JOIN = 4 ∧ t % 1000000000 = 0 ∧ ((s.m.clk.run = true ∧ s.m.clk.ns ≤ t)) ∧ (s.m.twin).holdFrom = some sec ∧ sec + max 10 (min 3600 (s.m.get F.TWIN_CFG_HOLDOFF)) * 1000 ≤ s.m.optime ∧ s.m.plan.armed = none ∧ s.m.get F.TWIN_BAR_RETURNS < s.m.returnLimit ∧ s.m.pwr.bar ≠ 0) ∧
    (∃ (s : State) (t : Nat), regsWf s.m.regs = true ∧ s.m.flag F.TWIN_STATUS_SIDE = true ∧ s.m.flag F.TWIN_STATUS_HOLDS_BAR = true ∧ (s.m.twin).claimAt = some t ∧ s.m.st = xRun ∧ t % 1000000000 = 0 ∧ ((s.m.clk.run = true ∧ s.m.clk.ns ≤ t))) ∧
    (∃ (s : State) (t : Nat), regsWf s.m.regs = true ∧ (s.m.twin).swapAt = some (t / 1000000000) ∧ t % 1000000000 = 0 ∧ ((s.m.clk.run = true ∧ s.m.clk.ns ≤ t)) ∧ s.m.flag F.TWIN_STATUS_HOLDS_BAR = true ∧ s.m.st = xRun) ∧
    (∃ (s : State) (t : Nat), regsWf s.m.regs = true ∧ (s.m.twin).swapAt = some (t / 1000000000) ∧ t % 1000000000 = 0 ∧ ((s.m.clk.run = true ∧ s.m.clk.ns ≤ t)) ∧ ((s.m.st = xStandby ∧ s.m.flag F.TWIN_STATUS_IN_STEP = true)) ∧ s.m.flag F.TWIN_STATUS_HOLDS_BAR = false ∧ s.m.pwr.bar ≠ 0) ∧
    (∃ (s : State) (t : Nat), regsWf s.m.regs = true ∧ ((t % 1000000000 ≠ 0 ∨ t < s.m.clk.ns ∨ (s.m.st ≠ xStandby ∧ s.m.st ≠ xRun)))) ∧
    (∃ (s : State) (t : Nat), regsWf s.m.regs = true ∧ (s.m.twin).swapAt = some (t / 1000000000) ∧ t % 1000000000 = 0 ∧ ((s.m.clk.run = true ∧ s.m.clk.ns ≤ t)) ∧ s.m.flag F.TWIN_STATUS_HOLDS_BAR = false ∧ ((s.m.st ≠ xStandby ∨ s.m.flag F.TWIN_STATUS_IN_STEP = false ∨ s.m.pwr.bar = 0))) ∧
    (∃ (s : State) (t : Nat), regsWf s.m.regs = true ∧ (s.m.twin).swapAt ≠ some (t / 1000000000)) ∧
    (∃ (s : State) (h : BitVec 10), regsWf s.m.regs = true ∧ s.m.isO0V h.toNat = true ∧ s.m.isOn (swPd 13) = true) ∧
    (∃ (s : State) (h : BitVec 10), regsWf s.m.regs = true ∧ ((s.m.isO0V h.toNat = false ∨ s.m.isOn (swPd 13) = false))) :=
  ⟨⟨at_ { twinMod with twin := { seqRx := some 9 } }, 9, 2, by decide +kernel⟩,
   ⟨at_ twinMod, by decide +kernel⟩,
   ⟨at_ opBase, by decide +kernel⟩,
   ⟨at_ { twinMod with regs := fldSet twinMod.regs F.TWIN_STATUS_LINK_UP 0, twin := { lanes := twinMod.twin.lanes.set 0 { lastAt := some 0, run := 8 } } }, 0, by decide +kernel⟩,
   ⟨at_ { twinMod with twin := { lanes := twinMod.twin.lanes.set 0 { lastAt := some 0, run := 8 } } }, 0, by decide +kernel⟩,
   ⟨at_ twinMod, 0, by decide +kernel⟩,
   ⟨at_ (rig [(F.TWIN_LINK_LANE0, 1), (F.TWIN_LINK_LANE1, 1)] twinMod), 0, by decide +kernel⟩,
   ⟨at_ (rig [(F.TWIN_LINK_LANE0, 1), (F.EXEC_STATE_STATE, 7), (F.TWIN_STATUS_IN_STEP, 1)] twinMod), 0, by decide +kernel⟩,
   ⟨at_ { rig [(F.TWIN_LINK_LANE0, 1), (F.TWIN_STATUS_MODE, 1), (F.TWIN_STATUS_SIDE, 1)] twinMod with plan := { active := some { cross := [(3, [])] } } }, 0, { cross := [(3, [])] }, by decide +kernel⟩,
   ⟨at_ twinMod, 0, by decide +kernel⟩,
   ⟨at_ { rig [(F.TWIN_STATUS_SPLIT, 1)] twinMod with twin := { peerSince := some 7 }, clk := { ns := 2000000000 } }, 7, by decide +kernel⟩,
   ⟨at_ { rig [(F.TWIN_STATUS_SPLIT, 1), (F.TWIN_STATUS_SIDE, 1)] twinMod with twin := { peerSince := some 7 }, clk := { ns := 2000000000 } }, 7, by decide +kernel⟩,
   ⟨at_ twinMod, by decide +kernel⟩,
   ⟨at_ { twinMod with twin := { peerSince := some 7 }, clk := { ns := 1999999999 } }, 7, by decide +kernel⟩,
   ⟨at_ { twinMod with clk := { run := true } }, by decide +kernel⟩,
   ⟨at_ (rig [(F.TIME_STATUS_STATE, syLocked)] twinMod), 9, 2, 0, BitVec.ofNat 32 (5 * 2 ^ F.EXEC_STATE_STATE.lo), by decide +kernel⟩,
   ⟨at_ twinMod, 9, 2, BitVec.ofNat 32 (syLocked * 2 ^ F.TIME_STATUS_STATE.lo), BitVec.ofNat 32 (5 * 2 ^ F.EXEC_STATE_STATE.lo), by decide +kernel⟩,
   ⟨at_ twinMod, 9, 2, by decide +kernel⟩,
   ⟨at_ (rig [(F.KEY_FW_STATUS_STAGE, 4)] twinMod), 9, 2, by decide +kernel⟩,
   ⟨at_ (rig [(F.EXEC_STATE_STATE, 7)] twinMod), 9, 2, by decide +kernel⟩,
   ⟨at_ { rig [(F.TWIN_STATUS_SIDE, 1)] twinMod with exec := { waitPeer := true } }, 9, 2, by decide +kernel⟩,
   ⟨at_ twinMod, 9, 2, true, 0, by decide +kernel⟩,
   ⟨at_ { twinMod with plan := { active := some { onePlan with shadow := true } } }, 9, 2, false, by decide +kernel⟩,
   ⟨at_ twinMod, 9, 2, true, 1, 0, by decide +kernel⟩,
   ⟨at_ (rig [(F.TWIN_STATUS_MODE, 2)] twinMod), 9, 2, onePlan, by decide +kernel⟩,
   ⟨at_ { rig [(F.TWIN_STATUS_MODE, 2), (F.EXEC_STATE_NOPLAN, 0)] twinMod with fx := true, plan := { active := some onePlan } }, 9, 2, goodPlan, by decide +kernel⟩,
   ⟨at_ { rig [(F.PLAN_STATUS_STATE, 3)] twinMod with plan := { active := some onePlan, slots := Mod.reset.plan.slots.set 1 (some {}) } }, 9, 2, {}, by decide +kernel⟩,
   ⟨at_ twinMod, 9, 2, by decide +kernel⟩,
   ⟨at_ { twinMod with exec := { waitPeer := true, waitAt := 7 }, clk := { mono := 50000007 } }, by decide +kernel⟩,
   ⟨at_ twinMod, by decide +kernel⟩,
   ⟨at_ (rig [(F.TWIN_STATUS_MODE, 1)] twinMod), 9, 2, 8191, List.replicate 256 0, BitVec.ofNat 32 (tileCrc 8191 (List.replicate 256 0)), 1, by decide +kernel⟩,
   ⟨at_ { rig [(F.TWIN_STATUS_MODE, 1)] twinMod with plan := { active := some { points := [{ idx := 1, tile := 0, slot := 0, ty := 1, cls := 0, bind := .mirror 8191 0 }] } } }, 9, 2, 0, 8191, List.replicate 256 0, BitVec.ofNat 32 (tileCrc 8191 (List.replicate 256 0)), 1, by decide +kernel⟩,
   ⟨at_ twinMod, 9, 2, 8191, List.replicate 256 0, BitVec.ofNat 32 (tileCrc 8191 (List.replicate 256 0)), by decide +kernel⟩,
   ⟨at_ twinMod, 9, 2, 8191, [], 0, by decide +kernel⟩,
   ⟨at_ (rig [(F.TWIN_STATUS_MODE, 1)] twinMod), 9, 2, by decide +kernel⟩,
   ⟨at_ (rig [(F.TWIN_STATUS_MODE, 1), (F.TWIN_STATUS_SIDE, 1)] twinMod), 9, 2, 2, by decide +kernel⟩,
   ⟨at_ (rig [(F.TWIN_STATUS_MODE, 1), (F.TWIN_STATUS_SIDE, 1), (F.UPL_STATUS_LINK 0, 1)] twinMod), 9, 2, 0, by decide +kernel⟩,
   ⟨at_ twinMod, 9, 2, by decide +kernel⟩,
   ⟨at_ (rig [(F.EXEC_STATE_STATE, 7), (F.TWIN_STATUS_IN_STEP, 1)] twinMod), 9, 2, by decide +kernel⟩,
   ⟨at_ twinMod, 9, 2, by decide +kernel⟩,
   ⟨at_ { rig [(F.EXEC_STATE_STATE, 7), (F.TWIN_STATUS_MODE, 2), (F.TWIN_STATUS_JOIN, 1)] twinMod with plan := { active := some { onePlan with tiles := [{ tile := 8191, kind := .point }] } } }, 9, 2, 8191, List.replicate 256 0, BitVec.ofNat 32 (tileCrc 8191 (List.replicate 256 0)), { tile := 8191, kind := .point }, by decide +kernel⟩,
   ⟨at_ twinMod, 9, 2, 8191, List.replicate 256 0, BitVec.ofNat 32 (tileCrc 8191 (List.replicate 256 0)), by decide +kernel⟩,
   ⟨at_ { rig [(F.EXEC_STATE_STATE, 7)] twinMod with plan := { active := some { onePlan with loops := [{ num := 255 }] } } }, 9, 2, 255, List.replicate 24 1, { num := 255 }, by decide +kernel⟩,
   ⟨at_ (rig [(F.EXEC_STATE_STATE, 7), (F.TWIN_STATUS_IN_STEP, 1)] twinMod), by decide +kernel⟩,
   ⟨at_ twinMod, by decide +kernel⟩,
   ⟨at_ { rig [(F.EXEC_STATE_STATE, 7), (F.TWIN_STATUS_JOIN, 1)] twinMod with plan := { active := some { onePlan with tiles := [{ tile := 8191, kind := .point }] } }, twin := { copied := [(8191, ())] } }, by decide +kernel⟩,
   ⟨at_ twinMod, by decide +kernel⟩,
   ⟨at_ { rig [(F.EXEC_STATE_STATE, 7), (F.TWIN_STATUS_JOIN, 2)] twinMod with clk := { run := true, ns := 1 } }, 1000000000, by decide +kernel⟩,
   ⟨at_ twinMod, 1000000000, by decide +kernel⟩,
   ⟨at_ { rig [(F.EXEC_STATE_STATE, 7), (F.TWIN_STATUS_IN_STEP, 1), (F.TWIN_STATUS_JOIN, 3)] twinMod with clk := { ns := 1000000007 }, twin := { joinSince := some 7 } }, 7, by decide +kernel⟩,
   ⟨at_ { twinMod with clk := { ns := 1000000006 }, twin := { joinSince := some 7 } }, 7, by decide +kernel⟩,
   ⟨at_ twinMod, by decide +kernel⟩,
   ⟨at_ (rig [(F.EXEC_STATE_STATE, 3)] twinMod), by decide +kernel⟩,
   ⟨at_ { rig [(F.EXEC_STATE_STATE, 7), (F.TWIN_STATUS_IN_STEP, 1)] twinMod with pwr := { twinMod.pwr with bar := 2 } }, 9, 2, by decide +kernel⟩,
   ⟨at_ { rig [(F.EXEC_STATE_STATE, 7), (F.TWIN_STATUS_IN_STEP, 1)] twinMod with pwr := { twinMod.pwr with bar := 1 }, clk := { run := true }, plan := { drumA := [BitVec.ofNat 64 (dkFreeze * 2 ^ 34)] } }, 0, by decide +kernel⟩,
   ⟨at_ twinMod, 1000000000, by decide +kernel⟩,
   ⟨at_ (Mod.ctrAdd { rig [(F.EXEC_STATE_STATE, 7), (F.TWIN_STATUS_IN_STEP, 1), (F.TWIN_STATUS_JOIN, 4), (F.TWIN_SWAP_LAST, 3)] twinMod with pwr := { twinMod.pwr with bar := 2 }, clk := { run := true }, twin := { holdFrom := some 7 } } 0 3600007), 7, 1000000000, by decide +kernel⟩,
   ⟨at_ { rig [(F.TWIN_STATUS_SIDE, 1), (F.TWIN_STATUS_HOLDS_BAR, 1)] twinMod with clk := { run := true }, twin := { claimAt := some 1000000000 } }, 1000000000, by decide +kernel⟩,
   ⟨at_ { rig [(F.TWIN_STATUS_HOLDS_BAR, 1)] twinMod with clk := { run := true }, twin := { swapAt := some 1 } }, 1000000000, by decide +kernel⟩,
   ⟨at_ { rig [(F.EXEC_STATE_STATE, 7), (F.TWIN_STATUS_IN_STEP, 1)] twinMod with clk := { run := true }, twin := { swapAt := some 1 }, pwr := { twinMod.pwr with bar := 2 } }, 1000000000, by decide +kernel⟩,
   ⟨at_ twinMod, 1, by decide +kernel⟩,
   ⟨at_ { twinMod with clk := { run := true }, twin := { swapAt := some 1 } }, 1000000000, by decide +kernel⟩,
   ⟨at_ twinMod, 1000000000, by decide +kernel⟩,
   ⟨at_ { twinMod with orpor := { sessions := [(1, { role := .service })] } }, 1, by decide +kernel⟩,
   ⟨at_ twinMod, 1, by decide +kernel⟩⟩

theorem witness_DrumEntriesActAtTheirInstants :
    (∃ (s : State) (t : Nat) (kind : Nat) (target : Nat) (arg : Nat), regsWf s.m.regs = true ∧ drumFires s.m kind target arg t = false) ∧
    (∃ (s : State) (t : Nat), regsWf s.m.regs = true ∧ drumFires s.m dkNop 0 0 t = true) ∧
    (∃ (s : State) (t : Nat), regsWf s.m.regs = true ∧ drumFires s.m dkWakeF 0 0 t = true) ∧
    (∃ (s : State) (t : Nat), regsWf s.m.regs = true ∧ drumFires s.m dkWakeM 0 0 t = true ∧ s.m.isOn (swPd 3) = true) ∧
    (∃ (s : State) (t : Nat), regsWf s.m.regs = true ∧ drumFires s.m dkWakeM 0 0 t = true ∧ s.m.isOn (swPd 3) = false) ∧
    (∃ (s : State) (t : Nat), regsWf s.m.regs = true ∧ drumFires s.m dkStopF 0 0 t = true) ∧
    (∃ (s : State) (t : Nat) (d : Fin 15) (on : Bool), regsWf s.m.regs = true ∧ drumFires s.m dkDomain d.val (b2n on) t = true) ∧
    (∃ (s : State) (t : Nat) (mask : BitVec 8) (p : Fin 19), regsWf s.m.regs = true ∧ drumFires s.m dkFreeze mask.toNat 0 t = true ∧ (s.m.points.map (·.idx)).Nodup ∧ s.m.points.all (fun p => !bitAt mask.toNat p.cls || (s.m.imageOf p 0).isSome) = true) ∧
    (∃ (s : State) (t : Nat) (pt : PointDef) (e : PMapEnt) (mask : BitVec 8) (o : Fin 48), regsWf s.m.regs = true ∧ drumFires s.m dkFreeze mask.toNat 0 t = true ∧ s.m.points = [pt] ∧ bitAt mask.toNat pt.cls = true ∧ ((pt.bind = .free ∨ pt.bind = .out o.val)) ∧ mapGet pt.idx s.m.mem.pmap = some e ∧ e.slot < 16 ∧ s.m.loadCause e.tile = none ∧ (s.m.dirEnt e.tile).faulted = false ∧ (s.m.dirEnt e.tile).single = false) ∧
    (∃ (s : State) (t : Nat) (mask : BitVec 8) (seq : BitVec 16), regsWf s.m.regs = true ∧ drumFires s.m dkBurst mask.toNat seq.toNat t = true ∧ ((s.m.st ≠ xStandby ∨ s.m.flag F.TWIN_STATUS_IN_STEP = true)) ∧ s.m.fclk = false) ∧
    (∃ (s : State) (t : Nat) (mask : BitVec 8) (seq : BitVec 16), regsWf s.m.regs = true ∧ drumFires s.m dkBurst mask.toNat seq.toNat t = true ∧ ((s.m.st ≠ xStandby ∨ s.m.flag F.TWIN_STATUS_IN_STEP = true)) ∧ s.m.fclk = true ∧ (List.range 8).all (fun l => (s.m.burstTasks l mask.toNat seq.toNat).isEmpty) = true) ∧
    (∃ (s : State) (t : Nat) (k : Nat) (lk : Fin 8) (ts : List Nat) (td : TaskDef) (mask : BitVec 8) (seq : BitVec 16), regsWf s.m.regs = true ∧ drumFires s.m dkBurst mask.toNat seq.toNat t = true ∧ ((s.m.st ≠ xStandby ∨ s.m.flag F.TWIN_STATUS_IN_STEP = true)) ∧ s.m.fclk = true ∧ s.m.lanePowered lk = true ∧ s.m.burstTasks lk.val mask.toNat seq.toNat = k :: ts ∧ s.m.taskDef k = some td ∧ td.tiles = [] ∧ (List.range 8).all (fun l => l == lk.val || (s.m.burstTasks l mask.toNat seq.toNat).isEmpty) = true) ∧
    (∃ (s : State) (t : Nat) (mask : BitVec 8) (seq : BitVec 16), regsWf s.m.regs = true ∧ drumFires s.m dkBurst mask.toNat seq.toNat t = true ∧ s.m.st = xStandby ∧ s.m.flag F.TWIN_STATUS_IN_STEP = false) ∧
    (∃ (s : State), regsWf s.m.regs = true ∧ s.m.exec.burst.isSome = true ∧ s.m.unfinished = 0 ∧ s.m.exec.late = false) ∧
    (∃ (s : State), regsWf s.m.regs = true ∧ ((s.m.exec.burst = none ∨ s.m.unfinished ≠ 0 ∨ s.m.exec.late = true))) ∧
    (∃ (s : State) (t : Nat) (c : Fin 8) (o : Fin 48), regsWf s.m.regs = true ∧ drumFires s.m dkLaunch c.val 0 t = true ∧ (s.m.reach t).stagingOpen c.val = false ∧ (s.m.reach t).classOuts c.val = [o.val] ∧ ((o.val < 32 ∨ 40 ≤ o.val))) ∧
    (∃ (s : State) (t : Nat) (c : Fin 8) (o : Fin 48), regsWf s.m.regs = true ∧ drumFires s.m dkLaunch c.val 0 t = true ∧ (s.m.reach t).stagingOpen c.val = false ∧ (s.m.reach t).classOuts c.val = [o.val] ∧ 32 ≤ o.val ∧ o.val < 40 ∧ (s.m.reach t).soStaged (soOut (Fin.ofNat 4 ((o.val - 32) / 2)) false) = (s.m.reach t).soStaged (soOut (Fin.ofNat 4 ((o.val - 32) / 2)) true)) ∧
    (∃ (s : State) (t : Nat) (c : Fin 8) (o : Fin 48), regsWf s.m.regs = true ∧ drumFires s.m dkLaunch c.val 0 t = true ∧ (s.m.reach t).stagingOpen c.val = false ∧ (s.m.reach t).classOuts c.val = [o.val] ∧ 32 ≤ o.val ∧ o.val < 40 ∧ (s.m.reach t).soStaged (soOut (Fin.ofNat 4 ((o.val - 32) / 2)) false) ≠ (s.m.reach t).soStaged (soOut (Fin.ofNat 4 ((o.val - 32) / 2)) true) ∧ s.m.safe.mismatch = []) ∧
    (∃ (s : State) (t : Nat) (c : Fin 8) (b : BurstSt), regsWf s.m.regs = true ∧ drumFires s.m dkLaunch c.val 0 t = true ∧ (s.m.reach t).stagingOpen c.val = true ∧ s.m.exec.burst = some b) ∧
    (∃ (s : State), regsWf s.m.regs = true ∧ (s.m.sw[swPllF]).ph = .powering ∧ (s.m.sw[swPllF]).pendOff = false ∧ s.m.exec.late = false) ∧
    (∃ (s : State), regsWf s.m.regs = true ∧ (s.m.sw[swPllF]).ph = .powering ∧ (s.m.sw[swPllF]).pendOff = false ∧ s.m.exec.late = true ∧ bitAt s.m.pwr.unlocked 0 = false ∧ (List.finRange 8).all (fun l => (s.m.lanes[l]).todo.isEmpty) = true) ∧
    (∃ (s : State), regsWf s.m.regs = true ∧ (s.m.sw[swPllF]).ph ≠ .powering) ∧
    (∃ (s : State) (t : Nat) (b : BurstSt), regsWf s.m.regs = true ∧ s.m.exec.burst = some b ∧ s.m.exec.late = true ∧ s.m.clk.run = true ∧ s.m.clk.ns ≤ t ∧ b.t0 + 50000 ≤ t) ∧
    (∃ (s : State) (t : Nat) (b : BurstSt), regsWf s.m.regs = true ∧ ((s.m.exec.burst = none ∨ (s.m.exec.burst = some b ∧ (s.m.exec.late = false ∨ t < b.t0 + 50000))))) ∧
    (∃ (s : State) (t : Nat) (b : BurstSt), regsWf s.m.regs = true ∧ s.m.exec.burst = some b ∧ s.m.exec.wdArmed = true ∧ s.m.clk.run = true ∧ s.m.clk.ns ≤ t ∧ s.m.exec.wdDeadline ≤ t) ∧
    (∃ (s : State) (t : Nat) (b : BurstSt), regsWf s.m.regs = true ∧ ((s.m.exec.burst = none ∨ (s.m.exec.burst = some b ∧ (s.m.exec.wdArmed = false ∨ t < s.m.exec.wdDeadline))))) ∧
    (∃ (s : State) (ok : Bool), regsWf s.m.regs = true ∧ ok = false ∧ s.m.exec.safeCopy.isSome = true) ∧
    (∃ (s : State) (ok : Bool), regsWf s.m.regs = true ∧ ((ok = true ∨ s.m.exec.safeCopy = none))) ∧
    (∃ (s : State), regsWf s.m.regs = true ∧ s.m.clk.run = true) ∧
    (∃ (s : State), regsWf s.m.regs = true ∧ s.m.clk.run = false) ∧
    (∃ (s : State) (t : Nat) (n : BitVec 8), regsWf s.m.regs = true ∧ drumFires s.m dkLoopRun n.toNat 0 t = true ∧ ((s.m.inStep = false ∨ s.m.fclk = false ∨ s.m.get (F.LOOP_CFG_TYPE n.toNat) = 0))) ∧
    (∃ (s : State) (t : Nat) (n : BitVec 8) (pvR : PRec) (spR : PRec) (outR : PRec), regsWf s.m.regs = true ∧ drumFires s.m dkLoopRun n.toNat 0 t = true ∧ ((s.m.inStep = true ∧ s.m.fclk = true ∧ s.m.get (F.LOOP_CFG_TYPE n.toNat) ≠ 0 ∧ loopSecond (s.m.reach t) (s.m.get (F.LOOP_TIMING_PERIOD n.toNat)) 0 = true ∧ loopAlone (s.m.reach t) n.toNat outR = true)) ∧ ((loopSees s.m (s.m.get (F.LOOP_POINTS_PV n.toNat)) pvR = true ∧ loopSees s.m (s.m.get (F.LOOP_POINTS_SP n.toNat)) spR = true ∧ loopSees s.m (s.m.get (F.LOOP_OUTPT_OUT n.toNat)) outR = true ∧ loopMayWrite s.m (s.m.get (F.LOOP_OUTPT_OUT n.toNat)) = true ∧ pvR.qual &&& 1#16 = 1#16 ∧ spR.qual &&& 1#16 = 1#16)) ∧ (((s.m.reach t).loopSt n.toNat)).base = lmMan) ∧
    (∃ (s : State) (t : Nat) (n : BitVec 8) (pvR : PRec) (spR : PRec) (outR : PRec), regsWf s.m.regs = true ∧ drumFires s.m dkLoopRun n.toNat 0 t = true ∧ ((s.m.inStep = true ∧ s.m.fclk = true ∧ s.m.get (F.LOOP_CFG_TYPE n.toNat) ≠ 0 ∧ loopSecond (s.m.reach t) (s.m.get (F.LOOP_TIMING_PERIOD n.toNat)) 0 = true ∧ loopAlone (s.m.reach t) n.toNat outR = true)) ∧ ((loopSees s.m (s.m.get (F.LOOP_POINTS_PV n.toNat)) pvR = true ∧ loopSees s.m (s.m.get (F.LOOP_POINTS_SP n.toNat)) spR = true ∧ loopSees s.m (s.m.get (F.LOOP_OUTPT_OUT n.toNat)) outR = true ∧ loopMayWrite s.m (s.m.get (F.LOOP_OUTPT_OUT n.toNat)) = true ∧ pvR.qual &&& 1#16 = 1#16 ∧ spR.qual &&& 1#16 = 1#16)) ∧ (((s.m.reach t).loopSt n.toNat)).base = lmAuto ∧ s.m.get (F.LOOP_MODE_ACT n.toNat) = lmAuto ∧ (((s.m.reach t).loopSt n.toNat)).cold = false ∧ (((s.m.reach t).loopSt n.toNat)).warm = false ∧ ((((s.m.reach t).loopSt n.toNat)).kp = s.m.word (R.LOOP_KP n.toNat) ∧ (((s.m.reach t).loopSt n.toNat)).td = s.m.word (R.LOOP_TD n.toNat) ∧ (((s.m.reach t).loopSt n.toNat)).weight = s.m.word (R.LOOP_WEIGHT n.toNat))) ∧
    (∃ (s : State) (t : Nat) (done : Bool) (n : BitVec 8) (o : Fin 48), regsWf s.m.regs = true ∧ drumFires s.m dkLoopLatch n.toNat 0 t = true ∧ s.m.inStep = true ∧ (s.m.reach t).latchNow n.toNat = true ∧ done = true ∧ actOutput (s.m.get (F.LOOP_CFG_ACT n.toNat)) = some o ∧ s.m.innerOf n.toNat = none ∧ mapGet (s.m.get (F.LOOP_OUTPT_OUT n.toNat)) s.m.mem.forces = none) ∧
    (∃ (s : State) (t : Nat) (w : Long) (done : Bool) (n : BitVec 8) (o : Fin 48), regsWf s.m.regs = true ∧ drumFires s.m dkLoopLatch n.toNat 0 t = true ∧ s.m.inStep = true ∧ (s.m.reach t).latchNow n.toNat = true ∧ done = true ∧ actOutput (s.m.get (F.LOOP_CFG_ACT n.toNat)) = some o ∧ s.m.innerOf n.toNat = none ∧ mapGet (s.m.get (F.LOOP_OUTPT_OUT n.toNat)) s.m.mem.forces = some w) ∧
    (∃ (s : State) (t : Nat) (done : Bool) (n : BitVec 8), regsWf s.m.regs = true ∧ drumFires s.m dkLoopLatch n.toNat 0 t = true ∧ s.m.inStep = true ∧ (s.m.reach t).latchNow n.toNat = true ∧ done = true ∧ ((actOutput (s.m.get (F.LOOP_CFG_ACT n.toNat)) = none ∨ (s.m.innerOf n.toNat).isSome = true))) ∧
    (∃ (s : State) (t : Nat) (done : Bool) (n : BitVec 8), regsWf s.m.regs = true ∧ drumFires s.m dkLoopLatch n.toNat 0 t = true ∧ s.m.inStep = true ∧ (s.m.reach t).latchNow n.toNat = true ∧ done = false ∧ s.m.exec.burst = none) ∧
    (∃ (s : State) (t : Nat) (n : BitVec 8), regsWf s.m.regs = true ∧ drumFires s.m dkLoopLatch n.toNat 0 t = true ∧ ((s.m.inStep = false ∨ (s.m.reach t).latchNow n.toNat = false))) ∧
    (∃ (s : State) (t : Nat) (p : Fin 19) (i : BitVec 16), regsWf s.m.regs = true ∧ drumFires s.m dkPoll p.val i.toNat t = true ∧ ((s.m.reqDef p i.toNat = none ∨ s.m.portEn p = false ∨ s.m.st = xStandby))) ∧
    (∃ (s : State) (t : Nat) (p : Fin 19) (i : BitVec 16) (r : PollReq), regsWf s.m.regs = true ∧ drumFires s.m dkPoll p.val i.toNat t = true ∧ ((s.m.reqDef p i.toNat = some r ∧ s.m.portEn p = true ∧ s.m.flag (F.FBUS_STATUS_NO_POWER p.val) = false ∧ s.m.flag (F.FBUS_STATUS_BUS_OFF p.val) = false ∧ (s.m.proto p ≠ prMbus ∨ s.m.isOn swMbus = true))) ∧ s.m.st ≠ xStandby ∧ s.m.proto p ≠ prCan ∧ s.m.proto p ≠ prTcp ∧ r.write = false ∧ r.needsReply = true ∧ (s.m.ports.port[p]).exch = none) ∧
    (∃ (s : State) (t : Nat) (dir : Fin 2) (list : BitVec 16), regsWf s.m.regs = true ∧ drumFires s.m dkMirror dir.val list.toNat t = true ∧ s.m.fclk = false) ∧
    (∃ (s : State) (t : Nat) (k : Nat) (dir : Fin 2) (list : BitVec 16), regsWf s.m.regs = true ∧ drumFires s.m dkMirror dir.val list.toNat t = true ∧ s.m.fclk = true ∧ dir = 0 ∧ s.m.plan.active.bind (fun x => mapGet list.toNat x.lists) = some [k] ∧ s.m.regionOk 11 1 (k * 256) = true ∧ s.m.loadCause k = none ∧ (s.m.dirEnt k).single = false) ∧
    (∃ (s : State) (t : Nat) (dir : Fin 2) (list : BitVec 16), regsWf s.m.regs = true ∧ drumFires s.m dkMirror dir.val list.toNat t = true ∧ s.m.fclk = true ∧ dir = 0 ∧ s.m.plan.active.bind (fun x => mapGet list.toNat x.lists) = none) ∧
    (∃ (s : State) (t : Nat) (dir : Fin 2) (list : BitVec 16), regsWf s.m.regs = true ∧ drumFires s.m dkMirror dir.val list.toNat t = true ∧ s.m.fclk = true ∧ dir = 1 ∧ s.m.twin.stream = []) ∧
    (∃ (s : State) (t : Nat) (k : Nat) (dir : Fin 2) (list : BitVec 16) (tdf : TileDef) (bytes : List Byte), regsWf s.m.regs = true ∧ drumFires s.m dkMirror dir.val list.toNat t = true ∧ s.m.fclk = true ∧ dir = 1 ∧ s.m.twin.stream = [(k, bytes)] ∧ bytes.length = 256 ∧ s.m.tileDef k = some tdf ∧ s.m.regionOk 11 2 (k * 256) = true ∧ ((s.m.st = xStandby ∨ (s.m.dirEnt k).faulted = true))) ∧
    (∃ (s : State) (t : Nat) (k : Nat) (dir : Fin 2) (list : BitVec 16) (tdf : TileDef) (bytes : List Byte), regsWf s.m.regs = true ∧ drumFires s.m dkMirror dir.val list.toNat t = true ∧ s.m.fclk = true ∧ dir = 1 ∧ s.m.twin.stream = [(k, bytes)] ∧ s.m.tileDef k = some tdf ∧ s.m.regionOk 11 2 (k * 256) = false) ∧
    (∃ (s : State) (t : Nat) (len : BitVec 16), regsWf s.m.regs = true ∧ drumFires s.m dkMeterWin 0 len.toNat t = true ∧ ((s.m.st = xStandby ∨ s.m.fclk = false ∨ (s.m.met.waiting = [] ∧ s.m.met.fresh = false)))) ∧
    (∃ (s : State) (t : Nat) (len : BitVec 16), regsWf s.m.regs = true ∧ drumFires s.m dkMeterWin 0 len.toNat t = true ∧ s.m.st ≠ xStandby ∧ s.m.fclk = true ∧ s.m.met.fresh = true ∧ s.m.met.waiting = [] ∧ s.m.points = []) ∧
    (∃ (s : State) (t : Nat) (k : Nat) (q : Nat) (pt : PointDef) (len : BitVec 16), regsWf s.m.regs = true ∧ drumFires s.m dkMeterWin 0 len.toNat t = true ∧ s.m.st ≠ xStandby ∧ s.m.fclk = true ∧ s.m.met.fresh = true ∧ s.m.met.waiting = [] ∧ s.m.points = [pt] ∧ pt.bind = .meter k q ∧ pt.slot < 16 ∧ s.m.regionOk 12 2 (pt.tile * 256) = true ∧ (s.m.dirEnt pt.tile).faulted = false ∧ (s.m.dirEnt pt.tile).dbl = false ∧ (s.m.dirEnt pt.tile).single = false) ∧
    (∃ (s : State) (t : Nat) (alive : Bool), regsWf s.m.regs = true ∧ drumFires s.m dkMgmtWin 0 20 t = true ∧ alive = false) ∧
    (∃ (s : State) (t : Nat) (k : Nat) (q : Nat) (hits : List Upset) (v : BitVec 8) (alive : Bool), regsWf s.m.regs = true ∧ drumFires s.m dkMgmtWin 0 20 t = true ∧ alive = false ∧ s.m.isOn (swPd 6) = true ∧ hits = [.byte k q v]) ∧
    (∃ (s : State) (t : Nat) (hits : List Upset) (alive : Bool), regsWf s.m.regs = true ∧ drumFires s.m dkMgmtWin 0 20 t = true ∧ alive = true ∧ s.m.isOn (swPd 3) = true ∧ bitAt s.m.pwr.unlocked 1 = false ∧ s.m.plan.migrated = false ∧ hits = []) ∧
    (∃ (s : State) (t : Nat) (alive : Bool) (pl : Plan), regsWf s.m.regs = true ∧ drumFires s.m dkMgmtWin 0 20 t = true ∧ alive = true ∧ s.m.isOn (swPd 3) = true ∧ bitAt s.m.pwr.unlocked 1 = false ∧ s.m.plan.migrated = false ∧ s.m.plan.armRecord = true ∧ s.m.plan.active = some pl) ∧
    (∃ (s : State) (t : Nat) (hits : List Upset) (alive : Bool), regsWf s.m.regs = true ∧ drumFires s.m dkMgmtWin 0 20 t = true ∧ alive = true ∧ s.m.plan.migrated = true ∧ s.m.isOn (swPd 3) = true ∧ bitAt s.m.pwr.unlocked 1 = false ∧ hits = []) ∧
    (∃ (s : State) (t : Nat) (hits : List Upset) (alive : Bool), regsWf s.m.regs = true ∧ drumFires s.m dkMgmtWin 0 20 t = true ∧ alive = true ∧ s.m.mgmtUp = true ∧ s.m.fclk = false ∧ s.m.coreBusy = false ∧ s.m.plan.armRecord = false ∧ s.m.plan.migrated = false ∧ s.m.logs.wab = [] ∧ s.m.logs.wabIntervals = [] ∧ s.m.logs.mirror = [] ∧ (s.m.sw[swPllM]).ph = .on ∧ hits = []) :=
  ⟨⟨drumAt 0 0 0 (st := 6), 0, 0, 0, 0, by decide +kernel⟩,
   ⟨drumAt 0 0 0, 1000000000, by decide +kernel⟩,
   ⟨drumAt 1 0 0, 0, by decide +kernel⟩,
   ⟨drumAt 2 0 0 (on := [3]), 0, by decide +kernel⟩,
   ⟨drumAt 2 0 0, 0, by decide +kernel⟩,
   ⟨drumAt 12 0 0 (on := [15]), 0, by decide +kernel⟩,
   ⟨drumAt 13 5 1, 0, 5, true, by decide +kernel⟩,
   ⟨drumAt 3 1 0 (pl := { onePlan with points := [{ idx := 7, tile := 0, slot := 0, ty := 1, cls := 0, bind := .di 47 }] }), 0, 1, 18, by decide +kernel⟩,
   ⟨at_ { ptMod with clk := { run := true }, plan := { ptMod.plan with drumA := [drumWord 3 1 0] } }, 0, { idx := 3, tile := 0, slot := 2, ty := 1, cls := 0 }, ⟨0, 2, 1⟩, 1, 0, by decide +kernel⟩,
   ⟨drumAt 4 1 3, 0, 1, 3, by decide +kernel⟩,
   ⟨drumAt 4 1 3 (on := [15]) (pl := {}), 0, 1, 3, by decide +kernel⟩,
   ⟨drumAt 4 1 3 (on := [15, 4]) (pl := { onePlan with tasks := [{ idx := 0, cls := 0, lane := 0, bursts := [3] }] }), 0, 0, 0, [], { idx := 0, cls := 0, lane := 0, bursts := [3] }, 1, 3, by decide +kernel⟩,
   ⟨drumAt 4 1 3 (st := 7), 0, 1, 3, by decide +kernel⟩,
   ⟨at_ { opBase with exec := { burst := some ⟨1, 3, 0⟩, wdArmed := true } }, by decide +kernel⟩,
   ⟨at_ opBase, by decide +kernel⟩,
   ⟨drumAt 5 0 0 (pl := { onePlan with points := [{ idx := 7, tile := 0, slot := 0, ty := 1, cls := 0, bind := .out 0 }] }), 0, 0, 0, by decide +kernel⟩,
   ⟨drumAt 5 0 0 (pl := { onePlan with points := [{ idx := 7, tile := 0, slot := 0, ty := 1, cls := 0, bind := .out 39 }] }), 0, 0, 39, by decide +kernel⟩,
   ⟨at_ { (drumAt 5 0 0 (pl := { onePlan with points := [{ idx := 7, tile := 0, slot := 0, ty := 1, cls := 0, bind := .out 38 }] })).m with outs := Mod.reset.outs.set 38 { staged := some 1 } }, 0, 0, 38, by decide +kernel⟩,
   ⟨at_ { (drumAt 5 0 0).m with exec := { burst := some ⟨1, 3, 0⟩ } }, 0, 0, ⟨1, 3, 0⟩, by decide +kernel⟩,
   ⟨at_ { opBase with sw := opBase.sw.set 15 { ph := .powering } }, by decide +kernel⟩,
   ⟨at_ { opBase with sw := opBase.sw.set 15 { ph := .powering }, exec := { late := true, burst := some ⟨1, 3, 0⟩ } }, by decide +kernel⟩,
   ⟨at_ opBase, by decide +kernel⟩,
   ⟨at_ { opBase with exec := { late := true, burst := some ⟨1, 3, 0⟩ }, clk := { run := true } }, 50000, ⟨1, 3, 0⟩, by decide +kernel⟩,
   ⟨at_ opBase, 0, ⟨1, 3, 0⟩, by decide +kernel⟩,
   ⟨at_ { opBase with exec := { wdArmed := true, wdDeadline := 900000, burst := some ⟨1, 3, 0⟩ }, clk := { run := true } }, 900000, ⟨1, 3, 0⟩, by decide +kernel⟩,
   ⟨at_ opBase, 0, ⟨1, 3, 0⟩, by decide +kernel⟩,
   ⟨at_ { opBase with exec := { safeCopy := some [] } }, false, by decide +kernel⟩,
   ⟨at_ opBase, true, by decide +kernel⟩,
   ⟨at_ { opBase with clk := { run := true } }, by decide +kernel⟩,
   ⟨at_ opBase, by decide +kernel⟩,
   ⟨drumAt 6 255 0, 0, 255, by decide +kernel⟩,
   ⟨loopAt 1, 0, 255, ⟨0x41200000, 1, 0, 0, 0⟩, ⟨0x41A00000, 1, 0, 0, 0⟩, ⟨0, 1, 0, 0, 0⟩, by decide +kernel⟩,
   ⟨loopAt 2, 0, 255, ⟨0x41200000, 1, 0, 0, 0⟩, ⟨0x41A00000, 1, 0, 0, 0⟩, ⟨0, 1, 0, 0, 0⟩, by decide +kernel⟩,
   ⟨drumAt 7 255 0 (fs := [(F.LOOP_CFG_TYPE 255, 1), (F.LOOP_CFG_ACT 255, 1)]), 0, true, 255, 24, by decide +kernel⟩,
   ⟨at_ { (drumAt 7 255 0 (fs := [(F.LOOP_CFG_TYPE 255, 1), (F.LOOP_CFG_ACT 255, 1), (F.LOOP_OUTPT_OUT 255, 3)])).m with mem := { forces := [(3, 9)] } }, 0, 9, true, 255, 24, by decide +kernel⟩,
   ⟨drumAt 7 255 0 (fs := [(F.LOOP_CFG_TYPE 255, 1)]), 0, true, 255, by decide +kernel⟩,
   ⟨drumAt 7 255 0 (fs := [(F.LOOP_CFG_TYPE 255, 1)]), 0, false, 255, by decide +kernel⟩,
   ⟨drumAt 7 255 0, 0, 255, by decide +kernel⟩,
   ⟨drumAt 8 18 0, 0, 18, 0, by decide +kernel⟩,
   ⟨at_ { (netAt 0 2 0 (run := false)).m with clk := { run := true }, plan := { active := some netPlan, drumA := [drumWord 8 0 0] } }, 0, 0, 0, { port := 0, idx := 0, station := 5, write := false, points := [7] }, by decide +kernel⟩,
   ⟨drumAt 10 0 0, 0, 0, 0, by decide +kernel⟩,
   ⟨at_ { (drumAt 10 0 0 (on := [15]) (pl := { onePlan with lists := [(0, [0])] }) (fs := [(F.TWIN_STATUS_LINK_UP, 1), (F.REGION_ATTR_EN 11 0, 1), (F.REGION_ATTR_R 11 0, 1), (F.REGION_LIMIT_LIMIT 11 0, 8191)])).m with mem := { dir := [(0, { kind := .point, crc := tileCrc 0 (Mod.reset.tileBytes 0) })] } }, 0, 0, 0, 0, by decide +kernel⟩,
   ⟨drumAt 10 0 0 (on := [15]), 0, 0, 0, by decide +kernel⟩,
   ⟨drumAt 10 1 0 (on := [15]) (pl := { onePlan with lists := [(0, [5])], points := [{ idx := 7, tile := 0, slot := 0, ty := 1, cls := 0, bind := .mirror 5 0 }] }), 0, 1, 0, by decide +kernel⟩,
   ⟨at_ { (drumAt 10 1 0 (st := 7) (on := [15]) (pl := { onePlan with tiles := [{ tile := 8191, kind := .point }] }) (fs := [(F.REGION_ATTR_EN 11 0, 1), (F.REGION_ATTR_W 11 0, 1), (F.REGION_LIMIT_LIMIT 11 0, 8191)])).m with twin := { stream := [(8191, List.replicate 256 1)] } }, 0, 8191, 1, 0, { tile := 8191, kind := .point }, List.replicate 256 1, by decide +kernel⟩,
   ⟨at_ { (drumAt 10 1 0 (st := 7) (on := [15]) (pl := { onePlan with tiles := [{ tile := 8191, kind := .point }] })).m with twin := { stream := [(8191, List.replicate 256 1)] } }, 0, 8191, 1, 0, { tile := 8191, kind := .point }, List.replicate 256 1, by decide +kernel⟩,
   ⟨drumAt 9 0 9, 0, 9, by decide +kernel⟩,
   ⟨at_ { (drumAt 9 0 9 (on := [15])).m with met := { fresh := true } }, 0, 9, by decide +kernel⟩,
   ⟨at_ { (drumAt 9 0 9 (on := [15]) (pl := { onePlan with points := [{ idx := 7, tile := 0, slot := 0, ty := 4, cls := 0, bind := .meter 0 0 }] }) (fs := [(F.REGION_ATTR_EN 12 0, 1), (F.REGION_ATTR_W 12 0, 1), (F.REGION_LIMIT_LIMIT 12 0, 8191)])).m with met := { fresh := true } }, 0, 0, 0, { idx := 7, tile := 0, slot := 0, ty := 4, cls := 0, bind := .meter 0 0 }, 9, by decide +kernel⟩,
   ⟨drumAt 11 0 20, 0, false, by decide +kernel⟩,
   ⟨drumAt 11 0 20 (on := [6]), 0, 0, 0, [.byte 0 0 7], 7, false, by decide +kernel⟩,
   ⟨drumAt 11 0 20 (on := [3, 15]), 0, [], true, by decide +kernel⟩,
   ⟨at_ { (drumAt 11 0 20 (on := [3])).m with plan := { (drumAt 11 0 20).m.plan with armRecord := true } }, 0, true, onePlan, by decide +kernel⟩,
   ⟨at_ { (drumAt 11 0 20 (on := [3])).m with plan := { (drumAt 11 0 20).m.plan with migrated := true } }, 0, [], true, by decide +kernel⟩,
   ⟨at_ { (drumAt 11 0 20 (on := [3, 16])).m with exec := { heartbeat := true } }, 0, [], true, by decide +kernel⟩⟩

theorem witness_ManagementRestartsSnapshotsAndSwaps :
    (∃ (s : State), regsWf s.m.regs = true ∧ s.m.isOn (swPd 3) = true ∧ xBit ≤ s.m.st ∧ s.m.plan.active.toList.all imageOk = true) ∧
    (∃ (s : State), regsWf s.m.regs = true ∧ ((s.m.isOn (swPd 3) = false ∨ s.m.st < xBit))) ∧
    (∃ (s : State), regsWf s.m.regs = true ∧ s.m.exec.heartbeat = false ∧ xBit ≤ s.m.st ∧ s.m.pwr.saving = false) ∧
    (∃ (s : State), regsWf s.m.regs = true ∧ ((s.m.exec.heartbeat = true ∨ s.m.st < xBit))) ∧
    (∃ (s : State) (due : Nat) (pl : Plan), regsWf s.m.regs = true ∧ s.m.exec.autoAt = some due ∧ s.m.st = xStopped ∧ due ≤ s.m.optime ∧ s.m.pwr.tcxoBad = false ∧ s.m.policy 4 ≠ 2 ∧ s.m.plan.active = some pl ∧ imageOk pl = true) ∧
    (∃ (s : State) (due : Nat), regsWf s.m.regs = true ∧ s.m.exec.autoAt = some due ∧ s.m.st = xStopped ∧ due ≤ s.m.optime ∧ s.m.pwr.tcxoBad = false ∧ s.m.policy 4 = 2) ∧
    (∃ (s : State) (due : Nat), regsWf s.m.regs = true ∧ ((s.m.exec.autoAt = none ∨ s.m.st ≠ xStopped ∨ s.m.pwr.tcxoBad = true ∨ (s.m.exec.autoAt = some due ∧ s.m.optime < due)))) ∧
    (∃ (s : State) (t : Nat) (due : Nat) (pl : Plan), regsWf s.m.regs = true ∧ s.m.exec.restartDue = some due ∧ s.m.plan.active = some pl ∧ ((s.m.inBit = true ∧ s.m.clk.run = true ∧ t % 1000000000 = 0 ∧ max due s.m.clk.ns ≤ t ∧ t < max due s.m.clk.ns + 1000000000)) ∧ ((pl.shadow = false ∨ (s.m.pwr.bar ≠ 2 ∧ (s.m.flag F.TWIN_STATUS_SIDE = false ∨ s.m.twin.paired = false))))) ∧
    (∃ (s : State) (t : Nat) (due : Nat) (pl : Plan), regsWf s.m.regs = true ∧ s.m.exec.restartDue = some due ∧ s.m.plan.active = some pl ∧ ((s.m.inBit = true ∧ s.m.clk.run = true ∧ t % 1000000000 = 0 ∧ max due s.m.clk.ns ≤ t ∧ t < max due s.m.clk.ns + 1000000000)) ∧ pl.shadow = true ∧ ((s.m.pwr.bar = 2 ∨ (s.m.flag F.TWIN_STATUS_SIDE = true ∧ s.m.twin.paired = true)))) ∧
    (∃ (s : State) (t : Nat), regsWf s.m.regs = true ∧ ((s.m.exec.restartDue = none ∨ s.m.plan.active = none ∨ s.m.inBit = false ∨ t % 1000000000 ≠ 0))) ∧
    (∃ (s : State) (x : Sess), regsWf s.m.regs = true ∧ s.m.st = xService ∧ ((s.m.exec.serviceSession.bind s.m.sess = none ∨ (s.m.exec.serviceSession.bind s.m.sess = some x ∧ x.lastAt + 900000 ≤ s.m.optime)))) ∧
    (∃ (s : State) (x : Sess), regsWf s.m.regs = true ∧ ((s.m.st ≠ xService ∨ (s.m.exec.serviceSession.bind s.m.sess = some x ∧ s.m.optime < x.lastAt + 900000)))) ∧
    (∃ (s : State) (pl : Plan), regsWf s.m.regs = true ∧ ((s.m.st = xRun ∧ 999750000 ≤ s.m.clk.ns % 1000000000 ∧ (s.m.clk.ns / 1000000000 + 1) % retainPeriod (s.m.get F.EXEC_RETAIN_CFG_PERIOD) = 0 ∧ s.m.plan.armed ≠ some (s.m.clk.ns / 1000000000 + 1) ∧ s.m.clk.stepPending = none ∧ s.m.mgmtUp = true ∧ s.m.flag F.EXEC_RETAIN_WRITING = false)) ∧ s.m.plan.active = some pl ∧ tilesSound s.m 9 pl.retainTiles = true ∧ ((if s.m.retain[0].ok then s.m.retain[0].seq else 0)) ≤ ((if s.m.retain[1].ok then s.m.retain[1].seq else 0))) ∧
    (∃ (s : State) (pl : Plan), regsWf s.m.regs = true ∧ ((s.m.st = xRun ∧ 999750000 ≤ s.m.clk.ns % 1000000000 ∧ (s.m.clk.ns / 1000000000 + 1) % retainPeriod (s.m.get F.EXEC_RETAIN_CFG_PERIOD) = 0 ∧ s.m.plan.armed ≠ some (s.m.clk.ns / 1000000000 + 1) ∧ s.m.clk.stepPending = none ∧ s.m.mgmtUp = true ∧ s.m.flag F.EXEC_RETAIN_WRITING = false)) ∧ s.m.plan.active = some pl ∧ tilesSound s.m 9 pl.retainTiles = true ∧ ((if s.m.retain[1].ok then s.m.retain[1].seq else 0)) < ((if s.m.retain[0].ok then s.m.retain[0].seq else 0))) ∧
    (∃ (s : State), regsWf s.m.regs = true ∧ ((s.m.st ≠ xRun ∨ s.m.plan.active = none ∨ s.m.mgmtUp = false ∨ s.m.clk.ns % 1000000000 < 999750000 ∨ s.m.clk.stepPending.isSome = true ∨ s.m.flag F.EXEC_RETAIN_WRITING = true ∨ s.m.plan.armed = some (s.m.clk.ns / 1000000000 + 1)))) ∧
    (∃ (s : State) (r : BuildResult) (pl : Plan) (pkg : Package), regsWf s.m.regs = true ∧ ((s.m.mgmtUp = true ∧ s.m.st = xPlanning ∧ s.m.exec.startType.isSome = true ∧ s.m.activePkg = some pkg)) ∧ s.m.planResult pkg r = true ∧ s.m.checked r = .plan pl) ∧
    (∃ (s : State) (r : BuildResult) (pkg : Package) (chk : Nat) (det : Nat), regsWf s.m.regs = true ∧ ((s.m.mgmtUp = true ∧ s.m.st = xPlanning ∧ s.m.exec.startType.isSome = true ∧ s.m.activePkg = some pkg)) ∧ s.m.planResult pkg r = true ∧ s.m.checked r = .failed chk det) ∧
    (∃ (s : State) (pl : Plan) (pkg : Package), regsWf s.m.regs = true ∧ ((s.m.mgmtUp = true ∧ s.m.exec.startType = none ∧ (s.m.get F.PLAN_STATUS_STATE = 1 ∨ s.m.get F.PLAN_STATUS_STATE = 2) ∧ s.m.plan.sent = some pkg)) ∧ s.m.plan.image = some pl ∧ pl.plannerVer = s.m.get F.KEY_FW_VER_VERSION ∧ pl.verify s.m.sysId = none) ∧
    (∃ (s : State) (pl : Plan) (pkg : Package) (chk : Nat) (det : Nat), regsWf s.m.regs = true ∧ ((s.m.mgmtUp = true ∧ s.m.exec.startType = none ∧ (s.m.get F.PLAN_STATUS_STATE = 1 ∨ s.m.get F.PLAN_STATUS_STATE = 2) ∧ s.m.plan.sent = some pkg)) ∧ s.m.plan.image = some pl ∧ pl.plannerVer = s.m.get F.KEY_FW_VER_VERSION ∧ pl.verify s.m.sysId = some (chk, det)) ∧
    (∃ (s : State) (r : BuildResult) (pl : Plan) (new : Plan) (pkg : Package), regsWf s.m.regs = true ∧ ((s.m.mgmtUp = true ∧ s.m.exec.startType = none ∧ (s.m.get F.PLAN_STATUS_STATE = 1 ∨ s.m.get F.PLAN_STATUS_STATE = 2) ∧ s.m.plan.sent = some pkg)) ∧ ((s.m.plan.image = none ∨ (s.m.plan.image = some new ∧ new.plannerVer ≠ s.m.get F.KEY_FW_VER_VERSION))) ∧ s.m.planResult pkg r = true ∧ s.m.checked r = .plan pl) ∧
    (∃ (s : State) (r : BuildResult) (new : Plan) (pkg : Package) (chk : Nat) (det : Nat), regsWf s.m.regs = true ∧ ((s.m.mgmtUp = true ∧ s.m.exec.startType = none ∧ (s.m.get F.PLAN_STATUS_STATE = 1 ∨ s.m.get F.PLAN_STATUS_STATE = 2) ∧ s.m.plan.sent = some pkg)) ∧ ((s.m.plan.image = none ∨ (s.m.plan.image = some new ∧ new.plannerVer ≠ s.m.get F.KEY_FW_VER_VERSION))) ∧ s.m.planResult pkg r = true ∧ s.m.checked r = .failed chk det) ∧
    (∃ (s : State) (r : BuildResult) (pl : Plan) (old : Plan) (pkg : Package), regsWf s.m.regs = true ∧ ((s.m.mgmtUp = true ∧ s.m.plan.replan = true ∧ s.m.st = xRun ∧ (s.m.get F.PLAN_STATUS_STATE = 0 ∨ s.m.get F.PLAN_STATUS_STATE = 5) ∧ s.m.activePkg = some pkg ∧ s.m.plan.active = some old)) ∧ s.m.planResult pkg r = true ∧ s.m.checked r = .plan pl ∧ onlineOk old pl = true ∧ pl.safetyDiff = false) ∧
    (∃ (s : State) (r : BuildResult) (pl : Plan) (old : Plan) (pkg : Package) (chk : Nat) (det : Nat), regsWf s.m.regs = true ∧ ((s.m.mgmtUp = true ∧ s.m.plan.replan = true ∧ s.m.st = xRun ∧ (s.m.get F.PLAN_STATUS_STATE = 0 ∨ s.m.get F.PLAN_STATUS_STATE = 5) ∧ s.m.activePkg = some pkg ∧ s.m.plan.active = some old)) ∧ s.m.planResult pkg r = true ∧ ((s.m.checked r = .failed chk det ∨ (s.m.checked r = .plan pl ∧ onlineOk old pl = false)))) ∧
    (∃ (s : State), regsWf s.m.regs = true ∧ ((s.m.mgmtUp = false ∨ (s.m.st = xRun ∧ s.m.plan.replan = false ∧ s.m.get F.PLAN_STATUS_STATE ≠ 1 ∧ s.m.get F.PLAN_STATUS_STATE ≠ 2)))) ∧
    (∃ (s : State) (sec : Nat) (old : Plan) (new : Plan), regsWf s.m.regs = true ∧ ((s.m.plan.armed = some sec ∧ s.m.cand = some new ∧ s.m.plan.active = some old ∧ s.m.running = true ∧ s.m.clk.run = true)) ∧ s.m.plan.migrated = false ∧ s.m.clk.ns ≤ ((sec * 1000000000 - 250000)) ∧ ¬ ((faultedCount s.m.mem.dir ≠ 0 ∨ (s.m.get F.TWIN_STATUS_MODE ≠ 0 ∧ s.m.pwr.bar ≠ 0 ∧ s.m.twin.confirmed ≠ some sec) ∨ s.m.clk.stepPending.isSome = true)) ∧ tilesSound s.m 9 (((migTiles old new).flatMap (migSources old new)).eraseDups) = true) ∧
    (∃ (s : State) (sec : Nat) (old : Plan) (new : Plan), regsWf s.m.regs = true ∧ ((s.m.plan.armed = some sec ∧ s.m.cand = some new ∧ s.m.plan.active = some old ∧ s.m.running = true ∧ s.m.clk.run = true)) ∧ s.m.plan.migrated = false ∧ s.m.clk.ns ≤ ((sec * 1000000000 - 250000)) ∧ ((faultedCount s.m.mem.dir ≠ 0 ∨ (s.m.get F.TWIN_STATUS_MODE ≠ 0 ∧ s.m.pwr.bar ≠ 0 ∧ s.m.twin.confirmed ≠ some sec) ∨ s.m.clk.stepPending.isSome = true)) ∧ s.m.plan.deferred < 9) ∧
    (∃ (s : State) (sec : Nat) (old : Plan) (new : Plan), regsWf s.m.regs = true ∧ ((s.m.plan.armed = some sec ∧ s.m.cand = some new ∧ s.m.plan.active = some old ∧ s.m.running = true ∧ s.m.clk.run = true)) ∧ s.m.plan.migrated = false ∧ s.m.clk.ns ≤ ((sec * 1000000000 - 250000)) ∧ ((faultedCount s.m.mem.dir ≠ 0 ∨ (s.m.get F.TWIN_STATUS_MODE ≠ 0 ∧ s.m.pwr.bar ≠ 0 ∧ s.m.twin.confirmed ≠ some sec) ∨ s.m.clk.stepPending.isSome = true)) ∧ 9 ≤ s.m.plan.deferred) ∧
    (∃ (s : State) (sec : Nat), regsWf s.m.regs = true ∧ ((s.m.plan.armed = none ∨ s.m.running = false ∨ s.m.plan.migrated = true ∨ (s.m.plan.armed = some sec ∧ ((sec * 1000000000 - 250000)) < s.m.clk.ns)))) ∧
    (∃ (s : State) (sec : Nat) (old : Plan) (new : Plan), regsWf s.m.regs = true ∧ ((s.m.plan.armed = some sec ∧ s.m.cand = some new ∧ s.m.plan.active = some old ∧ s.m.running = true ∧ s.m.clk.run = true)) ∧ s.m.plan.migrated = true ∧ s.m.clk.ns ≤ sec * 1000000000 ∧ imageOk old = true ∧ imageOk new = true) ∧
    (∃ (s : State) (sec : Nat), regsWf s.m.regs = true ∧ ((s.m.plan.armed = none ∨ s.m.running = false ∨ s.m.plan.migrated = false ∨ (s.m.plan.armed = some sec ∧ sec * 1000000000 < s.m.clk.ns)))) :=
  ⟨⟨at_ (upMod 5), by decide +kernel⟩,
   ⟨at_ (lit [] Mod.reset), by decide +kernel⟩,
   ⟨at_ { upMod 5 with exec := { heartbeat := false } }, by decide +kernel⟩,
   ⟨at_ (upMod 5), by decide +kernel⟩,
   ⟨at_ { upMod 6 with exec := { autoAt := some 0 } }, 0, onePlan, by decide +kernel⟩,
   ⟨at_ { upMod 6 [(F.EXEC_POLICY_CAUSE4, 2)] with exec := { autoAt := some 0 } }, 0, by decide +kernel⟩,
   ⟨at_ (upMod 5), 0, by decide +kernel⟩,
   ⟨at_ { upMod 3 with exec := { restartDue := some 0 } }, 1000000000, 0, onePlan, by decide +kernel⟩,
   ⟨at_ { upMod 3 with exec := { restartDue := some 0 }, plan := { active := some { shadow := true } }, pwr := { bar := 2 } }, 1000000000, 0, { shadow := true }, by decide +kernel⟩,
   ⟨at_ (upMod 5), 0, by decide +kernel⟩,
   ⟨at_ (upMod 8), { role := .service }, by decide +kernel⟩,
   ⟨at_ (upMod 5), { role := .service }, by decide +kernel⟩,
   ⟨at_ { upMod 5 with clk := { run := true, ns := 59999800000 } }, onePlan, by decide +kernel⟩,
   ⟨at_ { upMod 5 with clk := { run := true, ns := 59999800000 }, retain := Mod.reset.retain.set 0 { seq := 3, ok := true } }, onePlan, by decide +kernel⟩,
   ⟨at_ (upMod 5), by decide +kernel⟩,
   ⟨at_ startMod, .plan builtPlan, builtPlan, builtPlan, ⟨by decide +kernel, ⟨by decide +kernel, by decide +kernel, by decide +kernel, rfl⟩, result_built _ (by decide +kernel) (by decide +kernel) (Or.inr (Or.inr rfl)), checked_built _ (by decide +kernel)⟩⟩,
   ⟨at_ startMod, .failed refused.1 refused.2, builtPlan, refused.1, refused.2, ⟨by decide +kernel, ⟨by decide +kernel, by decide +kernel, by decide +kernel, rfl⟩, result_refused _ (by decide +kernel) (by decide +kernel), rfl⟩⟩,
   ⟨at_ (sentMod (some goodPlan)), goodPlan, goodPlan, by decide +kernel⟩,
   ⟨at_ (sentMod (some onePlan)), onePlan, goodPlan, 1, 0, by decide +kernel⟩,
   ⟨at_ (sentMod none), .plan builtPlan, builtPlan, goodPlan, builtPlan, ⟨by decide +kernel, ⟨by decide +kernel, by decide +kernel, by decide +kernel, rfl⟩, Or.inl rfl, result_built _ (by decide +kernel) (by decide +kernel) (Or.inl rfl), checked_built _ (by decide +kernel)⟩⟩,
   ⟨at_ (sentMod none), .failed refused.1 refused.2, goodPlan, builtPlan, refused.1, refused.2, ⟨by decide +kernel, ⟨by decide +kernel, by decide +kernel, by decide +kernel, rfl⟩, Or.inl rfl, result_refused _ (by decide +kernel) (by decide +kernel), rfl⟩⟩,
   ⟨at_ replanMod, .plan builtPlan, builtPlan, {}, builtPlan, ⟨by decide +kernel, ⟨by decide +kernel, by decide +kernel, by decide +kernel, by decide +kernel, rfl, rfl⟩, result_built _ (by decide +kernel) (by decide +kernel) (Or.inr (Or.inl rfl)), checked_built _ (by decide +kernel), by decide +kernel, rfl⟩⟩,
   ⟨at_ replanMod, .failed refused.1 refused.2, goodPlan, {}, builtPlan, refused.1, refused.2, ⟨by decide +kernel, ⟨by decide +kernel, by decide +kernel, by decide +kernel, by decide +kernel, rfl, rfl⟩, result_refused _ (by decide +kernel) (by decide +kernel), Or.inl rfl⟩⟩,
   ⟨at_ (upMod 5), by decide +kernel⟩,
   ⟨at_ { upMod 5 [(F.PLAN_STATUS_STATE, 4)] with plan := { active := some onePlan, armed := some 9, slots := Mod.reset.plan.slots.set 1 (some goodPlan) } }, 9, onePlan, goodPlan, by decide +kernel⟩,
   ⟨at_ { upMod 5 [(F.PLAN_STATUS_STATE, 4)] with mem := { dir := [(0, { kind := .point, faulted := true })] }, plan := { active := some onePlan, armed := some 9, slots := Mod.reset.plan.slots.set 1 (some goodPlan) } }, 9, onePlan, goodPlan, by decide +kernel⟩,
   ⟨at_ { upMod 5 [(F.PLAN_STATUS_STATE, 4)] with mem := { dir := [(0, { kind := .point, faulted := true })] }, plan := { active := some onePlan, armed := some 9, deferred := 9, slots := Mod.reset.plan.slots.set 1 (some goodPlan) } }, 9, onePlan, goodPlan, by decide +kernel⟩,
   ⟨at_ (upMod 5), 9, by decide +kernel⟩,
   ⟨at_ { upMod 5 [(F.PLAN_STATUS_STATE, 4)] with plan := { active := some onePlan, armed := some 9, migrated := true, slots := Mod.reset.plan.slots.set 1 (some goodPlan) }, orpor := { sessions := [(3, { role := .tenant, scope := 5 })] } }, 9, onePlan, goodPlan, by decide +kernel⟩,
   ⟨at_ (upMod 5), 9, by decide +kernel⟩⟩

theorem witness_SuppliesAndDomainsStartTheModule :
    (∃ (s : State) (vin : BitVec 16), regsWf s.m.regs = true ∧ 17500 < vin.toNat ∧ s.m.pdPh 1 = .off) ∧
    (∃ (s : State) (vin : BitVec 16), regsWf s.m.regs = true ∧ ((vin.toNat ≤ 17500 ∨ s.m.pdPh 1 ≠ .off))) ∧
    (∃ (s : State), regsWf s.m.regs = true ∧ s.m.flag F.PWR_STATUS_VIN_OK = true ∧ s.m.pdPh 1 = .off) ∧
    (∃ (s : State), regsWf s.m.regs = true ∧ ((s.m.flag F.PWR_STATUS_VIN_OK = false ∨ s.m.pdPh 1 ≠ .off))) ∧
    (∃ (s : State) (d : Fin 15), regsWf s.m.regs = true ∧ s.m.pdPh d.val = .powering ∧ (s.m.sw[swPd d]).pendOff = false ∧ s.m.pdWant d.val = true ∧ s.m.pwr.causes = 0 ∧ s.m.exec.burst = none ∧ ((d.val ≠ 3 ∨ s.m.st ≠ xBoot))) ∧
    (∃ (s : State) (d : Fin 15), regsWf s.m.regs = true ∧ s.m.pdPh d.val = .powering ∧ (s.m.sw[swPd d]).pendOff = true ∧ s.m.pdWant d.val = false ∧ s.m.pwr.causes = 0 ∧ s.m.exec.burst = none ∧ ((d.val ≠ 3 ∨ s.m.st ≠ xBoot))) ∧
    (∃ (s : State) (d : Fin 15), regsWf s.m.regs = true ∧ d.val = 3 ∧ s.m.pdPh 3 = .powering ∧ s.m.st = xBoot ∧ s.m.pdWant 3 = true ∧ (s.m.sw[swPd 3]).pendOff = false ∧ s.m.pwr.causes = 0 ∧ s.m.exec.burst = none ∧ s.m.pwr.sampled.recovery = true) ∧
    (∃ (s : State) (d : Fin 15), regsWf s.m.regs = true ∧ s.m.pdPh d.val ≠ .powering) ∧
    (∃ (s : State), regsWf s.m.regs = true ∧ s.m.clk.run = false ∧ s.m.pwr.tcxoBad = false ∧ s.m.pdWant 2 = true ∧ s.m.isOn (swPd 1) = true) ∧
    (∃ (s : State), regsWf s.m.regs = true ∧ ((s.m.clk.run = true ∨ s.m.pwr.tcxoBad = true ∨ s.m.pdWant 2 = false ∨ s.m.isOn (swPd 1) = false))) ∧
    (∃ (s : State), regsWf s.m.regs = true ∧ s.m.st = xBoot ∧ s.m.pwr.bootWait = [] ∧ s.m.pwr.resetLow = false ∧ s.m.pdWant 3 = true ∧ s.m.pdPh 3 = .on) ∧
    (∃ (s : State), regsWf s.m.regs = true ∧ xBit ≤ s.m.st ∧ s.m.isOn (swPd 3) = true ∧ bitAt s.m.pwr.unlocked 1 = false) ∧
    (∃ (s : State), regsWf s.m.regs = true ∧ s.m.st = xBoot ∧ ((s.m.pwr.bootWait ≠ [] ∨ s.m.pwr.resetLow = true ∨ s.m.pdWant 3 = false))) ∧
    (∃ (s : State), regsWf s.m.regs = true ∧ s.m.st ≠ xBoot ∧ ((s.m.st < xBit ∨ s.m.isOn (swPd 3) = false ∨ bitAt s.m.pwr.unlocked 1 = true))) ∧
    (∃ (s : State) (ty : Nat) (pl : Plan), regsWf s.m.regs = true ∧ s.m.exec.startType = some ty ∧ s.m.activeSlot = some pl ∧ s.m.inBit = true ∧ s.m.mgmtUp = true ∧ s.m.planUsable pl = true ∧ imageOk pl = true) ∧
    (∃ (s : State), regsWf s.m.regs = true ∧ ((s.m.exec.startType = none ∨ s.m.activeSlot = none ∨ s.m.inBit = false ∨ s.m.mgmtUp = false))) ∧
    (∃ (s : State) (d : Fin 15), regsWf s.m.regs = true ∧ s.m.pdPh d.val = .powering ∧ s.m.swPast (swPd d) (faultTime d.val) = true ∧ s.m.st = xBoot) ∧
    (∃ (s : State) (d : Fin 15), regsWf s.m.regs = true ∧ s.m.pdPh d.val = .powering ∧ s.m.swPast (swPd d) (faultTime d.val) = true ∧ s.m.st ≠ xBoot ∧ ((s.m.exec.burst = none ∨ s.m.unfinished = 0 ∨ (d.val ≠ 4 ∧ d.val ≠ 5 ∧ d.val ≠ 6)))) ∧
    (∃ (s : State) (d : Fin 15) (b : BurstSt), regsWf s.m.regs = true ∧ s.m.pdPh d.val = .powering ∧ s.m.swPast (swPd d) (faultTime d.val) = true ∧ ((s.m.st = xRun ∨ s.m.st = xStandby)) ∧ s.m.exec.burst = some b ∧ s.m.unfinished ≠ 0 ∧ ((d.val = 4 ∨ d.val = 5 ∨ d.val = 6))) ∧
    (∃ (s : State) (d : Fin 15), regsWf s.m.regs = true ∧ ((s.m.pdPh d.val ≠ .powering ∨ s.m.swPast (swPd d) (faultTime d.val) = false))) ∧
    (∃ (s : State), regsWf s.m.regs = true ∧ s.m.st = xBoot) ∧
    (∃ (s : State), regsWf s.m.regs = true ∧ s.m.st ≠ xBoot) ∧
    (∃ (s : State) (f : Fin 31), regsWf s.m.regs = true ∧ ((s.m.sw[f])).ph = .shutting ∧ s.m.swPast f (offTime f.val) = true ∧ 15 ≤ f.val ∧ s.m.pwr.causes = 0) ∧
    (∃ (s : State) (d : Fin 15) (f : Fin 31), regsWf s.m.regs = true ∧ ((s.m.sw[f])).ph = .shutting ∧ s.m.swPast f (offTime f.val) = true ∧ f.val = d.val ∧ s.m.pwr.causes = 0 ∧ s.m.pdWant d.val = false ∧ d.val ≠ 11 ∧ d.val ≠ 12) ∧
    (∃ (s : State) (d : Fin 15) (f : Fin 31), regsWf s.m.regs = true ∧ ((s.m.sw[f])).ph = .shutting ∧ s.m.swPast f (offTime f.val) = true ∧ f.val = d.val ∧ s.m.pwr.causes = 0 ∧ s.m.pdWant d.val = false ∧ ((d.val = 11 ∨ d.val = 12))) ∧
    (∃ (s : State) (f : Fin 31), regsWf s.m.regs = true ∧ ((((s.m.sw[f])).ph ≠ .shutting ∨ s.m.swPast f (offTime f.val) = false))) ∧
    (∃ (s : State) (f : Fin 31) (ty : Nat), regsWf s.m.regs = true ∧ ((((s.m.sw[f])).ph = .off ∧ ((s.m.sw[f])).pendOn = true ∧ (((s.m.sw[f])).offAt = none ∨ s.m.clk.run = false ∨ ((s.m.sw[f])).offAt = some ty ∧ ty + 1250 ≤ s.m.clk.mono)))) ∧
    (∃ (s : State) (f : Fin 31) (ty : Nat), regsWf s.m.regs = true ∧ ((((s.m.sw[f])).ph ≠ .off ∨ ((s.m.sw[f])).pendOn = false ∨ (((s.m.sw[f])).offAt = some ty ∧ s.m.clk.run = true ∧ s.m.clk.mono < ty + 1250)))) ∧
    (∃ (s : State), regsWf s.m.regs = true ∧ s.m.pdWant 14 = true ∧ s.m.pdPh 14 = .powering ∧ s.m.swPast (swPd 14) 10500 = true) ∧
    (∃ (s : State), regsWf s.m.regs = true ∧ ((s.m.pdWant 14 = false ∨ s.m.pdPh 14 ≠ .powering ∨ s.m.swPast (swPd 14) 10500 = false))) ∧
    (∃ (s : State), regsWf s.m.regs = true ∧ s.m.isOn (swPd 1) = true ∧ s.m.flag F.PWR_STATUS_VIN_OK = false) ∧
    (∃ (s : State), regsWf s.m.regs = true ∧ s.m.isOn (swPd 1) = true ∧ s.m.flag F.PWR_STATUS_VIN_OK = true ∧ s.m.pwr.saving = false) ∧
    (∃ (s : State), regsWf s.m.regs = true ∧ s.m.isOn (swPd 1) = false) ∧
    (∃ (s : State), regsWf s.m.regs = true ∧ s.m.pwr.causes = 0) ∧
    (∃ (s : State), regsWf s.m.regs = true ∧ ((s.m.pwr.causes ≠ 0 ∧ s.m.pwr.saving = false ∧ s.m.flag F.PWR_STATUS_VIN_OK = true)) ∧ s.m.pdWant 2 = true ∧ s.m.isOn (swPd 2) = true) :=
  ⟨⟨at_ Mod.reset, 24000, by decide +kernel⟩,
   ⟨at_ Mod.reset, 17500, by decide +kernel⟩,
   ⟨at_ (rig [(F.PWR_STATUS_VIN_OK, 1)]), by decide +kernel⟩,
   ⟨at_ Mod.reset, by decide +kernel⟩,
   ⟨at_ { lit [1, 2] opBase with sw := (lit [1, 2] opBase).sw.set 10 { ph := .powering }, pwr := { want := 1030 } }, 10, by decide +kernel⟩,
   ⟨at_ { lit [1, 2] opBase with sw := (lit [1, 2] opBase).sw.set 10 { ph := .powering, pendOff := true }, pwr := { want := 6 } }, 10, by decide +kernel⟩,
   ⟨at_ { lit [1, 2] opBase with regs := (rig [(F.EXEC_STATE_STATE, 1)] opBase).regs, sw := (lit [1, 2] opBase).sw.set 3 { ph := .powering }, pwr := { want := 14, sampled := { recovery := true } } }, 3, by decide +kernel⟩,
   ⟨at_ Mod.reset, 10, by decide +kernel⟩,
   ⟨at_ { lit [1] (rig [(F.PWR_STATUS_VIN_OK, 1)]) with pwr := { want := 6, causes := 1 } }, by decide +kernel⟩,
   ⟨at_ Mod.reset, by decide +kernel⟩,
   ⟨at_ { lit [1, 2, 3, 16, 20] (rig [(F.EXEC_STATE_STATE, 1)]) with pwr := { want := 17166 } }, by decide +kernel⟩,
   ⟨at_ { upMod 5 with exec := {} }, by decide +kernel⟩,
   ⟨at_ (rig [(F.EXEC_STATE_STATE, 1)]), by decide +kernel⟩,
   ⟨at_ (rig [(F.EXEC_STATE_STATE, 6)]), by decide +kernel⟩,
   ⟨at_ { upMod 3 with exec := { heartbeat := true, startType := some 1 }, plan := { slots := Mod.reset.plan.slots.set 0 (some goodPlan) } }, 1, goodPlan, by decide +kernel⟩,
   ⟨at_ Mod.reset, by decide +kernel⟩,
   ⟨at_ { lit [1, 2] (rig [(F.EXEC_STATE_STATE, 1)] opBase) with sw := (lit [1, 2] opBase).sw.set 10 { ph := .powering }, pwr := { want := 1030 } }, 10, by decide +kernel⟩,
   ⟨at_ { lit [1, 2] opBase with sw := (lit [1, 2] opBase).sw.set 10 { ph := .powering }, pwr := { want := 1030 } }, 10, by decide +kernel⟩,
   ⟨at_ { lit [1, 2] opBase with sw := (lit [1, 2] opBase).sw.set 4 { ph := .powering }, exec := { burst := some ⟨1, 3, 0⟩, late := true }, lanes := opBase.lanes.set 0 { todo := [0] }, pwr := { want := 22 } }, 4, ⟨1, 3, 0⟩, by decide +kernel⟩,
   ⟨at_ Mod.reset, 10, by decide +kernel⟩,
   ⟨at_ { lit [1, 2] (rig [(F.EXEC_STATE_STATE, 1)] opBase) with pwr := { want := 1030, bootWait := [10] } }, by decide +kernel⟩,
   ⟨at_ opBase, by decide +kernel⟩,
   ⟨at_ { opBase with sw := opBase.sw.set 29 { ph := .shutting } }, 29, by decide +kernel⟩,
   ⟨at_ { opBase with sw := opBase.sw.set 10 { ph := .shutting } }, 10, 10, by decide +kernel⟩,
   ⟨at_ { opBase with sw := opBase.sw.set 11 { ph := .shutting } }, 11, 11, by decide +kernel⟩,
   ⟨at_ Mod.reset, 29, by decide +kernel⟩,
   ⟨at_ { opBase with sw := opBase.sw.set 29 { pendOn := true } }, 29, 0, by decide +kernel⟩,
   ⟨at_ Mod.reset, 29, 0, by decide +kernel⟩,
   ⟨at_ { opBase with sw := opBase.sw.set 14 { ph := .powering }, pwr := { want := 16384 } }, by decide +kernel⟩,
   ⟨at_ Mod.reset, by decide +kernel⟩,
   ⟨at_ (lit [1] Mod.reset), by decide +kernel⟩,
   ⟨at_ (upMod 5), by decide +kernel⟩,
   ⟨at_ Mod.reset, by decide +kernel⟩,
   ⟨at_ Mod.reset, by decide +kernel⟩,
   ⟨at_ { upMod 1 with pwr := { want := 14, causes := 4, resetLow := true } }, by decide +kernel⟩⟩

theorem witness_PowerFailSaveAndClockFaults :
    (∃ (s : State), regsWf s.m.regs = true ∧ s.m.isOn (swPd 1) = true ∧ s.m.flag F.PWR_STATUS_VIN_OK = true ∧ s.m.pwr.saving = false) ∧
    (∃ (s : State), regsWf s.m.regs = true ∧ ((s.m.isOn (swPd 1) = false ∨ s.m.flag F.PWR_STATUS_VIN_OK = false ∨ s.m.pwr.saving = true))) ∧
    (∃ (s : State), regsWf s.m.regs = true ∧ s.m.pwr.saving = true ∧ s.m.pwr.vinBack = false ∧ ((s.m.pwr.causes = 0 ∨ s.m.flag F.PWR_STATUS_VIN_OK = false))) ∧
    (∃ (s : State), regsWf s.m.regs = true ∧ s.m.pwr.saving = true ∧ s.m.pwr.vinBack = true) ∧
    (∃ (s : State), regsWf s.m.regs = true ∧ s.m.pwr.saving = false) ∧
    (∃ (s : State), regsWf s.m.regs = true ∧ s.m.isOn (swPd 1) = true ∧ s.m.flag F.PWR_STATUS_VIN_OK = false ∧ s.m.pwr.saving = true) ∧
    (∃ (s : State), regsWf s.m.regs = true ∧ s.m.isOn (swPd 1) = true ∧ s.m.flag F.PWR_STATUS_VIN_OK = false ∧ s.m.pwr.saving = false) ∧
    (∃ (s : State), regsWf s.m.regs = true ∧ ((s.m.isOn (swPd 1) = false ∨ s.m.flag F.PWR_STATUS_VIN_OK = true))) ∧
    (∃ (s : State), regsWf s.m.regs = true ∧ s.m.pdPh 1 ≠ .off ∧ s.m.flag F.PWR_STATUS_VIN_OK = false ∧ s.m.pwr.saving = false) ∧
    (∃ (s : State), regsWf s.m.regs = true ∧ s.m.pdPh 1 ≠ .off ∧ s.m.flag F.PWR_STATUS_VIN_OK = false ∧ s.m.pwr.saving = true) ∧
    (∃ (s : State), regsWf s.m.regs = true ∧ ((s.m.pdPh 1 = .off ∨ s.m.flag F.PWR_STATUS_VIN_OK = true))) ∧
    (∃ (s : State), regsWf s.m.regs = true ∧ s.m.clk.run = true ∧ s.m.running = false) ∧
    (∃ (s : State) (b : BurstSt), regsWf s.m.regs = true ∧ s.m.clk.run = true ∧ s.m.running = true ∧ s.m.exec.burst = some b) ∧
    (∃ (s : State), regsWf s.m.regs = true ∧ s.m.clk.run = true ∧ s.m.running = true ∧ s.m.exec.burst = none) ∧
    (∃ (s : State), regsWf s.m.regs = true ∧ s.m.clk.run = false) ∧
    (∃ (s : State), regsWf s.m.regs = true ∧ s.m.pwr.tcxoBad = true ∧ s.m.exec.waitRestart = none ∧ s.m.pwr.causes = 0) ∧
    (∃ (s : State) (c : Nat) (ty : Nat) (pl : Plan), regsWf s.m.regs = true ∧ s.m.pwr.tcxoBad = true ∧ s.m.exec.waitRestart = some (c, ty) ∧ c < 9 ∧ c ≠ 7 ∧ ty < 2 ∧ s.m.plan.active = some pl ∧ imageOk pl = true) ∧
    (∃ (s : State) (ty : Nat) (pl : Plan), regsWf s.m.regs = true ∧ s.m.pwr.tcxoBad = true ∧ s.m.exec.waitRestart = some (7, ty) ∧ ty < 2 ∧ s.m.candSlot = some pl ∧ s.m.noPair = false ∧ imageOk pl = true ∧ s.m.plan.active.toList.all imageOk = true) ∧
    (∃ (s : State), regsWf s.m.regs = true ∧ s.m.pwr.tcxoBad = false) ∧
    (∃ (s : State), regsWf s.m.regs = true ∧ s.m.pwr.tcxoBad = true ∧ s.m.pwr.saving = false) ∧
    (∃ (s : State) (p : Fin 5), regsWf s.m.regs = true ∧ s.m.isOn (pllOf p) = true ∧ bitAt s.m.pwr.unlocked p.val = false ∧ p.val < 2) ∧
    (∃ (s : State) (p : Fin 5), regsWf s.m.regs = true ∧ s.m.isOn (pllOf p) = true ∧ bitAt s.m.pwr.unlocked p.val = false ∧ p.val = 2) ∧
    (∃ (s : State) (p : Fin 5), regsWf s.m.regs = true ∧ s.m.isOn (pllOf p) = true ∧ bitAt s.m.pwr.unlocked p.val = false ∧ p.val = 3) ∧
    (∃ (s : State) (p : Fin 5), regsWf s.m.regs = true ∧ s.m.isOn (pllOf p) = true ∧ bitAt s.m.pwr.unlocked p.val = false ∧ p.val = 4) ∧
    (∃ (s : State) (p : Fin 5), regsWf s.m.regs = true ∧ ((s.m.isOn (pllOf p) = false ∨ bitAt s.m.pwr.unlocked p.val = true))) ∧
    (∃ (s : State) (p : Fin 5), regsWf s.m.regs = true ∧ bitAt s.m.pwr.unlocked p.val = true ∧ ((p.val ≠ 0 ∨ s.m.exec.late = false ∨ s.m.isOn swPllF = false))) ∧
    (∃ (s : State) (p : Fin 5), regsWf s.m.regs = true ∧ p.val = 0 ∧ bitAt s.m.pwr.unlocked 0 = true ∧ s.m.exec.late = true ∧ s.m.isOn swPllF = true ∧ (List.finRange 8).all (fun l => (s.m.lanes[l]).todo.isEmpty) = true) ∧
    (∃ (s : State) (p : Fin 5), regsWf s.m.regs = true ∧ bitAt s.m.pwr.unlocked p.val = false) :=
  ⟨⟨at_ (upMod 5), by decide +kernel⟩,
   ⟨at_ Mod.reset, by decide +kernel⟩,
   ⟨at_ { upMod 0 with pwr := { want := 6, saving := true, saveOpen := true }, regs := fldSet (upMod 0).regs F.PWR_STATUS_VIN_OK 0 }, by decide +kernel⟩,
   ⟨at_ { upMod 0 with pwr := { want := 6, saving := true, saveOpen := true, vinBack := true }, regs := fldSet (upMod 0).regs F.PWR_STATUS_VIN_OK 0 }, by decide +kernel⟩,
   ⟨at_ (upMod 5), by decide +kernel⟩,
   ⟨at_ { upMod 0 with pwr := { want := 6, saving := true }, regs := fldSet (upMod 0).regs F.PWR_STATUS_VIN_OK 0 }, by decide +kernel⟩,
   ⟨at_ { upMod 0 with pwr := { want := 6 }, regs := fldSet (upMod 0).regs F.PWR_STATUS_VIN_OK 0 }, by decide +kernel⟩,
   ⟨at_ (upMod 5), by decide +kernel⟩,
   ⟨at_ { upMod 0 with pwr := { want := 6 }, regs := fldSet (upMod 0).regs F.PWR_STATUS_VIN_OK 0 }, by decide +kernel⟩,
   ⟨at_ { upMod 0 with pwr := { want := 6, saving := true, saveOpen := true }, regs := fldSet (upMod 0).regs F.PWR_STATUS_VIN_OK 0 }, by decide +kernel⟩,
   ⟨at_ (upMod 5), by decide +kernel⟩,
   ⟨at_ (upMod 6), by decide +kernel⟩,
   ⟨at_ { upMod 5 with exec := { burst := some ⟨1, 3, 0⟩ } }, ⟨1, 3, 0⟩, by decide +kernel⟩,
   ⟨at_ (upMod 5), by decide +kernel⟩,
   ⟨at_ Mod.reset, by decide +kernel⟩,
   ⟨at_ { upMod 6 with clk := {}, pwr := { want := 14, tcxoBad := true }, exec := { autoAt := some 5 } }, by decide +kernel⟩,
   ⟨at_ { upMod 6 with clk := {}, pwr := { want := 14, tcxoBad := true }, exec := { waitRestart := some (4, 0) } }, 4, 0, onePlan, by decide +kernel⟩,
   ⟨at_ { upMod 6 with clk := {}, pwr := { want := 14, tcxoBad := true }, exec := { waitRestart := some (7, 0) }, plan := { active := some onePlan, slots := Mod.reset.plan.slots.set 1 (some goodPlan) } }, 0, goodPlan, by decide +kernel⟩,
   ⟨at_ (upMod 5), by decide +kernel⟩,
   ⟨at_ { upMod 6 with clk := {}, pwr := { want := 14, tcxoBad := true } }, by decide +kernel⟩,
   ⟨at_ (upMod 5), 1, by decide +kernel⟩,
   ⟨at_ (lit [17] opBase), 2, by decide +kernel⟩,
   ⟨at_ twinMod, 3, by decide +kernel⟩,
   ⟨at_ (lit [19] (netAt 0 2 0).m), 4, by decide +kernel⟩,
   ⟨at_ Mod.reset, 0, by decide +kernel⟩,
   ⟨at_ { lit [8] (upMod 5) with pwr := { unlocked := 4 } }, 2, by decide +kernel⟩,
   ⟨at_ { lit [15] (upMod 5) with pwr := { unlocked := 1 }, exec := { late := true, burst := some ⟨1, 3, 0⟩ } }, 0, by decide +kernel⟩,
   ⟨at_ (upMod 5), 0, by decide +kernel⟩⟩

end Sys2Proof.Tests
end

/-! PROOFS. The scope statements: the state after reset meets the invariant (O3) and every step keeps it (O4).

The laws `…_inv` say what each operation of the model keeps. A command's proof is the derivation that follows its definition: one law per
operation, `ite_inv` at an `if`, a case per branch of a `match`; `Mod.frame_inv` where a part that the invariant does not read is replaced. -/

section

namespace Sys2Proof.Machine

/-! ### Parts that the invariant does not read -/

section

variable {m : Mod} {fx : Bool} {freeCtr : Nat} {clk : Clk} {fired : Nat × Nat} {plan : PlanSt} {exec : ExecSt} {outs : Vector OutSt 48}
  {bit : BitSt} {retain : Vector RetainSlot 2} {logs : LogSt} {sw : Vector Sw 31} {nvm : NvmSt} {jack : JackSt} {fio : FioSt}
  {safe : SafeSt} {loops : List (Nat × LoopSt)} {tests : Vector LoopTestSt 4} {met : MetSt} {ports : PortsSt} {twin : TwinSt}
  {orpor : OrporSt} {upl : Vector UplSt 2} {pool : PoolSt} {key : KeySt} {pwr : PwrSt}

/-- Registers, memory, lanes and calendar standing, any other parts may be replaced. -/
theorem Mod.frame_inv (h : m.Inv) :
    Mod.Inv ⟨fx, m.regs, freeCtr, clk, fired, m.mem, plan, m.lanes, exec, outs, bit, retain, logs, sw, nvm, jack, fio, safe, loops,
      tests, met, ports, twin, orpor, upl, pool, m.rtc, key, pwr⟩ := h

end

/-- Of the calendar the invariant reads the date, its weekday and the commit that waits. -/
theorem Mod.rtcFrame_inv {m : Mod} {sub : Nat} {run timedOut : Bool} {shadow : Option Shadow} (h : m.Inv) :
    Mod.Inv { m with rtc := { m.rtc with sub := sub, run := run, shadow := shadow, timedOut := timedOut } } := h

/-- Of the memory the invariant reads the cells. -/
theorem Mod.memFrame_inv {m : Mod} {mem : MemSt} (h : m.Inv) (hc : mem.cells = m.mem.cells) : Mod.Inv { m with mem := mem } := by
  obtain ⟨regs, cells, bufs, date, day, wait⟩ := h
  exact ⟨regs, hc ▸ cells, bufs, date, day, wait⟩

section

variable {s : State} (hs : s.m.Inv)
include hs

/-! ### Field inputs and outputs -/

theorem execDiFilterChange_keeps (n : Fin 48) (level : Bool) : Keeps (execDiFilterChange n level s) :=
  onMod_inv hs fun _ hm => ite_inv (Mod.setB_inv _ _ _ hm) <| Mod.diMap_inv _ _ _ <| Mod.when_inv (Mod.when_inv
    (Mod.setB_inv _ _ _ <| Mod.setB_inv _ _ _ hm) fun _ => Mod.setB_inv _ _ _) fun _ => Mod.set_inv _ _

theorem execDiStuck_keeps (n : Fin 48) : Keeps (execDiStuck n s) :=
  onMod_inv hs fun _ hm => ite_inv (Mod.log_inv _ _ _ _ <| Mod.set_inv _ _ hm) hm

theorem execDiChatter_keeps (n : Fin 48) : Keeps (execDiChatter n s) :=
  onMod_inv hs fun _ hm => ite_inv (Mod.log_inv _ _ _ _ <| Mod.addSat_inv _ _ _ <| Mod.setB_inv _ _ _ <| Mod.set_inv _ _ hm) hm

theorem execChatterHoldExpiry_keeps (n : Fin 48) : Keeps (execChatterHoldExpiry n s) :=
  onMod_inv hs fun _ hm => ite_inv (Mod.setB_inv _ _ _ <| Mod.set_inv _ _ hm) hm

theorem execCountEdge_keeps (k : Fin 8) (rising : Bool) : Keeps (execCountEdge k rising s) :=
  onMod_inv hs fun _ hm => ite_inv (Mod.cntMap_inv _ _ _ hm) hm

theorem execCountWindowEnd_keeps : Keeps (execCountWindowEnd s) :=
  onMod_inv hs fun _ hm => foldl_inv hm fun _ h _ => windowEnd_inv _ _ h

theorem execCountJournal_keeps : Keeps (execCountJournal s) :=
  onMod_inv hs fun _ hm => ite_inv (Mod.addSat_inv _ _ _ hm) <| Mod.frame_inv hm

theorem execFioCntLoRead_keeps (k : Fin 8) : Keeps (execFioCntLoRead k s) :=
  onMod_inv hs fun _ => Mod.cntLatch_inv _ _

theorem execDoShort_keeps (n : Fin 24) : Keeps (execDoShort n s) :=
  onMod_inv hs fun _ hm => ite_inv (Mod.log_inv _ _ _ _ <| Mod.fioMark_inv _ _ <| Mod.set_inv _ _ <| Mod.when_inv
    (Mod.set_inv _ _ hm) fun _ => Mod.set_inv _ _) hm

theorem execDoShortRetry_keeps (n : Fin 24) : Keeps (execDoShortRetry n s) :=
  onMod_inv hs fun _ hm => ite_inv (Mod.set_inv _ _ hm) hm

theorem execDoThermalTrip_keeps (n : Fin 24) : Keeps (execDoThermalTrip n s) :=
  onMod_inv hs fun _ hm => Mod.set_inv _ _ <| Mod.set_inv _ _ hm

theorem execDoThermalRecover_keeps (n : Fin 24) : Keeps (execDoThermalRecover n s) :=
  onMod_inv hs fun _ => Mod.set_inv _ _

theorem execDoGroupTrip_keeps (g : Fin 3) (ma : BitVec 16) : Keeps (execDoGroupTrip g ma s) :=
  onMod_inv hs fun _ hm => ite_inv hm <| Mod.log_inv _ _ _ _ <| Mod.fioMark_inv _ _ <| Mod.openSettle_inv _ <| Mod.set_inv _ _ <|
    Mod.set_inv _ _ hm

theorem execDoGroupRetry_keeps (g : Fin 3) : Keeps (execDoGroupRetry g s) :=
  onMod_inv hs fun _ hm => ite_inv (ite_inv (Mod.set_inv _ _ <| Mod.set_inv _ _ <| Mod.frame_inv hm) <| Mod.set_inv _ _ hm) hm

theorem execDoGroupLatchClear_keeps (h : BitVec 10) (g : Fin 3) : Keeps (execDoGroupLatchClear h g s) :=
  onMod_inv hs fun _ hm => Mod.when_inv hm fun _ => Mod.grpClear_inv _ _

theorem execDoScLatchClear_keeps (h : BitVec 10) (n : Fin 24) : Keeps (execDoScLatchClear h n s) :=
  onMod_inv hs fun _ hm => Mod.when_inv hm fun _ => Mod.scClear_inv _ _

theorem execVauxLost_keeps (mv : BitVec 16) : Keeps (execVauxLost mv s) :=
  onMod_inv hs fun _ hm => ite_inv hm <| Mod.log_inv _ _ _ _ <| Mod.openSettle_inv _ <| Mod.set_inv _ _ <| Mod.set_inv _ _ <|
    Mod.set_inv _ _ <| Mod.set_inv _ _ <| Mod.set_inv _ _ hm

theorem execVauxRestored_keeps (mv : BitVec 16) : Keeps (execVauxRestored mv s) :=
  onMod_inv hs fun _ hm => ite_inv hm <| Mod.set_inv _ _ <| Mod.set_inv _ _ <| Mod.set_inv _ _ hm

theorem execDoOpenload_keeps (n : Fin 24) (ma : BitVec 16) : Keeps (execDoOpenload n ma s) :=
  onMod_inv hs fun _ hm => ite_inv (Mod.when_inv (Mod.set_inv _ _ hm) fun _ => Mod.set_inv _ _) <| Mod.set_inv _ _ <|
    Mod.set_inv _ _ hm

theorem execAiConversion_keeps (n : Fin 16) (x : BitVec 32) : Keeps (execAiConversion n x s) :=
  onMod_inv hs fun _ hm => ite_inv (Mod.aiMap_inv _ _ _ <| Mod.set_inv _ _ <| Mod.set_inv _ _ <| Mod.addWrap_inv _ _ _ hm) <|
    Mod.aiMap_inv _ _ _ <| Mod.set_inv _ _ <| Mod.setB_inv _ _ _ <| Mod.setB_inv _ _ _ <| Mod.setB_inv _ _ _ <|
    Mod.addWrap_inv _ _ _ hm

theorem execAiProtTrip_keeps (n : Fin 16) : Keeps (execAiProtTrip n s) :=
  onMod_inv hs fun _ hm => ite_inv (Mod.fioMark_inv _ _ <| Mod.set_inv _ _ <| Mod.set_inv _ _ hm) hm

theorem execAiProtReconnect_keeps (n : Fin 16) : Keeps (execAiProtReconnect n s) :=
  onMod_inv hs fun _ hm => Mod.when_inv hm fun _ => Mod.set_inv _ _

theorem execAoFault_keeps (n : Fin 8) (present : Bool) : Keeps (execAoFault n present s) :=
  onMod_inv hs fun _ hm => by
    split
    · exact hm
    · exact Mod.setB_inv _ _ _ hm
    · exact Mod.setB_inv _ _ _ hm

theorem execLtCommandFrame_keeps (n : Fin 8) : Keeps (execLtCommandFrame n s) :=
  onMod_inv hs fun _ hm => by
    refine Mod.setB_inv _ _ _ <| ltFrame_inv _ _ ?_
    split
    · exact Mod.set_inv _ _ hm
    · exact hm

theorem execLtCurrentApply_keeps (n : Fin 8) : Keeps (execLtCurrentApply n s) :=
  onMod_inv hs fun _ => Mod.ltMap_inv _ _ _

theorem execLtReport_keeps (n : Fin 8) (ma : BitVec 32) (termV : BitVec 8) : Keeps (execLtReport n ma termV s) :=
  onMod_inv hs fun _ hm => by
    extract_lets _ _ _ _ m₁ m₂ m₃ m₄ m₅
    have h₃ : m₃.Inv := Mod.set_inv _ _ <| Mod.set_inv _ _ <| Mod.set_inv _ _ <| Mod.set_inv _ _ hm
    have h₄ : m₄.Inv := Mod.fioMark_inv _ _ <| Mod.ltMap_inv _ _ _ h₃
    have h₅ : m₅.Inv := Mod.when_inv h₄ fun _ h => Mod.log_inv _ _ _ _ <| Mod.addSat_inv _ _ _ <| Mod.set_inv _ _ h
    exact Mod.when_inv h₅ fun _ => Mod.set_inv _ _

theorem execLtOpen_keeps (n : Fin 8) : Keeps (execLtOpen n s) :=
  onMod_inv hs fun _ hm => ite_inv hm <| Mod.log_inv _ _ _ _ <| Mod.set_inv _ _ <| Mod.set_inv _ _ hm

theorem execLtFrameLoss_keeps (n : Fin 8) : Keeps (execLtFrameLoss n s) :=
  onMod_inv hs fun _ => Mod.ltMap_inv _ _ _

theorem execLtHoldExpiry_keeps (n : Fin 8) : Keeps (execLtHoldExpiry n s) :=
  onMod_inv hs fun _ hm => ite_inv (Mod.set_inv _ _ <| Mod.ltMap_inv _ _ _ hm) hm

theorem execLtModemChar_keeps (n : Fin 8) (c : BitVec 8) (parityErr : Bool) : Keeps (execLtModemChar n c parityErr s) :=
  onMod_inv hs fun _ hm => by
    extract_lets m₁
    have h₁ : m₁.Inv := Mod.when_inv hm fun _ => Mod.set_inv _ _
    exact ite_inv h₁ <| ite_inv (Mod.set_inv _ _ <| Mod.ltMap_inv _ _ _ h₁) <| Mod.set_inv _ _ h₁

theorem execIslandPowerUp_keeps (n : Fin 8) : Keeps (execIslandPowerUp n s) :=
  onMod_inv hs fun _ => Mod.ltMap_inv _ _ _

/-! ### The Jack path -/

theorem execJackInputChange_keeps (i : Fin 24) (level : Bool) : Keeps (execJackInputChange i level s) :=
  onMod_inv hs fun _ hm => Mod.jackEval_inv _ <| Mod.frame_inv hm

theorem execJackReleaseTimeout_keeps (i : Fin 64) : Keeps (execJackReleaseTimeout i s) :=
  onMod_inv hs fun _ hm => by
    split
    · exact ite_inv hm <| Mod.jackRelease_inv _ _ hm
    · exact hm

theorem execJackReset_keeps (h : BitVec 10) (i : Fin 64) : Keeps (execJackReset h i s) :=
  onMod_inv hs fun _ => Mod.jackReset_inv _ _ _

theorem execJackResetAll_keeps (h : BitVec 10) : Keeps (execJackResetAll h s) :=
  onMod_inv hs fun _ => Mod.jackResetAll_inv _ _

theorem execJackCompare_keeps : Keeps (execJackCompare s) :=
  onMod_inv hs fun _ hm => ite_inv (Mod.safetyFault_inv _ _ hm) hm

/-! ### Loops -/

theorem execLoopModeRequest_keeps (h : BitVec 10) (n : BitVec 8) (req : BitVec 3) : Keeps (execLoopModeRequest h n req s) :=
  onMod_inv hs fun _ hm => ite_inv (Mod.set_inv _ _ hm) hm

theorem execLoopTuningWrite_keeps (h : BitVec 10) (n : BitVec 8) (reg : Fin 12) (w : BitVec 32) : Keeps (execLoopTuningWrite h n
    reg w s) :=
  onMod_inv hs fun _ hm => ite_inv (Mod.loopTune_inv _ _ _ _ hm) hm

theorem execLooptestStart_keeps (h : BitVec 10) (g : Fin 4) : Keeps (execLooptestStart h g s) :=
  onMod_inv hs fun _ hm => ite_inv (Mod.testStart_inv _ _ hm) hm

theorem execLooptestAbort_keeps (h : BitVec 10) (g : Fin 4) : Keeps (execLooptestAbort h g s) :=
  onMod_inv hs fun _ hm => ite_inv (Mod.testStop_inv _ _ hm) hm

theorem execLooptestAnalysis_keeps (g : Fin 4) : Keeps (execLooptestAnalysis g s) :=
  onMod_inv hs fun _ hm => ite_inv (Mod.set_inv _ _ <| Mod.setB_inv _ _ _ <| Mod.set_inv _ _ <| Mod.set_inv _ _ <|
    Mod.set_inv _ _ <| Mod.set_inv _ _ <| Mod.captured_inv _ _ _ hm) hm

/-! ### Metering -/

theorem execMetSample_keeps (cur : List (Int × Int)) (vol : List Int) : Keeps (execMetSample cur vol s) :=
  onMod_inv hs fun _ hm => ite_inv (Mod.sampleAll_inv _ _ _ <| Mod.sampleStart_inv _ hm) <| Mod.sampleStart_inv _ hm

theorem execGainSwitch_keeps (c : Fin 96) : Keeps (execGainSwitch c s) :=
  onMod_inv hs fun _ => Mod.rangeSwitch_inv _ _

theorem execSampleClip_keeps (c : Fin 102) : Keeps (execSampleClip c s) :=
  onMod_inv hs fun _ hm => ite_inv (Mod.clip_inv _ _ hm) hm

theorem execMetBlockEnd_keeps (temp : BitVec 16) : Keeps (execMetBlockEnd temp s) :=
  onMod_inv hs fun _ hm => by
    refine ite_inv ?_ hm
    extract_lets m₁ m₂ m₃ m₄ m₅ m₆
    have h₂ : m₂.Inv := Mod.accumBlock_inv _ <| Mod.set_inv _ _ hm
    have h₃ : m₃.Inv := foldl_inv h₂ fun _ h _ => Mod.set_inv _ _ <| Mod.publishE_inv _ _ <| Mod.publishI_inv _ _ h
    have h₅ : m₅.Inv := Mod.set_inv _ _ <| foldl_inv h₃ fun _ h _ => Mod.publishV_inv _ _ h
    have h₆ : m₆.Inv := foldl_inv h₅ fun _ h _ => Mod.blockTurn_inv _ _ h
    exact Mod.frame_inv h₆

theorem execMetIntervalBoundary_keeps : Keeps (execMetIntervalBoundary s) :=
  onMod_inv hs fun _ hm => ite_inv (Mod.intBoundary_inv _ _ _ hm) hm

theorem execMetJournal_keeps : Keeps (execMetJournal s) :=
  onMod_inv hs fun _ hm => ite_inv hm <| ite_inv (Mod.addSat_inv _ _ _ hm) <| Mod.frame_inv hm

theorem execMetCalAccum_keeps (h : BitVec 10) : Keeps (execMetCalAccum h s) :=
  onMod_inv hs fun _ hm => Mod.when_inv hm fun _ => Mod.calAccum_inv _

theorem execMetCalAccumDone_keeps : Keeps (execMetCalAccumDone s) :=
  onMod_inv hs fun _ hm => by
    split
    · refine ite_inv ?_ hm
      extract_lets m₁ m₂
      have h₁ : m₁.Inv := foldl_inv hm fun _ h _ => Mod.set_inv _ _ h
      have h₂ : m₂.Inv := Mod.set_inv _ _ <| Mod.set_inv _ _ h₁
      exact Mod.frame_inv h₂
    · exact hm

theorem execMetCalCommit_keeps (h : BitVec 10) : Keeps (execMetCalCommit h s) :=
  onMod_inv hs fun _ hm => Mod.when_inv hm fun _ => Mod.calCommit_inv _ _

theorem execMetCalDiscard_keeps (h : BitVec 10) : Keeps (execMetCalDiscard h s) :=
  onMod_inv hs fun _ hm => Mod.when_inv hm fun _ => Mod.calDiscard_inv _

theorem execMetCapStart_keeps (h : BitVec 10) : Keeps (execMetCapStart h s) :=
  onMod_inv hs fun _ hm => Mod.when_inv hm fun _ => Mod.capStart_inv _

theorem execMetCapDone_keeps : Keeps (execMetCapDone s) :=
  onMod_inv hs fun _ hm => by
    split
    · exact ite_inv (Mod.set_inv _ _ <| Mod.set_inv _ _ <| Mod.frame_inv hm) hm
    · exact hm

theorem execMetEnergyLoRead_keeps (c : Fin 96) (e : Fin 8) : Keeps (execMetEnergyLoRead c e s) :=
  onMod_inv hs fun _ => Mod.energyLatch_inv _ _ _

/-! ### Safety channels -/

theorem execSiFilterChange_keeps (k : Fin 8) (chB level : Bool) : Keeps (execSiFilterChange k chB level s) :=
  onMod_inv hs fun _ hm => Mod.siShow_inv _ _ <| Mod.siClear_inv _ _ <| Mod.siDiffer_inv _ _ _ <| ite_inv (Mod.setB_inv _ _ _ <|
    Mod.frame_inv hm) <| Mod.setB_inv _ _ _ <| Mod.frame_inv hm

theorem execSiDiscrepancy_keeps (k : Fin 8) : Keeps (execSiDiscrepancy k s) :=
  onMod_inv hs fun _ hm => ite_inv hm <| ite_inv (Mod.set_inv _ _ hm) <| Mod.log_inv _ _ _ _ <| Mod.siShow_inv _ _ <|
    Mod.set_inv _ _ <| Mod.set_inv _ _ hm

theorem execSiTestFault_keeps (k : Fin 8) (chB : Bool) : Keeps (execSiTestFault k chB s) :=
  onMod_inv hs fun _ hm => Mod.log_inv _ _ _ _ <| Mod.siShow_inv _ _ <| Mod.siClear_inv _ _ <| Mod.set_inv _ _ <|
    Mod.set_inv _ _ hm

theorem execSoOffPulse_keeps (k : Fin 4) (chB : Bool) : Keeps (execSoOffPulse k chB s) :=
  onMod_inv hs fun _ hm => ite_inv (Mod.frame_inv hm) hm

theorem execSoPulseCheck_keeps (k : Fin 4) (chB own other : Bool) : Keeps (execSoPulseCheck k chB own other s) :=
  onMod_inv hs fun _ hm => by
    refine ite_inv ?_ (ite_inv ?_ hm)
    · have h := Mod.seen_inv _ k (!chB) other <| Mod.seen_inv _ k chB own hm
      exact ite_inv (Mod.pairFault_inv _ _ _ _ h) <| ite_inv (Mod.pairFault_inv _ _ _ _ h) h
    · exact ite_inv hm <| ite_inv (Mod.addWrap_inv _ _ _ <| Mod.seen_inv _ _ _ _ hm) <|
        Mod.pairFault_inv _ _ _ _ <| Mod.seen_inv _ _ _ _ hm

theorem execOffPulseEnd_keeps (k : Fin 4) (chB : Bool) : Keeps (execOffPulseEnd k chB s) :=
  onMod_inv hs fun _ hm => ite_inv (Mod.frame_inv hm) hm

theorem execSoDarkFail_keeps (k : Fin 4) (chB : Bool) : Keeps (execSoDarkFail k chB s) :=
  onMod_inv hs fun _ hm => ite_inv (Mod.pairFault_inv _ _ _ _ <| Mod.seen_inv _ _ _ _ hm) hm

theorem execSoOnFail_keeps (k : Fin 4) (chB : Bool) : Keeps (execSoOnFail k chB s) :=
  onMod_inv hs fun _ hm => ite_inv (Mod.pairFault_inv _ _ _ _ <| Mod.seen_inv _ _ _ _ hm) hm

theorem execSoOverload_keeps (k : Fin 4) (chB : Bool) : Keeps (execSoOverload k chB s) :=
  onMod_inv hs fun _ hm => ite_inv (Mod.pairFault_inv _ _ _ _ hm) hm

theorem execSoBothOn_keeps (k : Fin 4) : Keeps (execSoBothOn k s) :=
  onMod_inv hs fun _ hm => ite_inv (Mod.safetyFault_inv _ _ <| Mod.seen_inv _ _ _ _ <| Mod.seen_inv _ _ _ _ hm) hm

theorem execSafetySelftest_keeps (pass : Bool) : Keeps (execSafetySelftest pass s) :=
  onMod_inv hs fun _ hm => ite_inv (Mod.safetyFault_inv _ _ hm) hm

theorem execUnlockWindowExpiry_keeps (h : BitVec 10) : Keeps (execUnlockWindowExpiry h s) :=
  onMod_inv hs fun _ hm => by
    split
    · exact ite_inv (Mod.frame_inv hm) hm
    · exact hm

theorem execUnlockBlockExpiry_keeps : Keeps (execUnlockBlockExpiry s) :=
  onMod_inv hs fun _ hm => ite_inv (Mod.frame_inv hm) hm

/-! ### Building time -/

theorem execPtpSync_keeps (u : Fin 2) (h : PtpHead) (origin rx : Nat) : Keeps (execPtpSync u h origin rx s) :=
  onMod_inv hs fun _ hm => ite_inv (Mod.measured_inv _ _ _ _ hm) hm

theorem execSourceQualified_keeps (x : Fin 3) : Keeps (execSourceQualified x s) :=
  onMod_inv hs fun _ hm => by
    extract_lets _ _ _ m₁ _ m₂ _ m₃ m₄
    refine ite_inv ?_ hm
    have h₂ : m₂.Inv := Mod.frame_inv (Mod.set_inv _ _ <| Mod.srcMap_inv _ _ _ hm)
    have h₃ : m₃.Inv := Mod.when_inv h₂ fun _ => Mod.wantStep_inv _ _
    have h₄ : m₄.Inv := Mod.switchTo_inv _ _ h₃
    exact ite_inv (ite_inv (Mod.setSync_inv _ _ _ h₄) <| Mod.acqShow_inv _ h₄) <| Mod.acqShow_inv _ h₃

theorem execPtpAnnounce_keeps (u : Fin 2) (h : PtpHead) (a : Announce) : Keeps (execPtpAnnounce u h a s) :=
  onMod_inv hs fun _ hm => ite_inv (Mod.utcRecord_inv _ <| Mod.when_inv (Mod.when_inv (Mod.srcMap_inv _ _ _ hm) fun _ =>
    Mod.loseSrc_inv _ _) fun _ => Mod.masterShow_inv _ _) hm

theorem execAnnounceTimeout_keeps (u : Fin 2) : Keeps (execAnnounceTimeout u s) :=
  onMod_inv hs fun _ hm => Mod.loseSrc_inv _ _ <| Mod.srcMap_inv _ _ _ hm

theorem execSyncTimeout_keeps (u : Fin 2) : Keeps (execSyncTimeout u s) :=
  onMod_inv hs fun _ => Mod.loseSrc_inv _ _

theorem execTsyncInEdge_keeps (t : Nat) : Keeps (execTsyncInEdge t s) :=
  onMod_inv hs fun _ hm => ite_inv (Mod.measured_inv _ _ _ _ <| Mod.srcMap_inv _ _ _ hm) hm

theorem execPpsLoss_keeps : Keeps (execPpsLoss s) :=
  onMod_inv hs fun _ => Mod.loseSrc_inv _ _

theorem execTsyncOutPulse_keeps : Keeps (execTsyncOutPulse s) :=
  onMod_inv hs fun _ => Mod.frame_inv

theorem execTsyncOutFall_keeps : Keeps (execTsyncOutFall s) :=
  onMod_inv hs fun _ => Mod.frame_inv

theorem execTimeStep_keeps : Keeps (execTimeStep s) :=
  onMod_inv hs fun _ hm => by
    split
    · exact hm
    · exact ite_inv hm <| Mod.rearm_inv _ _ <| Mod.frame_inv <| Mod.applyStep_inv _ _ <| Mod.reach_inv _ _ hm

theorem execHoldoverToFree_keeps (t : Nat) : Keeps (execHoldoverToFree t s) :=
  onMod_inv hs fun _ hm => ite_inv (Mod.setSync_inv _ _ _ <| Mod.reach_inv _ _ hm) hm

theorem execPtpDelayResponse_keeps (u : Fin 2) (h : PtpHead) (peer : Bool) (delay : Nat) : Keeps (execPtpDelayResponse u h peer
    delay s) :=
  onMod_inv hs fun _ hm => ite_inv (Mod.frame_inv hm) hm

/-! ### Orpor packets and sessions -/

theorem execOrporPacket_keeps (ch : Fin 12) : Keeps (execOrporPacket ch s) :=
  onMod_inv hs fun _ hm => by
    refine ite_inv hm ?_
    split
    · exact hm
    · exact ite_inv (Mod.twinOut_inv _ _ <| Mod.frame_inv hm) <| Mod.packetIn_inv _ _ _ _ <| Mod.frame_inv hm

theorem execSpiWrite_keeps (len : BitVec 16) (bytes : List Byte) : Keeps (execSpiWrite len bytes s) :=
  onMod_inv hs fun _ hm => by
    refine ite_inv hm ?_
    extract_lets m₁ _ r
    have h₁ : m₁.Inv := Mod.spiShow_inv _ _ hm
    have hr : r.1.Inv := Mod.poolPut_inv _ _ h₁
    exact ite_inv (Mod.addSat_inv _ _ _ <| Mod.frame_inv h₁) <| ite_inv hr <| Mod.frame_inv hr

theorem execSpiRead_keeps : Keeps (execSpiRead s) :=
  onMod_inv hs fun _ hm => by
    refine ite_inv hm ?_
    split
    · exact Mod.spiShow_inv _ _ hm
    · exact Mod.frame_inv <| Mod.spiShow_inv _ _ hm

theorem execSpiStatus_keeps : Keeps (execSpiStatus s) :=
  onMod_inv hs fun _ hm => ite_inv (Mod.spiShow_inv _ _ hm) hm

theorem execSessionIdleTimeout_keeps (h : BitVec 10) : Keeps (execSessionIdleTimeout h s) :=
  onMod_inv hs fun _ hm => Mod.when_inv hm fun _ => Mod.closeSess_inv _ _

theorem execOpSessProbe_keeps : Keeps (execOpSessProbe s) :=
  onMod_inv hs fun _ hm => by
    split
    · exact hm
    · exact Mod.deliver_inv _ _ <| Mod.greeted_inv _ _ hm

theorem execOpSessOpen_keeps : Keeps (execOpSessOpen s) :=
  onMod_inv hs fun _ hm => by
    split
    · exact hm
    · extract_lets _ _ _ _ _ _ m₁
      have h₁ : m₁.Inv := Mod.greeted_inv _ _ hm
      refine ite_inv (Mod.authFail_inv _ h₁) ?_
      split
      · exact ite_inv (Mod.deliver_inv _ _ h₁) <| Mod.openRefuse_inv _ _ _ _ _ _ _ h₁
      · refine ite_inv (Mod.openRefuse_inv _ _ _ _ _ _ _ h₁) ?_
        split
        · exact Mod.openRefuse_inv _ _ _ _ _ _ _ h₁
        · exact Mod.deliver_inv _ _ <| Mod.frame_inv (Mod.setSess_inv _ _ _ <| Mod.drawnN_inv _ _ h₁)

/-! ### Storage -/

theorem execFlashProgramDone_keeps : Keeps (execFlashProgramDone s) :=
  onMod_inv hs fun _ hm => by
    split
    · exact hm
    · exact ite_inv (Mod.programDone_inv _ hm) hm

theorem execSectorEraseDone_keeps : Keeps (execSectorEraseDone s) :=
  onMod_inv hs fun _ hm => ite_inv (Mod.eraseDone_inv _ hm) hm

theorem execMarginPassStart_keeps : Keeps (execMarginPassStart s) :=
  onMod_inv hs fun _ hm => ite_inv (Mod.set_inv _ _ <| Mod.frame_inv hm) hm

theorem execMarginSectorRead_keeps (sector : BitVec 14) (differs last : Bool) : Keeps (execMarginSectorRead sector differs last s)
    :=
  onMod_inv hs fun _ hm => by
    split
    · refine ite_inv hm <| Mod.when_inv (Mod.when_inv hm fun _ h => ?_) fun _ h => ?_
      · exact Mod.set_inv _ _ <| Mod.frame_inv (Mod.log_inv _ _ _ _ h)
      · exact Mod.set_inv _ _ <| Mod.addSat_inv _ _ _ <| Mod.set_inv _ _ h
    · exact hm

theorem execOptimeTick_keeps (x : Meas) : Keeps (execOptimeTick x s) :=
  onMod_inv hs fun _ hm => ite_inv (Mod.supplies_inv _ _ <| Mod.ctrAdd_inv _ _ _ hm) hm

theorem execRepeatHoldExpiry_keeps (a : Fin 16) : Keeps (execRepeatHoldExpiry a s) :=
  onMod_inv hs fun _ hm => by
    split
    · exact ite_inv hm <| Mod.frame_inv hm
    · exact hm

theorem execRateWindowClose_keeps (a : Fin 16) (num : BitVec 8) : Keeps (execRateWindowClose a num s) :=
  onMod_inv hs fun _ hm => Kept.ite _ (Kept.set hm _ _) hm

theorem execSlotWriteComplete_keeps (which : Fin 3) : Keeps (execSlotWriteComplete which s) :=
  onMod_inv hs fun _ hm => ite_inv (Mod.frame_inv hm) <| ite_inv (Mod.frame_inv hm) <| Mod.set_inv _ _ <| Mod.retainShow_inv _ <|
    Mod.frame_inv hm

theorem execStoredSetWrite_keeps (h : BitVec 10) (seq : BitVec 32) (block : BitVec 12) : Keeps (execStoredSetWrite h seq block s)
    :=
  onMod_inv hs fun _ => Mod.storeBlock_inv _ _ _

theorem execNvmOptimeLoRead_keeps : Keeps (execNvmOptimeLoRead s) :=
  onMod_inv hs fun _ => Mod.frame_inv

theorem execTimeNowLoRead_keeps : Keeps (execTimeNowLoRead s) :=
  onMod_inv hs fun _ => Mod.frame_inv

theorem execSuspectClear_keeps (h : BitVec 10) (b : Fin 8) : Keeps (execSuspectClear h b s) :=
  onMod_inv hs fun _ hm => Mod.when_inv hm fun _ => Mod.suspectClear_inv _ _ _

/-! ### The bit program -/

theorem execBitCycle_keeps (steps : BitVec 13) : Keeps (execBitCycle steps s) :=
  onMod_inv hs fun _ hm => ite_inv (Mod.bitSettle_inv _ <| Mod.frame_inv <| Mod.bitStart_inv _ hm) hm

theorem execBitOverrun_keeps : Keeps (execBitOverrun s) :=
  onMod_inv hs fun _ hm => ite_inv (Mod.overrun_inv _ _ _ _ _ hm) hm

theorem execBitNop_keeps : Keeps (execBitNop s) :=
  bitStepOp_inv _ _ _ hs

theorem execBitLd_keeps (area : BitVec 3) (n : BitVec 8) : Keeps (execBitLd area n s) :=
  bitStepOp_inv _ _ _ hs

theorem execBitLdn_keeps (area : BitVec 3) (n : BitVec 8) : Keeps (execBitLdn area n s) :=
  bitStepOp_inv _ _ _ hs

theorem execBitAnd_keeps (area : BitVec 3) (n : BitVec 8) : Keeps (execBitAnd area n s) :=
  bitStepOp_inv _ _ _ hs

theorem execBitAndn_keeps (area : BitVec 3) (n : BitVec 8) : Keeps (execBitAndn area n s) :=
  bitStepOp_inv _ _ _ hs

theorem execBitOr_keeps (area : BitVec 3) (n : BitVec 8) : Keeps (execBitOr area n s) :=
  bitStepOp_inv _ _ _ hs

theorem execBitOrn_keeps (area : BitVec 3) (n : BitVec 8) : Keeps (execBitOrn area n s) :=
  bitStepOp_inv _ _ _ hs

theorem execBitXor_keeps (area : BitVec 3) (n : BitVec 8) : Keeps (execBitXor area n s) :=
  bitStepOp_inv _ _ _ hs

theorem execBitSt_keeps (area : BitVec 3) (n : BitVec 8) : Keeps (execBitSt area n s) :=
  bitStepOp_inv _ _ _ hs

theorem execBitStn_keeps (area : BitVec 3) (n : BitVec 8) : Keeps (execBitStn area n s) :=
  bitStepOp_inv _ _ _ hs

theorem execBitSet_keeps (area : BitVec 3) (n : BitVec 8) : Keeps (execBitSet area n s) :=
  bitStepOp_inv _ _ _ hs

theorem execBitRst_keeps (area : BitVec 3) (n : BitVec 8) : Keeps (execBitRst area n s) :=
  bitStepOp_inv _ _ _ hs

theorem execBitPush_keeps : Keeps (execBitPush s) :=
  bitStepOp_inv _ _ _ hs

theorem execBitPopand_keeps : Keeps (execBitPopand s) :=
  bitStepOp_inv _ _ _ hs

theorem execBitPopor_keeps : Keeps (execBitPopor s) :=
  bitStepOp_inv _ _ _ hs

theorem execBitPop_keeps : Keeps (execBitPop s) :=
  bitStepOp_inv _ _ _ hs

theorem execBitNota_keeps : Keeps (execBitNota s) :=
  bitStepOp_inv _ _ _ hs

theorem execBitJc_keeps (off : BitVec 11) : Keeps (execBitJc off s) :=
  bitStepOp_inv _ _ _ hs

theorem execBitJnc_keeps (off : BitVec 11) : Keeps (execBitJnc off s) :=
  bitStepOp_inv _ _ _ hs

theorem execBitJmp_keeps (off : BitVec 11) : Keeps (execBitJmp off s) :=
  bitStepOp_inv _ _ _ hs

theorem execBitEnd_keeps : Keeps (execBitEnd s) :=
  bitStepOp_inv _ _ _ hs

/-! ### Bluot -/

theorem execNop_keeps (ln : Fin 8) : Keeps (execNop ln s) :=
  laneOp_inv _ _ _ _ _ hs fun _ _ hl => hl

theorem execEndTask_keeps (ln : Fin 8) : Keeps (execEndTask ln s) :=
  onMod_inv hs fun _ hm => ite_inv (endTask_inv _ _ hm) hm

theorem execBr_keeps (ln : Fin 8) (off : BitVec 20) : Keeps (execBr ln off s) :=
  branchOp_inv _ _ _ _ _ hs

theorem execBt_keeps (ln : Fin 8) (d : Fin 16) (off : BitVec 20) : Keeps (execBt ln d off s) :=
  branchOp_inv _ _ _ _ _ hs

theorem execBf_keeps (ln : Fin 8) (d : Fin 16) (off : BitVec 20) : Keeps (execBf ln d off s) :=
  branchOp_inv _ _ _ _ _ hs

theorem execBnv_keeps (ln : Fin 8) (d : Fin 16) (off : BitVec 20) : Keeps (execBnv ln d off s) :=
  branchOp_inv _ _ _ _ _ hs

theorem execRepeat_keeps (ln : Fin 8) (d : Fin 16) (count : BitVec 9) (body : BitVec 11) : Keeps (execRepeat ln d count body s) :=
  onMod_inv hs fun _ hm => ite_inv (putLane_inv _ _ _ hm <| Lane_wr_inv _ _ _ _ <| hm.buf _) hm

theorem execLdp_keeps (ln : Fin 8) (d : Fin 16) (p : BitVec 13) : Keeps (execLdp ln d p s) :=
  laneOp_inv _ _ _ _ _ hs fun _ _ => Lane_wr_inv _ _ _ _

theorem execStp_keeps (ln : Fin 8) (d : Fin 16) (p : BitVec 13) : Keeps (execStp ln d p s) :=
  onMod_inv hs fun _ hm => ite_inv (putLane_inv _ _ _ (Mod.when_inv hm fun _ => Mod.markFresh_inv _ _) <| Lane_past_inv _ _ <|
    Lane_putRec_inv _ _ _ _ hm <| hm.buf _) hm

theorem execLdage_keeps (ln : Fin 8) (d : Fin 16) (p : BitVec 13) : Keeps (execLdage ln d p s) :=
  laneOp_inv _ _ _ _ _ hs fun _ _ => Lane_wr_inv _ _ _ _

theorem execLdchg_keeps (ln : Fin 8) (d : Fin 16) (p : BitVec 13) : Keeps (execLdchg ln d p s) :=
  laneOp_inv _ _ _ _ _ hs fun _ _ => Lane_wr_inv _ _ _ _

theorem execLdi_keeps (ln : Fin 8) (d : Fin 16) (imm : BitVec 20) : Keeps (execLdi ln d imm s) :=
  laneOp_inv _ _ _ _ _ hs fun _ _ => Lane_wr_inv _ _ _ _

theorem execLdix_keeps (ln : Fin 8) (d : Fin 16) (w : BitVec 32) : Keeps (execLdix ln d w s) :=
  laneOp_inv _ _ _ _ _ hs fun _ _ => Lane_wr_inv _ _ _ _

theorem execLdir_keeps (ln : Fin 8) (d : Fin 16) (w : BitVec 32) : Keeps (execLdir ln d w s) :=
  laneOp_inv _ _ _ _ _ hs fun _ _ => Lane_wr_inv _ _ _ _

theorem execLdk_keeps (ln : Fin 8) (d : Fin 16) (k : BitVec 13) : Keeps (execLdk ln d k s) :=
  laneOp_inv _ _ _ _ _ hs fun _ _ => Lane_wr_inv _ _ _ _

theorem execLdkx_keeps (ln : Fin 8) (d a : Fin 16) (k : BitVec 13) (cnt : BitVec 8) : Keeps (execLdkx ln d a k cnt s) :=
  laneOp_inv _ _ _ _ _ hs fun _ _ => Lane_wr_inv _ _ _ _

theorem execMov_keeps (ln : Fin 8) (d a : Fin 16) : Keeps (execMov ln d a s) :=
  laneOp_inv _ _ _ _ _ hs fun _ _ => Lane_wr_inv _ _ _ _

theorem execLdm_keeps (ln : Fin 8) (d : Fin 16) (n : BitVec 14) (w : BitVec 5) : Keeps (execLdm ln d n w s) :=
  laneOp_inv _ _ _ _ _ hs fun _ _ => Lane_wr_inv _ _ _ _

theorem execStm_keeps (ln : Fin 8) (d : Fin 16) (n : BitVec 14) (w : BitVec 5) : Keeps (execStm ln d n w s) :=
  laneOp_inv _ _ _ _ _ hs fun _ _ => Lane_wrN_inv _ _ _ _

theorem execLdmx_keeps (ln : Fin 8) (d a : Fin 16) (n : BitVec 14) (w cnt : BitVec 5) : Keeps (execLdmx ln d a n w cnt s) :=
  laneOp_inv _ _ _ _ _ hs fun _ _ => Lane_wr_inv _ _ _ _

theorem execStmx_keeps (ln : Fin 8) (d a : Fin 16) (n : BitVec 14) (w cnt : BitVec 5) : Keeps (execStmx ln d a n w cnt s) :=
  laneOp_inv _ _ _ _ _ hs fun _ _ hl => by
    extract_lets
    split
    · exact hl
    · exact Lane_wrN_inv _ _ _ _ hl

theorem execLdt_keeps (ln : Fin 8) (d : Fin 16) : Keeps (execLdt ln d s) :=
  laneOp_inv _ _ _ _ _ hs fun _ _ => Lane_wr_inv _ _ _ _

theorem execAddI_keeps (ln : Fin 8) (d a b : Fin 16) : Keeps (execAddI ln d a b s) :=
  i32Op_inv _ _ _ _ _ _ _ hs

theorem execSubI_keeps (ln : Fin 8) (d a b : Fin 16) : Keeps (execSubI ln d a b s) :=
  i32Op_inv _ _ _ _ _ _ _ hs

theorem execMulI_keeps (ln : Fin 8) (d a b : Fin 16) : Keeps (execMulI ln d a b s) :=
  i32Op_inv _ _ _ _ _ _ _ hs

theorem execDivI_keeps (ln : Fin 8) (d a b : Fin 16) : Keeps (execDivI ln d a b s) :=
  i32Op_inv _ _ _ _ _ _ _ hs

theorem execModI_keeps (ln : Fin 8) (d a b : Fin 16) : Keeps (execModI ln d a b s) :=
  i32Op_inv _ _ _ _ _ _ _ hs

theorem execNegI_keeps (ln : Fin 8) (d a : Fin 16) : Keeps (execNegI ln d a s) :=
  convOp_inv _ _ _ _ _ _ hs

theorem execAbsI_keeps (ln : Fin 8) (d a : Fin 16) : Keeps (execAbsI ln d a s) :=
  convOp_inv _ _ _ _ _ _ hs

theorem execMinI_keeps (ln : Fin 8) (d a b : Fin 16) : Keeps (execMinI ln d a b s) :=
  i32Op_inv _ _ _ _ _ _ _ hs

theorem execMaxI_keeps (ln : Fin 8) (d a b : Fin 16) : Keeps (execMaxI ln d a b s) :=
  i32Op_inv _ _ _ _ _ _ _ hs

theorem execLimI_keeps (ln : Fin 8) (d a b : Fin 16) : Keeps (execLimI ln d a b s) :=
  regOp_inv _ _ _ _ _ _ hs

theorem execAddiI_keeps (ln : Fin 8) (d a : Fin 16) (imm : BitVec 16) : Keeps (execAddiI ln d a imm s) :=
  regOp_inv _ _ _ _ _ _ hs

theorem execAddL_keeps (ln : Fin 8) (d a b : Fin 16) : Keeps (execAddL ln d a b s) :=
  i64Op_inv _ _ _ _ _ _ _ hs

theorem execSubL_keeps (ln : Fin 8) (d a b : Fin 16) : Keeps (execSubL ln d a b s) :=
  i64Op_inv _ _ _ _ _ _ _ hs

theorem execMulL_keeps (ln : Fin 8) (d a b : Fin 16) : Keeps (execMulL ln d a b s) :=
  i64Op_inv _ _ _ _ _ _ _ hs

theorem execDivL_keeps (ln : Fin 8) (d a b : Fin 16) : Keeps (execDivL ln d a b s) :=
  i64Op_inv _ _ _ _ _ _ _ hs

theorem execNegL_keeps (ln : Fin 8) (d a : Fin 16) : Keeps (execNegL ln d a s) :=
  convOp_inv _ _ _ _ _ _ hs

theorem execAbsL_keeps (ln : Fin 8) (d a : Fin 16) : Keeps (execAbsL ln d a s) :=
  convOp_inv _ _ _ _ _ _ hs

theorem execMinL_keeps (ln : Fin 8) (d a b : Fin 16) : Keeps (execMinL ln d a b s) :=
  i64Op_inv _ _ _ _ _ _ _ hs

theorem execMaxL_keeps (ln : Fin 8) (d a b : Fin 16) : Keeps (execMaxL ln d a b s) :=
  i64Op_inv _ _ _ _ _ _ _ hs

theorem execLimL_keeps (ln : Fin 8) (d a b : Fin 16) : Keeps (execLimL ln d a b s) :=
  regOp_inv _ _ _ _ _ _ hs

theorem execAddF_keeps (ln : Fin 8) (d a b : Fin 16) : Keeps (execAddF ln d a b s) :=
  f32Op_inv _ _ _ _ _ _ _ hs

theorem execSubF_keeps (ln : Fin 8) (d a b : Fin 16) : Keeps (execSubF ln d a b s) :=
  f32Op_inv _ _ _ _ _ _ _ hs

theorem execMulF_keeps (ln : Fin 8) (d a b : Fin 16) : Keeps (execMulF ln d a b s) :=
  f32Op_inv _ _ _ _ _ _ _ hs

theorem execDivF_keeps (ln : Fin 8) (d a b : Fin 16) : Keeps (execDivF ln d a b s) :=
  f32Op_inv _ _ _ _ _ _ _ hs

theorem execSqrtF_keeps (ln : Fin 8) (d a : Fin 16) : Keeps (execSqrtF ln d a s) :=
  convOp_inv _ _ _ _ _ _ hs

theorem execNegF_keeps (ln : Fin 8) (d a : Fin 16) : Keeps (execNegF ln d a s) :=
  convOp_inv _ _ _ _ _ _ hs

theorem execAbsF_keeps (ln : Fin 8) (d a : Fin 16) : Keeps (execAbsF ln d a s) :=
  convOp_inv _ _ _ _ _ _ hs

theorem execMinF_keeps (ln : Fin 8) (d a b : Fin 16) : Keeps (execMinF ln d a b s) :=
  f32NumOp_inv _ _ _ _ _ _ _ hs

theorem execMaxF_keeps (ln : Fin 8) (d a b : Fin 16) : Keeps (execMaxF ln d a b s) :=
  f32NumOp_inv _ _ _ _ _ _ _ hs

theorem execLimF_keeps (ln : Fin 8) (d a b : Fin 16) : Keeps (execLimF ln d a b s) :=
  regOp_inv _ _ _ _ _ _ hs

theorem execMacF_keeps (ln : Fin 8) (d a b : Fin 16) : Keeps (execMacF ln d a b s) :=
  regOp_inv _ _ _ _ _ _ hs

theorem execI2l_keeps (ln : Fin 8) (d a : Fin 16) : Keeps (execI2l ln d a s) :=
  convOp_inv _ _ _ _ _ _ hs

theorem execL2i_keeps (ln : Fin 8) (d a : Fin 16) : Keeps (execL2i ln d a s) :=
  convOp_inv _ _ _ _ _ _ hs

theorem execI2f_keeps (ln : Fin 8) (d a : Fin 16) : Keeps (execI2f ln d a s) :=
  convOp_inv _ _ _ _ _ _ hs

theorem execF2i_keeps (ln : Fin 8) (d a : Fin 16) : Keeps (execF2i ln d a s) :=
  convOp_inv _ _ _ _ _ _ hs

theorem execL2f_keeps (ln : Fin 8) (d a : Fin 16) : Keeps (execL2f ln d a s) :=
  convOp_inv _ _ _ _ _ _ hs

theorem execF2l_keeps (ln : Fin 8) (d a : Fin 16) : Keeps (execF2l ln d a s) :=
  convOp_inv _ _ _ _ _ _ hs

theorem execAnd64_keeps (ln : Fin 8) (d a b : Fin 16) : Keeps (execAnd64 ln d a b s) :=
  bitOp_inv _ _ _ _ _ _ _ hs

theorem execOr64_keeps (ln : Fin 8) (d a b : Fin 16) : Keeps (execOr64 ln d a b s) :=
  bitOp_inv _ _ _ _ _ _ _ hs

theorem execXor64_keeps (ln : Fin 8) (d a b : Fin 16) : Keeps (execXor64 ln d a b s) :=
  bitOp_inv _ _ _ _ _ _ _ hs

theorem execNotB_keeps (ln : Fin 8) (d a : Fin 16) : Keeps (execNotB ln d a s) :=
  convOp_inv _ _ _ _ _ _ hs

theorem execInv64_keeps (ln : Fin 8) (d a : Fin 16) : Keeps (execInv64 ln d a s) :=
  convOp_inv _ _ _ _ _ _ hs

theorem execShl_keeps (ln : Fin 8) (d a b : Fin 16) : Keeps (execShl ln d a b s) :=
  bitOp_inv _ _ _ _ _ _ _ hs

theorem execShr_keeps (ln : Fin 8) (d a b : Fin 16) : Keeps (execShr ln d a b s) :=
  bitOp_inv _ _ _ _ _ _ _ hs

theorem execSar_keeps (ln : Fin 8) (d a b : Fin 16) : Keeps (execSar ln d a b s) :=
  bitOp_inv _ _ _ _ _ _ _ hs

theorem execCmpI_keeps (ln : Fin 8) (d a b : Fin 16) (c : Cond) : Keeps (execCmpI ln d a b c s) :=
  regOp_inv _ _ _ _ _ _ hs

theorem execCmpL_keeps (ln : Fin 8) (d a b : Fin 16) (c : Cond) : Keeps (execCmpL ln d a b c s) :=
  regOp_inv _ _ _ _ _ _ hs

theorem execCmpF_keeps (ln : Fin 8) (d a b : Fin 16) (c : Cond) : Keeps (execCmpF ln d a b c s) :=
  regOp_inv _ _ _ _ _ _ hs

theorem execSel_keeps (ln : Fin 8) (d a b : Fin 16) : Keeps (execSel ln d a b s) :=
  laneOp_inv _ _ _ _ _ hs fun _ _ => Lane_wr_inv _ _ _ _

theorem execQld_keeps (ln : Fin 8) (d a : Fin 16) : Keeps (execQld ln d a s) :=
  laneOp_inv _ _ _ _ _ hs fun _ _ => Lane_wr_inv _ _ _ _

theorem execQtst_keeps (ln : Fin 8) (d a : Fin 16) (mask : BitVec 16) : Keeps (execQtst ln d a mask s) :=
  laneOp_inv _ _ _ _ _ hs fun _ _ => Lane_wr_inv _ _ _ _

theorem execQset_keeps (ln : Fin 8) (d : Fin 16) (mask : BitVec 16) : Keeps (execQset ln d mask s) :=
  laneOp_inv _ _ _ _ _ hs fun _ _ => Lane_wrQ_inv _ _ _

theorem execQval_keeps (ln : Fin 8) (d : Fin 16) : Keeps (execQval ln d s) :=
  laneOp_inv _ _ _ _ _ hs fun _ _ => Lane_wrQ_inv _ _ _

theorem execQcpy_keeps (ln : Fin 8) (d a : Fin 16) : Keeps (execQcpy ln d a s) :=
  laneOp_inv _ _ _ _ _ hs fun _ _ => Lane_wrQ_inv _ _ _

theorem execTon_keeps (ln : Fin 8) (d : Fin 16) (n : BitVec 14) : Keeps (execTon ln d n s) :=
  timerOp_inv _ _ _ _ _ _ hs

theorem execTof_keeps (ln : Fin 8) (d : Fin 16) (n : BitVec 14) : Keeps (execTof ln d n s) :=
  timerOp_inv _ _ _ _ _ _ hs

theorem execTp_keeps (ln : Fin 8) (d : Fin 16) (n : BitVec 14) : Keeps (execTp ln d n s) :=
  timerOp_inv _ _ _ _ _ _ hs

theorem execCtu_keeps (ln : Fin 8) (d : Fin 16) (n : BitVec 14) : Keeps (execCtu ln d n s) :=
  counterOp_inv _ _ _ _ _ _ _ hs

theorem execCtd_keeps (ln : Fin 8) (d : Fin 16) (n : BitVec 14) : Keeps (execCtd ln d n s) :=
  counterOp_inv _ _ _ _ _ _ _ hs

theorem execRTrig_keeps (ln : Fin 8) (d : Fin 16) (n : BitVec 14) : Keeps (execRTrig ln d n s) :=
  edgeOp_inv _ _ _ _ _ _ hs

theorem execFTrig_keeps (ln : Fin 8) (d : Fin 16) (n : BitVec 14) : Keeps (execFTrig ln d n s) :=
  edgeOp_inv _ _ _ _ _ _ hs

theorem execSrBlk_keeps (ln : Fin 8) (d : Fin 16) (n : BitVec 14) : Keeps (execSrBlk ln d n s) :=
  bistableOp_inv _ _ _ _ _ _ hs

theorem execRsBlk_keeps (ln : Fin 8) (d : Fin 16) (n : BitVec 14) : Keeps (execRsBlk ln d n s) :=
  bistableOp_inv _ _ _ _ _ _ hs

theorem execInx_keeps (ln : Fin 8) (p : BitVec 13) : Keeps (execInx ln p s) :=
  onMod_inv hs fun _ hm => by
    refine ite_inv (ite_inv (laneRegion_inv _ _ <| Mod.regionViolation_inv _ _ _ _ hm) ?_) hm
    split
    · exact putLane_inv _ _ _ hm <| Lane_past_inv _ _ <| hm.buf _
    · exact putLane_inv _ _ _ (Mod.when_inv hm fun _ => Mod.markFresh_inv _ _) <| Lane_past_inv _ _ <|
        Lane_putRec_inv _ _ _ _ hm <| hm.buf _

theorem execOutx_keeps (ln : Fin 8) (p : BitVec 13) : Keeps (execOutx ln p s) :=
  onMod_inv hs fun _ hm => ite_inv (ite_inv (laneRegion_inv _ _ <| Mod.regionViolation_inv _ _ _ _ hm) <| putLane_inv _ _ _
    (stagePoint_inv _ _ _ _ hm) <| Lane_past_inv _ _ <| hm.buf _) hm

/-! ### Session commands -/

theorem execOpSessClose_keeps (h : BitVec 10) (seq : BitVec 32) : Keeps (execOpSessClose h seq s) :=
  opRow_inv _ _ _ _ _ hs fun _ hm _ _ _ => Mod.setSess_inv _ _ _ hm

theorem execOpSessInfo_keeps (h : BitVec 10) (seq : BitVec 32) : Keeps (execOpSessInfo h seq s) :=
  opRow_inv _ _ _ _ _ hs fun _ hm _ _ _ => hm

theorem execOpSessList_keeps (h : BitVec 10) (seq : BitVec 32) : Keeps (execOpSessList h seq s) :=
  opRow_inv _ _ _ _ _ hs fun _ hm _ _ _ => ite_fst_inv hm hm

theorem execOpSessKill_keeps (h : BitVec 10) (seq : BitVec 32) : Keeps (execOpSessKill h seq s) :=
  opRow_inv _ _ _ _ _ hs fun _ hm _ _ _ => ite_fst_inv hm <| Mod.closeSess_inv _ _ hm

/-! ### Point commands -/

theorem execOpPtRead_keeps (h : BitVec 10) (seq : BitVec 32) : Keeps (execOpPtRead h seq s) :=
  opRow_inv _ _ _ _ _ hs fun _ hm _ _ _ => by
    refine ite_fst_inv hm ?_
    split
    · exact hm
    · exact Mod.ptRead_inv _ _ _ hm

theorem execOpPtReadRange_keeps (h : BitVec 10) (seq : BitVec 32) : Keeps (execOpPtReadRange h seq s) :=
  opRow_inv _ _ _ _ _ hs fun _ hm _ _ _ => ite_fst_inv hm <| ite_fst_inv hm <| Mod.ptRead_inv _ _ _ hm

theorem execOpPtWrite_keeps (h : BitVec 10) (seq : BitVec 32) : Keeps (execOpPtWrite h seq s) :=
  opRow_inv _ _ _ _ _ hs fun _ hm _ _ _ => by
    refine ite_fst_inv (Mod.badState_inv _ hm) <| ite_fst_inv hm ?_
    split
    · exact hm
    · split
      · exact hm
      · split
        · exact hm
        · split
          · exact hm
          · split
            · exact Mod.ptBlocked_inv _ _ _ hm
            · exact Mod.peerAnswer_inv _ _ _ _ hm fun _ h => foldl_inv h fun _ h _ => Mod.applyPt_inv _ _ h

theorem execOpPtForce_keeps (h : BitVec 10) (seq : BitVec 32) : Keeps (execOpPtForce h seq s) :=
  opRow_inv _ _ _ _ _ hs fun _ hm _ _ _ => by
    refine ite_fst_inv (Mod.badState_inv _ hm) <| ite_fst_inv hm <| ite_fst_inv hm ?_
    split
    · exact hm
    · refine ite_fst_inv hm ?_
      split
      · exact Mod.ptBlocked_inv _ _ _ hm
      · exact Mod.peerAnswer_inv _ _ _ _ hm fun _ => Mod.applyPt_inv _ _

theorem execOpPtRelease_keeps (h : BitVec 10) (seq : BitVec 32) : Keeps (execOpPtRelease h seq s) :=
  opRow_inv _ _ _ _ _ hs fun _ hm _ _ _ => by
    refine ite_fst_inv (Mod.badState_inv _ hm) <| ite_fst_inv ?_ <| ite_fst_inv hm <| ite_fst_inv hm ?_
    · extract_lets
      split
      · exact Mod.ptBlocked_inv _ _ _ hm
      · exact foldl_inv (Mod.drawn_inv _ hm) fun _ h _ => Mod.applyPt_inv _ _ h
    · split
      · exact hm
      · split
        · exact Mod.ptBlocked_inv _ _ _ hm
        · exact Mod.peerAnswer_inv _ _ _ _ hm fun _ h => ite_fst_inv (Mod.applyPt_inv _ _ h) h

theorem execOpPtForces_keeps (h : BitVec 10) (seq : BitVec 32) : Keeps (execOpPtForces h seq s) :=
  opRow_inv _ _ _ _ _ hs fun _ hm _ _ _ => Mod.drawnN_inv _ _ <| Mod.drawn_inv _ hm

/-! ### Plan commands -/

theorem execOpPkgBegin_keeps (h : BitVec 10) (seq : BitVec 32) : Keeps (execOpPkgBegin h seq s) :=
  opRow_inv _ _ _ _ _ hs fun _ hm _ _ _ => ite_fst_inv (Mod.badState_inv _ hm) <| ite_fst_inv hm <| Mod.setPkg_inv _ _ hm

theorem execOpPkgBlock_keeps (h : BitVec 10) (seq : BitVec 32) : Keeps (execOpPkgBlock h seq s) :=
  opRow_inv _ _ _ _ _ hs fun _ hm _ _ _ => by
    refine ite_fst_inv (Mod.badState_inv _ hm) ?_
    split
    · exact Mod.setPkg_inv _ _ hm
    · exact hm

theorem execOpPkgEnd_keeps (h : BitVec 10) (seq : BitVec 32) : Keeps (execOpPkgEnd h seq s) :=
  opRow_inv _ _ _ _ _ hs fun _ hm _ _ _ => by
    refine ite_fst_inv (Mod.badState_inv _ hm) ?_
    split
    · exact hm
    · split
      · exact hm
      · exact ite_fst_inv hm <| Mod.set_inv _ _ <| Mod.set_inv _ _ <| Mod.set_inv _ _ <|
          Mod.frame_inv (Mod.putPkg_inv _ _ _ <| Mod.putSlot_inv _ _ _ <| Mod.setPkg_inv _ _ hm)

theorem execOpPlanActivate_keeps (h : BitVec 10) (seq : BitVec 32) : Keeps (execOpPlanActivate h seq s) :=
  opRow_inv _ _ _ _ _ hs fun _ hm _ _ _ => by
    refine ite_fst_inv (Mod.badState_inv _ hm) <| ite_fst_inv hm ?_
    split
    · exact hm
    · refine ite_fst_inv hm <| ite_fst_inv hm ?_
      split
      · exact hm
      · refine ite_fst_inv ?_ <| ite_fst_inv (Mod.beginRestart_inv _ _ _ <| Mod.planAct_inv _ _ _ hm) <| Mod.badState_inv _ hm
        split
        case _ r hr => exact Mod.armRefused_inv _ _ _ hm r hr
        · exact Mod.armSwap_inv _ _ _ _ hm

theorem execOpPlanCancel_keeps (h : BitVec 10) (seq : BitVec 32) : Keeps (execOpPlanCancel h seq s) :=
  opRow_inv _ _ _ _ _ hs fun _ hm _ _ _ => ite_fst_inv (Mod.setB_inv _ _ _ <| Mod.cancelSwap_inv _ hm) <| ite_fst_inv hm hm

theorem execOpPlanRead_keeps (h : BitVec 10) (seq : BitVec 32) : Keeps (execOpPlanRead h seq s) :=
  opRow_inv _ _ _ _ _ hs fun _ hm _ _ _ => by
    refine ite_fst_inv hm <| ite_fst_inv hm <| ite_fst_inv hm ?_
    split
    · exact ite_fst_inv hm <| Mod.badState_inv _ hm
    · exact hm

theorem execOpBitprogLoad_keeps (h : BitVec 10) (seq : BitVec 32) : Keeps (execOpBitprogLoad h seq s) :=
  opRow_inv _ _ _ _ _ hs fun _ hm _ _ _ => by
    refine ite_fst_inv hm ?_
    split
    · exact Mod.frame_inv hm
    · split
      · exact Mod.bitprogStore_inv _ _ _ _ _ <| Mod.frame_inv <| Mod.frame_inv hm
      · exact ite_fst_inv (Mod.frame_inv hm) <| Mod.frame_inv hm

theorem execOpBitprogRead_keeps (h : BitVec 10) (seq : BitVec 32) : Keeps (execOpBitprogRead h seq s) :=
  opRow_inv _ _ _ _ _ hs fun _ hm _ _ _ => ite_fst_inv hm hm

/-! ### Firmware and keys -/

theorem execOpUpdBegin_keeps (h : BitVec 10) (seq : BitVec 32) : Keeps (execOpUpdBegin h seq s) :=
  opRow_inv _ _ _ _ _ hs fun _ hm _ _ _ => ite_fst_inv hm <| Mod.otherShow_inv _ <| Mod.set_inv _ _ <| Mod.set_inv _ _ <|
    Mod.frame_inv <| Mod.setUpd_inv _ _ <| Mod.bankMap_inv _ _ _ <| Mod.frame_inv hm

theorem execOpUpdBlock_keeps (h : BitVec 10) (seq : BitVec 32) : Keeps (execOpUpdBlock h seq s) :=
  opRow_inv _ _ _ _ _ hs fun _ hm _ _ _ => by
    extract_lets
    split
    · exact hm
    · exact Mod.set_inv _ _ <| Mod.setUpd_inv _ _ <| Mod.frame_inv hm

theorem execOpUpdEnd_keeps (h : BitVec 10) (seq : BitVec 32) : Keeps (execOpUpdEnd h seq s) :=
  opRow_inv _ _ _ _ _ hs fun _ hm _ _ _ => by
    split
    · exact hm
    · split
      · exact hm
      · exact ite_fst_inv hm <| ite_fst_inv hm <| Mod.set_inv _ _ <| Mod.set_inv _ _ hm

theorem execUpdVerifyComplete_keeps (pages header : Bool) : Keeps (execUpdVerifyComplete pages header s) :=
  onMod_inv hs fun _ hm => by
    split
    · exact hm
    · extract_lets _ _ m₁
      have h₁ : m₁.Inv := Mod.setUpd_inv _ _ hm
      split
      · exact Mod.log_inv _ _ _ _ <| Mod.set_inv _ _ <| Mod.set_inv _ _ h₁
      · exact Mod.log_inv _ _ _ _ <| Mod.otherShow_inv _ <| Mod.set_inv _ _ <| Mod.set_inv _ _ <| Mod.bankMap_inv _ _ _ h₁

theorem execOpUpdActivate_keeps (h : BitVec 10) (seq : BitVec 32) : Keeps (execOpUpdActivate h seq s) :=
  opRow_inv _ _ _ _ _ hs fun _ hm _ _ _ => ite_fst_inv hm <| Mod.actStart_inv _ hm

theorem execUpdActivation_keeps : Keeps (execUpdActivation s) :=
  onMod_inv hs fun _ hm => ite_inv hm <| Mod.hardRestart_inv _ _ <| Mod.when_inv (Mod.log_inv _ _ _ _ <| Mod.bankMap_inv _ _ _ hm)
    fun _ => Mod.log_inv _ _ _ _

theorem execOpUpdStatus_keeps (h : BitVec 10) (seq : BitVec 32) : Keeps (execOpUpdStatus h seq s) :=
  opRow_inv _ _ _ _ _ hs fun _ hm _ _ _ => hm

theorem execFwConfirm_keeps : Keeps (execFwConfirm s) :=
  onMod_inv hs fun _ hm => ite_inv (Mod.log_inv _ _ _ _ <| Mod.when_inv (Mod.set_inv _ _ <| Mod.bankMap_inv _ _ _ <|
    Mod.frame_inv hm) fun _ => Mod.set_inv _ _) hm

theorem execOpKeyStage_keeps (h : BitVec 10) (seq : BitVec 32) : Keeps (execOpKeyStage h seq s) :=
  opRow_inv _ _ _ _ _ hs fun _ hm _ _ _ => ite_fst_inv hm <| ite_fst_inv hm <| Mod.log_inv _ _ _ _ <| Mod.setStaged_inv _ _ _ <|
    Mod.drawnN_inv _ _ hm

theorem execOpKeyVerify_keeps (h : BitVec 10) (seq : BitVec 32) : Keeps (execOpKeyVerify h seq s) :=
  opRow_inv _ _ _ _ _ hs fun _ hm _ _ _ => by
    extract_lets
    split
    · exact hm
    · exact Mod.setStaged_inv _ _ _ hm

theorem execOpKeyCommit_keeps (h : BitVec 10) (seq : BitVec 32) : Keeps (execOpKeyCommit h seq s) :=
  opRow_inv _ _ _ _ _ hs fun _ hm _ _ _ => by
    extract_lets
    split
    · exact hm
    · exact ite_fst_inv hm <| ite_fst_inv hm <| Mod.paramPut_inv _ _ _ _ <| Mod.frame_inv hm

theorem execOpKeyDiscard_keeps (h : BitVec 10) (seq : BitVec 32) : Keeps (execOpKeyDiscard h seq s) :=
  opRow_inv _ _ _ _ _ hs fun _ hm _ _ _ => ite_fst_inv hm <| Mod.setStaged_inv _ _ _ hm

theorem execOpKeyList_keeps (h : BitVec 10) (seq : BitVec 32) : Keeps (execOpKeyList h seq s) :=
  opRow_inv _ _ _ _ _ hs fun _ hm _ _ _ => hm

theorem execKeyRemaskPass_keeps : Keeps (execKeyRemaskPass s) :=
  onMod_inv hs fun _ hm => ite_inv hm <| Mod.addWrap_inv _ _ _ <| foldl_inv hm fun _ h _ => Mod.drawnN_inv _ _ <| Mod.frame_inv h

theorem execStagedKeyExpiry_keeps (i : Fin 8) : Keeps (execStagedKeyExpiry i s) :=
  onMod_inv hs fun _ hm => by
    split
    · exact ite_inv (Mod.setStaged_inv _ _ _ hm) hm
    · exact hm

theorem execLifecycleAdvance_keeps (signer sig unit : List (BitVec 8)) : Keeps (execLifecycleAdvance signer sig unit s) :=
  onMod_inv hs fun _ hm => ite_inv (Mod.frame_inv hm) <| ite_inv (Mod.keyShow_inv _ <| Mod.testKeys_inv _ <| Mod.frame_inv hm) hm

/-! ### Safety and state commands -/

theorem execOpSafeUnlock_keeps (h : BitVec 10) (seq : BitVec 32) : Keeps (execOpSafeUnlock h seq s) :=
  opRow_inv _ _ _ _ _ hs fun _ hm _ _ _ => ite_fst_inv hm <| ite_fst_inv hm <| ite_fst_inv (Mod.setSess_inv _ _ _ <|
    Mod.frame_inv hm) <| Mod.pwWrong_inv _ hm

theorem execOpSafeLock_keeps (h : BitVec 10) (seq : BitVec 32) : Keeps (execOpSafeLock h seq s) :=
  opRow_inv _ _ _ _ _ hs fun _ hm _ _ _ => Mod.setSess_inv _ _ _ hm

theorem execOpSafePwSet_keeps (h : BitVec 10) (seq : BitVec 32) : Keeps (execOpSafePwSet h seq s) :=
  opRow_inv _ _ _ _ _ hs fun _ hm _ _ _ => by
    refine ite_fst_inv hm ?_
    split
    · exact hm
    · extract_lets _ m₁
      have h₁ : m₁.Inv := Mod.safeTouch_inv _ _ <| Mod.changeAct_inv _ _ _ _ _ _ hm
      exact ite_fst_inv (Mod.paramPut_inv _ _ _ _ h₁) <| Mod.pwWrong_inv _ h₁

theorem execOpSafePwClear_keeps (h : BitVec 10) (seq : BitVec 32) : Keeps (execOpSafePwClear h seq s) :=
  opRow_inv _ _ _ _ _ hs fun _ hm _ _ _ => ite_fst_inv hm <| ite_fst_inv (Mod.badState_inv _ hm) <| Mod.paramDel_inv _ _ _ <|
    Mod.change_inv _ _ _ _ _ hm

theorem execOpSafeAck_keeps (h : BitVec 10) (seq : BitVec 32) (on : Bool) : Keeps (execOpSafeAck h seq on s) :=
  opRow_inv _ _ _ _ _ hs fun _ hm _ _ _ => by
    split
    · extract_lets _ _ m₁
      have h₁ : m₁.Inv := Mod.safeTouch_inv _ _ <| Mod.changeAct_inv _ _ _ _ _ _ hm
      exact ite_fst_inv h₁ <| ite_fst_inv h₁ <| Mod.ackPair_inv _ _ h₁
    · exact hm

theorem execOpSafeTest_keeps (h : BitVec 10) (seq : BitVec 32) (badA badB : Bool) : Keeps (execOpSafeTest h seq badA badB s) :=
  opRow_inv _ _ _ _ _ hs fun _ hm _ _ _ => by
    have ht (k : Nat) := Mod.safeTouch_inv _ k hm
    refine ite_fst_inv (ht _) <| ite_fst_inv (Mod.badState_inv _ <| ht _) ?_
    extract_lets _ _ _ fault
    have hf (m : Mod) (h : m.Inv) (chB : Bool) : (fault m chB).Inv :=
      ite_inv (Mod.log_inv _ _ _ _ <| Mod.siShow_inv _ _ <| Mod.siClear_inv _ _ <| Mod.set_inv _ _ <| Mod.set_inv _ _ h) <|
        Mod.pairFault_inv _ _ _ _ <| Mod.seen_inv _ _ _ _ h
    exact Mod.when_inv (Mod.when_inv (ht _) fun _ h => hf _ h _) fun _ h => hf _ h _

theorem execOpSafeLogAck_keeps (h : BitVec 10) (seq : BitVec 32) : Keeps (execOpSafeLogAck h seq s) :=
  opRow_inv _ _ _ _ _ hs fun _ hm _ _ _ => Mod.safeTouch_inv _ _ <| Mod.frame_inv hm

theorem execOpStateStop_keeps (h : BitVec 10) (seq : BitVec 32) : Keeps (execOpStateStop h seq s) :=
  opRow_inv _ _ _ _ _ hs fun _ hm _ _ _ => ite_fst_inv (Mod.badState_inv _ hm) <| Mod.enterStopped_inv _ <| Mod.abortTests_inv _ hm

theorem execOpStateRestart_keeps (h : BitVec 10) (seq : BitVec 32) : Keeps (execOpStateRestart h seq s) :=
  opRow_inv _ _ _ _ _ hs fun _ hm _ _ _ => ite_fst_inv (Mod.badState_inv _ hm) <| ite_fst_inv hm <| Mod.beginRestart_inv _ _ _ <|
    Mod.noAuto_inv _ hm

theorem execOpStateBit_keeps (h : BitVec 10) (seq : BitVec 32) : Keeps (execOpStateBit h seq s) :=
  opRow_inv _ _ _ _ _ hs fun _ hm _ _ _ => ite_fst_inv (Mod.badState_inv _ hm) <| Mod.enterBit_inv _ <| Mod.noAuto_inv _ hm

theorem execOpStateService_keeps (h : BitVec 10) (seq : BitVec 32) : Keeps (execOpStateService h seq s) :=
  opRow_inv _ _ _ _ _ hs fun _ hm _ _ _ => ite_fst_inv (Mod.badState_inv _ hm) <| Mod.goto_inv _ _ <| Mod.frame_inv <|
    Mod.noAuto_inv _ hm

theorem execOpStateRelease_keeps (h : BitVec 10) (seq : BitVec 32) : Keeps (execOpStateRelease h seq s) :=
  opRow_inv _ _ _ _ _ hs fun _ hm _ _ _ => ite_fst_inv (Mod.badState_inv _ hm) <| Mod.leaveService_inv _ hm

theorem execOpStateGet_keeps (h : BitVec 10) (seq : BitVec 32) : Keeps (execOpStateGet h seq s) :=
  opRow_inv _ _ _ _ _ hs fun _ hm _ _ _ => hm

theorem execOpPwrStatus_keeps (h : BitVec 10) (seq : BitVec 32) : Keeps (execOpPwrStatus h seq s) :=
  opRow_inv _ _ _ _ _ hs fun _ hm _ _ _ => hm

/-! ### Pair, bus and diagnostic commands -/

theorem execOpTwinStatus_keeps (h : BitVec 10) (seq : BitVec 32) : Keeps (execOpTwinStatus h seq s) :=
  opRow_inv _ _ _ _ _ hs fun _ hm _ _ _ => hm

theorem execOpTwinSwap_keeps (h : BitVec 10) (seq : BitVec 32) : Keeps (execOpTwinSwap h seq s) :=
  opRow_inv _ _ _ _ _ hs fun _ hm _ _ _ => ite_fst_inv (Mod.set_inv _ _ hm) <| ite_fst_inv (Mod.badState_inv _ <|
    Mod.set_inv _ _ hm) <| Mod.frame_inv hm

theorem execOpBusXfer_keeps (h : BitVec 10) (seq : BitVec 32) : Keeps (execOpBusXfer h seq s) :=
  opRow_inv _ _ _ _ _ hs fun _ hm _ _ _ => ite_fst_inv hm <| ite_fst_inv hm <| ite_fst_inv hm <| Mod.setPass_inv _ _ <|
    Mod.frame_inv hm

theorem execOpBusResult_keeps (h : BitVec 10) (seq : BitVec 32) : Keeps (execOpBusResult h seq s) :=
  opRow_inv _ _ _ _ _ hs fun _ hm _ _ _ => by
    extract_lets
    split
    · exact hm
    · refine ite_fst_inv hm ?_
      split <;> exact hm

theorem execOpBusRecv_keeps (h : BitVec 10) (seq : BitVec 32) : Keeps (execOpBusRecv h seq s) :=
  opRow_inv _ _ _ _ _ hs fun _ hm _ _ _ => by
    split
    · exact hm
    · exact ite_fst_inv hm hm

theorem execOpDiagOutput_keeps (h : BitVec 10) (seq : BitVec 32) : Keeps (execOpDiagOutput h seq s) :=
  opRow_inv _ _ _ _ _ hs fun _ hm _ _ _ => by
    split
    · exact hm
    · exact ite_fst_inv (Mod.badState_inv _ hm) <| ite_fst_inv hm <| ite_fst_inv hm <| Mod.outMap_inv _ _ _ hm

theorem execOpDiagRelease_keeps (h : BitVec 10) (seq : BitVec 32) : Keeps (execOpDiagRelease h seq s) :=
  opRow_inv _ _ _ _ _ hs fun _ hm _ _ _ => by
    refine ite_fst_inv hm <| ite_fst_inv (Mod.badState_inv _ hm) ?_
    split
    · exact Mod.outMap_inv _ _ _ hm
    · exact Mod.frame_inv hm

theorem execOpDiagBanktest_keeps (h : BitVec 10) (seq : BitVec 32) : Keeps (execOpDiagBanktest h seq s) :=
  opRow_inv _ _ _ _ _ hs fun _ hm _ _ _ => ite_fst_inv hm <| ite_fst_inv (Mod.badState_inv _ hm) <| Mod.memFrame_inv hm rfl

theorem execBankTestComplete_keeps (b : Fin 8) (bad : BitVec 11) : Keeps (execBankTestComplete b bad s) :=
  onMod_inv hs fun _ hm => ite_inv (Mod.log_inv _ _ _ _ <| foldl_inv (Mod.memFrame_inv hm rfl) fun _ h _ =>
    Mod.bankFault_inv _ _ h) hm

theorem execOpDiagCounters_keeps (h : BitVec 10) (seq : BitVec 32) : Keeps (execOpDiagCounters h seq s) :=
  opRow_inv _ _ _ _ _ hs fun _ hm _ _ _ => by
    split
    · exact hm
    · exact hm

theorem execOpDiagEcho_keeps (h : BitVec 10) (seq : BitVec 32) : Keeps (execOpDiagEcho h seq s) :=
  opRow_inv _ _ _ _ _ hs fun _ hm _ _ _ => hm

/-! ### Twin modes -/

theorem execStringLaneUp_keeps (lane : Fin 2) : Keeps (execStringLaneUp lane s) :=
  onMod_inv hs fun _ hm => ite_inv hm <| ite_inv (ite_inv (Mod.set_inv _ _ hm) <| Mod.set_inv _ _ hm) <| Mod.frameOut_inv _ <|
    Mod.set_inv _ _ <| Mod.frame_inv <| ite_inv (Mod.set_inv _ _ hm) <| Mod.set_inv _ _ hm

theorem execStringLaneDown_keeps (lane : Fin 2) : Keeps (execStringLaneDown lane s) :=
  onMod_inv hs fun _ hm => ite_inv hm <| ite_inv (Mod.log_inv _ _ _ _ <| Mod.set_inv _ _ hm) <| Mod.linkDown_inv _ <|
    Mod.log_inv _ _ _ _ <| Mod.set_inv _ _ hm

theorem execSplitEnd_keeps : Keeps (execSplitEnd s) :=
  onMod_inv hs fun _ hm => ite_inv (ite_inv (Mod.closeAll_inv _ <| Mod.set_inv _ _ hm) <| Mod.set_inv _ _ hm) hm

theorem execTwinTimeSend_keeps : Keeps (execTwinTimeSend s) :=
  onMod_inv hs fun _ hm => ite_inv (Mod.frameOut_inv _ hm) hm

theorem execTwinTimeRx_keeps (seq : BitVec 32) (lanes : BitVec 2) (sent delay rx : Nat) (tstat exec plan : BitVec 32) : Keeps
    (execTwinTimeRx seq lanes sent delay rx tstat exec plan s) :=
  onFrame_inv _ _ _ _ _ hs fun _ hm => by
    extract_lets _ _ m₁ _ _ m₂ m₃
    have h₁ : m₁.Inv := Mod.set_inv _ _ <| Mod.set_inv _ _ hm
    have h₃ : m₃.Inv := Mod.when_inv (Mod.frame_inv h₁) fun _ => Mod.splitEnter_inv _
    exact ite_inv h₃ <| ite_inv (Mod.ownTime_inv _ <| Mod.setB_inv _ _ _ h₃) <|
      Mod.followPeer_inv _ _ _ <| Mod.setB_inv _ _ _ h₃

theorem execControlFrameRx_keeps (seq : BitVec 32) (lanes : BitVec 2) (k : CtlKind) : Keeps (execControlFrameRx seq lanes k s) :=
  onFrame_inv _ _ _ _ _ hs fun _ hm => by
    extract_lets m₁
    have h₁ : m₁.Inv := Mod.coreWake_inv _ hm
    split
    · exact Mod.pairInfo_inv _ _ _ _ h₁
    · exact ite_inv (Mod.frame_inv h₁) h₁
    · exact Mod.planFromPeer_inv _ _ h₁
    · exact Mod.peerArm_inv _ _ h₁
    · exact Mod.frame_inv h₁
    · exact Mod.peerCommand_inv _ _ _ h₁
    · exact Mod.frame_inv h₁
    · exact ite_inv (Mod.actStart_inv _ h₁) h₁
    · exact Mod.frame_inv h₁
    · exact ite_inv (Mod.frame_inv h₁) h₁

theorem execSideBWaitTimeout_keeps : Keeps (execSideBWaitTimeout s) :=
  onMod_inv hs fun _ hm => Mod.when_inv hm fun _ => Mod.waitEnd_inv _

theorem execMirrorFrameRx_keeps (seq : BitVec 32) (lanes : BitVec 2) (tile : Fin 8192) (bytes : List Byte) (crc : BitVec 32) :
    Keeps (execMirrorFrameRx seq lanes tile bytes crc s) :=
  onFrame_inv _ _ _ _ _ hs fun _ hm => ite_inv (Mod.addSat_inv _ _ _ hm) <| ite_inv hm <| ite_inv hm <|
    Mod.mirrorWrite_inv _ _ _ hm

theorem execOrporFrameRx_keeps (seq : BitVec 32) (lanes : BitVec 2) (via : Fin 3) (packet : List Byte) : Keeps (execOrporFrameRx
    seq lanes via packet s) :=
  onFrame_inv _ _ _ _ _ hs fun _ hm => ite_inv hm <| ite_inv (Mod.coreWake_inv _ <| Mod.poolPut_inv _ _ hm) <| ite_inv
    (Mod.poolPut_inv _ _ hm) <| ite_inv (Mod.poolPut_inv _ _ hm) <| Mod.poolLose_inv _ _ <| Mod.poolPut_inv _ _ hm

theorem execForwardFrameRx_keeps (seq : BitVec 32) (lanes : BitVec 2) (items : List (Nat × BitVec 64 × BitVec 16 × Bool)) : Keeps
    (execForwardFrameRx seq lanes items s) :=
  onFrame_inv _ _ _ _ _ hs fun _ hm => ite_inv (Mod.frame_inv hm) hm

theorem execWriteFrameRx_keeps (seq : BitVec 32) (lanes : BitVec 2) (ops : List PtOp) : Keeps (execWriteFrameRx seq lanes ops s) :=
  onFrame_inv _ _ _ _ _ hs fun _ hm => ite_inv (Mod.memFrame_inv hm rfl) hm

theorem execStreamFrameRx_keeps (seq : BitVec 32) (lanes : BitVec 2) (k : StreamKind) : Keeps (execStreamFrameRx seq lanes k s) :=
  onFrame_inv _ _ _ _ _ hs fun _ hm => by
    split
    · exact ite_inv (Mod.addSat_inv _ _ _ hm) <| Mod.streamTile_inv _ _ _ hm
    · split
      · exact ite_inv (Mod.frame_inv <| Mod.loopWarm_inv _ _ _ hm) hm
      · exact hm

theorem execStepLost_keeps : Keeps (execStepLost s) :=
  onMod_inv hs fun _ hm => Mod.when_inv hm fun _ h => Mod.stepLost_inv _ <| Mod.addSat_inv _ _ _ h

theorem execRejoinCopyComplete_keeps : Keeps (execRejoinCopyComplete s) :=
  onMod_inv hs fun _ hm => ite_inv (Mod.set_inv _ _ hm) hm

theorem execRejoinInStep_keeps (t : Nat) : Keeps (execRejoinInStep t s) :=
  onMod_inv hs fun _ hm => ite_inv (Mod.frame_inv <| Mod.set_inv _ _ <| Mod.set_inv _ _ <| Mod.reach_inv _ _ hm) hm

theorem execTwinSelftestPass_keeps : Keeps (execTwinSelftestPass s) :=
  onMod_inv hs fun _ hm => ite_inv (Mod.frameOut_inv _ <| Mod.frame_inv <| Mod.set_inv _ _ <| Mod.set_inv _ _ hm) hm

theorem execBarLineChange_keeps (line : Fin 3) : Keeps (execBarLineChange line s) :=
  onMod_inv hs fun _ hm => Mod.when_inv (Mod.when_inv (Mod.frame_inv hm) fun _ => Mod.set_inv _ _) fun _ h => Mod.follow_inv _ <|
    Mod.pdSet_inv _ _ _ h

theorem execBarFrameRx_keeps (seq : BitVec 32) (lanes : BitVec 2) (claim : Bool) (at_ : Nat) : Keeps (execBarFrameRx seq lanes
    claim at_ s) :=
  onFrame_inv _ _ _ _ _ hs fun _ hm => ite_inv (Mod.frame_inv hm) <| ite_inv (Mod.frame_inv hm) hm

theorem execTakeover_keeps (t : Nat) : Keeps (execTakeover t s) :=
  onMod_inv hs fun _ hm => ite_inv (Mod.log_inv _ _ _ _ <| Mod.ctrAdd_inv _ _ _ <| Mod.takeBar_inv _ <| Mod.reach_inv _ _ hm) hm

theorem execTwinReturn_keeps (t : Nat) : Keeps (execTwinReturn t s) :=
  onMod_inv hs fun _ hm => by
    have hr (t : Nat) := Mod.reach_inv _ t hm
    refine ite_inv ?_ <| ite_inv (Mod.log_inv _ _ _ _ <| Mod.giveBar_inv _ <| hr _) hm
    exact Mod.log_inv _ _ _ _ <| Mod.when_inv (Mod.frame_inv (Mod.takeBar_inv _ <| hr _)) fun _ => Mod.set_inv _ _

theorem execTwinHandover_keeps (t : Nat) : Keeps (execTwinHandover t s) :=
  onMod_inv hs fun _ hm => ite_inv hm <| ite_inv (Mod.ctrAdd_inv _ _ _ <| Mod.set_inv _ _ <| Mod.giveBar_inv _ <|
    Mod.reach_inv _ _ hm) <| ite_inv (Mod.takeBar_inv _ <| Mod.reach_inv _ _ hm) <| Mod.frame_inv hm

theorem execReturnLimitWrite_keeps (h : BitVec 10) (v : BitVec 4) : Keeps (execReturnLimitWrite h v s) :=
  onMod_inv hs fun _ hm => ite_inv (Mod.storeBlock_inv _ _ _ <| Mod.set_inv _ _ <| Mod.set_inv _ _ hm) hm

/-! ### The Drum and the control cycle -/

theorem execDrumNop_keeps (t : Nat) : Keeps (execDrumNop t s) :=
  onDrum_inv _ _ _ _ _ _ hs fun _ hm => hm

theorem execWakeF_keeps (t : Nat) : Keeps (execWakeF t s) :=
  onDrum_inv _ _ _ _ _ _ hs fun _ => Mod.swOn_inv _ _

theorem execWakeM_keeps (t : Nat) : Keeps (execWakeM t s) :=
  onDrum_inv _ _ _ _ _ _ hs fun _ => Mod.coreWake_inv _

theorem execStopF_keeps (t : Nat) : Keeps (execStopF t s) :=
  onDrum_inv _ _ _ _ _ _ hs fun _ => Mod.swOff_inv _ _

theorem execDomain_keeps (t : Nat) (d : Fin 15) (on : Bool) : Keeps (execDomain t d on s) :=
  onDrum_inv _ _ _ _ _ _ hs fun _ hm => ite_inv (Mod.pdOn_inv _ _ hm) <| Mod.pdOff_inv _ _ hm

theorem execFreeze_keeps (t : Nat) (mask : BitVec 8) : Keeps (execFreeze t mask s) :=
  onDrum_inv _ _ _ _ _ _ hs fun _ => Mod.freezeClasses_inv _ _ _

theorem execBurst_keeps (t : Nat) (mask : BitVec 8) (seq : BitVec 16) : Keeps (execBurst t mask seq s) :=
  onDrum_inv _ _ _ _ _ _ hs fun _ => Mod.burstStart_inv _ _ _ _

theorem execBurstEnd_keeps : Keeps (execBurstEnd s) :=
  onMod_inv hs fun _ hm => ite_inv (Kept.laneMap hm _ fun _ h => by split <;> exact h) hm

theorem execLaunch_keeps (t : Nat) (c : Fin 8) : Keeps (execLaunch t c s) :=
  onDrum_inv _ _ _ _ _ _ hs fun _ => Mod.launch_inv _ _

theorem execLoopRun_keeps (t : Nat) (n : BitVec 8) : Keeps (execLoopRun t n s) :=
  onDrum_inv _ _ _ _ _ _ hs fun _ hm => ite_inv (Mod.loopRun_inv _ _ hm) hm

theorem execLoopLatch_keeps (t : Nat) (n : BitVec 8) (done : Bool) : Keeps (execLoopLatch t n done s) :=
  onDrum_inv _ _ _ _ _ _ hs fun _ hm => ite_inv hm <| ite_inv (Mod.loopLatch_inv _ _ hm) <| Mod.overrun_inv _ _ _ _ _ hm

theorem execPoll_keeps (t : Nat) (p : Fin 19) (i : BitVec 16) : Keeps (execPoll t p i s) :=
  onDrum_inv _ _ _ _ _ _ hs fun _ => Mod.pollStart_inv _ _ _

theorem execMeterWin_keeps (t : Nat) (len : BitVec 16) : Keeps (execMeterWin t len s) :=
  onDrum_inv _ _ _ _ _ _ hs fun _ hm => ite_inv hm <| Mod.meterWindow_inv _ hm

theorem execMirror_keeps (t : Nat) (dir : Fin 2) (list : BitVec 16) : Keeps (execMirror t dir list s) :=
  onDrum_inv _ _ _ _ _ _ hs fun _ hm => ite_inv hm <| ite_inv (Mod.mirrorSend_inv _ _ hm) <| Mod.addSat_inv _ _ _ <|
    Mod.streamIn_inv _ hm

theorem execMgmtWin_keeps (t : Nat) (sramBad flashBad : List Nat) (copyOk alive : Bool) (hits : List Upset) : Keeps (execMgmtWin t
    sramBad flashBad copyOk alive hits s) :=
  onDrum_inv _ _ _ _ _ _ hs fun _ hm => Mod.coreSleep_inv _ <| Mod.upsets_inv _ _ <| Mod.mgmtWindow_inv _ _ _ _ _ _ <|
    Mod.coreWake_inv _ hm

theorem execPllFLock_keeps : Keeps (execPllFLock s) :=
  onMod_inv hs fun _ hm => ite_inv (Mod.lateStart_inv _ <| Mod.swMap_inv _ _ _ hm) hm

theorem execPllLockLate_keeps (t : Nat) : Keeps (execPllLockLate t s) :=
  onMod_inv hs fun _ hm => by
    split
    · exact ite_inv (Mod.burstOverrun_inv _ _ _ <| Mod.frame_inv <| Mod.log_inv _ _ _ _ <| Mod.addSat_inv _ _ _ <|
        Mod.reach_inv _ _ hm) hm
    · exact hm

theorem execWatchdogDeadline_keeps (t : Nat) : Keeps (execWatchdogDeadline t s) :=
  onMod_inv hs fun _ hm => by
    split
    · exact ite_inv (Mod.burstOverrun_inv _ _ _ <| Mod.frame_inv <| Mod.reach_inv _ _ hm) hm
    · exact hm

theorem execSafeTableCrcCheck_keeps (ok : Bool) : Keeps (execSafeTableCrcCheck ok s) :=
  onMod_inv hs fun _ hm => ite_inv hm <| Mod.log_inv _ _ _ _ <| Mod.frame_inv hm

theorem execRcOscMeasure_keeps (freq : BitVec 21) : Keeps (execRcOscMeasure freq s) :=
  onMod_inv hs fun _ hm => ite_inv (Mod.set_inv _ _ hm) hm

theorem execMgmtSupervisor_keeps : Keeps (execMgmtSupervisor s) :=
  onMod_inv hs fun _ hm => by
    refine ite_inv ?_ hm
    extract_lets m₁ _ _ m₂ _ m₃ m₄ m₅
    have h₂ : m₂.Inv := Mod.pdRegs_inv _ _ <| Mod.pdLose_inv _ _ <| Mod.closeAll_inv _ <| Mod.cancelSwap_inv _ hm
    have h₄ : m₄.Inv := Mod.set_inv _ _ <| Mod.pdFound_inv _ _ <| Mod.frame_inv h₂
    have h₅ : m₅.Inv := by
      unfold m₅
      split
      · exact Mod.planAgain_inv _ _ h₄
      · exact h₄
    exact Mod.log_inv _ _ _ _ <| Mod.frame_inv h₅

theorem execSupervisorRestart_keeps : Keeps (execSupervisorRestart s) :=
  onMod_inv hs fun _ hm => ite_inv (Mod.hardRestart_inv _ _ hm) hm

theorem execAutoRestart_keeps : Keeps (execAutoRestart s) :=
  onMod_inv hs fun _ hm => by
    split
    · exact ite_inv (Mod.softRestart_inv _ _ _ <| Mod.frame_inv hm) hm
    · exact hm

theorem execEnterRun_keeps (t : Nat) : Keeps (execEnterRun t s) :=
  onMod_inv hs fun _ hm => by
    split
    · exact ite_inv (Mod.enterRun_inv _ _ <| Mod.reach_inv _ _ hm) hm
    · exact hm

theorem execServiceTimeout_keeps : Keeps (execServiceTimeout s) :=
  onMod_inv hs fun _ hm => by
    split
    · exact ite_inv (Mod.leaveService_inv _ hm) hm
    · exact Mod.leaveService_inv _ hm

theorem execRetainSnapshot_keeps : Keeps (execRetainSnapshot s) :=
  onMod_inv hs fun _ hm => by
    split
    · exact ite_inv (Mod.snapshot_inv _ _ hm) hm
    · exact hm

/-! ### The real-time clock -/

theorem execRtcSecondTick_keeps : Keeps (execRtcSecondTick s) :=
  onMod_inv hs fun _ hm => ite_inv (Mod.rtcTick_inv _ hm) hm

theorem execRtcCommit_keeps (h : BitVec 10) : Keeps (execRtcCommit h s) :=
  onMod_inv hs fun _ hm => ite_inv (Mod.rtcCommit_inv _ hm) hm

theorem execRtcShadowFreeze_keeps : Keeps (execRtcShadowFreeze s) :=
  onMod_inv hs fun _ => Mod.rtcFreeze_inv _

theorem execRtcFreezeTimeout_keeps : Keeps (execRtcFreezeTimeout s) :=
  onMod_inv hs fun _ hm => ite_inv (Mod.set_inv _ _ <| Mod.rtcFrame_inv hm) hm

theorem execRtcSync_keeps : Keeps (execRtcSync s) :=
  onMod_inv hs fun _ hm => ite_inv (Mod.rtcSync_inv _ hm) hm

theorem execRtcOscStop_keeps : Keeps (execRtcOscStop s) :=
  onMod_inv hs fun _ hm => Mod.set_inv _ _ <| Mod.rtcFrame_inv hm

theorem execCrystalRestart_keeps : Keeps (execCrystalRestart s) :=
  onMod_inv hs fun _ hm => by
    extract_lets _ m₁
    have h₁ : m₁.Inv := Mod.rtcFrame_inv hm
    split
    case _ c hc => exact Mod.rtcLoad_inv _ _ h₁ (by simpa [hc] using Kept.wait h₁)
    · exact h₁

theorem execBackupSupplyLost_keeps : Keeps (execBackupSupplyLost s) :=
  onMod_inv hs fun _ hm => Mod.when_inv hm fun _ => Mod.rtcLost_inv _

/-! ### Register, metering, loop, log and time commands -/

theorem execOpRegRead_keeps (h : BitVec 10) (seq : BitVec 32) : Keeps (execOpRegRead h seq s) :=
  opRow_inv _ _ _ _ _ hs fun _ hm _ _ _ => by
    refine ite_fst_inv hm <| ite_fst_inv hm ?_
    split
    · exact hm
    · split
      · exact hm
      · exact Mod.badState_inv _ hm
      · exact Mod.drawnN_inv _ _ hm
      · exact Mod.readRegs_inv _ _ _ hm

theorem execOpRegWrite_keeps (h : BitVec 10) (seq : BitVec 32) : Keeps (execOpRegWrite h seq s) :=
  opRow_inv _ _ _ _ _ hs fun _ hm _ _ _ => by
    refine ite_fst_inv hm ?_
    split
    · exact hm
    · split
      · exact hm
      · exact Mod.badState_inv _ hm
      · exact Mod.drawnN_inv _ _ hm
      · split
        · exact hm
        · exact Mod.writeRegs_inv _ _ _ _ hm

theorem execOpRegModify_keeps (h : BitVec 10) (seq : BitVec 32) : Keeps (execOpRegModify h seq s) :=
  opRow_inv _ _ _ _ _ hs fun _ hm _ _ _ => by
    refine ite_fst_inv hm ?_
    split
    · exact Mod.badState_inv _ hm
    · exact Mod.badState_inv _ hm
    · exact Mod.drawnN_inv _ _ hm
    · split
      · exact hm
      · exact Mod.writeRegs_inv _ _ _ _ <| Mod.readKeep_inv _ _ _ hm

theorem execOpMetRead_keeps (h : BitVec 10) (seq : BitVec 32) : Keeps (execOpMetRead h seq s) :=
  opRow_inv _ _ _ _ _ hs fun _ hm _ _ _ => by
    refine ite_fst_inv hm <| ite_fst_inv hm <| ite_fst_inv hm ?_
    split
    · exact hm
    · exact hm

theorem execOpMetIntervals_keeps (h : BitVec 10) (seq : BitVec 32) : Keeps (execOpMetIntervals h seq s) :=
  opRow_inv _ _ _ _ _ hs fun _ hm _ _ _ => ite_fst_inv hm <| ite_fst_inv hm <| ite_fst_inv hm hm

theorem execOpMetCapture_keeps (h : BitVec 10) (seq : BitVec 32) : Keeps (execOpMetCapture h seq s) :=
  opRow_inv _ _ _ _ _ hs fun _ hm _ _ _ => ite_fst_inv hm <| Mod.cbwTail_inv _ _ _ _ _ hm

theorem execOpLoopRead_keeps (h : BitVec 10) (seq : BitVec 32) : Keeps (execOpLoopRead h seq s) :=
  opRow_inv _ _ _ _ _ hs fun _ hm _ _ _ => hm

theorem execOpLoopMode_keeps (h : BitVec 10) (seq : BitVec 32) : Keeps (execOpLoopMode h seq s) :=
  opRow_inv _ _ _ _ _ hs fun _ hm _ _ _ => ite_fst_inv hm <| Mod.writeReg_inv _ _ _ _ _ hm

theorem execOpLoopTune_keeps (h : BitVec 10) (seq : BitVec 32) : Keeps (execOpLoopTune h seq s) :=
  opRow_inv _ _ _ _ _ hs fun _ hm _ _ _ => foldl_inv hm fun _ h _ => ite_inv (Mod.writeReg_inv _ _ _ _ _ h) h

theorem execOpLoopTest_keeps (h : BitVec 10) (seq : BitVec 32) : Keeps (execOpLoopTest h seq s) :=
  opRow_inv _ _ _ _ _ hs fun _ hm _ _ _ => ite_fst_inv hm <| Mod.writeReg_inv _ _ _ _ _ <| foldl_inv
    (Mod.writeReg_inv _ _ _ _ _ hm) fun _ h _ => Mod.writeReg_inv _ _ _ _ _ h

theorem execOpLoopTestRead_keeps (h : BitVec 10) (seq : BitVec 32) : Keeps (execOpLoopTestRead h seq s) :=
  opRow_inv _ _ _ _ _ hs fun _ hm _ _ _ => ite_fst_inv hm <| ite_fst_inv hm <| Mod.cbwTail_inv _ _ _ _ _ hm

theorem execOpLogAreas_keeps (h : BitVec 10) (seq : BitVec 32) : Keeps (execOpLogAreas h seq s) :=
  opRow_inv _ _ _ _ _ hs fun _ hm _ _ _ => hm

theorem execOpLogRead_keeps (h : BitVec 10) (seq : BitVec 32) : Keeps (execOpLogRead h seq s) :=
  opRow_inv _ _ _ _ _ hs fun _ hm _ _ _ => by
    split
    · exact ite_fst_inv hm <| ite_fst_inv hm hm
    · exact hm

theorem execOpTimeGet_keeps (h : BitVec 10) (seq : BitVec 32) : Keeps (execOpTimeGet h seq s) :=
  opRow_inv _ _ _ _ _ hs fun _ hm _ _ _ => hm

theorem execOpTimeSet_keeps (h : BitVec 10) (seq : BitVec 32) : Keeps (execOpTimeSet h seq s) :=
  opRow_inv _ _ _ _ _ hs fun _ hm _ _ _ => ite_fst_inv (Mod.badState_inv _ hm) <| ite_fst_inv hm <| Mod.wantStep_inv _ _ hm

theorem execOpRtcGet_keeps (h : BitVec 10) (seq : BitVec 32) : Keeps (execOpRtcGet h seq s) :=
  opRow_inv _ _ _ _ _ hs fun _ hm _ _ _ => Mod.set_inv _ _ <| Mod.rtcFrame_inv (Mod.rtcFreeze_inv _ hm)

theorem execOpRtcSet_keeps (h : BitVec 10) (seq : BitVec 32) : Keeps (execOpRtcSet h seq s) :=
  opRow_inv _ _ _ _ _ hs fun _ hm _ _ _ => by
    extract_lets
    split
    · exact Mod.set_inv _ _ <| Mod.stage_inv _ _ hm
    · exact Mod.rtcCommit_inv _ <| Mod.stage_inv _ _ hm

/-! ### Plan builds and swaps -/

theorem execPlanBuildComplete_keeps (r : BuildResult) : Keeps (execPlanBuildComplete r s) :=
  onMod_inv hs fun _ hm => by
    refine ite_inv hm <| ite_inv ?_ <| ite_inv ?_ <| ite_inv ?_ hm
    · split
      · exact ite_inv (Mod.buildStart_inv _ _ hm) hm
      · exact hm
    · split
      · exact ite_inv (Mod.buildCand_inv _ _ _ _ hm) <| ite_inv (Mod.buildCand_inv _ _ _ _ hm) hm
      · exact ite_inv (Mod.buildCand_inv _ _ _ _ hm) hm
      · exact hm
    · split
      · exact ite_inv (Mod.buildReplan_inv _ _ _ _ hm) hm
      · exact hm

theorem execSwapWindowOpen_keeps : Keeps (execSwapWindowOpen s) :=
  onMod_inv hs fun _ hm => by
    split
    · exact ite_inv hm <| ite_inv (Mod.swapDefer_inv _ _ <| Mod.reach_inv _ _ hm) <| Mod.migrate_inv _ _ _ <| Mod.reach_inv _ _ hm
    · exact hm

theorem execPlanSwap_keeps : Keeps (execPlanSwap s) :=
  onMod_inv hs fun _ hm => by
    split
    · exact ite_inv hm <| foldl_inv (Mod.swapPlan_inv _ _ _ <| Mod.reach_inv _ _ hm) fun _ h _ => Mod.closeSess_inv _ _ h
    · exact hm

/-! ### Field ports -/

theorem execExchangeReply_keeps (p : Fin 19) (kind : ReplyKind) (data : List Byte) (recs : List (Nat × Nat × List Byte)) : Keeps
    (execExchangeReply p kind data recs s) :=
  onMod_inv hs fun _ hm => by
    split
    · exact hm
    · split
      · exact hm
      · refine ite_inv hm ?_
        split
        · exact Mod.exchOk_inv _ _ _ <| Mod.takeReply_inv _ _ _ _ hm
        · exact Mod.exchFail_inv _ _ _ hm
        · exact Mod.attemptFail_inv _ _ <| Mod.addSat_inv _ _ _ hm

theorem execAttemptTimeout_keeps (p : Fin 19) : Keeps (execAttemptTimeout p s) :=
  onMod_inv hs fun _ => Mod.attemptFail_inv _ _

theorem execCanFrameRx_keeps (p : Fin 19) (f : CanFrame) : Keeps (execCanFrameRx p f s) :=
  onMod_inv hs fun _ hm => by
    refine ite_inv ?_ hm
    extract_lets m₁ o
    have h₁ : m₁.Inv := Mod.canRxGood_inv _ _ hm
    exact ite_inv (ite_inv (Mod.portMap_inv _ _ _ h₁) <| ite_inv (Mod.portMap_inv _ _ _ h₁) <| Mod.addSat_inv _ _ _ h₁) h₁

theorem execCanTxError_keeps (p : Fin 19) (busError : Bool) : Keeps (execCanTxError p busError s) :=
  onMod_inv hs fun _ hm => by
    refine ite_inv ?_ hm
    split
    · exact hm
    · extract_lets m₁
      have h₁ : m₁.Inv := Mod.when_inv hm fun _ h => Mod.canState_inv _ _ <| Mod.addSat_inv _ _ _ h
      refine ite_inv (Mod.portMap_inv _ _ _ <| Mod.addSat_inv _ _ _ h₁) ?_
      split
      · exact Mod.canAbort_inv _ _ _ h₁
      · exact Mod.passEnd_inv _ _ _ <| Mod.portMap_inv _ _ _ h₁

theorem execCanBusOff_keeps (p : Fin 19) : Keeps (execCanBusOff p s) :=
  onMod_inv hs fun _ hm => by
    refine ite_inv ?_ hm
    extract_lets q m₁ m₂
    have h₁ : m₁.Inv := foldl_inv hm fun _ h _ => Mod.canAbort_inv _ _ _ h
    have h₂ : m₂.Inv := foldl_inv h₁ fun _ h _ => Mod.passEnd_inv _ _ _ h
    exact Mod.log_inv _ _ _ _ <| Mod.canState_inv _ _ <| Mod.addSat_inv _ _ _ <| Mod.set_inv _ _ <| Mod.set_inv _ _ <|
      Mod.portMap_inv _ _ _ h₂

theorem execCanBusOffRecovery_keeps (p : Fin 19) : Keeps (execCanBusOffRecovery p s) :=
  onMod_inv hs fun _ hm => ite_inv (Mod.canState_inv _ _ <| Mod.set_inv _ _ <| Mod.set_inv _ _ <| Mod.set_inv _ _ <|
    Mod.set_inv _ _ hm) hm

theorem execCanFrameTransmitted_keeps (p : Fin 19) : Keeps (execCanFrameTransmitted p s) :=
  onMod_inv hs fun _ hm => by
    refine ite_inv ?_ hm
    split
    · exact hm
    · extract_lets m₁ m₂
      have h₂ : m₂.Inv := Mod.canState_inv _ _ <| Mod.set_inv _ _ <| Mod.portMap_inv _ _ _ hm
      split
      · exact Mod.passEnd_inv _ _ _ h₂
      · refine ite_inv h₂ ?_
        split
        · exact Mod.exchOk_inv _ _ _ h₂
        · exact h₂

theorem execCanRxError_keeps (p : Fin 19) (by8 : Bool) : Keeps (execCanRxError p by8 s) :=
  onMod_inv hs fun _ hm => ite_inv (Mod.canState_inv _ _ <| Mod.addSat_inv _ _ _ <| Mod.addSat_inv _ _ _ hm) hm

theorem execMstpToken_keeps (p : Fin 19) : Keeps (execMstpToken p s) :=
  onMod_inv hs fun _ hm => by
    refine ite_inv ?_ hm
    split
    · exact Mod.set_inv _ _ <| Mod.portMap_inv _ _ _ hm
    · exact Mod.setB_inv _ _ _ hm

theorem execDaliNoPower_keeps (p : Fin 19) (mv : BitVec 16) : Keeps (execDaliNoPower p mv s) :=
  onMod_inv hs fun _ hm => by
    refine ite_inv ?_ hm
    extract_lets _ m₁
    have h₁ : m₁.Inv := Mod.set_inv _ _ <| Mod.set_inv _ _ <| Mod.set_inv _ _ hm
    split
    · exact Mod.exchFail_inv _ _ _ h₁
    · exact h₁

theorem execDaliPowerRestored_keeps (p : Fin 19) (mv : BitVec 16) : Keeps (execDaliPowerRestored p mv s) :=
  onMod_inv hs fun _ hm => ite_inv (Mod.set_inv _ _ <| Mod.set_inv _ _ <| Mod.set_inv _ _ hm) hm

theorem execDaliEventMessage_keeps (p : Fin 19) (addr : Nat) (data : List Byte) : Keeps (execDaliEventMessage p addr data s) :=
  onMod_inv hs fun _ hm => ite_inv (Mod.portMap_inv _ _ _ hm) hm

theorem execDaliCollision_keeps (p : Fin 19) : Keeps (execDaliCollision p s) :=
  onMod_inv hs fun _ hm => ite_inv (Mod.attemptFail_inv _ _ <| Mod.addSat_inv _ _ _ hm) hm

theorem execMbusShort_keeps : Keeps (execMbusShort s) :=
  onMod_inv hs fun _ hm => ite_inv (Mod.log_inv _ _ _ _ <| Mod.set_inv _ _ <| Mod.set_inv _ _ <| Mod.supplyOff_inv _ _ <|
    Mod.swOff_inv _ _ hm) hm

theorem execMbusRetry_keeps : Keeps (execMbusRetry s) :=
  onMod_inv hs fun _ hm => ite_inv (Mod.set_inv _ _ <| Mod.swOnNow_inv _ _ hm) hm

theorem execT1lOvercurrent_keeps (k : Fin 8) : Keeps (execT1lOvercurrent k s) :=
  onMod_inv hs fun _ hm => ite_inv (Mod.log_inv _ _ _ _ <| Mod.t1lShow_inv _ <| Mod.set_inv _ _ <| Mod.t1lOff_inv _ _ _ hm) hm

theorem execT1lShed_keeps (power : List (BitVec 16)) : Keeps (execT1lShed power s) :=
  onMod_inv hs fun _ hm => Mod.t1lShow_inv _ <| foldl_inv (foldl_inv hm fun _ h _ => Mod.set_inv _ _ h) fun _ h _ => ite_inv
    (Mod.set_inv _ _ <| Mod.t1lOff_inv _ _ _ h) h

theorem execT1lPowerRetry_keeps (k : Fin 8) : Keeps (execT1lPowerRetry k s) :=
  onMod_inv hs fun _ hm => ite_inv hm <| ite_inv hm <| Mod.t1lShow_inv _ <| Mod.portMap_inv _ _ _ <| Mod.t1lOn_inv _ _ hm

theorem execPoweredDeviceDetected_keeps (k : Fin 8) (present : Bool) (cls : BitVec 7) : Keeps (execPoweredDeviceDetected k present
    cls s) :=
  onMod_inv hs fun _ hm => by
    refine ite_inv ?_ hm
    extract_lets m₁ m₂
    have h₂ : m₂.Inv := Mod.portMap_inv _ _ _ <| Mod.setB_inv _ _ _ hm
    exact ite_inv (ite_inv h₂ <| Mod.t1lOn_inv _ _ h₂) <| Mod.set_inv _ _ <| Mod.set_inv _ _ <| Mod.swOff_inv _ _ h₂

theorem execTcpConnectionClosed_keeps (p : Fin 19) (station : Nat) : Keeps (execTcpConnectionClosed p station s) :=
  onMod_inv hs fun _ hm => ite_inv (Mod.when_inv (Mod.portMap_inv _ _ _ hm) fun _ => Mod.attemptFail_inv _ _) hm

theorem execPassExchange_keeps (code : BitVec 6) (ended : Bool) (reply : Option (List Byte)) : Keeps (execPassExchange code ended
    reply s) :=
  onMod_inv hs fun _ hm => by
    extract_lets
    split
    · exact hm
    · split
      · extract_lets _ m₁
        have h₁ : m₁.Inv := Mod.portMap_inv _ _ _ hm
        refine ite_inv (ite_inv ?_ ?_) hm
        · exact ite_inv h₁ <| ite_inv (Mod.passEnd_inv _ _ _ <| Mod.addSat_inv _ _ _ h₁) <| Mod.portMap_inv _ _ _ h₁
        · exact ite_inv (Mod.passEnd_inv _ _ _ <| Mod.portMap_inv _ _ _ h₁) <| Mod.portMap_inv _ _ _ h₁
      · exact Mod.passEnd_inv _ _ _ hm

theorem execPassWindowEnd_keeps (p : Fin 19) : Keeps (execPassWindowEnd p s) :=
  onMod_inv hs fun _ hm => by
    refine Mod.portMap_inv _ _ _ <| foldl_inv ?_ fun _ h _ => Mod.passEnd_inv _ _ _ <| Mod.addSat_inv _ _ _ h
    split
    · exact Mod.passEnd_inv _ _ _ <| Mod.addSat_inv _ _ _ hm
    · exact hm

theorem execFieldEthernetFrame_keeps (p : Fin 19) (kind : EthKind) (data : List Byte) : Keeps (execFieldEthernetFrame p kind data
    s) :=
  onMod_inv hs fun _ hm => by
    refine ite_inv ?_ hm
    split
    · exact Mod.portMap_inv _ _ _ hm
    · exact Mod.portMap_inv _ _ _ hm
    · exact hm
    · exact Mod.addSat_inv _ _ _ hm

/-! ### Supplies, domains and clocks -/

theorem execVinValid_keeps (vin : BitVec 16) (pins : Pins) : Keeps (execVinValid vin pins s) :=
  onMod_inv hs fun _ hm => ite_inv (Mod.set_inv _ _ <| Mod.set_inv _ _ <| Mod.set_inv _ _ <| Mod.frame_inv hm) hm

theorem execHoldupReady_keeps : Keeps (execHoldupReady s) :=
  onMod_inv hs fun _ hm => ite_inv (Mod.pdOn_inv _ _ <| Mod.set_inv _ _ <| Mod.frame_inv hm) hm

theorem execDomainPowerGood_keeps (d : Fin 15) : Keeps (execDomainPowerGood d s) :=
  onMod_inv hs fun _ hm => ite_inv (Mod.when_inv (Mod.domainStep_inv _ <| Mod.when_inv (Mod.pdUp_inv _ _ hm) fun _ =>
    Mod.swMap_inv _ _ _) fun _ => Mod.startLanes_inv _) hm

theorem execTcxoStable_keeps : Keeps (execTcxoStable s) :=
  onMod_inv hs fun _ hm => ite_inv (Mod.domainStep_inv _ <| Mod.frame_inv <| Mod.rtcCount_inv _ <| Mod.swSet_inv _ _ _ <|
    Mod.pdSeen_inv _ _ hm) hm

theorem execFirmwareVerified_keeps (scap vbat : BitVec 16) : Keeps (execFirmwareVerified scap vbat s) :=
  onMod_inv hs fun _ hm => by
    refine ite_inv ?_ <| ite_inv (Mod.frame_inv hm) hm
    extract_lets m₁ m₂ m₃
    have h₁ : m₁.Inv := Mod.pdSeen_inv _ _ hm
    have h₂ : m₂.Inv := Mod.pdSeen_inv _ _ <| Mod.pdSeen_inv _ _ <| Mod.pdSeen_inv _ _ h₁
    have h₃ : m₃.Inv := Mod.firmwareUp_inv _ _ _ h₂
    exact ite_inv h₁ <| ite_inv (Mod.set_inv _ _ h₃) <| Mod.startBegin_inv _ _ h₃

theorem execPlanArmed_keeps : Keeps (execPlanArmed s) :=
  onMod_inv hs fun _ hm => by
    split
    · exact ite_inv (Mod.loadPlan_inv _ _ _ <| Mod.pdSeen_inv _ _ <| Mod.frame_inv hm) hm
    · exact hm

theorem execDomainFault_keeps (d : Fin 15) : Keeps (execDomainFault d s) :=
  onMod_inv hs fun _ hm => by
    refine ite_inv ?_ hm
    extract_lets m₁ m₂ m₃ _ _ m₄
    have h₃ : m₃.Inv := Mod.log_inv _ _ _ _ <| Mod.addSat_inv _ _ _ <| Mod.set_inv _ _ <| Mod.swMap_inv _ _ _ hm
    have h₄ : m₄.Inv := Mod.pdSet_inv _ _ _ h₃
    refine ite_inv (Mod.frame_inv h₃) ?_
    split
    · exact ite_inv (Mod.burstOverrun_inv _ _ _ h₄) h₄
    · exact h₄

theorem execBootDomainRetry_keeps : Keeps (execBootDomainRetry s) :=
  onMod_inv hs fun _ hm => ite_inv (Mod.follow_inv _ <| Mod.frame_inv hm) hm

theorem execDomainShutdownDone_keeps (f : Fin 31) : Keeps (execDomainShutdownDone f s) :=
  onMod_inv hs fun _ hm => by
    refine ite_inv (Mod.domainStep_inv _ ?_) hm
    split
    · exact Mod.pdDown_inv _ _ <| Mod.swMap_inv _ _ _ hm
    · exact Mod.swMap_inv _ _ _ hm

theorem execPendingOnExecute_keeps (f : Fin 31) : Keeps (execPendingOnExecute f s) :=
  onMod_inv hs fun _ hm => ite_inv (Mod.swMap_inv _ _ _ hm) hm

theorem execPowerFailWarning_keeps (vin holdup : BitVec 16) : Keeps (execPowerFailWarning vin holdup s) :=
  onMod_inv hs fun _ hm => by
    refine ite_inv hm ?_
    extract_lets m₁ m₂ m₃ m₄ m₅ _ _ _ _ m₆ m₇
    have h₂ : m₂.Inv := Mod.closeAll_inv _ <| Mod.allStop_inv _ <| Mod.flashCut_inv _ <| Mod.log_inv _ _ _ _ <|
      Mod.barRelease_inv _ hm
    have h₄ : m₄.Inv := foldl_inv (Mod.goto_inv _ _ h₂) fun _ h _ => Mod.pdKill_inv _ _ h
    have h₅ : m₅.Inv := Mod.set_inv _ _ <| Mod.set_inv _ _ h₄
    have h₇ : m₇.Inv := Mod.set_inv _ _ <| Mod.set_inv _ _ <| Mod.set_inv _ _ <| Mod.frame_inv h₅
    exact Mod.keyShow_inv _ <| Mod.set_inv _ _ h₇

theorem execSaveDone_keeps (holdup : BitVec 16) : Keeps (execSaveDone holdup s) :=
  onMod_inv hs fun _ hm => by
    refine ite_inv hm ?_
    extract_lets _ m₁ m₂ _ _ m₃ m₄
    have h₂ : m₂.Inv := Mod.addSat_inv _ _ _ <| Mod.set_inv _ _ <| Mod.set_inv _ _ <| Mod.log_inv _ _ _ _ <|
      Mod.finalJournals_inv _ _ _ hm
    have h₄ : m₄.Inv := foldl_inv (Mod.frame_inv h₂) fun _ h _ => Mod.pdKill_inv _ _ h
    exact ite_inv (Mod.hardRestart_inv _ _ <| Mod.set_inv _ _ h₄) <| ite_inv (Mod.bootTry_inv _ h₄) h₄

theorem execVinReturn_keeps (pins : Pins) : Keeps (execVinReturn pins s) :=
  onMod_inv hs fun _ hm => ite_inv hm <| ite_inv (Mod.frame_inv <| Mod.frame_inv hm) <| Mod.hardRestart_inv _ _ <|
    Mod.set_inv _ _ <| Mod.set_inv _ _ <| Mod.frame_inv hm

theorem execHoldupExhausted_keeps (steps : BitVec 7) : Keeps (execHoldupExhausted steps s) :=
  onMod_inv hs fun _ hm => by
    refine ite_inv hm ?_
    extract_lets m₁ m₂ _ m₃ _ m₄
    have h₁ : m₁.Inv := Mod.when_inv hm fun _ h => Mod.frame_inv (Mod.finalJournals_inv _ _ _ h)
    have h₃ : m₃.Inv := Mod.drawn_inv _ <| foldl_inv h₁ fun _ h _ => Mod.pdKill_inv _ _ h
    have h₄ : m₄.Inv := ite_inv (Mod.frame_inv h₃) h₃
    exact Mod.aonLost_inv _ h₄

theorem execResetPin_keeps : Keeps (execResetPin s) :=
  onMod_inv hs fun _ hm => ite_inv hm <| ite_inv (Mod.hardRestart_inv _ _ <| Mod.frame_inv hm) <| Mod.frame_inv <| Mod.frame_inv hm

theorem execResetRelease_keeps (pins : Pins) : Keeps (execResetRelease pins s) :=
  onMod_inv hs fun _ hm => Mod.domainStep_inv _ <| Mod.frame_inv hm

theorem execTcxoFail_keeps : Keeps (execTcxoFail s) :=
  onMod_inv hs fun _ hm => by
    refine ite_inv hm ?_
    extract_lets m₁ _ _ m₂ m₃
    have h₁ : m₁.Inv := Mod.addSat_inv _ _ _ <| Mod.log_inv _ _ _ _ hm
    have h₃ : m₃.Inv := Mod.setSync_inv _ _ _ <| Mod.swSet_inv _ _ _ <| Mod.frame_inv h₁
    split
    · exact ite_inv (Mod.burstOverrun_inv _ _ _ h₃) h₃
    · exact ite_inv (Mod.overrun_inv _ _ _ _ _ h₃) h₃

theorem execTcxoRecovered_keeps : Keeps (execTcxoRecovered s) :=
  onMod_inv hs fun _ hm => by
    refine ite_inv hm ?_
    dsimp only
    split
    · exact Mod.beginRestart_inv _ _ _ <| Mod.frame_inv <| Mod.swSet_inv _ _ _ <| Mod.frame_inv hm
    · exact Mod.domainStep_inv _ <| Mod.frame_inv <| Mod.swSet_inv _ _ _ <| Mod.frame_inv hm

theorem execTcxoRecoveryTimeout_keeps : Keeps (execTcxoRecoveryTimeout s) :=
  onMod_inv hs fun _ hm => ite_inv (Mod.hardRestart_inv _ _ hm) hm

theorem execPllUnlock_keeps (p : Fin 5) (us : BitVec 16) : Keeps (execPllUnlock p us s) :=
  onMod_inv hs fun _ hm => by
    refine ite_inv hm ?_
    extract_lets _ m₁ m₂ m₃ m₄ m₅
    have h₂ : m₂.Inv := Mod.log_inv _ _ _ _ <| Mod.addSat_inv _ _ _ <| Mod.frame_inv hm
    split
    · exact Mod.set_inv _ _ h₂
    · have h₃ : m₃.Inv := Mod.when_inv (Mod.when_inv h₂ fun _ => Mod.uplDown_inv _ _) fun _ => Mod.uplDown_inv _ _
      have h₄ : m₄.Inv := Mod.when_inv h₃ fun _ h => Mod.log_inv _ _ _ _ <| Mod.set_inv _ _ h
      have h₅ : m₅.Inv := Mod.when_inv h₄ fun _ h => Mod.log_inv _ _ _ _ <| Mod.set_inv _ _ h
      exact Mod.when_inv h₅ fun _ => Mod.linkDown_inv _
    · exact Mod.exchangesFail_inv _ h₂
    · exact h₂

theorem execPllRelock_keeps (p : Fin 5) : Keeps (execPllRelock p s) :=
  onMod_inv hs fun _ hm => ite_inv hm <| Mod.when_inv (Mod.when_inv (Mod.frame_inv hm) fun _ => Mod.lateStart_inv _) fun _ =>
    Mod.set_inv _ _

/-! ### Uplinks -/

theorem execUplFrameRx_keeps (u : Fin 2) (f : UplFrame) : Keeps (execUplFrameRx u f s) :=
  onMod_inv hs fun _ hm => by
    refine ite_inv hm <| ite_inv (Mod.addSat_inv _ _ _ hm) <| ite_inv (Mod.addSat_inv _ _ _ hm) ?_
    extract_lets m₁ _ r₁ _ _ r₂
    have h₁ : m₁.Inv := Mod.addWrap_inv _ _ _ hm
    refine ite_inv (Mod.regionViolation_inv _ _ _ _ <| Mod.poolDrop_inv _ _ h₁) ?_
    split
    · exact Mod.coreWake_inv _ <| Mod.poolPut_inv _ _ h₁
    · have hr : r₁.1.Inv := Mod.poolPut_inv _ _ h₁
      exact ite_inv (Mod.poolPut_inv _ _ <| Mod.frame_inv hr) hr
    · have hr : r₂.1.Inv := Mod.poolPut_inv _ _ h₁
      exact ite_inv (Mod.frame_inv hr) hr

theorem execPauseFrame_keeps (u : Fin 2) (pfc : Option (BitVec 8)) (quanta : BitVec 16) : Keeps (execPauseFrame u pfc quanta s) :=
  onMod_inv hs fun _ hm => by
    refine ite_inv hm <| ite_inv (Mod.addSat_inv _ _ _ hm) ?_
    split
    · exact Mod.uplMap_inv _ _ _ <| Mod.addSat_inv _ _ _ hm
    · exact Mod.uplMap_inv _ _ _ <| Mod.addSat_inv _ _ _ hm

theorem execUplLinkUp_keeps (u : Fin 2) (offer : BitVec 5) : Keeps (execUplLinkUp u offer s) :=
  onMod_inv hs fun _ hm => by
    refine ite_inv hm <| ite_inv (ite_inv hm <| ite_inv (ite_inv (Mod.uplUp_inv _ _ _ hm) hm) ?_) ?_
    · split
      · exact Mod.uplUp_inv _ _ _ hm
      · exact hm
    · split
      · split
        · exact Mod.when_inv (Mod.uplUp_inv _ _ _ hm) fun _ => Mod.log_inv _ _ _ _
        · exact hm
      · split
        · exact Mod.uplUp_inv _ _ _ hm
        · exact Mod.log_inv _ _ _ _ hm

theorem execPreemptVerified_keeps (u : Fin 2) : Keeps (execPreemptVerified u s) :=
  onMod_inv hs fun _ hm => Mod.when_inv hm fun _ => Mod.set_inv _ _

theorem execUplLinkDown_keeps (u : Fin 2) : Keeps (execUplLinkDown u s) :=
  onMod_inv hs fun _ hm => Mod.when_inv hm fun _ => Mod.uplDown_inv _ _

theorem execSfpInsert_keeps (declares : BitVec 5) : Keeps (execSfpInsert declares s) :=
  onMod_inv hs fun _ hm => ite_inv (Mod.when_inv (Mod.uplMap_inv _ _ _ hm) fun _ => Mod.sfpSeen_inv _) hm

theorem execSfpLos_keeps (los : Bool) : Keeps (execSfpLos los s) :=
  onMod_inv hs fun _ hm => ite_inv (Mod.when_inv (Mod.setB_inv _ _ _ hm) fun _ => Mod.uplDown_inv _ _) hm

theorem execSfpRemoval_keeps : Keeps (execSfpRemoval s) :=
  onMod_inv hs fun _ hm => ite_inv (Mod.when_inv (Mod.when_inv (Mod.uplMap_inv _ _ _ hm) fun _ h => Mod.set_inv _ _ <|
    Mod.sfpSeen_inv _ h) fun _ => Mod.uplDown_inv _ _) hm

theorem execLoadMeasure_keeps (u : Fin 2) (tx rx : BitVec 40) : Keeps (execLoadMeasure u tx rx s) :=
  onMod_inv hs fun _ hm => by
    refine ite_inv ?_ hm
    extract_lets _ m₁
    have h₁ : m₁.Inv := Mod.uplMap_inv _ _ _ hm
    split
    · exact Mod.shiftDue_inv _ _ _ _ h₁
    · exact h₁

theorem execUpshiftDue_keeps (u : Fin 2) : Keeps (execUpshiftDue u s) :=
  onMod_inv hs fun _ hm => by
    refine ite_inv ?_ hm
    split
    · exact Mod.shiftDue_inv _ _ _ _ hm
    · exact hm

theorem execHoldoffExpiry_keeps (u : Fin 2) : Keeps (execHoldoffExpiry u s) :=
  onMod_inv hs fun _ hm => by
    refine ite_inv ?_ hm
    extract_lets m₁
    have h₁ : m₁.Inv := Mod.uplMap_inv _ _ _ hm
    split
    · exact Mod.doShift_inv _ _ _ h₁
    · exact ite_inv h₁ <| Mod.doShift_inv _ _ _ h₁
    · exact h₁

theorem execShiftFail_keeps (u : Fin 2) : Keeps (execShiftFail u s) :=
  onMod_inv hs fun _ hm => ite_inv (Mod.log_inv _ _ _ _ <| Mod.set_inv _ _ <| Mod.uplMap_inv _ _ _ hm) hm

theorem execTxFrameTimeout_keeps (u : Fin 2) (express : Bool) : Keeps (execTxFrameTimeout u express s) :=
  onMod_inv hs fun _ hm => ite_inv (Mod.poolDrop_inv _ _ <| Mod.poolTake_inv _ _ _ hm) hm

theorem execFrameSent_keeps (u : Fin 2) (express : Bool) : Keeps (execFrameSent u express s) :=
  onMod_inv hs fun _ hm => by
    split
    · exact ite_inv (Mod.uplMap_inv _ _ _ <| Mod.addWrap_inv _ _ _ <| Mod.poolTake_inv _ _ _ hm) hm
    · exact hm

theorem execPoolClearDone_keeps : Keeps (execPoolClearDone s) :=
  onMod_inv hs fun _ hm => Mod.when_inv hm fun _ => Mod.pdSeen_inv _ _

theorem execUplApply_keeps (h : BitVec 10) (u : Fin 2) : Keeps (execUplApply h u s) :=
  onMod_inv hs fun _ hm => Mod.when_inv hm fun _ => Mod.uplApply_inv _ _ _

theorem execUplConfirm_keeps (h : BitVec 10) (u : Fin 2) : Keeps (execUplConfirm h u s) :=
  onMod_inv hs fun _ hm => Mod.when_inv hm fun _ => Mod.uplConfirm_inv _ _ _

theorem execUplRevert_keeps (h : BitVec 10) (u : Fin 2) : Keeps (execUplRevert h u s) :=
  onMod_inv hs fun _ hm => Mod.when_inv hm fun _ => Mod.uplRevert_inv _ _

theorem execUplConfirmTimeout_keeps (u : Fin 2) : Keeps (execUplConfirmTimeout u s) :=
  onMod_inv hs fun _ hm => Mod.when_inv hm fun _ => Mod.uplRevert_inv _ _

/-! ### Every command and every step -/

theorem exec_keeps : ∀ c : Instr, Keeps (exec c s)
  | .drumNop .. => execDrumNop_keeps hs ..
  | .wakeF .. => execWakeF_keeps hs ..
  | .wakeM .. => execWakeM_keeps hs ..
  | .freeze .. => execFreeze_keeps hs ..
  | .burst .. => execBurst_keeps hs ..
  | .burstEnd => execBurstEnd_keeps hs
  | .launch .. => execLaunch_keeps hs ..
  | .loopRun .. => execLoopRun_keeps hs ..
  | .loopLatch .. => execLoopLatch_keeps hs ..
  | .poll .. => execPoll_keeps hs ..
  | .meterWin .. => execMeterWin_keeps hs ..
  | .mirror .. => execMirror_keeps hs ..
  | .mgmtWin .. => execMgmtWin_keeps hs ..
  | .stopF .. => execStopF_keeps hs ..
  | .domain .. => execDomain_keeps hs ..
  | .pllFLock => execPllFLock_keeps hs
  | .pllLockLate .. => execPllLockLate_keeps hs ..
  | .watchdogDeadline .. => execWatchdogDeadline_keeps hs ..
  | .safeTableCrcCheck .. => execSafeTableCrcCheck_keeps hs ..
  | .rcOscMeasure .. => execRcOscMeasure_keeps hs ..
  | .safetySelftest .. => execSafetySelftest_keeps hs ..
  | .mgmtSupervisor => execMgmtSupervisor_keeps hs
  | .supervisorRestart => execSupervisorRestart_keeps hs
  | .autoRestart => execAutoRestart_keeps hs
  | .enterRun .. => execEnterRun_keeps hs ..
  | .serviceTimeout => execServiceTimeout_keeps hs
  | .retainSnapshot => execRetainSnapshot_keeps hs
  | .bitCycle .. => execBitCycle_keeps hs ..
  | .bitOverrun => execBitOverrun_keeps hs
  | .planBuildComplete .. => execPlanBuildComplete_keeps hs ..
  | .swapWindowOpen => execSwapWindowOpen_keeps hs
  | .planSwap => execPlanSwap_keeps hs
  | .nop .. => execNop_keeps hs ..
  | .endTask .. => execEndTask_keeps hs ..
  | .br .. => execBr_keeps hs ..
  | .bt .. => execBt_keeps hs ..
  | .bf .. => execBf_keeps hs ..
  | .bnv .. => execBnv_keeps hs ..
  | .repeat .. => execRepeat_keeps hs ..
  | .ldp .. => execLdp_keeps hs ..
  | .stp .. => execStp_keeps hs ..
  | .ldage .. => execLdage_keeps hs ..
  | .ldchg .. => execLdchg_keeps hs ..
  | .ldi .. => execLdi_keeps hs ..
  | .ldix .. => execLdix_keeps hs ..
  | .ldir .. => execLdir_keeps hs ..
  | .ldk .. => execLdk_keeps hs ..
  | .ldkx .. => execLdkx_keeps hs ..
  | .mov .. => execMov_keeps hs ..
  | .ldm .. => execLdm_keeps hs ..
  | .stm .. => execStm_keeps hs ..
  | .ldmx .. => execLdmx_keeps hs ..
  | .stmx .. => execStmx_keeps hs ..
  | .ldt .. => execLdt_keeps hs ..
  | .addI .. => execAddI_keeps hs ..
  | .subI .. => execSubI_keeps hs ..
  | .mulI .. => execMulI_keeps hs ..
  | .divI .. => execDivI_keeps hs ..
  | .modI .. => execModI_keeps hs ..
  | .negI .. => execNegI_keeps hs ..
  | .absI .. => execAbsI_keeps hs ..
  | .minI .. => execMinI_keeps hs ..
  | .maxI .. => execMaxI_keeps hs ..
  | .limI .. => execLimI_keeps hs ..
  | .addiI .. => execAddiI_keeps hs ..
  | .addL .. => execAddL_keeps hs ..
  | .subL .. => execSubL_keeps hs ..
  | .mulL .. => execMulL_keeps hs ..
  | .divL .. => execDivL_keeps hs ..
  | .negL .. => execNegL_keeps hs ..
  | .absL .. => execAbsL_keeps hs ..
  | .minL .. => execMinL_keeps hs ..
  | .maxL .. => execMaxL_keeps hs ..
  | .limL .. => execLimL_keeps hs ..
  | .addF .. => execAddF_keeps hs ..
  | .subF .. => execSubF_keeps hs ..
  | .mulF .. => execMulF_keeps hs ..
  | .divF .. => execDivF_keeps hs ..
  | .sqrtF .. => execSqrtF_keeps hs ..
  | .negF .. => execNegF_keeps hs ..
  | .absF .. => execAbsF_keeps hs ..
  | .minF .. => execMinF_keeps hs ..
  | .maxF .. => execMaxF_keeps hs ..
  | .limF .. => execLimF_keeps hs ..
  | .macF .. => execMacF_keeps hs ..
  | .i2l .. => execI2l_keeps hs ..
  | .l2i .. => execL2i_keeps hs ..
  | .i2f .. => execI2f_keeps hs ..
  | .f2i .. => execF2i_keeps hs ..
  | .l2f .. => execL2f_keeps hs ..
  | .f2l .. => execF2l_keeps hs ..
  | .and64 .. => execAnd64_keeps hs ..
  | .or64 .. => execOr64_keeps hs ..
  | .xor64 .. => execXor64_keeps hs ..
  | .notB .. => execNotB_keeps hs ..
  | .inv64 .. => execInv64_keeps hs ..
  | .shl .. => execShl_keeps hs ..
  | .shr .. => execShr_keeps hs ..
  | .sar .. => execSar_keeps hs ..
  | .cmpI .. => execCmpI_keeps hs ..
  | .cmpL .. => execCmpL_keeps hs ..
  | .cmpF .. => execCmpF_keeps hs ..
  | .sel .. => execSel_keeps hs ..
  | .qld .. => execQld_keeps hs ..
  | .qtst .. => execQtst_keeps hs ..
  | .qset .. => execQset_keeps hs ..
  | .qval .. => execQval_keeps hs ..
  | .qcpy .. => execQcpy_keeps hs ..
  | .ton .. => execTon_keeps hs ..
  | .tof .. => execTof_keeps hs ..
  | .tp .. => execTp_keeps hs ..
  | .ctu .. => execCtu_keeps hs ..
  | .ctd .. => execCtd_keeps hs ..
  | .rTrig .. => execRTrig_keeps hs ..
  | .fTrig .. => execFTrig_keeps hs ..
  | .srBlk .. => execSrBlk_keeps hs ..
  | .rsBlk .. => execRsBlk_keeps hs ..
  | .inx .. => execInx_keeps hs ..
  | .outx .. => execOutx_keeps hs ..
  | .bitNop => execBitNop_keeps hs
  | .bitLd .. => execBitLd_keeps hs ..
  | .bitLdn .. => execBitLdn_keeps hs ..
  | .bitAnd .. => execBitAnd_keeps hs ..
  | .bitAndn .. => execBitAndn_keeps hs ..
  | .bitOr .. => execBitOr_keeps hs ..
  | .bitOrn .. => execBitOrn_keeps hs ..
  | .bitXor .. => execBitXor_keeps hs ..
  | .bitSt .. => execBitSt_keeps hs ..
  | .bitStn .. => execBitStn_keeps hs ..
  | .bitSet .. => execBitSet_keeps hs ..
  | .bitRst .. => execBitRst_keeps hs ..
  | .bitPush => execBitPush_keeps hs
  | .bitPopand => execBitPopand_keeps hs
  | .bitPopor => execBitPopor_keeps hs
  | .bitPop => execBitPop_keeps hs
  | .bitNota => execBitNota_keeps hs
  | .bitJc .. => execBitJc_keeps hs ..
  | .bitJnc .. => execBitJnc_keeps hs ..
  | .bitJmp .. => execBitJmp_keeps hs ..
  | .bitEnd => execBitEnd_keeps hs
  | .ptpSync .. => execPtpSync_keeps hs ..
  | .sourceQualified .. => execSourceQualified_keeps hs ..
  | .ptpAnnounce .. => execPtpAnnounce_keeps hs ..
  | .announceTimeout .. => execAnnounceTimeout_keeps hs ..
  | .syncTimeout .. => execSyncTimeout_keeps hs ..
  | .tsyncInEdge .. => execTsyncInEdge_keeps hs ..
  | .ppsLoss => execPpsLoss_keeps hs
  | .tsyncOutPulse => execTsyncOutPulse_keeps hs
  | .tsyncOutFall => execTsyncOutFall_keeps hs
  | .timeStep => execTimeStep_keeps hs
  | .holdoverToFree .. => execHoldoverToFree_keeps hs ..
  | .jackInputChange .. => execJackInputChange_keeps hs ..
  | .jackReleaseTimeout .. => execJackReleaseTimeout_keeps hs ..
  | .jackReset .. => execJackReset_keeps hs ..
  | .jackResetAll .. => execJackResetAll_keeps hs ..
  | .jackCompare => execJackCompare_keeps hs
  | .loopModeRequest .. => execLoopModeRequest_keeps hs ..
  | .loopTuningWrite .. => execLoopTuningWrite_keeps hs ..
  | .looptestStart .. => execLooptestStart_keeps hs ..
  | .looptestAbort .. => execLooptestAbort_keeps hs ..
  | .looptestAnalysis .. => execLooptestAnalysis_keeps hs ..
  | .gainSwitch .. => execGainSwitch_keeps hs ..
  | .sampleClip .. => execSampleClip_keeps hs ..
  | .metBlockEnd .. => execMetBlockEnd_keeps hs ..
  | .metCalAccumDone => execMetCalAccumDone_keeps hs
  | .metIntervalBoundary => execMetIntervalBoundary_keeps hs
  | .metJournal => execMetJournal_keeps hs
  | .metCalCommit .. => execMetCalCommit_keeps hs ..
  | .metCalAccum .. => execMetCalAccum_keeps hs ..
  | .metCalDiscard .. => execMetCalDiscard_keeps hs ..
  | .metCapStart .. => execMetCapStart_keeps hs ..
  | .metCapDone => execMetCapDone_keeps hs
  | .metEnergyLoRead .. => execMetEnergyLoRead_keeps hs ..
  | .diFilterChange .. => execDiFilterChange_keeps hs ..
  | .diStuck .. => execDiStuck_keeps hs ..
  | .diChatter .. => execDiChatter_keeps hs ..
  | .chatterHoldExpiry .. => execChatterHoldExpiry_keeps hs ..
  | .countEdge .. => execCountEdge_keeps hs ..
  | .countWindowEnd => execCountWindowEnd_keeps hs
  | .countJournal => execCountJournal_keeps hs
  | .fioCntLoRead .. => execFioCntLoRead_keeps hs ..
  | .doShort .. => execDoShort_keeps hs ..
  | .doShortRetry .. => execDoShortRetry_keeps hs ..
  | .doThermalTrip .. => execDoThermalTrip_keeps hs ..
  | .doThermalRecover .. => execDoThermalRecover_keeps hs ..
  | .doGroupTrip .. => execDoGroupTrip_keeps hs ..
  | .doGroupRetry .. => execDoGroupRetry_keeps hs ..
  | .doGroupLatchClear .. => execDoGroupLatchClear_keeps hs ..
  | .doScLatchClear .. => execDoScLatchClear_keeps hs ..
  | .vauxLost .. => execVauxLost_keeps hs ..
  | .vauxRestored .. => execVauxRestored_keeps hs ..
  | .doOpenload .. => execDoOpenload_keeps hs ..
  | .aiConversion .. => execAiConversion_keeps hs ..
  | .aiProtTrip .. => execAiProtTrip_keeps hs ..
  | .aiProtReconnect .. => execAiProtReconnect_keeps hs ..
  | .aoFault .. => execAoFault_keeps hs ..
  | .ltCommandFrame .. => execLtCommandFrame_keeps hs ..
  | .ltCurrentApply .. => execLtCurrentApply_keeps hs ..
  | .ltReport .. => execLtReport_keeps hs ..
  | .ltOpen .. => execLtOpen_keeps hs ..
  | .ltFrameLoss .. => execLtFrameLoss_keeps hs ..
  | .ltHoldExpiry .. => execLtHoldExpiry_keeps hs ..
  | .ltModemChar .. => execLtModemChar_keeps hs ..
  | .siFilterChange .. => execSiFilterChange_keeps hs ..
  | .siDiscrepancy .. => execSiDiscrepancy_keeps hs ..
  | .siTestFault .. => execSiTestFault_keeps hs ..
  | .soOffPulse .. => execSoOffPulse_keeps hs ..
  | .soPulseCheck .. => execSoPulseCheck_keeps hs ..
  | .soDarkFail .. => execSoDarkFail_keeps hs ..
  | .soOnFail .. => execSoOnFail_keeps hs ..
  | .soOverload .. => execSoOverload_keeps hs ..
  | .soBothOn .. => execSoBothOn_keeps hs ..
  | .unlockWindowExpiry .. => execUnlockWindowExpiry_keeps hs ..
  | .unlockBlockExpiry => execUnlockBlockExpiry_keeps hs
  | .exchangeReply .. => execExchangeReply_keeps hs ..
  | .attemptTimeout .. => execAttemptTimeout_keeps hs ..
  | .canFrameRx .. => execCanFrameRx_keeps hs ..
  | .canTxError .. => execCanTxError_keeps hs ..
  | .canBusOff .. => execCanBusOff_keeps hs ..
  | .canBusOffRecovery .. => execCanBusOffRecovery_keeps hs ..
  | .mstpToken .. => execMstpToken_keeps hs ..
  | .daliNoPower .. => execDaliNoPower_keeps hs ..
  | .daliPowerRestored .. => execDaliPowerRestored_keeps hs ..
  | .daliEventMessage .. => execDaliEventMessage_keeps hs ..
  | .mbusShort => execMbusShort_keeps hs
  | .mbusRetry => execMbusRetry_keeps hs
  | .t1lOvercurrent .. => execT1lOvercurrent_keeps hs ..
  | .t1lShed .. => execT1lShed_keeps hs ..
  | .t1lPowerRetry .. => execT1lPowerRetry_keeps hs ..
  | .tcpConnectionClosed .. => execTcpConnectionClosed_keeps hs ..
  | .passExchange .. => execPassExchange_keeps hs ..
  | .passWindowEnd .. => execPassWindowEnd_keeps hs ..
  | .uplFrameRx .. => execUplFrameRx_keeps hs ..
  | .pauseFrame .. => execPauseFrame_keeps hs ..
  | .uplLinkUp .. => execUplLinkUp_keeps hs ..
  | .preemptVerified .. => execPreemptVerified_keeps hs ..
  | .uplLinkDown .. => execUplLinkDown_keeps hs ..
  | .sfpInsert .. => execSfpInsert_keeps hs ..
  | .sfpLos .. => execSfpLos_keeps hs ..
  | .loadMeasure .. => execLoadMeasure_keeps hs ..
  | .upshiftDue .. => execUpshiftDue_keeps hs ..
  | .holdoffExpiry .. => execHoldoffExpiry_keeps hs ..
  | .shiftFail .. => execShiftFail_keeps hs ..
  | .txFrameTimeout .. => execTxFrameTimeout_keeps hs ..
  | .poolClearDone => execPoolClearDone_keeps hs
  | .uplApply .. => execUplApply_keeps hs ..
  | .uplConfirm .. => execUplConfirm_keeps hs ..
  | .uplRevert .. => execUplRevert_keeps hs ..
  | .uplConfirmTimeout .. => execUplConfirmTimeout_keeps hs ..
  | .orporPacket .. => execOrporPacket_keeps hs ..
  | .spiWrite .. => execSpiWrite_keeps hs ..
  | .spiRead => execSpiRead_keeps hs
  | .spiStatus => execSpiStatus_keeps hs
  | .sessionIdleTimeout .. => execSessionIdleTimeout_keeps hs ..
  | .opSessProbe => execOpSessProbe_keeps hs
  | .opSessOpen => execOpSessOpen_keeps hs
  | .opSessClose .. => execOpSessClose_keeps hs ..
  | .opSessInfo .. => execOpSessInfo_keeps hs ..
  | .opSessList .. => execOpSessList_keeps hs ..
  | .opSessKill .. => execOpSessKill_keeps hs ..
  | .opPtRead .. => execOpPtRead_keeps hs ..
  | .opPtReadRange .. => execOpPtReadRange_keeps hs ..
  | .opPtWrite .. => execOpPtWrite_keeps hs ..
  | .opPtForce .. => execOpPtForce_keeps hs ..
  | .opPtRelease .. => execOpPtRelease_keeps hs ..
  | .opPtForces .. => execOpPtForces_keeps hs ..
  | .opPkgBegin .. => execOpPkgBegin_keeps hs ..
  | .opPkgBlock .. => execOpPkgBlock_keeps hs ..
  | .opPkgEnd .. => execOpPkgEnd_keeps hs ..
  | .opPlanActivate .. => execOpPlanActivate_keeps hs ..
  | .opPlanCancel .. => execOpPlanCancel_keeps hs ..
  | .opPlanRead .. => execOpPlanRead_keeps hs ..
  | .opBitprogLoad .. => execOpBitprogLoad_keeps hs ..
  | .opBitprogRead .. => execOpBitprogRead_keeps hs ..
  | .opRegRead .. => execOpRegRead_keeps hs ..
  | .opRegWrite .. => execOpRegWrite_keeps hs ..
  | .opRegModify .. => execOpRegModify_keeps hs ..
  | .opMetRead .. => execOpMetRead_keeps hs ..
  | .opMetIntervals .. => execOpMetIntervals_keeps hs ..
  | .opMetCapture .. => execOpMetCapture_keeps hs ..
  | .opLoopRead .. => execOpLoopRead_keeps hs ..
  | .opLoopMode .. => execOpLoopMode_keeps hs ..
  | .opLoopTune .. => execOpLoopTune_keeps hs ..
  | .opLoopTest .. => execOpLoopTest_keeps hs ..
  | .opLoopTestRead .. => execOpLoopTestRead_keeps hs ..
  | .opLogAreas .. => execOpLogAreas_keeps hs ..
  | .opLogRead .. => execOpLogRead_keeps hs ..
  | .opTimeGet .. => execOpTimeGet_keeps hs ..
  | .opTimeSet .. => execOpTimeSet_keeps hs ..
  | .opRtcGet .. => execOpRtcGet_keeps hs ..
  | .opRtcSet .. => execOpRtcSet_keeps hs ..
  | .opUpdBegin .. => execOpUpdBegin_keeps hs ..
  | .opUpdBlock .. => execOpUpdBlock_keeps hs ..
  | .opUpdEnd .. => execOpUpdEnd_keeps hs ..
  | .updVerifyComplete .. => execUpdVerifyComplete_keeps hs ..
  | .opUpdActivate .. => execOpUpdActivate_keeps hs ..
  | .updActivation => execUpdActivation_keeps hs
  | .opUpdStatus .. => execOpUpdStatus_keeps hs ..
  | .opKeyStage .. => execOpKeyStage_keeps hs ..
  | .opKeyVerify .. => execOpKeyVerify_keeps hs ..
  | .opKeyCommit .. => execOpKeyCommit_keeps hs ..
  | .opKeyDiscard .. => execOpKeyDiscard_keeps hs ..
  | .opKeyList .. => execOpKeyList_keeps hs ..
  | .opSafeUnlock .. => execOpSafeUnlock_keeps hs ..
  | .opSafeLock .. => execOpSafeLock_keeps hs ..
  | .opSafePwSet .. => execOpSafePwSet_keeps hs ..
  | .opSafePwClear .. => execOpSafePwClear_keeps hs ..
  | .opSafeAck .. => execOpSafeAck_keeps hs ..
  | .opSafeTest .. => execOpSafeTest_keeps hs ..
  | .opSafeLogAck .. => execOpSafeLogAck_keeps hs ..
  | .opStateStop .. => execOpStateStop_keeps hs ..
  | .opStateRestart .. => execOpStateRestart_keeps hs ..
  | .opStateBit .. => execOpStateBit_keeps hs ..
  | .opStateService .. => execOpStateService_keeps hs ..
  | .opStateRelease .. => execOpStateRelease_keeps hs ..
  | .opStateGet .. => execOpStateGet_keeps hs ..
  | .opPwrStatus .. => execOpPwrStatus_keeps hs ..
  | .opTwinStatus .. => execOpTwinStatus_keeps hs ..
  | .opTwinSwap .. => execOpTwinSwap_keeps hs ..
  | .twinHandover .. => execTwinHandover_keeps hs ..
  | .opBusXfer .. => execOpBusXfer_keeps hs ..
  | .opBusResult .. => execOpBusResult_keeps hs ..
  | .opBusRecv .. => execOpBusRecv_keeps hs ..
  | .opDiagOutput .. => execOpDiagOutput_keeps hs ..
  | .opDiagRelease .. => execOpDiagRelease_keeps hs ..
  | .opDiagBanktest .. => execOpDiagBanktest_keeps hs ..
  | .bankTestComplete .. => execBankTestComplete_keeps hs ..
  | .opDiagCounters .. => execOpDiagCounters_keeps hs ..
  | .opDiagEcho .. => execOpDiagEcho_keeps hs ..
  | .storedSetWrite .. => execStoredSetWrite_keeps hs ..
  | .suspectClear .. => execSuspectClear_keeps hs ..
  | .returnLimitWrite .. => execReturnLimitWrite_keeps hs ..
  | .timeNowLoRead => execTimeNowLoRead_keeps hs
  | .nvmOptimeLoRead => execNvmOptimeLoRead_keeps hs
  | .stringLaneUp .. => execStringLaneUp_keeps hs ..
  | .stringLaneDown .. => execStringLaneDown_keeps hs ..
  | .splitEnd => execSplitEnd_keeps hs
  | .twinTimeSend => execTwinTimeSend_keeps hs
  | .twinTimeRx .. => execTwinTimeRx_keeps hs ..
  | .barFrameRx .. => execBarFrameRx_keeps hs ..
  | .mirrorFrameRx .. => execMirrorFrameRx_keeps hs ..
  | .forwardFrameRx .. => execForwardFrameRx_keeps hs ..
  | .writeFrameRx .. => execWriteFrameRx_keeps hs ..
  | .streamFrameRx .. => execStreamFrameRx_keeps hs ..
  | .orporFrameRx .. => execOrporFrameRx_keeps hs ..
  | .controlFrameRx .. => execControlFrameRx_keeps hs ..
  | .stepLost => execStepLost_keeps hs
  | .barLineChange .. => execBarLineChange_keeps hs ..
  | .takeover .. => execTakeover_keeps hs ..
  | .rejoinCopyComplete => execRejoinCopyComplete_keeps hs
  | .rejoinInStep .. => execRejoinInStep_keeps hs ..
  | .twinSelftestPass => execTwinSelftestPass_keeps hs
  | .twinReturn .. => execTwinReturn_keeps hs ..
  | .sideBWaitTimeout => execSideBWaitTimeout_keeps hs
  | .flashProgramDone => execFlashProgramDone_keeps hs
  | .sectorEraseDone => execSectorEraseDone_keeps hs
  | .marginPassStart => execMarginPassStart_keeps hs
  | .marginSectorRead .. => execMarginSectorRead_keeps hs ..
  | .optimeTick .. => execOptimeTick_keeps hs ..
  | .repeatHoldExpiry .. => execRepeatHoldExpiry_keeps hs ..
  | .rateWindowClose .. => execRateWindowClose_keeps hs ..
  | .rtcSecondTick => execRtcSecondTick_keeps hs
  | .rtcCommit .. => execRtcCommit_keeps hs ..
  | .rtcShadowFreeze => execRtcShadowFreeze_keeps hs
  | .rtcFreezeTimeout => execRtcFreezeTimeout_keeps hs
  | .rtcSync => execRtcSync_keeps hs
  | .rtcOscStop => execRtcOscStop_keeps hs
  | .keyRemaskPass => execKeyRemaskPass_keeps hs
  | .stagedKeyExpiry .. => execStagedKeyExpiry_keeps hs ..
  | .fwConfirm => execFwConfirm_keeps hs
  | .vinValid .. => execVinValid_keeps hs ..
  | .holdupReady => execHoldupReady_keeps hs
  | .tcxoStable => execTcxoStable_keeps hs
  | .firmwareVerified .. => execFirmwareVerified_keeps hs ..
  | .planArmed => execPlanArmed_keeps hs
  | .powerFailWarning .. => execPowerFailWarning_keeps hs ..
  | .saveDone .. => execSaveDone_keeps hs ..
  | .vinReturn .. => execVinReturn_keeps hs ..
  | .holdupExhausted .. => execHoldupExhausted_keeps hs ..
  | .resetPin => execResetPin_keeps hs
  | .resetRelease .. => execResetRelease_keeps hs ..
  | .domainPowerGood .. => execDomainPowerGood_keeps hs ..
  | .domainShutdownDone .. => execDomainShutdownDone_keeps hs ..
  | .pendingOnExecute .. => execPendingOnExecute_keeps hs ..
  | .domainFault .. => execDomainFault_keeps hs ..
  | .tcxoFail => execTcxoFail_keeps hs
  | .tcxoRecovered => execTcxoRecovered_keeps hs
  | .tcxoRecoveryTimeout => execTcxoRecoveryTimeout_keeps hs
  | .pllUnlock .. => execPllUnlock_keeps hs ..
  | .metSample .. => execMetSample_keeps hs ..
  | .ptpDelayResponse .. => execPtpDelayResponse_keeps hs ..
  | .islandPowerUp .. => execIslandPowerUp_keeps hs ..
  | .daliCollision .. => execDaliCollision_keeps hs ..
  | .canFrameTransmitted .. => execCanFrameTransmitted_keeps hs ..
  | .canRxError .. => execCanRxError_keeps hs ..
  | .poweredDeviceDetected .. => execPoweredDeviceDetected_keeps hs ..
  | .fieldEthernetFrame .. => execFieldEthernetFrame_keeps hs ..
  | .sfpRemoval => execSfpRemoval_keeps hs
  | .frameSent .. => execFrameSent_keeps hs ..
  | .offPulseEnd .. => execOffPulseEnd_keeps hs ..
  | .slotWriteComplete .. => execSlotWriteComplete_keeps hs ..
  | .crystalRestart => execCrystalRestart_keeps hs
  | .backupSupplyLost => execBackupSupplyLost_keeps hs
  | .pllRelock .. => execPllRelock_keeps hs ..
  | .bootDomainRetry => execBootDomainRetry_keeps hs
  | .lifecycleAdvance .. => execLifecycleAdvance_keeps hs ..

end

/-- Settles O3: no register differs from its reset word, no cell is listed, the calendar shows 2000-01-01, a Saturday. -/
theorem resetMeetsInvariant : Obligations.ResetMeetsInvariant := by
  refine ⟨⟨rfl, rfl, fun i => ?_, by decide, by decide +kernel, rfl⟩, rfl⟩
  simp only [State.reset, Mod.reset, Fin.getElem_fin, Vector.getElem_replicate]
  rfl

/-- Settles O4: the TCXO's cycle of an empty queue keeps the invariant, and so does each command. -/
theorem everyStepKeepsInvariant : Obligations.EveryStepKeepsInvariant := by
  intro s t hs hstep
  unfold step at hstep
  split at hstep
  case _ =>
    cases hstep
    exact Mod.tick_inv _ hs
  case _ c rest _ => exact (exec_keeps (s := { s with pending := rest }) hs c).inv t hstep

end Sys2Proof.Machine
end

/-! PROOFS. The register commands OP_REG_READ, OP_REG_WRITE and OP_REG_MODIFY (O49). -/

section

namespace Sys2Proof.Machine

/-! ### The register file -/

theorem mapDel_of_mapGet_none {α : Type} {k : Nat} {l : List (Nat × α)} (h : mapGet k l = none) : mapDel k l = l := by
  induction l with
  | nil => rfl
  | cons p t ih =>
    obtain ⟨a, y⟩ := p
    by_cases ha : a = k
    · simp [mapGet, ha] at h
    · simp only [mapGet, ha, if_false] at h
      simp only [mapDel, ha, if_false, ih h]

theorem mapPut_of_mapGet_some {α : Type} {lo : Option Nat} {k : Nat} {x : α} {l : List (Nat × α)} (hs : mapSorted lo l = true)
    (h : mapGet k l = some x) : mapPut k x l = l := by
  induction l generalizing lo with
  | nil => simp [mapGet] at h
  | cons p t ih =>
    obtain ⟨a, y⟩ := p
    simp only [mapSorted, Bool.and_eq_true] at hs
    by_cases ha : k = a
    · subst ha
      simp only [mapGet, if_true, Option.some.injEq] at h
      simp [mapPut, h]
    · simp only [mapGet, Ne.symm ha, if_false] at h
      have hlt : ¬k < a := fun hlt => by simp [mapGet_below hs.2 (Nat.le_of_lt hlt)] at h
      simp only [mapPut, hlt, ha, if_false, ih hs.2 h]

theorem mapGet_all {α : Type} {k : Nat} {x : α} {p : Nat × α → Bool} {l : List (Nat × α)} (hp : l.all p = true)
    (h : mapGet k l = some x) : p (k, x) = true := by
  induction l with
  | nil => simp [mapGet] at h
  | cons q t ih =>
    obtain ⟨a, y⟩ := q
    simp only [List.all_cons, Bool.and_eq_true] at hp
    by_cases ha : a = k
    · simp only [mapGet, ha, if_true, Option.some.injEq] at h
      subst ha h
      exact hp.1
    · simp only [mapGet, ha, if_false] at h
      exact ih hp.2 h

/-- In canonical form a register file has one list for one content. -/
theorem regWrite_regRead {rs : List (Nat × Word)} (a : Nat) (h : regsWf rs = true) : regWrite rs a (regRead rs a) = rs := by
  simp only [regsWf, Bool.and_eq_true] at h
  obtain ⟨hsorted, hall⟩ := h
  cases hg : mapGet a rs with
  | none => simp [regWrite, regRead, hg, mapDel_of_mapGet_none hg]
  | some w =>
    have hne : w ≠ resetWord a := by simpa using mapGet_all hall hg
    simp [regWrite, regRead, hg, hne, mapPut_of_mapGet_some hsorted hg]

theorem Mod.setWord_word {m : Mod} (a : Nat) (h : regsWf m.regs = true) : m.setWord a (m.word a) = m := by
  rw [Mod.setWord, Mod.word, regWrite_regRead a h]

/-! ### Frames -/

theorem Only.refl (m : Mod) : Only [] [] m m := ⟨fun p _ => by cases p <;> rfl, fun _ _ _ => rfl⟩

theorem Only.setWord (m : Mod) (a : Nat) (w : Word) : Only [] [whole a] m (m.setWord a w) := by
  refine ⟨fun p _ => by cases p <;> rfl, fun b j hj => ?_⟩
  by_cases hb : b = a
  · have hj : 32 ≤ j := by simpa using hj (whole a) (List.mem_singleton_self _) hb.symm
    simp [BitVec.getLsbD_of_ge _ _ hj]
  · rw [Mod.word_setWord_ne m w hb]

theorem Only.drawnN (m : Mod) (n : Nat) : Only [.freeCtr] [] m (m.drawnN n) := by
  refine ⟨fun p hp => ?_, fun _ _ _ => rfl⟩
  cases p
  case freeCtr => exact absurd (List.mem_singleton_self _) hp
  all_goals rfl

theorem Only.setSess (m : Mod) (k : Nat) (x : Sess) : Only [.orpor] [] m (m.setSess k x) := by
  refine ⟨fun p hp => ?_, fun _ _ _ => rfl⟩
  cases p
  case orpor => exact absurd (List.mem_singleton_self _) hp
  all_goals rfl

theorem Mod.sess_setSess_same (m : Mod) (k : Nat) (x : Sess) : (m.setSess k x).sess k = some x := mapGet_mapPut_same ..

theorem Mod.sess_setSess_ne (m : Mod) {k j : Nat} (x : Sess) (h : j ≠ k) : (m.setSess k x).sess j = m.sess j := mapGet_mapPut_ne h ..

/-! ### Reading a register -/

theorem Mod.regLive_eq_any (m : Mod) (a : Nat) :
    m.regLive a = (pdOf a).any (fun d => d == 0 || m.pdPh d == .on || m.pdPh d == .shutting) := by
  unfold Mod.regLive
  cases pdOf a <;> rfl

/-- A register answers where its domain is neither off nor powering up (R493). -/
theorem Mod.regLive_iff (m : Mod) (a : Nat) :
    m.regLive a = true ↔ ∃ d, pdOf a = some d ∧ ¬(d ≠ 0 ∧ m.pdPh d ≠ .on ∧ m.pdPh d ≠ .shutting) := by
  rw [Mod.regLive_eq_any, Option.any_eq_true]
  refine exists_congr fun d => and_congr_right fun _ => ?_
  by_cases hd : d = 0 <;> simp [hd, Classical.or_iff_not_imp_left]

/-- `quietRead` names every register whose reading latches or uses something. -/
theorem Mod.pairEffect_of_quietRead (m : Mod) {a : Nat} (h : quietRead a = true) : m.pairEffect a = m := by
  simp only [quietRead, Bool.and_eq_true, Bool.not_eq_true', Option.isNone_iff_eq_none] at h
  obtain ⟨⟨⟨hlist, hlo⟩, hhi⟩, hmet⟩ := h
  simp only [List.contains_eq_mem, List.mem_cons, List.not_mem_nil, or_false, not_or, decide_eq_false_iff_not] at hlist
  obtain ⟨-, -, -, hoptLo, hoptHi, hnowLo, hnowHi, -, -⟩ := hlist
  have hmet : ¬(0x30000 ≤ a ∧ a < 0x33000 ∧ 0x30 ≤ a % 128 ∧ a % 128 < 0x70) :=
    fun ⟨h1, h2, h3, h4⟩ => by simp [h1, h2, h3, h4] at hmet
  have hlo : inst (F.FIO_CNT_LO_COUNT 0).addr 16 8 a = none := hlo
  have hhi : inst (F.FIO_CNT_HI_COUNT 0).addr 16 8 a = none := hhi
  simp only [Mod.pairEffect, hoptLo, hoptHi, hnowLo, hnowHi, hlo, hhi, hmet, if_false]

theorem Mod.readKeep_of_quietRead (m : Mod) (x : Sess) {a : Nat} (h : quietRead a = true) : m.readKeep x a = (m, m.peek x a) := by
  have hpair := m.pairEffect_of_quietRead h
  simp only [quietRead, Bool.and_eq_true, Bool.not_eq_true'] at h
  obtain ⟨⟨⟨hlist, -⟩, -⟩, -⟩ := h
  simp only [List.contains_eq_mem, List.mem_cons, List.not_mem_nil, or_false, not_or, decide_eq_false_iff_not] at hlist
  obtain ⟨hTime, hDate, hSub, -, -, -, -, hCrc, hInfo⟩ := hlist
  simp only [Mod.readKeep, hTime, hDate, hSub, hCrc, hInfo, or_self, if_false, decide_false, Mod.when, hpair, Bool.false_eq_true, ite_self]

/-- Away from the three views of other state, a read clears the RC fields in the register itself. -/
theorem Mod.rcClear_of_view (m : Mod) (x : Sess) {a : Nat} (h : [R.LOG_AREA_COUNTS, R.FPOOL_USE, R.FPOOL_DROP].contains a = false) :
    m.rcClear x a = if BitVec.ofNat 32 (accessAt a).rc = 0 then m
      else m.setWord a ((m.word a &&& ~~~BitVec.ofNat 32 (accessAt a).rc) ||| (resetWord a &&& BitVec.ofNat 32 (accessAt a).rc)) := by
  simp only [List.contains_eq_mem, List.mem_cons, List.not_mem_nil, or_false, not_or, decide_eq_false_iff_not] at h
  obtain ⟨hCounts, hUse, hDrop⟩ := h
  simp only [Mod.rcClear, hCounts, hUse, hDrop, if_false]

theorem Mod.readReg_of_plainRead (m : Mod) (x : Sess) {a : Nat} (h : plainRead a = true) : m.readReg x a = (m, m.peek x a) := by
  simp only [plainRead, Bool.and_eq_true, beq_iff_eq, Bool.not_eq_true'] at h
  obtain ⟨⟨hrc, hquiet⟩, hview⟩ := h
  simp only [Mod.readReg, m.readKeep_of_quietRead x hquiet, m.rcClear_of_view x hview, hrc, BitVec.ofNat_eq_ofNat, if_true, ite_self]

theorem Mod.readReg_of_rcPlain {m : Mod} (x : Sess) {a : Nat} (hwf : regsWf m.regs = true) (h : rcPlain a = true) (hl : m.regLive a = true) :
    m.readReg x a =
      (m.setWord a ((m.word a &&& ~~~BitVec.ofNat 32 (accessAt a).rc) ||| (resetWord a &&& BitVec.ofNat 32 (accessAt a).rc)), m.peek x a) := by
  simp only [rcPlain, Bool.and_eq_true, Bool.not_eq_true'] at h
  obtain ⟨⟨-, hquiet⟩, hview⟩ := h
  simp only [Mod.readReg, m.readKeep_of_quietRead x hquiet, m.rcClear_of_view x hview, hl, if_true]
  split
  case isTrue hrc =>
    have hrc : BitVec.ofNat 32 (accessAt a).rc = 0#32 := hrc
    simp only [hrc, BitVec.not_zero, BitVec.and_allOnes, BitVec.and_zero, BitVec.or_zero, Mod.setWord_word a hwf]
  case isFalse => rfl

theorem Mod.readRegs_singleton (m : Mod) (x : Sess) (a : Nat) : m.readRegs x [a] = ((m.readReg x a).1, leBytes 4 (m.readReg x a).2.toNat) := by
  simp only [Mod.readRegs, List.append_nil]

theorem Mod.readRegs_of_plainRead (m : Mod) (x : Sess) (as : List Nat) (h : as.all plainRead = true) :
    m.readRegs x as = (m, as.flatMap fun a => leBytes 4 (m.peek x a).toNat) := by
  induction as with
  | nil => rfl
  | cons a t ih =>
    simp only [List.all_cons, Bool.and_eq_true] at h
    simp only [Mod.readRegs, m.readReg_of_plainRead x h.1, ih h.2, List.flatMap_cons]

/-! ### Writing a register -/

theorem ne_jackReset_of_plainWrite {a : Nat} (h : plainWrite a = true) : a ≠ R.JACK_RESET := by
  rintro rfl
  exact absurd h (by decide)

theorem ne_jackReset_of_isSelect {a : Nat} (h : isSelect a = true) : a ≠ R.JACK_RESET := by
  rintro rfl
  exact absurd h (by decide)

theorem eq_of_isSome_inst {base stride count a : Nat} (h : (inst base stride count a).isSome = true) :
    ∃ i < count, a = base + stride * i := by
  unfold inst at h
  split at h
  case isTrue hi =>
    obtain ⟨hle, hmod, hlt⟩ := hi
    refine ⟨_, hlt, ?_⟩
    rw [Nat.mul_div_cancel' (Nat.dvd_of_mod_eq_zero hmod), Nat.add_sub_cancel' hle]
  case isFalse => cases h

/-- The select registers: eight of the module's, and two of each CAN port. -/
def selectRegs : List Nat :=
  [R.TILE_DIR_SEL, R.TILE_PMAP_SEL, R.DRUM_SEL, R.JACK_SEL, R.FPOOL_SEL, R.SESS_SEL, R.LOG_SEL, R.KEY_SEL,
    R.FBUS_FILT_SEL 0, R.FBUS_FILT_SEL 1, R.FBUS_RXO_SEL 0, R.FBUS_RXO_SEL 1]

theorem mem_selectRegs {a : Nat} (h : isSelect a = true) : a ∈ selectRegs := by
  simp only [isSelect, Bool.or_eq_true, beq_iff_eq, or_assoc] at h
  obtain h | h | h | h | h | h | h | h | h | h := h
  case inr.inr.inr.inr.inr.inr.inr.inr.inl =>
    obtain ⟨i, hi, rfl⟩ := eq_of_isSome_inst h
    interval_cases i <;> decide
  case inr.inr.inr.inr.inr.inr.inr.inr.inr =>
    obtain ⟨i, hi, rfl⟩ := eq_of_isSome_inst h
    interval_cases i <;> decide
  all_goals subst h; decide

theorem quietRead_of_isSelect {a : Nat} (h : isSelect a = true) : quietRead a = true := by
  have hall : ∀ b ∈ selectRegs, quietRead b = true := by decide
  exact hall a (mem_selectRegs h)

theorem Mod.peek_of_isSelect (m : Mod) (x : Sess) {a : Nat} (hl : m.regLive a = true) (h : isSelect a = true) :
    m.peek x a = mapGetD 0 a x.sel := by
  obtain ⟨d, hd, hon⟩ := (m.regLive_iff a).1 hl
  simp only [Mod.peek, hd, h, if_true]
  rw [if_neg, if_neg]
  · rintro ⟨h0, hph⟩; simp [h0, hph] at hon
  · rintro ⟨h0, hph⟩; simp [h0, hph] at hon

/-- RW bits take the written value, a W1C bit written as 1 is cleared (R5), also where the register has neither. -/
theorem Mod.rwWrite_eq_setWord {m : Mod} (a : Nat) (v : Word) (h : regsWf m.regs = true) : m.rwWrite a v = m.setWord a (regAfter m a v) := by
  unfold Mod.rwWrite
  dsimp only
  split
  case isTrue h0 =>
    simp only [regAfter, h0.1, h0.2, BitVec.not_zero, BitVec.and_allOnes, BitVec.and_zero, BitVec.or_zero,
      Mod.setWord_word a h]
  case isFalse => rfl

/-- `plainWrite` names every register that a write does more to than its access codes say. -/
theorem Mod.putReg_of_plainWrite (m : Mod) (x : Sess) (tag : Option (Nat × Nat)) {a : Nat} (v : Word) (h : plainWrite a = true) :
    m.putReg x tag a v = m.rwWrite a v := by
  simp only [plainWrite, Bool.and_eq_true, Bool.not_eq_true', Option.isNone_iff_eq_none] at h
  obtain ⟨⟨⟨⟨⟨⟨⟨⟨⟨hstored, -⟩, hlist⟩, hloop⟩, htest⟩, hbank⟩, hgrp⟩, hdo⟩, hrxo⟩, hupl⟩ := h
  simp only [List.contains_eq_mem, List.mem_cons, List.not_mem_nil, or_false, not_or, decide_eq_false_iff_not] at hlist
  obtain ⟨-, hrtc, hcfg, hcal, hdata, hcap⟩ := hlist
  have hgrp : inst (F.FIO_DO_GRP_LATCHED 0).addr 4 3 a = none := hgrp
  have hdo : inst (F.FIO_DO_STATUS_SC_LATCHED 0).addr 8 24 a = none := hdo
  have hmet : m.metWrite tag a v = m.rwWrite a v := by simp only [Mod.metWrite, hcal, hdata, hcap, if_false]
  simp only [Mod.putReg, hrtc, hcfg, htest, hmet, hbank, hgrp, hdo, hrxo, hupl, hstored, if_false, ite_self]
  split
  case isTrue hr =>
    have h30 : a % 64 = 0x30 := by simpa [hr.1, hr.2] using hloop
    rw [if_pos h30]
  case isFalse => rfl

section

variable {m : Mod} {k : Nat} {x : Sess} (hx : m.sess k = some x) {a : Nat} (tag : Option (Nat × Nat)) (v : Word)
include hx

theorem Mod.writeReg_of_plainWrite (hl : m.regLive a = true) (hw : m.mayWrite k a = true) (hp : plainWrite a = true) :
    m.writeReg k tag a v = m.rwWrite a v := by
  obtain ⟨d, hd, hon⟩ := (m.regLive_iff a).1 hl
  have hput := m.putReg_of_plainWrite x tag v hp
  have hjack := ne_jackReset_of_plainWrite hp
  simp only [plainWrite, Bool.and_eq_true, Bool.not_eq_true', Option.isNone_iff_eq_none] at hp
  obtain ⟨⟨⟨⟨⟨⟨⟨⟨⟨-, hsel⟩, -⟩, -⟩, -⟩, -⟩, -⟩, -⟩, -⟩, hupl⟩ := hp
  simp only [Mod.writeReg, hx, hd, hon, hsel, hjack, hupl, hw, hput, if_false, if_true, Bool.false_eq_true]

theorem Mod.writeReg_of_isSelect (hl : m.regLive a = true) (hsel : isSelect a = true) :
    m.writeReg k tag a v = m.setSess k { x with sel := mapPut a (v &&& BitVec.ofNat 32 (accessAt a).rw) x.sel } := by
  obtain ⟨d, hd, hon⟩ := (m.regLive_iff a).1 hl
  simp only [Mod.writeReg, hx, hd, hon, hsel, if_false, if_true]

theorem Mod.writeReg_of_blocked (hsel : isSelect a = false) (hjack : a ≠ R.JACK_RESET) (hupl : inst (R.UPL_CTRL 0) 0x200 2 a = none)
    (hb : m.regLive a = false ∨ m.mayWrite k a = false) : m.writeReg k tag a v = m := by
  cases hd : pdOf a with
  | none => simp only [Mod.writeReg, hx, hd]
  | some d =>
    simp only [Mod.writeReg, hx, hd, hsel, hjack, hupl, if_false, Bool.false_eq_true]
    split
    case isTrue => rfl
    case isFalse hon =>
      have hl : m.regLive a = true := (m.regLive_iff a).2 ⟨d, hd, hon⟩
      have hw : m.mayWrite k a = false := hb.resolve_left (by simp [hl])
      simp [hw]

end

theorem Mod.writeRegs_singleton (m : Mod) {k : Nat} (tag : Nat × Nat) {a : Nat} (v : Word) {x : Sess}
    (hx : (m.writeReg k (some tag) a v).sess k = some x) (hq : quietRead a = true) :
    m.writeRegs k tag [(a, v)] = (m.writeReg k (some tag) a v, leBytes 4 ((m.writeReg k (some tag) a v).peek x a).toNat) := by
  simp only [Mod.writeRegs, hx, Mod.readKeep_of_quietRead _ x hq, List.append_nil]

/-! ### The module as the executing command finds it -/

section

variable (s : State) (h : BitVec 10) (seq : BitVec 32) (x : Sess) (a k : Nat)

/-- What a register shows does not depend on the order of the waiting commands. -/
theorem begun_peek : (begun s h seq).peek x a = s.m.peek x a := rfl

theorem begun_mayRead : (begun s h seq).mayRead x a = s.m.mayRead x a := rfl

theorem begun_window (as : List Nat) : (begun s h seq).window as = s.m.window as := rfl

theorem begun_jackRefused (v : Word) : (begun s h seq).jackRefused k a v = s.m.jackRefused k a v := rfl

theorem begun_random : (begun s h seq).random k = s.m.random k := rfl

end

/-- The command that may execute is its session's. -/
theorem sess_of_ready {m : Mod} {k seq op : Nat} {x : Sess} {c : Cmd} (h : m.ready k seq op = some (x, c)) : m.sess k = some x := by
  unfold Mod.ready at h
  split at h
  case _ => cases h
  case _ y hy =>
    split at h
    case _ => cases h
    case _ =>
      split at h
      case isTrue => cases h; exact hy
      case isFalse => cases h

/-! ### Executing -/

section

variable {s : State} {h : BitVec 10} {seq : BitVec 32} {x : Sess} {c : Cmd} {r : Res} {P : Mod → Prop}

/-- A command that may execute, whose role may issue it and that needs no plan, does what its row says. -/
theorem Executes.of_opRow {i : Instr} {op : Nat} {f : Mod → Nat → Sess → List Byte → Mod × Res} {info : OpInfo}
    (hi : exec i s = opRow s h seq op f) (hr : Ready s h seq op x c) (ho : opInfo op = some info)
    (hrole : bitAt info.roles x.roleBit = true) (hplan : info.plan = false) {m : Mod}
    (hf : f (begun s h seq) (s.m.sessKey h.toNat) x c.params = (m, r)) (hP : P m) : Executes i s h c r P := by
  refine ⟨m, ?_, hP⟩
  rw [begun] at hf
  simp only [hi, opRow, onMod, hr, ho, hrole, hplan, Bool.not_true, Bool.false_and, Bool.false_eq_true, if_false, hf]

theorem Sess.bitAt_rAll (x : Sess) : bitAt rAll x.roleBit = true := by
  unfold Sess.roleBit
  split
  case h_2 => split <;> decide
  all_goals decide

/-! ### The peer window and the safety acts (R489, R278) -/

theorem Mod.window_singleton (m : Mod) {a : Nat} (h : a < 0x800000 ∨ m.get F.TWIN_STATUS_MODE ≠ 1) : m.window [a] = .own := by
  unfold Mod.window
  dsimp only
  rw [if_pos]
  simpa using h

/-- Every word in the peer's window, the pair in Two-hand and the link up: the peer answers. -/
theorem Mod.window_peer (m : Mod) {as : List Nat} (hne : as ≠ []) (h : as.all (fun a => decide (0x800000 ≤ a)) = true)
    (hmode : m.get F.TWIN_STATUS_MODE = 1) (hup : m.peerUp = true) (hside : m.flag F.TWIN_STATUS_SIDE = false) : m.window as = .peer := by
  simp only [List.all_eq_true, decide_eq_true_eq] at h
  have hany : as.any (fun a => decide (0x800000 ≤ a)) = true := by
    obtain ⟨a, ha⟩ := List.exists_mem_of_ne_nil as hne
    exact List.any_eq_true.2 ⟨a, ha, by simpa using h a ha⟩
  have hnone : as.any (fun a => decide (a < 0x800000)) = false := by
    simpa using h
  simp [Mod.window, hany, hnone, hmode, hup, hside]

theorem Mod.jackRefused_of_ne (m : Mod) (k : Nat) {a : Nat} (v : Word) (h : a ≠ R.JACK_RESET) : m.jackRefused k a v = none := by
  simp [Mod.jackRefused, h]

/-! ### OP_REG_READ (R490) -/

/-- The addresses that OP_REG_READ names. -/
def readAddrs (ps : List Byte) : List Nat := (List.range (par ps 4 2)).map fun i => par ps 0 4 + 4 * i

theorem readAddrs_eq_cons {ps : List Byte} (h : 1 ≤ par ps 4 2) : ∃ t, readAddrs ps = par ps 0 4 :: t := by
  obtain ⟨n, hn⟩ := Nat.exists_eq_add_of_le' h
  exact ⟨_, by rw [readAddrs, hn, List.range_succ_eq_map, List.map_cons, Nat.mul_zero, Nat.add_zero]⟩

/-- COUNT and ADDR of OP_REG_READ are in range. -/
def ReadSpan (ps : List Byte) : Prop :=
  1 ≤ par ps 4 2 ∧ par ps 4 2 ≤ 256 ∧ addrBad (par ps 0 4) = false ∧ par ps 0 4 + 4 * (par ps 4 2 - 1) ≤ 0xFFFFFC

theorem ReadSpan.count {ps : List Byte} (h : ReadSpan ps) : ¬(par ps 4 2 = 0 ∨ 256 < par ps 4 2) := by
  obtain ⟨h1, h256, -, -⟩ := h
  omega

theorem ReadSpan.addr {ps : List Byte} (h : ReadSpan ps) :
    ¬(addrBad (par ps 0 4) = true ∨ 0xFFFFFC < par ps 0 4 + 4 * (par ps 4 2 - 1)) := by
  obtain ⟨-, -, haddr, htop⟩ := h
  simp only [haddr, Bool.false_eq_true, false_or]
  omega

section

variable (hr : Ready s h seq 0x0300 x c)
include hr

theorem regRead_badCount (hn : par c.params 4 2 = 0 ∨ 256 < par c.params 4 2) :
    Executes (.opRegRead h seq) s h c (.fail 2 4) fun m => Only [] [] (begun s h seq) m := by
  refine Executes.of_opRow (exec_opRegRead h seq s) hr rfl x.bitAt_rAll rfl ?_ (Only.refl _)
  dsimp only
  rw [if_pos hn]

theorem regRead_badAddr (hn : ¬(par c.params 4 2 = 0 ∨ 256 < par c.params 4 2))
    (ha : addrBad (par c.params 0 4) = true ∨ 0xFFFFFC < par c.params 0 4 + 4 * (par c.params 4 2 - 1)) :
    Executes (.opRegRead h seq) s h c (.fail 2 0) fun m => Only [] [] (begun s h seq) m := by
  refine Executes.of_opRow (exec_opRegRead h seq s) hr rfl x.bitAt_rAll rfl ?_ (Only.refl _)
  dsimp only
  rw [if_neg hn, if_pos ha]

/-- The first address that the session may not read is the one that is refused (R337). -/
theorem regRead_denied (hspan : ReadSpan c.params) (hden : s.m.mayRead x (par c.params 0 4) = false) :
    Executes (.opRegRead h seq) s h c (.fail 6 (par c.params 0 4)) fun m => Only [] [] (begun s h seq) m := by
  have hfind : (readAddrs c.params).find? (fun a => !s.m.mayRead x a) = some (par c.params 0 4) := by
    obtain ⟨t, ht⟩ := readAddrs_eq_cons hspan.1
    simp [ht, hden]
  refine Executes.of_opRow (exec_opRegRead h seq s) hr rfl x.bitAt_rAll rfl ?_ (Only.refl _)
  dsimp only
  rw [readAddrs] at hfind
  simp only [if_neg hspan.count, if_neg hspan.addr, begun_mayRead, hfind]

theorem regRead_peer (hspan : ReadSpan c.params) (hread : (readAddrs c.params).all (fun a => s.m.mayRead x a) = true)
    (hwin : s.m.window (readAddrs c.params) = .peer) :
    Executes (.opRegRead h seq) s h c (.ok (s.m.random (4 * par c.params 4 2)))
      fun m => m.freeCtr = s.m.freeCtr + 4 * par c.params 4 2 ∧ Only [.freeCtr] [] (begun s h seq) m := by
  have hfind : (readAddrs c.params).find? (fun a => !s.m.mayRead x a) = none := by simpa using hread
  refine Executes.of_opRow (exec_opRegRead h seq s) hr rfl x.bitAt_rAll rfl ?_ ⟨rfl, Only.drawnN _ _⟩
  dsimp only
  rw [readAddrs] at hfind hwin
  simp only [if_neg hspan.count, if_neg hspan.addr, begun_mayRead, hfind, begun_window, hwin, begun_random]

theorem regRead_own (hspan : ReadSpan c.params) (hread : (readAddrs c.params).all (fun a => s.m.mayRead x a) = true)
    (hwin : s.m.window (readAddrs c.params) = .own) {m : Mod} {bs : List Byte}
    (hregs : (begun s h seq).readRegs x (readAddrs c.params) = (m, bs)) (hP : P m) : Executes (.opRegRead h seq) s h c (.ok bs) P := by
  have hfind : (readAddrs c.params).find? (fun a => !s.m.mayRead x a) = none := by simpa using hread
  refine Executes.of_opRow (exec_opRegRead h seq s) hr rfl x.bitAt_rAll rfl ?_ hP
  dsimp only
  rw [readAddrs] at hfind hwin hregs
  simp only [if_neg hspan.count, if_neg hspan.addr, begun_mayRead, hfind, begun_window, hwin, hregs]

theorem regRead_plain (hspan : ReadSpan c.params) (hread : (readAddrs c.params).all (fun a => s.m.mayRead x a) = true)
    (hwin : s.m.window (readAddrs c.params) = .own) (hplain : (readAddrs c.params).all plainRead = true) :
    Executes (.opRegRead h seq) s h c (.ok ((readAddrs c.params).flatMap fun a => leBytes 4 (s.m.peek x a).toNat))
      fun m => Only [] [] (begun s h seq) m :=
  regRead_own hr hspan hread hwin (Mod.readRegs_of_plainRead _ x _ hplain) (Only.refl _)

theorem regRead_clearing (hwf : regsWf s.m.regs = true) (hn : par c.params 4 2 = 1) (ha : addrBad (par c.params 0 4) = false)
    (hread : s.m.mayRead x (par c.params 0 4) = true) (hwin : s.m.window [par c.params 0 4] = .own)
    (hl : s.m.regLive (par c.params 0 4) = true) (hrc : rcPlain (par c.params 0 4) = true) :
    let md := par c.params 0 4
    let rc := BitVec.ofNat 32 (accessAt md).rc
    Executes (.opRegRead h seq) s h c (.ok (leBytes 4 (s.m.peek x md).toNat))
      fun m => m.word md = (s.m.word md &&& ~~~rc) ||| (resetWord md &&& rc) ∧ Only [] [whole md] (begun s h seq) m := by
  have hone : readAddrs c.params = [par c.params 0 4] := by simp [readAddrs, hn]
  have hspan : ReadSpan c.params := by
    refine ⟨by omega, by omega, ha, ?_⟩
    simp only [addrBad, Bool.or_eq_false_iff, decide_eq_false_iff_not] at ha
    omega
  have hregs := (begun s h seq).readRegs_singleton x (par c.params 0 4)
  rw [Mod.readReg_of_rcPlain (m := begun s h seq) x hwf hrc hl, ← hone] at hregs
  exact regRead_own hr hspan (by simpa [hone] using hread) (by rw [hone, hwin]) hregs
    ⟨Mod.word_setWord_same (m := begun s h seq) _ _ hwf, Only.setWord _ _ _⟩

end

/-! ### OP_REG_WRITE (R491) -/

theorem regItems_of_one {ps : List Byte} (h : par ps 0 2 = 1) : regItems ps = [(par ps 4 4, BitVec.ofNat 32 (par ps 8 4))] := by
  simp [regItems, h]

section

variable (hr : Ready s h seq 0x0301 x c) (hrole : bitAt 28 x.roleBit = true)
include hr hrole

theorem regWrite_badCount (hn : par c.params 0 2 = 0 ∨ 16 < par c.params 0 2) :
    Executes (.opRegWrite h seq) s h c (.fail 2 0) fun m => Only [] [] (begun s h seq) m := by
  refine Executes.of_opRow (exec_opRegWrite h seq s) hr rfl hrole rfl ?_ (Only.refl _)
  dsimp only
  rw [if_pos hn]

variable (hn : ¬(par c.params 0 2 = 0 ∨ 16 < par c.params 0 2)) (haddr : (regItems c.params).all (fun w => !addrBad w.1) = true)
include hn haddr

theorem regWrite_peer (hwin : s.m.window ((regItems c.params).map (·.1)) = .peer) :
    Executes (.opRegWrite h seq) s h c (.ok (s.m.random (4 * par c.params 0 2)))
      fun m => m.freeCtr = s.m.freeCtr + 4 * par c.params 0 2 ∧ Only [.freeCtr] [] (begun s h seq) m := by
  have hfind : (regItems c.params).findIdx? (fun w => addrBad w.1) = none := by simpa [List.findIdx?_eq_none_iff] using haddr
  refine Executes.of_opRow (exec_opRegWrite h seq s) hr rfl hrole rfl ?_ ⟨rfl, Only.drawnN _ _⟩
  dsimp only
  rw [regItems] at hfind hwin
  simp only [if_neg hn, hfind, begun_window, hwin, begun_random]

theorem regWrite_own (hwin : s.m.window ((regItems c.params).map (·.1)) = .own)
    (hjack : (regItems c.params).all (fun w => (s.m.jackRefused (s.m.sessKey h.toNat) w.1 w.2).isNone) = true) {m : Mod} {bs : List Byte}
    (hregs : (begun s h seq).writeRegs (s.m.sessKey h.toNat) (s.m.sessKey h.toNat, seq.toNat) (regItems c.params) = (m, bs)) (hP : P m) :
    Executes (.opRegWrite h seq) s h c (.hold bs) P := by
  have hfind : (regItems c.params).findIdx? (fun w => addrBad w.1) = none := by simpa [List.findIdx?_eq_none_iff] using haddr
  have hnone : (regItems c.params).findSome? (fun w => s.m.jackRefused (s.m.sessKey h.toNat) w.1 w.2) = none := by
    simpa [List.findSome?_eq_none_iff] using hjack
  refine Executes.of_opRow (exec_opRegWrite h seq s) hr rfl hrole rfl ?_ hP
  dsimp only
  rw [regItems] at hfind hwin hnone hregs
  simp only [if_neg hn, hfind, begun_window, hwin, begun_jackRefused, hnone, hregs]

end

/-! A command that writes one word: what the write leaves, and what it shows. -/

section

variable (hr : Ready s h seq 0x0301 x c) (hrole : bitAt 28 x.roleBit = true)
include hr hrole

theorem regWrite_one (hn : par c.params 0 2 = 1) (haddr : addrBad (par c.params 4 4) = false)
    (hwin : par c.params 4 4 < 0x800000 ∨ s.m.get F.TWIN_STATUS_MODE ≠ 1) (hjack : par c.params 4 4 ≠ R.JACK_RESET) {m : Mod} {bs : List Byte}
    (hregs : (begun s h seq).writeRegs (s.m.sessKey h.toNat) (s.m.sessKey h.toNat, seq.toNat)
      [(par c.params 4 4, BitVec.ofNat 32 (par c.params 8 4))] = (m, bs)) (hP : P m) :
    Executes (.opRegWrite h seq) s h c (.hold bs) P := by
  have hone := regItems_of_one hn
  refine regWrite_own hr hrole (by omega) (by simp [hone, haddr]) ?_ ?_ (by rw [hone, hregs]) hP
  · rw [hone, List.map_cons, List.map_nil, s.m.window_singleton hwin]
  · simp [hone, s.m.jackRefused_of_ne _ _ hjack]

end

section

variable (hx : s.m.sess (s.m.sessKey h.toNat) = some x) (tag : Nat × Nat) {a : Nat} (v : Word)
include hx

theorem begun_writeRegs_plain (hwf : regsWf s.m.regs = true) (hl : s.m.regLive a = true)
    (hw : s.m.mayWrite (s.m.sessKey h.toNat) a = true) (hp : plainWrite a = true) (hq : quietRead a = true) :
    (begun s h seq).writeRegs (s.m.sessKey h.toNat) tag [(a, v)] =
      ((begun s h seq).setWord a (regAfter s.m a v), leBytes 4 (((begun s h seq).setWord a (regAfter s.m a v)).peek x a).toNat) := by
  have hwrite : (begun s h seq).writeReg (s.m.sessKey h.toNat) (some tag) a v = (begun s h seq).setWord a (regAfter s.m a v) := by
    rw [Mod.writeReg_of_plainWrite (m := begun s h seq) hx (some tag) v hl hw hp, Mod.rwWrite_eq_setWord (m := begun s h seq) a v hwf]
    rfl
  rw [Mod.writeRegs_singleton _ tag v (x := x) (by rw [hwrite]; exact hx) hq, hwrite]

theorem begun_writeRegs_blocked (hsel : isSelect a = false) (hjack : a ≠ R.JACK_RESET) (hupl : inst (R.UPL_CTRL 0) 0x200 2 a = none)
    (hq : quietRead a = true) (hb : s.m.regLive a = false ∨ s.m.mayWrite (s.m.sessKey h.toNat) a = false) :
    (begun s h seq).writeRegs (s.m.sessKey h.toNat) tag [(a, v)] = (begun s h seq, leBytes 4 (s.m.peek x a).toNat) := by
  have hwrite := Mod.writeReg_of_blocked (m := begun s h seq) hx (some tag) v hsel hjack hupl hb
  rw [Mod.writeRegs_singleton _ tag v (x := x) (by rw [hwrite]; exact hx) hq, hwrite, begun_peek]

theorem begun_writeRegs_select (hl : s.m.regLive a = true) (hsel : isSelect a = true) :
    (begun s h seq).writeRegs (s.m.sessKey h.toNat) tag [(a, v)] =
      ((begun s h seq).setSess (s.m.sessKey h.toNat) { x with sel := mapPut a (v &&& BitVec.ofNat 32 (accessAt a).rw) x.sel },
        leBytes 4 (v &&& BitVec.ofNat 32 (accessAt a).rw).toNat) := by
  have hwrite := Mod.writeReg_of_isSelect (m := begun s h seq) hx (some tag) v hl hsel
  rw [Mod.writeRegs_singleton _ tag v (by rw [hwrite]; exact Mod.sess_setSess_same ..) (quietRead_of_isSelect hsel), hwrite,
    Mod.peek_of_isSelect _ _ (by exact hl) hsel, mapGetD, mapGet_mapPut_same, Option.getD_some]

end

/-! ### OP_REG_MODIFY (R492) -/

theorem regModify_own (hr : Ready s h seq 0x0302 x c) (hrole : bitAt 28 x.roleBit = true) (haddr : addrBad (par c.params 0 4) = false)
    (hwin : s.m.window [par c.params 0 4] = .own) (hjack : par c.params 0 4 ≠ R.JACK_RESET) (hq : quietRead (par c.params 0 4) = true)
    {m : Mod} {bs : List Byte}
    (hregs : (begun s h seq).writeRegs (s.m.sessKey h.toNat) (s.m.sessKey h.toNat, seq.toNat) [(par c.params 0 4,
      modifyWord (par c.params 0 4) (s.m.peek x (par c.params 0 4)) (BitVec.ofNat 32 (par c.params 4 4)) (BitVec.ofNat 32 (par c.params 8 4)))]
        = (m, bs)) (hP : P m) :
    Executes (.opRegModify h seq) s h c (.hold (leBytes 4 (s.m.peek x (par c.params 0 4)).toNat ++ bs)) P := by
  refine Executes.of_opRow (exec_opRegModify h seq s) hr rfl hrole rfl ?_ hP
  simp only [haddr, Bool.false_eq_true, if_false, begun_window, hwin, Mod.readKeep_of_quietRead _ x hq, begun_peek,
    Mod.jackRefused_of_ne _ _ _ hjack, hregs]

end

/-- Settles O49: a read answers by `Mod.readRegs`, a write by `Mod.writeRegs`, and each register of the statement's kinds has one law for
what its reading or writing leaves. -/
theorem registerCommandsReadWriteAndModify : Obligations.RegisterCommandsReadWriteAndModify := by
  unfold Obligations.RegisterCommandsReadWriteAndModify
  intro s h seq x c ads cnt wrs adr val one alive nw self md old mnew hwf
  refine ⟨?_, ?_, ?_, ?_, ?_, ?_, ?_, ?_, ?_, ?_, ?_, ?_, ?_, ?_⟩
  case refine_1 =>
    intro hr hspan hwin hread hplain
    exact regRead_plain hr hspan hread hwin hplain
  case refine_2 =>
    intro hr hn haddr hwin hread hon hpd hrc
    obtain ⟨d, hd⟩ := Option.ne_none_iff_exists'.1 hpd
    have hl : s.m.regLive md = true := (s.m.regLive_iff md).2 ⟨d, hd, fun ⟨_, hoff, _⟩ => hoff (by simpa [hd] using hon)⟩
    exact regRead_clearing hr hwf hn haddr hread hwin hl hrc
  case refine_3 =>
    intro hr hspan hhigh hmode hup hside hread
    obtain ⟨t, ht⟩ := readAddrs_eq_cons hspan.1
    exact regRead_peer hr hspan hread (s.m.window_peer (ht ▸ List.cons_ne_nil _ _) hhigh hmode hup hside)
  case refine_4 => exact regRead_badCount
  case refine_5 =>
    intro hr h1 h256 hbad
    exact regRead_badAddr hr (by omega) hbad
  case refine_6 => exact regRead_denied
  case refine_7 =>
    intro hr hrole h1 h16 haddr hwin hjack
    exact regWrite_own hr hrole (by omega) haddr hwin hjack rfl rfl
  case refine_8 =>
    intro hr hrole ⟨hn, haddr, hwin⟩ hw hlive hp hq _
    have hl : s.m.regLive adr = true := (s.m.regLive_eq_any adr).trans hlive
    exact regWrite_one hr hrole hn haddr hwin (ne_jackReset_of_plainWrite hp)
      (begun_writeRegs_plain (sess_of_ready hr) _ _ hwf hl hw hp hq) ⟨Mod.word_setWord_same (m := begun s h seq) _ _ hwf, Only.setWord _ _ _⟩
  case refine_9 =>
    intro hr hrole ⟨hn, haddr, hwin⟩ hself hlive hsel
    have hl : s.m.regLive adr = true := (s.m.regLive_eq_any adr).trans hlive
    exact regWrite_one hr hrole hn haddr hwin (ne_jackReset_of_isSelect hsel) (begun_writeRegs_select hself _ _ hl hsel)
      ⟨Mod.sess_setSess_same .., fun k hk => Mod.sess_setSess_ne _ _ hk, Only.setSess ..⟩
  case refine_10 =>
    intro hr hrole ⟨hn, haddr, hwin⟩ hsel hjack hupl hq hblocked
    exact regWrite_one hr hrole hn haddr hwin hjack (begun_writeRegs_blocked (sess_of_ready hr) _ _ hsel hjack hupl hq
      (hblocked.imp_left (s.m.regLive_eq_any adr).trans)) (Only.refl _)
  case refine_11 => exact regWrite_badCount
  case refine_12 =>
    intro hr hrole haddr hwin _ hw hlive hp hq
    have hl : s.m.regLive md = true := (s.m.regLive_eq_any md).trans hlive
    exact regModify_own hr hrole haddr hwin (ne_jackReset_of_plainWrite hp) hq
      (begun_writeRegs_plain (sess_of_ready hr) _ _ hwf hl hw hp hq) ⟨Mod.word_setWord_same (m := begun s h seq) _ _ hwf, Only.setWord _ _ _⟩
  case refine_13 =>
    intro hr hrole haddr hwin hsel hjack hupl hq hblocked
    exact regModify_own hr hrole haddr hwin hjack hq (begun_writeRegs_blocked (sess_of_ready hr) _ _ hsel hjack hupl hq
      (hblocked.imp_left (s.m.regLive_eq_any md).trans)) (Only.refl _)
  case refine_14 =>
    intro hr hrole h1 h16 haddr hwin
    exact regWrite_peer hr hrole (by omega) haddr hwin

end Sys2Proof.Machine
end

/-! PROOFS. The family 01_module_architecture.md, the Drum: an entry of the active Drum acts at its instant (O57). -/

section

namespace Sys2Proof.Machine

/-! ## The Drum: a dropped stream write whose address TILE_RV_ADDR cannot hold -/

/-- A field reads below the power of two of its width. -/
theorem Mod.get_lt_two_pow (m : Mod) (f : Fld) : m.get f < 2 ^ f.width := Nat.mod_lt _ (Nat.two_pow_pos _)

/-- TILE_RV_ADDR has 32 bits: no record of a violation shows an address from 2^32 on (R44, R51). -/
theorem not_violated_of_le {m m' : Mod} {master access addr : Nat} (h : 2 ^ 32 ≤ addr) : ¬ Violated m m' master access addr := by
  rintro ⟨-, -, haddr, -, -⟩
  have hlt : m'.get F.TILE_RV_ADDR_ADDR < 2 ^ 32 := m'.get_lt_two_pow _
  omega

/-- A tile whose bus address 256 × 2^24 is the first that 32 bits do not hold. -/
def farTile : Nat := 2 ^ 24

/-- RUN with FCLK, a plan that lists the far tile, the peer's copy of it waiting, a MIRROR entry (receive, list 0) at instant 0, and no region of bus
master 11. -/
def farTileStreamed : State :=
  { m := { Mod.reset with
      regs := fldSet [] F.EXEC_STATE_STATE xRun
      sw := Mod.reset.sw.set swPllF { ph := .on }
      clk := { run := true }
      plan := { active := some { tiles := [{ tile := farTile, kind := .point }] }, drumA := [BitVec.ofNat 64 (dkMirror * 2 ^ 34 + 1 * 2 ^ 38)] }
      twin := { stream := [(farTile, [])] } }
    pending := [] }

theorem farTileStreamed_fires : drumFires farTileStreamed.m dkMirror (1 : Fin 2).val (0 : BitVec 16).toNat 0 = true := by decide +kernel

theorem farTileStreamed_regionOk : farTileStreamed.m.regionOk 11 2 (farTile * 256) = false := by decide +kernel

/-- Refutes O57: a MIRROR entry drops the copy of a tile that no region permits (R44), and `Violated` asks TILE_RV_ADDR, which has 32 bits, to read
256 times the tile's number; for the tile 2^24 of `farTileStreamed` that is 2^32. -/
theorem not_drumEntriesActAtTheirInstants : ¬ Obligations.DrumEntriesActAtTheirInstants := by
  unfold Obligations.DrumEntriesActAtTheirInstants
  rintro ⟨-, -, windows⟩
  obtain ⟨-, -, -, -, -, dropped, -⟩ :=
    windows farTileStreamed 0 farTile 0 { idx := 0, tile := 0, slot := 0, ty := 0, cls := 0 } 1 0 { tile := farTile, kind := .point } [] [] 0
      false false 0 0 [] [] {} (by decide +kernel)
  obtain ⟨t, -, -, -, -, violated, -⟩ :=
    dropped farTileStreamed_fires (by decide +kernel) rfl rfl (by decide +kernel) farTileStreamed_regionOk
  exact not_violated_of_le (by decide) violated

end Sys2Proof.Machine
end

/-! PROOFS. The family 01_module_architecture.md, the point commands OP_PT_READ to OP_PT_FORCES (O46). -/

section

namespace Sys2Proof.Machine

/-! ### Little-endian numbers and point records as bytes (R22) -/

theorem leBytes_length (n v : Nat) : (leBytes n v).length = n := by
  induction n generalizing v with
  | zero => rfl
  | succ n ih => simp [leBytes, ih]

theorem ofLe_leBytes (n v : Nat) : ofLe (leBytes n v) = v % 256 ^ n := by
  induction n generalizing v with
  | zero => simp [leBytes, ofLe, Nat.mod_one]
  | succ n ih =>
    rw [leBytes, ofLe, ih, BitVec.toNat_ofNat, Nat.shiftLeft_eq, Nat.shiftRight_eq_div_pow, Nat.mul_comm _ (2 ^ 8), ← Nat.mod_mul,
      Nat.pow_succ' (m := 256)]

theorem ofLe_leBytes_of_lt {n v : Nat} (h : v < 256 ^ n) : ofLe (leBytes n v) = v := by rw [ofLe_leBytes, Nat.mod_eq_of_lt h]

theorem leBytes_ofLe (bs : List Byte) : leBytes bs.length (ofLe bs) = bs := by
  induction bs with
  | nil => rfl
  | cons b bs ih =>
    have hlow : BitVec.ofNat 8 (ofLe (b :: bs)) = b := by
      apply BitVec.eq_of_toNat_eq
      simp only [ofLe, BitVec.toNat_ofNat, Nat.shiftLeft_eq]
      omega
    have hhigh : ofLe (b :: bs) >>> 8 = ofLe bs := by
      simp only [ofLe, Nat.shiftLeft_eq, Nat.shiftRight_eq_div_pow]
      omega
    rw [List.length_cons, leBytes, hlow, hhigh, ih]

theorem ofLe_lt (bs : List Byte) : ofLe bs < 256 ^ bs.length := by
  rw [← leBytes_ofLe bs, ofLe_leBytes, leBytes_length]
  exact Nat.mod_lt _ (Nat.pow_pos (by decide))

/-- The numbers of a record fit their fields of 2 bytes (R22). -/
def PRec.Fits (r : PRec) : Prop := r.age < 65536 ∧ r.tf < 65536 ∧ r.chg < 65536

theorem ofLe_two_lt (bs : List Byte) : ofLe (bs.take 2) < 65536 := by
  have hlen : (bs.take 2).length ≤ 2 := by simp
  exact (ofLe_lt _).trans_le (Nat.pow_le_pow_right (by decide) hlen)

theorem decodeRec_fits (bs : List Byte) : (decodeRec bs).Fits := ⟨ofLe_two_lt _, ofLe_two_lt _, ofLe_two_lt _⟩

theorem PRec.Fits.fresh {r : PRec} (h : r.Fits) (v : Long) (q : Tag) : (r.fresh v q).Fits := by
  obtain ⟨-, htf, hchg⟩ := h
  refine ⟨Nat.zero_lt_succ _, htf, ?_⟩
  simp only [PRec.fresh]
  split <;> omega

theorem PRec.bytes_length (r : PRec) : r.bytes.length = 16 := by simp [PRec.bytes, leBytes_length]

theorem decodeRec_bytes {r : PRec} (h : r.Fits) : decodeRec r.bytes = r := by
  obtain ⟨hage, htf, hchg⟩ := h
  calc decodeRec r.bytes
      = { val := BitVec.ofNat 64 (ofLe (leBytes 8 r.val.toNat)), qual := BitVec.ofNat 16 (ofLe (leBytes 2 r.qual.toNat)),
          age := ofLe (leBytes 2 r.age), tf := ofLe (leBytes 2 r.tf), chg := ofLe (leBytes 2 r.chg) } := rfl
    _ = r := by
        rw [ofLe_leBytes_of_lt r.val.isLt, ofLe_leBytes_of_lt r.qual.isLt, ofLe_leBytes_of_lt hage, ofLe_leBytes_of_lt htf,
          ofLe_leBytes_of_lt hchg, BitVec.ofNat_toNat, BitVec.ofNat_toNat, BitVec.setWidth_eq, BitVec.setWidth_eq]

theorem bytes_decodeRec {bs : List Byte} (h : bs.length = 16) : (decodeRec bs).bytes = bs := by
  have field : ∀ k n, k + n ≤ 16 → leBytes n (ofLe ((bs.drop k).take n)) = (bs.drop k).take n := by
    intro k n hk
    have hbytes := leBytes_ofLe ((bs.drop k).take n)
    rwa [List.length_take, List.length_drop, h, Nat.min_eq_left (by omega)] at hbytes
  have hval : ofLe (bs.take 8) % 2 ^ 64 = ofLe (bs.take 8) :=
    Nat.mod_eq_of_lt ((ofLe_lt _).trans_le (Nat.pow_le_pow_right (by decide) (List.length_take_le 8 bs)))
  have hqual : ofLe ((bs.drop 8).take 2) % 2 ^ 16 = ofLe ((bs.drop 8).take 2) := Nat.mod_eq_of_lt (ofLe_two_lt _)
  have hlast : (bs.drop 14).take 2 = bs.drop 14 := List.take_of_length_le (by simp [h])
  have join : ∀ k, (bs.drop k).take 2 ++ bs.drop (k + 2) = bs.drop k := fun k => by rw [← List.drop_drop, List.take_append_drop]
  calc (decodeRec bs).bytes
      = leBytes 8 (ofLe ((bs.drop 0).take 8)) ++ leBytes 2 (ofLe ((bs.drop 8).take 2)) ++ leBytes 2 (ofLe ((bs.drop 10).take 2))
          ++ leBytes 2 (ofLe ((bs.drop 12).take 2)) ++ leBytes 2 (ofLe ((bs.drop 14).take 2)) := by
        simp only [decodeRec, PRec.bytes, BitVec.toNat_ofNat, hval, hqual, List.drop_zero]
    _ = bs.take 8 ++ ((bs.drop 8).take 2 ++ ((bs.drop 10).take 2 ++ ((bs.drop 12).take 2 ++ bs.drop 14))) := by
        rw [field 0 8 (by decide), field 8 2 (by decide), field 10 2 (by decide), field 12 2 (by decide), field 14 2 (by decide), hlast]
        simp only [List.append_assoc, List.drop_zero]
    _ = bs := by rw [join 12, join 10, join 8, List.take_append_drop]


/-! ### Byte memory as lists of bytes -/

theorem memRead_memWrite_self (d : Byte) (m : List Host.Cell) (a : Nat) (b : Byte) : memRead d (memWrite d m a b) a = b := by
  unfold memRead memWrite mapGetD
  split
  case isTrue hb => rw [mapGet_mapDel_same, Option.getD_none, hb]
  case isFalse => rw [mapGet_mapPut_same, Option.getD_some]

theorem memReadN_memWriteN (d : Byte) (m : List Host.Cell) (a : Nat) (bs : List Byte) :
    memReadN d (memWriteN d m a bs) a bs.length = bs := by
  induction bs generalizing m a with
  | nil => rfl
  | cons b bs ih =>
    rw [memWriteN, List.length_cons, memReadN, ih, memRead_memWriteN_out d bs _ (Or.inl (Nat.lt_succ_self a)), memRead_memWrite_self]

theorem memReadN_congr {d : Byte} {m m' : List Host.Cell} {a n : Nat} (h : ∀ j, a ≤ j → j < a + n → memRead d m' j = memRead d m j) :
    memReadN d m' a n = memReadN d m a n := by
  induction n generalizing a with
  | zero => rfl
  | succ n ih => rw [memReadN, memReadN, h a (by omega) (by omega), ih fun j h1 h2 => h j (by omega) (by omega)]

theorem memRead_eq_of_memReadN_eq {d : Byte} {m m' : List Host.Cell} {a n j : Nat} (h : memReadN d m' a n = memReadN d m a n) (ha : a ≤ j)
    (hn : j < a + n) : memRead d m' j = memRead d m j := by
  induction n generalizing a with
  | zero => omega
  | succ n ih =>
    obtain ⟨hhead, htail⟩ := List.cons.inj h
    obtain rfl | hne := Nat.eq_or_lt_of_le ha
    · exact hhead
    · exact ih htail hne (by omega)

theorem memReadN_add (d : Byte) (m : List Host.Cell) (a k n : Nat) : memReadN d m a (k + n) = memReadN d m a k ++ memReadN d m (a + k) n := by
  induction k generalizing a with
  | zero => rw [Nat.zero_add, memReadN, Nat.add_zero, List.nil_append]
  | succ k ih => rw [Nat.succ_add, memReadN, memReadN, ih, Nat.succ_add_eq_add_succ, List.cons_append]

theorem memReadN_take (d : Byte) (m : List Host.Cell) (a : Nat) {k n : Nat} (h : k ≤ n) : (memReadN d m a n).take k = memReadN d m a k := by
  obtain ⟨i, rfl⟩ := Nat.exists_eq_add_of_le h
  rw [memReadN_add, List.take_left' (memReadN_length ..)]

theorem memReadN_drop (d : Byte) (m : List Host.Cell) (a : Nat) {k n : Nat} (h : k ≤ n) :
    (memReadN d m a n).drop k = memReadN d m (a + k) (n - k) := by
  obtain ⟨i, rfl⟩ := Nat.exists_eq_add_of_le h
  rw [memReadN_add, List.drop_left' (memReadN_length ..), Nat.add_sub_cancel_left]

/-! ### Bytes put into a list -/

section

variable {l bs : List Byte} {off : Nat} (h : off + bs.length ≤ l.length)
include h

theorem putBytes_length : (putBytes l off bs).length = l.length := by
  simp only [putBytes, List.length_append, List.length_take, List.length_drop]
  omega

theorem putBytes_take : (putBytes l off bs).take off = l.take off := by
  rw [putBytes, List.append_assoc, List.take_left' (by rw [List.length_take]; omega)]

theorem putBytes_drop_take : ((putBytes l off bs).drop off).take bs.length = bs := by
  rw [putBytes, List.append_assoc, List.drop_left' (by rw [List.length_take]; omega), List.take_left' rfl]

theorem putBytes_drop : (putBytes l off bs).drop (off + bs.length) = l.drop (off + bs.length) := by
  rw [putBytes, List.drop_left' (by rw [List.length_append, List.length_take]; omega)]

end

/-! ### One record written into its tile (R31, R34) -/

/-- The tile of `e` written back whole with the record `r` in its slot. -/
def Mod.putRec (m : Mod) (e : PMapEnt) (r : PRec) : Mod := m.putTile e.tile (putBytes (m.tileBytes e.tile) (e.slot * 16) r.bytes)

theorem Mod.putRec_cells (m : Mod) (e : PMapEnt) (r : PRec) :
    (m.putRec e r).mem.cells = memWriteN 0 m.mem.cells (e.tile * 256) (putBytes (m.tileBytes e.tile) (e.slot * 16) r.bytes) := rfl

/-- The first address of a slot's record. -/
def PMapEnt.addr (e : PMapEnt) : Nat := e.tile * 256 + e.slot * 16

section

variable (m : Mod) {e : PMapEnt} (hslot : e.slot < 16) (r : PRec)
include hslot

theorem slot_fits : e.slot * 16 + r.bytes.length ≤ (m.tileBytes e.tile).length := by
  rw [PRec.bytes_length, Mod.tileBytes, memReadN_length]
  omega

/-- The record of a loaded tile's slot is the one that stands there. -/
theorem Mod.tileBytes_slot : ((m.tileBytes e.tile).drop (e.slot * 16)).take 16 = memReadN 0 m.mem.cells e.addr 16 := by
  rw [Mod.tileBytes, memReadN_drop _ _ _ (by omega), memReadN_take _ _ _ (by omega), PMapEnt.addr]

theorem Mod.tileBytes_putRec : (m.putRec e r).tileBytes e.tile = putBytes (m.tileBytes e.tile) (e.slot * 16) r.bytes := by
  have hlen := putBytes_length (slot_fits m hslot r)
  rw [show (m.tileBytes e.tile).length = 256 from memReadN_length ..] at hlen
  calc (m.putRec e r).tileBytes e.tile
      = memReadN 0 (memWriteN 0 m.mem.cells (e.tile * 256) (putBytes (m.tileBytes e.tile) (e.slot * 16) r.bytes)) (e.tile * 256)
          (putBytes (m.tileBytes e.tile) (e.slot * 16) r.bytes).length := by rw [hlen]; rfl
    _ = putBytes (m.tileBytes e.tile) (e.slot * 16) r.bytes := memReadN_memWriteN ..

theorem Mod.prec_putRec (h : r.Fits) : (m.putRec e r).prec e = r := by
  have hslice := putBytes_drop_take (slot_fits m hslot r)
  rw [PRec.bytes_length, ← m.tileBytes_putRec hslot r, Mod.tileBytes_slot _ hslot] at hslice
  rw [Mod.prec, ← PMapEnt.addr, hslice, decodeRec_bytes h]

/-- Every byte outside the record reads as before. -/
theorem Mod.memRead_putRec {a : Nat} (ha : a < e.addr ∨ e.addr + 16 ≤ a) :
    memRead 0 (m.putRec e r).mem.cells a = memRead 0 m.mem.cells a := by
  have hend : e.slot * 16 + 16 ≤ 256 := by omega
  have place : (a < e.tile * 256 ∨ e.tile * 256 + 256 ≤ a) ∨ (e.tile * 256 ≤ a ∧ a < e.tile * 256 + e.slot * 16) ∨
      (e.tile * 256 + (e.slot * 16 + 16) ≤ a ∧ a < e.tile * 256 + (e.slot * 16 + 16) + (256 - (e.slot * 16 + 16))) := by
    unfold PMapEnt.addr at ha
    omega
  have hfits := slot_fits m hslot r
  have hbytes := m.tileBytes_putRec hslot r
  obtain hout | ⟨hlow, hhigh⟩ | ⟨hlow, hhigh⟩ := place
  · have hlen : (putBytes (m.tileBytes e.tile) (e.slot * 16) r.bytes).length = 256 := (putBytes_length hfits).trans (memReadN_length ..)
    rw [Mod.putRec_cells]
    exact memRead_memWriteN_out _ _ _ (by rw [hlen]; exact hout)
  · have htake := putBytes_take hfits
    have hle : e.slot * 16 ≤ 256 := Nat.le_of_add_right_le hend
    rw [← hbytes, Mod.tileBytes, Mod.tileBytes, memReadN_take _ _ _ hle, memReadN_take _ _ _ hle] at htake
    exact memRead_eq_of_memReadN_eq htake hlow hhigh
  · have hdrop := putBytes_drop hfits
    rw [← hbytes, PRec.bytes_length, Mod.tileBytes, Mod.tileBytes, memReadN_drop _ _ _ hend, memReadN_drop _ _ _ hend] at hdrop
    exact memRead_eq_of_memReadN_eq hdrop hlow hhigh

end

/-! ### Tiles that pass their check (R34 to R37, R43) -/

/-- Master 9, the management core, may read the tile, and a load finds no fault and no error of its directory entry. -/
structure SoundTile (m : Mod) (t : Nat) : Prop where
  readable : m.regionOk 9 1 (t * 256) = true
  healthy : (m.dirEnt t).faulted = false
  uncaused : m.loadCause t = none
  exact : (m.dirEnt t).single = false

/-- Both modules hold the same tiles, in the same places and regions. -/
structure SameTiles (m m' : Mod) : Prop where
  regs : m'.regs = m.regs
  cells : m'.mem.cells = m.mem.cells
  dir : m'.mem.dir = m.mem.dir
  pmap : m'.mem.pmap = m.mem.pmap
  writes : m'.mem.writes = m.mem.writes
  bankTimes : m'.mem.bankTimes = m.mem.bankTimes

theorem SameTiles.trans {m m' m'' : Mod} (h : SameTiles m m') (h' : SameTiles m' m'') : SameTiles m m'' :=
  ⟨h'.regs.trans h.regs, h'.cells.trans h.cells, h'.dir.trans h.dir, h'.pmap.trans h.pmap, h'.writes.trans h.writes,
    h'.bankTimes.trans h.bankTimes⟩

theorem Mod.get_congr {m m' : Mod} (h : m'.regs = m.regs) (f : Fld) : m'.get f = m.get f := by rw [Mod.get, Mod.get, h]

theorem Mod.regionOk_congr {m m' : Mod} (h : m'.regs = m.regs) (master access a : Nat) :
    m'.regionOk master access a = m.regionOk master access a := by
  simp only [Mod.regionOk, Mod.flag, Mod.get_congr h]

theorem Mod.homed_congr {m m' : Mod} (h : m'.regs = m.regs) (i : Nat) : m'.homed i = m.homed i := by
  simp only [Mod.homed, Mod.flag, Mod.get_congr h]

/-- A tile that is not faulted passes its check where its directory entry is whole and its CRC matches. -/
theorem Mod.loadCause_eq_none_iff {m : Mod} {t : Nat} (h : (m.dirEnt t).faulted = false) :
    m.loadCause t = none ↔
      (m.dirEnt t).dbl = false ∧ (m.dirEnt t).kind ≠ .free ∧ tileCrc t (m.tileBytes t) = (m.dirEnt t).crc := by
  unfold Mod.loadCause
  cases hdbl : (m.dirEnt t).dbl
  case true => simp [h, hdbl]
  case false => by_cases hk : (m.dirEnt t).kind = .free <;> simp [h, hdbl, hk]

section

variable {m : Mod} {t : Nat} (h : SoundTile m t)
include h

theorem SoundTile.dirFix : m.dirFix t = m := by rw [Mod.dirFix, h.exact, Mod.when, if_neg Bool.false_ne_true]

theorem SoundTile.dirUse (master : Nat) : m.dirUse t master = m := by
  obtain ⟨hdbl, -, -⟩ := (Mod.loadCause_eq_none_iff h.healthy).1 h.uncaused
  simp only [Mod.dirUse, h.dirFix, hdbl, Bool.false_and, Mod.when, Bool.false_eq_true, if_false]

theorem SoundTile.masterLoad : m.masterLoad 9 t = (m, some (.data (m.tileBytes t))) := by
  simp only [Mod.masterLoad, h.readable, Mod.loadEffect, h.dirFix, h.uncaused, Mod.loadData, h.healthy, Option.isSome_none, Bool.or_self,
    Bool.false_eq_true, if_true, if_false]

theorem SoundTile.masterStore (hw : m.regionOk 9 2 (t * 256) = true) (bs : List Byte) : m.masterStore 9 t bs = (m.putTile t bs, true) := by
  simp only [Mod.masterStore, hw, Mod.writeBack, h.dirUse, h.healthy, Bool.false_eq_true, if_true, if_false]

/-- Soundness is a matter of the registers, the tiles' bytes and their directory. -/
theorem SoundTile.congr {m' : Mod} (hs : SameTiles m m') : SoundTile m' t := by
  have hent : m'.dirEnt t = m.dirEnt t := by rw [Mod.dirEnt, Mod.dirEnt, hs.dir]
  have hbytes : m'.tileBytes t = m.tileBytes t := by rw [Mod.tileBytes, Mod.tileBytes, hs.cells]
  refine ⟨?_, hent ▸ h.healthy, ?_, hent ▸ h.exact⟩
  · rw [Mod.regionOk_congr hs.regs, h.readable]
  · rw [← h.uncaused]
    simp only [Mod.loadCause, hent, hbytes]

end

theorem Mod.dirEnt_putTile_same (m : Mod) (t : Nat) (bs : List Byte) : (m.putTile t bs).dirEnt t = { m.dirEnt t with crc := tileCrc t bs } := by
  rw [Mod.dirEnt, mapGetD, Mod.putTile, mapGet_mapPut_same, Option.getD_some]

theorem Mod.dirEnt_putTile_ne (m : Mod) {t u : Nat} (h : u ≠ t) (bs : List Byte) : (m.putTile t bs).dirEnt u = m.dirEnt u := by
  rw [Mod.dirEnt, mapGetD, Mod.putTile, mapGet_mapPut_ne h]
  rfl

/-- A record written leaves every sound tile sound: its own takes the new CRC, the others keep their bytes. -/
theorem SoundTile.putRec {m : Mod} {t : Nat} (h : SoundTile m t) {e : PMapEnt} (hslot : e.slot < 16) (r : PRec) :
    SoundTile (m.putRec e r) t := by
  obtain ⟨hdbl, hkind, hcrc⟩ := (Mod.loadCause_eq_none_iff h.healthy).1 h.uncaused
  by_cases ht : t = e.tile
  · subst ht
    have hent := m.dirEnt_putTile_same e.tile (putBytes (m.tileBytes e.tile) (e.slot * 16) r.bytes)
    rw [← Mod.putRec] at hent
    have hhealthy : ((m.putRec e r).dirEnt e.tile).faulted = false := by rw [hent]; exact h.healthy
    refine ⟨h.readable, hhealthy, (Mod.loadCause_eq_none_iff hhealthy).2 ?_, by rw [hent]; exact h.exact⟩
    rw [hent, m.tileBytes_putRec hslot r]
    exact ⟨hdbl, hkind, rfl⟩
  · have hent : (m.putRec e r).dirEnt t = m.dirEnt t := m.dirEnt_putTile_ne ht _
    have hbytes : (m.putRec e r).tileBytes t = m.tileBytes t :=
      memReadN_congr fun j h1 h2 => m.memRead_putRec hslot r (by unfold PMapEnt.addr; omega)
    have hhealthy : ((m.putRec e r).dirEnt t).faulted = false := by rw [hent]; exact h.healthy
    refine ⟨h.readable, hhealthy, (Mod.loadCause_eq_none_iff hhealthy).2 ?_, by rw [hent]; exact h.exact⟩
    rw [hent, hbytes]
    exact ⟨hdbl, hkind, hcrc⟩

/-! ### Points in sound tiles (R22, R50) -/

/-- The point map places point `i` at `e`, a slot of a sound tile. -/
structure StandsAt (m : Mod) (i : Nat) (e : PMapEnt) : Prop where
  ent : mapGet i m.mem.pmap = some e
  slot : e.slot < 16
  tile : SoundTile m e.tile

theorem soundPt_iff {m : Mod} {w : Bool} {i : Nat} : soundPt m w i = true ↔
    m.homed i = true ∧ ∃ e, StandsAt m i e ∧ (w = true → m.regionOk 9 2 (e.tile * 256) = true ∧ isForced (m.prec e).qual = false) := by
  simp only [soundPt, Bool.and_eq_true, Option.any_eq_true, decide_eq_true_eq, Bool.or_eq_true, Bool.not_eq_true',
    Option.isNone_iff_eq_none]
  constructor
  · rintro ⟨hhome, e, hent, ⟨⟨⟨⟨⟨hread, hwrite⟩, hhealthy⟩, hcause⟩, hexact⟩, hslot⟩, hforced⟩
    refine ⟨hhome, e, ⟨hent, hslot, hread, hhealthy, hcause, hexact⟩, ?_⟩
    rintro rfl
    exact ⟨hwrite.resolve_left (by decide), hforced.resolve_left (by decide)⟩
  · rintro ⟨hhome, e, ⟨hent, hslot, hread, hhealthy, hcause, hexact⟩, hwrite⟩
    refine ⟨hhome, e, hent, ⟨⟨⟨⟨⟨hread, ?_⟩, hhealthy⟩, hcause⟩, hexact⟩, hslot⟩, ?_⟩
    · cases w
      · exact Or.inl rfl
      · exact Or.inr (hwrite rfl).1
    · cases w
      · exact Or.inl rfl
      · exact Or.inr (hwrite rfl).2

section

variable {m : Mod} {i : Nat} {e : PMapEnt} (h : StandsAt m i e)
include h

theorem StandsAt.ptAddr : ptAddr m i = e.addr := by rw [Machine.ptAddr, h.ent]; rfl

theorem StandsAt.ptRec : ptRec m i = m.prec e := by rw [Machine.ptRec, ptBytes, h.ptAddr]; rfl

/-- The tile's bus address, by the record's first address. -/
theorem StandsAt.tile_addr : Machine.ptAddr m i / 256 * 256 = e.tile * 256 := by
  have hslot := h.slot
  rw [h.ptAddr, PMapEnt.addr]
  omega

theorem StandsAt.pointLoad : m.pointLoad 9 i = (m, true, some (Machine.ptRec m i)) := by
  simp only [Mod.pointLoad, h.ent, h.tile.masterLoad, recIn, mapGet, if_true, Option.bind_some, Load.bytes?, Option.map_some]
  rw [m.tileBytes_slot h.slot, h.ptRec]
  rfl

end

/-! ### Reading points (R349) -/

theorem soundPt_homed {m : Mod} {w : Bool} {i : Nat} (h : soundPt m w i = true) : m.homed i = true := (soundPt_iff.1 h).1

theorem pointLoad_of_soundPt {m : Mod} {w : Bool} {i : Nat} (h : soundPt m w i = true) : m.pointLoad 9 i = (m, true, some (ptRec m i)) := by
  obtain ⟨-, e, hat, -⟩ := soundPt_iff.1 h
  exact hat.pointLoad

theorem ptRec_bytes (m : Mod) (i : Nat) : (ptRec m i).bytes = ptBytes m i := bytes_decodeRec (memReadN_length ..)

theorem Mod.readPts_of_soundPt {m : Mod} {is : List Nat} (h : ∀ i ∈ is, soundPt m false i = true) :
    m.readPts is = (m, is.flatMap (ptBytes m)) := by
  induction is with
  | nil => rfl
  | cons i is ih =>
    obtain ⟨hi, his⟩ := List.forall_mem_cons.1 h
    simp only [Mod.readPts, soundPt_homed hi, pointLoad_of_soundPt hi, ih his, ptRec_bytes, if_true, List.flatMap_cons]

theorem findIdx?_congr {α : Type} {p q : α → Bool} {l : List α} (h : ∀ a ∈ l, p a = q a) : l.findIdx? p = l.findIdx? q := by
  induction l with
  | nil => rfl
  | cons a l ih =>
    obtain ⟨ha, hl⟩ := List.forall_mem_cons.1 h
    rw [List.findIdx?_cons, List.findIdx?_cons, ha, ih hl]

/-- The gate passes where the session's map has every item and none is the peer's. -/
theorem Mod.ptGate_eq_none {m : Mod} {may : Nat → Bool} {is : List Nat} (h : ∀ i ∈ is, may i = true ∧ m.homed i = true) :
    m.ptGate may is = none := by
  have hfind : is.findIdx? (fun i => !may i || (!m.homed i && m.flag F.TWIN_STATUS_SIDE)) = none :=
    List.findIdx?_eq_none_iff.2 fun i hi => by simp [h i hi]
  have hall : is.all (fun i => m.homed i || m.peerUp) = true := List.all_eq_true.2 fun i hi => by simp [h i hi]
  simp only [Mod.ptGate, hfind, hall, if_true]

/-- Of points that are all the module's own the first outside the session's map is refused. -/
theorem Mod.ptGate_denied {m : Mod} {may : Nat → Bool} {is : List Nat} {j : Nat} (hhome : ∀ i ∈ is, m.homed i = true)
    (hj : is.findIdx? (fun i => !may i) = some j) : m.ptGate may is = some (.fail 0x0006 j) := by
  have hfind : is.findIdx? (fun i => !may i || (!m.homed i && m.flag F.TWIN_STATUS_SIDE)) = some j :=
    (findIdx?_congr fun i hi => by simp [hhome i hi]).trans hj
  simp only [Mod.ptGate, hfind]

theorem Mod.ptStopped_eq_none {m : Mod} {w : Bool} {is : List Nat} (h : ∀ i ∈ is, soundPt m false i = true)
    (hw : w = true → ∀ i ∈ is, m.regionOk 9 2 (ptAddr m i / 256 * 256) = true) : m.ptStopped w is = none := by
  refine List.findSome?_eq_none_iff.2 fun i hi => ?_
  obtain ⟨hhome, e, hat, -⟩ := soundPt_iff.1 (h i hi)
  have hwrite : (w && !m.regionOk 9 2 (e.tile * 256)) = false := by
    cases w
    · rfl
    · rw [← hat.tile_addr, hw rfl i hi]; rfl
  simp only [hat.ent, hhome, hat.tile.readable, hwrite, Bool.not_true, Bool.false_eq_true, if_false]

theorem Mod.ptRead_of_soundPt {m : Mod} {x : Sess} {is : List Nat} (h : ∀ i ∈ is, m.mayReadPt x i = true ∧ soundPt m false i = true) :
    m.ptRead x is = (m, .ok (is.flatMap (ptBytes m))) := by
  have hsound : ∀ i ∈ is, soundPt m false i = true := fun i hi => (h i hi).2
  have hgate : m.ptGate (m.mayReadPt x) is = none := Mod.ptGate_eq_none fun i hi => ⟨(h i hi).1, soundPt_homed (hsound i hi)⟩
  have hstop : m.ptStopped false is = none := Mod.ptStopped_eq_none hsound nofun
  simp only [Mod.ptRead, hgate, hstop, Mod.readPts_of_soundPt hsound]

theorem Mod.ptRead_denied {m : Mod} {x : Sess} {is : List Nat} {j : Nat} (hhome : ∀ i ∈ is, m.homed i = true)
    (hj : is.findIdx? (fun i => !m.mayReadPt x i) = some j) : m.ptRead x is = (m, .fail 0x0006 j) := by
  rw [Mod.ptRead, Mod.ptGate_denied hhome hj]

/-! ### Writing a point's record (R11, R345, R346) -/

/-- Master 9 may store the record of point `i`, which stands in a sound tile. -/
def Storable (m : Mod) (i : Nat) : Prop := soundPt m false i = true ∧ m.regionOk 9 2 (ptAddr m i / 256 * 256) = true

theorem Mod.ptStopped_of_storable {m : Mod} {is : List Nat} (h : ∀ i ∈ is, Storable m i) (w : Bool) : m.ptStopped w is = none :=
  Mod.ptStopped_eq_none (fun i hi => (h i hi).1) fun _ i hi => (h i hi).2

theorem storable_of_soundPt {m : Mod} {i : Nat} (h : soundPt m true i = true) : Storable m i ∧ isForced (ptRec m i).qual = false := by
  obtain ⟨hhome, e, hat, hwrite⟩ := soundPt_iff.1 h
  obtain ⟨hregion, hforced⟩ := hwrite rfl
  refine ⟨⟨soundPt_iff.2 ⟨hhome, e, hat, nofun⟩, ?_⟩, ?_⟩
  · rw [hat.tile_addr, hregion]
  · rw [hat.ptRec, hforced]

theorem Storable.exists_standsAt {m : Mod} {i : Nat} (h : Storable m i) :
    m.homed i = true ∧ ∃ e, StandsAt m i e ∧ m.regionOk 9 2 (e.tile * 256) = true := by
  obtain ⟨hsound, hregion⟩ := h
  obtain ⟨hhome, e, hat, -⟩ := soundPt_iff.1 hsound
  rw [hat.tile_addr] at hregion
  exact ⟨hhome, e, hat, hregion⟩

/-- From `m` to `m'` no byte of tile memory changed but in the records of the points `is`, and what stood in a sound tile still does. -/
structure Rewrites (m m' : Mod) (is : List Nat) : Prop where
  records : OnlyRecords m m' is
  regs : m'.regs = m.regs
  tiles : ∀ t, SoundTile m t → SoundTile m' t

theorem ptAddr_congr {m m' : Mod} (h : m'.mem.pmap = m.mem.pmap) (i : Nat) : ptAddr m' i = ptAddr m i := by rw [ptAddr, ptAddr, h]

/-- Records stand at multiples of their 16 bytes. -/
theorem ptAddr_dvd (m : Mod) (i : Nat) : 16 ∣ ptAddr m i := by
  unfold ptAddr
  cases mapGet i m.mem.pmap
  case none => exact Nat.dvd_zero 16
  case some e => simp only [Option.map_some, Option.getD_some]; omega

theorem Rewrites.refl (m : Mod) : Rewrites m m [] := ⟨⟨fun _ _ => rfl, rfl, rfl, rfl⟩, rfl, fun _ => id⟩

theorem Rewrites.trans {m m' m'' : Mod} {is js : List Nat} (h : Rewrites m m' is) (h' : Rewrites m' m'' js) : Rewrites m m'' (is ++ js) := by
  obtain ⟨⟨hcells, hpmap, hwrites, htimes⟩, hregs, htiles⟩ := h
  obtain ⟨⟨hcells', hpmap', hwrites', htimes'⟩, hregs', htiles'⟩ := h'
  refine ⟨⟨fun a ha => ?_, hpmap'.trans hpmap, hwrites'.trans hwrites, htimes'.trans htimes⟩, hregs'.trans hregs,
    fun t ht => htiles' t (htiles t ht)⟩
  rw [hcells' a fun i hi => ptAddr_congr hpmap i ▸ ha i (List.mem_append_right _ hi), hcells a fun i hi => ha i (List.mem_append_left _ hi)]

section

variable {m m' : Mod} {is : List Nat} (h : Rewrites m m' is)
include h

theorem Rewrites.ptAddr (i : Nat) : ptAddr m' i = ptAddr m i := ptAddr_congr h.records.2.1 i

theorem Rewrites.storable {i : Nat} (hi : Storable m i) : Storable m' i := by
  obtain ⟨hhome, e, ⟨hent, hslot, htile⟩, -⟩ := hi.exists_standsAt
  refine ⟨soundPt_iff.2 ⟨(Mod.homed_congr h.regs i).trans hhome, e, ⟨?_, hslot, h.tiles _ htile⟩, nofun⟩, ?_⟩
  · rw [h.records.2.1, hent]
  · rw [h.ptAddr, Mod.regionOk_congr h.regs, hi.2]

/-- A record at another address keeps its bytes. -/
theorem Rewrites.ptRec_eq {i : Nat} (hne : ∀ k ∈ is, Machine.ptAddr m i ≠ Machine.ptAddr m k) : ptRec m' i = ptRec m i := by
  have hbytes : ptBytes m' i = ptBytes m i := by
    rw [ptBytes, ptBytes, h.ptAddr]
    refine memReadN_congr fun a h1 h2 => h.records.1 a fun k hk => ?_
    have hi16 := ptAddr_dvd m i
    have hk16 := ptAddr_dvd m k
    have hik := hne k hk
    omega
  rw [ptRec, ptRec, hbytes]

end

section

variable {m : Mod} {i : Nat} {e : PMapEnt} (h : StandsAt m i e) {m₀ : Mod} (hs : SameTiles m m₀)
include h hs

theorem StandsAt.congr : StandsAt m₀ i e := ⟨by rw [hs.pmap, h.ent], h.slot, h.tile.congr hs⟩

theorem StandsAt.rewrites_putRec (r : PRec) : Rewrites m (m₀.putRec e r) [i] := by
  refine ⟨⟨fun a ha => ?_, hs.pmap, hs.writes, hs.bankTimes⟩, hs.regs, fun t ht => (ht.congr hs).putRec h.slot r⟩
  have ha := ha i (List.mem_singleton_self i)
  rw [h.ptAddr] at ha
  rw [m₀.memRead_putRec h.slot r ha, hs.cells]

theorem StandsAt.ptRec_putRec {r : PRec} (hfits : r.Fits) : Machine.ptRec (m₀.putRec e r) i = r := by
  have hat := h.congr hs
  have hat' : StandsAt (m₀.putRec e r) i e := ⟨hat.ent, hat.slot, hat.tile.putRec hat.slot r⟩
  rw [hat'.ptRec, m₀.prec_putRec h.slot r hfits]

end

theorem Mod.markFresh_sameTiles (m : Mod) (i : Nat) : SameTiles m (m.markFresh i) := ⟨rfl, rfl, rfl, rfl, rfl, rfl⟩

theorem StandsAt.pointStore {m : Mod} {i : Nat} {e : PMapEnt} (h : StandsAt m i e) (hw : m.regionOk 9 2 (e.tile * 256) = true) (r : PRec) :
    (m.pointStore 9 i r).1 = (m.markFresh i).putRec e r := by
  have hat := h.congr (m.markFresh_sameTiles i)
  simp only [Mod.pointStore, h.ent, hat.tile.masterStore hw]
  rfl

/-- What logic sees until the next freeze is all that is kept beside the record. -/
theorem Mod.keepSeen_eq (m : Mod) (p : Nat) (r : PRec) : ∃ b, m.keepSeen p r = { m with mem := { m.mem with before := b } } := by
  unfold Mod.keepSeen
  split
  · exact ⟨m.mem.before, rfl⟩
  · exact ⟨_, rfl⟩

theorem Mod.keepSeen_sameTiles (m : Mod) (p : Nat) (r : PRec) : SameTiles m (m.keepSeen p r) := by
  obtain ⟨b, hb⟩ := m.keepSeen_eq p r
  rw [hb]
  exact ⟨rfl, rfl, rfl, rfl, rfl, rfl⟩

/-- A list of forces put in place of the module's. -/
abbrev Mod.withForces (m : Mod) (l : List (Nat × Long)) : Mod := { m with mem := { m.mem with forces := l } }

theorem Mod.withForces_sameTiles (m : Mod) (l : List (Nat × Long)) : SameTiles m (m.withForces l) := ⟨rfl, rfl, rfl, rfl, rfl, rfl⟩

section

variable {m : Mod} {i : Nat} {e : PMapEnt} (h : StandsAt m i e) (hw : m.regionOk 9 2 (e.tile * 256) = true)
include h hw

theorem StandsAt.applyPt_write (v : Long) (hforced : isForced (Machine.ptRec m i).qual = false) :
    m.applyPt (.write i v) = ((m.keepSeen i (Machine.ptRec m i)).markFresh i).putRec e ((Machine.ptRec m i).fresh v 0x0001) := by
  have hsame := m.keepSeen_sameTiles i (Machine.ptRec m i)
  have hstore := (h.congr hsame).pointStore ((Mod.regionOk_congr hsame.regs ..).trans hw)
  simp only [Mod.applyPt, PtOp.point, h.pointLoad, h.ent, h.tile.healthy, hforced, Bool.false_eq_true, if_false, hstore]

theorem StandsAt.applyPt_force (v : Long) :
    m.applyPt (.force i v) = ((m.withForces (mapPut i v m.mem.forces)).markFresh i).putRec e ((Machine.ptRec m i).fresh v 0x0009) := by
  have hat := h.congr (m.withForces_sameTiles (mapPut i v m.mem.forces))
  simp only [Mod.applyPt, PtOp.point, hat.pointLoad, h.ent, hat.tile.healthy, Bool.false_eq_true, if_false, hat.pointStore hw]
  rfl

theorem StandsAt.applyPt_release :
    m.applyPt (.release i) =
      (m.withForces (mapDel i m.mem.forces)).putRec e { Machine.ptRec m i with qual := (Machine.ptRec m i).qual &&& 0xFFF7#16 } := by
  have hat := h.congr (m.withForces_sameTiles (mapDel i m.mem.forces))
  simp only [Mod.applyPt, PtOp.point, hat.pointLoad, h.ent, hat.tile.healthy, Bool.false_eq_true, if_false, hat.tile.masterStore hw]
  rfl

end

/-! ### What writes, forces and releases leave -/

theorem Only.trans {ps : List Part} {fs : List Fld} {m m' m'' : Mod} (h : Only ps fs m m') (h' : Only ps fs m' m'') : Only ps fs m m'' := by
  obtain ⟨hparts, hwords⟩ := h
  obtain ⟨hparts', hwords'⟩ := h'
  refine ⟨fun p hp => ?_, fun a j hj => (hwords' a j hj).trans (hwords a j hj)⟩
  have h1 := hparts p hp
  have h2 := hparts' p hp
  cases p <;> exact Eq.trans h2 h1

theorem Only.mono {ps qs : List Part} {fs : List Fld} {m m' : Mod} (h : Only ps fs m m') (hsub : ps ⊆ qs) : Only qs fs m m' :=
  ⟨fun p hp => h.1 p fun hmem => hp (hsub hmem), h.2⟩

theorem Only.of_mem {m m' : Mod} (h : m' = { m with mem := m'.mem }) : Only [.mem] [] m m' := by
  rw [h]
  refine ⟨fun p hp => ?_, fun _ _ _ => rfl⟩
  cases p
  case mem => exact absurd (List.mem_singleton_self _) hp
  all_goals rfl

theorem Only.of_mem_exec {m m' : Mod} (h : m' = { m with mem := m'.mem, exec := m'.exec }) : Only [.mem, .exec] [] m m' := by
  rw [h]
  refine ⟨fun p hp => ?_, fun _ _ _ => rfl⟩
  cases p
  case mem => exact absurd (by decide) hp
  case exec => exact absurd (by decide) hp
  all_goals rfl

theorem ptRec_fits (m : Mod) (i : Nat) : (ptRec m i).Fits := decodeRec_fits _

theorem PRec.Fits.withQual {r : PRec} (h : r.Fits) (q : Tag) : ({ r with qual := q } : PRec).Fits := h

/-- From `m` to `m'` the points of `items` were written in this order; no force changed, and of the executive only the marks of fresh points. -/
structure Wrote (m m' : Mod) (items : List (Nat × Long)) : Prop where
  rewrites : Rewrites m m' (items.map (·.1))
  values : ∀ e ∈ items, ptRec m' e.1 = (ptRec m e.1).fresh e.2 0x0001#16
  forces : m'.mem.forces = m.mem.forces
  exec : m'.exec = { m.exec with freshPts := m'.exec.freshPts }
  only : Only [.mem, .exec] [] m m'

theorem wrote_applyPt {m : Mod} {i : Nat} (h : Storable m i) (hforced : isForced (ptRec m i).qual = false) (v : Long) :
    Wrote m (m.applyPt (.write i v)) [(i, v)] := by
  obtain ⟨-, e, hat, hregion⟩ := h.exists_standsAt
  obtain ⟨b, hb⟩ := m.keepSeen_eq i (ptRec m i)
  have hsame := (m.keepSeen_sameTiles i (ptRec m i)).trans (Mod.markFresh_sameTiles _ i)
  rw [hat.applyPt_write hregion v hforced]
  refine ⟨hat.rewrites_putRec hsame _, fun p hp => ?_, by rw [hb]; rfl, by rw [hb]; rfl, Only.of_mem_exec (by rw [hb]; rfl)⟩
  obtain rfl := List.mem_singleton.1 hp
  exact hat.ptRec_putRec hsame ((ptRec_fits m i).fresh ..)

theorem Wrote.refl (m : Mod) : Wrote m m [] := ⟨Rewrites.refl m, nofun, rfl, rfl, Only.of_mem_exec rfl⟩

/-- The fold of `OP_PT_WRITE`: points at different addresses keep their own values. -/
theorem wrote_foldl_applyPt {m : Mod} {items : List (Nat × Long)}
    (h : ∀ e ∈ items, Storable m e.1 ∧ isForced (ptRec m e.1).qual = false) (hnd : (items.map fun e => ptAddr m e.1).Nodup) :
    Wrote m (items.foldl (fun m e => m.applyPt (.write e.1 e.2)) m) items := by
  induction items generalizing m with
  | nil => exact Wrote.refl m
  | cons e items ih =>
    obtain ⟨⟨hstore, hforced⟩, htail⟩ := List.forall_mem_cons.1 h
    rw [List.map_cons, List.nodup_cons] at hnd
    obtain ⟨hfresh, hnd⟩ := hnd
    have hhead := wrote_applyPt hstore hforced e.2
    have hne : ∀ k ∈ items, ptAddr m k.1 ≠ ptAddr m e.1 := fun k hk heq => hfresh (List.mem_map.2 ⟨k, hk, heq⟩)
    have hkept : ∀ k ∈ items, ptRec (m.applyPt (.write e.1 e.2)) k.1 = ptRec m k.1 := fun k hk =>
      hhead.rewrites.ptRec_eq fun j hj => by
        obtain rfl := List.mem_singleton.1 hj
        exact hne k hk
    have hrest := ih (m := m.applyPt (.write e.1 e.2))
      (fun k hk => ⟨hhead.rewrites.storable (htail k hk).1, by rw [hkept k hk]; exact (htail k hk).2⟩)
      (by simpa only [hhead.rewrites.ptAddr] using hnd)
    rw [List.foldl_cons]
    refine ⟨hhead.rewrites.trans hrest.rewrites, ?_, hrest.forces.trans hhead.forces, ?_, hhead.only.trans hrest.only⟩
    · refine List.forall_mem_cons.2 ⟨?_, fun k hk => ?_⟩
      · rw [← hhead.values e (List.mem_singleton_self e)]
        refine hrest.rewrites.ptRec_eq fun j hj => ?_
        obtain ⟨k, hk, rfl⟩ := List.mem_map.1 hj
        rw [hhead.rewrites.ptAddr, hhead.rewrites.ptAddr]
        exact (hne k hk).symm
      · rw [hrest.values k hk, hkept k hk]
    · rw [hrest.exec, hhead.exec]

/-- From `m` to `m'` the forces of the points `is` were released: their records and the list of forces changed. -/
structure Released (m m' : Mod) (is : List Nat) : Prop where
  rewrites : Rewrites m m' is
  forces : ∀ k, mapGet k m'.mem.forces = if is.contains k then none else mapGet k m.mem.forces
  only : Only [.mem] [] m m'

theorem ptRec_applyPt_release {m : Mod} {i : Nat} (h : Storable m i) :
    ptRec (m.applyPt (.release i)) i = { ptRec m i with qual := (ptRec m i).qual &&& 0xFFF7#16 } := by
  obtain ⟨-, e, hat, hregion⟩ := h.exists_standsAt
  rw [hat.applyPt_release hregion]
  exact hat.ptRec_putRec (m.withForces_sameTiles _) ((ptRec_fits m i).withQual _)

theorem released_applyPt {m : Mod} {i : Nat} (h : Storable m i) : Released m (m.applyPt (.release i)) [i] := by
  obtain ⟨-, e, hat, hregion⟩ := h.exists_standsAt
  rw [hat.applyPt_release hregion]
  refine ⟨hat.rewrites_putRec (m.withForces_sameTiles _) _, fun k => ?_, Only.of_mem rfl⟩
  by_cases hk : k = i
  · subst hk
    rw [if_pos (by simp)]
    exact mapGet_mapDel_same ..
  · rw [if_neg (by simpa using hk)]
    exact mapGet_mapDel_ne hk _

theorem released_foldl_applyPt {m : Mod} {is : List Nat} (h : ∀ i ∈ is, Storable m i) :
    Released m (is.foldl (fun m i => m.applyPt (.release i)) m) is := by
  induction is generalizing m with
  | nil => exact ⟨Rewrites.refl m, fun _ => rfl, Only.of_mem rfl⟩
  | cons i is ih =>
    obtain ⟨hi, his⟩ := List.forall_mem_cons.1 h
    have hhead := released_applyPt hi
    have hrest := ih fun k hk => hhead.rewrites.storable (his k hk)
    refine ⟨hhead.rewrites.trans hrest.rewrites, fun k => ?_, hhead.only.trans hrest.only⟩
    rw [List.foldl_cons, hrest.forces, hhead.forces]
    by_cases hk : k = i <;> simp [hk]

/-- From `m` to `m'` point `i` was forced to `v`. -/
structure Forced (m m' : Mod) (i : Nat) (v : Long) : Prop where
  rewrites : Rewrites m m' [i]
  value : ptRec m' i = (ptRec m i).fresh v 0x0009#16
  forces : m'.mem.forces = mapPut i v m.mem.forces
  exec : m'.exec = { m.exec with freshPts := m'.exec.freshPts }
  only : Only [.mem, .exec] [] m m'

theorem forced_applyPt {m : Mod} {i : Nat} (h : Storable m i) (v : Long) : Forced m (m.applyPt (.force i v)) i v := by
  obtain ⟨-, e, hat, hregion⟩ := h.exists_standsAt
  rw [hat.applyPt_force hregion v]
  have hsame := (m.withForces_sameTiles (mapPut i v m.mem.forces)).trans (Mod.markFresh_sameTiles _ i)
  exact ⟨hat.rewrites_putRec hsame _, hat.ptRec_putRec hsame ((ptRec_fits m i).fresh ..), rfl, rfl, Only.of_mem_exec rfl⟩

/-! ### The point commands on the module as they find it -/

section

variable {s : State} {h : BitVec 10} {seq : BitVec 32} {x : Sess} {c : Cmd} {r : Res} {P : Mod → Prop}

/-- A command that may execute with a plan loaded, whose role may issue it, does what its row says. -/
theorem Executes.of_opRow_planLoaded {i : Instr} {op : Nat} {f : Mod → Nat → Sess → List Byte → Mod × Res} {info : OpInfo}
    (hi : exec i s = opRow s h seq op f) (hr : Ready s h seq op x c) (ho : opInfo op = some info)
    (hrole : bitAt info.roles x.roleBit = true) (hload : s.m.planLoaded = true) {m : Mod}
    (hf : f (begun s h seq) (s.m.sessKey h.toNat) x c.params = (m, r)) (hP : P m) : Executes i s h c r P := by
  refine ⟨m, ?_, hP⟩
  have hload : (begun s h seq).planLoaded = true := hload
  rw [begun] at hf hload
  simp only [hi, opRow, onMod, hr, ho, hrole, hload, Bool.not_true, Bool.and_false, Bool.false_eq_true, if_false, hf]

theorem Executes.imp {i : Instr} {Q : Mod → Prop} (he : Executes i s h c r P) (hPQ : ∀ m, P m → Q m) : Executes i s h c r Q := by
  obtain ⟨m, hexec, hm⟩ := he
  exact ⟨m, hexec, hPQ m hm⟩

/-! #### OP_PT_READ and OP_PT_READ_RANGE (R345, R349) -/

section

variable (hr : Ready s h seq 0x0100 x c) (hload : s.m.planLoaded = true)
include hr hload

theorem ptRead_badCount (hn : par c.params 0 2 = 0 ∨ 80 < par c.params 0 2) :
    Executes (.opPtRead h seq) s h c (.fail 2 0) fun m => Only [] [] (begun s h seq) m := by
  refine Executes.of_opRow_planLoaded (exec_opPtRead h seq s) hr rfl x.bitAt_rAll hload ?_ (Only.refl _)
  dsimp only
  rw [if_pos hn]

theorem ptRead_badIndex {j : Nat} (hn : ¬(par c.params 0 2 = 0 ∨ 80 < par c.params 0 2))
    (hj : (ptNamed c.params).findIdx? (fun i => decide (8192 ≤ i)) = some j) :
    Executes (.opPtRead h seq) s h c (.fail 2 (2 + 2 * j)) fun m => Only [] [] (begun s h seq) m := by
  refine Executes.of_opRow_planLoaded (exec_opPtRead h seq s) hr rfl x.bitAt_rAll hload ?_ (Only.refl _)
  rw [ptNamed] at hj
  simp only [if_neg hn, hj]

/-- The count and the indices in range: the answer is that of the points named. -/
theorem ptRead_named (hn : ¬(par c.params 0 2 = 0 ∨ 80 < par c.params 0 2)) (hrange : ∀ i ∈ ptNamed c.params, i < 8192)
    (hread : (begun s h seq).ptRead x (ptNamed c.params) = (begun s h seq, r)) :
    Executes (.opPtRead h seq) s h c r fun m => Only [] [] (begun s h seq) m := by
  have hfind : (ptNamed c.params).findIdx? (fun i => decide (8192 ≤ i)) = none :=
    List.findIdx?_eq_none_iff.2 fun i hi => decide_eq_false (Nat.not_le.2 (hrange i hi))
  refine Executes.of_opRow_planLoaded (exec_opPtRead h seq s) hr rfl x.bitAt_rAll hload ?_ (Only.refl _)
  rw [ptNamed] at hfind hread
  simp only [if_neg hn, hfind, hread]

end

section

variable (hr : Ready s h seq 0x0101 x c) (hload : s.m.planLoaded = true)
include hr hload

theorem ptReadRange_badFirst (hfirst : 8192 ≤ par c.params 0 2) :
    Executes (.opPtReadRange h seq) s h c (.fail 2 0) fun m => Only [] [] (begun s h seq) m := by
  refine Executes.of_opRow_planLoaded (exec_opPtReadRange h seq s) hr rfl x.bitAt_rAll hload ?_ (Only.refl _)
  dsimp only
  rw [if_pos hfirst]

theorem ptReadRange_badCount (hfirst : ¬8192 ≤ par c.params 0 2)
    (hn : par c.params 2 2 = 0 ∨ 80 < par c.params 2 2 ∨ 8192 < par c.params 0 2 + par c.params 2 2) :
    Executes (.opPtReadRange h seq) s h c (.fail 2 2) fun m => Only [] [] (begun s h seq) m := by
  refine Executes.of_opRow_planLoaded (exec_opPtReadRange h seq s) hr rfl x.bitAt_rAll hload ?_ (Only.refl _)
  dsimp only
  rw [if_neg hfirst, if_pos hn]

theorem ptReadRange_own (hfirst : ¬8192 ≤ par c.params 0 2)
    (hn : ¬(par c.params 2 2 = 0 ∨ 80 < par c.params 2 2 ∨ 8192 < par c.params 0 2 + par c.params 2 2))
    (hread : (begun s h seq).ptRead x ((List.range (par c.params 2 2)).map (par c.params 0 2 + ·)) = (begun s h seq, r)) :
    Executes (.opPtReadRange h seq) s h c r fun m => Only [] [] (begun s h seq) m := by
  refine Executes.of_opRow_planLoaded (exec_opPtReadRange h seq s) hr rfl x.bitAt_rAll hload ?_ (Only.refl _)
  simp only [if_neg hfirst, if_neg hn, hread]

end

/-! #### OP_PT_WRITE (R345) -/

theorem Mod.peerAnswer_own {m : Mod} {is : List Nat} (h : ∀ i ∈ is, m.homed i = true) (n : Nat) (f : Mod → Mod × Res) :
    m.peerAnswer is n f = f m := by rw [Mod.peerAnswer, if_pos (List.all_eq_true.2 h)]

section

variable (hitems : ∀ e ∈ ptItems c.params, e.1 < 8192 ∧ s.m.mayWritePt x e.1 = true ∧ s.m.homed e.1 = true)
include hitems

theorem ptItems_inRange : ((ptItems c.params).map (·.1)).findIdx? (fun i => decide (8192 ≤ i)) = none :=
  List.findIdx?_eq_none_iff.2 <| List.forall_mem_map.2 fun e he => decide_eq_false (Nat.not_le.2 (hitems e he).1)

theorem ptItems_homed : ∀ i ∈ (ptItems c.params).map (·.1), (begun s h seq).homed i = true :=
  List.forall_mem_map.2 fun e he => (hitems e he).2.2

theorem ptItems_ptGate : (begun s h seq).ptGate ((begun s h seq).mayWritePt x) ((ptItems c.params).map (·.1)) = none :=
  Mod.ptGate_eq_none <| List.forall_mem_map.2 fun e he => (hitems e he).2

/-- Of points that are all the module's own, the first with a force. -/
theorem ptItems_findForce : ((ptItems c.params).map (·.1)).find? (fun i => (begun s h seq).homed i && (mapGet i (begun s h seq).mem.forces).isSome)
    = ((ptItems c.params).map (·.1)).find? (fun i => (mapGet i s.m.mem.forces).isSome) :=
  List.find?_congr fun i hi => by rw [ptItems_homed hitems i hi]; rfl

end

theorem ptItems_formsOk (hforms : ∀ e ∈ ptItems c.params, s.m.formOkPt e.1 e.2 = true) :
    (ptItems c.params).findIdx? (fun e => !(begun s h seq).formOkPt e.1 e.2) = none :=
  List.findIdx?_eq_none_iff.2 fun e he => by rw [show (begun s h seq).formOkPt e.1 e.2 = true from hforms e he]; rfl

section

variable (hr : Ready s h seq 0x0102 x c) (hrole : bitAt 15 x.roleBit = true) (hload : s.m.planLoaded = true)
include hr hrole hload

theorem ptWrite_standby (hst : s.m.st = xStandby) :
    Executes (.opPtWrite h seq) s h c (.fail 4 s.m.stateDetail) fun m => Only [] [] (begun s h seq) m := by
  have hst : (begun s h seq).st = xStandby := hst
  refine Executes.of_opRow_planLoaded (exec_opPtWrite h seq s) hr rfl hrole hload ?_ (Only.refl _)
  simp only [if_pos hst]
  rfl

variable (hst : (begun s h seq).st ≠ xStandby) (hn : ¬(par c.params 0 1 = 0 ∨ 64 < par c.params 0 1))
  (hitems : ∀ e ∈ ptItems c.params, e.1 < 8192 ∧ s.m.mayWritePt x e.1 = true ∧ s.m.homed e.1 = true)
include hst hn hitems

theorem ptWrite_badForm {j : Nat} (hj : (ptItems c.params).findIdx? (fun e => !(begun s h seq).formOkPt e.1 e.2) = some j) :
    Executes (.opPtWrite h seq) s h c (.fail 2 (8 + 12 * j)) fun m => Only [] [] (begun s h seq) m := by
  have hrange := ptItems_inRange hitems
  have hgate := ptItems_ptGate (h := h) (seq := seq) hitems
  refine Executes.of_opRow_planLoaded (exec_opPtWrite h seq s) hr rfl hrole hload ?_ (Only.refl _)
  rw [ptItems] at hrange hgate hj
  simp only [if_neg hst, if_neg hn, hrange, hgate, hj]

variable (hforms : ∀ e ∈ ptItems c.params, s.m.formOkPt e.1 e.2 = true)
include hforms

theorem ptWrite_forced {i : Nat} (hi : ((ptItems c.params).map (·.1)).find? (fun i => (mapGet i s.m.mem.forces).isSome) = some i) :
    Executes (.opPtWrite h seq) s h c (.fail 8 i) fun m => Only [] [] (begun s h seq) m := by
  have hrange := ptItems_inRange hitems
  have hgate := ptItems_ptGate (h := h) (seq := seq) hitems
  have hform := ptItems_formsOk (h := h) (seq := seq) hforms
  have hforce := (ptItems_findForce (h := h) (seq := seq) hitems).trans hi
  refine Executes.of_opRow_planLoaded (exec_opPtWrite h seq s) hr rfl hrole hload ?_ (Only.refl _)
  rw [ptItems] at hrange hgate hform hforce
  simp only [if_neg hst, if_neg hn, hrange, hgate, hform, hforce]

theorem ptWrite_own (hfree : ∀ e ∈ ptItems c.params, (mapGet e.1 s.m.mem.forces).isNone = true)
    (hsound : ∀ e ∈ ptItems c.params, soundPt (begun s h seq) true e.1 = true) (hnd : ((ptItems c.params).map (fun e => ptAddr s.m e.1)).Nodup) :
    Executes (.opPtWrite h seq) s h c (.ok (leBytes 8 s.m.exec.windowAt)) fun m => Wrote (begun s h seq) m (ptItems c.params) := by
  have hrange := ptItems_inRange hitems
  have hgate := ptItems_ptGate (h := h) (seq := seq) hitems
  have hform := ptItems_formsOk (h := h) (seq := seq) hforms
  have hnone : ((ptItems c.params).map (·.1)).find? (fun i => (mapGet i s.m.mem.forces).isSome) = none :=
    List.find?_eq_none.2 <| List.forall_mem_map.2 fun e he => by simp [Option.isNone_iff_eq_none.1 (hfree e he)]
  have hforce := (ptItems_findForce (h := h) (seq := seq) hitems).trans hnone
  have hstore : ∀ e ∈ ptItems c.params, Storable (begun s h seq) e.1 ∧ isForced (ptRec (begun s h seq) e.1).qual = false :=
    fun e he => storable_of_soundPt (hsound e he)
  have hstop : (begun s h seq).ptStopped true ((ptItems c.params).map (·.1)) = none :=
    Mod.ptStopped_of_storable (List.forall_mem_map.2 fun e he => (hstore e he).1) true
  have hpeer := Mod.peerAnswer_own (ptItems_homed (h := h) (seq := seq) hitems)
  have hown : (ptItems c.params).filter (fun e => (begun s h seq).homed e.1) = ptItems c.params :=
    List.filter_eq_self.2 fun e he => (hitems e he).2.2
  refine Executes.of_opRow_planLoaded (exec_opPtWrite h seq s) hr rfl hrole hload ?_ (wrote_foldl_applyPt hstore hnd)
  rw [ptItems] at hrange hgate hform hforce hstop hown hpeer
  simp only [if_neg hst, if_neg hn, hrange, hgate, hform, hforce, hstop, hpeer, hown]
  rfl

end

/-! #### OP_PT_FORCE (R264, R346) -/

section

variable (hr : Ready s h seq 0x0103 x c) (hrole : bitAt 14 x.roleBit = true) (hload : s.m.planLoaded = true)
  (hst : (begun s h seq).st ≠ xStandby) (hrange : ¬8192 ≤ par c.params 0 2)
include hr hrole hload hst hrange

theorem ptForce_safety (hsafe : (begun s h seq).isSafetyPt (par c.params 0 2) = true) :
    Executes (.opPtForce h seq) s h c (.fail 5 0x0103) fun m => Only [] [] (begun s h seq) m := by
  refine Executes.of_opRow_planLoaded (exec_opPtForce h seq s) hr rfl hrole hload ?_ (Only.refl _)
  simp only [if_neg hst, if_neg hrange, hsafe, if_true]

theorem ptForce_own {i : Nat} {v : Long} (hi : i = par c.params 0 2) (hv : v = BitVec.ofNat 64 (par c.params 4 8))
    (hsafe : (begun s h seq).isSafetyPt i = false) (hmay : (begun s h seq).mayForcePt x i = true) (hform : (begun s h seq).formOkPt i v = true)
    (hstore : Storable (begun s h seq) i) :
    Executes (.opPtForce h seq) s h c (.ok (leBytes 8 s.m.exec.windowAt)) fun m => Forced (begun s h seq) m i v := by
  have hhome := soundPt_homed hstore.1
  have hgate : (begun s h seq).ptGate ((begun s h seq).mayForcePt x) [i] = none := Mod.ptGate_eq_none (by simp [hmay, hhome])
  have hstop : (begun s h seq).ptStopped true [i] = none := Mod.ptStopped_of_storable (by simpa using hstore) true
  have hpeer := Mod.peerAnswer_own (m := begun s h seq) (is := [i]) (by simpa using hhome)
  subst hi hv
  refine Executes.of_opRow_planLoaded (exec_opPtForce h seq s) hr rfl hrole hload ?_ (forced_applyPt hstore _)
  simp only [if_neg hst, if_neg hrange, hsafe, hgate, hform, hstop, hpeer, Bool.not_true, Bool.false_eq_true, if_false]
  rfl

end

/-! #### OP_PT_RELEASE (R264, R346) -/

theorem Mod.peerCount_of_mode {m : Mod} (h : m.get F.TWIN_STATUS_MODE ≠ 1) (n : Nat) : m.peerCount n = 0 := by
  rw [Mod.peerCount, if_neg fun hc => h hc.1]

section

variable (hr : Ready s h seq 0x0104 x c) (hrole : bitAt 14 x.roleBit = true) (hload : s.m.planLoaded = true)
  (hst : (begun s h seq).st ≠ xStandby)
include hr hrole hload hst

/-- One point of the module's own that the session may release: listed, its force goes; else nothing changes. -/
theorem ptRelease_own {i : Nat} (hi : i = par c.params 0 2) (hrange : i < 8192)
    (hsafe : (begun s h seq).isSafetyPt i = false) (hmay : (begun s h seq).mayForcePt x i = true) (hstore : Storable (begun s h seq) i)
    {m : Mod} {n : Nat} (hm : (if (mapGet i s.m.mem.forces).isSome then ((begun s h seq).applyPt (.release i), Res.ok (leBytes 2 1))
      else (begun s h seq, .ok (leBytes 2 0))) = (m, .ok (leBytes 2 n))) (hP : P m) :
    Executes (.opPtRelease h seq) s h c (.ok (leBytes 2 n)) P := by
  have hhome := soundPt_homed hstore.1
  have hgate : (begun s h seq).ptGate ((begun s h seq).mayForcePt x) [i] = none := Mod.ptGate_eq_none (by simp [hmay, hhome])
  have hstop : (begun s h seq).ptStopped true [i] = none := Mod.ptStopped_of_storable (by simpa using hstore) true
  have hpeer := Mod.peerAnswer_own (m := begun s h seq) (is := [i]) (by simpa using hhome)
  have hone : i ≠ 0xFFFF := by omega
  have hin : ¬8192 ≤ i := by omega
  subst hi
  refine Executes.of_opRow_planLoaded (exec_opPtRelease h seq s) hr rfl hrole hload ?_ hP
  simp only [if_neg hst, if_neg hone, if_neg hin, hsafe, hgate, hstop, hpeer, Bool.false_eq_true, if_false]
  exact hm

theorem ptRelease_all (hall : par c.params 0 2 = 0xFFFF) (hmode : (begun s h seq).get F.TWIN_STATUS_MODE ≠ 1)
    (hstore : ∀ i ∈ s.m.mayRelease x, Storable (begun s h seq) i) :
    Executes (.opPtRelease h seq) s h c (.ok (leBytes 2 (s.m.mayRelease x).length))
      fun m => Released (begun s h seq).drawn m (s.m.mayRelease x) := by
  have hstop : (begun s h seq).ptStopped true ((begun s h seq).mayRelease x) = none := Mod.ptStopped_of_storable hstore true
  have hcount := Mod.peerCount_of_mode hmode 4096
  refine Executes.of_opRow_planLoaded (exec_opPtRelease h seq s) hr rfl hrole hload ?_ (released_foldl_applyPt (m := (begun s h seq).drawn) hstore)
  simp only [if_neg hst, if_pos hall, hstop, hcount, Nat.add_zero]
  rfl

end

/-! #### OP_PT_FORCES (R349) -/

theorem ptForces_own (hr : Ready s h seq 0x0105 x c) (hrole : bitAt 14 x.roleBit = true) (hload : s.m.planLoaded = true)
    (hmode : (begun s h seq).get F.TWIN_STATUS_MODE ≠ 1) :
    Executes (.opPtForces h seq) s h c
      (.ok ((((s.m.mem.forces.map (·.1)).filter (fun i => decide (par c.params 0 2 ≤ i) && s.m.homed i && s.m.mayReadPt x i)).take 600).flatMap
        (leBytes 2)))
      fun m => Only [.freeCtr] [] (begun s h seq) m := by
  refine Executes.of_opRow_planLoaded (exec_opPtForces h seq s) hr rfl hrole hload ?_ (Only.drawnN (begun s h seq) 1)
  simp only [Mod.peerCount_of_mode hmode, Nat.mul_zero, Mod.random, List.range_zero, List.map_nil, List.append_nil]
  rfl

end

/-! ### O46 -/

/-- Settles O46: each clause is its command's row, with the checks that it passes; a write stores whole records in sound tiles, whose tiles pass their
check again, so that the writes of one command do not meet each other. -/
theorem pointCommandsReadWriteForceAndRelease : Obligations.PointCommandsReadWriteForceAndRelease := by
  unfold Obligations.PointCommandsReadWriteForceAndRelease
  intro s h seq x c j i v is items rng q rel _
  refine ⟨?_, ?_, ?_, ?_, ?_, ?_, ?_, ?_, ?_, ?_, ?_, ?_, ?_, ?_, ?_, ?_, ?_⟩
  case refine_1 =>
    intro hr hload h1 h80 hall
    simp only [List.all_eq_true, Bool.and_eq_true, decide_eq_true_eq] at hall
    exact ptRead_named hr hload (by omega) (fun i hi => (hall i hi).1.1)
      (Mod.ptRead_of_soundPt fun i hi => ⟨(hall i hi).1.2, (hall i hi).2⟩)
  case refine_2 => exact ptRead_badCount
  case refine_3 =>
    intro hr hload h1 h80
    exact ptRead_badIndex hr hload (by omega)
  case refine_4 =>
    intro hr hload h1 h80 hall hdenied
    simp only [List.all_eq_true, Bool.and_eq_true, decide_eq_true_eq] at hall
    exact ptRead_named hr hload (by omega) (fun i hi => (hall i hi).1) (Mod.ptRead_denied (fun i hi => (hall i hi).2) hdenied)
  case refine_5 =>
    intro hr hload hfirst h1 h80 hend hall
    simp only [List.all_eq_true, Bool.and_eq_true] at hall
    exact ptReadRange_own hr hload (by omega) (by omega) (Mod.ptRead_of_soundPt hall)
  case refine_6 => exact ptReadRange_badFirst
  case refine_7 =>
    intro hr hload hfirst
    exact ptReadRange_badCount hr hload (by omega)
  case refine_8 =>
    intro hr hrole hload hst h1 h64 hall hnd
    simp only [List.all_eq_true, Bool.and_eq_true, decide_eq_true_eq, and_assoc] at hall
    refine (ptWrite_own hr hrole hload hst (by omega) (fun e he => ?_) (fun e he => ?_) (fun e he => ?_) (fun e he => ?_) hnd).imp fun m hm =>
      ⟨hm.values, hm.rewrites.records, hm.forces, hm.exec, hm.only⟩
    all_goals obtain ⟨hrange, hmay, hform, hfree, hsound⟩ := hall e he
    · exact ⟨hrange, hmay, soundPt_homed hsound⟩
    · exact hform
    · exact hfree
    · exact hsound
  case refine_9 => exact ptWrite_standby
  case refine_10 =>
    intro hr hrole hload hst h1 h64 hall
    simp only [List.all_eq_true, Bool.and_eq_true, decide_eq_true_eq, and_assoc] at hall
    exact ptWrite_badForm hr hrole hload hst (by omega) hall
  case refine_11 =>
    intro hr hrole hload hst h1 h64 hall
    simp only [List.all_eq_true, Bool.and_eq_true, decide_eq_true_eq, and_assoc] at hall
    refine ptWrite_forced hr hrole hload hst (by omega) (fun e he => ?_) (fun e he => ?_)
    all_goals obtain ⟨hrange, hmay, hhome, hform⟩ := hall e he
    · exact ⟨hrange, hmay, hhome⟩
    · exact hform
  case refine_12 =>
    intro hr hrole hload hst hi hv hrange hsafe hmay hform hsound hregion
    refine (ptForce_own hr hrole hload hst (by omega) hi hv hsafe hmay hform ⟨hsound, hregion⟩).imp fun m hm =>
      ⟨hm.value, ?_, fun k hk => ?_, hm.rewrites.records, hm.exec, hm.only⟩
    · rw [hm.forces, mapGet_mapPut_same]
    · rw [hm.forces, mapGet_mapPut_ne hk]
      rfl
  case refine_13 =>
    intro hr hrole hload hst hrange
    exact ptForce_safety hr hrole hload hst (by omega)
  case refine_14 =>
    intro hr hrole hload hst hi hrange hsafe hmay hforced hsound hregion
    have hstore : Storable (begun s h seq) i := ⟨hsound, hregion⟩
    have hm := released_applyPt hstore
    refine ptRelease_own hr hrole hload hst hi hrange hsafe hmay hstore (if_pos hforced)
      ⟨ptRec_applyPt_release hstore, ?_, fun k hk => ?_, hm.rewrites.records, hm.only⟩
    · rw [hm.forces, if_pos (by simp)]
    · rw [hm.forces, if_neg (by simpa using hk)]
      rfl
  case refine_15 =>
    intro hr hrole hload hst hi hrange hsafe hmay hfree hsound
    exact ptRelease_own hr hrole hload hst hi hrange hsafe hmay (storable_of_soundPt hsound).1 (if_neg (by simp [hfree])) (Only.refl _)
  case refine_16 =>
    intro hr hrole hload hst hone hmode hall
    simp only [List.all_eq_true, Bool.and_eq_true] at hall
    refine (ptRelease_all hr hrole hload hst hone hmode hall).imp fun m hm => ⟨fun k => hm.forces k, hm.rewrites.records, ?_⟩
    exact ((Only.drawnN (begun s h seq) 1).mono (by simp)).trans (hm.only.mono (by simp))
  case refine_17 => exact ptForces_own

end Sys2Proof.Machine
end

/-! PROOFS. The family 02_point_image_and_tiles.md, restarts and start-up: what the load of a plan shows of the field ports (O58, O59). -/

section

namespace Sys2Proof.Machine

/-! ### A plan that enables field port 5 (R305)

The FBUS block of port p + 1 begins at 0x60000 + 0x400 * p, and `restartRanges` ends at 0x61000: of the 19 ports it covers the first four. -/

/-- A region of a bus master, in units of 256 bytes, for reads and writes (R43). -/
def regionFields (master k lo hi : Nat) : List (Fld × Nat) :=
  [(F.REGION_BASE_BASE master k, lo), (F.REGION_LIMIT_LIMIT master k, hi), (F.REGION_ATTR_EN master k, 1), (F.REGION_ATTR_R master k, 1),
    (F.REGION_ATTR_W master k, 1)]

/-- One class of 20 ms, a management window every 8 ms, the regions that the core and the frame engine need, and field port 5 enabled. -/
def fifthPortPlan : Plan :=
  { id := 77, digest := 77, hwType := 0x5A0F4096, sections := [1, 2, 3, 4, 9, 10], classes := [{ period := 4, launch := 5000000 }]
    scopes := [{ scope := 0, meters := List.range 96, logs := List.range 16 }]
    regImage := (regionFields 9 0 0x2000 0x3FFF ++ regionFields 9 1 0x5000 0x5FFF ++ regionFields 10 0 0x2000 0x3FFF
      ++ [(F.FBUS_CFG_EN 4, 1)]).foldl (fun r (x : Fld × Nat) => fldSet r x.1 x.2) ([] : List (Nat × Word))
    drum := (List.range 125).map (fun i => BitVec.ofNat 64 (64 * i + 11 * 2 ^ 34 + 20 * 2 ^ 48)) }

theorem fifthPortPlan_verifies : fifthPortPlan.verify 0x5A0F4096 = none := by decide +kernel

theorem fifthPortPlan_imageOk : imageOk fifthPortPlan = true := by decide +kernel

/-- FBUS_STATUS of port 5 lies in no range that a restart with this plan may change, nor in the PWR block. -/
theorem fifthPortStatus_outside :
    ∀ r ∈ restartRanges [fifthPortPlan] ++ [(0x01000, 0x02000)], R.FBUS_STATUS 4 < r.1 ∨ r.2 ≤ R.FBUS_STATUS 4 := by decide +kernel

/-- STOPPED with that plan loaded and an auto-restart due (R119). -/
def fifthPortStopped : State :=
  { m := { Mod.reset with
      regs := fldSet [] F.EXEC_STATE_STATE xStopped
      plan := { active := some fifthPortPlan }
      exec := { autoAt := some 0 } }
    pending := [] }

/-- BIT with the management core running and that plan in the active slot, to be loaded cold (R479). -/
def fifthPortArmed : State :=
  { m := { Mod.reset with
      regs := fldSet [] F.EXEC_STATE_STATE xBit
      sw := Mod.reset.sw.set (swPd 3) { ph := .on }
      plan := { slots := Mod.reset.plan.slots.set 0 (some fifthPortPlan) }
      exec := { startType := some 1 } }
    pending := [] }

theorem fifthPortStopped_status : fifthPortStopped.m.word (R.FBUS_STATUS 4) = 0#32 := by decide +kernel

theorem fifthPortArmed_status : fifthPortArmed.m.word (R.FBUS_STATUS 4) = 0#32 := by decide +kernel

/-- The word that a register has in the next state, where there is one. -/
def nextWord (a : Nat) : Out → Option Word
  | .next t => some (t.m.word a)
  | _ => none

/-- The restart loads the plan again, and FBUS_STATUS shows port 5 UP (R305). -/
theorem autoRestart_shows_fifthPort : nextWord (R.FBUS_STATUS 4) (exec .autoRestart fifthPortStopped) = some 1#32 := by decide +kernel

/-- The load of the armed plan shows port 5 UP (R305). -/
theorem planArmed_shows_fifthPort : nextWord (R.FBUS_STATUS 4) (exec .planArmed fifthPortArmed) = some 1#32 := by decide +kernel

/-- Refutes O58: the auto-restart with a plan that enables field port 5 sets FBUS_STATUS.UP of that port, at 0x61008, and the frame
`restartRanges` lets a restart change the FBUS block below 0x61000 only. -/
theorem not_managementRestartsSnapshotsAndSwaps : ¬ Obligations.ManagementRestartsSnapshotsAndSwaps := by
  unfold Obligations.ManagementRestartsSnapshotsAndSwaps
  rintro ⟨restarts, -, -⟩
  obtain ⟨-, -, -, -, auto, -⟩ := restarts fifthPortStopped 0 0 0 fifthPortPlan { role := .service } (by decide +kernel)
  obtain ⟨t, ht, -, -, -, -, -, -, -, -, -, frame⟩ :=
    auto rfl (by decide +kernel) (by decide +kernel) rfl (by decide +kernel) rfl fifthPortPlan_imageOk
  have same := frame (R.FBUS_STATUS 4) fun r hr => fifthPortStatus_outside r (List.mem_append_left _ hr)
  have up := autoRestart_shows_fifthPort
  rw [ht, nextWord, same, fifthPortStopped_status] at up
  exact absurd up (by decide)

/-- Refutes O59: the load of the armed plan, which enables field port 5 and passes verification, sets FBUS_STATUS.UP of that port, at 0x61008, and
the frame `restartRanges` lets it change the FBUS block below 0x61000 only. -/
theorem not_suppliesAndDomainsStartTheModule : ¬ Obligations.SuppliesAndDomainsStartTheModule := by
  unfold Obligations.SuppliesAndDomainsStartTheModule
  intro h
  have usable : fifthPortArmed.m.planUsable fifthPortPlan = true := by
    have hsys : fifthPortArmed.m.sysId = 0x5A0F4096 := rfl
    simp only [Mod.planUsable, hsys, fifthPortPlan_verifies]
    decide +kernel
  obtain ⟨-, -, -, -, -, -, -, -, -, -, -, -, -, -, armed, -⟩ :=
    h fifthPortArmed 0 0 0 {} 0 0 1 fifthPortPlan { mask := 0, seq := 0, t0 := 0 } (by decide +kernel)
  obtain ⟨t, ht, -, -, -, -, -, -, -, -, -, frame⟩ :=
    armed rfl (by decide +kernel) (by decide +kernel) (by decide +kernel) usable fifthPortPlan_imageOk
  have same := frame (R.FBUS_STATUS 4) fifthPortStatus_outside
  have up := planArmed_shows_fifthPort
  rw [ht, nextWord, same, fifthPortArmed_status] at up
  exact absurd up (by decide)

end Sys2Proof.Machine
end

/-! PROOFS. The family 02_point_image_and_tiles.md: fields that share no bit, and frames built from the steps of an update. -/

section

namespace Sys2Proof.Machine

/-! ### Register fields that share no bit -/

/-- The two fields share no bit. -/
abbrev Apart (f g : Fld) : Prop := g.addr ≠ f.addr ∨ g.lo + g.width ≤ f.lo ∨ f.lo + f.width ≤ g.lo

theorem testBit_bits (v lo w i : Nat) : (bits v lo w).testBit i = (decide (i < w) && v.testBit (lo + i)) := by
  simp [bits, Nat.testBit_mod_two_pow, Nat.testBit_shiftRight]

theorem testBit_putBits_ne {v lo w x j : Nat} (h : j < lo ∨ lo + w ≤ j) : (putBits v lo w x).testBit j = v.testBit j := by
  have hbit (u : Nat) : u.testBit j = (bits u j 1).testBit 0 := by rw [testBit_bits]; rfl
  rw [hbit, hbit v, bits_putBits_ne (by omega)]

/-- A register that was just written shows the word written, whether or not the register file is in canonical form. -/
theorem regRead_regWrite_self (rs : List (Nat × Word)) (a : Nat) (w : Word) : regRead (regWrite rs a w) a = w := by
  unfold regRead regWrite
  split
  case isTrue hw => rw [mapGet_mapDel_same, hw]; rfl
  case isFalse => rw [mapGet_mapPut_same]; rfl

theorem Mod.word_set_self (m : Mod) (f : Fld) (v : Nat) :
    (m.set f v).word f.addr = BitVec.ofNat 32 (putBits (m.word f.addr).toNat f.lo f.width v) := regRead_regWrite_self ..

theorem Mod.get_set_self (m : Mod) {f : Fld} (v : Nat) (hf : f.lo + f.width ≤ 32) : (m.set f v).get f = v % 2 ^ f.width := by
  show bits ((m.set f v).word f.addr).toNat f.lo f.width = _
  rw [Mod.word_set_self, BitVec.toNat_ofNat, Nat.mod_eq_of_lt (putBits_lt (m.word f.addr).isLt hf), bits_putBits_same]

theorem Mod.flag_setB_self (m : Mod) {f : Fld} (b : Bool) (hw : f.width = 1) (hf : f.lo < 32) : (m.setB f b).flag f = b := by
  rw [Mod.flag, Mod.setB, Mod.get_set_self _ _ (by omega), hw]
  cases b <;> rfl

theorem Only.set (m : Mod) (f : Fld) (v : Nat) : Only [] [f] m (m.set f v) := by
  refine ⟨fun p _ => by cases p <;> rfl, fun a j hj => ?_⟩
  by_cases ha : a = f.addr
  · subst ha
    have hj := hj f (List.mem_singleton_self _) rfl
    rw [Mod.word_set_self, BitVec.getLsbD_ofNat, testBit_putBits_ne hj]
    by_cases h32 : j < 32
    · simp [h32, BitVec.getLsbD]
    · simp [h32, BitVec.getLsbD_of_ge _ _ (Nat.le_of_not_lt h32)]
  · rw [Mod.word_set_addr _ _ ha]

theorem Only.part {ps : List Part} {fs : List Fld} {m m' : Mod} (h : Only ps fs m m') (p : Part) (hp : p ∉ ps) : p.same m m' := h.1 p hp

/-- A field that lies apart from every field of the frame keeps its value. -/
theorem Only.get {ps : List Part} {fs : List Fld} {m m' : Mod} (h : Only ps fs m m') {g : Fld} (hg : ∀ f ∈ fs, Apart f g) :
    m'.get g = m.get g := by
  obtain ⟨-, hwords⟩ := h
  show bits (m'.word g.addr).toNat g.lo g.width = bits (m.word g.addr).toNat g.lo g.width
  refine Nat.eq_of_testBit_eq fun i => ?_
  rw [testBit_bits, testBit_bits]
  by_cases hi : i < g.width
  · have := hwords g.addr (g.lo + i) fun f hf ha => by
      have := hg f hf
      omega
    simpa [hi, BitVec.getLsbD] using this
  · simp [hi]

theorem Only.flag {ps : List Part} {fs : List Fld} {m m' : Mod} (h : Only ps fs m m') {g : Fld} (hg : ∀ f ∈ fs, Apart f g) :
    m'.flag g = m.flag g := by rw [Mod.flag, Mod.flag, h.get hg]

theorem Mod.get_set_apart (m : Mod) {f g : Fld} (v : Nat) (h : Apart f g) : (m.set f v).get g = m.get g :=
  (Only.set m f v).get (by simpa using h)

theorem Mod.get_setB_apart (m : Mod) {f g : Fld} (b : Bool) (h : Apart f g) : (m.setB f b).get g = m.get g := m.get_set_apart _ h

theorem Mod.flag_setB_apart (m : Mod) {f g : Fld} (b : Bool) (h : Apart f g) : (m.setB f b).flag g = m.flag g := by
  rw [Mod.flag, Mod.flag, m.get_setB_apart b h]

theorem Mod.flag_set_apart (m : Mod) {f g : Fld} (v : Nat) (h : Apart f g) : (m.set f v).flag g = m.flag g := by
  rw [Mod.flag, Mod.flag, m.get_set_apart v h]

/-! ### Frames, from the steps of an update -/

section

variable {ps qs : List Part} {fs gs : List Fld} {m m' : Mod}

theorem Only.weaken (h : Only ps fs m m') (hp : ps ⊆ qs) (hf : fs ⊆ gs) : Only qs gs m m' :=
  ⟨fun p hq => h.1 p fun hmem => hq (hp hmem), fun a j hj => h.2 a j fun f hmem => hj f (hf hmem)⟩

/-- Every frame allows that nothing changes. -/
theorem Only.unchanged (m : Mod) : Only ps fs m m := (Only.refl m).weaken (List.nil_subset _) (List.nil_subset _)

theorem Only.set_mem (h : Only ps fs m m') {f : Fld} (v : Nat) (hf : f ∈ fs) : Only ps fs m (m'.set f v) :=
  h.trans ((Only.set m' f v).weaken (List.nil_subset _) (by simpa using hf))

theorem Only.setB_mem (h : Only ps fs m m') {f : Fld} (b : Bool) (hf : f ∈ fs) : Only ps fs m (m'.setB f b) := h.set_mem _ hf

theorem Only.when {c : Bool} {f : Mod → Mod} (h : Only ps fs m (f m)) : Only ps fs m (m.when c f) := by
  cases c
  · exact Only.unchanged m
  · exact h

theorem Only.foldl {α : Type} {f : Mod → α → Mod} : ∀ (l : List α) (m : Mod), (∀ (m : Mod) (x : α), x ∈ l → Only ps fs m (f m x)) →
    Only ps fs m (l.foldl f m)
  | [], m, _ => Only.unchanged m
  | x :: xs, m, h => (h m x (List.mem_cons_self ..)).trans (Only.foldl xs _ fun m y hy => h m y (List.mem_cons_of_mem _ hy))

end

/-- `m` with the part taken from `n`: the frames of single parts are stated with it. -/
def Part.put (m n : Mod) : Part → Mod
  | .fx => { m with fx := n.fx }
  | .freeCtr => { m with freeCtr := n.freeCtr }
  | .clk => { m with clk := n.clk }
  | .mem => { m with mem := n.mem }
  | .plan => { m with plan := n.plan }
  | .lanes => { m with lanes := n.lanes }
  | .exec => { m with exec := n.exec }
  | .outs => { m with outs := n.outs }
  | .bit => { m with bit := n.bit }
  | .retain => { m with retain := n.retain }
  | .logs => { m with logs := n.logs }
  | .sw => { m with sw := n.sw }
  | .nvm => { m with nvm := n.nvm }
  | .jack => { m with jack := n.jack }
  | .fio => { m with fio := n.fio }
  | .safe => { m with safe := n.safe }
  | .loops => { m with loops := n.loops }
  | .tests => { m with tests := n.tests }
  | .met => { m with met := n.met }
  | .ports => { m with ports := n.ports }
  | .twin => { m with twin := n.twin }
  | .orpor => { m with orpor := n.orpor }
  | .upl => { m with upl := n.upl }
  | .pool => { m with pool := n.pool }
  | .rtc => { m with rtc := n.rtc }
  | .key => { m with key := n.key }
  | .pwr => { m with pwr := n.pwr }
  | .fired => { m with fired := n.fired }

theorem Part.put_same (m n : Mod) {p q : Part} (h : q ≠ p) : q.same m (p.put m n) := by
  cases p <;> cases q
  case fx.fx | freeCtr.freeCtr | clk.clk | mem.mem | plan.plan | lanes.lanes | exec.exec | outs.outs | bit.bit | retain.retain |
    logs.logs | sw.sw | nvm.nvm | jack.jack | fio.fio | safe.safe | loops.loops | tests.tests | met.met | ports.ports | twin.twin |
    orpor.orpor | upl.upl | pool.pool | rtc.rtc | key.key | pwr.pwr | fired.fired => exact absurd rfl h
  all_goals rfl

theorem Part.put_regs (m n : Mod) (p : Part) : (p.put m n).regs = m.regs := by cases p <;> rfl

/-- A change of one part alone. -/
theorem Only.of_put {p : Part} {m m' : Mod} (h : m' = p.put m m') : Only [p] [] m m' := by
  rw [h]
  refine ⟨fun q hq => Part.put_same m m' (by simpa using hq), fun a j _ => ?_⟩
  rw [Mod.word, Mod.word, Part.put_regs]

/-- A mark in a register beside the change of the log part. -/
theorem Only.logged {m : Mod} (lg : LogSt) (full : Bool) :
    Only [.logs] [F.LOG_STATUS_WAB_FULL] m
      { m with logs := lg, regs := if full then fldSet m.regs F.LOG_STATUS_WAB_FULL 1 else m.regs } := by
  have hlogs : Only [.logs] [F.LOG_STATUS_WAB_FULL] m { m with logs := lg } := (Only.of_put rfl).weaken (List.Subset.refl _) (List.nil_subset _)
  cases full
  · exact hlogs
  · rw [if_pos rfl]
    exact hlogs.set_mem 1 (List.mem_singleton_self _)

/-- A step that changes one part of the frame. -/
theorem Only.put_mem {ps : List Part} {fs : List Fld} {m m' m'' : Mod} (h : Only ps fs m m') (p : Part) (hp : p ∈ ps) (heq : m'' = p.put m' m'') :
    Only ps fs m m'' :=
  h.trans ((Only.of_put heq).weaken (by simpa using hp) (List.nil_subset _))

theorem Only.log (m : Mod) (e : Ev) (src : Nat) (data : List Byte) : Only [.logs] [F.LOG_STATUS_WAB_FULL] m (m.log e src data) :=
  Only.logged ..

/-! ### Commands that change the module by one function -/

theorem Does.of_onMod {i : Instr} {s : State} {f : Mod → Mod} {m' : Mod} {P : Mod → Prop} (hi : exec i s = onMod s f) (hf : f s.m = m')
    (hP : P m') : Does i s P := ⟨_, hi, rfl, by subst hf; exact hP⟩

theorem exec_of_onMod_unchanged {i : Instr} {s : State} {f : Mod → Mod} (hi : exec i s = onMod s f) (hf : f s.m = s.m) : exec i s = .next s := by
  rw [hi, onMod, hf]

end Sys2Proof.Machine

end

/-! PROOFS. The family 02_point_image_and_tiles.md, storage (O41): the 1 ms tick, windows, slots, latched reads and a bank's mark. -/

section

namespace Sys2Proof.Machine

/-! ### The 1 ms tick (R403, R503) -/

theorem ctrValue_ctrAdd (c : CtrCell × CtrCell) (k : Nat) : ctrValue (Machine.ctrAdd c k) = ctrValue c + k := by
  unfold Machine.ctrAdd
  split
  all_goals
    simp only [ctrValue, if_true]
    split <;> split <;> omega

theorem Mod.ctr_ctrAdd_same (m : Mod) (i : Fin 24) (k : Nat) : (m.ctrAdd i k).ctr i = m.ctr i + k := by
  simp [Mod.ctr, Mod.ctrAdd, ctrValue_ctrAdd]

theorem Mod.ctr_ctrAdd_ne (m : Mod) {i j : Fin 24} (k : Nat) (h : j ≠ i) : (m.ctrAdd i k).ctr j = m.ctr j := by
  have hne : i.val ≠ j.val := fun he => h (Fin.ext he.symm)
  simp [Mod.ctr, Mod.ctrAdd, Vector.getElem_set_ne, hne]

/-- What the measurement takes of the inputs: the voltages, the status and the power. -/
def Mod.inputsMeasured (m : Mod) (x : Meas) : Mod :=
  let m := (m.set F.PWR_VIN_MV x.vin.toNat).lowest F.PWR_VIN_MIN_MV x.vin.toNat
  let m := (m.set F.PWR_VAUX_MV x.vaux.toNat).lowest F.PWR_VAUX_MIN_MV x.vaux.toNat
  let m := ((m.set F.PWR_VBAT_MV x.vbat.toNat).set F.PWR_HOLDUP_MV x.holdup.toNat).set F.PWR_SCAP_MV x.scap.toNat
  let m := (m.setB F.PWR_STATUS_VAUX_OK (decide (17000 < x.vaux.toNat))).setB F.PWR_STATUS_VBAT_FITTED (decide (1000 < x.vbat.toNat))
  let m := m.setB F.PWR_STATUS_HOLDUP_READY (decide (14000 ≤ x.holdup.toNat))
  let m := m.set F.PWR_STATUS_BACKUP_SRC (if m.flag F.PWR_STATUS_VIN_OK then 0 else if 2400 ≤ x.vbat.toNat then 1 else 2)
  (m.set F.PWR_POWER_MW x.mw.toNat).set F.PWR_POWER_PEAK_MW (max (m.get F.PWR_POWER_PEAK_MW) x.peak.toNat)

/-- What the measurement takes of rail `r`: 0 where the domains it feeds are off. -/
def Mod.railMeasured (x : Meas) (m : Mod) (r : Nat) : Mod :=
  let off := !(railDomains r).isEmpty && (railDomains r).all (fun d => m.pdPh d.val == .off)
  let v := if off then 0 else (x.rails.getD r 0).toNat
  (m.set (F.PWR_RAIL_MV r) v).setB (F.PWR_RAIL_OK r) (decide (95 * railNominal r ≤ 100 * v) && decide (100 * v ≤ 105 * railNominal r))

def Mod.tempMeasured (x : Meas) (m : Mod) (k : Nat) : Mod :=
  (m.set (F.SYS_TEMP_TEMP k) (x.temps.getD k 0).toNat).highestS (F.SYS_TEMP_MAX k) (x.temps.getD k 0).toNat

def Mod.domainMeasured (x : Meas) (m : Mod) (d : Fin 15) : Mod :=
  (m.when (d.val == 0 || m.pdPh d.val != .off) (fun m => m.addWrap (F.PWR_DOMAIN_ON_MS_MS d.val) 1)).set (F.PWR_DOMAIN_CURRENT_MA d.val)
    (if d.val < 2 then 0 else (x.currents.getD d.val 0).toNat)

theorem Mod.supplies_eq (m : Mod) (x : Meas) :
    m.supplies x = (List.finRange 15).foldl (Mod.domainMeasured x) ((List.range 4).foldl (Mod.tempMeasured x)
      ((List.range 8).foldl (Mod.railMeasured x) (m.inputsMeasured x))) := rfl

theorem Only.inputsMeasured (m : Mod) (x : Meas) : Only [] supplyRegs m (m.inputsMeasured x) := by
  unfold Mod.inputsMeasured Mod.lowest
  iterate 13 refine Only.set_mem ?_ _ (by decide)
  exact Only.unchanged m

/-- The fields of the rails, the temperatures and the domains' counts. -/
def perUnitRegs : List Fld :=
  (List.range 8).flatMap (fun r => [F.PWR_RAIL_MV r, F.PWR_RAIL_OK r]) ++ (List.range 4).flatMap (fun k => [F.SYS_TEMP_TEMP k, F.SYS_TEMP_MAX k]) ++
  (List.range 15).flatMap (fun d => [F.PWR_DOMAIN_ON_MS_MS d, F.PWR_DOMAIN_CURRENT_MA d])

theorem Only.railMeasured (x : Meas) (m : Mod) {r : Nat} (hr : r ∈ List.range 8) : Only [] perUnitRegs m (m.railMeasured x r) := by
  have hmem : F.PWR_RAIL_MV r ∈ perUnitRegs ∧ F.PWR_RAIL_OK r ∈ perUnitRegs := by revert r; decide
  exact ((Only.unchanged m).set_mem _ hmem.1).setB_mem _ hmem.2

theorem Only.tempMeasured (x : Meas) (m : Mod) {k : Nat} (hk : k ∈ List.range 4) : Only [] perUnitRegs m (m.tempMeasured x k) := by
  have hmem : F.SYS_TEMP_TEMP k ∈ perUnitRegs ∧ F.SYS_TEMP_MAX k ∈ perUnitRegs := by revert k; decide
  have htemp := (Only.unchanged (ps := []) m).set_mem (x.temps.getD k 0).toNat hmem.1
  unfold Mod.tempMeasured Mod.highestS
  split
  · exact htemp.set_mem _ hmem.2
  · exact htemp

theorem Only.domainMeasured (x : Meas) (m : Mod) (d : Fin 15) : Only [] perUnitRegs m (m.domainMeasured x d) := by
  have hmem : F.PWR_DOMAIN_ON_MS_MS d.val ∈ perUnitRegs ∧ F.PWR_DOMAIN_CURRENT_MA d.val ∈ perUnitRegs := by revert d; decide
  exact (Only.when ((Only.unchanged m).set_mem _ hmem.1)).set_mem _ hmem.2

theorem Only.perUnit_supplies (m : Mod) (x : Meas) : Only [] perUnitRegs (m.inputsMeasured x) (m.supplies x) := by
  rw [Mod.supplies_eq]
  exact ((Only.foldl _ _ fun m _ hr => Only.railMeasured x m hr).trans (Only.foldl _ _ fun m _ hk => Only.tempMeasured x m hk)).trans
    (Only.foldl _ _ fun m d _ => Only.domainMeasured x m d)

theorem Only.supplies (m : Mod) (x : Meas) : Only [] supplyRegs m (m.supplies x) :=
  (Only.inputsMeasured m x).trans ((Only.perUnit_supplies m x).weaken (List.nil_subset _) (by decide))

section

variable (m : Mod) (x : Meas)

theorem Mod.get_supplies_vin : (m.supplies x).get F.PWR_VIN_MV = x.vin.toNat := by
  rw [(Only.perUnit_supplies m x).get (by decide)]
  simp (disch := decide) only [Mod.inputsMeasured, Mod.lowest, Mod.setB, Mod.get_set_apart, Mod.get_set_self]
  exact Nat.mod_eq_of_lt x.vin.isLt

theorem Mod.get_supplies_vinMin : (m.supplies x).get F.PWR_VIN_MIN_MV = min (m.get F.PWR_VIN_MIN_MV) x.vin.toNat := by
  rw [(Only.perUnit_supplies m x).get (by decide)]
  simp (disch := decide) only [Mod.inputsMeasured, Mod.lowest, Mod.setB, Mod.get_set_apart, Mod.get_set_self]
  exact Nat.mod_eq_of_lt ((Nat.min_le_right ..).trans_lt x.vin.isLt)

theorem Mod.get_supplies_peak : (m.supplies x).get F.PWR_POWER_PEAK_MW = max (m.get F.PWR_POWER_PEAK_MW) x.peak.toNat := by
  rw [(Only.perUnit_supplies m x).get (by decide)]
  simp (disch := decide) only [Mod.inputsMeasured, Mod.lowest, Mod.setB, Mod.get_set_apart, Mod.get_set_self]
  exact Nat.mod_eq_of_lt (Nat.max_lt.2 ⟨m.get_lt_two_pow _, x.peak.isLt⟩)

theorem Mod.flag_supplies_holdupReady : (m.supplies x).flag F.PWR_STATUS_HOLDUP_READY = decide (14000 ≤ x.holdup.toNat) := by
  rw [(Only.perUnit_supplies m x).flag (by decide)]
  simp (disch := decide) only [Mod.inputsMeasured, Mod.lowest, Mod.flag_set_apart, Mod.flag_setB_self]

end

/-! ### Repeat and rate windows (R412, R413) -/

/-- A record that is stored changes its own area alone. -/
theorem storeRec_areas (lg : LogSt) (a : Fin 16) (ar : Area) (r : Rec) : ∃ ar', (storeRec lg a ar r).1.areas = lg.areas.set a ar' := by
  unfold storeRec
  dsimp only
  split
  · exact ⟨_, rfl⟩
  · split
    · split <;> exact ⟨_, rfl⟩
    · split
      · split <;> exact ⟨_, rfl⟩
      · split
        · exact ⟨_, rfl⟩
        · split <;> exact ⟨_, rfl⟩

theorem storeRec_areas_ne (lg : LogSt) {a i : Fin 16} (ar : Area) (r : Rec) (h : i ≠ a) : (storeRec lg a ar r).1.areas[i] = lg.areas[i] := by
  obtain ⟨ar', har⟩ := storeRec_areas lg a ar r
  have hne : a.val ≠ i.val := fun he => h (Fin.ext he.symm)
  simp [har, Vector.getElem_set_ne, hne]

/-! ### Slots of the journals and of the retain snapshot (R122, R400) -/

theorem journalDone_get (v : Vector JSlot 2) (k : Fin 2) :
    (journalDone v)[k] = if v[k].writing then { v[k] with ok := true, writing := false } else v[k] := by simp [journalDone]

/-- EXEC_RETAIN as the completion of the snapshot's write leaves it. -/
def Mod.retainDone (m : Mod) : Mod :=
  ({ m with retain := m.retain.map (fun (x : RetainSlot) => if x.writing then { x with ok := true, writing := false } else x) }).retainShow.set
    F.EXEC_RETAIN_WRITING 0

theorem Mod.retainDone_retain (m : Mod) (k : Fin 2) :
    m.retainDone.retain[k] = if m.retain[k].writing then { m.retain[k] with ok := true, writing := false } else m.retain[k] := by
  simp [Mod.retainDone, Mod.retainShow]

theorem Mod.retainDone_flags (m : Mod) :
    m.retainDone.flag F.EXEC_RETAIN_VALID_A = (m.retainDone.retain[(0 : Fin 2)]).ok ∧
    m.retainDone.flag F.EXEC_RETAIN_VALID_B = (m.retainDone.retain[(1 : Fin 2)]).ok ∧ m.retainDone.flag F.EXEC_RETAIN_WRITING = false ∧
    m.retainDone.flag F.EXEC_RETAIN_NEWER = ((m.retainDone.retain[(1 : Fin 2)]).ok && (!(m.retainDone.retain[(0 : Fin 2)]).ok ||
      decide ((m.retainDone.retain[(0 : Fin 2)]).seq < (m.retainDone.retain[(1 : Fin 2)]).seq))) := by
  unfold Mod.retainDone Mod.retainShow
  refine ⟨?_, ?_, ?_, ?_⟩
  case refine_3 => rw [Mod.flag, Mod.get_set_self _ _ (by decide)]; rfl
  all_goals
    simp (disch := decide) only [Mod.flag_set_apart, Mod.flag_setB_apart, Mod.flag_setB_self]
    rfl

theorem Only.retainDone (m : Mod) :
    Only [.retain] [F.EXEC_RETAIN_VALID_A, F.EXEC_RETAIN_VALID_B, F.EXEC_RETAIN_WRITING, F.EXEC_RETAIN_NEWER] m m.retainDone := by
  unfold Mod.retainDone Mod.retainShow Mod.setB
  iterate 4 refine Only.set_mem ?_ _ (by decide)
  exact (Only.of_put rfl).weaken (List.Subset.refl _) (List.nil_subset _)

/-! ### A bank's mark (R42) -/

theorem bitAt_eq_testBit (v i : Nat) : bitAt v i = v.testBit i := by
  rw [bitAt, Nat.testBit, Nat.and_comm, Nat.and_one_is_mod]
  rcases Nat.mod_two_eq_zero_or_one (v >>> i) with h | h <;> simp [h]

/-- The mask of all banks but `b`. -/
theorem testBit_allBut : ∀ b k : Fin 8, (255 - 2 ^ b.val).testBit k.val = decide (k ≠ b) := by decide

theorem bankSuspect_apart : ∀ b : Fin 8, Apart F.TILE_STATUS_SUSPECT (F.TILE_BANK_SUSPECT b.val) := by decide

theorem Mod.suspectClear_bits (m : Mod) (b k : Fin 8) (tag : Option (Nat × Nat)) :
    bitAt ((m.suspectClear b.val tag).get F.TILE_STATUS_SUSPECT) k.val = (bitAt (m.get F.TILE_STATUS_SUSPECT) k.val && decide (k ≠ b)) := by
  rw [Mod.suspectClear, Mod.get_congr (Mod.paramDel_regs ..), Mod.get_set_self _ _ (by decide), bitAt_eq_testBit, bitAt_eq_testBit,
    Nat.testBit_mod_two_pow, Nat.testBit_and, testBit_allBut]
  simp

theorem Mod.suspectClear_flag (m : Mod) (b : Fin 8) (tag : Option (Nat × Nat)) :
    (m.suspectClear b.val tag).flag (F.TILE_BANK_SUSPECT b.val) = false := by
  rw [Mod.suspectClear, Mod.flag, Mod.get_congr (Mod.paramDel_regs ..), Mod.get_set_apart _ _ (bankSuspect_apart b),
    Mod.get_set_self _ _ (by show 8 + 1 ≤ 32; decide)]
  rfl

theorem Only.suspectClear (m : Mod) (b : Nat) (tag : Option (Nat × Nat)) :
    Only [.nvm] [F.TILE_BANK_SUSPECT b, F.TILE_STATUS_SUSPECT] m (m.suspectClear b tag) := by
  have hsets := ((Only.unchanged (ps := [.nvm]) m).set_mem 0 (List.mem_cons_self ..)).set_mem (m.get F.TILE_STATUS_SUSPECT &&& (255 - 2 ^ b))
    (List.mem_cons_of_mem (F.TILE_BANK_SUSPECT b) (List.mem_singleton_self F.TILE_STATUS_SUSPECT))
  exact hsets.trans ((Only.of_put rfl).weaken (List.Subset.refl _) (List.nil_subset _))

/-- What the 1 ms tick leaves. -/
theorem Mod.tick_supplies (m : Mod) (x : Meas) :
    ((m.ctrAdd 0 1).supplies x).optime = m.optime + 1 ∧ (∀ i : Fin 24, i ≠ 0 → ((m.ctrAdd 0 1).supplies x).ctr i = m.ctr i) ∧
    ((m.ctrAdd 0 1).supplies x).nvm = (m.ctrAdd 0 1).nvm ∧
    Only [.nvm] supplyRegs m ((m.ctrAdd 0 1).supplies x) := by
  have hsup := Only.supplies (m.ctrAdd 0 1) x
  have hnvm : ((m.ctrAdd 0 1).supplies x).nvm = (m.ctrAdd 0 1).nvm := hsup.part .nvm List.not_mem_nil
  have hctr (i : Fin 24) : ((m.ctrAdd 0 1).supplies x).ctr i = (m.ctrAdd 0 1).ctr i := by rw [Mod.ctr, Mod.ctr, hnvm]
  have hcount : Only [.nvm] supplyRegs m (m.ctrAdd 0 1) := (Only.of_put rfl).weaken (List.Subset.refl _) (List.nil_subset _)
  refine ⟨(hctr 0).trans (m.ctr_ctrAdd_same 0 1), fun i hi => (hctr i).trans (m.ctr_ctrAdd_ne 1 hi), hnvm,
    hcount.trans (hsup.weaken (List.nil_subset _) (List.Subset.refl _))⟩

/-- Settles O41, command by command: the tick's measurement field by field, the records' stores by the area they touch, the slots and marks
by what the completion leaves. -/
theorem timersSlotsAndReadsOfStorage : Obligations.TimersSlotsAndReadsOfStorage := by
  unfold Obligations.TimersSlotsAndReadsOfStorage
  intro s x a num win t h seq block b ar hwf
  refine ⟨?_, ?_, ?_, ?_, ?_, ?_, ?_, ?_, ?_, ?_, ?_, ?_, ?_, ?_⟩
  case refine_1 =>
    intro hon
    refine Does.of_onMod (exec_optimeTick x s) (if_pos hon) ?_
    obtain ⟨hoptime, hctr, hnvm, honly⟩ := s.m.tick_supplies x
    have hget (f : Fld) : (s.m.ctrAdd 0 1).get f = s.m.get f := Mod.get_congr (Mod.ctrAdd_regs ..) f
    exact ⟨hoptime, Mod.get_supplies_vin _ x, by rw [Mod.get_supplies_vinMin, hget], by rw [Mod.get_supplies_peak, hget],
      Mod.flag_supplies_holdupReady _ x, hctr, by rw [hnvm]; rfl, honly⟩
  case refine_2 =>
    intro hoff
    exact exec_of_onMod_unchanged (exec_optimeTick x s) (if_neg (by simp [hoff]))
  case refine_3 =>
    intro hhold hover
    refine Does.of_onMod (exec_repeatHoldExpiry a s) (by simp only [hhold]; exact if_neg (by omega)) ⟨rfl, Only.of_put rfl⟩
  case refine_4 =>
    intro hyoung
    refine exec_of_onMod_unchanged (exec_repeatHoldExpiry a s) ?_
    cases hhold : s.m.logs.areas[a].hold with
    | none => rfl
    | some t =>
      rw [hhold, Option.all_some, decide_eq_true_eq] at hyoung
      exact if_pos hyoung
  case refine_5 =>
    intro hwin
    refine Does.of_onMod (exec_rateWindowClose a num s) rfl ⟨?_, ?_, Only.logged ..⟩
    · simp only [closeWin, hwin]; rfl
    · intro i hi
      simp only [closeWin, hwin]
      exact storeRec_areas_ne _ _ _ hi
  case refine_6 =>
    intro hnone
    refine exec_of_onMod_unchanged (exec_rateWindowClose a num s) ?_
    simp only [closeWin, hnone]
    rfl
  case refine_7 => exact Does.of_onMod (exec_slotWriteComplete 0 s) (if_pos rfl) ⟨rfl, journalDone_get _, Only.of_put rfl⟩
  case refine_8 => exact Does.of_onMod (exec_slotWriteComplete 1 s) (if_neg (by decide)) ⟨rfl, journalDone_get _, Only.of_put rfl⟩
  case refine_9 =>
    obtain ⟨hA, hB, hwriting, hnewer⟩ := s.m.retainDone_flags
    exact Does.of_onMod (m' := s.m.retainDone) (exec_slotWriteComplete 2 s) rfl
      ⟨s.m.retainDone_retain, hA, hB, hwriting, hnewer, Only.retainDone s.m⟩
  case refine_10 => exact Does.of_onMod (exec_storedSetWrite h seq block s) rfl ⟨rfl, Only.of_put rfl⟩
  case refine_11 => exact Does.of_onMod (exec_nvmOptimeLoRead s) rfl ⟨rfl, Only.of_put rfl⟩
  case refine_12 => exact Does.of_onMod (exec_timeNowLoRead s) rfl ⟨rfl, Only.of_put rfl⟩
  case refine_13 =>
    intro hrole
    exact Does.of_onMod (exec_suspectClear h b s) (by rw [hrole]; rfl)
      ⟨s.m.suspectClear_flag b none, fun k => s.m.suspectClear_bits b k none, rfl, Only.suspectClear s.m b.val none⟩
  case refine_14 =>
    intro hrole
    exact exec_of_onMod_unchanged (exec_suspectClear h b s) (by rw [hrole]; rfl)

end Sys2Proof.Machine

end

/-! PROOFS. The family 02_point_image_and_tiles.md, the pair, pass-through and diagnostics (O55). -/

section

namespace Sys2Proof.Machine

/-! ### Outputs one by one -/

theorem Mod.outMap_same (m : Mod) (o : Fin 48) (f : OutSt → OutSt) : (m.outMap o f).outs[o] = f m.outs[o] := by
  simp [Mod.outMap]

theorem Mod.outMap_ne (m : Mod) {o i : Fin 48} (f : OutSt → OutSt) (h : i ≠ o) : (m.outMap o f).outs[i] = m.outs[i] := by
  have hne : o.val ≠ i.val := fun he => h (Fin.ext he.symm)
  simp [Mod.outMap, Vector.getElem_set_ne, hne]

theorem outKind_do_iff (o : Nat) : outKind o = .do_ ↔ o < 24 := by
  unfold outKind
  split_ifs <;> simp <;> omega

theorem outKind_ao_iff (o : Nat) : outKind o = .ao ↔ 24 ≤ o ∧ o < 32 := by
  unfold outKind
  split_ifs <;> simp <;> omega

theorem outKind_lt_iff (o : Nat) : outKind o = .lt ↔ 40 ≤ o := by
  unfold outKind
  split_ifs <;> simp <;> omega

section

variable {s : State} {h : BitVec 10} {seq : BitVec 32} {x : Sess} {c : Cmd}

theorem begun_showRegs (l : List Nat) : (begun s h seq).showRegs x l = s.m.showRegs x l := by
  simp only [Mod.showRegs, begun_peek]

/-! ### The pair (R383) -/

theorem Mod.badState_set_swapLast (m : Mod) (v : Nat) : (m.set F.TWIN_SWAP_LAST v).badState = (m.set F.TWIN_SWAP_LAST v, m.badState.2) := by
  simp (disch := decide) only [Mod.badState, Mod.stateDetail, Mod.st, Mod.get_set_apart]

theorem opTwinSwap_armed (hr : Ready s h seq 0x0C01 x c) (hrole : bitAt 12 x.roleBit = true) (hmode : s.m.get F.TWIN_STATUS_MODE = 2)
    (hbar : s.m.flag F.TWIN_STATUS_HOLDS_BAR = true) (hpeer : s.m.twin.peerReady = true) {P : Mod → Prop}
    (hP : P { begun s h seq with twin := { s.m.twin with swapAt := some s.m.twoSecondsOn } }) :
    Executes (.opTwinSwap h seq) s h c (.ok []) P := by
  refine Executes.of_opRow (exec_opTwinSwap h seq s) hr rfl hrole rfl ?_ hP
  have hready : ¬(!(begun s h seq).flag F.TWIN_STATUS_HOLDS_BAR || !(begun s h seq).twin.peerReady) = true := by
    show ¬(!s.m.flag F.TWIN_STATUS_HOLDS_BAR || !s.m.twin.peerReady) = true
    simp [hbar, hpeer]
  exact (if_neg (not_not.2 hmode)).trans (if_neg hready)

theorem opTwinSwap_notReady (hr : Ready s h seq 0x0C01 x c) (hrole : bitAt 12 x.roleBit = true) (hmode : s.m.get F.TWIN_STATUS_MODE = 2)
    (hnot : s.m.flag F.TWIN_STATUS_HOLDS_BAR = false ∨ s.m.twin.peerReady = false) {P : Mod → Prop}
    (hP : P ((begun s h seq).set F.TWIN_SWAP_LAST 2)) : Executes (.opTwinSwap h seq) s h c s.m.badState.2 P := by
  refine Executes.of_opRow (exec_opTwinSwap h seq s) hr rfl hrole rfl ?_ hP
  have hready : (!(begun s h seq).flag F.TWIN_STATUS_HOLDS_BAR || !(begun s h seq).twin.peerReady) = true := by
    show (!s.m.flag F.TWIN_STATUS_HOLDS_BAR || !s.m.twin.peerReady) = true
    rcases hnot with hbar | hpeer
    · simp [hbar]
    · simp [hpeer]
  exact (if_neg (not_not.2 hmode)).trans ((if_pos hready).trans (Mod.badState_set_swapLast ..))

/-! ### Pass-through (R348) -/

/-- The exchange that OP_BUS_XFER queues. -/
def passQueued (s : State) (h : BitVec 10) (c : Cmd) : PassX :=
  { handle := s.m.ports.handle, session := s.m.sessKey h.toNat, port := par c.params 0 1, station := par c.params 2 2, data := c.params.drop 10 }

/-- The exchanges that stand after OP_BUS_XFER: those that wait for a result, and those whose result is still held. -/
def passKept (s : State) (h : BitVec 10) (c : Cmd) : List PassX :=
  (s.m.ports.pass ++ [passQueued s h c]).filter fun y =>
    y.result.isNone || !passExpired s.m.optime (s.m.ports.pass ++ [passQueued s h c]) y

theorem mem_passKept {e : PassX} (he : e ∈ s.m.ports.pass ++ [passQueued s h c]) (hnone : e.result = none) : e ∈ passKept s h c :=
  List.mem_filter.2 ⟨he, by simp [hnone]⟩

theorem opBusXfer_queued (hr : Ready s h seq 0x0D00 x c) (hrole : bitAt 12 x.roleBit = true)
    (hport : (par c.params 0 1 < 19 ∧ s.m.get (F.FBUS_CFG_PASS (par c.params 0 1)) ≠ 0) ∨ (32 ≤ par c.params 0 1 ∧ par c.params 0 1 < 40))
    (hlen : par c.params 8 2 ≤ 1024) {P : Mod → Prop}
    (hP : P { begun s h seq with ports := { s.m.ports with handle := s.m.ports.handle + 1, pass := passKept s h c } }) :
    Executes (.opBusXfer h seq) s h c (.ok (leBytes 2 s.m.ports.handle)) P := by
  refine Executes.of_opRow (exec_opBusXfer h seq s) hr rfl hrole rfl ?_ hP
  have hcode : ¬(!(decide (par c.params 0 1 < 19) || (decide (32 ≤ par c.params 0 1) && decide (par c.params 0 1 < 40)))) = true := by
    simp; omega
  have hpass : ¬(par c.params 0 1 < 19 ∧ s.m.get (F.FBUS_CFG_PASS (par c.params 0 1)) = 0) := by
    rintro ⟨hlt, hzero⟩
    rcases hport with ⟨-, hne⟩ | ⟨hge, -⟩
    · exact hne hzero
    · omega
  exact (if_neg hcode).trans ((if_neg (Nat.not_lt.2 hlen)).trans (if_neg hpass))

/-- What OP_BUS_RESULT answers for the exchange that it finds under the handle `n`. -/
def passAnswer (m : Mod) (n : Nat) : Option PassX → Res
  | none => .fail 0x42 n
  | some y =>
    if passExpired m.optime m.ports.pass y then .fail 0x42 n
    else match y.result with
      | none => .fail 0x41 n
      | some none => .ok (leBytes 2 0x43 ++ leBytes 2 0)
      | some (some d) => .ok (leBytes 2 0 ++ leBytes 2 d.length ++ d)

theorem opBusResult_answers (hr : Ready s h seq 0x0D01 x c) (hrole : bitAt 12 x.roleBit = true) {y : Option PassX}
    (hmine : (s.m.ports.pass.filter fun e => e.handle % 65536 == par c.params 0 2 && e.session == s.m.sessKey h.toNat).getLast? = y)
    {r : Res} (hans : passAnswer s.m (par c.params 0 2) y = r) :
    Executes (.opBusResult h seq) s h c r fun m => Only [] [] (begun s h seq) m := by
  subst hans
  refine Executes.of_opRow (exec_opBusResult h seq s) hr rfl hrole rfl ?_ (Only.refl _)
  have hmine : ((begun s h seq).ports.pass.filter fun e => e.handle % 65536 == par c.params 0 2 && e.session == s.m.sessKey h.toNat).getLast? = y :=
    hmine
  simp only [hmine]
  cases y with
  | none => rfl
  | some y =>
    simp only [passAnswer]
    by_cases hexp : passExpired s.m.optime s.m.ports.pass y = true
    · exact (if_pos hexp).trans (by rw [if_pos hexp])
    · refine (if_neg hexp).trans ?_
      rw [if_neg hexp]
      rcases y.result with _ | _ | d <;> rfl

theorem opBusRecv_answers (hr : Ready s h seq 0x0D02 x c) (hrole : bitAt 12 x.roleBit = true) {l : List (List Byte)}
    (hstream : s.m.stream (par c.params 0 1) = some l) (hlen : par c.params 2 2 ≤ 1024) :
    Executes (.opBusRecv h seq) s h c (.ok (leBytes 4 (min (par c.params 4 4) l.length +
      (fitItems (par c.params 2 2) (l.drop (par c.params 4 4))).length) ++ leBytes 4 0 ++
      (fitItems (par c.params 2 2) (l.drop (par c.params 4 4))).flatten)) fun m => Only [] [] (begun s h seq) m := by
  refine Executes.of_opRow (exec_opBusRecv h seq s) hr rfl hrole rfl ?_ (Only.refl _)
  have hstream : (begun s h seq).stream (par c.params 0 1) = some l := hstream
  simp only [hstream]
  exact if_neg (Nat.not_lt.2 hlen)

theorem opBusRecv_noStream (hr : Ready s h seq 0x0D02 x c) (hrole : bitAt 12 x.roleBit = true) (hstream : s.m.stream (par c.params 0 1) = none) :
    Executes (.opBusRecv h seq) s h c (.fail 2 0) fun m => Only [] [] (begun s h seq) m := by
  refine Executes.of_opRow (exec_opBusRecv h seq s) hr rfl hrole rfl ?_ (Only.refl _)
  have hstream : (begun s h seq).stream (par c.params 0 1) = none := hstream
  simp only [hstream]

theorem opBusRecv_badCount (hr : Ready s h seq 0x0D02 x c) (hrole : bitAt 12 x.roleBit = true) {l : List (List Byte)}
    (hstream : s.m.stream (par c.params 0 1) = some l) (hlen : 1024 < par c.params 2 2) :
    Executes (.opBusRecv h seq) s h c (.fail 2 2) fun m => Only [] [] (begun s h seq) m := by
  refine Executes.of_opRow (exec_opBusRecv h seq s) hr rfl hrole rfl ?_ (Only.refl _)
  have hstream : (begun s h seq).stream (par c.params 0 1) = some l := hstream
  simp only [hstream]
  exact if_pos hlen

/-! ### Test values (R109) -/

theorem opDiagOutput_noOutput (hr : Ready s h seq 0x0E00 x c) (hrole : bitAt 8 x.roleBit = true) (hout : diagOut (par c.params 0 1) = none) :
    Executes (.opDiagOutput h seq) s h c (.fail 2 0) fun m => Only [] [] (begun s h seq) m := by
  refine Executes.of_opRow (exec_opDiagOutput h seq s) hr rfl hrole rfl ?_ (Only.refl _)
  simp only [hout]

/-- A test value is refused outside SERVICE, to another session, and to an output that the peer drives. -/
theorem testRefused_iff (serves peer : Bool) (o : Nat) :
    (!serves || (peer && outKind o != .lt)) = true ↔ serves = false ∨ (peer = true ∧ o < 40) := by
  simp [outKind_lt_iff]

theorem not_testRefused {serves peer : Bool} {o : Nat} (hserves : serves = true) (hpeer : peer = false ∨ 40 ≤ o) :
    ¬(!serves || (peer && outKind o != .lt)) = true := by
  rw [testRefused_iff, hserves]
  rcases hpeer with hpeer | hlt
  · simp [hpeer]
  · simp; omega

/-- The test value that OP_DIAG_OUTPUT sets. -/
def testValue (o v : Nat) : OutVal := if o < 24 then (if v = 1 then .on else .off) else .value (BitVec.ofNat 32 v)

section

variable {o : Fin 48} (hr : Ready s h seq 0x0E00 x c) (hrole : bitAt 8 x.roleBit = true) (hout : diagOut (par c.params 0 1) = some o)
include hr hrole hout

theorem opDiagOutput_refused (hno : s.m.serves (s.m.sessKey h.toNat) = false ∨ (s.m.peerHolds = true ∧ o.val < 40)) :
    Executes (.opDiagOutput h seq) s h c s.m.badState.2 fun m => Only [] [] (begun s h seq) m := by
  refine Executes.of_opRow (exec_opDiagOutput h seq s) hr rfl hrole rfl ?_ (Only.refl _)
  simp only [hout]
  exact if_pos ((testRefused_iff ..).2 hno)

section

variable (hserves : s.m.serves (s.m.sessKey h.toNat) = true) (hpeer : s.m.peerHolds = false ∨ 40 ≤ o.val)
include hserves hpeer

theorem opDiagOutput_set (hdo : o.val < 24 → par c.params 4 4 ≤ 1)
    (hao : 24 ≤ o.val → o.val < 32 → s.m.get (F.FIO_AO_CFG_MODE (o.val - 24)) ≠ 0) {P : Mod → Prop}
    (hP : P ((begun s h seq).outMap o fun u => { u with test := some (testValue o.val (par c.params 4 4)) })) :
    Executes (.opDiagOutput h seq) s h c (.ok []) P := by
  refine Executes.of_opRow (exec_opDiagOutput h seq s) hr rfl hrole rfl ?_ hP
  have hv : ¬(outKind o.val = .do_ ∧ 1 < par c.params 4 4) := by
    rintro ⟨hk, hlt⟩
    exact absurd (hdo ((outKind_do_iff _).1 hk)) (by omega)
  have hm : ¬(outKind o.val = .ao ∧ s.m.get (F.FIO_AO_CFG_MODE (o.val - 24)) = 0) := by
    rintro ⟨hk, hzero⟩
    obtain ⟨hlo, hhi⟩ := (outKind_ao_iff _).1 hk
    exact hao hlo hhi hzero
  simp only [hout]
  refine (if_neg (not_testRefused hserves hpeer)).trans ((if_neg hv).trans ((if_neg hm).trans ?_))
  simp only [outKind_do_iff]
  rfl

theorem opDiagOutput_badDo (hdo : o.val < 24) (hv : 1 < par c.params 4 4) :
    Executes (.opDiagOutput h seq) s h c (.fail 2 4) fun m => Only [] [] (begun s h seq) m := by
  refine Executes.of_opRow (exec_opDiagOutput h seq s) hr rfl hrole rfl ?_ (Only.refl _)
  simp only [hout]
  exact (if_neg (not_testRefused hserves hpeer)).trans (if_pos ⟨(outKind_do_iff _).2 hdo, hv⟩)

theorem opDiagOutput_aoOff (hlo : 24 ≤ o.val) (hhi : o.val < 32) (hmode : s.m.get (F.FIO_AO_CFG_MODE (o.val - 24)) = 0) :
    Executes (.opDiagOutput h seq) s h c (.fail 2 0) fun m => Only [] [] (begun s h seq) m := by
  refine Executes.of_opRow (exec_opDiagOutput h seq s) hr rfl hrole rfl ?_ (Only.refl _)
  have hv : ¬(outKind o.val = .do_ ∧ 1 < par c.params 4 4) := by rw [outKind_do_iff]; omega
  simp only [hout]
  exact (if_neg (not_testRefused hserves hpeer)).trans ((if_neg hv).trans (if_pos ⟨(outKind_ao_iff _).2 ⟨hlo, hhi⟩, hmode⟩))

end

end

section

variable (hr : Ready s h seq 0x0E01 x c) (hrole : bitAt 8 x.roleBit = true)
include hr hrole

theorem opDiagRelease_refused (hcode : par c.params 0 1 = 0xFF ∨ (diagOut (par c.params 0 1)).isSome = true)
    (hserves : s.m.serves (s.m.sessKey h.toNat) = false) :
    Executes (.opDiagRelease h seq) s h c s.m.badState.2 fun m => Only [] [] (begun s h seq) m := by
  refine Executes.of_opRow (exec_opDiagRelease h seq s) hr rfl hrole rfl ?_ (Only.refl _)
  have hgood : ¬(par c.params 0 1 ≠ 0xFF ∧ (diagOut (par c.params 0 1)).isNone = true) := by
    rintro ⟨hne, hnone⟩
    rcases hcode with hall | hsome
    · exact hne hall
    · simp_all
  have hno : (!s.m.serves (s.m.sessKey h.toNat)) = true := by simp [hserves]
  exact (if_neg hgood).trans (if_pos hno)

variable (hserves : s.m.serves (s.m.sessKey h.toNat) = true)
include hserves

theorem opDiagRelease_one {o : Fin 48} (hout : diagOut (par c.params 0 1) = some o) {P : Mod → Prop}
    (hP : P ((begun s h seq).outMap o fun u => { u with test := none })) : Executes (.opDiagRelease h seq) s h c (.ok []) P := by
  refine Executes.of_opRow (exec_opDiagRelease h seq s) hr rfl hrole rfl ?_ hP
  have hyes : ¬(!s.m.serves (s.m.sessKey h.toNat)) = true := by simp [hserves]
  simp only [hout]
  exact (if_neg (by simp)).trans (if_neg hyes)

/-- Code 0xFF names no output and takes every test value back. -/
theorem opDiagRelease_all (hcode : par c.params 0 1 = 0xFF) {P : Mod → Prop}
    (hP : P { begun s h seq with outs := s.m.outs.map fun u => { u with test := none } }) : Executes (.opDiagRelease h seq) s h c (.ok []) P := by
  refine Executes.of_opRow (exec_opDiagRelease h seq s) hr rfl hrole rfl ?_ hP
  have hyes : ¬(!s.m.serves (s.m.sessKey h.toNat)) = true := by simp [hserves]
  have hnone : diagOut 0xFF = none := by decide
  simp only [hcode, hnone]
  exact (if_neg (by simp)).trans (if_neg hyes)

end

/-! ### Bank tests (R349) -/

theorem mem_cons_filter_ne {p q : Nat} (h : q ≠ p) (l : List Nat) : q ∈ p :: l.filter (· != p) ↔ q ∈ l := by
  simp [h]

section

variable (hr : Ready s h seq 0x0E02 x c) (hrole : bitAt 8 x.roleBit = true) (hbank : par c.params 0 1 ≤ 7)
include hr hrole hbank

theorem opDiagBanktest_started (hst : s.m.st = xStopped ∨ s.m.st = xService) {P : Mod → Prop}
    (hP : P { begun s h seq with mem := { s.m.mem with testing := par c.params 0 1 :: s.m.mem.testing.filter (· != par c.params 0 1) } }) :
    Executes (.opDiagBanktest h seq) s h c (.ok []) P := by
  refine Executes.of_opRow (exec_opDiagBanktest h seq s) hr rfl hrole rfl ?_ hP
  have hstate : ¬(s.m.st ≠ xStopped ∧ s.m.st ≠ xService) := by omega
  exact (if_neg (Nat.not_lt.2 hbank)).trans (if_neg hstate)

theorem opDiagBanktest_refused (hst : s.m.st ≠ xStopped) (hsv : s.m.st ≠ xService) :
    Executes (.opDiagBanktest h seq) s h c s.m.badState.2 fun m => Only [] [] (begun s h seq) m := by
  refine Executes.of_opRow (exec_opDiagBanktest h seq s) hr rfl hrole rfl ?_ (Only.refl _)
  have hstate : s.m.st ≠ xStopped ∧ s.m.st ≠ xService := ⟨hst, hsv⟩
  exact (if_neg (Nat.not_lt.2 hbank)).trans (if_pos hstate)

end

/-! ### Counters (R350) -/

theorem counterRegs_none {b : Nat} (h : 19 < b) : counterRegs b = none := by
  unfold counterRegs
  split
  case h_21 => rfl
  all_goals omega

theorem opDiagCounters_answers (hr : Ready s h seq 0x0E03 x c) (hrole : bitAt 28 x.roleBit = true) {l : List Nat}
    (hregs : counterRegs (par c.params 0 1) = some l) :
    Executes (.opDiagCounters h seq) s h c (.ok (s.m.showRegs x l)) fun m => Only [] [] (begun s h seq) m := by
  refine Executes.of_opRow (exec_opDiagCounters h seq s) hr rfl hrole rfl ?_ (Only.refl _)
  simp only [hregs]
  rw [begun_showRegs]

theorem opDiagCounters_noBlock (hr : Ready s h seq 0x0E03 x c) (hrole : bitAt 28 x.roleBit = true) (hblock : 19 < par c.params 0 1) :
    Executes (.opDiagCounters h seq) s h c (.fail 2 0) fun m => Only [] [] (begun s h seq) m := by
  refine Executes.of_opRow (exec_opDiagCounters h seq s) hr rfl hrole rfl ?_ (Only.refl _)
  simp only [counterRegs_none hblock]

end

/-! ### A bank's faults (R41) -/

theorem satNat_eq_min (w v : Nat) : satNat w v = min v (2 ^ w - 1) := by
  unfold satNat
  split <;> omega

theorem satNat_satNat_add (w v n : Nat) : satNat w (satNat w v + n) = satNat w (v + n) := by
  simp only [satNat_eq_min]
  omega

theorem satNat_lt (w v : Nat) : satNat w v < 2 ^ w := by
  have := Nat.two_pow_pos w
  rw [satNat_eq_min]
  omega

/-- What a fault of bank `b` may change among the registers. -/
abbrev bankFaultRegs (b : Fin 8) : List Fld :=
  [F.LOG_STATUS_WAB_FULL, F.TILE_STATUS_SUSPECT, F.TILE_BANK_SUSPECT b.val, F.TILE_BANK_TOTAL b.val, F.TILE_BANK_RECENT b.val]

/-- From `m` to `m'` the bank has counted `n` more faults; of memory only the times of its faults have changed. -/
structure BankFaulted (b : Fin 8) (n : Nat) (m m' : Mod) : Prop where
  testing : m'.mem.testing = m.mem.testing
  cells : m'.mem.cells = m.mem.cells
  total : m'.get (F.TILE_BANK_TOTAL b.val) = satNat 16 (m.get (F.TILE_BANK_TOTAL b.val) + n)
  only : Only [.mem, .logs, .plan, .nvm] (bankFaultRegs b) m m'

theorem BankFaulted.trans {b : Fin 8} {n k : Nat} {m m' m'' : Mod} (h : BankFaulted b n m m') (h' : BankFaulted b k m' m'') :
    BankFaulted b (n + k) m m'' :=
  ⟨h'.testing.trans h.testing, h'.cells.trans h.cells, by rw [h'.total, h.total, satNat_satNat_add, Nat.add_assoc], h.only.trans h'.only⟩

theorem BankFaulted.refl (b : Fin 8) (m : Mod) : BankFaulted b 0 m m :=
  ⟨rfl, rfl, (if_pos (m.get_lt_two_pow _)).symm, Only.unchanged m⟩

/-- The fault counted, before the bank is marked. -/
def Mod.bankCounted (m : Mod) (b : Fin 8) (times : List Nat) (recent : Nat) : Mod :=
  (({ m with mem := { m.mem with bankTimes := m.mem.bankTimes.set b times } }).addSat (F.TILE_BANK_TOTAL b.val) 1).set (F.TILE_BANK_RECENT b.val)
    recent

/-- The fields of a bank's mark and of the record of it. -/
abbrev bankMarkRegs (b : Fin 8) : List Fld := [F.LOG_STATUS_WAB_FULL, F.TILE_STATUS_SUSPECT, F.TILE_BANK_SUSPECT b.val]

/-- The bank marked SUSPECT, and a replan asked for. -/
def Mod.bankMark (m : Mod) (b : Fin 8) : Mod :=
  let m := (m.set (F.TILE_BANK_SUSPECT b.val) 1).set F.TILE_STATUS_SUSPECT (m.get F.TILE_STATUS_SUSPECT ||| 2 ^ b.val)
  { m with plan := { m.plan with replan := true } }

/-- The mark with its record in the parameter store and in the log (R41, R42). -/
def Mod.bankMarked (m : Mod) (b : Fin 8) : Mod :=
  ((m.bankMark b).paramPut (keySuspect b.val) [1]).log .bankSuspect b.val [BitVec.ofNat 8 b.val]

theorem Mod.bankFault_eq (m : Mod) (b : Fin 8) : ∃ times recent suspect, m.bankFault b =
    (m.bankCounted b times recent).when suspect (fun m => m.bankMarked b) := ⟨_, _, _, rfl⟩

theorem bankFaulted_bankCounted (m : Mod) (b : Fin 8) (times : List Nat) (recent : Nat) : BankFaulted b 1 m (m.bankCounted b times recent) := by
  refine ⟨rfl, rfl, ?_, ?_⟩
  · have hrecent : Apart (F.TILE_BANK_RECENT b.val) (F.TILE_BANK_TOTAL b.val) := by revert b; decide
    rw [Mod.bankCounted, Mod.get_set_apart _ _ hrecent, Mod.addSat, Mod.get_set_self _ _ (by show 16 + 16 ≤ 32; decide)]
    exact Nat.mod_eq_of_lt (satNat_lt ..)
  · have htimes : Only [.mem, .logs, .plan, .nvm] (bankFaultRegs b) m
        { m with mem := { m.mem with bankTimes := m.mem.bankTimes.set b times } } :=
      (Only.of_put (p := .mem) rfl).weaken (by decide) (List.nil_subset _)
    exact (htimes.set_mem _ (by simp)).set_mem _ (by simp)

theorem bankTotal_apart : ∀ b : Fin 8, ∀ f ∈ bankMarkRegs b, Apart f (F.TILE_BANK_TOTAL b.val) := by decide

theorem Only.bankMarked (m : Mod) (b : Fin 8) : Only [.logs, .plan, .nvm] (bankMarkRegs b) m (m.bankMarked b) := by
  have hmark : Only [.logs, .plan, .nvm] (bankMarkRegs b) m (m.bankMark b) :=
    (((Only.unchanged m).set_mem 1 (by simp)).set_mem (m.get F.TILE_STATUS_SUSPECT ||| 2 ^ b.val) (by simp)).put_mem .plan (by decide) rfl
  have hstored : Only [.logs, .plan, .nvm] (bankMarkRegs b) m ((m.bankMark b).paramPut (keySuspect b.val) [1]) :=
    hmark.put_mem .nvm (by decide) rfl
  exact hstored.trans ((Only.log ..).weaken (by decide) (by simp))

theorem bankFaulted_bankMarked (m : Mod) (b : Fin 8) : BankFaulted b 0 m (m.bankMarked b) := by
  have honly := Only.bankMarked m b
  have hmem : (m.bankMarked b).mem = m.mem := honly.part .mem (by decide)
  refine ⟨by rw [hmem], by rw [hmem], ?_, honly.weaken (by decide) (by simp)⟩
  rw [honly.get (bankTotal_apart b)]
  exact (if_pos (m.get_lt_two_pow _)).symm

theorem bankFaulted_bankFault (m : Mod) (b : Fin 8) : BankFaulted b 1 m (m.bankFault b) := by
  obtain ⟨times, recent, suspect, heq⟩ := m.bankFault_eq b
  have hcounted := bankFaulted_bankCounted m b times recent
  rw [heq]
  cases suspect
  · exact hcounted
  · exact hcounted.trans (bankFaulted_bankMarked _ b)

theorem bankFaulted_foldl (b : Fin 8) : ∀ (l : List Nat) (m : Mod), BankFaulted b l.length m (l.foldl (fun m _ => m.bankFault b) m)
  | [], m => BankFaulted.refl b m
  | _ :: l, m => by
    rw [List.length_cons, Nat.add_comm]
    exact (bankFaulted_bankFault m b).trans (bankFaulted_foldl b l _)

/-- The bank is tested no longer. -/
def Mod.testEnded (m : Mod) (b : Fin 8) : Mod := { m with mem := { m.mem with testing := m.mem.testing.filter (· != b.val) } }

/-- The bank's test at its end, `n` tiles having failed (R349). -/
def Mod.bankTested (m : Mod) (b : Fin 8) (n : Nat) : Mod :=
  ((List.range n).foldl (fun (m : Mod) _ => m.bankFault b) (m.testEnded b)).log .bankTest b.val []

theorem Only.testEnded (m : Mod) (b : Fin 8) : Only [.mem] [] m (m.testEnded b) := Only.of_put rfl

theorem Mod.bankTested_none (m : Mod) (b : Fin 8) : Only [.mem, .logs] [F.LOG_STATUS_WAB_FULL] m (m.bankTested b 0) :=
  ((Only.testEnded m b).weaken (by decide) (List.nil_subset _)).trans ((Only.log ..).weaken (by decide) (List.Subset.refl _))

theorem bankFaulted_bankTested (m : Mod) (b : Fin 8) (n : Nat) : BankFaulted b n (m.testEnded b) (m.bankTested b n) := by
  have hfaults := bankFaulted_foldl b (List.range n) (m.testEnded b)
  rw [List.length_range] at hfaults
  have hlog : Only [.logs] [F.LOG_STATUS_WAB_FULL] _ (m.bankTested b n) := Only.log ..
  refine ⟨hfaults.testing, hfaults.cells, ?_, hfaults.only.trans (hlog.weaken (by decide) (by simp))⟩
  rw [hlog.get (by simpa using bankTotal_apart b F.LOG_STATUS_WAB_FULL (by simp)), hfaults.total]

/-- Settles O55, row by row: each command's row with its conditions decided, and the end of a bank test by the faults that its tiles count. -/
theorem pairBusAndDiagnosticCommandsAnswerAndAct : Obligations.PairBusAndDiagnosticCommandsAnswerAndAct := by
  unfold Obligations.PairBusAndDiagnosticCommandsAnswerAndAct
  intro s h seq x c o l regs b d y bad k p n v items busOk mine testv hwf
  refine ⟨?_, ?_, ?_, ?_, ?_, ?_, ?_, ?_, ?_, ?_, ?_, ?_, ?_, ?_, ?_, ?_, ?_, ?_, ?_, ?_, ?_, ?_, ?_, ?_, ?_, ?_, ?_, ?_, ?_, ?_, ?_, ?_, ?_, ?_⟩
  case refine_1 =>
    intro hr hrole
    exact Executes.of_opRow (exec_opTwinStatus h seq s) hr rfl hrole rfl (by rw [begun_showRegs]) (Only.refl _)
  case refine_2 =>
    intro hr hrole hmode hbar hpeer
    exact opTwinSwap_armed hr hrole hmode hbar hpeer ⟨rfl, Only.of_put rfl⟩
  case refine_3 =>
    intro hr hrole hmode hnot
    exact opTwinSwap_notReady hr hrole hmode hnot ⟨Mod.get_set_self _ _ (by decide), Only.set ..⟩
  case refine_4 =>
    intro hr hrole hmode
    exact Executes.of_opRow (exec_opTwinSwap h seq s) hr rfl hrole rfl (if_pos hmode) ⟨Mod.get_set_self _ _ (by decide), Only.set ..⟩
  case refine_5 =>
    intro hr hrole hport hlen
    refine opBusXfer_queued hr hrole hport hlen ⟨rfl, ?_, rfl, fun e he hnone => ?_, Only.of_put rfl⟩
    · exact mem_passKept (e := passQueued s h c) (by simp) rfl
    · exact mem_passKept (List.mem_append_left _ he) hnone
  case refine_6 =>
    intro hr hrole hport hpass hlen
    have hcode : ¬(!(decide (p < 19) || (decide (32 ≤ p) && decide (p < 40)))) = true := by simp; omega
    exact Executes.of_opRow (exec_opBusXfer h seq s) hr rfl hrole rfl
      ((if_neg hcode).trans ((if_neg (Nat.not_lt.2 hlen)).trans (if_pos ⟨hport, hpass⟩))) (Only.refl _)
  case refine_7 =>
    intro hr hrole hport
    exact Executes.of_opRow (exec_opBusXfer h seq s) hr rfl hrole rfl (if_pos (by simp; omega)) (Only.refl _)
  case refine_8 =>
    intro hr hrole hport hlen
    exact Executes.of_opRow (exec_opBusXfer h seq s) hr rfl hrole rfl ((if_neg (by simp; omega)).trans (if_pos hlen)) (Only.refl _)
  case refine_9 =>
    intro hr hrole hnone
    exact opBusResult_answers hr hrole hnone rfl
  case refine_10 =>
    intro hr hrole hmine hheld hres
    exact opBusResult_answers hr hrole hmine (by simp [passAnswer, hheld, hres])
  case refine_11 =>
    intro hr hrole hmine hheld hres
    exact opBusResult_answers hr hrole hmine (by simp [passAnswer, hheld, hres])
  case refine_12 =>
    intro hr hrole hmine hheld hres
    exact opBusResult_answers hr hrole hmine (by simp [passAnswer, hheld, hres]; rfl)
  case refine_13 =>
    intro hr hrole hmine hexp
    exact opBusResult_answers hr hrole hmine (if_pos hexp)
  case refine_14 =>
    intro hr hrole hstream hlen
    exact opBusRecv_answers hr hrole hstream hlen
  case refine_15 =>
    intro hr hrole hstream hlen
    exact opBusRecv_badCount hr hrole hstream hlen
  case refine_16 =>
    intro hr hrole hstream
    exact opBusRecv_noStream hr hrole hstream
  case refine_17 =>
    intro hr hrole hout hserves hpeer hdo hao
    exact opDiagOutput_set hr hrole hout hserves hpeer hdo hao
      ⟨Mod.outMap_same .., fun i hi => Mod.outMap_ne _ _ hi, Only.of_put rfl⟩
  case refine_18 =>
    intro hr hrole hout
    exact opDiagOutput_noOutput hr hrole hout
  case refine_19 =>
    intro hr hrole hout hno
    exact opDiagOutput_refused hr hrole hout (hno.imp_right fun ⟨hpeer, hlt⟩ => ⟨hpeer, by omega⟩)
  case refine_20 =>
    intro hr hrole hout hserves hpeer hdo hv
    exact opDiagOutput_badDo hr hrole hout hserves (Or.inl hpeer) hdo hv
  case refine_21 =>
    intro hr hrole hout hserves hpeer hlo hhi hmode
    exact opDiagOutput_aoOff hr hrole hout hserves (Or.inl hpeer) hlo hhi hmode
  case refine_22 =>
    intro hr hrole hout hserves
    exact opDiagRelease_one hr hrole hserves hout ⟨Mod.outMap_same .., fun i hi => Mod.outMap_ne _ _ hi, Only.of_put rfl⟩
  case refine_23 =>
    intro hr hrole hcode hserves
    exact opDiagRelease_all hr hrole hserves hcode ⟨fun i => by simp, Only.of_put rfl⟩
  case refine_24 =>
    intro hr hrole hcode hout
    exact Executes.of_opRow (exec_opDiagRelease h seq s) hr rfl hrole rfl (if_pos ⟨hcode, by rw [hout]; rfl⟩) (Only.refl _)
  case refine_25 =>
    intro hr hrole hcode hserves
    exact opDiagRelease_refused hr hrole hcode hserves
  case refine_26 =>
    intro hr hrole hbank hst
    exact opDiagBanktest_started hr hrole hbank hst
      ⟨rfl, List.mem_cons_self .., fun q hq => mem_cons_filter_ne hq _, Only.of_put rfl⟩
  case refine_27 =>
    intro hr hrole hbank
    exact Executes.of_opRow (exec_opDiagBanktest h seq s) hr rfl hrole rfl (if_pos hbank) (Only.refl _)
  case refine_28 =>
    intro hr hrole hbank hst hsv
    exact opDiagBanktest_refused hr hrole hbank hst hsv
  case refine_29 =>
    intro htest hbad
    subst hbad
    exact Does.of_onMod (m' := s.m.bankTested b 0) (exec_bankTestComplete b 0 s) (if_pos htest)
      ⟨rfl, rfl, s.m.bankTested_none b⟩
  case refine_30 =>
    intro htest
    obtain ⟨htesting, hcells, htotal, honly⟩ := bankFaulted_bankTested s.m b bad.toNat
    exact Does.of_onMod (m' := s.m.bankTested b bad.toNat) (exec_bankTestComplete b bad s) (if_pos htest)
      ⟨htesting, hcells, htotal, ((Only.testEnded s.m b).weaken (by decide) (List.nil_subset _)).trans honly⟩
  case refine_31 =>
    intro hidle
    exact exec_of_onMod_unchanged (exec_bankTestComplete b bad s) (if_neg (by rw [hidle]; exact Bool.false_ne_true))
  case refine_32 =>
    intro hr hrole hregs
    exact opDiagCounters_answers hr hrole hregs
  case refine_33 =>
    intro hr hrole hblock
    exact opDiagCounters_noBlock hr hrole hblock
  case refine_34 =>
    intro hr
    exact Executes.of_opRow (exec_opDiagEcho h seq s) hr rfl x.bitAt_rAll rfl rfl (Only.refl _)

end Sys2Proof.Machine

end

/-! PROOFS. The family 03_placement_and_the_drum.md: when a command row acts (O43), and the activation of a plan by restart (O47). -/

section

namespace Sys2Proof.Machine

/-! ### Command rows (R349) -/

/-- Each command row executes by `opRow` under its own opcode. -/
theorem OpRow.exec_eq {h : BitVec 10} {seq : BitVec 32} {op : Nat} {i : Instr} (hrow : OpRow h seq op i) (s : State) :
    ∃ f, exec i s = opRow s h seq op f := by
  cases hrow
  all_goals
    -- the law of this row's arm of `exec`, and the row's definition
    simp
    exact ⟨_, rfl⟩

section

variable {s : State} {h : BitVec 10} {seq : BitVec 32} {op : Nat} {x : Sess} {c : Cmd}
  {f : Mod → Nat → Sess → List Byte → Mod × Res} {info : OpInfo}

theorem opRow_notReady (hn : s.m.ready (s.m.sessKey h.toNat) seq.toNat op = none) : opRow s h seq op f = .next s := by
  simp only [opRow, onMod, hn]

theorem opRow_roleDenied (hr : Ready s h seq op x c) (ho : opInfo op = some info) (hrole : bitAt info.roles x.roleBit = false) :
    opRow s h seq op f = .next { s with m := (begun s h seq).finish (s.m.sessKey h.toNat) c (.fail 0x0005 op) } := by
  simp only [opRow, onMod, hr, ho, hrole, Bool.not_false, if_true, begun]

theorem opRow_noPlan (hr : Ready s h seq op x c) (ho : opInfo op = some info) (hrole : bitAt info.roles x.roleBit = true)
    (hplan : info.plan = true) (hnone : s.m.planLoaded = false) :
    opRow s h seq op f = .next { s with m := (begun s h seq).finish (s.m.sessKey h.toNat) c (.fail 0x0004 s.m.stateDetail) } := by
  have hbegun : (begun s h seq).planLoaded = false := hnone
  have hstate : (begun s h seq).badState = (begun s h seq, .fail 0x0004 s.m.stateDetail) := rfl
  rw [begun] at hbegun hstate
  simp only [opRow, onMod, hr, ho, hrole, hplan, hbegun, hstate, Bool.not_true, Bool.not_false, Bool.and_true, Bool.false_eq_true, if_false,
    if_true, begun]

end

/-- Settles O43: every row is `opRow` of its own opcode, which answers each of the three cases before it asks what the row does. -/
theorem commandRowsWaitForTurnRoleAndPlan : Obligations.CommandRowsWaitForTurnRoleAndPlan := by
  unfold Obligations.CommandRowsWaitForTurnRoleAndPlan
  intro s h seq op i x c info hrow ho
  obtain ⟨f, hexec⟩ := hrow.exec_eq s
  rw [hexec]
  exact ⟨opRow_notReady, fun hr hrole => opRow_roleDenied hr ho hrole, fun hr hrole hplan hnone => opRow_noPlan hr ho hrole hplan hnone⟩

/-! ### A reply and the registers (R322, R323, R342) -/

@[simp] theorem Mod.poolMark_regs (m : Mod) (u : Fin 2) : (m.poolMark u).regs = m.regs := rfl

@[simp] theorem Mod.poolLose_regs (m : Mod) (p : PoolFrame → Bool) : (m.poolLose p).regs = m.regs := rfl

@[simp] theorem Mod.poolPut_regs (m : Mod) (f : PoolFrame) : (m.poolPut f).1.regs = m.regs := by
  simp only [Mod.poolPut]
  split_ifs <;> rfl

@[simp] theorem Mod.twinOut_regs (m : Mod) (len : Nat) : (m.twinOut len).regs = m.regs := by
  simp only [Mod.twinOut]
  split <;> exact m.poolPut_regs _

@[simp] theorem Mod.deliver_regs (m : Mod) (r : Reply) : (m.deliver r).regs = m.regs := by
  simp only [Mod.deliver]
  split_ifs <;> simp

/-- The reply to a command of a session that stays open changes no register. -/
theorem Mod.finish_ok_regs {m : Mod} {h : Nat} {x : Sess} {c : Cmd} (data : List Byte) (hx : m.sess h = some x) (hopen : x.closing = false)
    (hrseq : x.rseq + 1 < 0xFFFFFFFF) (htop : x.top ≠ 0xFFFFFFFF) : (m.finish h c (.ok data)).regs = m.regs := by
  have hstay : ¬ 0xFFFFFFFF ≤ x.rseq + 1 := by omega
  simp only [Mod.finish, Mod.endCmd, hx, Mod.sendTo, Mod.sess_setSess_same]
  split
  · simp [Mod.setSess]
  · simp [Mod.when, Mod.setSess, hopen, hstay, htop]

/-! ### Activation by restart of a plan that enables field port 5 (R78, R305) -/

/-- OP_PLAN_ACTIVATE with MODE 1, and a SERVICE session that has it in flight. -/
def activateByRestart : Cmd := { seq := 5, tag := 3, op := 0x0203, urgent := false, params := [1] }
def activatingSess : Sess := { role := .service, flight := [activateByRestart] }

/-- STOPPED without a plan, with the plan that enables field port 5 as the stored candidate and the activation in session 1. -/
def fifthPortCandidate : State :=
  { m := { Mod.reset with
      regs := fldSet (fldSet [] F.EXEC_STATE_STATE xStopped) F.PLAN_STATUS_STATE 3
      plan := { slots := Mod.reset.plan.slots.set 1 (some fifthPortPlan) }
      orpor := { sessions := [(1, activatingSess)], order := [(1, 5)] } }
    pending := [] }

theorem fifthPortCandidate_status : fifthPortCandidate.m.word (R.FBUS_STATUS 4) = 0#32 := by decide +kernel

/-- The activation loads the candidate, and FBUS_STATUS shows port 5 UP (R305). -/
theorem planActivate_shows_fifthPort : nextWord (R.FBUS_STATUS 4) (exec (.opPlanActivate 1 5) fifthPortCandidate) = some 1#32 := by decide +kernel

/-- Refutes O47: the activation by restart of a plan that enables field port 5 sets FBUS_STATUS.UP of that port, at 0x61008, and the frame
`restartRanges` lets it change the FBUS block below 0x61000 only; the reply changes no register. -/
theorem not_packageAndPlanCommands : ¬ Obligations.PackageAndPlanCommands := by
  unfold Obligations.PackageAndPlanCommands
  intro hall
  obtain ⟨-, -, -, -, -, -, -, -, -, restart, -⟩ :=
    hall fifthPortCandidate 1 5 activatingSess activateByRestart { len := 0 } { len := 0 } 0 fifthPortPlan {}
      (by decide +kernel)
  obtain ⟨m, hexec, -, -, -, -, -, -, -, parts, words⟩ :=
    restart (by decide +kernel) (by decide) (by decide +kernel) (by decide +kernel) (by decide +kernel) rfl (by decide) (by decide +kernel)
      (by decide +kernel) rfl (by decide +kernel) (by decide +kernel) (by decide +kernel)
  have hsess : m.sess 1 = some activatingSess := by
    rw [Mod.sess, show m.orpor = (begun fifthPortCandidate 1 5).orpor from parts .orpor (by decide)]
    rfl
  have hstatus : m.word (R.FBUS_STATUS 4) = 0#32 :=
    (words _ fun r hr => fifthPortStatus_outside r (List.mem_append_left _ hr)).trans fifthPortCandidate_status
  have hkey : fifthPortCandidate.m.sessKey (1 : BitVec 10).toNat = 1 := by decide +kernel
  have hup := planActivate_shows_fifthPort
  rw [hexec, hkey, nextWord, Mod.word, Mod.finish_ok_regs _ hsess rfl (by decide) (by decide), ← Mod.word, hstatus] at hup
  exact absurd hup (by decide)

end Sys2Proof.Machine

end

/-! PROOFS. The family 04_control_cycle_and_restart.md: STOPPED and overruns, and the bit program's cycle (O17). -/

section

namespace Sys2Proof.Machine

/-! ### STOPPED entered (R99, R105, R107) -/

theorem Only.change (m : Mod) (kind session old new : Nat) :
    Only [.logs] [F.LOG_STATUS_WAB_FULL] m (m.change kind session old new) :=
  (Only.log ..).trans (Only.when (Only.log ..))

theorem Only.goto (m : Mod) (x : Nat) : Only [] [F.EXEC_STATE_PREV, F.EXEC_STATE_STATE] m (m.goto x) :=
  ((Only.unchanged m).set_mem _ (by decide)).set_mem _ (by decide)

theorem Mod.st_goto (m : Mod) {x : Nat} (hx : x < 16) : (m.goto x).st = x := by
  have hw : F.EXEC_STATE_STATE.width = 4 := rfl
  rw [Mod.st, Mod.goto, Mod.get_set_self _ _ (by decide), hw, Nat.mod_eq_of_lt (by omega)]

theorem Mod.prev_goto (m : Mod) (x : Nat) : (m.goto x).get F.EXEC_STATE_PREV = m.st := by
  have hst : m.st < 2 ^ F.EXEC_STATE_PREV.width := m.get_lt_two_pow F.EXEC_STATE_STATE
  rw [Mod.goto, Mod.get_set_apart _ _ (by decide), Mod.get_set_self _ _ (by decide), Nat.mod_eq_of_lt hst]

/-- The registers of the Jack path show that it is disabled and that nothing acts. -/
def Mod.jackDark (m : Mod) : Mod :=
  (((m.set F.JACK_STATUS_EN 0).set F.JACK_STATUS_ACTIVE 0).set (F.JACK_ACT_ACT 0) 0).set (F.JACK_ACT_ACT 1) 0

theorem Mod.jackOff_eq (m : Mod) : m.jackOff = { m.jackDark with jack := m.jackOff.jack, outs := m.jackOff.outs } := by
  simp only [Mod.jackOff, Mod.jackDark, Mod.set]

/-- The frame of a change of the Jack part and the outputs together. -/
theorem Only.jack_outs (m : Mod) (j : JackSt) (o : Vector OutSt 48) : Only [.jack, .outs] [] m { m with jack := j, outs := o } :=
  ((Only.unchanged m).put_mem (m'' := { m with jack := j }) .jack (by decide) rfl).put_mem .outs (by decide) rfl

theorem Only.jackOff (m : Mod) :
    Only [.jack, .outs] [F.JACK_STATUS_EN, F.JACK_STATUS_ACTIVE, F.JACK_ACT_ACT 0, F.JACK_ACT_ACT 1] m m.jackOff := by
  have hdark : Only [.jack, .outs] [F.JACK_STATUS_EN, F.JACK_STATUS_ACTIVE, F.JACK_ACT_ACT 0, F.JACK_ACT_ACT 1] m m.jackDark := by
    unfold Mod.jackDark
    iterate 4 refine Only.set_mem ?_ _ (by decide)
    exact Only.unchanged m
  rw [Mod.jackOff_eq]
  exact hdark.trans ((Only.jack_outs ..).weaken (List.Subset.refl _) (List.nil_subset _))

theorem Only.bitOff (m : Mod) : Only [.bit, .outs] [F.EXEC_BIT_RUNNING] m m.bitOff :=
  (((Only.unchanged m).set_mem 0 (List.mem_singleton_self _)).put_mem (m'' := { m.set F.EXEC_BIT_RUNNING 0 with outs := m.bitOff.outs }) .outs
    (by decide) rfl).put_mem .bit (by decide) rfl

theorem Only.haltLanes (m : Mod) : Only [.exec, .lanes] [] m m.haltLanes :=
  ((Only.unchanged m).put_mem (m'' := { m with lanes := m.haltLanes.lanes }) .lanes (by decide) rfl).put_mem .exec (by decide) rfl

theorem Only.standbyEnd (m : Mod) :
    Only [.twin] [F.TWIN_STATUS_IN_STEP, F.TWIN_STATUS_SELFTEST, F.TWIN_STATUS_JOIN] m m.standbyEnd := by
  unfold Mod.standbyEnd
  split
  · refine Only.put_mem ?_ .twin (by decide) rfl
    iterate 3 refine Only.set_mem ?_ _ (by decide)
    exact Only.unchanged m
  · exact Only.unchanged m

theorem Only.cancelSwap (m : Mod) :
    Only [.logs, .plan] [F.LOG_STATUS_WAB_FULL, F.PLAN_STATUS_STATE, F.PLAN_STATUS_CANCELLED] m m.cancelSwap := by
  unfold Mod.cancelSwap
  split
  · refine Only.set_mem (Only.set_mem (Only.put_mem ?_ .plan (by decide) rfl) _ (by decide)) _ (by decide)
    split
    · exact (Only.change ..).weaken (by decide) (by decide)
    · exact Only.unchanged m
  · exact Only.unchanged m

theorem Mod.cancelSwap_armed (m : Mod) : m.cancelSwap.plan.armed = none := by
  unfold Mod.cancelSwap
  split
  · rfl
  · simp_all

/-- STOPPED but for the swap, the twin status and the transition itself. -/
def Mod.driveEnded (m : Mod) : Mod := ((m.reqSafeAll 0).haltLanes).dropStaging.jackOff.bitOff

theorem Mod.enterStopped_eq (m : Mod) : m.enterStopped = m.driveEnded.cancelSwap.standbyEnd.goto xStopped := rfl

theorem Only.driveEnded (m : Mod) : Only [.exec, .jack, .outs, .lanes, .bit]
    [F.JACK_STATUS_EN, F.JACK_STATUS_ACTIVE, F.JACK_ACT_ACT 0, F.JACK_ACT_ACT 1, F.EXEC_BIT_RUNNING] m m.driveEnded := by
  have hreq : Only [.exec, .jack, .outs, .lanes, .bit]
      [F.JACK_STATUS_EN, F.JACK_STATUS_ACTIVE, F.JACK_ACT_ACT 0, F.JACK_ACT_ACT 1, F.EXEC_BIT_RUNNING] m (m.reqSafeAll 0) :=
    (Only.unchanged m).put_mem .outs (by decide) rfl
  have hhalt := hreq.trans ((Only.haltLanes _).weaken (by decide) (List.nil_subset _))
  have hstaged : Only _ _ m ((m.reqSafeAll 0).haltLanes).dropStaging := hhalt.put_mem .outs (by decide) rfl
  exact (hstaged.trans ((Only.jackOff _).weaken (by decide) (by decide))).trans ((Only.bitOff _).weaken (by decide) (by decide))

/-- The registers that entering STOPPED changes before the transition. -/
def stoppingRegs : List Fld :=
  [F.JACK_STATUS_EN, F.JACK_STATUS_ACTIVE, F.JACK_ACT_ACT 0, F.JACK_ACT_ACT 1, F.EXEC_BIT_RUNNING, F.TWIN_STATUS_IN_STEP,
    F.TWIN_STATUS_SELFTEST, F.TWIN_STATUS_JOIN, F.PLAN_STATUS_STATE, F.PLAN_STATUS_CANCELLED, F.LOG_STATUS_WAB_FULL]

theorem Only.stopping (m : Mod) : Only stopParts stoppingRegs m m.driveEnded.cancelSwap.standbyEnd :=
  (((Only.driveEnded m).weaken (by decide) (by decide)).trans ((Only.cancelSwap _).weaken (by decide) (by decide))).trans
    ((Only.standbyEnd _).weaken (by decide) (by decide))

theorem Only.enterStopped (m : Mod) : Only stopParts stopRegs m m.enterStopped :=
  ((Only.stopping m).weaken (List.Subset.refl _) (by decide)).trans ((Only.goto _ _).weaken (List.nil_subset _) (by decide))

/-- What the end of the drive leaves of the outputs: a request of the state, no staging, no Jack value and no bit program's drive. -/
theorem Mod.driveEnded_outs (m : Mod) (o : Fin 48) :
    bitAt (m.driveEnded.outs[o]).req 0 = true ∧ (m.driveEnded.outs[o]).staged = none ∧ (m.driveEnded.outs[o]).jack = none ∧
      (m.driveEnded.outs[o]).bit = none := by
  simp [Mod.driveEnded, Mod.bitOff, Mod.jackOff, Mod.dropStaging, Mod.haltLanes, Mod.reqSafeAll, Mod.reqOut, bitAt_eq_testBit]

theorem Mod.driveEnded_lanes (m : Mod) (i : Fin 8) :
    (m.driveEnded.lanes[i]).phase = .halted ∧ (m.driveEnded.lanes[i]).todo = [] := by
  simp [Mod.driveEnded, Mod.bitOff, Mod.jackOff, Mod.dropStaging, Mod.haltLanes]

/-- What the end of the drive leaves of bursts, watchdog, Jack path and bit program. -/
theorem Mod.driveEnded_parts (m : Mod) : m.driveEnded.exec.burst = none ∧ m.driveEnded.exec.wdArmed = false ∧
    m.driveEnded.jack.enabled = false ∧ m.driveEnded.jack.active = [] ∧ m.driveEnded.bit.inCycle = false := by
  simp [Mod.driveEnded, Mod.bitOff, Mod.jackOff, Mod.dropStaging, Mod.haltLanes]

theorem Mod.bitOff_regs (m : Mod) : m.bitOff.regs = (m.set F.EXEC_BIT_RUNNING 0).regs := by simp only [Mod.bitOff, Mod.set]

theorem Mod.driveEnded_running (m : Mod) : m.driveEnded.flag F.EXEC_BIT_RUNNING = false := by
  rw [Mod.driveEnded, Mod.flag, Mod.get_congr (Mod.bitOff_regs _), Mod.get_set_self _ _ (by decide)]
  rfl

theorem stops_enterStopped (m : Mod) : Stops m m.enterStopped := by
  have hcancel := Only.cancelSwap m.driveEnded
  have hstandby := Only.standbyEnd m.driveEnded.cancelSwap
  have hgoto := Only.goto m.driveEnded.cancelSwap.standbyEnd xStopped
  rw [← Mod.enterStopped_eq] at hgoto
  have hpart (p : Part) (hp : p ∉ [Part.logs, .plan, .twin]) : p.same m.driveEnded m.enterStopped :=
    (((hcancel.weaken (qs := [.logs, .plan, .twin]) (gs := stopRegs) (by decide) (by decide)).trans
      (hstandby.weaken (by decide) (by decide))).trans (hgoto.weaken (List.nil_subset _) (by decide))).part p hp
  have hplan : m.enterStopped.plan = m.driveEnded.cancelSwap.plan :=
    ((hstandby.weaken (gs := stopRegs) (List.Subset.refl _) (by decide)).trans
      (hgoto.weaken (List.nil_subset _) (by decide))).part .plan (by decide)
  have hexec : m.enterStopped.exec = m.driveEnded.exec := hpart .exec (by decide)
  have hlanes : m.enterStopped.lanes = m.driveEnded.lanes := hpart .lanes (by decide)
  have houts : m.enterStopped.outs = m.driveEnded.outs := hpart .outs (by decide)
  have hjack : m.enterStopped.jack = m.driveEnded.jack := hpart .jack (by decide)
  have hbit : m.enterStopped.bit = m.driveEnded.bit := hpart .bit (by decide)
  obtain ⟨hburst, hwd, hen, hact, hcycle⟩ := m.driveEnded_parts
  rw [Stops, hplan, hexec, hlanes, houts, hjack, hbit, hgoto.flag (by decide), hstandby.flag (by decide), hcancel.flag (by decide)]
  refine ⟨?_, ?_, m.driveEnded_lanes, hburst, hwd, m.driveEnded_outs, hen, hact, hcycle, m.driveEnded_running, m.driveEnded.cancelSwap_armed⟩
  · rw [Mod.enterStopped_eq, Mod.st_goto _ (by decide)]
  · rw [Mod.enterStopped_eq, Mod.prev_goto]
    exact (Only.stopping m).get (by decide)

/-! ### Overruns (R98, R99, R119) -/

theorem Only.returnCount (m : Mod) : Only [.twin, .logs] [F.TWIN_BAR_RETURNS, F.LOG_STATUS_WAB_FULL] m m.returnCount := by
  unfold Mod.returnCount
  split
  · exact Only.unchanged m
  · have htwin : Only [.twin, .logs] [F.TWIN_BAR_RETURNS, F.LOG_STATUS_WAB_FULL] m { m with twin := { m.twin with returned := none } } :=
      (Only.unchanged m).put_mem .twin (by decide) rfl
    dsimp only
    split
    · exact (htwin.set_mem _ (by decide)).trans (Only.when ((Only.log ..).weaken (by decide) (by decide)))
    · exact htwin

theorem Only.barRelease (m : Mod) : Only [.twin, .logs] (barRegs ++ [F.LOG_STATUS_WAB_FULL]) m m.barRelease := by
  unfold Mod.barRelease
  split
  · exact (((Only.unchanged m).set_mem _ (by decide)).set_mem _ (by decide)).trans
      ((Only.returnCount _).weaken (List.Subset.refl _) (by decide))
  · exact (Only.unchanged m).set_mem _ (by decide)

theorem Only.autoArm (m : Mod) : Only [.exec, .logs] [F.LOG_STATUS_WAB_FULL] m m.autoArm := by
  unfold Mod.autoArm
  split
  · split
    · exact (Only.of_put (p := .exec) rfl).weaken (by decide) (List.nil_subset _)
    · exact (Only.log ..).weaken (by decide) (List.Subset.refl _)
  · exact Only.unchanged m

/-- Of the exec part a scheduled auto-restart is set, or nothing. -/
theorem Mod.autoArm_exec (m : Mod) : m.autoArm.exec = { m.exec with autoAt := m.autoArm.exec.autoAt } := by
  unfold Mod.autoArm
  split
  · split <;> rfl
  · rfl

/-- What arming an auto-restart may change is nothing that STOPPED speaks of. -/
theorem Stops.autoArm {m m' : Mod} (h : Stops m m') : Stops m m'.autoArm := by
  obtain ⟨hst, hprev, hlanes, hburst, hwd, houts, hen, hact, hcycle, hrun, harm⟩ := h
  have honly := Only.autoArm m'
  have hl : m'.autoArm.lanes = m'.lanes := honly.part .lanes (by decide)
  have ho : m'.autoArm.outs = m'.outs := honly.part .outs (by decide)
  have hj : m'.autoArm.jack = m'.jack := honly.part .jack (by decide)
  have hb : m'.autoArm.bit = m'.bit := honly.part .bit (by decide)
  have hp : m'.autoArm.plan = m'.plan := honly.part .plan (by decide)
  refine ⟨(honly.get (by decide)).trans hst, (honly.get (by decide)).trans hprev, ?_, ?_, ?_, ?_, ?_, ?_, ?_,
    (honly.flag (by decide)).trans hrun, ?_⟩
  · rwa [hl]
  · rwa [m'.autoArm_exec]
  · rwa [m'.autoArm_exec]
  · rwa [ho]
  · rwa [hj]
  · rwa [hj]
  · rwa [hb]
  · rwa [hp]

/-- The registers of an overrun with its record (R98). -/
def Mod.overrunNoted (m : Mod) (cause cls seq lanes : Nat) : Mod :=
  let m := ((m.set F.EXEC_OVERRUN_CLASS cls).set F.EXEC_OVERRUN_CAUSE cause).set F.EXEC_OVERRUN_LANES lanes
  let m := m.set F.EXEC_OVERRUN_BURST seq
  ((m.set F.EXEC_OVR_TIME_OPTIME m.optime).addSat F.EXEC_OVR_COUNT_COUNT 1).log .overrun 0
    (leBytes 1 cause ++ leBytes 1 cls ++ leBytes 2 seq ++ leBytes 1 lanes)

/-- The overrun with the bar given up where it is held (R374). -/
def Mod.overrunBarred (m : Mod) (cause cls seq lanes : Nat) : Mod :=
  (m.overrunNoted cause cls seq lanes).when ((m.overrunNoted cause cls seq lanes).flag F.TWIN_STATUS_HOLDS_BAR) Mod.barRelease

theorem Mod.overrun_eq (m : Mod) (cause cls seq lanes : Nat) :
    m.overrun cause cls seq lanes = (m.overrunBarred cause cls seq lanes).enterStopped.autoArm := rfl

/-- The registers of an overrun itself. -/
def overrunOwnRegs : List Fld :=
  [F.EXEC_OVERRUN_CAUSE, F.EXEC_OVERRUN_CLASS, F.EXEC_OVERRUN_LANES, F.EXEC_OVERRUN_BURST, F.EXEC_OVR_TIME_OPTIME, F.EXEC_OVR_COUNT_COUNT,
    F.LOG_STATUS_WAB_FULL]

section

variable (m : Mod) (cause cls seq lanes : Nat)

theorem Only.overrunNoted : Only [.logs] overrunOwnRegs m (m.overrunNoted cause cls seq lanes) := by
  refine Only.trans ?_ ((Only.log ..).weaken (List.Subset.refl _) (by decide))
  unfold Mod.addSat
  iterate 6 refine Only.set_mem ?_ _ (by decide)
  exact Only.unchanged m

theorem Only.overrunBarred : Only [.twin, .logs] (overrunOwnRegs ++ barRegs) m (m.overrunBarred cause cls seq lanes) :=
  ((Only.overrunNoted ..).weaken (by decide) (by decide)).trans (Only.when ((Only.barRelease _).weaken (by decide) (by decide)))

theorem Only.overrun : Only stopParts overrunRegs m (m.overrun cause cls seq lanes) := by
  rw [Mod.overrun_eq]
  exact (((Only.overrunBarred ..).weaken (by decide) (by decide)).trans ((Only.enterStopped _).weaken (List.Subset.refl _) (by decide))).trans
    ((Only.autoArm _).weaken (by decide) (by decide))

theorem stops_overrun : Stops m (m.overrun cause cls seq lanes) := by
  have hst : (m.overrunBarred cause cls seq lanes).st = m.st := (Only.overrunBarred m cause cls seq lanes).get (by decide)
  have h := (stops_enterStopped (m.overrunBarred cause cls seq lanes)).autoArm
  rw [← Mod.overrun_eq, Stops, hst] at h
  exact h

/-- What follows the registers of an overrun leaves them. -/
theorem Mod.get_overrun {f : Fld} (hf : ∀ g ∈ barRegs ++ [F.LOG_STATUS_WAB_FULL] ++ stopRegs, Apart g f) :
    (m.overrun cause cls seq lanes).get f = (m.overrunNoted cause cls seq lanes).get f := by
  have hbar : ∀ g ∈ barRegs ++ [F.LOG_STATUS_WAB_FULL], Apart g f := fun g hg => hf g (List.mem_append_left _ hg)
  have hstop : ∀ g ∈ stopRegs, Apart g f := fun g hg => hf g (List.mem_append_right _ hg)
  rw [Mod.overrun_eq, (Only.autoArm _).get fun g hg => hbar g (List.mem_append_right _ hg), (Only.enterStopped _).get hstop]
  exact (Only.when (Only.barRelease _)).get hbar

/-- An overrun shows its cause, class, burst number and lanes, as far as their fields go, and counts (R98, R99). -/
theorem overrunShown_overrun :
    OverrunShown m (m.overrun cause cls seq lanes) (cause % 8) (cls % 8) (seq % 65536) (lanes % 256) := by
  refine ⟨?_, ?_, ?_, ?_, ?_⟩
  all_goals
    rw [m.get_overrun cause cls seq lanes (by decide), Mod.overrunNoted, (Only.log ..).get (by decide)]
    simp (disch := decide) only [Mod.addSat, Mod.get_set_apart, Mod.get_set_self]
  case refine_5 => exact Nat.mod_eq_of_lt (satNat_lt ..)
  all_goals rfl

end

/-! ### The bit machine's cycle (R110, R144 to R147) -/

/-- Digits of `w` bits added up by place: below the next place, and each bit at its place. -/
theorem placed_digits (w : Nat) (d : Nat → Nat) (hd : ∀ i, d i < 2 ^ w) (n : Nat) :
    (List.range n).foldl (fun a i => a + d i * 2 ^ (w * i)) 0 < 2 ^ (w * n) ∧
    ∀ k < n, ∀ j < w, ((List.range n).foldl (fun a i => a + d i * 2 ^ (w * i)) 0).testBit (w * k + j) = (d k).testBit j := by
  induction n with
  | zero => exact ⟨by simp, fun k hk => absurd hk (Nat.not_lt_zero k)⟩
  | succ n ih =>
    obtain ⟨hlt, hbit⟩ := ih
    rw [List.range_succ, List.foldl_append, List.foldl_cons, List.foldl_nil, Nat.add_comm, Nat.mul_comm (d n)]
    refine ⟨?_, fun k hk j hj => ?_⟩
    · calc 2 ^ (w * n) * d n + _ < 2 ^ (w * n) * d n + 2 ^ (w * n) := Nat.add_lt_add_left hlt _
        _ = 2 ^ (w * n) * (d n + 1) := by ring
        _ ≤ 2 ^ (w * n) * 2 ^ w := Nat.mul_le_mul_left _ (hd n)
        _ = 2 ^ (w * (n + 1)) := by rw [← Nat.pow_add, Nat.mul_succ]
    · rw [Nat.testBit_two_pow_mul_add _ hlt]
      rcases Nat.lt_succ_iff_lt_or_eq.1 hk with hk | rfl
      · have hplace : w * k + j < w * n := by
          calc w * k + j < w * k + w := Nat.add_lt_add_left hj _
            _ = w * (k + 1) := (Nat.mul_succ w k).symm
            _ ≤ w * n := Nat.mul_le_mul_left _ hk
        rw [if_pos hplace, hbit k hk j hj]
      · rw [if_neg (by omega), Nat.add_sub_cancel_left]

/-- A cycle's start freezes each DI bit at the reported value (R144). -/
theorem Mod.bitStart_di (m : Mod) (i : Fin 48) : m.bitStart.bit.di.getLsbD i.val = m.flag (F.FIO_DI_STATUS_VALUE i.val) := by
  have hd (k : Nat) : b2n (m.flag (F.FIO_DI_STATUS_VALUE k)) < 2 ^ 1 := by unfold b2n; split <;> decide
  have hbit := (placed_digits 1 (fun k => b2n (m.flag (F.FIO_DI_STATUS_VALUE k))) hd 48).2 i.val i.isLt 0 (by decide)
  simp only [Nat.one_mul, Nat.add_zero] at hbit
  show (BitVec.ofNat 48 _).getLsbD i.val = _
  rw [BitVec.getLsbD_ofNat, decide_eq_true i.isLt, Bool.true_and, hbit]
  cases m.flag (F.FIO_DI_STATUS_VALUE i.val) <;> rfl

/-- A cycle's start freezes the SI bits of each pair at the filtered levels of its channels (R144). -/
theorem Mod.bitStart_si (m : Mod) (k : Fin 8) : m.bitStart.bit.si.getLsbD (2 * k.val) = m.safe.filtA.getLsbD k.val ∧
    m.bitStart.bit.si.getLsbD (2 * k.val + 1) = m.safe.filtB.getLsbD k.val := by
  have hd (i : Nat) : b2n (m.safe.filtA.getLsbD i) + 2 * b2n (m.safe.filtB.getLsbD i) < 2 ^ 2 := by
    unfold b2n
    split <;> split <;> decide
  have hbit := (placed_digits 2 (fun i => b2n (m.safe.filtA.getLsbD i) + 2 * b2n (m.safe.filtB.getLsbD i)) hd 8).2 k.val k.isLt
  have hpow (i : Nat) : 2 ^ (2 * i) = 4 ^ i := by rw [Nat.pow_mul]
  simp only [hpow] at hbit
  have hlo := hbit 0 (by decide)
  have hhi := hbit 1 (by decide)
  constructor
  · show (BitVec.ofNat 16 _).getLsbD (2 * k.val) = _
    rw [BitVec.getLsbD_ofNat, decide_eq_true (by omega : 2 * k.val < 16), Bool.true_and]
    refine hlo.trans ?_
    cases m.safe.filtA.getLsbD k.val <;> cases m.safe.filtB.getLsbD k.val <;> rfl
  · show (BitVec.ofNat 16 _).getLsbD (2 * k.val + 1) = _
    rw [BitVec.getLsbD_ofNat, decide_eq_true (by omega : 2 * k.val + 1 < 16), Bool.true_and]
    refine hhi.trans ?_
    cases m.safe.filtA.getLsbD k.val <;> cases m.safe.filtB.getLsbD k.val <;> rfl

/-- `b'` stands in the same cycle of the same program as `b`, further on, or past the last word. -/
structure BitSt.GoesOn (b b' : BitSt) : Prop where
  prog : b'.prog = b.prog
  doMask : b'.doMask = b.doMask
  soMask : b'.soMask = b.soMask
  inCycle : b'.inCycle = b.inCycle
  place : b.pc < b'.pc ∨ b.prog.length ≤ b'.pc

theorem BitSt.GoesOn.next (b : BitSt) (off : Nat) : b.GoesOn (b.next off) := ⟨rfl, rfl, rfl, rfl, Or.inl (by simp only [BitSt.next]; omega)⟩

theorem BitSt.GoesOn.write (b : BitSt) (area n : Nat) (x : Bool) : b.GoesOn (b.write area n x).next := by
  unfold BitSt.write
  split
  all_goals exact ⟨rfl, rfl, rfl, rfl, Or.inl (Nat.lt_succ_self _)⟩

/-- Each word leads on in its program (R145, R146: jumps go forward). -/
theorem BitSt.goesOn_exec (b : BitSt) (w : Nat) : b.GoesOn (b.exec w) := by
  have hacc (f : Bool → Bool → Bool) (a n : Nat) : b.GoesOn (b.accOp f a n) := ⟨rfl, rfl, rfl, rfl, Or.inl (Nat.lt_succ_self _)⟩
  have hlatch (x : Bool) (a n : Nat) : b.GoesOn (b.latchOp x a n) := by
    unfold BitSt.latchOp
    split
    · exact BitSt.GoesOn.write ..
    · exact BitSt.GoesOn.next ..
  have hpop (f : Bool → Bool → Bool) : b.GoesOn (b.popOp f) := by
    unfold BitSt.popOp
    split
    · exact ⟨rfl, rfl, rfl, rfl, Or.inl (Nat.lt_succ_self _)⟩
    · exact BitSt.GoesOn.next ..
  have hjump (f : Bool → Bool) (off : Nat) : b.GoesOn (b.jumpOp f off) := by
    unfold BitSt.jumpOp
    split <;> exact BitSt.GoesOn.next ..
  unfold BitSt.exec
  dsimp only
  split
  case h_12 | h_16 => exact ⟨rfl, rfl, rfl, rfl, Or.inl (Nat.lt_succ_self _)⟩
  case h_20 => exact ⟨rfl, rfl, rfl, rfl, Or.inr (Nat.le_refl _)⟩
  case h_21 => exact BitSt.GoesOn.next ..
  case h_8 | h_9 => exact BitSt.GoesOn.write ..
  case h_10 | h_11 => exact hlatch ..
  case h_13 | h_14 | h_15 => exact hpop ..
  case h_17 | h_18 | h_19 => exact hjump ..
  all_goals exact hacc ..

theorem BitSt.cur_eq_none_iff (b : BitSt) : b.cur = none ↔ b.prog.length ≤ b.pc := by simp [BitSt.cur]

/-- With as many steps as words are left the program is through. -/
theorem BitSt.run_ends (n : Nat) (b : BitSt) (h : b.prog.length ≤ b.pc + n) :
    (b.run n).cur = none ∧ (b.run n).prog = b.prog ∧ (b.run n).doMask = b.doMask ∧ (b.run n).soMask = b.soMask ∧
      (b.run n).inCycle = b.inCycle := by
  induction n generalizing b with
  | zero => exact ⟨(b.cur_eq_none_iff).2 h, rfl, rfl, rfl, rfl⟩
  | succ n ih =>
    unfold BitSt.run
    split
    case h_1 w _ =>
      have hon := b.goesOn_exec w
      obtain ⟨hcur, hprog, hdo, hso, hcycle⟩ := ih (b.exec w) (by rw [hon.prog]; have := hon.place; omega)
      exact ⟨hcur, hprog.trans hon.prog, hdo.trans hon.doMask, hso.trans hon.soMask, hcycle.trans hon.inCycle⟩
    case h_2 hcur => exact ⟨hcur, rfl, rfl, rfl, rfl⟩

theorem outKind_so_iff (o : Nat) : outKind o = .so ↔ 32 ≤ o ∧ o < 40 := by
  unfold outKind
  split_ifs <;> simp <;> omega

/-- A running cycle that has passed its last word ends as R110 and R147 have it. -/
theorem bitCycleEnds_bitSettle (m : Mod) (b : BitSt) (hcycle : b.inCycle = true) (hcur : b.cur = none) :
    BitCycleEnds m ({ m with bit := b }).bitSettle b := by
  have hsettle : ({ m with bit := b }).bitSettle = ({ m with bit := b }).bitFinish := if_pos (by simp [hcycle, hcur])
  rw [hsettle]
  refine ⟨rfl, fun o ho => ?_, fun o hlo hhi => ?_, fun o => ?_, ?_⟩
  · simp [Mod.bitFinish, (outKind_do_iff o.val).2 ho]
  · simp [Mod.bitFinish, (outKind_so_iff o.val).2 ⟨hlo, hhi⟩]
  · simp [Mod.bitFinish]
  · exact (((Only.unchanged m).put_mem (m'' := { m with bit := { b with inCycle := false } }) .bit (by decide) rfl).put_mem
      (m'' := { m with bit := { b with inCycle := false }, key := { m.key with proven := true } }) .key (by decide) rfl).put_mem .outs
      (by decide) rfl

/-- A cycle that stands at a word stays open. -/
theorem Mod.bitSettle_of_cur {m : Mod} {w : Nat} (h : m.bit.cur = some w) : m.bitSettle = m := if_neg (by simp [h])

/-- Settles O17: the start freezes the inputs, each word leads on in its program, so that as many steps as words end the cycle, and an overrun
is its registers and STOPPED. -/
theorem bitCycleFreezesRunsAndEnds : Obligations.BitCycleFreezesRunsAndEnds := by
  unfold Obligations.BitCycleFreezesRunsAndEnds
  intro s steps _ hbit
  refine ⟨fun hrun hidle hprog => ?_, fun hrun hidle hlen => ?_, fun ⟨_, hcycle, hword⟩ => ?_, fun hcycle => ?_⟩
  · obtain ⟨w, hw⟩ : ∃ w, s.m.bitStart.bit.cur = some w := by
      rw [← Option.ne_none_iff_exists', Ne, BitSt.cur_eq_none_iff]
      exact Nat.not_le.2 (List.length_pos_of_ne_nil hprog)
    exact Does.of_onMod (m' := s.m.bitStart) (exec_bitCycle 0 s) ((if_pos (by simp [hbit, hrun, hidle])).trans (Mod.bitSettle_of_cur hw))
      ⟨rfl, s.m.bitStart_di, s.m.bitStart_si, Only.of_put rfl⟩
  · obtain ⟨hcur, hprog, hdo, hso, hcycle⟩ := BitSt.run_ends steps.toNat s.m.bitStart.bit (hlen.trans (Nat.le_add_left _ _))
    exact Does.of_onMod (exec_bitCycle steps s) (if_pos (by simp [hbit, hrun, hidle]))
      ⟨_, hprog, hdo, hso, bitCycleEnds_bitSettle s.m _ hcycle hcur⟩
  · exact Does.of_onMod (exec_bitEnd s) (if_pos (by simp [hbit, hcycle, BitSt.cur, hword]))
      (bitCycleEnds_bitSettle s.m _ hcycle ((BitSt.cur_eq_none_iff _).2 (Nat.le_refl _)))
  · exact Does.of_onMod (exec_bitOverrun s) (if_pos (by simp [hbit, hcycle]))
      ⟨overrunShown_overrun s.m 7 0 0 1, stops_overrun s.m 7 0 0 1, Only.overrun s.m 7 0 0 1⟩

end Sys2Proof.Machine

end

/-! PROOFS. The family 04_control_cycle_and_restart.md: restarts that load a plan which enables field port 5 (O54, O60). -/

section

namespace Sys2Proof.Machine

/-! ### A restart after the TCXO's return (R475) -/

/-- STOPPED with the plan that enables field port 5 loaded, the TCXO stopped and an auto-restart waiting for it. -/
def fifthPortWaits : State :=
  { m := { fifthPortStopped.m with
      pwr := { fifthPortStopped.m.pwr with tcxoBad := true }
      exec := { waitRestart := some (4, 0) } }
    pending := [] }

theorem fifthPortWaits_status : fifthPortWaits.m.word (R.FBUS_STATUS 4) = 0#32 := by decide +kernel

/-- The TCXO's return lets the restart load the plan, and FBUS_STATUS shows port 5 UP (R305). -/
theorem tcxoRecovered_shows_fifthPort : nextWord (R.FBUS_STATUS 4) (exec .tcxoRecovered fifthPortWaits) = some 1#32 := by decide +kernel

/-- Refutes O60: the restart that waited for the TCXO loads a plan that enables field port 5 and sets FBUS_STATUS.UP of that port, at 0x61008,
and the frame `restartRanges` lets it change the FBUS block below 0x61000 only. -/
theorem not_powerFailSaveAndClockFaults : ¬ Obligations.PowerFailSaveAndClockFaults := by
  unfold Obligations.PowerFailSaveAndClockFaults
  intro hall
  obtain ⟨-, -, -, -, -, -, -, -, -, -, -, -, -, -, -, -, waits, -⟩ :=
    hall fifthPortWaits 0 0 0 {} 0 0 4 0 fifthPortPlan { mask := 0, seq := 0, t0 := 0 } (by decide +kernel)
  obtain ⟨t, ht, -, -, -, -, -, -, -, -, -, frame⟩ :=
    waits rfl rfl (by decide) (by decide) (by decide) rfl fifthPortPlan_imageOk
  have hsame := frame (R.FBUS_STATUS 4) fun r hr => fifthPortStatus_outside r (List.mem_append_left _ hr)
  have hup := tcxoRecovered_shows_fifthPort
  rw [ht, nextWord, hsame, fifthPortWaits_status] at hup
  exact absurd hup (by decide)

/-! ### OP_STATE_RESTART (R113) -/

/-- OP_STATE_RESTART of type cold, and a SERVICE session that has it in flight. -/
def restartCold : Cmd := { seq := 5, tag := 3, op := 0x0B01, urgent := false, params := [0] }
def restartingSess : Sess := { role := .service, flight := [restartCold] }

/-- STOPPED with the plan that enables field port 5 loaded and the restart in session 1. -/
def fifthPortRestarted : State :=
  { m := { fifthPortStopped.m with orpor := { sessions := [(1, restartingSess)], order := [(1, 5)] } }
    pending := [] }

theorem fifthPortRestarted_status : fifthPortRestarted.m.word (R.FBUS_STATUS 4) = 0#32 := by decide +kernel

/-- The restart loads the plan again, and FBUS_STATUS shows port 5 UP (R305). -/
theorem stateRestart_shows_fifthPort : nextWord (R.FBUS_STATUS 4) (exec (.opStateRestart 1 5) fifthPortRestarted) = some 1#32 := by decide +kernel

/-- Refutes O54: the restart with a plan that enables field port 5 sets FBUS_STATUS.UP of that port, at 0x61008, and the frame `restartRanges`
lets it change the FBUS block below 0x61000 only; the reply changes no register. -/
theorem not_safetyAndStateCommandsActAsTheirModeAllows : ¬ Obligations.SafetyAndStateCommandsActAsTheirModeAllows := by
  unfold Obligations.SafetyAndStateCommandsActAsTheirModeAllows
  intro hall
  obtain ⟨-, -, -, -, -, -, -, -, -, -, -, -, -, -, -, -, -, -, -, -, -, -, -, -, -, -, restart, -⟩ :=
    hall fifthPortRestarted 1 5 restartingSess restartCold false false false 0 fifthPortPlan (by decide +kernel)
  obtain ⟨m, hexec, -, -, -, -, -, -, parts, words⟩ :=
    restart (by decide +kernel) (by decide) (by decide +kernel) (by decide +kernel) rfl (by decide) (by decide) rfl fifthPortPlan_imageOk
  have hsess : m.sess 1 = some restartingSess := by
    rw [Mod.sess, show m.orpor = (begun fifthPortRestarted 1 5).orpor from parts .orpor (by decide)]
    rfl
  have hstatus : m.word (R.FBUS_STATUS 4) = 0#32 :=
    (words _ fun r hr => fifthPortStatus_outside r (List.mem_append_left _ hr)).trans fifthPortRestarted_status
  have hkey : fifthPortRestarted.m.sessKey (1 : BitVec 10).toNat = 1 := by decide +kernel
  have hup := stateRestart_shows_fifthPort
  rw [hexec, hkey, nextWord, Mod.word, Mod.finish_ok_regs _ hsess rfl (by decide) (by decide), ← Mod.word, hstatus] at hup
  exact absurd hup (by decide)

end Sys2Proof.Machine

end

/-! PROOFS. The family 04_control_cycle_and_restart.md: the bit program's transfer and its record (O48). -/

section

namespace Sys2Proof.Machine

/-! ### OP_BITPROG_LOAD (R110, R347) -/

/-- The transfer that a block of OP_BITPROG_LOAD belongs to: the one in progress for its TOTAL, or a new one. -/
def bitpTransfer (o : Option Xfer) (total : Nat) : Xfer :=
  match o with
  | some t => if t.len = total then t else { len := total }
  | none => { len := total }

theorem bitpTransfer_len (o : Option Xfer) (total : Nat) : (bitpTransfer o total).len = total := by
  unfold bitpTransfer
  split
  · split
    case isTrue hlen => exact hlen
    case isFalse => rfl
  · rfl

theorem xferBlock_of_le {x : Xfer} {off : Nat} {bs : List Byte} (h : off + bs.length ≤ x.len) : xferBlock (some x) off bs = some (x.put off bs) :=
  if_pos h

theorem xferBlock_of_lt {x : Xfer} {off : Nat} {bs : List Byte} (h : x.len < off + bs.length) : xferBlock (some x) off bs = none :=
  if_neg (Nat.not_le.2 h)

/-- The module with the bit program's transfer at `o`. -/
def Mod.setBitp (m : Mod) (o : Option Xfer) : Mod := { m with orpor := { m.orpor with bitp := o } }

theorem Only.setBitp (m : Mod) (o : Option Xfer) : Only [.orpor] [] m (m.setBitp o) := Only.of_put rfl

section

variable {s : State} {h : BitVec 10} {seq : BitVec 32} {x : Sess} {c : Cmd} {r : Res} {P : Mod → Prop}

section

variable (hr : Ready s h seq 0x0206 x c) (hrole : bitAt 28 x.roleBit = true)
include hr hrole

theorem opBitprogLoad_badTotal (htotal : par c.params 0 4 = 0 ∨ 8244 < par c.params 0 4) :
    Executes (.opBitprogLoad h seq) s h c (.fail 2 0) fun m => Only [] [] (begun s h seq) m :=
  Executes.of_opRow (exec_opBitprogLoad h seq s) hr rfl hrole rfl (if_pos htotal) (Only.refl _)

variable (hlo : 1 ≤ par c.params 0 4) (hhi : par c.params 0 4 ≤ 8244)
include hlo hhi

theorem opBitprogLoad_outside (hout : par c.params 0 4 < par c.params 4 4 + (c.params.drop 8).length)
    (hP : P ((begun s h seq).setBitp (some (bitpTransfer s.m.orpor.bitp (par c.params 0 4))))) :
    Executes (.opBitprogLoad h seq) s h c (.fail 0x20 (par c.params 4 4)) P := by
  refine Executes.of_opRow (exec_opBitprogLoad h seq s) hr rfl hrole rfl ((if_neg (by omega)).trans ?_) hP
  generalize hblock : xferBlock _ _ _ = b
  have hnone : b = none := hblock.symm.trans
    (xferBlock_of_lt (x := bitpTransfer s.m.orpor.bitp (par c.params 0 4)) (by rwa [bitpTransfer_len]))
  subst hnone
  rfl

variable (hin : par c.params 4 4 + (c.params.drop 8).length ≤ par c.params 0 4) {t : Xfer}
  (ht : (bitpTransfer s.m.orpor.bitp (par c.params 0 4)).put (par c.params 4 4) (c.params.drop 8) = t)
include hin ht

theorem opBitprogLoad_missing (hmore : par c.params 4 4 + (c.params.drop 8).length < par c.params 0 4) (hgap : t.gap.isSome = true)
    (hP : P ((begun s h seq).setBitp (some t))) : Executes (.opBitprogLoad h seq) s h c (.ok []) P := by
  refine Executes.of_opRow (exec_opBitprogLoad h seq s) hr rfl hrole rfl ((if_neg (by omega)).trans ?_) hP
  generalize hblock : xferBlock _ _ _ = b
  have hsome : b = some t := (hblock.symm.trans
    (xferBlock_of_le (x := bitpTransfer s.m.orpor.bitp (par c.params 0 4)) (by rwa [bitpTransfer_len]))).trans (congrArg some ht)
  subst hsome
  obtain ⟨g, hg⟩ := Option.isSome_iff_exists.1 hgap
  simp only [hg]
  exact if_neg (Nat.ne_of_lt hmore)

/-- The block that completes the record hands it to the checks and the store. -/
theorem opBitprogLoad_complete (hgap : t.gap = none) {m : Mod}
    (hstore : ((begun s h seq).setBitp none).bitprogStore (s.m.sessKey h.toNat) seq.toNat x t.bytes = (m, r)) (hP : P m) :
    Executes (.opBitprogLoad h seq) s h c r P := by
  refine Executes.of_opRow (exec_opBitprogLoad h seq s) hr rfl hrole rfl ((if_neg (by omega)).trans ?_) hP
  generalize hblock : xferBlock _ _ _ = b
  have hsome : b = some t := (hblock.symm.trans
    (xferBlock_of_le (x := bitpTransfer s.m.orpor.bitp (par c.params 0 4)) (by rwa [bitpTransfer_len]))).trans (congrArg some ht)
  subst hsome
  simp only [hgap]
  exact hstore

end

/-! ### The store of a record (R277, R394) -/

section

variable (m : Mod) (k n : Nat) {bs : List Byte}

/-- A record that fails its checks is refused with the failing word, but that a SAFETY session's without safety outputs is refused first. -/
theorem Mod.bitprogStore_invalid {w : Nat} (hso : x.role = .safety → recField bs 12 1 ≠ 0) (hcheck : bitRecCheck bs = some w) :
    m.bitprogStore k n x bs = (m, .fail 0x25 w) := by
  have hrole : ¬(x.role = .safety ∧ (!(recField bs 12 1 != 0)) = true) := by
    rintro ⟨hsafe, hzero⟩
    simp_all
  simp only [Mod.bitprogStore, if_neg hrole, hcheck]

variable (hrole : x.role ≠ .safety) (hcheck : bitRecCheck bs = none)
include hrole hcheck

theorem Mod.bitprogStore_plain (hso : ¬ recField bs 12 1 ≠ 0) :
    m.bitprogStore k n x bs = (m.paramPut keyBitprog bs (some (k, n)), .hold []) := by
  have hzero : recField bs 12 1 = 0 := not_not.1 hso
  simp [Mod.bitprogStore, hrole, hcheck, hzero]

theorem Mod.bitprogStore_denied (hso : recField bs 12 1 ≠ 0) : m.bitprogStore k n x bs = (m, .fail 5 0x0206) := by
  simp [Mod.bitprogStore, hrole, hcheck, hso]

end

/-! ### OP_BITPROG_READ (R349) -/

section

variable (hr : Ready s h seq 0x0207 x c) (hrole : bitAt 28 x.roleBit = true)
include hr hrole

theorem opBitprogRead_bytes (hlen : par c.params 4 2 ≤ 1024) :
    Executes (.opBitprogRead h seq) s h c (.ok ((s.m.bitprog.drop (par c.params 0 4)).take (par c.params 4 2)))
      fun m => Only [] [] (begun s h seq) m :=
  Executes.of_opRow (exec_opBitprogRead h seq s) hr rfl hrole rfl (if_neg (Nat.not_lt.2 hlen)) (Only.refl _)

theorem opBitprogRead_badCount (hlen : 1024 < par c.params 4 2) :
    Executes (.opBitprogRead h seq) s h c (.fail 2 4) fun m => Only [] [] (begun s h seq) m :=
  Executes.of_opRow (exec_opBitprogRead h seq s) hr rfl hrole rfl (if_pos hlen) (Only.refl _)

end

end

/-- Settles O48: a block is outside its record, leaves bytes missing, or completes it; the complete record is stored as its checks and the
role allow. -/
theorem bitProgramsAreStoredAndRead : Obligations.BitProgramsAreStoredAndRead := by
  unfold Obligations.BitProgramsAreStoredAndRead
  intro s h seq x c w total cur t so kk was _
  refine ⟨?_, ?_, ?_, ?_, ?_, ?_, ?_, ?_⟩
  case refine_1 => exact opBitprogLoad_badTotal
  case refine_2 =>
    intro hr hrole hlo hhi hout
    exact opBitprogLoad_outside hr hrole hlo hhi hout ⟨rfl, Only.setBitp ..⟩
  case refine_3 =>
    intro hr hrole hlo hhi hmore hgap
    exact opBitprogLoad_missing hr hrole hlo hhi (Nat.le_of_lt hmore) rfl hmore hgap ⟨rfl, Only.setBitp ..⟩
  case refine_4 =>
    intro hr hrole hlo hhi hin hgap hso hcheck
    exact opBitprogLoad_complete hr hrole hlo hhi hin rfl hgap (Mod.bitprogStore_invalid _ _ _ hso hcheck) ⟨rfl, Only.setBitp ..⟩
  case refine_5 =>
    intro hr hrole hlo hhi hin hgap hsafe hso hcheck
    exact opBitprogLoad_complete hr hrole hlo hhi hin rfl hgap (Mod.bitprogStore_plain _ _ _ hsafe hcheck hso)
      ⟨rfl, rfl, ((Only.setBitp ..).weaken (by decide) (List.Subset.refl _)).put_mem .nvm (by decide) rfl⟩
  case refine_6 =>
    intro hr hrole hlo hhi hin hgap hsafe hso hcheck
    exact opBitprogLoad_complete hr hrole hlo hhi hin rfl hgap (Mod.bitprogStore_denied _ _ _ hsafe hcheck hso) ⟨rfl, Only.setBitp ..⟩
  case refine_7 => exact opBitprogRead_bytes
  case refine_8 => exact opBitprogRead_badCount

end Sys2Proof.Machine

end

/-! PROOFS. The family 04_control_cycle_and_restart.md: exchanges on the field ports (O28). -/

section

namespace Sys2Proof.Machine

/-! ### A port and its registers -/

section

variable (m : Mod) {p q : Fin 19} (f : PortSt → PortSt)

theorem Mod.portMap_same : (m.portMap p f).ports.port[p] = f m.ports.port[p] := by simp [Mod.portMap]

theorem Mod.portMap_ne (h : q ≠ p) : (m.portMap p f).ports.port[q] = m.ports.port[q] := by
  have hne : p.val ≠ q.val := fun he => h (Fin.ext he.symm)
  simp [Mod.portMap, Vector.getElem_set_ne, hne]

theorem Only.portMap (p : Fin 19) : Only [.ports] [] m (m.portMap p f) := Only.of_put rfl

end

/-! ### COMMFAIL of a request's points (R94) -/

/-- Every point of the list takes COMMFAIL, or none does. -/
def Mod.commMarked (m : Mod) (pts : List Nat) (fail : Bool) : Mod :=
  pts.foldl (fun m pt => m.bufSet pt fun b => { b with commFail := fail }) m

theorem Mod.bufEnt_bufSet_same (m : Mod) (pt : Nat) (f : BufEnt → BufEnt) : (m.bufSet pt f).bufEnt pt = f (m.bufEnt pt) := by
  simp only [Mod.bufEnt, Mod.bufSet, mapGetD, mapGet_mapPut_same, Option.getD_some]

theorem Mod.bufEnt_bufSet_ne (m : Mod) {pt k : Nat} (f : BufEnt → BufEnt) (h : k ≠ pt) : (m.bufSet pt f).bufEnt k = m.bufEnt k := by
  simp only [Mod.bufEnt, Mod.bufSet, mapGetD, mapGet_mapPut_ne h]

/-- From `m` to `m'` the port buffers may have changed, and nothing else. -/
def Buffered (m m' : Mod) : Prop := m' = { m with ports := { m.ports with buf := m'.ports.buf } }

theorem Buffered.refl (m : Mod) : Buffered m m := rfl

theorem Buffered.bufSet {m m' : Mod} (h : Buffered m m') (pt : Nat) (f : BufEnt → BufEnt) : Buffered m (m'.bufSet pt f) := by
  unfold Buffered at h ⊢
  rw [h]
  rfl

theorem Buffered.foldl {α : Type} {m m' : Mod} (h : Buffered m m') (pt : α → Nat) (f : Mod → α → BufEnt → BufEnt) (l : List α) :
    Buffered m (l.foldl (fun m x => m.bufSet (pt x) (f m x)) m') := by
  induction l generalizing m' with
  | nil => exact h
  | cons x xs ih => exact ih (h.bufSet ..)

theorem Buffered.regs {m m' : Mod} (h : Buffered m m') : m'.regs = m.regs := by rw [h]

theorem Buffered.port {m m' : Mod} (h : Buffered m m') : m'.ports.port = m.ports.port := by rw [h]

theorem Buffered.only {m m' : Mod} (h : Buffered m m') : Only [.ports] [] m m' := by
  rw [h]
  exact Only.of_put rfl

theorem buffered_commMarked (m : Mod) (pts : List Nat) (fail : Bool) : Buffered m (m.commMarked pts fail) :=
  (Buffered.refl m).foldl (fun pt => pt) (fun _ _ b => { b with commFail := fail }) pts

theorem Mod.bufEnt_commMarked (m : Mod) (pts : List Nat) (fail : Bool) (k : Nat) :
    (m.commMarked pts fail).bufEnt k = if k ∈ pts then { m.bufEnt k with commFail := fail } else m.bufEnt k := by
  induction pts generalizing m with
  | nil => rfl
  | cons pt pts ih =>
    show ((m.bufSet pt fun b => { b with commFail := fail }).commMarked pts fail).bufEnt k = _
    rw [ih]
    by_cases hk : k = pt
    · subst hk
      rw [Mod.bufEnt_bufSet_same]
      simp
    · rw [Mod.bufEnt_bufSet_ne _ _ hk]
      simp [hk]

/-! ### The end of an exchange (R94, R305) -/

/-- The stations of failed exchanges, after one more. -/
def failedAfter (l : List Nat) (station : Nat) (ok : Bool) : List Nat := (if ok then [] else [station]) ++ l.filter (· != station)

/-- An exchange closed, well or not, after it was counted. -/
def Mod.exchClosed (m : Mod) (p : Fin 19) (r : PollReq) (ok : Bool) (fcb : List Nat → List Nat) : Mod :=
  (((m.set (F.FBUS_STATUS_FAILED p.val) (satNat 8 (failedAfter m.ports.port[p].failed r.station ok).length)).set (F.FBUS_STATUS_TOKEN p.val)
    0).portMap p fun x => { x with exch := none, failed := failedAfter x.failed r.station ok, fcb := fcb x.fcb }).commMarked r.points (!ok)

theorem Mod.exchOk_eq (m : Mod) (p : Fin 19) (r : PollReq) : m.exchOk p r = (m.addWrap (F.FBUS_EXCH_COUNT p.val) 1).exchClosed p r true
    fun l => if l.contains r.station then l.filter (· != r.station) else r.station :: l := by
  simp [Mod.exchOk, Mod.exchClosed, Mod.stationDone, Mod.commMarked, Mod.portMap, Mod.set, failedAfter]

theorem Mod.exchFail_eq (m : Mod) (p : Fin 19) (r : PollReq) :
    m.exchFail p r = (m.addSat (F.FBUS_FAILS_COUNT p.val) 1).exchClosed p r false id := by
  simp [Mod.exchFail, Mod.exchClosed, Mod.stationDone, Mod.commMarked, Mod.portMap, Mod.set, failedAfter]

section

variable (m : Mod) (p : Fin 19) (r : PollReq) (ok : Bool) (fcb : List Nat → List Nat)

theorem Mod.exchClosed_port : (m.exchClosed p r ok fcb).ports.port[p] =
    { m.ports.port[p] with exch := none, failed := failedAfter m.ports.port[p].failed r.station ok, fcb := fcb m.ports.port[p].fcb } := by
  rw [Mod.exchClosed, (buffered_commMarked ..).port, Mod.portMap_same]
  rfl

theorem Mod.exchClosed_port_ne {q : Fin 19} (h : q ≠ p) : (m.exchClosed p r ok fcb).ports.port[q] = m.ports.port[q] := by
  rw [Mod.exchClosed, (buffered_commMarked ..).port, Mod.portMap_ne _ _ h]
  rfl

theorem Mod.exchClosed_bufEnt (k : Nat) :
    (m.exchClosed p r ok fcb).bufEnt k = if k ∈ r.points then { m.bufEnt k with commFail := !ok } else m.bufEnt k := by
  rw [Mod.exchClosed, Mod.bufEnt_commMarked]
  rfl

theorem Only.exchClosed : Only [.ports] [F.FBUS_STATUS_FAILED p.val, F.FBUS_STATUS_TOKEN p.val] m (m.exchClosed p r ok fcb) :=
  ((((Only.unchanged m).set_mem _ (by simp)).set_mem _ (by simp)).trans
    ((Only.portMap ..).weaken (List.Subset.refl _) (List.nil_subset _))).trans
    ((buffered_commMarked ..).only.weaken (List.Subset.refl _) (List.nil_subset _))

theorem Mod.get_exchClosed {f : Fld} (hf : Apart (F.FBUS_STATUS_FAILED p.val) f) (ht : Apart (F.FBUS_STATUS_TOKEN p.val) f) :
    (m.exchClosed p r ok fcb).get f = m.get f := by
  refine (Only.exchClosed ..).get fun g hg => ?_
  simp only [List.mem_cons, List.not_mem_nil, or_false] at hg
  rcases hg with rfl | rfl
  · exact hf
  · exact ht

theorem statusFailed_apart_token : ∀ p : Fin 19, Apart (F.FBUS_STATUS_TOKEN p.val) (F.FBUS_STATUS_FAILED p.val) := by decide

/-- What the end of an exchange shows, its count apart. -/
theorem Mod.exchClosed_shown :
    (m.exchClosed p r ok fcb).get (F.FBUS_STATUS_FAILED p.val) = satNat 8 (failedAfter m.ports.port[p].failed r.station ok).length ∧
      (m.exchClosed p r ok fcb).flag (F.FBUS_STATUS_TOKEN p.val) = false := by
  have hregs : (m.exchClosed p r ok fcb).regs = ((m.set (F.FBUS_STATUS_FAILED p.val)
      (satNat 8 (failedAfter m.ports.port[p].failed r.station ok).length)).set (F.FBUS_STATUS_TOKEN p.val) 0).regs := by
    rw [Mod.exchClosed, (buffered_commMarked ..).regs]
    rfl
  constructor
  · rw [Mod.get_congr hregs, Mod.get_set_apart _ _ (statusFailed_apart_token p), Mod.get_set_self _ _ (by show 8 + 8 ≤ 32; decide)]
    exact Nat.mod_eq_of_lt (satNat_lt ..)
  · rw [Mod.flag, Mod.get_congr hregs, Mod.get_set_self _ _ (by show 4 + 1 ≤ 32; decide)]
    rfl

end

theorem exchCount_apart : ∀ p : Fin 19, ∀ f ∈ [F.FBUS_EXCH_COUNT p.val, F.FBUS_FAILS_COUNT p.val],
    Apart (F.FBUS_STATUS_FAILED p.val) f ∧ Apart (F.FBUS_STATUS_TOKEN p.val) f := by decide

section

variable (m : Mod) (p : Fin 19) (r : PollReq)

theorem exchEnds_exchOk : ExchEnds m (m.exchOk p r) p r true := by
  obtain ⟨hf, ht⟩ := exchCount_apart p (F.FBUS_EXCH_COUNT p.val) (by simp)
  obtain ⟨hfailed, htoken⟩ := (m.addWrap (F.FBUS_EXCH_COUNT p.val) 1).exchClosed_shown p r true
    fun l => if l.contains r.station then l.filter (· != r.station) else r.station :: l
  rw [Mod.exchOk_eq]
  refine ⟨?_, ?_, ?_, htoken, ?_, fun pt hpt => ?_, fun q hq => Mod.exchClosed_port_ne _ _ _ _ _ hq⟩
  · rw [Mod.exchClosed_port]
  · rw [Mod.exchClosed_port]; rfl
  · rw [hfailed, Mod.exchClosed_port]
  · rw [if_pos rfl, Mod.get_exchClosed _ _ _ _ _ hf ht, Mod.addWrap, Mod.get_set_self _ _ (by show 0 + 32 ≤ 32; decide)]
  · rw [Mod.exchClosed_bufEnt, if_pos hpt]

theorem exchEnds_exchFail : ExchEnds m (m.exchFail p r) p r false := by
  obtain ⟨hf, ht⟩ := exchCount_apart p (F.FBUS_FAILS_COUNT p.val) (by simp)
  obtain ⟨hfailed, htoken⟩ := (m.addSat (F.FBUS_FAILS_COUNT p.val) 1).exchClosed_shown p r false id
  rw [Mod.exchFail_eq]
  refine ⟨?_, ?_, ?_, htoken, ?_, fun pt hpt => ?_, fun q hq => Mod.exchClosed_port_ne _ _ _ _ _ hq⟩
  · rw [Mod.exchClosed_port]
  · rw [Mod.exchClosed_port]; rfl
  · rw [hfailed, Mod.exchClosed_port]
  · rw [if_neg Bool.false_ne_true, Mod.get_exchClosed _ _ _ _ _ hf ht, Mod.addSat, Mod.get_set_self _ _ (by show 0 + 32 ≤ 32; decide)]
    exact Nat.mod_eq_of_lt (satNat_lt ..)
  · rw [Mod.exchClosed_bufEnt, if_pos hpt]

theorem Only.exchOk : Only [.ports] (exchRegs p) m (m.exchOk p r) := by
  rw [Mod.exchOk_eq]
  exact ((Only.unchanged m).set_mem _ (by simp [exchRegs])).trans ((Only.exchClosed ..).weaken (List.Subset.refl _) (by simp [exchRegs]))

theorem Only.exchFail : Only [.ports] (exchRegs p) m (m.exchFail p r) := by
  rw [Mod.exchFail_eq]
  exact ((Only.unchanged m).set_mem _ (by simp [exchRegs])).trans ((Only.exchClosed ..).weaken (List.Subset.refl _) (by simp [exchRegs]))

end

/-- What an exchange's end says speaks of the counts, the failed stations and the other ports alone of the module it started from. -/
theorem exchEnds_congr {m₀ m m' : Mod} {p : Fin 19} {r : PollReq} {ok : Bool} (h : ExchEnds m m' p r ok)
    (hfailed : (m.ports.port[p]).failed = (m₀.ports.port[p]).failed) (hne : ∀ q : Fin 19, q ≠ p → m.ports.port[q] = m₀.ports.port[q])
    (hcount : ∀ f ∈ [F.FBUS_EXCH_COUNT p.val, F.FBUS_FAILS_COUNT p.val], m.get f = m₀.get f) : ExchEnds m₀ m' p r ok := by
  obtain ⟨hexch, hfail, hstat, htok, hcnt, hcomm, hq⟩ := h
  rw [hcount _ (by simp), hcount _ (by simp)] at hcnt
  exact ⟨hexch, hfailed ▸ hfail, hstat, htok, hcnt, hcomm, fun q hqp => (hq q hqp).trans (hne q hqp)⟩

/-! ### Replies (R287, R289) -/

theorem buffered_takeReply (m : Mod) (r : PollReq) (data : List Byte) (recs : List (Nat × Nat × List Byte)) :
    Buffered m (m.takeReply r data recs) := by
  unfold Mod.takeReply
  split
  · exact Buffered.refl m
  · exact (Buffered.refl m).foldl (fun b => b.point) (fun m b => replyEnt b (pointTy m b.point) data recs) _

/-- Of a request for one bound point the reply stores what its field stands for. -/
theorem Mod.takeReply_one {m : Mod} {r : PollReq} {b : RemBind} (hwrite : r.write = false) (hbinds : m.reqBinds r = [b]) (data : List Byte)
    (recs : List (Nat × Nat × List Byte)) :
    (m.takeReply r data recs).bufEnt b.point = replyEnt b (pointTy m b.point) data recs (m.bufEnt b.point) := by
  rw [Mod.takeReply, hwrite, if_neg Bool.false_ne_true, hbinds, List.foldl_cons, List.foldl_nil, Mod.bufEnt_bufSet_same]

/-- A reply that was taken leaves no COMMFAIL. -/
theorem replyEnt_commFail (b : RemBind) (ty : Nat) (data : List Byte) (recs : List (Nat × Nat × List Byte)) (old : BufEnt) :
    (replyEnt b ty data recs old).commFail = false := by
  unfold replyEnt
  dsimp only
  split
  · rfl
  · split <;> rfl

/-- A good reply: its fields are stored and the exchange ends well. -/
def Mod.replied (m : Mod) (p : Fin 19) (r : PollReq) (data : List Byte) (recs : List (Nat × Nat × List Byte)) : Mod :=
  (m.takeReply r data recs).exchOk p r

section

variable (m : Mod) (p : Fin 19) (r : PollReq) (data : List Byte) (recs : List (Nat × Nat × List Byte))

theorem exchEnds_replied : ExchEnds m (m.replied p r data recs) p r true := by
  have htake := buffered_takeReply m r data recs
  exact exchEnds_congr (exchEnds_exchOk ..) (by rw [htake.port]) (fun q _ => by rw [htake.port]) fun f _ => Mod.get_congr htake.regs f

theorem Only.replied : Only [.ports] (exchRegs p) m (m.replied p r data recs) :=
  ((buffered_takeReply ..).only.weaken (List.Subset.refl _) (List.nil_subset _)).trans (Only.exchOk ..)

theorem Mod.replied_one {b : RemBind} (hwrite : r.write = false) (hbinds : m.reqBinds r = [b]) : (m.replied p r data recs).bufEnt b.point =
    { replyEnt b (pointTy m b.point) data recs (m.bufEnt b.point) with commFail := false } := by
  have hclear := replyEnt_commFail b (pointTy m b.point) data recs (m.bufEnt b.point)
  have htake : ((m.takeReply r data recs).addWrap (F.FBUS_EXCH_COUNT p.val) 1).bufEnt b.point =
    replyEnt b (pointTy m b.point) data recs (m.bufEnt b.point) := m.takeReply_one hwrite hbinds data recs
  rw [Mod.replied, Mod.exchOk_eq, Mod.exchClosed_bufEnt, htake]
  split
  · rfl
  · rw [← hclear]

end

/-! ### A failed attempt (R94, R285) -/

/-- Another attempt, counted. -/
def Mod.retried (m : Mod) (p : Fin 19) (e : Exch) : Mod :=
  (m.addSat (F.FBUS_RETRIES_COUNT p.val) 1).portMap p fun x => { x with
    exch := some { e with attempt := e.attempt + 1, waiting := m.proto p == prMstp, tid := x.tid }, tid := (x.tid + 1) % 65536 }

section

variable {m : Mod} {p : Fin 19} {e : Exch} {r : PollReq} (he : (m.ports.port[p]).exch = some e) (hr : m.reqDef p e.req = some r)
include he hr

theorem Mod.attemptFail_retries (htries : e.attempt < m.get (F.FBUS_CFG_RETRY p.val)) (hslot : m.reachesSlot p r = false) :
    m.attemptFail p = m.retried p e := by
  unfold Mod.attemptFail
  rw [he]
  dsimp only
  rw [hr]
  exact if_pos (by simp only [htries, hslot, decide_true, Bool.not_false, Bool.and_self])

theorem Mod.attemptFail_fails (hlast : m.get (F.FBUS_CFG_RETRY p.val) ≤ e.attempt ∨ m.reachesSlot p r = true) :
    m.attemptFail p = m.exchFail p r := by
  have hno : (decide (e.attempt < m.get (F.FBUS_CFG_RETRY p.val)) && !m.reachesSlot p r) = false := by
    rcases hlast with htries | hslot
    · simp [Nat.not_lt.2 htries]
    · simp [hslot]
  unfold Mod.attemptFail
  rw [he]
  dsimp only
  rw [hr]
  exact if_neg (by rw [hno]; exact Bool.false_ne_true)

end

theorem triesAgain_retried (m : Mod) (p : Fin 19) (e : Exch) : TriesAgain m (m.retried p e) p e := by
  refine ⟨rfl, ?_⟩
  show (m.addSat (F.FBUS_RETRIES_COUNT p.val) 1).get (F.FBUS_RETRIES_COUNT p.val) = _
  rw [Mod.addSat, Mod.get_set_self _ _ (by show 0 + 32 ≤ 32; decide)]
  exact Nat.mod_eq_of_lt (satNat_lt ..)

theorem Only.retried (m : Mod) (p : Fin 19) (e : Exch) : Only [.ports] (exchRegs p) m (m.retried p e) :=
  ((Only.unchanged m).set_mem _ (by simp [exchRegs])).trans ((Only.portMap ..).weaken (List.Subset.refl _) (List.nil_subset _))

/-- The registers that decide a failed attempt's outcome. -/
def attemptRegs (p : Fin 19) : List Fld :=
  [F.FBUS_CFG_RETRY p.val, F.FBUS_CFG_PROTO p.val, F.FBUS_RETRIES_COUNT p.val, F.DRUM_STATUS_BANK]

section

variable {m : Mod} {p : Fin 19} {e : Exch} {r : PollReq} {f : Fld} (v : Nat) (hf : ∀ g ∈ attemptRegs p, Apart f g)
include hf

theorem Mod.reachesSlot_set : (m.set f v).reachesSlot p r = m.reachesSlot p r := by
  have hdrum : (m.set f v).drum = m.drum := by
    simp only [Mod.drum, Mod.flag_set_apart m v (hf F.DRUM_STATUS_BANK (by simp [attemptRegs])), Mod.set_plan]
  simp only [Mod.reachesSlot, Mod.nextSlot, hdrum]
  rfl

/-- An event that is counted in a register of its own before the attempt is repeated. -/
theorem counted_retries (he : (m.ports.port[p]).exch = some e) (hr : m.reqDef p e.req = some r)
    (htries : e.attempt < m.get (F.FBUS_CFG_RETRY p.val)) (hslot : m.reachesSlot p r = false) :
    (m.set f v).attemptFail p = (m.set f v).retried p e ∧ TriesAgain m ((m.set f v).retried p e) p e := by
  constructor
  · exact Mod.attemptFail_retries (m := m.set f v) he hr
      (by rwa [Mod.get_set_apart m v (hf (F.FBUS_CFG_RETRY p.val) (by simp [attemptRegs]))]) (by rwa [Mod.reachesSlot_set v hf])
  · obtain ⟨hports, hretries⟩ := triesAgain_retried (m.set f v) p e
    have hproto : (m.set f v).proto p = m.proto p := Mod.get_set_apart m v (hf (F.FBUS_CFG_PROTO p.val) (by simp [attemptRegs]))
    rw [hproto] at hports
    rw [Mod.get_set_apart m v (hf (F.FBUS_RETRIES_COUNT p.val) (by simp [attemptRegs]))] at hretries
    exact ⟨hports, hretries⟩

end

theorem rxErr_apart : ∀ p : Fin 19, (∀ g ∈ attemptRegs p, Apart (F.FBUS_RXERR_COUNT p.val) g) ∧
    (∀ g ∈ exchRegs p, Apart g (F.FBUS_RXERR_COUNT p.val)) := by decide

theorem collisions_apart : ∀ p : Fin 19, (∀ g ∈ attemptRegs p, Apart (F.FBUS_DALI_BUS_COLLISIONS p.val) g) ∧
    (∀ g ∈ exchRegs p, Apart g (F.FBUS_DALI_BUS_COLLISIONS p.val)) := by decide

/-! ### Connections and bus power (R300, R302) -/

/-- Station `st` has no open connection on the port. -/
def Mod.tcpClosed (m : Mod) (p : Fin 19) (st : Nat) : Mod := m.portMap p fun x => { x with tcp := x.tcp.filter (· != st) }

/-- DALI bus power measured and shown. -/
def Mod.busPower (m : Mod) (p : Fin 19) (mv up : Nat) : Mod :=
  ((m.set (F.FBUS_DALI_BUS_VOLT p.val) mv).set (F.FBUS_STATUS_NO_POWER p.val) (1 - up)).set (F.FBUS_STATUS_UP p.val) up

/-- The registers of DALI bus power. -/
abbrev powerRegs (p : Fin 19) : List Fld := [F.FBUS_STATUS_NO_POWER p.val, F.FBUS_STATUS_UP p.val, F.FBUS_DALI_BUS_VOLT p.val]

theorem Only.busPower (m : Mod) (p : Fin 19) (mv up : Nat) : Only [] (powerRegs p) m (m.busPower p mv up) :=
  (((Only.unchanged m).set_mem _ (by simp)).set_mem _ (by simp)).set_mem _ (by simp)

theorem power_apart : ∀ p : Fin 19, ∀ f ∈ powerRegs p, ∀ g ∈ exchRegs p, Apart f g ∧ Apart g f := by decide

theorem Mod.busPower_shown (m : Mod) (p : Fin 19) (mv up : Nat) : (m.busPower p mv up).get (F.FBUS_STATUS_NO_POWER p.val) = (1 - up) % 2 ∧
    (m.busPower p mv up).get (F.FBUS_STATUS_UP p.val) = up % 2 ∧
    (m.busPower p mv up).get (F.FBUS_DALI_BUS_VOLT p.val) = mv % 2 ^ (F.FBUS_DALI_BUS_VOLT p.val).width := by
  have hup : Apart (F.FBUS_STATUS_UP p.val) (F.FBUS_STATUS_NO_POWER p.val) := by revert p; decide
  have hvolt : Apart (F.FBUS_STATUS_UP p.val) (F.FBUS_DALI_BUS_VOLT p.val) ∧
    Apart (F.FBUS_STATUS_NO_POWER p.val) (F.FBUS_DALI_BUS_VOLT p.val) := by revert p; decide
  refine ⟨?_, ?_, ?_⟩
  · rw [Mod.busPower, Mod.get_set_apart _ _ hup, Mod.get_set_self _ _ (by show 2 + 1 ≤ 32; decide)]
    rfl
  · rw [Mod.busPower, Mod.get_set_self _ _ (by show 0 + 1 ≤ 32; decide)]
    rfl
  · rw [Mod.busPower, Mod.get_set_apart _ _ hvolt.1, Mod.get_set_apart _ _ hvolt.2, Mod.get_set_self _ _ (by show 0 + 16 ≤ 32; decide)]

/-! ### What the rows of the field ports do to the module -/

/-- What the end of a reply of each kind makes of the exchange in progress. -/
def Mod.replyTaken (m : Mod) (p : Fin 19) (r : PollReq) (data : List Byte) (recs : List (Nat × Nat × List Byte)) : ReplyKind → Mod
  | .good => m.replied p r data recs
  | .exception => m.exchFail p r
  | .badCheck => (m.addSat (F.FBUS_RXERR_COUNT p.val) 1).attemptFail p

section

variable {s : State} {p : Fin 19} {e : Exch} {r : PollReq} (he : (s.m.ports.port[p]).exch = some e) (hr : s.m.reqDef p e.req = some r)
include he hr

theorem does_exchangeReply {P : Mod → Prop} (hw : e.waiting = false) (kind : ReplyKind) (data : List Byte)
    (recs : List (Nat × Nat × List Byte)) (hP : P (s.m.replyTaken p r data recs kind)) : Does (.exchangeReply p kind data recs) s P := by
  refine Does.of_onMod (exec_exchangeReply ..) ?_ hP
  rw [he]
  dsimp only
  rw [hr]
  dsimp only
  rw [hw, if_neg Bool.false_ne_true]
  cases kind <;> rfl

/-- The exchange in progress is the closed station's: its attempt fails (R302). -/
theorem does_tcpConnectionClosed_busy {P : Mod → Prop} (hen : s.m.portEn p = true) (hproto : s.m.proto p = 7)
    (hP : P ((s.m.tcpClosed p r.station).attemptFail p)) : Does (.tcpConnectionClosed p r.station) s P := by
  refine Does.of_onMod (exec_tcpConnectionClosed ..) ((if_pos (by simp [hen, hproto])).trans ?_) hP
  dsimp only
  rw [he, Option.bind_some, hr]
  simp [Mod.when, Mod.tcpClosed]

/-- Bus power below 9.5 V ends the exchange (R300). -/
theorem does_daliNoPower_busy {P : Mod → Prop} {mv : BitVec 16} (hmv : mv.toNat < 9500) (hen : s.m.portEn p = true) (hproto : s.m.proto p = 5)
    (hP : P ((s.m.busPower p mv.toNat 0).exchFail p r)) : Does (.daliNoPower p mv) s P := by
  refine Does.of_onMod (exec_daliNoPower ..) ((if_pos (by simp [hen, hproto, hmv])).trans ?_) hP
  have hbind : ((s.m.busPower p mv.toNat 0).ports.port[p]).exch.bind (fun e => (s.m.busPower p mv.toNat 0).reqDef p e.req) = some r := by
    rw [show ((s.m.busPower p mv.toNat 0).ports.port[p]).exch = some e from he]
    exact hr
  simp only [Mod.busPower] at hbind ⊢
  rw [hbind]

end

theorem exchEnds_tcpClosed (m : Mod) (p : Fin 19) (r : PollReq) :
    ExchEnds m ((m.tcpClosed p r.station).exchFail p r) p r false ∧
      (((m.tcpClosed p r.station).exchFail p r).ports.port[p]).tcp = (m.ports.port[p]).tcp.filter (· != r.station) := by
  have hport : (m.tcpClosed p r.station).ports.port[p] = { m.ports.port[p] with tcp := (m.ports.port[p]).tcp.filter (· != r.station) } :=
    Mod.portMap_same ..
  constructor
  · exact exchEnds_congr (exchEnds_exchFail ..) (by rw [hport]) (fun q hq => Mod.portMap_ne _ _ hq) fun _ _ => rfl
  · rw [Mod.exchFail_eq, Mod.exchClosed_port]
    show ((m.tcpClosed p r.station).ports.port[p]).tcp = _
    rw [hport]

/-- The end of an exchange by the loss of bus power shows the loss too. -/
theorem exchEnds_busPower (m : Mod) (p : Fin 19) (r : PollReq) (mv : Nat) :
    ExchEnds m ((m.busPower p mv 0).exchFail p r) p r false ∧ ((m.busPower p mv 0).exchFail p r).flag (F.FBUS_STATUS_NO_POWER p.val) = true ∧
      ((m.busPower p mv 0).exchFail p r).flag (F.FBUS_STATUS_UP p.val) = false ∧
      ((m.busPower p mv 0).exchFail p r).get (F.FBUS_DALI_BUS_VOLT p.val) = mv % 2 ^ (F.FBUS_DALI_BUS_VOLT p.val).width := by
  have hapart := power_apart p
  obtain ⟨hno, hup, hvolt⟩ := m.busPower_shown p mv 0
  have hkeeps : ∀ f ∈ powerRegs p, ((m.busPower p mv 0).exchFail p r).get f = (m.busPower p mv 0).get f := fun f hf =>
    (Only.exchFail ..).get fun g hg => (hapart f hf g hg).2
  refine ⟨exchEnds_congr (exchEnds_exchFail ..) rfl (fun q _ => rfl) fun f hf => (Only.busPower m p mv 0).get fun g hg => ?_, ?_, ?_, ?_⟩
  · exact (hapart g hg f (List.mem_of_mem_take (i := 2) hf)).1
  · rw [Mod.flag, hkeeps _ (by simp), hno]
    rfl
  · rw [Mod.flag, hkeeps _ (by simp), hup]
    rfl
  · rw [hkeeps _ (by simp), hvolt]

/-- Settles O28: each outcome of an exchange is one of three updates (closed well, closed as failed, attempted again), and each row makes
one of them after the register it counts or shows, which shares no bit with those the update reads or writes. -/
theorem fieldExchangesEndOrTryAgain : Obligations.FieldExchangesEndOrTryAgain := by
  intro s p e r b data recs mv st addr x _
  refine ⟨fun he hw hr hwrite hb => ?_, fun he hw hr => ?_, fun he hw hr => ?_, fun he hw hr htries hslot => ?_,
    fun he hr htries hslot => ?_, fun he hr hlast => ?_, fun hen hproto he hr htries hslot => ?_, fun hen hproto he hr hst hlast => ?_,
    fun hen hproto he => ?_, fun hen hproto he => ?_, fun hen hproto he => ?_, fun hmv hen hproto he hr => ?_, fun hmv => ?_,
    fun hmv hno => ?_, fun hmv => ?_, fun hen hproto he => ?_, fun hen hproto => ?_, fun hen hproto => ?_, fun hen hproto => ?_,
    fun hen hproto => ?_⟩
  case refine_1 =>
    exact does_exchangeReply he hr hw .good data recs
      ⟨exchEnds_replied .., Mod.replied_one _ _ _ _ _ hwrite hb, Only.replied ..⟩
  case refine_2 =>
    exact does_exchangeReply he hr hw .good data recs ⟨exchEnds_replied .., Only.replied ..⟩
  case refine_3 =>
    exact does_exchangeReply he hr hw .exception data recs
      ⟨exchEnds_exchFail .., Only.exchFail ..⟩
  case refine_4 =>
    obtain ⟨hreads, hkeeps⟩ := rxErr_apart p
    obtain ⟨heq, hagain⟩ := counted_retries _ hreads he hr htries hslot
    refine does_exchangeReply he hr hw .badCheck data recs ?_
    rw [show s.m.replyTaken p r data recs .badCheck = _ from heq]
    refine ⟨hagain, ?_, ((Only.unchanged s.m).set_mem _ (by simp)).trans ((Only.retried ..).weaken (List.Subset.refl _) (by simp))⟩
    rw [(Only.retried ..).get hkeeps, Mod.get_set_self _ _ (by show 0 + 32 ≤ 32; decide)]
    exact Nat.mod_eq_of_lt (satNat_lt ..)
  case refine_5 =>
    exact Does.of_onMod (exec_attemptTimeout ..) (Mod.attemptFail_retries he hr htries hslot) ⟨triesAgain_retried .., Only.retried ..⟩
  case refine_6 =>
    exact Does.of_onMod (exec_attemptTimeout ..) (Mod.attemptFail_fails he hr hlast) ⟨exchEnds_exchFail .., Only.exchFail ..⟩
  case refine_7 =>
    obtain ⟨hreads, hkeeps⟩ := collisions_apart p
    obtain ⟨heq, hagain⟩ := counted_retries _ hreads he hr htries hslot
    refine Does.of_onMod (exec_daliCollision ..) ((if_pos (by simp [hen, hproto])).trans heq) ⟨hagain, ?_, ?_⟩
    · rw [(Only.retried ..).get hkeeps, Mod.get_set_self _ _ (by show 16 + 16 ≤ 32; decide)]
      exact Nat.mod_eq_of_lt (satNat_lt ..)
    · exact ((Only.unchanged s.m).set_mem _ (by simp)).trans ((Only.retried ..).weaken (List.Subset.refl _) (by simp))
  case refine_8 =>
    subst hst
    refine does_tcpConnectionClosed_busy he hr hen hproto ?_
    have hexch : ((s.m.tcpClosed p r.station).ports.port[p]).exch = some e := by
      rw [show (s.m.tcpClosed p r.station).ports.port[p] = _ from Mod.portMap_same ..]
      exact he
    rw [Mod.attemptFail_fails hexch hr hlast]
    obtain ⟨hends, htcp⟩ := exchEnds_tcpClosed s.m p r
    exact ⟨hends, htcp, ((Only.portMap ..).weaken (List.Subset.refl _) (List.nil_subset _)).trans (Only.exchFail ..)⟩
  case refine_9 =>
    refine Does.of_onMod (exec_tcpConnectionClosed ..) (m' := s.m.tcpClosed p st) ((if_pos (by simp [hen, hproto])).trans ?_)
      ⟨rfl, Only.portMap ..⟩
    dsimp only
    rw [he]
    rfl
  case refine_10 =>
    refine Does.of_onMod (exec_mstpToken ..) ((if_pos (by simp [hen, hproto])).trans (by rw [he])) ⟨rfl, ?_, ?_⟩
    · rw [Mod.flag, Mod.get_set_self _ _ (by show 4 + 1 ≤ 32; decide)]
      rfl
    · exact ((Only.portMap ..).weaken (List.Subset.refl _) (List.nil_subset _)).set_mem _ (by simp)
  case refine_11 =>
    refine Does.of_onMod (exec_mstpToken ..) ((if_pos (by simp [hen, hproto])).trans (by rw [he])) ⟨?_, (Only.unchanged s.m).setB_mem _ (by simp)⟩
    exact Mod.flag_setB_self _ _ rfl (by show 4 < 32; decide)
  case refine_12 =>
    obtain ⟨hends, hno, hup, hvolt⟩ := exchEnds_busPower s.m p r mv.toNat
    refine does_daliNoPower_busy he hr hmv hen hproto ⟨hends, hno, hup, hvolt, ?_⟩
    exact ((Only.busPower ..).weaken (List.nil_subset _) (List.subset_append_left ..)).trans
      ((Only.exchFail ..).weaken (List.Subset.refl _) (List.subset_append_right (powerRegs p) _))
  case refine_13 =>
    exact exec_of_onMod_unchanged (exec_daliNoPower ..) (if_neg (by simp [Nat.not_lt.2 hmv]))
  case refine_14 =>
    obtain ⟨hshown, hup, hvolt⟩ := s.m.busPower_shown p mv.toNat 1
    refine Does.of_onMod (exec_daliPowerRestored ..) (m' := s.m.busPower p mv.toNat 1)
      ((if_pos (by simp [hmv, hno])).trans (by simp only [Mod.busPower])) ⟨?_, ?_, hvolt, Only.busPower ..⟩
    · rw [Mod.flag, hshown]
      rfl
    · rw [Mod.flag, hup]
      rfl
  case refine_15 =>
    exact exec_of_onMod_unchanged (exec_daliPowerRestored ..) (if_neg (by simp [Nat.not_lt.2 hmv]))
  case refine_16 =>
    exact Does.of_onMod (exec_daliEventMessage ..) (if_pos (by rw [he]; simp [hen, hproto])) ⟨rfl, Only.portMap ..⟩
  case refine_17 =>
    exact Does.of_onMod (exec_fieldEthernetFrame ..) (if_pos (by simp [hen, hproto])) ⟨rfl, Only.portMap ..⟩
  case refine_18 =>
    exact Does.of_onMod (exec_fieldEthernetFrame ..) (if_pos (by simp [hen, hproto])) ⟨rfl, Only.portMap ..⟩
  case refine_19 =>
    exact exec_of_onMod_unchanged (exec_fieldEthernetFrame ..) (if_pos (by simp [hen, hproto]))
  case refine_20 =>
    refine Does.of_onMod (exec_fieldEthernetFrame ..) (if_pos (by simp [hen, hproto])) ⟨?_, Only.set ..⟩
    rw [Mod.addSat, Mod.get_set_self _ _ (by show 0 + 32 ≤ 32; decide)]
    exact Nat.mod_eq_of_lt (satNat_lt ..)

end Sys2Proof.Machine

end

/-! PROOFS. The family 04_control_cycle_and_restart.md: the hard restart (O52). -/

section

namespace Sys2Proof.Machine

/-! ### The coarse frame -/

/-- The address lies in one of the ranges. -/
abbrev inRanges (rs : List (Nat × Nat)) (a : Nat) : Prop := ∃ r ∈ rs, r.1 ≤ a ∧ a < r.2

section

variable {ps qs : List Part} {rs ss : List (Nat × Nat)} {m m' m'' : Mod}

theorem Within.refl (m : Mod) : Within ps rs m m := ⟨fun p _ => by cases p <;> rfl, fun _ _ => rfl⟩

theorem Within.trans (h : Within ps rs m m') (h' : Within ps rs m' m'') : Within ps rs m m'' := by
  obtain ⟨hparts, hwords⟩ := h
  obtain ⟨hparts', hwords'⟩ := h'
  refine ⟨fun p hp => ?_, fun a ha => (hwords' a ha).trans (hwords a ha)⟩
  have h₁ := hparts p hp
  have h₂ := hparts' p hp
  cases p <;> exact Eq.trans h₂ h₁

theorem Within.weaken (h : Within ps rs m m') (hp : ps ⊆ qs) (hr : rs ⊆ ss) : Within qs ss m m' :=
  ⟨fun p hq => h.1 p fun hmem => hq (hp hmem), fun a ha => h.2 a fun r hmem => ha r (hr hmem)⟩

theorem Within.of_only {fs : List Fld} (h : Only ps fs m m') (hf : ∀ f ∈ fs, inRanges rs f.addr) : Within ps rs m m' := by
  obtain ⟨hparts, hwords⟩ := h
  refine ⟨hparts, fun a ha => BitVec.eq_of_getLsbD_eq fun j _ => hwords a j fun f hmem haddr => ?_⟩
  obtain ⟨r, hr, hlo, hhi⟩ := hf f hmem
  have := ha r hr
  omega

theorem Within.part (h : Within ps rs m m') (p : Part) (hp : p ∉ ps) : p.same m m' := h.1 p hp

/-- A field outside the ranges keeps its value. -/
theorem Within.get (h : Within ps rs m m') {f : Fld} (hf : ¬ inRanges rs f.addr) : m'.get f = m.get f := by
  have hword : m'.word f.addr = m.word f.addr := h.2 f.addr fun r hr => by
    by_contra hin
    exact hf ⟨r, hr, by omega, by omega⟩
  show bits (m'.word f.addr).toNat f.lo f.width = bits (m.word f.addr).toNat f.lo f.width
  rw [hword]

theorem Within.flag (h : Within ps rs m m') {f : Fld} (hf : ¬ inRanges rs f.addr) : m'.flag f = m.flag f := by
  rw [Mod.flag, Mod.flag, h.get hf]

theorem Within.set (h : Within ps rs m m') {f : Fld} (v : Nat) (hf : inRanges rs f.addr) : Within ps rs m (m'.set f v) :=
  h.trans (Within.of_only ((Only.set m' f v).weaken (List.nil_subset _) (List.Subset.refl _)) (by simpa using hf))

theorem Within.put (h : Within ps rs m m') (p : Part) (hp : p ∈ ps) (heq : m'' = p.put m' m'') : Within ps rs m m'' :=
  h.trans (Within.of_only ((Only.of_put heq).weaken (by simpa using hp) (List.Subset.refl _)) (by simp))

theorem Within.foldl {α : Type} {f : Mod → α → Mod} : ∀ (l : List α) (m : Mod),
    (∀ (m : Mod) (x : α), x ∈ l → Within ps rs m (f m x)) →
    Within ps rs m (l.foldl f m)
  | [], m, _ => Within.refl m
  | x :: xs, m, h => (h m x (List.mem_cons_self ..)).trans (Within.foldl xs _ fun m y hy => h m y (List.mem_cons_of_mem _ hy))

end

theorem mapGet_filter {α : Type} {k : Nat} {p : Nat × α → Bool} (hp : ∀ x, p (k, x) = true) (l : List (Nat × α)) :
    mapGet k (l.filter p) = mapGet k l := by
  induction l with
  | nil => rfl
  | cons e l ih =>
    obtain ⟨a, x⟩ := e
    by_cases hk : a = k
    · subst hk
      simp [hp, mapGet]
    · rw [List.filter_cons]
      split
      · simp [mapGet, hk, ih]
      · simp [mapGet, hk, ih]

theorem regRead_regsClear {rs : List (Nat × Word)} {lo hi a : Nat} (ha : a < lo ∨ hi ≤ a) : regRead (regsClear rs lo hi) a = regRead rs a := by
  rw [regRead, regRead, regsClear, mapGet_filter fun _ => by simpa using ha]

/-- A domain's registers at their reset values: no register of another domain is different. -/
theorem Within.pdRegs (m : Mod) (d : Nat) : Within [] (pdRange d) m (m.pdRegs d) := by
  refine ⟨fun p _ => by cases p <;> rfl, fun a ha => ?_⟩
  show regRead ((pdRange d).foldl (fun rs r => regsClear rs r.1 r.2) m.regs) a = regRead m.regs a
  generalize pdRange d = l at ha
  generalize m.regs = regs
  induction l generalizing regs with
  | nil => rfl
  | cons r l ih => exact (ih (fun r hr => ha r (List.mem_cons_of_mem _ hr)) _).trans (regRead_regsClear (ha r (List.mem_cons_self ..)))

theorem bitAt_putBits_same (w d x : Nat) : bitAt (putBits w d 1 x) d = (x % 2 == 1) := by
  show (bits (putBits w d 1 x) d 1 == 1) = _
  rw [bits_putBits_same]
  rfl

theorem bitAt_putBits_ne (w x : Nat) {d e : Nat} (h : e ≠ d) : bitAt (putBits w d 1 x) e = bitAt w e := by
  rw [bitAt_eq_testBit, bitAt_eq_testBit, testBit_putBits_ne (by omega)]

/-! ### A domain goes off (R469, R477) -/

/-- The domains that a hard restart switches off. -/
def killed : List (Fin 15) := [13, 12, 11, 10, 7, 5, 4, 6, 14, 3]

theorem swPd_ne_of_killed {d : Fin 15} (hd : d ∈ killed) : swPd 2 ≠ swPd d := by
  revert d
  decide

/-- What the switching off of domains may change. -/
def darkParts : List Part := [.clk, .mem, .plan, .sw, .loops, .tests, .ports, .twin, .orpor, .upl, .pool, .pwr, .logs]
def darkRanges : List (Nat × Nat) := ([3, 4, 5, 6, 7, 10, 11, 12, 13, 14] : List Nat).flatMap pdRange ++ [(0x04000, 0x07000), (0x78000, 0x79000)]

/-- The parts of those that `Darkens` does not speak of. -/
def calmParts : List Part := [.mem, .loops, .tests, .ports, .twin, .pool, .logs]

theorem UplMarked.trans {m m' m'' : Mod} (h : UplMarked m m') (h' : UplMarked m' m'') : UplMarked m m'' := fun v => by
  rw [h' v, h v]

theorem UplMarked.of_eq {m m' : Mod} (h : m'.upl = m.upl) : UplMarked m m' := fun v => by rw [h]

/-- Domains go off, or what follows from that: no clock's time is different, nothing that is off or unloaded comes back, and of the supply
only what is wanted changes. -/
structure Darkens (m m' : Mod) : Prop where
  within : Within darkParts darkRanges m m'
  ns : m'.clk.ns = m.clk.ns
  mono : m'.clk.mono = m.clk.mono
  upl : UplMarked m m'
  pwr : m'.pwr = { m.pwr with want := m'.pwr.want }
  sessions : m.orpor.sessions = [] → m'.orpor.sessions = []
  plan : m.plan.active = none → m'.plan.active = none
  off : ∀ i : Fin 31, (m.sw[i]).ph = .off → (m'.sw[i]).ph = .off
  tcxo : m'.sw[swPd 2] = m.sw[swPd 2]
  want : ∀ d : Fin 15, bitAt m.pwr.want d.val = false → bitAt m'.pwr.want d.val = false

namespace Darkens

variable {m m' m'' : Mod}

theorem refl (m : Mod) : Darkens m m :=
  ⟨Within.refl m, rfl, rfl, UplMarked.of_eq rfl, rfl, id, id, fun _ h => h, rfl, fun _ h => h⟩

theorem trans (h : Darkens m m') (h' : Darkens m' m'') : Darkens m m'' where
  within := h.within.trans h'.within
  ns := h'.ns.trans h.ns
  mono := h'.mono.trans h.mono
  upl := UplMarked.trans h.upl h'.upl
  pwr := by rw [h'.pwr, h.pwr]
  sessions := h'.sessions ∘ h.sessions
  plan := h'.plan ∘ h.plan
  off := fun i hi => h'.off i (h.off i hi)
  tcxo := h'.tcxo.trans h.tcxo
  want := fun d hd => h'.want d (h.want d hd)

/-- A change of the other parts. -/
theorem of_within {ps : List Part} {rs : List (Nat × Nat)} (h : Within ps rs m m') (hps : ps ⊆ calmParts) (hrs : rs ⊆ darkRanges) :
    Darkens m m' := by
  have hcalm : calmParts ⊆ darkParts := by decide
  have hsame (p : Part) (hp : p ∉ calmParts) : p.same m m' := h.part p fun hmem => hp (hps hmem)
  have hclk : m'.clk = m.clk := hsame .clk (by decide)
  have hupl : m'.upl = m.upl := hsame .upl (by decide)
  have hpwr : m'.pwr = m.pwr := hsame .pwr (by decide)
  have horpor : m'.orpor = m.orpor := hsame .orpor (by decide)
  have hplan : m'.plan = m.plan := hsame .plan (by decide)
  have hsw : m'.sw = m.sw := hsame .sw (by decide)
  exact ⟨h.weaken (fun p hp => hcalm (hps hp)) hrs, by rw [hclk], by rw [hclk], UplMarked.of_eq hupl, by rw [hpwr], by rw [horpor]; exact id,
    by rw [hplan]; exact id, by rw [hsw]; exact fun _ h => h, by rw [hsw],
    by rw [hpwr]; exact fun _ h => h⟩

theorem of_only {ps : List Part} {fs : List Fld} (h : Only ps fs m m') (hps : ps ⊆ calmParts) (hfs : ∀ f ∈ fs, inRanges darkRanges f.addr) :
    Darkens m m' := of_within (Within.of_only h hfs) hps (List.Subset.refl _)

theorem set (h : Darkens m m') {f : Fld} (v : Nat) (hf : inRanges darkRanges f.addr) : Darkens m (m'.set f v) :=
  h.trans (of_only (Only.set m' f v) (List.nil_subset _) (by simpa using hf))

theorem log (m : Mod) (e : Ev) (src : Nat) (data : List Byte) : Darkens m (m.log e src data) := of_only (Only.log ..) (by decide) (by decide)

theorem when {c : Bool} {f : Mod → Mod} (h : ∀ m, Darkens m (f m)) : Darkens m (m.when c f) := by
  cases c
  · exact refl m
  · exact h m

theorem foldl {α : Type} {f : Mod → α → Mod} : ∀ (l : List α) (m : Mod), (∀ (m : Mod) (x : α), x ∈ l → Darkens m (f m x)) →
    Darkens m (l.foldl f m)
  | [], m, _ => refl m
  | x :: xs, m, h => (h m x (List.mem_cons_self ..)).trans (foldl xs _ fun m y hy => h m y (List.mem_cons_of_mem _ hy))

/-- A change of the clock part that leaves the time alone. -/
theorem of_clk {c : Clk} (hns : c.ns = m.clk.ns) (hmono : c.mono = m.clk.mono) : Darkens m { m with clk := c } :=
  ⟨(Within.refl m).put .clk (by decide) rfl, hns, hmono, UplMarked.of_eq rfl, rfl, id, id, fun _ h => h, rfl, fun _ h => h⟩

/-- The plan and the sessions are lost. -/
theorem of_unloaded {pl : PlanSt} {mem : MemSt} {o : OrporSt} (hplan : pl.active = none) (hsessions : o.sessions = []) :
    Darkens m { m with plan := pl, mem := mem, orpor := o } :=
  ⟨((((Within.refl m).put (m'' := { m with plan := pl }) .plan (by decide) rfl).put (m'' := { m with plan := pl, mem := mem }) .mem (by decide)
    rfl).put .orpor (by decide) rfl), rfl, rfl, UplMarked.of_eq rfl, rfl, fun _ => hsessions, fun _ => hplan, fun _ h => h, rfl,
    fun _ h => h⟩

theorem unwant (m : Mod) (d : Nat) : Darkens m (m.pdSet [d] false) := by
  refine ⟨(Within.refl m).put .pwr (by decide) rfl, rfl, rfl, UplMarked.of_eq rfl, rfl, id, id, fun _ h => h, rfl, fun e he => ?_⟩
  by_cases hed : e.val = d
  · rw [hed]
    exact bitAt_putBits_same ..
  · exact (bitAt_putBits_ne _ _ hed).trans he

end Darkens

theorem Mod.sw_swMap_same (m : Mod) (i : Fin 31) (f : Sw → Sw) : (m.swMap i f).sw[i] = f m.sw[i] := by simp [Mod.swMap]

theorem Mod.sw_swMap_ne (m : Mod) {i j : Fin 31} (f : Sw → Sw) (h : j ≠ i) : (m.swMap i f).sw[j] = m.sw[j] := by
  have hne : i.val ≠ j.val := fun he => h (Fin.ext he.symm)
  simp [Mod.swMap, Vector.getElem_set_ne, hne]

theorem Mod.sw_swSet_same (m : Mod) (i : Fin 31) (on : Bool) : ((m.swSet i on).sw[i]).ph = if on then .on else .off :=
  congrArg Sw.ph (m.sw_swMap_same ..)

theorem Mod.sw_swSet_ne (m : Mod) {i j : Fin 31} (on : Bool) (h : j ≠ i) : (m.swSet i on).sw[j] = m.sw[j] := m.sw_swMap_ne _ h

theorem uplMarked_poolMark (m : Mod) (u : Fin 2) : UplMarked m (m.poolMark u) := fun v => by
  by_cases hv : v = u
  · subst hv
    simp [Mod.poolMark]
  · have hne : u.val ≠ v.val := fun he => hv (Fin.ext he.symm)
    simp [Mod.poolMark, Vector.getElem_set_ne, hne]

namespace Darkens

/-- A switch goes off. -/
theorem swSet (m : Mod) {i : Fin 31} (hi : swPd 2 ≠ i) : Darkens m (m.swSet i false) := by
  refine ⟨(Within.refl m).put .sw (by decide) rfl, rfl, rfl, UplMarked.of_eq rfl, rfl, id, id, fun j hj => ?_, m.sw_swSet_ne false hi,
    fun _ h => h⟩
  by_cases hij : j = i
  · subst hij
    exact m.sw_swSet_same j false
  · rwa [m.sw_swSet_ne false hij]

theorem poolMark (m : Mod) (u : Fin 2) : Darkens m (m.poolMark u) :=
  ⟨(Within.refl m).put .upl (by decide) rfl, rfl, rfl, uplMarked_poolMark m u, rfl, id, id, fun _ h => h, rfl, fun _ h => h⟩

theorem poolLose (m : Mod) (p : PoolFrame → Bool) : Darkens m (m.poolLose p) :=
  (((of_only (Only.of_put (p := .pool) rfl) (by decide) (by simp) : Darkens m { m with pool := (m.poolLose p).pool }).trans (poolMark _ 0)).trans
    (poolMark _ 1) :)

/-- The synchronisation state shown and logged (R150, R160). -/
theorem setSync (m : Mod) (new code : Nat) : Darkens m (m.setSync new code) := by
  have hshown : Darkens m ((m.set F.TIME_STATUS_SOURCE (if new = syFree then 0 else code)).set F.TIME_STATUS_STATE new) :=
    ((refl m).set _ (by decide)).set _ (by decide)
  unfold Mod.setSync
  refine trans (trans hshown (when fun m => ?_)) (when fun m => ?_)
  · exact of_clk rfl rfl
  · refine trans ?_ (log ..)
    exact of_clk rfl rfl

theorem acqShow (m : Mod) : Darkens m m.acqShow := when fun m => (refl m).set _ (by decide)

theorem loseSrc (m : Mod) (x : Source) : Darkens m (m.loseSrc x) := by
  have hqual : inRanges darkRanges (qualFld x).addr := by cases x <;> decide
  have hlost : Darkens m (m.srcMap x fun s => { s with qual := false, good := 0, lastEdge := none }) := of_clk rfl rfl
  have hcount := (hlost.set 0 hqual).trans (when (c := m.clk.selected == some x && (m.src x).qual)
    (f := fun m => m.addSat F.TIME_EVENTS_LOSSES 1) fun m => (refl m).set _ (by decide))
  unfold Mod.loseSrc
  dsimp only
  split
  · exact hcount
  · split
    · exact hcount.trans (acqShow _)
    · have hslew := hcount.set (f := F.TIME_STATUS_SLEWING) 0 (by decide)
      split
      · exact hslew.trans (setSync ..)
      · split
        · split
          · exact hslew.trans (setSync ..)
          · exact hslew.trans (setSync ..)
        · exact hslew.trans (acqShow _)

theorem uplDown (m : Mod) (u : Fin 2) : Darkens m (m.uplDown u) := by
  have hregs : inRanges darkRanges (F.UPL_STATUS_LINK u.val).addr ∧ inRanges darkRanges (F.UPL_STATUS_PREEMPT_ACTIVE u.val).addr := by
    revert u
    decide
  have hshown := ((refl m).set (f := F.UPL_STATUS_LINK u.val) 0 hregs.1).set (f := F.UPL_STATUS_PREEMPT_ACTIVE u.val) 0 hregs.2
  have hlost := hshown.trans (poolLose _ fun f => f.ch == 4 * u.val + 2 || f.ch == 4 * u.val + 3)
  unfold Mod.uplDown
  dsimp only
  split
  · exact hlost.trans (loseSrc ..)
  · exact hlost

theorem pdLose (m : Mod) {d : Fin 15} (hd : d ∈ killed) : Darkens m (m.pdLose d.val) := by
  have hcalm {m' : Mod} (p : Part) (hp : p ∈ calmParts) (heq : m' = p.put m m') : Darkens m m' :=
    of_only (Only.of_put heq) (by simpa using hp) (by simp)
  simp only [killed, List.mem_cons, List.not_mem_nil, or_false] at hd
  rcases hd with rfl | rfl | rfl | rfl | rfl | rfl | rfl | rfl | rfl | rfl
  · exact hcalm .twin (by decide) rfl
  · exact refl m
  · exact refl m
  · exact hcalm .ports (by decide) rfl
  · exact (hcalm (m' := { m with loops := [] }) .loops (by decide) rfl).trans (of_only (Only.of_put (p := .tests) rfl) (by decide) (by simp))
  · exact refl m
  · exact refl m
  · exact hcalm .mem (by decide) rfl
  · exact hcalm .pool (by decide) rfl
  · show Darkens m (m.pdLose 3)
    simp only [Mod.pdLose]
    split
    · refine set ?_ (f := F.KEY_FW_STATUS_STAGE) 0 (by decide)
      exact of_unloaded (o := {}) rfl rfl
    · exact of_unloaded (o := {}) rfl rfl

/-- The registers of a domain that a hard restart switches off are in its frame. -/
theorem pdRange_subset {d : Fin 15} (hd : d ∈ killed) : pdRange d.val ⊆ darkRanges := by
  revert d
  decide

theorem pdDown (m : Mod) {d : Fin 15} (hd : d ∈ killed) : Darkens m (m.pdDown d) := by
  have hlost : Darkens m ((m.pdLose d.val).pdRegs d.val) :=
    (pdLose m hd).trans (of_within (Within.pdRegs ..) (List.nil_subset _) (pdRange_subset hd))
  unfold Mod.pdDown
  dsimp only
  split
  · exact hlost.trans (swSet _ (by decide))
  · exact hlost.trans (swSet _ (by decide))
  · exact hlost.trans (swSet _ (by decide))
  · exact ((hlost.trans (swSet _ (by decide))).trans (swSet _ (by decide))).trans (foldl _ _ fun m k _ => swSet m (by revert k; decide))
  · exact (hlost.trans (uplDown ..)).trans (swSet _ (by decide))
  · exact hlost.trans (uplDown ..)
  · exact hlost.trans (swSet _ (by decide))
  · exact hlost.trans (swSet _ (by decide))
  · exact hlost

theorem pdKill (m : Mod) {d : Fin 15} (hd : d ∈ killed) : Darkens m (m.pdKill d) := by
  have hwant := unwant m d.val
  unfold Mod.pdKill
  dsimp only
  split
  · exact hwant
  · exact (hwant.trans (swSet _ (swPd_ne_of_killed hd))).trans (pdDown _ hd)

end Darkens

theorem Mod.pdPh_eq (m : Mod) (d : Fin 15) : m.pdPh d.val = (m.sw[swPd d]).ph := by simp [Mod.pdPh]

theorem Mod.pdPh_pdKill (m : Mod) {d : Fin 15} (hd : d ∈ killed) : (m.pdKill d).pdPh d.val = .off := by
  unfold Mod.pdKill
  dsimp only
  split
  case isTrue hoff => exact hoff
  case isFalse =>
    rw [Mod.pdPh_eq]
    exact (Darkens.pdDown _ hd).off _ (Mod.sw_swSet_same ..)

theorem Mod.unwanted_pdKill (m : Mod) {d : Fin 15} (hd : d ∈ killed) : bitAt (m.pdKill d).pwr.want d.val = false := by
  have hset : bitAt (m.pdSet [d.val] false).pwr.want d.val = false := bitAt_putBits_same ..
  unfold Mod.pdKill
  dsimp only
  split
  · exact hset
  · exact ((Darkens.swSet _ (swPd_ne_of_killed hd)).trans (Darkens.pdDown _ hd)).want d hset

/-- Every domain of the list is off and not wanted after the last of them was switched off. -/
theorem Mod.off_foldl_pdKill : ∀ (l : List (Fin 15)) (m : Mod), l ⊆ killed → ∀ d ∈ l,
    ((l.foldl Mod.pdKill m).sw[swPd d]).ph = .off ∧ bitAt (l.foldl Mod.pdKill m).pwr.want d.val = false
  | [], _, _, _, hd => absurd hd (List.not_mem_nil)
  | e :: l, m, hl, d, hd => by
    have he : e ∈ killed := hl (List.mem_cons_self ..)
    have hsub : l ⊆ killed := fun x hx => hl (List.mem_cons_of_mem _ hx)
    rcases List.mem_cons.1 hd with rfl | hd
    · have hrest := Darkens.foldl l (m.pdKill d) fun m x hx => Darkens.pdKill m (hsub hx)
      exact ⟨hrest.off _ (by rw [← Mod.pdPh_eq]; exact m.pdPh_pdKill he), hrest.want d (m.unwanted_pdKill he)⟩
    · exact off_foldl_pdKill l _ hsub d hd

/-! ### Everything that runs stops (R105, R477) -/

/-- What stops at a hard restart, before any domain is off. -/
def cutParts : List Part :=
  [.twin, .logs, .plan, .tests, .exec, .lanes, .outs, .jack, .bit, .mem, .retain, .orpor, .nvm, .met, .key, .freeCtr, .pwr]
def cutRanges : List (Nat × Nat) :=
  [(0x04000, 0x07000), (0x10000, 0x14000), (0x14000, 0x15000), (0x20000, 0x30000), (0x30000, 0x34000), (0x48000, 0x49000), (0x78000, 0x79000),
    (0x80000, 0x90000)]

section

variable (m : Mod)

theorem Within.testAbort (g : Fin 4) (cause : Nat) : Within [.tests] cutRanges m (m.testAbort g cause) := by
  have hregs : inRanges cutRanges (F.LOOPTEST_STATUS_STATE g.val).addr ∧ inRanges cutRanges (F.LOOPTEST_STATUS_CAUSE g.val).addr := by
    revert g
    decide
  have hloop (m : Mod) : inRanges cutRanges (F.LOOP_MODE_TEST (m.get (F.LOOPTEST_CTRL_LOOP g.val))).addr := by
    have hn : m.get (F.LOOPTEST_CTRL_LOOP g.val) < 2 ^ 8 := m.get_lt_two_pow (F.LOOPTEST_CTRL_LOOP g.val)
    refine ⟨(0x20000, 0x30000), by decide, ?_, ?_⟩
    · show 0x20000 ≤ 0x20030 + 0x40 * _
      omega
    · show 0x20030 + 0x40 * _ < 0x30000
      omega
  have htests : Within [.tests] cutRanges m { m with tests := m.tests.set g { m.tests[g] with start := false } } :=
    (Within.refl m).put .tests (by decide) rfl
  have hshown := (htests.set 3 hregs.1).set cause hregs.2
  unfold Mod.testAbort Mod.when
  dsimp only
  split
  · exact hshown.set 0 (hloop _)
  · exact hshown

theorem Within.abortTests : Within [.tests] cutRanges m m.abortTests :=
  Within.foldl _ _ fun m g _ => by
    split
    · exact Within.testAbort ..
    · exact Within.refl m

/-- Bar line, swap, tests and lanes ended. -/
def Mod.lanesCut : Mod := ((m.barRelease.cancelSwap).abortTests).haltLanes

def lanesCutParts : List Part := [.twin, .logs, .plan, .tests, .exec, .lanes]

theorem Within.lanesCut : Within lanesCutParts cutRanges m m.lanesCut :=
  (((Within.of_only ((Only.barRelease m).weaken (by decide) (List.Subset.refl _)) (by decide)).trans
    (Within.of_only ((Only.cancelSwap _).weaken (by decide) (List.Subset.refl _)) (by decide))).trans
    ((Within.abortTests _).weaken (by decide) (List.Subset.refl _))).trans
    (Within.of_only ((Only.haltLanes _).weaken (by decide) (List.Subset.refl _)) (by simp))

/-- Jack path and bit program ended too. -/
def Mod.driveCut : Mod := m.lanesCut.dropStaging.jackOff.bitOff

def driveCutParts : List Part := lanesCutParts ++ [.outs, .jack, .bit]

theorem Within.driveCut : Within driveCutParts cutRanges m m.driveCut := by
  have hstaged : Within driveCutParts cutRanges m m.lanesCut.dropStaging :=
    ((Within.lanesCut m).weaken (by decide) (List.Subset.refl _)).put .outs (by decide) rfl
  exact (hstaged.trans (Within.of_only ((Only.jackOff _).weaken (by decide) (List.Subset.refl _)) (by decide))).trans
    (Within.of_only ((Only.bitOff _).weaken (by decide) (List.Subset.refl _)) (by decide))

theorem Mod.driveCut_req (i : Fin 48) : (m.driveCut.outs[i]).req = (m.outs[i]).req := by
  have houts : m.lanesCut.outs = m.outs := (Within.lanesCut m).part .outs (by decide)
  simp [Mod.driveCut, Mod.bitOff, Mod.jackOff, Mod.dropStaging, houts]

/-- The records of a stop of everything: no plan, no lane, no burst, no write. -/
def Mod.stilled : Mod :=
  { m with
    outs := m.outs.map (fun (u : OutSt) => { req := u.req &&& 16 })
    plan := { m.plan with active := none, drumA := [], drumB := [], armed := none, armSafe := none, armRecord := false, migrated := false }
    lanes := Vector.replicate 8 {}
    exec := { autoTimes := m.exec.autoTimes }
    mem := { m.mem with writes := [], before := [] }
    retain := m.retain.map (fun (r : RetainSlot) => if r.writing then { r with ok := false, writing := false } else r) }

theorem Mod.allStop_eq : m.allStop =
    (((m.driveCut.stilled.set F.EXEC_STATE_NOPLAN 1).set F.EXEC_RETAIN_WRITING 0).set F.SAFE_STATUS_FAULT 0).set F.SAFE_STATUS_CAUSE 0 := rfl

def stopAllParts : List Part := driveCutParts ++ [.mem, .retain]

theorem Within.stilled : Within [.outs, .plan, .lanes, .exec, .mem, .retain] cutRanges m m.stilled := by
  refine ⟨fun p hp => ?_, fun _ _ => rfl⟩
  cases p
  case outs | plan | lanes | exec | mem | retain => exact absurd (by decide) hp
  all_goals rfl

theorem Within.allStop : Within stopAllParts cutRanges m m.allStop := by
  rw [Mod.allStop_eq]
  have hstilled : Within stopAllParts cutRanges m m.driveCut.stilled :=
    ((Within.driveCut m).weaken (by decide) (List.Subset.refl _)).trans ((Within.stilled _).weaken (by decide) (List.Subset.refl _))
  exact (((hstilled.set _ (by decide)).set _ (by decide)).set _ (by decide)).set _ (by decide)

theorem Mod.allStop_outs (i : Fin 48) : m.allStop.outs[i] = { req := (m.outs[i]).req &&& 16 } := by
  have houts : m.allStop.outs = m.driveCut.outs.map (fun (u : OutSt) => { req := u.req &&& 16 }) := by
    rw [Mod.allStop_eq]
    rfl
  rw [houts]
  have hreq := m.driveCut_req i
  simp_all

theorem Mod.allStop_plan : m.allStop.plan.active = none := by
  rw [Mod.allStop_eq]
  rfl

theorem Mod.allStop_noplan : m.allStop.flag F.EXEC_STATE_NOPLAN = true := by
  rw [Mod.allStop_eq, Mod.flag_set_apart _ _ (by decide), Mod.flag_set_apart _ _ (by decide), Mod.flag_set_apart _ _ (by decide), Mod.flag,
    Mod.get_set_self _ _ (by decide)]
  rfl

end

/-! ### Flash work settles (R477, step 3) -/

/-- The registers that flash work writes. -/
def settleRanges : List (Nat × Nat) := [(0x04000, 0x07000), (0x30000, 0x34000)]

/-- Flash work ends or is abandoned: the firmware banks stand. -/
structure Settles (m m' : Mod) : Prop where
  within : Within [.nvm, .logs, .met, .key, .freeCtr] settleRanges m m'
  banks : m'.key.banks = m.key.banks

namespace Settles

variable {m m' m'' : Mod}

theorem refl (m : Mod) : Settles m m := ⟨Within.refl m, rfl⟩

theorem trans (h : Settles m m') (h' : Settles m' m'') : Settles m m'' := ⟨h.within.trans h'.within, h'.banks.trans h.banks⟩

theorem of_within {ps : List Part} (h : Within ps settleRanges m m') (hps : ps ⊆ [.nvm, .logs, .met, .freeCtr]) : Settles m m' := by
  have hkey : m'.key = m.key := h.part .key fun hmem => absurd (hps hmem) (by decide)
  have hsub : [Part.nvm, .logs, .met, .freeCtr] ⊆ [Part.nvm, .logs, .met, .key, .freeCtr] := by decide
  exact ⟨h.weaken (fun p hp => hsub (hps hp)) (List.Subset.refl _), by rw [hkey]⟩

theorem nvm (h : m' = { m with nvm := m'.nvm }) : Settles m m' :=
  of_within ((Within.refl m).put .nvm (List.mem_singleton_self _) h) (by decide)

theorem log (m : Mod) (e : Ev) (src : Nat) (data : List Byte) : Settles m (m.log e src data) :=
  of_within (Within.of_only (Only.log ..) (by decide)) (by decide)

theorem set (m : Mod) {f : Fld} (v : Nat) (hf : inRanges settleRanges f.addr) : Settles m (m.set f v) :=
  of_within ((Within.refl (ps := []) m).set v hf) (List.nil_subset _)

theorem key {k : KeySt} (h : k.banks = m.key.banks) : Settles m { m with key := k } := ⟨(Within.refl m).put .key (by decide) rfl, h⟩

theorem paramDone (m : Mod) (k : Nat) (tomb : Bool) (payload : List Byte) : Settles m (m.paramDone k tomb payload) := nvm rfl

theorem reclaim (m : Mod) : Settles m m.reclaim := by
  unfold Mod.reclaim
  dsimp only
  split
  · exact refl m
  · exact nvm rfl

theorem setMet (m : Mod) (c : Nat) (x : MetCh) : Settles m (m.setMet c x) :=
  of_within ((Within.refl m).put .met (List.mem_singleton_self _) rfl) (by decide)

theorem calDone (m : Mod) (k : Nat) (payload : List Byte) : Settles m (m.calDone k payload) := by
  unfold Mod.calDone
  split
  case isTrue hk =>
    have hregs : inRanges settleRanges (F.MET_CAL_COMMITS (k - keyCal 0)).addr := by
      obtain ⟨hlo, hhi⟩ := hk
      simp only [keyCal] at hlo hhi
      refine ⟨(0x30000, 0x34000), by decide, ?_, ?_⟩
      · show 0x30000 ≤ 0x3007C + 0x80 * (k - 0x30000)
        omega
      · show 0x3007C + 0x80 * (k - 0x30000) < 0x34000
        omega
    exact ((set m _ hregs).trans (log ..)).trans (setMet ..)
  case isFalse => exact refl m

theorem putKey (m : Mod) (i : Fin 8) (v : Option (List Byte)) (gen : Nat) : Settles m (m.putKey i v gen) := by
  unfold Mod.putKey
  split
  · refine trans ?_ (of_within (Within.of_only (Only.drawnN ..) (by simp)) (by decide))
    exact key rfl
  · exact key rfl

theorem keyShow (m : Mod) : Settles m m.keyShow := (set m _ (by decide)).trans (set _ _ (by decide))

theorem commitDone (m : Mod) : Settles m m.commitDone := by
  unfold Mod.commitDone
  split
  · refine trans (trans ?_ (log ..)) (keyShow _)
    exact key rfl
  · exact refl m

theorem keyDone (m : Mod) (k : Nat) (tomb : Bool) (payload : List Byte) : Settles m (m.keyDone k tomb payload) := by
  unfold Mod.keyDone
  split
  · exact commitDone m
  · split
    · exact putKey ..
    · exact refl m

/-- Records move from the recorder's buffer to flash. -/
theorem recorder {lg : LogSt} {nv : NvmSt} : Settles m { m with logs := lg, nvm := nv } :=
  of_within (((Within.refl (ps := [.logs, .nvm]) m).put (m'' := { m with logs := lg }) .logs (by decide) rfl).put .nvm (by decide) rfl) (by decide)

theorem ctrAdd (m : Mod) (i : Fin 24) (k : Nat) : Settles m (m.ctrAdd i k) := nvm rfl

theorem flushDone (m : Mod) (a : Nat) (recs : List Rec) : Settles m (m.flushDone a recs) := by
  unfold Mod.flushDone
  refine trans ?_ (ctrAdd ..)
  exact recorder

theorem intervalDone (m : Mod) (recs : List IntRec) : Settles m (m.intervalDone recs) := by
  unfold Mod.intervalDone
  refine trans ?_ (ctrAdd ..)
  exact recorder

theorem mirrorDone (m : Mod) (recs : List Rec) : Settles m (m.mirrorDone recs) := by
  unfold Mod.mirrorDone
  refine trans ?_ (ctrAdd ..)
  exact recorder

end Settles

/-- Without sessions no reply waits. -/
theorem Mod.releaseHeld_of_sessions {m : Mod} (h : m.orpor.sessions = []) : m.releaseHeld = m := by
  rw [Mod.releaseHeld, h]
  rfl

namespace Settles

variable {m m' : Mod}

theorem releaseHeld (h : Settles m m') (hs : m.orpor.sessions = []) : Settles m m'.releaseHeld := by
  have horpor : m'.orpor = m.orpor := h.within.part .orpor (by decide)
  rwa [Mod.releaseHeld_of_sessions (by rw [horpor, hs])]

theorem programDone (hs : m.orpor.sessions = []) : Settles m m.programDone := by
  unfold Mod.programDone
  split
  case h_1 j js hjobs =>
    have hnext : Settles m { m with nvm := { m.nvm with jobs := js } } := nvm rfl
    dsimp only
    split
    · exact ((((hnext.trans (paramDone ..)).trans (calDone ..)).trans (keyDone ..)).trans (reclaim _)).releaseHeld hs
    · exact hnext.trans (paramDone ..)
    · exact hnext.releaseHeld hs
    · exact hnext.trans (flushDone ..)
    · exact hnext.trans (intervalDone ..)
    · exact hnext.trans (mirrorDone ..)
    · exact refl m
  case h_2 => exact refl m

/-- The flash controller stopped: no work waits and no margin read runs. -/
theorem jobsGone {nv : NvmSt} : Settles m { m with nvm := nv, regs := fldSet m.regs F.NVM_STATUS_MARGIN_RUN 0 } :=
  (set m 0 (f := F.NVM_STATUS_MARGIN_RUN) (by decide)).trans (nvm rfl)

theorem flashSettle (hs : m.orpor.sessions = []) : Settles m m.flashSettle := by
  unfold Mod.flashSettle
  dsimp only
  refine trans ?_ jobsGone
  split
  · exact jobsGone
  · exact programDone hs
  · exact refl m

end Settles

theorem Mod.flashSettle_jobs (m : Mod) : m.flashSettle.nvm.jobs = [] := rfl

/-! ### The hard restart (R113, R477) -/

/-- Everything that runs has stopped, the sessions are closed and the flash controller stands. -/
def Mod.cutOff (m : Mod) : Mod := m.allStop.closeAll.flashSettle

structure CutOff (m m' : Mod) : Prop where
  within : Within cutParts cutRanges m m'
  outs : ∀ i : Fin 48, m'.outs[i] = { req := (m.outs[i]).req &&& 16 }
  plan : m'.plan.active = none
  noplan : m'.flag F.EXEC_STATE_NOPLAN = true
  sessions : m'.orpor.sessions = []
  jobs : m'.nvm.jobs = []
  banks : m'.key.banks = m.key.banks
  pwr : m'.pwr = m.pwr

theorem Mod.closeAll_sessions (m : Mod) : m.closeAll.orpor.sessions = [] := rfl

theorem Within.closeAll (m : Mod) : Within [.orpor, .exec] settleRanges m m.closeAll :=
  ((Within.refl m).put (m'' := { m with orpor := m.closeAll.orpor }) .orpor (by decide) rfl).put .exec (by decide) rfl

theorem Mod.cutOff_jobs (m : Mod) : m.cutOff.nvm.jobs = [] := Mod.flashSettle_jobs _

theorem settles_cutOff (m : Mod) : Settles m.allStop.closeAll m.cutOff := Settles.flashSettle (Mod.closeAll_sessions _)

def stopEndParts : List Part := [.nvm, .logs, .met, .key, .freeCtr, .orpor, .exec]

theorem Within.stopEnd (m : Mod) : Within stopEndParts settleRanges m.allStop m.cutOff :=
  ((Within.closeAll _).weaken (by decide) (List.Subset.refl _)).trans ((settles_cutOff m).within.weaken (by decide) (List.Subset.refl _))

theorem cutOff_cutOff (m : Mod) : CutOff m m.cutOff := by
  have hstop := Within.allStop m
  have hend := Within.stopEnd m
  have houts : m.cutOff.outs = m.allStop.outs := hend.part .outs (by decide)
  have hplan : m.cutOff.plan = m.allStop.plan := hend.part .plan (by decide)
  have hpwr : m.cutOff.pwr = m.allStop.pwr := hend.part .pwr (by decide)
  have hstop_pwr : m.allStop.pwr = m.pwr := hstop.part .pwr (by decide)
  have hkey : m.allStop.key = m.key := hstop.part .key (by decide)
  have horpor : m.cutOff.orpor = m.allStop.closeAll.orpor := (settles_cutOff m).within.part .orpor (by decide)
  have hclose : m.allStop.closeAll.key = m.allStop.key := (Within.closeAll _).part .key (by decide)
  exact {
    within := (hstop.weaken (by decide) (List.Subset.refl _)).trans (hend.weaken (by decide) (by decide))
    outs := fun i => by rw [houts, Mod.allStop_outs]
    plan := by rw [hplan, Mod.allStop_plan]
    noplan := by rw [hend.flag (by decide), Mod.allStop_noplan]
    sessions := by rw [horpor, Mod.closeAll_sessions]
    jobs := m.cutOff_jobs
    banks := by rw [(settles_cutOff m).banks, hclose, hkey]
    pwr := by rw [hpwr, hstop_pwr] }

/-! ### BOOT begins (R476, R477) -/

section

variable (m : Mod)

/-- A domain follows what is wanted by its switch alone. -/
theorem Mod.pdFollow_eq (e : Fin 15) : m.pdFollow e = { m with sw := (m.pdFollow e).sw } := by
  unfold Mod.pdFollow
  split
  · rfl
  · split
    · split <;> rfl
    · split <;> rfl

theorem Sw.reqOff_of_off {w : Sw} (now : Nat) (h : w.ph = .off) : (w.reqOff now).ph = .off := by
  rw [Sw.reqOff, h]

/-- A domain that is off and not wanted stays off. -/
theorem Mod.off_pdFollow (e : Fin 15) {d : Fin 15} (hwant : bitAt m.pwr.want d.val = false) (hoff : (m.sw[swPd d]).ph = .off) :
    ((m.pdFollow e).sw[swPd d]).ph = .off := by
  have hno : m.pdWant d.val = false := by rw [Mod.pdWant, hwant, Bool.false_and]
  by_cases hde : d = e
  · subst hde
    unfold Mod.pdFollow
    rw [hno, if_neg Bool.false_ne_true]
    split
    · exact hoff
    · split
      · rw [Mod.swOff, Mod.sw_swMap_same]
        exact Sw.reqOff_of_off _ hoff
      · exact hoff
  · have hsw : swPd d ≠ swPd e := fun he => hde (Fin.ext (Fin.mk.inj he))
    have hkeep : (m.pdFollow e).sw[swPd d] = m.sw[swPd d] := by
      unfold Mod.pdFollow
      split
      · rfl
      · split
        · split
          · exact m.sw_swMap_ne _ hsw
          · rfl
        · split
          · exact m.sw_swMap_ne _ hsw
          · rfl
    rw [hkeep, hoff]

theorem Mod.follow_off : ∀ (l : List (Fin 15)) (m : Mod) {d : Fin 15}, bitAt m.pwr.want d.val = false → (m.sw[swPd d]).ph = .off →
    ((l.foldl Mod.pdFollow m).sw[swPd d]).ph = .off
  | [], _, _, _, hoff => hoff
  | e :: l, m, _, hwant, hoff => follow_off l (m.pdFollow e) (by rw [m.pdFollow_eq e]; exact hwant) (m.off_pdFollow e hwant hoff)

theorem Mod.follow_eq : m.follow = { m with sw := m.follow.sw } := by
  have hfold : ∀ (l : List (Fin 15)) (m : Mod), l.foldl Mod.pdFollow m = { m with sw := (l.foldl Mod.pdFollow m).sw } := by
    intro l
    induction l with
    | nil => exact fun _ => rfl
    | cons e l ih =>
      intro m
      rw [List.foldl_cons, ih (m.pdFollow e), m.pdFollow_eq e]
  exact hfold _ m

theorem bitAt_foldl_putBits {e x : Nat} : ∀ (ds : List Nat) (w : Nat), e ∉ ds →
    bitAt (ds.foldl (fun w d => putBits w d 1 x) w) e = bitAt w e
  | [], _, _ => rfl
  | d :: ds, w, he => by
    rw [List.mem_cons, not_or] at he
    exact (bitAt_foldl_putBits ds _ he.2).trans (bitAt_putBits_ne _ _ he.1)

theorem bootDomain_ne : ∀ d : Fin 15, d ∉ ([3, 8, 9, 14] : List (Fin 15)) → d.val ∉ ([3, 8, 9, 14] : List Nat) := by decide

theorem Mod.unwanted_pdSet_boot {d : Fin 15} (hd : d ∉ ([3, 8, 9, 14] : List (Fin 15))) (hwant : bitAt m.pwr.want d.val = false) :
    bitAt (m.pdSet [3, 8, 9, 14] true).pwr.want d.val = false :=
  (bitAt_foldl_putBits _ _ (bootDomain_ne d hd)).trans hwant

/-- The domains of BOOT are wanted; another that is off and not wanted stays off. -/
theorem Mod.off_pdOn {d : Fin 15} (hd : d ∉ ([3, 8, 9, 14] : List (Fin 15))) (hwant : bitAt m.pwr.want d.val = false)
    (hoff : (m.sw[swPd d]).ph = .off) : ((m.pdOn [3, 8, 9, 14]).sw[swPd d]).ph = .off := by
  rw [Mod.pdOn, Mod.follow]
  exact Mod.follow_off _ _ (m.unwanted_pdSet_boot hd hwant) hoff

/-- The length of an outage as BOOT notes it. -/
def Mod.bootOutage : Nat :=
  match m.pwr.outageFrom with
  | some t => m.optime - t
  | none => if lowestCause m.pwr.causes = 0 then m.free.toNat % 2 ^ 32 else 0

/-- The causes are taken and the straps sampled. -/
def Mod.bootNoted : Mod :=
  { m.when (lowestCause m.pwr.causes == 0) Mod.drawn with pwr := { m.pwr with
    merged := m.pwr.causes, causes := 0, sampled := m.pwr.pins, outage := satNat 32 m.bootOutage, outageFrom := none, bootWait := [] } }

theorem Mod.bootNoted_regs : m.bootNoted.regs = m.regs := by
  unfold Mod.bootNoted
  cases lowestCause m.pwr.causes == 0 <;> rfl

theorem Within.bootNoted : Within [.freeCtr, .pwr] [] m m.bootNoted := by
  have hdrawn : Within [.freeCtr, .pwr] [] m (m.when (lowestCause m.pwr.causes == 0) Mod.drawn) := by
    cases lowestCause m.pwr.causes == 0
    · exact Within.refl m
    · exact (Within.refl m).put .freeCtr (by decide) rfl
  exact hdrawn.put .pwr (by decide) rfl

/-- BOOT begins from BOOT: the state is not entered again. -/
theorem Mod.bootBegin_eq (hst : m.st = xBoot) :
    m.bootBegin = (m.bootNoted.set F.EXEC_STATE_CAUSE (lowestCause m.pwr.causes)).pdOn [3, 8, 9, 14] := by
  have hboot : m.bootNoted.st = xBoot := (Mod.get_congr m.bootNoted_regs _).trans hst
  have hbegin : m.bootBegin = ((m.bootNoted.set F.EXEC_STATE_CAUSE (lowestCause m.pwr.causes)).when (m.bootNoted.st != xBoot)
      fun m => m.goto xBoot).pdOn [3, 8, 9, 14] := by
    unfold Mod.bootBegin Mod.bootNoted Mod.bootOutage
    dsimp only
    cases lowestCause m.pwr.causes == 0
    · simp only [Mod.when, Bool.false_eq_true, if_false] <;> rfl
    · simp only [Mod.when, Mod.drawn, if_true] <;> rfl
  rw [hbegin, hboot]
  rfl

/-- From BOOT: what the beginning of BOOT leaves, where it begins. -/
structure BootTried (m m' : Mod) : Prop where
  within : Within [.freeCtr, .pwr, .sw] [(0x14000, 0x15000)] m m'
  noplan : m'.flag F.EXEC_STATE_NOPLAN = m.flag F.EXEC_STATE_NOPLAN
  st : m'.st = xBoot
  off : ∀ d : Fin 15, d ∉ ([3, 8, 9, 14] : List (Fin 15)) → bitAt m.pwr.want d.val = false → (m.sw[swPd d]).ph = .off →
    (m'.sw[swPd d]).ph = .off

theorem lowestCause_lt (mask : Nat) : lowestCause mask < 16 := by
  unfold lowestCause
  cases hfind : (List.range 9).find? fun c => bitAt mask c
  case none => decide
  case some c =>
    have := List.mem_range.1 (List.mem_of_find?_eq_some hfind)
    show c < 16
    omega

theorem Mod.pdOn_eq (ds : List Nat) : m.pdOn ds = { m.pdSet ds true with sw := (m.pdOn ds).sw } := by
  rw [Mod.pdOn]
  exact Mod.follow_eq _

theorem Within.pdOn (ds : List Nat) : Within [.pwr, .sw] [] m (m.pdOn ds) := by
  have hset : Within [.pwr, .sw] [] m (m.pdSet ds true) := (Within.refl m).put .pwr (by decide) rfl
  exact hset.put .sw (by decide) (m.pdOn_eq ds)

variable {m}

theorem bootTried_bootBegin (hst : m.st = xBoot) : BootTried m m.bootBegin := by
  have hnoted : Within [.freeCtr, .pwr, .sw] [(0x14000, 0x15000)] m m.bootNoted :=
    (Within.bootNoted m).weaken (by decide) (List.nil_subset _)
  have hon := Within.pdOn (m.bootNoted.set F.EXEC_STATE_CAUSE (lowestCause m.pwr.causes)) [3, 8, 9, 14]
  rw [m.bootBegin_eq hst]
  refine ⟨(hnoted.set _ (by decide)).trans (hon.weaken (by decide) (List.nil_subset _)), ?_, ?_, fun d hd hwant hoff => ?_⟩
  · rw [hon.flag (by simp), Mod.flag_set_apart _ _ (by decide), Mod.flag, Mod.get_congr m.bootNoted_regs]
    rfl
  · rw [Mod.st, hon.get (by simp), Mod.get_set_apart _ _ (by decide), Mod.get_congr m.bootNoted_regs]
    exact hst
  · have hsw : m.bootNoted.sw = m.sw := (Within.bootNoted m).part .sw (by decide)
    refine Mod.off_pdOn _ hd hwant ?_
    show (m.bootNoted.sw[swPd d]).ph = .off
    rw [hsw, hoff]

theorem bootBegun_bootBegin (hst : m.st = xBoot) : BootBegun m.bootBegin m.pwr.causes := by
  have hon := Within.pdOn (m.bootNoted.set F.EXEC_STATE_CAUSE (lowestCause m.pwr.causes)) [3, 8, 9, 14]
  rw [m.bootBegin_eq hst]
  refine ⟨?_, ?_, ?_⟩
  · rw [Mod.pdOn_eq]
    rfl
  · rw [hon.get (by simp), Mod.get_set_self _ _ (by decide)]
    exact Nat.mod_eq_of_lt (lowestCause_lt _)
  · rw [Mod.pdOn_eq]
    rfl

theorem bootTried_bootTry (hst : m.st = xBoot) : BootTried m m.bootTry := by
  unfold Mod.bootTry
  split
  · exact bootTried_bootBegin hst
  · exact ⟨Within.refl m, rfl, hst, fun _ _ _ hoff => hoff⟩

theorem bootBegun_bootTry (hst : m.st = xBoot) (hcause : m.pwr.causes ≠ 0) (hreset : m.pwr.resetLow = false) (hsave : m.pwr.saving = false)
    (hvin : m.flag F.PWR_STATUS_VIN_OK = true) (hpd2 : m.isOn (swPd 2) = true) : BootBegun m.bootTry m.pwr.causes := by
  have htry : m.bootTry = m.bootBegin := if_pos (by simp [hcause, hreset, hsave, hvin, hpd2])
  rw [htry]
  exact bootBegun_bootBegin hst

end

/-! ### The restart as a whole -/

/-- No activation waits and no key is staged. -/
def Mod.keysDropped (m : Mod) : Mod :=
  { m with key := { m.key with activating := false, slots := m.key.slots.map (fun (k : KeySlot) => { k with staged := none }) } }

/-- The module as BOOT finds it. -/
def Mod.bootReady (m : Mod) : Mod := (m.keysDropped.keyShow.set F.KEY_FW_STATUS_STAGE 0).goto xBoot

/-- The cause noted. -/
def Mod.causeNoted (m : Mod) (c : Nat) : Mod := { m with pwr := { m.pwr with causes := m.pwr.causes ||| 2 ^ c } }

theorem Mod.hardRestart_eq {m : Mod} (c : Nat) (hsave : m.pwr.saving = false) :
    m.hardRestart c = (killed.foldl Mod.pdKill (m.causeNoted c).cutOff).bootReady.bootTry := by
  unfold Mod.hardRestart
  dsimp only
  rw [if_neg (by rw [hsave]; decide)]
  simp only [killed, Mod.cutOff, Mod.causeNoted, Mod.bootReady, Mod.keysDropped]

section

variable (m : Mod)

/-- The registers of the keys, of the update and of the state. -/
def readyFields : List Fld :=
  [F.KEY_STATUS_FACTORY, F.KEY_STATUS_STAGED, F.KEY_FW_STATUS_STAGE, F.EXEC_STATE_PREV, F.EXEC_STATE_STATE]

theorem Only.bootReady : Only [.key] readyFields m m.bootReady := by
  have hkeys : Only [.key] readyFields m m.keysDropped := (Only.of_put rfl).weaken (List.Subset.refl _) (List.nil_subset _)
  have hshow : Only [.key] readyFields m m.keysDropped.keyShow := (hkeys.setB_mem _ (by decide)).set_mem _ (by decide)
  exact (hshow.set_mem _ (by decide)).trans ((Only.goto ..).weaken (List.nil_subset _) (by decide))

theorem Mod.bootReady_st : m.bootReady.st = xBoot := Mod.st_goto _ (by decide)

theorem Mod.bootReady_key : m.bootReady.key = m.keysDropped.key := by
  simp only [Mod.bootReady, Mod.goto, Mod.keyShow, Mod.setB, Mod.set]

/-- The domains that go off are off and not wanted after all of them were switched off. -/
theorem Mod.killed_off (d : Fin 15) (hd : d ∈ killed) :
    ((killed.foldl Mod.pdKill m).sw[swPd d]).ph = .off ∧ bitAt (killed.foldl Mod.pdKill m).pwr.want d.val = false :=
  Mod.off_foldl_pdKill killed m (List.Subset.refl _) d hd

theorem darkens_killed : Darkens m (killed.foldl Mod.pdKill m) := Darkens.foldl _ _ fun m _ hd => Darkens.pdKill m hd

theorem killed_of_dark : ∀ d : Fin 15, [4, 5, 6, 7, 10, 11, 12, 13].contains d.val = true →
    d ∈ killed ∧ d ∉ ([3, 8, 9, 14] : List (Fin 15)) := by decide

end

/-- The stages of a hard restart: everything stopped (`n`), the domains dark (`k`), BOOT entered (`r`) and tried (`m'`). -/
theorem hardStops_of_stages {m n k r m' : Mod} (hcut : CutOff m n) (hdark : Darkens n k)
    (hoff : ∀ d ∈ killed, (k.sw[swPd d]).ph = .off ∧ bitAt k.pwr.want d.val = false) (hr : r = k.bootReady) (hboot : BootTried r m') :
    HardStops m m' := by
  subst hr
  have hready := Only.bootReady k
  have hplan : m'.plan.active = none := by
    rw [show m'.plan = k.plan from (hboot.within.part .plan (by decide)).trans (hready.part .plan (by decide))]
    exact hdark.plan hcut.plan
  have hsessions : m'.orpor.sessions = [] := by
    rw [show m'.orpor = k.orpor from (hboot.within.part .orpor (by decide)).trans (hready.part .orpor (by decide))]
    exact hdark.sessions hcut.sessions
  have hnvm : m'.nvm = n.nvm :=
    ((hboot.within.part .nvm (by decide)).trans (hready.part .nvm (by decide))).trans (hdark.within.part .nvm (by decide))
  have houts : m'.outs = n.outs :=
    ((hboot.within.part .outs (by decide)).trans (hready.part .outs (by decide))).trans (hdark.within.part .outs (by decide))
  have hclk : m'.clk = k.clk := (hboot.within.part .clk (by decide)).trans (hready.part .clk (by decide))
  have hclk' : n.clk = m.clk := hcut.within.part .clk (by decide)
  have hkey : m'.key = k.keysDropped.key := Eq.trans (hboot.within.part .key (by decide)) k.bootReady_key
  have hupl : m'.upl = k.upl := (hboot.within.part .upl (by decide)).trans (hready.part .upl (by decide))
  have hupl' : n.upl = m.upl := hcut.within.part .upl (by decide)
  have hsw : k.bootReady.sw = k.sw := hready.part .sw (by decide)
  have hpwr : k.bootReady.pwr = k.pwr := hready.part .pwr (by decide)
  refine ⟨hboot.st, hplan, ?_, hsessions, by rw [hnvm, hcut.jobs], fun i => by rw [houts, hcut.outs], fun d hd => ?_, ?_, ?_, ?_, fun i => ?_, ?_⟩
  · rw [hboot.noplan, hready.flag (by decide), hdark.within.flag (by decide), hcut.noplan]
  · obtain ⟨hkilled, hnot⟩ := killed_of_dark d hd
    obtain ⟨hph, hwant⟩ := hoff d hkilled
    rw [Mod.pdPh_eq]
    exact hboot.off d hnot (by rw [hpwr, hwant]) (by rw [hsw, hph])
  · rw [hclk, hdark.ns, hclk']
  · rw [hclk, hdark.mono, hclk']
  · rw [hkey]
    rfl
  · rw [hkey]
    simp [Mod.keysDropped]
  · exact ((UplMarked.of_eq hupl').trans hdark.upl).trans (UplMarked.of_eq hupl)

section

variable {m : Mod} (c : Nat)

theorem Within.causeNoted (m : Mod) : Within cutParts cutRanges m (m.causeNoted c) := (Within.refl m).put .pwr (by decide) rfl

/-- A hard restart without a save: every flash bank stands. -/
theorem hardRestart_restarts (hsave : m.pwr.saving = false) :
    HardRestarts m (m.hardRestart c) c ∧ Within hardParts hardRanges m (m.hardRestart c) ∧ (m.hardRestart c).key.banks = m.key.banks := by
  rw [m.hardRestart_eq c hsave]
  have hcut := cutOff_cutOff (m.causeNoted c)
  have hdark := darkens_killed (m.causeNoted c).cutOff
  have hoff := (m.causeNoted c).cutOff.killed_off
  have hnoted := Within.causeNoted c m
  generalize (m.causeNoted c).cutOff = n at hcut hdark hoff ⊢
  generalize killed.foldl Mod.pdKill n = k at hdark hoff ⊢
  have hready := Only.bootReady k
  have hboot := bootTried_bootTry k.bootReady_st
  have hsub : Within cutParts cutRanges m n := hnoted.trans hcut.within
  have hwords : Within (cutParts ++ darkParts) (cutRanges ++ darkRanges) m k :=
    (hsub.weaken (List.subset_append_left ..) (List.subset_append_left ..)).trans
      (hdark.within.weaken (List.subset_append_right ..) (List.subset_append_right ..))
  have hpwr : k.bootReady.pwr = { m.pwr with causes := m.pwr.causes ||| 2 ^ c, want := k.pwr.want } := by
    rw [show k.bootReady.pwr = k.pwr from hready.part .pwr (by decide), hdark.pwr, hcut.pwr]
    rfl
  refine ⟨⟨?_, fun hreset hvin hpd2 => ?_⟩, ?_, ?_⟩
  · exact (hardStops_of_stages hcut hdark hoff rfl hboot : HardStops (m.causeNoted c) _)
  · have hsw : n.sw = m.sw := hsub.part .sw (by decide)
    have hcauses : k.bootReady.pwr.causes = m.pwr.causes ||| 2 ^ c := by rw [hpwr]
    rw [← hcauses]
    refine bootBegun_bootTry k.bootReady_st ?_ (by rw [hpwr]; exact hreset) (by rw [hpwr]; exact hsave) ?_ ?_
    · rw [hcauses]
      intro hzero
      have hbit : (m.pwr.causes ||| 2 ^ c).testBit c = true := by simp
      rw [hzero, Nat.zero_testBit] at hbit
      exact Bool.false_ne_true hbit
    · rw [hready.flag (by decide), hwords.flag (by decide)]
      exact hvin
    · have htcxo : k.sw[swPd 2] = m.sw[swPd 2] := by rw [hdark.tcxo, hsw]
      have hsame : k.bootReady.sw = k.sw := hready.part .sw (by decide)
      rw [Mod.isOn, hsame, htcxo]
      exact hpd2
  · have hend := (Within.of_only (rs := cutRanges) hready (by decide)).weaken (qs := [.key, .freeCtr, .pwr, .sw]) (by decide) (List.Subset.refl _)
      |>.trans (hboot.within.weaken (by decide) (by decide))
    exact (hwords.weaken (by decide) (by decide)).trans (hend.weaken (by decide) (by decide))
  · have hkey : k.bootReady.bootTry.key = k.keysDropped.key := Eq.trans (hboot.within.part .key (by decide)) k.bootReady_key
    have hdarkKey : k.key = n.key := hdark.within.part .key (by decide)
    rw [hkey]
    show k.key.banks = _
    rw [hdarkKey, hcut.banks]
    rfl

/-- What a hard restart says of the module it began in is in the outputs, the time, the uplinks and the supply. -/
theorem HardRestarts.of_only {m₀ m m' : Mod} {c : Nat} (h : HardRestarts m m' c) (honly : Only [.key, .logs] [F.LOG_STATUS_WAB_FULL] m₀ m) :
    HardRestarts m₀ m' c := by
  obtain ⟨⟨hst, hplan, hno, hsess, hjobs, houts, hoff, hns, hmono, hact, hstaged, hupl⟩, hbegin⟩ := h
  have eouts : m.outs = m₀.outs := honly.part .outs (by decide)
  have eclk : m.clk = m₀.clk := honly.part .clk (by decide)
  have eupl : m.upl = m₀.upl := honly.part .upl (by decide)
  have epwr : m.pwr = m₀.pwr := honly.part .pwr (by decide)
  have esw : m.sw = m₀.sw := honly.part .sw (by decide)
  rw [epwr, honly.flag (by decide), Mod.isOn, esw] at hbegin
  exact ⟨⟨hst, hplan, hno, hsess, hjobs, fun i => by rw [houts, eouts], hoff, by rw [hns, eclk], by rw [hmono, eclk], hact, hstaged,
    (UplMarked.of_eq eupl).trans hupl⟩, hbegin⟩

end

end Sys2Proof.Machine

end

/-! PROOFS. The family 04_control_cycle_and_restart.md: firmware updates and the hard restart (O52). -/

section

namespace Sys2Proof.Machine

/-! ### The update's registers (R462) -/

/-- STAGE and PROGRESS of an update. -/
def Mod.updShown (m : Mod) (stage progress : Nat) : Mod := (m.set F.KEY_FW_STATUS_STAGE stage).set F.KEY_FW_STATUS_PROGRESS progress

theorem Only.updShown (m : Mod) (stage progress : Nat) :
    Only [] [F.KEY_FW_STATUS_STAGE, F.KEY_FW_STATUS_PROGRESS] m (m.updShown stage progress) :=
  ((Only.unchanged m).set_mem _ (by simp)).set_mem _ (by simp)

theorem Mod.updShown_stage (m : Mod) (stage progress : Nat) : (m.updShown stage progress).get F.KEY_FW_STATUS_STAGE = stage % 8 := by
  rw [Mod.updShown, Mod.get_set_apart _ _ (by decide), Mod.get_set_self _ _ (by decide)]
  rfl

theorem Mod.updShown_progress (m : Mod) (stage progress : Nat) :
    (m.updShown stage progress).get F.KEY_FW_STATUS_PROGRESS = progress % 128 := by
  rw [Mod.updShown, Mod.get_set_self _ _ (by decide)]
  rfl

/-- Showing the other bank writes two fields of the KEY block. -/
theorem Mod.otherShow_eq (m : Mod) : m.otherShow = { m with regs := m.otherShow.regs } := by
  unfold Mod.otherShow
  dsimp only
  split <;> rfl

theorem Only.otherShow (m : Mod) : Only [] [F.KEY_FW_STATUS_OTHER_VALID, F.KEY_FW_OTHER_VERSION] m m.otherShow := by
  unfold Mod.otherShow
  dsimp only
  split
  · exact Only.unchanged m
  · exact ((Only.unchanged m).setB_mem _ (by simp)).set_mem _ (by simp)

theorem otherShow_apart : ∀ g ∈ [F.KEY_FW_STATUS_OTHER_VALID, F.KEY_FW_OTHER_VERSION],
    Apart g F.KEY_FW_STATUS_STAGE ∧ Apart g F.KEY_FW_STATUS_PROGRESS := by decide

theorem Mod.otherShow_updShown (m : Mod) (stage progress : Nat) :
    (m.updShown stage progress).otherShow.get F.KEY_FW_STATUS_STAGE = stage % 8 ∧
      (m.updShown stage progress).otherShow.get F.KEY_FW_STATUS_PROGRESS = progress % 128 :=
  ⟨((Only.otherShow _).get fun g hg => (otherShow_apart g hg).1).trans (m.updShown_stage ..),
    ((Only.otherShow _).get fun g hg => (otherShow_apart g hg).2).trans (m.updShown_progress ..)⟩

theorem otherBank_ne (i : Fin 2) : otherBank i ≠ i := by revert i; decide

theorem Mod.bankMap_same (m : Mod) (i : Fin 2) (f : Bank → Bank) : (m.bankMap i f).key.banks[i] = f m.key.banks[i] := by simp [Mod.bankMap]

theorem Mod.bankMap_other (m : Mod) (i : Fin 2) (f : Bank → Bank) :
    (m.bankMap i f).key.banks[otherBank i] = m.key.banks[otherBank i] := by
  have hne : i.val ≠ (otherBank i).val := fun he => otherBank_ne i (Fin.ext he.symm)
  simp [Mod.bankMap, Vector.getElem_set_ne, hne]

/-! ### The transfer (R347, R451, R452) -/

theorem mem_updErase (m : Mod) (i : Fin 2) {k : Fin 4096} (hk : k.val = 0 ∨ 3072 ≤ k.val) :
    FlashJob.erase (bankSector i + k.val) ∈ m.updErase i := by
  refine List.mem_map.2 ⟨k.val, ?_, rfl⟩
  split
  · exact List.mem_range.2 k.isLt
  · rcases hk with hzero | harea
    · exact hzero ▸ List.mem_cons_self ..
    · exact List.mem_cons_of_mem _ (List.mem_map.2 ⟨k.val - 3072, List.mem_range.2 (by omega), by omega⟩)

/-- An update of `len` bytes has begun: the target bank is empty and its erasing waits. -/
def Mod.updBegun (m : Mod) (len : Nat) (digest : List Byte) : Mod :=
  let m' := (({ m with key := { m.key with target := m.recoveryBank, activating := false } }).bankMap (updTarget m) fun _ => {}).setUpd
    (some { len := len, digest := digest })
  { m' with nvm := { m.nvm with jobs := m.nvm.jobs ++ m.updErase (updTarget m) } }

theorem Only.updBegun (m : Mod) (len : Nat) (digest : List Byte) : Only [.key, .nvm, .orpor] [] m (m.updBegun len digest) :=
  (((Only.unchanged m).put_mem (m'' := { m with key := (m.updBegun len digest).key }) .key (by decide) rfl).put_mem
    (m'' := { m with key := (m.updBegun len digest).key, orpor := (m.updBegun len digest).orpor }) .orpor (by decide) rfl).put_mem .nvm
    (by decide) rfl

/-- The page programs of a block of `bs` at `off`, for the command `tag`. -/
def blockJobs (tag : Nat × Nat) (off : Nat) (bs : List Byte) : List FlashJob :=
  List.replicate (if bs.isEmpty then 0 else (off + bs.length - 1) / 256 - off / 256 + 1) (.data tag)

/-- A block stored: its pages wait to be programmed. -/
def Mod.blockStored (m : Mod) (y : Xfer) (jobs : List FlashJob) : Mod :=
  (({ m with nvm := { m.nvm with jobs := m.nvm.jobs ++ jobs } }).setUpd (some y)).set F.KEY_FW_STATUS_PROGRESS
    (y.got.length * 100 / max 1 y.len)

theorem Only.blockStored (m : Mod) (y : Xfer) (jobs : List FlashJob) :
    Only [.nvm, .orpor] [F.KEY_FW_STATUS_PROGRESS] m (m.blockStored y jobs) :=
  (((Only.unchanged m).put_mem (m'' := { m with nvm := (m.blockStored y jobs).nvm }) .nvm (by decide) rfl).put_mem .orpor (by decide) rfl).set_mem _
    (by simp)

section

variable {s : State} {h : BitVec 10} {seq : BitVec 32} {x : Sess} {c : Cmd} {P : Mod → Prop}

section

variable (hr : Ready s h seq 0x0800 x c) (hrole : bitAt 12 x.roleBit = true)
include hr hrole

theorem opUpdBegin_fits (hfits : par c.params 0 4 ≤ if s.m.st = xRecovery then 12582912 else 4194304)
    (hP : P (((begun s h seq).updBegun (par c.params 0 4) (c.params.drop 4)).updShown 1 0).otherShow) :
    Executes (.opUpdBegin h seq) s h c (.ok []) P :=
  Executes.of_opRow (exec_opUpdBegin h seq s) hr rfl hrole rfl (if_neg (Nat.not_lt.2 hfits)) hP

theorem opUpdBegin_long (hlong : (if s.m.st = xRecovery then 12582912 else 4194304) < par c.params 0 4) :
    Executes (.opUpdBegin h seq) s h c (.fail 2 0) fun m => Only [] [] (begun s h seq) m :=
  Executes.of_opRow (exec_opUpdBegin h seq s) hr rfl hrole rfl (if_pos hlong) (Only.refl _)

end

section

variable (hr : Ready s h seq 0x0801 x c) (hrole : bitAt 12 x.roleBit = true)
include hr hrole

theorem opUpdBlock_fits {y : Xfer} (hstage : s.m.get F.KEY_FW_STATUS_STAGE = 1)
    (hy : xferBlock s.m.orpor.upd (par c.params 0 4) (c.params.drop 4) = some y) 
    (hP : P ((begun s h seq).blockStored y (blockJobs (s.m.sessKey h.toNat, seq.toNat) (par c.params 0 4) (c.params.drop 4)))) :
    Executes (.opUpdBlock h seq) s h c (.hold []) P := by
  refine Executes.of_opRow (exec_opUpdBlock h seq s) hr rfl hrole rfl ?_ hP
  dsimp only
  rw [if_pos (show (begun s h seq).get F.KEY_FW_STATUS_STAGE = 1 from hstage),
    show xferBlock (begun s h seq).orpor.upd (par c.params 0 4) (c.params.drop 4) = some y from hy]
  rfl

theorem opUpdBlock_refused (hno : s.m.get F.KEY_FW_STATUS_STAGE ≠ 1 ∨ xferBlock s.m.orpor.upd (par c.params 0 4) (c.params.drop 4) = none) :
    Executes (.opUpdBlock h seq) s h c (.fail 0x20 (par c.params 0 4)) fun m => Only [] [] (begun s h seq) m := by
  have hnone : (if (begun s h seq).get F.KEY_FW_STATUS_STAGE = 1 then
      xferBlock (begun s h seq).orpor.upd (par c.params 0 4) (c.params.drop 4) else none) = none := by
    rcases hno with hstage | hout
    · exact if_neg hstage
    · exact ite_eq_right_iff.2 fun _ => hout
  refine Executes.of_opRow (exec_opUpdBlock h seq s) hr rfl hrole rfl ?_ (Only.refl _)
  dsimp only
  rw [hnone]

end

section

variable (hr : Ready s h seq 0x0802 x c) (hrole : bitAt 12 x.roleBit = true)
include hr hrole

theorem opUpdEnd_none (hno : s.m.get F.KEY_FW_STATUS_STAGE ≠ 1 ∨ s.m.orpor.upd = none) :
    Executes (.opUpdEnd h seq) s h c (.fail 0x20 0) fun m => Only [] [] (begun s h seq) m := by
  have hnone : (if (begun s h seq).get F.KEY_FW_STATUS_STAGE = 1 then (begun s h seq).orpor.upd else none) = none := by
    rcases hno with hstage | hupd
    · exact if_neg hstage
    · exact ite_eq_right_iff.2 fun _ => hupd
  refine Executes.of_opRow (exec_opUpdEnd h seq s) hr rfl hrole rfl ?_ (Only.refl _)
  rw [hnone]

variable {y : Xfer} (hstage : s.m.get F.KEY_FW_STATUS_STAGE = 1) (hy : s.m.orpor.upd = some y)
include hstage hy

theorem opUpdEnd_gap {g : Nat} (hgap : y.gap = some g) :
    Executes (.opUpdEnd h seq) s h c (.fail 0x20 g) fun m => Only [] [] (begun s h seq) m := by
  refine Executes.of_opRow (exec_opUpdEnd h seq s) hr rfl hrole rfl ?_ (Only.refl _)
  rw [if_pos (show (begun s h seq).get F.KEY_FW_STATUS_STAGE = 1 from hstage), show (begun s h seq).orpor.upd = some y from hy]
  dsimp only
  rw [hgap]

/-- What the complete transfer is answered, and what it leaves. -/
theorem opUpdEnd_complete (hgap : y.gap = none) {r : Res} {m : Mod}
    (hend : (if bytes32 (Config.sha256 y.bytes) ≠ y.digest then (begun s h seq, Res.fail 0x21 0)
      else if s.m.st = xRecovery ∧ hdrFormat y.bytes = 2 then (begun s h seq, .fail 2 0)
      else ((begun s h seq).updShown 2 0, .ok [])) = (m, r)) (hP : P m) : Executes (.opUpdEnd h seq) s h c r P := by
  refine Executes.of_opRow (exec_opUpdEnd h seq s) hr rfl hrole rfl ?_ hP
  rw [if_pos (show (begun s h seq).get F.KEY_FW_STATUS_STAGE = 1 from hstage), show (begun s h seq).orpor.upd = some y from hy]
  dsimp only
  rw [hgap]
  exact hend

end

end

/-! ### The checks (R452) -/

section

variable {m : Mod} {p : List Byte} {pages header : Bool}

theorem Mod.updCheck_setUpd (o : Option Xfer) : (m.setUpd o).updCheck p pages header = m.updCheck p pages header := by
  simp only [Mod.updCheck]
  rfl

theorem Mod.updCheck_badForm (hform : hdrFormOk (p.take 320) = false) : m.updCheck p pages header = .inl (1, 0x60) := by
  rw [Mod.updCheck, hform]
  rfl

theorem Mod.updCheck_badSigner (hform : hdrFormOk (p.take 320) = true) (hlen : hdrNum (p.take 320) 80 4 + 4096 = p.length)
    (hformat : hdrFormat (p.take 320) = 2) (hsigned : m.hdrSigned (p.take 320) = false) : m.updCheck p pages header = .inl (2, 0x61) := by
  simp [Mod.updCheck, hform, hlen, hformat, hsigned]

end

/-- A check failed: nothing of the package is kept. -/
def Mod.updRejected (m : Mod) (step res : Nat) : Mod :=
  (((m.setUpd none).set F.KEY_FW_STATUS_STAGE 6).set F.KEY_FW_STATUS_RESULT res).log .updRejected m.updBank.val (leBytes 1 step ++ leBytes 2 res)

/-- Every check passed: the image stands in its bank. -/
def Mod.updStored (m : Mod) (p img : List Byte) : Mod :=
  (((m.setUpd none).bankMap m.updBank fun _ => { valid := true, header := p.take 320, image := img }).updShown 4 100).otherShow

def Mod.updVerified (m : Mod) (p img : List Byte) : Mod :=
  (m.updStored p img).log .updVerified m.updBank.val (leBytes 4 (hdrVersion p))

/-- What a record adds depends on the recorder, the operating time and the power cycle alone. -/
theorem logs_log_congr {m m' : Mod} (hlogs : m'.logs = m.logs) (hnvm : m'.nvm = m.nvm) (e : Ev) (src : Nat) (data : List Byte) :
    (m'.log e src data).logs = (m.log e src data).logs := by
  simp only [Mod.log, Mod.optime, Mod.pcc, Mod.ctr, hlogs, hnvm]

theorem wabFull_apart : ∀ f ∈ F.KEY_FW_STATUS_CONFIRMED :: fwRegs, ∀ g ∈ [F.LOG_STATUS_WAB_FULL], Apart g f := by decide

/-- A record leaves the registers of an update alone. -/
theorem Mod.get_log_fw (m : Mod) (e : Ev) (src : Nat) (data : List Byte) {f : Fld} (hf : f ∈ F.KEY_FW_STATUS_CONFIRMED :: fwRegs) :
    (m.log e src data).get f = m.get f := (Only.log ..).get (wabFull_apart f hf)

section

variable (m : Mod) (step res : Nat) (p img : List Byte)

theorem Mod.updRejected_shown :
    (m.updRejected step res).get F.KEY_FW_STATUS_STAGE = 6 ∧ (m.updRejected step res).get F.KEY_FW_STATUS_RESULT = res % 65536 := by
  constructor
  · rw [Mod.updRejected, Mod.get_log_fw _ _ _ _ (by decide), Mod.get_set_apart _ _ (by decide), Mod.get_set_self _ _ (by decide)]
    rfl
  · rw [Mod.updRejected, Mod.get_log_fw _ _ _ _ (by decide), Mod.get_set_self _ _ (by decide)]
    rfl

theorem logs_updRejected : Logs m (m.updRejected step res) .updRejected m.updBank.val (leBytes 1 step ++ leBytes 2 res) := rfl

theorem Only.setUpd (o : Option Xfer) : Only [.orpor] [] m (m.setUpd o) := Only.of_put rfl

theorem Only.updRejected : Only [.key, .orpor, .logs] ([F.LOG_STATUS_WAB_FULL] ++ fwRegs) m (m.updRejected step res) :=
  (((((Only.setUpd m none).weaken (by decide) (List.nil_subset _)).set_mem _ (by decide)).set_mem _ (by decide))).trans
    ((Only.log ..).weaken (by decide) (by simp))

theorem Only.updStored : Only [.key, .orpor] fwRegs m (m.updStored p img) :=
  ((((Only.setUpd m none).weaken (by decide) (List.nil_subset _)).put_mem .key (by decide) rfl).trans
    ((Only.updShown ..).weaken (List.nil_subset _) (by decide))).trans ((Only.otherShow ..).weaken (List.nil_subset _) (by decide))

theorem Mod.updStored_parts : (m.updStored p img).orpor = { m.orpor with upd := none } ∧
    (m.updStored p img).key = { m.key with banks := m.key.banks.set m.updBank { valid := true, header := p.take 320, image := img } } := by
  rw [Mod.updStored, Mod.otherShow_eq]
  exact ⟨rfl, rfl⟩

theorem Mod.updVerified_orpor : (m.updVerified p img).orpor = { m.orpor with upd := none } :=
  Eq.trans ((Only.log ..).part .orpor (by decide)) (m.updStored_parts p img).1

theorem Mod.updVerified_key : (m.updVerified p img).key =
    { m.key with banks := m.key.banks.set m.updBank { valid := true, header := p.take 320, image := img } } :=
  Eq.trans ((Only.log ..).part .key (by decide)) (m.updStored_parts p img).2

theorem Mod.updVerified_shown :
    (m.updVerified p img).get F.KEY_FW_STATUS_STAGE = 4 ∧ (m.updVerified p img).get F.KEY_FW_STATUS_PROGRESS = 100 := by
  rw [Mod.updVerified, Mod.get_log_fw _ _ _ _ (by decide), Mod.get_log_fw _ _ _ _ (by decide)]
  exact Mod.otherShow_updShown ..

theorem logs_updVerified : Logs m (m.updVerified p img) .updVerified m.updBank.val (leBytes 4 (hdrVersion p)) :=
  logs_log_congr ((Only.updStored ..).part .logs (by decide)) ((Only.updStored ..).part .nvm (by decide)) _ _ _

theorem Only.updVerified : Only [.key, .orpor, .logs] ([F.LOG_STATUS_WAB_FULL] ++ fwRegs) m (m.updVerified p img) :=
  ((Only.updStored ..).weaken (by decide) (by simp)).trans ((Only.log ..).weaken (by decide) (by simp))

end

section

variable {s : State} {y : Xfer} {pages header : Bool} (hstage : s.m.get F.KEY_FW_STATUS_STAGE = 2) (hy : s.m.orpor.upd = some y) {P : Mod → Prop}
include hstage hy

theorem does_updVerify_rejected {step res : Nat} (hcheck : s.m.updCheck y.bytes pages header = .inl (step, res))
    (hP : P (s.m.updRejected step res)) : Does (.updVerifyComplete pages header) s P := by
  refine Does.of_onMod (exec_updVerifyComplete ..) ?_ hP
  rw [if_pos hstage, hy]
  dsimp only
  rw [Mod.updCheck_setUpd, hcheck]
  rfl

theorem does_updVerify_verified {img : List Byte} (hcheck : s.m.updCheck y.bytes pages header = .inr img)
    (hP : P (s.m.updVerified y.bytes img)) : Does (.updVerifyComplete pages header) s P := by
  refine Does.of_onMod (exec_updVerifyComplete ..) ?_ hP
  rw [if_pos hstage, hy]
  dsimp only
  rw [Mod.updCheck_setUpd, hcheck]
  rfl

end

/-! ### The confirmation (R455) -/

/-- The CONFIRM page of the running image. -/
def Mod.bankConfirmed (m : Mod) : Mod :=
  ({ m with key := { m.key with tried := false } }).bankMap m.runBank fun b => { b with confirmed := true }

/-- The running image confirmed and shown so; a trial in progress ends. -/
def Mod.fwConfirmed (m : Mod) : Mod :=
  (m.bankConfirmed.set F.KEY_FW_STATUS_CONFIRMED 1).when (m.get F.KEY_FW_STATUS_STAGE == 7) fun m => m.set F.KEY_FW_STATUS_STAGE 0

section

variable (m : Mod)

theorem Only.bankConfirmed : Only [.key] [] m m.bankConfirmed := Only.of_put rfl

theorem Only.fwConfirmed : Only [.key] [F.KEY_FW_STATUS_CONFIRMED, F.KEY_FW_STATUS_STAGE] m m.fwConfirmed :=
  (((Only.bankConfirmed m).weaken (List.Subset.refl _) (List.nil_subset _)).set_mem _ (List.mem_cons_self ..)).trans
    (Only.when ((Only.unchanged _).set_mem _ (List.mem_cons_of_mem _ (List.mem_cons_self ..))))

theorem Mod.fwConfirmed_key : m.fwConfirmed.key =
    { m.key with tried := false, banks := m.key.banks.set m.runBank { m.key.banks[m.runBank] with confirmed := true } } := by
  unfold Mod.fwConfirmed
  cases m.get F.KEY_FW_STATUS_STAGE == 7 <;> rfl

/-- The header stays. -/
theorem Mod.fwConfirmed_version : m.fwConfirmed.bankVersion m.runBank = m.bankVersion m.runBank := by
  rw [Mod.bankVersion, Mod.fwConfirmed_key]
  simp [Mod.bankVersion]

theorem Mod.fwConfirmed_shown : m.fwConfirmed.flag F.KEY_FW_STATUS_CONFIRMED = true ∧
    m.fwConfirmed.get F.KEY_FW_STATUS_STAGE = if m.get F.KEY_FW_STATUS_STAGE = 7 then 0 else m.get F.KEY_FW_STATUS_STAGE := by
  have hset : (m.bankConfirmed.set F.KEY_FW_STATUS_CONFIRMED 1).get F.KEY_FW_STATUS_CONFIRMED = 1 := Mod.get_set_self _ _ (by decide)
  have hkeep : (m.bankConfirmed.set F.KEY_FW_STATUS_CONFIRMED 1).get F.KEY_FW_STATUS_STAGE = m.get F.KEY_FW_STATUS_STAGE :=
    Mod.get_set_apart _ _ (by decide)
  by_cases htrial : m.get F.KEY_FW_STATUS_STAGE = 7
  · have heq : m.fwConfirmed = (m.bankConfirmed.set F.KEY_FW_STATUS_CONFIRMED 1).set F.KEY_FW_STATUS_STAGE 0 := by
      simp only [Mod.fwConfirmed, htrial, Mod.when, BEq.rfl, if_true]
    rw [heq, Mod.flag, Mod.get_set_apart _ _ (by decide), hset, Mod.get_set_self _ _ (by decide), if_pos htrial]
    exact ⟨rfl, rfl⟩
  · have heq : m.fwConfirmed = m.bankConfirmed.set F.KEY_FW_STATUS_CONFIRMED 1 := by
      simp only [Mod.fwConfirmed, Mod.when, beq_iff_eq, htrial, if_false]
    rw [heq, Mod.flag, hset, hkeep, if_neg htrial]
    exact ⟨rfl, rfl⟩

end

variable {s : State} {P : Mod → Prop}

theorem does_fwConfirm (hst : xBit ≤ s.m.st) (hconf : (s.m.key.banks[s.m.runBank]).confirmed = false) (hproven : s.m.key.proven = true)
    (htime : s.m.key.bootAt + 60000 ≤ s.m.optime)
    (hP : P (s.m.fwConfirmed.log .fwConfirmed s.m.runBank.val
      (leBytes 4 (s.m.bankVersion s.m.runBank) ++ leBytes 1 (s.m.key.banks[s.m.runBank]).attempts))) : Does .fwConfirm s P := by
  refine Does.of_onMod (exec_fwConfirm ..) ?_ hP
  rw [if_pos (by rw [hconf]; simp [hst, hproven, htime]), ← s.m.fwConfirmed_version]
  rfl

/-! ### The activation (R453) -/

/-- The ACTIVATE page programmed and logged. -/
def Mod.actPaged (m : Mod) : Mod :=
  let act := (m.key.banks[otherBank m.updBank].act).getD 0 + 1
  (m.bankMap m.updBank fun b => { b with act := some act }).log .updActivated m.updBank.val
    (leBytes 4 (m.bankVersion m.updBank) ++ leBytes 4 act)

/-- The module in which the restart of an activation begins. -/
def Mod.updActivated (m : Mod) : Mod :=
  m.actPaged.when (m.actPaged.st == xRecovery) fun n =>
    n.log .recoveryImage m.updBank.val (leBytes 4 (m.bankVersion m.updBank) ++ leBytes 1 m.updBank.val)

theorem Only.actPaged (m : Mod) : Only [.key, .logs] [F.LOG_STATUS_WAB_FULL] m m.actPaged := by
  have hbank : Only [.key, .logs] [F.LOG_STATUS_WAB_FULL] m
      (m.bankMap m.updBank fun b => { b with act := some ((m.key.banks[otherBank m.updBank].act).getD 0 + 1) }) :=
    (Only.of_put (p := .key) rfl).weaken (by decide) (List.nil_subset _)
  exact hbank.trans ((Only.log ..).weaken (by decide) (List.Subset.refl _))

theorem Only.updActivated (m : Mod) : Only [.key, .logs] [F.LOG_STATUS_WAB_FULL] m m.updActivated :=
  (Only.actPaged m).trans (Only.when ((Only.log ..).weaken (by decide) (List.Subset.refl _)))

theorem Mod.updActivated_banks (m : Mod) : m.updActivated.key.banks =
    m.key.banks.set m.updBank { m.key.banks[m.updBank] with act := some ((m.key.banks[otherBank m.updBank].act).getD 0 + 1) } := by
  unfold Mod.updActivated
  cases m.actPaged.st == xRecovery <;> rfl

theorem does_updActivation (hact : s.m.key.activating = true) (hdue : s.m.actDue = true) (hP : P (s.m.updActivated.hardRestart 5)) :
    Does .updActivation s P := by
  refine Does.of_onMod (exec_updActivation ..) ((if_neg (by rw [hact, hdue]; decide)).trans ?_) hP
  rfl

theorem exec_updActivation_waits (hwait : (!s.m.key.activating || !s.m.actDue) = true) : exec .updActivation s = .next s :=
  exec_of_onMod_unchanged (exec_updActivation ..) (if_pos hwait)

/-- Settles O52: each row is one update of the KEY block and its banks; the activation is a hard restart from the module whose ACTIVATE page
stands. -/
theorem firmwareTransfersVerifyActivateAndConfirm : Obligations.FirmwareTransfersVerifyActivateAndConfirm := by
  unfold Obligations.FirmwareTransfersVerifyActivateAndConfirm
  intro s h seq x c y g n pages header tgt off room whole_ run bank _
  refine ⟨fun hr hrole hfits => ?_, fun hr hrole hlong => ?_, fun hr hrole hstage hy => ?_, fun hr hrole hno => ?_, fun hr hrole hwhole => ?_,
    fun hr hrole hstage hy hgap => ?_, fun hr hrole hno => ?_, fun hstage hy => ?_, fun hno => ?_, fun hr hrole hstage htwin => ?_,
    fun hr hrole hno => ?_, fun hact hdue hsave => ?_, fun hact => ?_, fun hact hrun hwait => ?_, fun hact hrun hmode hsec => ?_,
    fun hr hrole => ?_, fun hst hconf hproven htime => ?_, fun hno => ?_⟩
  case refine_1 =>
    obtain ⟨hstage, hprogress⟩ := ((begun s h seq).updBegun off (c.params.drop 4)).otherShow_updShown 1 0
    refine opUpdBegin_fits hr hrole hfits ⟨hstage, hprogress, ?_⟩
    have htarget := Mod.bankMap_same { s.m with key := { s.m.key with target := s.m.recoveryBank, activating := false } } tgt fun _ => {}
    have hother := Mod.bankMap_other { s.m with key := { s.m.key with target := s.m.recoveryBank, activating := false } } tgt fun _ => {}
    rw [Mod.otherShow_eq]
    refine ⟨rfl, htarget, rfl, hother, rfl, fun k hk => List.mem_append_right _ (mem_updErase _ _ hk), ?_⟩
    rw [← Mod.otherShow_eq]
    exact (((Only.updBegun ..).weaken (List.Subset.refl _) (List.nil_subset _)).trans
      ((Only.updShown ..).weaken (List.nil_subset _) (by decide))).trans ((Only.otherShow ..).weaken (List.nil_subset _) (by decide))
  case refine_2 => exact opUpdBegin_long hr hrole hlong
  case refine_3 =>
    refine opUpdBlock_fits hr hrole hstage hy ⟨rfl, ?_, rfl, Only.blockStored ..⟩
    exact Mod.get_set_self _ _ (by decide)
  case refine_4 => exact opUpdBlock_refused hr hrole hno
  case refine_5 =>
    obtain ⟨hstage, hy, hgap⟩ := hwhole
    have hkept : (begun s h seq).get F.KEY_FW_STATUS_STAGE = 1 := hstage
    by_cases hdigest : bytes32 (Config.sha256 y.bytes) ≠ y.digest
    · rw [if_pos hdigest]
      exact opUpdEnd_complete hr hrole hstage hy hgap (if_pos hdigest)
        ⟨fun heq => absurd heq hdigest, fun _ => hkept, Only.unchanged _⟩
    · rw [if_neg hdigest]
      by_cases hdelta : s.m.st = xRecovery ∧ hdrFormat y.bytes = 2
      · rw [if_pos hdelta]
        exact opUpdEnd_complete hr hrole hstage hy hgap ((if_neg hdigest).trans (if_pos hdelta))
          ⟨fun _ hno => absurd hdelta hno, fun hne => absurd hne hdigest, Only.unchanged _⟩
      · rw [if_neg hdelta]
        exact opUpdEnd_complete hr hrole hstage hy hgap ((if_neg hdigest).trans (if_neg hdelta))
          ⟨fun _ _ => ⟨Mod.updShown_stage .., Mod.updShown_progress ..⟩, fun hne => absurd hne hdigest, Only.updShown ..⟩
  case refine_6 => exact opUpdEnd_gap hr hrole hstage hy hgap
  case refine_7 => exact opUpdEnd_none hr hrole hno
  case refine_8 =>
    cases hcheck : s.m.updCheck y.bytes pages header with
    | inl e =>
      obtain ⟨step, res⟩ := e
      obtain ⟨hshown, hres⟩ := s.m.updRejected_shown step res
      have hlog := logs_updRejected s.m step res
      refine does_updVerify_rejected hstage hy hcheck ⟨rfl, fun hform => ?_, fun hform hlen hformat hsigned => ?_, ?_, rfl, Only.updRejected ..⟩
      · rw [Mod.updCheck_badForm hform] at hcheck
        obtain ⟨rfl, rfl⟩ := Prod.mk.inj (Sum.inl.inj hcheck)
        exact ⟨hshown, hres, hlog⟩
      · rw [Mod.updCheck_badSigner hform hlen hformat hsigned] at hcheck
        obtain ⟨rfl, rfl⟩ := Prod.mk.inj (Sum.inl.inj hcheck)
        exact ⟨hshown, hres⟩
      · exact decide_eq_true ⟨hshown, hres, rfl, hlog⟩
    | inr img =>
      obtain ⟨hshown, hprogress⟩ := s.m.updVerified_shown y.bytes img
      have horpor := s.m.updVerified_orpor y.bytes img
      have hkey := s.m.updVerified_key y.bytes img
      have hlog := logs_updVerified s.m y.bytes img
      refine does_updVerify_verified hstage hy hcheck ⟨horpor, fun hform => ?_, fun hform hlen hformat hsigned => ?_, rfl, ?_,
        Only.updVerified ..⟩
      · rw [Mod.updCheck_badForm hform] at hcheck
        exact Sum.inl_ne_inr hcheck |>.elim
      · rw [Mod.updCheck_badSigner hform hlen hformat hsigned] at hcheck
        exact Sum.inl_ne_inr hcheck |>.elim
      · exact decide_eq_true ⟨hshown, hprogress, hkey, hlog⟩
  case refine_9 =>
    have hnone : (if s.m.get F.KEY_FW_STATUS_STAGE = 2 then s.m.orpor.upd else none) = none := by
      rcases hno with hstage | hupd
      · exact if_neg hstage
      · exact ite_eq_right_iff.2 fun _ => hupd
    refine exec_of_onMod_unchanged (exec_updVerifyComplete ..) ?_
    rw [hnone]
  case refine_10 =>
    have hgo : ¬(s.m.get F.KEY_FW_STATUS_STAGE ≠ 4 ∨ (s.m.get F.TWIN_STATUS_MODE ≠ 0 ∧ (!s.m.key.peerVerified) = true)) := by
      rintro (hne | ⟨hmode, hpeer⟩)
      · exact hne hstage
      · rcases htwin with hzero | hverified
        · exact hmode hzero
        · simp [hverified] at hpeer
    have hset := Mod.get_set_self { begun s h seq with key := { s.m.key with activating := true, actAt := s.m.clk.mono } }
      (f := F.KEY_FW_STATUS_STAGE) 5 (by decide)
    refine Executes.of_opRow (exec_opUpdActivate h seq s) hr rfl hrole rfl (if_neg hgo) ⟨rfl, hset, ?_⟩
    exact (((Only.of_put (p := .key) rfl).weaken (List.Subset.refl _) (List.nil_subset _) : Only [.key] [F.KEY_FW_STATUS_STAGE] (begun s h seq)
      { begun s h seq with key := { s.m.key with activating := true, actAt := s.m.clk.mono } })).set_mem _ (by simp)
  case refine_11 =>
    have hstop : s.m.get F.KEY_FW_STATUS_STAGE ≠ 4 ∨ (s.m.get F.TWIN_STATUS_MODE ≠ 0 ∧ (!s.m.key.peerVerified) = true) :=
      hno.imp id fun ⟨hmode, hpeer⟩ => ⟨hmode, by rw [hpeer]; rfl⟩
    exact Executes.of_opRow (exec_opUpdActivate h seq s) hr rfl hrole rfl (if_pos hstop) (Only.refl _)
  case refine_12 =>
    have honly := Only.updActivated s.m
    have hpwr : s.m.updActivated.pwr = s.m.pwr := honly.part .pwr (by decide)
    obtain ⟨hrestart, hwithin, hbanks⟩ := hardRestart_restarts (m := s.m.updActivated) 5 (by rw [hpwr]; exact hsave)
    refine does_updActivation hact hdue ⟨?_, hrestart.of_only honly, ?_⟩
    · rw [hbanks, Mod.updActivated_banks]
    · exact (Within.of_only (honly.weaken (by decide) (List.Subset.refl _)) (by decide)).trans hwithin
  case refine_13 => exact exec_updActivation_waits (by rw [hact]; rfl)
  case refine_14 => exact exec_updActivation_waits (by simp [Mod.actDue, hrun, Nat.not_le.2 hwait])
  case refine_15 => exact exec_updActivation_waits (by simp [Mod.actDue, hrun, hmode, hsec])
  case refine_16 => exact Executes.of_opRow (exec_opUpdStatus h seq s) hr rfl hrole rfl rfl (Only.refl _)
  case refine_17 =>
    obtain ⟨hflag, hstage⟩ := s.m.fwConfirmed_shown
    refine does_fwConfirm hst hconf hproven htime ⟨s.m.fwConfirmed_key, ?_, ?_, ?_, ?_⟩
    · rw [Mod.flag, Mod.get_log_fw _ _ _ _ (by decide)]
      exact hflag
    · rw [Mod.get_log_fw _ _ _ _ (by decide), hstage]
    · exact logs_log_congr ((Only.fwConfirmed s.m).part .logs (by decide)) ((Only.fwConfirmed s.m).part .nvm (by decide)) _ _ _
    · exact ((Only.fwConfirmed s.m).weaken (by decide) (by decide)).trans ((Only.log ..).weaken (by decide) (by decide))
  case refine_18 =>
    refine exec_of_onMod_unchanged (exec_fwConfirm ..) (if_neg ?_)
    rw [Bool.and_eq_true, Bool.and_eq_true, Bool.and_eq_true, decide_eq_true_eq, decide_eq_true_eq, Bool.not_eq_true']
    rintro ⟨⟨⟨hst, hconf⟩, hproven⟩, htime⟩
    rcases hno with hlow | hdone | hidle | hearly
    · exact absurd hst (Nat.not_le.2 hlow)
    · exact Bool.false_ne_true (hconf.symm.trans hdone)
    · exact Bool.false_ne_true (hidle.symm.trans hproven)
    · exact absurd htime (Nat.not_le.2 hearly)

end Sys2Proof.Machine

end

/-! PROOFS. The family 04_control_cycle_and_restart.md: the local host port and sessions (O35). -/

section

namespace Sys2Proof.Machine

/-! ### Cells of the pool (R321) -/

/-- The peak of a channel that held `n` cells more. -/
def Mod.poolPeaked (m : Mod) (f : PoolFrame) (n : Nat) : Mod :=
  { m with pool := { m.pool with peak := m.pool.peak.set (Fin.ofNat 12 f.ch) (max m.pool.peak[Fin.ofNat 12 f.ch] (m.poolUsed f.ch + n)) } }

/-- A frame that found its cells. -/
def Mod.poolHeld (m : Mod) (f : PoolFrame) : Mod :=
  { m with pool := { m.pool with frames := m.pool.frames ++ [{ f with at_ := m.clk.mono }] } }

/-- The cells that a frame gets. -/
def Mod.poolClaim (m : Mod) (f : PoolFrame) : Nat :=
  claimed (m.poolQuota f.ch).1 (m.poolQuota f.ch).2 (m.poolOwed f.ch) f.cells (m.poolUsed f.ch) m.poolFree

/-- The pool takes frames. -/
def Mod.poolOpen (m : Mod) : Bool := m.isOn (swPd 14) && !m.flag F.FPOOL_STATUS_CLEARING

theorem Mod.poolPut_eq (m : Mod) (f : PoolFrame) : m.poolPut f =
    if m.poolOpen then
      if m.poolClaim f = f.cells then ((((m.poolPeaked f (m.poolClaim f)).poolHeld f).poolMark 0).poolMark 1, true)
      else ((m.poolPeaked f (m.poolClaim f)).poolDrop (Fin.ofNat 12 f.ch), false)
    else (m.poolDrop (Fin.ofNat 12 f.ch), false) := rfl

section

variable {m m' : Mod} {f : PoolFrame}

theorem Mod.poolPut_of_stored (h : (m.poolPut f).2 = true) :
    (m.poolPut f).1 = (((m.poolPeaked f f.cells).poolHeld f).poolMark 0).poolMark 1 := by
  rw [Mod.poolPut_eq] at h ⊢
  split at h
  · split at h
    case isTrue hopen hall => rw [if_pos hopen, if_pos hall, hall]
    case isFalse => exact absurd h Bool.false_ne_true
  · exact absurd h Bool.false_ne_true

theorem Mod.poolPut_of_lost (h : (m.poolPut f).2 = false) : (m.poolPut f).1 = m.poolDrop (Fin.ofNat 12 f.ch) ∨
    ∃ n, (m.poolPut f).1 = (m.poolPeaked f n).poolDrop (Fin.ofNat 12 f.ch) := by
  rw [Mod.poolPut_eq] at h ⊢
  split at h
  · split at h
    case isTrue => exact absurd h.symm Bool.false_ne_true
    case isFalse hopen hall => exact .inr ⟨_, by rw [if_pos hopen, if_neg hall]⟩
  case isFalse hopen => exact .inl (by rw [if_neg hopen])

/-- Whether a frame finds its cells depends on the pool, the plan's quotas and PD14 alone. -/
theorem Mod.poolPut_snd_congr (hpool : m'.pool = m.pool) (hplan : m'.plan = m.plan)
    (hclear : m'.flag F.FPOOL_STATUS_CLEARING = m.flag F.FPOOL_STATUS_CLEARING)
    (hon : m'.sw[swPd 14] = m.sw[swPd 14]) : (m'.poolPut f).2 = (m.poolPut f).2 := by
  have hopen : m'.poolOpen = m.poolOpen := by rw [Mod.poolOpen, Mod.poolOpen, Mod.isOn, Mod.isOn, hon, hclear]
  have hclaim : m'.poolClaim f = m.poolClaim f := by
    simp only [Mod.poolClaim, Mod.poolOwed, Mod.poolQuota, Mod.poolUsed, Mod.poolFree, hpool, hplan]
  rw [Mod.poolPut_eq, Mod.poolPut_eq, hopen, hclaim]
  split
  · split <;> rfl
  · rfl

theorem stored_poolPut (h : (m.poolPut f).2 = true) : Stored m (m.poolPut f).1 f := by
  rw [Mod.poolPut_of_stored h]
  refine ⟨rfl, rfl, fun c => ?_⟩
  show (m.pool.peak.set (Fin.ofNat 12 f.ch) (max m.pool.peak[Fin.ofNat 12 f.ch] (m.poolUsed f.ch + f.cells)))[c] = _
  by_cases hc : c.val = f.ch % 12
  · have hfin : c = Fin.ofNat 12 f.ch := Fin.ext hc
    subst hfin
    rw [if_pos hc]
    simp
  · rw [if_neg hc]
    exact Vector.getElem_set_ne _ _ (fun he => hc he.symm)

theorem uplMarked_poolPut (h : (m.poolPut f).2 = true) : UplMarked m (m.poolPut f).1 := by
  rw [Mod.poolPut_of_stored h]
  exact UplMarked.trans (m' := ((m.poolPeaked f f.cells).poolHeld f).poolMark 0)
    (uplMarked_poolMark ((m.poolPeaked f f.cells).poolHeld f) 0) (uplMarked_poolMark _ 1)

theorem lost_poolPut (h : (m.poolPut f).2 = false) : Lost m (m.poolPut f).1 (Fin.ofNat 12 f.ch) := by
  rcases Mod.poolPut_of_lost h with hdrop | ⟨n, hdrop⟩
  · rw [hdrop]
    exact ⟨rfl, fun _ _ => rfl, Nat.le_refl _⟩
  · rw [hdrop]
    refine ⟨rfl, fun c hc => ?_, ?_⟩
    · exact Vector.getElem_set_ne (Fin.ofNat 12 f.ch).isLt c.isLt (fun he => hc (Fin.ext he.symm))
    · show _ ≤ (m.pool.peak.set (Fin.ofNat 12 f.ch) (max m.pool.peak[Fin.ofNat 12 f.ch] (m.poolUsed f.ch + n)))[Fin.ofNat 12 f.ch]
      simp

theorem Only.poolPut_lost (h : (m.poolPut f).2 = false) : Only [.pool] [] m (m.poolPut f).1 := by
  rcases Mod.poolPut_of_lost h with hdrop | ⟨n, hdrop⟩
  · rw [hdrop]
    exact Only.of_put rfl
  · rw [hdrop]
    exact Only.of_put rfl

theorem Only.poolMark (m : Mod) (u : Fin 2) : Only [.upl] [] m (m.poolMark u) := Only.of_put rfl

theorem Only.poolPut (m : Mod) (f : PoolFrame) : Only [.pool, .upl] [] m (m.poolPut f).1 := by
  cases h : (m.poolPut f).2
  · exact (Only.poolPut_lost h).weaken (by decide) (List.nil_subset _)
  · rw [Mod.poolPut_of_stored h]
    have hheld : Only [.pool, .upl] [] m ((m.poolPeaked f f.cells).poolHeld f) :=
      ((Only.of_put (p := .pool) rfl).weaken (by decide) (List.nil_subset _))
    exact (hheld.trans ((Only.poolMark _ 0).weaken (by decide) (List.nil_subset _))).trans
      ((Only.poolMark _ 1).weaken (by decide) (List.nil_subset _))

end

/-! ### The core wakes (R18) -/

theorem Only.coreWake (m : Mod) : Only [.sw] [] m m.coreWake := by
  unfold Mod.coreWake Mod.when
  split
  · exact Only.of_put rfl
  · exact Only.unchanged m

/-- A switch that is ready is usable at once when it is enabled without an on time. -/
theorem Sw.on_of_ready {w : Sw} {now : Nat} (hoff : w.ph = .off) (hpend : w.pendOff = false)
    (hat : w.offAt.all (fun t => decide (t + 1250 ≤ now)) = true) : ((w.reqOn now).upDone now).ph = .on := by
  have hpower : w.reqOn now = { w with ph := .powering, since := now } := by
    rw [Sw.reqOn, hoff]
    dsimp only
    cases hw : w.offAt with
    | none => rfl
    | some t =>
      rw [hw, Option.all_some, decide_eq_true_eq] at hat
      exact if_neg (Nat.not_lt.2 hat)
  rw [hpower, Sw.upDone]
  exact congrArg Sw.ph (if_neg (by rw [hpend]; decide))

theorem coreWakes_coreWake (m : Mod) : CoreWakes m m.coreWake := by
  constructor
  · intro i hi
    unfold Mod.coreWake Mod.when
    split
    · exact m.sw_swMap_ne _ hi
    · rfl
  · rintro hon ⟨hoff, hpend, hat⟩
    rw [Mod.coreWake, Mod.when, if_pos hon, Mod.isOn, Mod.swOnNow, Mod.sw_swMap_same, Sw.on_of_ready hoff hpend hat]
    rfl

theorem CoreWakes.of_sw {m m' m'' : Mod} (h : CoreWakes m m') (hsw : m''.sw = m'.sw) : CoreWakes m m'' := by
  obtain ⟨hsame, hon⟩ := h
  rw [CoreWakes, hsw]
  refine ⟨hsame, fun hpd hready => ?_⟩
  rw [Mod.isOn, hsw]
  exact hon hpd hready

/-! ### Transfers on the local host port (R328) -/

/-- The marks after a transfer that shifted out `out`. -/
def Mod.spiShown (m : Mod) (out : List Byte) : OrporSt := { m.orpor with spiOut := m.spiStatus :: out, spiBusy := false, spiErr := false }

section

variable (m : Mod) (out : List Byte)

theorem Only.spiShow : Only [.orpor, .sw] [] m (m.spiShow out) :=
  ((Only.coreWake m).weaken (by decide) (List.nil_subset _)).put_mem .orpor (by decide) rfl

theorem coreWakes_spiShow : CoreWakes m (m.spiShow out) := coreWakes_coreWake m

theorem Mod.poolPut_spiShow (f : PoolFrame) : ((m.spiShow out).poolPut f).2 = (m.poolPut f).2 :=
  have honly := Only.spiShow m out
  Mod.poolPut_snd_congr (honly.part .pool (by decide)) (honly.part .plan (by decide)) (honly.flag (by simp))
    ((coreWakes_coreWake m).1 _ (by decide))

/-- What was stored or lost after a transfer was stored or lost in the module before it. -/
theorem stored_poolPut_spiShow {f : PoolFrame} (h : (m.poolPut f).2 = true) : Stored m ((m.spiShow out).poolPut f).1 f := by
  have honly := Only.spiShow m out
  have hpool : (m.spiShow out).pool = m.pool := honly.part .pool (by decide)
  have hclk : (m.spiShow out).clk = m.clk := honly.part .clk (by decide)
  have hstored := stored_poolPut (m := m.spiShow out) (f := f) (by rw [Mod.poolPut_spiShow]; exact h)
  rw [Stored, Mod.poolUsed, hpool, hclk] at hstored
  exact hstored

theorem lost_poolPut_spiShow {f : PoolFrame} (h : (m.poolPut f).2 = false) : Lost m ((m.spiShow out).poolPut f).1 (Fin.ofNat 12 f.ch) := by
  have hpool : (m.spiShow out).pool = m.pool := (Only.spiShow m out).part .pool (by decide)
  have hlost := lost_poolPut (m := m.spiShow out) (f := f) (by rw [Mod.poolPut_spiShow]; exact h)
  rw [Lost, hpool] at hlost
  exact hlost

end

/-- The oldest waiting reply, of bytes `bs`, goes out and frees its cells. -/
def Mod.spiTaken (m : Mod) (bs : List Byte) : Mod :=
  { m.spiShow (leBytes 2 bs.length ++ bs) with
    pool := { m.pool with frames := m.pool.frames.eraseP (fun y => y.ch == 8 && (y.reply.isSome || y.raw.isSome)) } }

theorem Mod.spiShow_pool (m : Mod) (out : List Byte) : (m.spiShow out).pool = m.pool := (Only.spiShow m out).part .pool (by decide)

section

variable {s : State} {P : Mod → Prop} (hon : s.m.isOn (swPd 3) = true)
include hon

theorem does_spiStatus (hP : P (s.m.spiShow [])) : Does .spiStatus s P := Does.of_onMod (exec_spiStatus ..) (if_pos hon) hP

theorem does_spiRead_none (hno : s.m.pool.frames.any (fun y => y.ch == 8 && (y.reply.isSome || y.raw.isSome)) = false)
    (hP : P (s.m.spiShow (leBytes 2 0))) : Does .spiRead s P := by
  have hidx : s.m.pool.frames.findIdx? (fun f => f.ch == 8 && (f.reply.isSome || f.raw.isSome)) = none :=
    List.findIdx?_eq_none_iff.2 fun f hf => by simpa using List.any_eq_false.1 hno f hf
  refine Does.of_onMod (exec_spiRead ..) ?_ hP
  rw [hon, hidx]
  rfl

omit hon in
/-- The first of the frames that meet `p`, by its place. -/
theorem findIdx?_of_find? {l : List PoolFrame} {p : PoolFrame → Bool} {g : PoolFrame} (hg : l.find? p = some g) :
    l.findIdx? p = some (l.findIdx p) ∧ l[l.findIdx p]? = some g ∧ l.eraseP p = l.eraseIdx (l.findIdx p) := by
  rw [List.find?_eq_getElem?_findIdx] at hg
  obtain ⟨hlt, -⟩ := List.getElem?_eq_some_iff.1 hg
  have hidx : l.findIdx? p = some (l.findIdx p) := List.findIdx?_eq_some_iff_findIdx_eq.2 ⟨hlt, rfl⟩
  refine ⟨hidx, hg, ?_⟩
  rw [List.eraseP_eq_eraseIdx, hidx]

theorem does_spiRead_reply {g : PoolFrame} (hg : s.m.pool.frames.find? (fun y => y.ch == 8 && (y.reply.isSome || y.raw.isSome)) = some g)
    (hP : P (s.m.spiTaken ((g.raw.or (g.reply.map Reply.packet)).getD []))) : Does .spiRead s P := by
  obtain ⟨hidx, hget, herase⟩ := findIdx?_of_find? hg
  refine Does.of_onMod (exec_spiRead ..) ?_ hP
  rw [hon, hidx]
  dsimp only
  rw [hget, Mod.spiTaken, Mod.spiShow_pool, herase]
  rfl

theorem does_spiWrite_badLength {len : BitVec 16} {bytes : List Byte} (hlen : len.toNat ≠ bytes.length)
    (hP : P (({ s.m.spiShow [] with orpor := { s.m.spiShown [] with spiErr := true } } : Mod).addSat F.SESS_BAD_COUNT 1)) :
    Does (.spiWrite len bytes) s P := by
  refine Does.of_onMod (exec_spiWrite ..) ?_ hP
  rw [hon]
  exact if_pos hlen

theorem does_spiWrite_stored {len : BitVec 16} {bytes : List Byte} (hlen : len.toNat = bytes.length)
    (hput : (s.m.poolPut { ch := 8, cells := cellsOf bytes.length, packet := some bytes }).2 = true)
    (hP : P ((s.m.spiShow []).poolPut { ch := 8, cells := cellsOf bytes.length, packet := some bytes }).1) : Does (.spiWrite len bytes) s P := by
  refine Does.of_onMod (exec_spiWrite ..) ?_ hP
  rw [hon]
  exact (if_neg (not_not.2 hlen)).trans (if_pos (by rw [Mod.poolPut_spiShow]; exact hput))

theorem does_spiWrite_lost {len : BitVec 16} {bytes : List Byte} (hlen : len.toNat = bytes.length)
    (hput : (s.m.poolPut { ch := 8, cells := cellsOf bytes.length, packet := some bytes }).2 = false)
    (hP : P { ((s.m.spiShow []).poolPut { ch := 8, cells := cellsOf bytes.length, packet := some bytes }).1 with
      orpor := { s.m.spiShown [] with spiBusy := true } }) : Does (.spiWrite len bytes) s P := by
  have horpor : ((s.m.spiShow []).poolPut { ch := 8, cells := cellsOf bytes.length, packet := some bytes }).1.orpor = s.m.spiShown [] :=
    (Only.poolPut ..).part .orpor (by decide)
  refine Does.of_onMod (exec_spiWrite ..) ?_ hP
  rw [hon]
  refine (if_neg (not_not.2 hlen)).trans ((if_neg (by rw [Mod.poolPut_spiShow, hput]; decide)).trans ?_)
  rw [horpor]

end

/-! ### Sessions close (R336) -/

/-- A session gone with what it had in flight; its transfers are no session's. -/
def Mod.sessDropped (m : Mod) (h : Nat) : Mod :=
  { m with
    orpor := { m.orpor with sessions := mapDel h m.orpor.sessions, order := m.orpor.order.filter (fun o => o.1 != h) }
    ports := { m.ports with pass := m.ports.pass.map (fun (x : PassX) => if x.session = h then { x with session := 1024 } else x) } }

section

variable {m : Mod} {h : Nat}

theorem Only.sessDropped (m : Mod) (h : Nat) : Only [.orpor, .ports] [] m (m.sessDropped h) :=
  ((Only.unchanged m).put_mem (m'' := { m with orpor := (m.sessDropped h).orpor }) .orpor (by decide) rfl).put_mem .ports (by decide) rfl

theorem Mod.closeSess_plain (hno : m.exec.serviceSession = none) : m.closeSess h = m.sessDropped h := by
  rw [Mod.closeSess, show ({ m with orpor := _, ports := _ } : Mod).exec.serviceSession = none from hno]
  rfl

/-- The test values end and the session of SERVICE is none. -/
def Mod.serviceEnded (m : Mod) : Mod :=
  { m with
    outs := m.outs.map (fun (u : OutSt) => { u with test := none })
    exec := { m.exec with serviceSession := none } }

theorem Only.serviceEnded (m : Mod) : Only [.outs, .exec] [] m m.serviceEnded :=
  ((Only.unchanged m).put_mem (m'' := { m with outs := m.serviceEnded.outs }) .outs (by decide) rfl).put_mem .exec (by decide) rfl

theorem Mod.closeSess_service (hsess : m.exec.serviceSession = some h) (hst : m.st = xService) :
    m.closeSess h = (m.sessDropped h).serviceEnded.goto xStopped := by
  have hwhen : (m.exec.serviceSession == some h) = true := by rw [hsess]; exact BEq.rfl
  have hin : ((m.sessDropped h).st == xService) = true := by rw [show (m.sessDropped h).st = m.st from rfl, hst]; rfl
  show (m.sessDropped h).when (m.exec.serviceSession == some h) Mod.leaveService = _
  rw [hwhen, Mod.when, if_pos rfl, Mod.leaveService, if_pos hin]
  rfl

end

section

variable {s : State} {h : BitVec 10} {x : Sess} {P : Mod → Prop}

theorem does_sessionIdleTimeout (hx : s.m.sess h.toNat = some x) (hidle : x.lastAt + max 10 (s.m.get F.SESS_CFG_IDLE) * 1000 ≤ s.m.optime)
    (hP : P (s.m.closeSess h.toNat)) : Does (.sessionIdleTimeout h) s P := by
  refine Does.of_onMod (exec_sessionIdleTimeout ..) ?_ hP
  rw [hx, Option.any_some, show decide (x.lastAt + s.m.idleS * 1000 ≤ s.m.optime) = true from decide_eq_true hidle]
  rfl

theorem exec_sessionIdleTimeout_early (hx : s.m.sess h.toNat = some x)
    (hearly : s.m.optime < x.lastAt + max 10 (s.m.get F.SESS_CFG_IDLE) * 1000) : exec (.sessionIdleTimeout h) s = .next s := by
  refine exec_of_onMod_unchanged (exec_sessionIdleTimeout ..) ?_
  rw [hx, Option.any_some, show decide (x.lastAt + s.m.idleS * 1000 ≤ s.m.optime) = false from decide_eq_false (Nat.not_le.2 hearly)]
  rfl

end

/-! ### Replies go out (R334, R367) -/

theorem Only.poolLose (m : Mod) (p : PoolFrame → Bool) : Only [.pool, .upl] [] m (m.poolLose p) := by
  have hlost : Only [.pool, .upl] [] m { m with pool := (m.poolLose p).pool } :=
    (Only.of_put (p := .pool) rfl).weaken (by decide) (List.nil_subset _)
  exact (hlost.trans ((Only.poolMark _ 0).weaken (by decide) (List.nil_subset _))).trans
    ((Only.poolMark _ 1).weaken (by decide) (List.nil_subset _))

/-- A frame for the twin link leaves at once. -/
def Mod.twinLeft (m : Mod) : Mod := { m with pool := { m.pool with frames := m.pool.frames.dropLast } }

theorem Only.twinOut (m : Mod) (len : Nat) : Only [.pool, .upl, .twin] [] m (m.twinOut len) := by
  have hput : Only [.pool, .upl, .twin] [] m (m.poolPut { ch := 11, cells := cellsOf len }).1 :=
    (Only.poolPut ..).weaken (by decide) (List.nil_subset _)
  unfold Mod.twinOut
  dsimp only
  generalize m.poolPut { ch := 11, cells := cellsOf len } = r at hput
  split
  · exact (hput.put_mem (m'' := r.1.twinLeft) .pool (by decide) rfl).put_mem .twin (by decide) rfl
  · exact hput

/-- The reply's way on an uplink port: what waits on it is lost where the link is down. -/
theorem Mod.deliver_eq (m : Mod) (r : Reply) : ∃ f p, m.deliver r = if r.viaB then m.twinOut (48 + r.data.length) else
    if r.dest = 2 then (m.poolPut { ch := 8, cells := cellsOf (48 + r.data.length), reply := some r }).1 else
    if m.flag (F.UPL_STATUS_LINK r.dest) then (m.poolPut f).1 else
    if (m.poolPut f).2 then (m.poolPut f).1.poolLose p else (m.poolPut f).1 := ⟨_, _, rfl⟩

theorem Only.deliver (m : Mod) (r : Reply) : Only [.pool, .upl, .twin] [] m (m.deliver r) := by
  have hput (f : PoolFrame) : Only [.pool, .upl, .twin] [] m (m.poolPut f).1 := (Only.poolPut ..).weaken (by decide) (List.nil_subset _)
  obtain ⟨f, p, heq⟩ := m.deliver_eq r
  rw [heq]
  split
  · exact Only.twinOut ..
  split
  · exact hput _
  split
  · exact hput _
  split
  · exact (hput f).trans ((Only.poolLose ..).weaken (by decide) (List.nil_subset _))
  · exact hput _

/-! ### Sessions open (R333, R334) -/

theorem Mod.greeted_eq (m : Mod) (op : Nat) : m.greeted op = { m with orpor := { m.orpor with greet := (m.greeted op).orpor.greet } } := by
  unfold Mod.greeted
  split <;> rfl

/-- The session that an OPEN `p` with the credential `cred` gets under the handle `n`. -/
def Mod.openedSess (m : Mod) (cred : List Byte) (t : Nat) (viaB : Bool) (p : List Byte) (n : Nat) : Sess :=
  let role := par (packetParams p) 0 1
  let scope := par (packetParams p) 2 2
  let keys := sessKeys cred (((packetParams p).drop 4).take 16) (m.random 16) n role scope
  { role := roleOf role, scope := scope, transport := t, viaB := viaB, kc := keys.take 16, kr := keys.drop 16, lastAt := m.optime }

/-- The mark of that OPEN, with its reply. -/
def Mod.openedMark (m : Mod) (cred : List Byte) (t : Nat) (viaB : Bool) (p : List Byte) (n : Nat) : Opened :=
  Opened.mk cred (((packetParams p).drop 4).take 16) m.optime
    { dest := t, viaB := viaB, session := 0, flags := 9, op := 1, tag := (hdrOf p).tag, seq := 0, rseq := 0, status := 0
      data := leBytes 2 n ++ leBytes 2 0 ++ m.random 16 ++ leBytes 4 m.idleS, auth := some (cred, (m.random 16).take 12) }

/-- The session opened and the OPEN marked. -/
def Mod.sessOpened (m : Mod) (n : Nat) (x : Sess) (o : Opened) : Mod :=
  let m := (m.drawnN 16).setSess n x
  { m with orpor := { m.orpor with opens := m.orpor.opens ++ [o] } }

theorem Only.sessOpened (m : Mod) (n : Nat) (x : Sess) (o : Opened) : Only [.orpor, .freeCtr] [] m (m.sessOpened n x o) :=
  (((Only.drawnN m 16).weaken (by decide) (List.nil_subset _)).trans ((Only.setSess ..).weaken (by decide) (List.nil_subset _))).put_mem .orpor
    (by decide) rfl

theorem Mod.sess_sessOpened (m : Mod) (n : Nat) (x : Sess) (o : Opened) :
    (m.sessOpened n x o).sess n = some x ∧ ∀ k, k ≠ n → (m.sessOpened n x o).sess k = m.sess k :=
  ⟨mapGet_mapPut_same .., fun _ hk => mapGet_mapPut_ne hk ..⟩

/-- An OPEN `p` answered with a session under the handle `n`. -/
def Mod.opened (m : Mod) (t : Nat) (viaB : Bool) (p : List Byte) (n : Nat) : Mod :=
  let cred := m.credential (par (packetParams p) 0 1) (par (packetParams p) 2 2)
  let g := m.greeted 1
  let o := g.openedMark cred t viaB p n
  (g.sessOpened n (g.openedSess cred t viaB p n) o).deliver o.reply

theorem does_opSessOpen {s : State} {P : Mod → Prop} {t n : Nat} {viaB : Bool} {p : List Byte} (hg : s.m.greeting 1 = some (t, viaB, p))
    (hrole : 1 ≤ par (packetParams p) 0 1 ∧ par (packetParams p) 0 1 ≤ 4)
    (htag : packetTag p = leBytes 16 (Config.gcmTag (s.m.credential (par (packetParams p) 0 1) (par (packetParams p) 2 2))
      ((((packetParams p).drop 4).take 16).take 12) (p.take 52) []).toNat)
    (hopens : s.m.orpor.opens = []) (hscope : s.m.scopeOk (par (packetParams p) 0 1) (par (packetParams p) 2 2) = true)
    (hfree : (List.range 1024).find? (fun k => (s.m.sess k).isNone) = some n)
    (hP : P (s.m.opened t viaB p n)) :
    Does .opSessOpen s P := by
  have hrole : ¬(par (packetParams p) 0 1 = 0 ∨ 4 < par (packetParams p) 0 1 ∨ packetTag p ≠ leBytes 16 (Config.gcmTag
      (s.m.credential (par (packetParams p) 0 1) (par (packetParams p) 2 2)) ((((packetParams p).drop 4).take 16).take 12) (p.take 52)
      []).toNat) := by
    rintro (hzero | hhigh | hbad)
    · omega
    · omega
    · exact hbad htag
  refine Does.of_onMod (exec_opSessOpen ..) ?_ hP
  have hopensG : (s.m.greeted 1).orpor.opens = [] := by rw [Mod.greeted_eq]; exact hopens
  have hscopeG : (s.m.greeted 1).scopeOk (par (packetParams p) 0 1) (par (packetParams p) 2 2) = true := by rw [Mod.greeted_eq]; exact hscope
  have hfreeG : (List.range 1024).find? (fun k => ((s.m.greeted 1).sess k).isNone) = some n := by rw [Mod.greeted_eq]; exact hfree
  rw [hg]
  dsimp only
  rw [if_neg hrole]
  rw [hopensG, List.find?_nil]
  dsimp only
  rw [hscopeG, hfreeG]
  exact if_neg (by decide)

/-- An OPEN that is answered leaves its session under the free handle, the others as they are, and its mark. -/
theorem Mod.sess_opened (m : Mod) (t : Nat) (viaB : Bool) (p : List Byte) (n : Nat) :
    (m.opened t viaB p n).sess n = some ((m.greeted 1).openedSess (m.credential (par (packetParams p) 0 1) (par (packetParams p) 2 2)) t viaB p n) ∧
      ∀ k, k ≠ n → (m.opened t viaB p n).sess k = m.sess k := by
  have horpor : (m.opened t viaB p n).orpor = _ := (Only.deliver ..).part .orpor (by decide)
  obtain ⟨hsame, hother⟩ := (m.greeted 1).sess_sessOpened n
    ((m.greeted 1).openedSess (m.credential (par (packetParams p) 0 1) (par (packetParams p) 2 2)) t viaB p n)
    ((m.greeted 1).openedMark (m.credential (par (packetParams p) 0 1) (par (packetParams p) 2 2)) t viaB p n)
  refine ⟨?_, fun k hk => ?_⟩
  · rw [Mod.sess, horpor]
    exact hsame
  · have hgreet : (m.greeted 1).sess k = m.sess k := by rw [Mod.greeted_eq]; rfl
    rw [Mod.sess, horpor, ← hgreet]
    exact hother k hk

theorem Mod.opens_opened (m : Mod) (t : Nat) (viaB : Bool) (p : List Byte) (n : Nat) :
    (m.opened t viaB p n).orpor.opens = m.orpor.opens ++
      [(m.greeted 1).openedMark (m.credential (par (packetParams p) 0 1) (par (packetParams p) 2 2)) t viaB p n] := by
  have horpor : (m.opened t viaB p n).orpor = _ := (Only.deliver ..).part .orpor (by decide)
  have hgreet : (m.greeted 1).orpor.opens = m.orpor.opens := by rw [Mod.greeted_eq]
  rw [horpor, ← hgreet]
  rfl

theorem Only.greeted (m : Mod) (op : Nat) : Only [.orpor] [] m (m.greeted op) := by
  rw [Mod.greeted_eq]
  exact Only.of_put rfl

theorem Only.opened (m : Mod) (t : Nat) (viaB : Bool) (p : List Byte) (n : Nat) :
    Only [.orpor, .pool, .freeCtr, .twin, .upl] [] m (m.opened t viaB p n) :=
  (((Only.greeted m 1).weaken (by decide) (List.nil_subset _)).trans ((Only.sessOpened ..).weaken (by decide) (List.nil_subset _))).trans
    ((Only.deliver ..).weaken (by decide) (List.nil_subset _))

/-! ### The obligation -/

/-- Settles O35, clause by clause: each command's result is named above, and what it leaves alone follows from its parts. -/
theorem hostPortAndSessionsOpenAndClose : Obligations.HostPortAndSessionsOpenAndClose := by
  unfold Obligations.HostPortAndSessionsOpenAndClose
  intro s len bytes p g h x t n viaB bs shown role scope cred hostN keys _
  have hshow (out : List Byte) := Only.spiShow s.m out
  refine ⟨fun hon hlen hput => ?stored, fun hon hlen hput => ?lost, fun hon hlen => ?badLength, fun hon hg => ?reply, fun hon hno => ?noReply,
    fun hon => ?status, fun hx hearly => exec_sessionIdleTimeout_early hx hearly, fun hx hidle hsess => ?idle,
    fun hx hidle hsess hst => ?idleService, fun hg => ?probe, fun hg hrole htag hopens hscope hfree => ?sessOpen⟩
  case stored =>
    have hrest := Only.poolPut (s.m.spiShow []) { ch := 8, cells := cellsOf bytes.length, packet := some bytes }
    have hupl : (s.m.spiShow []).upl = s.m.upl := (hshow []).part .upl (by decide)
    have hmarked := uplMarked_poolPut (m := s.m.spiShow []) (f := { ch := 8, cells := cellsOf bytes.length, packet := some bytes })
      (by rw [Mod.poolPut_spiShow]; exact hput)
    rw [UplMarked, hupl] at hmarked
    exact does_spiWrite_stored hon hlen hput ⟨stored_poolPut_spiShow s.m [] hput, hrest.part .orpor (by decide),
      (coreWakes_spiShow s.m []).of_sw (hrest.part .sw (by decide)), hmarked,
      ((hshow []).weaken (by decide) (List.nil_subset _)).trans (hrest.weaken (by decide) (List.nil_subset _))⟩
  case lost =>
    have hrest := Only.poolPut_lost (m := s.m.spiShow []) (f := { ch := 8, cells := cellsOf bytes.length, packet := some bytes })
      (by rw [Mod.poolPut_spiShow]; exact hput)
    have honly : Only [.pool, .orpor, .sw] [] s.m _ :=
      ((hshow []).weaken (by decide) (List.nil_subset _)).trans (hrest.weaken (by decide) (List.nil_subset _))
    exact does_spiWrite_lost hon hlen hput ⟨lost_poolPut_spiShow s.m [] hput, rfl,
      (coreWakes_spiShow s.m []).of_sw (hrest.part .sw (by decide)), honly.put_mem .orpor (by decide) rfl⟩
  case badLength =>
    have hmarked := (hshow []).put_mem (m'' := { s.m.spiShow [] with orpor := { s.m.spiShown [] with spiErr := true } }) .orpor (by decide) rfl
    refine does_spiWrite_badLength hon hlen ⟨?_, rfl, coreWakes_spiShow s.m [], ?_⟩
    · rw [Mod.addSat, Mod.get_set_self _ _ (by decide), Nat.mod_eq_of_lt (satNat_lt ..), hmarked.get (by simp)]
    · exact (hmarked.weaken (List.Subset.refl _) (List.nil_subset _)).set_mem _ (by decide)
  case reply =>
    exact does_spiRead_reply hon hg ⟨rfl, rfl, coreWakes_spiShow s.m (leBytes 2 bs.length ++ bs),
      ((hshow (leBytes 2 bs.length ++ bs)).weaken (by decide) (List.nil_subset _)).put_mem .pool (by decide) rfl⟩
  case noReply => exact does_spiRead_none hon hno ⟨rfl, coreWakes_spiShow s.m _, hshow _⟩
  case status => exact does_spiStatus hon ⟨rfl, coreWakes_spiShow s.m _, hshow _⟩
  case idle =>
    refine does_sessionIdleTimeout hx hidle ?_
    rw [Mod.closeSess_plain hsess]
    exact ⟨rfl, rfl, Only.sessDropped ..⟩
  case idleService =>
    have hleft : Only [.orpor, .ports, .outs, .exec] [] s.m (s.m.sessDropped h.toNat).serviceEnded :=
      ((Only.sessDropped ..).weaken (by decide) (List.nil_subset _)).trans ((Only.serviceEnded _).weaken (by decide) (List.nil_subset _))
    refine does_sessionIdleTimeout hx hidle ?_
    rw [Mod.closeSess_service hsess hst]
    refine ⟨rfl, Mod.st_goto _ (by decide), ?_, fun o => ?_, rfl, rfl, ?_⟩
    · rw [Mod.prev_goto]
      exact hst
    · exact Vector.getElem_map ..
    · exact (hleft.weaken (List.Subset.refl _) (List.nil_subset _)).trans ((Only.goto ..).weaken (List.nil_subset _) (by simp))
  case probe =>
    rw [exec_opSessProbe, execOpSessProbe, onMod, hg]
  case sessOpen =>
    obtain ⟨hsame, hother⟩ := s.m.sess_opened t viaB p n
    refine does_opSessOpen hg hrole htag hopens hscope hfree ⟨?_, fun k hk => hother k hk, ?_, Only.opened ..⟩
    · rw [hsame, Mod.greeted_eq]
      rfl
    · rw [Mod.opens_opened, hopens]
      rfl

end Sys2Proof.Machine

end

/-! PROOFS. The family 05_bluot_code.md: a lane at its word, and the register operations (O6 to O9). -/

section

namespace Sys2Proof.Machine

/-! ### A lane at its word (R124, R128) -/

section

variable {s : State} {i : Fin 8} {w : Nat} {w2 : Option Nat}

theorem Runs.fetched (h : Runs s i w w2) : fetched s.m i w w2 = true := by
  obtain ⟨hphase, hpc, hword, hnext⟩ := h
  cases w2 with
  | none => simp only [Machine.fetched, hphase, hpc, hword, beq_self_eq_true, decide_true, Bool.and_self]
  | some x => simpa only [Machine.fetched, hphase, hpc, hword, beq_self_eq_true, decide_true, Bool.true_and, Option.all_some] using hnext

/-- A command that acts where the lane stands at its word, and changes nothing elsewhere. -/
theorem onMod_of_runs (h : Runs s i w w2) (f : Mod → Mod) :
    onMod s (fun m => if Machine.fetched m i w w2 then f m else m) = .next { s with m := f s.m } := by
  rw [onMod, if_pos h.fetched]

theorem laneOp_of_runs (h : Runs s i w w2) (f : Mod → Lane → Lane) :
    laneOp s i w w2 f = advance s i (if w2.isSome then 2 else 1) (f s.m s.m.lanes[i]) := onMod_of_runs h _

theorem laneOp_two_of_runs {x : Nat} (h : Runs s i w (some x)) (f : Mod → Lane → Lane) :
    laneOp s i w (some x) f = advance s i 2 (f s.m s.m.lanes[i]) := laneOp_of_runs h f

theorem branchOp_of_runs (h : Runs s i w) (off : BitVec 20) (c : Lane → Bool) :
    branchOp s i w off c =
      .next { s with m := putLane s.m i (if c s.m.lanes[i] then s.m.lanes[i].jump off.toNat else s.m.lanes[i].past 1) } :=
  onMod_of_runs h _

theorem regOp_of_runs (h : Runs s i w) (d : Fin 16) (rs : List (Fin 16)) (f : Lane → Long × Bool) :
    regOp s i w d rs f = advance s i 1 (s.m.lanes[i].wr d (f s.m.lanes[i]).1 (tagOf s.m.lanes[i] rs (f s.m.lanes[i]).2)) :=
  laneOp_of_runs h _

end

/-! ### Integers in their ranges (R130) -/

theorem asI32_mem (v : Long) : -(2 : Int) ^ 31 ≤ asI32 v ∧ asI32 v < (2 : Int) ^ 31 := by
  unfold asI32 toInt
  split <;> omega

theorem asI64_mem (v : Long) : -(2 : Int) ^ 63 ≤ asI64 v ∧ asI64 v < (2 : Int) ^ 63 := ⟨BitVec.le_toInt v, BitVec.toInt_lt⟩

/-- Holding at the ends changes what lies outside the range, and nothing else. -/
theorem satInt_ne_iff (n : Nat) (v : Int) : satInt n v ≠ v ↔ v < -(2 : Int) ^ (n - 1) ∨ (2 : Int) ^ (n - 1) ≤ v := by
  have hpos : (0 : Int) < 2 ^ (n - 1) := by positivity
  unfold satInt
  push_cast
  split_ifs <;> omega

theorem saturate_eq (n : Nat) (v : Int) :
    saturate n v = (satInt n v, decide (v < -(2 : Int) ^ (n - 1) ∨ (2 : Int) ^ (n - 1) ≤ v)) := by
  simp only [saturate, satInt_ne_iff]

theorem saturate_of_mem {n : Nat} {v : Int} (hlo : -(2 : Int) ^ (n - 1) ≤ v) (hhi : v < (2 : Int) ^ (n - 1)) : saturate n v = (v, false) := by
  have hin : satInt n v = v := not_not.1 fun h => ((satInt_ne_iff n v).1 h).elim (not_lt.2 hlo) (not_le.2 hhi)
  simp only [saturate, hin, ne_eq, not_true_eq_false, decide_false]

theorem tmod_mem {n : Nat} {x : Int} (y : Int) (hlo : -(2 : Int) ^ n ≤ x) (hhi : x < (2 : Int) ^ n) :
    -(2 : Int) ^ n ≤ x.tmod y ∧ x.tmod y < (2 : Int) ^ n := by
  have habs : (x.tmod y).natAbs ≤ x.natAbs := by
    rw [Int.natAbs_tmod]
    exact Nat.mod_le ..
  rcases le_total 0 x with hx | hx
  · have := Int.tmod_nonneg y hx
    omega
  · have := Int.tmod_nonneg y (Int.neg_nonneg_of_nonpos hx)
    rw [Int.neg_tmod] at this
    omega

theorem ofI32_natCast (n : Nat) : ofI32 n = BitVec.ofNat 64 n := BitVec.ofInt_natCast 64 n

theorem ofBoolL_bne_zero (q : Tag) : ofBoolL (q != 0) = if q = 0 then 0 else 1 := by by_cases h : q = 0 <;> simp [ofBoolL, h]

/-! ### Results of register operations (R130, R131) -/

section

variable {s : State} {i : Fin 8} {w : Nat} {d : Fin 16} {rs : List (Fin 16)} {f : Lane → Long × Bool} {n : Nat} {v : Int}

/-- An operation that holds the exact integer `v` at the ends of the n-bit range. -/
theorem regOp_saturate (h : Runs s i w) (hf : f s.m.lanes[i] = (BitVec.ofInt 64 (saturate n v).1, (saturate n v).2)) :
    regOp s i w d rs f = intResult n s i s.m.lanes[i] d rs v := by
  rw [regOp_of_runs h, hf, saturate_eq]
  rfl

/-- An operation whose exact integer lies in the range. -/
theorem regOp_exact {k : Nat} (h : Runs s i w) (hlo : -(2 : Int) ^ k ≤ v) (hhi : v < (2 : Int) ^ k)
    (hf : f s.m.lanes[i] = (BitVec.ofInt 64 v, false)) : regOp s i w d rs f = intResult (k + 1) s i s.m.lanes[i] d rs v :=
  regOp_saturate h (by rw [hf, saturate_of_mem hlo hhi])

theorem regOp_plain {v : Long} (h : Runs s i w) (hf : f s.m.lanes[i] = (v, false)) :
    regOp s i w d rs f = plainResult s i s.m.lanes[i] d rs v := by
  rw [regOp_of_runs h, hf]
  rfl

/-- Division held in the range of k + 1 bits, and by zero the end that the dividend's sign names. -/
theorem regOp_div {k : Nat} {x y : Int} (h : Runs s i w) (hf : f s.m.lanes[i] = (BitVec.ofInt 64 (divInt (k + 1) x y).1, (divInt (k + 1) x y).2)) :
    regOp s i w d rs f = if y = 0
      then advance s i 1 (s.m.lanes[i].wr d
        (BitVec.ofInt 64 (if 0 < x then (2 : Int) ^ k - 1 else if x < 0 then -(2 : Int) ^ k else 0)) (tagOf s.m.lanes[i] rs true))
      else intResult (k + 1) s i s.m.lanes[i] d rs (x.tdiv y) := by
  split
  case isTrue hy =>
    rw [regOp_of_runs h, hf]
    simp only [divInt, if_pos hy, Nat.add_sub_cancel, Nat.cast_pow, Nat.cast_ofNat]
  case isFalse hy => exact regOp_saturate h (by rw [hf, divInt, if_neg hy])

/-- The remainder of a dividend in the range, and 0 by zero. -/
theorem regOp_mod {k : Nat} {x y : Int} (h : Runs s i w) (hlo : -(2 : Int) ^ k ≤ x) (hhi : x < (2 : Int) ^ k)
    (hf : f s.m.lanes[i] = (BitVec.ofInt 64 (modInt x y).1, (modInt x y).2)) :
    regOp s i w d rs f = if y = 0 then advance s i 1 (s.m.lanes[i].wr d 0 (tagOf s.m.lanes[i] rs true))
      else intResult (k + 1) s i s.m.lanes[i] d rs (x.tmod y) := by
  split
  case isTrue hy =>
    rw [regOp_of_runs h, hf, modInt, if_pos hy]
    rfl
  case isFalse hy =>
    obtain ⟨hmlo, hmhi⟩ := tmod_mem y hlo hhi
    exact regOp_exact h hmlo hmhi (by rw [hf, modInt, if_neg hy])

theorem regOp_real {x : Nat} {more : Bool} (h : Runs s i w) (hf : f s.m.lanes[i] = (ofF32 x, f32Range x || more)) :
    regOp s i w d rs f = realResult s i s.m.lanes[i] d rs x more := by
  rw [regOp_of_runs h, hf]
  rfl

end

/-- Settles O6, operation by operation: each holds its exact integer at the ends of the range, but MIN, MAX, LIM and MOD, whose results lie in
the range of their operands, and a division by zero. -/
theorem bluotIntegersAreExactThenHeld : Obligations.BluotIntegersAreExactThenHeld := by
  unfold Obligations.BluotIntegersAreExactThenHeld
  intro s i d a b imm l x y z X Y Z
  simp only [exec_addI, exec_subI, exec_mulI, exec_divI, exec_modI, exec_negI, exec_absI, exec_minI, exec_maxI, exec_limI, exec_addiI,
    exec_addL, exec_subL, exec_mulL, exec_divL, exec_negL, exec_absL, exec_minL, exec_maxL, exec_limL,
    execAddI, execSubI, execMulI, execDivI, execModI, execNegI, execAbsI, execMinI, execMaxI, execLimI, execAddiI,
    execAddL, execSubL, execMulL, execDivL, execNegL, execAbsL, execMinL, execMaxL, execLimL, i32Op, i64Op, convOp]
  obtain ⟨hxlo, hxhi⟩ : -(2 : Int) ^ 31 ≤ x ∧ x < (2 : Int) ^ 31 := asI32_mem _
  obtain ⟨hylo, hyhi⟩ : -(2 : Int) ^ 31 ≤ y ∧ y < (2 : Int) ^ 31 := asI32_mem _
  obtain ⟨hXlo, hXhi⟩ : -(2 : Int) ^ 63 ≤ X ∧ X < (2 : Int) ^ 63 := asI64_mem _
  obtain ⟨hYlo, hYhi⟩ : -(2 : Int) ^ 63 ≤ Y ∧ Y < (2 : Int) ^ 63 := asI64_mem _
  refine ⟨fun h => regOp_saturate h rfl, fun h => regOp_saturate h rfl, fun h => regOp_saturate h rfl, fun h => regOp_div h rfl,
    fun h => regOp_mod h hxlo hxhi rfl, fun h => regOp_saturate h rfl, fun h => regOp_saturate h rfl,
    fun h => regOp_exact h (le_min hxlo hylo) (min_lt_of_left_lt hxhi) rfl,
    fun h => regOp_exact h (le_max_of_le_left hxlo) (max_lt hxhi hyhi) rfl,
    fun h => regOp_exact h (le_min (le_max_of_le_right hxlo) hylo) (min_lt_of_right_lt hyhi) rfl,
    fun h => regOp_saturate h rfl, fun h => regOp_saturate h rfl, fun h => regOp_saturate h rfl, fun h => regOp_saturate h rfl,
    fun h => regOp_div h rfl, fun h => regOp_saturate h rfl, fun h => regOp_saturate h rfl,
    fun h => regOp_exact h (le_min hXlo hYlo) (min_lt_of_left_lt hXhi) rfl,
    fun h => regOp_exact h (le_max_of_le_left hXlo) (max_lt hXhi hYhi) rfl,
    fun h => regOp_exact h (le_min (le_max_of_le_right hXlo) hYlo) (min_lt_of_right_lt hYhi) rfl⟩

/-- Settles O7, operation by operation. -/
theorem bluotRealsSetRangeOnNanAndInfinity : Obligations.BluotRealsSetRangeOnNanAndInfinity := by
  unfold Obligations.BluotRealsSetRangeOnNanAndInfinity
  intro s i d a b l x y z
  simp only [exec_addF, exec_subF, exec_mulF, exec_divF, exec_sqrtF, exec_negF, exec_absF, exec_minF, exec_maxF, exec_limF, exec_macF,
    execAddF, execSubF, execMulF, execDivF, execSqrtF, execNegF, execAbsF, execMinF, execMaxF, execLimF, execMacF, f32Op, f32NumOp, convOp]
  have plain (r : Nat) : (ofF32 r, f32Range r) = (ofF32 r, f32Range r || false) := by rw [Bool.or_false]
  refine ⟨fun h => regOp_real h (plain _), fun h => regOp_real h (plain _), fun h => regOp_real h (plain _), fun h => regOp_real h (plain _),
    fun h => regOp_real h (plain _), fun h => regOp_real h (plain _), fun h => regOp_real h (plain _),
    fun h => regOp_real h (by rw [Bool.or_assoc]), fun h => regOp_real h (by rw [Bool.or_assoc]), fun h => regOp_real h ?lim,
    fun h => regOp_real h (plain _)⟩
  case lim => simp only [List.any_cons, List.any_nil, Bool.or_false, Bool.or_assoc]; rfl

/-- REAL32 to an integer held in the range of k + 1 bits, with the ends for an infinity and 0 for a NaN. -/
theorem regOp_f2int {s : State} {i : Fin 8} {w : Nat} {d : Fin 16} {rs : List (Fin 16)} {f : Lane → Long × Bool} {k x : Nat} (h : Runs s i w)
    (hf : f s.m.lanes[i] = (BitVec.ofInt 64 (f2int (k + 1) x).1, (f2int (k + 1) x).2)) :
    regOp s i w d rs f = if fIsNan b32 x then advance s i 1 (s.m.lanes[i].wr d 0 (tagOf s.m.lanes[i] rs true))
      else if fIsInf b32 x then advance s i 1
        (s.m.lanes[i].wr d (BitVec.ofInt 64 (if fSign b32 x then -(2 : Int) ^ k else (2 : Int) ^ k - 1)) (tagOf s.m.lanes[i] rs true))
      else intResult (k + 1) s i s.m.lanes[i] d rs (fToInt b32 x) := by
  split
  case isTrue hnan =>
    rw [regOp_of_runs h, hf, f2int, if_pos hnan]
    rfl
  case isFalse hnan =>
    split
    case isTrue hinf =>
      rw [regOp_of_runs h, hf]
      simp only [f2int, if_neg hnan, if_pos hinf, Nat.add_sub_cancel, Nat.cast_pow, Nat.cast_ofNat]
    case isFalse hinf => exact regOp_saturate h (by rw [hf, f2int, if_neg hnan, if_neg hinf])

theorem sshiftRight_eq_ofInt_div (v : Long) (k : Nat) : v.sshiftRight k = BitVec.ofInt 64 (v.toInt / 2 ^ k) := by
  rw [BitVec.sshiftRight, Int.shiftRight_eq_div_pow, Nat.cast_pow, Nat.cast_ofNat]

/-- Settles O8, operation by operation. -/
theorem bluotConversionsAndBits : Obligations.BluotConversionsAndBits := by
  unfold Obligations.BluotConversionsAndBits
  intro s i d a b l v u
  simp only [exec_i2l, exec_l2i, exec_i2f, exec_l2f, exec_f2i, exec_f2l, exec_and64, exec_or64, exec_xor64, exec_notB, exec_inv64, exec_shl,
    exec_shr, exec_sar, execI2l, execL2i, execI2f, execL2f, execF2i, execF2l, execAnd64, execOr64, execXor64, execNotB, execInv64, execShl,
    execShr, execSar, convOp, bitOp, sshiftRight_eq_ofInt_div]
  refine ⟨fun h => regOp_plain h rfl, fun h => regOp_saturate h rfl, fun h => regOp_plain h rfl, fun h => regOp_plain h rfl,
    fun h => regOp_f2int h rfl, fun h => regOp_f2int h rfl, fun h => regOp_plain h rfl, fun h => regOp_plain h rfl, fun h => regOp_plain h rfl,
    fun h => regOp_plain h ?notB, fun h => regOp_plain h rfl, fun h => regOp_plain h rfl, fun h => regOp_plain h rfl,
    fun h => regOp_plain h rfl⟩
  case notB =>
    show (ofBoolL (!v.getLsbD 0), false) = _
    cases v.getLsbD 0 <;> rfl

theorem condInt_iff (c : Cond) (x y : Int) : condInt c x y = true ↔ match c with
    | .eq => x = y | .ne => ¬x = y | .lt => x < y | .le => x < y ∨ x = y | .gt => ¬(x < y ∨ x = y) | .ge => ¬x < y := by
  cases c
  case le => exact decide_eq_true_iff.trans Int.le_iff_lt_or_eq
  case gt => exact decide_eq_true_iff.trans (by rw [← Int.le_iff_lt_or_eq, Int.not_le])
  case ge => exact decide_eq_true_iff.trans Int.not_lt.symm
  all_goals exact decide_eq_true_iff

theorem condF32_of_nan (c : Cond) {x y : Nat} (h : (fIsNan b32 x || fIsNan b32 y) = true) : condF32 c x y = decide (c = .ne) := by
  have h' : (fIsNan b32 y || fIsNan b32 x) = true := by rwa [Bool.or_comm]
  cases c <;> simp only [condF32, fEq, fLt, fLe, h, h'] <;> rfl

/-- Settles O9, operation by operation. -/
theorem bluotComparisonSelectionQuality : Obligations.BluotComparisonSelectionQuality := by
  unfold Obligations.BluotComparisonSelectionQuality
  intro s i d a b c mask l holds
  simp only [exec_cmpI, exec_cmpL, exec_cmpF, exec_sel, exec_qld, exec_qtst, exec_qset, exec_qval, exec_qcpy,
    execCmpI, execCmpL, execCmpF, execSel, execQld, execQtst, execQset, execQval, execQcpy, ofBoolL_bne_zero, ofI32_natCast,
    BitVec.ofNat_toNat]
  refine ⟨fun h => ⟨_, condInt_iff c _ _, regOp_plain h rfl⟩, fun h => ⟨_, condInt_iff c _ _, regOp_plain h rfl⟩,
    fun h => ⟨regOp_of_runs h .., fun hnan => condF32_of_nan c hnan⟩, fun h => ?sel, fun h => laneOp_of_runs h _, fun h => laneOp_of_runs h _,
    fun h => laneOp_of_runs h _, fun h => laneOp_of_runs h _, fun h => laneOp_of_runs h _⟩
  case sel =>
    rw [laneOp_of_runs h]
    show advance s i 1 (l.wr d l.l[if l.l[d].getLsbD 0 then b else a] (tagOf l [d, if l.l[d].getLsbD 0 then b else a] false)) = plainResult ..
    split <;> rfl

end Sys2Proof.Machine

end

/-! PROOFS. The family 05_bluot_code.md: loads, stores and indexed accesses (O10). -/

section

namespace Sys2Proof.Machine

/-! ### Indexed accesses (R141) -/

section

variable (base cnt : Nat) {ix : Int}

theorem indexIn_below (h : ix < 0) : indexIn base cnt ix = (base, true) := if_pos (by omega)

theorem indexIn_above (h0 : ¬ix < 0) (h : (cnt : Int) ≤ ix) : indexIn base cnt ix = (base + cnt - 1, true) :=
  (if_neg fun hlt => h0 (by omega)).trans (if_pos (by omega))

theorem indexIn_inside (h : ¬(ix < 0 ∨ (cnt : Int) ≤ ix)) : indexIn base cnt ix = (base + ix.toNat, false) := by
  have hat : ((base : Int) + ix).toNat = base + ix.toNat := by omega
  rw [← hat]
  exact (if_neg (by omega)).trans (if_neg (by omega))

theorem indexIn_outside (h : ix < 0 ∨ (cnt : Int) ≤ ix) : (indexIn base cnt ix).2 = true := by
  by_cases h0 : ix < 0
  · rw [indexIn_below base cnt h0]
  · rw [indexIn_above base cnt h0 (h.resolve_left h0)]

end

/-- An indexed load: the element at the index, or the nearest end with RANGE. -/
theorem laneOp_indexed {s : State} {i : Fin 8} {w w2 : Nat} (h : Runs s i w (some w2)) (d : Fin 16) (base cnt : Nat) (ix : Int) (q : Tag)
    {f : Mod → Lane → Lane} {g : Nat → Long}
    (hf : f s.m s.m.lanes[i] = s.m.lanes[i].wr d (g (indexIn base cnt ix).1) (indexTag (indexIn base cnt ix).2 q)) :
    laneOp s i w (some w2) f =
      if ix < 0 then advance s i 2 (s.m.lanes[i].wr d (g base) (combine [qRange, q] false))
      else if (cnt : Int) ≤ ix then advance s i 2 (s.m.lanes[i].wr d (g (base + cnt - 1)) (combine [qRange, q] false))
      else advance s i 2 (s.m.lanes[i].wr d (g (base + ix.toNat)) (combine [1, q] false)) := by
  rw [laneOp_two_of_runs h, hf]
  split
  case isTrue hlo => rw [indexIn_below _ _ hlo]; rfl
  case isFalse hlo =>
    split
    case isTrue hhi => rw [indexIn_above _ _ hlo hhi]; rfl
    case isFalse hhi => rw [indexIn_inside _ _ (not_or.2 ⟨hlo, hhi⟩)]; rfl

theorem Mod.when_not (m : Mod) (c : Bool) (f : Mod → Mod) : m.when (!c) f = if c then m else f m := by cases c <;> rfl

theorem stpRec_eq (ty : Nat) (keepFail : Bool) (r : PRec) (v : Long) (q : Tag) :
    stpRec ty keepFail r v q = if r.qual &&& 0x0008#16 ≠ 0 then r
      else r.fresh (encodeVal ty v) (withValid ((q &&& 0x07F7#16) ||| (if keepFail then r.qual &&& 0x0020#16 else 0))) := by
  simp only [stpRec, isForced, bne_iff_ne]

/-- Settles O10, instruction by instruction: each load writes one register, each store one record or member. -/
theorem bluotLoadsStoresAndIndexing : Obligations.BluotLoadsStoresAndIndexing := by
  unfold Obligations.BluotLoadsStoresAndIndexing
  intro s i d a p imm w cnt n m k l rd ix
  simp only [exec_ldp, exec_stp, exec_ldage, exec_ldchg, exec_ldi, exec_ldix, exec_ldir, exec_ldk, exec_ldkx, exec_mov, exec_ldm, exec_stm,
    exec_ldmx, exec_stmx, exec_ldt, execLdp, execStp, execLdage, execLdchg, execLdi, execLdix, execLdir, execLdk, execLdkx, execMov, execLdm,
    execStm, execLdmx, execStmx, execLdt, ofI32_natCast, stpRec_eq]
  refine ⟨fun h => laneOp_of_runs h _, fun h => ?stp, fun h => laneOp_of_runs h _, fun h => laneOp_of_runs h _, fun h => laneOp_of_runs h _,
    fun h => laneOp_of_runs h _, fun h => laneOp_of_runs h _, fun h => laneOp_of_runs h _,
    fun h => laneOp_indexed h d p.toNat cnt.toNat ix l.q[a] (g := l.const s.m) rfl, fun h => laneOp_of_runs h _, fun h => laneOp_of_runs h _,
    fun h => laneOp_of_runs h _, fun h => laneOp_indexed h d m.toNat (k.toNat + 1) ix l.q[a] (g := fun e => rd (8 * e)) rfl, fun h => ?stmx,
    fun h => laneOp_of_runs h _⟩
  case stp =>
    rw [onMod_of_runs h, Mod.when_not]
  case stmx =>
    rw [laneOp_two_of_runs h]
    by_cases hout : ix < 0 ∨ (k.toNat : Int) + 1 ≤ ix
    · rw [if_pos hout]
      exact congrArg (advance s i 2) (if_pos (indexIn_outside _ _ hout))
    · rw [if_neg hout, indexIn_inside _ (k.toNat + 1) hout]
      rfl

end Sys2Proof.Machine

end

/-! PROOFS. The family 05_bluot_code.md: REPEAT bodies, branches and transfers (O13), and a task's end (O14). -/

section

namespace Sys2Proof.Machine

/-! ### Branches, REPEAT and the transfer steps (R133, R134, R143) -/

theorem tag_and_valid (q : Tag) : (q &&& qValid == 0) = !q.getLsbD 0 := by
  rw [qValid, BitVec.and_one_eq_setWidth_ofBool_getLsbD]
  cases q.getLsbD 0 <;> rfl

section

variable {m : Mod} {p : Nat} {pd : PointDef} (hpd : m.pointDef p = some pd) (copyB : Bool) (v : Long)
include hpd

theorem stagePoint_out {o : Nat} {o' : Fin 48} (hbind : pd.bind = .out o) (ho : o'.val = if copyB then o + 1 else o) :
    stagePoint m copyB p v = m.outMap o' (fun u => { u with staged := some (v.extractLsb' 0 32) }) := by
  obtain ⟨n, hn⟩ := o'
  obtain rfl : n = _ := ho
  simp only [stagePoint, hpd, Option.map_some, hbind, dif_pos hn]

theorem stagePoint_rout {q k : Nat} (hbind : pd.bind = .rout q k) :
    stagePoint m copyB p v = { m with exec := { m.exec with rstaged := mapPut p v m.exec.rstaged } } := by
  simp only [stagePoint, hpd, Option.map_some, hbind]

end

/-- Settles O13: what stands at its word acts, the branches by their bit, the transfer steps inside the lane's regions. -/
theorem bluotBranchesRepeatAndTransfer : Obligations.BluotBranchesRepeatAndTransfer := by
  unfold Obligations.BluotBranchesRepeatAndTransfer
  intro s i d off count body p l gone
  simp only [exec_nop, exec_br, exec_bt, exec_bf, exec_bnv, exec_repeat, exec_inx, exec_outx, execNop, execBr, execBt, execBf, execBnv,
    execRepeat, execInx, execOutx, tag_and_valid]
  refine ⟨fun h => laneOp_of_runs h _, fun h => branchOp_of_runs h .., fun h => branchOp_of_runs h .., fun h => ?bf, fun h => ?bnv,
    fun h => onMod_of_runs h _, fun h hread pd hpd => ?inx, fun h hwrite =>
      ⟨fun pd o o' hpd hbind ho => ?outxPhysical, fun pd q k hpd hbind => ?outxRemote⟩⟩
  case bf =>
    rw [branchOp_of_runs h]
    show Host.Outcome.next { s with m := putLane s.m i (if !(l.l[d]).getLsbD 0 then gone else l.past 1) } = _
    cases (l.l[d]).getLsbD 0 <;> rfl
  case bnv =>
    rw [branchOp_of_runs h]
    show Host.Outcome.next { s with m := putLane s.m i (if !(l.q[d]).getLsbD 0 then gone else l.past 1) } = _
    cases (l.q[d]).getLsbD 0 <;> rfl
  case inx =>
    rw [onMod_of_runs h, imageAddr, hread, hpd]
    rfl
  case outxPhysical =>
    rw [onMod_of_runs h, stagingAddr, hwrite, stagePoint_out hpd _ _ hbind ho]
    rfl
  case outxRemote =>
    rw [onMod_of_runs h, stagingAddr, hwrite, stagePoint_rout hpd _ _ hbind]
    rfl

/-! ### Past an instruction (R134) -/

/-- The bodies given decide, whatever bodies the lane holds. -/
theorem settle_rep (l : Lane) (x rs : List Rep) : settle { l with rep := x } rs = settle l rs := by
  induction rs with
  | nil => rfl
  | cons r rs ih => simp only [settle, ih]

theorem Lane.past_of_no_end {l : Lane} {n : Nat} (h : ∀ r rs, l.rep = r :: rs → r.stop ≠ l.pc + n) : l.past n = { l with pc := l.pc + n } := by
  unfold Lane.past
  cases hrep : l.rep with
  | nil => rw [settle, ← hrep]
  | cons r rs => rw [settle, if_neg (h r rs hrep).symm, ← hrep]

section

variable {l : Lane} {n : Nat} {r : Rep} {rs : List Rep} (hrep : l.rep = r :: rs) (hstop : r.stop = l.pc + n)
include hrep hstop

theorem Lane.past_next_iteration (h : r.iter + 1 < r.count) :
    l.past n = { l with pc := r.first, rep := { r with iter := r.iter + 1 } :: rs }.wr r.d (BitVec.ofNat 64 (r.iter + 1)) 1 := by
  rw [Lane.past, hrep, settle, if_pos hstop.symm, if_pos h, ofI32_natCast]
  rfl

theorem Lane.past_last_iteration (h : r.count ≤ r.iter + 1) : l.past n = { l with rep := rs }.past n := by
  rw [Lane.past, hrep, settle, if_pos hstop.symm, if_neg (Nat.not_lt.2 h)]
  exact (settle_rep { l with pc := l.pc + n, rep := r :: rs } rs rs).symm

end

/-! ### The end of a task (R124) -/

theorem getElem_memReadN (d : Byte) (m : List Host.Cell) (a n : Nat) {j : Nat} (h : j < (memReadN d m a n).length) :
    (memReadN d m a n)[j] = memRead d m (a + j) := by
  induction n generalizing a j with
  | zero => exact absurd h (Nat.not_lt_zero j)
  | succ n ih =>
    cases j with
    | zero => rfl
    | succ j => exact (ih (a + 1) (Nat.lt_of_succ_lt_succ h)).trans (congrArg (memRead d m) (by omega))

theorem Mod.tileBytes_putTile (m : Mod) (t : Nat) {bs : List Byte} (h : bs.length = 256) : (m.putTile t bs).tileBytes t = bs := by
  calc (m.putTile t bs).tileBytes t
      = memReadN 0 (memWriteN 0 m.mem.cells (t * 256) bs) (t * 256) bs.length := by rw [h]; rfl
    _ = bs := memReadN_memWriteN ..

/-- A whole tile written back where its directory entry is sound and a region permits it. -/
theorem writeBacks_singleton {m : Mod} {i : Fin 8} {t : Nat} (l : Lane) (hfaulted : (m.dirEnt t).faulted = false)
    (hsingle : (m.dirEnt t).single = false) (hdbl : (m.dirEnt t).dbl = false) (hok : m.regionOk i.val 2 (t * 256) = true) :
    writeBacks m i l [t] = (m.putTile t (memReadN 0 l.buf (l.entry t * 256) 256), true) := by
  simp only [writeBacks, Mod.masterStore, hok, Mod.writeBack, Mod.dirUse, Mod.dirFix, hsingle, hdbl, hfaulted, Mod.when, Bool.false_and,
    Bool.false_eq_true, if_true, if_false]

/-- Lane `i` has ended its list with task `td`, whose abandoned outputs may return. -/
def Mod.laneDone (m : Mod) (i : Fin 8) (td : TaskDef) : Mod :=
  { m with
    outs := m.outs.map (fun u => if u.abandon = some td.idx then { u with abandon := none } else u)
    lanes := m.lanes.set i { m.lanes[i] with task := none, todo := [], phase := .done } }

theorem endTask_of_writeBacks {m m' : Mod} {i : Fin 8} {td : TaskDef} (htask : m.lanes[i].task.bind m.taskDef = some td)
    (htodo : m.lanes[i].todo = []) (hw : writeBacks m i m.lanes[i] td.stores = (m', true)) : endTask m i = m'.laneDone i td := by
  simp only [endTask, htask, hw, htodo]
  rfl

theorem Mod.laneDone_cells (m : Mod) (i : Fin 8) (td : TaskDef) : (m.laneDone i td).mem.cells = m.mem.cells := rfl

theorem Mod.putTile_cells (m : Mod) (t : Nat) (bs : List Byte) : (m.putTile t bs).mem.cells = memWriteN 0 m.mem.cells (t * 256) bs := rfl

theorem Mod.laneDone_same (m : Mod) (i : Fin 8) (td : TaskDef) :
    (m.laneDone i td).lanes[i].phase = .done ∧ (m.laneDone i td).lanes[i].task = none := by
  simp [Mod.laneDone]

theorem Mod.laneDone_ne (m : Mod) (td : TaskDef) {i k : Fin 8} (h : k ≠ i) : (m.laneDone i td).lanes[k] = m.lanes[k] :=
  Vector.getElem_set_ne i.isLt k.isLt fun hik => h (Fin.ext hik.symm)

theorem Only.laneDone {ps : List Part} {m m' : Mod} (h : Only ps [] m m') (i : Fin 8) (td : TaskDef) (hlanes : .lanes ∈ ps) (houts : .outs ∈ ps) :
    Only ps [] m (m'.laneDone i td) :=
  (h.put_mem (m'' := { m' with outs := (m'.laneDone i td).outs }) .outs houts rfl).put_mem .lanes hlanes rfl

/-- END at its word ends the task, whose write-backs lead to `m'`. -/
theorem does_endTask {s : State} {i : Fin 8} {td : TaskDef} {m' : Mod} {P : Mod → Prop} (h : Runs s i (encN 0x01 0))
    (htask : s.m.lanes[i].task.bind s.m.taskDef = some td) (htodo : s.m.lanes[i].todo = [])
    (hw : writeBacks s.m i s.m.lanes[i] td.stores = (m', true)) (hP : P (m'.laneDone i td)) : Does (.endTask i) s P :=
  ⟨_, (exec_endTask i s).trans (onMod_of_runs h fun m => endTask m i), rfl, by rw [endTask_of_writeBacks htask htodo hw]; exact hP⟩

/-- Settles O14: a lane goes on by `settle`, and ends its task by its write-backs and an empty list. -/
theorem laneGoesOnRepeatsAndEndsTasks : Obligations.LaneGoesOnRepeatsAndEndsTasks := by
  unfold Obligations.LaneGoesOnRepeatsAndEndsTasks
  refine ⟨fun l n h => Lane.past_of_no_end h, fun l n r rs hrep hstop h => Lane.past_next_iteration hrep hstop h,
    fun l n r rs hrep hstop h => Lane.past_last_iteration hrep hstop h, fun m i l h => if_neg (Nat.not_le.2 h), ?writeBack, ?noTile,
    fun m i l h => if_pos h⟩
  case writeBack =>
    intro s i td t hcells _ hruns htask hstores htodo hfaulted hsingle hdbl hok
    have hw := writeBacks_singleton s.m.lanes[i] hfaulted hsingle hdbl hok
    have hlen := memReadN_length 0 s.m.lanes[i].buf (s.m.lanes[i].entry t * 256) 256
    generalize hbs : memReadN 0 s.m.lanes[i].buf (s.m.lanes[i].entry t * 256) 256 = bs at hw hlen
    rw [← hstores] at hw
    refine does_endTask hruns htask htodo hw ⟨fun j hj => ?_, fun a ha => ?_, ?_, (Mod.laneDone_same ..).1, (Mod.laneDone_same ..).2,
      fun k hk => Mod.laneDone_ne _ td hk, ?_⟩
    · rw [Mod.laneDone_cells, Mod.putTile_cells, memRead_memWriteN_in 0 bs (t * 256) j (by omega) hcells]
      subst hbs
      exact getElem_memReadN ..
    · rw [Mod.laneDone_cells, Mod.putTile_cells, memRead_memWriteN_out 0 bs _ (by omega)]
    · show ((s.m.putTile t bs).dirEnt t).crc = tileCrc t ((s.m.putTile t bs).tileBytes t)
      rw [Mod.dirEnt_putTile_same, Mod.tileBytes_putTile _ _ hlen]
    · exact ((Only.unchanged s.m).put_mem .mem (by decide) rfl).laneDone i td (by decide) (by decide)
  case noTile =>
    intro s i td hruns htask hstores htodo
    exact does_endTask hruns htask htodo (by rw [hstores]; rfl) ⟨(Mod.laneDone_same ..).1, (Mod.laneDone_same ..).2,
      fun k hk => Mod.laneDone_ne _ td hk, (Only.unchanged s.m).laneDone i td (by decide) (by decide)⟩

end Sys2Proof.Machine

end

/-! PROOFS. The family 05_bluot_code.md: the function blocks (O11, O12). -/

section

namespace Sys2Proof.Machine

/-! ### Numbers in the tile buffer and registers, after a write (R123, R124) -/

section

variable (l : Lane) (d : Fin 16) (v : Long) (q : Tag) (a n x : Nat)

@[simp] theorem Lane.wr_l_same : (l.wr d v q).l[d] = v := Vector.getElem_set_self _

@[simp] theorem Lane.wr_q_same : (l.wr d v q).q[d] = q &&& 0x07FF#16 := Vector.getElem_set_self _

theorem Lane.wr_l_ne {r : Fin 16} (h : r ≠ d) : (l.wr d v q).l[r] = l.l[r] := Vector.getElem_set_ne d.isLt r.isLt fun e => h (Fin.ext e.symm)

theorem Lane.wr_q_ne {r : Fin 16} (h : r ≠ d) : (l.wr d v q).q[r] = l.q[r] := Vector.getElem_set_ne d.isLt r.isLt fun e => h (Fin.ext e.symm)

@[simp] theorem Lane.wr_rdN : (l.wr d v q).rdN a n = l.rdN a n := rfl

theorem Lane.wrN_rdN_same (h : x < 256 ^ n) : (l.wrN a n x).rdN a n = x := by
  have hback := memReadN_memWriteN 0 l.buf a (leBytes n x)
  rw [leBytes_length] at hback
  rw [Lane.rdN, Lane.wrN, hback, ofLe_leBytes_of_lt h]

theorem Lane.wrN_memRead {j : Nat} (h : j < a ∨ a + n ≤ j) : memRead 0 (l.wrN a n x).buf j = memRead 0 l.buf j :=
  memRead_memWriteN_out 0 _ _ (by rwa [leBytes_length])

theorem Lane.wrN_rdN_apart {b k : Nat} (h : b + k ≤ a ∨ a + n ≤ b) : (l.wrN a n x).rdN b k = l.rdN b k := by
  rw [Lane.rdN, Lane.rdN, memReadN_congr fun j h1 h2 => l.wrN_memRead a n x (by omega)]

end

section

variable {l l' : Lane} {ds : List (Fin 16)} {a n : Nat}

theorem LaneFrame.refl (l : Lane) (ds : List (Fin 16)) (a n : Nat) : LaneFrame l l ds a n :=
  ⟨fun _ _ => ⟨rfl, rfl⟩, fun _ _ => rfl, rfl, rfl, rfl, rfl⟩

theorem LaneFrame.wrN (h : LaneFrame l l' ds a n) {b k : Nat} (x : Nat) (hlo : a ≤ b) (hhi : b + k ≤ a + n) :
    LaneFrame l (l'.wrN b k x) ds a n := by
  obtain ⟨hregs, hbuf, hplace⟩ := h
  exact ⟨hregs, fun j hj => (l'.wrN_memRead b k x (by omega)).trans (hbuf j hj), hplace⟩

theorem LaneFrame.wr (h : LaneFrame l l' ds a n) {d : Fin 16} (v : Long) (q : Tag) (hd : d ∈ ds) : LaneFrame l (l'.wr d v q) ds a n := by
  obtain ⟨hregs, hbuf, hplace⟩ := h
  refine ⟨fun r hr => ?_, hbuf, hplace⟩
  have hne : r ≠ d := fun e => hr (e ▸ hd)
  rw [Lane.wr_l_ne _ _ _ _ hne, Lane.wr_q_ne _ _ _ _ hne]
  exact hregs r hr

end

theorem reg_succ_ne (d : Fin 16) : d ≠ d + 1 := by
  revert d
  decide

/-- The STATE word in the order in which the statements sum it, and its size. -/
theorem blkState_eq (old : Nat) (q run mm lastv : Bool) :
    blkState old q run mm lastv = bits old 8 8 * 256 + 1 + 2 * b2n q + 4 * b2n run + 8 * b2n mm + 16 * b2n lastv := by
  simp only [blkState]
  omega

theorem blkState_lt (old : Nat) (q run mm lastv : Bool) : blkState old q run mm lastv < 256 ^ 4 := by
  have htype : bits old 8 8 < 2 ^ 8 := Nat.mod_lt _ (by decide)
  have hbit (b : Bool) : b2n b ≤ 1 := by cases b <;> decide
  have := hbit q
  have := hbit run
  have := hbit mm
  have := hbit lastv
  rw [blkState_eq]
  omega

/-! ### Timers (R136 to R138) -/

theorem presetMs_le (v : Long) : presetMs v ≤ 0xFFFFFFFF := by
  unfold presetMs
  split
  · exact Nat.zero_le _
  · exact Nat.min_le_right ..

/-- The lane after a timer call whose rule gave `o`: the block's 24 bytes and the two outputs (R136 to R138). -/
def Lane.timerLeft (l : Lane) (d : Fin 16) (a : Nat) (o : TimerOut) : Lane :=
  let tag := tagOf l [d, d + 1] (decide ((l.l[d + 1]).toInt < 0))
  let l' := (((l.wrN a 4 (blkState (l.rdN a 4) o.q o.run (asBool l.l[d]) true)).wrN (a + 4) 4 (presetMs l.l[d + 1])).wrN (a + 8) 8 o.et).wrN
    (a + 16) 8 l.freeze
  (l'.wr d (ofBoolL o.q) tag).wr (d + 1) (BitVec.ofNat 64 o.et) tag

theorem timerLeaves_timerLeft {l : Lane} (d : Fin 16) (a : Nat) {o : TimerOut} (hfreeze : l.freeze < 2 ^ 64) (het : o.et < 2 ^ 64) :
    TimerLeaves l (l.timerLeft d a o) d a o.q o.run o.et := by
  have hne := reg_succ_ne d
  have hpreset := presetMs_le l.l[d + 1]
  refine ⟨?_, Lane.wr_l_same .., ?_, Lane.wr_q_same .., ?_, ?_, ?_, ?_, ?_⟩
  · rw [Lane.timerLeft, Lane.wr_l_ne _ _ _ _ hne, Lane.wr_l_same, ofBoolL]
  · rw [Lane.timerLeft, Lane.wr_q_ne _ _ _ _ hne, Lane.wr_q_same]
  · rw [Lane.timerLeft, Lane.wr_rdN, Lane.wr_rdN, Lane.wrN_rdN_apart _ _ _ _ (by omega), Lane.wrN_rdN_apart _ _ _ _ (by omega),
      Lane.wrN_rdN_apart _ _ _ _ (by omega), Lane.wrN_rdN_same _ _ _ _ (blkState_lt ..), blkState_eq]
    rfl
  · rw [Lane.timerLeft, Lane.wr_rdN, Lane.wr_rdN, Lane.wrN_rdN_apart _ _ _ _ (by omega), Lane.wrN_rdN_apart _ _ _ _ (by omega),
      Lane.wrN_rdN_same _ _ _ _ (by omega)]
  · rw [Lane.timerLeft, Lane.wr_rdN, Lane.wr_rdN, Lane.wrN_rdN_apart _ _ _ _ (by omega), Lane.wrN_rdN_same _ _ _ _ (by omega)]
  · rw [Lane.timerLeft, Lane.wr_rdN, Lane.wr_rdN, Lane.wrN_rdN_same _ _ _ _ (by omega)]
  · exact ((((((LaneFrame.refl l _ a 24).wrN _ (by omega) (by omega)).wrN _ (by omega) (by omega)).wrN _ (by omega) (by omega)).wrN _
      (by omega) (by omega)).wr _ _ (by simp)).wr _ _ (by simp)

/-- What the rule of a timer call gives for the lane as it stands (R138, steps 1 to 3). -/
def timerResult (m : Mod) (l : Lane) (d : Fin 16) (n : BitVec 14) (rule : Bool → Bool → Bool → Bool → Bool → Nat → Nat → Nat → TimerOut) :
    TimerOut :=
  let a := instAddr m l n.toNat 0
  let st := l.rdN a 4
  let period := m.periodNs (((l.task.bind m.taskDef).map (fun t => t.cls)).getD 0)
  rule (bitAt st 0) (asBool l.l[d]) (bitAt st 3) (bitAt st 1) (bitAt st 2) (l.rdN (a + 8) 8)
    (timerDelta st (l.rdN (a + 16) 8) l.freeze period) (presetMs l.l[d + 1] * 1000000)

/-- A timer call at its word leaves what its rule gives, where the rule holds ET at the preset. -/
theorem timerOp_leaves {s : State} {i : Fin 8} {op : Nat} {d : Fin 16} {n : BitVec 14} (h : Runs s i (encF op d n))
    (hfreeze : s.m.lanes[i].freeze < 2 ^ 64) (rule : Bool → Bool → Bool → Bool → Bool → Nat → Nat → Nat → TimerOut)
    (hrule : ∀ init inp mm q run et dlt pt, (rule init inp mm q run et dlt pt).et ≤ pt) :
    ∃ l', timerOp s i op d n rule = advance s i 1 l' ∧
      ∀ o, timerResult s.m s.m.lanes[i] d n rule = o → TimerLeaves s.m.lanes[i] l' d (instAddr s.m s.m.lanes[i] n.toNat 0) o.q o.run o.et := by
  refine ⟨_, laneOp_of_runs h _, ?_⟩
  rintro _ rfl
  have hpreset := presetMs_le s.m.lanes[i].l[d + 1]
  have het : (timerResult s.m s.m.lanes[i] d n rule).et < 2 ^ 64 :=
    (hrule ..).trans_lt (show presetMs s.m.lanes[i].l[d + 1] * 1000000 < 2 ^ 64 by omega)
  exact timerLeaves_timerLeft d _ hfreeze het

section

variable {inp mm q run : Bool} {et dlt pt : Nat}

theorem tonRule_et_le : (tonRule inp q run et dlt pt).et ≤ pt := by
  unfold tonRule
  split_ifs <;> simp

theorem tofRule_et_le : (tofRule inp q run et dlt pt).et ≤ pt := by
  unfold tofRule
  dsimp only
  split_ifs <;> simp

theorem tpRule_et_le : (tpRule inp mm q run et dlt pt).et ≤ pt := by
  unfold tpRule
  dsimp only
  split_ifs <;> simp

/-! The rows of R138's table. -/

theorem tonRule_off (hin : inp = false) : tonRule inp q run et dlt pt = ⟨false, false, 0⟩ := by
  subst hin
  rfl

theorem tonRule_start (hin : inp = true) (hq : q = false) (hrun : run = false) : tonRule inp q run et dlt pt = ⟨decide (pt = 0), true, 0⟩ := by
  subst hin hq hrun
  rfl

theorem tonRule_running (hin : inp = true) (hq : q = false) (hrun : run = true) :
    tonRule inp q run et dlt pt = ⟨decide (pt ≤ min (et + dlt) pt), decide (min (et + dlt) pt < pt), min (et + dlt) pt⟩ := by
  subst hin hq hrun
  simp only [tonRule, ← decide_not, Nat.not_le]
  rfl

theorem tonRule_on (hin : inp = true) (hq : q = true) : tonRule inp q run et dlt pt = ⟨true, run, pt⟩ := by
  subst hin hq
  rfl

theorem tofRule_on (hin : inp = true) : tofRule inp q run et dlt pt = ⟨true, false, 0⟩ := by
  subst hin
  rfl

/-- Both timers that run on to the end of their preset do so in one way. -/
theorem timer_running (q : Bool) (e pt : Nat) :
    (if pt ≤ e then ⟨false, false, e⟩ else ⟨q, true, e⟩ : TimerOut) = ⟨if pt ≤ e then false else q, decide (e < pt), e⟩ := by
  by_cases h : pt ≤ e
  · rw [if_pos h, if_pos h, decide_eq_false (Nat.not_lt.2 h)]
  · rw [if_neg h, if_neg h, decide_eq_true (Nat.not_le.1 h)]

/-- Both timers that start at an edge do so in one way. -/
theorem timer_start (pt : Nat) : (if pt = 0 then ⟨false, false, 0⟩ else ⟨true, true, 0⟩ : TimerOut) = ⟨decide (pt ≠ 0), decide (pt ≠ 0), 0⟩ := by
  by_cases h : pt = 0 <;> simp [h]

theorem tofRule_running (hin : inp = false) (hrun : run = true) : tofRule inp q run et dlt pt =
    ⟨if pt ≤ min (et + dlt) pt then false else q, decide (min (et + dlt) pt < pt), min (et + dlt) pt⟩ := by
  subst hin hrun
  exact timer_running ..

theorem tofRule_start (hin : inp = false) (hrun : run = false) (hq : q = true) :
    tofRule inp q run et dlt pt = ⟨decide (pt ≠ 0), decide (pt ≠ 0), 0⟩ := by
  subst hin hrun hq
  exact timer_start pt

theorem tofRule_off (hin : inp = false) (hrun : run = false) (hq : q = false) : tofRule inp q run et dlt pt = ⟨false, false, min et pt⟩ := by
  subst hin hrun hq
  rfl

theorem tpRule_running (hrun : run = true) : tpRule inp mm q run et dlt pt =
    ⟨if pt ≤ min (et + dlt) pt then false else q, decide (min (et + dlt) pt < pt), min (et + dlt) pt⟩ := by
  subst hrun
  exact timer_running ..

theorem tpRule_start (hrun : run = false) (hin : inp = true) (hmm : mm = false) (hq : q = false) :
    tpRule inp mm q run et dlt pt = ⟨decide (pt ≠ 0), decide (pt ≠ 0), 0⟩ := by
  subst hrun hin hmm hq
  exact timer_start pt

theorem tpRule_off (hrun : run = false) (hin : inp = false) : tpRule inp mm q run et dlt pt = ⟨q, false, 0⟩ := by
  subst hrun hin
  rfl

theorem tpRule_held (hrun : run = false) (hin : inp = true) (h : mm = true ∨ q = true) :
    tpRule inp mm q run et dlt pt = ⟨q, false, min et pt⟩ := by
  subst hrun hin
  obtain rfl | rfl := h
  · rfl
  · cases mm <;> rfl

end

/-- Settles O11, row by row of the timer table. -/
theorem bluotTimersFollowTheirTable : Obligations.BluotTimersFollowTheirTable := by
  unfold Obligations.BluotTimersFollowTheirTable
  intro s i d n l a st inp P et last period delta sum init q run mm _ _ hfreeze
  simp only [exec_ton, exec_tof, exec_tp, execTon, execTof, execTp]
  refine ⟨fun h => ?ton, fun h => ?tof, fun h => ?tp⟩
  case ton =>
    obtain ⟨l', hexec, hleaves⟩ := timerOp_leaves h hfreeze (fun _ inp _ q run et dlt pt => tonRule inp q run et dlt pt)
      fun _ _ _ _ _ _ _ _ => tonRule_et_le
    exact ⟨l', hexec, fun hin => hleaves _ (tonRule_off hin), fun hin hq hrun => hleaves _ (tonRule_start hin hq hrun),
      fun hin hq hrun => hleaves _ (tonRule_running hin hq hrun), fun hin hq => hleaves _ (tonRule_on hin hq)⟩
  case tof =>
    obtain ⟨l', hexec, hleaves⟩ := timerOp_leaves h hfreeze (fun _ inp _ q run et dlt pt => tofRule inp q run et dlt pt)
      fun _ _ _ _ _ _ _ _ => tofRule_et_le
    exact ⟨l', hexec, fun hin => hleaves _ (tofRule_on hin), fun hin hrun => hleaves _ (tofRule_running hin hrun),
      fun hin hrun hq => hleaves _ (tofRule_start hin hrun hq), fun hin hrun hq => hleaves _ (tofRule_off hin hrun hq)⟩
  case tp =>
    obtain ⟨l', hexec, hleaves⟩ := timerOp_leaves h hfreeze
      (fun init inp mm q run et dlt pt => tpRule inp (if init then mm else inp) q run et dlt pt) fun _ _ _ _ _ _ _ _ => tpRule_et_le
    exact ⟨l', hexec, fun hrun => hleaves _ (tpRule_running hrun), fun hrun hin hmm hq => hleaves _ (tpRule_start hrun hin hmm hq),
      fun hrun hin => hleaves _ (tpRule_off hrun hin), fun hrun hin hm => hleaves _ (tpRule_held hrun hin hm)⟩

/-! ### Counters, edge detectors and bistables (R136, R137, R139) -/

/-- The block's bytes and Q after a call of a counter, an edge detector or a bistable on the inputs `rs` (R136, R139). -/
def Lane.blockLeft (l : Lane) (d : Fin 16) (rs : List (Fin 16)) (a : Nat) (q mem : Bool) (w : Nat) : Lane :=
  ((l.wrN a 4 (blkState (l.rdN a 4) q false mem false)).wrN (a + 4) 4 w).wr d (ofBoolL q) (tagOf l rs false)

section

variable (l : Lane) (d : Fin 16) (rs : List (Fin 16)) (a : Nat) (q mem : Bool) {w : Nat}

theorem Lane.blockLeft_state : (l.blockLeft d rs a q mem w).rdN a 4 = bits (l.rdN a 4) 8 8 * 256 + 1 + 2 * b2n q + 8 * b2n mem := by
  rw [Lane.blockLeft, Lane.wr_rdN, Lane.wrN_rdN_apart _ _ _ _ (by omega), Lane.wrN_rdN_same _ _ _ _ (blkState_lt ..), blkState_eq,
    show b2n false = 0 from rfl, Nat.mul_zero, Nat.add_zero, Nat.add_zero]

theorem Lane.blockLeft_word (hw : w < 2 ^ 32) : (l.blockLeft d rs a q mem w).rdN (a + 4) 4 = w := by
  rw [Lane.blockLeft, Lane.wr_rdN, Lane.wrN_rdN_same _ _ _ _ hw]

end

theorem Lane.blockLeft_output (l : Lane) (d : Fin 16) (rs : List (Fin 16)) (a : Nat) (q mem : Bool) (w : Nat) :
    (l.blockLeft d rs a q mem w).l[d] = (if q then 1 else 0) ∧ (l.blockLeft d rs a q mem w).q[d] = tagOf l rs false &&& 0x07FF#16 := by
  rw [Lane.blockLeft, Lane.wr_l_same, Lane.wr_q_same]
  exact ⟨rfl, rfl⟩

theorem Lane.blockLeft_frame (l : Lane) {d : Fin 16} {ds : List (Fin 16)} (rs : List (Fin 16)) (a : Nat) (q mem : Bool) (w : Nat) (hd : d ∈ ds) :
    LaneFrame l (l.blockLeft d rs a q mem w) ds a 8 := by
  rw [Lane.blockLeft]
  exact (((LaneFrame.refl l _ a 8).wrN _ (by omega) (by omega)).wrN _ (by omega) (by omega)).wr _ _ hd

/-- A block without a count: Q and the block's bytes. -/
theorem blockLeaves_blockLeft (l : Lane) (d : Fin 16) (rs : List (Fin 16)) (a : Nat) (q mem : Bool) {w : Nat} (hw : w < 2 ^ 32) :
    BlockLeaves l (l.blockLeft d rs a q mem w) d rs a q mem w none := by
  obtain ⟨hout, htag⟩ := l.blockLeft_output d rs a q mem w
  exact ⟨hout, htag, fun v h => absurd h (Option.some_ne_none v).symm, l.blockLeft_state d rs a q mem, l.blockLeft_word d rs a q mem hw,
    l.blockLeft_frame rs a q mem w (by simp)⟩

/-- A counter: Q, CV and the block's bytes. -/
theorem blockLeaves_counter (l : Lane) (d : Fin 16) (rs : List (Fin 16)) (a : Nat) (q mem : Bool) {w : Nat} (hw : w < 2 ^ 32) (cv : Int) :
    BlockLeaves l ((l.blockLeft d rs a q mem w).wr (d + 1) (ofI32 cv) (tagOf l rs false)) d rs a q mem w (some cv) := by
  have hne := reg_succ_ne d
  obtain ⟨hout, htag⟩ := l.blockLeft_output d rs a q mem w
  refine ⟨?_, ?_, ?_, ?_, ?_, (l.blockLeft_frame rs a q mem w (by simp)).wr _ _ (by simp)⟩
  · exact (Lane.wr_l_ne _ _ _ _ hne).trans hout
  · exact (Lane.wr_q_ne _ _ _ _ hne).trans htag
  · rintro _ ⟨⟩
    exact ⟨Lane.wr_l_same .., Lane.wr_q_same ..⟩
  · rw [Lane.wr_rdN, l.blockLeft_state d rs a q mem]
  · rw [Lane.wr_rdN, l.blockLeft_word d rs a q mem hw]

theorem ofInt_lt (n : Nat) (v : Int) : ofInt n v < 2 ^ n := by
  have hpos : (0 : Int) < (2 ^ n : Nat) := by positivity
  have := Int.emod_lt_of_pos v hpos
  have := Int.emod_nonneg v hpos.ne'
  unfold ofInt
  omega

section

variable {s : State} {i : Fin 8} {op : Nat} {d : Fin 16} {n : BitVec 14} (h : Runs s i (encF op d n))
include h

theorem counterOp_leaves (rule : Bool → Bool → Int → Int → Int) (out : Int → Int → Bool) :
    let l := s.m.lanes[i]
    let a := instAddr s.m l n.toNat 0
    let x := asBool l.l[d]
    let edge := x && !(if bitAt (l.rdN a 4) 0 then bitAt (l.rdN a 4) 3 else x)
    let c := rule (asBool l.l[d + 1]) edge (toInt 32 (l.rdN (a + 4) 4)) (asI32 l.l[d + 2])
    ∃ l', counterOp s i op d n rule out = advance s i 1 l' ∧
      BlockLeaves l l' d [d, d + 1, d + 2] a (out c (asI32 l.l[d + 2])) x (ofInt 32 c) (some c) :=
  ⟨_, laneOp_of_runs h _, blockLeaves_counter s.m.lanes[i] d [d, d + 1, d + 2] _ (out _ _) _ (ofInt_lt 32 _) _⟩

theorem edgeOp_leaves (rule : Bool → Bool → Bool) :
    let l := s.m.lanes[i]
    let a := instAddr s.m l n.toNat 0
    let x := asBool l.l[d]
    ∃ l', edgeOp s i op d n rule = advance s i 1 l' ∧
      BlockLeaves l l' d [d] a (rule x (if bitAt (l.rdN a 4) 0 then bitAt (l.rdN a 4) 3 else x)) x 0 none :=
  ⟨_, laneOp_of_runs h _, blockLeaves_blockLeft s.m.lanes[i] d [d] _ (rule _ _) _ (by decide)⟩

theorem bistableOp_leaves (rule : Bool → Bool → Bool → Bool) :
    let l := s.m.lanes[i]
    let a := instAddr s.m l n.toNat 0
    ∃ l', bistableOp s i op d n rule = advance s i 1 l' ∧
      BlockLeaves l l' d [d, d + 1] a (rule (asBool l.l[d]) (asBool l.l[d + 1]) (bitAt (l.rdN a 4) 1)) false 0 none :=
  ⟨_, laneOp_of_runs h _, blockLeaves_blockLeft s.m.lanes[i] d [d, d + 1] _ (rule _ _ _) _ (by decide)⟩

end

/-- Settles O12, block by block. -/
theorem bluotCountersEdgesBistables : Obligations.BluotCountersEdgesBistables := by
  unfold Obligations.BluotCountersEdgesBistables
  intro s i d n l a st x y edge cv pv _
  simp only [exec_ctu, exec_ctd, exec_rTrig, exec_fTrig, exec_srBlk, exec_rsBlk, execCtu, execCtd, execRTrig, execFTrig, execSrBlk, execRsBlk]
  exact ⟨fun _ h => counterOp_leaves h .., fun _ h => counterOp_leaves h .., fun h => edgeOp_leaves h _, fun h => edgeOp_leaves h _,
    fun _ h => bistableOp_leaves h _, fun _ h => bistableOp_leaves h _⟩

end Sys2Proof.Machine

end

/-! PROOFS. The family 05_bluot_code.md: the bit instructions (O15, O16). -/

section

namespace Sys2Proof.Machine

/-! ### The bit machine at its word (R144, R145) -/

theorem bitStepOp_of_bitRuns {s : State} {w : Nat} (h : BitRuns s w) (f : BitSt → BitSt) : bitStepOp s w f = bitNext s (f s.m.bit) := by
  obtain ⟨hbit, hcycle, hword⟩ := h
  have hcur : s.m.bit.cur = some w := hword
  exact congrArg Host.Outcome.next (congrArg (fun m => { s with m := m }) (if_pos (by simp [hbit, hcycle, hcur])))

theorem BitSt.popOp_cons (f : Bool → Bool → Bool) {b : BitSt} {x : Bool} {st : List Bool} (h : b.stack = x :: st) :
    b.popOp f = { b with pc := b.pc + 1, stack := st, acc := f x b.acc } := by
  simp only [BitSt.popOp, h]
  rfl

theorem BitSt.jumpOp_eq (c : Bool → Bool) (off : Nat) (b : BitSt) :
    b.jumpOp c off = { b with pc := b.pc + 1 + (if c b.acc then off else 0) } := by
  unfold BitSt.jumpOp
  cases c b.acc <;> rfl

/-- Settles O15, instruction by instruction. -/
theorem bitLogicFollowsItsTable : Obligations.BitLogicFollowsItsTable := by
  unfold Obligations.BitLogicFollowsItsTable
  intro s area n off x st b v
  simp only [exec_bitNop, exec_bitLd, exec_bitLdn, exec_bitAnd, exec_bitAndn, exec_bitOr, exec_bitOrn, exec_bitXor, exec_bitPush, exec_bitPopand,
    exec_bitPopor, exec_bitPop, exec_bitNota, exec_bitJc, exec_bitJnc, exec_bitJmp, execBitNop, execBitLd, execBitLdn, execBitAnd, execBitAndn,
    execBitOr, execBitOrn, execBitXor, execBitPush, execBitPopand, execBitPopor, execBitPop, execBitNota, execBitJc, execBitJnc, execBitJmp]
  refine ⟨fun h => bitStepOp_of_bitRuns h _, fun h => bitStepOp_of_bitRuns h _, fun h => bitStepOp_of_bitRuns h _,
    fun h => bitStepOp_of_bitRuns h _, fun h => bitStepOp_of_bitRuns h _, fun h => bitStepOp_of_bitRuns h _, fun h => bitStepOp_of_bitRuns h _,
    fun h => ?xor, fun h => bitStepOp_of_bitRuns h _, fun h hst => ?popand, fun h hst => ?popor, fun h hst => ?pop,
    fun h => bitStepOp_of_bitRuns h _, fun h => ?jc, fun h => ?jnc, fun h => ?jmp⟩
  case xor =>
    rw [bitStepOp_of_bitRuns h, BitSt.accOp, Bool.bne_eq_xor]
    rfl
  case popand => rw [bitStepOp_of_bitRuns h, BitSt.popOp_cons _ hst]
  case popor => rw [bitStepOp_of_bitRuns h, BitSt.popOp_cons _ hst]
  case pop => rw [bitStepOp_of_bitRuns h, BitSt.popOp_cons _ hst]
  case jc => rw [bitStepOp_of_bitRuns h, BitSt.jumpOp_eq]
  case jnc =>
    rw [bitStepOp_of_bitRuns h, BitSt.jumpOp_eq]
    show bitNext s { b with pc := b.pc + 1 + (if !b.acc then off.toNat else 0) } = _
    cases b.acc <;> rfl
  case jmp =>
    rw [bitStepOp_of_bitRuns h, BitSt.jumpOp_eq]
    rfl

/-! ### Stores of one bit (R144, R145) -/

theorem getLsbD_bvSet {w : Nat} (v : BitVec w) (n : Nat) (x : Bool) {k : Nat} (hk : k < w) :
    (bvSet v n x).getLsbD k = if k = n then x else v.getLsbD k := by
  have hone : (BitVec.ofNat w (2 ^ n)).getLsbD k = decide (k = n) := by
    rw [BitVec.getLsbD_ofNat, decide_eq_true hk, Bool.true_and, Nat.testBit_two_pow]
    exact decide_eq_decide.2 eq_comm
  unfold bvSet
  cases x
  · rw [if_neg Bool.false_ne_true, BitVec.getLsbD_and, BitVec.getLsbD_not, hone, decide_eq_true hk]
    by_cases h : k = n <;> simp [h]
  · rw [if_pos rfl, BitVec.getLsbD_or, hone]
    by_cases h : k = n <;> simp [h]

/-- The areas that a store may write: DO, SO and the flags. -/
abbrev WritableArea (area : Nat) : Prop := area = 1 ∨ area = 3 ∨ area = 4

theorem BitSt.write_of_not_writable (b : BitSt) {area : Nat} (n : Nat) (x : Bool) (h : ¬WritableArea area) : b.write area n x = b := by
  unfold BitSt.write
  split
  case h_4 => rfl
  all_goals simp [WritableArea] at h

theorem BitSt.read_write_ne (b : BitSt) {area a : Nat} (n k : Nat) (x : Bool) (h : a ≠ area) : (b.write area n x).read a k = b.read a k := by
  unfold BitSt.write
  split
  case h_4 => rfl
  all_goals
    unfold BitSt.read
    split
    all_goals simp_all

theorem BitSt.read_write_self (b : BitSt) {area : Nat} (n : Nat) {k : Nat} (x : Bool) (h : WritableArea area) (hk : k < areaBits area) :
    (b.write area n x).read area k = if k = n then x else b.read area k := by
  obtain rfl | rfl | rfl := h
  all_goals exact getLsbD_bvSet _ _ _ hk

theorem BitSt.bitStored_write (b : BitSt) (area n : Nat) (x : Bool) : BitStored b (b.write area n x).next area n x := by
  constructor
  · unfold BitSt.write
    split <;> rfl
  · intro a k hk
    show (b.write area n x).read a k = _
    by_cases ha : a = area
    · subst ha
      by_cases hw : WritableArea a
      · simp [b.read_write_self n x hw hk, hw]
      · rw [b.write_of_not_writable n x hw, if_neg fun h => hw h.2.2]
    · rw [b.read_write_ne n k x ha, if_neg fun h => ha h.1]

theorem BitSt.stored_latchOp (b : BitSt) (area n : Nat) (x : Bool) :
    if b.acc then BitStored b (b.latchOp x area n) area n x else b.latchOp x area n = { b with pc := b.pc + 1 } := by
  unfold BitSt.latchOp
  split
  · exact b.bitStored_write area n x
  · rfl

/-- Settles O16: a store writes its bit and goes on to the next word. -/
theorem bitStoresWriteTheirBit : Obligations.BitStoresWriteTheirBit := by
  unfold Obligations.BitStoresWriteTheirBit
  intro s area n b
  simp only [exec_bitSt, exec_bitStn, exec_bitSet, exec_bitRst, execBitSt, execBitStn, execBitSet, execBitRst]
  refine ⟨fun h => ⟨_, bitStepOp_of_bitRuns h _, ?st⟩, fun h => ⟨_, bitStepOp_of_bitRuns h _, ?stn⟩,
    fun h => ⟨_, bitStepOp_of_bitRuns h _, b.stored_latchOp area.toNat n.toNat true⟩,
    fun h => ⟨_, bitStepOp_of_bitRuns h _, b.stored_latchOp area.toNat n.toNat false⟩⟩
  case st =>
    rw [BitSt.stOp, Bool.bne_false]
    exact b.bitStored_write ..
  case stn =>
    rw [BitSt.stOp, Bool.bne_true]
    exact b.bitStored_write ..

end Sys2Proof.Machine

end

/-! PROOFS. The family 06_building_time_and_launch.md: the step of the block (O1), changes of sync state and steps of building time (O24). -/

section

namespace Sys2Proof.Machine

/-- Settles O1: the definition of a step, by what waits. -/
theorem stepRunsFrontCommand : Obligations.StepRunsFrontCommand := by
  unfold Obligations.StepRunsFrontCommand
  refine ⟨fun c s rest h => ?_, fun s h => ?_⟩
  · rw [step, h]
  · rw [step, h]

/-! ### Fields after a record, a counter and a conditional change -/

theorem Mod.get_addSat_self (m : Mod) {f : Fld} (k : Nat) (hf : f.lo + f.width ≤ 32) : (m.addSat f k).get f = satNat f.width (m.get f + k) := by
  rw [Mod.addSat, Mod.get_set_self _ _ hf, Nat.mod_eq_of_lt (satNat_lt ..)]

theorem Mod.get_log_apart (m : Mod) (e : Ev) (src : Nat) (data : List Byte) {f : Fld} (h : Apart F.LOG_STATUS_WAB_FULL f) :
    (m.log e src data).get f = m.get f := (Only.log ..).get (by simpa using h)

@[simp] theorem Mod.clk_log (m : Mod) (e : Ev) (src : Nat) (data : List Byte) : (m.log e src data).clk = m.clk := rfl

theorem Mod.clk_when (m : Mod) (c : Bool) (f : Mod → Mod) : (m.when c f).clk = if c then (f m).clk else m.clk := by cases c <;> rfl

/-! ### Changes of sync state (R157, R158, R525) -/

/-- The fields that a change of sync state changes. -/
def syncRegs : List Fld := [F.TIME_STATUS_STATE, F.TIME_STATUS_SOURCE, F.LOG_STATUS_WAB_FULL]

section

variable (m : Mod) (new code : Nat)

/-- The registers of a change of sync state. -/
def Mod.syncShown : Mod := (m.set F.TIME_STATUS_SOURCE (if new = syFree then 0 else code)).set F.TIME_STATUS_STATE new

theorem Only.setSync_syncShown : Only [.clk, .logs] [F.LOG_STATUS_WAB_FULL] (m.syncShown new code) (m.setSync new code) :=
  (Only.when ((Only.unchanged _).put_mem .clk (by decide) rfl)).trans
    (Only.when (((Only.unchanged _).put_mem .clk (by decide) rfl).trans ((Only.log ..).weaken (by decide) (List.Subset.refl _))))

theorem Only.setSync : Only [.clk, .logs] syncRegs m (m.setSync new code) :=
  (((Only.unchanged m).set_mem _ (by decide)).set_mem _ (by decide)).trans
    ((Only.setSync_syncShown m new code).weaken (List.Subset.refl _) (by decide))

theorem Mod.state_setSync (h : new < 8) : (m.setSync new code).get F.TIME_STATUS_STATE = new := by
  rw [(Only.setSync_syncShown m new code).get (by decide), Mod.syncShown, Mod.get_set_self _ _ (by decide)]
  exact Nat.mod_eq_of_lt h

theorem Mod.source_setSync_free : (m.setSync syFree code).get F.TIME_STATUS_SOURCE = 0 := by
  rw [(Only.setSync_syncShown m syFree code).get (by decide), Mod.syncShown, Mod.get_set_apart _ _ (by decide), Mod.get_set_self _ _ (by decide)]
  rfl

/-- What a change of sync state leaves of the time unit. -/
theorem Mod.clk_setSync : (m.setSync new code).clk =
    let c := if new = syFree then { m.clk with everQual := false, selected := none } else m.clk
    if m.get F.TIME_STATUS_STATE = new then c
    else { c with prevState := m.get F.TIME_STATUS_STATE, holdEntry := if new = syHold then m.clk.ns else m.clk.holdEntry, beyond := 0 } := by
  unfold Mod.setSync
  by_cases hfree : new = syFree <;> by_cases hsame : m.get F.TIME_STATUS_STATE = new <;> simp [Mod.clk_when, hfree, hsame]

theorem logs_setSync (h : m.get F.TIME_STATUS_STATE ≠ new) :
    Logs m (m.setSync new code) .syncState 0 (leBytes 1 (m.get F.TIME_STATUS_STATE) ++ leBytes 1 new) := by
  have hne : decide (m.get F.TIME_STATUS_STATE ≠ new) = true := decide_eq_true h
  unfold Mod.setSync
  dsimp only [Logs]
  rw [hne]
  cases decide (new = syFree) <;> exact logs_log_congr rfl rfl ..

end

/-! ### Steps of building time (R156) -/

theorem Only.applyStep (m : Mod) (o : Int) :
    Only [.clk, .met, .logs] [F.TIME_STATUS_STEP_PENDING, F.TIME_EVENTS_STEPS, F.LOG_STATUS_WAB_FULL] m (m.applyStep o) := by
  refine Only.trans ?_ ((Only.log ..).weaken (by decide) (by decide))
  unfold Mod.addSat
  iterate 2 refine Only.set_mem ?_ _ (by decide)
  exact ((Only.unchanged m).put_mem (m'' := { m with clk := (m.applyStep o).clk }) .clk (by decide) rfl).put_mem .met (by decide) rfl

/-- Building time is a count of 2^-32 ns to which an offset in units of 1/32 ns is added. -/
theorem Mod.clk_applyStep (m : Mod) (o : Int) : (m.applyStep o).clk =
    let x : Int := ((m.clk.ns * 2 ^ 32 + m.clk.frac : Nat) : Int) + o * 2 ^ 27
    { m.clk with ns := ofInt 64 (x / 2 ^ 32), frac := (x % 2 ^ 32).toNat, stepPending := none } := rfl

theorem logs_applyStep (m : Mod) (o : Int) : Logs m (m.applyStep o) .timeStep 0 (leBytes 8 (ofInt 64 (o / 32))) :=
  logs_log_congr rfl rfl ..

theorem Mod.stepPending_applyStep (m : Mod) (o : Int) : (m.applyStep o).flag F.TIME_STATUS_STEP_PENDING = false := by
  rw [Mod.flag, Mod.applyStep, Mod.get_log_apart _ _ _ _ (by decide), Mod.addSat, Mod.get_set_apart _ _ (by decide),
    Mod.get_set_self _ _ (by decide)]
  rfl

theorem Mod.steps_applyStep (m : Mod) (o : Int) :
    (m.applyStep o).get F.TIME_EVENTS_STEPS = satNat F.TIME_EVENTS_STEPS.width (m.get F.TIME_EVENTS_STEPS + 1) := by
  rw [Mod.applyStep, Mod.get_log_apart _ _ _ _ (by decide), Mod.get_addSat_self _ _ (by decide), Mod.get_set_apart _ _ (by decide)]
  rfl

theorem Only.rearm (m : Mod) (sec : Nat) : Only [.plan] [F.PLAN_SWAP_SEC_SEC] m (m.rearm sec) := by
  unfold Mod.rearm
  split
  · split
    · exact ((Only.of_put (p := .plan) rfl).weaken (List.Subset.refl _) (List.nil_subset _)).set_mem _ (by decide)
    · exact Only.unchanged m
  · exact Only.unchanged m

theorem Mod.clk_rearm (m : Mod) (sec : Nat) : (m.rearm sec).clk = m.clk := (Only.rearm m sec).part .clk (by decide)

theorem Mod.met_rearm (m : Mod) (sec : Nat) : (m.rearm sec).met = m.met := (Only.rearm m sec).part .met (by decide)

theorem Mod.logs_rearm (m : Mod) (sec : Nat) : (m.rearm sec).logs = m.logs := (Only.rearm m sec).part .logs (by decide)

/-- A swap armed for a second up to `sec` is armed for the one after it (log entry 123). -/
theorem Mod.plan_rearm (m : Mod) (sec : Nat) :
    (m.rearm sec).plan = { m.plan with armed := m.plan.armed.map fun a => if a ≤ sec then sec + 1 else a } := by
  unfold Mod.rearm
  cases harmed : m.plan.armed with
  | none =>
    show m.plan = { m.plan with armed := none }
    rw [← harmed]
  | some a =>
    by_cases ha : a ≤ sec
    · simp [ha]
    · simp only [Option.map_some, if_neg ha]
      rw [← harmed]

/-! ### The estimate of a HOLDOVER (R159) -/

theorem Mod.holdOver_reach {m : Mod} (t : Nat) (hst : m.get F.TIME_STATUS_STATE = syHold) : (m.reach t).holdOver =
    decide (max 1 (m.get F.TIME_CFG_HOLD_ERR) * 10 ^ 12 < 20 * 10 ^ 9 + 100 * (t - m.clk.holdEntry)) := by
  have hheld : (m.reach t).heldNs = t - m.clk.holdEntry := if_pos hst
  rw [Mod.holdOver, hheld]
  rfl

/-! ### O24 -/

/-- The Drum stands still until a second. -/
def Mod.drumPaused (m : Mod) (sec : Nat) : Mod := { m with fired := (0, 0), clk := { m.clk with pausedUntil := some sec } }

/-- The module after a step at building time `t`, the Drum standing still until a second. -/
def Mod.stepTaken (m : Mod) (t : Nat) (o : Int) (sec : Nat) : Mod := (((m.reach t).applyStep o).drumPaused sec).rearm sec

section

variable (m : Mod) (t : Nat) (o : Int) (sec : Nat)

theorem Only.reach : Only [.clk] [] m (m.reach t) := Only.of_put rfl

theorem Only.drumPaused : Only [.clk, .fired] [] m (m.drumPaused sec) :=
  ((Only.unchanged m).put_mem (m'' := { m with clk := (m.drumPaused sec).clk }) .clk (by decide) rfl).put_mem .fired (by decide) rfl

theorem Only.stepTaken : Only [.clk, .met, .logs, .plan, .fired]
    [F.TIME_STATUS_STEP_PENDING, F.TIME_EVENTS_STEPS, F.PLAN_SWAP_SEC_SEC, F.LOG_STATUS_WAB_FULL] m (m.stepTaken t o sec) :=
  ((((Only.reach m t).weaken (by decide) (List.nil_subset _)).trans ((Only.applyStep _ o).weaken (by decide) (by decide))).trans
    ((Only.drumPaused _ sec).weaken (by decide) (List.nil_subset _))).trans ((Only.rearm _ sec).weaken (by decide) (by decide))

theorem Mod.clk_stepTaken : (m.stepTaken t o sec).clk = { ((m.reach t).applyStep o).clk with pausedUntil := some sec } := by
  rw [Mod.stepTaken, Mod.clk_rearm, Mod.drumPaused]

theorem Mod.ns_stepTaken :
    (m.stepTaken t o sec).clk.ns = ofInt 64 ((((t * 2 ^ 32 + m.clk.frac : Nat) : Int) + o * 2 ^ 27) / 2 ^ 32) := by
  rw [Mod.clk_stepTaken, Mod.clk_applyStep, Mod.reach]

theorem Mod.met_stepTaken : (m.stepTaken t o sec).met = { m.met with stepped := true } := by
  rw [Mod.stepTaken, Mod.met_rearm]
  rfl

theorem logs_stepTaken : Logs m (m.stepTaken t o sec) .timeStep 0 (leBytes 8 (ofInt 64 (o / 32))) := by
  rw [Logs, Mod.stepTaken, Mod.logs_rearm]
  exact logs_applyStep (m.reach t) o

theorem Mod.stepPending_stepTaken : (m.stepTaken t o sec).flag F.TIME_STATUS_STEP_PENDING = false := by
  rw [Mod.stepTaken, (Only.rearm _ sec).flag (by decide), (Only.drumPaused _ sec).flag (by decide), Mod.stepPending_applyStep]

theorem Mod.steps_stepTaken :
    (m.stepTaken t o sec).get F.TIME_EVENTS_STEPS = satNat F.TIME_EVENTS_STEPS.width (m.get F.TIME_EVENTS_STEPS + 1) := by
  rw [Mod.stepTaken, (Only.rearm _ sec).get (by decide), (Only.drumPaused _ sec).get (by decide), Mod.steps_applyStep,
    (Only.reach m t).get (by decide)]

end

theorem does_timeStep {s : State} {o : Int} {P : Mod → Prop} (hpend : s.m.clk.stepPending = some o) (hrun : s.m.clk.run = true)
    (hfree : s.m.plan.migrated = false)
    (hP : ∀ t sec, t = (s.m.clk.ns + 999999999) / 1000000000 * 1000000000 →
      sec = (((s.m.reach t).applyStep o).clk.ns + 999999999) / 1000000000 → P (s.m.stepTaken t o sec)) : Does .timeStep s P :=
  Does.of_onMod (exec_timeStep s) (by simp only [hpend, hrun, hfree, Bool.not_true, Bool.or_self, Bool.false_eq_true, if_false]; rfl)
    (hP _ _ rfl rfl)

/-- Settles O24: the pending step through `stepTaken`, the pulse by the sync states that drive it, the end of a HOLDOVER by its estimate. -/
theorem timeStepsPulsesAndFreeRun : Obligations.TimeStepsPulsesAndFreeRun := by
  unfold Obligations.TimeStepsPulsesAndFreeRun
  intro s o t st now _
  refine ⟨fun hpend hrun hfree => ?_, ?_, rfl, fun hst hown hrun ht hover => ?_, fun hst hwithin => ?_⟩
  case refine_1 =>
    refine does_timeStep hpend hrun hfree fun t sec ht hsec => ?_
    have hns : (s.m.stepTaken t o sec).clk.ns = ((s.m.reach t).applyStep o).clk.ns := by rw [Mod.clk_stepTaken]
    rw [hns, ← hsec]
    refine ⟨?_, ?_, ?_, ?_, Mod.stepPending_stepTaken .., Mod.steps_stepTaken .., logs_stepTaken .., Mod.met_stepTaken .., Mod.plan_rearm ..,
      Only.stepTaken ..⟩
    · rw [← hns, Mod.ns_stepTaken, ht]
    all_goals rw [Mod.clk_stepTaken]
    all_goals rfl
  case refine_2 =>
    have hdrive : decide (2 ≤ st ∧ st ≤ 4) = (st == syLocked || st == syExt || st == syHold) := by
      rw [Bool.eq_iff_iff]
      simp only [decide_eq_true_eq, Bool.or_eq_true, beq_iff_eq, syLocked, syExt, syHold]
      omega
    rw [exec_tsyncOutPulse, hdrive]
    rfl
  case refine_3 =>
    have hne : (s.m.reach t).get F.TIME_STATUS_STATE ≠ syFree := by
      rw [show (s.m.reach t).get F.TIME_STATUS_STATE = 3 from hst]
      decide
    have hlogs := logs_setSync (s.m.reach t) syFree 0 hne
    have hclk := (s.m.reach t).clk_setSync syFree 0
    rw [show (s.m.reach t).get F.TIME_STATUS_STATE = 3 from hst] at hlogs hclk
    have hdue : (s.m.reach t).holdOver = true := by rwa [Mod.holdOver_reach t hst, decide_eq_true_eq]
    exact Does.of_onMod (exec_holdoverToFree t s) (if_pos ⟨hst, by simp [hown], hrun, ht, hdue⟩) ⟨Mod.state_setSync _ _ _ (by decide),
      Mod.source_setSync_free .., hlogs, hclk,
      ((Only.reach s.m t).weaken (by decide) (List.nil_subset _)).trans ((Only.setSync ..).weaken (List.Subset.refl _) (List.Subset.refl _))⟩
  case refine_4 =>
    refine exec_of_onMod_unchanged (exec_holdoverToFree t s) (if_neg ?_)
    rintro ⟨-, -, -, -, hover⟩
    rw [Mod.holdOver_reach t hst, decide_eq_true_eq] at hover
    omega

end Sys2Proof.Machine

end

/-! PROOFS. The family 06_building_time_and_launch.md: the Jack path (O25). -/

section

namespace Sys2Proof.Machine

/-! ### A set of numbers as the bits of a word -/

/-- Powers of two added up by rising exponents are the bits they stand for. -/
theorem testBit_foldl_two_pow {l : List Nat} (hl : l.Pairwise (· < ·)) {a : Nat} (ha : ∀ i ∈ l, a < 2 ^ i) (j : Nat) :
    (l.foldl (fun a i => a + 2 ^ i) a).testBit j = (a.testBit j || decide (j ∈ l)) := by
  induction l generalizing a with
  | nil => simp
  | cons i t ih =>
    obtain ⟨hit, ht⟩ := List.pairwise_cons.1 hl
    have hlt : a < 2 ^ i := ha i (List.mem_cons_self ..)
    have hnext (k : Nat) (hk : k ∈ t) : a + 2 ^ i < 2 ^ k := by
      have hpow : 2 ^ (i + 1) ≤ 2 ^ k := Nat.pow_le_pow_right (by decide) (hit k hk)
      omega
    have hor : a + 2 ^ i = 2 ^ i ||| a := by
      have h := Nat.two_pow_add_eq_or_of_lt hlt 1
      rw [Nat.mul_one] at h
      rw [Nat.add_comm, h]
    rw [List.foldl_cons, ih ht hnext, hor, Nat.testBit_or, Nat.testBit_two_pow]
    by_cases hij : i = j
    · simp [hij]
    · simp [hij, Ne.symm hij]

/-! ### OPENLOAD ends with the output (R241) -/

/-- The fields that a digital output's pin depends on. -/
def doPinRegs (n : Fin 24) : List Fld :=
  [F.FIO_DO_STATUS_SC n.val, F.FIO_DO_STATUS_THERMAL n.val, F.FIO_DO_GRP_TRIP (n.val / 8), F.FIO_STATUS_VAUX_OK, F.EXEC_STATE_STATE]

/-- The output of digital output `n`. -/
abbrev doOut (n : Fin 24) : Fin 48 := ⟨n.val, by omega⟩

theorem Mod.source_congr {m m' : Mod} (houts : m'.outs = m.outs) (hexec : m'.exec = m.exec) (hpwr : m'.pwr = m.pwr) (hst : m'.st = m.st)
    (o : Fin 48) : m'.source o = m.source o := by
  have hsafe : m'.safeVal o = m.safeVal o := by rw [Mod.safeVal, Mod.safeVal, hexec, houts]
  rw [Mod.source, Mod.source, hsafe, Mod.peerHolds, Mod.peerHolds, hst, hexec, hpwr, houts]

theorem Only.pinOn {ps : List Part} {fs : List Fld} {m m' : Mod} (h : Only ps fs m m') (hps : Part.outs ∉ ps ∧ Part.exec ∉ ps ∧ Part.pwr ∉ ps)
    (n : Fin 24) (hfs : ∀ f ∈ fs, ∀ g ∈ doPinRegs n, Apart f g) : m'.pinOn (doOut n) = m.pinOn (doOut n) := by
  obtain ⟨houts, hexec, hpwr⟩ := hps
  have houts : m'.outs = m.outs := h.part .outs houts
  have hexec : m'.exec = m.exec := h.part .exec hexec
  have hpwr : m'.pwr = m.pwr := h.part .pwr hpwr
  have hfld (g : Fld) (hg : g ∈ doPinRegs n) : m'.get g = m.get g := h.get fun f hf => hfs f hf g hg
  have hst : m'.st = m.st := hfld _ (by simp [doPinRegs])
  have hheld : m'.doHeld n.val = m.doHeld n.val := by
    simp only [Mod.doHeld, Mod.flag]
    rw [hfld _ (by simp [doPinRegs]), hfld _ (by simp [doPinRegs]), hfld _ (by simp [doPinRegs]), hfld _ (by simp [doPinRegs])]
  have hkind : outKind (doOut n).val = .do_ := (outKind_do_iff _).2 n.isLt
  simp only [Mod.pinOn, Mod.pin, hkind, hheld, Mod.source_congr houts hexec hpwr hst]

/-- OPENLOAD of one output ends where its pin is not on. -/
def Mod.openEnd (m : Mod) (n : Fin 24) : Mod := m.when (!m.pinOn (doOut n)) fun m => m.set (F.FIO_DO_STATUS_OPENLOAD n.val) 0

theorem Mod.openSettle_eq (m : Mod) : m.openSettle = (List.finRange 24).foldl Mod.openEnd m := rfl

theorem openLoad_apart_pin : ∀ k n : Fin 24, ∀ g ∈ doPinRegs n, Apart (F.FIO_DO_STATUS_OPENLOAD k.val) g := by decide

theorem openLoad_apart : ∀ k n : Fin 24, k ≠ n → Apart (F.FIO_DO_STATUS_OPENLOAD n.val) (F.FIO_DO_STATUS_OPENLOAD k.val) := by decide

theorem openLoad_mem : ∀ n : Fin 24, F.FIO_DO_STATUS_OPENLOAD n.val ∈ openRegs := by decide

section

variable (m : Mod)

theorem Only.openEnd (n : Fin 24) : Only [] [F.FIO_DO_STATUS_OPENLOAD n.val] m (m.openEnd n) := Only.when (Only.set ..)

theorem Only.openSettle : Only [] openRegs m m.openSettle := by
  rw [Mod.openSettle_eq]
  exact Only.foldl _ _ fun m n _ => (Only.openEnd m n).weaken (List.Subset.refl _) (by simpa using openLoad_mem n)

theorem Mod.pinOn_openEnd (n k : Fin 24) : (m.openEnd n).pinOn (doOut k) = m.pinOn (doOut k) :=
  (Only.openEnd m n).pinOn (by decide) k fun f hf => by
    rw [List.mem_singleton.1 hf]
    exact openLoad_apart_pin n k

theorem Mod.openLoad_openEnd (n k : Fin 24) : (m.openEnd n).flag (F.FIO_DO_STATUS_OPENLOAD k.val) =
    (m.flag (F.FIO_DO_STATUS_OPENLOAD k.val) && (decide (k ≠ n) || m.pinOn (doOut k))) := by
  by_cases hk : k = n
  · subst hk
    unfold Mod.openEnd
    cases hpin : m.pinOn (doOut k)
    · show ((m.set (F.FIO_DO_STATUS_OPENLOAD k.val) 0).get _ != 0) = _
      rw [Mod.get_set_self _ _ (show 4 + 1 ≤ 32 by decide)]
      simp
    · simp [Mod.when]
  · rw [(Only.openEnd m n).flag (by simpa using openLoad_apart k n hk)]
    simp [hk]

theorem Mod.openLoad_foldl (k : Fin 24) (l : List (Fin 24)) : (l.foldl Mod.openEnd m).flag (F.FIO_DO_STATUS_OPENLOAD k.val) =
    (m.flag (F.FIO_DO_STATUS_OPENLOAD k.val) && (decide (k ∉ l) || m.pinOn (doOut k))) := by
  induction l generalizing m with
  | nil => simp
  | cons n t ih =>
    rw [List.foldl_cons, ih, Mod.pinOn_openEnd, Mod.openLoad_openEnd]
    by_cases hk : k = n <;> by_cases ht : k ∈ t <;> cases m.pinOn (doOut k) <;> simp [hk, ht]

theorem openEnds_openSettle : OpenEnds m m.openSettle := by
  intro k
  have hap : ∀ f ∈ openRegs, ∀ g ∈ doPinRegs k, Apart f g := fun f hf => by
    obtain ⟨n, hn, rfl⟩ := List.mem_map.1 hf
    exact openLoad_apart_pin ⟨n, List.mem_range.1 hn⟩ k
  rw [(Only.openSettle m).pinOn (by decide) k hap, Mod.openSettle_eq, Mod.openLoad_foldl]
  simp [List.mem_finRange]

end

/-! ### The Jack path evaluated (R163, R165, R166, R169) -/

section

variable (m : Mod)

/-- The entries that act now: those with EN whose condition holds or whose latch is held. -/
def Mod.jackActing : List Nat :=
  (List.range m.jackTable.length).filter fun i => match m.jackTable[i]? with | some e => jActive m.jack.inputs m.jack.latched i e | none => false

/-- The acting entries with LATCH. -/
def Mod.jackLatching : List Nat := m.jackActing.filter fun i => match m.jackTable[i]? with | some e => jLatch e | none => false

/-- The Jack part and the outputs take what the entries drive. -/
def Mod.jackDriven : Mod :=
  { m with
    jack := { m.jack with active := m.jackActing, latched := m.jackLatching }
    outs := Vector.ofFn fun o : Fin 48 => { m.outs[o] with jack := jLevelAt m.jackTable m.jackActing o.val } }

/-- JACK_STATUS and JACK_ACT show the active entries. -/
def Mod.jackShown (act : List Nat) : Mod :=
  ((m.set F.JACK_STATUS_ACTIVE act.length).set (F.JACK_ACT_ACT 0) ((act.filter (· < 32)).foldl (fun a i => a + 2 ^ i) 0)).set (F.JACK_ACT_ACT 1)
    ((act.filter (32 ≤ ·)).foldl (fun a i => a + 2 ^ (i - 32)) 0)

/-- A newly active entry in JACK_HIT and in the recorder. -/
def Mod.jackHit (i : Nat) : Mod :=
  let m := m.set (F.JACK_HIT_HIT (i / 32)) (m.get (F.JACK_HIT_HIT (i / 32)) ||| 2 ^ (i % 32))
  m.log .jack i (leBytes 1 i ++ leBytes 8 (m.clk.ns / 40 * 40))

/-- The entries that become active. -/
def Mod.jackRising : List Nat := m.jackActing.filter fun i => !m.jack.active.contains i

theorem Mod.jackEval_eq (h : m.jack.enabled = true) :
    m.jackEval = m.jackRising.foldl Mod.jackHit (m.jackDriven.openSettle.jackShown m.jackActing) := by
  unfold Mod.jackEval
  rw [h]
  rfl

theorem Mod.jackEval_off (h : m.jack.enabled = false) : m.jackEval = m := by
  unfold Mod.jackEval
  rw [h]
  rfl

theorem Mod.contains_jackActing (i : Nat) :
    m.jackActing.contains i = (m.jackTable[i]?).any (jActive m.jack.inputs m.jack.latched i) := by
  rw [Bool.eq_iff_iff, List.contains_iff_mem, Mod.jackActing, List.mem_filter, List.mem_range]
  cases he : m.jackTable[i]? with
  | none => simp
  | some e => simp [(List.getElem?_eq_some_iff.1 he).1]

theorem Mod.contains_jackLatching (i : Nat) :
    m.jackLatching.contains i = (m.jackActing.contains i && (m.jackTable[i]?).any jLatch) := by
  rw [Bool.eq_iff_iff, List.contains_iff_mem, Mod.jackLatching, List.mem_filter, Bool.and_eq_true, List.contains_iff_mem]
  cases m.jackTable[i]? <;> simp

theorem Mod.jackActing_pairwise : m.jackActing.Pairwise (· < ·) := List.pairwise_lt_range.filter _

theorem Mod.lt_of_mem_jackActing {i : Nat} (h : i ∈ m.jackActing) : i < m.jackTable.length := List.mem_range.1 (List.mem_filter.1 h).1

theorem Only.jackDriven : Only [.jack, .outs, .logs] jackRegs m m.jackDriven :=
  (Only.jack_outs m m.jackDriven.jack m.jackDriven.outs).weaken (by decide) (List.nil_subset _)

theorem Only.jackShown (act : List Nat) : Only [] [F.JACK_STATUS_ACTIVE, F.JACK_ACT_ACT 0, F.JACK_ACT_ACT 1] m (m.jackShown act) := by
  unfold Mod.jackShown
  iterate 3 refine Only.set_mem ?_ _ (by decide)
  exact Only.unchanged m

theorem Only.jackHit {i : Nat} (hi : i < 64) : Only [.logs] [F.JACK_HIT_HIT 0, F.JACK_HIT_HIT 1, F.LOG_STATUS_WAB_FULL] m (m.jackHit i) := by
  have hmem : F.JACK_HIT_HIT (i / 32) ∈ [F.JACK_HIT_HIT 0, F.JACK_HIT_HIT 1, F.LOG_STATUS_WAB_FULL] := by
    obtain h | h : i / 32 = 0 ∨ i / 32 = 1 := by omega
    · simp [h]
    · simp [h]
  exact ((Only.unchanged m).set_mem _ hmem).trans ((Only.log ..).weaken (List.Subset.refl _) (by decide))

/-- JACK_ACT has a bit for each of 64 entries. -/
theorem Mod.bit_jackShown {act : List Nat} (hact : act.Pairwise (· < ·)) (i : Fin 64) :
    bitAt ((m.jackShown act).get (F.JACK_ACT_ACT (i.val / 32))) (i.val % 32) = act.contains i.val := by
  have hlow : (act.filter (· < 32)).Pairwise (· < ·) := hact.filter _
  have hhigh : ((act.filter (32 ≤ ·)).map (· - 32)).Pairwise (· < ·) := by
    rw [List.pairwise_map]
    refine (hact.filter _).imp_of_mem fun ha hb hlt => ?_
    have ha := (List.mem_filter.1 ha).2
    rw [decide_eq_true_eq] at ha
    omega
  rw [bitAt_eq_testBit, Mod.jackShown]
  obtain h | h : i.val / 32 = 0 ∨ i.val / 32 = 1 := by omega
  · rw [h, Mod.get_set_apart _ _ (by decide), Mod.get_set_self _ _ (by decide), Nat.testBit_mod_two_pow,
      testBit_foldl_two_pow hlow (fun i _ => Nat.two_pow_pos i)]
    have hi : i.val % 32 = i.val ∧ i.val < 32 := by omega
    simp [hi]
  · rw [h, Mod.get_set_self _ _ (by decide), Nat.testBit_mod_two_pow,
      ← List.foldl_map (f := (· - 32)) (g := fun a i => a + 2 ^ i), testBit_foldl_two_pow hhigh (fun i _ => Nat.two_pow_pos i)]
    have hmem : i.val % 32 ∈ (act.filter (32 ≤ ·)).map (· - 32) ↔ i.val ∈ act := by
      simp only [List.mem_map, List.mem_filter, decide_eq_true_eq]
      constructor
      · rintro ⟨a, ⟨ha, hge⟩, hsub⟩
        rwa [show i.val = a by omega]
      · exact fun hi => ⟨i.val, ⟨hi, by omega⟩, by omega⟩
    simp [hmem, Nat.mod_lt i.val (show 0 < 32 by decide)]

theorem jackHit_apart {i j : Nat} (h : i / 32 ≠ j / 32) : Apart (F.JACK_HIT_HIT (i / 32)) (F.JACK_HIT_HIT (j / 32)) := by
  refine Or.inl ?_
  show 0x78410 + 0x4 * (j / 32) ≠ 0x78410 + 0x4 * (i / 32)
  omega

theorem jackHit_apart_wabFull (i : Nat) : Apart F.LOG_STATUS_WAB_FULL (F.JACK_HIT_HIT i) := by
  refine Or.inl ?_
  show 0x78410 + 0x4 * i ≠ 0x06000
  omega

theorem Mod.bit_jackHit (i j : Nat) : bitAt ((m.jackHit i).get (F.JACK_HIT_HIT (j / 32))) (j % 32) =
    (bitAt (m.get (F.JACK_HIT_HIT (j / 32))) (j % 32) || decide (j = i)) := by
  rw [bitAt_eq_testBit, bitAt_eq_testBit, Mod.jackHit, Mod.get_log_apart _ _ _ _ (jackHit_apart_wabFull _)]
  by_cases h : i / 32 = j / 32
  · rw [← h, Mod.get_set_self _ _ (show 0 + 32 ≤ 32 by decide), Nat.testBit_mod_two_pow, Nat.testBit_or, Nat.testBit_two_pow]
    have hij : i % 32 = j % 32 ↔ j = i := by omega
    simp [hij, Nat.mod_lt j (show 0 < 32 by decide)]
  · have hij : j ≠ i := fun e => h (by rw [e])
    rw [Mod.get_set_apart _ _ (jackHit_apart h)]
    simp [hij]

theorem Mod.bit_foldl_jackHit (j : Nat) (l : List Nat) : bitAt ((l.foldl Mod.jackHit m).get (F.JACK_HIT_HIT (j / 32))) (j % 32) =
    (bitAt (m.get (F.JACK_HIT_HIT (j / 32))) (j % 32) || l.contains j) := by
  induction l generalizing m with
  | nil => simp
  | cons i t ih => rw [List.foldl_cons, ih, Mod.bit_jackHit, List.contains_cons, Bool.or_assoc, beq_eq_decide]

variable {m}

/-- The module with the entries driving and shown, before JACK_HIT and the recorder. -/
theorem Only.jackShown_jackEval (hlen : m.jackTable.length ≤ 64) (hen : m.jack.enabled = true) :
    Only [.logs] [F.JACK_HIT_HIT 0, F.JACK_HIT_HIT 1, F.LOG_STATUS_WAB_FULL] (m.jackDriven.openSettle.jackShown m.jackActing) m.jackEval := by
  rw [m.jackEval_eq hen]
  refine Only.foldl _ _ fun m' i hi => Only.jackHit m' ?_
  exact (m.lt_of_mem_jackActing (List.mem_filter.1 hi).1).trans_le hlen

theorem jackRegs_apart_pin : ∀ k : Fin 24, ∀ g ∈ doPinRegs k, ∀ f ∈ jackRegs, Apart f g := by decide

theorem Only.jackEval (hlen : m.jackTable.length ≤ 64) : Only [.jack, .outs, .logs] jackRegs m m.jackEval := by
  cases hen : m.jack.enabled with
  | false =>
    rw [m.jackEval_off hen]
    exact Only.unchanged m
  | true =>
    exact (((Only.jackDriven m).trans ((Only.openSettle _).weaken (List.nil_subset _) (by decide))).trans
      ((Only.jackShown _ _).weaken (List.nil_subset _) (by decide))).trans ((Only.jackShown_jackEval hlen hen).weaken (by decide) (by decide))

theorem Mod.jack_jackEval (hlen : m.jackTable.length ≤ 64) (hen : m.jack.enabled = true) :
    m.jackEval.jack = { m.jack with active := m.jackActing, latched := m.jackLatching } := by
  have hhit : m.jackEval.jack = (m.jackDriven.openSettle.jackShown m.jackActing).jack := (Only.jackShown_jackEval hlen hen).part .jack (by decide)
  have hopen : m.jackDriven.openSettle.jack = m.jackDriven.jack := (Only.openSettle _).part .jack (by decide)
  rw [hhit]
  exact hopen

theorem Mod.outs_jackEval (hlen : m.jackTable.length ≤ 64) (hen : m.jack.enabled = true) (o : Fin 48) :
    m.jackEval.outs[o] = { m.outs[o] with jack := jLevelAt m.jackTable m.jackActing o.val } := by
  have hhit : m.jackEval.outs = (m.jackDriven.openSettle.jackShown m.jackActing).outs := (Only.jackShown_jackEval hlen hen).part .outs (by decide)
  have hopen : m.jackDriven.openSettle.outs = m.jackDriven.outs := (Only.openSettle _).part .outs (by decide)
  rw [hhit]
  show m.jackDriven.openSettle.outs[o] = _
  rw [hopen]
  exact Vector.getElem_ofFn ..

theorem openEnds_jackEval (hlen : m.jackTable.length ≤ 64) (hen : m.jack.enabled = true) : OpenEnds m m.jackEval := by
  have hdriven : Only [.jack, .outs] [] m m.jackDriven := Only.jack_outs ..
  have hrest : Only [.logs] [F.JACK_STATUS_ACTIVE, F.JACK_ACT_ACT 0, F.JACK_ACT_ACT 1, F.JACK_HIT_HIT 0, F.JACK_HIT_HIT 1, F.LOG_STATUS_WAB_FULL]
      m.jackDriven.openSettle m.jackEval :=
    ((Only.jackShown _ _).weaken (List.nil_subset _) (by decide)).trans ((Only.jackShown_jackEval hlen hen).weaken (List.Subset.refl _) (by decide))
  have hflag : ∀ k : Fin 24, ∀ f ∈ [F.JACK_STATUS_ACTIVE, F.JACK_ACT_ACT 0, F.JACK_ACT_ACT 1, F.JACK_HIT_HIT 0, F.JACK_HIT_HIT 1,
      F.LOG_STATUS_WAB_FULL], Apart f (F.FIO_DO_STATUS_OPENLOAD k.val) ∧ ∀ g ∈ doPinRegs k, Apart f g := by decide
  intro k
  rw [hrest.flag fun f hf => (hflag k f hf).1, hrest.pinOn (by decide) k fun f hf => (hflag k f hf).2, openEnds_openSettle m.jackDriven k,
    hdriven.flag (by simp)]

theorem jackFollows_jackEval (hlen : m.jackTable.length ≤ 64) (hen : m.jack.enabled = true) :
    JackFollows m m.jackEval m.jack.inputs m.jack.latched := by
  have hjack := Mod.jack_jackEval hlen hen
  have hhit := Only.jackShown_jackEval hlen hen
  refine ⟨by rw [hjack], by rw [hjack]; exact hen, fun i => ?_, fun i => ?_, fun o => ?_, fun i => ?_, fun i => ?_, openEnds_jackEval hlen hen⟩
  · rw [hjack]
    exact m.contains_jackActing i.val
  · rw [hjack]
    exact m.contains_jackLatching i.val
  · rw [hjack]
    exact Mod.outs_jackEval hlen hen o
  · have hap : ∀ i : Fin 64, ∀ f ∈ [F.JACK_HIT_HIT 0, F.JACK_HIT_HIT 1, F.LOG_STATUS_WAB_FULL], Apart f (F.JACK_ACT_ACT (i.val / 32)) := by decide
    rw [hjack, hhit.get (hap i)]
    exact Mod.bit_jackShown _ m.jackActing_pairwise i
  · have hap : ∀ i : Fin 64, ∀ f ∈ [F.JACK_STATUS_ACTIVE, F.JACK_ACT_ACT 0, F.JACK_ACT_ACT 1] ++ openRegs, Apart f (F.JACK_HIT_HIT (i.val / 32)) := by
      decide
    have hshown : Only [] ([F.JACK_STATUS_ACTIVE, F.JACK_ACT_ACT 0, F.JACK_ACT_ACT 1] ++ openRegs) m.jackDriven
        (m.jackDriven.openSettle.jackShown m.jackActing) :=
      ((Only.openSettle _).weaken (List.Subset.refl _) (List.subset_append_right _ _)).trans
        ((Only.jackShown _ _).weaken (List.Subset.refl _) (List.subset_append_left _ _))
    have hdriven : Only [.jack, .outs] [] m m.jackDriven := Only.jack_outs ..
    have hrising : m.jackRising.contains i.val = (m.jackActing.contains i.val && !m.jack.active.contains i.val) := by
      rw [Bool.eq_iff_iff, List.contains_iff_mem, Mod.jackRising, List.mem_filter, Bool.and_eq_true, List.contains_iff_mem]
    rw [hjack, m.jackEval_eq hen, Mod.bit_foldl_jackHit, hshown.get (hap i), hdriven.get (by simp), hrising]

/-- What the Jack path follows is the same from an earlier module whose inputs, latches and recorder alone differ. -/
theorem JackFollows.of_only {m₀ m' : Mod} {inp : BitVec 24} {lat : List Nat} (h : JackFollows m m' inp lat)
    (hkept : Only [.jack, .logs] [F.LOG_STATUS_WAB_FULL] m₀ m) (hact : m.jack.active = m₀.jack.active) : JackFollows m₀ m' inp lat := by
  have houts : m.outs = m₀.outs := hkept.part .outs (by decide)
  have hplan : m.plan = m₀.plan := hkept.part .plan (by decide)
  have htable : m.jackTable = m₀.jackTable := by rw [Mod.jackTable, hplan, ← Mod.jackTable]
  have hhit : ∀ i : Fin 64, ∀ f ∈ [F.LOG_STATUS_WAB_FULL], Apart f (F.JACK_HIT_HIT (i.val / 32)) := by decide
  have hopen : ∀ k : Fin 24, ∀ f ∈ [F.LOG_STATUS_WAB_FULL], Apart f (F.FIO_DO_STATUS_OPENLOAD k.val) := by decide
  obtain ⟨hinp, hen, hacts, hlats, houts', hshow, hhits, hopens⟩ := h
  rw [htable] at hacts hlats houts'
  refine ⟨hinp, hen, hacts, hlats, fun o => ?_, hshow, fun i => ?_, fun k => ?_⟩
  · rw [houts' o, houts]
  · rw [hhits i, hkept.get (hhit i), hact]
  · rw [hopens k, hkept.flag (hopen k)]

end

/-! ### Latches released (R167) -/

/-- The module with the latch of an entry ended, before the path is evaluated. -/
def Mod.unlatched (m : Mod) (i : Nat) : Mod := { m with jack := { m.jack with latched := m.jack.latched.filter (· != i) } }

/-- The path after a latch has ended. -/
def Mod.jackFreed (m : Mod) (i : Nat) : Mod := (m.unlatched i).jackEval

section

variable {m : Mod} {i : Nat} {e : BitVec 64}

theorem Mod.jackRelease_held (he : m.jackTable[i]? = some e) (hlat : m.jack.latched.contains i = true) (hcond : jCond m.jack.inputs e = false) :
    m.jackRelease i = m.jackFreed i := by
  unfold Mod.jackRelease
  simp only [he, hlat, hcond, Bool.not_false, Bool.and_self, if_true]
  rfl

theorem Mod.jackRelease_free (hlat : m.jack.latched.contains i = false) : m.jackRelease i = m := by
  unfold Mod.jackRelease
  simp only [hlat, Bool.false_and, Bool.false_eq_true, if_false]
  split <;> rfl

/-- A latch ends, or nothing changes. -/
theorem Mod.jackRelease_cases (m : Mod) (i : Nat) : m.jackRelease i = m.jackFreed i ∨ m.jackRelease i = m := by
  unfold Mod.jackRelease
  split
  · split
    · exact Or.inl rfl
    · exact Or.inr rfl
  · exact Or.inr rfl

theorem Only.unlatched (m : Mod) (i : Nat) : Only [.jack] [] m (m.unlatched i) := Only.of_put rfl

theorem Only.jackFreed (hlen : m.jackTable.length ≤ 64) (i : Nat) : Only [.jack, .outs, .logs] jackRegs m (m.jackFreed i) :=
  ((Only.unlatched m i).weaken (by decide) (List.nil_subset _)).trans (Only.jackEval hlen)

theorem jackFollows_jackFreed (hlen : m.jackTable.length ≤ 64) (hen : m.jack.enabled = true) (i : Nat) :
    JackFollows m (m.jackFreed i) m.jack.inputs (m.jack.latched.filter (· != i)) :=
  (jackFollows_jackEval (m := m.unlatched i) hlen hen).of_only ((Only.unlatched m i).weaken (by decide) (List.nil_subset _)) rfl

theorem contains_filter_ne (l : List Nat) (i : Nat) : (l.filter (· != i)).contains i = false := by
  simp

/-- An entry whose condition is 0 and whose latch has ended is neither active nor latched. -/
theorem JackFollows.ended {m' : Mod} {inp : BitVec 24} {lat : List Nat} (h : JackFollows m m' inp lat) (k : Fin 64)
    (he : (m.jackTable[k.val]?).any (jCond inp) = false) (hlat : lat.contains k.val = false) :
    m'.jack.active.contains k.val = false ∧ m'.jack.latched.contains k.val = false := by
  obtain ⟨-, -, hacts, hlats, -⟩ := h
  have hact : m'.jack.active.contains k.val = false := by
    rw [hacts k]
    cases hk : m.jackTable[k.val]? with
    | none => rfl
    | some e =>
      rw [hk, Option.any_some] at he
      rw [Option.any_some, jActive, he, hlat]
      simp
  exact ⟨hact, by rw [hlats k, hact, Bool.false_and]⟩

end

/-! ### A session's reset (R167, R277, R280) -/

section

variable {m : Mod} {h i : Nat} {e : BitVec 64}

theorem Mod.jackReset_plain (he : m.jackTable[i]? = some e) (hsafe : jSafety e = false) (hmay : m.isO0V h = true) :
    m.jackReset h i = m.jackRelease i := by
  simp [Mod.jackReset, he, hsafe, hmay]

theorem Mod.jackReset_safety (he : m.jackTable[i]? = some e) (hsafe : jSafety e = true) (hmay : m.isUnlocked h = true)
    (hroom : m.logs.changeFull = false) : m.jackReset h i = (m.changeAct 3 h i i (jReleasable m i)).jackRelease i := by
  simp [Mod.jackReset, he, hsafe, hmay, hroom]

theorem Mod.jackReset_locked (he : m.jackTable[i]? = some e) (hsafe : jSafety e = true) (hmay : m.isUnlocked h = false) :
    m.jackReset h i = m := by
  simp [Mod.jackReset, he, hsafe, hmay]

theorem Only.changeAct (m : Mod) (kind session old new : Nat) (took : Bool) :
    Only [.logs] [F.LOG_STATUS_WAB_FULL] m (m.changeAct kind session old new took) :=
  (Only.change ..).trans (Only.when (Only.change ..))

/-- A reset records what it does, and releases, or it changes nothing. -/
theorem Mod.jackReset_cases (m : Mod) (h i : Nat) :
    m.jackReset h i = m ∨ m.jackReset h i = m.jackRelease i ∨ ∃ took, m.jackReset h i = (m.changeAct 3 h i i took).jackRelease i := by
  unfold Mod.jackReset
  split
  · exact Or.inl rfl
  · split
    · split
      · exact Or.inr (Or.inr ⟨_, rfl⟩)
      · exact Or.inl rfl
    · split
      · exact Or.inr (Or.inl rfl)
      · exact Or.inl rfl

end

/-! ### Every entry reset at once (R172) -/

/-- From `m` to `m'` the Jack path kept its inputs, and no latch began at an entry whose condition is 0. -/
structure JackKeeps (m m' : Mod) : Prop where
  only : Only [.jack, .outs, .logs] jackRegs m m'
  inputs : m'.jack.inputs = m.jack.inputs
  enabled : m'.jack.enabled = m.jack.enabled
  ended : ∀ k : Fin 64, (m.jackTable[k.val]?).any (jCond m.jack.inputs) = false → m.jack.latched.contains k.val = false →
    m'.jack.latched.contains k.val = false

namespace JackKeeps

variable {m m' m'' : Mod}

theorem refl (m : Mod) : JackKeeps m m := ⟨Only.unchanged m, rfl, rfl, fun _ _ h => h⟩

theorem table (h : JackKeeps m m') : m'.jackTable = m.jackTable := by
  have hplan : m'.plan = m.plan := h.only.part .plan (by decide)
  rw [Mod.jackTable, hplan, ← Mod.jackTable]

theorem trans (h : JackKeeps m m') (h' : JackKeeps m' m'') : JackKeeps m m'' where
  only := h.only.trans h'.only
  inputs := h'.inputs.trans h.inputs
  enabled := h'.enabled.trans h.enabled
  ended k he hlat := h'.ended k (by rwa [h.table, h.inputs]) (h.ended k he hlat)

theorem changeAct (m : Mod) (kind session old new : Nat) (took : Bool) : JackKeeps m (m.changeAct kind session old new took) := by
  have honly := Only.changeAct m kind session old new took
  have hjack : (m.changeAct kind session old new took).jack = m.jack := honly.part .jack (by decide)
  exact ⟨honly.weaken (by decide) (by decide), by rw [hjack], by rw [hjack], fun k _ hlat => by rwa [hjack]⟩

theorem jackFreed (hlen : m.jackTable.length ≤ 64) (i : Nat) : JackKeeps m (m.jackFreed i) := by
  have hfilter (k : Nat) (hlat : m.jack.latched.contains k = false) : (m.jack.latched.filter (· != i)).contains k = false := by
    simp_all
  cases hen : m.jack.enabled with
  | true =>
    have hfollows := jackFollows_jackFreed hlen hen i
    exact ⟨Only.jackFreed hlen i, hfollows.1, hfollows.2.1.trans hen.symm, fun k he hlat => (hfollows.ended k he (hfilter _ hlat)).2⟩
  | false =>
    have hoff : m.jackFreed i = m.unlatched i := (m.unlatched i).jackEval_off hen
    rw [hoff]
    exact ⟨(Only.unlatched m i).weaken (by decide) (List.nil_subset _), rfl, rfl, fun k _ hlat => hfilter _ hlat⟩

theorem jackRelease (hlen : m.jackTable.length ≤ 64) (i : Nat) : JackKeeps m (m.jackRelease i) := by
  obtain h | h := m.jackRelease_cases i
  · rw [h]
    exact jackFreed hlen i
  · rw [h]
    exact refl m

theorem jackReset (hlen : m.jackTable.length ≤ 64) (h i : Nat) : JackKeeps m (m.jackReset h i) := by
  obtain hr | hr | ⟨took, hr⟩ := m.jackReset_cases h i
  · rw [hr]
    exact refl m
  · rw [hr]
    exact jackRelease hlen i
  · have hact := changeAct m 3 h i i took
    rw [hr]
    exact hact.trans (jackRelease (by rwa [hact.table]) i)

theorem isO0V (h : JackKeeps m m') (k : Nat) : m'.isO0V k = m.isO0V k := by
  have horpor : m'.orpor = m.orpor := h.only.part .orpor (by decide)
  rw [Mod.isO0V, Mod.sess, horpor, ← Mod.sess, ← Mod.isO0V]

end JackKeeps

theorem Mod.latched_jackRelease {m : Mod} (hlen : m.jackTable.length ≤ 64) (hen : m.jack.enabled = true) {k : Fin 64} {e : BitVec 64}
    (he : m.jackTable[k.val]? = some e) (hcond : jCond m.jack.inputs e = false) : (m.jackRelease k.val).jack.latched.contains k.val = false := by
  cases hlat : m.jack.latched.contains k.val with
  | false => rwa [Mod.jackRelease_free hlat]
  | true =>
    rw [Mod.jackRelease_held he hlat hcond]
    exact ((jackFollows_jackFreed hlen hen k.val).ended k (by rwa [he]) (contains_filter_ne _ _)).2

/-- One entry of a reset of all. -/
def Mod.jackResetEntry (h : Nat) (m : Mod) (i : Nat) : Mod :=
  match m.jackTable[i]? with
  | none => m
  | some e => if jSafety e && !m.jack.latched.contains i then m else m.jackReset h i

theorem Mod.jackResetAll_eq (m : Mod) (h : Nat) : m.jackResetAll h = (List.range m.jackTable.length).foldl (Mod.jackResetEntry h) m := rfl

theorem jackKeeps_jackResetEntry {m : Mod} (hlen : m.jackTable.length ≤ 64) (h i : Nat) : JackKeeps m (m.jackResetEntry h i) := by
  unfold Mod.jackResetEntry
  split
  · exact JackKeeps.refl m
  · split
    · exact JackKeeps.refl m
    · exact JackKeeps.jackReset hlen h i

/-- An entry that names no safety output and whose condition is 0. -/
def jFreeable (inp : BitVec 24) (e : BitVec 64) : Bool := !jSafety e && !jCond inp e

theorem Mod.latched_jackResetEntry {m : Mod} (hlen : m.jackTable.length ≤ 64) (hen : m.jack.enabled = true) {h : Nat} (hmay : m.isO0V h = true)
    {k : Fin 64} (hk : (m.jackTable[k.val]?).any (jFreeable m.jack.inputs) = true) :
    (m.jackResetEntry h k.val).jack.latched.contains k.val = false := by
  obtain ⟨e, he, hfree⟩ := (Option.any_eq_true ..).1 hk
  simp only [jFreeable, Bool.and_eq_true, Bool.not_eq_true'] at hfree
  obtain ⟨hsafe, hcond⟩ := hfree
  have hreset : m.jackResetEntry h k.val = m.jackRelease k.val := by
    rw [← Mod.jackReset_plain he hsafe hmay, Mod.jackResetEntry, he]
    simp only [hsafe, Bool.false_and, Bool.false_eq_true, if_false]
  rw [hreset]
  exact Mod.latched_jackRelease hlen hen he hcond

theorem jackResetEntries {m : Mod} (hlen : m.jackTable.length ≤ 64) (hen : m.jack.enabled = true) {h : Nat} (hmay : m.isO0V h = true)
    (l : List Nat) : JackKeeps m (l.foldl (Mod.jackResetEntry h) m) ∧
      ∀ k : Fin 64, k.val ∈ l → (m.jackTable[k.val]?).any (jFreeable m.jack.inputs) = true →
        (l.foldl (Mod.jackResetEntry h) m).jack.latched.contains k.val = false := by
  induction l generalizing m with
  | nil => exact ⟨JackKeeps.refl m, fun k hk => absurd hk List.not_mem_nil⟩
  | cons i t ih =>
    have hone := jackKeeps_jackResetEntry hlen h i
    obtain ⟨hkeeps, hended⟩ := ih (m := m.jackResetEntry h i) (by rwa [hone.table]) (by rwa [hone.enabled]) (by rwa [hone.isO0V])
    refine ⟨hone.trans hkeeps, fun k hk hfree => ?_⟩
    have hfree' : ((m.jackResetEntry h i).jackTable[k.val]?).any (jFreeable (m.jackResetEntry h i).jack.inputs) = true := by
      rwa [hone.table, hone.inputs]
    obtain rfl | hkt := List.mem_cons.1 hk
    · refine hkeeps.ended k ?_ (Mod.latched_jackResetEntry hlen hen hmay hfree)
      obtain ⟨e, he, hfree⟩ := (Option.any_eq_true ..).1 hfree'
      simp only [jFreeable, Bool.and_eq_true, Bool.not_eq_true'] at hfree
      rw [he]
      exact hfree.2
    · exact hended k hkt hfree'

/-! ### Module safety faults (R271) -/

/-- A module safety fault shown and logged. -/
def Mod.faultShown (m : Mod) (cause : Nat) : Mod := ((m.set F.SAFE_STATUS_FAULT 1).set F.SAFE_STATUS_CAUSE cause).log .safeFault cause []

/-- The fault with the bar given up where it is held (R374). -/
def Mod.faultBarred (m : Mod) (cause : Nat) : Mod :=
  (m.faultShown cause).when ((m.faultShown cause).flag F.TWIN_STATUS_HOLDS_BAR) Mod.barRelease

theorem Mod.req_reqSafe (m : Mod) (o o' : Fin 48) (bit : Nat) (h : o = o' ∨ bitAt (m.outs[o]).req bit = true) :
    bitAt ((m.reqSafe o' bit).outs[o]).req bit = true := by
  rw [bitAt_eq_testBit] at h ⊢
  unfold Mod.reqSafe
  by_cases ho : o = o'
  · subst ho
    rw [Mod.outMap_same, Nat.testBit_or, Nat.testBit_two_pow_self, Bool.or_true]
  · rw [Mod.outMap_ne _ _ ho]
    exact h.resolve_left ho

theorem Mod.req_reqSafeList (m : Mod) (bit : Nat) (os : List Nat) (o : Fin 48) (h : o.val ∈ os ∨ bitAt (m.outs[o]).req bit = true) :
    bitAt ((m.reqSafeList os bit).outs[o]).req bit = true := by
  induction os generalizing m with
  | nil => exact h.resolve_left List.not_mem_nil
  | cons k t ih =>
    refine ih (if hk : k < 48 then m.reqSafe ⟨k, hk⟩ bit else m) ?_
    rw [List.mem_cons] at h
    split
    · rcases h with (h | h) | h
      · exact Or.inr (m.req_reqSafe _ _ _ (Or.inl (Fin.ext h)))
      · exact Or.inl h
      · exact Or.inr (m.req_reqSafe _ _ _ (Or.inr h))
    · rcases h with (h | h) | h
      · omega
      · exact Or.inl h
      · exact Or.inr h

theorem Only.reqSafeList (m : Mod) (os : List Nat) (bit : Nat) : Only [.outs] [] m (m.reqSafeList os bit) :=
  Only.foldl _ _ fun m o _ => by
    split
    · exact Only.of_put rfl
    · exact Only.unchanged m

section

variable (m : Mod) (cause : Nat)

theorem Only.faultShown : Only [.logs] [F.SAFE_STATUS_FAULT, F.SAFE_STATUS_CAUSE, F.LOG_STATUS_WAB_FULL] m (m.faultShown cause) :=
  (((Only.unchanged m).set_mem _ (by decide)).set_mem _ (by decide)).trans ((Only.log ..).weaken (List.Subset.refl _) (by decide))

theorem Only.faultBarred_faultShown : Only [.twin, .logs] (barRegs ++ [F.LOG_STATUS_WAB_FULL]) (m.faultShown cause) (m.faultBarred cause) :=
  Only.when (Only.barRelease _)

theorem Mod.running_faultShown : (m.faultShown cause).running = m.running := by
  have hst : (m.faultShown cause).st = m.st := (Only.faultShown m cause).get (by decide)
  rw [Mod.running, hst, ← Mod.running]

theorem Mod.safetyFault_running (h : m.running = true) : m.safetyFault cause = (m.faultBarred cause).enterStopped :=
  if_pos ((m.running_faultShown cause).trans h)

theorem Mod.safetyFault_idle (h : m.running = false) :
    m.safetyFault cause = (m.faultShown cause).reqSafeList [32, 33, 34, 35, 36, 37, 38, 39] 5 :=
  if_neg (by rw [← Mod.faultShown, m.running_faultShown, h]; decide)

theorem Mod.fault_faultShown : (m.faultShown cause).flag F.SAFE_STATUS_FAULT = true := by
  rw [Mod.flag, Mod.faultShown, Mod.get_log_apart _ _ _ _ (by decide), Mod.get_set_apart _ _ (by decide), Mod.get_set_self _ _ (by decide)]
  rfl

theorem Mod.cause_faultShown (hc : cause < 8) : (m.faultShown cause).get F.SAFE_STATUS_CAUSE = cause := by
  rw [Mod.faultShown, Mod.get_log_apart _ _ _ _ (by decide), Mod.get_set_self _ _ (by decide)]
  exact Nat.mod_eq_of_lt hc

theorem safetyFaulted_running (hc : cause < 8) (h : m.running = true) : SafetyFaulted m (m.safetyFault cause) cause := by
  rw [m.safetyFault_running cause h]
  have hbar := Only.faultBarred_faultShown m cause
  have hstop := Only.enterStopped (m.faultBarred cause)
  have hst : (m.faultBarred cause).st = m.st := Eq.trans (hbar.get (by decide)) ((Only.faultShown m cause).get (by decide))
  have hstops := stops_enterStopped (m.faultBarred cause)
  rw [Stops, hst] at hstops
  refine ⟨?_, ?_, fun _ => hstops, fun hidle => absurd (h.symm.trans hidle) (by decide)⟩
  · rw [hstop.flag (by decide), hbar.flag (by decide), Mod.fault_faultShown]
  · rw [hstop.get (by decide), hbar.get (by decide), Mod.cause_faultShown m cause hc]

theorem safetyFaulted_idle (hc : cause < 8) (h : m.running = false) : SafetyFaulted m (m.safetyFault cause) cause := by
  rw [m.safetyFault_idle cause h]
  have hreq := Only.reqSafeList (m.faultShown cause) [32, 33, 34, 35, 36, 37, 38, 39] 5
  have hlogs : ((m.faultShown cause).reqSafeList [32, 33, 34, 35, 36, 37, 38, 39] 5).logs = (m.faultShown cause).logs :=
    hreq.part .logs (by decide)
  refine ⟨?_, ?_, fun hrun => absurd (h.symm.trans hrun) (by decide), fun _ => ⟨?_, ?_, fun o hlo hhi => ?_⟩⟩
  · rw [hreq.flag (by simp), Mod.fault_faultShown]
  · rw [hreq.get (by simp), Mod.cause_faultShown m cause hc]
  · exact Eq.trans (hreq.get (by simp)) ((Only.faultShown m cause).get (by decide))
  · rw [Logs, hlogs]
    exact logs_log_congr rfl rfl ..
  · refine Mod.req_reqSafeList _ _ _ _ (Or.inl ?_)
    simp only [List.mem_cons, List.not_mem_nil, or_false]
    omega

theorem Only.safetyFault : Only stopParts faultRegs m (m.safetyFault cause) := by
  have hshown : Only stopParts faultRegs m (m.faultShown cause) := (Only.faultShown m cause).weaken (by decide) (by decide)
  cases h : m.running with
  | true =>
    rw [m.safetyFault_running cause h]
    exact (hshown.trans ((Only.faultBarred_faultShown m cause).weaken (by decide) (by decide))).trans
      ((Only.enterStopped _).weaken (List.Subset.refl _) (by decide))
  | false =>
    rw [m.safetyFault_idle cause h]
    exact hshown.trans ((Only.reqSafeList ..).weaken (by decide) (List.nil_subset _))

theorem safetyFaulted (hc : cause < 8) : SafetyFaulted m (m.safetyFault cause) cause := by
  cases h : m.running with
  | true => exact safetyFaulted_running m cause hc h
  | false => exact safetyFaulted_idle m cause hc h

end

/-! ### O25 -/

/-- Settles O25: every change of an input or a latch through `jackFollows_jackEval`, the reset of all through what each entry's reset keeps. -/
theorem jackPathFollowsInputsAndLatches : Obligations.JackPathFollowsInputsAndLatches := by
  unfold Obligations.JackPathFollowsInputsAndLatches
  intro s i k level h e inp _ hlen
  refine ⟨fun hen => ?_, fun hen he hms hlat hcond => ?_, fun hen he hsafe hmay hlat hcond => ?_,
    fun hen he hsafe hmay hroom hlat hcond => ?_, fun he hsafe hmay hroom hlat => ?_, fun he hsafe hmay => ?_, fun hen hmay => ?_, fun hon => ?_⟩
  case refine_1 =>
    have hinput : Only [.jack] [] s.m { s.m with jack := { s.m.jack with inputs := inp } } := Only.of_put rfl
    exact Does.of_onMod (exec_jackInputChange i level s) rfl
      ⟨(jackFollows_jackEval (m := { s.m with jack := { s.m.jack with inputs := inp } }) hlen hen).of_only
        (hinput.weaken (by decide) (List.nil_subset _)) rfl, (hinput.weaken (by decide) (List.nil_subset _)).trans (Only.jackEval hlen)⟩
  case refine_2 =>
    have hfollows := jackFollows_jackFreed hlen hen k.val
    obtain ⟨hact, hended⟩ := hfollows.ended k (by rwa [he]) (contains_filter_ne _ _)
    refine Does.of_onMod (m' := s.m.jackFreed k.val) (exec_jackReleaseTimeout k s) ?_ ⟨hfollows, hended, hact, Only.jackFreed hlen k.val⟩
    simp only [he, if_neg hms]
    exact Mod.jackRelease_held he hlat hcond
  case refine_3 =>
    have hfollows := jackFollows_jackFreed hlen hen k.val
    exact Does.of_onMod (exec_jackReset h k s) ((Mod.jackReset_plain he hsafe hmay).trans (Mod.jackRelease_held he hlat hcond))
      ⟨hfollows, (hfollows.ended k (by rwa [he]) (contains_filter_ne _ _)).2, Only.jackFreed hlen k.val⟩
  case refine_4 =>
    have hrec := Only.changeAct s.m 3 h.toNat k.val k.val (jReleasable s.m k.val)
    generalize hm : s.m.changeAct 3 h.toNat k.val k.val (jReleasable s.m k.val) = m at hrec
    have hjack : m.jack = s.m.jack := hrec.part .jack (by decide)
    have hplan : m.plan = s.m.plan := hrec.part .plan (by decide)
    have htable : m.jackTable = s.m.jackTable := by rw [Mod.jackTable, hplan, ← Mod.jackTable]
    have hfollows := jackFollows_jackFreed (m := m) (by rwa [htable]) (by rwa [hjack]) k.val
    have hfrom := hfollows.of_only (hrec.weaken (by decide) (List.Subset.refl _)) (by rw [hjack])
    rw [hjack] at hfrom
    refine Does.of_onMod (m' := m.jackFreed k.val) (exec_jackReset h k s) ?_
      ⟨hfrom, (hfrom.ended k (by rwa [he]) (contains_filter_ne _ _)).2,
        (hrec.weaken (by decide) (by decide)).trans (Only.jackFreed (by rwa [htable]) k.val)⟩
    rw [Mod.jackReset_safety he hsafe hmay hroom, hm]
    exact Mod.jackRelease_held (by rwa [htable]) (by rwa [hjack]) (by rwa [hjack])
  case refine_5 =>
    have hno : jReleasable s.m k.val = false := by simp only [jReleasable, he, hlat, Bool.false_and]
    have hrec := Only.changeAct s.m 3 h.toNat k.val k.val false
    have hjack : (s.m.changeAct 3 h.toNat k.val k.val false).jack = s.m.jack := hrec.part .jack (by decide)
    refine Does.of_onMod (exec_jackReset h k s) ?_ ⟨rfl, hrec⟩
    rw [Mod.jackReset_safety he hsafe hmay hroom, hno]
    exact Mod.jackRelease_free (by rwa [hjack])
  case refine_6 => exact exec_of_onMod_unchanged (exec_jackReset h k s) (Mod.jackReset_locked he hsafe hmay)
  case refine_7 =>
    obtain ⟨hkeeps, hended⟩ := jackResetEntries hlen hen hmay (List.range s.m.jackTable.length)
    refine Does.of_onMod (exec_jackResetAll h s) (s.m.jackResetAll_eq h.toNat) ⟨hkeeps.inputs, fun j hj => hended j ?_ hj, hkeeps.only⟩
    obtain ⟨e, he, -⟩ := (Option.any_eq_true ..).1 hj
    exact List.mem_range.2 (List.getElem?_eq_some_iff.1 he).1
  case refine_8 => exact Does.of_onMod (exec_jackCompare s) (if_pos hon) ⟨safetyFaulted s.m 2 (by decide), Only.safetyFault s.m 2⟩

end Sys2Proof.Machine

end

/-! PROOFS. The family 06_building_time_and_launch.md: the log, time and calendar commands (O51). -/

section

namespace Sys2Proof.Machine

/-! ### A time set (R156) -/

theorem Mod.wantStep_atOnce {m : Mod} (o : Int) (h : m.stepAtOnce = true) : m.wantStep o = m.applyStep o := if_pos h

/-- A step that waits for the swap window. -/
def Mod.stepWaits (m : Mod) (o : Int) : Mod := ({ m with clk := { m.clk with stepPending := some o } }).set F.TIME_STATUS_STEP_PENDING 1

theorem Mod.wantStep_waits {m : Mod} (o : Int) (h : m.stepAtOnce = false) (hen : m.flag F.TIME_CFG_STEP_EN = true) :
    m.wantStep o = m.stepWaits o := (if_neg (by simp [h])).trans (if_pos hen)

theorem Mod.wantStep_slews {m : Mod} (o : Int) (h : m.stepAtOnce = false) (hen : m.flag F.TIME_CFG_STEP_EN = false) :
    m.wantStep o = m.set F.TIME_STATUS_SLEWING 1 := (if_neg (by simp [h])).trans (if_neg (by simp [hen]))

theorem Only.stepWaits (m : Mod) (o : Int) : Only [.clk] [F.TIME_STATUS_STEP_PENDING] m (m.stepWaits o) :=
  ((Only.unchanged m).put_mem (m'' := { m with clk := { m.clk with stepPending := some o } }) .clk (by decide) rfl).set_mem _ (by decide)

/-- An offset of whole nanoseconds moves building time by them and leaves the fraction. -/
theorem Mod.clk_applyStep_ns (m : Mod) (k : Int) : (m.applyStep (32 * k)).clk =
    { m.clk with ns := ofInt 64 (m.clk.ns + (m.clk.frac / 2 ^ 32 : Nat) + k), frac := m.clk.frac % 2 ^ 32, stepPending := none } := by
  have hx : ((m.clk.ns * 2 ^ 32 + m.clk.frac : Nat) : Int) + 32 * k * 2 ^ 27 = (m.clk.frac : Int) + 2 ^ 32 * (m.clk.ns + k) := by
    push_cast
    ring
  have hdiv : ((m.clk.frac : Int) + 2 ^ 32 * (m.clk.ns + k)) / 2 ^ 32 = m.clk.ns + (m.clk.frac / 2 ^ 32 : Nat) + k := by
    rw [Int.add_mul_ediv_left _ _ (by decide)]
    push_cast
    ring
  have hmod : (((m.clk.frac : Int) + 2 ^ 32 * (m.clk.ns + k)) % 2 ^ 32).toNat = m.clk.frac % 2 ^ 32 := by
    rw [Int.add_mul_emod_self_left]
    exact Int.toNat_natCast (m.clk.frac % 2 ^ 32)
  rw [Mod.clk_applyStep]
  simp only [hx, hdiv, hmod]

/-! ### The calendar read and staged (R423, R424) -/

theorem putBits_putBits (v lo w x y : Nat) : putBits (putBits v lo w x) lo w y = putBits v lo w y := by
  have hrest : putBits v lo w x - bits (putBits v lo w x) lo w * 2 ^ lo = v - bits v lo w * 2 ^ lo := by
    rw [bits_putBits_same, putBits, Nat.add_sub_cancel]
  rw [putBits, hrest, ← putBits]

theorem Mod.word_set_set (m : Mod) (f : Fld) (v w a : Nat) (hf : f.lo + f.width ≤ 32) :
    ((m.set f v).set f w).word a = (m.set f w).word a := by
  by_cases ha : a = f.addr
  · subst ha
    rw [Mod.word_set_self, Mod.word_set_self, Mod.word_set_self, BitVec.toNat_ofNat,
      Nat.mod_eq_of_lt (putBits_lt (m.word f.addr).isLt hf), putBits_putBits]
  · rw [Mod.word_set_addr _ _ ha, Mod.word_set_addr _ _ ha, Mod.word_set_addr _ _ ha]

section

variable (m : Mod)

/-- The time-out of an earlier freeze shown. -/
def Mod.timeoutShown : Mod := if m.rtc.timedOut || m.freezeOver then m.set F.RTC_STATUS_SHADOW_TO 1 else m

/-- The freeze ends. -/
def Mod.thawed : Mod := ({ m with rtc := { m.rtc with shadow := none } }).set F.RTC_STATUS_FROZEN 0

/-- The group as one instant. -/
def Mod.instant : Shadow := { cal := m.rtc.cal, wday := m.rtc.wday, sub := m.rtc.sub, at_ := m.clk.mono }

/-- A freeze of the present instant. -/
def Mod.instantFrozen : Mod := ({ m with rtc := { m.rtc with shadow := some m.instant, timedOut := false } }).set F.RTC_STATUS_FROZEN 1

theorem Mod.rtcFreeze_new {m : Mod} (h : m.rtc.shadow = none ∨ m.freezeOver = true) : m.rtcFreeze = m.timeoutShown.rtcCount.instantFrozen := by
  refine if_neg ?_
  obtain h | h := h <;> simp [h]

theorem Mod.rtcFreeze_held {m : Mod} {sh : Shadow} (h : m.rtc.shadow = some sh) (hover : m.freezeOver = false) : m.rtcFreeze = m :=
  if_pos (by simp [h, hover])

theorem Mod.rtc_rtcCount : m.rtcCount.rtc = { m.rtc with sub := m.rtcCount.rtc.sub } := by
  unfold Mod.rtcCount
  split <;> rfl

theorem Mod.regs_rtcCount : m.rtcCount.regs = m.regs := by
  unfold Mod.rtcCount
  split <;> rfl

theorem Only.rtcCount : Only [.rtc, .freeCtr] [] m m.rtcCount := by
  unfold Mod.rtcCount
  split
  · exact ((Only.unchanged m).put_mem (m'' := m.drawn) .freeCtr (by decide) rfl).put_mem .rtc (by decide) rfl
  · exact Only.unchanged m

theorem Mod.rtc_timeoutShown_rtcCount : m.timeoutShown.rtcCount.rtc = m.rtcCount.rtc := by
  unfold Mod.timeoutShown
  split
  · cases hrun : m.rtc.run <;> simp [Mod.rtcCount, hrun, Mod.free]
  · rfl

theorem Only.timeoutShown : Only [] [F.RTC_STATUS_SHADOW_TO] m m.timeoutShown := by
  unfold Mod.timeoutShown
  split
  · exact Only.set ..
  · exact Only.unchanged m

theorem Only.thawed : Only [.rtc] [F.RTC_STATUS_FROZEN] m m.thawed :=
  ((Only.unchanged m).put_mem (m'' := { m with rtc := { m.rtc with shadow := none } }) .rtc (by decide) rfl).set_mem _ (by decide)

theorem Only.instantFrozen : Only [.rtc] [F.RTC_STATUS_FROZEN] m m.instantFrozen :=
  ((Only.unchanged m).put_mem (m'' := { m with rtc := { m.rtc with shadow := some m.instant, timedOut := false } }) .rtc (by decide) rfl).set_mem _
    (by decide)

theorem Mod.frozen_thawed : m.thawed.flag F.RTC_STATUS_FROZEN = false := by
  rw [Mod.flag, Mod.thawed, Mod.get_set_self _ _ (by decide)]
  rfl

theorem Mod.word_congr {m m' : Mod} (h : m'.regs = m.regs) (a : Nat) : m'.word a = m.word a := by rw [Mod.word, Mod.word, h]

/-- The group read as one instant: the freeze begins and ends within the command. -/
def Mod.rtcGot : Mod := m.timeoutShown.rtcCount.instantFrozen.thawed

theorem Mod.word_rtcGot (a : Nat) : m.rtcGot.word a = (m.timeoutShown.set F.RTC_STATUS_FROZEN 0).word a := by
  have hregs : m.rtcGot.regs = ((m.timeoutShown.set F.RTC_STATUS_FROZEN 1).set F.RTC_STATUS_FROZEN 0).regs := by
    show fldSet (fldSet m.timeoutShown.rtcCount.regs F.RTC_STATUS_FROZEN 1) F.RTC_STATUS_FROZEN 0 = _
    rw [Mod.regs_rtcCount]
    rfl
  rw [Mod.word_congr hregs, Mod.word_set_set _ _ _ _ _ (by decide)]

theorem Mod.rtc_rtcGot : m.rtcGot.rtc = { m.rtc with sub := m.rtcCount.rtc.sub, shadow := none, timedOut := false } := by
  show { m.timeoutShown.rtcCount.rtc with shadow := none, timedOut := false } = _
  rw [Mod.rtc_timeoutShown_rtcCount, Mod.rtc_rtcCount]

theorem Only.rtcGot : Only [.rtc, .freeCtr] [F.RTC_STATUS_FROZEN, F.RTC_STATUS_SHADOW_TO] m m.rtcGot :=
  ((((Only.timeoutShown m).weaken (List.nil_subset _) (by decide)).trans ((Only.rtcCount _).weaken (List.Subset.refl _) (List.nil_subset _))).trans
    ((Only.instantFrozen _).weaken (by decide) (by decide))).trans ((Only.thawed _).weaken (by decide) (by decide))

theorem Mod.shadowTo_rtcGot :
    m.rtcGot.flag F.RTC_STATUS_SHADOW_TO = (m.rtc.timedOut || m.freezeOver || m.flag F.RTC_STATUS_SHADOW_TO) := by
  have hrest : Only [.rtc, .freeCtr] [F.RTC_STATUS_FROZEN] m.timeoutShown m.rtcGot :=
    (((Only.rtcCount _).weaken (List.Subset.refl _) (List.nil_subset _)).trans ((Only.instantFrozen _).weaken (by decide) (List.Subset.refl _))).trans
      ((Only.thawed _).weaken (by decide) (List.Subset.refl _))
  rw [hrest.flag (by decide), Mod.timeoutShown]
  cases m.rtc.timedOut || m.freezeOver
  · rfl
  · rw [if_pos rfl, Mod.flag, Mod.get_set_self _ _ (by decide)]
    rfl

end

/-! ### Dates staged and committed (R424, R432) -/

theorem Only.stage (m : Mod) (c : Cal) : Only [] stagingRegs m (m.stage c) := by
  unfold Mod.stage
  iterate 6 refine Only.set_mem ?_ _ (by decide)
  exact Only.unchanged m

theorem Mod.rtc_stage (m : Mod) (c : Cal) : (m.stage c).rtc = m.rtc := (Only.stage m c).part .rtc (by decide)

theorem stagedDate_stage (m : Mod) (c : Cal) : StagedDate (m.stage c) c := by
  simp (disch := decide) only [StagedDate, Mod.stage, List.all_cons, List.all_nil, Mod.get_set_apart, Mod.get_set_self, beq_self_eq_true,
    Bool.and_self]

/-- What leaves the staging registers leaves the staged date. -/
theorem StagedDate.of_only {m m' : Mod} {c : Cal} (h : StagedDate m c) {ps : List Part} {fs : List Fld} (hkept : Only ps fs m m')
    (hfs : ∀ g ∈ stagingRegs, ∀ f ∈ fs, Apart f g) : StagedDate m' c := by
  have hget (g : Fld) (hg : g ∈ stagingRegs) : m'.get g = m.get g := hkept.get (hfs g hg)
  rw [StagedDate, List.all_eq_true] at h ⊢
  intro p hp
  rw [hget p.1]
  · exact h p hp
  · simp only [List.mem_cons, List.not_mem_nil, or_false] at hp
    rcases hp with rfl | rfl | rfl | rfl | rfl | rfl <;> simp [stagingRegs]

/-- A possible date fits the staging registers. -/
theorem Mod.staged_stage (m : Mod) {c : Cal} (h : c.ok = true) : (m.stage c).staged = c := by
  obtain ⟨-, hyear, -, hmonth, -, hday, hhour, hmin, hsec⟩ := (Cal.ok_iff c).1 h
  have hlen : monthLen c.year c.month ≤ 31 := by
    unfold monthLen
    split_ifs <;> omega
  have hfield (v : Nat) {n : Nat} (w : Nat) (hv : v ≤ n) (hw : n < 2 ^ w) : v % 2 ^ w = v := Nat.mod_eq_of_lt (by omega)
  simp (disch := decide) only [Mod.staged, Mod.stage, Mod.get_set_apart, Mod.get_set_self]
  rw [hfield c.year _ hyear (by decide), hfield c.month _ hmonth (by decide), hfield c.day _ (hday.trans hlen) (by decide),
    hfield c.hour _ hhour (by decide), hfield c.min _ hmin (by decide), hfield c.sec _ hsec (by decide)]

theorem Only.rtcLoad (m : Mod) (c : Cal) : Only [.rtc] [F.RTC_STATUS_OSC_STOPPED, F.RTC_STATUS_BAD_DATE] m (m.rtcLoad c) :=
  (((Only.unchanged m).put_mem (m'' := { m with rtc := (m.rtcLoad c).rtc }) .rtc (by decide) rfl).set_mem _ (by decide)).set_mem _ (by decide)

theorem Mod.rtc_rtcLoad (m : Mod) (c : Cal) : (m.rtcLoad c).rtc = { m.rtc with cal := c, wday := weekday c, sub := 0, waits := none } := rfl

theorem Mod.oscStopped_rtcLoad (m : Mod) (c : Cal) : (m.rtcLoad c).flag F.RTC_STATUS_OSC_STOPPED = false := by
  rw [Mod.rtcLoad, Mod.flag_set_apart _ _ (by decide), Mod.flag, Mod.get_set_self _ _ (by decide)]
  rfl

theorem Mod.badDate_rtcLoad (m : Mod) (c : Cal) : (m.rtcLoad c).flag F.RTC_STATUS_BAD_DATE = false := by
  rw [Mod.rtcLoad, Mod.flag, Mod.get_set_self _ _ (by decide)]
  rfl

theorem Only.rtcLoad_stage (m : Mod) (c : Cal) :
    Only [.rtc] ([F.RTC_STATUS_OSC_STOPPED, F.RTC_STATUS_BAD_DATE] ++ stagingRegs) m ((m.stage c).rtcLoad c) :=
  ((Only.stage m c).weaken (List.nil_subset _) (List.subset_append_right _ _)).trans
    ((Only.rtcLoad ..).weaken (List.Subset.refl _) (List.subset_append_left _ _))

theorem Mod.rtc_rtcLoad_stage (m : Mod) (c : Cal) :
    ((m.stage c).rtcLoad c).rtc = { m.rtc with cal := c, wday := weekday c, sub := 0, waits := none } := by
  rw [Mod.rtc_rtcLoad, Mod.rtc_stage]

/-- A date that waits for the crystal's next edge. -/
def Mod.dateWaits (m : Mod) (c : Cal) : Mod := { m with rtc := { m.rtc with waits := some c } }

theorem Only.dateWaits (m : Mod) (c : Cal) : Only [.rtc] [] m (m.dateWaits c) := Only.of_put rfl

theorem Mod.rtc_dateWaits_stage (m : Mod) (c : Cal) : ((m.stage c).dateWaits c).rtc = { m.rtc with waits := some c } := by
  rw [Mod.dateWaits, Mod.rtc_stage]

section

variable {m : Mod} {c : Cal}

theorem Mod.rtcCommit_stage_runs (hc : c.bad = none) (hrun : m.rtc.run = true) : (m.stage c).rtcCommit = (m.stage c).rtcLoad c := by
  have hok : c.ok = true := by rw [Cal.ok, hc]; rfl
  have hrun : (m.stage c).rtc.run = true := by rwa [Mod.rtc_stage]
  simp only [Mod.rtcCommit, Mod.staged_stage m hok, hok, hrun, Bool.not_true, Bool.false_eq_true, if_false, if_true]

theorem Mod.rtcCommit_stage_stopped (hc : c.bad = none) (hrun : m.rtc.run = false) : (m.stage c).rtcCommit = (m.stage c).dateWaits c := by
  have hok : c.ok = true := by rw [Cal.ok, hc]; rfl
  have hrun : (m.stage c).rtc.run = false := by rwa [Mod.rtc_stage]
  simp only [Mod.rtcCommit, Mod.staged_stage m hok, hok, hrun, Bool.not_true, Bool.false_eq_true, if_false, Mod.dateWaits]

end

/-! ### The log commands (R417) -/

section

variable {s : State} {h : BitVec 10} {seq : BitVec 32} {x : Sess} {c : Cmd} {P : Mod → Prop} {a : Fin 16}

theorem executes_opLogRead_area (hr : Ready s h seq 0x0601 x c) (hload : s.m.planLoaded = true) (ha : par c.params 0 1 = a.val)
    (hpos : 1 ≤ par c.params 2 2) (hmax : par c.params 2 2 ≤ 42) (hmay : s.m.mayReadLog x a.val = true) :
    Executes (.opLogRead h seq) s h c (.ok (leBytes 4 (s.m.logs.first a) ++ leBytes 4 (s.m.logs.last a) ++
      (((s.m.logs.records a).filter (fun r => decide (par c.params 4 4 ≤ r.seq))).take (par c.params 2 2)).flatMap Rec.bytes))
      fun m => Only [] [] (begun s h seq) m := by
  refine Executes.of_opRow_planLoaded (exec_opLogRead h seq s) hr rfl x.bitAt_rAll hload ?_ (Only.refl _)
  have hcount : ¬(par c.params 2 2 = 0 ∨ 42 < par c.params 2 2) := by omega
  have hmay : (begun s h seq).mayReadLog x a.val = true := hmay
  simp only [ha, dif_pos a.isLt, if_neg hcount, hmay, Bool.not_true, Bool.false_eq_true, if_false]
  rfl

theorem executes_opLogRead_count (hr : Ready s h seq 0x0601 x c) (hload : s.m.planLoaded = true) (ha : par c.params 0 1 < 16)
    (hcount : par c.params 2 2 = 0 ∨ 42 < par c.params 2 2) :
    Executes (.opLogRead h seq) s h c (.fail 2 2) fun m => Only [] [] (begun s h seq) m :=
  Executes.of_opRow_planLoaded (exec_opLogRead h seq s) hr rfl x.bitAt_rAll hload ((dif_pos ha).trans (if_pos hcount)) (Only.refl _)

theorem executes_opLogRead_denied (hr : Ready s h seq 0x0601 x c) (hload : s.m.planLoaded = true) (ha : par c.params 0 1 < 16)
    (hpos : 1 ≤ par c.params 2 2) (hmax : par c.params 2 2 ≤ 42) (hmay : s.m.mayReadLog x (par c.params 0 1) = false) :
    Executes (.opLogRead h seq) s h c (.fail 6 0) fun m => Only [] [] (begun s h seq) m := by
  have hmay : (!(begun s h seq).mayReadLog x (par c.params 0 1)) = true := by
    rw [Bool.not_eq_true']
    exact hmay
  exact Executes.of_opRow_planLoaded (exec_opLogRead h seq s) hr rfl x.bitAt_rAll hload
    ((dif_pos ha).trans ((if_neg (by omega)).trans (if_pos hmay))) (Only.refl _)

/-! ### OP_TIME_SET (R156) -/

/-- The step by which the next whole second takes a number is of whole seconds. -/
theorem executes_opTimeSet (hr : Ready s h seq 0x0701 x c) (hrole : bitAt 12 x.roleBit = true)
    (hst : s.m.get F.TIME_STATUS_STATE = syExt ∨ s.m.get F.TIME_STATUS_STATE = syFree) (hsec : par c.params 0 8 * 1000000000 < 2 ^ 64)
    (hP : P ((begun s h seq).wantStep
      (32 * (((par c.params 0 8 : Int) - ((s.m.clk.ns / 1000000000 + 1 : Nat) : Int)) * 1000000000)))) :
    Executes (.opTimeSet h seq) s h c (.ok []) P := by
  have hst : ¬((begun s h seq).get F.TIME_STATUS_STATE ≠ syExt ∧ (begun s h seq).get F.TIME_STATUS_STATE ≠ syFree) := by
    rintro ⟨hext, hfree⟩
    exact hst.elim hext hfree
  have hunits (d : Int) : d * 32000000000 = 32 * (d * 1000000000) := by ring
  refine Executes.of_opRow (exec_opTimeSet h seq s) hr rfl hrole rfl
    ((if_neg hst).trans ((if_neg (Nat.not_le.2 hsec)).trans ?_)) hP
  rw [hunits]
  rfl

theorem executes_opTimeSet_range (hr : Ready s h seq 0x0701 x c) (hrole : bitAt 12 x.roleBit = true)
    (hst : s.m.get F.TIME_STATUS_STATE = syExt ∨ s.m.get F.TIME_STATUS_STATE = syFree) (hsec : 2 ^ 64 ≤ par c.params 0 8 * 1000000000) :
    Executes (.opTimeSet h seq) s h c (.fail 2 0) fun m => Only [] [] (begun s h seq) m := by
  have hst : ¬((begun s h seq).get F.TIME_STATUS_STATE ≠ syExt ∧ (begun s h seq).get F.TIME_STATUS_STATE ≠ syFree) := by
    rintro ⟨hext, hfree⟩
    exact hst.elim hext hfree
  exact Executes.of_opRow (exec_opTimeSet h seq s) hr rfl hrole rfl ((if_neg hst).trans (if_pos hsec)) (Only.refl _)

theorem executes_opTimeSet_badState (hr : Ready s h seq 0x0701 x c) (hrole : bitAt 12 x.roleBit = true)
    (hext : s.m.get F.TIME_STATUS_STATE ≠ syExt) (hfree : s.m.get F.TIME_STATUS_STATE ≠ syFree) :
    Executes (.opTimeSet h seq) s h c s.m.badState.2 fun m => Only [] [] (begun s h seq) m :=
  Executes.of_opRow (exec_opTimeSet h seq s) hr rfl hrole rfl (if_pos ⟨hext, hfree⟩) (Only.refl _)

/-! ### The RTC commands (R432) -/

/-- OP_RTC_GET answers the group as the freeze holds it and ends the freeze. -/
theorem executes_opRtcGet {frozen : Mod} {sh : Shadow} (hr : Ready s h seq 0x0702 x c) (hfreeze : (begun s h seq).rtcFreeze = frozen)
    (hsh : frozen.rtc.shadow = some sh) (hP : P frozen.thawed) : Executes (.opRtcGet h seq) s h c (.ok (leBytes 2 sh.cal.year ++
      leBytes 1 sh.cal.month ++ leBytes 1 sh.cal.day ++ leBytes 1 sh.cal.hour ++ leBytes 1 sh.cal.min ++ leBytes 1 sh.cal.sec ++
      leBytes 1 sh.wday ++ leBytes 1 sh.sub ++ leBytes 4 (frozen.thawed.word R.RTC_STATUS).toNat)) P := by
  refine Executes.of_opRow (exec_opRtcGet h seq s) hr rfl x.bitAt_rAll rfl ?_ hP
  simp only [hfreeze, hsh, Option.getD_some]
  rfl

theorem Mod.rtcCount_begun : (begun s h seq).rtcCount.rtc = s.m.rtcCount.rtc := by
  cases hrun : s.m.rtc.run <;> simp [Mod.rtcCount, begun, hrun, Mod.free]

theorem executes_opRtcGet_now (hr : Ready s h seq 0x0702 x c) (hnew : s.m.rtc.shadow = none ∨ s.m.freezeOver = true) :
    Executes (.opRtcGet h seq) s h c (.ok (leBytes 2 s.m.rtc.cal.year ++ leBytes 1 s.m.rtc.cal.month ++ leBytes 1 s.m.rtc.cal.day ++
      leBytes 1 s.m.rtc.cal.hour ++ leBytes 1 s.m.rtc.cal.min ++ leBytes 1 s.m.rtc.cal.sec ++ leBytes 1 s.m.rtc.wday ++
      leBytes 1 s.m.rtcCount.rtc.sub ++ leBytes 4 ((s.m.timeoutShown.set F.RTC_STATUS_FROZEN 0).word R.RTC_STATUS).toNat))
      fun m => m.flag F.RTC_STATUS_FROZEN = false ∧
        m.flag F.RTC_STATUS_SHADOW_TO = (s.m.rtc.timedOut || s.m.freezeOver || s.m.flag F.RTC_STATUS_SHADOW_TO) ∧
        m.rtc = { s.m.rtc with sub := s.m.rtcCount.rtc.sub, shadow := none, timedOut := false } ∧
        Only [.rtc, .freeCtr] [F.RTC_STATUS_FROZEN, F.RTC_STATUS_SHADOW_TO] (begun s h seq) m := by
  let b := begun s h seq
  have hcount : b.rtcCount.rtc = { s.m.rtc with sub := s.m.rtcCount.rtc.sub } := Mod.rtcCount_begun.trans (Mod.rtc_rtcCount s.m)
  have hnow : b.timeoutShown.rtcCount.rtc = { s.m.rtc with sub := s.m.rtcCount.rtc.sub } := (Mod.rtc_timeoutShown_rtcCount b).trans hcount
  have hshown : b.timeoutShown.regs = s.m.timeoutShown.regs := by
    show (if s.m.rtc.timedOut || s.m.freezeOver then _ else _ : Mod).regs = (if s.m.rtc.timedOut || s.m.freezeOver then _ else _ : Mod).regs
    split <;> rfl
  have hword : b.rtcGot.word R.RTC_STATUS = (s.m.timeoutShown.set F.RTC_STATUS_FROZEN 0).word R.RTC_STATUS := by
    rw [Mod.word_rtcGot]
    refine Mod.word_congr ?_ _
    rw [Mod.set, Mod.set, hshown]
  have hrep := executes_opRtcGet (P := fun m => m = b.rtcGot) hr (Mod.rtcFreeze_new (m := b) hnew) rfl rfl
  rw [show b.timeoutShown.rtcCount.instantFrozen.thawed = b.rtcGot from rfl, hword] at hrep
  simp only [Mod.instant, hnow] at hrep
  refine Executes.imp hrep ?_
  rintro m rfl
  refine ⟨Mod.frozen_thawed _, Mod.shadowTo_rtcGot b, ?_, Only.rtcGot b⟩
  rw [Mod.rtc_rtcGot, Mod.rtcCount_begun]
  rfl

theorem executes_opRtcGet_held {sh : Shadow} (hr : Ready s h seq 0x0702 x c) (hsh : s.m.rtc.shadow = some sh)
    (hover : s.m.freezeOver = false) : Executes (.opRtcGet h seq) s h c (.ok (leBytes 2 sh.cal.year ++ leBytes 1 sh.cal.month ++
      leBytes 1 sh.cal.day ++ leBytes 1 sh.cal.hour ++ leBytes 1 sh.cal.min ++ leBytes 1 sh.cal.sec ++ leBytes 1 sh.wday ++
      leBytes 1 sh.sub ++ leBytes 4 ((s.m.set F.RTC_STATUS_FROZEN 0).word R.RTC_STATUS).toNat))
      fun m => m.flag F.RTC_STATUS_FROZEN = false ∧ m.rtc = { s.m.rtc with shadow := none } ∧
        Only [.rtc] [F.RTC_STATUS_FROZEN] (begun s h seq) m :=
  executes_opRtcGet (frozen := begun s h seq) hr (Mod.rtcFreeze_held (m := begun s h seq) hsh hover) hsh
    ⟨Mod.frozen_thawed (begun s h seq), rfl, Only.thawed (begun s h seq)⟩

end

/-- The calendar of an OP_RTC_SET. -/
def paramCal (ps : List Byte) : Cal := ⟨par ps 0 2, par ps 2 1, par ps 3 1, par ps 4 1, par ps 5 1, par ps 6 1⟩

section

variable {s : State} {h : BitVec 10} {seq : BitVec 32} {x : Sess} {c : Cmd} {P : Mod → Prop}

theorem executes_opRtcSet_date (hr : Ready s h seq 0x0703 x c) (hrole : bitAt 12 x.roleBit = true) (hcal : (paramCal c.params).bad = none)
    (hP : P ((begun s h seq).stage (paramCal c.params)).rtcCommit) : Executes (.opRtcSet h seq) s h c (.ok []) P := by
  refine Executes.of_opRow (exec_opRtcSet h seq s) hr rfl hrole rfl ?_ hP
  change (match (paramCal c.params).bad with | some f => _ | none => _) = _
  rw [hcal]
  rfl

theorem executes_opRtcSet_bad {f : Nat} (hr : Ready s h seq 0x0703 x c) (hrole : bitAt 12 x.roleBit = true)
    (hcal : (paramCal c.params).bad = some f) (hP : P (((begun s h seq).stage (paramCal c.params)).set F.RTC_STATUS_BAD_DATE 1)) :
    Executes (.opRtcSet h seq) s h c (.fail 0x70 f) P := by
  refine Executes.of_opRow (exec_opRtcSet h seq s) hr rfl hrole rfl ?_ hP
  change (match (paramCal c.params).bad with | some f => _ | none => _) = _
  rw [hcal]
  rfl

end

/-- Settles O51, command by command: a set date through what a commit does, the group read through its freeze and its end. -/
theorem logTimeAndCalendarCommandsReadAndSet : Obligations.LogTimeAndCalendarCommandsReadAndSet := by
  unfold Obligations.LogTimeAndCalendarCommandsReadAndSet
  intro s h seq x c a sh fld cal now sec step free _
  let b := begun s h seq
  have hstaged : StagedDate (b.stage cal) cal := stagedDate_stage b cal
  refine ⟨fun hr hload => ?_, fun hr hload ha hpos hmax hmay => executes_opLogRead_area hr hload ha hpos hmax hmay, fun hr hload ha => ?_,
    fun hr hload ha hcount => executes_opLogRead_count hr hload ha hcount,
    fun hr hload ha hpos hmax hmay => executes_opLogRead_denied hr hload ha hpos hmax hmay, fun hr => ?_, fun hr hrole hst hsec hat => ?_,
    fun hr hrole hst hsec hat hen => ?_, fun hr hrole hst hsec hat hen => ?_, fun hr hrole hst hsec => executes_opTimeSet_range hr hrole hst hsec,
    fun hr hrole hext hfree => executes_opTimeSet_badState hr hrole hext hfree, fun hr hnew => ?_, fun hr hsh hover => ?_,
    fun hr hrole hcal hrun => ?_, fun hr hrole hcal hrun => ?_, fun hr hrole hcal => ?_⟩
  case refine_1 => exact Executes.of_opRow_planLoaded (exec_opLogAreas h seq s) hr rfl x.bitAt_rAll hload rfl (Only.refl _)
  case refine_2 =>
    exact Executes.of_opRow_planLoaded (exec_opLogRead h seq s) hr rfl x.bitAt_rAll hload (dif_neg (Nat.not_lt.2 ha)) (Only.refl _)
  case refine_3 => exact Executes.of_opRow (exec_opTimeGet h seq s) hr rfl x.bitAt_rAll rfl rfl (Only.refl _)
  case refine_4 =>
    refine executes_opTimeSet hr hrole hst hsec ?_
    have hclk := Mod.clk_applyStep_ns b step
    rw [Mod.wantStep_atOnce (m := begun s h seq) _ hat]
    refine ⟨?_, ?_, ?_, Mod.stepPending_applyStep .., rfl, ?_, (Only.applyStep b _).weaken (List.Subset.refl _) (by decide)⟩
    · rw [hclk]
      rfl
    · rw [hclk]
      rfl
    · rw [Mod.steps_applyStep, satNat_eq_min]
      rfl
    · have hlogs := logs_applyStep b (32 * step)
      rwa [Int.mul_ediv_cancel_left _ (by decide)] at hlogs
  case refine_5 =>
    refine executes_opTimeSet hr hrole hst hsec ?_
    rw [Mod.wantStep_waits (m := begun s h seq) _ hat hen]
    refine ⟨rfl, ?_, Only.stepWaits ..⟩
    rw [Mod.flag, Mod.stepWaits, Mod.get_set_self _ _ (by decide)]
    rfl
  case refine_6 =>
    refine executes_opTimeSet hr hrole hst hsec ?_
    rw [Mod.wantStep_slews (m := begun s h seq) _ hat hen]
    refine ⟨?_, Only.set ..⟩
    rw [Mod.flag, Mod.get_set_self _ _ (by decide)]
    rfl
  case refine_7 => exact executes_opRtcGet_now hr hnew
  case refine_8 => exact executes_opRtcGet_held hr hsh hover
  case refine_9 =>
    refine executes_opRtcSet_date hr hrole hcal ?_
    rw [show ((begun s h seq).stage (paramCal c.params)).rtcCommit = (b.stage cal).rtcLoad cal from Mod.rtcCommit_stage_runs hcal hrun]
    exact ⟨hstaged.of_only (Only.rtcLoad (b.stage cal) cal) (by decide), Mod.rtc_rtcLoad_stage b cal, Mod.oscStopped_rtcLoad (b.stage cal) cal,
      Mod.badDate_rtcLoad (b.stage cal) cal, Only.rtcLoad_stage b cal⟩
  case refine_10 =>
    refine executes_opRtcSet_date hr hrole hcal ?_
    rw [show ((begun s h seq).stage (paramCal c.params)).rtcCommit = (b.stage cal).dateWaits cal from Mod.rtcCommit_stage_stopped hcal hrun]
    have hwaits := Only.dateWaits (b.stage cal) cal
    exact ⟨hstaged.of_only hwaits (by decide), Mod.rtc_dateWaits_stage b cal,
      ((Only.stage b cal).weaken (List.nil_subset _) (List.Subset.refl _)).trans (hwaits.weaken (List.Subset.refl _) (List.nil_subset _))⟩
  case refine_11 =>
    refine executes_opRtcSet_bad hr hrole hcal ⟨hstaged.of_only (Only.set ..) (by decide), ?_, ?_⟩
    · rw [Mod.flag, Mod.get_set_self _ _ (by decide)]
      rfl
    · exact ((Only.stage b cal).weaken (List.Subset.refl _) (List.subset_append_right _ _)).set_mem _
        (List.mem_append_left _ (List.mem_singleton_self _))

end Sys2Proof.Machine

end

/-! PROOFS. The family 06_building_time_and_launch.md: the sources of building time measure, qualify and are lost (O23). -/

section

namespace Sys2Proof.Machine

/-! ### What the operations of the time unit change (R149 to R158) -/

/-- What steering leaves of the time unit: its sources, whether one has qualified since FREE, and the one that it steers from. -/
def Clk.steering (c : Clk) : Vector SrcSt 3 × Bool × Option Source := (c.src, c.everQual, c.selected)

/-- Building time, and the values that TIME_FREQ had. -/
def Clk.pace (c : Clk) : Nat × Nat × List (Nat × Int) := (c.ns, c.frac, c.freqs)

theorem Clk.recent_of_pace {c c' : Clk} (h : c'.pace = c.pace) : c'.recent = c.recent := by
  obtain ⟨hns, hrest⟩ := Prod.mk.inj h
  obtain ⟨-, hfreqs⟩ := Prod.mk.inj hrest
  rw [Clk.recent, Clk.recent, hns, hfreqs]

/-- The fields that show an announce. -/
def announceRegs : List Fld :=
  [F.TIME_GM_HI_ID_HI, F.TIME_GM_LO_ID_LO, F.TIME_UTC_OFFSET, F.TIME_UTC_VALID, F.TIME_UTC_LEAP61, F.TIME_UTC_LEAP59]

section

variable (m : Mod) (x : Source) (o : Int)

theorem Only.srcMap (f : SrcSt → SrcSt) : Only [.clk] [] m (m.srcMap x f) := Only.of_put rfl

theorem Mod.src_srcMap (f : SrcSt → SrcSt) : (m.srcMap x f).src x = f (m.src x) := Vector.getElem_set_self _

theorem Mod.src_srcMap_ne (f : SrcSt → SrcSt) {i : Fin 3} (hi : i ≠ srcIdx x) : (m.srcMap x f).clk.src[i] = m.clk.src[i] :=
  Vector.getElem_set_ne (srcIdx x).isLt i.isLt fun h => hi (Fin.ext h.symm)

theorem Mod.steering_setSync {new : Nat} (code : Nat) (h : new ≠ syFree) : (m.setSync new code).clk.steering = m.clk.steering := by
  rw [Mod.clk_setSync]
  simp only [if_neg h]
  split <;> rfl

theorem Mod.src_setSync (new code : Nat) : (m.setSync new code).clk.src = m.clk.src := by
  rw [Mod.clk_setSync]
  dsimp only
  split_ifs <;> rfl

theorem Mod.pace_setSync (new code : Nat) : (m.setSync new code).clk.pace = m.clk.pace := by
  rw [Mod.clk_setSync]
  dsimp only
  split_ifs <;> rfl

theorem Only.acqShow : Only [] [F.TIME_STATUS_SOURCE] m m.acqShow := Only.when (Only.set ..)

theorem Mod.clk_acqShow : m.acqShow.clk = m.clk := (Only.acqShow m).part .clk (by decide)

theorem Only.wantStep : Only [.clk, .met, .logs]
    [F.TIME_STATUS_STEP_PENDING, F.TIME_EVENTS_STEPS, F.TIME_STATUS_SLEWING, F.LOG_STATUS_WAB_FULL] m (m.wantStep o) := by
  unfold Mod.wantStep
  split
  · exact (Only.applyStep m o).weaken (List.Subset.refl _) (by decide)
  · split
    · exact (Only.stepWaits m o).weaken (by decide) (by decide)
    · exact (Only.set ..).weaken (List.nil_subset _) (by decide)

theorem Mod.steering_wantStep : (m.wantStep o).clk.steering = m.clk.steering := by
  unfold Mod.wantStep
  split_ifs <;> rfl

theorem Only.masterShow : Only [] announceRegs m (m.masterShow x) := by
  unfold Mod.masterShow
  split
  · refine Only.setB_mem (Only.setB_mem ?_ _ (by decide)) _ (by decide)
    refine (((Only.unchanged m).set_mem _ (by decide)).set_mem _ (by decide)).trans (Only.when ?_)
    exact ((Only.unchanged _).set_mem _ (by decide)).set_mem _ (by decide)
  · exact Only.unchanged m

theorem Mod.clk_masterShow : (m.masterShow x).clk = m.clk := (Only.masterShow m x).part .clk (by decide)

/-- The module steers from a source from now on. -/
def Mod.selecting : Mod := ({ m with clk := { m.clk with selected := some x, beyond := 0 } }).masterShow x

theorem Only.selecting : Only [.clk] announceRegs m (m.selecting x) :=
  ((Only.of_put (m' := { m with clk := { m.clk with selected := some x, beyond := 0 } }) (p := .clk) rfl).weaken (List.Subset.refl _)
    (List.nil_subset _)).trans ((Only.masterShow _ x).weaken (List.nil_subset _) (List.Subset.refl _))

theorem Mod.clk_selecting : (m.selecting x).clk = { m.clk with selected := some x, beyond := 0 } := Mod.clk_masterShow ..

theorem lockState_ne_syFree : lockState x ≠ syFree := by cases x <;> decide

/-- What a change to another source does: nothing where it steers already; else it shows its announce and, in LOCKED or EXTERNAL, changes the
state. -/
theorem Mod.switchTo_cases : (m.clk.selected = some x ∧ m.switchTo x = m) ∨ m.switchTo x = m.selecting x ∨
    ∃ new, new ≠ syFree ∧ m.switchTo x = (m.selecting x).setSync new (srcCode x) := by
  unfold Mod.switchTo
  split
  case isTrue hsel => exact .inl ⟨hsel, rfl⟩
  case isFalse =>
    dsimp only
    split
    · refine .inr (.inr ⟨_, ?_, rfl⟩)
      split_ifs
      · exact lockState_ne_syFree x
      · decide
    · exact .inr (.inl rfl)

theorem Only.switchTo : Only [.clk, .logs] (announceRegs ++ syncRegs) m (m.switchTo x) := by
  have hsel := (Only.selecting m x).weaken (qs := [.clk, .logs]) (by decide) (List.subset_append_left _ syncRegs)
  obtain ⟨-, h⟩ | h | ⟨new, -, h⟩ := m.switchTo_cases x
  · rw [h]
    exact Only.unchanged m
  · rw [h]
    exact hsel
  · rw [h]
    exact hsel.trans ((Only.setSync ..).weaken (List.Subset.refl _) (List.subset_append_right _ _))

theorem Mod.steering_switchTo : (m.switchTo x).clk.steering = (m.clk.src, m.clk.everQual, some x) := by
  obtain ⟨hsel, h⟩ | h | ⟨new, hnew, h⟩ := m.switchTo_cases x
  · rw [h, Clk.steering, hsel]
  · rw [h, Mod.clk_selecting]
    rfl
  · rw [h, Mod.steering_setSync _ _ hnew, Mod.clk_selecting]
    rfl

theorem Mod.pace_switchTo : (m.switchTo x).clk.pace = m.clk.pace := by
  obtain ⟨-, h⟩ | h | ⟨new, -, h⟩ := m.switchTo_cases x
  · rw [h]
  · rw [h, Mod.clk_selecting]
    rfl
  · rw [h, Mod.pace_setSync, Mod.clk_selecting]
    rfl

/-! ### TIME_FREQ (R149) -/

/-- The value that TIME_FREQ takes. -/
def Mod.steerFreq : Int :=
  let cur := toInt 32 (m.get F.TIME_FREQ_FREQ)
  let past := cur :: m.clk.recent.map (·.2)
  let lo := past.foldl (fun a x => max a (x - 100000)) (-20000000)
  let hi := past.foldl (fun a x => min a (x + 100000)) 20000000
  max (-20000000) (min 20000000 (max lo (min hi (cur + o.sign * ((m.free.toNat % 100001 : Nat) : Int)))))

/-- TIME_FREQ's present value becomes one of the last second, and a free value is drawn. -/
def Mod.freqNoted : Mod := { m with clk := { m.clk with freqs := (m.clk.ns, toInt 32 (m.get F.TIME_FREQ_FREQ)) :: m.clk.recent } }.drawn

theorem Mod.steer_eq : m.steer o = m.freqNoted.set F.TIME_FREQ_FREQ (ofInt 32 (m.steerFreq o)) := rfl

theorem Only.freqNoted : Only [.clk, .freeCtr] [] m m.freqNoted :=
  ((Only.unchanged m).put_mem (m'' := { m with clk := m.freqNoted.clk }) .clk (by decide) rfl).put_mem .freeCtr (by decide) rfl

theorem Only.steer : Only [.clk, .freeCtr] [F.TIME_FREQ_FREQ] m (m.steer o) := by
  rw [Mod.steer_eq]
  exact ((Only.freqNoted m).weaken (List.Subset.refl _) (List.nil_subset _)).set_mem _ (by decide)

theorem Mod.steering_steer : (m.steer o).clk.steering = m.clk.steering := by
  rw [Mod.steer_eq]
  rfl

theorem Mod.get_freq_steer : (m.steer o).get F.TIME_FREQ_FREQ = ofInt 32 (m.steerFreq o) := by
  rw [Mod.steer_eq, Mod.get_set_self _ _ (by decide)]
  exact Nat.mod_eq_of_lt (ofInt_lt 32 _)

theorem toInt_ofInt_of_range {v : Int} (hlo : -2147483648 ≤ v) (hhi : v < 2147483648) : toInt 32 (ofInt 32 v) = v := by
  unfold toInt ofInt
  norm_num
  split_ifs <;> omega

theorem Mod.steerFreq_range : -20000000 ≤ m.steerFreq o ∧ m.steerFreq o ≤ 20000000 := ⟨le_max_left .., max_le (by decide) (min_le_left ..)⟩

theorem Mod.toInt_freq_steer : toInt 32 ((m.steer o).get F.TIME_FREQ_FREQ) = m.steerFreq o := by
  obtain ⟨hlo, hhi⟩ := m.steerFreq_range o
  rw [Mod.get_freq_steer, toInt_ofInt_of_range (by omega) (by omega)]

/-- Where the last second saw no other value, TIME_FREQ moves by at most 1 ppm, and not away from what drives the offset towards zero. -/
theorem Mod.steerFreq_move (hrecent : m.clk.recent = []) (hlo : -20000000 ≤ toInt 32 (m.get F.TIME_FREQ_FREQ))
    (hhi : toInt 32 (m.get F.TIME_FREQ_FREQ) ≤ 20000000) : 0 ≤ o.sign * (m.steerFreq o - toInt 32 (m.get F.TIME_FREQ_FREQ)) ∧
      (m.steerFreq o - toInt 32 (m.get F.TIME_FREQ_FREQ)).natAbs ≤ 100000 := by
  have hby : m.free.toNat % 100001 ≤ 100000 := by omega
  unfold Mod.steerFreq
  rw [hrecent]
  simp only [List.map_nil, List.foldl_cons, List.foldl_nil]
  generalize toInt 32 (m.get F.TIME_FREQ_FREQ) = cur at hlo hhi ⊢
  generalize m.free.toNat % 100001 = by_ at hby ⊢
  obtain hsign | hsign | hsign : o.sign = 1 ∨ o.sign = 0 ∨ o.sign = -1 := by
    rcases lt_trichotomy o 0 with ho | ho | ho
    · exact .inr (.inr (Int.sign_eq_neg_one_of_neg ho))
    · exact .inr (.inl (by rw [ho]; rfl))
    · exact .inl (Int.sign_eq_one_of_pos ho)
  all_goals rw [hsign]
  all_goals omega

/-! ### Sync states after a measurement (R156 to R158) -/

/-- The fields of a wanted step and of a change of sync state. -/
def steeredRegs : List Fld := [F.TIME_STATUS_STEP_PENDING, F.TIME_EVENTS_STEPS, F.TIME_STATUS_SLEWING] ++ syncRegs

/-- What follows a measurement of the source that steers: a step is wanted or not, then the state changes, is shown, or stays. -/
theorem Mod.steered_cases : ∃ b : Bool, (∃ new, new ≠ syFree ∧ m.steered x o = (m.when b fun m => m.wantStep o).setSync new (srcCode x)) ∨
    m.steered x o = (m.when b fun m => m.wantStep o).acqShow ∨ m.steered x o = m.when b fun m => m.wantStep o := by
  refine ⟨decide (32000000 < o.natAbs), ?_⟩
  unfold Mod.steered
  dsimp only
  split
  · split
    · exact .inl ⟨_, lockState_ne_syFree x, rfl⟩
    · exact .inr (.inl rfl)
  · split
    · split
      · exact .inl ⟨_, by decide, rfl⟩
      · exact .inl ⟨_, lockState_ne_syFree x, rfl⟩
    · exact .inr (.inr rfl)

theorem Only.steered : Only [.clk, .met, .logs] steeredRegs m (m.steered x o) := by
  obtain ⟨b, h⟩ := m.steered_cases x o
  have hstep : Only [.clk, .met, .logs] steeredRegs m (m.when b fun m => m.wantStep o) :=
    Only.when ((Only.wantStep m o).weaken (List.Subset.refl _) (by decide))
  obtain ⟨new, -, h⟩ | h | h := h
  · exact h ▸ hstep.trans ((Only.setSync ..).weaken (by decide) (List.subset_append_right _ _))
  · exact h ▸ hstep.trans ((Only.acqShow _).weaken (List.nil_subset _) (by decide))
  · exact h ▸ hstep

theorem Mod.steering_steered : (m.steered x o).clk.steering = m.clk.steering := by
  obtain ⟨b, h⟩ := m.steered_cases x o
  have hstep : (m.when b fun m => m.wantStep o).clk.steering = m.clk.steering := by
    cases b
    · rfl
    · exact m.steering_wantStep o
  obtain ⟨new, hnew, h⟩ | h | h := h
  · rw [h, Mod.steering_setSync _ _ hnew, hstep]
  · rw [h, Mod.clk_acqShow, hstep]
  · rw [h, hstep]

end

/-- The sources by their index. -/
def srcAt (k : Fin 3) : Source := if k = 0 then .uplA else if k = 1 then .uplB else .pps

theorem srcAt_srcIdx (x : Source) : srcAt (srcIdx x) = x := by cases x <;> rfl

theorem srcIdx_srcAt (k : Fin 3) : srcIdx (srcAt k) = k := by
  revert k
  decide

theorem srcIdx_injective : Function.Injective srcIdx := Function.LeftInverse.injective srcAt_srcIdx

/-! ### The source that steers (R151, R360) -/

/-- The fields that say which sources are enabled and in which order they steer. -/
def selectionRegs : List Fld := [F.TIME_CFG_ORDER, F.TIME_PTP_EN_A, F.TIME_PTP_EN_B, F.TIME_PPS_IN_EN]

theorem Mod.bestSrc_congr {ps : List Part} {fs : List Fld} {m m' : Mod} (honly : Only ps fs m m') (htwin : .twin ∉ ps)
    (hregs : ∀ g ∈ selectionRegs, ∀ f ∈ fs, Apart f g) (hqual : ∀ x, (m'.src x).qual = (m.src x).qual) : m'.bestSrc = m.bestSrc := by
  have hfollower : m'.twin.follower = m.twin.follower := congrArg TwinSt.follower (honly.part .twin htwin)
  have horder : m'.get F.TIME_CFG_ORDER = m.get F.TIME_CFG_ORDER := honly.get (hregs _ (by decide))
  have henabled (x : Source) : srcEnabled m' x = srcEnabled m x := by
    cases x
    · exact honly.flag (hregs _ (by decide))
    · exact honly.flag (hregs _ (by decide))
    · exact honly.flag (hregs _ (by decide))
  simp only [Mod.bestSrc, Mod.ownSrc, hfollower, horder, henabled, hqual]

/-! ### Measurements (R149, R151, R156, R158) -/

section

variable (m : Mod) (x : Source) (o : Int) (good : Bool)

/-- A measurement taken by its source. -/
def Mod.taken : Mod := m.srcMap x fun s => { s with offset := o, good := if good then s.good + 1 else 0 }

/-- Acquisition begins where a good measurement comes in FREE or HOLDOVER. -/
def Mod.acquiring : Mod :=
  m.when ((m.get F.TIME_STATUS_STATE == syFree || m.get F.TIME_STATUS_STATE == syHold) && good && !m.twin.follower) fun m => m.setSync syAcq m.acqCode

/-- The offset shown, by the source that steers. -/
def Mod.offsetShown : Mod := (m.switchTo x).set F.TIME_OFFSET_OFFSET (offField o)

/-- TIME_OFFSET, TIME_FREQ and SLEWING follow the source that steers. -/
def Mod.slewing : Mod := ((m.offsetShown x o).steer o).setB F.TIME_STATUS_SLEWING (!near100 o)

/-- A measurement beyond 100 ns is counted, one within ends the count. -/
def Mod.beyondCounted : Mod := { m with clk := { m.clk with beyond := if near100 o then 0 else m.clk.beyond + 1 } }

theorem Mod.measured_steers {m : Mod} {x : Source} {o : Int} {good : Bool} (h : ((m.taken x o good).acquiring good).bestSrc = some x) :
    m.measured x o good = ((((m.taken x o good).acquiring good).slewing x o).beyondCounted o).steered x o := by
  change (match ((m.taken x o good).acquiring good).bestSrc with | none => _ | some y => _) = _
  rw [h]
  exact if_pos rfl

/-- A measurement of a source that does not steer shows at most the offset and SOURCE. -/
theorem Mod.measured_shows {m : Mod} {x : Source} {o : Int} {good : Bool} (h : ((m.taken x o good).acquiring good).bestSrc ≠ some x) :
    m.measured x o good = (m.taken x o good).acquiring good ∨
    m.measured x o good = (((m.taken x o good).acquiring good).set F.TIME_OFFSET_OFFSET (offField o)).acqShow ∨
    m.measured x o good = ((m.taken x o good).acquiring good).acqShow := by
  change (match ((m.taken x o good).acquiring good).bestSrc with | none => _ | some y => _) = _ ∨
    (match ((m.taken x o good).acquiring good).bestSrc with | none => _ | some y => _) = _ ∨
    (match ((m.taken x o good).acquiring good).bestSrc with | none => _ | some y => _) = _
  cases hbest : ((m.taken x o good).acquiring good).bestSrc with
  | none =>
    cases hfollower : ((m.taken x o good).acquiring good).twin.follower
    · exact .inr (.inl (if_neg (Bool.eq_false_iff.1 hfollower)))
    · exact .inl (if_pos hfollower)
  | some y =>
    have hne : y ≠ x := fun hy => h (hbest.trans (congrArg some hy))
    exact .inr (.inr (if_neg hne))

theorem Only.taken : Only [.clk] [] m (m.taken x o good) := Only.srcMap ..

theorem Mod.pace_taken : (m.taken x o good).clk.pace = m.clk.pace := rfl

theorem Only.acquiring : Only [.clk, .logs] syncRegs m (m.acquiring good) := Only.when (Only.setSync ..)

theorem Mod.steering_acquiring : (m.acquiring good).clk.steering = m.clk.steering := by
  unfold Mod.acquiring Mod.when
  split
  · exact Mod.steering_setSync _ _ (by decide)
  · rfl

theorem Mod.pace_acquiring : (m.acquiring good).clk.pace = m.clk.pace := by
  unfold Mod.acquiring Mod.when
  split
  · exact Mod.pace_setSync ..
  · rfl

/-- The module after a measurement, before what the source that steers does. -/
def Mod.begunMeasure : Mod := (m.taken x o good).acquiring good

theorem Only.begunMeasure : Only [.clk, .logs] syncRegs m (m.begunMeasure x o good) :=
  ((Only.taken m x o good).weaken (by decide) (List.nil_subset _)).trans (Only.acquiring _ good)

theorem Mod.clkSrc_begunMeasure : (m.begunMeasure x o good).clk.src = (m.taken x o good).clk.src :=
  (Prod.mk.inj (Mod.steering_acquiring (m.taken x o good) good)).1

theorem Mod.src_taken : (m.taken x o good).src x = { m.src x with offset := o, good := if good then (m.src x).good + 1 else 0 } :=
  Mod.src_srcMap ..

theorem Mod.qual_begunMeasure (y : Source) : ((m.begunMeasure x o good).src y).qual = (m.src y).qual := by
  rw [Mod.src, Mod.clkSrc_begunMeasure]
  by_cases hy : srcIdx y = srcIdx x
  · obtain rfl := srcIdx_injective hy
    have hqual : ((m.taken y o good).src y).qual = (m.src y).qual := by rw [Mod.src_taken]
    exact hqual
  · exact congrArg SrcSt.qual (Mod.src_srcMap_ne m x _ hy)

theorem Mod.bestSrc_begunMeasure : (m.begunMeasure x o good).bestSrc = m.bestSrc :=
  Mod.bestSrc_congr (Only.begunMeasure m x o good) (by decide) (by decide) (m.qual_begunMeasure x o good)

/-- The fields that show what steering does. -/
def slewRegs : List Fld := announceRegs ++ syncRegs ++ [F.TIME_OFFSET_OFFSET, F.TIME_FREQ_FREQ, F.TIME_STATUS_SLEWING]

theorem Only.offsetShown : Only [.clk, .logs] (announceRegs ++ syncRegs ++ [F.TIME_OFFSET_OFFSET]) m (m.offsetShown x o) :=
  ((Only.switchTo m x).weaken (List.Subset.refl _) (List.subset_append_left _ _)).set_mem _ (by decide)

theorem Only.slewing : Only [.clk, .logs, .freeCtr] slewRegs m (m.slewing x o) :=
  (((Only.offsetShown m x o).weaken (by decide) (by decide)).trans ((Only.steer _ o).weaken (by decide) (by decide))).setB_mem _ (by decide)

theorem Only.beyondCounted : Only [.clk] [] m (m.beyondCounted o) := Only.of_put rfl

theorem Mod.steering_slewing : (m.slewing x o).clk.steering = (m.clk.src, m.clk.everQual, some x) := by
  rw [Mod.slewing, Mod.setB_clk, Mod.steering_steer, Mod.offsetShown, Mod.set_clk, Mod.steering_switchTo]

theorem Mod.measured_of_bestSrc {m : Mod} {x : Source} (o : Int) (good : Bool) (h : m.bestSrc = some x) :
    m.measured x o good = (((m.begunMeasure x o good).slewing x o).beyondCounted o).steered x o :=
  Mod.measured_steers ((m.bestSrc_begunMeasure x o good).trans h)

theorem Only.measured : Only [.clk, .logs, .met, .freeCtr] timeRegs m (m.measured x o good) := by
  have hbegun := (Only.begunMeasure m x o good).weaken (qs := [.clk, .logs, .met, .freeCtr]) (gs := timeRegs) (by decide) (by decide)
  by_cases hbest : m.bestSrc = some x
  · rw [Mod.measured_of_bestSrc o good hbest]
    exact ((hbegun.trans ((Only.slewing _ x o).weaken (by decide) (by decide))).trans
      ((Only.beyondCounted _ o).weaken (by decide) (List.nil_subset _))).trans ((Only.steered _ x o).weaken (by decide) (by decide))
  · obtain h | h | h := Mod.measured_shows (m := m) (x := x) (o := o) (good := good) (by rwa [← m.bestSrc_begunMeasure x o good] at hbest)
    · exact h ▸ hbegun
    · exact h ▸ (hbegun.set_mem _ (by decide)).trans ((Only.acqShow _).weaken (List.nil_subset _) (by decide))
    · exact h ▸ hbegun.trans ((Only.acqShow _).weaken (List.nil_subset _) (by decide))

theorem Mod.steering_measured {m : Mod} {x : Source} (o : Int) (good : Bool) (h : m.bestSrc = some x) :
    (m.measured x o good).clk.steering = ((m.taken x o good).clk.src, m.clk.everQual, some x) := by
  have heverQual : (m.begunMeasure x o good).clk.everQual = m.clk.everQual :=
    (Prod.mk.inj (Prod.mk.inj (Mod.steering_acquiring (m.taken x o good) good)).2).1
  rw [Mod.measured_of_bestSrc o good h, Mod.steering_steered]
  show ((m.begunMeasure x o good).slewing x o).clk.steering = _
  rw [Mod.steering_slewing, Mod.clkSrc_begunMeasure, heverQual]

theorem Mod.clkSrc_measured : (m.measured x o good).clk.src = (m.taken x o good).clk.src := by
  by_cases hbest : m.bestSrc = some x
  · exact (Prod.mk.inj (Mod.steering_measured o good hbest)).1
  · obtain h | h | h := Mod.measured_shows (m := m) (x := x) (o := o) (good := good) (by rwa [← m.bestSrc_begunMeasure x o good] at hbest)
    · exact h ▸ m.clkSrc_begunMeasure x o good
    · rw [h, Mod.clk_acqShow]
      exact m.clkSrc_begunMeasure x o good
    · rw [h, Mod.clk_acqShow]
      exact m.clkSrc_begunMeasure x o good

end

section

variable {m : Mod} {x : Source} (o : Int) (good : Bool)

include good in
theorem Mod.offset_measured (h : m.bestSrc = some x) : (m.measured x o good).get F.TIME_OFFSET_OFFSET = offField o := by
  have hshown (n : Mod) : (n.offsetShown x o).get F.TIME_OFFSET_OFFSET = offField o :=
    (Mod.get_set_self _ _ (by decide)).trans (Nat.mod_eq_of_lt (ofInt_lt 32 _))
  rw [Mod.measured_of_bestSrc o good h, (Only.steered _ x o).get (by decide), (Only.beyondCounted _ o).get (by decide), Mod.slewing,
    Mod.get_setB_apart _ _ (by decide), (Only.steer _ o).get (by decide), hshown]

/-- TIME_FREQ after a measurement of the source that steers is what steering from before the measurement gives. -/
theorem Mod.freq_measured (h : m.bestSrc = some x) :
    toInt 32 ((m.measured x o good).get F.TIME_FREQ_FREQ) = ((m.begunMeasure x o good).offsetShown x o).steerFreq o := by
  rw [Mod.measured_of_bestSrc o good h, (Only.steered _ x o).get (by decide), (Only.beyondCounted _ o).get (by decide), Mod.slewing,
    Mod.get_setB_apart _ _ (by decide), Mod.toInt_freq_steer]

theorem Mod.src_measured :
    (m.measured x o good).src x = { m.src x with offset := o, good := if good then (m.src x).good + 1 else 0 } := by
  rw [Mod.src, Mod.clkSrc_measured]
  exact m.src_taken x o good

/-- A measurement shows as `Measured` says. -/
theorem Mod.measured_holds : Measured m (m.measured x o good) x o good := by
  have hsrc := Mod.src_measured (m := m) (x := x) o good
  refine ⟨by rw [hsrc], by rw [hsrc], by rw [hsrc], fun i hi => ?_, fun hbest => ⟨?_, Mod.offset_measured o good hbest, ?_⟩⟩
  · simp only [Mod.clkSrc_measured]
    exact Mod.src_srcMap_ne m x _ hi
  · exact (Prod.mk.inj (Prod.mk.inj (Mod.steering_measured o good hbest)).2).2
  · let n := (m.begunMeasure x o good).offsetShown x o
    have hpace : n.clk.pace = m.clk.pace := (Mod.pace_switchTo _ x).trans ((Mod.pace_acquiring _ good).trans (m.pace_taken x o good))
    have hfreq : n.get F.TIME_FREQ_FREQ = m.get F.TIME_FREQ_FREQ := by
      rw [(Only.offsetShown _ x o).get (by decide), (Only.begunMeasure m x o good).get (by decide)]
    obtain ⟨hlo, hhi⟩ := n.steerFreq_range o
    rw [Mod.freq_measured o good hbest]
    refine ⟨hlo, hhi, fun hrecent hmin hmax => ?_⟩
    rw [← Clk.recent_of_pace hpace] at hrecent
    rw [← hfreq] at hmin hmax ⊢
    exact n.steerFreq_move o hrecent hmin hmax

end

theorem Measured.of_edge {m m' : Mod} {o : Int} {good : Bool} (e : Nat)
    (h : Measured (m.srcMap .pps fun s => { s with lastEdge := some e }) m' .pps o good) : Measured m m' .pps o good := by
  let n := m.srcMap .pps fun s => { s with lastEdge := some e }
  have hsrc : n.src .pps = { m.src .pps with lastEdge := some e } := Mod.src_srcMap ..
  have hbest : n.bestSrc = m.bestSrc := Mod.bestSrc_congr (Only.srcMap ..) (by decide) (fun _ _ _ hf => nomatch hf) fun y => by
    cases y
    case pps => rw [hsrc]
    all_goals exact congrArg SrcSt.qual (Mod.src_srcMap_ne m .pps _ (by decide))
  obtain ⟨hoffset, hgood, hqual, hothers, hsteers⟩ := h
  rw [hsrc] at hgood hqual
  rw [hbest] at hsteers
  exact ⟨hoffset, hgood, hqual, fun i hi => (hothers i hi).trans (Mod.src_srcMap_ne m .pps _ hi), hsteers⟩

/-- An edge is good 1 s ± 1 µs after the one before it. -/
def edgeGood (e : Nat) (last : Option Nat) : Bool :=
  match last with
  | some l => decide ((e : Int) - l - 32000000000 ≤ 32000 ∧ -32000 ≤ (e : Int) - l - 32000000000)
  | none => false

theorem edgeGood_eq_any (e : Nat) (last : Option Nat) : edgeGood e last =
    last.any (fun l => decide ((e : Int) - l - 32000000000 ≤ 32000 ∧ -32000 ≤ (e : Int) - l - 32000000000)) := by cases last <;> rfl

/-- An edge of the PPS input at `e` taken for the whole second at `near`. -/
def Mod.edgeMeasured (m : Mod) (e near : Nat) : Mod :=
  (m.srcMap .pps fun s => { s with lastEdge := some e }).measured .pps ((near : Int) - e) (edgeGood e (m.src .pps).lastEdge)

/-! ### A source qualifies (R153, R156) -/

section

variable (m : Mod) (y : Source)

/-- A source that has qualified. -/
def Mod.qualMarked : Mod :=
  let m := (m.srcMap y fun s => { s with qual := true }).set (qualFld y) 1
  { m with clk := { m.clk with everQual := true } }

/-- The first qualification after FREE wants a step. -/
def Mod.firstStepped (first : Bool) : Mod := (m.qualMarked y).when first fun n => n.wantStep ((m.qualMarked y).src y).offset

theorem Only.qualMarked : Only [.clk] [qualFld y] m (m.qualMarked y) :=
  (((Only.srcMap m y _).weaken (List.Subset.refl _) (List.nil_subset _)).set_mem _ (List.mem_singleton_self _)).put_mem .clk (by decide) rfl

theorem Mod.src_qualMarked : (m.qualMarked y).src y = { m.src y with qual := true } := by
  rw [← Mod.src_srcMap m y fun s => { s with qual := true }]
  rfl

theorem Mod.src_qualMarked_ne {i : Fin 3} (hi : i ≠ srcIdx y) : (m.qualMarked y).clk.src[i] = m.clk.src[i] := by
  rw [← Mod.src_srcMap_ne m y (fun s => { s with qual := true }) hi]
  rfl

theorem Mod.stepAtOnce_qualMarked : (m.qualMarked y).stepAtOnce = m.stepAtOnce := by
  have honly := Only.qualMarked m y
  have hst : (m.qualMarked y).st = m.st := honly.get (by cases y <;> decide)
  have hplan : (m.qualMarked y).planLoaded = m.planLoaded := congrArg not (honly.flag (by cases y <;> decide))
  rw [Mod.stepAtOnce, Mod.stepAtOnce, hst, hplan]

theorem Only.firstStepped (first : Bool) : Only [.clk, .logs, .met] ([qualFld y] ++ timeRegs) m (m.firstStepped y first) :=
  ((Only.qualMarked m y).weaken (by decide) (List.subset_append_left _ _)).trans
    (Only.when (((Only.wantStep ..).weaken (gs := timeRegs) (by decide) (by decide)).weaken (List.Subset.refl _) (List.subset_append_right _ _)))

theorem Mod.steering_firstStepped (first : Bool) : (m.firstStepped y first).clk.steering = (m.qualMarked y).clk.steering := by
  cases first
  · rfl
  · exact Mod.steering_wantStep ..

/-- The state and SOURCE after a qualification, for an offset of the source. -/
def Mod.qualShown (o : Int) (first : Bool) : Mod :=
  if m.bestSrc = some y then
    let m := m.switchTo y
    if m.get F.TIME_STATUS_STATE = syAcq ∧ (near100 o ∨ (first ∧ m.stepAtOnce)) then m.setSync (lockState y) (srcCode y) else m.acqShow
  else m.acqShow

theorem Mod.qualShown_cases (o : Int) (first : Bool) : m.qualShown y o first = m.acqShow ∨ m.qualShown y o first = (m.switchTo y).acqShow ∨
    m.qualShown y o first = (m.switchTo y).setSync (lockState y) (srcCode y) := by
  unfold Mod.qualShown
  split
  · dsimp only
    split
    · exact .inr (.inr rfl)
    · exact .inr (.inl rfl)
  · exact .inl rfl

theorem Only.qualShown (o : Int) (first : Bool) : Only [.clk, .logs] (announceRegs ++ syncRegs) m (m.qualShown y o first) := by
  have hswitch := Only.switchTo m y
  have hshow (n : Mod) : Only [.clk, .logs] (announceRegs ++ syncRegs) n n.acqShow :=
    (Only.acqShow n).weaken (List.nil_subset _) (by decide)
  obtain h | h | h := m.qualShown_cases y o first
  · exact h ▸ hshow m
  · exact h ▸ hswitch.trans (hshow _)
  · exact h ▸ hswitch.trans ((Only.setSync ..).weaken (List.Subset.refl _) (List.subset_append_right _ _))

theorem Mod.src_everQual_qualShown (o : Int) (first : Bool) :
    (m.qualShown y o first).clk.src = m.clk.src ∧ (m.qualShown y o first).clk.everQual = m.clk.everQual := by
  have hswitch := m.steering_switchTo y
  obtain h | h | h := m.qualShown_cases y o first
  · rw [h, Mod.clk_acqShow]
    exact ⟨rfl, rfl⟩
  · rw [h, Mod.clk_acqShow]
    obtain ⟨hsrc, hrest⟩ := Prod.mk.inj hswitch
    exact ⟨hsrc, (Prod.mk.inj hrest).1⟩
  · rw [← Mod.steering_setSync _ (srcCode y) (lockState_ne_syFree y), ← h] at hswitch
    obtain ⟨hsrc, hrest⟩ := Prod.mk.inj hswitch
    exact ⟨hsrc, (Prod.mk.inj hrest).1⟩

theorem Mod.pace_qualShown (o : Int) (first : Bool) : (m.qualShown y o first).clk.pace = m.clk.pace := by
  obtain h | h | h := m.qualShown_cases y o first
  · rw [h, Mod.clk_acqShow]
  · rw [h, Mod.clk_acqShow, Mod.pace_switchTo]
  · rw [h, Mod.pace_setSync, Mod.pace_switchTo]

/-- The module after a source has qualified. -/
def Mod.qualified : Mod :=
  (m.firstStepped y (!m.clk.everQual && !m.twin.follower)).qualShown y ((m.qualMarked y).src y).offset (!m.clk.everQual && !m.twin.follower)

theorem Only.qualified : Only [.clk, .logs, .met] ([qualFld y] ++ timeRegs) m (m.qualified y) :=
  (Only.firstStepped m y _).trans
    (((Only.qualShown ..).weaken (gs := timeRegs) (by decide) (by decide)).weaken (List.Subset.refl _) (List.subset_append_right _ _))

theorem Mod.steering_qualMarked_of_qualified :
    (m.qualified y).clk.src = (m.qualMarked y).clk.src ∧ (m.qualified y).clk.everQual = true := by
  obtain ⟨hsrc, heverQual⟩ := Mod.src_everQual_qualShown (m.firstStepped y (!m.clk.everQual && !m.twin.follower)) y
    ((m.qualMarked y).src y).offset (!m.clk.everQual && !m.twin.follower)
  obtain ⟨hsrc', hrest⟩ := Prod.mk.inj (m.steering_firstStepped y (!m.clk.everQual && !m.twin.follower))
  exact ⟨hsrc.trans hsrc', heverQual.trans (Prod.mk.inj hrest).1⟩

theorem Mod.src_qualified : (m.qualified y).src y = { m.src y with qual := true } := by
  rw [Mod.src, (m.steering_qualMarked_of_qualified y).1]
  exact m.src_qualMarked y

theorem Mod.src_qualified_ne {i : Fin 3} (hi : i ≠ srcIdx y) : (m.qualified y).clk.src[i] = m.clk.src[i] := by
  simp only [(m.steering_qualMarked_of_qualified y).1]
  exact m.src_qualMarked_ne y hi

theorem Mod.qual_qualified : (m.qualified y).flag (qualFld y) = true := by
  have hmarked : (m.qualMarked y).flag (qualFld y) = true := by
    have hset : (m.qualMarked y).get (qualFld y) = ((m.srcMap y fun s => { s with qual := true }).set (qualFld y) 1).get (qualFld y) :=
      Mod.get_congr rfl _
    rw [Mod.flag, hset, Mod.get_set_self _ _ (by cases y <;> decide)]
    cases y <;> rfl
  have hstep : Only [.clk, .met, .logs] timeRegs (m.qualMarked y) (m.firstStepped y (!m.clk.everQual && !m.twin.follower)) :=
    Only.when ((Only.wantStep ..).weaken (List.Subset.refl _) (by decide))
  rw [Mod.qualified, (Only.qualShown ..).flag (by cases y <;> decide), hstep.flag (by cases y <;> decide), hmarked]

/-- The first qualification after FREE steps building time where the state lets it step at once. -/
theorem Mod.ns_qualified (hfirst : m.clk.everQual = false) (hown : m.twin.follower = false) (hat : m.stepAtOnce = true) :
    (m.qualified y).clk.ns = ofInt 64 ((((m.clk.ns * 2 ^ 32 + m.clk.frac : Nat) : Int) + (m.src y).offset * 2 ^ 27) / 2 ^ 32) := by
  have hfs : (!m.clk.everQual && !m.twin.follower) = true := by rw [hfirst, hown]; rfl
  have hoff : ((m.qualMarked y).src y).offset = (m.src y).offset := by rw [Mod.src_qualMarked]
  have hpace := Mod.pace_qualShown (m.firstStepped y true) y ((m.qualMarked y).src y).offset true
  rw [Mod.qualified, hfs, (Prod.mk.inj hpace).1]
  show ((m.qualMarked y).wantStep _).clk.ns = _
  rw [Mod.wantStep_atOnce _ ((m.stepAtOnce_qualMarked y).trans hat), hoff, Mod.clk_applyStep]
  rfl

end

/-- What SOURCE_QUALIFIED does, for the source of its index. -/
theorem does_sourceQualified {s : State} {k : Fin 3} {P : Mod → Prop} (hen : srcEnabled s.m (srcAt k) = true)
    (hqual : (s.m.src (srcAt k)).qual = false) (hgood : (if k = 2 then 8 else 16) ≤ (s.m.src (srcAt k)).good) (hP : P (s.m.qualified (srcAt k))) :
    Does (.sourceQualified k) s P := by
  fin_cases k
  all_goals exact Does.of_onMod (exec_sourceQualified _ s) (if_pos ⟨hen, Bool.not_eq_true' _ ▸ hqual, hgood⟩) hP

/-! ### A source is lost (R151, R153, R154, R158) -/

section

variable (m : Mod) (x : Source)

/-- A source that has lost its qualification, the loss counted where it was in use. -/
def Mod.srcLost : Mod :=
  ((m.srcMap x fun s => { s with qual := false, good := 0, lastEdge := none }).set (qualFld x) 0).when (m.clk.selected == some x && (m.src x).qual)
    fun m => m.addSat F.TIME_EVENTS_LOSSES 1

/-- A lost source is shown, a state that has no source left changes. -/
theorem Mod.loseSrc_cases : m.loseSrc x = m.srcLost x ∨ m.loseSrc x = (m.srcLost x).acqShow ∨
    m.loseSrc x = ((m.srcLost x).set F.TIME_STATUS_SLEWING 0).acqShow ∨
    ∃ new code, m.loseSrc x = ((m.srcLost x).set F.TIME_STATUS_SLEWING 0).setSync new code := by
  unfold Mod.loseSrc
  dsimp only
  split
  · exact .inl rfl
  · split
    · exact .inr (.inl rfl)
    · split
      · exact .inr (.inr (.inr ⟨_, _, rfl⟩))
      · split
        · split
          · exact .inr (.inr (.inr ⟨_, _, rfl⟩))
          · exact .inr (.inr (.inr ⟨_, _, rfl⟩))
        · exact .inr (.inr (.inl rfl))

theorem Mod.loseSrc_holds {m : Mod} {x : Source} (hown : (m.srcLost x).twin.follower = false) (hbest : (m.srcLost x).bestSrc = none)
    (hst : (m.srcLost x).get F.TIME_STATUS_STATE = syLocked ∨ (m.srcLost x).get F.TIME_STATUS_STATE = syExt) :
    ∃ code, m.loseSrc x = ((m.srcLost x).set F.TIME_STATUS_SLEWING 0).setSync syHold code := by
  have hbest : (m.srcLost x).bestSrc.isSome = false := by
    rw [hbest]
    rfl
  exact ⟨_, (if_neg (Bool.eq_false_iff.1 hown)).trans ((if_neg (Bool.eq_false_iff.1 hbest)).trans (if_pos hst))⟩

theorem Mod.clk_srcLost : (m.srcLost x).clk = (m.srcMap x fun s => { s with qual := false, good := 0, lastEdge := none }).clk := by
  rw [Mod.srcLost, Mod.clk_when, Mod.addSat_clk, Mod.set_clk, ite_self]

theorem Mod.src_srcLost : (m.srcLost x).src x = { m.src x with qual := false, good := 0, lastEdge := none } := by
  rw [Mod.src, Mod.clk_srcLost]
  exact Mod.src_srcMap m x _

theorem Mod.src_srcLost_ne {i : Fin 3} (hi : i ≠ srcIdx x) : (m.srcLost x).clk.src[i] = m.clk.src[i] := by
  simp only [Mod.clk_srcLost]
  exact Mod.src_srcMap_ne m x _ hi

theorem Mod.pace_srcLost : (m.srcLost x).clk.pace = m.clk.pace := by
  rw [Mod.clk_srcLost]
  rfl

theorem Only.srcLost : Only [.clk] [qualFld x, F.TIME_EVENTS_LOSSES] m (m.srcLost x) :=
  (((Only.srcMap m x _).weaken (List.Subset.refl _) (List.nil_subset _)).set_mem _ (List.mem_cons_self ..)).trans
    (Only.when ((Only.unchanged _).set_mem _ (List.mem_cons_of_mem _ (List.mem_singleton_self _))))

theorem Mod.qual_srcLost : (m.srcLost x).flag (qualFld x) = false := by
  have hcount (n : Mod) (c : Bool) : (n.when c fun m => m.addSat F.TIME_EVENTS_LOSSES 1).flag (qualFld x) = n.flag (qualFld x) :=
    (Only.when (Only.set ..)).flag (by cases x <;> decide)
  rw [Mod.srcLost, hcount, Mod.flag, Mod.get_set_self _ _ (by cases x <;> decide), Nat.zero_mod]
  rfl

theorem Mod.losses_srcLost : (m.srcLost x).get F.TIME_EVENTS_LOSSES =
    if m.clk.selected = some x ∧ (m.src x).qual = true then satNat F.TIME_EVENTS_LOSSES.width (m.get F.TIME_EVENTS_LOSSES + 1)
    else m.get F.TIME_EVENTS_LOSSES := by
  have hkept (n : Mod) : (n.set (qualFld x) 0).get F.TIME_EVENTS_LOSSES = n.get F.TIME_EVENTS_LOSSES :=
    Mod.get_set_apart _ _ (by cases x <;> decide)
  unfold Mod.srcLost Mod.when
  by_cases hsel : m.clk.selected = some x ∧ (m.src x).qual = true
  · rw [if_pos hsel, if_pos (by simpa using hsel), Mod.get_addSat_self _ _ (by decide), hkept]
    rfl
  · rw [if_neg hsel, if_neg (by simpa using hsel), hkept]
    rfl

/-- What a lost source shows beside its own registers. -/
def lossShownRegs : List Fld := [F.TIME_STATUS_STATE, F.TIME_STATUS_SOURCE, F.TIME_STATUS_SLEWING, F.LOG_STATUS_WAB_FULL]

theorem Only.loseSrc_srcLost : Only [.clk, .logs] lossShownRegs (m.srcLost x) (m.loseSrc x) := by
  have hslew : Only [.clk, .logs] lossShownRegs (m.srcLost x) ((m.srcLost x).set F.TIME_STATUS_SLEWING 0) :=
    (Only.unchanged _).set_mem _ (by decide)
  obtain h | h | h | ⟨new, code, h⟩ := m.loseSrc_cases x
  · exact h ▸ Only.unchanged _
  · exact h ▸ (Only.acqShow _).weaken (List.nil_subset _) (by decide)
  · exact h ▸ hslew.trans ((Only.acqShow _).weaken (List.nil_subset _) (by decide))
  · exact h ▸ hslew.trans ((Only.setSync ..).weaken (by decide) (by decide))

theorem Only.loseSrc : Only [.clk, .logs] (lossRegs x) m (m.loseSrc x) := by
  have hlost : [qualFld x, F.TIME_EVENTS_LOSSES] ⊆ lossRegs x := List.subset_append_left [_, _] lossShownRegs
  have hshown : lossShownRegs ⊆ lossRegs x := List.subset_append_right [_, _] lossShownRegs
  exact ((Only.srcLost m x).weaken (by decide) hlost).trans ((Only.loseSrc_srcLost m x).weaken (List.Subset.refl _) hshown)

theorem Mod.clkSrc_loseSrc : (m.loseSrc x).clk.src = (m.srcLost x).clk.src := by
  obtain h | h | h | ⟨new, code, h⟩ := m.loseSrc_cases x
  · rw [h]
  · rw [h, Mod.clk_acqShow]
  · rw [h, Mod.clk_acqShow]
    rfl
  · rw [h, Mod.src_setSync]
    rfl

theorem Mod.src_loseSrc : (m.loseSrc x).src x = { m.src x with qual := false, good := 0, lastEdge := none } := by
  rw [Mod.src, Mod.clkSrc_loseSrc]
  exact m.src_srcLost x

theorem Mod.bestSrc_loseSrc : (m.loseSrc x).bestSrc = (m.srcLost x).bestSrc :=
  Mod.bestSrc_congr (Only.loseSrc_srcLost m x) (by decide) (by decide) fun y => by rw [Mod.src, Mod.clkSrc_loseSrc, Mod.src]

/-- A loss shows as `SourceLost` says. -/
theorem Mod.sourceLost_loseSrc : SourceLost m (m.loseSrc x) x := by
  have hshown := Only.loseSrc_srcLost m x
  refine ⟨by rw [Mod.src_loseSrc], by rw [Mod.src_loseSrc], ?_, fun i hi => ?_, ?_, fun hown hbest hst => ?_⟩
  · rw [hshown.flag (by cases x <;> decide), Mod.qual_srcLost]
  · simp only [Mod.clkSrc_loseSrc]
    exact m.src_srcLost_ne x hi
  · rw [hshown.get (by decide), Mod.losses_srcLost]
  · have hlost := Only.srcLost m x
    have hstate : (m.srcLost x).get F.TIME_STATUS_STATE = m.get F.TIME_STATUS_STATE := hlost.get (by cases x <;> decide)
    have htwin : (m.srcLost x).twin.follower = m.twin.follower := congrArg TwinSt.follower (hlost.part .twin (by decide))
    have hns : (m.srcLost x).clk.ns = m.clk.ns := (Prod.mk.inj (m.pace_srcLost x)).1
    obtain ⟨code, h⟩ := Mod.loseSrc_holds (htwin.trans hown) ((m.bestSrc_loseSrc x).symm.trans hbest) (hstate.symm ▸ hst)
    have hne : ((m.srcLost x).set F.TIME_STATUS_SLEWING 0).get F.TIME_STATUS_STATE ≠ syHold := by
      rw [Mod.get_set_apart _ _ (by decide), hstate]
      rcases hst with hst | hst <;> rw [hst] <;> decide
    refine ⟨by rw [h, Mod.state_setSync _ _ _ (by decide)], ?_⟩
    rw [h, Mod.clk_setSync]
    simp only [if_neg hne, if_pos, if_neg (by decide : syHold ≠ syFree)]
    exact hns

end

theorem SourceLost.of_before {m m' : Mod} {x : Source} {f : SrcSt → SrcSt} (hqual : (f (m.src x)).qual = (m.src x).qual)
    (h : SourceLost (m.srcMap x f) m' x) : SourceLost m m' x := by
  obtain ⟨hq, hgood, hflag, hothers, hlosses, hhold⟩ := h
  rw [Mod.src_srcMap, hqual] at hlosses
  exact ⟨hq, hgood, hflag, fun i hi => (hothers i hi).trans (Mod.src_srcMap_ne m x f hi), hlosses, hhold⟩

/-- What shows an announce leaves a loss as it is. -/
theorem SourceLost.of_after {m n m' : Mod} {x : Source} (honly : Only [] masterRegs n m') (h : SourceLost m n x) : SourceLost m m' x := by
  have hclk : m'.clk = n.clk := honly.part .clk (by decide)
  have hbest : m'.bestSrc = n.bestSrc := Mod.bestSrc_congr honly (by decide) (by decide) fun y => by rw [Mod.src, hclk, Mod.src]
  have hqual : m'.flag (qualFld x) = n.flag (qualFld x) := honly.flag (by cases x <;> decide)
  have hlosses : m'.get F.TIME_EVENTS_LOSSES = n.get F.TIME_EVENTS_LOSSES := honly.get (by decide)
  have hstate : m'.get F.TIME_STATUS_STATE = n.get F.TIME_STATUS_STATE := honly.get (by decide)
  simp only [SourceLost, Mod.src, hclk, hbest, hqual, hlosses, hstate]
  exact h

/-! ### Announces (R152, R153, R171, R429) -/

theorem Only.utcRecord (m : Mod) : Only [] [whole (R.RTC_BKP 14), whole (R.RTC_BKP 15)] m m.utcRecord := by
  unfold Mod.utcRecord
  dsimp only
  split
  · exact ((Only.setWord m _ _).weaken (List.Subset.refl _) (by decide)).trans ((Only.setWord ..).weaken (List.Subset.refl _) (by decide))
  · exact Only.unchanged m

/-- The UTC record leaves what shows the master. -/
theorem MasterShown.utcRecord {m n : Mod} {x : Source} (h : MasterShown m n x) : MasterShown m n.utcRecord x := by
  have hrec := Only.utcRecord n
  have hclk : n.utcRecord.clk = n.clk := hrec.part .clk (by decide)
  have hget (f : Fld) (hf : f ∈ announceRegs) : n.utcRecord.get f = n.get f := hrec.get (by revert f; decide)
  have hflag (f : Fld) (hf : f ∈ announceRegs) : n.utcRecord.flag f = n.flag f := by rw [Mod.flag, Mod.flag, hget f hf]
  intro b hb
  rw [Mod.src, hclk] at hb
  obtain ⟨hhi, hlo, hutc, hvalid, hleap61, hleap59⟩ := h b hb
  exact ⟨(hget _ (by decide)).trans hhi, (hget _ (by decide)).trans hlo, (hget _ (by decide)).trans hutc, (hflag _ (by decide)).trans hvalid,
    (hflag _ (by decide)).trans hleap61, (hflag _ (by decide)).trans hleap59⟩

section

variable (m : Mod) (x : Source)

/-- An announce shown. -/
def Mod.announceSet (a : Announce) : Mod :=
  ((((m.set F.TIME_GM_HI_ID_HI (a.gm.toNat / 2 ^ 32)).set F.TIME_GM_LO_ID_LO a.gm.toNat).when a.utcValid fun m =>
    (m.set F.TIME_UTC_OFFSET a.utc.toNat).set F.TIME_UTC_VALID 1).setB F.TIME_UTC_LEAP61 a.leap61).setB F.TIME_UTC_LEAP59 a.leap59

theorem Mod.masterShow_of_master {m : Mod} {x : Source} {b : Nat × Announce} (h : (m.src x).master = some b) :
    m.masterShow x = m.announceSet b.2 := by
  unfold Mod.masterShow
  rw [h]
  rfl

theorem Mod.masterShow_shows : MasterShown m (m.masterShow x) x := by
  intro b hb
  rw [Mod.src, Mod.clk_masterShow] at hb
  have hhi : b.2.gm.toNat / 2 ^ 32 % 2 ^ 32 = b.2.gm.toNat / 2 ^ 32 := Nat.mod_eq_of_lt (by have := b.2.gm.isLt; omega)
  have hutc : b.2.utc.toNat % 2 ^ 16 = b.2.utc.toNat := Nat.mod_eq_of_lt b.2.utc.isLt
  rw [Mod.masterShow_of_master (x := x) hb]
  have hvalid (n : Mod) : (n.set F.TIME_UTC_VALID 1).flag F.TIME_UTC_VALID = true := Mod.flag_setB_self n true rfl (by decide)
  unfold Mod.announceSet
  cases b.2.utcValid
  all_goals
    simp (disch := decide) only [Mod.when, Bool.false_eq_true, if_true, if_false, Mod.flag_setB_self, Mod.flag_setB_apart, Mod.get_setB_apart,
      Mod.get_set_apart, Mod.flag_set_apart, Mod.get_set_self, Bool.true_or, Bool.false_or, hhi, hutc, hvalid, and_self]

/-- The grandmaster of the master that a source has chosen. -/
def Mod.grandmaster : Option (BitVec 64) := (m.src x).master.map fun b => b.2.gm

/-- The source had a grandmaster and has another one after an announce. -/
def Mod.gmChanged (m n : Mod) (x : Source) : Bool := (m.grandmaster x).isSome && m.grandmaster x != n.grandmaster x

/-- A master's announce heard. -/
def Mod.heard (sender : Nat) (a : Announce) : Mod := m.srcMap x fun s => { s with masters := mapPut sender a s.masters }

/-- The announce of the source in use is shown, and the UTC record follows. -/
def Mod.announceShown : Mod := (m.when (m.clk.selected == some x || m.clk.selected.isNone) fun m => m.masterShow x).utcRecord

theorem Only.announceShown : Only [] masterRegs m (m.announceShown x) :=
  (Only.when ((Only.masterShow m x).weaken (List.Subset.refl _) (by decide))).trans
    ((Only.utcRecord _).weaken (List.Subset.refl _) (by decide))

theorem Mod.clk_announceShown : (m.announceShown x).clk = m.clk := (Only.announceShown m x).part .clk (by decide)

theorem Mod.announceShown_shows {m : Mod} {x : Source} (h : m.clk.selected = some x ∨ m.clk.selected = none) :
    MasterShown m (m.announceShown x) x := by
  have hsel : (m.clk.selected == some x || m.clk.selected.isNone) = true := by rcases h with h | h <;> simp [h]
  rw [Mod.announceShown, hsel]
  exact (m.masterShow_shows x).utcRecord

end

section

variable (m : Mod) (x : Source) (sender : Nat) (a : Announce)

theorem Only.heard : Only [.clk] [] m (m.heard x sender a) := Only.srcMap ..

theorem Mod.src_heard :
    (m.heard x sender a).src x = { m.src x with masters := mapPut sender a (m.src x).masters } := Mod.src_srcMap ..

theorem Mod.grandmaster_heard : (m.heard x sender a).grandmaster x =
    (SrcSt.master { masters := mapPut sender a (m.src x).masters }).map fun b => b.2.gm := by
  rw [Mod.grandmaster, Mod.src_heard]
  rfl

theorem Only.announceShown_heard : Only [.clk] masterRegs m ((m.heard x sender a).announceShown x) :=
  ((Only.heard m x sender a).weaken (List.Subset.refl _) (List.nil_subset _)).trans
    ((Only.announceShown _ x).weaken (List.nil_subset _) (List.Subset.refl _))

theorem Only.announceShown_loseSrc_heard :
    Only [.clk, .logs] (masterRegs ++ lossRegs x) m (((m.heard x sender a).loseSrc x).announceShown x) :=
  (((Only.heard m x sender a).weaken (by decide) (List.nil_subset _)).trans
    ((Only.loseSrc _ x).weaken (List.Subset.refl _) (List.subset_append_right _ _))).trans
    ((Only.announceShown _ x).weaken (List.nil_subset _) (List.subset_append_left _ _))

theorem Mod.sourceLost_heard : SourceLost m ((m.heard x sender a).loseSrc x) x :=
  SourceLost.of_before (f := fun s => { s with masters := mapPut sender a s.masters }) rfl (Mod.sourceLost_loseSrc _ x)

end

theorem Mod.gmChanged_eq_false {m n : Mod} {x : Source} (h : m.grandmaster x = none ∨ m.grandmaster x = n.grandmaster x) :
    m.gmChanged n x = false := by
  rw [Mod.gmChanged]
  rcases h with h | h
  · rw [h]
    rfl
  · rw [h, bne_self_eq_false, Bool.and_false]

theorem Mod.gmChanged_eq_true {m n : Mod} {x : Source} (hold : m.grandmaster x ≠ none) (hne : m.grandmaster x ≠ n.grandmaster x) :
    m.gmChanged n x = true := by
  rw [Mod.gmChanged, Option.isSome_iff_ne_none.2 hold, bne_iff_ne.2 hne]
  rfl

section

variable {s : State} {u : Fin 2} {h : PtpHead} {a : Announce} {P : Mod → Prop}

/-- What an announce that is taken does. -/
theorem does_ptpAnnounce (htakes : s.m.ptpTakes u h = true) (hsteps : a.steps.toNat < 255)
    (hP : P (((s.m.heard (uplSrc u) h.sender.toNat a).when (s.m.gmChanged (s.m.heard (uplSrc u) h.sender.toNat a) (uplSrc u)) fun m =>
      m.loseSrc (uplSrc u)).announceShown (uplSrc u))) : Does (.ptpAnnounce u h a) s P :=
  Does.of_onMod (exec_ptpAnnounce u h a s) (if_pos (by rw [htakes, decide_eq_true hsteps]; rfl)) hP

/-- An announce that leaves the grandmaster as it is, or gives the first one, is shown. -/
theorem does_ptpAnnounce_same (htakes : s.m.ptpTakes u h = true) (hsteps : a.steps.toNat < 255)
    (hsame : s.m.gmChanged (s.m.heard (uplSrc u) h.sender.toNat a) (uplSrc u) = false)
    (hP : P ((s.m.heard (uplSrc u) h.sender.toNat a).announceShown (uplSrc u))) : Does (.ptpAnnounce u h a) s P := by
  refine does_ptpAnnounce htakes hsteps ?_
  rw [hsame]
  exact hP

/-- An announce that changes the grandmaster loses the source. -/
theorem does_ptpAnnounce_changed (htakes : s.m.ptpTakes u h = true) (hsteps : a.steps.toNat < 255)
    (hchanged : s.m.gmChanged (s.m.heard (uplSrc u) h.sender.toNat a) (uplSrc u) = true)
    (hP : P (((s.m.heard (uplSrc u) h.sender.toNat a).loseSrc (uplSrc u)).announceShown (uplSrc u))) : Does (.ptpAnnounce u h a) s P := by
  refine does_ptpAnnounce htakes hsteps ?_
  rw [hchanged]
  exact hP

theorem exec_ptpAnnounce_far (hsteps : 255 ≤ a.steps.toNat) :
    exec (.ptpAnnounce u h a) s = .next s := by
  refine exec_of_onMod_unchanged (exec_ptpAnnounce u h a s) (if_neg ?_)
  rw [decide_eq_false (Nat.not_lt.2 hsteps), Bool.and_false]
  decide

end

/-- Settles O23: measurements through `Measured`, losses through `SourceLost`, announces through what they show. -/
theorem timeSourcesMeasureQualifyAndAreLost : Obligations.TimeSourcesMeasureQualifyAndAreLost := by
  unfold Obligations.TimeSourcesMeasureQualifyAndAreLost
  intro s u k h a origin rx t delay peer x y off e near ms old new _
  refine ⟨fun htakes hmaster hrun => ?_, fun hen hrun => ?_, fun hen hqual hgood => ?_, fun htakes hsteps hsame hsel => ?_,
    fun htakes hsteps hold hne => ?_, fun hsteps => exec_ptpAnnounce_far hsteps, ?_, ?_, ?_, fun htakes hp2p hpeer => ?_⟩
  case refine_1 =>
    exact Does.of_onMod (exec_ptpSync u h origin rx s) (if_pos (by rw [htakes, hmaster, hrun]; rfl))
      ⟨Mod.measured_holds off (near100 off), Only.measured ..⟩
  case refine_2 =>
    refine Does.of_onMod (exec_tsyncInEdge t s) (if_pos (by rw [srcEnabled, hen, hrun]; rfl)) (m' := s.m.edgeMeasured e near) ⟨?_, ?_, ?_⟩
    · rw [← edgeGood_eq_any]
      exact (Mod.measured_holds ..).of_edge e
    · rw [Mod.edgeMeasured, Mod.src_measured, Mod.src_srcMap]
    · exact ((Only.srcMap s.m .pps _).weaken (by decide) (List.nil_subset _)).trans (Only.measured ..)
  case refine_3 =>
    have hk : srcIdx y = k := srcIdx_srcAt k
    exact does_sourceQualified hen hqual hgood ⟨s.m.src_qualified y, s.m.qual_qualified y, (s.m.steering_qualMarked_of_qualified y).2,
      fun i hi => s.m.src_qualified_ne y (hk ▸ hi), s.m.ns_qualified y, Only.qualified s.m y⟩
  case refine_4 =>
    rw [← s.m.grandmaster_heard] at hsame
    refine does_ptpAnnounce_same htakes hsteps (Mod.gmChanged_eq_false hsame)
      ⟨?_, Mod.announceShown_shows (m := s.m.heard x h.sender.toNat a) hsel, Only.announceShown_heard s.m x h.sender.toNat a⟩
    rw [Mod.src, Mod.clk_announceShown]
    exact s.m.src_heard x h.sender.toNat a
  case refine_5 =>
    rw [← s.m.grandmaster_heard] at hne
    refine does_ptpAnnounce_changed htakes hsteps (Mod.gmChanged_eq_true hold hne)
      ⟨?_, (s.m.sourceLost_heard x h.sender.toNat a).of_after (Only.announceShown _ x), Only.announceShown_loseSrc_heard s.m x h.sender.toNat a⟩
    rw [Mod.src, Mod.clk_announceShown]
    show (((s.m.heard x h.sender.toNat a).loseSrc x).src x).masters = _
    rw [Mod.src_loseSrc, Mod.src_heard]
  case refine_6 =>
    refine Does.of_onMod (exec_announceTimeout u s) rfl ⟨SourceLost.of_before rfl (Mod.sourceLost_loseSrc _ x), ?_, ?_⟩
    · rw [Mod.src_loseSrc, Mod.src_srcMap]
      cases (s.m.src (uplSrc u)).master <;> rfl
    · exact ((Only.srcMap s.m x _).weaken (by decide) (List.nil_subset _)).trans (Only.loseSrc _ x)
  case refine_7 =>
    exact Does.of_onMod (exec_syncTimeout u s) rfl ⟨s.m.sourceLost_loseSrc x, by rw [Mod.src_loseSrc], Only.loseSrc s.m x⟩
  case refine_8 =>
    exact Does.of_onMod (exec_ppsLoss s) rfl ⟨s.m.sourceLost_loseSrc .pps, by rw [Mod.src_loseSrc], Only.loseSrc s.m .pps⟩
  case refine_9 =>
    have htaken : (s.m.ptpTakes u h && s.m.flag F.TIME_PTP_P2P == peer && (peer || s.m.fromMaster u h)) = true := by
      rw [htakes, hp2p, beq_self_eq_true, Bool.and_self, Bool.true_and, Bool.or_eq_true]
      exact hpeer
    exact (exec_ptpDelayResponse u h peer delay s).trans (congrArg (fun m : Mod => (.next { s with m := m } : Out)) (if_pos htaken))

end Sys2Proof.Machine

end
